-- ==== Sys2Proof/Word.lean ====
section
/-! DEFINITION. The word types of the LMT-128 node and the two's-complement readings the chapters use.
Every register is 32 bits wide and bit 0 is the least significant bit (R3, R4). -/

namespace Sys2Proof

/-- A register, a sample word or a core word (R4, R72, R186). -/
abbrev Word := BitVec 32

/-- A commit word: kind 63:56, target 55:40, value 39:0 (R218). -/
abbrev CWord := BitVec 64

/-- One byte. -/
abbrev Byte := BitVec 8

/-- An instant of the model's clock, in nanoseconds. -/
abbrev Time := Nat

/-- The unsigned number `n` of `w` bits read as two's complement. -/
def signOf (w n : Nat) : Int := if n < 2 ^ (w - 1) then (n : Int) else (n : Int) - (2 ^ w : Nat)

/-- `x` in two's complement of `w` bits. -/
def unsignOf (w : Nat) (x : Int) : Nat := (x % ((2 ^ w : Nat) : Int)).toNat

/-- `x` limited to `lo`..`hi`. -/
def clampInt (lo hi x : Int) : Int := if x < lo then lo else if hi < x then hi else x

/-- `a / b` rounded to nearest with ties away from zero (R59, R78, R130); `b > 0`. -/
def roundDiv (a b : Int) : Int :=
  if 0 ≤ a then (2 * a + b) / (2 * b) else -((2 * (-a) + b) / (2 * b))

/-- Quotient truncated toward zero (R120, R394). -/
def truncDiv (a b : Int) : Int := Int.tdiv a b

end Sys2Proof
end

