-- ==== Sys2Proof/Syntax.lean ====
section
/-! DEFINITION. The commands of the node: one constructor per row of the operation table, with the row's operands.
A command is one whole step of the part (opcode_table.json): an instruction of a sequencer or of a core, a request of
the host, a commit of the program, or an event at a pin, a supply, a clock or a timer. What the command depends on and
the node cannot know by itself (an instant, a level, a measured value, the outcome of a test) is an operand.
`t` is the instant of the step on the model's clock. -/

namespace Sys2Proof

/-- Who makes a request (R353, R361): the host on the ring, or the service port. -/
inductive Port where
  | host
  | svc
deriving DecidableEq, Repr

/-- A Belvedere core (R186). -/
inductive CoreId where
  | a
  | b
deriving DecidableEq, Repr

/-- The crossings of R13, one constructor per direction. -/
inductive Crossing where
  | modlSeq | modhSeq | seqLim | limTrip | tripLim | tripDio | dioLim
  | limCoreA | limCoreB | coreALim | coreBLim | coreANvm | coreBNvm | nvmCoreA | nvmCoreB
  | coreAB | coreBA | limNvm | limLnkA | lnkALim | limLnkB | lnkBLim
  | limGls | tripGls | limPnl | aonLim
  | supTo (island : Fin 16) | toSup (island : Fin 16)
deriving DecidableEq, Repr

/-- What a scrub of one word finds (R136, R159). -/
inductive Scrub where
  | clean | corrected | uncorrectable
deriving DecidableEq, Repr

/-- The outcome of a bank's internal test (R81, R82): the failing step (0 none) and the data field of E17 that names it
with the measured value, or the new coefficients (range tag, member, offset, gain), the two-point current fits of IA and
IB in nA at 100 µA and 2,000 µA (R110). The manual names what the data field of E17 carries and gives no layout: it is an
operand. -/
structure TestResult where
  failStep : Nat
  failData : BitVec 64
  coefs : List (Nat × Nat × BitVec 24 × Word)
  fitA : Nat × Nat
  fitB : Nat × Nat
deriving DecidableEq, Repr, Inhabited

/-- The message header and payload of a request (R352). -/
structure Msg where
  type : Byte
  flags : Byte
  node : Byte
  seq : BitVec 16
  len : BitVec 16
  arg0 : Word
  epoch : BitVec 16
  arg1 : BitVec 16
  payload : List Byte
deriving DecidableEq, Repr, Inhabited

/-- What the steps of a start find (R373, R379): the contacts (R408), the port option contacts (R409), whether XT25
passes its check, which ledger copies pass their CRC-32C, which calibration banks fail theirs, the start test's measured
fits per bank and failing banks, whether the journal header passes, the row records that fail, whether the recorder
index and the retained state pass, whether each image reads back as it was stored, the correction maps that fail, the
end time of each step in µs from supplies valid (0xFFFF_FFFF for one that does not end by itself), and the measured
inputs in 10 mV. -/
structure StartInfo where
  contacts : BitVec 7
  pselA : Bool
  pselB : Bool
  xt25Ok : Bool
  ledgerOk0 : Bool
  ledgerOk1 : Bool
  calBad : List Nat
  fits : List ((Nat × Nat) × (Nat × Nat))
  bankBad : List Nat
  journalOk : Bool
  rowsBad : List Nat
  indexOk : Bool
  retainedOk : Bool
  imageOkA : Bool
  imageOkB : Bool
  mapsBad : List Nat
  ends : List Nat
  vin : BitVec 16 × BitVec 16
deriving DecidableEq, Repr, Inhabited

/-- The commands of the node. -/
inductive Instr where
  -- requests of the host and the clock islands (R6, R12–R17)
  | registerWrite (p : Port) (addr : Nat) (val : Word) (t : Time)
  | crossingTransfer (x : Crossing) (send : Option (BitVec 64))
  | xt25Fail (t : Time)
  | islandLockLost (i : Fin 16) (t : Time)
  | lockRegainTimeout (i : Fin 16)
  | islandWatchdogExpiry (i : Fin 16)
  | memoryEccUncorrectable (d : Fin 11)
  | domainCycle (t : Time)
  | domainBack (shadowOk : Bool) (t : Time)
  -- the snapshot (R20, R193)
  | tickBoundary (t : Time)
  | snapshotCopyComplete (c : CoreId)
  | snapshotSwap (c : CoreId)
  -- the front end (R34–R55)
  | afeConfigEdit (p : Port) (addr : Nat) (val : Word) (t : Time)
  | bridgeSupplyLimit (b : Fin 9)
  | bridgeSupplyLimitEnd (b : Fin 9)
  | loopSwitchStartClose (t : Time)
  | vloopOvercurrent (ma : List Nat) (t : Time)
  | vloopLow (v : BitVec 16) (i : BitVec 12)
  | vloopRecover (v : BitVec 16) (i : BitVec 12)
  | loopSwitchLimit (n : Fin 128) (t : Time)
  | loopRetry (n : Fin 128) (t : Time)
  | loopRetryEnd (n : Fin 128) (held : Bool) (t : Time)
  | clampConduct (n : Fin 132) (t : Time)
  | clampClear (n : Fin 132) (t : Time)
  | conversionResult (s : Fin 9) (uLow uUp : Int) (atCompliance clamp : Bool) (excUv : Int) (t : Time)
  -- the spare bank (R79–R88)
  | rotationIntervalExpiry (t : Time)
  | bsHandover (t : Time)
  | rotatingTestComplete (r : TestResult) (t : Time)
  | bsGiveBack (t : Time)
  | bsSelfTestComplete (r : TestResult) (t : Time)
  | rotctlForce (p : Port) (v : BitVec 4)
  | rotctlRetest (p : Port) (mask : BitVec 9)
  | rotctlInterval (p : Port) (v : BitVec 16) (t : Time)
  -- channel programs (R94–R107)
  | halt (s : Fin 9)
  | sel (s : Fin 9) (sets : BitVec 15) (pos : Fin 17) (t : Time)
  | selSpacingEnd (s : Fin 9) (t : Time)
  | exc (s : Fin 9) (src : Bool) (term : BitVec 2) (iexc : BitVec 11) (t : Time)
  | swp (s : Fin 9) (set2 : BitVec 16) (t : Time)
  | stl (s : Fin 9) (n : BitVec 16) (t : Time)
  | stlWaitEnd (s : Fin 9) (t : Time)
  | cnv (s : Fin 9) (filt : Fin 7) (k : Fin 4097) (t : Time)
  | pairSet (s : Fin 9) (half : Bool) (k : Fin 5) (t : Time)
  | pairFix (s : Fin 9) (half : Bool) (k : Fin 5) (t : Time)
  | pairRelease (s : Fin 9) (half : Bool)
  | chk (s : Fin 9) (filt : Fin 7) (t : Time)
  | chkVerdict (s : Fin 9) (ref first second : Int) (clamp : Bool) (t : Time)
  | put (s : Fin 9) (last : Bool) (t : Time)
  | waitt (s : Fin 9) (tmr : Fin 16)
  | scanTimerTick (i : Fin 16) (t : Time)
  | sync (s : Fin 9) (tmo : BitVec 8) (id : BitVec 3) (mask : BitVec 8) (t : Time)
  | syncRelease (id : BitVec 3)
  | syncTimeout (s : Fin 9) (t : Time)
  | loop (s : Fin 9) (ctr : Fin 4) (tgt : BitVec 9) (n : Fin 257)
  | jmp (s : Fin 9) (tgt : BitVec 9)
  | seqStop (p : Port) (s : Fin 9) (t : Time)
  | seqStart (p : Port) (s : Fin 9) (t : Time)
  | seqStoreWrite (p : Port) (s : Fin 9) (a : BitVec 9) (w : Word) (t : Time)
  | scanTimerPeriodWrite (p : Port) (i : Fin 16) (v : BitVec 27) (t : Time)
  | scanTimerPhaseWrite (p : Port) (i : Fin 16) (v : BitVec 27) (t : Time)
  -- Snowline (R118–R139)
  | limitEvaluate (t : Time)
  | delayDue (e : Fin 2048) (t : Time)
  | inhibitReleaseExpiry (i : Fin 64) (t : Time)
  | limitScrub (e : Fin 2048) (r : Scrub)
  | limStageEntry (p : Port) (idx : BitVec 11) (t : Time)
  | limStageIndex (p : Port) (idx : BitVec 11) (t : Time)
  | limStageSet (p : Port) (idx : BitVec 11) (t : Time)
  | limStageApply (t : Time)
  -- Pergola (R142–R159)
  | tripInputChange (n : Fin 64) (lvl : Bool) (t : Time)
  | glitchFilterPass (n : Fin 64) (t : Time)
  | acOutputChange (c : Fin 12) (v : Int) (t : Time)
  | fcEdge (f : Fin 4) (t : Time)
  | fcTimeout (f : Fin 4) (t : Time)
  | tripStoreScrub (w : Nat) (r : Scrub)
  -- alarms and call plans (R163–R182)
  | ackGroup (g : BitVec 16) (tick : Word) (t : Time)
  | silenceGroup (g : BitVec 16)
  | ackEntry (e : BitVec 16) (tick : Word) (t : Time)
  | shelveEntry (e : BitVec 16) (secs : BitVec 17) (t : Time)
  | unshelveEntry (e : BitVec 16) (t : Time)
  | outOfService (e : BitVec 16)
  | returnToService (e : BitVec 16) (t : Time)
  | shelveExpiry (e : Fin 2048) (t : Time)
  | startPlan (pl : BitVec 16) (cause : BitVec 9) (t : Time)
  | endPlan (pl : BitVec 16) (t : Time)
  | acceptLevel (pl : BitVec 16) (level : BitVec 3) (t : Time)
  | silencePlan (pl : BitVec 16) (t : Time)
  | armWatchKeeper (pl : BitVec 16) (t : Time)
  | disarmWatchKeeper (pl : BitVec 16) (t : Time)
  | selectWatch (target : BitVec 16) (engineer : BitVec 3) (t : Time)
  | planLevelTimer (pl : Fin 16) (t : Time)
  | acceptInputEdge (di : Fin 48) (t : Time)
  | watchCodeStable (code : BitVec 3) (t : Time)
  | wkPrewarning (pl : Fin 16) (t : Time)
  | wkExpiry (pl : Fin 16) (t : Time)
  | wkResetInput (di : Fin 48) (t : Time)
  | retainedMirrorWrite (t : Time)
  -- Belvedere (R186–R216)
  | coresLeaveReset (t : Time)
  | add (c : CoreId) (wd wa wb : BitVec 5)
  | sub (c : CoreId) (wd wa wb : BitVec 5)
  | adds (c : CoreId) (wd wa wb : BitVec 5)
  | subs (c : CoreId) (wd wa wb : BitVec 5)
  | and (c : CoreId) (wd wa wb : BitVec 5)
  | or (c : CoreId) (wd wa wb : BitVec 5)
  | xor (c : CoreId) (wd wa wb : BitVec 5)
  | nor (c : CoreId) (wd wa wb : BitVec 5)
  | sll (c : CoreId) (wd wa wb : BitVec 5)
  | srl (c : CoreId) (wd wa wb : BitVec 5)
  | sra (c : CoreId) (wd wa wb : BitVec 5)
  | slt (c : CoreId) (wd wa wb : BitVec 5)
  | sltu (c : CoreId) (wd wa wb : BitVec 5)
  | min (c : CoreId) (wd wa wb : BitVec 5)
  | max (c : CoreId) (wd wa wb : BitVec 5)
  | minu (c : CoreId) (wd wa wb : BitVec 5)
  | maxu (c : CoreId) (wd wa wb : BitVec 5)
  | abs (c : CoreId) (wd wa wb : BitVec 5)
  | clz (c : CoreId) (wd wa wb : BitVec 5)
  | sxt (c : CoreId) (wd wa wb : BitVec 5)
  | zxt (c : CoreId) (wd wa wb : BitVec 5)
  | mul (c : CoreId) (wd wa wb : BitVec 5)
  | mulh (c : CoreId) (wd wa wb : BitVec 5)
  | mulhu (c : CoreId) (wd wa wb : BitVec 5)
  | muls (c : CoreId) (wd wa wb : BitVec 5)
  | div (c : CoreId) (wd wa wb : BitVec 5)
  | divu (c : CoreId) (wd wa wb : BitVec 5)
  | rem (c : CoreId) (wd wa wb : BitVec 5)
  | remu (c : CoreId) (wd wa wb : BitVec 5)
  | jr (c : CoreId) (wd wa wb : BitVec 5)
  | jalr (c : CoreId) (wd wa wb : BitVec 5)
  | addi (c : CoreId) (wd wa : BitVec 5) (imm : BitVec 16)
  | addis (c : CoreId) (wd wa : BitVec 5) (imm : BitVec 16)
  | andi (c : CoreId) (wd wa : BitVec 5) (imm : BitVec 16)
  | ori (c : CoreId) (wd wa : BitVec 5) (imm : BitVec 16)
  | xori (c : CoreId) (wd wa : BitVec 5) (imm : BitVec 16)
  | slti (c : CoreId) (wd wa : BitVec 5) (imm : BitVec 16)
  | sltiu (c : CoreId) (wd wa : BitVec 5) (imm : BitVec 16)
  | lui (c : CoreId) (wd wa : BitVec 5) (imm : BitVec 16)
  | slli (c : CoreId) (wd wa wb : BitVec 5) (s : BitVec 5)
  | srli (c : CoreId) (wd wa wb : BitVec 5) (s : BitVec 5)
  | srai (c : CoreId) (wd wa wb : BitVec 5) (s : BitVec 5)
  | sxti (c : CoreId) (wd wa wb : BitVec 5) (s : BitVec 5)
  | zxti (c : CoreId) (wd wa wb : BitVec 5) (s : BitVec 5)
  | lw (c : CoreId) (wd wa : BitVec 5) (imm : BitVec 16)
  | lh (c : CoreId) (wd wa : BitVec 5) (imm : BitVec 16)
  | lhu (c : CoreId) (wd wa : BitVec 5) (imm : BitVec 16)
  | lb (c : CoreId) (wd wa : BitVec 5) (imm : BitVec 16)
  | lbu (c : CoreId) (wd wa : BitVec 5) (imm : BitVec 16)
  | sw (c : CoreId) (wd wa : BitVec 5) (imm : BitVec 16)
  | sh (c : CoreId) (wd wa : BitVec 5) (imm : BitVec 16)
  | sb (c : CoreId) (wd wa : BitVec 5) (imm : BitVec 16)
  | beq (c : CoreId) (wa wb : BitVec 5) (off : BitVec 16)
  | bne (c : CoreId) (wa wb : BitVec 5) (off : BitVec 16)
  | blt (c : CoreId) (wa wb : BitVec 5) (off : BitVec 16)
  | bge (c : CoreId) (wa wb : BitVec 5) (off : BitVec 16)
  | bltu (c : CoreId) (wa wb : BitVec 5) (off : BitVec 16)
  | bgeu (c : CoreId) (wa wb : BitVec 5) (off : BitVec 16)
  | j (c : CoreId) (off : BitVec 26)
  | jal (c : CoreId) (off : BitVec 26)
  | smp (c : CoreId) (wd wa : BitVec 5) (imm : BitVec 16)
  | lst (c : CoreId) (wd wa : BitVec 5) (imm : BitVec 16)
  | gst (c : CoreId) (wd wa : BitVec 5) (imm : BitVec 16)
  | tmaArm (c : CoreId) (wd wa : BitVec 5) (imm : BitVec 15)
  | tmaDisarm (c : CoreId) (wd wa : BitVec 5) (imm : BitVec 15)
  | tmt (c : CoreId) (wd wa : BitVec 5) (imm : BitVec 16)
  | evw (c : CoreId) (wd wa wb : BitVec 5) (fn : BitVec 11)
  | cmt (c : CoreId) (wd wa wb : BitVec 5) (fn : BitVec 11) (t : Time)
  | cmte (c : CoreId) (wd wa wb : BitVec 5) (fn : BitVec 11) (t : Time)
  | snap (c : CoreId) (wd wa wb : BitVec 5) (fn : BitVec 11) (t : Time)
  | sys (c : CoreId) (wx sr : BitVec 5) (code : BitVec 11)
  | brk (c : CoreId) (wx sr : BitVec 5) (code : BitVec 11)
  | rsm (c : CoreId) (wx sr : BitVec 5) (code : BitVec 11)
  | mfs (c : CoreId) (wx sr : BitVec 5) (code : BitVec 11)
  | mts (c : CoreId) (wx sr : BitVec 5) (code : BitVec 11)
  | pairedReadServed (t : Time)
  | fetchLineArrival (c : CoreId) (line : BitVec 27) (ok : Bool)
  | sramEccError (c : CoreId) (t : Time)
  -- the Gatehouse (R217–R229)
  | cmteDeadline (t : Time)
  | selfCheckComplete (failA failB : Fin 5) (crcA crcB : Word) (t : Time)
  | resyncBulkDone (dirty : Nat)
  | resyncFinalDone (us : Word) (dirty : Nat) (t : Time)
  | twnReadmit (p : Port) (v : BitVec 2) (t : Time)
  -- commits of Snowline, Pergola and the switching (R218, R126, R238)
  | doSet (n : BitVec 16) (on : Bool) (t : Time)
  | derivedChannelWrite (ch : BitVec 16) (w : Word) (t : Time)
  | inhibitBit (i : BitVec 16) (on : Bool) (t : Time)
  | counterReset (n : BitVec 16)
  -- digital inputs and outputs (R234–R256)
  | diFilterChange (n : Fin 48) (lvl : Bool) (t : Time)
  | diCountEdge (n : Fin 16) (rising : Bool)
  | counterMirror
  | freqGateEnd (f : Fin 4) (k : Nat) (spanTicks : Nat)
  | wireBreakSet (n : Fin 48) (i : BitVec 16) (t : Time)
  | wireBreakClear (n : Fin 48) (i : BitVec 16) (t : Time)
  | doThermalShutdown (n : Fin 48) (t : Time)
  | doThermalRestart (n : Fin 48)
  | openLoadSet (n : Fin 48) (offState : Bool)
  | openLoadClear (n : Fin 48) (offState : Bool)
  | offPulseStart (n : Fin 48) (t : Time)
  | offPulseEnd (n : Fin 48) (below4V : Bool) (t : Time)
  | backfeedDetect (n : Fin 48)
  | backfeedClear (n : Fin 48)
  | crosswireDetect (b : Fin 48)
  | pairScanStart (p : Port) (t : Time)
  | pairScanAbort (p : Port) (t : Time)
  | pairScanStep (above10V : List (Fin 48)) (t : Time)
  | vfWarn (g : Fin 4) (v : BitVec 16)
  | vfWarnEnd (g : Fin 4) (v : BitVec 16)
  | vfHold (g : Fin 4) (v : BitVec 16)
  | vfRestoring (g : Fin 4) (v : BitVec 16) (warn : Bool) (t : Time)
  | vfOff (g : Fin 4) (v : BitVec 16) (t : Time)
  | restoreSlot (g : Fin 4) (v : BitVec 16) (steady : Bool) (t : Time)
  | dioConfigEdit (p : Port) (addr : Nat) (val : Word) (t : Time)
  -- Glissade (R260–R277)
  | movea (ax : BitVec 16) (v : Word)
  | mover (ax : BitVec 16) (v : Word)
  | jog (ax : BitVec 16) (v : Word)
  | axisStop (ax : BitVec 16)
  | estop (ax : BitVec 16)
  | setpar (ax : BitVec 16) (par : BitVec 4) (v : Word)
  | home (ax : BitVec 16)
  | axisEnable (ax : BitVec 16)
  | axisDisable (ax : BitVec 16)
  | tblwr (ax : BitVec 16) (tbl : Bool) (k : BitVec 8) (v : BitVec 16)
  | tblsel (ax : BitVec 16) (tbl switch publish : Bool)
  | gtgt (ax : BitVec 16) (v : Word)
  | ggo (ax : BitVec 16) (mask : Word)
  | preset (ax : BitVec 16) (v : Word)
  | axisClear (ax : BitVec 16)
  | profileUpdate (ax : Fin 6) (ia ib : BitVec 12)
  | moveComplete (ax : Fin 6)
  | iholdTimer (ax : Fin 6)
  | driverFault (ax : Fin 6)
  | loopLost (ax : Fin 6) (phaseB : Bool) (meas : BitVec 16)
  | estopLineAssert (ax : Fin 6)
  | emergencyRampEnd (ax : Fin 6)
  | limitInputActive (ax : Fin 6) (positive : Bool)
  | homeEdgeQualified (ax : Fin 6) (edgePos : Word)
  | homeDistanceFail (ax : Fin 6)
  | homeComplete (ax : Fin 6)
  -- Glasshouse (R282–R298)
  | draw (target : BitVec 16) (r : BitVec 6) (h : BitVec 3) (pix : BitVec 16)
  | update (target : BitVec 16) (r0 r1 : BitVec 6) (c0 c1 : BitVec 7) (tag : BitVec 6)
  | copy (target : BitVec 16) (r0 r1 : BitVec 6) (c0 c1 : BitVec 7) (pic : BitVec 4)
  | panelClear (target : BitVec 16) (tag : BitVec 6)
  | journalCopy
  | rowPhaseEnd
  | pumpReady (vrst vsel : BitVec 16)
  | pumpIdleStop
  | panelTempRead (ohm10 : BitVec 16) (centi : BitVec 16) (t : Time)
  | pumpFault (vrst vsel : BitVec 16)
  | pumpRestart
  | pnlRetry (p : Port) (t : Time)
  | mapCommit (p : Port) (map : BitVec 2) (t : Time)
  -- the calendar clock (R300–R315)
  | pd0PowerUp (t : Time)
  | calendarSecond (t : Time)
  | rtcSecRead (p : Option Port) (t : Time)
  | rtcCentRead (p : Option Port)
  | rtcShadowTimeout (p : Option Port)
  | rtcSetAtSecond (p : Port)
  | rtcSetImmediate (p : Port)
  | rtcShift (p : Port) (neg : Bool) (count : BitVec 15)
  | dstForward (p : Port)
  | dstBack (p : Port)
  | rtcAdjustApply (t : Time)
  | trimAccumulate
  | rtcTrimWrite (p : Port) (v : BitVec 13) (t : Time)
  | trimMeasureMains (p : Port) (nom : Bool) (t : Time)
  | trimMeasureHost (p : Port) (t : Time)
  | trimMeasureAbort (p : Port) (t : Time)
  | trimMeasureEnd (lostRef : Bool) (e : Int) (t : Time)
  | alarmEnable (p : Port) (k : Fin 4) (t : Time)
  | calendarAlarmFire (k : Fin 4) (t : Time)
  | alarmFlagClear (p : Port) (k : Fin 4)
  | xt32Fail (t : Time)
  | xt32Restore
  | cellSample (mv vrtc : BitVec 16)
  | vrtcChangeover (toMain : Bool) (vrtc vcell : BitVec 16)
  -- Moraine (R318–R333)
  | eventTrigger (t : Time)
  | recordWrite (t : Time)
  | tokenRefill (c : Fin 128) (t : Time)
  | suppressionSummary (c : Fin 128) (t : Time)
  | codecfgWrite (p : Port) (c : Fin 128) (v : Word) (t : Time)
  | ssaddrWrite (p : Port) (k : Fin 16) (i : Fin 6) (v : Word) (t : Time)
  | cursorAt (p : Port) (minsev : BitVec 2)
  | cursorOldest (p : Port) (minsev : BitVec 2)
  | cursorNewest (p : Port) (minsev : BitVec 2)
  | cursorNext (p : Port) (minsev : BitVec 2)
  | cursorPrev (p : Port) (minsev : BitVec 2)
  | windowRead (p : Port) (i : Fin 16)
  | indexRebuildDone (badSlots : List Nat) (ms : Word) (t : Time)
  -- Promenade (R337–R366)
  | ringHeaderReceived (portB : Bool) (etype : BitVec 16) (hdr : List Byte) (t : Time)
  | frameForward (portB : Bool) (etype : BitVec 16) (tagged fcsOk : Bool) (hdr area : List Byte) (t : Time)
  | portLinkDown (portB : Bool)
  | portBroken (portB : Bool)
  | addressContactChange (now : BitVec 7)
  | mbxRead (p : Port) (m : Msg) (t : Time)
  | mbxWrite (p : Port) (m : Msg) (t : Time)
  | readCh (p : Port) (m : Msg) (t : Time)
  | ack (p : Port) (m : Msg) (t : Time)
  | hostevt (p : Port) (m : Msg) (t : Time)
  | imageBegin (p : Port) (m : Msg) (t : Time)
  | imageBlock (p : Port) (m : Msg) (t : Time)
  | imageEnd (p : Port) (m : Msg) (t : Time)
  | imageCheckDone (t : Time)
  | imageSwitch (p : Port) (m : Msg) (t : Time)
  | restart (p : Port) (m : Msg) (t : Time)
  | digestNow (p : Port) (m : Msg) (t : Time)
  | countclr (p : Port) (m : Msg) (t : Time)
  | mbxResponse (named : Byte) (t : Time)
  | digestPass (t : Time)
  | svcSessionOpen
  | svcSessionClose
  | svcFrame (m : Msg) (crc : Word) (t : Time)
  | svcFrameTimeout
  | keyProvision (p : Port)
  -- supplies, start and repair (R368–R386)
  | vinPresent (b : Bool) (v : BitVec 16)
  | vinLost (b : Bool) (v : BitVec 16)
  | nodeStart (info : StartInfo) (t : Time)
  | startStepTimeout (step : Fin 16) (t : Time)
  | alarmReady (t : Time)
  | startClose (t : Time)
  | supplyLoss (mv : BitVec 16) (t : Time)
  | holdoverRideThrough (mv : BitVec 16) (t : Time)
  | holdoverShutdown (t : Time)
  | holdChargeDone (ms : Word) (fromBelow1V : Bool) (mv : BitVec 16)
  | holdChargeTimeout (ms : Word) (mv : BitVec 16)
  | pwrCycleRequest (p : Port) (dom : BitVec 4) (t : Time)
  | tempSample (ts0 ts1 ts2 ts3 : BitVec 16)
  | thermalT85 (sensor : Fin 4) (temp : BitVec 16)
  | thermalT85End (sensor : Fin 4) (temp : BitVec 16) (t : Time)
  | thermalT100 (sensor : Fin 4) (temp : BitVec 16) (t : Time)
  | thermalT100End (sensor : Fin 4) (temp : BitVec 16) (t : Time)
  | lockOpen (p : Port) (code : BitVec 16) (t : Time)
  | lockClose (p : Port)
  | lockTimeout (t : Time)
  | thawClear (p : Port) (steps : BitVec 16) (t : Time)
  -- the Rante window (R391–R398)
  | ranteRead (p : Port) (m : Msg) (t : Time)
  | ranteWrite (p : Port) (m : Msg) (t : Time)
  | rantePairTimeout (t : Time)
  | ranteEnable (p : Port) (t : Time)
  | ranteDisable (p : Port) (t : Time)
  -- rows that stand later in the table
  | islandLockRegained (i : Fin 16)
  | portLinkUp (portB : Bool)
  | cycleWithoutHeader (portB : Bool)
  | doCurrentLimit (n : Fin 48)
  | doCurrentLimitEnd (n : Fin 48)
  | limitInputInactive (ax : Fin 6) (positive : Bool)
  | segmentFrame
  | operatingTimeMirror (t : Time)
  | patternToggle (pl : Fin 16) (lv : Fin 4) (t : Time)
  | orderedRestart (t : Time)
  | vbusAttach
  | deviceConfigured
deriving DecidableEq, Repr

end Sys2Proof
end

