-- ==== Sys2Proof/Decode.lean ====
section
/-! DEFINITION. Decoding. The operation table gives no row any bits (each row lists no field), so no word spells a
command (`decodeTableWord`). The encodings that the manual itself gives are here: the 32-bit words of the Belvedere cores
(R197–R209) with their encoder, and the 24-bit words of the scan sequencers (R94). -/

namespace Sys2Proof

/-- No row of the operation table has an encoding. -/
def decodeTableWord (_nbits _w : Nat) : Option Instr := none

/-! ### Words of the cores (R197) -/

/-- What a word of a core is: an instruction, or ILLEGAL with its detail (R198, R212). -/
inductive CoreDecode where
  | instr (i : Instr)
  | illegal (detail : Nat)
deriving DecidableEq, Repr

/-- The major opcode, bits 31:26 (R197). -/
def wordMajor (w : Word) : BitVec 6 := w.extractLsb' 26 6

/-- Bits 25:21: wd of formats A and B, wa of format C, sub of format S. -/
def wordF1 (w : Word) : BitVec 5 := w.extractLsb' 21 5

/-- Bits 20:16: wa of formats A and B, wb of format C, wx of format S. -/
def wordF2 (w : Word) : BitVec 5 := w.extractLsb' 16 5

/-- Bits 15:11: wb of format A, sr of format S. -/
def wordF3 (w : Word) : BitVec 5 := w.extractLsb' 11 5

/-- Bits 10:0: fn of format A, code of format S. -/
def wordFn (w : Word) : BitVec 11 := w.extractLsb' 0 11

/-- Bits 15:0: imm16 of format B, off16 of format C. -/
def wordImm (w : Word) : BitVec 16 := w.extractLsb' 0 16

/-- Bits 25:0: off26 of format J. -/
def wordOff (w : Word) : BitVec 26 := w.extractLsb' 0 26

/-- Detail of ILLEGAL for a reserved major (R212). -/
def badMajor : CoreDecode := .illegal 1

/-- Detail of ILLEGAL for a reserved fn or sub-operation (R212). -/
def badFn : CoreDecode := .illegal 2

/-- Major 0x00 by fn (R200). -/
def decodeAlu (c : CoreId) (w : Word) : CoreDecode :=
  let wd := wordF1 w
  let wa := wordF2 w
  let wb := wordF3 w
  match (wordFn w).toNat with
  | 0x00 => .instr (.add c wd wa wb)
  | 0x01 => .instr (.sub c wd wa wb)
  | 0x02 => .instr (.adds c wd wa wb)
  | 0x03 => .instr (.subs c wd wa wb)
  | 0x04 => .instr (.and c wd wa wb)
  | 0x05 => .instr (.or c wd wa wb)
  | 0x06 => .instr (.xor c wd wa wb)
  | 0x07 => .instr (.nor c wd wa wb)
  | 0x08 => .instr (.sll c wd wa wb)
  | 0x09 => .instr (.srl c wd wa wb)
  | 0x0A => .instr (.sra c wd wa wb)
  | 0x0B => .instr (.slt c wd wa wb)
  | 0x0C => .instr (.sltu c wd wa wb)
  | 0x0D => .instr (.min c wd wa wb)
  | 0x0E => .instr (.max c wd wa wb)
  | 0x0F => .instr (.minu c wd wa wb)
  | 0x10 => .instr (.maxu c wd wa wb)
  | 0x11 => .instr (.abs c wd wa wb)
  | 0x12 => .instr (.clz c wd wa wb)
  | 0x13 => .instr (.sxt c wd wa wb)
  | 0x14 => .instr (.zxt c wd wa wb)
  | _ => badFn

/-- Major 0x01 by fn (R201). -/
def decodeMulDiv (c : CoreId) (w : Word) : CoreDecode :=
  let wd := wordF1 w
  let wa := wordF2 w
  let wb := wordF3 w
  match (wordFn w).toNat with
  | 0 => .instr (.mul c wd wa wb)
  | 1 => .instr (.mulh c wd wa wb)
  | 2 => .instr (.mulhu c wd wa wb)
  | 3 => .instr (.muls c wd wa wb)
  | 4 => .instr (.div c wd wa wb)
  | 5 => .instr (.divu c wd wa wb)
  | 6 => .instr (.rem c wd wa wb)
  | 7 => .instr (.remu c wd wa wb)
  | _ => badFn

/-- Major 0x02 by fn (R199). -/
def decodeJumpReg (c : CoreId) (w : Word) : CoreDecode :=
  match (wordFn w).toNat with
  | 0 => .instr (.jr c (wordF1 w) (wordF2 w) (wordF3 w))
  | 1 => .instr (.jalr c (wordF1 w) (wordF2 w) (wordF3 w))
  | _ => badFn

/-- Major 0x0C: sub-operation fn 10:5, amount fn 4:0 (R202). -/
def decodeShift (c : CoreId) (w : Word) : CoreDecode :=
  let n : BitVec 5 := w.extractLsb' 0 5
  match (w.extractLsb' 5 6).toNat with
  | 0 => .instr (.slli c (wordF1 w) (wordF2 w) (wordF3 w) n)
  | 1 => .instr (.srli c (wordF1 w) (wordF2 w) (wordF3 w) n)
  | 2 => .instr (.srai c (wordF1 w) (wordF2 w) (wordF3 w) n)
  | 3 => .instr (.sxti c (wordF1 w) (wordF2 w) (wordF3 w) n)
  | 4 => .instr (.zxti c (wordF1 w) (wordF2 w) (wordF3 w) n)
  | _ => badFn

/-- Major 0x33: bit D of imm16 chooses (R205). -/
def decodeTma (c : CoreId) (w : Word) : CoreDecode :=
  let imm : BitVec 15 := w.extractLsb' 0 15
  .instr (if w.getLsbD 15 then .tmaDisarm c (wordF1 w) (wordF2 w) imm else .tmaArm c (wordF1 w) (wordF2 w) imm)

/-- Major 0x38 by sub (R209). -/
def decodeSystem (c : CoreId) (w : Word) : CoreDecode :=
  match (wordF1 w).toNat with
  | 0 => .instr (.sys c (wordF2 w) (wordF3 w) (wordFn w))
  | 1 => .instr (.brk c (wordF2 w) (wordF3 w) (wordFn w))
  | 2 => .instr (.rsm c (wordF2 w) (wordF3 w) (wordFn w))
  | 3 => .instr (.mfs c (wordF2 w) (wordF3 w) (wordFn w))
  | 4 => .instr (.mts c (wordF2 w) (wordF3 w) (wordFn w))
  | _ => badFn

/-- A word of core `c`, by its major (R199). `t` is the instant that the three commit instructions carry. -/
def decodeCore (c : CoreId) (t : Time) (w : Word) : CoreDecode :=
  let a := wordF1 w
  let b := wordF2 w
  let imm := wordImm w
  match (wordMajor w).toNat with
  | 0x00 => decodeAlu c w
  | 0x01 => decodeMulDiv c w
  | 0x02 => decodeJumpReg c w
  | 0x04 => .instr (.addi c a b imm)
  | 0x05 => .instr (.addis c a b imm)
  | 0x06 => .instr (.andi c a b imm)
  | 0x07 => .instr (.ori c a b imm)
  | 0x08 => .instr (.xori c a b imm)
  | 0x09 => .instr (.slti c a b imm)
  | 0x0A => .instr (.sltiu c a b imm)
  | 0x0B => .instr (.lui c a b imm)
  | 0x0C => decodeShift c w
  | 0x10 => .instr (.lw c a b imm)
  | 0x11 => .instr (.lh c a b imm)
  | 0x12 => .instr (.lhu c a b imm)
  | 0x13 => .instr (.lb c a b imm)
  | 0x14 => .instr (.lbu c a b imm)
  | 0x16 => .instr (.sw c a b imm)
  | 0x17 => .instr (.sh c a b imm)
  | 0x18 => .instr (.sb c a b imm)
  | 0x20 => .instr (.beq c a b imm)
  | 0x21 => .instr (.bne c a b imm)
  | 0x22 => .instr (.blt c a b imm)
  | 0x23 => .instr (.bge c a b imm)
  | 0x24 => .instr (.bltu c a b imm)
  | 0x25 => .instr (.bgeu c a b imm)
  | 0x28 => .instr (.j c (wordOff w))
  | 0x29 => .instr (.jal c (wordOff w))
  | 0x30 => .instr (.smp c a b imm)
  | 0x31 => .instr (.lst c a b imm)
  | 0x32 => .instr (.gst c a b imm)
  | 0x33 => decodeTma c w
  | 0x34 => .instr (.evw c a b (wordF3 w) (wordFn w))
  | 0x35 => .instr (.cmt c a b (wordF3 w) (wordFn w) t)
  | 0x36 => .instr (.cmte c a b (wordF3 w) (wordFn w) t)
  | 0x37 => .instr (.snap c a b (wordF3 w) (wordFn w) t)
  | 0x38 => decodeSystem c w
  | 0x39 => .instr (.tmt c a b imm)
  | _ => badMajor

/-! ### Encoding words of the cores -/

/-- Format A. -/
def formatA (major : BitVec 6) (wd wa wb : BitVec 5) (fn : BitVec 11) : Word := major ++ wd ++ wa ++ wb ++ fn

/-- Format B; format C has its fields at the same places. -/
def formatB (major : BitVec 6) (wd wa : BitVec 5) (imm : BitVec 16) : Word := major ++ wd ++ wa ++ imm

/-- Format J. -/
def formatJ (major : BitVec 6) (off : BitVec 26) : Word := major ++ off

/-- Format S, major 0x38. -/
def formatS (sub wx sr : BitVec 5) (code : BitVec 11) : Word := formatA 0x38 sub wx sr code

/-- The shift word of a sub-operation (R202). -/
def formatShift (sub : BitVec 6) (wd wa wb n : BitVec 5) : Word := formatA 0x0C wd wa wb (sub ++ n)

/-- The word that encodes an instruction of a core; none for any other command. -/
def encodeCore (i : Instr) : Option Word :=
  match i with
  | .add _ wd wa wb => some (formatA 0 wd wa wb 0x00)
  | .sub _ wd wa wb => some (formatA 0 wd wa wb 0x01)
  | .adds _ wd wa wb => some (formatA 0 wd wa wb 0x02)
  | .subs _ wd wa wb => some (formatA 0 wd wa wb 0x03)
  | .and _ wd wa wb => some (formatA 0 wd wa wb 0x04)
  | .or _ wd wa wb => some (formatA 0 wd wa wb 0x05)
  | .xor _ wd wa wb => some (formatA 0 wd wa wb 0x06)
  | .nor _ wd wa wb => some (formatA 0 wd wa wb 0x07)
  | .sll _ wd wa wb => some (formatA 0 wd wa wb 0x08)
  | .srl _ wd wa wb => some (formatA 0 wd wa wb 0x09)
  | .sra _ wd wa wb => some (formatA 0 wd wa wb 0x0A)
  | .slt _ wd wa wb => some (formatA 0 wd wa wb 0x0B)
  | .sltu _ wd wa wb => some (formatA 0 wd wa wb 0x0C)
  | .min _ wd wa wb => some (formatA 0 wd wa wb 0x0D)
  | .max _ wd wa wb => some (formatA 0 wd wa wb 0x0E)
  | .minu _ wd wa wb => some (formatA 0 wd wa wb 0x0F)
  | .maxu _ wd wa wb => some (formatA 0 wd wa wb 0x10)
  | .abs _ wd wa wb => some (formatA 0 wd wa wb 0x11)
  | .clz _ wd wa wb => some (formatA 0 wd wa wb 0x12)
  | .sxt _ wd wa wb => some (formatA 0 wd wa wb 0x13)
  | .zxt _ wd wa wb => some (formatA 0 wd wa wb 0x14)
  | .mul _ wd wa wb => some (formatA 1 wd wa wb 0)
  | .mulh _ wd wa wb => some (formatA 1 wd wa wb 1)
  | .mulhu _ wd wa wb => some (formatA 1 wd wa wb 2)
  | .muls _ wd wa wb => some (formatA 1 wd wa wb 3)
  | .div _ wd wa wb => some (formatA 1 wd wa wb 4)
  | .divu _ wd wa wb => some (formatA 1 wd wa wb 5)
  | .rem _ wd wa wb => some (formatA 1 wd wa wb 6)
  | .remu _ wd wa wb => some (formatA 1 wd wa wb 7)
  | .jr _ wd wa wb => some (formatA 2 wd wa wb 0)
  | .jalr _ wd wa wb => some (formatA 2 wd wa wb 1)
  | .addi _ wd wa imm => some (formatB 0x04 wd wa imm)
  | .addis _ wd wa imm => some (formatB 0x05 wd wa imm)
  | .andi _ wd wa imm => some (formatB 0x06 wd wa imm)
  | .ori _ wd wa imm => some (formatB 0x07 wd wa imm)
  | .xori _ wd wa imm => some (formatB 0x08 wd wa imm)
  | .slti _ wd wa imm => some (formatB 0x09 wd wa imm)
  | .sltiu _ wd wa imm => some (formatB 0x0A wd wa imm)
  | .lui _ wd wa imm => some (formatB 0x0B wd wa imm)
  | .slli _ wd wa wb n => some (formatShift 0 wd wa wb n)
  | .srli _ wd wa wb n => some (formatShift 1 wd wa wb n)
  | .srai _ wd wa wb n => some (formatShift 2 wd wa wb n)
  | .sxti _ wd wa wb n => some (formatShift 3 wd wa wb n)
  | .zxti _ wd wa wb n => some (formatShift 4 wd wa wb n)
  | .lw _ wd wa imm => some (formatB 0x10 wd wa imm)
  | .lh _ wd wa imm => some (formatB 0x11 wd wa imm)
  | .lhu _ wd wa imm => some (formatB 0x12 wd wa imm)
  | .lb _ wd wa imm => some (formatB 0x13 wd wa imm)
  | .lbu _ wd wa imm => some (formatB 0x14 wd wa imm)
  | .sw _ wd wa imm => some (formatB 0x16 wd wa imm)
  | .sh _ wd wa imm => some (formatB 0x17 wd wa imm)
  | .sb _ wd wa imm => some (formatB 0x18 wd wa imm)
  | .beq _ wa wb off => some (formatB 0x20 wa wb off)
  | .bne _ wa wb off => some (formatB 0x21 wa wb off)
  | .blt _ wa wb off => some (formatB 0x22 wa wb off)
  | .bge _ wa wb off => some (formatB 0x23 wa wb off)
  | .bltu _ wa wb off => some (formatB 0x24 wa wb off)
  | .bgeu _ wa wb off => some (formatB 0x25 wa wb off)
  | .j _ off => some (formatJ 0x28 off)
  | .jal _ off => some (formatJ 0x29 off)
  | .smp _ wd wa imm => some (formatB 0x30 wd wa imm)
  | .lst _ wd wa imm => some (formatB 0x31 wd wa imm)
  | .gst _ wd wa imm => some (formatB 0x32 wd wa imm)
  | .tmaArm _ wd wa imm => some (formatB 0x33 wd wa ((0 : BitVec 1) ++ imm))
  | .tmaDisarm _ wd wa imm => some (formatB 0x33 wd wa ((1 : BitVec 1) ++ imm))
  | .tmt _ wd wa imm => some (formatB 0x39 wd wa imm)
  | .evw _ wd wa wb fn => some (formatA 0x34 wd wa wb fn)
  | .cmt _ wd wa wb fn _ => some (formatA 0x35 wd wa wb fn)
  | .cmte _ wd wa wb fn _ => some (formatA 0x36 wd wa wb fn)
  | .snap _ wd wa wb fn _ => some (formatA 0x37 wd wa wb fn)
  | .sys _ wx sr code => some (formatS 0 wx sr code)
  | .brk _ wx sr code => some (formatS 1 wx sr code)
  | .rsm _ wx sr code => some (formatS 2 wx sr code)
  | .mfs _ wx sr code => some (formatS 3 wx sr code)
  | .mts _ wx sr code => some (formatS 4 wx sr code)
  | _ => none

/-- The core and the instant that an instruction of a core carries, as far as it carries them. -/
def Instr.coreArgs (i : Instr) (t : Time) : Option (CoreId × Time) :=
  match i with
  | .add c _ _ _ | .sub c _ _ _ | .adds c _ _ _ | .subs c _ _ _ | .and c _ _ _ | .or c _ _ _ | .xor c _ _ _
  | .nor c _ _ _ | .sll c _ _ _ | .srl c _ _ _ | .sra c _ _ _ | .slt c _ _ _ | .sltu c _ _ _ | .min c _ _ _
  | .max c _ _ _ | .minu c _ _ _ | .maxu c _ _ _ | .abs c _ _ _ | .clz c _ _ _ | .sxt c _ _ _ | .zxt c _ _ _
  | .mul c _ _ _ | .mulh c _ _ _ | .mulhu c _ _ _ | .muls c _ _ _ | .div c _ _ _ | .divu c _ _ _ | .rem c _ _ _
  | .remu c _ _ _ | .jr c _ _ _ | .jalr c _ _ _ | .addi c _ _ _ | .addis c _ _ _ | .andi c _ _ _ | .ori c _ _ _
  | .xori c _ _ _ | .slti c _ _ _ | .sltiu c _ _ _ | .lui c _ _ _ | .slli c _ _ _ _ | .srli c _ _ _ _
  | .srai c _ _ _ _ | .sxti c _ _ _ _ | .zxti c _ _ _ _ | .lw c _ _ _ | .lh c _ _ _ | .lhu c _ _ _ | .lb c _ _ _
  | .lbu c _ _ _ | .sw c _ _ _ | .sh c _ _ _ | .sb c _ _ _ | .beq c _ _ _ | .bne c _ _ _ | .blt c _ _ _
  | .bge c _ _ _ | .bltu c _ _ _ | .bgeu c _ _ _ | .j c _ | .jal c _ | .smp c _ _ _ | .lst c _ _ _ | .gst c _ _ _
  | .tmaArm c _ _ _ | .tmaDisarm c _ _ _ | .tmt c _ _ _ | .evw c _ _ _ _ | .sys c _ _ _ | .brk c _ _ _
  | .rsm c _ _ _ | .mfs c _ _ _ | .mts c _ _ _ => some (c, t)
  | .cmt c _ _ _ _ t' | .cmte c _ _ _ _ t' | .snap c _ _ _ _ t' => some (c, t')
  | _ => none

/-! ### Words of the scan sequencers (R94) -/

/-- A number as an element of `Fin (n + 1)`, if it is one. -/
def finOf (n v : Nat) : Option (Fin (n + 1)) := if h : v < n + 1 then some ⟨v, h⟩ else none

/-- PAIR by MODE: SET, FIX, and RELEASE with K 0; its reserved bits 16:3 are 0. -/
def decodePair (q : Fin 9) (t : Time) (w : BitVec 24) : Option Instr :=
  if w.extractLsb' 3 14 ≠ 0 then none
  else
    let half := w.getLsbD 17
    match (w.extractLsb' 18 2).toNat, finOf 4 (w.extractLsb' 0 3).toNat with
    | 0, some k => some (.pairSet q half k t)
    | 1, some k => some (.pairFix q half k t)
    | 2, some k => if k = 0 then some (.pairRelease q half) else none
    | _, _ => none

/-- The instruction that word `w` is for sequencer `q`, by its opcode in bits 23:20; none where an opcode is reserved, a
reserved bit is 1 or a field holds a value that its instruction does not take. -/
def decodeProg (q : Fin 9) (t : Time) (w : BitVec 24) : Option Instr :=
  match (w.extractLsb' 20 4).toNat with
  | 0x0 => if w.extractLsb' 0 20 = 0 then some (.halt q) else none
  | 0x1 => (finOf 16 (w.extractLsb' 0 5).toNat).map (fun p => .sel q (w.extractLsb' 5 15) p t)
  | 0x2 =>
    if w.extractLsb' 11 6 = 0 then some (.exc q (w.getLsbD 19) (w.extractLsb' 17 2) (w.extractLsb' 0 11) t) else none
  | 0x3 => if w.extractLsb' 16 4 = 0 then some (.swp q (w.extractLsb' 0 16) t) else none
  | 0x4 => if w.extractLsb' 16 4 = 0 then some (.stl q (w.extractLsb' 0 16) t) else none
  | 0x5 =>
    match finOf 6 (w.extractLsb' 17 3).toNat, finOf 4096 (w.extractLsb' 0 13).toNat with
    | some f, some k => if w.extractLsb' 13 4 = 0 then some (.cnv q f k t) else none
    | _, _ => none
  | 0x6 => decodePair q t w
  | 0x7 =>
    if w.extractLsb' 0 17 = 0 then (finOf 6 (w.extractLsb' 17 3).toNat).map (fun f => .chk q f t) else none
  | 0x8 => if w.extractLsb' 0 19 = 0 then some (.put q (w.getLsbD 19) t) else none
  | 0x9 => if w.extractLsb' 4 16 = 0 then (finOf 15 (w.extractLsb' 0 4).toNat).map (fun i => .waitt q i) else none
  | 0xA =>
    if w.getLsbD 8 then none else some (.sync q (w.extractLsb' 12 8) (w.extractLsb' 9 3) (w.extractLsb' 0 8) t)
  | 0xB =>
    match finOf 3 (w.extractLsb' 18 2).toNat, finOf 256 (w.extractLsb' 0 9).toNat with
    | some k, some n => some (.loop q k (w.extractLsb' 9 9) n)
    | _, _ => none
  | 0xC => if w.extractLsb' 9 11 = 0 then some (.jmp q (w.extractLsb' 0 9)) else none
  | _ => none

end Sys2Proof
end

