-- ==== Sys2Proof/Config.lean ====
section
/-! DEFINITION. What the manual fixes elsewhere or leaves open: the free values (opaque constants, no value of
which any proof can see) and the data an image carries in a layout the manual does not give. -/

namespace Sys2Proof

/-- A curve of the curve store (R76): start `x0` in Q units, segment width `2 ^ shift`, 257 outputs `y`. -/
structure Curve where
  x0 : Int
  shift : Nat
  y : List Int
deriving DecidableEq, Repr, Inhabited

/-- What an image holds beside its header and common section: the configuration words of the registers that load
from it, the curves CV11–CV63, the pictures P0–P15 (64 rows of 128 bits each) and the tick period in ms. -/
structure ImageContents where
  tables : List (Nat × Word)
  curves : List (Nat × Curve)
  pictures : List (Nat × List (BitVec 128))
  tickMs : Nat
deriving DecidableEq, Repr, Inhabited

/-- FREE VALUE: how an image lays out its tables; the manual gives the header and the common section only (R350).
Log 4. -/
opaque Config.imageContents : List (Nat × Byte) → ImageContents

/-- FREE VALUE: output `k` of ROM curve `slot`; the manual bounds the error against IEC 60751 and IEC 60584-1 and
lists no outputs (R76). Log 5. -/
opaque Config.romCurve : Nat → Nat → Int

/-- FREE VALUE: the first and the last input of ROM curve `slot` that lie in its type's standard range, in Q units
(R76). Log 5. -/
opaque Config.romRange : Nat → Int × Int

/-- FREE VALUE: the outputs at the two ends of the standard range of ROM curve `slot`, for the thermocouple types, whose
ranges IEC 60584-1 gives (R76). Log 5. -/
opaque Config.romEnds : Nat → Int × Int

/-- FREE VALUE: entry `i` (2 × tag + member) of the factory coefficient set of bank `b`, written at manufacture (R81):
offset and gain. Log 7. -/
opaque Config.factoryCoef : Nat → Nat → BitVec 24 × Word

/-- The codes of IDCODE, SAMPLE/PRELOAD and EXTEST in the 4-bit instruction register of the TAP; the manual names the
instructions without their codes (R411, log 71). -/
opaque Config.tapIdcode : BitVec 4
opaque Config.tapSample : BitVec 4
opaque Config.tapExtest : BitVec 4

/-- FREE VALUE: a primary quantity the manual states no result for: a division by an absent excitation, or a
quotient outside the signed 32-bit Q (R46, R75). The argument is the model's counter `free`. Log 6. -/
opaque Config.freeQ : Nat → Int

/-- FREE VALUE: a register or field the manual calls undefined or leaves unstated. Log 6. -/
opaque Config.freeWord : Nat → Word

end Sys2Proof
end

