-- ==== Sys2Proof/Machine/RegMap.lean ====
section
/-! DEFINITION. The register map (R417, R418): every register the chapters name, with its address, the fields of its
table and what each field's Type and Reset columns say (R4, R8). `R.<REGISTER>` is an address (an index is the
manual's own), `F.<REGISTER>_<FIELD>` a field. -/

namespace Sys2Proof.Machine

/-- A register field: its lowest bit and its width. -/
structure Fld where
  lo : Nat
  width : Nat
deriving DecidableEq, Repr

/-- One family of registers: the addresses `base + stride1 * i + stride2 * j`, `i < count1`, `j < count2`, the reset
word of its Reset column and the bits of each access type (R4): `lk` LK, `rw` RW, `wo` WO, `w1c` W1C, and `p` the
fields marked P (R8). Every other bit is RO or reserved. -/
structure RegDesc where
  base : Nat
  stride1 : Nat
  count1 : Nat
  stride2 : Nat
  count2 : Nat
  reset : Nat
  lk : Nat
  rw : Nat
  wo : Nat
  w1c : Nat
  p : Nat
deriving DecidableEq, Repr

/-- Whether address `a` is a register of the family. -/
def RegDesc.holds (d : RegDesc) (a : Nat) : Bool :=
  d.base ≤ a && (a - d.base) / d.stride1 < d.count1 &&
    ((a - d.base) % d.stride1) % d.stride2 == 0 && ((a - d.base) % d.stride1) / d.stride2 < d.count2

namespace R

/-- SYS_CLAIM (R258). -/
def SYS_CLAIM (i : Nat) : Nat := 0x40000400 + 4 * i
/-- SYS_CLAIMERR (R258). -/
def SYS_CLAIMERR : Nat := 0x40000460
/-- SYS_KEY (R365). -/
def SYS_KEY (i : Nat) : Nat := 0x40000600 + 4 * i
/-- SYS_KEYPRF (R365). -/
def SYS_KEYPRF (i : Nat) : Nat := 0x40000640 + 4 * i
/-- SYS_KEYCMD (R365). -/
def SYS_KEYCMD : Nat := 0x40000660
/-- SYS_KEYST (R365). -/
def SYS_KEYST : Nat := 0x40000664
/-- SYS_ID (R389). -/
def SYS_ID : Nat := 0x40000000
/-- SYS_LOCK (R389). -/
def SYS_LOCK : Nat := 0x40000010
/-- SYS_START (R389). -/
def SYS_START : Nat := 0x40000020
/-- SYS_ARDY (R389). -/
def SYS_ARDY : Nat := 0x40000024
/-- SYS_JOIN (R389). -/
def SYS_JOIN : Nat := 0x40000028
/-- SYS_THAWCLR (R389). -/
def SYS_THAWCLR : Nat := 0x40000030
/-- SYS_THAW (R389). -/
def SYS_THAW : Nat := 0x40000034
/-- SYS_STEP (R389). -/
def SYS_STEP (i : Nat) : Nat := 0x40000200 + 4 * i
/-- SYS_LWIN (R389). -/
def SYS_LWIN (i : Nat) : Nat := 0x40000340 + 4 * i
/-- SYS_LSEL (R389). -/
def SYS_LSEL : Nat := 0x40000300
/-- SYS_LHDR (R389). -/
def SYS_LHDR : Nat := 0x40000320
/-- PWR_STAT (R388). -/
def PWR_STAT : Nat := 0x40010000
/-- PWR_VIN (R388). -/
def PWR_VIN : Nat := 0x40010004
/-- PWR_HOLD (R388). -/
def PWR_HOLD : Nat := 0x40010008
/-- PWR_DOM (R388). -/
def PWR_DOM : Nat := 0x4001000c
/-- PWR_TEMP (R388). -/
def PWR_TEMP (i : Nat) : Nat := 0x40010010 + 4 * i
/-- PWR_CNT (R388). -/
def PWR_CNT : Nat := 0x40010018
/-- PWR_CYCLE (R388). -/
def PWR_CYCLE : Nat := 0x4001001c
/-- PWR_LAST (R388). -/
def PWR_LAST : Nat := 0x40010020
/-- CLK_REF (R18). -/
def CLK_REF : Nat := 0x40020000
/-- CLK_LOCK (R18). -/
def CLK_LOCK : Nat := 0x40020004
/-- CLK_LOST (R18). -/
def CLK_LOST : Nat := 0x40020008
/-- CLK_CYCLES (R18). -/
def CLK_CYCLES : Nat := 0x4002000c
/-- AFE_CHCFG (R56). -/
def AFE_CHCFG (i : Nat) : Nat := 0x40040000 + 16 * i
/-- AFE_CHEXC (R56). -/
def AFE_CHEXC (i : Nat) : Nat := 0x40040004 + 16 * i
/-- AFE_CHLEAD (R56). -/
def AFE_CHLEAD (i : Nat) : Nat := 0x40040008 + 16 * i
/-- AFE_CHSTAT (R56). -/
def AFE_CHSTAT (i : Nat) : Nat := 0x4004000c + 16 * i
/-- AFE_BKCFG (R56). -/
def AFE_BKCFG (i : Nat) : Nat := 0x40040900 + 16 * i
/-- AFE_BKIA (R56). -/
def AFE_BKIA (i : Nat) : Nat := 0x40040904 + 16 * i
/-- AFE_BKIB (R56). -/
def AFE_BKIB (i : Nat) : Nat := 0x40040908 + 16 * i
/-- AFE_BKBX (R56). -/
def AFE_BKBX (i : Nat) : Nat := 0x4004090c + 16 * i
/-- AFE_FAULTSUM (R56). -/
def AFE_FAULTSUM (i : Nat) : Nat := 0x40040a00 + 4 * i
/-- AFE_LOOP (R56). -/
def AFE_LOOP : Nat := 0x40040a20
/-- AFE_LOOPON (R56). -/
def AFE_LOOPON (i : Nat) : Nat := 0x40040a24 + 4 * i
/-- AFE_STATE (R56). -/
def AFE_STATE : Nat := 0x40040a40
/-- AFE_RNG (R88). -/
def AFE_RNG (i : Nat) : Nat := 0x40040c00 + 16 * i
/-- AFE_SCOND (R88). -/
def AFE_SCOND (i : Nat) : Nat := 0x40040c04 + 16 * i
/-- AFE_RAWL (R88). -/
def AFE_RAWL (i : Nat) : Nat := 0x40040c08 + 16 * i
/-- AFE_RAWU (R88). -/
def AFE_RAWU (i : Nat) : Nat := 0x40040c0c + 16 * i
/-- AFE_CALOFF (R88). -/
def AFE_CALOFF (i : Nat) (j : Nat) : Nat := 0x40041800 + 128 * i + 8 * j
/-- AFE_CALGAIN (R88). -/
def AFE_CALGAIN (i : Nat) (j : Nat) : Nat := 0x40041804 + 128 * i + 8 * j
/-- AFE_ROTCTL (R88). -/
def AFE_ROTCTL : Nat := 0x40041e00
/-- AFE_ROTST (R88). -/
def AFE_ROTST : Nat := 0x40041e04
/-- AFE_ROTLAST (R88). -/
def AFE_ROTLAST (i : Nat) : Nat := 0x40041e10 + 4 * i
/-- SEQ_CTL (R116). -/
def SEQ_CTL (i : Nat) : Nat := 0x40050000 + 32 * i
/-- SEQ_PC (R116). -/
def SEQ_PC (i : Nat) : Nat := 0x40050004 + 32 * i
/-- SEQ_STAMP (R116). -/
def SEQ_STAMP (i : Nat) : Nat := 0x40050008 + 32 * i
/-- SEQ_SETTLED (R116). -/
def SEQ_SETTLED (i : Nat) : Nat := 0x4005000c + 32 * i
/-- SEQ_FAULT (R116). -/
def SEQ_FAULT (i : Nat) : Nat := 0x40050010 + 32 * i
/-- SEQ_CNT (R116). -/
def SEQ_CNT (i : Nat) : Nat := 0x40050014 + 32 * i
/-- SEQ_TMR (R116). -/
def SEQ_TMR (i : Nat) : Nat := 0x40050018 + 32 * i
/-- SEQ_STPER (R116). -/
def SEQ_STPER (i : Nat) : Nat := 0x40050200 + 16 * i
/-- SEQ_STPH (R116). -/
def SEQ_STPH (i : Nat) : Nat := 0x40050204 + 16 * i
/-- SEQ_STCNT (R116). -/
def SEQ_STCNT (i : Nat) : Nat := 0x40050208 + 16 * i
/-- SEQ_TIME (R116). -/
def SEQ_TIME : Nat := 0x40050300
/-- SEQ_PROG (R116). -/
def SEQ_PROG (i : Nat) (j : Nat) : Nat := 0x40051000 + 2048 * i + 4 * j
/-- LIM_ENT0 (R118). -/
def LIM_ENT0 (i : Nat) : Nat := 0x40068000 + 16 * i
/-- LIM_ENT1 (R118). -/
def LIM_ENT1 (i : Nat) : Nat := 0x40068004 + 16 * i
/-- LIM_ENT2 (R118). -/
def LIM_ENT2 (i : Nat) : Nat := 0x40068008 + 16 * i
/-- LIM_ENT3 (R118). -/
def LIM_ENT3 (i : Nat) : Nat := 0x4006800c + 16 * i
/-- LIM_STAT (R140). -/
def LIM_STAT : Nat := 0x40060000
/-- LIM_REPORT (R140). -/
def LIM_REPORT : Nat := 0x40060004
/-- LIM_INH (R140). -/
def LIM_INH (i : Nat) : Nat := 0x40060010 + 4 * i
/-- LIM_INHEFF (R140). -/
def LIM_INHEFF (i : Nat) : Nat := 0x40060018 + 4 * i
/-- LIM_STG (R140). -/
def LIM_STG (i : Nat) : Nat := 0x40060020 + 4 * i
/-- LIM_STGCMD (R140). -/
def LIM_STGCMD : Nat := 0x40060030
/-- LIM_STGST (R140). -/
def LIM_STGST : Nat := 0x40060034
/-- LIM_INHDLY (R140). -/
def LIM_INHDLY (i : Nat) : Nat := 0x40060100 + 4 * i
/-- LIM_CHIDX (R140). -/
def LIM_CHIDX (i : Nat) : Nat := 0x40062000 + 4 * i
/-- LIM_SW (R140). -/
def LIM_SW (i : Nat) : Nat := 0x40062400 + 4 * i
/-- LIM_RSCFG (R140). -/
def LIM_RSCFG (i : Nat) : Nat := 0x40062800 + 16 * i
/-- LIM_RSTOL (R140). -/
def LIM_RSTOL (i : Nat) : Nat := 0x40062804 + 16 * i
/-- LIM_RSAGE (R140). -/
def LIM_RSAGE (i : Nat) : Nat := 0x40062808 + 16 * i
/-- LIM_RSST (R140). -/
def LIM_RSST (i : Nat) : Nat := 0x4006280c + 16 * i
/-- LIM_STATE (R140). -/
def LIM_STATE (i : Nat) : Nat := 0x40064000 + 4 * i
/-- CRV_CHCFG (R89). -/
def CRV_CHCFG (i : Nat) : Nat := 0x40070000 + 16 * i
/-- CRV_GAIN (R89). -/
def CRV_GAIN (i : Nat) : Nat := 0x40070004 + 16 * i
/-- CRV_OFFS (R89). -/
def CRV_OFFS (i : Nat) : Nat := 0x40070008 + 16 * i
/-- CRV_Q (R89). -/
def CRV_Q (i : Nat) : Nat := 0x4007000c + 16 * i
/-- CRV_CSEL (R89). -/
def CRV_CSEL : Nat := 0x40070900
/-- CRV_CX0 (R89). -/
def CRV_CX0 : Nat := 0x40070904
/-- CRV_CSHIFT (R89). -/
def CRV_CSHIFT : Nat := 0x40070908
/-- CRV_CJFIX (R89). -/
def CRV_CJFIX : Nat := 0x4007090c
/-- CRV_PT (R89). -/
def CRV_PT (i : Nat) : Nat := 0x40071000 + 4 * i
/-- TRP_STAT (R162). -/
def TRP_STAT : Nat := 0x40080000
/-- TRP_IN (R162). -/
def TRP_IN (i : Nat) : Nat := 0x40080010 + 4 * i
/-- TRP_OUT (R162). -/
def TRP_OUT (i : Nat) : Nat := 0x40080018 + 4 * i
/-- TRP_LATCH (R162). -/
def TRP_LATCH : Nat := 0x40080020
/-- TRP_TERM (R162). -/
def TRP_TERM (i : Nat) : Nat := 0x40080030 + 4 * i
/-- TRP_INCFG (R162). -/
def TRP_INCFG (i : Nat) : Nat := 0x40080100 + 4 * i
/-- TRP_ACCFG (R162). -/
def TRP_ACCFG (i : Nat) : Nat := 0x40080200 + 16 * i
/-- TRP_ACTH (R162). -/
def TRP_ACTH (i : Nat) : Nat := 0x40080204 + 16 * i
/-- TRP_ACHYS (R162). -/
def TRP_ACHYS (i : Nat) : Nat := 0x40080208 + 16 * i
/-- TRP_ACST (R162). -/
def TRP_ACST (i : Nat) : Nat := 0x4008020c + 16 * i
/-- TRP_FCTH (R162). -/
def TRP_FCTH (i : Nat) : Nat := 0x40080300 + 16 * i
/-- TRP_FCHYS (R162). -/
def TRP_FCHYS (i : Nat) : Nat := 0x40080304 + 16 * i
/-- TRP_FCST (R162). -/
def TRP_FCST (i : Nat) : Nat := 0x40080308 + 16 * i
/-- TRP_TDEF (R162). -/
def TRP_TDEF (i : Nat) (j : Nat) : Nat := 0x40081000 + 32 * i + 4 * j
/-- TRP_OSUM (R162). -/
def TRP_OSUM (i : Nat) (j : Nat) : Nat := 0x40082000 + 32 * i + 4 * j
/-- TRP_OCFG (R162). -/
def TRP_OCFG (i : Nat) : Nat := 0x40082010 + 32 * i
/-- TRP_LSET (R162). -/
def TRP_LSET (i : Nat) (j : Nat) : Nat := 0x40083000 + 64 * i + 4 * j
/-- TRP_LRST (R162). -/
def TRP_LRST (i : Nat) (j : Nat) : Nat := 0x40083010 + 64 * i + 4 * j
/-- TRP_LCFG (R162). -/
def TRP_LCFG (i : Nat) : Nat := 0x40083020 + 64 * i
/-- DIO_DICFG (R257). -/
def DIO_DICFG (i : Nat) : Nat := 0x40090000 + 4 * i
/-- DIO_DIST (R257). -/
def DIO_DIST (i : Nat) : Nat := 0x40090100 + 4 * i
/-- DIO_DIRAW (R257). -/
def DIO_DIRAW (i : Nat) : Nat := 0x40090108 + 4 * i
/-- DIO_DIWB (R257). -/
def DIO_DIWB (i : Nat) : Nat := 0x40090110 + 4 * i
/-- DIO_DIWBL (R257). -/
def DIO_DIWBL (i : Nat) : Nat := 0x40090118 + 4 * i
/-- DIO_DIMEAS (R257). -/
def DIO_DIMEAS (i : Nat) : Nat := 0x40090200 + 4 * i
/-- DIO_CNT (R257). -/
def DIO_CNT (i : Nat) : Nat := 0x40090300 + 4 * i
/-- DIO_FREQ (R257). -/
def DIO_FREQ (i : Nat) : Nat := 0x40090340 + 4 * i
/-- DIO_FGATE (R257). -/
def DIO_FGATE : Nat := 0x40090350
/-- DIO_DOCFG (R257). -/
def DIO_DOCFG (i : Nat) : Nat := 0x40090400 + 4 * i
/-- DIO_DOST (R257). -/
def DIO_DOST (i : Nat) : Nat := 0x40090500 + 4 * i
/-- DIO_DOMEAS (R257). -/
def DIO_DOMEAS (i : Nat) : Nat := 0x40090600 + 4 * i
/-- DIO_VFST (R257). -/
def DIO_VFST (i : Nat) : Nat := 0x40090700 + 16 * i
/-- DIO_VFI (R257). -/
def DIO_VFI (i : Nat) : Nat := 0x40090704 + 16 * i
/-- DIO_VFCNT (R257). -/
def DIO_VFCNT (i : Nat) : Nat := 0x40090708 + 16 * i
/-- DIO_SCAN (R257). -/
def DIO_SCAN : Nat := 0x40090800
/-- DIO_SCANRES (R257). -/
def DIO_SCANRES (i : Nat) : Nat := 0x40090804 + 4 * i
/-- DIO_STAT (R257). -/
def DIO_STAT : Nat := 0x4009080c
/-- ALM_STAT (R184). -/
def ALM_STAT : Nat := 0x400a0000
/-- ALM_WATCH (R184). -/
def ALM_WATCH : Nat := 0x400a0004
/-- ALM_ENG (R184). -/
def ALM_ENG (i : Nat) : Nat := 0x400a0010 + 4 * i
/-- ALM_DOUT (R184). -/
def ALM_DOUT (i : Nat) : Nat := 0x400a0040 + 4 * i
/-- ALM_PCFG (R184). -/
def ALM_PCFG (i : Nat) : Nat := 0x400a1000 + 128 * i
/-- ALM_PST (R184). -/
def ALM_PST (i : Nat) : Nat := 0x400a1004 + 128 * i
/-- ALM_PTMR (R184). -/
def ALM_PTMR (i : Nat) : Nat := 0x400a1008 + 128 * i
/-- ALM_WKCFG (R184). -/
def ALM_WKCFG (i : Nat) : Nat := 0x400a100c + 128 * i
/-- ALM_PCNT (R184). -/
def ALM_PCNT (i : Nat) : Nat := 0x400a1010 + 128 * i
/-- ALM_LCFG (R184). -/
def ALM_LCFG (i : Nat) (j : Nat) : Nat := 0x400a1020 + 128 * i + 16 * j
/-- ALM_LOUT0 (R184). -/
def ALM_LOUT0 (i : Nat) (j : Nat) : Nat := 0x400a1024 + 128 * i + 16 * j
/-- ALM_LOUT1 (R184). -/
def ALM_LOUT1 (i : Nat) (j : Nat) : Nat := 0x400a1028 + 128 * i + 16 * j
/-- ALM_LACK (R184). -/
def ALM_LACK (i : Nat) (j : Nat) : Nat := 0x400a102c + 128 * i + 16 * j
/-- ALM_GCFG (R184). -/
def ALM_GCFG (i : Nat) : Nat := 0x400a2000 + 16 * i
/-- ALM_GST (R184). -/
def ALM_GST (i : Nat) : Nat := 0x400a2004 + 16 * i
/-- ALM_GCNT (R184). -/
def ALM_GCNT (i : Nat) : Nat := 0x400a2008 + 16 * i
/-- ALM_GMOD (R184). -/
def ALM_GMOD (i : Nat) : Nat := 0x400a200c + 16 * i
/-- ALM_EST (R184). -/
def ALM_EST (i : Nat) : Nat := 0x400a4000 + 8 * i
/-- ALM_ESTMP (R184). -/
def ALM_ESTMP (i : Nat) : Nat := 0x400a4004 + 8 * i
/-- TWN_STAT (R232). -/
def TWN_STAT : Nat := 0x400b0000
/-- TWN_TICK (R232). -/
def TWN_TICK : Nat := 0x400b0004
/-- TWN_CNT (R232). -/
def TWN_CNT : Nat := 0x400b0008
/-- TWN_LAST (R232). -/
def TWN_LAST : Nat := 0x400b000c
/-- TWN_LASTTICK (R232). -/
def TWN_LASTTICK : Nat := 0x400b0010
/-- TWN_DIV (R232). -/
def TWN_DIV (i : Nat) : Nat := 0x400b0020 + 4 * i
/-- TWN_CRC (R232). -/
def TWN_CRC : Nat := 0x400b0030
/-- TWN_RES (R232). -/
def TWN_RES : Nat := 0x400b0034
/-- TWN_RESPOS (R232). -/
def TWN_RESPOS : Nat := 0x400b0038
/-- TWN_APPLY (R232). -/
def TWN_APPLY : Nat := 0x400b003c
/-- TWN_CTL (R232). -/
def TWN_CTL : Nat := 0x400b0040
/-- TWN_RSTIME (R232). -/
def TWN_RSTIME : Nat := 0x400b0044
/-- RTC_SET (R317). -/
def RTC_SET : Nat := 0x400c0060
/-- RTC_SHIFT (R317). -/
def RTC_SHIFT : Nat := 0x400c0064
/-- RTC_DST (R317). -/
def RTC_DST : Nat := 0x400c0068
/-- RTC_TRIM (R317). -/
def RTC_TRIM : Nat := 0x400c0070
/-- RTC_TRIMCMD (R317). -/
def RTC_TRIMCMD : Nat := 0x400c0074
/-- RTC_TRIMERR (R317). -/
def RTC_TRIMERR : Nat := 0x400c0078
/-- RTC_TRUST (R317). -/
def RTC_TRUST : Nat := 0x400c0080
/-- RTC_VBAT (R317). -/
def RTC_VBAT : Nat := 0x400c0084
/-- RTC_ACFG (R317). -/
def RTC_ACFG (i : Nat) : Nat := 0x400c0100 + 32 * i
/-- RTC_ATIME (R317). -/
def RTC_ATIME (i : Nat) : Nat := 0x400c0104 + 32 * i
/-- RTC_ADATE (R317). -/
def RTC_ADATE (i : Nat) : Nat := 0x400c0108 + 32 * i
/-- RTC_ADUET (R317). -/
def RTC_ADUET (i : Nat) : Nat := 0x400c010c + 32 * i
/-- RTC_ADUED (R317). -/
def RTC_ADUED (i : Nat) : Nat := 0x400c0110 + 32 * i
/-- RTC_SEC (R317). -/
def RTC_SEC : Nat := 0x400c0000
/-- RTC_MIN (R317). -/
def RTC_MIN : Nat := 0x400c0004
/-- RTC_HOUR (R317). -/
def RTC_HOUR : Nat := 0x400c0008
/-- RTC_DOW (R317). -/
def RTC_DOW : Nat := 0x400c000c
/-- RTC_DAY (R317). -/
def RTC_DAY : Nat := 0x400c0010
/-- RTC_MON (R317). -/
def RTC_MON : Nat := 0x400c0014
/-- RTC_YEAR (R317). -/
def RTC_YEAR : Nat := 0x400c0018
/-- RTC_CENT (R317). -/
def RTC_CENT : Nat := 0x400c001c
/-- RTC_SSEC (R317). -/
def RTC_SSEC : Nat := 0x400c0040
/-- RTC_SMIN (R317). -/
def RTC_SMIN : Nat := 0x400c0044
/-- RTC_SHOUR (R317). -/
def RTC_SHOUR : Nat := 0x400c0048
/-- RTC_SDAY (R317). -/
def RTC_SDAY : Nat := 0x400c0050
/-- RTC_SMON (R317). -/
def RTC_SMON : Nat := 0x400c0054
/-- RTC_SYEAR (R317). -/
def RTC_SYEAR : Nat := 0x400c0058
/-- RTC_SCENT (R317). -/
def RTC_SCENT : Nat := 0x400c005c
/-- REC_STAT (R335). -/
def REC_STAT : Nat := 0x400d0000
/-- REC_NEXTSEQ (R335). -/
def REC_NEXTSEQ : Nat := 0x400d0004
/-- REC_NEXTSEQX (R335). -/
def REC_NEXTSEQX : Nat := 0x400d0008
/-- REC_FIFO (R335). -/
def REC_FIFO : Nat := 0x400d000c
/-- REC_SEVCNT (R335). -/
def REC_SEVCNT (i : Nat) : Nat := 0x400d0010 + 4 * i
/-- REC_LOST (R335). -/
def REC_LOST (i : Nat) : Nat := 0x400d0020 + 4 * i
/-- REC_DROP (R335). -/
def REC_DROP (i : Nat) : Nat := 0x400d0030 + 4 * i
/-- REC_SUPP (R335). -/
def REC_SUPP : Nat := 0x400d0040
/-- REC_LOSS (R335). -/
def REC_LOSS : Nat := 0x400d0044
/-- REC_CODECFG (R335). -/
def REC_CODECFG (i : Nat) : Nat := 0x400d0100 + 4 * i
/-- REC_SSADDR (R335). -/
def REC_SSADDR (i : Nat) (j : Nat) : Nat := 0x400d0300 + 32 * i + 4 * j
/-- REC_CURSEQ (R335). -/
def REC_CURSEQ (i : Nat) : Nat := 0x400d0600 + 256 * i
/-- REC_CURSEQX (R335). -/
def REC_CURSEQX (i : Nat) : Nat := 0x400d0604 + 256 * i
/-- REC_CURCMD (R335). -/
def REC_CURCMD (i : Nat) : Nat := 0x400d0608 + 256 * i
/-- REC_CURST (R335). -/
def REC_CURST (i : Nat) : Nat := 0x400d060c + 256 * i
/-- REC_WIN (R335). -/
def REC_WIN (i : Nat) (j : Nat) : Nat := 0x400d0640 + 256 * i + 4 * j
/-- REC_REGWT (R335). -/
def REC_REGWT : Nat := 0x400d0048
/-- REC_REGWD (R335). -/
def REC_REGWD : Nat := 0x400d004c
/-- GLS_CFG (R280). -/
def GLS_CFG (i : Nat) : Nat := 0x400e0000 + 128 * i
/-- GLS_CUR (R280). -/
def GLS_CUR (i : Nat) : Nat := 0x400e0004 + 128 * i
/-- GLS_LOOP (R280). -/
def GLS_LOOP (i : Nat) : Nat := 0x400e0008 + 128 * i
/-- GLS_VMAX (R280). -/
def GLS_VMAX (i : Nat) : Nat := 0x400e0010 + 128 * i
/-- GLS_ACC (R280). -/
def GLS_ACC (i : Nat) : Nat := 0x400e0014 + 128 * i
/-- GLS_DEC (R280). -/
def GLS_DEC (i : Nat) : Nat := 0x400e0018 + 128 * i
/-- GLS_JERK (R280). -/
def GLS_JERK (i : Nat) : Nat := 0x400e001c + 128 * i
/-- GLS_EDEC (R280). -/
def GLS_EDEC (i : Nat) : Nat := 0x400e0020 + 128 * i
/-- GLS_SSPD (R280). -/
def GLS_SSPD (i : Nat) : Nat := 0x400e0024 + 128 * i
/-- GLS_CSPD (R280). -/
def GLS_CSPD (i : Nat) : Nat := 0x400e0028 + 128 * i
/-- GLS_BOFF (R280). -/
def GLS_BOFF (i : Nat) : Nat := 0x400e002c + 128 * i
/-- GLS_HDIST (R280). -/
def GLS_HDIST (i : Nat) : Nat := 0x400e0030 + 128 * i
/-- GLS_HOFS (R280). -/
def GLS_HOFS (i : Nat) : Nat := 0x400e0034 + 128 * i
/-- GLS_POS (R280). -/
def GLS_POS (i : Nat) : Nat := 0x400e0040 + 128 * i
/-- GLS_VEL (R280). -/
def GLS_VEL (i : Nat) : Nat := 0x400e0044 + 128 * i
/-- GLS_TGT (R280). -/
def GLS_TGT (i : Nat) : Nat := 0x400e0048 + 128 * i
/-- GLS_AXST (R280). -/
def GLS_AXST (i : Nat) : Nat := 0x400e004c + 128 * i
/-- GLS_IMEAS (R280). -/
def GLS_IMEAS (i : Nat) : Nat := 0x400e0050 + 128 * i
/-- GLS_TBL (R280). -/
def GLS_TBL (i : Nat) (j : Nat) (k : Nat) : Nat := 0x400e1000 + 2048 * i + 1024 * j + 4 * k
/-- GLS_TSTG (R280). -/
def GLS_TSTG (i : Nat) (j : Nat) (k : Nat) : Nat := 0x400e4000 + 2048 * i + 1024 * j + 4 * k
/-- PNL_CFG (R298). -/
def PNL_CFG : Nat := 0x400f0000
/-- PNL_TIME (R298). -/
def PNL_TIME : Nat := 0x400f0004
/-- PNL_VC (R298). -/
def PNL_VC (i : Nat) : Nat := 0x400f0010 + 4 * i
/-- PNL_STAT (R298). -/
def PNL_STAT : Nat := 0x400f0040
/-- PNL_QST (R298). -/
def PNL_QST : Nat := 0x400f0044
/-- PNL_PEND (R298). -/
def PNL_PEND (i : Nat) : Nat := 0x400f0048 + 4 * i
/-- PNL_TEMP (R298). -/
def PNL_TEMP : Nat := 0x400f0050
/-- PNL_PUMP (R298). -/
def PNL_PUMP : Nat := 0x400f0054
/-- PNL_CNT (R298). -/
def PNL_CNT : Nat := 0x400f0058
/-- PNL_CTL (R298). -/
def PNL_CTL : Nat := 0x400f0060
/-- PNL_MAPSEL (R298). -/
def PNL_MAPSEL : Nat := 0x400f0070
/-- PNL_JROW (R298). -/
def PNL_JROW (i : Nat) : Nat := 0x400f0100 + 4 * i
/-- PNL_BUF (R298). -/
def PNL_BUF (i : Nat) (j : Nat) : Nat := 0x400f0400 + 16 * i + 4 * j
/-- PNL_MAP (R298). -/
def PNL_MAP (i : Nat) : Nat := 0x400f2000 + 4 * i
/-- RNG_STAT (R363). -/
def RNG_STAT : Nat := 0x40100000
/-- RNG_PORT (R363). -/
def RNG_PORT (i : Nat) : Nat := 0x40100004 + 4 * i
/-- RNG_CYCLE (R363). -/
def RNG_CYCLE : Nat := 0x4010000c
/-- RNG_HTIME (R363). -/
def RNG_HTIME (i : Nat) : Nat := 0x40100010 + 4 * i
/-- RNG_HDIG (R363). -/
def RNG_HDIG : Nat := 0x40100018
/-- RNG_CFG (R363). -/
def RNG_CFG : Nat := 0x40100020
/-- RNG_CYCT (R363). -/
def RNG_CYCT : Nat := 0x40100024
/-- RNG_MBX (R363). -/
def RNG_MBX : Nat := 0x40100028
/-- RNG_IMG (R363). -/
def RNG_IMG : Nat := 0x4010002c
/-- RNG_IMGLEN (R363). -/
def RNG_IMGLEN : Nat := 0x40100030
/-- RWN_CTL (R400). -/
def RWN_CTL : Nat := 0x40111000
/-- RWN_ST (R400). -/
def RWN_ST : Nat := 0x40111004
/-- RWN_RLO (R400). -/
def RWN_RLO (i : Nat) : Nat := 0x40111100 + 8 * i
/-- RWN_RHI (R400). -/
def RWN_RHI (i : Nat) : Nat := 0x40111104 + 8 * i
/-- SVC_STAT (R366). -/
def SVC_STAT : Nat := 0x40120000
/-- DIG_STAT (R364). -/
def DIG_STAT : Nat := 0x40130000
/-- DIG_COMMON (R364). -/
def DIG_COMMON : Nat := 0x40130004
/-- DIG_IMAGE (R364). -/
def DIG_IMAGE : Nat := 0x40130008
/-- DIG_STCOM (R364). -/
def DIG_STCOM : Nat := 0x4013000c
/-- DIG_STIMG (R364). -/
def DIG_STIMG : Nat := 0x40130010
/-- DIG_LAST (R364). -/
def DIG_LAST : Nat := 0x40130014

end R

namespace F

/-- SYS_CLAIM.OWNER0, bits 7:0, RO (R258). -/
def SYS_CLAIM_OWNER0 : Fld := ⟨0, 8⟩
/-- SYS_CLAIM.OWNER1, bits 15:8, RO (R258). -/
def SYS_CLAIM_OWNER1 : Fld := ⟨8, 8⟩
/-- SYS_CLAIM.OWNER2, bits 23:16, RO (R258). -/
def SYS_CLAIM_OWNER2 : Fld := ⟨16, 8⟩
/-- SYS_CLAIM.OWNER3, bits 31:24, RO (R258). -/
def SYS_CLAIM_OWNER3 : Fld := ⟨24, 8⟩
/-- SYS_CLAIMERR.REQ, bits 31:24, RO (R258). -/
def SYS_CLAIMERR_REQ : Fld := ⟨24, 8⟩
/-- SYS_CLAIMERR.HOLD, bits 23:16, RO (R258). -/
def SYS_CLAIMERR_HOLD : Fld := ⟨16, 8⟩
/-- SYS_CLAIMERR.RES, bits 6:0, RO (R258). -/
def SYS_CLAIMERR_RES : Fld := ⟨0, 7⟩
/-- SYS_KEY.KEY, bits 31:0, WO (R365). -/
def SYS_KEY_KEY : Fld := ⟨0, 32⟩
/-- SYS_KEYPRF.PRF, bits 31:0, WO (R365). -/
def SYS_KEYPRF_PRF : Fld := ⟨0, 32⟩
/-- SYS_KEYCMD.PROV, bits 0:0, WO (R365). -/
def SYS_KEYCMD_PROV : Fld := ⟨0, 1⟩
/-- SYS_KEYST.LASTFAIL, bits 1:1, RO (R365). -/
def SYS_KEYST_LASTFAIL : Fld := ⟨1, 1⟩
/-- SYS_KEYST.KEYSET, bits 0:0, RO (R365). -/
def SYS_KEYST_KEYSET : Fld := ⟨0, 1⟩
/-- SYS_ID.REV, bits 23:16, RO (R389). -/
def SYS_ID_REV : Fld := ⟨16, 8⟩
/-- SYS_ID.PART, bits 15:0, RO (R389). -/
def SYS_ID_PART : Fld := ⟨0, 16⟩
/-- SYS_LOCK.CODE, bits 31:16, WO (R389). -/
def SYS_LOCK_CODE : Fld := ⟨16, 16⟩
/-- SYS_LOCK.OPEN, bits 8:8, RO (R389). -/
def SYS_LOCK_OPEN : Fld := ⟨8, 1⟩
/-- SYS_LOCK.BY, bits 7:6, RO (R389). -/
def SYS_LOCK_BY : Fld := ⟨6, 2⟩
/-- SYS_LOCK.CMD, bits 1:0, WO (R389). -/
def SYS_LOCK_CMD : Fld := ⟨0, 2⟩
/-- SYS_START.CAUSE, bits 31:29, RO (R389). -/
def SYS_START_CAUSE : Fld := ⟨29, 3⟩
/-- SYS_START.IMG, bits 28:28, RO (R389). -/
def SYS_START_IMG : Fld := ⟨28, 1⟩
/-- SYS_START.NOIMG, bits 27:27, RO (R389). -/
def SYS_START_NOIMG : Fld := ⟨27, 1⟩
/-- SYS_START.LEDGLOST, bits 26:26, RO (R389). -/
def SYS_START_LEDGLOST : Fld := ⟨26, 1⟩
/-- SYS_START.SELB, bits 25:25, RO (R389). -/
def SYS_START_SELB : Fld := ⟨25, 1⟩
/-- SYS_START.PCC, bits 15:0, RO (R389). -/
def SYS_START_PCC : Fld := ⟨0, 16⟩
/-- SYS_ARDY.US, bits 31:0, RO (R389). -/
def SYS_ARDY_US : Fld := ⟨0, 32⟩
/-- SYS_JOIN.US, bits 31:0, RO (R389). -/
def SYS_JOIN_US : Fld := ⟨0, 32⟩
/-- SYS_THAWCLR.CLR, bits 15:0, LK (R389). -/
def SYS_THAWCLR_CLR : Fld := ⟨0, 16⟩
/-- SYS_THAW.SKIP, bits 31:16, RO (R389). -/
def SYS_THAW_SKIP : Fld := ⟨16, 16⟩
/-- SYS_THAW.ALT, bits 15:0, RO (R389). -/
def SYS_THAW_ALT : Fld := ⟨0, 16⟩
/-- SYS_STEP.STATE, bits 31:29, RO (R389). -/
def SYS_STEP_STATE : Fld := ⟨29, 3⟩
/-- SYS_STEP.MODE, bits 28:27, RO (R389). -/
def SYS_STEP_MODE : Fld := ⟨27, 2⟩
/-- SYS_STEP.ALTCNT, bits 26:25, RO (R389). -/
def SYS_STEP_ALTCNT : Fld := ⟨25, 2⟩
/-- SYS_STEP.END, bits 23:0, RO (R389). -/
def SYS_STEP_END : Fld := ⟨0, 24⟩
/-- SYS_LWIN.STATE, bits 31:29, RO (R389). -/
def SYS_LWIN_STATE : Fld := ⟨29, 3⟩
/-- SYS_LWIN.MODE, bits 28:27, RO (R389). -/
def SYS_LWIN_MODE : Fld := ⟨27, 2⟩
/-- SYS_LWIN.ALTCNT, bits 26:25, RO (R389). -/
def SYS_LWIN_ALTCNT : Fld := ⟨25, 2⟩
/-- SYS_LWIN.END, bits 23:0, RO (R389). -/
def SYS_LWIN_END : Fld := ⟨0, 24⟩
/-- SYS_LSEL.SEL, bits 2:0, RW (R389). -/
def SYS_LSEL_SEL : Fld := ⟨0, 3⟩
/-- SYS_LHDR.CAUSE, bits 18:16, RO (R389). -/
def SYS_LHDR_CAUSE : Fld := ⟨16, 3⟩
/-- SYS_LHDR.PCC, bits 15:0, RO (R389). -/
def SYS_LHDR_PCC : Fld := ⟨0, 16⟩
/-- PWR_STAT.VALID, bits 31:31, RO (R388). -/
def PWR_STAT_VALID : Fld := ⟨31, 1⟩
/-- PWR_STAT.HOLD, bits 30:30, RO (R388). -/
def PWR_STAT_HOLD : Fld := ⟨30, 1⟩
/-- PWR_STAT.HOLDRDY, bits 29:29, RO (R388). -/
def PWR_STAT_HOLDRDY : Fld := ⟨29, 1⟩
/-- PWR_STAT.HOLDLOW, bits 28:28, RO (R388). -/
def PWR_STAT_HOLDLOW : Fld := ⟨28, 1⟩
/-- PWR_STAT.VINA, bits 27:27, RO (R388). -/
def PWR_STAT_VINA : Fld := ⟨27, 1⟩
/-- PWR_STAT.VINB, bits 26:26, RO (R388). -/
def PWR_STAT_VINB : Fld := ⟨26, 1⟩
/-- PWR_STAT.T85, bits 25:25, RO (R388). -/
def PWR_STAT_T85 : Fld := ⟨25, 1⟩
/-- PWR_STAT.T100, bits 24:24, RO (R388). -/
def PWR_STAT_T100 : Fld := ⟨24, 1⟩
/-- PWR_VIN.VINA, bits 31:16, RO (R388). -/
def PWR_VIN_VINA : Fld := ⟨16, 16⟩
/-- PWR_VIN.VINB, bits 15:0, RO (R388). -/
def PWR_VIN_VINB : Fld := ⟨0, 16⟩
/-- PWR_HOLD.VBANK, bits 31:16, RO (R388). -/
def PWR_HOLD_VBANK : Fld := ⟨16, 16⟩
/-- PWR_HOLD.CAP, bits 15:0, RO (R388). -/
def PWR_HOLD_CAP : Fld := ⟨0, 16⟩
/-- PWR_DOM.CYC, bits 26:16, RO (R388). -/
def PWR_DOM_CYC : Fld := ⟨16, 11⟩
/-- PWR_DOM.ON, bits 10:0, RO (R388). -/
def PWR_DOM_ON : Fld := ⟨0, 11⟩
/-- PWR_TEMP.TSA, bits 31:16, RO (R388). -/
def PWR_TEMP_TSA : Fld := ⟨16, 16⟩
/-- PWR_TEMP.TSB, bits 15:0, RO (R388). -/
def PWR_TEMP_TSB : Fld := ⟨0, 16⟩
/-- PWR_CNT.LOSS, bits 31:16, RO (R388). -/
def PWR_CNT_LOSS : Fld := ⟨16, 16⟩
/-- PWR_CNT.RIDE, bits 15:0, RO (R388). -/
def PWR_CNT_RIDE : Fld := ⟨0, 16⟩
/-- PWR_CYCLE.DOM, bits 3:0, LK (R388). -/
def PWR_CYCLE_DOM : Fld := ⟨0, 4⟩
/-- PWR_LAST.US, bits 31:0, RO (R388). -/
def PWR_LAST_US : Fld := ⟨0, 32⟩
/-- CLK_REF.SRC, bits 3:2, RO (R18). -/
def CLK_REF_SRC : Fld := ⟨2, 2⟩
/-- CLK_REF.XT25_OK, bits 1:1, RO (R18). -/
def CLK_REF_XT25_OK : Fld := ⟨1, 1⟩
/-- CLK_REF.XT32_OK, bits 0:0, RO (R18). -/
def CLK_REF_XT32_OK : Fld := ⟨0, 1⟩
/-- CLK_LOCK.LOCK, bits 15:0, RO (R18). -/
def CLK_LOCK_LOCK : Fld := ⟨0, 16⟩
/-- CLK_LOST.LOST, bits 15:0, W1C (R18). -/
def CLK_LOST_LOST : Fld := ⟨0, 16⟩
/-- CLK_CYCLES.CYCLES, bits 31:0, RO (R18). -/
def CLK_CYCLES_CYCLES : Fld := ⟨0, 32⟩
/-- AFE_CHCFG.SETTLE, bits 31:16, LK (R56). -/
def AFE_CHCFG_SETTLE : Fld := ⟨16, 16⟩
/-- AFE_CHCFG.WIRE, bits 9:8, LK (R56). -/
def AFE_CHCFG_WIRE : Fld := ⟨8, 2⟩
/-- AFE_CHCFG.TYPE, bits 4:0, LK (R56). -/
def AFE_CHCFG_TYPE : Fld := ⟨0, 5⟩
/-- AFE_CHEXC.BXHOLD, bits 24:24, LK (R56). -/
def AFE_CHEXC_BXHOLD : Fld := ⟨24, 1⟩
/-- AFE_CHEXC.SRC, bits 16:16, LK (R56). -/
def AFE_CHEXC_SRC : Fld := ⟨16, 1⟩
/-- AFE_CHEXC.IEXC, bits 10:0, LK (R56). -/
def AFE_CHEXC_IEXC : Fld := ⟨0, 11⟩
/-- AFE_CHLEAD.LEAD, bits 15:0, LK (R56). -/
def AFE_CHLEAD_LEAD : Fld := ⟨0, 16⟩
/-- AFE_CHSTAT.LATCH, bits 24:16, W1C (R56). -/
def AFE_CHSTAT_LATCH : Fld := ⟨16, 9⟩
/-- AFE_CHSTAT.LIVE, bits 8:0, RO (R56). -/
def AFE_CHSTAT_LIVE : Fld := ⟨0, 9⟩
/-- AFE_BKCFG.BXV, bits 1:0, LK (R56). -/
def AFE_BKCFG_BXV : Fld := ⟨0, 2⟩
/-- AFE_BKIA.MEAS, bits 21:0, RO (R56). -/
def AFE_BKIA_MEAS : Fld := ⟨0, 22⟩
/-- AFE_BKIB.MEAS, bits 21:0, RO (R56). -/
def AFE_BKIB_MEAS : Fld := ⟨0, 22⟩
/-- AFE_BKBX.BXLIM, bits 26:26, RO (R56). -/
def AFE_BKBX_BXLIM : Fld := ⟨26, 1⟩
/-- AFE_BKBX.BXI, bits 25:16, RO (R56). -/
def AFE_BKBX_BXI : Fld := ⟨16, 10⟩
/-- AFE_BKBX.BXMV, bits 15:0, RO (R56). -/
def AFE_BKBX_BXMV : Fld := ⟨0, 16⟩
/-- AFE_FAULTSUM.SUM, bits 31:0, RO (R56). -/
def AFE_FAULTSUM_SUM : Fld := ⟨0, 32⟩
/-- AFE_LOOP.THERM, bits 31:31, RO (R56). -/
def AFE_LOOP_THERM : Fld := ⟨31, 1⟩
/-- AFE_LOOP.VLOW, bits 30:30, RO (R56). -/
def AFE_LOOP_VLOW : Fld := ⟨30, 1⟩
/-- AFE_LOOP.ILOOP, bits 27:16, RO (R56). -/
def AFE_LOOP_ILOOP : Fld := ⟨16, 12⟩
/-- AFE_LOOP.VLOOP, bits 15:0, RO (R56). -/
def AFE_LOOP_VLOOP : Fld := ⟨0, 16⟩
/-- AFE_LOOPON.ON, bits 31:0, RO (R56). -/
def AFE_LOOPON_ON : Fld := ⟨0, 32⟩
/-- AFE_STATE.EDITED, bits 0:0, RO (R56). -/
def AFE_STATE_EDITED : Fld := ⟨0, 1⟩
/-- AFE_RNG.STRC, bits 31:24, RO (R88). -/
def AFE_RNG_STRC : Fld := ⟨24, 8⟩
/-- AFE_RNG.MOVC, bits 23:16, RO (R88). -/
def AFE_RNG_MOVC : Fld := ⟨16, 8⟩
/-- AFE_RNG.FIXED, bits 15:15, RO (R88). -/
def AFE_RNG_FIXED : Fld := ⟨15, 1⟩
/-- AFE_RNG.PAIR2, bits 14:12, RO (R88). -/
def AFE_RNG_PAIR2 : Fld := ⟨12, 3⟩
/-- AFE_RNG.PAIR, bits 11:9, RO (R88). -/
def AFE_RNG_PAIR : Fld := ⟨9, 3⟩
/-- AFE_RNG.INIT, bits 8:6, LK (R88). -/
def AFE_RNG_INIT : Fld := ⟨6, 3⟩
/-- AFE_RNG.MAXP, bits 5:3, LK (R88). -/
def AFE_RNG_MAXP : Fld := ⟨3, 3⟩
/-- AFE_RNG.MINP, bits 2:0, LK (R88). -/
def AFE_RNG_MINP : Fld := ⟨0, 3⟩
/-- AFE_SCOND.BANKSUSP, bits 8:8, RO (R88). -/
def AFE_SCOND_BANKSUSP : Fld := ⟨8, 1⟩
/-- AFE_SCOND.SPARE, bits 7:7, RO (R88). -/
def AFE_SCOND_SPARE : Fld := ⟨7, 1⟩
/-- AFE_SCOND.PAIRDIS, bits 6:6, RO (R88). -/
def AFE_SCOND_PAIRDIS : Fld := ⟨6, 1⟩
/-- AFE_SCOND.CJQ, bits 5:5, RO (R88). -/
def AFE_SCOND_CJQ : Fld := ⟨5, 1⟩
/-- AFE_SCOND.SCALELIM, bits 4:4, RO (R88). -/
def AFE_SCOND_SCALELIM : Fld := ⟨4, 1⟩
/-- AFE_SCOND.OFFCURVE, bits 3:3, RO (R88). -/
def AFE_SCOND_OFFCURVE : Fld := ⟨3, 1⟩
/-- AFE_SCOND.REFILL, bits 2:2, RO (R88). -/
def AFE_SCOND_REFILL : Fld := ⟨2, 1⟩
/-- AFE_SCOND.CLIP, bits 1:1, RO (R88). -/
def AFE_SCOND_CLIP : Fld := ⟨1, 1⟩
/-- AFE_SCOND.UNSETTLED, bits 0:0, RO (R88). -/
def AFE_SCOND_UNSETTLED : Fld := ⟨0, 1⟩
/-- AFE_RAWL.OVL, bits 31:31, RO (R88). -/
def AFE_RAWL_OVL : Fld := ⟨31, 1⟩
/-- AFE_RAWL.VALID, bits 30:30, RO (R88). -/
def AFE_RAWL_VALID : Fld := ⟨30, 1⟩
/-- AFE_RAWL.TAG, bits 29:27, RO (R88). -/
def AFE_RAWL_TAG : Fld := ⟨27, 3⟩
/-- AFE_RAWL.MEM, bits 26:26, RO (R88). -/
def AFE_RAWL_MEM : Fld := ⟨26, 1⟩
/-- AFE_RAWL.CODE, bits 23:0, RO (R88). -/
def AFE_RAWL_CODE : Fld := ⟨0, 24⟩
/-- AFE_RAWU.OVL, bits 31:31, RO (R88). -/
def AFE_RAWU_OVL : Fld := ⟨31, 1⟩
/-- AFE_RAWU.VALID, bits 30:30, RO (R88). -/
def AFE_RAWU_VALID : Fld := ⟨30, 1⟩
/-- AFE_RAWU.TAG, bits 29:27, RO (R88). -/
def AFE_RAWU_TAG : Fld := ⟨27, 3⟩
/-- AFE_RAWU.MEM, bits 26:26, RO (R88). -/
def AFE_RAWU_MEM : Fld := ⟨26, 1⟩
/-- AFE_RAWU.CODE, bits 23:0, RO (R88). -/
def AFE_RAWU_CODE : Fld := ⟨0, 24⟩
/-- AFE_CALOFF.OFF, bits 23:0, RO (R88). -/
def AFE_CALOFF_OFF : Fld := ⟨0, 24⟩
/-- AFE_CALGAIN.GAIN, bits 31:0, RO (R88). -/
def AFE_CALGAIN_GAIN : Fld := ⟨0, 32⟩
/-- AFE_ROTCTL.INTERVAL, bits 31:16, LK (R88). -/
def AFE_ROTCTL_INTERVAL : Fld := ⟨16, 16⟩
/-- AFE_ROTCTL.FORCE, bits 15:12, WO (R88). -/
def AFE_ROTCTL_FORCE : Fld := ⟨12, 4⟩
/-- AFE_ROTCTL.RETEST, bits 8:0, WO (R88). -/
def AFE_ROTCTL_RETEST : Fld := ⟨0, 9⟩
/-- AFE_ROTST.SERVED, bits 31:28, RO (R88). -/
def AFE_ROTST_SERVED : Fld := ⟨28, 4⟩
/-- AFE_ROTST.NEXT, bits 27:24, RO (R88). -/
def AFE_ROTST_NEXT : Fld := ⟨24, 4⟩
/-- AFE_ROTST.STEP, bits 23:20, RO (R88). -/
def AFE_ROTST_STEP : Fld := ⟨20, 4⟩
/-- AFE_ROTST.BSSTATE, bits 19:18, RO (R88). -/
def AFE_ROTST_BSSTATE : Fld := ⟨18, 2⟩
/-- AFE_ROTST.FAILED, bits 8:0, RO (R88). -/
def AFE_ROTST_FAILED : Fld := ⟨0, 9⟩
/-- AFE_ROTLAST.SECS, bits 31:0, RO (R88). -/
def AFE_ROTLAST_SECS : Fld := ⟨0, 32⟩
/-- SEQ_CTL.EDITED, bits 4:4, RO (R116). -/
def SEQ_CTL_EDITED : Fld := ⟨4, 1⟩
/-- SEQ_CTL.CMD, bits 3:2, LK (R116). -/
def SEQ_CTL_CMD : Fld := ⟨2, 2⟩
/-- SEQ_CTL.STATE, bits 1:0, RO (R116). -/
def SEQ_CTL_STATE : Fld := ⟨0, 2⟩
/-- SEQ_PC.POS, bits 20:16, RO (R116). -/
def SEQ_PC_POS : Fld := ⟨16, 5⟩
/-- SEQ_PC.HALF, bits 15:15, RO (R116). -/
def SEQ_PC_HALF : Fld := ⟨15, 1⟩
/-- SEQ_PC.WAIT, bits 14:12, RO (R116). -/
def SEQ_PC_WAIT : Fld := ⟨12, 3⟩
/-- SEQ_PC.PC, bits 8:0, RO (R116). -/
def SEQ_PC_PC : Fld := ⟨0, 9⟩
/-- SEQ_STAMP.TIME, bits 31:0, RO (R116). -/
def SEQ_STAMP_TIME : Fld := ⟨0, 32⟩
/-- SEQ_SETTLED.TIME, bits 31:0, RO (R116). -/
def SEQ_SETTLED_TIME : Fld := ⟨0, 32⟩
/-- SEQ_FAULT.ADDR, bits 24:16, RO (R116). -/
def SEQ_FAULT_ADDR : Fld := ⟨16, 9⟩
/-- SEQ_FAULT.STAT, bits 15:12, RO (R116). -/
def SEQ_FAULT_STAT : Fld := ⟨12, 4⟩
/-- SEQ_FAULT.REFUSED, bits 5:5, W1C (R116). -/
def SEQ_FAULT_REFUSED : Fld := ⟨5, 1⟩
/-- SEQ_FAULT.OVERRUN, bits 4:4, W1C (R116). -/
def SEQ_FAULT_OVERRUN : Fld := ⟨4, 1⟩
/-- SEQ_FAULT.SYNCTO, bits 3:3, W1C (R116). -/
def SEQ_FAULT_SYNCTO : Fld := ⟨3, 1⟩
/-- SEQ_FAULT.PAIRERR, bits 2:2, W1C (R116). -/
def SEQ_FAULT_PAIRERR : Fld := ⟨2, 1⟩
/-- SEQ_FAULT.NOHALF, bits 1:1, W1C (R116). -/
def SEQ_FAULT_NOHALF : Fld := ⟨1, 1⟩
/-- SEQ_FAULT.NORES, bits 0:0, W1C (R116). -/
def SEQ_FAULT_NORES : Fld := ⟨0, 1⟩
/-- SEQ_CNT.OVR, bits 31:16, RO (R116). -/
def SEQ_CNT_OVR : Fld := ⟨16, 16⟩
/-- SEQ_CNT.SYNCTO, bits 15:0, RO (R116). -/
def SEQ_CNT_SYNCTO : Fld := ⟨0, 16⟩
/-- SEQ_TMR.PEND, bits 31:16, RO (R116). -/
def SEQ_TMR_PEND : Fld := ⟨16, 16⟩
/-- SEQ_TMR.CLAIM, bits 15:0, RO (R116). -/
def SEQ_TMR_CLAIM : Fld := ⟨0, 16⟩
/-- SEQ_STPER.PERIOD, bits 26:0, LK (R116). -/
def SEQ_STPER_PERIOD : Fld := ⟨0, 27⟩
/-- SEQ_STPH.PHASE, bits 26:0, LK (R116). -/
def SEQ_STPH_PHASE : Fld := ⟨0, 27⟩
/-- SEQ_STCNT.TICKS, bits 31:0, RO (R116). -/
def SEQ_STCNT_TICKS : Fld := ⟨0, 32⟩
/-- SEQ_TIME.TIME, bits 31:0, RO (R116). -/
def SEQ_TIME_TIME : Fld := ⟨0, 32⟩
/-- SEQ_PROG.INSTR, bits 23:0, LK (R116). -/
def SEQ_PROG_INSTR : Fld := ⟨0, 24⟩
/-- LIM_ENT0.CHAN, bits 31:24, RO (R118). -/
def LIM_ENT0_CHAN : Fld := ⟨24, 8⟩
/-- LIM_ENT0.TH, bits 23:0, RO (R118). -/
def LIM_ENT0_TH : Fld := ⟨0, 24⟩
/-- LIM_ENT1.HYS, bits 31:16, RO (R118). -/
def LIM_ENT1_HYS : Fld := ⟨16, 16⟩
/-- LIM_ENT1.ONDLY, bits 15:0, RO (R118). -/
def LIM_ENT1_ONDLY : Fld := ⟨0, 16⟩
/-- LIM_ENT2.OFFDLY, bits 31:16, RO (R118). -/
def LIM_ENT2_OFFDLY : Fld := ⟨16, 16⟩
/-- LIM_ENT2.GROUP, bits 15:8, RO (R118). -/
def LIM_ENT2_GROUP : Fld := ⟨8, 8⟩
/-- LIM_ENT2.TYPE, bits 7:4, RO (R118). -/
def LIM_ENT2_TYPE : Fld := ⟨4, 4⟩
/-- LIM_ENT2.SEV, bits 3:2, RO (R118). -/
def LIM_ENT2_SEV : Fld := ⟨2, 2⟩
/-- LIM_ENT2.SW, bits 1:0, RO (R118). -/
def LIM_ENT2_SW : Fld := ⟨0, 2⟩
/-- LIM_ENT3.EN, bits 31:31, RO (R118). -/
def LIM_ENT3_EN : Fld := ⟨31, 1⟩
/-- LIM_ENT3.ONX, bits 30:30, RO (R118). -/
def LIM_ENT3_ONX : Fld := ⟨30, 1⟩
/-- LIM_ENT3.OFFX, bits 29:29, RO (R118). -/
def LIM_ENT3_OFFX : Fld := ⟨29, 1⟩
/-- LIM_ENT3.INHEN, bits 28:28, RO (R118). -/
def LIM_ENT3_INHEN : Fld := ⟨28, 1⟩
/-- LIM_ENT3.INH, bits 27:22, RO (R118). -/
def LIM_ENT3_INH : Fld := ⟨22, 6⟩
/-- LIM_ENT3.TLEN, bits 21:21, RO (R118). -/
def LIM_ENT3_TLEN : Fld := ⟨21, 1⟩
/-- LIM_ENT3.TINH, bits 20:20, RO (R118). -/
def LIM_ENT3_TINH : Fld := ⟨20, 1⟩
/-- LIM_ENT3.TLINK, bits 19:14, RO (R118). -/
def LIM_ENT3_TLINK : Fld := ⟨14, 6⟩
/-- LIM_ENT3.PARAM, bits 13:0, RO (R118). -/
def LIM_ENT3_PARAM : Fld := ⟨0, 14⟩
/-- LIM_STAT.ECCC, bits 31:16, RO (R140). -/
def LIM_STAT_ECCC : Fld := ⟨16, 16⟩
/-- LIM_STAT.EDITED, bits 0:0, RO (R140). -/
def LIM_STAT_EDITED : Fld := ⟨0, 1⟩
/-- LIM_REPORT.FALLBK, bits 2:2, RO (R140). -/
def LIM_REPORT_FALLBK : Fld := ⟨2, 1⟩
/-- LIM_REPORT.EFF, bits 1:1, RO (R140). -/
def LIM_REPORT_EFF : Fld := ⟨1, 1⟩
/-- LIM_REPORT.MODE, bits 0:0, RO (R140). -/
def LIM_REPORT_MODE : Fld := ⟨0, 1⟩
/-- LIM_INH.BITS, bits 31:0, RO (R140). -/
def LIM_INH_BITS : Fld := ⟨0, 32⟩
/-- LIM_INHEFF.EFF, bits 31:0, RO (R140). -/
def LIM_INHEFF_EFF : Fld := ⟨0, 32⟩
/-- LIM_STG.DATA, bits 31:0, LK (R140). -/
def LIM_STG_DATA : Fld := ⟨0, 32⟩
/-- LIM_STGCMD.FUNC, bits 31:30, WO (R140). -/
def LIM_STGCMD_FUNC : Fld := ⟨30, 2⟩
/-- LIM_STGCMD.INDEX, bits 10:0, WO (R140). -/
def LIM_STGCMD_INDEX : Fld := ⟨0, 11⟩
/-- LIM_STGST.BUSY, bits 31:31, RO (R140). -/
def LIM_STGST_BUSY : Fld := ⟨31, 1⟩
/-- LIM_STGST.STAT, bits 3:0, RO (R140). -/
def LIM_STGST_STAT : Fld := ⟨0, 4⟩
/-- LIM_INHDLY.DLY, bits 15:0, LK (R140). -/
def LIM_INHDLY_DLY : Fld := ⟨0, 16⟩
/-- LIM_CHIDX.CFGERR, bits 31:31, RO (R140). -/
def LIM_CHIDX_CFGERR : Fld := ⟨31, 1⟩
/-- LIM_CHIDX.COUNT, bits 20:16, RO (R140). -/
def LIM_CHIDX_COUNT : Fld := ⟨16, 5⟩
/-- LIM_CHIDX.FIRST, bits 10:0, RO (R140). -/
def LIM_CHIDX_FIRST : Fld := ⟨0, 11⟩
/-- LIM_SW.SW, bits 31:0, RO (R140). -/
def LIM_SW_SW : Fld := ⟨0, 32⟩
/-- LIM_RSCFG.EN, bits 31:31, RO (R140). -/
def LIM_RSCFG_EN : Fld := ⟨31, 1⟩
/-- LIM_RSCFG.TRIPLE, bits 30:30, RO (R140). -/
def LIM_RSCFG_TRIPLE : Fld := ⟨30, 1⟩
/-- LIM_RSCFG.M2, bits 23:16, RO (R140). -/
def LIM_RSCFG_M2 : Fld := ⟨16, 8⟩
/-- LIM_RSCFG.M1, bits 15:8, RO (R140). -/
def LIM_RSCFG_M1 : Fld := ⟨8, 8⟩
/-- LIM_RSCFG.M0, bits 7:0, RO (R140). -/
def LIM_RSCFG_M0 : Fld := ⟨0, 8⟩
/-- LIM_RSTOL.TOL, bits 23:0, RO (R140). -/
def LIM_RSTOL_TOL : Fld := ⟨0, 24⟩
/-- LIM_RSAGE.AGE, bits 15:0, RO (R140). -/
def LIM_RSAGE_AGE : Fld := ⟨0, 16⟩
/-- LIM_RSST.REP, bits 9:8, RO (R140). -/
def LIM_RSST_REP : Fld := ⟨8, 2⟩
/-- LIM_RSST.SUBST, bits 7:7, RO (R140). -/
def LIM_RSST_SUBST : Fld := ⟨7, 1⟩
/-- LIM_RSST.DIS, bits 6:6, RO (R140). -/
def LIM_RSST_DIS : Fld := ⟨6, 1⟩
/-- LIM_RSST.OUTV, bits 5:3, RO (R140). -/
def LIM_RSST_OUTV : Fld := ⟨3, 3⟩
/-- LIM_RSST.EXCL, bits 2:0, RO (R140). -/
def LIM_RSST_EXCL : Fld := ⟨0, 3⟩
/-- LIM_STATE.TRANS, bits 31:24, RO (R140). -/
def LIM_STATE_TRANS : Fld := ⟨24, 8⟩
/-- LIM_STATE.ECCERR, bits 15:15, RO (R140). -/
def LIM_STATE_ECCERR : Fld := ⟨15, 1⟩
/-- LIM_STATE.CFGERR, bits 14:14, RO (R140). -/
def LIM_STATE_CFGERR : Fld := ⟨14, 1⟩
/-- LIM_STATE.TRIPIGN, bits 13:13, RO (R140). -/
def LIM_STATE_TRIPIGN : Fld := ⟨13, 1⟩
/-- LIM_STATE.TLINK, bits 12:12, RO (R140). -/
def LIM_STATE_TLINK : Fld := ⟨12, 1⟩
/-- LIM_STATE.STALE, bits 11:11, RO (R140). -/
def LIM_STATE_STALE : Fld := ⟨11, 1⟩
/-- LIM_STATE.INH, bits 10:10, RO (R140). -/
def LIM_STATE_INH : Fld := ⟨10, 1⟩
/-- LIM_STATE.OFFRUN, bits 9:9, RO (R140). -/
def LIM_STATE_OFFRUN : Fld := ⟨9, 1⟩
/-- LIM_STATE.ONRUN, bits 8:8, RO (R140). -/
def LIM_STATE_ONRUN : Fld := ⟨8, 1⟩
/-- LIM_STATE.ACT, bits 7:7, RO (R140). -/
def LIM_STATE_ACT : Fld := ⟨7, 1⟩
/-- LIM_STATE.COND, bits 6:6, RO (R140). -/
def LIM_STATE_COND : Fld := ⟨6, 1⟩
/-- LIM_STATE.SW, bits 5:4, RO (R140). -/
def LIM_STATE_SW : Fld := ⟨4, 2⟩
/-- LIM_STATE.SEV, bits 3:2, RO (R140). -/
def LIM_STATE_SEV : Fld := ⟨2, 2⟩
/-- CRV_CHCFG.EXP, bits 26:24, LK (R89). -/
def CRV_CHCFG_EXP : Fld := ⟨24, 3⟩
/-- CRV_CHCFG.CJ, bits 18:16, LK (R89). -/
def CRV_CHCFG_CJ : Fld := ⟨16, 3⟩
/-- CRV_CHCFG.CURVE, bits 15:8, LK (R89). -/
def CRV_CHCFG_CURVE : Fld := ⟨8, 8⟩
/-- CRV_GAIN.GAIN, bits 31:0, LK (R89). -/
def CRV_GAIN_GAIN : Fld := ⟨0, 32⟩
/-- CRV_OFFS.OFFS, bits 31:0, LK (R89). -/
def CRV_OFFS_OFFS : Fld := ⟨0, 32⟩
/-- CRV_Q.Q, bits 31:0, RO (R89). -/
def CRV_Q_Q : Fld := ⟨0, 32⟩
/-- CRV_CSEL.SLOT, bits 5:0, RW (R89). -/
def CRV_CSEL_SLOT : Fld := ⟨0, 6⟩
/-- CRV_CX0.X0, bits 31:0, RO (R89). -/
def CRV_CX0_X0 : Fld := ⟨0, 32⟩
/-- CRV_CSHIFT.ROM, bits 31:31, RO (R89). -/
def CRV_CSHIFT_ROM : Fld := ⟨31, 1⟩
/-- CRV_CSHIFT.LOADED, bits 30:30, RO (R89). -/
def CRV_CSHIFT_LOADED : Fld := ⟨30, 1⟩
/-- CRV_CSHIFT.SHIFT, bits 4:0, RO (R89). -/
def CRV_CSHIFT_SHIFT : Fld := ⟨0, 5⟩
/-- CRV_CJFIX.TCJ, bits 31:0, LK (R89). -/
def CRV_CJFIX_TCJ : Fld := ⟨0, 32⟩
/-- CRV_PT.Y, bits 31:0, RO (R89). -/
def CRV_PT_Y : Fld := ⟨0, 32⟩
/-- TRP_STAT.ECCC, bits 31:16, RO (R162). -/
def TRP_STAT_ECCC : Fld := ⟨16, 16⟩
/-- TRP_STAT.SHADOW, bits 1:1, RO (R162). -/
def TRP_STAT_SHADOW : Fld := ⟨1, 1⟩
/-- TRP_STAT.RUN, bits 0:0, RO (R162). -/
def TRP_STAT_RUN : Fld := ⟨0, 1⟩
/-- TRP_IN.LVL, bits 31:0, RO (R162). -/
def TRP_IN_LVL : Fld := ⟨0, 32⟩
/-- TRP_OUT.ASSERT, bits 31:0, RO (R162). -/
def TRP_OUT_ASSERT : Fld := ⟨0, 32⟩
/-- TRP_LATCH.TL, bits 15:0, RO (R162). -/
def TRP_LATCH_TL : Fld := ⟨0, 16⟩
/-- TRP_TERM.T, bits 31:0, RO (R162). -/
def TRP_TERM_T : Fld := ⟨0, 32⟩
/-- TRP_INCFG.SRC, bits 9:8, RO (R162). -/
def TRP_INCFG_SRC : Fld := ⟨8, 2⟩
/-- TRP_INCFG.GF, bits 7:0, RO (R162). -/
def TRP_INCFG_GF : Fld := ⟨0, 8⟩
/-- TRP_ACCFG.EN, bits 31:31, RO (R162). -/
def TRP_ACCFG_EN : Fld := ⟨31, 1⟩
/-- TRP_ACCFG.MODE, bits 9:8, RO (R162). -/
def TRP_ACCFG_MODE : Fld := ⟨8, 2⟩
/-- TRP_ACCFG.CHAN, bits 6:0, RO (R162). -/
def TRP_ACCFG_CHAN : Fld := ⟨0, 7⟩
/-- TRP_ACTH.HI, bits 31:16, RO (R162). -/
def TRP_ACTH_HI : Fld := ⟨16, 16⟩
/-- TRP_ACTH.LO, bits 15:0, RO (R162). -/
def TRP_ACTH_LO : Fld := ⟨0, 16⟩
/-- TRP_ACHYS.HYS, bits 7:0, RO (R162). -/
def TRP_ACHYS_HYS : Fld := ⟨0, 8⟩
/-- TRP_ACST.OUT, bits 0:0, RO (R162). -/
def TRP_ACST_OUT : Fld := ⟨0, 1⟩
/-- TRP_FCTH.TMO, bits 31:24, RO (R162). -/
def TRP_FCTH_TMO : Fld := ⟨24, 8⟩
/-- TRP_FCTH.PER, bits 23:0, RO (R162). -/
def TRP_FCTH_PER : Fld := ⟨0, 24⟩
/-- TRP_FCHYS.HYS, bits 23:0, RO (R162). -/
def TRP_FCHYS_HYS : Fld := ⟨0, 24⟩
/-- TRP_FCST.OUT, bits 31:31, RO (R162). -/
def TRP_FCST_OUT : Fld := ⟨31, 1⟩
/-- TRP_FCST.FCFAST, bits 30:30, RO (R162). -/
def TRP_FCST_FCFAST : Fld := ⟨30, 1⟩
/-- TRP_FCST.LAST, bits 23:0, RO (R162). -/
def TRP_FCST_LAST : Fld := ⟨0, 24⟩
/-- TRP_TDEF.LIT, bits 31:0, RO (R162). -/
def TRP_TDEF_LIT : Fld := ⟨0, 32⟩
/-- TRP_OSUM.MASK, bits 31:0, RO (R162). -/
def TRP_OSUM_MASK : Fld := ⟨0, 32⟩
/-- TRP_OCFG.EN, bits 31:31, RO (R162). -/
def TRP_OCFG_EN : Fld := ⟨31, 1⟩
/-- TRP_OCFG.POL, bits 30:30, RO (R162). -/
def TRP_OCFG_POL : Fld := ⟨30, 1⟩
/-- TRP_OCFG.TST, bits 29:29, RO (R162). -/
def TRP_OCFG_TST : Fld := ⟨29, 1⟩
/-- TRP_OCFG.ARG, bits 5:0, RO (R162). -/
def TRP_OCFG_ARG : Fld := ⟨0, 6⟩
/-- TRP_LSET.MASK, bits 31:0, RO (R162). -/
def TRP_LSET_MASK : Fld := ⟨0, 32⟩
/-- TRP_LRST.MASK, bits 31:0, RO (R162). -/
def TRP_LRST_MASK : Fld := ⟨0, 32⟩
/-- TRP_LCFG.EN, bits 31:31, RO (R162). -/
def TRP_LCFG_EN : Fld := ⟨31, 1⟩
/-- TRP_LCFG.RDOM, bits 30:30, RO (R162). -/
def TRP_LCFG_RDOM : Fld := ⟨30, 1⟩
/-- TRP_LCFG.PERSIST, bits 29:29, RO (R162). -/
def TRP_LCFG_PERSIST : Fld := ⟨29, 1⟩
/-- DIO_DICFG.CFGERR, bits 31:31, RO (R257). -/
def DIO_DICFG_CFGERR : Fld := ⟨31, 1⟩
/-- DIO_DICFG.EDGE, bits 17:16, LK (R257). -/
def DIO_DICFG_EDGE : Fld := ⟨16, 2⟩
/-- DIO_DICFG.CF, bits 15:12, LK (R257). -/
def DIO_DICFG_CF : Fld := ⟨12, 4⟩
/-- DIO_DICFG.LMON, bits 10:10, RO (R257). -/
def DIO_DICFG_LMON : Fld := ⟨10, 1⟩
/-- DIO_DICFG.TYPE, bits 9:8, RO (R257). -/
def DIO_DICFG_TYPE : Fld := ⟨8, 2⟩
/-- DIO_DICFG.FILT, bits 7:0, LK (R257). -/
def DIO_DICFG_FILT : Fld := ⟨0, 8⟩
/-- DIO_DIST.BITS, bits 31:0, RO (R257). -/
def DIO_DIST_BITS : Fld := ⟨0, 32⟩
/-- DIO_DIRAW.BITS, bits 31:0, RO (R257). -/
def DIO_DIRAW_BITS : Fld := ⟨0, 32⟩
/-- DIO_DIWB.BITS, bits 31:0, RO (R257). -/
def DIO_DIWB_BITS : Fld := ⟨0, 32⟩
/-- DIO_DIWBL.BITS, bits 31:0, W1C (R257). -/
def DIO_DIWBL_BITS : Fld := ⟨0, 32⟩
/-- DIO_DIMEAS.U, bits 31:16, RO (R257). -/
def DIO_DIMEAS_U : Fld := ⟨16, 16⟩
/-- DIO_DIMEAS.I, bits 15:0, RO (R257). -/
def DIO_DIMEAS_I : Fld := ⟨0, 16⟩
/-- DIO_CNT.VAL, bits 31:0, RO (R257). -/
def DIO_CNT_VAL : Fld := ⟨0, 32⟩
/-- DIO_FREQ.VAL, bits 31:0, RO (R257). -/
def DIO_FREQ_VAL : Fld := ⟨0, 32⟩
/-- DIO_FGATE.GATE, bits 3:0, LK (R257). -/
def DIO_FGATE_GATE : Fld := ⟨0, 4⟩
/-- DIO_DOCFG.PAIR, bits 31:31, RO (R257). -/
def DIO_DOCFG_PAIR : Fld := ⟨31, 1⟩
/-- DIO_DOCFG.PFS, bits 30:30, LK (R257). -/
def DIO_DOCFG_PFS : Fld := ⟨30, 1⟩
/-- DIO_DOCFG.NORST, bits 29:29, LK (R257). -/
def DIO_DOCFG_NORST : Fld := ⟨29, 1⟩
/-- DIO_DOCFG.OLON, bits 28:28, LK (R257). -/
def DIO_DOCFG_OLON : Fld := ⟨28, 1⟩
/-- DIO_DOCFG.OLOFF, bits 27:27, LK (R257). -/
def DIO_DOCFG_OLOFF : Fld := ⟨27, 1⟩
/-- DIO_DOCFG.PTEST, bits 26:26, LK (R257). -/
def DIO_DOCFG_PTEST : Fld := ⟨26, 1⟩
/-- DIO_DOCFG.NOSCAN, bits 25:25, LK (R257). -/
def DIO_DOCFG_NOSCAN : Fld := ⟨25, 1⟩
/-- DIO_DOCFG.CFGERR, bits 24:24, RO (R257). -/
def DIO_DOCFG_CFGERR : Fld := ⟨24, 1⟩
/-- DIO_DOCFG.PULSE, bits 3:0, LK (R257). -/
def DIO_DOCFG_PULSE : Fld := ⟨0, 4⟩
/-- DIO_DOST.CMD, bits 31:31, RO (R257). -/
def DIO_DOST_CMD : Fld := ⟨31, 1⟩
/-- DIO_DOST.DRV, bits 30:30, RO (R257). -/
def DIO_DOST_DRV : Fld := ⟨30, 1⟩
/-- DIO_DOST.SRC, bits 29:27, RO (R257). -/
def DIO_DOST_SRC : Fld := ⟨27, 3⟩
/-- DIO_DOST.LIVE, bits 23:16, RO (R257). -/
def DIO_DOST_LIVE : Fld := ⟨16, 8⟩
/-- DIO_DOST.LATCH, bits 15:8, W1C (R257). -/
def DIO_DOST_LATCH : Fld := ⟨8, 8⟩
/-- DIO_DOST.PARTNER, bits 5:0, RO (R257). -/
def DIO_DOST_PARTNER : Fld := ⟨0, 6⟩
/-- DIO_DOMEAS.U, bits 31:16, RO (R257). -/
def DIO_DOMEAS_U : Fld := ⟨16, 16⟩
/-- DIO_DOMEAS.I, bits 15:0, RO (R257). -/
def DIO_DOMEAS_I : Fld := ⟨0, 16⟩
/-- DIO_VFST.STATE, bits 31:29, RO (R257). -/
def DIO_VFST_STATE : Fld := ⟨29, 3⟩
/-- DIO_VFST.VF, bits 15:0, RO (R257). -/
def DIO_VFST_VF : Fld := ⟨0, 16⟩
/-- DIO_VFI.I, bits 15:0, RO (R257). -/
def DIO_VFI_I : Fld := ⟨0, 16⟩
/-- DIO_VFCNT.OFFC, bits 31:16, RO (R257). -/
def DIO_VFCNT_OFFC : Fld := ⟨16, 16⟩
/-- DIO_VFCNT.HOLDC, bits 15:0, RO (R257). -/
def DIO_VFCNT_HOLDC : Fld := ⟨0, 16⟩
/-- DIO_SCAN.BUSY, bits 31:31, RO (R257). -/
def DIO_SCAN_BUSY : Fld := ⟨31, 1⟩
/-- DIO_SCAN.LINKS, bits 23:16, RO (R257). -/
def DIO_SCAN_LINKS : Fld := ⟨16, 8⟩
/-- DIO_SCAN.POS, bits 9:4, RO (R257). -/
def DIO_SCAN_POS : Fld := ⟨4, 6⟩
/-- DIO_SCAN.LAST, bits 3:2, RO (R257). -/
def DIO_SCAN_LAST : Fld := ⟨2, 2⟩
/-- DIO_SCAN.CMD, bits 1:0, LK (R257). -/
def DIO_SCAN_CMD : Fld := ⟨0, 2⟩
/-- DIO_SCANRES.UNTESTED, bits 31:0, RO (R257). -/
def DIO_SCANRES_UNTESTED : Fld := ⟨0, 32⟩
/-- DIO_STAT.T2CNT, bits 7:3, RO (R257). -/
def DIO_STAT_T2CNT : Fld := ⟨3, 5⟩
/-- DIO_STAT.BUDGET, bits 1:1, RO (R257). -/
def DIO_STAT_BUDGET : Fld := ⟨1, 1⟩
/-- DIO_STAT.EDITED, bits 0:0, RO (R257). -/
def DIO_STAT_EDITED : Fld := ⟨0, 1⟩
/-- ALM_STAT.RUN, bits 31:16, RO (R184). -/
def ALM_STAT_RUN : Fld := ⟨16, 16⟩
/-- ALM_STAT.CFGERR, bits 15:0, RO (R184). -/
def ALM_STAT_CFGERR : Fld := ⟨0, 16⟩
/-- ALM_WATCH.NOWATCH, bits 16:16, RO (R184). -/
def ALM_WATCH_NOWATCH : Fld := ⟨16, 1⟩
/-- ALM_WATCH.COUNT, bits 15:12, RO (R184). -/
def ALM_WATCH_COUNT : Fld := ⟨12, 4⟩
/-- ALM_WATCH.SEL, bits 11:9, RO (R184). -/
def ALM_WATCH_SEL : Fld := ⟨9, 3⟩
/-- ALM_WATCH.SRC, bits 8:8, RO (R184). -/
def ALM_WATCH_SRC : Fld := ⟨8, 1⟩
/-- ALM_WATCH.DIBASE, bits 5:0, RO (R184). -/
def ALM_WATCH_DIBASE : Fld := ⟨0, 6⟩
/-- ALM_ENG.EN, bits 31:31, RO (R184). -/
def ALM_ENG_EN : Fld := ⟨31, 1⟩
/-- ALM_ENG.CABDI, bits 13:8, RO (R184). -/
def ALM_ENG_CABDI : Fld := ⟨8, 6⟩
/-- ALM_ENG.CABDO, bits 5:0, RO (R184). -/
def ALM_ENG_CABDO : Fld := ⟨0, 6⟩
/-- ALM_DOUT.ON, bits 31:0, RO (R184). -/
def ALM_DOUT_ON : Fld := ⟨0, 32⟩
/-- ALM_PCFG.EN, bits 31:31, RO (R184). -/
def ALM_PCFG_EN : Fld := ⟨31, 1⟩
/-- ALM_PCFG.WK, bits 30:30, RO (R184). -/
def ALM_PCFG_WK : Fld := ⟨30, 1⟩
/-- ALM_PCFG.ENDACK, bits 29:29, RO (R184). -/
def ALM_PCFG_ENDACK : Fld := ⟨29, 1⟩
/-- ALM_PCFG.SIL, bits 28:28, RO (R184). -/
def ALM_PCFG_SIL : Fld := ⟨28, 1⟩
/-- ALM_PST.STATE, bits 31:30, RO (R184). -/
def ALM_PST_STATE : Fld := ⟨30, 2⟩
/-- ALM_PST.LEVEL, bits 29:27, RO (R184). -/
def ALM_PST_LEVEL : Fld := ⟨27, 3⟩
/-- ALM_PST.ACC, bits 23:20, RO (R184). -/
def ALM_PST_ACC : Fld := ⟨20, 4⟩
/-- ALM_PST.CAUSE, bits 8:0, RO (R184). -/
def ALM_PST_CAUSE : Fld := ⟨0, 9⟩
/-- ALM_PTMR.REM, bits 31:0, RO (R184). -/
def ALM_PTMR_REM : Fld := ⟨0, 32⟩
/-- ALM_WKCFG.RSTEN, bits 31:31, RO (R184). -/
def ALM_WKCFG_RSTEN : Fld := ⟨31, 1⟩
/-- ALM_WKCFG.RSTDI, bits 29:24, RO (R184). -/
def ALM_WKCFG_RSTDI : Fld := ⟨24, 6⟩
/-- ALM_WKCFG.PERIOD, bits 23:12, RO (R184). -/
def ALM_WKCFG_PERIOD : Fld := ⟨12, 12⟩
/-- ALM_WKCFG.PREW, bits 11:0, RO (R184). -/
def ALM_WKCFG_PREW : Fld := ⟨0, 12⟩
/-- ALM_PCNT.STARTS, bits 31:16, RO (R184). -/
def ALM_PCNT_STARTS : Fld := ⟨16, 16⟩
/-- ALM_PCNT.ESCAL, bits 15:0, RO (R184). -/
def ALM_PCNT_ESCAL : Fld := ⟨0, 16⟩
/-- ALM_LCFG.EN, bits 31:31, RO (R184). -/
def ALM_LCFG_EN : Fld := ⟨31, 1⟩
/-- ALM_LCFG.MODE, bits 30:30, RO (R184). -/
def ALM_LCFG_MODE : Fld := ⟨30, 1⟩
/-- ALM_LCFG.WATCH, bits 29:29, RO (R184). -/
def ALM_LCFG_WATCH : Fld := ⟨29, 1⟩
/-- ALM_LCFG.ALLCAB, bits 28:28, RO (R184). -/
def ALM_LCFG_ALLCAB : Fld := ⟨28, 1⟩
/-- ALM_LCFG.PAT, bits 27:26, RO (R184). -/
def ALM_LCFG_PAT : Fld := ⟨26, 2⟩
/-- ALM_LCFG.ESC, bits 10:0, RO (R184). -/
def ALM_LCFG_ESC : Fld := ⟨0, 11⟩
/-- ALM_LOUT0.MASK, bits 31:0, RO (R184). -/
def ALM_LOUT0_MASK : Fld := ⟨0, 32⟩
/-- ALM_LOUT1.MASK, bits 31:0, RO (R184). -/
def ALM_LOUT1_MASK : Fld := ⟨0, 32⟩
/-- ALM_LACK.EN0, bits 7:7, RO (R184). -/
def ALM_LACK_EN0 : Fld := ⟨7, 1⟩
/-- ALM_LACK.EN1, bits 15:15, RO (R184). -/
def ALM_LACK_EN1 : Fld := ⟨15, 1⟩
/-- ALM_LACK.EN2, bits 23:23, RO (R184). -/
def ALM_LACK_EN2 : Fld := ⟨23, 1⟩
/-- ALM_LACK.EN3, bits 31:31, RO (R184). -/
def ALM_LACK_EN3 : Fld := ⟨31, 1⟩
/-- ALM_LACK.DI0, bits 5:0, RO (R184). -/
def ALM_LACK_DI0 : Fld := ⟨0, 6⟩
/-- ALM_LACK.DI1, bits 13:8, RO (R184). -/
def ALM_LACK_DI1 : Fld := ⟨8, 6⟩
/-- ALM_LACK.DI2, bits 21:16, RO (R184). -/
def ALM_LACK_DI2 : Fld := ⟨16, 6⟩
/-- ALM_LACK.DI3, bits 29:24, RO (R184). -/
def ALM_LACK_DI3 : Fld := ⟨24, 6⟩
/-- ALM_GCFG.PLANEN, bits 31:31, RO (R184). -/
def ALM_GCFG_PLANEN : Fld := ⟨31, 1⟩
/-- ALM_GCFG.PLAN, bits 7:4, RO (R184). -/
def ALM_GCFG_PLAN : Fld := ⟨4, 4⟩
/-- ALM_GCFG.MINSEV, bits 1:0, RO (R184). -/
def ALM_GCFG_MINSEV : Fld := ⟨0, 2⟩
/-- ALM_GST.STATE, bits 31:30, RO (R184). -/
def ALM_GST_STATE : Fld := ⟨30, 2⟩
/-- ALM_GST.AUD, bits 29:29, RO (R184). -/
def ALM_GST_AUD : Fld := ⟨29, 1⟩
/-- ALM_GST.FOVALID, bits 28:28, RO (R184). -/
def ALM_GST_FOVALID : Fld := ⟨28, 1⟩
/-- ALM_GST.FIRST, bits 10:0, RO (R184). -/
def ALM_GST_FIRST : Fld := ⟨0, 11⟩
/-- ALM_GCNT.UNACK, bits 27:16, RO (R184). -/
def ALM_GCNT_UNACK : Fld := ⟨16, 12⟩
/-- ALM_GCNT.ACT, bits 11:0, RO (R184). -/
def ALM_GCNT_ACT : Fld := ⟨0, 12⟩
/-- ALM_GMOD.MOD, bits 11:0, RO (R184). -/
def ALM_GMOD_MOD : Fld := ⟨0, 12⟩
/-- ALM_EST.STATE, bits 31:30, RO (R184). -/
def ALM_EST_STATE : Fld := ⟨30, 2⟩
/-- ALM_EST.SUPP, bits 29:29, RO (R184). -/
def ALM_EST_SUPP : Fld := ⟨29, 1⟩
/-- ALM_EST.SHLV, bits 28:28, RO (R184). -/
def ALM_EST_SHLV : Fld := ⟨28, 1⟩
/-- ALM_EST.OOS, bits 27:27, RO (R184). -/
def ALM_EST_OOS : Fld := ⟨27, 1⟩
/-- ALM_EST.SHVREM, bits 16:0, RO (R184). -/
def ALM_EST_SHVREM : Fld := ⟨0, 17⟩
/-- ALM_ESTMP.STAMP, bits 31:0, RO (R184). -/
def ALM_ESTMP_STAMP : Fld := ⟨0, 32⟩
/-- TWN_STAT.MODE, bits 31:30, RO (R232). -/
def TWN_STAT_MODE : Fld := ⟨30, 2⟩
/-- TWN_STAT.CORE, bits 29:29, RO (R232). -/
def TWN_STAT_CORE : Fld := ⟨29, 1⟩
/-- TWN_STAT.PERMA, bits 28:28, RO (R232). -/
def TWN_STAT_PERMA : Fld := ⟨28, 1⟩
/-- TWN_STAT.PERMB, bits 27:27, RO (R232). -/
def TWN_STAT_PERMB : Fld := ⟨27, 1⟩
/-- TWN_STAT.STAGE, bits 26:24, RO (R232). -/
def TWN_STAT_STAGE : Fld := ⟨24, 3⟩
/-- TWN_TICK.TICK, bits 31:0, RO (R232). -/
def TWN_TICK_TICK : Fld := ⟨0, 32⟩
/-- TWN_CNT.DIVG, bits 31:16, RO (R232). -/
def TWN_CNT_DIVG : Fld := ⟨16, 16⟩
/-- TWN_CNT.DISC, bits 15:0, RO (R232). -/
def TWN_CNT_DISC : Fld := ⟨0, 16⟩
/-- TWN_LAST.CAUSE, bits 31:28, RO (R232). -/
def TWN_LAST_CAUSE : Fld := ⟨28, 4⟩
/-- TWN_LAST.POS, bits 26:16, RO (R232). -/
def TWN_LAST_POS : Fld := ⟨16, 11⟩
/-- TWN_LAST.VERD, bits 15:12, RO (R232). -/
def TWN_LAST_VERD : Fld := ⟨12, 4⟩
/-- TWN_LASTTICK.TICK, bits 31:0, RO (R232). -/
def TWN_LASTTICK_TICK : Fld := ⟨0, 32⟩
/-- TWN_DIV.WORD, bits 31:0, RO (R232). -/
def TWN_DIV_WORD : Fld := ⟨0, 32⟩
/-- TWN_CRC.CRC, bits 31:0, RO (R232). -/
def TWN_CRC_CRC : Fld := ⟨0, 32⟩
/-- TWN_RES.STAT, bits 31:28, RO (R232). -/
def TWN_RES_STAT : Fld := ⟨28, 4⟩
/-- TWN_RES.NREF, bits 26:16, RO (R232). -/
def TWN_RES_NREF : Fld := ⟨16, 11⟩
/-- TWN_RES.NAPP, bits 10:0, RO (R232). -/
def TWN_RES_NAPP : Fld := ⟨0, 11⟩
/-- TWN_RESPOS.POS, bits 10:0, RO (R232). -/
def TWN_RESPOS_POS : Fld := ⟨0, 11⟩
/-- TWN_APPLY.MAX, bits 31:16, RO (R232). -/
def TWN_APPLY_MAX : Fld := ⟨16, 16⟩
/-- TWN_APPLY.LAST, bits 15:0, RO (R232). -/
def TWN_APPLY_LAST : Fld := ⟨0, 16⟩
/-- TWN_CTL.READMIT, bits 1:0, LK (R232). -/
def TWN_CTL_READMIT : Fld := ⟨0, 2⟩
/-- TWN_RSTIME.US, bits 31:0, RO (R232). -/
def TWN_RSTIME_US : Fld := ⟨0, 32⟩
/-- RTC_SET.PEND, bits 31:31, RO (R317). -/
def RTC_SET_PEND : Fld := ⟨31, 1⟩
/-- RTC_SET.MODE, bits 1:0, WO (R317). -/
def RTC_SET_MODE : Fld := ⟨0, 2⟩
/-- RTC_SHIFT.PEND, bits 31:31, RO (R317). -/
def RTC_SHIFT_PEND : Fld := ⟨31, 1⟩
/-- RTC_SHIFT.NEG, bits 15:15, WO (R317). -/
def RTC_SHIFT_NEG : Fld := ⟨15, 1⟩
/-- RTC_SHIFT.COUNT, bits 14:0, WO (R317). -/
def RTC_SHIFT_COUNT : Fld := ⟨0, 15⟩
/-- RTC_DST.ST, bits 31:31, RO (R317). -/
def RTC_DST_ST : Fld := ⟨31, 1⟩
/-- RTC_DST.PEND, bits 30:30, RO (R317). -/
def RTC_DST_PEND : Fld := ⟨30, 1⟩
/-- RTC_DST.CMD, bits 1:0, WO (R317). -/
def RTC_DST_CMD : Fld := ⟨0, 2⟩
/-- RTC_TRIM.TRIM, bits 12:0, LK (R317). -/
def RTC_TRIM_TRIM : Fld := ⟨0, 13⟩
/-- RTC_TRIMCMD.BUSY, bits 31:31, RO (R317). -/
def RTC_TRIMCMD_BUSY : Fld := ⟨31, 1⟩
/-- RTC_TRIMCMD.RES, bits 30:28, RO (R317). -/
def RTC_TRIMCMD_RES : Fld := ⟨28, 3⟩
/-- RTC_TRIMCMD.NOM, bits 27:27, LK (R317). -/
def RTC_TRIMCMD_NOM : Fld := ⟨27, 1⟩
/-- RTC_TRIMCMD.SECS, bits 25:16, RO (R317). -/
def RTC_TRIMCMD_SECS : Fld := ⟨16, 10⟩
/-- RTC_TRIMCMD.CMD, bits 1:0, LK (R317). -/
def RTC_TRIMCMD_CMD : Fld := ⟨0, 2⟩
/-- RTC_TRIMERR.ERR, bits 31:0, RO (R317). -/
def RTC_TRIMERR_ERR : Fld := ⟨0, 32⟩
/-- RTC_TRUST.ONCELL, bits 4:4, RO (R317). -/
def RTC_TRUST_ONCELL : Fld := ⟨4, 1⟩
/-- RTC_TRUST.OSF, bits 3:3, RO (R317). -/
def RTC_TRUST_OSF : Fld := ⟨3, 1⟩
/-- RTC_TRUST.LBV, bits 2:2, RO (R317). -/
def RTC_TRUST_LBV : Fld := ⟨2, 1⟩
/-- RTC_TRUST.CODE, bits 1:0, RO (R317). -/
def RTC_TRUST_CODE : Fld := ⟨0, 2⟩
/-- RTC_VBAT.VRTC, bits 31:16, RO (R317). -/
def RTC_VBAT_VRTC : Fld := ⟨16, 16⟩
/-- RTC_VBAT.VCELL, bits 15:0, RO (R317). -/
def RTC_VBAT_VCELL : Fld := ⟨0, 16⟩
/-- RTC_ACFG.EN, bits 31:31, RW (R317). -/
def RTC_ACFG_EN : Fld := ⟨31, 1⟩
/-- RTC_ACFG.REPEAT, bits 30:30, RW (R317). -/
def RTC_ACFG_REPEAT : Fld := ⟨30, 1⟩
/-- RTC_ACFG.FLAG, bits 29:29, W1C (R317). -/
def RTC_ACFG_FLAG : Fld := ⟨29, 1⟩
/-- RTC_ACFG.SKIPPED, bits 28:28, RO (R317). -/
def RTC_ACFG_SKIPPED : Fld := ⟨28, 1⟩
/-- RTC_ACFG.MISSED, bits 27:27, RO (R317). -/
def RTC_ACFG_MISSED : Fld := ⟨27, 1⟩
/-- RTC_ACFG.MASK, bits 26:21, RW (R317). -/
def RTC_ACFG_MASK : Fld := ⟨21, 6⟩
/-- RTC_ATIME.HOUR, bits 21:16, RW (R317). -/
def RTC_ATIME_HOUR : Fld := ⟨16, 6⟩
/-- RTC_ATIME.MIN, bits 14:8, RW (R317). -/
def RTC_ATIME_MIN : Fld := ⟨8, 7⟩
/-- RTC_ATIME.SEC, bits 6:0, RW (R317). -/
def RTC_ATIME_SEC : Fld := ⟨0, 7⟩
/-- RTC_ADATE.DOW, bits 18:16, RW (R317). -/
def RTC_ADATE_DOW : Fld := ⟨16, 3⟩
/-- RTC_ADATE.MON, bits 12:8, RW (R317). -/
def RTC_ADATE_MON : Fld := ⟨8, 5⟩
/-- RTC_ADATE.DAY, bits 5:0, RW (R317). -/
def RTC_ADATE_DAY : Fld := ⟨0, 6⟩
/-- RTC_ADUET.TIME, bits 21:0, RO (R317). -/
def RTC_ADUET_TIME : Fld := ⟨0, 22⟩
/-- RTC_ADUED.DATE, bits 31:0, RO (R317). -/
def RTC_ADUED_DATE : Fld := ⟨0, 32⟩
/-- RTC_SEC.SUB, bits 30:16, RO (R317). -/
def RTC_SEC_SUB : Fld := ⟨16, 15⟩
/-- RTC_SEC.SEC, bits 6:0, RO (R317). -/
def RTC_SEC_SEC : Fld := ⟨0, 7⟩
/-- RTC_MIN.MIN, bits 6:0, RO (R317). -/
def RTC_MIN_MIN : Fld := ⟨0, 7⟩
/-- RTC_HOUR.HOUR, bits 5:0, RO (R317). -/
def RTC_HOUR_HOUR : Fld := ⟨0, 6⟩
/-- RTC_DOW.DOW, bits 2:0, RO (R317). -/
def RTC_DOW_DOW : Fld := ⟨0, 3⟩
/-- RTC_DAY.DAY, bits 5:0, RO (R317). -/
def RTC_DAY_DAY : Fld := ⟨0, 6⟩
/-- RTC_MON.MON, bits 4:0, RO (R317). -/
def RTC_MON_MON : Fld := ⟨0, 5⟩
/-- RTC_YEAR.YEAR, bits 7:0, RO (R317). -/
def RTC_YEAR_YEAR : Fld := ⟨0, 8⟩
/-- RTC_CENT.CENT, bits 7:0, RO (R317). -/
def RTC_CENT_CENT : Fld := ⟨0, 8⟩
/-- RTC_SSEC.SEC, bits 6:0, RW (R317). -/
def RTC_SSEC_SEC : Fld := ⟨0, 7⟩
/-- RTC_SMIN.MIN, bits 6:0, RW (R317). -/
def RTC_SMIN_MIN : Fld := ⟨0, 7⟩
/-- RTC_SHOUR.HOUR, bits 5:0, RW (R317). -/
def RTC_SHOUR_HOUR : Fld := ⟨0, 6⟩
/-- RTC_SDAY.DAY, bits 5:0, RW (R317). -/
def RTC_SDAY_DAY : Fld := ⟨0, 6⟩
/-- RTC_SMON.MON, bits 4:0, RW (R317). -/
def RTC_SMON_MON : Fld := ⟨0, 5⟩
/-- RTC_SYEAR.YEAR, bits 7:0, RW (R317). -/
def RTC_SYEAR_YEAR : Fld := ⟨0, 8⟩
/-- RTC_SCENT.CENT, bits 7:0, RW (R317). -/
def RTC_SCENT_CENT : Fld := ⟨0, 8⟩
/-- REC_STAT.FULL, bits 31:31, RO (R335). -/
def REC_STAT_FULL : Fld := ⟨31, 1⟩
/-- REC_STAT.REBUILD, bits 30:30, RO (R335). -/
def REC_STAT_REBUILD : Fld := ⟨30, 1⟩
/-- REC_STAT.REGW, bits 29:29, RO (R335). -/
def REC_STAT_REGW : Fld := ⟨29, 1⟩
/-- REC_STAT.USED, bits 17:0, RO (R335). -/
def REC_STAT_USED : Fld := ⟨0, 18⟩
/-- REC_NEXTSEQ.SEQ, bits 31:0, RO (R335). -/
def REC_NEXTSEQ_SEQ : Fld := ⟨0, 32⟩
/-- REC_NEXTSEQX.SEQ, bits 15:0, RO (R335). -/
def REC_NEXTSEQX_SEQ : Fld := ⟨0, 16⟩
/-- REC_FIFO.MAX, bits 14:8, RO (R335). -/
def REC_FIFO_MAX : Fld := ⟨8, 7⟩
/-- REC_FIFO.HELD, bits 6:0, RO (R335). -/
def REC_FIFO_HELD : Fld := ⟨0, 7⟩
/-- REC_SEVCNT.COUNT, bits 31:0, RO (R335). -/
def REC_SEVCNT_COUNT : Fld := ⟨0, 32⟩
/-- REC_LOST.COUNT, bits 31:0, RO (R335). -/
def REC_LOST_COUNT : Fld := ⟨0, 32⟩
/-- REC_DROP.COUNT, bits 31:0, RO (R335). -/
def REC_DROP_COUNT : Fld := ⟨0, 32⟩
/-- REC_SUPP.COUNT, bits 31:0, RO (R335). -/
def REC_SUPP_COUNT : Fld := ⟨0, 32⟩
/-- REC_LOSS.COUNT, bits 31:0, RO (R335). -/
def REC_LOSS_COUNT : Fld := ⟨0, 32⟩
/-- REC_CODECFG.SEV, bits 25:24, LK (R335). -/
def REC_CODECFG_SEV : Fld := ⟨24, 2⟩
/-- REC_CODECFG.SSET, bits 20:16, LK (R335). -/
def REC_CODECFG_SSET : Fld := ⟨16, 5⟩
/-- REC_CODECFG.RATE, bits 15:8, LK (R335). -/
def REC_CODECFG_RATE : Fld := ⟨8, 8⟩
/-- REC_CODECFG.BURST, bits 7:0, LK (R335). -/
def REC_CODECFG_BURST : Fld := ⟨0, 8⟩
/-- REC_SSADDR.ADDR, bits 31:0, LK (R335). -/
def REC_SSADDR_ADDR : Fld := ⟨0, 32⟩
/-- REC_CURSEQ.SEQ, bits 31:0, RW (R335). -/
def REC_CURSEQ_SEQ : Fld := ⟨0, 32⟩
/-- REC_CURSEQX.SEQ, bits 15:0, RW (R335). -/
def REC_CURSEQX_SEQ : Fld := ⟨0, 16⟩
/-- REC_CURCMD.MINSEV, bits 5:4, RW (R335). -/
def REC_CURCMD_MINSEV : Fld := ⟨4, 2⟩
/-- REC_CURCMD.MODE, bits 2:0, WO (R335). -/
def REC_CURCMD_MODE : Fld := ⟨0, 3⟩
/-- REC_CURST.VALID, bits 31:31, RO (R335). -/
def REC_CURST_VALID : Fld := ⟨31, 1⟩
/-- REC_CURST.STAT, bits 21:18, RO (R335). -/
def REC_CURST_STAT : Fld := ⟨18, 4⟩
/-- REC_CURST.SLOT, bits 16:0, RO (R335). -/
def REC_CURST_SLOT : Fld := ⟨0, 17⟩
/-- REC_WIN.DATA, bits 31:0, RO (R335). -/
def REC_WIN_DATA : Fld := ⟨0, 32⟩
/-- REC_REGWT.TIME, bits 21:0, RO (R335). -/
def REC_REGWT_TIME : Fld := ⟨0, 22⟩
/-- REC_REGWD.DATE, bits 31:0, RO (R335). -/
def REC_REGWD_DATE : Fld := ⟨0, 32⟩
/-- GLS_CFG.CFGERR, bits 31:31, RO (R280). -/
def GLS_CFG_CFGERR : Fld := ⟨31, 1⟩
/-- GLS_CFG.DINV, bits 28:28, RO (R280). -/
def GLS_CFG_DINV : Fld := ⟨28, 1⟩
/-- GLS_CFG.MODE, bits 27:26, RO (R280). -/
def GLS_CFG_MODE : Fld := ⟨26, 2⟩
/-- GLS_CFG.LIMEN, bits 23:23, RO (R280). -/
def GLS_CFG_LIMEN : Fld := ⟨23, 1⟩
/-- GLS_CFG.LPOL, bits 22:22, RO (R280). -/
def GLS_CFG_LPOL : Fld := ⟨22, 1⟩
/-- GLS_CFG.HPOL, bits 21:21, RO (R280). -/
def GLS_CFG_HPOL : Fld := ⟨21, 1⟩
/-- GLS_CFG.HDIR, bits 20:20, RO (R280). -/
def GLS_CFG_HDIR : Fld := ⟨20, 1⟩
/-- GLS_CFG.LIMP, bits 17:12, RO (R280). -/
def GLS_CFG_LIMP : Fld := ⟨12, 6⟩
/-- GLS_CFG.LIMN, bits 11:6, RO (R280). -/
def GLS_CFG_LIMN : Fld := ⟨6, 6⟩
/-- GLS_CFG.HDI, bits 5:0, RO (R280). -/
def GLS_CFG_HDI : Fld := ⟨0, 6⟩
/-- GLS_CUR.IRUN, bits 26:16, RO (R280). -/
def GLS_CUR_IRUN : Fld := ⟨16, 11⟩
/-- GLS_CUR.IHOLD, bits 10:0, RO (R280). -/
def GLS_CUR_IHOLD : Fld := ⟨0, 11⟩
/-- GLS_LOOP.KP, bits 31:16, RO (R280). -/
def GLS_LOOP_KP : Fld := ⟨16, 16⟩
/-- GLS_LOOP.KI, bits 15:0, RO (R280). -/
def GLS_LOOP_KI : Fld := ⟨0, 16⟩
/-- GLS_VMAX.VMAX, bits 31:0, RO (R280). -/
def GLS_VMAX_VMAX : Fld := ⟨0, 32⟩
/-- GLS_ACC.ACC, bits 31:0, RO (R280). -/
def GLS_ACC_ACC : Fld := ⟨0, 32⟩
/-- GLS_DEC.DEC, bits 31:0, RO (R280). -/
def GLS_DEC_DEC : Fld := ⟨0, 32⟩
/-- GLS_JERK.JERK, bits 31:0, RO (R280). -/
def GLS_JERK_JERK : Fld := ⟨0, 32⟩
/-- GLS_EDEC.EDEC, bits 31:0, RO (R280). -/
def GLS_EDEC_EDEC : Fld := ⟨0, 32⟩
/-- GLS_SSPD.SSPD, bits 31:0, RO (R280). -/
def GLS_SSPD_SSPD : Fld := ⟨0, 32⟩
/-- GLS_CSPD.CSPD, bits 31:0, RO (R280). -/
def GLS_CSPD_CSPD : Fld := ⟨0, 32⟩
/-- GLS_BOFF.BOFF, bits 31:0, RO (R280). -/
def GLS_BOFF_BOFF : Fld := ⟨0, 32⟩
/-- GLS_HDIST.HDIST, bits 31:0, RO (R280). -/
def GLS_HDIST_HDIST : Fld := ⟨0, 32⟩
/-- GLS_HOFS.HOFS, bits 31:0, RO (R280). -/
def GLS_HOFS_HOFS : Fld := ⟨0, 32⟩
/-- GLS_POS.POS, bits 31:0, RO (R280). -/
def GLS_POS_POS : Fld := ⟨0, 32⟩
/-- GLS_VEL.VEL, bits 31:0, RO (R280). -/
def GLS_VEL_VEL : Fld := ⟨0, 32⟩
/-- GLS_TGT.TGT, bits 31:0, RO (R280). -/
def GLS_TGT_TGT : Fld := ⟨0, 32⟩
/-- GLS_AXST.STATE, bits 31:29, RO (R280). -/
def GLS_AXST_STATE : Fld := ⟨29, 3⟩
/-- GLS_AXST.REF, bits 28:28, RO (R280). -/
def GLS_AXST_REF : Fld := ⟨28, 1⟩
/-- GLS_AXST.RESTORED, bits 27:27, RO (R280). -/
def GLS_AXST_RESTORED : Fld := ⟨27, 1⟩
/-- GLS_AXST.GRP, bits 26:26, RO (R280). -/
def GLS_AXST_GRP : Fld := ⟨26, 1⟩
/-- GLS_AXST.QUEUED, bits 25:25, RO (R280). -/
def GLS_AXST_QUEUED : Fld := ⟨25, 1⟩
/-- GLS_AXST.PENDPAR, bits 24:24, RO (R280). -/
def GLS_AXST_PENDPAR : Fld := ⟨24, 1⟩
/-- GLS_AXST.TBLPEND, bits 23:23, RO (R280). -/
def GLS_AXST_TBLPEND : Fld := ⟨23, 1⟩
/-- GLS_AXST.TSEL, bits 22:22, RO (R280). -/
def GLS_AXST_TSEL : Fld := ⟨22, 1⟩
/-- GLS_AXST.ESTOPLN, bits 21:21, RO (R280). -/
def GLS_AXST_ESTOPLN : Fld := ⟨21, 1⟩
/-- GLS_AXST.DRVFLT, bits 20:20, RO (R280). -/
def GLS_AXST_DRVFLT : Fld := ⟨20, 1⟩
/-- GLS_AXST.LOOPLOST, bits 19:19, RO (R280). -/
def GLS_AXST_LOOPLOST : Fld := ⟨19, 1⟩
/-- GLS_AXST.LIMN, bits 18:18, RO (R280). -/
def GLS_AXST_LIMN : Fld := ⟨18, 1⟩
/-- GLS_AXST.LIMP, bits 17:17, RO (R280). -/
def GLS_AXST_LIMP : Fld := ⟨17, 1⟩
/-- GLS_AXST.HOMEFAIL, bits 16:16, RO (R280). -/
def GLS_AXST_HOMEFAIL : Fld := ⟨16, 1⟩
/-- GLS_AXST.HPH, bits 15:13, RO (R280). -/
def GLS_AXST_HPH : Fld := ⟨13, 3⟩
/-- GLS_AXST.HCAUSE, bits 12:10, RO (R280). -/
def GLS_AXST_HCAUSE : Fld := ⟨10, 3⟩
/-- GLS_AXST.ECAUSE, bits 9:7, RO (R280). -/
def GLS_AXST_ECAUSE : Fld := ⟨7, 3⟩
/-- GLS_IMEAS.IA, bits 31:16, RO (R280). -/
def GLS_IMEAS_IA : Fld := ⟨16, 16⟩
/-- GLS_IMEAS.IB, bits 15:0, RO (R280). -/
def GLS_IMEAS_IB : Fld := ⟨0, 16⟩
/-- GLS_TBL.T, bits 15:0, RO (R280). -/
def GLS_TBL_T : Fld := ⟨0, 16⟩
/-- GLS_TSTG.T, bits 15:0, RO (R280). -/
def GLS_TSTG_T : Fld := ⟨0, 16⟩
/-- PNL_CFG.MODE, bits 31:30, RO (R298). -/
def PNL_CFG_MODE : Fld := ⟨30, 2⟩
/-- PNL_CFG.BSRC, bits 29:29, RO (R298). -/
def PNL_CFG_BSRC : Fld := ⟨29, 1⟩
/-- PNL_CFG.BIAS, bits 28:28, RO (R298). -/
def PNL_CFG_BIAS : Fld := ⟨28, 1⟩
/-- PNL_CFG.FRATE, bits 27:20, RO (R298). -/
def PNL_CFG_FRATE : Fld := ⟨20, 8⟩
/-- PNL_CFG.SEGS, bits 15:8, RO (R298). -/
def PNL_CFG_SEGS : Fld := ⟨8, 8⟩
/-- PNL_CFG.COMMONS, bits 6:0, RO (R298). -/
def PNL_CFG_COMMONS : Fld := ⟨0, 7⟩
/-- PNL_TIME.FRST, bits 31:24, RO (R298). -/
def PNL_TIME_FRST : Fld := ⟨24, 8⟩
/-- PNL_TIME.RST, bits 23:16, RO (R298). -/
def PNL_TIME_RST : Fld := ⟨16, 8⟩
/-- PNL_TIME.SEL, bits 15:8, RO (R298). -/
def PNL_TIME_SEL : Fld := ⟨8, 8⟩
/-- PNL_TIME.EVO, bits 7:0, RO (R298). -/
def PNL_TIME_EVO : Fld := ⟨0, 8⟩
/-- PNL_VC.VRST, bits 31:16, RO (R298). -/
def PNL_VC_VRST : Fld := ⟨16, 16⟩
/-- PNL_VC.VSEL, bits 15:0, RO (R298). -/
def PNL_VC_VSEL : Fld := ⟨0, 16⟩
/-- PNL_STAT.RUN, bits 31:31, RO (R298). -/
def PNL_STAT_RUN : Fld := ⟨31, 1⟩
/-- PNL_STAT.PUMPON, bits 30:30, RO (R298). -/
def PNL_STAT_PUMPON : Fld := ⟨30, 1⟩
/-- PNL_STAT.DEFER, bits 29:29, RO (R298). -/
def PNL_STAT_DEFER : Fld := ⟨29, 1⟩
/-- PNL_STAT.PUMPERR, bits 28:28, RO (R298). -/
def PNL_STAT_PUMPERR : Fld := ⟨28, 1⟩
/-- PNL_STAT.TFAULT, bits 27:27, RO (R298). -/
def PNL_STAT_TFAULT : Fld := ⟨27, 1⟩
/-- PNL_STAT.JLOST, bits 26:26, RO (R298). -/
def PNL_STAT_JLOST : Fld := ⟨26, 1⟩
/-- PNL_STAT.CFGERR, bits 25:25, RO (R298). -/
def PNL_STAT_CFGERR : Fld := ⟨25, 1⟩
/-- PNL_STAT.MAPERR, bits 24:21, RO (R298). -/
def PNL_STAT_MAPERR : Fld := ⟨21, 4⟩
/-- PNL_STAT.PHASE, bits 9:8, RO (R298). -/
def PNL_STAT_PHASE : Fld := ⟨8, 2⟩
/-- PNL_STAT.ROW, bits 5:0, RO (R298). -/
def PNL_STAT_ROW : Fld := ⟨0, 6⟩
/-- PNL_QST.COUNT, bits 31:28, RO (R298). -/
def PNL_QST_COUNT : Fld := ⟨28, 4⟩
/-- PNL_QST.LASTTAG, bits 27:22, RO (R298). -/
def PNL_QST_LASTTAG : Fld := ⟨22, 6⟩
/-- PNL_QST.CURTAG, bits 21:16, RO (R298). -/
def PNL_QST_CURTAG : Fld := ⟨16, 6⟩
/-- PNL_QST.FULL, bits 0:0, RO (R298). -/
def PNL_QST_FULL : Fld := ⟨0, 1⟩
/-- PNL_PEND.ROWS, bits 31:0, RO (R298). -/
def PNL_PEND_ROWS : Fld := ⟨0, 32⟩
/-- PNL_TEMP.T, bits 31:16, RO (R298). -/
def PNL_TEMP_T : Fld := ⟨16, 16⟩
/-- PNL_TEMP.RPT, bits 15:0, RO (R298). -/
def PNL_TEMP_RPT : Fld := ⟨0, 16⟩
/-- PNL_PUMP.VRST, bits 31:16, RO (R298). -/
def PNL_PUMP_VRST : Fld := ⟨16, 16⟩
/-- PNL_PUMP.VSEL, bits 15:0, RO (R298). -/
def PNL_PUMP_VSEL : Fld := ⟨0, 16⟩
/-- PNL_CNT.ROWS, bits 31:8, RO (R298). -/
def PNL_CNT_ROWS : Fld := ⟨8, 24⟩
/-- PNL_CNT.REPL, bits 7:0, RO (R298). -/
def PNL_CNT_REPL : Fld := ⟨0, 8⟩
/-- PNL_CTL.RETRY, bits 0:0, LK (R298). -/
def PNL_CTL_RETRY : Fld := ⟨0, 1⟩
/-- PNL_MAPSEL.COMMIT, bits 31:31, LK (R298). -/
def PNL_MAPSEL_COMMIT : Fld := ⟨31, 1⟩
/-- PNL_MAPSEL.MAP, bits 1:0, LK (R298). -/
def PNL_MAPSEL_MAP : Fld := ⟨0, 2⟩
/-- PNL_JROW.POL, bits 2:2, RO (R298). -/
def PNL_JROW_POL : Fld := ⟨2, 1⟩
/-- PNL_JROW.STATE, bits 1:0, RO (R298). -/
def PNL_JROW_STATE : Fld := ⟨0, 2⟩
/-- PNL_BUF.PIX, bits 31:0, RO (R298). -/
def PNL_BUF_PIX : Fld := ⟨0, 32⟩
/-- PNL_MAP.TRIM, bits 31:0, LK (R298). -/
def PNL_MAP_TRIM : Fld := ⟨0, 32⟩
/-- RNG_STAT.JOINED, bits 31:31, RO (R363). -/
def RNG_STAT_JOINED : Fld := ⟨31, 1⟩
/-- RNG_STAT.NOIMG, bits 30:30, RO (R363). -/
def RNG_STAT_NOIMG : Fld := ⟨30, 1⟩
/-- RNG_STAT.PULL, bits 29:29, RO (R363). -/
def RNG_STAT_PULL : Fld := ⟨29, 1⟩
/-- RNG_STAT.DUPADDR, bits 28:28, RO (R363). -/
def RNG_STAT_DUPADDR : Fld := ⟨28, 1⟩
/-- RNG_STAT.ADDRCHG, bits 27:27, RO (R363). -/
def RNG_STAT_ADDRCHG : Fld := ⟨27, 1⟩
/-- RNG_STAT.LAYOUT, bits 26:26, RO (R363). -/
def RNG_STAT_LAYOUT : Fld := ⟨26, 1⟩
/-- RNG_STAT.EPOCHOK, bits 25:25, RO (R363). -/
def RNG_STAT_EPOCHOK : Fld := ⟨25, 1⟩
/-- RNG_STAT.DIGOK, bits 24:24, RO (R363). -/
def RNG_STAT_DIGOK : Fld := ⟨24, 1⟩
/-- RNG_STAT.HEPOCH, bits 23:8, RO (R363). -/
def RNG_STAT_HEPOCH : Fld := ⟨8, 16⟩
/-- RNG_STAT.ADDR, bits 6:0, RO (R363). -/
def RNG_STAT_ADDR : Fld := ⟨0, 7⟩
/-- RNG_PORT.STATE, bits 31:30, RO (R363). -/
def RNG_PORT_STATE : Fld := ⟨30, 2⟩
/-- RNG_PORT.PHY, bits 29:29, RO (R363). -/
def RNG_PORT_PHY : Fld := ⟨29, 1⟩
/-- RNG_PORT.LOOPT, bits 28:28, RO (R363). -/
def RNG_PORT_LOOPT : Fld := ⟨28, 1⟩
/-- RNG_PORT.MISS, bits 23:16, RO (R363). -/
def RNG_PORT_MISS : Fld := ⟨16, 8⟩
/-- RNG_PORT.CRCERR, bits 15:0, RO (R363). -/
def RNG_PORT_CRCERR : Fld := ⟨0, 16⟩
/-- RNG_CYCLE.VAL, bits 31:0, RO (R363). -/
def RNG_CYCLE_VAL : Fld := ⟨0, 32⟩
/-- RNG_HTIME.VAL, bits 31:0, RO (R363). -/
def RNG_HTIME_VAL : Fld := ⟨0, 32⟩
/-- RNG_HDIG.VAL, bits 31:0, RO (R363). -/
def RNG_HDIG_VAL : Fld := ⟨0, 32⟩
/-- RNG_CFG.ETYPE, bits 31:16, RO (R363). -/
def RNG_CFG_ETYPE : Fld := ⟨16, 16⟩
/-- RNG_CFG.MODE, bits 15:15, RO (R363). -/
def RNG_CFG_MODE : Fld := ⟨15, 1⟩
/-- RNG_CFG.NN, bits 6:0, RO (R363). -/
def RNG_CFG_NN : Fld := ⟨0, 7⟩
/-- RNG_CYCT.CYCT, bits 16:0, RO (R363). -/
def RNG_CYCT_CYCT : Fld := ⟨0, 17⟩
/-- RNG_MBX.TAKEN, bits 31:16, RO (R363). -/
def RNG_MBX_TAKEN : Fld := ⟨16, 16⟩
/-- RNG_MBX.REPEAT, bits 15:8, RO (R363). -/
def RNG_MBX_REPEAT : Fld := ⟨8, 8⟩
/-- RNG_MBX.DROP, bits 7:0, RO (R363). -/
def RNG_MBX_DROP : Fld := ⟨0, 8⟩
/-- RNG_IMG.STATE, bits 31:30, RO (R363). -/
def RNG_IMG_STATE : Fld := ⟨30, 2⟩
/-- RNG_IMG.SRC, bits 29:29, RO (R363). -/
def RNG_IMG_SRC : Fld := ⟨29, 1⟩
/-- RNG_IMG.TGT, bits 28:28, RO (R363). -/
def RNG_IMG_TGT : Fld := ⟨28, 1⟩
/-- RNG_IMG.RES, bits 27:24, RO (R363). -/
def RNG_IMG_RES : Fld := ⟨24, 4⟩
/-- RNG_IMG.UNITS, bits 16:0, RO (R363). -/
def RNG_IMG_UNITS : Fld := ⟨0, 17⟩
/-- RNG_IMGLEN.LEN, bits 31:0, RO (R363). -/
def RNG_IMGLEN_LEN : Fld := ⟨0, 32⟩
/-- RWN_CTL.EN, bits 0:0, LK (R400). -/
def RWN_CTL_EN : Fld := ⟨0, 1⟩
/-- RWN_ST.PAIROPEN, bits 31:31, RO (R400). -/
def RWN_ST_PAIROPEN : Fld := ⟨31, 1⟩
/-- RWN_ST.POFS, bits 27:16, RO (R400). -/
def RWN_ST_POFS : Fld := ⟨16, 12⟩
/-- RWN_ST.IGN, bits 15:8, RO (R400). -/
def RWN_ST_IGN : Fld := ⟨8, 8⟩
/-- RWN_ST.DISC, bits 7:2, RO (R400). -/
def RWN_ST_DISC : Fld := ⟨2, 6⟩
/-- RWN_ST.PAGE, bits 1:0, RO (R400). -/
def RWN_ST_PAGE : Fld := ⟨0, 2⟩
/-- RWN_RLO.GROUP, bits 31:24, LK (R400). -/
def RWN_RLO_GROUP : Fld := ⟨24, 8⟩
/-- RWN_RLO.VAL, bits 23:0, LK (R400). -/
def RWN_RLO_VAL : Fld := ⟨0, 24⟩
/-- RWN_RHI.VAL, bits 23:0, LK (R400). -/
def RWN_RHI_VAL : Fld := ⟨0, 24⟩
/-- SVC_STAT.ATTACHED, bits 31:31, RO (R366). -/
def SVC_STAT_ATTACHED : Fld := ⟨31, 1⟩
/-- SVC_STAT.CONFIG, bits 30:30, RO (R366). -/
def SVC_STAT_CONFIG : Fld := ⟨30, 1⟩
/-- SVC_STAT.SESSION, bits 29:29, RO (R366). -/
def SVC_STAT_SESSION : Fld := ⟨29, 1⟩
/-- SVC_STAT.BADFR, bits 15:8, RO (R366). -/
def SVC_STAT_BADFR : Fld := ⟨8, 8⟩
/-- SVC_STAT.REQ, bits 7:0, RO (R366). -/
def SVC_STAT_REQ : Fld := ⟨0, 8⟩
/-- DIG_STAT.RUN, bits 31:31, RO (R364). -/
def DIG_STAT_RUN : Fld := ⟨31, 1⟩
/-- DIG_STAT.COMOK, bits 30:30, RO (R364). -/
def DIG_STAT_COMOK : Fld := ⟨30, 1⟩
/-- DIG_STAT.IMGOK, bits 29:29, RO (R364). -/
def DIG_STAT_IMGOK : Fld := ⟨29, 1⟩
/-- DIG_STAT.TAGGED, bits 28:28, RO (R364). -/
def DIG_STAT_TAGGED : Fld := ⟨28, 1⟩
/-- DIG_STAT.PASSES, bits 15:0, RO (R364). -/
def DIG_STAT_PASSES : Fld := ⟨0, 16⟩
/-- DIG_COMMON.VAL, bits 31:0, RO (R364). -/
def DIG_COMMON_VAL : Fld := ⟨0, 32⟩
/-- DIG_IMAGE.VAL, bits 31:0, RO (R364). -/
def DIG_IMAGE_VAL : Fld := ⟨0, 32⟩
/-- DIG_STCOM.VAL, bits 31:0, RO (R364). -/
def DIG_STCOM_VAL : Fld := ⟨0, 32⟩
/-- DIG_STIMG.VAL, bits 31:0, RO (R364). -/
def DIG_STIMG_VAL : Fld := ⟨0, 32⟩
/-- DIG_LAST.VAL, bits 31:0, RO (R364). -/
def DIG_LAST_VAL : Fld := ⟨0, 32⟩

end F

/-- The registers of the SYS block. -/
def regsSYS : List RegDesc := [
  ⟨0x40000400, 4, 22, 4, 1, 0x0, 0x0, 0x0, 0x0, 0x0, 0x0⟩,
  ⟨0x40000460, 4, 1, 4, 1, 0x7f, 0x0, 0x0, 0x0, 0x0, 0x0⟩,
  ⟨0x40000600, 4, 8, 4, 1, 0x0, 0x0, 0x0, 0xffffffff, 0x0, 0x0⟩,
  ⟨0x40000640, 4, 8, 4, 1, 0x0, 0x0, 0x0, 0xffffffff, 0x0, 0x0⟩,
  ⟨0x40000660, 4, 1, 4, 1, 0x0, 0x0, 0x0, 0x1, 0x0, 0x0⟩,
  ⟨0x40000664, 4, 1, 4, 1, 0x0, 0x0, 0x0, 0x0, 0x0, 0x1⟩,
  ⟨0x40000000, 4, 1, 4, 1, 0x10128, 0x0, 0x0, 0x0, 0x0, 0x0⟩,
  ⟨0x40000010, 4, 1, 4, 1, 0x0, 0x0, 0x0, 0xffff0003, 0x0, 0x0⟩,
  ⟨0x40000020, 4, 1, 4, 1, 0x0, 0x0, 0x0, 0x0, 0x0, 0x200ffff⟩,
  ⟨0x40000024, 4, 1, 4, 1, 0x0, 0x0, 0x0, 0x0, 0x0, 0x0⟩,
  ⟨0x40000028, 4, 1, 4, 1, 0x0, 0x0, 0x0, 0x0, 0x0, 0x0⟩,
  ⟨0x40000030, 4, 1, 4, 1, 0x0, 0xffff, 0x0, 0x0, 0x0, 0x0⟩,
  ⟨0x40000034, 4, 1, 4, 1, 0x0, 0x0, 0x0, 0x0, 0x0, 0xffff0000⟩,
  ⟨0x40000200, 4, 16, 4, 1, 0x0, 0x0, 0x0, 0x0, 0x0, 0x6000000⟩,
  ⟨0x40000340, 4, 16, 4, 1, 0x0, 0x0, 0x0, 0x0, 0x0, 0x6000000⟩,
  ⟨0x40000300, 4, 1, 4, 1, 0x0, 0x0, 0x7, 0x0, 0x0, 0x0⟩,
  ⟨0x40000320, 4, 1, 4, 1, 0x0, 0x0, 0x0, 0x0, 0x0, 0x0⟩]

/-- The registers of the PWR block. -/
def regsPWR : List RegDesc := [
  ⟨0x40010000, 4, 1, 4, 1, 0x0, 0x0, 0x0, 0x0, 0x0, 0x0⟩,
  ⟨0x40010004, 4, 1, 4, 1, 0x0, 0x0, 0x0, 0x0, 0x0, 0x0⟩,
  ⟨0x40010008, 4, 1, 4, 1, 0x0, 0x0, 0x0, 0x0, 0x0, 0xffff⟩,
  ⟨0x4001000c, 4, 1, 4, 1, 0x3, 0x0, 0x0, 0x0, 0x0, 0x0⟩,
  ⟨0x40010010, 4, 2, 4, 1, 0x0, 0x0, 0x0, 0x0, 0x0, 0x0⟩,
  ⟨0x40010018, 4, 1, 4, 1, 0x0, 0x0, 0x0, 0x0, 0x0, 0xffffffff⟩,
  ⟨0x4001001c, 4, 1, 4, 1, 0x0, 0xf, 0x0, 0x0, 0x0, 0x0⟩,
  ⟨0x40010020, 4, 1, 4, 1, 0x0, 0x0, 0x0, 0x0, 0x0, 0xffffffff⟩]

/-- The registers of the CLK block. -/
def regsCLK : List RegDesc := [
  ⟨0x40020000, 4, 1, 4, 1, 0x0, 0x0, 0x0, 0x0, 0x0, 0x0⟩,
  ⟨0x40020004, 4, 1, 4, 1, 0x0, 0x0, 0x0, 0x0, 0x0, 0x0⟩,
  ⟨0x40020008, 4, 1, 4, 1, 0x0, 0x0, 0x0, 0x0, 0xffff, 0x0⟩,
  ⟨0x4002000c, 4, 1, 4, 1, 0x0, 0x0, 0x0, 0x0, 0x0, 0xffffffff⟩]

/-- The registers of the AFE block. -/
def regsAFE : List RegDesc := [
  ⟨0x40040000, 16, 132, 16, 1, 0x0, 0xffff031f, 0x0, 0x0, 0x0, 0x0⟩,
  ⟨0x40040004, 16, 132, 16, 1, 0x0, 0x10107ff, 0x0, 0x0, 0x0, 0x0⟩,
  ⟨0x40040008, 16, 132, 16, 1, 0x0, 0xffff, 0x0, 0x0, 0x0, 0xffff⟩,
  ⟨0x4004000c, 16, 132, 16, 1, 0x0, 0x0, 0x0, 0x0, 0x1ff0000, 0x0⟩,
  ⟨0x40040900, 16, 9, 16, 1, 0x0, 0x3, 0x0, 0x0, 0x0, 0x0⟩,
  ⟨0x40040904, 16, 9, 16, 1, 0x0, 0x0, 0x0, 0x0, 0x0, 0x3fffff⟩,
  ⟨0x40040908, 16, 9, 16, 1, 0x0, 0x0, 0x0, 0x0, 0x0, 0x3fffff⟩,
  ⟨0x4004090c, 16, 9, 16, 1, 0x0, 0x0, 0x0, 0x0, 0x0, 0x0⟩,
  ⟨0x40040a00, 4, 5, 4, 1, 0x0, 0x0, 0x0, 0x0, 0x0, 0x0⟩,
  ⟨0x40040a20, 4, 1, 4, 1, 0x0, 0x0, 0x0, 0x0, 0x0, 0x0⟩,
  ⟨0x40040a24, 4, 4, 4, 1, 0x0, 0x0, 0x0, 0x0, 0x0, 0x0⟩,
  ⟨0x40040a40, 4, 1, 4, 1, 0x0, 0x0, 0x0, 0x0, 0x0, 0x0⟩,
  ⟨0x40040c00, 16, 132, 16, 1, 0x0, 0x1ff, 0x0, 0x0, 0x0, 0x0⟩,
  ⟨0x40040c04, 16, 132, 16, 1, 0x0, 0x0, 0x0, 0x0, 0x0, 0x0⟩,
  ⟨0x40040c08, 16, 132, 16, 1, 0x0, 0x0, 0x0, 0x0, 0x0, 0x0⟩,
  ⟨0x40040c0c, 16, 132, 16, 1, 0x0, 0x0, 0x0, 0x0, 0x0, 0x0⟩,
  ⟨0x40041800, 128, 9, 8, 12, 0x0, 0x0, 0x0, 0x0, 0x0, 0xffffff⟩,
  ⟨0x40041804, 128, 9, 8, 12, 0x40000000, 0x0, 0x0, 0x0, 0x0, 0xffffffff⟩,
  ⟨0x40041e00, 4, 1, 4, 1, 0x2580000, 0xffff0000, 0x0, 0xf1ff, 0x0, 0x0⟩,
  ⟨0x40041e04, 4, 1, 4, 1, 0xf0000000, 0x0, 0x0, 0x0, 0x0, 0x1ff⟩,
  ⟨0x40041e10, 4, 9, 4, 1, 0x0, 0x0, 0x0, 0x0, 0x0, 0xffffffff⟩]

/-- The registers of the SEQ block. -/
def regsSEQ : List RegDesc := [
  ⟨0x40050000, 32, 9, 32, 1, 0x0, 0xc, 0x0, 0x0, 0x0, 0x0⟩,
  ⟨0x40050004, 32, 9, 32, 1, 0x1f0000, 0x0, 0x0, 0x0, 0x0, 0x0⟩,
  ⟨0x40050008, 32, 9, 32, 1, 0x0, 0x0, 0x0, 0x0, 0x0, 0x0⟩,
  ⟨0x4005000c, 32, 9, 32, 1, 0x0, 0x0, 0x0, 0x0, 0x0, 0x0⟩,
  ⟨0x40050010, 32, 9, 32, 1, 0x0, 0x0, 0x0, 0x0, 0x3f, 0x0⟩,
  ⟨0x40050014, 32, 9, 32, 1, 0x0, 0x0, 0x0, 0x0, 0x0, 0x0⟩,
  ⟨0x40050018, 32, 9, 32, 1, 0x0, 0x0, 0x0, 0x0, 0x0, 0x0⟩,
  ⟨0x40050200, 16, 16, 16, 1, 0x0, 0x7ffffff, 0x0, 0x0, 0x0, 0x0⟩,
  ⟨0x40050204, 16, 16, 16, 1, 0x0, 0x7ffffff, 0x0, 0x0, 0x0, 0x0⟩,
  ⟨0x40050208, 16, 16, 16, 1, 0x0, 0x0, 0x0, 0x0, 0x0, 0x0⟩,
  ⟨0x40050300, 4, 1, 4, 1, 0x0, 0x0, 0x0, 0x0, 0x0, 0x0⟩,
  ⟨0x40051000, 2048, 9, 4, 512, 0x0, 0xffffff, 0x0, 0x0, 0x0, 0x0⟩]

/-- The registers of the LIM block. -/
def regsLIM : List RegDesc := [
  ⟨0x40068000, 16, 2048, 16, 1, 0x0, 0x0, 0x0, 0x0, 0x0, 0x0⟩,
  ⟨0x40068004, 16, 2048, 16, 1, 0x0, 0x0, 0x0, 0x0, 0x0, 0x0⟩,
  ⟨0x40068008, 16, 2048, 16, 1, 0x0, 0x0, 0x0, 0x0, 0x0, 0x0⟩,
  ⟨0x4006800c, 16, 2048, 16, 1, 0x0, 0x0, 0x0, 0x0, 0x0, 0x0⟩,
  ⟨0x40060000, 4, 1, 4, 1, 0x0, 0x0, 0x0, 0x0, 0x0, 0x0⟩,
  ⟨0x40060004, 4, 1, 4, 1, 0x0, 0x0, 0x0, 0x0, 0x0, 0x0⟩,
  ⟨0x40060010, 4, 2, 4, 1, 0x0, 0x0, 0x0, 0x0, 0x0, 0xffffffff⟩,
  ⟨0x40060018, 4, 2, 4, 1, 0x0, 0x0, 0x0, 0x0, 0x0, 0x0⟩,
  ⟨0x40060020, 4, 4, 4, 1, 0x0, 0xffffffff, 0x0, 0x0, 0x0, 0x0⟩,
  ⟨0x40060030, 4, 1, 4, 1, 0x0, 0x0, 0x0, 0xc00007ff, 0x0, 0x0⟩,
  ⟨0x40060034, 4, 1, 4, 1, 0x0, 0x0, 0x0, 0x0, 0x0, 0x0⟩,
  ⟨0x40060100, 4, 64, 4, 1, 0x0, 0xffff, 0x0, 0x0, 0x0, 0x0⟩,
  ⟨0x40062000, 4, 256, 4, 1, 0x0, 0x0, 0x0, 0x0, 0x0, 0x0⟩,
  ⟨0x40062400, 4, 32, 4, 1, 0x0, 0x0, 0x0, 0x0, 0x0, 0x0⟩,
  ⟨0x40062800, 16, 64, 16, 1, 0x0, 0x0, 0x0, 0x0, 0x0, 0x0⟩,
  ⟨0x40062804, 16, 64, 16, 1, 0x0, 0x0, 0x0, 0x0, 0x0, 0x0⟩,
  ⟨0x40062808, 16, 64, 16, 1, 0x0, 0x0, 0x0, 0x0, 0x0, 0x0⟩,
  ⟨0x4006280c, 16, 64, 16, 1, 0x0, 0x0, 0x0, 0x0, 0x0, 0x0⟩,
  ⟨0x40064000, 4, 2048, 4, 1, 0x0, 0x0, 0x0, 0x0, 0x0, 0x4c0⟩]

/-- The registers of the CRV block. -/
def regsCRV : List RegDesc := [
  ⟨0x40070000, 16, 132, 16, 1, 0xff00, 0x707ff00, 0x0, 0x0, 0x0, 0x0⟩,
  ⟨0x40070004, 16, 132, 16, 1, 0x1000000, 0xffffffff, 0x0, 0x0, 0x0, 0x0⟩,
  ⟨0x40070008, 16, 132, 16, 1, 0x0, 0xffffffff, 0x0, 0x0, 0x0, 0x0⟩,
  ⟨0x4007000c, 16, 132, 16, 1, 0x0, 0x0, 0x0, 0x0, 0x0, 0x0⟩,
  ⟨0x40070900, 4, 1, 4, 1, 0x0, 0x0, 0x3f, 0x0, 0x0, 0x0⟩,
  ⟨0x40070904, 4, 1, 4, 1, 0x0, 0x0, 0x0, 0x0, 0x0, 0x0⟩,
  ⟨0x40070908, 4, 1, 4, 1, 0x0, 0x0, 0x0, 0x0, 0x0, 0x0⟩,
  ⟨0x4007090c, 4, 1, 4, 1, 0x0, 0xffffffff, 0x0, 0x0, 0x0, 0x0⟩,
  ⟨0x40071000, 4, 257, 4, 1, 0x0, 0x0, 0x0, 0x0, 0x0, 0x0⟩]

/-- The registers of the TRP block. -/
def regsTRP : List RegDesc := [
  ⟨0x40080000, 4, 1, 4, 1, 0x0, 0x0, 0x0, 0x0, 0x0, 0x0⟩,
  ⟨0x40080010, 4, 2, 4, 1, 0x0, 0x0, 0x0, 0x0, 0x0, 0x0⟩,
  ⟨0x40080018, 4, 2, 4, 1, 0x0, 0x0, 0x0, 0x0, 0x0, 0x0⟩,
  ⟨0x40080020, 4, 1, 4, 1, 0x0, 0x0, 0x0, 0x0, 0x0, 0xffff⟩,
  ⟨0x40080030, 4, 4, 4, 1, 0x0, 0x0, 0x0, 0x0, 0x0, 0x0⟩,
  ⟨0x40080100, 4, 64, 4, 1, 0x0, 0x0, 0x0, 0x0, 0x0, 0x0⟩,
  ⟨0x40080200, 16, 12, 16, 1, 0x0, 0x0, 0x0, 0x0, 0x0, 0x0⟩,
  ⟨0x40080204, 16, 12, 16, 1, 0x0, 0x0, 0x0, 0x0, 0x0, 0x0⟩,
  ⟨0x40080208, 16, 12, 16, 1, 0x0, 0x0, 0x0, 0x0, 0x0, 0x0⟩,
  ⟨0x4008020c, 16, 12, 16, 1, 0x0, 0x0, 0x0, 0x0, 0x0, 0x0⟩,
  ⟨0x40080300, 16, 4, 16, 1, 0x0, 0x0, 0x0, 0x0, 0x0, 0x0⟩,
  ⟨0x40080304, 16, 4, 16, 1, 0x0, 0x0, 0x0, 0x0, 0x0, 0x0⟩,
  ⟨0x40080308, 16, 4, 16, 1, 0x0, 0x0, 0x0, 0x0, 0x0, 0x0⟩,
  ⟨0x40081000, 32, 128, 4, 5, 0x0, 0x0, 0x0, 0x0, 0x0, 0x0⟩,
  ⟨0x40082000, 32, 56, 4, 4, 0x0, 0x0, 0x0, 0x0, 0x0, 0x0⟩,
  ⟨0x40082010, 32, 56, 32, 1, 0x0, 0x0, 0x0, 0x0, 0x0, 0x0⟩,
  ⟨0x40083000, 64, 16, 4, 4, 0x0, 0x0, 0x0, 0x0, 0x0, 0x0⟩,
  ⟨0x40083010, 64, 16, 4, 4, 0x0, 0x0, 0x0, 0x0, 0x0, 0x0⟩,
  ⟨0x40083020, 64, 16, 64, 1, 0x0, 0x0, 0x0, 0x0, 0x0, 0x0⟩]

/-- The registers of the DIO block. -/
def regsDIO : List RegDesc := [
  ⟨0x40090000, 4, 48, 4, 1, 0x0, 0x3f0ff, 0x0, 0x0, 0x0, 0x0⟩,
  ⟨0x40090100, 4, 2, 4, 1, 0x0, 0x0, 0x0, 0x0, 0x0, 0x0⟩,
  ⟨0x40090108, 4, 2, 4, 1, 0x0, 0x0, 0x0, 0x0, 0x0, 0x0⟩,
  ⟨0x40090110, 4, 2, 4, 1, 0x0, 0x0, 0x0, 0x0, 0x0, 0x0⟩,
  ⟨0x40090118, 4, 2, 4, 1, 0x0, 0x0, 0x0, 0x0, 0xffffffff, 0x0⟩,
  ⟨0x40090200, 4, 48, 4, 1, 0x0, 0x0, 0x0, 0x0, 0x0, 0x0⟩,
  ⟨0x40090300, 4, 16, 4, 1, 0x0, 0x0, 0x0, 0x0, 0x0, 0xffffffff⟩,
  ⟨0x40090340, 4, 4, 4, 1, 0x0, 0x0, 0x0, 0x0, 0x0, 0x0⟩,
  ⟨0x40090350, 4, 1, 4, 1, 0x0, 0xf, 0x0, 0x0, 0x0, 0x0⟩,
  ⟨0x40090400, 4, 48, 4, 1, 0x0, 0x7e00000f, 0x0, 0x0, 0x0, 0x0⟩,
  ⟨0x40090500, 4, 48, 4, 1, 0x3f, 0x0, 0x0, 0x0, 0xff00, 0x0⟩,
  ⟨0x40090600, 4, 48, 4, 1, 0x0, 0x0, 0x0, 0x0, 0x0, 0x0⟩,
  ⟨0x40090700, 16, 4, 16, 1, 0x0, 0x0, 0x0, 0x0, 0x0, 0x0⟩,
  ⟨0x40090704, 16, 4, 16, 1, 0x0, 0x0, 0x0, 0x0, 0x0, 0x0⟩,
  ⟨0x40090708, 16, 4, 16, 1, 0x0, 0x0, 0x0, 0x0, 0x0, 0xffffffff⟩,
  ⟨0x40090800, 4, 1, 4, 1, 0x0, 0x3, 0x0, 0x0, 0x0, 0x0⟩,
  ⟨0x40090804, 4, 2, 4, 1, 0x0, 0x0, 0x0, 0x0, 0x0, 0x0⟩,
  ⟨0x4009080c, 4, 1, 4, 1, 0x0, 0x0, 0x0, 0x0, 0x0, 0x0⟩]

/-- The registers of the ALM block. -/
def regsALM : List RegDesc := [
  ⟨0x400a0000, 4, 1, 4, 1, 0x0, 0x0, 0x0, 0x0, 0x0, 0x0⟩,
  ⟨0x400a0004, 4, 1, 4, 1, 0x0, 0x0, 0x0, 0x0, 0x0, 0x0⟩,
  ⟨0x400a0010, 4, 8, 4, 1, 0x0, 0x0, 0x0, 0x0, 0x0, 0x0⟩,
  ⟨0x400a0040, 4, 2, 4, 1, 0x0, 0x0, 0x0, 0x0, 0x0, 0x0⟩,
  ⟨0x400a1000, 128, 16, 128, 1, 0x0, 0x0, 0x0, 0x0, 0x0, 0x0⟩,
  ⟨0x400a1004, 128, 16, 128, 1, 0x0, 0x0, 0x0, 0x0, 0x0, 0xf8f001ff⟩,
  ⟨0x400a1008, 128, 16, 128, 1, 0x0, 0x0, 0x0, 0x0, 0x0, 0xffffffff⟩,
  ⟨0x400a100c, 128, 16, 128, 1, 0x0, 0x0, 0x0, 0x0, 0x0, 0x0⟩,
  ⟨0x400a1010, 128, 16, 128, 1, 0x0, 0x0, 0x0, 0x0, 0x0, 0xffffffff⟩,
  ⟨0x400a1020, 128, 16, 16, 4, 0x0, 0x0, 0x0, 0x0, 0x0, 0x0⟩,
  ⟨0x400a1024, 128, 16, 16, 4, 0x0, 0x0, 0x0, 0x0, 0x0, 0x0⟩,
  ⟨0x400a1028, 128, 16, 16, 4, 0x0, 0x0, 0x0, 0x0, 0x0, 0x0⟩,
  ⟨0x400a102c, 128, 16, 16, 4, 0x0, 0x0, 0x0, 0x0, 0x0, 0x0⟩,
  ⟨0x400a2000, 16, 256, 16, 1, 0x0, 0x0, 0x0, 0x0, 0x0, 0x0⟩,
  ⟨0x400a2004, 16, 256, 16, 1, 0x0, 0x0, 0x0, 0x0, 0x0, 0xf00007ff⟩,
  ⟨0x400a2008, 16, 256, 16, 1, 0x0, 0x0, 0x0, 0x0, 0x0, 0xfff0fff⟩,
  ⟨0x400a200c, 16, 256, 16, 1, 0x0, 0x0, 0x0, 0x0, 0x0, 0xfff⟩,
  ⟨0x400a4000, 8, 2048, 8, 1, 0x0, 0x0, 0x0, 0x0, 0x0, 0xf801ffff⟩,
  ⟨0x400a4004, 8, 2048, 8, 1, 0x0, 0x0, 0x0, 0x0, 0x0, 0xffffffff⟩]

/-- The registers of the TWN block. -/
def regsTWN : List RegDesc := [
  ⟨0x400b0000, 4, 1, 4, 1, 0x0, 0x0, 0x0, 0x0, 0x0, 0x18000000⟩,
  ⟨0x400b0004, 4, 1, 4, 1, 0x0, 0x0, 0x0, 0x0, 0x0, 0x0⟩,
  ⟨0x400b0008, 4, 1, 4, 1, 0x0, 0x0, 0x0, 0x0, 0x0, 0xffffffff⟩,
  ⟨0x400b000c, 4, 1, 4, 1, 0x0, 0x0, 0x0, 0x0, 0x0, 0xf7fff000⟩,
  ⟨0x400b0010, 4, 1, 4, 1, 0x0, 0x0, 0x0, 0x0, 0x0, 0xffffffff⟩,
  ⟨0x400b0020, 4, 4, 4, 1, 0x0, 0x0, 0x0, 0x0, 0x0, 0xffffffff⟩,
  ⟨0x400b0030, 4, 1, 4, 1, 0x0, 0x0, 0x0, 0x0, 0x0, 0x0⟩,
  ⟨0x400b0034, 4, 1, 4, 1, 0x0, 0x0, 0x0, 0x0, 0x0, 0x0⟩,
  ⟨0x400b0038, 4, 1, 4, 1, 0x0, 0x0, 0x0, 0x0, 0x0, 0x0⟩,
  ⟨0x400b003c, 4, 1, 4, 1, 0x0, 0x0, 0x0, 0x0, 0x0, 0x0⟩,
  ⟨0x400b0040, 4, 1, 4, 1, 0x0, 0x3, 0x0, 0x0, 0x0, 0x0⟩,
  ⟨0x400b0044, 4, 1, 4, 1, 0x0, 0x0, 0x0, 0x0, 0x0, 0xffffffff⟩]

/-- The registers of the RTC block. -/
def regsRTC : List RegDesc := [
  ⟨0x400c0060, 4, 1, 4, 1, 0x0, 0x0, 0x0, 0x3, 0x0, 0x0⟩,
  ⟨0x400c0064, 4, 1, 4, 1, 0x0, 0x0, 0x0, 0xffff, 0x0, 0x0⟩,
  ⟨0x400c0068, 4, 1, 4, 1, 0x0, 0x0, 0x0, 0x3, 0x0, 0x0⟩,
  ⟨0x400c0070, 4, 1, 4, 1, 0x0, 0x1fff, 0x0, 0x0, 0x0, 0x1fff⟩,
  ⟨0x400c0074, 4, 1, 4, 1, 0x0, 0x8000003, 0x0, 0x0, 0x0, 0x0⟩,
  ⟨0x400c0078, 4, 1, 4, 1, 0x0, 0x0, 0x0, 0x0, 0x0, 0x0⟩,
  ⟨0x400c0080, 4, 1, 4, 1, 0xa, 0x0, 0x0, 0x0, 0x0, 0x0⟩,
  ⟨0x400c0084, 4, 1, 4, 1, 0x0, 0x0, 0x0, 0x0, 0x0, 0x0⟩,
  ⟨0x400c0100, 32, 4, 32, 1, 0x0, 0x0, 0xc7e00000, 0x0, 0x20000000, 0x0⟩,
  ⟨0x400c0104, 32, 4, 32, 1, 0x0, 0x0, 0x3f7f7f, 0x0, 0x0, 0x0⟩,
  ⟨0x400c0108, 32, 4, 32, 1, 0x0, 0x0, 0x71f3f, 0x0, 0x0, 0x0⟩,
  ⟨0x400c010c, 32, 4, 32, 1, 0x0, 0x0, 0x0, 0x0, 0x0, 0x0⟩,
  ⟨0x400c0110, 32, 4, 32, 1, 0x0, 0x0, 0x0, 0x0, 0x0, 0x0⟩,
  ⟨0x400c0000, 4, 1, 4, 1, 0x0, 0x0, 0x0, 0x0, 0x0, 0x0⟩,
  ⟨0x400c0004, 4, 1, 4, 1, 0x0, 0x0, 0x0, 0x0, 0x0, 0x0⟩,
  ⟨0x400c0008, 4, 1, 4, 1, 0x0, 0x0, 0x0, 0x0, 0x0, 0x0⟩,
  ⟨0x400c000c, 4, 1, 4, 1, 0x6, 0x0, 0x0, 0x0, 0x0, 0x0⟩,
  ⟨0x400c0010, 4, 1, 4, 1, 0x1, 0x0, 0x0, 0x0, 0x0, 0x0⟩,
  ⟨0x400c0014, 4, 1, 4, 1, 0x1, 0x0, 0x0, 0x0, 0x0, 0x0⟩,
  ⟨0x400c0018, 4, 1, 4, 1, 0x0, 0x0, 0x0, 0x0, 0x0, 0x0⟩,
  ⟨0x400c001c, 4, 1, 4, 1, 0x20, 0x0, 0x0, 0x0, 0x0, 0x0⟩,
  ⟨0x400c0040, 4, 1, 4, 1, 0x0, 0x0, 0x7f, 0x0, 0x0, 0x0⟩,
  ⟨0x400c0044, 4, 1, 4, 1, 0x0, 0x0, 0x7f, 0x0, 0x0, 0x0⟩,
  ⟨0x400c0048, 4, 1, 4, 1, 0x0, 0x0, 0x3f, 0x0, 0x0, 0x0⟩,
  ⟨0x400c0050, 4, 1, 4, 1, 0x1, 0x0, 0x3f, 0x0, 0x0, 0x0⟩,
  ⟨0x400c0054, 4, 1, 4, 1, 0x1, 0x0, 0x1f, 0x0, 0x0, 0x0⟩,
  ⟨0x400c0058, 4, 1, 4, 1, 0x0, 0x0, 0xff, 0x0, 0x0, 0x0⟩,
  ⟨0x400c005c, 4, 1, 4, 1, 0x20, 0x0, 0xff, 0x0, 0x0, 0x0⟩]

/-- The registers of the REC block. -/
def regsREC : List RegDesc := [
  ⟨0x400d0000, 4, 1, 4, 1, 0x0, 0x0, 0x0, 0x0, 0x0, 0xa003ffff⟩,
  ⟨0x400d0004, 4, 1, 4, 1, 0x1, 0x0, 0x0, 0x0, 0x0, 0xffffffff⟩,
  ⟨0x400d0008, 4, 1, 4, 1, 0x0, 0x0, 0x0, 0x0, 0x0, 0xffff⟩,
  ⟨0x400d000c, 4, 1, 4, 1, 0x0, 0x0, 0x0, 0x0, 0x0, 0x0⟩,
  ⟨0x400d0010, 4, 4, 4, 1, 0x0, 0x0, 0x0, 0x0, 0x0, 0xffffffff⟩,
  ⟨0x400d0020, 4, 4, 4, 1, 0x0, 0x0, 0x0, 0x0, 0x0, 0xffffffff⟩,
  ⟨0x400d0030, 4, 4, 4, 1, 0x0, 0x0, 0x0, 0x0, 0x0, 0xffffffff⟩,
  ⟨0x400d0040, 4, 1, 4, 1, 0x0, 0x0, 0x0, 0x0, 0x0, 0xffffffff⟩,
  ⟨0x400d0044, 4, 1, 4, 1, 0x0, 0x0, 0x0, 0x0, 0x0, 0xffffffff⟩,
  ⟨0x400d0100, 4, 128, 4, 1, 0x0, 0x31fffff, 0x0, 0x0, 0x0, 0x0⟩,
  ⟨0x400d0300, 32, 16, 4, 6, 0x0, 0xffffffff, 0x0, 0x0, 0x0, 0x0⟩,
  ⟨0x400d0600, 256, 2, 256, 1, 0x0, 0x0, 0xffffffff, 0x0, 0x0, 0x0⟩,
  ⟨0x400d0604, 256, 2, 256, 1, 0x0, 0x0, 0xffff, 0x0, 0x0, 0x0⟩,
  ⟨0x400d0608, 256, 2, 256, 1, 0x0, 0x0, 0x30, 0x7, 0x0, 0x0⟩,
  ⟨0x400d060c, 256, 2, 256, 1, 0x0, 0x0, 0x0, 0x0, 0x0, 0x0⟩,
  ⟨0x400d0640, 256, 2, 4, 16, 0x0, 0x0, 0x0, 0x0, 0x0, 0x0⟩,
  ⟨0x400d0048, 4, 1, 4, 1, 0x0, 0x0, 0x0, 0x0, 0x0, 0x3fffff⟩,
  ⟨0x400d004c, 4, 1, 4, 1, 0x0, 0x0, 0x0, 0x0, 0x0, 0xffffffff⟩]

/-- The registers of the GLS block. -/
def regsGLS : List RegDesc := [
  ⟨0x400e0000, 128, 6, 128, 1, 0x0, 0x0, 0x0, 0x0, 0x0, 0x0⟩,
  ⟨0x400e0004, 128, 6, 128, 1, 0x0, 0x0, 0x0, 0x0, 0x0, 0x0⟩,
  ⟨0x400e0008, 128, 6, 128, 1, 0x0, 0x0, 0x0, 0x0, 0x0, 0x0⟩,
  ⟨0x400e0010, 128, 6, 128, 1, 0x0, 0x0, 0x0, 0x0, 0x0, 0x0⟩,
  ⟨0x400e0014, 128, 6, 128, 1, 0x0, 0x0, 0x0, 0x0, 0x0, 0x0⟩,
  ⟨0x400e0018, 128, 6, 128, 1, 0x0, 0x0, 0x0, 0x0, 0x0, 0x0⟩,
  ⟨0x400e001c, 128, 6, 128, 1, 0x0, 0x0, 0x0, 0x0, 0x0, 0x0⟩,
  ⟨0x400e0020, 128, 6, 128, 1, 0x0, 0x0, 0x0, 0x0, 0x0, 0x0⟩,
  ⟨0x400e0024, 128, 6, 128, 1, 0x0, 0x0, 0x0, 0x0, 0x0, 0x0⟩,
  ⟨0x400e0028, 128, 6, 128, 1, 0x0, 0x0, 0x0, 0x0, 0x0, 0x0⟩,
  ⟨0x400e002c, 128, 6, 128, 1, 0x0, 0x0, 0x0, 0x0, 0x0, 0x0⟩,
  ⟨0x400e0030, 128, 6, 128, 1, 0x0, 0x0, 0x0, 0x0, 0x0, 0x0⟩,
  ⟨0x400e0034, 128, 6, 128, 1, 0x0, 0x0, 0x0, 0x0, 0x0, 0x0⟩,
  ⟨0x400e0040, 128, 6, 128, 1, 0x0, 0x0, 0x0, 0x0, 0x0, 0xffffffff⟩,
  ⟨0x400e0044, 128, 6, 128, 1, 0x0, 0x0, 0x0, 0x0, 0x0, 0x0⟩,
  ⟨0x400e0048, 128, 6, 128, 1, 0x0, 0x0, 0x0, 0x0, 0x0, 0x0⟩,
  ⟨0x400e004c, 128, 6, 128, 1, 0x0, 0x0, 0x0, 0x0, 0x0, 0x10400000⟩,
  ⟨0x400e0050, 128, 6, 128, 1, 0x0, 0x0, 0x0, 0x0, 0x0, 0x0⟩,
  ⟨0x400e1000, 1024, 12, 4, 256, 0x0, 0x0, 0x0, 0x0, 0x0, 0x0⟩,
  ⟨0x400e4000, 1024, 12, 4, 256, 0x0, 0x0, 0x0, 0x0, 0x0, 0x0⟩]

/-- The registers of the PNL block. -/
def regsPNL : List RegDesc := [
  ⟨0x400f0000, 4, 1, 4, 1, 0x0, 0x0, 0x0, 0x0, 0x0, 0x0⟩,
  ⟨0x400f0004, 4, 1, 4, 1, 0x0, 0x0, 0x0, 0x0, 0x0, 0x0⟩,
  ⟨0x400f0010, 4, 9, 4, 1, 0x0, 0x0, 0x0, 0x0, 0x0, 0x0⟩,
  ⟨0x400f0040, 4, 1, 4, 1, 0x0, 0x0, 0x0, 0x0, 0x0, 0x4000000⟩,
  ⟨0x400f0044, 4, 1, 4, 1, 0x0, 0x0, 0x0, 0x0, 0x0, 0xfc00000⟩,
  ⟨0x400f0048, 4, 2, 4, 1, 0x0, 0x0, 0x0, 0x0, 0x0, 0xffffffff⟩,
  ⟨0x400f0050, 4, 1, 4, 1, 0x0, 0x0, 0x0, 0x0, 0x0, 0x0⟩,
  ⟨0x400f0054, 4, 1, 4, 1, 0x0, 0x0, 0x0, 0x0, 0x0, 0x0⟩,
  ⟨0x400f0058, 4, 1, 4, 1, 0x0, 0x0, 0x0, 0x0, 0x0, 0xffffffff⟩,
  ⟨0x400f0060, 4, 1, 4, 1, 0x0, 0x1, 0x0, 0x0, 0x0, 0x0⟩,
  ⟨0x400f0070, 4, 1, 4, 1, 0x0, 0x80000003, 0x0, 0x0, 0x0, 0x0⟩,
  ⟨0x400f0100, 4, 64, 4, 1, 0x0, 0x0, 0x0, 0x0, 0x0, 0x7⟩,
  ⟨0x400f0400, 16, 64, 4, 4, 0x0, 0x0, 0x0, 0x0, 0x0, 0xffffffff⟩,
  ⟨0x400f2000, 4, 2048, 4, 1, 0x0, 0xffffffff, 0x0, 0x0, 0x0, 0xffffffff⟩]

/-- The registers of the RNG block. -/
def regsRNG : List RegDesc := [
  ⟨0x40100000, 4, 1, 4, 1, 0x0, 0x0, 0x0, 0x0, 0x0, 0x0⟩,
  ⟨0x40100004, 4, 2, 4, 1, 0x0, 0x0, 0x0, 0x0, 0x0, 0x0⟩,
  ⟨0x4010000c, 4, 1, 4, 1, 0x0, 0x0, 0x0, 0x0, 0x0, 0x0⟩,
  ⟨0x40100010, 4, 2, 4, 1, 0x0, 0x0, 0x0, 0x0, 0x0, 0x0⟩,
  ⟨0x40100018, 4, 1, 4, 1, 0x0, 0x0, 0x0, 0x0, 0x0, 0x0⟩,
  ⟨0x40100020, 4, 1, 4, 1, 0x88b50000, 0x0, 0x0, 0x0, 0x0, 0x0⟩,
  ⟨0x40100024, 4, 1, 4, 1, 0x0, 0x0, 0x0, 0x0, 0x0, 0x0⟩,
  ⟨0x40100028, 4, 1, 4, 1, 0x0, 0x0, 0x0, 0x0, 0x0, 0x0⟩,
  ⟨0x4010002c, 4, 1, 4, 1, 0x0, 0x0, 0x0, 0x0, 0x0, 0x0⟩,
  ⟨0x40100030, 4, 1, 4, 1, 0x0, 0x0, 0x0, 0x0, 0x0, 0x0⟩]

/-- The registers of the RWN block. -/
def regsRWN : List RegDesc := [
  ⟨0x40111000, 4, 1, 4, 1, 0x0, 0x1, 0x0, 0x0, 0x0, 0x0⟩,
  ⟨0x40111004, 4, 1, 4, 1, 0x0, 0x0, 0x0, 0x0, 0x0, 0x0⟩,
  ⟨0x40111100, 8, 128, 8, 1, 0x0, 0xffffffff, 0x0, 0x0, 0x0, 0x0⟩,
  ⟨0x40111104, 8, 128, 8, 1, 0x0, 0xffffff, 0x0, 0x0, 0x0, 0x0⟩]

/-- The registers of the SVC block. -/
def regsSVC : List RegDesc := [
  ⟨0x40120000, 4, 1, 4, 1, 0x0, 0x0, 0x0, 0x0, 0x0, 0x0⟩]

/-- The registers of the DIG block. -/
def regsDIG : List RegDesc := [
  ⟨0x40130000, 4, 1, 4, 1, 0x0, 0x0, 0x0, 0x0, 0x0, 0x0⟩,
  ⟨0x40130004, 4, 1, 4, 1, 0x0, 0x0, 0x0, 0x0, 0x0, 0x0⟩,
  ⟨0x40130008, 4, 1, 4, 1, 0x0, 0x0, 0x0, 0x0, 0x0, 0x0⟩,
  ⟨0x4013000c, 4, 1, 4, 1, 0x0, 0x0, 0x0, 0x0, 0x0, 0x0⟩,
  ⟨0x40130010, 4, 1, 4, 1, 0x0, 0x0, 0x0, 0x0, 0x0, 0x0⟩,
  ⟨0x40130014, 4, 1, 4, 1, 0x0, 0x0, 0x0, 0x0, 0x0, 0x0⟩]

/-- The registers of the block that holds address `a` (R417); the EVT block holds none (R418). -/
def blockRegs (a : Nat) : List RegDesc :=
  match a / 0x10000 with
  | 0x4000 => regsSYS
  | 0x4001 => regsPWR
  | 0x4002 => regsCLK
  | 0x4004 => regsAFE
  | 0x4005 => regsSEQ
  | 0x4006 => regsLIM
  | 0x4007 => regsCRV
  | 0x4008 => regsTRP
  | 0x4009 => regsDIO
  | 0x400a => regsALM
  | 0x400b => regsTWN
  | 0x400c => regsRTC
  | 0x400d => regsREC
  | 0x400e => regsGLS
  | 0x400f => regsPNL
  | 0x4010 => regsRNG
  | 0x4011 => regsRWN
  | 0x4012 => regsSVC
  | 0x4013 => regsDIG
  | _ => []

/-- The register family of address `a`, if a register stands there (R418). -/
def descOf (a : Nat) : Option RegDesc := (blockRegs a).find? (fun d => d.holds a)

/-- Default severity, RATE and BURST of an event code (R420): the word REC_CODECFG holds. -/
def codeDefault (sev rate burst : Nat) : Nat := sev * 2 ^ 24 + rate * 2 ^ 8 + burst

/-- The codes R421 reserves. -/
def reservedCode (c : Nat) : Bool := c == 0x09 || (0x0C ≤ c && c ≤ 0x0F) || c == 0x1F || c == 0x4F || c == 0x6F

/-- Defaults of the codes 0x0 to 0xf (R420). -/
def codeCfg0 : List Nat := [codeDefault 1 0 0, codeDefault 2 0 0, codeDefault 2 30 10, codeDefault 2 30 10, codeDefault 3 0 0, codeDefault 2 0 0, codeDefault 2 30 10, codeDefault 0 60 10, codeDefault 2 0 0, 0, codeDefault 2 0 0, codeDefault 0 0 0, 0, 0, 0, 0]
/-- Defaults of the codes 0x10 to 0x1f (R420). -/
def codeCfg1 : List Nat := [codeDefault 2 30 10, codeDefault 2 30 10, codeDefault 2 30 10, codeDefault 2 30 10, codeDefault 2 10 4, codeDefault 2 10 4, codeDefault 1 0 0, codeDefault 3 0 0, codeDefault 2 10 4, codeDefault 2 0 0, codeDefault 0 0 0, codeDefault 2 0 0, codeDefault 1 10 4, codeDefault 1 10 4, codeDefault 1 10 4, 0]
/-- Defaults of the codes 0x20 to 0x2f (R420). -/
def codeCfg2 : List Nat := [codeDefault 0 0 0, codeDefault 0 0 0, codeDefault 0 60 16, codeDefault 1 10 4, codeDefault 3 0 0, codeDefault 2 0 0, codeDefault 0 0 0, codeDefault 0 0 0, codeDefault 0 0 0, codeDefault 1 0 0, codeDefault 1 0 0, codeDefault 1 0 0, codeDefault 2 0 0, codeDefault 1 0 0, codeDefault 2 0 0, codeDefault 2 0 0]
/-- Defaults of the codes 0x30 to 0x3f (R420). -/
def codeCfg3 : List Nat := [codeDefault 3 0 0, codeDefault 2 0 0, codeDefault 3 0 0, codeDefault 2 0 0, codeDefault 3 0 0, codeDefault 1 10 4, codeDefault 3 0 0, codeDefault 3 0 0, codeDefault 2 0 0, codeDefault 2 0 0, codeDefault 2 0 0, codeDefault 1 0 0, codeDefault 1 60 10, codeDefault 2 30 8, codeDefault 3 0 0, codeDefault 1 30 8]
/-- Defaults of the codes 0x40 to 0x4f (R420). -/
def codeCfg4 : List Nat := [codeDefault 2 60 16, codeDefault 1 60 16, codeDefault 2 60 16, codeDefault 2 60 16, codeDefault 2 60 16, codeDefault 2 0 0, codeDefault 2 60 16, codeDefault 1 30 8, codeDefault 2 30 8, codeDefault 3 0 0, codeDefault 1 0 0, codeDefault 0 0 0, codeDefault 2 0 0, codeDefault 2 0 0, codeDefault 1 0 0, 0]
/-- Defaults of the codes 0x50 to 0x5f (R420). -/
def codeCfg5 : List Nat := [codeDefault 3 0 0, codeDefault 2 0 0, codeDefault 2 0 0, codeDefault 0 0 0, codeDefault 2 0 0, codeDefault 1 60 16, codeDefault 2 0 0, codeDefault 2 0 0, codeDefault 1 0 0, codeDefault 2 0 0, codeDefault 1 0 0, codeDefault 2 10 4, codeDefault 1 10 4, codeDefault 1 0 0, codeDefault 2 0 0, codeDefault 1 0 0]
/-- Defaults of the codes 0x60 to 0x6f (R420). -/
def codeCfg6 : List Nat := [codeDefault 1 0 0, codeDefault 1 0 0, codeDefault 2 0 0, codeDefault 1 0 0, codeDefault 0 10 4, codeDefault 0 0 0, codeDefault 0 0 0, codeDefault 2 0 0, codeDefault 0 0 0, codeDefault 0 0 0, codeDefault 0 0 0, codeDefault 1 60 16, codeDefault 1 0 0, codeDefault 2 0 0, codeDefault 1 0 0, 0]
/-- Defaults of the codes 0x70 to 0x7f (R420). -/
def codeCfg7 : List Nat := [codeDefault 0 0 0, codeDefault 2 30 8, codeDefault 2 30 8, codeDefault 2 0 0, codeDefault 3 0 0, codeDefault 2 0 0, codeDefault 1 0 0, codeDefault 1 0 0, codeDefault 0 0 0, codeDefault 1 60 16, codeDefault 1 60 16, codeDefault 0 60 16, codeDefault 1 0 0, codeDefault 1 0 0, codeDefault 1 0 0, codeDefault 1 0 0]

/-- REC_CODECFG's default for code `c` (R323, R420, R421). -/
def codeCfgDefault (c : Nat) : Nat :=
  ((match c / 16 with
    | 0 => codeCfg0 | 1 => codeCfg1 | 2 => codeCfg2 | 3 => codeCfg3
    | 4 => codeCfg4 | 5 => codeCfg5 | 6 => codeCfg6 | 7 => codeCfg7
    | _ => []).getD (c % 16) 0)

/-- round(65,535 × sin(π k / 512)) for k = 0 to 15 (R264). -/
def sine0 : List Nat := [0, 402, 804, 1206, 1608, 2010, 2412, 2814, 3216, 3617, 4019, 4420, 4821, 5222, 5623, 6023]
/-- round(65,535 × sin(π k / 512)) for k = 16 to 31 (R264). -/
def sine1 : List Nat := [6424, 6824, 7223, 7623, 8022, 8421, 8820, 9218, 9616, 10014, 10411, 10808, 11204, 11600, 11996, 12391]
/-- round(65,535 × sin(π k / 512)) for k = 32 to 47 (R264). -/
def sine2 : List Nat := [12785, 13179, 13573, 13966, 14359, 14751, 15142, 15533, 15924, 16313, 16703, 17091, 17479, 17866, 18253, 18639]
/-- round(65,535 × sin(π k / 512)) for k = 48 to 63 (R264). -/
def sine3 : List Nat := [19024, 19408, 19792, 20175, 20557, 20939, 21319, 21699, 22078, 22456, 22834, 23210, 23586, 23960, 24334, 24707]
/-- round(65,535 × sin(π k / 512)) for k = 64 to 79 (R264). -/
def sine4 : List Nat := [25079, 25450, 25820, 26189, 26557, 26925, 27291, 27656, 28020, 28383, 28745, 29106, 29465, 29824, 30181, 30538]
/-- round(65,535 × sin(π k / 512)) for k = 80 to 95 (R264). -/
def sine5 : List Nat := [30893, 31247, 31600, 31952, 32302, 32651, 32999, 33346, 33692, 34036, 34379, 34721, 35061, 35400, 35738, 36074]
/-- round(65,535 × sin(π k / 512)) for k = 96 to 111 (R264). -/
def sine6 : List Nat := [36409, 36743, 37075, 37406, 37736, 38064, 38390, 38715, 39039, 39361, 39682, 40001, 40319, 40635, 40950, 41263]
/-- round(65,535 × sin(π k / 512)) for k = 112 to 127 (R264). -/
def sine7 : List Nat := [41575, 41885, 42194, 42500, 42806, 43109, 43411, 43712, 44011, 44308, 44603, 44897, 45189, 45479, 45768, 46055]
/-- round(65,535 × sin(π k / 512)) for k = 128 to 143 (R264). -/
def sine8 : List Nat := [46340, 46624, 46905, 47185, 47464, 47740, 48014, 48287, 48558, 48827, 49095, 49360, 49624, 49885, 50145, 50403]
/-- round(65,535 × sin(π k / 512)) for k = 144 to 159 (R264). -/
def sine9 : List Nat := [50659, 50913, 51166, 51416, 51664, 51911, 52155, 52398, 52638, 52877, 53113, 53348, 53580, 53811, 54039, 54266]
/-- round(65,535 × sin(π k / 512)) for k = 160 to 175 (R264). -/
def sine10 : List Nat := [54490, 54713, 54933, 55151, 55367, 55582, 55794, 56003, 56211, 56417, 56620, 56822, 57021, 57218, 57413, 57606]
/-- round(65,535 × sin(π k / 512)) for k = 176 to 191 (R264). -/
def sine11 : List Nat := [57797, 57985, 58171, 58356, 58537, 58717, 58895, 59070, 59243, 59414, 59582, 59749, 59913, 60075, 60234, 60391]
/-- round(65,535 × sin(π k / 512)) for k = 192 to 207 (R264). -/
def sine12 : List Nat := [60546, 60699, 60850, 60998, 61144, 61287, 61429, 61567, 61704, 61838, 61970, 62100, 62227, 62352, 62475, 62595]
/-- round(65,535 × sin(π k / 512)) for k = 208 to 223 (R264). -/
def sine13 : List Nat := [62713, 62829, 62942, 63053, 63161, 63267, 63371, 63472, 63571, 63668, 63762, 63853, 63943, 64030, 64114, 64196]
/-- round(65,535 × sin(π k / 512)) for k = 224 to 239 (R264). -/
def sine14 : List Nat := [64276, 64353, 64428, 64500, 64570, 64638, 64703, 64765, 64826, 64883, 64939, 64992, 65042, 65090, 65136, 65179]
/-- round(65,535 × sin(π k / 512)) for k = 240 to 255 (R264). -/
def sine15 : List Nat := [65219, 65258, 65293, 65327, 65357, 65386, 65412, 65435, 65456, 65475, 65491, 65504, 65515, 65524, 65530, 65534]

/-- The default microstep table (R264). -/
def sineTable : List Nat :=
  sine0 ++ sine1 ++ sine2 ++ sine3 ++ sine4 ++ sine5 ++ sine6 ++ sine7 ++
  sine8 ++ sine9 ++ sine10 ++ sine11 ++ sine12 ++ sine13 ++ sine14 ++ sine15

/-- The word a register holds before anything has written it: its Reset column; for the fields the table loads
"from image" the default the manual names (R264, R420); DESIGN CHOICE: every other field whose Reset is P or a dash
holds 0, or the nominal gain in AFE_CALGAIN (log 3). -/
def resetWord (a : Nat) : Word :=
  if 0x400D0100 ≤ a && a < 0x400D0300 then BitVec.ofNat 32 (codeCfgDefault ((a - 0x400D0100) / 4))
  else if 0x400E1000 ≤ a && a < 0x400E7000 && (a % 4 == 0) then
    (match descOf a with
     | some _ => BitVec.ofNat 32 (sineTable.getD (a % 0x400 / 4) 0)
     | none => 0)
  else match descOf a with
    | some d => BitVec.ofNat 32 d.reset
    | none => 0

/-- The bits a reset of the register's domain leaves as they are (R8, "P"). -/
def pMask (a : Nat) : Word := match descOf a with
  | some d => BitVec.ofNat 32 d.p
  | none => 0

end Sys2Proof.Machine
end

