-- ==== Sys2Proof/Machine/Tab.lean ====
section
/-! DEFINITION. Sparse tables: lists of (key, value) pairs in ONE canonical form (keys strictly rising, no entry equal
to what an unlisted key reads as), so that equal tables are equal lists. The register file, the memories and the
per-channel, per-entry and per-axis tables are all held so. -/

namespace Sys2Proof.Machine

/-- The value at key `k`; an unlisted key reads as `d k`. -/
def tabGet {α : Type} (d : Nat → α) : List (Nat × α) → Nat → α
  | [], k => d k
  | (k', v) :: m, k => if k = k' then v else if k < k' then d k else tabGet d m k

/-- Write `v` at key `k`, keeping the canonical form. -/
def tabSet {α : Type} [DecidableEq α] (d : Nat → α) : List (Nat × α) → Nat → α → List (Nat × α)
  | [], k, v => if v = d k then [] else [(k, v)]
  | (k', v') :: m, k, v =>
    if k < k' then (if v = d k then (k', v') :: m else (k, v) :: (k', v') :: m)
    else if k = k' then (if v = d k then m else (k, v) :: m)
    else (k', v') :: tabSet d m k v

/-- Every key of the table lies above `lo`, the keys rise strictly, and no value is the default. -/
def tabWfFrom {α : Type} [DecidableEq α] (d : Nat → α) : Option Nat → List (Nat × α) → Bool
  | _, [] => true
  | lo, (k, v) :: m =>
    (match lo with | none => true | some l => l < k) && decide (v ≠ d k) && tabWfFrom d (some k) m

/-- The canonical form. -/
def tabWf {α : Type} [DecidableEq α] (d : Nat → α) (m : List (Nat × α)) : Bool := tabWfFrom d none m

/-- Write every pair of `l` in order. -/
def tabSetAll {α : Type} [DecidableEq α] (d : Nat → α) (m : List (Nat × α)) : List (Nat × α) → List (Nat × α)
  | [] => m
  | (k, v) :: l => tabSetAll d (tabSet d m k v) l

/-- Keep the entries whose key satisfies `p` (the others then read as the default). -/
def tabKeep {α : Type} (p : Nat → Bool) (m : List (Nat × α)) : List (Nat × α) := m.filter (fun e => p e.1)

/-- The default of a table of plain values. -/
def dflt {α : Type} (v : α) : Nat → α := fun _ => v

end Sys2Proof.Machine
end

