-- ==== Sys2Proof/Machine/State.lean ====
section
/-! DEFINITION. The state of the node: plain data. Every register of the manual is a word of `regs` (the live
registers) and, for the fields marked P that a mirror keeps, of `mirror`; the structures below hold what the chapters
give the machine beside its registers: positions, waits, timers, queues, buffers, memories. Fields marked (MODEL) are
the model's own. -/

namespace Sys2Proof.Machine

/-- The status codes (R423). -/
inductive Status where
  | ok | busy | length | address | claim | state | epoch | denied | range | overwritten
deriving DecidableEq, Repr, Inhabited

/-- The value of a status (R423). -/
def Status.code : Status → Nat
  | .ok => 0 | .busy => 1 | .length => 2 | .address => 3 | .claim => 4
  | .state => 5 | .epoch => 6 | .denied => 7 | .range => 8 | .overwritten => 9

/-- Registers, keyed by address; an unlisted register reads as `resetWord`. -/
abbrev RegFile := List (Nat × Word)

/-- The bytes of a memory, keyed by address. -/
abbrev Mem := List Host.Cell

/-! ### Supervisor (R15–R17, R368–R386) -/

/-- A start record of the Thaw ledger (R376); an entry has the SYS_STEP layout (R389). The entries of the present
record stand in SYS_STEP until the next start. -/
structure StartRec where
  pcc : Nat
  opsec : Nat
  cause : Nat
  /-- SHUTDOWN has been written to the ledger (R371) -/
  shutdown : Bool
  entries : List Word
deriving DecidableEq, Repr, Inhabited

/-- What the supervisor holds beside the registers of SYS, PWR and CLK. -/
structure Sup where
  /-- a start has begun and neither a shutdown nor a restart has ended it (R369) -/
  running : Bool
  /-- the node is alarm-ready (R374) -/
  alarmReady : Bool
  /-- instant of supplies valid of the present start (MODEL clock) -/
  startAt : Time
  /-- operating time at `startAt`, µs (R319) -/
  optBase : Nat
  /-- mirror of the operating seconds in MRAM (R319) -/
  optMirror : Nat
  /-- domain cycles that wait their turn, oldest first: domain, cause (R16) -/
  waiting : List (Nat × Nat)
  /-- the cycle that runs: domain, cause, instant of switch-off (R15) -/
  active : Option (Nat × Nat × Time)
  /-- cycles of the past: domain, instant of switch-off (R17) -/
  history : List (Nat × Time)
  /-- islands that have lost lock and whose 1 ms has not passed (R15) -/
  lockWait : List (Nat × Time)
  /-- a domain cycle the host has asked for and its instant (R383) -/
  pwrReq : Option (Nat × Time)
  /-- instant of the last write to an LK field, or of the opening (R386) -/
  lastLk : Time
  /-- a restart the node has ordered: cause, latest instant (R329, R356) -/
  restartReq : Option (Nat × Time)
  /-- instant at which holdover began (R370) -/
  holdAt : Time
  /-- start records, newest first, at most 8 (R376) -/
  ledger : List StartRec
  /-- ALTCNT of each step in the control block (R376, R378) -/
  altCnt : List Nat
  /-- the CAUSE of the next start (R382) -/
  nextCause : Nat
  /-- bank named as under test in the last record (R379, S03) -/
  bankUnderTest : Option Nat
  /-- trigger counts the retained state holds for the next start: E68 source 2 and 3 (R329) -/
  lostAtSupply : List Nat
  lostAtRestart : List Nat
  /-- PD4 cycle: entries the capture FIFO held, by severity (R329) -/
  lostAtPd4 : List Nat
  /-- the contacts as they stand (R339) -/
  contactsNow : Nat
  /-- the address and the port options read at the present start (R339, R409) -/
  addr : Nat
  pselA : Bool
  pselB : Bool
  /-- what the steps of the present start find (R373) -/
  info : StartInfo
  /-- the address under which the retained state was last written (R379, S09) -/
  retAddr : Option Nat
  /-- PD6, PD7: results whose window begins before this are NOT SCANNED (R115) -/
  nsUntil : List (Nat × Time)
  /-- since when the internal temperature has stood at or above 85.0 °C, at or below 80.0 °C, at or above 100.0 °C, at or
  below 90.0 °C (R385) -/
  hot85 : Option Time
  cool85 : Option Time
  hot100 : Option Time
  cool100 : Option Time
deriving DecidableEq, Repr, Inhabited

/-- A crossing (R13): the words in flight in the order sent, of which the first four stand in its FIFO and the rest
belong to a sender that waits; and the words usable in the receiving island. -/
structure Cross where
  fifo : List (BitVec 64)
  usable : List (BitVec 64)
  /-- when each of the words in flight that are handed on as they arrive leaves the crossing -/
  busy : List Time
deriving DecidableEq, Repr, Inhabited

/-! ### Front end and ranging (R28–R90) -/

/-- The pair state of one half of a channel (R61–R68). -/
structure HalfSt where
  pair : Nat
  /-- physical member that converts the lower range (R62) -/
  memLow : Bool
  /-- the upper member was reported last (R61); the lower before the first sample -/
  upper : Bool
  fixed : Bool
  /-- a hold has been released and the pair not yet brought within MINP–MAXP (R68) -/
  released : Bool
  /-- a decided move that has not taken effect: 1 up, 2 down, 0 none (R62, R64) -/
  move : Nat
  /-- a pair PAIR has stored for the half not in use (R99) -/
  stored : Option Nat
  /-- reported tag of the previous delivered sample (R66) -/
  prevTag : Option Nat
deriving DecidableEq, Repr, Inhabited

/-- What a channel holds beside its registers. -/
structure ChanSt where
  h1 : HalfSt
  h2 : HalfSt
  /-- the configuration in force, taken at the channel's last SEL (R55): CHCFG, CHEXC, CHLEAD, RNG, CRV_CHCFG, GAIN,
  OFFS -/
  cfg : Word
  exc : Word
  lead : Word
  rng : Word
  crv : Word
  gain : Word
  offs : Word
  /-- instant at which the loop switch was last closed (R43) and opened by the node after a limit (R48) -/
  closedAt : Option Time
  openedAt : Option Time
  /-- a retry of R48 runs -/
  retry : Bool
  /-- instant at which the live CLAMP bit last cleared (R50) -/
  clampEnd : Option Time
  /-- OPEN as the latest sample and as the latest check found it (R52) -/
  smpOpen : Bool
  chkOpen : Bool
  /-- the last word formed, when, and its engineering value before exponent rounding (R77) -/
  word : Word
  wordAt : Option Time
  engineering : Int
deriving DecidableEq, Repr, Inhabited

/-- What a bank holds: the levels (µA) and terminals (0 disconnected, 1 EX, 2 SN) of IA and IB (R35), the fits of R37
(nA at 100 µA and at 2,000 µA), the run of PAIRDIS samples (R69), the suspect mark (R84), the BXV in force, and the
instant its held channels last moved to another supply (R80). -/
structure BankSt where
  levelA : Nat
  levelB : Nat
  termA : Nat
  termB : Nat
  fitA : Option (Nat × Nat)
  fitB : Option (Nat × Nat)
  disRun : Nat
  suspect : Bool
  bxv : Nat
  movedAt : Option Time
deriving DecidableEq, Repr, Inhabited

/-- The rotating test (R79–R86): a bank due for its hand-over at its next SEL; the give-back due at the next SEL;
rotation enabled (it holds the claim on BS); the instant of the last give-back. -/
structure Rot where
  want : Option Nat
  backDue : Bool
  enabled : Bool
  lastBack : Time
  /-- a self-test of BS or a retest waits for PD6 and PD7 (R85) -/
  late : Bool
deriving DecidableEq, Repr, Inhabited

/-! ### Scan sequencers (R91–R117) -/

/-- One result of a CNV (R71): the half it belongs to, its pair, the physical member of the lower range, raw codes,
the member that refills (0 none, 1 lower, 2 upper), the source current in nA, the source terminal at compliance (R51),
the measured excitation in µV, the quality facts of its window (R50, R108), and whether R115 makes it NOT SCANNED. -/
structure Res where
  half2 : Bool
  from_ : Time
  tagL : Nat
  memL : Bool
  rawL : Int
  rawU : Int
  refill : Nat
  curNa : Nat
  atCompliance : Bool
  excUv : Int
  unsettled : Bool
  clamp : Bool
  clampBad : Bool
  ns : Bool
deriving DecidableEq, Repr, Inhabited

/-- A running CNV: filter, number of results, start, results delivered so far, the latest result not yet taken. -/
structure Cnv where
  filt : Nat
  k : Nat
  start : Time
  count : Nat
  latest : Option Res
deriving DecidableEq, Repr, Inhabited

/-- What a sequencer waits for (SEQ_PC.WAIT, R116). -/
inductive SWait where
  | none
  | sel (sets : BitVec 15) (pos : Fin 17)
  | stl (due : Time)
  | put (last : Bool)
  | waitt (tmr : Nat)
  | sync (id : BitVec 3) (mask : BitVec 8) (due : Time)
  /-- the instants at which the burnout current still changes, and the end (R100, R107) -/
  | chk (marks : List Time) (due : Time)
deriving DecidableEq, Repr, Inhabited

/-- The first half of a 3-wire measurement, kept as V1 (R97): its voltage in 2^−23 pV, reported tag and conditions. -/
structure Half1 where
  volt : Int
  tag : Nat
  unsettled : Bool
  clip : Bool
  refill : Bool
  pairdis : Bool
  clamp : Bool
  clampBad : Bool
  open_ : Bool
  ns : Bool
deriving DecidableEq, Repr, Inhabited

/-- A sequencer beside its registers: the instant of its last SEL, its wait, the selection settle time in ns, the
settle stamp and settled-at time (R107), the running CNV, the CNVs started since the last SEL, the instant at which a
member took a new gain and which member it was (1 lower, 2 upper; R64), V1, the loop counters (active, count; R101) and
the source in use (R426). -/
structure SeqSt where
  lastSel : Option Time
  wait : SWait
  settle : Nat
  stamp : Time
  settledAt : Time
  cnv : Option Cnv
  cnvs : Nat
  refill : Option (Nat × Time)
  v1 : Option Half1
  loops : List (Nat × (Bool × Nat))
  src : Bool
deriving DecidableEq, Repr, Inhabited

/-- A scan timer: instant of its next tick, a PERIOD written that waits for it (R105). -/
structure TimerSt where
  next : Option Time
  newPeriod : Option Nat
  /-- the period and phase in force, µs -/
  period : Nat
  phase : Nat
deriving DecidableEq, Repr, Inhabited

/-! ### Snowline (R118–R141) -/

/-- A word on its way to Snowline: channel, sample word, whether UNSETTLED applies, whether another UNCERTAIN
condition applies too (R120, R122). -/
structure InWord where
  ch : Nat
  word : Word
  unsettled : Bool
  other : Bool
  /-- the sequencer that put it; 9 for a word that did not cross from CI4 -/
  from_ : Nat
deriving DecidableEq, Repr, Inhabited

/-- An entry's delays and RATE reference (R120, R124). -/
structure EntrySt where
  onFrom : Option Time
  offFrom : Option Time
  rateRef : Option (Int × Nat)
  /-- the word the entry last evaluated (R135) -/
  lastWord : Word
  /-- when a staged change last touched the entry (R125) -/
  editAt : Time
deriving DecidableEq, Repr, Inhabited

/-- A channel at Snowline: its latest word as it arrived, when, and whether it could be evaluated (R130); the word last
evaluated, after the vote, and when (R120, R135). -/
structure LimChan where
  word : Word
  at_ : Option Time
  evaluable : Bool
  evalWord : Word
  evalAt : Option Time
deriving DecidableEq, Repr, Inhabited

/-- Snowline beside its registers. -/
structure Lim where
  inbox : List InWord
  entries : List (Nat × EntrySt)
  chans : List (Nat × LimChan)
  /-- release running since (R126) -/
  release : List (Nat × Option Time)
  /-- command being checked: function, index (R139) -/
  staged : Option (Nat × Nat)
  /-- words that came before alarm-ready, the latest of each channel (R374) -/
  early : List (Nat × Option InWord)
deriving DecidableEq, Repr, Inhabited

/-! ### Pergola (R142–R162) -/

/-- Pergola beside its registers: the native levels (what stands at the terminals of inputs 0–47, the comparators' outputs
for 48–63), the limit links received, the instant evaluation began, and each FC's last edge. -/
structure Trp where
  native : BitVec 64
  links : BitVec 64
  evalFrom : Time
  fcEdge : List (Nat × Option Time)
  /-- the level last seen before the glitch filter of each input, and when it last changed (R143) -/
  rawSeen : BitVec 64
  movedAt : List (Nat × Time)
  /-- the quantity, in nV, that was last told to stand at the terminals of each comparator's channel (R144, R160) -/
  acIn : List (Nat × Option Int)
  /-- the latches rest, and the instant of the latest trip cycle evaluated (R152) -/
  resting : Bool
  cycleAt : Time
  /-- the outputs asserted as a PD5 cycle began (R156, R160) -/
  wasOut : BitVec 64
  /-- output 55 became asserted while CI5 did not work (R14, R157) -/
  callMissed : Bool
  /-- the unfiltered level of each digital input that Glissade's synchronizers last saw, and since when it has held
  (R273, R275) -/
  tapSeen : BitVec 64
  tapAt : List (Nat × Time)
deriving DecidableEq, Repr, Inhabited

/-! ### Alarm unit and Bandstand (R163–R185) -/

/-- A call plan beside its registers: when its timer falls due, the pattern state of each level, and for a
watch-keeper plan when PERIOD runs out. -/
structure PlanSt where
  due : Option Time
  /-- pattern phase of each level: on at this moment; and the instant the phase began (R176) -/
  pat : List (Nat × Bool)
  patAt : List (Nat × Time)
  wkDue : Option Time
  /-- UNACK total of the groups naming the plan at the last update (R178) -/
  unack : Nat
deriving DecidableEq, Repr, Inhabited

/-- The alarm unit beside its registers. -/
structure Alm where
  plans : List (Nat × PlanSt)
  /-- instant at which an entry's shelve time runs out -/
  shelve : List (Nat × Option Time)
  /-- number of the next snapshot (R167) -/
  stampTick : Nat
  /-- the filtered DI states as CI5 last received them, and when each last changed (R177, R179) -/
  di : BitVec 48
  diAt : List (Nat × Time)
  /-- rising edges that no accept input, and no reset input, has acted on yet (R177, R180) -/
  edges : BitVec 48
  resets : BitVec 48
deriving DecidableEq, Repr, Inhabited

/-! ### Recorder (R318–R336) -/

/-- An event descriptor of the event list (R194). -/
structure EvDesc where
  code : Nat
  sev : Nat
  source : Nat
  tick : Nat
  data : BitVec 64
deriving DecidableEq, Repr, Inhabited

/-- A trigger on its way to the event controller (R322). `sev` and `sset` replace the code's own where the chapter
says so; `snap` gives SNAP words 0 and 1 of E30 and E31 (R161). -/
structure Trig where
  at_ : Time
  code : Nat
  source : Nat
  data : BitVec 64
  flag : Bool
  sev : Option Nat
  sset : Option Nat
  snap : Option (Word × Word)
deriving DecidableEq, Repr, Inhabited

/-- A record (R318) without its sequence number and CRC, as captured; `summary` is SEVF bit 3. -/
structure Rec where
  opsec : Nat
  opsub : Nat
  pcc : Nat
  cal : BitVec 64
  code : Nat
  sev : Nat
  regressed : Bool
  summary : Bool
  untrusted : Bool
  snapgap : Bool
  flag : Bool
  source : Nat
  data : BitVec 64
  snap : List Word
deriving DecidableEq, Repr, Inhabited

/-- A token bucket (R325): tokens, the instant from which its next token is counted, suppressions not yet counted in an
E69, OPSEC and instant of the first. -/
structure Bucket where
  tokens : Nat
  since : Time
  suppressed : Nat
  firstOps : Nat
  firstAt : Time
deriving DecidableEq, Repr, Inhabited

/-- A read cursor (R332): the latched record with its slot and sequence number, and the cursor's sequence. -/
structure Cursor where
  latched : Option (Nat × Nat × Rec)
  pos : Nat
deriving DecidableEq, Repr, Inhabited

/-- Moraine beside its registers. -/
structure Moraine where
  triggers : List Trig
  buckets : List (Nat × Option Bucket)
  fifo : List Rec
  /-- the slots of the region: sequence number and record (R327, R328) -/
  slots : List (Nat × Option (Nat × Rec))
  pendLost : List Nat
  pendDrop : List Nat
  lastDropAt : Option Time
  /-- events that wait for a list, and events dropped from delivery (R194) -/
  evq : List EvDesc
  evLost : Nat
  everFull : Bool
  host : Cursor
  svc : Cursor
  /-- instant REC_LOSS last changed (R345) -/
  lossAt : Option Time
deriving DecidableEq, Repr, Inhabited

/-! ### Belvedere and the Gatehouse (R186–R233) -/

/-- A snapshot (R192, R193): the header, the live table and the registers as frozen, and the event list. -/
structure Snap where
  tickNo : Nat
  periodMs : Nat
  optime : Nat
  hostTime : BitVec 64
  cal : BitVec 64
  flags : Nat
  skipped : Nat
  events : List EvDesc
  evHeld : Nat
  evLost : Nat
  stale : Bool
  live : List (Nat × Word)
  regs : RegFile
deriving DecidableEq, Repr, Inhabited

/-- What a core waits for (R195, R196). -/
inductive CoreWait where
  | none
  | evw (wd : BitVec 5)
  | read (wd : BitVec 5) (addr : Word)
deriving DecidableEq, Repr, Inhabited

/-- A Belvedere core: words, PC, special registers, timers, SRAM, line store, snapshot buffers. -/
structure Core where
  /-- out of reset and in service (R189, R217) -/
  live : Bool
  halted : Bool
  w : List (Nat × Word)
  pc : Word
  solo : Bool
  rsync : Bool
  cmtd : Bool
  xd : Nat
  start : Bool
  cmtn : Nat
  epc : Word
  dpc : Word
  cause : Word
  tick : Word
  evm : List (Nat × Word)
  /-- due time of an armed timer, ms (R205) -/
  timers : List (Nat × Option Nat)
  sram : Mem
  /-- lines of the line store, most recently used first, and lines requested (R216) -/
  lines : List Nat
  asked : List Nat
  active : Snap
  /-- the copy in the inactive buffer, and whether it is complete (R20) -/
  inactive : Option (Snap × Bool)
  cursor : Nat
  wait : CoreWait
deriving DecidableEq, Repr, Inhabited

/-- An item of a tick's sequence (R220). -/
inductive Item where
  | word (w : CWord) (ext : Option CWord)
  | marker (vector : Nat) (epc : Word)
  | done (crc : Word)
deriving DecidableEq, Repr, Inhabited

/-- The Gatehouse beside its registers. -/
structure Gate where
  itemsA : List Item
  itemsB : List Item
  /-- exceptions of the tick, per core (R214) -/
  marksA : List Item
  marksB : List Item
  /-- peripheral loads served in the tick, per core (R196) -/
  readsA : List Word
  readsB : List Word
  /-- cause of a divergence of the running tick; its comparison has ended -/
  diverged : Option Nat
  /-- both cores stopped for the self-check (R225) -/
  checking : Bool
  condemned : Option CoreId
  condCause : Nat
  lastResync : Option CoreId
  transients : List Time
  /-- the tick whose commits run: its number (R221) -/
  tick : Nat
  discarded : Bool
  /-- a tick has been applied since the start (R242) -/
  applied : Bool
  /-- the deadline of R221 is suspended: a PD8 cycle runs -/
  suspended : Bool
  /-- dirty lines of the final pass that has ended (R228) -/
  dirty : Nat
  /-- the core that still finishes an ended tick while its twin runs a later one, and the exceptions that its twin took
  in that tick (R193, R223) -/
  late : Option CoreId
  lateMarks : List Item
  /-- empty after a PD4 cycle until the next boundary (R230) -/
  idle : Bool
  /-- the latest tick boundary -/
  boundaryAt : Time
deriving DecidableEq, Repr, Inhabited

/-! ### Digital inputs and outputs (R234–R259) -/

/-- An output beside its registers: released in a restore, thermal shutdowns of the last 10 s, a test pulse and its
driven state (off for R245, on for R248), the instant it last went from OFF to ON, the operating time (µs) at which its
last off-pulse began. -/
structure DoSt where
  released : Bool
  therm : List Time
  pulse : Option Bool
  onAt : Option Time
  pulseAt : Option Nat
deriving DecidableEq, Repr, Inhabited

/-- A field supply group: the slots still to come in a restore, the instant it began, the index of the next slot. -/
structure GroupSt where
  slots : List Nat
  entry : Time
  next : Nat
deriving DecidableEq, Repr, Inhabited

/-- The switching beside its registers: outputs, groups, the commanded states the retained state holds (R375), the
pair scan (R248): its phase (0 none, 1 pulse on, 2 sampled, 3 pulse off), the outputs pulsed, the links found; and
whether the DI states are frozen by a PD5 cycle (R256). -/
structure Dio where
  outs : List (Nat × DoSt)
  groups : List (Nat × GroupSt)
  retained : BitVec 48
  scanPhase : Nat
  scanTested : List Nat
  scanLinks : List (Nat × Nat)
  stale : Bool
  /-- the level each input's DI filter has taken, which the filtered state shows unless WIRE BREAK is live (R236, R237) -/
  filt : BitVec 48
deriving DecidableEq, Repr, Inhabited

/-! ### Glissade (R260–R281) -/

/-- What an axis is doing. -/
inductive Motion where
  | none
  | toTarget (tgt : Int)
  | run (vel : Int)
deriving DecidableEq, Repr, Inhabited

/-- An axis beside its registers. `fine` is its velocity in units of 1/1,600,000,000 microstep/s, in which one profile
update (25 µs) at an acceleration of A microsteps/s² changes it by 40,000 A and one at a jerk of J changes that by J, and
`acc` the change of the last update. In a group (R270) the axis named by `lead` holds the velocity of the line and `done`, the lead steps made. -/
structure AxisSt where
  motion : Motion
  queued : Option Motion
  /-- parameters held pending: 0 VMAX, 1 ACC, 2 DEC, 3 JERK (R268) -/
  held : List (Nat × Option Nat)
  /-- the staged group target (R269) -/
  staged : Option Int
  /-- the running group: the axis that holds the line, the axis g whose parameters apply, the lead, this axis's
  distance, the lead's, the error, the lead steps made (R270) -/
  lead : Option Nat
  par : Nat
  leadAx : Nat
  dist : Int
  leadDist : Nat
  err : Nat
  done : Nat
  /-- a TBLSEL waiting: table, SWITCH, PUBLISH (R265) -/
  tblReq : Option (Bool × Bool × Bool)
  /-- it decelerates as R268 lists, so that a SETPAR is held -/
  decel : Bool
  /-- the velocity, its change in the latest update, and the path beyond the last step, in the units of `velUnit` and
  `stepUnit` (R266) -/
  fine : Int
  acc : Int
  frac : Int
  /-- homing: the latched edge position, the position at which the phase began, an edge has been qualified -/
  homeEdge : Int
  homeFrom : Int
  edgeSeen : Bool
  /-- IHOLD replaces IRUN (R261) -/
  ihold : Bool
  /-- the axis has been enabled again since DRVFLT set (R272) -/
  rearmed : Bool
  /-- the PD10 cycle found it moving (R277) -/
  wasMoving : Bool
  /-- the signed duties of phases A and B, the integrals of their controllers, the PWM periods each has been off its
  setpoint (R261, R263) -/
  dutyA : Int
  dutyB : Int
  intA : Int
  intB : Int
  offA : Nat
  offB : Nat
  /-- NFLT stands low (R263, R272) -/
  nflt : Bool
  /-- the steps of the latest update and the direction of the last one, positive or not (R262) -/
  pulses : Nat
  dirPos : Bool
  /-- the target of the running or last move (R280) -/
  lastTgt : Int
  /-- the edge position of a homing that has set REF and still decelerates (R275, R279) -/
  homed : Option Int
  /-- when the axis last came to rest (R261) -/
  restAt : Time
deriving DecidableEq, Repr, Inhabited

/-! ### Glasshouse (R282–R299) -/

/-- A request of the queue (R286): rows still to write, rectangle, TAG, FULL; rows written of it. -/
structure Req where
  rows : BitVec 64
  done : BitVec 64
  r0 : Nat
  r1 : Nat
  c0 : Nat
  c1 : Nat
  tag : Nat
  full : Bool
deriving DecidableEq, Repr, Inhabited

/-- The row being written: row, phase 1 RST 2 SEL 3 EVO, full reset, polarity, the temperature in 0.01 °C and the row of
the target buffer it keeps to its end (R286, R291); `stray` once its request has been merged into another (R287). -/
structure RowWrite where
  row : Nat
  phase : Nat
  full : Bool
  pol : Bool
  temp : Int
  data : BitVec 128
  stray : Bool
  /-- when the phase began -/
  since : Time
deriving DecidableEq, Repr, Inhabited

/-- Glasshouse beside its registers. -/
structure Panel where
  queue : List Req
  cur : Option RowWrite
  pumpReady : Bool
  /-- faults in a row; a restart is due -/
  faults : Nat
  restartDue : Bool
  /-- rows to be written with a full reset, first: replayed rows (R293, R294) -/
  replay : BitVec 64
  /-- the target buffer as the journal holds it (R285), and changed rows not copied yet -/
  journal : List (Nat × BitVec 128)
  dirty : Bool
  tempAt : Option Time
  /-- map bytes, keyed 8,192 × map + byte; CRCs stored by a commit (R298) -/
  maps : List (Nat × Byte)
  mapCrc : List (Nat × Word)
  /-- requests the journal header holds: TAG and FULL of each -/
  jHead : List (Nat × Bool)
  /-- S06 is skipped: the panel is not driven (R379) -/
  skipped : Bool
  /-- the alternate of S06: a CLEAR is queued after the first applied tick (R294) -/
  clearDue : Bool
  segFlip : Bool
  segTags : List Nat
  /-- maps with a byte written since their last COMMIT -/
  mapDirty : List Nat
  /-- row and phase a PD10 cycle interrupted (R297) -/
  interrupted : Option (Nat × Nat)
  /-- the picture the panel shows -/
  shown : List (Nat × BitVec 128)
  /-- when the pump last came to have nothing to do, when its latest fault was, when the latest frame began -/
  idleAt : Time
  faultAt : Time
  frameAt : Time
deriving DecidableEq, Repr, Inhabited

/-! ### Calendar (R300–R317) -/

/-- The calendar clock beside its registers. -/
structure Rtc where
  /-- a pending set: MODE, and whether a second boundary has come since (R303) -/
  set : Option (Nat × Bool)
  /-- a pending shift: backward, count -/
  shift : Option (Bool × Nat)
  /-- a pending summer-time change: forward, and whether a second boundary has come since -/
  dst : Option (Bool × Bool)
  /-- the accumulator A of R308 -/
  acc : Int
  /-- SUB is the count elapsed since `secondAt` plus `subOff` -/
  secondAt : Time
  subOff : Int
  /-- shadows: 0 cores, 1 host, 2 service port: the eight words and the instant frozen -/
  shadows : List (Nat × Option (List Word × Time))
  /-- running measurement: false mains, true host -/
  measure : Option Bool
  /-- TRIM as the retained state holds it -/
  trimRetained : Nat
  /-- events of CI0 that wait for the next start: code, source, data (R313) -/
  away : List (Nat × Nat × Nat)
  /-- the oscillator monitor finds XT32 failed (R314) -/
  xt32Bad : Bool
  /-- counts added and held by the trim so far; a second has passed whose trim has not been accumulated (R308) -/
  trimTotal : Int
  trimDue : Bool
  /-- a host-time measurement: host time (ns) and count at its first header and at the latest one taken, and whether this
  second's has been taken (R309) -/
  refBase : Option (Nat × Int)
  refLast : Option (Nat × Int)
  refTaken : Bool
deriving DecidableEq, Repr, Inhabited

/-! ### Promenade, images and the Rante window (R337–R400) -/

/-- A response (R352, R353): the type, status, SEQ, the ARG0 the manual states (none where it states none) and the
payload; `taken` is the cycle in which its request was taken (R354), `ack` marks a response to no request, whose SEQ the
manual does not state. -/
structure Resp where
  type : Byte
  stat : Status
  seq : BitVec 16
  arg0 : Option Word
  payload : List Byte
  taken : Option Word
  ack : Bool
deriving DecidableEq, Repr, Inhabited

/-- One of the last 8 requests taken (R354): its SEQ, its response once it has one, and how often it was repeated
before. -/
structure Heard where
  seq : BitVec 16
  resp : Option Resp
  again : Nat
deriving DecidableEq, Repr, Inhabited

/-- Promenade beside its registers. -/
structure Ring where
  /-- requests taken and not executed yet -/
  taken : List Msg
  /-- responses not yet sent, oldest first, at most 8 -/
  resps : List Resp
  /-- the last 8 requests taken with their responses (R354) -/
  recent : List Heard
  recentSvc : List Heard
  /-- slot contents latched in this cycle and in the one before (R343): the switch slot, in value mode followed by the
  value slot; `latched` once a header after the latch has come, or the latch was at a mailbox frame's; `filled` in this
  cycle; the cycles in a row with EPOCHOK 0; `firstHeader` before the first valid header (R349) -/
  slot : List Byte
  slotPrev : List Byte
  latched : Bool
  lastCycle : Option Word
  filled : Bool
  epochBad : Nat
  firstHeader : Bool
  /-- the area and FCS state of the frame last sent -/
  outArea : List Byte
  outFcsOk : Bool
  sentFrame : Bool
  svcResp : Option Resp
  svcBusy : Bool
  /-- the response section last written -/
  respOut : Option (List Byte)
  /-- the PHY of each port reports link (R348) -/
  linkA : Bool
  linkB : Bool
  /-- the host time of the latest header received since the start (R193) -/
  lastHost : BitVec 64
  /-- the port that is started first, none where both start together, and when it was (R377, S08) -/
  firstPort : Option Nat
  portsAt : Time
  /-- CYCT of the last valid header, µs, and per port the end of the latest cycle counted, with or without one (R348) -/
  cyct : Nat
  countedAt : List (Nat × Time)
deriving DecidableEq, Repr, Inhabited

/-- An image of MRAM (R350, R358). -/
structure Image where
  valid : Bool
  bytes : Mem
deriving DecidableEq, Repr, Inhabited

/-- The images, the transfer and the ship key (R357–R359). -/
structure Imgs where
  imgA : Image
  imgB : Image
  /-- units received by the open transfer -/
  units : List (Nat × Bool)
  /-- the executing image's contents as loaded -/
  exec : ImageContents
  key : Option (List Word)
  /-- a digest pass the host started runs (R356); DIGERR (R351) -/
  passHost : Bool
  digErr : Bool
  /-- the IMAGE_END whose check runs (R358) -/
  ending : Option (Port × Msg)
deriving DecidableEq, Repr, Inhabited

/-- The Rante window (R391–R398): limit codes keyed 128 × kind + channel (0 HI, 1 LO, 2 HIHI, 3 LOLO), DELAY bytes,
NEW bits, the pair latch (register offset, byte, instant). -/
structure Rante where
  codes : List (Nat × Nat)
  delays : List (Nat × Nat)
  news : BitVec 128
  latch : Option (Nat × Byte × Time)
  discard : Bool
  ignored : Bool
  /-- EN and PAGE as the retained-state mirror holds them (R397) -/
  mEn : Bool
  mPage : Nat
deriving DecidableEq, Repr, Inhabited

/-! ### The test access port (R411) -/

/-- The controller states of IEEE 1149.1. -/
inductive TapState where
  | testLogicReset
  | runTestIdle
  | selectDr
  | captureDr
  | shiftDr
  | exit1Dr
  | pauseDr
  | exit2Dr
  | updateDr
  | selectIr
  | captureIr
  | shiftIr
  | exit1Ir
  | pauseIr
  | exit2Ir
  | updateIr
deriving DecidableEq, Repr, Inhabited

/-- What the instruction register selects. -/
inductive TapInstr where
  | bypass
  | idcode
  | sample
  | extest
deriving DecidableEq, Repr, Inhabited

/-- The TAP: controller, the instruction in force and the register that shifts its code, the data register that shifts (next bit to TDO
first), the boundary register's outputs, the levels at TRSTn and TDO. -/
structure Tap where
  ctl : TapState
  instr : TapInstr
  irShift : BitVec 4
  dr : List Bool
  cells : List Bool
  trstn : Bool
  tdo : Bool
deriving DecidableEq, Repr, Inhabited

/-- The state of the node. -/
structure State where
  /-- the commands that wait, first in first out -/
  pending : List Instr
  /-- (MODEL) the model's clock, ns -/
  now : Time
  /-- (MODEL) counter of the free values taken so far -/
  free : Nat
  /-- the answer to the last request or commit (R423) -/
  status : Status
  regs : RegFile
  /-- the retained-state mirror of MRAM (R182, R141, R233) -/
  mirror : RegFile
  live : List (Nat × Word)
  sup : Sup
  xing : List (Nat × Cross)
  chans : List (Nat × ChanSt)
  banks : List (Nat × BankSt)
  rot : Rot
  seqs : List (Nat × SeqSt)
  timers : List (Nat × TimerSt)
  epoch : Time
  lim : Lim
  trp : Trp
  alm : Alm
  mor : Moraine
  coreA : Core
  coreB : Core
  gate : Gate
  dio : Dio
  axes : List (Nat × AxisSt)
  pnl : Panel
  rtc : Rtc
  ring : Ring
  img : Imgs
  rwn : Rante
  tap : Tap
deriving DecidableEq, Repr

/-- A fault stops the model. No command of this node raises one: the manual gives every row of the operation table an
effect, a refusal status or no effect, and each of these is a next state. The one constructor is raised by nothing;
it keeps the type inhabited. Safe. -/
inductive Fault where
  | none
deriving DecidableEq, Repr

/-- Why a command has no meaning. -/
inductive Refusal where
  /-- No meaning yet: raised by a refused arm of `exec` only. Safe. -/
  | notModelled (mnemonic : String)
  /-- Raised by the channel-program commands whose operands R111 keeps out of every loaded program (an EXC level of
  1–49 or above 2,000 µA, a position-16 SEL of a bank without one, a SYNC whose MASK leaves out its own bank): no such
  word is ever executed. Safe. -/
  | neverLoaded (mnemonic : String)
deriving DecidableEq, Repr

/-- The defaults of the sparse tables. -/
def halfReset : HalfSt := ⟨0, false, false, false, false, 0, none, none⟩
def chanReset : ChanSt :=
  { h1 := halfReset, h2 := halfReset, cfg := 0, exc := 0, lead := 0, rng := 0, crv := 0xFF00, gain := 0x01000000,
    offs := 0, closedAt := none, openedAt := none, retry := false, clampEnd := none, smpOpen := false,
    chkOpen := false, word := 0xC0000000, wordAt := none, engineering := 0 }
def bankReset : BankSt := ⟨0, 0, 0, 0, none, none, 0, false, 0, none⟩
def seqReset : SeqSt := ⟨none, .none, 0, 0, 0, none, 0, none, none, [], false⟩
def timerReset : TimerSt := ⟨none, none, 0, 0⟩
def entryReset : EntrySt := ⟨none, none, none, 0xC0000000, 0⟩
def limChanReset : LimChan := ⟨0xC0000000, none, false, 0xC0000000, none⟩
def planReset : PlanSt := ⟨none, [], [], none, 0⟩
def doReset : DoSt := ⟨false, [], none, none, none⟩
def groupReset : GroupSt := ⟨[], 0, 0⟩
def axisReset : AxisSt :=
  { motion := .none, queued := none, held := [], staged := none, lead := none, par := 0, leadAx := 0, dist := 0,
    leadDist := 0, err := 0, done := 0, tblReq := none, decel := false, fine := 0, acc := 0, homeEdge := 0,
    homeFrom := 0, edgeSeen := false, ihold := false, rearmed := false, wasMoving := false, frac := 0, dutyA := 0,
    dutyB := 0, intA := 0, intB := 0, offA := 0, offB := 0, nflt := false, pulses := 0, dirPos := false, lastTgt := 0,
    homed := none, restAt := 0 }
def crossReset : Cross := ⟨[], [], []⟩
def snapReset : Snap := ⟨0, 10, 0, 0, 0, 0, 0, [], 0, 0, false, [], []⟩
def coreReset : Core :=
  { live := false, halted := false, w := [], pc := 0x08001000, solo := false, rsync := false, cmtd := false, xd := 0,
    start := true, cmtn := 0, epc := 0, dpc := 0, cause := 0, tick := 1, evm := [], timers := [], sram := [],
    lines := [], asked := [], active := snapReset, inactive := none, cursor := 0, wait := .none }
def limReset : Lim := ⟨[], [], [], [], none, []⟩
def trpReset : Trp := ⟨0, 0, 0, [], 0, [], [], true, 0, 0, false, 0, []⟩
def almReset : Alm := ⟨[], [], 1, 0, [], 0, 0⟩
def moraineReset : Moraine :=
  ⟨[], [], [], [], [0, 0, 0, 0], [0, 0, 0, 0], none, [], 0, false, ⟨none, 0⟩, ⟨none, 0⟩, none⟩
def gateReset : Gate :=
  ⟨[], [], [], [], [], [], none, false, none, 0, none, [], 0, false, false, false, 0, none, [], false, 0⟩
def dioReset : Dio := ⟨[], [], 0, 0, [], [], false, 0⟩
def panelReset : Panel :=
  ⟨[], none, false, 0, false, 0, [], false, none, [], [], [], false, false, false, [], [], none, [], 0, 0, 0⟩
def rtcReset : Rtc := ⟨none, none, none, 0, 0, 0, [], none, 0, [], false, 0, false, none, none, false⟩
def ringReset : Ring :=
  { taken := [], resps := [], recent := [], recentSvc := [], slot := [], slotPrev := [], latched := false,
    lastCycle := none, filled := false, epochBad := 0, firstHeader := true, outArea := [], outFcsOk := true,
    sentFrame := false, svcResp := none, svcBusy := false, respOut := none, linkA := false, linkB := false, lastHost := 0,
    firstPort := none, portsAt := 0, cyct := 0, countedAt := [] }
def imageReset : Image := ⟨false, []⟩
def imgsReset : Imgs := ⟨imageReset, imageReset, [], ⟨[], [], [], 10⟩, none, false, false, none⟩
def ranteReset : Rante := ⟨[], [], 0, none, false, false, false, 0⟩
def supReset : Sup :=
  { running := false, alarmReady := false, startAt := 0, optBase := 0, optMirror := 0, waiting := [], active := none,
    history := [], lockWait := [], pwrReq := none, lastLk := 0, restartReq := none, holdAt := 0, ledger := [],
    altCnt := [], nextCause := 0, bankUnderTest := none, lostAtSupply := [0, 0, 0, 0],
    lostAtRestart := [0, 0, 0, 0], lostAtPd4 := [0, 0, 0, 0], contactsNow := 0, addr := 0, pselA := false, pselB := false,
    info := default, retAddr := none, nsUntil := [], hot85 := none,
    cool85 := none, hot100 := none, cool100 := none }

/-- TRSTn is pulled low, which holds Test-Logic-Reset with IDCODE selected (R411). -/
def tapReset : Tap :=
  { ctl := .testLogicReset, instr := .idcode, irShift := 0, dr := [], cells := [], trstn := false, tdo := false }

/-- The node right after reset: PD0 and PD1 powered, every register at its Reset column, the memories empty, no
supply valid yet, no command waiting; the first start begins with NODE_START (R369, R373; log 2). -/
def State.reset : State :=
  { pending := [], now := 0, free := 0, status := .ok, regs := [], mirror := [], live := [],
    sup := supReset, xing := [], chans := [], banks := [],
    rot := ⟨none, false, false, 0, false⟩, seqs := [], timers := [], epoch := 0, lim := limReset, trp := trpReset,
    alm := almReset, mor := moraineReset, coreA := coreReset, coreB := coreReset, gate := gateReset, dio := dioReset,
    axes := [], pnl := panelReset, rtc := rtcReset, ring := ringReset, img := imgsReset, rwn := ranteReset,
    tap := tapReset }

end Sys2Proof.Machine
end

