-- ==== Sys2Proof/Machine/Ops.lean ====
section
/-! DEFINITION. The named operations every family uses: register words and their fields (R4, R5), the clock, the
triggers of events (R322), the answers (R423), the reset of the registers of a domain (R8). -/

namespace Sys2Proof.Machine

/-- What a meaning answers. -/
abbrev Out := Host.Outcome State Fault Refusal

/-! ### The parts of the state that stand beside the registers -/

/-- Replace the state of the supervisor. -/
def State.setSup (s : State) (x : Sup) : State := { s with sup := x }

/-- Replace the state of the rotating test. -/
def State.setRotating (s : State) (x : Rot) : State := { s with rot := x }

/-- Replace the state of Snowline. -/
def State.setLim (s : State) (x : Lim) : State := { s with lim := x }

/-- Replace the state of Pergola. -/
def State.setTrp (s : State) (x : Trp) : State := { s with trp := x }

/-- Replace the state of the alarm unit and Bandstand. -/
def State.setAlm (s : State) (x : Alm) : State := { s with alm := x }

/-- Replace the state of Moraine. -/
def State.setMor (s : State) (x : Moraine) : State := { s with mor := x }

/-- Replace the state of the Gatehouse. -/
def State.setGate (s : State) (x : Gate) : State := { s with gate := x }

/-- Replace the state of the switching. -/
def State.setDio (s : State) (x : Dio) : State := { s with dio := x }

/-- Replace the state of Glasshouse. -/
def State.setPanel (s : State) (x : Panel) : State := { s with pnl := x }

/-- Replace the state of the calendar clock. -/
def State.setRtc (s : State) (x : Rtc) : State := { s with rtc := x }

/-- Replace the state of Promenade. -/
def State.setRing (s : State) (x : Ring) : State := { s with ring := x }

/-- Replace the state of the images. -/
def State.setImg (s : State) (x : Imgs) : State := { s with img := x }

/-- Replace the state of the Rante window. -/
def State.setRwn (s : State) (x : Rante) : State := { s with rwn := x }

/-- The state with that test access port. -/
def State.setTap (s : State) (x : Tap) : State := { s with tap := x }

/-- Set the counter of the free values. -/
def State.setFree (s : State) (x : Nat) : State := { s with free := x }

/-- Set the epoch of the scan timers. -/
def State.setEpoch (s : State) (x : Time) : State := { s with epoch := x }

/-- Replace the register file. -/
def State.setRegs (s : State) (x : RegFile) : State := { s with regs := x }

/-- Replace the retained-state mirror. -/
def State.setMirror (s : State) (x : RegFile) : State := { s with mirror := x }

/-- Set the clock. -/
def State.setNow (s : State) (x : Time) : State := { s with now := x }

/-- The sequencers and scan timers begin afresh. -/
def State.dropSeqs (s : State) : State := { s with seqs := [], timers := [] }

/-- The channels begin afresh: no word has been delivered. -/
def State.dropChans (s : State) : State := { s with chans := [], live := [] }

/-- The crossings that fail `p` are emptied. -/
def State.keepCrossings (s : State) (p : Nat → Bool) : State := { s with xing := tabKeep p s.xing }

/-! ### Bit fields -/

/-- The bits of a field. -/
def fldMask (f : Fld) : Word := BitVec.ofNat 32 ((2 ^ f.width - 1) * 2 ^ f.lo)

/-- The value of field `f` of word `w`. -/
def fldOf (f : Fld) (w : Word) : Nat := w.toNat / 2 ^ f.lo % 2 ^ f.width

/-- Word `w` with field `f` set to `v` (taken modulo the field's width). -/
def putFld (f : Fld) (w : Word) (v : Nat) : Word :=
  let m : Word := BitVec.ofNat 32 ((2 ^ f.width - 1) * 2 ^ f.lo)
  (w &&& ~~~m) ||| BitVec.ofNat 32 (v % 2 ^ f.width * 2 ^ f.lo)

/-- Word `w` with bit `k` set to `b`. -/
def putBit (w : Word) (k : Nat) (b : Bool) : Word := putFld ⟨k, 1⟩ w b.toNat

/-- Bits `hi`..`lo` of a number. -/
def bitsOf (n lo width : Nat) : Nat := n / 2 ^ lo % 2 ^ width

/-- The bits set in `n`, among the first `w`, in ascending order. -/
def onesOf (w n : Nat) : List Nat := (List.range w).filter (fun k => n.testBit k)

/-- A number with bit `k` set to `b`. -/
def setBitN (n k : Nat) (b : Bool) : Nat :=
  if b then n ||| 2 ^ k else if n.testBit k then n - 2 ^ k else n

/-- Number of the bits set among the first `w`. -/
def popCount (w n : Nat) : Nat := (onesOf w n).length

/-- The bytes of `n`, least significant first. -/
def leBytes : Nat → Nat → List Byte
  | 0, _ => []
  | k + 1, n => BitVec.ofNat 8 n :: leBytes k (n / 256)

/-- The number whose bytes, least significant first, are `l`. -/
def ofLeBytes : List Byte → Nat
  | [] => 0
  | b :: l => b.toNat + 256 * ofLeBytes l

/-- The bytes of `n`, most significant first (network order, R3). -/
def beBytes (k n : Nat) : List Byte := (leBytes k n).reverse

/-- The number whose bytes, most significant first, are `l`. -/
def ofBeBytes (l : List Byte) : Nat := ofLeBytes l.reverse

/-! ### Registers -/

/-- The word of the register at address `a`. -/
def State.rd (s : State) (a : Nat) : Word := tabGet resetWord s.regs a

/-- Set the register at address `a`. -/
def State.wr (s : State) (a : Nat) (v : Word) : State := s.setRegs (tabSet resetWord s.regs a v)

/-- Field `f` of the register at `a`. -/
def State.fld (s : State) (a : Nat) (f : Fld) : Nat := fldOf f (s.rd a)

/-- Field `f` of the register at `a`, read as two's complement. -/
def State.sfld (s : State) (a : Nat) (f : Fld) : Int := signOf f.width (s.fld a f)

/-- Field `f` of the register at `a` read as a flag. -/
def State.flag (s : State) (a : Nat) (f : Fld) : Bool := s.fld a f != 0

/-- Set field `f` of the register at `a`. -/
def State.setFld (s : State) (a : Nat) (f : Fld) (v : Nat) : State := s.wr a (putFld f (s.rd a) v)

/-- Set field `f` of the register at `a` to a signed value. -/
def State.setSfld (s : State) (a : Nat) (f : Fld) (v : Int) : State := s.setFld a f (unsignOf f.width v)

/-- Set the flag `f` of the register at `a`. -/
def State.setFlag (s : State) (a : Nat) (f : Fld) (b : Bool) : State := s.setFld a f b.toNat

/-- Bit `n` of an array of flags that starts in the register at `a`, 32 to a register. -/
def State.abit (s : State) (a n : Nat) : Bool := (s.rd (a + 4 * (n / 32))).getLsbD (n % 32)

/-- Set bit `n` of an array of flags. -/
def State.setAbit (s : State) (a n : Nat) (b : Bool) : State :=
  s.wr (a + 4 * (n / 32)) (putBit (s.rd (a + 4 * (n / 32))) (n % 32) b)

/-- Add `k` to a field that counts modulo its width. -/
def State.addFld (s : State) (a : Nat) (f : Fld) (k : Nat) : State := s.setFld a f (s.fld a f + k)

/-- Count up a field that stops at its largest value. -/
def State.countSat (s : State) (a : Nat) (f : Fld) (k : Nat) : State :=
  s.setFld a f (if s.fld a f + k < 2 ^ f.width then s.fld a f + k else 2 ^ f.width - 1)

/-- Set several registers. -/
def State.wrAll (s : State) (l : List (Nat × Word)) : State := s.setRegs (tabSetAll resetWord s.regs l)

/-! ### Clock, answers, free values -/

/-- The instant of a command: the clock never runs back (log 1). -/
def State.atTime (s : State) (t : Time) : State := s.setNow (if s.now < t then t else s.now)

/-- Milliseconds in nanoseconds. -/
def ms : Nat := 1000000

/-- Microseconds in nanoseconds. -/
def us : Nat := 1000

/-- Seconds in nanoseconds. -/
def sec : Nat := 1000000000

/-- The first tick of the 1 ms delay clock, which started at the epoch, at or after `t` (R123). -/
def State.delayTick (s : State) (t : Time) : Time := s.epoch + (t - s.epoch + (ms - 1)) / ms * ms

/-- A delay that ends at `t` is due: the tick of the delay clock at or after it has come (R123, R124, R173). -/
def State.delayDue (s : State) (t : Time) : Bool := s.delayTick t ≤ s.now

/-- The operating time in µs (R193, R319): it runs from the value the present start resumed. -/
def State.optime (s : State) : Nat := s.sup.optBase + (s.now - s.sup.startAt) / us

/-- The operating second (R318). -/
def State.opsec (s : State) : Nat := s.optime / 1000000

/-- Leave the answer to a request or a commit (R423). -/
def State.answer (s : State) (r : Status) : State := { s with status := r }

/-- Take the next free value of a register or field (log 6). -/
def State.freshWord (s : State) : Word × State := (Config.freeWord s.free, s.setFree (s.free + 1))

/-- Take the next free quantity (log 6). -/
def State.freshQ (s : State) : Int × State := (Config.freeQ s.free, s.setFree (s.free + 1))

/-- `a` is one of the `n` registers from `b` on, `st` apart. -/
def inRow (a b st n : Nat) : Bool := b ≤ a && (a - b) % st == 0 && (a - b) / st < n

/-- The bits of the register at `a` that show what the node measures all the time and no command brings: voltages and
currents of the digital inputs, outputs and supply groups (R257), the load of a bridge supply (R56), the supply inputs and
the bank (R369, R388). -/
def measuredBits (a : Nat) : Word :=
  if inRow a (R.DIO_DOMEAS 0) 4 48 || inRow a (R.DIO_DIMEAS 0) 4 48 then 0xFFFFFFFF
  else if inRow a (R.DIO_VFI 0) 16 4 then 0xFFFF
  else if inRow a (R.AFE_BKBX 0) 16 9 then fldMask F.AFE_BKBX_BXI
  else if a == R.PWR_VIN then 0xFFFFFFFF
  else if a == R.PWR_HOLD then fldMask F.PWR_HOLD_VBANK
  else 0

/-- What the register at `a` shows is measured afresh: the quantity lies outside the node, so its value is free
(log 16). -/
def State.measureReg (s : State) (a : Nat) : State :=
  let m := measuredBits a
  if m = 0 then s else s.freshWord.2.wr a ((s.rd a &&& ~~~m) ||| (s.freshWord.1 &&& m))

/-! ### What moves on by itself between commands -/

/-- Apply `f` to every state in turn, once per element of `l`. -/
def foldS {α : Type} (f : State → α → State) (s : State) (l : List α) : State := l.foldl f s

/-- The record of sequencer `q` (8 is the BS sequencer). -/
def State.seq (s : State) (q : Nat) : SeqSt := tabGet (dflt seqReset) s.seqs q

def State.setSeq (s : State) (q : Nat) (x : SeqSt) : State :=
  { s with seqs := tabSet (dflt seqReset) s.seqs q x }

/-- The SEQ_TIME of an instant (R105). -/
def State.seqTimeOf (s : State) (t : Time) : Nat := (t - s.epoch) / us

/-- The settle stamp of sequencer `q` moves to `t`, and its settled-at time becomes `settled` (R107). -/
def State.putStamp (s : State) (q : Nat) (t settled : Time) : State :=
  let s := s.setSeq q { s.seq q with stamp := t, settledAt := settled }
  s.wrAll [(R.SEQ_STAMP q, BitVec.ofNat 32 (s.seqTimeOf t)), (R.SEQ_SETTLED q, BitVec.ofNat 32 (s.seqTimeOf settled))]

/-- A change at `t` that applies settle time `d` moves the stamp, and raises the settled-at time (R107). -/
def State.stampAt (s : State) (q d : Nat) (t : Time) : State := s.putStamp q t (Nat.max (s.seq q).settledAt (t + d))

/-- The changes of the burnout current that a running CHK of sequencer `q` has made by now move the stamp (R100, R107). -/
def State.chkMarks (s : State) (q : Nat) : State :=
  match (s.seq q).wait with
  | .chk marks due =>
    let s' := foldS (fun s t => s.stampAt q (s.seq q).settle t) s (marks.filter (fun t => t ≤ s.now))
    s'.setSeq q { s'.seq q with wait := .chk (marks.filter (fun t => s.now < t)) due }
  | _ => s

/-- The steps of a test that the test hardware runs by itself: the first and the last before the give-back (R81). -/
def firstStep : Nat := 2
def lastStep : Nat := 9

/-- A running test has moved on through the steps of R81. The manual bounds their times without giving them: how far it has
come is free (log 80). -/
def State.testSteps (s : State) : State :=
  let k := s.fld R.AFE_ROTST F.AFE_ROTST_STEP
  if firstStep ≤ k && k < lastStep then
    s.freshWord.2.setFld R.AFE_ROTST F.AFE_ROTST_STEP (k + s.freshWord.1.toNat % (lastStep + 1 - k))
  else s

/-- The register at `a` is about to be read: it comes to show what has moved on by itself since the last command. -/
def State.measure (s : State) (a : Nat) : State :=
  if a == R.AFE_ROTST then s.testSteps
  else match (List.range 9).find? (fun q => a == R.SEQ_STAMP q || a == R.SEQ_SETTLED q) with
    | some q => s.chkMarks q
    | none => s.measureReg a

/-! ### Triggers (R322) -/

/-- Whether trigger `x` is taken before `y`: among triggers of one instant, ascending code, then ascending source
(R322 step 1). -/
def Trig.before (x y : Trig) : Bool :=
  x.at_ == y.at_ && (x.code < y.code || (x.code == y.code && x.source < y.source))

/-- Put a trigger in its place among those that have not reached the event controller. -/
def insTrig (x : Trig) : List Trig → List Trig
  | [] => [x]
  | y :: l => if x.before y then x :: y :: l else y :: insTrig x l

/-- A trigger reaches the event controller. -/
def State.raiseT (s : State) (x : Trig) : State :=
  s.setMor { s.mor with triggers := insTrig x s.mor.triggers }

/-- An event with the severity and snapshot set of its code. -/
def State.raise (s : State) (code source : Nat) (data : Nat) : State :=
  s.raiseT ⟨s.now, code, source, BitVec.ofNat 64 data, false, none, none, none⟩

/-- An event with its code flag (R318). -/
def State.raiseF (s : State) (code source : Nat) (data : Nat) (flag : Bool) : State :=
  s.raiseT ⟨s.now, code, source, BitVec.ofNat 64 data, flag, none, none, none⟩

/-- An event whose severity the chapter gives (R135). -/
def State.raiseS (s : State) (code source : Nat) (data : Nat) (flag : Bool) (sev : Nat) : State :=
  s.raiseT ⟨s.now, code, source, BitVec.ofNat 64 data, flag, some sev, none, none⟩

/-- Event data of two 32-bit words, the first in bytes 0–3. -/
def data2 (a b : Nat) : Nat := a % 2 ^ 32 + 2 ^ 32 * (b % 2 ^ 32)

/-- Event data of four 16-bit values. -/
def data4 (a b c d : Nat) : Nat :=
  a % 2 ^ 16 + 2 ^ 16 * (b % 2 ^ 16) + 2 ^ 32 * (c % 2 ^ 16) + 2 ^ 48 * (d % 2 ^ 16)

/-! ### Domains (R15, R425) -/

/-- Whether domain PD`d` is powered (PWR_DOM.ON). -/
def State.powered (s : State) (d : Nat) : Bool := (s.rd R.PWR_DOM).getLsbD d

/-- The power domain of island CI`i` (R10). -/
def islandDomain (i : Nat) : Nat :=
  match i with
  | 0 => 0 | 1 => 1 | 2 => 2 | 3 => 3 | 4 => 4 | 5 => 4 | 6 => 5 | 7 => 6 | 8 => 7 | 9 => 8 | 10 => 9 | 11 => 9
  | 12 => 5 | 13 => 10 | 14 => 10 | _ => 1

/-- The bytes of the executing image (R355). -/
def State.execBytes (s : State) : Mem :=
  if s.flag R.SYS_START F.SYS_START_IMG then s.img.imgB.bytes else s.img.imgA.bytes

/-- An island runs on a stable clock (CLK_LOCK, R18). -/
def State.islandRuns (s : State) (i : Nat) : Bool := (s.fld R.CLK_LOCK F.CLK_LOCK_LOCK).testBit i

/-- Island CI`i` works: its domain has power and it runs on a stable clock. A stopped island neither acts nor takes
what others send it (R11, R14). -/
def State.islandOn (s : State) (i : Nat) : Bool := s.powered (islandDomain i) && s.islandRuns i

/-- Reset the registers whose address satisfies `p`: every field returns to its Reset column, the fields marked P
keep their value (R8). -/
def regReset (p : Nat → Bool) : RegFile → RegFile
  | [] => []
  | (a, v) :: m =>
    if p a then
      let v' := (v &&& pMask a) ||| (resetWord a &&& ~~~(pMask a))
      if v' = resetWord a then regReset p m else (a, v') :: regReset p m
    else (a, v) :: regReset p m

/-- Reset the registers whose address satisfies `p`. -/
def State.resetRegs (s : State) (p : Nat → Bool) : State := s.setRegs (regReset p s.regs)

/-- The block number of an address (R417). -/
def blockNo (a : Nat) : Nat := a / 0x10000

/-! ### Small table helpers -/

/-- A condition: apply `f` where `b` holds. -/
def State.applyIf (s : State) (b : Bool) (f : State → State) : State := if b then f s else s

/-- The registers of `m` with addresses `base + stride * i`, `i < n`, that differ from their reset word, as (i, word)
in ascending order: what a scan of a sparse register array visits. -/
def listed (m : RegFile) (base stride n : Nat) : List (Nat × Word) :=
  m.filterMap (fun e =>
    if base ≤ e.1 && (e.1 - base) % stride == 0 && (e.1 - base) / stride < n
    then some ((e.1 - base) / stride, e.2) else none)

/-! ### Memories -/

/-- A byte of a memory; unlisted bytes read `d`. -/
def memByte (d : Byte) (m : Mem) (a : Nat) : Byte := tabGet (dflt d) m a

/-- A little-endian word of a memory. -/
def memWord (d : Byte) (m : Mem) (a : Nat) : Word :=
  memByte d m (a + 3) ++ memByte d m (a + 2) ++ memByte d m (a + 1) ++ memByte d m a

/-- Write consecutive bytes. -/
def memPut (d : Byte) (m : Mem) (a : Nat) : List Byte → Mem
  | [] => m
  | b :: l => memPut d (tabSet (dflt d) m a b) (a + 1) l

end Sys2Proof.Machine
end

