-- ==== Sys2Proof/Machine/Claims.lean ====
section
/-! DEFINITION. The claim registers, through which every exclusive resource is owned (R253, R254, R258), and the write
lock as the families ask for it (R4, R386). -/

namespace Sys2Proof.Machine

/-- SYS_LOCK is open (R386). -/
def State.lockOpen (s : State) : Bool := s.flag R.SYS_LOCK F.SYS_LOCK_OPEN

/-- A write to an LK field restarts the 600 s of the lock (R386). -/
def State.noteLk (s : State) : State := s.setSup { s.sup with lastLk := s.now }

/-- The LK fields of the register at `a` as a mask. -/
def lkMask (a : Nat) : Word := match descOf a with
  | some d => BitVec.ofNat 32 d.lk
  | none => 0

/-- The answer to a write of `v` to the LK fields at `a` while the lock is closed: DENIED where it would change one, and
no effect where it would not (R6). -/
def State.closedAnswer (s : State) (a : Nat) (v : Word) : State :=
  s.answer (if (s.rd a ^^^ v) &&& lkMask a = 0 then .ok else .denied)

/-- The owner byte of resource `r`. -/
def ownerFld (r : Nat) : Fld := ⟨8 * (r % 4), 8⟩

/-- The owner of resource `r`; 0 free (R258). -/
def State.owner (s : State) (r : Nat) : Nat := s.fld (R.SYS_CLAIM (r / 4)) (ownerFld r)

/-- Set the owner of resource `r`. -/
def State.setOwner (s : State) (r own : Nat) : State := s.setFld (R.SYS_CLAIM (r / 4)) (ownerFld r) own

/-- Whether feature `own` may take resource `r` (R253). -/
def State.claimFree (s : State) (r own : Nat) : Bool := s.owner r == 0 || s.owner r == own

/-- A claim is refused: E4C and SYS_CLAIMERR (R253, R254). -/
def State.refuseClaim (s : State) (r own : Nat) : State :=
  let held := s.owner r
  let s := s.wr R.SYS_CLAIMERR (BitVec.ofNat 32 (own * 2 ^ 24 + held * 2 ^ 16 + r))
  s.raise 0x4C r (own + 256 * held)

/-- Feature `own` asks for all of `rs`: it takes all of them, or none, and the first that another owner holds is
refused (R253). -/
def State.claimAll (s : State) (rs : List Nat) (own : Nat) : Bool × State :=
  match rs.find? (fun r => !(s.claimFree r own)) with
  | some r => (false, s.refuseClaim r own)
  | none => (true, foldS (fun s r => s.setOwner r own) s rs)

/-- A feature releases what it holds (R254). -/
def State.releaseClaims (s : State) (own : Nat) : State :=
  foldS (fun s r => if s.owner r == own then s.setOwner r 0 else s) s (List.range 86)

end Sys2Proof.Machine
end

