-- ==== Sys2Proof/Machine/Switching.lean ====
section
/-! DEFINITION. Digital inputs, outputs and field supplies (R234–R259): what drives an output, its diagnostics, the
pair scan, the field supply groups, the counters and frequencies. -/

namespace Sys2Proof.Machine

/-! ### What drives an output (R242) -/

/-- The output record `n`. -/
def State.out (s : State) (n : Nat) : DoSt := tabGet (dflt doReset) s.dio.outs n

/-- Replace the output record `n`. -/
def State.setOut (s : State) (n : Nat) (x : DoSt) : State :=
  s.setDio { s.dio with outs := tabSet (dflt doReset) s.dio.outs n x }

/-- The output whose state and settings output `n` follows: DO2k for both members of a declared pair (R241). -/
def State.lead (s : State) (n : Nat) : Nat := if s.flag (R.DIO_DOCFG n) F.DIO_DOCFG_PAIR then n - n % 2 else n

/-- The outputs that output `n` drives with it: both members of a declared pair (R241). -/
def State.members (s : State) (n : Nat) : List Nat :=
  if s.flag (R.DIO_DOCFG n) F.DIO_DOCFG_PAIR then [n - n % 2, n - n % 2 + 1] else [n]

/-- The state of the group of output `n`: 0 NORMAL, 1 WARN, 2 HOLD, 3 OFF, 4 RESTORING (R249). -/
def State.groupState (s : State) (g : Nat) : Nat := s.fld (R.DIO_VFST g) F.DIO_VFST_STATE

/-- Pergola output `o` is asserted (R149). -/
def State.tripAsserted (s : State) (o : Nat) : Bool := s.abit (R.TRP_OUT 0) o

/-- The driven state of output `n` by its DIO_DOST. -/
def State.driven (s : State) (n : Nat) : Bool := s.flag (R.DIO_DOST n) F.DIO_DOST_DRV

/-- Bit `b` of the live diagnostics of output `n`: 0 OPENON, 1 OPENOFF, 2 LIMIT, 3 THERMAL, 4 LATCHOFF, 5 BACKFEED,
6 CROSSWIRE, 7 STUCKON (R257). -/
def State.diag (s : State) (n b : Nat) : Bool := (s.rd (R.DIO_DOST n)).getLsbD (16 + b)

/-- Bandstand holds output `n` (R176). -/
def State.bandstandOwns (s : State) (n : Nat) : Bool := s.owner n == 0x02

/-- Rows 5–7 of R242 for output `n`: the state its source asks for, and the code of the row. Until the first applied
tick the commanded state is the power-fail state (R375). -/
def State.sourceRow (s : State) (n : Nat) : Bool × Nat :=
  if !s.gate.applied then (s.flag (R.DIO_DOST n) F.DIO_DOST_CMD, 3)
  else if s.bandstandOwns n then (s.abit (R.ALM_DOUT 0) n, 1)
  else (s.flag (R.DIO_DOST n) F.DIO_DOST_CMD, 0)

/-- Row 1 of R242: the group is OFF, or RESTORING and the output is not released yet. -/
def State.rowOff (s : State) (n : Nat) : Bool :=
  s.groupState (n / 12) == 3 || (s.groupState (n / 12) == 4 && !(s.out n).released)

/-- Rows 2–7 of R242 for output `n`: the state and the code of the row. -/
def State.rowsBelow (s : State) (n : Nat) : Bool × Nat :=
  if s.tripAsserted n then (s.flag (R.TRP_OCFG n) F.TRP_OCFG_TST, 2)
  else if s.diag n 4 then (false, 5)
  else match (s.out n).pulse with
    | some b => (b, 7)
    | none => s.sourceRow n

/-- The driven state of output `n` and the row that decides it (R242); in HOLD a change from OFF to ON that rows 5–7
decide waits (SRC 6). -/
def State.driveRow (s : State) (n : Nat) : Bool × Nat :=
  if s.rowOff n then (false, 4)
  else
    let r := s.rowsBelow n
    if r.1 && s.groupState (n / 12) == 2 && (r.2 == 0 || r.2 == 1 || r.2 == 3) && !(s.driven n) then (false, 6) else r

/-- A test pulse ends when rows 1–3 come to apply, or when the output's source commands the state the pulse drives:
OFF for an off-pulse, ON for a pair-scan pulse (R245, R248). -/
def State.endPulse (s : State) (n : Nat) : State :=
  let x := s.out n
  if x.pulse.isSome && (s.rowOff n || s.tripAsserted n || s.diag n 4 || x.pulse == some (s.sourceRow n).1)
  then s.setOut n { x with pulse := none } else s

/-- Set or clear live bit `b` of output `k`. -/
def State.putLive (s : State) (k b : Nat) (v : Bool) : State :=
  s.wr (R.DIO_DOST k) (putBit (s.rd (R.DIO_DOST k)) (16 + b) v)

/-- LATCHOFF clears, on both members of a pair, when rows 5–7 decide OFF for the output (R241, R243). -/
def State.endLatchoff (s : State) (n : Nat) : State :=
  if s.diag n 4 && !(s.sourceRow n).1 then foldS (fun s k => s.putLive k 4 false) s (s.members n) else s

/-- Write the driven state and its row to output `n`; note the instant of a change to ON (R247). -/
def State.putDrive (s : State) (n : Nat) (r : Bool × Nat) : State :=
  let s := if r.1 && !(s.driven n) then s.setOut n { s.out n with onAt := some s.now } else s
  (s.setFlag (R.DIO_DOST n) F.DIO_DOST_DRV r.1).setFld (R.DIO_DOST n) F.DIO_DOST_SRC r.2

/-- Decide output `n`, and with it the other member of a declared pair (R241, R242). -/
def State.decideDo (s : State) (n : Nat) : State :=
  let s := (s.endLatchoff (s.lead n)).endPulse (s.lead n)
  let r := s.driveRow (s.lead n)
  foldS (fun s k => s.putDrive k r) s (s.members n)

/-- The command stage in CI6 decides output `n`; while it does not work the output stages hold the driven states
(R160, R256). -/
def State.refreshDo (s : State) (n : Nat) : State := if s.islandOn 6 then s.decideDo n else s

/-- Decide all outputs. -/
def State.refreshAll (s : State) : State := foldS State.refreshDo s (List.range 48)

/-- The first word applied after a start ends the power-fail states (R242 row 5, R375). -/
def State.noteApplied (s : State) : State :=
  if s.gate.applied then s else (s.setGate { s.gate with applied := true }).refreshAll

/-- The commanded state of driver `n`, and its mirror in the retained state (R242, R375). -/
def State.putCommanded (s : State) (n : Nat) (on : Bool) : State :=
  let s := s.setFlag (R.DIO_DOST n) F.DIO_DOST_CMD on
  s.setDio { s.dio with retained := BitVec.ofNat 48 (setBitN s.dio.retained.toNat n on) }

/-- Set the commanded state of output `n`; both members of a declared pair take it (R241). -/
def State.setCommanded (s : State) (n : Nat) (on : Bool) : State :=
  foldS (fun s k => s.putCommanded k on) s (s.members n)

/-! ### Commits (R218, R238) -/

/-- The DO set of R218: ADDRESS, then STATE for DO2k+1 of a declared pair, then CLAIM. -/
def State.doSet (s : State) (n : Nat) (on : Bool) : State :=
  if 48 ≤ n then s.answer .address
  else if s.flag (R.DIO_DOCFG n) F.DIO_DOCFG_PAIR && n % 2 == 1 then s.answer .state
  else if s.owner n != 0 then s.answer .claim
  else (((s.noteApplied).setCommanded n on).refreshDo n).answer .ok

/-- The counter reset of R238. -/
def State.counterReset (s : State) (n : Nat) : State :=
  if 16 ≤ n then s.answer .address else (s.wr (R.DIO_CNT n) 0).answer .ok

def execDoSet (n : BitVec 16) (on : Bool) (t : Time) (s : State) : Out := .next ((s.atTime t).doSet n.toNat on)

def execCounterReset (n : BitVec 16) (s : State) : Out := .next (s.counterReset n.toNat)

/-! ### Inputs, counters, frequencies (R234–R239) -/

/-- The filters, counters, diagnostics and supply monitors work while CI12 does; during a PD5 cycle the DI states are
frozen and the diagnostics pause (R11, R256). -/
def State.dioOn (s : State) : Bool := s.islandOn 12

/-- CI5 works: Snowline, the alarm unit, Bandstand and the Gatehouse (R10, R11, R182). -/
def State.almOn (s : State) : Bool := s.islandOn 5

/-- CI5 receives the filtered state of input `n`: a rise is an edge for the accept and reset inputs, once; a fall ends it
(R177, R179, R237). -/
def State.receiveDi (s : State) (n : Nat) (b : Bool) : State :=
  if !s.almOn || s.alm.di.getLsbD n == b then s
  else
    let put (x : BitVec 48) : BitVec 48 := BitVec.ofNat 48 (setBitN x.toNat n b)
    s.setAlm { s.alm with di := put s.alm.di, diAt := tabSet (dflt 0) s.alm.diAt n s.now, edges := put s.alm.edges,
                          resets := put s.alm.resets }

/-- The filtered state of input `n`, as its register shows it and as CI5 receives it. -/
def State.putDist (s : State) (n : Nat) (b : Bool) : State := (s.setAbit (R.DIO_DIST 0) n b).receiveDi n b

/-- The filtered state of input `n` takes `lvl`: OFF on an unused input and while WIRE BREAK is live (R234, R236). -/
def State.filterPass (s : State) (n : Nat) (lvl : Bool) : State :=
  if !s.dioOn then s
  else
    let on := lvl && s.fld (R.DIO_DICFG n) F.DIO_DICFG_TYPE != 0
    let s := s.setDio { s.dio with filt := BitVec.ofNat 48 (setBitN s.dio.filt.toNat n on) }
    (s.setAbit (R.DIO_DIRAW 0) n on).putDist n (on && !(s.abit (R.DIO_DIWB 0) n))

def execDiFilterChange (n : Fin 48) (lvl : Bool) (t : Time) (s : State) : Out :=
  .next ((s.atTime t).filterPass n lvl)

/-- Whether EDGE selects a rising or a falling edge (R257). -/
def edgeSelected (edge : Nat) (rising : Bool) : Bool := edge == 2 || edge == (if rising then 0 else 1)

def execDiCountEdge (n : Fin 16) (rising : Bool) (s : State) : Out :=
  .next (if s.dioOn && edgeSelected (s.fld (R.DIO_DICFG n) F.DIO_DICFG_EDGE) rising
    then s.wr (R.DIO_CNT n) (s.rd (R.DIO_CNT n) + 1) else s)

/-- Copy the registers `as` to the retained-state mirror of MRAM, while MRAM is powered. -/
def State.toMirror (s : State) (as : List Nat) : State :=
  if s.powered 8 then s.setMirror (tabSetAll resetWord s.mirror (as.map (fun a => (a, s.rd a)))) else s

/-- The latches and the supply-group counters are kept in the retained state (R151, R259): what changed while MRAM had no
power follows at the next mirror write. -/
def State.mirrorPd5 (s : State) : State :=
  if s.powered 5 then s.toMirror (R.TRP_LATCH :: (List.range 4).map R.DIO_VFCNT) else s

/-- The counters are mirrored (R238). -/
def State.mirrorCounters (s : State) : State := s.toMirror ((List.range 16).map R.DIO_CNT)

def execCounterMirror (s : State) : Out := .next s.mirrorCounters

/-- (k − 1) / (t_last − t_first) in mHz, truncated, from the span in units of 20 ns (R239). -/
def frequencyMhz (k spanTicks : Nat) : Nat := if k < 2 then 0 else (k - 1) * 50000000000 / spanTicks

def execFreqGateEnd (f : Fin 4) (k : Nat) (spanTicks : Nat) (s : State) : Out :=
  .next (if s.dioOn then s.wr (R.DIO_FREQ f) (BitVec.ofNat 32 (frequencyMhz k spanTicks)) else s)

/-- Input `n` is monitored: LMON on Type 2 or 3, not ruled out at load (R234, R236). -/
def State.monitored (s : State) (n : Nat) : Bool :=
  s.dioOn && s.flag (R.DIO_DICFG n) F.DIO_DICFG_LMON && 2 ≤ s.fld (R.DIO_DICFG n) F.DIO_DICFG_TYPE

/-! ### Output diagnostics (R243–R247) -/

/-- Set live bit `b` of output `k` with its latched copy. -/
def State.latchDiag (s : State) (k b : Nat) : State :=
  s.wr (R.DIO_DOST k) (putBit (putBit (s.rd (R.DIO_DOST k)) (16 + b) true) (8 + b) true)

/-- The event data of R255 for an output: DIO_DOMEAS, DIO_DOST. -/
def State.outData (s : State) (n : Nat) : Nat := data2 (s.rd (R.DIO_DOMEAS n)).toNat (s.rd (R.DIO_DOST n)).toNat

/-- An event of output `n` with the data of R255, measured at that moment. -/
def State.raiseOut (s : State) (n code : Nat) : State :=
  let s := s.measureReg (R.DIO_DOMEAS n)
  s.raise code n (s.outData n)

/-- Diagnostic `b` sets on output `n`, and on both members of a pair (R241): live and latched; event `code` when the
latched bit goes from 0 to 1 (R255). -/
def State.setDiag (s : State) (n b code : Nat) : State :=
  let was := (s.rd (R.DIO_DOST (s.lead n))).getLsbD (8 + b)
  let s' := foldS (fun s k => s.latchDiag k b) s (s.members n)
  if was then s' else s'.raiseOut (s.lead n) code

/-- The live bit clears on output `n` and its pair. -/
def State.clearDiag (s : State) (n b : Nat) : State := foldS (fun s k => s.putLive k b false) s (s.members n)

/-- A thermal shutdown: THERMAL; the eighth within 10 s sets LATCHOFF, with E43 (R243). -/
def State.thermalTrip (s : State) (n : Nat) : State :=
  let m := s.lead n
  let s := s.setDiag n 3 0x43
  let recent := (s.now :: (s.out m).therm).filter (fun t => s.now < t + 10 * sec)
  let s := s.setOut m { s.out m with therm := recent }
  if 8 ≤ recent.length && !(s.diag m 4) then
    let s := foldS (fun s k => s.latchDiag k 4) s (s.members n)
    (s.raiseOut m 0x43).refreshDo m
  else s

def execDoThermalShutdown (n : Fin 48) (t : Time) (s : State) : Out :=
  let s := s.atTime t
  .next (if s.dioOn then s.thermalTrip n else s)

def execDoThermalRestart (n : Fin 48) (s : State) : Out := .next (if s.dioOn then s.clearDiag n 3 else s)

def execDoCurrentLimit (n : Fin 48) (s : State) : Out := .next (if s.dioOn then s.setDiag n 2 0x43 else s)

def execDoCurrentLimitEnd (n : Fin 48) (s : State) : Out := .next (if s.dioOn then s.clearDiag n 2 else s)

/-- The group of output `n` is NORMAL or WARN. -/
def State.groupGood (s : State) (n : Nat) : Bool := s.groupState (n / 12) ≤ 1

/-- Open-load detection runs: OLON with the output ON, or OLOFF with it OFF, in NORMAL or WARN (R244). -/
def State.olRuns (s : State) (n : Nat) (offState : Bool) : Bool :=
  let m := s.lead n
  s.dioOn && s.groupGood m && (s.driven m == !offState) &&
    s.flag (R.DIO_DOCFG m) (if offState then F.DIO_DOCFG_OLOFF else F.DIO_DOCFG_OLON)

/-- OPENOFF is not reported on a backfed output: its voltage exceeds 10 V (R244, R246). -/
def execOpenLoadSet (n : Fin 48) (offState : Bool) (s : State) : Out :=
  .next (if s.olRuns n offState && !(offState && s.diag (s.lead n) 5) then s.setDiag n offState.toNat 0x42 else s)

def execOpenLoadClear (n : Fin 48) (offState : Bool) (s : State) : Out :=
  .next (if s.olRuns n offState then s.clearDiag n offState.toNat else s)

/-- A pair scan runs (R248). -/
def State.scanning (s : State) : Bool := s.flag R.DIO_SCAN F.DIO_SCAN_BUSY

/-- The off-pulse of output `n` falls due: OPTIME modulo 10 s equals n × 200 ms, and no pulse has begun at this
operating time (R245). -/
def State.pulseDue (s : State) (n : Nat) : Bool :=
  s.optime % 10000000 == n * 200000 && (s.out n).pulseAt != some s.optime

/-- The off-pulse test may run on output `n` (R245). -/
def State.pulseReady (s : State) (n : Nat) : Bool :=
  let p := s.fld (R.DIO_DOCFG n) F.DIO_DOCFG_PULSE
  s.dioOn && s.lead n == n && s.flag (R.DIO_DOCFG n) F.DIO_DOCFG_PTEST && !(s.flag (R.DIO_DOCFG n) F.DIO_DOCFG_CFGERR) &&
    1 ≤ p && p ≤ 10 && s.groupGood n && !s.scanning && !(s.tripAsserted n) && !(s.diag n 4) &&
    (s.out n).pulse.isNone && (s.sourceRow n).1 && s.driven n && s.pulseDue n

def execOffPulseStart (n : Fin 48) (t : Time) (s : State) : Out :=
  let s := s.atTime t
  .next (if s.pulseReady n then (s.setOut n { s.out n with pulse := some false, pulseAt := some s.optime }).refreshDo n else s)

def execOffPulseEnd (n : Fin 48) (below4V : Bool) (t : Time) (s : State) : Out :=
  let s := s.atTime t
  .next (if s.dioOn && (s.out n).pulse == some false then
    let s := (s.setOut n { s.out n with pulse := none }).refreshDo n
    if below4V then s.clearDiag n 7 else s.setDiag n 7 0x46
  else s)

def execBackfeedDetect (n : Fin 48) (s : State) : Out :=
  .next (if s.dioOn && !(s.driven n) then s.setDiag n 5 0x44 else s)

def execBackfeedClear (n : Fin 48) (s : State) : Out := .next (if s.dioOn then s.clearDiag n 5 else s)

/-- CROSSWIRE of output `n`, on both members of a pair, with PARTNER `p` (R241, R247). -/
def State.setCrosswire (s : State) (n p : Nat) : State :=
  foldS (fun s k => (s.latchDiag k 6).setFld (R.DIO_DOST k) F.DIO_DOST_PARTNER p) s (s.members n)

/-- A link from output `a`, which turned ON, to output `b` (R247): BACKFEED on b, CROSSWIRE and PARTNER on both,
E45. -/
def State.linkOutputs (s : State) (a b : Nat) : State :=
  (((s.setDiag b 5 0x44).setCrosswire a b).setCrosswire b a).raise 0x45 a b

/-- The output that is found to feed output `b`, whose voltage has now stood above 10 V for 5 ms: of those that went ON
within the 1 ms before b's voltage rose, the lowest-numbered (R247, log 17). -/
def State.lastOn (s : State) (b : Nat) : Option Nat :=
  (List.range 48).find? (fun a => s.lead a != s.lead b &&
    (match (s.out a).onAt with | some t => t + 5 * ms ≤ s.now && s.now ≤ t + 6 * ms | none => false))

def execCrosswireDetect (b : Fin 48) (s : State) : Out :=
  .next (if s.dioOn && !(s.driven b) then
    match s.lastOn b with
    | some a => s.linkOutputs (s.lead a) (s.lead b)
    | none => s
  else s)

/-! ### Pair scan (R248) -/

/-- Output `n` is pulsed by a scan: driven OFF by rows 5–7, NOSCAN 0, not DO2k+1 of a pair. -/
def State.scannable (s : State) (n : Nat) : Bool :=
  !(s.flag (R.DIO_DOCFG n) F.DIO_DOCFG_NOSCAN) && s.lead n == n && !(s.driven n) && !(s.rowOff n) &&
    !(s.tripAsserted n) && !(s.diag n 4) && (s.out n).pulse.isNone && !(s.sourceRow n).1

/-- The scan takes output `n`: its pulse begins. -/
def State.scanPulse (s : State) (n : Nat) : State :=
  let s := s.setFld R.DIO_SCAN F.DIO_SCAN_POS n
  let s := s.setDio { s.dio with scanPhase := 1, scanTested := s.dio.scanTested ++ [n] }
  (s.setOut n { s.out n with pulse := some true }).refreshDo n

/-- Whether the scan found a link between `a` and `b`. -/
def linked (l : List (Nat × Nat)) (a b : Nat) : Bool := l.contains (a, b) || l.contains (b, a)

/-- The running or last scan has pulsed output `n`, alone or as a member of a pair (R248). -/
def State.pulsed (s : State) (n : Nat) : Bool := s.dio.scanTested.contains (s.lead n)

/-- A live CROSSWIRE ends when a scan has tested both outputs and found no link between them (R247). -/
def State.clearCrosswire (s : State) (n : Nat) : State :=
  let p := s.fld (R.DIO_DOST n) F.DIO_DOST_PARTNER
  if s.diag n 6 && s.pulsed n && s.pulsed p && !(linked s.dio.scanLinks (s.lead n) (s.lead p))
  then (s.putLive n 6 false).setFld (R.DIO_DOST n) F.DIO_DOST_PARTNER 0x3F else s

/-- A scan ends; LAST 1 completed, 2 aborted. The outputs that it has not pulsed are marked untested (R248, R257). -/
def State.scanDone (s : State) (last : Nat) : State :=
  let s := (s.setFlag R.DIO_SCAN F.DIO_SCAN_BUSY false).setFld R.DIO_SCAN F.DIO_SCAN_LAST last
  let s := foldS (fun s k => s.setAbit (R.DIO_SCANRES 0) k (!(s.pulsed k))) s (List.range 48)
  let s := s.setFld R.DIO_SCAN F.DIO_SCAN_LINKS s.dio.scanLinks.length
  s.setDio { s.dio with scanPhase := 0 }

/-- The next output from `n` on that the scan pulses, or the end of the scan with E4B (R248). -/
def State.scanNext (s : State) (n : Nat) : State :=
  match (List.range 48).find? (fun k => n ≤ k && s.scannable k) with
  | some k => s.scanPulse k
  | none => ((foldS State.clearCrosswire s (List.range 48)).scanDone 1).raise 0x4B s.dio.scanLinks.length 0

/-- A running scan is aborted: its pulse ends, E4E (R248). -/
def State.scanAbort (s : State) : State :=
  if !s.scanning then s
  else
    let n := s.fld R.DIO_SCAN F.DIO_SCAN_POS
    let s := s.setOut n { s.out n with pulse := none }
    ((s.scanDone 2).refreshDo n).raise 0x4E n 0

/-- DIO_SCAN.CMD = 1: an LK field, so DENIED while the lock is closed; STATE while a scan runs or a group is neither
NORMAL nor WARN. -/
def State.scanStartOp (s : State) : State :=
  if !s.dioOn then s.answer .busy
  else if !s.lockOpen then s.answer .denied
  else if s.scanning || (List.range 4).any (fun g => 2 ≤ s.groupState g) then s.answer .state
  else
    let s := (s.noteLk.setFlag R.DIO_SCAN F.DIO_SCAN_BUSY true).answer .ok
    (s.setDio { s.dio with scanTested := [], scanLinks := [] }).scanNext 0

/-- DIO_SCAN.CMD = 2. -/
def State.scanAbortOp (s : State) : State :=
  if !s.dioOn then s.answer .busy
  else if !s.lockOpen then s.answer .denied
  else (s.noteLk.scanAbort).answer .ok

def execPairScanStart (_p : Port) (t : Time) (s : State) : Out := .next ((s.atTime t).scanStartOp)
def execPairScanAbort (_p : Port) (t : Time) (s : State) : Out := .next ((s.atTime t).scanAbortOp)

/-- The scan's timing moves on: phase 1, the sample at 0.8 ms; phase 2, the end of the pulse at 1 ms; phase 3, the next
output at 5 ms. -/
def State.scanStep (s : State) (above : List Nat) : State :=
  let n := s.fld R.DIO_SCAN F.DIO_SCAN_POS
  match s.dio.scanPhase with
  | 0 => s
  | 1 =>
    let hit := if (s.out n).pulse == some true
      then ((above.filter (fun b => !(s.driven b) && s.lead b != s.lead n)).map s.lead).eraseDups else []
    let s := foldS (fun s b => s.linkOutputs n b) s hit
    s.setDio { s.dio with scanPhase := 2, scanLinks := s.dio.scanLinks ++ hit.map (fun b => (n, b)) }
  | 2 =>
    let s := s.setDio { s.dio with scanPhase := 3 }
    (s.setOut n { s.out n with pulse := none }).refreshDo n
  | _ => s.scanNext (n + 1)

def execPairScanStep (above10V : List (Fin 48)) (t : Time) (s : State) : Out :=
  let s := s.atTime t
  .next (if s.scanning && s.dioOn then s.scanStep (above10V.map (fun b => b.val)) else s)

/-! ### Field supplies (R249–R252) -/

/-- The group record `g`. -/
def State.group (s : State) (g : Nat) : GroupSt := tabGet (dflt groupReset) s.dio.groups g

/-- Replace the group record `g`. -/
def State.setGroup (s : State) (g : Nat) (x : GroupSt) : State :=
  s.setDio { s.dio with groups := tabSet (dflt groupReset) s.dio.groups g x }

/-- The outputs of group `g`. -/
def groupOuts (g : Nat) : List Nat := (List.range 12).map (fun i => 12 * g + i)

/-- Release or hold back outputs of a group in a restore. -/
def State.setReleased (s : State) (l : List Nat) (b : Bool) : State :=
  foldS (fun s n => s.setOut n { s.out n with released := b }) s l

/-- Group `g` goes to state `dst`: WARN and HOLD entered or left record E47 and E48 (R249, R255). -/
def State.enterGroup (s : State) (g dst : Nat) : State :=
  let old := s.groupState g
  let v := s.fld (R.DIO_VFST g) F.DIO_VFST_VF
  let s := s.setFld (R.DIO_VFST g) F.DIO_VFST_STATE dst
  let s := if (old == 1) != (dst == 1) then s.raise 0x47 g (v + 2 ^ 16 * (dst == 1).toNat) else s
  let s := if (old == 2) != (dst == 2) then s.raise 0x48 g (v + 2 ^ 16 * (dst == 2).toNat) else s
  if 2 ≤ dst then s.scanAbort else s

/-- The measured supply voltage of group `g`, 10 mV. -/
def State.setVf (s : State) (g : Nat) (v : BitVec 16) : State := s.setFld (R.DIO_VFST g) F.DIO_VFST_VF v.toNat

/-- Decide the outputs of a group. -/
def State.refreshGroup (s : State) (g : Nat) : State := foldS State.refreshDo s (groupOuts g)

/-- The voltages of R249 in 10 mV: below `vfWarnBelow` WARN, from `vfWarnEnds` on no longer; below `vfHoldBelow` HOLD,
restored from `vfHoldEnds` on; below `vfOffBelow` OFF, restored from `vfOffEnds` on. -/
def vfWarnBelow : Nat := 1920
def vfWarnEnds : Nat := 1960
def vfHoldBelow : Nat := 1600
def vfHoldEnds : Nat := 1700
def vfOffBelow : Nat := 1200
def vfOffEnds : Nat := 1800

/-- An entry to HOLD or OFF is counted, and the count kept (R249, R259). -/
def State.countVf (s : State) (g : Nat) (f : Fld) : State := (s.addFld (R.DIO_VFCNT g) f 1).toMirror [R.DIO_VFCNT g]

/-- Group `g` stands in one of `states`, its monitor works, and its new voltage `v` meets the condition. -/
def State.vfMeets (s : State) (g : Nat) (states : List Nat) (cond : Bool) : Bool :=
  s.dioOn && states.contains (s.groupState g) && cond

/-- A measurement of a supply whose monitor works (R249). -/
def State.measureVf (s : State) (g : Nat) (v : BitVec 16) : State := s.applyIf s.dioOn (fun s => s.setVf g v)

def execVfWarn (g : Fin 4) (v : BitVec 16) (s : State) : Out :=
  let s := s.measureVf g v
  .next (if s.vfMeets g [0] (v.toNat < vfWarnBelow) then s.enterGroup g 1 else s)

def execVfWarnEnd (g : Fin 4) (v : BitVec 16) (s : State) : Out :=
  let s := s.measureVf g v
  .next (if s.vfMeets g [1] (vfWarnEnds ≤ v.toNat) then s.enterGroup g 0 else s)

def execVfHold (g : Fin 4) (v : BitVec 16) (s : State) : Out :=
  let s := s.measureVf g v
  .next (if s.vfMeets g [0, 1] (v.toNat < vfHoldBelow) then
    ((s.enterGroup g 2).countVf g F.DIO_VFCNT_HOLDC).refreshGroup g else s)

/-- The restore of group `g` ends: the rest is released, E4A; NORMAL, or WARN where VF has not held 19.6 V (R249,
R252). -/
def State.restoreEnd (s : State) (g : Nat) (steady : Bool) : State :=
  let s := (s.setReleased (groupOuts g) true).setGroup g groupReset
  let s := s.raise 0x4A g (s.fld (R.DIO_VFST g) F.DIO_VFST_VF)
  (s.enterGroup g (if steady then 0 else 1)).refreshGroup g

/-- Output `n` and its pair are released and follow R242. -/
def State.releaseOut (s : State) (n : Nat) : State := (s.setReleased (s.members n) true).refreshDo n

/-- The outputs that rows 2 and 4–7 would drive ON at the entry to RESTORING, in ascending order, a pair once. -/
def State.slotsOf (s : State) (g : Nat) : List Nat :=
  (groupOuts g).filter (fun n => s.lead n == n && (s.rowsBelow n).1)

/-- The next slot of the restore of group `g` falls due. -/
def State.slotDue (s : State) (g : Nat) (steady : Bool) : State :=
  match (s.group g).slots with
  | [] => s.restoreEnd g steady
  | [n] => (s.releaseOut n).restoreEnd g steady
  | n :: l => (s.releaseOut n).setGroup g { s.group g with slots := l, next := (s.group g).next + 1 }

/-- Entry to RESTORING: slots in ascending order, slot 0 at once (R252). -/
def State.restoreBegin (s : State) (g : Nat) (steady : Bool) : State :=
  let s := (s.enterGroup g 4).setReleased (groupOuts g) false
  let s := (s.setGroup g { slots := s.slotsOf g, entry := s.now, next := 0 }).refreshGroup g
  s.slotDue g steady

/-- `warn`: VF has not been at or above 19.6 V for the last 20 ms, should the restore end at its first slot. -/
def execVfRestoring (g : Fin 4) (v : BitVec 16) (warn : Bool) (t : Time) (s : State) : Out :=
  let s := (s.atTime t).measureVf g v
  .next (if s.vfMeets g [2] (vfHoldEnds ≤ v.toNat) || s.vfMeets g [3] (vfOffEnds ≤ v.toNat)
    then s.restoreBegin g (!warn && vfWarnEnds ≤ v.toNat) else s)

/-- The next slot of the restore of group `g` falls due: slot i at i × 2 ms after the entry (R252). -/
def State.slotTime (s : State) (g : Nat) : Bool := (s.group g).entry + (s.group g).next * (2 * ms) ≤ s.now

def execRestoreSlot (g : Fin 4) (v : BitVec 16) (steady : Bool) (t : Time) (s : State) : Out :=
  let s := (s.atTime t).measureVf g v
  .next (if s.vfMeets g [4] (s.slotTime g) then s.slotDue g (steady && vfWarnEnds ≤ v.toNat) else s)

/-- Entry to OFF: every driver off, the commanded state of the NORST outputs OFF, E49 (R251). The output stage itself
makes the cutoff, in a PD5 cycle too (R249). -/
def State.groupOff (s : State) (g : Nat) : State :=
  let s := (s.enterGroup g 3).countVf g F.DIO_VFCNT_OFFC
  let s := (s.setReleased (groupOuts g) false).setGroup g groupReset
  let s := foldS (fun s n => if s.flag (R.DIO_DOCFG (s.lead n)) F.DIO_DOCFG_NORST then s.setCommanded n false else s) s
    (groupOuts g)
  (foldS State.decideDo s (groupOuts g)).raise 0x49 g (s.fld (R.DIO_VFST g) F.DIO_VFST_VF)

def execVfOff (g : Fin 4) (v : BitVec 16) (t : Time) (s : State) : Out :=
  let s := (s.atTime t).setVf g v
  .next (if s.groupState g != 3 && v.toNat < vfOffBelow then s.groupOff g else s)

end Sys2Proof.Machine
end

