-- ==== Sys2Proof/Machine/Alarms.lean ====
section
/-! DEFINITION. The alarm unit and Bandstand (R163–R185): alarm states and modifiers of the limit entries, groups,
call plans, the watch selector and the watch-keeper check. -/

namespace Sys2Proof.Machine

/-! ### Limit entries as the alarm unit sees them -/

/-- Entry `e` is enabled and valid (R121, R163). -/
def State.entryOk (s : State) (e : Nat) : Bool :=
  s.flag (R.LIM_ENT3 e) F.LIM_ENT3_EN && !(s.flag (R.LIM_STATE e) F.LIM_STATE_CFGERR)

/-- The group of entry `e`. -/
def State.entryGroup (s : State) (e : Nat) : Nat := s.fld (R.LIM_ENT2 e) F.LIM_ENT2_GROUP

/-- ACT of entry `e`. -/
def State.entryAct (s : State) (e : Nat) : Bool := s.flag (R.LIM_STATE e) F.LIM_STATE_ACT

/-- The alarm state of entry `e`: 0 NORMAL, 1 ACTIVE-UNACK, 2 ACTIVE-ACK, 3 RETURNED-UNACK (R163). -/
def State.alarmState (s : State) (e : Nat) : Nat := s.fld (R.ALM_EST e) F.ALM_EST_STATE

/-- Set the alarm state of entry `e`. -/
def State.setAlarmState (s : State) (e v : Nat) : State := s.setFld (R.ALM_EST e) F.ALM_EST_STATE v

/-- Entry `e` carries a modifier: SUPPRESSED, SHELVED or OUT-OF-SERVICE (R164). -/
def State.modified (s : State) (e : Nat) : Bool :=
  s.flag (R.ALM_EST e) F.ALM_EST_SUPP || s.flag (R.ALM_EST e) F.ALM_EST_SHLV || s.flag (R.ALM_EST e) F.ALM_EST_OOS

/-- Entry `e` takes a new stamp: the number of the first snapshot that shows the change (R167). -/
def State.stamp (s : State) (e : Nat) : State := s.wr (R.ALM_ESTMP e) (BitVec.ofNat 32 s.alm.stampTick)

/-- The enabled, valid entries of group `g`, ascending. -/
def State.groupEntries (s : State) (g : Nat) : List Nat :=
  ((listed s.regs (R.LIM_ENT3 0) 16 2048).map (fun e => e.1)).filter (fun e => s.entryOk e && s.entryGroup e == g)

/-! ### Groups (R168–R170) -/

/-- The state of a group from the states of its unmodified entries, in the precedence of R168. -/
def groupStateOf (l : List Nat) : Nat :=
  if l.contains 1 then 1 else if l.contains 3 then 3 else if l.contains 2 then 2 else 0

/-- Take the state and the counts of group `g` from its entries (R168); NORMAL clears the first-out (R169). -/
def State.recount (s : State) (g : Nat) : State :=
  let es := s.groupEntries g
  let un := es.filter (fun e => !(s.modified e))
  let st := groupStateOf (un.map s.alarmState)
  let unack := (un.filter (fun e => s.alarmState e == 1 || s.alarmState e == 3)).length
  let act := (un.filter s.entryAct).length
  let s := s.setFld (R.ALM_GST g) F.ALM_GST_STATE st
  let s := if st == 0 then (s.setFlag (R.ALM_GST g) F.ALM_GST_FOVALID false).setFld (R.ALM_GST g) F.ALM_GST_FIRST 0 else s
  let s := (s.setFld (R.ALM_GCNT g) F.ALM_GCNT_UNACK unack).setFld (R.ALM_GCNT g) F.ALM_GCNT_ACT act
  s.setFld (R.ALM_GMOD g) F.ALM_GMOD_MOD (es.length - un.length)

/-- UNACK of group `g`. -/
def State.unackOf (s : State) (g : Nat) : Nat := s.fld (R.ALM_GCNT g) F.ALM_GCNT_UNACK

/-! ### Call plans: what is driven (R176, R179) -/

/-- The plan record `p`. -/
def State.plan (s : State) (p : Nat) : PlanSt := tabGet (dflt planReset) s.alm.plans p

/-- Replace the plan record `p`. -/
def State.setPlan (s : State) (p : Nat) (x : PlanSt) : State :=
  s.setAlm { s.alm with plans := tabSet (dflt planReset) s.alm.plans p x }

/-- The state of plan `p`: 0 IDLE, 1 RUNNING, 2 ARMED, 3 PRE-WARNING. -/
def State.planState (s : State) (p : Nat) : Nat := s.fld (R.ALM_PST p) F.ALM_PST_STATE

/-- The level reached. -/
def State.planLevel (s : State) (p : Nat) : Nat := s.fld (R.ALM_PST p) F.ALM_PST_LEVEL

/-- Plan `p` is enabled and valid (R181). -/
def State.planOk (s : State) (p : Nat) : Bool :=
  s.flag (R.ALM_PCFG p) F.ALM_PCFG_EN && !((s.fld R.ALM_STAT F.ALM_STAT_CFGERR).testBit p)

/-- Plan `p` is a watch-keeper check (R180). -/
def State.planWk (s : State) (p : Nat) : Bool := s.flag (R.ALM_PCFG p) F.ALM_PCFG_WK

/-- Engineer `k` is enabled: EN, output and input in range, the output claimed by Bandstand (R179). -/
def State.engineerOk (s : State) (k : Nat) : Bool :=
  let do_ := s.fld (R.ALM_ENG k) F.ALM_ENG_CABDO
  s.flag (R.ALM_ENG k) F.ALM_ENG_EN && do_ ≤ 47 && s.fld (R.ALM_ENG k) F.ALM_ENG_CABDI ≤ 47 && s.owner do_ == 0x02

/-- The engineers that level `k` (1–4) of plan `p` addresses by WATCH and ALLCAB (R173, R179). -/
def State.levelEngineers (s : State) (p k : Nat) : List Nat :=
  let cfg := R.ALM_LCFG p (k - 1)
  let all := (List.range 8).filter s.engineerOk
  if s.flag cfg F.ALM_LCFG_ALLCAB then all
  else if s.flag cfg F.ALM_LCFG_WATCH then
    if s.flag R.ALM_WATCH F.ALM_WATCH_NOWATCH then all
    else [s.fld R.ALM_WATCH F.ALM_WATCH_SEL].filter s.engineerOk
  else []

/-- The outputs of level `k` of plan `p`, as a 48-bit mask. -/
def State.levelOutputs (s : State) (p k : Nat) : Nat :=
  let mask := (s.rd (R.ALM_LOUT0 p (k - 1))).toNat + 2 ^ 32 * ((s.rd (R.ALM_LOUT1 p (k - 1))).toNat % 2 ^ 16)
  (s.levelEngineers p k).foldl (fun m e => m ||| 2 ^ (s.fld (R.ALM_ENG e) F.ALM_ENG_CABDO)) mask

/-- The inputs of level `k` of plan `p`: its accept inputs and the cabin inputs of the engineers it addresses. -/
def State.levelInputs (s : State) (p k : Nat) : List Nat :=
  let w := s.rd (R.ALM_LACK p (k - 1))
  ((List.range 4).filter (fun j => w.getLsbD (8 * j + 7))).map (fun j => bitsOf w.toNat (8 * j) 6) ++
    (s.levelEngineers p k).map (fun e => s.fld (R.ALM_ENG e) F.ALM_ENG_CABDI)

/-- Level `k` is enabled. -/
def State.levelEn (s : State) (p k : Nat) : Bool := s.flag (R.ALM_LCFG p (k - 1)) F.ALM_LCFG_EN

/-- The accept bit of level `k`. -/
def State.accepted (s : State) (p k : Nat) : Bool := (s.fld (R.ALM_PST p) F.ALM_PST_ACC).testBit (k - 1)

/-- With SIL the level-1 outputs follow the cause group's AUD; a cause that is no group does not silence them
(DEDUCED, log 24). -/
def State.silenced (s : State) (p k : Nat) : Bool :=
  let cause := s.fld (R.ALM_PST p) F.ALM_PST_CAUSE
  k == 1 && s.flag (R.ALM_PCFG p) F.ALM_PCFG_SIL && cause ≤ 0xFF && !(s.flag (R.ALM_GST cause) F.ALM_GST_AUD)

/-- Level `k` of plan `p` drives its outputs at this moment (R176, R180). -/
def State.levelDriven (s : State) (p k : Nat) : Bool :=
  s.levelEn p k && tabGet (dflt true) (s.plan p).pat k &&
    (match s.planState p with
     | 1 => k ≤ s.planLevel p && !(s.accepted p k) && !(s.silenced p k)
     | 3 => k == 1
     | _ => false)

/-- The outputs Bandstand commands ON, as a 48-bit mask: any level of any plan drives them (R176). -/
def State.bandstandMask (s : State) : Nat :=
  (List.range 16).foldl (fun m p =>
    if s.planState p == 0 then m
    else [1, 2, 3, 4].foldl (fun m k => if s.levelDriven p k then m ||| s.levelOutputs p k else m) m) 0

/-- Drive Bandstand's outputs: ALM_DOUT, and the drivers of the outputs that change (R176). -/
def State.driveBandstand (s : State) : State :=
  let m := s.bandstandMask
  let old := (s.rd (R.ALM_DOUT 0)).toNat + 2 ^ 32 * (s.rd (R.ALM_DOUT 1)).toNat
  let s := (s.wr (R.ALM_DOUT 0) (BitVec.ofNat 32 m)).wr (R.ALM_DOUT 1) (BitVec.ofNat 32 (m / 2 ^ 32 % 2 ^ 16))
  foldS State.refreshDo s ((List.range 48).filter (fun n => m.testBit n != old.testBit n))

/-! ### Call plans: starting, escalating, ending (R173–R178) -/

/-- E2C for plan `p` (R183). -/
def State.notePlan (s : State) (p level cause reason : Nat) : State :=
  s.raise 0x2C p (level + 2 ^ 8 * cause + 2 ^ 24 * reason)

/-- ESC of level `k`, s. -/
def State.levelEsc (s : State) (p k : Nat) : Nat := s.fld (R.ALM_LCFG p (k - 1)) F.ALM_LCFG_ESC

/-- The timer of level `k` of plan `p` runs from now. -/
def State.runTimer (s : State) (p k : Nat) : State :=
  s.setPlan p { s.plan p with due := if s.levelEsc p k == 0 then none else some (s.now + s.levelEsc p k * sec) }

/-- The pattern of level `k` of plan `p` begins on (R176). -/
def State.beginPattern (s : State) (p k : Nat) : State :=
  s.setPlan p { s.plan p with pat := tabSet (dflt true) (s.plan p).pat k true,
                              patAt := tabSet (dflt 0) (s.plan p).patAt k s.now }

/-- Plan `p` reaches level `k`: its pattern begins on, its timer runs; a level with EN = 0 or, below 4, ESC = 0 is
passed at once (R173, R175). `fuel` levels can still be passed. -/
def State.reachLevel (s : State) (p : Nat) : Nat → Nat → State
  | 0, k => s.setFld (R.ALM_PST p) F.ALM_PST_LEVEL k
  | fuel + 1, k =>
    let s := s.setFld (R.ALM_PST p) F.ALM_PST_LEVEL k
    let s := s.beginPattern p k
    if k < 4 && (!(s.levelEn p k) || s.levelEsc p k == 0) then
      (s.notePlan p (k + 1) (s.fld (R.ALM_PST p) F.ALM_PST_CAUSE) 2).reachLevel p fuel (k + 1)
    else if s.levelEn p k then s.runTimer p k
    else s.setPlan p { s.plan p with due := none }

/-- Set RUN of plan `p` by its state. -/
def State.markRun (s : State) (p : Nat) : State :=
  s.setFld R.ALM_STAT F.ALM_STAT_RUN (setBitN (s.fld R.ALM_STAT F.ALM_STAT_RUN) p (s.planState p != 0))

/-- Plan `p` begins at level `k` with cause `cause` (R174, R180). -/
def State.beginPlan (s : State) (p k cause : Nat) : State :=
  let s := s.wr (R.ALM_PST p) (BitVec.ofNat 32 (2 ^ 30 + k * 2 ^ 27 + cause))
  let s := (s.setPlan p { s.plan p with pat := [], wkDue := none }).addFld (R.ALM_PCNT p) F.ALM_PCNT_STARTS 1
  ((((s.notePlan p k cause 0).reachLevel p 4 k).markRun p)).driveBandstand

/-- A start of plan `p`: an idle plan begins at level 1; of a running one the accept bits of the reached levels clear
(R174). A plan that is not enabled, or a watch-keeper plan, is not started. -/
def State.startPlan (s : State) (p cause : Nat) : State :=
  if !(s.planOk p) || s.planWk p then s
  else if s.planState p == 0 then s.beginPlan p 1 cause
  else
    let s := (s.setFld (R.ALM_PST p) F.ALM_PST_ACC 0).addFld (R.ALM_PCNT p) F.ALM_PCNT_STARTS 1
    (s.notePlan p (s.planLevel p) cause 1).driveBandstand

/-- The word of an idle plan: no cause (0x1FF). -/
def pstIdle : Word := 0x000001FF

/-- PERIOD and PREW of plan `p`, ns. -/
def State.wkPeriod (s : State) (p : Nat) : Nat := s.fld (R.ALM_WKCFG p) F.ALM_WKCFG_PERIOD * sec
def State.wkPrew (s : State) (p : Nat) : Nat := s.fld (R.ALM_WKCFG p) F.ALM_WKCFG_PREW * sec

/-- Plan `p` ends for `reason` (R178); a watch-keeper plan returns to the armed phase with PERIOD restarted (R180). -/
def State.endPlanOp (s : State) (p reason : Nat) : State :=
  if s.planState p != 1 then s
  else
    let s := s.notePlan p (s.planLevel p) (s.fld (R.ALM_PST p) F.ALM_PST_CAUSE) reason
    let s := s.wr (R.ALM_PST p) (if s.planWk p then pstIdle ||| 0x80000000 else pstIdle)
    let s := s.setPlan p { s.plan p with due := none, pat := [], wkDue := if s.planWk p then some (s.now + s.wkPeriod p) else none }
    (s.markRun p).driveBandstand

/-- Group `g` names plan `p` (R178); a group that names a disabled or watch-keeper plan behaves as PLANEN = 0 (R181). -/
def State.namesPlan (s : State) (g p : Nat) : Bool :=
  s.flag (R.ALM_GCFG g) F.ALM_GCFG_PLANEN && s.fld (R.ALM_GCFG g) F.ALM_GCFG_PLAN == p && s.planOk p && !(s.planWk p)

/-- The UNACK total of the groups that name plan `p`. -/
def State.planUnack (s : State) (p : Nat) : Nat :=
  ((((listed s.regs (R.ALM_GCFG 0) 16 256).map (fun e => e.1)).filter (fun g => s.namesPlan g p)).map s.unackOf).sum

/-- After a change of group `g`: with ENDACK a running plan it names ends when the total falls to 0 (R178). -/
def State.checkEndAck (s : State) (g : Nat) : State :=
  let p := s.fld (R.ALM_GCFG g) F.ALM_GCFG_PLAN
  if !(s.namesPlan g p) then s
  else
    let total := s.planUnack p
    let was := (s.plan p).unack
    let s := s.setPlan p { s.plan p with unack := total }
    if s.planState p == 1 && s.flag (R.ALM_PCFG p) F.ALM_PCFG_ENDACK && 0 < was && total == 0 then s.endPlanOp p 5 else s

/-- Group `g` changes: state, counts, ENDACK, and the outputs that follow its AUD. -/
def State.groupChanged (s : State) (g : Nat) : State := ((s.recount g).checkEndAck g).driveBandstand

/-- The groups `l` change at once: every count stands before a plan is looked at (R178). -/
def State.groupsChanged (s : State) (l : List Nat) : State :=
  (foldS State.checkEndAck (foldS State.recount s l) l).driveBandstand

/-! ### Alarm states (R163–R167) -/

/-- Unmodified entry `e` has gone to ACTIVE-UNACK: stamp, group, first-out, AUD, plan (R167–R170, R174). -/
def State.alarmRaised (s : State) (e : Nat) : State :=
  let g := s.entryGroup e
  let first := !(s.flag (R.ALM_GST g) F.ALM_GST_FOVALID)
  let s := ((s.stamp e).recount g).setFlag (R.ALM_GST g) F.ALM_GST_AUD true
  let s := if first then
      ((s.setFlag (R.ALM_GST g) F.ALM_GST_FOVALID true).setFld (R.ALM_GST g) F.ALM_GST_FIRST e).raise 0x2B g e
    else s
  let p := s.fld (R.ALM_GCFG g) F.ALM_GCFG_PLAN
  let s := s.checkEndAck g
  if s.namesPlan g p && s.fld (R.ALM_GCFG g) F.ALM_GCFG_MINSEV ≤ s.fld (R.LIM_ENT2 e) F.LIM_ENT2_SEV
  then s.startPlan p g else s.driveBandstand

/-- Unmodified entry `e` takes state `v`. -/
def State.alarmMove (s : State) (e v : Nat) : State :=
  let s := s.setAlarmState e v
  match v with
  | 1 => s.alarmRaised e
  | 3 => (s.stamp e).groupChanged (s.entryGroup e)
  | _ => s.groupChanged (s.entryGroup e)

/-- A change of ACT of entry `e` reaches the alarm unit (R163); a modified entry stays frozen (R164). -/
def State.actChanged (s : State) (e : Nat) : State :=
  if s.modified e then s
  else match s.alarmState e, s.entryAct e with
    | 0, true => s.alarmMove e 1
    | 3, true => s.alarmMove e 1
    | 1, false => s.alarmMove e 3
    | 2, false => s.alarmMove e 0
    | _, _ => s.groupChanged (s.entryGroup e)

/-- Entry `e` is disabled, leaves its range or is invalid: NORMAL at once (R163). `g` is the group it was in. -/
def State.alarmDropped (s : State) (e g : Nat) : State := (s.setAlarmState e 0).groupChanged g

/-- The state an entry takes when its last freezing modifier clears (R165). -/
def resumeState (frozen : Nat) (act : Bool) : Nat :=
  match frozen, act with
  | 1, false => 3
  | 2, false => 0
  | 0, true => 1
  | 3, true => 1
  | _, _ => frozen

/-- A freezing modifier of entry `e` has cleared: if it was the last, the entry returns to its group (R165). -/
def State.unfreeze (s : State) (e : Nat) : State :=
  if s.modified e then s.groupChanged (s.entryGroup e)
  else s.alarmMove e (resumeState (s.alarmState e) (s.entryAct e))

/-- Set or clear SUPPRESSED of entry `e` as LIM_STATE.INH stands (R164). -/
def State.suppress (s : State) (e : Nat) (on : Bool) : State :=
  if s.flag (R.ALM_EST e) F.ALM_EST_SUPP == on then s
  else
    let s := s.setFlag (R.ALM_EST e) F.ALM_EST_SUPP on
    if !(s.entryOk e) then s else if on then s.groupChanged (s.entryGroup e) else s.unfreeze e

/-- An acknowledge of entry `e` by the commits of tick `tick` (R163, R166, R167): the new state, if it changes. -/
def State.ackState (s : State) (e tick : Nat) : Option Nat :=
  if s.modified e || tick < (s.rd (R.ALM_ESTMP e)).toNat then none
  else match s.alarmState e with
    | 1 => some 2
    | 3 => some 0
    | _ => none

/-- Acknowledge the entries `es`; returns the number that changed. -/
def State.ackEntries (s : State) (es : List Nat) (tick : Nat) : Nat × State :=
  es.foldl (fun r e => match r.2.ackState e tick with
    | some v => (r.1 + 1, r.2.setAlarmState e v)
    | none => r) (0, s)

/-- After an acknowledge: the group's state, AUD where UNACK is 0, the plans (R170, R178). -/
def State.ackDone (s : State) (g : Nat) : State :=
  let s := s.recount g
  let s := if s.unackOf g == 0 then s.setFlag (R.ALM_GST g) F.ALM_GST_AUD false else s
  (s.checkEndAck g).driveBandstand

/-! ### Actions by commit (R172, R218) -/

def State.ackGroupOp (s : State) (g tick : Nat) : State :=
  if 256 ≤ g then s.answer .address
  else
    let r := s.ackEntries (s.groupEntries g) tick
    ((r.2.ackDone g).raise 0x27 g (data2 r.1 tick)).answer .ok

def State.silenceGroupOp (s : State) (g : Nat) : State :=
  if 256 ≤ g then s.answer .address
  else (((s.setFlag (R.ALM_GST g) F.ALM_GST_AUD false).driveBandstand).raise 0x28 g (s.unackOf g)).answer .ok

/-- The checks of an entry action (R218): ADDRESS, then STATE for an entry that is disabled or invalid. -/
def State.entryCheck (s : State) (e : Nat) (f : State → State) : State :=
  if 2048 ≤ e then s.answer .address else if !(s.entryOk e) then s.answer .state else f s

def State.ackEntryOp (s : State) (e tick : Nat) : State :=
  s.entryCheck e (fun s => (((s.ackEntries [e] tick).2).ackDone (s.entryGroup e)).answer .ok)

/-- When the shelve time of entry `e` runs out. -/
def State.shelveDue (s : State) (e : Nat) : Option Time := tabGet (dflt none) s.alm.shelve e

def State.setShelveDue (s : State) (e : Nat) (t : Option Time) : State :=
  s.setAlm { s.alm with shelve := tabSet (dflt none) s.alm.shelve e t }

/-- The seconds of the shelve time that remain, rounded up. -/
def State.shelveLeft (s : State) (e : Nat) : Nat :=
  match s.shelveDue e with
  | some t => (t - s.now + (sec - 1)) / sec
  | none => 0

def State.shelveOp (s : State) (e secs : Nat) : State :=
  s.entryCheck e (fun s =>
    if secs = 0 ∨ 86400 < secs then s.answer .range
    else
      let s := (s.setShelveDue e (some (s.now + secs * sec))).setFld (R.ALM_EST e) F.ALM_EST_SHVREM secs
      let s := s.setFlag (R.ALM_EST e) F.ALM_EST_SHLV true
      ((s.groupChanged (s.entryGroup e)).raise 0x29 e secs).answer .ok)

/-- SHELVED clears, by an unshelve action (cause 1) or by expiry (cause 2), with E29 (R164, R183). -/
def State.endShelve (s : State) (e cause : Nat) : State :=
  let left := if cause == 1 then s.shelveLeft e else 0
  let s := (s.setShelveDue e none).setFld (R.ALM_EST e) F.ALM_EST_SHVREM 0
  let s := (s.setFlag (R.ALM_EST e) F.ALM_EST_SHLV false).raise 0x29 e (left + 2 ^ 32 * cause)
  if s.entryOk e then s.unfreeze e else s

def State.unshelveOp (s : State) (e : Nat) : State :=
  s.entryCheck e (fun s => (if s.flag (R.ALM_EST e) F.ALM_EST_SHLV then s.endShelve e 1 else s).answer .ok)

def State.oosOp (s : State) (e : Nat) : State :=
  s.entryCheck e (fun s =>
    (if s.flag (R.ALM_EST e) F.ALM_EST_OOS then s
     else
      let was := s.alarmState e
      let s := (s.setFlag (R.ALM_EST e) F.ALM_EST_OOS true).setAlarmState e 0
      (s.groupChanged (s.entryGroup e)).raise 0x2A e (was + 2 ^ 8)).answer .ok)

def State.returnOp (s : State) (e : Nat) : State :=
  s.entryCheck e (fun s =>
    (if !(s.flag (R.ALM_EST e) F.ALM_EST_OOS) then s
     else
      let s := (s.setFlag (R.ALM_EST e) F.ALM_EST_OOS false).raise 0x2A e (s.alarmState e)
      let v := if s.entryAct e then 1 else 0
      if s.modified e then ((s.setAlarmState e v).applyIf (v == 1) (fun s => s.stamp e)).groupChanged (s.entryGroup e)
      else s.alarmMove e v).answer .ok)

/-- Whether a start cause is allowed: a group, or 0x101 (R172). -/
def causeOk (cause : Nat) : Bool := cause ≤ 0xFF || cause == 0x101

def State.startPlanOp (s : State) (p cause : Nat) : State :=
  if 16 ≤ p then s.answer .address
  else if !(causeOk cause) then s.answer .range
  else if !(s.planOk p) || s.planWk p then s.answer .state
  else (s.startPlan p cause).answer .ok

def State.endPlanAct (s : State) (p : Nat) : State :=
  if 16 ≤ p then s.answer .address else (s.endPlanOp p 3).answer .ok

/-- Level `k` of plan `p`, if reached, is accepted by input or action `by_` (0xFF an action): END ends the plan; ACCEPT
sets its accept bit and, at the current level, restarts its timer (R177). -/
def State.acceptAt (s : State) (p k by_ : Nat) : State :=
  if s.planState p != 1 || s.planLevel p < k || !(s.levelEn p k) then s
  else if s.flag (R.ALM_LCFG p (k - 1)) F.ALM_LCFG_MODE then s.endPlanOp p 4
  else
    let s := s.setFld (R.ALM_PST p) F.ALM_PST_ACC (setBitN (s.fld (R.ALM_PST p) F.ALM_PST_ACC) (k - 1) true)
    let s := if s.planLevel p == k then s.runTimer p k else s
    (s.raise 0x2D p (k + 2 ^ 8 * by_)).driveBandstand

def State.silencePlanOp (s : State) (p : Nat) : State :=
  if 16 ≤ p then s.answer .address
  else
    (if s.planState p == 1 then (s.setFld (R.ALM_PST p) F.ALM_PST_ACC (2 ^ s.planLevel p - 1)).driveBandstand else s).answer .ok

/-- E2E of plan `p` (R183). -/
def State.noteWk (s : State) (p phase : Nat) : State := s.raise 0x2E p phase

/-- Plan `p` is armed with PERIOD running from now (R180). -/
def State.armed (s : State) (p : Nat) : State :=
  let s := s.wr (R.ALM_PST p) (pstIdle ||| 0x80000000)
  ((s.setPlan p { s.plan p with due := none, pat := [], wkDue := some (s.now + s.wkPeriod p) }).markRun p).driveBandstand

/-- A reset input of watch-keeper plan `p` (R180). -/
def State.wkReset (s : State) (p : Nat) : State :=
  if s.planWk p && s.planState p != 0 then (s.armed p).noteWk p 2 else s

/-- An input of level `k` of plan `p`: on a watch-keeper plan an input of level 1 is a reset input (R177, R180). -/
def State.levelInput (s : State) (p k by_ : Nat) : State :=
  if s.planWk p && k == 1 then s.wkReset p else s.acceptAt p k by_

def State.acceptLevelOp (s : State) (p k : Nat) : State :=
  if 16 ≤ p then s.answer .address
  else if k = 0 ∨ 5 ≤ k then s.answer .range
  else (s.levelInput p k 0xFF).answer .ok

def State.armOp (s : State) (p : Nat) : State :=
  if 16 ≤ p then s.answer .address
  else if !(s.planOk p) || !(s.planWk p) then s.answer .state
  else ((s.armed p).noteWk p 3).answer .ok

def State.disarmOp (s : State) (p : Nat) : State :=
  if 16 ≤ p then s.answer .address
  else if !(s.planOk p) || !(s.planWk p) then s.answer .state
  else if s.planState p == 0 then s.answer .ok
  else
    let s := s.wr (R.ALM_PST p) pstIdle
    let s := s.setPlan p { s.plan p with due := none, pat := [], wkDue := none }
    (((s.markRun p).driveBandstand).noteWk p 4).answer .ok

/-- The selection becomes engineer `k`; NOWATCH where that engineer is not enabled (R179). -/
def State.selectEngineer (s : State) (k : Nat) : State :=
  ((s.setFld R.ALM_WATCH F.ALM_WATCH_SEL k).setFlag R.ALM_WATCH F.ALM_WATCH_NOWATCH (!(s.engineerOk k))).driveBandstand

def State.selectWatchOp (s : State) (tgt k : Nat) : State :=
  if tgt != 0 then s.answer .address
  else if !(s.flag R.ALM_WATCH F.ALM_WATCH_SRC) then s.answer .state
  else if !(s.engineerOk k) then s.answer .range
  else (s.selectEngineer k).answer .ok

def execAckGroup (g : BitVec 16) (tick : Word) (t : Time) (s : State) : Out :=
  .next ((s.atTime t).ackGroupOp g.toNat tick.toNat)
def execSilenceGroup (g : BitVec 16) (s : State) : Out := .next (s.silenceGroupOp g.toNat)
def execAckEntry (e : BitVec 16) (tick : Word) (t : Time) (s : State) : Out :=
  .next ((s.atTime t).ackEntryOp e.toNat tick.toNat)
def execShelveEntry (e : BitVec 16) (secs : BitVec 17) (t : Time) (s : State) : Out :=
  .next ((s.atTime t).shelveOp e.toNat secs.toNat)
def execUnshelveEntry (e : BitVec 16) (t : Time) (s : State) : Out := .next ((s.atTime t).unshelveOp e.toNat)
def execOutOfService (e : BitVec 16) (s : State) : Out := .next (s.oosOp e.toNat)
def execReturnToService (e : BitVec 16) (t : Time) (s : State) : Out := .next ((s.atTime t).returnOp e.toNat)
def execStartPlan (p : BitVec 16) (cause : BitVec 9) (t : Time) (s : State) : Out :=
  .next ((s.atTime t).startPlanOp p.toNat cause.toNat)
def execEndPlan (p : BitVec 16) (t : Time) (s : State) : Out := .next ((s.atTime t).endPlanAct p.toNat)
def execAcceptLevel (p : BitVec 16) (level : BitVec 3) (t : Time) (s : State) : Out :=
  .next ((s.atTime t).acceptLevelOp p.toNat level.toNat)
def execSilencePlan (p : BitVec 16) (t : Time) (s : State) : Out := .next ((s.atTime t).silencePlanOp p.toNat)
def execArmWatchKeeper (p : BitVec 16) (t : Time) (s : State) : Out := .next ((s.atTime t).armOp p.toNat)
def execDisarmWatchKeeper (p : BitVec 16) (t : Time) (s : State) : Out := .next ((s.atTime t).disarmOp p.toNat)
def execSelectWatch (tgt : BitVec 16) (engineer : BitVec 3) (t : Time) (s : State) : Out :=
  .next ((s.atTime t).selectWatchOp tgt.toNat engineer.toNat)

/-! ### Timers and inputs of the alarm unit and Bandstand -/

def execShelveExpiry (e : Fin 2048) (t : Time) (s : State) : Out :=
  let s := s.atTime t
  .next (if s.almOn && (match s.shelveDue e with | some d => d ≤ s.now | none => false) then s.endShelve e 2 else s)

/-- The timer of plan `p` falls due: the next level, or on level 4 the accept bit clears and the timer restarts
(R175). -/
def State.levelTimer (s : State) (p : Nat) : State :=
  let k := s.planLevel p
  if k < 4 then
    let s := s.addFld (R.ALM_PCNT p) F.ALM_PCNT_ESCAL 1
    let s := s.notePlan p (k + 1) (s.fld (R.ALM_PST p) F.ALM_PST_CAUSE) 2
    (s.reachLevel p 4 (k + 1)).driveBandstand
  else
    let s := s.setFld (R.ALM_PST p) F.ALM_PST_ACC (setBitN (s.fld (R.ALM_PST p) F.ALM_PST_ACC) 3 false)
    (s.runTimer p 4).driveBandstand

def execPlanLevelTimer (p : Fin 16) (t : Time) (s : State) : Out :=
  let s := s.atTime t
  .next (if s.almOn && s.planState p == 1 && (match (s.plan p).due with | some d => s.delayDue d | none => false)
    then s.levelTimer p else s)

/-- A rising edge of input `di` acts on every level of plan `p` that it serves; on a watch-keeper plan level 1 is a
reset input instead (R177, R180). -/
def State.acceptEdge (s : State) (di p : Nat) : State :=
  foldS (fun s k => if (s.levelInputs p k).contains di && !(s.planWk p && k == 1) then s.acceptAt p k di else s) s [1, 2, 3, 4]

/-- The rising edge of input `di` has been acted on by the accept inputs: an input held ON acts once (R177). -/
def State.edgeSeen (s : State) (di : Nat) : State :=
  s.setAlm { s.alm with edges := BitVec.ofNat 48 (setBitN s.alm.edges.toNat di false) }

def execAcceptInputEdge (di : Fin 48) (t : Time) (s : State) : Out :=
  let s := s.atTime t
  .next (if s.almOn && s.alm.edges.getLsbD di
    then foldS (fun s p => s.acceptEdge di p) (s.edgeSeen di) (List.range 16) else s)

/-- The inputs of the watch code, DIBASE first (R179). -/
def State.watchInputs (s : State) : List Nat :=
  let base := s.fld R.ALM_WATCH F.ALM_WATCH_DIBASE
  [base, base + 1, base + 2]

/-- The binary code on the watch inputs, DIBASE as bit 0 (R179). -/
def State.watchCode (s : State) : Nat :=
  ((s.watchInputs.zipIdx).map (fun x => (s.alm.di.getLsbD x.1).toNat * 2 ^ x.2)).sum

/-- The watch code has been stable for 500 ms (R179). -/
def State.watchStable (s : State) : Bool :=
  s.watchInputs.all (fun n => tabGet (dflt 0) s.alm.diAt n + 500 * ms ≤ s.now)

def execWatchCodeStable (code : BitVec 3) (t : Time) (s : State) : Out :=
  let s := s.atTime t
  .next (if s.almOn && !(s.flag R.ALM_WATCH F.ALM_WATCH_SRC) && s.watchCode == code.toNat && s.watchStable
    then s.selectEngineer code.toNat else s)

/-- PERIOD of plan `p` has run for at least `d`, on the delay clock (R173). -/
def State.wkElapsed (s : State) (p d : Nat) : Bool :=
  match (s.plan p).wkDue with
  | some t => s.delayTick (t + d - s.wkPeriod p) ≤ s.now
  | none => false

def execWkPrewarning (p : Fin 16) (t : Time) (s : State) : Out :=
  let s := s.atTime t
  .next (if s.almOn && s.planState p == 2 && s.wkElapsed p (s.wkPeriod p - s.wkPrew p) then
    let s := s.setFld (R.ALM_PST p) F.ALM_PST_STATE 3
    ((s.beginPattern p 1).driveBandstand).noteWk p 0
  else s)

def execWkExpiry (p : Fin 16) (t : Time) (s : State) : Out :=
  let s := s.atTime t
  .next (if s.almOn && 2 ≤ s.planState p && s.wkElapsed p (s.wkPeriod p)
    then (s.noteWk p 1).beginPlan p 2 0x102 else s)

/-- Input `di` resets watch-keeper plan `p`: RSTDI, or a level-1 input (R180). -/
def State.wkInput (s : State) (di p : Nat) : Bool :=
  (s.flag (R.ALM_WKCFG p) F.ALM_WKCFG_RSTEN && s.fld (R.ALM_WKCFG p) F.ALM_WKCFG_RSTDI == di) ||
    (s.levelInputs p 1).contains di

/-- The rising edge of input `di` has been acted on by the reset inputs. -/
def State.resetSeen (s : State) (di : Nat) : State :=
  s.setAlm { s.alm with resets := BitVec.ofNat 48 (setBitN s.alm.resets.toNat di false) }

def execWkResetInput (di : Fin 48) (t : Time) (s : State) : Out :=
  let s := s.atTime t
  .next (if s.almOn && s.alm.resets.getLsbD di then
    foldS (fun s p => if s.wkInput di p then s.wkReset p else s) (s.resetSeen di) (List.range 16)
  else s)

/-- How long a phase of pattern `pat` lasts: on 0.5 s; off 0.5 s with PAT 1 and 1.5 s with PAT 2 (R176). -/
def phaseTime (pat : Nat) (on : Bool) : Nat := if on || pat == 1 then 500 * ms else 1500 * ms

/-- The pattern phase of level `k` of plan `p`: on or off, and when it ends. -/
def State.phaseOn (s : State) (p k : Nat) : Bool := tabGet (dflt true) (s.plan p).pat k
def State.phaseEnds (s : State) (p k : Nat) : Time :=
  tabGet (dflt 0) (s.plan p).patAt k + phaseTime (s.fld (R.ALM_LCFG p (k - 1)) F.ALM_LCFG_PAT) (s.phaseOn p k)

/-- The next phase of the pattern of level `k` of plan `p` begins where the present one ends. -/
def State.togglePattern (s : State) (p k : Nat) : State :=
  (s.setPlan p { s.plan p with pat := tabSet (dflt true) (s.plan p).pat k (!(s.phaseOn p k)),
                               patAt := tabSet (dflt 0) (s.plan p).patAt k (s.phaseEnds p k) }).driveBandstand

/-- The pattern of a level toggles where it is driven with PAT 1 or 2 and its phase has ended (R176). -/
def execPatternToggle (p : Fin 16) (lv : Fin 4) (t : Time) (s : State) : Out :=
  let s := s.atTime t
  let k := lv.val + 1
  let pat := s.fld (R.ALM_LCFG p lv) F.ALM_LCFG_PAT
  .next (if s.almOn && (pat == 1 || pat == 2) && ((s.planState p == 1 && k ≤ s.planLevel p) || (s.planState p == 3 && k == 1)) &&
      s.phaseEnds p k ≤ s.now
    then s.togglePattern p k else s)

/-! ### Remaining times and the retained-state mirror (R182, R184, R185) -/

/-- ms until the running timer of plan `p` falls due (ALM_PTMR): the level timer, or what is left of PERIOD. -/
def State.planLeft (s : State) (p : Nat) : Nat :=
  match (s.plan p).due, (s.plan p).wkDue with
  | some d, _ => (s.delayTick d - s.now + (ms - 1)) / ms
  | none, some t => (s.delayTick t - s.now + (ms - 1)) / ms
  | none, none => 0

/-- The registers that show remaining times brought up to date: ALM_PTMR, ALM_EST.SHVREM. -/
def State.freshenAlm (s : State) : State :=
  let s := foldS (fun s p => s.wr (R.ALM_PTMR p) (BitVec.ofNat 32 (s.planLeft p))) s (List.range 16)
  foldS (fun s e => s.setFld (R.ALM_EST e) F.ALM_EST_SHVREM (s.shelveLeft e)) s (s.alm.shelve.map (fun x => x.1))

/-- Whether address `a` lies in a block of PD4 (R417; of REC, its PD4 side, R336). -/
def inPd4 (a : Nat) : Bool :=
  [0x4003, 0x4004, 0x4005, 0x4006, 0x4007, 0x400A, 0x400B, 0x4011].contains (blockNo a) ||
    a == R.REC_FIFO || (0x400D0100 ≤ a && a < 0x400D0500)

/-- A register of the blocks whose fields marked P the retained-state mirror holds: LIM, ALM and TWN (R141, R182,
R233). -/
def mirrored (a : Nat) : Bool := [0x4006, 0x400A, 0x400B].contains (blockNo a)

/-- Write the fields marked P of the PD4 blocks to the retained-state mirror. -/
def State.writeMirror (s : State) : State :=
  if !(s.powered 8) then s
  else
    let s := s.freshenAlm
    let keep := tabKeep (fun a => !(mirrored a)) s.mirror
    let new := (s.regs.filter (fun e => mirrored e.1 && pMask e.1 != 0)).map
      (fun e => (e.1, (e.2 &&& pMask e.1) ||| (resetWord e.1 &&& ~~~(pMask e.1))))
    s.setMirror (tabSetAll resetWord keep new)

def execRetainedMirrorWrite (t : Time) (s : State) : Out :=
  let s := s.atTime t
  .next (if s.almOn then s.mirrorPd5.writeMirror else s.mirrorPd5)

end Sys2Proof.Machine
end

