-- ==== Sys2Proof/Machine/Flags.lean ====
section
/-! DEFINITION. Comparisons, saturation and the other one-word results of Belvedere (R199–R202). The cores have no
condition flags (R186): a comparison writes 0 or 1 to its destination word. -/

namespace Sys2Proof.Machine

/-- 1 or 0 (SLT, SLTU, SLTI, SLTIU). -/
def boolWord (b : Bool) : Word := if b then 1 else 0

/-- A signed result limited to −2^31 and 2^31 − 1 (R200). -/
def satWord (x : Int) : Word := BitVec.ofInt 32 (clampInt (-(2 ^ 31)) (2 ^ 31 - 1) x)

/-- ADDS, ADDIS. -/
def addSat (a b : Word) : Word := satWord (a.toInt + b.toInt)

/-- SUBS. -/
def subSat (a b : Word) : Word := satWord (a.toInt - b.toInt)

/-- MULS. -/
def mulSat (a b : Word) : Word := satWord (a.toInt * b.toInt)

/-- ABS: −2^31 gives 2^31 − 1. -/
def absSat (a : Word) : Word := satWord (Int.natAbs a.toInt)

/-- Signed comparison. -/
def ltS (a b : Word) : Bool := decide (a.toInt < b.toInt)

/-- Unsigned comparison. -/
def ltU (a b : Word) : Bool := decide (a.toNat < b.toNat)

/-- The amount of a shift or the bit of an extension in a word: bits 4:0. -/
def amount (b : Word) : Nat := b.toNat % 32

/-- Shift right, copying the sign. -/
def sraWord (a : Word) (k : Nat) : Word := a.sshiftRight k

/-- Bits above bit `k` cleared (ZXT, ZXTI). -/
def zxtWord (a : Word) (k : Nat) : Word := BitVec.ofNat 32 (a.toNat % 2 ^ (k + 1))

/-- Sign-extended from bit `k` (SXT, SXTI). -/
def sxtWord (a : Word) (k : Nat) : Word := BitVec.ofInt 32 (signOf (k + 1) (a.toNat % 2 ^ (k + 1)))

/-- Leading zero bits among the low `w` bits of `n`. -/
def leadZeros : Nat → Nat → Nat
  | 0, _ => 0
  | w + 1, n => if n.testBit w then 0 else leadZeros w n + 1

/-- CLZ, 0–32. -/
def clzWord (a : Word) : Word := BitVec.ofNat 32 (leadZeros 32 a.toNat)

/-- High 32 bits of the signed product. -/
def mulhWord (a b : Word) : Word := BitVec.ofInt 32 (a.toInt * b.toInt / 2 ^ 32)

/-- High 32 bits of the unsigned product. -/
def mulhuWord (a b : Word) : Word := BitVec.ofNat 32 (a.toNat * b.toNat / 2 ^ 32)

/-- DIV: truncated toward zero; 0xFFFF_FFFF for a divisor of 0; −2^31 by −1 gives −2^31 (R201). -/
def divWord (a b : Word) : Word :=
  if b = 0 then 0xFFFFFFFF else BitVec.ofInt 32 (truncDiv a.toInt b.toInt)

/-- DIVU. -/
def divuWord (a b : Word) : Word := if b = 0 then 0xFFFFFFFF else BitVec.ofNat 32 (a.toNat / b.toNat)

/-- REM: the remainder of DIV, with the sign of `a`; `a` for a divisor of 0 (R201). -/
def remWord (a b : Word) : Word := if b = 0 then a else BitVec.ofInt 32 (Int.tmod a.toInt b.toInt)

/-- REMU. -/
def remuWord (a b : Word) : Word := if b = 0 then a else BitVec.ofNat 32 (a.toNat % b.toNat)

end Sys2Proof.Machine
end

