-- ==== Sys2Proof/Machine/Operands.lean ====
section
/-! DEFINITION. Operand forms: the fields of a commit word (R218), of a sample word (R72) and of a Belvedere
instruction (R197), and the decimal (BCD) digits of the calendar. -/

namespace Sys2Proof.Machine

/-! ### Commit words (R218) -/

/-- Kind, bits 63:56. -/
def cwKind (w : CWord) : Nat := bitsOf w.toNat 56 8

/-- Target, bits 55:40. -/
def cwTarget (w : CWord) : Nat := bitsOf w.toNat 40 16

/-- Value, bits 39:0. -/
def cwValue (w : CWord) : Nat := bitsOf w.toNat 0 40

/-! ### Sample words (R72) -/

/-- The qualities of R72. -/
def qGood : Nat := 0
def qUncertain : Nat := 1
def qBad : Nat := 2
def qNotScanned : Nat := 3

/-- Quality, bits 31:30. -/
def swQuality (w : Word) : Nat := bitsOf w.toNat 30 2

/-- Range tag, bits 29:27. -/
def swTag (w : Word) : Nat := bitsOf w.toNat 27 3

/-- The signed 24-bit value. -/
def swValue (w : Word) : Int := signOf 24 (bitsOf w.toNat 0 24)

/-- The word with these parts; the value must lie in the signed 24-bit range. -/
def mkSample (quality tag : Nat) (straddle clamp subst : Bool) (value : Int) : Word :=
  BitVec.ofNat 32 (quality % 4 * 2 ^ 30 + tag % 8 * 2 ^ 27 + straddle.toNat * 2 ^ 26 + clamp.toNat * 2 ^ 25 +
    subst.toNat * 2 ^ 24 + unsignOf 24 value)

/-- The word of a channel that has delivered no sample (R73). -/
def notScanned : Word := 0xC0000000

/-- The live sample table: the word of channel `ch`. -/
def State.sample (s : State) (ch : Nat) : Word := tabGet (dflt notScanned) s.live ch

/-- Write a word to the live sample table. -/
def State.setSample (s : State) (ch : Nat) (w : Word) : State :=
  { s with live := tabSet (dflt notScanned) s.live ch w }

/-! ### Belvedere operand forms (R197) -/

/-- imm16, sign-extended. -/
def immS (imm : BitVec 16) : Word := imm.signExtend 32

/-- imm16, zero-extended. -/
def immZ (imm : BitVec 16) : Word := imm.zeroExtend 32

/-- PC + 4 + off × 4 with a signed offset (R197). -/
def target {w : Nat} (pc : Word) (off : BitVec w) : Word := pc + 4 + off.signExtend 32 * 4

/-! ### BCD -/

/-- Two BCD digits of a number below 100. -/
def toBcd (n : Nat) : Nat := n / 10 % 10 * 16 + n % 10

/-- The number two BCD digits spell. -/
def ofBcd (b : Nat) : Nat := b / 16 % 16 * 10 + b % 16

/-- Whether both digits of a byte are 0–9. -/
def bcdOk (b : Nat) : Bool := b / 16 % 16 < 10 && b % 16 < 10

end Sys2Proof.Machine
end

