-- ==== Sys2Proof/Machine/SnapView.lean ====
section
/-! DEFINITION. The snapshot as the cores read it (R192–R194): each word of the 64 KiB window, from the live table and
the registers as the snapshot builder froze them. -/

namespace Sys2Proof.Machine

/-- A register as the snapshot froze it. -/
def Snap.reg (k : Snap) (a : Nat) : Word := tabGet resetWord k.regs a

/-- The 64-bit value `v` at word `i` (0 low, 1 high). -/
def half64 (v : BitVec 64) (i : Nat) : Word := BitVec.ofNat 32 (v.toNat / 2 ^ (32 * i))

/-- The header (R193), word `i` of 16. -/
def Snap.header (k : Snap) (i : Nat) : Word :=
  match i with
  | 0 => BitVec.ofNat 32 k.tickNo
  | 1 => BitVec.ofNat 32 k.periodMs
  | 2 => BitVec.ofNat 32 k.optime
  | 3 => BitVec.ofNat 32 (k.optime / 2 ^ 32)
  | 4 => half64 k.hostTime 0
  | 5 => half64 k.hostTime 1
  | 6 => half64 k.cal 0
  | 7 => half64 k.cal 1
  | 8 => BitVec.ofNat 32 k.flags
  | 9 => BitVec.ofNat 32 k.skipped
  | 10 => BitVec.ofNat 32 k.events.length
  | 11 => BitVec.ofNat 32 k.evHeld
  | 12 => BitVec.ofNat 32 k.evLost
  | _ => 0

/-- The alarm byte of entry `e` (R192). -/
def Snap.alarmByte (k : Snap) (e : Nat) : Byte :=
  let w := k.reg (R.ALM_EST e)
  BitVec.ofNat 8 (fldOf F.ALM_EST_STATE w + 4 * fldOf F.ALM_EST_SUPP w + 8 * fldOf F.ALM_EST_SHLV w +
    16 * fldOf F.ALM_EST_OOS w)

/-- The flags of 32 outputs from `n0`, each by `f` of its DIO_DOST. -/
def Snap.dostBits (k : Snap) (n0 count : Nat) (f : Word → Bool) : Word :=
  BitVec.ofNat 32 (((List.range count).map (fun i => (f (k.reg (R.DIO_DOST (n0 + i)))).toNat * 2 ^ i)).sum)

/-- The digital I/O area (R192), byte offset `o` from 0x4000. The diagnostic summary of an output is 1 while any of
its LIVE bits is (DEDUCED, log 21). -/
def Snap.dioWord (k : Snap) (o : Nat) : Word :=
  match o / 4 with
  | 0 => k.reg (R.DIO_DIST 0)
  | 1 => k.reg (R.DIO_DIST 1)
  | 2 => k.reg (R.DIO_DIWB 0)
  | 3 => k.reg (R.DIO_DIWB 1)
  | 4 => k.dostBits 0 32 (fun w => fldOf F.DIO_DOST_CMD w != 0)
  | 5 => k.dostBits 32 16 (fun w => fldOf F.DIO_DOST_CMD w != 0)
  | 6 => k.dostBits 0 32 (fun w => fldOf F.DIO_DOST_DRV w != 0)
  | 7 => k.dostBits 32 16 (fun w => fldOf F.DIO_DOST_DRV w != 0)
  | 8 => k.dostBits 0 32 (fun w => fldOf F.DIO_DOST_LIVE w != 0)
  | 9 => k.dostBits 32 16 (fun w => fldOf F.DIO_DOST_LIVE w != 0)
  | 10 => BitVec.ofNat 32 (((List.range 4).map (fun g => fldOf F.DIO_VFST_STATE (k.reg (R.DIO_VFST g)) * 256 ^ g)).sum)
  | 11 => boolWord k.stale
  | _ =>
    if 0x40 ≤ o && o < 0x80 then k.reg (R.DIO_CNT ((o - 0x40) / 4))
    else if 0x80 ≤ o && o < 0x90 then k.reg (R.DIO_FREQ ((o - 0x80) / 4)) else 0

/-- The registers that stand one by one in the areas 0x4100–0x42BF (R192, R280, R298, R335, R363). -/
def Snap.listedReg (o : Nat) : Option Nat :=
  let pick (l : List Nat) (b : Nat) : Option Nat := l[(o - b) / 4]?
  if o < 0x4140 then
    pick [R.TRP_IN 0, R.TRP_IN 1, R.TRP_OUT 0, R.TRP_OUT 1, R.TRP_LATCH, R.TRP_TERM 0, R.TRP_TERM 1, R.TRP_TERM 2,
      R.TRP_TERM 3] 0x4100
  else if o < 0x4160 then pick [R.LIM_INH 0, R.LIM_INH 1, R.LIM_INHEFF 0, R.LIM_INHEFF 1, R.LIM_REPORT] 0x4140
  else if o < 0x41E0 then
    some (if o % 8 < 4 then R.ALM_PST ((o - 0x4160) / 8) else R.ALM_PTMR ((o - 0x4160) / 8))
  else if o < 0x4200 then pick [R.ALM_STAT, R.ALM_WATCH, R.ALM_DOUT 0, R.ALM_DOUT 1] 0x41E0
  else if o < 0x4260 then
    let a := (o - 0x4200) / 16
    [R.GLS_POS a, R.GLS_VEL a, R.GLS_AXST a, R.GLS_TGT a][(o % 16) / 4]?
  else if o < 0x4280 then
    pick [R.PNL_STAT, R.PNL_QST, R.PNL_PEND 0, R.PNL_PEND 1, R.REC_STAT, R.REC_NEXTSEQ, R.REC_FIFO, R.REC_LOSS] 0x4260
  else if o < 0x42C0 then pick [R.RNG_STAT, R.RNG_PORT 0, R.RNG_PORT 1, R.RNG_CYCLE, R.DIG_STAT] 0x4280
  else none

/-- A word of an event descriptor (R194). -/
def EvDesc.word (d : EvDesc) (i : Nat) : Word :=
  match i with
  | 0 => BitVec.ofNat 32 (d.code % 256 + d.sev % 4 * 2 ^ 8 + d.source % 2 ^ 16 * 2 ^ 16)
  | 1 => BitVec.ofNat 32 d.tick
  | 2 => half64 d.data 0
  | _ => half64 d.data 1

/-- The word at offset `o` (a multiple of 4) of a snapshot (R192). -/
def Snap.word (k : Snap) (o : Nat) : Word :=
  if o < 0x40 then k.header (o / 4)
  else if o < 0x100 then 0
  else if o < 0x500 then tabGet (dflt notScanned) k.live ((o - 0x100) / 4)
  else if o < 0x800 then 0
  else if o < 0x1000 then
    k.alarmByte (o - 0x800 + 3) ++ k.alarmByte (o - 0x800 + 2) ++ k.alarmByte (o - 0x800 + 1) ++ k.alarmByte (o - 0x800)
  else if o < 0x3000 then k.reg (R.LIM_STATE ((o - 0x1000) / 4))
  else if o < 0x4000 then
    let g := (o - 0x3000) / 16
    match o % 16 / 4 with
    | 0 => k.reg (R.ALM_GST g)
    | 1 => k.reg (R.ALM_GCNT g)
    | 2 => k.reg (R.ALM_GMOD g)
    | _ => 0
  else if o < 0x4100 then k.dioWord (o - 0x4000)
  else if o < 0x42C0 then (match Snap.listedReg o with | some a => k.reg a | none => 0)
  else if o < 0x5000 then 0
  else if o < 0x5FF0 then (match k.events[(o - 0x5000) / 16]? with | some d => d.word (o % 16 / 4) | none => 0)
  else 0

/-- Operating time of the snapshot in ms, truncated: the B of R205. -/
def Snap.ms (k : Snap) : Nat := k.optime / 1000

end Sys2Proof.Machine
end

