-- ==== Sys2Proof/Machine/Twins.lean ====
section
/-! DEFINITION. The pair of cores as the Gatehouse sees it (R217–R231): the items each presents, their comparison,
divergence, verdict and isolation; the requests for a domain cycle and for a restart of the node that follow. -/

namespace Sys2Proof.Machine

/-- Core A or core B. -/
def State.core (s : State) : CoreId → Core
  | .a => s.coreA
  | .b => s.coreB

/-- Replace a core. -/
def State.setCore (s : State) (c : CoreId) (k : Core) : State :=
  match c with
  | .a => { s with coreA := k }
  | .b => { s with coreB := k }

/-- The twin. -/
def twin : CoreId → CoreId
  | .a => .b
  | .b => .a

/-- 0 for core A, 1 for core B. -/
def coreNum : CoreId → Nat
  | .a => 0
  | .b => 1

/-- The power domain of a core: PD2, PD3 (R10). -/
def coreDomain (c : CoreId) : Nat := 2 + coreNum c

/-- The items core `c` has presented in the running tick (R220). -/
def State.items (s : State) : CoreId → List Item
  | .a => s.gate.itemsA
  | .b => s.gate.itemsB

/-- Replace the items of core `c`. -/
def State.setItems (s : State) (c : CoreId) (l : List Item) : State :=
  match c with
  | .a => s.setGate { s.gate with itemsA := l }
  | .b => s.setGate { s.gate with itemsB := l }

/-- The exceptions core `c` has taken in the running tick (R214). -/
def State.marks (s : State) : CoreId → List Item
  | .a => s.gate.marksA
  | .b => s.gate.marksB

/-- Core `c` takes an exception with marker `x`. -/
def State.noteMark (s : State) (c : CoreId) (x : Item) : State :=
  match c with
  | .a => s.setGate { s.gate with marksA := s.gate.marksA ++ [x] }
  | .b => s.setGate { s.gate with marksB := s.gate.marksB ++ [x] }

/-- The place and the CRC of the CMTE of a sequence, if it has ended (R208, R220). -/
def endOf : List Item → Option (Nat × Word)
  | [] => none
  | .done x :: _ => some (0, x)
  | _ :: l => (endOf l).map (fun e => (e.1 + 1, e.2))

/-- Mode TWIN (TWN_STAT.MODE = 0, R217). -/
def State.twinMode (s : State) : Bool := s.fld R.TWN_STAT F.TWN_STAT_MODE == 0

/-- Mode RESYNC (R217). -/
def State.resyncing (s : State) : Bool := s.fld R.TWN_STAT F.TWN_STAT_MODE == 2

/-- The core that serves alone in SOLO and RESYNC (R217). -/
def State.server_ (s : State) : CoreId := if s.flag R.TWN_STAT F.TWN_STAT_CORE then .b else .a

/-- The stages of TWN_STAT (R232). -/
def stageBulk : Nat := 3
def stageWait : Nat := 4
def stageFinal : Nat := 5

/-- TWN_STAT.STAGE. -/
def State.stage (s : State) : Nat := s.fld R.TWN_STAT F.TWN_STAT_STAGE

/-- The copy to the restored core runs: its bulk pass, the wait or its final pass (R228, R229). -/
def State.copying (s : State) : Bool := s.resyncing && s.stage != 0

/-- The Gatehouse has ended the running tick: discarded (R223), or diverged (R225). -/
def State.tickEnded (s : State) : Bool := s.gate.diverged.isSome || s.gate.discarded

/-- Core `c` still finishes an ended tick while its twin runs a later one. -/
def State.isLate (s : State) (c : CoreId) : Bool := s.gate.late == some c

/-- Core `c` is in service: it runs and the Gatehouse takes its words (R217). -/
def State.inService (s : State) (c : CoreId) : Bool :=
  (s.core c).live && (s.twinMode || s.fld R.TWN_STAT F.TWN_STAT_CORE == (coreNum c))

/-! ### Requests to the supervisor -/

/-- Domain `d` needs a cycle with cause `cause` (R15); a domain that waits already or is being cycled does not wait
twice. -/
def State.needCycle (s : State) (d cause : Nat) : State :=
  if s.sup.waiting.any (fun e => e.1 == d) || (s.sup.active.map (fun e => e.1)) == some d then s
  else s.setSup { s.sup with waiting := s.sup.waiting ++ [(d, cause)] }

/-- The node orders a restart of itself with cause `cause` (R382), at the latest at `t`; the first order stands. -/
def State.orderRestart (s : State) (cause : Nat) (t : Time) : State :=
  if s.sup.restartReq.isSome then s else s.setSup { s.sup with restartReq := some (cause, t) }

/-- Cause of a restart that follows the loss of both cores (R16, R382). -/
def causeCoresLost : Nat := 4

/-! ### Divergence (R224, R225) -/

/-- The 64 bits of an item as TWN_DIV* shows them (R232): the word, 0 for CMTE; the manual states none for a marker or
for a core that has presented nothing there: a free value (log 6). -/
def itemBits (free : Nat) : Option Item → CWord × Nat
  | some (.word w _) => (w, free)
  | some (.done _) => (0, free)
  | _ => (Config.freeWord free ++ Config.freeWord (free + 1), free + 2)

/-- Record the divergence of the running tick with its cause and position (R225 steps 1 and 2, R231, R232). -/
def State.noteDivergence (s : State) (cause pos : Nat) : State :=
  let a := itemBits s.free ((s.items .a)[pos]?)
  let b := itemBits a.2 ((s.items .b)[pos]?)
  let s := s.setFree b.2
  let s := s.addFld R.TWN_CNT F.TWN_CNT_DIVG 1
  let s := (s.setFld R.TWN_LAST F.TWN_LAST_CAUSE cause).setFld R.TWN_LAST F.TWN_LAST_POS pos
  let s := s.wr R.TWN_LASTTICK (BitVec.ofNat 32 s.gate.tick)
  let s := s.wrAll [(R.TWN_DIV 0, a.1.truncate 32), (R.TWN_DIV 1, (a.1 >>> 32).truncate 32),
    (R.TWN_DIV 2, b.1.truncate 32), (R.TWN_DIV 3, (b.1 >>> 32).truncate 32)]
  let s := s.raise 0x38 cause (data2 s.gate.tick (pos % 2 ^ 16))
  s.setGate { s.gate with diverged := some cause }

/-- A core released from a paired read at which it waited: the load is issued again (R196, R225 step 2). -/
def Core.release (k : Core) : Core :=
  match k.wait with
  | .read _ _ => { k with wait := .none }
  | _ => k

/-- A divergence releases the cores from the paired reads at which they wait (R225 step 2). -/
def State.releaseReads (s : State) : State := (s.setCore .a s.coreA.release).setCore .b s.coreB.release

/-- Both cores stop for the self-check (R225 steps 2 and 3). -/
def State.startCheck (s : State) : State :=
  let s := s.releaseReads
  let s := s.setFld R.TWN_STAT F.TWN_STAT_STAGE 1
  s.setGate { s.gate with checking := true }

/-- Core `c` is gone: no core runs behind the other. A core left that was behind finishes its ended tick, of which
nothing is applied (R223). -/
def State.endLate (s : State) (c : CoreId) : State :=
  if s.isLate (twin c) then
    s.setGate { s.gate with late := none, discarded := true, tick := (s.core (twin c)).tick.toNat }
  else s.setGate { s.gate with late := none }

/-- Core `c` leaves service: its words are discarded and its twin serves alone (R217); `perm` when a third cycle leaves it
isolated (R17). -/
def State.leaveTwin (s : State) (c : CoreId) (perm : Bool) : State :=
  let s := s.setCore c { s.core c with live := false, wait := .none }
  let s := (s.setItems c []).endLate c
  let s := (s.setFld R.TWN_STAT F.TWN_STAT_MODE 1).setFld R.TWN_STAT F.TWN_STAT_CORE (coreNum (twin c))
  let s := s.setFld R.TWN_STAT F.TWN_STAT_STAGE (if perm then 0 else 2)
  s.applyIf perm (fun s => s.setFlag R.TWN_STAT (if (coreNum c) == 0 then F.TWN_STAT_PERMA else F.TWN_STAT_PERMB) true)

/-- Core `c` is isolated: E3A with the cause of R224 that condemned it, or 0 after a third cycle (R225 step 5, R231). -/
def State.isolate (s : State) (c : CoreId) (cause : Nat) (perm : Bool) : State :=
  (s.leaveTwin c perm).raise 0x3A (coreNum c) (cause + 256 * perm.toNat)

/-- The verdict `v` (the source of E39, R227) with the failing steps and state CRCs of both cores (R231). -/
def State.noteVerdict (s : State) (v failA failB crcA crcB : Nat) : State :=
  let s := s.setFld R.TWN_LAST F.TWN_LAST_VERD v
  s.raise 0x39 v (failA % 256 + 256 * (failB % 256) + 2 ^ 16 * (crcA % 2 ^ 16) + 2 ^ 32 * (crcB % 2 ^ 16))

/-- The healthy core resumes from where it stopped; the items of the diverged tick are discarded (R225 step 6). -/
def State.resumeCores (s : State) : State :=
  s.setGate { s.gate with checking := false, itemsA := [], itemsB := [] }

/-- Core `c` is condemned: isolated, its domain cycled with cause `dc` (R225 steps 5–7). -/
def State.condemn (s : State) (c : CoreId) (cause dc : Nat) : State :=
  let s := s.isolate c cause false
  let s := s.setGate { s.gate with condemned := some c, condCause := cause }
  (s.resumeCores).needCycle (coreDomain c) dc

/-- A core condemned without a self-check, for cause 7 (halt) or 8 (SRAM error) of R224. -/
def State.condemnAtOnce (s : State) (c : CoreId) (cause pos : Nat) : State :=
  let s := (s.noteDivergence cause pos).releaseReads
  let s := s.noteVerdict (coreNum c) 0xFF 0xFF 0 0
  s.condemn c cause (if cause == 8 then 1 else 3)

/-- Divergence found by comparison: causes 1–6 (R224). -/
def State.diverge (s : State) (cause pos : Nat) : State := (s.noteDivergence cause pos).startCheck

/-! ### Presenting and comparing items (R220, R224) -/

/-- The cause for which two items at one position differ, if they do. The CRCs of two CMTEs are compared apart. -/
def itemCause : Item → Item → Option Nat
  | .word w e, .word w' e' => if w = w' ∧ e = e' then none else some 1
  | .done _, .done _ => none
  | .marker v p, .marker v' p' => if v = v' ∧ p = p' then none else some 6
  | .done _, _ => some 2
  | _, .done _ => some 2
  | _, _ => some 6

/-- E3E for a halted core (R213): its CAUSE and DPC. -/
def State.noteHalt (s : State) (c : CoreId) (source : Nat) : State :=
  s.raise 0x3E source (data2 (s.core c).cause.toNat (s.core c).dpc.toNat)

/-- Whether the halt of `c` stands alone. In a running tick its twin has gone beyond the item at which `c` halted; in a
tick that has ended, its twin has finished that tick (log 20). -/
def State.haltAlone (s : State) (c : CoreId) : Bool :=
  (s.core c).halted &&
    (s.isLate c || (!(s.isLate (twin c)) &&
      (if s.tickEnded then (s.core (twin c)).cmtd else (s.items c).length < (s.items (twin c)).length)))

/-- A lone halt in twin mode: E3E, divergence of cause 7, the halted core condemned. -/
def State.loneHalt (s : State) (c : CoreId) : State :=
  (s.noteHalt c (coreNum c)).condemnAtOnce c 7 (s.items c).length

/-- Compare the item that core `c` has just presented with its twin's at that position. -/
def State.compareLast (s : State) (c : CoreId) (x : Item) : State :=
  let pos := (s.items c).length - 1
  match (s.items (twin c))[pos]? with
  | none => if s.haltAlone (twin c) then s.loneHalt (twin c) else s
  | some y => match itemCause x y with
    | some cause => s.diverge cause pos
    | none => s

/-- Core `c` presents an item to the Gatehouse. Of a tick that has diverged or been discarded the further items are
compared against nothing and dropped (R223, R225 step 6), and so are those of a core that still finishes such a tick;
CMTE ends the core's sequence, so that the marker of an exception taken after it is compared with nothing (R208, R220).
After a PD4 cycle nothing is taken before the next boundary (R230). -/
def State.present (s : State) (c : CoreId) (x : Item) : State :=
  if s.tickEnded || s.isLate c || s.gate.idle then s
  else
    let ended := (endOf (s.items c)).isSome
    let s := s.setItems c (s.items c ++ [x])
    if s.twinMode && !ended then s.compareLast c x else s

/-- The exceptions that the twin of core `c` has taken in the tick that `c` runs. -/
def State.twinMarks (s : State) (c : CoreId) : List Item :=
  if s.isLate c then s.gate.lateMarks else if s.isLate (twin c) then [] else s.marks (twin c)

/-- Whether the twin has taken the exception that core `c` takes as its next of the tick (E3D is recorded once for the
pair, R214). -/
def State.twinHas (s : State) (c : CoreId) (x : Item) : Bool :=
  s.twinMode && (s.twinMarks c)[(s.marks c).length]? == some x

/-- No core is left in service: the node restarts as a whole (R16, R224, R229). -/
def State.lastCoreLost (s : State) : State := s.orderRestart causeCoresLost (s.now + 10 * ms)

/-- Core `c` halts on an exception at depth 2 (R213, R224): in twin mode the halt waits for the twin's next item, its
CMTE, its halt or the deadline (log 20); both halted, or the only core in service halted, the node restarts. -/
def State.halt (s : State) (c : CoreId) : State :=
  let s := s.setCore c { s.core c with halted := true, wait := .none }
  if s.twinMode then
    if (s.core (twin c)).halted then (s.noteHalt .a 2).lastCoreLost
    else if s.haltAlone c then s.loneHalt c else s
  else (s.noteHalt c (coreNum c)).lastCoreLost

end Sys2Proof.Machine
end

