-- ==== Sys2Proof/Machine/Belvedere.lean ====
section
/-! DEFINITION. The Belvedere cores (R186–R216): words and special registers, fetching, exceptions, and the
instructions that act inside the core. A command carries an instruction as it is decoded; that the image holds its
word at PC is the sender's (log 22). A word of the image that decodes to no instruction takes ILLEGAL whatever the
command. -/

namespace Sys2Proof.Machine

/-! ### Words and special registers (R186, R187) -/

/-- General word `i`; w0 reads 0. -/
def Core.get (k : Core) (i : BitVec 5) : Word := if i = 0 then 0 else tabGet (dflt 0) k.w i.toNat

/-- Write general word `i`; a write to w0 is discarded. -/
def Core.set (k : Core) (i : BitVec 5) (v : Word) : Core :=
  if i = 0 then k else { k with w := tabSet (dflt 0) k.w i.toNat v }

/-- STAT. -/
def Core.stat (k : Core) : Word :=
  BitVec.ofNat 32 (k.solo.toNat * 2 ^ 31 + k.rsync.toNat * 2 ^ 30 + k.cmtd.toNat * 2 ^ 29 + k.xd % 4 * 2 ^ 27 +
    k.start.toNat * 2 ^ 26 + k.cmtn % 2048)

/-- The writable bits of CAUSE: DETAIL, PREV, CODE. -/
def causeMask : Word := 0x00FFFF0F

/-- EVM`k`. -/
def Core.evmask (k : Core) (i : Nat) : Word := tabGet (dflt 0) k.evm i

/-- Special register `sr`, for 0–8 (R187). -/
def Core.special (k : Core) (sr : BitVec 5) : Option Word :=
  match sr.toNat with
  | 0 => some k.stat
  | 1 => some k.epc
  | 2 => some k.cause
  | 3 => some k.tick
  | 4 => some (k.evmask 0)
  | 5 => some (k.evmask 1)
  | 6 => some (k.evmask 2)
  | 7 => some (k.evmask 3)
  | 8 => some k.dpc
  | _ => none

/-- CAUSE with CODE, DETAIL and PREV (R187). -/
def mkCause (detail prev code : Nat) : Word :=
  BitVec.ofNat 32 (detail % 256 * 2 ^ 16 + prev % 256 * 2 ^ 8 + code % 16)

/-! ### Fetching (R190, R216) -/

/-- An address the core may fetch from. -/
def execAddr (a : Word) : Bool := 0x08001000 ≤ a.toNat && a.toNat ≤ 0x081FFFFF

/-- An address of the image window. -/
def imageAddr (a : Word) : Bool := 0x08000000 ≤ a.toNat && a.toNat ≤ 0x081FFFFF

/-- The 32-byte line of an address. -/
def lineOf (a : Word) : Nat := a.toNat / 32

/-- Request line `l` if it is missing (R216). -/
def Core.ask (k : Core) (l : Nat) : Core :=
  if k.lines.contains l || k.asked.contains l || !(imageAddr (BitVec.ofNat 32 (l * 32))) then k
  else { k with asked := k.asked ++ [l] }

/-- A line that is used becomes the most recently used (R216). -/
def Core.touch (k : Core) (l : Nat) : Core :=
  if k.lines.contains l then { k with lines := l :: k.lines.erase l } else k

/-- The core fetches from line `l`: it uses the line and requests the missing ones among the three that follow. -/
def Core.fetchFrom (k : Core) (l : Nat) : Core :=
  ((((k.touch l).ask l).ask (l + 1)).ask (l + 2)).ask (l + 3)

/-- A line arrives in the store: 16 sets of 4 lines, the least recently used line of the set replaced (R216). -/
def Core.placeLine (k : Core) (l : Nat) : Core :=
  let same := k.lines.filter (fun x => x % 16 == l % 16 && x != l)
  let lines := l :: k.lines.erase l
  { k with lines := if same.length < 4 then lines else lines.erase (same.getLastD 0)
           asked := k.asked.erase l }

/-! ### Exceptions (R210–R214) -/

/-- The special registers and PC after an exception with this vector and detail (R210, R213); none: the core halts. -/
def Core.enter (k : Core) (vector detail : Nat) : Option Core :=
  match k.xd with
  | 0 => some { k with epc := k.pc, cause := mkCause detail (bitsOf k.cause.toNat 8 8) vector, xd := 1,
                       pc := BitVec.ofNat 32 (0x08001000 + 0x20 * vector), wait := .none }
  | 1 => some { k with dpc := k.pc, cause := mkCause detail (bitsOf k.cause.toNat 0 4) vector, xd := 2,
                       pc := BitVec.ofNat 32 (0x08001000 + 0x20 * 15), wait := .none }
  | _ => none

/-- The vector at which an exception is entered: 15 at depth 1 (R213). -/
def Core.entered (k : Core) (vector : Nat) : Nat := if k.xd == 0 then vector else 15

/-- An exception of core `c` (R210, R213): E3D for vectors 1–6 and 15, once for the pair (R214), and the marker that
the Gatehouse compares (R220). The marker carries the vector entered (log 23). -/
def State.takeExc (s : State) (c : CoreId) (vector detail : Nat) : State :=
  let k := s.core c
  match k.enter vector detail with
  | none => s.halt c
  | some k' =>
    let v := k.entered vector
    let m := Item.marker v k'.epc
    let s' := s.setCore c k'
    let s' := if (v ≤ 6 || v == 15) && !(s.twinHas c m) then s'.raise 0x3D v (data2 k'.cause.toNat k'.epc.toNat) else s'
    (s'.noteMark c m).present c m

/-! ### Executing one instruction -/

/-- What an instruction does inside its core: the core after it, or an exception. -/
inductive CoreEff where
  | done (k : Core)
  | exc (vector detail : Nat)
deriving DecidableEq, Repr

/-- ILLEGAL, a nonzero unused field (R198, R212). -/
def illUnused : CoreEff := .exc 1 3

/-- A core that issues its next instruction: in service on a running clock, not halted, not waiting, not stopped for the
self-check (R11, R213, R217, R225). -/
def State.running (s : State) (c : CoreId) : Bool :=
  (s.core c).live && s.islandOn (2 + coreNum c) && !(s.core c).halted && decide ((s.core c).wait = .none) && !s.gate.checking

/-- The fetch stalls: CI9 does not work and the line is not in the line store (R11, R15, R216). -/
def State.stalled (s : State) (c : CoreId) : Bool :=
  !(s.islandOn 9) && !((s.core c).lines.contains (lineOf (s.core c).pc))

/-- Core `c` issues the instruction at its PC. -/
def State.canIssue (s : State) (c : CoreId) : Bool := s.running c && !(s.stalled c)

/-- The word at PC of core `c` in the executing image (R190, R216). -/
def State.fetchWord (s : State) (c : CoreId) : Word := memWord 0 s.execBytes ((s.core c).pc.toNat - 0x08000000)

/-- One instruction of core `c`: nothing where the core does not issue; FETCH from outside the executing image;
ILLEGAL for a word with a reserved major, fn or sub-operation (R190, R198, R211, R212). Otherwise `f` of the core after
the fetch, and of the state that holds it. -/
def State.issue (s : State) (c : CoreId) (f : Core → State → State) : State :=
  if !(s.canIssue c) then s
  else if !(execAddr (s.core c).pc) then s.takeExc c 2 1
  else
    let k := (s.core c).fetchFrom (lineOf (s.core c).pc)
    match decodeCore c s.now (s.fetchWord c) with
    | .illegal d => (s.setCore c k).takeExc c 1 d
    | .instr _ => f k (s.setCore c k)

/-- An effect inside core `c`. -/
def State.takeEff (s : State) (c : CoreId) : CoreEff → State
  | .done k => s.setCore c k
  | .exc v d => s.takeExc c v d

/-- One instruction of core `c` whose effect inside the core is `f`. -/
def State.coreStep (s : State) (c : CoreId) (f : Core → CoreEff) : State :=
  s.issue c (fun k s' => s'.takeEff c (f k))

/-- The core after an instruction that writes `v` to `wd` and goes on to the next word. -/
def Core.next (k : Core) (wd : BitVec 5) (v : Word) : Core :=
  let k := k.set wd v
  { k with pc := k.pc + 4 }

/-- A register operation on two words (formats A and B): `ok` is that the unused fields are 0. -/
def opReg (ok : Bool) (wd : BitVec 5) (f : Core → Word) (k : Core) : CoreEff :=
  if ok then .done (k.next wd (f k)) else illUnused

/-- An operation on wa and wb. -/
def State.alu (s : State) (c : CoreId) (wd wa wb : BitVec 5) (f : Word → Word → Word) : State :=
  s.coreStep c (opReg true wd (fun k => f (k.get wa) (k.get wb)))

/-- An operation on wa alone; wb must be 0 (R200, R202). -/
def State.alu1 (s : State) (c : CoreId) (wd wa wb : BitVec 5) (f : Word → Word) : State :=
  s.coreStep c (opReg (wb = 0) wd (fun k => f (k.get wa)))

/-- An operation on wa and an immediate. -/
def State.aluImm (s : State) (c : CoreId) (wd wa : BitVec 5) (f : Word → Word) : State :=
  s.coreStep c (opReg true wd (fun k => f (k.get wa)))

/-- Go to `t`: a target that is not a multiple of 4 takes ALIGN (R211, R212). The lines from the target on are
requested with the next fetch. -/
def jumpTo (t : Word) (k : Core) : CoreEff :=
  if t.toNat % 4 = 0 then .done { k with pc := t } else .exc 3 1

/-- A conditional branch (format C). -/
def State.branch (s : State) (c : CoreId) (wa wb : BitVec 5) (off : BitVec 16) (p : Word → Word → Bool) : State :=
  s.coreStep c (fun k => if p (k.get wa) (k.get wb) then jumpTo (target k.pc off) k else .done { k with pc := k.pc + 4 })

/-! ### Register operations (R200–R202) -/

def execAdd (c : CoreId) (wd wa wb : BitVec 5) (s : State) : Out := .next (s.alu c wd wa wb (fun a b => a + b))
def execSub (c : CoreId) (wd wa wb : BitVec 5) (s : State) : Out := .next (s.alu c wd wa wb (fun a b => a - b))
def execAdds (c : CoreId) (wd wa wb : BitVec 5) (s : State) : Out := .next (s.alu c wd wa wb addSat)
def execSubs (c : CoreId) (wd wa wb : BitVec 5) (s : State) : Out := .next (s.alu c wd wa wb subSat)
def execAnd (c : CoreId) (wd wa wb : BitVec 5) (s : State) : Out := .next (s.alu c wd wa wb (fun a b => a &&& b))
def execOr (c : CoreId) (wd wa wb : BitVec 5) (s : State) : Out := .next (s.alu c wd wa wb (fun a b => a ||| b))
def execXor (c : CoreId) (wd wa wb : BitVec 5) (s : State) : Out := .next (s.alu c wd wa wb (fun a b => a ^^^ b))
def execNor (c : CoreId) (wd wa wb : BitVec 5) (s : State) : Out := .next (s.alu c wd wa wb (fun a b => ~~~(a ||| b)))
def execSll (c : CoreId) (wd wa wb : BitVec 5) (s : State) : Out := .next (s.alu c wd wa wb (fun a b => a <<< amount b))
def execSrl (c : CoreId) (wd wa wb : BitVec 5) (s : State) : Out := .next (s.alu c wd wa wb (fun a b => a >>> amount b))
def execSra (c : CoreId) (wd wa wb : BitVec 5) (s : State) : Out :=
  .next (s.alu c wd wa wb (fun a b => sraWord a (amount b)))
def execSlt (c : CoreId) (wd wa wb : BitVec 5) (s : State) : Out := .next (s.alu c wd wa wb (fun a b => boolWord (ltS a b)))
def execSltu (c : CoreId) (wd wa wb : BitVec 5) (s : State) : Out :=
  .next (s.alu c wd wa wb (fun a b => boolWord (ltU a b)))
def execMin (c : CoreId) (wd wa wb : BitVec 5) (s : State) : Out :=
  .next (s.alu c wd wa wb (fun a b => if ltS b a then b else a))
def execMax (c : CoreId) (wd wa wb : BitVec 5) (s : State) : Out :=
  .next (s.alu c wd wa wb (fun a b => if ltS a b then b else a))
def execMinu (c : CoreId) (wd wa wb : BitVec 5) (s : State) : Out :=
  .next (s.alu c wd wa wb (fun a b => if ltU b a then b else a))
def execMaxu (c : CoreId) (wd wa wb : BitVec 5) (s : State) : Out :=
  .next (s.alu c wd wa wb (fun a b => if ltU a b then b else a))
def execAbs (c : CoreId) (wd wa wb : BitVec 5) (s : State) : Out := .next (s.alu1 c wd wa wb absSat)
def execClz (c : CoreId) (wd wa wb : BitVec 5) (s : State) : Out := .next (s.alu1 c wd wa wb clzWord)
def execSxt (c : CoreId) (wd wa wb : BitVec 5) (s : State) : Out :=
  .next (s.alu c wd wa wb (fun a b => sxtWord a (amount b)))
def execZxt (c : CoreId) (wd wa wb : BitVec 5) (s : State) : Out :=
  .next (s.alu c wd wa wb (fun a b => zxtWord a (amount b)))
def execMul (c : CoreId) (wd wa wb : BitVec 5) (s : State) : Out := .next (s.alu c wd wa wb (fun a b => a * b))
def execMulh (c : CoreId) (wd wa wb : BitVec 5) (s : State) : Out := .next (s.alu c wd wa wb mulhWord)
def execMulhu (c : CoreId) (wd wa wb : BitVec 5) (s : State) : Out := .next (s.alu c wd wa wb mulhuWord)
def execMuls (c : CoreId) (wd wa wb : BitVec 5) (s : State) : Out := .next (s.alu c wd wa wb mulSat)
def execDiv (c : CoreId) (wd wa wb : BitVec 5) (s : State) : Out := .next (s.alu c wd wa wb divWord)
def execDivu (c : CoreId) (wd wa wb : BitVec 5) (s : State) : Out := .next (s.alu c wd wa wb divuWord)
def execRem (c : CoreId) (wd wa wb : BitVec 5) (s : State) : Out := .next (s.alu c wd wa wb remWord)
def execRemu (c : CoreId) (wd wa wb : BitVec 5) (s : State) : Out := .next (s.alu c wd wa wb remuWord)

/-! ### Jumps and branches (R199); fields JR and JALR do not use must be 0 (R198) -/

def execJr (c : CoreId) (wd wa wb : BitVec 5) (s : State) : Out :=
  .next (s.coreStep c (fun k => if wd = 0 ∧ wb = 0 then jumpTo (k.get wa) k else illUnused))
def execJalr (c : CoreId) (wd wa wb : BitVec 5) (s : State) : Out :=
  .next (s.coreStep c (fun k => if wb = 0 then jumpTo (k.get wa) (k.set wd (k.pc + 4)) else illUnused))
def execBeq (c : CoreId) (wa wb : BitVec 5) (off : BitVec 16) (s : State) : Out :=
  .next (s.branch c wa wb off (fun a b => a == b))
def execBne (c : CoreId) (wa wb : BitVec 5) (off : BitVec 16) (s : State) : Out :=
  .next (s.branch c wa wb off (fun a b => a != b))
def execBlt (c : CoreId) (wa wb : BitVec 5) (off : BitVec 16) (s : State) : Out := .next (s.branch c wa wb off ltS)
def execBge (c : CoreId) (wa wb : BitVec 5) (off : BitVec 16) (s : State) : Out :=
  .next (s.branch c wa wb off (fun a b => !(ltS a b)))
def execBltu (c : CoreId) (wa wb : BitVec 5) (off : BitVec 16) (s : State) : Out := .next (s.branch c wa wb off ltU)
def execBgeu (c : CoreId) (wa wb : BitVec 5) (off : BitVec 16) (s : State) : Out :=
  .next (s.branch c wa wb off (fun a b => !(ltU a b)))
def execJ (c : CoreId) (off : BitVec 26) (s : State) : Out :=
  .next (s.coreStep c (fun k => jumpTo (target k.pc off) k))
def execJal (c : CoreId) (off : BitVec 26) (s : State) : Out :=
  .next (s.coreStep c (fun k => jumpTo (target k.pc off) (k.set 31 (k.pc + 4))))

/-! ### Immediate operations (R199, R202) -/

def execAddi (c : CoreId) (wd wa : BitVec 5) (imm : BitVec 16) (s : State) : Out :=
  .next (s.aluImm c wd wa (fun a => a + immS imm))
def execAddis (c : CoreId) (wd wa : BitVec 5) (imm : BitVec 16) (s : State) : Out :=
  .next (s.aluImm c wd wa (fun a => addSat a (immS imm)))
def execAndi (c : CoreId) (wd wa : BitVec 5) (imm : BitVec 16) (s : State) : Out :=
  .next (s.aluImm c wd wa (fun a => a &&& immZ imm))
def execOri (c : CoreId) (wd wa : BitVec 5) (imm : BitVec 16) (s : State) : Out :=
  .next (s.aluImm c wd wa (fun a => a ||| immZ imm))
def execXori (c : CoreId) (wd wa : BitVec 5) (imm : BitVec 16) (s : State) : Out :=
  .next (s.aluImm c wd wa (fun a => a ^^^ immZ imm))
def execSlti (c : CoreId) (wd wa : BitVec 5) (imm : BitVec 16) (s : State) : Out :=
  .next (s.aluImm c wd wa (fun a => boolWord (ltS a (immS imm))))
def execSltiu (c : CoreId) (wd wa : BitVec 5) (imm : BitVec 16) (s : State) : Out :=
  .next (s.aluImm c wd wa (fun a => boolWord (ltU a (immS imm))))
def execLui (c : CoreId) (wd wa : BitVec 5) (imm : BitVec 16) (s : State) : Out :=
  .next (s.coreStep c (opReg (wa = 0) wd (fun _ => immZ imm <<< 16)))
def execSlli (c : CoreId) (wd wa wb : BitVec 5) (n : BitVec 5) (s : State) : Out :=
  .next (s.alu1 c wd wa wb (fun a => a <<< n.toNat))
def execSrli (c : CoreId) (wd wa wb : BitVec 5) (n : BitVec 5) (s : State) : Out :=
  .next (s.alu1 c wd wa wb (fun a => a >>> n.toNat))
def execSrai (c : CoreId) (wd wa wb : BitVec 5) (n : BitVec 5) (s : State) : Out :=
  .next (s.alu1 c wd wa wb (fun a => sraWord a n.toNat))
def execSxti (c : CoreId) (wd wa wb : BitVec 5) (n : BitVec 5) (s : State) : Out :=
  .next (s.alu1 c wd wa wb (fun a => sxtWord a n.toNat))
def execZxti (c : CoreId) (wd wa wb : BitVec 5) (n : BitVec 5) (s : State) : Out :=
  .next (s.alu1 c wd wa wb (fun a => zxtWord a n.toNat))

/-! ### Stores (R190, R203) -/

/-- An address of the core's SRAM. -/
def sramAddr (a : Word) : Bool := 0x20000000 ≤ a.toNat && a.toNat ≤ 0x2003FFFF

/-- Store the low `n` bytes of wd at wa + imm: aligned, or ALIGN; in SRAM, or STORE. -/
def State.storeN (s : State) (c : CoreId) (n : Nat) (wd wa : BitVec 5) (imm : BitVec 16) : State :=
  s.coreStep c (fun k =>
    let a := k.get wa + immS imm
    if a.toNat % n ≠ 0 then .exc 3 3
    else if !(sramAddr a) then .exc 5 1
    else .done { k with sram := memPut 0 k.sram a.toNat (leBytes n (k.get wd).toNat), pc := k.pc + 4 })

def execSw (c : CoreId) (wd wa : BitVec 5) (imm : BitVec 16) (s : State) : Out := .next (s.storeN c 4 wd wa imm)
def execSh (c : CoreId) (wd wa : BitVec 5) (imm : BitVec 16) (s : State) : Out := .next (s.storeN c 2 wd wa imm)
def execSb (c : CoreId) (wd wa : BitVec 5) (imm : BitVec 16) (s : State) : Out := .next (s.storeN c 1 wd wa imm)

/-! ### Node instructions (R204, R205) -/

/-- The word at snapshot offset `base + stride * (wa + imm)` of the active snapshot; an index of `limit` or more takes
LOAD (R204). -/
def State.snapLoad (s : State) (c : CoreId) (wd wa : BitVec 5) (imm : BitVec 16) (limit base stride : Nat) : State :=
  s.coreStep c (fun k =>
    let i := (k.get wa + immS imm).toNat
    if i < limit then .done (k.next wd (k.active.word (base + stride * i))) else .exc 4 3)

def execSmp (c : CoreId) (wd wa : BitVec 5) (imm : BitVec 16) (s : State) : Out :=
  .next (s.snapLoad c wd wa imm 256 0x100 4)
def execLst (c : CoreId) (wd wa : BitVec 5) (imm : BitVec 16) (s : State) : Out :=
  .next (s.snapLoad c wd wa imm 2048 0x1000 4)
def execGst (c : CoreId) (wd wa : BitVec 5) (imm : BitVec 16) (s : State) : Out :=
  .next (s.snapLoad c wd wa imm 256 0x3000 16)

/-- Arm or disarm timer `n`. -/
def Core.setTimer (k : Core) (n : Nat) (due : Option Nat) : Core :=
  { k with timers := tabSet (dflt none) k.timers n due }

def execTmaArm (c : CoreId) (wd wa : BitVec 5) (imm : BitVec 15) (s : State) : Out :=
  .next (s.coreStep c (fun k =>
    if wd = 0 ∧ imm.toNat < 64 then
      let k := k.setTimer imm.toNat (some (k.active.ms + Nat.min (k.get wa).toNat (2 ^ 31 - 1)))
      .done { k with pc := k.pc + 4 }
    else illUnused))
def execTmaDisarm (c : CoreId) (wd wa : BitVec 5) (imm : BitVec 15) (s : State) : Out :=
  .next (s.coreStep c (fun k =>
    if wd = 0 ∧ wa = 0 ∧ imm.toNat < 64 then
      let k := k.setTimer imm.toNat none
      .done { k with pc := k.pc + 4 }
    else illUnused))

/-- What TMT reads of timer `n` (R205). -/
def Core.timerLeft (k : Core) (n : Nat) : Word :=
  match tabGet (dflt none) k.timers n with
  | none => 0xFFFFFFFF
  | some due => BitVec.ofNat 32 (due - k.active.ms)

def execTmt (c : CoreId) (wd wa : BitVec 5) (imm : BitVec 16) (s : State) : Out :=
  .next (s.coreStep c (opReg (wa = 0 ∧ imm.toNat < 64) wd (fun k => k.timerLeft imm.toNat)))

/-- The place of the next event, from `i` on, whose code is in the mask EVM0–EVM3 (R195). -/
def Core.findEvent (k : Core) : List EvDesc → Nat → Option Nat
  | [], _ => none
  | d :: l, i => if (k.evmask (d.code / 32)).getLsbD (d.code % 32) then some i else k.findEvent l (i + 1)

/-- The healthy core waits in EVW after CMTE (R228). -/
def Core.atEvw (k : Core) : Bool :=
  match k.wait with
  | .evw _ => k.cmtd
  | _ => false

/-- The final pass starts at the first moment after the bulk pass at which the healthy core waits in EVW after CMTE
(R228). -/
def State.beginFinal (s : State) : State :=
  if s.resyncing && s.stage == stageWait && (s.core s.server_).atEvw then
    s.setFld R.TWN_STAT F.TWN_STAT_STAGE stageFinal
  else s

def execEvw (c : CoreId) (wd wa wb : BitVec 5) (fn : BitVec 11) (s : State) : Out :=
  .next (State.beginFinal (s.coreStep c (fun k =>
    if wa = 0 ∧ wb = 0 ∧ fn = 0 then
      match k.findEvent (k.active.events.drop k.cursor) k.cursor with
      | some i => .done { (k.next wd (BitVec.ofNat 32 (0x30005000 + 16 * i))) with cursor := i + 1 }
      | none =>
        let k := { k with cursor := Nat.max k.cursor k.active.events.length }
        .done (if k.cmtd then { k with wait := .evw wd } else k.next wd 0)
    else illUnused)))

/-! ### System instructions (R209) -/

def execSys (c : CoreId) (wx sr : BitVec 5) (code : BitVec 11) (s : State) : Out :=
  .next (s.coreStep c (fun _ => if wx = 0 ∧ sr = 0 ∧ code.toNat < 256 then .exc 8 code.toNat else illUnused))
def execBrk (c : CoreId) (wx sr : BitVec 5) (code : BitVec 11) (s : State) : Out :=
  .next (s.coreStep c (fun _ => if wx = 0 ∧ sr = 0 ∧ code.toNat < 256 then .exc 7 code.toNat else illUnused))
def execRsm (c : CoreId) (wx sr : BitVec 5) (code : BitVec 11) (s : State) : Out :=
  .next (s.coreStep c (fun k =>
    if wx = 0 ∧ sr = 0 ∧ code = 0 then
      match k.xd with
      | 0 => .exc 1 5
      | 1 => .done { k with pc := k.epc, xd := 0 }
      | _ => .done { k with pc := k.dpc, xd := 1 }
    else illUnused))
def execMfs (c : CoreId) (wx sr : BitVec 5) (code : BitVec 11) (s : State) : Out :=
  .next (s.coreStep c (fun k =>
    if code = 0 then
      match k.special sr with
      | some v => .done (k.next wx v)
      | none => .exc 1 6
    else illUnused))

/-- Special register `sr` written with `v` (R187, R188): of STAT only XD, never to 3; TICK is read only. -/
def Core.setSpecial (k : Core) (sr : BitVec 5) (v : Word) : CoreEff :=
  let align : Word := v &&& ~~~3
  match sr.toNat with
  | 0 => .done (if bitsOf v.toNat 27 2 = 3 then k else { k with xd := bitsOf v.toNat 27 2 })
  | 1 => .done { k with epc := align }
  | 2 => .done { k with cause := v &&& causeMask }
  | 3 => .exc 1 4
  | 4 => .done { k with evm := tabSet (dflt 0) k.evm 0 v }
  | 5 => .done { k with evm := tabSet (dflt 0) k.evm 1 v }
  | 6 => .done { k with evm := tabSet (dflt 0) k.evm 2 v }
  | 7 => .done { k with evm := tabSet (dflt 0) k.evm 3 v }
  | 8 => .done { k with dpc := align }
  | _ => .exc 1 6

def execMts (c : CoreId) (wx sr : BitVec 5) (code : BitVec 11) (s : State) : Out :=
  .next (s.coreStep c (fun k =>
    if code = 0 then
      match k.setSpecial sr (k.get wx) with
      | .done k => .done { k with pc := k.pc + 4 }
      | e => e
    else illUnused))

/-- A fetch line arrives (R216), or arrives with an uncorrectable error: it is then not placed, and a core whose next
instruction lies in it takes FETCH (R211, R212). -/
def State.lineArrives (s : State) (c : CoreId) (l : Nat) (ok : Bool) : State :=
  let k := s.core c
  if !k.live || !(s.islandOn 9) then s
  else if ok then s.setCore c (k.placeLine l)
  else
    let s := s.setCore c { k with asked := k.asked.erase l }
    if s.running c && lineOf k.pc == l then s.takeExc c 2 2 else s

def execFetchLineArrival (c : CoreId) (line : BitVec 27) (ok : Bool) (s : State) : Out :=
  .next (s.lineArrives c line.toNat ok)

/-- An uncorrectable SRAM error stops its core (R214): in twin mode cause 8 of R224. The only core in service stops and
is gone, and the node restarts; a restored core that is not in service yet has its domain cycled again (R229). -/
def State.sramError (s : State) (c : CoreId) : State :=
  if !(s.core c).live then s
  else if s.twinMode then s.condemnAtOnce c 8 (s.items c).length
  else if s.server_ = c then
    ((s.setCore c { s.core c with halted := true, wait := .none }).needCycle (coreDomain c) 1).lastCoreLost
  else
    let s := s.setCore c { s.core c with live := false, wait := .none }
    ((s.setFld R.TWN_STAT F.TWN_STAT_MODE 1).setFld R.TWN_STAT F.TWN_STAT_STAGE 2).needCycle (coreDomain c) 1

def execSramEccError (c : CoreId) (t : Time) (s : State) : Out := .next ((s.atTime t).sramError c)

end Sys2Proof.Machine
end

