-- ==== Sys2Proof/Machine/Pergola.lean ====
section
/-! DEFINITION. Pergola, the trip matrix (R142–R162): inputs and their glitch filters, comparators, terms, sums and
latches, and what an output does when it becomes asserted or released. -/

namespace Sys2Proof.Machine

/-! ### Inputs (R142, R143) -/

/-- Evaluation runs: TRP_STAT.RUN with CI6 working (R11, R158, R160). -/
def State.trpOn (s : State) : Bool := s.islandOn 6 && s.flag R.TRP_STAT F.TRP_STAT_RUN

/-- The unfiltered level of digital input `n` with `lvl` at its terminal: OFF on an unused input (R234). -/
def State.diLevel (s : State) (n : Nat) (lvl : Bool) : Bool := lvl && s.fld (R.DIO_DICFG n) F.DIO_DICFG_TYPE != 0

/-- The native level of input `n` as Pergola sees it: a digital input whose wire is broken is OFF (R142, R143). -/
def State.nativeSeen (s : State) (n : Nat) : Bool :=
  if n < 48 then s.diLevel n (s.trp.native.getLsbD n) && !(s.abit (R.DIO_DIWB 0) n) else s.trp.native.getLsbD n

/-- The level of input `n` before its glitch filter, by its SRC (R142). -/
def State.inputRaw (s : State) (n : Nat) : Bool :=
  match s.fld (R.TRP_INCFG n) F.TRP_INCFG_SRC with
  | 0 => s.nativeSeen n
  | 1 => s.trp.links.getLsbD n
  | _ => s.nativeSeen n || s.trp.links.getLsbD n

/-- The level of input `n` that the terms see. -/
def State.inputLevel (s : State) (n : Nat) : Bool := s.abit (R.TRP_IN 0) n

/-! ### Terms, sums, latches (R148–R150) -/

/-- The 80 signals: inputs 0–63, latches 64–79. -/
def State.signals (s : State) : Nat :=
  (s.rd (R.TRP_IN 0)).toNat + 2 ^ 32 * (s.rd (R.TRP_IN 1)).toNat + 2 ^ 64 * s.fld R.TRP_LATCH F.TRP_LATCH_TL

/-- The literals of one TDEF word, for signals 16w to 16w + 15, all hold (R148). -/
def literalsHold (sig w : Nat) (lits : Word) : Bool :=
  (List.range 16).all (fun i =>
    match bitsOf lits.toNat (2 * i) 2 with
    | 0 => true
    | 1 => sig.testBit (16 * w + i)
    | 2 => !(sig.testBit (16 * w + i))
    | _ => false)

/-- The terms, as a 128-bit number: the AND of a term's literals; a term with no literals is 0 (R148). `l` lists the
TDEF words that hold literals, keyed 8 × term + word. -/
def termsOf (sig : Nat) (l : List (Nat × Word)) : Nat :=
  let some_ := l.foldl (fun m e => m ||| 2 ^ (e.1 / 8)) 0
  let bad := l.foldl (fun m e => if literalsHold sig (e.1 % 8) e.2 then m else m ||| 2 ^ (e.1 / 8)) 0
  some_ - (some_ &&& bad)

/-- The literal words of the trip program. -/
def State.literals (s : State) : List (Nat × Word) :=
  (listed s.regs (R.TRP_TDEF 0 0) 4 1024).filter (fun e => e.1 % 8 < 5 && e.2 != 0)

/-- A 128-bit mask in four consecutive registers. -/
def State.mask128 (s : State) (f : Nat → Nat) : Nat :=
  (s.rd (f 0)).toNat + 2 ^ 32 * (s.rd (f 1)).toNat + 2 ^ 64 * (s.rd (f 2)).toNat + 2 ^ 96 * (s.rd (f 3)).toNat

/-- Output `o` is asserted with terms `terms` (R149). -/
def State.outputFor (s : State) (terms o : Nat) : Bool :=
  let m := s.mask128 (R.TRP_OSUM o)
  s.flag (R.TRP_OCFG o) F.TRP_OCFG_EN && m != 0 && ((m &&& terms != 0) != s.flag (R.TRP_OCFG o) F.TRP_OCFG_POL)

/-- The new state of latch `l` with terms `terms` (R150); a disabled latch reads 0. -/
def State.latchFor (s : State) (terms l : Nat) : Bool :=
  let set := s.mask128 (R.TRP_LSET l) &&& terms != 0
  let rst := s.mask128 (R.TRP_LRST l) &&& terms != 0
  let old := (s.fld R.TRP_LATCH F.TRP_LATCH_TL).testBit l
  s.flag (R.TRP_LCFG l) F.TRP_LCFG_EN &&
    (match set, rst with
     | false, false => old
     | true, false => true
     | false, true => false
     | true, true => !(s.flag (R.TRP_LCFG l) F.TRP_LCFG_RDOM))

/-! ### What an output does (R149, R153, R156, R161) -/

/-- Trip cycles from when evaluation last began to the cycle that is evaluated (R161). -/
def State.tripCycles (s : State) : Nat := (s.trp.cycleAt - s.trp.evalFrom) / 4

/-- Output 55 calls plan `arg`. While CI5 does not work the call waits for it (R14, R156, R157; log 77). -/
def State.tripCall (s : State) (arg : Nat) : State :=
  if s.almOn then s.startPlan arg 0x100 else s.setTrp { s.trp with callMissed := true }

/-- CI5 works again: output 55 is seen asserted, if it still is (R157). -/
def State.missedCall (s : State) : State :=
  let due := s.trp.callMissed && s.tripAsserted 55
  let s := s.setTrp { s.trp with callMissed := false }
  if due then s.startPlan (s.fld (R.TRP_OCFG 55) F.TRP_OCFG_ARG) 0x100 else s

/-- E30 or E31 of output `o`, with TRP_IN0, TRP_IN1 and the trip cycle count. -/
def State.noteTrip (s : State) (code o : Nat) : State :=
  s.raiseT { at_ := s.now, code := code, source := o,
             data := BitVec.ofNat 64 (data2 (s.rd (R.TRP_IN 0)).toNat (s.rd (R.TRP_IN 1)).toNat), flag := false,
             sev := none, sset := none,
             snap := some (BitVec.ofNat 32 s.tripCycles, BitVec.ofNat 32 (s.tripCycles / 2 ^ 32)) }

/-- Output `o` changes to `on`: its event; a DO line is forced or released, and a pair scan is aborted where a DO line
is asserted (R248); output 54 triggers a record and output 55 a call plan when they become asserted; an emergency-stop
line that is released no longer holds its axis (R156), and one that is asserted reaches it by a command of its own. -/
def State.outputMoved (s : State) (o : Nat) (on : Bool) : State :=
  let s := s.setAbit (R.TRP_OUT 0) o on
  let s := s.noteTrip (if on then 0x30 else 0x31) o
  let arg := s.fld (R.TRP_OCFG o) F.TRP_OCFG_ARG
  if o < 48 then (if on then s.scanAbort else s).refreshDo o
  else if o == 54 && on then
    s.raiseT ⟨s.now, 0x37, arg, 0, false, none, some arg, none⟩
  else if o == 55 && on then s.tripCall arg
  else if o < 54 && !on && s.powered 10 then s.setFlag (R.GLS_AXST (o - 48)) F.GLS_AXST_ESTOPLN false
  else s

/-- A latch changes: E32 or E33; a PERSIST latch is written to MRAM (R150, R151, R161). -/
def State.latchMoved (s : State) (l : Nat) (on : Bool) : State :=
  let s := s.setFld R.TRP_LATCH F.TRP_LATCH_TL (setBitN (s.fld R.TRP_LATCH F.TRP_LATCH_TL) l on)
  let s := s.raise (if on then 0x32 else 0x33) l 0
  if s.flag (R.TRP_LCFG l) F.TRP_LCFG_PERSIST then s.toMirror [R.TRP_LATCH] else s

/-- One trip cycle: terms from the registered inputs and the latches of the cycle before, then outputs, then
latches (R150, R152). -/
def State.tripCycle (s : State) : State :=
  let terms := termsOf s.signals s.literals
  let s := s.wrAll [(R.TRP_TERM 0, BitVec.ofNat 32 terms), (R.TRP_TERM 1, BitVec.ofNat 32 (terms / 2 ^ 32)),
    (R.TRP_TERM 2, BitVec.ofNat 32 (terms / 2 ^ 64)), (R.TRP_TERM 3, BitVec.ofNat 32 (terms / 2 ^ 96))]
  let outs := (List.range 56).filter (fun o => s.outputFor terms o != s.tripAsserted o)
  let latches := (List.range 16).filter
    (fun l => s.latchFor terms l != (s.fld R.TRP_LATCH F.TRP_LATCH_TL).testBit l)
  let s := foldS (fun s o => s.outputMoved o (!(s.tripAsserted o))) s outs
  foldS (fun s l => s.latchMoved l (!((s.fld R.TRP_LATCH F.TRP_LATCH_TL).testBit l))) s latches

/-- The next trip cycle, 4 ns after the one before or now. -/
def State.tripStep (s : State) : State :=
  (s.setTrp { s.trp with cycleAt := Nat.max s.now (s.trp.cycleAt + 4) }).tripCycle

/-- Trip cycles until the latches rest, at most `fuel`. With resting latches and the same inputs every further cycle
would evaluate to the same (R152). -/
def State.tripRun : Nat → State → State
  | 0, s => s.setTrp { s.trp with resting := false }
  | fuel + 1, s =>
    let s' := s.tripStep
    if s'.rd R.TRP_LATCH = s.rd R.TRP_LATCH then s'.setTrp { s'.trp with resting := true } else s'.tripRun fuel

/-- The trip cycles since the latest one evaluated, where the latches do not rest: evaluation goes on in every trip
cycle (R152, log 25). -/
def State.tripCatchUp (s : State) : State :=
  if s.trpOn && !s.trp.resting then s.tripRun ((s.now - s.trp.cycleAt) / 4) else s

/-- Evaluate the array after a change of its inputs (R152). -/
def State.evaluate (s : State) : State := if s.trpOn then s.tripRun 64 else s

/-- Input `n` passes its glitch filter: the terms see its level (R143). -/
def State.inputPass (s : State) (n : Nat) : State :=
  if s.inputRaw n == s.inputLevel n then s
  else (s.tripCatchUp.setAbit (R.TRP_IN 0) n (s.inputRaw n)).evaluate

/-- The level before the filter of input `n`, and since when it has been stable (R143). -/
def State.noteRaw (s : State) (n : Nat) : State :=
  if s.inputRaw n == s.trp.rawSeen.getLsbD n then s
  else s.setTrp { s.trp with rawSeen := BitVec.ofNat 64 (setBitN s.trp.rawSeen.toNat n (s.inputRaw n))
                             movedAt := tabSet (dflt 0) s.trp.movedAt n s.now }

/-- The glitch filter of input `n` in ns (R143). -/
def State.glitchTime (s : State) (n : Nat) : Nat := s.fld (R.TRP_INCFG n) F.TRP_INCFG_GF * 4

/-- The level before the filter of input `n` has been stable for its GF trip cycles. -/
def State.glitchDue (s : State) (n : Nat) : Bool := tabGet (dflt 0) s.trp.movedAt n + s.glitchTime n ≤ s.now

/-- The level before the filter of input `n` may have changed: with GF = 0 it passes at once, otherwise it waits for
its GF trip cycles (R143). -/
def State.inputMoved (s : State) (n : Nat) : State :=
  if !s.trpOn then s
  else
    let s := s.noteRaw n
    if s.glitchTime n == 0 then s.inputPass n else s

/-- The level of input `n` that Glissade's own synchronizers see, and since when it has held (R273). -/
def State.noteTap (s : State) (n : Nat) : State :=
  if s.nativeSeen n == s.trp.tapSeen.getLsbD n then s
  else s.setTrp { s.trp with tapSeen := BitVec.ofNat 64 (setBitN s.trp.tapSeen.toNat n (s.nativeSeen n))
                             tapAt := tabSet (dflt 0) s.trp.tapAt n s.now }

/-- The native level of input `n`. -/
def State.setNative (s : State) (n : Nat) (lvl : Bool) : State :=
  (s.setTrp { s.trp with native := BitVec.ofNat 64 (setBitN s.trp.native.toNat n lvl) }).noteTap n

/-- The native level of input `n`: what stands at the terminal of a digital input; inputs 48–63 have their comparator's
output, a change of which comes by its own command (R142). -/
def State.nativeLevel (s : State) (n : Nat) (lvl : Bool) : Bool :=
  if n < 48 then lvl
  else if n < 60 then s.flag (R.TRP_ACST (n - 48)) F.TRP_ACST_OUT
  else s.flag (R.TRP_FCST (n - 60)) F.TRP_FCST_OUT

/-- A level change passes the synchronizer of input `n` (R143, R152). -/
def State.tripInput (s : State) (n : Nat) (lvl : Bool) : State :=
  let s := if n < 48 then s.setAbit (R.DIO_DIRAW 0) n (s.diLevel n lvl) else s
  (s.setNative n (s.nativeLevel n lvl)).inputMoved n

/-- While PD5 is off, or before evaluation begins, a digital level stands at its terminal, where the synchronizer finds
it (R158, R160). -/
def execTripInputChange (n : Fin 64) (lvl : Bool) (t : Time) (s : State) : Out :=
  let s := s.atTime t
  .next (if s.trpOn then s.tripInput n lvl else if n.val < 48 then s.setNative n lvl else s)

def execGlitchFilterPass (n : Fin 64) (t : Time) (s : State) : Out :=
  let s := s.atTime t
  .next (if s.trpOn && s.glitchDue n then s.inputPass n else s)

/-! ### Broken wires (R143, R236) -/

/-- WIRE BREAK of input `n` sets or clears: the filtered state is OFF while it is live, and Pergola sees the input as
OFF; E40 or E41 (R143, R236). -/
def State.wireBreak (s : State) (n : Nat) (i : BitVec 16) (on : Bool) : State :=
  let s := s.setFld (R.DIO_DIMEAS n) F.DIO_DIMEAS_I i.toNat
  let s := (s.setAbit (R.DIO_DIWB 0) n on).putDist n (!on && s.dio.filt.getLsbD n)
  let s := if on then s.setAbit (R.DIO_DIWBL 0) n true else s
  (s.raise (if on then 0x40 else 0x41) n (s.rd (R.DIO_DIMEAS n)).toNat).noteTap n |>.inputMoved n

/-- A sink current below 0.3 mA sets WIRE BREAK, one of 0.5 mA or more clears it, in µA (R236). -/
def breakBelow : Nat := 300
def wholeFrom : Nat := 500

/-- The current has been below 0.3 mA for 50 ms. -/
def execWireBreakSet (n : Fin 48) (i : BitVec 16) (t : Time) (s : State) : Out :=
  let s := s.atTime t
  .next (if i.toNat < breakBelow && s.dioOn && s.monitored n && !(s.abit (R.DIO_DIWB 0) n) then s.wireBreak n i true else s)

/-- The current has been 0.5 mA or more for 50 ms. -/
def execWireBreakClear (n : Fin 48) (i : BitVec 16) (t : Time) (s : State) : Out :=
  let s := s.atTime t
  .next (if wholeFrom ≤ i.toNat && s.dioOn && s.monitored n && s.abit (R.DIO_DIWB 0) n then s.wireBreak n i false else s)

/-! ### Comparators (R144–R147) -/

/-- The output of a comparator in mode `mode` for quantity `v` and thresholds in nV: set and clear levels of R144. -/
def acOutput (mode : Nat) (hi lo hys v : Int) (old : Bool) : Bool :=
  match mode with
  | 0 => if hi ≤ v then true else if v < hi - hys then false else old
  | 1 => if v ≤ lo then true else if lo + hys < v then false else old
  | 2 => if hi ≤ v ∨ v ≤ lo then true else if lo + hys < v ∧ v < hi - hys then false else old
  | _ => if lo ≤ v ∧ v ≤ hi then true else if v < lo - hys ∨ hi + hys < v then false else old

/-- One DAC step in nV (R144). -/
def dacStep : Int := 312500

/-- The clamp voltage of R49, in nV. -/
def clampVolts : Int := 11500000000

/-- Channel `n` is LOOP2 and its loop switch is open, or its supply is low (R45, R146). -/
def State.loopOpen (s : State) (n : Nat) : Bool :=
  fldOf F.AFE_CHCFG_TYPE (tabGet (dflt chanReset) s.chans n).cfg == 12 &&
    (!(s.abit (R.AFE_LOOPON 0) n) || (s.fld (R.AFE_CHSTAT n) F.AFE_CHSTAT_LIVE).testBit 7)

/-- What comparator `c` sees where `v` nV stand at the terminals of its channel: an open loop switch reads 0 V, and a
conducting clamp drives it to the clamp voltage (R146). -/
def State.acQuantity (s : State) (c : Nat) (v : Int) : Int :=
  let n := s.fld (R.TRP_ACCFG c) F.TRP_ACCFG_CHAN
  if s.loopOpen n then 0
  else if (s.fld (R.AFE_CHSTAT n) F.AFE_CHSTAT_LIVE).testBit 2 then (if v < 0 then -clampVolts else clampVolts)
  else v

/-- The output of comparator `c` for `v` nV at the terminals, before which it was `old`. -/
def State.acNew (s : State) (c : Nat) (v : Int) (old : Bool) : Bool :=
  s.flag (R.TRP_ACCFG c) F.TRP_ACCFG_EN &&
    acOutput (s.fld (R.TRP_ACCFG c) F.TRP_ACCFG_MODE) (s.sfld (R.TRP_ACTH c) F.TRP_ACTH_HI * dacStep)
      (s.sfld (R.TRP_ACTH c) F.TRP_ACTH_LO * dacStep) (s.fld (R.TRP_ACHYS c) F.TRP_ACHYS_HYS * dacStep)
      (s.acQuantity c v) old

/-- The output of comparator `c` becomes `new`, and with it the native level of input 48 + c. -/
def State.setAc (s : State) (c : Nat) (new : Bool) : State :=
  (s.setFlag (R.TRP_ACST c) F.TRP_ACST_OUT new).setNative (48 + c) new

/-- Comparator `c` sees `v` nV at the terminals of its channel. -/
def State.comparator (s : State) (c : Nat) (v : Int) : State :=
  (s.setAc c (s.acNew c v (s.flag (R.TRP_ACST c) F.TRP_ACST_OUT))).inputMoved (48 + c)

/-- While PD5 is off, or before evaluation begins, the quantity stands at the terminals, where the comparator finds it
(R160). -/
def execAcOutputChange (c : Fin 12) (v : Int) (t : Time) (s : State) : Out :=
  let s := s.atTime t
  let s := s.setTrp { s.trp with acIn := tabSet (dflt none) s.trp.acIn c (some v) }
  .next (if s.trpOn then s.comparator c v else s)

/-- The loop switch or a clamp of channel `n` has moved: the comparators that tap it see it (R146). -/
def State.tapMoved (s : State) (n : Nat) : State :=
  if !s.trpOn then s
  else foldS (fun s c =>
    match tabGet (dflt none) s.trp.acIn c with
    | some v => s.comparator c v
    | none => s) s ((List.range 12).filter (fun c => s.fld (R.TRP_ACCFG c) F.TRP_ACCFG_CHAN == n))

/-- FC`f`'s output becomes `new`, and with it the native level of input 60 + f. -/
def State.setFc (s : State) (f : Nat) (new : Bool) : State :=
  ((s.setFlag (R.TRP_FCST f) F.TRP_FCST_OUT new).setNative (60 + f) new).inputMoved (60 + f)

/-- The output of a frequency comparator after a period of `per` trip cycles (R147). -/
def fcOutput (limit hys per : Nat) (old : Bool) : Bool :=
  if per ≤ limit then true else if limit + hys < per then false else old

/-- The last edge of FC`f`. -/
def State.lastEdge (s : State) (f : Nat) : Option Time := tabGet (dflt none) s.trp.fcEdge f

/-- A rising edge leaves the glitch filter of FC`f` (R147). LAST stops at its largest value. -/
def State.fcEdgeAt (s : State) (f : Nat) : State :=
  let last := s.lastEdge f
  let s := s.setTrp { s.trp with fcEdge := tabSet (dflt none) s.trp.fcEdge f (some s.now) }
  match last with
  | none => s
  | some t0 =>
    let per := (s.now - t0) / 4
    let s := s.setFld (R.TRP_FCST f) F.TRP_FCST_LAST (Nat.min per (2 ^ 24 - 1))
    let s := s.setFlag (R.TRP_FCST f) F.TRP_FCST_FCFAST (per < 10000)
    s.setFc f (fcOutput (s.fld (R.TRP_FCTH f) F.TRP_FCTH_PER) (s.fld (R.TRP_FCHYS f) F.TRP_FCHYS_HYS) per
      (s.flag (R.TRP_FCST f) F.TRP_FCST_OUT) && s.fld (R.TRP_FCTH f) F.TRP_FCTH_PER != 0)

def execFcEdge (f : Fin 4) (t : Time) (s : State) : Out :=
  let s := s.atTime t
  .next (if s.trpOn then s.fcEdgeAt f else s)

def execFcTimeout (f : Fin 4) (t : Time) (s : State) : Out :=
  let s := s.atTime t
  let due := match s.lastEdge f with
    | some e => e + s.fld (R.TRP_FCTH f) F.TRP_FCTH_TMO * ms ≤ s.now
    | none => true
  .next (if s.trpOn && due then s.setFc f false else s)

/-! ### Store scrub (R159) -/

def execTripStoreScrub (w : Nat) (r : Scrub) (s : State) : Out :=
  .next (if !(s.islandOn 6) then s else match r with
    | .clean => s
    | .corrected => (s.addFld R.TRP_STAT F.TRP_STAT_ECCC 1).raise 0x35 w 0
    | .uncorrectable => (s.raise 0x36 w 0).needCycle 5 1)

/-! ### Limit links (R134) -/

/-- Evaluation begins, at a start and after a PD5 cycle: the synchronizers and glitch filters fill from the live inputs,
comparators see what stands at their terminals, and the first evaluation uses the retained latches (R158, R160). An
output that a PD5 cycle found asserted is not asserted anew (R156, R160; log 77). -/
def State.beginTrip (s : State) : State :=
  let s := foldS (fun s n => s.setNative n false) s ((List.range 16).map (fun i => 48 + i))
  let s := foldS (fun s c => s.setAc c (match tabGet (dflt none) s.trp.acIn c with
    | some v => s.acNew c v false
    | none => false)) s (List.range 12)
  let s := (s.setTrp { s.trp with evalFrom := s.now, fcEdge := [] }).setFlag R.TRP_STAT F.TRP_STAT_RUN true
  let s := s.wrAll [(R.TRP_OUT 0, s.trp.wasOut.truncate 32), (R.TRP_OUT 1, (s.trp.wasOut >>> 32).truncate 32)]
  let s := foldS (fun s n => s.setAbit (R.DIO_DIRAW 0) n (s.diLevel n (s.trp.native.getLsbD n))) s (List.range 48)
  (foldS (fun s n => (s.noteRaw n).setAbit (R.TRP_IN 0) n (s.inputRaw n)) s (List.range 64)).evaluate

/-- The OR of the links naming input `n`. -/
def State.linkLevel (s : State) (n : Nat) : Bool :=
  (listed s.regs (R.LIM_STATE 0) 4 2048).any (fun e =>
    fldOf F.LIM_STATE_TLINK e.2 != 0 && s.fld (R.LIM_ENT3 e.1) F.LIM_ENT3_TLINK == n)

/-- The links naming input `n` reach Pergola; while PD5 is off they wait at its crossing (R14). -/
def State.linkMoved (s : State) (n : Nat) : State :=
  let s := s.setTrp { s.trp with links := BitVec.ofNat 64 (setBitN s.trp.links.toNat n (s.linkLevel n)) }
  s.inputMoved n

end Sys2Proof.Machine
end

