-- ==== Sys2Proof/Machine/Snowline.lean ====
section
/-! DEFINITION. Snowline (R118–R141, R427): the vote, the evaluation of a word against its channel's entries, delays,
inhibits, reported switches, trip links, and the staging of changes. -/

namespace Sys2Proof.Machine

/-! ### Records -/

/-- The delays and RATE reference of entry `e`. -/
def State.entSt (s : State) (e : Nat) : EntrySt := tabGet (dflt entryReset) s.lim.entries e

def State.setEntSt (s : State) (e : Nat) (x : EntrySt) : State :=
  s.setLim { s.lim with entries := tabSet (dflt entryReset) s.lim.entries e x }

/-- Channel `c` at Snowline. -/
def State.limChan (s : State) (c : Nat) : LimChan := tabGet (dflt limChanReset) s.lim.chans c

def State.setLimChan (s : State) (c : Nat) (x : LimChan) : State :=
  s.setLim { s.lim with chans := tabSet (dflt limChanReset) s.lim.chans c x }

/-- The four words of an entry (R118). -/
structure Ent where
  w0 : Word
  w1 : Word
  w2 : Word
  w3 : Word
deriving DecidableEq, Repr

def Ent.chan (x : Ent) : Nat := fldOf F.LIM_ENT0_CHAN x.w0
def Ent.th (x : Ent) : Int := signOf 24 (fldOf F.LIM_ENT0_TH x.w0)
def Ent.hys (x : Ent) : Int := fldOf F.LIM_ENT1_HYS x.w1
def Ent.type (x : Ent) : Nat := fldOf F.LIM_ENT2_TYPE x.w2
def Ent.en (x : Ent) : Bool := fldOf F.LIM_ENT3_EN x.w3 != 0
def Ent.param (x : Ent) : Nat := fldOf F.LIM_ENT3_PARAM x.w3
def Ent.sw (x : Ent) : Nat := fldOf F.LIM_ENT2_SW x.w2
def Ent.sev (x : Ent) : Nat := fldOf F.LIM_ENT2_SEV x.w2
def Ent.group (x : Ent) : Nat := fldOf F.LIM_ENT2_GROUP x.w2

/-- The on-delay in ns: ONDLY in its unit (R123). -/
def Ent.onDelay (x : Ent) : Nat :=
  fldOf F.LIM_ENT1_ONDLY x.w1 * (if fldOf F.LIM_ENT3_ONX x.w3 != 0 then 100 * ms else ms)

/-- The off-delay in ns. -/
def Ent.offDelay (x : Ent) : Nat :=
  fldOf F.LIM_ENT2_OFFDLY x.w2 * (if fldOf F.LIM_ENT3_OFFX x.w3 != 0 then 100 * ms else ms)

/-- Entry `e` as the table holds it. -/
def State.ent (s : State) (e : Nat) : Ent :=
  ⟨s.rd (R.LIM_ENT0 e), s.rd (R.LIM_ENT1 e), s.rd (R.LIM_ENT2 e), s.rd (R.LIM_ENT3 e)⟩

/-- Write entry `e`. -/
def State.putEnt (s : State) (e : Nat) (x : Ent) : State :=
  s.wrAll [(R.LIM_ENT0 e, x.w0), (R.LIM_ENT1 e, x.w1), (R.LIM_ENT2 e, x.w2), (R.LIM_ENT3 e, x.w3)]

/-! ### Index ranges (R119, R397) -/

/-- The Rante window is enabled. -/
def State.windowOn (s : State) : Bool := s.flag R.RWN_CTL F.RWN_CTL_EN

/-- Entry `e` lies in the LIM_CHIDX range of channel `c`. -/
def State.inIndex (s : State) (c e : Nat) : Bool :=
  let first := s.fld (R.LIM_CHIDX c) F.LIM_CHIDX_FIRST
  !(s.flag (R.LIM_CHIDX c) F.LIM_CHIDX_CFGERR) && first ≤ e && e < first + s.fld (R.LIM_CHIDX c) F.LIM_CHIDX_COUNT

/-- Entry `e` is a window entry of channel `c`. -/
def State.inWindow (s : State) (c e : Nat) : Bool := s.windowOn && c < 128 && 1536 + 4 * c ≤ e && e < 1540 + 4 * c

/-- The channel whose index range holds entry `e`, if any. -/
def State.rangeOwner (s : State) (e : Nat) : Option Nat :=
  match ((listed s.regs (R.LIM_CHIDX 0) 4 256).map (fun x => x.1)).find? (fun c => s.inIndex c e) with
  | some c => some c
  | none => if s.windowOn && 1536 ≤ e then some ((e - 1536) / 4) else none

/-- The entries of channel `c` in the order of their evaluation: its index range, then its window entries (R119). -/
def State.chanEntries (s : State) (c : Nat) : List Nat :=
  let first := s.fld (R.LIM_CHIDX c) F.LIM_CHIDX_FIRST
  if s.flag (R.LIM_CHIDX c) F.LIM_CHIDX_CFGERR then []
  else (List.range (s.fld (R.LIM_CHIDX c) F.LIM_CHIDX_COUNT)).map (fun i => first + i) ++
    (if s.windowOn && c < 128 then (List.range 4).map (fun i => 1536 + 4 * c + i) else [])

/-- Entry `e` is evaluated with the words of channel `c`: enabled, valid, its CHAN, no ECC error. -/
def State.evaluates (s : State) (c e : Nat) : Bool :=
  s.entryOk e && (s.ent e).chan == c && !(s.flag (R.LIM_STATE e) F.LIM_STATE_ECCERR)

/-! ### Redundancy sets (R129–R131) -/

/-- The EXP of a channel; a derived channel meets any EXP (R427). -/
def State.chanExp (s : State) (c : Nat) : Option Nat :=
  if c < 132 then some (s.fld (R.CRV_CHCFG c) F.CRV_CHCFG_EXP) else none

/-- Two channels meet a requirement of equal EXP (R427). -/
def State.sameExp (s : State) (a b : Nat) : Bool :=
  match s.chanExp a, s.chanExp b with
  | some x, some y => x == y
  | _, _ => true

/-- The members of a set by its RSCFG word. -/
def setMembers (w : Word) : List Nat :=
  let m := [fldOf F.LIM_RSCFG_M0 w, fldOf F.LIM_RSCFG_M1 w]
  if fldOf F.LIM_RSCFG_TRIPLE w != 0 then m ++ [fldOf F.LIM_RSCFG_M2 w] else m

/-- Set `k` is enabled. -/
def State.setEnabled (s : State) (k : Nat) : Bool := s.flag (R.LIM_RSCFG k) F.LIM_RSCFG_EN

/-- No channel stands twice. -/
def distinct : List Nat → Bool
  | [] => true
  | a :: l => !(l.contains a) && distinct l

/-- A set with words `w`, `age` at place `k` is valid among the other enabled sets (R129). -/
def State.setValid (s : State) (k : Nat) (w age : Word) : Bool :=
  let ms := setMembers w
  fldOf F.LIM_RSCFG_EN w == 0 ||
    (distinct ms && ms.all (fun c => !(128 ≤ c && c < 132)) &&
      ms.all (fun c => s.sameExp (ms.headD 0) c && (ms.tail).all (fun d => s.sameExp c d)) &&
      fldOf F.LIM_RSAGE_AGE age != 0 &&
      (List.range 64).all (fun j => j == k || !(s.setEnabled j) ||
        (setMembers (s.rd (R.LIM_RSCFG j))).all (fun c => !(ms.contains c))))

/-- The enabled set whose member 0 is channel `c`. -/
def State.setOf (s : State) (c : Nat) : Option Nat :=
  ((listed s.regs (R.LIM_RSCFG 0) 16 64).map (fun e => e.1)).find?
    (fun k => s.setEnabled k && s.fld (R.LIM_RSCFG k) F.LIM_RSCFG_M0 == c)

/-- Channel `c` is usable in a vote of a set with maximum age `age` ms (R130). -/
def State.usable (s : State) (age c : Nat) : Bool :=
  let x := s.limChan c
  x.evaluable && (match x.at_ with | some t => s.now ≤ t + age * ms | none => false)

/-- Worst of two qualities. -/
def worseQ (a b : Nat) : Nat := if a < b then b else a

/-- The median of three. -/
def median3 (a b c : Int) : Int := Max.max (Min.min a b) (Min.min (Max.max a b) c)

/-- What a vote gives: the word, REP, SUBST, DIS, OUTV and EXCL (R130, R131). -/
structure Vote where
  word : Word
  rep : Nat
  subst : Bool
  dis : Bool
  outv : Nat
  excl : Nat
deriving DecidableEq, Repr

/-- A voted word: straddle and clamp are those of M0's own word `m0`. -/
def voteWord (m0 : Word) (q tag : Nat) (subst : Bool) (v : Int) : Word :=
  mkSample q tag (m0.getLsbD 26) (m0.getLsbD 25) subst v

/-- The distance of two values. -/
def dist (a b : Int) : Int := Int.natAbs (a - b)

/-- The members' numbers, in `0..`, whose flag holds, as bits. -/
def memberBits (l : List Bool) : Nat := ((List.range l.length).filter (fun i => l.getD i false)).foldl (fun m i => m + 2 ^ i) 0

/-- The vote of R130 over the members' latest words `ws` with their usability `us`; the first is M0. DESIGN CHOICE (log 78):
where two members hold the median value, the lower-numbered one supplies it. -/
def voteOf (triple : Bool) (tol : Int) (ws : List Word) (us : List Bool) : Vote :=
  let w (i : Nat) : Word := ws.getD i 0
  let v (i : Nat) : Int := swValue (w i)
  let excl := memberBits (us.map (fun b => !b))
  let live := (List.range ws.length).filter (fun i => us.getD i false)
  let own : Word := w 0
  let one (i : Nat) (sub : Bool) (dis : Bool) : Vote :=
    ⟨voteWord own (swQuality (w i)) (swTag (w i)) sub (v i), i, sub, dis, 0, excl⟩
  match live with
  | [] => ⟨own, 0, false, triple, 0, excl⟩
  | [i] => one i (triple || i != 0) true
  | [i, j] =>
    if triple then
      let m := roundDiv (v i + v j) 2
      ⟨voteWord own (worseQ (swQuality (w i)) (swQuality (w j))) (swTag (w i)) true m, 3, true, true, 0, excl⟩
    else one 0 false (tol < dist (v 0) (v 1))
  | _ =>
    let med := median3 (v 0) (v 1) (v 2)
    let out := [0, 1, 2].map (fun i => decide (tol < dist (v i) med))
    let i := if v 0 = med then 0 else if v 1 = med then 1 else 2
    let sub := out.contains true || v 0 != med
    ⟨voteWord own (swQuality (w i)) (swTag (w i)) sub med, i, sub, out.contains true, memberBits out, excl⟩

/-- The word that stands for an arriving word of channel `c` (R130), with LIM_RSST of its set. -/
def State.vote (s : State) (c : Nat) (x : InWord) : InWord × State :=
  match s.setOf c with
  | none => (x, s)
  | some k =>
    let cfg := s.rd (R.LIM_RSCFG k)
    let mem := setMembers cfg
    let us := mem.map (s.usable (s.fld (R.LIM_RSAGE k) F.LIM_RSAGE_AGE))
    let r := voteOf (fldOf F.LIM_RSCFG_TRIPLE cfg != 0) (s.fld (R.LIM_RSTOL k) F.LIM_RSTOL_TOL)
      (mem.map (fun m => (s.limChan m).word)) us
    let st := r.rep * 2 ^ 8 + r.subst.toNat * 2 ^ 7 + r.dis.toNat * 2 ^ 6 + r.outv * 2 ^ 3 + r.excl
    let any := us.contains true
    ({ x with ch := c, word := r.word, unsettled := x.unsettled && !any,
              other := if any then swQuality r.word == qUncertain else x.other },
      s.wr (R.LIM_RSST k) (BitVec.ofNat 32 st))

/-! ### Reporting a state change (R127, R128, R132, R134) -/

/-- The switches of channel `c`, from its entries (R132). -/
def State.putSwitches (s : State) (c : Nat) : State :=
  let on := (s.chanEntries c).filter (fun e => s.entryOk e && (s.ent e).chan == c && s.entryAct e &&
    !(s.flag (R.LIM_STATE e) F.LIM_STATE_INH))
  let v := on.foldl (fun m e => m ||| 2 ^ (s.ent e).sw) 0
  s.setFld (R.LIM_SW (c / 8)) ⟨4 * (c % 8), 4⟩ v

/-- The trip link of entry `e` as its state gives it (R134). -/
def State.linkFor (s : State) (e : Nat) : Bool :=
  s.entryOk e && s.flag (R.LIM_ENT3 e) F.LIM_ENT3_TLEN && s.entryAct e &&
    !(s.flag (R.LIM_ENT3 e) F.LIM_ENT3_TINH && s.flag (R.LIM_STATE e) F.LIM_STATE_INH)

/-- The trip link of entry `e` follows its state, and Pergola the links of its input. -/
def State.putLink (s : State) (e : Nat) : State :=
  if s.flag (R.LIM_STATE e) F.LIM_STATE_TLINK == s.linkFor e then s
  else (s.setFlag (R.LIM_STATE e) F.LIM_STATE_TLINK (s.linkFor e)).linkMoved (s.fld (R.LIM_ENT3 e) F.LIM_ENT3_TLINK)

/-- E20 or E21 of entry `e`, with the word that the entry last evaluated (R135). -/
def State.noteLimit (s : State) (e : Nat) (on disabled : Bool) : State :=
  s.raiseS (if on then 0x20 else 0x21) e
    (data2 (s.entSt e).lastWord.toNat (s.rd (R.LIM_STATE e)).toNat) disabled (s.ent e).sev

/-- ACT of entry `e` becomes `on`: event, alarm state, switch, trip link, in that order (R127, R128). DESIGN CHOICE (log 78):
LIM_STATE in the event's data is the word before TLINK moves. -/
def State.setAct (s : State) (e : Nat) (on disabled : Bool) : State :=
  let s := s.setEntSt e { s.entSt e with onFrom := none, offFrom := none }
  let s := (s.setFlag (R.LIM_STATE e) F.LIM_STATE_ONRUN false).setFlag (R.LIM_STATE e) F.LIM_STATE_OFFRUN false
  let s := (s.setFlag (R.LIM_STATE e) F.LIM_STATE_ACT on).addFld (R.LIM_STATE e) F.LIM_STATE_TRANS 1
  let s := (s.noteLimit e on disabled).actChanged e
  (s.putSwitches (s.ent e).chan).putLink e

/-! ### Delays (R124) -/

/-- Start or cancel the on-delay of entry `e`. -/
def State.onRun (s : State) (e : Nat) (from_ : Option Time) : State :=
  (s.setEntSt e { s.entSt e with onFrom := from_ }).setFlag (R.LIM_STATE e) F.LIM_STATE_ONRUN from_.isSome

/-- Start or cancel the off-delay of entry `e`. -/
def State.offRun (s : State) (e : Nat) (from_ : Option Time) : State :=
  (s.setEntSt e { s.entSt e with offFrom := from_ }).setFlag (R.LIM_STATE e) F.LIM_STATE_OFFRUN from_.isSome

/-- COND of entry `e` becomes `cond`: ACT follows through the delays (R124). -/
def State.setCond (s : State) (e : Nat) (cond : Bool) : State :=
  if s.flag (R.LIM_STATE e) F.LIM_STATE_COND == cond then s
  else
    let s := s.setFlag (R.LIM_STATE e) F.LIM_STATE_COND cond
    match s.entryAct e, cond with
    | false, true => if (s.ent e).onDelay = 0 then s.setAct e true false else s.onRun e (some s.now)
    | false, false => s.onRun e none
    | true, false => if (s.ent e).offDelay = 0 then s.setAct e false false else s.offRun e (some s.now)
    | true, true => s.offRun e none

/-- A delay that began at `from_` with length `len`, last changed at `edited`, is due: the tick of the delay clock at or
after its end has come, and after a change that left its end in the past, the tick after the change (R124, R125). -/
def State.isDue (s : State) (from_ : Option Time) (len : Nat) (edited : Time) : Bool :=
  match from_ with
  | some t => s.delayDue (Nat.max (t + len) edited)
  | none => false

/-- The walker reaches entry `e`: a due delay is applied if COND still has the value that started it (R124). An entry
with an uncorrectable error holds its last state (R136). -/
def State.walk (s : State) (e : Nat) : State :=
  let x := s.entSt e
  let cond := s.flag (R.LIM_STATE e) F.LIM_STATE_COND
  if s.flag (R.LIM_STATE e) F.LIM_STATE_ECCERR then s
  else if s.isDue x.onFrom (s.ent e).onDelay x.editAt && cond && !(s.entryAct e) then s.setAct e true false
  else if s.isDue x.offFrom (s.ent e).offDelay x.editAt && !cond && s.entryAct e then s.setAct e false false
  else s

def execDelayDue (e : Fin 2048) (t : Time) (s : State) : Out :=
  let s := s.atTime t
  .next (if s.almOn then s.walk e else s)

/-! ### The limit types (R120) -/

/-- A condition with a set and a clear level: it keeps its value between them. -/
def hysteresis (set clear old : Bool) : Bool := if set then true else if clear then false else old

/-- COND of a signed quantity `r` with threshold `th` of either sign (RATE, DEV). -/
def signedCond (th hys r : Int) (old : Bool) : Bool :=
  if 0 < th then hysteresis (th ≤ r) (r < th - hys) old else hysteresis (r ≤ th) (th + hys < r) old

/-- COND of the value-based types HI, LO, HIHI, LOLO and BAND for value `v` (R120). -/
def valueCond (x : Ent) (v : Int) (old : Bool) : Bool :=
  match x.type with
  | 0 => hysteresis (x.th ≤ v) (v < x.th - x.hys) old
  | 2 => hysteresis (x.th ≤ v) (v < x.th - x.hys) old
  | 1 => hysteresis (v ≤ x.th) (x.th + x.hys < v) old
  | 3 => hysteresis (v ≤ x.th) (x.th + x.hys < v) old
  | _ => hysteresis ((x.param : Int) ≤ dist v x.th) (dist v x.th < (x.param : Int) - x.hys) old

/-- The SEQ_TIME count in µs at the time `t` (R116): since the epoch, modulo 2^32. -/
def State.seqTimeAt (s : State) (t : Time) : Nat := (t - s.epoch) / us % 2 ^ 32

/-- The SEQ_TIME count in µs now. -/
def State.seqTime (s : State) : Nat := s.seqTimeAt s.now

/-- A RATE entry at an evaluable word of value `v`; the time of the word is the moment it reached Snowline (R120). -/
def State.evalRate (s : State) (e : Nat) (v : Int) : State :=
  let x := s.ent e
  let t := s.seqTimeAt ((s.limChan x.chan).at_.getD s.now)
  let ref (s : State) : State := s.setEntSt e { s.entSt e with rateRef := some (v, t) }
  match (s.entSt e).rateRef with
  | none => ref s
  | some (v0, t0) =>
    let dt := (t + 2 ^ 32 - t0) % 2 ^ 32
    if x.param * 100000 ≤ dt then
      (ref s).setCond e (signedCond x.th x.hys (truncDiv ((v - v0) * 1000000) dt) (s.flag (R.LIM_STATE e) F.LIM_STATE_COND))
    else s

/-- STALE of entry `e`. -/
def State.putStale (s : State) (e : Nat) (b : Bool) : State := s.setFlag (R.LIM_STATE e) F.LIM_STATE_STALE b

/-- The word that entry `e` evaluates, for E20 and E21 (R135). -/
def State.noteWord (s : State) (e : Nat) (w : Word) : State := s.setEntSt e { s.entSt e with lastWord := w }

/-- A DEV entry at an evaluable word `w`; a partner not evaluated within the last 10 s makes the sample not
evaluable (R120). -/
def State.evalDev (s : State) (e : Nat) (w : Word) : State :=
  let x := s.ent e
  let p := s.limChan (x.param % 256)
  let old := s.flag (R.LIM_STATE e) F.LIM_STATE_COND
  match p.evalAt with
  | none => s.putStale e true
  | some t =>
    if t + 10 * sec < s.now then s.putStale e true
    else
      let s := s.noteWord e w
      let d := swValue w - swValue p.evalWord
      if x.param.testBit 8 then s.setCond e (hysteresis (x.th ≤ dist d 0) (dist d 0 < x.th - x.hys) old)
      else s.setCond e (signedCond x.th x.hys d old)

/-- A QUAL entry: BAD or NOT SCANNED, or UNCERTAIN with TH bit 0; a word that is UNCERTAIN only by UNSETTLED is ignored
(R120). -/
def State.evalQual (s : State) (e : Nat) (w : InWord) : State :=
  let q := swQuality w.word
  if q == qUncertain && w.unsettled && !w.other then s
  else (s.noteWord e w.word).setCond e (2 ≤ q || (q == qUncertain && fldOf F.LIM_ENT0_TH (s.ent e).w0 % 2 == 1))

/-- Whether a word can be evaluated (R122). -/
def InWord.evaluable (w : InWord) : Bool :=
  swQuality w.word == qGood || (swQuality w.word == qUncertain && !w.unsettled)

/-- Evaluate entry `e` with word `w` (R120, R122). -/
def State.evalEntry (s : State) (e : Nat) (w : InWord) : State :=
  let x := s.ent e
  let v := swValue w.word
  if x.type == 8 then s.evalQual e w
  else if !w.evaluable then (s.putStale e true).setEntSt e { s.entSt e with rateRef := none }
  else
    let s := s.putStale e false
    let n := s.noteWord e w.word
    match x.type with
    | 5 => n.evalRate e v
    | 6 => s.evalDev e w.word
    | 7 => n.setCond e (s.flag (R.LIM_RSST (x.param % 64)) F.LIM_RSST_DIS)
    | _ => n.setCond e (valueCond x v (s.flag (R.LIM_STATE e) F.LIM_STATE_COND))

/-- A word of channel `n` has reached the live table: NEW of its VALUE register in the Rante window (R394). -/
def State.markNew (s : State) (n : Nat) : State :=
  if n < 128 then s.setRwn { s.rwn with news := s.rwn.news ||| ((1 : BitVec 128) <<< n) } else s

/-- A word reaches Snowline: its channel's latest word, and when it came (R130). -/
def State.arrive (s : State) (x : InWord) : State :=
  s.setLimChan x.ch { s.limChan x.ch with word := x.word, at_ := some s.now, evaluable := x.evaluable }

/-- The word `w` of channel `c`, after the vote, is evaluated against the channel's entries in order (R119, R127). -/
def State.evalWord (s : State) (c : Nat) (w : InWord) : State :=
  let s := if w.evaluable then s.setLimChan c { s.limChan c with evalWord := w.word, evalAt := some s.now } else s
  foldS (fun s e => if s.evaluates c e then s.evalEntry e w else s) s (s.chanEntries c)

/-- The live table holds the word `w` of channel `c` as it is formed, unless a newer word of the channel, which the table
holds already, waits to be evaluated (R19, R127). -/
def State.showWord (s : State) (c : Nat) (w : Word) : State :=
  if s.lim.inbox.any (fun x => x.ch == c) then s else s.setSample c w

/-- A word is voted, goes to the live table, and is evaluated (R127, R130). -/
def State.judge (s : State) (x : InWord) : State :=
  let r := s.vote x.ch x
  (r.2.showWord x.ch r.1.word).evalWord x.ch r.1

/-- A word reaches Snowline after alarm-ready (R127). -/
def State.takeWord (s : State) (x : InWord) : State := (s.arrive x).judge x

/-- Before alarm-ready a word waits in the live table for the first pass (R374). -/
def State.keepEarly (s : State) (x : InWord) : State :=
  let s := s.arrive x
  let s := s.setLim { s.lim with early := tabSet (dflt none) s.lim.early x.ch (some x) }
  s.showWord x.ch x.word

/-- The pass over the latest word of every channel at alarm-ready; each keeps the time it arrived (R374). -/
def State.firstPass (s : State) : State :=
  let l := s.lim.early
  let s := s.setLim { s.lim with early := [] }
  foldS (fun s c => s.judge ((tabGet (dflt none) l c).getD ⟨c, s.sample c, false, false, 9⟩)) s
    (List.range 256)

def execLimitEvaluate (t : Time) (s : State) : Out :=
  let s := s.atTime t
  .next (if !s.almOn then s else match s.lim.inbox with
    | [] => s
    | x :: l =>
      let s := s.setLim { s.lim with inbox := l }
      if s.sup.alarmReady then s.takeWord x else s.keepEarly x)

/-- A word is written to the live table and goes to Snowline, over the crossing from CI4 or from the Gatehouse (R19,
R127). -/
def State.sendWord (s : State) (x : InWord) : State :=
  let s := (s.setSample x.ch x.word).markNew x.ch
  s.setLim { s.lim with inbox := s.lim.inbox ++ [x] }

/-- The FIFO of the crossing from CI4 holds four words; a word of sequencer `q` beyond them waits, and the sequencer with
it (R13). -/
def State.sendHeld (s : State) (q : Nat) : Bool :=
  ((s.lim.inbox.filter (fun x => x.from_ != 9)).drop 4).any (fun x => x.from_ == q)

/-- The derived-channel write of R218: ADDRESS outside 132–255; RANGE for another tag or bits 26:24 not 0. -/
def State.derivedWrite (s : State) (ch : Nat) (w : Word) : State :=
  if ch < 132 ∨ 256 ≤ ch then s.answer .address
  else if swTag w != 7 || bitsOf w.toNat 24 3 != 0 then s.answer .range
  else ((s.noteApplied).sendWord ⟨ch, w, false, swQuality w == qUncertain, 9⟩).answer .ok

def execDerivedChannelWrite (ch : BitVec 16) (w : Word) (t : Time) (s : State) : Out :=
  .next ((s.atTime t).derivedWrite ch.toNat w)

/-! ### Inhibits (R126) -/

/-- Entry `e` becomes inhibited or not: INH, SUPPRESSED, switch, trip link (R126, R128). An INH that a start took from
the mirror finds SUPPRESSED still clear (R164). -/
def State.setInh (s : State) (e : Nat) (on : Bool) : State :=
  if s.flag (R.LIM_STATE e) F.LIM_STATE_INH == on then s.suppress e on
  else
    let s := (s.setFlag (R.LIM_STATE e) F.LIM_STATE_INH on).suppress e on
    (s.putSwitches (s.ent e).chan).putLink e

/-- Inhibit `i` is effective. -/
def State.inhEffective (s : State) (i : Nat) : Bool := s.abit (R.LIM_INHEFF 0) i

/-- Entry `e` takes its INH from its inhibit; a disabled or invalid entry holds 0 (R118, R121, R126), one with an
uncorrectable error its last state (R136). -/
def State.followInh (s : State) (e : Nat) : State :=
  if s.flag (R.LIM_STATE e) F.LIM_STATE_ECCERR then s
  else s.setInh e (s.entryOk e && s.flag (R.LIM_ENT3 e) F.LIM_ENT3_INHEN &&
    s.inhEffective (s.fld (R.LIM_ENT3 e) F.LIM_ENT3_INH))

/-- The enabled entries that inhibit `i` applies to, ascending. -/
def State.inhEntries (s : State) (i : Nat) : List Nat :=
  ((listed s.regs (R.LIM_ENT3 0) 16 2048).map (fun x => x.1)).filter
    (fun e => s.entryOk e && s.flag (R.LIM_ENT3 e) F.LIM_ENT3_INHEN && s.fld (R.LIM_ENT3 e) F.LIM_ENT3_INH == i)

/-- The effective inhibit `i` begins or ends: E22, and every entry it applies to (R126, R135). -/
def State.setEffective (s : State) (i : Nat) (on : Bool) : State :=
  if s.inhEffective i == on then s
  else foldS State.followInh ((s.setAbit (R.LIM_INHEFF 0) i on).raise 0x22 i on.toNat) (s.inhEntries i)

/-- When the release of inhibit `i` began. -/
def State.setRelease (s : State) (i : Nat) (t : Option Time) : State :=
  s.setLim { s.lim with release := tabSet (dflt none) s.lim.release i t }

/-- LIM_INHDLY of inhibit `i`, ns. -/
def State.inhDelay (s : State) (i : Nat) : Nat := s.fld (R.LIM_INHDLY i) F.LIM_INHDLY_DLY * (100 * ms)

/-- The inhibit bit of R218. -/
def State.inhibitBit (s : State) (i : Nat) (on : Bool) : State :=
  if 64 ≤ i then s.answer .address
  else
    let was := s.abit (R.LIM_INH 0) i
    let s := s.setAbit (R.LIM_INH 0) i on
    (if on then (s.setRelease i none).setEffective i true
     else if was then
      (if s.inhDelay i = 0 then s.setEffective i false else s.setRelease i (some s.now))
     else s).answer .ok

def execInhibitBit (i : BitVec 16) (on : Bool) (t : Time) (s : State) : Out := .next ((s.atTime t).inhibitBit i.toNat on)

/-- INHIBIT_RELEASE_EXPIRY (R126). DESIGN CHOICE (log 78): a LIM_INHDLY written while the release runs keeps its start and
gives its new length. -/
def execInhibitReleaseExpiry (i : Fin 64) (t : Time) (s : State) : Out :=
  let s := s.atTime t
  let from_ := tabGet (dflt none) s.lim.release i
  .next (if s.almOn && s.isDue from_ (s.inhDelay i) 0 && !(s.abit (R.LIM_INH 0) i)
    then (s.setRelease i none).setEffective i false else s)

/-! ### Scrubbing (R136) -/

def execLimitScrub (e : Fin 2048) (r : Scrub) (s : State) : Out :=
  .next (if !s.almOn then s else match r with
    | .clean => s
    | .corrected => (s.addFld R.LIM_STAT F.LIM_STAT_ECCC 1).raise 0x23 e 0
    | .uncorrectable => ((s.setFlag (R.LIM_STATE e) F.LIM_STATE_ECCERR true).raise 0x24 e 0).needCycle 4 1)

/-! ### Validity and staging (R121, R129, R139) -/

/-- The PARAM bits a type uses (R120). -/
def paramMask (type : Nat) : Nat :=
  match type with
  | 4 => 0x3FFF
  | 5 => 0x3FFF
  | 6 => 0x1FF
  | 7 => 0x3F
  | _ => 0

/-- Entry words `x` at entry `e` are valid (R121); a disabled entry is never invalid. -/
def State.entValid (s : State) (e : Nat) (x : Ent) : Bool :=
  let thBits := fldOf F.LIM_ENT0_TH x.w0
  !x.en ||
    (x.type ≤ 8 && (x.param &&& paramMask x.type) == x.param &&
      (match s.rangeOwner e with | some c => c == x.chan | none => true) &&
      (match x.type with
       | 4 => x.param != 0 && decide (x.hys < (x.param : Int))
       | 5 => x.th != 0 && x.param != 0
       | 6 => x.th != 0 && !(x.param.testBit 8 && decide (x.th < 0)) && x.param % 256 != x.chan &&
           s.sameExp (x.param % 256) x.chan
       | 7 => s.setEnabled x.param && s.fld (R.LIM_RSCFG x.param) F.LIM_RSCFG_M0 == x.chan
       | 8 => x.hys == 0 && thBits ≤ 1
       | _ => true))

/-- The fields of LIM_STATE that copy the entry: SW, SEV, TRIPIGN, CFGERR (R121, R134, R140). -/
def State.copyEntry (s : State) (e : Nat) (cfgerr : Bool) : State :=
  let x := s.ent e
  let ign := x.en && fldOf F.LIM_ENT3_TLEN x.w3 != 0 && s.fld (R.TRP_INCFG (fldOf F.LIM_ENT3_TLINK x.w3)) F.TRP_INCFG_SRC == 0
  let s := (s.setFld (R.LIM_STATE e) F.LIM_STATE_SW x.sw).setFld (R.LIM_STATE e) F.LIM_STATE_SEV x.sev
  (s.setFlag (R.LIM_STATE e) F.LIM_STATE_TRIPIGN ign).setFlag (R.LIM_STATE e) F.LIM_STATE_CFGERR cfgerr

/-- COND, ACT and any running delay of entry `e` are cleared; E21 if ACT was 1 (R139). -/
def State.clearEntry (s : State) (e : Nat) (disabled : Bool) : State :=
  let s := s.setFlag (R.LIM_STATE e) F.LIM_STATE_COND false
  let s := if s.entryAct e then s.setAct e false disabled else s
  let s := s.setEntSt e entryReset
  (s.setFlag (R.LIM_STATE e) F.LIM_STATE_ONRUN false).setFlag (R.LIM_STATE e) F.LIM_STATE_OFFRUN false

/-- Entry `e` becomes `x`, which is valid (R139): the state is kept unless CHAN, TYPE or PARAM change or EN goes to 0;
the old channel's switches, the old link and the old group follow. -/
def State.replaceEntry (s : State) (e : Nat) (x : Ent) : State :=
  let old := s.ent e
  let oldLink := s.fld (R.LIM_ENT3 e) F.LIM_ENT3_TLINK
  let s := (s.putEnt e x).copyEntry e false
  let cleared := old.chan != x.chan || old.type != x.type || old.param != x.param || !x.en
  let s := if cleared then s.clearEntry e (old.en && !x.en) else s.setEntSt e { s.entSt e with editAt := s.now }
  let s := if x.en then s else s.setAlarmState e 0
  let s := (s.groupsChanged [old.group, x.group]).followInh e
  let s := s.putSwitches old.chan
  let s := (s.putSwitches x.chan).putLink e
  if oldLink != fldOf F.LIM_ENT3_TLINK x.w3 then (s.linkMoved oldLink).linkMoved (fldOf F.LIM_ENT3_TLINK x.w3) else s

/-- A change applied by staging: EDITED and E26 (R139). -/
def State.noteStaged (s : State) (source : Nat) : State :=
  (s.setFlag R.LIM_STAT F.LIM_STAT_EDITED true).raise 0x26 source 0

/-- Stage entry `e` (R139): RANGE; CLAIM where the Rante window holds the region. -/
def State.stageEntry (s : State) (e : Nat) (x : Ent) : Status × State :=
  if !(s.entValid e x) then (.range, s)
  else if s.owner (65 + e / 128) == 0x22 then (.claim, s)
  else (.ok, (s.replaceEntry e x).noteStaged e)

/-- Entry `e` has left the range of its channel, or come into one: it is checked anew, and an invalid entry, or one
that lies in no range, takes NORMAL (R119, R121, R139, R163). -/
def State.recheck (s : State) (e : Nat) : State :=
  let x := s.ent e
  let bad := x.en && !(s.entValid e x)
  let s := s.copyEntry e bad
  let s := if (s.rangeOwner e).isNone || bad then (s.clearEntry e false).alarmDropped e x.group else s
  s.followInh e

/-- Whether a LIM_CHIDX word for channel `c` overlaps another channel's range. -/
def State.overlaps (s : State) (c first count : Nat) : Bool :=
  0 < count &&
    ((listed s.regs (R.LIM_CHIDX 0) 4 256).any (fun e =>
      e.1 != c && fldOf F.LIM_CHIDX_CFGERR e.2 == 0 && 0 < fldOf F.LIM_CHIDX_COUNT e.2 &&
        first < fldOf F.LIM_CHIDX_FIRST e.2 + fldOf F.LIM_CHIDX_COUNT e.2 && fldOf F.LIM_CHIDX_FIRST e.2 < first + count) ||
      (s.windowOn && 1536 < first + count))

/-- The entries most a channel's own range may hold: 16, or 12 beside four window entries (R119, R397). DESIGN CHOICE
(log 78): a count of 13 to 16 beside them is LENGTH, as one above 16 is. -/
def State.maxCount (s : State) (c : Nat) : Nat := if s.windowOn && c < 128 then 12 else 16

/-- Between the tables of `s` and of `n`, some entry of the list would become invalid: a staging write that would create
an invalid entry is refused (R121). -/
def State.spoils (s n : State) (l : List Nat) : Bool := l.any (fun e => s.entValid e (s.ent e) && !(n.entValid e (n.ent e)))

/-- Stage the channel index of channel `c` (R139): LENGTH (R119), RANGE for an overlap or for an entry that would become
invalid (R121). -/
def State.stageIndex (s : State) (c : Nat) (w : Word) : Status × State :=
  let first := fldOf F.LIM_CHIDX_FIRST w
  let count := fldOf F.LIM_CHIDX_COUNT w
  if s.maxCount c < count ∨ 2048 < first + count then (.length, s)
  else if s.overlaps c first count then (.range, s)
  else
    let old := s.chanEntries c
    let n := s.wr (R.LIM_CHIDX c) (BitVec.ofNat 32 (count * 2 ^ 16 + first))
    if s.spoils n (n.chanEntries c) then (.range, s)
    else
      let n := foldS State.recheck n (old.filter (fun e => !((n.chanEntries c).contains e)) ++ n.chanEntries c)
      (.ok, (n.putSwitches c).noteStaged (0x1000 + c))

/-- The REDUND entries that name set `k`. -/
def State.redundEntries (s : State) (k : Nat) : List Nat :=
  ((listed s.regs (R.LIM_ENT3 0) 16 2048).map (fun x => x.1)).filter
    (fun e => (s.ent e).en && (s.ent e).type == 7 && (s.ent e).param == k)

/-- Stage redundancy set `k` (R139): RANGE for an invalid set (R129) or a REDUND entry that would become invalid (R121). -/
def State.stageSet (s : State) (k : Nat) (w tol age : Word) : Status × State :=
  if !(s.setValid k w age) then (.range, s)
  else
    let n := s.wrAll [(R.LIM_RSCFG k, w &&& 0xC0FFFFFF), (R.LIM_RSTOL k, tol &&& 0x00FFFFFF), (R.LIM_RSAGE k, age &&& 0xFFFF)]
    if s.spoils n (n.redundEntries k) then (.range, s)
    else (.ok, (foldS State.recheck n (n.redundEntries k)).noteStaged (0x2000 + k))

/-- A staging command is written (R139): DENIED while the lock is closed, BUSY while one is being checked, RANGE, which
LIM_STGST shows too, for an index outside the function's table (R140, R424). -/
def State.stageCommand (s : State) (func idx : Nat) : State :=
  if !(s.powered 4) then s.answer .busy
  else if !s.lockOpen then s.answer .denied
  else if s.flag R.LIM_STGST F.LIM_STGST_BUSY then s.answer .busy
  else if (func = 2 ∧ 256 ≤ idx) ∨ (func = 3 ∧ 64 ≤ idx) then
    (s.setFld R.LIM_STGST F.LIM_STGST_STAT Status.range.code).answer .range
  else ((s.setFlag R.LIM_STGST F.LIM_STGST_BUSY true).setLim { s.lim with staged := some (func, idx) }).noteLk.answer .ok

def execLimStageEntry (_p : Port) (idx : BitVec 11) (t : Time) (s : State) : Out :=
  .next ((s.atTime t).stageCommand 1 idx.toNat)
def execLimStageIndex (_p : Port) (idx : BitVec 11) (t : Time) (s : State) : Out :=
  .next ((s.atTime t).stageCommand 2 idx.toNat)
def execLimStageSet (_p : Port) (idx : BitVec 11) (t : Time) (s : State) : Out :=
  .next ((s.atTime t).stageCommand 3 idx.toNat)

/-- Check and apply the staged change (R139): LIM_STGST takes the status. -/
def State.stageApply (s : State) : State :=
  match s.lim.staged with
  | none => s
  | some (func, idx) =>
    let w (i : Nat) : Word := s.rd (R.LIM_STG i)
    let r := match func with
      | 1 => s.stageEntry idx ⟨w 0, w 1, w 2, w 3⟩
      | 2 => s.stageIndex idx (w 0)
      | _ => s.stageSet idx (w 0) (w 1) (w 2)
    let s := r.2.setLim { r.2.lim with staged := none }
    s.wr R.LIM_STGST (BitVec.ofNat 32 r.1.code)

def execLimStageApply (t : Time) (s : State) : Out :=
  let s := s.atTime t
  .next (if s.almOn then s.stageApply else s)

end Sys2Proof.Machine
end

