-- ==== Sys2Proof/Machine/FrontEnd.lean ====
section
/-! DEFINITION. The analog front end (R28–R57): configurations and their checks, the configuration in force, the
sensor-fault bits, loop switches, bridge supplies and clamps. -/

namespace Sys2Proof.Machine

/-! ### Channels, banks and the sequencer that runs them (R28, R31, R93) -/

/-- The record of channel `n`. -/
def State.chan (s : State) (n : Nat) : ChanSt := tabGet (dflt chanReset) s.chans n

def State.setChan (s : State) (n : Nat) (x : ChanSt) : State :=
  { s with chans := tabSet (dflt chanReset) s.chans n x }

/-- The record of bank `b`; 8 is BS. -/
def State.bank (s : State) (b : Nat) : BankSt := tabGet (dflt bankReset) s.banks b

def State.setBank (s : State) (b : Nat) (x : BankSt) : State :=
  { s with banks := tabSet (dflt bankReset) s.banks b x }

/-- The bank that BS serves (AFE_ROTST.SERVED; 0xF none). -/
def State.served (s : State) : Nat := s.fld R.AFE_ROTST F.AFE_ROTST_SERVED

/-- The bank whose program sequencer `q` runs. -/
def State.seqBank (s : State) (q : Nat) : Nat := if q == 8 then s.served else q

/-- The bank of channel `n`. -/
def chanBank (n : Nat) : Nat := if n < 128 then n / 16 else 2 * (n - 128) + 1

/-- The sequencer, and with it the converters, that serve bank `b`: BS while it serves it (R80). -/
def State.server (s : State) (b : Nat) : Nat := if s.served == b then 8 else b

/-- The channel at position `pos` of bank `b` (R93). -/
def posChan (b pos : Nat) : Nat := if pos < 16 then 16 * b + pos else 128 + b / 2

/-- The channels of bank `b`, its cold-junction input included (R31). -/
def bankChans (b : Nat) : List Nat :=
  (List.range 16).map (fun i => 16 * b + i) ++ (if b % 2 == 1 then [128 + b / 2] else [])

/-- The domain of the converters of bank `b` (R10). -/
def bankDomain (b : Nat) : Nat := if b < 4 then 6 else 7

/-! ### The configuration in force -/

/-- SETTLE in ns. -/
def ChanSt.settleNs (x : ChanSt) : Nat := fldOf F.AFE_CHCFG_SETTLE x.cfg * (10 * us)

def ChanSt.wire (x : ChanSt) : Nat := fldOf F.AFE_CHCFG_WIRE x.cfg

/-- TYPE as configured. -/
def ChanSt.type (x : ChanSt) : Nat := fldOf F.AFE_CHCFG_TYPE x.cfg

/-- The live bits of channel `n` (R56). -/
def State.liveBits (s : State) (n : Nat) : Nat := s.fld (R.AFE_CHSTAT n) F.AFE_CHSTAT_LIVE

/-- The places of the fault bits. -/
def bitOpen : Nat := 0
def bitShort : Nat := 1
def bitClamp : Nat := 2
def bitLooplim : Nat := 3
def bitBxlim : Nat := 4
def bitUnder : Nat := 5
def bitOver : Nat := 6
def bitSuplow : Nat := 7
def bitCfgerr : Nat := 8

/-- The TYPE channel `n` behaves as: NONE while its configuration is invalid (R34). -/
def State.chanType (s : State) (n : Nat) : Nat :=
  if (s.liveBits n).testBit bitCfgerr then 0 else (s.chan n).type

/-- Channel `n` is scanned: not NONE, PARTNER or CFGERR (R32, R96). -/
def State.scanned (s : State) (n : Nat) : Bool := s.chanType n != 0 && s.chanType n != 16

/-- A TYPE that uses a current source (R32). -/
def usesCurrent (type : Nat) : Bool := (1 ≤ type && type ≤ 4) || type == 17

/-- A 3-wire channel measured in two halves (R46). -/
def State.threeWire (s : State) (n : Nat) : Bool :=
  let t := s.chanType n
  1 ≤ t && t ≤ 4 && (s.chan n).wire == 1

/-- The allowed span of the pairs of a TYPE (R63); none for NONE and PARTNER. -/
def pairSpan (type : Nat) : Option (Nat × Nat) :=
  match type with
  | 1 => some (0, 3) | 2 => some (0, 3) | 3 => some (0, 3) | 17 => some (0, 3)
  | 4 => some (0, 4)
  | 5 => some (0, 1) | 6 => some (0, 1) | 7 => some (0, 1) | 8 => some (0, 1) | 9 => some (0, 1)
  | 10 => some (0, 4) | 11 => some (0, 2) | 12 => some (2, 3) | 13 => some (2, 3)
  | 14 => some (0, 2) | 15 => some (0, 4)
  | _ => none

/-! ### Validity (R34, R63, R78) -/

/-- The words a channel's configuration consists of. -/
structure CfgWords where
  cfg : Word
  exc : Word
  rng : Word
  crv : Word
deriving DecidableEq, Repr

def CfgWords.type (w : CfgWords) : Nat := fldOf F.AFE_CHCFG_TYPE w.cfg
def CfgWords.wire (w : CfgWords) : Nat := fldOf F.AFE_CHCFG_WIRE w.cfg

/-- The configuration words of channel `n` as the registers hold them. -/
def State.cfgWords (s : State) (n : Nat) : CfgWords :=
  ⟨s.rd (R.AFE_CHCFG n), s.rd (R.AFE_CHEXC n), s.rd (R.AFE_RNG n), s.rd (R.CRV_CHCFG n)⟩

/-- TYPE and WIRE stand in the connection table of R32; NONE has no wiring (log 26). -/
def wireOk (type wire : Nat) : Bool :=
  type == 0 || (1 ≤ type && type ≤ 4 && wire ≤ 2) || (5 ≤ type && type ≤ 13 && wire == 0) ||
    (type == 14 && 2 ≤ wire) || (type == 15 && (wire == 1 || wire == 2)) || (type == 16 && wire == 3) ||
    (type == 17 && wire == 0)

/-- A curve slot holds a curve: CV00–CV10 in ROM, the others from the image (R76). -/
def State.curveLoaded (s : State) (slot : Nat) : Bool :=
  slot ≤ 10 || s.img.exec.curves.any (fun e => e.1 == slot && slot < 64)

/-- A 6-wire bridge (R33). -/
def CfgWords.sixWire (w : CfgWords) : Bool := w.type == 14 && w.wire == 3

/-- The configuration `w` of channel `n`, with `even` the words of channel n − 1 and `odd` those of n + 1, is valid. -/
def State.cfgValid (s : State) (n : Nat) (w even odd : CfgWords) : Bool :=
  let iexc := fldOf F.AFE_CHEXC_IEXC w.exc
  let curve := fldOf F.CRV_CHCFG_CURVE w.crv
  let pairsOk := match pairSpan w.type with
    | none => true
    | some (lo, hi) =>
      let mn := fldOf F.AFE_RNG_MINP w.rng
      let mx := fldOf F.AFE_RNG_MAXP w.rng
      let ini := fldOf F.AFE_RNG_INIT w.rng
      lo ≤ mn && mx ≤ hi && mn ≤ ini && ini ≤ mx
  wireOk w.type w.wire &&
    (!w.sixWire || (n % 2 == 0 && n < 128 && odd.type == 16)) &&
    (w.type != 16 || (n % 2 == 1 && n < 128 && even.sixWire)) &&
    (if n < 128 then w.type != 17 else w.type == 17 || w.type == 0) &&
    (!(usesCurrent w.type) || iexc == 0 || (50 ≤ iexc && iexc ≤ 2000)) &&
    pairsOk &&
    (curve == 0xFF || (curve < 64 && s.curveLoaded curve)) &&
    fldOf F.CRV_CHCFG_EXP w.crv != 7 &&
    (!(5 ≤ w.type && w.type ≤ 9) || fldOf F.CRV_CHCFG_CJ w.crv ≤ 4)

/-- The configuration of channel `n` as the registers hold it is valid. -/
def State.chanValid (s : State) (n : Nat) : Bool :=
  s.cfgValid n (s.cfgWords n) (s.cfgWords (n - 1)) (s.cfgWords (n + 1))

/-! ### Live and latched bits (R52, R53) -/

/-- AFE_FAULTSUM follows the latched bits of channel `n`. -/
def State.putFaultSum (s : State) (n : Nat) : State :=
  s.setAbit (R.AFE_FAULTSUM 0) n (s.fld (R.AFE_CHSTAT n) F.AFE_CHSTAT_LATCH != 0)

/-- The event of a latched bit going to 1, for the bits recorded per channel (R53). -/
def sensorEvent (bit : Nat) : Option Nat :=
  match bit with
  | 0 => some 0x10 | 1 => some 0x12 | 2 => some 0x11 | 3 => some 0x13 | 8 => some 0x16
  | _ => none

/-- The data of a fault event: the live bits and the unscaled converter result of the failing sample; 0 for a condition
with no sample (R53). -/
def faultData (live : Nat) : Option Int → Nat
  | some r => live % 2 ^ 16 + 2 ^ 16 * unsignOf 32 r
  | none => 0

/-- Give channel `n` the live bits `live`; each latched bit sets with its live bit, with its event. `reading` is the
result of the failing sample, if there is one (R53). -/
def State.setLive (s : State) (n live : Nat) (reading : Option Int) : State :=
  let old := s.fld (R.AFE_CHSTAT n) F.AFE_CHSTAT_LATCH
  let new := (onesOf 9 live).filter (fun k => !(old.testBit k))
  let s := (s.setFld (R.AFE_CHSTAT n) F.AFE_CHSTAT_LIVE live).setFld (R.AFE_CHSTAT n) F.AFE_CHSTAT_LATCH (old ||| live)
  let s := s.putFaultSum n
  foldS (fun s k => match sensorEvent k with
    | some code => s.raise code n (faultData live reading)
    | none => s) s new

/-- Set or clear live bit `k` of channel `n` for a condition with no sample. -/
def State.setLiveBit (s : State) (n k : Nat) (b : Bool) : State :=
  s.setLive n (setBitN (s.liveBits n) k b) none

/-- A clear by the host of the latched bits in `mask` (R53). -/
def State.clearLatched (s : State) (n mask : Nat) : State :=
  let old := s.fld (R.AFE_CHSTAT n) F.AFE_CHSTAT_LATCH
  (s.setFld (R.AFE_CHSTAT n) F.AFE_CHSTAT_LATCH ((old - (old &&& mask)) ||| s.liveBits n)).putFaultSum n

/-! ### Words of a channel -/

/-- Channel `n` reads NOT SCANNED at once (R73, R112, R115): the live table, and Snowline as its next word. The next
sample starts straddle afresh (R66). -/
def State.dropWord (s : State) (n : Nat) : State :=
  let x := s.chan n
  let s := s.setChan n { x with word := notScanned, h1 := { x.h1 with prevTag := none }, h2 := { x.h2 with prevTag := none } }
  s.sendWord ⟨n, notScanned, false, false, 9⟩

/-! ### Loop switches (R41–R45, R48) -/

/-- The loop switch of channel `n` is closed. -/
def State.loopOn (s : State) (n : Nat) : Bool := s.abit (R.AFE_LOOPON 0) n

/-- Close the loop switch of channel `n` (R43); a comparator that taps the channel sees it (R146). -/
def State.closeLoop (s : State) (n : Nat) : State :=
  ((s.setAbit (R.AFE_LOOPON 0) n true).setChan n { s.chan n with closedAt := some s.now }).tapMoved n

/-- The node opens the loop switch of channel `n` after a limit and holds it open: OPEN and SHORT are no longer
reported (R48). -/
def State.holdLoop (s : State) (n : Nat) : State :=
  let s := (s.setAbit (R.AFE_LOOPON 0) n false).setChan n
    { s.chan n with openedAt := some s.now, retry := false, smpOpen := false }
  (s.setLive n (setBitN (setBitN (setBitN (s.liveBits n) bitOpen false) bitShort false) bitLooplim true) none).tapMoved n

/-- The node holds the switch of channel `n` open after a limit. -/
def State.loopHeld (s : State) (n : Nat) : Bool := (s.liveBits n).testBit bitLooplim && !(s.loopOn n)

/-- Channel `n` is LOOP2. -/
def State.isLoop2 (s : State) (n : Nat) : Bool := n < 128 && s.chanType n == 12

/-- The front end runs while CI4 works (R11, R57). -/
def State.afeOn (s : State) : Bool := s.islandOn 4

def execLoopSwitchStartClose (t : Time) (s : State) : Out :=
  let s := s.atTime t
  let next := (List.range 128).find? (fun n => s.isLoop2 n && !(s.loopOn n) && (s.chan n).closedAt.isNone)
  .next (match next with
    | some n => if s.afeOn then s.closeLoop n else s
    | none => s)

/-- R44: the closed switches of the list opened one by one until the total, in mA, is 1.9 A or less. -/
def State.shedLoops (s : State) (ma : List Nat) : List Nat → Nat → State
  | [], total => s.setFld R.AFE_LOOP F.AFE_LOOP_ILOOP total
  | n :: l, total =>
    if total ≤ 1900 then s.setFld R.AFE_LOOP F.AFE_LOOP_ILOOP total
    else (s.holdLoop n).shedLoops ma l (total - ma.getD n 0)

/-- `ma` gives the current of each channel's loop in mA. -/
def execVloopOvercurrent (ma : List Nat) (t : Time) (s : State) : Out :=
  let s := s.atTime t
  let closed := ((List.range 128).filter s.loopOn).reverse
  let total := (closed.map (fun n => ma.getD n 0)).sum
  .next (if s.afeOn && 2000 < total then s.shedLoops ma closed total else s)

/-- The LOOP2 channels. -/
def State.loop2Chans (s : State) : List Nat := (List.range 128).filter s.isLoop2

/-- AFE_LOOP takes the measured voltage (10 mV units) and total current (mA). -/
def State.putVloop (s : State) (v i : Nat) : State :=
  (s.setFld R.AFE_LOOP F.AFE_LOOP_VLOOP v).setFld R.AFE_LOOP F.AFE_LOOP_ILOOP i

def execVloopLow (v : BitVec 16) (i : BitVec 12) (s : State) : Out :=
  .next (if !s.afeOn then s
    else
      let was := s.flag R.AFE_LOOP F.AFE_LOOP_VLOW
      let s := (s.putVloop v.toNat i.toNat).setFlag R.AFE_LOOP F.AFE_LOOP_VLOW true
      let s := if was then s else s.raise 0x15 0 (v.toNat + 2 ^ 16 * i.toNat)
      foldS (fun s n =>
        let s := s.setChan n { s.chan n with smpOpen := false }
        (s.setLive n (setBitN (setBitN (s.liveBits n) bitOpen false) bitSuplow true) none).tapMoved n) s s.loop2Chans)

def execVloopRecover (v : BitVec 16) (i : BitVec 12) (s : State) : Out :=
  .next (if !s.afeOn then s
    else
      let s := (s.putVloop v.toNat i.toNat).setFlag R.AFE_LOOP F.AFE_LOOP_VLOW false
      foldS (fun s n => (s.setLiveBit n bitSuplow false).tapMoved n) s s.loop2Chans)

def execLoopSwitchLimit (n : Fin 128) (t : Time) (s : State) : Out :=
  let s := s.atTime t
  .next (if s.afeOn && s.isLoop2 n && s.loopOn n && !(s.chan n).retry then s.holdLoop n else s)

/-- 5 s after the switch opened, it closes for 100 ms. -/
def execLoopRetry (n : Fin 128) (t : Time) (s : State) : Out :=
  let s := s.atTime t
  let due := match (s.chan n).openedAt with | some t0 => t0 + 5 * sec ≤ s.now | none => false
  .next (if s.afeOn && s.loopHeld n && due then
      let s := s.closeLoop n
      s.setChan n { s.chan n with retry := true }
    else s)

/-- At the end of the 100 ms: `held` says that the limit held throughout. -/
def execLoopRetryEnd (n : Fin 128) (held : Bool) (t : Time) (s : State) : Out :=
  let s := s.atTime t
  let due := match (s.chan n).closedAt with | some t0 => t0 + 100 * ms ≤ s.now | none => false
  .next (if s.afeOn && (s.chan n).retry && due then
      if held then s.holdLoop n
      else (s.setChan n { s.chan n with retry := false }).setLiveBit n bitLooplim false
    else s)

/-! ### Bridge supplies (R39, R40) -/

/-- The channels that the supply of bank `b` (8 for BS) serves with TYPE BRIDGE or POT. -/
def State.bridgeChans (s : State) (b : Nat) : List Nat :=
  let home := s.seqBank b
  if home < 8 && s.server home == b then (bankChans home).filter (fun n => s.chanType n == 14 || s.chanType n == 15)
  else []

/-- BXLIM of the supply of bank `b` and of its channels. -/
def State.setBxlim (s : State) (b : Nat) (on : Bool) : State :=
  foldS (fun s n => s.setLiveBit n bitBxlim on) (s.setFlag (R.AFE_BKBX b) F.AFE_BKBX_BXLIM on) (s.bridgeChans b)

def execBridgeSupplyLimit (b : Fin 9) (s : State) : Out :=
  .next (if s.afeOn && !(s.flag (R.AFE_BKBX b) F.AFE_BKBX_BXLIM) then (s.setBxlim b true).raise 0x14 b 0 else s)

def execBridgeSupplyLimitEnd (b : Fin 9) (s : State) : Out := .next (if s.afeOn then s.setBxlim b false else s)

/-! ### Clamps (R49) -/

def execClampConduct (n : Fin 132) (t : Time) (s : State) : Out :=
  let s := s.atTime t
  .next (if s.afeOn then (s.setLiveBit n bitClamp true).tapMoved n else s)

def execClampClear (n : Fin 132) (t : Time) (s : State) : Out :=
  let s := s.atTime t
  .next (if s.afeOn && (s.liveBits n).testBit bitClamp then
      ((s.setLiveBit n bitClamp false).setChan n { s.chan n with clampEnd := some s.now }).tapMoved n
    else s)

/-! ### Current sources (R35–R37, R110) -/

/-- The current of a source at `level` µA in nA, from its fit, or its set value where it has none (R37). -/
def fitCurrent (fit : Option (Nat × Nat)) (level : Nat) : Nat :=
  if level = 0 then 0
  else match fit with
    | none => level * 1000
    | some (lo, hi) => (roundDiv ((lo : Int) * 1900 + ((hi : Int) - lo) * ((level : Int) - 100)) 1900).toNat

/-- Source `src` (false IA, true IB) of bank `b`: its level. -/
def State.level (s : State) (b : Nat) (src : Bool) : Nat := if src then (s.bank b).levelB else (s.bank b).levelA

/-- Its terminal: 0 disconnected, 1 EX, 2 SN. -/
def State.term (s : State) (b : Nat) (src : Bool) : Nat := if src then (s.bank b).termB else (s.bank b).termA

/-- Its present current in nA, which AFE_BKIA or AFE_BKIB shows. -/
def State.current (s : State) (b : Nat) (src : Bool) : Nat :=
  fitCurrent (if src then (s.bank b).fitB else (s.bank b).fitA) (s.level b src)

/-- AFE_BKIA and AFE_BKIB show the currents of bank `b`. -/
def State.showCurrents (s : State) (b : Nat) : State :=
  (s.setFld (R.AFE_BKIA b) F.AFE_BKIA_MEAS (s.current b false)).setFld (R.AFE_BKIB b) F.AFE_BKIB_MEAS (s.current b true)

/-- Set level and terminal of source `src` of bank `b`; the other source is connected to nothing. -/
def State.setSource (s : State) (b : Nat) (src : Bool) (level term : Nat) : State :=
  let x := s.bank b
  let x := if src then { x with levelB := level, termB := term, termA := 0 }
    else { x with levelA := level, termA := term, termB := 0 }
  (s.setBank b x).showCurrents b

/-- Both sources of bank `b` connected to nothing. -/
def State.openSources (s : State) (b : Nat) : State := s.setBank b { s.bank b with termA := 0, termB := 0 }

/-! ### Configuration in force: loads and edits (R55, R63) -/

/-- The pair state at a configuration load: INIT (R62, R63). -/
def halfInit (rng : Word) : HalfSt := { halfReset with pair := fldOf F.AFE_RNG_INIT rng }

/-- AFE_RNG shows the pairs of channel `n`; PAIR2 reads 0 where there is no second half. -/
def State.showPairs (s : State) (n : Nat) : State :=
  let x := s.chan n
  let s := s.setFld (R.AFE_RNG n) F.AFE_RNG_PAIR x.h1.pair
  let s := s.setFld (R.AFE_RNG n) F.AFE_RNG_PAIR2 (if s.threeWire n then x.h2.pair else 0)
  s.setFlag (R.AFE_RNG n) F.AFE_RNG_FIXED (x.h1.fixed || x.h2.fixed)

/-- Channel `n` takes the configuration its registers hold. -/
def State.copyCfg (s : State) (n : Nat) : State :=
  s.setChan n { s.chan n with
    cfg := s.rd (R.AFE_CHCFG n), exc := s.rd (R.AFE_CHEXC n), lead := s.rd (R.AFE_CHLEAD n), rng := s.rd (R.AFE_RNG n),
    crv := s.rd (R.CRV_CHCFG n), gain := s.rd (R.CRV_GAIN n), offs := s.rd (R.CRV_OFFS n) }

/-- Both pairs of channel `n` start afresh (R55, R63). -/
def State.initPairs (s : State) (n : Nat) : State :=
  let x := s.chan n
  (s.setChan n { x with h1 := halfInit x.rng, h2 := halfInit x.rng }).showPairs n

/-- The configuration of channel `n` as it comes from the image (R34, R55, R63, R73): an invalid one is CFGERR with
E16. -/
def State.loadChan (s : State) (n : Nat) : State :=
  let s := s.setChan n chanReset
  let bad := !(s.chanValid n)
  let s := (s.copyCfg n).setLiveBit n bitCfgerr bad
  (s.initPairs n).dropWord n

/-- The loop switch of channel `n` after a change of TYPE from `was` (R55). -/
def State.retypeLoop (s : State) (n was : Nat) : State :=
  let is := s.chanType n
  if 128 ≤ n || (was == 12) == (is == 12) then s
  else if is == 12 then s.closeLoop n
  else ((s.setAbit (R.AFE_LOOPON 0) n false).setChan n { s.chan n with retry := false, openedAt := none }).tapMoved n

/-- The edits of channel `n` take effect at its SEL (R55): a change of TYPE clears the live bits, and of TYPE or WIRE is
a configuration load. DESIGN CHOICE (log 78): CFGERR of an image configuration that the host has made valid by WIRE or
IEXC alone stays until a change of TYPE or the next load, since R55 clears live bits for a change of TYPE only. -/
def State.takeCfg (s : State) (n : Nat) : State :=
  let x := s.chan n
  let was := s.chanType n
  let s := s.copyCfg n
  let y := s.chan n
  if x.type == y.type && x.wire == y.wire then s
  else
    let s := if x.type == y.type then s
      else (s.setLive n 0 none).setChan n { s.chan n with smpOpen := false, chkOpen := false }
    ((s.retypeLoop n was).initPairs n).dropWord n

/-- The bank's BXV takes effect at a SEL of any of its channels (R55); AFE_BKCFG of BS shows it while BS serves. -/
def State.takeBxv (s : State) (hw home : Nat) : State :=
  let v := s.fld (R.AFE_BKCFG home) F.AFE_BKCFG_BXV
  let s := s.setBank hw { s.bank hw with bxv := v }
  if hw == 8 then s.setFld (R.AFE_BKCFG 8) F.AFE_BKCFG_BXV v else s

/-! ### Host edits (R34, R55, R89) -/

/-- The configuration registers of the front end and the curve unit: the channel, where a channel's. -/
def afeCfgChan (a : Nat) : Option (Option Nat) :=
  let inChan (base : Nat) : Option Nat := if base ≤ a && a < base + 132 * 16 then some ((a - base) / 16) else none
  match inChan (R.AFE_CHCFG 0) with
  | some n => if a % 16 == 12 then none else some (some n)
  | none =>
    if a == R.CRV_CJFIX then some none
    else if R.AFE_BKCFG 0 ≤ a && a < R.AFE_BKCFG 8 && a % 16 == 0 then some none
    else match inChan (R.AFE_RNG 0) with
      | some n => if a % 16 == 0 then some (some n) else none
      | none =>
        match inChan (R.CRV_CHCFG 0) with
        | some n => if a % 16 == 12 then none else some (some n)
        | none => none

/-- The word at `a` with the fields in `mask` taken from `v`. -/
def State.merged (s : State) (a : Nat) (mask v : Word) : Word := (s.rd a &&& ~~~mask) ||| (v &&& mask)

/-- Whether the edit of channel `n` that led to this state leaves the channel, and a neighbour that was valid in `old`,
valid (R34). -/
def State.editValid (s old : State) (n : Nat) : Bool :=
  s.chanValid n && [n - 1, n + 1].all (fun k => k == n || 132 ≤ k || s.chanValid k || !(old.chanValid k))

/-- A host write to a configuration field: DENIED while the lock is closed, RANGE for an invalid configuration (R34).
DESIGN CHOICE (log 78): an accepted write sets EDITED also where it leaves the value as it was. -/
def State.afeEdit (s : State) (a : Nat) (v : Word) : State :=
  match afeCfgChan a with
  | none => s.answer .denied
  | some who =>
    if !(s.powered 4) then s.answer .busy
    else if !s.lockOpen then s.closedAnswer a v
    else
      let s' := s.wr a (s.merged a (lkMask a) v)
      let ok := match who with | some n => s'.editValid s n | none => true
      if ok then (s'.setFlag R.AFE_STATE F.AFE_STATE_EDITED true).noteLk.answer .ok else s.answer .range

def execAfeConfigEdit (_p : Port) (addr : Nat) (val : Word) (t : Time) (s : State) : Out :=
  .next ((s.atTime t).afeEdit addr val)

end Sys2Proof.Machine
end

