-- ==== Sys2Proof/Machine/Sampling.lean ====
section
/-! DEFINITION. From a conversion to a sample word (R58–R78, R87): raw codes and calibration, the range pair, the primary
quantity, curves, cold junctions, scaling, the fault tests of R51 and the delivery of the word. -/

namespace Sys2Proof.Machine

/-- The channel sequencer `q` has selected, if it has one (SEQ_PC.POS). -/
def State.seqChan (s : State) (q : Nat) : Option Nat :=
  let pos := s.fld (R.SEQ_PC q) F.SEQ_PC_POS
  if pos ≤ 16 && s.seqBank q < 8 then some (posChan (s.seqBank q) pos) else none

/-! ### Ranges, raw codes, calibration (R58, R59) -/

/-- Full scale of a range in pV. -/
def fullScale (tag : Nat) : Int :=
  match tag with
  | 0 => 20000000000 | 1 => 80000000000 | 2 => 320000000000
  | 3 => 1280000000000 | 4 => 5120000000000 | _ => 10240000000000

/-- The raw code of a member of range `tag` that sees `u` pV. -/
def rawCode (u : Int) (tag : Nat) : Int := clampInt (-8388608) 8388607 (roundDiv (u * 8388608) (fullScale tag))

/-- A member is overloaded. -/
def overloaded (raw : Int) : Bool := raw ≤ -8388608 || 8388607 ≤ raw

/-- The calibrated code of member `m` of bank `b` on range `tag`. -/
def State.calCode (s : State) (b tag : Nat) (m : Bool) (raw : Int) : Int :=
  roundDiv ((raw - s.sfld (R.AFE_CALOFF b (2 * tag + m.toNat)) F.AFE_CALOFF_OFF) *
    (s.fld (R.AFE_CALGAIN b (2 * tag + m.toNat)) F.AFE_CALGAIN_GAIN)) (2 ^ 30)

/-- The calibrated voltage in 2^−23 pV. -/
def State.calVolt (s : State) (b tag : Nat) (m : Bool) (raw : Int) : Int := s.calCode b tag m raw * fullScale tag

/-! ### The range pair (R61–R64) -/

/-- The reported member (R61): whether it is the upper one. -/
def chooseUpper (wasUpper : Bool) (rawL : Int) : Bool :=
  overloaded rawL || (if wasUpper then decide (6710886 < rawL.natAbs) else decide (7969178 ≤ rawL.natAbs))

/-- The pair move a sample asks for on pair `k` (R62): 1 up, 2 down, 0 none. -/
def decideMove (k minp maxp : Nat) (rawL rawU : Int) : Nat :=
  if (5033165 ≤ rawU.natAbs || overloaded rawU) && k < maxp then 1
  else if rawL.natAbs ≤ 1258291 && !(overloaded rawL) && minp < k then 2
  else 0

/-- A decided move takes effect: the reported range stays reported, and the member that keeps its range keeps its
converter (R62). -/
def HalfSt.applyMove (h : HalfSt) : HalfSt :=
  match h.move with
  | 1 => { h with pair := h.pair + 1, memLow := !h.memLow, upper := false, move := 0 }
  | 2 => { h with pair := h.pair - 1, memLow := !h.memLow, upper := true, move := 0 }
  | _ => h

/-- A pair set other than by an automatic move (R62): member 0 converts the lower range. DESIGN CHOICE (log 78): which
member was reported before, upper or lower, stays as it was, since R61 names no other after PAIR SET or FIX. -/
def HalfSt.setPair (h : HalfSt) (k : Nat) : HalfSt := { h with pair := k, memLow := false, move := 0, stored := none }

/-- One half of a channel. -/
def ChanSt.half (x : ChanSt) (second : Bool) : HalfSt := if second then x.h2 else x.h1

def ChanSt.setHalf (x : ChanSt) (second : Bool) (h : HalfSt) : ChanSt :=
  if second then { x with h2 := h } else { x with h1 := h }

/-- Replace one half of channel `n`; AFE_RNG follows. -/
def State.putHalf (s : State) (n : Nat) (second : Bool) (h : HalfSt) : State :=
  (s.setChan n ((s.chan n).setHalf second h)).showPairs n

/-- A pending move of one half of channel `n` takes effect (R64). -/
def State.movePair (s : State) (n : Nat) (second : Bool) : State :=
  let h := (s.chan n).half second
  if h.move = 0 then s
  else (s.putHalf n second h.applyMove).addFld (R.AFE_RNG n) F.AFE_RNG_MOVC 1

/-! ### Conversion results (R70, R71, R88) -/

/-- Output interval of a filter in ns (R70). -/
def filterInterval (filt : Nat) : Nat :=
  match filt with
  | 0 => 12500 | 1 => 50000 | 2 => 200000 | 3 => 1000000 | 4 => 20000000 | 5 => 16666602 | _ => 100000000

/-- Conversion window of a filter in ns (R70). -/
def filterWindow (filt : Nat) : Nat :=
  match filt with
  | 0 => 37500 | 1 => 150000 | 2 => 800000 | 3 => 4000000 | 4 => 20000000 | 5 => 16666602 | _ => 100000000

/-- AFE_RAWL or AFE_RAWU. -/
def rawWord (raw : Int) (valid : Bool) (tag : Nat) (mem : Bool) : Word :=
  BitVec.ofNat 32 ((overloaded raw).toNat * 2 ^ 31 + valid.toNat * 2 ^ 30 + tag * 2 ^ 27 + mem.toNat * 2 ^ 26 +
    unsignOf 24 raw)

/-- The window that begins at `from_` on the converters of bank `b` is NOT SCANNED: their domain is off, or was within
that window (R115). -/
def State.windowLost (s : State) (b : Nat) (from_ : Time) : Bool :=
  !(s.powered (bankDomain b)) || from_ < tabGet (dflt 0) s.sup.nsUntil (bankDomain b)

/-- The result of a conversion of channel `n` on bank `q` whose window began at `from_` and ends now. DESIGN CHOICE (log
78): UNSETTLED compares the beginning of the window with the settled-at time as it stands when the result completes
(R108). -/
def State.makeRes (s : State) (q n : Nat) (from_ : Time) (uLow uUp : Int) (atCompliance clamp : Bool) (excUv : Int) : Res :=
  let x := s.chan n
  let sq := s.seq q
  let second := s.flag (R.SEQ_PC q) F.SEQ_PC_HALF
  let h := x.half second
  let closed := match x.closedAt with | some t => s.chanType n == 12 && from_ < t + x.settleNs | none => false
  let moved := match (s.bank (chanBank n)).movedAt with
    | some t => fldOf F.AFE_CHEXC_BXHOLD x.exc != 0 && (s.chanType n == 14 || s.chanType n == 15) && from_ < t + x.settleNs
    | none => false
  let tail := (s.liveBits n).testBit bitClamp || (match x.clampEnd with | some t => decide (from_ < t) | none => false)
  { half2 := second, from_ := from_, tagL := h.pair, memL := h.memLow
    rawL := rawCode uLow h.pair, rawU := rawCode uUp (h.pair + 1)
    refill := match sq.refill with | some (m, t) => if from_ < t then m else 0 | none => 0
    curNa := s.current q sq.src, atCompliance := atCompliance, excUv := excUv
    unsettled := from_ < sq.settledAt || closed || moved
    clamp := clamp, clampBad := clamp || tail, ns := s.windowLost q from_ }

/-- AFE_RAWL, AFE_RAWU and AFE_BKBX.BXMV show a conversion of channel `n` on bank `q`. -/
def State.showRaw (s : State) (q n : Nat) (r : Res) : State :=
  if r.ns then s
  else
    let s := s.wr (R.AFE_RAWL n) (rawWord r.rawL (r.refill != 1) r.tagL r.memL)
    let s := s.wr (R.AFE_RAWU n) (rawWord r.rawU (r.refill != 2) (r.tagL + 1) (!r.memL))
    if s.chanType n == 14 || s.chanType n == 15 then
      s.setFld (R.AFE_BKBX q) F.AFE_BKBX_BXMV (roundDiv r.excUv 1000).toNat
    else s

/-! ### Choosing the member and deciding a move (R61, R62, R65, R67–R69, R74 step 1) -/

/-- Members disagree: by more than 0.05 % of the upper member's full scale (R69). -/
def State.membersDisagree (s : State) (q : Nat) (r : Res) : Bool :=
  !(overloaded r.rawL) && !(overloaded r.rawU) && !r.unsettled &&
    decide (fullScale (r.tagL + 1) * 8388608 <
      2000 * dist (s.calVolt q r.tagL r.memL r.rawL) (s.calVolt q (r.tagL + 1) (!r.memL) r.rawU))

/-- Whether the upper member is reported (R61, R64). -/
def reportsUpper (h : HalfSt) (r : Res) : Bool :=
  match r.refill with
  | 1 => true
  | 2 => false
  | _ => chooseUpper h.upper r.rawL

/-- The raw code of the reported member. -/
def reportedRaw (h : HalfSt) (r : Res) : Int := if reportsUpper h r then r.rawU else r.rawL

/-- One measured half: its voltage, tag and conditions (R59, R61, R65, R69). -/
def State.measured (s : State) (q n : Nat) (r : Res) : Half1 :=
  let h := (s.chan n).half r.half2
  let up := reportsUpper h r
  let raw := reportedRaw h r
  let tag := r.tagL + up.toNat
  { volt := s.calVolt q tag (r.memL != up) raw, tag := tag, unsettled := r.unsettled, clip := overloaded raw
    refill := r.refill != 0, pairdis := s.membersDisagree q r, clamp := r.clamp, clampBad := r.clampBad
    open_ := r.atCompliance, ns := r.ns }

/-- The pair state after the sample (R61, R62, R67, R68). -/
def State.halfAfter (s : State) (n : Nat) (r : Res) : HalfSt :=
  let x := s.chan n
  let h := x.half r.half2
  if r.ns || r.unsettled || r.clampBad || r.refill != 0 || h.pair != r.tagL then h
  else
    { h with upper := chooseUpper h.upper r.rawL,
             move := if h.fixed then 0
               else decideMove h.pair (fldOf F.AFE_RNG_MINP x.rng) (fldOf F.AFE_RNG_MAXP x.rng) r.rawL r.rawU }

/-- In continuous conversion the member whose range changes takes its new gain at once, and its filter refills (R64). -/
def State.moveNow (s : State) (q n : Nat) (second : Bool) : State :=
  let m := ((s.chan n).half second).move
  if m = 0 then s
  else (s.movePair n second).setSeq q { s.seq q with refill := some (if m == 1 then 2 else 1, s.now) }

/-! ### Primary quantity (R46, R75) -/

/-- R0 of a Pt TYPE in Ω; a CJC is a Pt1000. -/
def ptR0 (type : Nat) : Option Int :=
  match type with
  | 1 => some 100 | 2 => some 500 | 3 => some 1000 | 17 => some 1000
  | _ => none

/-- Q as a quotient, before rounding: the voltage `v` in 2^−23 pV, the source current in nA, the excitation in µV, the
leads of a 2-wire channel in mΩ. A zero divisor has no quotient. -/
def primaryQuot (type : Nat) (v cur exc lead : Int) : Option (Int × Int) :=
  match ptR0 type with
  | some r0 => if cur = 0 then none else some (2 * (v - lead * 8388608 * cur), cur * r0 * 1000)
  | none =>
    if type == 4 then (if cur = 0 then none else some (v - lead * 8388608 * cur, 8388608 * cur))
    else if type == 10 then some (v, 8388608 * 1000000)
    else if type == 12 || type == 13 then some (v, 8388608 * 50000)
    else if type == 14 || type == 15 then
      (if exc = 0 then none else if exc < 0 then some (-(v * 128), -exc * 1000000) else some (v * 128, exc * 1000000))
    else some (v, 8388608 * 1000)

/-- Whether `x` is a signed 32-bit number. -/
def fits32 (x : Int) : Bool := -(2 ^ 31) ≤ x && x < 2 ^ 31

/-- `x` as a signed 32-bit number. -/
def wrap32 (x : Int) : Int := (BitVec.ofInt 32 x).toInt

/-- Q (R75). Where the quotient does not exist or leaves the signed 32 bits, the manual states no result: a free value
of 32 bits (log 6). -/
def State.primaryQ (s : State) (quot : Option (Int × Int)) : Int × State :=
  let q := quot.map (fun p => roundDiv p.1 p.2)
  match q with
  | some x => if fits32 x then (x, s) else (wrap32 s.freshQ.1, s.freshQ.2)
  | none => (wrap32 s.freshQ.1, s.freshQ.2)

/-! ### Curves, cold junctions, scaling (R76–R78) -/

/-- X0 and SHIFT of the ROM curves (R76). -/
def romShape (slot : Nat) : Int × Nat :=
  match slot with
  | 0 => (2097152, 18) | 1 => (-8388608, 18) | 2 => (-8388608, 19) | 3 => (-8388608, 18) | 4 => (-8388608, 17)
  | 5 => (-16777216, 19) | _ => (-67108864, 20)

/-- Evaluate a curve (R76): the output, and whether the input lies off its span. -/
def evalCurve (x0 : Int) (shift : Nat) (y : Nat → Int) (x : Int) : Int × Bool :=
  let d := x - x0
  if d < 0 then (y 0, true)
  else if 256 * 2 ^ shift < d then (y 256, true)
  else
    let i := (d / 2 ^ shift).toNat
    let f := d % 2 ^ shift
    if i = 256 then (y 256, false) else (y i + (y (i + 1) - y i) * f / 2 ^ shift, false)

/-- The outputs at the ends of the standard range of forward curve `slot`: −200 and 850 °C for CV00 (R76). -/
def romEnds (slot : Nat) : Int × Int := if slot = 0 then (-200000000, 850000000) else Config.romEnds slot

/-- Output `k` of ROM curve `slot` (R76): beyond the standard range of a forward curve the value at the range end. The
worked example of R78 states two outputs of CV00; the others are free (log 5). -/
def romOutput (slot k : Nat) : Int :=
  let x := (romShape slot).1 + k * 2 ^ (romShape slot).2
  if slot = 0 ∧ k = 77 then 85024130
  else if slot = 0 ∧ k = 78 then 89127620
  else if slot ≤ 5 ∧ x < (Config.romRange slot).1 then wrap32 (romEnds slot).1
  else if slot ≤ 5 ∧ (Config.romRange slot).2 < x then wrap32 (romEnds slot).2
  else wrap32 (Config.romCurve slot k)

/-- Evaluate ROM curve `slot`; an input beyond the standard range of a forward curve is off it. -/
def evalRom (slot : Nat) (x : Int) : Int × Bool :=
  let r := evalCurve (romShape slot).1 (romShape slot).2 (romOutput slot) x
  (r.1, r.2 || (slot ≤ 5 && (decide (x < (Config.romRange slot).1) || decide ((Config.romRange slot).2 < x))))

/-- Evaluate the curve of slot `slot` of the curve store. -/
def State.curve (s : State) (slot : Nat) (x : Int) : Int × Bool :=
  if slot ≤ 10 then evalRom slot x
  else match s.img.exec.curves.find? (fun e => e.1 == slot) with
    | some e => evalCurve e.2.x0 e.2.shift (fun k => e.2.y.getD k 0) x
    | none => (x, false)

/-- What the cold junction of a thermocouple channel gives (R77): the voltage, its quality, CJQ, off its curve. -/
structure Cj where
  volt : Int
  quality : Nat
  cjq : Bool
  off : Bool
deriving DecidableEq, Repr

/-- The cold junction of a channel of thermocouple TYPE `type` with CJ field `cj`. -/
def State.coldJunction (s : State) (type cj : Nat) : Cj :=
  let inv := type + 1
  if cj = 4 then
    let r := evalRom inv (s.sfld R.CRV_CJFIX F.CRV_CJFIX_TCJ)
    ⟨r.1, qGood, false, r.2⟩
  else
    let x := s.chan (128 + cj)
    let r := evalRom inv x.engineering
    let q := swQuality x.word
    let old := match x.wordAt with | some t => decide (t + 10 * sec < s.now) | none => false
    let q' := if q == qNotScanned then qBad else if old then worseQ q qUncertain else q
    ⟨r.1, q', q' != qGood, r.2⟩

/-- The engineering value in micro-units (R78). -/
def engineeringOf (y gain offs : Int) : Int := y * gain / 2 ^ 24 + offs

/-- The value of the word before it is limited (R78). -/
def scaledOf (e : Int) (exp : Nat) : Int := roundDiv e (10 ^ (6 - exp))

/-! ### Fault tests of a sample (R51) -/

/-- BXV in µV. -/
def bxvUv (code : Nat) : Int :=
  match code with | 1 => 2500000 | 2 => 5000000 | 3 => 10000000 | _ => 0

/-- OPEN as a sample of `type` finds it. -/
def sampleOpen (type : Nat) (q : Int) (atCompliance : Bool) (exc bxv : Int) : Bool :=
  if usesCurrent type then atCompliance
  else if type == 12 || type == 13 then decide (q < 3600000)
  else if type == 14 || type == 15 then decide (bxv < 20 * dist exc bxv)
  else false

/-- SHORT as a sample of `type` finds it. -/
def sampleShort (type : Nat) (q : Int) (quot : Option (Int × Int)) : Bool :=
  if 1 ≤ type && type ≤ 3 then
    match quot with
    | some p => decide (10 * p.1 < p.2 * 2 ^ 24)
    | none => decide (10 * q < 2 ^ 24)
  else (type == 12 || type == 13) && decide (22000000 < q)

/-- The live bits of channel `n` after a sample (R45, R48, R51, R52). -/
def State.liveAfter (s : State) (hw n type : Nat) (q : Int) (openNow shortNow : Bool) : Nat :=
  let old := s.liveBits n
  let loop := type == 12 || type == 13
  let low := type == 12 && s.flag R.AFE_LOOP F.AFE_LOOP_VLOW
  let held := s.loopHeld n
  let op := ((openNow && !held && !low) || (s.chan n).chkOpen)
  let bx := (type == 14 || type == 15) && s.flag (R.AFE_BKBX hw) F.AFE_BKBX_BXLIM
  let bits : List (Nat × Bool) := [(bitOpen, op), (bitShort, shortNow && !held), (bitClamp, old.testBit bitClamp),
    (bitLooplim, old.testBit bitLooplim), (bitBxlim, bx),
    (bitUnder, loop && decide (3600000 ≤ q) && decide (q < 3800000)),
    (bitOver, loop && decide (20500000 < q) && decide (q ≤ 22000000)), (bitSuplow, low),
    (bitCfgerr, old.testBit bitCfgerr)]
  (bits.map (fun e => if e.2 then 2 ^ e.1 else 0)).sum

/-! ### Delivery (R54, R66, R69, R72, R74, R87) -/

/-- BS is idle (R69, R86). -/
def State.bsIdle (s : State) : Bool :=
  s.fld R.AFE_ROTST F.AFE_ROTST_BSSTATE == 0 && s.fld R.AFE_ROTST F.AFE_ROTST_STEP == 0 && s.served == 0xF

/-- Bank `b` is found suspect by its samples: E18, then its test at its next SEL, or, where BS is not idle, the suspect
mark (R69, R84). A test that waits for another bank's SEL gives way (log 78). -/
def State.suspect (s : State) (b : Nat) : State :=
  let s := s.raise 0x18 b 0
  if b < 8 && s.bsIdle then s.setRotating { s.rot with want := some b }
  else s.setBank b { s.bank b with suspect := true }

/-- Count the run of PAIRDIS samples of bank `b`. -/
def State.countDis (s : State) (b : Nat) (dis : Bool) : State :=
  let run := if dis then (s.bank b).disRun + 1 else 0
  let s := s.setBank b { s.bank b with disRun := run }
  if run = 8 then s.suspect b else s

/-- Deliver the sample of channel `n` from bank `hw`: `a` the first half of a 3-wire measurement (for the others the
measurement itself), `b` the last half, `r` its result, `raw` the code it reports. -/
def State.deliver (s : State) (hw n : Nat) (a b : Half1) (r : Res) (raw : Int) (three : Bool) : State :=
  let x := s.chan n
  let type := s.chanType n
  let volt := if three then a.volt + b.volt else b.volt
  let lead : Int := if usesCurrent type && x.wire == 0 then fldOf F.AFE_CHLEAD_LEAD x.lead else 0
  let quot := primaryQuot type volt r.curNa r.excUv lead
  let pq := s.primaryQ quot
  let q := pq.1
  let s := pq.2
  let tc := 5 ≤ type && type ≤ 9
  let cj : Cj := if tc then s.coldJunction type (fldOf F.CRV_CHCFG_CJ x.crv) else ⟨0, qGood, false, false⟩
  let slot := fldOf F.CRV_CHCFG_CURVE x.crv
  let y := if slot == 0xFF then (q + cj.volt, false) else s.curve slot (q + cj.volt)
  let eng := engineeringOf y.1 x.gain.toInt x.offs.toInt
  let v := scaledOf eng (fldOf F.CRV_CHCFG_EXP x.crv)
  let value := clampInt (-8388608) 8388607 v
  let opened := sampleOpen type q (a.open_ || b.open_) r.excUv (bxvUv (s.bank hw).bxv)
  let s := s.setChan n { x with smpOpen := opened, engineering := eng, wordAt := some s.now }
  let s := s.setLive n (s.liveAfter hw n type q opened (sampleShort type q quot)) (some raw)
  let live := s.liveBits n
  let unsettled := a.unsettled || b.unsettled
  let susp := (s.bank hw).suspect
  let dis := a.pairdis || b.pairdis
  let cond : List Bool := [unsettled, a.clip || b.clip, a.refill || b.refill, y.2 || cj.off, v != value, cj.cjq, dis,
    hw == 8, susp]
  let bad := a.clampBad || b.clampBad ||
    [bitOpen, bitShort, bitLooplim, bitBxlim, bitSuplow].any (fun k => live.testBit k)
  let other := a.clip || b.clip || y.2 || cj.off || v != value || dis || susp || live.testBit bitUnder ||
    live.testBit bitOver || cj.quality == qUncertain
  let quality := worseQ cj.quality (if bad then qBad else if unsettled || other then qUncertain else qGood)
  let changed (h : HalfSt) (tag : Nat) : Bool := match h.prevTag with | some p => p != tag | none => false
  let straddle := if three then changed x.h1 a.tag || changed x.h2 b.tag else changed x.h1 b.tag
  let tag := if three then a.tag else b.tag
  let w := mkSample quality tag straddle (a.clamp || b.clamp) false value
  let y' := s.chan n
  let s := s.setChan n { y' with word := w, h1 := { y'.h1 with prevTag := some tag },
                                 h2 := { y'.h2 with prevTag := if three then some b.tag else y'.h2.prevTag } }
  let s := s.wr (R.CRV_Q n) (BitVec.ofInt 32 q)
  let s := s.wr (R.AFE_SCOND n) (BitVec.ofNat 32 (memberBits cond))
  let s := if straddle then s.addFld (R.AFE_RNG n) F.AFE_RNG_STRC 1 else s
  (s.countDis hw dis).sendWord ⟨n, w, unsettled, other, hw⟩

end Sys2Proof.Machine
end

