-- ==== Sys2Proof/Machine/Views.lean ====
section
/-! DEFINITION. Registers whose word is formed when it is read: remaining times, running counts, windows that a selector
chooses; and the domain that holds each register (R417). -/

namespace Sys2Proof.Machine

/-- The domain that holds the register at `a` (R417; for REC R336). -/
def regDomain (a : Nat) : Nat :=
  match blockNo a with
  | 0x4000 => 1 | 0x4001 => 1 | 0x4002 => 1
  | 0x4008 => 5 | 0x4009 => 5
  | 0x400C => 0
  | 0x400D => if inPd4 a then 4 else 8
  | 0x400E => 10 | 0x400F => 10
  | 0x4010 => 9 | 0x4012 => 9
  | 0x4013 => 8
  | _ => 4

/-- A register stands at `a` (R418). -/
def standsAt (a : Nat) : Bool := (descOf a).isSome

/-- SUB of the running calendar (R300). -/
def State.rtcSub (s : State) : Nat :=
  (clampInt 0 32767 (((s.now - s.rtc.secondAt) * 32768 / sec : Nat) + s.rtc.subOff)).toNat

/-- The view of the selected curve (R89): X0, SHIFT with ROM and LOADED, and output `k`. -/
def State.curveView (s : State) (a : Nat) : Word :=
  let slot := s.fld R.CRV_CSEL F.CRV_CSEL_SLOT
  let c := (s.img.exec.curves.find? (fun e => e.1 == slot)).map (fun e => e.2)
  let rom := slot ≤ 10
  if a = R.CRV_CX0 then BitVec.ofInt 32 (if rom then (romShape slot).1 else (c.map (fun x => x.x0)).getD 0)
  else if a = R.CRV_CSHIFT then
    BitVec.ofNat 32 (if rom then 2 ^ 31 + 2 ^ 30 + (romShape slot).2
      else match c with | some x => 2 ^ 30 + x.shift % 32 | none => 0)
  else
    let k := (a - R.CRV_PT 0) / 4
    BitVec.ofInt 32 (if rom then romOutput slot k else match c with | some x => x.y.getD k 0 | none => 0)

/-- The start record that SYS_LSEL selects (R389). -/
def State.selectedRec (s : State) : Option StartRec := s.sup.ledger[s.fld R.SYS_LSEL F.SYS_LSEL_SEL]?

/-- SYS_LHDR and SYS_LWIN. -/
def State.ledgerView (s : State) (a : Nat) : Word :=
  match s.selectedRec with
  | none => 0
  | some r => if a = R.SYS_LHDR then BitVec.ofNat 32 (r.pcc % 2 ^ 16 + r.cause % 8 * 2 ^ 16)
    else if s.fld R.SYS_LSEL F.SYS_LSEL_SEL = 0 then s.rd (R.SYS_STEP ((a - R.SYS_LWIN 0) / 4))
    else r.entries.getD ((a - R.SYS_LWIN 0) / 4) 0

/-- The word of the register at `a` at this moment, as the node itself reads it. -/
def State.view (s : State) (a : Nat) : Word :=
  if a = R.SEQ_TIME then BitVec.ofNat 32 (if s.powered 4 then s.seqTime else 0)
  else if a = R.CRV_CX0 ∨ a = R.CRV_CSHIFT ∨ (R.CRV_PT 0 ≤ a ∧ a ≤ R.CRV_PT 256) then s.curveView a
  else if a = R.RTC_SEC then putFld F.RTC_SEC_SUB (s.rd a) s.rtcSub
  else if a = R.SYS_LHDR ∨ (R.SYS_LWIN 0 ≤ a ∧ a ≤ R.SYS_LWIN 15) then s.ledgerView a
  else if R.PNL_MAP 0 ≤ a ∧ a ≤ R.PNL_MAP 2047 then
    memWord 0 s.pnl.maps (8192 * s.fld R.PNL_MAPSEL F.PNL_MAPSEL_MAP + (a - R.PNL_MAP 0))
  else if R.ALM_PTMR 0 ≤ a ∧ a ≤ R.ALM_PTMR 15 ∧ (a - R.ALM_PTMR 0) % 128 = 0 then
    BitVec.ofNat 32 (s.planLeft ((a - R.ALM_PTMR 0) / 128))
  else if R.ALM_EST 0 ≤ a ∧ a ≤ R.ALM_EST 2047 ∧ (a - R.ALM_EST 0) % 8 = 0 then
    putFld F.ALM_EST_SHVREM (s.rd a) (s.shelveLeft ((a - R.ALM_EST 0) / 8))
  else s.rd a

/-- The bits of the register at `a` that are WO and read 0 (R4). -/
def woMask (a : Nat) : Word := match descOf a with
  | some d => BitVec.ofNat 32 d.wo
  | none => 0

/-- The register at `a` as a reader sees it. -/
def State.readReg (s : State) (a : Nat) : Word := s.view a &&& ~~~(woMask a)

end Sys2Proof.Machine
end

