-- ==== Sys2Proof/Machine/Calendar.lean ====
section
/-! DEFINITION. The calendar clock (R300–R317) and the watermark of R330. -/

namespace Sys2Proof.Machine

/-! ### Instants (R300) -/

/-- A leap year. -/
def isLeap (y : Nat) : Bool := y % 4 == 0 && (y % 100 != 0 || y % 400 == 0)

/-- The length of month `m` (1–12) of year `y`. -/
def monthLen (y m : Nat) : Nat :=
  match m with
  | 2 => if isLeap y then 29 else 28
  | 4 => 30 | 6 => 30 | 9 => 30 | 11 => 30
  | _ => 31

/-- Days from 2000-01-01 to the first day of the year 2000 + `n`. -/
def yearStart (n : Nat) : Nat := 365 * n + (n + 3) / 4 - (n + 99) / 100 + (n + 399) / 400

/-- Days of the months of year `y` before month `m`. -/
def monthStart (y m : Nat) : Nat := ((List.range (m - 1)).map (fun i => monthLen y (i + 1))).sum

/-- The day number of a date, 0 for 2000-01-01. -/
def dayNumber (y m d : Nat) : Nat := yearStart (y - 2000) + monthStart y m + d - 1

/-- The days of 2000-01-01 to 2399-12-31. -/
def calDays : Nat := 146097

/-- Year, month and day of a day number. -/
def dateOf (n : Nat) : Nat × Nat × Nat :=
  let e := n / 366
  let k := if yearStart (e + 1) ≤ n then e + 1 else e
  let y := 2000 + k
  let r := n - yearStart k
  let m := (((List.range 12).filter (fun i => monthStart y (i + 1) ≤ r)).length)
  (y, m, r - monthStart y m + 1)

/-- DOW of a day number: 1 Monday to 7 Sunday; 2000-01-01 is a Saturday. -/
def dowOf (n : Nat) : Nat := (n + 5) % 7 + 1

/-- A calendar instant to the second: day number and second of the day. -/
def secondsOf (day h m s : Nat) : Nat := day * 86400 + h * 3600 + m * 60 + s

/-- The seconds of 400 years. -/
def calSeconds : Nat := calDays * 86400

/-- The calendar in seconds since 2000-01-01 00:00:00, from its registers. -/
def State.cal (s : State) : Nat :=
  let f (a : Nat) (x : Fld) : Nat := ofBcd (s.fld a x)
  secondsOf (dayNumber (f R.RTC_CENT F.RTC_CENT_CENT * 100 + f R.RTC_YEAR F.RTC_YEAR_YEAR) (f R.RTC_MON F.RTC_MON_MON)
    (f R.RTC_DAY F.RTC_DAY_DAY)) (f R.RTC_HOUR F.RTC_HOUR_HOUR) (f R.RTC_MIN F.RTC_MIN_MIN) (f R.RTC_SEC F.RTC_SEC_SEC)

/-- Give the calendar the instant `n` seconds since 2000-01-01 00:00:00 (modulo 400 years). -/
def State.putCal (s : State) (n : Nat) : State :=
  let n := n % calSeconds
  let d := dateOf (n / 86400)
  let r := n % 86400
  s.wrAll [(R.RTC_SEC, BitVec.ofNat 32 (toBcd (r % 60))), (R.RTC_MIN, BitVec.ofNat 32 (toBcd (r / 60 % 60))),
    (R.RTC_HOUR, BitVec.ofNat 32 (toBcd (r / 3600))), (R.RTC_DOW, BitVec.ofNat 32 (dowOf (n / 86400))),
    (R.RTC_DAY, BitVec.ofNat 32 (toBcd d.2.2)), (R.RTC_MON, BitVec.ofNat 32 (toBcd d.2.1)),
    (R.RTC_YEAR, BitVec.ofNat 32 (toBcd (d.1 % 100))), (R.RTC_CENT, BitVec.ofNat 32 (toBcd (d.1 / 100)))]

/-- The eight calendar bytes SEC to CENT as one number (R318, R193). -/
def State.calBytes (s : State) : Nat :=
  ofLeBytes ([R.RTC_SEC, R.RTC_MIN, R.RTC_HOUR, R.RTC_DOW, R.RTC_DAY, R.RTC_MON, R.RTC_YEAR, R.RTC_CENT].map
    (fun a => BitVec.ofNat 8 (s.rd a).toNat))

/-- The calendar counts in 1/32,768 s. -/
def State.calCounts (s : State) : Nat := s.cal * 32768 + s.rtcSub

/-- SUB becomes `k` now. -/
def State.putSub (s : State) (k : Nat) : State := s.setRtc { s.rtc with secondAt := s.now, subOff := k }

/-- An instant in the layout of RTC_ADUET and RTC_ADUED. -/
def duetWord (n : Nat) : Word :=
  let r := n % 86400
  BitVec.ofNat 32 (toBcd (r / 3600) * 2 ^ 16 + toBcd (r / 60 % 60) * 2 ^ 8 + toBcd (r % 60))

def duedWord (n : Nat) : Word :=
  let d := dateOf (n / 86400)
  BitVec.ofNat 32 (toBcd (d.1 / 100) * 2 ^ 24 + toBcd (d.1 % 100) * 2 ^ 16 + toBcd d.2.1 * 2 ^ 8 + toBcd d.2.2)

/-- The instant two such words hold. -/
def duetInstant (t d : Word) : Nat :=
  let b (w : Word) (lo width : Nat) : Nat := ofBcd (bitsOf w.toNat lo width)
  secondsOf (dayNumber (b d 24 8 * 100 + b d 16 8) (b d 8 5) (b d 0 6)) (b t 16 6) (b t 8 7) (b t 0 7)

/-! ### Events while the node is off, OSF, trust (R313, R314) -/

/-- The node runs (PD1 powered). -/
def State.nodeOn (s : State) : Bool := s.powered 1

/-- An event of CI0: at once while the node runs, at the next start otherwise (R313; log 36). -/
def State.raiseAon (s : State) (code source data : Nat) : State :=
  if s.nodeOn then s.raise code source data
  else s.setRtc { s.rtc with away := s.rtc.away ++ [(code, source, data)] }

/-- The trust code: LBV in bit 0, OSF in bit 1. -/
def State.putTrust (s : State) : State :=
  s.setFld R.RTC_TRUST F.RTC_TRUST_CODE (s.fld R.RTC_TRUST F.RTC_TRUST_LBV + 2 * s.fld R.RTC_TRUST F.RTC_TRUST_OSF)

/-- OSF sets, with E62 where it was 0. -/
def State.setOsf (s : State) (cause : Nat) : State :=
  let was := s.flag R.RTC_TRUST F.RTC_TRUST_OSF
  let s := (s.setFlag R.RTC_TRUST F.RTC_TRUST_OSF true).putTrust
  if was then s else s.raiseAon 0x62 cause 0

/-- The registers of RTC. -/
def inRtc (a : Nat) : Bool := blockNo a == 0x400C

/-- PD0 loses everything it holds and starts at 2000-01-01 with OSF set (R301). -/
def execPd0PowerUp (t : Time) (s : State) : Out :=
  let s := s.atTime t
  let s := s.resetRegs inRtc
  let s := s.setRtc { rtcReset with trimRetained := s.rtc.trimRetained, xt32Bad := s.rtc.xt32Bad }
  let s := (((s.wr R.RTC_TRIM 0).putCal 0).putSub 0).setFlag R.RTC_TRUST F.RTC_TRUST_OSF false
  .next (s.setOsf 0)

/-! ### Counting and the watermark (R300, R301, R330) -/

/-- W, while it is held. -/
def State.watermark (s : State) : Option Nat :=
  if s.flag R.REC_STAT F.REC_STAT_REGW then some (duetInstant (s.rd R.REC_REGWT) (s.rd R.REC_REGWD)) else none

/-- W is cleared where the calendar has reached it. -/
def State.clearWatermark (s : State) : State :=
  match s.watermark with
  | some w => if w ≤ s.cal then
      (s.wrAll [(R.REC_REGWT, 0), (R.REC_REGWD, 0)]).setFlag R.REC_STAT F.REC_STAT_REGW false
    else s
  | none => s

/-- A backward adjustment from `old`: W becomes the later of W and `old`. -/
def State.raiseWatermark (s : State) (old : Nat) : State :=
  let w := Nat.max old (s.watermark.getD 0)
  (s.wrAll [(R.REC_REGWT, duetWord w), (R.REC_REGWD, duedWord w)]).setFlag R.REC_STAT F.REC_STAT_REGW true

/-- SUB has reached its wrap (R300). -/
def State.secondDue (s : State) : Bool :=
  (32768 : Int) ≤ ((s.now - s.rtc.secondAt) * 32768 / sec : Nat) + s.rtc.subOff

/-- SUB wraps: the next second runs from the count at which it did. -/
def State.wrapSub (s : State) : State :=
  let counts := (32768 - s.rtc.subOff).toNat
  s.setRtc { s.rtc with secondAt := s.rtc.secondAt + (counts * sec + 32767) / 32768, subOff := 0, trimDue := true,
                        refTaken := false }

/-- The carry of one second; after 2399-12-31 23:59:59 the calendar wraps (R301). -/
def State.carrySecond (s : State) : State :=
  let n := s.cal + 1
  let s := (s.putCal n).wrapSub
  if n = calSeconds then (s.setOsf 2).raiseAon 0x67 0 0 else s

/-- A running measurement counts the second (R309). -/
def State.countMeasure (s : State) : State :=
  if s.rtc.measure.isSome && s.fld R.RTC_TRIMCMD F.RTC_TRIMCMD_SECS < 1000 then
    s.addFld R.RTC_TRIMCMD F.RTC_TRIMCMD_SECS 1
  else s

/-- A second boundary: what waits for one falls due (R303, R305). -/
def State.calSecond (s : State) : State :=
  let s := s.carrySecond
  let s := s.setRtc { s.rtc with set := s.rtc.set.map (fun x => (x.1, true)), dst := s.rtc.dst.map (fun x => (x.1, true)) }
  s.countMeasure.clearWatermark

def execCalendarSecond (t : Time) (s : State) : Out :=
  let s := s.atTime t
  .next (if s.secondDue then s.calSecond else s)

/-! ### Shadows (R302) -/

/-- The shadow of a reader: 0 the cores, 1 the host, 2 the service port. -/
def readerNo (p : Option Port) : Nat :=
  match p with
  | none => 0
  | some .host => 1
  | some .svc => 2

def State.setShadow (s : State) (i : Nat) (x : Option (List Word × Time)) : State :=
  s.setRtc { s.rtc with shadows := tabSet (dflt none) s.rtc.shadows i x }

/-- The eight calendar words as they stand. -/
def State.calWords (s : State) : List Word :=
  [R.RTC_SEC, R.RTC_MIN, R.RTC_HOUR, R.RTC_DOW, R.RTC_DAY, R.RTC_MON, R.RTC_YEAR, R.RTC_CENT].map s.view

/-- A read of RTC_SEC freezes the reader's shadow. -/
def State.freezeCal (s : State) (p : Option Port) : State := s.setShadow (readerNo p) (some (s.calWords, s.now))

/-- A read of RTC_CENT releases it. -/
def State.releaseCal (s : State) (p : Option Port) : State := s.setShadow (readerNo p) none

def execRtcSecRead (p : Option Port) (t : Time) (s : State) : Out := .next ((s.atTime t).freezeCal p)
def execRtcCentRead (p : Option Port) (s : State) : Out := .next (s.releaseCal p)

/-- RTC_SHADOW_TIMEOUT comes when the shadow of reader `p` has been held for 1 s (R302; log 1). -/
def execRtcShadowTimeout (p : Option Port) (s : State) : Out :=
  .next (match tabGet (dflt none) s.rtc.shadows (readerNo p) with
    | some (_, frozen) => (s.atTime (frozen + sec)).releaseCal p
    | none => s)

/-- A calendar register as reader `p` sees it: RTC_SEC live, the others from a held shadow. -/
def State.calFor (s : State) (p : Option Port) (a : Nat) : Word :=
  if a = R.RTC_SEC then s.view a
  else match tabGet (dflt none) s.rtc.shadows (readerNo p) with
    | some (l, _) => l.getD ((a - R.RTC_SEC) / 4) 0
    | none => s.view a

/-! ### Setting (R303–R307) -/

/-- The staged instant, where DAY lies within the staged month. -/
def State.staged (s : State) : Option Nat :=
  let f (a : Nat) (x : Fld) : Nat := ofBcd (s.fld a x)
  let y := f R.RTC_SCENT F.RTC_SCENT_CENT * 100 + f R.RTC_SYEAR F.RTC_SYEAR_YEAR
  let m := f R.RTC_SMON F.RTC_SMON_MON
  let d := f R.RTC_SDAY F.RTC_SDAY_DAY
  if d ≤ monthLen y m then
    some (secondsOf (dayNumber y m d) (f R.RTC_SHOUR F.RTC_SHOUR_HOUR) (f R.RTC_SMIN F.RTC_SMIN_MIN) (f R.RTC_SSEC F.RTC_SSEC_SEC))
  else none

/-- RTC_SET with MODE `mode`. -/
def State.commandSet (s : State) (mode : Nat) : State :=
  match s.staged with
  | none => s.answer .range
  | some _ => ((s.setRtc { s.rtc with set := some (mode, false) }).setFlag R.RTC_SET F.RTC_SET_PEND true).answer .ok

def execRtcSetAtSecond (_p : Port) (s : State) : Out := .next (s.commandSet 1)
def execRtcSetImmediate (_p : Port) (s : State) : Out := .next (s.commandSet 2)

/-- RTC_SHIFT: BUSY while one is pending; a COUNT of 0 does nothing (R304, R306). -/
def State.commandShift (s : State) (neg : Bool) (count : Nat) : State :=
  if s.rtc.shift.isSome then s.answer .busy
  else if count = 0 then s.answer .ok
  else ((s.setRtc { s.rtc with shift := some (neg, count) }).setFlag R.RTC_SHIFT F.RTC_SHIFT_PEND true).answer .ok

def execRtcShift (_p : Port) (neg : Bool) (count : BitVec 15) (s : State) : Out := .next (s.commandShift neg count.toNat)

/-- RTC_DST: STATE where ST does not allow it, BUSY while a change is pending (R305, R306). -/
def State.commandDst (s : State) (forward : Bool) : State :=
  if s.flag R.RTC_DST F.RTC_DST_ST == forward then s.answer .state
  else if s.rtc.dst.isSome then s.answer .busy
  else ((s.setRtc { s.rtc with dst := some (forward, false) }).setFlag R.RTC_DST F.RTC_DST_PEND true).answer .ok

def execDstForward (_p : Port) (s : State) : Out := .next (s.commandDst true)
def execDstBack (_p : Port) (s : State) : Out := .next (s.commandDst false)

/-- The calendar goes from its present reading to `n` seconds and `sub` counts: E60 of kind `src` with the old calendar,
and the watermark where the adjustment is backward (R307, R330). -/
def State.adjust (s : State) (n sub src : Nat) : State :=
  let old := s.cal
  let oldCounts := s.calCounts
  let oldBytes := s.calBytes
  let s := (s.putCal n).putSub sub
  let s := if s.calCounts < oldCounts then s.raiseWatermark old else s
  s.raiseAon 0x60 src oldBytes

/-- The pending set is applied; pending shifts and summer-time commands are discarded (R303, R306). -/
def State.applySet (s : State) (mode : Nat) : State :=
  let s := match s.staged with
    | some n => s.adjust n 0 (mode - 1)
    | none => s
  let s := s.setRtc { s.rtc with set := none, shift := none, dst := none }
  let s := ((s.setFlag R.RTC_SET F.RTC_SET_PEND false).setFlag R.RTC_SHIFT F.RTC_SHIFT_PEND false).setFlag R.RTC_DST F.RTC_DST_PEND false
  (s.setFlag R.RTC_TRUST F.RTC_TRUST_OSF false).putTrust

/-- The summer-time change is applied. -/
def State.applyDst (s : State) (forward : Bool) : State :=
  let sub := s.rtcSub
  let s := s.adjust (if forward then s.cal + 3600 else s.cal + calSeconds - 3600) sub (if forward then 2 else 3)
  let s := s.setRtc { s.rtc with dst := none }
  (s.setFlag R.RTC_DST F.RTC_DST_PEND false).setFlag R.RTC_DST F.RTC_DST_ST forward

/-- The shift is applied. -/
def State.applyShift (s : State) (neg : Bool) (count : Nat) : State :=
  let c := if neg then s.calCounts + calSeconds * 32768 - count else s.calCounts + count
  let s := s.adjust (c / 32768) (c % 32768) 4
  (s.setRtc { s.rtc with shift := none }).setFlag R.RTC_SHIFT F.RTC_SHIFT_PEND false

/-- The pending adjustments that are due at a count boundary, in the order of R306. -/
def State.applyAdjust (s : State) : State :=
  let due : Option Nat := match s.rtc.set with
    | some (mode, second) => if mode == 2 || second then some mode else none
    | none => none
  let s := match due with
    | some mode => s.applySet mode
    | none =>
      let s := match s.rtc.dst with
        | some (f, true) => s.applyDst f
        | _ => s
      match s.rtc.shift with
      | some (neg, k) => s.applyShift neg k
      | none => s
  s.clearWatermark

def execRtcAdjustApply (t : Time) (s : State) : Out := .next (s.atTime t).applyAdjust

/-! ### Trim (R308, R309) -/

/-- TRIM as a signed number. -/
def State.trim (s : State) : Int := s.sfld R.RTC_TRIM F.RTC_TRIM_TRIM

/-- Each 10,000,000 in A adds or holds one count. -/
def State.accumulate (s : State) : State :=
  let a := s.rtc.acc + s.trim * 32768
  let k := Int.tdiv a 10000000
  s.setRtc { s.rtc with acc := a - k * 10000000, subOff := s.rtc.subOff + k, trimTotal := s.rtc.trimTotal + k,
                        trimDue := false }

/-- Once per second (R308). -/
def execTrimAccumulate (s : State) : Out := .next (if s.rtc.trimDue then s.accumulate else s)

/-- The trimmed count of 1/32,768 s, which no adjustment moves (R309). -/
def State.xtCount (s : State) : Int := (s.now * 32768 / sec : Nat) + s.rtc.trimTotal

/-- TRIM takes `v` and is mirrored to the retained state. -/
def State.putTrim (s : State) (v : Int) : State :=
  let s := s.setSfld R.RTC_TRIM F.RTC_TRIM_TRIM v
  s.setRtc { s.rtc with trimRetained := unsignOf 13 v }

/-- A measurement ends with outcome `res` and error `e` in 0.001 ppm: E65. -/
def State.endMeasure (s : State) (res : Nat) (e : Int) : State :=
  let s := s.setRtc { s.rtc with measure := none }
  let s := (s.setFlag R.RTC_TRIMCMD F.RTC_TRIMCMD_BUSY false).setFld R.RTC_TRIMCMD F.RTC_TRIMCMD_RES res
  s.raiseAon 0x65 res (unsignOf 32 e + 2 ^ 32 * unsignOf 16 s.trim)

/-- A measurement cut short has no error the manual states: E65 carries a free value (log 6). -/
def State.cutMeasure (s : State) (res : Nat) : State :=
  if s.rtc.measure.isSome then s.freshWord.2.endMeasure res s.freshWord.1.toInt else s

/-- A write of TRIM (R308, R317): DENIED, RANGE; E66; a running measurement ends with RES 3. -/
def State.writeTrim (s : State) (v : Nat) : State :=
  let x := signOf 13 v
  if !s.lockOpen then s.closedAnswer R.RTC_TRIM (BitVec.ofNat 32 v)
  else if x < -2559 ∨ 2559 < x then s.answer .range
  else
    let old := s.trim
    let s := (s.putTrim x).raiseAon 0x66 (unsignOf 16 old) (unsignOf 16 x)
    (s.cutMeasure 3).noteLk.answer .ok

def execRtcTrimWrite (_p : Port) (v : BitVec 13) (t : Time) (s : State) : Out := .next ((s.atTime t).writeTrim v.toNat)

/-- Start a measurement: DENIED while the lock is closed, BUSY while one runs. -/
def State.startMeasure (s : State) (host : Bool) : State :=
  if !s.lockOpen then s.answer .denied
  else if s.rtc.measure.isSome then s.answer .busy
  else
    let s := s.setRtc { s.rtc with measure := some host, refBase := none, refLast := none, refTaken := false }
    let s := (s.setFlag R.RTC_TRIMCMD F.RTC_TRIMCMD_BUSY true).setFld R.RTC_TRIMCMD F.RTC_TRIMCMD_RES 0
    (s.setFld R.RTC_TRIMCMD F.RTC_TRIMCMD_SECS 0).noteLk.answer .ok

/-- RTC_TRIMCMD.CMD = 1 with NOM. -/
def State.measureMains (s : State) (nom : Bool) : State :=
  if !s.lockOpen ∨ s.rtc.measure.isSome then s.startMeasure false
  else (s.setFlag R.RTC_TRIMCMD F.RTC_TRIMCMD_NOM nom).startMeasure false

/-- RTC_TRIMCMD.CMD = 3. -/
def State.abortMeasure (s : State) : State :=
  if !s.lockOpen then s.answer .denied else (s.cutMeasure 5).noteLk.answer .ok

def execTrimMeasureMains (_p : Port) (nom : Bool) (t : Time) (s : State) : Out := .next ((s.atTime t).measureMains nom)

def execTrimMeasureHost (_p : Port) (t : Time) (s : State) : Out := .next ((s.atTime t).startMeasure true)

def execTrimMeasureAbort (_p : Port) (t : Time) (s : State) : Out := .next ((s.atTime t).abortMeasure)

/-- A host-time measurement takes the first ring header of each calendar second, with host time `host` in ns; one that
differs from the calendar by more than 100 ms since the one before ends it (R309). -/
def State.takeReference (s : State) (host : Nat) : State :=
  if s.rtc.measure != some true || s.rtc.refTaken then s
  else
    let x := (host, s.xtCount)
    let far : Bool := match s.rtc.refLast with
      | some (h, c) => 100 * ms * 32768 < (((host : Int) - h) * 32768 - (x.2 - c) * sec).natAbs
      | none => false
    if far then s.cutMeasure 2
    else s.setRtc { s.rtc with refBase := some (s.rtc.refBase.getD x), refLast := some x, refTaken := true }

/-- The error of a host-time measurement in 0.001 ppm: the calendar's time between the first header and the latest one less
the host's, over the host's. -/
def State.hostError (s : State) : Option Int :=
  match s.rtc.refBase, s.rtc.refLast with
  | some (h0, c0), some (h, c) =>
    if h0 < h then some (roundDiv (((c - c0) * sec - (h - h0 : Nat) * 32768) * sec) ((h - h0) * 32768)) else none
  | _, _ => none

/-- The reference of a measurement is lost: for host time there is no header for 1 s; of mains edges the node is told. -/
def State.referenceLost (s : State) : Bool :=
  match s.rtc.measure, s.rtc.refLast with
  | some true, some (_, c) => decide (c + 32768 ≤ s.xtCount)
  | some true, none => decide (1 ≤ s.fld R.RTC_TRIMCMD F.RTC_TRIMCMD_SECS)
  | _, _ => true

/-- The end of a measurement: the reference lost (RES 2), or the error after 1,000 s: by host time what the headers say,
by the mains what is measured, `e`, in 0.001 ppm (log 81). -/
def State.finishMeasure (s : State) (lostRef : Bool) (e : Int) : State :=
  if s.rtc.measure.isNone then s
  else if lostRef then (if s.referenceLost then s.cutMeasure 2 else s)
  else if s.fld R.RTC_TRIMCMD F.RTC_TRIMCMD_SECS < 1000 then s
  else if s.rtc.measure == some true && s.hostError.isNone then s.cutMeasure 2
  else
    let e := if s.rtc.measure == some true then s.hostError.getD e else e
    let s := s.setSfld R.RTC_TRIMERR F.RTC_TRIMERR_ERR e
    let x := s.trim - roundDiv e 100
    if x < -2559 ∨ 2559 < x then s.endMeasure 4 e else (s.putTrim x).endMeasure 1 e

def execTrimMeasureEnd (lostRef : Bool) (e : Int) (t : Time) (s : State) : Out :=
  .next ((s.atTime t).finishMeasure lostRef e)

/-! ### Calendar alarms (R311–R313) -/

/-- The match of alarm `k`. -/
structure Match where
  mask : Nat
  time : Word
  date : Word
deriving DecidableEq, Repr

def State.alarmMatch (s : State) (k : Nat) : Match :=
  ⟨s.fld (R.RTC_ACFG k) F.RTC_ACFG_MASK, s.rd (R.RTC_ATIME k), s.rd (R.RTC_ADATE k)⟩

/-- A field matches: its enable bit is 0, or it equals the BCD value of `v`. -/
def fieldOk (x : Match) (bit : Nat) (w : Word) (f : Fld) (v : Nat) : Bool :=
  !(x.mask.testBit bit) || fldOf f w == toBcd v

def Match.secOk (x : Match) (v : Nat) : Bool := fieldOk x 5 x.time F.RTC_ATIME_SEC v
def Match.minOk (x : Match) (v : Nat) : Bool := fieldOk x 4 x.time F.RTC_ATIME_MIN v
def Match.hourOk (x : Match) (v : Nat) : Bool := fieldOk x 3 x.time F.RTC_ATIME_HOUR v

/-- Day number `n` matches. -/
def Match.dayOk (x : Match) (n : Nat) : Bool :=
  let d := dateOf n
  fieldOk x 2 x.date F.RTC_ADATE_DOW (dowOf n) && fieldOk x 1 x.date F.RTC_ADATE_DAY d.2.2 &&
    fieldOk x 0 x.date F.RTC_ADATE_MON d.2.1

/-- The first matching second of a day at or after hour `h0`, minute `m0`, second `s0`. -/
def Match.timeFrom (x : Match) (h0 m0 s0 : Nat) : Option Nat :=
  let first (ok : Nat → Bool) (from_ n : Nat) : Option Nat := (List.range n).find? (fun v => from_ ≤ v && ok v)
  let inMinute (h m : Nat) : Option Nat := (first x.secOk s0 60).map (fun v => h * 3600 + m * 60 + v)
  let inHour (h m : Nat) : Option Nat :=
    match first x.minOk m 60, first x.secOk 0 60 with
    | some m', some v => some (h * 3600 + m' * 60 + v)
    | _, _ => none
  let later (h : Nat) : Option Nat :=
    match first x.hourOk h 24 with
    | some h' => inHour h' 0
    | none => none
  let here := if x.hourOk h0 then
      (match (if x.minOk m0 then inMinute h0 m0 else none) with
       | some r => some r
       | none => inHour h0 (m0 + 1))
    else none
  match here with
  | some r => some r
  | none => later (h0 + 1)

/-- The first matching day at or after `n`, among `fuel` days. -/
def Match.dayFrom (x : Match) : Nat → Nat → Option Nat
  | 0, _ => none
  | fuel + 1, n => if x.dayOk n then some n else x.dayFrom fuel (n + 1)

/-- The first matching instant strictly after `n` (R311), up to 2399-12-31. -/
def Match.after (x : Match) (n : Nat) : Option Nat :=
  let t := n + 1
  let day := t / 86400
  let today := if day < calDays && x.dayOk day then x.timeFrom (t % 86400 / 3600) (t / 60 % 60) (t % 60) else none
  match today with
  | some r => some (day * 86400 + r)
  | none =>
    match x.dayFrom (calDays - (day + 1)) (day + 1), x.timeFrom 0 0 0 with
    | some d, some r => some (d * 86400 + r)
    | _, _ => none

/-- D of alarm `k`. -/
def State.alarmDue (s : State) (k : Nat) : Nat := duetInstant (s.rd (R.RTC_ADUET k)) (s.rd (R.RTC_ADUED k))

def State.putAlarmDue (s : State) (k n : Nat) : State := s.wrAll [(R.RTC_ADUET k, duetWord n), (R.RTC_ADUED k, duedWord n)]

/-- EN of alarm `k` goes to 1: D, or RANGE for a match that never occurs. -/
def State.enableAlarm (s : State) (k : Nat) : State :=
  if s.flag (R.RTC_ACFG k) F.RTC_ACFG_EN then s.answer .ok
  else match (s.alarmMatch k).after s.cal with
    | some n => ((s.putAlarmDue k n).setFlag (R.RTC_ACFG k) F.RTC_ACFG_EN true).answer .ok
    | none => s.answer .range

def execAlarmEnable (_p : Port) (k : Fin 4) (t : Time) (s : State) : Out := .next ((s.atTime t).enableAlarm k)

/-- Alarm `k` fires: E61 carries SKIPPED and MISSED in byte 0, then D (log 35). -/
def State.fireAlarm (s : State) (k : Nat) : State :=
  let d := s.alarmDue k
  let skipped := decide (d * 32768 < s.calCounts)
  let missed := !s.nodeOn
  let data := skipped.toNat + 2 * missed.toNat + 2 ^ 8 * (s.rd (R.RTC_ADUET k)).toNat + 2 ^ 32 * (s.rd (R.RTC_ADUED k)).toNat
  let s := (s.setFlag (R.RTC_ACFG k) F.RTC_ACFG_FLAG true).raiseAon 0x61 k data
  let s := if skipped then s.setFlag (R.RTC_ACFG k) F.RTC_ACFG_SKIPPED true else s
  let s := if missed then s.setFlag (R.RTC_ACFG k) F.RTC_ACFG_MISSED true else s
  if s.flag (R.RTC_ACFG k) F.RTC_ACFG_REPEAT then
    match (s.alarmMatch k).after s.cal with
    | some n => s.putAlarmDue k n
    | none => s.setFlag (R.RTC_ACFG k) F.RTC_ACFG_EN false
  else s.setFlag (R.RTC_ACFG k) F.RTC_ACFG_EN false

def execCalendarAlarmFire (k : Fin 4) (t : Time) (s : State) : Out :=
  let s := s.atTime t
  .next (if s.flag (R.RTC_ACFG k) F.RTC_ACFG_EN && s.alarmDue k ≤ s.cal then s.fireAlarm k else s)

/-- A 1 written to FLAG clears FLAG, SKIPPED and MISSED. -/
def State.clearAlarmFlag (s : State) (k : Nat) : State :=
  ((s.setFlag (R.RTC_ACFG k) F.RTC_ACFG_FLAG false).setFlag (R.RTC_ACFG k) F.RTC_ACFG_SKIPPED false).setFlag (R.RTC_ACFG k)
    F.RTC_ACFG_MISSED false

def execAlarmFlagClear (_p : Port) (k : Fin 4) (s : State) : Out := .next ((s.clearAlarmFlag k).answer .ok)

/-! ### Crystal, cell, supply (R314, R315) -/

def execXt32Fail (t : Time) (s : State) : Out :=
  let s := s.atTime t
  .next (((s.setRtc { s.rtc with xt32Bad := true }).setFlag R.CLK_REF F.CLK_REF_XT32_OK false).setOsf 1)

def execXt32Restore (s : State) : Out :=
  .next ((s.setRtc { s.rtc with xt32Bad := false }).setFlag R.CLK_REF F.CLK_REF_XT32_OK true)

/-- A sample of the cell, in mV: LBV below 2.30 V, clear from 2.40 V. -/
def State.sampleCell (s : State) (mv vrtc : Nat) : State :=
  let was := s.flag R.RTC_TRUST F.RTC_TRUST_LBV
  let new := if mv < 2300 then true else if 2400 ≤ mv then false else was
  let s := (s.setFld R.RTC_VBAT F.RTC_VBAT_VCELL mv).setFld R.RTC_VBAT F.RTC_VBAT_VRTC vrtc
  let s := (s.setFlag R.RTC_TRUST F.RTC_TRUST_LBV new).putTrust
  if was == new then s else s.raise 0x63 new.toNat mv

def execCellSample (mv vrtc : BitVec 16) (s : State) : Out :=
  .next (if s.nodeOn then s.sampleCell mv.toNat vrtc.toNat else s)

/-- VRTC and the cell voltage, in mV, at which the calendar's supply changes over (R315). -/
def State.changesOver (s : State) (toMain : Bool) (vrtc vcell : Nat) : Bool :=
  (s.flag R.RTC_TRUST F.RTC_TRUST_ONCELL == toMain) &&
    (if toMain then vcell + 60 < vrtc && 2750 < vrtc else vrtc < vcell || vrtc < 2600)

/-- The changeover, with E64 while PD1 runs. -/
def State.changeOver (s : State) (toMain : Bool) (vrtc vcell : BitVec 16) : State :=
  let s := s.setFlag R.RTC_TRUST F.RTC_TRUST_ONCELL (!toMain)
  if s.nodeOn then s.raise 0x64 toMain.toNat (vrtc.toNat + 2 ^ 16 * vcell.toNat) else s

def execVrtcChangeover (toMain : Bool) (vrtc vcell : BitVec 16) (s : State) : Out :=
  .next (if s.changesOver toMain vrtc.toNat vcell.toNat then s.changeOver toMain vrtc vcell else s)

end Sys2Proof.Machine
end

