-- ==== Sys2Proof/Machine/Crossings.lean ====
section
/-! DEFINITION. The islands, their domains, and the crossings between them (R10, R13, R14). A crossing carries words
that the models of its two ends produce and take; what a word carries is acted on by the command of its owner. -/

namespace Sys2Proof.Machine

/-- The islands a domain holds. -/
def domainIslands (d : Nat) : List Nat := (List.range 16).filter (fun i => islandDomain i == d)

/-- The number under which a crossing is held, and its sending and receiving island (R13). -/
def crossEnds : Crossing → Nat × Nat × Nat
  | .modlSeq => (0, 7, 4) | .modhSeq => (1, 8, 4) | .seqLim => (2, 4, 5) | .limTrip => (3, 5, 6)
  | .tripLim => (4, 6, 5) | .tripDio => (5, 6, 12) | .dioLim => (6, 12, 5) | .limCoreA => (7, 5, 2)
  | .limCoreB => (8, 5, 3) | .coreALim => (9, 2, 5) | .coreBLim => (10, 3, 5) | .coreANvm => (11, 2, 9)
  | .coreBNvm => (12, 3, 9) | .nvmCoreA => (13, 9, 2) | .nvmCoreB => (14, 9, 3) | .coreAB => (15, 2, 3)
  | .coreBA => (16, 3, 2) | .limNvm => (17, 5, 9) | .limLnkA => (18, 5, 10) | .lnkALim => (19, 10, 5)
  | .limLnkB => (20, 5, 11) | .lnkBLim => (21, 11, 5) | .limGls => (22, 5, 13) | .tripGls => (23, 6, 13)
  | .limPnl => (24, 5, 14) | .aonLim => (25, 0, 5)
  | .supTo i => (32 + i, 1, i) | .toSup i => (48 + i, i, 1)

/-- The ends of the crossing held under number `x`. -/
def crossIslands (x : Nat) : Nat × Nat :=
  if 48 ≤ x then (x - 48, 1) else if 32 ≤ x then (1, x - 32)
  else [(7, 4), (8, 4), (4, 5), (5, 6), (6, 5), (6, 12), (12, 5), (5, 2), (5, 3), (2, 5), (3, 5), (2, 9), (3, 9), (9, 2),
    (9, 3), (2, 3), (3, 2), (5, 9), (5, 10), (10, 5), (5, 11), (11, 5), (5, 13), (6, 13), (5, 14), (0, 5)].getD x (0, 0)

/-- The crossing held under number `x`. -/
def State.cross (s : State) (x : Nat) : Cross := tabGet (dflt crossReset) s.xing x

/-- Replace it. -/
def State.setCross (s : State) (x : Nat) (c : Cross) : State :=
  { s with xing := tabSet (dflt crossReset) s.xing x c }

/-- The words of crossing `x` that are on their way at `t`. -/
def Cross.inFlight (c : Cross) (t : Time) : List Time := c.busy.filter (fun u => t < u)

/-- A crossing's FIFO of four words is full of words that are handed on by command: a sender waits (R13). -/
def State.crossFull (s : State) (x : Nat) : Bool := 4 ≤ (s.cross x).fifo.length

/-- One word passes crossing `x`, which takes a word per 10 ns. With four words in the FIFO the sender waits until the
first of them has left (R13, R208). -/
def State.passWord (s : State) (x : Nat) : State :=
  let c := s.cross x
  let l := c.inFlight s.now
  let s := if l.length + c.fifo.length < 4 then s else s.atTime (l.headD s.now)
  let l := c.inFlight s.now
  s.setCross x { c with busy := l ++ [Nat.max s.now (l.getLastD 0) + 10] }

/-- `n` words pass crossing `x`, one after the other. -/
def State.passWords (s : State) (x n : Nat) : State := foldS (fun s _ => s.passWord x) s (List.range n)

/-- A word joins the crossing: beyond four it waits with its sender; nothing is dropped. -/
def State.crossSend (s : State) (x : Nat) (w : BitVec 64) : State :=
  s.setCross x { s.cross x with fifo := (s.cross x).fifo ++ [w] }

/-- The head word becomes usable in the receiving island, while both ends run (R13, R14). -/
def State.crossMove (s : State) (x : Nat) : State :=
  match (s.cross x).fifo with
  | [] => s
  | w :: l => s.setCross x { s.cross x with fifo := l, usable := (s.cross x).usable ++ [w] }

def execCrossingTransfer (x : Crossing) (send : Option (BitVec 64)) (s : State) : Out :=
  let e := crossEnds x
  .next (match send with
    | some w => if s.islandRuns e.2.1 then s.crossSend e.1 w else s
    | none => if s.islandRuns e.2.1 && s.islandRuns e.2.2 then s.crossMove e.1 else s)

/-- At the start of a cycle of domain `d` its crossings are reset on both sides and the words in flight discarded
(R14). -/
def State.resetCrossings (s : State) (d : Nat) : State :=
  let touches (x : Nat) : Bool :=
    islandDomain (crossIslands x).1 == d || islandDomain (crossIslands x).2 == d
  s.keepCrossings (fun x => !(touches x))

end Sys2Proof.Machine
end

