-- ==== Sys2Proof/Machine/Crypto.lean ====
section
/-! DEFINITION. CRC-32C (R220) and HMAC-SHA-256 (R365), by structural recursion. -/

namespace Sys2Proof.Machine

/-! ### CRC-32C -/

/-- One bit step of the reflected CRC with polynomial 0x82F63B78 (Castagnoli). -/
def crcBit (c : BitVec 32) : BitVec 32 := if c.getLsbD 0 then (c >>> 1) ^^^ 0x82F63B78 else c >>> 1

/-- `n` bit steps. -/
def crcBits : Nat → BitVec 32 → BitVec 32
  | 0, c => c
  | n + 1, c => crcBits n (crcBit c)

/-- One byte. -/
def crcByte (c : BitVec 32) (b : Byte) : BitVec 32 := crcBits 8 (c ^^^ b.zeroExtend 32)

/-- CRC-32C of `l`: initial value and final XOR 0xFFFF_FFFF. -/
def crc32c (l : List Byte) : Word := (l.foldl crcByte 0xFFFFFFFF) ^^^ 0xFFFFFFFF

/-! ### SHA-256 (FIPS 180-4) -/

def rotr (x : Word) (n : Nat) : Word := x.rotateRight n

def shaCh (x y z : Word) : Word := (x &&& y) ^^^ (~~~x &&& z)
def shaMaj (x y z : Word) : Word := (x &&& y) ^^^ (x &&& z) ^^^ (y &&& z)
def shaS0 (x : Word) : Word := rotr x 2 ^^^ rotr x 13 ^^^ rotr x 22
def shaS1 (x : Word) : Word := rotr x 6 ^^^ rotr x 11 ^^^ rotr x 25
def shaG0 (x : Word) : Word := rotr x 7 ^^^ rotr x 18 ^^^ (x >>> 3)
def shaG1 (x : Word) : Word := rotr x 17 ^^^ rotr x 19 ^^^ (x >>> 10)

/-- The `k`-th root of `x`, truncated, found bit by bit from bit `n` − 1 down, added to what is known of it. -/
def rootBits (k x : Nat) : Nat → Nat → Nat
  | 0, known => known
  | n + 1, known => rootBits k x n (if (known + 2 ^ n) ^ k ≤ x then known + 2 ^ n else known)

/-- The first 32 bits of the fraction of the `k`-th root of `p`, from which every constant of the hash is taken. -/
def rootFraction (k p : Nat) : Word := BitVec.ofNat 32 (rootBits k (p * 2 ^ (32 * k)) 37 0)

/-- The primes below 312: the first 64. -/
def shaPrimes : List Nat :=
  (List.range 312).filter (fun p => 2 ≤ p && (List.range p).all (fun d => d < 2 || p % d != 0))

/-- The constant of each of the 64 rounds: cube roots. -/
def shaRounds : List Word := shaPrimes.map (rootFraction 3)

/-- The hash before the first block: square roots of the first eight primes. -/
def shaInit : List Word := (shaPrimes.take 8).map (rootFraction 2)

/-- The message schedule: `n` further words after those in `w` (newest first). -/
def shaSchedule : Nat → List Word → List Word
  | 0, w => w
  | n + 1, w =>
    shaSchedule n ((shaG1 (w.getD 1 0) + w.getD 6 0 + shaG0 (w.getD 14 0) + w.getD 15 0) :: w)

/-- One round with constant plus schedule word `kw`. -/
def shaRound (h : List Word) (kw : Word) : List Word :=
  let g (i : Nat) : Word := h.getD i 0
  let t1 := g 7 + shaS1 (g 4) + shaCh (g 4) (g 5) (g 6) + kw
  let t2 := shaS0 (g 0) + shaMaj (g 0) (g 1) (g 2)
  [t1 + t2, g 0, g 1, g 2, g 3 + t1, g 4, g 5, g 6]

/-- One block of sixteen big-endian words. -/
def shaBlock (h w : List Word) : List Word :=
  let ws := (shaSchedule 48 w.reverse).reverse
  let r := (List.zipWith (fun k x => k + x) shaRounds ws).foldl shaRound h
  List.zipWith (fun a b => a + b) h r

/-- The big-endian words of a byte list whose length is a multiple of 4. -/
def beWords : List Byte → List Word
  | a :: b :: c :: d :: l => (a ++ b ++ c ++ d) :: beWords l
  | _ => []

/-- The blocks of a padded message, at most `n`. -/
def shaBlocks : Nat → List Word → List Word → List Word
  | 0, h, _ => h
  | n + 1, h, w => if w.isEmpty then h else shaBlocks n (shaBlock h (w.take 16)) (w.drop 16)

/-- The padding of a message of `n` bytes. -/
def shaPad (n : Nat) : List Byte := 0x80 :: (List.replicate ((119 - n % 64) % 64) 0 ++ beBytes 8 (8 * n))

/-- SHA-256 of `l`, 32 bytes. -/
def sha256 (l : List Byte) : List Byte :=
  let h := shaBlocks (l.length / 64 + 2) shaInit (beWords (l ++ shaPad l.length))
  (h.map (fun w => beBytes 4 w.toNat)).flatten

/-- HMAC-SHA-256 with a key of at most 64 bytes (RFC 2104). -/
def hmac (key msg : List Byte) : List Byte :=
  let k := key ++ List.replicate (64 - key.length) 0
  sha256 (k.map (fun b => b ^^^ 0x5C) ++ sha256 (k.map (fun b => b ^^^ 0x36) ++ msg))

end Sys2Proof.Machine
end

