-- ==== Sys2Proof/Machine/Glasshouse.lean ====
section
/-! DEFINITION. Glasshouse, the panel drive (R282–R299): the target buffer and its journal, panel requests and their
queue, the matrix row write, temperature and drive, the segment frame, load, start and the PD10 cycle. -/

namespace Sys2Proof.Machine

/-! ### Configuration and buffer (R282, R283, R296) -/

/-- PNL_CFG.MODE: 0 off, 1 matrix, 2 segment. -/
def State.panelMode (s : State) : Nat := s.fld R.PNL_CFG F.PNL_CFG_MODE

/-- PNL_CFG.COMMONS and SEGS. -/
def State.commons (s : State) : Nat := s.fld R.PNL_CFG F.PNL_CFG_COMMONS
def State.segs (s : State) : Nat := s.fld R.PNL_CFG F.PNL_CFG_SEGS

/-- Every panel request is refused with STATE while PD10 is off, in MODE 0, with an invalid configuration, and where
S06 is skipped (R284, R379). -/
def State.panelBarred (s : State) : Bool :=
  !(s.powered 10) || s.panelMode == 0 || s.flag R.PNL_STAT F.PNL_STAT_CFGERR || s.pnl.skipped

/-- Row `r` of the target buffer. -/
def State.bufRow (s : State) (r : Nat) : BitVec 128 :=
  s.rd (R.PNL_BUF r 3) ++ s.rd (R.PNL_BUF r 2) ++ s.rd (R.PNL_BUF r 1) ++ s.rd (R.PNL_BUF r 0)

/-- Set row `r` of the target buffer. -/
def State.setBufRow (s : State) (r : Nat) (v : BitVec 128) : State :=
  s.wrAll ((List.range 4).map (fun w => (R.PNL_BUF r w, (v >>> (32 * w)).truncate 32)))

/-- The buffer has changed: the journal takes it within 1 ms (R285). -/
def State.bufChanged (s : State) : State := s.setPanel { s.pnl with dirty := true }

/-- The rows `r0`..`r1` as a set. -/
def rowSet (r0 r1 : Nat) : BitVec 64 := BitVec.ofNat 64 (2 ^ (r1 + 1) - 2 ^ r0)

/-- The columns `c0`..`c1` as a mask. -/
def colMask (c0 c1 : Nat) : BitVec 128 := BitVec.ofNat 128 (2 ^ (c1 + 1) - 2 ^ c0)

/-- The rows of a set, in ascending order. -/
def rowsOf (x : BitVec 64) : List Nat := onesOf 64 x.toNat

/-- A rectangle that UPDATE and COPY refuse with RANGE (R284). -/
def State.badRect (s : State) (r0 r1 c0 c1 : Nat) : Bool :=
  r1 < r0 || c1 < c0 || s.commons ≤ r1 || s.segs ≤ c1

/-! ### The journal (R285, R293) -/

/-- Row record `r` of the journal takes the row's target data. -/
def State.journalRow (s : State) (r : Nat) (v : BitVec 128) : State :=
  s.setPanel { s.pnl with journal := tabSet (dflt 0) s.pnl.journal r v }

/-- The rows of a request still to be written. -/
def Req.left (q : Req) : BitVec 64 := q.rows &&& ~~~q.done

/-- The journal header: the pending row set, and TAG and FULL of each held request; the queue registers follow. -/
def State.journalHeader (s : State) : State :=
  let pend := s.pnl.queue.foldl (fun m q => m ||| q.left) (0 : BitVec 64)
  let s := s.wrAll [(R.PNL_PEND 0, pend.truncate 32), (R.PNL_PEND 1, (pend >>> 32).truncate 32)]
  let s := s.setPanel { s.pnl with jHead := s.pnl.queue.map (fun q => (q.tag, q.full)) }
  let s := s.setFld R.PNL_QST F.PNL_QST_COUNT s.pnl.queue.length
  match s.pnl.queue with
  | [] => (s.setFld R.PNL_QST F.PNL_QST_CURTAG 0).setFlag R.PNL_QST F.PNL_QST_FULL false
  | q :: _ => (s.setFld R.PNL_QST F.PNL_QST_CURTAG q.tag).setFlag R.PNL_QST F.PNL_QST_FULL q.full

/-- The journal copy of R285. -/
def State.journalBuffer (s : State) : State :=
  let s := foldS (fun s r => s.journalRow r (s.bufRow r)) s (List.range 64)
  s.setPanel { s.pnl with dirty := false }

def execJournalCopy (s : State) : Out :=
  .next (if s.islandOn 14 && s.pnl.dirty then s.journalBuffer else s)

/-! ### Temperature, voltages and trims (R291) -/

/-- The value at temperature `t` (0.01 °C) of points that stand `step` apart (0.01 °C) from `t0`, in `step`ths of a
unit; the end points are held outside. -/
def interpolate (t0 step : Int) (n : Nat) (v : Nat → Int) (t : Int) : Int :=
  if t ≤ t0 then v 0 * step
  else if t0 + step * ((n : Int) - 1) ≤ t then v (n - 1) * step
  else
    let i := ((t - t0) / step).toNat
    v i * step + (v (i + 1) - v i) * ((t - t0) % step)

/-- VRST and VSEL (or VLCD) at temperature `t`, in 10 µV. -/
def State.driveVolts (s : State) (t : Int) : Int × Int :=
  (interpolate (-3000) 1000 9 (fun i => s.fld (R.PNL_VC i) F.PNL_VC_VRST) t,
   interpolate (-3000) 1000 9 (fun i => s.fld (R.PNL_VC i) F.PNL_VC_VSEL) t)

/-- Byte `m` of map `k` for the pixel at row `r`, segment `c`; a failed map is used as all 0. -/
def State.mapByte (s : State) (k r c : Nat) : Int :=
  if (s.fld R.PNL_STAT F.PNL_STAT_MAPERR).testBit k then 0
  else (memByte 0 s.pnl.maps (8192 * k + 128 * r + c)).toInt

/-- The trim of a pixel at temperature `t`. -/
def State.trimAt (s : State) (r c : Nat) (t : Int) : Int :=
  roundDiv (interpolate (-2000) 2000 4 (fun k => s.mapByte k r c) t) 2000

/-- The select width of a pixel to be 1, in CI14 cycles (R291). -/
def State.selectCycles (s : State) (r c : Nat) (t : Int) : Nat :=
  ((s.fld R.PNL_TIME F.PNL_TIME_SEL : Int) * 1200 * (256 + s.trimAt r c t) / 256).toNat

/-- VLCD in segment mode, in 10 µV: the ladder's fixed 5.00 V, or the contrast-voltage generator's. -/
def State.vlcd (s : State) : Int :=
  if s.flag R.PNL_CFG F.PNL_CFG_BSRC then (s.driveVolts (s.sfld R.PNL_TEMP F.PNL_TEMP_T)).2 else 500000

/-- The temperature in force: that of the row being written, or the latest. -/
def State.driveTemp (s : State) : Int := match s.pnl.cur with
  | some w => w.temp
  | none => s.sfld R.PNL_TEMP F.PNL_TEMP_T

/-- A measured voltage (10 mV) is more than 5 % from its set value (10 µV). -/
def offBy5 (v : BitVec 16) (set : Int) : Bool := set < 20 * ((1000 * v.toNat : Int) - set).natAbs

/-- A pump output is more than 5 % from its set voltage (R295). -/
def State.pumpOff (s : State) (vrst vsel : BitVec 16) : Bool :=
  let v := s.driveVolts s.driveTemp
  offBy5 vrst v.1 || offBy5 vsel v.2

/-- The longest select width of a row that shows `data`, in CI14 cycles: a pixel to be 1 receives the pulse, one to be 0
does not (R289). -/
def State.selectLength (s : State) (r : Nat) (data : BitVec 128) (t : Int) : Nat :=
  (List.range s.segs).foldl (fun m c => if data.getLsbD c then Nat.max m (s.selectCycles r c t) else m) 0

/-- The length of a phase in ns (R289); CI14 runs at 12 MHz. -/
def State.phaseLength (s : State) (w : RowWrite) : Time :=
  match w.phase with
  | 1 => s.fld R.PNL_TIME (if w.full then F.PNL_TIME_FRST else F.PNL_TIME_RST) * ms
  | 2 => s.selectLength w.row w.data w.temp * 250 / 3
  | _ => s.fld R.PNL_TIME F.PNL_TIME_EVO * ms

/-! ### Execution of the queue (R288, R289, R295) -/

/-- The pump is started (R292). -/
def State.pumpStart (s : State) : State :=
  (s.setFlag R.PNL_STAT F.PNL_STAT_PUMPON true).setPanel { s.pnl with pumpReady := false, idleAt := s.now }

/-- The pump is stopped. -/
def State.pumpStop (s : State) : State :=
  (s.setFlag R.PNL_STAT F.PNL_STAT_PUMPON false).setPanel { s.pnl with pumpReady := false }

/-- Rows may be started: CI14 works, matrix mode, valid, not deferred, no pump error, no restart due, the supply not lost
(R11, R25, R293, R295). -/
def State.mayStartRow (s : State) : Bool :=
  !(s.panelBarred) && s.islandOn 14 && s.panelMode == 1 && !(s.flag R.PNL_STAT F.PNL_STAT_DEFER) &&
    !(s.flag R.PNL_STAT F.PNL_STAT_PUMPERR) && !s.pnl.restartDue && !(s.flag R.PWR_STAT F.PWR_STAT_HOLD)

/-- The next row of a request: a row to be written again with a full reset first, then the lowest (R288, R294). -/
def nextRow (replay : BitVec 64) (q : Req) : Option Nat :=
  match rowsOf (q.left &&& replay) with
  | r :: _ => some r
  | [] => (rowsOf q.left).head?

/-- RST of row `r` begins: record r IN-PROGRESS with the inverted POL (R289–R291, R293). -/
def State.beginRow (s : State) (q : Req) (r : Nat) : State :=
  let pol := !(s.flag (R.PNL_JROW r) F.PNL_JROW_POL)
  let full := q.full || s.pnl.replay.getLsbD r
  let s := (s.setFlag (R.PNL_JROW r) F.PNL_JROW_POL pol).setFld (R.PNL_JROW r) F.PNL_JROW_STATE 1
  let s := s.journalRow r (s.bufRow r)
  let s := (s.setFlag R.PNL_STAT F.PNL_STAT_RUN true).setFld R.PNL_STAT F.PNL_STAT_PHASE 1
  let s := s.setFld R.PNL_STAT F.PNL_STAT_ROW r
  s.setPanel { s.pnl with cur := some ⟨r, 1, full, pol, s.sfld R.PNL_TEMP F.PNL_TEMP_T, s.bufRow r, false, s.now⟩ }

/-- Start the pump, or the next row of the head request, where nothing is being written. -/
def State.kick (s : State) : State :=
  match s.pnl.cur, s.pnl.queue with
  | none, q :: _ =>
    if !(s.mayStartRow) then s
    else if !(s.flag R.PNL_STAT F.PNL_STAT_PUMPON) then s.pumpStart
    else if !s.pnl.pumpReady then s
    else match nextRow s.pnl.replay q with
      | some r => s.beginRow q r
      | none => s
  | _, _ => s

/-- The head request is complete: its DONE rows go to IDLE, LASTTAG takes its TAG, and the next one follows (R288,
R293). -/
def State.endRequest (s : State) (q : Req) : State :=
  let s := foldS (fun s r => if s.fld (R.PNL_JROW r) F.PNL_JROW_STATE == 2
    then s.setFld (R.PNL_JROW r) F.PNL_JROW_STATE 0 else s) s (rowsOf q.rows)
  let s := s.setFld R.PNL_QST F.PNL_QST_LASTTAG q.tag
  s.setPanel { s.pnl with queue := s.pnl.queue.tail, idleAt := s.now }

/-- EVO of the row ends: record DONE, the row leaves the pending set (R293). A row whose request has been merged in
the meantime counts for the merged request only where it is not one of its rows (R287). -/
def State.endRow (s : State) (w : RowWrite) : State :=
  let s := s.setFld (R.PNL_JROW w.row) F.PNL_JROW_STATE 2
  let s := s.addFld R.PNL_CNT F.PNL_CNT_ROWS 1
  let s := if s.pnl.replay.getLsbD w.row then s.addFld R.PNL_CNT F.PNL_CNT_REPL 1 else s
  let s := (s.setFlag R.PNL_STAT F.PNL_STAT_RUN false).setFld R.PNL_STAT F.PNL_STAT_PHASE 0
  let one : BitVec 64 := BitVec.ofNat 64 (2 ^ w.row)
  let q := match s.pnl.queue with
    | q :: l => if w.stray then q :: l else { q with done := q.done ||| one } :: l
    | [] => []
  let s := s.setPanel { s.pnl with cur := none, replay := s.pnl.replay &&& ~~~one, faults := 0, queue := q,
                                   shown := tabSet (dflt 0) s.pnl.shown w.row w.data }
  let s := match s.pnl.queue with
    | q :: _ => if q.left = 0 then s.endRequest q else s
    | [] => s
  s.journalHeader.kick

/-- A phase of the row ends, when its length has passed (R289; log 1). -/
def State.phaseEnd (s : State) : State :=
  match s.pnl.cur with
  | none => s
  | some w =>
    let s := s.atTime (w.since + s.phaseLength w)
    if w.phase < 3 then
      (s.setPanel { s.pnl with cur := some { w with phase := w.phase + 1, since := s.now } }).setFld R.PNL_STAT F.PNL_STAT_PHASE
        (w.phase + 1)
    else s.endRow w

def execRowPhaseEnd (s : State) : Out :=
  .next (if s.islandOn 14 then s.phaseEnd else s)

/-! ### Placing a request (R286, R287) -/

/-- `q` shares a row with the rows `rows`. -/
def Req.shares (q : Req) (rows : BitVec 64) : Bool := q.rows &&& rows != 0

/-- The held requests with those that share a row with `rows` made the one request `m`, at the position of the
earliest. -/
def mergeInto (rows : BitVec 64) (m : Req) : List Req → List Req
  | [] => []
  | q :: l => if q.shares rows then m :: l.filter (fun x => !(x.shares rows)) else q :: mergeInto rows m l

/-- The row being written belongs to a request that is merged: it is completed first, outside the merged one. -/
def State.strayRow (s : State) (rows : BitVec 64) : State :=
  match s.pnl.cur, s.pnl.queue with
  | some w, q :: _ => if q.shares rows then s.setPanel { s.pnl with cur := some { w with stray := true } } else s
  | _, _ => s

/-- The rows a held request brings into a merged one: those not yet written, the row being written not among them. -/
def State.carried (s : State) (q : Req) : BitVec 64 :=
  match s.pnl.cur with
  | some w => if s.pnl.queue.head? = some q && !w.stray then q.left &&& ~~~(BitVec.ofNat 64 (2 ^ w.row)) else q.left
  | none => q.left

/-- Place request `r` (R287): `none` where the queue is full. -/
def State.placeReq (s : State) (r : Req) : Option State :=
  let held := s.pnl.queue.filter (fun q => q.shares r.rows)
  if held.isEmpty then
    (if 8 ≤ s.pnl.queue.length then none
     else some ((s.setPanel { s.pnl with queue := s.pnl.queue ++ [r] }).journalHeader.kick))
  else
    let m := { r with rows := held.foldl (fun m q => m ||| s.carried q) r.rows,
                      full := r.full || held.any (fun q => q.full) }
    let s' := s.strayRow r.rows
    some ((s'.setPanel { s'.pnl with queue := mergeInto r.rows m s'.pnl.queue }).journalHeader.kick)

/-! ### Panel requests (R284) -/

/-- DRAW. -/
def State.drawOp (s : State) (target r h : Nat) (pix : BitVec 16) : State :=
  if target != 0 then s.answer .address
  else if s.panelBarred then s.answer .state
  else if s.commons ≤ r || s.segs ≤ 16 * h then s.answer .range
  else
    let a := R.PNL_BUF r (h / 2)
    ((s.wr a (putFld ⟨16 * (h % 2), 16⟩ (s.rd a) pix.toNat)).bufChanged).answer .ok

/-- COPY. -/
def State.copyOp (s : State) (target r0 r1 c0 c1 pic : Nat) : State :=
  if target != 0 then s.answer .address
  else if s.panelBarred then s.answer .state
  else if s.badRect r0 r1 c0 c1 then s.answer .range
  else match s.img.exec.pictures.find? (fun e => e.1 == pic) with
    | none => s.answer .range
    | some e =>
      let m := colMask c0 c1
      let s := foldS (fun s r => s.setBufRow r ((s.bufRow r &&& ~~~m) ||| (e.2.getD r 0 &&& m))) s (rowsOf (rowSet r0 r1))
      s.bufChanged.answer .ok

/-- UPDATE: in segment mode it completes at the next frame and takes no entry (R286). -/
def State.updateOp (s : State) (target r0 r1 c0 c1 tag : Nat) : State :=
  if target != 0 then s.answer .address
  else if s.panelBarred then s.answer .state
  else if s.badRect r0 r1 c0 c1 then s.answer .range
  else if s.panelMode == 2 then (s.setPanel { s.pnl with segTags := s.pnl.segTags ++ [tag] }).answer .ok
  else match s.placeReq ⟨rowSet r0 r1, 0, r0, r1, c0, c1, tag, false⟩ with
    | some s' => s'.answer .ok
    | none => s.answer .busy

/-- The target buffer all 0 and a full-reset request for all rows: the effect of CLEAR; `none` where the queue is full.
The next applied CLEAR clears JLOST (R298). -/
def State.clearPanel (s : State) (tag : Nat) : Option State :=
  let s := (foldS (fun s r => s.setBufRow r 0) s (List.range 64)).bufChanged
  if s.panelMode == 2 then some (s.setPanel { s.pnl with segTags := s.pnl.segTags ++ [tag] })
  else s.placeReq ⟨rowSet 0 (s.commons - 1), 0, 0, s.commons - 1, 0, s.segs - 1, tag, true⟩

/-- CLEAR. -/
def State.panelClearOp (s : State) (target tag : Nat) : State :=
  if target != 0 then s.answer .address
  else if s.panelBarred then s.answer .state
  else match s.clearPanel tag with
    | some s' => (s'.setFlag R.PNL_STAT F.PNL_STAT_JLOST false).answer .ok
    | none => s.answer .busy

def execDraw (target : BitVec 16) (r : BitVec 6) (h : BitVec 3) (pix : BitVec 16) (s : State) : Out :=
  .next (s.drawOp target.toNat r.toNat h.toNat pix)

def execUpdate (target : BitVec 16) (r0 r1 : BitVec 6) (c0 c1 : BitVec 7) (tag : BitVec 6) (s : State) : Out :=
  .next (s.updateOp target.toNat r0.toNat r1.toNat c0.toNat c1.toNat tag.toNat)

def execCopy (target : BitVec 16) (r0 r1 : BitVec 6) (c0 c1 : BitVec 7) (pic : BitVec 4) (s : State) : Out :=
  .next (s.copyOp target.toNat r0.toNat r1.toNat c0.toNat c1.toNat pic.toNat)

def execPanelClear (target : BitVec 16) (tag : BitVec 6) (s : State) : Out :=
  .next (s.panelClearOp target.toNat tag.toNat)

/-! ### Charge pump (R292, R295) -/

/-- The measured voltages. -/
def State.notePump (s : State) (vrst vsel : BitVec 16) : State :=
  (s.setFld R.PNL_PUMP F.PNL_PUMP_VRST vrst.toNat).setFld R.PNL_PUMP F.PNL_PUMP_VSEL vsel.toNat

def execPumpReady (vrst vsel : BitVec 16) (s : State) : Out :=
  .next (if s.islandOn 14 && s.flag R.PNL_STAT F.PNL_STAT_PUMPON && !s.pnl.pumpReady then
      let s := s.notePump vrst vsel
      (s.setPanel { s.pnl with pumpReady := true }).kick
    else s)

/-- The pump is on and has nothing to do. -/
def State.pumpIdle (s : State) : Bool :=
  s.flag R.PNL_STAT F.PNL_STAT_PUMPON && s.pnl.queue.isEmpty && s.pnl.cur.isNone

/-- PUMP_IDLE_STOP comes 100 ms after the queue emptied (R292; log 1). -/
def execPumpIdleStop (s : State) : Out :=
  .next (if s.islandOn 14 && s.pumpIdle then (s.atTime (s.pnl.idleAt + 100 * ms)).pumpStop else s)

/-- The row being written is left IN-PROGRESS, to be written again with a full reset (R295). -/
def State.abandonRow (s : State) : State :=
  match s.pnl.cur with
  | none => s
  | some w =>
    let one : BitVec 64 := BitVec.ofNat 64 (2 ^ w.row)
    let q := match s.pnl.queue with
      | q :: l => { q with rows := q.rows ||| one, done := q.done &&& ~~~one } :: l
      | [] => []
    let s := (s.setFlag R.PNL_STAT F.PNL_STAT_RUN false).setFld R.PNL_STAT F.PNL_STAT_PHASE 0
    (s.setPanel { s.pnl with cur := none, queue := q, replay := s.pnl.replay ||| one }).journalHeader

/-- A pump fault; the third in a row sets PUMPERR (R295). -/
def State.pumpFaulted (s : State) (vrst vsel : BitVec 16) : State :=
  let s := (s.notePump vrst vsel).abandonRow.pumpStop
  let n := s.pnl.faults + 1
  let s := s.setPanel { s.pnl with faults := n, restartDue := decide (n < 3), faultAt := s.now }
  (s.setFlag R.PNL_STAT F.PNL_STAT_PUMPERR (decide (3 ≤ n))).raise 0x5B n (vrst.toNat + 2 ^ 16 * vsel.toNat)

def execPumpFault (vrst vsel : BitVec 16) (s : State) : Out :=
  .next (if s.islandOn 14 && s.flag R.PNL_STAT F.PNL_STAT_PUMPON && !(s.flag R.PNL_STAT F.PNL_STAT_PUMPERR) && s.pumpOff vrst vsel
    then s.pumpFaulted vrst vsel else s)

/-- PUMP_RESTART comes one second after the fault (R295; log 1). -/
def execPumpRestart (s : State) : Out :=
  .next (if s.islandOn 14 && s.pnl.restartDue then
      let s := s.atTime (s.pnl.faultAt + sec)
      let s := s.setPanel { s.pnl with restartDue := false }
      if s.pnl.queue.isEmpty then s else s.pumpStart
    else s)

/-- PNL_CTL.RETRY. -/
def State.panelRetry (s : State) : State :=
  if !s.lockOpen then s.answer .denied
  else if !(s.powered 10) then s.answer .busy
  else
    let s := (s.noteLk).setFlag R.PNL_STAT F.PNL_STAT_PUMPERR false
    ((s.setPanel { s.pnl with faults := 0, restartDue := false }).pumpStart).answer .ok

def execPnlRetry (_p : Port) (t : Time) (s : State) : Out := .next ((s.atTime t).panelRetry)

/-! ### The panel sensor (R291, R292) -/

/-- The resistance is read: 700–1,300 Ω is good; otherwise the last good T for 60 s, then 20 °C, with TFAULT and E5C. -/
def State.panelTemp (s : State) (ohm10 centi : BitVec 16) : State :=
  let s := s.setFld R.PNL_TEMP F.PNL_TEMP_RPT ohm10.toNat
  if 7000 ≤ ohm10.toNat ∧ ohm10.toNat ≤ 13000 then
    let s := (s.setFld R.PNL_TEMP F.PNL_TEMP_T centi.toNat).setFlag R.PNL_STAT F.PNL_STAT_TFAULT false
    s.setPanel { s.pnl with tempAt := some s.now }
  else
    let s := if s.flag R.PNL_STAT F.PNL_STAT_TFAULT then s
      else (s.setFlag R.PNL_STAT F.PNL_STAT_TFAULT true).raise 0x5C 0 (ohm10.toNat / 10)
    let old := match s.pnl.tempAt with
      | some t0 => decide (t0 + 60 * sec < s.now)
      | none => true
    if old then s.setFld R.PNL_TEMP F.PNL_TEMP_T 2000 else s

def execPanelTempRead (ohm10 : BitVec 16) (centi : BitVec 16) (t : Time) (s : State) : Out :=
  let s := s.atTime t
  .next (if s.islandOn 14 then s.panelTemp ohm10 centi else s)

/-! ### Maps (R296, R298) -/

/-- The bytes of map `k`. -/
def State.mapBytes (s : State) (k : Nat) : List Byte :=
  (List.range 8192).map (fun i => memByte 0 s.pnl.maps (8192 * k + i))

/-- The map window and its COMMIT may be written while the lock is open and the queue empty: the status that refuses,
or `none` (R296). -/
def State.mapGate (s : State) : Option Status :=
  if !s.lockOpen then some .denied
  else if !(s.powered 10) then some .busy
  else if !s.pnl.queue.isEmpty then some .state
  else none

/-- PNL_MAPSEL.COMMIT of map `k`. -/
def State.mapCommitOp (s : State) (k : Nat) : State :=
  match s.mapGate with
  | some r => s.answer r
  | none =>
    let s := (s.noteLk).setFld R.PNL_MAPSEL F.PNL_MAPSEL_MAP k
    (s.setPanel { s.pnl with mapCrc := tabSet (dflt 0) s.pnl.mapCrc k (crc32c (s.mapBytes k)),
                             mapDirty := s.pnl.mapDirty.filter (fun x => x != k) }).answer .ok

def execMapCommit (_p : Port) (map : BitVec 2) (t : Time) (s : State) : Out :=
  .next ((s.atTime t).mapCommitOp map.toNat)

/-- A write of word `q` of the map window. -/
def State.mapWindowWrite (s : State) (q : Nat) (v : Word) : State :=
  match s.mapGate with
  | some r => s.answer r
  | none =>
    let k := s.fld R.PNL_MAPSEL F.PNL_MAPSEL_MAP
    let s := s.noteLk
    (s.setPanel { s.pnl with maps := memPut 0 s.pnl.maps (8192 * k + 4 * q) (leBytes 4 v.toNat),
                             mapDirty := if s.pnl.mapDirty.contains k then s.pnl.mapDirty else k :: s.pnl.mapDirty
                }).answer .ok

/-! ### Segment mode (R286) -/

/-- A frame starts: the panel shows the buffer, the drive inverts, and the UPDATEs that wait complete. -/
def State.segFrame (s : State) : State :=
  let s := match s.pnl.segTags.getLast? with
    | some t => s.setFld R.PNL_QST F.PNL_QST_LASTTAG t
    | none => s
  let rows := (List.range s.commons).map (fun r => (r, s.bufRow r))
  s.setPanel { s.pnl with segTags := [], segFlip := !s.pnl.segFlip, frameAt := s.now, shown := tabSetAll (dflt 0) s.pnl.shown rows }

/-- The instant of the next frame, at FRATE Hz (R286). -/
def State.frameDue (s : State) : Time := s.pnl.frameAt + sec / s.fld R.PNL_CFG F.PNL_CFG_FRATE

/-- SEGMENT_FRAME comes when the next frame is due (log 1). -/
def execSegmentFrame (s : State) : Out :=
  .next (if !(s.panelBarred) && s.islandOn 14 && s.panelMode == 2 then (s.atTime s.frameDue).segFrame else s)

/-! ### Deferral (R295) -/

/-- Panel updates are deferred, or the deferral ends, at internal temperature `temp` (R385). -/
def State.setDefer (s : State) (on : Bool) (temp : BitVec 16) : State :=
  if !(s.powered 10) || s.flag R.PNL_STAT F.PNL_STAT_DEFER == on then s
  else ((s.setFlag R.PNL_STAT F.PNL_STAT_DEFER on).raise 0x5A (if on then 0 else 1) temp.toNat).kick

/-! ### Load, start and the PD10 cycle (R294–R296, R299) -/

/-- The offset of the first register that makes the configuration invalid (R296). -/
def State.panelInvalid (s : State) : Option Nat :=
  let mode := s.panelMode
  let frate := s.fld R.PNL_CFG F.PNL_CFG_FRATE
  let c := s.commons
  let tot := fun (k : Nat) => 20 * k + 3 * s.fld R.PNL_TIME F.PNL_TIME_SEL + 20 * s.fld R.PNL_TIME F.PNL_TIME_EVO
  let rst := s.fld R.PNL_TIME F.PNL_TIME_RST
  let frst := s.fld R.PNL_TIME F.PNL_TIME_FRST
  let badVc := fun (i : Nat) =>
    if mode == 1 then 4800 < s.fld (R.PNL_VC i) F.PNL_VC_VRST || 4800 < s.fld (R.PNL_VC i) F.PNL_VC_VSEL
    else mode == 2 && s.flag R.PNL_CFG F.PNL_CFG_BSRC &&
      (s.fld (R.PNL_VC i) F.PNL_VC_VSEL < 250 || 600 < s.fld (R.PNL_VC i) F.PNL_VC_VSEL)
  if mode == 3 || c == 0 || 64 < c || (mode == 2 && 8 < c) || s.segs == 0 || 128 < s.segs ||
      (mode == 2 && (frate < 32 || 128 < frate)) then some 0x000
  else if 800 < tot rst || frst < rst || 1600 < tot frst then some 0x004
  else ((List.range 9).find? badVc).map (fun i => 0x010 + 4 * i)

/-- The maps that fail their check at load: those found bad and those with bytes never committed (R292). -/
def State.failedMaps (s : State) (bad : List Nat) : List Nat :=
  (List.range 4).filter (fun k => bad.contains k ||
    (s.pnl.mapDirty.contains k && crc32c (s.mapBytes k) != tabGet (dflt 0) s.pnl.mapCrc k))

/-- A row record that failed its CRC: the row all 0 and IN-PROGRESS, E59 (R294). -/
def State.badRow (s : State) (r : Nat) : State :=
  ((s.setBufRow r 0).setFld (R.PNL_JROW r) F.PNL_JROW_STATE 1).raise 0x59 r 0

/-- The request built from the journal (R294): IN-PROGRESS rows first with a full reset, then the pending ones. -/
def State.replayJournal (s : State) (rowsBad : List Nat) : State :=
  let s := foldS (fun s r => s.setBufRow r (tabGet (dflt 0) s.pnl.journal r)) s (List.range 64)
  let s := foldS State.badRow s (rowsBad.filter (fun r => r < 64))
  let torn := (List.range 64).foldl (fun m r => if s.fld (R.PNL_JROW r) F.PNL_JROW_STATE == 1
    then m ||| BitVec.ofNat 64 (2 ^ r) else m) (0 : BitVec 64)
  let pend : BitVec 64 := s.rd (R.PNL_PEND 1) ++ s.rd (R.PNL_PEND 0)
  let rows := torn ||| pend
  if rows = 0 || s.panelMode != 1 then s
  else
    let heads := s.pnl.jHead
    let tag := ((heads.getLast?).map (fun e => e.1)).getD 0
    let q : Req := ⟨rows, 0, 0, s.commons - 1, 0, s.segs - 1, tag, heads.any (fun e => e.2)⟩
    let s := s.setPanel { s.pnl with queue := [q], replay := torn }
    let s := s.raise 0x58 0 (data2 (popCount 64 torn.toNat) (popCount 64 (pend &&& ~~~torn).toNat))
    s.journalHeader.kick

/-- The panel returns to the start of a load: registers to their Reset column, the queue empty (R299). -/
def State.clearGlasshouse (s : State) : State :=
  let s := s.resetRegs (fun a => blockNo a == 0x400F)
  s.setPanel { s.pnl with queue := [], cur := none, pumpReady := false, faults := 0, restartDue := false, replay := 0,
                          tempAt := none, clearDue := false, segTags := [], segFlip := false, skipped := false }

/-- The bits of the panel register at `a` that the image loads: the fields of PNL_CFG, PNL_TIME and PNL_VC; reserved bits
read 0 (R5, R298). -/
def panelMask (a : Nat) : Word :=
  if a = R.PNL_CFG then 0xFFF0FF7F
  else if a = R.PNL_TIME ∨ inRow a (R.PNL_VC 0) 4 9 then 0xFFFFFFFF
  else 0

/-- The words that the image holds for the panel's configuration. -/
def State.panelWords (s : State) : List (Nat × Word) := s.img.exec.tables.filter (fun e => panelMask e.1 != 0)

/-- The configuration and the maps are loaded; the value says whether the panel is driven (R292, R296). -/
def State.loadGlasshouse (s : State) (mapsBad : List Nat) : Bool × State :=
  let words := s.panelWords
  let s := foldS (fun s (e : Nat × Word) => s.wr e.1 (e.2 &&& panelMask e.1)) s.clearGlasshouse words
  let bad := s.failedMaps mapsBad
  let s := s.setFld R.PNL_STAT F.PNL_STAT_MAPERR (bad.foldl (fun m k => m + 2 ^ k) 0)
  let s := foldS (fun s k => s.raise 0x5D k 0) s bad
  match (if words.isEmpty then none else s.panelInvalid) with
  | some off => (false, (s.setFlag R.PNL_STAT F.PNL_STAT_CFGERR true).raise 0x5E off 0)
  | none => (s.panelMode != 0, s)

/-- S06 by its alternate: the journal is not read (R294). -/
def State.panelAlternate (s : State) : State :=
  let s := foldS (fun s r => (s.setBufRow r 0).wr (R.PNL_JROW r) 0) s (List.range 64)
  let s := ((s.wr (R.PNL_PEND 0) 0).wr (R.PNL_PEND 1) 0).setFlag R.PNL_STAT F.PNL_STAT_JLOST true
  (s.setPanel { s.pnl with clearDue := true }).raise 0x59 0xFF 0

/-- The CLEAR with TAG 0 that the alternate of S06 queues once the first tick has been applied (R294). -/
def State.firstTickPanel (s : State) : State :=
  if s.pnl.clearDue && s.gate.applied && !(s.panelBarred) then
    let s := s.setPanel { s.pnl with clearDue := false }
    (s.clearPanel 0).getD s
  else s

/-- PD10 is switched off: the row being written stays IN-PROGRESS, the queue is lost (R295). -/
def State.dropGlasshouse (s : State) : State :=
  s.setPanel { s.pnl with interrupted := s.pnl.cur.map (fun w => (w.row, w.phase)), queue := [], cur := none,
                          dirty := false }

/-- PD10 is back: E5F for an interrupted row, then as at a start (R295). -/
def State.backGlasshouse (s : State) : State :=
  let skip := s.pnl.skipped
  let bad := onesOf 4 (s.fld R.PNL_STAT F.PNL_STAT_MAPERR)
  let r := s.loadGlasshouse bad
  let s := match r.2.pnl.interrupted with
    | some (row, ph) => r.2.raise 0x5F row ph
    | none => r.2
  let s := s.setPanel { s.pnl with interrupted := none, skipped := skip }
  let s := s.setFlag R.PNL_STAT F.PNL_STAT_DEFER (s.flag R.PWR_STAT F.PWR_STAT_T85)
  if r.1 && !skip then s.replayJournal [] else s

end Sys2Proof.Machine
end

