-- ==== Sys2Proof/Machine/Profile.lean ====
section
/-! DEFINITION. The arithmetic of the profile generator (R266, R271): the speed of the next 25 µs under the limits of a
move, without and with a jerk limit. Speeds here are not negative and count along the travel; log 43 says how a rule
written for continuous time is taken in updates. -/

namespace Sys2Proof.Machine

/-- The integer square root of `n`, for `n` below 2^80. -/
def isqrt (n : Nat) : Nat :=
  (List.range 40).foldr (fun k r => if (r + 2 ^ k) * (r + 2 ^ k) ≤ n then r + 2 ^ k else r) 0

/-- The largest `x` with x + (x − d) + (x − 2d) + … ≤ `r`, its positive terms summed: what may still be given up in
steps of `d`. -/
def fastest (r d : Nat) : Nat :=
  let n := (isqrt (1 + 8 * (r / d)) - 1) / 2
  (r + d * (n * (n + 1) / 2)) / (n + 1)

/-- Towards zero by `d`. -/
def toward0 (v d : Int) : Int := if 0 ≤ v then (if v ≤ d then 0 else v - d) else (if -v ≤ d then 0 else v + d)

/-- The acceleration of the next update of an S-curve that closes `gap` and ends with none: at most `up` or `dn`, and
within `j` of the acceleration `a` before. -/
def curveAcc (gap a up dn j : Int) : Int :=
  clampInt (a - j) (a + j)
    (if 0 ≤ gap then min up (fastest gap.toNat j.toNat) else -(min dn (fastest (-gap).toNat j.toNat)))

/-- The path an S-curve deceleration takes from speed `v` and acceleration `a` to standstill, added to `path`: the sum of
the speeds before and after each update. -/
def brakePath (dn j : Int) : Nat → Int → Int → Int → Int
  | 0, _, _, path => path
  | fuel + 1, v, a, path =>
    if v ≤ 0 then path
    else
      let b := curveAcc (-v) a 0 dn j
      let w := max 0 (v + b)
      brakePath dn j fuel w b (path + v + w)

/-- The largest `x` from `lo` to `hi`, `lo` among them, for which `ok` holds, where `ok` holds up to a bound; it looks
no further than 2^33 above `lo`. -/
def largest (ok : Int → Bool) (lo hi : Int) : Int :=
  (List.range 33).foldr (fun k x => if x + 2 ^ k ≤ hi && ok (x + 2 ^ k) then x + 2 ^ k else x) lo

/-- The limits of one update: acceleration, deceleration and jerk, 0 for none. -/
structure Limits where
  up : Int
  dn : Int
  jerk : Int
deriving DecidableEq, Repr, Inhabited

/-- The next speed of a run towards speed `goal`, from speed `v` and acceleration `a`. -/
def Limits.freeSpeed (l : Limits) (v a goal : Int) : Int :=
  if l.jerk == 0 then (if v ≤ goal then min goal (v + l.up) else max goal (v - l.dn))
  else max 0 (v + curveAcc (goal - v) a l.up l.dn l.jerk)

/-- The next speed of a move with the path `room` left (in sums of the speeds before and after an update): as fast as
`freeSpeed`, but never faster than stops within the room; a room too short for that is braked in. -/
def Limits.speedIn (l : Limits) (v a goal room : Int) : Int :=
  if l.jerk == 0 then max (max 0 (v - l.dn)) (min (l.freeSpeed v a goal) (fastest ((room - v) / 2).toNat l.dn.toNat))
  else
    let least := curveAcc (-v) a 0 l.dn l.jerk
    let most := curveAcc (goal - v) a l.up l.dn l.jerk
    let ok := fun x => v + brakePath l.dn l.jerk (2 ^ 40) (v + x) x (v + x) ≤ room
    max 0 (v + largest ok least most)

end Sys2Proof.Machine
end

