-- ==== Sys2Proof/Machine/Glissade.lean ====
section
/-! DEFINITION. Glissade, the actuator axes (R260–R281): the axis commands, the profile, interpolation groups, the
emergency ramp, end limits, homing, the microstep tables, the current loops and the outputs, retention. -/

namespace Sys2Proof.Machine

/-! ### Axis state -/

/-- Axis `a` beside its registers. -/
def State.axis (s : State) (a : Nat) : AxisSt := tabGet (dflt axisReset) s.axes a

/-- Replace axis `a`. -/
def State.setAxis (s : State) (a : Nat) (x : AxisSt) : State :=
  { s with axes := tabSet (dflt axisReset) s.axes a x }

/-- GLS_AXST.STATE (R280). -/
def axDisabled : Nat := 0
def axStandstill : Nat := 1
def axMoving : Nat := 2
def axStopping : Nat := 3
def axEmergency : Nat := 4
def axHalted : Nat := 5
def axHoming : Nat := 6

/-- The state of axis `a`. -/
def State.axState (s : State) (a : Nat) : Nat := s.fld (R.GLS_AXST a) F.GLS_AXST_STATE

/-- Set the state of axis `a`. -/
def State.setAxState (s : State) (a st : Nat) : State := s.setFld (R.GLS_AXST a) F.GLS_AXST_STATE st

/-- A field of GLS_AXST. -/
def State.ax (s : State) (a : Nat) (f : Fld) : Nat := s.fld (R.GLS_AXST a) f

/-- Set a field of GLS_AXST. -/
def State.setAx (s : State) (a : Nat) (f : Fld) (v : Nat) : State := s.setFld (R.GLS_AXST a) f v

/-- The position (R266). -/
def State.axPos (s : State) (a : Nat) : Int := s.sfld (R.GLS_POS a) F.GLS_POS_POS

/-- GLS_CFG.MODE (R260). -/
def State.axMode (s : State) (a : Nat) : Nat := s.fld (R.GLS_CFG a) F.GLS_CFG_MODE

/-- The axis moves: a profile runs. -/
def State.axMoves (s : State) (a : Nat) : Bool :=
  s.axState a == axMoving || s.axState a == axStopping || s.axState a == axEmergency || s.axState a == axHoming

/-- The members of the running group of axis `a`, or `a` alone (R270). -/
def State.axGroup (s : State) (a : Nat) : List Nat :=
  match (s.axis a).lead with
  | none => [a]
  | some h => (List.range 6).filter (fun b => (s.axis b).lead == some h)

/-- The axis that holds the velocity of `a`: itself, or the one that holds the line of its group. -/
def State.holder (s : State) (a : Nat) : Nat := ((s.axis a).lead).getD a

/-- GLS_TGT: the staged target while one is held, else the target of the running or last move (R280). -/
def State.showTgt (s : State) (a : Nat) : State :=
  s.setSfld (R.GLS_TGT a) F.GLS_TGT_TGT ((s.axis a).staged.getD (s.axis a).lastTgt)

/-- A move to `m` begins or is retargeted: its target is that of the running move. -/
def State.noteTgt (s : State) (a : Nat) (m : Motion) : State :=
  match m with
  | .toTarget v => (s.setAxis a { s.axis a with lastTgt := v }).showTgt a
  | _ => s

/-- Stage or consume the group target of axis `a` (R269). -/
def State.setStaged (s : State) (a : Nat) (v : Option Int) : State :=
  (s.setAxis a { s.axis a with staged := v }).showTgt a

/-- E53 with the latched edge position of before the preset, as a homing that has been completed comes to STANDSTILL
(R275, R279). -/
def State.noteHomed (s : State) (a st : Nat) : State :=
  match (s.axis a).homed with
  | none => s
  | some e => if st == axStandstill then s.raise 0x53 a (unsignOf 32 e) else s

/-- Axis `a` comes to rest in state `st`: STANDSTILL, HALTED or DISABLED; its position, REF and TSEL go to the retained
state (R277). -/
def State.rest (s : State) (a st : Nat) : State :=
  let s := s.noteHomed a st
  let s := s.setAxis a { s.axis a with motion := .none, lead := none, decel := false, edgeSeen := false,
                                       fine := 0, acc := 0, frac := 0, done := 0, pulses := 0, homed := none,
                                       restAt := s.now }
  let s := ((s.setFld (R.GLS_VEL a) F.GLS_VEL_VEL 0).setAx a F.GLS_AXST_GRP 0).setAx a F.GLS_AXST_HPH 0
  (s.setAxState a st).toMirror [R.GLS_POS a, R.GLS_AXST a]

/-- Empty the queue of axis `a` (R267). -/
def State.emptyQueue (s : State) (a : Nat) : State :=
  (s.setAxis a { s.axis a with queued := none }).setAx a F.GLS_AXST_QUEUED 0

/-! ### Parameters (R268) -/

/-- Parameter `k` of axis `a`: 0 VMAX, 1 ACC, 2 DEC, 3 JERK. -/
def parAddr (a k : Nat) : Nat := R.GLS_VMAX a + 4 * k

/-- The held parameters come into force at a start from standstill. -/
def State.applyHeld (s : State) (a : Nat) : State :=
  let s := foldS (fun s (e : Nat × Option Nat) => match e.2 with
    | some v => s.wr (parAddr a e.1) (BitVec.ofNat 32 v)
    | none => s) s (s.axis a).held
  (s.setAxis a { s.axis a with held := [] }).setAx a F.GLS_AXST_PENDPAR 0

/-- Whether SETPAR parameter `k` takes the value `v` (R267). -/
def parInRange (k v : Nat) : Bool :=
  match k with
  | 0 => 1 ≤ v && v ≤ 250000
  | 1 => 1 ≤ v && v ≤ 100000000
  | 2 => 1 ≤ v && v ≤ 100000000
  | 3 => v ≤ 4000000000
  | _ => false

/-- Axis `a` decelerates as R268 lists: a STOP ramp, the final deceleration of a move, the deceleration of a homing
phase, an emergency ramp. -/
def State.decelerates (s : State) (a : Nat) : Bool :=
  s.axState a == axStopping || s.axState a == axEmergency || (s.axis (s.holder a)).decel

/-! ### Starting and retargeting (R267) -/

/-- The state a move from standstill leaves. -/
def State.beginMove (s : State) (a : Nat) (m : Motion) (st : Nat) : State :=
  let s := s.applyHeld a
  let s := s.setAxis a { s.axis a with motion := m, fine := 0, acc := 0, frac := 0, decel := false, ihold := false }
  (s.noteTgt a m).setAxState a st

/-- The direction of a motion from position `p`. -/
def Motion.sign (p : Int) : Motion → Int
  | .none => 0
  | .toTarget v => Int.sign (v - p)
  | .run v => Int.sign v

/-- The end limit in direction `d` is in use and active (R273, R274). -/
def State.limitAhead (s : State) (a : Nat) (d : Int) : Bool :=
  s.flag (R.GLS_CFG a) F.GLS_CFG_LIMEN &&
    ((0 < d && s.ax a F.GLS_AXST_LIMP != 0) || (d < 0 && s.ax a F.GLS_AXST_LIMN != 0))

/-- Every motion command is refused with STATE on an axis of MODE 0, of an invalid configuration, in a running group,
or with its Pergola line asserted (R267, R270, R271). -/
def State.motionBarred (s : State) (a : Nat) : Bool :=
  s.axMode a == 0 || s.flag (R.GLS_CFG a) F.GLS_CFG_CFGERR || s.ax a F.GLS_AXST_GRP != 0 ||
    s.ax a F.GLS_AXST_ESTOPLN != 0

/-- Start, retarget or queue the motion `m` by the state of the axis (R267). -/
def State.takeMotion (s : State) (a : Nat) (m : Motion) : State :=
  if s.axState a == axStandstill then s.beginMove a m axMoving
  else if s.axState a == axStopping then
    (s.setAxis a { s.axis a with queued := some m }).setAx a F.GLS_AXST_QUEUED 1
  else (s.setAxis a { s.axis a with motion := m, decel := false }).noteTgt a m

/-- The checks of a motion command before its value: ADDRESS, then STATE for an axis whose domain is off (R277) or
whose state the table does not list (R267); `none` where all pass. -/
def State.axisGate (s : State) (a : Nat) (accepted : List Nat) : Option Status :=
  if 6 ≤ a then some .address
  else if !(s.powered 10) then some .state
  else if !(accepted.contains (s.axState a)) then some .state
  else none

/-- Axis commands to a member of a running group are refused (R270). -/
def State.inGroup (s : State) (a : Nat) : Bool := s.ax a F.GLS_AXST_GRP != 0

/-- A motion command: its gate, then the bars of every motion command, then the limit ahead. -/
def State.motionOp (s : State) (a : Nat) (m : Motion) : State :=
  if s.motionBarred a || s.limitAhead a (m.sign (s.axPos a)) then s.answer .state
  else (s.takeMotion a m).answer .ok

/-- States in which MOVEA, MOVER and JOG are accepted. -/
def moveStates : List Nat := [axStandstill, axMoving, axStopping]

/-- MOVEA (R267). -/
def State.moveaOp (s : State) (a : Nat) (v : Int) : State :=
  match s.axisGate a moveStates with
  | some r => s.answer r
  | none => s.motionOp a (.toTarget v)

/-- Whether `v` lies in the signed 32-bit span. -/
def inSpan (v : Int) : Bool := -2147483648 ≤ v && v ≤ 2147483647

/-- MOVER (R267): the target is formed from the present position. -/
def State.moverOp (s : State) (a : Nat) (v : Int) : State :=
  match s.axisGate a moveStates with
  | some r => s.answer r
  | none =>
    if s.motionBarred a then s.answer .state
    else if !(inSpan (s.axPos a + v)) then s.answer .range
    else s.motionOp a (.toTarget (s.axPos a + v))

/-! ### STOP (R267, R270, R276) -/

/-- A group or an axis goes into its STOP ramp. -/
def State.toStopping (s : State) (a : Nat) : State :=
  foldS (fun s b => if s.axState b == axMoving then s.setAxState b axStopping else s) s (s.axGroup a)

/-- Homing ends: the phase reads 0 and the axis decelerates on DEC. -/
def State.endHoming (s : State) (a : Nat) : State :=
  let s := s.setAxis a { s.axis a with motion := .none, edgeSeen := false }
  (s.setAx a F.GLS_AXST_HPH 0).setAxState a axStopping

/-- A STOP in the state of the axis; at standstill it has no effect. -/
def State.stopAxis (s : State) (a : Nat) : State :=
  let s := s.emptyQueue a
  if s.axState a == axMoving then s.toStopping a
  else if s.axState a == axHoming then
    ((s.setAx a F.GLS_AXST_REF 0).setAx a F.GLS_AXST_HCAUSE 0).endHoming a
  else s

/-- States in which STOP and ESTOP are accepted: any but DISABLED. -/
def enabledStates : List Nat := [axStandstill, axMoving, axStopping, axEmergency, axHalted, axHoming]

/-- STOP. -/
def State.axisStopOp (s : State) (a : Nat) : State :=
  match s.axisGate a enabledStates with
  | some r => s.answer r
  | none => (s.stopAxis a).answer .ok

/-- JOG (R267): 0 is a STOP. -/
def State.jogOp (s : State) (a : Nat) (v : Int) : State :=
  if 6 ≤ a then s.answer .address
  else if !(s.powered 10) then s.answer .state
  else if s.fld (R.GLS_VMAX a) F.GLS_VMAX_VMAX < v.natAbs then s.answer .range
  else match s.axisGate a moveStates with
    | some r => s.answer r
    | none =>
      if v == 0 then
        (if s.motionBarred a then s.answer .state else (s.stopAxis a).answer .ok)
      else s.motionOp a (.run v)

/-! ### The emergency ramp (R271) -/

/-- Homing fails with `cause`: HOMEFAIL, HCAUSE, REF 0, E54 with the phase (R276). -/
def State.homeFails (s : State) (a cause : Nat) : State :=
  let s := s.raise 0x54 a (s.ax a F.GLS_AXST_HPH + 256 * cause)
  (((s.setAx a F.GLS_AXST_HOMEFAIL 1).setAx a F.GLS_AXST_HCAUSE cause).setAx a F.GLS_AXST_REF 0).setAx a
    F.GLS_AXST_HPH 0

/-- E50 with ECAUSE and the velocity (R279). -/
def State.noteRamp (s : State) (a cause : Nat) : State :=
  (s.setAx a F.GLS_AXST_ECAUSE cause).raise 0x50 a (cause + 256 * s.fld (R.GLS_VEL a) F.GLS_VEL_VEL)

/-- A cause of the emergency ramp reaches axis `a` (R271): the first is recorded; at standstill the axis is HALTED at
once; a group stops along its line with every member (R270). -/
def State.emergency (s : State) (a cause : Nat) : State :=
  let st := s.axState a
  if st == axStandstill then (s.noteRamp a cause).rest a axHalted
  else if st == axEmergency then
    (if s.ax a F.GLS_AXST_ECAUSE == 0 then s.setAx a F.GLS_AXST_ECAUSE cause else s).emptyQueue a
  else if st == axMoving || st == axStopping || st == axHoming then
    let s := (s.noteRamp a cause).emptyQueue a
    let s := if st == axHoming then s.homeFails a (if cause == 5 then 1 else 3) else s
    foldS (fun s b => s.setAxState b axEmergency) s (s.axGroup a)
  else s

/-- ESTOP. -/
def State.estopOp (s : State) (a : Nat) : State :=
  match s.axisGate a enabledStates with
  | some r => s.answer r
  | none => (s.emergency a 2).answer .ok

/-! ### The other axis commands (R265, R267–R269, R272, R275) -/

/-- The value of parameter `k` that is held pending; PENDPAR shows whether any is (R268). -/
def State.setHeld (s : State) (a k : Nat) (v : Option Nat) : State :=
  let l := tabSet (dflt none) (s.axis a).held k v
  (s.setAxis a { s.axis a with held := l }).setAx a F.GLS_AXST_PENDPAR (!l.isEmpty).toNat

/-- SETPAR (R268): it replaces a held value of the same parameter, whether it is itself held or takes effect. -/
def State.setparOp (s : State) (a k v : Nat) : State :=
  if 6 ≤ a then s.answer .address
  else if !(s.powered 10) then s.answer .state
  else if !(parInRange k v) then s.answer .range
  else if s.decelerates a then (s.setHeld a k (some v)).answer .ok
  else ((s.wr (parAddr a k) (BitVec.ofNat 32 v)).setHeld a k none).answer .ok

/-- The level of digital input `n` as Glissade's synchronizer takes it (R273). -/
def State.axInput (s : State) (n : Nat) : Bool := s.nativeSeen n

/-- The home input is active (R275). -/
def State.homeActive (s : State) (a : Nat) : Bool :=
  s.axInput (s.fld (R.GLS_CFG a) F.GLS_CFG_HDI) == s.flag (R.GLS_CFG a) F.GLS_CFG_HPOL

/-- The homing direction HDIR as a sign. -/
def State.homeDir (s : State) (a : Nat) : Int := if s.flag (R.GLS_CFG a) F.GLS_CFG_HDIR then 1 else -1

/-- The motion of homing phase `ph` (R275). -/
def State.homeMotion (s : State) (a ph : Nat) : Motion :=
  match ph with
  | 1 => .run (-(s.homeDir a) * s.fld (R.GLS_SSPD a) F.GLS_SSPD_SSPD)
  | 2 => .run (s.homeDir a * s.fld (R.GLS_SSPD a) F.GLS_SSPD_SSPD)
  | 3 => .toTarget ((s.axis a).homeEdge - s.homeDir a * s.fld (R.GLS_BOFF a) F.GLS_BOFF_BOFF)
  | _ => .run (s.homeDir a * s.fld (R.GLS_CSPD a) F.GLS_CSPD_CSPD)

/-- Homing phase `ph` begins. -/
def State.homePhase (s : State) (a ph : Nat) : State :=
  (s.setAxis a { s.axis a with motion := s.homeMotion a ph, homeFrom := s.axPos a, edgeSeen := false, decel := false,
                               fine := 0, acc := 0, frac := 0 }).setAx a F.GLS_AXST_HPH ph

/-- HOME (R275): CLEAR first where the home input is active. -/
def State.homeOp (s : State) (a : Nat) : State :=
  match s.axisGate a [axStandstill] with
  | some r => s.answer r
  | none =>
    let ph := if s.homeActive a then 1 else 2
    if s.motionBarred a || s.limitAhead a ((s.homeMotion a ph).sign 0) then s.answer .state
    else
      let s := (s.applyHeld a).setAx a F.GLS_AXST_HOMEFAIL 0
      let s := s.setAxis a { s.axis a with ihold := false }
      (((s.setAx a F.GLS_AXST_HCAUSE 0).setAxState a axHoming).homePhase a ph).answer .ok

/-- ENABLE with bit 0 = 1 (R267): ENA and the outputs on at IHOLD. An axis whose emergency or driver fault has not been
cleared is HALTED (R272, log 44); an invalid axis stays DISABLED (R278). -/
def State.axisEnableOp (s : State) (a : Nat) : State :=
  match s.axisGate a [axDisabled] with
  | some r => s.answer r
  | none =>
    if s.flag (R.GLS_CFG a) F.GLS_CFG_CFGERR then s.answer .state
    else
      let fault := s.ax a F.GLS_AXST_DRVFLT != 0 || s.ax a F.GLS_AXST_LOOPLOST != 0 || s.ax a F.GLS_AXST_ECAUSE != 0
      let s := s.setAxis a { s.axis a with ihold := true, rearmed := true }
      (s.rest a (if fault then axHalted else axStandstill)).answer .ok

/-- ENABLE with bit 0 = 0: the outputs off. -/
def State.axisDisableOp (s : State) (a : Nat) : State :=
  match s.axisGate a [axDisabled, axStandstill, axHalted] with
  | some r => s.answer r
  | none =>
    if s.inGroup a then s.answer .state
    else ((s.setAxis a { s.axis a with ihold := false, rearmed := false }).rest a axDisabled).answer .ok

/-- TBLWR (R265). -/
def State.tblwrOp (s : State) (a : Nat) (t : Bool) (k v : Nat) : State :=
  match s.axisGate a (axDisabled :: enabledStates) with
  | some r => s.answer r
  | none => (s.setFld (R.GLS_TSTG a t.toNat k) F.GLS_TSTG_T v).answer .ok

/-- TBLSEL (R265): it waits for the next full-step boundary and replaces one that waits. -/
def State.tblselOp (s : State) (a : Nat) (t switch publish : Bool) : State :=
  match s.axisGate a (axDisabled :: enabledStates) with
  | some r => s.answer r
  | none => ((s.setAxis a { s.axis a with tblReq := some (t, switch, publish) }).setAx a F.GLS_AXST_TBLPEND 1).answer .ok

/-- GTGT (R269). -/
def State.gtgtOp (s : State) (a : Nat) (v : Int) : State :=
  match s.axisGate a [axStandstill] with
  | some r => s.answer r
  | none =>
    (s.setStaged a (some v)).answer .ok

/-- PRESET (R267): the position and REF. -/
def State.presetOp (s : State) (a : Nat) (v : Int) : State :=
  match s.axisGate a [axStandstill, axDisabled] with
  | some r => s.answer r
  | none =>
    (((s.setSfld (R.GLS_POS a) F.GLS_POS_POS v).setAx a F.GLS_AXST_REF 1).setAx a F.GLS_AXST_RESTORED 0).answer .ok

/-- NFLT as CLEAR finds it: low only if a fault has set DRVFLT, and then, as no command tells that the fault line has
risen, it is read at the pin (log 44). -/
def State.sampleNflt (s : State) (a : Nat) : State :=
  if s.ax a F.GLS_AXST_DRVFLT == 0 then s.setAxis a { s.axis a with nflt := false }
  else s.freshWord.2.setAxis a { s.axis a with nflt := s.freshWord.1.getLsbD 0 }

/-- CLEAR (R272): refused while the Pergola line is asserted or NFLT is low, and in MODE 1 until the axis has been
enabled again since DRVFLT set. -/
def State.axisClearOp (s : State) (a : Nat) : State :=
  match s.axisGate a [axHalted] with
  | some r => s.answer r
  | none =>
    if s.ax a F.GLS_AXST_ESTOPLN != 0 then s.answer .state
    else
      let s := s.sampleNflt a
      if (s.axis a).nflt || (s.ax a F.GLS_AXST_DRVFLT != 0 && s.axMode a == 1 && !(s.axis a).rearmed)
      then s.answer .state
      else
        let s := ((s.setAx a F.GLS_AXST_ECAUSE 0).setAx a F.GLS_AXST_DRVFLT 0).setAx a F.GLS_AXST_LOOPLOST 0
        (s.rest a axStandstill).answer .ok

/-! ### Interpolation groups (R269, R270) -/

/-- The axes of a GGO mask. -/
def maskAxes (m : Nat) : List Nat := onesOf 6 m

/-- A masked axis may take part: STANDSTILL with a staged target, not barred, no active limit ahead. -/
def State.mayJoin (s : State) (b : Nat) : Bool :=
  s.axState b == axStandstill && !(s.motionBarred b) &&
    (match (s.axis b).staged with
     | none => false
     | some v => !(s.limitAhead b (Int.sign (v - s.axPos b))))

/-- The distance of masked axis `b`. -/
def State.groupDist (s : State) (b : Nat) : Int :=
  match (s.axis b).staged with
  | none => 0
  | some v => v - s.axPos b

/-- The lead of the masked axes: the largest |D|, the lowest axis on a tie. -/
def State.groupLead (s : State) (l : List Nat) : Nat :=
  l.foldl (fun b c => if (s.groupDist b).natAbs < (s.groupDist c).natAbs then c else b) (l.headD 0)

/-- Masked axis `b` joins the group of lead `ld` with the parameters of `g`. -/
def State.joinGroup (s : State) (g ld dl : Nat) (b : Nat) : State :=
  let d := s.groupDist b
  let s := (s.beginMove b (.toTarget (s.axPos b + d)) axMoving).setStaged b none
  (s.setAxis b { s.axis b with lead := some ld, par := g, leadAx := ld, dist := d, leadDist := dl,
                               err := dl / 2, done := 0 }).setAx b F.GLS_AXST_GRP 1

/-- GGO (R269): RANGE, then STATE; with all distances 0 nothing starts, and the staged targets are consumed. -/
def State.ggoOp (s : State) (g m : Nat) : State :=
  if 6 ≤ g then s.answer .address
  else if !(s.powered 10) then s.answer .state
  else if m == 0 || 0x3F < m || !(m.testBit g) then s.answer .range
  else if !((maskAxes m).all s.mayJoin) then s.answer .state
  else
    let ld := s.groupLead (maskAxes m)
    let dl := (s.groupDist ld).natAbs
    if dl == 0 then
      (foldS (fun s b => s.setStaged b none) s (maskAxes m)).answer .ok
    else (foldS (fun s b => s.joinGroup g ld dl b) s (maskAxes m)).answer .ok

/-! ### The commands of the table -/

def execMovea (ax : BitVec 16) (v : Word) (s : State) : Out := .next (s.moveaOp ax.toNat v.toInt)
def execMover (ax : BitVec 16) (v : Word) (s : State) : Out := .next (s.moverOp ax.toNat v.toInt)
def execJog (ax : BitVec 16) (v : Word) (s : State) : Out := .next (s.jogOp ax.toNat v.toInt)
def execAxisStop (ax : BitVec 16) (s : State) : Out := .next (s.axisStopOp ax.toNat)
def execEstop (ax : BitVec 16) (s : State) : Out := .next (s.estopOp ax.toNat)
def execSetpar (ax : BitVec 16) (par : BitVec 4) (v : Word) (s : State) : Out :=
  .next (s.setparOp ax.toNat par.toNat v.toNat)
def execHome (ax : BitVec 16) (s : State) : Out := .next (s.homeOp ax.toNat)
def execAxisEnable (ax : BitVec 16) (s : State) : Out := .next (s.axisEnableOp ax.toNat)
def execAxisDisable (ax : BitVec 16) (s : State) : Out := .next (s.axisDisableOp ax.toNat)
def execTblwr (ax : BitVec 16) (tbl : Bool) (k : BitVec 8) (v : BitVec 16) (s : State) : Out :=
  .next (s.tblwrOp ax.toNat tbl k.toNat v.toNat)
def execTblsel (ax : BitVec 16) (tbl switch publish : Bool) (s : State) : Out :=
  .next (s.tblselOp ax.toNat tbl switch publish)
def execGtgt (ax : BitVec 16) (v : Word) (s : State) : Out := .next (s.gtgtOp ax.toNat v.toInt)
def execGgo (ax : BitVec 16) (mask : Word) (s : State) : Out := .next (s.ggoOp ax.toNat mask.toNat)
def execPreset (ax : BitVec 16) (v : Word) (s : State) : Out := .next (s.presetOp ax.toNat v.toInt)
def execAxisClear (ax : BitVec 16) (s : State) : Out := .next (s.axisClearOp ax.toNat)

/-! ### The microstep tables and the phase setpoints (R261, R264, R265) -/

/-- Entry `k` of the table in use. -/
def State.tableMag (s : State) (a k : Nat) : Nat := s.fld (R.GLS_TBL a (s.ax a F.GLS_AXST_TSEL) k) F.GLS_TBL_T

/-- The signed magnitudes of phases A and B at position `p` (R264). -/
def State.phaseMags (s : State) (a : Nat) (p : Int) : Int × Int :=
  let e := (p % 1024).toNat
  let k := e % 256
  let rising : Int := s.tableMag a k
  let falling : Int := if k == 0 then 0xFFFF else s.tableMag a (256 - k)
  match e / 256 with
  | 0 => (falling, rising)
  | 1 => (-rising, falling)
  | 2 => (-falling, -rising)
  | _ => (rising, -falling)

/-- The bridges of axis `a` are driven (R260, R263). -/
def State.phasesDriven (s : State) (a : Nat) : Bool :=
  s.axState a != axDisabled && s.axMode a == 1 && (s.ax a F.GLS_AXST_DRVFLT == 0 || (s.axis a).rearmed)

/-- The current setpoints of phases A and B, in sense counts, truncated: IRUN, or IHOLD in its place, times the table
magnitude; DINV reverses the positive direction (R261, R280). No phase is driven in DISABLED, outside MODE 1, or from a driver
fault until the axis is enabled again (R260, R263, R272). -/
def State.setpoints (s : State) (a : Nat) : Int × Int :=
  if !(s.phasesDriven a) then (0, 0)
  else
    let i : Int := if (s.axis a).ihold then s.fld (R.GLS_CUR a) F.GLS_CUR_IHOLD else s.fld (R.GLS_CUR a) F.GLS_CUR_IRUN
    let p := if s.flag (R.GLS_CFG a) F.GLS_CFG_DINV then -(s.axPos a) else s.axPos a
    let m := s.phaseMags a p
    (truncDiv (i * m.1) 65535, truncDiv (i * m.2) 65535)

/-- The staging copy of table `t` is copied into it (R265). -/
def State.publish (s : State) (a t : Nat) : State :=
  s.wrAll ((List.range 256).map (fun k => (R.GLS_TBL a t k, s.rd (R.GLS_TSTG a t k))))

/-- A waiting TBLSEL is applied at a full-step boundary: PUBLISH, then SWITCH (R265). -/
def State.applyTbl (s : State) (a : Nat) : State :=
  match (s.axis a).tblReq with
  | none => s
  | some (t, switch, publish) =>
    let s := if publish then s.publish a t.toNat else s
    let s := if switch then s.setAx a F.GLS_AXST_TSEL t.toNat else s
    (s.setAxis a { s.axis a with tblReq := none }).setAx a F.GLS_AXST_TBLPEND 0

/-- Whether a full-step boundary, a position at which k becomes 0, lies on the way from `p` to `q` (R264). -/
def crossesBoundary (p q : Int) : Bool :=
  if p < q then Int.fdiv p 256 != Int.fdiv q 256
  else if q < p then Int.fdiv (-p) 256 != Int.fdiv (-q) 256
  else false

/-- Axis `a` steps to position `q`. -/
def State.stepTo (s : State) (a : Nat) (q : Int) : State :=
  let p := s.axPos a
  (s.setSfld (R.GLS_POS a) F.GLS_POS_POS q).applyIf (crossesBoundary p q) (fun s => s.applyTbl a)

/-! ### The profile (R266, R270, R271) -/

/-- One microstep/s in the unit of `AxisSt.fine`: 1 microstep/s² over 25 µs is 40,000 units, 1 microstep/s³ is one unit
in each update. -/
def velUnit : Int := 1600000000

/-- One microstep in sums of the velocities before and after an update of 25 µs. -/
def stepUnit : Int := 128000000000000

/-- One microstep/s² in units an update. -/
def accUnit : Int := 40000

/-- Velocity `v` as GLS_VEL shows it. -/
def shownVel (v : Int) : Int := truncDiv v velUnit

/-- The axis whose parameters axis `a` follows: its own, or those of axis g of its group (R270). -/
def State.paramAxis (s : State) (a : Nat) : Nat := if (s.axis a).lead.isSome then (s.axis a).par else a

/-- The limits of the profile of axis `a`. -/
def State.limits (s : State) (a : Nat) : Limits :=
  let p := s.paramAxis a
  { up := s.fld (R.GLS_ACC p) F.GLS_ACC_ACC * accUnit, dn := s.fld (R.GLS_DEC p) F.GLS_DEC_DEC * accUnit,
    jerk := s.fld (R.GLS_JERK p) F.GLS_JERK_JERK }

/-- The way axis `a` travels, or is about to: along the line in a group, otherwise 1 or −1, 0 for nowhere. -/
def State.heading (s : State) (a : Nat) : Int :=
  let x := s.axis a
  if x.lead.isSome then 1 else if x.fine != 0 then Int.sign x.fine else x.motion.sign (s.axPos a)

/-- What the profile aims at: standstill, a speed along the heading, or a target with so much path left to it. -/
inductive Aim where
  | stop
  | speed (v : Int)
  | target (room : Int)
deriving DecidableEq, Repr

/-- The aim of axis `a` (R266, R267, R270, R275): a motion against the present travel first comes through standstill. -/
def State.aim (s : State) (a : Nat) : Aim :=
  let x := s.axis a
  let d := s.heading a
  if s.axState a == axStopping || x.edgeSeen then .stop
  else if x.lead.isSome then .target ((x.leadDist - x.done) * stepUnit - x.frac)
  else match x.motion with
    | .none => .stop
    | .run v => if Int.sign v == d then .speed (v.natAbs * velUnit) else .stop
    | .toTarget v =>
      if Int.sign (v - s.axPos a) == -d then .stop
      else .target ((v - s.axPos a).natAbs * stepUnit - d * x.frac)

/-- The speed of axis `a` without regard to its target. -/
def State.freeSpeed (s : State) (a : Nat) : Int :=
  let x := s.axis a
  let v : Int := x.fine.natAbs
  let vmax := s.fld (R.GLS_VMAX (s.paramAxis a)) F.GLS_VMAX_VMAX * velUnit
  (s.limits a).freeSpeed v (s.heading a * x.acc)
    (match s.aim a with
     | .stop => 0
     | .speed w => w
     | .target _ => vmax)

/-- The speed of the next update along the heading: EDEC in the emergency ramp, otherwise the profile of R266. -/
def State.nextSpeed (s : State) (a : Nat) : Int :=
  let x := s.axis a
  let v : Int := x.fine.natAbs
  if s.axState a == axEmergency then
    toward0 v (s.fld (R.GLS_EDEC (if x.lead.isSome then x.leadAx else a)) F.GLS_EDEC_EDEC * accUnit)
  else match s.aim a with
    | .target room => (s.limits a).speedIn v (s.heading a * x.acc)
        (s.fld (R.GLS_VMAX (s.paramAxis a)) F.GLS_VMAX_VMAX * velUnit) room
    | _ => s.freeSpeed a

/-- The steps that begin on the path of one update, and the path beyond the last of them, along the travel: a step
begins with its microstep of the path. -/
def stepsOn (frac path : Int) : Nat × Int :=
  let n := (-(Int.fdiv (-(frac + path)) stepUnit)).toNat
  (n, frac + path - n * stepUnit)

/-- The velocity of axis `a` after an update to speed `w`; it decelerates as R268 lists where its target or its homing
edge, and no other limit, lowers its speed. -/
def State.setSpeed (s : State) (a : Nat) (w frac : Int) : State :=
  let x := s.axis a
  let d := s.heading a
  let v : Int := x.fine.natAbs
  s.setAxis a { x with fine := d * w, acc := d * w - x.fine, frac := if w == 0 then 0 else d * frac
                       decel := x.edgeSeen || (decide (w < v) && decide (w < s.freeSpeed a)) }

/-- Axis `a` makes `n` steps towards `d`. -/
def State.makeSteps (s : State) (a : Nat) (d : Int) (n : Nat) : State :=
  let s := s.stepTo a (s.axPos a + d * n)
  s.setAxis a { s.axis a with pulses := n, dirPos := if n == 0 then (s.axis a).dirPos else decide (0 < d) }

/-- One update of an axis that moves alone. -/
def State.soloUpdate (s : State) (a : Nat) : State :=
  let x := s.axis a
  let d := s.heading a
  let w := s.nextSpeed a
  let p := stepsOn (d * x.frac) (x.fine.natAbs + w)
  let s := (s.setSpeed a w p.2).makeSteps a d p.1
  s.setSfld (R.GLS_VEL a) F.GLS_VEL_VEL (shownVel (d * w))

/-- Member `b` of a group after `n` lead steps (R270): err grows by |D| at each and a step is made whenever it reaches
|D_lead|. -/
def State.memberSteps (s : State) (b n : Nat) (w : Int) : State :=
  let x := s.axis b
  let e := x.err + n * x.dist.natAbs
  let s := s.makeSteps b (Int.sign x.dist) (e / x.leadDist)
  let s := s.setAxis b { s.axis b with err := e % x.leadDist }
  s.setSfld (R.GLS_VEL b) F.GLS_VEL_VEL (truncDiv (shownVel w * x.dist) x.leadDist)

/-- One update of a group: the axis that holds the line computes the lead's velocity; every member steps by it. -/
def State.groupUpdate (s : State) (h : Nat) : State :=
  let x := s.axis h
  let w := s.nextSpeed h
  let p := stepsOn x.frac (x.fine + w)
  let s := s.setSpeed h w p.2
  let s := s.setAxis h { s.axis h with done := x.done + p.1 }
  foldS (fun s b => s.memberSteps b p.1 w) s (s.axGroup h)

/-- Homing phases 1 and 2 end at standstill after their edge, phase 3 at its position with the home input inactive
(R275). -/
def State.homeOn (s : State) (a : Nat) : State :=
  let x := s.axis a
  if s.axState a != axHoming || x.fine != 0 then s
  else match s.ax a F.GLS_AXST_HPH with
    | 1 => if x.edgeSeen then s.homePhase a 2 else s
    | 2 => if x.edgeSeen then s.homePhase a 3 else s
    | 3 => if x.motion == .toTarget (s.axPos a) && !(s.homeActive a) then s.homePhase a 4 else s
    | _ => s

/-- The generator's part of an update: a group moves with the axis that holds its line. -/
def State.profile (s : State) (a : Nat) : State :=
  match (s.axis a).lead with
  | some h => if h == a then s.groupUpdate a else s
  | none => if s.axMoves a then (s.soloUpdate a).homeOn a else s

/-! ### The current loops and the outputs (R260–R263) -/

/-- One period of the controller of a phase: the signed duty and the integral, from the setpoint, the measured current
and the integral before (R261, log 43). -/
def loopStep (kp ki : Nat) (set meas integral : Int) : Int × Int :=
  let e := set - meas
  let u := truncDiv (kp * e + integral) 256
  (if 0 ≤ set then clampInt 0 2500 u else clampInt (-2500) 0 u, integral + ki * e)

/-- PWM periods in a row with the current off its setpoint by more than 25 % of IRUN (R263). -/
def offCount (irun n : Nat) (set meas : Int) : Nat := if irun < 4 * (set - meas).natAbs then n + 1 else 0

/-- One PWM period of axis `a` with the mean currents `i` of phases A and B, in counts from 2,048: GLS_IMEAS shows them, and
the duties of the next period follow from them. -/
def State.loopPeriod (s : State) (a : Nat) (i : Int × Int) : State :=
  let x := s.axis a
  let set := s.setpoints a
  let kp := s.fld (R.GLS_LOOP a) F.GLS_LOOP_KP
  let ki := s.fld (R.GLS_LOOP a) F.GLS_LOOP_KI
  let irun := s.fld (R.GLS_CUR a) F.GLS_CUR_IRUN
  let pa := loopStep kp ki set.1 i.1 x.intA
  let pb := loopStep kp ki set.2 i.2 x.intB
  let s := s.setAxis a { x with dutyA := pa.1, intA := pa.2, offA := offCount irun x.offA set.1 i.1,
                                dutyB := pb.1, intB := pb.2, offB := offCount irun x.offB set.2 i.2 }
  (s.setSfld (R.GLS_IMEAS a) F.GLS_IMEAS_IA i.1).setSfld (R.GLS_IMEAS a) F.GLS_IMEAS_IB i.2

/-- The loops rest: no phase is driven, and their controllers begin afresh when one is again. -/
def State.loopRest (s : State) (a : Nat) : State :=
  let s := s.setAxis a { s.axis a with dutyA := 0, dutyB := 0, intA := 0, intB := 0, offA := 0, offB := 0 }
  if s.axMode a == 2 then s.wr (R.GLS_IMEAS a) 0 else s

/-- The current loops of axis `a` over one PWM period, 25 µs as the profile's own (R261). -/
def State.loops (s : State) (a : Nat) (i : Int × Int) : State := if s.phasesDriven a then s.loopPeriod a i else s.loopRest a

/-- What the six outputs of an axis do over a PWM period (R260): for how many of its 2,500 steps each half-bridge
command is high, the pulses on STEP, the levels of DIR and ENA. In MODE 2 STEP and DIR stand on PWMA1 and PWMA2. -/
structure AxOut where
  pwmA1 : Nat
  pwmA2 : Nat
  pwmB1 : Nat
  pwmB2 : Nat
  step : Nat
  dir : Bool
  ena : Bool
deriving DecidableEq, Repr

/-- The outputs of axis `a` (R260–R262): low with MODE 0 and in DISABLED; a positive duty is carried by PWMx1, a
negative one by PWMx2; DINV reverses DIR (R280). -/
def State.axOut (s : State) (a : Nat) : AxOut :=
  let x := s.axis a
  let ena := s.axState a != axDisabled && s.axMode a != 0
  if ena && s.axMode a == 2 then
    ⟨0, 0, 0, 0, x.pulses, x.dirPos != s.flag (R.GLS_CFG a) F.GLS_CFG_DINV, true⟩
  else if s.phasesDriven a then
    ⟨x.dutyA.toNat, (-x.dutyA).toNat, x.dutyB.toNat, (-x.dutyB).toNat, 0, false, true⟩
  else ⟨0, 0, 0, 0, 0, false, ena⟩

/-- The mean of the 25 samples of a PWM period, `m`, in counts from 2,048 (R261). -/
def adcCount (m : BitVec 12) : Int := m.toNat - 2048

/-- PROFILE_UPDATE, with what the axis's converters give for phases A and B over the 25 µs (R261, R266). -/
def execProfileUpdate (ax : Fin 6) (ia ib : BitVec 12) (s : State) : Out :=
  .next (if s.islandOn 13 then (s.profile ax).loops ax (adcCount ia, adcCount ib) else s)

/-! ### The ends of moves and ramps -/

/-- A queued move starts at standstill; one that heads for an active limit, or whose Pergola line is asserted, is
dropped (R267, R271, R274). -/
def State.startQueued (s : State) (a : Nat) : State :=
  match (s.axis a).queued with
  | none => s
  | some m =>
    let s := s.emptyQueue a
    if s.motionBarred a || s.limitAhead a (m.sign (s.axPos a)) then s else s.beginMove a m axMoving

/-- The move of axis `a`, or of its group, is at its end: stopped, at the target or by a STOP. -/
def State.moveEnds (s : State) (a : Nat) : Bool :=
  let h := s.axis (s.holder a)
  h.fine == 0 && (s.axState a == axStopping ||
    s.axState a == axMoving && (match (s.axis a).motion with
      | .toTarget v => v == s.axPos a && (h.lead.isNone || h.done == h.leadDist)
      | _ => false))

def execMoveComplete (ax : Fin 6) (s : State) : Out :=
  .next (if s.islandOn 13 && s.moveEnds ax then
      let l := (s.axGroup ax).filter (fun b => s.axState b == s.axState ax)
      foldS (fun s b => (s.rest b axStandstill).startQueued b) s l
    else s)

/-- 100 ms after the axis stops (R261). -/
def iholdAfter : Nat := 100 * ms

/-- IHOLD_TIMER comes 100 ms after the axis came to rest (log 1). -/
def execIholdTimer (ax : Fin 6) (s : State) : Out :=
  let st := s.axState ax
  .next (if s.islandOn 13 && (st == axStandstill || st == axHalted)
    then (s.atTime ((s.axis ax).restAt + iholdAfter)).setAxis ax { s.axis ax with ihold := true } else s)

def execEmergencyRampEnd (ax : Fin 6) (s : State) : Out :=
  .next (if s.islandOn 13 && s.axState ax == axEmergency && (s.axis (s.holder ax)).fine == 0 then
      foldS (fun s b => s.rest b axHalted) s ((s.axGroup ax).filter (fun b => s.axState b == axEmergency))
    else s)

/-! ### Faults, lines and limits (R263, R271, R274) -/

/-- A member leaves its group at once; the line is held on by another member, which ramps with the rest (R270). E50 is
recorded once, for the member that holds the line, which has no cause of its own (log 79). -/
def State.leaveGroup (s : State) (a : Nat) : State :=
  match (s.axis a).lead with
  | none => s
  | some h =>
    let rest := (s.axGroup a).filter (fun b => b != a)
    let h' := if h == a then rest.headD a else h
    let x := s.axis h
    let s := s.setAxis a { s.axis a with lead := none }
    let s := foldS (fun s b => (s.setAxis b { s.axis b with lead := some h' }).setAxState b axEmergency) s rest
    let s := if h == a then s.setAxis h' { s.axis h' with fine := x.fine, acc := x.acc, frac := x.frac, done := x.done }
      else s
    if rest.isEmpty then s else s.raise 0x50 h' (256 * s.fld (R.GLS_VEL h') F.GLS_VEL_VEL)

/-- DRVFLT sets: E51 with the mode and position. In MODE 1 the axis is HALTED with velocity 0; in MODE 2 the emergency
ramp runs (R263). -/
def State.driverFault (s : State) (a : Nat) : State :=
  let moving := s.axMoves a
  let s := if s.ax a F.GLS_AXST_DRVFLT == 0 then
      (s.setAx a F.GLS_AXST_DRVFLT 1).raise 0x51 a (s.axMode a + 256 * s.fld (R.GLS_POS a) F.GLS_POS_POS) else s
  let s := s.setAxis a { s.axis a with rearmed := false, nflt := true }
  let s := if moving then s.setAx a F.GLS_AXST_REF 0 else s
  if s.axState a == axDisabled then s
  else if s.axMode a == 1 then
    let s := if s.axState a == axHoming then s.homeFails a 3 else s
    ((s.leaveGroup a).emptyQueue a).rest a axHalted
  else if s.axMode a == 2 then s.emergency a 3
  else s

def execDriverFault (ax : Fin 6) (s : State) : Out := .next (if s.islandOn 13 then s.driverFault ax else s)

/-- The current of a phase that GLS_IMEAS shows. -/
def State.phaseShown (s : State) (a : Nat) (phaseB : Bool) : Nat :=
  s.fld (R.GLS_IMEAS a) (if phaseB then F.GLS_IMEAS_IB else F.GLS_IMEAS_IA)

/-- The loop of a phase has been off its setpoint for 40 PWM periods: LOOPLOST, E52 with the phase and its current, and
the emergency ramp (R263). -/
def State.loopLost (s : State) (a : Nat) (phaseB : Bool) : State :=
  let s := if s.ax a F.GLS_AXST_LOOPLOST == 0 then
      (s.setAx a F.GLS_AXST_LOOPLOST 1).raise 0x52 a (phaseB.toNat + 256 * s.phaseShown a phaseB) else s
  s.emergency a 4

/-- LOOP_LOST. `meas` is the current that GLS_IMEAS shows of the phase. -/
def execLoopLost (ax : Fin 6) (phaseB : Bool) (meas : BitVec 16) (s : State) : Out :=
  let off := if phaseB then (s.axis ax).offB else (s.axis ax).offA
  .next (if s.islandOn 13 && s.phasesDriven ax && decide (40 ≤ off) && meas.toNat == s.phaseShown ax phaseB then
    s.loopLost ax phaseB else s)

/-- The emergency-stop line of axis `a` is output 48 + a of Pergola (R156). -/
def State.estopLine (s : State) (a : Nat) : Bool := s.tripAsserted (48 + a)

def execEstopLineAssert (ax : Fin 6) (s : State) : Out :=
  .next (if s.islandOn 13 && s.estopLine ax then (s.setAx ax F.GLS_AXST_ESTOPLN 1).emergency ax 1 else s)

/-- The direction in which axis `a` travels: 0 when it does not. -/
def State.travel (s : State) (a : Nat) : Int :=
  if !(s.axMoves a) then 0
  else if (s.axis a).lead.isSome then Int.sign (s.axis a).dist
  else if (s.axis a).fine != 0 then Int.sign (s.axis a).fine
  else (s.axis a).motion.sign (s.axPos a)

/-- E55 with the limit and the position. -/
def State.noteEndLimit (s : State) (a : Nat) (positive : Bool) : State :=
  s.raise 0x55 a (positive.toNat + 256 * s.fld (R.GLS_POS a) F.GLS_POS_POS)

/-- The live bit of an end limit. -/
def limitFld (positive : Bool) : Fld := if positive then F.GLS_AXST_LIMP else F.GLS_AXST_LIMN

/-- The digital input that is an end limit of axis `a` (R273). -/
def State.limitInput (s : State) (a : Nat) (positive : Bool) : Nat :=
  s.fld (R.GLS_CFG a) (if positive then F.GLS_CFG_LIMP else F.GLS_CFG_LIMN)

/-- The level of an end limit has matched LPOL. -/
def State.limitMatches (s : State) (a : Nat) (positive : Bool) : Bool :=
  s.flag (R.GLS_CFG a) F.GLS_CFG_LIMEN &&
    s.axInput (s.limitInput a positive) == s.flag (R.GLS_CFG a) F.GLS_CFG_LPOL

/-- The instant at which the level of input `n` will have held for `d` without a break. -/
def State.heldUntil (s : State) (n d : Nat) : Time := tabGet (dflt 0) s.trp.tapAt n + d

/-- A limit input is active after 100 µs (R273). -/
def limitAfter : Nat := 100 * us

/-- LIMIT_INPUT_ACTIVE comes when the input has matched LPOL for 100 µs (log 1). -/
def execLimitInputActive (ax : Fin 6) (positive : Bool) (s : State) : Out :=
  .next (if s.islandOn 13 && s.limitMatches ax positive && s.ax ax (limitFld positive) == 0 then
      let s := s.atTime (s.heldUntil (s.limitInput ax positive) limitAfter)
      let s := (s.setAx ax (limitFld positive) 1).noteEndLimit ax positive
      if s.axState ax == axHoming || s.travel ax == (if positive then 1 else -1) then s.emergency ax 5 else s
    else s)

def execLimitInputInactive (ax : Fin 6) (positive : Bool) (s : State) : Out :=
  .next (if s.islandOn 13 && !(s.limitMatches ax positive) && s.ax ax (limitFld positive) != 0
    then (s.setAx ax (limitFld positive) 0).noteEndLimit ax positive else s)

/-! ### Homing (R275, R276) -/

/-- How far and how long the new level holds before an edge is qualified (R275). -/
def homeTravel : Int := 32
def homeAfter : Nat := 2 * ms

/-- The home edge at position `e` is qualified: the input stands in the state the phase looks for, and has done so over
32 microsteps of travel past the edge. BACKOFF looks for none. -/
def State.homeQualified (s : State) (a : Nat) (e : Int) : Bool :=
  let ph := s.ax a F.GLS_AXST_HPH
  ph != 3 && s.homeActive a == (ph != 1) && decide (homeTravel ≤ s.heading a * (s.axPos a - e))

/-- HOME_EDGE_QUALIFIED comes, past the 32 microsteps, when the input has also held for 2 ms (log 1). -/
def execHomeEdgeQualified (ax : Fin 6) (edgePos : Word) (s : State) : Out :=
  let x := s.axis ax
  .next (if s.islandOn 13 && s.axState ax == axHoming && !x.edgeSeen && s.homeQualified ax edgePos.toInt
    then (s.atTime (s.heldUntil (s.fld (R.GLS_CFG ax) F.GLS_CFG_HDI) homeAfter)).setAxis ax { x with homeEdge := edgePos.toInt, edgeSeen := true, decel := true } else s)

/-- A phase has run its distance, or BACKOFF has ended with the home input active; the value is HCAUSE. -/
def State.homeOverrun (s : State) (a : Nat) : Option Nat :=
  let x := s.axis a
  let gone := (s.axPos a - x.homeFrom).natAbs
  match s.ax a F.GLS_AXST_HPH with
  | 3 => if x.motion == .toTarget (s.axPos a) && x.fine == 0 && s.homeActive a then some 4 else none
  | 4 => if !x.edgeSeen && 2 * s.fld (R.GLS_BOFF a) F.GLS_BOFF_BOFF ≤ gone then some 2 else none
  | _ => if !x.edgeSeen && s.fld (R.GLS_HDIST a) F.GLS_HDIST_HDIST ≤ gone then some 2 else none

def execHomeDistanceFail (ax : Fin 6) (s : State) : Out :=
  .next (if s.islandOn 13 && s.axState ax == axHoming then
      (match s.homeOverrun ax with
       | some c => (s.homeFails ax c).endHoming ax
       | none => s)
    else s)

/-- APPROACH ends: the position is set so that the latched edge reads HOFS, REF sets, and the axis stops at DEC. -/
def State.homed (s : State) (a : Nat) : State :=
  let e := (s.axis a).homeEdge
  let s := s.setAxis a { s.axis a with homed := some e }
  let s := s.setSfld (R.GLS_POS a) F.GLS_POS_POS (s.axPos a + s.sfld (R.GLS_HOFS a) F.GLS_HOFS_HOFS - e)
  ((s.setAx a F.GLS_AXST_REF 1).setAx a F.GLS_AXST_RESTORED 0).endHoming a

def execHomeComplete (ax : Fin 6) (s : State) : Out :=
  .next (if s.islandOn 13 && s.axState ax == axHoming && s.ax ax F.GLS_AXST_HPH == 4 && (s.axis ax).edgeSeen
    then s.homed ax else s)

/-! ### Load, start and the PD10 cycle (R277, R278, R281) -/

/-- The offset of the first register that makes the configuration of axis `a` invalid (R276, R278). -/
def State.axisInvalid (s : State) (a : Nat) : Option Nat :=
  let f := fun (r : Nat → Nat) (x : Fld) => s.fld (r a) x
  let hdi := f R.GLS_CFG F.GLS_CFG_HDI
  let ln := f R.GLS_CFG F.GLS_CFG_LIMN
  let lp := f R.GLS_CFG F.GLS_CFG_LIMP
  let dec := f R.GLS_DEC F.GLS_DEC_DEC
  let edec := f R.GLS_EDEC F.GLS_EDEC_EDEC
  let vmax := f R.GLS_VMAX F.GLS_VMAX_VMAX
  let sspd := f R.GLS_SSPD F.GLS_SSPD_SSPD
  let clash := f R.GLS_CFG F.GLS_CFG_LIMEN != 0 && (hdi == ln || hdi == lp)
  let off := fun (k : Nat) => some (k + 0x80 * a)
  if s.axMode a == 3 || 47 < hdi || 47 < ln || 47 < lp || clash then off 0x000
  else if vmax == 0 || 250000 < vmax then off 0x010
  else if f R.GLS_ACC F.GLS_ACC_ACC == 0 then off 0x014
  else if dec == 0 then off 0x018
  else if edec == 0 || edec < dec then off 0x020
  else if vmax < sspd then off 0x024
  else if sspd < f R.GLS_CSPD F.GLS_CSPD_CSPD then off 0x028
  else if f R.GLS_BOFF F.GLS_BOFF_BOFF < 64 then off 0x02C
  else none

/-- The configuration registers of an axis, its tables among them. -/
def isAxisConfig (a : Nat) : Bool :=
  blockNo a == 0x400E && (a % 0x10000 / 0x1000 != 0 || (a % 0x80 < 0x38 && a % 0x80 != 0xC))

/-- The image holds a configuration for axis `a`. -/
def State.axisInImage (s : State) (a : Nat) : Bool :=
  s.img.exec.tables.any (fun e => R.GLS_CFG a ≤ e.1 && e.1 < R.GLS_CFG a + 0x38)

/-- The bits an image may set in a configuration register of an axis: CFGERR and the reserved bits are not among them
(R5, R280). -/
def axisMask (a : Nat) : Word :=
  if a % 0x10000 / 0x1000 != 0 then 0xFFFF
  else if a % 0x80 == 0 then 0x1CF3FFFF
  else if a % 0x80 == 4 then 0x07FF07FF
  else 0xFFFFFFFF

/-- Table words are loaded into the table and into its staging copy (R265, R277). -/
def State.loadAxisWord (s : State) (e : Nat × Word) : State :=
  let v := e.2 &&& axisMask e.1
  let s := s.wr e.1 v
  if R.GLS_TBL 0 0 0 ≤ e.1 && e.1 < R.GLS_TSTG 0 0 0 then s.wr (e.1 + 0x3000) v else s

/-- Axis `a` after a start or a PD10 cycle: DISABLED, its position and TSEL restored, RESTORED set; REF is kept only
over a cycle that found the axis at standstill; an axis it found moving is UNREFERENCED, with E56. As at every entry to
DISABLED the record is written (R277). -/
def State.restoreAxis (start : Bool) (s : State) (a : Nat) : State :=
  let x := s.axis a
  let m := tabGet resetWord s.mirror (R.GLS_AXST a)
  let ref := !start && !x.wasMoving && fldOf F.GLS_AXST_REF m != 0
  let s := s.wr (R.GLS_POS a) (tabGet resetWord s.mirror (R.GLS_POS a))
  let s := (s.wr (R.GLS_AXST a) 0).setAx a F.GLS_AXST_TSEL (fldOf F.GLS_AXST_TSEL m)
  let s := (s.setAx a F.GLS_AXST_REF ref.toNat).setAx a F.GLS_AXST_RESTORED 1
  let s := s.setAx a F.GLS_AXST_ESTOPLN (s.estopLine a).toNat
  let s := s.setAxis a axisReset
  let s := if !start && x.wasMoving then s.raise 0x56 a (s.fld (R.GLS_POS a) F.GLS_POS_POS) else s
  let s := s.toMirror [R.GLS_POS a, R.GLS_AXST a]
  match (if s.axisInImage a then s.axisInvalid a else none) with
  | some off => (s.setFlag (R.GLS_CFG a) F.GLS_CFG_CFGERR true).raise 0x57 a off
  | none => s

/-- Glissade's registers return to their Reset column and load from the executing image (R277, R281). -/
def State.loadGlissade (s : State) (start : Bool) : State :=
  let s := s.resetRegs (fun a => blockNo a == 0x400E)
  let s := foldS State.loadAxisWord s (s.img.exec.tables.filter (fun e => isAxisConfig e.1))
  foldS (State.restoreAxis start) s (List.range 6)

/-- PD10 is switched off: what was moving stops where it stands (R277). -/
def State.dropGlissade (s : State) : State :=
  foldS (fun s a => s.setAxis a { axisReset with wasMoving := s.axMoves a }) s (List.range 6)

end Sys2Proof.Machine
end

