-- ==== Sys2Proof/Machine/Commit.lean ====
section
/-! DEFINITION. A commit word applied (R218, R219): the checks in their order, and the operation of the feature that
owns its kind. Each operation is the one that the command of that name calls. -/

namespace Sys2Proof.Machine

/-- Bits 39:36 of the value: the operation of kinds 0x04, 0x05, 0x09 and 0x0A. -/
def cvOp (v : Nat) : Nat := bitsOf v 36 4

/-- Bits 31:0 of the value, signed. -/
def cvSigned (v : Nat) : Int := signOf 32 (v % 2 ^ 32)

/-- The bits of `v` outside `used` are 0 (R219 step 4). -/
def onlyBits (used v : Nat) : Bool := v &&& used == v

/-- The bits `hi`..`lo`. -/
def bitMask (hi lo : Nat) : Nat := 2 ^ (hi + 1) - 2 ^ lo

/-- Bits 39:36. -/
def opBits : Nat := bitMask 39 36

/-- The targets of a kind: `none` for an undefined kind; the recorder-event kind has a target field of its own. -/
def kindTargets (k : Nat) : Option (Nat × Nat) :=
  match k with
  | 0x01 => some (0, 47) | 0x02 => some (132, 255) | 0x03 => some (0, 255) | 0x04 => some (0, 2047)
  | 0x05 => some (0, 15) | 0x06 => some (0, 0) | 0x07 => some (0, 63) | 0x08 => some (0, 15)
  | 0x09 => some (0, 5) | 0x0A => some (0, 0) | _ => none

/-- The value bits that an operation of a kind uses; `none` where no operation has that code. An unknown action on an
entry is left to step 5, where STATE comes before RANGE (R218, R219). -/
def usedBits (k v : Nat) : Option Nat :=
  match k with
  | 0x01 => some 1
  | 0x02 => some (bitMask 31 0)
  | 0x03 => some (bitMask 3 0)
  | 0x04 => (match cvOp v with
    | 1 => some opBits | 3 => some opBits | 4 => some opBits | 5 => some opBits
    | _ => some (opBits + bitMask 16 0))
  | 0x05 => (match cvOp v with
    | 1 => some (opBits + bitMask 8 0) | 2 => some opBits | 3 => some (opBits + bitMask 2 0) | 4 => some opBits
    | 5 => some opBits | 6 => some opBits | _ => none)
  | 0x06 => some (bitMask 2 0)
  | 0x07 => some 1
  | 0x08 => some 0
  | 0x09 => (match cvOp v with
    | 1 => some (opBits + bitMask 31 0) | 2 => some (opBits + bitMask 31 0) | 3 => some (opBits + bitMask 31 0)
    | 4 => some opBits | 5 => some opBits | 6 => some (opBits + bitMask 35 0) | 7 => some opBits
    | 8 => some (opBits + 1) | 9 => some (opBits + bitMask 24 0) | 10 => some (opBits + 1 + bitMask 5 4)
    | 11 => some (opBits + bitMask 31 0) | 12 => some (opBits + bitMask 5 0) | 13 => some (opBits + bitMask 31 0)
    | 14 => some opBits | _ => none)
  | 0x0A => (match cvOp v with
    | 1 => some (opBits + bitMask 35 27 + bitMask 15 0) | 2 => some (opBits + bitMask 35 4)
    | 3 => some (opBits + bitMask 35 6) | 4 => some (opBits + bitMask 9 4) | _ => none)
  | _ => none

/-- An entry action (R172); an unknown one is refused with RANGE once the entry has passed its own check. -/
def State.entryAction (s : State) (e v tick : Nat) : State :=
  match cvOp v with
  | 1 => s.ackEntryOp e tick
  | 2 => s.shelveOp e (bitsOf v 0 17)
  | 3 => s.unshelveOp e
  | 4 => s.oosOp e
  | 5 => s.returnOp e
  | _ => s.entryCheck e (fun s => s.answer .range)

/-- A plan action (R172). -/
def State.planAction (s : State) (p v : Nat) : State :=
  match cvOp v with
  | 1 => s.startPlanOp p (bitsOf v 0 9)
  | 2 => s.endPlanAct p
  | 3 => s.acceptLevelOp p (bitsOf v 0 3)
  | 4 => s.silencePlanOp p
  | 5 => s.armOp p
  | _ => s.disarmOp p

/-- An axis command (R267). -/
def State.axisAction (s : State) (a v : Nat) : State :=
  match cvOp v with
  | 1 => s.moveaOp a (cvSigned v)
  | 2 => s.moverOp a (cvSigned v)
  | 3 => s.jogOp a (cvSigned v)
  | 4 => s.axisStopOp a
  | 5 => s.estopOp a
  | 6 => s.setparOp a (bitsOf v 32 4) (v % 2 ^ 32)
  | 7 => s.homeOp a
  | 8 => if v.testBit 0 then s.axisEnableOp a else s.axisDisableOp a
  | 9 => s.tblwrOp a (v.testBit 24) (bitsOf v 16 8) (bitsOf v 0 16)
  | 10 => s.tblselOp a (v.testBit 0) (v.testBit 4) (v.testBit 5)
  | 11 => s.gtgtOp a (cvSigned v)
  | 12 => s.ggoOp a (v % 2 ^ 32)
  | 13 => s.presetOp a (cvSigned v)
  | _ => s.axisClearOp a

/-- A panel request (R284). -/
def State.panelAction (s : State) (v : Nat) : State :=
  match cvOp v with
  | 1 => s.drawOp 0 (bitsOf v 30 6) (bitsOf v 27 3) (BitVec.ofNat 16 v)
  | 2 => s.updateOp 0 (bitsOf v 30 6) (bitsOf v 24 6) (bitsOf v 17 7) (bitsOf v 10 7) (bitsOf v 4 6)
  | 3 => s.copyOp 0 (bitsOf v 30 6) (bitsOf v 24 6) (bitsOf v 17 7) (bitsOf v 10 7) (bitsOf v 6 4)
  | _ => s.panelClearOp 0 (bitsOf v 4 6)

/-- The operation of the owning feature (R219 step 5); the acknowledge of a tick compares with its TICK (R167). -/
def State.ownerAction (s : State) (k n v tick : Nat) : State :=
  match k with
  | 0x01 => s.doSet n (v.testBit 0)
  | 0x02 => s.derivedWrite n (BitVec.ofNat 32 v)
  | 0x03 => if v = 1 then s.ackGroupOp n tick else if v = 2 then s.silenceGroupOp n else s.answer .range
  | 0x04 => s.entryAction n v tick
  | 0x05 => s.planAction n v
  | 0x06 => s.selectWatchOp n (bitsOf v 0 3)
  | 0x07 => s.inhibitBit n (v.testBit 0)
  | 0x08 => s.counterReset n
  | 0x09 => s.axisAction n v
  | _ => s.panelAction v

/-- The recorder event of a SNAP (R208, R218): DENIED by CMT, RANGE for another code, set, reserved target bit or
value; its data is the extension word and its snapshot set the one it names. -/
def State.recorderEvent (s : State) (n v : Nat) (ext : Option CWord) : State :=
  match ext with
  | none => s.answer .denied
  | some d =>
    if bitsOf n 0 8 < 0x7C || 0x7F < bitsOf n 0 8 || 16 < bitsOf n 8 5 || bitsOf n 13 3 != 0 || v != 0 then s.answer .range
    else (s.raiseT ⟨s.now, bitsOf n 0 8, 0, d, false, none, some (bitsOf n 8 5), none⟩).answer .ok

/-- Apply commit word `w` of the tick `tick`: the status it leaves says how it fared (R219). -/
def State.applyCommit (s : State) (w : CWord) (ext : Option CWord) (tick : Nat) : State :=
  let k := cwKind w
  let n := cwTarget w
  let v := cwValue w
  if k = 0x0B then s.recorderEvent n v ext
  else match kindTargets k with
    | none => s.answer .range
    | some (lo, hi) =>
      if n < lo || hi < n then s.answer .address
      else match usedBits k v with
        | none => s.answer .range
        | some used => if onlyBits used v then s.ownerAction k n v tick else s.answer .range

end Sys2Proof.Machine
end

