-- ==== Sys2Proof/Machine/Steps.lean ====
section
/-! DEFINITION. The entries of the start steps in the present start record (R376, R377, R389). -/

namespace Sys2Proof.Machine

/-- The states of R377. -/
def stNotRun : Nat := 0
def stBegun : Nat := 1
def stOk : Nat := 2
def stFailed : Nat := 3
def stLost : Nat := 4
def stTimeout : Nat := 5
def stSkipped : Nat := 6

/-- The modes of SYS_STEP.MODE. -/
def mdNormal : Nat := 0
def mdAlt : Nat := 1
def mdSkipped : Nat := 2
def mdBoth : Nat := 3

/-- State and mode of step `k`. -/
def State.stepState (s : State) (k : Nat) : Nat := s.fld (R.SYS_STEP k) F.SYS_STEP_STATE
def State.stepMode (s : State) (k : Nat) : Nat := s.fld (R.SYS_STEP k) F.SYS_STEP_MODE

/-- Set the state of step `k`. -/
def State.putStep (s : State) (k st : Nat) : State := s.setFld (R.SYS_STEP k) F.SYS_STEP_STATE st

/-- Set the mode of step `k`. -/
def State.putMode (s : State) (k m : Nat) : State := s.setFld (R.SYS_STEP k) F.SYS_STEP_MODE m

/-- Microseconds since supplies valid. -/
def State.sinceStart (s : State) : Nat := (s.now - s.sup.startAt) / us

/-- Step `k` ends in state `st`, `e` µs after supplies valid (R376). -/
def State.endStepAt (s : State) (k st e : Nat) : State :=
  (s.putStep k st).setFld (R.SYS_STEP k) F.SYS_STEP_END (Nat.min e (2 ^ 24 - 1))

/-- Step `k` ends in state `st` now. -/
def State.endStep (s : State) (k st : Nat) : State := s.endStepAt k st s.sinceStart

/-- Step `k` has begun and not ended; a supply loss has written LOST to it if it met it (R370). -/
def State.stepRuns (s : State) (k : Nat) : Bool := s.stepState k == stBegun || s.stepState k == stLost

/-- Step `k` has ended. -/
def State.stepEnded (s : State) (k : Nat) : Bool :=
  s.stepState k == stOk || s.stepState k == stFailed || s.stepState k == stTimeout || s.stepState k == stSkipped

end Sys2Proof.Machine
end

