-- ==== Sys2Proof/Machine/Images.lean ====
section
/-! DEFINITION. The images of MRAM (R350), their check (R358, R359), the transfer of an image (R357, R358), the digest
pass (R351, R364), the ship key (R359, R365) and the clear of Thaw flags that IMAGE_SWITCH makes (R381). -/

namespace Sys2Proof.Machine

/-- What a request is answered with (R353): the status, the ARG0 the manual states, the payload. -/
structure Ans where
  stat : Status
  arg0 : Option Word
  payload : List Byte
deriving DecidableEq, Repr, Inhabited

/-- An answer that is a status alone. -/
def ansOf (r : Status) : Ans := ⟨r, none, []⟩

/-! ### The parts of an image (R350) -/

/-- The `n` bytes of a memory from `o`. -/
def memRange (m : Mem) (o n : Nat) : List Byte := (List.range n).map (fun i => memByte 0 m (o + i))

/-- The little-endian number in the `n` bytes of a memory from `o`. -/
def memNat (m : Mem) (o n : Nat) : Nat := ofLeBytes (memRange m o n)

def imgFormat (m : Mem) : Nat := memNat m 0x000 4
def imgLength (m : Mem) : Nat := memNat m 0x004 4
def imgEpoch (m : Mem) : Nat := memNat m 0x008 2
def imgAddr (m : Mem) : Nat := memNat m 0x00A 1
def imgTagged (m : Mem) : Bool := (memNat m 0x00B 1).testBit 0
def imgComOfs (m : Mem) : Nat := memNat m 0x00C 4
def imgComLen (m : Mem) : Nat := memNat m 0x010 4
def imgComDig (m : Mem) : Word := BitVec.ofNat 32 (memNat m 0x014 4)
def imgDig (m : Mem) : Word := BitVec.ofNat 32 (memNat m 0x018 4)
def imgTag (m : Mem) : List Byte := memRange m 0x020 32

/-- The common section's ring configuration: ETYPE, MODE, NN, CYCT. -/
def comEtype (m : Mem) : Nat := memNat m (imgComOfs m) 2
def comMode (m : Mem) : Nat := memNat m (imgComOfs m + 2) 1
def comNn (m : Mem) : Nat := memNat m (imgComOfs m + 3) 1
def comCyct (m : Mem) : Nat := memNat m (imgComOfs m + 4) 4

/-- The digests as computed over the bytes as stored. -/
def computedCom (m : Mem) : Word := crc32c (memRange m (imgComOfs m) (imgComLen m))
def computedImg (m : Mem) : Word := crc32c (memRange m 0x040 (imgLength m - 0x040))

/-- The common section's values are valid for a node at address `addr`. -/
def comValid (m : Mem) (addr : Nat) : Bool :=
  0x600 ≤ comEtype m && comMode m ≤ 1 && 1 ≤ comNn m && comNn m ≤ 64 && addr ≤ comNn m &&
    250 ≤ comCyct m && comCyct m ≤ 100000

/-- The header's FORMAT, ADDR and LENGTH, the bounds of the common section, its values and both digests are good. -/
def imgSound (m : Mem) (addr : Nat) : Bool :=
  imgFormat m == 1 && 1 ≤ imgAddr m && imgAddr m ≤ 64 && 0x1000 ≤ imgLength m && imgLength m ≤ 0x200000 && imgLength m % 32 == 0 &&
    0x1000 ≤ imgComOfs m && 16 ≤ imgComLen m && imgComLen m ≤ 65536 && imgComOfs m + imgComLen m ≤ imgLength m &&
    comValid m addr && computedCom m == imgComDig m && computedImg m == imgDig m

/-- The bytes of the ship key, word 0 least significant (R365). -/
def keyBytes (k : List Word) : List Byte := (k.map (fun w => leBytes 4 w.toNat)).flatten

/-- The tag test (R359): passed while no key is held; else the image must be tagged with the right tag. -/
def imgTagOk (key : Option (List Word)) (m : Mem) : Bool :=
  match key with
  | none => true
  | some k => imgTagged m &&
      imgTag m == hmac (keyBytes k) (memRange m 0 0x20 ++ memRange m 0x40 (imgLength m - 0x40))

/-- The check of an image (R358 step 3, in the order of its table); `len` is the announced length, none at a start. -/
def imageFault (key : Option (List Word)) (m : Mem) (len : Option Nat) (addr : Nat) : Option Status :=
  if imgAddr m ≠ addr then some .address
  else if !(imgSound m addr) || !(len.getD (imgLength m) == imgLength m) then some .range
  else if !(imgTagOk key m) then some .denied
  else none

/-- No image executes: before the first start, or NOIMG (R360). -/
def State.noImage (s : State) : Bool := !s.sup.running || s.flag R.SYS_START F.SYS_START_NOIMG

/-- EPOCH of the executing image; 0 with NOIMG (R355). -/
def State.ownEpoch (s : State) : Nat := if s.noImage then 0 else imgEpoch s.execBytes

/-- COMDIG of the executing image's header; 0 with NOIMG. -/
def State.ownComDig (s : State) : Word := if s.noImage then 0 else imgComDig s.execBytes

/-! ### The transfer (R357, R358) -/

/-- RNG_IMG.STATE: 0 idle, 1 open, 2 checking, 3 passed. -/
def State.imgState (s : State) : Nat := s.fld R.RNG_IMG F.RNG_IMG_STATE

def State.setImgState (s : State) (v : Nat) : State := s.setFld R.RNG_IMG F.RNG_IMG_STATE v

/-- The target is image B: A executes. With none valid it is image A (R357). -/
def State.targetB (s : State) : Bool := !(s.noImage) && !(s.flag R.SYS_START F.SYS_START_IMG)

/-- The image a transfer writes (RNG_IMG.TGT). -/
def State.target (s : State) : Image := if s.flag R.RNG_IMG F.RNG_IMG_TGT then s.img.imgB else s.img.imgA

/-- The image a transfer writes becomes `x`. -/
def State.setTarget (s : State) (x : Image) : State :=
  if s.flag R.RNG_IMG F.RNG_IMG_TGT then s.setImg { s.img with imgB := x }
  else s.setImg { s.img with imgA := x }

/-- 0 for the ring, 1 for the service port (RNG_IMG.SRC). -/
def portNum : Port → Nat
  | .host => 0
  | .svc => 1

/-- An image message is BUSY: the other source holds the transfer, or its check runs, or MRAM is off (R357, R358). -/
def State.imageBusy (s : State) (p : Port) : Bool :=
  !(s.powered 8) || s.imgState == 2 || (s.imgState == 1 && s.fld R.RNG_IMG F.RNG_IMG_SRC != portNum p)

/-- The length announced. -/
def State.imgLen (s : State) : Nat := (s.rd R.RNG_IMGLEN).toNat

def State.unitHeld (s : State) (u : Nat) : Bool := tabGet (dflt false) s.img.units u

/-- The lowest offset not yet received in the open transfer. -/
def State.firstMissing (s : State) : Option Nat :=
  ((List.range (s.imgLen / 32)).find? (fun u => !(s.unitHeld u))).map (fun u => 32 * u)

/-- A node with a valid image (R358). -/
def State.anyValid (s : State) : Bool := s.img.imgA.valid || s.img.imgB.valid

/-- IMAGE_BEGIN with length `len`. -/
def State.imageBeginOp (s : State) (p : Port) (len : Nat) : State × Ans :=
  if s.imageBusy p then (s, ansOf .busy)
  else if len = 0 then (s, ansOf .ok)
  else if 0x200000 < len then (s, ansOf .length)
  else if len < 0x1000 || len % 32 != 0 then (s, ansOf .range)
  else if !(s.lockOpen) && s.anyValid then (s, ansOf .denied)
  else
    let s := ((s.setFld R.RNG_IMG F.RNG_IMG_SRC (portNum p)).setFlag R.RNG_IMG F.RNG_IMG_TGT s.targetB).setFld R.RNG_IMG
      F.RNG_IMG_UNITS 0
    let s := (s.setImgState 1).wr R.RNG_IMGLEN (BitVec.ofNat 32 len)
    let s := s.setImg { s.img with units := [] }
    (s.setTarget { s.target with valid := false }, ansOf .ok)

/-- Mark unit `u` received, and count it where it is new. -/
def State.markUnit (s : State) (u : Nat) : State :=
  if s.unitHeld u then s
  else
    let s := s.setImg { s.img with units := tabSet (dflt false) s.img.units u true }
    s.addFld R.RNG_IMG F.RNG_IMG_UNITS 1

/-- IMAGE_BLOCK: the bytes `l` at offset `o`. -/
def State.imageBlockOp (s : State) (p : Port) (o : Nat) (l : List Byte) : State × Ans :=
  if s.imageBusy p then (s, ansOf .busy)
  else if s.imgState != 1 then (s, ansOf .state)
  else if s.imgLen < l.length || s.imgLen < o + l.length then (s, ansOf .length)
  else if l.length % 32 != 0 || o % 32 != 0 then (s, ansOf .range)
  else
    let s := s.setTarget { s.target with bytes := memPut 0 s.target.bytes o l }
    (foldS State.markUnit s ((List.range (l.length / 32)).map (fun i => o / 32 + i)), ansOf .ok)

/-- A refusal of step 3: RES and E76. The manual gives "reason; offset" without a coding of the reason, and states the
offset for a missing unit only: the rest is a free value (log 51). -/
def State.noteImageRefused (s : State) (r : Status) (ofs : Option Nat) : State :=
  let a := s.freshWord
  let b := a.2.freshWord
  let s := b.2.setFld R.RNG_IMG F.RNG_IMG_RES r.code
  s.raise 0x76 r.code (data2 a.1.toNat (ofs.getD b.1.toNat))

/-- IMAGE_END: refused with the first missing offset, or the check starts; its answer comes at IMAGE_CHECK_DONE. -/
def State.imageEndOp (s : State) (p : Port) (m : Msg) : State × Option Ans :=
  if s.imageBusy p then (s, some (ansOf .busy))
  else
    match (if s.imgState == 0 then some 0 else s.firstMissing) with
    | some o => (s.noteImageRefused .state (some o), some ⟨.state, some (BitVec.ofNat 32 o), []⟩)
    | none =>
      let s := s.setImgState 2
      (s.setImg { s.img with ending := some (p, m) }, none)

/-- The check of the target ends (R358 step 3): on a pass the target is valid, with E77. -/
def State.checkTarget (s : State) : State × Status :=
  match imageFault s.img.key s.target.bytes (some s.imgLen) s.sup.addr with
  | some r => (((s.noteImageRefused r none).setImgState 1).answer r, r)
  | none =>
    let s := (s.setImgState 3).setFld R.RNG_IMG F.RNG_IMG_RES 0
    let s := s.setTarget { s.target with valid := true }
    ((s.raise 0x77 0 (data2 s.imgLen (imgDig s.target.bytes).toNat)).answer .ok, .ok)

/-- ALTCNT of step `k` in the control block (R376). -/
def State.altCount (s : State) (k : Nat) : Nat := s.sup.altCnt.getD k 0

def State.setAltCount (s : State) (k v : Nat) : State :=
  let l := (List.range 16).map (fun i => if i == k then v else s.altCount i)
  (s.setSup { s.sup with altCnt := l }).setFld (R.SYS_STEP k) F.SYS_STEP_ALTCNT v

/-- SKIP of step `k` (SYS_THAW.SKIP). -/
def State.skipFlag (s : State) (k : Nat) : Bool := (s.fld R.SYS_THAW F.SYS_THAW_SKIP).testBit k

def State.setSkip (s : State) (k : Nat) (b : Bool) : State :=
  s.setFld R.SYS_THAW F.SYS_THAW_SKIP (setBitN (s.fld R.SYS_THAW F.SYS_THAW_SKIP) k b)

/-- Clear SKIP and ALTCNT of the steps whose bit is set in `bits`, with E0B (R381). -/
def State.clearThaw (s : State) (bits : Nat) : State :=
  let s := foldS (fun s k => (s.setSkip k false).setAltCount k 0) s (onesOf 16 bits)
  s.raise 0x0B 0 (bits % 2 ^ 16)

/-- The steps whose flags IMAGE_SWITCH clears: S02 and S09–S13 (R381). -/
def switchSteps : Nat := 2 ^ 2 + 2 ^ 9 + 2 ^ 10 + 2 ^ 11 + 2 ^ 12 + 2 ^ 13

/-- A restart as RESTART makes it: at the end of the cycle that carries the OK, or 100 ms on (R356). -/
def State.orderHostRestart (s : State) : State := s.orderRestart 1 (s.now + 100 * ms)

/-- IMAGE_SWITCH. -/
def State.imageSwitchOp (s : State) (p : Port) : State × Ans :=
  if s.imageBusy p then (s, ansOf .busy)
  else if s.imgState != 3 then (s, ansOf .state)
  else
    let s := s.setFld R.SYS_START F.SYS_START_SELB (s.fld R.RNG_IMG F.RNG_IMG_TGT)
    let s := s.clearThaw switchSteps
    let s := s.raise 0x77 1 (data2 s.imgLen (imgDig s.target.bytes).toNat)
    (s.orderHostRestart, ansOf .ok)

/-- RESTART. -/
def State.restartOp (s : State) : State × Ans :=
  if s.lockOpen then (s.orderHostRestart, ansOf .ok) else (s, ansOf .denied)

/-- A PD8 cycle abandons a transfer and resets the DIG block (R357, R367). -/
def State.dropTransfer (s : State) : State :=
  let s := (s.wr R.RNG_IMG 0).wr R.RNG_IMGLEN 0
  let s := s.resetRegs (fun a => blockNo a == 0x4013)
  s.setImg { s.img with units := [], ending := none, passHost := false, digErr := false }

/-! ### Digests (R351, R364) -/

/-- The digests of the executing image, computed and stored, in the DIG block. -/
def State.showDigests (s : State) : State :=
  let m := s.execBytes
  let s := s.wrAll [(R.DIG_COMMON, computedCom m), (R.DIG_IMAGE, computedImg m), (R.DIG_STCOM, imgComDig m),
    (R.DIG_STIMG, imgDig m)]
  s.setFlag R.DIG_STAT F.DIG_STAT_TAGGED (imgTagged m)

/-- A pass ends. -/
def State.digestPassOp (s : State) : State :=
  let m := s.execBytes
  let c := computedCom m == imgComDig m
  let i := computedImg m == imgDig m
  let s := s.showDigests
  let s := ((s.setFlag R.DIG_STAT F.DIG_STAT_RUN false).setFlag R.DIG_STAT F.DIG_STAT_COMOK c).setFlag R.DIG_STAT
    F.DIG_STAT_IMGOK i
  let s := (s.addFld R.DIG_STAT F.DIG_STAT_PASSES 1).wr R.DIG_LAST (BitVec.ofNat 32 s.opsec)
  let s := s.setImg { s.img with passHost := false, digErr := !(c && i) }
  let s := s.applyIf (!c) (fun s => s.raise 0x74 0 (data2 (computedCom m).toNat (imgComDig m).toNat))
  s.applyIf (!i) (fun s => s.raise 0x74 1 (data2 (computedImg m).toNat (imgDig m).toNat))

def execDigestPass (t : Time) (s : State) : Out :=
  let s := s.atTime t
  .next (if s.islandOn 9 && !(s.noImage) then s.digestPassOp else s)

/-- DIGEST_NOW: a pass starts at once. With no executing image there is nothing to recompute. -/
def State.digestNowOp (s : State) : State × Ans :=
  if !(s.powered 8) || s.img.passHost then (s, ansOf .busy)
  else if s.noImage then (s, ansOf .state)
  else
    let s := s.setFlag R.DIG_STAT F.DIG_STAT_RUN true
    (s.setImg { s.img with passHost := true }, ansOf .ok)

/-! ### The ship key (R359, R365) -/

/-- The staged key and the proof. -/
def State.stagedKey (s : State) : List Word := (List.range 8).map (fun i => s.rd (R.SYS_KEY i))
def State.stagedProof (s : State) : List Word := (List.range 8).map (fun i => s.rd (R.SYS_KEYPRF i))

/-- Staging and proof words clear. -/
def State.clearStaging (s : State) : State := s.resetRegs (fun a => R.SYS_KEY 0 ≤ a && a ≤ R.SYS_KEYPRF 7)

/-- The staged key may be taken: none is held, or the proof is its HMAC under the present key. -/
def State.keyProven (s : State) : Bool :=
  match s.img.key with
  | none => true
  | some k => keyBytes s.stagedProof == hmac (keyBytes k) (keyBytes s.stagedKey)

/-- SYS_KEYCMD.PROV. -/
def State.keyProvisionOp (s : State) (p : Port) : State :=
  if p = .host then s.answer .denied
  else if !(s.powered 8) then s.answer .busy
  else if s.lockOpen && s.keyProven then
    let s := s.setImg { s.img with key := some s.stagedKey }
    let s := (s.setFlag R.SYS_KEYST F.SYS_KEYST_KEYSET true).setFlag R.SYS_KEYST F.SYS_KEYST_LASTFAIL false
    s.clearStaging.answer .ok
  else (s.setFlag R.SYS_KEYST F.SYS_KEYST_LASTFAIL true).clearStaging.answer .denied

def execKeyProvision (p : Port) (s : State) : Out := .next (s.keyProvisionOp p)

end Sys2Proof.Machine
end

