-- ==== Sys2Proof/Machine/Moraine.lean ====
section
/-! DEFINITION. The event recorder (R194, R318–R336): the event controller with its buckets and capture FIFO, delivery to
the cores' event lists, placement of records, and the two cursors. -/

namespace Sys2Proof.Machine

/-- Add one to a 32-bit count (modulo 2^32). -/
def State.count32 (s : State) (a : Nat) : State := s.wr a (s.rd a + 1)

/-- REC_LOSS counts, and the instant of the change is kept (R335, R345). -/
def State.countLoss (s : State) : State :=
  (s.count32 R.REC_LOSS).setMor { s.mor with lossAt := some s.now }

/-- One more in place `i` of a list of four counts. -/
def bump (l : List Nat) (i : Nat) : List Nat := l.mapIdx (fun j n => if j = i then n + 1 else n)

/-- Four counts as event data: 16 bits each, saturating (R326). -/
def counts4 (l : List Nat) : Nat :=
  let f (i : Nat) : Nat := Nat.min (l.getD i 0) 65535
  data4 (f 0) (f 1) (f 2) (f 3)

/-- The highest severity counted. -/
def topSev (l : List Nat) : Nat := ((List.range 4).filter (fun i => l.getD i 0 != 0)).foldl Nat.max 0

/-- Some count is not 0. -/
def anyCount (l : List Nat) : Bool := l.any (fun n => n != 0)

/-! ### Code configuration and buckets (R323, R325) -/

def State.codeSev (s : State) (c : Nat) : Nat := s.fld (R.REC_CODECFG c) F.REC_CODECFG_SEV
def State.codeRate (s : State) (c : Nat) : Nat := s.fld (R.REC_CODECFG c) F.REC_CODECFG_RATE
def State.codeBurst (s : State) (c : Nat) : Nat := s.fld (R.REC_CODECFG c) F.REC_CODECFG_BURST

/-- The bucket of code `c`; it starts full. -/
def State.bucket (s : State) (c : Nat) : Bucket :=
  (tabGet (dflt none) s.mor.buckets c).getD ⟨s.codeBurst c, 0, 0, 0, 0⟩

def State.setBucket (s : State) (c : Nat) (x : Bucket) : State :=
  s.setMor { s.mor with buckets := tabSet (dflt none) s.mor.buckets c (some x) }

/-- The codes of the summary records, which take no token (R325). -/
def isSummary (c : Nat) : Bool := c == 0x68 || c == 0x69 || c == 0x6A

/-- A trigger of code `c` takes a token, or is suppressed and counted: whether it goes on. -/
def State.takeToken (s : State) (c : Nat) : Bool × State :=
  if isSummary c || s.codeRate c == 0 then (true, s)
  else
    let b := s.bucket c
    if 0 < b.tokens then
      (true, s.setBucket c { b with tokens := b.tokens - 1, since := if b.tokens = s.codeBurst c then s.now else b.since })
    else
      let b' : Bucket := if b.suppressed = 0 then { b with suppressed := 1, firstOps := s.opsec, firstAt := s.now }
        else { b with suppressed := b.suppressed + 1 }
      (false, ((s.setBucket c b').count32 R.REC_SUPP).countLoss)

/-- A token is gained every 60 / RATE s, to a limit of BURST. -/
def execTokenRefill (c : Fin 128) (t : Time) (s : State) : Out :=
  let s := s.atTime t
  let b := s.bucket c
  .next (if s.islandOn 5 && b.tokens < s.codeBurst c && s.codeRate c != 0 && 60 * sec ≤ (s.now - b.since) * s.codeRate c then
      s.setBucket c { b with tokens := b.tokens + 1, since := b.since + 60 * sec / s.codeRate c }
    else s)

/-- The E69 of code `c` (R325). -/
def State.summarize (s : State) (c : Nat) : State :=
  let b := s.bucket c
  (s.setBucket c { b with suppressed := 0 }).raiseS 0x69 c (data2 b.suppressed b.firstOps) false (s.codeSev c)

def execSuppressionSummary (c : Fin 128) (t : Time) (s : State) : Out :=
  let s := s.atTime t
  let b := s.bucket c
  .next (if s.islandOn 5 && b.suppressed != 0 && (s.codeBurst c ≤ b.tokens || b.firstAt + 60 * sec ≤ s.now) then
      s.summarize c
    else s)

/-! ### Capture (R318, R322, R324, R326) -/

/-- Whether the register at `a` can be captured: its domain is on and not cycling. -/
def State.readable (s : State) (a : Nat) : Bool := s.powered (regDomain a)

/-- A captured register: the key slot and an address of 0 read 0 (R324). -/
def State.snapWord (s : State) (a : Nat) : Word :=
  if a = 0 ∨ (R.SYS_KEY 0 ≤ a ∧ a ≤ R.SYS_KEYPRF 7) then 0
  else if standsAt a && s.readable a then s.view a else 0

/-- The addresses of the set that an SSET value selects. -/
def State.setAddrs (s : State) (sset : Nat) : List Nat :=
  if sset = 0 ∨ 16 < sset then List.replicate 6 0
  else (List.range 6).map (fun i => (s.rd (R.REC_SSADDR (sset - 1) i)).toNat)

/-- The addresses of the snapshot set of a trigger. -/
def State.snapAddrs (s : State) (x : Trig) : List Nat :=
  s.setAddrs (x.sset.getD (s.fld (R.REC_CODECFG x.code) F.REC_CODECFG_SSET))

/-- What the registers of the set show of quantities measured all the time is measured as they are captured. -/
def State.measureSnap (s : State) (x : Trig) : State :=
  foldS State.measure s ((s.snapAddrs x).filter (fun a => standsAt a && s.readable a))

/-- SNAP of a trigger, and SNAPGAP. -/
def State.captureSnap (s : State) (x : Trig) : List Word × Bool :=
  let as := s.snapAddrs x
  let gap (l : List Nat) : Bool := l.any (fun a => a != 0 && standsAt a && !(s.readable a))
  match x.snap with
  | some (a, b) => ([a, b] ++ (as.take 4).map s.snapWord, gap (as.take 4))
  | none => (as.map s.snapWord, gap as)

/-- The severity of a trigger: its own, or its code's (R323). -/
def State.trigSev (s : State) (x : Trig) : Nat := x.sev.getD (s.codeSev x.code)

/-- The record of a trigger as captured now (R318). -/
def State.captureRec (s : State) (x : Trig) : Rec :=
  let o := s.optime
  let snap := s.captureSnap x
  { opsec := o / 1000000, opsub := o % 1000000 * 65536 / 1000000, pcc := s.fld R.SYS_START F.SYS_START_PCC
    cal := BitVec.ofNat 64 s.calBytes, code := x.code, sev := s.trigSev x
    regressed := match s.watermark with | some w => decide (s.cal < w) | none => false
    summary := isSummary x.code, untrusted := s.fld R.RTC_TRUST F.RTC_TRUST_CODE != 0, snapgap := snap.2
    flag := x.flag, source := x.source, data := x.data, snap := snap.1 }

/-- REC_FIFO shows the entries held. -/
def State.showFifo (s : State) : State :=
  let n := s.mor.fifo.length
  let s := s.setFld R.REC_FIFO F.REC_FIFO_HELD n
  if s.fld R.REC_FIFO F.REC_FIFO_MAX < n then s.setFld R.REC_FIFO F.REC_FIFO_MAX n else s

/-- A trigger that finds no place is lost and counted (R326). -/
def State.loseTrigger (s : State) (sev : Nat) : State :=
  let s := (s.count32 (R.REC_LOST sev)).countLoss
  s.setMor { s.mor with pendLost := bump s.mor.pendLost sev }

/-- A trigger joins the capture FIFO, or is lost: 63 places, and a 64th for E68. -/
def State.enterFifo (s : State) (x : Trig) : State :=
  if s.mor.fifo.length < (if x.code == 0x68 then 64 else 63) then
    let s := s.measureSnap x
    (s.setMor { s.mor with fifo := s.mor.fifo ++ [s.captureRec x] }).showFifo
  else s.loseTrigger (s.trigSev x)

/-- The number of the running tick. -/
def State.tickNo (s : State) : Nat := s.alm.stampTick - 1

/-- Delivery to the cores (R194): the list of the next snapshot holds 255, and 4,096 more may wait. -/
def State.deliverEvent (s : State) (x : Trig) : State :=
  if s.mor.evq.length < 255 + 4096 then
    s.setMor { s.mor with evq := s.mor.evq ++ [⟨x.code, s.trigSev x, x.source, s.tickNo, x.data⟩] }
  else s.setMor { s.mor with evLost := s.mor.evLost + 1 }

/-- A trigger of the later part of a holdover, which the retained state only counts (R329). -/
def State.afterHoldover (s : State) (x : Trig) : Bool :=
  s.flag R.PWR_STAT F.PWR_STAT_HOLD && s.sup.holdAt + 150 * ms < x.at_

/-- A trigger that arrives while the node writes its FIFO before a restart it has ordered itself, or while PD4 is the
domain at fault (R329). -/
def State.inFlush (s : State) (x : Trig) : Bool :=
  match s.sup.restartReq with
  | some (c, t) => c != 1 && c != 3 && t < x.at_ + 10 * ms
  | none => false

/-- One trigger through the event controller (R322 steps 1–4). With S07 skipped nothing is recorded and the triggers
are counted (R379). -/
def State.takeTrigger (s : State) (x : Trig) : State :=
  let s := s.deliverEvent x
  let r := s.takeToken x.code
  let v := r.2.trigSev x
  if !r.1 then r.2
  else if s.stepState 7 == stSkipped then (r.2.count32 (R.REC_LOST v)).countLoss
  else if s.afterHoldover x then r.2.setSup { r.2.sup with lostAtSupply := bump r.2.sup.lostAtSupply v }
  else if s.inFlush x then r.2.setSup { r.2.sup with lostAtRestart := bump r.2.sup.lostAtRestart v }
  else r.2.enterFifo x

def execEventTrigger (t : Time) (s : State) : Out :=
  let s := s.atTime t
  .next (if !(s.islandOn 5) then s else match s.mor.triggers with
    | [] => s
    | x :: l => (s.setMor { s.mor with triggers := l }).takeTrigger x)

/-! ### Placement (R321, R327, R328) -/

/-- The slots of the region. -/
def slotCount : Nat := 131072

/-- The lowest free slot, in a table whose keys rise from `i`. -/
def freeFrom : List (Nat × Option (Nat × Rec)) → Nat → Nat
  | [], i => i
  | (k, _) :: l, i => if k = i then freeFrom l (i + 1) else i

/-- The records held: slot, sequence number, record. -/
def State.records (s : State) : List (Nat × Nat × Rec) :=
  s.mor.slots.filterMap (fun e => e.2.map (fun x => (e.1, x.1, x.2)))

/-- The record of least sequence number. -/
def oldestOf : List (Nat × Nat × Rec) → Option (Nat × Nat × Rec)
  | [] => none
  | x :: l => match oldestOf l with
    | none => some x
    | some y => if x.2.1 < y.2.1 then some x else some y

/-- The record of greatest sequence number. -/
def newestOf : List (Nat × Nat × Rec) → Option (Nat × Nat × Rec)
  | [] => none
  | x :: l => match newestOf l with
    | none => some x
    | some y => if y.2.1 < x.2.1 then some x else some y

/-- Where a record of severity `sev` goes (R328): a free slot, the oldest record of the lowest severity present at or
below its own, or nowhere. -/
def State.slotFor (s : State) (sev : Nat) : Option Nat :=
  if s.mor.slots.length < slotCount then some (freeFrom s.mor.slots 0)
  else
    let rs := s.records
    match (List.range 4).find? (fun v => rs.any (fun x => x.2.2.sev == v)) with
    | some low => if low ≤ sev then (oldestOf (rs.filter (fun x => x.2.2.sev == low))).map (fun x => x.1) else none
    | none => none

/-- The record in a slot. -/
def State.slot (s : State) (k : Nat) : Option (Nat × Rec) := tabGet (dflt none) s.mor.slots k

/-- REC_NEXTSEQX:REC_NEXTSEQ. -/
def State.nextSeq (s : State) : Nat := (s.rd R.REC_NEXTSEQ).toNat + 2 ^ 32 * s.fld R.REC_NEXTSEQX F.REC_NEXTSEQX_SEQ

def State.putNextSeq (s : State) (n : Nat) : State :=
  s.wrAll [(R.REC_NEXTSEQ, BitVec.ofNat 32 n), (R.REC_NEXTSEQX, BitVec.ofNat 32 (n / 2 ^ 32 % 2 ^ 16))]

/-- REC_SEVCNT, USED and FULL after slot `k` changes from `old` to a record of severity `sev`. -/
def State.recount4 (s : State) (old : Option (Nat × Rec)) (sev : Nat) : State :=
  let s := match old with
    | some x => s.wr (R.REC_SEVCNT x.2.sev) (s.rd (R.REC_SEVCNT x.2.sev) - 1)
    | none => s
  let s := s.count32 (R.REC_SEVCNT sev)
  let n := s.mor.slots.length
  (s.setFld R.REC_STAT F.REC_STAT_USED n).setFlag R.REC_STAT F.REC_STAT_FULL (n == slotCount)

/-- Write record `r` into slot `k` under the next sequence number; E6E the first time the recorder fills. -/
def State.writeSlot (s : State) (k : Nat) (r : Rec) : State :=
  let old := s.slot k
  let seq := s.nextSeq
  let s := s.setMor { s.mor with slots := tabSet (dflt none) s.mor.slots k (some (seq, r)) }
  let s := (s.recount4 old r.sev).putNextSeq (seq + 1)
  if s.mor.slots.length == slotCount && !s.mor.everFull then
    (s.setMor { s.mor with everFull := true }).raise 0x6E 0 (seq % 2 ^ 32)
  else s

/-- A record with no slot is dropped and counted; a dropped E6A leaves its counts pending (R328). -/
def State.dropRecord (s : State) (r : Rec) : State :=
  let s := (s.count32 (R.REC_DROP r.sev)).countLoss
  let back := if r.code == 0x6A then s.mor.pendDrop.mapIdx (fun i n => n + bitsOf r.data.toNat (16 * i) 16) else s.mor.pendDrop
  s.setMor { s.mor with pendDrop := bump back r.sev }

/-- E6A after a write that succeeded, at most once per second. -/
def State.noteDrops (s : State) : State :=
  let due := match s.mor.lastDropAt with | some t => decide (t + sec ≤ s.now) | none => true
  if anyCount s.mor.pendDrop && due then
    let l := s.mor.pendDrop
    (s.setMor { s.mor with pendDrop := [0, 0, 0, 0], lastDropAt := some s.now }).raiseS 0x6A 0 (counts4 l) false (topSev l)
  else s

/-- E68 of kind `source` for the counts `l`. -/
def State.noteLost (s : State) (source : Nat) (l : List Nat) : State :=
  if anyCount l then s.raiseS 0x68 source (counts4 l) false (topSev l) else s

/-- The head of the FIFO leaves it; at 32 entries held the pending overflow counts are entered (R326). -/
def State.leaveFifo (s : State) : State :=
  let s := (s.setMor { s.mor with fifo := s.mor.fifo.tail }).showFifo
  if s.mor.fifo.length == 32 && anyCount s.mor.pendLost then
    (s.setMor { s.mor with pendLost := [0, 0, 0, 0] }).noteLost 0 s.mor.pendLost
  else s

/-- CI9 writes one record (R322 steps 5 and 6). -/
def State.writeRecord (s : State) (r : Rec) : State :=
  match s.slotFor r.sev with
  | some k => ((s.writeSlot k r).leaveFifo).noteDrops
  | none => (s.dropRecord r).leaveFifo

/-- The write side runs: PD8 powered and no index rebuild (R329). -/
def State.writerOn (s : State) : Bool := s.islandOn 5 && s.islandOn 9 && !(s.flag R.REC_STAT F.REC_STAT_REBUILD)

def execRecordWrite (t : Time) (s : State) : Out :=
  let s := s.atTime t
  .next (if !s.writerOn then s else match s.mor.fifo with
    | [] => s
    | r :: _ => s.writeRecord r)

/-! ### The 64 bytes of a record (R318) -/

/-- Bytes 0–59 of record `r` under sequence number `seq`. -/
def Rec.bytes60 (r : Rec) (seq : Nat) : List Byte :=
  let sevf := r.sev % 4 + 4 * r.regressed.toNat + 8 * r.summary.toNat + 16 * r.untrusted.toNat + 32 * r.snapgap.toNat +
    64 * r.flag.toNat
  leBytes 4 seq ++ leBytes 4 r.opsec ++ leBytes 2 r.opsub ++ leBytes 2 r.pcc ++ leBytes 8 r.cal.toNat ++ leBytes 1 r.code ++
    leBytes 1 sevf ++ leBytes 2 r.source ++ leBytes 8 r.data.toNat ++
    ((List.range 6).map (fun i => leBytes 4 (r.snap.getD i 0).toNat)).flatten ++ leBytes 2 (seq / 2 ^ 32) ++ leBytes 2 0

/-- The record as sixteen words, its CRC last. -/
def Rec.words (r : Rec) (seq : Nat) : List Word :=
  let b := r.bytes60 seq
  (List.range 15).map (fun i => BitVec.ofNat 32 (ofLeBytes ((b.drop (4 * i)).take 4))) ++ [crc32c b]

/-! ### Configuration writes (R323, R324, R421) -/

/-- A code configuration is invalid: RATE above 0 with BURST 0, or SSET above 16. -/
def codeCfgBad (w : Word) : Bool :=
  (fldOf F.REC_CODECFG_RATE w != 0 && fldOf F.REC_CODECFG_BURST w == 0) || 16 < fldOf F.REC_CODECFG_SSET w

/-- The defined fields of REC_CODECFG. -/
def codeCfgMask : Word := 0x031FFFFF

/-- A host write to REC_CODECFG: DENIED, ADDRESS for a reserved code, RANGE; the bucket keeps its tokens up to the new
BURST, and starts full where RATE was 0. -/
def State.writeCodeCfg (s : State) (c : Nat) (v : Word) : State :=
  if !(s.powered 4) then s.answer .busy
  else if !s.lockOpen then s.closedAnswer (R.REC_CODECFG c) v
  else if reservedCode c then s.answer .address
  else if codeCfgBad v then s.answer .range
  else
    let b := s.bucket c
    let rate0 := s.codeRate c == 0
    let s := s.wr (R.REC_CODECFG c) (v &&& codeCfgMask)
    let n := s.codeBurst c
    (s.setBucket c { b with tokens := if rate0 then n else Nat.min b.tokens n }).noteLk.answer .ok

def execCodecfgWrite (_p : Port) (c : Fin 128) (v : Word) (t : Time) (s : State) : Out :=
  .next ((s.atTime t).writeCodeCfg c v)

/-- An address a snapshot set may name. -/
def ssAddrOk (a : Nat) : Bool := a == 0 || (a % 4 == 0 && standsAt a)

/-- A host write to REC_SSADDR: DENIED, ADDRESS. -/
def State.writeSsAddr (s : State) (k i : Nat) (v : Word) : State :=
  if !(s.powered 4) then s.answer .busy
  else if !s.lockOpen then s.closedAnswer (R.REC_SSADDR k i) v
  else if !(ssAddrOk v.toNat) then s.answer .address
  else (s.wr (R.REC_SSADDR k i) v).noteLk.answer .ok

def execSsaddrWrite (_p : Port) (k : Fin 16) (i : Fin 6) (v : Word) (t : Time) (s : State) : Out :=
  .next ((s.atTime t).writeSsAddr k i v)

/-- After a load from the image: an invalid code configuration gives way to its default, an invalid set to all 0, each
with E6D, whose data names the register's offset (R323, R324, R334); a reserved code has none (R421). -/
def State.checkRecCfg (s : State) : State :=
  let s := foldS (fun s c => if reservedCode c then s.wr (R.REC_CODECFG c) 0
    else if codeCfgBad (s.rd (R.REC_CODECFG c)) then
      (s.wr (R.REC_CODECFG c) (resetWord (R.REC_CODECFG c))).raise 0x6D c (0x100 + 4 * c) else s) s (List.range 128)
  foldS (fun s k =>
    match (List.range 6).find? (fun i => !(ssAddrOk (s.rd (R.REC_SSADDR k i)).toNat)) with
    | some i => (s.wrAll ((List.range 6).map (fun j => (R.REC_SSADDR k j, 0)))).raise 0x6D (0x100 + k) (0x300 + 0x20 * k + 4 * i)
    | none => s) s (List.range 16)

/-! ### Cursors (R331–R333) -/

/-- The register set of a port's cursor: 0 the host's, 1 the service port's. -/
def cursorNo (p : Port) : Nat :=
  match p with
  | .host => 0
  | .svc => 1

def State.cursor (s : State) (p : Port) : Cursor :=
  match p with
  | .host => s.mor.host
  | .svc => s.mor.svc

def State.setCursor (s : State) (p : Port) (x : Cursor) : State :=
  match p with
  | .host => s.setMor { s.mor with host := x }
  | .svc => s.setMor { s.mor with svc := x }

/-- REC_CURST.STAT. -/
def State.cursorStat (s : State) (p : Port) (r : Status) : State :=
  s.setFld (R.REC_CURST (cursorNo p)) F.REC_CURST_STAT r.code

/-- The cursor moves to a record and latches it. -/
def State.latch (s : State) (p : Port) (x : Nat × Nat × Rec) (r : Status) : State :=
  let i := cursorNo p
  let s := s.setCursor p ⟨some x, x.2.1⟩
  let s := ((s.setFlag (R.REC_CURST i) F.REC_CURST_VALID true).setFld (R.REC_CURST i) F.REC_CURST_SLOT x.1).cursorStat p r
  s.wrAll ((x.2.2.words x.2.1).mapIdx (fun k w => (R.REC_WIN i k, w)))

/-- The surviving records with severity MINSEV or higher. -/
def State.visible (s : State) (minsev : Nat) : List (Nat × Nat × Rec) := s.records.filter (fun x => minsev ≤ x.2.2.sev)

/-- Position on `x`; ADDRESS where no record qualifies. -/
def State.position (s : State) (p : Port) (x : Option (Nat × Nat × Rec)) : State :=
  match x with
  | some r => s.latch p r .ok
  | none => s.cursorStat p .address

/-- The latched record has left its slot (R333). -/
def State.overwritten (s : State) (p : Port) : Bool :=
  match (s.cursor p).latched with
  | some (k, seq, _) => (s.slot k).map (fun x => x.1) != some seq
  | none => false

/-- OVERWRITTEN: the cursor goes to the oldest surviving record and latches it. -/
def State.relatch (s : State) (p : Port) (minsev : Nat) : State :=
  match oldestOf (s.visible minsev) with
  | some x => s.latch p x .overwritten
  | none => s.cursorStat p .overwritten

/-- A cursor command: MINSEV is stored; BUSY during a rebuild (R329), or while PD8 is off; otherwise `f`. -/
def State.cursorCmd (s : State) (p : Port) (minsev : Nat) (f : State → State) : State :=
  if !(s.powered 8) then s.answer .busy
  else if s.flag R.REC_STAT F.REC_STAT_REBUILD then (s.cursorStat p .busy).answer .busy
  else (f (s.setFld (R.REC_CURCMD (cursorNo p)) F.REC_CURCMD_MINSEV minsev)).answer .ok

/-- The argument of AT. -/
def State.cursorArg (s : State) (p : Port) : Nat :=
  (s.rd (R.REC_CURSEQ (cursorNo p))).toNat + 2 ^ 32 * s.fld (R.REC_CURSEQX (cursorNo p)) F.REC_CURSEQX_SEQ

def State.cursorAtOp (s : State) (p : Port) (minsev : Nat) : State :=
  s.cursorCmd p minsev (fun s => s.position p (oldestOf ((s.visible minsev).filter (fun x => s.cursorArg p ≤ x.2.1))))

def State.cursorOldestOp (s : State) (p : Port) (minsev : Nat) : State :=
  s.cursorCmd p minsev (fun s => s.position p (oldestOf (s.visible minsev)))

def State.cursorNewestOp (s : State) (p : Port) (minsev : Nat) : State :=
  s.cursorCmd p minsev (fun s => s.position p (newestOf (s.visible minsev)))

/-- NEXT: OLDEST with no record latched; OVERWRITTEN by R333. -/
def State.cursorNextOp (s : State) (p : Port) (minsev : Nat) : State :=
  s.cursorCmd p minsev (fun s =>
    if (s.cursor p).latched.isNone then s.position p (oldestOf (s.visible minsev))
    else if s.overwritten p then s.relatch p minsev
    else s.position p (oldestOf ((s.visible minsev).filter (fun x => (s.cursor p).pos < x.2.1))))

/-- PREV: NEWEST with no record latched. -/
def State.cursorPrevOp (s : State) (p : Port) (minsev : Nat) : State :=
  s.cursorCmd p minsev (fun s =>
    if (s.cursor p).latched.isNone then s.position p (newestOf (s.visible minsev))
    else if s.overwritten p then s.relatch p minsev
    else s.position p (newestOf ((s.visible minsev).filter (fun x => x.2.1 < (s.cursor p).pos))))

def execCursorAt (p : Port) (minsev : BitVec 2) (s : State) : Out := .next (s.cursorAtOp p minsev.toNat)
def execCursorOldest (p : Port) (minsev : BitVec 2) (s : State) : Out := .next (s.cursorOldestOp p minsev.toNat)
def execCursorNewest (p : Port) (minsev : BitVec 2) (s : State) : Out := .next (s.cursorNewestOp p minsev.toNat)
def execCursorNext (p : Port) (minsev : BitVec 2) (s : State) : Out := .next (s.cursorNextOp p minsev.toNat)
def execCursorPrev (p : Port) (minsev : BitVec 2) (s : State) : Out := .next (s.cursorPrevOp p minsev.toNat)

/-- The check at the start of a read request that reads the window (R333): the status of the request. -/
def State.windowCheck (s : State) (p : Port) : State :=
  if !(s.powered 8) then s.answer .busy
  else if s.overwritten p then
    (s.relatch p (s.fld (R.REC_CURCMD (cursorNo p)) F.REC_CURCMD_MINSEV)).answer .overwritten
  else (s.cursorStat p .ok).answer .ok

def execWindowRead (p : Port) (_i : Fin 16) (s : State) : Out := .next (s.windowCheck p)

/-! ### Index rebuild (R329) -/

/-- The rebuild ends: slots that fail their CRC are free, each with E6B; E6C with the records found and the time. -/
def State.rebuilt (s : State) (bad : List Nat) (ms_ : Nat) : State :=
  let s := foldS (fun s k => (s.setMor { s.mor with slots := tabSet (dflt none) s.mor.slots k none }).raise 0x6B 0 k) s bad
  let rs := s.records
  let s := foldS (fun s v => s.wr (R.REC_SEVCNT v) (BitVec.ofNat 32 (rs.filter (fun x => x.2.2.sev == v)).length)) s (List.range 4)
  let n := s.mor.slots.length
  let s := (s.setFld R.REC_STAT F.REC_STAT_USED n).setFlag R.REC_STAT F.REC_STAT_FULL (n == slotCount)
  let s := match newestOf rs with
    | some x => s.putNextSeq (Nat.max s.nextSeq (x.2.1 + 1))
    | none => s
  (s.setFlag R.REC_STAT F.REC_STAT_REBUILD false).raise 0x6C 0 (data2 rs.length ms_)

def execIndexRebuildDone (badSlots : List Nat) (ms_ : Word) (t : Time) (s : State) : Out :=
  let s := s.atTime t
  .next (if s.islandOn 9 && s.flag R.REC_STAT F.REC_STAT_REBUILD then s.rebuilt badSlots ms_.toNat else s)

end Sys2Proof.Machine
end

