-- ==== Sys2Proof/Machine/Gatehouse.lean ====
section
/-! DEFINITION. The tick and the pair (R189, R192–R196, R208, R217–R229): loads and paired reads, the presentation of
commit words, the tick applied, discarded or diverged, the self-check and its verdict, resynchronisation, the snapshot
builder and the swap. -/

namespace Sys2Proof.Machine

/-! ### Applying a tick (R219, R222) -/

/-- The refusals of a tick so far: how many, and the position and status of the first. -/
structure Refusals where
  count : Nat
  first : Option (Nat × Status)
deriving DecidableEq, Repr

/-- Apply the item at position `i`. Markers and CMTE have no effect of their own (R220). -/
def applyItem (tick : Nat) (acc : State × Refusals) (x : Nat × Item) : State × Refusals :=
  match x.2 with
  | .word w e =>
    let s := acc.1.applyCommit w e tick
    if s.status = .ok then (s, acc.2)
    else (s, ⟨acc.2.count + 1, some (acc.2.first.getD (x.1, s.status))⟩)
  | _ => acc

/-- The items with their positions. -/
def numbered (l : List Item) : List (Nat × Item) := (List.range l.length).zip l

/-- The number of commit words of a sequence. -/
def wordCount (l : List Item) : Nat :=
  (l.filter (fun x => match x with | .word _ _ => true | _ => false)).length

/-- The bytes of a 64-bit word, little-endian. -/
def wordBytes (w : CWord) : List Byte := leBytes 8 w.toNat

/-- The CRC-32C over the words and extension words of a sequence, little-endian, in order (R220). -/
def sequenceCrc (l : List Item) : Word :=
  crc32c (l.flatMap (fun x => match x with
    | .word w (some e) => wordBytes w ++ wordBytes e
    | .word w none => wordBytes w
    | _ => []))

/-- TWN_APPLY: the time of the application, which the manual bounds by 2 µs and no more: a free value (R222, R232). -/
def State.noteApplyTime (s : State) : State :=
  let r := s.freshWord
  let n := r.1.toNat % 401
  let s := r.2.setFld R.TWN_APPLY F.TWN_APPLY_LAST n
  if s.fld R.TWN_APPLY F.TWN_APPLY_MAX < n then s.setFld R.TWN_APPLY F.TWN_APPLY_MAX n else s

/-- The results of an applied tick, and E3C for its refused words (R219, R231, R232). -/
def State.noteResults (s : State) (l : List Item) (r : Refusals) (tick : Nat) : State :=
  let s := s.wrAll [(R.TWN_TICK, BitVec.ofNat 32 tick), (R.TWN_CRC, sequenceCrc l)]
  let s := s.setFld R.TWN_RES F.TWN_RES_NAPP (wordCount l)
  let s := (s.setFld R.TWN_RES F.TWN_RES_NREF r.count).noteApplyTime
  match r.first with
  | none => (s.setFld R.TWN_RES F.TWN_RES_STAT 0).setFld R.TWN_RESPOS F.TWN_RESPOS_POS 0
  | some (p, st) =>
    let s := (s.setFld R.TWN_RES F.TWN_RES_STAT st.code).setFld R.TWN_RESPOS F.TWN_RESPOS_POS p
    s.raise 0x3C p (st.code + 2 ^ 16 * r.count)

/-- Apply the sequence `l` of the running tick. The first applied tick ends the power-fail states and S13 (R375,
R379), and brings the CLEAR of the alternate of S06 (R294). -/
def State.applyTick (s : State) (l : List Item) : State :=
  let tick := s.gate.tick
  let s := s.noteApplied
  let r := (numbered l).foldl (applyItem tick) (s, ⟨0, none⟩)
  let s := (r.1.noteResults l r.2 tick).firstTickPanel
  if s.stepRuns 13 then s.endStep 13 stOk else s

/-- The tick is discarded without divergence: E3F with its source, the tick number and the items presented (R223,
R230, R231). -/
def State.discardTick (s : State) (source : Nat) : State :=
  let n := Nat.max s.gate.itemsA.length s.gate.itemsB.length
  let s := s.raise 0x3F source (data2 s.gate.tick (n % 2 ^ 16))
  (s.addFld R.TWN_CNT F.TWN_CNT_DISC 1).setGate { s.gate with discarded := true, itemsA := [], itemsB := [] }

/-! ### Presenting (R208) -/

/-- CMTE of core `c` has been presented: the tick is applied once both sequences have matched to their end, with equal
CRCs, or at the serving core's CMTE (R220, R222–R224). The CMTE that ends a discarded or diverged tick shows that a halt
of the twin in that tick stands alone (log 20). -/
def State.afterCmte (s : State) (c : CoreId) : State :=
  if s.isLate c || s.gate.idle then s
  else if s.tickEnded then
    (if s.twinMode && s.haltAlone (twin c) then s.loneHalt (twin c) else s)
  else if s.twinMode then
    (match endOf s.gate.itemsA, endOf s.gate.itemsB with
     | some x, some y => if x.2 = y.2 then s.applyTick s.gate.itemsA else s.diverge 3 x.1
     | _, _ => s)
  else if s.server_ = c then s.applyTick (s.items c) else s

/-- The crossing from core `c` to CI5 takes no word: CI5 is stopped, or its FIFO is full. A core waits with its word
(R14, R208). -/
def State.noRoom (s : State) (c : CoreId) : Bool := !s.almOn || s.crossFull (9 + coreNum c)

/-- The words an item is in the crossing: a recorder request has an extension word (R13, R208). -/
def Item.words : Item → Nat
  | .word _ (some _) => 2
  | _ => 1

/-- One instruction that presents an item: `f` gives the item with what the core counts, or the exception. A core that
has to wait for room has not gone on. -/
def State.presentStep (s : State) (c : CoreId) (f : Core → Sum (Nat × Nat) (Item × Core)) : State :=
  s.issue c (fun k s' =>
    match f k with
    | .inl (v, d) => s'.takeExc c v d
    | .inr (x, k') =>
      if s.noRoom c then s
      else ((s'.setCore c { k' with pc := k'.pc + 4 }).passWords (9 + coreNum c) x.words).present c x)

/-- The checks of a word: COMMIT after CMTE, or beyond 1,024 words (R208, R212). -/
def Core.commitBar (k : Core) : Option Nat :=
  if k.cmtd then some 1 else if 1024 ≤ k.cmtn then some 2 else none

/-- CMT of wb:wa; wd and fn are unused. -/
def cmtItem (wd wa wb : BitVec 5) (fn : BitVec 11) (k : Core) : Sum (Nat × Nat) (Item × Core) :=
  if wd ≠ 0 ∨ fn ≠ 0 then .inl (1, 3)
  else match k.commitBar with
    | some d => .inl (6, d)
    | none => .inr (.word (k.get wb ++ k.get wa) none, { k with cmtn := k.cmtn + 1 })

/-- SNAP: a recorder event of code fn 7:0 with snapshot set wd − 1, its data wb:wa. -/
def snapItem (wd wa wb : BitVec 5) (fn : BitVec 11) (k : Core) : Sum (Nat × Nat) (Item × Core) :=
  if 256 ≤ fn.toNat then .inl (1, 3)
  else match k.commitBar with
    | some d => .inl (6, d)
    | none =>
      if fn.toNat < 0x7C ∨ 0x7F < fn.toNat then .inl (6, 3)
      else if 16 < wd.toNat then .inl (6, 4)
      else
        let w : CWord := BitVec.ofNat 64 (0x0B * 2 ^ 56 + (fn.toNat + 256 * wd.toNat) * 2 ^ 40)
        .inr (.word w (some (k.get wb ++ k.get wa)), { k with cmtn := k.cmtn + 1 })

/-- CMTE, all of whose fields are 0; it presents the CRC over the core's sequence `l`. -/
def cmteItem (l : List Item) (wd wa wb : BitVec 5) (fn : BitVec 11) (k : Core) : Sum (Nat × Nat) (Item × Core) :=
  if wd ≠ 0 ∨ wa ≠ 0 ∨ wb ≠ 0 ∨ fn ≠ 0 then .inl (1, 3)
  else if k.cmtd then .inl (6, 1)
  else .inr (.done (sequenceCrc l), { k with cmtd := true })

def execCmt (c : CoreId) (wd wa wb : BitVec 5) (fn : BitVec 11) (t : Time) (s : State) : Out :=
  .next ((s.atTime t).presentStep c (cmtItem wd wa wb fn))

def execSnap (c : CoreId) (wd wa wb : BitVec 5) (fn : BitVec 11) (t : Time) (s : State) : Out :=
  .next ((s.atTime t).presentStep c (snapItem wd wa wb fn))

/-- Core `c` presents CMTE. -/
def State.cmte (s : State) (c : CoreId) (wd wa wb : BitVec 5) (fn : BitVec 11) : State :=
  let s' := s.presentStep c (cmteItem (s.items c) wd wa wb fn)
  if (s'.core c).cmtd && !(s.core c).cmtd then s'.afterCmte c else s'

def execCmte (c : CoreId) (wd wa wb : BitVec 5) (fn : BitVec 11) (t : Time) (s : State) : Out :=
  .next ((s.atTime t).cmte c wd wa wb fn)

/-! ### Loads and paired reads (R190, R196, R203) -/

/-- An address of the peripheral window. -/
def peripheralAddr (a : Word) : Bool := 0x40000000 ≤ a.toNat && a.toNat ≤ 0x4013FFFF

/-- An address of the active snapshot buffer. -/
def snapshotAddr (a : Word) : Bool := 0x30000000 ≤ a.toNat && a.toNat ≤ 0x3000FFFF

/-- A register at `a` of the Rante window's byte offsets is none for the cores; the cursor and window registers of the
recorder and the key slot read 0 (R196, R331). -/
def coreReadsZero (a : Nat) : Bool :=
  (0x400D0600 ≤ a && a < 0x400D0800) || (R.SYS_KEY 0 ≤ a && a ≤ R.SYS_KEYPRF 7)

/-- The register at `a` as the read broker reads it: the calendar through the cores' shadow (R302); nothing is cleared
(R7). -/
def State.brokerRead (s : State) (a : Nat) : Word :=
  if coreReadsZero a then 0
  else if R.RTC_SEC ≤ a ∧ a ≤ R.RTC_CENT then s.calFor none a
  else s.readReg a

/-- What reading a calendar register does to the reader's shadow (R302). -/
def State.afterRead (s : State) (p : Option Port) (a : Nat) : State :=
  if a = R.RTC_SEC then s.freezeCal p else if a = R.RTC_CENT then s.releaseCal p else s

/-- The aligned word of the image, SRAM or snapshot that holds address `a`. -/
def State.localWord (s : State) (k : Core) (a : Word) : Word :=
  let a4 := a.toNat - a.toNat % 4
  if sramAddr a then memWord 0 k.sram a4
  else if snapshotAddr a then k.active.word (a4 - 0x30000000)
  else memWord 0 s.execBytes (a4 - 0x08000000)

/-- The `n` bytes at `a` of a word that holds them, zero-extended. -/
def partOf (w : Word) (a : Word) (n : Nat) : Word := BitVec.ofNat 32 (bitsOf w.toNat (8 * (a.toNat % 4)) (8 * n))

/-- The numbered peripheral loads of core `c` in the tick (R196). -/
def State.reads (s : State) : CoreId → List Word
  | .a => s.gate.readsA
  | .b => s.gate.readsB

/-- Note a load of core `c` from `a`. -/
def State.noteRead (s : State) (c : CoreId) (a : Word) : State :=
  match c with
  | .a => s.setGate { s.gate with readsA := s.gate.readsA ++ [a] }
  | .b => s.setGate { s.gate with readsB := s.gate.readsB ++ [a] }

/-- Core `c` takes the value of the load it waits at. -/
def State.giveRead (s : State) (c : CoreId) (v : Word) : State :=
  let k := s.core c
  match k.wait with
  | .read wd _ => s.setCore c ({ k with wait := .none }.next wd v)
  | _ => s

/-- The broker reads for one core alone: STAT.SOLO is 1, or the Gatehouse has ended the tick that the core runs (R196,
R223). -/
def State.readsAlone (s : State) (c : CoreId) : Bool :=
  (s.core c).solo || !(s.twinMode) || s.tickEnded || s.isLate c

/-- The address of the load at which core `c` waits. -/
def State.waitsAt (s : State) (c : CoreId) : Option Word :=
  match (s.core c).wait with
  | .read _ a => some a
  | _ => none

/-- Serve the load at `a` for the cores `cs`; while the register's domain is off the load waits at its crossing (R14). -/
def State.serve (s : State) (cs : List CoreId) (a : Word) : State :=
  if !(s.powered (regDomain a.toNat)) then s
  else
    let s := s.measure a.toNat
    let v := s.brokerRead a.toNat
    (foldS (fun s c => s.giveRead c v) s cs).afterRead none a.toNat

/-- A load is due: alone at once; in twin mode once the twin waits at the load of the same number. Two different
addresses return 0 to both, and the tick diverges with cause 5 (R196, R224). While CI5 is stopped the load waits (R14). -/
def State.brokerLoad (s : State) (c : CoreId) (a : Word) : State :=
  if !s.almOn then s
  else if s.readsAlone c then s.serve [c] a
  else match s.waitsAt (twin c) with
    | some b =>
      if (s.reads .a).length == (s.reads .b).length && a ≠ b then
        ((s.giveRead .a 0).giveRead .b 0).diverge 5 (s.items c).length
      else s
    | none => s

/-- A load of `n` bytes: ALIGN, then LOAD (R203, R211, R212). -/
def State.loadN (s : State) (c : CoreId) (n : Nat) (ext : Word → Word) (wd wa : BitVec 5) (imm : BitVec 16) : State :=
  s.issue c (fun k s' =>
    let a := k.get wa + immS imm
    if a.toNat % n ≠ 0 then s'.takeExc c 3 2
    else if peripheralAddr a then
      if n ≠ 4 then s'.takeExc c 4 2
      else if !(standsAt a.toNat) then s'.takeExc c 4 4
      else (((s'.setCore c { k with wait := .read wd a }).noteRead c a).brokerLoad c a)
    else if sramAddr a || snapshotAddr a then
      s'.setCore c (k.next wd (ext (partOf (s.localWord k a) a n)))
    else if imageAddr a then
      if !(s.islandOn 9) && !(k.lines.contains (lineOf a)) then s
      else s'.setCore c (((k.touch (lineOf a)).ask (lineOf a)).next wd (ext (partOf (s.localWord k a) a n)))
    else s'.takeExc c 4 1)

def execLw (c : CoreId) (wd wa : BitVec 5) (imm : BitVec 16) (s : State) : Out := .next (s.loadN c 4 id wd wa imm)
def execLh (c : CoreId) (wd wa : BitVec 5) (imm : BitVec 16) (s : State) : Out :=
  .next (s.loadN c 2 (fun v => sxtWord v 15) wd wa imm)
def execLhu (c : CoreId) (wd wa : BitVec 5) (imm : BitVec 16) (s : State) : Out := .next (s.loadN c 2 id wd wa imm)
def execLb (c : CoreId) (wd wa : BitVec 5) (imm : BitVec 16) (s : State) : Out :=
  .next (s.loadN c 1 (fun v => sxtWord v 7) wd wa imm)
def execLbu (c : CoreId) (wd wa : BitVec 5) (imm : BitVec 16) (s : State) : Out := .next (s.loadN c 1 id wd wa imm)

/-- The broker has the loads it needs and serves them. -/
def State.serveReads (s : State) : State :=
  match s.waitsAt .a, s.waitsAt .b with
  | some a, some b =>
    if s.readsAlone .a && s.readsAlone .b then (s.serve [.a] a).serve [.b] b
    else if s.readsAlone .a then s.serve [.a] a
    else if s.readsAlone .b then s.serve [.b] b
    else if (s.reads .a).length == (s.reads .b).length && a = b then s.serve [.a, .b] a else s
  | some a, none => if s.readsAlone .a then s.serve [.a] a else s
  | none, some b => if s.readsAlone .b then s.serve [.b] b else s
  | none, none => s

def execPairedReadServed (t : Time) (s : State) : Out :=
  let s := s.atTime t
  .next (if s.almOn && !s.gate.checking then s.serveReads else s)

/-! ### Deadline, self-check and verdict (R221–R227) -/

/-- Boundary T + 1 plus 200 µs has come, where T is the running tick (R221). -/
def State.deadlineDue (s : State) : Bool :=
  s.gate.tick + 1 < s.alm.stampTick && (s.gate.tick + 2 < s.alm.stampTick || s.gate.boundaryAt + 200 * us ≤ s.now)

/-- The core that has halted while its twin has not, if there is one. -/
def State.haltedOne (s : State) : Option CoreId :=
  match s.coreA.halted, s.coreB.halted with
  | true, false => some .a
  | false, true => some .b
  | _, _ => none

/-- Core `c` has presented CMTE for the running tick. -/
def State.cmteOf (s : State) (c : CoreId) : Bool := (s.core c).cmtd && !(s.isLate c)

/-- The deadline of the running tick: a halt without the twin's stands alone (cause 7); one core's CMTE without the
other's diverges with cause 4; neither, with matching items, discards the tick; in SOLO and RESYNC a missing CMTE
discards it. -/
def State.deadline (s : State) : State :=
  if s.gate.checking then s
  else if s.twinMode && s.haltedOne.isSome then s.loneHalt (s.haltedOne.getD .a)
  else if s.tickEnded then s
  else if s.twinMode then
    (match s.cmteOf .a, s.cmteOf .b with
     | true, true => s
     | false, false => s.discardTick 0
     | _, _ => s.diverge 4 (Nat.min s.gate.itemsA.length s.gate.itemsB.length))
  else if (s.core s.server_).live && !(s.core s.server_).cmtd then s.discardTick 0 else s

def execCmteDeadline (t : Time) (s : State) : Out :=
  let s := s.atTime t
  .next (if s.almOn && (s.coreA.live || s.coreB.live) && !s.gate.suspended && !s.gate.idle && s.deadlineDue then s.deadline
    else s)

/-- The TRANSIENT verdicts of the last 10 min, this one included. -/
def State.recentTransients (s : State) : List Time :=
  (s.gate.transients ++ [s.now]).filter (fun t => s.now < t + 600 * sec)

/-- The core condemned where both pass and their states differ: the one resynchronised last, otherwise B. -/
def State.inconclusive (s : State) : CoreId := s.gate.lastResync.getD .b

/-- What step 4 of the self-check takes the CRC of: w1–w31, PC, STAT.XD, EPC, DPC, CAUSE and EVM0–EVM3, the 64 timers,
and the SRAM (R215, R226). -/
def Core.checked (k : Core) : List Word × List (Option Nat) × List (Nat × Byte) :=
  ((List.range 32).map (fun i => k.get (BitVec.ofNat 5 i)) ++ [k.pc, BitVec.ofNat 32 k.xd, k.epc, k.dpc, k.cause] ++
      (List.range 4).map k.evmask,
    (List.range 64).map (fun i => tabGet (dflt none) k.timers i), k.sram)

/-- A core that fails at none of steps 1–3 of R226 has come to step 4, and its CRC is there to be exchanged. -/
def ranToCrc (fail : Nat) : Bool := fail == 0 || fail == 4

/-- The CRCs that both cores bring are those of what they hold: equal where it is equal, different where it differs. The
manual does not lay down in which order the bytes are taken, so that the values are operands (R226, log 75). -/
def State.crcsAgree (s : State) (failA failB : Nat) (crcA crcB : Word) : Bool :=
  !(ranToCrc failA && ranToCrc failB) || decide (crcA = crcB) == decide (s.coreA.checked = s.coreB.checked)

/-- Both cores are condemned: isolated, and the node restarts (R225 step 5, R227). -/
def State.condemnBoth (s : State) (cause : Nat) : State :=
  ((((s.isolate .a cause false).isolate .b cause false).resumeCores).setFld R.TWN_STAT F.TWN_STAT_STAGE 0).lastCoreLost

/-- The verdict of R227; `failA` and `failB` are 0 for a core that passes every step. E39 shows the state CRC of a core whose
step 4 ran (R231). -/
def State.verdict (s : State) (failA failB : Nat) (crcA crcB : Word) : State :=
  let s := s.setFld R.TWN_STAT F.TWN_STAT_STAGE 0
  let cause := s.gate.diverged.getD 0
  let shown (fail : Nat) (crc : Word) : Nat := if ranToCrc fail then crc.toNat else 0
  let note (s : State) (v : Nat) : State := s.noteVerdict v failA failB (shown failA crcA) (shown failB crcB)
  if failA != 0 && failB == 0 then (note s 0).condemn .a cause 3
  else if failA == 0 && failB != 0 then (note s 1).condemn .b cause 3
  else if failA != 0 then (note s 2).condemnBoth cause
  else if crcA = crcB && (s.recentTransients).length < 3 then
    let ts := s.recentTransients
    let s := note s 4
    (s.setGate { s.gate with transients := ts }).resumeCores
  else (note s 3).condemn s.inconclusive cause 3

def execSelfCheckComplete (failA failB : Fin 5) (crcA crcB : Word) (t : Time) (s : State) : Out :=
  let s := s.atTime t
  .next (if s.gate.checking && s.crcsAgree failA failB crcA crcB then s.verdict failA failB crcA crcB else s)

/-! ### Resynchronisation (R215, R228, R229) -/

/-- The bulk pass ends. -/
def State.bulkDone (s : State) (dirty : Nat) : State :=
  ((s.setFld R.TWN_STAT F.TWN_STAT_STAGE stageWait).setGate { s.gate with dirty := dirty }).beginFinal

def execResyncBulkDone (dirty : Nat) (s : State) : Out :=
  .next (if s.resyncing && s.stage == stageBulk then s.bulkDone dirty else s)

/-- The restored core takes the state of R215; the line store, the event cursor and CMTN are its own. It waits at the
swap as its twin does. -/
def Core.resynced (k h : Core) : Core :=
  { k with live := true, halted := false, w := h.w, pc := h.pc, xd := h.xd, epc := h.epc, dpc := h.dpc, cause := h.cause,
           evm := h.evm, timers := h.timers, sram := h.sram, cmtd := h.cmtd, cmtn := 0, cursor := 0, wait := h.wait,
           solo := h.solo, rsync := h.rsync, start := h.start, tick := h.tick, active := h.active,
           inactive := h.inactive }

/-- The final pass ends: TWIN resumes at the swap that follows. -/
def State.finalPass (s : State) (us : Word) (dirty : Nat) : State :=
  let h := s.server_
  let r := twin h
  let s := s.setCore r ((s.core r).resynced (s.core h))
  let s := s.setGate { s.gate with dirty := dirty, lastResync := some r, condemned := none }
  (s.wr R.TWN_RSTIME us).setFld R.TWN_STAT F.TWN_STAT_STAGE 0

def execResyncFinalDone (us : Word) (dirty : Nat) (t : Time) (s : State) : Out :=
  let s := s.atTime t
  .next (if s.resyncing && s.stage == stageFinal then s.finalPass us dirty else s)

/-- Core `c` is permanently isolated (R17). -/
def State.permIsolated (s : State) (c : CoreId) : Bool :=
  s.flag R.TWN_STAT (if coreNum c == 0 then F.TWN_STAT_PERMA else F.TWN_STAT_PERMB)

/-- READMIT: RANGE for both bits, DENIED while the lock is closed, STATE for a core that is not permanently isolated;
PERM clears and the domain is cycled with cause HOST (R229, R232). -/
def State.readmit (s : State) (v : Nat) : State :=
  if v == 3 then s.answer .range
  else if v == 0 then s.answer .ok
  else if !s.lockOpen then s.answer .denied
  else
    let c : CoreId := if v == 1 then .a else .b
    if !(s.permIsolated c) then s.answer .state
    else
      let s := (s.noteLk).setFlag R.TWN_STAT (if coreNum c == 0 then F.TWN_STAT_PERMA else F.TWN_STAT_PERMB) false
      let s := s.setFld R.TWN_STAT F.TWN_STAT_STAGE 2
      (s.needCycle (coreDomain c) 4).answer .ok

def execTwnReadmit (_p : Port) (v : BitVec 2) (t : Time) (s : State) : Out := .next ((s.atTime t).readmit v.toNat)

/-! ### The snapshot builder and the swap (R20, R193, R194) -/

/-- At least one ring port is UP (R348). -/
def State.ringUp (s : State) : Bool :=
  s.fld (R.RNG_PORT 0) F.RNG_PORT_STATE == 1 || s.fld (R.RNG_PORT 1) F.RNG_PORT_STATE == 1

/-- The snapshot frozen now, with the events of its list. FLAGS bits 0–2 and SKIPPED are set at the swap. -/
def State.freeze (s : State) : Snap :=
  let s := s.freshenAlm
  { tickNo := s.alm.stampTick
    periodMs := s.img.exec.tickMs
    optime := s.optime
    hostTime := s.ring.lastHost
    cal := BitVec.ofNat 64 s.calBytes
    flags := s.ringUp.toNat * 8 + s.fld R.RTC_TRUST F.RTC_TRUST_CODE % 4 * 16
    skipped := 0
    events := s.mor.evq.take 255
    evHeld := s.mor.evq.length - 255
    evLost := s.mor.evLost
    stale := s.dio.stale
    live := s.live
    regs := s.regs }

/-- Take the snapshot of boundary `stampTick`: its events leave the queue and the next one gets the next number. -/
def State.takeSnap (s : State) : State :=
  let s := s.setMor { s.mor with evq := s.mor.evq.drop 255, evLost := 0 }
  s.setAlm { s.alm with stampTick := s.alm.stampTick + 1 }

/-- A copy of the snapshot starts into the inactive buffer of core `c`, which an isolated core does not get. -/
def State.startCopy (x : Snap) (s : State) (c : CoreId) : State :=
  if (s.core c).live then s.setCore c { s.core c with inactive := some (x, false) } else s

/-- A tick boundary. During a PD4 cycle, and before the cores have left reset, there is none (R15, R189). -/
def State.boundary (s : State) : State :=
  let x := s.freeze
  let s := s.takeSnap.setGate { s.gate with idle := false, boundaryAt := s.now }
  foldS (State.startCopy x) s [.a, .b]

/-- A tick period has passed since the latest boundary (R193). -/
def State.boundaryDue (s : State) : Bool :=
  decide (1 < s.alm.stampTick) && decide (s.gate.boundaryAt + s.img.exec.tickMs * ms ≤ s.now)

def execTickBoundary (t : Time) (s : State) : Out :=
  let s := s.atTime t
  .next (if s.almOn && s.boundaryDue then s.boundary else s)

def execSnapshotCopyComplete (c : CoreId) (s : State) : Out :=
  let k := s.core c
  .next (match k.inactive with
    | some (x, _) => if k.live && s.almOn then s.setCore c { k with inactive := some (x, true) } else s
    | none => s)

/-- Core `c` is ready to swap: its copy is complete and it has presented CMTE. -/
def Core.ready (k : Core) : Bool :=
  k.live && k.cmtd && (match k.inactive with | some (_, true) => true | _ => false)

/-- The core after the swap to snapshot `x` (R187, R193, R195). -/
def Core.swapTo (k : Core) (x : Snap) (solo rsync : Bool) : Core :=
  let y := { x with flags := x.flags + solo.toNat + 2 * rsync.toNat, skipped := x.tickNo - k.tick.toNat - 1 }
  let k := { k with active := y, inactive := none, tick := BitVec.ofNat 32 x.tickNo, cursor := 0, cmtd := false, cmtn := 0,
                    solo := solo, rsync := rsync, start := false }
  match k.wait with
  | .evw wd => { k with wait := .none }.next wd 0x30000000
  | _ => k

/-- Swap core `c` to its inactive snapshot. -/
def State.swapCore (solo rsync : Bool) (s : State) (c : CoreId) : State :=
  match (s.core c).inactive with
  | some (x, true) => s.setCore c ((s.core c).swapTo x solo rsync)
  | _ => s

/-- The Gatehouse starts the tick that the swap of `c` has begun, with no core behind. -/
def State.newTick (s : State) (c : CoreId) : State :=
  s.setGate { s.gate with itemsA := [], itemsB := [], marksA := [], marksB := [], readsA := [], readsB := [],
                          diverged := none, discarded := false, tick := (s.core c).tick.toNat, late := none,
                          lateMarks := [] }

/-- Core `c` goes on alone to the next tick; its twin still finishes the tick that has ended. -/
def State.goOn (s : State) (c : CoreId) : State :=
  let done := s.twinMarks (twin c)
  let own := s.marks (twin c)
  let s := ([c].foldl (State.swapCore false false) s).newTick c
  let s := s.setGate { s.gate with late := some (twin c), lateMarks := done }
  match c with
  | .a => s.setGate { s.gate with marksB := own }
  | .b => s.setGate { s.gate with marksA := own }

/-- The number of the complete copy that core `c` holds. -/
def Core.copyNo (k : Core) : Option Nat :=
  match k.inactive with
  | some (x, true) => some x.tickNo
  | _ => none

/-- Core `c`, which has finished an ended tick, joins the tick that its twin runs. -/
def State.catchUp (s : State) (c : CoreId) : State :=
  let s := [c].foldl (State.swapCore false false) s
  let s := s.setGate { s.gate with late := none, lateMarks := [] }
  match c with
  | .a => s.setGate { s.gate with itemsA := [], marksA := [], readsA := [] }
  | .b => s.setGate { s.gate with itemsB := [], marksB := [], readsB := [] }

/-- Both cores hold a complete copy of one snapshot. -/
def State.sameCopy (s : State) : Bool :=
  match s.coreA.inactive, s.coreB.inactive with
  | some (x, true), some (y, true) => x.tickNo == y.tickNo
  | _, _ => false

/-- TWIN resumes at the swap that follows a completed copy: E3B with the copy time and the dirty lines (R217, R228). -/
def State.twinAgain (s : State) : State :=
  let r := twin s.server_
  let s := (s.setFld R.TWN_STAT F.TWN_STAT_MODE 0).setFld R.TWN_STAT F.TWN_STAT_CORE 0
  s.raise 0x3B (coreNum r) (data2 (s.rd R.TWN_RSTIME).toNat s.gate.dirty)

/-- The swap of core `c` in twin mode (R20, R193): both cores together once both have presented CMTE for one tick, or
the Gatehouse has ended it. A core that has finished an ended tick goes on without its twin, and the twin joins the same
tick when it has finished (log 76). -/
def State.swapTwin (s : State) (c : CoreId) : State :=
  if (s.core (twin c)).ready && s.sameCopy && (s.tickEnded || s.gate.late.isNone) then
    (foldS (State.swapCore false false) s [.a, .b]).newTick c
  else if s.tickEnded then s.goOn c
  else if s.isLate c && (s.core c).copyNo == some s.gate.tick then s.catchUp c
  else s

/-- The swap of core `c` (R193). At the end of a resynchronisation both cores swap together to one snapshot, and the
healthy core's swap waits for the final pass (R228); otherwise the serving core swaps alone. The Gatehouse and the
builder are in PD4: without them, and before the boundary after a cycle, nothing swaps (R230). -/
def State.swap (s : State) (c : CoreId) : State :=
  if !(s.core c).ready || s.gate.checking || !s.almOn || s.gate.idle then s
  else if s.twinMode then s.swapTwin c
  else if s.resyncing && s.coreA.live && s.coreB.live then
    (if (s.core (twin c)).ready && s.sameCopy then ((foldS (State.swapCore false true) s [.a, .b]).newTick c).twinAgain
     else s)
  else if s.resyncing && s.stage == stageFinal then s
  else if s.server_ = c then ([c].foldl (State.swapCore true false) s).newTick c else s

def execSnapshotSwap (c : CoreId) (s : State) : Out := .next (s.swap c)

/-- The cores leave reset at the first tick boundary after alarm-ready (R189): SRAM and words 0, TICK 1, the first
snapshot active, vector 0; a permanently isolated core stays in reset (R17, R233). -/
def State.releaseCores (s : State) : State :=
  let x := s.freeze
  let s := s.takeSnap
  let solo := !(s.twinMode)
  let y := { x with flags := x.flags + solo.toNat + 4 }
  let up (s : State) (c : CoreId) : State :=
    if s.permIsolated c then s
    else s.setCore c { coreReset with live := true, solo := solo, tick := BitVec.ofNat 32 x.tickNo, active := y }
  (foldS up s [.a, .b]).setGate { s.gate with tick := x.tickNo, itemsA := [], itemsB := [], marksA := [], marksB := [],
                                              readsA := [], readsB := [], diverged := none, discarded := false,
                                              late := none, lateMarks := [], idle := false, boundaryAt := s.now }

/-- Tick boundary 1 falls 100 µs after alarm-ready (R374). -/
def State.firstBoundary (s : State) : Bool :=
  s.sup.alarmReady && s.alm.stampTick == 1 &&
    decide (s.sup.startAt + ((s.rd R.SYS_ARDY).toNat + 100) * us ≤ s.now)

def execCoresLeaveReset (t : Time) (s : State) : Out :=
  let s := s.atTime t
  .next (if s.firstBoundary && !s.coreA.live && !s.coreB.live && s.almOn
    then s.releaseCores else s)

end Sys2Proof.Machine
end

