-- ==== Sys2Proof/Machine/Ring.lean ====
section
/-! DEFINITION. Promenade's frames (R337–R349): ports, ring header, sameness, layout, slots, forwarding; the taking of
requests and the sending of responses (R352–R355, R360). -/

namespace Sys2Proof.Machine

/-- The ring island runs (PD9). -/
def State.ringOn (s : State) : Bool := s.powered 9

/-- The node's address on the ring: 0 unconfigured (R339). -/
def State.ringAddr (s : State) : Nat := s.fld R.RNG_STAT F.RNG_STAT_ADDR

/-- 0 for port A, 1 for port B. -/
def portIx (portB : Bool) : Nat := portB.toNat

/-! ### Ports (R348) -/

def State.portState (s : State) (p : Nat) : Nat := s.fld (R.RNG_PORT p) F.RNG_PORT_STATE

def State.portLink (s : State) (p : Nat) : Bool := if p = 0 then s.ring.linkA else s.ring.linkB

def State.setPortLink (s : State) (p : Nat) (b : Bool) : State :=
  if p = 0 then s.setRing { s.ring with linkA := b } else s.setRing { s.ring with linkB := b }

/-- The clock of port `p` runs: port A is in CI10, port B and the service port are in CI11 (R10, R11). -/
def State.portOn (s : State) (p : Nat) : Bool := s.islandOn (10 + p)

/-- The service port works. -/
def State.svcOn (s : State) : Bool := s.islandOn 11

/-- Port `p` has been started: the second port is started once the first is UP or 20 ms have passed (R377, S08). -/
def State.portStarted (s : State) (p : Nat) : Bool :=
  match s.ring.firstPort with
  | none => true
  | some f => p == f || s.portState f == 1 || decide (s.ring.portsAt + 20 * ms ≤ s.now)

/-- Port `p` has been started and its clock runs. -/
def State.portRuns (s : State) (p : Nat) : Bool := s.portOn p && s.portStarted p

/-- Port `p` takes state `v` (0 DOWN, 1 UP, 2 BROKEN), with E71 at a change (R348, R362). -/
def State.setPortState (s : State) (p v : Nat) : State :=
  if s.portState p == v then s
  else
    let s := s.setFld (R.RNG_PORT p) F.RNG_PORT_STATE v
    s.raise 0x71 p (v + 256 * s.fld (R.RNG_PORT p) F.RNG_PORT_MISS + 2 ^ 16 * s.fld (R.RNG_PORT p) F.RNG_PORT_CRCERR)

/-- The next cycle of port `p` is counted from `t`. -/
def State.countFrom (s : State) (p : Nat) (t : Time) : State :=
  s.setRing { s.ring with countedAt := tabSet (dflt 0) s.ring.countedAt p t }

/-- The cycle that port `p` counts, in the CYCT of the last valid header, has ended; before the first header it is the
node's own CYCT (log 52). -/
def State.cycleEnd (s : State) (p : Nat) : Time :=
  tabGet (dflt 0) s.ring.countedAt p +
    (if s.ring.cyct = 0 then s.fld R.RNG_CYCT F.RNG_CYCT_CYCT else s.ring.cyct) * us

def execPortLinkDown (portB : Bool) (s : State) : Out :=
  .next (if s.portOn (portIx portB) then (s.setPortLink (portIx portB) false).setPortState (portIx portB) 0 else s)

/-- The PHY reports link again: counting resumes. The port shows DOWN until a header makes it UP or three cycles without
one make it BROKEN (log 52). -/
def execPortLinkUp (portB : Bool) (s : State) : Out :=
  .next (if s.portRuns (portIx portB) && !(s.portLink (portIx portB)) then
    ((s.setPortLink (portIx portB) true).setFld (R.RNG_PORT (portIx portB)) F.RNG_PORT_MISS 0).countFrom (portIx portB) s.now
    else s)

def execPortBroken (portB : Bool) (s : State) : Out :=
  let p := portIx portB
  .next (if s.portOn p && s.portLink p && decide (3 ≤ s.fld (R.RNG_PORT p) F.RNG_PORT_MISS) then s.setPortState p 2 else s)

/-- A cycle without a header on a port; without one on both, no slot was filled in it (R363, JOINED). -/
def State.missCycle (s : State) (p : Nat) : State :=
  let s := (s.countSat (R.RNG_PORT p) F.RNG_PORT_MISS 1).countFrom p (s.cycleEnd p)
  s.applyIf (s.fld (R.RNG_PORT (1 - p)) F.RNG_PORT_MISS != 0)
    (fun s => (s.setFlag R.RNG_STAT F.RNG_STAT_JOINED false).setRing { s.ring with filled := false })

/-- CYCLE_WITHOUT_HEADER comes at the end of the cycle that the port counts (log 1). -/
def execCycleWithoutHeader (portB : Bool) (s : State) : Out :=
  .next (if s.portOn (portIx portB) then (s.atTime (s.cycleEnd (portIx portB))).missCycle (portIx portB) else s)

/-- The address that the contacts give (R408). -/
def contactAddr (v : Nat) : Nat := if 64 < v then 0 else v

def execAddressContactChange (now : BitVec 7) (s : State) : Out :=
  .next (if s.ringOn && s.sup.running && now.toNat != s.sup.contactsNow then
    let s := s.setSup { s.sup with contactsNow := now.toNat }
    (s.setFlag R.RNG_STAT F.RNG_STAT_ADDRCHG true).raise 0x75 1 (s.sup.addr + 256 * contactAddr now.toNat)
  else s)

/-! ### The ring header (R341) -/

/-- The big-endian number in the `n` bytes of a header from `o` (R3). -/
def hdrNat (l : List Byte) (o n : Nat) : Nat := ofBeBytes ((l.drop o).take n)

def hdrKind (l : List Byte) : Nat := hdrNat l 1 1
def hdrFidx (l : List Byte) : Nat := hdrNat l 2 1
def hdrF (l : List Byte) : Nat := hdrNat l 3 1
def hdrCycle (l : List Byte) : Word := BitVec.ofNat 32 (hdrNat l 4 4)
def hdrTime (l : List Byte) : Nat := hdrNat l 8 8
def hdrEpoch (l : List Byte) : Nat := hdrNat l 16 2
def hdrMode (l : List Byte) : Nat := hdrNat l 18 1 / 2 % 2
def hdrDigest (l : List Byte) : Word := BitVec.ofNat 32 (hdrNat l 20 4)
def hdrCyct (l : List Byte) : Nat := hdrNat l 24 4

/-- HCRC is good and VER is 0x01. -/
def hdrValid (l : List Byte) : Bool :=
  l.length == 32 && crc32c (l.take 28) == BitVec.ofNat 32 (hdrNat l 28 4) && hdrNat l 0 1 == 1

/-! ### Layout (R26, R133, R344) -/

/-- Slot frames that a cycle of `cyct` µs carries (R26). -/
def slotFrames (cyct : Nat) : Nat := Nat.max 1 (Nat.min 32 ((cyct - 90) / 118))

def ceilDiv (a b : Nat) : Nat := (a + b - 1) / b

/-- The ring configuration of the executing image and the reporting mode (R133, R350, S10). -/
def State.loadRingCfg (s : State) : State :=
  let m := s.execBytes
  let want := comMode m == 1
  let falls := want && decide (slotFrames (comCyct m) < ceilDiv (comNn m) 2)
  let s := ((s.setFld R.RNG_CFG F.RNG_CFG_ETYPE (comEtype m)).setFlag R.RNG_CFG F.RNG_CFG_MODE want).setFld R.RNG_CFG
    F.RNG_CFG_NN (comNn m)
  s.setFld R.RNG_CYCT F.RNG_CYCT_CYCT (comCyct m) |>.setFlag R.LIM_REPORT F.LIM_REPORT_MODE want
    |>.setFlag R.LIM_REPORT F.LIM_REPORT_EFF (want && !falls) |>.setFlag R.LIM_REPORT F.LIM_REPORT_FALLBK falls

/-- Value mode is in effect. -/
def State.valueMode (s : State) : Bool := s.flag R.LIM_REPORT F.LIM_REPORT_EFF

/-- The slot frames of the node's layout. -/
def State.layoutF (s : State) : Nat :=
  ceilDiv (s.fld R.RNG_CFG F.RNG_CFG_NN) (if s.valueMode then 2 else 10)

/-- A header agrees with the node's layout (R344). -/
def State.layoutAgrees (s : State) (l : List Byte) : Bool :=
  hdrF l == s.layoutF && hdrMode l == s.valueMode.toNat && hdrCyct l == s.fld R.RNG_CYCT F.RNG_CYCT_CYCT

/-- The node may fill a slot: an address, an image, and PD4 whose state the slot carries. -/
def State.hasSlot (s : State) : Bool := s.ringAddr != 0 && !(s.noImage) && s.powered 4

/-! ### Slots (R345, R346) -/

/-- NSTAT. -/
def State.nstat (s : State) : Nat :=
  let solo := (s.coreA.live && s.coreA.solo) || (s.coreB.live && s.coreB.solo)
  let bs := s.fld R.AFE_ROTST F.AFE_ROTST_BSSTATE
  let latched := (List.range 5).any (fun i => s.rd (R.AFE_FAULTSUM i) != 0)
  let trip := s.rd (R.TRP_OUT 0) != 0 || s.rd (R.TRP_OUT 1) != 0
  let loss := match s.mor.lossAt with | some t => decide (s.now < t + 60 * sec) | none => false
  let therm := s.flag R.PWR_STAT F.PWR_STAT_T85 || s.flag R.PWR_STAT F.PWR_STAT_T100
  let edited := s.flag R.AFE_STATE F.AFE_STATE_EDITED || s.flag R.LIM_STAT F.LIM_STAT_EDITED ||
    s.flag R.DIO_STAT F.DIO_STAT_EDITED || (List.range 9).any (fun q => s.flag (R.SEQ_CTL q) F.SEQ_CTL_EDITED)
  ((List.range 11).zip [s.sup.alarmReady, solo, s.fld R.TWN_STAT F.TWN_STAT_MODE == 2, bs == 1 || bs == 2, latched, trip,
    loss, therm, s.flag R.SYS_START F.SYS_START_IMG, edited, s.flag R.RNG_STAT F.RNG_STAT_PULL]).foldl
    (fun n x => n + x.2.toNat * 2 ^ x.1) 0

/-- SAME: EPOCHOK, DIGOK, DIGERR, FALLBK. -/
def State.same (s : State) : Nat :=
  s.fld R.RNG_STAT F.RNG_STAT_EPOCHOK + 2 * s.fld R.RNG_STAT F.RNG_STAT_DIGOK + 4 * s.img.digErr.toNat +
    8 * s.fld R.LIM_REPORT F.LIM_REPORT_FALLBK

/-- The 16-byte header of a slot of kind `kind`. -/
def State.slotHeader (s : State) (kind : Nat) (cyc : Word) : List Byte :=
  leBytes 1 s.ringAddr ++ leBytes 1 kind ++ leBytes 2 s.nstat ++ leBytes 2 s.ownEpoch ++ leBytes 1 s.same ++
    leBytes 1 (s.portState 0 + 4 * s.portState 1) ++ leBytes 4 cyc.toNat ++ leBytes 4 s.ownComDig.toNat

/-- The bits of a list of flags as a number. -/
def bitsNum (l : List Bool) : Nat := l.foldr (fun b n => b.toNat + 2 * n) 0

/-- An unmodified entry of channel `n` is ACTIVE-UNACK or RETURNED-UNACK. -/
def State.chanUnack (s : State) : List Nat :=
  (((listed s.regs (R.ALM_EST 0) 8 2048).map (fun e => e.1)).filter (fun e =>
    (s.alarmState e == 1 || s.alarmState e == 3) && !(s.modified e))).map (fun e => (s.ent e).chan)

/-- The switch slot (R346). -/
def State.switchSlot (s : State) (cyc : Word) : List Byte :=
  let un := s.chanUnack
  s.slotHeader 1 cyc ++ ((List.range 16).map (fun i => leBytes 4 (s.rd (R.LIM_SW i)).toNat)).flatten ++
    leBytes 4 (s.rd (R.DIO_DIST 0)).toNat ++ leBytes 2 (s.rd (R.DIO_DIST 1)).toNat ++
    leBytes 6 (bitsNum ((List.range 48).map s.driven)) ++
    leBytes 32 (bitsNum ((List.range 256).map (fun g => s.fld (R.ALM_GCNT g) F.ALM_GCNT_ACT != 0))) ++
    leBytes 16 (bitsNum ((List.range 128).map (fun n => un.contains n)))

/-- The value slot (R346). -/
def State.valueSlot (s : State) (cyc : Word) : List Byte :=
  s.slotHeader 2 cyc ++ ((List.range 128).map (fun n => leBytes 4 (s.sample n).toNat)).flatten

/-- The contents latched at a header (R343). -/
def State.assembleSlots (s : State) (cyc : Word) : List Byte :=
  s.switchSlot cyc ++ (if s.valueMode then s.valueSlot cyc else [])

/-! ### A valid header (R343, R344, R348, R349) -/

/-- The latch at the first valid header of a cycle, of a frame of kind `kind`. -/
def State.latchSlots (s : State) (l : List Byte) : State :=
  let r := s.ring
  if r.lastCycle = some (hdrCycle l) then s.setRing { r with latched := true }
  else
    let c := if s.hasSlot then s.assembleSlots (hdrCycle l) else []
    let s := s.setFlag R.RNG_STAT F.RNG_STAT_JOINED r.filled
    let r := { r with slotPrev := r.slot, slot := c, latched := hdrKind l == 1 }
    s.setRing { r with filled := false, lastCycle := some (hdrCycle l) }

/-- EPOCHOK and DIGOK, with E73, and PULL (R349). `first`: the first valid header of its cycle. -/
def State.compareSame (s : State) (l : List Byte) (first : Bool) : State :=
  let e := !(s.noImage) && hdrEpoch l == s.ownEpoch
  let d := !(s.noImage) && hdrDigest l == s.ownComDig
  let changed := s.flag R.RNG_STAT F.RNG_STAT_EPOCHOK != e || s.flag R.RNG_STAT F.RNG_STAT_DIGOK != d
  let note := changed || s.ring.firstHeader
  let s := (s.setFlag R.RNG_STAT F.RNG_STAT_EPOCHOK e).setFlag R.RNG_STAT F.RNG_STAT_DIGOK d
  let bad := if e then 0 else if first then s.ring.epochBad + 1 else s.ring.epochBad
  let s := s.setRing { s.ring with firstHeader := false, epochBad := bad }
  let s := s.applyIf note (fun s => s.raise 0x73 (e.toNat + 2 * d.toNat) (hdrEpoch l + 2 ^ 16 * (hdrDigest l).toNat))
  if s.noImage then s
  else if e then s.setFlag R.RNG_STAT F.RNG_STAT_PULL false
  else s.applyIf (decide (3 ≤ bad)) (fun s => s.setFlag R.RNG_STAT F.RNG_STAT_PULL true)

/-- LAYOUT, with E72 (R344). -/
def State.checkLayout (s : State) (l : List Byte) : State :=
  let bad := !(s.layoutAgrees l)
  if s.noImage || s.flag R.RNG_STAT F.RNG_STAT_LAYOUT == bad then s
  else (s.setFlag R.RNG_STAT F.RNG_STAT_LAYOUT bad).raise 0x72 (!bad).toNat
    (hdrF l + 256 * hdrMode l + 2 ^ 16 * hdrCyct l)

/-- The fields of the last valid header; its host time outlives a PD9 cycle for the snapshots (R193). -/
def State.showHeader (s : State) (l : List Byte) : State :=
  let s := (s.setRing { s.ring with lastHost := BitVec.ofNat 64 (hdrTime l) }).takeReference (hdrTime l)
  (s.wrAll [(R.RNG_CYCLE, hdrCycle l), (R.RNG_HTIME 0, BitVec.ofNat 32 (hdrTime l)),
    (R.RNG_HTIME 1, BitVec.ofNat 32 (hdrTime l / 2 ^ 32)), (R.RNG_HDIG, hdrDigest l)]).setFld R.RNG_STAT
    F.RNG_STAT_HEPOCH (hdrEpoch l)

/-- A valid header is received on port `p`. LINK and SAME change after the latch (R348, R349). -/
def State.takeHeader (s : State) (p : Nat) (l : List Byte) : State :=
  let first := decide (s.ring.lastCycle ≠ some (hdrCycle l))
  let s := (s.latchSlots l).showHeader l
  let s := (s.compareSame l first).checkLayout l
  let s := (s.setPortLink p true).setFld (R.RNG_PORT p) F.RNG_PORT_MISS 0
  let s := (s.setRing { s.ring with cyct := hdrCyct l }).countFrom p s.now
  s.setPortState p 1

/-- A header counts: of the EtherType in use, with a good HCRC and version (R340, R341). -/
def State.headerCounts (s : State) (etype : BitVec 16) (l : List Byte) : Bool :=
  etype.toNat == s.fld R.RNG_CFG F.RNG_CFG_ETYPE && hdrValid l

def execRingHeaderReceived (portB : Bool) (etype : BitVec 16) (hdr : List Byte) (t : Time) (s : State) : Out :=
  let s := s.atTime t
  .next (if s.portRuns (portIx portB) && s.sup.running && s.headerCounts etype hdr then s.takeHeader (portIx portB) hdr else s)

/-! ### Requests and responses (R352–R355, R360) -/

/-- The request payload of each type, at most (R353, R392). -/
def bufferOf (m : Msg) : Nat :=
  match m.type.toNat with
  | 2 => 496
  | 4 => if m.arg1 = 1 then 8 else 0
  | 5 => 480
  | 6 => if m.arg1 = 1 then 0 else 496
  | _ => 0

/-- What a node in NOIMG takes (R360). -/
def noimgTakes (m : Msg) : Bool :=
  m.type == 1 || m.type == 5 || m.type == 7 || (m.type == 4 && (m.arg1 == 2 || m.arg1 == 3 || m.arg1 == 4))

/-- The checks of R354 before the type's own rules. -/
def State.checkMsg (s : State) (m : Msg) : Option Status :=
  if 7 < m.type.toNat || m.type == 0 then some .range
  else if 496 < m.len.toNat || bufferOf m < m.len.toNat then some .length
  else if m.flags.getLsbD 0 && m.epoch.toNat != s.ownEpoch then some .epoch
  else if s.noImage && !(noimgTakes m) then some .state
  else none

/-- The payload of a request. -/
def msgBody (m : Msg) : List Byte := m.payload.take m.len.toNat

/-- The message in a request section (R352). -/
def parseMsg (l : List Byte) : Msg :=
  let n (o k : Nat) : Nat := ofLeBytes ((l.drop o).take k)
  { type := BitVec.ofNat 8 (n 0 1), flags := BitVec.ofNat 8 (n 1 1), node := BitVec.ofNat 8 (n 3 1),
    seq := BitVec.ofNat 16 (n 4 2), len := BitVec.ofNat 16 (n 6 2), arg0 := BitVec.ofNat 32 (n 8 4),
    epoch := BitVec.ofNat 16 (n 12 2), arg1 := BitVec.ofNat 16 (n 14 2), payload := (l.drop 16).take (n 6 2) }

/-- The offset a pulling node wants next (R349, R355). -/
def State.pullOfs (s : State) : Nat :=
  if !(s.flag R.RNG_STAT F.RNG_STAT_PULL) then 0xFFFFFFFF
  else if s.imgState == 0 then 0
  else s.firstMissing.getD 0xFFFFFFFF

/-- The status report of ACK (R355). -/
def State.statusReport (s : State) : List Byte :=
  let b (f : Fld) : Bool := s.flag R.RNG_STAT f
  let flags := bitsNum [b F.RNG_STAT_NOIMG, b F.RNG_STAT_PULL, b F.RNG_STAT_JOINED, b F.RNG_STAT_EPOCHOK,
    b F.RNG_STAT_DIGOK, s.img.digErr]
  leBytes 1 s.ringAddr ++ leBytes 1 flags ++ leBytes 2 s.ownEpoch ++ leBytes 4 (s.rd R.DIG_COMMON).toNat ++
    leBytes 4 (s.rd R.DIG_IMAGE).toNat ++ leBytes 4 s.pullOfs ++ leBytes 2 (s.fld R.SYS_ID F.SYS_ID_PART) ++
    leBytes 1 s.ring.resps.length ++ leBytes 1 0 ++ leBytes 4 s.opsec ++ leBytes 2 (s.fld R.SYS_START F.SYS_START_PCC) ++
    leBytes 6 0

/-- The last 8 of a list. -/
def lastEight {α : Type} (l : List α) : List α := l.drop (l.length - 8)

/-- Queue a response while fewer than 8 wait. -/
def State.queueResp (s : State) (r : Resp) : State :=
  if 8 ≤ s.ring.resps.length then s else s.setRing { s.ring with resps := s.ring.resps ++ [r] }

/-- The requests a port has been heard with. -/
def State.heard (s : State) : Port → List Heard
  | .host => s.ring.recent
  | .svc => s.ring.recentSvc

def State.setHeard (s : State) (p : Port) (l : List Heard) : State :=
  match p with
  | .host => s.setRing { s.ring with recent := l }
  | .svc => s.setRing { s.ring with recentSvc := l }

/-- Change the entry of a request heard. -/
def State.mapHeard (s : State) (p : Port) (seq : BitVec 16) (f : Heard → Heard) : State :=
  s.setHeard p ((s.heard p).map (fun h => if h.seq = seq then f h else h))

/-- The response to request `m` from port `p`: on the ring it is queued, once more for each repeat that came before it;
on the service port it is sent (R354, R361). -/
def State.respond (s : State) (p : Port) (m : Msg) (a : Ans) : State :=
  let s := s.answer a.stat
  if !(s.ringOn) then s
  else
    let r : Resp := ⟨m.type, a.stat, m.seq, a.arg0, a.payload, s.ring.lastCycle, false⟩
    let again := ((s.heard p).find? (fun h => h.seq = m.seq)).map (fun h => h.again)
    let s := s.mapHeard p m.seq (fun h => { h with resp := some r, again := 0 })
    match p with
    | .host => foldS (fun s _ => s.queueResp r) s (List.range (1 + again.getD 0))
    | .svc => s.setRing { s.ring with svcResp := some r, svcBusy := false }

/-- A request of no row of the operation table: a type or a command code that is refused with RANGE (R353, R356). -/
def noRow (m : Msg) : Bool :=
  7 < m.type.toNat || (m.type == 4 && (m.arg1 == 0 || 7 < m.arg1.toNat)) ||
    (m.type == 6 && m.arg1 != 1 && m.arg1 != 2)

/-- The node takes request `m` from the ring (R354): a repeat gets its stored response again, or has it noted while
there is none; with 8 responses held the request is dropped; else it waits for its turn, and one that no row executes is
refused. -/
def State.take (s : State) (m : Msg) : State :=
  let s := s.addFld R.RNG_MBX F.RNG_MBX_TAKEN 1
  let known := s.ring.recent.find? (fun h => h.seq = m.seq)
  let s := s.applyIf known.isSome (fun s => s.addFld R.RNG_MBX F.RNG_MBX_REPEAT 1)
  if 8 ≤ s.ring.resps.length then s.addFld R.RNG_MBX F.RNG_MBX_DROP 1
  else match known with
    | some h =>
      (match h.resp with
       | some r => s.queueResp { r with taken := s.ring.lastCycle }
       | none => s.mapHeard .host m.seq (fun h => { h with again := h.again + 1 }))
    | none =>
      let s := s.setRing { s.ring with recent := lastEight (s.ring.recent ++ [⟨m.seq, none, 0⟩]) }
      if noRow m then s.respond .host m (ansOf ((s.checkMsg m).getD .range))
      else s.setRing { s.ring with taken := s.ring.taken ++ [m] }

/-- The response section of a response: 512 bytes. What the manual states no value for (ARG0 where no row of R353 to
R358 names it, ARG1, EPOCH, the SEQ of a response to no request) is a free value (log 53). -/
def State.responseBytes (s : State) (r : Resp) : List Byte × State :=
  let a := s.freshWord
  let b := a.2.freshWord
  let q := b.2.freshWord
  let seq := if r.ack then q.1.toNat % 2 ^ 16 else r.seq.toNat
  let h := leBytes 1 r.type.toNat ++ leBytes 1 2 ++ leBytes 1 r.stat.code ++ leBytes 1 s.ringAddr ++ leBytes 2 seq ++
    leBytes 2 r.payload.length ++ leBytes 4 (r.arg0.getD a.1).toNat ++ leBytes 4 b.1.toNat
  (h ++ r.payload ++ List.replicate (496 - r.payload.length) 0, q.2)

/-- The ACK response a node with none waiting writes (R354). -/
def State.ackResp (s : State) : Resp := ⟨7, .ok, 0, none, s.statusReport, none, true⟩

/-- The node named writes its oldest response that is ready, or an ACK (R354). -/
def State.sendResp (s : State) : State :=
  let pick := match s.ring.resps with
    | r :: l => if r.taken.isSome && r.taken == s.ring.lastCycle then (s.ackResp, s.ring.resps) else (r, l)
    | [] => (s.ackResp, [])
  let out := s.responseBytes pick.1
  let s := out.2
  s.setRing { s.ring with resps := pick.2, respOut := some out.1 }

/-- The node answers requests and names: it runs, with an address (R339). -/
def State.answers (s : State) : Bool := s.ringOn && s.sup.running && s.ringAddr != 0

def execMbxResponse (named : Byte) (t : Time) (s : State) : Out :=
  let s := s.atTime t
  .next (if s.answers && named.toNat == s.ringAddr then s.sendResp else s)

/-! ### Forwarding (R340, R347) -/

/-- Overwrite the bytes of a list from `o`. -/
def listPut (l : List Byte) (o : Nat) (b : List Byte) : List Byte := l.take o ++ b ++ l.drop (o + b.length)

/-- The mailbox frame's area: a request for the node is taken and marked, the response section the node is named in is
written. -/
def State.passMailbox (s : State) (area : List Byte) : List Byte × State :=
  let m := parseMsg area
  let takes := m.type != 0 && m.node.toNat == s.ringAddr
  let s := s.applyIf takes (fun s => s.take m)
  let area := if takes then listPut area 1 [(area.getD 1 0) ||| 4] else area
  let s := s.applyIf ((area.getD 515 0).toNat == s.ringAddr) State.sendResp
  if (area.getD 515 0).toNat == s.ringAddr then (listPut area 512 (s.ring.respOut.getD []), s) else (area, s)

/-- The node's slots in slot frame `fidx`: offset and bytes (R344). -/
def State.slotPlaces (s : State) (fidx : Nat) (c : List Byte) : List (Nat × List Byte) :=
  let a := s.ringAddr
  if c.isEmpty then []
  else if s.valueMode then
    if fidx = ceilDiv a 2 then [(528 * ((a - 1) % 2), c.drop 140), (1056 + 140 * ((a - 1) % 2), c.take 140)] else []
  else if fidx = ceilDiv a 10 then [(140 * ((a - 1) % 10), c.take 140)] else []

/-- Fill one slot, unless another node has filled it: DUPADDR, with E75 once (R347). -/
def State.fillSlot (x : List Byte × State) (place : Nat × List Byte) : List Byte × State :=
  let s := x.2
  if x.1.getD place.1 0 ≠ 0 then
    (x.1, if s.flag R.RNG_STAT F.RNG_STAT_DUPADDR then s
      else (s.setFlag R.RNG_STAT F.RNG_STAT_DUPADDR true).raise 0x75 0 (s.sup.addr + 256 * contactAddr s.sup.contactsNow))
  else
    let s := (s.setFlag R.RNG_STAT F.RNG_STAT_JOINED true).setRing { s.ring with filled := true }
    let us := BitVec.ofNat 32 s.sinceStart
    (listPut x.1 place.1 place.2, if s.rd R.SYS_JOIN = 0xFFFFFFFF then s.wr R.SYS_JOIN us else s)

/-- A slot frame's area. -/
def State.passSlots (s : State) (fidx : Nat) (area : List Byte) : List Byte × State :=
  if !(s.hasSlot) || s.flag R.RNG_STAT F.RNG_STAT_LAYOUT then (area, s)
  else (s.slotPlaces fidx (if s.ring.latched then s.ring.slot else s.ring.slotPrev)).foldl State.fillSlot (area, s)

/-- Port `p` can send: it has been started, its clock runs, and with loop timing it receives a signal (R12). -/
def State.portSends (s : State) (p : Nat) : Bool :=
  s.portRuns p && (!(s.flag (R.RNG_PORT p) F.RNG_PORT_LOOPT) || s.portLink p)

/-- A frame of the ring passes. One of another EtherType, tagged or shorter than 64 bytes is not forwarded; one with a
bad header, and every frame at an unconfigured node, passes unchanged; one that arrives with a bad FCS leaves with one.
The other port sends it; on RC8 that port stays silent while it receives no signal to take its clock from (R12). -/
def State.passFrame (s : State) (p : Nat) (etype : BitVec 16) (tagged fcsOk : Bool) (hdr area : List Byte) : State :=
  let s := s.applyIf (!fcsOk) (fun s => s.addFld (R.RNG_PORT p) F.RNG_PORT_CRCERR 1)
  if etype.toNat != s.fld R.RNG_CFG F.RNG_CFG_ETYPE || tagged || 18 + hdr.length + area.length < 64 then
    s.setRing { s.ring with sentFrame := false, outArea := [] }
  else
    let x := if !(hdrValid hdr) || s.ringAddr == 0 then (area, s)
      else if hdrKind hdr == 1 then s.passMailbox area
      else if hdrKind hdr == 2 then s.passSlots (hdrFidx hdr) area
      else (area, s)
    let s := x.2
    if s.portSends (1 - p) then s.setRing { s.ring with sentFrame := true, outArea := x.1, outFcsOk := fcsOk }
    else s.setRing { s.ring with sentFrame := false, outArea := [] }

def execFrameForward (portB : Bool) (etype : BitVec 16) (tagged fcsOk : Bool) (hdr area : List Byte) (t : Time)
    (s : State) : Out :=
  let s := s.atTime t
  .next (if s.portRuns (portIx portB) && s.sup.running then s.passFrame (portIx portB) etype tagged fcsOk hdr area else s)

/-! ### The service port (R361, R366) -/

def State.sessionEvent (s : State) (on : Bool) : State :=
  if s.flag R.SVC_STAT F.SVC_STAT_SESSION == on then s
  else (s.setFlag R.SVC_STAT F.SVC_STAT_SESSION on).raise 0x71 2 on.toNat

def execVbusAttach (s : State) : Out :=
  .next (if s.svcOn then s.setFlag R.SVC_STAT F.SVC_STAT_ATTACHED true else s)

def execDeviceConfigured (s : State) : Out :=
  .next (if s.svcOn && s.flag R.SVC_STAT F.SVC_STAT_ATTACHED then s.setFlag R.SVC_STAT F.SVC_STAT_CONFIG true else s)

def execSvcSessionOpen (s : State) : Out := .next (if s.svcOn then s.sessionEvent true else s)

/-- DTR is released or the bus detaches. The command does not tell which: ATTACHED and CONFIG stay (log 54). -/
def execSvcSessionClose (s : State) : Out := .next (if s.svcOn then s.sessionEvent false else s)

def execSvcFrameTimeout (s : State) : Out :=
  .next (if s.svcOn && s.flag R.SVC_STAT F.SVC_STAT_SESSION then s.addFld R.SVC_STAT F.SVC_STAT_BADFR 1 else s)

/-- A PD9 cycle: its registers reset, the mailbox exchange and the session end; the transfer state stays (R367). -/
def State.dropRing (s : State) : State :=
  let keep := [(R.RNG_IMG, s.rd R.RNG_IMG), (R.RNG_IMGLEN, s.rd R.RNG_IMGLEN)]
  let s := s.resetRegs (fun a => blockNo a == 0x4010 || blockNo a == 0x4012)
  let s := (s.wrAll keep).setRing { ringReset with lastHost := s.ring.lastHost }
  s.setImg { s.img with ending := none }

/-- PD9 is back: the configuration of the executing image, the address and the port options of the start; on RC8 the
ports transmit on their received clock (R12, R337, R367). With NOIMG, NOIMG and PULL stand (R349, R360). The ports are
started at `t`, port `first` before the other (S08). -/
def State.loadRing (s : State) (first : Option Nat) (t : Time) : State :=
  let s := s.setFld R.RNG_STAT F.RNG_STAT_ADDR s.sup.addr
  let s := (s.setFlag (R.RNG_PORT 0) F.RNG_PORT_PHY s.sup.pselA).setFlag (R.RNG_PORT 1) F.RNG_PORT_PHY s.sup.pselB
  let rc8 := s.fld R.CLK_REF F.CLK_REF_SRC == 1
  let s := (s.setFlag (R.RNG_PORT 0) F.RNG_PORT_LOOPT rc8).setFlag (R.RNG_PORT 1) F.RNG_PORT_LOOPT rc8
  let s := s.setRing { s.ring with firstPort := first, portsAt := t }
  let s := (s.countFrom 0 t).countFrom 1 t
  if s.noImage then (s.setFlag R.RNG_STAT F.RNG_STAT_NOIMG true).setFlag R.RNG_STAT F.RNG_STAT_PULL true
  else s.loadRingCfg

end Sys2Proof.Machine
end

