-- ==== Sys2Proof/Machine/Requests.lean ====
section
/-! DEFINITION. How a request comes to be executed (R354, R361): from the ring, in the order taken; from the service
port, within a session, one at a time. -/

namespace Sys2Proof.Machine

/-- Check request `m` and execute it by `f`; an execution that answers later leaves no answer now (R358). -/
def State.runReq (s : State) (p : Port) (m : Msg) (f : State → State × Option Ans) : State :=
  match s.checkMsg m with
  | some r => s.respond p m (ansOf r)
  | none =>
    let x := f s
    match x.2 with
    | some a => x.1.respond p m a
    | none => if p = .svc then x.1.setRing { x.1.ring with svcBusy := true } else x.1

/-- Request `m` of the ring. The head of those a frame has brought is executed; one that comes here first is taken
(R354), and executed where none waits before it. -/
def State.ringReq (s : State) (m : Msg) (f : State → State × Option Ans) : State :=
  let pop (s : State) : State := s.setRing { s.ring with taken := s.ring.taken.drop 1 }
  if !(s.answers) then s
  else if s.ring.taken.head? = some m then (pop s).runReq .host m f
  else if m.node.toNat ≠ s.ringAddr then s
  else
    let s' := s.take m
    if s.ring.taken.isEmpty && s'.ring.taken.head? == some m then (pop s').runReq .host m f else s'

/-- The service port sends a response. -/
def State.svcSend (s : State) (r : Resp) : State := (s.setRing { s.ring with svcResp := some r }).answer r.stat

/-- Request `m` of the service port: BUSY before the previous response has been sent; a repeat gets the stored response
again (R354, R361). -/
def State.svcReq (s : State) (m : Msg) (f : State → State × Option Ans) : State :=
  if !(s.svcOn && s.sup.running && s.flag R.SVC_STAT F.SVC_STAT_SESSION) then s
  else if s.ring.svcBusy then s.svcSend ⟨m.type, .busy, m.seq, none, [], none, false⟩
  else match (s.heard .svc).find? (fun h => h.seq = m.seq) with
    | some h => (match h.resp with
      | some r => s.svcSend r
      | none => s)
    | none =>
      let s := s.setHeard .svc (lastEight (s.heard .svc ++ [⟨m.seq, none, 0⟩]))
      (s.addFld R.SVC_STAT F.SVC_STAT_REQ 1).runReq .svc m f

/-- A request `m` of port `p` for which the operation table has the row that is commanded (`fits`); another message is
not this command, and nothing happens. -/
def State.request (s : State) (p : Port) (m : Msg) (fits : Bool) (f : State → State × Option Ans) : State :=
  if !fits then s
  else match p with
    | .host => s.ringReq m f
    | .svc => s.svcReq m f

/-- An execution that answers at once. -/
def now_ (f : State → State × Ans) (s : State) : State × Option Ans :=
  let x := f s
  (x.1, some x.2)

/-- Request `m` is COMMAND with code `c` (R356). -/
def isCommand (m : Msg) (c : Nat) : Bool := m.type == 4 && m.arg1.toNat == c

end Sys2Proof.Machine
end

