-- ==== Sys2Proof/Machine/Rante.lean ====
section
/-! DEFINITION. The Rante window (R391–R400): the map, values, limits through the window entries, byte pairs, enable and
disable. -/

namespace Sys2Proof.Machine

/-- RLO and RHI of channel `n`. -/
def State.rlo (s : State) (n : Nat) : Int := s.sfld (R.RWN_RLO n) F.RWN_RLO_VAL
def State.rhi (s : State) (n : Nat) : Int := s.sfld (R.RWN_RHI n) F.RWN_RHI_VAL

/-- The page in use. -/
def State.rantePage (s : State) : Nat := s.fld R.RWN_ST F.RWN_ST_PAGE

/-- The channel of register `k` of the page. -/
def State.ranteChan (s : State) (k : Nat) : Nat := 32 * s.rantePage + k

/-! ### Values (R394, R395) -/

/-- CODE, OVR and UNDR of channel `n`. -/
def State.ranteValue (s : State) (n : Nat) : Nat × Bool × Bool :=
  let w := s.sample n
  let lo := s.rlo n
  let hi := s.rhi n
  if 2 ≤ swQuality w ∨ hi ≤ lo then (0xFFF, false, false)
  else
    let c := truncDiv ((swValue w - lo) * 4095) (hi - lo)
    ((clampInt 0 0xFFE c).toNat, decide (hi < swValue w), decide (swValue w < lo))

def State.ranteNew (s : State) (n : Nat) : Bool := s.rwn.news.getLsbD n

/-- The VALUE register of channel `n`. -/
def State.valueReg (s : State) (n : Nat) : Nat :=
  let v := s.ranteValue n
  v.1 + 2 ^ 13 * v.2.2.toNat + 2 ^ 14 * v.2.1.toNat + 2 ^ 15 * (s.ranteNew n).toNat

/-! ### Limits (R396) -/

/-- The code of limit register `kind` (0 HI, 1 LO, 2 HIHI, 3 LOLO) of channel `n`; 0xFFF after the enable. -/
def State.limitCode (s : State) (kind n : Nat) : Nat := tabGet (dflt 0xFFF) s.rwn.codes (128 * kind + n)

/-- The DELAY byte of channel `n`. -/
def State.delayByte (s : State) (n : Nat) : Nat := tabGet (dflt 0) s.rwn.delays n

/-- Two BCD digits. -/
def bcdByte (v : Nat) : Bool := v < 256 && v / 16 ≤ 9 && v % 16 ≤ 9

/-- The TH of code `c` on channel `n`. -/
def State.codeTh (s : State) (n c : Nat) : Int := s.rlo n + truncDiv (c * (s.rhi n - s.rlo n)) 4095

/-- The window entry `kind` of channel `n`; `hys` where RLO ≥ RHI gives none that HYS can hold. -/
def State.windowEnt (s : State) (kind n hys : Nat) : Ent :=
  let c := s.limitCode kind n
  let span := s.rhi n - s.rlo n
  let h := if span < 0 then hys % 2 ^ 16 else Nat.min (truncDiv span 100).toNat 65535
  let d := s.delayByte n
  let sev := if kind == 0 || kind == 1 then 1 else 2
  ⟨putFld F.LIM_ENT0_TH (putFld F.LIM_ENT0_CHAN 0 n) (unsignOf 24 (s.codeTh n c)),
   putFld F.LIM_ENT1_ONDLY (putFld F.LIM_ENT1_HYS 0 h) (5 * (10 * (d / 16) + d % 16)),
   putFld F.LIM_ENT2_SW (putFld F.LIM_ENT2_SEV (putFld F.LIM_ENT2_TYPE
     (putFld F.LIM_ENT2_GROUP 0 (s.fld (R.RWN_RLO n) F.RWN_RLO_GROUP)) kind) sev) kind,
   putFld F.LIM_ENT3_ONX (putFld F.LIM_ENT3_EN 0 (if c == 0xFFF then 0 else 1)) 1⟩

/-- The index of window entry `kind` of channel `n`: HI, LO, HIHI, LOLO from L(1536 + 4n). -/
def windowIdx (kind n : Nat) : Nat := 1536 + 4 * n + kind

/-- Window entry `kind` of channel `n` is staged and applied as R139 states: E26 and E7B. -/
def State.stageWindow (s : State) (kind n : Nat) : State :=
  let h := s.freshWord
  let s := h.2
  let e := windowIdx kind n
  let x := s.windowEnt kind n h.1.toNat
  let s := (s.replaceEntry e x).noteStaged e
  s.raise 0x7B e (data2 (s.limitCode kind n) (unsignOf 32 x.th))

/-- All four entries of channel `n`. -/
def State.stageChannel (s : State) (n : Nat) : State := foldS (fun s k => s.stageWindow k n) s (List.range 4)

/-! ### The map (R393) -/

/-- The register at even offset `o` of a row of 32 that starts at `base`. -/
def rowOf (base o : Nat) : Option Nat := if base ≤ o && o < base + 64 then some ((o - base) / 2) else none

/-- The limit register at offset `o`: kind and register number. -/
def limitAt (o : Nat) : Option (Nat × Nat) :=
  match rowOf 0x080 o, rowOf 0x0C0 o, rowOf 0x100 o, rowOf 0x140 o with
  | some k, _, _, _ => some (0, k)
  | _, some k, _, _ => some (1, k)
  | _, _, some k, _ => some (2, k)
  | _, _, _, some k => some (3, k)
  | _, _, _, _ => none

/-- The registers that take byte pairs. -/
def pairReg (o : Nat) : Bool := o == 0x002 || (limitAt o).isSome || (rowOf 0x180 o).isSome

/-- The channels of the page. -/
def State.pageChans (s : State) : List Nat := (List.range 32).map s.ranteChan

/-- STATUS. -/
def State.ranteStatus (s : State) : Nat :=
  bitsNum [s.sup.alarmReady, s.pageChans.any s.ranteNew, s.pageChans.any (fun n => (s.ranteValue n).1 == 0xFFF),
    s.rwn.discard, s.rwn.ignored]

/-- The 16-bit register at even offset `o`. -/
def State.ranteReg (s : State) (o : Nat) : Nat :=
  if o = 0x000 then 0x3A03
  else if o = 0x002 then s.rantePage + 2 ^ 15 * s.rwn.latch.isSome.toNat
  else if o = 0x004 then s.ranteStatus
  else if o = 0x006 ∨ o = 0x008 then bitsNum ((List.range 16).map (fun j => s.ranteNew (s.ranteChan (8 * (o - 6) + j))))
  else match rowOf 0x040 o with
    | some k => s.valueReg (s.ranteChan k)
    | none =>
      match limitAt o with
      | some (kind, k) => s.limitCode kind (s.ranteChan k)
      | none =>
        match rowOf 0x180 o with
        | some k => s.delayByte (s.ranteChan k)
        | none => 0

/-- What reading the register at `o` clears: NEW of a VALUE register; bits 3 and 4 of STATUS. -/
def State.ranteTouch (s : State) (o : Nat) : State :=
  if o = 0x004 then s.setRwn { s.rwn with discard := false, ignored := false }
  else match rowOf 0x040 o with
    | some k => s.setRwn { s.rwn with news := s.rwn.news &&& ~~~((1 : BitVec 128) <<< (s.ranteChan k)) }
    | none => s

/-- Read the registers at the offsets `l` in order. -/
def State.ranteReadAll (s : State) (l : List Nat) : List Byte × State :=
  l.foldl (fun x o => (x.1 ++ leBytes 2 (x.2.ranteReg o), x.2.ranteTouch o)) ([], s)

/-- READ (R392). -/
def State.ranteReadOp (s : State) (arg0 : Word) : State × Ans :=
  let o := bitsOf arg0.toNat 0 12
  let n := bitsOf arg0.toNat 16 8
  if !(s.windowOn) then (s, ansOf .state)
  else if 248 < n then (s, ansOf .length)
  else if o % 2 ≠ 0 ∨ 0x1000 < o + 2 * n then (s, ansOf .address)
  else
    let x := s.ranteReadAll ((List.range n).map (fun i => o + 2 * i))
    (x.2, ⟨.ok, none, x.1⟩)

def execRanteRead (p : Port) (m : Msg) (t : Time) (s : State) : Out :=
  .next ((s.atTime t).request p m (m.type == 6 && m.arg1 == 1) (now_ (fun s => s.ranteReadOp m.arg0)))

/-! ### Byte pairs (R398) -/

/-- RWN_ST shows the pair latch. -/
def State.putPair (s : State) (x : Option (Nat × Byte × Time)) : State :=
  let s := s.setRwn { s.rwn with latch := x }
  (s.setFlag R.RWN_ST F.RWN_ST_PAIROPEN x.isSome).setFld R.RWN_ST F.RWN_ST_POFS ((x.map (fun y => y.1)).getD 0)

/-- A held byte of the register at `o` is discarded: DISCARD and E79. -/
def State.ranteDiscard (s : State) (o data : Nat) : State :=
  let s := (s.addFld R.RWN_ST F.RWN_ST_DISC 1).setRwn { s.rwn with discard := true }
  s.raise 0x79 o data

/-- An item is ignored by row `row` of the table of R398, counted from 1: IGNORED and E7A (log 56). -/
def State.ranteIgnore (s : State) (o : Nat) (b : Byte) (row : Nat) : State :=
  let s := (s.addFld R.RWN_ST F.RWN_ST_IGN 1).setRwn { s.rwn with ignored := true }
  s.raise 0x7A o (b.toNat + 256 * row)

/-- The register at `o` is written with `v`; none where the value is not taken. -/
def State.ranteWriteReg (s : State) (o v : Nat) : Option State :=
  if 0x1000 ≤ v then none
  else if o = 0x002 then (if 3 < v then none else some ((s.setFld R.RWN_ST F.RWN_ST_PAGE v).setRwn { s.rwn with mPage := v }))
  else match limitAt o with
    | some (kind, k) =>
      let n := s.ranteChan k
      let s := s.setRwn { s.rwn with codes := tabSet (dflt 0xFFF) s.rwn.codes (128 * kind + n) v }
      some (s.stageWindow kind n)
    | none =>
      match rowOf 0x180 o with
      | some k =>
        if bcdByte v then
          let n := s.ranteChan k
          let s := s.setRwn { s.rwn with delays := tabSet (dflt 0) s.rwn.delays n v }
          some (s.stageChannel n)
        else none
      | none => none

/-- One item: offset `o`, byte `b`. The answer tells whether it was ignored. -/
def State.ranteItem (s : State) (o : Nat) (b : Byte) : Bool × State :=
  let r := o - o % 2
  if !(pairReg r) then (true, s.ranteIgnore o b 7)
  else if o % 2 == 0 then
    match s.rwn.latch with
    | none => (false, s.putPair (some (r, b, s.now)))
    | some (h, _, _) =>
      if h = r then (false, (s.putPair (some (r, b, s.now))).ranteDiscard o 1)
      else (true, s.ranteIgnore o b 3)
  else
    match s.rwn.latch with
    | none => (true, s.ranteIgnore o b 6)
    | some (h, hi, _) =>
      if h ≠ r then (true, s.ranteIgnore o b 5)
      else
        match (s.putPair none).ranteWriteReg r (hi.toNat * 256 + b.toNat) with
        | some s' => (false, s')
        | none => (true, (s.putPair none).ranteIgnore o b 8)

/-- A pair open for 10 ms is discarded. -/
def State.expirePair (s : State) : State :=
  match s.rwn.latch with
  | some (o, _, t) => if t + 10 * ms ≤ s.now then (s.putPair none).ranteDiscard o 0 else s
  | none => s

/-- The items of a WRITE: offset and byte. -/
def ranteItems : List Byte → List (Nat × Byte)
  | a :: b :: c :: _ :: l => (a.toNat + 256 * b.toNat, c) :: ranteItems l
  | _ => []

/-- Apply the items in order, counting those ignored. -/
def State.applyItems (s : State) (l : List (Nat × Byte)) : Nat × State :=
  l.foldl (fun x i => let y := x.2.ranteItem i.1 i.2; (x.1 + y.1.toNat, y.2)) (0, s)

/-- WRITE (R392). -/
def State.ranteWriteOp (s : State) (l : List Byte) : State × Ans :=
  if !(s.windowOn) then (s, ansOf .state)
  else if l.length % 4 ≠ 0 || (ranteItems l).any (fun i => 0xFFF < i.1) then (s, ansOf .range)
  else
    let x := s.expirePair.applyItems (ranteItems l)
    (x.2, ⟨.ok, some (BitVec.ofNat 32 x.1), []⟩)

def execRanteWrite (p : Port) (m : Msg) (t : Time) (s : State) : Out :=
  .next ((s.atTime t).request p m (m.type == 6 && m.arg1 == 2) (now_ (fun s => s.ranteWriteOp (msgBody m))))

def execRantePairTimeout (t : Time) (s : State) : Out :=
  let s := s.atTime t
  .next (if s.islandOn 5 then s.expirePair else s)

/-! ### Enable and disable (R397, R399) -/

/-- Window entry `kind` of channel `n` takes the disabled form; one that was enabled is disabled as R139 states. -/
def State.disableWindow (s : State) (kind n : Nat) : State :=
  let h := s.freshWord
  let e := windowIdx kind n
  let x := s.windowEnt kind n h.1.toNat
  if (s.ent e).en then h.2.replaceEntry e x else h.2.putEnt e x

/-- Every window entry. -/
def allWindow : List (Nat × Nat) := ((List.range 128).map (fun n => (List.range 4).map (fun k => (k, n)))).flatten

/-- Every limit register 0xFFF, every DELAY 0, every window entry disabled. -/
def State.clearWindow (s : State) : State :=
  let s := s.setRwn { s.rwn with codes := [], delays := [] }
  foldS (fun s x => s.disableWindow x.1 x.2) s allWindow

/-- An enable is refused: E78. -/
def State.refuseEnable (s : State) (r : Status) : State := (s.raise 0x78 2 r.code).answer r

/-- RWN_CTL.EN from 0 to 1. -/
def State.ranteEnableOp (s : State) : State :=
  if !(s.powered 4) then s.answer .busy
  else if s.windowOn then s.answer .ok
  else if !(s.lockOpen) then s.answer .denied
  else
    let c := s.claimAll ((List.range 4).map (fun i => 77 + i)) 0x22
    if !c.1 then c.2.refuseEnable .claim
    else if (List.range 128).any (fun n => decide (s.rlo n < s.rhi n) && 12 < s.fld (R.LIM_CHIDX n) F.LIM_CHIDX_COUNT) then
      s.refuseEnable .state
    else
      let s := (c.2.noteLk.setFlag R.RWN_CTL F.RWN_CTL_EN true).clearWindow
      ((s.setRwn { s.rwn with mEn := true }).raise 0x78 0 0).answer .ok

def execRanteEnable (_p : Port) (t : Time) (s : State) : Out := .next ((s.atTime t).ranteEnableOp)

/-- An open pair is discarded; the manual gives E79 no data for it: a free value (log 6). -/
def State.dropPair (s : State) : State :=
  match s.rwn.latch with
  | some (o, _, _) => (s.freshWord.2.putPair none).ranteDiscard o s.freshWord.1.toNat
  | none => s

/-- RWN_CTL.EN from 1 to 0. -/
def State.ranteDisableOp (s : State) : State :=
  if !(s.powered 4) then s.answer .busy
  else if !(s.windowOn) then s.answer .ok
  else if !(s.lockOpen) then s.answer .denied
  else
    let s := (s.noteLk.clearWindow).releaseClaims 0x22
    let s := s.dropPair.setFld R.RWN_ST F.RWN_ST_PAGE 0
    let s := s.setFlag R.RWN_CTL F.RWN_CTL_EN false
    ((s.setRwn { s.rwn with mEn := false, mPage := 0 }).raise 0x78 1 0).answer .ok

def execRanteDisable (_p : Port) (t : Time) (s : State) : Out := .next ((s.atTime t).ranteDisableOp)

/-- PD4 is cycled: the open pair, NEW and the marks are lost. -/
def State.dropRante (s : State) : State :=
  s.setRwn { s.rwn with news := 0, latch := none, discard := false, ignored := false }

/-- Window entry `kind` of channel `n` is staged again in the table that has just been loaded: the entry stood there
before, and keeps what the mirror holds of its state (R137, R397). -/
def State.restageWindow (s : State) (kind n : Nat) : State :=
  let h := s.freshWord
  let e := windowIdx kind n
  let x := s.windowEnt kind n h.1.toNat
  let s := (h.2.putEnt e x).noteStaged e
  s.raise 0x7B e (data2 (s.limitCode kind n) (unsignOf 32 x.th))

/-- PD4 is back: EN, PAGE and the limit and DELAY registers as the mirror holds them, and the entries staged again, before
the first evaluation (R397). -/
def State.backRante (s : State) : State :=
  if !(s.rwn.mEn) then s
  else
    let s := (s.setFlag R.RWN_CTL F.RWN_CTL_EN true).setFld R.RWN_ST F.RWN_ST_PAGE s.rwn.mPage
    foldS (fun s x => s.restageWindow x.1 x.2) s allWindow

/-- The window starts disabled (R397). -/
def State.clearRante (s : State) : State := s.setRwn ranteReset

end Sys2Proof.Machine
end

