-- ==== Sys2Proof/Machine/Sequencer.lean ====
section
/-! DEFINITION. Scan sequencers and channel programs (R91–R117, R426): the instructions, results and waits, scan timers,
the load check and the host's control. -/

namespace Sys2Proof.Machine

/-! ### States, program counter, waits (R92, R116) -/

def stRunning : Nat := 0
def stHalted : Nat := 1
def stStopped : Nat := 2
def stLent : Nat := 3

/-- SEQ_CTL.STATE of sequencer `q`. -/
def State.seqState (s : State) (q : Nat) : Nat := s.fld (R.SEQ_CTL q) F.SEQ_CTL_STATE

def State.setSeqState (s : State) (q v : Nat) : State := s.setFld (R.SEQ_CTL q) F.SEQ_CTL_STATE v

/-- SEQ_PC.PC. -/
def State.seqPc (s : State) (q : Nat) : Nat := s.fld (R.SEQ_PC q) F.SEQ_PC_PC

/-- The sequencer goes on at address `a` modulo 512 (R92). -/
def State.seqGo (s : State) (q a : Nat) : State := s.setFld (R.SEQ_PC q) F.SEQ_PC_PC a

/-- The sequencer goes on at the next address. -/
def State.seqNext (s : State) (q : Nat) : State := s.seqGo q (s.seqPc q + 1)

/-- The code of a wait in SEQ_PC.WAIT. -/
def SWait.code : SWait → Nat
  | .none => 0 | .sel _ _ => 1 | .stl _ => 2 | .put _ => 3 | .waitt _ => 4 | .sync _ _ _ => 5 | .chk _ _ => 6

/-- Sequencer `q` waits for `w`, or for nothing. -/
def State.seqWait (s : State) (q : Nat) (w : SWait) : State :=
  (s.setSeq q { s.seq q with wait := w }).setFld (R.SEQ_PC q) F.SEQ_PC_WAIT w.code

/-- The wait of `q` ends and it goes on. -/
def State.seqResume (s : State) (q : Nat) : State := (s.seqWait q .none).seqNext q

/-- Sequencer `q` executes: CI4 works, RUNNING; the BS sequencer only while BS serves a bank (R11, R91, R115). -/
def State.seqRuns (s : State) (q : Nat) : Bool := s.islandOn 4 && s.seqState q == stRunning && s.seqBank q < 8

/-- Sequencer `q` takes its next instruction now: it waits for nothing, and its last PUT has handed its word over (R13). -/
def State.seqReady (s : State) (q : Nat) : Bool := s.seqRuns q && (s.seq q).wait == .none && !(s.sendHeld q)

/-- In the second half of a 3-wire channel. -/
def State.seqHalf (s : State) (q : Nat) : Bool := s.flag (R.SEQ_PC q) F.SEQ_PC_HALF

/-- The selected channel of `q`, where it is scanned (R96). -/
def State.scannedChan (s : State) (q : Nat) : Option Nat :=
  match s.seqChan q with
  | some n => if s.scanned n then some n else none
  | none => none

/-! ### Settle stamps (R107) -/

/-- A change now that applies settle time `d` moves the stamp, and raises the settled-at time (R107). -/
def State.moveStamp (s : State) (q d : Nat) : State := s.stampAt q d s.now

/-! ### Faults of a program (R113) -/

/-- NORES, NOHALF or PAIRERR (`f`, bit `k` of the E1C item). -/
def State.seqFault (s : State) (q : Nat) (f : Fld) (k : Nat) : State :=
  let was := s.flag (R.SEQ_FAULT q) f
  let pc := s.seqPc q
  let s := (s.setFlag (R.SEQ_FAULT q) f true).setFld (R.SEQ_FAULT q) F.SEQ_FAULT_ADDR pc
  if was then s else s.raise 0x1C q (pc + 2 ^ 16 * 2 ^ k)

/-- A SYNC timeout: counted, E1D each time. -/
def State.countSyncTo (s : State) (q : Nat) : State :=
  let s := (s.addFld (R.SEQ_CNT q) F.SEQ_CNT_SYNCTO 1).setFlag (R.SEQ_FAULT q) F.SEQ_FAULT_SYNCTO true
  let s := s.setFld (R.SEQ_FAULT q) F.SEQ_FAULT_ADDR (s.seqPc q)
  s.raise 0x1D q (s.seqPc q + 2 ^ 16 * s.fld (R.SEQ_CNT q) F.SEQ_CNT_SYNCTO)

/-- An overrun: counted, E1E when OVERRUN goes to 1 (R103). -/
def State.countOverrun (s : State) (q : Nat) : State :=
  let was := s.flag (R.SEQ_FAULT q) F.SEQ_FAULT_OVERRUN
  let s := (s.addFld (R.SEQ_CNT q) F.SEQ_CNT_OVR 1).setFlag (R.SEQ_FAULT q) F.SEQ_FAULT_OVERRUN true
  let s := s.setFld (R.SEQ_FAULT q) F.SEQ_FAULT_ADDR (s.seqPc q)
  if was then s else s.raise 0x1E q (s.seqPc q + 2 ^ 16 * s.fld (R.SEQ_CNT q) F.SEQ_CNT_OVR)

/-! ### HALT, JMP, LOOP, STL (R95, R101) -/

def execHalt (q : Fin 9) (s : State) : Out := .next (if s.seqReady q then s.setSeqState q stHalted else s)

def execJmp (q : Fin 9) (tgt : BitVec 9) (s : State) : Out :=
  .next (if s.seqReady q then s.seqGo q tgt.toNat else s)

/-- Loop counter `c` of sequencer `q`: active, count. -/
def State.loopCtr (s : State) (q c : Nat) : Bool × Nat := tabGet (dflt (false, 0)) (s.seq q).loops c

def State.setLoopCtr (s : State) (q c : Nat) (x : Bool × Nat) : State :=
  s.setSeq q { s.seq q with loops := tabSet (dflt (false, 0)) (s.seq q).loops c x }

/-- LOOP as the pseudocode of R101 gives it. -/
def State.doLoop (s : State) (q c tgt n : Nat) : State :=
  let x := s.loopCtr q c
  let cnt := (if x.1 then x.2 else n) - 1
  if 0 < cnt then (s.setLoopCtr q c (true, cnt)).seqGo q tgt
  else (s.setLoopCtr q c (false, 0)).seqNext q

def execLoop (q : Fin 9) (ctr : Fin 4) (tgt : BitVec 9) (n : Fin 257) (s : State) : Out :=
  .next (if s.seqReady q then s.doLoop q ctr tgt.toNat n else s)

def execStl (q : Fin 9) (n : BitVec 16) (t : Time) (s : State) : Out :=
  let s := s.atTime t
  .next (if !(s.seqReady q) then s
    else if n.toNat = 0 then s.seqNext q
    else s.seqWait q (.stl (s.now + n.toNat * (10 * us))))

def execStlWaitEnd (q : Fin 9) (t : Time) (s : State) : Out :=
  let s := s.atTime t
  .next (match (s.seq q).wait with
    | .stl due => if s.seqRuns q && due ≤ s.now then s.seqResume q else s
    | _ => s)

/-! ### SEL (R95, R96, R98, R107, R426) -/

/-- The sources at a SEL or an SWP: source and level as configured, on EX in the first half and on SN in the second. -/
def State.connect (s : State) (q n : Nat) (second : Bool) : State :=
  if usesCurrent (s.chanType n) then
    let exc := (s.chan n).exc
    let src := fldOf F.AFE_CHEXC_SRC exc != 0
    (s.setSeq q { s.seq q with src := src }).setSource q src (fldOf F.AFE_CHEXC_IEXC exc) (if second then 2 else 1)
  else s.openSources q

/-- The pairs of channel `n` at its SEL (R64, R68, R99): pending moves are applied; a released pair returns within its
bounds; a pair stored for the first half, which SEL enters, takes effect. -/
def State.selPairs (s : State) (n : Nat) (second : Bool) : State :=
  let s := s.movePair n second
  let x := s.chan n
  let h := x.half second
  let mn := fldOf F.AFE_RNG_MINP x.rng
  let mx := fldOf F.AFE_RNG_MAXP x.rng
  let h := match h.stored with
    | some k => if second then h else h.setPair k
    | none => h
  let h := if h.released && !h.fixed then
      (if h.pair < mn then h.setPair mn else if mx < h.pair then h.setPair mx else h)
    else h
  s.putHalf n second { h with released := false }

/-- SEL of position `pos` proceeds. -/
def State.doSel (s : State) (q sets pos : Nat) : State :=
  let home := s.seqBank q
  let n := posChan home pos
  let s := (s.takeCfg n).takeBxv q home
  let settle := if sets = 0 then (s.chan n).settleNs else sets * (10 * us)
  let s := s.setSeq q { s.seq q with lastSel := some s.now, settle := settle, cnv := none, cnvs := 0, refill := none, v1 := none }
  let s := (s.setFld (R.SEQ_PC q) F.SEQ_PC_POS pos).setFlag (R.SEQ_PC q) F.SEQ_PC_HALF false
  let s := s.connect q n false
  let s := if s.scanned n then (s.selPairs n false).selPairs n true else s
  (s.putStamp q s.now (s.now + settle)).seqResume q

/-- The 125 µs since the previous SEL of `q` have passed (R96). -/
def State.selSpaced (s : State) (q : Nat) : Bool :=
  match (s.seq q).lastSel with
  | some t => t + 125 * us ≤ s.now
  | none => true

/-- Position 16 exists only in the programs of B1, B3, B5 and B7 (R93): a SEL of it anywhere else never stands in a
loaded program (R111). -/
def execSel (q : Fin 9) (sets : BitVec 15) (pos : Fin 17) (t : Time) (s : State) : Out :=
  let s := s.atTime t
  if !(s.seqReady q) then .next s
  else if pos.val = 16 ∧ s.seqBank q % 2 = 0 then .refused (.neverLoaded "SEL")
  else if s.selSpaced q then .next (s.doSel q sets.toNat pos)
  else .next (s.seqWait q (.sel sets pos))

def execSelSpacingEnd (q : Fin 9) (t : Time) (s : State) : Out :=
  let s := s.atTime t
  .next (match (s.seq q).wait with
    | .sel sets pos => if s.seqRuns q && s.selSpaced q then s.doSel q sets.toNat pos else s
    | _ => s)

/-! ### EXC, SWP (R98, R102, R107, R426) -/

/-- The terminal that the connection gives the source in the half in use. -/
def State.ownTerm (s : State) (q n : Nat) : Nat := if s.threeWire n && s.seqHalf q then 2 else 1

/-- EXC on the selected channel: a source, level and terminal that are in place already change nothing. -/
def State.doExc (s : State) (q n : Nat) (src : Bool) (term iexc : Nat) : State :=
  if !(usesCurrent (s.chanType n)) then s
  else
    let level := if iexc = 0 then s.level q src else iexc
    let term := if term = 0 then s.ownTerm q n else if term = 3 then 0 else term
    if (s.seq q).src == src && s.level q src == level && s.term q src == term then s
    else
      let s := (s.setSeq q { s.seq q with src := src }).setSource q src level term
      s.moveStamp q (s.seq q).settle

/-- A level of 1–49 or 2,001–2,047 µA never stands in a loaded program (R111). -/
def execExc (q : Fin 9) (src : Bool) (term : BitVec 2) (iexc : BitVec 11) (t : Time) (s : State) : Out :=
  let s := s.atTime t
  if !(s.seqReady q) then .next s
  else if iexc.toNat ≠ 0 ∧ (iexc.toNat < 50 ∨ 2000 < iexc.toNat) then .refused (.neverLoaded "EXC")
  else .next ((match s.scannedChan q with
    | some n => s.doExc q n src term.toNat iexc.toNat
    | none => s).seqNext q)

/-- A pair stored for the half entered takes effect with the swap, and so does its pending move (R64, R99). -/
def State.enterPair (s : State) (n : Nat) (second : Bool) : State :=
  let s := s.movePair n second
  let h := (s.chan n).half second
  match h.stored with
  | some k => s.putHalf n second (h.setPair k)
  | none => s

/-- SWP on a 3-wire channel: the other half, its terminal and its pair; SET2 applies to the second half (R107). -/
def State.doSwp (s : State) (q n set2 : Nat) : State :=
  let second := !(s.seqHalf q)
  let s := s.setFlag (R.SEQ_PC q) F.SEQ_PC_HALF second
  let s := s.setSource q (s.seq q).src (s.level q (s.seq q).src) (if second then 2 else 1)
  let s := (s.enterPair n second).setSeq q { s.seq q with refill := none }
  s.moveStamp q (if second && set2 != 0 then set2 * (10 * us) else (s.seq q).settle)

def execSwp (q : Fin 9) (set2 : BitVec 16) (t : Time) (s : State) : Out :=
  let s := s.atTime t
  .next (if !(s.seqReady q) then s
    else (match s.scannedChan q with
      | some n => if s.threeWire n then s.doSwp q n set2.toNat else s
      | none => s).seqNext q)

/-! ### PAIR (R68, R99) -/

/-- The pair of half `second` of channel `n` becomes `k`: at once and with the stamp on the half in use, at the next
SWP into it otherwise. A pair set so has member 0 on its lower range (R62); one that was in place already does not move
the stamp (R107). -/
def State.changePair (s : State) (q n : Nat) (second : Bool) (k : Nat) : State :=
  let h := (s.chan n).half second
  if (s.threeWire n && second != s.seqHalf q) then
    s.putHalf n second { h with stored := some k, move := 0 }
  else (s.putHalf n second (h.setPair k)).applyIf (h.pair != k) (fun s => s.moveStamp q (s.seq q).settle)

/-- PAIR with half `second` on the selected channel: `f` gives the effect for a K the TYPE allows. -/
def State.doPair (s : State) (q : Nat) (second : Bool) (k : Nat) (f : State → Nat → State) : State :=
  match s.scannedChan q with
  | none => s
  | some n =>
    if second && !(s.threeWire n) then s
    else match pairSpan (s.chanType n) with
      | some (lo, hi) => if lo ≤ k && k ≤ hi then f s n else s.seqFault q F.SEQ_FAULT_PAIRERR 2
      | none => s

def execPairSet (q : Fin 9) (half : Bool) (k : Fin 5) (t : Time) (s : State) : Out :=
  let s := s.atTime t
  .next (if !(s.seqReady q) then s
    else (s.doPair q half k (fun s n =>
      let rng := (s.chan n).rng
      s.changePair q n half (Nat.min (Nat.max k (fldOf F.AFE_RNG_MINP rng)) (fldOf F.AFE_RNG_MAXP rng)))).seqNext q)

def execPairFix (q : Fin 9) (half : Bool) (k : Fin 5) (t : Time) (s : State) : Out :=
  let s := s.atTime t
  .next (if !(s.seqReady q) then s
    else (s.doPair q half k (fun s n =>
      let s := s.changePair q n half k
      s.putHalf n half { (s.chan n).half half with fixed := true, released := false })).seqNext q)

def execPairRelease (q : Fin 9) (half : Bool) (s : State) : Out :=
  .next (if !(s.seqReady q) then s
    else (match s.scannedChan q with
      | none => s
      | some n =>
        if half && !(s.threeWire n) then s
        else
          let h := (s.chan n).half half
          s.putHalf n half { h with fixed := false, released := h.released || h.fixed }).seqNext q)

/-! ### CNV and PUT (R71, R97, R98) -/

/-- CNV with K results; a pair move that a sample since the last SEL has decided takes effect first (R64). -/
def State.doCnv (s : State) (q n filt k : Nat) : State :=
  let s := s.movePair n (s.seqHalf q)
  s.setSeq q { s.seq q with cnv := some ⟨filt, k, s.now, 0, none⟩, cnvs := (s.seq q).cnvs + 1, refill := none }

def execCnv (q : Fin 9) (filt : Fin 7) (k : Fin 4097) (t : Time) (s : State) : Out :=
  let s := s.atTime t
  .next (if !(s.seqReady q) then s
    else (match s.scannedChan q with
      | some n => if k.val = 0 then s else s.doCnv q n filt k
      | none => s).seqNext q)

/-- A PUT takes result `r` (R74, R97, R98): the pair, V1 or the word, by the half in which the PUT stands. DESIGN CHOICE
(log 78): in the first half a NOT SCANNED result is kept as V1 and the word waits for the second half, where R115 gives
0xC000_0000. -/
def State.takeResult (s : State) (q n : Nat) (r : Res) : State :=
  let raw := reportedRaw ((s.chan n).half r.half2) r
  let m := s.measured q n r
  let many := match (s.seq q).cnv with | some c => 1 < c.k | none => false
  let s := s.putHalf n r.half2 (s.halfAfter n r)
  let s := if many && !r.ns then s.moveNow q n r.half2 else s
  if s.threeWire n then
    if !(s.seqHalf q) then s.setSeq q { s.seq q with v1 := some m }
    else match (s.seq q).v1 with
      | none => s.seqFault q F.SEQ_FAULT_NOHALF 1
      | some a => if a.ns || m.ns then s.dropWord n else s.deliver q n a m r raw true
  else if m.ns then s.dropWord n
  else s.deliver q n m m r raw false

/-- PUT: the result it takes, the wait, or NORES. -/
def State.doPut (s : State) (q n : Nat) (last : Bool) : State :=
  let none_ (s : State) : State := (s.seqFault q F.SEQ_FAULT_NORES 0).seqResume q
  match (s.seq q).cnv with
  | none => none_ s
  | some c =>
    let wait := if c.count < c.k then s.seqWait q (.put last) else none_ s
    match c.latest with
    | none => wait
    | some r =>
      if last && c.count < c.k then wait
      else
        let s := s.takeResult q n r
        (s.setSeq q { s.seq q with cnv := some { c with latest := none } }).seqResume q

def execPut (q : Fin 9) (last : Bool) (t : Time) (s : State) : Out :=
  let s := s.atTime t
  .next (if !(s.seqReady q) then s
    else match s.scannedChan q with
      | some n => s.doPut q n last
      | none => s.seqNext q)

/-- The next result of a running CNV is complete (R71): a newer result replaces one not taken; a waiting PUT takes it. -/
def State.result (s : State) (q n : Nat) (c : Cnv) (uLow uUp : Int) (atCompliance clamp : Bool) (excUv : Int) : State :=
  let from_ := c.start + c.count * filterInterval c.filt
  let r := s.makeRes q n from_ uLow uUp atCompliance clamp excUv
  let s := (s.showRaw q n r).setSeq q { s.seq q with cnv := some { c with count := c.count + 1, latest := some r } }
  match (s.seq q).wait with
  | .put last => if last && c.count + 1 < c.k then s else s.doPut q n last
  | _ => s

/-- The measured values are the operands: the voltages in pV at the two members, whether the source terminal reached
8.8 V, whether a clamp carried more than 50 µA in the window, and the excitation in µV. -/
def execConversionResult (q : Fin 9) (uLow uUp : Int) (atCompliance clamp : Bool) (excUv : Int) (t : Time) (s : State) : Out :=
  let s := s.atTime t
  .next (match s.scannedChan q, (s.seq q).cnv with
    | some n, some c =>
      if s.islandOn 4 && c.count < c.k && c.start + c.count * filterInterval c.filt + filterWindow c.filt ≤ s.now then
        s.result q n c uLow uUp atCompliance clamp excUv
      else s
    | _, _ => s)

/-! ### CHK (R47, R51, R52, R100) -/

/-- A CHK on channel `n` does something (R47). -/
def State.chkApplies (s : State) (n : Nat) : Bool :=
  let t := s.chanType n
  (5 ≤ t && t ≤ 11) || t == 14 || t == 15 || (1 ≤ t && t ≤ 4 && (s.chan n).wire == 2)

/-- The burnout current is applied to two leads in turn: the sense leads of a 4-wire Pt or RES channel. -/
def State.chkTwice (s : State) (n : Nat) : Bool := s.chanType n ≤ 4

/-- The time a CHK takes (R95). -/
def State.chkTime (s : State) (q n filt : Nat) : Nat :=
  let m := if s.chkTwice n then 2 else 1
  (m + 1) * filterWindow filt + m * (s.seq q).settle

/-- When a CHK that begins now changes the burnout current: switched on after the first conversion, moved after the
second where there is a third, switched off at its end (R100). -/
def State.chkChanges (s : State) (q n filt : Nat) : List Time :=
  let on := s.now + filterWindow filt
  let moved := on + (s.seq q).settle + filterWindow filt
  (if s.chkTwice n then [on, moved] else [on]) ++ [s.now + s.chkTime q n filt]

def execChk (q : Fin 9) (filt : Fin 7) (t : Time) (s : State) : Out :=
  let s := s.atTime t
  .next (if !(s.seqReady q) then s
    else match s.scannedChan q with
      | some n =>
        if s.chkApplies n then
          (s.setSeq q { s.seq q with cnv := none, refill := none }).seqWait q
            (.chk (s.chkChanges q n filt) (s.now + s.chkTime q n filt))
        else s.seqNext q
      | none => s.seqNext q)

/-- 50 mV in pV: a larger shift is an open input (R51). -/
def chkShift : Int := 50000000000

/-- The verdict: the live OPEN bit follows, unless a clamp conducted; readings in pV. The reading an E10 carries is the
raw code of the position that failed, on the channel's present pair (log 27). -/
def State.openVerdict (s : State) (q n : Nat) (ref first second : Int) (clamp : Bool) : State :=
  if clamp then s
  else
    let bad1 := chkShift < dist first ref
    let bad2 := s.chkTwice n && decide (chkShift < dist second ref)
    let h := (s.chan n).half (s.seqHalf q)
    let u := if bad1 then first else second
    let raw := if chooseUpper h.upper (rawCode u h.pair) then rawCode u (h.pair + 1) else rawCode u h.pair
    let s := s.setChan n { s.chan n with chkOpen := bad1 || bad2 }
    s.setLive n (setBitN (s.liveBits n) bitOpen ((s.chan n).smpOpen || bad1 || bad2)) (some raw)

def execChkVerdict (q : Fin 9) (ref first second : Int) (clamp : Bool) (t : Time) (s : State) : Out :=
  let s := s.atTime t
  .next (match (s.seq q).wait, s.scannedChan q with
    | .chk _ due, some n =>
      if s.seqRuns q && due ≤ s.now then ((s.openVerdict q n ref first second clamp).chkMarks q).seqResume q else s
    | _, _ => s)

/-! ### WAITT and scan timers (R103, R105) -/

/-- The pending bit of timer `i` at sequencer `q`. -/
def State.pend (s : State) (q i : Nat) : Bool := (s.fld (R.SEQ_TMR q) F.SEQ_TMR_PEND).testBit i

def State.setPend (s : State) (q i : Nat) (b : Bool) : State :=
  s.setFld (R.SEQ_TMR q) F.SEQ_TMR_PEND (setBitN (s.fld (R.SEQ_TMR q) F.SEQ_TMR_PEND) i b)

def execWaitt (q : Fin 9) (tmr : Fin 16) (s : State) : Out :=
  .next (if !(s.seqReady q) then s
    else if s.pend q tmr then (s.setPend q tmr false).seqNext q
    else s.seqWait q (.waitt tmr))

/-- The record of scan timer `i`. -/
def State.timer (s : State) (i : Nat) : TimerSt := tabGet (dflt timerReset) s.timers i

def State.setTimer (s : State) (i : Nat) (x : TimerSt) : State :=
  { s with timers := tabSet (dflt timerReset) s.timers i x }

/-- A tick of timer `i` reaches sequencer `q`. -/
def State.tickSeq (s : State) (q i : Nat) : State :=
  if (s.seq q).wait == .waitt i then s.seqResume q
  else if s.pend q i then s.countOverrun q
  else s.setPend q i true

/-- The sequencer that runs the program which has claimed timer `i`, if any: BS's for a LENT one (R103, R106, R114). -/
def State.tmrSeq (s : State) (i : Nat) : Option Nat :=
  ((List.range 8).find? (fun q => (s.fld (R.SEQ_TMR q) F.SEQ_TMR_CLAIM).testBit i)).map s.server

/-- Timer `i` ticks: the count, the claiming program, and a new PERIOD takes effect from this tick. -/
def State.tickTimer (s : State) (i : Nat) (due : Time) : State :=
  let x := s.timer i
  let per := x.newPeriod.getD x.period
  let s := s.setTimer i { x with period := per, newPeriod := none, next := if per = 0 then none else some (due + per * us) }
  let s := s.addFld (R.SEQ_STCNT i) F.SEQ_STCNT_TICKS 1
  match s.tmrSeq i with
  | some q => s.tickSeq q i
  | none => s

def execScanTimerTick (i : Fin 16) (t : Time) (s : State) : Out :=
  let s := s.atTime t
  .next (match (s.timer i).next with
    | some due => if s.islandOn 4 && due ≤ s.now then s.tickTimer i due else s
    | none => s)

/-- The earliest instant of the grid epoch + PHASE + m × PERIOD after now, µs values (R105). -/
def State.gridNext (s : State) (per phase : Nat) : Time :=
  let base := s.epoch + phase * us
  if s.now < base then base else base + ((s.now - base) / (per * us) + 1) * (per * us)

/-- A write of PERIOD (R105, R116): DENIED, RANGE, STATE for 0 while claimed. -/
def State.writePeriod (s : State) (i v : Nat) : State :=
  if !(s.powered 4) then s.answer .busy
  else if !s.lockOpen then s.closedAnswer (R.SEQ_STPER i) (BitVec.ofNat 32 v)
  else if (1 ≤ v ∧ v ≤ 124) ∨ 100000000 < v then s.answer .range
  else if v = 0 ∧ s.owner (48 + i) ≠ 0 then s.answer .state
  else
    let x := s.timer i
    let s := s.setFld (R.SEQ_STPER i) F.SEQ_STPER_PERIOD v
    (match x.next with
      | some _ => s.setTimer i { x with newPeriod := some v }
      | none => if v = 0 then s
        else s.setTimer i { x with period := v, newPeriod := none, next := some (s.gridNext v x.phase) }).noteLk.answer .ok

def execScanTimerPeriodWrite (_p : Port) (i : Fin 16) (v : BitVec 27) (t : Time) (s : State) : Out :=
  .next ((s.atTime t).writePeriod i v.toNat)

/-- A write of PHASE (R105, R116): RANGE where it is not below PERIOD; in force at the next epoch. -/
def State.writePhase (s : State) (i v : Nat) : State :=
  if !(s.powered 4) then s.answer .busy
  else if !s.lockOpen then s.closedAnswer (R.SEQ_STPH i) (BitVec.ofNat 32 v)
  else if s.fld (R.SEQ_STPER i) F.SEQ_STPER_PERIOD ≤ v then s.answer .range
  else (s.setFld (R.SEQ_STPH i) F.SEQ_STPH_PHASE v).noteLk.answer .ok

def execScanTimerPhaseWrite (_p : Port) (i : Fin 16) (v : BitVec 27) (t : Time) (s : State) : Out :=
  .next ((s.atTime t).writePhase i v.toNat)

/-! ### SYNC (R104) -/

/-- A MASK that leaves out the program's own bank never stands in a loaded program (R111). -/
def execSync (q : Fin 9) (tmo : BitVec 8) (id : BitVec 3) (mask : BitVec 8) (t : Time) (s : State) : Out :=
  let s := s.atTime t
  if !(s.seqReady q) then .next s
  else if !(mask.getLsbD (s.seqBank q)) then .refused (.neverLoaded "SYNC")
  else .next (s.seqWait q (.sync id mask (s.now + (tmo.toNat + 1) * ms)))

/-- Sequencer `q` waits at a SYNC with ID `id`. -/
def State.atSync (s : State) (q : Nat) (id : BitVec 3) : Bool :=
  s.seqRuns q && (match (s.seq q).wait with | .sync i _ _ => i == id | _ => false)

/-- Every program named in the MASK of waiting sequencer `q` waits with ID `id`. -/
def State.syncMet (s : State) (q : Nat) (id : BitVec 3) : Bool :=
  match (s.seq q).wait with
  | .sync _ m _ => s.atSync q id && (List.range 8).all (fun b => !(m.getLsbD b) || s.atSync (s.server b) id)
  | _ => false

def execSyncRelease (id : BitVec 3) (s : State) : Out :=
  .next (foldS State.seqResume s ((List.range 9).filter (fun q => s.syncMet q id)))

def execSyncTimeout (q : Fin 9) (t : Time) (s : State) : Out :=
  let s := s.atTime t
  .next (match (s.seq q).wait with
    | .sync _ _ due => if s.seqRuns q && due ≤ s.now then (s.countSyncTo q).seqResume q else s
    | _ => s)

/-! ### Load check, START, STOP (R106, R111, R112) -/

/-- The word at address `a` of the store of sequencer `q`. -/
def State.prog (s : State) (q a : Nat) : Nat := s.fld (R.SEQ_PROG q a) F.SEQ_PROG_INSTR

/-- An instruction may stand in the program of bank `b` (R111): position 16 only in one of an odd bank, a level a source
has, a MASK that names the own bank. -/
def fitsBank (b : Nat) : Instr → Bool
  | .sel _ _ pos _ => pos.val != 16 || b % 2 == 1
  | .exc _ _ _ iexc _ => iexc.toNat == 0 || (50 ≤ iexc.toNat && iexc.toNat ≤ 2000)
  | .sync _ _ _ mask _ => mask.getLsbD b
  | _ => true

/-- The status for which a word that is no instruction is refused: LENGTH where only the K of a CNV or the N of a LOOP is
too large, RANGE otherwise (R111). -/
def wordStatus (w : Nat) : Status :=
  let op := bitsOf w 20 4
  if op == 11 || (op == 5 && bitsOf w 17 3 != 7 && bitsOf w 13 4 == 0) then .length else .range

/-- The status for which word `w` is refused in the program of bank `b`, without the checks of its timer (R94, R111). -/
def wordFault (b w : Nat) : Option Status :=
  match decodeProg 0 0 (BitVec.ofNat 24 w) with
  | some i => if fitsBank b i then none else some .range
  | none => some (wordStatus w)

/-- The owner code of the program of bank `b` (R253). -/
def seqOwner (b : Nat) : Nat := 0x10 + b

/-- The fault of address `a` of sequencer `q`: the word, then the timer of a WAITT (R111). -/
def State.addrFault (s : State) (q a : Nat) : Option Status :=
  let w := s.prog q a
  match wordFault q w with
  | some r => some r
  | none =>
    if bitsOf w 20 4 ≠ 9 then none
    else if s.fld (R.SEQ_STPER (w % 16)) F.SEQ_STPER_PERIOD = 0 then some .range
    else if s.claimFree (48 + w % 16) (seqOwner q) then none
    else some .claim

/-- The addresses of the store that hold a word other than HALT, ascending. -/
def State.progAddrs (s : State) (q : Nat) : List Nat := (listed s.regs (R.SEQ_PROG q 0) 4 512).map (fun e => e.1)

/-- The first faulting address and its status. -/
def State.firstFault (s : State) (q : Nat) : Option (Nat × Status) :=
  (s.progAddrs q).findSome? (fun a => (s.addrFault q a).map (fun r => (a, r)))

/-- The timers the program names. -/
def State.progTimers (s : State) (q : Nat) : List Nat :=
  (List.range 16).filter (fun i => (s.progAddrs q).any (fun a => s.prog q a == 0x900000 + i))

/-- A program is refused: STOPPED, its channels NOT SCANNED, REFUSED, E1B; a claim refusal also E4C (R111, R253). -/
def State.refuseProg (s : State) (q a : Nat) (r : Status) : State :=
  let s := if r = .claim then s.refuseClaim (48 + s.prog q a % 16) (seqOwner q) else s
  let s := foldS State.dropWord (s.setSeqState q stStopped) (bankChans q)
  let s := (s.setFlag (R.SEQ_FAULT q) F.SEQ_FAULT_REFUSED true).setFld (R.SEQ_FAULT q) F.SEQ_FAULT_ADDR a
  (s.setFld (R.SEQ_FAULT q) F.SEQ_FAULT_STAT r.code).raise 0x1B q (a + 2 ^ 16 * r.code)

/-- Check the store of sequencer `q` and start it at 0x000, or refuse it (R111, R112): the status, and the state. DESIGN
CHOICE (log 78): the selected position and the source's connection stay as they are, in the first half. -/
def State.startSeq (s : State) (q : Nat) : Status × State :=
  match s.firstFault q with
  | some (a, r) => (r, s.refuseProg q a r)
  | none =>
    let ts := s.progTimers q
    let s := foldS (fun s i => s.setOwner (48 + i) (seqOwner q)) s ts
    let s := s.setSeq q { seqReset with lastSel := (s.seq q).lastSel, stamp := (s.seq q).stamp, settledAt := (s.seq q).settledAt }
    let s := (s.setFld (R.SEQ_TMR q) F.SEQ_TMR_PEND 0).setFld (R.SEQ_TMR q) F.SEQ_TMR_CLAIM (ts.foldl (fun m i => m + 2 ^ i) 0)
    (.ok, (((s.setSeqState q stRunning).seqWait q .none).seqGo q 0).setFlag (R.SEQ_PC q) F.SEQ_PC_HALF false)

/-- STOP: the running instruction and CNV end, the claims are released, the channels read NOT SCANNED. -/
def State.stopSeq (s : State) (q : Nat) : State :=
  let s := (s.setSeq q { s.seq q with cnv := none, refill := none, v1 := none }).seqWait q .none
  let s := (s.releaseClaims (seqOwner q)).wr (R.SEQ_TMR q) 0
  foldS State.dropWord (s.setSeqState q stStopped) (bankChans q)

/-- SEQ_CTL.CMD of sequencer `q` (R112, R116): stop. -/
def State.seqStopOp (s : State) (q : Nat) : State :=
  if !(s.powered 4) then s.answer .busy
  else if !s.lockOpen then s.answer .denied
  else if q = 8 ∨ s.seqState q = stLent then s.answer .state
  else (s.stopSeq q).noteLk.answer .ok

/-- SEQ_CTL.CMD of sequencer `q`: start. -/
def State.seqStartOp (s : State) (q : Nat) : State :=
  if !(s.powered 4) then s.answer .busy
  else if !s.lockOpen then s.answer .denied
  else if q = 8 ∨ s.seqState q ≠ stStopped then s.answer .state
  else
    let r := s.startSeq q
    r.2.noteLk.answer r.1

/-- A write of word `a` of the program store of sequencer `q`. -/
def State.seqStoreOp (s : State) (q a : Nat) (w : Word) : State :=
  if !(s.powered 4) then s.answer .busy
  else if q = 8 then s.answer .denied
  else if !s.lockOpen then s.closedAnswer (R.SEQ_PROG q a) w
  else if s.seqState q ≠ stStopped then s.answer .state
  else
    let s := s.setFld (R.SEQ_PROG q a) F.SEQ_PROG_INSTR (w.toNat % 2 ^ 24)
    (s.setFlag (R.SEQ_CTL q) F.SEQ_CTL_EDITED true).noteLk.answer .ok

def execSeqStop (_p : Port) (q : Fin 9) (t : Time) (s : State) : Out := .next ((s.atTime t).seqStopOp q)
def execSeqStart (_p : Port) (q : Fin 9) (t : Time) (s : State) : Out := .next ((s.atTime t).seqStartOp q)
def execSeqStoreWrite (_p : Port) (q : Fin 9) (a : BitVec 9) (w : Word) (t : Time) (s : State) : Out :=
  .next ((s.atTime t).seqStoreOp q a.toNat w)

/-! ### Start of all sequencers (R105, R106, R111, R115) -/

/-- Timer `i` at a new epoch. -/
def State.startTimer (s : State) (i : Nat) : State :=
  let per := s.fld (R.SEQ_STPER i) F.SEQ_STPER_PERIOD
  let ph := s.fld (R.SEQ_STPH i) F.SEQ_STPH_PHASE
  s.setTimer i ⟨if per = 0 then none else some (s.epoch + ph * us), none, per, ph⟩

/-- The sequencers start from a new epoch with the programs loaded, in ascending bank order, each with the timers it
claims anew (R106, R254); BS is idle. -/
def State.startSeqs (s : State) : State :=
  let s := (s.setEpoch s.now).dropSeqs
  let s := foldS State.startTimer s (List.range 16)
  let s := foldS (fun s q => s.releaseClaims (seqOwner q)) s (List.range 8)
  foldS (fun s q => (s.startSeq q).2) (s.setSeqState 8 stStopped) (List.range 8)

end Sys2Proof.Machine
end

