-- ==== Sys2Proof/Machine/Rotation.lean ====
section
/-! DEFINITION. The spare bank and the rotating bank test (R79–R88, R114). -/

namespace Sys2Proof.Machine

/-- A field of AFE_ROTST. -/
def State.setRot (s : State) (f : Fld) (v : Nat) : State := s.setFld R.AFE_ROTST f v

/-- The FAILED bit of bank `b`. -/
def State.failed (s : State) (b : Nat) : Bool := (s.fld R.AFE_ROTST F.AFE_ROTST_FAILED).testBit b

def State.setFailed (s : State) (b : Nat) (v : Bool) : State :=
  s.setRot F.AFE_ROTST_FAILED (setBitN (s.fld R.AFE_ROTST F.AFE_ROTST_FAILED) b v)

/-- BSSTATE: 0 idle, 1 serving a bank under test, 2 serving a failed bank, 3 BS failed. -/
def State.bsState (s : State) : Nat := s.fld R.AFE_ROTST F.AFE_ROTST_BSSTATE

/-- STEP of R81; 0 idle. -/
def State.rotStep (s : State) : Nat := s.fld R.AFE_ROTST F.AFE_ROTST_STEP

def State.setWant (s : State) (w : Option Nat) : State := s.setRotating { s.rot with want := w }

/-- The claim on BS (R79, R253): resource 64, owner 0x20. -/
def bsResource : Nat := 64
def rotOwner : Nat := 0x20

/-- Rotation is enabled by an INTERVAL other than 0: it takes the claim on the spare bank, or fails with status CLAIM;
INTERVAL 0 stops it, and it holds no claim (R79, R88, R254). -/
def State.enableRotation (s : State) : Status × State :=
  let r := s.claimAll [bsResource] rotOwner
  if s.fld R.AFE_ROTCTL F.AFE_ROTCTL_INTERVAL = 0 then
    (.ok, (s.releaseClaims rotOwner).setRotating { s.rot with enabled := false })
  else if r.1 then (.ok, r.2.setRotating { r.2.rot with enabled := true, lastBack := r.2.now })
  else (.claim, r.2.setRotating { r.2.rot with enabled := false })

/-- A test that needs no hand-over begins; while PD6 or PD7 is off it waits for them (R85). -/
def State.beginTest (s : State) : State :=
  if s.powered 6 && s.powered 7 then (s.setRotating { s.rot with late := false }).setRot F.AFE_ROTST_STEP firstStep
  else s.setRotating { s.rot with late := true }

/-- Bank `b`'s test is due; B0–B7 wait for their next SEL, BS tests itself while idle (R79, R83). DESIGN CHOICE (log 78):
it takes the place of a test that still waits. -/
def State.dueTest (s : State) (b : Nat) : State :=
  if b < 8 then (s.setRotating { s.rot with late := false }).setWant (some b) else (s.setWant none).beginTest

/-- NEXT moves on in the order B0–B7, BS (R79). -/
def State.advanceNext (s : State) (b : Nat) : State := s.setRot F.AFE_ROTST_NEXT (if b = 8 then 0 else b + 1)

def execRotationIntervalExpiry (t : Time) (s : State) : Out :=
  let s := s.atTime t
  let interval := s.fld R.AFE_ROTCTL F.AFE_ROTCTL_INTERVAL
  let next := s.fld R.AFE_ROTST F.AFE_ROTST_NEXT
  .next (if s.afeOn && s.rot.enabled && s.bsIdle && s.rot.want.isNone && !s.rot.late && interval != 0 && s.powered 6 && s.powered 7 &&
      s.rot.lastBack + interval * sec ≤ s.now then (s.dueTest next).advanceNext next
    else s)

/-! ### Hand-over and give-back (R80, R114) -/

/-- A channel of bank `b` has a pair fixed by its program (R85). -/
def State.bankFixed (s : State) (b : Nat) : Bool := (bankChans b).any (fun n => s.flag (R.AFE_RNG n) F.AFE_RNG_FIXED)

/-- Sequencer `q` stands between the PUT of one channel and the next SEL, which may be its next instruction or lie behind
a wait at WAITT or SYNC: no result of the channel is still to be taken, and none of its second half to be made (R80,
R114). -/
def State.atSel (s : State) (q : Nat) : Bool :=
  let x := s.seq q
  let mayWait : Bool := match x.wait with
    | .none => true
    | .waitt _ => true
    | .sync _ _ _ => true
    | _ => false
  let done : Bool := match s.seqChan q with
    | none => true
    | some n => x.cnvs != 0 && !(s.threeWire n && !(s.seqHalf q)) && (match x.cnv with
      | none => true
      | some c => c.count == c.k && c.latest.isNone)
  s.seqRuns q && !(s.sendHeld q) && ((x.wait == .none && bitsOf (s.prog q (s.seqPc q)) 20 4 == 1) || (mayWait && done))

/-- Sequencer `dst` takes the state of `src`: position, loop counters, pending bits, V1, last SEL and a wait. -/
def State.copySeq (s : State) (dst src : Nat) : State :=
  let x := { s.seq src with cnv := none, refill := none }
  let s := (s.setSeq dst x).wr (R.SEQ_PC dst) (s.rd (R.SEQ_PC src))
  let s := s.setFld (R.SEQ_TMR dst) F.SEQ_TMR_PEND (s.fld (R.SEQ_TMR src) F.SEQ_TMR_PEND)
  let s := s.wrAll [(R.SEQ_STAMP dst, s.rd (R.SEQ_STAMP src)), (R.SEQ_SETTLED dst, s.rd (R.SEQ_SETTLED src))]
  s.setSeqState dst (s.seqState src)

/-- An address of the BS store. -/
def inBsStore (a : Nat) : Bool := R.SEQ_PROG 8 0 ≤ a && a < R.SEQ_PROG 8 512

/-- The BS store shows the copy of the program of bank `b`. -/
def State.copyProg (s : State) (b : Nat) : State :=
  let words := (listed s.regs (R.SEQ_PROG b 0) 4 512).map (fun e => (R.SEQ_PROG 8 e.1, e.2))
  s.setRegs (tabSetAll resetWord (tabKeep (fun a => !(inBsStore a)) s.regs) words)

/-- The held channels of bank `b` move to another supply now (R80 step 4). -/
def State.moveHeld (s : State) (b : Nat) : State := s.setBank b { s.bank b with movedAt := some s.now }

/-- Bank `dst` sets its sources to the levels and terminals of those of `src` (R80 step 1). -/
def State.copySources (s : State) (dst src : Nat) : State :=
  let x := s.bank src
  (s.setBank dst { s.bank dst with levelA := x.levelA, levelB := x.levelB, termA := x.termA, termB := x.termB }).showCurrents
    dst

/-- Hand bank `b` over to BS (R80): sources and supply set as the bank's, program state copied, the bank LENT. -/
def State.handOver (s : State) (b state : Nat) : State :=
  let s := (s.setBank 8 { s.bank 8 with disRun := 0 }).copySources 8 b
  let s := (s.takeBxv 8 b).copyProg b
  let s := ((s.copySeq 8 b).setSeqState b stLent).moveHeld b
  (s.setRot F.AFE_ROTST_SERVED b).setRot F.AFE_ROTST_BSSTATE state

/-- At the bank's next SEL, once nothing postpones the test (R80, R85). -/
def execBsHandover (t : Time) (s : State) : Out :=
  let s := s.atTime t
  .next (match s.rot.want with
    | some b =>
      if s.afeOn && s.bsIdle && s.atSel b && s.powered 6 && s.powered 7 && !(s.bankFixed b) then
        ((s.setWant none).handOver b 1).setRot F.AFE_ROTST_STEP firstStep
      else s
    | none => s)

/-- The bank that BS serves takes its channels back, by the same steps in reverse (R80, R114). -/
def State.giveBack (s : State) : State :=
  let b := s.served
  let s := ((s.copySources b 8).copySeq b 8).moveHeld b
  let s := ((s.setSeqState 8 stStopped).openSources 8).setFld (R.AFE_BKCFG 8) F.AFE_BKCFG_BXV 0
  let s := (s.setRot F.AFE_ROTST_SERVED 0xF).setRot F.AFE_ROTST_BSSTATE 0
  (s.setRot F.AFE_ROTST_STEP 0).setRotating { s.rot with backDue := false, lastBack := s.now }

def execBsGiveBack (t : Time) (s : State) : Out :=
  let s := s.atTime t
  .next (if s.afeOn && s.rot.backDue && s.served < 8 && s.atSel 8 then s.giveBack else s)

/-! ### The outcome of a test (R81–R84) -/

/-- The coefficient registers of bank `b`. -/
def coefRegs (b : Nat) : List Nat :=
  ((List.range 12).map (fun i => [R.AFE_CALOFF b i, R.AFE_CALGAIN b i])).flatten

/-- The new coefficients of bank `b`, also in the calibration region of MRAM (R81 step 9). -/
def State.putCoefs (s : State) (b : Nat) (r : TestResult) : State :=
  let s := foldS (fun s c => (s.setFld (R.AFE_CALOFF b (2 * (c.1 % 6) + c.2.1 % 2)) F.AFE_CALOFF_OFF c.2.2.1.toNat).wr
    (R.AFE_CALGAIN b (2 * (c.1 % 6) + c.2.1 % 2)) c.2.2.2) s r.coefs
  let s := s.toMirror (coefRegs b)
  (s.setBank b { s.bank b with fitA := some r.fitA, fitB := some r.fitB, suspect := false }).showCurrents b

/-- Gain and offset of coefficient `i` of bank `b`. -/
def State.coefOf (s : State) (b i : Nat) : Nat × Int :=
  (s.fld (R.AFE_CALGAIN b i) F.AFE_CALGAIN_GAIN, s.sfld (R.AFE_CALOFF b i) F.AFE_CALOFF_OFF)

/-- What a test has changed of a coefficient, from `x` to `y`: gain, offset, and whether it drifts: more than 0.05 % of the
gain before, or more than 0.01 % of FS, which is 2^23 raw codes, in offset (R81). -/
def coefChange (x y : Nat × Int) : Nat × Nat × Bool :=
  let g := ((y.1 : Int) - x.1).natAbs
  let o := (y.2 - x.2).natAbs
  (g, o, x.1 < 2000 * g || 8388608 < 10000 * o)

/-- E1A of bank `b` after its coefficients were `old`: the largest change of gain and that of offset, with DRIFT (R81). The
manual gives their places in the data field none: gain in bytes 0–3, offset in bytes 4–7 (log 78). -/
def State.notePass (s : State) (b : Nat) (old : List (Nat × Int)) : State :=
  let ds := (List.range 12).map (fun i => coefChange (old.getD i (0, 0)) (s.coefOf b i))
  s.raiseF 0x1A b (data2 (ds.foldl (fun m d => Nat.max m d.1) 0) (ds.foldl (fun m d => Nat.max m d.2.1) 0))
    (ds.any (fun d => d.2.2))

/-- A passed test of bank `b`: coefficients, AFE_ROTLAST, E1A with its DRIFT flag, the bank no longer failed. -/
def State.passTest (s : State) (b : Nat) (r : TestResult) : State :=
  let old := (List.range 12).map (s.coefOf b)
  (((s.putCoefs b r).setFailed b false).wr (R.AFE_ROTLAST b) (BitVec.ofNat 32 s.opsec)).notePass b old

/-- A failed test of bank `b`: FAILED, kept across restarts, and E17; rotation stops, with E19 when it does. -/
def State.failTest (s : State) (b state : Nat) (r : TestResult) : State :=
  let was := s.bsState
  let s := (s.setFailed b true).raise 0x17 b r.failData.toNat
  let s := (s.setRot F.AFE_ROTST_STEP 0).setRot F.AFE_ROTST_BSSTATE state
  if was ≤ 1 then s.raise 0x19 0 0 else s

def execRotatingTestComplete (r : TestResult) (t : Time) (s : State) : Out :=
  let s := s.atTime t
  .next (if s.afeOn && s.served < 8 && s.rotStep != 0 && !s.rot.backDue then
      let b := s.served
      if r.failStep = 0 then
        let s := (s.passTest b r).setRot F.AFE_ROTST_STEP 10
        s.setRotating { s.rot with backDue := true }
      else s.failTest b 2 r
    else s)

def execBsSelfTestComplete (r : TestResult) (t : Time) (s : State) : Out :=
  let s := s.atTime t
  .next (if s.afeOn && s.served == 0xF && s.rotStep != 0 then
      if r.failStep = 0 then
        let s := ((s.passTest 8 r).setRot F.AFE_ROTST_STEP 0).setRot F.AFE_ROTST_BSSTATE 0
        s.setRotating { s.rot with lastBack := s.now }
      else s.failTest 8 3 r
    else s)

/-- A cycle of domain `d`, that of BS (PD7) or of the bank under test, abandons the test; nothing is marked failed
(R85). -/
def State.abandonTest (s : State) (d : Nat) : State :=
  let hit := s.rotStep != 0 && (d == 7 || (s.served < 8 && bankDomain s.served == d))
  if !hit then s
  else (s.setRot F.AFE_ROTST_STEP 0).setRotating { s.rot with backDue := false, lastBack := s.now }

/-- At the end of the cycle the channels of an abandoned test return to their own bank, and a test that was put off for the
cycle begins (R85). -/
def State.returnChannels (s : State) : State :=
  let s := if s.served < 8 && s.bsState == 1 && s.rotStep == 0 then s.giveBack else s
  if s.rot.late then s.beginTest else s

/-- A FAILED bank is served by BS from the first scan (R82); one that BS cannot serve, because it has failed itself or
serves another, is suspect (R84). -/
def State.serveFailed (s : State) : State :=
  let bad := (List.range 8).filter s.failed
  let suspects (s : State) (l : List Nat) : State := foldS (fun s b => s.setBank b { s.bank b with suspect := true }) s l
  if s.failed 8 then suspects (s.setRot F.AFE_ROTST_BSSTATE 3) bad
  else match bad with
    | [] => s
    | b :: l => suspects (s.handOver b 2) l

/-! ### AFE_ROTCTL (R86, R88) -/

/-- FORCE: RANGE for 10–15, BUSY unless BS is idle, else bank b is tested at its next SEL. DESIGN CHOICE (log 78): while
another test still waits, BS is idle, and the new one takes its place. -/
def State.forceTest (s : State) (v : Nat) : State :=
  if !s.afeOn then s.answer .busy
  else if v = 0 then s.answer .ok
  else if 9 < v then s.answer .range
  else if !s.bsIdle then s.answer .busy
  else (s.dueTest (v - 1)).answer .ok

def execRotctlForce (_p : Port) (v : BitVec 4) (s : State) : Out :=
  .next (s.forceTest v.toNat)

/-- RETEST: the failed bank that BS serves, or BS itself, goes through its test at once, or when PD6 and PD7 are back (R85,
R86). -/
def State.retest (s : State) (mask : Nat) : State :=
  let b := if s.bsState == 2 then s.served else 8
  let can := (s.bsState == 2 || s.bsState == 3) && s.rotStep == 0 && s.failed b && mask.testBit b
  if !s.afeOn then s.answer .busy else (if can then s.beginTest else s).answer .ok

def execRotctlRetest (_p : Port) (mask : BitVec 9) (s : State) : Out :=
  .next (s.retest mask.toNat)

/-- A new INTERVAL: 0 stops rotation and releases the spare bank; the first that is not 0 asks for it, and a claim that is
held elsewhere refuses the write (R79, R88). -/
def State.takeInterval (s : State) (v : Nat) : State :=
  let x := s.setFld R.AFE_ROTCTL F.AFE_ROTCTL_INTERVAL v
  if v != 0 && s.rot.enabled then x.noteLk.answer .ok
  else
    let r := x.enableRotation
    if r.1 = .ok then r.2.noteLk.answer .ok
    else (r.2.setFld R.AFE_ROTCTL F.AFE_ROTCTL_INTERVAL (s.fld R.AFE_ROTCTL F.AFE_ROTCTL_INTERVAL)).answer r.1

/-- INTERVAL: DENIED while the lock is closed, RANGE for 1–59. -/
def State.setInterval (s : State) (v : Nat) : State :=
  if !s.afeOn then s.answer .busy
  else if !s.lockOpen then s.answer (if s.fld R.AFE_ROTCTL F.AFE_ROTCTL_INTERVAL = v then .ok else .denied)
  else if 1 ≤ v ∧ v ≤ 59 then s.answer .range
  else s.takeInterval v

def execRotctlInterval (_p : Port) (v : BitVec 16) (t : Time) (s : State) : Out :=
  .next ((s.atTime t).setInterval v.toNat)

end Sys2Proof.Machine
end

