-- ==== Sys2Proof/Machine/Tables.lean ====
section
/-! DEFINITION. What the executing image loads into the registers of PD4 and PD5, at a start and after a cycle of the
domain, with the checks and claims of the load (R55, R81, R119, R121, R129, R137, R158, R181, R234–R236, R241, R254,
R256). Where a table lies in an image is not stated (log 4): an image's tables are words for register addresses. -/

namespace Sys2Proof.Machine

/-! ### Words for registers -/

/-- The bits that load of a LIM register (R137). -/
def limMask (a : Nat) : Word :=
  if inRow a (R.LIM_ENT0 0) 4 8192 then 0xFFFFFFFF
  else if inRow a (R.LIM_CHIDX 0) 4 256 then fldMask F.LIM_CHIDX_COUNT ||| fldMask F.LIM_CHIDX_FIRST
  else if inRow a (R.LIM_RSCFG 0) 16 64 then 0xC0FFFFFF
  else if inRow a (R.LIM_RSTOL 0) 16 64 then 0x00FFFFFF
  else if inRow a (R.LIM_RSAGE 0) 16 64 then 0x0000FFFF
  else if inRow a (R.LIM_INHDLY 0) 4 64 then 0x0000FFFF
  else 0

/-- The bits that load of a TRP register (R158, R162). -/
def trpMask (a : Nat) : Word :=
  if inRow a (R.TRP_INCFG 0) 4 64 then 0x000003FF
  else if inRow a (R.TRP_ACCFG 0) 16 12 then 0x8000037F
  else if inRow a (R.TRP_ACTH 0) 16 12 then 0xFFFFFFFF
  else if inRow a (R.TRP_ACHYS 0) 16 12 then 0x000000FF
  else if inRow a (R.TRP_FCTH 0) 16 4 then 0xFFFFFFFF
  else if inRow a (R.TRP_FCHYS 0) 16 4 then 0x00FFFFFF
  else if inRow a (R.TRP_OCFG 0) 32 56 then 0xE000003F
  else if inRow a (R.TRP_LCFG 0) 64 16 then 0xE0000000
  else if R.TRP_TDEF 0 0 ≤ a && a < 0x40084000 && standsAt a then 0xFFFFFFFF
  else 0

/-- The bits that load of a DIO register (R256, R257); EDGE only of DI00–DI15. -/
def dioLoadMask (a : Nat) : Word :=
  if inRow a (R.DIO_DICFG 0) 4 16 then 0x0003F7FF
  else if inRow a (R.DIO_DICFG 16) 4 32 then 0x0000F7FF
  else if a == R.DIO_FGATE then 0x0000000F
  else if inRow a (R.DIO_DOCFG 0) 4 48 then 0xFE00000F
  else 0

/-- The bits that load of an ALM register (R181, R184). -/
def almMask (a : Nat) : Word :=
  let o := a - R.ALM_PCFG 0
  if a == R.ALM_WATCH then 0x0000F13F
  else if inRow a (R.ALM_ENG 0) 4 8 then 0x80003F3F
  else if inRow a (R.ALM_GCFG 0) 16 256 then 0x800000F3
  else if R.ALM_PCFG 0 ≤ a && o < 0x800 && o % 4 == 0 then
    (match o % 0x80 with
     | 0x00 => 0xF0000000
     | 0x0C => 0xBFFFFFFF
     | _ =>
       if o % 0x80 < 0x20 || 0x60 ≤ o % 0x80 then 0
       else match o % 0x10 with
         | 0x0 => 0xFC0007FF
         | 0x4 => 0xFFFFFFFF
         | 0x8 => 0x0000FFFF
         | _ => 0xBFBFBFBF)
  else 0

/-- The bits of the register at `a` that the executing image loads (R55, R111, R137, R158, R181, R256, R323, R391); the
lead resistances come from MRAM (R55). -/
def imageMask (a : Nat) : Word :=
  if !(standsAt a) then 0
  else match blockNo a with
    | 0x4004 => if inRow a (R.AFE_CHLEAD 0) 16 132 || a == R.AFE_BKCFG 8 then 0 else lkMask a
    | 0x4005 => if R.SEQ_STPER 0 ≤ a then lkMask a else 0
    | 0x4006 => limMask a
    | 0x4007 => lkMask a
    | 0x4008 => trpMask a
    | 0x4009 => dioLoadMask a
    | 0x400A => almMask a
    | 0x400D => if R.REC_CODECFG 0 ≤ a && a < 0x400D0500 then lkMask a else 0
    | 0x4011 => if a == R.RWN_CTL then 0 else lkMask a
    | _ => 0

/-- A word of a table reaches its register. -/
def loadInto (m : RegFile) (e : Nat × Word) : RegFile :=
  let k := imageMask e.1
  if k = 0 then m else tabSet resetWord m e.1 ((tabGet resetWord m e.1 &&& ~~~k) ||| (e.2 &&& k))

/-- Load the tables of the blocks `bs` from the executing image. -/
def State.loadBlocks (s : State) (bs : List Nat) : State :=
  s.setRegs ((s.img.exec.tables.filter (fun e => bs.contains (blockNo e.1))).foldl loadInto s.regs)

/-- The state whose registers hold nothing but the tables `ts`: what a check of an image looks at. -/
def State.onlyTables (s : State) (ts : List (Nat × Word)) : State := s.setRegs (ts.foldl loadInto [])

/-! ### The check of the trip program (R158) -/

/-- The offset of a TRP register. -/
def trpOffset (a : Nat) : Nat := a % 0x10000

/-- Signal `n` stands as a literal in some term. -/
def State.usesSignal (s : State) (n : Nat) : Bool :=
  s.literals.any (fun e => e.1 % 8 == n / 16 && bitsOf e.2.toNat (2 * (n % 16)) 2 != 0)

/-- A comparator may name channel `n` (R146). -/
def State.acChannel (s : State) (n : Nat) : Bool :=
  let t := s.fld (R.AFE_CHCFG n) F.AFE_CHCFG_TYPE
  t == 10 || t == 12 || t == 13 || (t == 15 && s.flag (R.AFE_CHEXC n) F.AFE_CHEXC_BXHOLD)

/-- The addresses of the registers that make the trip program of the registers invalid. -/
def State.tripFaults (s : State) : List Nat :=
  ((List.range 64).filter (fun n => s.fld (R.TRP_INCFG n) F.TRP_INCFG_SRC == 3)).map R.TRP_INCFG ++
  ((List.range 12).filter (fun c => s.flag (R.TRP_ACCFG c) F.TRP_ACCFG_EN &&
    !(s.acChannel (s.fld (R.TRP_ACCFG c) F.TRP_ACCFG_CHAN)))).map R.TRP_ACCFG ++
  ((List.range 4).filter (fun f =>
    (s.fld (R.TRP_FCTH f) F.TRP_FCTH_PER == 0 || s.fld (R.TRP_FCTH f) F.TRP_FCTH_TMO == 0) &&
      s.usesSignal (60 + f) && s.fld (R.TRP_INCFG (60 + f)) F.TRP_INCFG_SRC % 2 == 0)).map R.TRP_FCTH ++
  (s.literals.filter (fun e => (List.range 16).any (fun i => bitsOf e.2.toNat (2 * i) 2 == 3))).map
    (fun e => R.TRP_TDEF 0 0 + 4 * e.1) ++
  ((List.range 56).filter (fun o =>
    (o == 54 && 16 < s.fld (R.TRP_OCFG o) F.TRP_OCFG_ARG) || (o == 55 && 15 < s.fld (R.TRP_OCFG o) F.TRP_OCFG_ARG) ||
      (o < 48 && o % 2 == 1 && s.flag (R.TRP_OCFG o) F.TRP_OCFG_EN &&
        (s.flag (R.DIO_DOCFG o) F.DIO_DOCFG_PAIR || s.flag (R.DIO_DOCFG (o - 1)) F.DIO_DOCFG_PAIR)))).map R.TRP_OCFG

/-- The offset of the first faulting register of the trip program in the tables `ts` (R158, R161). -/
def State.tripFault (s : State) (ts : List (Nat × Word)) : Option Nat :=
  match (s.onlyTables ts).tripFaults with
  | [] => none
  | l => some (trpOffset (l.foldl Nat.min 0xFFFFFFFF))

/-- The trip program loads into PD5; its shadow in PD1 is sound (R158, R159). -/
def State.loadTrip (s : State) : State :=
  let s := (s.resetRegs (fun a => blockNo a == 0x4008)).loadBlocks [0x4008]
  s.setFlag R.TRP_STAT F.TRP_STAT_SHADOW true

/-! ### The DIO configuration (R235, R236, R241, R245, R256) -/

/-- E4D for input or output `n` (R255). -/
def State.noteDio (s : State) (n kind check extra : Nat) : State :=
  s.raise 0x4D n (kind + 2 ^ 8 * check + 2 ^ 16 * extra)

/-- The type of input `n` is checked after `k` Type 2 inputs: a Type 2 beyond the 16th runs as Type 3 (R235). -/
def State.checkType (x : Nat × State) (n : Nat) : Nat × State :=
  let s := x.2
  if s.fld (R.DIO_DICFG n) F.DIO_DICFG_TYPE != 2 then x
  else if x.1 < 16 then (x.1 + 1, s)
  else (x.1, ((s.setFld (R.DIO_DICFG n) F.DIO_DICFG_TYPE 3).setFlag (R.DIO_DICFG n) F.DIO_DICFG_CFGERR true).noteDio n 0 0 0)

/-- LMON on an input of Type 0 or 1 (R236). -/
def State.checkLmon (s : State) (n : Nat) : State :=
  if s.flag (R.DIO_DICFG n) F.DIO_DICFG_LMON && s.fld (R.DIO_DICFG n) F.DIO_DICFG_TYPE ≤ 1 then
    (s.setFlag (R.DIO_DICFG n) F.DIO_DICFG_CFGERR true).noteDio n 0 1 0
  else s

/-- A declared pair: DO2n+1's own configuration is ignored and its register reads PAIR (R241). -/
def State.checkPair (s : State) (n : Nat) : State :=
  if s.flag (R.DIO_DOCFG n) F.DIO_DOCFG_PAIR || s.flag (R.DIO_DOCFG (n + 1)) F.DIO_DOCFG_PAIR then
    (s.setFlag (R.DIO_DOCFG n) F.DIO_DOCFG_PAIR true).wr (R.DIO_DOCFG (n + 1)) (fldMask F.DIO_DOCFG_PAIR)
  else s

/-- PTEST with PULSE 0 or 11–15: the test stays off (R257). -/
def State.checkPtest (s : State) (n : Nat) : State :=
  let p := s.fld (R.DIO_DOCFG n) F.DIO_DOCFG_PULSE
  if s.flag (R.DIO_DOCFG n) F.DIO_DOCFG_PTEST && (p == 0 || 10 < p) then
    (s.setFlag (R.DIO_DOCFG n) F.DIO_DOCFG_CFGERR true).noteDio n 1 2 0
  else s

/-- The LOOP2 channels of the executing image. -/
def State.loop2Count (s : State) : Nat :=
  let x := s.onlyTables s.img.exec.tables
  ((List.range 128).filter (fun n => x.fld (R.AFE_CHCFG n) F.AFE_CHCFG_TYPE == 12)).length

/-- The pairs claim DO2n+1 (R241, R253, R254). -/
def State.claimPairs (s : State) : State :=
  foldS (fun s n => if s.flag (R.DIO_DOCFG n) F.DIO_DOCFG_PAIR && n % 2 == 1 then (s.claimAll [n] 0x03).2 else s)
    (s.releaseClaims 0x03) (List.range 48)

/-- The checks of the DIO configuration as it loads (R235, R236, R241, R256). -/
def State.checkDio (s : State) : State :=
  let r := (List.range 48).foldl State.checkType (0, s)
  let s := foldS State.checkLmon r.2 (List.range 48)
  let s := foldS State.checkPair s ((List.range 24).map (fun k => 2 * k))
  let s := foldS State.checkPtest s (List.range 48)
  let s := s.setFld R.DIO_STAT F.DIO_STAT_T2CNT r.1
  let sum := s.loop2Count + 2 * r.1
  if 64 < sum then (s.setFlag R.DIO_STAT F.DIO_STAT_BUDGET true).noteDio 0x100 2 3 sum else s

/-- At a start: every register of the block, with every output OFF and every supply group OFF (R251, R375). The pairs
claim their lines in their turn (R254). -/
def State.loadDio (s : State) : State :=
  let keep := s.dio.retained
  let s := (s.resetRegs (fun a => blockNo a == 0x4009)).loadBlocks [0x4009]
  let s := foldS (fun s g => s.setFld (R.DIO_VFST g) F.DIO_VFST_STATE 3) s (List.range 4)
  s.checkDio.setDio { dioReset with retained := keep }

/-- After a PD5 cycle: CMD and DRV are held by the output stages, a group the cutoff has switched off stays OFF, and
restores begin anew (R251, R256, R259). -/
def State.reloadDio (s : State) : State :=
  let held := (List.range 48).map (fun n => (R.DIO_DOST n, s.rd (R.DIO_DOST n)))
  let off := (List.range 4).filter (fun g => 3 ≤ s.groupState g)
  let keep := s.dio.retained
  let s := (s.resetRegs (fun a => blockNo a == 0x4009)).loadBlocks [0x4009]
  let s := s.wrAll (held.map (fun e =>
    (e.1, (e.2 &&& 0xC0000000) ||| resetWord e.1)))
  let s := foldS (fun s g => s.setFld (R.DIO_VFST g) F.DIO_VFST_STATE 3) s off
  s.checkDio.claimPairs.setDio { dioReset with retained := keep }

/-! ### Channels and coefficients (R34, R55, R79, R81) -/

/-- The front end claims the cold-junction inputs of TYPE CJC (R253). -/
def State.claimFront (s : State) : State :=
  let s := s.releaseClaims 0x23
  foldS (fun s i => if s.fld (R.AFE_CHCFG (128 + i)) F.AFE_CHCFG_TYPE == 17 then (s.claimAll [81 + i] 0x23).2 else s) s
    (List.range 4)

/-- The channels load: configuration, pairs, NOT SCANNED (R55, R63, R66, R73). -/
def State.loadFront (s : State) : State :=
  foldS State.loadChan (s.dropChans.claimFront) (List.range 132)

/-- The program holds its timers (R205, R253). -/
def State.claimProgram (s : State) : State := (s.claimAll [85] 0x01).2

/-- The coefficients of bank `b` from the calibration region. -/
def State.regionCoefs (s : State) (b : Nat) : State :=
  s.wrAll ((coefRegs b).map (fun a => (a, tabGet resetWord s.mirror a)))

/-- The factory set of bank `b` (R81). -/
def State.factoryCoefs (s : State) (b : Nat) : State :=
  foldS (fun s i =>
    let c := Config.factoryCoef b i
    (s.setFld (R.AFE_CALOFF b i) F.AFE_CALOFF_OFF c.1.toNat).wr (R.AFE_CALGAIN b i) c.2) s (List.range 12)

/-- Nominal coefficients of bank `b`, whose channels are BANKSUSP until it passes a test (R379). -/
def State.nominalCoefs (s : State) (b : Nat) : State :=
  let s := foldS (fun s i => (s.setFld (R.AFE_CALOFF b i) F.AFE_CALOFF_OFF 0).wr (R.AFE_CALGAIN b i) 0x40000000) s (List.range 12)
  s.setBank b { s.bank b with suspect := true }

/-! ### The limit table (R119, R121, R129, R137, R138) -/

/-- An enabled set that fails its check among those below it is not enabled, with E25 (R129). -/
def State.checkSet (s : State) (k : Nat) : State :=
  let w := s.rd (R.LIM_RSCFG k)
  let below := s.setRegs (tabKeep (fun a => !(inRow a (R.LIM_RSCFG 0) 16 64) || a < R.LIM_RSCFG k) s.regs)
  if below.setValid k w (s.rd (R.LIM_RSAGE k)) then s
  else (s.setFlag (R.LIM_RSCFG k) F.LIM_RSCFG_EN false).raise 0x25 (0x2000 + k) 0

/-- An index that breaks R119 among those below it takes CFGERR, with E25. -/
def State.checkIndex (s : State) (c : Nat) : State :=
  let first := s.fld (R.LIM_CHIDX c) F.LIM_CHIDX_FIRST
  let count := s.fld (R.LIM_CHIDX c) F.LIM_CHIDX_COUNT
  let below := s.setRegs (tabKeep (fun a => !(inRow a (R.LIM_CHIDX 0) 4 256) || a < R.LIM_CHIDX c) s.regs)
  if s.maxCount c < count || 2048 < first + count || below.overlaps c first count then
    (s.setFlag (R.LIM_CHIDX c) F.LIM_CHIDX_CFGERR true).raise 0x25 (0x1000 + c) 0
  else s

/-- The entries the table lists. -/
def State.listedEntries (s : State) : List Nat := (listed s.regs (R.LIM_ENT3 0) 16 2048).map (fun x => x.1)

/-- Entry `e` loads (R121, R134, R140): an invalid one takes CFGERR, with E25. -/
def State.checkEnt (s : State) (e : Nat) : State :=
  let bad := !(s.entValid e (s.ent e))
  (s.copyEntry e bad).applyIf bad (fun s => s.raise 0x25 e 0)

/-- The entries that have a state or an alarm state. -/
def State.stateEntries (s : State) : List Nat :=
  (listed s.regs (R.LIM_STATE 0) 4 2048).map (fun x => x.1) ++ (listed s.regs (R.ALM_EST 0) 8 2048).map (fun x => x.1)

/-- Entry `e` is enabled and valid and lies in the index range of its channel. -/
def State.entInUse (s : State) (e : Nat) : Bool := s.entryOk e && s.rangeOwner e == some (s.ent e).chan

/-- What the mirror holds of an entry that the table has disabled, left out of its channel's range or made invalid: COND
and ACT are cleared, and its alarm is NORMAL at once (R118, R139, R163). -/
def State.checkState (s : State) (e : Nat) : State :=
  if s.entInUse e then s
  else
    let s := (s.setFlag (R.LIM_STATE e) F.LIM_STATE_COND false).setFlag (R.LIM_STATE e) F.LIM_STATE_ACT false
    s.setAlarmState e 0

/-- The image claims every region that holds an enabled entry (R138). -/
def State.claimRegions (s : State) : State :=
  let s := s.releaseClaims 0x21
  let used := s.listedEntries.filter (fun e => s.flag (R.LIM_ENT3 e) F.LIM_ENT3_EN)
  foldS (fun s r => if used.any (fun e => e / 128 == r) then (s.claimAll [65 + r] 0x21).2 else s) s (List.range 16)

/-- Inhibit `i` was in its release when the mirror was last written: an entry it applies to is inhibited with the bit
at 0 (R126, R137). -/
def State.wasReleasing (s : State) (i : Nat) : Bool :=
  !(s.abit (R.LIM_INH 0) i) && (s.inhEntries i).any (fun e => s.flag (R.LIM_STATE e) F.LIM_STATE_INH)

/-- The effective inhibits anew (R126, R137): the bits that are 1, and those in their release, which runs from now. -/
def State.loadInhibits (s : State) : State :=
  foldS (fun s i =>
    if s.abit (R.LIM_INH 0) i then s.setAbit (R.LIM_INHEFF 0) i true
    else if s.wasReleasing i then (s.setAbit (R.LIM_INHEFF 0) i true).setRelease i (some s.now)
    else s) s (List.range 64)

/-- A delay that was running restarts with its full length (R15, R137). -/
def State.restartDelay (s : State) (e : Nat) : State :=
  let cond := s.flag (R.LIM_STATE e) F.LIM_STATE_COND
  if !(s.entryOk e) || cond == s.entryAct e then s
  else if cond then s.onRun e (some s.now) else s.offRun e (some s.now)

/-- After a start every entry begins with COND and ACT at 0 (R137). -/
def State.clearStates (s : State) : State :=
  foldS (fun s e => (s.setFlag (R.LIM_STATE e) F.LIM_STATE_COND false).setFlag (R.LIM_STATE e) F.LIM_STATE_ACT false) s
    ((listed s.regs (R.LIM_STATE 0) 4 2048).map (fun x => x.1))

/-- The limit table, the sets and the indexes load, after a PD4 cycle with the entries of the Rante window, and are
checked; the fields marked P hold what the mirror gave (R137, R397). -/
def State.loadLimits (s : State) (start : Bool) : State :=
  let s := (s.setLim { limReset with inbox := s.lim.inbox, early := s.lim.early }).loadBlocks [0x4006]
  let s := if start then s.clearStates else s.backRante
  let s := foldS State.checkSet s (List.range 64)
  let s := foldS State.checkIndex s (List.range 256)
  let s := foldS State.checkEnt s s.listedEntries
  let s := foldS State.checkState s s.stateEntries
  s.claimRegions.loadInhibits

/-- The states that follow from the table: inhibited entries, running delays, switches and trip links. -/
def State.settleLimits (s : State) : State :=
  let es := s.listedEntries
  let s := foldS State.followInh s (es ++ s.stateEntries)
  let s := foldS State.restartDelay s es
  let s := foldS State.putSwitches s (List.range 256)
  foldS State.linkMoved (foldS State.putLink s es) (List.range 64)

/-! ### Plans (R179, R181) -/

/-- Some level of plan `p` addresses engineers. -/
def State.planCalls (s : State) (p : Nat) : Bool :=
  [0, 1, 2, 3].any (fun k => s.flag (R.ALM_LCFG p k) F.ALM_LCFG_WATCH || s.flag (R.ALM_LCFG p k) F.ALM_LCFG_ALLCAB)

/-- The register for which plan `p` is out of range (R181). -/
def State.planFault (s : State) (p : Nat) : Option Nat :=
  let wk := R.ALM_WKCFG p
  let per := s.fld wk F.ALM_WKCFG_PERIOD
  let prew := s.fld wk F.ALM_WKCFG_PREW
  match [0, 1, 2, 3].find? (fun k => 1800 < s.fld (R.ALM_LCFG p k) F.ALM_LCFG_ESC || s.fld (R.ALM_LCFG p k) F.ALM_LCFG_PAT == 3) with
  | some k => some (R.ALM_LCFG p k)
  | none =>
    if s.planCalls p && (8 < s.fld R.ALM_WATCH F.ALM_WATCH_COUNT || 45 < s.fld R.ALM_WATCH F.ALM_WATCH_DIBASE) then some R.ALM_WATCH
    else if s.planWk p && (per < 60 || 3600 < per || prew == 0 || per ≤ prew) then some wk
    else none

/-- Plan `p` is left disabled: CFGERR and E2F (R181, R183). -/
def State.refusePlan (s : State) (p a : Nat) (r : Status) : State :=
  (s.setFld R.ALM_STAT F.ALM_STAT_CFGERR (setBitN (s.fld R.ALM_STAT F.ALM_STAT_CFGERR) p true)).raise 0x2F p
    (data2 (a % 0x10000) r.code)

/-- The outputs that level `k` (0–3) of plan `p` names; a disabled level names them too (R176). -/
def State.levelMask (s : State) (p k : Nat) : Nat :=
  (s.rd (R.ALM_LOUT0 p k)).toNat + 2 ^ 32 * ((s.rd (R.ALM_LOUT1 p k)).toNat % 2 ^ 16)

/-- The outputs that plan `p` names. -/
def State.planMask (s : State) (p : Nat) : Nat := [0, 1, 2, 3].foldl (fun m k => m ||| s.levelMask p k) 0

/-- The LOUT register that names output `n` first. -/
def State.loutOf (s : State) (p n : Nat) : Nat :=
  let k := ([0, 1, 2, 3].find? (fun k => (s.levelMask p k).testBit n)).getD 0
  if n < 32 then R.ALM_LOUT0 p k else R.ALM_LOUT1 p k

/-- Plan `p` is checked and claims its outputs (R176, R181, R253). -/
def State.checkPlan (s : State) (p : Nat) : State :=
  match s.planFault p with
  | some a => s.refusePlan p a .range
  | none =>
    if !(s.flag (R.ALM_PCFG p) F.ALM_PCFG_EN) then s
    else
      let os := onesOf 48 (s.planMask p)
      let held := os.find? (fun n => !(s.claimFree n 0x02))
      let r := s.claimAll os 0x02
      match held with
      | some n => r.2.refusePlan p (s.loutOf p n) .claim
      | none => r.2

/-- Engineer register `k` is checked and claims its cabin output (R179). -/
def State.checkEngineer (s : State) (k : Nat) : State :=
  let do_ := s.fld (R.ALM_ENG k) F.ALM_ENG_CABDO
  if !(s.flag (R.ALM_ENG k) F.ALM_ENG_EN) then s
  else if 47 < do_ || 47 < s.fld (R.ALM_ENG k) F.ALM_ENG_CABDI then
    s.raise 0x2F (0x100 + k) (data2 (R.ALM_ENG k % 0x10000) Status.range.code)
  else (s.claimAll [do_] 0x02).2

/-- At a start only SHLV, SHVREM and OOS keep their values; every other field of the alarm unit begins at 0 (R185). -/
def State.clearAlarms (s : State) : State :=
  let keep : Word := fldMask F.ALM_EST_SHLV ||| fldMask F.ALM_EST_OOS ||| fldMask F.ALM_EST_SHVREM
  let es := (listed s.regs (R.ALM_EST 0) 8 2048).map (fun e => (R.ALM_EST e.1, e.2 &&& keep))
  s.setRegs (tabSetAll resetWord (tabKeep (fun a => blockNo a != 0x400A) s.regs) es)

/-- No plan runs and no shelve time is known. -/
def State.clearPlans (s : State) : State := s.setAlm { almReset with stampTick := s.alm.stampTick }

/-- The shelve times that remain run on from now (R182). -/
def State.loadShelves (s : State) : State :=
  foldS (fun s x => if fldOf F.ALM_EST_SHLV x.2 != 0
    then s.setShelveDue x.1 (some (s.now + fldOf F.ALM_EST_SHVREM x.2 * sec)) else s)
    (s.clearPlans) (listed s.regs (R.ALM_EST 0) 8 2048)

/-- The timer of a plan that ran runs on from what the mirror says remains, its patterns begin on (R15, R182). -/
def State.resumePlan (s : State) (p : Nat) : State :=
  let rem := (s.rd (R.ALM_PTMR p)).toNat
  let due := if rem = 0 then none else some (s.now + rem * ms)
  let s := if !(s.planOk p) then s.wr (R.ALM_PST p) 0 else s
  let s := match s.planState p with
    | 0 => s
    | 1 => s.setPlan p { s.plan p with due := due }
    | _ => s.setPlan p { s.plan p with wkDue := due }
  (s.setPlan p { s.plan p with unack := s.planUnack p }).markRun p

/-- The alarm unit and Bandstand load (R181, R182): configuration, checks and claims, then the states. -/
def State.loadAlarms (s : State) (start : Bool) : State :=
  let s := if start then s.clearAlarms else s
  let s := ((s.loadShelves).loadBlocks [0x400A]).releaseClaims 0x02
  let s := foldS State.checkPlan s (List.range 16)
  let s := foldS State.checkEngineer s (List.range 8)
  let s := foldS State.recount s (List.range 256)
  let s := foldS State.resumePlan s (List.range 16)
  s.selectEngineer 0

/-- The fields marked P of LIM, ALM and TWN return from the retained-state mirror; the others of these blocks read their
Reset column (R141, R182, R233). -/
def State.fromMirror (s : State) : State :=
  s.setRegs (tabSetAll resetWord (tabKeep (fun a => !(mirrored a)) s.regs) (s.mirror.filter (fun e => mirrored e.1)))

end Sys2Proof.Machine
end

