-- ==== Sys2Proof/Machine/Cycles.lean ====
section
/-! DEFINITION. Islands and domains in service (R11–R18, R425): loss of lock and of the crystal, the faults for which the
supervisor cycles a domain, the cycle with what it loses, and the domain back with what is restored. -/

namespace Sys2Proof.Machine

/-! ### Islands (R12, R15, R18) -/

/-- LOCK of island `i`. -/
def State.setLock (s : State) (i : Nat) (b : Bool) : State :=
  s.setFld R.CLK_LOCK F.CLK_LOCK_LOCK (setBitN (s.fld R.CLK_LOCK F.CLK_LOCK_LOCK) i b)

/-- Island `i` has lost lock or has been stopped: LOST sets. -/
def State.loseLock (s : State) (i : Nat) : State :=
  (s.setFld R.CLK_LOST F.CLK_LOST_LOST (setBitN (s.fld R.CLK_LOST F.CLK_LOST_LOST) i true)).setLock i false

/-- Island `i` waits for its lock to return. -/
def State.awaitsLock (s : State) (i : Nat) : Bool := s.sup.lockWait.any (fun e => e.1 == i)

/-- The instant at which island `i` will have waited 1 ms for its lock (R15). -/
def State.lockDue (s : State) (i : Nat) : Option Time :=
  (s.sup.lockWait.find? (fun e => e.1 == i)).map (fun e => e.2 + ms)

def State.endLockWait (s : State) (i : Nat) : State :=
  s.setSup { s.sup with lockWait := s.sup.lockWait.filter (fun e => e.1 != i) }

def execIslandLockLost (i : Fin 16) (t : Time) (s : State) : Out :=
  let s := s.atTime t
  .next (if s.sup.running && s.islandRuns i then
      (s.loseLock i).setSup { s.sup with lockWait := s.sup.lockWait ++ [(i.val, s.now)] }
    else s)

/-- Island `i` runs again: a call that output 55 made meanwhile reaches Bandstand, and the head request of the panel's
queue goes on (R14, R157, R288). -/
def State.islandBack (s : State) (i : Nat) : State :=
  let s := (s.endLockWait i).setLock i true
  match i with
  | 5 => s.missedCall
  | 14 => s.kick
  | _ => s

def execIslandLockRegained (i : Fin 16) (s : State) : Out :=
  .next (if s.awaitsLock i then s.islandBack i else s)

/-- XT25 fails in service: the islands run on RC8, the ring ports transmit on their received clock, E04 (R12). On RC8
already, the failure shows in XT25_OK alone (R18). -/
def State.crystalFails (s : State) : State :=
  let s := (s.setFld R.CLK_REF F.CLK_REF_SRC 1).setFlag R.CLK_REF F.CLK_REF_XT25_OK false
  let s := s.applyIf (s.powered 9) (fun s =>
    (s.setFlag (R.RNG_PORT 0) F.RNG_PORT_LOOPT true).setFlag (R.RNG_PORT 1) F.RNG_PORT_LOOPT true)
  s.raise 0x04 0 0

def execXt25Fail (t : Time) (s : State) : Out :=
  let s := s.atTime t
  .next (if !s.sup.running then s
    else if s.fld R.CLK_REF F.CLK_REF_SRC == 0 then s.crystalFails
    else s.setFlag R.CLK_REF F.CLK_REF_XT25_OK false)

/-! ### Faults (R15, R16) -/

/-- The core of domain PD`d`. -/
def domainCore (d : Nat) : Option CoreId := if d = 2 then some .a else if d = 3 then some .b else none

/-- Some core is in service. -/
def State.coresRun (s : State) : Bool := s.coreA.live || s.coreB.live

/-- Core `c` serves alone: without it no core is in service (R16, R229). -/
def State.servesAlone (s : State) (c : CoreId) : Bool := s.coresRun && !(s.twinMode) && s.server_ = c

/-- PD`d` holds a permanently isolated core. -/
def State.permDomain (s : State) (d : Nat) : Bool :=
  match domainCore d with
  | some c => s.permIsolated c
  | none => false

/-- Domain `d` shows a fault that a cycle with cause `cause` repairs. PD0 is never cycled; a PD1 fault restarts the
node, and so does one that leaves no core in service. -/
def State.domainFault (s : State) (d cause : Nat) : State :=
  if !s.sup.running || d = 0 then s
  else if d = 1 then s.orderRestart 3 s.now
  else if !(s.powered d) || s.permDomain d then s
  else match domainCore d with
    | some c => if s.servesAlone c then s.orderRestart causeCoresLost (s.now + 10 * ms) else s.needCycle d cause
    | none => s.needCycle d cause

/-- LOCK_REGAIN_TIMEOUT comes 1 ms after the lock was lost (R15; log 1). -/
def execLockRegainTimeout (i : Fin 16) (s : State) : Out :=
  .next (match s.lockDue i with
    | some due => ((s.atTime due).endLockWait i).domainFault (islandDomain i) 0
    | none => s)

def execIslandWatchdogExpiry (i : Fin 16) (s : State) : Out := .next (s.domainFault (islandDomain i) 2)

def execMemoryEccUncorrectable (d : Fin 11) (s : State) : Out := .next (s.domainFault d 1)

/-! ### Switching off and on -/

/-- PWR_DOM.ON of domain `d`, and the clocks of its islands. -/
def State.switchOff (s : State) (d : Nat) : State :=
  let s := s.setFld R.PWR_DOM F.PWR_DOM_ON (setBitN (s.fld R.PWR_DOM F.PWR_DOM_ON) d false)
  foldS (fun s i => (s.loseLock i).endLockWait i) s (domainIslands d)

def State.switchOn (s : State) (d : Nat) : State :=
  let s := s.setFld R.PWR_DOM F.PWR_DOM_ON (setBitN (s.fld R.PWR_DOM F.PWR_DOM_ON) d true)
  foldS (fun s i => s.setLock i true) s (domainIslands d)

/-- PWR_DOM.CYC of domain `d`. -/
def State.setCycling (s : State) (d : Nat) (b : Bool) : State :=
  s.setFld R.PWR_DOM F.PWR_DOM_CYC (setBitN (s.fld R.PWR_DOM F.PWR_DOM_CYC) d b)

/-! ### What a cycle loses (R15) -/

/-- A tick runs: its commits have been neither applied nor given up. -/
def State.tickRuns (s : State) : Bool :=
  let done := if s.twinMode then s.coreA.cmtd && s.coreB.cmtd else (s.core s.server_).cmtd
  s.coresRun && !done && !s.gate.discarded && s.gate.diverged.isNone

/-- In twin mode, the running tick waits for the CMTE of core `c` alone: its twin has ended its sequence. -/
def State.waitsFor (s : State) (c : CoreId) : Bool :=
  s.coresRun && s.twinMode && s.gate.diverged.isNone && !s.gate.discarded && (endOf (s.items (twin c))).isSome &&
    (endOf (s.items c)).isNone

/-- The serving core's sequence, which ended while the pair was whole, is applied as in SOLO (R222, R223). -/
def State.applyOpen (s : State) (c : CoreId) : State := s.applyTick (s.items (twin c))

/-- Core `c` loses its state. In twin mode its twin serves alone; a core that is cycled without a condemnation is cycling,
not isolated, so that no E3A is recorded (R217, R231, log 67). -/
def State.dropCore (s : State) (c : CoreId) : State :=
  let was := s.coresRun
  let held := s.waitsFor c
  let s := if was && s.twinMode then
      ((s.leaveTwin c false).applyIf s.gate.checking State.resumeCores).applyIf held (fun s => s.applyOpen c)
    else if s.resyncing then s.setFld R.TWN_STAT F.TWN_STAT_MODE 1
    else s
  let s := (s.setCore c coreReset).setItems c []
  if was then s.setFld R.TWN_STAT F.TWN_STAT_STAGE 2 else s

/-- The Gatehouse loses what it holds of the tick, a self-check that runs with it, and starts empty at the next boundary
(R15, R230). -/
def State.dropGate (s : State) : State :=
  let s := s.applyIf s.gate.checking (fun s => s.setFld R.TWN_STAT F.TWN_STAT_STAGE 0)
  s.setGate { s.gate with itemsA := [], itemsB := [], marksA := [], marksB := [], readsA := [], readsB := [],
                          checking := false, idle := true }

/-- A snapshot copy that has not reached its end is lost with the builder (R15, R20). -/
def State.dropCopy (s : State) (c : CoreId) : State :=
  match (s.core c).inactive with
  | some (_, false) => s.setCore c { s.core c with inactive := none }
  | _ => s

/-- PD4 is off: the running tick is discarded, and so are the words on their way to Snowline; the FIFO is lost and counted
by severity (R14, R15, R230, R329). -/
def State.dropPd4 (s : State) : State :=
  let s := if s.tickRuns then s.discardTick 2 else s
  let s := foldS State.dropCopy s.dropGate [.a, .b]
  let s := s.setLim { s.lim with inbox := [], early := [] }
  let s := s.setSup { s.sup with lostAtPd4 := s.mor.fifo.foldl (fun l r => bump l r.sev) s.sup.lostAtPd4 }
  (s.setMor { s.mor with fifo := [], buckets := [] }).dropRante

/-- PD5 is off: no evaluation, the DI states frozen and stale; the output stages hold (R160, R256). -/
def State.dropPd5 (s : State) : State :=
  let s := s.setTrp { s.trp with wasOut := s.rd (R.TRP_OUT 1) ++ s.rd (R.TRP_OUT 0) }
  (s.setDio { s.dio with stale := true }).setFlag R.TRP_STAT F.TRP_STAT_RUN false

/-- Results of the converters of PD`d` whose window begins before `u` are NOT SCANNED (R115). -/
def State.setNs (s : State) (d : Nat) (u : Time) : State :=
  s.setSup { s.sup with nsUntil := tabSet (dflt 0) s.sup.nsUntil d u }

/-- A result that sequencer `q` has not yet taken, and its V1, are NOT SCANNED: their windows begin before the domain is
back (R115). -/
def State.markNs (s : State) (q : Nat) : State :=
  let x := s.seq q
  let cnv := x.cnv.map (fun c => { c with latest := c.latest.map (fun r => { r with ns := true }) })
  s.setSeq q { x with cnv := cnv, v1 := x.v1.map (fun h => { h with ns := true }) }

/-- The domain of the converters that serve bank `b`: its own, or that of BS. -/
def State.servingDomain (s : State) (b : Nat) : Nat := if s.served = b then bankDomain 8 else bankDomain b

/-- PD6 or PD7 is off: what its converters have measured is NOT SCANNED, and so is every channel they serve (R15, R73,
R115). -/
def State.dropBanks (s : State) (d : Nat) : State :=
  let s := s.setNs d (s.now + 20 * ms)
  let s := foldS State.markNs s ((List.range 9).filter (fun q => bankDomain q == d))
  let ns := (((List.range 8).filter (fun b => s.servingDomain b == d)).map bankChans).flatten
  foldS State.dropWord s (ns.filter (fun n => (s.chan n).word != notScanned))

/-- The registers of PD8 return to their Reset column: a rebuild that runs runs on, no cursor holds a record (R336). -/
def State.resetPd8 (s : State) : State :=
  let re := s.flag R.REC_STAT F.REC_STAT_REBUILD
  let s := s.resetRegs (fun a => regDomain a == 8)
  (s.setMor { s.mor with host := ⟨none, 0⟩, svc := ⟨none, 0⟩ }).setFlag R.REC_STAT F.REC_STAT_REBUILD re

/-- PD8 is off: the tick is skipped without divergence, the deadline suspended, a transfer abandoned (R221, R357). -/
def State.dropPd8 (s : State) : State :=
  let s := if s.tickRuns then s.discardTick 1 else s
  (s.setGate { s.gate with suspended := true }).dropTransfer.resetPd8

/-- What domain `d` loses when it is switched off. -/
def State.dropDomain (s : State) (d : Nat) : State :=
  let s := (s.resetCrossings d).abandonTest d
  match d with
  | 2 => s.dropCore .a
  | 3 => s.dropCore .b
  | 4 => s.dropPd4
  | 5 => s.dropPd5
  | 6 => s.dropBanks 6
  | 7 => s.dropBanks 7
  | 8 => s.dropPd8
  | 9 => s.dropRing
  | 10 => (s.dropGlissade).dropGlasshouse
  | _ => s

/-! ### The cycle (R15–R17) -/

/-- The start step charged with a domain's third cycle (R17). -/
def chargedStep (d : Nat) : Nat :=
  match d with
  | 4 => 12 | 5 => 5 | 6 => 3 | 7 => 3 | 8 => 7 | 9 => 8 | _ => 6

/-- The cycles of domain `d` that began within the 10 min before `t`, those at `t` included. -/
def State.recentCycles (s : State) (d : Nat) (t : Time) : Nat :=
  (s.sup.history.filter (fun e => e.1 == d && decide (t < e.2 + 600 * sec))).length

/-- E05 of domain `d` (R17): the cause, the cycles of the last 10 min, the time off in µs. -/
def State.noteCycle (s : State) (d cause n us_ : Nat) (perm : Bool) : State :=
  s.raiseF 0x05 d (cause % 256 + 2 ^ 8 * (n % 256) + 2 ^ 16 * (us_ % 2 ^ 32)) perm

/-- The third cycle of a domain within 10 min (R17): the core is left isolated for good, or the start step is charged
and the node restarts with cause 5. -/
def State.thirdCycle (s : State) (d cause n : Nat) : State :=
  match domainCore d with
  | some c =>
    let held := s.waitsFor c
    let s := ((s.setCycling d false).setCore c coreReset).isolate c 0 true
    (s.applyIf held (fun s => s.applyOpen c)).noteCycle d cause n 0xFFFFFFFF true
  | none =>
    let s := ((s.dropDomain d).putStep (chargedStep d) stFailed).noteCycle d cause n 0xFFFFFFFF false
    ((s.switchOff d).setCycling d false).orderRestart 5 (s.now + 10 * ms)

/-- Domain `d` is switched off. -/
def State.beginCycle (s : State) (d cause : Nat) : State :=
  let s := s.setSup { s.sup with history := s.sup.history ++ [(d, s.now)] }
  let s := s.wr R.CLK_CYCLES (s.rd R.CLK_CYCLES + 1)
  let n := s.recentCycles d s.now
  if 3 ≤ n && cause != 4 then s.thirdCycle d cause n
  else
    let s := ((s.dropDomain d).switchOff d).setCycling d true
    s.setSup { s.sup with active := some (d, cause, s.now) }

/-- The cycles asked for, oldest first: those of faults, and the host's once its 10 ms have passed (R383). -/
def State.cycleQueue (s : State) : List (Nat × Nat) :=
  s.sup.waiting ++ (match s.sup.pwrReq with
    | some (d, due) => if due ≤ s.now then [(d, 4)] else []
    | none => [])

/-- The request for domain `d` is taken off. -/
def State.takeRequest (s : State) (d cause : Nat) : State :=
  if s.sup.waiting.contains (d, cause) then s.setSup { s.sup with waiting := s.sup.waiting.filter (fun e => e.1 != d) }
  else s.setSup { s.sup with pwrReq := none }

/-- A cycle of PD8 waits for the end of the copy of a resynchronisation (R16, R229). -/
def State.mayCycle (s : State) (d : Nat) : Bool := !(d == 8 && s.copying)

/-- The next cycle begins. One of a domain that is off has nothing to repair; one that would leave no core in service
restarts the node (R16, R229). -/
def State.nextCycle (s : State) (d cause : Nat) : State :=
  let s := s.takeRequest d cause
  if !(s.powered d) then s
  else match domainCore d with
    | some c => if s.servesAlone c then s.orderRestart causeCoresLost (s.now + 10 * ms) else s.beginCycle d cause
    | none => s.beginCycle d cause

def execDomainCycle (t : Time) (s : State) : Out :=
  let s := s.atTime t
  .next (if !s.sup.running || s.sup.active.isSome then s
    else match s.cycleQueue.find? (fun e => s.mayCycle e.1) with
      | some e => s.nextCycle e.1 e.2
      | none => s)

/-! ### What a domain restores (R15, R425) -/

/-- A condemned or cycled core is held in reset for its resynchronisation (R228). Before the cores leave reset there is
no core to copy from, and both leave reset together (R189). -/
def State.backCore (s : State) : State :=
  if !s.coresRun then s
  else (s.setFld R.TWN_STAT F.TWN_STAT_MODE 2).setFld R.TWN_STAT F.TWN_STAT_STAGE stageBulk

/-- The banks keep the current fits of MRAM and a suspect mark; their sources begin disconnected (R37, R84). -/
def State.resetBanks (s : State) : State :=
  let s := foldS (fun s b => s.setBank b { bankReset with fitA := (s.bank b).fitA, fitB := (s.bank b).fitB,
                                                          suspect := (s.bank b).suspect }) s (List.range 9)
  foldS State.showCurrents s (List.range 9)

/-- The configuration of PD4 from the executing image, the recorder's with its checks (R55, R111, R323). -/
def State.loadPd4 (s : State) : State := (s.loadBlocks [0x4004, 0x4005, 0x4007, 0x400D, 0x4011]).checkRecCfg

/-- The sequencers start and the rotating test with them; a FAILED bank is served by BS (R82, R111). -/
def State.startScan (s : State) : State :=
  let s := s.startSeqs
  let s := s.setRotating ⟨none, false, false, s.now, false⟩
  s.serveFailed

/-- PD4 is back (R57, R90, R111, R117, R137, R141, R182, R233, R323, R397): configuration from the image, the fields
marked P from the mirror, the mode of the pair from the supervisor, claims in the order of R254; Bandstand drives its
outputs from what is restored, and a call that output 55 made meanwhile reaches it. -/
def State.backPd4 (s : State) : State :=
  let keep : Word := fldMask F.TWN_STAT_MODE ||| fldMask F.TWN_STAT_CORE ||| fldMask F.TWN_STAT_STAGE
  let twn := s.rd R.TWN_STAT &&& keep
  let s := (s.resetRegs (fun a => regDomain a == 4)).fromMirror
  let s := s.wr R.TWN_STAT ((s.rd R.TWN_STAT &&& ~~~keep) ||| twn)
  let s := s.dropSeqs
  let s := (s.loadPd4.resetBanks.loadFront).claimProgram
  let s := ((s.startScan).loadLimits false).loadAlarms false
  let s := s.settleLimits.enableRotation.2
  let s := s.applyIf (!s.noImage) State.loadRingCfg
  let s := s.setFlag R.AFE_LOOP F.AFE_LOOP_THERM (s.flag R.PWR_STAT F.PWR_STAT_T85)
  let lost := s.sup.lostAtPd4
  (((s.setSup { s.sup with lostAtPd4 := [0, 0, 0, 0] }).noteLost 1 lost).missedCall).refreshAll

/-- PD5 is back: program and configuration from the shadow, then the first evaluation (R159, R160, R256). -/
def State.backPd5 (s : State) : State := (((s.loadTrip).reloadDio).beginTrip).refreshAll

/-- What domain `d` restores when it is back. -/
def State.restoreDomain (s : State) (d : Nat) : State :=
  match d with
  | 2 => s.backCore
  | 3 => s.backCore
  | 4 => s.backPd4
  | 5 => s.backPd5
  | 6 => (s.setNs 6 (Nat.max s.now (tabGet (dflt 0) s.sup.nsUntil 6))).returnChannels
  | 7 => (s.setNs 7 (Nat.max s.now (tabGet (dflt 0) s.sup.nsUntil 7))).returnChannels
  | 8 => s.setGate { s.gate with suspended := false }
  | 9 => s.loadRing (some 0) s.now
  | 10 => (s.loadGlissade false).backGlasshouse
  | _ => s

/-- T100 holds PD10 off (R385). -/
def State.heldOff (s : State) (d : Nat) : Bool := d == 10 && s.flag R.PWR_STAT F.PWR_STAT_T100

/-- The cycle of domain `d` with cause `cause`, switched off at `t0`, ends. A PD5 whose shadow fails its CRC-32C
restarts the node (R159). -/
def State.endCycle (s : State) (d cause : Nat) (t0 : Time) (shadowOk : Bool) : State :=
  let n := s.recentCycles d t0
  let s := (s.setCycling d false).setSup { s.sup with active := none }
  if d == 5 && !shadowOk then
    ((s.setFlag R.TRP_STAT F.TRP_STAT_SHADOW false).noteCycle d cause n 0xFFFFFFFF false).orderRestart 6 (s.now + 10 * ms)
  else
    let s := s.noteCycle d cause n ((s.now - t0) / us) false
    if s.heldOff d then s else (s.switchOn d).restoreDomain d

def execDomainBack (shadowOk : Bool) (t : Time) (s : State) : Out :=
  let s := s.atTime t
  .next (match s.sup.active with
    | some (d, cause, t0) => if s.sup.running then s.endCycle d cause t0 shadowOk else s
    | none => s)

end Sys2Proof.Machine
end

