-- ==== Sys2Proof/Machine/Guard.lean ====
section
/-! DEFINITION. The configuration lock (R386), the Thaw flags as the host clears them (R381), a domain cycle as the host
asks for it (R383), and the DIO fields the host may edit (R256). -/

namespace Sys2Proof.Machine

/-! ### The lock (R386) -/

/-- How SYS_LOCK.BY codes a requester. -/
def lockBy : Port → Nat
  | .host => 1
  | .svc => 2

/-- SYS_LOCK CMD 1: 0x1A5F opens the lock; any other code is refused with DENIED. Each records E07 with the opener,
or the requester that is refused, in data byte 0 (R386, R387). -/
def State.lockOpenOp (s : State) (p : Port) (code : Nat) : State :=
  if code == 0x1A5F then
    let s := (s.setFlag R.SYS_LOCK F.SYS_LOCK_OPEN true).setFld R.SYS_LOCK F.SYS_LOCK_BY (lockBy p)
    ((s.noteLk).raise 0x07 0 (lockBy p)).answer .ok
  else (s.raise 0x07 2 (lockBy p)).answer .denied

/-- The lock closes, with E07 and who had opened it. -/
def State.closeLock (s : State) : State :=
  let by_ := s.fld R.SYS_LOCK F.SYS_LOCK_BY
  let s := (s.setFlag R.SYS_LOCK F.SYS_LOCK_OPEN false).setFld R.SYS_LOCK F.SYS_LOCK_BY 0
  s.raise 0x07 1 by_

/-- SYS_LOCK CMD 2. -/
def State.lockCloseOp (s : State) : State := (if s.lockOpen then s.closeLock else s).answer .ok

def execLockOpen (p : Port) (code : BitVec 16) (t : Time) (s : State) : Out := .next ((s.atTime t).lockOpenOp p code.toNat)

def execLockClose (_p : Port) (s : State) : Out := .next s.lockCloseOp

/-- 600 s after the last write to an LK field, or since the opening, the lock closes. -/
def execLockTimeout (t : Time) (s : State) : Out :=
  let s := s.atTime t
  .next (if s.lockOpen && s.sup.lastLk + 600 * sec ≤ s.now then s.closeLock else s)

/-! ### Thaw flags (R381) -/

/-- A write of SYS_THAWCLR: no bit clears nothing; while the lock is closed it is refused (R6). -/
def State.thawClearOp (s : State) (bits : Nat) : State :=
  if bits % 2 ^ 16 == 0 then s.answer .ok
  else if !s.lockOpen then s.answer .denied
  else ((s.noteLk).clearThaw bits).answer .ok

def execThawClear (_p : Port) (steps : BitVec 16) (t : Time) (s : State) : Out :=
  .next ((s.atTime t).thawClearOp steps.toNat)

/-! ### A domain cycle for the host (R383) -/

/-- A write of PWR_CYCLE.DOM. -/
def State.pwrCycleOp (s : State) (d : Nat) : State :=
  if d != 0 && !s.lockOpen then s.answer .denied
  else if d < 2 || 10 < d then s.answer .range
  else if d < 4 && !(s.twinMode && s.coreA.live && s.coreB.live) then s.answer .state
  else if s.sup.pwrReq.isSome then s.answer .busy
  else
    let s := s.noteLk
    (s.setSup { s.sup with pwrReq := some (d, s.now + 10 * ms) }).answer .ok

def execPwrCycleRequest (_p : Port) (dom : BitVec 4) (t : Time) (s : State) : Out :=
  .next ((s.atTime t).pwrCycleOp dom.toNat)

/-! ### DIO fields (R256, R257) -/

/-- The check of a DIO write: EDGE 3 on DI00–DI15, PULSE 11–15 (R257). -/
def dioRange (a : Nat) (v : Word) : Bool :=
  if R.DIO_DICFG 0 ≤ a && a < R.DIO_DICFG 16 then fldOf F.DIO_DICFG_EDGE v == 3
  else if R.DIO_DOCFG 0 ≤ a && a ≤ R.DIO_DOCFG 47 then 10 < fldOf F.DIO_DOCFG_PULSE v
  else false

/-- The LK fields of a DIO register: EDGE is RO on DI16–DI47 (R257). -/
def dioMask (a : Nat) : Word :=
  if R.DIO_DICFG 16 ≤ a && a ≤ R.DIO_DICFG 47 then putFld F.DIO_DICFG_EDGE (lkMask a) 0 else lkMask a

/-- A host write of DIO_DICFG, DIO_DOCFG or DIO_FGATE: DENIED where it would change an LK field while the lock is
closed, RANGE as R257 says; otherwise the fields take effect and EDITED sets. The states follow the new settings; a
member DO2n+1 of a declared pair keeps its own settings unused (R241). -/
def State.dioEdit (s : State) (a : Nat) (v : Word) : State :=
  let m := dioMask a
  let new := (s.rd a &&& ~~~m) ||| (v &&& m)
  if !s.lockOpen && new != s.rd a then s.answer .denied
  else if dioRange a v then s.answer .range
  else if !s.lockOpen then s.answer .ok
  else ((((s.noteLk).wr a new).setFlag R.DIO_STAT F.DIO_STAT_EDITED true)).answer .ok

/-- The registers this row edits. -/
def dioConfigAddr (a : Nat) : Bool :=
  a % 4 == 0 && ((R.DIO_DICFG 0 ≤ a && a ≤ R.DIO_DICFG 47) || (R.DIO_DOCFG 0 ≤ a && a ≤ R.DIO_DOCFG 47) || a == R.DIO_FGATE)

def execDioConfigEdit (_p : Port) (addr : Nat) (val : Word) (t : Time) (s : State) : Out :=
  let s := s.atTime t
  .next (if !(dioConfigAddr addr) then s.answer .address else if s.dioOn then s.dioEdit addr val else s.answer .busy)

end Sys2Proof.Machine
end

