-- ==== Sys2Proof/Machine/HostAccess.lean ====
section
/-! DEFINITION. What a read and a write of one register by the host or the service port do (R4–R7, R355, R365, R418,
R424). The order of the checks of a write: a register stands there, it has a writable field, the port may write it, its
domain is powered, the lock, then the rules of the owning chapter. -/

namespace Sys2Proof.Machine

/-! ### Reads (R4, R7, R302, R355) -/

/-- The word a host or service-port read returns. -/
def State.hostRead (s : State) (p : Port) (a : Nat) : Word :=
  if R.RTC_SEC ≤ a ∧ a ≤ R.RTC_CENT then s.calFor (some p) a else s.readReg a

/-- The read of one register: ADDRESS where none stands, BUSY where its domain is off. -/
def State.readFault (s : State) (a : Nat) : Option Status :=
  if a % 4 != 0 || !(standsAt a) then some .address
  else if !(s.powered (regDomain a)) then some .busy
  else none

/-! ### Writes of plain fields -/

/-- The fields a write may change, of any type. -/
def writable (a : Nat) : Word := match descOf a with
  | some d => BitVec.ofNat 32 (d.lk ||| d.rw ||| d.wo ||| d.w1c)
  | none => 0

/-- Registers of the spare bank whose fields are all RO to a host (R56, R112). -/
def spareReg (a : Nat) : Bool := a == R.AFE_BKCFG 8 || inBsStore a

/-- A write to a register of LK fields with no rules of its own. -/
def State.plainLk (s : State) (a : Nat) (v : Word) : State :=
  if !s.lockOpen then s.closedAnswer a v else ((s.wr a (s.merged a (lkMask a) v)).noteLk).answer .ok

/-- The RW fields of a register. -/
def rwMask (a : Nat) : Word := match descOf a with
  | some d => BitVec.ofNat 32 d.rw
  | none => 0

/-- A write to a register of RW fields with no rules of its own. -/
def State.plainRw (s : State) (a : Nat) (v : Word) : State := (s.wr a (s.merged a (rwMask a) v)).answer .ok

/-- A write to W1C fields: each 1 clears its bit (R4). -/
def State.plainW1c (s : State) (a : Nat) (v : Word) : State :=
  let m := match descOf a with
    | some d => BitVec.ofNat 32 d.w1c
    | none => 0
  (s.wr a (s.rd a &&& ~~~(v &&& m))).answer .ok

/-! ### The calendar's registers (R303–R313, R317) -/

/-- A two-digit BCD number within its bounds. -/
def bcdWithin (v lo hi : Nat) : Bool := v % 16 ≤ 9 && v / 16 ≤ 9 && lo ≤ ofBcd v && ofBcd v ≤ hi

/-- The field and bounds of a staging register. -/
def stagingField (a : Nat) : Option (Fld × Nat × Nat) :=
  if a = R.RTC_SSEC then some (F.RTC_SSEC_SEC, 0, 59)
  else if a = R.RTC_SMIN then some (F.RTC_SMIN_MIN, 0, 59)
  else if a = R.RTC_SHOUR then some (F.RTC_SHOUR_HOUR, 0, 23)
  else if a = R.RTC_SDAY then some (F.RTC_SDAY_DAY, 1, 31)
  else if a = R.RTC_SMON then some (F.RTC_SMON_MON, 1, 12)
  else if a = R.RTC_SYEAR then some (F.RTC_SYEAR_YEAR, 0, 99)
  else if a = R.RTC_SCENT then some (F.RTC_SCENT_CENT, 20, 23)
  else none

/-- A staging write: RANGE, then BUSY while a set is pending (R303). -/
def State.writeStaging (s : State) (a : Nat) (x : Fld × Nat × Nat) (v : Word) : State :=
  if !(bcdWithin (fldOf x.1 v) x.2.1 x.2.2) then s.answer .range
  else if s.flag R.RTC_SET F.RTC_SET_PEND then s.answer .busy
  else (s.setFld a x.1 (fldOf x.1 v)).answer .ok

/-- RTC_SET (R303): MODE 0 does nothing, 3 is refused. -/
def State.writeSet (s : State) (v : Word) : State :=
  match fldOf F.RTC_SET_MODE v with
  | 0 => s.answer .ok
  | 3 => s.answer .range
  | m => s.commandSet m

/-- RTC_DST (R305). -/
def State.writeDst (s : State) (v : Word) : State :=
  match fldOf F.RTC_DST_CMD v with
  | 0 => s.answer .ok
  | 3 => s.answer .range
  | m => s.commandDst (m == 1)

/-- RTC_TRIMCMD (R309): NOM is stored, CMD acts. -/
def State.writeTrimCmd (s : State) (v : Word) : State :=
  let nom := fldOf F.RTC_TRIMCMD_NOM v != 0
  let put (s : State) : State := s.setFlag R.RTC_TRIMCMD F.RTC_TRIMCMD_NOM nom
  if !s.lockOpen then
    s.answer (if s.flag R.RTC_TRIMCMD F.RTC_TRIMCMD_NOM == nom && fldOf F.RTC_TRIMCMD_CMD v == 0 then .ok else .denied)
  else match fldOf F.RTC_TRIMCMD_CMD v with
    | 0 => ((put s).noteLk).answer .ok
    | 1 => s.measureMains nom
    | 2 => if s.rtc.measure.isSome then s.answer .busy else (put s).startMeasure true
    | _ => (put s).abortMeasure

/-- RTC_ACFG of alarm `k` (R311–R313): MASK and REPEAT are stored, FLAG is cleared by a 1, EN arms or disarms; a match
that never occurs refuses the write. -/
def State.writeAlarmCfg (s : State) (k : Nat) (v : Word) : State :=
  let a := R.RTC_ACFG k
  let s' := (s.setFld a F.RTC_ACFG_MASK (fldOf F.RTC_ACFG_MASK v)).setFld a F.RTC_ACFG_REPEAT (fldOf F.RTC_ACFG_REPEAT v)
  let s' := if fldOf F.RTC_ACFG_FLAG v != 0 then s'.clearAlarmFlag k else s'
  if fldOf F.RTC_ACFG_EN v == 0 then (s'.setFlag a F.RTC_ACFG_EN false).answer .ok
  else
    let r := s'.enableAlarm k
    if r.status == .ok then r else s.answer r.status

/-- A register of the calendar block. -/
def State.writeRtc (s : State) (a : Nat) (v : Word) : State :=
  let k := (a - R.RTC_ACFG 0) / 32
  match stagingField a with
  | some x => s.writeStaging a x v
  | none =>
    if a = R.RTC_SET then s.writeSet v
    else if a = R.RTC_SHIFT then s.commandShift (fldOf F.RTC_SHIFT_NEG v != 0) (fldOf F.RTC_SHIFT_COUNT v)
    else if a = R.RTC_DST then s.writeDst v
    else if a = R.RTC_TRIM then s.writeTrim (fldOf F.RTC_TRIM_TRIM v)
    else if a = R.RTC_TRIMCMD then s.writeTrimCmd v
    else if a = R.RTC_ACFG k then s.writeAlarmCfg k v
    else if s.flag (R.RTC_ACFG k) F.RTC_ACFG_EN then s.answer .state
    else s.plainRw a v

/-! ### Other registers with rules of their own -/

/-- SYS_LOCK (R386, R389). -/
def State.writeLock (s : State) (p : Port) (v : Word) : State :=
  match fldOf F.SYS_LOCK_CMD v with
  | 1 => s.lockOpenOp p (fldOf F.SYS_LOCK_CODE v)
  | 2 => s.lockCloseOp
  | 3 => s.answer .range
  | _ => s.answer .ok

/-- The key slot, which the service port alone writes, while the lock is open (R359, R365). -/
def State.writeKey (s : State) (p : Port) (a : Nat) (v : Word) : State :=
  if p == .host || !s.lockOpen then s.answer .denied
  else if a == R.SYS_KEYCMD then (if v.getLsbD 0 then s.keyProvisionOp p else s.answer .ok)
  else (s.wr a v).answer .ok

/-- A register of the SYS block. -/
def State.writeSys (s : State) (p : Port) (a : Nat) (v : Word) : State :=
  if a = R.SYS_LOCK then s.writeLock p v
  else if a = R.SYS_THAWCLR then s.thawClearOp (fldOf F.SYS_THAWCLR_CLR v)
  else if a = R.SYS_LSEL then s.plainRw a v
  else s.writeKey p a v

/-- AFE_ROTCTL (R86, R88): INTERVAL, FORCE and RETEST; the first that is refused refuses the write. -/
def State.writeRotCtl (s : State) (v : Word) : State :=
  let a := s.setInterval (fldOf F.AFE_ROTCTL_INTERVAL v)
  if a.status != .ok then s.answer a.status
  else
    let b := a.forceTest (fldOf F.AFE_ROTCTL_FORCE v)
    if b.status != .ok then s.answer b.status else b.retest (fldOf F.AFE_ROTCTL_RETEST v)

/-- A register of the AFE block. -/
def State.writeAfe (s : State) (a : Nat) (v : Word) : State :=
  if a = R.AFE_ROTCTL then s.writeRotCtl v
  else if inRow a (R.AFE_CHSTAT 0) 16 132 then
    (s.clearLatched ((a - R.AFE_CHSTAT 0) / 16) (fldOf F.AFE_CHSTAT_LATCH v)).answer .ok
  else s.afeEdit a v

/-- SEQ_CTL.CMD of sequencer `q` (R112, R116). -/
def State.writeSeqCtl (s : State) (q : Nat) (v : Word) : State :=
  match fldOf F.SEQ_CTL_CMD v with
  | 0 => s.answer .ok
  | 1 => s.seqStopOp q
  | 2 => s.seqStartOp q
  | _ => s.answer (if s.lockOpen then .range else .denied)

/-- A register of the SEQ block. -/
def State.writeSeq (s : State) (a : Nat) (v : Word) : State :=
  let q := (a - R.SEQ_CTL 0) / 32
  let i := (a - R.SEQ_STPER 0) / 16
  if a = R.SEQ_CTL q ∧ q < 9 then s.writeSeqCtl q v
  else if a = R.SEQ_FAULT q ∧ q < 9 then s.plainW1c a v
  else if a = R.SEQ_STPER i ∧ i < 16 then s.writePeriod i (fldOf F.SEQ_STPER_PERIOD v)
  else if a = R.SEQ_STPH i ∧ i < 16 then s.writePhase i (fldOf F.SEQ_STPH_PHASE v)
  else s.seqStoreOp ((a - R.SEQ_PROG 0 0) / 2048) ((a - R.SEQ_PROG 0 0) % 2048 / 4) v

/-- LIM_STGCMD (R139): FUNC 0 is no action. -/
def State.writeStgCmd (s : State) (v : Word) : State :=
  match fldOf F.LIM_STGCMD_FUNC v with
  | 0 => s.answer .ok
  | f => s.stageCommand f (fldOf F.LIM_STGCMD_INDEX v)

/-- DIO_SCAN.CMD (R248, R257). -/
def State.writeScan (s : State) (v : Word) : State :=
  match fldOf F.DIO_SCAN_CMD v with
  | 0 => s.answer .ok
  | 1 => s.scanStartOp
  | 2 => s.scanAbortOp
  | _ => s.answer (if s.lockOpen then .range else .denied)

/-- A register of the DIO block. -/
def State.writeDio (s : State) (a : Nat) (v : Word) : State :=
  if a = R.DIO_SCAN then s.writeScan v
  else if dioConfigAddr a then s.dioEdit a v
  else s.plainW1c a v

/-- The port whose cursor has its registers at `a` (R331). -/
def cursorPort (a : Nat) : Port := if a < 0x400D0700 then .host else .svc

/-- REC_CURCMD (R332). -/
def State.writeCurCmd (s : State) (p : Port) (v : Word) : State :=
  let m := fldOf F.REC_CURCMD_MINSEV v
  match fldOf F.REC_CURCMD_MODE v with
  | 0 => (s.setFld (R.REC_CURCMD (cursorNo p)) F.REC_CURCMD_MINSEV m).answer .ok
  | 1 => s.cursorAtOp p m
  | 2 => s.cursorOldestOp p m
  | 3 => s.cursorNewestOp p m
  | 4 => s.cursorNextOp p m
  | 5 => s.cursorPrevOp p m
  | _ => (s.cursorStat p .range).answer .range

/-- A register of the REC block. -/
def State.writeRec (s : State) (a : Nat) (v : Word) : State :=
  let c := (a - R.REC_CODECFG 0) / 4
  let k := (a - R.REC_SSADDR 0 0) / 32
  if a < R.REC_SSADDR 0 0 then s.writeCodeCfg c v
  else if a < 0x400D0500 then s.writeSsAddr k ((a - R.REC_SSADDR 0 0) % 32 / 4) v
  else if a = R.REC_CURCMD 0 ∨ a = R.REC_CURCMD 1 then s.writeCurCmd (cursorPort a) v
  else s.plainRw a v

/-- PNL_CTL (R295) and the map registers (R292, R299). -/
def State.writePnl (s : State) (a : Nat) (v : Word) : State :=
  if a = R.PNL_CTL then (if v.getLsbD 0 then s.panelRetry else s.answer .ok)
  else if a = R.PNL_MAPSEL then
    (if fldOf F.PNL_MAPSEL_COMMIT v != 0 then s.mapCommitOp (fldOf F.PNL_MAPSEL_MAP v) else s.plainLk a v)
  else if !s.lockOpen && s.view a == v then s.answer .ok
  else s.mapWindowWrite ((a - R.PNL_MAP 0) / 4) v

/-- RWN_CTL (R391, R397): a write of the value it has changes nothing. -/
def State.writeRwn (s : State) (a : Nat) (v : Word) : State :=
  if a = R.RWN_CTL then
    (if s.windowOn == v.getLsbD 0 then s.answer .ok
     else if !s.lockOpen then s.answer .denied
     else if v.getLsbD 0 then s.ranteEnableOp else s.ranteDisableOp)
  else s.plainLk a v

/-- A write that the common checks have passed goes to the owning chapter. -/
def State.writeOwner (s : State) (p : Port) (a : Nat) (v : Word) : State :=
  match blockNo a with
  | 0x4000 => s.writeSys p a v
  | 0x4001 => s.pwrCycleOp (fldOf F.PWR_CYCLE_DOM v)
  | 0x4002 => s.plainW1c a v
  | 0x4004 => s.writeAfe a v
  | 0x4005 => s.writeSeq a v
  | 0x4006 => if a = R.LIM_STGCMD then s.writeStgCmd v else s.plainLk a v
  | 0x4007 => if a = R.CRV_CSEL then s.plainRw a v else s.afeEdit a v
  | 0x4009 => s.writeDio a v
  | 0x400B => s.readmit (fldOf F.TWN_CTL_READMIT v)
  | 0x400C => s.writeRtc a v
  | 0x400D => s.writeRec a v
  | 0x400F => s.writePnl a v
  | _ => s.writeRwn a v

/-- A write of one register by the host or the service port. -/
def State.hostWrite (s : State) (p : Port) (a : Nat) (v : Word) : State :=
  if a % 4 != 0 || !(standsAt a) then s.answer .address
  else if writable a = 0 || spareReg a then s.answer .denied
  else if !(s.powered (regDomain a)) then s.answer .busy
  else s.writeOwner p a v

def execRegisterWrite (p : Port) (addr : Nat) (val : Word) (t : Time) (s : State) : Out :=
  .next ((s.atTime t).hostWrite p addr val)

end Sys2Proof.Machine
end

