-- ==== Sys2Proof/Machine/Mailbox.lean ====
section
/-! DEFINITION. The requests of the mailbox and of the service port (R352–R356, R358, R361). -/

namespace Sys2Proof.Machine

/-! ### READ, WRITE, READ_CH (R355) -/

/-- The registers that `n` words from `a` on name. -/
def wordAddrs (a n : Nat) : List Nat := (List.range n).map (fun i => a + 4 * i)

/-- A word of the window of port `p`'s cursor. -/
def inWindowOf (p : Port) (a : Nat) : Bool := inRow a (R.REC_WIN (cursorNo p) 0) 4 16

/-- The cursor check of R333, made once at the start of a read that names window words of port `p`'s cursor. -/
def State.readsWindow (s : State) (p : Port) (as : List Nat) : Bool × State :=
  if as.any (inWindowOf p) then
    let r := s.windowCheck p
    (r.status == .ok, r)
  else (true, s)

/-- Read one register: the word, and the state after it. -/
def State.readWord (s : State) (p : Port) (a : Nat) : Word × State :=
  let s := s.measure a
  (s.hostRead p a, s.afterRead (some p) a)

/-- Read the registers in turn. -/
def State.readWords (s : State) (p : Port) (as : List Nat) : List Word × State :=
  as.foldl (fun x a => let r := x.2.readWord p a; (x.1 ++ [r.1], r.2)) ([], s)

/-- Words as the bytes of a payload. -/
def wordsBytes (l : List Word) : List Byte := (l.map (fun w => leBytes 4 w.toNat)).flatten

/-- The words of a payload. -/
def bytesWords (l : List Byte) : List Word :=
  (List.range (l.length / 4)).map (fun i => BitVec.ofNat 32 (ofLeBytes ((l.drop (4 * i)).take 4)))

/-- READ: LENGTH, ADDRESS, BUSY where a domain is off, OVERWRITTEN by the cursor check; a count of 0 does nothing
(R9). -/
def State.mbxReadOp (s : State) (p : Port) (a n : Nat) : State × Ans :=
  let as := wordAddrs a n
  let faults := as.filterMap s.readFault
  if n = 0 then (s, ansOf .ok)
  else if 124 < n then (s, ansOf .length)
  else if faults.contains .address then (s, ansOf .address)
  else if faults.contains .busy then (s, ansOf .busy)
  else
    let h := s.readsWindow .host as
    let v := h.2.readsWindow .svc as
    if h.1 && v.1 then
      let r := v.2.readWords p as
      (r.2, ⟨.ok, none, wordsBytes r.1⟩)
    else (v.2, ansOf .overwritten)

/-- Write the words upwards from `a`; the first that is refused, with its index and status. -/
def State.writeWords (s : State) (p : Port) (a i : Nat) : List Word → State × Option (Nat × Word × Status)
  | [] => (s, none)
  | w :: l =>
    let r := s.hostWrite p (a + 4 * i) w
    if r.status == .ok then r.writeWords p a (i + 1) l else (s, some (i, w, r.status))

/-- WRITE: all of its words or none; a refusal names the first refused word and leaves what the owning chapter reports
of it (R355, R424). -/
def State.mbxWriteOp (s : State) (p : Port) (a : Nat) (l : List Byte) : State × Ans :=
  if l.length % 4 ≠ 0 then (s, ansOf .range)
  else
    let r := s.writeWords p a 0 (bytesWords l)
    match r.2 with
    | none => (r.1, ansOf .ok)
    | some (i, w, x) =>
      let alone := s.hostWrite p (a + 4 * i) w
      (if alone.status == x then alone else s, ⟨x, some (BitVec.ofNat 32 i), []⟩)

/-- READ_CH: LENGTH, ADDRESS, BUSY while PD4 is off; the live words of one CI5 cycle. -/
def State.readChOp (s : State) (first n : Nat) : State × Ans :=
  if n = 0 then (s, ⟨.ok, some (s.view R.SEQ_TIME), []⟩)
  else if 124 < n then (s, ansOf .length)
  else if 256 < first + n then (s, ansOf .address)
  else if !(s.powered 4) then (s, ansOf .busy)
  else (s, ⟨.ok, some (s.view R.SEQ_TIME), wordsBytes ((List.range n).map (fun i => s.sample (first + i)))⟩)

def mRead (p : Port) (m : Msg) : State → State × Option Ans := now_ (fun s => s.mbxReadOp p m.arg0.toNat m.arg1.toNat)
def mWrite (p : Port) (m : Msg) : State → State × Option Ans := now_ (fun s => s.mbxWriteOp p m.arg0.toNat (msgBody m))
def mReadCh (m : Msg) : State → State × Option Ans := now_ (fun s => s.readChOp m.arg0.toNat m.arg1.toNat)

def execMbxRead (p : Port) (m : Msg) (t : Time) (s : State) : Out :=
  .next ((s.atTime t).request p m (m.type == 1) (mRead p m))

def execMbxWrite (p : Port) (m : Msg) (t : Time) (s : State) : Out :=
  .next ((s.atTime t).request p m (m.type == 2) (mWrite p m))

def execReadCh (p : Port) (m : Msg) (t : Time) (s : State) : Out :=
  .next ((s.atTime t).request p m (m.type == 3) (mReadCh m))

/-! ### ACK and the commands (R355, R356) -/

def mAck : State → State × Option Ans := now_ (fun s => (s, ⟨.ok, none, s.statusReport⟩))

def execAck (p : Port) (m : Msg) (t : Time) (s : State) : Out := .next ((s.atTime t).request p m (m.type == 7) mAck)

/-- HOSTEVT: E70 with the payload, zero-padded; LEN 0 does nothing. -/
def State.hostEvent (s : State) (src : Nat) (l : List Byte) : State × Ans :=
  (if l.isEmpty then s else s.raise 0x70 src (ofLeBytes l), ansOf .ok)

def mHostevt (m : Msg) : State → State × Option Ans := now_ (fun s => s.hostEvent (m.arg0.toNat % 2 ^ 16) (msgBody m))

def execHostevt (p : Port) (m : Msg) (t : Time) (s : State) : Out :=
  .next ((s.atTime t).request p m (isCommand m 1) (mHostevt m))

/-- COUNTCLR: the port counters and RNG_MBX. -/
def State.clearCounts (s : State) : State × Ans :=
  let s := foldS (fun s i => (s.setFld (R.RNG_PORT i) F.RNG_PORT_MISS 0).setFld (R.RNG_PORT i) F.RNG_PORT_CRCERR 0) s [0, 1]
  (s.wr R.RNG_MBX 0, ansOf .ok)

def mCountclr : State → State × Option Ans := now_ State.clearCounts

def execCountclr (p : Port) (m : Msg) (t : Time) (s : State) : Out :=
  .next ((s.atTime t).request p m (isCommand m 7) mCountclr)

def mRestart : State → State × Option Ans := now_ State.restartOp

def execRestart (p : Port) (m : Msg) (t : Time) (s : State) : Out :=
  .next ((s.atTime t).request p m (isCommand m 5) mRestart)

def mDigestNow : State → State × Option Ans := now_ State.digestNowOp

def execDigestNow (p : Port) (m : Msg) (t : Time) (s : State) : Out :=
  .next ((s.atTime t).request p m (isCommand m 6) mDigestNow)

/-! ### Images (R358) -/

def mImageBegin (p : Port) (m : Msg) : State → State × Option Ans := now_ (fun s => s.imageBeginOp p m.arg0.toNat)
def mImageBlock (p : Port) (m : Msg) : State → State × Option Ans := now_ (fun s => s.imageBlockOp p m.arg0.toNat (msgBody m))
def mImageEnd (p : Port) (m : Msg) : State → State × Option Ans := fun s => s.imageEndOp p m
def mImageSwitch (p : Port) : State → State × Option Ans := now_ (fun s => s.imageSwitchOp p)

def execImageBegin (p : Port) (m : Msg) (t : Time) (s : State) : Out :=
  .next ((s.atTime t).request p m (isCommand m 2) (mImageBegin p m))

def execImageBlock (p : Port) (m : Msg) (t : Time) (s : State) : Out :=
  .next ((s.atTime t).request p m (m.type == 5) (mImageBlock p m))

def execImageEnd (p : Port) (m : Msg) (t : Time) (s : State) : Out :=
  .next ((s.atTime t).request p m (isCommand m 3) (mImageEnd p m))

def execImageSwitch (p : Port) (m : Msg) (t : Time) (s : State) : Out :=
  .next ((s.atTime t).request p m (isCommand m 4) (mImageSwitch p))

/-- The check that IMAGE_END began ends, and its request is answered. -/
def State.imageChecked (s : State) : State :=
  let r := s.checkTarget
  match r.1.img.ending with
  | some (p, m) => (r.1.setImg { r.1.img with ending := none }).respond p m (ansOf r.2)
  | none => r.1

def execImageCheckDone (t : Time) (s : State) : Out :=
  let s := s.atTime t
  .next (if s.islandOn 9 && s.imgState == 2 then s.imageChecked else s)

/-! ### The service port (R361) -/

/-- What executes a request, by its type and code. -/
def byMessage (p : Port) (m : Msg) : State → State × Option Ans :=
  match m.type.toNat, m.arg1.toNat with
  | 1, _ => mRead p m
  | 2, _ => mWrite p m
  | 3, _ => mReadCh m
  | 4, 1 => mHostevt m
  | 4, 2 => mImageBegin p m
  | 4, 3 => mImageEnd p m
  | 4, 4 => mImageSwitch p
  | 4, 5 => mRestart
  | 4, 6 => mDigestNow
  | 4, 7 => mCountclr
  | 5, _ => mImageBlock p m
  | 6, 1 => now_ (fun s => s.ranteReadOp m.arg0)
  | 6, 2 => now_ (fun s => s.ranteWriteOp (msgBody m))
  | 7, _ => mAck
  | _, _ => now_ (fun s => (s, ansOf .range))

/-- The header and payload of request `m` as they stand in a frame (R352); STAT of a request is 0. -/
def wireBytes (m : Msg) : List Byte :=
  leBytes 1 m.type.toNat ++ leBytes 1 m.flags.toNat ++ leBytes 1 0 ++ leBytes 1 m.node.toNat ++ leBytes 2 m.seq.toNat ++
    leBytes 2 m.len.toNat ++ leBytes 4 m.arg0.toNat ++ leBytes 2 m.epoch.toNat ++ leBytes 2 m.arg1.toNat ++ msgBody m

/-- A frame within a session: a bad CRC is counted; a request is executed and answered. -/
def State.serviceFrame (s : State) (m : Msg) (crc : Word) : State :=
  if !(s.svcOn && s.flag R.SVC_STAT F.SVC_STAT_SESSION) then s
  else if crc = crc32c (wireBytes m) then s.svcReq m (byMessage .svc m)
  else s.addFld R.SVC_STAT F.SVC_STAT_BADFR 1

def execSvcFrame (m : Msg) (crc : Word) (t : Time) (s : State) : Out := .next ((s.atTime t).serviceFrame m crc)

end Sys2Proof.Machine
end

