-- ==== Sys2Proof/Machine/Supplies.lean ====
section
/-! DEFINITION. Supplies, holdover, the bank, the internal temperature, the mirror of the operating time (R319,
R368–R372, R385, R387), and the indicators (R414). -/

namespace Sys2Proof.Machine

/-! ### The inputs (R369) -/

/-- The present flag and the voltage field of input VIN_A (false) or VIN_B (true). -/
def vinFlag (b : Bool) : Fld := if b then F.PWR_STAT_VINB else F.PWR_STAT_VINA
def vinField (b : Bool) : Fld := if b then F.PWR_VIN_VINB else F.PWR_VIN_VINA

/-- Input `b` is found present or lost at `v` × 10 mV: E02 (R369, R387). -/
def State.setVin (s : State) (b on : Bool) (v : Nat) : State :=
  if !s.sup.running || s.flag R.PWR_STAT (vinFlag b) == on then s
  else
    let s := (s.setFlag R.PWR_STAT (vinFlag b) on).setFld R.PWR_VIN (vinField b) v
    s.raise 0x02 b.toNat (v + 2 ^ 16 * on.toNat)

/-- An input is present from 17.0 V on and lost below 16.0 V; the commands say that it has stood so for 20 ms or 1 ms. -/
def execVinPresent (b : Bool) (v : BitVec 16) (s : State) : Out :=
  .next (if 1700 ≤ v.toNat then s.setVin b true v.toNat else s)

def execVinLost (b : Bool) (v : BitVec 16) (s : State) : Out :=
  .next (if v.toNat < 1600 then s.setVin b false v.toNat else s)

/-! ### Holdover (R370, R371) -/

/-- The bank stands at `mv`. -/
def State.setBankVoltage (s : State) (mv : Nat) : State :=
  (s.setFld R.PWR_HOLD F.PWR_HOLD_VBANK mv).setFlag R.PWR_STAT F.PWR_STAT_HOLDRDY (4900 ≤ mv)

/-- LOST to every step that has begun and not ended. -/
def State.markLost (s : State) : State :=
  foldS (fun s k => if s.stepState k == stBegun then s.putStep k stLost else s) s (List.range 16)

/-- The mirrors of holdover: operating time, DI counters, everything not yet mirrored (R370 steps 2 and 3). -/
def State.mirrorAll (s : State) : State :=
  let s := s.applyIf (s.powered 8) (fun s => s.setSup { s.sup with optMirror := s.opsec })
  (s.mirrorCounters.mirrorPd5).applyIf (s.powered 4) State.writeMirror

/-- Holdover begins. -/
def State.beginHold (s : State) (mv : Nat) : State :=
  let s := (s.setBankVoltage mv).setFlag R.PWR_STAT F.PWR_STAT_VALID false
  let s := (s.setFlag R.PWR_STAT F.PWR_STAT_HOLD true).setSup { s.sup with holdAt := s.now }
  let s := (s.addFld R.PWR_CNT F.PWR_CNT_LOSS 1).raise 0x03 0 mv
  (s.markLost).mirrorAll

def execSupplyLoss (mv : BitVec 16) (t : Time) (s : State) : Out :=
  let s := s.atTime t
  .next (if s.sup.running && !(s.flag R.PWR_STAT F.PWR_STAT_HOLD) then s.beginHold mv.toNat else s)

/-- How long holdover has lasted, µs. -/
def State.holdTime (s : State) : Nat := (s.now - s.sup.holdAt) / us

/-- The node rides through; the panel goes on with its head request (R25, R288). -/
def State.rideThrough (s : State) (mv : Nat) : State :=
  let us_ := s.holdTime
  let s := (s.setBankVoltage mv).setFlag R.PWR_STAT F.PWR_STAT_VALID true
  let s := (s.setFlag R.PWR_STAT F.PWR_STAT_HOLD false).addFld R.PWR_CNT F.PWR_CNT_RIDE 1
  ((s.wr R.PWR_LAST (BitVec.ofNat 32 us_)).raise 0x03 1 (data2 mv us_)).kick

/-- The bank at or below which PD2–PD10 are switched off, mV. -/
def bankFloor : Nat := 4300

def execHoldoverRideThrough (mv : BitVec 16) (t : Time) (s : State) : Out :=
  let s := s.atTime t
  .next (if s.sup.running && s.flag R.PWR_STAT F.PWR_STAT_HOLD && decide (bankFloor < mv.toNat) then s.rideThrough mv.toNat else s)

/-! ### The FIFO before the node stops (R329) -/

/-- One entry of the FIFO is written. -/
def State.writeHead (s : State) : State := match s.mor.fifo with
  | [] => s
  | r :: _ => s.writeRecord r

/-- Every entry of the FIFO is written. -/
def State.writeFifo (s : State) : State := s.mor.fifo.foldl (fun s _ => s.writeHead) s

/-- Every trigger that waits goes through the event controller. -/
def State.takeTriggers (s : State) : State :=
  let l := s.mor.triggers
  l.foldl State.takeTrigger (s.setMor { s.mor with triggers := [] })

/-- The severities of what cannot be written, added to the counts `l`: the FIFO, the triggers that have not reached the
event controller, and what a PD4 cycle has counted. -/
def State.unwritten (s : State) (l : List Nat) : List Nat :=
  let l := s.mor.triggers.foldl (fun l x => bump l (s.trigSev x)) (s.mor.fifo.foldl (fun l r => bump l r.sev) l)
  l.mapIdx (fun i n => n + s.sup.lostAtPd4.getD i 0)

/-- The node stops: PD2–PD10 are off, and with them every state they hold alone. What a start does not read back stays
as it stands until the start resets it. -/
def State.stop (s : State) (on : Nat) : State :=
  let s := (s.setFld R.PWR_DOM F.PWR_DOM_ON on).setFld R.PWR_DOM F.PWR_DOM_CYC 0
  let s := s.setFld R.CLK_LOCK F.CLK_LOCK_LOCK (if on.testBit 1 then 3 else 1)
  let s := (((s.setCore .a coreReset).setCore .b coreReset).setGate gateReset).keepCrossings fun _ => false
  s.setSup { s.sup with running := false, alarmReady := false, waiting := [], active := none, lockWait := [],
                        pwrReq := none, restartReq := none, lostAtPd4 := [0, 0, 0, 0] }

/-- Holdover ends with the bank at 4.3 V (R371): the records of its first 150 ms are written, the others counted, PD2–PD10
switched off, SHUTDOWN written to the ledger; PD0 runs on (R315). -/
def State.shutDown (s : State) : State :=
  let s := s.applyIf (s.powered 4) State.takeTriggers
  let s := s.applyIf s.writerOn State.writeFifo
  let s := s.setSup { s.sup with lostAtSupply := s.unwritten s.sup.lostAtSupply }
  let s := s.setMor { s.mor with fifo := [], triggers := [] }
  let s := (s.wr R.PWR_LAST (BitVec.ofNat 32 s.holdTime)).dropGlissade.dropGlasshouse
  let s := s.setSup { s.sup with nextCause := 0, ledger := match s.sup.ledger with
    | [] => []
    | r :: l => { r with shutdown := true } :: l }
  s.stop 1

/-- HOLDOVER_SHUTDOWN: the bank falls to 4.3 V. -/
def execHoldoverShutdown (t : Time) (s : State) : Out :=
  let s := s.atTime t
  .next (if s.sup.running && s.flag R.PWR_STAT F.PWR_STAT_HOLD then (s.setBankVoltage bankFloor).shutDown else s)

/-! ### The bank (R372) -/

/-- HOLDLOW sets, with E08: CAP and the charge time in ms. -/
def State.setHoldLow (s : State) (ms_ : Nat) : State :=
  if s.flag R.PWR_STAT F.PWR_STAT_HOLDLOW then s
  else (s.setFlag R.PWR_STAT F.PWR_STAT_HOLDLOW true).raise 0x08 0 (data2 (s.fld R.PWR_HOLD F.PWR_HOLD_CAP) ms_)

/-- The capacitance in mF of a charge by 1.0 A to 5 V within `ms_`. -/
def bankCap (ms_ : Nat) : Nat := ms_ / 5

/-- The charge ends at `mv`; one from below 1 V measures the bank. -/
def State.chargeDone (s : State) (ms_ : Nat) (measured : Bool) (mv : Nat) : State :=
  let s := s.setBankVoltage mv
  let s := s.applyIf measured (fun s => s.setFld R.PWR_HOLD F.PWR_HOLD_CAP (Nat.min (bankCap ms_) 65535))
  if s.fld R.PWR_HOLD F.PWR_HOLD_CAP < 900 then s.setHoldLow ms_ else s

def execHoldChargeDone (ms_ : Word) (fromBelow1V : Bool) (mv : BitVec 16) (s : State) : Out :=
  .next (if s.sup.running then s.chargeDone ms_.toNat fromBelow1V mv.toNat else s)

def execHoldChargeTimeout (ms_ : Word) (mv : BitVec 16) (s : State) : Out :=
  .next (if s.sup.running && decide (10000 ≤ ms_.toNat) then
      (let s := s.setBankVoltage mv.toNat
       if mv.toNat < 4900 then s.setHoldLow ms_.toNat else s)
    else s)

/-! ### The operating time (R319) -/

def execOperatingTimeMirror (t : Time) (s : State) : Out :=
  let s := s.atTime t
  .next (if s.sup.running && s.powered 8 then s.setSup { s.sup with optMirror := s.opsec } else s)

/-! ### The internal temperature (R385) -/

/-- The reading of sensor TS`i`, 0.1 °C. -/
def State.sensorTemp (s : State) (i : Nat) : Int :=
  s.sfld (R.PWR_TEMP (i / 2)) (if i % 2 = 0 then F.PWR_TEMP_TSA else F.PWR_TEMP_TSB)

/-- A reading within −50 °C to +150 °C. -/
def tempValid (v : Int) : Bool := -500 ≤ v && v ≤ 1500

/-- The sensor of the highest valid reading, which is the internal temperature. -/
def State.hottest (s : State) : Option (Nat × Int) :=
  (((List.range 4).map (fun i => (i, s.sensorTemp i))).filter (fun x => tempValid x.2)).foldl
    (fun m x => match m with
      | some y => if y.2 < x.2 then some x else m
      | none => some x) none

/-- A condition that has held since `old` holds on, begins now, or does not hold. -/
def State.since (s : State) (holds : Bool) (old : Option Time) : Option Time :=
  if holds then some (old.getD s.now) else none

/-- How long the internal temperature has stood beyond each threshold; with no valid reading it counts as at the first. -/
def State.trackTemp (s : State) : State :=
  let v := s.hottest.map (fun x => x.2)
  let up (lim : Int) : Bool := match v with | some x => lim ≤ x | none => false
  let down (lim : Int) : Bool := match v with | some x => x ≤ lim | none => false
  s.setSup { s.sup with hot85 := s.since (v.isNone || up 850) s.sup.hot85, cool85 := s.since (down 800) s.sup.cool85,
                        hot100 := s.since (up 1000) s.sup.hot100, cool100 := s.since (down 900) s.sup.cool100 }

/-- The four sensors are read. -/
def State.takeTemps (s : State) (ts0 ts1 ts2 ts3 : BitVec 16) : State :=
  (s.wrAll [(R.PWR_TEMP 0, ts0 ++ ts1), (R.PWR_TEMP 1, ts2 ++ ts3)]).trackTemp

def execTempSample (ts0 ts1 ts2 ts3 : BitVec 16) (s : State) : Out :=
  .next (if s.powered 1 then s.takeTemps ts0 ts1 ts2 ts3 else s)

/-- A threshold is passed that has stood since `since` for `len`, by the sensor and the temperature named. -/
def State.thermalDue (s : State) (since : Option Time) (len : Time) (sensor : Fin 4) (temp : BitVec 16) : Bool :=
  s.sup.running &&
    (match since with | some t0 => decide (t0 + len ≤ s.now) | none => false) &&
    (match s.hottest with | some (i, v) => i == sensor.val && v == temp.toInt | none => true)

/-- E06 of threshold `what` (0 T85 set, 1 cleared, 2 T100 set, 3 cleared). -/
def State.noteTemp (s : State) (sensor temp what : Nat) : State := s.raise 0x06 sensor (temp + 2 ^ 16 * what)

/-- T85 sets or clears: the loop limit and the deferral of the panel follow (R41, R295). -/
def State.setT85 (s : State) (on : Bool) (sensor : Nat) (temp : BitVec 16) : State :=
  let s := s.setFlag R.PWR_STAT F.PWR_STAT_T85 on
  let s := s.applyIf (s.powered 4) (fun s => s.setFlag R.AFE_LOOP F.AFE_LOOP_THERM on)
  (s.noteTemp sensor temp.toNat (if on then 0 else 1)).setDefer on temp

/-- THERMAL_T85 comes when the temperature has stood at 85 °C or above for 1 s (log 1). -/
def execThermalT85 (sensor : Fin 4) (temp : BitVec 16) (s : State) : Out :=
  .next (match s.sup.hot85 with
    | some hot =>
      let late := s.atTime (hot + sec)
      if late.thermalDue late.sup.hot85 sec sensor temp && !(s.flag R.PWR_STAT F.PWR_STAT_T85) then late.setT85 true sensor temp
      else s
    | none => s)

def execThermalT85End (sensor : Fin 4) (temp : BitVec 16) (t : Time) (s : State) : Out :=
  let s := s.atTime t
  .next (if s.thermalDue s.sup.cool85 (10 * sec) sensor temp && s.flag R.PWR_STAT F.PWR_STAT_T85 then s.setT85 false sensor temp else s)

/-- T100: PD10 is switched off for temperature (R277, R295). -/
def State.heatOff (s : State) (sensor temp : Nat) : State :=
  let s := (s.setFlag R.PWR_STAT F.PWR_STAT_T100 true).noteTemp sensor temp 2
  if s.powered 10 then (s.dropDomain 10).switchOff 10 else s

def execThermalT100 (sensor : Fin 4) (temp : BitVec 16) (t : Time) (s : State) : Out :=
  let s := s.atTime t
  .next (if s.thermalDue s.sup.hot100 sec sensor temp && !(s.flag R.PWR_STAT F.PWR_STAT_T100) then s.heatOff sensor temp.toNat else s)

/-- T100 ends: PD10 is powered and handled as at the end of a cycle, unless a cycle of it still runs. -/
def State.heatOn (s : State) (sensor temp : Nat) : State :=
  let s := (s.setFlag R.PWR_STAT F.PWR_STAT_T100 false).noteTemp sensor temp 3
  if (s.sup.active.map (fun e => e.1)) == some 10 then s else (s.switchOn 10).restoreDomain 10

def execThermalT100End (sensor : Fin 4) (temp : BitVec 16) (t : Time) (s : State) : Out :=
  let s := s.atTime t
  .next (if s.thermalDue s.sup.cool100 (60 * sec) sensor temp && s.flag R.PWR_STAT F.PWR_STAT_T100 then s.heatOn sensor temp.toNat else s)

/-! ### Indicators (R414) -/

/-- What an indicator shows. -/
inductive Lamp where
  | off
  | steady
  | flash (hz : Nat)
deriving DecidableEq, Repr

/-- PWR. -/
def State.lampPwr (s : State) : Lamp :=
  if s.flag R.PWR_STAT F.PWR_STAT_HOLD then .flash 2 else if s.flag R.PWR_STAT F.PWR_STAT_VALID then .steady else .off

/-- RUN. -/
def State.lampRun (s : State) : Lamp :=
  if s.sup.running && s.noImage then .flash 1
  else if !s.sup.alarmReady then .off
  else if s.twinMode then .steady else .flash 4

/-- RING. -/
def State.lampRing (s : State) : Lamp :=
  match s.portState 0 == 1, s.portState 1 == 1 with
  | true, true => if s.ringAddr = 0 then .off else .steady
  | false, false => .off
  | _, _ => if s.ringAddr = 0 then .off else .flash 1

/-- FAULT. -/
def State.lampFault (s : State) : Lamp :=
  if s.flag R.PWR_STAT F.PWR_STAT_T85 || s.flag R.PWR_STAT F.PWR_STAT_T100 then .flash 2
  else if (List.range 9).any s.failed || s.permIsolated .a || s.permIsolated .b || s.img.digErr ||
      s.flag R.PWR_STAT F.PWR_STAT_HOLDLOW || s.flag R.SYS_START F.SYS_START_LEDGLOST ||
      s.fld R.SYS_THAW F.SYS_THAW_SKIP != 0 then .steady
  else .off

end Sys2Proof.Machine
end

