-- ==== Sys2Proof/Machine/Tap.lean ====
section
/-! DEFINITION. The IEEE 1149.1 test access port of CI15 (R411): its controller, its instructions and its registers, one
clock of TCK at a time. No row of the operation table brings TCK, and in service TRSTn stands low (log 71). -/

namespace Sys2Proof.Machine

/-! ### The controller -/

/-- The state that follows a rising edge of TCK with TMS 1. -/
def TapState.onHigh : TapState → TapState
  | .testLogicReset => .testLogicReset
  | .runTestIdle => .selectDr
  | .selectDr => .selectIr
  | .captureDr => .exit1Dr
  | .shiftDr => .exit1Dr
  | .exit1Dr => .updateDr
  | .pauseDr => .exit2Dr
  | .exit2Dr => .updateDr
  | .updateDr => .selectDr
  | .selectIr => .testLogicReset
  | .captureIr => .exit1Ir
  | .shiftIr => .exit1Ir
  | .exit1Ir => .updateIr
  | .pauseIr => .exit2Ir
  | .exit2Ir => .updateIr
  | .updateIr => .selectDr

/-- The state that follows a rising edge of TCK with TMS 0. -/
def TapState.onLow : TapState → TapState
  | .testLogicReset => .runTestIdle
  | .runTestIdle => .runTestIdle
  | .selectDr => .captureDr
  | .captureDr => .shiftDr
  | .shiftDr => .shiftDr
  | .exit1Dr => .pauseDr
  | .pauseDr => .pauseDr
  | .exit2Dr => .shiftDr
  | .updateDr => .runTestIdle
  | .selectIr => .captureIr
  | .captureIr => .shiftIr
  | .shiftIr => .shiftIr
  | .exit1Ir => .pauseIr
  | .pauseIr => .pauseIr
  | .exit2Ir => .shiftIr
  | .updateIr => .runTestIdle

/-! ### Instructions and registers -/

/-- All ones is BYPASS, and so is a code of no other instruction, as IEEE 1149.1 has it (PRESUMED, log 71). -/
def tapInstr (code : BitVec 4) : TapInstr :=
  if code = 0xF then .bypass
  else if code = Config.tapIdcode then .idcode
  else if code = Config.tapSample then .sample
  else if code = Config.tapExtest then .extest
  else .bypass

/-- The identification code: version 1, part 0x0128, manufacturer field 0x000. -/
def tapIdcodeWord : Word := 0x10128001

/-- The XS contacts of 29–227 that carry digital levels, in ascending order (R405, R411): DO, DI, the PWM, NFLT and ENA
contacts of the axes, the single-ended contacts of the ring ports with PSEL, the address contacts. One cell each, without
the five contacts of the TAP itself (PRESUMED, log 71). -/
def boundaryContacts : List Nat :=
  (List.range 48).map (fun n => 29 + n) ++ (List.range 48).map (fun n => 77 + n) ++
    ((List.range 6).map (fun a => [0, 1, 2, 3, 6, 7].map (fun i => 127 + 9 * a + i))).flatten ++
    ([181, 197].map (fun b => [4, 5, 6, 7, 8, 9, 10, 11, 12, 15].map (fun i => b + i))).flatten ++
    (List.range 7).map (fun j => 213 + j)

/-- The level at a contact: a DO contact shows its driver, a DI contact what stands at the terminal; another's is free
(log 6). -/
def State.contactLevel (s : State) (c : Nat) : Bool × State :=
  if 29 ≤ c && c < 77 then (s.driven (c - 29), s)
  else if 77 ≤ c && c < 125 then (s.trp.native.getLsbD (c - 77), s)
  else (s.freshWord.1.getLsbD 0, s.freshWord.2)

/-- The levels at all boundary contacts. -/
def State.boundaryLevels (s : State) : List Bool × State :=
  boundaryContacts.foldl (fun x c => let r := x.2.contactLevel c; (x.1 ++ [r.1], r.2)) ([], s)

/-- Capture-DR of the selected register: BYPASS one 0, IDCODE its word, the boundary register the levels. -/
def State.captureDr (s : State) : State :=
  match s.tap.instr with
  | .bypass => s.setTap { s.tap with dr := [false] }
  | .idcode => s.setTap { s.tap with dr := (List.range 32).map tapIdcodeWord.getLsbD }
  | _ => let r := s.boundaryLevels; r.2.setTap { r.2.tap with dr := r.1 }

/-- Update-DR: the boundary register's outputs take what has been shifted in. -/
def Tap.updateDr (x : Tap) : Tap :=
  match x.instr with
  | .sample => { x with cells := x.dr }
  | .extest => { x with cells := x.dr }
  | _ => x

/-- The level EXTEST puts on boundary contact `c`, where it is selected. -/
def Tap.drives (x : Tap) (c : Nat) : Option Bool :=
  if x.instr = .extest then x.cells[boundaryContacts.idxOf c]? else none

/-- What the controller does in the state it is in at a rising edge of TCK. -/
def State.tapAct (s : State) (tdi : Bool) : State :=
  let x := s.tap
  match x.ctl with
  | .testLogicReset => s.setTap { x with instr := .idcode }
  | .captureIr => s.setTap { x with irShift := 1 }
  | .shiftIr => s.setTap { x with irShift := BitVec.cons tdi (x.irShift.extractLsb' 1 3), tdo := x.irShift.getLsbD 0 }
  | .updateIr => s.setTap { x with instr := tapInstr x.irShift }
  | .captureDr => s.captureDr
  | .shiftDr => s.setTap { x with dr := x.dr.tail ++ [tdi], tdo := x.dr.headD false }
  | .updateDr => s.setTap x.updateDr
  | _ => s

/-- One clock of TCK. TRSTn low holds Test-Logic-Reset. -/
def State.tapClock (s : State) (tms tdi : Bool) : State :=
  if s.tap.trstn then
    let s := s.tapAct tdi
    s.setTap { s.tap with ctl := if tms then s.tap.ctl.onHigh else s.tap.ctl.onLow }
  else s.setTap tapReset

/-- A level at TRSTn: low resets the TAP at once. -/
def State.tapTrst (s : State) (high : Bool) : State :=
  s.setTap (if high then { s.tap with trstn := true } else tapReset)

end Sys2Proof.Machine
end

