-- ==== Sys2Proof/Machine/Start.lean ====
section
/-! DEFINITION. The start (R373–R382, R390): the Thaw ledger, the choice of each step's mode, the steps with their work,
alternate and skipped form, time limits, alarm-ready, the close of the start record; and the restart the node orders
(R329). The command NODE_START runs every step whose end time is among its operands; each acts at its own instant. -/

namespace Sys2Proof.Machine

/-! ### The step table (R379) -/

/-- The steps in an order in which every step follows those of its After column. Sequencers come before plans, the
order in which claims are taken (R254). -/
def stepOrder : List Nat := [14, 1, 2, 3, 4, 6, 7, 8, 9, 5, 10, 11, 12]

/-- The After column. -/
def stepAfter (k : Nat) : List Nat :=
  match k with
  | 1 => [0] | 2 => [1] | 3 => [1] | 4 => [2] | 5 => [9] | 6 => [2] | 7 => [2] | 8 => [2] | 9 => [2] | 10 => [2]
  | 11 => [3, 4, 10] | 12 => [10] | 14 => [0] | _ => []

/-- The Limit column, µs. -/
def stepLimit (k : Nat) : Nat :=
  match k with
  | 0 => 500 | 1 => 1000 | 2 => 4000 | 3 => 3000 | 4 => 1000 | 5 => 200 | 6 => 2000 | 7 => 1000 | 8 => 60000
  | 9 => 500 | 10 => 2000 | 11 => 100 | 12 => 8000 | _ => 200

/-- The steps with an alternate. -/
def hasAlternate (k : Nat) : Bool := 1 ≤ k && k ≤ 8

/-- The steps a node in NOIMG runs (R380). -/
def noimgStep (k : Nat) : Bool := [0, 1, 2, 7, 8, 14, 15].contains k

/-- The steps that end before the node is alarm-ready (R374). -/
def readySteps : List Nat := [2, 3, 4, 5, 9, 10, 11, 12]

/-- The END time of a step that does not end by itself (StartInfo.ends). -/
def neverEnds : Nat := 0xFFFFFFFF

/-! ### E01 and THAW -/

/-- E01 for step `k` (R387): its mode, and the state of its entry in the newest earlier record. -/
def State.noteStep (s : State) (k mode : Nat) : State :=
  let prev := match s.sup.ledger with
    | _ :: r :: _ => fldOf F.SYS_STEP_STATE (r.entries.getD k 0)
    | _ => 0
  s.raise 0x01 k (mode + 2 ^ 8 * prev)

/-- Step `k` runs its alternate in this start. -/
def State.markAlt (s : State) (k : Nat) : State :=
  s.setFld R.SYS_THAW F.SYS_THAW_ALT (setBitN (s.fld R.SYS_THAW F.SYS_THAW_ALT) k true)

/-- Step `k` falls back to its alternate within the start (R377, R378). -/
def State.fallBack (s : State) (k : Nat) : State := ((s.putMode k mdBoth).markAlt k).noteStep k mdBoth

/-! ### The ledger at S00 (R376, R378, R380) -/

/-- The entries of the record of the start that has ended. -/
def State.presentEntries (s : State) : List Word := (List.range 16).map (fun k => s.rd (R.SYS_STEP k))

/-- The entries of that record take their place in the ledger. -/
def State.closeRecord (s : State) : State :=
  match s.sup.ledger with
  | [] => s
  | r :: l => s.setSup { s.sup with ledger := { r with entries := s.presentEntries } :: l }

/-- A ledger both copies of which fail their CRC is set up empty (R376). -/
def State.emptyLedger (s : State) : State :=
  let s := s.setSup { s.sup with ledger := [], altCnt := [] }
  let s := (s.setFld R.SYS_THAW F.SYS_THAW_SKIP 0).setFlag R.SYS_START F.SYS_START_SELB false
  let s := foldS (fun s k => s.setFld (R.SYS_STEP k) F.SYS_STEP_ALTCNT 0) s (List.range 16)
  (s.setFlag R.SYS_START F.SYS_START_LEDGLOST true).raise 0x0A 1 0

/-- The copies of the ledger are read. -/
def State.readLedger (s : State) (ok0 ok1 : Bool) : State :=
  if ok0 && ok1 then s else if ok0 || ok1 then s.raise 0x0A 0 0 else s.emptyLedger

/-- The entry of step `k` in the newest earlier record asks for its alternate, or counts a failure (R378). -/
def endedBadly (w : Word) : Bool :=
  let st := fldOf F.SYS_STEP_STATE w
  st == stBegun || st == stFailed || st == stTimeout || fldOf F.SYS_STEP_MODE w == mdBoth

/-- The mode of step `k` (R378); `forced`: R380 charges the image. -/
def State.chooseMode (s : State) (k : Nat) (prev : Word) (forced : Bool) : State :=
  if s.skipFlag k then s.putMode k mdSkipped
  else if fldOf F.SYS_STEP_STATE prev == stLost && !forced then
    s.putMode k (if fldOf F.SYS_STEP_MODE prev == mdAlt then mdAlt else mdNormal)
  else if endedBadly prev || forced then
    if hasAlternate k then
      if s.altCount k == 2 then (s.setSkip k true).putMode k mdSkipped
      else (s.setAltCount k (s.altCount k + 1)).putMode k mdAlt
    else (s.setAltCount k (Nat.min 3 (s.altCount k + 1))).putMode k mdNormal
  else (s.setAltCount k 0).putMode k mdNormal

/-- A step without an alternate has ended badly on three starts in a row (R380). -/
def State.imageCharged (s : State) : Bool := (List.range 16).any (fun k => !(hasAlternate k) && s.altCount k == 3)

/-- The modes of all steps: those of the other steps first, then S02, which R380 may force. -/
def State.chooseModes (s : State) (prev : List Word) : State :=
  let s := foldS (fun s k => s.chooseMode k (prev.getD k 0) false) s ((List.range 16).filter (fun k => k != 2))
  let s := s.chooseMode 2 (prev.getD 2 0) s.imageCharged
  foldS (fun s k =>
    let m := s.stepMode k
    if m == mdNormal then s else (s.applyIf (m == mdAlt) (fun s => s.markAlt k)).noteStep k m) s (List.range 16)

/-! ### The registers and memories at a start (R8, R390, R425) -/

/-- The blocks of PD1–PD10: every register but the calendar's. -/
def startResets (a : Nat) : Bool := blockNo a != 0x400C

/-- What stands at the terminals stays, and so does what the inputs last saw there. -/
def Trp.outside (x : Trp) : Trp :=
  { trpReset with native := x.native, acIn := x.acIn, rawSeen := x.rawSeen, movedAt := x.movedAt, tapSeen := x.tapSeen,
                  tapAt := x.tapAt }

/-- Every domain but PD0 starts anew: registers at their Reset column, volatile memories empty. -/
def State.clearNode (s : State) : State :=
  let s := s.resetRegs startResets
  let s := ((s.dropChans.dropSeqs.keepCrossings fun _ => false).setRotating ⟨none, false, false, s.now, false⟩).setLim limReset
  let s := (s.setTrp s.trp.outside).setAlm almReset
  let s := (((s.setCore .a coreReset).setCore .b coreReset).setGate gateReset).setRing ringReset
  let s := s.setDio { dioReset with retained := s.dio.retained }
  let s := foldS (fun s b => s.setBank b { bankReset with fitA := (s.bank b).fitA, fitB := (s.bank b).fitB }) s (List.range 9)
  let s := s.setMor { moraineReset with slots := s.mor.slots, everFull := s.mor.everFull }
  let s := s.setImg { s.img with units := [], exec := ⟨[], [], [], 10⟩, passHost := false, digErr := false, ending := none }
  (s.clearGlasshouse.clearRante).setTap tapReset

/-- The operating time resumes (R319). -/
def State.resumeOptime (s : State) (kept : Bool) : State :=
  let m := if kept then s.sup.optMirror + 1 else 0
  let r := match newestOf s.records with | some x => x.2.2.opsec + 1 | none => 0
  s.setSup { s.sup with optBase := Nat.max m r * 1000000, startAt := s.now }

/-- The retained state was written under this address and passes its CRC (R379, R384). -/
def State.retainedValid (s : State) : Bool := s.sup.info.retainedOk && s.sup.retAddr == some s.sup.addr

/-- The supervisor's own state at a start. -/
def State.clearSup (s : State) (info : StartInfo) : State :=
  s.setSup { s.sup with running := true, alarmReady := false, waiting := [], active := none, history := [], lockWait := [],
                        pwrReq := none, restartReq := none, contactsNow := info.contacts.toNat,
                        addr := contactAddr info.contacts.toNat, pselA := info.pselA, pselB := info.pselB, info := info,
                        lostAtPd4 := [0, 0, 0, 0], nsUntil := [], hot85 := none, cool85 := none, hot100 := none,
                        cool100 := none }

/-- The start record: power-cycle count, cause, operating seconds (R319, R376). -/
def State.openRecord (s : State) : State :=
  let s := (s.addFld R.SYS_START F.SYS_START_PCC 1).setFld R.SYS_START F.SYS_START_CAUSE s.sup.nextCause
  let r : StartRec := ⟨s.fld R.SYS_START F.SYS_START_PCC, s.opsec, s.sup.nextCause, false, []⟩
  s.setSup { s.sup with ledger := (r :: s.sup.ledger).take 8, nextCause := 0 }

/-- What waits for a start: the lock that stood open, the counts of the recorder, the events of CI0 (R313, R329,
R386). -/
def State.raiseWaiting (s : State) (openBy : Nat) (kept : Bool) : State :=
  let s := s.applyIf (openBy != 0) (fun s => s.raise 0x07 1 openBy)
  let s := s.applyIf kept (fun s => (s.noteLost 2 s.sup.lostAtSupply).noteLost 3 s.sup.lostAtRestart)
  let s := s.setSup { s.sup with lostAtSupply := [0, 0, 0, 0], lostAtRestart := [0, 0, 0, 0] }
  let l := s.rtc.away
  foldS (fun s (e : Nat × Nat × Nat) => s.raise e.1 e.2.1 e.2.2) (s.setRtc { s.rtc with away := [] }) l

/-- The supplies and clocks as S00 finds them: PD0 and PD1 run (R369, R373). -/
def State.showSupplies (s : State) (info : StartInfo) : State :=
  let s := (s.setFlag R.PWR_STAT F.PWR_STAT_VALID true).wr R.PWR_VIN (info.vin.1 ++ info.vin.2)
  let s := s.setFld R.CLK_LOCK F.CLK_LOCK_LOCK 3
  let s := (s.setFlag R.CLK_REF F.CLK_REF_XT25_OK info.xt25Ok).setFlag R.CLK_REF F.CLK_REF_XT32_OK (!s.rtc.xt32Bad)
  s.wr R.SYS_JOIN 0xFFFFFFFF

/-- S00: the ledger is read, the modes are chosen, the power-cycle count rises, the record is opened. -/
def State.beginStart (s : State) (info : StartInfo) : State :=
  let openBy := if s.lockOpen then s.fld R.SYS_LOCK F.SYS_LOCK_BY else 0
  let s := s.closeRecord
  let altCnts := s.sup.altCnt
  let s := (s.clearNode).clearSup info
  let kept := s.retainedValid
  let s := (s.resumeOptime kept).showSupplies info
  let s := foldS (fun s k => s.setFld (R.SYS_STEP k) F.SYS_STEP_ALTCNT (altCnts.getD k 0)) s (List.range 16)
  let s := s.readLedger info.ledgerOk0 info.ledgerOk1
  let prev := ((s.sup.ledger.head?).map (fun r => r.entries)).getD []
  ((s.openRecord).chooseModes prev).raiseWaiting openBy kept

/-! ### The work of the steps (R379) -/

/-- S01: the islands lock, on XT25 or on RC8, and PD2–PD10 are released (R12, R373). -/
def State.release (s : State) (rc8 : Bool) : State :=
  let s := s.setFld R.CLK_REF F.CLK_REF_SRC rc8.toNat
  (s.setFld R.PWR_DOM F.PWR_DOM_ON 0x7FF).setFld R.CLK_LOCK F.CLK_LOCK_LOCK 0x7FFF

/-- The image of a selection. -/
def State.imageOf (s : State) (b : Bool) : Image := if b then s.img.imgB else s.img.imgA

/-- Image `b` reads back as it was stored. -/
def State.readsBack (s : State) (b : Bool) : Bool := if b then s.sup.info.imageOkB else s.sup.info.imageOkA

/-- The check of image `b` at S02; E34 for an invalid trip program (R158, R350). -/
def State.tryImage (s : State) (b : Bool) : Bool × State :=
  let m := (s.imageOf b).bytes
  if !((s.imageOf b).valid && s.readsBack b && (imageFault s.img.key m none s.sup.addr).isNone) then (false, s)
  else match s.tripFault (Config.imageContents m).tables with
    | some off => (false, s.raise 0x34 off 0)
    | none => (true, s)

/-- Image `b` executes; the trip program and the DIO configuration load into PD5 during the pass. -/
def State.takeImage (s : State) (b : Bool) : State :=
  let s := (s.setFlag R.SYS_START F.SYS_START_IMG b).setFlag R.SYS_START F.SYS_START_NOIMG false
  let s := s.setImg { s.img with exec := Config.imageContents (s.imageOf b).bytes }
  ((s.showDigests).loadTrip).loadDio

/-- No image executes (R360). -/
def State.takeNone (s : State) : State := s.setFlag R.SYS_START F.SYS_START_NOIMG true

/-- S02 tries image `b`: whether it executes. -/
def State.bootImage (s : State) (b : Bool) : Bool × State :=
  let r := s.tryImage b
  if r.1 then (true, r.2.takeImage b) else (false, r.2)

/-- The image selected for the start. -/
def State.selectedB (s : State) : Bool := s.flag R.SYS_START F.SYS_START_SELB

/-- S02 by its alternate: the other image, or none. -/
def State.otherImage (s : State) : Bool × State :=
  let r := s.bootImage (!s.selectedB)
  if r.1 then r else (false, r.2.takeNone)

/-- S03: the fits of each bank that passes (R37). -/
def State.takeFit (s : State) (b : Nat) (x : (Nat × Nat) × (Nat × Nat)) : State :=
  s.setBank b { s.bank b with fitA := some x.1, fitB := some x.2 }

/-- The start test: the banks that pass, and whether all do; the bank under test where it stopped. -/
def State.startTest (s : State) : Bool × State :=
  let i := s.sup.info
  let s := foldS (fun s b => match i.fits[b]? with
    | some x => if i.bankBad.contains b then s else s.takeFit b x
    | none => s) s (List.range 9)
  let bad := i.bankBad.filter (fun b => b < 9)
  (bad.isEmpty, s.setSup { s.sup with bankUnderTest := bad.head? })

/-- S04: the banks whose coefficients pass; the factory set for the others (R81). -/
def State.loadCoefs (s : State) : Bool × State :=
  let bad := s.sup.info.calBad.filter (fun b => b < 9)
  let s := foldS (fun s b => if bad.contains b then s.factoryCoefs b else s.regionCoefs b) s (List.range 9)
  (bad.isEmpty, s)

/-- The power-fail state of output `n` (R375). -/
def State.powerFail (s : State) (keep : BitVec 48) (asOff : Bool) (n : Nat) : Bool :=
  !asOff && s.flag (R.DIO_DOCFG n) F.DIO_DOCFG_PFS && keep.getLsbD n

/-- S05: the commanded states, then the DO command stage and Pergola (R158, R373, R375). -/
def State.setPowerFail (s : State) (asOff : Bool) : State :=
  let keep := s.dio.retained
  let s := foldS (fun s n => s.setCommanded n (s.powerFail keep asOff (s.lead n))) s (List.range 48)
  (s.beginTrip).refreshAll

/-- S06: the panel. The value says whether the header of the journal passes. -/
def State.loadPanel (s : State) : Bool × State :=
  let r := s.loadGlasshouse s.sup.info.mapsBad
  if !r.1 then (true, r.2)
  else if s.sup.info.journalOk then (true, r.2.replayJournal s.sup.info.rowsBad)
  else (false, r.2)

/-- S06 skipped: the panel is not driven. -/
def State.skipPanel (s : State) : State :=
  let r := s.loadGlasshouse s.sup.info.mapsBad
  (r.2.setPanel { r.2.pnl with skipped := true }).setFlag R.PNL_STAT F.PNL_STAT_JLOST true

/-- S07 by its alternate: the index is rebuilt in the background (R329). -/
def State.rebuildIndex (s : State) : State := s.setFlag R.REC_STAT F.REC_STAT_REBUILD true

/-- The registers whose fields marked P the retained state holds (R390, R425); the fits and coefficients lie in the
calibration region, the flags and counts of the steps in the ledger, the recorder's in its index, the panel's in its
journal. -/
def inRetained (a : Nat) : Bool :=
  match blockNo a with
  | 0x4001 => true
  | 0x4002 => true
  | 0x4004 => inRow a (R.AFE_CHLEAD 0) 16 132 || a == R.AFE_ROTST || inRow a (R.AFE_ROTLAST 0) 4 9
  | _ => false

/-- The fields marked P of these registers return to what the owning chapter starts from. -/
def State.clearRetained (s : State) : State :=
  foldS (fun s (e : Nat × Word) => if inRetained e.1
    then s.wr e.1 ((e.2 &&& ~~~(pMask e.1)) ||| (resetWord e.1 &&& pMask e.1)) else s) s s.regs

/-- The calibration region: the coefficients of the banks. -/
def inCalibration (a : Nat) : Bool := (List.range 9).any (fun b => (coefRegs b).contains a)

/-- A retained record that fails gives way to the defaults (R379, R384). -/
def State.defaultRetained (s : State) : State :=
  let s := s.clearRetained
  let s := (s.setMirror (tabKeep inCalibration s.mirror)).setDio { s.dio with retained := 0 }
  (s.setRtc { s.rtc with trimRetained := 0 }).setSup { s.sup with optMirror := 0 }

/-- A persistent latch at a start (R151, R379): its mirrored state; 1 in a record that fails its CRC; 0 in a record of
another address, or with none. -/
def State.latchAtStart (s : State) (l : Nat) : Bool :=
  s.flag (R.TRP_LCFG l) F.TRP_LCFG_EN && s.flag (R.TRP_LCFG l) F.TRP_LCFG_PERSIST &&
    (match s.sup.retAddr with
     | none => false
     | some a =>
       if !s.sup.info.retainedOk then true
       else a == s.sup.addr && (tabGet resetWord s.mirror R.TRP_LATCH).getLsbD l)

/-- A core is permanently isolated at a start: the node starts SOLO on the other (R233). -/
def State.startMode (s : State) : State :=
  if s.permIsolated .a then (s.setFld R.TWN_STAT F.TWN_STAT_MODE 1).setFld R.TWN_STAT F.TWN_STAT_CORE 1
  else if s.permIsolated .b then s.setFld R.TWN_STAT F.TWN_STAT_MODE 1
  else s

/-- S09: the retained state. -/
def State.readRetained (s : State) : State :=
  let latches := (List.range 16).foldl (fun n l => setBitN n l (s.latchAtStart l)) 0
  let s := if s.retainedValid then s else s.defaultRetained
  let s := (s.fromMirror).setFld R.TRP_LATCH F.TRP_LATCH_TL latches
  let kept := (List.range 16).map R.DIO_CNT ++ (List.range 4).map R.DIO_VFCNT
  let s := s.wrAll (kept.map (fun a => (a, tabGet resetWord s.mirror a)))
  let s := s.setSup { s.sup with retAddr := some s.sup.addr }
  (s.toMirror [R.TRP_LATCH]).startMode

/-- S10: the configuration (R55, R63, R253, R277, R323). -/
def State.loadConfig (s : State) : State :=
  let s := (s.loadPd4.loadFront).claimProgram
  (foldS State.showCurrents s (List.range 9)).loadGlissade true

/-- S11: the sequencers start from a new epoch; a FAILED bank is served by BS, and so is the
one S03 names where it did not test (R79, R82, R379). -/
def State.startBanks (s : State) : State :=
  let s := s.startScan
  match s.sup.bankUnderTest with
  | some b => if b < 8 && 8 ≤ s.served && s.bsState == 0 && s.stepMode 3 != mdNormal && s.stepMode 3 != mdSkipped then s.handOver b 2 else s
  | none => s

/-- S12: limits, alarms and plans (R121, R129, R137, R181), with the claims that follow those of the sequencers in the
order of R254: limit regions, pairs, plans and engineers, the rotating test. -/
def State.loadTables (s : State) : State :=
  ((((s.loadLimits true).claimPairs).loadAlarms true).settleLimits).enableRotation.2

/-- S14: TRIM is reloaded where OSF is set (R308). -/
def State.readTrust (s : State) : State :=
  if s.flag R.RTC_TRUST F.RTC_TRUST_OSF then s.putTrim (signOf 13 s.rtc.trimRetained) else s

/-- S08, which begins at the end of S02: port A before port B, by its alternate B before A, skipped both together. -/
def State.startPorts (s : State) (first : Option Nat) : State :=
  s.loadRing first (s.sup.startAt + s.fld (R.SYS_STEP 2) F.SYS_STEP_END * us)

/-- The work of step `k` in its normal form, and whether it succeeds. -/
def State.workNormal (s : State) (k : Nat) : Bool × State :=
  match k with
  | 1 => (s.sup.info.xt25Ok, s.release false)
  | 2 => s.bootImage s.selectedB
  | 3 => s.startTest
  | 4 => s.loadCoefs
  | 5 => (true, s.setPowerFail false)
  | 6 => s.loadPanel
  | 7 => (s.sup.info.indexOk, s)
  | 8 => (true, s.startPorts (some 0))
  | 9 => (true, s.readRetained)
  | 10 => (true, s.loadConfig)
  | 11 => (true, s.startBanks)
  | 12 => (true, s.loadTables)
  | 14 => (true, s.readTrust)
  | _ => (true, s)

/-- The alternate of step `k`. `whole`: the step runs it from its beginning (S04 then takes the factory set for every
bank, S06 reads no journal). -/
def State.workAlt (s : State) (k : Nat) (whole : Bool) : Bool × State :=
  match k with
  | 1 => (true, s.release true)
  | 2 => s.otherImage
  | 4 => (true, if whole then foldS State.factoryCoefs s (List.range 9) else s)
  | 5 => (true, s.setPowerFail true)
  | 6 =>
    let r := if whole then s.loadGlasshouse s.sup.info.mapsBad else (true, s)
    (true, if r.1 then r.2.panelAlternate else r.2)
  | 7 => (true, s.rebuildIndex)
  | 8 => (true, s.startPorts (some 1))
  | _ => (true, s)

/-- Step `k` is skipped. -/
def State.workSkipped (s : State) (k : Nat) : State :=
  match k with
  | 1 => s.release true
  | 2 => s.takeNone
  | 4 => foldS State.nominalCoefs s (List.range 9)
  | 5 => s.setPowerFail true
  | 6 => s.skipPanel
  | 8 => s.startPorts none
  | _ => s

/-- The normal form of step `k`, with its fallback in the same start: FAILED, mode 3, E01 (R377). -/
def State.runNormal (s : State) (k : Nat) : Nat × State :=
  let r := s.workNormal k
  if r.1 then (stOk, r.2) else (stFailed, ((r.2.workAlt k false).2).fallBack k)

/-- Step `k` in its mode: the state it ends in. -/
def State.runForm (s : State) (k : Nat) : Nat × State :=
  let m := s.stepMode k
  if m == mdSkipped then (stSkipped, s.workSkipped k)
  else if m == mdAlt then
    let r := s.workAlt k true
    (if r.1 then stOk else stFailed, r.2)
  else s.runNormal k

/-! ### The run of the steps -/

/-- Apply `f` at the instant `e` µs after supplies valid. -/
def State.atMicros (s : State) (e : Nat) (f : State → State) : State :=
  (f (s.setNow (s.sup.startAt + e * us))).setNow s.now

/-- END of step `k`, µs. -/
def State.stepEnd (s : State) (k : Nat) : Nat := s.fld (R.SYS_STEP k) F.SYS_STEP_END

/-- When step `k` begins: at the end of the last step of its After column. -/
def State.stepStart (s : State) (k : Nat) : Nat := (stepAfter k).foldl (fun m j => Nat.max m (s.stepEnd j)) 0

/-- Step `k` may begin. -/
def State.stepDue (s : State) (k : Nat) : Bool :=
  s.stepState k == stNotRun && (stepAfter k).all s.stepEnded &&
    (noimgStep k || !(s.flag R.SYS_START F.SYS_START_NOIMG))

/-- Step `k` runs: to its end where it ends within its limit, otherwise it stays BEGUN. A skipped step ends at once. -/
def State.runStep (s : State) (k : Nat) : State :=
  if !(s.stepDue k) then s
  else
    let from_ := s.stepStart k
    let to_ := if s.stepMode k == mdSkipped then from_ else Nat.max from_ (s.sup.info.ends.getD k 0)
    let s := s.putStep k stBegun
    if from_ + stepLimit k < to_ then s
    else s.atMicros to_ (fun s =>
      let r := s.runForm k
      r.2.endStepAt k r.1 to_)

/-- Every step that may begin runs. -/
def State.advance (s : State) : State := foldS State.runStep s stepOrder

/-- S00, then the steps. -/
def State.startNode (s : State) (info : StartInfo) : State :=
  let s := s.beginStart info
  let s := s.endStepAt 0 stOk (Nat.min (info.ends.getD 0 0) (stepLimit 0))
  s.advance

def execNodeStart (info : StartInfo) (t : Time) (s : State) : Out :=
  let s := s.atTime t
  .next (if s.sup.running then s else s.startNode info)

/-! ### Time limits (R377) -/

/-- The µs from supplies valid at which step `k` reaches its limit; S13 has ten ticks from alarm-ready. -/
def State.stepDeadline (s : State) (k : Nat) : Nat :=
  if k = 13 then (s.rd R.SYS_ARDY).toNat + 10 * s.img.exec.tickMs * 1000 else s.stepStart k + stepLimit k

/-- S03 cut off: the entry names the bank under test, which is not among the operands: a free value (log 6). -/
def State.nameBank (s : State) (k : Nat) : State :=
  if k = 3 && s.sup.bankUnderTest.isNone then
    let r := s.freshWord
    r.2.setSup { s.sup with bankUnderTest := some (r.1.toNat % 9) }
  else s

/-- Step `k` is ended by the supervisor. -/
def State.timeOut (s : State) (k : Nat) : State :=
  let s := (s.endStep k stTimeout).nameBank k
  if hasAlternate k && s.stepMode k == mdNormal then
    ((s.workAlt k true).2.fallBack k).advance
  else s.orderRestart 2 (s.now + 10 * ms)

def execStartStepTimeout (k : Fin 16) (t : Time) (s : State) : Out :=
  let s := s.atTime t
  .next (if s.sup.running && s.stepRuns k && decide (s.stepDeadline k ≤ s.sinceStart) then s.timeOut k else s)

/-! ### Alarm-ready and the end of the start (R374, R379, R387) -/

/-- The steps alarm-ready waits for have ended. -/
def State.readyDue (s : State) : Bool := !(s.noImage) && !s.sup.alarmReady && readySteps.all s.stepEnded

/-- The node is alarm-ready. -/
def State.becomeReady (s : State) : State :=
  let s := s.wr R.SYS_ARDY (BitVec.ofNat 32 s.sinceStart)
  (s.setSup { s.sup with alarmReady := true }).firstPass.putStep 13 stBegun

def execAlarmReady (t : Time) (s : State) : Out :=
  let s := s.atTime t
  .next (if s.powered 4 && s.readyDue then s.becomeReady else s)

/-- Every step but S15 that this start runs has ended. -/
def State.closeDue (s : State) : Bool :=
  let run := (List.range 15).filter (fun k => !(s.flag R.SYS_START F.SYS_START_NOIMG) || noimgStep k)
  s.sup.running && s.stepState 15 == stNotRun && run.all s.stepEnded

/-- The steps that were skipped, as bits. -/
def State.skippedBits (s : State) : Nat :=
  (List.range 16).foldl (fun n k => setBitN n k (s.stepState k == stSkipped)) 0

/-- S15: E00. -/
def State.closeStart (s : State) : State :=
  let noimg := s.flag R.SYS_START F.SYS_START_NOIMG
  let ardy := if noimg then 0xFFFFFFFF else (s.rd R.SYS_ARDY).toNat
  let s := s.endStep 15 stOk
  s.raise 0x00 (s.fld R.SYS_START F.SYS_START_CAUSE)
    (ardy + 2 ^ 32 * s.fld R.SYS_THAW F.SYS_THAW_ALT + 2 ^ 48 * s.skippedBits)

def execStartClose (t : Time) (s : State) : Out :=
  let s := s.atTime t
  .next (if s.closeDue then s.closeStart else s)

/-! ### A restart the node orders (R329, R356, R382) -/

/-- The summary records enter the FIFO at once. -/
def State.enterSummaries (s : State) : State :=
  let codes := (List.range 128).filter (fun c => (s.bucket c).suppressed != 0)
  let before := s.mor.triggers
  let s := foldS State.summarize (s.setMor { s.mor with triggers := [] }) codes
  let lost := s.mor.pendLost
  let s := (s.setMor { s.mor with pendLost := [0, 0, 0, 0] }).noteLost 0 lost
  let drops := s.mor.pendDrop
  let s := s.applyIf (anyCount drops) (fun s =>
    (s.setMor { s.mor with pendDrop := [0, 0, 0, 0] }).raiseS 0x6A 0 (counts4 drops) false (topSev drops))
  let l := s.mor.triggers
  (l.foldl State.enterFifo (s.setMor { s.mor with triggers := before }))

/-- The recorder is flushed; what cannot be written is counted for the next start. A restart after a PD1 fault loses
what it loses uncounted. -/
def State.flush (s : State) (cause : Nat) : State :=
  if cause == 3 then s.setMor { s.mor with fifo := [], triggers := [] }
  else
    let s := s.applyIf (s.powered 4) State.takeTriggers
    let s := s.applyIf s.writerOn (fun s => (s.writeFifo).enterSummaries.writeFifo)
    let s := s.setSup { s.sup with lostAtRestart := s.unwritten s.sup.lostAtRestart }
    s.setMor { s.mor with fifo := [], triggers := [] }

/-- The node restarts: the domains but PD0 and PD1 are switched off, and the next start carries the cause. -/
def State.restartNow (s : State) (cause : Nat) : State :=
  let s := ((s.flush cause).dropGlissade).dropGlasshouse
  (s.stop 3).setSup { (s.stop 3).sup with nextCause := cause }

def execOrderedRestart (t : Time) (s : State) : Out :=
  let s := s.atTime t
  .next (match s.sup.restartReq with
    | some (cause, _) => if s.sup.running then s.restartNow cause else s
    | none => s)

end Sys2Proof.Machine
end

