-- ==== Sys2Proof/Machine/Dispatch.lean ====
section
/-! DEFINITION. What each command does: one arm per constructor of `Instr`, each one call of that command's meaning. -/

namespace Sys2Proof.Machine

/-- The effect of command `i` on the node. -/
def exec (i : Instr) (s : State) : Host.Outcome State Fault Refusal :=
  match i with
  -- requests of the host and the clock islands (R6, R12–R17)
  | .registerWrite p addr val t => Sys2Proof.Machine.execRegisterWrite p addr val t s
  | .crossingTransfer x send => Sys2Proof.Machine.execCrossingTransfer x send s
  | .xt25Fail t => Sys2Proof.Machine.execXt25Fail t s
  | .islandLockLost ix t => Sys2Proof.Machine.execIslandLockLost ix t s
  | .lockRegainTimeout ix => Sys2Proof.Machine.execLockRegainTimeout ix s
  | .islandWatchdogExpiry ix => Sys2Proof.Machine.execIslandWatchdogExpiry ix s
  | .memoryEccUncorrectable d => Sys2Proof.Machine.execMemoryEccUncorrectable d s
  | .domainCycle t => Sys2Proof.Machine.execDomainCycle t s
  | .domainBack shadowOk t => Sys2Proof.Machine.execDomainBack shadowOk t s
  -- the snapshot (R20, R193)
  | .tickBoundary t => Sys2Proof.Machine.execTickBoundary t s
  | .snapshotCopyComplete c => Sys2Proof.Machine.execSnapshotCopyComplete c s
  | .snapshotSwap c => Sys2Proof.Machine.execSnapshotSwap c s
  -- the front end (R34–R55)
  | .afeConfigEdit p addr val t => Sys2Proof.Machine.execAfeConfigEdit p addr val t s
  | .bridgeSupplyLimit b => Sys2Proof.Machine.execBridgeSupplyLimit b s
  | .bridgeSupplyLimitEnd b => Sys2Proof.Machine.execBridgeSupplyLimitEnd b s
  | .loopSwitchStartClose t => Sys2Proof.Machine.execLoopSwitchStartClose t s
  | .vloopOvercurrent ma t => Sys2Proof.Machine.execVloopOvercurrent ma t s
  | .vloopLow v ix => Sys2Proof.Machine.execVloopLow v ix s
  | .vloopRecover v ix => Sys2Proof.Machine.execVloopRecover v ix s
  | .loopSwitchLimit n t => Sys2Proof.Machine.execLoopSwitchLimit n t s
  | .loopRetry n t => Sys2Proof.Machine.execLoopRetry n t s
  | .loopRetryEnd n held t => Sys2Proof.Machine.execLoopRetryEnd n held t s
  | .clampConduct n t => Sys2Proof.Machine.execClampConduct n t s
  | .clampClear n t => Sys2Proof.Machine.execClampClear n t s
  | .conversionResult q uLow uUp atCompliance clamp excUv t => Sys2Proof.Machine.execConversionResult q uLow uUp atCompliance clamp excUv t s
  -- the spare bank (R79–R88)
  | .rotationIntervalExpiry t => Sys2Proof.Machine.execRotationIntervalExpiry t s
  | .bsHandover t => Sys2Proof.Machine.execBsHandover t s
  | .rotatingTestComplete r t => Sys2Proof.Machine.execRotatingTestComplete r t s
  | .bsGiveBack t => Sys2Proof.Machine.execBsGiveBack t s
  | .bsSelfTestComplete r t => Sys2Proof.Machine.execBsSelfTestComplete r t s
  | .rotctlForce p v => Sys2Proof.Machine.execRotctlForce p v s
  | .rotctlRetest p mask => Sys2Proof.Machine.execRotctlRetest p mask s
  | .rotctlInterval p v t => Sys2Proof.Machine.execRotctlInterval p v t s
  -- channel programs (R94–R107)
  | .halt q => Sys2Proof.Machine.execHalt q s
  | .sel q sets pos t => Sys2Proof.Machine.execSel q sets pos t s
  | .selSpacingEnd q t => Sys2Proof.Machine.execSelSpacingEnd q t s
  | .exc q src term iexc t => Sys2Proof.Machine.execExc q src term iexc t s
  | .swp q set2 t => Sys2Proof.Machine.execSwp q set2 t s
  | .stl q n t => Sys2Proof.Machine.execStl q n t s
  | .stlWaitEnd q t => Sys2Proof.Machine.execStlWaitEnd q t s
  | .cnv q filt k t => Sys2Proof.Machine.execCnv q filt k t s
  | .pairSet q half k t => Sys2Proof.Machine.execPairSet q half k t s
  | .pairFix q half k t => Sys2Proof.Machine.execPairFix q half k t s
  | .pairRelease q half => Sys2Proof.Machine.execPairRelease q half s
  | .chk q filt t => Sys2Proof.Machine.execChk q filt t s
  | .chkVerdict q ref first second clamp t => Sys2Proof.Machine.execChkVerdict q ref first second clamp t s
  | .put q last t => Sys2Proof.Machine.execPut q last t s
  | .waitt q tmr => Sys2Proof.Machine.execWaitt q tmr s
  | .scanTimerTick ix t => Sys2Proof.Machine.execScanTimerTick ix t s
  | .sync q tmo id mask t => Sys2Proof.Machine.execSync q tmo id mask t s
  | .syncRelease id => Sys2Proof.Machine.execSyncRelease id s
  | .syncTimeout q t => Sys2Proof.Machine.execSyncTimeout q t s
  | .loop q ctr tgt n => Sys2Proof.Machine.execLoop q ctr tgt n s
  | .jmp q tgt => Sys2Proof.Machine.execJmp q tgt s
  | .seqStop p q t => Sys2Proof.Machine.execSeqStop p q t s
  | .seqStart p q t => Sys2Proof.Machine.execSeqStart p q t s
  | .seqStoreWrite p q a w t => Sys2Proof.Machine.execSeqStoreWrite p q a w t s
  | .scanTimerPeriodWrite p ix v t => Sys2Proof.Machine.execScanTimerPeriodWrite p ix v t s
  | .scanTimerPhaseWrite p ix v t => Sys2Proof.Machine.execScanTimerPhaseWrite p ix v t s
  -- Snowline (R118–R139)
  | .limitEvaluate t => Sys2Proof.Machine.execLimitEvaluate t s
  | .delayDue e t => Sys2Proof.Machine.execDelayDue e t s
  | .inhibitReleaseExpiry ix t => Sys2Proof.Machine.execInhibitReleaseExpiry ix t s
  | .limitScrub e r => Sys2Proof.Machine.execLimitScrub e r s
  | .limStageEntry p idx t => Sys2Proof.Machine.execLimStageEntry p idx t s
  | .limStageIndex p idx t => Sys2Proof.Machine.execLimStageIndex p idx t s
  | .limStageSet p idx t => Sys2Proof.Machine.execLimStageSet p idx t s
  | .limStageApply t => Sys2Proof.Machine.execLimStageApply t s
  -- Pergola (R142–R159)
  | .tripInputChange n lvl t => Sys2Proof.Machine.execTripInputChange n lvl t s
  | .glitchFilterPass n t => Sys2Proof.Machine.execGlitchFilterPass n t s
  | .acOutputChange c v t => Sys2Proof.Machine.execAcOutputChange c v t s
  | .fcEdge f t => Sys2Proof.Machine.execFcEdge f t s
  | .fcTimeout f t => Sys2Proof.Machine.execFcTimeout f t s
  | .tripStoreScrub w r => Sys2Proof.Machine.execTripStoreScrub w r s
  -- alarms and call plans (R163–R182)
  | .ackGroup g tick t => Sys2Proof.Machine.execAckGroup g tick t s
  | .silenceGroup g => Sys2Proof.Machine.execSilenceGroup g s
  | .ackEntry e tick t => Sys2Proof.Machine.execAckEntry e tick t s
  | .shelveEntry e secs t => Sys2Proof.Machine.execShelveEntry e secs t s
  | .unshelveEntry e t => Sys2Proof.Machine.execUnshelveEntry e t s
  | .outOfService e => Sys2Proof.Machine.execOutOfService e s
  | .returnToService e t => Sys2Proof.Machine.execReturnToService e t s
  | .shelveExpiry e t => Sys2Proof.Machine.execShelveExpiry e t s
  | .startPlan pl cause t => Sys2Proof.Machine.execStartPlan pl cause t s
  | .endPlan pl t => Sys2Proof.Machine.execEndPlan pl t s
  | .acceptLevel pl level t => Sys2Proof.Machine.execAcceptLevel pl level t s
  | .silencePlan pl t => Sys2Proof.Machine.execSilencePlan pl t s
  | .armWatchKeeper pl t => Sys2Proof.Machine.execArmWatchKeeper pl t s
  | .disarmWatchKeeper pl t => Sys2Proof.Machine.execDisarmWatchKeeper pl t s
  | .selectWatch target engineer t => Sys2Proof.Machine.execSelectWatch target engineer t s
  | .planLevelTimer pl t => Sys2Proof.Machine.execPlanLevelTimer pl t s
  | .acceptInputEdge di t => Sys2Proof.Machine.execAcceptInputEdge di t s
  | .watchCodeStable code t => Sys2Proof.Machine.execWatchCodeStable code t s
  | .wkPrewarning pl t => Sys2Proof.Machine.execWkPrewarning pl t s
  | .wkExpiry pl t => Sys2Proof.Machine.execWkExpiry pl t s
  | .wkResetInput di t => Sys2Proof.Machine.execWkResetInput di t s
  | .retainedMirrorWrite t => Sys2Proof.Machine.execRetainedMirrorWrite t s
  -- Belvedere (R186–R216)
  | .coresLeaveReset t => Sys2Proof.Machine.execCoresLeaveReset t s
  | .add c wd wa wb => Sys2Proof.Machine.execAdd c wd wa wb s
  | .sub c wd wa wb => Sys2Proof.Machine.execSub c wd wa wb s
  | .adds c wd wa wb => Sys2Proof.Machine.execAdds c wd wa wb s
  | .subs c wd wa wb => Sys2Proof.Machine.execSubs c wd wa wb s
  | .and c wd wa wb => Sys2Proof.Machine.execAnd c wd wa wb s
  | .or c wd wa wb => Sys2Proof.Machine.execOr c wd wa wb s
  | .xor c wd wa wb => Sys2Proof.Machine.execXor c wd wa wb s
  | .nor c wd wa wb => Sys2Proof.Machine.execNor c wd wa wb s
  | .sll c wd wa wb => Sys2Proof.Machine.execSll c wd wa wb s
  | .srl c wd wa wb => Sys2Proof.Machine.execSrl c wd wa wb s
  | .sra c wd wa wb => Sys2Proof.Machine.execSra c wd wa wb s
  | .slt c wd wa wb => Sys2Proof.Machine.execSlt c wd wa wb s
  | .sltu c wd wa wb => Sys2Proof.Machine.execSltu c wd wa wb s
  | .min c wd wa wb => Sys2Proof.Machine.execMin c wd wa wb s
  | .max c wd wa wb => Sys2Proof.Machine.execMax c wd wa wb s
  | .minu c wd wa wb => Sys2Proof.Machine.execMinu c wd wa wb s
  | .maxu c wd wa wb => Sys2Proof.Machine.execMaxu c wd wa wb s
  | .abs c wd wa wb => Sys2Proof.Machine.execAbs c wd wa wb s
  | .clz c wd wa wb => Sys2Proof.Machine.execClz c wd wa wb s
  | .sxt c wd wa wb => Sys2Proof.Machine.execSxt c wd wa wb s
  | .zxt c wd wa wb => Sys2Proof.Machine.execZxt c wd wa wb s
  | .mul c wd wa wb => Sys2Proof.Machine.execMul c wd wa wb s
  | .mulh c wd wa wb => Sys2Proof.Machine.execMulh c wd wa wb s
  | .mulhu c wd wa wb => Sys2Proof.Machine.execMulhu c wd wa wb s
  | .muls c wd wa wb => Sys2Proof.Machine.execMuls c wd wa wb s
  | .div c wd wa wb => Sys2Proof.Machine.execDiv c wd wa wb s
  | .divu c wd wa wb => Sys2Proof.Machine.execDivu c wd wa wb s
  | .rem c wd wa wb => Sys2Proof.Machine.execRem c wd wa wb s
  | .remu c wd wa wb => Sys2Proof.Machine.execRemu c wd wa wb s
  | .jr c wd wa wb => Sys2Proof.Machine.execJr c wd wa wb s
  | .jalr c wd wa wb => Sys2Proof.Machine.execJalr c wd wa wb s
  | .addi c wd wa imm => Sys2Proof.Machine.execAddi c wd wa imm s
  | .addis c wd wa imm => Sys2Proof.Machine.execAddis c wd wa imm s
  | .andi c wd wa imm => Sys2Proof.Machine.execAndi c wd wa imm s
  | .ori c wd wa imm => Sys2Proof.Machine.execOri c wd wa imm s
  | .xori c wd wa imm => Sys2Proof.Machine.execXori c wd wa imm s
  | .slti c wd wa imm => Sys2Proof.Machine.execSlti c wd wa imm s
  | .sltiu c wd wa imm => Sys2Proof.Machine.execSltiu c wd wa imm s
  | .lui c wd wa imm => Sys2Proof.Machine.execLui c wd wa imm s
  | .slli c wd wa wb q => Sys2Proof.Machine.execSlli c wd wa wb q s
  | .srli c wd wa wb q => Sys2Proof.Machine.execSrli c wd wa wb q s
  | .srai c wd wa wb q => Sys2Proof.Machine.execSrai c wd wa wb q s
  | .sxti c wd wa wb q => Sys2Proof.Machine.execSxti c wd wa wb q s
  | .zxti c wd wa wb q => Sys2Proof.Machine.execZxti c wd wa wb q s
  | .lw c wd wa imm => Sys2Proof.Machine.execLw c wd wa imm s
  | .lh c wd wa imm => Sys2Proof.Machine.execLh c wd wa imm s
  | .lhu c wd wa imm => Sys2Proof.Machine.execLhu c wd wa imm s
  | .lb c wd wa imm => Sys2Proof.Machine.execLb c wd wa imm s
  | .lbu c wd wa imm => Sys2Proof.Machine.execLbu c wd wa imm s
  | .sw c wd wa imm => Sys2Proof.Machine.execSw c wd wa imm s
  | .sh c wd wa imm => Sys2Proof.Machine.execSh c wd wa imm s
  | .sb c wd wa imm => Sys2Proof.Machine.execSb c wd wa imm s
  | .beq c wa wb off => Sys2Proof.Machine.execBeq c wa wb off s
  | .bne c wa wb off => Sys2Proof.Machine.execBne c wa wb off s
  | .blt c wa wb off => Sys2Proof.Machine.execBlt c wa wb off s
  | .bge c wa wb off => Sys2Proof.Machine.execBge c wa wb off s
  | .bltu c wa wb off => Sys2Proof.Machine.execBltu c wa wb off s
  | .bgeu c wa wb off => Sys2Proof.Machine.execBgeu c wa wb off s
  | .j c off => Sys2Proof.Machine.execJ c off s
  | .jal c off => Sys2Proof.Machine.execJal c off s
  | .smp c wd wa imm => Sys2Proof.Machine.execSmp c wd wa imm s
  | .lst c wd wa imm => Sys2Proof.Machine.execLst c wd wa imm s
  | .gst c wd wa imm => Sys2Proof.Machine.execGst c wd wa imm s
  | .tmaArm c wd wa imm => Sys2Proof.Machine.execTmaArm c wd wa imm s
  | .tmaDisarm c wd wa imm => Sys2Proof.Machine.execTmaDisarm c wd wa imm s
  | .tmt c wd wa imm => Sys2Proof.Machine.execTmt c wd wa imm s
  | .evw c wd wa wb fn => Sys2Proof.Machine.execEvw c wd wa wb fn s
  | .cmt c wd wa wb fn t => Sys2Proof.Machine.execCmt c wd wa wb fn t s
  | .cmte c wd wa wb fn t => Sys2Proof.Machine.execCmte c wd wa wb fn t s
  | .snap c wd wa wb fn t => Sys2Proof.Machine.execSnap c wd wa wb fn t s
  | .sys c wx sr code => Sys2Proof.Machine.execSys c wx sr code s
  | .brk c wx sr code => Sys2Proof.Machine.execBrk c wx sr code s
  | .rsm c wx sr code => Sys2Proof.Machine.execRsm c wx sr code s
  | .mfs c wx sr code => Sys2Proof.Machine.execMfs c wx sr code s
  | .mts c wx sr code => Sys2Proof.Machine.execMts c wx sr code s
  | .pairedReadServed t => Sys2Proof.Machine.execPairedReadServed t s
  | .fetchLineArrival c line ok => Sys2Proof.Machine.execFetchLineArrival c line ok s
  | .sramEccError c t => Sys2Proof.Machine.execSramEccError c t s
  -- the Gatehouse (R217–R229)
  | .cmteDeadline t => Sys2Proof.Machine.execCmteDeadline t s
  | .selfCheckComplete failA failB crcA crcB t => Sys2Proof.Machine.execSelfCheckComplete failA failB crcA crcB t s
  | .resyncBulkDone dirty => Sys2Proof.Machine.execResyncBulkDone dirty s
  | .resyncFinalDone us dirty t => Sys2Proof.Machine.execResyncFinalDone us dirty t s
  | .twnReadmit p v t => Sys2Proof.Machine.execTwnReadmit p v t s
  -- commits of Snowline, Pergola and the switching (R218, R126, R238)
  | .doSet n on t => Sys2Proof.Machine.execDoSet n on t s
  | .derivedChannelWrite ch w t => Sys2Proof.Machine.execDerivedChannelWrite ch w t s
  | .inhibitBit ix on t => Sys2Proof.Machine.execInhibitBit ix on t s
  | .counterReset n => Sys2Proof.Machine.execCounterReset n s
  -- digital inputs and outputs (R234–R256)
  | .diFilterChange n lvl t => Sys2Proof.Machine.execDiFilterChange n lvl t s
  | .diCountEdge n rising => Sys2Proof.Machine.execDiCountEdge n rising s
  | .counterMirror => Sys2Proof.Machine.execCounterMirror s
  | .freqGateEnd f k spanTicks => Sys2Proof.Machine.execFreqGateEnd f k spanTicks s
  | .wireBreakSet n ix t => Sys2Proof.Machine.execWireBreakSet n ix t s
  | .wireBreakClear n ix t => Sys2Proof.Machine.execWireBreakClear n ix t s
  | .doThermalShutdown n t => Sys2Proof.Machine.execDoThermalShutdown n t s
  | .doThermalRestart n => Sys2Proof.Machine.execDoThermalRestart n s
  | .openLoadSet n offState => Sys2Proof.Machine.execOpenLoadSet n offState s
  | .openLoadClear n offState => Sys2Proof.Machine.execOpenLoadClear n offState s
  | .offPulseStart n t => Sys2Proof.Machine.execOffPulseStart n t s
  | .offPulseEnd n below4V t => Sys2Proof.Machine.execOffPulseEnd n below4V t s
  | .backfeedDetect n => Sys2Proof.Machine.execBackfeedDetect n s
  | .backfeedClear n => Sys2Proof.Machine.execBackfeedClear n s
  | .crosswireDetect b => Sys2Proof.Machine.execCrosswireDetect b s
  | .pairScanStart p t => Sys2Proof.Machine.execPairScanStart p t s
  | .pairScanAbort p t => Sys2Proof.Machine.execPairScanAbort p t s
  | .pairScanStep above10V t => Sys2Proof.Machine.execPairScanStep above10V t s
  | .vfWarn g v => Sys2Proof.Machine.execVfWarn g v s
  | .vfWarnEnd g v => Sys2Proof.Machine.execVfWarnEnd g v s
  | .vfHold g v => Sys2Proof.Machine.execVfHold g v s
  | .vfRestoring g v warn t => Sys2Proof.Machine.execVfRestoring g v warn t s
  | .vfOff g v t => Sys2Proof.Machine.execVfOff g v t s
  | .restoreSlot g v steady t => Sys2Proof.Machine.execRestoreSlot g v steady t s
  | .dioConfigEdit p addr val t => Sys2Proof.Machine.execDioConfigEdit p addr val t s
  -- Glissade (R260–R277)
  | .movea ax v => Sys2Proof.Machine.execMovea ax v s
  | .mover ax v => Sys2Proof.Machine.execMover ax v s
  | .jog ax v => Sys2Proof.Machine.execJog ax v s
  | .axisStop ax => Sys2Proof.Machine.execAxisStop ax s
  | .estop ax => Sys2Proof.Machine.execEstop ax s
  | .setpar ax par v => Sys2Proof.Machine.execSetpar ax par v s
  | .home ax => Sys2Proof.Machine.execHome ax s
  | .axisEnable ax => Sys2Proof.Machine.execAxisEnable ax s
  | .axisDisable ax => Sys2Proof.Machine.execAxisDisable ax s
  | .tblwr ax tbl k v => Sys2Proof.Machine.execTblwr ax tbl k v s
  | .tblsel ax tbl switch publish => Sys2Proof.Machine.execTblsel ax tbl switch publish s
  | .gtgt ax v => Sys2Proof.Machine.execGtgt ax v s
  | .ggo ax mask => Sys2Proof.Machine.execGgo ax mask s
  | .preset ax v => Sys2Proof.Machine.execPreset ax v s
  | .axisClear ax => Sys2Proof.Machine.execAxisClear ax s
  | .profileUpdate ax ia ib => Sys2Proof.Machine.execProfileUpdate ax ia ib s
  | .moveComplete ax => Sys2Proof.Machine.execMoveComplete ax s
  | .iholdTimer ax => Sys2Proof.Machine.execIholdTimer ax s
  | .driverFault ax => Sys2Proof.Machine.execDriverFault ax s
  | .loopLost ax phaseB meas => Sys2Proof.Machine.execLoopLost ax phaseB meas s
  | .estopLineAssert ax => Sys2Proof.Machine.execEstopLineAssert ax s
  | .emergencyRampEnd ax => Sys2Proof.Machine.execEmergencyRampEnd ax s
  | .limitInputActive ax positive => Sys2Proof.Machine.execLimitInputActive ax positive s
  | .homeEdgeQualified ax edgePos => Sys2Proof.Machine.execHomeEdgeQualified ax edgePos s
  | .homeDistanceFail ax => Sys2Proof.Machine.execHomeDistanceFail ax s
  | .homeComplete ax => Sys2Proof.Machine.execHomeComplete ax s
  -- Glasshouse (R282–R298)
  | .draw target r h pix => Sys2Proof.Machine.execDraw target r h pix s
  | .update target r0 r1 c0 c1 tag => Sys2Proof.Machine.execUpdate target r0 r1 c0 c1 tag s
  | .copy target r0 r1 c0 c1 pic => Sys2Proof.Machine.execCopy target r0 r1 c0 c1 pic s
  | .panelClear target tag => Sys2Proof.Machine.execPanelClear target tag s
  | .journalCopy => Sys2Proof.Machine.execJournalCopy s
  | .rowPhaseEnd => Sys2Proof.Machine.execRowPhaseEnd s
  | .pumpReady vrst vsel => Sys2Proof.Machine.execPumpReady vrst vsel s
  | .pumpIdleStop => Sys2Proof.Machine.execPumpIdleStop s
  | .panelTempRead ohm10 centi t => Sys2Proof.Machine.execPanelTempRead ohm10 centi t s
  | .pumpFault vrst vsel => Sys2Proof.Machine.execPumpFault vrst vsel s
  | .pumpRestart => Sys2Proof.Machine.execPumpRestart s
  | .pnlRetry p t => Sys2Proof.Machine.execPnlRetry p t s
  | .mapCommit p map t => Sys2Proof.Machine.execMapCommit p map t s
  -- the calendar clock (R300–R315)
  | .pd0PowerUp t => Sys2Proof.Machine.execPd0PowerUp t s
  | .calendarSecond t => Sys2Proof.Machine.execCalendarSecond t s
  | .rtcSecRead p t => Sys2Proof.Machine.execRtcSecRead p t s
  | .rtcCentRead p => Sys2Proof.Machine.execRtcCentRead p s
  | .rtcShadowTimeout p => Sys2Proof.Machine.execRtcShadowTimeout p s
  | .rtcSetAtSecond p => Sys2Proof.Machine.execRtcSetAtSecond p s
  | .rtcSetImmediate p => Sys2Proof.Machine.execRtcSetImmediate p s
  | .rtcShift p neg count => Sys2Proof.Machine.execRtcShift p neg count s
  | .dstForward p => Sys2Proof.Machine.execDstForward p s
  | .dstBack p => Sys2Proof.Machine.execDstBack p s
  | .rtcAdjustApply t => Sys2Proof.Machine.execRtcAdjustApply t s
  | .trimAccumulate => Sys2Proof.Machine.execTrimAccumulate s
  | .rtcTrimWrite p v t => Sys2Proof.Machine.execRtcTrimWrite p v t s
  | .trimMeasureMains p nom t => Sys2Proof.Machine.execTrimMeasureMains p nom t s
  | .trimMeasureHost p t => Sys2Proof.Machine.execTrimMeasureHost p t s
  | .trimMeasureAbort p t => Sys2Proof.Machine.execTrimMeasureAbort p t s
  | .trimMeasureEnd lostRef e t => Sys2Proof.Machine.execTrimMeasureEnd lostRef e t s
  | .alarmEnable p k t => Sys2Proof.Machine.execAlarmEnable p k t s
  | .calendarAlarmFire k t => Sys2Proof.Machine.execCalendarAlarmFire k t s
  | .alarmFlagClear p k => Sys2Proof.Machine.execAlarmFlagClear p k s
  | .xt32Fail t => Sys2Proof.Machine.execXt32Fail t s
  | .xt32Restore => Sys2Proof.Machine.execXt32Restore s
  | .cellSample mv vrtc => Sys2Proof.Machine.execCellSample mv vrtc s
  | .vrtcChangeover toMain vrtc vcell => Sys2Proof.Machine.execVrtcChangeover toMain vrtc vcell s
  -- Moraine (R318–R333)
  | .eventTrigger t => Sys2Proof.Machine.execEventTrigger t s
  | .recordWrite t => Sys2Proof.Machine.execRecordWrite t s
  | .tokenRefill c t => Sys2Proof.Machine.execTokenRefill c t s
  | .suppressionSummary c t => Sys2Proof.Machine.execSuppressionSummary c t s
  | .codecfgWrite p c v t => Sys2Proof.Machine.execCodecfgWrite p c v t s
  | .ssaddrWrite p k ix v t => Sys2Proof.Machine.execSsaddrWrite p k ix v t s
  | .cursorAt p minsev => Sys2Proof.Machine.execCursorAt p minsev s
  | .cursorOldest p minsev => Sys2Proof.Machine.execCursorOldest p minsev s
  | .cursorNewest p minsev => Sys2Proof.Machine.execCursorNewest p minsev s
  | .cursorNext p minsev => Sys2Proof.Machine.execCursorNext p minsev s
  | .cursorPrev p minsev => Sys2Proof.Machine.execCursorPrev p minsev s
  | .windowRead p ix => Sys2Proof.Machine.execWindowRead p ix s
  | .indexRebuildDone badSlots ms t => Sys2Proof.Machine.execIndexRebuildDone badSlots ms t s
  -- Promenade (R337–R366)
  | .ringHeaderReceived portB etype hdr t => Sys2Proof.Machine.execRingHeaderReceived portB etype hdr t s
  | .frameForward portB etype tagged fcsOk hdr area t => Sys2Proof.Machine.execFrameForward portB etype tagged fcsOk hdr area t s
  | .portLinkDown portB => Sys2Proof.Machine.execPortLinkDown portB s
  | .portBroken portB => Sys2Proof.Machine.execPortBroken portB s
  | .addressContactChange now => Sys2Proof.Machine.execAddressContactChange now s
  | .mbxRead p m t => Sys2Proof.Machine.execMbxRead p m t s
  | .mbxWrite p m t => Sys2Proof.Machine.execMbxWrite p m t s
  | .readCh p m t => Sys2Proof.Machine.execReadCh p m t s
  | .ack p m t => Sys2Proof.Machine.execAck p m t s
  | .hostevt p m t => Sys2Proof.Machine.execHostevt p m t s
  | .imageBegin p m t => Sys2Proof.Machine.execImageBegin p m t s
  | .imageBlock p m t => Sys2Proof.Machine.execImageBlock p m t s
  | .imageEnd p m t => Sys2Proof.Machine.execImageEnd p m t s
  | .imageCheckDone t => Sys2Proof.Machine.execImageCheckDone t s
  | .imageSwitch p m t => Sys2Proof.Machine.execImageSwitch p m t s
  | .restart p m t => Sys2Proof.Machine.execRestart p m t s
  | .digestNow p m t => Sys2Proof.Machine.execDigestNow p m t s
  | .countclr p m t => Sys2Proof.Machine.execCountclr p m t s
  | .mbxResponse named t => Sys2Proof.Machine.execMbxResponse named t s
  | .digestPass t => Sys2Proof.Machine.execDigestPass t s
  | .svcSessionOpen => Sys2Proof.Machine.execSvcSessionOpen s
  | .svcSessionClose => Sys2Proof.Machine.execSvcSessionClose s
  | .svcFrame m crc t => Sys2Proof.Machine.execSvcFrame m crc t s
  | .svcFrameTimeout => Sys2Proof.Machine.execSvcFrameTimeout s
  | .keyProvision p => Sys2Proof.Machine.execKeyProvision p s
  -- supplies, start and repair (R368–R386)
  | .vinPresent b v => Sys2Proof.Machine.execVinPresent b v s
  | .vinLost b v => Sys2Proof.Machine.execVinLost b v s
  | .nodeStart info t => Sys2Proof.Machine.execNodeStart info t s
  | .startStepTimeout step t => Sys2Proof.Machine.execStartStepTimeout step t s
  | .alarmReady t => Sys2Proof.Machine.execAlarmReady t s
  | .startClose t => Sys2Proof.Machine.execStartClose t s
  | .supplyLoss mv t => Sys2Proof.Machine.execSupplyLoss mv t s
  | .holdoverRideThrough mv t => Sys2Proof.Machine.execHoldoverRideThrough mv t s
  | .holdoverShutdown t => Sys2Proof.Machine.execHoldoverShutdown t s
  | .holdChargeDone ms fromBelow1V mv => Sys2Proof.Machine.execHoldChargeDone ms fromBelow1V mv s
  | .holdChargeTimeout ms mv => Sys2Proof.Machine.execHoldChargeTimeout ms mv s
  | .pwrCycleRequest p dom t => Sys2Proof.Machine.execPwrCycleRequest p dom t s
  | .tempSample ts0 ts1 ts2 ts3 => Sys2Proof.Machine.execTempSample ts0 ts1 ts2 ts3 s
  | .thermalT85 sensor temp => Sys2Proof.Machine.execThermalT85 sensor temp s
  | .thermalT85End sensor temp t => Sys2Proof.Machine.execThermalT85End sensor temp t s
  | .thermalT100 sensor temp t => Sys2Proof.Machine.execThermalT100 sensor temp t s
  | .thermalT100End sensor temp t => Sys2Proof.Machine.execThermalT100End sensor temp t s
  | .lockOpen p code t => Sys2Proof.Machine.execLockOpen p code t s
  | .lockClose p => Sys2Proof.Machine.execLockClose p s
  | .lockTimeout t => Sys2Proof.Machine.execLockTimeout t s
  | .thawClear p steps t => Sys2Proof.Machine.execThawClear p steps t s
  -- the Rante window (R391–R398)
  | .ranteRead p m t => Sys2Proof.Machine.execRanteRead p m t s
  | .ranteWrite p m t => Sys2Proof.Machine.execRanteWrite p m t s
  | .rantePairTimeout t => Sys2Proof.Machine.execRantePairTimeout t s
  | .ranteEnable p t => Sys2Proof.Machine.execRanteEnable p t s
  | .ranteDisable p t => Sys2Proof.Machine.execRanteDisable p t s
  -- rows that stand later in the table
  | .islandLockRegained ix => Sys2Proof.Machine.execIslandLockRegained ix s
  | .portLinkUp portB => Sys2Proof.Machine.execPortLinkUp portB s
  | .cycleWithoutHeader portB => Sys2Proof.Machine.execCycleWithoutHeader portB s
  | .doCurrentLimit n => Sys2Proof.Machine.execDoCurrentLimit n s
  | .doCurrentLimitEnd n => Sys2Proof.Machine.execDoCurrentLimitEnd n s
  | .limitInputInactive ax positive => Sys2Proof.Machine.execLimitInputInactive ax positive s
  | .segmentFrame => Sys2Proof.Machine.execSegmentFrame s
  | .operatingTimeMirror t => Sys2Proof.Machine.execOperatingTimeMirror t s
  | .patternToggle pl lv t => Sys2Proof.Machine.execPatternToggle pl lv t s
  | .orderedRestart t => Sys2Proof.Machine.execOrderedRestart t s
  | .vbusAttach => Sys2Proof.Machine.execVbusAttach s
  | .deviceConfigured => Sys2Proof.Machine.execDeviceConfigured s

end Sys2Proof.Machine
end

