-- ==== Sys2Proof/WellFormed.lean ====
section
/-! DEFINITION. Which commands are well formed: what the types of their operands leave open. Every other operand is
bounded by its type, and a value that the manual refuses is the business of the command's meaning. -/

namespace Sys2Proof

/-- A request holds a payload section of at most 496 bytes (R352); the payload is as long as LEN says, as far as the
section carries it. -/
def Msg.wf (m : Msg) : Bool := m.payload.length == Nat.min m.len.toNat 496

/-- A test fails at one of steps 2–8 or passes; each coefficient pair belongs to one of the 6 range tags and one of the
2 members (R81). -/
def TestResult.wf (r : TestResult) : Bool :=
  (r.failStep == 0 || (2 ≤ r.failStep && r.failStep ≤ 8)) && r.coefs.all (fun c => c.1 < 6 && c.2.1 < 2)

/-- What a start finds names banks, rows and maps that exist, and gives an end time for each of the 16 steps (R379). -/
def StartInfo.wf (i : StartInfo) : Bool :=
  i.ends.length == 16 && i.fits.length ≤ 9 && i.calBad.all (fun b => b < 9) && i.bankBad.all (fun b => b < 9) &&
    i.rowsBad.all (fun r => r < 64) && i.mapsBad.all (fun k => k < 4)

/-- The command is well formed. -/
def Instr.wf : Instr → Bool
  | .vloopOvercurrent ma _ => ma.length == 128
  | .rotatingTestComplete r _ => r.wf
  | .bsSelfTestComplete r _ => r.wf
  | .freqGateEnd _ k span => k < 2 || 0 < span
  | .indexRebuildDone bad _ _ => bad.all (fun k => k < 131072)
  | .ringHeaderReceived _ _ hdr _ => hdr.length == 32
  | .frameForward _ _ _ _ hdr area _ => hdr.length == 32 && area.length ≤ 1468
  | .nodeStart info _ => info.wf
  | .mbxRead _ m _ | .mbxWrite _ m _ | .readCh _ m _ | .ack _ m _ | .hostevt _ m _ | .imageBegin _ m _
  | .imageBlock _ m _ | .imageEnd _ m _ | .imageSwitch _ m _ | .restart _ m _ | .digestNow _ m _ | .countclr _ m _
  | .ranteRead _ m _ | .ranteWrite _ m _ => m.wf
  | .svcFrame m _ _ => m.wf
  | _ => true

end Sys2Proof
end

