-- ==== Sys2Proof/Safety.lean ====
section
/-! DEFINITION. What a sound state and a safe run are, in the terms the statements use: the tables of the state in their
canonical form, a step that answers a next state, and what an instruction of a core leaves. -/

namespace Sys2Proof.Machine

/-- The bytes of a memory are in canonical form: addresses strictly rising, no entry equal to the 0 an unlisted address
reads as. -/
def Memory.wf (m : Mem) : Bool := tabWf (dflt (0 : Byte)) m

/-- The tables that hold words of registers are in canonical form. -/
def State.regsWf (s : State) : Bool := tabWf resetWord s.regs && tabWf resetWord s.mirror

/-- What a core stores is in canonical form: its SRAM, its general words, its event masks, its timers. -/
def Core.wf (k : Core) : Bool :=
  Memory.wf k.sram && tabWf (dflt (0 : Word)) k.w && tabWf (dflt (0 : Word)) k.evm && tabWf (dflt none) k.timers

/-- What the cores store, both images and the correction maps are in canonical form. -/
def State.memWf (s : State) : Bool :=
  s.coreA.wf && s.coreB.wf && Memory.wf s.img.imgA.bytes && Memory.wf s.img.imgB.bytes &&
    Memory.wf s.pnl.maps

/-- The tables of the live words, the crossings, the channels, banks, sequencers, scan timers and axes are in canonical
form. -/
def State.tabsWf (s : State) : Bool :=
  tabWf (dflt notScanned) s.live && tabWf (dflt crossReset) s.xing && tabWf (dflt chanReset) s.chans &&
    tabWf (dflt bankReset) s.banks && tabWf (dflt seqReset) s.seqs && tabWf (dflt timerReset) s.timers &&
    tabWf (dflt axisReset) s.axes

/-- The invariant of the model: every register table, every memory and every table of the node in canonical form. -/
def State.sound (s : State) : Bool := s.regsWf && s.memWf && s.tabsWf

/-- Command `i` runs to a next state from `s`. -/
def completes (i : Instr) (s : State) : Prop := ∃ t, exec i s = .next t

/-- Every command of the queue `l` in turn answers a next state from `s`. -/
def runsAll : List Instr → State → Prop
  | [], _ => True
  | i :: l, s => ∃ t, exec i s = .next t ∧ runsAll l t

/-! ### What the statements say of one command -/

/-- Core `c` fetches its next word: it runs, its fetch does not stall, its PC lies in the executing image. -/
def State.fetches (s : State) (c : CoreId) : Bool := s.running c && !(s.stalled c) && execAddr (s.core c).pc

/-- Core `c` issues its next instruction: the word it fetches has no reserved major, fn or sub-operation (R190, R198). -/
def State.issues (s : State) (c : CoreId) : Bool :=
  s.fetches c && (match decodeCore c s.now (s.fetchWord c) with | .instr _ => true | .illegal _ => false)

/-- Core `c` once it has fetched the line of its PC. -/
def State.fetched (s : State) (c : CoreId) : Core := (s.core c).fetchFrom (lineOf (s.core c).pc)

/-- General word `i` of core `c`. -/
def State.word (s : State) (c : CoreId) (i : BitVec 5) : Word := (s.core c).get i

/-- Core `c` after its instruction has written `v` to `wd` and gone on to the next word: nothing else changes. -/
def State.wrote (s : State) (c : CoreId) (wd : BitVec 5) (v : Word) : State := s.setCore c ((s.fetched c).next wd v)

/-- Core `c` after its instruction has gone on at `pc`: nothing else changes. -/
def State.wentTo (s : State) (c : CoreId) (pc : Word) : State := s.setCore c { s.fetched c with pc := pc }

/-- An integer limited to the signed 32-bit range. -/
def limit32 (x : Int) : Word := BitVec.ofInt 32 (max (-2147483648) (min 2147483647 x))

/-- The registers outside `p` hold in `t` what they hold in `s`. -/
def State.sameRegs (s t : State) (p : Nat → Prop) : Prop := ∀ a, ¬ p a → t.rd a = s.rd a

/-- It is the turn of request `m` of port `p`: the first of those that the ring has brought to a node that answers; on the
service port, within a session, with none being executed and none of its number heard (R354, R361). -/
def State.turnOf (s : State) (p : Port) (m : Msg) : Bool :=
  match p with
  | .host => s.answers && s.ring.taken.head? == some m
  | .svc => s.svcOn && s.sup.running && s.flag R.SVC_STAT F.SVC_STAT_SESSION && !s.ring.svcBusy &&
      (s.ring.recentSvc.find? (fun h => h.seq = m.seq)).isNone

/-- The state in which request `m` of port `p`, whose turn it is, is executed. -/
def State.onTurn (s : State) (p : Port) (m : Msg) : State :=
  match p with
  | .host => s.setRing { s.ring with taken := s.ring.taken.drop 1 }
  | .svc => (s.setRing { s.ring with recentSvc := lastEight (s.ring.recentSvc ++ [⟨m.seq, none, 0⟩]) }).addFld R.SVC_STAT
      F.SVC_STAT_REQ 1

end Sys2Proof.Machine
end

