-- ==== Sys2Proof/Certificates/Slice0/Obligations.lean ====
section
/-! DEFINITION. The statements for the provers. A statement whose conclusion is `exec i s = .next t` says both that the
command completes and what it leaves: `t` is written with the named updates of `Machine/Ops.lean`, so that every part of
the state that they do not name is unchanged. -/

open Sys2Proof Sys2Proof.Machine

/-! ### Belvedere: the instructions that act inside a core -/

/-- R200: the register operations that write a sum, a difference, a logic function, a shift, a comparison or the
lesser or greater of two words; the word goes to wd and the core goes on at PC + 4. Completes: add, sub, and, or, xor,
nor, sll, srl, sra, slt, sltu, min, max, minu, maxu. -/
def Clauses.CoreRegisterOps : Prop :=
  ∀ (s : State) (c : CoreId) (wd wa wb : BitVec 5), s.issues c = true →
    exec (.add c wd wa wb) s = .next (s.wrote c wd (s.word c wa + s.word c wb)) ∧
    exec (.sub c wd wa wb) s = .next (s.wrote c wd (s.word c wa - s.word c wb)) ∧
    exec (.and c wd wa wb) s = .next (s.wrote c wd (s.word c wa &&& s.word c wb)) ∧
    exec (.or c wd wa wb) s = .next (s.wrote c wd (s.word c wa ||| s.word c wb)) ∧
    exec (.xor c wd wa wb) s = .next (s.wrote c wd (s.word c wa ^^^ s.word c wb)) ∧
    exec (.nor c wd wa wb) s = .next (s.wrote c wd (~~~(s.word c wa ||| s.word c wb))) ∧
    exec (.sll c wd wa wb) s = .next (s.wrote c wd (s.word c wa <<< ((s.word c wb).toNat % 32))) ∧
    exec (.srl c wd wa wb) s = .next (s.wrote c wd (s.word c wa >>> ((s.word c wb).toNat % 32))) ∧
    exec (.sra c wd wa wb) s =
      .next (s.wrote c wd (BitVec.ofInt 32 ((s.word c wa).toInt / 2 ^ ((s.word c wb).toNat % 32)))) ∧
    exec (.slt c wd wa wb) s = .next (s.wrote c wd (if (s.word c wa).toInt < (s.word c wb).toInt then 1 else 0)) ∧
    exec (.sltu c wd wa wb) s = .next (s.wrote c wd (if (s.word c wa).toNat < (s.word c wb).toNat then 1 else 0)) ∧
    exec (.min c wd wa wb) s = .next (s.wrote c wd (BitVec.ofInt 32 (min (s.word c wa).toInt (s.word c wb).toInt))) ∧
    exec (.max c wd wa wb) s = .next (s.wrote c wd (BitVec.ofInt 32 (max (s.word c wa).toInt (s.word c wb).toInt))) ∧
    exec (.minu c wd wa wb) s = .next (s.wrote c wd (BitVec.ofNat 32 (min (s.word c wa).toNat (s.word c wb).toNat))) ∧
    exec (.maxu c wd wa wb) s = .next (s.wrote c wd (BitVec.ofNat 32 (max (s.word c wa).toNat (s.word c wb).toNat)))

/-- R199–R201: the operations that saturate give the exact signed result limited to −2^31 and 2^31 − 1; ABS needs wb =
0. Completes: adds, subs, muls, addis, abs. -/
def Clauses.CoreSaturating : Prop :=
  ∀ (s : State) (c : CoreId) (wd wa wb : BitVec 5) (imm : BitVec 16), s.issues c = true →
    exec (.adds c wd wa wb) s = .next (s.wrote c wd (limit32 ((s.word c wa).toInt + (s.word c wb).toInt))) ∧
    exec (.subs c wd wa wb) s = .next (s.wrote c wd (limit32 ((s.word c wa).toInt - (s.word c wb).toInt))) ∧
    exec (.muls c wd wa wb) s = .next (s.wrote c wd (limit32 ((s.word c wa).toInt * (s.word c wb).toInt))) ∧
    exec (.addis c wd wa imm) s = .next (s.wrote c wd (limit32 ((s.word c wa).toInt + imm.toInt))) ∧
    exec (.abs c wd wa 0) s =
      .next (s.wrote c wd (limit32 (if (s.word c wa).toInt < 0 then -(s.word c wa).toInt else (s.word c wa).toInt)))

/-- R200, R202: CLZ counts the leading zero bits, 0–32; SXT and SXTI copy bit k upward, ZXT and ZXTI clear the bits
above bit k, k being wb[4:0] or the amount of the word. wb must be 0 for CLZ, SXTI and ZXTI. Completes: clz, sxt, zxt,
sxti, zxti. -/
def Clauses.CoreBitOps : Prop :=
  ∀ (s : State) (c : CoreId) (wd wa wb k : BitVec 5), s.issues c = true →
    (∃ n : Nat, n ≤ 32 ∧ (∀ i, 32 - n ≤ i → (s.word c wa).getLsbD i = false) ∧
      (n < 32 → (s.word c wa).getLsbD (31 - n) = true) ∧
      exec (.clz c wd wa 0) s = .next (s.wrote c wd (BitVec.ofNat 32 n))) ∧
    (∃ v : Word, (∀ i, i < 32 → v.getLsbD i = (s.word c wa).getLsbD (min i ((s.word c wb).toNat % 32))) ∧
      exec (.sxt c wd wa wb) s = .next (s.wrote c wd v)) ∧
    (∃ v : Word, (∀ i, v.getLsbD i = (decide (i ≤ (s.word c wb).toNat % 32) && (s.word c wa).getLsbD i)) ∧
      exec (.zxt c wd wa wb) s = .next (s.wrote c wd v)) ∧
    (∃ v : Word, (∀ i, i < 32 → v.getLsbD i = (s.word c wa).getLsbD (min i k.toNat)) ∧
      exec (.sxti c wd wa 0 k) s = .next (s.wrote c wd v)) ∧
    (∃ v : Word, (∀ i, v.getLsbD i = (decide (i ≤ k.toNat) && (s.word c wa).getLsbD i)) ∧
      exec (.zxti c wd wa 0 k) s = .next (s.wrote c wd v))

/-- R201: the products and quotients; a division by zero gives all ones and its remainder wa; −2^31 by −1 gives −2^31
and the remainder 0. Completes: mul, mulh, mulhu, div, divu, rem, remu. -/
def Clauses.CoreMulDiv : Prop :=
  ∀ (s : State) (c : CoreId) (wd wa wb : BitVec 5), s.issues c = true →
    exec (.mul c wd wa wb) s = .next (s.wrote c wd (BitVec.ofNat 32 ((s.word c wa).toNat * (s.word c wb).toNat))) ∧
    exec (.mulh c wd wa wb) s =
      .next (s.wrote c wd (BitVec.ofInt 32 ((s.word c wa).toInt * (s.word c wb).toInt / 4294967296))) ∧
    exec (.mulhu c wd wa wb) s =
      .next (s.wrote c wd (BitVec.ofNat 32 ((s.word c wa).toNat * (s.word c wb).toNat / 4294967296))) ∧
    exec (.div c wd wa wb) s = .next (s.wrote c wd (if s.word c wb = 0 then 0xFFFFFFFF else
      BitVec.ofInt 32 ((s.word c wa).toInt.tdiv (s.word c wb).toInt))) ∧
    exec (.divu c wd wa wb) s = .next (s.wrote c wd (if s.word c wb = 0 then 0xFFFFFFFF else
      BitVec.ofNat 32 ((s.word c wa).toNat / (s.word c wb).toNat))) ∧
    exec (.rem c wd wa wb) s = .next (s.wrote c wd (if s.word c wb = 0 then s.word c wa else
      BitVec.ofInt 32 ((s.word c wa).toInt - (s.word c wb).toInt * (s.word c wa).toInt.tdiv (s.word c wb).toInt))) ∧
    exec (.remu c wd wa wb) s = .next (s.wrote c wd (if s.word c wb = 0 then s.word c wa else
      BitVec.ofNat 32 ((s.word c wa).toNat % (s.word c wb).toNat))) ∧
    (s.word c wa = 0x80000000 → s.word c wb = 0xFFFFFFFF →
      exec (.div c wd wa wb) s = .next (s.wrote c wd 0x80000000) ∧ exec (.rem c wd wa wb) s = .next (s.wrote c wd 0))

/-- R199, R202: the operations on an immediate; LUI needs wa = 0, the shifts wb = 0. Completes: addi, andi, ori, xori,
slti, sltiu, lui, slli, srli, srai. -/
def Clauses.CoreImmediateOps : Prop :=
  ∀ (s : State) (c : CoreId) (wd wa k : BitVec 5) (imm : BitVec 16), s.issues c = true →
    exec (.addi c wd wa imm) s = .next (s.wrote c wd (s.word c wa + imm.signExtend 32)) ∧
    exec (.andi c wd wa imm) s = .next (s.wrote c wd (s.word c wa &&& imm.zeroExtend 32)) ∧
    exec (.ori c wd wa imm) s = .next (s.wrote c wd (s.word c wa ||| imm.zeroExtend 32)) ∧
    exec (.xori c wd wa imm) s = .next (s.wrote c wd (s.word c wa ^^^ imm.zeroExtend 32)) ∧
    exec (.slti c wd wa imm) s = .next (s.wrote c wd (if (s.word c wa).toInt < imm.toInt then 1 else 0)) ∧
    exec (.sltiu c wd wa imm) s =
      .next (s.wrote c wd (if (s.word c wa).toNat < (imm.signExtend 32).toNat then 1 else 0)) ∧
    exec (.lui c wd 0 imm) s = .next (s.wrote c wd (BitVec.ofNat 32 (imm.toNat * 65536))) ∧
    exec (.slli c wd wa 0 k) s = .next (s.wrote c wd (s.word c wa <<< k.toNat)) ∧
    exec (.srli c wd wa 0 k) s = .next (s.wrote c wd (s.word c wa >>> k.toNat)) ∧
    exec (.srai c wd wa 0 k) s = .next (s.wrote c wd (BitVec.ofInt 32 ((s.word c wa).toInt / 2 ^ k.toNat)))

/-- R197, R199: jumps and branches. A branch that is not taken goes on at PC + 4; a taken one, and every jump, at its
target, which must be a multiple of 4; JAL writes w31 and JALR wd, with PC + 4. Completes: beq, bne, blt, bge, bltu,
bgeu, j, jal, jr, jalr. -/
def Obligations.CoreJumps : Prop :=
  ∀ (s : State) (c : CoreId) (wd wa wb : BitVec 5) (off : BitVec 16) (far : BitVec 26), s.issues c = true →
    (s.core c).pc.toNat % 4 = 0 →
    let br := (s.core c).pc + 4 + off.signExtend 32 * 4
    let jt := (s.core c).pc + 4 + far.signExtend 32 * 4
    let next := (s.core c).pc + 4
    exec (.beq c wa wb off) s = .next (s.wentTo c (if s.word c wa = s.word c wb then br else next)) ∧
    exec (.bne c wa wb off) s = .next (s.wentTo c (if s.word c wa = s.word c wb then next else br)) ∧
    exec (.blt c wa wb off) s = .next (s.wentTo c (if (s.word c wa).toInt < (s.word c wb).toInt then br else next)) ∧
    exec (.bge c wa wb off) s = .next (s.wentTo c (if (s.word c wa).toInt < (s.word c wb).toInt then next else br)) ∧
    exec (.bltu c wa wb off) s = .next (s.wentTo c (if (s.word c wa).toNat < (s.word c wb).toNat then br else next)) ∧
    exec (.bgeu c wa wb off) s = .next (s.wentTo c (if (s.word c wa).toNat < (s.word c wb).toNat then next else br)) ∧
    exec (.j c far) s = .next (s.wentTo c jt) ∧
    exec (.jal c far) s = .next (s.setCore c { (s.fetched c).set 31 next with pc := jt }) ∧
    ((s.word c wa).toNat % 4 = 0 →
      exec (.jr c 0 wa 0) s = .next (s.wentTo c (s.word c wa)) ∧
      exec (.jalr c wd wa 0) s = .next (s.setCore c { (s.fetched c).set wd next with pc := s.word c wa }))

/-- R190, R203: a load from the core's SRAM writes the byte, halfword or word at wa + imm, little-endian,
sign-extended or zero-extended; its address is aligned. Completes: lw, lh, lhu, lb, lbu. -/
def Clauses.CoreLoads : Prop :=
  ∀ (s : State) (c : CoreId) (wd wa : BitVec 5) (imm : BitVec 16), s.issues c = true →
    let a := (s.word c wa + imm.signExtend 32).toNat
    let b (i : Nat) : Byte := memByte 0 (s.core c).sram (a + i)
    0x20000000 ≤ a → a ≤ 0x2003FFFF →
      (a % 4 = 0 → exec (.lw c wd wa imm) s = .next (s.wrote c wd (b 3 ++ b 2 ++ b 1 ++ b 0))) ∧
      (a % 2 = 0 → exec (.lh c wd wa imm) s = .next (s.wrote c wd ((b 1 ++ b 0).signExtend 32)) ∧
        exec (.lhu c wd wa imm) s = .next (s.wrote c wd ((b 1 ++ b 0).zeroExtend 32))) ∧
      exec (.lb c wd wa imm) s = .next (s.wrote c wd ((b 0).signExtend 32)) ∧
      exec (.lbu c wd wa imm) s = .next (s.wrote c wd ((b 0).zeroExtend 32))

/-- R190, R203: a store to SRAM changes the bytes it stores and no other byte of the SRAM; no general or special word
changes and the core goes on at PC + 4. Completes: sw, sh, sb. -/
def Clauses.CoreStores : Prop :=
  ∀ (s : State) (c : CoreId) (wd wa : BitVec 5) (imm : BitVec 16), s.issues c = true → s.sound = true →
    let a := (s.word c wa + imm.signExtend 32).toNat
    let now (m : Mem) : State := s.setCore c { s.fetched c with sram := m, pc := (s.core c).pc + 4 }
    let holds (m : Mem) (n : Nat) : Prop :=
      (∀ k, k < n → memByte 0 m (a + k) = BitVec.ofNat 8 ((s.word c wd).toNat / 2 ^ (8 * k))) ∧
        ∀ x, x < a ∨ a + n ≤ x → memByte 0 m x = memByte 0 (s.core c).sram x
    0x20000000 ≤ a → a ≤ 0x2003FFFF →
      (a % 4 = 0 → ∃ m : Mem, exec (.sw c wd wa imm) s = .next (now m) ∧ holds m 4) ∧
      (a % 2 = 0 → ∃ m : Mem, exec (.sh c wd wa imm) s = .next (now m) ∧ holds m 2) ∧
      ∃ m : Mem, exec (.sb c wd wa imm) s = .next (now m) ∧ holds m 1

/-- R192, R204, R205, R195: SMP, LST and GST write the word of the active snapshot; TMA arms a timer at most 2^31 − 1
ms after the snapshot's time, or disarms it; TMT reads what is left, all ones where disarmed; EVW of no further event,
before CMTE, writes 0, and of the next event of its mask, the address of its descriptor. Completes: smp, gst, lst,
tmaArm, tmaDisarm, tmt, evw. -/
def Clauses.CoreNodeOps : Prop :=
  ∀ (s : State) (c : CoreId) (wd wa : BitVec 5) (imm : BitVec 16) (tm : BitVec 15), s.issues c = true →
    let x := (s.core c).active
    let i := (s.word c wa + imm.signExtend 32).toNat
    let wanted (d : EvDesc) : Bool := ((s.core c).evmask (d.code / 32)).getLsbD (d.code % 32)
    (i < 256 → exec (.smp c wd wa imm) s = .next (s.wrote c wd (x.word (0x100 + 4 * i))) ∧
      exec (.gst c wd wa imm) s = .next (s.wrote c wd (x.word (0x3000 + 16 * i)))) ∧
    (i < 2048 → exec (.lst c wd wa imm) s = .next (s.wrote c wd (x.word (0x1000 + 4 * i)))) ∧
    (tm.toNat < 64 →
      exec (.tmaArm c 0 wa tm) s = .next (s.setCore c { (s.fetched c).setTimer tm.toNat
        (some (x.ms + min (s.word c wa).toNat 2147483647)) with pc := (s.core c).pc + 4 }) ∧
      exec (.tmaDisarm c 0 0 tm) s =
        .next (s.setCore c { (s.fetched c).setTimer tm.toNat none with pc := (s.core c).pc + 4 })) ∧
    (imm.toNat < 64 → exec (.tmt c wd 0 imm) s = .next (s.wrote c wd
      (match tabGet (dflt none) (s.core c).timers imm.toNat with
        | none => 0xFFFFFFFF
        | some due => BitVec.ofNat 32 (due - x.ms)))) ∧
    ((x.events.drop (s.core c).cursor).any wanted = false → (s.core c).cmtd = false →
      exec (.evw c wd 0 0 0) s = .next (s.setCore c
        { (s.fetched c).next wd 0 with cursor := max (s.core c).cursor x.events.length })) ∧
    ∀ k d, (s.core c).cursor ≤ k → x.events[k]? = some d → wanted d = true →
      ((x.events.take k).drop (s.core c).cursor).any wanted = false →
      exec (.evw c wd 0 0 0) s = .next (s.setCore c
        { (s.fetched c).next wd (BitVec.ofNat 32 (0x30005000 + 16 * k)) with cursor := k + 1 })

/-- R187, R188, R209: SYS and BRK take vectors 8 and 7 with their code as the detail; RSM goes back by one depth, to
EPC or DPC; MFS reads the special registers 0–8 and MTS writes EPC, DPC, CAUSE and the event masks, of STAT the field
XD alone. Completes: sys, brk, rsm, mfs, mts. -/
def Clauses.CoreSystemOps : Prop :=
  ∀ (s : State) (c : CoreId) (wx : BitVec 5) (code : BitVec 11) (n : Fin 4), s.issues c = true →
    let k := s.fetched c
    let v := s.word c wx
    (code.toNat < 256 →
      exec (.sys c 0 0 code) s = .next ((s.setCore c k).takeExc c 8 code.toNat) ∧
      exec (.brk c 0 0 code) s = .next ((s.setCore c k).takeExc c 7 code.toNat)) ∧
    (k.xd = 1 → exec (.rsm c 0 0 0) s = .next (s.setCore c { k with pc := k.epc, xd := 0 })) ∧
    (k.xd = 2 → exec (.rsm c 0 0 0) s = .next (s.setCore c { k with pc := k.dpc, xd := 1 })) ∧
    exec (.mfs c wx 0 0) s = .next (s.wrote c wx k.stat) ∧
    exec (.mfs c wx 1 0) s = .next (s.wrote c wx k.epc) ∧
    exec (.mfs c wx 2 0) s = .next (s.wrote c wx k.cause) ∧
    exec (.mfs c wx 3 0) s = .next (s.wrote c wx k.tick) ∧
    exec (.mfs c wx (BitVec.ofNat 5 (4 + n.val)) 0) s = .next (s.wrote c wx (tabGet (dflt 0) k.evm n.val)) ∧
    exec (.mfs c wx 8 0) s = .next (s.wrote c wx k.dpc) ∧
    exec (.mts c wx 1 0) s = .next (s.setCore c { k with epc := v &&& 0xFFFFFFFC, pc := k.pc + 4 }) ∧
    exec (.mts c wx 8 0) s = .next (s.setCore c { k with dpc := v &&& 0xFFFFFFFC, pc := k.pc + 4 }) ∧
    exec (.mts c wx 2 0) s = .next (s.setCore c { k with cause := v &&& 0x00FFFF0F, pc := k.pc + 4 }) ∧
    exec (.mts c wx (BitVec.ofNat 5 (4 + n.val)) 0) s =
      .next (s.setCore c { k with evm := tabSet (dflt 0) k.evm n.val v, pc := k.pc + 4 }) ∧
    (v.toNat / 134217728 % 4 ≠ 3 →
      exec (.mts c wx 0 0) s = .next (s.setCore c { k with xd := v.toNat / 134217728 % 4, pc := k.pc + 4 }))

/-- R208: CMT presents the commit word wb:wa, SNAP a recorder request with the data wb:wa, and CMTE the CRC-32C over
the core's sequence; each passes the crossing of its core, a recorder request with two words (R13), is counted in STAT
and goes to the Gatehouse. Completes: cmt, snap, cmte. -/
def Obligations.CoreCommitOps : Prop :=
  ∀ (s : State) (c : CoreId) (wd wa wb : BitVec 5) (fn : BitVec 11) (t : Time),
    (s.atTime t).issues c = true → ((s.atTime t).core c).cmtd = false → (s.atTime t).noRoom c = false →
    let s := s.atTime t
    let k := s.fetched c
    let passed (k' : Core) (n : Nat) := (s.setCore c k').passWords (9 + coreNum c) n
    (k.cmtn < 1024 →
      exec (.cmt c 0 wa wb 0 t) s = .next ((passed { k with cmtn := k.cmtn + 1, pc := k.pc + 4 } 1).present c
        (.word (s.word c wb ++ s.word c wa) none)) ∧
      (0x7C ≤ fn.toNat → fn.toNat ≤ 0x7F → wd.toNat ≤ 16 →
        exec (.snap c wd wa wb fn t) s = .next ((passed { k with cmtn := k.cmtn + 1, pc := k.pc + 4 } 2).present c
          (.word (BitVec.ofNat 64 (0x0B * 2 ^ 56 + (fn.toNat + 256 * wd.toNat) * 2 ^ 40))
            (some (s.word c wb ++ s.word c wa)))))) ∧
    exec (.cmte c 0 0 0 0 t) s = .next
      (let u := (passed { k with cmtd := true, pc := k.pc + 4 } 1).present c (.done (sequenceCrc (s.items c)))
       if (u.core c).cmtd then u.afterCmte c else u)

/-- R186, R198: general word 0 reads 0 and takes no write; a write to any other word changes that word alone. -/
def Obligations.CoreWordFrame : Prop :=
  ∀ (s : State) (c : CoreId) (wd i : BitVec 5) (v : Word), s.sound = true →
    (s.wrote c wd v).word c 0 = 0 ∧
    (i ≠ 0 → (s.wrote c wd v).word c i = if i = wd then v else s.word c i) ∧
    ((s.wrote c wd v).core c).sram = (s.core c).sram ∧ ((s.wrote c wd v).core c).evm = (s.core c).evm ∧
    ((s.wrote c wd v).core c).epc = (s.core c).epc ∧ ((s.wrote c wd v).core c).cause = (s.core c).cause ∧
    ((s.wrote c wd v).core c).pc = (s.core c).pc + 4 ∧ (s.wrote c wd v).core (twin c) = s.core (twin c) ∧
    (s.wrote c wd v).regs = s.regs

/-- R210, R213: an exception at depth 0 saves PC in EPC, sets CODE, DETAIL and PREV of CAUSE and goes to its vector; at
depth 1 it saves PC in DPC, leaves EPC, and goes to vector 15; at depth 2 the core halts. -/
def Clauses.CoreExceptionEntry : Prop :=
  ∀ (k : Core) (v d : Nat),
    (k.xd = 0 → k.enter v d = some
      { k with epc := k.pc, cause := mkCause d (k.cause.toNat / 256 % 256) v, xd := 1,
               pc := BitVec.ofNat 32 (0x08001000 + 32 * v), wait := .none }) ∧
    (k.xd = 1 → k.enter v d = some
      { k with dpc := k.pc, cause := mkCause d (k.cause.toNat % 16) v, xd := 2, pc := 0x080011E0, wait := .none }) ∧
    (k.xd = 2 → k.enter v d = none)

/-- R198, R212: an instruction with a nonzero unused field takes ILLEGAL with detail 3, a store outside SRAM takes
STORE, a load of no memory LOAD, a misaligned access ALIGN; a word with a reserved major, fn or sub-operation takes
ILLEGAL with detail 1 or 2 whatever the command, and a fetch from outside the executing image FETCH. Completes: abs,
clz, jr, lui, sw, lw, smp, add, rsm. -/
def Clauses.CoreTraps : Prop :=
  ∀ (s : State) (c : CoreId) (wd wa wb : BitVec 5) (imm : BitVec 16),
    let u := s.setCore c (s.fetched c)
    let a := (s.word c wa + imm.signExtend 32).toNat
    (s.issues c = true →
      (wb ≠ 0 → exec (.abs c wd wa wb) s = .next (u.takeExc c 1 3) ∧ exec (.clz c wd wa wb) s = .next
        (u.takeExc c 1 3) ∧
        exec (.jr c wd wa wb) s = .next (u.takeExc c 1 3)) ∧
      (wa ≠ 0 → exec (.lui c wd wa imm) s = .next (u.takeExc c 1 3)) ∧
      (a % 4 ≠ 0 → exec (.sw c wd wa imm) s = .next (u.takeExc c 3 3) ∧
        exec (.lw c wd wa imm) s = .next (u.takeExc c 3 2)) ∧
      (a % 4 = 0 → (a < 0x20000000 ∨ 0x2003FFFF < a) → exec (.sw c wd wa imm) s = .next (u.takeExc c 5 1)) ∧
      (256 ≤ a → exec (.smp c wd wa imm) s = .next (u.takeExc c 4 3)) ∧
      (a < 0x08000000 → a % 4 = 0 → exec (.lw c wd wa imm) s = .next (u.takeExc c 4 1))) ∧
    (∀ d, s.fetches c = true → decodeCore c s.now (s.fetchWord c) = .illegal d →
      exec (.add c wd wa wb) s = .next (u.takeExc c 1 d) ∧ exec (.sw c wd wa imm) s = .next (u.takeExc c 1 d) ∧
      exec (.lw c wd wa imm) s = .next (u.takeExc c 1 d) ∧ exec (.rsm c wd wa 0) s = .next (u.takeExc c 1 d)) ∧
    (s.running c = true → s.stalled c = false → execAddr (s.core c).pc = false →
      exec (.add c wd wa wb) s = .next (s.takeExc c 2 1) ∧ exec (.sw c wd wa imm) s = .next (s.takeExc c 2 1))

/-- R197–R202, R209: every instruction word of the cores decodes to the instruction it encodes, with every field at every
value. -/
def Clauses.CoreWordsRoundTrip : Prop :=
  ∀ (i : Instr) (w : Word) (c : CoreId) (t u : Time), encodeCore i = some w → i.coreArgs t = some (c, u) →
    decodeCore c u w = .instr i

/-- R198–R202, R209, R212: a word with a reserved major is ILLEGAL with detail 1, one with a reserved fn or sub-operation
ILLEGAL with detail 2, and no other word is; the all-zero word is ADD w0, w0, w0. -/
def Clauses.CoreReservedWords : Prop :=
  ∀ (c : CoreId) (t : Time) (w : Word),
    let m := w.toNat / 2 ^ 26
    let fn := w.toNat % 2 ^ 11
    let sub := w.toNat / 2 ^ 21 % 2 ^ 5
    (decodeCore c t w = .illegal 1 ↔ m = 0x03 ∨ 0x0D ≤ m ∧ m ≤ 0x0F ∨ m = 0x15 ∨ 0x19 ≤ m ∧ m ≤ 0x1F ∨
      0x26 ≤ m ∧ m ≤ 0x27 ∨ 0x2A ≤ m ∧ m ≤ 0x2F ∨ 0x3A ≤ m) ∧
    (decodeCore c t w = .illegal 2 ↔ m = 0x00 ∧ 0x15 ≤ fn ∨ m = 0x01 ∧ 0x08 ≤ fn ∨ m = 0x02 ∧ 2 ≤ fn ∨
      m = 0x0C ∧ 5 ≤ fn / 32 ∨ m = 0x38 ∧ 5 ≤ sub) ∧
    decodeCore c t 0 = .instr (.add c 0 0 0)

/-- R15, R213, R217: an instruction of a core that does not issue — not in service, halted, waiting, stopped for the
self-check, or stalled on a fetch — does nothing. -/
def Clauses.CoreDoesNotIssue : Prop :=
  ∀ (s : State) (c : CoreId) (wd wa wb : BitVec 5) (imm : BitVec 16), (s.running c = false ∨ s.stalled c = true) →
    exec (.add c wd wa wb) s = .next s ∧ exec (.sw c wd wa imm) s = .next s ∧ exec (.lw c wd wa imm) s = .next s ∧
    exec (.jalr c wd wa wb) s = .next s ∧ exec (.mts c wd wa 0) s = .next s

/-! ### The analog front end: loop supply, bridge supplies, clamps, spare bank -/

/-- R43, R48: the loop switches close one by one from the lowest LOOP2 channel; a limit opens the switch of its
channel, with LOOPLIM set and OPEN and SHORT no longer reported; after 5 s it closes again for the retry, at whose end
the limit either holds it open again or LOOPLIM clears. The trip comparators that tap the channel see its switch move
(R146). Completes: loopSwitchStartClose, loopSwitchLimit, loopRetry, loopRetryEnd. -/
def Clauses.LoopSwitches : Prop :=
  ∀ (s₀ : State) (n : Fin 128) (t : Time), (s₀.atTime t).afeOn = true →
    let s := s₀.atTime t
    (s.isLoop2 n = true → s.loopOn n = false → (s.chan n).closedAt = none →
      (∀ m, m < n.val → s.isLoop2 m = true → s.loopOn m = true ∨ (s.chan m).closedAt ≠ none) →
      exec (.loopSwitchStartClose t) s₀ = .next (((s.setAbit (R.AFE_LOOPON 0) n true).setChan n
        { s.chan n with closedAt := some s.now }).tapMoved n)) ∧
    (s.isLoop2 n = true → s.loopOn n = true → (s.chan n).retry = false →
      exec (.loopSwitchLimit n t) s₀ = .next (
        let u := (s.setAbit (R.AFE_LOOPON 0) n false).setChan n
          { s.chan n with openedAt := some s.now, retry := false, smpOpen := false }
        (u.setLive n (setBitN (setBitN (setBitN (u.liveBits n) 0 false) 1 false) 3 true) none).tapMoved n)) ∧
    (∀ o, s.loopHeld n = true → (s.chan n).openedAt = some o → o + 5000000000 ≤ s.now →
      exec (.loopRetry n t) s₀ = .next (
        let u := ((s.setAbit (R.AFE_LOOPON 0) n true).setChan n { s.chan n with closedAt := some s.now }).tapMoved n
        u.setChan n { u.chan n with retry := true })) ∧
    (∀ o, (s.chan n).retry = true → (s.chan n).closedAt = some o → o + 100000000 ≤ s.now →
      exec (.loopRetryEnd n true t) s₀ = .next (s.holdLoop n) ∧
      exec (.loopRetryEnd n false t) s₀ = .next (
        let u := s.setChan n { s.chan n with retry := false }
        u.setLive n (setBitN (u.liveBits n) 3 false) none))

/-- R44: when the total exceeds 2.0 A the node opens closed loop switches in descending channel order until the total
is 1.9 A or less, no more of them; each channel so opened takes LOOPLIM and waits for its retry; ILOOP reads the total
left. Completes: vloopOvercurrent. -/
def Obligations.LoopOvercurrent : Prop :=
  ∀ (s₀ : State) (ma : List Nat) (t : Time), (s₀.atTime t).afeOn = true →
    let s := s₀.atTime t
    let closed := ((List.range 128).filter s.loopOn).reverse
    let total (l : List Nat) := (l.map (fun n => ma.getD n 0)).sum
    2000 < total closed →
    ∃ k, k ≤ closed.length ∧ total (closed.drop k) ≤ 1900 ∧ (∀ j, j < k → 1900 < total (closed.drop j)) ∧
      exec (.vloopOvercurrent ma t) s₀ = .next
        (((closed.take k).foldl (fun u n => u.holdLoop n) s).setFld R.AFE_LOOP F.AFE_LOOP_ILOOP (total (closed.drop k)))

/-- R45: a low loop supply sets VLOW with E15, once, and SUPLOW in each LOOP2 channel; a recovered one clears both.
Completes: vloopLow, vloopRecover. -/
def Clauses.LoopSupply : Prop :=
  ∀ (s : State) (v : BitVec 16) (i : BitVec 12), s.afeOn = true →
    let put (b : Bool) := ((s.setFld R.AFE_LOOP F.AFE_LOOP_VLOOP v.toNat).setFld R.AFE_LOOP F.AFE_LOOP_ILOOP i.toNat).setFlag
      R.AFE_LOOP F.AFE_LOOP_VLOW b
    (∀ u, u = (if s.flag R.AFE_LOOP F.AFE_LOOP_VLOW then put true
        else (put true).raise 0x15 0 (v.toNat + 65536 * i.toNat)) →
      exec (.vloopLow v i) s = .next (u.loop2Chans.foldl (fun u n =>
        let w := u.setChan n { u.chan n with smpOpen := false }
        (w.setLive n (setBitN (setBitN (w.liveBits n) 0 false) 7 true) none).tapMoved n) u)) ∧
    exec (.vloopRecover v i) s = .next ((put false).loop2Chans.foldl (fun u n =>
      (u.setLive n (setBitN (u.liveBits n) 7 false) none).tapMoved n) (put false))

/-- R39, R40, R49, R53: a bridge supply in its limit sets BXLIM of the bank and of each of its BRIDGE and POT
channels, with E14, of no data, once; a conducting clamp sets CLAMP of its channel, and its end starts the channel's
settling. Completes: bridgeSupplyLimit, bridgeSupplyLimitEnd, clampConduct, clampClear. -/
def Clauses.SuppliesAndClamps : Prop :=
  ∀ (s₀ : State) (b : Fin 9) (n : Fin 132) (t : Time),
    let s := s₀.atTime t
    (s₀.afeOn = true → s₀.flag (R.AFE_BKBX b) F.AFE_BKBX_BXLIM = false → exec (.bridgeSupplyLimit b) s₀ = .next
      ((((s₀.setFlag (R.AFE_BKBX b) F.AFE_BKBX_BXLIM true)) |> fun u => (s₀.bridgeChans b).foldl (fun u n =>
        u.setLive n (setBitN (u.liveBits n) 4 true) none) u).raise 0x14 b 0)) ∧
    (s₀.afeOn = true → exec (.bridgeSupplyLimitEnd b) s₀ = .next ((s₀.bridgeChans b).foldl (fun u n =>
      u.setLive n (setBitN (u.liveBits n) 4 false) none) (s₀.setFlag (R.AFE_BKBX b) F.AFE_BKBX_BXLIM false))) ∧
    (s.afeOn = true →
      exec (.clampConduct n t) s₀ = .next ((s.setLive n (setBitN (s.liveBits n) 2 true) none).tapMoved n) ∧
      ((s.liveBits n).testBit 2 = true → exec (.clampClear n t) s₀ = .next (
        let u := s.setLive n (setBitN (s.liveBits n) 2 false) none
        (u.setChan n { u.chan n with clampEnd := some u.now }).tapMoved n)))

/-- R52, R53: the live bits of a channel stand in LIVE; each latched bit sets with its live bit and stays when the live
bit clears; AFE_FAULTSUM shows whether the channel has a latched bit; the registers of no other channel change. -/
def Clauses.LiveAndLatchedBits : Prop :=
  ∀ (s : State) (n live : Nat) (reading : Option Int), s.sound = true → n < 132 → live < 512 →
    let u := s.setLive n live reading
    u.liveBits n = live ∧
    u.fld (R.AFE_CHSTAT n) F.AFE_CHSTAT_LATCH = s.fld (R.AFE_CHSTAT n) F.AFE_CHSTAT_LATCH ||| live ∧
    (u.abit (R.AFE_FAULTSUM 0) n = decide (s.fld (R.AFE_CHSTAT n) F.AFE_CHSTAT_LATCH ||| live ≠ 0)) ∧
    s.sameRegs u (fun a => a = R.AFE_CHSTAT n ∨ a = R.AFE_FAULTSUM 0 + 4 * (n / 32))

/-- R79, R83, R85, R86, R88, R254: rotation asks for the next bank once INTERVAL has passed since BS became idle, and
moves NEXT on; FORCE asks for a bank at once, RETEST starts the test of a failed bank, INTERVAL takes 0 and 60–65,535:
0 stops rotation and releases the spare bank, the first other value takes it. Completes: rotationIntervalExpiry,
rotctlForce, rotctlRetest, rotctlInterval. -/
def Clauses.RotationRequests : Prop :=
  ∀ (s₀ : State) (p : Port) (t : Time) (v : BitVec 4) (mask : BitVec 9) (iv : BitVec 16),
    let s := s₀.atTime t
    let next := s.fld R.AFE_ROTST F.AFE_ROTST_NEXT
    let interval := s.fld R.AFE_ROTCTL F.AFE_ROTCTL_INTERVAL
    let put := s.setFld R.AFE_ROTCTL F.AFE_ROTCTL_INTERVAL iv.toNat
    let begun (u : State) := (u.setRotating { u.rot with late := false }).setFld R.AFE_ROTST F.AFE_ROTST_STEP 2
    let done (u : State) := (u.setSup { u.sup with lastLk := u.now }).answer .ok
    (s.afeOn = true → s.rot.enabled = true → s.bsIdle = true → s.rot.want = none → s.rot.late = false → interval ≠ 0 →
      s.powered 6 = true → s.powered 7 = true → s.rot.lastBack + interval * 1000000000 ≤ s.now →
      (next < 8 → exec (.rotationIntervalExpiry t) s₀ = .next
        ((s.setRotating { s.rot with want := some next, late := false }).setFld R.AFE_ROTST F.AFE_ROTST_NEXT (next + 1))) ∧
      (next = 8 → exec (.rotationIntervalExpiry t) s₀ = .next
        ((begun (s.setRotating { s.rot with want := none })).setFld R.AFE_ROTST F.AFE_ROTST_NEXT 0))) ∧
    (s₀.afeOn = true → s₀.bsIdle = true →
      (1 ≤ v.toNat → v.toNat ≤ 8 → exec (.rotctlForce p v) s₀ = .next
        ((s₀.setRotating { s₀.rot with want := some (v.toNat - 1), late := false }).answer .ok)) ∧
      (v.toNat = 9 → s₀.powered 6 = true → s₀.powered 7 = true → exec (.rotctlForce p v) s₀ = .next
        ((begun (s₀.setRotating { s₀.rot with want := none })).answer .ok))) ∧
    (s₀.afeOn = true → 9 < v.toNat → exec (.rotctlForce p v) s₀ = .next (s₀.answer .range)) ∧
    (s₀.afeOn = true → s₀.bsState = 2 → s₀.rotStep = 0 → s₀.failed s₀.served = true →
      mask.toNat.testBit s₀.served = true → s₀.powered 6 = true → s₀.powered 7 = true →
      exec (.rotctlRetest p mask) s₀ = .next ((begun s₀).answer .ok)) ∧
    (s.afeOn = true → s.lockOpen = true →
      (iv.toNat = 0 → exec (.rotctlInterval p iv t) s₀ = .next
        (let u := put.releaseClaims 0x20
         done (u.setRotating { s.rot with enabled := false }))) ∧
      (60 ≤ iv.toNat → s.rot.enabled = true → exec (.rotctlInterval p iv t) s₀ = .next (done put)) ∧
      (60 ≤ iv.toNat → s.rot.enabled = false → put.owner 64 = 0 → exec (.rotctlInterval p iv t) s₀ = .next
        (let u := put.setOwner 64 0x20
         done (u.setRotating { u.rot with enabled := true, lastBack := u.now }))) ∧
      (1 ≤ iv.toNat → iv.toNat ≤ 59 → exec (.rotctlInterval p iv t) s₀ = .next (s.answer .range)))

/-- R80–R83, R114: BS takes over a bank whose test is due where the bank stands at its SEL, unless a pair of it is
fixed; a passed test stores the new coefficients, records E1A with what they changed by and lets BS give the bank
back; a failed one leaves the bank FAILED with E17, and the first failure stops rotation with E19. Completes:
bsHandover, bsGiveBack, rotatingTestComplete, bsSelfTestComplete. -/
def Clauses.RotatingTests : Prop :=
  ∀ (s₀ : State) (r : TestResult) (b : Nat) (t : Time), (s₀.atTime t).afeOn = true →
    let s := s₀.atTime t
    (s.rot.want = some b → s.bsIdle = true → s.atSel b = true → s.powered 6 = true → s.powered 7 = true →
      s.bankFixed b = false → exec (.bsHandover t) s₀ = .next
        (((s.setRotating { s.rot with want := none }).handOver b 1).setFld R.AFE_ROTST F.AFE_ROTST_STEP 2)) ∧
    (s.rot.backDue = true → s.served < 8 → s.atSel 8 = true → exec (.bsGiveBack t) s₀ = .next s.giveBack) ∧
    (s.served < 8 → s.rotStep ≠ 0 → s.rot.backDue = false →
      (r.failStep = 0 → exec (.rotatingTestComplete r t) s₀ = .next (
        let old := (List.range 12).map (s.coefOf s.served)
        let u := ((s.putCoefs s.served r).setFailed s.served false).wr (R.AFE_ROTLAST s.served) (BitVec.ofNat 32 s.opsec)
        let new (i : Nat) := u.coefOf s.served i
        let gain (i : Nat) := (((new i).1 : Int) - (old.getD i (0, 0)).1).natAbs
        let offs (i : Nat) := ((new i).2 - (old.getD i (0, 0)).2).natAbs
        let most (f : Nat → Nat) := ((List.range 12).map f).foldl Nat.max 0
        let drift := (List.range 12).any (fun i => decide ((old.getD i (0, 0)).1 < 2000 * gain i ∨ 8388608 < 10000 * offs i))
        let u := (u.raiseF 0x1A s.served (data2 (most gain) (most offs)) drift).setFld R.AFE_ROTST F.AFE_ROTST_STEP 10
        u.setRotating { u.rot with backDue := true })) ∧
      (r.failStep ≠ 0 → s.bsState = 1 → exec (.rotatingTestComplete r t) s₀ = .next (
        let u := ((s.setFailed s.served true).raise 0x17 s.served r.failData.toNat).setFld R.AFE_ROTST F.AFE_ROTST_STEP 0
        (u.setFld R.AFE_ROTST F.AFE_ROTST_BSSTATE 2).raise 0x19 0 0))) ∧
    (s.served = 15 → s.rotStep ≠ 0 →
      (r.failStep = 0 → exec (.bsSelfTestComplete r t) s₀ = .next (
        let u := ((s.passTest 8 r).setFld R.AFE_ROTST F.AFE_ROTST_STEP 0).setFld R.AFE_ROTST F.AFE_ROTST_BSSTATE 0
        u.setRotating { u.rot with lastBack := u.now })) ∧
      (r.failStep ≠ 0 → exec (.bsSelfTestComplete r t) s₀ = .next (s.failTest 8 3 r)))

/-! ### Channel programs -/

/-- R92, R95, R101, R103: HALT halts; JMP goes to its target; LOOP counts down and goes back, or ends and goes on; STL
waits n × 10 µs, or not at all; WAITT takes a pending tick or waits for the next. Completes: halt, jmp, loop, stl,
waitt. -/
def Clauses.ProgramFlow : Prop :=
  ∀ (s₀ : State) (q : Fin 9) (tgt : BitVec 9) (ctr : Fin 4) (n : Fin 257) (m : BitVec 16) (i : Fin 16) (t : Time),
    s₀.seqReady q = true →
    let s := s₀.atTime t
    let on (u : State) := u.setFld (R.SEQ_PC q) F.SEQ_PC_PC (u.fld (R.SEQ_PC q) F.SEQ_PC_PC + 1)
    let x := tabGet (dflt (false, 0)) (s₀.seq q).loops ctr.val
    let left := (if x.1 then x.2 else n.val) - 1
    let ctrTo (y : Bool × Nat) := s₀.setSeq q
      { s₀.seq q with loops := tabSet (dflt (false, 0)) (s₀.seq q).loops ctr.val y }
    exec (.halt q) s₀ = .next (s₀.setFld (R.SEQ_CTL q) F.SEQ_CTL_STATE 1) ∧
    exec (.jmp q tgt) s₀ = .next (s₀.setFld (R.SEQ_PC q) F.SEQ_PC_PC tgt.toNat) ∧
    (0 < left → exec (.loop q ctr tgt n) s₀ =
      .next ((ctrTo (true, left)).setFld (R.SEQ_PC q) F.SEQ_PC_PC tgt.toNat)) ∧
    (left = 0 → exec (.loop q ctr tgt n) s₀ = .next (on (ctrTo (false, 0)))) ∧
    (m.toNat = 0 → exec (.stl q m t) s₀ = .next (on s)) ∧
    (m.toNat ≠ 0 → exec (.stl q m t) s₀ = .next ((s.setSeq q
      { s.seq q with wait := .stl (s.now + m.toNat * 10000) }).setFld (R.SEQ_PC q) F.SEQ_PC_WAIT 2)) ∧
    (s₀.pend q i = true → exec (.waitt q i) s₀ = .next (on (s₀.setPend q i false))) ∧
    (s₀.pend q i = false → exec (.waitt q i) s₀ = .next ((s₀.setSeq q
      { s₀.seq q with wait := .waitt i.val }).setFld (R.SEQ_PC q) F.SEQ_PC_WAIT 4))

/-- R95, R96, R104: the waits of STL, SEL and SYNC end: a settle wait at its time, a selection once 125 µs have
passed, a SYNC when every program of its mask waits with its ID, or after its timeout, which is counted and recorded
as E1D. Completes: stlWaitEnd, selSpacingEnd, syncTimeout, syncRelease. -/
def Clauses.ProgramWaitsEnd : Prop :=
  ∀ (s₀ : State) (q : Fin 9) (t due : Time) (sets : BitVec 15) (pos : Fin 17) (id : BitVec 3) (mask : BitVec 8),
    let s := s₀.atTime t
    (s.seqRuns q = true → (s.seq q).wait = .stl due → due ≤ s.now →
      exec (.stlWaitEnd q t) s₀ = .next ((s.seqWait q .none).seqNext q)) ∧
    (s.seqRuns q = true → (s.seq q).wait = .sel sets pos → s.selSpaced q = true →
      exec (.selSpacingEnd q t) s₀ = .next (s.doSel q sets.toNat pos.val)) ∧
    (s.seqRuns q = true → (s.seq q).wait = .sync id mask due → due ≤ s.now →
      exec (.syncTimeout q t) s₀ = .next (((s.countSyncTo q).seqWait q .none).seqNext q)) ∧
    (∀ w, (s₀.seqRuns q = true ∧ (s₀.seq q).wait = .sync id w due ∧
          ∀ b : Fin 8, w.getLsbD b = true → s₀.atSync (s₀.server b) id = true) →
        (∀ r : Fin 9, r ≠ q → s₀.syncMet r id = false) →
      exec (.syncRelease id) s₀ = .next ((s₀.seqWait q .none).seqNext q))

/-- R55, R96, R98, R107: SEL takes its channel: the configuration the registers hold, position and half, the settle
time (SETS × 10 µs, or the channel's SETTLE where SETS is 0), the settle stamps, and the next address. Where the edit
makes a LOOP2 channel of another, or another of a LOOP2 channel, its loop switch moves first (`State.takeCfg`).
Completes: sel. -/
def Clauses.SelectChannel : Prop :=
  ∀ (s₀ : State) (q : Fin 9) (sets : BitVec 15) (pos : Fin 17) (t : Time), s₀.sound = true →
    (s₀.atTime t).seqReady q = true → (s₀.atTime t).selSpaced q = true →
    (pos.val = 16 → (s₀.atTime t).seqBank q % 2 = 1) →
    let s := s₀.atTime t
    let n := posChan (s.seqBank q) pos.val
    let w := (s.takeCfg n).takeBxv q (s.seqBank q)
    let settle := if sets.toNat = 0 then fldOf F.AFE_CHCFG_SETTLE (w.chan n).cfg * 10000 else sets.toNat * 10000
    (∃ u, exec (.sel q sets pos t) s₀ = .next u ∧
      u.fld (R.SEQ_PC q) F.SEQ_PC_POS = pos.val ∧ u.seqHalf q = false ∧ u.seqPc q = (w.seqPc q + 1) % 512 ∧
      (u.chan n).cfg = (w.chan n).cfg ∧ (u.chan n).rng = (w.chan n).rng ∧
      (u.seq q).lastSel = some w.now ∧ (u.seq q).settle = settle ∧ (u.seq q).stamp = w.now ∧
      (u.seq q).settledAt = w.now + settle ∧ (u.seq q).cnv = none ∧ (u.seq q).wait = .none) ∧
    ((s.chanType n = 12 ↔ s.fld (R.AFE_CHCFG n) F.AFE_CHCFG_TYPE = 12) →
      (w.chan n).cfg = s.rd (R.AFE_CHCFG n) ∧ (w.chan n).rng = s.rd (R.AFE_RNG n) ∧ w.now = s.now ∧
        w.seqPc q = s.seqPc q)

/-- R98, R102, R107: EXC sets source, level and terminal of the selected channel and moves the stamps, and changes
nothing where they are in place; SWP enters the other half of a 3-wire channel, its terminal with it, and does nothing
on another. Completes: exc, swp. -/
def Clauses.ExcitationAndSwap : Prop :=
  ∀ (s₀ : State) (q : Fin 9) (n : Nat) (src : Bool) (term : BitVec 2) (iexc : BitVec 11) (set2 : BitVec 16) (t : Time),
    s₀.sound = true → (s₀.atTime t).seqReady q = true → (s₀.atTime t).scannedChan q = some n →
    let s := s₀.atTime t
    let lvl := if iexc.toNat = 0 then s.level q src else iexc.toNat
    let trm := if term.toNat = 0 then s.ownTerm q n else if term.toNat = 3 then 0 else term.toNat
    let same := (s.seq q).src = src ∧ s.level q src = lvl ∧ s.term q src = trm
    (usesCurrent (s.chanType n) = true → (iexc.toNat = 0 ∨ 50 ≤ iexc.toNat ∧ iexc.toNat ≤ 2000) →
      (same → exec (.exc q src term iexc t) s₀ = .next (s.seqNext q)) ∧
      (¬ same → ∃ u, exec (.exc q src term iexc t) s₀ = .next u ∧ u.level q src = lvl ∧ u.term q src = trm ∧
        u.term q (!src) = 0 ∧ (u.seq q).src = src ∧ (u.seq q).stamp = s.now ∧
        (u.seq q).settledAt = max (s.seq q).settledAt (s.now + (s.seq q).settle) ∧
        u.seqPc q = (s.seqPc q + 1) % 512)) ∧
    (s.threeWire n = true → ∃ u, exec (.swp q set2 t) s₀ = .next u ∧ u.seqHalf q = !(s.seqHalf q) ∧
      u.term q (s.seq q).src = (if s.seqHalf q then 1 else 2) ∧ (u.seq q).stamp = s.now ∧
      (u.seq q).settledAt = max (s.seq q).settledAt (s.now +
        (if s.seqHalf q = false ∧ set2.toNat ≠ 0 then set2.toNat * 10000 else (s.seq q).settle)) ∧
      u.seqPc q = (s.seqPc q + 1) % 512) ∧
    (s.threeWire n = false → exec (.swp q set2 t) s₀ = .next (s.seqNext q))

/-- R68, R99: PAIR sets the pair of the half in use at once, limited to MINP–MAXP; PAIR FIX fixes it as given; PAIR
RELEASE ends a fixed pair; a K that the TYPE does not allow is PAIRERR. Completes: pairSet, pairFix, pairRelease. -/
def Clauses.ProgramPairs : Prop :=
  ∀ (s₀ : State) (q : Fin 9) (n lo hi : Nat) (half : Bool) (k : Fin 5) (t : Time), s₀.sound = true →
    (s₀.atTime t).seqReady q = true → (s₀.atTime t).scannedChan q = some n →
    (s₀.atTime t).threeWire n = true ∧ half = (s₀.atTime t).seqHalf q ∨ (s₀.atTime t).threeWire n = false ∧
      half = false →
    pairSpan ((s₀.atTime t).chanType n) = some (lo, hi) →
    let s := s₀.atTime t
    let rng := (s.chan n).rng
    (lo ≤ k.val → k.val ≤ hi →
      (∃ u, exec (.pairSet q half k t) s₀ = .next u ∧ ((u.chan n).half half).pair =
        min (max k.val (fldOf F.AFE_RNG_MINP rng)) (fldOf F.AFE_RNG_MAXP rng) ∧ u.seqPc q = (s.seqPc q + 1) % 512) ∧
      (∃ u, exec (.pairFix q half k t) s₀ = .next u ∧ ((u.chan n).half half).pair = k.val ∧
        ((u.chan n).half half).fixed = true ∧ u.seqPc q = (s.seqPc q + 1) % 512)) ∧
    ((k.val < lo ∨ hi < k.val) →
      exec (.pairSet q half k t) s₀ = .next ((s.seqFault q F.SEQ_FAULT_PAIRERR 2).seqNext q) ∧
      exec (.pairFix q half k t) s₀ = .next ((s.seqFault q F.SEQ_FAULT_PAIRERR 2).seqNext q)) ∧
    (∃ u, exec (.pairRelease q half) s = .next u ∧ ((u.chan n).half half).fixed = false ∧
      ((u.chan n).half half).pair = ((s.chan n).half half).pair ∧
      ((u.chan n).half half).released = (((s.chan n).half half).released || ((s.chan n).half half).fixed))

/-- R71, R97, R98: CNV begins K conversions from now; each result is complete one interval after the last and replaces
one not taken; PUT takes the result, waits for the next one, or is NORES where there is none to come. Completes: cnv,
conversionResult, put. -/
def Clauses.ProgramConversions : Prop :=
  ∀ (s₀ : State) (q : Fin 9) (n : Nat) (filt : Fin 7) (k : Fin 4097) (last : Bool) (lo up exc : Int) (comp cl : Bool)
    (t : Time) (c : Cnv), s₀.sound = true → (s₀.atTime t).scannedChan q = some n → (s₀.atTime t).seqRuns q = true →
    (s₀.atTime t).sendHeld q = false →
    let s := s₀.atTime t
    let w := (s.seq q).wait
    (w = .none → k.val = 0 → exec (.cnv q filt k t) s₀ = .next (s.seqNext q)) ∧
    (w = .none → k.val ≠ 0 → ∃ u, exec (.cnv q filt k t) s₀ = .next u ∧
      (u.seq q).cnv = some ⟨filt.val, k.val, s.now, 0, none⟩ ∧ (u.seq q).refill = none ∧
      u.seqPc q = (s.seqPc q + 1) % 512) ∧
    ((s.seq q).cnv = some c → c.count < c.k →
      c.start + c.count * filterInterval c.filt + filterWindow c.filt ≤ s.now → w = .none →
      exec (.conversionResult q lo up comp cl exc t) s₀ = .next (
        let r := s.makeRes q n (c.start + c.count * filterInterval c.filt) lo up comp cl exc
        let u := s.showRaw q n r
        u.setSeq q { u.seq q with cnv := some { c with count := c.count + 1, latest := some r } })) ∧
    (w = .none → (s.seq q).cnv = none → exec (.put q last t) s₀ = .next
      (((s.seqFault q F.SEQ_FAULT_NORES 0).seqWait q .none).seqNext q)) ∧
    (w = .none → (s.seq q).cnv = some c → c.latest = none → c.count < c.k → exec (.put q last t) s₀ = .next
      ((s.setSeq q { s.seq q with wait := .put last }).setFld (R.SEQ_PC q) F.SEQ_PC_WAIT 3)) ∧
    (∀ r, w = .none → (s.seq q).cnv = some c → c.latest = some r → (last = false ∨ c.count = c.k) →
      exec (.put q last t) s₀ = .next (
        let u := s.takeResult q n r
        ((u.setSeq q { u.seq q with cnv := some { c with latest := none } }).seqWait q .none).seqNext q))

/-- R72: a sample word gives back the quality, the range tag, the straddle, clamp and substitute bits and the signed value
it was made of, for every value of 24 signed bits. -/
def Obligations.SampleWordFields : Prop :=
  ∀ (quality tag : Nat) (straddle clamp subst : Bool) (v : Int), quality < 4 → tag < 8 → -8388608 ≤ v → v ≤ 8388607 →
    let w := mkSample quality tag straddle clamp subst v
    swQuality w = quality ∧ swTag w = tag ∧ swValue w = v ∧ w.getLsbD 26 = straddle ∧ w.getLsbD 25 = clamp ∧
      w.getLsbD 24 = subst

/-- R47, R51, R100, R107: CHK waits for its measurements, its burnout current changing at the instants that move the
stamps; its verdict sets OPEN where a shift exceeds 50 mV, leaves it where a clamp conducted, and the program goes on.
Completes: chk, chkVerdict. -/
def Clauses.OpenCheck : Prop :=
  ∀ (s₀ : State) (q : Fin 9) (n : Nat) (filt : Fin 7) (ref first second : Int) (t due : Time) (marks : List Time),
    s₀.sound = true → n < 132 → (s₀.atTime t).scannedChan q = some n → (s₀.atTime t).seqRuns q = true →
    let s := s₀.atTime t
    let shifted (x : Int) : Bool := decide (50000000000 < (if x ≤ ref then ref - x else x - ref))
    let m := if s.chanType n ≤ 4 then 2 else 1
    let win := filterWindow filt.val
    let settle := (s.seq q).settle
    ((s.seq q).wait = .none → s.sendHeld q = false → s.chkApplies n = true → exec (.chk q filt t) s₀ = .next (
      let u := s.setSeq q { s.seq q with cnv := none, refill := none }
      let moves := (List.range m).map (fun k => s.now + win + k * (settle + win))
      u.seqWait q (.chk (moves ++ [s.now + ((m + 1) * win + m * settle)]) (s.now + ((m + 1) * win + m * settle))))) ∧
    ((s.seq q).wait = .none → s.sendHeld q = false → s.chkApplies n = false →
      exec (.chk q filt t) s₀ = .next (s.seqNext q)) ∧
    ((s.seq q).wait = .chk marks due → due ≤ s.now →
      exec (.chkVerdict q ref first second true t) s₀ =
        .next ((((marks.filter (fun t => t ≤ s.now)).foldl (fun u t => u.stampAt q settle t) s).seqWait q .none).seqNext q) ∧
      ∃ u, exec (.chkVerdict q ref first second false t) s₀ = .next u ∧
        (u.chan n).chkOpen = (shifted first || m == 2 && shifted second) ∧
        (u.liveBits n).testBit 0 = (shifted first || m == 2 && shifted second || (s.chan n).smpOpen))

/-- R103, R105, R106: a scan timer ticks at its instants, counts, and releases or marks pending the program that
claims it; PERIOD takes 125 µs–100 s while it is claimed, 0 only while it is free, PHASE what lies below PERIOD.
Completes: scanTimerTick, scanTimerPeriodWrite, scanTimerPhaseWrite. -/
def Clauses.ScanTimers : Prop :=
  ∀ (s₀ : State) (p : Port) (i : Fin 16) (v : BitVec 27) (t due : Time), (s₀.atTime t).powered 4 = true →
    let s := s₀.atTime t
    (s.islandOn 4 = true → (s.timer i).next = some due → due ≤ s.now → exec (.scanTimerTick i t) s₀ = .next (
      let per := (s.timer i).newPeriod.getD (s.timer i).period
      let u := (s.setTimer i ⟨if per = 0 then none else some (due + per * 1000), none, per, (s.timer i).phase⟩).addFld
        (R.SEQ_STCNT i) F.SEQ_STCNT_TICKS 1
      match u.tmrSeq i with
      | some q => u.tickSeq q i
      | none => u)) ∧
    (s.lockOpen = true → (1 ≤ v.toNat ∧ v.toNat ≤ 124 ∨ 100000000 < v.toNat) →
      exec (.scanTimerPeriodWrite p i v t) s₀ = .next (s.answer .range)) ∧
    (s.lockOpen = true → v.toNat = 0 → s.owner (48 + i.val) ≠ 0 →
      exec (.scanTimerPeriodWrite p i v t) s₀ = .next (s.answer .state)) ∧
    (∀ o, s.lockOpen = true → 125 ≤ v.toNat → v.toNat ≤ 100000000 → (s.timer i).next = some o →
      exec (.scanTimerPeriodWrite p i v t) s₀ = .next (
        let u := (s.setFld (R.SEQ_STPER i) F.SEQ_STPER_PERIOD v.toNat).setTimer i
          { s.timer i with newPeriod := some v.toNat }
        (u.setSup { u.sup with lastLk := u.now }).answer .ok)) ∧
    (s.lockOpen = true → s.fld (R.SEQ_STPER i) F.SEQ_STPER_PERIOD ≤ v.toNat →
      exec (.scanTimerPhaseWrite p i v t) s₀ = .next (s.answer .range)) ∧
    (s.lockOpen = true → v.toNat < s.fld (R.SEQ_STPER i) F.SEQ_STPER_PERIOD →
      exec (.scanTimerPhaseWrite p i v t) s₀ = .next (
        let u := s.setFld (R.SEQ_STPH i) F.SEQ_STPH_PHASE v.toNat
        (u.setSup { u.sup with lastLk := u.now }).answer .ok))

/-- R104, R111, R112, R116: SYNC waits with its deadline; STOP frees the claims, drops the words and leaves STOPPED;
START checks the store and runs it from 0x000, or refuses it with its status; a store word is edited while STOPPED.
Completes: sync, seqStop, seqStart, seqStoreWrite. -/
def Clauses.ProgramLoadAndSync : Prop :=
  ∀ (s₀ : State) (p : Port) (q : Fin 9) (tmo : BitVec 8) (id : BitVec 3) (mask : BitVec 8) (a : BitVec 9) (w : Word)
    (t : Time),
    let s := s₀.atTime t
    let done (u : State) (r : Status) := (u.setSup { u.sup with lastLk := u.now }).answer r
    (s.seqReady q = true → mask.getLsbD (s.seqBank q) = true → exec (.sync q tmo id mask t) s₀ = .next ((s.setSeq q
      { s.seq q with wait := .sync id mask (s.now + (tmo.toNat + 1) * 1000000) }).setFld (R.SEQ_PC q) F.SEQ_PC_WAIT 5)) ∧
    (s.powered 4 = true → s.lockOpen = true → q.val ≠ 8 → s.seqState q ≠ 3 →
      exec (.seqStop p q t) s₀ = .next (
        let u := (s.setSeq q { s.seq q with cnv := none, refill := none, v1 := none }).seqWait q .none
        let u := ((u.releaseClaims (0x10 + q.val)).wr (R.SEQ_TMR q) 0).setFld (R.SEQ_CTL q) F.SEQ_CTL_STATE 2
        done ((bankChans q.val).foldl State.dropWord u) .ok)) ∧
    (s.powered 4 = true → s.lockOpen = true → q.val ≠ 8 → s.seqState q = 2 →
      (s.firstFault q = none → ∃ u, exec (.seqStart p q t) s₀ = .next u ∧ u.status = .ok ∧
        (s₀.sound = true → u.seqState q = 0 ∧ u.seqPc q = 0 ∧ u.seqHalf q = false)) ∧
      (∀ f r, s.firstFault q = some (f, r) →
        exec (.seqStart p q t) s₀ = .next (done (s.refuseProg q f r) r)) ∧
      exec (.seqStoreWrite p q a w t) s₀ = .next (done
        ((s.setFld (R.SEQ_PROG q a.toNat) F.SEQ_PROG_INSTR (w.toNat % 16777216)).setFlag (R.SEQ_CTL q) F.SEQ_CTL_EDITED
          true) .ok)) ∧
    (s.powered 4 = true → s.lockOpen = true → q.val ≠ 8 → s.seqState q ≠ 2 →
      exec (.seqStoreWrite p q a w t) s₀ = .next (s.answer .state))

/-- R111: a word that the load check refuses never stands in a loaded program; given to a running sequencer it is refused
by name (log 29). -/
def Clauses.WordsNeverLoaded : Prop :=
  ∀ (s₀ : State) (q : Fin 9) (sets : BitVec 15) (src : Bool) (term : BitVec 2) (iexc : BitVec 11) (tmo mask : BitVec 8)
    (id : BitVec 3) (t : Time), (s₀.atTime t).seqReady q = true →
    ((s₀.atTime t).seqBank q % 2 = 0 → exec (.sel q sets 16 t) s₀ = .refused (.neverLoaded "SEL")) ∧
    ((iexc.toNat ≠ 0 ∧ iexc.toNat < 50 ∨ 2000 < iexc.toNat) →
      exec (.exc q src term iexc t) s₀ = .refused (.neverLoaded "EXC")) ∧
    (mask.getLsbD ((s₀.atTime t).seqBank q) = false →
      exec (.sync q tmo id mask t) s₀ = .refused (.neverLoaded "SYNC"))

/-! ### Snowline: limits -/

/-- R120: the limits on a value set at their threshold and clear beyond the hysteresis; between the two they keep their
state. HI and HIHI look upward, LO and LOLO downward, BAND at the distance from TH; RATE and DEV have a threshold of either
sign. -/
def Clauses.LimitConditions : Prop :=
  ∀ (x : Ent) (v th hys : Int) (old : Bool),
    ((x.type = 0 ∨ x.type = 2) → valueCond x v old = (decide (x.th ≤ v) || (old && decide (x.th - x.hys ≤ v)))) ∧
    ((x.type = 1 ∨ x.type = 3) → valueCond x v old = (decide (v ≤ x.th) || (old && decide (v ≤ x.th + x.hys)))) ∧
    (x.type = 4 → valueCond x v old = (decide ((x.param : Int) ≤ |v - x.th|) ||
      (old && decide ((x.param : Int) - x.hys ≤ |v - x.th|)))) ∧
    (0 < th → 0 ≤ hys → signedCond th hys v old = (decide (th ≤ v) || (old && decide (th - hys ≤ v)))) ∧
    (th < 0 → 0 ≤ hys → signedCond th hys v old = (decide (v ≤ th) || (old && decide (v ≤ th + hys))))

/-- R123–R125, R127, R136, R374: the next word of the crossing is evaluated, once alarms are ready; before that it is
kept for the first pass and stands in the live table, unless a newer word of its channel does. A delay applies its
condition at the first tick of the delay clock at or after its end; an entry with an uncorrectable error holds its
state. Completes: limitEvaluate, delayDue. -/
def Clauses.LimitEvaluation : Prop :=
  ∀ (s₀ : State) (e : Fin 2048) (x : InWord) (l : List InWord) (o t : Time), (s₀.atTime t).almOn = true →
    let s := s₀.atTime t
    let u := s.setLim { s.lim with inbox := l }
    let due (end_ : Time) : Prop :=
      s.epoch + (max end_ (s.entSt e).editAt - s.epoch + 999999) / 1000000 * 1000000 ≤ s.now
    (s.lim.inbox = x :: l → s.sup.alarmReady = true → exec (.limitEvaluate t) s₀ = .next (u.takeWord x)) ∧
    (s.lim.inbox = x :: l → s.sup.alarmReady = false → exec (.limitEvaluate t) s₀ = .next (
      let w := u.setLimChan x.ch { u.limChan x.ch with word := x.word, at_ := some s.now, evaluable := x.evaluable }
      let w := w.setLim { w.lim with early := tabSet (dflt none) w.lim.early x.ch (some x) }
      if l.any (fun y => y.ch == x.ch) then w else w.setSample x.ch x.word)) ∧
    (s.flag (R.LIM_STATE e) F.LIM_STATE_ECCERR = true → exec (.delayDue e t) s₀ = .next s) ∧
    (s.flag (R.LIM_STATE e) F.LIM_STATE_ECCERR = false →
      ((s.entSt e).onFrom = some o → due (o + (s.ent e).onDelay) →
        s.flag (R.LIM_STATE e) F.LIM_STATE_COND = true → s.entryAct e = false →
        exec (.delayDue e t) s₀ = .next (s.setAct e true false)) ∧
      ((s.entSt e).onFrom = none → (s.entSt e).offFrom = some o → due (o + (s.ent e).offDelay) →
        s.flag (R.LIM_STATE e) F.LIM_STATE_COND = false → s.entryAct e = true →
        exec (.delayDue e t) s₀ = .next (s.setAct e false false)))

/-- R126, R218: an inhibit bit takes effect at once and records E22; cleared, it ends at once where its release delay
is 0 and otherwise when the delay has run out. An index above 63 is ADDRESS. Completes: inhibitBit,
inhibitReleaseExpiry. -/
def Clauses.LimitInhibits : Prop :=
  ∀ (s₀ : State) (i : BitVec 16) (n : Fin 64) (from_ : Time) (t : Time),
    let s := s₀.atTime t
    let set (on : Bool) := s.setAbit (R.LIM_INH 0) i.toNat on
    (64 ≤ i.toNat → ∀ on, exec (.inhibitBit i on t) s₀ = .next (s.answer .address)) ∧
    (i.toNat < 64 → exec (.inhibitBit i true t) s₀ =
      .next ((((set true).setRelease i.toNat none).setEffective i.toNat true).answer .ok)) ∧
    (i.toNat < 64 → s.abit (R.LIM_INH 0) i.toNat = true →
      ((set false).inhDelay i.toNat = 0 → exec (.inhibitBit i false t) s₀ =
        .next (((set false).setEffective i.toNat false).answer .ok)) ∧
      ((set false).inhDelay i.toNat ≠ 0 → exec (.inhibitBit i false t) s₀ =
        .next (((set false).setRelease i.toNat (some s.now)).answer .ok))) ∧
    (s.almOn = true → tabGet (dflt none) s.lim.release n = some from_ → s.delayDue (from_ + s.inhDelay n) = true →
      s.abit (R.LIM_INH 0) n = false →
      exec (.inhibitReleaseExpiry n t) s₀ = .next ((s.setRelease n none).setEffective n false)) ∧
    (∀ on, s.inhEffective n = on → s.setEffective n on = s) ∧
    (∀ on, s.inhEffective n ≠ on → s.setEffective n on = (s.inhEntries n).foldl State.followInh
      ((s.setAbit (R.LIM_INHEFF 0) n on).raise 0x22 n on.toNat))

/-- R136, R139: the scrub counts a corrected word with E23 and takes an entry with an uncorrectable one out of service
with E24 and a cycle of its domain; a staging command waits, with BUSY, for its check, and is refused DENIED while the
lock is closed, BUSY while one waits, RANGE for an index beyond its table; its result stands in LIM_STGST. Completes:
limitScrub, limStageEntry, limStageIndex, limStageSet, limStageApply. -/
def Clauses.LimitScrubAndStaging : Prop :=
  ∀ (s₀ : State) (p : Port) (e : Fin 2048) (idx : BitVec 11) (t : Time), s₀.almOn = true → s₀.powered 4 = true →
    let s := s₀.atTime t
    let wait (f : Nat) :=
      let u := (s.setFlag R.LIM_STGST F.LIM_STGST_BUSY true).setLim { s.lim with staged := some (f, idx.toNat) }
      (u.setSup { u.sup with lastLk := u.now }).answer .ok
    exec (.limitScrub e .corrected) s₀ = .next ((s₀.addFld R.LIM_STAT F.LIM_STAT_ECCC 1).raise 0x23 e 0) ∧
    exec (.limitScrub e .uncorrectable) s₀ = .next
      (((s₀.setFlag (R.LIM_STATE e) F.LIM_STATE_ECCERR true).raise 0x24 e 0).needCycle 4 1) ∧
    exec (.limitScrub e .clean) s₀ = .next s₀ ∧
    (s.lockOpen = false → exec (.limStageEntry p idx t) s₀ = .next (s.answer .denied)) ∧
    (s.lockOpen = true → s.flag R.LIM_STGST F.LIM_STGST_BUSY = false →
      let bad := (s.setFld R.LIM_STGST F.LIM_STGST_STAT Status.range.code).answer .range
      (256 ≤ idx.toNat → exec (.limStageIndex p idx t) s₀ = .next bad) ∧
      (64 ≤ idx.toNat → exec (.limStageSet p idx t) s₀ = .next bad)) ∧
    (s.lockOpen = true → s.flag R.LIM_STGST F.LIM_STGST_BUSY = true →
      exec (.limStageEntry p idx t) s₀ = .next (s.answer .busy)) ∧
    (s.lockOpen = true → s.flag R.LIM_STGST F.LIM_STGST_BUSY = false →
      exec (.limStageEntry p idx t) s₀ = .next (wait 1) ∧
      (idx.toNat < 256 → exec (.limStageIndex p idx t) s₀ = .next (wait 2)) ∧
      (idx.toNat < 64 → exec (.limStageSet p idx t) s₀ = .next (wait 3))) ∧
    (∀ k,
      let w (i : Nat) : Word := s.rd (R.LIM_STG i)
      let x : Ent := ⟨w 0, w 1, w 2, w 3⟩
      let done (u : State) (r : Status) :=
        (u.setLim { u.lim with staged := none }).wr R.LIM_STGST (BitVec.ofNat 32 r.code)
      (s.lim.staged = some (1, k) →
        (s.entValid k x = false → exec (.limStageApply t) s₀ = .next (done s .range)) ∧
        (s.entValid k x = true → s.owner (65 + k / 128) = 0x22 → exec (.limStageApply t) s₀ = .next (done s .claim)) ∧
        (s.entValid k x = true → s.owner (65 + k / 128) ≠ 0x22 → exec (.limStageApply t) s₀ = .next (done
          (((s.replaceEntry k x).setFlag R.LIM_STAT F.LIM_STAT_EDITED true).raise 0x26 k 0) .ok))) ∧
      (s.lim.staged = some (2, k) →
        exec (.limStageApply t) s₀ = .next (done (s.stageIndex k (w 0)).2 (s.stageIndex k (w 0)).1)) ∧
      (s.lim.staged = some (3, k) →
        exec (.limStageApply t) s₀ = .next
          (done (s.stageSet k (w 0) (w 1) (w 2)).2 (s.stageSet k (w 0) (w 1) (w 2)).1)))

/-! ### Pergola: trips -/

/-- R148: a term holds exactly when it has literals and each of them holds. -/
def Clauses.TripTerms : Prop :=
  ∀ (sig k : Nat) (l : List (Nat × Word)),
    (termsOf sig l).testBit k =
      (l.any (fun e => e.1 / 8 == k) && l.all (fun e => e.1 / 8 != k || literalsHold sig (e.1 % 8) e.2))

/-- R149, R150: an enabled output with a nonempty mask is asserted when one of its terms holds, inverted by POL; a disabled
output or one with an empty mask is not. A latch sets, resets or keeps; set and reset together follow RDOM; a disabled
latch is 0. -/
def Clauses.TripOutputsAndLatches : Prop :=
  ∀ (s : State) (terms o : Nat),
    ((s.flag (R.TRP_OCFG o) F.TRP_OCFG_EN = false ∨ s.mask128 (R.TRP_OSUM o) = 0) → s.outputFor terms o = false) ∧
    (s.flag (R.TRP_OCFG o) F.TRP_OCFG_EN = true → s.mask128 (R.TRP_OSUM o) ≠ 0 →
      s.outputFor terms o = xor (decide (s.mask128 (R.TRP_OSUM o) &&& terms ≠ 0)) (s.flag (R.TRP_OCFG o) F.TRP_OCFG_POL)) ∧
    (s.flag (R.TRP_LCFG o) F.TRP_LCFG_EN = false → s.latchFor terms o = false) ∧
    (s.flag (R.TRP_LCFG o) F.TRP_LCFG_EN = true →
      let set := s.mask128 (R.TRP_LSET o) &&& terms
      let rst := s.mask128 (R.TRP_LRST o) &&& terms
      (set = 0 → rst = 0 → s.latchFor terms o = (s.fld R.TRP_LATCH F.TRP_LATCH_TL).testBit o) ∧
      (set ≠ 0 → rst = 0 → s.latchFor terms o = true) ∧ (set = 0 → rst ≠ 0 → s.latchFor terms o = false) ∧
      (set ≠ 0 → rst ≠ 0 → s.latchFor terms o = !(s.flag (R.TRP_LCFG o) F.TRP_LCFG_RDOM)))

/-- R49, R142–R147, R152, R158–R160: a level passes its synchronizer, is filtered where GF is not 0 until it has been
stable for GF trip cycles, and the array is evaluated; before evaluation begins a level waits at its terminal; a
comparator sees 0 V of an open loop switch and the voltage of a conducting clamp, and drives inputs 48–63; a scrub
counts with E35, or records E36 and asks for a cycle of PD5. Completes: tripInputChange, glitchFilterPass,
acOutputChange, fcEdge, fcTimeout, tripStoreScrub. -/
def Clauses.TripInputs : Prop :=
  ∀ (s₀ : State) (n : Fin 64) (c : Fin 12) (f : Fin 4) (lvl : Bool) (v : Int) (w : Nat) (t : Time),
    let s := s₀.atTime t
    (s.trpOn = false → n.val < 48 → exec (.tripInputChange n lvl t) s₀ = .next (s.setNative n lvl)) ∧
    (s.trpOn = true → n.val < 48 →
      let u := ((s.setAbit (R.DIO_DIRAW 0) n (s.diLevel n lvl)).setNative n lvl).noteRaw n
      (u.fld (R.TRP_INCFG n) F.TRP_INCFG_GF ≠ 0 → exec (.tripInputChange n lvl t) s₀ = .next u) ∧
      (u.fld (R.TRP_INCFG n) F.TRP_INCFG_GF = 0 → u.inputRaw n = u.inputLevel n →
        exec (.tripInputChange n lvl t) s₀ = .next u) ∧
      (u.fld (R.TRP_INCFG n) F.TRP_INCFG_GF = 0 → u.inputRaw n ≠ u.inputLevel n →
        exec (.tripInputChange n lvl t) s₀ = .next ((u.tripCatchUp.setAbit (R.TRP_IN 0) n (u.inputRaw n)).evaluate))) ∧
    (s.trpOn = true → 48 ≤ n.val → exec (.tripInputChange n lvl t) s₀ = .next
      ((s.setNative n (if n.val < 60 then s.flag (R.TRP_ACST (n.val - 48)) F.TRP_ACST_OUT
        else s.flag (R.TRP_FCST (n.val - 60)) F.TRP_FCST_OUT)).inputMoved n)) ∧
    (s.trpOn = true → s.inputRaw n ≠ s.inputLevel n →
      tabGet (dflt 0) s.trp.movedAt n + s.fld (R.TRP_INCFG n) F.TRP_INCFG_GF * 4 ≤ s.now →
      exec (.glitchFilterPass n t) s₀ = .next ((s.tripCatchUp.setAbit (R.TRP_IN 0) n (s.inputRaw n)).evaluate)) ∧
    (let u := s.setTrp { s.trp with acIn := tabSet (dflt none) s.trp.acIn c (some v) }
     (s.trpOn = false → exec (.acOutputChange c v t) s₀ = .next u) ∧
     (s.trpOn = true → s.flag (R.TRP_ACCFG c) F.TRP_ACCFG_EN = true → s.fld (R.TRP_ACCFG c) F.TRP_ACCFG_MODE = 0 →
      let ch := s.fld (R.TRP_ACCFG c) F.TRP_ACCFG_CHAN
      let seen : Int := if s.loopOpen ch then 0
        else if (s.fld (R.AFE_CHSTAT ch) F.AFE_CHSTAT_LIVE).testBit 2 then (if v < 0 then -11500000000 else 11500000000)
        else v
      let hi := s.sfld (R.TRP_ACTH c) F.TRP_ACTH_HI * 312500
      let hys : Int := s.fld (R.TRP_ACHYS c) F.TRP_ACHYS_HYS * 312500
      let new := decide (hi ≤ seen) || (s.flag (R.TRP_ACST c) F.TRP_ACST_OUT && decide (hi - hys ≤ seen))
      exec (.acOutputChange c v t) s₀ = .next
        (((u.setFlag (R.TRP_ACST c) F.TRP_ACST_OUT new).setNative (48 + c.val) new).inputMoved (48 + c.val)))) ∧
    (s.trpOn = true → s.lastEdge f = none → exec (.fcEdge f t) s₀ = .next
      (s.setTrp { s.trp with fcEdge := tabSet (dflt none) s.trp.fcEdge f (some s.now) })) ∧
    (∀ o, s.trpOn = true → s.lastEdge f = some o →
      let per := (s.now - o) / 4
      let u := s.setTrp { s.trp with fcEdge := tabSet (dflt none) s.trp.fcEdge f (some s.now) }
      let u := (u.setFld (R.TRP_FCST f) F.TRP_FCST_LAST (min per 16777215)).setFlag (R.TRP_FCST f) F.TRP_FCST_FCFAST
        (decide (per < 10000))
      exec (.fcEdge f t) s₀ = .next (u.setFc f
        ((decide (per ≤ u.fld (R.TRP_FCTH f) F.TRP_FCTH_PER) || (u.flag (R.TRP_FCST f) F.TRP_FCST_OUT && decide (per ≤
          u.fld (R.TRP_FCTH f) F.TRP_FCTH_PER + u.fld (R.TRP_FCHYS f) F.TRP_FCHYS_HYS))) &&
          decide (u.fld (R.TRP_FCTH f) F.TRP_FCTH_PER ≠ 0)))) ∧
    (∀ o, s.trpOn = true → s.lastEdge f = some o → o + s.fld (R.TRP_FCTH f) F.TRP_FCTH_TMO * 1000000 ≤ s.now →
      exec (.fcTimeout f t) s₀ = .next
        (((s.setFlag (R.TRP_FCST f) F.TRP_FCST_OUT false).setNative (60 + f.val) false).inputMoved (60 + f.val))) ∧
    (s₀.islandOn 6 = true →
      exec (.tripStoreScrub w .corrected) s₀ = .next ((s₀.addFld R.TRP_STAT F.TRP_STAT_ECCC 1).raise 0x35 w 0) ∧
      exec (.tripStoreScrub w .uncorrectable) s₀ = .next ((s₀.raise 0x36 w 0).needCycle 5 1))

/-! ### The alarm unit and Bandstand -/

/-- R163, R165–R168: an acknowledge takes ACTIVE-UNACK to ACTIVE-ACK and RETURNED-UNACK to NORMAL, never a modified entry
nor one stamped after the tick that acknowledges; an entry whose last freezing modifier clears catches up with its limit;
a group shows the first of ACTIVE-UNACK, RETURNED-UNACK, ACTIVE-ACK that one of its entries is in. -/
def Clauses.AlarmStateRules : Prop :=
  ∀ (s : State) (e tick : Nat) (l : List Nat),
    (s.modified e = true → s.ackState e tick = none) ∧
    (tick < (s.rd (R.ALM_ESTMP e)).toNat → s.ackState e tick = none) ∧
    (s.modified e = false → (s.rd (R.ALM_ESTMP e)).toNat ≤ tick → s.alarmState e < 4 →
      s.ackState e tick = if s.alarmState e = 1 then some 2 else if s.alarmState e = 3 then some 0 else none) ∧
    (∀ act, resumeState 1 act = (if act then 1 else 3) ∧ resumeState 2 act = (if act then 2 else 0) ∧
      resumeState 0 act = (if act then 1 else 0) ∧ resumeState 3 act = if act then 1 else 3) ∧
    (1 ∈ l → groupStateOf l = 1) ∧ (1 ∉ l → 3 ∈ l → groupStateOf l = 3) ∧
    (1 ∉ l → 3 ∉ l → 2 ∈ l → groupStateOf l = 2) ∧ (1 ∉ l → 3 ∉ l → 2 ∉ l → groupStateOf l = 0)

/-- R172, R218: the actions on a group and an entry: acknowledge with E27 and the number that changed, silence with
E28, acknowledge one entry, shelve for 1–86,400 s with E29. Completes: ackGroup, silenceGroup, ackEntry, shelveEntry.
-/
def Clauses.AlarmAcknowledgeAndShelve : Prop :=
  ∀ (s₀ : State) (g e : BitVec 16) (tick : Word) (secs : BitVec 17) (t : Time),
    let s := s₀.atTime t
    let n := e.toNat
    (256 ≤ g.toNat → exec (.ackGroup g tick t) s₀ = .next (s.answer .address) ∧
      exec (.silenceGroup g) s₀ = .next (s₀.answer .address)) ∧
    (g.toNat < 256 →
      exec (.ackGroup g tick t) s₀ = .next (
        let r := s.ackEntries (s.groupEntries g.toNat) tick.toNat
        ((r.2.ackDone g.toNat).raise 0x27 g.toNat (data2 r.1 tick.toNat)).answer .ok) ∧
      exec (.silenceGroup g) s₀ = .next (
        let u := (s₀.setFlag (R.ALM_GST g.toNat) F.ALM_GST_AUD false).driveBandstand
        (u.raise 0x28 g.toNat (u.fld (R.ALM_GCNT g.toNat) F.ALM_GCNT_UNACK)).answer .ok)) ∧
    (2048 ≤ n → exec (.ackEntry e tick t) s₀ = .next (s.answer .address) ∧
      exec (.shelveEntry e secs t) s₀ = .next (s.answer .address)) ∧
    (n < 2048 → s.entryOk n = false → exec (.ackEntry e tick t) s₀ = .next (s.answer .state) ∧
      exec (.shelveEntry e secs t) s₀ = .next (s.answer .state)) ∧
    (n < 2048 → s.entryOk n = true →
      (∀ v, s.ackState n tick.toNat = some v → exec (.ackEntry e tick t) s₀ = .next
        (((s.setFld (R.ALM_EST n) F.ALM_EST_STATE v).ackDone (s.entryGroup n)).answer .ok)) ∧
      ((secs.toNat = 0 ∨ 86400 < secs.toNat) → exec (.shelveEntry e secs t) s₀ = .next (s.answer .range)) ∧
      (1 ≤ secs.toNat → secs.toNat ≤ 86400 → exec (.shelveEntry e secs t) s₀ = .next (
        let u := s.setAlm { s.alm with shelve := tabSet (dflt none) s.alm.shelve n (some (s.now + secs.toNat * 1000000000)) }
        let u := (u.setFld (R.ALM_EST n) F.ALM_EST_SHVREM secs.toNat).setFlag (R.ALM_EST n) F.ALM_EST_SHLV true
        ((u.groupChanged (u.entryGroup n)).raise 0x29 n secs.toNat).answer .ok)))

/-- R164, R165, R167, R172: the actions that end shelving and that take an entry out of service and back, each with
its event; an action that finds nothing to change is OK and changes nothing. Completes: unshelveEntry, shelveExpiry,
outOfService, returnToService. -/
def Clauses.AlarmModifiers : Prop :=
  ∀ (s₀ : State) (e : BitVec 16) (n : Fin 2048) (d t : Time), s₀.entryOk e.toNat = true → e.toNat < 2048 →
    let s := s₀.atTime t
    let k := e.toNat
    (s.flag (R.ALM_EST k) F.ALM_EST_SHLV = false → exec (.unshelveEntry e t) s₀ = .next (s.answer .ok)) ∧
    (s.flag (R.ALM_EST k) F.ALM_EST_SHLV = true → exec (.unshelveEntry e t) s₀ = .next ((s.endShelve k 1).answer .ok)) ∧
    (s.almOn = true → s.shelveDue n = some d → d ≤ s.now →
      exec (.shelveExpiry n t) s₀ = .next (
        let u := (s.setAlm { s.alm with shelve := tabSet (dflt none) s.alm.shelve n none }).setFld (R.ALM_EST n)
          F.ALM_EST_SHVREM 0
        let u := (u.setFlag (R.ALM_EST n) F.ALM_EST_SHLV false).raise 0x29 n (2 * 4294967296)
        if u.entryOk n then u.unfreeze n else u)) ∧
    (s₀.flag (R.ALM_EST k) F.ALM_EST_OOS = true → exec (.outOfService e) s₀ = .next (s₀.answer .ok)) ∧
    (s₀.flag (R.ALM_EST k) F.ALM_EST_OOS = false → exec (.outOfService e) s₀ = .next (
      let u := (s₀.setFlag (R.ALM_EST k) F.ALM_EST_OOS true).setFld (R.ALM_EST k) F.ALM_EST_STATE 0
      ((u.groupChanged (u.entryGroup k)).raise 0x2A k (s₀.alarmState k + 256)).answer .ok)) ∧
    (s.flag (R.ALM_EST k) F.ALM_EST_OOS = false → exec (.returnToService e t) s₀ = .next (s.answer .ok)) ∧
    (s.flag (R.ALM_EST k) F.ALM_EST_OOS = true →
      let u := (s.setFlag (R.ALM_EST k) F.ALM_EST_OOS false).raise 0x2A k (s.alarmState k)
      let v := if u.entryAct k then 1 else 0
      (u.modified k = false → exec (.returnToService e t) s₀ = .next ((u.alarmMove k v).answer .ok)) ∧
      (u.modified k = true → exec (.returnToService e t) s₀ = .next (
        let w := u.setFld (R.ALM_EST k) F.ALM_EST_STATE v
        let w := if v = 1 then w.wr (R.ALM_ESTMP k) (BitVec.ofNat 32 w.alm.stampTick) else w
        (w.groupChanged (u.entryGroup k)).answer .ok)))

/-- R172, R174, R177, R178, R180: the actions on a call plan: START with a group or 0x101 as its cause, END with
reason 3, accept a level (END mode ends the plan, ACCEPT mode sets the bit with E2D and restarts the timer of the
current level; level 1 of a watch-keeper plan resets it), silence all reached levels. Completes: startPlan, endPlan,
acceptLevel, silencePlan. -/
def Clauses.PlanActions : Prop :=
  ∀ (s₀ : State) (pl : BitVec 16) (cause : BitVec 9) (level : BitVec 3) (t : Time),
    let s := s₀.atTime t
    let p := pl.toNat
    let k := level.toNat
    (16 ≤ p → exec (.startPlan pl cause t) s₀ = .next (s.answer .address) ∧
      exec (.endPlan pl t) s₀ = .next (s.answer .address)) ∧
    (p < 16 → 0xFF < cause.toNat → cause.toNat ≠ 0x101 →
      exec (.startPlan pl cause t) s₀ = .next (s.answer .range)) ∧
    (p < 16 → (cause.toNat ≤ 0xFF ∨ cause.toNat = 0x101) → s.planOk p = true → s.planWk p = false → s.planState p = 0 →
      exec (.startPlan pl cause t) s₀ = .next (
        let u := s.wr (R.ALM_PST p) (BitVec.ofNat 32 (0x48000000 + cause.toNat))
        let u := (u.setPlan p { u.plan p with pat := [], wkDue := none }).addFld (R.ALM_PCNT p) F.ALM_PCNT_STARTS 1
        (((((u.notePlan p 1 cause.toNat 0).reachLevel p 4 1).markRun p)).driveBandstand).answer .ok)) ∧
    (p < 16 → s.planState p = 1 → exec (.endPlan pl t) s₀ = .next ((s.endPlanOp p 3).answer .ok)) ∧
    (p < 16 → (k = 0 ∨ 5 ≤ k) → exec (.acceptLevel pl level t) s₀ = .next (s.answer .range)) ∧
    (p < 16 → 1 ≤ k → k ≤ 4 → (s.planWk p = false ∨ k ≠ 1) → s.planState p = 1 → k ≤ s.planLevel p →
      s.levelEn p k = true →
      (s.flag (R.ALM_LCFG p (k - 1)) F.ALM_LCFG_MODE = true →
        exec (.acceptLevel pl level t) s₀ = .next ((s.endPlanOp p 4).answer .ok)) ∧
      (s.flag (R.ALM_LCFG p (k - 1)) F.ALM_LCFG_MODE = false → s.sound = true →
        exec (.acceptLevel pl level t) s₀ = .next (
          let u := s.setFld (R.ALM_PST p) F.ALM_PST_ACC (setBitN (s.fld (R.ALM_PST p) F.ALM_PST_ACC) (k - 1) true)
          let u := if s.planLevel p = k then u.runTimer p k else u
          ((u.raise 0x2D p (k + 256 * 255)).driveBandstand).answer .ok))) ∧
    (p < 16 → k = 1 → s.planWk p = true → s.planState p ≠ 0 →
      exec (.acceptLevel pl level t) s₀ = .next (((s.armed p).raise 0x2E p 2).answer .ok)) ∧
    (p < 16 → s.planState p = 1 → exec (.silencePlan pl t) s₀ = .next
      (((s.setFld (R.ALM_PST p) F.ALM_PST_ACC (2 ^ s.planLevel p - 1)).driveBandstand).answer .ok))

/-- R172, R179, R180: arming a watch-keeper plan starts its period, with E2E reason 3, disarming leaves it idle with
reason 4; the selection of the engineer on watch, by action or by a code that has stood on its inputs for 500 ms, sets
SEL, and NOWATCH where that engineer is not enabled. Completes: armWatchKeeper, disarmWatchKeeper, selectWatch,
watchCodeStable. -/
def Clauses.WatchKeeperActions : Prop :=
  ∀ (s₀ : State) (pl target : BitVec 16) (eng code : BitVec 3) (t : Time),
    let s := s₀.atTime t
    let p := pl.toNat
    let base := s.fld R.ALM_WATCH F.ALM_WATCH_DIBASE
    (p < 16 → s.planOk p = true → s.planWk p = true →
      exec (.armWatchKeeper pl t) s₀ = .next (
        let u := s.wr (R.ALM_PST p) 0x800001FF
        let u := u.setPlan p { u.plan p with due := none, pat := [], wkDue := some (u.now + u.wkPeriod p) }
        (((u.markRun p).driveBandstand).raise 0x2E p 3).answer .ok) ∧
      (s.planState p ≠ 0 → exec (.disarmWatchKeeper pl t) s₀ = .next (
        let u := s.wr (R.ALM_PST p) 0x000001FF
        let u := u.setPlan p { u.plan p with due := none, pat := [], wkDue := none }
        (((u.markRun p).driveBandstand).raise 0x2E p 4).answer .ok)) ∧
      (s.planState p = 0 → exec (.disarmWatchKeeper pl t) s₀ = .next (s.answer .ok))) ∧
    (p < 16 → s.planWk p = false → exec (.armWatchKeeper pl t) s₀ = .next (s.answer .state)) ∧
    (target.toNat ≠ 0 → exec (.selectWatch target eng t) s₀ = .next (s.answer .address)) ∧
    (target.toNat = 0 → s.flag R.ALM_WATCH F.ALM_WATCH_SRC = true → s.engineerOk eng.toNat = false →
      exec (.selectWatch target eng t) s₀ = .next (s.answer .range)) ∧
    (target.toNat = 0 → s.flag R.ALM_WATCH F.ALM_WATCH_SRC = true → s.engineerOk eng.toNat = true →
      exec (.selectWatch target eng t) s₀ = .next ((s.selectEngineer eng.toNat).answer .ok)) ∧
    (s.almOn = true → s.flag R.ALM_WATCH F.ALM_WATCH_SRC = false →
      (∀ j : Fin 3, s.alm.di.getLsbD (base + j) = code.getLsbD j) →
      (∀ j : Fin 3, tabGet (dflt 0) s.alm.diAt (base + j) + 500000000 ≤ s.now) →
      exec (.watchCodeStable code t) s₀ = .next (
        let u := s.setFld R.ALM_WATCH F.ALM_WATCH_SEL code.toNat
        (u.setFlag R.ALM_WATCH F.ALM_WATCH_NOWATCH (!(s.engineerOk code.toNat))).driveBandstand))

/-- R173, R175–R177, R180, R182: the timers and inputs of the plans, timers on the delay clock: escalation to the next
level with E2C, on level 4 the accept bit clears; the watch-keeper's pre-warning and expiry; a rising edge of a reset
input arms it again; one of an accept input acts on every level it serves; a pattern toggles at the end of each phase,
on 0.5 s, off 0.5 s or 1.5 s; the fields marked P go to the retained-state mirror. Completes: planLevelTimer,
wkPrewarning, wkExpiry, wkResetInput, acceptInputEdge, patternToggle, retainedMirrorWrite. -/
def Clauses.PlanTimersAndInputs : Prop :=
  ∀ (s₀ : State) (pl : Fin 16) (lv : Fin 4) (di : Fin 48) (d t : Time),
    let s := s₀.atTime t
    let p := pl.val
    let k := s.planLevel p
    let pat := s.fld (R.ALM_LCFG p lv) F.ALM_LCFG_PAT
    let on := tabGet (dflt true) (s.plan p).pat (lv.val + 1)
    let ends := tabGet (dflt 0) (s.plan p).patAt (lv.val + 1) + if on || pat == 1 then 500000000 else 1500000000
    let taken (l : BitVec 48) := BitVec.ofNat 48 (setBitN l.toNat di.val false)
    (s.almOn = true → s.planState p = 1 → (s.plan p).due = some d → s.delayDue d = true →
      (k < 4 → exec (.planLevelTimer pl t) s₀ = .next (
        let u := s.addFld (R.ALM_PCNT p) F.ALM_PCNT_ESCAL 1
        ((u.notePlan p (k + 1) (u.fld (R.ALM_PST p) F.ALM_PST_CAUSE) 2).reachLevel p 4 (k + 1)).driveBandstand)) ∧
      (4 ≤ k → exec (.planLevelTimer pl t) s₀ = .next (
        let u := s.setFld (R.ALM_PST p) F.ALM_PST_ACC (setBitN (s.fld (R.ALM_PST p) F.ALM_PST_ACC) 3 false)
        (u.runTimer p 4).driveBandstand))) ∧
    (s.almOn = true → s.planState p = 2 → (s.plan p).wkDue = some d →
      s.delayDue (d + (s.wkPeriod p - s.wkPrew p) - s.wkPeriod p) = true →
      exec (.wkPrewarning pl t) s₀ = .next (
        let u := s.setFld (R.ALM_PST p) F.ALM_PST_STATE 3
        let u := u.setPlan p { u.plan p with pat := tabSet (dflt true) (u.plan p).pat 1 true,
                                             patAt := tabSet (dflt 0) (u.plan p).patAt 1 u.now }
        u.driveBandstand.raise 0x2E p 0)) ∧
    (s.almOn = true → 2 ≤ s.planState p → (s.plan p).wkDue = some d → s.delayDue d = true →
      exec (.wkExpiry pl t) s₀ = .next ((s.raise 0x2E p 1).beginPlan p 2 0x102)) ∧
    (s.almOn = true → s.alm.resets.getLsbD di = true → exec (.wkResetInput di t) s₀ = .next (
      (List.range 16).foldl (fun u q => if u.wkInput di q && (u.planWk q && u.planState q != 0)
        then (u.armed q).raise 0x2E q 2 else u) (s.setAlm { s.alm with resets := taken s.alm.resets }))) ∧
    (s.almOn = true → s.alm.edges.getLsbD di = true → exec (.acceptInputEdge di t) s₀ = .next (
      (List.range 16).foldl (fun u q => [1, 2, 3, 4].foldl (fun u k =>
        if (u.levelInputs q k).contains di && !(u.planWk q && k == 1) then u.acceptAt q k di else u) u)
        (s.setAlm { s.alm with edges := taken s.alm.edges }))) ∧
    (s.almOn = true → (pat = 1 ∨ pat = 2) → (s.planState p = 1 ∧ lv.val + 1 ≤ k ∨ s.planState p = 3 ∧ lv.val = 0) →
      ends ≤ s.now → exec (.patternToggle pl lv t) s₀ = .next ((s.setPlan p
        { s.plan p with pat := tabSet (dflt true) (s.plan p).pat (lv.val + 1) (!on)
                        patAt := tabSet (dflt 0) (s.plan p).patAt (lv.val + 1) ends }).driveBandstand)) ∧
    (s.almOn = true → s.powered 8 = true → s₀.sound = true →
      let w := s.mirrorPd5.freshenAlm
      ∃ m, exec (.retainedMirrorWrite t) s₀ = .next (w.setMirror m) ∧
        ∀ a, tabGet resetWord m a = if mirrored a then (w.rd a &&& pMask a) ||| (resetWord a &&& ~~~(pMask a))
          else tabGet resetWord s.mirrorPd5.mirror a)

/-! ### Snapshots, the Gatehouse and the twins -/

/-- R20, R189, R193–R195: a tick boundary takes a snapshot, whose copy starts at each core in service; the copy completes;
a core that is alone in service swaps to it after CMTE, with cursor, CMTN and CMTD cleared; in TWIN both swap together,
and after a tick that the Gatehouse has ended a core that has finished goes on while its twin still finishes it (the last
clause is DEDUCED, log 76). Completes: tickBoundary, snapshotCopyComplete, snapshotSwap. -/
def Clauses.Snapshots : Prop :=
  ∀ (s₀ : State) (c : CoreId) (x : Snap) (b : Bool) (t : Time),
    let s := s₀.atTime t
    (s.almOn = true → 1 < s.alm.stampTick → s.gate.boundaryAt + s.img.exec.tickMs * 1000000 ≤ s.now →
      ∃ u, exec (.tickBoundary t) s₀ = .next u ∧
      u.alm.stampTick = s.alm.stampTick + 1 ∧ u.mor.evq = s.mor.evq.drop 255 ∧ u.regs = s.regs ∧
      ∀ d, u.core d = if (s.core d).live then { s.core d with inactive := some (s.freeze, false) } else s.core d) ∧
    ((s₀.core c).inactive = some (x, b) → (s₀.core c).live = true → s₀.almOn = true →
      exec (.snapshotCopyComplete c) s₀ =
      .next (s₀.setCore c { s₀.core c with inactive := some (x, true) })) ∧
    (s₀.almOn = true → s₀.gate.idle = false → s₀.twinMode = false → s₀.resyncing = false → s₀.server_ = c →
      (s₀.core c).live = true → (s₀.core c).cmtd = true →
      (s₀.core c).inactive = some (x, true) → s₀.gate.checking = false →
      ∃ u, exec (.snapshotSwap c) s₀ = .next u ∧ (u.core c).inactive = none ∧
        (u.core c).tick = BitVec.ofNat 32 x.tickNo ∧
        (u.core c).cmtd = false ∧ (u.core c).cmtn = 0 ∧ (u.core c).cursor = 0 ∧ (u.core c).solo = true ∧
        (u.core c).active.events = x.events ∧ u.gate.diverged = none ∧ u.gate.itemsA = [] ∧ u.gate.itemsB = [] ∧
        u.core (twin c) = s₀.core (twin c) ∧ u.regs = s₀.regs) ∧
    (s₀.almOn = true → s₀.gate.idle = false → s₀.twinMode = true → s₀.gate.checking = false →
      (s₀.tickEnded = true ∨ s₀.gate.late = none) → (∀ d, (s₀.core d).live = true ∧ (s₀.core d).cmtd = true ∧
        (s₀.core d).inactive = some (x, true)) →
      ∃ u, exec (.snapshotSwap c) s₀ = .next u ∧ (∀ d, (u.core d).tick = BitVec.ofNat 32 x.tickNo ∧
        (u.core d).cmtd = false ∧ (u.core d).solo = false ∧ (u.core d).inactive = none) ∧ u.regs = s₀.regs) ∧
    (s₀.almOn = true → s₀.gate.idle = false → s₀.twinMode = true → s₀.gate.checking = false → s₀.tickEnded = true →
      (s₀.core c).live = true → (s₀.core c).cmtd = true → (s₀.core c).inactive = some (x, true) →
      (s₀.core (twin c)).cmtd = false → ∃ u, exec (.snapshotSwap c) s₀ = .next u ∧
        (u.core c).tick = BitVec.ofNat 32 x.tickNo ∧ u.core (twin c) = s₀.core (twin c) ∧ u.gate.late = some (twin c) ∧
        u.tickEnded = false ∧ u.regs = s₀.regs)

/-- R189, R233, R374: at the first boundary, 100 µs after alarm-ready, the cores leave reset together, with words and
SRAM 0, TICK the number of the first snapshot, at vector 0; a permanently isolated core stays in reset. Completes:
coresLeaveReset. -/
def Clauses.CoresLeaveReset : Prop :=
  ∀ (s₀ : State) (t : Time), s₀.sup.alarmReady = true → s₀.coreA.live = false → s₀.coreB.live = false →
    s₀.alm.stampTick = 1 → s₀.almOn = true →
    s₀.sup.startAt + ((s₀.rd R.SYS_ARDY).toNat + 100) * 1000 ≤ (s₀.atTime t).now →
    ∃ u, exec (.coresLeaveReset t) s₀ = .next u ∧ u.alm.stampTick = 2 ∧ u.gate.tick = 1 ∧ u.regs = s₀.regs ∧
      ∀ c, (s₀.permIsolated c = true → u.core c = s₀.core c) ∧
        (s₀.permIsolated c = false → (u.core c).live = true ∧ (u.core c).halted = false ∧ (u.core c).pc = 0x08001000 ∧
          (u.core c).tick = 1 ∧ (u.core c).w = [] ∧ (u.core c).sram = [] ∧ (u.core c).xd = 0 ∧ (u.core c).start = true ∧
          (u.core c).solo = !(s₀.twinMode))

/-- R220, R224: two items that are equal do not diverge; words that differ diverge with cause 1, an end against another
item with cause 2, exceptions that differ, or stand against a word, with cause 6; the CRCs of two ends are compared
apart. -/
def Clauses.ItemComparison : Prop :=
  ∀ (x y : Item) (w w' : CWord) (e e' : Option CWord) (a b : Word) (v v' : Nat),
    itemCause x x = none ∧
    ((w ≠ w' ∨ e ≠ e') → itemCause (.word w e) (.word w' e') = some 1) ∧
    itemCause (.done a) (.done b) = none ∧
    (∀ p p', (v ≠ v' ∨ p ≠ p') → itemCause (.marker v p) (.marker v' p') = some 6) ∧
    itemCause (.word w e) (.done a) = some 2 ∧ itemCause (.done a) (.word w e) = some 2 ∧
    (∀ p, itemCause (.marker v p) (.word w e) = some 6 ∧ itemCause (.word w e) (.marker v p) = some 6 ∧
      itemCause (.marker v p) (.done a) = some 2) ∧
    (itemCause x y = none ↔ itemCause y x = none)

/-- R221–R224: at the deadline, 200 µs after boundary T + 1 of tick T, a pair of which one core alone has presented
CMTE diverges with cause 4, a pair of which neither has, and a core alone in service that has not, discard the tick
with E3F; a core that has halted without its twin is condemned with cause 7; before the deadline, and while it is
suspended, nothing happens. Completes: cmteDeadline. -/
def Clauses.TickDeadline : Prop :=
  ∀ (s₀ : State) (t : Time), (s₀.atTime t).almOn = true → s₀.gate.checking = false → s₀.gate.idle = false →
    let s := s₀.atTime t
    let n := max s.gate.itemsA.length s.gate.itemsB.length
    let drop := (((s.raise 0x3F 0 (data2 s.gate.tick (n % 65536))).addFld R.TWN_CNT F.TWN_CNT_DISC 1))
    let dropped := drop.setGate { drop.gate with discarded := true, itemsA := [], itemsB := [] }
    let due := s.gate.tick + 1 < s.alm.stampTick ∧
      (s.gate.tick + 2 < s.alm.stampTick ∨ s.gate.boundaryAt + 200000 ≤ s.now)
    (s₀.gate.suspended = true → exec (.cmteDeadline t) s₀ = .next s) ∧
    (¬ due → exec (.cmteDeadline t) s₀ = .next s) ∧
    (s₀.gate.suspended = false → due → s₀.coreA.live = true → s₀.coreB.live = true → s.twinMode = true →
      (s₀.coreA.halted = false → s₀.coreB.halted = false → s₀.tickEnded = false → s₀.gate.late = none →
        (s₀.coreA.cmtd = false → s₀.coreB.cmtd = false → exec (.cmteDeadline t) s₀ = .next dropped) ∧
        (s₀.coreA.cmtd ≠ s₀.coreB.cmtd → exec (.cmteDeadline t) s₀ =
          .next ((s.noteDivergence 4 (min s.gate.itemsA.length s.gate.itemsB.length)).startCheck)) ∧
        (s₀.coreA.cmtd = true → s₀.coreB.cmtd = true → exec (.cmteDeadline t) s₀ = .next s)) ∧
      (∀ c, (s₀.core c).halted = true → (s₀.core (twin c)).halted = false → exec (.cmteDeadline t) s₀ =
        .next ((s.raise 0x3E (coreNum c) (data2 (s.core c).cause.toNat (s.core c).dpc.toNat)).condemnAtOnce c 7
          (s.items c).length))) ∧
    (s₀.gate.suspended = false → due → s.twinMode = false → s₀.tickEnded = false → (s.core s.server_).live = true →
      (s.core s.server_).cmtd = false → exec (.cmteDeadline t) s₀ = .next dropped)

/-- R225–R227: the verdict of the self-check over the state CRCs of both cores. One failing core is condemned with
cause 3 of its cycle; both failing are condemned, and the node restarts; both passing with equal CRCs, and fewer than
three such in 10 min, resume as TRANSIENT; otherwise the core resynchronised last is condemned, or B. E39 shows the
state CRC of a core whose step 4 ran. The CRCs are operands, equal just where what both cores hold is equal: the model's
choice (log 75); others tell of no self-check. Completes: selfCheckComplete. -/
def Clauses.SelfCheckVerdict : Prop :=
  ∀ (s₀ : State) (fa fb : Fin 5) (ca cb : Word) (t : Time), s₀.gate.checking = true →
    let s := s₀.atTime t
    let u := s.setFld R.TWN_STAT F.TWN_STAT_STAGE 0
    let cause := u.gate.diverged.getD 0
    let shown (fail : Fin 5) (crc : Word) : Nat := if fail.val = 4 then crc.toNat else 0
    let same := s₀.coreA.checked = s₀.coreB.checked
    (fa.val ≠ 0 → fa.val ≠ 4 → fb.val = 0 → exec (.selfCheckComplete fa fb ca cb t) s₀ =
      .next ((u.noteVerdict 0 fa.val 0 0 cb.toNat).condemn .a cause 3)) ∧
    (fa.val = 0 → fb.val ≠ 0 → fb.val ≠ 4 → exec (.selfCheckComplete fa fb ca cb t) s₀ =
      .next ((u.noteVerdict 1 0 fb.val ca.toNat 0).condemn .b cause 3)) ∧
    (fa.val ≠ 0 → fb.val ≠ 0 → (fa.val = 4 → fb.val = 4 → (ca = cb ↔ same)) →
      exec (.selfCheckComplete fa fb ca cb t) s₀ = .next (
      let w := (((u.noteVerdict 2 fa.val fb.val (shown fa ca) (shown fb cb)).isolate .a cause false).isolate .b cause
        false).resumeCores
      (w.setFld R.TWN_STAT F.TWN_STAT_STAGE 0).orderRestart 4 (u.now + 10000000))) ∧
    ((ca = cb ↔ same) →
      (fa.val = 4 → fb.val = 0 → exec (.selfCheckComplete fa fb ca cb t) s₀ =
        .next ((u.noteVerdict 0 4 0 ca.toNat cb.toNat).condemn .a cause 3)) ∧
      (fa.val = 0 → fb.val = 4 → exec (.selfCheckComplete fa fb ca cb t) s₀ =
        .next ((u.noteVerdict 1 0 4 ca.toNat cb.toNat).condemn .b cause 3)) ∧
      (fa.val = 0 → fb.val = 0 → same → u.recentTransients.length < 3 →
        exec (.selfCheckComplete fa fb ca cb t) s₀ = .next (
          let w := u.noteVerdict 4 0 0 ca.toNat cb.toNat
          (w.setGate { w.gate with transients := u.recentTransients }).resumeCores)) ∧
      (fa.val = 0 → fb.val = 0 → (¬ same ∨ 3 ≤ u.recentTransients.length) →
        exec (.selfCheckComplete fa fb ca cb t) s₀ = .next (
          (u.noteVerdict 3 0 0 ca.toNat cb.toNat).condemn
            (match s₀.gate.lastResync with | some c => c | none => .b) cause 3))) ∧
    (fa.val = 0 → fb.val = 0 → ¬ (ca = cb ↔ same) → exec (.selfCheckComplete fa fb ca cb t) s₀ = .next s)

/-- R196, R211, R214, R216, R229: a line that arrives joins the line store, one with an uncorrectable error does not and a
core that needs it takes FETCH; an uncorrectable SRAM error condemns its core, with cause 8 in twin mode; alone in service
it stops and the node restarts; a load for which the broker has what it needs gets the register's value. Completes:
fetchLineArrival, sramEccError, pairedReadServed. -/
def Clauses.CoreMemoryEvents : Prop :=
  ∀ (s₀ : State) (c : CoreId) (line : BitVec 27) (wd : BitVec 5) (a : Word) (t : Time), (s₀.core c).live = true →
    let s := s₀.atTime t
    let k := s₀.core c
    (s₀.islandOn 9 = true → exec (.fetchLineArrival c line true) s₀ = .next (s₀.setCore c (k.placeLine line.toNat))) ∧
    (s₀.islandOn 9 = true → (lineOf k.pc ≠ line.toNat ∨ s₀.running c = false) →
      exec (.fetchLineArrival c line false) s₀ =
      .next (s₀.setCore c { k with asked := k.asked.erase line.toNat })) ∧
    (s₀.islandOn 9 = true → lineOf k.pc = line.toNat → s₀.running c = true → exec (.fetchLineArrival c line false) s₀ =
      .next ((s₀.setCore c { k with asked := k.asked.erase line.toNat }).takeExc c 2 2)) ∧
    (s.twinMode = true → exec (.sramEccError c t) s₀ = .next (
      let u := (s.noteDivergence 8 (s.items c).length).releaseReads
      (u.noteVerdict (coreNum c) 0xFF 0xFF 0 0).condemn c 8 1)) ∧
    (s.twinMode = false → s.server_ = c → exec (.sramEccError c t) s₀ = .next (
      let u := s.setCore c { s.core c with halted := true, wait := .none }
      (u.needCycle (coreDomain c) 1).orderRestart 4 (s.now + 10000000))) ∧
    (s.twinMode = false → s.server_ ≠ c → exec (.sramEccError c t) s₀ = .next (
      let u := s.setCore c { s.core c with live := false, wait := .none }
      ((u.setFld R.TWN_STAT F.TWN_STAT_MODE 1).setFld R.TWN_STAT F.TWN_STAT_STAGE 2).needCycle (coreDomain c) 1)) ∧
    (s.almOn = true → s.gate.checking = false → (s.core c).solo = true → (s.core c).wait = .read wd a →
      s.waitsAt (twin c) = none → s.powered (regDomain a.toNat) = true →
      a.toNat ≠ R.RTC_SEC → a.toNat ≠ R.RTC_CENT → exec (.pairedReadServed t) s₀ = .next (
        let w := s.measure a.toNat
        w.setCore c (({ w.core c with wait := .none }).next wd (w.brokerRead a.toNat))))

/-- R215, R228, R229, R232: after the bulk copy the resynchronisation waits for the healthy core's EVW after CMTE, at
which the final pass begins; the pass gives the restored core its words, SRAM, timers and special registers and records the
time; READMIT clears PERM of an isolated core and asks for its cycle. Completes: resyncBulkDone, resyncFinalDone,
twnReadmit. -/
def Obligations.Resynchronisation : Prop :=
  ∀ (s₀ : State) (p : Port) (v : BitVec 2) (us : Word) (dirty : Nat) (wd : BitVec 5) (t : Time), s₀.sound = true →
    let s := s₀.atTime t
    let h := s.server_
    let waits := (s₀.core s₀.server_).cmtd = true ∧ (s₀.core s₀.server_).wait = .evw wd
    (s₀.resyncing = true → s₀.fld R.TWN_STAT F.TWN_STAT_STAGE = 3 →
      let u := (s₀.setFld R.TWN_STAT F.TWN_STAT_STAGE 4).setGate { s₀.gate with dirty := dirty }
      (waits → exec (.resyncBulkDone dirty) s₀ = .next (u.setFld R.TWN_STAT F.TWN_STAT_STAGE 5)) ∧
      ((s₀.core s₀.server_).cmtd = false → exec (.resyncBulkDone dirty) s₀ = .next u)) ∧
    (s.resyncing = true → s.fld R.TWN_STAT F.TWN_STAT_STAGE = 5 →
      ∃ u, exec (.resyncFinalDone us dirty t) s₀ = .next u ∧ (u.core (twin h)).live = true ∧
        (u.core (twin h)).w = (s.core h).w ∧ (u.core (twin h)).sram = (s.core h).sram ∧
        (u.core (twin h)).timers = (s.core h).timers ∧ (u.core (twin h)).evm = (s.core h).evm ∧
        (u.core (twin h)).pc = (s.core h).pc ∧ (u.core (twin h)).epc = (s.core h).epc ∧
        (u.core (twin h)).dpc = (s.core h).dpc ∧ (u.core (twin h)).cause = (s.core h).cause ∧
        (u.core (twin h)).xd = (s.core h).xd ∧ u.core h = s.core h ∧ u.gate.lastResync = some (twin h) ∧
        u.regs = ((s.wr R.TWN_RSTIME us).setFld R.TWN_STAT F.TWN_STAT_STAGE 0).regs) ∧
    (v.toNat = 3 → exec (.twnReadmit p v t) s₀ = .next (s.answer .range)) ∧
    (v.toNat = 1 → s.lockOpen = false → exec (.twnReadmit p v t) s₀ = .next (s.answer .denied)) ∧
    (v.toNat = 1 → s.lockOpen = true → s.permIsolated .a = false →
      exec (.twnReadmit p v t) s₀ = .next (s.answer .state)) ∧
    (v.toNat = 2 → s.lockOpen = true → s.permIsolated .b = true → exec (.twnReadmit p v t) s₀ = .next (
      let u := (s.setSup { s.sup with lastLk := s.now }).setFlag R.TWN_STAT F.TWN_STAT_PERMB false
      ((u.setFld R.TWN_STAT F.TWN_STAT_STAGE 2).needCycle 3 4).answer .ok))

/-! ### Islands, domains and the lock -/

/-- R13, R14: a crossing is a queue: a word that is sent joins its end while its sender runs, and the head becomes
usable while both ends run; no other crossing changes and no word is lost. Completes: crossingTransfer. -/
def Obligations.CrossingsAreQueues : Prop :=
  ∀ (s : State) (x : Crossing) (w : BitVec 64) (l : List (BitVec 64)),
    s.sound = true →
    let e := crossEnds x
    let c := s.cross e.1
    (s.islandRuns e.2.1 = true → ∃ u, exec (.crossingTransfer x (some w)) s = .next u ∧
      (u.cross e.1).fifo = c.fifo ++ [w] ∧ (u.cross e.1).usable = c.usable ∧
      (∀ y, y ≠ e.1 → u.cross y = s.cross y) ∧ u.regs = s.regs) ∧
    (s.islandRuns e.2.1 = true → s.islandRuns e.2.2 = true → c.fifo = w :: l →
      ∃ u, exec (.crossingTransfer x none) s = .next u ∧ (u.cross e.1).fifo = l ∧
        (u.cross e.1).usable = c.usable ++ [w] ∧
      (∀ y, y ≠ e.1 → u.cross y = s.cross y) ∧ u.regs = s.regs) ∧
    ((s.islandRuns e.2.1 = false ∨ s.islandRuns e.2.2 = false) → exec (.crossingTransfer x none) s = .next s)

/-- R12, R15, R16, R18: an island that loses lock sets LOST and waits; its lock regained, it runs again, or after 1 ms its
domain shows a fault with cause LOCK; a watchdog and an uncorrectable memory error show faults with causes 2 and 1; a fault
has its domain cycled, a fault of PD1, or of the only core in service, restarts the node; a failed XT25 moves the node to
RC8 with E04, and on RC8 shows in XT25_OK alone. Completes: islandLockLost, islandLockRegained, lockRegainTimeout,
islandWatchdogExpiry, memoryEccUncorrectable, xt25Fail. -/
def Clauses.IslandFaults : Prop :=
  ∀ (s₀ : State) (i : Fin 16) (d : Fin 11) (cause : Nat) (t : Time), s₀.sup.running = true →
    let s := s₀.atTime t
    let ended (u : State) := u.setSup { u.sup with lockWait := u.sup.lockWait.filter (fun e => e.1 != i.val) }
    (s.islandRuns i = true → exec (.islandLockLost i t) s₀ = .next (
      let u := s.setFld R.CLK_LOST F.CLK_LOST_LOST (setBitN (s.fld R.CLK_LOST F.CLK_LOST_LOST) i true)
      let u := u.setFld R.CLK_LOCK F.CLK_LOCK_LOCK (setBitN (u.fld R.CLK_LOCK F.CLK_LOCK_LOCK) i false)
      u.setSup { s.sup with lockWait := s.sup.lockWait ++ [(i.val, s.now)] })) ∧
    ((∃ e ∈ s₀.sup.lockWait, e.1 = i.val) → exec (.islandLockRegained i) s₀ = .next (
      let u := ended s₀
      let u := u.setFld R.CLK_LOCK F.CLK_LOCK_LOCK (setBitN (u.fld R.CLK_LOCK F.CLK_LOCK_LOCK) i true)
      if i.val = 5 then u.missedCall else if i.val = 14 then u.kick else u)) ∧
    (s₀.sup.lockWait.find? (fun e => e.1 == i.val) = some (i.val, t) →
      exec (.lockRegainTimeout i) s₀ = .next ((ended (s₀.atTime (t + 1000000))).domainFault (islandDomain i) 0)) ∧
    exec (.islandWatchdogExpiry i) s₀ = .next (s₀.domainFault (islandDomain i) 2) ∧
    exec (.memoryEccUncorrectable d) s₀ = .next (s₀.domainFault d 1) ∧
    (s₀.powered d = true → (4 ≤ d.val ∨ (2 ≤ d.val ∧ s₀.twinMode = true ∧ s₀.permDomain d = false)) →
      s₀.sup.waiting = [] → s₀.sup.active = none →
      s₀.domainFault d cause = s₀.setSup { s₀.sup with waiting := [(d.val, cause)] }) ∧
    (d.val = 1 → s₀.sup.restartReq = none →
      s₀.domainFault d cause = s₀.setSup { s₀.sup with restartReq := some (3, s₀.now) }) ∧
    (s₀.powered 2 = true → s₀.permDomain 2 = false → s₀.servesAlone .a = true → s₀.sup.restartReq = none →
      s₀.domainFault 2 cause = s₀.setSup { s₀.sup with restartReq := some (4, s₀.now + 10000000) }) ∧
    (d.val = 0 → s₀.domainFault d cause = s₀) ∧
    (s.fld R.CLK_REF F.CLK_REF_SRC = 0 → exec (.xt25Fail t) s₀ = .next (
      let u := (s.setFld R.CLK_REF F.CLK_REF_SRC 1).setFlag R.CLK_REF F.CLK_REF_XT25_OK false
      let w := (u.setFlag (R.RNG_PORT 0) F.RNG_PORT_LOOPT true).setFlag (R.RNG_PORT 1) F.RNG_PORT_LOOPT true
      (if u.powered 9 then w else u).raise 0x04 0 0)) ∧
    (s.fld R.CLK_REF F.CLK_REF_SRC ≠ 0 → exec (.xt25Fail t) s₀ =
      .next (s.setFlag R.CLK_REF F.CLK_REF_XT25_OK false))

/-- R15–R17, R229, R383, R425: the oldest request is taken, but one for PD8 while a copy runs; its domain is switched off
with what it holds lost, and comes back with E05 carrying cause, count and time; a third cycle within 10 min, unless the
host asked, is not made: no cycle runs; for a domain other than a core's, E05 carries the time 0xFFFF_FFFF and the node
restarts with cause 5. A PD5 whose shadow fails its check restarts the node with cause 6. Completes: domainCycle,
domainBack. -/
def Clauses.DomainCycles : Prop :=
  ∀ (s₀ : State) (d cause : Nat) (l : List (Nat × Nat)) (t0 t : Time), s₀.sup.running = true →
    let s := s₀.atTime t
    let taken := s.setSup { s.sup with waiting := s.sup.waiting.filter (fun e => e.1 != d) }
    let noted := taken.setSup { taken.sup with history := taken.sup.history ++ [(d, taken.now)] }
    let counted := noted.wr R.CLK_CYCLES (noted.rd R.CLK_CYCLES + 1)
    (s.sup.active = none → s.sup.waiting = (d, cause) :: l → 4 ≤ d → d ≤ 10 → (d = 8 → s.copying = false) →
      s.powered d = true →
      ((s.recentCycles d s.now < 2 ∨ cause = 4) → exec (.domainCycle t) s₀ = .next (
        let u := ((counted.dropDomain d).switchOff d).setCycling d true
        u.setSup { u.sup with active := some (d, cause, u.now) })) ∧
      (2 ≤ s.recentCycles d s.now → cause ≠ 4 → exec (.domainCycle t) s₀ = .next (
        let u := (counted.dropDomain d).putStep (chargedStep d) stFailed
        let w := u.noteCycle d cause (s.recentCycles d s.now + 1) 0xFFFFFFFF false
        ((w.switchOff d).setCycling d false).orderRestart 5 (s.now + 10000000)))) ∧
    (∀ b, s.sup.active = some (d, cause, t0) → (d = 5 → b = true) → s.heldOff d = false → ∃ (u w : State),
      exec (.domainBack b t) s₀ = .next u ∧ u = (w.switchOn d).restoreDomain d ∧ w.regs = (s.setCycling d false).regs ∧
      w.sup.active = none ∧ w.mor.triggers = insTrig ⟨s.now, 0x05, d, BitVec.ofNat 64
        (cause % 256 + 256 * (s.recentCycles d t0 % 256) + 65536 * ((s.now - t0) / 1000 % 4294967296)), false, none, none,
        none⟩ s.mor.triggers) ∧
    (s.sup.active = some (5, cause, t0) → ∃ u, exec (.domainBack false t) s₀ = .next u ∧ u.sup.active = none ∧
      (s.sup.restartReq = none → u.sup.restartReq = some (6, s.now + 10000000)))

/-- R381, R383, R386, R387: code 0x1A5F opens the lock, another is DENIED, each with E07; a close or 600 s without a
write to an LK field closes it; THAWCLR and a domain cycle need it open, a core's cycle both cores in service, and a
cycle waits 10 ms. Completes: lockOpen, lockClose, lockTimeout, thawClear, pwrCycleRequest. -/
def Obligations.LockAndServiceRequests : Prop :=
  ∀ (s₀ : State) (p : Port) (code steps : BitVec 16) (dom : BitVec 4) (t : Time),
    let s := s₀.atTime t
    let by_ := match p with | .host => 1 | .svc => 2
    let closed (u : State) := (((u.setFlag R.SYS_LOCK F.SYS_LOCK_OPEN false).setFld R.SYS_LOCK F.SYS_LOCK_BY 0).raise 0x07 1
      (u.fld R.SYS_LOCK F.SYS_LOCK_BY))
    (code.toNat = 0x1A5F → exec (.lockOpen p code t) s₀ = .next (
      let u := (s.setFlag R.SYS_LOCK F.SYS_LOCK_OPEN true).setFld R.SYS_LOCK F.SYS_LOCK_BY by_
      ((u.setSup { u.sup with lastLk := u.now }).raise 0x07 0 by_).answer .ok)) ∧
    (code.toNat ≠ 0x1A5F → exec (.lockOpen p code t) s₀ = .next ((s.raise 0x07 2 by_).answer .denied)) ∧
    (s₀.lockOpen = true → exec (.lockClose p) s₀ = .next ((closed s₀).answer .ok)) ∧
    (s₀.lockOpen = false → exec (.lockClose p) s₀ = .next (s₀.answer .ok)) ∧
    (s.lockOpen = true → s.sup.lastLk + 600000000000 ≤ s.now → exec (.lockTimeout t) s₀ = .next (closed s)) ∧
    (s.lockOpen = true → s.now < s.sup.lastLk + 600000000000 → exec (.lockTimeout t) s₀ = .next s) ∧
    (steps.toNat ≠ 0 → s.lockOpen = false → exec (.thawClear p steps t) s₀ = .next (s.answer .denied)) ∧
    (steps.toNat ≠ 0 → s.lockOpen = true → exec (.thawClear p steps t) s₀ = .next
      (((s.setSup { s.sup with lastLk := s.now }).clearThaw steps.toNat).answer .ok)) ∧
    (s.lockOpen = true → (dom.toNat < 2 ∨ 10 < dom.toNat) →
      exec (.pwrCycleRequest p dom t) s₀ = .next (s.answer .range)) ∧
    (s.lockOpen = true → 2 ≤ dom.toNat → dom.toNat < 4 → s.twinMode = false →
      exec (.pwrCycleRequest p dom t) s₀ = .next (s.answer .state)) ∧
    (s.lockOpen = true → 2 ≤ dom.toNat → dom.toNat ≤ 10 → s.sup.pwrReq = none →
      (4 ≤ dom.toNat ∨ (s.twinMode = true ∧ s.coreA.live = true ∧ s.coreB.live = true)) →
      exec (.pwrCycleRequest p dom t) s₀ = .next (
        let q : Option (Nat × Time) := some (dom.toNat, s.now + 10000000)
        (s.setSup { s.sup with lastLk := s.now, pwrReq := q }).answer .ok)) ∧
    (s.lockOpen = false → dom.toNat ≠ 0 → exec (.pwrCycleRequest p dom t) s₀ = .next (s.answer .denied))

/-! ### Digital inputs, outputs and field supplies -/

/-- R234, R236–R239: a level that passes the filter is the raw and, unless the input is unused or its wire broken,
the filtered state, which Bandstand's inputs see; a selected edge counts; a counter is reset by its commit and mirrored; a
frequency is the edges less one over their span; a current below 0.3 mA on a monitored input sets WIRE BREAK live, latched
and E40 and forces the state OFF, which shows the filtered level again once 0.5 mA has cleared it; the trip array sees the
change. Completes: diFilterChange, diCountEdge, counterReset, counterMirror, freqGateEnd, wireBreakSet, wireBreakClear. -/
def Clauses.DigitalInputs : Prop :=
  ∀ (s₀ : State) (n : Fin 48) (k : Fin 16) (f : Fin 4) (m i : BitVec 16) (b : Bool) (e span : Nat) (t : Time),
    let s := s₀.atTime t
    let on := b && s.fld (R.DIO_DICFG n) F.DIO_DICFG_TYPE != 0
    let edge := s₀.fld (R.DIO_DICFG k) F.DIO_DICFG_EDGE
    (s.dioOn = true → exec (.diFilterChange n b t) s₀ = .next (
      let u := s.setDio { s.dio with filt := BitVec.ofNat 48 (setBitN s.dio.filt.toNat n on) }
      (u.setAbit (R.DIO_DIRAW 0) n on).putDist n (on && !(s.abit (R.DIO_DIWB 0) n)))) ∧
    (s.dioOn = false → exec (.diFilterChange n b t) s₀ = .next s) ∧
    (let u := s.setAbit (R.DIO_DIST 0) n b
     let put (x : BitVec 48) : BitVec 48 := BitVec.ofNat 48 (setBitN x.toNat n b)
     ((u.almOn = false ∨ u.alm.di.getLsbD n = b) → s.putDist n b = u) ∧
     (u.almOn = true → u.alm.di.getLsbD n = !b → s.putDist n b =
       u.setAlm { u.alm with di := put u.alm.di, diAt := tabSet (dflt 0) u.alm.diAt n u.now, edges := put u.alm.edges,
                             resets := put u.alm.resets })) ∧
    (s₀.dioOn = true → (edge = 2 ∨ edge = if b then 0 else 1) → exec (.diCountEdge k b) s₀ =
      .next (s₀.wr (R.DIO_CNT k) (s₀.rd (R.DIO_CNT k) + 1))) ∧
    (edge ≠ 2 → (edge ≠ if b then 0 else 1) → exec (.diCountEdge k b) s₀ = .next s₀) ∧
    (m.toNat < 16 → exec (.counterReset m) s₀ = .next ((s₀.wr (R.DIO_CNT m.toNat) 0).answer .ok)) ∧
    (16 ≤ m.toNat → exec (.counterReset m) s₀ = .next (s₀.answer .address)) ∧
    (s₀.powered 8 = true → exec .counterMirror s₀ = .next (s₀.setMirror (tabSetAll resetWord s₀.mirror
      ((List.range 16).map fun n => (R.DIO_CNT n, s₀.rd (R.DIO_CNT n)))))) ∧
    (s₀.dioOn = true → exec (.freqGateEnd f e span) s₀ = .next
      (s₀.wr (R.DIO_FREQ f) (BitVec.ofNat 32 (if e < 2 then 0 else (e - 1) * 50000000000 / span)))) ∧
    (s.dioOn = true → s.flag (R.DIO_DICFG n) F.DIO_DICFG_LMON = true → 2 ≤ s.fld (R.DIO_DICFG n) F.DIO_DICFG_TYPE →
      let u := s.setFld (R.DIO_DIMEAS n) F.DIO_DIMEAS_I i.toNat
      (i.toNat < 300 → s.abit (R.DIO_DIWB 0) n = false → exec (.wireBreakSet n i t) s₀ = .next (
        let w := ((u.setAbit (R.DIO_DIWB 0) n true).putDist n false).setAbit (R.DIO_DIWBL 0) n true
        ((w.raise 0x40 n (w.rd (R.DIO_DIMEAS n)).toNat).noteTap n).inputMoved n)) ∧
      (300 ≤ i.toNat → exec (.wireBreakSet n i t) s₀ = .next s) ∧
      (500 ≤ i.toNat → s.abit (R.DIO_DIWB 0) n = true → exec (.wireBreakClear n i t) s₀ = .next (
        let w := (u.setAbit (R.DIO_DIWB 0) n false).putDist n (u.dio.filt.getLsbD n)
        ((w.raise 0x41 n (w.rd (R.DIO_DIMEAS n)).toNat).noteTap n).inputMoved n)) ∧
      (i.toNat < 500 → exec (.wireBreakClear n i t) s₀ = .next s))

/-- R218, R241, R242: a DO set for no output is ADDRESS, for DO2k+1 of a pair STATE, for an owned output CLAIM; otherwise the
commanded state is written and the first row that applies decides the output: OFF group 4, trip 2, LATCHOFF 5, HOLD 6,
commanded 0. Both members of a declared pair take the commanded state (R241). While CI6 does not work the drivers hold (R256).
Completes: doSet. -/
def Clauses.OutputCommands : Prop :=
  ∀ (s₀ : State) (n : BitVec 16) (on : Bool) (t : Time),
    let s := s₀.atTime t
    let k := n.toNat
    (48 ≤ k → exec (.doSet n on t) s₀ = .next (s.answer .address)) ∧
    (k < 48 → s.flag (R.DIO_DOCFG k) F.DIO_DOCFG_PAIR = true → k % 2 = 1 →
      exec (.doSet n on t) s₀ = .next (s.answer .state)) ∧
    (k < 48 → (s.flag (R.DIO_DOCFG k) F.DIO_DOCFG_PAIR = false ∨ k % 2 = 0) → s.owner k ≠ 0 →
      exec (.doSet n on t) s₀ = .next (s.answer .claim)) ∧
    (s₀.sound = true → k < 48 → s.flag (R.DIO_DOCFG k) F.DIO_DOCFG_PAIR = false → s.owner k = 0 →
      s.gate.applied = true → (s.out k).pulse = none → s.islandOn 6 = true →
      ∃ u, exec (.doSet n on t) s₀ = .next u ∧ u.status = .ok ∧ u.flag (R.DIO_DOST k) F.DIO_DOST_CMD = on ∧
        (s.groupState (k / 12) = 3 → u.driven k = false ∧ u.fld (R.DIO_DOST k) F.DIO_DOST_SRC = 4) ∧
        (s.groupState (k / 12) ≤ 2 → s.tripAsserted k = true →
          u.driven k = s.flag (R.TRP_OCFG k) F.TRP_OCFG_TST ∧ u.fld (R.DIO_DOST k) F.DIO_DOST_SRC = 2) ∧
        (s.groupState (k / 12) ≤ 2 → s.tripAsserted k = false → s.diag k 4 = true →
          u.driven k = false ∧ u.diag k 4 = on ∧ u.fld (R.DIO_DOST k) F.DIO_DOST_SRC = if on then 5 else 0) ∧
        (s.groupState (k / 12) = 2 → s.tripAsserted k = false → s.diag k 4 = false → on = true → s.driven k = false →
          u.driven k = false ∧ u.fld (R.DIO_DOST k) F.DIO_DOST_SRC = 6) ∧
        (s.groupState (k / 12) ≤ 1 → s.tripAsserted k = false → s.diag k 4 = false →
          u.driven k = on ∧ u.fld (R.DIO_DOST k) F.DIO_DOST_SRC = 0)) ∧
    (s₀.sound = true → k < 48 → s.flag (R.DIO_DOCFG k) F.DIO_DOCFG_PAIR = false → s.owner k = 0 →
      s.gate.applied = true → s.islandOn 6 = false → ∃ u, exec (.doSet n on t) s₀ = .next u ∧ u.status = .ok ∧
        u.flag (R.DIO_DOST k) F.DIO_DOST_CMD = on ∧ ∀ i, u.driven i = s.driven i) ∧
    (s₀.sound = true → k < 48 → k % 2 = 0 → s.flag (R.DIO_DOCFG k) F.DIO_DOCFG_PAIR = true → s.owner k = 0 →
      s.gate.applied = true → ∃ u, exec (.doSet n on t) s₀ = .next u ∧ u.status = .ok ∧
        u.flag (R.DIO_DOST k) F.DIO_DOST_CMD = on ∧ u.flag (R.DIO_DOST (k + 1)) F.DIO_DOST_CMD = on)

/-- R243–R247, R255: what the diagnostics of an output that is no member of a pair set, clear, latch and record, with
its measurement of that moment (a free value, log 16); the eighth thermal shutdown within 10 s latches it off; an off-pulse
that is due drives it OFF with SRC 7 and its sample decides STUCKON. Completes: doCurrentLimit, doCurrentLimitEnd,
doThermalRestart, doThermalShutdown, openLoadSet, openLoadClear, backfeedDetect, backfeedClear, crosswireDetect,
offPulseStart, offPulseEnd. -/
def Clauses.OutputDiagnostics : Prop :=
  ∀ (s₀ : State) (n a : Fin 48) (off : Bool) (t : Time), s₀.dioOn = true →
    s₀.flag (R.DIO_DOCFG n) F.DIO_DOCFG_PAIR = false →
    let s := s₀.atTime t
    let clear (s : State) (b : Nat) := s.wr (R.DIO_DOST n) (putBit (s.rd (R.DIO_DOST n)) (16 + b) false)
    let note (u : State) (code : Nat) :=
      let w := u.measureReg (R.DIO_DOMEAS n)
      w.raise code n (w.outData n)
    let mark (s : State) (b code : Nat) :=
      let u := s.wr (R.DIO_DOST n) (putBit (putBit (s.rd (R.DIO_DOST n)) (16 + b) true) (8 + b) true)
      if (s.rd (R.DIO_DOST n)).getLsbD (8 + b) then u else note u code
    exec (.doCurrentLimit n) s₀ = .next (mark s₀ 2 0x43) ∧
    exec (.doCurrentLimitEnd n) s₀ = .next (clear s₀ 2) ∧
    exec (.doThermalRestart n) s₀ = .next (clear s₀ 3) ∧
    (let recent := (s.now :: (s.out n).therm).filter (fun t => s.now < t + 10000000000)
     let u := (mark s 3 0x43)
     let u := u.setOut n { u.out n with therm := recent }
     ((recent.length < 8 ∨ u.diag n 4 = true) → exec (.doThermalShutdown n t) s₀ = .next u) ∧
     (8 ≤ recent.length → u.diag n 4 = false → exec (.doThermalShutdown n t) s₀ = .next (
       let w := u.wr (R.DIO_DOST n) (putBit (putBit (u.rd (R.DIO_DOST n)) 20 true) 12 true)
       (note w 0x43).refreshDo n))) ∧
    (s₀.groupState (n.val / 12) ≤ 1 → s₀.driven n = !off →
      s₀.flag (R.DIO_DOCFG n) (if off then F.DIO_DOCFG_OLOFF else F.DIO_DOCFG_OLON) = true →
      ((off = true → s₀.diag n 5 = false) → exec (.openLoadSet n off) s₀ = .next (mark s₀ off.toNat 0x42)) ∧
      (off = true → s₀.diag n 5 = true → exec (.openLoadSet n off) s₀ = .next s₀) ∧
      exec (.openLoadClear n off) s₀ = .next (clear s₀ off.toNat)) ∧
    (s₀.driven n = false → exec (.backfeedDetect n) s₀ = .next (mark s₀ 5 0x44)) ∧
    (s₀.driven n = true → exec (.backfeedDetect n) s₀ = .next s₀) ∧
    exec (.backfeedClear n) s₀ = .next (clear s₀ 5) ∧
    (s₀.sound = true → s₀.driven n = false → s₀.lastOn n = some a.val → ∃ u, exec (.crosswireDetect n) s₀ = .next u ∧
      u.fld (R.DIO_DOST a) F.DIO_DOST_PARTNER = n.val ∧ u.fld (R.DIO_DOST n) F.DIO_DOST_PARTNER = s₀.lead a ∧
      u.diag a 6 = true ∧ u.diag n 6 = true ∧ u.diag n 5 = true) ∧
    (s₀.sound = true → s₀.islandOn 6 = true → s.pulseReady n = true → ∃ u, exec (.offPulseStart n t) s₀ = .next u ∧
      u.driven n = false ∧ u.fld (R.DIO_DOST n) F.DIO_DOST_SRC = 7 ∧ (u.out n).pulse = some false ∧
      (u.out n).pulseAt = some s.optime) ∧
    (s.optime % 10000000 ≠ n.val * 200000 → exec (.offPulseStart n t) s₀ = .next s) ∧
    ((s.out n).pulse = some false →
      let u := (s.setOut n { s.out n with pulse := none }).refreshDo n
      exec (.offPulseEnd n true t) s₀ = .next (clear u 7) ∧ exec (.offPulseEnd n false t) s₀ = .next (mark u 7 0x46))

/-- R248: a pair scan needs the lock and every group in NORMAL or WARN; its pulse is sampled, ended and followed by the
next output, or by E4B when none is left; an abort ends the pulse with E4E. Completes: pairScanStart,
pairScanStep, pairScanAbort. -/
def Clauses.PairScan : Prop :=
  ∀ (s₀ : State) (p : Port) (l : List (Fin 48)) (t : Time),
    let s := s₀.atTime t
    let pos := s.fld R.DIO_SCAN F.DIO_SCAN_POS
    let stamp := s.setSup { s.sup with lastLk := s.now }
    (s.dioOn = true → s.lockOpen = false → exec (.pairScanStart p t) s₀ = .next (s.answer .denied) ∧
      exec (.pairScanAbort p t) s₀ = .next (s.answer .denied)) ∧
    (s.dioOn = true → s.lockOpen = true → (s.scanning = true ∨ ∃ g : Fin 4, 2 ≤ s.groupState g) →
      exec (.pairScanStart p t) s₀ = .next (s.answer .state)) ∧
    (s.dioOn = true → s.lockOpen = true → s.scanning = false → (∀ g : Fin 4, s.groupState g < 2) →
      exec (.pairScanStart p t) s₀ = .next (
        let u := (stamp.setFlag R.DIO_SCAN F.DIO_SCAN_BUSY true).answer .ok
        (u.setDio { u.dio with scanTested := [], scanLinks := [] }).scanNext 0)) ∧
    (s.dioOn = true → s.lockOpen = true → s.scanning = false →
      exec (.pairScanAbort p t) s₀ = .next (stamp.answer .ok)) ∧
    (s₀.sound = true → s.dioOn = true → s.lockOpen = true → s.scanning = true → pos < 48 → ∃ u,
      exec (.pairScanAbort p t) s₀ = .next u ∧ u.scanning = false ∧ u.fld R.DIO_SCAN F.DIO_SCAN_LAST = 2 ∧
      u.status = .ok ∧ u.mor.triggers = insTrig ⟨s.now, 0x4E, pos, 0, false, none, none, none⟩ s.mor.triggers) ∧
    (s.dioOn = true → s.scanning = true →
      (s.dio.scanPhase = 1 → (s.out pos).pulse = some true →
        (∀ b ∈ l, s.driven b = true ∨ (s.members pos).contains b.val = true) → exec (.pairScanStep l t) s₀ =
          .next (s.setDio { s.dio with scanPhase := 2 })) ∧
      (s.dio.scanPhase = 2 → exec (.pairScanStep l t) s₀ = .next (
        let u := s.setDio { s.dio with scanPhase := 3 }
        (u.setOut pos { u.out pos with pulse := none }).refreshDo pos)) ∧
      (s₀.sound = true → s.dio.scanPhase = 3 → (∀ k : Fin 48, pos < k.val → s.scannable k = false) → ∃ u,
        exec (.pairScanStep l t) s₀ = .next u ∧ u.scanning = false ∧ u.fld R.DIO_SCAN F.DIO_SCAN_LAST = 1 ∧
        u.fld R.DIO_SCAN F.DIO_SCAN_LINKS = s.dio.scanLinks.length % 256))

/-- R249–R252, R255: below 19.2 V a group goes to WARN, at 19.6 V back to NORMAL, below 16.0 V to HOLD, below 12.0 V to
OFF with every driver off and the commanded state of its NORST outputs OFF, and from 17.0 V (HOLD) or 18.0 V (OFF) to
RESTORING, where its outputs are released slot by slot, 2 ms apart; each change is recorded. Completes: vfWarn, vfWarnEnd,
vfHold, vfOff, vfRestoring, restoreSlot. -/
def Clauses.FieldSupplies : Prop :=
  ∀ (s₀ : State) (g : Fin 4) (v : BitVec 16) (b : Bool) (n m : Nat) (l : List Nat) (t : Time), s₀.sound = true →
    s₀.dioOn = true →
    let s := (s₀.atTime t).setFld (R.DIO_VFST g) F.DIO_VFST_VF v.toNat
    let trig (s : State) (code data : Nat) : Trig := ⟨s.now, code, g, BitVec.ofNat 64 data, false, none, none, none⟩
    (s₀.groupState g = 0 → v.toNat < 1920 → ∃ u, exec (.vfWarn g v) s₀ = .next u ∧ u.groupState g = 1 ∧
      u.fld (R.DIO_VFST g) F.DIO_VFST_VF = v.toNat ∧
      u.mor.triggers = insTrig (trig s₀ 0x47 (v.toNat + 65536)) s₀.mor.triggers) ∧
    (1920 ≤ v.toNat → exec (.vfWarn g v) s₀ = .next (s₀.setFld (R.DIO_VFST g) F.DIO_VFST_VF v.toNat)) ∧
    (s₀.groupState g = 1 → 1960 ≤ v.toNat → ∃ u, exec (.vfWarnEnd g v) s₀ = .next u ∧ u.groupState g = 0 ∧
      u.mor.triggers = insTrig (trig s₀ 0x47 v.toNat) s₀.mor.triggers) ∧
    (s₀.groupState g = 0 → s₀.scanning = false → v.toNat < 1600 → ∃ u, exec (.vfHold g v) s₀ = .next u ∧
      u.groupState g = 2 ∧ u.mor.triggers = insTrig (trig s₀ 0x48 (v.toNat + 65536)) s₀.mor.triggers ∧
      u.fld (R.DIO_VFCNT g) F.DIO_VFCNT_HOLDC = (s₀.fld (R.DIO_VFCNT g) F.DIO_VFCNT_HOLDC + 1) % 65536) ∧
    (s₀.groupState g ≠ 3 → v.toNat < 1200 → ∃ u, exec (.vfOff g v t) s₀ = .next u ∧ u.groupState g = 3 ∧
      u.scanning = false ∧
      (∀ i, i < 12 → u.driven (12 * g.val + i) = false ∧ u.fld (R.DIO_DOST (12 * g.val + i)) F.DIO_DOST_SRC = 4 ∧
        (s.flag (R.DIO_DOCFG (s.lead (12 * g.val + i))) F.DIO_DOCFG_NORST = true →
          u.flag (R.DIO_DOST (12 * g.val + i)) F.DIO_DOST_CMD = false))) ∧
    ((s₀.groupState g = 2 ∧ 1700 ≤ v.toNat ∨ s₀.groupState g = 3 ∧ 1800 ≤ v.toNat) →
      ((s.enterGroup g 4).setReleased (groupOuts g) false).slotsOf g = n :: m :: l → ∃ u,
      exec (.vfRestoring g v b t) s₀ = .next u ∧ u.groupState g = 4 ∧ (u.group g).slots = m :: l ∧
      (u.group g).entry = s.now ∧ (u.group g).next = 1 ∧ (u.out n).released = true) ∧
    (s₀.groupState g = 4 → (s.group g).entry + (s.group g).next * 2000000 ≤ s.now →
      ((s.group g).slots = n :: m :: l → exec (.restoreSlot g v b t) s₀ = .next
        ((s.releaseOut n).setGroup g { s.group g with slots := m :: l, next := (s.group g).next + 1 })) ∧
      ((s.group g).slots = [n] → ∃ u, exec (.restoreSlot g v b t) s₀ = .next u ∧
        u.groupState g = (if b = true ∧ 1960 ≤ v.toNat then 0 else 1) ∧
        (∀ i, i < 12 → (u.out (12 * g.val + i)).released = true)))

/-- R256, R257: an edit of the digital configuration is ADDRESS elsewhere, BUSY during a PD5 cycle, DENIED where it would
change a locked field while the lock is closed, RANGE outside the values given; otherwise the fields take effect and EDITED
sets. Completes: dioConfigEdit. -/
def Clauses.DigitalConfiguration : Prop :=
  ∀ (s₀ : State) (p : Port) (a : Nat) (v : Word) (t : Time),
    let s := s₀.atTime t
    let m := dioMask a
    let new := (s.rd a &&& ~~~m) ||| (v &&& m)
    (dioConfigAddr a = false → exec (.dioConfigEdit p a v t) s₀ = .next (s.answer .address)) ∧
    (dioConfigAddr a = true → s.dioOn = false → exec (.dioConfigEdit p a v t) s₀ = .next (s.answer .busy)) ∧
    (dioConfigAddr a = true → s.dioOn = true → s.lockOpen = false → new ≠ s.rd a →
      exec (.dioConfigEdit p a v t) s₀ = .next (s.answer .denied)) ∧
    (dioConfigAddr a = true → s.dioOn = true → s.lockOpen = true →
      ((R.DIO_DICFG 0 ≤ a ∧ a < R.DIO_DICFG 16 ∧ fldOf F.DIO_DICFG_EDGE v = 3) ∨
        (R.DIO_DOCFG 0 ≤ a ∧ a ≤ R.DIO_DOCFG 47 ∧ 10 < fldOf F.DIO_DOCFG_PULSE v)) →
      exec (.dioConfigEdit p a v t) s₀ = .next (s.answer .range)) ∧
    (dioConfigAddr a = true → s.dioOn = true → s.lockOpen = true → dioRange a v = false →
      exec (.dioConfigEdit p a v t) s₀ = .next
        (((((s.setSup { s.sup with lastLk := s.now }).wr a new).setFlag R.DIO_STAT
        F.DIO_STAT_EDITED true)).answer .ok))

/-! ### Glissade, the actuator axes -/

/-- R267, R277: a motion command for an axis that does not exist is ADDRESS, with PD10 off STATE; in DISABLED, EMERGENCY,
HALTED and HOMING, STATE; from STANDSTILL it starts the move with the held parameters in force, while MOVING it retargets,
in a STOP ramp it is queued. MOVER forms its target from the position, RANGE outside 32 bits. Completes: movea, mover. -/
def Clauses.AxisMoves : Prop :=
  ∀ (s : State) (ax : BitVec 16) (v : Word),
    let a := ax.toNat
    let ok := s.powered 10 = true ∧ a < 6 ∧ s.motionBarred a = false ∧
      s.limitAhead a (Int.sign (v.toInt - s.axPos a)) = false
    let run := s.setAxis a { s.axis a with motion := .toTarget v.toInt, decel := false }
    let re := run.setAxis a { run.axis a with lastTgt := v.toInt }
    (6 ≤ a → exec (.movea ax v) s = .next (s.answer .address) ∧ exec (.mover ax v) s = .next (s.answer .address)) ∧
    (a < 6 → (s.powered 10 = false ∨ s.axState a = 0 ∨ 4 ≤ s.axState a) →
      exec (.movea ax v) s = .next (s.answer .state) ∧ exec (.mover ax v) s = .next (s.answer .state)) ∧
    (a < 6 → (s.motionBarred a = true ∨ s.limitAhead a (Int.sign (v.toInt - s.axPos a)) = true) →
      exec (.movea ax v) s = .next (s.answer .state)) ∧
    (inSpan (s.axPos a + v.toInt) = true → exec (.mover ax v) s =
      exec (.movea ax (BitVec.ofInt 32 (s.axPos a + v.toInt))) s) ∧
    (a < 6 → s.powered 10 = true → s.motionBarred a = false → 1 ≤ s.axState a → s.axState a ≤ 3 →
      inSpan (s.axPos a + v.toInt) = false → exec (.mover ax v) s = .next (s.answer .range)) ∧
    (ok → s.sound = true → s.axState a = 1 → ∃ u, exec (.movea ax v) s = .next u ∧ u.axState a = 2 ∧
      (u.axis a).motion = .toTarget v.toInt ∧ (u.axis a).held = [] ∧ (u.axis a).ihold = false ∧ u.status = .ok ∧
      u.ax a F.GLS_AXST_PENDPAR = 0 ∧ ((s.axis a).staged = none → u.sfld (R.GLS_TGT a) F.GLS_TGT_TGT = v.toInt) ∧
      (∀ w : Nat, (s.axis a).held = [(0, some w)] → u.rd (R.GLS_VMAX a) = BitVec.ofNat 32 w)) ∧
    (ok → s.axState a = 2 → exec (.movea ax v) s = .next ((re.showTgt a).answer .ok)) ∧
    (ok → s.axState a = 3 → exec (.movea ax v) s = .next
      (((s.setAxis a { s.axis a with queued := some (.toTarget v.toInt) }).setAx a F.GLS_AXST_QUEUED 1).answer .ok))

/-- R267, R270, R271: JOG beyond VMAX is RANGE, from STANDSTILL it runs; STOP while MOVING enters the STOP ramp and drops a
queued move, at STANDSTILL it has no other effect; ESTOP while MOVING enters the emergency ramp with ECAUSE 2, at STANDSTILL
the axis is HALTED. Completes: jog, axisStop, estop. -/
def Clauses.AxisRunAndStop : Prop :=
  ∀ (s : State) (ax : BitVec 16) (v : Word),
    let a := ax.toNat
    (6 ≤ a → exec (.jog ax v) s = .next (s.answer .address) ∧ exec (.axisStop ax) s = .next (s.answer .address) ∧
      exec (.estop ax) s = .next (s.answer .address)) ∧
    (a < 6 → (s.powered 10 = false ∨ s.axState a = 0) → exec (.axisStop ax) s = .next (s.answer .state) ∧
      exec (.estop ax) s = .next (s.answer .state)) ∧
    (a < 6 → s.powered 10 = true → s.fld (R.GLS_VMAX a) F.GLS_VMAX_VMAX < v.toInt.natAbs →
      exec (.jog ax v) s = .next (s.answer .range)) ∧
    (a < 6 → s.powered 10 = true → s.sound = true →
      (v ≠ 0 → v.toInt.natAbs ≤ s.fld (R.GLS_VMAX a) F.GLS_VMAX_VMAX → s.motionBarred a = false →
        s.limitAhead a (Int.sign v.toInt) = false → s.axState a = 1 → ∃ u, exec (.jog ax v) s = .next u ∧
        u.axState a = 2 ∧ (u.axis a).motion = .run v.toInt ∧ u.status = .ok) ∧
      (s.axState a = 1 → exec (.axisStop ax) s = .next ((s.emptyQueue a).answer .ok)) ∧
      (s.axState a = 2 → (s.axis a).lead = none → ∃ u, exec (.axisStop ax) s = .next u ∧ u.axState a = 3 ∧
        (u.axis a).queued = none ∧ u.status = .ok ∧ u.axPos a = s.axPos a) ∧
      (s.axState a = 2 → (s.axis a).lead = none → s.motionBarred a = false →
        exec (.jog ax 0) s = exec (.axisStop ax) s) ∧
      (s.axState a = 1 → ∃ u, exec (.estop ax) s = .next u ∧ u.axState a = 5 ∧ u.ax a F.GLS_AXST_ECAUSE = 2 ∧
        u.fld (R.GLS_VEL a) F.GLS_VEL_VEL = 0 ∧ u.status = .ok ∧ u.axPos a = s.axPos a) ∧
      (s.axState a = 2 → (s.axis a).lead = none → ∃ u, exec (.estop ax) s = .next u ∧ u.axState a = 4 ∧
        u.ax a F.GLS_AXST_ECAUSE = 2 ∧ (u.axis a).queued = none ∧ u.status = .ok ∧
        u.mor.triggers = insTrig ⟨s.now, 0x50, a, BitVec.ofNat 64 (2 + 256 * s.fld (R.GLS_VEL a) F.GLS_VEL_VEL), false,
          none, none, none⟩ s.mor.triggers))

/-- R265, R267–R269, R272: SETPAR with a bad parameter or value is RANGE, during a deceleration it is held, otherwise it
takes effect in place of a held one; ENABLE, DISABLE, PRESET, GTGT, TBLWR, TBLSEL and CLEAR act only in the states listed
for them. Completes: setpar, axisEnable, axisDisable, preset, gtgt, tblwr, tblsel, axisClear. -/
def Clauses.AxisSettings : Prop :=
  ∀ (s : State) (ax : BitVec 16) (k : BitVec 4) (i : BitVec 8) (e : BitVec 16) (x y z : Bool) (v : Word), ax.toNat < 6 →
    s.powered 10 = true → s.sound = true →
    let a := ax.toNat
    (parInRange k.toNat v.toNat = false → exec (.setpar ax k v) s = .next (s.answer .range)) ∧
    (parInRange k.toNat v.toNat = true → s.decelerates a = true → exec (.setpar ax k v) s = .next (
      let held := tabSet (dflt none) (s.axis a).held k.toNat (some v.toNat)
      ((s.setAxis a { s.axis a with held := held }).setAx a F.GLS_AXST_PENDPAR 1).answer .ok)) ∧
    (parInRange k.toNat v.toNat = true → s.decelerates a = false → exec (.setpar ax k v) s = .next (
      let w := s.wr (R.GLS_VMAX a + 4 * k.toNat) v
      let held := tabSet (dflt none) (s.axis a).held k.toNat none
      ((w.setAxis a { w.axis a with held := held }).setAx a F.GLS_AXST_PENDPAR (if held = [] then 0 else 1)).answer .ok)) ∧
    (s.axState a = 0 → s.flag (R.GLS_CFG a) F.GLS_CFG_CFGERR = true →
      exec (.axisEnable ax) s = .next (s.answer .state)) ∧
    (s.axState a = 0 → s.flag (R.GLS_CFG a) F.GLS_CFG_CFGERR = false → s.ax a F.GLS_AXST_DRVFLT = 0 →
      s.ax a F.GLS_AXST_LOOPLOST = 0 → s.ax a F.GLS_AXST_ECAUSE = 0 → ∃ u, exec (.axisEnable ax) s = .next u ∧
      u.axState a = 1 ∧ (u.axis a).ihold = true ∧ u.status = .ok) ∧
    (s.axState a ≠ 0 → exec (.axisEnable ax) s = .next (s.answer .state)) ∧
    ((s.axState a = 1 ∨ s.axState a = 5) → s.ax a F.GLS_AXST_GRP = 0 → ∃ u, exec (.axisDisable ax) s = .next u ∧
      u.axState a = 0 ∧ u.status = .ok) ∧
    (2 ≤ s.axState a → s.axState a ≠ 5 → exec (.axisDisable ax) s = .next (s.answer .state)) ∧
    ((s.axState a = 0 ∨ s.axState a = 1) → exec (.preset ax v) s = .next
      ((((s.setSfld (R.GLS_POS a) F.GLS_POS_POS v.toInt).setAx a F.GLS_AXST_REF 1).setAx a F.GLS_AXST_RESTORED 0).answer
        .ok)) ∧
    (2 ≤ s.axState a → exec (.preset ax v) s = .next (s.answer .state)) ∧
    (s.axState a = 1 → exec (.gtgt ax v) s = .next
      (((s.setAxis a { s.axis a with staged := some v.toInt }).setSfld (R.GLS_TGT a) F.GLS_TGT_TGT v.toInt).answer .ok)) ∧
    (s.axState a ≠ 1 → exec (.gtgt ax v) s = .next (s.answer .state) ∧ exec (.home ax) s = .next (s.answer .state)) ∧
    (s.axState a ≤ 6 → exec (.tblwr ax x i e) s =
        .next ((s.setFld (R.GLS_TSTG a x.toNat i.toNat) F.GLS_TSTG_T e.toNat).answer .ok) ∧
      exec (.tblsel ax x y z) s = .next
        (((s.setAxis a { s.axis a with tblReq := some (x, y, z) }).setAx a F.GLS_AXST_TBLPEND 1).answer .ok)) ∧
    (s.axState a = 5 → s.ax a F.GLS_AXST_ESTOPLN = 0 → s.ax a F.GLS_AXST_DRVFLT = 0 → ∃ u,
      exec (.axisClear ax) s = .next u ∧ u.axState a = 1 ∧ u.ax a F.GLS_AXST_ECAUSE = 0 ∧
      u.ax a F.GLS_AXST_LOOPLOST = 0 ∧ u.status = .ok) ∧
    ((s.axState a ≠ 5 ∨ s.ax a F.GLS_AXST_ESTOPLN ≠ 0) → exec (.axisClear ax) s = .next (s.answer .state))

/-- R269, R270: GGO is RANGE for a mask without its own axis, STATE unless every masked axis stands with a staged target;
with all distances 0 it consumes the targets, TGT showing the last move's again, otherwise every masked axis moves along the
line of the lead, the axis with the largest distance. Completes: ggo. -/
def Clauses.InterpolationGroups : Prop :=
  ∀ (s : State) (ax : BitVec 16) (m : Word), ax.toNat < 6 → s.powered 10 = true → s.sound = true →
    let g := ax.toNat
    let l := maskAxes m.toNat
    let lead := s.groupLead l
    ((m = 0 ∨ 64 ≤ m.toNat ∨ m.toNat.testBit g = false) → exec (.ggo ax m) s = .next (s.answer .range)) ∧
    (m.toNat < 64 → m.toNat.testBit g = true → (∃ b ∈ l, s.mayJoin b = false) →
      exec (.ggo ax m) s = .next (s.answer .state)) ∧
    (m.toNat < 64 → m.toNat.testBit g = true → (∀ b ∈ l, s.mayJoin b = true) →
      ((∀ b ∈ l, s.groupDist b = 0) → ∃ u, exec (.ggo ax m) s = .next u ∧ u.status = .ok ∧
        (∀ r, (∀ b ∈ l, r ≠ R.GLS_TGT b) → u.rd r = s.rd r) ∧
        ∀ b ∈ l, (u.axis b).staged = none ∧ (u.axis b).lead = (s.axis b).lead ∧
          (inSpan (s.axis b).lastTgt = true → u.sfld (R.GLS_TGT b) F.GLS_TGT_TGT = (s.axis b).lastTgt)) ∧
      ((∃ b ∈ l, s.groupDist b ≠ 0) → (∀ b ∈ l, (s.axis b).held = []) →
        (lead ∈ l ∧ ∀ b ∈ l, (s.groupDist b).natAbs ≤ (s.groupDist lead).natAbs) ∧
        ∃ u, exec (.ggo ax m) s = .next u ∧ u.status = .ok ∧ ∀ b ∈ l, u.axState b = 2 ∧
          u.ax b F.GLS_AXST_GRP = 1 ∧ (u.axis b).lead = some lead ∧ (u.axis b).par = g ∧
          (u.axis b).dist = s.groupDist b ∧ (u.axis b).staged = none ∧
          (u.axis b).leadDist = (s.groupDist lead).natAbs))

/-- R261, R266, R267, R271, R275, R279: an update of an axis that moves alone takes the next velocity and the steps on its
path; in the emergency ramp the speed falls by EDEC, in a STOP ramp without jerk limit by DEC; a move without jerk limit
keeps to VMAX, gains no more than ACC and loses no more than DEC; steps on a path within the way left do not pass the target;
GLS_IMEAS shows the currents, the duties stay within 2,500 and follow the setpoint's sign; the ends of a move and of the emergency ramp leave the axis
STANDSTILL and HALTED, E53 after a homing; IHOLD follows 100 ms later. That the profile runs in updates of 25 µs is DEDUCED
(log 43). Completes: profileUpdate, moveComplete, emergencyRampEnd, iholdTimer. -/
def Clauses.AxisProfile : Prop :=
  ∀ (s : State) (a : Fin 6) (p q : Int) (ia ib : BitVec 12), s.islandOn 13 = true → s.sound = true →
    (s.axis a).lead = none →
    let x := s.axis a
    let d := s.heading a
    let w := s.nextSpeed a
    let n := (stepsOn (d * x.frac) (x.fine.natAbs + w)).1
    let late := s.atTime (x.restAt + 100000000)
    let vmax : Int := s.fld (R.GLS_VMAX a) F.GLS_VMAX_VMAX * 1600000000
    let acc : Int := s.fld (R.GLS_ACC a) F.GLS_ACC_ACC * 40000
    let dec : Int := s.fld (R.GLS_DEC a) F.GLS_DEC_DEC * 40000
    let edec : Int := s.fld (R.GLS_EDEC a) F.GLS_EDEC_EDEC * 40000
    (2 ≤ s.axState a → s.axState a ≤ 4 → ∃ u, exec (.profileUpdate a ia ib) s = .next u ∧
      (u.axis a).fine = d * w ∧ u.axState a = s.axState a ∧
      (inSpan (s.axPos a + d * n) = true → u.axPos a = s.axPos a + d * n) ∧
      (s.axState a = 4 → (u.axis a).fine = toward0 x.fine edec) ∧
      (s.axState a = 3 → s.fld (R.GLS_JERK a) F.GLS_JERK_JERK = 0 → (u.axis a).fine = toward0 x.fine dec) ∧
      (s.axState a = 2 → x.motion = .toTarget q →
        (s.fld (R.GLS_JERK a) F.GLS_JERK_JERK = 0 → (x.fine.natAbs : Int) ≤ vmax →
          ((u.axis a).fine.natAbs : Int) ≤ vmax ∧ ((u.axis a).fine.natAbs : Int) ≤ x.fine.natAbs + acc ∧
          (x.fine.natAbs : Int) ≤ (u.axis a).fine.natAbs + dec) ∧
        (s.axPos a = p → p < q → inSpan q = true → 0 ≤ x.fine → 0 ≤ x.frac + x.fine + w →
          x.fine + w ≤ (q - p) * 128000000000000 - x.frac → p ≤ u.axPos a ∧ u.axPos a ≤ q))) ∧
    ((s.axState a ≤ 1 ∨ s.axState a = 5) → ∃ u, exec (.profileUpdate a ia ib) s = .next u ∧
      (s.phasesDriven a = true → u.sfld (R.GLS_IMEAS a) F.GLS_IMEAS_IA = ia.toNat - 2048 ∧
        u.sfld (R.GLS_IMEAS a) F.GLS_IMEAS_IB = ib.toNat - 2048) ∧
      (s.phasesDriven a = false → (u.axis a).dutyA = 0 ∧ (u.axis a).dutyB = 0) ∧
      ((u.axis a).dutyA.natAbs ≤ 2500 ∧ (u.axis a).dutyB.natAbs ≤ 2500) ∧
      (s.phasesDriven a = true → (0 ≤ (s.setpoints a).1 → 0 ≤ (u.axis a).dutyA) ∧
        ((s.setpoints a).1 < 0 → (u.axis a).dutyA ≤ 0)) ∧ u.axPos a = s.axPos a ∧ u.axState a = s.axState a) ∧
    (s.moveEnds a = true → x.queued = none → ∃ u, exec (.moveComplete a) s = .next u ∧ u.axState a = 1 ∧
      u.fld (R.GLS_VEL a) F.GLS_VEL_VEL = 0 ∧ (u.axis a).motion = .none ∧ u.axPos a = s.axPos a ∧
      (x.homed = none → u.mor.triggers = s.mor.triggers) ∧
      (x.homed = some p → u.mor.triggers = insTrig ⟨s.now, 0x53, a, BitVec.ofNat 64 (unsignOf 32 p), false, none, none,
        none⟩ s.mor.triggers)) ∧
    (s.moveEnds a = false → exec (.moveComplete a) s = .next s) ∧
    (s.axState a = 4 → x.fine = 0 → ∃ u, exec (.emergencyRampEnd a) s = .next u ∧ u.axState a = 5 ∧
      u.axPos a = s.axPos a) ∧
    ((s.axState a = 1 ∨ s.axState a = 5) → exec (.iholdTimer a) s =
      .next (late.setAxis a { late.axis a with ihold := true })) ∧
    ((s.axState a = 0 ∨ 2 ≤ s.axState a ∧ s.axState a ≤ 4) → exec (.iholdTimer a) s = .next s)

/-- R263, R271, R273, R274: a driver fault in MODE 1 halts the axis at once and takes its reference, in MODE 2 it starts the
emergency ramp; a current loop off its setpoint for 40 periods, the Pergola line and an end limit ahead start it with causes
4, 1 and 5; an end limit is active once its input has stood at LPOL's level for 100 µs; on an axis that does not travel
toward it, it is only noted with E55. Completes: driverFault, loopLost, estopLineAssert, limitInputActive,
limitInputInactive. -/
def Clauses.AxisFaults : Prop :=
  ∀ (s : State) (a : Fin 6) (b : Bool) (m : BitVec 16), s.islandOn 13 = true → s.sound = true → (s.axis a).lead = none →
    let lim := if b then F.GLS_AXST_LIMP else F.GLS_AXST_LIMN
    let off := if b then (s.axis a).offB else (s.axis a).offA
    let meas := s.fld (R.GLS_IMEAS a) (if b then F.GLS_IMEAS_IB else F.GLS_IMEAS_IA)
    let noted (u : State) := u.raise 0x55 a (b.toNat + 256 * u.fld (R.GLS_POS a) F.GLS_POS_POS)
    (s.axState a = 2 → s.axMode a = 1 → ∃ u, exec (.driverFault a) s = .next u ∧ u.axState a = 5 ∧
      u.ax a F.GLS_AXST_DRVFLT = 1 ∧ u.ax a F.GLS_AXST_REF = 0 ∧ u.fld (R.GLS_VEL a) F.GLS_VEL_VEL = 0 ∧
      (u.axis a).queued = none ∧ (u.axis a).rearmed = false ∧ u.setpoints a = (0, 0)) ∧
    (s.axState a = 2 → s.axMode a = 2 → ∃ u, exec (.driverFault a) s = .next u ∧ u.axState a = 4 ∧
      u.ax a F.GLS_AXST_DRVFLT = 1 ∧ u.ax a F.GLS_AXST_REF = 0 ∧ u.ax a F.GLS_AXST_ECAUSE = 3) ∧
    (s.axState a = 2 → s.phasesDriven a = true → 40 ≤ off → m.toNat = meas →
      ∃ u, exec (.loopLost a b m) s = .next u ∧ u.axState a = 4 ∧ u.ax a F.GLS_AXST_LOOPLOST = 1 ∧ u.ax a F.GLS_AXST_ECAUSE = 4) ∧
    ((s.phasesDriven a = false ∨ off < 40 ∨ m.toNat ≠ meas) → exec (.loopLost a b m) s = .next s) ∧
    (s.tripAsserted (48 + a.val) = true → s.axState a = 2 → ∃ u, exec (.estopLineAssert a) s = .next u ∧
      u.axState a = 4 ∧ u.ax a F.GLS_AXST_ESTOPLN = 1 ∧ u.ax a F.GLS_AXST_ECAUSE = 1) ∧
    (s.tripAsserted (48 + a.val) = true → s.axState a = 1 → ∃ u, exec (.estopLineAssert a) s = .next u ∧
      u.axState a = 5 ∧ u.ax a F.GLS_AXST_ESTOPLN = 1 ∧ u.ax a F.GLS_AXST_ECAUSE = 1) ∧
    (s.tripAsserted (48 + a.val) = false → exec (.estopLineAssert a) s = .next s) ∧
    (let n := s.limitInput a b
     let matched := s.flag (R.GLS_CFG a) F.GLS_CFG_LIMEN = true ∧ s.axInput n = s.flag (R.GLS_CFG a) F.GLS_CFG_LPOL
     let late := s.atTime (tabGet (dflt 0) s.trp.tapAt n + 100000)
     (matched → s.ax a lim = 0 →
       (s.axState a = 1 → exec (.limitInputActive a b) s = .next (noted (late.setAx a lim 1))) ∧
       (s.axState a = 2 → s.travel a = (if b then 1 else -1) → ∃ u, exec (.limitInputActive a b) s = .next u ∧
         u.now = late.now ∧ u.axState a = 4 ∧ u.ax a F.GLS_AXST_ECAUSE = 5 ∧ u.ax a lim = 1)) ∧
     ((¬ matched ∨ s.ax a lim ≠ 0) → exec (.limitInputActive a b) s = .next s) ∧
     (¬ matched → s.ax a lim ≠ 0 → exec (.limitInputInactive a b) s = .next (noted (s.setAx a lim 0))) ∧
     (matched → exec (.limitInputInactive a b) s = .next s))

/-- R275, R276: HOME begins with CLEAR where the home input is active, otherwise with SEARCH; an edge is latched once in a
phase, after the input has held its new state over 32 microsteps and for 2 ms; a phase that runs its distance fails with
HOMEFAIL, HCAUSE and E54; the approach ends with the position set so that the latched edge reads HOFS, and REF; E53 follows at
STANDSTILL. Completes: home, homeEdgeQualified, homeDistanceFail, homeComplete. -/
def Clauses.Homing : Prop :=
  ∀ (s : State) (ax : BitVec 16) (a : Fin 6) (w : Word) (c : Nat), s.islandOn 13 = true → s.sound = true →
    (ax.toNat = a.val → s.axState a = 1 → s.motionBarred a = false →
      let ph := if s.homeActive a then 1 else 2
      (s.limitAhead a ((s.homeMotion a ph).sign 0) = true → exec (.home ax) s = .next (s.answer .state)) ∧
      (s.limitAhead a ((s.homeMotion a ph).sign 0) = false → ∃ u, exec (.home ax) s = .next u ∧ u.axState a = 6 ∧
        u.ax a F.GLS_AXST_HPH = ph ∧ u.ax a F.GLS_AXST_HOMEFAIL = 0 ∧ u.ax a F.GLS_AXST_HCAUSE = 0 ∧
        (u.axis a).edgeSeen = false ∧ u.status = .ok)) ∧
    (let late := s.atTime (tabGet (dflt 0) s.trp.tapAt (s.fld (R.GLS_CFG a) F.GLS_CFG_HDI) + 2000000)
     let ph := s.ax a F.GLS_AXST_HPH
     let seen := ph ≠ 3 ∧ s.homeActive a = (ph != 1) ∧ 32 ≤ s.heading a * (s.axPos a - w.toInt)
     (s.axState a = 6 → (s.axis a).edgeSeen = false → seen → exec (.homeEdgeQualified a w) s = .next
       (late.setAxis a { late.axis a with homeEdge := w.toInt, edgeSeen := true, decel := true })) ∧
     ((s.axState a ≠ 6 ∨ (s.axis a).edgeSeen = true ∨ ¬ seen) → exec (.homeEdgeQualified a w) s = .next s)) ∧
    (s.axState a = 6 → s.homeOverrun a = some c → ∃ u, exec (.homeDistanceFail a) s = .next u ∧ u.axState a = 3 ∧
      u.ax a F.GLS_AXST_HOMEFAIL = 1 ∧ u.ax a F.GLS_AXST_HCAUSE = c ∧ u.ax a F.GLS_AXST_REF = 0 ∧
      u.mor.triggers = insTrig ⟨s.now, 0x54, a, BitVec.ofNat 64 (s.ax a F.GLS_AXST_HPH + 256 * c), false, none, none,
        none⟩ s.mor.triggers) ∧
    (s.axState a = 6 → s.homeOverrun a = none → exec (.homeDistanceFail a) s = .next s) ∧
    (s.axState a = 6 → s.ax a F.GLS_AXST_HPH = 4 → (s.axis a).edgeSeen = true →
      let q := s.axPos a + s.sfld (R.GLS_HOFS a) F.GLS_HOFS_HOFS - (s.axis a).homeEdge
      inSpan q = true → ∃ u, exec (.homeComplete a) s = .next u ∧ u.axState a = 3 ∧ u.axPos a = q ∧
        u.ax a F.GLS_AXST_REF = 1 ∧ u.ax a F.GLS_AXST_HPH = 0 ∧ (u.axis a).homed = some (s.axis a).homeEdge ∧
        u.mor.triggers = s.mor.triggers)

/-! ### Glasshouse, the panel -/

/-- R218, R284, R286, R287: a panel request for another target is ADDRESS, for a panel that is not driven STATE, outside the
panel or of a missing picture RANGE; DRAW, COPY and CLEAR write the target buffer; an UPDATE of matrix mode joins the queue
of eight, BUSY when it is full, or merges with the requests it shares a row with. Completes: draw, update, copy, panelClear. -/
def Clauses.PanelRequests : Prop :=
  ∀ (s : State) (tg pix : BitVec 16) (r r0 r1 : BitVec 6) (h : BitVec 3) (c0 c1 : BitVec 7) (pic : BitVec 4)
    (tag : BitVec 6),
    let rows := rowSet r0.toNat r1.toNat
    let m := colMask c0.toNat c1.toNat
    let bad := r1.toNat < r0.toNat ∨ c1.toNat < c0.toNat ∨ s.commons ≤ r1.toNat ∨ s.segs ≤ c1.toNat
    let noPic := s.img.exec.pictures.find? (fun e => e.1 == pic.toNat) = none
    let refuse (x : Status) := exec (.draw tg r h pix) s = .next (s.answer x) ∧
      exec (.update tg r0 r1 c0 c1 tag) s = .next (s.answer x) ∧
      exec (.copy tg r0 r1 c0 c1 pic) s = .next (s.answer x) ∧ exec (.panelClear tg tag) s = .next (s.answer x)
    (tg ≠ 0 → refuse .address) ∧ (tg = 0 → s.panelBarred = true → refuse .state) ∧
    (tg = 0 → s.panelBarred = false →
      ((s.commons ≤ r.toNat ∨ s.segs ≤ 16 * h.toNat) → exec (.draw tg r h pix) s = .next (s.answer .range)) ∧
      (r.toNat < s.commons → 16 * h.toNat < s.segs → exec (.draw tg r h pix) s = .next (
        let a := R.PNL_BUF r.toNat (h.toNat / 2)
        let u := s.wr a (putFld ⟨16 * (h.toNat % 2), 16⟩ (s.rd a) pix.toNat)
        (u.setPanel { u.pnl with dirty := true }).answer .ok)) ∧
      (bad → exec (.update tg r0 r1 c0 c1 tag) s = .next (s.answer .range)) ∧
      ((bad ∨ noPic) → exec (.copy tg r0 r1 c0 c1 pic) s = .next (s.answer .range)) ∧
      (¬ bad → s.sound = true → ∀ e, s.img.exec.pictures.find? (fun e => e.1 == pic.toNat) = some e →
        ∃ u, exec (.copy tg r0 r1 c0 c1 pic) s = .next u ∧ u.status = .ok ∧ u.pnl.dirty = true ∧
          ∀ k, k < 64 → u.bufRow k = (if r0.toNat ≤ k ∧ k ≤ r1.toNat
            then (s.bufRow k &&& ~~~m) ||| (e.2.getD k 0 &&& m) else s.bufRow k)) ∧
      (¬ bad → s.panelMode = 2 → exec (.update tg r0 r1 c0 c1 tag) s =
        .next ((s.setPanel { s.pnl with segTags := s.pnl.segTags ++ [tag.toNat] }).answer .ok)) ∧
      (¬ bad → s.panelMode ≠ 2 → (∀ q ∈ s.pnl.queue, q.shares rows = false) →
        (8 ≤ s.pnl.queue.length → exec (.update tg r0 r1 c0 c1 tag) s = .next (s.answer .busy)) ∧
        (s.pnl.queue.length < 8 → ∃ u, exec (.update tg r0 r1 c0 c1 tag) s = .next u ∧ u.status = .ok ∧
          u.pnl.queue = s.pnl.queue ++ [⟨rows, 0, r0.toNat, r1.toNat, c0.toNat, c1.toNat, tag.toNat, false⟩])) ∧
      (¬ bad → s.panelMode ≠ 2 → (∃ q ∈ s.pnl.queue, q.shares rows = true) → ∃ u,
        exec (.update tg r0 r1 c0 c1 tag) s = .next u ∧ u.status = .ok ∧ u.pnl.queue.length ≤ s.pnl.queue.length ∧
        ∃ q ∈ u.pnl.queue, q.tag = tag.toNat ∧ q.rows &&& rows = rows) ∧
      (s.panelMode ≠ 2 → s.sound = true → s.pnl.queue = [] → ∃ u, exec (.panelClear tg tag) s = .next u ∧
        u.status = .ok ∧ u.flag R.PNL_STAT F.PNL_STAT_JLOST = false ∧ (∀ k, k < 64 → u.bufRow k = 0) ∧
        u.pnl.queue = [⟨rowSet 0 (s.commons - 1), 0, 0, s.commons - 1, 0, s.segs - 1, tag.toNat, true⟩]))

/-- R285, R288–R291, R293: the journal copies the buffer; a row begins with the lowest row left of the head request, record
IN-PROGRESS and POL inverted, once the pump is ready; its phases follow one another, each after its length; after EVO the row
shows its data, and the last row of a request gives LASTTAG. That SEL ends with the longest pulse of its row is DEDUCED (log
81). Completes: journalCopy, pumpReady, rowPhaseEnd. -/
def Clauses.PanelRows : Prop :=
  ∀ (s : State) (q : Req) (w : RowWrite) (l : List Req) (r : Nat) (k : List Nat) (v x : BitVec 16),
    s.islandOn 14 = true → s.sound = true →
    let one : BitVec 64 := BitVec.ofNat 64 (2 ^ w.row)
    let late := s.atTime (w.since + s.phaseLength w)
    (s.pnl.dirty = false → exec .journalCopy s = .next s) ∧
    (s.pnl.dirty = true → exec .journalCopy s = .next (s.setPanel { s.pnl with
      dirty := false
      journal := tabSetAll (dflt 0) s.pnl.journal ((List.range 64).map fun i => (i, s.bufRow i)) })) ∧
    (s.pnl.cur = none → s.pnl.queue = q :: l → s.mayStartRow = true → s.pnl.replay = 0 → rowsOf q.left = r :: k →
      s.flag R.PNL_STAT F.PNL_STAT_PUMPON = true → s.pnl.pumpReady = false → ∃ u, exec (.pumpReady v x) s = .next u ∧
      u.fld R.PNL_PUMP F.PNL_PUMP_VRST = v.toNat ∧ u.fld R.PNL_PUMP F.PNL_PUMP_VSEL = x.toNat ∧
      u.fld (R.PNL_JROW r) F.PNL_JROW_STATE = 1 ∧
      u.flag (R.PNL_JROW r) F.PNL_JROW_POL = !(s.flag (R.PNL_JROW r) F.PNL_JROW_POL) ∧
      u.flag R.PNL_STAT F.PNL_STAT_RUN = true ∧ u.fld R.PNL_STAT F.PNL_STAT_PHASE = 1 ∧
      u.fld R.PNL_STAT F.PNL_STAT_ROW = r ∧ (∀ y, u.pnl.cur = some y → y.row = r ∧ y.phase = 1 ∧ y.full = q.full ∧
        y.data = s.bufRow r ∧ y.since = s.now) ∧ u.pnl.cur ≠ none) ∧
    (s.pnl.cur = some w → w.phase < 3 → exec .rowPhaseEnd s = .next
      ((late.setPanel { s.pnl with cur := some { w with phase := w.phase + 1, since := late.now } }).setFld R.PNL_STAT
        F.PNL_STAT_PHASE (w.phase + 1))) ∧
    (s.pnl.cur = none → exec .rowPhaseEnd s = .next s) ∧
    (s.pnl.cur = some w → w.phase = 3 → w.row < 64 → w.stray = false → s.pnl.queue = q :: l →
      (q.rows &&& ~~~(q.done ||| one) ≠ 0 → ∃ u, exec .rowPhaseEnd s = .next u ∧ u.now = late.now ∧
        u.pnl.shown = tabSet (dflt 0) s.pnl.shown w.row w.data ∧ u.pnl.queue = { q with done := q.done ||| one } :: l ∧
        u.fld (R.PNL_JROW w.row) F.PNL_JROW_STATE = 2) ∧
      (q.rows &&& ~~~(q.done ||| one) = 0 → l = [] → ∃ u, exec .rowPhaseEnd s = .next u ∧ u.now = late.now ∧
        u.pnl.shown = tabSet (dflt 0) s.pnl.shown w.row w.data ∧ u.pnl.queue = [] ∧ u.pnl.cur = none ∧
        u.fld R.PNL_QST F.PNL_QST_LASTTAG = q.tag % 64 ∧ u.fld R.PNL_QST F.PNL_QST_COUNT = 0 ∧
        u.flag R.PNL_STAT F.PNL_STAT_RUN = false ∧ (∀ i, i < 64 → q.rows.getLsbD i = true →
          u.fld (R.PNL_JROW i) F.PNL_JROW_STATE ≠ 2)))

/-- R286, R291, R292, R295, R296, R299: the pump stops when nothing is left for 100 ms, an output more than 5 % off leaves
the row to be written again, the pump to be restarted after 1 s, and the third fault in a row sets PUMPERR, with E5B; RETRY
and a map's COMMIT need the lock; a frame of segment mode shows the buffer, inverts the drive and completes the waiting
UPDATEs; a good reading of the resistance is the temperature. Completes: pumpIdleStop, pumpFault, pumpRestart, pnlRetry,
mapCommit, segmentFrame, panelTempRead. -/
def Clauses.PanelPumpAndMaps : Prop :=
  ∀ (s₀ : State) (p : Port) (v x : BitVec 16) (m : BitVec 2) (t : Time), s₀.islandOn 14 = true → s₀.sound = true →
    let s := s₀.atTime t
    let n := s₀.pnl.faults + 1
    let stamp := s.setSup { s.sup with lastLk := s.now }
    (s₀.flag R.PNL_STAT F.PNL_STAT_PUMPON = true → s₀.pnl.queue = [] → s₀.pnl.cur = none →
      exec .pumpIdleStop s₀ = .next (((s₀.atTime (s₀.pnl.idleAt + 100000000)).setFlag R.PNL_STAT F.PNL_STAT_PUMPON
        false).setPanel { s₀.pnl with pumpReady := false })) ∧
    ((s₀.flag R.PNL_STAT F.PNL_STAT_PUMPON = false ∨ s₀.pnl.queue ≠ []) → exec .pumpIdleStop s₀ = .next s₀) ∧
    (s₀.flag R.PNL_STAT F.PNL_STAT_PUMPON = true → s₀.flag R.PNL_STAT F.PNL_STAT_PUMPERR = false →
      s₀.pumpOff v x = true → ∃ u, exec (.pumpFault v x) s₀ = .next u ∧ u.pnl.cur = none ∧ u.pnl.faults = n ∧
      u.flag R.PNL_STAT F.PNL_STAT_PUMPON = false ∧ u.flag R.PNL_STAT F.PNL_STAT_PUMPERR = decide (3 ≤ n) ∧
      u.pnl.restartDue = decide (n < 3) ∧ u.pnl.faultAt = s₀.now ∧
      (∀ w, s₀.pnl.cur = some w → w.row < 64 → u.pnl.replay.getLsbD w.row = true) ∧
      u.mor.triggers = insTrig ⟨s₀.now, 0x5B, n, BitVec.ofNat 64 (v.toNat + 65536 * x.toNat), false, none, none, none⟩
        s₀.mor.triggers) ∧
    (s₀.pumpOff v x = false → exec (.pumpFault v x) s₀ = .next s₀) ∧
    (s₀.pnl.restartDue = false → exec .pumpRestart s₀ = .next s₀) ∧
    (let late := s₀.atTime (s₀.pnl.faultAt + 1000000000)
     s₀.pnl.restartDue = true → s₀.pnl.queue ≠ [] →
       exec .pumpRestart s₀ = .next ((late.setFlag R.PNL_STAT F.PNL_STAT_PUMPON true).setPanel
         { s₀.pnl with restartDue := false, pumpReady := false, idleAt := late.now })) ∧
    (s.lockOpen = false → exec (.pnlRetry p t) s₀ = .next (s.answer .denied) ∧
      exec (.mapCommit p m t) s₀ = .next (s.answer .denied)) ∧
    (s.lockOpen = true → exec (.pnlRetry p t) s₀ = .next (
      let u := (stamp.setFlag R.PNL_STAT F.PNL_STAT_PUMPERR false).setFlag R.PNL_STAT F.PNL_STAT_PUMPON true
      (u.setPanel { u.pnl with faults := 0, restartDue := false, pumpReady := false, idleAt := s.now }).answer .ok)) ∧
    (s.lockOpen = true → s.pnl.queue ≠ [] → exec (.mapCommit p m t) s₀ = .next (s.answer .state)) ∧
    (s.lockOpen = true → s.pnl.queue = [] → exec (.mapCommit p m t) s₀ = .next (
      let u := stamp.setFld R.PNL_MAPSEL F.PNL_MAPSEL_MAP m.toNat
      (u.setPanel { u.pnl with
        mapCrc := tabSet (dflt 0) u.pnl.mapCrc m.toNat (crc32c (s.mapBytes m.toNat))
        mapDirty := u.pnl.mapDirty.filter (fun x => x != m.toNat) }).answer .ok)) ∧
    (let due := s₀.pnl.frameAt + 1000000000 / s₀.fld R.PNL_CFG F.PNL_CFG_FRATE
     (s₀.panelBarred = false → s₀.panelMode = 2 → ∃ u, exec .segmentFrame s₀ = .next u ∧ u.pnl.segTags = [] ∧
       u.pnl.segFlip = !s₀.pnl.segFlip ∧ u.pnl.frameAt = max s₀.now due ∧ u.pnl.shown = tabSetAll (dflt 0) s₀.pnl.shown
         ((List.range s₀.commons).map fun r => (r, s₀.bufRow r)) ∧
       (∀ y, s₀.pnl.segTags.getLast? = some y → u.fld R.PNL_QST F.PNL_QST_LASTTAG = y % 64)) ∧
     ((s₀.panelMode ≠ 2 ∨ s₀.panelBarred = true) → exec .segmentFrame s₀ = .next s₀)) ∧
    (7000 ≤ v.toNat → v.toNat ≤ 13000 → exec (.panelTempRead v x t) s₀ = .next (
      let u := (s.setFld R.PNL_TEMP F.PNL_TEMP_RPT v.toNat).setFld R.PNL_TEMP F.PNL_TEMP_T x.toNat
      let u := u.setFlag R.PNL_STAT F.PNL_STAT_TFAULT false
      u.setPanel { u.pnl with tempAt := some s.now })) ∧
    ((v.toNat < 7000 ∨ 13000 < v.toNat) → ∃ u, exec (.panelTempRead v x t) s₀ = .next u ∧
      u.flag R.PNL_STAT F.PNL_STAT_TFAULT = true ∧ u.fld R.PNL_TEMP F.PNL_TEMP_RPT = v.toNat ∧
      (s.pnl.tempAt = none → u.fld R.PNL_TEMP F.PNL_TEMP_T = 2000))

/-! ### The calendar -/

/-- R300–R302, R313, R314: a second carries through every field to the year; PD0 powered begins at 2000-01-01 with OSF set
and E62; a read of RTC_SEC freezes the reader's shadow of the eight registers, and one of RTC_CENT, or 1 s, releases it. Completes:
calendarSecond, pd0PowerUp, rtcSecRead, rtcCentRead, rtcShadowTimeout. -/
def Clauses.CalendarCounts : Prop :=
  ∀ (s₀ : State) (p : Option Port) (n i : Nat) (t : Time), s₀.sound = true →
    let s := s₀.atTime t
    (n < calSeconds → (s₀.putCal n).cal = n ∧ (s₀.putCal n).fld R.RTC_DOW F.RTC_DOW_DOW = (n / 86400 + 5) % 7 + 1) ∧
    (let sub : Int := ((s.now - s.rtc.secondAt) * 32768 / 1000000000 : Nat) + s.rtc.subOff
     (sub < 32768 → exec (.calendarSecond t) s₀ = .next s) ∧
     (32768 ≤ sub → s.cal + 1 < calSeconds → ∃ u, exec (.calendarSecond t) s₀ = .next u ∧ u.cal = s.cal + 1 ∧
       u.rtc.secondAt = s.rtc.secondAt + ((32768 - s.rtc.subOff).toNat * 1000000000 + 32767) / 32768 ∧
       u.rtc.subOff = 0 ∧ u.mor.triggers = s.mor.triggers) ∧
     (32768 ≤ sub → s.cal + 1 = calSeconds → ∃ u, exec (.calendarSecond t) s₀ = .next u ∧ u.cal = 0 ∧
       u.flag R.RTC_TRUST F.RTC_TRUST_OSF = true)) ∧
    (∃ u, exec (.pd0PowerUp t) s₀ = .next u ∧ u.cal = 0 ∧ u.flag R.RTC_TRUST F.RTC_TRUST_OSF = true ∧
      u.rd R.RTC_TRIM = 0 ∧ u.rtc.shadows = [] ∧ (s.powered 1 = true → u.mor.triggers = insTrig
        ⟨s.now, 0x62, 0, 0, false, none, none, none⟩ s.mor.triggers) ∧
      (∀ a, blockNo a ≠ 0x400C → u.rd a = s.rd a)) ∧
    (∃ u, exec (.rtcSecRead p t) s₀ = .next u ∧ u.regs = s.regs ∧
      (1 ≤ i → i ≤ 7 → u.calFor p (R.RTC_SEC + 4 * i) = s.view (R.RTC_SEC + 4 * i)) ∧
      ∀ q, readerNo q ≠ readerNo p → tabGet (dflt none) u.rtc.shadows (readerNo q) =
        tabGet (dflt none) s.rtc.shadows (readerNo q)) ∧
    (let free (u : State) := u.setRtc { u.rtc with shadows := tabSet (dflt none) u.rtc.shadows (readerNo p) none }
     exec (.rtcCentRead p) s₀ = .next (free s₀) ∧
     (∀ l t0, tabGet (dflt none) s₀.rtc.shadows (readerNo p) = some (l, t0) →
       exec (.rtcShadowTimeout p) s₀ = .next (free (s₀.atTime (t0 + 1000000000)))) ∧
     (tabGet (dflt none) s₀.rtc.shadows (readerNo p) = none → exec (.rtcShadowTimeout p) s₀ = .next s₀))

/-- R303–R306: a set of an impossible date is RANGE, a second shift BUSY, a summer-time change that does not fit STATE; what
is commanded is pending until it is applied, the set before the rest, which it discards. Completes:
rtcSetAtSecond, rtcSetImmediate, rtcShift, dstForward, dstBack, rtcAdjustApply. -/
def Clauses.CalendarAdjustments : Prop :=
  ∀ (s₀ : State) (p : Port) (neg : Bool) (k : BitVec 15) (m n c : Nat) (b : Bool) (t : Time),
    let s := s₀.atTime t
    let pendSet (u : State) (m : Nat) := (((u.setRtc { u.rtc with set := some (m, false) }).setFlag R.RTC_SET
      F.RTC_SET_PEND true).answer .ok)
    let pendDst (u : State) (f : Bool) := (((u.setRtc { u.rtc with dst := some (f, false) }).setFlag R.RTC_DST
      F.RTC_DST_PEND true).answer .ok)
    (s₀.staged = none → exec (.rtcSetAtSecond p) s₀ = .next (s₀.answer .range) ∧
      exec (.rtcSetImmediate p) s₀ = .next (s₀.answer .range)) ∧
    (s₀.staged = some n → exec (.rtcSetAtSecond p) s₀ = .next (pendSet s₀ 1) ∧
      exec (.rtcSetImmediate p) s₀ = .next (pendSet s₀ 2)) ∧
    (s₀.rtc.shift = none → 0 < k.toNat → exec (.rtcShift p neg k) s₀ = .next
      (((s₀.setRtc { s₀.rtc with shift := some (neg, k.toNat) }).setFlag R.RTC_SHIFT F.RTC_SHIFT_PEND true).answer .ok)) ∧
    (s₀.rtc.shift ≠ none → exec (.rtcShift p neg k) s₀ = .next (s₀.answer .busy)) ∧
    (s₀.rtc.shift = none → exec (.rtcShift p neg 0) s₀ = .next (s₀.answer .ok)) ∧
    (s₀.flag R.RTC_DST F.RTC_DST_ST = true → exec (.dstForward p) s₀ = .next (s₀.answer .state) ∧
      (s₀.rtc.dst = none → exec (.dstBack p) s₀ = .next (pendDst s₀ false))) ∧
    (s₀.flag R.RTC_DST F.RTC_DST_ST = false → exec (.dstBack p) s₀ = .next (s₀.answer .state) ∧
      (s₀.rtc.dst = none → exec (.dstForward p) s₀ = .next (pendDst s₀ true))) ∧
    (s₀.sound = true → (m = 2 ∨ b = true) → s.rtc.set = some (m, b) → s.staged = some n → n < calSeconds → ∃ u,
      exec (.rtcAdjustApply t) s₀ = .next u ∧ u.cal = n ∧ u.rtc.set = none ∧ u.rtc.shift = none ∧ u.rtc.dst = none ∧
      u.flag R.RTC_SET F.RTC_SET_PEND = false ∧ u.flag R.RTC_SHIFT F.RTC_SHIFT_PEND = false ∧
      u.flag R.RTC_DST F.RTC_DST_PEND = false ∧ u.flag R.RTC_TRUST F.RTC_TRUST_OSF = false ∧
      (s.powered 1 = true → u.mor.triggers = insTrig ⟨s.now, 0x60, m - 1, BitVec.ofNat 64 s.calBytes, false, none, none,
        none⟩ s.mor.triggers)) ∧
    (s₀.sound = true → s.rtc.set = none → s.rtc.dst = some (b, true) → s.rtc.shift = none → ∃ u,
      exec (.rtcAdjustApply t) s₀ = .next u ∧ u.rtc.dst = none ∧ u.flag R.RTC_DST F.RTC_DST_ST = b ∧
      u.cal = (if b then s.cal + 3600 else s.cal + calSeconds - 3600) % calSeconds) ∧
    (s₀.sound = true → s.rtc.set = none → s.rtc.dst = none → s.rtc.shift = some (neg, c) → ∃ u,
      exec (.rtcAdjustApply t) s₀ = .next u ∧ u.rtc.shift = none ∧ u.flag R.RTC_SHIFT F.RTC_SHIFT_PEND = false ∧
      u.cal * 32768 + u.rtc.subOff.toNat = (if neg then s.calCounts + calSeconds * 32768 - c else s.calCounts + c) %
        (calSeconds * 32768) ∧ u.rtc.secondAt = s.now) ∧
    (s.rtc.set = none → s.rtc.dst = none → s.rtc.shift = none → s.flag R.REC_STAT F.REC_STAT_REGW = false →
      exec (.rtcAdjustApply t) s₀ = .next s)

/-- R308, R309, R317: once a second A grows by TRIM × 32,768 and each 10,000,000 of it adds or holds one count; a write of
TRIM needs the lock and ±255.9 ppm, and is recorded with E66; a measurement needs the lock, is BUSY while one runs, and its
end after 1,000 s corrects TRIM by the error, RES 1, or leaves it, RES 4; without its reference it ends with RES 2. The error
of a mains measurement is what is measured (log 81). Completes: trimAccumulate, rtcTrimWrite, trimMeasureMains,
trimMeasureHost, trimMeasureAbort, trimMeasureEnd. -/
def Clauses.CalendarTrim : Prop :=
  ∀ (s₀ : State) (p : Port) (v : BitVec 13) (e e' : Int) (b : Bool) (t : Time),
    let s := s₀.atTime t
    let x := signOf 13 v.toNat
    let stamp (u : State) := u.setSup { u.sup with lastLk := u.now }
    let busy (u : State) (host : Bool) := ((u.setRtc { u.rtc with
      measure := some host, refBase := none, refLast := none, refTaken := false }).setFlag R.RTC_TRIMCMD
      F.RTC_TRIMCMD_BUSY true).setFld R.RTC_TRIMCMD F.RTC_TRIMCMD_RES 0
    let start (u : State) (host : Bool) := (stamp ((busy u host).setFld R.RTC_TRIMCMD F.RTC_TRIMCMD_SECS 0)).answer .ok
    let a := s₀.rtc.acc + s₀.trim * 32768
    let k := Int.tdiv a 10000000
    let full := 1000 ≤ s.fld R.RTC_TRIMCMD F.RTC_TRIMCMD_SECS
    (s₀.rtc.trimDue = true → exec .trimAccumulate s₀ = .next (s₀.setRtc { s₀.rtc with
        acc := a - k * 10000000
        subOff := s₀.rtc.subOff + k
        trimTotal := s₀.rtc.trimTotal + k
        trimDue := false })) ∧
    (s₀.rtc.trimDue = false → exec .trimAccumulate s₀ = .next s₀) ∧
    (s.lockOpen = true → (x < -2559 ∨ 2559 < x) → exec (.rtcTrimWrite p v t) s₀ = .next (s.answer .range)) ∧
    (s.lockOpen = true → -2559 ≤ x → x ≤ 2559 → s.rtc.measure = none → exec (.rtcTrimWrite p v t) s₀ = .next (
      let u := s.setSfld R.RTC_TRIM F.RTC_TRIM_TRIM x
      (stamp ((u.setRtc { u.rtc with trimRetained := unsignOf 13 x }).raiseAon 0x66 (unsignOf 16 s.trim)
        (unsignOf 16 x))).answer .ok)) ∧
    (s.lockOpen = false → exec (.rtcTrimWrite p v t) s₀ = .next (s.answer (if (s.rd R.RTC_TRIM ^^^
        BitVec.ofNat 32 v.toNat) &&& lkMask R.RTC_TRIM = 0 then .ok else .denied)) ∧
      exec (.trimMeasureMains p b t) s₀ = .next (s.answer .denied) ∧
      exec (.trimMeasureHost p t) s₀ = .next (s.answer .denied) ∧
      exec (.trimMeasureAbort p t) s₀ = .next (s.answer .denied)) ∧
    (s.lockOpen = true → s.rtc.measure ≠ none → exec (.trimMeasureMains p b t) s₀ = .next (s.answer .busy) ∧
      exec (.trimMeasureHost p t) s₀ = .next (s.answer .busy) ∧
      ∃ u, exec (.trimMeasureAbort p t) s₀ = .next u ∧ u.rtc.measure = none ∧ u.status = .ok ∧
        (s₀.sound = true → u.fld R.RTC_TRIMCMD F.RTC_TRIMCMD_RES = 5)) ∧
    (s.lockOpen = true → s.rtc.measure = none → exec (.trimMeasureHost p t) s₀ = .next (start s true) ∧
      exec (.trimMeasureMains p b t) s₀ = .next (start (s.setFlag R.RTC_TRIMCMD F.RTC_TRIMCMD_NOM b) false) ∧
      exec (.trimMeasureAbort p t) s₀ = .next ((stamp s).answer .ok)) ∧
    ((s.rtc.measure = none ∨ ¬ full) → exec (.trimMeasureEnd false e t) s₀ = .next s) ∧
    (s₀.sound = true → (s.rtc.measure = some false ∧ e' = e ∨ s.rtc.measure = some true ∧ s.hostError = some e') →
      full →
      -2147483648 ≤ e' → e' ≤ 2147483647 → ∃ u, exec (.trimMeasureEnd false e t) s₀ = .next u ∧ u.rtc.measure = none ∧
      u.flag R.RTC_TRIMCMD F.RTC_TRIMCMD_BUSY = false ∧ u.sfld R.RTC_TRIMERR F.RTC_TRIMERR_ERR = e' ∧
      ∀ y, y = s.trim - roundDiv e' 100 →
        (-2559 ≤ y ∧ y ≤ 2559 → u.trim = y ∧ u.fld R.RTC_TRIMCMD F.RTC_TRIMCMD_RES = 1) ∧
        (y < -2559 ∨ 2559 < y → u.trim = s.trim ∧ u.fld R.RTC_TRIMCMD F.RTC_TRIMCMD_RES = 4)) ∧
    (s₀.sound = true → s.rtc.measure ≠ none → s.referenceLost = true → ∃ u,
      exec (.trimMeasureEnd true e t) s₀ = .next u ∧ u.rtc.measure = none ∧
      u.trim = s.trim ∧ u.fld R.RTC_TRIMCMD F.RTC_TRIMCMD_RES = 2) ∧
    (s.rtc.measure = some false → s.referenceLost = true) ∧
    (s.referenceLost = false → exec (.trimMeasureEnd true e t) s₀ = .next s)

/-- R311–R315: enabling an alarm sets the instant of its next match, RANGE where there is none; a due alarm sets FLAG with
E61, and is disabled or repeated; a 1 to FLAG clears it with SKIPPED and MISSED; a failed crystal sets OSF, the cell LBV by
its two thresholds, and the supply of PD0 changes over and is recorded.
Completes: alarmEnable, calendarAlarmFire, alarmFlagClear, xt32Fail, xt32Restore, cellSample, vrtcChangeover. -/
def Obligations.CalendarAlarmsAndTrust : Prop :=
  ∀ (s₀ : State) (p : Port) (k : Fin 4) (b : Bool) (mv vr : BitVec 16) (n : Nat) (t : Time), s₀.sound = true →
    let s := s₀.atTime t
    (s.flag (R.RTC_ACFG k) F.RTC_ACFG_EN = true → exec (.alarmEnable p k t) s₀ = .next (s.answer .ok)) ∧
    (s.flag (R.RTC_ACFG k) F.RTC_ACFG_EN = false → (s.alarmMatch k).after s.cal = none →
      exec (.alarmEnable p k t) s₀ = .next (s.answer .range)) ∧
    (s.flag (R.RTC_ACFG k) F.RTC_ACFG_EN = false → (s.alarmMatch k).after s.cal = some n →
      exec (.alarmEnable p k t) s₀ = .next
        (((s.wrAll [(R.RTC_ADUET k, duetWord n), (R.RTC_ADUED k, duedWord n)]).setFlag
        (R.RTC_ACFG k) F.RTC_ACFG_EN true).answer .ok)) ∧
    ((s.flag (R.RTC_ACFG k) F.RTC_ACFG_EN = false ∨ s.cal < s.alarmDue k) →
      exec (.calendarAlarmFire k t) s₀ = .next s) ∧
    (s.flag (R.RTC_ACFG k) F.RTC_ACFG_EN = true → s.alarmDue k ≤ s.cal → ∃ u,
      exec (.calendarAlarmFire k t) s₀ = .next u ∧ u.flag (R.RTC_ACFG k) F.RTC_ACFG_FLAG = true ∧
      (s.flag (R.RTC_ACFG k) F.RTC_ACFG_REPEAT = false → u.flag (R.RTC_ACFG k) F.RTC_ACFG_EN = false ∧
        u.alarmDue k = s.alarmDue k) ∧
      (s.flag (R.RTC_ACFG k) F.RTC_ACFG_REPEAT = true → (s.alarmMatch k).after s.cal = some n →
        u.flag (R.RTC_ACFG k) F.RTC_ACFG_EN = true ∧ u.rd (R.RTC_ADUET k) = duetWord n ∧
        u.rd (R.RTC_ADUED k) = duedWord n) ∧
      (s.powered 1 = true → s.cal = s.alarmDue k → s.rtcSub = 0 → u.mor.triggers = insTrig ⟨s.now, 0x61, k,
        BitVec.ofNat 64 (256 * (s.rd (R.RTC_ADUET k)).toNat + 4294967296 * (s.rd (R.RTC_ADUED k)).toNat), false, none,
        none, none⟩ s.mor.triggers)) ∧
    exec (.alarmFlagClear p k) s₀ = .next ((((s₀.setFlag (R.RTC_ACFG k) F.RTC_ACFG_FLAG false).setFlag (R.RTC_ACFG k)
      F.RTC_ACFG_SKIPPED false).setFlag (R.RTC_ACFG k) F.RTC_ACFG_MISSED false).answer .ok) ∧
    (∃ u, exec (.xt32Fail t) s₀ = .next u ∧ u.rtc.xt32Bad = true ∧ u.flag R.CLK_REF F.CLK_REF_XT32_OK = false ∧
      u.flag R.RTC_TRUST F.RTC_TRUST_OSF = true ∧ u.fld R.RTC_TRUST F.RTC_TRUST_CODE / 2 = 1) ∧
    exec .xt32Restore s₀ = .next
      ((s₀.setRtc { s₀.rtc with xt32Bad := false }).setFlag R.CLK_REF F.CLK_REF_XT32_OK true) ∧
    (s₀.powered 1 = true → ∃ u, exec (.cellSample mv vr) s₀ = .next u ∧
      u.fld R.RTC_VBAT F.RTC_VBAT_VCELL = mv.toNat ∧ u.fld R.RTC_VBAT F.RTC_VBAT_VRTC = vr.toNat ∧
      u.flag R.RTC_TRUST F.RTC_TRUST_LBV = (decide (mv.toNat < 2300) ||
        (s₀.flag R.RTC_TRUST F.RTC_TRUST_LBV && decide (mv.toNat < 2400)))) ∧
    (let u := s₀.setFlag R.RTC_TRUST F.RTC_TRUST_ONCELL (!b)
     let past := if b then mv.toNat + 60 < vr.toNat ∧ 2750 < vr.toNat else vr.toNat < mv.toNat ∨ vr.toNat < 2600
     (s₀.flag R.RTC_TRUST F.RTC_TRUST_ONCELL = b → past → exec (.vrtcChangeover b vr mv) s₀ =
       .next (if u.powered 1 then u.raise 0x64 b.toNat (vr.toNat + 65536 * mv.toNat) else u)) ∧
     ((s₀.flag R.RTC_TRUST F.RTC_TRUST_ONCELL = !b) → exec (.vrtcChangeover b vr mv) s₀ = .next s₀)) ∧
    (s₀.powered 1 = false → exec (.cellSample mv vr) s₀ = .next s₀)

/-! ### Moraine, the event recorder -/

/-- R194, R318, R322, R325, R326: a trigger is delivered to the cores' list and, with a token and room in the FIFO, captured
as a record with the state of that moment; with no token it is suppressed and counted, with no room lost and counted; tokens
return at their rate, and the suppressed triggers are summed up in E69. Completes: eventTrigger, tokenRefill,
suppressionSummary. -/
def Clauses.EventCapture : Prop :=
  ∀ (s₀ : State) (x : Trig) (l : List Trig) (c : Fin 128) (t : Time), s₀.sound = true →
    (s₀.atTime t).islandOn 5 = true →
    let s := s₀.atTime t
    let b := s.bucket c
    (s.mor.triggers = [] → exec (.eventTrigger t) s₀ = .next s) ∧
    (s.mor.triggers = x :: l → s.mor.evq.length < 4351 → s.stepState 7 ≠ stSkipped → s.afterHoldover x = false →
      s.inFlush x = false → s.trigSev x < 4 →
      ((s.codeRate x.code = 0 ∨ isSummary x.code = true ∨ 0 < (s.bucket x.code).tokens) → s.mor.fifo.length < 63 →
        ∃ u, exec (.eventTrigger t) s₀ = .next u ∧ u.mor.triggers = l ∧ ∃ r, u.mor.fifo = s.mor.fifo ++ [r] ∧
        r.code = x.code ∧ r.source = x.source ∧ r.data = x.data ∧ r.flag = x.flag ∧ r.sev = s.trigSev x ∧
        r.cal = BitVec.ofNat 64 s.calBytes ∧ r.opsec = s.optime / 1000000 ∧ r.summary = isSummary x.code ∧
        r.pcc = s.fld R.SYS_START F.SYS_START_PCC ∧ u.fld R.REC_FIFO F.REC_FIFO_HELD = s.mor.fifo.length + 1 ∧
        u.mor.evq = s.mor.evq ++ [⟨x.code, s.trigSev x, x.source, s.tickNo, x.data⟩]) ∧
      (s.codeRate x.code = 0 → x.code ≠ 0x68 → 63 ≤ s.mor.fifo.length → ∃ u, exec (.eventTrigger t) s₀ = .next u ∧
        u.mor.triggers = l ∧ u.mor.fifo = s.mor.fifo ∧ u.rd (R.REC_LOST (s.trigSev x)) =
        s.rd (R.REC_LOST (s.trigSev x)) + 1 ∧ u.rd R.REC_LOSS = s.rd R.REC_LOSS + 1 ∧
        u.mor.pendLost = bump s.mor.pendLost (s.trigSev x)) ∧
      (s.codeRate x.code ≠ 0 → isSummary x.code = false → (s.bucket x.code).tokens = 0 → ∃ u,
        exec (.eventTrigger t) s₀ = .next u ∧ u.mor.triggers = l ∧ u.mor.fifo = s.mor.fifo ∧
        u.rd R.REC_SUPP = s.rd R.REC_SUPP + 1 ∧ u.mor.evq.length = s.mor.evq.length + 1)) ∧
    (b.tokens < s.codeBurst c → s.codeRate c ≠ 0 → 60000000000 ≤ (s.now - b.since) * s.codeRate c →
      exec (.tokenRefill c t) s₀ = .next (
        let b' := { b with tokens := b.tokens + 1, since := b.since + 60000000000 / s.codeRate c }
        s.setMor { s.mor with buckets := tabSet (dflt none) s.mor.buckets c (some b') })) ∧
    (s.codeBurst c ≤ b.tokens → exec (.tokenRefill c t) s₀ = .next s) ∧
    (b.suppressed ≠ 0 → (s.codeBurst c ≤ b.tokens ∨ b.firstAt + 60000000000 ≤ s.now) →
      exec (.suppressionSummary c t) s₀ = .next (
        (s.setMor { s.mor with buckets := tabSet (dflt none) s.mor.buckets c (some { b with suppressed := 0 }) }).raiseS 0x69
          c (data2 b.suppressed b.firstOps) false (s.codeSev c))) ∧
    (b.suppressed = 0 → exec (.suppressionSummary c t) s₀ = .next s)

/-- R321, R322, R327–R329: the head of the FIFO goes to a free slot while there is one, under the next sequence number; when
all 131,072 are taken, to that of the oldest record of the lowest severity present, if it is not above its own; otherwise it
is dropped and counted. The end of an index rebuild recounts the records. Completes: recordWrite, indexRebuildDone. -/
def Clauses.RecordPlacement : Prop :=
  ∀ (s₀ : State) (r : Rec) (l : List Rec) (k : Nat) (bad : List Nat) (w : Word) (t : Time), s₀.sound = true →
    let s := s₀.atTime t
    (s.slotFor r.sev = some k → 131072 ≤ s.mor.slots.length → ∃ q x, (k, q, x) ∈ s.records ∧ x.sev ≤ r.sev ∧
      ∀ y, y ∈ s.records → x.sev ≤ y.2.2.sev ∧ (y.2.2.sev = x.sev → q ≤ y.2.1)) ∧
    (s.slotFor r.sev = none → 131072 ≤ s.mor.slots.length ∧ ∀ y, y ∈ s.records → y.2.2.sev < 4 → r.sev < y.2.2.sev) ∧
    (s.writerOn = false → exec (.recordWrite t) s₀ = .next s) ∧
    (s.writerOn = true → s.mor.fifo = r :: l → r.sev < 4 → s.slotFor r.sev = some k → s.nextSeq + 1 < 2 ^ 48 → ∃ u,
      exec (.recordWrite t) s₀ = .next u ∧ u.mor.fifo = l ∧ u.nextSeq = s.nextSeq + 1 ∧
      u.mor.slots = tabSet (dflt none) s.mor.slots k (some (s.nextSeq, r)) ∧
      u.fld R.REC_STAT F.REC_STAT_USED = u.mor.slots.length % 262144 ∧
      (s.slot k = none → u.rd (R.REC_SEVCNT r.sev) = s.rd (R.REC_SEVCNT r.sev) + 1)) ∧
    (s.writerOn = true → s.mor.fifo = r :: l → r.sev < 4 → s.slotFor r.sev = none → ∃ u,
      exec (.recordWrite t) s₀ = .next u ∧ u.mor.fifo = l ∧ u.mor.slots = s.mor.slots ∧ u.nextSeq = s.nextSeq ∧
      u.rd (R.REC_DROP r.sev) = s.rd (R.REC_DROP r.sev) + 1 ∧ u.rd R.REC_LOSS = s.rd R.REC_LOSS + 1) ∧
    (s.islandOn 9 = true → s.flag R.REC_STAT F.REC_STAT_REBUILD = true → ∃ u,
      exec (.indexRebuildDone bad w t) s₀ = .next u ∧ u.flag R.REC_STAT F.REC_STAT_REBUILD = false ∧
      u.fld R.REC_STAT F.REC_STAT_USED = u.mor.slots.length % 262144 ∧ u.mor.fifo = s.mor.fifo ∧
      ∀ v : Fin 4, u.rd (R.REC_SEVCNT v) = BitVec.ofNat 32 (u.records.filter (fun y => y.2.2.sev == v.val)).length) ∧
    (s.flag R.REC_STAT F.REC_STAT_REBUILD = false → exec (.indexRebuildDone bad w t) s₀ = .next s)

/-- R323, R324: a write of a code configuration is BUSY with PD4 off, needs the lock, is ADDRESS for a reserved code and RANGE
for an invalid one, and its bucket keeps its tokens up to the new BURST; a set takes 0 and addresses of registers only.
Completes: codecfgWrite, ssaddrWrite. -/
def Clauses.RecorderConfiguration : Prop :=
  ∀ (s₀ : State) (p : Port) (c : Fin 128) (k : Fin 16) (i : Fin 6) (v : Word) (t : Time), s₀.sound = true →
    let s := s₀.atTime t
    let stamp (u : State) := (u.setSup { u.sup with lastLk := u.now }).answer .ok
    let bad := (fldOf F.REC_CODECFG_RATE v ≠ 0 ∧ fldOf F.REC_CODECFG_BURST v = 0) ∨ 16 < fldOf F.REC_CODECFG_SSET v
    (s.powered 4 = false → exec (.codecfgWrite p c v t) s₀ = .next (s.answer .busy) ∧
      exec (.ssaddrWrite p k i v t) s₀ = .next (s.answer .busy)) ∧
    (s.powered 4 = true → s.lockOpen = false → exec (.codecfgWrite p c v t) s₀ = .next (s.answer
        (if (s.rd (R.REC_CODECFG c) ^^^ v) &&& lkMask (R.REC_CODECFG c) = 0 then .ok else .denied)) ∧
      exec (.ssaddrWrite p k i v t) s₀ = .next (s.answer
        (if (s.rd (R.REC_SSADDR k i) ^^^ v) &&& lkMask (R.REC_SSADDR k i) = 0 then .ok else .denied))) ∧
    (s.powered 4 = true → s.lockOpen = true →
      (reservedCode c = true → exec (.codecfgWrite p c v t) s₀ = .next (s.answer .address)) ∧
      (reservedCode c = false → bad → exec (.codecfgWrite p c v t) s₀ = .next (s.answer .range)) ∧
      (reservedCode c = false → ¬ bad → ∃ u, exec (.codecfgWrite p c v t) s₀ = .next u ∧ u.status = .ok ∧
        u.codeSev c = fldOf F.REC_CODECFG_SEV v ∧ u.codeRate c = fldOf F.REC_CODECFG_RATE v ∧
        u.codeBurst c = fldOf F.REC_CODECFG_BURST v ∧ (u.bucket c).tokens = (if s.codeRate c = 0
          then fldOf F.REC_CODECFG_BURST v else min (s.bucket c).tokens (fldOf F.REC_CODECFG_BURST v))) ∧
      ((v = 0 ∨ (v.toNat % 4 = 0 ∧ standsAt v.toNat = true)) →
        exec (.ssaddrWrite p k i v t) s₀ = .next (stamp (s.wr (R.REC_SSADDR k i) v))) ∧
      (v ≠ 0 → (v.toNat % 4 ≠ 0 ∨ standsAt v.toNat = false) →
        exec (.ssaddrWrite p k i v t) s₀ = .next (s.answer .address)))

/-- R331–R333: a cursor command is BUSY during a rebuild; AT, OLDEST, NEWEST, NEXT and PREV choose among the surviving records
of severity MINSEV or higher, latch the one found with its sixteen words, or answer ADDRESS; a latched record that has left
its slot gives OVERWRITTEN and the oldest survivor, which the window's read checks. Completes: cursorAt, cursorOldest,
cursorNewest, cursorNext, cursorPrev, windowRead. -/
def Clauses.RecorderCursors : Prop :=
  ∀ (s : State) (p : Port) (m : BitVec 2) (i : Fin 16) (x : Nat × Nat × Rec) (y : Option (Nat × Nat × Rec)),
    let a := cursorNo p
    let seen := s.visible m.toNat
    let w := s.setFld (R.REC_CURCMD a) F.REC_CURCMD_MINSEV m.toNat
    let go (y : Option (Nat × Nat × Rec)) := (w.position p y).answer .ok
    let busy := (s.setFld (R.REC_CURST a) F.REC_CURST_STAT Status.busy.code).answer .busy
    let arg := (w.rd (R.REC_CURSEQ a)).toNat + 2 ^ 32 * w.fld (R.REC_CURSEQX a) F.REC_CURSEQX_SEQ
    let rebuild := s.flag R.REC_STAT F.REC_STAT_REBUILD
    (s.sound = true → y = some x →
      let u := w.position p y
      u.flag (R.REC_CURST a) F.REC_CURST_VALID = true ∧
      u.fld (R.REC_CURST a) F.REC_CURST_SLOT = x.1 % 131072 ∧ u.fld (R.REC_CURST a) F.REC_CURST_STAT = 0 ∧
      u.cursor p = ⟨some x, x.2.1⟩ ∧ u.rd (R.REC_WIN a i) = (x.2.2.words x.2.1).getD i 0) ∧
    (s.powered 8 = true → rebuild = true → exec (.cursorAt p m) s = .next busy ∧
      exec (.cursorOldest p m) s = .next busy ∧
      exec (.cursorNewest p m) s = .next busy ∧ exec (.cursorNext p m) s = .next busy ∧
      exec (.cursorPrev p m) s = .next busy) ∧
    (s.powered 8 = true → rebuild = false →
      exec (.cursorAt p m) s = .next (go (oldestOf (seen.filter (fun x => decide (arg ≤ x.2.1))))) ∧
      exec (.cursorOldest p m) s = .next (go (oldestOf seen)) ∧ exec (.cursorNewest p m) s = .next
        (go (newestOf seen)) ∧
      ((s.cursor p).latched = none → exec (.cursorNext p m) s = .next (go (oldestOf seen)) ∧
        exec (.cursorPrev p m) s = .next (go (newestOf seen))) ∧
      ((s.cursor p).latched ≠ none → s.overwritten p = false →
        exec (.cursorNext p m) s = .next (go (oldestOf (seen.filter (fun x => decide ((s.cursor p).pos < x.2.1))))) ∧
        exec (.cursorPrev p m) s = .next (go (newestOf (seen.filter (fun x => decide (x.2.1 < (s.cursor p).pos)))))) ∧
      (s.overwritten p = true → oldestOf seen = some x → exec (.cursorNext p m) s = .next
        ((w.latch p x .overwritten).answer .ok) ∧ exec (.cursorPrev p m) s = .next
        ((w.latch p x .overwritten).answer .ok))) ∧
    (s.powered 8 = false → exec (.windowRead p i) s = .next (s.answer .busy)) ∧
    (s.powered 8 = true → s.overwritten p = false → exec (.windowRead p i) s = .next
      ((s.setFld (R.REC_CURST a) F.REC_CURST_STAT 0).answer .ok)) ∧
    (s.powered 8 = true → s.overwritten p = true →
      oldestOf (s.visible (s.fld (R.REC_CURCMD a) F.REC_CURCMD_MINSEV)) = some x →
      exec (.windowRead p i) s = .next ((s.latch p x .overwritten).answer .overwritten))

/-! ### Promenade, the ring and the service port -/

/-- R348, R363, R408: a port whose link goes down is DOWN, with E71; its link up, counting resumes; three cycles without a
header make it BROKEN; a cycle without one on both ports clears JOINED; changed address contacts set ADDRCHG with E75.
Before the first header a cycle has the node's own CYCT (the model's choice, log 52). Completes: portLinkDown, portLinkUp,
portBroken, cycleWithoutHeader, addressContactChange. -/
def Clauses.RingPorts : Prop :=
  ∀ (s : State) (b : Bool) (v : BitVec 7), s.sound = true → s.portOn b.toNat = true →
    let p := b.toNat
    let cyct := if s.ring.cyct = 0 then s.fld R.RNG_CYCT F.RNG_CYCT_CYCT else s.ring.cyct
    let ends := tabGet (dflt 0) s.ring.countedAt p + cyct * 1000
    let other := 1 - b.toNat
    let miss (s : State) (p : Nat) := s.fld (R.RNG_PORT p) F.RNG_PORT_MISS
    let note (u : State) (v : Nat) : Trig := ⟨u.now, 0x71, p, BitVec.ofNat 64 (v + 256 * miss u p + 65536 *
      u.fld (R.RNG_PORT p) F.RNG_PORT_CRCERR), false, none, none, none⟩
    (∃ u, exec (.portLinkDown b) s = .next u ∧ u.portState p = 0 ∧ u.portLink p = false ∧ u.portState other =
      s.portState other ∧ u.mor.triggers =
      if s.portState p = 0 then s.mor.triggers else insTrig (note s 0) s.mor.triggers) ∧
    (s.portLink p = false → s.portStarted p = true → ∃ u, exec (.portLinkUp b) s = .next u ∧ u.portLink p = true ∧
      miss u p = 0 ∧
      u.portState p = s.portState p) ∧
    (s.portLink p = true → 3 ≤ miss s p → ∃ u, exec (.portBroken b) s = .next u ∧ u.portState p = 2 ∧
      (s.portState p ≠ 2 → u.mor.triggers = insTrig (note s 2) s.mor.triggers)) ∧
    ((s.portLink p = false ∨ miss s p < 3) → exec (.portBroken b) s = .next s) ∧
    (∃ u, exec (.cycleWithoutHeader b) s = .next u ∧ u.now = max s.now ends ∧ miss u p = min 255 (miss s p + 1) ∧
      miss u other = miss s other ∧
      (miss s other ≠ 0 → u.flag R.RNG_STAT F.RNG_STAT_JOINED = false ∧ u.ring.filled = false) ∧
      (miss s other = 0 → u.flag R.RNG_STAT F.RNG_STAT_JOINED = s.flag R.RNG_STAT F.RNG_STAT_JOINED) ∧
      tabGet (dflt 0) u.ring.countedAt p = ends) ∧
    (s.sup.running = true → v.toNat ≠ s.sup.contactsNow → ∃ u, exec (.addressContactChange v) s = .next u ∧
      u.flag R.RNG_STAT F.RNG_STAT_ADDRCHG = true ∧ u.sup.contactsNow = v.toNat ∧ u.ringAddr = s.ringAddr ∧
      u.mor.triggers = insTrig ⟨s.now, 0x75, 1, BitVec.ofNat 64 (s.sup.addr + 256 *
        (if 64 < v.toNat then 0 else v.toNat)), false, none, none, none⟩ s.mor.triggers) ∧
    (v.toNat = s.sup.contactsNow → exec (.addressContactChange v) s = .next s)

/-- R341, R343, R344, R348, R349: a header that counts shows its fields, makes its port UP, compares EPOCH and digest with
the executing image, and at the first of a cycle latches the slots; one with a bad HCRC, another version or another
EtherType does nothing. Completes: ringHeaderReceived. -/
def Clauses.RingHeaders : Prop :=
  ∀ (s₀ : State) (b : Bool) (e : BitVec 16) (l : List Byte) (t : Time), s₀.sound = true →
    (s₀.atTime t).portRuns b.toNat = true → s₀.sup.running = true →
    let s := s₀.atTime t
    let p := b.toNat
    (s.headerCounts e l = false → exec (.ringHeaderReceived b e l t) s₀ = .next s) ∧
    (s.headerCounts e l = true → ∃ u, exec (.ringHeaderReceived b e l t) s₀ = .next u ∧ u.portState p = 1 ∧
      u.fld (R.RNG_PORT p) F.RNG_PORT_MISS = 0 ∧ u.portLink p = true ∧ u.rd R.RNG_CYCLE = hdrCycle l ∧
      u.rd R.RNG_HDIG = hdrDigest l ∧ u.fld R.RNG_STAT F.RNG_STAT_HEPOCH = hdrEpoch l ∧
      u.rd (R.RNG_HTIME 0) = BitVec.ofNat 32 (hdrTime l) ∧
      u.rd (R.RNG_HTIME 1) = BitVec.ofNat 32 (hdrTime l / 4294967296) ∧ u.ring.lastCycle = some (hdrCycle l) ∧
      (s.noImage = false → (u.flag R.RNG_STAT F.RNG_STAT_EPOCHOK = decide (hdrEpoch l = s.ownEpoch)) ∧
        (u.flag R.RNG_STAT F.RNG_STAT_DIGOK = decide (hdrDigest l = s.ownComDig)) ∧
        (hdrEpoch l = s.ownEpoch → u.flag R.RNG_STAT F.RNG_STAT_PULL = false)) ∧
      (s.ring.lastCycle = some (hdrCycle l) → u.ring.slot = s.ring.slot ∧ u.ring.latched = true) ∧
      (s.ring.lastCycle ≠ some (hdrCycle l) → u.ring.slotPrev = s.ring.slot ∧
        u.ring.latched = (hdrKind l == 1) ∧ (s.hasSlot = true → u.ring.slot = s.assembleSlots (hdrCycle l)) ∧
        (s.hasSlot = false → u.ring.slot = [])))

/-- R340, R347, R354: a frame of another EtherType, tagged or too short is not forwarded; one with a bad header, at an
unconfigured node, or for other nodes passes unchanged, with the FCS it came with and a bad one counted; a node that is named
writes its oldest response, or an ACK, of 512 bytes. On RC8 the other port is silent while it receives no signal (R12).
Completes: frameForward, mbxResponse. -/
def Clauses.RingFrames : Prop :=
  ∀ (s₀ : State) (b tag fcs : Bool) (e : BitVec 16) (hdr area : List Byte) (n : Byte) (r : Resp) (l : List Resp)
    (t : Time), s₀.sound = true → (s₀.atTime t).portRuns b.toNat = true → s₀.sup.running = true →
    let s := s₀.atTime t
    let p := b.toNat
    let m := parseMsg area
    let goes := e.toNat = s.fld R.RNG_CFG F.RNG_CFG_ETYPE ∧ tag = false ∧ 46 ≤ hdr.length + area.length
    (¬ goes → ∃ u, exec (.frameForward b e tag fcs hdr area t) s₀ = .next u ∧ u.ring.sentFrame = false) ∧
    (goes → (hdrValid hdr = false ∨ s.ringAddr = 0 ∨
        (hdrKind hdr = 1 ∧ m.node.toNat ≠ s.ringAddr ∧ (area.getD 515 0).toNat ≠ s.ringAddr) ∨
        (hdrKind hdr = 2 ∧ (s.hasSlot = false ∨ s.flag R.RNG_STAT F.RNG_STAT_LAYOUT = true)) ∨
        (hdrKind hdr ≠ 1 ∧ hdrKind hdr ≠ 2)) → ∃ u,
      exec (.frameForward b e tag fcs hdr area t) s₀ = .next u ∧
      (s.portSends (1 - p) = true → u.ring.sentFrame = true ∧ u.ring.outArea = area ∧ u.ring.outFcsOk = fcs) ∧
      (s.portSends (1 - p) = false → u.ring.sentFrame = false) ∧ u.fld (R.RNG_PORT p) F.RNG_PORT_CRCERR =
        (s.fld (R.RNG_PORT p) F.RNG_PORT_CRCERR + (!fcs).toNat) % 65536) ∧
    (n.toNat ≠ s.ringAddr → exec (.mbxResponse n t) s₀ = .next s) ∧
    (n.toNat = s.ringAddr → s.ringAddr ≠ 0 → s.ring.resps = r :: l → (r.taken = none ∨ r.taken ≠ s.ring.lastCycle) →
      r.payload.length ≤ 496 → ∃ u, exec (.mbxResponse n t) s₀ = .next u ∧ u.ring.resps = l ∧ u.regs = s.regs ∧
      ∃ o, u.ring.respOut = some o ∧
      o.length = 512 ∧ o.take 4 = leBytes 1 r.type.toNat ++ leBytes 1 2 ++ leBytes 1 r.stat.code ++ leBytes 1 s.ringAddr ∧
      (o.drop 16).take r.payload.length = r.payload) ∧
    (n.toNat = s.ringAddr → s.ringAddr ≠ 0 → s.ring.resps = [] → ∃ u, exec (.mbxResponse n t) s₀ = .next u ∧
      u.ring.resps = [] ∧ ∃ o, u.ring.respOut = some o ∧ o.length = 512 ∧
        o.take 3 = leBytes 1 7 ++ leBytes 1 2 ++ leBytes 1 0)

/-- R361, R366: the bus attached, the device configured, a session opened and closed with E71 at a change; a frame outside a
session is not read, one with a bad CRC or cut short is counted, one that comes before the last response has gone is BUSY, and
any other runs as the request it holds. Completes: vbusAttach,
deviceConfigured, svcSessionOpen, svcSessionClose, svcFrameTimeout, svcFrame. -/
def Obligations.ServicePort : Prop :=
  ∀ (s₀ : State) (m : Msg) (crc : Word) (t : Time), s₀.svcOn = true → s₀.sup.running = true →
    let s := s₀.atTime t
    let bad (s : State) := s.addFld R.SVC_STAT F.SVC_STAT_BADFR 1
    let on := s.flag R.SVC_STAT F.SVC_STAT_SESSION
    let good := crc32c (wireBytes m)
    let code (k : Nat) := m.type.toNat = 4 ∧ m.arg1.toNat = k
    exec .vbusAttach s₀ = .next (s₀.setFlag R.SVC_STAT F.SVC_STAT_ATTACHED true) ∧
    (s₀.flag R.SVC_STAT F.SVC_STAT_ATTACHED = true → exec .deviceConfigured s₀ =
      .next (s₀.setFlag R.SVC_STAT F.SVC_STAT_CONFIG true)) ∧
    (s₀.flag R.SVC_STAT F.SVC_STAT_ATTACHED = false → exec .deviceConfigured s₀ = .next s₀) ∧
    (on = false → exec .svcSessionOpen s₀ =
        .next ((s₀.setFlag R.SVC_STAT F.SVC_STAT_SESSION true).raise 0x71 2 1) ∧
      exec .svcSessionClose s₀ = .next s₀ ∧ exec .svcFrameTimeout s₀ = .next s₀ ∧
      exec (.svcFrame m crc t) s₀ = .next s) ∧
    (on = true → exec .svcSessionOpen s₀ = .next s₀ ∧
      exec .svcSessionClose s₀ = .next ((s₀.setFlag R.SVC_STAT F.SVC_STAT_SESSION false).raise 0x71 2 0) ∧
      exec .svcFrameTimeout s₀ = .next (bad s₀) ∧ (crc ≠ good → exec (.svcFrame m crc t) s₀ = .next (bad s)) ∧
      (s.ring.svcBusy = true → exec (.svcFrame m good t) s₀ = .next
        ((s.setRing { s.ring with svcResp := some ⟨m.type, .busy, m.seq, none, [], none, false⟩ }).answer .busy))) ∧
    (m.type = 1 → exec (.svcFrame m good t) s₀ = exec (.mbxRead .svc m t) s₀) ∧
    (m.type = 2 → exec (.svcFrame m good t) s₀ = exec (.mbxWrite .svc m t) s₀) ∧
    (m.type = 3 → exec (.svcFrame m good t) s₀ = exec (.readCh .svc m t) s₀) ∧
    (code 1 → exec (.svcFrame m good t) s₀ = exec (.hostevt .svc m t) s₀) ∧
    (code 2 → exec (.svcFrame m good t) s₀ = exec (.imageBegin .svc m t) s₀) ∧
    (code 3 → exec (.svcFrame m good t) s₀ = exec (.imageEnd .svc m t) s₀) ∧
    (code 4 → exec (.svcFrame m good t) s₀ = exec (.imageSwitch .svc m t) s₀) ∧
    (code 5 → exec (.svcFrame m good t) s₀ = exec (.restart .svc m t) s₀) ∧
    (code 6 → exec (.svcFrame m good t) s₀ = exec (.digestNow .svc m t) s₀) ∧
    (code 7 → exec (.svcFrame m good t) s₀ = exec (.countclr .svc m t) s₀) ∧
    (m.type = 5 → exec (.svcFrame m good t) s₀ = exec (.imageBlock .svc m t) s₀) ∧
    (m.type = 7 → exec (.svcFrame m good t) s₀ = exec (.ack .svc m t) s₀) ∧
    (m.type = 6 → m.arg1 = 1 → exec (.svcFrame m good t) s₀ = exec (.ranteRead .svc m t) s₀) ∧
    (m.type = 6 → m.arg1 = 2 → exec (.svcFrame m good t) s₀ = exec (.ranteWrite .svc m t) s₀)

/-! ### Requests of the mailbox and the service port -/

/-- R353, R354, R360, R361: a request runs when its turn has come; one that is another row's, that waits behind another or
is for another node does nothing by itself, and one that fails a check of R354 is answered with that check's status. -/
def Clauses.RequestChecks : Prop :=
  ∀ (s₀ : State) (p : Port) (m : Msg) (i : Instr) (fits : Bool) (r : Status) (t : Time),
    let s := s₀.atTime t
    let w := s.onTurn p m
    let code (k : Nat) := decide (m.type = 4) && decide (m.arg1.toNat = k)
    let rante (k : Nat) := decide (m.type = 6) && decide (m.arg1.toNat = k)
    (i, fits) ∈ [(Instr.mbxRead p m t, decide (m.type = 1)), (.mbxWrite p m t, decide (m.type = 2)),
      (.readCh p m t, decide (m.type = 3)), (.ack p m t, decide (m.type = 7)), (.hostevt p m t, code 1),
      (.imageBegin p m t, code 2), (.imageEnd p m t, code 3), (.imageSwitch p m t, code 4), (.restart p m t, code 5),
      (.digestNow p m t, code 6), (.countclr p m t, code 7), (.imageBlock p m t, decide (m.type = 5)),
      (.ranteRead p m t, rante 1), (.ranteWrite p m t, rante 2)] →
    (fits = false → exec i s₀ = .next s) ∧
    (p = .host → s.ring.taken.head? ≠ some m → m.node.toNat ≠ s.ringAddr → exec i s₀ = .next s) ∧
    (p = .host → (s.powered 9 = false ∨ s.sup.running = false ∨ s.ringAddr = 0) → exec i s₀ = .next s) ∧
    (fits = true → s.turnOf p m = true → w.checkMsg m = some r → exec i s₀ = .next (w.respond p m ⟨r, none, []⟩)) ∧
    ((m.type = 0 ∨ 7 < m.type.toNat) → w.checkMsg m = some .range) ∧
    (1 ≤ m.type.toNat → m.type.toNat ≤ 7 → 496 < m.len.toNat → w.checkMsg m = some .length) ∧
    (1 ≤ m.type.toNat → m.type.toNat ≤ 7 → m.len.toNat = 0 → m.flags.getLsbD 0 = true → m.epoch.toNat ≠ w.ownEpoch →
      w.checkMsg m = some .epoch) ∧
    (m.type = 2 → m.len.toNat = 0 → m.flags.getLsbD 0 = false → w.noImage = true → w.checkMsg m = some .state)

/-- R354–R356, R358, R364, R381: what a request that passes the checks of R354 answers and leaves: READ, READ_CH, WRITE, ACK,
HOSTEVT, RESTART, DIGEST_NOW and COUNTCLR. Completes: mbxRead, mbxWrite, readCh, ack, hostevt, restart, digestNow,
countclr. -/
def Clauses.RequestAnswers : Prop :=
  ∀ (s₀ : State) (p : Port) (m : Msg) (v : Word) (t : Time),
    let s := s₀.atTime t
    let w := s.onTurn p m
    let a := m.arg0.toNat
    let n := m.arg1.toNat
    let plain (a : Nat) := inWindowOf .host a = false ∧ inWindowOf .svc a = false ∧ (a < R.RTC_SEC ∨ R.RTC_CENT < a)
    s.turnOf p m = true → w.checkMsg m = none →
    (m.type = 1 → n = 0 → exec (.mbxRead p m t) s₀ = .next (w.respond p m ⟨.ok, none, []⟩)) ∧
    (m.type = 1 → 124 < n → exec (.mbxRead p m t) s₀ = .next (w.respond p m ⟨.length, none, []⟩)) ∧
    (m.type = 1 → n = 1 → (a % 4 ≠ 0 ∨ standsAt a = false) → exec (.mbxRead p m t) s₀ = .next
      (w.respond p m ⟨.address, none, []⟩)) ∧
    (m.type = 1 → n = 1 → a % 4 = 0 → standsAt a = true → w.powered (regDomain a) = false →
      exec (.mbxRead p m t) s₀ = .next (w.respond p m ⟨.busy, none, []⟩)) ∧
    (m.type = 1 → n = 1 → a % 4 = 0 → standsAt a = true → w.powered (regDomain a) = true → plain a →
      exec (.mbxRead p m t) s₀ = .next (
        let u := w.measure a
        u.respond p m ⟨.ok, none, leBytes 4 (u.readReg a).toNat⟩)) ∧
    (m.type = 2 → (msgBody m).length % 4 ≠ 0 → exec (.mbxWrite p m t) s₀ = .next (w.respond p m ⟨.range, none, []⟩)) ∧
    (m.type = 2 → msgBody m = leBytes 4 v.toNat → exec (.mbxWrite p m t) s₀ = .next (
      let u := w.hostWrite p a v
      u.respond p m ⟨u.status, if u.status = .ok then none else some 0, []⟩)) ∧
    (m.type = 3 → n = 0 → exec (.readCh p m t) s₀ = .next (w.respond p m ⟨.ok, some (w.view R.SEQ_TIME), []⟩)) ∧
    (m.type = 3 → 124 < n → exec (.readCh p m t) s₀ = .next (w.respond p m ⟨.length, none, []⟩)) ∧
    (m.type = 3 → 0 < n → n ≤ 124 → 256 < a + n → exec (.readCh p m t) s₀ = .next
      (w.respond p m ⟨.address, none, []⟩)) ∧
    (m.type = 3 → 0 < n → n ≤ 124 → a + n ≤ 256 → w.powered 4 = true → exec (.readCh p m t) s₀ = .next (w.respond p m
      ⟨.ok, some (w.view R.SEQ_TIME), ((List.range n).map fun i => leBytes 4 (w.sample (a + i)).toNat).flatten⟩)) ∧
    (m.type = 7 → exec (.ack p m t) s₀ = .next (w.respond p m ⟨.ok, none, w.statusReport⟩)) ∧
    (m.type = 4 → n = 1 → msgBody m = [] → exec (.hostevt p m t) s₀ = .next (w.respond p m ⟨.ok, none, []⟩)) ∧
    (m.type = 4 → n = 1 → msgBody m ≠ [] → exec (.hostevt p m t) s₀ =
      .next ((w.raise 0x70 (a % 65536) (ofLeBytes (msgBody m))).respond p m ⟨.ok, none, []⟩)) ∧
    (m.type = 4 → n = 5 → w.lockOpen = false → exec (.restart p m t) s₀ = .next (w.respond p m ⟨.denied, none, []⟩)) ∧
    (m.type = 4 → n = 5 → w.lockOpen = true → w.sup.restartReq = none → exec (.restart p m t) s₀ =
      .next ((w.setSup { w.sup with restartReq := some (1, w.now + 100000000) }).respond p m ⟨.ok, none, []⟩)) ∧
    (m.type = 4 → n = 6 → (w.powered 8 = false ∨ w.img.passHost = true) → exec (.digestNow p m t) s₀ = .next
      (w.respond p m ⟨.busy, none, []⟩)) ∧
    (m.type = 4 → n = 6 → w.powered 8 = true → w.img.passHost = false → w.noImage = false →
      exec (.digestNow p m t) s₀ = .next (
        let u := w.setFlag R.DIG_STAT F.DIG_STAT_RUN true
        let y := u.setImg { u.img with passHost := true }
        y.respond p m ⟨.ok, none, []⟩)) ∧
    (m.type = 4 → n = 7 → exec (.countclr p m t) s₀ = .next (
      let z (u : State) (i : Nat) := (u.setFld (R.RNG_PORT i) F.RNG_PORT_MISS 0).setFld (R.RNG_PORT i) F.RNG_PORT_CRCERR 0
      let y := (z (z w 0) 1).wr R.RNG_MBX 0
      y.respond p m ⟨.ok, none, []⟩))

/-- R357–R359: a transfer begins with its length, DENIED while the lock is closed and an image is valid; its blocks are
written and their units counted; IMAGE_END is STATE with the first missing offset, or begins the check; a target that passes
is valid, with E77; IMAGE_SWITCH of a checked image selects it for the restart it orders. Completes:
imageBegin, imageBlock, imageEnd, imageSwitch, imageCheckDone. -/
def Clauses.ImageTransfer : Prop :=
  ∀ (s₀ : State) (p : Port) (m : Msg) (r : Status) (o : Nat) (t : Time),
    let s := s₀.atTime t
    let w := s.onTurn p m
    let a := m.arg0.toNat
    let n := m.arg1.toNat
    let b := msgBody m
    let mine := w.imageBusy p = false
    (s.turnOf p m = true → w.checkMsg m = none →
      (w.imageBusy p = true → (m.type = 4 → n = 2 → exec (.imageBegin p m t) s₀ = .next
        (w.respond p m ⟨.busy, none, []⟩)) ∧
        (m.type = 5 → exec (.imageBlock p m t) s₀ = .next (w.respond p m ⟨.busy, none, []⟩)) ∧
        (m.type = 4 → n = 3 → exec (.imageEnd p m t) s₀ = .next (w.respond p m ⟨.busy, none, []⟩)) ∧
        (m.type = 4 → n = 4 → exec (.imageSwitch p m t) s₀ = .next (w.respond p m ⟨.busy, none, []⟩))) ∧
      (mine → m.type = 4 → n = 2 → 2097152 < a → exec (.imageBegin p m t) s₀ = .next
        (w.respond p m ⟨.length, none, []⟩)) ∧
      (mine → m.type = 4 → n = 2 → 0 < a → a < 4096 → exec (.imageBegin p m t) s₀ = .next
        (w.respond p m ⟨.range, none, []⟩)) ∧
      (mine → m.type = 4 → n = 2 → 4096 ≤ a → a ≤ 2097152 → a % 32 = 0 → w.lockOpen = false → w.anyValid = true →
        exec (.imageBegin p m t) s₀ = .next (w.respond p m ⟨.denied, none, []⟩)) ∧
      (mine → m.type = 4 → n = 2 → 4096 ≤ a → a ≤ 2097152 → a % 32 = 0 → (w.lockOpen = true ∨ w.anyValid = false) →
        w.sound = true → ∃ u : State, exec (.imageBegin p m t) s₀ = .next (u.respond p m ⟨.ok, none, []⟩) ∧
          u.imgState = 1 ∧ u.imgLen = a ∧
        u.img.units = [] ∧ u.target.valid = false ∧ u.fld R.RNG_IMG F.RNG_IMG_UNITS = 0 ∧
        u.flag R.RNG_IMG F.RNG_IMG_TGT = w.targetB ∧ u.fld R.RNG_IMG F.RNG_IMG_SRC = portNum p) ∧
      (mine → m.type = 5 → w.imgState ≠ 1 → exec (.imageBlock p m t) s₀ = .next (w.respond p m ⟨.state, none, []⟩)) ∧
      (mine → m.type = 5 → w.imgState = 1 → w.imgLen < a + b.length → exec (.imageBlock p m t) s₀ = .next
        (w.respond p m ⟨.length, none, []⟩)) ∧
      (mine → m.type = 5 → w.imgState = 1 → a + b.length ≤ w.imgLen → (a % 32 ≠ 0 ∨ b.length % 32 ≠ 0) →
        exec (.imageBlock p m t) s₀ = .next (w.respond p m ⟨.range, none, []⟩)) ∧
      (mine → m.type = 5 → w.imgState = 1 → a + b.length ≤ w.imgLen → a % 32 = 0 → b.length % 32 = 0 → w.sound = true →
        ∃ u : State, exec (.imageBlock p m t) s₀ = .next (u.respond p m ⟨.ok, none, []⟩) ∧
          u.target.bytes = memPut 0 w.target.bytes a b ∧
        (∀ k, k < b.length / 32 → u.unitHeld (a / 32 + k) = true)) ∧
      (mine → m.type = 4 → n = 3 → w.imgState ≠ 0 → w.firstMissing = some o → w.sound = true → ∃ u : State,
        exec (.imageEnd p m t) s₀ = .next (u.respond p m ⟨.state, some (BitVec.ofNat 32 o), []⟩) ∧
        u.imgState = w.imgState ∧ u.fld R.RNG_IMG F.RNG_IMG_RES = 5 ∧ u.img = w.img) ∧
      (mine → m.type = 4 → n = 3 → w.imgState ≠ 0 → w.firstMissing = none → w.sound = true → ∃ u : State,
        exec (.imageEnd p m t) s₀ = .next u ∧ u.imgState = 2 ∧ u.img.ending = some (p, m)) ∧
      (mine → m.type = 4 → n = 4 → w.imgState ≠ 3 → exec (.imageSwitch p m t) s₀ = .next
        (w.respond p m ⟨.state, none, []⟩)) ∧
      (mine → m.type = 4 → n = 4 → w.imgState = 3 → w.sound = true → w.sup.restartReq = none → ∃ u : State,
        exec (.imageSwitch p m t) s₀ = .next (u.respond p m ⟨.ok, none, []⟩) ∧
          u.sup.restartReq = some (1, w.now + 100000000) ∧
        u.fld R.SYS_START F.SYS_START_SELB = w.fld R.RNG_IMG F.RNG_IMG_TGT ∧
        (∀ k, k ∈ [2, 9, 10, 11, 12, 13] → u.skipFlag k = false ∧ u.altCount k = 0))) ∧
    (s₀.sound = true → s.islandOn 9 = true → s.imgState = 2 → s.img.ending = some (p, m) →
      let found := imageFault s.img.key s.target.bytes (some s.imgLen) s.sup.addr
      ∃ u : State, exec (.imageCheckDone t) s₀ = .next (u.respond p m ⟨(found.getD .ok), none, []⟩) ∧
        u.img.ending = none ∧
        (found = none → u.imgState = 3 ∧ u.target.valid = true) ∧
        (found = some r → u.imgState = 1 ∧ u.target.valid = s.target.valid ∧ u.fld R.RNG_IMG F.RNG_IMG_RES = r.code)) ∧
    (s.imgState ≠ 2 → exec (.imageCheckDone t) s₀ = .next s)

/-- R351, R359, R364, R365: a digest pass shows the digests computed and stored, COMOK and IMGOK with DIGERR and an E74 for
each that differs; the ship key is taken only from the service port, with the lock open and the proof right, and the staging
words clear either way. Completes: digestPass, keyProvision. -/
def Clauses.DigestsAndKey : Prop :=
  ∀ (s₀ : State) (p : Port) (t : Time), s₀.sound = true → s₀.islandOn 9 = true →
    let s := s₀.atTime t
    let m := s.execBytes
    (s.noImage = true → exec (.digestPass t) s₀ = .next s) ∧
    (s.noImage = false → ∃ u : State, exec (.digestPass t) s₀ = .next u ∧ u.rd R.DIG_COMMON = computedCom m ∧
      u.rd R.DIG_IMAGE = computedImg m ∧ u.rd R.DIG_STCOM = imgComDig m ∧ u.rd R.DIG_STIMG = imgDig m ∧
      u.flag R.DIG_STAT F.DIG_STAT_COMOK = decide (computedCom m = imgComDig m) ∧
      u.flag R.DIG_STAT F.DIG_STAT_IMGOK = decide (computedImg m = imgDig m) ∧
      u.flag R.DIG_STAT F.DIG_STAT_RUN = false ∧ u.img.passHost = false ∧
      u.img.digErr = (decide (computedCom m ≠ imgComDig m) || decide (computedImg m ≠ imgDig m)) ∧
      (computedCom m = imgComDig m → computedImg m = imgDig m → u.mor.triggers = s.mor.triggers)) ∧
    exec (.keyProvision .host) s₀ = .next (s₀.answer .denied) ∧
    (p = .svc → s₀.lockOpen = true → (s₀.img.key = none ∨ ∃ k, s₀.img.key = some k ∧
        keyBytes s₀.stagedProof = hmac (keyBytes k) (keyBytes s₀.stagedKey)) →
          ∃ u : State, exec (.keyProvision p) s₀ = .next u ∧
      u.status = .ok ∧ u.img.key = some s₀.stagedKey ∧ u.flag R.SYS_KEYST F.SYS_KEYST_KEYSET = true ∧
      u.flag R.SYS_KEYST F.SYS_KEYST_LASTFAIL = false ∧ ∀ i, i < 8 → u.rd (R.SYS_KEY i) = 0 ∧
        u.rd (R.SYS_KEYPRF i) = 0) ∧
    (p = .svc → (s₀.lockOpen = false ∨ ∃ k, s₀.img.key = some k ∧
        keyBytes s₀.stagedProof ≠ hmac (keyBytes k) (keyBytes s₀.stagedKey)) →
          ∃ u : State, exec (.keyProvision p) s₀ = .next u ∧
      u.status = .denied ∧ u.img.key = s₀.img.key ∧ u.flag R.SYS_KEYST F.SYS_KEYST_LASTFAIL = true ∧
      ∀ i, i < 8 → u.rd (R.SYS_KEY i) = 0 ∧ u.rd (R.SYS_KEYPRF i) = 0)

/-- R5–R7, R34, R218, R418: a write where no register stands is ADDRESS, to one with no writable field DENIED, in a domain
that is off BUSY; with the lock closed a locked field stays; an edit of the analog configuration that leaves a channel
invalid is RANGE; a derived-channel write takes channels 132–255 and tag 7 and goes to the live table and to Snowline.
Completes: registerWrite, afeConfigEdit, derivedChannelWrite. -/
def Obligations.RegisterWrites : Prop :=
  ∀ (s₀ : State) (p : Port) (a : Nat) (v : Word) (c : Fin 128) (n : Fin 48) (ch : BitVec 16)
    (who : Option Nat) (t : Time),
    let s := s₀.atTime t
    let merged := (s.rd a &&& ~~~(lkMask a)) ||| (v &&& lkMask a)
    let u := s.wr a merged
    let closed := s.answer (if (s.rd a ^^^ v) &&& lkMask a = 0 then .ok else .denied)
    ((a % 4 ≠ 0 ∨ standsAt a = false) → exec (.registerWrite p a v t) s₀ = .next (s.answer .address)) ∧
    (a % 4 = 0 → standsAt a = true → (writable a = 0 ∨ spareReg a = true) →
      exec (.registerWrite p a v t) s₀ = .next (s.answer .denied)) ∧
    (a % 4 = 0 → standsAt a = true → writable a ≠ 0 → spareReg a = false → s.powered (regDomain a) = false →
      exec (.registerWrite p a v t) s₀ = .next (s.answer .busy)) ∧
    (s.powered 1 = true → fldOf F.SYS_LOCK_CMD v = 1 → exec (.registerWrite p R.SYS_LOCK v t) s₀ =
      exec (.lockOpen p (BitVec.ofNat 16 (fldOf F.SYS_LOCK_CODE v)) t) s₀) ∧
    (s.powered 1 = true → exec (.registerWrite p R.PWR_CYCLE v t) s₀ =
      exec (.pwrCycleRequest p (BitVec.ofNat 4 (fldOf F.PWR_CYCLE_DOM v)) t) s₀) ∧
    (exec (.registerWrite p (R.REC_CODECFG c) v t) s₀ = exec (.codecfgWrite p c v t) s₀) ∧
    (s.powered 5 = true → exec (.registerWrite p (R.DIO_DIWBL 0) v t) s₀ =
      .next ((s.wr (R.DIO_DIWBL 0) (s.rd (R.DIO_DIWBL 0) &&& ~~~v)).answer .ok)) ∧
    (s.dioOn = true → exec (.registerWrite p (R.DIO_DOCFG n) v t) s₀ =
      exec (.dioConfigEdit p (R.DIO_DOCFG n) v t) s₀) ∧
    (afeCfgChan a = none → exec (.afeConfigEdit p a v t) s₀ = .next (s.answer .denied)) ∧
    (afeCfgChan a = some who → s.powered 4 = false → exec (.afeConfigEdit p a v t) s₀ = .next (s.answer .busy)) ∧
    (afeCfgChan a = some who → s.powered 4 = true → s.lockOpen = false →
      exec (.afeConfigEdit p a v t) s₀ = .next closed) ∧
    (afeCfgChan a = some who → s.powered 4 = true → s.lockOpen = true →
      (∀ j, who = some j → u.editValid s j = true) → exec (.afeConfigEdit p a v t) s₀ = .next (
        let w := u.setFlag R.AFE_STATE F.AFE_STATE_EDITED true
        (w.setSup { w.sup with lastLk := w.now }).answer .ok)) ∧
    (∀ j, who = some j → afeCfgChan a = some who → s.powered 4 = true → s.lockOpen = true → u.editValid s j = false →
      exec (.afeConfigEdit p a v t) s₀ = .next (s.answer .range)) ∧
    ((ch.toNat < 132 ∨ 256 ≤ ch.toNat) → exec (.derivedChannelWrite ch v t) s₀ = .next (s.answer .address)) ∧
    (132 ≤ ch.toNat → ch.toNat < 256 → (swTag v ≠ 7 ∨ bitsOf v.toNat 24 3 ≠ 0) →
      exec (.derivedChannelWrite ch v t) s₀ = .next (s.answer .range)) ∧
    (132 ≤ ch.toNat → ch.toNat < 256 → swTag v = 7 → bitsOf v.toNat 24 3 = 0 → ∃ u : State,
      exec (.derivedChannelWrite ch v t) s₀ = .next u ∧ u.status = .ok ∧ u.gate.applied = true ∧
      (s₀.sound = true → u.sample ch.toNat = v) ∧ ∃ d, u.lim.inbox = s.lim.inbox ++ [⟨ch.toNat, v, false, d, 9⟩])

/-! ### The Rante window -/

/-- R391–R393, R397–R399: an enable needs PD4, the lock, the four window banks of the limit table and room in the channel
index, and begins with every limit register 0xFFF; a disable needs the lock, releases what was claimed and drops an open pair,
whose byte is lost after 10 ms. Completes: ranteEnable, ranteDisable, rantePairTimeout. -/
def Clauses.RanteEnable : Prop :=
  ∀ (s₀ : State) (p : Port) (o : Nat) (b : Byte) (t₁ t : Time),
    let s := s₀.atTime t
    let stamp (u : State) := u.setSup { u.sup with lastLk := u.now }
    let claim := s.claimAll [77, 78, 79, 80] 0x22
    let crowded := (List.range 128).any fun n => decide (s.rlo n < s.rhi n) && decide (12 < s.fld (R.LIM_CHIDX n)
      F.LIM_CHIDX_COUNT)
    let drop (u : State) := (u.addFld R.RWN_ST F.RWN_ST_DISC 1)
    (s.powered 4 = false → exec (.ranteEnable p t) s₀ = .next (s.answer .busy) ∧
      exec (.ranteDisable p t) s₀ = .next (s.answer .busy) ∧ exec (.rantePairTimeout t) s₀ = .next s) ∧
    (s.powered 4 = true → s.windowOn = true → exec (.ranteEnable p t) s₀ = .next (s.answer .ok) ∧
      (s.lockOpen = false → exec (.ranteDisable p t) s₀ = .next (s.answer .denied)) ∧
      (s.lockOpen = true → s.rwn.latch = none → exec (.ranteDisable p t) s₀ = .next (
        let u := (((stamp s).clearWindow.releaseClaims 0x22).setFld R.RWN_ST F.RWN_ST_PAGE 0).setFlag R.RWN_CTL
          F.RWN_CTL_EN false
        ((u.setRwn { u.rwn with mEn := false, mPage := 0 }).raise 0x78 1 0).answer .ok))) ∧
    (s.powered 4 = true → s.windowOn = false → exec (.ranteDisable p t) s₀ = .next (s.answer .ok) ∧
      (s.lockOpen = false → exec (.ranteEnable p t) s₀ = .next (s.answer .denied)) ∧
      (s.lockOpen = true → claim.1 = false → exec (.ranteEnable p t) s₀ = .next
        ((claim.2.raise 0x78 2 4).answer .claim)) ∧
      (s.lockOpen = true → claim.1 = true → crowded = true → exec (.ranteEnable p t) s₀ = .next
        ((s.raise 0x78 2 5).answer .state)) ∧
      (s.lockOpen = true → claim.1 = true → crowded = false → exec (.ranteEnable p t) s₀ = .next (
        let u := ((stamp claim.2).setFlag R.RWN_CTL F.RWN_CTL_EN true).clearWindow
        ((u.setRwn { u.rwn with mEn := true }).raise 0x78 0 0).answer .ok))) ∧
    (s.islandOn 5 = true → s.rwn.latch = some (o, b, t₁) →
      (t₁ + 10000000 ≤ s.now → exec (.rantePairTimeout t) s₀ = .next (
        let u := drop (s.putPair none)
        (u.setRwn { u.rwn with discard := true }).raise 0x79 o 0)) ∧
      (s.now < t₁ + 10000000 → exec (.rantePairTimeout t) s₀ = .next s))

/-- R392–R396, R398: READ is STATE while the window is off, LENGTH beyond 248 registers and ADDRESS outside the map; a VALUE
register gives the scaled code with its marks and clears NEW; a high byte is held, the low byte of the same register writes
both, and a byte that fits no open pair or no register is ignored and counted. Completes: ranteRead, ranteWrite. -/
def Clauses.RanteTransfers : Prop :=
  ∀ (s₀ : State) (p : Port) (m : Msg) (k : Nat) (x y b z hi : Byte) (t₁ t : Time),
    let s := s₀.atTime t
    let w := s.onTurn p m
    let o := bitsOf m.arg0.toNat 0 12
    let n := bitsOf m.arg0.toNat 16 8
    let at_ := x.toNat + 256 * y.toNat
    let page := w.fld R.RWN_ST F.RWN_ST_PAGE
    let c := 32 * page + k
    s.turnOf p m = true → w.checkMsg m = none → m.type = 6 →
    (m.arg1 = 1 → w.windowOn = false → exec (.ranteRead p m t) s₀ = .next (w.respond p m ⟨.state, none, []⟩)) ∧
    (m.arg1 = 1 → w.windowOn = true →
      (248 < n → exec (.ranteRead p m t) s₀ = .next (w.respond p m ⟨.length, none, []⟩)) ∧
      (n ≤ 248 → (o % 2 = 1 ∨ 4096 < o + 2 * n) → exec (.ranteRead p m t) s₀ = .next
        (w.respond p m ⟨.address, none, []⟩)) ∧
      (n = 0 → o % 2 = 0 → exec (.ranteRead p m t) s₀ = .next (w.respond p m ⟨.ok, none, []⟩)) ∧
      (n = 1 → k < 32 → o = 64 + 2 * k → exec (.ranteRead p m t) s₀ = .next
        ((w.setRwn { w.rwn with news := w.rwn.news &&& ~~~((1 : BitVec 128)
        <<< c) }).respond p m ⟨.ok, none, leBytes 2 (w.valueReg c)⟩))) ∧
    (2 ≤ swQuality (w.sample c) → w.valueReg c = 4095 + 32768 * (w.rwn.news.getLsbD c).toNat) ∧
    (swQuality (w.sample c) < 2 → w.rlo c ≤ swValue (w.sample c) → swValue (w.sample c) ≤ w.rhi c → w.rlo c < w.rhi c →
      w.valueReg c = min 4094 ((swValue (w.sample c) - w.rlo c).toNat * 4095 / (w.rhi c - w.rlo c).toNat) +
        32768 * (w.rwn.news.getLsbD c).toNat) ∧
    (m.arg1 = 2 → msgBody m = [x, y, b, z] → w.windowOn = false → exec (.ranteWrite p m t) s₀ = .next
      (w.respond p m ⟨.state, none, []⟩)) ∧
    (m.arg1 = 2 → msgBody m = [x, y, b, z] → w.windowOn = true →
      (4095 < at_ → exec (.ranteWrite p m t) s₀ = .next (w.respond p m ⟨.range, none, []⟩)) ∧
      (at_ ≤ 4095 → pairReg (at_ - at_ % 2) = false → w.rwn.latch = none → exec (.ranteWrite p m t) s₀ = .next
        ((w.ranteIgnore at_ b 7).respond p m ⟨.ok, some 1, []⟩)) ∧
      (at_ ≤ 4095 → pairReg at_ = true → at_ % 2 = 0 → w.rwn.latch = none →
        exec (.ranteWrite p m t) s₀ = .next ((w.putPair (some (at_, b, w.now))).respond p m ⟨.ok, some 0, []⟩)) ∧
      (at_ ≤ 4095 → pairReg (at_ - 1) = true → at_ % 2 = 1 → w.rwn.latch = none →
        exec (.ranteWrite p m t) s₀ = .next ((w.ranteIgnore at_ b 6).respond p m ⟨.ok, some 1, []⟩)) ∧
      (at_ = 3 → w.rwn.latch = some (2, hi, t₁) → w.now < t₁ + 10000000 → hi = 0 → b.toNat ≤ 3 →
        exec (.ranteWrite p m t) s₀ = .next (
        let u := (w.putPair none).setFld R.RWN_ST F.RWN_ST_PAGE b.toNat
        let y := u.setRwn { u.rwn with mPage := b.toNat }
        y.respond p m ⟨.ok, some 0, []⟩)) ∧
      (at_ = 3 → w.rwn.latch = some (2, hi, t₁) → w.now < t₁ + 10000000 → 3 < 256 * hi.toNat + b.toNat →
        exec (.ranteWrite p m t) s₀ = .next (((w.putPair none).ranteIgnore at_ b 8).respond p m ⟨.ok, some 1, []⟩)) ∧
      (k < 32 → at_ = 129 + 2 * k → w.rwn.latch = some (128 + 2 * k, hi, t₁) → w.now < t₁ + 10000000 → hi.toNat < 16 →
        w.sound = true → exec (.ranteWrite p m t) s₀ = .next (
          let u := w.putPair none
          let v := u.setRwn { u.rwn with codes := tabSet (dflt 0xFFF) u.rwn.codes c (256 * hi.toNat + b.toNat) }
          (v.stageWindow 0 c).respond p m ⟨.ok, some 0, []⟩)))

/-! ### Supplies, holdover, temperature, start -/

/-- R369–R371: an input found present or lost is shown with its voltage and recorded by E02; supply loss begins holdover
with E03, LOST to every step that runs, and everything that waits mirrored; the node rides through above 4.3 V, the panel going
on with its head request, and stops at 4.3 V with PD0 alone, the shutdown marked in the ledger. Completes: vinPresent, vinLost,
supplyLoss, holdoverRideThrough, holdoverShutdown. -/
def Clauses.SupplyInputsAndHoldover : Prop :=
  ∀ (s₀ : State) (b : Bool) (v mv : BitVec 16) (t : Time), s₀.sup.running = true →
    let s := s₀.atTime t
    let field := if b then F.PWR_VIN_VINB else F.PWR_VIN_VINA
    let present := if b then F.PWR_STAT_VINB else F.PWR_STAT_VINA
    let bank (u : State) := (u.setFld R.PWR_HOLD F.PWR_HOLD_VBANK mv.toNat).setFlag R.PWR_STAT F.PWR_STAT_HOLDRDY
      (decide (4900 ≤ mv.toNat))
    let lasted := (s.now - s.sup.holdAt) / 1000
    (s₀.flag R.PWR_STAT present = false → 1700 ≤ v.toNat → exec (.vinPresent b v) s₀ = .next
      (((s₀.setFlag R.PWR_STAT present true).setFld R.PWR_VIN field v.toNat).raise 0x02 b.toNat (v.toNat + 65536))) ∧
    (s₀.flag R.PWR_STAT present = true → exec (.vinPresent b v) s₀ = .next s₀) ∧
    (v.toNat < 1700 → exec (.vinPresent b v) s₀ = .next s₀) ∧
    (s₀.flag R.PWR_STAT present = true → v.toNat < 1600 → exec (.vinLost b v) s₀ = .next
      (((s₀.setFlag R.PWR_STAT present false).setFld R.PWR_VIN field v.toNat).raise 0x02 b.toNat v.toNat)) ∧
    (1600 ≤ v.toNat → exec (.vinLost b v) s₀ = .next s₀) ∧
    (s.flag R.PWR_STAT F.PWR_STAT_HOLD = false → exec (.supplyLoss mv t) s₀ = .next (
      let u := ((bank s).setFlag R.PWR_STAT F.PWR_STAT_VALID false).setFlag R.PWR_STAT F.PWR_STAT_HOLD true
      let u := ((u.setSup { u.sup with holdAt := u.now }).addFld R.PWR_CNT F.PWR_CNT_LOSS 1).raise 0x03 0 mv.toNat
      (u.markLost).mirrorAll)) ∧
    (s.flag R.PWR_STAT F.PWR_STAT_HOLD = true → 4300 < mv.toNat → exec (.holdoverRideThrough mv t) s₀ = .next (
      let u := ((bank s).setFlag R.PWR_STAT F.PWR_STAT_VALID true).setFlag R.PWR_STAT F.PWR_STAT_HOLD false
      (((u.addFld R.PWR_CNT F.PWR_CNT_RIDE 1).wr R.PWR_LAST (BitVec.ofNat 32 lasted)).raise 0x03 1
        (data2 mv.toNat lasted)).kick)) ∧
    (s.flag R.PWR_STAT F.PWR_STAT_HOLD = true → mv.toNat ≤ 4300 → exec (.holdoverRideThrough mv t) s₀ = .next s) ∧
    (s.flag R.PWR_STAT F.PWR_STAT_HOLD = false → exec (.holdoverShutdown t) s₀ = .next s) ∧
    (s₀.sound = true → s.flag R.PWR_STAT F.PWR_STAT_HOLD = true →
      ∃ u : State, exec (.holdoverShutdown t) s₀ = .next u ∧ u.fld R.PWR_HOLD F.PWR_HOLD_VBANK = 4300 ∧
      u.sup.running = false ∧ u.sup.alarmReady = false ∧ u.fld R.PWR_DOM F.PWR_DOM_ON = 1 ∧ u.mor.fifo = [] ∧
      u.mor.triggers = [] ∧ u.sup.nextCause = 0)

/-- R372: the charge end shows the bank's voltage, HOLDRDY from 4.9 V on, and, where it began below 1 V, the capacitance that
a charge by 1.0 A to 5 V took; a capacitance below 900 mF, or a charge that ends below 4.9 V, sets HOLDLOW with E08, once. R319: the operating time is mirrored. R385: the sensors stand
in PWR_TEMP; the highest valid reading is the internal temperature, and how long it has stood at or beyond each threshold is kept
(with no valid reading it counts as at 85 °C). Completes: holdChargeDone, holdChargeTimeout, operatingTimeMirror, tempSample. -/
def Clauses.BankAndTemperature : Prop :=
  ∀ (s₀ : State) (len : Word) (below : Bool) (mv x0 x1 x2 x3 : BitVec 16) (t : Time), s₀.sup.running = true →
    let s := s₀.atTime t
    let bank := (s₀.setFld R.PWR_HOLD F.PWR_HOLD_VBANK mv.toNat).setFlag R.PWR_STAT F.PWR_STAT_HOLDRDY
      (decide (4900 ≤ mv.toNat))
    let low (u : State) := if u.flag R.PWR_STAT F.PWR_STAT_HOLDLOW then u else
      (u.setFlag R.PWR_STAT F.PWR_STAT_HOLDLOW true).raise 0x08 0
        (data2 (u.fld R.PWR_HOLD F.PWR_HOLD_CAP) len.toNat)
    (∀ u : State, u = (if below then bank.setFld R.PWR_HOLD F.PWR_HOLD_CAP (min (len.toNat / 5) 65535) else bank) →
      exec (.holdChargeDone len below mv) s₀ = .next (if u.fld R.PWR_HOLD F.PWR_HOLD_CAP < 900 then low u else u)) ∧
    (len.toNat < 10000 → exec (.holdChargeTimeout len mv) s₀ = .next s₀) ∧
    (10000 ≤ len.toNat → mv.toNat < 4900 → exec (.holdChargeTimeout len mv) s₀ = .next (low bank)) ∧
    (10000 ≤ len.toNat → 4900 ≤ mv.toNat → exec (.holdChargeTimeout len mv) s₀ = .next bank) ∧
    (s.powered 8 = true → exec (.operatingTimeMirror t) s₀ = .next
      (s.setSup { s.sup with optMirror := s.optime / 1000000 })) ∧
    (s₀.powered 1 = true → exec (.tempSample x0 x1 x2 x3) s₀ = .next (
      let u := s₀.wrAll [(R.PWR_TEMP 0, x0 ++ x1), (R.PWR_TEMP 1, x2 ++ x3)]
      let v : Option Int := u.hottest.map (fun x => x.2)
      let stays (on : Bool) (old : Option Time) := if on then some (old.getD u.now) else none
      u.setSup { u.sup with
        hot85 := stays (decide (v = none ∨ ∃ y ∈ v, (850 : Int) ≤ y)) u.sup.hot85
        cool85 := stays (decide (∃ y ∈ v, y ≤ 800)) u.sup.cool85
        hot100 := stays (decide (∃ y ∈ v, 1000 ≤ y)) u.sup.hot100
        cool100 := stays (decide (∃ y ∈ v, y ≤ 900)) u.sup.cool100 }))

/-- R385, R41, R277, R295: T85 sets with E06 once 85 °C has stood for 1 s and holds the loop limit and the panel's loads back
until it clears, 80 °C or less having stood for 10 s; T100 (100 °C for 1 s) switches PD10 off, and its end (90 °C or less for
60 s) powers PD10 again and restores it, unless a cycle of PD10 runs. A threshold that has not stood so long does nothing.
Completes: thermalT85, thermalT85End, thermalT100, thermalT100End. -/
def Clauses.ThermalThresholds : Prop :=
  ∀ (s₀ : State) (k : Fin 4) (temp : BitVec 16) (t : Time), s₀.sup.running = true →
    let s := s₀.atTime t
    let t85 (u : State) (on : Bool) := (
      let w := u.setFlag R.PWR_STAT F.PWR_STAT_T85 on
      if w.powered 4 then w.setFlag R.AFE_LOOP F.AFE_LOOP_THERM on else w)
    let t100 (u : State) (on : Bool) := (u.setFlag R.PWR_STAT F.PWR_STAT_T100 on).raise 0x06 k
      (temp.toNat + 65536 * (if on then 2 else 3))
    let stood (since : Option Time) (len : Time) := (∃ t₀, since = some t₀ ∧ t₀ + len ≤ s.now) ∧
      (s.hottest = none ∨ s.hottest = some (k.val, temp.toInt))
    (s₀.flag R.PWR_STAT F.PWR_STAT_T85 = false → s₀.sup.hot85 = some t →
      (s₀.hottest = none ∨ s₀.hottest = some (k.val, temp.toInt)) → exec (.thermalT85 k temp) s₀ = .next
      (((t85 (s₀.atTime (t + 1000000000)) true).raise 0x06 k temp.toNat).setDefer true temp)) ∧
    (s₀.flag R.PWR_STAT F.PWR_STAT_T85 = true ∨ s₀.sup.hot85 = none → exec (.thermalT85 k temp) s₀ = .next s₀) ∧
    (s.flag R.PWR_STAT F.PWR_STAT_T85 = true → stood s.sup.cool85 10000000000 →
      exec (.thermalT85End k temp t) s₀ = .next
      (((t85 s false).raise 0x06 k (temp.toNat + 65536)).setDefer false temp)) ∧
    (¬ stood s.sup.cool85 10000000000 → exec (.thermalT85End k temp t) s₀ = .next s) ∧
    (s.flag R.PWR_STAT F.PWR_STAT_T100 = false → stood s.sup.hot100 1000000000 →
      ((t100 s true).powered 10 = true → exec (.thermalT100 k temp t) s₀ = .next
        (((t100 s true).dropDomain 10).switchOff 10)) ∧
      ((t100 s true).powered 10 = false → exec (.thermalT100 k temp t) s₀ = .next (t100 s true))) ∧
    (¬ stood s.sup.hot100 1000000000 → exec (.thermalT100 k temp t) s₀ = .next s) ∧
    (s.flag R.PWR_STAT F.PWR_STAT_T100 = true → stood s.sup.cool100 60000000000 →
      (¬ (∃ r ∈ s.sup.active, r.1 = 10) → exec (.thermalT100End k temp t) s₀ = .next
        (((t100 s false).switchOn 10).restoreDomain 10)) ∧
      ((∃ r ∈ s.sup.active, r.1 = 10) → exec (.thermalT100End k temp t) s₀ = .next (t100 s false)))

/-- R373, R376, R377: a start of a node that does not run opens a start record of the cause, ends S00 and runs the
steps in the order of R379. A step still running at its limit ends with TIMEOUT: one with an alternate that ran
normally runs the alternate at once, and any other has the node restart with cause 2. The steps run at their END
instants (DESIGN CHOICE). Completes: nodeStart, startStepTimeout. -/
def Clauses.NodeStartAndTimeouts : Prop :=
  ∀ (s₀ : State) (info : StartInfo) (k : Fin 16) (t : Time),
    let s := s₀.atTime t
    let limit := if k = 13 then (s.rd R.SYS_ARDY).toNat + 10 * s.img.exec.tickMs * 1000
      else ((stepAfter k).foldl (fun m j => Nat.max m (s.fld (R.SYS_STEP j) F.SYS_STEP_END)) 0) + stepLimit k
    (s.sup.running = true → exec (.nodeStart info t) s₀ = .next s) ∧
    (s.sup.running = false → exec (.nodeStart info t) s₀ = .next (
      let u := s.beginStart info
      (u.endStepAt 0 2 (min (info.ends.getD 0 0) (stepLimit 0))).advance)) ∧
    (∀ u : State, u = s.beginStart info → u.sup.running = true ∧ u.sup.alarmReady = false ∧ u.sup.info = info ∧
      u.sup.ledger.length ≤ 8 ∧ (u.sup.ledger.head?).map (fun r => r.cause) = some s.sup.nextCause) ∧
    (s.sup.running = true → s.stepRuns k = true → s.sinceStart < limit →
      exec (.startStepTimeout k t) s₀ = .next s) ∧
    (s.sup.running = true → s.stepRuns k = true → limit ≤ s.sinceStart →
      ((1 ≤ k.val ∧ k.val ≤ 8) → s.fld (R.SYS_STEP k) F.SYS_STEP_MODE = 0 → s₀.sound = true →
        exec (.startStepTimeout k t) s₀ = .next
          ((((((s.endStep k 5).nameBank k).workAlt k true).2.fallBack k)).advance)) ∧
      ((k.val = 0 ∨ 8 < k.val) → s₀.sound = true → ∃ u : State, exec (.startStepTimeout k t) s₀ = .next u ∧
        u.fld (R.SYS_STEP k) F.SYS_STEP_STATE = 5 ∧
        (s.sup.restartReq = none → u.sup.restartReq = some (2, s.now + 10000000))))

/-- R374, R379, R387, R382: once S02–S05 and S09–S12 have ended the node is alarm-ready: SYS_ARDY takes the time,
Snowline passes over the live table, S13 begins; when all steps have ended S15 closes the start with E00; a restart
the node ordered leaves PD0 and PD1 on, and the next start shows its cause. Completes: alarmReady, startClose,
orderedRestart. -/
def Clauses.ReadyAndRestart : Prop :=
  ∀ (s₀ : State) (t t₁ : Time) (c : Nat),
    let s := s₀.atTime t
    (s.powered 4 = true → s.noImage = false → s.sup.alarmReady = false →
      [2, 3, 4, 5, 9, 10, 11, 12].all s.stepEnded = true → exec (.alarmReady t) s₀ = .next (
        let u := s.wr R.SYS_ARDY (BitVec.ofNat 32 s.sinceStart)
        (u.setSup { u.sup with alarmReady := true }).firstPass.setFld (R.SYS_STEP 13) F.SYS_STEP_STATE 1)) ∧
    ([2, 3, 4, 5, 9, 10, 11, 12].all s.stepEnded = false → exec (.alarmReady t) s₀ = .next s) ∧
    (s.sup.running = true → s.fld (R.SYS_STEP 15) F.SYS_STEP_STATE = 0 → s.flag R.SYS_START F.SYS_START_NOIMG = false →
      (List.range 15).all s.stepEnded = true → exec (.startClose t) s₀ = .next (
        let u := s.endStep 15 2
        u.raise 0x00 (u.fld R.SYS_START F.SYS_START_CAUSE)
          ((s.rd R.SYS_ARDY).toNat + 2 ^ 32 * u.fld R.SYS_THAW F.SYS_THAW_ALT + 2 ^ 48 * u.skippedBits))) ∧
    (s₀.sound = true → s.sup.running = true → s.sup.restartReq = some (c, t₁) →
      ∃ u : State, exec (.orderedRestart t) s₀ = .next u ∧ u.sup.running = false ∧ u.sup.alarmReady = false ∧
        u.sup.nextCause = c ∧ u.sup.restartReq = none ∧ u.fld R.PWR_DOM F.PWR_DOM_ON = 3) ∧
    (s.sup.restartReq = none → exec (.orderedRestart t) s₀ = .next s)

/-! ### Rules of the spec stated whole -/

/-- R102: SWP on a channel that is not 3-wire, EXC on a TYPE with no current source and PAIR with HALF = 1 on a channel that
is not 3-wire do nothing: the program goes on at its next word, with no stamp moved and no fault raised. -/
def Obligations.ProgramWordsWithNoEffect : Prop :=
  ∀ (s₀ : State) (q : Fin 9) (n : Nat) (src : Bool) (term : BitVec 2) (iexc : BitVec 11) (set2 : BitVec 16) (k : Fin 5)
    (t : Time), (s₀.atTime t).seqReady q = true → (s₀.atTime t).scannedChan q = some n →
    let s := s₀.atTime t
    let on (u : State) := u.setFld (R.SEQ_PC q) F.SEQ_PC_PC (u.fld (R.SEQ_PC q) F.SEQ_PC_PC + 1)
    (s.threeWire n = false → exec (.swp q set2 t) s₀ = .next (on s) ∧ exec (.pairSet q true k t) s₀ = .next (on s) ∧
      exec (.pairFix q true k t) s₀ = .next (on s) ∧ exec (.pairRelease q true) s = .next (on s)) ∧
    (usesCurrent (s.chanType n) = false → (iexc.toNat = 0 ∨ 50 ≤ iexc.toNat ∧ iexc.toNat ≤ 2000) →
      exec (.exc q src term iexc t) s₀ = .next (on s)) ∧
    ((on s).seqs = s.seqs ∧ (on s).rd (R.SEQ_FAULT q) = s.rd (R.SEQ_FAULT q) ∧ (on s).mor.triggers = s.mor.triggers)

/-- R204: SMP, LST and GST read the active snapshot; the index wa + imm lies in 0–255 for SMP and GST and in 0–2,047 for LST,
or the instruction takes LOAD; each returns the word that LW returns from the offset of R192. -/
def Obligations.CoreIndexedReads : Prop :=
  ∀ (s : State) (c : CoreId) (wd wa wb : BitVec 5) (imm off : BitVec 16), s.issues c = true →
    let i := (s.word c wa + imm.signExtend 32).toNat
    let a := (s.word c wb + off.signExtend 32).toNat
    let u := s.setCore c (s.fetched c)
    (i < 256 → exec (.smp c wd wa imm) s = .next (s.wrote c wd ((s.core c).active.word (0x100 + 4 * i))) ∧
      exec (.gst c wd wa imm) s = .next (s.wrote c wd ((s.core c).active.word (0x3000 + 16 * i)))) ∧
    (256 ≤ i → exec (.smp c wd wa imm) s = .next (u.takeExc c 4 3) ∧
      exec (.gst c wd wa imm) s = .next (u.takeExc c 4 3)) ∧
    (i < 2048 → exec (.lst c wd wa imm) s = .next (s.wrote c wd ((s.core c).active.word (0x1000 + 4 * i)))) ∧
    (2048 ≤ i → exec (.lst c wd wa imm) s = .next (u.takeExc c 4 3)) ∧
    (i < 256 → a = 0x30000000 + 0x100 + 4 * i → exec (.lw c wd wb off) s = exec (.smp c wd wa imm) s) ∧
    (i < 2048 → a = 0x30000000 + 0x1000 + 4 * i → exec (.lw c wd wb off) s = exec (.lst c wd wa imm) s) ∧
    (i < 256 → a = 0x30000000 + 0x3000 + 16 * i → exec (.lw c wd wb off) s = exec (.gst c wd wa imm) s)

/-- R188: an MTS to TICK takes ILLEGAL; an MTS to STAT changes XD, a 3 leaving it unchanged, and leaves every other field as
it is. -/
def Obligations.CoreStatusWrites : Prop :=
  ∀ (s : State) (c : CoreId) (wx : BitVec 5), s.issues c = true →
    let v := s.word c wx
    let xd := v.toNat / 134217728 % 4
    exec (.mts c wx 3 0) s = .next ((s.setCore c (s.fetched c)).takeExc c 1 4) ∧
    (∃ k : Core, exec (.mts c wx 0 0) s = .next (s.setCore c k) ∧ k.xd = (if xd = 3 then (s.core c).xd else xd) ∧
      k.pc = (s.core c).pc + 4 ∧ k.w = (s.core c).w ∧ k.tick = (s.core c).tick ∧ k.epc = (s.core c).epc ∧
      k.dpc = (s.core c).dpc ∧ k.cause = (s.core c).cause ∧ k.evm = (s.core c).evm ∧ k.sram = (s.core c).sram ∧
      k.cmtd = (s.core c).cmtd ∧ k.cmtn = (s.core c).cmtn ∧
      (k.xd ≤ 2 → (s.core c).xd ≤ 2 → (s.core c).cmtn ≤ 1024 →
        k.stat = ((s.core c).stat &&& 0xE7FFFFFF) ||| BitVec.ofNat 32 (k.xd * 134217728)))

/-- R408: a start takes the node address from the address contacts, ADR0 as bit 0; a value of 0, or of 65–127, is address 0;
address 7 links ADR0, ADR1 and ADR2, and address 64 links ADR6 alone. A change of the contacts later leaves the address. -/
def Obligations.AddressContacts : Prop :=
  ∀ (s₀ : State) (info : StartInfo) (now : BitVec 7) (t : Time),
    let s := s₀.atTime t
    let v := info.contacts.toNat
    (s.sup.running = false → ∃ w : State, exec (.nodeStart info t) s₀ = .next w.advance ∧
      w.sup.addr = (if v ≤ 64 then v else 0)) ∧
    (info.contacts = 0b0000111 → (s.beginStart info).sup.addr = 7) ∧
    (info.contacts = 0b1000000 → (s.beginStart info).sup.addr = 64) ∧
    ∃ u, exec (.addressContactChange now) s₀ = .next u ∧ u.sup.addr = s₀.sup.addr

/-- R301: at power-up of PD0 the calendar starts at 2000-01-01 00:00:00.0, DOW 6, with OSF set; after 2399-12-31 23:59:59 it
runs on to 2000-01-01 00:00:00, OSF sets and E67 is recorded. -/
def Obligations.CalendarStartsAndWraps : Prop :=
  ∀ (s₀ : State) (t : Time), s₀.sound = true →
    let s := s₀.atTime t
    let reads (u : State) (cent year mon day hour min sec : Nat) : Prop :=
      u.fld R.RTC_CENT F.RTC_CENT_CENT = cent ∧ u.fld R.RTC_YEAR F.RTC_YEAR_YEAR = year ∧
      u.fld R.RTC_MON F.RTC_MON_MON = mon ∧ u.fld R.RTC_DAY F.RTC_DAY_DAY = day ∧
      u.fld R.RTC_HOUR F.RTC_HOUR_HOUR = hour ∧ u.fld R.RTC_MIN F.RTC_MIN_MIN = min ∧
      u.fld R.RTC_SEC F.RTC_SEC_SEC = sec
    (∃ u, exec (.pd0PowerUp t) s₀ = .next u ∧ reads u 0x20 0x00 0x01 0x01 0x00 0x00 0x00 ∧
      u.fld R.RTC_DOW F.RTC_DOW_DOW = 6 ∧ u.rtcSub = 0 ∧ u.flag R.RTC_TRUST F.RTC_TRUST_OSF = true) ∧
    (reads s 0x23 0x99 0x12 0x31 0x23 0x59 0x59 → ∃ u, exec (.calendarSecond t) s₀ = .next u ∧
      reads u 0x20 0x00 0x01 0x01 0x00 0x00 0x00 ∧ u.flag R.RTC_TRUST F.RTC_TRUST_OSF = true ∧
      (s.powered 1 = true → (⟨s.now, 0x67, 0, 0, false, none, none, none⟩ : Trig) ∈ u.mor.triggers))

/-- R305: RTC_DST.CMD = 1 moves the calendar forward one hour and sets ST, CMD = 2 back one hour and clears ST, at the next
second boundary; CMD = 1 is refused with STATE while ST is 1, and CMD = 2 while ST is 0. -/
def Obligations.SummerTime : Prop :=
  ∀ (s₀ : State) (p : Port) (b : Bool) (t : Time), s₀.sound = true →
    let s := s₀.atTime t
    let cmd := if b then Instr.dstForward p else Instr.dstBack p
    (s₀.flag R.RTC_DST F.RTC_DST_ST = b → exec cmd s₀ = .next (s₀.answer .state)) ∧
    (s₀.flag R.RTC_DST F.RTC_DST_ST = !b → s₀.rtc.dst = none → ∃ u, exec cmd s₀ = .next u ∧ u.status = .ok ∧
      u.rtc.dst = some (b, false) ∧ u.cal = s₀.cal ∧ u.flag R.RTC_DST F.RTC_DST_ST = !b) ∧
    (s.rtc.set = none → s.rtc.shift = none → s.rtc.dst = some (b, false) →
      (∃ u, exec (.rtcAdjustApply t) s₀ = .next u ∧ u.cal = s.cal ∧ u.rtc.dst = some (b, false)) ∧
      ∃ u, exec (.calendarSecond t) s₀ = .next u ∧ u.rtc.dst = some (b, true)) ∧
    (s.rtc.set = none → s.rtc.shift = none → s.rtc.dst = some (b, true) →
      ∃ u, exec (.rtcAdjustApply t) s₀ = .next u ∧ u.rtc.dst = none ∧ u.flag R.RTC_DST F.RTC_DST_ST = b ∧
        u.cal = (if b then s.cal + 3600 else s.cal + calSeconds - 3600) % calSeconds)

/-! ### The step, the queue, the invariant -/

/-- A step of a state with command `c` at the front of its queue is `c` run on that state with the queue's rest. On an empty
queue the block idles: DESIGN CHOICE, log 1. -/
def Obligations.StepRunsFrontCommand : Prop :=
  ∀ (c : Instr) (s : State) (rest : List Instr),
    step { s with pending := c :: rest } = exec c { s with pending := rest } ∧
    step { s with pending := [] } = .next { s with pending := [] }

/-- No command touches the queue: what waits is run first in, first out, and a step that answers a next state takes exactly
the command at the front. -/
def Obligations.QueueIsFirstInFirstOut : Prop :=
  ∀ (i : Instr) (s t : State),
    (exec i s = .next t → t.pending = s.pending) ∧ (step s = .next t → t.pending = s.pending.tail)

/-- Every command runs to a next state in every state, but for words that R111 keeps out of every program store: a SEL of the
cold junction in a bank without one, an EXC of a level outside 50–2,000 µA, a SYNC whose mask leaves out its own bank;
those alone are refused, by name. No command faults. -/
def Obligations.EveryCommandCompletes : Prop :=
  ∀ (i : Instr) (s : State), completes i s ∨ ∃ w, w ∈ ["SEL", "EXC", "SYNC"] ∧
    exec i s = .refused (.neverLoaded w) ∧
    ((∃ q sets pos t, i = .sel q sets pos t) ∨ (∃ q src term iexc t, i = .exc q src term iexc t) ∨
      ∃ q id mask limit t, i = .sync q id mask limit t)

/-- The invariant of the model: every table of registers, every memory and every table of the node stays in canonical form
through every step, from every state in which it is. -/
def Obligations.StepKeepsSound : Prop :=
  ∀ (s t : State), s.sound = true → step s = .next t → t.sound = true

/-- R8, R88, R89, R116, R257, R258, R363, R388, R389, R317: what the Reset columns give right after reset, the empty queue
and the invariant. -/
def Obligations.ResetState : Prop :=
  State.reset.sound = true ∧ State.reset.pending = [] ∧ State.reset.rd R.SYS_ID = 0x00010128 ∧
  State.reset.fld R.PWR_DOM F.PWR_DOM_ON = 3 ∧ State.reset.fld R.SYS_CLAIMERR F.SYS_CLAIMERR_RES = 0x7F ∧
  State.reset.flag R.SYS_LOCK F.SYS_LOCK_OPEN = false ∧ State.reset.fld R.AFE_ROTCTL F.AFE_ROTCTL_INTERVAL = 600 ∧
  State.reset.fld R.AFE_ROTST F.AFE_ROTST_SERVED = 15 ∧ State.reset.fld R.RNG_CFG F.RNG_CFG_ETYPE = 0x88B5 ∧
  State.reset.fld R.RTC_CENT F.RTC_CENT_CENT = 0x20 ∧ State.reset.fld R.RTC_DOW F.RTC_DOW_DOW = 6 ∧
  State.reset.flag R.RTC_TRUST F.RTC_TRUST_OSF = true ∧ State.reset.fld R.REC_NEXTSEQ F.REC_NEXTSEQ_SEQ = 1 ∧
  (∀ q : Fin 9, State.reset.fld (R.SEQ_PC q) F.SEQ_PC_POS = 0x1F) ∧
  (∀ n : Fin 132, State.reset.fld (R.CRV_CHCFG n) F.CRV_CHCFG_CURVE = 0xFF ∧
    State.reset.rd (R.CRV_GAIN n) = 0x01000000 ∧ State.reset.fld (R.AFE_RAWL n) F.AFE_RAWL_CODE = 0) ∧
  (∀ n : Fin 48, State.reset.fld (R.DIO_DOST n) F.DIO_DOST_PARTNER = 0x3F) ∧
  (∀ k : Fin 16, State.reset.fld (R.SYS_STEP k) F.SYS_STEP_STATE = 0)

/-! ### What the peripherals' commands leave unchanged -/

/-- The panel's commands touch its registers and buffers, the events, the answer and the lock's last use, and the axes'
commands touch the axes' registers with their mirror, the profiles, the events and the answer; every other register, and every other part of the
node, stays. -/
def Obligations.PanelAndAxisFrames : Prop :=
  ∀ (i : Instr) (s u : State) (p : Port) (tg pix w x : BitVec 16) (r r0 r1 tag : BitVec 6) (h : BitVec 3) (c0 c1 : BitVec 7)
    (pic par : BitVec 4) (m : BitVec 2) (v : Word) (k : BitVec 8) (a : Fin 6) (b b' b'' : Bool) (ia ib : BitVec 12) (t : Time),
    s.sound = true → exec i s = .next u →
    (i ∈ [.draw tg r h pix, .update tg r0 r1 c0 c1 tag, .copy tg r0 r1 c0 c1 pic, .panelClear tg tag, .journalCopy,
        .rowPhaseEnd, .pumpReady w x, .pumpIdleStop, .panelTempRead w x t, .pumpFault w x, .pumpRestart, .pnlRetry p t,
        .mapCommit p m t, .segmentFrame] → (∀ y, s.pnl.cur = some y → y.row < 64) →
      u = { s with now := u.now, status := u.status, regs := u.regs, pnl := u.pnl,
                   mor := { s.mor with triggers := u.mor.triggers }, sup := { s.sup with lastLk := u.sup.lastLk } } ∧
      ∀ j, blockNo j ≠ 0x400F → u.rd j = s.rd j) ∧
    (i ∈ [.movea tg v, .mover tg v, .jog tg v, .axisStop tg, .estop tg, .setpar tg par v, .home tg, .axisEnable tg,
        .axisDisable tg, .tblwr tg b k w, .tblsel tg b b' b'', .gtgt tg v, .ggo tg v, .preset tg v, .axisClear tg,
        .profileUpdate a ia ib, .moveComplete a, .iholdTimer a, .driverFault a, .loopLost a b x, .estopLineAssert a,
        .emergencyRampEnd a, .limitInputActive a b, .limitInputInactive a b, .homeEdgeQualified a v, .homeDistanceFail a,
        .homeComplete a] →
      u = { s with now := u.now, free := u.free, status := u.status, regs := u.regs, mirror := u.mirror, axes := u.axes,
                   mor := { s.mor with triggers := u.mor.triggers } } ∧
      ∀ j, blockNo j ≠ 0x400E → u.rd j = s.rd j ∧ tabGet resetWord u.mirror j = tabGet resetWord s.mirror j)

/-- The calendar's commands touch its registers, the watermark, the events, the answer and the lock's last use; a cursor's
commands touch the recorder's registers, that port's cursor and the answer; what a port of the ring or the service port sees
touches their registers, the exchange and the events. Every other register, and every other part of the node, stays. -/
def Obligations.CalendarRecorderAndRingFrames : Prop :=
  ∀ (i : Instr) (s u : State) (p : Port) (q : Option Port) (b : Bool) (c : BitVec 15) (v : BitVec 13) (e : Int) (a : Fin 4)
    (m : BitVec 2) (x y : BitVec 16) (j : Fin 16) (n : Byte) (t : Time),
    s.sound = true → exec i s = .next u →
    (i ∈ [.calendarSecond t, .rtcSecRead q t, .rtcCentRead q, .rtcShadowTimeout q, .rtcSetAtSecond p, .rtcSetImmediate p,
        .rtcShift p b c, .dstForward p, .dstBack p, .rtcAdjustApply t, .trimAccumulate, .rtcTrimWrite p v t,
        .trimMeasureMains p b t, .trimMeasureHost p t, .trimMeasureAbort p t, .trimMeasureEnd b e t, .alarmEnable p a t,
        .calendarAlarmFire a t, .alarmFlagClear p a, .cellSample x y, .vrtcChangeover b x y] →
      u = { s with now := u.now, free := u.free, status := u.status, regs := u.regs, rtc := u.rtc,
                   mor := { s.mor with triggers := u.mor.triggers }, sup := { s.sup with lastLk := u.sup.lastLk } } ∧
      ∀ k, blockNo k ≠ 0x400C → k ≠ R.REC_STAT → k ≠ R.REC_REGWT → k ≠ R.REC_REGWD → u.rd k = s.rd k) ∧
    (i ∈ [.cursorAt p m, .cursorOldest p m, .cursorNewest p m, .cursorNext p m, .cursorPrev p m, .windowRead p j] →
      u = { s with status := u.status, regs := u.regs, mor := { s.mor with host := u.mor.host, svc := u.mor.svc } } ∧
      (p = .host → u.mor.svc = s.mor.svc) ∧ (p = .svc → u.mor.host = s.mor.host) ∧
      ∀ k, blockNo k ≠ 0x400D → u.rd k = s.rd k) ∧
    (i ∈ [.portLinkDown b, .portLinkUp b, .portBroken b, .cycleWithoutHeader b, .vbusAttach, .deviceConfigured, .svcSessionOpen,
        .svcSessionClose, .svcFrameTimeout, .mbxResponse n t] →
      u = { s with now := u.now, free := u.free, regs := u.regs, ring := u.ring,
                   mor := { s.mor with triggers := u.mor.triggers } } ∧
      ∀ k, blockNo k ≠ 0x4010 → blockNo k ≠ 0x4012 → u.rd k = s.rd k)

/-! ### Statements of several parts, each part stated above -/

/-- Every computing instruction of a core, each with its exact result. -/
def Obligations.CoreComputation : Prop :=
  Clauses.CoreRegisterOps ∧ Clauses.CoreSaturating ∧ Clauses.CoreBitOps ∧ Clauses.CoreMulDiv ∧
  Clauses.CoreImmediateOps

/-- The words of a core's instructions: decode of encode, and the words that no instruction has. -/
def Obligations.CoreEncoding : Prop :=
  Clauses.CoreWordsRoundTrip ∧ Clauses.CoreReservedWords

/-- Loads from and stores to a core's SRAM. -/
def Obligations.CoreLoadsAndStores : Prop :=
  Clauses.CoreLoads ∧ Clauses.CoreStores

/-- Snapshot reads, timers, the next event, and the system instructions of a core. -/
def Obligations.CoreNodeAndSystemOps : Prop :=
  Clauses.CoreNodeOps ∧ Clauses.CoreSystemOps

/-- Exception entry, the instructions that take one, and a core that does not issue. -/
def Obligations.CoreExceptions : Prop :=
  Clauses.CoreExceptionEntry ∧ Clauses.CoreTraps ∧ Clauses.CoreDoesNotIssue

/-- The loop switches and the loop supply. -/
def Obligations.LoopSwitching : Prop :=
  Clauses.LoopSwitches ∧ Clauses.LoopSupply

/-- Bridge supplies, clamps, live and latched bits of a channel. -/
def Obligations.SuppliesClampsAndLiveBits : Prop :=
  Clauses.SuppliesAndClamps ∧ Clauses.LiveAndLatchedBits

/-- The rotation of the spare bank and its tests. -/
def Obligations.RotationRequestsAndTests : Prop :=
  Clauses.RotationRequests ∧ Clauses.RotatingTests

/-- Control flow, waits, loading and synchronisation of channel programs. -/
def Obligations.ProgramControl : Prop :=
  Clauses.ProgramFlow ∧ Clauses.ProgramWaitsEnd ∧ Clauses.ProgramLoadAndSync

/-- SEL, EXC and SWP. -/
def Obligations.ChannelSelection : Prop :=
  Clauses.SelectChannel ∧ Clauses.ExcitationAndSwap

/-- PAIR, CNV, conversion results and PUT. -/
def Obligations.PairsAndConversions : Prop :=
  Clauses.ProgramPairs ∧ Clauses.ProgramConversions

/-- CHK, the scan timers, and the program words that R111 keeps out. -/
def Obligations.ChecksTimersAndRefusals : Prop :=
  Clauses.OpenCheck ∧ Clauses.ScanTimers ∧ Clauses.WordsNeverLoaded

/-- The conditions of the limit entries and their evaluation. -/
def Obligations.LimitConditionAndEvaluation : Prop :=
  Clauses.LimitConditions ∧ Clauses.LimitEvaluation

/-- Inhibits, scrubbing and staging of limit entries. -/
def Obligations.LimitInhibitsAndStaging : Prop :=
  Clauses.LimitInhibits ∧ Clauses.LimitScrubAndStaging

/-- Terms, outputs, latches and inputs of the trip matrix. -/
def Obligations.Trips : Prop :=
  Clauses.TripTerms ∧ Clauses.TripOutputsAndLatches ∧ Clauses.TripInputs

/-- The states of an alarm, acknowledging, shelving and the modifiers. -/
def Obligations.AlarmStates : Prop :=
  Clauses.AlarmStateRules ∧ Clauses.AlarmAcknowledgeAndShelve ∧ Clauses.AlarmModifiers

/-- The plans: actions, timers, inputs, watch-keepers. -/
def Obligations.PlansAndWatchKeepers : Prop :=
  Clauses.PlanActions ∧ Clauses.WatchKeeperActions ∧ Clauses.PlanTimersAndInputs

/-- Taking a snapshot, and the cores leaving reset. -/
def Obligations.SnapshotsAndCoreStart : Prop :=
  Clauses.Snapshots ∧ Clauses.CoresLeaveReset

/-- Comparing the items of the two cores, and the deadline of a tick. -/
def Obligations.ItemComparisonAndDeadline : Prop :=
  Clauses.ItemComparison ∧ Clauses.TickDeadline

/-- The verdict of the self-check, and the errors of a core's memory. -/
def Obligations.SelfCheckAndMemoryEvents : Prop :=
  Clauses.SelfCheckVerdict ∧ Clauses.CoreMemoryEvents

/-- Faults of clock islands, and cycles of power domains. -/
def Obligations.IslandFaultsAndDomainCycles : Prop :=
  Clauses.IslandFaults ∧ Clauses.DomainCycles

/-- The digital inputs and the configuration of the digital block. -/
def Obligations.DigitalInputsAndConfiguration : Prop :=
  Clauses.DigitalInputs ∧ Clauses.DigitalConfiguration

/-- The digital outputs: commands, diagnostics, pairs, field supplies. -/
def Obligations.DigitalOutputs : Prop :=
  Clauses.OutputCommands ∧ Clauses.OutputDiagnostics ∧ Clauses.PairScan ∧ Clauses.FieldSupplies

/-- Moves, run and stop, and the profile of an axis. -/
def Obligations.AxisMotion : Prop :=
  Clauses.AxisMoves ∧ Clauses.AxisRunAndStop ∧ Clauses.AxisProfile

/-- Settings of an axis, and interpolation groups. -/
def Obligations.AxisSettingsAndGroups : Prop :=
  Clauses.AxisSettings ∧ Clauses.InterpolationGroups

/-- Faults and homing of an axis. -/
def Obligations.AxisFaultsAndHoming : Prop :=
  Clauses.AxisFaults ∧ Clauses.Homing

/-- Requests, rows, the pump and the correction maps of the panel. -/
def Obligations.Panel : Prop :=
  Clauses.PanelRequests ∧ Clauses.PanelRows ∧ Clauses.PanelPumpAndMaps

/-- The calendar: seconds, shadows, adjustments, trim. -/
def Obligations.Calendar : Prop :=
  Clauses.CalendarCounts ∧ Clauses.CalendarAdjustments ∧ Clauses.CalendarTrim

/-- Capturing an event, and placing its record. -/
def Obligations.EventCaptureAndPlacement : Prop :=
  Clauses.EventCapture ∧ Clauses.RecordPlacement

/-- The configuration of the recorder and its cursors. -/
def Obligations.RecorderConfigurationAndCursors : Prop :=
  Clauses.RecorderConfiguration ∧ Clauses.RecorderCursors

/-- The ports of the ring, its headers and frames. -/
def Obligations.RingPortsAndFrames : Prop :=
  Clauses.RingPorts ∧ Clauses.RingHeaders ∧ Clauses.RingFrames

/-- The checks of a request, and its answer. -/
def Obligations.RequestChecksAndAnswers : Prop :=
  Clauses.RequestChecks ∧ Clauses.RequestAnswers

/-- Image transfer, digests, the node's key. -/
def Obligations.ImagesDigestsAndKey : Prop :=
  Clauses.ImageTransfer ∧ Clauses.DigestsAndKey

/-- The Rante window: enabling it, and its transfers. -/
def Obligations.RanteWindow : Prop :=
  Clauses.RanteEnable ∧ Clauses.RanteTransfers

/-- Supply inputs, holdover, the bank, the internal temperature. -/
def Obligations.SuppliesAndTemperature : Prop :=
  Clauses.SupplyInputsAndHoldover ∧ Clauses.BankAndTemperature ∧ Clauses.ThermalThresholds

/-- The start of the node, its time limits, and the restarts it orders. -/
def Obligations.StartAndRestart : Prop :=
  Clauses.NodeStartAndTimeouts ∧ Clauses.ReadyAndRestart
end

