-- ==== Sys2Proof/Laws/Tab.lean ====
section
/-! SUPPORT. The laws of sparse tables: a read after a write, and the canonical form kept by every operation. -/

set_option Elab.async false

namespace Sys2Proof.Machine

variable {α : Type} [DecidableEq α] {d : Nat → α} {k j l : Nat} {v w : α} {m : List (Nat × α)} {lo : Option Nat}

theorem tabWfFrom_cons :
    tabWfFrom d lo ((k, v) :: m) = true ↔ (∀ l, lo = some l → l < k) ∧ v ≠ d k ∧ tabWfFrom d (some k) m = true := by
  cases lo <;> simp [tabWfFrom, and_assoc]

/-- A table whose keys lie above a bound lies above every lower bound. -/
theorem tabWfFrom_weaken (h : tabWfFrom d (some k) m = true) (hl : ∀ l, lo = some l → l ≤ k) :
    tabWfFrom d lo m = true := by
  cases m with
  | nil => rfl
  | cons e m =>
    obtain ⟨k', v'⟩ := e
    rw [tabWfFrom_cons] at h ⊢
    refine ⟨fun l e => ?_, h.2⟩
    exact Nat.lt_of_le_of_lt (hl l e) (h.1 k rfl)

/-- Below its keys a canonical table reads as the default. -/
theorem tabGet_below (h : tabWfFrom d (some l) m = true) (hj : j ≤ l) : tabGet d m j = d j := by
  cases m with
  | nil => rfl
  | cons e m =>
    obtain ⟨k', v'⟩ := e
    have := (tabWfFrom_cons.1 h).1 l rfl
    simp only [tabGet]
    rw [if_neg (by omega), if_pos (by omega)]

theorem tabSet_wfFrom (h : tabWfFrom d lo m = true) (hk : ∀ l, lo = some l → l < k) :
    tabWfFrom d lo (tabSet d m k v) = true := by
  induction m generalizing lo with
  | nil =>
    simp only [tabSet]
    split
    · rfl
    · rw [tabWfFrom_cons]; exact ⟨hk, ‹_›, rfl⟩
  | cons e m ih =>
    obtain ⟨k', v'⟩ := e
    obtain ⟨h1, h2, h3⟩ := tabWfFrom_cons.1 h
    simp only [tabSet]
    split
    · split
      · exact h
      · rw [tabWfFrom_cons, tabWfFrom_cons]
        exact ⟨hk, ‹_›, fun l e => by cases e; assumption, h2, h3⟩
    · split
      · subst k'
        split
        · exact tabWfFrom_weaken h3 (fun l e => Nat.le_of_lt (hk l e))
        · rw [tabWfFrom_cons]; exact ⟨hk, ‹_›, h3⟩
      · rw [tabWfFrom_cons]
        exact ⟨h1, h2, ih h3 (fun l e => by cases e; omega)⟩

/-- A write keeps the canonical form. -/
theorem tabSet_wf (h : tabWf d m = true) : tabWf d (tabSet d m k v) = true :=
  tabSet_wfFrom h (fun _ e => by cases e)

theorem tabSetAll_wf {l : List (Nat × α)} (h : tabWf d m = true) : tabWf d (tabSetAll d m l) = true := by
  induction l generalizing m with
  | nil => exact h
  | cons e l ih => exact ih (tabSet_wf h)

theorem filter_wfFrom {p : Nat × α → Bool} (h : tabWfFrom d lo m = true) : tabWfFrom d lo (m.filter p) = true := by
  induction m generalizing lo with
  | nil => rfl
  | cons e m ih =>
    obtain ⟨k', v'⟩ := e
    obtain ⟨h1, h2, h3⟩ := tabWfFrom_cons.1 h
    simp only [List.filter_cons]
    split
    · rw [tabWfFrom_cons]; exact ⟨h1, h2, ih h3⟩
    · exact tabWfFrom_weaken (ih h3) (fun l e => Nat.le_of_lt (h1 l e))

theorem tabKeep_wf {p : Nat → Bool} (h : tabWf d m = true) : tabWf d (tabKeep p m) = true := filter_wfFrom h

theorem tabGet_tabSet_same_from (h : tabWfFrom d lo m = true) : tabGet d (tabSet d m k v) k = v := by
  induction m generalizing lo with
  | nil =>
    simp only [tabSet]
    split
    · rename_i e; exact e.symm
    · simp [tabGet]
  | cons e m ih =>
    obtain ⟨k', v'⟩ := e
    obtain ⟨h1, h2, h3⟩ := tabWfFrom_cons.1 h
    simp only [tabSet]
    split
    · split
      · rename_i hlt e
        simp only [tabGet]
        rw [if_neg (by omega), if_pos hlt, e]
      · simp [tabGet]
    · split
      · subst k'
        split
        · rename_i e; rw [e]; exact tabGet_below h3 (Nat.le_refl _)
        · simp [tabGet]
      · simp only [tabGet]
        rw [if_neg (by omega), if_neg (by omega)]
        exact ih h3

theorem tabGet_tabSet_ne_from (h : tabWfFrom d lo m = true) (hj : j ≠ k) :
    tabGet d (tabSet d m k v) j = tabGet d m j := by
  induction m generalizing lo with
  | nil =>
    simp only [tabSet]
    split
    · rfl
    · simp [tabGet, hj]
  | cons e m ih =>
    obtain ⟨k', v'⟩ := e
    obtain ⟨h1, h2, h3⟩ := tabWfFrom_cons.1 h
    simp only [tabSet]
    split
    · split
      · rfl
      · rename_i hlt _
        by_cases hjk : j < k
        · simp only [tabGet]
          rw [if_neg hj, if_pos hjk, if_neg (by omega), if_pos (by omega)]
        · simp only [tabGet]
          rw [if_neg hj, if_neg hjk]
    · split
      · subst k'
        have hr : tabGet d ((k, v') :: m) j = if j < k then d j else tabGet d m j := by
          simp only [tabGet]; rw [if_neg hj]
        rw [hr]
        split
        · split
          · exact tabGet_below h3 (by omega)
          · rfl
        · simp only [tabGet]; rw [if_neg hj]
      · simp only [tabGet]
        split
        · rfl
        · split
          · rfl
          · exact ih h3

/-- A read of the key just written gives the value written. -/
theorem tabGet_tabSet_same (h : tabWf d m = true) : tabGet d (tabSet d m k v) k = v := tabGet_tabSet_same_from h

/-- A write leaves every other key alone. -/
theorem tabGet_tabSet_ne (h : tabWf d m = true) (hj : j ≠ k) : tabGet d (tabSet d m k v) j = tabGet d m j :=
  tabGet_tabSet_ne_from h hj

/-- Two writes of one key leave the second. -/
theorem tabGet_tabSet (h : tabWf d m = true) :
    tabGet d (tabSet d m k v) j = if j = k then v else tabGet d m j := by
  split
  · subst j; exact tabGet_tabSet_same h
  · exact tabGet_tabSet_ne h ‹_›

/-- Keeping the keys that satisfy `p` leaves those as they are and makes the others read as the default. -/
theorem tabGet_filter_from {p : Nat → Bool} (h : tabWfFrom d lo m = true) :
    tabGet d (tabKeep p m) j = if p j then tabGet d m j else d j := by
  induction m generalizing lo with
  | nil => simp [tabKeep, tabGet]
  | cons e m ih =>
    obtain ⟨k', v'⟩ := e
    obtain ⟨h1, h2, h3⟩ := tabWfFrom_cons.1 h
    have ih' : tabGet d (tabKeep p m) j = if p j then tabGet d m j else d j := ih h3
    have hf : tabKeep p ((k', v') :: m) = if p k' then (k', v') :: tabKeep p m else tabKeep p m := by
      simp [tabKeep, List.filter_cons]
    rw [hf]
    by_cases hp : p k' = true
    · rw [if_pos hp]
      simp only [tabGet, ih']
      by_cases hjk : j = k'
      · subst hjk; simp [hp]
      · by_cases hlt : j < k' <;> simp [hjk, hlt]
    · rw [if_neg hp, ih']
      by_cases hjk : j = k'
      · subst hjk; simp [hp]
      · by_cases hlt : j < k'
        · have : tabGet d m j = d j := tabGet_below h3 (by omega)
          simp [tabGet, hjk, hlt, this]
        · simp [tabGet, hjk, hlt]

theorem tabGet_tabKeep {p : Nat → Bool} (h : tabWf d m = true) :
    tabGet d (tabKeep p m) j = if p j then tabGet d m j else d j := tabGet_filter_from h

end Sys2Proof.Machine
end

