-- ==== Sys2Proof/Laws/Keeps.lean ====
section
/-! SUPPORT. The relation every operation of the node keeps: the queue is left alone, and a state in canonical form stays
in canonical form. `Keeps.trans` chains it through a meaning, one lemma per operation; the generated files
`Laws/Keeps*.lean` give that lemma for every operation. -/

set_option Elab.async false

namespace Sys2Proof.Machine

/-- `t` has the queue of `s`, and is sound if `s` is. -/
structure Keeps (s t : State) : Prop where
  queue : t.pending = s.pending
  sound : s.sound = true → t.sound = true

/-- An outcome keeps `s` if every next state it answers does. -/
def OutKeeps (s : State) (o : Out) : Prop := ∀ t, o = .next t → Keeps s t

theorem Keeps.refl (s : State) : Keeps s s := ⟨rfl, id⟩

theorem Keeps.trans {s m t : State} (h : Keeps s m) (g : Keeps m t) : Keeps s t :=
  ⟨g.queue.trans h.queue, fun x => g.sound (h.sound x)⟩

theorem Keeps.trans' {s m t : State} (g : Keeps m t) (h : Keeps s m) : Keeps s t := h.trans g

theorem Keeps.cut {s m t : State} (h : Keeps s m) (g : Keeps s m → Keeps s t) : Keeps s t := g h

theorem Keeps.of_fst {α : Type} {s t : State} {e : State × α} {x : α} (h : e = (t, x)) (g : Keeps s e.1) : Keeps s t := by
  rw [h] at g; exact g

theorem Keeps.of_snd {α : Type} {s t : State} {e : α × State} {x : α} (h : e = (x, t)) (g : Keeps s e.2) : Keeps s t := by
  rw [h] at g; exact g

/-- Where one branch does nothing, only the other counts. -/
theorem Keeps.iteThen {s m t : State} {c : Prop} [Decidable c] (h : Keeps s m) (g : Keeps m t) :
    Keeps s (if c then t else m) := by
  split
  · exact h.trans g
  · exact h

theorem Keeps.iteElse {s m t : State} {c : Prop} [Decidable c] (h : Keeps s m) (g : Keeps m t) :
    Keeps s (if c then m else t) := by
  split
  · exact h
  · exact h.trans g

theorem Keeps.ite {s t u : State} {c : Prop} [Decidable c] (h : Keeps s t) (g : Keeps s u) :
    Keeps s (if c then t else u) := by
  split
  · exact h
  · exact g

theorem OutKeeps.next {s t : State} (h : Keeps s t) : OutKeeps s (.next t) := by
  intro u e; cases e; exact h

theorem OutKeeps.refused {s : State} {r : Refusal} : OutKeeps s (.refused r) := by
  intro u e; cases e

theorem OutKeeps.ite {s : State} {o p : Out} {c : Prop} [Decidable c] (h : OutKeeps s o) (g : OutKeeps s p) :
    OutKeeps s (if c then o else p) := by
  split
  · exact h
  · exact g

theorem OutKeeps.of_keeps {s m : State} {o : Out} (h : Keeps s m) (g : OutKeeps m o) : OutKeeps s o :=
  fun t e => h.trans (g t e)

/-! ### The parts of soundness -/

theorem State.sound_iff (s : State) : s.sound = true ↔
    tabWf resetWord s.regs = true ∧ tabWf resetWord s.mirror = true ∧ s.coreA.wf = true ∧
      s.coreB.wf = true ∧ Memory.wf s.img.imgA.bytes = true ∧ Memory.wf s.img.imgB.bytes = true ∧
      Memory.wf s.pnl.maps = true ∧ tabWf (dflt notScanned) s.live = true ∧ tabWf (dflt crossReset) s.xing = true ∧
      tabWf (dflt chanReset) s.chans = true ∧ tabWf (dflt bankReset) s.banks = true ∧
      tabWf (dflt seqReset) s.seqs = true ∧ tabWf (dflt timerReset) s.timers = true ∧
      tabWf (dflt axisReset) s.axes = true := by
  simp [State.sound, State.regsWf, State.memWf, State.tabsWf, and_assoc]

theorem State.sound.regs {s : State} (h : s.sound = true) : tabWf resetWord s.regs = true :=
  ((State.sound_iff s).1 h).1

theorem State.sound.mirror {s : State} (h : s.sound = true) : tabWf resetWord s.mirror = true :=
  ((State.sound_iff s).1 h).2.1

theorem State.sound.coreA {s : State} (h : s.sound = true) : s.coreA.wf = true :=
  ((State.sound_iff s).1 h).2.2.1

theorem State.sound.coreB {s : State} (h : s.sound = true) : s.coreB.wf = true :=
  ((State.sound_iff s).1 h).2.2.2.1

theorem State.sound.imgA {s : State} (h : s.sound = true) : Memory.wf s.img.imgA.bytes = true :=
  ((State.sound_iff s).1 h).2.2.2.2.1

theorem State.sound.imgB {s : State} (h : s.sound = true) : Memory.wf s.img.imgB.bytes = true :=
  ((State.sound_iff s).1 h).2.2.2.2.2.1

theorem State.sound.maps {s : State} (h : s.sound = true) : Memory.wf s.pnl.maps = true :=
  ((State.sound_iff s).1 h).2.2.2.2.2.2.1

theorem State.sound.live {s : State} (h : s.sound = true) : tabWf (dflt notScanned) s.live = true :=
  ((State.sound_iff s).1 h).2.2.2.2.2.2.2.1

theorem State.sound.xing {s : State} (h : s.sound = true) : tabWf (dflt crossReset) s.xing = true :=
  ((State.sound_iff s).1 h).2.2.2.2.2.2.2.2.1

theorem State.sound.chans {s : State} (h : s.sound = true) : tabWf (dflt chanReset) s.chans = true :=
  ((State.sound_iff s).1 h).2.2.2.2.2.2.2.2.2.1

theorem State.sound.banks {s : State} (h : s.sound = true) : tabWf (dflt bankReset) s.banks = true :=
  ((State.sound_iff s).1 h).2.2.2.2.2.2.2.2.2.2.1

theorem State.sound.seqs {s : State} (h : s.sound = true) : tabWf (dflt seqReset) s.seqs = true :=
  ((State.sound_iff s).1 h).2.2.2.2.2.2.2.2.2.2.2.1

theorem State.sound.timers {s : State} (h : s.sound = true) : tabWf (dflt timerReset) s.timers = true :=
  ((State.sound_iff s).1 h).2.2.2.2.2.2.2.2.2.2.2.2.1

theorem State.sound.axes {s : State} (h : s.sound = true) : tabWf (dflt axisReset) s.axes = true :=
  ((State.sound_iff s).1 h).2.2.2.2.2.2.2.2.2.2.2.2.2

/-! ### Memories -/

theorem memPut_wf {m : Mem} {a : Nat} {l : List Byte} (h : Memory.wf m = true) : Memory.wf (memPut 0 m a l) = true := by
  induction l generalizing m a with
  | nil => exact h
  | cons b l ih => exact ih (tabSet_wf h)

theorem regReset_wfFrom {p : Nat → Bool} {m : RegFile} {lo : Option Nat} (h : tabWfFrom resetWord lo m = true) :
    tabWfFrom resetWord lo (regReset p m) = true := by
  induction m generalizing lo with
  | nil => rfl
  | cons e m ih =>
    obtain ⟨a, v⟩ := e
    obtain ⟨h1, h2, h3⟩ := tabWfFrom_cons.1 h
    simp only [regReset]
    split
    · split
      · exact tabWfFrom_weaken (ih h3) (fun l e => Nat.le_of_lt (h1 l e))
      · rw [tabWfFrom_cons]; exact ⟨h1, ‹_›, ih h3⟩
    · rw [tabWfFrom_cons]; exact ⟨h1, h2, ih h3⟩

/-! ### The state as a record: a change of the other fields -/

/-- A record update that leaves the queue and the tables of `m` alone. -/
theorem Keeps.frame {m : State} {now : Time} {free : Nat} {status : Status} {sup : Sup} {rot : Rot} {epoch : Time}
    {lim : Lim} {trp : Trp} {alm : Alm} {mor : Moraine} {ca cb : Core} {gate : Gate} {dio : Dio} {pnl : Panel} {rtc : Rtc}
    {ring : Ring} {img : Imgs} {rwn : Rante} {tap : Tap} (ha : ca.wf = m.coreA.wf) (hb : cb.wf = m.coreB.wf)
    (hp : pnl.maps = m.pnl.maps) (hi : img.imgA = m.img.imgA) (hj : img.imgB = m.img.imgB) :
    Keeps m { pending := m.pending, now := now, free := free, status := status, regs := m.regs, mirror := m.mirror,
              live := m.live, sup := sup, xing := m.xing, chans := m.chans, banks := m.banks, rot := rot, seqs := m.seqs,
              timers := m.timers, epoch := epoch, lim := lim, trp := trp, alm := alm, mor := mor, coreA := ca, coreB := cb,
              gate := gate, dio := dio, axes := m.axes, pnl := pnl, rtc := rtc, ring := ring, img := img, rwn := rwn,
              tap := tap } := by
  refine ⟨rfl, fun h => ?_⟩
  rw [State.sound_iff] at h ⊢
  simp only [ha, hb, hp, hi, hj]
  exact h

/-- Any record whose tables are in canonical form if those of `m` are. -/
theorem Keeps.record {m : State} {now : Time} {free : Nat} {status : Status} {regs mirror : RegFile}
    {live : List (Nat × Word)} {xing : List (Nat × Cross)} {chans : List (Nat × ChanSt)} {banks : List (Nat × BankSt)}
    {seqs : List (Nat × SeqSt)} {timers : List (Nat × TimerSt)} {axes : List (Nat × AxisSt)} {sup : Sup} {rot : Rot}
    {epoch : Time} {lim : Lim} {trp : Trp} {alm : Alm} {mor : Moraine} {ca cb : Core} {gate : Gate} {dio : Dio}
    {pnl : Panel} {rtc : Rtc} {ring : Ring} {img : Imgs} {rwn : Rante} {tap : Tap}
    (hg : m.sound = true → tabWf resetWord regs = true) (hm : m.sound = true → tabWf resetWord mirror = true)
    (ha : m.sound = true → ca.wf = true) (hb : m.sound = true → cb.wf = true)
    (hi : m.sound = true → Memory.wf img.imgA.bytes = true) (hj : m.sound = true → Memory.wf img.imgB.bytes = true)
    (hp : m.sound = true → Memory.wf pnl.maps = true) (hl : m.sound = true → tabWf (dflt notScanned) live = true)
    (hx : m.sound = true → tabWf (dflt crossReset) xing = true)
    (hc : m.sound = true → tabWf (dflt chanReset) chans = true)
    (hk : m.sound = true → tabWf (dflt bankReset) banks = true) (hs : m.sound = true → tabWf (dflt seqReset) seqs = true)
    (ht : m.sound = true → tabWf (dflt timerReset) timers = true)
    (hy : m.sound = true → tabWf (dflt axisReset) axes = true) :
    Keeps m { pending := m.pending, now := now, free := free, status := status, regs := regs, mirror := mirror,
              live := live, sup := sup, xing := xing, chans := chans, banks := banks, rot := rot, seqs := seqs,
              timers := timers, epoch := epoch, lim := lim, trp := trp, alm := alm, mor := mor, coreA := ca, coreB := cb,
              gate := gate, dio := dio, axes := axes, pnl := pnl, rtc := rtc, ring := ring, img := img, rwn := rwn,
              tap := tap } := by
  refine ⟨rfl, fun h => ?_⟩
  rw [State.sound_iff]
  exact ⟨hg h, hm h, ha h, hb h, hi h, hj h, hp h, hl h, hx h, hc h, hk h, hs h, ht h, hy h⟩

/-! ### One table replaced -/

theorem Keeps.regs_ {m : State} {x : RegFile} (h : m.sound = true → tabWf resetWord x = true) : Keeps m { m with regs := x } :=
  Keeps.record h State.sound.mirror State.sound.coreA State.sound.coreB State.sound.imgA State.sound.imgB State.sound.maps State.sound.live State.sound.xing State.sound.chans State.sound.banks State.sound.seqs State.sound.timers State.sound.axes

theorem Keeps.mirror_ {m : State} {x : RegFile} (h : m.sound = true → tabWf resetWord x = true) : Keeps m { m with mirror := x } :=
  Keeps.record State.sound.regs h State.sound.coreA State.sound.coreB State.sound.imgA State.sound.imgB State.sound.maps State.sound.live State.sound.xing State.sound.chans State.sound.banks State.sound.seqs State.sound.timers State.sound.axes

theorem Keeps.live_ {m : State} {x : List (Nat × Word)} (h : m.sound = true → tabWf (dflt notScanned) x = true) : Keeps m { m with live := x } :=
  Keeps.record State.sound.regs State.sound.mirror State.sound.coreA State.sound.coreB State.sound.imgA State.sound.imgB State.sound.maps h State.sound.xing State.sound.chans State.sound.banks State.sound.seqs State.sound.timers State.sound.axes

theorem Keeps.xing_ {m : State} {x : List (Nat × Cross)} (h : m.sound = true → tabWf (dflt crossReset) x = true) : Keeps m { m with xing := x } :=
  Keeps.record State.sound.regs State.sound.mirror State.sound.coreA State.sound.coreB State.sound.imgA State.sound.imgB State.sound.maps State.sound.live h State.sound.chans State.sound.banks State.sound.seqs State.sound.timers State.sound.axes

theorem Keeps.chans_ {m : State} {x : List (Nat × ChanSt)} (h : m.sound = true → tabWf (dflt chanReset) x = true) : Keeps m { m with chans := x } :=
  Keeps.record State.sound.regs State.sound.mirror State.sound.coreA State.sound.coreB State.sound.imgA State.sound.imgB State.sound.maps State.sound.live State.sound.xing h State.sound.banks State.sound.seqs State.sound.timers State.sound.axes

theorem Keeps.banks_ {m : State} {x : List (Nat × BankSt)} (h : m.sound = true → tabWf (dflt bankReset) x = true) : Keeps m { m with banks := x } :=
  Keeps.record State.sound.regs State.sound.mirror State.sound.coreA State.sound.coreB State.sound.imgA State.sound.imgB State.sound.maps State.sound.live State.sound.xing State.sound.chans h State.sound.seqs State.sound.timers State.sound.axes

theorem Keeps.seqs_ {m : State} {x : List (Nat × SeqSt)} (h : m.sound = true → tabWf (dflt seqReset) x = true) : Keeps m { m with seqs := x } :=
  Keeps.record State.sound.regs State.sound.mirror State.sound.coreA State.sound.coreB State.sound.imgA State.sound.imgB State.sound.maps State.sound.live State.sound.xing State.sound.chans State.sound.banks h State.sound.timers State.sound.axes

theorem Keeps.timers_ {m : State} {x : List (Nat × TimerSt)} (h : m.sound = true → tabWf (dflt timerReset) x = true) : Keeps m { m with timers := x } :=
  Keeps.record State.sound.regs State.sound.mirror State.sound.coreA State.sound.coreB State.sound.imgA State.sound.imgB State.sound.maps State.sound.live State.sound.xing State.sound.chans State.sound.banks State.sound.seqs h State.sound.axes

theorem Keeps.axes_ {m : State} {x : List (Nat × AxisSt)} (h : m.sound = true → tabWf (dflt axisReset) x = true) : Keeps m { m with axes := x } :=
  Keeps.record State.sound.regs State.sound.mirror State.sound.coreA State.sound.coreB State.sound.imgA State.sound.imgB State.sound.maps State.sound.live State.sound.xing State.sound.chans State.sound.banks State.sound.seqs State.sound.timers h

/-! ### Repetition -/

theorem foldl_keeps {α : Type} {f : State → α → State} {o s : State} {l : List α} (k : Keeps o s)
    (h : ∀ s a, Keeps s (f s a)) : Keeps o (l.foldl f s) := by
  induction l generalizing s with
  | nil => exact k
  | cons a l ih => exact ih (k.trans (h s a))

theorem foldl_keeps_fst {α β : Type} {f : State × β → α → State × β} {o : State} {r : State × β} {l : List α}
    (k : Keeps o r.1) (h : ∀ r a, Keeps r.1 (f r a).1) : Keeps o (l.foldl f r).1 := by
  induction l generalizing r with
  | nil => exact k
  | cons a l ih => exact ih (k.trans (h r a))

theorem foldl_keeps_snd {α β : Type} {f : β × State → α → β × State} {o : State} {r : β × State} {l : List α}
    (k : Keeps o r.2) (h : ∀ r a, Keeps r.2 (f r a).2) : Keeps o (l.foldl f r).2 := by
  induction l generalizing r with
  | nil => exact k
  | cons a l ih => exact ih (k.trans (h r a))

theorem foldS_keeps {α : Type} {f : State → α → State} {o s : State} {l : List α} (k : Keeps o s)
    (h : ∀ s a, Keeps s (f s a)) : Keeps o (foldS f s l) := foldl_keeps k h

theorem State.applyIf_keeps {o s : State} {b : Bool} {f : State → State} (k : Keeps o s) (h : ∀ s, Keeps s (f s)) :
    Keeps o (s.applyIf b f) := by
  unfold State.applyIf
  split
  · exact k.trans (h s)
  · exact k

end Sys2Proof.Machine
end

