-- ==== Sys2Proof/Laws/KeepsOps.lean ====
section
/-! SUPPORT. Every operation of `Machine/Ops.lean` keeps the queue and the canonical forms. -/

set_option linter.all false
set_option Elab.async false
set_option maxHeartbeats 60000

namespace Sys2Proof.Machine

theorem State.setSup_keeps {o s x} (h : Keeps o s) : Keeps o (State.setSup s x) := h.trans (Keeps.frame rfl rfl rfl rfl rfl)

theorem State.setRotating_keeps {o s x} (h : Keeps o s) : Keeps o (State.setRotating s x) := h.trans (Keeps.frame rfl rfl rfl rfl rfl)

theorem State.setLim_keeps {o s x} (h : Keeps o s) : Keeps o (State.setLim s x) := h.trans (Keeps.frame rfl rfl rfl rfl rfl)

theorem State.setTrp_keeps {o s x} (h : Keeps o s) : Keeps o (State.setTrp s x) := h.trans (Keeps.frame rfl rfl rfl rfl rfl)

theorem State.setAlm_keeps {o s x} (h : Keeps o s) : Keeps o (State.setAlm s x) := h.trans (Keeps.frame rfl rfl rfl rfl rfl)

theorem State.setMor_keeps {o s x} (h : Keeps o s) : Keeps o (State.setMor s x) := h.trans (Keeps.frame rfl rfl rfl rfl rfl)

theorem State.setGate_keeps {o s x} (h : Keeps o s) : Keeps o (State.setGate s x) := h.trans (Keeps.frame rfl rfl rfl rfl rfl)

theorem State.setDio_keeps {o s x} (h : Keeps o s) : Keeps o (State.setDio s x) := h.trans (Keeps.frame rfl rfl rfl rfl rfl)

theorem State.setRtc_keeps {o s x} (h : Keeps o s) : Keeps o (State.setRtc s x) := h.trans (Keeps.frame rfl rfl rfl rfl rfl)

theorem State.setRing_keeps {o s x} (h : Keeps o s) : Keeps o (State.setRing s x) := h.trans (Keeps.frame rfl rfl rfl rfl rfl)

theorem State.setRwn_keeps {o s x} (h : Keeps o s) : Keeps o (State.setRwn s x) := h.trans (Keeps.frame rfl rfl rfl rfl rfl)

theorem State.setTap_keeps {o s x} (h : Keeps o s) : Keeps o (State.setTap s x) := h.trans (Keeps.frame rfl rfl rfl rfl rfl)

theorem State.setFree_keeps {o s x} (h : Keeps o s) : Keeps o (State.setFree s x) := h.trans (Keeps.frame rfl rfl rfl rfl rfl)

theorem State.setEpoch_keeps {o s x} (h : Keeps o s) : Keeps o (State.setEpoch s x) := h.trans (Keeps.frame rfl rfl rfl rfl rfl)

theorem State.setNow_keeps {o s x} (h : Keeps o s) : Keeps o (State.setNow s x) := h.trans (Keeps.frame rfl rfl rfl rfl rfl)

theorem State.setPanel_same {o s : State} {x : Panel} (k : Keeps o s) (h : x.maps = s.pnl.maps) :
    Keeps o (s.setPanel x) := k.trans (Keeps.frame rfl rfl h rfl rfl)

theorem State.setImg_same {o s : State} {x : Imgs} (k : Keeps o s) (h : x.imgA = s.img.imgA)
    (g : x.imgB = s.img.imgB) : Keeps o (s.setImg x) := k.trans (Keeps.frame rfl rfl rfl h g)

theorem State.setPanel_keeps {o s : State} {x : Panel} (k : Keeps o s) (h : s.sound = true → Memory.wf x.maps = true) :
    Keeps o (s.setPanel x) :=
  k.trans (Keeps.record State.sound.regs State.sound.mirror State.sound.coreA State.sound.coreB State.sound.imgA
    State.sound.imgB h State.sound.live State.sound.xing State.sound.chans State.sound.banks State.sound.seqs
    State.sound.timers State.sound.axes)

theorem State.setImg_keeps {o s : State} {x : Imgs} (k : Keeps o s) (h : s.sound = true → Memory.wf x.imgA.bytes = true)
    (g : s.sound = true → Memory.wf x.imgB.bytes = true) : Keeps o (s.setImg x) :=
  k.trans (Keeps.record State.sound.regs State.sound.mirror State.sound.coreA State.sound.coreB h g
    State.sound.maps State.sound.live State.sound.xing State.sound.chans State.sound.banks State.sound.seqs
    State.sound.timers State.sound.axes)

theorem State.setRegs_keeps {o s : State} {x : RegFile} (k : Keeps o s)
    (h : s.sound = true → tabWf resetWord x = true) : Keeps o (s.setRegs x) := k.trans (Keeps.regs_ h)

theorem State.setMirror_keeps {o s : State} {x : RegFile} (k : Keeps o s)
    (h : s.sound = true → tabWf resetWord x = true) : Keeps o (s.setMirror x) := k.trans (Keeps.mirror_ h)

/-- The registers kept by `p`. -/
theorem State.setRegs_kept {o s : State} {p : Nat → Bool} (k : Keeps o s) :
    Keeps o (s.setRegs (tabKeep p s.regs)) := State.setRegs_keeps k fun h => tabKeep_wf (State.sound.regs h)

theorem State.setRegs_replaced {o s : State} {p : Nat → Bool} {l : List (Nat × Word)} (k : Keeps o s) :
    Keeps o (s.setRegs (tabSetAll resetWord (tabKeep p s.regs) l)) :=
  State.setRegs_keeps k fun h => tabSetAll_wf (tabKeep_wf (State.sound.regs h))

theorem State.dropSeqs_keeps {o s} (k : Keeps o s) : Keeps o (State.dropSeqs s) :=
  k.trans ((Keeps.seqs_ (x := []) fun _ => rfl).trans (Keeps.timers_ (x := []) fun _ => rfl))

theorem State.dropChans_keeps {o s} (k : Keeps o s) : Keeps o (State.dropChans s) :=
  k.trans ((Keeps.chans_ (x := []) fun _ => rfl).trans (Keeps.live_ (x := []) fun _ => rfl))

theorem State.keepCrossings_keeps {o s p} (k : Keeps o s) : Keeps o (State.keepCrossings s p) := k.trans (Keeps.xing_ fun h => tabKeep_wf (State.sound.xing h))

theorem State.wr_keeps {o s a v} (k : Keeps o s) : Keeps o (State.wr s a v) := k.trans (Keeps.regs_ fun h => tabSet_wf (State.sound.regs h))

theorem State.setFld_keeps {st0 s a f v} (hk : Keeps st0 s) : Keeps st0 (State.setFld s a f v) := by
  refine hk.trans ?_; clear hk
  unfold State.setFld
  repeat' first
    | with_reducible apply Keeps.refl
    | with_reducible assumption
    | with_reducible apply State.wr_keeps
    | intro _
    | split
    | dsimp -zeta only

theorem State.setSfld_keeps {st0 s a f v} (hk : Keeps st0 s) : Keeps st0 (State.setSfld s a f v) := by
  refine hk.trans ?_; clear hk
  unfold State.setSfld
  repeat' first
    | with_reducible apply Keeps.refl
    | with_reducible assumption
    | with_reducible apply State.setFld_keeps
    | intro _
    | split
    | dsimp -zeta only

theorem State.setFlag_keeps {st0 s a f b} (hk : Keeps st0 s) : Keeps st0 (State.setFlag s a f b) := by
  refine hk.trans ?_; clear hk
  unfold State.setFlag
  repeat' first
    | with_reducible apply Keeps.refl
    | with_reducible assumption
    | with_reducible apply State.setFld_keeps
    | intro _
    | split
    | dsimp -zeta only

theorem State.setAbit_keeps {st0 s a n b} (hk : Keeps st0 s) : Keeps st0 (State.setAbit s a n b) := by
  refine hk.trans ?_; clear hk
  unfold State.setAbit
  repeat' first
    | with_reducible apply Keeps.refl
    | with_reducible assumption
    | with_reducible apply State.wr_keeps
    | intro _
    | split
    | dsimp -zeta only

theorem State.addFld_keeps {st0 s a f k} (hk : Keeps st0 s) : Keeps st0 (State.addFld s a f k) := by
  refine hk.trans ?_; clear hk
  unfold State.addFld
  repeat' first
    | with_reducible apply Keeps.refl
    | with_reducible assumption
    | with_reducible apply State.setFld_keeps
    | intro _
    | split
    | dsimp -zeta only

theorem State.countSat_keeps {st0 s a f k} (hk : Keeps st0 s) : Keeps st0 (State.countSat s a f k) := by
  refine hk.trans ?_; clear hk
  unfold State.countSat
  repeat' first
    | with_reducible apply Keeps.refl
    | with_reducible assumption
    | with_reducible apply State.setFld_keeps
    | intro _
    | split
    | dsimp -zeta only

theorem State.wrAll_keeps {o s l} (k : Keeps o s) : Keeps o (State.wrAll s l) := k.trans (Keeps.regs_ fun h => tabSetAll_wf (State.sound.regs h))

theorem State.atTime_keeps {st0 s t} (hk : Keeps st0 s) : Keeps st0 (State.atTime s t) := by
  refine hk.trans ?_; clear hk
  unfold State.atTime
  repeat' first
    | with_reducible apply Keeps.refl
    | with_reducible assumption
    | with_reducible apply State.setNow_keeps
    | intro _
    | split
    | dsimp -zeta only

theorem State.answer_keeps {o s r} (h : Keeps o s) : Keeps o (State.answer s r) := h.trans (Keeps.frame rfl rfl rfl rfl rfl)

theorem State.freshWord_keeps {st0 s} (hk : Keeps st0 s) : Keeps st0 (State.freshWord s).2 := by
  refine hk.trans ?_; clear hk
  unfold State.freshWord
  repeat' first
    | with_reducible apply Keeps.refl
    | with_reducible assumption
    | with_reducible apply State.setFree_keeps
    | intro _
    | split
    | dsimp -zeta only

theorem State.freshQ_keeps {st0 s} (hk : Keeps st0 s) : Keeps st0 (State.freshQ s).2 := by
  refine hk.trans ?_; clear hk
  unfold State.freshQ
  repeat' first
    | with_reducible apply Keeps.refl
    | with_reducible assumption
    | with_reducible apply State.setFree_keeps
    | intro _
    | split
    | dsimp -zeta only

theorem State.measureReg_keeps {st0 s a} (hk : Keeps st0 s) : Keeps st0 (State.measureReg s a) := by
  refine hk.trans ?_; clear hk
  unfold State.measureReg
  repeat' first
    | with_reducible apply Keeps.refl
    | with_reducible assumption
    | (extract_lets +onlyGivenNames a
       first
       | (refine Keeps.cut (m := a) ?_ ?_
          on_goal 2 => (clear_value a; intro _)
          on_goal 1 => (dsimp -zeta only [a]; clear a))
       | (refine Keeps.cut (m := a.2) ?_ ?_
          on_goal 2 => (clear_value a; intro _)
          on_goal 1 => (dsimp -zeta only [a]; clear a))
       | (refine Keeps.cut (m := a.1) ?_ ?_
          on_goal 2 => (clear_value a; intro _)
          on_goal 1 => (dsimp -zeta only [a]; clear a))
       | subst a)
    | with_reducible apply State.wr_keeps
    | with_reducible apply State.freshWord_keeps
    | intro _
    | split
    | dsimp -zeta only

theorem State.setSeq_keeps {o s n x} (k : Keeps o s) : Keeps o (State.setSeq s n x) := k.trans (Keeps.seqs_ fun h => tabSet_wf (State.sound.seqs h))

theorem State.putStamp_keeps {st0 s q t settled} (hk : Keeps st0 s) : Keeps st0 (State.putStamp s q t settled) := by
  refine hk.trans ?_; clear hk
  unfold State.putStamp
  repeat' first
    | with_reducible apply Keeps.refl
    | with_reducible assumption
    | (extract_lets +onlyGivenNames a
       first
       | (refine Keeps.cut (m := a) ?_ ?_
          on_goal 2 => (clear_value a; intro _)
          on_goal 1 => (dsimp -zeta only [a]; clear a))
       | (refine Keeps.cut (m := a.2) ?_ ?_
          on_goal 2 => (clear_value a; intro _)
          on_goal 1 => (dsimp -zeta only [a]; clear a))
       | (refine Keeps.cut (m := a.1) ?_ ?_
          on_goal 2 => (clear_value a; intro _)
          on_goal 1 => (dsimp -zeta only [a]; clear a))
       | subst a)
    | with_reducible apply State.setSeq_keeps
    | with_reducible apply State.wrAll_keeps
    | intro _
    | split
    | dsimp -zeta only

theorem State.stampAt_keeps {st0 s q d t} (hk : Keeps st0 s) : Keeps st0 (State.stampAt s q d t) := by
  refine hk.trans ?_; clear hk
  unfold State.stampAt
  repeat' first
    | with_reducible apply Keeps.refl
    | with_reducible assumption
    | with_reducible apply State.putStamp_keeps
    | intro _
    | split
    | dsimp -zeta only

theorem State.chkMarks_keeps {st0 s q} (hk : Keeps st0 s) : Keeps st0 (State.chkMarks s q) := by
  refine hk.trans ?_; clear hk
  unfold State.chkMarks
  repeat' first
    | with_reducible apply Keeps.refl
    | with_reducible assumption
    | (extract_lets +onlyGivenNames a
       first
       | (refine Keeps.cut (m := a) ?_ ?_
          on_goal 2 => (clear_value a; intro _)
          on_goal 1 => (dsimp -zeta only [a]; clear a))
       | (refine Keeps.cut (m := a.2) ?_ ?_
          on_goal 2 => (clear_value a; intro _)
          on_goal 1 => (dsimp -zeta only [a]; clear a))
       | (refine Keeps.cut (m := a.1) ?_ ?_
          on_goal 2 => (clear_value a; intro _)
          on_goal 1 => (dsimp -zeta only [a]; clear a))
       | subst a)
    | with_reducible apply State.stampAt_keeps
    | with_reducible apply State.setSeq_keeps
    | with_reducible apply foldS_keeps
    | ((with_reducible apply Keeps.of_snd); on_goal 1 => with_reducible assumption)
    | ((with_reducible apply Keeps.of_fst); on_goal 1 => with_reducible assumption)
    | intro _
    | split
    | dsimp -zeta only

theorem State.testSteps_keeps {st0 s} (hk : Keeps st0 s) : Keeps st0 (State.testSteps s) := by
  refine hk.trans ?_; clear hk
  unfold State.testSteps
  repeat' first
    | with_reducible apply Keeps.refl
    | with_reducible assumption
    | (extract_lets +onlyGivenNames a
       first
       | (refine Keeps.cut (m := a) ?_ ?_
          on_goal 2 => (clear_value a; intro _)
          on_goal 1 => (dsimp -zeta only [a]; clear a))
       | (refine Keeps.cut (m := a.2) ?_ ?_
          on_goal 2 => (clear_value a; intro _)
          on_goal 1 => (dsimp -zeta only [a]; clear a))
       | (refine Keeps.cut (m := a.1) ?_ ?_
          on_goal 2 => (clear_value a; intro _)
          on_goal 1 => (dsimp -zeta only [a]; clear a))
       | subst a)
    | with_reducible apply State.setFld_keeps
    | with_reducible apply State.freshWord_keeps
    | intro _
    | split
    | dsimp -zeta only

theorem State.measure_keeps {st0 s a} (hk : Keeps st0 s) : Keeps st0 (State.measure s a) := by
  refine hk.trans ?_; clear hk
  unfold State.measure
  repeat' first
    | with_reducible apply Keeps.refl
    | with_reducible assumption
    | with_reducible apply State.testSteps_keeps
    | with_reducible apply State.chkMarks_keeps
    | with_reducible apply State.measureReg_keeps
    | ((with_reducible apply Keeps.of_snd); on_goal 1 => with_reducible assumption)
    | ((with_reducible apply Keeps.of_fst); on_goal 1 => with_reducible assumption)
    | intro _
    | split
    | dsimp -zeta only

theorem State.raiseT_keeps {st0 s x} (hk : Keeps st0 s) : Keeps st0 (State.raiseT s x) := by
  refine hk.trans ?_; clear hk
  unfold State.raiseT
  repeat' first
    | with_reducible apply Keeps.refl
    | with_reducible assumption
    | with_reducible apply State.setMor_keeps
    | intro _
    | split
    | dsimp -zeta only

theorem State.raise_keeps {st0 s code source data} (hk : Keeps st0 s) : Keeps st0 (State.raise s code source data) := by
  refine hk.trans ?_; clear hk
  unfold State.raise
  repeat' first
    | with_reducible apply Keeps.refl
    | with_reducible assumption
    | with_reducible apply State.raiseT_keeps
    | intro _
    | split
    | dsimp -zeta only

theorem State.raiseF_keeps {st0 s code source data flag} (hk : Keeps st0 s) : Keeps st0 (State.raiseF s code source data flag) := by
  refine hk.trans ?_; clear hk
  unfold State.raiseF
  repeat' first
    | with_reducible apply Keeps.refl
    | with_reducible assumption
    | with_reducible apply State.raiseT_keeps
    | intro _
    | split
    | dsimp -zeta only

theorem State.raiseS_keeps {st0 s code source data flag sev} (hk : Keeps st0 s) : Keeps st0 (State.raiseS s code source data flag sev) := by
  refine hk.trans ?_; clear hk
  unfold State.raiseS
  repeat' first
    | with_reducible apply Keeps.refl
    | with_reducible assumption
    | with_reducible apply State.raiseT_keeps
    | intro _
    | split
    | dsimp -zeta only

theorem State.resetRegs_keeps {o s p} (k : Keeps o s) : Keeps o (State.resetRegs s p) := k.trans (Keeps.regs_ fun h => regReset_wfFrom (State.sound.regs h))

end Sys2Proof.Machine
end

