-- ==== Sys2Proof/Laws/KeepsClaims.lean ====
section
/-! SUPPORT. Every operation of `Machine/Claims.lean` keeps the queue and the canonical forms. -/

set_option linter.all false
set_option Elab.async false
set_option maxHeartbeats 60000

namespace Sys2Proof.Machine

theorem State.noteLk_keeps {st0 s} (hk : Keeps st0 s) : Keeps st0 (State.noteLk s) := by
  refine hk.trans ?_; clear hk
  unfold State.noteLk
  repeat' first
    | with_reducible apply Keeps.refl
    | with_reducible assumption
    | with_reducible apply State.setSup_keeps
    | intro _
    | split
    | dsimp -zeta only

theorem State.closedAnswer_keeps {st0 s a v} (hk : Keeps st0 s) : Keeps st0 (State.closedAnswer s a v) := by
  refine hk.trans ?_; clear hk
  unfold State.closedAnswer
  repeat' first
    | with_reducible apply Keeps.refl
    | with_reducible assumption
    | with_reducible apply State.answer_keeps
    | intro _
    | split
    | dsimp -zeta only

theorem State.setOwner_keeps {st0 s r own} (hk : Keeps st0 s) : Keeps st0 (State.setOwner s r own) := by
  refine hk.trans ?_; clear hk
  unfold State.setOwner
  repeat' first
    | with_reducible apply Keeps.refl
    | with_reducible assumption
    | with_reducible apply State.setFld_keeps
    | intro _
    | split
    | dsimp -zeta only

theorem State.refuseClaim_keeps {st0 s r own} (hk : Keeps st0 s) : Keeps st0 (State.refuseClaim s r own) := by
  refine hk.trans ?_; clear hk
  unfold State.refuseClaim
  repeat' first
    | with_reducible apply Keeps.refl
    | with_reducible assumption
    | (extract_lets +onlyGivenNames a
       first
       | (refine Keeps.cut (m := a) ?_ ?_
          on_goal 2 => (clear_value a; intro _)
          on_goal 1 => (dsimp -zeta only [a]; clear a))
       | (refine Keeps.cut (m := a.2) ?_ ?_
          on_goal 2 => (clear_value a; intro _)
          on_goal 1 => (dsimp -zeta only [a]; clear a))
       | (refine Keeps.cut (m := a.1) ?_ ?_
          on_goal 2 => (clear_value a; intro _)
          on_goal 1 => (dsimp -zeta only [a]; clear a))
       | subst a)
    | with_reducible apply State.wr_keeps
    | with_reducible apply State.raise_keeps
    | intro _
    | split
    | dsimp -zeta only

theorem State.claimAll_keeps {st0 s rs own} (hk : Keeps st0 s) : Keeps st0 (State.claimAll s rs own).2 := by
  refine hk.trans ?_; clear hk
  unfold State.claimAll
  repeat' first
    | with_reducible apply Keeps.refl
    | with_reducible assumption
    | with_reducible apply State.refuseClaim_keeps
    | with_reducible apply State.setOwner_keeps
    | with_reducible apply foldS_keeps
    | ((with_reducible apply Keeps.of_snd); on_goal 1 => with_reducible assumption)
    | ((with_reducible apply Keeps.of_fst); on_goal 1 => with_reducible assumption)
    | intro _
    | split
    | dsimp -zeta only

theorem State.releaseClaims_keeps {st0 s own} (hk : Keeps st0 s) : Keeps st0 (State.releaseClaims s own) := by
  refine hk.trans ?_; clear hk
  unfold State.releaseClaims
  repeat' first
    | with_reducible apply Keeps.refl
    | with_reducible assumption
    | with_reducible apply State.setOwner_keeps
    | with_reducible apply foldS_keeps
    | ((with_reducible apply Keeps.of_snd); on_goal 1 => with_reducible assumption)
    | ((with_reducible apply Keeps.of_fst); on_goal 1 => with_reducible assumption)
    | intro _
    | split
    | dsimp -zeta only

end Sys2Proof.Machine
end

