-- ==== Sys2Proof/Laws/KeepsSwitching.lean ====
section
/-! SUPPORT. Every operation of `Machine/Switching.lean` keeps the queue and the canonical forms. -/

set_option linter.all false
set_option Elab.async false
set_option maxHeartbeats 60000

namespace Sys2Proof.Machine

theorem State.setOut_keeps {st0 s n x} (hk : Keeps st0 s) : Keeps st0 (State.setOut s n x) := by
  refine hk.trans ?_; clear hk
  unfold State.setOut
  repeat' first
    | with_reducible apply Keeps.refl
    | with_reducible assumption
    | with_reducible apply State.setDio_keeps
    | intro _
    | split
    | dsimp -zeta only

theorem State.endPulse_keeps {st0 s n} (hk : Keeps st0 s) : Keeps st0 (State.endPulse s n) := by
  refine hk.trans ?_; clear hk
  unfold State.endPulse
  repeat' first
    | with_reducible apply Keeps.refl
    | with_reducible assumption
    | (extract_lets +onlyGivenNames a
       first
       | (refine Keeps.cut (m := a) ?_ ?_
          on_goal 2 => (clear_value a; intro _)
          on_goal 1 => (dsimp -zeta only [a]; clear a))
       | (refine Keeps.cut (m := a.2) ?_ ?_
          on_goal 2 => (clear_value a; intro _)
          on_goal 1 => (dsimp -zeta only [a]; clear a))
       | (refine Keeps.cut (m := a.1) ?_ ?_
          on_goal 2 => (clear_value a; intro _)
          on_goal 1 => (dsimp -zeta only [a]; clear a))
       | subst a)
    | with_reducible apply State.setOut_keeps
    | intro _
    | split
    | dsimp -zeta only

theorem State.putLive_keeps {st0 s k b v} (hk : Keeps st0 s) : Keeps st0 (State.putLive s k b v) := by
  refine hk.trans ?_; clear hk
  unfold State.putLive
  repeat' first
    | with_reducible apply Keeps.refl
    | with_reducible assumption
    | with_reducible apply State.wr_keeps
    | intro _
    | split
    | dsimp -zeta only

theorem State.endLatchoff_keeps {st0 s n} (hk : Keeps st0 s) : Keeps st0 (State.endLatchoff s n) := by
  refine hk.trans ?_; clear hk
  unfold State.endLatchoff
  repeat' first
    | with_reducible apply Keeps.refl
    | with_reducible assumption
    | with_reducible apply State.putLive_keeps
    | with_reducible apply foldS_keeps
    | ((with_reducible apply Keeps.of_snd); on_goal 1 => with_reducible assumption)
    | ((with_reducible apply Keeps.of_fst); on_goal 1 => with_reducible assumption)
    | intro _
    | split
    | dsimp -zeta only

theorem State.putDrive_keeps {st0 s n r} (hk : Keeps st0 s) : Keeps st0 (State.putDrive s n r) := by
  refine hk.trans ?_; clear hk
  unfold State.putDrive
  repeat' first
    | with_reducible apply Keeps.refl
    | with_reducible assumption
    | (extract_lets +onlyGivenNames a
       first
       | (refine Keeps.cut (m := a) ?_ ?_
          on_goal 2 => (clear_value a; intro _)
          on_goal 1 => (dsimp -zeta only [a]; clear a))
       | (refine Keeps.cut (m := a.2) ?_ ?_
          on_goal 2 => (clear_value a; intro _)
          on_goal 1 => (dsimp -zeta only [a]; clear a))
       | (refine Keeps.cut (m := a.1) ?_ ?_
          on_goal 2 => (clear_value a; intro _)
          on_goal 1 => (dsimp -zeta only [a]; clear a))
       | subst a)
    | with_reducible apply State.setOut_keeps
    | with_reducible apply State.setFld_keeps
    | with_reducible apply State.setFlag_keeps
    | intro _
    | split
    | dsimp -zeta only

theorem State.decideDo_keeps {st0 s n} (hk : Keeps st0 s) : Keeps st0 (State.decideDo s n) := by
  refine hk.trans ?_; clear hk
  unfold State.decideDo
  repeat' first
    | with_reducible apply Keeps.refl
    | with_reducible assumption
    | (extract_lets +onlyGivenNames a
       first
       | (refine Keeps.cut (m := a) ?_ ?_
          on_goal 2 => (clear_value a; intro _)
          on_goal 1 => (dsimp -zeta only [a]; clear a))
       | (refine Keeps.cut (m := a.2) ?_ ?_
          on_goal 2 => (clear_value a; intro _)
          on_goal 1 => (dsimp -zeta only [a]; clear a))
       | (refine Keeps.cut (m := a.1) ?_ ?_
          on_goal 2 => (clear_value a; intro _)
          on_goal 1 => (dsimp -zeta only [a]; clear a))
       | subst a)
    | with_reducible apply State.endPulse_keeps
    | with_reducible apply State.endLatchoff_keeps
    | with_reducible apply State.putDrive_keeps
    | with_reducible apply foldS_keeps
    | ((with_reducible apply Keeps.of_snd); on_goal 1 => with_reducible assumption)
    | ((with_reducible apply Keeps.of_fst); on_goal 1 => with_reducible assumption)
    | intro _
    | split
    | dsimp -zeta only

theorem State.refreshDo_keeps {st0 s n} (hk : Keeps st0 s) : Keeps st0 (State.refreshDo s n) := by
  refine hk.trans ?_; clear hk
  unfold State.refreshDo
  repeat' first
    | with_reducible apply Keeps.refl
    | with_reducible assumption
    | with_reducible apply State.decideDo_keeps
    | intro _
    | split
    | dsimp -zeta only

theorem State.refreshAll_keeps {st0 s} (hk : Keeps st0 s) : Keeps st0 (State.refreshAll s) := by
  refine hk.trans ?_; clear hk
  unfold State.refreshAll
  repeat' first
    | with_reducible apply Keeps.refl
    | with_reducible assumption
    | with_reducible apply State.refreshDo_keeps
    | with_reducible apply foldS_keeps
    | intro _
    | split
    | dsimp -zeta only

theorem State.noteApplied_keeps {st0 s} (hk : Keeps st0 s) : Keeps st0 (State.noteApplied s) := by
  refine hk.trans ?_; clear hk
  unfold State.noteApplied
  repeat' first
    | with_reducible apply Keeps.refl
    | with_reducible assumption
    | with_reducible apply State.refreshAll_keeps
    | with_reducible apply State.setGate_keeps
    | intro _
    | split
    | dsimp -zeta only

theorem State.putCommanded_keeps {st0 s n on} (hk : Keeps st0 s) : Keeps st0 (State.putCommanded s n on) := by
  refine hk.trans ?_; clear hk
  unfold State.putCommanded
  repeat' first
    | with_reducible apply Keeps.refl
    | with_reducible assumption
    | (extract_lets +onlyGivenNames a
       first
       | (refine Keeps.cut (m := a) ?_ ?_
          on_goal 2 => (clear_value a; intro _)
          on_goal 1 => (dsimp -zeta only [a]; clear a))
       | (refine Keeps.cut (m := a.2) ?_ ?_
          on_goal 2 => (clear_value a; intro _)
          on_goal 1 => (dsimp -zeta only [a]; clear a))
       | (refine Keeps.cut (m := a.1) ?_ ?_
          on_goal 2 => (clear_value a; intro _)
          on_goal 1 => (dsimp -zeta only [a]; clear a))
       | subst a)
    | with_reducible apply State.setFlag_keeps
    | with_reducible apply State.setDio_keeps
    | intro _
    | split
    | dsimp -zeta only

theorem State.setCommanded_keeps {st0 s n on} (hk : Keeps st0 s) : Keeps st0 (State.setCommanded s n on) := by
  refine hk.trans ?_; clear hk
  unfold State.setCommanded
  repeat' first
    | with_reducible apply Keeps.refl
    | with_reducible assumption
    | with_reducible apply State.putCommanded_keeps
    | with_reducible apply foldS_keeps
    | ((with_reducible apply Keeps.of_snd); on_goal 1 => with_reducible assumption)
    | ((with_reducible apply Keeps.of_fst); on_goal 1 => with_reducible assumption)
    | intro _
    | split
    | dsimp -zeta only

theorem State.doSet_keeps {st0 s n on} (hk : Keeps st0 s) : Keeps st0 (State.doSet s n on) := by
  refine hk.trans ?_; clear hk
  unfold State.doSet
  repeat' first
    | with_reducible apply Keeps.refl
    | with_reducible assumption
    | with_reducible apply State.answer_keeps
    | with_reducible apply State.refreshDo_keeps
    | with_reducible apply State.setCommanded_keeps
    | with_reducible apply State.noteApplied_keeps
    | intro _
    | split
    | dsimp -zeta only

theorem State.counterReset_keeps {st0 s n} (hk : Keeps st0 s) : Keeps st0 (State.counterReset s n) := by
  refine hk.trans ?_; clear hk
  unfold State.counterReset
  repeat' first
    | with_reducible apply Keeps.refl
    | with_reducible assumption
    | with_reducible apply State.answer_keeps
    | with_reducible apply State.wr_keeps
    | intro _
    | split
    | dsimp -zeta only

theorem execDoSet_keeps {n on t s} : OutKeeps s (execDoSet n on t s) := by
  unfold execDoSet
  repeat' first
    | with_reducible apply Keeps.refl
    | with_reducible assumption
    | with_reducible apply OutKeeps.refused
    | with_reducible apply OutKeeps.next
    | with_reducible apply State.doSet_keeps
    | with_reducible apply State.atTime_keeps
    | with_reducible apply OutKeeps.ite
    | intro _
    | split
    | dsimp -zeta only

theorem execCounterReset_keeps {n s} : OutKeeps s (execCounterReset n s) := by
  unfold execCounterReset
  repeat' first
    | with_reducible apply Keeps.refl
    | with_reducible assumption
    | with_reducible apply OutKeeps.refused
    | with_reducible apply OutKeeps.next
    | with_reducible apply State.counterReset_keeps
    | with_reducible apply OutKeeps.ite
    | intro _
    | split
    | dsimp -zeta only

theorem State.receiveDi_keeps {st0 s n b} (hk : Keeps st0 s) : Keeps st0 (State.receiveDi s n b) := by
  refine hk.trans ?_; clear hk
  unfold State.receiveDi
  repeat' first
    | with_reducible apply Keeps.refl
    | with_reducible assumption
    | (extract_lets +onlyGivenNames a
       first
       | (refine Keeps.cut (m := a) ?_ ?_
          on_goal 2 => (clear_value a; intro _)
          on_goal 1 => (dsimp -zeta only [a]; clear a))
       | (refine Keeps.cut (m := a.2) ?_ ?_
          on_goal 2 => (clear_value a; intro _)
          on_goal 1 => (dsimp -zeta only [a]; clear a))
       | (refine Keeps.cut (m := a.1) ?_ ?_
          on_goal 2 => (clear_value a; intro _)
          on_goal 1 => (dsimp -zeta only [a]; clear a))
       | subst a)
    | with_reducible apply State.setAlm_keeps
    | intro _
    | split
    | dsimp -zeta only

theorem State.putDist_keeps {st0 s n b} (hk : Keeps st0 s) : Keeps st0 (State.putDist s n b) := by
  refine hk.trans ?_; clear hk
  unfold State.putDist
  repeat' first
    | with_reducible apply Keeps.refl
    | with_reducible assumption
    | with_reducible apply State.receiveDi_keeps
    | with_reducible apply State.setAbit_keeps
    | intro _
    | split
    | dsimp -zeta only

theorem State.filterPass_keeps {st0 s n lvl} (hk : Keeps st0 s) : Keeps st0 (State.filterPass s n lvl) := by
  refine hk.trans ?_; clear hk
  unfold State.filterPass
  repeat' first
    | with_reducible apply Keeps.refl
    | with_reducible assumption
    | (extract_lets +onlyGivenNames a
       first
       | (refine Keeps.cut (m := a) ?_ ?_
          on_goal 2 => (clear_value a; intro _)
          on_goal 1 => (dsimp -zeta only [a]; clear a))
       | (refine Keeps.cut (m := a.2) ?_ ?_
          on_goal 2 => (clear_value a; intro _)
          on_goal 1 => (dsimp -zeta only [a]; clear a))
       | (refine Keeps.cut (m := a.1) ?_ ?_
          on_goal 2 => (clear_value a; intro _)
          on_goal 1 => (dsimp -zeta only [a]; clear a))
       | subst a)
    | with_reducible apply State.setDio_keeps
    | with_reducible apply State.putDist_keeps
    | with_reducible apply State.setAbit_keeps
    | intro _
    | split
    | dsimp -zeta only

theorem execDiFilterChange_keeps {n lvl t s} : OutKeeps s (execDiFilterChange n lvl t s) := by
  unfold execDiFilterChange
  repeat' first
    | with_reducible apply Keeps.refl
    | with_reducible assumption
    | with_reducible apply OutKeeps.refused
    | with_reducible apply OutKeeps.next
    | with_reducible apply State.filterPass_keeps
    | with_reducible apply State.atTime_keeps
    | with_reducible apply OutKeeps.ite
    | intro _
    | split
    | dsimp -zeta only

theorem execDiCountEdge_keeps {n rising s} : OutKeeps s (execDiCountEdge n rising s) := by
  unfold execDiCountEdge
  repeat' first
    | with_reducible apply Keeps.refl
    | with_reducible assumption
    | with_reducible apply OutKeeps.refused
    | with_reducible apply OutKeeps.next
    | with_reducible apply State.wr_keeps
    | with_reducible apply OutKeeps.ite
    | intro _
    | split
    | dsimp -zeta only

theorem State.toMirror_keeps {o s as} (h : Keeps o s) : Keeps o (State.toMirror s as) := by
  unfold State.toMirror
  split
  · exact State.setMirror_keeps h fun g => tabSetAll_wf (State.sound.mirror g)
  · exact h

theorem State.mirrorPd5_keeps {st0 s} (hk : Keeps st0 s) : Keeps st0 (State.mirrorPd5 s) := by
  refine hk.trans ?_; clear hk
  unfold State.mirrorPd5
  repeat' first
    | with_reducible apply Keeps.refl
    | with_reducible assumption
    | with_reducible apply State.toMirror_keeps
    | intro _
    | split
    | dsimp -zeta only

theorem State.mirrorCounters_keeps {st0 s} (hk : Keeps st0 s) : Keeps st0 (State.mirrorCounters s) := by
  refine hk.trans ?_; clear hk
  unfold State.mirrorCounters
  repeat' first
    | with_reducible apply Keeps.refl
    | with_reducible assumption
    | with_reducible apply State.toMirror_keeps
    | intro _
    | split
    | dsimp -zeta only

theorem execCounterMirror_keeps {s} : OutKeeps s (execCounterMirror s) := by
  unfold execCounterMirror
  repeat' first
    | with_reducible apply Keeps.refl
    | with_reducible assumption
    | with_reducible apply OutKeeps.refused
    | with_reducible apply OutKeeps.next
    | with_reducible apply State.mirrorCounters_keeps
    | with_reducible apply OutKeeps.ite
    | intro _
    | split
    | dsimp -zeta only

theorem execFreqGateEnd_keeps {f k spanTicks s} : OutKeeps s (execFreqGateEnd f k spanTicks s) := by
  unfold execFreqGateEnd
  repeat' first
    | with_reducible apply Keeps.refl
    | with_reducible assumption
    | with_reducible apply OutKeeps.refused
    | with_reducible apply OutKeeps.next
    | with_reducible apply State.wr_keeps
    | with_reducible apply OutKeeps.ite
    | intro _
    | split
    | dsimp -zeta only

theorem State.latchDiag_keeps {st0 s k b} (hk : Keeps st0 s) : Keeps st0 (State.latchDiag s k b) := by
  refine hk.trans ?_; clear hk
  unfold State.latchDiag
  repeat' first
    | with_reducible apply Keeps.refl
    | with_reducible assumption
    | with_reducible apply State.wr_keeps
    | intro _
    | split
    | dsimp -zeta only

theorem State.raiseOut_keeps {st0 s n code} (hk : Keeps st0 s) : Keeps st0 (State.raiseOut s n code) := by
  refine hk.trans ?_; clear hk
  unfold State.raiseOut
  repeat' first
    | with_reducible apply Keeps.refl
    | with_reducible assumption
    | (extract_lets +onlyGivenNames a
       first
       | (refine Keeps.cut (m := a) ?_ ?_
          on_goal 2 => (clear_value a; intro _)
          on_goal 1 => (dsimp -zeta only [a]; clear a))
       | (refine Keeps.cut (m := a.2) ?_ ?_
          on_goal 2 => (clear_value a; intro _)
          on_goal 1 => (dsimp -zeta only [a]; clear a))
       | (refine Keeps.cut (m := a.1) ?_ ?_
          on_goal 2 => (clear_value a; intro _)
          on_goal 1 => (dsimp -zeta only [a]; clear a))
       | subst a)
    | with_reducible apply State.measureReg_keeps
    | with_reducible apply State.raise_keeps
    | intro _
    | split
    | dsimp -zeta only

theorem State.setDiag_keeps {st0 s n b code} (hk : Keeps st0 s) : Keeps st0 (State.setDiag s n b code) := by
  refine hk.trans ?_; clear hk
  unfold State.setDiag
  repeat' first
    | with_reducible apply Keeps.refl
    | with_reducible assumption
    | (extract_lets +onlyGivenNames a
       first
       | (refine Keeps.cut (m := a) ?_ ?_
          on_goal 2 => (clear_value a; intro _)
          on_goal 1 => (dsimp -zeta only [a]; clear a))
       | (refine Keeps.cut (m := a.2) ?_ ?_
          on_goal 2 => (clear_value a; intro _)
          on_goal 1 => (dsimp -zeta only [a]; clear a))
       | (refine Keeps.cut (m := a.1) ?_ ?_
          on_goal 2 => (clear_value a; intro _)
          on_goal 1 => (dsimp -zeta only [a]; clear a))
       | subst a)
    | with_reducible apply State.latchDiag_keeps
    | with_reducible apply State.raiseOut_keeps
    | with_reducible apply foldS_keeps
    | ((with_reducible apply Keeps.of_snd); on_goal 1 => with_reducible assumption)
    | ((with_reducible apply Keeps.of_fst); on_goal 1 => with_reducible assumption)
    | intro _
    | split
    | dsimp -zeta only

theorem State.clearDiag_keeps {st0 s n b} (hk : Keeps st0 s) : Keeps st0 (State.clearDiag s n b) := by
  refine hk.trans ?_; clear hk
  unfold State.clearDiag
  repeat' first
    | with_reducible apply Keeps.refl
    | with_reducible assumption
    | with_reducible apply State.putLive_keeps
    | with_reducible apply foldS_keeps
    | ((with_reducible apply Keeps.of_snd); on_goal 1 => with_reducible assumption)
    | ((with_reducible apply Keeps.of_fst); on_goal 1 => with_reducible assumption)
    | intro _
    | split
    | dsimp -zeta only

theorem State.thermalTrip_keeps {st0 s n} (hk : Keeps st0 s) : Keeps st0 (State.thermalTrip s n) := by
  refine hk.trans ?_; clear hk
  unfold State.thermalTrip
  repeat' first
    | with_reducible apply Keeps.refl
    | with_reducible assumption
    | (extract_lets +onlyGivenNames a
       first
       | (refine Keeps.cut (m := a) ?_ ?_
          on_goal 2 => (clear_value a; intro _)
          on_goal 1 => (dsimp -zeta only [a]; clear a))
       | (refine Keeps.cut (m := a.2) ?_ ?_
          on_goal 2 => (clear_value a; intro _)
          on_goal 1 => (dsimp -zeta only [a]; clear a))
       | (refine Keeps.cut (m := a.1) ?_ ?_
          on_goal 2 => (clear_value a; intro _)
          on_goal 1 => (dsimp -zeta only [a]; clear a))
       | subst a)
    | with_reducible apply State.setDiag_keeps
    | with_reducible apply State.setOut_keeps
    | with_reducible apply State.latchDiag_keeps
    | with_reducible apply State.refreshDo_keeps
    | with_reducible apply State.raiseOut_keeps
    | with_reducible apply foldS_keeps
    | ((with_reducible apply Keeps.of_snd); on_goal 1 => with_reducible assumption)
    | ((with_reducible apply Keeps.of_fst); on_goal 1 => with_reducible assumption)
    | intro _
    | split
    | dsimp -zeta only

theorem execDoThermalShutdown_keeps {n t s} : OutKeeps s (execDoThermalShutdown n t s) := by
  unfold execDoThermalShutdown
  repeat' first
    | with_reducible apply Keeps.refl
    | with_reducible assumption
    | (extract_lets +onlyGivenNames a
       first
       | (refine Keeps.cut (m := a) ?_ ?_
          on_goal 2 => (clear_value a; intro _)
          on_goal 1 => (dsimp -zeta only [a]; clear a))
       | (refine Keeps.cut (m := a.2) ?_ ?_
          on_goal 2 => (clear_value a; intro _)
          on_goal 1 => (dsimp -zeta only [a]; clear a))
       | (refine Keeps.cut (m := a.1) ?_ ?_
          on_goal 2 => (clear_value a; intro _)
          on_goal 1 => (dsimp -zeta only [a]; clear a))
       | subst a)
    | with_reducible apply OutKeeps.refused
    | with_reducible apply OutKeeps.next
    | with_reducible apply State.atTime_keeps
    | with_reducible apply State.thermalTrip_keeps
    | with_reducible apply OutKeeps.ite
    | intro _
    | split
    | dsimp -zeta only

theorem execDoThermalRestart_keeps {n s} : OutKeeps s (execDoThermalRestart n s) := by
  unfold execDoThermalRestart
  repeat' first
    | with_reducible apply Keeps.refl
    | with_reducible assumption
    | with_reducible apply OutKeeps.refused
    | with_reducible apply OutKeeps.next
    | with_reducible apply State.clearDiag_keeps
    | with_reducible apply OutKeeps.ite
    | intro _
    | split
    | dsimp -zeta only

theorem execDoCurrentLimit_keeps {n s} : OutKeeps s (execDoCurrentLimit n s) := by
  unfold execDoCurrentLimit
  repeat' first
    | with_reducible apply Keeps.refl
    | with_reducible assumption
    | with_reducible apply OutKeeps.refused
    | with_reducible apply OutKeeps.next
    | with_reducible apply State.setDiag_keeps
    | with_reducible apply OutKeeps.ite
    | intro _
    | split
    | dsimp -zeta only

theorem execDoCurrentLimitEnd_keeps {n s} : OutKeeps s (execDoCurrentLimitEnd n s) := by
  unfold execDoCurrentLimitEnd
  repeat' first
    | with_reducible apply Keeps.refl
    | with_reducible assumption
    | with_reducible apply OutKeeps.refused
    | with_reducible apply OutKeeps.next
    | with_reducible apply State.clearDiag_keeps
    | with_reducible apply OutKeeps.ite
    | intro _
    | split
    | dsimp -zeta only

theorem execOpenLoadSet_keeps {n offState s} : OutKeeps s (execOpenLoadSet n offState s) := by
  unfold execOpenLoadSet
  repeat' first
    | with_reducible apply Keeps.refl
    | with_reducible assumption
    | with_reducible apply OutKeeps.refused
    | with_reducible apply OutKeeps.next
    | with_reducible apply State.setDiag_keeps
    | with_reducible apply OutKeeps.ite
    | intro _
    | split
    | dsimp -zeta only

theorem execOpenLoadClear_keeps {n offState s} : OutKeeps s (execOpenLoadClear n offState s) := by
  unfold execOpenLoadClear
  repeat' first
    | with_reducible apply Keeps.refl
    | with_reducible assumption
    | with_reducible apply OutKeeps.refused
    | with_reducible apply OutKeeps.next
    | with_reducible apply State.clearDiag_keeps
    | with_reducible apply OutKeeps.ite
    | intro _
    | split
    | dsimp -zeta only

theorem execOffPulseStart_keeps {n t s} : OutKeeps s (execOffPulseStart n t s) := by
  unfold execOffPulseStart
  repeat' first
    | with_reducible apply Keeps.refl
    | with_reducible assumption
    | (extract_lets +onlyGivenNames a
       first
       | (refine Keeps.cut (m := a) ?_ ?_
          on_goal 2 => (clear_value a; intro _)
          on_goal 1 => (dsimp -zeta only [a]; clear a))
       | (refine Keeps.cut (m := a.2) ?_ ?_
          on_goal 2 => (clear_value a; intro _)
          on_goal 1 => (dsimp -zeta only [a]; clear a))
       | (refine Keeps.cut (m := a.1) ?_ ?_
          on_goal 2 => (clear_value a; intro _)
          on_goal 1 => (dsimp -zeta only [a]; clear a))
       | subst a)
    | with_reducible apply OutKeeps.refused
    | with_reducible apply OutKeeps.next
    | with_reducible apply State.atTime_keeps
    | with_reducible apply State.refreshDo_keeps
    | with_reducible apply State.setOut_keeps
    | with_reducible apply OutKeeps.ite
    | intro _
    | split
    | dsimp -zeta only

theorem execOffPulseEnd_keeps {n below4V t s} : OutKeeps s (execOffPulseEnd n below4V t s) := by
  unfold execOffPulseEnd
  repeat' first
    | with_reducible apply Keeps.refl
    | with_reducible assumption
    | (extract_lets +onlyGivenNames a
       first
       | (refine Keeps.cut (m := a) ?_ ?_
          on_goal 2 => (clear_value a; intro _)
          on_goal 1 => (dsimp -zeta only [a]; clear a))
       | (refine Keeps.cut (m := a.2) ?_ ?_
          on_goal 2 => (clear_value a; intro _)
          on_goal 1 => (dsimp -zeta only [a]; clear a))
       | (refine Keeps.cut (m := a.1) ?_ ?_
          on_goal 2 => (clear_value a; intro _)
          on_goal 1 => (dsimp -zeta only [a]; clear a))
       | subst a)
    | with_reducible apply OutKeeps.refused
    | with_reducible apply OutKeeps.next
    | with_reducible apply State.atTime_keeps
    | with_reducible apply State.refreshDo_keeps
    | with_reducible apply State.setOut_keeps
    | with_reducible apply State.clearDiag_keeps
    | with_reducible apply State.setDiag_keeps
    | with_reducible apply OutKeeps.ite
    | intro _
    | split
    | dsimp -zeta only

theorem execBackfeedDetect_keeps {n s} : OutKeeps s (execBackfeedDetect n s) := by
  unfold execBackfeedDetect
  repeat' first
    | with_reducible apply Keeps.refl
    | with_reducible assumption
    | with_reducible apply OutKeeps.refused
    | with_reducible apply OutKeeps.next
    | with_reducible apply State.setDiag_keeps
    | with_reducible apply OutKeeps.ite
    | intro _
    | split
    | dsimp -zeta only

theorem execBackfeedClear_keeps {n s} : OutKeeps s (execBackfeedClear n s) := by
  unfold execBackfeedClear
  repeat' first
    | with_reducible apply Keeps.refl
    | with_reducible assumption
    | with_reducible apply OutKeeps.refused
    | with_reducible apply OutKeeps.next
    | with_reducible apply State.clearDiag_keeps
    | with_reducible apply OutKeeps.ite
    | intro _
    | split
    | dsimp -zeta only

theorem State.setCrosswire_keeps {st0 s n p} (hk : Keeps st0 s) : Keeps st0 (State.setCrosswire s n p) := by
  refine hk.trans ?_; clear hk
  unfold State.setCrosswire
  repeat' first
    | with_reducible apply Keeps.refl
    | with_reducible assumption
    | with_reducible apply State.setFld_keeps
    | with_reducible apply State.latchDiag_keeps
    | with_reducible apply foldS_keeps
    | ((with_reducible apply Keeps.of_snd); on_goal 1 => with_reducible assumption)
    | ((with_reducible apply Keeps.of_fst); on_goal 1 => with_reducible assumption)
    | intro _
    | split
    | dsimp -zeta only

theorem State.linkOutputs_keeps {st0 s a b} (hk : Keeps st0 s) : Keeps st0 (State.linkOutputs s a b) := by
  refine hk.trans ?_; clear hk
  unfold State.linkOutputs
  repeat' first
    | with_reducible apply Keeps.refl
    | with_reducible assumption
    | with_reducible apply State.raise_keeps
    | with_reducible apply State.setCrosswire_keeps
    | with_reducible apply State.setDiag_keeps
    | intro _
    | split
    | dsimp -zeta only

theorem execCrosswireDetect_keeps {b s} : OutKeeps s (execCrosswireDetect b s) := by
  unfold execCrosswireDetect
  repeat' first
    | with_reducible apply Keeps.refl
    | with_reducible assumption
    | with_reducible apply OutKeeps.refused
    | with_reducible apply OutKeeps.next
    | with_reducible apply State.linkOutputs_keeps
    | ((with_reducible apply Keeps.of_snd); on_goal 1 => with_reducible assumption)
    | ((with_reducible apply Keeps.of_fst); on_goal 1 => with_reducible assumption)
    | with_reducible apply OutKeeps.ite
    | intro _
    | split
    | dsimp -zeta only

theorem State.scanPulse_keeps {st0 s n} (hk : Keeps st0 s) : Keeps st0 (State.scanPulse s n) := by
  refine hk.trans ?_; clear hk
  unfold State.scanPulse
  repeat' first
    | with_reducible apply Keeps.refl
    | with_reducible assumption
    | (extract_lets +onlyGivenNames a
       first
       | (refine Keeps.cut (m := a) ?_ ?_
          on_goal 2 => (clear_value a; intro _)
          on_goal 1 => (dsimp -zeta only [a]; clear a))
       | (refine Keeps.cut (m := a.2) ?_ ?_
          on_goal 2 => (clear_value a; intro _)
          on_goal 1 => (dsimp -zeta only [a]; clear a))
       | (refine Keeps.cut (m := a.1) ?_ ?_
          on_goal 2 => (clear_value a; intro _)
          on_goal 1 => (dsimp -zeta only [a]; clear a))
       | subst a)
    | with_reducible apply State.setFld_keeps
    | with_reducible apply State.setDio_keeps
    | with_reducible apply State.refreshDo_keeps
    | with_reducible apply State.setOut_keeps
    | intro _
    | split
    | dsimp -zeta only

theorem State.clearCrosswire_keeps {st0 s n} (hk : Keeps st0 s) : Keeps st0 (State.clearCrosswire s n) := by
  refine hk.trans ?_; clear hk
  unfold State.clearCrosswire
  repeat' first
    | with_reducible apply Keeps.refl
    | with_reducible assumption
    | (extract_lets +onlyGivenNames a
       first
       | (refine Keeps.cut (m := a) ?_ ?_
          on_goal 2 => (clear_value a; intro _)
          on_goal 1 => (dsimp -zeta only [a]; clear a))
       | (refine Keeps.cut (m := a.2) ?_ ?_
          on_goal 2 => (clear_value a; intro _)
          on_goal 1 => (dsimp -zeta only [a]; clear a))
       | (refine Keeps.cut (m := a.1) ?_ ?_
          on_goal 2 => (clear_value a; intro _)
          on_goal 1 => (dsimp -zeta only [a]; clear a))
       | subst a)
    | with_reducible apply State.setFld_keeps
    | with_reducible apply State.putLive_keeps
    | intro _
    | split
    | dsimp -zeta only

theorem State.scanDone_keeps {st0 s last} (hk : Keeps st0 s) : Keeps st0 (State.scanDone s last) := by
  refine hk.trans ?_; clear hk
  unfold State.scanDone
  repeat' first
    | with_reducible apply Keeps.refl
    | with_reducible assumption
    | (extract_lets +onlyGivenNames a
       first
       | (refine Keeps.cut (m := a) ?_ ?_
          on_goal 2 => (clear_value a; intro _)
          on_goal 1 => (dsimp -zeta only [a]; clear a))
       | (refine Keeps.cut (m := a.2) ?_ ?_
          on_goal 2 => (clear_value a; intro _)
          on_goal 1 => (dsimp -zeta only [a]; clear a))
       | (refine Keeps.cut (m := a.1) ?_ ?_
          on_goal 2 => (clear_value a; intro _)
          on_goal 1 => (dsimp -zeta only [a]; clear a))
       | subst a)
    | with_reducible apply State.setFld_keeps
    | with_reducible apply State.setFlag_keeps
    | with_reducible apply State.setAbit_keeps
    | with_reducible apply State.setDio_keeps
    | with_reducible apply foldS_keeps
    | ((with_reducible apply Keeps.of_snd); on_goal 1 => with_reducible assumption)
    | ((with_reducible apply Keeps.of_fst); on_goal 1 => with_reducible assumption)
    | intro _
    | split
    | dsimp -zeta only

theorem State.scanNext_keeps {st0 s n} (hk : Keeps st0 s) : Keeps st0 (State.scanNext s n) := by
  refine hk.trans ?_; clear hk
  unfold State.scanNext
  repeat' first
    | with_reducible apply Keeps.refl
    | with_reducible assumption
    | with_reducible apply State.scanPulse_keeps
    | with_reducible apply State.raise_keeps
    | with_reducible apply State.scanDone_keeps
    | with_reducible apply State.clearCrosswire_keeps
    | with_reducible apply foldS_keeps
    | ((with_reducible apply Keeps.of_snd); on_goal 1 => with_reducible assumption)
    | ((with_reducible apply Keeps.of_fst); on_goal 1 => with_reducible assumption)
    | intro _
    | split
    | dsimp -zeta only

theorem State.scanAbort_keeps {st0 s} (hk : Keeps st0 s) : Keeps st0 (State.scanAbort s) := by
  refine hk.trans ?_; clear hk
  unfold State.scanAbort
  repeat' first
    | with_reducible apply Keeps.refl
    | with_reducible assumption
    | (extract_lets +onlyGivenNames a
       first
       | (refine Keeps.cut (m := a) ?_ ?_
          on_goal 2 => (clear_value a; intro _)
          on_goal 1 => (dsimp -zeta only [a]; clear a))
       | (refine Keeps.cut (m := a.2) ?_ ?_
          on_goal 2 => (clear_value a; intro _)
          on_goal 1 => (dsimp -zeta only [a]; clear a))
       | (refine Keeps.cut (m := a.1) ?_ ?_
          on_goal 2 => (clear_value a; intro _)
          on_goal 1 => (dsimp -zeta only [a]; clear a))
       | subst a)
    | with_reducible apply State.setOut_keeps
    | with_reducible apply State.raise_keeps
    | with_reducible apply State.refreshDo_keeps
    | with_reducible apply State.scanDone_keeps
    | intro _
    | split
    | dsimp -zeta only

theorem State.scanStartOp_keeps {st0 s} (hk : Keeps st0 s) : Keeps st0 (State.scanStartOp s) := by
  refine hk.trans ?_; clear hk
  unfold State.scanStartOp
  repeat' first
    | with_reducible apply Keeps.refl
    | with_reducible assumption
    | (extract_lets +onlyGivenNames a
       first
       | (refine Keeps.cut (m := a) ?_ ?_
          on_goal 2 => (clear_value a; intro _)
          on_goal 1 => (dsimp -zeta only [a]; clear a))
       | (refine Keeps.cut (m := a.2) ?_ ?_
          on_goal 2 => (clear_value a; intro _)
          on_goal 1 => (dsimp -zeta only [a]; clear a))
       | (refine Keeps.cut (m := a.1) ?_ ?_
          on_goal 2 => (clear_value a; intro _)
          on_goal 1 => (dsimp -zeta only [a]; clear a))
       | subst a)
    | with_reducible apply State.answer_keeps
    | with_reducible apply State.setFlag_keeps
    | with_reducible apply State.noteLk_keeps
    | with_reducible apply State.scanNext_keeps
    | with_reducible apply State.setDio_keeps
    | ((with_reducible apply Keeps.of_snd); on_goal 1 => with_reducible assumption)
    | ((with_reducible apply Keeps.of_fst); on_goal 1 => with_reducible assumption)
    | intro _
    | split
    | dsimp -zeta only

theorem State.scanAbortOp_keeps {st0 s} (hk : Keeps st0 s) : Keeps st0 (State.scanAbortOp s) := by
  refine hk.trans ?_; clear hk
  unfold State.scanAbortOp
  repeat' first
    | with_reducible apply Keeps.refl
    | with_reducible assumption
    | with_reducible apply State.answer_keeps
    | with_reducible apply State.scanAbort_keeps
    | with_reducible apply State.noteLk_keeps
    | intro _
    | split
    | dsimp -zeta only

theorem execPairScanStart_keeps {_p t s} : OutKeeps s (execPairScanStart _p t s) := by
  unfold execPairScanStart
  repeat' first
    | with_reducible apply Keeps.refl
    | with_reducible assumption
    | with_reducible apply OutKeeps.refused
    | with_reducible apply OutKeeps.next
    | with_reducible apply State.scanStartOp_keeps
    | with_reducible apply State.atTime_keeps
    | with_reducible apply OutKeeps.ite
    | intro _
    | split
    | dsimp -zeta only

theorem execPairScanAbort_keeps {_p t s} : OutKeeps s (execPairScanAbort _p t s) := by
  unfold execPairScanAbort
  repeat' first
    | with_reducible apply Keeps.refl
    | with_reducible assumption
    | with_reducible apply OutKeeps.refused
    | with_reducible apply OutKeeps.next
    | with_reducible apply State.scanAbortOp_keeps
    | with_reducible apply State.atTime_keeps
    | with_reducible apply OutKeeps.ite
    | intro _
    | split
    | dsimp -zeta only

theorem State.scanStep_keeps {st0 s above} (hk : Keeps st0 s) : Keeps st0 (State.scanStep s above) := by
  refine hk.trans ?_; clear hk
  unfold State.scanStep
  repeat' first
    | with_reducible apply Keeps.refl
    | with_reducible assumption
    | (extract_lets +onlyGivenNames a
       first
       | (refine Keeps.cut (m := a) ?_ ?_
          on_goal 2 => (clear_value a; intro _)
          on_goal 1 => (dsimp -zeta only [a]; clear a))
       | (refine Keeps.cut (m := a.2) ?_ ?_
          on_goal 2 => (clear_value a; intro _)
          on_goal 1 => (dsimp -zeta only [a]; clear a))
       | (refine Keeps.cut (m := a.1) ?_ ?_
          on_goal 2 => (clear_value a; intro _)
          on_goal 1 => (dsimp -zeta only [a]; clear a))
       | subst a)
    | with_reducible apply State.linkOutputs_keeps
    | with_reducible apply State.setDio_keeps
    | with_reducible apply State.refreshDo_keeps
    | with_reducible apply State.setOut_keeps
    | with_reducible apply State.scanNext_keeps
    | with_reducible apply foldS_keeps
    | ((with_reducible apply Keeps.of_snd); on_goal 1 => with_reducible assumption)
    | ((with_reducible apply Keeps.of_fst); on_goal 1 => with_reducible assumption)
    | intro _
    | split
    | dsimp -zeta only

theorem execPairScanStep_keeps {above10V t s} : OutKeeps s (execPairScanStep above10V t s) := by
  unfold execPairScanStep
  repeat' first
    | with_reducible apply Keeps.refl
    | with_reducible assumption
    | (extract_lets +onlyGivenNames a
       first
       | (refine Keeps.cut (m := a) ?_ ?_
          on_goal 2 => (clear_value a; intro _)
          on_goal 1 => (dsimp -zeta only [a]; clear a))
       | (refine Keeps.cut (m := a.2) ?_ ?_
          on_goal 2 => (clear_value a; intro _)
          on_goal 1 => (dsimp -zeta only [a]; clear a))
       | (refine Keeps.cut (m := a.1) ?_ ?_
          on_goal 2 => (clear_value a; intro _)
          on_goal 1 => (dsimp -zeta only [a]; clear a))
       | subst a)
    | with_reducible apply OutKeeps.refused
    | with_reducible apply OutKeeps.next
    | with_reducible apply State.atTime_keeps
    | with_reducible apply State.scanStep_keeps
    | ((with_reducible apply Keeps.of_snd); on_goal 1 => with_reducible assumption)
    | ((with_reducible apply Keeps.of_fst); on_goal 1 => with_reducible assumption)
    | with_reducible apply OutKeeps.ite
    | intro _
    | split
    | dsimp -zeta only

theorem State.setGroup_keeps {st0 s g x} (hk : Keeps st0 s) : Keeps st0 (State.setGroup s g x) := by
  refine hk.trans ?_; clear hk
  unfold State.setGroup
  repeat' first
    | with_reducible apply Keeps.refl
    | with_reducible assumption
    | with_reducible apply State.setDio_keeps
    | intro _
    | split
    | dsimp -zeta only

theorem State.setReleased_keeps {st0 s l b} (hk : Keeps st0 s) : Keeps st0 (State.setReleased s l b) := by
  refine hk.trans ?_; clear hk
  unfold State.setReleased
  repeat' first
    | with_reducible apply Keeps.refl
    | with_reducible assumption
    | with_reducible apply State.setOut_keeps
    | with_reducible apply foldS_keeps
    | ((with_reducible apply Keeps.of_snd); on_goal 1 => with_reducible assumption)
    | ((with_reducible apply Keeps.of_fst); on_goal 1 => with_reducible assumption)
    | intro _
    | split
    | dsimp -zeta only

theorem State.enterGroup_keeps {st0 s g dst} (hk : Keeps st0 s) : Keeps st0 (State.enterGroup s g dst) := by
  refine hk.trans ?_; clear hk
  unfold State.enterGroup
  repeat' first
    | with_reducible apply Keeps.refl
    | with_reducible assumption
    | (extract_lets +onlyGivenNames a
       first
       | (refine Keeps.cut (m := a) ?_ ?_
          on_goal 2 => (clear_value a; intro _)
          on_goal 1 => (dsimp -zeta only [a]; clear a))
       | (refine Keeps.cut (m := a.2) ?_ ?_
          on_goal 2 => (clear_value a; intro _)
          on_goal 1 => (dsimp -zeta only [a]; clear a))
       | (refine Keeps.cut (m := a.1) ?_ ?_
          on_goal 2 => (clear_value a; intro _)
          on_goal 1 => (dsimp -zeta only [a]; clear a))
       | subst a)
    | with_reducible apply State.setFld_keeps
    | with_reducible apply State.raise_keeps
    | with_reducible apply State.scanAbort_keeps
    | intro _
    | split
    | dsimp -zeta only

theorem State.setVf_keeps {st0 s g v} (hk : Keeps st0 s) : Keeps st0 (State.setVf s g v) := by
  refine hk.trans ?_; clear hk
  unfold State.setVf
  repeat' first
    | with_reducible apply Keeps.refl
    | with_reducible assumption
    | with_reducible apply State.setFld_keeps
    | intro _
    | split
    | dsimp -zeta only

theorem State.refreshGroup_keeps {st0 s g} (hk : Keeps st0 s) : Keeps st0 (State.refreshGroup s g) := by
  refine hk.trans ?_; clear hk
  unfold State.refreshGroup
  repeat' first
    | with_reducible apply Keeps.refl
    | with_reducible assumption
    | with_reducible apply State.refreshDo_keeps
    | with_reducible apply foldS_keeps
    | intro _
    | split
    | dsimp -zeta only

theorem State.countVf_keeps {st0 s g f} (hk : Keeps st0 s) : Keeps st0 (State.countVf s g f) := by
  refine hk.trans ?_; clear hk
  unfold State.countVf
  repeat' first
    | with_reducible apply Keeps.refl
    | with_reducible assumption
    | with_reducible apply State.toMirror_keeps
    | with_reducible apply State.addFld_keeps
    | intro _
    | split
    | dsimp -zeta only

theorem State.measureVf_keeps {st0 s g v} (hk : Keeps st0 s) : Keeps st0 (State.measureVf s g v) := by
  refine hk.trans ?_; clear hk
  unfold State.measureVf
  repeat' first
    | with_reducible apply Keeps.refl
    | with_reducible assumption
    | with_reducible apply State.setVf_keeps
    | with_reducible apply State.applyIf_keeps
    | ((with_reducible apply Keeps.of_snd); on_goal 1 => with_reducible assumption)
    | ((with_reducible apply Keeps.of_fst); on_goal 1 => with_reducible assumption)
    | intro _
    | split
    | dsimp -zeta only

theorem execVfWarn_keeps {g v s} : OutKeeps s (execVfWarn g v s) := by
  unfold execVfWarn
  repeat' first
    | with_reducible apply Keeps.refl
    | with_reducible assumption
    | (extract_lets +onlyGivenNames a
       first
       | (refine Keeps.cut (m := a) ?_ ?_
          on_goal 2 => (clear_value a; intro _)
          on_goal 1 => (dsimp -zeta only [a]; clear a))
       | (refine Keeps.cut (m := a.2) ?_ ?_
          on_goal 2 => (clear_value a; intro _)
          on_goal 1 => (dsimp -zeta only [a]; clear a))
       | (refine Keeps.cut (m := a.1) ?_ ?_
          on_goal 2 => (clear_value a; intro _)
          on_goal 1 => (dsimp -zeta only [a]; clear a))
       | subst a)
    | with_reducible apply OutKeeps.refused
    | with_reducible apply OutKeeps.next
    | with_reducible apply State.measureVf_keeps
    | with_reducible apply State.enterGroup_keeps
    | with_reducible apply OutKeeps.ite
    | intro _
    | split
    | dsimp -zeta only

theorem execVfWarnEnd_keeps {g v s} : OutKeeps s (execVfWarnEnd g v s) := by
  unfold execVfWarnEnd
  repeat' first
    | with_reducible apply Keeps.refl
    | with_reducible assumption
    | (extract_lets +onlyGivenNames a
       first
       | (refine Keeps.cut (m := a) ?_ ?_
          on_goal 2 => (clear_value a; intro _)
          on_goal 1 => (dsimp -zeta only [a]; clear a))
       | (refine Keeps.cut (m := a.2) ?_ ?_
          on_goal 2 => (clear_value a; intro _)
          on_goal 1 => (dsimp -zeta only [a]; clear a))
       | (refine Keeps.cut (m := a.1) ?_ ?_
          on_goal 2 => (clear_value a; intro _)
          on_goal 1 => (dsimp -zeta only [a]; clear a))
       | subst a)
    | with_reducible apply OutKeeps.refused
    | with_reducible apply OutKeeps.next
    | with_reducible apply State.measureVf_keeps
    | with_reducible apply State.enterGroup_keeps
    | with_reducible apply OutKeeps.ite
    | intro _
    | split
    | dsimp -zeta only

theorem execVfHold_keeps {g v s} : OutKeeps s (execVfHold g v s) := by
  unfold execVfHold
  repeat' first
    | with_reducible apply Keeps.refl
    | with_reducible assumption
    | (extract_lets +onlyGivenNames a
       first
       | (refine Keeps.cut (m := a) ?_ ?_
          on_goal 2 => (clear_value a; intro _)
          on_goal 1 => (dsimp -zeta only [a]; clear a))
       | (refine Keeps.cut (m := a.2) ?_ ?_
          on_goal 2 => (clear_value a; intro _)
          on_goal 1 => (dsimp -zeta only [a]; clear a))
       | (refine Keeps.cut (m := a.1) ?_ ?_
          on_goal 2 => (clear_value a; intro _)
          on_goal 1 => (dsimp -zeta only [a]; clear a))
       | subst a)
    | with_reducible apply OutKeeps.refused
    | with_reducible apply OutKeeps.next
    | with_reducible apply State.measureVf_keeps
    | with_reducible apply State.refreshGroup_keeps
    | with_reducible apply State.countVf_keeps
    | with_reducible apply State.enterGroup_keeps
    | with_reducible apply OutKeeps.ite
    | intro _
    | split
    | dsimp -zeta only

theorem State.restoreEnd_keeps {st0 s g steady} (hk : Keeps st0 s) : Keeps st0 (State.restoreEnd s g steady) := by
  refine hk.trans ?_; clear hk
  unfold State.restoreEnd
  repeat' first
    | with_reducible apply Keeps.refl
    | with_reducible assumption
    | (extract_lets +onlyGivenNames a
       first
       | (refine Keeps.cut (m := a) ?_ ?_
          on_goal 2 => (clear_value a; intro _)
          on_goal 1 => (dsimp -zeta only [a]; clear a))
       | (refine Keeps.cut (m := a.2) ?_ ?_
          on_goal 2 => (clear_value a; intro _)
          on_goal 1 => (dsimp -zeta only [a]; clear a))
       | (refine Keeps.cut (m := a.1) ?_ ?_
          on_goal 2 => (clear_value a; intro _)
          on_goal 1 => (dsimp -zeta only [a]; clear a))
       | subst a)
    | with_reducible apply State.setGroup_keeps
    | with_reducible apply State.setReleased_keeps
    | with_reducible apply State.raise_keeps
    | with_reducible apply State.refreshGroup_keeps
    | with_reducible apply State.enterGroup_keeps
    | intro _
    | split
    | dsimp -zeta only

theorem State.releaseOut_keeps {st0 s n} (hk : Keeps st0 s) : Keeps st0 (State.releaseOut s n) := by
  refine hk.trans ?_; clear hk
  unfold State.releaseOut
  repeat' first
    | with_reducible apply Keeps.refl
    | with_reducible assumption
    | with_reducible apply State.refreshDo_keeps
    | with_reducible apply State.setReleased_keeps
    | intro _
    | split
    | dsimp -zeta only

theorem State.slotDue_keeps {st0 s g steady} (hk : Keeps st0 s) : Keeps st0 (State.slotDue s g steady) := by
  refine hk.trans ?_; clear hk
  unfold State.slotDue
  repeat' first
    | with_reducible apply Keeps.refl
    | with_reducible assumption
    | with_reducible apply State.restoreEnd_keeps
    | with_reducible apply State.releaseOut_keeps
    | with_reducible apply State.setGroup_keeps
    | ((with_reducible apply Keeps.of_snd); on_goal 1 => with_reducible assumption)
    | ((with_reducible apply Keeps.of_fst); on_goal 1 => with_reducible assumption)
    | intro _
    | split
    | dsimp -zeta only

theorem State.restoreBegin_keeps {st0 s g steady} (hk : Keeps st0 s) : Keeps st0 (State.restoreBegin s g steady) := by
  refine hk.trans ?_; clear hk
  unfold State.restoreBegin
  repeat' first
    | with_reducible apply Keeps.refl
    | with_reducible assumption
    | (extract_lets +onlyGivenNames a
       first
       | (refine Keeps.cut (m := a) ?_ ?_
          on_goal 2 => (clear_value a; intro _)
          on_goal 1 => (dsimp -zeta only [a]; clear a))
       | (refine Keeps.cut (m := a.2) ?_ ?_
          on_goal 2 => (clear_value a; intro _)
          on_goal 1 => (dsimp -zeta only [a]; clear a))
       | (refine Keeps.cut (m := a.1) ?_ ?_
          on_goal 2 => (clear_value a; intro _)
          on_goal 1 => (dsimp -zeta only [a]; clear a))
       | subst a)
    | with_reducible apply State.setReleased_keeps
    | with_reducible apply State.enterGroup_keeps
    | with_reducible apply State.refreshGroup_keeps
    | with_reducible apply State.setGroup_keeps
    | with_reducible apply State.slotDue_keeps
    | intro _
    | split
    | dsimp -zeta only

theorem execVfRestoring_keeps {g v warn t s} : OutKeeps s (execVfRestoring g v warn t s) := by
  unfold execVfRestoring
  repeat' first
    | with_reducible apply Keeps.refl
    | with_reducible assumption
    | (extract_lets +onlyGivenNames a
       first
       | (refine Keeps.cut (m := a) ?_ ?_
          on_goal 2 => (clear_value a; intro _)
          on_goal 1 => (dsimp -zeta only [a]; clear a))
       | (refine Keeps.cut (m := a.2) ?_ ?_
          on_goal 2 => (clear_value a; intro _)
          on_goal 1 => (dsimp -zeta only [a]; clear a))
       | (refine Keeps.cut (m := a.1) ?_ ?_
          on_goal 2 => (clear_value a; intro _)
          on_goal 1 => (dsimp -zeta only [a]; clear a))
       | subst a)
    | with_reducible apply OutKeeps.refused
    | with_reducible apply OutKeeps.next
    | with_reducible apply State.measureVf_keeps
    | with_reducible apply State.atTime_keeps
    | with_reducible apply State.restoreBegin_keeps
    | with_reducible apply OutKeeps.ite
    | intro _
    | split
    | dsimp -zeta only

theorem execRestoreSlot_keeps {g v steady t s} : OutKeeps s (execRestoreSlot g v steady t s) := by
  unfold execRestoreSlot
  repeat' first
    | with_reducible apply Keeps.refl
    | with_reducible assumption
    | (extract_lets +onlyGivenNames a
       first
       | (refine Keeps.cut (m := a) ?_ ?_
          on_goal 2 => (clear_value a; intro _)
          on_goal 1 => (dsimp -zeta only [a]; clear a))
       | (refine Keeps.cut (m := a.2) ?_ ?_
          on_goal 2 => (clear_value a; intro _)
          on_goal 1 => (dsimp -zeta only [a]; clear a))
       | (refine Keeps.cut (m := a.1) ?_ ?_
          on_goal 2 => (clear_value a; intro _)
          on_goal 1 => (dsimp -zeta only [a]; clear a))
       | subst a)
    | with_reducible apply OutKeeps.refused
    | with_reducible apply OutKeeps.next
    | with_reducible apply State.measureVf_keeps
    | with_reducible apply State.atTime_keeps
    | with_reducible apply State.slotDue_keeps
    | with_reducible apply OutKeeps.ite
    | intro _
    | split
    | dsimp -zeta only

theorem State.groupOff_keeps {st0 s g} (hk : Keeps st0 s) : Keeps st0 (State.groupOff s g) := by
  refine hk.trans ?_; clear hk
  unfold State.groupOff
  repeat' first
    | with_reducible apply Keeps.refl
    | with_reducible assumption
    | (extract_lets +onlyGivenNames a
       first
       | (refine Keeps.cut (m := a) ?_ ?_
          on_goal 2 => (clear_value a; intro _)
          on_goal 1 => (dsimp -zeta only [a]; clear a))
       | (refine Keeps.cut (m := a.2) ?_ ?_
          on_goal 2 => (clear_value a; intro _)
          on_goal 1 => (dsimp -zeta only [a]; clear a))
       | (refine Keeps.cut (m := a.1) ?_ ?_
          on_goal 2 => (clear_value a; intro _)
          on_goal 1 => (dsimp -zeta only [a]; clear a))
       | subst a)
    | with_reducible apply State.countVf_keeps
    | with_reducible apply State.enterGroup_keeps
    | with_reducible apply State.setGroup_keeps
    | with_reducible apply State.setReleased_keeps
    | with_reducible apply State.setCommanded_keeps
    | with_reducible apply State.raise_keeps
    | with_reducible apply State.decideDo_keeps
    | with_reducible apply foldS_keeps
    | ((with_reducible apply Keeps.of_snd); on_goal 1 => with_reducible assumption)
    | ((with_reducible apply Keeps.of_fst); on_goal 1 => with_reducible assumption)
    | intro _
    | split
    | dsimp -zeta only

theorem execVfOff_keeps {g v t s} : OutKeeps s (execVfOff g v t s) := by
  unfold execVfOff
  repeat' first
    | with_reducible apply Keeps.refl
    | with_reducible assumption
    | (extract_lets +onlyGivenNames a
       first
       | (refine Keeps.cut (m := a) ?_ ?_
          on_goal 2 => (clear_value a; intro _)
          on_goal 1 => (dsimp -zeta only [a]; clear a))
       | (refine Keeps.cut (m := a.2) ?_ ?_
          on_goal 2 => (clear_value a; intro _)
          on_goal 1 => (dsimp -zeta only [a]; clear a))
       | (refine Keeps.cut (m := a.1) ?_ ?_
          on_goal 2 => (clear_value a; intro _)
          on_goal 1 => (dsimp -zeta only [a]; clear a))
       | subst a)
    | with_reducible apply OutKeeps.refused
    | with_reducible apply OutKeeps.next
    | with_reducible apply State.setVf_keeps
    | with_reducible apply State.atTime_keeps
    | with_reducible apply State.groupOff_keeps
    | with_reducible apply OutKeeps.ite
    | intro _
    | split
    | dsimp -zeta only

end Sys2Proof.Machine
end

