-- ==== Sys2Proof/Laws/KeepsTap.lean ====
section
/-! SUPPORT. Every operation of `Machine/Tap.lean` keeps the queue and the canonical forms. -/

set_option linter.all false
set_option Elab.async false
set_option maxHeartbeats 60000

namespace Sys2Proof.Machine

theorem State.contactLevel_keeps {st0 s c} (hk : Keeps st0 s) : Keeps st0 (State.contactLevel s c).2 := by
  refine hk.trans ?_; clear hk
  unfold State.contactLevel
  repeat' first
    | with_reducible apply Keeps.refl
    | with_reducible assumption
    | with_reducible apply State.freshWord_keeps
    | intro _
    | split
    | dsimp -zeta only

theorem State.boundaryLevels_keeps {st0 s : State} (hk : Keeps st0 s) : Keeps st0 (State.boundaryLevels s).2 := by
  have q : ∀ (l : List Nat) (x : List Bool × State), Keeps st0 x.2 →
      Keeps st0 (l.foldl (fun x c => let r := x.2.contactLevel c; (x.1 ++ [r.1], r.2)) x).2 := by
    intro l
    induction l with
    | nil => exact fun x h => h
    | cons c cs ih => exact fun x h => ih _ (State.contactLevel_keeps h)
  exact q _ ([], s) hk

theorem State.captureDr_keeps {st0 s} (hk : Keeps st0 s) : Keeps st0 (State.captureDr s) := by
  refine hk.trans ?_; clear hk
  unfold State.captureDr
  repeat' first
    | with_reducible apply Keeps.refl
    | with_reducible assumption
    | (extract_lets +onlyGivenNames a
       first
       | (refine Keeps.cut (m := a) ?_ ?_
          on_goal 2 => (clear_value a; intro _)
          on_goal 1 => (dsimp -zeta only [a]; clear a))
       | (refine Keeps.cut (m := a.2) ?_ ?_
          on_goal 2 => (clear_value a; intro _)
          on_goal 1 => (dsimp -zeta only [a]; clear a))
       | (refine Keeps.cut (m := a.1) ?_ ?_
          on_goal 2 => (clear_value a; intro _)
          on_goal 1 => (dsimp -zeta only [a]; clear a))
       | subst a)
    | with_reducible apply State.setTap_keeps
    | with_reducible apply State.boundaryLevels_keeps
    | ((with_reducible apply Keeps.of_snd); on_goal 1 => with_reducible assumption)
    | ((with_reducible apply Keeps.of_fst); on_goal 1 => with_reducible assumption)
    | intro _
    | split
    | dsimp -zeta only

theorem State.tapAct_keeps {st0 s tdi} (hk : Keeps st0 s) : Keeps st0 (State.tapAct s tdi) := by
  refine hk.trans ?_; clear hk
  unfold State.tapAct
  repeat' first
    | with_reducible apply Keeps.refl
    | with_reducible assumption
    | (extract_lets +onlyGivenNames a
       first
       | (refine Keeps.cut (m := a) ?_ ?_
          on_goal 2 => (clear_value a; intro _)
          on_goal 1 => (dsimp -zeta only [a]; clear a))
       | (refine Keeps.cut (m := a.2) ?_ ?_
          on_goal 2 => (clear_value a; intro _)
          on_goal 1 => (dsimp -zeta only [a]; clear a))
       | (refine Keeps.cut (m := a.1) ?_ ?_
          on_goal 2 => (clear_value a; intro _)
          on_goal 1 => (dsimp -zeta only [a]; clear a))
       | subst a)
    | with_reducible apply State.setTap_keeps
    | with_reducible apply State.captureDr_keeps
    | ((with_reducible apply Keeps.of_snd); on_goal 1 => with_reducible assumption)
    | ((with_reducible apply Keeps.of_fst); on_goal 1 => with_reducible assumption)
    | intro _
    | split
    | dsimp -zeta only

theorem State.tapClock_keeps {st0 s tms tdi} (hk : Keeps st0 s) : Keeps st0 (State.tapClock s tms tdi) := by
  refine hk.trans ?_; clear hk
  unfold State.tapClock
  repeat' first
    | with_reducible apply Keeps.refl
    | with_reducible assumption
    | (extract_lets +onlyGivenNames a
       first
       | (refine Keeps.cut (m := a) ?_ ?_
          on_goal 2 => (clear_value a; intro _)
          on_goal 1 => (dsimp -zeta only [a]; clear a))
       | (refine Keeps.cut (m := a.2) ?_ ?_
          on_goal 2 => (clear_value a; intro _)
          on_goal 1 => (dsimp -zeta only [a]; clear a))
       | (refine Keeps.cut (m := a.1) ?_ ?_
          on_goal 2 => (clear_value a; intro _)
          on_goal 1 => (dsimp -zeta only [a]; clear a))
       | subst a)
    | with_reducible apply State.tapAct_keeps
    | with_reducible apply State.setTap_keeps
    | intro _
    | split
    | dsimp -zeta only

theorem State.tapTrst_keeps {st0 s high} (hk : Keeps st0 s) : Keeps st0 (State.tapTrst s high) := by
  refine hk.trans ?_; clear hk
  unfold State.tapTrst
  repeat' first
    | with_reducible apply Keeps.refl
    | with_reducible assumption
    | with_reducible apply State.setTap_keeps
    | intro _
    | split
    | dsimp -zeta only

end Sys2Proof.Machine
end

