-- ==== Sys2Proof/Laws/KeepsAlarms.lean ====
section
/-! SUPPORT. Every operation of `Machine/Alarms.lean` keeps the queue and the canonical forms. -/

set_option linter.all false
set_option Elab.async false
set_option maxHeartbeats 60000

namespace Sys2Proof.Machine

theorem State.setAlarmState_keeps {st0 s e v} (hk : Keeps st0 s) : Keeps st0 (State.setAlarmState s e v) := by
  refine hk.trans ?_; clear hk
  unfold State.setAlarmState
  repeat' first
    | with_reducible apply Keeps.refl
    | with_reducible assumption
    | with_reducible apply State.setFld_keeps
    | intro _
    | split
    | dsimp -zeta only

theorem State.stamp_keeps {st0 s e} (hk : Keeps st0 s) : Keeps st0 (State.stamp s e) := by
  refine hk.trans ?_; clear hk
  unfold State.stamp
  repeat' first
    | with_reducible apply Keeps.refl
    | with_reducible assumption
    | with_reducible apply State.wr_keeps
    | intro _
    | split
    | dsimp -zeta only

theorem State.recount_keeps {st0 s g} (hk : Keeps st0 s) : Keeps st0 (State.recount s g) := by
  refine hk.trans ?_; clear hk
  unfold State.recount
  repeat' first
    | with_reducible apply Keeps.refl
    | with_reducible assumption
    | (extract_lets +onlyGivenNames a
       first
       | (refine Keeps.cut (m := a) ?_ ?_
          on_goal 2 => (clear_value a; intro _)
          on_goal 1 => (dsimp -zeta only [a]; clear a))
       | (refine Keeps.cut (m := a.2) ?_ ?_
          on_goal 2 => (clear_value a; intro _)
          on_goal 1 => (dsimp -zeta only [a]; clear a))
       | (refine Keeps.cut (m := a.1) ?_ ?_
          on_goal 2 => (clear_value a; intro _)
          on_goal 1 => (dsimp -zeta only [a]; clear a))
       | subst a)
    | with_reducible apply State.setFld_keeps
    | with_reducible apply State.setFlag_keeps
    | ((with_reducible apply Keeps.of_snd); on_goal 1 => with_reducible assumption)
    | ((with_reducible apply Keeps.of_fst); on_goal 1 => with_reducible assumption)
    | intro _
    | split
    | dsimp -zeta only

theorem State.setPlan_keeps {st0 s p x} (hk : Keeps st0 s) : Keeps st0 (State.setPlan s p x) := by
  refine hk.trans ?_; clear hk
  unfold State.setPlan
  repeat' first
    | with_reducible apply Keeps.refl
    | with_reducible assumption
    | with_reducible apply State.setAlm_keeps
    | intro _
    | split
    | dsimp -zeta only

theorem State.driveBandstand_keeps {st0 s} (hk : Keeps st0 s) : Keeps st0 (State.driveBandstand s) := by
  refine hk.trans ?_; clear hk
  unfold State.driveBandstand
  repeat' first
    | with_reducible apply Keeps.refl
    | with_reducible assumption
    | (extract_lets +onlyGivenNames a
       first
       | (refine Keeps.cut (m := a) ?_ ?_
          on_goal 2 => (clear_value a; intro _)
          on_goal 1 => (dsimp -zeta only [a]; clear a))
       | (refine Keeps.cut (m := a.2) ?_ ?_
          on_goal 2 => (clear_value a; intro _)
          on_goal 1 => (dsimp -zeta only [a]; clear a))
       | (refine Keeps.cut (m := a.1) ?_ ?_
          on_goal 2 => (clear_value a; intro _)
          on_goal 1 => (dsimp -zeta only [a]; clear a))
       | subst a)
    | with_reducible apply State.wr_keeps
    | with_reducible apply State.refreshDo_keeps
    | with_reducible apply foldS_keeps
    | ((with_reducible apply Keeps.of_snd); on_goal 1 => with_reducible assumption)
    | ((with_reducible apply Keeps.of_fst); on_goal 1 => with_reducible assumption)
    | intro _
    | split
    | dsimp -zeta only

theorem State.notePlan_keeps {st0 s p level cause reason} (hk : Keeps st0 s) : Keeps st0 (State.notePlan s p level cause reason) := by
  refine hk.trans ?_; clear hk
  unfold State.notePlan
  repeat' first
    | with_reducible apply Keeps.refl
    | with_reducible assumption
    | with_reducible apply State.raise_keeps
    | intro _
    | split
    | dsimp -zeta only

theorem State.runTimer_keeps {st0 s p k} (hk : Keeps st0 s) : Keeps st0 (State.runTimer s p k) := by
  refine hk.trans ?_; clear hk
  unfold State.runTimer
  repeat' first
    | with_reducible apply Keeps.refl
    | with_reducible assumption
    | with_reducible apply State.setPlan_keeps
    | intro _
    | split
    | dsimp -zeta only

theorem State.beginPattern_keeps {st0 s p k} (hk : Keeps st0 s) : Keeps st0 (State.beginPattern s p k) := by
  refine hk.trans ?_; clear hk
  unfold State.beginPattern
  repeat' first
    | with_reducible apply Keeps.refl
    | with_reducible assumption
    | with_reducible apply State.setPlan_keeps
    | intro _
    | split
    | dsimp -zeta only

theorem State.reachLevel_keeps {st0 s p n k} (h : Keeps st0 s) : Keeps st0 (State.reachLevel s p n k) := by
  induction n generalizing s k with
  | zero => exact State.setFld_keeps h
  | succ n ih =>
    unfold State.reachLevel
    repeat' first
      | with_reducible apply Keeps.refl
      | with_reducible assumption
      | with_reducible apply ih
      | (extract_lets +onlyGivenNames a
         first
         | (refine Keeps.cut (m := a) ?_ ?_
            on_goal 2 => (clear_value a; intro _)
            on_goal 1 => (dsimp -zeta only [a]; clear a))
         | (refine Keeps.cut (m := a.2) ?_ ?_
            on_goal 2 => (clear_value a; intro _)
            on_goal 1 => (dsimp -zeta only [a]; clear a))
         | (refine Keeps.cut (m := a.1) ?_ ?_
            on_goal 2 => (clear_value a; intro _)
            on_goal 1 => (dsimp -zeta only [a]; clear a))
         | subst a)
      | with_reducible apply State.setFld_keeps
      | with_reducible apply State.setPlan_keeps
      | with_reducible apply State.notePlan_keeps
      | with_reducible apply State.runTimer_keeps
      | with_reducible apply State.beginPattern_keeps
      | ((with_reducible apply Keeps.of_snd); on_goal 1 => with_reducible assumption)
      | ((with_reducible apply Keeps.of_fst); on_goal 1 => with_reducible assumption)
      | intro _
      | split
      | dsimp -zeta only

theorem State.markRun_keeps {st0 s p} (hk : Keeps st0 s) : Keeps st0 (State.markRun s p) := by
  refine hk.trans ?_; clear hk
  unfold State.markRun
  repeat' first
    | with_reducible apply Keeps.refl
    | with_reducible assumption
    | with_reducible apply State.setFld_keeps
    | intro _
    | split
    | dsimp -zeta only

theorem State.beginPlan_keeps {st0 s p k cause} (hk : Keeps st0 s) : Keeps st0 (State.beginPlan s p k cause) := by
  refine hk.trans ?_; clear hk
  unfold State.beginPlan
  repeat' first
    | with_reducible apply Keeps.refl
    | with_reducible assumption
    | (extract_lets +onlyGivenNames a
       first
       | (refine Keeps.cut (m := a) ?_ ?_
          on_goal 2 => (clear_value a; intro _)
          on_goal 1 => (dsimp -zeta only [a]; clear a))
       | (refine Keeps.cut (m := a.2) ?_ ?_
          on_goal 2 => (clear_value a; intro _)
          on_goal 1 => (dsimp -zeta only [a]; clear a))
       | (refine Keeps.cut (m := a.1) ?_ ?_
          on_goal 2 => (clear_value a; intro _)
          on_goal 1 => (dsimp -zeta only [a]; clear a))
       | subst a)
    | with_reducible apply State.wr_keeps
    | with_reducible apply State.addFld_keeps
    | with_reducible apply State.setPlan_keeps
    | with_reducible apply State.driveBandstand_keeps
    | with_reducible apply State.markRun_keeps
    | with_reducible apply State.reachLevel_keeps
    | with_reducible apply State.notePlan_keeps
    | intro _
    | split
    | dsimp -zeta only

theorem State.startPlan_keeps {st0 s p cause} (hk : Keeps st0 s) : Keeps st0 (State.startPlan s p cause) := by
  refine hk.trans ?_; clear hk
  unfold State.startPlan
  repeat' first
    | with_reducible apply Keeps.refl
    | with_reducible assumption
    | (extract_lets +onlyGivenNames a
       first
       | (refine Keeps.cut (m := a) ?_ ?_
          on_goal 2 => (clear_value a; intro _)
          on_goal 1 => (dsimp -zeta only [a]; clear a))
       | (refine Keeps.cut (m := a.2) ?_ ?_
          on_goal 2 => (clear_value a; intro _)
          on_goal 1 => (dsimp -zeta only [a]; clear a))
       | (refine Keeps.cut (m := a.1) ?_ ?_
          on_goal 2 => (clear_value a; intro _)
          on_goal 1 => (dsimp -zeta only [a]; clear a))
       | subst a)
    | with_reducible apply State.beginPlan_keeps
    | with_reducible apply State.addFld_keeps
    | with_reducible apply State.setFld_keeps
    | with_reducible apply State.driveBandstand_keeps
    | with_reducible apply State.notePlan_keeps
    | intro _
    | split
    | dsimp -zeta only

theorem State.endPlanOp_keeps {st0 s p reason} (hk : Keeps st0 s) : Keeps st0 (State.endPlanOp s p reason) := by
  refine hk.trans ?_; clear hk
  unfold State.endPlanOp
  repeat' first
    | with_reducible apply Keeps.refl
    | with_reducible assumption
    | (extract_lets +onlyGivenNames a
       first
       | (refine Keeps.cut (m := a) ?_ ?_
          on_goal 2 => (clear_value a; intro _)
          on_goal 1 => (dsimp -zeta only [a]; clear a))
       | (refine Keeps.cut (m := a.2) ?_ ?_
          on_goal 2 => (clear_value a; intro _)
          on_goal 1 => (dsimp -zeta only [a]; clear a))
       | (refine Keeps.cut (m := a.1) ?_ ?_
          on_goal 2 => (clear_value a; intro _)
          on_goal 1 => (dsimp -zeta only [a]; clear a))
       | subst a)
    | with_reducible apply State.notePlan_keeps
    | with_reducible apply State.wr_keeps
    | with_reducible apply State.setPlan_keeps
    | with_reducible apply State.driveBandstand_keeps
    | with_reducible apply State.markRun_keeps
    | intro _
    | split
    | dsimp -zeta only

theorem State.checkEndAck_keeps {st0 s g} (hk : Keeps st0 s) : Keeps st0 (State.checkEndAck s g) := by
  refine hk.trans ?_; clear hk
  unfold State.checkEndAck
  repeat' first
    | with_reducible apply Keeps.refl
    | with_reducible assumption
    | (extract_lets +onlyGivenNames a
       first
       | (refine Keeps.cut (m := a) ?_ ?_
          on_goal 2 => (clear_value a; intro _)
          on_goal 1 => (dsimp -zeta only [a]; clear a))
       | (refine Keeps.cut (m := a.2) ?_ ?_
          on_goal 2 => (clear_value a; intro _)
          on_goal 1 => (dsimp -zeta only [a]; clear a))
       | (refine Keeps.cut (m := a.1) ?_ ?_
          on_goal 2 => (clear_value a; intro _)
          on_goal 1 => (dsimp -zeta only [a]; clear a))
       | subst a)
    | with_reducible apply State.setPlan_keeps
    | with_reducible apply State.endPlanOp_keeps
    | intro _
    | split
    | dsimp -zeta only

theorem State.groupChanged_keeps {st0 s g} (hk : Keeps st0 s) : Keeps st0 (State.groupChanged s g) := by
  refine hk.trans ?_; clear hk
  unfold State.groupChanged
  repeat' first
    | with_reducible apply Keeps.refl
    | with_reducible assumption
    | with_reducible apply State.driveBandstand_keeps
    | with_reducible apply State.checkEndAck_keeps
    | with_reducible apply State.recount_keeps
    | intro _
    | split
    | dsimp -zeta only

theorem State.groupsChanged_keeps {st0 s l} (hk : Keeps st0 s) : Keeps st0 (State.groupsChanged s l) := by
  refine hk.trans ?_; clear hk
  unfold State.groupsChanged
  repeat' first
    | with_reducible apply Keeps.refl
    | with_reducible assumption
    | with_reducible apply State.driveBandstand_keeps
    | with_reducible apply State.checkEndAck_keeps
    | with_reducible apply State.recount_keeps
    | with_reducible apply foldS_keeps
    | intro _
    | split
    | dsimp -zeta only

theorem State.alarmRaised_keeps {st0 s e} (hk : Keeps st0 s) : Keeps st0 (State.alarmRaised s e) := by
  refine hk.trans ?_; clear hk
  unfold State.alarmRaised
  repeat' first
    | with_reducible apply Keeps.refl
    | with_reducible assumption
    | (extract_lets +onlyGivenNames a
       first
       | (refine Keeps.cut (m := a) ?_ ?_
          on_goal 2 => (clear_value a; intro _)
          on_goal 1 => (dsimp -zeta only [a]; clear a))
       | (refine Keeps.cut (m := a.2) ?_ ?_
          on_goal 2 => (clear_value a; intro _)
          on_goal 1 => (dsimp -zeta only [a]; clear a))
       | (refine Keeps.cut (m := a.1) ?_ ?_
          on_goal 2 => (clear_value a; intro _)
          on_goal 1 => (dsimp -zeta only [a]; clear a))
       | subst a)
    | with_reducible apply State.setFlag_keeps
    | with_reducible apply State.recount_keeps
    | with_reducible apply State.stamp_keeps
    | with_reducible apply State.raise_keeps
    | with_reducible apply State.setFld_keeps
    | with_reducible apply State.checkEndAck_keeps
    | with_reducible apply State.startPlan_keeps
    | with_reducible apply State.driveBandstand_keeps
    | intro _
    | split
    | dsimp -zeta only

theorem State.alarmMove_keeps {st0 s e v} (hk : Keeps st0 s) : Keeps st0 (State.alarmMove s e v) := by
  refine hk.trans ?_; clear hk
  unfold State.alarmMove
  repeat' first
    | with_reducible apply Keeps.refl
    | with_reducible assumption
    | (extract_lets +onlyGivenNames a
       first
       | (refine Keeps.cut (m := a) ?_ ?_
          on_goal 2 => (clear_value a; intro _)
          on_goal 1 => (dsimp -zeta only [a]; clear a))
       | (refine Keeps.cut (m := a.2) ?_ ?_
          on_goal 2 => (clear_value a; intro _)
          on_goal 1 => (dsimp -zeta only [a]; clear a))
       | (refine Keeps.cut (m := a.1) ?_ ?_
          on_goal 2 => (clear_value a; intro _)
          on_goal 1 => (dsimp -zeta only [a]; clear a))
       | subst a)
    | with_reducible apply State.setAlarmState_keeps
    | with_reducible apply State.alarmRaised_keeps
    | with_reducible apply State.groupChanged_keeps
    | with_reducible apply State.stamp_keeps
    | ((with_reducible apply Keeps.of_snd); on_goal 1 => with_reducible assumption)
    | ((with_reducible apply Keeps.of_fst); on_goal 1 => with_reducible assumption)
    | intro _
    | split
    | dsimp -zeta only

theorem State.actChanged_keeps {st0 s e} (hk : Keeps st0 s) : Keeps st0 (State.actChanged s e) := by
  refine hk.trans ?_; clear hk
  unfold State.actChanged
  repeat' first
    | with_reducible apply Keeps.refl
    | with_reducible assumption
    | with_reducible apply State.alarmMove_keeps
    | with_reducible apply State.groupChanged_keeps
    | ((with_reducible apply Keeps.of_snd); on_goal 1 => with_reducible assumption)
    | ((with_reducible apply Keeps.of_fst); on_goal 1 => with_reducible assumption)
    | intro _
    | split
    | dsimp -zeta only

theorem State.alarmDropped_keeps {st0 s e g} (hk : Keeps st0 s) : Keeps st0 (State.alarmDropped s e g) := by
  refine hk.trans ?_; clear hk
  unfold State.alarmDropped
  repeat' first
    | with_reducible apply Keeps.refl
    | with_reducible assumption
    | with_reducible apply State.groupChanged_keeps
    | with_reducible apply State.setAlarmState_keeps
    | intro _
    | split
    | dsimp -zeta only

theorem State.unfreeze_keeps {st0 s e} (hk : Keeps st0 s) : Keeps st0 (State.unfreeze s e) := by
  refine hk.trans ?_; clear hk
  unfold State.unfreeze
  repeat' first
    | with_reducible apply Keeps.refl
    | with_reducible assumption
    | with_reducible apply State.groupChanged_keeps
    | with_reducible apply State.alarmMove_keeps
    | intro _
    | split
    | dsimp -zeta only

theorem State.suppress_keeps {st0 s e on} (hk : Keeps st0 s) : Keeps st0 (State.suppress s e on) := by
  refine hk.trans ?_; clear hk
  unfold State.suppress
  repeat' first
    | with_reducible apply Keeps.refl
    | with_reducible assumption
    | (extract_lets +onlyGivenNames a
       first
       | (refine Keeps.cut (m := a) ?_ ?_
          on_goal 2 => (clear_value a; intro _)
          on_goal 1 => (dsimp -zeta only [a]; clear a))
       | (refine Keeps.cut (m := a.2) ?_ ?_
          on_goal 2 => (clear_value a; intro _)
          on_goal 1 => (dsimp -zeta only [a]; clear a))
       | (refine Keeps.cut (m := a.1) ?_ ?_
          on_goal 2 => (clear_value a; intro _)
          on_goal 1 => (dsimp -zeta only [a]; clear a))
       | subst a)
    | with_reducible apply State.setFlag_keeps
    | with_reducible apply State.groupChanged_keeps
    | with_reducible apply State.unfreeze_keeps
    | intro _
    | split
    | dsimp -zeta only

theorem State.ackEntries_keeps {st0 s es tick} (h : Keeps st0 s) : Keeps st0 (State.ackEntries s es tick).2 := by
  refine h.trans ?_; clear h
  have key : ∀ (l : List Nat) (r : Nat × State), Keeps s r.2 →
      Keeps s (l.foldl (fun r e => match r.2.ackState e tick with
        | some v => (r.1 + 1, r.2.setAlarmState e v)
        | none => r) r).2 := by
    intro l
    induction l with
    | nil => exact fun _ h => h
    | cons e l ih =>
      intro r h
      refine ih _ ?_
      dsimp only
      split
      · exact State.setAlarmState_keeps h
      · exact h
  exact key es (0, s) (Keeps.refl s)

theorem State.ackDone_keeps {st0 s g} (hk : Keeps st0 s) : Keeps st0 (State.ackDone s g) := by
  refine hk.trans ?_; clear hk
  unfold State.ackDone
  repeat' first
    | with_reducible apply Keeps.refl
    | with_reducible assumption
    | (extract_lets +onlyGivenNames a
       first
       | (refine Keeps.cut (m := a) ?_ ?_
          on_goal 2 => (clear_value a; intro _)
          on_goal 1 => (dsimp -zeta only [a]; clear a))
       | (refine Keeps.cut (m := a.2) ?_ ?_
          on_goal 2 => (clear_value a; intro _)
          on_goal 1 => (dsimp -zeta only [a]; clear a))
       | (refine Keeps.cut (m := a.1) ?_ ?_
          on_goal 2 => (clear_value a; intro _)
          on_goal 1 => (dsimp -zeta only [a]; clear a))
       | subst a)
    | with_reducible apply State.recount_keeps
    | with_reducible apply State.setFlag_keeps
    | with_reducible apply State.driveBandstand_keeps
    | with_reducible apply State.checkEndAck_keeps
    | intro _
    | split
    | dsimp -zeta only

theorem State.ackGroupOp_keeps {st0 s g tick} (hk : Keeps st0 s) : Keeps st0 (State.ackGroupOp s g tick) := by
  refine hk.trans ?_; clear hk
  unfold State.ackGroupOp
  repeat' first
    | with_reducible apply Keeps.refl
    | with_reducible assumption
    | (extract_lets +onlyGivenNames a
       first
       | (refine Keeps.cut (m := a) ?_ ?_
          on_goal 2 => (clear_value a; intro _)
          on_goal 1 => (dsimp -zeta only [a]; clear a))
       | (refine Keeps.cut (m := a.2) ?_ ?_
          on_goal 2 => (clear_value a; intro _)
          on_goal 1 => (dsimp -zeta only [a]; clear a))
       | (refine Keeps.cut (m := a.1) ?_ ?_
          on_goal 2 => (clear_value a; intro _)
          on_goal 1 => (dsimp -zeta only [a]; clear a))
       | subst a)
    | with_reducible apply State.answer_keeps
    | with_reducible apply State.ackEntries_keeps
    | with_reducible apply State.raise_keeps
    | with_reducible apply State.ackDone_keeps
    | intro _
    | split
    | dsimp -zeta only

theorem State.silenceGroupOp_keeps {st0 s g} (hk : Keeps st0 s) : Keeps st0 (State.silenceGroupOp s g) := by
  refine hk.trans ?_; clear hk
  unfold State.silenceGroupOp
  repeat' first
    | with_reducible apply Keeps.refl
    | with_reducible assumption
    | with_reducible apply State.answer_keeps
    | with_reducible apply State.raise_keeps
    | with_reducible apply State.driveBandstand_keeps
    | with_reducible apply State.setFlag_keeps
    | intro _
    | split
    | dsimp -zeta only

theorem State.entryCheck_keeps {st0 s e f} (hf : ∀ s, Keeps s (f s)) (hk : Keeps st0 s) : Keeps st0 (State.entryCheck s e f) := by
  refine hk.trans ?_; clear hk
  unfold State.entryCheck
  repeat' first
    | with_reducible apply Keeps.refl
    | with_reducible assumption
    | with_reducible apply State.answer_keeps
    | with_reducible apply Keeps.trans' (hf _)
    | with_reducible apply Keeps.trans' (hf _ _)
    | intro _
    | split
    | dsimp -zeta only

theorem State.ackEntryOp_keeps {st0 s e tick} (hk : Keeps st0 s) : Keeps st0 (State.ackEntryOp s e tick) := by
  refine hk.trans ?_; clear hk
  unfold State.ackEntryOp
  repeat' first
    | with_reducible apply Keeps.refl
    | with_reducible assumption
    | with_reducible apply State.entryCheck_keeps
    | with_reducible apply State.answer_keeps
    | with_reducible apply State.ackDone_keeps
    | with_reducible apply State.ackEntries_keeps
    | ((with_reducible apply Keeps.of_snd); on_goal 1 => with_reducible assumption)
    | ((with_reducible apply Keeps.of_fst); on_goal 1 => with_reducible assumption)
    | intro _
    | split
    | dsimp -zeta only

theorem State.setShelveDue_keeps {st0 s e t} (hk : Keeps st0 s) : Keeps st0 (State.setShelveDue s e t) := by
  refine hk.trans ?_; clear hk
  unfold State.setShelveDue
  repeat' first
    | with_reducible apply Keeps.refl
    | with_reducible assumption
    | with_reducible apply State.setAlm_keeps
    | intro _
    | split
    | dsimp -zeta only

theorem State.shelveOp_keeps {st0 s e secs} (hk : Keeps st0 s) : Keeps st0 (State.shelveOp s e secs) := by
  refine hk.trans ?_; clear hk
  unfold State.shelveOp
  repeat' first
    | with_reducible apply Keeps.refl
    | with_reducible assumption
    | (extract_lets +onlyGivenNames a
       first
       | (refine Keeps.cut (m := a) ?_ ?_
          on_goal 2 => (clear_value a; intro _)
          on_goal 1 => (dsimp -zeta only [a]; clear a))
       | (refine Keeps.cut (m := a.2) ?_ ?_
          on_goal 2 => (clear_value a; intro _)
          on_goal 1 => (dsimp -zeta only [a]; clear a))
       | (refine Keeps.cut (m := a.1) ?_ ?_
          on_goal 2 => (clear_value a; intro _)
          on_goal 1 => (dsimp -zeta only [a]; clear a))
       | subst a)
    | with_reducible apply State.entryCheck_keeps
    | with_reducible apply State.answer_keeps
    | with_reducible apply State.setFld_keeps
    | with_reducible apply State.setShelveDue_keeps
    | with_reducible apply State.setFlag_keeps
    | with_reducible apply State.raise_keeps
    | with_reducible apply State.groupChanged_keeps
    | intro _
    | split
    | dsimp -zeta only

theorem State.endShelve_keeps {st0 s e cause} (hk : Keeps st0 s) : Keeps st0 (State.endShelve s e cause) := by
  refine hk.trans ?_; clear hk
  unfold State.endShelve
  repeat' first
    | with_reducible apply Keeps.refl
    | with_reducible assumption
    | (extract_lets +onlyGivenNames a
       first
       | (refine Keeps.cut (m := a) ?_ ?_
          on_goal 2 => (clear_value a; intro _)
          on_goal 1 => (dsimp -zeta only [a]; clear a))
       | (refine Keeps.cut (m := a.2) ?_ ?_
          on_goal 2 => (clear_value a; intro _)
          on_goal 1 => (dsimp -zeta only [a]; clear a))
       | (refine Keeps.cut (m := a.1) ?_ ?_
          on_goal 2 => (clear_value a; intro _)
          on_goal 1 => (dsimp -zeta only [a]; clear a))
       | subst a)
    | with_reducible apply State.setFld_keeps
    | with_reducible apply State.setShelveDue_keeps
    | with_reducible apply State.raise_keeps
    | with_reducible apply State.setFlag_keeps
    | with_reducible apply State.unfreeze_keeps
    | intro _
    | split
    | dsimp -zeta only

theorem State.unshelveOp_keeps {st0 s e} (hk : Keeps st0 s) : Keeps st0 (State.unshelveOp s e) := by
  refine hk.trans ?_; clear hk
  unfold State.unshelveOp
  repeat' first
    | with_reducible apply Keeps.refl
    | with_reducible assumption
    | with_reducible apply State.entryCheck_keeps
    | with_reducible apply State.answer_keeps
    | with_reducible apply State.endShelve_keeps
    | ((with_reducible apply Keeps.of_snd); on_goal 1 => with_reducible assumption)
    | ((with_reducible apply Keeps.of_fst); on_goal 1 => with_reducible assumption)
    | intro _
    | split
    | dsimp -zeta only

theorem State.oosOp_keeps {st0 s e} (hk : Keeps st0 s) : Keeps st0 (State.oosOp s e) := by
  refine hk.trans ?_; clear hk
  unfold State.oosOp
  repeat' first
    | with_reducible apply Keeps.refl
    | with_reducible assumption
    | (extract_lets +onlyGivenNames a
       first
       | (refine Keeps.cut (m := a) ?_ ?_
          on_goal 2 => (clear_value a; intro _)
          on_goal 1 => (dsimp -zeta only [a]; clear a))
       | (refine Keeps.cut (m := a.2) ?_ ?_
          on_goal 2 => (clear_value a; intro _)
          on_goal 1 => (dsimp -zeta only [a]; clear a))
       | (refine Keeps.cut (m := a.1) ?_ ?_
          on_goal 2 => (clear_value a; intro _)
          on_goal 1 => (dsimp -zeta only [a]; clear a))
       | subst a)
    | with_reducible apply State.entryCheck_keeps
    | with_reducible apply State.answer_keeps
    | with_reducible apply State.setAlarmState_keeps
    | with_reducible apply State.setFlag_keeps
    | with_reducible apply State.raise_keeps
    | with_reducible apply State.groupChanged_keeps
    | intro _
    | split
    | dsimp -zeta only

theorem State.returnOp_keeps {st0 s e} (hk : Keeps st0 s) : Keeps st0 (State.returnOp s e) := by
  refine hk.trans ?_; clear hk
  unfold State.returnOp
  repeat' first
    | with_reducible apply Keeps.refl
    | with_reducible assumption
    | (extract_lets +onlyGivenNames a
       first
       | (refine Keeps.cut (m := a) ?_ ?_
          on_goal 2 => (clear_value a; intro _)
          on_goal 1 => (dsimp -zeta only [a]; clear a))
       | (refine Keeps.cut (m := a.2) ?_ ?_
          on_goal 2 => (clear_value a; intro _)
          on_goal 1 => (dsimp -zeta only [a]; clear a))
       | (refine Keeps.cut (m := a.1) ?_ ?_
          on_goal 2 => (clear_value a; intro _)
          on_goal 1 => (dsimp -zeta only [a]; clear a))
       | subst a)
    | with_reducible apply State.entryCheck_keeps
    | with_reducible apply State.answer_keeps
    | with_reducible apply State.raise_keeps
    | with_reducible apply State.setFlag_keeps
    | with_reducible apply State.groupChanged_keeps
    | with_reducible apply State.setAlarmState_keeps
    | with_reducible apply State.stamp_keeps
    | with_reducible apply State.alarmMove_keeps
    | with_reducible apply State.applyIf_keeps
    | ((with_reducible apply Keeps.of_snd); on_goal 1 => with_reducible assumption)
    | ((with_reducible apply Keeps.of_fst); on_goal 1 => with_reducible assumption)
    | intro _
    | split
    | dsimp -zeta only

theorem State.startPlanOp_keeps {st0 s p cause} (hk : Keeps st0 s) : Keeps st0 (State.startPlanOp s p cause) := by
  refine hk.trans ?_; clear hk
  unfold State.startPlanOp
  repeat' first
    | with_reducible apply Keeps.refl
    | with_reducible assumption
    | with_reducible apply State.answer_keeps
    | with_reducible apply State.startPlan_keeps
    | intro _
    | split
    | dsimp -zeta only

theorem State.endPlanAct_keeps {st0 s p} (hk : Keeps st0 s) : Keeps st0 (State.endPlanAct s p) := by
  refine hk.trans ?_; clear hk
  unfold State.endPlanAct
  repeat' first
    | with_reducible apply Keeps.refl
    | with_reducible assumption
    | with_reducible apply State.answer_keeps
    | with_reducible apply State.endPlanOp_keeps
    | intro _
    | split
    | dsimp -zeta only

theorem State.acceptAt_keeps {st0 s p k by_} (hk : Keeps st0 s) : Keeps st0 (State.acceptAt s p k by_) := by
  refine hk.trans ?_; clear hk
  unfold State.acceptAt
  repeat' first
    | with_reducible apply Keeps.refl
    | with_reducible assumption
    | (extract_lets +onlyGivenNames a
       first
       | (refine Keeps.cut (m := a) ?_ ?_
          on_goal 2 => (clear_value a; intro _)
          on_goal 1 => (dsimp -zeta only [a]; clear a))
       | (refine Keeps.cut (m := a.2) ?_ ?_
          on_goal 2 => (clear_value a; intro _)
          on_goal 1 => (dsimp -zeta only [a]; clear a))
       | (refine Keeps.cut (m := a.1) ?_ ?_
          on_goal 2 => (clear_value a; intro _)
          on_goal 1 => (dsimp -zeta only [a]; clear a))
       | subst a)
    | with_reducible apply State.endPlanOp_keeps
    | with_reducible apply State.setFld_keeps
    | with_reducible apply State.runTimer_keeps
    | with_reducible apply State.driveBandstand_keeps
    | with_reducible apply State.raise_keeps
    | intro _
    | split
    | dsimp -zeta only

theorem State.silencePlanOp_keeps {st0 s p} (hk : Keeps st0 s) : Keeps st0 (State.silencePlanOp s p) := by
  refine hk.trans ?_; clear hk
  unfold State.silencePlanOp
  repeat' first
    | with_reducible apply Keeps.refl
    | with_reducible assumption
    | with_reducible apply State.answer_keeps
    | with_reducible apply State.driveBandstand_keeps
    | with_reducible apply State.setFld_keeps
    | intro _
    | split
    | dsimp -zeta only

theorem State.noteWk_keeps {st0 s p phase} (hk : Keeps st0 s) : Keeps st0 (State.noteWk s p phase) := by
  refine hk.trans ?_; clear hk
  unfold State.noteWk
  repeat' first
    | with_reducible apply Keeps.refl
    | with_reducible assumption
    | with_reducible apply State.raise_keeps
    | intro _
    | split
    | dsimp -zeta only

theorem State.armed_keeps {st0 s p} (hk : Keeps st0 s) : Keeps st0 (State.armed s p) := by
  refine hk.trans ?_; clear hk
  unfold State.armed
  repeat' first
    | with_reducible apply Keeps.refl
    | with_reducible assumption
    | (extract_lets +onlyGivenNames a
       first
       | (refine Keeps.cut (m := a) ?_ ?_
          on_goal 2 => (clear_value a; intro _)
          on_goal 1 => (dsimp -zeta only [a]; clear a))
       | (refine Keeps.cut (m := a.2) ?_ ?_
          on_goal 2 => (clear_value a; intro _)
          on_goal 1 => (dsimp -zeta only [a]; clear a))
       | (refine Keeps.cut (m := a.1) ?_ ?_
          on_goal 2 => (clear_value a; intro _)
          on_goal 1 => (dsimp -zeta only [a]; clear a))
       | subst a)
    | with_reducible apply State.wr_keeps
    | with_reducible apply State.driveBandstand_keeps
    | with_reducible apply State.markRun_keeps
    | with_reducible apply State.setPlan_keeps
    | intro _
    | split
    | dsimp -zeta only

theorem State.wkReset_keeps {st0 s p} (hk : Keeps st0 s) : Keeps st0 (State.wkReset s p) := by
  refine hk.trans ?_; clear hk
  unfold State.wkReset
  repeat' first
    | with_reducible apply Keeps.refl
    | with_reducible assumption
    | with_reducible apply State.noteWk_keeps
    | with_reducible apply State.armed_keeps
    | intro _
    | split
    | dsimp -zeta only

theorem State.levelInput_keeps {st0 s p k by_} (hk : Keeps st0 s) : Keeps st0 (State.levelInput s p k by_) := by
  refine hk.trans ?_; clear hk
  unfold State.levelInput
  repeat' first
    | with_reducible apply Keeps.refl
    | with_reducible assumption
    | with_reducible apply State.wkReset_keeps
    | with_reducible apply State.acceptAt_keeps
    | intro _
    | split
    | dsimp -zeta only

theorem State.acceptLevelOp_keeps {st0 s p k} (hk : Keeps st0 s) : Keeps st0 (State.acceptLevelOp s p k) := by
  refine hk.trans ?_; clear hk
  unfold State.acceptLevelOp
  repeat' first
    | with_reducible apply Keeps.refl
    | with_reducible assumption
    | with_reducible apply State.answer_keeps
    | with_reducible apply State.levelInput_keeps
    | intro _
    | split
    | dsimp -zeta only

theorem State.armOp_keeps {st0 s p} (hk : Keeps st0 s) : Keeps st0 (State.armOp s p) := by
  refine hk.trans ?_; clear hk
  unfold State.armOp
  repeat' first
    | with_reducible apply Keeps.refl
    | with_reducible assumption
    | with_reducible apply State.answer_keeps
    | with_reducible apply State.noteWk_keeps
    | with_reducible apply State.armed_keeps
    | intro _
    | split
    | dsimp -zeta only

theorem State.disarmOp_keeps {st0 s p} (hk : Keeps st0 s) : Keeps st0 (State.disarmOp s p) := by
  refine hk.trans ?_; clear hk
  unfold State.disarmOp
  repeat' first
    | with_reducible apply Keeps.refl
    | with_reducible assumption
    | (extract_lets +onlyGivenNames a
       first
       | (refine Keeps.cut (m := a) ?_ ?_
          on_goal 2 => (clear_value a; intro _)
          on_goal 1 => (dsimp -zeta only [a]; clear a))
       | (refine Keeps.cut (m := a.2) ?_ ?_
          on_goal 2 => (clear_value a; intro _)
          on_goal 1 => (dsimp -zeta only [a]; clear a))
       | (refine Keeps.cut (m := a.1) ?_ ?_
          on_goal 2 => (clear_value a; intro _)
          on_goal 1 => (dsimp -zeta only [a]; clear a))
       | subst a)
    | with_reducible apply State.answer_keeps
    | with_reducible apply State.wr_keeps
    | with_reducible apply State.setPlan_keeps
    | with_reducible apply State.noteWk_keeps
    | with_reducible apply State.driveBandstand_keeps
    | with_reducible apply State.markRun_keeps
    | intro _
    | split
    | dsimp -zeta only

theorem State.selectEngineer_keeps {st0 s k} (hk : Keeps st0 s) : Keeps st0 (State.selectEngineer s k) := by
  refine hk.trans ?_; clear hk
  unfold State.selectEngineer
  repeat' first
    | with_reducible apply Keeps.refl
    | with_reducible assumption
    | with_reducible apply State.driveBandstand_keeps
    | with_reducible apply State.setFlag_keeps
    | with_reducible apply State.setFld_keeps
    | intro _
    | split
    | dsimp -zeta only

theorem State.selectWatchOp_keeps {st0 s tgt k} (hk : Keeps st0 s) : Keeps st0 (State.selectWatchOp s tgt k) := by
  refine hk.trans ?_; clear hk
  unfold State.selectWatchOp
  repeat' first
    | with_reducible apply Keeps.refl
    | with_reducible assumption
    | with_reducible apply State.answer_keeps
    | with_reducible apply State.selectEngineer_keeps
    | intro _
    | split
    | dsimp -zeta only

theorem execAckGroup_keeps {g tick t s} : OutKeeps s (execAckGroup g tick t s) := by
  unfold execAckGroup
  repeat' first
    | with_reducible apply Keeps.refl
    | with_reducible assumption
    | with_reducible apply OutKeeps.refused
    | with_reducible apply OutKeeps.next
    | with_reducible apply State.ackGroupOp_keeps
    | with_reducible apply State.atTime_keeps
    | with_reducible apply OutKeeps.ite
    | intro _
    | split
    | dsimp -zeta only

theorem execSilenceGroup_keeps {g s} : OutKeeps s (execSilenceGroup g s) := by
  unfold execSilenceGroup
  repeat' first
    | with_reducible apply Keeps.refl
    | with_reducible assumption
    | with_reducible apply OutKeeps.refused
    | with_reducible apply OutKeeps.next
    | with_reducible apply State.silenceGroupOp_keeps
    | with_reducible apply OutKeeps.ite
    | intro _
    | split
    | dsimp -zeta only

theorem execAckEntry_keeps {e tick t s} : OutKeeps s (execAckEntry e tick t s) := by
  unfold execAckEntry
  repeat' first
    | with_reducible apply Keeps.refl
    | with_reducible assumption
    | with_reducible apply OutKeeps.refused
    | with_reducible apply OutKeeps.next
    | with_reducible apply State.ackEntryOp_keeps
    | with_reducible apply State.atTime_keeps
    | with_reducible apply OutKeeps.ite
    | intro _
    | split
    | dsimp -zeta only

theorem execShelveEntry_keeps {e secs t s} : OutKeeps s (execShelveEntry e secs t s) := by
  unfold execShelveEntry
  repeat' first
    | with_reducible apply Keeps.refl
    | with_reducible assumption
    | with_reducible apply OutKeeps.refused
    | with_reducible apply OutKeeps.next
    | with_reducible apply State.shelveOp_keeps
    | with_reducible apply State.atTime_keeps
    | with_reducible apply OutKeeps.ite
    | intro _
    | split
    | dsimp -zeta only

theorem execUnshelveEntry_keeps {e t s} : OutKeeps s (execUnshelveEntry e t s) := by
  unfold execUnshelveEntry
  repeat' first
    | with_reducible apply Keeps.refl
    | with_reducible assumption
    | with_reducible apply OutKeeps.refused
    | with_reducible apply OutKeeps.next
    | with_reducible apply State.unshelveOp_keeps
    | with_reducible apply State.atTime_keeps
    | with_reducible apply OutKeeps.ite
    | intro _
    | split
    | dsimp -zeta only

theorem execOutOfService_keeps {e s} : OutKeeps s (execOutOfService e s) := by
  unfold execOutOfService
  repeat' first
    | with_reducible apply Keeps.refl
    | with_reducible assumption
    | with_reducible apply OutKeeps.refused
    | with_reducible apply OutKeeps.next
    | with_reducible apply State.oosOp_keeps
    | with_reducible apply OutKeeps.ite
    | intro _
    | split
    | dsimp -zeta only

theorem execReturnToService_keeps {e t s} : OutKeeps s (execReturnToService e t s) := by
  unfold execReturnToService
  repeat' first
    | with_reducible apply Keeps.refl
    | with_reducible assumption
    | with_reducible apply OutKeeps.refused
    | with_reducible apply OutKeeps.next
    | with_reducible apply State.returnOp_keeps
    | with_reducible apply State.atTime_keeps
    | with_reducible apply OutKeeps.ite
    | intro _
    | split
    | dsimp -zeta only

theorem execStartPlan_keeps {p cause t s} : OutKeeps s (execStartPlan p cause t s) := by
  unfold execStartPlan
  repeat' first
    | with_reducible apply Keeps.refl
    | with_reducible assumption
    | with_reducible apply OutKeeps.refused
    | with_reducible apply OutKeeps.next
    | with_reducible apply State.startPlanOp_keeps
    | with_reducible apply State.atTime_keeps
    | with_reducible apply OutKeeps.ite
    | intro _
    | split
    | dsimp -zeta only

theorem execEndPlan_keeps {p t s} : OutKeeps s (execEndPlan p t s) := by
  unfold execEndPlan
  repeat' first
    | with_reducible apply Keeps.refl
    | with_reducible assumption
    | with_reducible apply OutKeeps.refused
    | with_reducible apply OutKeeps.next
    | with_reducible apply State.endPlanAct_keeps
    | with_reducible apply State.atTime_keeps
    | with_reducible apply OutKeeps.ite
    | intro _
    | split
    | dsimp -zeta only

theorem execAcceptLevel_keeps {p level t s} : OutKeeps s (execAcceptLevel p level t s) := by
  unfold execAcceptLevel
  repeat' first
    | with_reducible apply Keeps.refl
    | with_reducible assumption
    | with_reducible apply OutKeeps.refused
    | with_reducible apply OutKeeps.next
    | with_reducible apply State.acceptLevelOp_keeps
    | with_reducible apply State.atTime_keeps
    | with_reducible apply OutKeeps.ite
    | intro _
    | split
    | dsimp -zeta only

theorem execSilencePlan_keeps {p t s} : OutKeeps s (execSilencePlan p t s) := by
  unfold execSilencePlan
  repeat' first
    | with_reducible apply Keeps.refl
    | with_reducible assumption
    | with_reducible apply OutKeeps.refused
    | with_reducible apply OutKeeps.next
    | with_reducible apply State.silencePlanOp_keeps
    | with_reducible apply State.atTime_keeps
    | with_reducible apply OutKeeps.ite
    | intro _
    | split
    | dsimp -zeta only

theorem execArmWatchKeeper_keeps {p t s} : OutKeeps s (execArmWatchKeeper p t s) := by
  unfold execArmWatchKeeper
  repeat' first
    | with_reducible apply Keeps.refl
    | with_reducible assumption
    | with_reducible apply OutKeeps.refused
    | with_reducible apply OutKeeps.next
    | with_reducible apply State.armOp_keeps
    | with_reducible apply State.atTime_keeps
    | with_reducible apply OutKeeps.ite
    | intro _
    | split
    | dsimp -zeta only

theorem execDisarmWatchKeeper_keeps {p t s} : OutKeeps s (execDisarmWatchKeeper p t s) := by
  unfold execDisarmWatchKeeper
  repeat' first
    | with_reducible apply Keeps.refl
    | with_reducible assumption
    | with_reducible apply OutKeeps.refused
    | with_reducible apply OutKeeps.next
    | with_reducible apply State.disarmOp_keeps
    | with_reducible apply State.atTime_keeps
    | with_reducible apply OutKeeps.ite
    | intro _
    | split
    | dsimp -zeta only

theorem execSelectWatch_keeps {tgt engineer t s} : OutKeeps s (execSelectWatch tgt engineer t s) := by
  unfold execSelectWatch
  repeat' first
    | with_reducible apply Keeps.refl
    | with_reducible assumption
    | with_reducible apply OutKeeps.refused
    | with_reducible apply OutKeeps.next
    | with_reducible apply State.selectWatchOp_keeps
    | with_reducible apply State.atTime_keeps
    | with_reducible apply OutKeeps.ite
    | intro _
    | split
    | dsimp -zeta only

theorem execShelveExpiry_keeps {e t s} : OutKeeps s (execShelveExpiry e t s) := by
  unfold execShelveExpiry
  repeat' first
    | with_reducible apply Keeps.refl
    | with_reducible assumption
    | (extract_lets +onlyGivenNames a
       first
       | (refine Keeps.cut (m := a) ?_ ?_
          on_goal 2 => (clear_value a; intro _)
          on_goal 1 => (dsimp -zeta only [a]; clear a))
       | (refine Keeps.cut (m := a.2) ?_ ?_
          on_goal 2 => (clear_value a; intro _)
          on_goal 1 => (dsimp -zeta only [a]; clear a))
       | (refine Keeps.cut (m := a.1) ?_ ?_
          on_goal 2 => (clear_value a; intro _)
          on_goal 1 => (dsimp -zeta only [a]; clear a))
       | subst a)
    | with_reducible apply OutKeeps.refused
    | with_reducible apply OutKeeps.next
    | with_reducible apply State.atTime_keeps
    | with_reducible apply State.endShelve_keeps
    | ((with_reducible apply Keeps.of_snd); on_goal 1 => with_reducible assumption)
    | ((with_reducible apply Keeps.of_fst); on_goal 1 => with_reducible assumption)
    | with_reducible apply OutKeeps.ite
    | intro _
    | split
    | dsimp -zeta only

theorem State.levelTimer_keeps {st0 s p} (hk : Keeps st0 s) : Keeps st0 (State.levelTimer s p) := by
  refine hk.trans ?_; clear hk
  unfold State.levelTimer
  repeat' first
    | with_reducible apply Keeps.refl
    | with_reducible assumption
    | (extract_lets +onlyGivenNames a
       first
       | (refine Keeps.cut (m := a) ?_ ?_
          on_goal 2 => (clear_value a; intro _)
          on_goal 1 => (dsimp -zeta only [a]; clear a))
       | (refine Keeps.cut (m := a.2) ?_ ?_
          on_goal 2 => (clear_value a; intro _)
          on_goal 1 => (dsimp -zeta only [a]; clear a))
       | (refine Keeps.cut (m := a.1) ?_ ?_
          on_goal 2 => (clear_value a; intro _)
          on_goal 1 => (dsimp -zeta only [a]; clear a))
       | subst a)
    | with_reducible apply State.addFld_keeps
    | with_reducible apply State.notePlan_keeps
    | with_reducible apply State.driveBandstand_keeps
    | with_reducible apply State.reachLevel_keeps
    | with_reducible apply State.setFld_keeps
    | with_reducible apply State.runTimer_keeps
    | intro _
    | split
    | dsimp -zeta only

theorem execPlanLevelTimer_keeps {p t s} : OutKeeps s (execPlanLevelTimer p t s) := by
  unfold execPlanLevelTimer
  repeat' first
    | with_reducible apply Keeps.refl
    | with_reducible assumption
    | (extract_lets +onlyGivenNames a
       first
       | (refine Keeps.cut (m := a) ?_ ?_
          on_goal 2 => (clear_value a; intro _)
          on_goal 1 => (dsimp -zeta only [a]; clear a))
       | (refine Keeps.cut (m := a.2) ?_ ?_
          on_goal 2 => (clear_value a; intro _)
          on_goal 1 => (dsimp -zeta only [a]; clear a))
       | (refine Keeps.cut (m := a.1) ?_ ?_
          on_goal 2 => (clear_value a; intro _)
          on_goal 1 => (dsimp -zeta only [a]; clear a))
       | subst a)
    | with_reducible apply OutKeeps.refused
    | with_reducible apply OutKeeps.next
    | with_reducible apply State.atTime_keeps
    | with_reducible apply State.levelTimer_keeps
    | ((with_reducible apply Keeps.of_snd); on_goal 1 => with_reducible assumption)
    | ((with_reducible apply Keeps.of_fst); on_goal 1 => with_reducible assumption)
    | with_reducible apply OutKeeps.ite
    | intro _
    | split
    | dsimp -zeta only

theorem State.acceptEdge_keeps {st0 s di p} (hk : Keeps st0 s) : Keeps st0 (State.acceptEdge s di p) := by
  refine hk.trans ?_; clear hk
  unfold State.acceptEdge
  repeat' first
    | with_reducible apply Keeps.refl
    | with_reducible assumption
    | with_reducible apply State.acceptAt_keeps
    | with_reducible apply foldS_keeps
    | ((with_reducible apply Keeps.of_snd); on_goal 1 => with_reducible assumption)
    | ((with_reducible apply Keeps.of_fst); on_goal 1 => with_reducible assumption)
    | intro _
    | split
    | dsimp -zeta only

theorem State.edgeSeen_keeps {st0 s di} (hk : Keeps st0 s) : Keeps st0 (State.edgeSeen s di) := by
  refine hk.trans ?_; clear hk
  unfold State.edgeSeen
  repeat' first
    | with_reducible apply Keeps.refl
    | with_reducible assumption
    | with_reducible apply State.setAlm_keeps
    | intro _
    | split
    | dsimp -zeta only

theorem execAcceptInputEdge_keeps {di t s} : OutKeeps s (execAcceptInputEdge di t s) := by
  unfold execAcceptInputEdge
  repeat' first
    | with_reducible apply Keeps.refl
    | with_reducible assumption
    | (extract_lets +onlyGivenNames a
       first
       | (refine Keeps.cut (m := a) ?_ ?_
          on_goal 2 => (clear_value a; intro _)
          on_goal 1 => (dsimp -zeta only [a]; clear a))
       | (refine Keeps.cut (m := a.2) ?_ ?_
          on_goal 2 => (clear_value a; intro _)
          on_goal 1 => (dsimp -zeta only [a]; clear a))
       | (refine Keeps.cut (m := a.1) ?_ ?_
          on_goal 2 => (clear_value a; intro _)
          on_goal 1 => (dsimp -zeta only [a]; clear a))
       | subst a)
    | with_reducible apply OutKeeps.refused
    | with_reducible apply OutKeeps.next
    | with_reducible apply State.atTime_keeps
    | with_reducible apply State.acceptEdge_keeps
    | with_reducible apply State.edgeSeen_keeps
    | with_reducible apply foldS_keeps
    | ((with_reducible apply Keeps.of_snd); on_goal 1 => with_reducible assumption)
    | ((with_reducible apply Keeps.of_fst); on_goal 1 => with_reducible assumption)
    | with_reducible apply OutKeeps.ite
    | intro _
    | split
    | dsimp -zeta only

theorem execWatchCodeStable_keeps {code t s} : OutKeeps s (execWatchCodeStable code t s) := by
  unfold execWatchCodeStable
  repeat' first
    | with_reducible apply Keeps.refl
    | with_reducible assumption
    | (extract_lets +onlyGivenNames a
       first
       | (refine Keeps.cut (m := a) ?_ ?_
          on_goal 2 => (clear_value a; intro _)
          on_goal 1 => (dsimp -zeta only [a]; clear a))
       | (refine Keeps.cut (m := a.2) ?_ ?_
          on_goal 2 => (clear_value a; intro _)
          on_goal 1 => (dsimp -zeta only [a]; clear a))
       | (refine Keeps.cut (m := a.1) ?_ ?_
          on_goal 2 => (clear_value a; intro _)
          on_goal 1 => (dsimp -zeta only [a]; clear a))
       | subst a)
    | with_reducible apply OutKeeps.refused
    | with_reducible apply OutKeeps.next
    | with_reducible apply State.atTime_keeps
    | with_reducible apply State.selectEngineer_keeps
    | with_reducible apply OutKeeps.ite
    | intro _
    | split
    | dsimp -zeta only

theorem execWkPrewarning_keeps {p t s} : OutKeeps s (execWkPrewarning p t s) := by
  unfold execWkPrewarning
  repeat' first
    | with_reducible apply Keeps.refl
    | with_reducible assumption
    | (extract_lets +onlyGivenNames a
       first
       | (refine Keeps.cut (m := a) ?_ ?_
          on_goal 2 => (clear_value a; intro _)
          on_goal 1 => (dsimp -zeta only [a]; clear a))
       | (refine Keeps.cut (m := a.2) ?_ ?_
          on_goal 2 => (clear_value a; intro _)
          on_goal 1 => (dsimp -zeta only [a]; clear a))
       | (refine Keeps.cut (m := a.1) ?_ ?_
          on_goal 2 => (clear_value a; intro _)
          on_goal 1 => (dsimp -zeta only [a]; clear a))
       | subst a)
    | with_reducible apply OutKeeps.refused
    | with_reducible apply OutKeeps.next
    | with_reducible apply State.atTime_keeps
    | with_reducible apply State.setFld_keeps
    | with_reducible apply State.noteWk_keeps
    | with_reducible apply State.driveBandstand_keeps
    | with_reducible apply State.beginPattern_keeps
    | with_reducible apply OutKeeps.ite
    | intro _
    | split
    | dsimp -zeta only

theorem execWkExpiry_keeps {p t s} : OutKeeps s (execWkExpiry p t s) := by
  unfold execWkExpiry
  repeat' first
    | with_reducible apply Keeps.refl
    | with_reducible assumption
    | (extract_lets +onlyGivenNames a
       first
       | (refine Keeps.cut (m := a) ?_ ?_
          on_goal 2 => (clear_value a; intro _)
          on_goal 1 => (dsimp -zeta only [a]; clear a))
       | (refine Keeps.cut (m := a.2) ?_ ?_
          on_goal 2 => (clear_value a; intro _)
          on_goal 1 => (dsimp -zeta only [a]; clear a))
       | (refine Keeps.cut (m := a.1) ?_ ?_
          on_goal 2 => (clear_value a; intro _)
          on_goal 1 => (dsimp -zeta only [a]; clear a))
       | subst a)
    | with_reducible apply OutKeeps.refused
    | with_reducible apply OutKeeps.next
    | with_reducible apply State.atTime_keeps
    | with_reducible apply State.beginPlan_keeps
    | with_reducible apply State.noteWk_keeps
    | with_reducible apply OutKeeps.ite
    | intro _
    | split
    | dsimp -zeta only

theorem State.resetSeen_keeps {st0 s di} (hk : Keeps st0 s) : Keeps st0 (State.resetSeen s di) := by
  refine hk.trans ?_; clear hk
  unfold State.resetSeen
  repeat' first
    | with_reducible apply Keeps.refl
    | with_reducible assumption
    | with_reducible apply State.setAlm_keeps
    | intro _
    | split
    | dsimp -zeta only

theorem execWkResetInput_keeps {di t s} : OutKeeps s (execWkResetInput di t s) := by
  unfold execWkResetInput
  repeat' first
    | with_reducible apply Keeps.refl
    | with_reducible assumption
    | (extract_lets +onlyGivenNames a
       first
       | (refine Keeps.cut (m := a) ?_ ?_
          on_goal 2 => (clear_value a; intro _)
          on_goal 1 => (dsimp -zeta only [a]; clear a))
       | (refine Keeps.cut (m := a.2) ?_ ?_
          on_goal 2 => (clear_value a; intro _)
          on_goal 1 => (dsimp -zeta only [a]; clear a))
       | (refine Keeps.cut (m := a.1) ?_ ?_
          on_goal 2 => (clear_value a; intro _)
          on_goal 1 => (dsimp -zeta only [a]; clear a))
       | subst a)
    | with_reducible apply OutKeeps.refused
    | with_reducible apply OutKeeps.next
    | with_reducible apply State.atTime_keeps
    | with_reducible apply State.wkReset_keeps
    | with_reducible apply State.resetSeen_keeps
    | with_reducible apply foldS_keeps
    | ((with_reducible apply Keeps.of_snd); on_goal 1 => with_reducible assumption)
    | ((with_reducible apply Keeps.of_fst); on_goal 1 => with_reducible assumption)
    | with_reducible apply OutKeeps.ite
    | intro _
    | split
    | dsimp -zeta only

theorem State.togglePattern_keeps {st0 s p k} (hk : Keeps st0 s) : Keeps st0 (State.togglePattern s p k) := by
  refine hk.trans ?_; clear hk
  unfold State.togglePattern
  repeat' first
    | with_reducible apply Keeps.refl
    | with_reducible assumption
    | with_reducible apply State.driveBandstand_keeps
    | with_reducible apply State.setPlan_keeps
    | intro _
    | split
    | dsimp -zeta only

theorem execPatternToggle_keeps {p lv t s} : OutKeeps s (execPatternToggle p lv t s) := by
  unfold execPatternToggle
  repeat' first
    | with_reducible apply Keeps.refl
    | with_reducible assumption
    | (extract_lets +onlyGivenNames a
       first
       | (refine Keeps.cut (m := a) ?_ ?_
          on_goal 2 => (clear_value a; intro _)
          on_goal 1 => (dsimp -zeta only [a]; clear a))
       | (refine Keeps.cut (m := a.2) ?_ ?_
          on_goal 2 => (clear_value a; intro _)
          on_goal 1 => (dsimp -zeta only [a]; clear a))
       | (refine Keeps.cut (m := a.1) ?_ ?_
          on_goal 2 => (clear_value a; intro _)
          on_goal 1 => (dsimp -zeta only [a]; clear a))
       | subst a)
    | with_reducible apply OutKeeps.refused
    | with_reducible apply OutKeeps.next
    | with_reducible apply State.atTime_keeps
    | with_reducible apply State.togglePattern_keeps
    | with_reducible apply OutKeeps.ite
    | intro _
    | split
    | dsimp -zeta only

theorem State.freshenAlm_keeps {st0 s} (hk : Keeps st0 s) : Keeps st0 (State.freshenAlm s) := by
  refine hk.trans ?_; clear hk
  unfold State.freshenAlm
  repeat' first
    | with_reducible apply Keeps.refl
    | with_reducible assumption
    | (extract_lets +onlyGivenNames a
       first
       | (refine Keeps.cut (m := a) ?_ ?_
          on_goal 2 => (clear_value a; intro _)
          on_goal 1 => (dsimp -zeta only [a]; clear a))
       | (refine Keeps.cut (m := a.2) ?_ ?_
          on_goal 2 => (clear_value a; intro _)
          on_goal 1 => (dsimp -zeta only [a]; clear a))
       | (refine Keeps.cut (m := a.1) ?_ ?_
          on_goal 2 => (clear_value a; intro _)
          on_goal 1 => (dsimp -zeta only [a]; clear a))
       | subst a)
    | with_reducible apply State.wr_keeps
    | with_reducible apply State.setFld_keeps
    | with_reducible apply foldS_keeps
    | ((with_reducible apply Keeps.of_snd); on_goal 1 => with_reducible assumption)
    | ((with_reducible apply Keeps.of_fst); on_goal 1 => with_reducible assumption)
    | intro _
    | split
    | dsimp -zeta only

theorem State.writeMirror_keeps {st0 s} (h : Keeps st0 s) : Keeps st0 (State.writeMirror s) := by
  unfold State.writeMirror
  split
  · exact h
  · exact State.setMirror_keeps (State.freshenAlm_keeps h)
      fun g => tabSetAll_wf (tabKeep_wf (State.sound.mirror g))

theorem execRetainedMirrorWrite_keeps {t s} : OutKeeps s (execRetainedMirrorWrite t s) := by
  unfold execRetainedMirrorWrite
  repeat' first
    | with_reducible apply Keeps.refl
    | with_reducible assumption
    | (extract_lets +onlyGivenNames a
       first
       | (refine Keeps.cut (m := a) ?_ ?_
          on_goal 2 => (clear_value a; intro _)
          on_goal 1 => (dsimp -zeta only [a]; clear a))
       | (refine Keeps.cut (m := a.2) ?_ ?_
          on_goal 2 => (clear_value a; intro _)
          on_goal 1 => (dsimp -zeta only [a]; clear a))
       | (refine Keeps.cut (m := a.1) ?_ ?_
          on_goal 2 => (clear_value a; intro _)
          on_goal 1 => (dsimp -zeta only [a]; clear a))
       | subst a)
    | with_reducible apply OutKeeps.refused
    | with_reducible apply OutKeeps.next
    | with_reducible apply State.atTime_keeps
    | with_reducible apply State.writeMirror_keeps
    | with_reducible apply State.mirrorPd5_keeps
    | with_reducible apply OutKeeps.ite
    | intro _
    | split
    | dsimp -zeta only

end Sys2Proof.Machine
end

