-- ==== Sys2Proof/Laws/KeepsOperands.lean ====
section
/-! SUPPORT. Every operation of `Machine/Operands.lean` keeps the queue and the canonical forms. -/

set_option linter.all false
set_option Elab.async false
set_option maxHeartbeats 60000

namespace Sys2Proof.Machine

theorem State.setSample_keeps {o s n x} (k : Keeps o s) : Keeps o (State.setSample s n x) := k.trans (Keeps.live_ fun h => tabSet_wf (State.sound.live h))

end Sys2Proof.Machine
end

