-- ==== Sys2Proof/Laws/KeepsTwins.lean ====
section
/-! SUPPORT. Every operation of `Machine/Twins.lean` keeps the queue and the canonical forms. -/

set_option linter.all false
set_option Elab.async false
set_option maxHeartbeats 60000

namespace Sys2Proof.Machine

theorem Core.release_wf {k} (g : Core.wf k = true) : (Core.release k).wf = true := by
  unfold Core.release
  split
  · exact g
  · exact g

theorem State.core_wf {s : State} {c : CoreId} (h : s.sound = true) : (s.core c).wf = true := by
  cases c
  · exact State.sound.coreA h
  · exact State.sound.coreB h

theorem State.setCore_keeps {o s : State} {c : CoreId} {k : Core} (g : Keeps o s)
    (h : s.sound = true → k.wf = true) : Keeps o (s.setCore c k) := by
  refine g.trans ?_
  cases c
  · exact Keeps.record State.sound.regs State.sound.mirror h State.sound.coreB State.sound.imgA State.sound.imgB
      State.sound.maps State.sound.live State.sound.xing State.sound.chans State.sound.banks State.sound.seqs
      State.sound.timers State.sound.axes
  · exact Keeps.record State.sound.regs State.sound.mirror State.sound.coreA h State.sound.imgA State.sound.imgB
      State.sound.maps State.sound.live State.sound.xing State.sound.chans State.sound.banks State.sound.seqs
      State.sound.timers State.sound.axes

/-- A core that keeps its memory. -/
theorem State.setCore_same {o s : State} {c : CoreId} {k : Core} (q : Keeps o s) (h : (s.core c).wf = true → k.wf = true) :
    Keeps o (s.setCore c k) := State.setCore_keeps q fun g => h (State.core_wf g)

/-- A core whose memory is empty. -/
theorem State.setCore_empty {o s : State} {c : CoreId} {k : Core} (q : Keeps o s) (h : k.wf = true) :
    Keeps o (s.setCore c k) := State.setCore_keeps q fun _ => h

theorem State.setItems_keeps {st0 s c l} (hk : Keeps st0 s) : Keeps st0 (State.setItems s c l) := by
  refine hk.trans ?_; clear hk
  unfold State.setItems
  repeat' first
    | with_reducible apply Keeps.refl
    | with_reducible assumption
    | with_reducible apply State.setGate_keeps
    | ((with_reducible apply Keeps.of_snd); on_goal 1 => with_reducible assumption)
    | ((with_reducible apply Keeps.of_fst); on_goal 1 => with_reducible assumption)
    | intro _
    | split
    | dsimp -zeta only

theorem State.noteMark_keeps {st0 s c x} (hk : Keeps st0 s) : Keeps st0 (State.noteMark s c x) := by
  refine hk.trans ?_; clear hk
  unfold State.noteMark
  repeat' first
    | with_reducible apply Keeps.refl
    | with_reducible assumption
    | with_reducible apply State.setGate_keeps
    | ((with_reducible apply Keeps.of_snd); on_goal 1 => with_reducible assumption)
    | ((with_reducible apply Keeps.of_fst); on_goal 1 => with_reducible assumption)
    | intro _
    | split
    | dsimp -zeta only

theorem State.needCycle_keeps {st0 s d cause} (hk : Keeps st0 s) : Keeps st0 (State.needCycle s d cause) := by
  refine hk.trans ?_; clear hk
  unfold State.needCycle
  repeat' first
    | with_reducible apply Keeps.refl
    | with_reducible assumption
    | with_reducible apply State.setSup_keeps
    | ((with_reducible apply Keeps.of_snd); on_goal 1 => with_reducible assumption)
    | ((with_reducible apply Keeps.of_fst); on_goal 1 => with_reducible assumption)
    | intro _
    | split
    | dsimp -zeta only

theorem State.orderRestart_keeps {st0 s cause t} (hk : Keeps st0 s) : Keeps st0 (State.orderRestart s cause t) := by
  refine hk.trans ?_; clear hk
  unfold State.orderRestart
  repeat' first
    | with_reducible apply Keeps.refl
    | with_reducible assumption
    | with_reducible apply State.setSup_keeps
    | intro _
    | split
    | dsimp -zeta only

theorem State.noteDivergence_keeps {st0 s cause pos} (hk : Keeps st0 s) : Keeps st0 (State.noteDivergence s cause pos) := by
  refine hk.trans ?_; clear hk
  unfold State.noteDivergence
  repeat' first
    | with_reducible apply Keeps.refl
    | with_reducible assumption
    | (extract_lets +onlyGivenNames a
       first
       | (refine Keeps.cut (m := a) ?_ ?_
          on_goal 2 => (clear_value a; intro _)
          on_goal 1 => (dsimp -zeta only [a]; clear a))
       | (refine Keeps.cut (m := a.2) ?_ ?_
          on_goal 2 => (clear_value a; intro _)
          on_goal 1 => (dsimp -zeta only [a]; clear a))
       | (refine Keeps.cut (m := a.1) ?_ ?_
          on_goal 2 => (clear_value a; intro _)
          on_goal 1 => (dsimp -zeta only [a]; clear a))
       | subst a)
    | with_reducible apply State.setFree_keeps
    | with_reducible apply State.addFld_keeps
    | with_reducible apply State.setFld_keeps
    | with_reducible apply State.wr_keeps
    | with_reducible apply State.wrAll_keeps
    | with_reducible apply State.raise_keeps
    | with_reducible apply State.setGate_keeps
    | intro _
    | split
    | dsimp -zeta only

theorem State.releaseReads_keeps {st0 s} (hk : Keeps st0 s) : Keeps st0 (State.releaseReads s) := by
  refine hk.trans ?_; clear hk
  unfold State.releaseReads
  repeat' first
    | with_reducible apply Keeps.refl
    | with_reducible assumption
    | ((with_reducible apply State.setCore_same); on_goal 2 => (intro g; solve | (repeat' first | with_reducible apply Core.release_wf | exact g)))
    | ((with_reducible apply State.setCore_empty); on_goal 2 => rfl)
    | intro _
    | split
    | dsimp -zeta only

theorem State.startCheck_keeps {st0 s} (hk : Keeps st0 s) : Keeps st0 (State.startCheck s) := by
  refine hk.trans ?_; clear hk
  unfold State.startCheck
  repeat' first
    | with_reducible apply Keeps.refl
    | with_reducible assumption
    | (extract_lets +onlyGivenNames a
       first
       | (refine Keeps.cut (m := a) ?_ ?_
          on_goal 2 => (clear_value a; intro _)
          on_goal 1 => (dsimp -zeta only [a]; clear a))
       | (refine Keeps.cut (m := a.2) ?_ ?_
          on_goal 2 => (clear_value a; intro _)
          on_goal 1 => (dsimp -zeta only [a]; clear a))
       | (refine Keeps.cut (m := a.1) ?_ ?_
          on_goal 2 => (clear_value a; intro _)
          on_goal 1 => (dsimp -zeta only [a]; clear a))
       | subst a)
    | with_reducible apply State.releaseReads_keeps
    | with_reducible apply State.setFld_keeps
    | with_reducible apply State.setGate_keeps
    | intro _
    | split
    | dsimp -zeta only

theorem State.endLate_keeps {st0 s c} (hk : Keeps st0 s) : Keeps st0 (State.endLate s c) := by
  refine hk.trans ?_; clear hk
  unfold State.endLate
  repeat' first
    | with_reducible apply Keeps.refl
    | with_reducible assumption
    | with_reducible apply State.setGate_keeps
    | intro _
    | split
    | dsimp -zeta only

theorem State.leaveTwin_keeps {st0 s c perm} (hk : Keeps st0 s) : Keeps st0 (State.leaveTwin s c perm) := by
  refine hk.trans ?_; clear hk
  unfold State.leaveTwin
  repeat' first
    | with_reducible apply Keeps.refl
    | with_reducible assumption
    | (extract_lets +onlyGivenNames a
       first
       | (refine Keeps.cut (m := a) ?_ ?_
          on_goal 2 => (clear_value a; intro _)
          on_goal 1 => (dsimp -zeta only [a]; clear a))
       | (refine Keeps.cut (m := a.2) ?_ ?_
          on_goal 2 => (clear_value a; intro _)
          on_goal 1 => (dsimp -zeta only [a]; clear a))
       | (refine Keeps.cut (m := a.1) ?_ ?_
          on_goal 2 => (clear_value a; intro _)
          on_goal 1 => (dsimp -zeta only [a]; clear a))
       | subst a)
    | with_reducible apply State.endLate_keeps
    | with_reducible apply State.setItems_keeps
    | with_reducible apply State.setFld_keeps
    | with_reducible apply State.setFlag_keeps
    | with_reducible apply State.applyIf_keeps
    | ((with_reducible apply Keeps.of_snd); on_goal 1 => with_reducible assumption)
    | ((with_reducible apply Keeps.of_fst); on_goal 1 => with_reducible assumption)
    | ((with_reducible apply State.setCore_same); on_goal 2 => (intro g; solve | (repeat' first | with_reducible apply Core.release_wf | exact g)))
    | ((with_reducible apply State.setCore_empty); on_goal 2 => rfl)
    | intro _
    | split
    | dsimp -zeta only

theorem State.isolate_keeps {st0 s c cause perm} (hk : Keeps st0 s) : Keeps st0 (State.isolate s c cause perm) := by
  refine hk.trans ?_; clear hk
  unfold State.isolate
  repeat' first
    | with_reducible apply Keeps.refl
    | with_reducible assumption
    | with_reducible apply State.raise_keeps
    | with_reducible apply State.leaveTwin_keeps
    | intro _
    | split
    | dsimp -zeta only

theorem State.noteVerdict_keeps {st0 s v failA failB crcA crcB} (hk : Keeps st0 s) : Keeps st0 (State.noteVerdict s v failA failB crcA crcB) := by
  refine hk.trans ?_; clear hk
  unfold State.noteVerdict
  repeat' first
    | with_reducible apply Keeps.refl
    | with_reducible assumption
    | (extract_lets +onlyGivenNames a
       first
       | (refine Keeps.cut (m := a) ?_ ?_
          on_goal 2 => (clear_value a; intro _)
          on_goal 1 => (dsimp -zeta only [a]; clear a))
       | (refine Keeps.cut (m := a.2) ?_ ?_
          on_goal 2 => (clear_value a; intro _)
          on_goal 1 => (dsimp -zeta only [a]; clear a))
       | (refine Keeps.cut (m := a.1) ?_ ?_
          on_goal 2 => (clear_value a; intro _)
          on_goal 1 => (dsimp -zeta only [a]; clear a))
       | subst a)
    | with_reducible apply State.setFld_keeps
    | with_reducible apply State.raise_keeps
    | intro _
    | split
    | dsimp -zeta only

theorem State.resumeCores_keeps {st0 s} (hk : Keeps st0 s) : Keeps st0 (State.resumeCores s) := by
  refine hk.trans ?_; clear hk
  unfold State.resumeCores
  repeat' first
    | with_reducible apply Keeps.refl
    | with_reducible assumption
    | with_reducible apply State.setGate_keeps
    | intro _
    | split
    | dsimp -zeta only

theorem State.condemn_keeps {st0 s c cause dc} (hk : Keeps st0 s) : Keeps st0 (State.condemn s c cause dc) := by
  refine hk.trans ?_; clear hk
  unfold State.condemn
  repeat' first
    | with_reducible apply Keeps.refl
    | with_reducible assumption
    | (extract_lets +onlyGivenNames a
       first
       | (refine Keeps.cut (m := a) ?_ ?_
          on_goal 2 => (clear_value a; intro _)
          on_goal 1 => (dsimp -zeta only [a]; clear a))
       | (refine Keeps.cut (m := a.2) ?_ ?_
          on_goal 2 => (clear_value a; intro _)
          on_goal 1 => (dsimp -zeta only [a]; clear a))
       | (refine Keeps.cut (m := a.1) ?_ ?_
          on_goal 2 => (clear_value a; intro _)
          on_goal 1 => (dsimp -zeta only [a]; clear a))
       | subst a)
    | with_reducible apply State.isolate_keeps
    | with_reducible apply State.setGate_keeps
    | with_reducible apply State.needCycle_keeps
    | with_reducible apply State.resumeCores_keeps
    | intro _
    | split
    | dsimp -zeta only

theorem State.condemnAtOnce_keeps {st0 s c cause pos} (hk : Keeps st0 s) : Keeps st0 (State.condemnAtOnce s c cause pos) := by
  refine hk.trans ?_; clear hk
  unfold State.condemnAtOnce
  repeat' first
    | with_reducible apply Keeps.refl
    | with_reducible assumption
    | (extract_lets +onlyGivenNames a
       first
       | (refine Keeps.cut (m := a) ?_ ?_
          on_goal 2 => (clear_value a; intro _)
          on_goal 1 => (dsimp -zeta only [a]; clear a))
       | (refine Keeps.cut (m := a.2) ?_ ?_
          on_goal 2 => (clear_value a; intro _)
          on_goal 1 => (dsimp -zeta only [a]; clear a))
       | (refine Keeps.cut (m := a.1) ?_ ?_
          on_goal 2 => (clear_value a; intro _)
          on_goal 1 => (dsimp -zeta only [a]; clear a))
       | subst a)
    | with_reducible apply State.releaseReads_keeps
    | with_reducible apply State.noteDivergence_keeps
    | with_reducible apply State.noteVerdict_keeps
    | with_reducible apply State.condemn_keeps
    | intro _
    | split
    | dsimp -zeta only

theorem State.diverge_keeps {st0 s cause pos} (hk : Keeps st0 s) : Keeps st0 (State.diverge s cause pos) := by
  refine hk.trans ?_; clear hk
  unfold State.diverge
  repeat' first
    | with_reducible apply Keeps.refl
    | with_reducible assumption
    | with_reducible apply State.startCheck_keeps
    | with_reducible apply State.noteDivergence_keeps
    | intro _
    | split
    | dsimp -zeta only

theorem State.noteHalt_keeps {st0 s c source} (hk : Keeps st0 s) : Keeps st0 (State.noteHalt s c source) := by
  refine hk.trans ?_; clear hk
  unfold State.noteHalt
  repeat' first
    | with_reducible apply Keeps.refl
    | with_reducible assumption
    | with_reducible apply State.raise_keeps
    | intro _
    | split
    | dsimp -zeta only

theorem State.loneHalt_keeps {st0 s c} (hk : Keeps st0 s) : Keeps st0 (State.loneHalt s c) := by
  refine hk.trans ?_; clear hk
  unfold State.loneHalt
  repeat' first
    | with_reducible apply Keeps.refl
    | with_reducible assumption
    | with_reducible apply State.condemnAtOnce_keeps
    | with_reducible apply State.noteHalt_keeps
    | intro _
    | split
    | dsimp -zeta only

theorem State.compareLast_keeps {st0 s c x} (hk : Keeps st0 s) : Keeps st0 (State.compareLast s c x) := by
  refine hk.trans ?_; clear hk
  unfold State.compareLast
  repeat' first
    | with_reducible apply Keeps.refl
    | with_reducible assumption
    | (extract_lets +onlyGivenNames a
       first
       | (refine Keeps.cut (m := a) ?_ ?_
          on_goal 2 => (clear_value a; intro _)
          on_goal 1 => (dsimp -zeta only [a]; clear a))
       | (refine Keeps.cut (m := a.2) ?_ ?_
          on_goal 2 => (clear_value a; intro _)
          on_goal 1 => (dsimp -zeta only [a]; clear a))
       | (refine Keeps.cut (m := a.1) ?_ ?_
          on_goal 2 => (clear_value a; intro _)
          on_goal 1 => (dsimp -zeta only [a]; clear a))
       | subst a)
    | with_reducible apply State.loneHalt_keeps
    | with_reducible apply State.diverge_keeps
    | ((with_reducible apply Keeps.of_snd); on_goal 1 => with_reducible assumption)
    | ((with_reducible apply Keeps.of_fst); on_goal 1 => with_reducible assumption)
    | intro _
    | split
    | dsimp -zeta only

theorem State.present_keeps {st0 s c x} (hk : Keeps st0 s) : Keeps st0 (State.present s c x) := by
  refine hk.trans ?_; clear hk
  unfold State.present
  repeat' first
    | with_reducible apply Keeps.refl
    | with_reducible assumption
    | (extract_lets +onlyGivenNames a
       first
       | (refine Keeps.cut (m := a) ?_ ?_
          on_goal 2 => (clear_value a; intro _)
          on_goal 1 => (dsimp -zeta only [a]; clear a))
       | (refine Keeps.cut (m := a.2) ?_ ?_
          on_goal 2 => (clear_value a; intro _)
          on_goal 1 => (dsimp -zeta only [a]; clear a))
       | (refine Keeps.cut (m := a.1) ?_ ?_
          on_goal 2 => (clear_value a; intro _)
          on_goal 1 => (dsimp -zeta only [a]; clear a))
       | subst a)
    | with_reducible apply State.setItems_keeps
    | with_reducible apply State.compareLast_keeps
    | intro _
    | split
    | dsimp -zeta only

theorem State.lastCoreLost_keeps {st0 s} (hk : Keeps st0 s) : Keeps st0 (State.lastCoreLost s) := by
  refine hk.trans ?_; clear hk
  unfold State.lastCoreLost
  repeat' first
    | with_reducible apply Keeps.refl
    | with_reducible assumption
    | with_reducible apply State.orderRestart_keeps
    | intro _
    | split
    | dsimp -zeta only

theorem State.halt_keeps {st0 s c} (hk : Keeps st0 s) : Keeps st0 (State.halt s c) := by
  refine hk.trans ?_; clear hk
  unfold State.halt
  repeat' first
    | with_reducible apply Keeps.refl
    | with_reducible assumption
    | (extract_lets +onlyGivenNames a
       first
       | (refine Keeps.cut (m := a) ?_ ?_
          on_goal 2 => (clear_value a; intro _)
          on_goal 1 => (dsimp -zeta only [a]; clear a))
       | (refine Keeps.cut (m := a.2) ?_ ?_
          on_goal 2 => (clear_value a; intro _)
          on_goal 1 => (dsimp -zeta only [a]; clear a))
       | (refine Keeps.cut (m := a.1) ?_ ?_
          on_goal 2 => (clear_value a; intro _)
          on_goal 1 => (dsimp -zeta only [a]; clear a))
       | subst a)
    | with_reducible apply State.lastCoreLost_keeps
    | with_reducible apply State.noteHalt_keeps
    | with_reducible apply State.loneHalt_keeps
    | ((with_reducible apply State.setCore_same); on_goal 2 => (intro g; solve | (repeat' first | with_reducible apply Core.release_wf | exact g)))
    | ((with_reducible apply State.setCore_empty); on_goal 2 => rfl)
    | intro _
    | split
    | dsimp -zeta only

end Sys2Proof.Machine
end

