-- ==== Sys2Proof/Laws/KeepsBelvedere.lean ====
section
/-! SUPPORT. Every operation of `Machine/Belvedere.lean` keeps the queue and the canonical forms. -/

set_option linter.all false
set_option Elab.async false
set_option maxHeartbeats 60000

namespace Sys2Proof.Machine

theorem Core.set_wf {k : Core} {i : BitVec 5} {v : Word} (g : k.wf = true) : (Core.set k i v).wf = true := by
  unfold Core.set
  split
  · exact g
  · simp only [Core.wf, Bool.and_eq_true] at g ⊢
    exact ⟨⟨⟨g.1.1.1, tabSet_wf g.1.1.2⟩, g.1.2⟩, g.2⟩

theorem Core.ask_wf {k l} (g : Core.wf k = true) : (Core.ask k l).wf = true := by
  unfold Core.ask
  repeat' first
    | with_reducible apply Core.release_wf
    | with_reducible apply Core.set_wf
    | exact g
    | split

theorem Core.touch_wf {k l} (g : Core.wf k = true) : (Core.touch k l).wf = true := by
  unfold Core.touch
  repeat' first
    | with_reducible apply Core.release_wf
    | with_reducible apply Core.set_wf
    | with_reducible apply Core.ask_wf
    | exact g
    | split

theorem Core.fetchFrom_wf {k l} (g : Core.wf k = true) : (Core.fetchFrom k l).wf = true := by
  unfold Core.fetchFrom
  repeat' first
    | with_reducible apply Core.release_wf
    | with_reducible apply Core.set_wf
    | with_reducible apply Core.ask_wf
    | with_reducible apply Core.touch_wf
    | exact g
    | split

theorem Core.placeLine_wf {k l} (g : Core.wf k = true) : (Core.placeLine k l).wf = true := by
  unfold Core.placeLine
  repeat' first
    | with_reducible apply Core.release_wf
    | with_reducible apply Core.set_wf
    | with_reducible apply Core.ask_wf
    | with_reducible apply Core.touch_wf
    | with_reducible apply Core.fetchFrom_wf
    | exact g
    | split

theorem Core.wait_wf {k : Core} {w : CoreWait} (g : k.wf = true) : Core.wf { k with wait := w } = true := by
  cases k
  exact g

theorem Core.next_wf {k : Core} {wd : BitVec 5} {v : Word} (g : k.wf = true) : (Core.next k wd v).wf = true := by
  have w : (k.set wd v).wf = true := Core.set_wf g
  exact w

theorem Core.setTimer_wf {k : Core} {n : Nat} {due : Option Nat} (g : k.wf = true) : (Core.setTimer k n due).wf = true := by
  simp only [Core.wf, Core.setTimer, Bool.and_eq_true] at g ⊢
  exact ⟨⟨⟨g.1.1.1, g.1.1.2⟩, g.1.2⟩, tabSet_wf g.2⟩

/-- A core whose memory alone is replaced. -/
theorem Core.sram_wf {k : Core} {a : Nat} {l : List Byte} {p : Word} (g : k.wf = true) :
    Core.wf { k with sram := memPut 0 k.sram a l, pc := p } = true := by
  simp only [Core.wf, Bool.and_eq_true] at g ⊢
  exact ⟨⟨⟨memPut_wf g.1.1.1, g.1.1.2⟩, g.1.2⟩, g.2⟩

theorem Core.enter_wf {k k' : Core} {v d : Nat} (e : k.enter v d = some k') (g : k.wf = true) : k'.wf = true := by
  unfold Core.enter at e
  split at e
  · cases e; exact g
  · cases e; exact g
  · contradiction

theorem State.takeExc_keeps {st0 s : State} {c : CoreId} {v d : Nat} (h : Keeps st0 s) :
    Keeps st0 (State.takeExc s c v d) := by
  unfold State.takeExc
  dsimp only
  split
  · exact State.halt_keeps h
  · rename_i k' e
    have g : Keeps st0 (s.setCore c k') := State.setCore_same h (Core.enter_wf e)
    refine State.present_keeps (State.noteMark_keeps ?_)
    split
    · exact State.raise_keeps g
    · exact g

/-- A core that keeps its memory canonical. -/
def CoreKeeps (f : Core → CoreEff) : Prop :=
  ∀ k k', k.wf = true → f k = .done k' → k'.wf = true

theorem State.issue_keeps {st0 s : State} {c : CoreId} {f : Core → State → State} (h : Keeps st0 s)
    (hf : ∀ k s', Keeps s s' → (s'.sound = true → k.wf = true) → Keeps s (f k s')) : Keeps st0 (State.issue s c f) := by
  refine h.trans ?_
  unfold State.issue
  split
  · exact Keeps.refl s
  · split
    · exact State.takeExc_keeps (Keeps.refl s)
    · have a : Keeps s (s.setCore c ((s.core c).fetchFrom (lineOf (s.core c).pc))) :=
        State.setCore_same (Keeps.refl s) Core.fetchFrom_wf
      dsimp only
      split
      · exact State.takeExc_keeps a
      · refine hf _ _ a fun g => ?_
        have w := State.core_wf (c := c) g
        cases c <;> exact w

theorem State.coreStep_keeps {st0 s : State} {c : CoreId} {f : Core → CoreEff} (h : Keeps st0 s) (hf : CoreKeeps f) :
    Keeps st0 (State.coreStep s c f) := by
  refine State.issue_keeps h fun k s' a q => ?_
  cases e : f k with
  | done k' => exact State.setCore_keeps a fun g => hf _ _ (q g) e
  | exc v d => exact State.takeExc_keeps a

theorem coreKeeps_opReg {ok : Bool} {wd : BitVec 5} {f : Core → Word} : CoreKeeps (opReg ok wd f) := by
  intro k k' g e
  unfold opReg at e
  split at e
  · cases e; exact Core.next_wf g
  · contradiction

theorem coreKeeps_jumpTo {t : Word} {k k' : Core} (g : k.wf = true) (e : jumpTo t k = .done k') :
    k'.wf = true := by
  unfold jumpTo at e
  split at e
  · cases e; exact g
  · contradiction

theorem State.alu_keeps {st0 s c wd wa wb f} (hk : Keeps st0 s) : Keeps st0 (State.alu s c wd wa wb f) := by
  refine hk.trans ?_; clear hk
  unfold State.alu
  repeat' first
    | with_reducible apply Keeps.refl
    | with_reducible assumption
    | ((with_reducible apply Keeps.of_snd); on_goal 1 => with_reducible assumption)
    | ((with_reducible apply Keeps.of_fst); on_goal 1 => with_reducible assumption)
    | ((with_reducible apply State.coreStep_keeps)
       on_goal 2 =>
         first
         | exact coreKeeps_opReg
         | (intro k k' g e
            try dsimp only at e
            repeat' split at e
            all_goals first
              | contradiction
              | exact coreKeeps_jumpTo g e
              | exact coreKeeps_jumpTo (Core.set_wf g) e
              | (cases e; first | exact Core.sram_wf g | exact Core.setTimer_wf g | exact Core.next_wf g | (repeat' first | with_reducible apply Core.release_wf | with_reducible apply Core.set_wf | with_reducible apply Core.ask_wf | with_reducible apply Core.touch_wf | with_reducible apply Core.fetchFrom_wf | with_reducible apply Core.placeLine_wf | with_reducible apply Core.next_wf | with_reducible apply Core.setTimer_wf | exact g))))
    | intro _
    | split
    | dsimp -zeta only

theorem State.alu1_keeps {st0 s c wd wa wb f} (hk : Keeps st0 s) : Keeps st0 (State.alu1 s c wd wa wb f) := by
  refine hk.trans ?_; clear hk
  unfold State.alu1
  repeat' first
    | with_reducible apply Keeps.refl
    | with_reducible assumption
    | ((with_reducible apply Keeps.of_snd); on_goal 1 => with_reducible assumption)
    | ((with_reducible apply Keeps.of_fst); on_goal 1 => with_reducible assumption)
    | ((with_reducible apply State.coreStep_keeps)
       on_goal 2 =>
         first
         | exact coreKeeps_opReg
         | (intro k k' g e
            try dsimp only at e
            repeat' split at e
            all_goals first
              | contradiction
              | exact coreKeeps_jumpTo g e
              | exact coreKeeps_jumpTo (Core.set_wf g) e
              | (cases e; first | exact Core.sram_wf g | exact Core.setTimer_wf g | exact Core.next_wf g | (repeat' first | with_reducible apply Core.release_wf | with_reducible apply Core.set_wf | with_reducible apply Core.ask_wf | with_reducible apply Core.touch_wf | with_reducible apply Core.fetchFrom_wf | with_reducible apply Core.placeLine_wf | with_reducible apply Core.next_wf | with_reducible apply Core.setTimer_wf | exact g))))
    | intro _
    | split
    | dsimp -zeta only

theorem State.aluImm_keeps {st0 s c wd wa f} (hk : Keeps st0 s) : Keeps st0 (State.aluImm s c wd wa f) := by
  refine hk.trans ?_; clear hk
  unfold State.aluImm
  repeat' first
    | with_reducible apply Keeps.refl
    | with_reducible assumption
    | ((with_reducible apply Keeps.of_snd); on_goal 1 => with_reducible assumption)
    | ((with_reducible apply Keeps.of_fst); on_goal 1 => with_reducible assumption)
    | ((with_reducible apply State.coreStep_keeps)
       on_goal 2 =>
         first
         | exact coreKeeps_opReg
         | (intro k k' g e
            try dsimp only at e
            repeat' split at e
            all_goals first
              | contradiction
              | exact coreKeeps_jumpTo g e
              | exact coreKeeps_jumpTo (Core.set_wf g) e
              | (cases e; first | exact Core.sram_wf g | exact Core.setTimer_wf g | exact Core.next_wf g | (repeat' first | with_reducible apply Core.release_wf | with_reducible apply Core.set_wf | with_reducible apply Core.ask_wf | with_reducible apply Core.touch_wf | with_reducible apply Core.fetchFrom_wf | with_reducible apply Core.placeLine_wf | with_reducible apply Core.next_wf | with_reducible apply Core.setTimer_wf | exact g))))
    | intro _
    | split
    | dsimp -zeta only

theorem State.branch_keeps {st0 s c wa wb off p} (hk : Keeps st0 s) : Keeps st0 (State.branch s c wa wb off p) := by
  refine hk.trans ?_; clear hk
  unfold State.branch
  repeat' first
    | with_reducible apply Keeps.refl
    | with_reducible assumption
    | ((with_reducible apply Keeps.of_snd); on_goal 1 => with_reducible assumption)
    | ((with_reducible apply Keeps.of_fst); on_goal 1 => with_reducible assumption)
    | ((with_reducible apply State.coreStep_keeps)
       on_goal 2 =>
         first
         | exact coreKeeps_opReg
         | (intro k k' g e
            try dsimp only at e
            repeat' split at e
            all_goals first
              | contradiction
              | exact coreKeeps_jumpTo g e
              | exact coreKeeps_jumpTo (Core.set_wf g) e
              | (cases e; first | exact Core.sram_wf g | exact Core.setTimer_wf g | exact Core.next_wf g | (repeat' first | with_reducible apply Core.release_wf | with_reducible apply Core.set_wf | with_reducible apply Core.ask_wf | with_reducible apply Core.touch_wf | with_reducible apply Core.fetchFrom_wf | with_reducible apply Core.placeLine_wf | with_reducible apply Core.next_wf | with_reducible apply Core.setTimer_wf | exact g))))
    | intro _
    | split
    | dsimp -zeta only

theorem execAdd_keeps {c wd wa wb s} : OutKeeps s (execAdd c wd wa wb s) := by
  unfold execAdd
  repeat' first
    | with_reducible apply Keeps.refl
    | with_reducible assumption
    | with_reducible apply OutKeeps.refused
    | with_reducible apply OutKeeps.next
    | with_reducible apply State.alu_keeps
    | ((with_reducible apply Keeps.of_snd); on_goal 1 => with_reducible assumption)
    | ((with_reducible apply Keeps.of_fst); on_goal 1 => with_reducible assumption)
    | with_reducible apply OutKeeps.ite
    | intro _
    | split
    | dsimp -zeta only

theorem execSub_keeps {c wd wa wb s} : OutKeeps s (execSub c wd wa wb s) := by
  unfold execSub
  repeat' first
    | with_reducible apply Keeps.refl
    | with_reducible assumption
    | with_reducible apply OutKeeps.refused
    | with_reducible apply OutKeeps.next
    | with_reducible apply State.alu_keeps
    | ((with_reducible apply Keeps.of_snd); on_goal 1 => with_reducible assumption)
    | ((with_reducible apply Keeps.of_fst); on_goal 1 => with_reducible assumption)
    | with_reducible apply OutKeeps.ite
    | intro _
    | split
    | dsimp -zeta only

theorem execAdds_keeps {c wd wa wb s} : OutKeeps s (execAdds c wd wa wb s) := by
  unfold execAdds
  repeat' first
    | with_reducible apply Keeps.refl
    | with_reducible assumption
    | with_reducible apply OutKeeps.refused
    | with_reducible apply OutKeeps.next
    | with_reducible apply State.alu_keeps
    | with_reducible apply OutKeeps.ite
    | intro _
    | split
    | dsimp -zeta only

theorem execSubs_keeps {c wd wa wb s} : OutKeeps s (execSubs c wd wa wb s) := by
  unfold execSubs
  repeat' first
    | with_reducible apply Keeps.refl
    | with_reducible assumption
    | with_reducible apply OutKeeps.refused
    | with_reducible apply OutKeeps.next
    | with_reducible apply State.alu_keeps
    | with_reducible apply OutKeeps.ite
    | intro _
    | split
    | dsimp -zeta only

theorem execAnd_keeps {c wd wa wb s} : OutKeeps s (execAnd c wd wa wb s) := by
  unfold execAnd
  repeat' first
    | with_reducible apply Keeps.refl
    | with_reducible assumption
    | with_reducible apply OutKeeps.refused
    | with_reducible apply OutKeeps.next
    | with_reducible apply State.alu_keeps
    | ((with_reducible apply Keeps.of_snd); on_goal 1 => with_reducible assumption)
    | ((with_reducible apply Keeps.of_fst); on_goal 1 => with_reducible assumption)
    | with_reducible apply OutKeeps.ite
    | intro _
    | split
    | dsimp -zeta only

theorem execOr_keeps {c wd wa wb s} : OutKeeps s (execOr c wd wa wb s) := by
  unfold execOr
  repeat' first
    | with_reducible apply Keeps.refl
    | with_reducible assumption
    | with_reducible apply OutKeeps.refused
    | with_reducible apply OutKeeps.next
    | with_reducible apply State.alu_keeps
    | ((with_reducible apply Keeps.of_snd); on_goal 1 => with_reducible assumption)
    | ((with_reducible apply Keeps.of_fst); on_goal 1 => with_reducible assumption)
    | with_reducible apply OutKeeps.ite
    | intro _
    | split
    | dsimp -zeta only

theorem execXor_keeps {c wd wa wb s} : OutKeeps s (execXor c wd wa wb s) := by
  unfold execXor
  repeat' first
    | with_reducible apply Keeps.refl
    | with_reducible assumption
    | with_reducible apply OutKeeps.refused
    | with_reducible apply OutKeeps.next
    | with_reducible apply State.alu_keeps
    | ((with_reducible apply Keeps.of_snd); on_goal 1 => with_reducible assumption)
    | ((with_reducible apply Keeps.of_fst); on_goal 1 => with_reducible assumption)
    | with_reducible apply OutKeeps.ite
    | intro _
    | split
    | dsimp -zeta only

theorem execNor_keeps {c wd wa wb s} : OutKeeps s (execNor c wd wa wb s) := by
  unfold execNor
  repeat' first
    | with_reducible apply Keeps.refl
    | with_reducible assumption
    | with_reducible apply OutKeeps.refused
    | with_reducible apply OutKeeps.next
    | with_reducible apply State.alu_keeps
    | ((with_reducible apply Keeps.of_snd); on_goal 1 => with_reducible assumption)
    | ((with_reducible apply Keeps.of_fst); on_goal 1 => with_reducible assumption)
    | with_reducible apply OutKeeps.ite
    | intro _
    | split
    | dsimp -zeta only

theorem execSll_keeps {c wd wa wb s} : OutKeeps s (execSll c wd wa wb s) := by
  unfold execSll
  repeat' first
    | with_reducible apply Keeps.refl
    | with_reducible assumption
    | with_reducible apply OutKeeps.refused
    | with_reducible apply OutKeeps.next
    | with_reducible apply State.alu_keeps
    | ((with_reducible apply Keeps.of_snd); on_goal 1 => with_reducible assumption)
    | ((with_reducible apply Keeps.of_fst); on_goal 1 => with_reducible assumption)
    | with_reducible apply OutKeeps.ite
    | intro _
    | split
    | dsimp -zeta only

theorem execSrl_keeps {c wd wa wb s} : OutKeeps s (execSrl c wd wa wb s) := by
  unfold execSrl
  repeat' first
    | with_reducible apply Keeps.refl
    | with_reducible assumption
    | with_reducible apply OutKeeps.refused
    | with_reducible apply OutKeeps.next
    | with_reducible apply State.alu_keeps
    | ((with_reducible apply Keeps.of_snd); on_goal 1 => with_reducible assumption)
    | ((with_reducible apply Keeps.of_fst); on_goal 1 => with_reducible assumption)
    | with_reducible apply OutKeeps.ite
    | intro _
    | split
    | dsimp -zeta only

theorem execSra_keeps {c wd wa wb s} : OutKeeps s (execSra c wd wa wb s) := by
  unfold execSra
  repeat' first
    | with_reducible apply Keeps.refl
    | with_reducible assumption
    | with_reducible apply OutKeeps.refused
    | with_reducible apply OutKeeps.next
    | with_reducible apply State.alu_keeps
    | ((with_reducible apply Keeps.of_snd); on_goal 1 => with_reducible assumption)
    | ((with_reducible apply Keeps.of_fst); on_goal 1 => with_reducible assumption)
    | with_reducible apply OutKeeps.ite
    | intro _
    | split
    | dsimp -zeta only

theorem execSlt_keeps {c wd wa wb s} : OutKeeps s (execSlt c wd wa wb s) := by
  unfold execSlt
  repeat' first
    | with_reducible apply Keeps.refl
    | with_reducible assumption
    | with_reducible apply OutKeeps.refused
    | with_reducible apply OutKeeps.next
    | with_reducible apply State.alu_keeps
    | ((with_reducible apply Keeps.of_snd); on_goal 1 => with_reducible assumption)
    | ((with_reducible apply Keeps.of_fst); on_goal 1 => with_reducible assumption)
    | with_reducible apply OutKeeps.ite
    | intro _
    | split
    | dsimp -zeta only

theorem execSltu_keeps {c wd wa wb s} : OutKeeps s (execSltu c wd wa wb s) := by
  unfold execSltu
  repeat' first
    | with_reducible apply Keeps.refl
    | with_reducible assumption
    | with_reducible apply OutKeeps.refused
    | with_reducible apply OutKeeps.next
    | with_reducible apply State.alu_keeps
    | ((with_reducible apply Keeps.of_snd); on_goal 1 => with_reducible assumption)
    | ((with_reducible apply Keeps.of_fst); on_goal 1 => with_reducible assumption)
    | with_reducible apply OutKeeps.ite
    | intro _
    | split
    | dsimp -zeta only

theorem execMin_keeps {c wd wa wb s} : OutKeeps s (execMin c wd wa wb s) := by
  unfold execMin
  repeat' first
    | with_reducible apply Keeps.refl
    | with_reducible assumption
    | with_reducible apply OutKeeps.refused
    | with_reducible apply OutKeeps.next
    | with_reducible apply State.alu_keeps
    | ((with_reducible apply Keeps.of_snd); on_goal 1 => with_reducible assumption)
    | ((with_reducible apply Keeps.of_fst); on_goal 1 => with_reducible assumption)
    | with_reducible apply OutKeeps.ite
    | intro _
    | split
    | dsimp -zeta only

theorem execMax_keeps {c wd wa wb s} : OutKeeps s (execMax c wd wa wb s) := by
  unfold execMax
  repeat' first
    | with_reducible apply Keeps.refl
    | with_reducible assumption
    | with_reducible apply OutKeeps.refused
    | with_reducible apply OutKeeps.next
    | with_reducible apply State.alu_keeps
    | ((with_reducible apply Keeps.of_snd); on_goal 1 => with_reducible assumption)
    | ((with_reducible apply Keeps.of_fst); on_goal 1 => with_reducible assumption)
    | with_reducible apply OutKeeps.ite
    | intro _
    | split
    | dsimp -zeta only

theorem execMinu_keeps {c wd wa wb s} : OutKeeps s (execMinu c wd wa wb s) := by
  unfold execMinu
  repeat' first
    | with_reducible apply Keeps.refl
    | with_reducible assumption
    | with_reducible apply OutKeeps.refused
    | with_reducible apply OutKeeps.next
    | with_reducible apply State.alu_keeps
    | ((with_reducible apply Keeps.of_snd); on_goal 1 => with_reducible assumption)
    | ((with_reducible apply Keeps.of_fst); on_goal 1 => with_reducible assumption)
    | with_reducible apply OutKeeps.ite
    | intro _
    | split
    | dsimp -zeta only

theorem execMaxu_keeps {c wd wa wb s} : OutKeeps s (execMaxu c wd wa wb s) := by
  unfold execMaxu
  repeat' first
    | with_reducible apply Keeps.refl
    | with_reducible assumption
    | with_reducible apply OutKeeps.refused
    | with_reducible apply OutKeeps.next
    | with_reducible apply State.alu_keeps
    | ((with_reducible apply Keeps.of_snd); on_goal 1 => with_reducible assumption)
    | ((with_reducible apply Keeps.of_fst); on_goal 1 => with_reducible assumption)
    | with_reducible apply OutKeeps.ite
    | intro _
    | split
    | dsimp -zeta only

theorem execAbs_keeps {c wd wa wb s} : OutKeeps s (execAbs c wd wa wb s) := by
  unfold execAbs
  repeat' first
    | with_reducible apply Keeps.refl
    | with_reducible assumption
    | with_reducible apply OutKeeps.refused
    | with_reducible apply OutKeeps.next
    | with_reducible apply State.alu1_keeps
    | with_reducible apply OutKeeps.ite
    | intro _
    | split
    | dsimp -zeta only

theorem execClz_keeps {c wd wa wb s} : OutKeeps s (execClz c wd wa wb s) := by
  unfold execClz
  repeat' first
    | with_reducible apply Keeps.refl
    | with_reducible assumption
    | with_reducible apply OutKeeps.refused
    | with_reducible apply OutKeeps.next
    | with_reducible apply State.alu1_keeps
    | with_reducible apply OutKeeps.ite
    | intro _
    | split
    | dsimp -zeta only

theorem execSxt_keeps {c wd wa wb s} : OutKeeps s (execSxt c wd wa wb s) := by
  unfold execSxt
  repeat' first
    | with_reducible apply Keeps.refl
    | with_reducible assumption
    | with_reducible apply OutKeeps.refused
    | with_reducible apply OutKeeps.next
    | with_reducible apply State.alu_keeps
    | ((with_reducible apply Keeps.of_snd); on_goal 1 => with_reducible assumption)
    | ((with_reducible apply Keeps.of_fst); on_goal 1 => with_reducible assumption)
    | with_reducible apply OutKeeps.ite
    | intro _
    | split
    | dsimp -zeta only

theorem execZxt_keeps {c wd wa wb s} : OutKeeps s (execZxt c wd wa wb s) := by
  unfold execZxt
  repeat' first
    | with_reducible apply Keeps.refl
    | with_reducible assumption
    | with_reducible apply OutKeeps.refused
    | with_reducible apply OutKeeps.next
    | with_reducible apply State.alu_keeps
    | ((with_reducible apply Keeps.of_snd); on_goal 1 => with_reducible assumption)
    | ((with_reducible apply Keeps.of_fst); on_goal 1 => with_reducible assumption)
    | with_reducible apply OutKeeps.ite
    | intro _
    | split
    | dsimp -zeta only

theorem execMul_keeps {c wd wa wb s} : OutKeeps s (execMul c wd wa wb s) := by
  unfold execMul
  repeat' first
    | with_reducible apply Keeps.refl
    | with_reducible assumption
    | with_reducible apply OutKeeps.refused
    | with_reducible apply OutKeeps.next
    | with_reducible apply State.alu_keeps
    | ((with_reducible apply Keeps.of_snd); on_goal 1 => with_reducible assumption)
    | ((with_reducible apply Keeps.of_fst); on_goal 1 => with_reducible assumption)
    | with_reducible apply OutKeeps.ite
    | intro _
    | split
    | dsimp -zeta only

theorem execMulh_keeps {c wd wa wb s} : OutKeeps s (execMulh c wd wa wb s) := by
  unfold execMulh
  repeat' first
    | with_reducible apply Keeps.refl
    | with_reducible assumption
    | with_reducible apply OutKeeps.refused
    | with_reducible apply OutKeeps.next
    | with_reducible apply State.alu_keeps
    | with_reducible apply OutKeeps.ite
    | intro _
    | split
    | dsimp -zeta only

theorem execMulhu_keeps {c wd wa wb s} : OutKeeps s (execMulhu c wd wa wb s) := by
  unfold execMulhu
  repeat' first
    | with_reducible apply Keeps.refl
    | with_reducible assumption
    | with_reducible apply OutKeeps.refused
    | with_reducible apply OutKeeps.next
    | with_reducible apply State.alu_keeps
    | with_reducible apply OutKeeps.ite
    | intro _
    | split
    | dsimp -zeta only

theorem execMuls_keeps {c wd wa wb s} : OutKeeps s (execMuls c wd wa wb s) := by
  unfold execMuls
  repeat' first
    | with_reducible apply Keeps.refl
    | with_reducible assumption
    | with_reducible apply OutKeeps.refused
    | with_reducible apply OutKeeps.next
    | with_reducible apply State.alu_keeps
    | with_reducible apply OutKeeps.ite
    | intro _
    | split
    | dsimp -zeta only

theorem execDiv_keeps {c wd wa wb s} : OutKeeps s (execDiv c wd wa wb s) := by
  unfold execDiv
  repeat' first
    | with_reducible apply Keeps.refl
    | with_reducible assumption
    | with_reducible apply OutKeeps.refused
    | with_reducible apply OutKeeps.next
    | with_reducible apply State.alu_keeps
    | with_reducible apply OutKeeps.ite
    | intro _
    | split
    | dsimp -zeta only

theorem execDivu_keeps {c wd wa wb s} : OutKeeps s (execDivu c wd wa wb s) := by
  unfold execDivu
  repeat' first
    | with_reducible apply Keeps.refl
    | with_reducible assumption
    | with_reducible apply OutKeeps.refused
    | with_reducible apply OutKeeps.next
    | with_reducible apply State.alu_keeps
    | with_reducible apply OutKeeps.ite
    | intro _
    | split
    | dsimp -zeta only

theorem execRem_keeps {c wd wa wb s} : OutKeeps s (execRem c wd wa wb s) := by
  unfold execRem
  repeat' first
    | with_reducible apply Keeps.refl
    | with_reducible assumption
    | with_reducible apply OutKeeps.refused
    | with_reducible apply OutKeeps.next
    | with_reducible apply State.alu_keeps
    | with_reducible apply OutKeeps.ite
    | intro _
    | split
    | dsimp -zeta only

theorem execRemu_keeps {c wd wa wb s} : OutKeeps s (execRemu c wd wa wb s) := by
  unfold execRemu
  repeat' first
    | with_reducible apply Keeps.refl
    | with_reducible assumption
    | with_reducible apply OutKeeps.refused
    | with_reducible apply OutKeeps.next
    | with_reducible apply State.alu_keeps
    | with_reducible apply OutKeeps.ite
    | intro _
    | split
    | dsimp -zeta only

theorem execJr_keeps {c wd wa wb s} : OutKeeps s (execJr c wd wa wb s) := by
  unfold execJr
  repeat' first
    | with_reducible apply Keeps.refl
    | with_reducible assumption
    | with_reducible apply OutKeeps.refused
    | with_reducible apply OutKeeps.next
    | ((with_reducible apply Keeps.of_snd); on_goal 1 => with_reducible assumption)
    | ((with_reducible apply Keeps.of_fst); on_goal 1 => with_reducible assumption)
    | ((with_reducible apply State.coreStep_keeps)
       on_goal 2 =>
         first
         | exact coreKeeps_opReg
         | (intro k k' g e
            try dsimp only at e
            repeat' split at e
            all_goals first
              | contradiction
              | exact coreKeeps_jumpTo g e
              | exact coreKeeps_jumpTo (Core.set_wf g) e
              | (cases e; first | exact Core.sram_wf g | exact Core.setTimer_wf g | exact Core.next_wf g | (repeat' first | with_reducible apply Core.release_wf | with_reducible apply Core.set_wf | with_reducible apply Core.ask_wf | with_reducible apply Core.touch_wf | with_reducible apply Core.fetchFrom_wf | with_reducible apply Core.placeLine_wf | with_reducible apply Core.next_wf | with_reducible apply Core.setTimer_wf | exact g))))
    | with_reducible apply OutKeeps.ite
    | intro _
    | split
    | dsimp -zeta only

theorem execJalr_keeps {c wd wa wb s} : OutKeeps s (execJalr c wd wa wb s) := by
  unfold execJalr
  repeat' first
    | with_reducible apply Keeps.refl
    | with_reducible assumption
    | with_reducible apply OutKeeps.refused
    | with_reducible apply OutKeeps.next
    | ((with_reducible apply Keeps.of_snd); on_goal 1 => with_reducible assumption)
    | ((with_reducible apply Keeps.of_fst); on_goal 1 => with_reducible assumption)
    | ((with_reducible apply State.coreStep_keeps)
       on_goal 2 =>
         first
         | exact coreKeeps_opReg
         | (intro k k' g e
            try dsimp only at e
            repeat' split at e
            all_goals first
              | contradiction
              | exact coreKeeps_jumpTo g e
              | exact coreKeeps_jumpTo (Core.set_wf g) e
              | (cases e; first | exact Core.sram_wf g | exact Core.setTimer_wf g | exact Core.next_wf g | (repeat' first | with_reducible apply Core.release_wf | with_reducible apply Core.set_wf | with_reducible apply Core.ask_wf | with_reducible apply Core.touch_wf | with_reducible apply Core.fetchFrom_wf | with_reducible apply Core.placeLine_wf | with_reducible apply Core.next_wf | with_reducible apply Core.setTimer_wf | exact g))))
    | with_reducible apply OutKeeps.ite
    | intro _
    | split
    | dsimp -zeta only

theorem execBeq_keeps {c wa wb off s} : OutKeeps s (execBeq c wa wb off s) := by
  unfold execBeq
  repeat' first
    | with_reducible apply Keeps.refl
    | with_reducible assumption
    | with_reducible apply OutKeeps.refused
    | with_reducible apply OutKeeps.next
    | with_reducible apply State.branch_keeps
    | ((with_reducible apply Keeps.of_snd); on_goal 1 => with_reducible assumption)
    | ((with_reducible apply Keeps.of_fst); on_goal 1 => with_reducible assumption)
    | with_reducible apply OutKeeps.ite
    | intro _
    | split
    | dsimp -zeta only

theorem execBne_keeps {c wa wb off s} : OutKeeps s (execBne c wa wb off s) := by
  unfold execBne
  repeat' first
    | with_reducible apply Keeps.refl
    | with_reducible assumption
    | with_reducible apply OutKeeps.refused
    | with_reducible apply OutKeeps.next
    | with_reducible apply State.branch_keeps
    | ((with_reducible apply Keeps.of_snd); on_goal 1 => with_reducible assumption)
    | ((with_reducible apply Keeps.of_fst); on_goal 1 => with_reducible assumption)
    | with_reducible apply OutKeeps.ite
    | intro _
    | split
    | dsimp -zeta only

theorem execBlt_keeps {c wa wb off s} : OutKeeps s (execBlt c wa wb off s) := by
  unfold execBlt
  repeat' first
    | with_reducible apply Keeps.refl
    | with_reducible assumption
    | with_reducible apply OutKeeps.refused
    | with_reducible apply OutKeeps.next
    | with_reducible apply State.branch_keeps
    | with_reducible apply OutKeeps.ite
    | intro _
    | split
    | dsimp -zeta only

theorem execBge_keeps {c wa wb off s} : OutKeeps s (execBge c wa wb off s) := by
  unfold execBge
  repeat' first
    | with_reducible apply Keeps.refl
    | with_reducible assumption
    | with_reducible apply OutKeeps.refused
    | with_reducible apply OutKeeps.next
    | with_reducible apply State.branch_keeps
    | ((with_reducible apply Keeps.of_snd); on_goal 1 => with_reducible assumption)
    | ((with_reducible apply Keeps.of_fst); on_goal 1 => with_reducible assumption)
    | with_reducible apply OutKeeps.ite
    | intro _
    | split
    | dsimp -zeta only

theorem execBltu_keeps {c wa wb off s} : OutKeeps s (execBltu c wa wb off s) := by
  unfold execBltu
  repeat' first
    | with_reducible apply Keeps.refl
    | with_reducible assumption
    | with_reducible apply OutKeeps.refused
    | with_reducible apply OutKeeps.next
    | with_reducible apply State.branch_keeps
    | with_reducible apply OutKeeps.ite
    | intro _
    | split
    | dsimp -zeta only

theorem execBgeu_keeps {c wa wb off s} : OutKeeps s (execBgeu c wa wb off s) := by
  unfold execBgeu
  repeat' first
    | with_reducible apply Keeps.refl
    | with_reducible assumption
    | with_reducible apply OutKeeps.refused
    | with_reducible apply OutKeeps.next
    | with_reducible apply State.branch_keeps
    | ((with_reducible apply Keeps.of_snd); on_goal 1 => with_reducible assumption)
    | ((with_reducible apply Keeps.of_fst); on_goal 1 => with_reducible assumption)
    | with_reducible apply OutKeeps.ite
    | intro _
    | split
    | dsimp -zeta only

theorem execJ_keeps {c off s} : OutKeeps s (execJ c off s) := by
  unfold execJ
  repeat' first
    | with_reducible apply Keeps.refl
    | with_reducible assumption
    | with_reducible apply OutKeeps.refused
    | with_reducible apply OutKeeps.next
    | ((with_reducible apply Keeps.of_snd); on_goal 1 => with_reducible assumption)
    | ((with_reducible apply Keeps.of_fst); on_goal 1 => with_reducible assumption)
    | ((with_reducible apply State.coreStep_keeps)
       on_goal 2 =>
         first
         | exact coreKeeps_opReg
         | (intro k k' g e
            try dsimp only at e
            repeat' split at e
            all_goals first
              | contradiction
              | exact coreKeeps_jumpTo g e
              | exact coreKeeps_jumpTo (Core.set_wf g) e
              | (cases e; first | exact Core.sram_wf g | exact Core.setTimer_wf g | exact Core.next_wf g | (repeat' first | with_reducible apply Core.release_wf | with_reducible apply Core.set_wf | with_reducible apply Core.ask_wf | with_reducible apply Core.touch_wf | with_reducible apply Core.fetchFrom_wf | with_reducible apply Core.placeLine_wf | with_reducible apply Core.next_wf | with_reducible apply Core.setTimer_wf | exact g))))
    | with_reducible apply OutKeeps.ite
    | intro _
    | split
    | dsimp -zeta only

theorem execJal_keeps {c off s} : OutKeeps s (execJal c off s) := by
  unfold execJal
  repeat' first
    | with_reducible apply Keeps.refl
    | with_reducible assumption
    | with_reducible apply OutKeeps.refused
    | with_reducible apply OutKeeps.next
    | ((with_reducible apply Keeps.of_snd); on_goal 1 => with_reducible assumption)
    | ((with_reducible apply Keeps.of_fst); on_goal 1 => with_reducible assumption)
    | ((with_reducible apply State.coreStep_keeps)
       on_goal 2 =>
         first
         | exact coreKeeps_opReg
         | (intro k k' g e
            try dsimp only at e
            repeat' split at e
            all_goals first
              | contradiction
              | exact coreKeeps_jumpTo g e
              | exact coreKeeps_jumpTo (Core.set_wf g) e
              | (cases e; first | exact Core.sram_wf g | exact Core.setTimer_wf g | exact Core.next_wf g | (repeat' first | with_reducible apply Core.release_wf | with_reducible apply Core.set_wf | with_reducible apply Core.ask_wf | with_reducible apply Core.touch_wf | with_reducible apply Core.fetchFrom_wf | with_reducible apply Core.placeLine_wf | with_reducible apply Core.next_wf | with_reducible apply Core.setTimer_wf | exact g))))
    | with_reducible apply OutKeeps.ite
    | intro _
    | split
    | dsimp -zeta only

theorem execAddi_keeps {c wd wa imm s} : OutKeeps s (execAddi c wd wa imm s) := by
  unfold execAddi
  repeat' first
    | with_reducible apply Keeps.refl
    | with_reducible assumption
    | with_reducible apply OutKeeps.refused
    | with_reducible apply OutKeeps.next
    | with_reducible apply State.aluImm_keeps
    | ((with_reducible apply Keeps.of_snd); on_goal 1 => with_reducible assumption)
    | ((with_reducible apply Keeps.of_fst); on_goal 1 => with_reducible assumption)
    | with_reducible apply OutKeeps.ite
    | intro _
    | split
    | dsimp -zeta only

theorem execAddis_keeps {c wd wa imm s} : OutKeeps s (execAddis c wd wa imm s) := by
  unfold execAddis
  repeat' first
    | with_reducible apply Keeps.refl
    | with_reducible assumption
    | with_reducible apply OutKeeps.refused
    | with_reducible apply OutKeeps.next
    | with_reducible apply State.aluImm_keeps
    | ((with_reducible apply Keeps.of_snd); on_goal 1 => with_reducible assumption)
    | ((with_reducible apply Keeps.of_fst); on_goal 1 => with_reducible assumption)
    | with_reducible apply OutKeeps.ite
    | intro _
    | split
    | dsimp -zeta only

theorem execAndi_keeps {c wd wa imm s} : OutKeeps s (execAndi c wd wa imm s) := by
  unfold execAndi
  repeat' first
    | with_reducible apply Keeps.refl
    | with_reducible assumption
    | with_reducible apply OutKeeps.refused
    | with_reducible apply OutKeeps.next
    | with_reducible apply State.aluImm_keeps
    | ((with_reducible apply Keeps.of_snd); on_goal 1 => with_reducible assumption)
    | ((with_reducible apply Keeps.of_fst); on_goal 1 => with_reducible assumption)
    | with_reducible apply OutKeeps.ite
    | intro _
    | split
    | dsimp -zeta only

theorem execOri_keeps {c wd wa imm s} : OutKeeps s (execOri c wd wa imm s) := by
  unfold execOri
  repeat' first
    | with_reducible apply Keeps.refl
    | with_reducible assumption
    | with_reducible apply OutKeeps.refused
    | with_reducible apply OutKeeps.next
    | with_reducible apply State.aluImm_keeps
    | ((with_reducible apply Keeps.of_snd); on_goal 1 => with_reducible assumption)
    | ((with_reducible apply Keeps.of_fst); on_goal 1 => with_reducible assumption)
    | with_reducible apply OutKeeps.ite
    | intro _
    | split
    | dsimp -zeta only

theorem execXori_keeps {c wd wa imm s} : OutKeeps s (execXori c wd wa imm s) := by
  unfold execXori
  repeat' first
    | with_reducible apply Keeps.refl
    | with_reducible assumption
    | with_reducible apply OutKeeps.refused
    | with_reducible apply OutKeeps.next
    | with_reducible apply State.aluImm_keeps
    | ((with_reducible apply Keeps.of_snd); on_goal 1 => with_reducible assumption)
    | ((with_reducible apply Keeps.of_fst); on_goal 1 => with_reducible assumption)
    | with_reducible apply OutKeeps.ite
    | intro _
    | split
    | dsimp -zeta only

theorem execSlti_keeps {c wd wa imm s} : OutKeeps s (execSlti c wd wa imm s) := by
  unfold execSlti
  repeat' first
    | with_reducible apply Keeps.refl
    | with_reducible assumption
    | with_reducible apply OutKeeps.refused
    | with_reducible apply OutKeeps.next
    | with_reducible apply State.aluImm_keeps
    | ((with_reducible apply Keeps.of_snd); on_goal 1 => with_reducible assumption)
    | ((with_reducible apply Keeps.of_fst); on_goal 1 => with_reducible assumption)
    | with_reducible apply OutKeeps.ite
    | intro _
    | split
    | dsimp -zeta only

theorem execSltiu_keeps {c wd wa imm s} : OutKeeps s (execSltiu c wd wa imm s) := by
  unfold execSltiu
  repeat' first
    | with_reducible apply Keeps.refl
    | with_reducible assumption
    | with_reducible apply OutKeeps.refused
    | with_reducible apply OutKeeps.next
    | with_reducible apply State.aluImm_keeps
    | ((with_reducible apply Keeps.of_snd); on_goal 1 => with_reducible assumption)
    | ((with_reducible apply Keeps.of_fst); on_goal 1 => with_reducible assumption)
    | with_reducible apply OutKeeps.ite
    | intro _
    | split
    | dsimp -zeta only

theorem execLui_keeps {c wd wa imm s} : OutKeeps s (execLui c wd wa imm s) := by
  unfold execLui
  repeat' first
    | with_reducible apply Keeps.refl
    | with_reducible assumption
    | with_reducible apply OutKeeps.refused
    | with_reducible apply OutKeeps.next
    | ((with_reducible apply Keeps.of_snd); on_goal 1 => with_reducible assumption)
    | ((with_reducible apply Keeps.of_fst); on_goal 1 => with_reducible assumption)
    | ((with_reducible apply State.coreStep_keeps)
       on_goal 2 =>
         first
         | exact coreKeeps_opReg
         | (intro k k' g e
            try dsimp only at e
            repeat' split at e
            all_goals first
              | contradiction
              | exact coreKeeps_jumpTo g e
              | exact coreKeeps_jumpTo (Core.set_wf g) e
              | (cases e; first | exact Core.sram_wf g | exact Core.setTimer_wf g | exact Core.next_wf g | (repeat' first | with_reducible apply Core.release_wf | with_reducible apply Core.set_wf | with_reducible apply Core.ask_wf | with_reducible apply Core.touch_wf | with_reducible apply Core.fetchFrom_wf | with_reducible apply Core.placeLine_wf | with_reducible apply Core.next_wf | with_reducible apply Core.setTimer_wf | exact g))))
    | with_reducible apply OutKeeps.ite
    | intro _
    | split
    | dsimp -zeta only

theorem execSlli_keeps {c wd wa wb n s} : OutKeeps s (execSlli c wd wa wb n s) := by
  unfold execSlli
  repeat' first
    | with_reducible apply Keeps.refl
    | with_reducible assumption
    | with_reducible apply OutKeeps.refused
    | with_reducible apply OutKeeps.next
    | with_reducible apply State.alu1_keeps
    | ((with_reducible apply Keeps.of_snd); on_goal 1 => with_reducible assumption)
    | ((with_reducible apply Keeps.of_fst); on_goal 1 => with_reducible assumption)
    | with_reducible apply OutKeeps.ite
    | intro _
    | split
    | dsimp -zeta only

theorem execSrli_keeps {c wd wa wb n s} : OutKeeps s (execSrli c wd wa wb n s) := by
  unfold execSrli
  repeat' first
    | with_reducible apply Keeps.refl
    | with_reducible assumption
    | with_reducible apply OutKeeps.refused
    | with_reducible apply OutKeeps.next
    | with_reducible apply State.alu1_keeps
    | ((with_reducible apply Keeps.of_snd); on_goal 1 => with_reducible assumption)
    | ((with_reducible apply Keeps.of_fst); on_goal 1 => with_reducible assumption)
    | with_reducible apply OutKeeps.ite
    | intro _
    | split
    | dsimp -zeta only

theorem execSrai_keeps {c wd wa wb n s} : OutKeeps s (execSrai c wd wa wb n s) := by
  unfold execSrai
  repeat' first
    | with_reducible apply Keeps.refl
    | with_reducible assumption
    | with_reducible apply OutKeeps.refused
    | with_reducible apply OutKeeps.next
    | with_reducible apply State.alu1_keeps
    | ((with_reducible apply Keeps.of_snd); on_goal 1 => with_reducible assumption)
    | ((with_reducible apply Keeps.of_fst); on_goal 1 => with_reducible assumption)
    | with_reducible apply OutKeeps.ite
    | intro _
    | split
    | dsimp -zeta only

theorem execSxti_keeps {c wd wa wb n s} : OutKeeps s (execSxti c wd wa wb n s) := by
  unfold execSxti
  repeat' first
    | with_reducible apply Keeps.refl
    | with_reducible assumption
    | with_reducible apply OutKeeps.refused
    | with_reducible apply OutKeeps.next
    | with_reducible apply State.alu1_keeps
    | ((with_reducible apply Keeps.of_snd); on_goal 1 => with_reducible assumption)
    | ((with_reducible apply Keeps.of_fst); on_goal 1 => with_reducible assumption)
    | with_reducible apply OutKeeps.ite
    | intro _
    | split
    | dsimp -zeta only

theorem execZxti_keeps {c wd wa wb n s} : OutKeeps s (execZxti c wd wa wb n s) := by
  unfold execZxti
  repeat' first
    | with_reducible apply Keeps.refl
    | with_reducible assumption
    | with_reducible apply OutKeeps.refused
    | with_reducible apply OutKeeps.next
    | with_reducible apply State.alu1_keeps
    | ((with_reducible apply Keeps.of_snd); on_goal 1 => with_reducible assumption)
    | ((with_reducible apply Keeps.of_fst); on_goal 1 => with_reducible assumption)
    | with_reducible apply OutKeeps.ite
    | intro _
    | split
    | dsimp -zeta only

theorem State.storeN_keeps {st0 s c n wd wa imm} (hk : Keeps st0 s) : Keeps st0 (State.storeN s c n wd wa imm) := by
  refine hk.trans ?_; clear hk
  unfold State.storeN
  repeat' first
    | with_reducible apply Keeps.refl
    | with_reducible assumption
    | (extract_lets +onlyGivenNames a
       first
       | (refine Keeps.cut (m := a) ?_ ?_
          on_goal 2 => (clear_value a; intro _)
          on_goal 1 => (dsimp -zeta only [a]; clear a))
       | (refine Keeps.cut (m := a.2) ?_ ?_
          on_goal 2 => (clear_value a; intro _)
          on_goal 1 => (dsimp -zeta only [a]; clear a))
       | (refine Keeps.cut (m := a.1) ?_ ?_
          on_goal 2 => (clear_value a; intro _)
          on_goal 1 => (dsimp -zeta only [a]; clear a))
       | subst a)
    | ((with_reducible apply State.coreStep_keeps)
       on_goal 2 =>
         first
         | exact coreKeeps_opReg
         | (intro k k' g e
            try dsimp only at e
            repeat' split at e
            all_goals first
              | contradiction
              | exact coreKeeps_jumpTo g e
              | exact coreKeeps_jumpTo (Core.set_wf g) e
              | (cases e; first | exact Core.sram_wf g | exact Core.setTimer_wf g | exact Core.next_wf g | (repeat' first | with_reducible apply Core.release_wf | with_reducible apply Core.set_wf | with_reducible apply Core.ask_wf | with_reducible apply Core.touch_wf | with_reducible apply Core.fetchFrom_wf | with_reducible apply Core.placeLine_wf | with_reducible apply Core.next_wf | with_reducible apply Core.setTimer_wf | exact g))))
    | intro _
    | split
    | dsimp -zeta only

theorem execSw_keeps {c wd wa imm s} : OutKeeps s (execSw c wd wa imm s) := by
  unfold execSw
  repeat' first
    | with_reducible apply Keeps.refl
    | with_reducible assumption
    | with_reducible apply OutKeeps.refused
    | with_reducible apply OutKeeps.next
    | with_reducible apply State.storeN_keeps
    | with_reducible apply OutKeeps.ite
    | intro _
    | split
    | dsimp -zeta only

theorem execSh_keeps {c wd wa imm s} : OutKeeps s (execSh c wd wa imm s) := by
  unfold execSh
  repeat' first
    | with_reducible apply Keeps.refl
    | with_reducible assumption
    | with_reducible apply OutKeeps.refused
    | with_reducible apply OutKeeps.next
    | with_reducible apply State.storeN_keeps
    | with_reducible apply OutKeeps.ite
    | intro _
    | split
    | dsimp -zeta only

theorem execSb_keeps {c wd wa imm s} : OutKeeps s (execSb c wd wa imm s) := by
  unfold execSb
  repeat' first
    | with_reducible apply Keeps.refl
    | with_reducible assumption
    | with_reducible apply OutKeeps.refused
    | with_reducible apply OutKeeps.next
    | with_reducible apply State.storeN_keeps
    | with_reducible apply OutKeeps.ite
    | intro _
    | split
    | dsimp -zeta only

theorem State.snapLoad_keeps {st0 s c wd wa imm limit base stride} (hk : Keeps st0 s) : Keeps st0 (State.snapLoad s c wd wa imm limit base stride) := by
  refine hk.trans ?_; clear hk
  unfold State.snapLoad
  repeat' first
    | with_reducible apply Keeps.refl
    | with_reducible assumption
    | (extract_lets +onlyGivenNames a
       first
       | (refine Keeps.cut (m := a) ?_ ?_
          on_goal 2 => (clear_value a; intro _)
          on_goal 1 => (dsimp -zeta only [a]; clear a))
       | (refine Keeps.cut (m := a.2) ?_ ?_
          on_goal 2 => (clear_value a; intro _)
          on_goal 1 => (dsimp -zeta only [a]; clear a))
       | (refine Keeps.cut (m := a.1) ?_ ?_
          on_goal 2 => (clear_value a; intro _)
          on_goal 1 => (dsimp -zeta only [a]; clear a))
       | subst a)
    | ((with_reducible apply State.coreStep_keeps)
       on_goal 2 =>
         first
         | exact coreKeeps_opReg
         | (intro k k' g e
            try dsimp only at e
            repeat' split at e
            all_goals first
              | contradiction
              | exact coreKeeps_jumpTo g e
              | exact coreKeeps_jumpTo (Core.set_wf g) e
              | (cases e; first | exact Core.sram_wf g | exact Core.setTimer_wf g | exact Core.next_wf g | (repeat' first | with_reducible apply Core.release_wf | with_reducible apply Core.set_wf | with_reducible apply Core.ask_wf | with_reducible apply Core.touch_wf | with_reducible apply Core.fetchFrom_wf | with_reducible apply Core.placeLine_wf | with_reducible apply Core.next_wf | with_reducible apply Core.setTimer_wf | exact g))))
    | intro _
    | split
    | dsimp -zeta only

theorem execSmp_keeps {c wd wa imm s} : OutKeeps s (execSmp c wd wa imm s) := by
  unfold execSmp
  repeat' first
    | with_reducible apply Keeps.refl
    | with_reducible assumption
    | with_reducible apply OutKeeps.refused
    | with_reducible apply OutKeeps.next
    | with_reducible apply State.snapLoad_keeps
    | with_reducible apply OutKeeps.ite
    | intro _
    | split
    | dsimp -zeta only

theorem execLst_keeps {c wd wa imm s} : OutKeeps s (execLst c wd wa imm s) := by
  unfold execLst
  repeat' first
    | with_reducible apply Keeps.refl
    | with_reducible assumption
    | with_reducible apply OutKeeps.refused
    | with_reducible apply OutKeeps.next
    | with_reducible apply State.snapLoad_keeps
    | with_reducible apply OutKeeps.ite
    | intro _
    | split
    | dsimp -zeta only

theorem execGst_keeps {c wd wa imm s} : OutKeeps s (execGst c wd wa imm s) := by
  unfold execGst
  repeat' first
    | with_reducible apply Keeps.refl
    | with_reducible assumption
    | with_reducible apply OutKeeps.refused
    | with_reducible apply OutKeeps.next
    | with_reducible apply State.snapLoad_keeps
    | with_reducible apply OutKeeps.ite
    | intro _
    | split
    | dsimp -zeta only

theorem execTmaArm_keeps {c wd wa imm s} : OutKeeps s (execTmaArm c wd wa imm s) := by
  unfold execTmaArm
  repeat' first
    | with_reducible apply Keeps.refl
    | with_reducible assumption
    | (extract_lets +onlyGivenNames a
       first
       | (refine Keeps.cut (m := a) ?_ ?_
          on_goal 2 => (clear_value a; intro _)
          on_goal 1 => (dsimp -zeta only [a]; clear a))
       | (refine Keeps.cut (m := a.2) ?_ ?_
          on_goal 2 => (clear_value a; intro _)
          on_goal 1 => (dsimp -zeta only [a]; clear a))
       | (refine Keeps.cut (m := a.1) ?_ ?_
          on_goal 2 => (clear_value a; intro _)
          on_goal 1 => (dsimp -zeta only [a]; clear a))
       | subst a)
    | with_reducible apply OutKeeps.refused
    | with_reducible apply OutKeeps.next
    | ((with_reducible apply State.coreStep_keeps)
       on_goal 2 =>
         first
         | exact coreKeeps_opReg
         | (intro k k' g e
            try dsimp only at e
            repeat' split at e
            all_goals first
              | contradiction
              | exact coreKeeps_jumpTo g e
              | exact coreKeeps_jumpTo (Core.set_wf g) e
              | (cases e; first | exact Core.sram_wf g | exact Core.setTimer_wf g | exact Core.next_wf g | (repeat' first | with_reducible apply Core.release_wf | with_reducible apply Core.set_wf | with_reducible apply Core.ask_wf | with_reducible apply Core.touch_wf | with_reducible apply Core.fetchFrom_wf | with_reducible apply Core.placeLine_wf | with_reducible apply Core.next_wf | with_reducible apply Core.setTimer_wf | exact g))))
    | with_reducible apply OutKeeps.ite
    | intro _
    | split
    | dsimp -zeta only

theorem execTmaDisarm_keeps {c wd wa imm s} : OutKeeps s (execTmaDisarm c wd wa imm s) := by
  unfold execTmaDisarm
  repeat' first
    | with_reducible apply Keeps.refl
    | with_reducible assumption
    | (extract_lets +onlyGivenNames a
       first
       | (refine Keeps.cut (m := a) ?_ ?_
          on_goal 2 => (clear_value a; intro _)
          on_goal 1 => (dsimp -zeta only [a]; clear a))
       | (refine Keeps.cut (m := a.2) ?_ ?_
          on_goal 2 => (clear_value a; intro _)
          on_goal 1 => (dsimp -zeta only [a]; clear a))
       | (refine Keeps.cut (m := a.1) ?_ ?_
          on_goal 2 => (clear_value a; intro _)
          on_goal 1 => (dsimp -zeta only [a]; clear a))
       | subst a)
    | with_reducible apply OutKeeps.refused
    | with_reducible apply OutKeeps.next
    | ((with_reducible apply State.coreStep_keeps)
       on_goal 2 =>
         first
         | exact coreKeeps_opReg
         | (intro k k' g e
            try dsimp only at e
            repeat' split at e
            all_goals first
              | contradiction
              | exact coreKeeps_jumpTo g e
              | exact coreKeeps_jumpTo (Core.set_wf g) e
              | (cases e; first | exact Core.sram_wf g | exact Core.setTimer_wf g | exact Core.next_wf g | (repeat' first | with_reducible apply Core.release_wf | with_reducible apply Core.set_wf | with_reducible apply Core.ask_wf | with_reducible apply Core.touch_wf | with_reducible apply Core.fetchFrom_wf | with_reducible apply Core.placeLine_wf | with_reducible apply Core.next_wf | with_reducible apply Core.setTimer_wf | exact g))))
    | with_reducible apply OutKeeps.ite
    | intro _
    | split
    | dsimp -zeta only

theorem execTmt_keeps {c wd wa imm s} : OutKeeps s (execTmt c wd wa imm s) := by
  unfold execTmt
  repeat' first
    | with_reducible apply Keeps.refl
    | with_reducible assumption
    | with_reducible apply OutKeeps.refused
    | with_reducible apply OutKeeps.next
    | ((with_reducible apply Keeps.of_snd); on_goal 1 => with_reducible assumption)
    | ((with_reducible apply Keeps.of_fst); on_goal 1 => with_reducible assumption)
    | ((with_reducible apply State.coreStep_keeps)
       on_goal 2 =>
         first
         | exact coreKeeps_opReg
         | (intro k k' g e
            try dsimp only at e
            repeat' split at e
            all_goals first
              | contradiction
              | exact coreKeeps_jumpTo g e
              | exact coreKeeps_jumpTo (Core.set_wf g) e
              | (cases e; first | exact Core.sram_wf g | exact Core.setTimer_wf g | exact Core.next_wf g | (repeat' first | with_reducible apply Core.release_wf | with_reducible apply Core.set_wf | with_reducible apply Core.ask_wf | with_reducible apply Core.touch_wf | with_reducible apply Core.fetchFrom_wf | with_reducible apply Core.placeLine_wf | with_reducible apply Core.next_wf | with_reducible apply Core.setTimer_wf | exact g))))
    | with_reducible apply OutKeeps.ite
    | intro _
    | split
    | dsimp -zeta only

theorem State.beginFinal_keeps {st0 s} (hk : Keeps st0 s) : Keeps st0 (State.beginFinal s) := by
  refine hk.trans ?_; clear hk
  unfold State.beginFinal
  repeat' first
    | with_reducible apply Keeps.refl
    | with_reducible assumption
    | with_reducible apply State.setFld_keeps
    | intro _
    | split
    | dsimp -zeta only

theorem execEvw_keeps {c wd wa wb fn s} : OutKeeps s (execEvw c wd wa wb fn s) := by
  unfold execEvw
  repeat' first
    | with_reducible apply Keeps.refl
    | with_reducible assumption
    | (extract_lets +onlyGivenNames a
       first
       | (refine Keeps.cut (m := a) ?_ ?_
          on_goal 2 => (clear_value a; intro _)
          on_goal 1 => (dsimp -zeta only [a]; clear a))
       | (refine Keeps.cut (m := a.2) ?_ ?_
          on_goal 2 => (clear_value a; intro _)
          on_goal 1 => (dsimp -zeta only [a]; clear a))
       | (refine Keeps.cut (m := a.1) ?_ ?_
          on_goal 2 => (clear_value a; intro _)
          on_goal 1 => (dsimp -zeta only [a]; clear a))
       | subst a)
    | with_reducible apply OutKeeps.refused
    | with_reducible apply OutKeeps.next
    | with_reducible apply State.beginFinal_keeps
    | ((with_reducible apply Keeps.of_snd); on_goal 1 => with_reducible assumption)
    | ((with_reducible apply Keeps.of_fst); on_goal 1 => with_reducible assumption)
    | ((with_reducible apply State.coreStep_keeps)
       on_goal 2 =>
         first
         | exact coreKeeps_opReg
         | (intro k k' g e
            try dsimp only at e
            repeat' split at e
            all_goals first
              | contradiction
              | exact coreKeeps_jumpTo g e
              | exact coreKeeps_jumpTo (Core.set_wf g) e
              | (cases e; first | exact Core.sram_wf g | exact Core.setTimer_wf g | exact Core.next_wf g | (repeat' first | with_reducible apply Core.release_wf | with_reducible apply Core.set_wf | with_reducible apply Core.ask_wf | with_reducible apply Core.touch_wf | with_reducible apply Core.fetchFrom_wf | with_reducible apply Core.placeLine_wf | with_reducible apply Core.next_wf | with_reducible apply Core.setTimer_wf | exact g))))
    | with_reducible apply OutKeeps.ite
    | intro _
    | split
    | dsimp -zeta only

theorem execSys_keeps {c wx sr code s} : OutKeeps s (execSys c wx sr code s) := by
  unfold execSys
  repeat' first
    | with_reducible apply Keeps.refl
    | with_reducible assumption
    | with_reducible apply OutKeeps.refused
    | with_reducible apply OutKeeps.next
    | ((with_reducible apply Keeps.of_snd); on_goal 1 => with_reducible assumption)
    | ((with_reducible apply Keeps.of_fst); on_goal 1 => with_reducible assumption)
    | ((with_reducible apply State.coreStep_keeps)
       on_goal 2 =>
         first
         | exact coreKeeps_opReg
         | (intro k k' g e
            try dsimp only at e
            repeat' split at e
            all_goals first
              | contradiction
              | exact coreKeeps_jumpTo g e
              | exact coreKeeps_jumpTo (Core.set_wf g) e
              | (cases e; first | exact Core.sram_wf g | exact Core.setTimer_wf g | exact Core.next_wf g | (repeat' first | with_reducible apply Core.release_wf | with_reducible apply Core.set_wf | with_reducible apply Core.ask_wf | with_reducible apply Core.touch_wf | with_reducible apply Core.fetchFrom_wf | with_reducible apply Core.placeLine_wf | with_reducible apply Core.next_wf | with_reducible apply Core.setTimer_wf | exact g))))
    | with_reducible apply OutKeeps.ite
    | intro _
    | split
    | dsimp -zeta only

theorem execBrk_keeps {c wx sr code s} : OutKeeps s (execBrk c wx sr code s) := by
  unfold execBrk
  repeat' first
    | with_reducible apply Keeps.refl
    | with_reducible assumption
    | with_reducible apply OutKeeps.refused
    | with_reducible apply OutKeeps.next
    | ((with_reducible apply Keeps.of_snd); on_goal 1 => with_reducible assumption)
    | ((with_reducible apply Keeps.of_fst); on_goal 1 => with_reducible assumption)
    | ((with_reducible apply State.coreStep_keeps)
       on_goal 2 =>
         first
         | exact coreKeeps_opReg
         | (intro k k' g e
            try dsimp only at e
            repeat' split at e
            all_goals first
              | contradiction
              | exact coreKeeps_jumpTo g e
              | exact coreKeeps_jumpTo (Core.set_wf g) e
              | (cases e; first | exact Core.sram_wf g | exact Core.setTimer_wf g | exact Core.next_wf g | (repeat' first | with_reducible apply Core.release_wf | with_reducible apply Core.set_wf | with_reducible apply Core.ask_wf | with_reducible apply Core.touch_wf | with_reducible apply Core.fetchFrom_wf | with_reducible apply Core.placeLine_wf | with_reducible apply Core.next_wf | with_reducible apply Core.setTimer_wf | exact g))))
    | with_reducible apply OutKeeps.ite
    | intro _
    | split
    | dsimp -zeta only

theorem execRsm_keeps {c wx sr code s} : OutKeeps s (execRsm c wx sr code s) := by
  unfold execRsm
  repeat' first
    | with_reducible apply Keeps.refl
    | with_reducible assumption
    | with_reducible apply OutKeeps.refused
    | with_reducible apply OutKeeps.next
    | ((with_reducible apply Keeps.of_snd); on_goal 1 => with_reducible assumption)
    | ((with_reducible apply Keeps.of_fst); on_goal 1 => with_reducible assumption)
    | ((with_reducible apply State.coreStep_keeps)
       on_goal 2 =>
         first
         | exact coreKeeps_opReg
         | (intro k k' g e
            try dsimp only at e
            repeat' split at e
            all_goals first
              | contradiction
              | exact coreKeeps_jumpTo g e
              | exact coreKeeps_jumpTo (Core.set_wf g) e
              | (cases e; first | exact Core.sram_wf g | exact Core.setTimer_wf g | exact Core.next_wf g | (repeat' first | with_reducible apply Core.release_wf | with_reducible apply Core.set_wf | with_reducible apply Core.ask_wf | with_reducible apply Core.touch_wf | with_reducible apply Core.fetchFrom_wf | with_reducible apply Core.placeLine_wf | with_reducible apply Core.next_wf | with_reducible apply Core.setTimer_wf | exact g))))
    | with_reducible apply OutKeeps.ite
    | intro _
    | split
    | dsimp -zeta only

theorem execMfs_keeps {c wx sr code s} : OutKeeps s (execMfs c wx sr code s) := by
  unfold execMfs
  repeat' first
    | with_reducible apply Keeps.refl
    | with_reducible assumption
    | with_reducible apply OutKeeps.refused
    | with_reducible apply OutKeeps.next
    | ((with_reducible apply Keeps.of_snd); on_goal 1 => with_reducible assumption)
    | ((with_reducible apply Keeps.of_fst); on_goal 1 => with_reducible assumption)
    | ((with_reducible apply State.coreStep_keeps)
       on_goal 2 =>
         first
         | exact coreKeeps_opReg
         | (intro k k' g e
            try dsimp only at e
            repeat' split at e
            all_goals first
              | contradiction
              | exact coreKeeps_jumpTo g e
              | exact coreKeeps_jumpTo (Core.set_wf g) e
              | (cases e; first | exact Core.sram_wf g | exact Core.setTimer_wf g | exact Core.next_wf g | (repeat' first | with_reducible apply Core.release_wf | with_reducible apply Core.set_wf | with_reducible apply Core.ask_wf | with_reducible apply Core.touch_wf | with_reducible apply Core.fetchFrom_wf | with_reducible apply Core.placeLine_wf | with_reducible apply Core.next_wf | with_reducible apply Core.setTimer_wf | exact g))))
    | with_reducible apply OutKeeps.ite
    | intro _
    | split
    | dsimp -zeta only

theorem Core.evm_wf {k : Core} {i : Nat} {v : Word} (g : k.wf = true) :
    Core.wf { k with evm := tabSet (dflt 0) k.evm i v } = true := by
  simp only [Core.wf, Bool.and_eq_true] at g ⊢
  exact ⟨⟨g.1.1, tabSet_wf g.1.2⟩, g.2⟩

theorem Core.setSpecial_done {k k' : Core} {sr : BitVec 5} {v : Word} (e : k.setSpecial sr v = .done k')
    (g : k.wf = true) : k'.wf = true := by
  unfold Core.setSpecial at e
  dsimp only at e
  repeat' split at e
  all_goals first
    | contradiction
    | (cases e; first | exact g | exact Core.evm_wf g | (split <;> exact g))

theorem execMts_keeps {c wx sr code s} : OutKeeps s (execMts c wx sr code s) := by
  unfold execMts
  refine OutKeeps.next (State.coreStep_keeps (Keeps.refl s) fun k k' g e => ?_)
  split at e
  · cases q : k.setSpecial sr (k.get wx) with
    | done k1 =>
      rw [q] at e
      cases e
      have w := Core.setSpecial_done q g
      exact w
    | exc v d => rw [q] at e; contradiction
  · contradiction

theorem State.lineArrives_keeps {st0 s c l ok} (hk : Keeps st0 s) : Keeps st0 (State.lineArrives s c l ok) := by
  refine hk.trans ?_; clear hk
  unfold State.lineArrives
  repeat' first
    | with_reducible apply Keeps.refl
    | with_reducible assumption
    | (extract_lets +onlyGivenNames a
       first
       | (refine Keeps.cut (m := a) ?_ ?_
          on_goal 2 => (clear_value a; intro _)
          on_goal 1 => (dsimp -zeta only [a]; clear a))
       | (refine Keeps.cut (m := a.2) ?_ ?_
          on_goal 2 => (clear_value a; intro _)
          on_goal 1 => (dsimp -zeta only [a]; clear a))
       | (refine Keeps.cut (m := a.1) ?_ ?_
          on_goal 2 => (clear_value a; intro _)
          on_goal 1 => (dsimp -zeta only [a]; clear a))
       | subst a)
    | with_reducible apply State.takeExc_keeps
    | ((with_reducible apply State.setCore_same); on_goal 2 => (intro g; solve | (repeat' first | with_reducible apply Core.release_wf | with_reducible apply Core.set_wf | with_reducible apply Core.ask_wf | with_reducible apply Core.touch_wf | with_reducible apply Core.fetchFrom_wf | with_reducible apply Core.placeLine_wf | with_reducible apply Core.next_wf | with_reducible apply Core.setTimer_wf | exact g)))
    | ((with_reducible apply State.setCore_empty); on_goal 2 => rfl)
    | intro _
    | split
    | dsimp -zeta only

theorem execFetchLineArrival_keeps {c line ok s} : OutKeeps s (execFetchLineArrival c line ok s) := by
  unfold execFetchLineArrival
  repeat' first
    | with_reducible apply Keeps.refl
    | with_reducible assumption
    | with_reducible apply OutKeeps.refused
    | with_reducible apply OutKeeps.next
    | with_reducible apply State.lineArrives_keeps
    | with_reducible apply OutKeeps.ite
    | intro _
    | split
    | dsimp -zeta only

theorem State.sramError_keeps {st0 s c} (hk : Keeps st0 s) : Keeps st0 (State.sramError s c) := by
  refine hk.trans ?_; clear hk
  unfold State.sramError
  repeat' first
    | with_reducible apply Keeps.refl
    | with_reducible assumption
    | (extract_lets +onlyGivenNames a
       first
       | (refine Keeps.cut (m := a) ?_ ?_
          on_goal 2 => (clear_value a; intro _)
          on_goal 1 => (dsimp -zeta only [a]; clear a))
       | (refine Keeps.cut (m := a.2) ?_ ?_
          on_goal 2 => (clear_value a; intro _)
          on_goal 1 => (dsimp -zeta only [a]; clear a))
       | (refine Keeps.cut (m := a.1) ?_ ?_
          on_goal 2 => (clear_value a; intro _)
          on_goal 1 => (dsimp -zeta only [a]; clear a))
       | subst a)
    | with_reducible apply State.condemnAtOnce_keeps
    | with_reducible apply State.lastCoreLost_keeps
    | with_reducible apply State.needCycle_keeps
    | with_reducible apply State.setFld_keeps
    | ((with_reducible apply State.setCore_same); on_goal 2 => (intro g; solve | (repeat' first | with_reducible apply Core.release_wf | with_reducible apply Core.set_wf | with_reducible apply Core.ask_wf | with_reducible apply Core.touch_wf | with_reducible apply Core.fetchFrom_wf | with_reducible apply Core.placeLine_wf | with_reducible apply Core.next_wf | with_reducible apply Core.setTimer_wf | exact g)))
    | ((with_reducible apply State.setCore_empty); on_goal 2 => rfl)
    | intro _
    | split
    | dsimp -zeta only

theorem execSramEccError_keeps {c t s} : OutKeeps s (execSramEccError c t s) := by
  unfold execSramEccError
  repeat' first
    | with_reducible apply Keeps.refl
    | with_reducible assumption
    | with_reducible apply OutKeeps.refused
    | with_reducible apply OutKeeps.next
    | with_reducible apply State.sramError_keeps
    | with_reducible apply State.atTime_keeps
    | with_reducible apply OutKeeps.ite
    | intro _
    | split
    | dsimp -zeta only

end Sys2Proof.Machine
end

