-- ==== Sys2Proof/Laws/KeepsPergola.lean ====
section
/-! SUPPORT. Every operation of `Machine/Pergola.lean` keeps the queue and the canonical forms. -/

set_option linter.all false
set_option Elab.async false
set_option maxHeartbeats 60000

namespace Sys2Proof.Machine

theorem State.tripCall_keeps {st0 s arg} (hk : Keeps st0 s) : Keeps st0 (State.tripCall s arg) := by
  refine hk.trans ?_; clear hk
  unfold State.tripCall
  repeat' first
    | with_reducible apply Keeps.refl
    | with_reducible assumption
    | with_reducible apply State.startPlan_keeps
    | with_reducible apply State.setTrp_keeps
    | intro _
    | split
    | dsimp -zeta only

theorem State.missedCall_keeps {st0 s} (hk : Keeps st0 s) : Keeps st0 (State.missedCall s) := by
  refine hk.trans ?_; clear hk
  unfold State.missedCall
  repeat' first
    | with_reducible apply Keeps.refl
    | with_reducible assumption
    | (extract_lets +onlyGivenNames a
       first
       | (refine Keeps.cut (m := a) ?_ ?_
          on_goal 2 => (clear_value a; intro _)
          on_goal 1 => (dsimp -zeta only [a]; clear a))
       | (refine Keeps.cut (m := a.2) ?_ ?_
          on_goal 2 => (clear_value a; intro _)
          on_goal 1 => (dsimp -zeta only [a]; clear a))
       | (refine Keeps.cut (m := a.1) ?_ ?_
          on_goal 2 => (clear_value a; intro _)
          on_goal 1 => (dsimp -zeta only [a]; clear a))
       | subst a)
    | with_reducible apply State.setTrp_keeps
    | with_reducible apply State.startPlan_keeps
    | intro _
    | split
    | dsimp -zeta only

theorem State.noteTrip_keeps {st0 s code o} (hk : Keeps st0 s) : Keeps st0 (State.noteTrip s code o) := by
  refine hk.trans ?_; clear hk
  unfold State.noteTrip
  repeat' first
    | with_reducible apply Keeps.refl
    | with_reducible assumption
    | with_reducible apply State.raiseT_keeps
    | intro _
    | split
    | dsimp -zeta only

theorem State.outputMoved_keeps {st0 s o on} (hk : Keeps st0 s) : Keeps st0 (State.outputMoved s o on) := by
  refine hk.trans ?_; clear hk
  unfold State.outputMoved
  repeat' first
    | with_reducible apply Keeps.refl
    | with_reducible assumption
    | (extract_lets +onlyGivenNames a
       first
       | (refine Keeps.cut (m := a) ?_ ?_
          on_goal 2 => (clear_value a; intro _)
          on_goal 1 => (dsimp -zeta only [a]; clear a))
       | (refine Keeps.cut (m := a.2) ?_ ?_
          on_goal 2 => (clear_value a; intro _)
          on_goal 1 => (dsimp -zeta only [a]; clear a))
       | (refine Keeps.cut (m := a.1) ?_ ?_
          on_goal 2 => (clear_value a; intro _)
          on_goal 1 => (dsimp -zeta only [a]; clear a))
       | subst a)
    | with_reducible apply State.setAbit_keeps
    | with_reducible apply State.noteTrip_keeps
    | with_reducible apply State.refreshDo_keeps
    | with_reducible apply State.scanAbort_keeps
    | with_reducible apply State.raiseT_keeps
    | with_reducible apply State.tripCall_keeps
    | with_reducible apply State.setFlag_keeps
    | intro _
    | split
    | dsimp -zeta only

theorem State.latchMoved_keeps {st0 s l on} (hk : Keeps st0 s) : Keeps st0 (State.latchMoved s l on) := by
  refine hk.trans ?_; clear hk
  unfold State.latchMoved
  repeat' first
    | with_reducible apply Keeps.refl
    | with_reducible assumption
    | (extract_lets +onlyGivenNames a
       first
       | (refine Keeps.cut (m := a) ?_ ?_
          on_goal 2 => (clear_value a; intro _)
          on_goal 1 => (dsimp -zeta only [a]; clear a))
       | (refine Keeps.cut (m := a.2) ?_ ?_
          on_goal 2 => (clear_value a; intro _)
          on_goal 1 => (dsimp -zeta only [a]; clear a))
       | (refine Keeps.cut (m := a.1) ?_ ?_
          on_goal 2 => (clear_value a; intro _)
          on_goal 1 => (dsimp -zeta only [a]; clear a))
       | subst a)
    | with_reducible apply State.setFld_keeps
    | with_reducible apply State.raise_keeps
    | with_reducible apply State.toMirror_keeps
    | intro _
    | split
    | dsimp -zeta only

theorem State.tripCycle_keeps {st0 s} (hk : Keeps st0 s) : Keeps st0 (State.tripCycle s) := by
  refine hk.trans ?_; clear hk
  unfold State.tripCycle
  repeat' first
    | with_reducible apply Keeps.refl
    | with_reducible assumption
    | (extract_lets +onlyGivenNames a
       first
       | (refine Keeps.cut (m := a) ?_ ?_
          on_goal 2 => (clear_value a; intro _)
          on_goal 1 => (dsimp -zeta only [a]; clear a))
       | (refine Keeps.cut (m := a.2) ?_ ?_
          on_goal 2 => (clear_value a; intro _)
          on_goal 1 => (dsimp -zeta only [a]; clear a))
       | (refine Keeps.cut (m := a.1) ?_ ?_
          on_goal 2 => (clear_value a; intro _)
          on_goal 1 => (dsimp -zeta only [a]; clear a))
       | subst a)
    | with_reducible apply State.wrAll_keeps
    | with_reducible apply State.outputMoved_keeps
    | with_reducible apply State.latchMoved_keeps
    | with_reducible apply foldS_keeps
    | ((with_reducible apply Keeps.of_snd); on_goal 1 => with_reducible assumption)
    | ((with_reducible apply Keeps.of_fst); on_goal 1 => with_reducible assumption)
    | intro _
    | split
    | dsimp -zeta only

theorem State.tripStep_keeps {st0 s} (hk : Keeps st0 s) : Keeps st0 (State.tripStep s) := by
  refine hk.trans ?_; clear hk
  unfold State.tripStep
  repeat' first
    | with_reducible apply Keeps.refl
    | with_reducible assumption
    | with_reducible apply State.tripCycle_keeps
    | with_reducible apply State.setTrp_keeps
    | intro _
    | split
    | dsimp -zeta only

theorem State.tripRun_keeps {st0 n s} (h : Keeps st0 s) : Keeps st0 (State.tripRun n s) := by
  induction n generalizing s with
  | zero => exact State.setTrp_keeps h
  | succ n ih =>
    unfold State.tripRun
    repeat' first
      | with_reducible apply Keeps.refl
      | with_reducible assumption
      | with_reducible apply ih
      | (extract_lets +onlyGivenNames a
         first
         | (refine Keeps.cut (m := a) ?_ ?_
            on_goal 2 => (clear_value a; intro _)
            on_goal 1 => (dsimp -zeta only [a]; clear a))
         | (refine Keeps.cut (m := a.2) ?_ ?_
            on_goal 2 => (clear_value a; intro _)
            on_goal 1 => (dsimp -zeta only [a]; clear a))
         | (refine Keeps.cut (m := a.1) ?_ ?_
            on_goal 2 => (clear_value a; intro _)
            on_goal 1 => (dsimp -zeta only [a]; clear a))
         | subst a)
      | with_reducible apply State.setTrp_keeps
      | with_reducible apply State.tripStep_keeps
      | ((with_reducible apply Keeps.of_snd); on_goal 1 => with_reducible assumption)
      | ((with_reducible apply Keeps.of_fst); on_goal 1 => with_reducible assumption)
      | intro _
      | split
      | dsimp -zeta only

theorem State.tripCatchUp_keeps {st0 s} (hk : Keeps st0 s) : Keeps st0 (State.tripCatchUp s) := by
  refine hk.trans ?_; clear hk
  unfold State.tripCatchUp
  repeat' first
    | with_reducible apply Keeps.refl
    | with_reducible assumption
    | with_reducible apply State.tripRun_keeps
    | intro _
    | split
    | dsimp -zeta only

theorem State.evaluate_keeps {st0 s} (hk : Keeps st0 s) : Keeps st0 (State.evaluate s) := by
  refine hk.trans ?_; clear hk
  unfold State.evaluate
  repeat' first
    | with_reducible apply Keeps.refl
    | with_reducible assumption
    | with_reducible apply State.tripRun_keeps
    | intro _
    | split
    | dsimp -zeta only

theorem State.inputPass_keeps {st0 s n} (hk : Keeps st0 s) : Keeps st0 (State.inputPass s n) := by
  refine hk.trans ?_; clear hk
  unfold State.inputPass
  repeat' first
    | with_reducible apply Keeps.refl
    | with_reducible assumption
    | with_reducible apply State.evaluate_keeps
    | with_reducible apply State.setAbit_keeps
    | with_reducible apply State.tripCatchUp_keeps
    | intro _
    | split
    | dsimp -zeta only

theorem State.noteRaw_keeps {st0 s n} (hk : Keeps st0 s) : Keeps st0 (State.noteRaw s n) := by
  refine hk.trans ?_; clear hk
  unfold State.noteRaw
  repeat' first
    | with_reducible apply Keeps.refl
    | with_reducible assumption
    | with_reducible apply State.setTrp_keeps
    | intro _
    | split
    | dsimp -zeta only

theorem State.inputMoved_keeps {st0 s n} (hk : Keeps st0 s) : Keeps st0 (State.inputMoved s n) := by
  refine hk.trans ?_; clear hk
  unfold State.inputMoved
  repeat' first
    | with_reducible apply Keeps.refl
    | with_reducible assumption
    | (extract_lets +onlyGivenNames a
       first
       | (refine Keeps.cut (m := a) ?_ ?_
          on_goal 2 => (clear_value a; intro _)
          on_goal 1 => (dsimp -zeta only [a]; clear a))
       | (refine Keeps.cut (m := a.2) ?_ ?_
          on_goal 2 => (clear_value a; intro _)
          on_goal 1 => (dsimp -zeta only [a]; clear a))
       | (refine Keeps.cut (m := a.1) ?_ ?_
          on_goal 2 => (clear_value a; intro _)
          on_goal 1 => (dsimp -zeta only [a]; clear a))
       | subst a)
    | with_reducible apply State.noteRaw_keeps
    | with_reducible apply State.inputPass_keeps
    | intro _
    | split
    | dsimp -zeta only

theorem State.noteTap_keeps {st0 s n} (hk : Keeps st0 s) : Keeps st0 (State.noteTap s n) := by
  refine hk.trans ?_; clear hk
  unfold State.noteTap
  repeat' first
    | with_reducible apply Keeps.refl
    | with_reducible assumption
    | with_reducible apply State.setTrp_keeps
    | intro _
    | split
    | dsimp -zeta only

theorem State.setNative_keeps {st0 s n lvl} (hk : Keeps st0 s) : Keeps st0 (State.setNative s n lvl) := by
  refine hk.trans ?_; clear hk
  unfold State.setNative
  repeat' first
    | with_reducible apply Keeps.refl
    | with_reducible assumption
    | with_reducible apply State.noteTap_keeps
    | with_reducible apply State.setTrp_keeps
    | intro _
    | split
    | dsimp -zeta only

theorem State.tripInput_keeps {st0 s n lvl} (hk : Keeps st0 s) : Keeps st0 (State.tripInput s n lvl) := by
  refine hk.trans ?_; clear hk
  unfold State.tripInput
  repeat' first
    | with_reducible apply Keeps.refl
    | with_reducible assumption
    | (extract_lets +onlyGivenNames a
       first
       | (refine Keeps.cut (m := a) ?_ ?_
          on_goal 2 => (clear_value a; intro _)
          on_goal 1 => (dsimp -zeta only [a]; clear a))
       | (refine Keeps.cut (m := a.2) ?_ ?_
          on_goal 2 => (clear_value a; intro _)
          on_goal 1 => (dsimp -zeta only [a]; clear a))
       | (refine Keeps.cut (m := a.1) ?_ ?_
          on_goal 2 => (clear_value a; intro _)
          on_goal 1 => (dsimp -zeta only [a]; clear a))
       | subst a)
    | with_reducible apply State.setAbit_keeps
    | with_reducible apply State.inputMoved_keeps
    | with_reducible apply State.setNative_keeps
    | intro _
    | split
    | dsimp -zeta only

theorem execTripInputChange_keeps {n lvl t s} : OutKeeps s (execTripInputChange n lvl t s) := by
  unfold execTripInputChange
  repeat' first
    | with_reducible apply Keeps.refl
    | with_reducible assumption
    | (extract_lets +onlyGivenNames a
       first
       | (refine Keeps.cut (m := a) ?_ ?_
          on_goal 2 => (clear_value a; intro _)
          on_goal 1 => (dsimp -zeta only [a]; clear a))
       | (refine Keeps.cut (m := a.2) ?_ ?_
          on_goal 2 => (clear_value a; intro _)
          on_goal 1 => (dsimp -zeta only [a]; clear a))
       | (refine Keeps.cut (m := a.1) ?_ ?_
          on_goal 2 => (clear_value a; intro _)
          on_goal 1 => (dsimp -zeta only [a]; clear a))
       | subst a)
    | with_reducible apply OutKeeps.refused
    | with_reducible apply OutKeeps.next
    | with_reducible apply State.atTime_keeps
    | with_reducible apply State.tripInput_keeps
    | with_reducible apply State.setNative_keeps
    | with_reducible apply OutKeeps.ite
    | intro _
    | split
    | dsimp -zeta only

theorem execGlitchFilterPass_keeps {n t s} : OutKeeps s (execGlitchFilterPass n t s) := by
  unfold execGlitchFilterPass
  repeat' first
    | with_reducible apply Keeps.refl
    | with_reducible assumption
    | (extract_lets +onlyGivenNames a
       first
       | (refine Keeps.cut (m := a) ?_ ?_
          on_goal 2 => (clear_value a; intro _)
          on_goal 1 => (dsimp -zeta only [a]; clear a))
       | (refine Keeps.cut (m := a.2) ?_ ?_
          on_goal 2 => (clear_value a; intro _)
          on_goal 1 => (dsimp -zeta only [a]; clear a))
       | (refine Keeps.cut (m := a.1) ?_ ?_
          on_goal 2 => (clear_value a; intro _)
          on_goal 1 => (dsimp -zeta only [a]; clear a))
       | subst a)
    | with_reducible apply OutKeeps.refused
    | with_reducible apply OutKeeps.next
    | with_reducible apply State.atTime_keeps
    | with_reducible apply State.inputPass_keeps
    | with_reducible apply OutKeeps.ite
    | intro _
    | split
    | dsimp -zeta only

theorem State.wireBreak_keeps {st0 s n i on} (hk : Keeps st0 s) : Keeps st0 (State.wireBreak s n i on) := by
  refine hk.trans ?_; clear hk
  unfold State.wireBreak
  repeat' first
    | with_reducible apply Keeps.refl
    | with_reducible assumption
    | (extract_lets +onlyGivenNames a
       first
       | (refine Keeps.cut (m := a) ?_ ?_
          on_goal 2 => (clear_value a; intro _)
          on_goal 1 => (dsimp -zeta only [a]; clear a))
       | (refine Keeps.cut (m := a.2) ?_ ?_
          on_goal 2 => (clear_value a; intro _)
          on_goal 1 => (dsimp -zeta only [a]; clear a))
       | (refine Keeps.cut (m := a.1) ?_ ?_
          on_goal 2 => (clear_value a; intro _)
          on_goal 1 => (dsimp -zeta only [a]; clear a))
       | subst a)
    | with_reducible apply State.setFld_keeps
    | with_reducible apply State.putDist_keeps
    | with_reducible apply State.setAbit_keeps
    | with_reducible apply State.inputMoved_keeps
    | with_reducible apply State.noteTap_keeps
    | with_reducible apply State.raise_keeps
    | intro _
    | split
    | dsimp -zeta only

theorem execWireBreakSet_keeps {n i t s} : OutKeeps s (execWireBreakSet n i t s) := by
  unfold execWireBreakSet
  repeat' first
    | with_reducible apply Keeps.refl
    | with_reducible assumption
    | (extract_lets +onlyGivenNames a
       first
       | (refine Keeps.cut (m := a) ?_ ?_
          on_goal 2 => (clear_value a; intro _)
          on_goal 1 => (dsimp -zeta only [a]; clear a))
       | (refine Keeps.cut (m := a.2) ?_ ?_
          on_goal 2 => (clear_value a; intro _)
          on_goal 1 => (dsimp -zeta only [a]; clear a))
       | (refine Keeps.cut (m := a.1) ?_ ?_
          on_goal 2 => (clear_value a; intro _)
          on_goal 1 => (dsimp -zeta only [a]; clear a))
       | subst a)
    | with_reducible apply OutKeeps.refused
    | with_reducible apply OutKeeps.next
    | with_reducible apply State.atTime_keeps
    | with_reducible apply State.wireBreak_keeps
    | with_reducible apply OutKeeps.ite
    | intro _
    | split
    | dsimp -zeta only

theorem execWireBreakClear_keeps {n i t s} : OutKeeps s (execWireBreakClear n i t s) := by
  unfold execWireBreakClear
  repeat' first
    | with_reducible apply Keeps.refl
    | with_reducible assumption
    | (extract_lets +onlyGivenNames a
       first
       | (refine Keeps.cut (m := a) ?_ ?_
          on_goal 2 => (clear_value a; intro _)
          on_goal 1 => (dsimp -zeta only [a]; clear a))
       | (refine Keeps.cut (m := a.2) ?_ ?_
          on_goal 2 => (clear_value a; intro _)
          on_goal 1 => (dsimp -zeta only [a]; clear a))
       | (refine Keeps.cut (m := a.1) ?_ ?_
          on_goal 2 => (clear_value a; intro _)
          on_goal 1 => (dsimp -zeta only [a]; clear a))
       | subst a)
    | with_reducible apply OutKeeps.refused
    | with_reducible apply OutKeeps.next
    | with_reducible apply State.atTime_keeps
    | with_reducible apply State.wireBreak_keeps
    | with_reducible apply OutKeeps.ite
    | intro _
    | split
    | dsimp -zeta only

theorem State.setAc_keeps {st0 s c new} (hk : Keeps st0 s) : Keeps st0 (State.setAc s c new) := by
  refine hk.trans ?_; clear hk
  unfold State.setAc
  repeat' first
    | with_reducible apply Keeps.refl
    | with_reducible assumption
    | with_reducible apply State.setNative_keeps
    | with_reducible apply State.setFlag_keeps
    | intro _
    | split
    | dsimp -zeta only

theorem State.comparator_keeps {st0 s c v} (hk : Keeps st0 s) : Keeps st0 (State.comparator s c v) := by
  refine hk.trans ?_; clear hk
  unfold State.comparator
  repeat' first
    | with_reducible apply Keeps.refl
    | with_reducible assumption
    | with_reducible apply State.inputMoved_keeps
    | with_reducible apply State.setAc_keeps
    | intro _
    | split
    | dsimp -zeta only

theorem execAcOutputChange_keeps {c v t s} : OutKeeps s (execAcOutputChange c v t s) := by
  unfold execAcOutputChange
  repeat' first
    | with_reducible apply Keeps.refl
    | with_reducible assumption
    | (extract_lets +onlyGivenNames a
       first
       | (refine Keeps.cut (m := a) ?_ ?_
          on_goal 2 => (clear_value a; intro _)
          on_goal 1 => (dsimp -zeta only [a]; clear a))
       | (refine Keeps.cut (m := a.2) ?_ ?_
          on_goal 2 => (clear_value a; intro _)
          on_goal 1 => (dsimp -zeta only [a]; clear a))
       | (refine Keeps.cut (m := a.1) ?_ ?_
          on_goal 2 => (clear_value a; intro _)
          on_goal 1 => (dsimp -zeta only [a]; clear a))
       | subst a)
    | with_reducible apply OutKeeps.refused
    | with_reducible apply OutKeeps.next
    | with_reducible apply State.atTime_keeps
    | with_reducible apply State.setTrp_keeps
    | with_reducible apply State.comparator_keeps
    | with_reducible apply OutKeeps.ite
    | intro _
    | split
    | dsimp -zeta only

theorem State.tapMoved_keeps {st0 s n} (hk : Keeps st0 s) : Keeps st0 (State.tapMoved s n) := by
  refine hk.trans ?_; clear hk
  unfold State.tapMoved
  repeat' first
    | with_reducible apply Keeps.refl
    | with_reducible assumption
    | with_reducible apply State.comparator_keeps
    | with_reducible apply foldS_keeps
    | ((with_reducible apply Keeps.of_snd); on_goal 1 => with_reducible assumption)
    | ((with_reducible apply Keeps.of_fst); on_goal 1 => with_reducible assumption)
    | intro _
    | split
    | dsimp -zeta only

theorem State.setFc_keeps {st0 s f new} (hk : Keeps st0 s) : Keeps st0 (State.setFc s f new) := by
  refine hk.trans ?_; clear hk
  unfold State.setFc
  repeat' first
    | with_reducible apply Keeps.refl
    | with_reducible assumption
    | with_reducible apply State.inputMoved_keeps
    | with_reducible apply State.setNative_keeps
    | with_reducible apply State.setFlag_keeps
    | intro _
    | split
    | dsimp -zeta only

theorem State.fcEdgeAt_keeps {st0 s f} (hk : Keeps st0 s) : Keeps st0 (State.fcEdgeAt s f) := by
  refine hk.trans ?_; clear hk
  unfold State.fcEdgeAt
  repeat' first
    | with_reducible apply Keeps.refl
    | with_reducible assumption
    | (extract_lets +onlyGivenNames a
       first
       | (refine Keeps.cut (m := a) ?_ ?_
          on_goal 2 => (clear_value a; intro _)
          on_goal 1 => (dsimp -zeta only [a]; clear a))
       | (refine Keeps.cut (m := a.2) ?_ ?_
          on_goal 2 => (clear_value a; intro _)
          on_goal 1 => (dsimp -zeta only [a]; clear a))
       | (refine Keeps.cut (m := a.1) ?_ ?_
          on_goal 2 => (clear_value a; intro _)
          on_goal 1 => (dsimp -zeta only [a]; clear a))
       | subst a)
    | with_reducible apply State.setTrp_keeps
    | with_reducible apply State.setFld_keeps
    | with_reducible apply State.setFlag_keeps
    | with_reducible apply State.setFc_keeps
    | ((with_reducible apply Keeps.of_snd); on_goal 1 => with_reducible assumption)
    | ((with_reducible apply Keeps.of_fst); on_goal 1 => with_reducible assumption)
    | intro _
    | split
    | dsimp -zeta only

theorem execFcEdge_keeps {f t s} : OutKeeps s (execFcEdge f t s) := by
  unfold execFcEdge
  repeat' first
    | with_reducible apply Keeps.refl
    | with_reducible assumption
    | (extract_lets +onlyGivenNames a
       first
       | (refine Keeps.cut (m := a) ?_ ?_
          on_goal 2 => (clear_value a; intro _)
          on_goal 1 => (dsimp -zeta only [a]; clear a))
       | (refine Keeps.cut (m := a.2) ?_ ?_
          on_goal 2 => (clear_value a; intro _)
          on_goal 1 => (dsimp -zeta only [a]; clear a))
       | (refine Keeps.cut (m := a.1) ?_ ?_
          on_goal 2 => (clear_value a; intro _)
          on_goal 1 => (dsimp -zeta only [a]; clear a))
       | subst a)
    | with_reducible apply OutKeeps.refused
    | with_reducible apply OutKeeps.next
    | with_reducible apply State.atTime_keeps
    | with_reducible apply State.fcEdgeAt_keeps
    | with_reducible apply OutKeeps.ite
    | intro _
    | split
    | dsimp -zeta only

theorem execFcTimeout_keeps {f t s} : OutKeeps s (execFcTimeout f t s) := by
  unfold execFcTimeout
  repeat' first
    | with_reducible apply Keeps.refl
    | with_reducible assumption
    | (extract_lets +onlyGivenNames a
       first
       | (refine Keeps.cut (m := a) ?_ ?_
          on_goal 2 => (clear_value a; intro _)
          on_goal 1 => (dsimp -zeta only [a]; clear a))
       | (refine Keeps.cut (m := a.2) ?_ ?_
          on_goal 2 => (clear_value a; intro _)
          on_goal 1 => (dsimp -zeta only [a]; clear a))
       | (refine Keeps.cut (m := a.1) ?_ ?_
          on_goal 2 => (clear_value a; intro _)
          on_goal 1 => (dsimp -zeta only [a]; clear a))
       | subst a)
    | with_reducible apply OutKeeps.refused
    | with_reducible apply OutKeeps.next
    | with_reducible apply State.atTime_keeps
    | with_reducible apply State.setFc_keeps
    | ((with_reducible apply Keeps.of_snd); on_goal 1 => with_reducible assumption)
    | ((with_reducible apply Keeps.of_fst); on_goal 1 => with_reducible assumption)
    | with_reducible apply OutKeeps.ite
    | intro _
    | split
    | dsimp -zeta only

theorem execTripStoreScrub_keeps {w r s} : OutKeeps s (execTripStoreScrub w r s) := by
  unfold execTripStoreScrub
  repeat' first
    | with_reducible apply Keeps.refl
    | with_reducible assumption
    | with_reducible apply OutKeeps.refused
    | with_reducible apply OutKeeps.next
    | with_reducible apply State.raise_keeps
    | with_reducible apply State.addFld_keeps
    | with_reducible apply State.needCycle_keeps
    | ((with_reducible apply Keeps.of_snd); on_goal 1 => with_reducible assumption)
    | ((with_reducible apply Keeps.of_fst); on_goal 1 => with_reducible assumption)
    | with_reducible apply OutKeeps.ite
    | intro _
    | split
    | dsimp -zeta only

theorem State.beginTrip_keeps {st0 s} (hk : Keeps st0 s) : Keeps st0 (State.beginTrip s) := by
  refine hk.trans ?_; clear hk
  unfold State.beginTrip
  repeat' first
    | with_reducible apply Keeps.refl
    | with_reducible assumption
    | (extract_lets +onlyGivenNames a
       first
       | (refine Keeps.cut (m := a) ?_ ?_
          on_goal 2 => (clear_value a; intro _)
          on_goal 1 => (dsimp -zeta only [a]; clear a))
       | (refine Keeps.cut (m := a.2) ?_ ?_
          on_goal 2 => (clear_value a; intro _)
          on_goal 1 => (dsimp -zeta only [a]; clear a))
       | (refine Keeps.cut (m := a.1) ?_ ?_
          on_goal 2 => (clear_value a; intro _)
          on_goal 1 => (dsimp -zeta only [a]; clear a))
       | subst a)
    | with_reducible apply State.setNative_keeps
    | with_reducible apply State.setAc_keeps
    | with_reducible apply State.setFlag_keeps
    | with_reducible apply State.setTrp_keeps
    | with_reducible apply State.wrAll_keeps
    | with_reducible apply State.setAbit_keeps
    | with_reducible apply State.evaluate_keeps
    | with_reducible apply State.noteRaw_keeps
    | with_reducible apply foldS_keeps
    | ((with_reducible apply Keeps.of_snd); on_goal 1 => with_reducible assumption)
    | ((with_reducible apply Keeps.of_fst); on_goal 1 => with_reducible assumption)
    | intro _
    | split
    | dsimp -zeta only

theorem State.linkMoved_keeps {st0 s n} (hk : Keeps st0 s) : Keeps st0 (State.linkMoved s n) := by
  refine hk.trans ?_; clear hk
  unfold State.linkMoved
  repeat' first
    | with_reducible apply Keeps.refl
    | with_reducible assumption
    | (extract_lets +onlyGivenNames a
       first
       | (refine Keeps.cut (m := a) ?_ ?_
          on_goal 2 => (clear_value a; intro _)
          on_goal 1 => (dsimp -zeta only [a]; clear a))
       | (refine Keeps.cut (m := a.2) ?_ ?_
          on_goal 2 => (clear_value a; intro _)
          on_goal 1 => (dsimp -zeta only [a]; clear a))
       | (refine Keeps.cut (m := a.1) ?_ ?_
          on_goal 2 => (clear_value a; intro _)
          on_goal 1 => (dsimp -zeta only [a]; clear a))
       | subst a)
    | with_reducible apply State.setTrp_keeps
    | with_reducible apply State.inputMoved_keeps
    | intro _
    | split
    | dsimp -zeta only

end Sys2Proof.Machine
end

