-- ==== Sys2Proof/Laws/KeepsSnowline.lean ====
section
/-! SUPPORT. Every operation of `Machine/Snowline.lean` keeps the queue and the canonical forms. -/

set_option linter.all false
set_option Elab.async false
set_option maxHeartbeats 60000

namespace Sys2Proof.Machine

theorem State.setEntSt_keeps {st0 s e x} (hk : Keeps st0 s) : Keeps st0 (State.setEntSt s e x) := by
  refine hk.trans ?_; clear hk
  unfold State.setEntSt
  repeat' first
    | with_reducible apply Keeps.refl
    | with_reducible assumption
    | with_reducible apply State.setLim_keeps
    | intro _
    | split
    | dsimp -zeta only

theorem State.setLimChan_keeps {st0 s c x} (hk : Keeps st0 s) : Keeps st0 (State.setLimChan s c x) := by
  refine hk.trans ?_; clear hk
  unfold State.setLimChan
  repeat' first
    | with_reducible apply Keeps.refl
    | with_reducible assumption
    | with_reducible apply State.setLim_keeps
    | intro _
    | split
    | dsimp -zeta only

theorem State.putEnt_keeps {st0 s e x} (hk : Keeps st0 s) : Keeps st0 (State.putEnt s e x) := by
  refine hk.trans ?_; clear hk
  unfold State.putEnt
  repeat' first
    | with_reducible apply Keeps.refl
    | with_reducible assumption
    | with_reducible apply State.wrAll_keeps
    | intro _
    | split
    | dsimp -zeta only

theorem State.vote_keeps {st0 s c x} (hk : Keeps st0 s) : Keeps st0 (State.vote s c x).2 := by
  refine hk.trans ?_; clear hk
  unfold State.vote
  repeat' first
    | with_reducible apply Keeps.refl
    | with_reducible assumption
    | (extract_lets +onlyGivenNames a
       first
       | (refine Keeps.cut (m := a) ?_ ?_
          on_goal 2 => (clear_value a; intro _)
          on_goal 1 => (dsimp -zeta only [a]; clear a))
       | (refine Keeps.cut (m := a.2) ?_ ?_
          on_goal 2 => (clear_value a; intro _)
          on_goal 1 => (dsimp -zeta only [a]; clear a))
       | (refine Keeps.cut (m := a.1) ?_ ?_
          on_goal 2 => (clear_value a; intro _)
          on_goal 1 => (dsimp -zeta only [a]; clear a))
       | subst a)
    | with_reducible apply State.wr_keeps
    | ((with_reducible apply Keeps.of_snd); on_goal 1 => with_reducible assumption)
    | ((with_reducible apply Keeps.of_fst); on_goal 1 => with_reducible assumption)
    | intro _
    | split
    | dsimp -zeta only

theorem State.putSwitches_keeps {st0 s c} (hk : Keeps st0 s) : Keeps st0 (State.putSwitches s c) := by
  refine hk.trans ?_; clear hk
  unfold State.putSwitches
  repeat' first
    | with_reducible apply Keeps.refl
    | with_reducible assumption
    | (extract_lets +onlyGivenNames a
       first
       | (refine Keeps.cut (m := a) ?_ ?_
          on_goal 2 => (clear_value a; intro _)
          on_goal 1 => (dsimp -zeta only [a]; clear a))
       | (refine Keeps.cut (m := a.2) ?_ ?_
          on_goal 2 => (clear_value a; intro _)
          on_goal 1 => (dsimp -zeta only [a]; clear a))
       | (refine Keeps.cut (m := a.1) ?_ ?_
          on_goal 2 => (clear_value a; intro _)
          on_goal 1 => (dsimp -zeta only [a]; clear a))
       | subst a)
    | with_reducible apply State.setFld_keeps
    | with_reducible apply foldl_keeps
    | ((with_reducible apply Keeps.of_snd); on_goal 1 => with_reducible assumption)
    | ((with_reducible apply Keeps.of_fst); on_goal 1 => with_reducible assumption)
    | intro _
    | split
    | dsimp -zeta only

theorem State.putLink_keeps {st0 s e} (hk : Keeps st0 s) : Keeps st0 (State.putLink s e) := by
  refine hk.trans ?_; clear hk
  unfold State.putLink
  repeat' first
    | with_reducible apply Keeps.refl
    | with_reducible assumption
    | with_reducible apply State.linkMoved_keeps
    | with_reducible apply State.setFlag_keeps
    | intro _
    | split
    | dsimp -zeta only

theorem State.noteLimit_keeps {st0 s e on disabled} (hk : Keeps st0 s) : Keeps st0 (State.noteLimit s e on disabled) := by
  refine hk.trans ?_; clear hk
  unfold State.noteLimit
  repeat' first
    | with_reducible apply Keeps.refl
    | with_reducible assumption
    | with_reducible apply State.raiseS_keeps
    | intro _
    | split
    | dsimp -zeta only

theorem State.setAct_keeps {st0 s e on disabled} (hk : Keeps st0 s) : Keeps st0 (State.setAct s e on disabled) := by
  refine hk.trans ?_; clear hk
  unfold State.setAct
  repeat' first
    | with_reducible apply Keeps.refl
    | with_reducible assumption
    | (extract_lets +onlyGivenNames a
       first
       | (refine Keeps.cut (m := a) ?_ ?_
          on_goal 2 => (clear_value a; intro _)
          on_goal 1 => (dsimp -zeta only [a]; clear a))
       | (refine Keeps.cut (m := a.2) ?_ ?_
          on_goal 2 => (clear_value a; intro _)
          on_goal 1 => (dsimp -zeta only [a]; clear a))
       | (refine Keeps.cut (m := a.1) ?_ ?_
          on_goal 2 => (clear_value a; intro _)
          on_goal 1 => (dsimp -zeta only [a]; clear a))
       | subst a)
    | with_reducible apply State.setEntSt_keeps
    | with_reducible apply State.setFlag_keeps
    | with_reducible apply State.addFld_keeps
    | with_reducible apply State.actChanged_keeps
    | with_reducible apply State.noteLimit_keeps
    | with_reducible apply State.putLink_keeps
    | with_reducible apply State.putSwitches_keeps
    | intro _
    | split
    | dsimp -zeta only

theorem State.onRun_keeps {st0 s e from_} (hk : Keeps st0 s) : Keeps st0 (State.onRun s e from_) := by
  refine hk.trans ?_; clear hk
  unfold State.onRun
  repeat' first
    | with_reducible apply Keeps.refl
    | with_reducible assumption
    | with_reducible apply State.setFlag_keeps
    | with_reducible apply State.setEntSt_keeps
    | intro _
    | split
    | dsimp -zeta only

theorem State.offRun_keeps {st0 s e from_} (hk : Keeps st0 s) : Keeps st0 (State.offRun s e from_) := by
  refine hk.trans ?_; clear hk
  unfold State.offRun
  repeat' first
    | with_reducible apply Keeps.refl
    | with_reducible assumption
    | with_reducible apply State.setFlag_keeps
    | with_reducible apply State.setEntSt_keeps
    | intro _
    | split
    | dsimp -zeta only

theorem State.setCond_keeps {st0 s e cond} (hk : Keeps st0 s) : Keeps st0 (State.setCond s e cond) := by
  refine hk.trans ?_; clear hk
  unfold State.setCond
  repeat' first
    | with_reducible apply Keeps.refl
    | with_reducible assumption
    | (extract_lets +onlyGivenNames a
       first
       | (refine Keeps.cut (m := a) ?_ ?_
          on_goal 2 => (clear_value a; intro _)
          on_goal 1 => (dsimp -zeta only [a]; clear a))
       | (refine Keeps.cut (m := a.2) ?_ ?_
          on_goal 2 => (clear_value a; intro _)
          on_goal 1 => (dsimp -zeta only [a]; clear a))
       | (refine Keeps.cut (m := a.1) ?_ ?_
          on_goal 2 => (clear_value a; intro _)
          on_goal 1 => (dsimp -zeta only [a]; clear a))
       | subst a)
    | with_reducible apply State.setFlag_keeps
    | with_reducible apply State.setAct_keeps
    | with_reducible apply State.onRun_keeps
    | with_reducible apply State.offRun_keeps
    | ((with_reducible apply Keeps.of_snd); on_goal 1 => with_reducible assumption)
    | ((with_reducible apply Keeps.of_fst); on_goal 1 => with_reducible assumption)
    | intro _
    | split
    | dsimp -zeta only

theorem State.walk_keeps {st0 s e} (hk : Keeps st0 s) : Keeps st0 (State.walk s e) := by
  refine hk.trans ?_; clear hk
  unfold State.walk
  repeat' first
    | with_reducible apply Keeps.refl
    | with_reducible assumption
    | (extract_lets +onlyGivenNames a
       first
       | (refine Keeps.cut (m := a) ?_ ?_
          on_goal 2 => (clear_value a; intro _)
          on_goal 1 => (dsimp -zeta only [a]; clear a))
       | (refine Keeps.cut (m := a.2) ?_ ?_
          on_goal 2 => (clear_value a; intro _)
          on_goal 1 => (dsimp -zeta only [a]; clear a))
       | (refine Keeps.cut (m := a.1) ?_ ?_
          on_goal 2 => (clear_value a; intro _)
          on_goal 1 => (dsimp -zeta only [a]; clear a))
       | subst a)
    | with_reducible apply State.setAct_keeps
    | intro _
    | split
    | dsimp -zeta only

theorem execDelayDue_keeps {e t s} : OutKeeps s (execDelayDue e t s) := by
  unfold execDelayDue
  repeat' first
    | with_reducible apply Keeps.refl
    | with_reducible assumption
    | (extract_lets +onlyGivenNames a
       first
       | (refine Keeps.cut (m := a) ?_ ?_
          on_goal 2 => (clear_value a; intro _)
          on_goal 1 => (dsimp -zeta only [a]; clear a))
       | (refine Keeps.cut (m := a.2) ?_ ?_
          on_goal 2 => (clear_value a; intro _)
          on_goal 1 => (dsimp -zeta only [a]; clear a))
       | (refine Keeps.cut (m := a.1) ?_ ?_
          on_goal 2 => (clear_value a; intro _)
          on_goal 1 => (dsimp -zeta only [a]; clear a))
       | subst a)
    | with_reducible apply OutKeeps.refused
    | with_reducible apply OutKeeps.next
    | with_reducible apply State.atTime_keeps
    | with_reducible apply State.walk_keeps
    | with_reducible apply OutKeeps.ite
    | intro _
    | split
    | dsimp -zeta only

theorem State.evalRate_keeps {st0 s e v} (hk : Keeps st0 s) : Keeps st0 (State.evalRate s e v) := by
  refine hk.trans ?_; clear hk
  unfold State.evalRate
  repeat' first
    | with_reducible apply Keeps.refl
    | with_reducible assumption
    | (extract_lets +onlyGivenNames a
       first
       | (refine Keeps.cut (m := a) ?_ ?_
          on_goal 2 => (clear_value a; intro _)
          on_goal 1 => (dsimp -zeta only [a]; clear a))
       | (refine Keeps.cut (m := a.2) ?_ ?_
          on_goal 2 => (clear_value a; intro _)
          on_goal 1 => (dsimp -zeta only [a]; clear a))
       | (refine Keeps.cut (m := a.1) ?_ ?_
          on_goal 2 => (clear_value a; intro _)
          on_goal 1 => (dsimp -zeta only [a]; clear a))
       | subst a)
    | with_reducible apply State.setEntSt_keeps
    | with_reducible apply State.setCond_keeps
    | ((with_reducible apply Keeps.of_snd); on_goal 1 => with_reducible assumption)
    | ((with_reducible apply Keeps.of_fst); on_goal 1 => with_reducible assumption)
    | intro _
    | split
    | dsimp -zeta only

theorem State.putStale_keeps {st0 s e b} (hk : Keeps st0 s) : Keeps st0 (State.putStale s e b) := by
  refine hk.trans ?_; clear hk
  unfold State.putStale
  repeat' first
    | with_reducible apply Keeps.refl
    | with_reducible assumption
    | with_reducible apply State.setFlag_keeps
    | intro _
    | split
    | dsimp -zeta only

theorem State.noteWord_keeps {st0 s e w} (hk : Keeps st0 s) : Keeps st0 (State.noteWord s e w) := by
  refine hk.trans ?_; clear hk
  unfold State.noteWord
  repeat' first
    | with_reducible apply Keeps.refl
    | with_reducible assumption
    | with_reducible apply State.setEntSt_keeps
    | intro _
    | split
    | dsimp -zeta only

theorem State.evalDev_keeps {st0 s e w} (hk : Keeps st0 s) : Keeps st0 (State.evalDev s e w) := by
  refine hk.trans ?_; clear hk
  unfold State.evalDev
  repeat' first
    | with_reducible apply Keeps.refl
    | with_reducible assumption
    | (extract_lets +onlyGivenNames a
       first
       | (refine Keeps.cut (m := a) ?_ ?_
          on_goal 2 => (clear_value a; intro _)
          on_goal 1 => (dsimp -zeta only [a]; clear a))
       | (refine Keeps.cut (m := a.2) ?_ ?_
          on_goal 2 => (clear_value a; intro _)
          on_goal 1 => (dsimp -zeta only [a]; clear a))
       | (refine Keeps.cut (m := a.1) ?_ ?_
          on_goal 2 => (clear_value a; intro _)
          on_goal 1 => (dsimp -zeta only [a]; clear a))
       | subst a)
    | with_reducible apply State.putStale_keeps
    | with_reducible apply State.noteWord_keeps
    | with_reducible apply State.setCond_keeps
    | ((with_reducible apply Keeps.of_snd); on_goal 1 => with_reducible assumption)
    | ((with_reducible apply Keeps.of_fst); on_goal 1 => with_reducible assumption)
    | intro _
    | split
    | dsimp -zeta only

theorem State.evalQual_keeps {st0 s e w} (hk : Keeps st0 s) : Keeps st0 (State.evalQual s e w) := by
  refine hk.trans ?_; clear hk
  unfold State.evalQual
  repeat' first
    | with_reducible apply Keeps.refl
    | with_reducible assumption
    | (extract_lets +onlyGivenNames a
       first
       | (refine Keeps.cut (m := a) ?_ ?_
          on_goal 2 => (clear_value a; intro _)
          on_goal 1 => (dsimp -zeta only [a]; clear a))
       | (refine Keeps.cut (m := a.2) ?_ ?_
          on_goal 2 => (clear_value a; intro _)
          on_goal 1 => (dsimp -zeta only [a]; clear a))
       | (refine Keeps.cut (m := a.1) ?_ ?_
          on_goal 2 => (clear_value a; intro _)
          on_goal 1 => (dsimp -zeta only [a]; clear a))
       | subst a)
    | with_reducible apply State.setCond_keeps
    | with_reducible apply State.noteWord_keeps
    | intro _
    | split
    | dsimp -zeta only

theorem State.evalEntry_keeps {st0 s e w} (hk : Keeps st0 s) : Keeps st0 (State.evalEntry s e w) := by
  refine hk.trans ?_; clear hk
  unfold State.evalEntry
  repeat' first
    | with_reducible apply Keeps.refl
    | with_reducible assumption
    | (extract_lets +onlyGivenNames a
       first
       | (refine Keeps.cut (m := a) ?_ ?_
          on_goal 2 => (clear_value a; intro _)
          on_goal 1 => (dsimp -zeta only [a]; clear a))
       | (refine Keeps.cut (m := a.2) ?_ ?_
          on_goal 2 => (clear_value a; intro _)
          on_goal 1 => (dsimp -zeta only [a]; clear a))
       | (refine Keeps.cut (m := a.1) ?_ ?_
          on_goal 2 => (clear_value a; intro _)
          on_goal 1 => (dsimp -zeta only [a]; clear a))
       | subst a)
    | with_reducible apply State.evalQual_keeps
    | with_reducible apply State.setEntSt_keeps
    | with_reducible apply State.putStale_keeps
    | with_reducible apply State.noteWord_keeps
    | with_reducible apply State.evalRate_keeps
    | with_reducible apply State.evalDev_keeps
    | with_reducible apply State.setCond_keeps
    | ((with_reducible apply Keeps.of_snd); on_goal 1 => with_reducible assumption)
    | ((with_reducible apply Keeps.of_fst); on_goal 1 => with_reducible assumption)
    | intro _
    | split
    | dsimp -zeta only

theorem State.markNew_keeps {st0 s n} (hk : Keeps st0 s) : Keeps st0 (State.markNew s n) := by
  refine hk.trans ?_; clear hk
  unfold State.markNew
  repeat' first
    | with_reducible apply Keeps.refl
    | with_reducible assumption
    | with_reducible apply State.setRwn_keeps
    | intro _
    | split
    | dsimp -zeta only

theorem State.arrive_keeps {st0 s x} (hk : Keeps st0 s) : Keeps st0 (State.arrive s x) := by
  refine hk.trans ?_; clear hk
  unfold State.arrive
  repeat' first
    | with_reducible apply Keeps.refl
    | with_reducible assumption
    | with_reducible apply State.setLimChan_keeps
    | intro _
    | split
    | dsimp -zeta only

theorem State.evalWord_keeps {st0 s c w} (hk : Keeps st0 s) : Keeps st0 (State.evalWord s c w) := by
  refine hk.trans ?_; clear hk
  unfold State.evalWord
  repeat' first
    | with_reducible apply Keeps.refl
    | with_reducible assumption
    | (extract_lets +onlyGivenNames a
       first
       | (refine Keeps.cut (m := a) ?_ ?_
          on_goal 2 => (clear_value a; intro _)
          on_goal 1 => (dsimp -zeta only [a]; clear a))
       | (refine Keeps.cut (m := a.2) ?_ ?_
          on_goal 2 => (clear_value a; intro _)
          on_goal 1 => (dsimp -zeta only [a]; clear a))
       | (refine Keeps.cut (m := a.1) ?_ ?_
          on_goal 2 => (clear_value a; intro _)
          on_goal 1 => (dsimp -zeta only [a]; clear a))
       | subst a)
    | with_reducible apply State.setLimChan_keeps
    | with_reducible apply State.evalEntry_keeps
    | with_reducible apply foldS_keeps
    | ((with_reducible apply Keeps.of_snd); on_goal 1 => with_reducible assumption)
    | ((with_reducible apply Keeps.of_fst); on_goal 1 => with_reducible assumption)
    | intro _
    | split
    | dsimp -zeta only

theorem State.showWord_keeps {st0 s c w} (hk : Keeps st0 s) : Keeps st0 (State.showWord s c w) := by
  refine hk.trans ?_; clear hk
  unfold State.showWord
  repeat' first
    | with_reducible apply Keeps.refl
    | with_reducible assumption
    | with_reducible apply State.setSample_keeps
    | ((with_reducible apply Keeps.of_snd); on_goal 1 => with_reducible assumption)
    | ((with_reducible apply Keeps.of_fst); on_goal 1 => with_reducible assumption)
    | intro _
    | split
    | dsimp -zeta only

theorem State.judge_keeps {st0 s x} (hk : Keeps st0 s) : Keeps st0 (State.judge s x) := by
  refine hk.trans ?_; clear hk
  unfold State.judge
  repeat' first
    | with_reducible apply Keeps.refl
    | with_reducible assumption
    | (extract_lets +onlyGivenNames a
       first
       | (refine Keeps.cut (m := a) ?_ ?_
          on_goal 2 => (clear_value a; intro _)
          on_goal 1 => (dsimp -zeta only [a]; clear a))
       | (refine Keeps.cut (m := a.2) ?_ ?_
          on_goal 2 => (clear_value a; intro _)
          on_goal 1 => (dsimp -zeta only [a]; clear a))
       | (refine Keeps.cut (m := a.1) ?_ ?_
          on_goal 2 => (clear_value a; intro _)
          on_goal 1 => (dsimp -zeta only [a]; clear a))
       | subst a)
    | with_reducible apply State.vote_keeps
    | with_reducible apply State.evalWord_keeps
    | with_reducible apply State.showWord_keeps
    | intro _
    | split
    | dsimp -zeta only

theorem State.takeWord_keeps {st0 s x} (hk : Keeps st0 s) : Keeps st0 (State.takeWord s x) := by
  refine hk.trans ?_; clear hk
  unfold State.takeWord
  repeat' first
    | with_reducible apply Keeps.refl
    | with_reducible assumption
    | with_reducible apply State.judge_keeps
    | with_reducible apply State.arrive_keeps
    | intro _
    | split
    | dsimp -zeta only

theorem State.keepEarly_keeps {st0 s x} (hk : Keeps st0 s) : Keeps st0 (State.keepEarly s x) := by
  refine hk.trans ?_; clear hk
  unfold State.keepEarly
  repeat' first
    | with_reducible apply Keeps.refl
    | with_reducible assumption
    | (extract_lets +onlyGivenNames a
       first
       | (refine Keeps.cut (m := a) ?_ ?_
          on_goal 2 => (clear_value a; intro _)
          on_goal 1 => (dsimp -zeta only [a]; clear a))
       | (refine Keeps.cut (m := a.2) ?_ ?_
          on_goal 2 => (clear_value a; intro _)
          on_goal 1 => (dsimp -zeta only [a]; clear a))
       | (refine Keeps.cut (m := a.1) ?_ ?_
          on_goal 2 => (clear_value a; intro _)
          on_goal 1 => (dsimp -zeta only [a]; clear a))
       | subst a)
    | with_reducible apply State.arrive_keeps
    | with_reducible apply State.setLim_keeps
    | with_reducible apply State.showWord_keeps
    | intro _
    | split
    | dsimp -zeta only

theorem State.firstPass_keeps {st0 s} (hk : Keeps st0 s) : Keeps st0 (State.firstPass s) := by
  refine hk.trans ?_; clear hk
  unfold State.firstPass
  repeat' first
    | with_reducible apply Keeps.refl
    | with_reducible assumption
    | (extract_lets +onlyGivenNames a
       first
       | (refine Keeps.cut (m := a) ?_ ?_
          on_goal 2 => (clear_value a; intro _)
          on_goal 1 => (dsimp -zeta only [a]; clear a))
       | (refine Keeps.cut (m := a.2) ?_ ?_
          on_goal 2 => (clear_value a; intro _)
          on_goal 1 => (dsimp -zeta only [a]; clear a))
       | (refine Keeps.cut (m := a.1) ?_ ?_
          on_goal 2 => (clear_value a; intro _)
          on_goal 1 => (dsimp -zeta only [a]; clear a))
       | subst a)
    | with_reducible apply State.setLim_keeps
    | with_reducible apply State.judge_keeps
    | with_reducible apply foldS_keeps
    | ((with_reducible apply Keeps.of_snd); on_goal 1 => with_reducible assumption)
    | ((with_reducible apply Keeps.of_fst); on_goal 1 => with_reducible assumption)
    | intro _
    | split
    | dsimp -zeta only

theorem execLimitEvaluate_keeps {t s} : OutKeeps s (execLimitEvaluate t s) := by
  unfold execLimitEvaluate
  repeat' first
    | with_reducible apply Keeps.refl
    | with_reducible assumption
    | (extract_lets +onlyGivenNames a
       first
       | (refine Keeps.cut (m := a) ?_ ?_
          on_goal 2 => (clear_value a; intro _)
          on_goal 1 => (dsimp -zeta only [a]; clear a))
       | (refine Keeps.cut (m := a.2) ?_ ?_
          on_goal 2 => (clear_value a; intro _)
          on_goal 1 => (dsimp -zeta only [a]; clear a))
       | (refine Keeps.cut (m := a.1) ?_ ?_
          on_goal 2 => (clear_value a; intro _)
          on_goal 1 => (dsimp -zeta only [a]; clear a))
       | subst a)
    | with_reducible apply OutKeeps.refused
    | with_reducible apply OutKeeps.next
    | with_reducible apply State.atTime_keeps
    | with_reducible apply State.setLim_keeps
    | with_reducible apply State.takeWord_keeps
    | with_reducible apply State.keepEarly_keeps
    | ((with_reducible apply Keeps.of_snd); on_goal 1 => with_reducible assumption)
    | ((with_reducible apply Keeps.of_fst); on_goal 1 => with_reducible assumption)
    | with_reducible apply OutKeeps.ite
    | intro _
    | split
    | dsimp -zeta only

theorem State.sendWord_keeps {st0 s x} (hk : Keeps st0 s) : Keeps st0 (State.sendWord s x) := by
  refine hk.trans ?_; clear hk
  unfold State.sendWord
  repeat' first
    | with_reducible apply Keeps.refl
    | with_reducible assumption
    | (extract_lets +onlyGivenNames a
       first
       | (refine Keeps.cut (m := a) ?_ ?_
          on_goal 2 => (clear_value a; intro _)
          on_goal 1 => (dsimp -zeta only [a]; clear a))
       | (refine Keeps.cut (m := a.2) ?_ ?_
          on_goal 2 => (clear_value a; intro _)
          on_goal 1 => (dsimp -zeta only [a]; clear a))
       | (refine Keeps.cut (m := a.1) ?_ ?_
          on_goal 2 => (clear_value a; intro _)
          on_goal 1 => (dsimp -zeta only [a]; clear a))
       | subst a)
    | with_reducible apply State.markNew_keeps
    | with_reducible apply State.setSample_keeps
    | with_reducible apply State.setLim_keeps
    | intro _
    | split
    | dsimp -zeta only

theorem State.derivedWrite_keeps {st0 s ch w} (hk : Keeps st0 s) : Keeps st0 (State.derivedWrite s ch w) := by
  refine hk.trans ?_; clear hk
  unfold State.derivedWrite
  repeat' first
    | with_reducible apply Keeps.refl
    | with_reducible assumption
    | with_reducible apply State.answer_keeps
    | with_reducible apply State.sendWord_keeps
    | with_reducible apply State.noteApplied_keeps
    | intro _
    | split
    | dsimp -zeta only

theorem execDerivedChannelWrite_keeps {ch w t s} : OutKeeps s (execDerivedChannelWrite ch w t s) := by
  unfold execDerivedChannelWrite
  repeat' first
    | with_reducible apply Keeps.refl
    | with_reducible assumption
    | with_reducible apply OutKeeps.refused
    | with_reducible apply OutKeeps.next
    | with_reducible apply State.derivedWrite_keeps
    | with_reducible apply State.atTime_keeps
    | with_reducible apply OutKeeps.ite
    | intro _
    | split
    | dsimp -zeta only

theorem State.setInh_keeps {st0 s e on} (hk : Keeps st0 s) : Keeps st0 (State.setInh s e on) := by
  refine hk.trans ?_; clear hk
  unfold State.setInh
  repeat' first
    | with_reducible apply Keeps.refl
    | with_reducible assumption
    | (extract_lets +onlyGivenNames a
       first
       | (refine Keeps.cut (m := a) ?_ ?_
          on_goal 2 => (clear_value a; intro _)
          on_goal 1 => (dsimp -zeta only [a]; clear a))
       | (refine Keeps.cut (m := a.2) ?_ ?_
          on_goal 2 => (clear_value a; intro _)
          on_goal 1 => (dsimp -zeta only [a]; clear a))
       | (refine Keeps.cut (m := a.1) ?_ ?_
          on_goal 2 => (clear_value a; intro _)
          on_goal 1 => (dsimp -zeta only [a]; clear a))
       | subst a)
    | with_reducible apply State.suppress_keeps
    | with_reducible apply State.setFlag_keeps
    | with_reducible apply State.putLink_keeps
    | with_reducible apply State.putSwitches_keeps
    | intro _
    | split
    | dsimp -zeta only

theorem State.followInh_keeps {st0 s e} (hk : Keeps st0 s) : Keeps st0 (State.followInh s e) := by
  refine hk.trans ?_; clear hk
  unfold State.followInh
  repeat' first
    | with_reducible apply Keeps.refl
    | with_reducible assumption
    | with_reducible apply State.setInh_keeps
    | intro _
    | split
    | dsimp -zeta only

theorem State.setEffective_keeps {st0 s i on} (hk : Keeps st0 s) : Keeps st0 (State.setEffective s i on) := by
  refine hk.trans ?_; clear hk
  unfold State.setEffective
  repeat' first
    | with_reducible apply Keeps.refl
    | with_reducible assumption
    | with_reducible apply State.followInh_keeps
    | with_reducible apply State.raise_keeps
    | with_reducible apply State.setAbit_keeps
    | with_reducible apply foldS_keeps
    | intro _
    | split
    | dsimp -zeta only

theorem State.setRelease_keeps {st0 s i t} (hk : Keeps st0 s) : Keeps st0 (State.setRelease s i t) := by
  refine hk.trans ?_; clear hk
  unfold State.setRelease
  repeat' first
    | with_reducible apply Keeps.refl
    | with_reducible assumption
    | with_reducible apply State.setLim_keeps
    | intro _
    | split
    | dsimp -zeta only

theorem State.inhibitBit_keeps {st0 s i on} (hk : Keeps st0 s) : Keeps st0 (State.inhibitBit s i on) := by
  refine hk.trans ?_; clear hk
  unfold State.inhibitBit
  repeat' first
    | with_reducible apply Keeps.refl
    | with_reducible assumption
    | (extract_lets +onlyGivenNames a
       first
       | (refine Keeps.cut (m := a) ?_ ?_
          on_goal 2 => (clear_value a; intro _)
          on_goal 1 => (dsimp -zeta only [a]; clear a))
       | (refine Keeps.cut (m := a.2) ?_ ?_
          on_goal 2 => (clear_value a; intro _)
          on_goal 1 => (dsimp -zeta only [a]; clear a))
       | (refine Keeps.cut (m := a.1) ?_ ?_
          on_goal 2 => (clear_value a; intro _)
          on_goal 1 => (dsimp -zeta only [a]; clear a))
       | subst a)
    | with_reducible apply State.answer_keeps
    | with_reducible apply State.setAbit_keeps
    | with_reducible apply State.setEffective_keeps
    | with_reducible apply State.setRelease_keeps
    | intro _
    | split
    | dsimp -zeta only

theorem execInhibitBit_keeps {i on t s} : OutKeeps s (execInhibitBit i on t s) := by
  unfold execInhibitBit
  repeat' first
    | with_reducible apply Keeps.refl
    | with_reducible assumption
    | with_reducible apply OutKeeps.refused
    | with_reducible apply OutKeeps.next
    | with_reducible apply State.inhibitBit_keeps
    | with_reducible apply State.atTime_keeps
    | with_reducible apply OutKeeps.ite
    | intro _
    | split
    | dsimp -zeta only

theorem execInhibitReleaseExpiry_keeps {i t s} : OutKeeps s (execInhibitReleaseExpiry i t s) := by
  unfold execInhibitReleaseExpiry
  repeat' first
    | with_reducible apply Keeps.refl
    | with_reducible assumption
    | (extract_lets +onlyGivenNames a
       first
       | (refine Keeps.cut (m := a) ?_ ?_
          on_goal 2 => (clear_value a; intro _)
          on_goal 1 => (dsimp -zeta only [a]; clear a))
       | (refine Keeps.cut (m := a.2) ?_ ?_
          on_goal 2 => (clear_value a; intro _)
          on_goal 1 => (dsimp -zeta only [a]; clear a))
       | (refine Keeps.cut (m := a.1) ?_ ?_
          on_goal 2 => (clear_value a; intro _)
          on_goal 1 => (dsimp -zeta only [a]; clear a))
       | subst a)
    | with_reducible apply OutKeeps.refused
    | with_reducible apply OutKeeps.next
    | with_reducible apply State.atTime_keeps
    | with_reducible apply State.setEffective_keeps
    | with_reducible apply State.setRelease_keeps
    | with_reducible apply OutKeeps.ite
    | intro _
    | split
    | dsimp -zeta only

theorem execLimitScrub_keeps {e r s} : OutKeeps s (execLimitScrub e r s) := by
  unfold execLimitScrub
  repeat' first
    | with_reducible apply Keeps.refl
    | with_reducible assumption
    | with_reducible apply OutKeeps.refused
    | with_reducible apply OutKeeps.next
    | with_reducible apply State.raise_keeps
    | with_reducible apply State.addFld_keeps
    | with_reducible apply State.needCycle_keeps
    | with_reducible apply State.setFlag_keeps
    | ((with_reducible apply Keeps.of_snd); on_goal 1 => with_reducible assumption)
    | ((with_reducible apply Keeps.of_fst); on_goal 1 => with_reducible assumption)
    | with_reducible apply OutKeeps.ite
    | intro _
    | split
    | dsimp -zeta only

theorem State.copyEntry_keeps {st0 s e cfgerr} (hk : Keeps st0 s) : Keeps st0 (State.copyEntry s e cfgerr) := by
  refine hk.trans ?_; clear hk
  unfold State.copyEntry
  repeat' first
    | with_reducible apply Keeps.refl
    | with_reducible assumption
    | (extract_lets +onlyGivenNames a
       first
       | (refine Keeps.cut (m := a) ?_ ?_
          on_goal 2 => (clear_value a; intro _)
          on_goal 1 => (dsimp -zeta only [a]; clear a))
       | (refine Keeps.cut (m := a.2) ?_ ?_
          on_goal 2 => (clear_value a; intro _)
          on_goal 1 => (dsimp -zeta only [a]; clear a))
       | (refine Keeps.cut (m := a.1) ?_ ?_
          on_goal 2 => (clear_value a; intro _)
          on_goal 1 => (dsimp -zeta only [a]; clear a))
       | subst a)
    | with_reducible apply State.setFld_keeps
    | with_reducible apply State.setFlag_keeps
    | intro _
    | split
    | dsimp -zeta only

theorem State.clearEntry_keeps {st0 s e disabled} (hk : Keeps st0 s) : Keeps st0 (State.clearEntry s e disabled) := by
  refine hk.trans ?_; clear hk
  unfold State.clearEntry
  repeat' first
    | with_reducible apply Keeps.refl
    | with_reducible assumption
    | (extract_lets +onlyGivenNames a
       first
       | (refine Keeps.cut (m := a) ?_ ?_
          on_goal 2 => (clear_value a; intro _)
          on_goal 1 => (dsimp -zeta only [a]; clear a))
       | (refine Keeps.cut (m := a.2) ?_ ?_
          on_goal 2 => (clear_value a; intro _)
          on_goal 1 => (dsimp -zeta only [a]; clear a))
       | (refine Keeps.cut (m := a.1) ?_ ?_
          on_goal 2 => (clear_value a; intro _)
          on_goal 1 => (dsimp -zeta only [a]; clear a))
       | subst a)
    | with_reducible apply State.setFlag_keeps
    | with_reducible apply State.setAct_keeps
    | with_reducible apply State.setEntSt_keeps
    | intro _
    | split
    | dsimp -zeta only

theorem State.replaceEntry_keeps {st0 s e x} (hk : Keeps st0 s) : Keeps st0 (State.replaceEntry s e x) := by
  refine hk.trans ?_; clear hk
  unfold State.replaceEntry
  repeat' first
    | with_reducible apply Keeps.refl
    | with_reducible assumption
    | (extract_lets +onlyGivenNames a
       first
       | (refine Keeps.cut (m := a) ?_ ?_
          on_goal 2 => (clear_value a; intro _)
          on_goal 1 => (dsimp -zeta only [a]; clear a))
       | (refine Keeps.cut (m := a.2) ?_ ?_
          on_goal 2 => (clear_value a; intro _)
          on_goal 1 => (dsimp -zeta only [a]; clear a))
       | (refine Keeps.cut (m := a.1) ?_ ?_
          on_goal 2 => (clear_value a; intro _)
          on_goal 1 => (dsimp -zeta only [a]; clear a))
       | subst a)
    | with_reducible apply State.copyEntry_keeps
    | with_reducible apply State.putEnt_keeps
    | with_reducible apply State.clearEntry_keeps
    | with_reducible apply State.setEntSt_keeps
    | with_reducible apply State.setAlarmState_keeps
    | with_reducible apply State.followInh_keeps
    | with_reducible apply State.groupsChanged_keeps
    | with_reducible apply State.putSwitches_keeps
    | with_reducible apply State.putLink_keeps
    | with_reducible apply State.linkMoved_keeps
    | intro _
    | split
    | dsimp -zeta only

theorem State.noteStaged_keeps {st0 s source} (hk : Keeps st0 s) : Keeps st0 (State.noteStaged s source) := by
  refine hk.trans ?_; clear hk
  unfold State.noteStaged
  repeat' first
    | with_reducible apply Keeps.refl
    | with_reducible assumption
    | with_reducible apply State.raise_keeps
    | with_reducible apply State.setFlag_keeps
    | intro _
    | split
    | dsimp -zeta only

theorem State.stageEntry_keeps {st0 s e x} (hk : Keeps st0 s) : Keeps st0 (State.stageEntry s e x).2 := by
  refine hk.trans ?_; clear hk
  unfold State.stageEntry
  repeat' first
    | with_reducible apply Keeps.refl
    | with_reducible assumption
    | with_reducible apply State.noteStaged_keeps
    | with_reducible apply State.replaceEntry_keeps
    | intro _
    | split
    | dsimp -zeta only

theorem State.recheck_keeps {st0 s e} (hk : Keeps st0 s) : Keeps st0 (State.recheck s e) := by
  refine hk.trans ?_; clear hk
  unfold State.recheck
  repeat' first
    | with_reducible apply Keeps.refl
    | with_reducible assumption
    | (extract_lets +onlyGivenNames a
       first
       | (refine Keeps.cut (m := a) ?_ ?_
          on_goal 2 => (clear_value a; intro _)
          on_goal 1 => (dsimp -zeta only [a]; clear a))
       | (refine Keeps.cut (m := a.2) ?_ ?_
          on_goal 2 => (clear_value a; intro _)
          on_goal 1 => (dsimp -zeta only [a]; clear a))
       | (refine Keeps.cut (m := a.1) ?_ ?_
          on_goal 2 => (clear_value a; intro _)
          on_goal 1 => (dsimp -zeta only [a]; clear a))
       | subst a)
    | with_reducible apply State.copyEntry_keeps
    | with_reducible apply State.alarmDropped_keeps
    | with_reducible apply State.clearEntry_keeps
    | with_reducible apply State.followInh_keeps
    | intro _
    | split
    | dsimp -zeta only

theorem State.stageIndex_keeps {st0 s c w} (hk : Keeps st0 s) : Keeps st0 (State.stageIndex s c w).2 := by
  refine hk.trans ?_; clear hk
  unfold State.stageIndex
  repeat' first
    | with_reducible apply Keeps.refl
    | with_reducible assumption
    | (extract_lets +onlyGivenNames a
       first
       | (refine Keeps.cut (m := a) ?_ ?_
          on_goal 2 => (clear_value a; intro _)
          on_goal 1 => (dsimp -zeta only [a]; clear a))
       | (refine Keeps.cut (m := a.2) ?_ ?_
          on_goal 2 => (clear_value a; intro _)
          on_goal 1 => (dsimp -zeta only [a]; clear a))
       | (refine Keeps.cut (m := a.1) ?_ ?_
          on_goal 2 => (clear_value a; intro _)
          on_goal 1 => (dsimp -zeta only [a]; clear a))
       | subst a)
    | with_reducible apply State.wr_keeps
    | with_reducible apply State.recheck_keeps
    | with_reducible apply State.noteStaged_keeps
    | with_reducible apply State.putSwitches_keeps
    | with_reducible apply foldS_keeps
    | ((with_reducible apply Keeps.of_snd); on_goal 1 => with_reducible assumption)
    | ((with_reducible apply Keeps.of_fst); on_goal 1 => with_reducible assumption)
    | intro _
    | split
    | dsimp -zeta only

theorem State.stageSet_keeps {st0 s k w tol age} (hk : Keeps st0 s) : Keeps st0 (State.stageSet s k w tol age).2 := by
  refine hk.trans ?_; clear hk
  unfold State.stageSet
  repeat' first
    | with_reducible apply Keeps.refl
    | with_reducible assumption
    | (extract_lets +onlyGivenNames a
       first
       | (refine Keeps.cut (m := a) ?_ ?_
          on_goal 2 => (clear_value a; intro _)
          on_goal 1 => (dsimp -zeta only [a]; clear a))
       | (refine Keeps.cut (m := a.2) ?_ ?_
          on_goal 2 => (clear_value a; intro _)
          on_goal 1 => (dsimp -zeta only [a]; clear a))
       | (refine Keeps.cut (m := a.1) ?_ ?_
          on_goal 2 => (clear_value a; intro _)
          on_goal 1 => (dsimp -zeta only [a]; clear a))
       | subst a)
    | with_reducible apply State.wrAll_keeps
    | with_reducible apply State.noteStaged_keeps
    | with_reducible apply State.recheck_keeps
    | with_reducible apply foldS_keeps
    | intro _
    | split
    | dsimp -zeta only

theorem State.stageCommand_keeps {st0 s func idx} (hk : Keeps st0 s) : Keeps st0 (State.stageCommand s func idx) := by
  refine hk.trans ?_; clear hk
  unfold State.stageCommand
  repeat' first
    | with_reducible apply Keeps.refl
    | with_reducible assumption
    | with_reducible apply State.answer_keeps
    | with_reducible apply State.setFld_keeps
    | with_reducible apply State.noteLk_keeps
    | with_reducible apply State.setLim_keeps
    | with_reducible apply State.setFlag_keeps
    | intro _
    | split
    | dsimp -zeta only

theorem execLimStageEntry_keeps {_p idx t s} : OutKeeps s (execLimStageEntry _p idx t s) := by
  unfold execLimStageEntry
  repeat' first
    | with_reducible apply Keeps.refl
    | with_reducible assumption
    | with_reducible apply OutKeeps.refused
    | with_reducible apply OutKeeps.next
    | with_reducible apply State.stageCommand_keeps
    | with_reducible apply State.atTime_keeps
    | with_reducible apply OutKeeps.ite
    | intro _
    | split
    | dsimp -zeta only

theorem execLimStageIndex_keeps {_p idx t s} : OutKeeps s (execLimStageIndex _p idx t s) := by
  unfold execLimStageIndex
  repeat' first
    | with_reducible apply Keeps.refl
    | with_reducible assumption
    | with_reducible apply OutKeeps.refused
    | with_reducible apply OutKeeps.next
    | with_reducible apply State.stageCommand_keeps
    | with_reducible apply State.atTime_keeps
    | with_reducible apply OutKeeps.ite
    | intro _
    | split
    | dsimp -zeta only

theorem execLimStageSet_keeps {_p idx t s} : OutKeeps s (execLimStageSet _p idx t s) := by
  unfold execLimStageSet
  repeat' first
    | with_reducible apply Keeps.refl
    | with_reducible assumption
    | with_reducible apply OutKeeps.refused
    | with_reducible apply OutKeeps.next
    | with_reducible apply State.stageCommand_keeps
    | with_reducible apply State.atTime_keeps
    | with_reducible apply OutKeeps.ite
    | intro _
    | split
    | dsimp -zeta only

theorem State.stageApply_keeps {st0 s} (hk : Keeps st0 s) : Keeps st0 (State.stageApply s) := by
  refine hk.trans ?_; clear hk
  unfold State.stageApply
  repeat' first
    | with_reducible apply Keeps.refl
    | with_reducible assumption
    | (extract_lets +onlyGivenNames a
       first
       | (refine Keeps.cut (m := a) ?_ ?_
          on_goal 2 => (clear_value a; intro _)
          on_goal 1 => (dsimp -zeta only [a]; clear a))
       | (refine Keeps.cut (m := a.2) ?_ ?_
          on_goal 2 => (clear_value a; intro _)
          on_goal 1 => (dsimp -zeta only [a]; clear a))
       | (refine Keeps.cut (m := a.1) ?_ ?_
          on_goal 2 => (clear_value a; intro _)
          on_goal 1 => (dsimp -zeta only [a]; clear a))
       | subst a)
    | with_reducible apply State.stageEntry_keeps
    | with_reducible apply State.stageIndex_keeps
    | with_reducible apply State.stageSet_keeps
    | with_reducible apply State.setLim_keeps
    | with_reducible apply State.wr_keeps
    | ((with_reducible apply Keeps.of_snd); on_goal 1 => with_reducible assumption)
    | ((with_reducible apply Keeps.of_fst); on_goal 1 => with_reducible assumption)
    | intro _
    | split
    | dsimp -zeta only

theorem execLimStageApply_keeps {t s} : OutKeeps s (execLimStageApply t s) := by
  unfold execLimStageApply
  repeat' first
    | with_reducible apply Keeps.refl
    | with_reducible assumption
    | (extract_lets +onlyGivenNames a
       first
       | (refine Keeps.cut (m := a) ?_ ?_
          on_goal 2 => (clear_value a; intro _)
          on_goal 1 => (dsimp -zeta only [a]; clear a))
       | (refine Keeps.cut (m := a.2) ?_ ?_
          on_goal 2 => (clear_value a; intro _)
          on_goal 1 => (dsimp -zeta only [a]; clear a))
       | (refine Keeps.cut (m := a.1) ?_ ?_
          on_goal 2 => (clear_value a; intro _)
          on_goal 1 => (dsimp -zeta only [a]; clear a))
       | subst a)
    | with_reducible apply OutKeeps.refused
    | with_reducible apply OutKeeps.next
    | with_reducible apply State.atTime_keeps
    | with_reducible apply State.stageApply_keeps
    | with_reducible apply OutKeeps.ite
    | intro _
    | split
    | dsimp -zeta only

end Sys2Proof.Machine
end

