-- ==== Sys2Proof/Laws/KeepsFrontEnd.lean ====
section
/-! SUPPORT. Every operation of `Machine/FrontEnd.lean` keeps the queue and the canonical forms. -/

set_option linter.all false
set_option Elab.async false
set_option maxHeartbeats 60000

namespace Sys2Proof.Machine

theorem State.setChan_keeps {o s n x} (k : Keeps o s) : Keeps o (State.setChan s n x) := k.trans (Keeps.chans_ fun h => tabSet_wf (State.sound.chans h))

theorem State.setBank_keeps {o s n x} (k : Keeps o s) : Keeps o (State.setBank s n x) := k.trans (Keeps.banks_ fun h => tabSet_wf (State.sound.banks h))

theorem State.putFaultSum_keeps {st0 s n} (hk : Keeps st0 s) : Keeps st0 (State.putFaultSum s n) := by
  refine hk.trans ?_; clear hk
  unfold State.putFaultSum
  repeat' first
    | with_reducible apply Keeps.refl
    | with_reducible assumption
    | with_reducible apply State.setAbit_keeps
    | intro _
    | split
    | dsimp -zeta only

theorem State.setLive_keeps {st0 s n live reading} (hk : Keeps st0 s) : Keeps st0 (State.setLive s n live reading) := by
  refine hk.trans ?_; clear hk
  unfold State.setLive
  repeat' first
    | with_reducible apply Keeps.refl
    | with_reducible assumption
    | (extract_lets +onlyGivenNames a
       first
       | (refine Keeps.cut (m := a) ?_ ?_
          on_goal 2 => (clear_value a; intro _)
          on_goal 1 => (dsimp -zeta only [a]; clear a))
       | (refine Keeps.cut (m := a.2) ?_ ?_
          on_goal 2 => (clear_value a; intro _)
          on_goal 1 => (dsimp -zeta only [a]; clear a))
       | (refine Keeps.cut (m := a.1) ?_ ?_
          on_goal 2 => (clear_value a; intro _)
          on_goal 1 => (dsimp -zeta only [a]; clear a))
       | subst a)
    | with_reducible apply State.setFld_keeps
    | with_reducible apply State.putFaultSum_keeps
    | with_reducible apply State.raise_keeps
    | with_reducible apply foldS_keeps
    | ((with_reducible apply Keeps.of_snd); on_goal 1 => with_reducible assumption)
    | ((with_reducible apply Keeps.of_fst); on_goal 1 => with_reducible assumption)
    | intro _
    | split
    | dsimp -zeta only

theorem State.setLiveBit_keeps {st0 s n k b} (hk : Keeps st0 s) : Keeps st0 (State.setLiveBit s n k b) := by
  refine hk.trans ?_; clear hk
  unfold State.setLiveBit
  repeat' first
    | with_reducible apply Keeps.refl
    | with_reducible assumption
    | with_reducible apply State.setLive_keeps
    | intro _
    | split
    | dsimp -zeta only

theorem State.clearLatched_keeps {st0 s n mask} (hk : Keeps st0 s) : Keeps st0 (State.clearLatched s n mask) := by
  refine hk.trans ?_; clear hk
  unfold State.clearLatched
  repeat' first
    | with_reducible apply Keeps.refl
    | with_reducible assumption
    | (extract_lets +onlyGivenNames a
       first
       | (refine Keeps.cut (m := a) ?_ ?_
          on_goal 2 => (clear_value a; intro _)
          on_goal 1 => (dsimp -zeta only [a]; clear a))
       | (refine Keeps.cut (m := a.2) ?_ ?_
          on_goal 2 => (clear_value a; intro _)
          on_goal 1 => (dsimp -zeta only [a]; clear a))
       | (refine Keeps.cut (m := a.1) ?_ ?_
          on_goal 2 => (clear_value a; intro _)
          on_goal 1 => (dsimp -zeta only [a]; clear a))
       | subst a)
    | with_reducible apply State.putFaultSum_keeps
    | with_reducible apply State.setFld_keeps
    | intro _
    | split
    | dsimp -zeta only

theorem State.dropWord_keeps {st0 s n} (hk : Keeps st0 s) : Keeps st0 (State.dropWord s n) := by
  refine hk.trans ?_; clear hk
  unfold State.dropWord
  repeat' first
    | with_reducible apply Keeps.refl
    | with_reducible assumption
    | (extract_lets +onlyGivenNames a
       first
       | (refine Keeps.cut (m := a) ?_ ?_
          on_goal 2 => (clear_value a; intro _)
          on_goal 1 => (dsimp -zeta only [a]; clear a))
       | (refine Keeps.cut (m := a.2) ?_ ?_
          on_goal 2 => (clear_value a; intro _)
          on_goal 1 => (dsimp -zeta only [a]; clear a))
       | (refine Keeps.cut (m := a.1) ?_ ?_
          on_goal 2 => (clear_value a; intro _)
          on_goal 1 => (dsimp -zeta only [a]; clear a))
       | subst a)
    | with_reducible apply State.setChan_keeps
    | with_reducible apply State.sendWord_keeps
    | intro _
    | split
    | dsimp -zeta only

theorem State.closeLoop_keeps {st0 s n} (hk : Keeps st0 s) : Keeps st0 (State.closeLoop s n) := by
  refine hk.trans ?_; clear hk
  unfold State.closeLoop
  repeat' first
    | with_reducible apply Keeps.refl
    | with_reducible assumption
    | with_reducible apply State.tapMoved_keeps
    | with_reducible apply State.setChan_keeps
    | with_reducible apply State.setAbit_keeps
    | intro _
    | split
    | dsimp -zeta only

theorem State.holdLoop_keeps {st0 s n} (hk : Keeps st0 s) : Keeps st0 (State.holdLoop s n) := by
  refine hk.trans ?_; clear hk
  unfold State.holdLoop
  repeat' first
    | with_reducible apply Keeps.refl
    | with_reducible assumption
    | (extract_lets +onlyGivenNames a
       first
       | (refine Keeps.cut (m := a) ?_ ?_
          on_goal 2 => (clear_value a; intro _)
          on_goal 1 => (dsimp -zeta only [a]; clear a))
       | (refine Keeps.cut (m := a.2) ?_ ?_
          on_goal 2 => (clear_value a; intro _)
          on_goal 1 => (dsimp -zeta only [a]; clear a))
       | (refine Keeps.cut (m := a.1) ?_ ?_
          on_goal 2 => (clear_value a; intro _)
          on_goal 1 => (dsimp -zeta only [a]; clear a))
       | subst a)
    | with_reducible apply State.setChan_keeps
    | with_reducible apply State.setAbit_keeps
    | with_reducible apply State.tapMoved_keeps
    | with_reducible apply State.setLive_keeps
    | intro _
    | split
    | dsimp -zeta only

theorem execLoopSwitchStartClose_keeps {t s} : OutKeeps s (execLoopSwitchStartClose t s) := by
  unfold execLoopSwitchStartClose
  repeat' first
    | with_reducible apply Keeps.refl
    | with_reducible assumption
    | (extract_lets +onlyGivenNames a
       first
       | (refine Keeps.cut (m := a) ?_ ?_
          on_goal 2 => (clear_value a; intro _)
          on_goal 1 => (dsimp -zeta only [a]; clear a))
       | (refine Keeps.cut (m := a.2) ?_ ?_
          on_goal 2 => (clear_value a; intro _)
          on_goal 1 => (dsimp -zeta only [a]; clear a))
       | (refine Keeps.cut (m := a.1) ?_ ?_
          on_goal 2 => (clear_value a; intro _)
          on_goal 1 => (dsimp -zeta only [a]; clear a))
       | subst a)
    | with_reducible apply OutKeeps.refused
    | with_reducible apply OutKeeps.next
    | with_reducible apply State.atTime_keeps
    | with_reducible apply State.closeLoop_keeps
    | ((with_reducible apply Keeps.of_snd); on_goal 1 => with_reducible assumption)
    | ((with_reducible apply Keeps.of_fst); on_goal 1 => with_reducible assumption)
    | with_reducible apply OutKeeps.ite
    | intro _
    | split
    | dsimp -zeta only

theorem State.shedLoops_keeps {st0 : State} {ma l total} : ∀ {s : State}, Keeps st0 s → Keeps st0 (State.shedLoops s ma l total) := by
  induction l generalizing total with
  | nil => exact fun h => State.setFld_keeps h
  | cons n l ih =>
    intro s h
    unfold State.shedLoops
    split
    · exact State.setFld_keeps h
    · exact ih (State.holdLoop_keeps h)

theorem execVloopOvercurrent_keeps {ma t s} : OutKeeps s (execVloopOvercurrent ma t s) := by
  unfold execVloopOvercurrent
  repeat' first
    | with_reducible apply Keeps.refl
    | with_reducible assumption
    | (extract_lets +onlyGivenNames a
       first
       | (refine Keeps.cut (m := a) ?_ ?_
          on_goal 2 => (clear_value a; intro _)
          on_goal 1 => (dsimp -zeta only [a]; clear a))
       | (refine Keeps.cut (m := a.2) ?_ ?_
          on_goal 2 => (clear_value a; intro _)
          on_goal 1 => (dsimp -zeta only [a]; clear a))
       | (refine Keeps.cut (m := a.1) ?_ ?_
          on_goal 2 => (clear_value a; intro _)
          on_goal 1 => (dsimp -zeta only [a]; clear a))
       | subst a)
    | with_reducible apply OutKeeps.refused
    | with_reducible apply OutKeeps.next
    | with_reducible apply State.atTime_keeps
    | with_reducible apply State.shedLoops_keeps
    | ((with_reducible apply Keeps.of_snd); on_goal 1 => with_reducible assumption)
    | ((with_reducible apply Keeps.of_fst); on_goal 1 => with_reducible assumption)
    | with_reducible apply OutKeeps.ite
    | intro _
    | split
    | dsimp -zeta only

theorem State.putVloop_keeps {st0 s v i} (hk : Keeps st0 s) : Keeps st0 (State.putVloop s v i) := by
  refine hk.trans ?_; clear hk
  unfold State.putVloop
  repeat' first
    | with_reducible apply Keeps.refl
    | with_reducible assumption
    | with_reducible apply State.setFld_keeps
    | intro _
    | split
    | dsimp -zeta only

theorem execVloopLow_keeps {v i s} : OutKeeps s (execVloopLow v i s) := by
  unfold execVloopLow
  repeat' first
    | with_reducible apply Keeps.refl
    | with_reducible assumption
    | (extract_lets +onlyGivenNames a
       first
       | (refine Keeps.cut (m := a) ?_ ?_
          on_goal 2 => (clear_value a; intro _)
          on_goal 1 => (dsimp -zeta only [a]; clear a))
       | (refine Keeps.cut (m := a.2) ?_ ?_
          on_goal 2 => (clear_value a; intro _)
          on_goal 1 => (dsimp -zeta only [a]; clear a))
       | (refine Keeps.cut (m := a.1) ?_ ?_
          on_goal 2 => (clear_value a; intro _)
          on_goal 1 => (dsimp -zeta only [a]; clear a))
       | subst a)
    | with_reducible apply OutKeeps.refused
    | with_reducible apply OutKeeps.next
    | with_reducible apply State.setFlag_keeps
    | with_reducible apply State.putVloop_keeps
    | with_reducible apply State.raise_keeps
    | with_reducible apply State.setChan_keeps
    | with_reducible apply State.tapMoved_keeps
    | with_reducible apply State.setLive_keeps
    | with_reducible apply foldS_keeps
    | with_reducible apply OutKeeps.ite
    | intro _
    | split
    | dsimp -zeta only

theorem execVloopRecover_keeps {v i s} : OutKeeps s (execVloopRecover v i s) := by
  unfold execVloopRecover
  repeat' first
    | with_reducible apply Keeps.refl
    | with_reducible assumption
    | (extract_lets +onlyGivenNames a
       first
       | (refine Keeps.cut (m := a) ?_ ?_
          on_goal 2 => (clear_value a; intro _)
          on_goal 1 => (dsimp -zeta only [a]; clear a))
       | (refine Keeps.cut (m := a.2) ?_ ?_
          on_goal 2 => (clear_value a; intro _)
          on_goal 1 => (dsimp -zeta only [a]; clear a))
       | (refine Keeps.cut (m := a.1) ?_ ?_
          on_goal 2 => (clear_value a; intro _)
          on_goal 1 => (dsimp -zeta only [a]; clear a))
       | subst a)
    | with_reducible apply OutKeeps.refused
    | with_reducible apply OutKeeps.next
    | with_reducible apply State.setFlag_keeps
    | with_reducible apply State.putVloop_keeps
    | with_reducible apply State.tapMoved_keeps
    | with_reducible apply State.setLiveBit_keeps
    | with_reducible apply foldS_keeps
    | ((with_reducible apply Keeps.of_snd); on_goal 1 => with_reducible assumption)
    | ((with_reducible apply Keeps.of_fst); on_goal 1 => with_reducible assumption)
    | with_reducible apply OutKeeps.ite
    | intro _
    | split
    | dsimp -zeta only

theorem execLoopSwitchLimit_keeps {n t s} : OutKeeps s (execLoopSwitchLimit n t s) := by
  unfold execLoopSwitchLimit
  repeat' first
    | with_reducible apply Keeps.refl
    | with_reducible assumption
    | (extract_lets +onlyGivenNames a
       first
       | (refine Keeps.cut (m := a) ?_ ?_
          on_goal 2 => (clear_value a; intro _)
          on_goal 1 => (dsimp -zeta only [a]; clear a))
       | (refine Keeps.cut (m := a.2) ?_ ?_
          on_goal 2 => (clear_value a; intro _)
          on_goal 1 => (dsimp -zeta only [a]; clear a))
       | (refine Keeps.cut (m := a.1) ?_ ?_
          on_goal 2 => (clear_value a; intro _)
          on_goal 1 => (dsimp -zeta only [a]; clear a))
       | subst a)
    | with_reducible apply OutKeeps.refused
    | with_reducible apply OutKeeps.next
    | with_reducible apply State.atTime_keeps
    | with_reducible apply State.holdLoop_keeps
    | with_reducible apply OutKeeps.ite
    | intro _
    | split
    | dsimp -zeta only

theorem execLoopRetry_keeps {n t s} : OutKeeps s (execLoopRetry n t s) := by
  unfold execLoopRetry
  repeat' first
    | with_reducible apply Keeps.refl
    | with_reducible assumption
    | (extract_lets +onlyGivenNames a
       first
       | (refine Keeps.cut (m := a) ?_ ?_
          on_goal 2 => (clear_value a; intro _)
          on_goal 1 => (dsimp -zeta only [a]; clear a))
       | (refine Keeps.cut (m := a.2) ?_ ?_
          on_goal 2 => (clear_value a; intro _)
          on_goal 1 => (dsimp -zeta only [a]; clear a))
       | (refine Keeps.cut (m := a.1) ?_ ?_
          on_goal 2 => (clear_value a; intro _)
          on_goal 1 => (dsimp -zeta only [a]; clear a))
       | subst a)
    | with_reducible apply OutKeeps.refused
    | with_reducible apply OutKeeps.next
    | with_reducible apply State.atTime_keeps
    | with_reducible apply State.closeLoop_keeps
    | with_reducible apply State.setChan_keeps
    | ((with_reducible apply Keeps.of_snd); on_goal 1 => with_reducible assumption)
    | ((with_reducible apply Keeps.of_fst); on_goal 1 => with_reducible assumption)
    | with_reducible apply OutKeeps.ite
    | intro _
    | split
    | dsimp -zeta only

theorem execLoopRetryEnd_keeps {n held t s} : OutKeeps s (execLoopRetryEnd n held t s) := by
  unfold execLoopRetryEnd
  repeat' first
    | with_reducible apply Keeps.refl
    | with_reducible assumption
    | (extract_lets +onlyGivenNames a
       first
       | (refine Keeps.cut (m := a) ?_ ?_
          on_goal 2 => (clear_value a; intro _)
          on_goal 1 => (dsimp -zeta only [a]; clear a))
       | (refine Keeps.cut (m := a.2) ?_ ?_
          on_goal 2 => (clear_value a; intro _)
          on_goal 1 => (dsimp -zeta only [a]; clear a))
       | (refine Keeps.cut (m := a.1) ?_ ?_
          on_goal 2 => (clear_value a; intro _)
          on_goal 1 => (dsimp -zeta only [a]; clear a))
       | subst a)
    | with_reducible apply OutKeeps.refused
    | with_reducible apply OutKeeps.next
    | with_reducible apply State.atTime_keeps
    | with_reducible apply State.holdLoop_keeps
    | with_reducible apply State.setLiveBit_keeps
    | with_reducible apply State.setChan_keeps
    | ((with_reducible apply Keeps.of_snd); on_goal 1 => with_reducible assumption)
    | ((with_reducible apply Keeps.of_fst); on_goal 1 => with_reducible assumption)
    | with_reducible apply OutKeeps.ite
    | intro _
    | split
    | dsimp -zeta only

theorem State.setBxlim_keeps {st0 s b on} (hk : Keeps st0 s) : Keeps st0 (State.setBxlim s b on) := by
  refine hk.trans ?_; clear hk
  unfold State.setBxlim
  repeat' first
    | with_reducible apply Keeps.refl
    | with_reducible assumption
    | with_reducible apply State.setLiveBit_keeps
    | with_reducible apply State.setFlag_keeps
    | with_reducible apply foldS_keeps
    | ((with_reducible apply Keeps.of_snd); on_goal 1 => with_reducible assumption)
    | ((with_reducible apply Keeps.of_fst); on_goal 1 => with_reducible assumption)
    | intro _
    | split
    | dsimp -zeta only

theorem execBridgeSupplyLimit_keeps {b s} : OutKeeps s (execBridgeSupplyLimit b s) := by
  unfold execBridgeSupplyLimit
  repeat' first
    | with_reducible apply Keeps.refl
    | with_reducible assumption
    | with_reducible apply OutKeeps.refused
    | with_reducible apply OutKeeps.next
    | with_reducible apply State.raise_keeps
    | with_reducible apply State.setBxlim_keeps
    | with_reducible apply OutKeeps.ite
    | intro _
    | split
    | dsimp -zeta only

theorem execBridgeSupplyLimitEnd_keeps {b s} : OutKeeps s (execBridgeSupplyLimitEnd b s) := by
  unfold execBridgeSupplyLimitEnd
  repeat' first
    | with_reducible apply Keeps.refl
    | with_reducible assumption
    | with_reducible apply OutKeeps.refused
    | with_reducible apply OutKeeps.next
    | with_reducible apply State.setBxlim_keeps
    | with_reducible apply OutKeeps.ite
    | intro _
    | split
    | dsimp -zeta only

theorem execClampConduct_keeps {n t s} : OutKeeps s (execClampConduct n t s) := by
  unfold execClampConduct
  repeat' first
    | with_reducible apply Keeps.refl
    | with_reducible assumption
    | (extract_lets +onlyGivenNames a
       first
       | (refine Keeps.cut (m := a) ?_ ?_
          on_goal 2 => (clear_value a; intro _)
          on_goal 1 => (dsimp -zeta only [a]; clear a))
       | (refine Keeps.cut (m := a.2) ?_ ?_
          on_goal 2 => (clear_value a; intro _)
          on_goal 1 => (dsimp -zeta only [a]; clear a))
       | (refine Keeps.cut (m := a.1) ?_ ?_
          on_goal 2 => (clear_value a; intro _)
          on_goal 1 => (dsimp -zeta only [a]; clear a))
       | subst a)
    | with_reducible apply OutKeeps.refused
    | with_reducible apply OutKeeps.next
    | with_reducible apply State.atTime_keeps
    | with_reducible apply State.tapMoved_keeps
    | with_reducible apply State.setLiveBit_keeps
    | with_reducible apply OutKeeps.ite
    | intro _
    | split
    | dsimp -zeta only

theorem execClampClear_keeps {n t s} : OutKeeps s (execClampClear n t s) := by
  unfold execClampClear
  repeat' first
    | with_reducible apply Keeps.refl
    | with_reducible assumption
    | (extract_lets +onlyGivenNames a
       first
       | (refine Keeps.cut (m := a) ?_ ?_
          on_goal 2 => (clear_value a; intro _)
          on_goal 1 => (dsimp -zeta only [a]; clear a))
       | (refine Keeps.cut (m := a.2) ?_ ?_
          on_goal 2 => (clear_value a; intro _)
          on_goal 1 => (dsimp -zeta only [a]; clear a))
       | (refine Keeps.cut (m := a.1) ?_ ?_
          on_goal 2 => (clear_value a; intro _)
          on_goal 1 => (dsimp -zeta only [a]; clear a))
       | subst a)
    | with_reducible apply OutKeeps.refused
    | with_reducible apply OutKeeps.next
    | with_reducible apply State.atTime_keeps
    | with_reducible apply State.tapMoved_keeps
    | with_reducible apply State.setChan_keeps
    | with_reducible apply State.setLiveBit_keeps
    | with_reducible apply OutKeeps.ite
    | intro _
    | split
    | dsimp -zeta only

theorem State.showCurrents_keeps {st0 s b} (hk : Keeps st0 s) : Keeps st0 (State.showCurrents s b) := by
  refine hk.trans ?_; clear hk
  unfold State.showCurrents
  repeat' first
    | with_reducible apply Keeps.refl
    | with_reducible assumption
    | with_reducible apply State.setFld_keeps
    | intro _
    | split
    | dsimp -zeta only

theorem State.setSource_keeps {st0 s b src level term} (hk : Keeps st0 s) : Keeps st0 (State.setSource s b src level term) := by
  refine hk.trans ?_; clear hk
  unfold State.setSource
  repeat' first
    | with_reducible apply Keeps.refl
    | with_reducible assumption
    | (extract_lets +onlyGivenNames a
       first
       | (refine Keeps.cut (m := a) ?_ ?_
          on_goal 2 => (clear_value a; intro _)
          on_goal 1 => (dsimp -zeta only [a]; clear a))
       | (refine Keeps.cut (m := a.2) ?_ ?_
          on_goal 2 => (clear_value a; intro _)
          on_goal 1 => (dsimp -zeta only [a]; clear a))
       | (refine Keeps.cut (m := a.1) ?_ ?_
          on_goal 2 => (clear_value a; intro _)
          on_goal 1 => (dsimp -zeta only [a]; clear a))
       | subst a)
    | with_reducible apply State.showCurrents_keeps
    | with_reducible apply State.setBank_keeps
    | intro _
    | split
    | dsimp -zeta only

theorem State.openSources_keeps {st0 s b} (hk : Keeps st0 s) : Keeps st0 (State.openSources s b) := by
  refine hk.trans ?_; clear hk
  unfold State.openSources
  repeat' first
    | with_reducible apply Keeps.refl
    | with_reducible assumption
    | with_reducible apply State.setBank_keeps
    | intro _
    | split
    | dsimp -zeta only

theorem State.showPairs_keeps {st0 s n} (hk : Keeps st0 s) : Keeps st0 (State.showPairs s n) := by
  refine hk.trans ?_; clear hk
  unfold State.showPairs
  repeat' first
    | with_reducible apply Keeps.refl
    | with_reducible assumption
    | (extract_lets +onlyGivenNames a
       first
       | (refine Keeps.cut (m := a) ?_ ?_
          on_goal 2 => (clear_value a; intro _)
          on_goal 1 => (dsimp -zeta only [a]; clear a))
       | (refine Keeps.cut (m := a.2) ?_ ?_
          on_goal 2 => (clear_value a; intro _)
          on_goal 1 => (dsimp -zeta only [a]; clear a))
       | (refine Keeps.cut (m := a.1) ?_ ?_
          on_goal 2 => (clear_value a; intro _)
          on_goal 1 => (dsimp -zeta only [a]; clear a))
       | subst a)
    | with_reducible apply State.setFld_keeps
    | with_reducible apply State.setFlag_keeps
    | intro _
    | split
    | dsimp -zeta only

theorem State.copyCfg_keeps {st0 s n} (hk : Keeps st0 s) : Keeps st0 (State.copyCfg s n) := by
  refine hk.trans ?_; clear hk
  unfold State.copyCfg
  repeat' first
    | with_reducible apply Keeps.refl
    | with_reducible assumption
    | with_reducible apply State.setChan_keeps
    | intro _
    | split
    | dsimp -zeta only

theorem State.initPairs_keeps {st0 s n} (hk : Keeps st0 s) : Keeps st0 (State.initPairs s n) := by
  refine hk.trans ?_; clear hk
  unfold State.initPairs
  repeat' first
    | with_reducible apply Keeps.refl
    | with_reducible assumption
    | (extract_lets +onlyGivenNames a
       first
       | (refine Keeps.cut (m := a) ?_ ?_
          on_goal 2 => (clear_value a; intro _)
          on_goal 1 => (dsimp -zeta only [a]; clear a))
       | (refine Keeps.cut (m := a.2) ?_ ?_
          on_goal 2 => (clear_value a; intro _)
          on_goal 1 => (dsimp -zeta only [a]; clear a))
       | (refine Keeps.cut (m := a.1) ?_ ?_
          on_goal 2 => (clear_value a; intro _)
          on_goal 1 => (dsimp -zeta only [a]; clear a))
       | subst a)
    | with_reducible apply State.showPairs_keeps
    | with_reducible apply State.setChan_keeps
    | intro _
    | split
    | dsimp -zeta only

theorem State.loadChan_keeps {st0 s n} (hk : Keeps st0 s) : Keeps st0 (State.loadChan s n) := by
  refine hk.trans ?_; clear hk
  unfold State.loadChan
  repeat' first
    | with_reducible apply Keeps.refl
    | with_reducible assumption
    | (extract_lets +onlyGivenNames a
       first
       | (refine Keeps.cut (m := a) ?_ ?_
          on_goal 2 => (clear_value a; intro _)
          on_goal 1 => (dsimp -zeta only [a]; clear a))
       | (refine Keeps.cut (m := a.2) ?_ ?_
          on_goal 2 => (clear_value a; intro _)
          on_goal 1 => (dsimp -zeta only [a]; clear a))
       | (refine Keeps.cut (m := a.1) ?_ ?_
          on_goal 2 => (clear_value a; intro _)
          on_goal 1 => (dsimp -zeta only [a]; clear a))
       | subst a)
    | with_reducible apply State.setChan_keeps
    | with_reducible apply State.setLiveBit_keeps
    | with_reducible apply State.copyCfg_keeps
    | with_reducible apply State.dropWord_keeps
    | with_reducible apply State.initPairs_keeps
    | intro _
    | split
    | dsimp -zeta only

theorem State.retypeLoop_keeps {st0 s n was} (hk : Keeps st0 s) : Keeps st0 (State.retypeLoop s n was) := by
  refine hk.trans ?_; clear hk
  unfold State.retypeLoop
  repeat' first
    | with_reducible apply Keeps.refl
    | with_reducible assumption
    | (extract_lets +onlyGivenNames a
       first
       | (refine Keeps.cut (m := a) ?_ ?_
          on_goal 2 => (clear_value a; intro _)
          on_goal 1 => (dsimp -zeta only [a]; clear a))
       | (refine Keeps.cut (m := a.2) ?_ ?_
          on_goal 2 => (clear_value a; intro _)
          on_goal 1 => (dsimp -zeta only [a]; clear a))
       | (refine Keeps.cut (m := a.1) ?_ ?_
          on_goal 2 => (clear_value a; intro _)
          on_goal 1 => (dsimp -zeta only [a]; clear a))
       | subst a)
    | with_reducible apply State.closeLoop_keeps
    | with_reducible apply State.tapMoved_keeps
    | with_reducible apply State.setChan_keeps
    | with_reducible apply State.setAbit_keeps
    | intro _
    | split
    | dsimp -zeta only

theorem State.takeCfg_keeps {st0 s n} (hk : Keeps st0 s) : Keeps st0 (State.takeCfg s n) := by
  refine hk.trans ?_; clear hk
  unfold State.takeCfg
  repeat' first
    | with_reducible apply Keeps.refl
    | with_reducible assumption
    | (extract_lets +onlyGivenNames a
       first
       | (refine Keeps.cut (m := a) ?_ ?_
          on_goal 2 => (clear_value a; intro _)
          on_goal 1 => (dsimp -zeta only [a]; clear a))
       | (refine Keeps.cut (m := a.2) ?_ ?_
          on_goal 2 => (clear_value a; intro _)
          on_goal 1 => (dsimp -zeta only [a]; clear a))
       | (refine Keeps.cut (m := a.1) ?_ ?_
          on_goal 2 => (clear_value a; intro _)
          on_goal 1 => (dsimp -zeta only [a]; clear a))
       | subst a)
    | with_reducible apply State.copyCfg_keeps
    | with_reducible apply State.setChan_keeps
    | with_reducible apply State.setLive_keeps
    | with_reducible apply State.dropWord_keeps
    | with_reducible apply State.initPairs_keeps
    | with_reducible apply State.retypeLoop_keeps
    | intro _
    | split
    | dsimp -zeta only

theorem State.takeBxv_keeps {st0 s hw home} (hk : Keeps st0 s) : Keeps st0 (State.takeBxv s hw home) := by
  refine hk.trans ?_; clear hk
  unfold State.takeBxv
  repeat' first
    | with_reducible apply Keeps.refl
    | with_reducible assumption
    | (extract_lets +onlyGivenNames a
       first
       | (refine Keeps.cut (m := a) ?_ ?_
          on_goal 2 => (clear_value a; intro _)
          on_goal 1 => (dsimp -zeta only [a]; clear a))
       | (refine Keeps.cut (m := a.2) ?_ ?_
          on_goal 2 => (clear_value a; intro _)
          on_goal 1 => (dsimp -zeta only [a]; clear a))
       | (refine Keeps.cut (m := a.1) ?_ ?_
          on_goal 2 => (clear_value a; intro _)
          on_goal 1 => (dsimp -zeta only [a]; clear a))
       | subst a)
    | with_reducible apply State.setBank_keeps
    | with_reducible apply State.setFld_keeps
    | intro _
    | split
    | dsimp -zeta only

theorem State.afeEdit_keeps {st0 s a v} (hk : Keeps st0 s) : Keeps st0 (State.afeEdit s a v) := by
  refine hk.trans ?_; clear hk
  unfold State.afeEdit
  repeat' first
    | with_reducible apply Keeps.refl
    | with_reducible assumption
    | (extract_lets +onlyGivenNames a
       first
       | (refine Keeps.cut (m := a) ?_ ?_
          on_goal 2 => (clear_value a; intro _)
          on_goal 1 => (dsimp -zeta only [a]; clear a))
       | (refine Keeps.cut (m := a.2) ?_ ?_
          on_goal 2 => (clear_value a; intro _)
          on_goal 1 => (dsimp -zeta only [a]; clear a))
       | (refine Keeps.cut (m := a.1) ?_ ?_
          on_goal 2 => (clear_value a; intro _)
          on_goal 1 => (dsimp -zeta only [a]; clear a))
       | subst a)
    | with_reducible apply State.answer_keeps
    | with_reducible apply State.closedAnswer_keeps
    | with_reducible apply State.wr_keeps
    | with_reducible apply State.noteLk_keeps
    | with_reducible apply State.setFlag_keeps
    | ((with_reducible apply Keeps.of_snd); on_goal 1 => with_reducible assumption)
    | ((with_reducible apply Keeps.of_fst); on_goal 1 => with_reducible assumption)
    | intro _
    | split
    | dsimp -zeta only

theorem execAfeConfigEdit_keeps {_p addr val t s} : OutKeeps s (execAfeConfigEdit _p addr val t s) := by
  unfold execAfeConfigEdit
  repeat' first
    | with_reducible apply Keeps.refl
    | with_reducible assumption
    | with_reducible apply OutKeeps.refused
    | with_reducible apply OutKeeps.next
    | with_reducible apply State.afeEdit_keeps
    | with_reducible apply State.atTime_keeps
    | with_reducible apply OutKeeps.ite
    | intro _
    | split
    | dsimp -zeta only

end Sys2Proof.Machine
end

