-- ==== Sys2Proof/Laws/KeepsSampling.lean ====
section
/-! SUPPORT. Every operation of `Machine/Sampling.lean` keeps the queue and the canonical forms. -/

set_option linter.all false
set_option Elab.async false
set_option maxHeartbeats 60000

namespace Sys2Proof.Machine

theorem State.putHalf_keeps {st0 s n second h} (hk : Keeps st0 s) : Keeps st0 (State.putHalf s n second h) := by
  refine hk.trans ?_; clear hk
  unfold State.putHalf
  repeat' first
    | with_reducible apply Keeps.refl
    | with_reducible assumption
    | with_reducible apply State.showPairs_keeps
    | with_reducible apply State.setChan_keeps
    | intro _
    | split
    | dsimp -zeta only

theorem State.movePair_keeps {st0 s n second} (hk : Keeps st0 s) : Keeps st0 (State.movePair s n second) := by
  refine hk.trans ?_; clear hk
  unfold State.movePair
  repeat' first
    | with_reducible apply Keeps.refl
    | with_reducible assumption
    | (extract_lets +onlyGivenNames a
       first
       | (refine Keeps.cut (m := a) ?_ ?_
          on_goal 2 => (clear_value a; intro _)
          on_goal 1 => (dsimp -zeta only [a]; clear a))
       | (refine Keeps.cut (m := a.2) ?_ ?_
          on_goal 2 => (clear_value a; intro _)
          on_goal 1 => (dsimp -zeta only [a]; clear a))
       | (refine Keeps.cut (m := a.1) ?_ ?_
          on_goal 2 => (clear_value a; intro _)
          on_goal 1 => (dsimp -zeta only [a]; clear a))
       | subst a)
    | with_reducible apply State.addFld_keeps
    | with_reducible apply State.putHalf_keeps
    | intro _
    | split
    | dsimp -zeta only

theorem State.showRaw_keeps {st0 s q n r} (hk : Keeps st0 s) : Keeps st0 (State.showRaw s q n r) := by
  refine hk.trans ?_; clear hk
  unfold State.showRaw
  repeat' first
    | with_reducible apply Keeps.refl
    | with_reducible assumption
    | (extract_lets +onlyGivenNames a
       first
       | (refine Keeps.cut (m := a) ?_ ?_
          on_goal 2 => (clear_value a; intro _)
          on_goal 1 => (dsimp -zeta only [a]; clear a))
       | (refine Keeps.cut (m := a.2) ?_ ?_
          on_goal 2 => (clear_value a; intro _)
          on_goal 1 => (dsimp -zeta only [a]; clear a))
       | (refine Keeps.cut (m := a.1) ?_ ?_
          on_goal 2 => (clear_value a; intro _)
          on_goal 1 => (dsimp -zeta only [a]; clear a))
       | subst a)
    | with_reducible apply State.wr_keeps
    | with_reducible apply State.setFld_keeps
    | intro _
    | split
    | dsimp -zeta only

theorem State.moveNow_keeps {st0 s q n second} (hk : Keeps st0 s) : Keeps st0 (State.moveNow s q n second) := by
  refine hk.trans ?_; clear hk
  unfold State.moveNow
  repeat' first
    | with_reducible apply Keeps.refl
    | with_reducible assumption
    | (extract_lets +onlyGivenNames a
       first
       | (refine Keeps.cut (m := a) ?_ ?_
          on_goal 2 => (clear_value a; intro _)
          on_goal 1 => (dsimp -zeta only [a]; clear a))
       | (refine Keeps.cut (m := a.2) ?_ ?_
          on_goal 2 => (clear_value a; intro _)
          on_goal 1 => (dsimp -zeta only [a]; clear a))
       | (refine Keeps.cut (m := a.1) ?_ ?_
          on_goal 2 => (clear_value a; intro _)
          on_goal 1 => (dsimp -zeta only [a]; clear a))
       | subst a)
    | with_reducible apply State.setSeq_keeps
    | with_reducible apply State.movePair_keeps
    | intro _
    | split
    | dsimp -zeta only

theorem State.primaryQ_keeps {st0 s quot} (hk : Keeps st0 s) : Keeps st0 (State.primaryQ s quot).2 := by
  refine hk.trans ?_; clear hk
  unfold State.primaryQ
  repeat' first
    | with_reducible apply Keeps.refl
    | with_reducible assumption
    | (extract_lets +onlyGivenNames a
       first
       | (refine Keeps.cut (m := a) ?_ ?_
          on_goal 2 => (clear_value a; intro _)
          on_goal 1 => (dsimp -zeta only [a]; clear a))
       | (refine Keeps.cut (m := a.2) ?_ ?_
          on_goal 2 => (clear_value a; intro _)
          on_goal 1 => (dsimp -zeta only [a]; clear a))
       | (refine Keeps.cut (m := a.1) ?_ ?_
          on_goal 2 => (clear_value a; intro _)
          on_goal 1 => (dsimp -zeta only [a]; clear a))
       | subst a)
    | with_reducible apply State.freshQ_keeps
    | ((with_reducible apply Keeps.of_snd); on_goal 1 => with_reducible assumption)
    | ((with_reducible apply Keeps.of_fst); on_goal 1 => with_reducible assumption)
    | intro _
    | split
    | dsimp -zeta only

theorem State.suspect_keeps {st0 s b} (hk : Keeps st0 s) : Keeps st0 (State.suspect s b) := by
  refine hk.trans ?_; clear hk
  unfold State.suspect
  repeat' first
    | with_reducible apply Keeps.refl
    | with_reducible assumption
    | (extract_lets +onlyGivenNames a
       first
       | (refine Keeps.cut (m := a) ?_ ?_
          on_goal 2 => (clear_value a; intro _)
          on_goal 1 => (dsimp -zeta only [a]; clear a))
       | (refine Keeps.cut (m := a.2) ?_ ?_
          on_goal 2 => (clear_value a; intro _)
          on_goal 1 => (dsimp -zeta only [a]; clear a))
       | (refine Keeps.cut (m := a.1) ?_ ?_
          on_goal 2 => (clear_value a; intro _)
          on_goal 1 => (dsimp -zeta only [a]; clear a))
       | subst a)
    | with_reducible apply State.raise_keeps
    | with_reducible apply State.setRotating_keeps
    | with_reducible apply State.setBank_keeps
    | intro _
    | split
    | dsimp -zeta only

theorem State.countDis_keeps {st0 s b dis} (hk : Keeps st0 s) : Keeps st0 (State.countDis s b dis) := by
  refine hk.trans ?_; clear hk
  unfold State.countDis
  repeat' first
    | with_reducible apply Keeps.refl
    | with_reducible assumption
    | (extract_lets +onlyGivenNames a
       first
       | (refine Keeps.cut (m := a) ?_ ?_
          on_goal 2 => (clear_value a; intro _)
          on_goal 1 => (dsimp -zeta only [a]; clear a))
       | (refine Keeps.cut (m := a.2) ?_ ?_
          on_goal 2 => (clear_value a; intro _)
          on_goal 1 => (dsimp -zeta only [a]; clear a))
       | (refine Keeps.cut (m := a.1) ?_ ?_
          on_goal 2 => (clear_value a; intro _)
          on_goal 1 => (dsimp -zeta only [a]; clear a))
       | subst a)
    | with_reducible apply State.setBank_keeps
    | with_reducible apply State.suspect_keeps
    | intro _
    | split
    | dsimp -zeta only

theorem State.deliver_keeps {st0 s hw n a b r raw three} (hk : Keeps st0 s) : Keeps st0 (State.deliver s hw n a b r raw three) := by
  refine hk.trans ?_; clear hk
  unfold State.deliver
  repeat' first
    | with_reducible apply Keeps.refl
    | with_reducible assumption
    | (extract_lets +onlyGivenNames a
       first
       | (refine Keeps.cut (m := a) ?_ ?_
          on_goal 2 => (clear_value a; intro _)
          on_goal 1 => (dsimp -zeta only [a]; clear a))
       | (refine Keeps.cut (m := a.2) ?_ ?_
          on_goal 2 => (clear_value a; intro _)
          on_goal 1 => (dsimp -zeta only [a]; clear a))
       | (refine Keeps.cut (m := a.1) ?_ ?_
          on_goal 2 => (clear_value a; intro _)
          on_goal 1 => (dsimp -zeta only [a]; clear a))
       | subst a)
    | with_reducible apply State.primaryQ_keeps
    | with_reducible apply State.setChan_keeps
    | with_reducible apply State.setLive_keeps
    | with_reducible apply State.wr_keeps
    | with_reducible apply State.addFld_keeps
    | with_reducible apply State.sendWord_keeps
    | with_reducible apply State.countDis_keeps
    | ((with_reducible apply Keeps.of_snd); on_goal 1 => with_reducible assumption)
    | ((with_reducible apply Keeps.of_fst); on_goal 1 => with_reducible assumption)
    | intro _
    | split
    | dsimp -zeta only

end Sys2Proof.Machine
end

