-- ==== Sys2Proof/Laws/KeepsCalendar.lean ====
section
/-! SUPPORT. Every operation of `Machine/Calendar.lean` keeps the queue and the canonical forms. -/

set_option linter.all false
set_option Elab.async false
set_option maxHeartbeats 60000

namespace Sys2Proof.Machine

theorem State.putCal_keeps {st0 s n} (hk : Keeps st0 s) : Keeps st0 (State.putCal s n) := by
  refine hk.trans ?_; clear hk
  unfold State.putCal
  repeat' first
    | with_reducible apply Keeps.refl
    | with_reducible assumption
    | (extract_lets +onlyGivenNames a
       first
       | (refine Keeps.cut (m := a) ?_ ?_
          on_goal 2 => (clear_value a; intro _)
          on_goal 1 => (dsimp -zeta only [a]; clear a))
       | (refine Keeps.cut (m := a.2) ?_ ?_
          on_goal 2 => (clear_value a; intro _)
          on_goal 1 => (dsimp -zeta only [a]; clear a))
       | (refine Keeps.cut (m := a.1) ?_ ?_
          on_goal 2 => (clear_value a; intro _)
          on_goal 1 => (dsimp -zeta only [a]; clear a))
       | subst a)
    | with_reducible apply State.wrAll_keeps
    | intro _
    | split
    | dsimp -zeta only

theorem State.putSub_keeps {st0 s k} (hk : Keeps st0 s) : Keeps st0 (State.putSub s k) := by
  refine hk.trans ?_; clear hk
  unfold State.putSub
  repeat' first
    | with_reducible apply Keeps.refl
    | with_reducible assumption
    | with_reducible apply State.setRtc_keeps
    | intro _
    | split
    | dsimp -zeta only

theorem State.raiseAon_keeps {st0 s code source data} (hk : Keeps st0 s) : Keeps st0 (State.raiseAon s code source data) := by
  refine hk.trans ?_; clear hk
  unfold State.raiseAon
  repeat' first
    | with_reducible apply Keeps.refl
    | with_reducible assumption
    | with_reducible apply State.raise_keeps
    | with_reducible apply State.setRtc_keeps
    | intro _
    | split
    | dsimp -zeta only

theorem State.putTrust_keeps {st0 s} (hk : Keeps st0 s) : Keeps st0 (State.putTrust s) := by
  refine hk.trans ?_; clear hk
  unfold State.putTrust
  repeat' first
    | with_reducible apply Keeps.refl
    | with_reducible assumption
    | with_reducible apply State.setFld_keeps
    | intro _
    | split
    | dsimp -zeta only

theorem State.setOsf_keeps {st0 s cause} (hk : Keeps st0 s) : Keeps st0 (State.setOsf s cause) := by
  refine hk.trans ?_; clear hk
  unfold State.setOsf
  repeat' first
    | with_reducible apply Keeps.refl
    | with_reducible assumption
    | (extract_lets +onlyGivenNames a
       first
       | (refine Keeps.cut (m := a) ?_ ?_
          on_goal 2 => (clear_value a; intro _)
          on_goal 1 => (dsimp -zeta only [a]; clear a))
       | (refine Keeps.cut (m := a.2) ?_ ?_
          on_goal 2 => (clear_value a; intro _)
          on_goal 1 => (dsimp -zeta only [a]; clear a))
       | (refine Keeps.cut (m := a.1) ?_ ?_
          on_goal 2 => (clear_value a; intro _)
          on_goal 1 => (dsimp -zeta only [a]; clear a))
       | subst a)
    | with_reducible apply State.putTrust_keeps
    | with_reducible apply State.setFlag_keeps
    | with_reducible apply State.raiseAon_keeps
    | intro _
    | split
    | dsimp -zeta only

theorem execPd0PowerUp_keeps {t s} : OutKeeps s (execPd0PowerUp t s) := by
  unfold execPd0PowerUp
  repeat' first
    | with_reducible apply Keeps.refl
    | with_reducible assumption
    | (extract_lets +onlyGivenNames a
       first
       | (refine Keeps.cut (m := a) ?_ ?_
          on_goal 2 => (clear_value a; intro _)
          on_goal 1 => (dsimp -zeta only [a]; clear a))
       | (refine Keeps.cut (m := a.2) ?_ ?_
          on_goal 2 => (clear_value a; intro _)
          on_goal 1 => (dsimp -zeta only [a]; clear a))
       | (refine Keeps.cut (m := a.1) ?_ ?_
          on_goal 2 => (clear_value a; intro _)
          on_goal 1 => (dsimp -zeta only [a]; clear a))
       | subst a)
    | with_reducible apply OutKeeps.refused
    | with_reducible apply OutKeeps.next
    | with_reducible apply State.atTime_keeps
    | with_reducible apply State.resetRegs_keeps
    | with_reducible apply State.setRtc_keeps
    | with_reducible apply State.setFlag_keeps
    | with_reducible apply State.putSub_keeps
    | with_reducible apply State.putCal_keeps
    | with_reducible apply State.wr_keeps
    | with_reducible apply State.setOsf_keeps
    | with_reducible apply OutKeeps.ite
    | intro _
    | split
    | dsimp -zeta only

theorem State.clearWatermark_keeps {st0 s} (hk : Keeps st0 s) : Keeps st0 (State.clearWatermark s) := by
  refine hk.trans ?_; clear hk
  unfold State.clearWatermark
  repeat' first
    | with_reducible apply Keeps.refl
    | with_reducible assumption
    | with_reducible apply State.setFlag_keeps
    | with_reducible apply State.wrAll_keeps
    | ((with_reducible apply Keeps.of_snd); on_goal 1 => with_reducible assumption)
    | ((with_reducible apply Keeps.of_fst); on_goal 1 => with_reducible assumption)
    | intro _
    | split
    | dsimp -zeta only

theorem State.raiseWatermark_keeps {st0 s old} (hk : Keeps st0 s) : Keeps st0 (State.raiseWatermark s old) := by
  refine hk.trans ?_; clear hk
  unfold State.raiseWatermark
  repeat' first
    | with_reducible apply Keeps.refl
    | with_reducible assumption
    | (extract_lets +onlyGivenNames a
       first
       | (refine Keeps.cut (m := a) ?_ ?_
          on_goal 2 => (clear_value a; intro _)
          on_goal 1 => (dsimp -zeta only [a]; clear a))
       | (refine Keeps.cut (m := a.2) ?_ ?_
          on_goal 2 => (clear_value a; intro _)
          on_goal 1 => (dsimp -zeta only [a]; clear a))
       | (refine Keeps.cut (m := a.1) ?_ ?_
          on_goal 2 => (clear_value a; intro _)
          on_goal 1 => (dsimp -zeta only [a]; clear a))
       | subst a)
    | with_reducible apply State.setFlag_keeps
    | with_reducible apply State.wrAll_keeps
    | intro _
    | split
    | dsimp -zeta only

theorem State.wrapSub_keeps {st0 s} (hk : Keeps st0 s) : Keeps st0 (State.wrapSub s) := by
  refine hk.trans ?_; clear hk
  unfold State.wrapSub
  repeat' first
    | with_reducible apply Keeps.refl
    | with_reducible assumption
    | (extract_lets +onlyGivenNames a
       first
       | (refine Keeps.cut (m := a) ?_ ?_
          on_goal 2 => (clear_value a; intro _)
          on_goal 1 => (dsimp -zeta only [a]; clear a))
       | (refine Keeps.cut (m := a.2) ?_ ?_
          on_goal 2 => (clear_value a; intro _)
          on_goal 1 => (dsimp -zeta only [a]; clear a))
       | (refine Keeps.cut (m := a.1) ?_ ?_
          on_goal 2 => (clear_value a; intro _)
          on_goal 1 => (dsimp -zeta only [a]; clear a))
       | subst a)
    | with_reducible apply State.setRtc_keeps
    | intro _
    | split
    | dsimp -zeta only

theorem State.carrySecond_keeps {st0 s} (hk : Keeps st0 s) : Keeps st0 (State.carrySecond s) := by
  refine hk.trans ?_; clear hk
  unfold State.carrySecond
  repeat' first
    | with_reducible apply Keeps.refl
    | with_reducible assumption
    | (extract_lets +onlyGivenNames a
       first
       | (refine Keeps.cut (m := a) ?_ ?_
          on_goal 2 => (clear_value a; intro _)
          on_goal 1 => (dsimp -zeta only [a]; clear a))
       | (refine Keeps.cut (m := a.2) ?_ ?_
          on_goal 2 => (clear_value a; intro _)
          on_goal 1 => (dsimp -zeta only [a]; clear a))
       | (refine Keeps.cut (m := a.1) ?_ ?_
          on_goal 2 => (clear_value a; intro _)
          on_goal 1 => (dsimp -zeta only [a]; clear a))
       | subst a)
    | with_reducible apply State.wrapSub_keeps
    | with_reducible apply State.putCal_keeps
    | with_reducible apply State.raiseAon_keeps
    | with_reducible apply State.setOsf_keeps
    | intro _
    | split
    | dsimp -zeta only

theorem State.countMeasure_keeps {st0 s} (hk : Keeps st0 s) : Keeps st0 (State.countMeasure s) := by
  refine hk.trans ?_; clear hk
  unfold State.countMeasure
  repeat' first
    | with_reducible apply Keeps.refl
    | with_reducible assumption
    | with_reducible apply State.addFld_keeps
    | intro _
    | split
    | dsimp -zeta only

theorem State.calSecond_keeps {st0 s} (hk : Keeps st0 s) : Keeps st0 (State.calSecond s) := by
  refine hk.trans ?_; clear hk
  unfold State.calSecond
  repeat' first
    | with_reducible apply Keeps.refl
    | with_reducible assumption
    | (extract_lets +onlyGivenNames a
       first
       | (refine Keeps.cut (m := a) ?_ ?_
          on_goal 2 => (clear_value a; intro _)
          on_goal 1 => (dsimp -zeta only [a]; clear a))
       | (refine Keeps.cut (m := a.2) ?_ ?_
          on_goal 2 => (clear_value a; intro _)
          on_goal 1 => (dsimp -zeta only [a]; clear a))
       | (refine Keeps.cut (m := a.1) ?_ ?_
          on_goal 2 => (clear_value a; intro _)
          on_goal 1 => (dsimp -zeta only [a]; clear a))
       | subst a)
    | with_reducible apply State.carrySecond_keeps
    | with_reducible apply State.setRtc_keeps
    | with_reducible apply State.clearWatermark_keeps
    | with_reducible apply State.countMeasure_keeps
    | ((with_reducible apply Keeps.of_snd); on_goal 1 => with_reducible assumption)
    | ((with_reducible apply Keeps.of_fst); on_goal 1 => with_reducible assumption)
    | intro _
    | split
    | dsimp -zeta only

theorem execCalendarSecond_keeps {t s} : OutKeeps s (execCalendarSecond t s) := by
  unfold execCalendarSecond
  repeat' first
    | with_reducible apply Keeps.refl
    | with_reducible assumption
    | (extract_lets +onlyGivenNames a
       first
       | (refine Keeps.cut (m := a) ?_ ?_
          on_goal 2 => (clear_value a; intro _)
          on_goal 1 => (dsimp -zeta only [a]; clear a))
       | (refine Keeps.cut (m := a.2) ?_ ?_
          on_goal 2 => (clear_value a; intro _)
          on_goal 1 => (dsimp -zeta only [a]; clear a))
       | (refine Keeps.cut (m := a.1) ?_ ?_
          on_goal 2 => (clear_value a; intro _)
          on_goal 1 => (dsimp -zeta only [a]; clear a))
       | subst a)
    | with_reducible apply OutKeeps.refused
    | with_reducible apply OutKeeps.next
    | with_reducible apply State.atTime_keeps
    | with_reducible apply State.calSecond_keeps
    | with_reducible apply OutKeeps.ite
    | intro _
    | split
    | dsimp -zeta only

theorem State.setShadow_keeps {st0 s i x} (hk : Keeps st0 s) : Keeps st0 (State.setShadow s i x) := by
  refine hk.trans ?_; clear hk
  unfold State.setShadow
  repeat' first
    | with_reducible apply Keeps.refl
    | with_reducible assumption
    | with_reducible apply State.setRtc_keeps
    | intro _
    | split
    | dsimp -zeta only

theorem State.freezeCal_keeps {st0 s p} (hk : Keeps st0 s) : Keeps st0 (State.freezeCal s p) := by
  refine hk.trans ?_; clear hk
  unfold State.freezeCal
  repeat' first
    | with_reducible apply Keeps.refl
    | with_reducible assumption
    | with_reducible apply State.setShadow_keeps
    | intro _
    | split
    | dsimp -zeta only

theorem State.releaseCal_keeps {st0 s p} (hk : Keeps st0 s) : Keeps st0 (State.releaseCal s p) := by
  refine hk.trans ?_; clear hk
  unfold State.releaseCal
  repeat' first
    | with_reducible apply Keeps.refl
    | with_reducible assumption
    | with_reducible apply State.setShadow_keeps
    | intro _
    | split
    | dsimp -zeta only

theorem execRtcSecRead_keeps {p t s} : OutKeeps s (execRtcSecRead p t s) := by
  unfold execRtcSecRead
  repeat' first
    | with_reducible apply Keeps.refl
    | with_reducible assumption
    | with_reducible apply OutKeeps.refused
    | with_reducible apply OutKeeps.next
    | with_reducible apply State.freezeCal_keeps
    | with_reducible apply State.atTime_keeps
    | with_reducible apply OutKeeps.ite
    | intro _
    | split
    | dsimp -zeta only

theorem execRtcCentRead_keeps {p s} : OutKeeps s (execRtcCentRead p s) := by
  unfold execRtcCentRead
  repeat' first
    | with_reducible apply Keeps.refl
    | with_reducible assumption
    | with_reducible apply OutKeeps.refused
    | with_reducible apply OutKeeps.next
    | with_reducible apply State.releaseCal_keeps
    | with_reducible apply OutKeeps.ite
    | intro _
    | split
    | dsimp -zeta only

theorem execRtcShadowTimeout_keeps {p s} : OutKeeps s (execRtcShadowTimeout p s) := by
  unfold execRtcShadowTimeout
  repeat' first
    | with_reducible apply Keeps.refl
    | with_reducible assumption
    | with_reducible apply OutKeeps.refused
    | with_reducible apply OutKeeps.next
    | with_reducible apply State.releaseCal_keeps
    | with_reducible apply State.atTime_keeps
    | ((with_reducible apply Keeps.of_snd); on_goal 1 => with_reducible assumption)
    | ((with_reducible apply Keeps.of_fst); on_goal 1 => with_reducible assumption)
    | with_reducible apply OutKeeps.ite
    | intro _
    | split
    | dsimp -zeta only

theorem State.commandSet_keeps {st0 s mode} (hk : Keeps st0 s) : Keeps st0 (State.commandSet s mode) := by
  refine hk.trans ?_; clear hk
  unfold State.commandSet
  repeat' first
    | with_reducible apply Keeps.refl
    | with_reducible assumption
    | with_reducible apply State.answer_keeps
    | with_reducible apply State.setFlag_keeps
    | with_reducible apply State.setRtc_keeps
    | ((with_reducible apply Keeps.of_snd); on_goal 1 => with_reducible assumption)
    | ((with_reducible apply Keeps.of_fst); on_goal 1 => with_reducible assumption)
    | intro _
    | split
    | dsimp -zeta only

theorem execRtcSetAtSecond_keeps {_p s} : OutKeeps s (execRtcSetAtSecond _p s) := by
  unfold execRtcSetAtSecond
  repeat' first
    | with_reducible apply Keeps.refl
    | with_reducible assumption
    | with_reducible apply OutKeeps.refused
    | with_reducible apply OutKeeps.next
    | with_reducible apply State.commandSet_keeps
    | with_reducible apply OutKeeps.ite
    | intro _
    | split
    | dsimp -zeta only

theorem execRtcSetImmediate_keeps {_p s} : OutKeeps s (execRtcSetImmediate _p s) := by
  unfold execRtcSetImmediate
  repeat' first
    | with_reducible apply Keeps.refl
    | with_reducible assumption
    | with_reducible apply OutKeeps.refused
    | with_reducible apply OutKeeps.next
    | with_reducible apply State.commandSet_keeps
    | with_reducible apply OutKeeps.ite
    | intro _
    | split
    | dsimp -zeta only

theorem State.commandShift_keeps {st0 s neg count} (hk : Keeps st0 s) : Keeps st0 (State.commandShift s neg count) := by
  refine hk.trans ?_; clear hk
  unfold State.commandShift
  repeat' first
    | with_reducible apply Keeps.refl
    | with_reducible assumption
    | with_reducible apply State.answer_keeps
    | with_reducible apply State.setFlag_keeps
    | with_reducible apply State.setRtc_keeps
    | intro _
    | split
    | dsimp -zeta only

theorem execRtcShift_keeps {_p neg count s} : OutKeeps s (execRtcShift _p neg count s) := by
  unfold execRtcShift
  repeat' first
    | with_reducible apply Keeps.refl
    | with_reducible assumption
    | with_reducible apply OutKeeps.refused
    | with_reducible apply OutKeeps.next
    | with_reducible apply State.commandShift_keeps
    | with_reducible apply OutKeeps.ite
    | intro _
    | split
    | dsimp -zeta only

theorem State.commandDst_keeps {st0 s forward} (hk : Keeps st0 s) : Keeps st0 (State.commandDst s forward) := by
  refine hk.trans ?_; clear hk
  unfold State.commandDst
  repeat' first
    | with_reducible apply Keeps.refl
    | with_reducible assumption
    | with_reducible apply State.answer_keeps
    | with_reducible apply State.setFlag_keeps
    | with_reducible apply State.setRtc_keeps
    | intro _
    | split
    | dsimp -zeta only

theorem execDstForward_keeps {_p s} : OutKeeps s (execDstForward _p s) := by
  unfold execDstForward
  repeat' first
    | with_reducible apply Keeps.refl
    | with_reducible assumption
    | with_reducible apply OutKeeps.refused
    | with_reducible apply OutKeeps.next
    | with_reducible apply State.commandDst_keeps
    | with_reducible apply OutKeeps.ite
    | intro _
    | split
    | dsimp -zeta only

theorem execDstBack_keeps {_p s} : OutKeeps s (execDstBack _p s) := by
  unfold execDstBack
  repeat' first
    | with_reducible apply Keeps.refl
    | with_reducible assumption
    | with_reducible apply OutKeeps.refused
    | with_reducible apply OutKeeps.next
    | with_reducible apply State.commandDst_keeps
    | with_reducible apply OutKeeps.ite
    | intro _
    | split
    | dsimp -zeta only

theorem State.adjust_keeps {st0 s n sub src} (hk : Keeps st0 s) : Keeps st0 (State.adjust s n sub src) := by
  refine hk.trans ?_; clear hk
  unfold State.adjust
  repeat' first
    | with_reducible apply Keeps.refl
    | with_reducible assumption
    | (extract_lets +onlyGivenNames a
       first
       | (refine Keeps.cut (m := a) ?_ ?_
          on_goal 2 => (clear_value a; intro _)
          on_goal 1 => (dsimp -zeta only [a]; clear a))
       | (refine Keeps.cut (m := a.2) ?_ ?_
          on_goal 2 => (clear_value a; intro _)
          on_goal 1 => (dsimp -zeta only [a]; clear a))
       | (refine Keeps.cut (m := a.1) ?_ ?_
          on_goal 2 => (clear_value a; intro _)
          on_goal 1 => (dsimp -zeta only [a]; clear a))
       | subst a)
    | with_reducible apply State.putSub_keeps
    | with_reducible apply State.putCal_keeps
    | with_reducible apply State.raiseWatermark_keeps
    | with_reducible apply State.raiseAon_keeps
    | intro _
    | split
    | dsimp -zeta only

theorem State.applySet_keeps {st0 s mode} (hk : Keeps st0 s) : Keeps st0 (State.applySet s mode) := by
  refine hk.trans ?_; clear hk
  unfold State.applySet
  repeat' first
    | with_reducible apply Keeps.refl
    | with_reducible assumption
    | (extract_lets +onlyGivenNames a
       first
       | (refine Keeps.cut (m := a) ?_ ?_
          on_goal 2 => (clear_value a; intro _)
          on_goal 1 => (dsimp -zeta only [a]; clear a))
       | (refine Keeps.cut (m := a.2) ?_ ?_
          on_goal 2 => (clear_value a; intro _)
          on_goal 1 => (dsimp -zeta only [a]; clear a))
       | (refine Keeps.cut (m := a.1) ?_ ?_
          on_goal 2 => (clear_value a; intro _)
          on_goal 1 => (dsimp -zeta only [a]; clear a))
       | subst a)
    | with_reducible apply State.adjust_keeps
    | with_reducible apply State.setRtc_keeps
    | with_reducible apply State.setFlag_keeps
    | with_reducible apply State.putTrust_keeps
    | ((with_reducible apply Keeps.of_snd); on_goal 1 => with_reducible assumption)
    | ((with_reducible apply Keeps.of_fst); on_goal 1 => with_reducible assumption)
    | intro _
    | split
    | dsimp -zeta only

theorem State.applyDst_keeps {st0 s forward} (hk : Keeps st0 s) : Keeps st0 (State.applyDst s forward) := by
  refine hk.trans ?_; clear hk
  unfold State.applyDst
  repeat' first
    | with_reducible apply Keeps.refl
    | with_reducible assumption
    | (extract_lets +onlyGivenNames a
       first
       | (refine Keeps.cut (m := a) ?_ ?_
          on_goal 2 => (clear_value a; intro _)
          on_goal 1 => (dsimp -zeta only [a]; clear a))
       | (refine Keeps.cut (m := a.2) ?_ ?_
          on_goal 2 => (clear_value a; intro _)
          on_goal 1 => (dsimp -zeta only [a]; clear a))
       | (refine Keeps.cut (m := a.1) ?_ ?_
          on_goal 2 => (clear_value a; intro _)
          on_goal 1 => (dsimp -zeta only [a]; clear a))
       | subst a)
    | with_reducible apply State.adjust_keeps
    | with_reducible apply State.setRtc_keeps
    | with_reducible apply State.setFlag_keeps
    | intro _
    | split
    | dsimp -zeta only

theorem State.applyShift_keeps {st0 s neg count} (hk : Keeps st0 s) : Keeps st0 (State.applyShift s neg count) := by
  refine hk.trans ?_; clear hk
  unfold State.applyShift
  repeat' first
    | with_reducible apply Keeps.refl
    | with_reducible assumption
    | (extract_lets +onlyGivenNames a
       first
       | (refine Keeps.cut (m := a) ?_ ?_
          on_goal 2 => (clear_value a; intro _)
          on_goal 1 => (dsimp -zeta only [a]; clear a))
       | (refine Keeps.cut (m := a.2) ?_ ?_
          on_goal 2 => (clear_value a; intro _)
          on_goal 1 => (dsimp -zeta only [a]; clear a))
       | (refine Keeps.cut (m := a.1) ?_ ?_
          on_goal 2 => (clear_value a; intro _)
          on_goal 1 => (dsimp -zeta only [a]; clear a))
       | subst a)
    | with_reducible apply State.adjust_keeps
    | with_reducible apply State.setFlag_keeps
    | with_reducible apply State.setRtc_keeps
    | intro _
    | split
    | dsimp -zeta only

theorem State.applyAdjust_keeps {st0 s} (hk : Keeps st0 s) : Keeps st0 (State.applyAdjust s) := by
  refine hk.trans ?_; clear hk
  unfold State.applyAdjust
  repeat' first
    | with_reducible apply Keeps.refl
    | with_reducible assumption
    | (extract_lets +onlyGivenNames a
       first
       | (refine Keeps.cut (m := a) ?_ ?_
          on_goal 2 => (clear_value a; intro _)
          on_goal 1 => (dsimp -zeta only [a]; clear a))
       | (refine Keeps.cut (m := a.2) ?_ ?_
          on_goal 2 => (clear_value a; intro _)
          on_goal 1 => (dsimp -zeta only [a]; clear a))
       | (refine Keeps.cut (m := a.1) ?_ ?_
          on_goal 2 => (clear_value a; intro _)
          on_goal 1 => (dsimp -zeta only [a]; clear a))
       | subst a)
    | with_reducible apply State.applySet_keeps
    | with_reducible apply State.applyDst_keeps
    | with_reducible apply State.applyShift_keeps
    | with_reducible apply State.clearWatermark_keeps
    | ((with_reducible apply Keeps.of_snd); on_goal 1 => with_reducible assumption)
    | ((with_reducible apply Keeps.of_fst); on_goal 1 => with_reducible assumption)
    | intro _
    | split
    | dsimp -zeta only

theorem execRtcAdjustApply_keeps {t s} : OutKeeps s (execRtcAdjustApply t s) := by
  unfold execRtcAdjustApply
  repeat' first
    | with_reducible apply Keeps.refl
    | with_reducible assumption
    | with_reducible apply OutKeeps.refused
    | with_reducible apply OutKeeps.next
    | with_reducible apply State.applyAdjust_keeps
    | with_reducible apply State.atTime_keeps
    | with_reducible apply OutKeeps.ite
    | intro _
    | split
    | dsimp -zeta only

theorem State.accumulate_keeps {st0 s} (hk : Keeps st0 s) : Keeps st0 (State.accumulate s) := by
  refine hk.trans ?_; clear hk
  unfold State.accumulate
  repeat' first
    | with_reducible apply Keeps.refl
    | with_reducible assumption
    | (extract_lets +onlyGivenNames a
       first
       | (refine Keeps.cut (m := a) ?_ ?_
          on_goal 2 => (clear_value a; intro _)
          on_goal 1 => (dsimp -zeta only [a]; clear a))
       | (refine Keeps.cut (m := a.2) ?_ ?_
          on_goal 2 => (clear_value a; intro _)
          on_goal 1 => (dsimp -zeta only [a]; clear a))
       | (refine Keeps.cut (m := a.1) ?_ ?_
          on_goal 2 => (clear_value a; intro _)
          on_goal 1 => (dsimp -zeta only [a]; clear a))
       | subst a)
    | with_reducible apply State.setRtc_keeps
    | intro _
    | split
    | dsimp -zeta only

theorem execTrimAccumulate_keeps {s} : OutKeeps s (execTrimAccumulate s) := by
  unfold execTrimAccumulate
  repeat' first
    | with_reducible apply Keeps.refl
    | with_reducible assumption
    | with_reducible apply OutKeeps.refused
    | with_reducible apply OutKeeps.next
    | with_reducible apply State.accumulate_keeps
    | with_reducible apply OutKeeps.ite
    | intro _
    | split
    | dsimp -zeta only

theorem State.putTrim_keeps {st0 s v} (hk : Keeps st0 s) : Keeps st0 (State.putTrim s v) := by
  refine hk.trans ?_; clear hk
  unfold State.putTrim
  repeat' first
    | with_reducible apply Keeps.refl
    | with_reducible assumption
    | (extract_lets +onlyGivenNames a
       first
       | (refine Keeps.cut (m := a) ?_ ?_
          on_goal 2 => (clear_value a; intro _)
          on_goal 1 => (dsimp -zeta only [a]; clear a))
       | (refine Keeps.cut (m := a.2) ?_ ?_
          on_goal 2 => (clear_value a; intro _)
          on_goal 1 => (dsimp -zeta only [a]; clear a))
       | (refine Keeps.cut (m := a.1) ?_ ?_
          on_goal 2 => (clear_value a; intro _)
          on_goal 1 => (dsimp -zeta only [a]; clear a))
       | subst a)
    | with_reducible apply State.setSfld_keeps
    | with_reducible apply State.setRtc_keeps
    | intro _
    | split
    | dsimp -zeta only

theorem State.endMeasure_keeps {st0 s res e} (hk : Keeps st0 s) : Keeps st0 (State.endMeasure s res e) := by
  refine hk.trans ?_; clear hk
  unfold State.endMeasure
  repeat' first
    | with_reducible apply Keeps.refl
    | with_reducible assumption
    | (extract_lets +onlyGivenNames a
       first
       | (refine Keeps.cut (m := a) ?_ ?_
          on_goal 2 => (clear_value a; intro _)
          on_goal 1 => (dsimp -zeta only [a]; clear a))
       | (refine Keeps.cut (m := a.2) ?_ ?_
          on_goal 2 => (clear_value a; intro _)
          on_goal 1 => (dsimp -zeta only [a]; clear a))
       | (refine Keeps.cut (m := a.1) ?_ ?_
          on_goal 2 => (clear_value a; intro _)
          on_goal 1 => (dsimp -zeta only [a]; clear a))
       | subst a)
    | with_reducible apply State.setRtc_keeps
    | with_reducible apply State.setFld_keeps
    | with_reducible apply State.setFlag_keeps
    | with_reducible apply State.raiseAon_keeps
    | intro _
    | split
    | dsimp -zeta only

theorem State.cutMeasure_keeps {st0 s res} (hk : Keeps st0 s) : Keeps st0 (State.cutMeasure s res) := by
  refine hk.trans ?_; clear hk
  unfold State.cutMeasure
  repeat' first
    | with_reducible apply Keeps.refl
    | with_reducible assumption
    | with_reducible apply State.endMeasure_keeps
    | with_reducible apply State.freshWord_keeps
    | intro _
    | split
    | dsimp -zeta only

theorem State.writeTrim_keeps {st0 s v} (hk : Keeps st0 s) : Keeps st0 (State.writeTrim s v) := by
  refine hk.trans ?_; clear hk
  unfold State.writeTrim
  repeat' first
    | with_reducible apply Keeps.refl
    | with_reducible assumption
    | (extract_lets +onlyGivenNames a
       first
       | (refine Keeps.cut (m := a) ?_ ?_
          on_goal 2 => (clear_value a; intro _)
          on_goal 1 => (dsimp -zeta only [a]; clear a))
       | (refine Keeps.cut (m := a.2) ?_ ?_
          on_goal 2 => (clear_value a; intro _)
          on_goal 1 => (dsimp -zeta only [a]; clear a))
       | (refine Keeps.cut (m := a.1) ?_ ?_
          on_goal 2 => (clear_value a; intro _)
          on_goal 1 => (dsimp -zeta only [a]; clear a))
       | subst a)
    | with_reducible apply State.closedAnswer_keeps
    | with_reducible apply State.answer_keeps
    | with_reducible apply State.raiseAon_keeps
    | with_reducible apply State.putTrim_keeps
    | with_reducible apply State.noteLk_keeps
    | with_reducible apply State.cutMeasure_keeps
    | intro _
    | split
    | dsimp -zeta only

theorem execRtcTrimWrite_keeps {_p v t s} : OutKeeps s (execRtcTrimWrite _p v t s) := by
  unfold execRtcTrimWrite
  repeat' first
    | with_reducible apply Keeps.refl
    | with_reducible assumption
    | with_reducible apply OutKeeps.refused
    | with_reducible apply OutKeeps.next
    | with_reducible apply State.writeTrim_keeps
    | with_reducible apply State.atTime_keeps
    | with_reducible apply OutKeeps.ite
    | intro _
    | split
    | dsimp -zeta only

theorem State.startMeasure_keeps {st0 s host} (hk : Keeps st0 s) : Keeps st0 (State.startMeasure s host) := by
  refine hk.trans ?_; clear hk
  unfold State.startMeasure
  repeat' first
    | with_reducible apply Keeps.refl
    | with_reducible assumption
    | (extract_lets +onlyGivenNames a
       first
       | (refine Keeps.cut (m := a) ?_ ?_
          on_goal 2 => (clear_value a; intro _)
          on_goal 1 => (dsimp -zeta only [a]; clear a))
       | (refine Keeps.cut (m := a.2) ?_ ?_
          on_goal 2 => (clear_value a; intro _)
          on_goal 1 => (dsimp -zeta only [a]; clear a))
       | (refine Keeps.cut (m := a.1) ?_ ?_
          on_goal 2 => (clear_value a; intro _)
          on_goal 1 => (dsimp -zeta only [a]; clear a))
       | subst a)
    | with_reducible apply State.answer_keeps
    | with_reducible apply State.setRtc_keeps
    | with_reducible apply State.setFld_keeps
    | with_reducible apply State.setFlag_keeps
    | with_reducible apply State.noteLk_keeps
    | intro _
    | split
    | dsimp -zeta only

theorem State.measureMains_keeps {st0 s nom} (hk : Keeps st0 s) : Keeps st0 (State.measureMains s nom) := by
  refine hk.trans ?_; clear hk
  unfold State.measureMains
  repeat' first
    | with_reducible apply Keeps.refl
    | with_reducible assumption
    | with_reducible apply State.startMeasure_keeps
    | with_reducible apply State.setFlag_keeps
    | intro _
    | split
    | dsimp -zeta only

theorem State.abortMeasure_keeps {st0 s} (hk : Keeps st0 s) : Keeps st0 (State.abortMeasure s) := by
  refine hk.trans ?_; clear hk
  unfold State.abortMeasure
  repeat' first
    | with_reducible apply Keeps.refl
    | with_reducible assumption
    | with_reducible apply State.answer_keeps
    | with_reducible apply State.noteLk_keeps
    | with_reducible apply State.cutMeasure_keeps
    | intro _
    | split
    | dsimp -zeta only

theorem execTrimMeasureMains_keeps {_p nom t s} : OutKeeps s (execTrimMeasureMains _p nom t s) := by
  unfold execTrimMeasureMains
  repeat' first
    | with_reducible apply Keeps.refl
    | with_reducible assumption
    | with_reducible apply OutKeeps.refused
    | with_reducible apply OutKeeps.next
    | with_reducible apply State.measureMains_keeps
    | with_reducible apply State.atTime_keeps
    | with_reducible apply OutKeeps.ite
    | intro _
    | split
    | dsimp -zeta only

theorem execTrimMeasureHost_keeps {_p t s} : OutKeeps s (execTrimMeasureHost _p t s) := by
  unfold execTrimMeasureHost
  repeat' first
    | with_reducible apply Keeps.refl
    | with_reducible assumption
    | with_reducible apply OutKeeps.refused
    | with_reducible apply OutKeeps.next
    | with_reducible apply State.startMeasure_keeps
    | with_reducible apply State.atTime_keeps
    | with_reducible apply OutKeeps.ite
    | intro _
    | split
    | dsimp -zeta only

theorem execTrimMeasureAbort_keeps {_p t s} : OutKeeps s (execTrimMeasureAbort _p t s) := by
  unfold execTrimMeasureAbort
  repeat' first
    | with_reducible apply Keeps.refl
    | with_reducible assumption
    | with_reducible apply OutKeeps.refused
    | with_reducible apply OutKeeps.next
    | with_reducible apply State.abortMeasure_keeps
    | with_reducible apply State.atTime_keeps
    | with_reducible apply OutKeeps.ite
    | intro _
    | split
    | dsimp -zeta only

theorem State.takeReference_keeps {st0 s host} (hk : Keeps st0 s) : Keeps st0 (State.takeReference s host) := by
  refine hk.trans ?_; clear hk
  unfold State.takeReference
  repeat' first
    | with_reducible apply Keeps.refl
    | with_reducible assumption
    | (extract_lets +onlyGivenNames a
       first
       | (refine Keeps.cut (m := a) ?_ ?_
          on_goal 2 => (clear_value a; intro _)
          on_goal 1 => (dsimp -zeta only [a]; clear a))
       | (refine Keeps.cut (m := a.2) ?_ ?_
          on_goal 2 => (clear_value a; intro _)
          on_goal 1 => (dsimp -zeta only [a]; clear a))
       | (refine Keeps.cut (m := a.1) ?_ ?_
          on_goal 2 => (clear_value a; intro _)
          on_goal 1 => (dsimp -zeta only [a]; clear a))
       | subst a)
    | with_reducible apply State.cutMeasure_keeps
    | with_reducible apply State.setRtc_keeps
    | ((with_reducible apply Keeps.of_snd); on_goal 1 => with_reducible assumption)
    | ((with_reducible apply Keeps.of_fst); on_goal 1 => with_reducible assumption)
    | intro _
    | split
    | dsimp -zeta only

theorem State.finishMeasure_keeps {st0 s lostRef e} (hk : Keeps st0 s) : Keeps st0 (State.finishMeasure s lostRef e) := by
  refine hk.trans ?_; clear hk
  unfold State.finishMeasure
  repeat' first
    | with_reducible apply Keeps.refl
    | with_reducible assumption
    | (extract_lets +onlyGivenNames a
       first
       | (refine Keeps.cut (m := a) ?_ ?_
          on_goal 2 => (clear_value a; intro _)
          on_goal 1 => (dsimp -zeta only [a]; clear a))
       | (refine Keeps.cut (m := a.2) ?_ ?_
          on_goal 2 => (clear_value a; intro _)
          on_goal 1 => (dsimp -zeta only [a]; clear a))
       | (refine Keeps.cut (m := a.1) ?_ ?_
          on_goal 2 => (clear_value a; intro _)
          on_goal 1 => (dsimp -zeta only [a]; clear a))
       | subst a)
    | with_reducible apply State.cutMeasure_keeps
    | with_reducible apply State.setSfld_keeps
    | with_reducible apply State.endMeasure_keeps
    | with_reducible apply State.putTrim_keeps
    | intro _
    | split
    | dsimp -zeta only

theorem execTrimMeasureEnd_keeps {lostRef e t s} : OutKeeps s (execTrimMeasureEnd lostRef e t s) := by
  unfold execTrimMeasureEnd
  repeat' first
    | with_reducible apply Keeps.refl
    | with_reducible assumption
    | with_reducible apply OutKeeps.refused
    | with_reducible apply OutKeeps.next
    | with_reducible apply State.finishMeasure_keeps
    | with_reducible apply State.atTime_keeps
    | with_reducible apply OutKeeps.ite
    | intro _
    | split
    | dsimp -zeta only

theorem State.putAlarmDue_keeps {st0 s k n} (hk : Keeps st0 s) : Keeps st0 (State.putAlarmDue s k n) := by
  refine hk.trans ?_; clear hk
  unfold State.putAlarmDue
  repeat' first
    | with_reducible apply Keeps.refl
    | with_reducible assumption
    | with_reducible apply State.wrAll_keeps
    | intro _
    | split
    | dsimp -zeta only

theorem State.enableAlarm_keeps {st0 s k} (hk : Keeps st0 s) : Keeps st0 (State.enableAlarm s k) := by
  refine hk.trans ?_; clear hk
  unfold State.enableAlarm
  repeat' first
    | with_reducible apply Keeps.refl
    | with_reducible assumption
    | with_reducible apply State.answer_keeps
    | with_reducible apply State.setFlag_keeps
    | with_reducible apply State.putAlarmDue_keeps
    | ((with_reducible apply Keeps.of_snd); on_goal 1 => with_reducible assumption)
    | ((with_reducible apply Keeps.of_fst); on_goal 1 => with_reducible assumption)
    | intro _
    | split
    | dsimp -zeta only

theorem execAlarmEnable_keeps {_p k t s} : OutKeeps s (execAlarmEnable _p k t s) := by
  unfold execAlarmEnable
  repeat' first
    | with_reducible apply Keeps.refl
    | with_reducible assumption
    | with_reducible apply OutKeeps.refused
    | with_reducible apply OutKeeps.next
    | with_reducible apply State.enableAlarm_keeps
    | with_reducible apply State.atTime_keeps
    | with_reducible apply OutKeeps.ite
    | intro _
    | split
    | dsimp -zeta only

theorem State.fireAlarm_keeps {st0 s k} (hk : Keeps st0 s) : Keeps st0 (State.fireAlarm s k) := by
  refine hk.trans ?_; clear hk
  unfold State.fireAlarm
  repeat' first
    | with_reducible apply Keeps.refl
    | with_reducible assumption
    | (extract_lets +onlyGivenNames a
       first
       | (refine Keeps.cut (m := a) ?_ ?_
          on_goal 2 => (clear_value a; intro _)
          on_goal 1 => (dsimp -zeta only [a]; clear a))
       | (refine Keeps.cut (m := a.2) ?_ ?_
          on_goal 2 => (clear_value a; intro _)
          on_goal 1 => (dsimp -zeta only [a]; clear a))
       | (refine Keeps.cut (m := a.1) ?_ ?_
          on_goal 2 => (clear_value a; intro _)
          on_goal 1 => (dsimp -zeta only [a]; clear a))
       | subst a)
    | with_reducible apply State.raiseAon_keeps
    | with_reducible apply State.setFlag_keeps
    | with_reducible apply State.putAlarmDue_keeps
    | ((with_reducible apply Keeps.of_snd); on_goal 1 => with_reducible assumption)
    | ((with_reducible apply Keeps.of_fst); on_goal 1 => with_reducible assumption)
    | intro _
    | split
    | dsimp -zeta only

theorem execCalendarAlarmFire_keeps {k t s} : OutKeeps s (execCalendarAlarmFire k t s) := by
  unfold execCalendarAlarmFire
  repeat' first
    | with_reducible apply Keeps.refl
    | with_reducible assumption
    | (extract_lets +onlyGivenNames a
       first
       | (refine Keeps.cut (m := a) ?_ ?_
          on_goal 2 => (clear_value a; intro _)
          on_goal 1 => (dsimp -zeta only [a]; clear a))
       | (refine Keeps.cut (m := a.2) ?_ ?_
          on_goal 2 => (clear_value a; intro _)
          on_goal 1 => (dsimp -zeta only [a]; clear a))
       | (refine Keeps.cut (m := a.1) ?_ ?_
          on_goal 2 => (clear_value a; intro _)
          on_goal 1 => (dsimp -zeta only [a]; clear a))
       | subst a)
    | with_reducible apply OutKeeps.refused
    | with_reducible apply OutKeeps.next
    | with_reducible apply State.atTime_keeps
    | with_reducible apply State.fireAlarm_keeps
    | with_reducible apply OutKeeps.ite
    | intro _
    | split
    | dsimp -zeta only

theorem State.clearAlarmFlag_keeps {st0 s k} (hk : Keeps st0 s) : Keeps st0 (State.clearAlarmFlag s k) := by
  refine hk.trans ?_; clear hk
  unfold State.clearAlarmFlag
  repeat' first
    | with_reducible apply Keeps.refl
    | with_reducible assumption
    | with_reducible apply State.setFlag_keeps
    | intro _
    | split
    | dsimp -zeta only

theorem execAlarmFlagClear_keeps {_p k s} : OutKeeps s (execAlarmFlagClear _p k s) := by
  unfold execAlarmFlagClear
  repeat' first
    | with_reducible apply Keeps.refl
    | with_reducible assumption
    | with_reducible apply OutKeeps.refused
    | with_reducible apply OutKeeps.next
    | with_reducible apply State.answer_keeps
    | with_reducible apply State.clearAlarmFlag_keeps
    | with_reducible apply OutKeeps.ite
    | intro _
    | split
    | dsimp -zeta only

theorem execXt32Fail_keeps {t s} : OutKeeps s (execXt32Fail t s) := by
  unfold execXt32Fail
  repeat' first
    | with_reducible apply Keeps.refl
    | with_reducible assumption
    | (extract_lets +onlyGivenNames a
       first
       | (refine Keeps.cut (m := a) ?_ ?_
          on_goal 2 => (clear_value a; intro _)
          on_goal 1 => (dsimp -zeta only [a]; clear a))
       | (refine Keeps.cut (m := a.2) ?_ ?_
          on_goal 2 => (clear_value a; intro _)
          on_goal 1 => (dsimp -zeta only [a]; clear a))
       | (refine Keeps.cut (m := a.1) ?_ ?_
          on_goal 2 => (clear_value a; intro _)
          on_goal 1 => (dsimp -zeta only [a]; clear a))
       | subst a)
    | with_reducible apply OutKeeps.refused
    | with_reducible apply OutKeeps.next
    | with_reducible apply State.atTime_keeps
    | with_reducible apply State.setOsf_keeps
    | with_reducible apply State.setFlag_keeps
    | with_reducible apply State.setRtc_keeps
    | with_reducible apply OutKeeps.ite
    | intro _
    | split
    | dsimp -zeta only

theorem execXt32Restore_keeps {s} : OutKeeps s (execXt32Restore s) := by
  unfold execXt32Restore
  repeat' first
    | with_reducible apply Keeps.refl
    | with_reducible assumption
    | with_reducible apply OutKeeps.refused
    | with_reducible apply OutKeeps.next
    | with_reducible apply State.setFlag_keeps
    | with_reducible apply State.setRtc_keeps
    | with_reducible apply OutKeeps.ite
    | intro _
    | split
    | dsimp -zeta only

theorem State.sampleCell_keeps {st0 s mv vrtc} (hk : Keeps st0 s) : Keeps st0 (State.sampleCell s mv vrtc) := by
  refine hk.trans ?_; clear hk
  unfold State.sampleCell
  repeat' first
    | with_reducible apply Keeps.refl
    | with_reducible assumption
    | (extract_lets +onlyGivenNames a
       first
       | (refine Keeps.cut (m := a) ?_ ?_
          on_goal 2 => (clear_value a; intro _)
          on_goal 1 => (dsimp -zeta only [a]; clear a))
       | (refine Keeps.cut (m := a.2) ?_ ?_
          on_goal 2 => (clear_value a; intro _)
          on_goal 1 => (dsimp -zeta only [a]; clear a))
       | (refine Keeps.cut (m := a.1) ?_ ?_
          on_goal 2 => (clear_value a; intro _)
          on_goal 1 => (dsimp -zeta only [a]; clear a))
       | subst a)
    | with_reducible apply State.setFld_keeps
    | with_reducible apply State.putTrust_keeps
    | with_reducible apply State.setFlag_keeps
    | with_reducible apply State.raise_keeps
    | intro _
    | split
    | dsimp -zeta only

theorem execCellSample_keeps {mv vrtc s} : OutKeeps s (execCellSample mv vrtc s) := by
  unfold execCellSample
  repeat' first
    | with_reducible apply Keeps.refl
    | with_reducible assumption
    | with_reducible apply OutKeeps.refused
    | with_reducible apply OutKeeps.next
    | with_reducible apply State.sampleCell_keeps
    | with_reducible apply OutKeeps.ite
    | intro _
    | split
    | dsimp -zeta only

theorem State.changeOver_keeps {st0 s toMain vrtc vcell} (hk : Keeps st0 s) : Keeps st0 (State.changeOver s toMain vrtc vcell) := by
  refine hk.trans ?_; clear hk
  unfold State.changeOver
  repeat' first
    | with_reducible apply Keeps.refl
    | with_reducible assumption
    | (extract_lets +onlyGivenNames a
       first
       | (refine Keeps.cut (m := a) ?_ ?_
          on_goal 2 => (clear_value a; intro _)
          on_goal 1 => (dsimp -zeta only [a]; clear a))
       | (refine Keeps.cut (m := a.2) ?_ ?_
          on_goal 2 => (clear_value a; intro _)
          on_goal 1 => (dsimp -zeta only [a]; clear a))
       | (refine Keeps.cut (m := a.1) ?_ ?_
          on_goal 2 => (clear_value a; intro _)
          on_goal 1 => (dsimp -zeta only [a]; clear a))
       | subst a)
    | with_reducible apply State.setFlag_keeps
    | with_reducible apply State.raise_keeps
    | intro _
    | split
    | dsimp -zeta only

theorem execVrtcChangeover_keeps {toMain vrtc vcell s} : OutKeeps s (execVrtcChangeover toMain vrtc vcell s) := by
  unfold execVrtcChangeover
  repeat' first
    | with_reducible apply Keeps.refl
    | with_reducible assumption
    | with_reducible apply OutKeeps.refused
    | with_reducible apply OutKeeps.next
    | with_reducible apply State.changeOver_keeps
    | with_reducible apply OutKeeps.ite
    | intro _
    | split
    | dsimp -zeta only

end Sys2Proof.Machine
end

