-- ==== Sys2Proof/Laws/KeepsGlasshouse.lean ====
section
/-! SUPPORT. Every operation of `Machine/Glasshouse.lean` keeps the queue and the canonical forms. -/

set_option linter.all false
set_option Elab.async false
set_option maxHeartbeats 60000

namespace Sys2Proof.Machine

theorem State.setBufRow_keeps {st0 s r v} (hk : Keeps st0 s) : Keeps st0 (State.setBufRow s r v) := by
  refine hk.trans ?_; clear hk
  unfold State.setBufRow
  repeat' first
    | with_reducible apply Keeps.refl
    | with_reducible assumption
    | with_reducible apply State.wrAll_keeps
    | ((with_reducible apply Keeps.of_snd); on_goal 1 => with_reducible assumption)
    | ((with_reducible apply Keeps.of_fst); on_goal 1 => with_reducible assumption)
    | intro _
    | split
    | dsimp -zeta only

theorem State.bufChanged_keeps {st0 s} (hk : Keeps st0 s) : Keeps st0 (State.bufChanged s) := by
  refine hk.trans ?_; clear hk
  unfold State.bufChanged
  repeat' first
    | with_reducible apply Keeps.refl
    | with_reducible assumption
    | ((with_reducible apply State.setPanel_same); on_goal 2 => rfl)
    | intro _
    | split
    | dsimp -zeta only

theorem State.journalRow_keeps {st0 s r v} (hk : Keeps st0 s) : Keeps st0 (State.journalRow s r v) := by
  refine hk.trans ?_; clear hk
  unfold State.journalRow
  repeat' first
    | with_reducible apply Keeps.refl
    | with_reducible assumption
    | ((with_reducible apply State.setPanel_same); on_goal 2 => rfl)
    | intro _
    | split
    | dsimp -zeta only

theorem State.journalHeader_keeps {st0 s} (hk : Keeps st0 s) : Keeps st0 (State.journalHeader s) := by
  refine hk.trans ?_; clear hk
  unfold State.journalHeader
  repeat' first
    | with_reducible apply Keeps.refl
    | with_reducible assumption
    | (extract_lets +onlyGivenNames a
       first
       | (refine Keeps.cut (m := a) ?_ ?_
          on_goal 2 => (clear_value a; intro _)
          on_goal 1 => (dsimp -zeta only [a]; clear a))
       | (refine Keeps.cut (m := a.2) ?_ ?_
          on_goal 2 => (clear_value a; intro _)
          on_goal 1 => (dsimp -zeta only [a]; clear a))
       | (refine Keeps.cut (m := a.1) ?_ ?_
          on_goal 2 => (clear_value a; intro _)
          on_goal 1 => (dsimp -zeta only [a]; clear a))
       | subst a)
    | with_reducible apply State.wrAll_keeps
    | with_reducible apply State.setFld_keeps
    | with_reducible apply State.setFlag_keeps
    | with_reducible apply foldl_keeps
    | ((with_reducible apply Keeps.of_snd); on_goal 1 => with_reducible assumption)
    | ((with_reducible apply Keeps.of_fst); on_goal 1 => with_reducible assumption)
    | ((with_reducible apply State.setPanel_same); on_goal 2 => rfl)
    | intro _
    | split
    | dsimp -zeta only

theorem State.journalBuffer_keeps {st0 s} (hk : Keeps st0 s) : Keeps st0 (State.journalBuffer s) := by
  refine hk.trans ?_; clear hk
  unfold State.journalBuffer
  repeat' first
    | with_reducible apply Keeps.refl
    | with_reducible assumption
    | (extract_lets +onlyGivenNames a
       first
       | (refine Keeps.cut (m := a) ?_ ?_
          on_goal 2 => (clear_value a; intro _)
          on_goal 1 => (dsimp -zeta only [a]; clear a))
       | (refine Keeps.cut (m := a.2) ?_ ?_
          on_goal 2 => (clear_value a; intro _)
          on_goal 1 => (dsimp -zeta only [a]; clear a))
       | (refine Keeps.cut (m := a.1) ?_ ?_
          on_goal 2 => (clear_value a; intro _)
          on_goal 1 => (dsimp -zeta only [a]; clear a))
       | subst a)
    | with_reducible apply State.journalRow_keeps
    | with_reducible apply foldS_keeps
    | ((with_reducible apply Keeps.of_snd); on_goal 1 => with_reducible assumption)
    | ((with_reducible apply Keeps.of_fst); on_goal 1 => with_reducible assumption)
    | ((with_reducible apply State.setPanel_same); on_goal 2 => rfl)
    | intro _
    | split
    | dsimp -zeta only

theorem execJournalCopy_keeps {s} : OutKeeps s (execJournalCopy s) := by
  unfold execJournalCopy
  repeat' first
    | with_reducible apply Keeps.refl
    | with_reducible assumption
    | with_reducible apply OutKeeps.refused
    | with_reducible apply OutKeeps.next
    | with_reducible apply State.journalBuffer_keeps
    | with_reducible apply OutKeeps.ite
    | intro _
    | split
    | dsimp -zeta only

theorem State.pumpStart_keeps {st0 s} (hk : Keeps st0 s) : Keeps st0 (State.pumpStart s) := by
  refine hk.trans ?_; clear hk
  unfold State.pumpStart
  repeat' first
    | with_reducible apply Keeps.refl
    | with_reducible assumption
    | with_reducible apply State.setFlag_keeps
    | ((with_reducible apply State.setPanel_same); on_goal 2 => rfl)
    | intro _
    | split
    | dsimp -zeta only

theorem State.pumpStop_keeps {st0 s} (hk : Keeps st0 s) : Keeps st0 (State.pumpStop s) := by
  refine hk.trans ?_; clear hk
  unfold State.pumpStop
  repeat' first
    | with_reducible apply Keeps.refl
    | with_reducible assumption
    | with_reducible apply State.setFlag_keeps
    | ((with_reducible apply State.setPanel_same); on_goal 2 => rfl)
    | intro _
    | split
    | dsimp -zeta only

theorem State.beginRow_keeps {st0 s q r} (hk : Keeps st0 s) : Keeps st0 (State.beginRow s q r) := by
  refine hk.trans ?_; clear hk
  unfold State.beginRow
  repeat' first
    | with_reducible apply Keeps.refl
    | with_reducible assumption
    | (extract_lets +onlyGivenNames a
       first
       | (refine Keeps.cut (m := a) ?_ ?_
          on_goal 2 => (clear_value a; intro _)
          on_goal 1 => (dsimp -zeta only [a]; clear a))
       | (refine Keeps.cut (m := a.2) ?_ ?_
          on_goal 2 => (clear_value a; intro _)
          on_goal 1 => (dsimp -zeta only [a]; clear a))
       | (refine Keeps.cut (m := a.1) ?_ ?_
          on_goal 2 => (clear_value a; intro _)
          on_goal 1 => (dsimp -zeta only [a]; clear a))
       | subst a)
    | with_reducible apply State.setFld_keeps
    | with_reducible apply State.setFlag_keeps
    | with_reducible apply State.journalRow_keeps
    | ((with_reducible apply State.setPanel_same); on_goal 2 => rfl)
    | intro _
    | split
    | dsimp -zeta only

theorem State.kick_keeps {st0 s} (hk : Keeps st0 s) : Keeps st0 (State.kick s) := by
  refine hk.trans ?_; clear hk
  unfold State.kick
  repeat' first
    | with_reducible apply Keeps.refl
    | with_reducible assumption
    | with_reducible apply State.pumpStart_keeps
    | with_reducible apply State.beginRow_keeps
    | ((with_reducible apply Keeps.of_snd); on_goal 1 => with_reducible assumption)
    | ((with_reducible apply Keeps.of_fst); on_goal 1 => with_reducible assumption)
    | intro _
    | split
    | dsimp -zeta only

theorem State.endRequest_keeps {st0 s q} (hk : Keeps st0 s) : Keeps st0 (State.endRequest s q) := by
  refine hk.trans ?_; clear hk
  unfold State.endRequest
  repeat' first
    | with_reducible apply Keeps.refl
    | with_reducible assumption
    | (extract_lets +onlyGivenNames a
       first
       | (refine Keeps.cut (m := a) ?_ ?_
          on_goal 2 => (clear_value a; intro _)
          on_goal 1 => (dsimp -zeta only [a]; clear a))
       | (refine Keeps.cut (m := a.2) ?_ ?_
          on_goal 2 => (clear_value a; intro _)
          on_goal 1 => (dsimp -zeta only [a]; clear a))
       | (refine Keeps.cut (m := a.1) ?_ ?_
          on_goal 2 => (clear_value a; intro _)
          on_goal 1 => (dsimp -zeta only [a]; clear a))
       | subst a)
    | with_reducible apply State.setFld_keeps
    | with_reducible apply foldS_keeps
    | ((with_reducible apply Keeps.of_snd); on_goal 1 => with_reducible assumption)
    | ((with_reducible apply Keeps.of_fst); on_goal 1 => with_reducible assumption)
    | ((with_reducible apply State.setPanel_same); on_goal 2 => rfl)
    | intro _
    | split
    | dsimp -zeta only

theorem State.endRow_keeps {st0 s w} (hk : Keeps st0 s) : Keeps st0 (State.endRow s w) := by
  refine hk.trans ?_; clear hk
  unfold State.endRow
  repeat' first
    | with_reducible apply Keeps.refl
    | with_reducible assumption
    | (extract_lets +onlyGivenNames a
       first
       | (refine Keeps.cut (m := a) ?_ ?_
          on_goal 2 => (clear_value a; intro _)
          on_goal 1 => (dsimp -zeta only [a]; clear a))
       | (refine Keeps.cut (m := a.2) ?_ ?_
          on_goal 2 => (clear_value a; intro _)
          on_goal 1 => (dsimp -zeta only [a]; clear a))
       | (refine Keeps.cut (m := a.1) ?_ ?_
          on_goal 2 => (clear_value a; intro _)
          on_goal 1 => (dsimp -zeta only [a]; clear a))
       | subst a)
    | with_reducible apply State.setFld_keeps
    | with_reducible apply State.addFld_keeps
    | with_reducible apply State.setFlag_keeps
    | with_reducible apply State.endRequest_keeps
    | with_reducible apply State.kick_keeps
    | with_reducible apply State.journalHeader_keeps
    | ((with_reducible apply Keeps.of_snd); on_goal 1 => with_reducible assumption)
    | ((with_reducible apply Keeps.of_fst); on_goal 1 => with_reducible assumption)
    | ((with_reducible apply State.setPanel_same); on_goal 2 => rfl)
    | intro _
    | split
    | dsimp -zeta only

theorem State.phaseEnd_keeps {st0 s} (hk : Keeps st0 s) : Keeps st0 (State.phaseEnd s) := by
  refine hk.trans ?_; clear hk
  unfold State.phaseEnd
  repeat' first
    | with_reducible apply Keeps.refl
    | with_reducible assumption
    | (extract_lets +onlyGivenNames a
       first
       | (refine Keeps.cut (m := a) ?_ ?_
          on_goal 2 => (clear_value a; intro _)
          on_goal 1 => (dsimp -zeta only [a]; clear a))
       | (refine Keeps.cut (m := a.2) ?_ ?_
          on_goal 2 => (clear_value a; intro _)
          on_goal 1 => (dsimp -zeta only [a]; clear a))
       | (refine Keeps.cut (m := a.1) ?_ ?_
          on_goal 2 => (clear_value a; intro _)
          on_goal 1 => (dsimp -zeta only [a]; clear a))
       | subst a)
    | with_reducible apply State.atTime_keeps
    | with_reducible apply State.setFld_keeps
    | with_reducible apply State.endRow_keeps
    | ((with_reducible apply Keeps.of_snd); on_goal 1 => with_reducible assumption)
    | ((with_reducible apply Keeps.of_fst); on_goal 1 => with_reducible assumption)
    | ((with_reducible apply State.setPanel_same); on_goal 2 => rfl)
    | intro _
    | split
    | dsimp -zeta only

theorem execRowPhaseEnd_keeps {s} : OutKeeps s (execRowPhaseEnd s) := by
  unfold execRowPhaseEnd
  repeat' first
    | with_reducible apply Keeps.refl
    | with_reducible assumption
    | with_reducible apply OutKeeps.refused
    | with_reducible apply OutKeeps.next
    | with_reducible apply State.phaseEnd_keeps
    | with_reducible apply OutKeeps.ite
    | intro _
    | split
    | dsimp -zeta only

theorem State.strayRow_keeps {st0 s rows} (hk : Keeps st0 s) : Keeps st0 (State.strayRow s rows) := by
  refine hk.trans ?_; clear hk
  unfold State.strayRow
  repeat' first
    | with_reducible apply Keeps.refl
    | with_reducible assumption
    | ((with_reducible apply Keeps.of_snd); on_goal 1 => with_reducible assumption)
    | ((with_reducible apply Keeps.of_fst); on_goal 1 => with_reducible assumption)
    | ((with_reducible apply State.setPanel_same); on_goal 2 => rfl)
    | intro _
    | split
    | dsimp -zeta only

theorem State.placeReq_keeps {st0 s r t} (hk : Keeps st0 s) (e : State.placeReq s r = some t) : Keeps st0 t := by
  refine hk.trans ?_; clear hk
  unfold State.placeReq at e
  try dsimp only at e
  repeat' split at e
  all_goals first | contradiction | (cases e)
  repeat' first
    | with_reducible apply Keeps.refl
    | with_reducible assumption
    | (extract_lets +onlyGivenNames a
       first
       | (refine Keeps.cut (m := a) ?_ ?_
          on_goal 2 => (clear_value a; intro _)
          on_goal 1 => (dsimp -zeta only [a]; clear a))
       | (refine Keeps.cut (m := a.2) ?_ ?_
          on_goal 2 => (clear_value a; intro _)
          on_goal 1 => (dsimp -zeta only [a]; clear a))
       | (refine Keeps.cut (m := a.1) ?_ ?_
          on_goal 2 => (clear_value a; intro _)
          on_goal 1 => (dsimp -zeta only [a]; clear a))
       | subst a)
    | with_reducible apply State.kick_keeps
    | with_reducible apply State.journalHeader_keeps
    | with_reducible apply State.strayRow_keeps
    | with_reducible apply foldl_keeps
    | ((with_reducible apply Keeps.of_snd); on_goal 1 => with_reducible assumption)
    | ((with_reducible apply Keeps.of_fst); on_goal 1 => with_reducible assumption)
    | ((with_reducible apply State.setPanel_same); on_goal 2 => rfl)
    | intro _
    | split
    | dsimp -zeta only

theorem State.drawOp_keeps {st0 s target r h pix} (hk : Keeps st0 s) : Keeps st0 (State.drawOp s target r h pix) := by
  refine hk.trans ?_; clear hk
  unfold State.drawOp
  repeat' first
    | with_reducible apply Keeps.refl
    | with_reducible assumption
    | (extract_lets +onlyGivenNames a
       first
       | (refine Keeps.cut (m := a) ?_ ?_
          on_goal 2 => (clear_value a; intro _)
          on_goal 1 => (dsimp -zeta only [a]; clear a))
       | (refine Keeps.cut (m := a.2) ?_ ?_
          on_goal 2 => (clear_value a; intro _)
          on_goal 1 => (dsimp -zeta only [a]; clear a))
       | (refine Keeps.cut (m := a.1) ?_ ?_
          on_goal 2 => (clear_value a; intro _)
          on_goal 1 => (dsimp -zeta only [a]; clear a))
       | subst a)
    | with_reducible apply State.answer_keeps
    | with_reducible apply State.bufChanged_keeps
    | with_reducible apply State.wr_keeps
    | intro _
    | split
    | dsimp -zeta only

theorem State.copyOp_keeps {st0 s target r0 r1 c0 c1 pic} (hk : Keeps st0 s) : Keeps st0 (State.copyOp s target r0 r1 c0 c1 pic) := by
  refine hk.trans ?_; clear hk
  unfold State.copyOp
  repeat' first
    | with_reducible apply Keeps.refl
    | with_reducible assumption
    | (extract_lets +onlyGivenNames a
       first
       | (refine Keeps.cut (m := a) ?_ ?_
          on_goal 2 => (clear_value a; intro _)
          on_goal 1 => (dsimp -zeta only [a]; clear a))
       | (refine Keeps.cut (m := a.2) ?_ ?_
          on_goal 2 => (clear_value a; intro _)
          on_goal 1 => (dsimp -zeta only [a]; clear a))
       | (refine Keeps.cut (m := a.1) ?_ ?_
          on_goal 2 => (clear_value a; intro _)
          on_goal 1 => (dsimp -zeta only [a]; clear a))
       | subst a)
    | with_reducible apply State.answer_keeps
    | with_reducible apply State.setBufRow_keeps
    | with_reducible apply State.bufChanged_keeps
    | with_reducible apply foldS_keeps
    | ((with_reducible apply Keeps.of_snd); on_goal 1 => with_reducible assumption)
    | ((with_reducible apply Keeps.of_fst); on_goal 1 => with_reducible assumption)
    | intro _
    | split
    | dsimp -zeta only

theorem State.updateOp_keeps {st0 s target r0 r1 c0 c1 tag} (hk : Keeps st0 s) : Keeps st0 (State.updateOp s target r0 r1 c0 c1 tag) := by
  refine hk.trans ?_; clear hk
  unfold State.updateOp
  repeat' first
    | with_reducible apply Keeps.refl
    | with_reducible assumption
    | with_reducible apply State.answer_keeps
    | ((with_reducible apply State.placeReq_keeps); on_goal 2 => with_reducible assumption)
    | ((with_reducible apply Keeps.of_snd); on_goal 1 => with_reducible assumption)
    | ((with_reducible apply Keeps.of_fst); on_goal 1 => with_reducible assumption)
    | ((with_reducible apply State.setPanel_same); on_goal 2 => rfl)
    | intro _
    | split
    | dsimp -zeta only

theorem State.clearPanel_keeps {st0 s tag t} (hk : Keeps st0 s) (e : State.clearPanel s tag = some t) : Keeps st0 t := by
  unfold State.clearPanel at e
  have g : Keeps st0 (foldS (fun s r => s.setBufRow r 0) s (List.range 64)).bufChanged :=
    State.bufChanged_keeps (foldS_keeps hk fun _ _ => State.setBufRow_keeps (Keeps.refl _))
  simp only at e
  split at e
  · rw [← Option.some.inj e]
    exact State.setPanel_same g rfl
  · exact State.placeReq_keeps g e

theorem State.getD_keeps {o s : State} {x : Option State} (h : ∀ t, x = some t → Keeps o t) (g : Keeps o s) :
    Keeps o (x.getD s) := by
  cases x with
  | none => exact g
  | some t => exact h t rfl

theorem State.panelClearOp_keeps {st0 s target tag} (hk : Keeps st0 s) : Keeps st0 (State.panelClearOp s target tag) := by
  refine hk.trans ?_; clear hk
  unfold State.panelClearOp
  repeat' first
    | with_reducible apply Keeps.refl
    | with_reducible assumption
    | with_reducible apply State.answer_keeps
    | ((with_reducible apply State.clearPanel_keeps); on_goal 2 => with_reducible assumption)
    | with_reducible apply State.setFlag_keeps
    | ((with_reducible apply Keeps.of_snd); on_goal 1 => with_reducible assumption)
    | ((with_reducible apply Keeps.of_fst); on_goal 1 => with_reducible assumption)
    | intro _
    | split
    | dsimp -zeta only

theorem execDraw_keeps {target r h pix s} : OutKeeps s (execDraw target r h pix s) := by
  unfold execDraw
  repeat' first
    | with_reducible apply Keeps.refl
    | with_reducible assumption
    | with_reducible apply OutKeeps.refused
    | with_reducible apply OutKeeps.next
    | with_reducible apply State.drawOp_keeps
    | with_reducible apply OutKeeps.ite
    | intro _
    | split
    | dsimp -zeta only

theorem execUpdate_keeps {target r0 r1 c0 c1 tag s} : OutKeeps s (execUpdate target r0 r1 c0 c1 tag s) := by
  unfold execUpdate
  repeat' first
    | with_reducible apply Keeps.refl
    | with_reducible assumption
    | with_reducible apply OutKeeps.refused
    | with_reducible apply OutKeeps.next
    | with_reducible apply State.updateOp_keeps
    | with_reducible apply OutKeeps.ite
    | intro _
    | split
    | dsimp -zeta only

theorem execCopy_keeps {target r0 r1 c0 c1 pic s} : OutKeeps s (execCopy target r0 r1 c0 c1 pic s) := by
  unfold execCopy
  repeat' first
    | with_reducible apply Keeps.refl
    | with_reducible assumption
    | with_reducible apply OutKeeps.refused
    | with_reducible apply OutKeeps.next
    | with_reducible apply State.copyOp_keeps
    | with_reducible apply OutKeeps.ite
    | intro _
    | split
    | dsimp -zeta only

theorem execPanelClear_keeps {target tag s} : OutKeeps s (execPanelClear target tag s) := by
  unfold execPanelClear
  repeat' first
    | with_reducible apply Keeps.refl
    | with_reducible assumption
    | with_reducible apply OutKeeps.refused
    | with_reducible apply OutKeeps.next
    | with_reducible apply State.panelClearOp_keeps
    | with_reducible apply OutKeeps.ite
    | intro _
    | split
    | dsimp -zeta only

theorem State.notePump_keeps {st0 s vrst vsel} (hk : Keeps st0 s) : Keeps st0 (State.notePump s vrst vsel) := by
  refine hk.trans ?_; clear hk
  unfold State.notePump
  repeat' first
    | with_reducible apply Keeps.refl
    | with_reducible assumption
    | with_reducible apply State.setFld_keeps
    | intro _
    | split
    | dsimp -zeta only

theorem execPumpReady_keeps {vrst vsel s} : OutKeeps s (execPumpReady vrst vsel s) := by
  unfold execPumpReady
  repeat' first
    | with_reducible apply Keeps.refl
    | with_reducible assumption
    | (extract_lets +onlyGivenNames a
       first
       | (refine Keeps.cut (m := a) ?_ ?_
          on_goal 2 => (clear_value a; intro _)
          on_goal 1 => (dsimp -zeta only [a]; clear a))
       | (refine Keeps.cut (m := a.2) ?_ ?_
          on_goal 2 => (clear_value a; intro _)
          on_goal 1 => (dsimp -zeta only [a]; clear a))
       | (refine Keeps.cut (m := a.1) ?_ ?_
          on_goal 2 => (clear_value a; intro _)
          on_goal 1 => (dsimp -zeta only [a]; clear a))
       | subst a)
    | with_reducible apply OutKeeps.refused
    | with_reducible apply OutKeeps.next
    | with_reducible apply State.notePump_keeps
    | with_reducible apply State.kick_keeps
    | ((with_reducible apply State.setPanel_same); on_goal 2 => rfl)
    | with_reducible apply OutKeeps.ite
    | intro _
    | split
    | dsimp -zeta only

theorem execPumpIdleStop_keeps {s} : OutKeeps s (execPumpIdleStop s) := by
  unfold execPumpIdleStop
  repeat' first
    | with_reducible apply Keeps.refl
    | with_reducible assumption
    | with_reducible apply OutKeeps.refused
    | with_reducible apply OutKeeps.next
    | with_reducible apply State.pumpStop_keeps
    | with_reducible apply State.atTime_keeps
    | with_reducible apply OutKeeps.ite
    | intro _
    | split
    | dsimp -zeta only

theorem State.abandonRow_keeps {st0 s} (hk : Keeps st0 s) : Keeps st0 (State.abandonRow s) := by
  refine hk.trans ?_; clear hk
  unfold State.abandonRow
  repeat' first
    | with_reducible apply Keeps.refl
    | with_reducible assumption
    | (extract_lets +onlyGivenNames a
       first
       | (refine Keeps.cut (m := a) ?_ ?_
          on_goal 2 => (clear_value a; intro _)
          on_goal 1 => (dsimp -zeta only [a]; clear a))
       | (refine Keeps.cut (m := a.2) ?_ ?_
          on_goal 2 => (clear_value a; intro _)
          on_goal 1 => (dsimp -zeta only [a]; clear a))
       | (refine Keeps.cut (m := a.1) ?_ ?_
          on_goal 2 => (clear_value a; intro _)
          on_goal 1 => (dsimp -zeta only [a]; clear a))
       | subst a)
    | with_reducible apply State.setFld_keeps
    | with_reducible apply State.setFlag_keeps
    | with_reducible apply State.journalHeader_keeps
    | ((with_reducible apply Keeps.of_snd); on_goal 1 => with_reducible assumption)
    | ((with_reducible apply Keeps.of_fst); on_goal 1 => with_reducible assumption)
    | ((with_reducible apply State.setPanel_same); on_goal 2 => rfl)
    | intro _
    | split
    | dsimp -zeta only

theorem State.pumpFaulted_keeps {st0 s vrst vsel} (hk : Keeps st0 s) : Keeps st0 (State.pumpFaulted s vrst vsel) := by
  refine hk.trans ?_; clear hk
  unfold State.pumpFaulted
  repeat' first
    | with_reducible apply Keeps.refl
    | with_reducible assumption
    | (extract_lets +onlyGivenNames a
       first
       | (refine Keeps.cut (m := a) ?_ ?_
          on_goal 2 => (clear_value a; intro _)
          on_goal 1 => (dsimp -zeta only [a]; clear a))
       | (refine Keeps.cut (m := a.2) ?_ ?_
          on_goal 2 => (clear_value a; intro _)
          on_goal 1 => (dsimp -zeta only [a]; clear a))
       | (refine Keeps.cut (m := a.1) ?_ ?_
          on_goal 2 => (clear_value a; intro _)
          on_goal 1 => (dsimp -zeta only [a]; clear a))
       | subst a)
    | with_reducible apply State.pumpStop_keeps
    | with_reducible apply State.abandonRow_keeps
    | with_reducible apply State.notePump_keeps
    | with_reducible apply State.raise_keeps
    | with_reducible apply State.setFlag_keeps
    | ((with_reducible apply State.setPanel_same); on_goal 2 => rfl)
    | intro _
    | split
    | dsimp -zeta only

theorem execPumpFault_keeps {vrst vsel s} : OutKeeps s (execPumpFault vrst vsel s) := by
  unfold execPumpFault
  repeat' first
    | with_reducible apply Keeps.refl
    | with_reducible assumption
    | with_reducible apply OutKeeps.refused
    | with_reducible apply OutKeeps.next
    | with_reducible apply State.pumpFaulted_keeps
    | with_reducible apply OutKeeps.ite
    | intro _
    | split
    | dsimp -zeta only

theorem execPumpRestart_keeps {s} : OutKeeps s (execPumpRestart s) := by
  unfold execPumpRestart
  repeat' first
    | with_reducible apply Keeps.refl
    | with_reducible assumption
    | (extract_lets +onlyGivenNames a
       first
       | (refine Keeps.cut (m := a) ?_ ?_
          on_goal 2 => (clear_value a; intro _)
          on_goal 1 => (dsimp -zeta only [a]; clear a))
       | (refine Keeps.cut (m := a.2) ?_ ?_
          on_goal 2 => (clear_value a; intro _)
          on_goal 1 => (dsimp -zeta only [a]; clear a))
       | (refine Keeps.cut (m := a.1) ?_ ?_
          on_goal 2 => (clear_value a; intro _)
          on_goal 1 => (dsimp -zeta only [a]; clear a))
       | subst a)
    | with_reducible apply OutKeeps.refused
    | with_reducible apply OutKeeps.next
    | with_reducible apply State.atTime_keeps
    | with_reducible apply State.pumpStart_keeps
    | ((with_reducible apply State.setPanel_same); on_goal 2 => rfl)
    | with_reducible apply OutKeeps.ite
    | intro _
    | split
    | dsimp -zeta only

theorem State.panelRetry_keeps {st0 s} (hk : Keeps st0 s) : Keeps st0 (State.panelRetry s) := by
  refine hk.trans ?_; clear hk
  unfold State.panelRetry
  repeat' first
    | with_reducible apply Keeps.refl
    | with_reducible assumption
    | (extract_lets +onlyGivenNames a
       first
       | (refine Keeps.cut (m := a) ?_ ?_
          on_goal 2 => (clear_value a; intro _)
          on_goal 1 => (dsimp -zeta only [a]; clear a))
       | (refine Keeps.cut (m := a.2) ?_ ?_
          on_goal 2 => (clear_value a; intro _)
          on_goal 1 => (dsimp -zeta only [a]; clear a))
       | (refine Keeps.cut (m := a.1) ?_ ?_
          on_goal 2 => (clear_value a; intro _)
          on_goal 1 => (dsimp -zeta only [a]; clear a))
       | subst a)
    | with_reducible apply State.answer_keeps
    | with_reducible apply State.setFlag_keeps
    | with_reducible apply State.noteLk_keeps
    | with_reducible apply State.pumpStart_keeps
    | ((with_reducible apply State.setPanel_same); on_goal 2 => rfl)
    | intro _
    | split
    | dsimp -zeta only

theorem execPnlRetry_keeps {_p t s} : OutKeeps s (execPnlRetry _p t s) := by
  unfold execPnlRetry
  repeat' first
    | with_reducible apply Keeps.refl
    | with_reducible assumption
    | with_reducible apply OutKeeps.refused
    | with_reducible apply OutKeeps.next
    | with_reducible apply State.panelRetry_keeps
    | with_reducible apply State.atTime_keeps
    | with_reducible apply OutKeeps.ite
    | intro _
    | split
    | dsimp -zeta only

theorem State.panelTemp_keeps {st0 s ohm10 centi} (hk : Keeps st0 s) : Keeps st0 (State.panelTemp s ohm10 centi) := by
  refine hk.trans ?_; clear hk
  unfold State.panelTemp
  repeat' first
    | with_reducible apply Keeps.refl
    | with_reducible assumption
    | (extract_lets +onlyGivenNames a
       first
       | (refine Keeps.cut (m := a) ?_ ?_
          on_goal 2 => (clear_value a; intro _)
          on_goal 1 => (dsimp -zeta only [a]; clear a))
       | (refine Keeps.cut (m := a.2) ?_ ?_
          on_goal 2 => (clear_value a; intro _)
          on_goal 1 => (dsimp -zeta only [a]; clear a))
       | (refine Keeps.cut (m := a.1) ?_ ?_
          on_goal 2 => (clear_value a; intro _)
          on_goal 1 => (dsimp -zeta only [a]; clear a))
       | subst a)
    | with_reducible apply State.setFld_keeps
    | with_reducible apply State.setFlag_keeps
    | with_reducible apply State.raise_keeps
    | ((with_reducible apply Keeps.of_snd); on_goal 1 => with_reducible assumption)
    | ((with_reducible apply Keeps.of_fst); on_goal 1 => with_reducible assumption)
    | ((with_reducible apply State.setPanel_same); on_goal 2 => rfl)
    | intro _
    | split
    | dsimp -zeta only

theorem execPanelTempRead_keeps {ohm10 centi t s} : OutKeeps s (execPanelTempRead ohm10 centi t s) := by
  unfold execPanelTempRead
  repeat' first
    | with_reducible apply Keeps.refl
    | with_reducible assumption
    | (extract_lets +onlyGivenNames a
       first
       | (refine Keeps.cut (m := a) ?_ ?_
          on_goal 2 => (clear_value a; intro _)
          on_goal 1 => (dsimp -zeta only [a]; clear a))
       | (refine Keeps.cut (m := a.2) ?_ ?_
          on_goal 2 => (clear_value a; intro _)
          on_goal 1 => (dsimp -zeta only [a]; clear a))
       | (refine Keeps.cut (m := a.1) ?_ ?_
          on_goal 2 => (clear_value a; intro _)
          on_goal 1 => (dsimp -zeta only [a]; clear a))
       | subst a)
    | with_reducible apply OutKeeps.refused
    | with_reducible apply OutKeeps.next
    | with_reducible apply State.atTime_keeps
    | with_reducible apply State.panelTemp_keeps
    | with_reducible apply OutKeeps.ite
    | intro _
    | split
    | dsimp -zeta only

theorem State.mapCommitOp_keeps {st0 s k} (hk : Keeps st0 s) : Keeps st0 (State.mapCommitOp s k) := by
  refine hk.trans ?_; clear hk
  unfold State.mapCommitOp
  repeat' first
    | with_reducible apply Keeps.refl
    | with_reducible assumption
    | (extract_lets +onlyGivenNames a
       first
       | (refine Keeps.cut (m := a) ?_ ?_
          on_goal 2 => (clear_value a; intro _)
          on_goal 1 => (dsimp -zeta only [a]; clear a))
       | (refine Keeps.cut (m := a.2) ?_ ?_
          on_goal 2 => (clear_value a; intro _)
          on_goal 1 => (dsimp -zeta only [a]; clear a))
       | (refine Keeps.cut (m := a.1) ?_ ?_
          on_goal 2 => (clear_value a; intro _)
          on_goal 1 => (dsimp -zeta only [a]; clear a))
       | subst a)
    | with_reducible apply State.answer_keeps
    | with_reducible apply State.setFld_keeps
    | with_reducible apply State.noteLk_keeps
    | ((with_reducible apply Keeps.of_snd); on_goal 1 => with_reducible assumption)
    | ((with_reducible apply Keeps.of_fst); on_goal 1 => with_reducible assumption)
    | ((with_reducible apply State.setPanel_same); on_goal 2 => rfl)
    | intro _
    | split
    | dsimp -zeta only

theorem execMapCommit_keeps {_p map t s} : OutKeeps s (execMapCommit _p map t s) := by
  unfold execMapCommit
  repeat' first
    | with_reducible apply Keeps.refl
    | with_reducible assumption
    | with_reducible apply OutKeeps.refused
    | with_reducible apply OutKeeps.next
    | with_reducible apply State.mapCommitOp_keeps
    | with_reducible apply State.atTime_keeps
    | with_reducible apply OutKeeps.ite
    | intro _
    | split
    | dsimp -zeta only

theorem State.mapWindowWrite_keeps {st0 s q v} (h : Keeps st0 s) : Keeps st0 (State.mapWindowWrite s q v) := by
  refine h.trans ?_
  unfold State.mapWindowWrite
  split
  · exact State.answer_keeps (Keeps.refl s)
  · exact State.answer_keeps (State.setPanel_keeps (State.noteLk_keeps (Keeps.refl s)) fun g =>
      memPut_wf (State.sound.maps g))

theorem State.segFrame_keeps {st0 s} (hk : Keeps st0 s) : Keeps st0 (State.segFrame s) := by
  refine hk.trans ?_; clear hk
  unfold State.segFrame
  repeat' first
    | with_reducible apply Keeps.refl
    | with_reducible assumption
    | (extract_lets +onlyGivenNames a
       first
       | (refine Keeps.cut (m := a) ?_ ?_
          on_goal 2 => (clear_value a; intro _)
          on_goal 1 => (dsimp -zeta only [a]; clear a))
       | (refine Keeps.cut (m := a.2) ?_ ?_
          on_goal 2 => (clear_value a; intro _)
          on_goal 1 => (dsimp -zeta only [a]; clear a))
       | (refine Keeps.cut (m := a.1) ?_ ?_
          on_goal 2 => (clear_value a; intro _)
          on_goal 1 => (dsimp -zeta only [a]; clear a))
       | subst a)
    | with_reducible apply State.setFld_keeps
    | ((with_reducible apply Keeps.of_snd); on_goal 1 => with_reducible assumption)
    | ((with_reducible apply Keeps.of_fst); on_goal 1 => with_reducible assumption)
    | ((with_reducible apply State.setPanel_same); on_goal 2 => rfl)
    | intro _
    | split
    | dsimp -zeta only

theorem execSegmentFrame_keeps {s} : OutKeeps s (execSegmentFrame s) := by
  unfold execSegmentFrame
  repeat' first
    | with_reducible apply Keeps.refl
    | with_reducible assumption
    | with_reducible apply OutKeeps.refused
    | with_reducible apply OutKeeps.next
    | with_reducible apply State.segFrame_keeps
    | with_reducible apply State.atTime_keeps
    | with_reducible apply OutKeeps.ite
    | intro _
    | split
    | dsimp -zeta only

theorem State.setDefer_keeps {st0 s on temp} (hk : Keeps st0 s) : Keeps st0 (State.setDefer s on temp) := by
  refine hk.trans ?_; clear hk
  unfold State.setDefer
  repeat' first
    | with_reducible apply Keeps.refl
    | with_reducible assumption
    | with_reducible apply State.kick_keeps
    | with_reducible apply State.raise_keeps
    | with_reducible apply State.setFlag_keeps
    | intro _
    | split
    | dsimp -zeta only

theorem State.badRow_keeps {st0 s r} (hk : Keeps st0 s) : Keeps st0 (State.badRow s r) := by
  refine hk.trans ?_; clear hk
  unfold State.badRow
  repeat' first
    | with_reducible apply Keeps.refl
    | with_reducible assumption
    | with_reducible apply State.raise_keeps
    | with_reducible apply State.setFld_keeps
    | with_reducible apply State.setBufRow_keeps
    | intro _
    | split
    | dsimp -zeta only

theorem State.replayJournal_keeps {st0 s rowsBad} (hk : Keeps st0 s) : Keeps st0 (State.replayJournal s rowsBad) := by
  refine hk.trans ?_; clear hk
  unfold State.replayJournal
  repeat' first
    | with_reducible apply Keeps.refl
    | with_reducible assumption
    | (extract_lets +onlyGivenNames a
       first
       | (refine Keeps.cut (m := a) ?_ ?_
          on_goal 2 => (clear_value a; intro _)
          on_goal 1 => (dsimp -zeta only [a]; clear a))
       | (refine Keeps.cut (m := a.2) ?_ ?_
          on_goal 2 => (clear_value a; intro _)
          on_goal 1 => (dsimp -zeta only [a]; clear a))
       | (refine Keeps.cut (m := a.1) ?_ ?_
          on_goal 2 => (clear_value a; intro _)
          on_goal 1 => (dsimp -zeta only [a]; clear a))
       | subst a)
    | with_reducible apply State.setBufRow_keeps
    | with_reducible apply State.badRow_keeps
    | with_reducible apply State.raise_keeps
    | with_reducible apply State.kick_keeps
    | with_reducible apply State.journalHeader_keeps
    | with_reducible apply foldS_keeps
    | with_reducible apply foldl_keeps
    | ((with_reducible apply Keeps.of_snd); on_goal 1 => with_reducible assumption)
    | ((with_reducible apply Keeps.of_fst); on_goal 1 => with_reducible assumption)
    | ((with_reducible apply State.setPanel_same); on_goal 2 => rfl)
    | intro _
    | split
    | dsimp -zeta only

theorem State.clearGlasshouse_keeps {st0 s} (hk : Keeps st0 s) : Keeps st0 (State.clearGlasshouse s) := by
  refine hk.trans ?_; clear hk
  unfold State.clearGlasshouse
  repeat' first
    | with_reducible apply Keeps.refl
    | with_reducible assumption
    | (extract_lets +onlyGivenNames a
       first
       | (refine Keeps.cut (m := a) ?_ ?_
          on_goal 2 => (clear_value a; intro _)
          on_goal 1 => (dsimp -zeta only [a]; clear a))
       | (refine Keeps.cut (m := a.2) ?_ ?_
          on_goal 2 => (clear_value a; intro _)
          on_goal 1 => (dsimp -zeta only [a]; clear a))
       | (refine Keeps.cut (m := a.1) ?_ ?_
          on_goal 2 => (clear_value a; intro _)
          on_goal 1 => (dsimp -zeta only [a]; clear a))
       | subst a)
    | with_reducible apply State.resetRegs_keeps
    | ((with_reducible apply Keeps.of_snd); on_goal 1 => with_reducible assumption)
    | ((with_reducible apply Keeps.of_fst); on_goal 1 => with_reducible assumption)
    | ((with_reducible apply State.setPanel_same); on_goal 2 => rfl)
    | intro _
    | split
    | dsimp -zeta only

theorem State.loadGlasshouse_keeps {st0 s mapsBad} (hk : Keeps st0 s) : Keeps st0 (State.loadGlasshouse s mapsBad).2 := by
  refine hk.trans ?_; clear hk
  unfold State.loadGlasshouse
  repeat' first
    | with_reducible apply Keeps.refl
    | with_reducible assumption
    | (extract_lets +onlyGivenNames a
       first
       | (refine Keeps.cut (m := a) ?_ ?_
          on_goal 2 => (clear_value a; intro _)
          on_goal 1 => (dsimp -zeta only [a]; clear a))
       | (refine Keeps.cut (m := a.2) ?_ ?_
          on_goal 2 => (clear_value a; intro _)
          on_goal 1 => (dsimp -zeta only [a]; clear a))
       | (refine Keeps.cut (m := a.1) ?_ ?_
          on_goal 2 => (clear_value a; intro _)
          on_goal 1 => (dsimp -zeta only [a]; clear a))
       | subst a)
    | with_reducible apply State.wr_keeps
    | with_reducible apply State.clearGlasshouse_keeps
    | with_reducible apply State.setFld_keeps
    | with_reducible apply State.raise_keeps
    | with_reducible apply State.setFlag_keeps
    | with_reducible apply foldS_keeps
    | with_reducible apply foldl_keeps
    | ((with_reducible apply Keeps.of_snd); on_goal 1 => with_reducible assumption)
    | ((with_reducible apply Keeps.of_fst); on_goal 1 => with_reducible assumption)
    | intro _
    | split
    | dsimp -zeta only

theorem State.panelAlternate_keeps {st0 s} (hk : Keeps st0 s) : Keeps st0 (State.panelAlternate s) := by
  refine hk.trans ?_; clear hk
  unfold State.panelAlternate
  repeat' first
    | with_reducible apply Keeps.refl
    | with_reducible assumption
    | (extract_lets +onlyGivenNames a
       first
       | (refine Keeps.cut (m := a) ?_ ?_
          on_goal 2 => (clear_value a; intro _)
          on_goal 1 => (dsimp -zeta only [a]; clear a))
       | (refine Keeps.cut (m := a.2) ?_ ?_
          on_goal 2 => (clear_value a; intro _)
          on_goal 1 => (dsimp -zeta only [a]; clear a))
       | (refine Keeps.cut (m := a.1) ?_ ?_
          on_goal 2 => (clear_value a; intro _)
          on_goal 1 => (dsimp -zeta only [a]; clear a))
       | subst a)
    | with_reducible apply State.wr_keeps
    | with_reducible apply State.setBufRow_keeps
    | with_reducible apply State.setFlag_keeps
    | with_reducible apply State.raise_keeps
    | with_reducible apply foldS_keeps
    | ((with_reducible apply Keeps.of_snd); on_goal 1 => with_reducible assumption)
    | ((with_reducible apply Keeps.of_fst); on_goal 1 => with_reducible assumption)
    | ((with_reducible apply State.setPanel_same); on_goal 2 => rfl)
    | intro _
    | split
    | dsimp -zeta only

theorem State.firstTickPanel_keeps {st0 s} (h : Keeps st0 s) : Keeps st0 (State.firstTickPanel s) := by
  refine h.trans ?_
  unfold State.firstTickPanel
  split
  · have g : Keeps s (s.setPanel { s.pnl with clearDue := false }) := State.setPanel_same (Keeps.refl s) rfl
    exact State.getD_keeps (fun t e => State.clearPanel_keeps g e) g
  · exact Keeps.refl s

theorem State.dropGlasshouse_keeps {st0 s} (hk : Keeps st0 s) : Keeps st0 (State.dropGlasshouse s) := by
  refine hk.trans ?_; clear hk
  unfold State.dropGlasshouse
  repeat' first
    | with_reducible apply Keeps.refl
    | with_reducible assumption
    | ((with_reducible apply Keeps.of_snd); on_goal 1 => with_reducible assumption)
    | ((with_reducible apply Keeps.of_fst); on_goal 1 => with_reducible assumption)
    | ((with_reducible apply State.setPanel_same); on_goal 2 => rfl)
    | intro _
    | split
    | dsimp -zeta only

theorem State.backGlasshouse_keeps {st0 s} (hk : Keeps st0 s) : Keeps st0 (State.backGlasshouse s) := by
  refine hk.trans ?_; clear hk
  unfold State.backGlasshouse
  repeat' first
    | with_reducible apply Keeps.refl
    | with_reducible assumption
    | (extract_lets +onlyGivenNames a
       first
       | (refine Keeps.cut (m := a) ?_ ?_
          on_goal 2 => (clear_value a; intro _)
          on_goal 1 => (dsimp -zeta only [a]; clear a))
       | (refine Keeps.cut (m := a.2) ?_ ?_
          on_goal 2 => (clear_value a; intro _)
          on_goal 1 => (dsimp -zeta only [a]; clear a))
       | (refine Keeps.cut (m := a.1) ?_ ?_
          on_goal 2 => (clear_value a; intro _)
          on_goal 1 => (dsimp -zeta only [a]; clear a))
       | subst a)
    | with_reducible apply State.loadGlasshouse_keeps
    | with_reducible apply State.raise_keeps
    | with_reducible apply State.setFlag_keeps
    | with_reducible apply State.replayJournal_keeps
    | ((with_reducible apply Keeps.of_snd); on_goal 1 => with_reducible assumption)
    | ((with_reducible apply Keeps.of_fst); on_goal 1 => with_reducible assumption)
    | ((with_reducible apply State.setPanel_same); on_goal 2 => rfl)
    | intro _
    | split
    | dsimp -zeta only

end Sys2Proof.Machine
end

