-- ==== Sys2Proof/Laws/KeepsGlissade.lean ====
section
/-! SUPPORT. Every operation of `Machine/Glissade.lean` keeps the queue and the canonical forms. -/

set_option linter.all false
set_option Elab.async false
set_option maxHeartbeats 60000

namespace Sys2Proof.Machine

theorem State.setAxis_keeps {o s n x} (k : Keeps o s) : Keeps o (State.setAxis s n x) := k.trans (Keeps.axes_ fun h => tabSet_wf (State.sound.axes h))

theorem State.setAxState_keeps {st0 s a st} (hk : Keeps st0 s) : Keeps st0 (State.setAxState s a st) := by
  refine hk.trans ?_; clear hk
  unfold State.setAxState
  repeat' first
    | with_reducible apply Keeps.refl
    | with_reducible assumption
    | with_reducible apply State.setFld_keeps
    | intro _
    | split
    | dsimp -zeta only

theorem State.setAx_keeps {st0 s a f v} (hk : Keeps st0 s) : Keeps st0 (State.setAx s a f v) := by
  refine hk.trans ?_; clear hk
  unfold State.setAx
  repeat' first
    | with_reducible apply Keeps.refl
    | with_reducible assumption
    | with_reducible apply State.setFld_keeps
    | intro _
    | split
    | dsimp -zeta only

theorem State.showTgt_keeps {st0 s a} (hk : Keeps st0 s) : Keeps st0 (State.showTgt s a) := by
  refine hk.trans ?_; clear hk
  unfold State.showTgt
  repeat' first
    | with_reducible apply Keeps.refl
    | with_reducible assumption
    | with_reducible apply State.setSfld_keeps
    | intro _
    | split
    | dsimp -zeta only

theorem State.noteTgt_keeps {st0 s a m} (hk : Keeps st0 s) : Keeps st0 (State.noteTgt s a m) := by
  refine hk.trans ?_; clear hk
  unfold State.noteTgt
  repeat' first
    | with_reducible apply Keeps.refl
    | with_reducible assumption
    | with_reducible apply State.showTgt_keeps
    | with_reducible apply State.setAxis_keeps
    | ((with_reducible apply Keeps.of_snd); on_goal 1 => with_reducible assumption)
    | ((with_reducible apply Keeps.of_fst); on_goal 1 => with_reducible assumption)
    | intro _
    | split
    | dsimp -zeta only

theorem State.setStaged_keeps {st0 s a v} (hk : Keeps st0 s) : Keeps st0 (State.setStaged s a v) := by
  refine hk.trans ?_; clear hk
  unfold State.setStaged
  repeat' first
    | with_reducible apply Keeps.refl
    | with_reducible assumption
    | with_reducible apply State.showTgt_keeps
    | with_reducible apply State.setAxis_keeps
    | intro _
    | split
    | dsimp -zeta only

theorem State.noteHomed_keeps {st0 s a st} (hk : Keeps st0 s) : Keeps st0 (State.noteHomed s a st) := by
  refine hk.trans ?_; clear hk
  unfold State.noteHomed
  repeat' first
    | with_reducible apply Keeps.refl
    | with_reducible assumption
    | with_reducible apply State.raise_keeps
    | ((with_reducible apply Keeps.of_snd); on_goal 1 => with_reducible assumption)
    | ((with_reducible apply Keeps.of_fst); on_goal 1 => with_reducible assumption)
    | intro _
    | split
    | dsimp -zeta only

theorem State.rest_keeps {st0 s a st} (hk : Keeps st0 s) : Keeps st0 (State.rest s a st) := by
  refine hk.trans ?_; clear hk
  unfold State.rest
  repeat' first
    | with_reducible apply Keeps.refl
    | with_reducible assumption
    | (extract_lets +onlyGivenNames a
       first
       | (refine Keeps.cut (m := a) ?_ ?_
          on_goal 2 => (clear_value a; intro _)
          on_goal 1 => (dsimp -zeta only [a]; clear a))
       | (refine Keeps.cut (m := a.2) ?_ ?_
          on_goal 2 => (clear_value a; intro _)
          on_goal 1 => (dsimp -zeta only [a]; clear a))
       | (refine Keeps.cut (m := a.1) ?_ ?_
          on_goal 2 => (clear_value a; intro _)
          on_goal 1 => (dsimp -zeta only [a]; clear a))
       | subst a)
    | with_reducible apply State.noteHomed_keeps
    | with_reducible apply State.setAxis_keeps
    | with_reducible apply State.setAx_keeps
    | with_reducible apply State.setFld_keeps
    | with_reducible apply State.toMirror_keeps
    | with_reducible apply State.setAxState_keeps
    | intro _
    | split
    | dsimp -zeta only

theorem State.emptyQueue_keeps {st0 s a} (hk : Keeps st0 s) : Keeps st0 (State.emptyQueue s a) := by
  refine hk.trans ?_; clear hk
  unfold State.emptyQueue
  repeat' first
    | with_reducible apply Keeps.refl
    | with_reducible assumption
    | with_reducible apply State.setAx_keeps
    | with_reducible apply State.setAxis_keeps
    | intro _
    | split
    | dsimp -zeta only

theorem State.applyHeld_keeps {st0 s a} (hk : Keeps st0 s) : Keeps st0 (State.applyHeld s a) := by
  refine hk.trans ?_; clear hk
  unfold State.applyHeld
  repeat' first
    | with_reducible apply Keeps.refl
    | with_reducible assumption
    | (extract_lets +onlyGivenNames a
       first
       | (refine Keeps.cut (m := a) ?_ ?_
          on_goal 2 => (clear_value a; intro _)
          on_goal 1 => (dsimp -zeta only [a]; clear a))
       | (refine Keeps.cut (m := a.2) ?_ ?_
          on_goal 2 => (clear_value a; intro _)
          on_goal 1 => (dsimp -zeta only [a]; clear a))
       | (refine Keeps.cut (m := a.1) ?_ ?_
          on_goal 2 => (clear_value a; intro _)
          on_goal 1 => (dsimp -zeta only [a]; clear a))
       | subst a)
    | with_reducible apply State.wr_keeps
    | with_reducible apply State.setAx_keeps
    | with_reducible apply State.setAxis_keeps
    | with_reducible apply foldS_keeps
    | ((with_reducible apply Keeps.of_snd); on_goal 1 => with_reducible assumption)
    | ((with_reducible apply Keeps.of_fst); on_goal 1 => with_reducible assumption)
    | intro _
    | split
    | dsimp -zeta only

theorem State.beginMove_keeps {st0 s a m st} (hk : Keeps st0 s) : Keeps st0 (State.beginMove s a m st) := by
  refine hk.trans ?_; clear hk
  unfold State.beginMove
  repeat' first
    | with_reducible apply Keeps.refl
    | with_reducible assumption
    | (extract_lets +onlyGivenNames a
       first
       | (refine Keeps.cut (m := a) ?_ ?_
          on_goal 2 => (clear_value a; intro _)
          on_goal 1 => (dsimp -zeta only [a]; clear a))
       | (refine Keeps.cut (m := a.2) ?_ ?_
          on_goal 2 => (clear_value a; intro _)
          on_goal 1 => (dsimp -zeta only [a]; clear a))
       | (refine Keeps.cut (m := a.1) ?_ ?_
          on_goal 2 => (clear_value a; intro _)
          on_goal 1 => (dsimp -zeta only [a]; clear a))
       | subst a)
    | with_reducible apply State.applyHeld_keeps
    | with_reducible apply State.setAxis_keeps
    | with_reducible apply State.setAxState_keeps
    | with_reducible apply State.noteTgt_keeps
    | intro _
    | split
    | dsimp -zeta only

theorem State.takeMotion_keeps {st0 s a m} (hk : Keeps st0 s) : Keeps st0 (State.takeMotion s a m) := by
  refine hk.trans ?_; clear hk
  unfold State.takeMotion
  repeat' first
    | with_reducible apply Keeps.refl
    | with_reducible assumption
    | with_reducible apply State.beginMove_keeps
    | with_reducible apply State.setAx_keeps
    | with_reducible apply State.setAxis_keeps
    | with_reducible apply State.noteTgt_keeps
    | intro _
    | split
    | dsimp -zeta only

theorem State.motionOp_keeps {st0 s a m} (hk : Keeps st0 s) : Keeps st0 (State.motionOp s a m) := by
  refine hk.trans ?_; clear hk
  unfold State.motionOp
  repeat' first
    | with_reducible apply Keeps.refl
    | with_reducible assumption
    | with_reducible apply State.answer_keeps
    | with_reducible apply State.takeMotion_keeps
    | intro _
    | split
    | dsimp -zeta only

theorem State.moveaOp_keeps {st0 s a v} (hk : Keeps st0 s) : Keeps st0 (State.moveaOp s a v) := by
  refine hk.trans ?_; clear hk
  unfold State.moveaOp
  repeat' first
    | with_reducible apply Keeps.refl
    | with_reducible assumption
    | with_reducible apply State.answer_keeps
    | with_reducible apply State.motionOp_keeps
    | ((with_reducible apply Keeps.of_snd); on_goal 1 => with_reducible assumption)
    | ((with_reducible apply Keeps.of_fst); on_goal 1 => with_reducible assumption)
    | intro _
    | split
    | dsimp -zeta only

theorem State.moverOp_keeps {st0 s a v} (hk : Keeps st0 s) : Keeps st0 (State.moverOp s a v) := by
  refine hk.trans ?_; clear hk
  unfold State.moverOp
  repeat' first
    | with_reducible apply Keeps.refl
    | with_reducible assumption
    | with_reducible apply State.answer_keeps
    | with_reducible apply State.motionOp_keeps
    | ((with_reducible apply Keeps.of_snd); on_goal 1 => with_reducible assumption)
    | ((with_reducible apply Keeps.of_fst); on_goal 1 => with_reducible assumption)
    | intro _
    | split
    | dsimp -zeta only

theorem State.toStopping_keeps {st0 s a} (hk : Keeps st0 s) : Keeps st0 (State.toStopping s a) := by
  refine hk.trans ?_; clear hk
  unfold State.toStopping
  repeat' first
    | with_reducible apply Keeps.refl
    | with_reducible assumption
    | with_reducible apply State.setAxState_keeps
    | with_reducible apply foldS_keeps
    | ((with_reducible apply Keeps.of_snd); on_goal 1 => with_reducible assumption)
    | ((with_reducible apply Keeps.of_fst); on_goal 1 => with_reducible assumption)
    | intro _
    | split
    | dsimp -zeta only

theorem State.endHoming_keeps {st0 s a} (hk : Keeps st0 s) : Keeps st0 (State.endHoming s a) := by
  refine hk.trans ?_; clear hk
  unfold State.endHoming
  repeat' first
    | with_reducible apply Keeps.refl
    | with_reducible assumption
    | (extract_lets +onlyGivenNames a
       first
       | (refine Keeps.cut (m := a) ?_ ?_
          on_goal 2 => (clear_value a; intro _)
          on_goal 1 => (dsimp -zeta only [a]; clear a))
       | (refine Keeps.cut (m := a.2) ?_ ?_
          on_goal 2 => (clear_value a; intro _)
          on_goal 1 => (dsimp -zeta only [a]; clear a))
       | (refine Keeps.cut (m := a.1) ?_ ?_
          on_goal 2 => (clear_value a; intro _)
          on_goal 1 => (dsimp -zeta only [a]; clear a))
       | subst a)
    | with_reducible apply State.setAxis_keeps
    | with_reducible apply State.setAxState_keeps
    | with_reducible apply State.setAx_keeps
    | intro _
    | split
    | dsimp -zeta only

theorem State.stopAxis_keeps {st0 s a} (hk : Keeps st0 s) : Keeps st0 (State.stopAxis s a) := by
  refine hk.trans ?_; clear hk
  unfold State.stopAxis
  repeat' first
    | with_reducible apply Keeps.refl
    | with_reducible assumption
    | (extract_lets +onlyGivenNames a
       first
       | (refine Keeps.cut (m := a) ?_ ?_
          on_goal 2 => (clear_value a; intro _)
          on_goal 1 => (dsimp -zeta only [a]; clear a))
       | (refine Keeps.cut (m := a.2) ?_ ?_
          on_goal 2 => (clear_value a; intro _)
          on_goal 1 => (dsimp -zeta only [a]; clear a))
       | (refine Keeps.cut (m := a.1) ?_ ?_
          on_goal 2 => (clear_value a; intro _)
          on_goal 1 => (dsimp -zeta only [a]; clear a))
       | subst a)
    | with_reducible apply State.emptyQueue_keeps
    | with_reducible apply State.toStopping_keeps
    | with_reducible apply State.endHoming_keeps
    | with_reducible apply State.setAx_keeps
    | intro _
    | split
    | dsimp -zeta only

theorem State.axisStopOp_keeps {st0 s a} (hk : Keeps st0 s) : Keeps st0 (State.axisStopOp s a) := by
  refine hk.trans ?_; clear hk
  unfold State.axisStopOp
  repeat' first
    | with_reducible apply Keeps.refl
    | with_reducible assumption
    | with_reducible apply State.answer_keeps
    | with_reducible apply State.stopAxis_keeps
    | ((with_reducible apply Keeps.of_snd); on_goal 1 => with_reducible assumption)
    | ((with_reducible apply Keeps.of_fst); on_goal 1 => with_reducible assumption)
    | intro _
    | split
    | dsimp -zeta only

theorem State.jogOp_keeps {st0 s a v} (hk : Keeps st0 s) : Keeps st0 (State.jogOp s a v) := by
  refine hk.trans ?_; clear hk
  unfold State.jogOp
  repeat' first
    | with_reducible apply Keeps.refl
    | with_reducible assumption
    | with_reducible apply State.answer_keeps
    | with_reducible apply State.stopAxis_keeps
    | with_reducible apply State.motionOp_keeps
    | ((with_reducible apply Keeps.of_snd); on_goal 1 => with_reducible assumption)
    | ((with_reducible apply Keeps.of_fst); on_goal 1 => with_reducible assumption)
    | intro _
    | split
    | dsimp -zeta only

theorem State.homeFails_keeps {st0 s a cause} (hk : Keeps st0 s) : Keeps st0 (State.homeFails s a cause) := by
  refine hk.trans ?_; clear hk
  unfold State.homeFails
  repeat' first
    | with_reducible apply Keeps.refl
    | with_reducible assumption
    | (extract_lets +onlyGivenNames a
       first
       | (refine Keeps.cut (m := a) ?_ ?_
          on_goal 2 => (clear_value a; intro _)
          on_goal 1 => (dsimp -zeta only [a]; clear a))
       | (refine Keeps.cut (m := a.2) ?_ ?_
          on_goal 2 => (clear_value a; intro _)
          on_goal 1 => (dsimp -zeta only [a]; clear a))
       | (refine Keeps.cut (m := a.1) ?_ ?_
          on_goal 2 => (clear_value a; intro _)
          on_goal 1 => (dsimp -zeta only [a]; clear a))
       | subst a)
    | with_reducible apply State.raise_keeps
    | with_reducible apply State.setAx_keeps
    | intro _
    | split
    | dsimp -zeta only

theorem State.noteRamp_keeps {st0 s a cause} (hk : Keeps st0 s) : Keeps st0 (State.noteRamp s a cause) := by
  refine hk.trans ?_; clear hk
  unfold State.noteRamp
  repeat' first
    | with_reducible apply Keeps.refl
    | with_reducible assumption
    | with_reducible apply State.raise_keeps
    | with_reducible apply State.setAx_keeps
    | intro _
    | split
    | dsimp -zeta only

theorem State.emergency_keeps {st0 s a cause} (hk : Keeps st0 s) : Keeps st0 (State.emergency s a cause) := by
  refine hk.trans ?_; clear hk
  unfold State.emergency
  repeat' first
    | with_reducible apply Keeps.refl
    | with_reducible assumption
    | (extract_lets +onlyGivenNames a
       first
       | (refine Keeps.cut (m := a) ?_ ?_
          on_goal 2 => (clear_value a; intro _)
          on_goal 1 => (dsimp -zeta only [a]; clear a))
       | (refine Keeps.cut (m := a.2) ?_ ?_
          on_goal 2 => (clear_value a; intro _)
          on_goal 1 => (dsimp -zeta only [a]; clear a))
       | (refine Keeps.cut (m := a.1) ?_ ?_
          on_goal 2 => (clear_value a; intro _)
          on_goal 1 => (dsimp -zeta only [a]; clear a))
       | subst a)
    | with_reducible apply State.rest_keeps
    | with_reducible apply State.noteRamp_keeps
    | with_reducible apply State.emptyQueue_keeps
    | with_reducible apply State.setAx_keeps
    | with_reducible apply State.homeFails_keeps
    | with_reducible apply State.setAxState_keeps
    | with_reducible apply foldS_keeps
    | ((with_reducible apply Keeps.of_snd); on_goal 1 => with_reducible assumption)
    | ((with_reducible apply Keeps.of_fst); on_goal 1 => with_reducible assumption)
    | intro _
    | split
    | dsimp -zeta only

theorem State.estopOp_keeps {st0 s a} (hk : Keeps st0 s) : Keeps st0 (State.estopOp s a) := by
  refine hk.trans ?_; clear hk
  unfold State.estopOp
  repeat' first
    | with_reducible apply Keeps.refl
    | with_reducible assumption
    | with_reducible apply State.answer_keeps
    | with_reducible apply State.emergency_keeps
    | ((with_reducible apply Keeps.of_snd); on_goal 1 => with_reducible assumption)
    | ((with_reducible apply Keeps.of_fst); on_goal 1 => with_reducible assumption)
    | intro _
    | split
    | dsimp -zeta only

theorem State.setHeld_keeps {st0 s a k v} (hk : Keeps st0 s) : Keeps st0 (State.setHeld s a k v) := by
  refine hk.trans ?_; clear hk
  unfold State.setHeld
  repeat' first
    | with_reducible apply Keeps.refl
    | with_reducible assumption
    | (extract_lets +onlyGivenNames a
       first
       | (refine Keeps.cut (m := a) ?_ ?_
          on_goal 2 => (clear_value a; intro _)
          on_goal 1 => (dsimp -zeta only [a]; clear a))
       | (refine Keeps.cut (m := a.2) ?_ ?_
          on_goal 2 => (clear_value a; intro _)
          on_goal 1 => (dsimp -zeta only [a]; clear a))
       | (refine Keeps.cut (m := a.1) ?_ ?_
          on_goal 2 => (clear_value a; intro _)
          on_goal 1 => (dsimp -zeta only [a]; clear a))
       | subst a)
    | with_reducible apply State.setAx_keeps
    | with_reducible apply State.setAxis_keeps
    | intro _
    | split
    | dsimp -zeta only

theorem State.setparOp_keeps {st0 s a k v} (hk : Keeps st0 s) : Keeps st0 (State.setparOp s a k v) := by
  refine hk.trans ?_; clear hk
  unfold State.setparOp
  repeat' first
    | with_reducible apply Keeps.refl
    | with_reducible assumption
    | with_reducible apply State.answer_keeps
    | with_reducible apply State.setHeld_keeps
    | with_reducible apply State.wr_keeps
    | intro _
    | split
    | dsimp -zeta only

theorem State.homePhase_keeps {st0 s a ph} (hk : Keeps st0 s) : Keeps st0 (State.homePhase s a ph) := by
  refine hk.trans ?_; clear hk
  unfold State.homePhase
  repeat' first
    | with_reducible apply Keeps.refl
    | with_reducible assumption
    | with_reducible apply State.setAx_keeps
    | with_reducible apply State.setAxis_keeps
    | intro _
    | split
    | dsimp -zeta only

theorem State.homeOp_keeps {st0 s a} (hk : Keeps st0 s) : Keeps st0 (State.homeOp s a) := by
  refine hk.trans ?_; clear hk
  unfold State.homeOp
  repeat' first
    | with_reducible apply Keeps.refl
    | with_reducible assumption
    | (extract_lets +onlyGivenNames a
       first
       | (refine Keeps.cut (m := a) ?_ ?_
          on_goal 2 => (clear_value a; intro _)
          on_goal 1 => (dsimp -zeta only [a]; clear a))
       | (refine Keeps.cut (m := a.2) ?_ ?_
          on_goal 2 => (clear_value a; intro _)
          on_goal 1 => (dsimp -zeta only [a]; clear a))
       | (refine Keeps.cut (m := a.1) ?_ ?_
          on_goal 2 => (clear_value a; intro _)
          on_goal 1 => (dsimp -zeta only [a]; clear a))
       | subst a)
    | with_reducible apply State.answer_keeps
    | with_reducible apply State.setAx_keeps
    | with_reducible apply State.applyHeld_keeps
    | with_reducible apply State.setAxis_keeps
    | with_reducible apply State.homePhase_keeps
    | with_reducible apply State.setAxState_keeps
    | ((with_reducible apply Keeps.of_snd); on_goal 1 => with_reducible assumption)
    | ((with_reducible apply Keeps.of_fst); on_goal 1 => with_reducible assumption)
    | intro _
    | split
    | dsimp -zeta only

theorem State.axisEnableOp_keeps {st0 s a} (hk : Keeps st0 s) : Keeps st0 (State.axisEnableOp s a) := by
  refine hk.trans ?_; clear hk
  unfold State.axisEnableOp
  repeat' first
    | with_reducible apply Keeps.refl
    | with_reducible assumption
    | (extract_lets +onlyGivenNames a
       first
       | (refine Keeps.cut (m := a) ?_ ?_
          on_goal 2 => (clear_value a; intro _)
          on_goal 1 => (dsimp -zeta only [a]; clear a))
       | (refine Keeps.cut (m := a.2) ?_ ?_
          on_goal 2 => (clear_value a; intro _)
          on_goal 1 => (dsimp -zeta only [a]; clear a))
       | (refine Keeps.cut (m := a.1) ?_ ?_
          on_goal 2 => (clear_value a; intro _)
          on_goal 1 => (dsimp -zeta only [a]; clear a))
       | subst a)
    | with_reducible apply State.answer_keeps
    | with_reducible apply State.setAxis_keeps
    | with_reducible apply State.rest_keeps
    | ((with_reducible apply Keeps.of_snd); on_goal 1 => with_reducible assumption)
    | ((with_reducible apply Keeps.of_fst); on_goal 1 => with_reducible assumption)
    | intro _
    | split
    | dsimp -zeta only

theorem State.axisDisableOp_keeps {st0 s a} (hk : Keeps st0 s) : Keeps st0 (State.axisDisableOp s a) := by
  refine hk.trans ?_; clear hk
  unfold State.axisDisableOp
  repeat' first
    | with_reducible apply Keeps.refl
    | with_reducible assumption
    | with_reducible apply State.answer_keeps
    | with_reducible apply State.rest_keeps
    | with_reducible apply State.setAxis_keeps
    | ((with_reducible apply Keeps.of_snd); on_goal 1 => with_reducible assumption)
    | ((with_reducible apply Keeps.of_fst); on_goal 1 => with_reducible assumption)
    | intro _
    | split
    | dsimp -zeta only

theorem State.tblwrOp_keeps {st0 s a t k v} (hk : Keeps st0 s) : Keeps st0 (State.tblwrOp s a t k v) := by
  refine hk.trans ?_; clear hk
  unfold State.tblwrOp
  repeat' first
    | with_reducible apply Keeps.refl
    | with_reducible assumption
    | with_reducible apply State.answer_keeps
    | with_reducible apply State.setFld_keeps
    | ((with_reducible apply Keeps.of_snd); on_goal 1 => with_reducible assumption)
    | ((with_reducible apply Keeps.of_fst); on_goal 1 => with_reducible assumption)
    | intro _
    | split
    | dsimp -zeta only

theorem State.tblselOp_keeps {st0 s a t switch publish} (hk : Keeps st0 s) : Keeps st0 (State.tblselOp s a t switch publish) := by
  refine hk.trans ?_; clear hk
  unfold State.tblselOp
  repeat' first
    | with_reducible apply Keeps.refl
    | with_reducible assumption
    | with_reducible apply State.answer_keeps
    | with_reducible apply State.setAx_keeps
    | with_reducible apply State.setAxis_keeps
    | ((with_reducible apply Keeps.of_snd); on_goal 1 => with_reducible assumption)
    | ((with_reducible apply Keeps.of_fst); on_goal 1 => with_reducible assumption)
    | intro _
    | split
    | dsimp -zeta only

theorem State.gtgtOp_keeps {st0 s a v} (hk : Keeps st0 s) : Keeps st0 (State.gtgtOp s a v) := by
  refine hk.trans ?_; clear hk
  unfold State.gtgtOp
  repeat' first
    | with_reducible apply Keeps.refl
    | with_reducible assumption
    | with_reducible apply State.answer_keeps
    | with_reducible apply State.setStaged_keeps
    | ((with_reducible apply Keeps.of_snd); on_goal 1 => with_reducible assumption)
    | ((with_reducible apply Keeps.of_fst); on_goal 1 => with_reducible assumption)
    | intro _
    | split
    | dsimp -zeta only

theorem State.presetOp_keeps {st0 s a v} (hk : Keeps st0 s) : Keeps st0 (State.presetOp s a v) := by
  refine hk.trans ?_; clear hk
  unfold State.presetOp
  repeat' first
    | with_reducible apply Keeps.refl
    | with_reducible assumption
    | with_reducible apply State.answer_keeps
    | with_reducible apply State.setAx_keeps
    | with_reducible apply State.setSfld_keeps
    | ((with_reducible apply Keeps.of_snd); on_goal 1 => with_reducible assumption)
    | ((with_reducible apply Keeps.of_fst); on_goal 1 => with_reducible assumption)
    | intro _
    | split
    | dsimp -zeta only

theorem State.sampleNflt_keeps {st0 s a} (hk : Keeps st0 s) : Keeps st0 (State.sampleNflt s a) := by
  refine hk.trans ?_; clear hk
  unfold State.sampleNflt
  repeat' first
    | with_reducible apply Keeps.refl
    | with_reducible assumption
    | with_reducible apply State.setAxis_keeps
    | with_reducible apply State.freshWord_keeps
    | intro _
    | split
    | dsimp -zeta only

theorem State.axisClearOp_keeps {st0 s a} (hk : Keeps st0 s) : Keeps st0 (State.axisClearOp s a) := by
  refine hk.trans ?_; clear hk
  unfold State.axisClearOp
  repeat' first
    | with_reducible apply Keeps.refl
    | with_reducible assumption
    | (extract_lets +onlyGivenNames a
       first
       | (refine Keeps.cut (m := a) ?_ ?_
          on_goal 2 => (clear_value a; intro _)
          on_goal 1 => (dsimp -zeta only [a]; clear a))
       | (refine Keeps.cut (m := a.2) ?_ ?_
          on_goal 2 => (clear_value a; intro _)
          on_goal 1 => (dsimp -zeta only [a]; clear a))
       | (refine Keeps.cut (m := a.1) ?_ ?_
          on_goal 2 => (clear_value a; intro _)
          on_goal 1 => (dsimp -zeta only [a]; clear a))
       | subst a)
    | with_reducible apply State.answer_keeps
    | with_reducible apply State.sampleNflt_keeps
    | with_reducible apply State.setAx_keeps
    | with_reducible apply State.rest_keeps
    | ((with_reducible apply Keeps.of_snd); on_goal 1 => with_reducible assumption)
    | ((with_reducible apply Keeps.of_fst); on_goal 1 => with_reducible assumption)
    | intro _
    | split
    | dsimp -zeta only

theorem State.joinGroup_keeps {st0 s g ld dl b} (hk : Keeps st0 s) : Keeps st0 (State.joinGroup s g ld dl b) := by
  refine hk.trans ?_; clear hk
  unfold State.joinGroup
  repeat' first
    | with_reducible apply Keeps.refl
    | with_reducible assumption
    | (extract_lets +onlyGivenNames a
       first
       | (refine Keeps.cut (m := a) ?_ ?_
          on_goal 2 => (clear_value a; intro _)
          on_goal 1 => (dsimp -zeta only [a]; clear a))
       | (refine Keeps.cut (m := a.2) ?_ ?_
          on_goal 2 => (clear_value a; intro _)
          on_goal 1 => (dsimp -zeta only [a]; clear a))
       | (refine Keeps.cut (m := a.1) ?_ ?_
          on_goal 2 => (clear_value a; intro _)
          on_goal 1 => (dsimp -zeta only [a]; clear a))
       | subst a)
    | with_reducible apply State.setStaged_keeps
    | with_reducible apply State.beginMove_keeps
    | with_reducible apply State.setAx_keeps
    | with_reducible apply State.setAxis_keeps
    | intro _
    | split
    | dsimp -zeta only

theorem State.ggoOp_keeps {st0 s g m} (hk : Keeps st0 s) : Keeps st0 (State.ggoOp s g m) := by
  refine hk.trans ?_; clear hk
  unfold State.ggoOp
  repeat' first
    | with_reducible apply Keeps.refl
    | with_reducible assumption
    | (extract_lets +onlyGivenNames a
       first
       | (refine Keeps.cut (m := a) ?_ ?_
          on_goal 2 => (clear_value a; intro _)
          on_goal 1 => (dsimp -zeta only [a]; clear a))
       | (refine Keeps.cut (m := a.2) ?_ ?_
          on_goal 2 => (clear_value a; intro _)
          on_goal 1 => (dsimp -zeta only [a]; clear a))
       | (refine Keeps.cut (m := a.1) ?_ ?_
          on_goal 2 => (clear_value a; intro _)
          on_goal 1 => (dsimp -zeta only [a]; clear a))
       | subst a)
    | with_reducible apply State.answer_keeps
    | with_reducible apply State.setStaged_keeps
    | with_reducible apply State.joinGroup_keeps
    | with_reducible apply foldS_keeps
    | ((with_reducible apply Keeps.of_snd); on_goal 1 => with_reducible assumption)
    | ((with_reducible apply Keeps.of_fst); on_goal 1 => with_reducible assumption)
    | intro _
    | split
    | dsimp -zeta only

theorem execMovea_keeps {ax v s} : OutKeeps s (execMovea ax v s) := by
  unfold execMovea
  repeat' first
    | with_reducible apply Keeps.refl
    | with_reducible assumption
    | with_reducible apply OutKeeps.refused
    | with_reducible apply OutKeeps.next
    | with_reducible apply State.moveaOp_keeps
    | with_reducible apply OutKeeps.ite
    | intro _
    | split
    | dsimp -zeta only

theorem execMover_keeps {ax v s} : OutKeeps s (execMover ax v s) := by
  unfold execMover
  repeat' first
    | with_reducible apply Keeps.refl
    | with_reducible assumption
    | with_reducible apply OutKeeps.refused
    | with_reducible apply OutKeeps.next
    | with_reducible apply State.moverOp_keeps
    | with_reducible apply OutKeeps.ite
    | intro _
    | split
    | dsimp -zeta only

theorem execJog_keeps {ax v s} : OutKeeps s (execJog ax v s) := by
  unfold execJog
  repeat' first
    | with_reducible apply Keeps.refl
    | with_reducible assumption
    | with_reducible apply OutKeeps.refused
    | with_reducible apply OutKeeps.next
    | with_reducible apply State.jogOp_keeps
    | with_reducible apply OutKeeps.ite
    | intro _
    | split
    | dsimp -zeta only

theorem execAxisStop_keeps {ax s} : OutKeeps s (execAxisStop ax s) := by
  unfold execAxisStop
  repeat' first
    | with_reducible apply Keeps.refl
    | with_reducible assumption
    | with_reducible apply OutKeeps.refused
    | with_reducible apply OutKeeps.next
    | with_reducible apply State.axisStopOp_keeps
    | with_reducible apply OutKeeps.ite
    | intro _
    | split
    | dsimp -zeta only

theorem execEstop_keeps {ax s} : OutKeeps s (execEstop ax s) := by
  unfold execEstop
  repeat' first
    | with_reducible apply Keeps.refl
    | with_reducible assumption
    | with_reducible apply OutKeeps.refused
    | with_reducible apply OutKeeps.next
    | with_reducible apply State.estopOp_keeps
    | with_reducible apply OutKeeps.ite
    | intro _
    | split
    | dsimp -zeta only

theorem execSetpar_keeps {ax par v s} : OutKeeps s (execSetpar ax par v s) := by
  unfold execSetpar
  repeat' first
    | with_reducible apply Keeps.refl
    | with_reducible assumption
    | with_reducible apply OutKeeps.refused
    | with_reducible apply OutKeeps.next
    | with_reducible apply State.setparOp_keeps
    | with_reducible apply OutKeeps.ite
    | intro _
    | split
    | dsimp -zeta only

theorem execHome_keeps {ax s} : OutKeeps s (execHome ax s) := by
  unfold execHome
  repeat' first
    | with_reducible apply Keeps.refl
    | with_reducible assumption
    | with_reducible apply OutKeeps.refused
    | with_reducible apply OutKeeps.next
    | with_reducible apply State.homeOp_keeps
    | with_reducible apply OutKeeps.ite
    | intro _
    | split
    | dsimp -zeta only

theorem execAxisEnable_keeps {ax s} : OutKeeps s (execAxisEnable ax s) := by
  unfold execAxisEnable
  repeat' first
    | with_reducible apply Keeps.refl
    | with_reducible assumption
    | with_reducible apply OutKeeps.refused
    | with_reducible apply OutKeeps.next
    | with_reducible apply State.axisEnableOp_keeps
    | with_reducible apply OutKeeps.ite
    | intro _
    | split
    | dsimp -zeta only

theorem execAxisDisable_keeps {ax s} : OutKeeps s (execAxisDisable ax s) := by
  unfold execAxisDisable
  repeat' first
    | with_reducible apply Keeps.refl
    | with_reducible assumption
    | with_reducible apply OutKeeps.refused
    | with_reducible apply OutKeeps.next
    | with_reducible apply State.axisDisableOp_keeps
    | with_reducible apply OutKeeps.ite
    | intro _
    | split
    | dsimp -zeta only

theorem execTblwr_keeps {ax tbl k v s} : OutKeeps s (execTblwr ax tbl k v s) := by
  unfold execTblwr
  repeat' first
    | with_reducible apply Keeps.refl
    | with_reducible assumption
    | with_reducible apply OutKeeps.refused
    | with_reducible apply OutKeeps.next
    | with_reducible apply State.tblwrOp_keeps
    | with_reducible apply OutKeeps.ite
    | intro _
    | split
    | dsimp -zeta only

theorem execTblsel_keeps {ax tbl switch publish s} : OutKeeps s (execTblsel ax tbl switch publish s) := by
  unfold execTblsel
  repeat' first
    | with_reducible apply Keeps.refl
    | with_reducible assumption
    | with_reducible apply OutKeeps.refused
    | with_reducible apply OutKeeps.next
    | with_reducible apply State.tblselOp_keeps
    | with_reducible apply OutKeeps.ite
    | intro _
    | split
    | dsimp -zeta only

theorem execGtgt_keeps {ax v s} : OutKeeps s (execGtgt ax v s) := by
  unfold execGtgt
  repeat' first
    | with_reducible apply Keeps.refl
    | with_reducible assumption
    | with_reducible apply OutKeeps.refused
    | with_reducible apply OutKeeps.next
    | with_reducible apply State.gtgtOp_keeps
    | with_reducible apply OutKeeps.ite
    | intro _
    | split
    | dsimp -zeta only

theorem execGgo_keeps {ax mask s} : OutKeeps s (execGgo ax mask s) := by
  unfold execGgo
  repeat' first
    | with_reducible apply Keeps.refl
    | with_reducible assumption
    | with_reducible apply OutKeeps.refused
    | with_reducible apply OutKeeps.next
    | with_reducible apply State.ggoOp_keeps
    | with_reducible apply OutKeeps.ite
    | intro _
    | split
    | dsimp -zeta only

theorem execPreset_keeps {ax v s} : OutKeeps s (execPreset ax v s) := by
  unfold execPreset
  repeat' first
    | with_reducible apply Keeps.refl
    | with_reducible assumption
    | with_reducible apply OutKeeps.refused
    | with_reducible apply OutKeeps.next
    | with_reducible apply State.presetOp_keeps
    | with_reducible apply OutKeeps.ite
    | intro _
    | split
    | dsimp -zeta only

theorem execAxisClear_keeps {ax s} : OutKeeps s (execAxisClear ax s) := by
  unfold execAxisClear
  repeat' first
    | with_reducible apply Keeps.refl
    | with_reducible assumption
    | with_reducible apply OutKeeps.refused
    | with_reducible apply OutKeeps.next
    | with_reducible apply State.axisClearOp_keeps
    | with_reducible apply OutKeeps.ite
    | intro _
    | split
    | dsimp -zeta only

theorem State.publish_keeps {st0 s a t} (hk : Keeps st0 s) : Keeps st0 (State.publish s a t) := by
  refine hk.trans ?_; clear hk
  unfold State.publish
  repeat' first
    | with_reducible apply Keeps.refl
    | with_reducible assumption
    | with_reducible apply State.wrAll_keeps
    | ((with_reducible apply Keeps.of_snd); on_goal 1 => with_reducible assumption)
    | ((with_reducible apply Keeps.of_fst); on_goal 1 => with_reducible assumption)
    | intro _
    | split
    | dsimp -zeta only

theorem State.applyTbl_keeps {st0 s a} (hk : Keeps st0 s) : Keeps st0 (State.applyTbl s a) := by
  refine hk.trans ?_; clear hk
  unfold State.applyTbl
  repeat' first
    | with_reducible apply Keeps.refl
    | with_reducible assumption
    | (extract_lets +onlyGivenNames a
       first
       | (refine Keeps.cut (m := a) ?_ ?_
          on_goal 2 => (clear_value a; intro _)
          on_goal 1 => (dsimp -zeta only [a]; clear a))
       | (refine Keeps.cut (m := a.2) ?_ ?_
          on_goal 2 => (clear_value a; intro _)
          on_goal 1 => (dsimp -zeta only [a]; clear a))
       | (refine Keeps.cut (m := a.1) ?_ ?_
          on_goal 2 => (clear_value a; intro _)
          on_goal 1 => (dsimp -zeta only [a]; clear a))
       | subst a)
    | with_reducible apply State.publish_keeps
    | with_reducible apply State.setAx_keeps
    | with_reducible apply State.setAxis_keeps
    | ((with_reducible apply Keeps.of_snd); on_goal 1 => with_reducible assumption)
    | ((with_reducible apply Keeps.of_fst); on_goal 1 => with_reducible assumption)
    | intro _
    | split
    | dsimp -zeta only

theorem State.stepTo_keeps {st0 s a q} (hk : Keeps st0 s) : Keeps st0 (State.stepTo s a q) := by
  refine hk.trans ?_; clear hk
  unfold State.stepTo
  repeat' first
    | with_reducible apply Keeps.refl
    | with_reducible assumption
    | (extract_lets +onlyGivenNames a
       first
       | (refine Keeps.cut (m := a) ?_ ?_
          on_goal 2 => (clear_value a; intro _)
          on_goal 1 => (dsimp -zeta only [a]; clear a))
       | (refine Keeps.cut (m := a.2) ?_ ?_
          on_goal 2 => (clear_value a; intro _)
          on_goal 1 => (dsimp -zeta only [a]; clear a))
       | (refine Keeps.cut (m := a.1) ?_ ?_
          on_goal 2 => (clear_value a; intro _)
          on_goal 1 => (dsimp -zeta only [a]; clear a))
       | subst a)
    | with_reducible apply State.setSfld_keeps
    | with_reducible apply State.applyTbl_keeps
    | with_reducible apply State.applyIf_keeps
    | ((with_reducible apply Keeps.of_snd); on_goal 1 => with_reducible assumption)
    | ((with_reducible apply Keeps.of_fst); on_goal 1 => with_reducible assumption)
    | intro _
    | split
    | dsimp -zeta only

theorem State.setSpeed_keeps {st0 s a w frac} (hk : Keeps st0 s) : Keeps st0 (State.setSpeed s a w frac) := by
  refine hk.trans ?_; clear hk
  unfold State.setSpeed
  repeat' first
    | with_reducible apply Keeps.refl
    | with_reducible assumption
    | (extract_lets +onlyGivenNames a
       first
       | (refine Keeps.cut (m := a) ?_ ?_
          on_goal 2 => (clear_value a; intro _)
          on_goal 1 => (dsimp -zeta only [a]; clear a))
       | (refine Keeps.cut (m := a.2) ?_ ?_
          on_goal 2 => (clear_value a; intro _)
          on_goal 1 => (dsimp -zeta only [a]; clear a))
       | (refine Keeps.cut (m := a.1) ?_ ?_
          on_goal 2 => (clear_value a; intro _)
          on_goal 1 => (dsimp -zeta only [a]; clear a))
       | subst a)
    | with_reducible apply State.setAxis_keeps
    | intro _
    | split
    | dsimp -zeta only

theorem State.makeSteps_keeps {st0 s a d n} (hk : Keeps st0 s) : Keeps st0 (State.makeSteps s a d n) := by
  refine hk.trans ?_; clear hk
  unfold State.makeSteps
  repeat' first
    | with_reducible apply Keeps.refl
    | with_reducible assumption
    | (extract_lets +onlyGivenNames a
       first
       | (refine Keeps.cut (m := a) ?_ ?_
          on_goal 2 => (clear_value a; intro _)
          on_goal 1 => (dsimp -zeta only [a]; clear a))
       | (refine Keeps.cut (m := a.2) ?_ ?_
          on_goal 2 => (clear_value a; intro _)
          on_goal 1 => (dsimp -zeta only [a]; clear a))
       | (refine Keeps.cut (m := a.1) ?_ ?_
          on_goal 2 => (clear_value a; intro _)
          on_goal 1 => (dsimp -zeta only [a]; clear a))
       | subst a)
    | with_reducible apply State.stepTo_keeps
    | with_reducible apply State.setAxis_keeps
    | intro _
    | split
    | dsimp -zeta only

theorem State.soloUpdate_keeps {st0 s a} (hk : Keeps st0 s) : Keeps st0 (State.soloUpdate s a) := by
  refine hk.trans ?_; clear hk
  unfold State.soloUpdate
  repeat' first
    | with_reducible apply Keeps.refl
    | with_reducible assumption
    | (extract_lets +onlyGivenNames a
       first
       | (refine Keeps.cut (m := a) ?_ ?_
          on_goal 2 => (clear_value a; intro _)
          on_goal 1 => (dsimp -zeta only [a]; clear a))
       | (refine Keeps.cut (m := a.2) ?_ ?_
          on_goal 2 => (clear_value a; intro _)
          on_goal 1 => (dsimp -zeta only [a]; clear a))
       | (refine Keeps.cut (m := a.1) ?_ ?_
          on_goal 2 => (clear_value a; intro _)
          on_goal 1 => (dsimp -zeta only [a]; clear a))
       | subst a)
    | with_reducible apply State.makeSteps_keeps
    | with_reducible apply State.setSpeed_keeps
    | with_reducible apply State.setSfld_keeps
    | intro _
    | split
    | dsimp -zeta only

theorem State.memberSteps_keeps {st0 s b n w} (hk : Keeps st0 s) : Keeps st0 (State.memberSteps s b n w) := by
  refine hk.trans ?_; clear hk
  unfold State.memberSteps
  repeat' first
    | with_reducible apply Keeps.refl
    | with_reducible assumption
    | (extract_lets +onlyGivenNames a
       first
       | (refine Keeps.cut (m := a) ?_ ?_
          on_goal 2 => (clear_value a; intro _)
          on_goal 1 => (dsimp -zeta only [a]; clear a))
       | (refine Keeps.cut (m := a.2) ?_ ?_
          on_goal 2 => (clear_value a; intro _)
          on_goal 1 => (dsimp -zeta only [a]; clear a))
       | (refine Keeps.cut (m := a.1) ?_ ?_
          on_goal 2 => (clear_value a; intro _)
          on_goal 1 => (dsimp -zeta only [a]; clear a))
       | subst a)
    | with_reducible apply State.makeSteps_keeps
    | with_reducible apply State.setAxis_keeps
    | with_reducible apply State.setSfld_keeps
    | intro _
    | split
    | dsimp -zeta only

theorem State.groupUpdate_keeps {st0 s h} (hk : Keeps st0 s) : Keeps st0 (State.groupUpdate s h) := by
  refine hk.trans ?_; clear hk
  unfold State.groupUpdate
  repeat' first
    | with_reducible apply Keeps.refl
    | with_reducible assumption
    | (extract_lets +onlyGivenNames a
       first
       | (refine Keeps.cut (m := a) ?_ ?_
          on_goal 2 => (clear_value a; intro _)
          on_goal 1 => (dsimp -zeta only [a]; clear a))
       | (refine Keeps.cut (m := a.2) ?_ ?_
          on_goal 2 => (clear_value a; intro _)
          on_goal 1 => (dsimp -zeta only [a]; clear a))
       | (refine Keeps.cut (m := a.1) ?_ ?_
          on_goal 2 => (clear_value a; intro _)
          on_goal 1 => (dsimp -zeta only [a]; clear a))
       | subst a)
    | with_reducible apply State.setSpeed_keeps
    | with_reducible apply State.setAxis_keeps
    | with_reducible apply State.memberSteps_keeps
    | with_reducible apply foldS_keeps
    | ((with_reducible apply Keeps.of_snd); on_goal 1 => with_reducible assumption)
    | ((with_reducible apply Keeps.of_fst); on_goal 1 => with_reducible assumption)
    | intro _
    | split
    | dsimp -zeta only

theorem State.homeOn_keeps {st0 s a} (hk : Keeps st0 s) : Keeps st0 (State.homeOn s a) := by
  refine hk.trans ?_; clear hk
  unfold State.homeOn
  repeat' first
    | with_reducible apply Keeps.refl
    | with_reducible assumption
    | (extract_lets +onlyGivenNames a
       first
       | (refine Keeps.cut (m := a) ?_ ?_
          on_goal 2 => (clear_value a; intro _)
          on_goal 1 => (dsimp -zeta only [a]; clear a))
       | (refine Keeps.cut (m := a.2) ?_ ?_
          on_goal 2 => (clear_value a; intro _)
          on_goal 1 => (dsimp -zeta only [a]; clear a))
       | (refine Keeps.cut (m := a.1) ?_ ?_
          on_goal 2 => (clear_value a; intro _)
          on_goal 1 => (dsimp -zeta only [a]; clear a))
       | subst a)
    | with_reducible apply State.homePhase_keeps
    | ((with_reducible apply Keeps.of_snd); on_goal 1 => with_reducible assumption)
    | ((with_reducible apply Keeps.of_fst); on_goal 1 => with_reducible assumption)
    | intro _
    | split
    | dsimp -zeta only

theorem State.profile_keeps {st0 s a} (hk : Keeps st0 s) : Keeps st0 (State.profile s a) := by
  refine hk.trans ?_; clear hk
  unfold State.profile
  repeat' first
    | with_reducible apply Keeps.refl
    | with_reducible assumption
    | with_reducible apply State.groupUpdate_keeps
    | with_reducible apply State.homeOn_keeps
    | with_reducible apply State.soloUpdate_keeps
    | ((with_reducible apply Keeps.of_snd); on_goal 1 => with_reducible assumption)
    | ((with_reducible apply Keeps.of_fst); on_goal 1 => with_reducible assumption)
    | intro _
    | split
    | dsimp -zeta only

theorem State.loopPeriod_keeps {st0 s a i} (hk : Keeps st0 s) : Keeps st0 (State.loopPeriod s a i) := by
  refine hk.trans ?_; clear hk
  unfold State.loopPeriod
  repeat' first
    | with_reducible apply Keeps.refl
    | with_reducible assumption
    | (extract_lets +onlyGivenNames a
       first
       | (refine Keeps.cut (m := a) ?_ ?_
          on_goal 2 => (clear_value a; intro _)
          on_goal 1 => (dsimp -zeta only [a]; clear a))
       | (refine Keeps.cut (m := a.2) ?_ ?_
          on_goal 2 => (clear_value a; intro _)
          on_goal 1 => (dsimp -zeta only [a]; clear a))
       | (refine Keeps.cut (m := a.1) ?_ ?_
          on_goal 2 => (clear_value a; intro _)
          on_goal 1 => (dsimp -zeta only [a]; clear a))
       | subst a)
    | with_reducible apply State.setAxis_keeps
    | with_reducible apply State.setSfld_keeps
    | intro _
    | split
    | dsimp -zeta only

theorem State.loopRest_keeps {st0 s a} (hk : Keeps st0 s) : Keeps st0 (State.loopRest s a) := by
  refine hk.trans ?_; clear hk
  unfold State.loopRest
  repeat' first
    | with_reducible apply Keeps.refl
    | with_reducible assumption
    | (extract_lets +onlyGivenNames a
       first
       | (refine Keeps.cut (m := a) ?_ ?_
          on_goal 2 => (clear_value a; intro _)
          on_goal 1 => (dsimp -zeta only [a]; clear a))
       | (refine Keeps.cut (m := a.2) ?_ ?_
          on_goal 2 => (clear_value a; intro _)
          on_goal 1 => (dsimp -zeta only [a]; clear a))
       | (refine Keeps.cut (m := a.1) ?_ ?_
          on_goal 2 => (clear_value a; intro _)
          on_goal 1 => (dsimp -zeta only [a]; clear a))
       | subst a)
    | with_reducible apply State.setAxis_keeps
    | with_reducible apply State.wr_keeps
    | intro _
    | split
    | dsimp -zeta only

theorem State.loops_keeps {st0 s a i} (hk : Keeps st0 s) : Keeps st0 (State.loops s a i) := by
  refine hk.trans ?_; clear hk
  unfold State.loops
  repeat' first
    | with_reducible apply Keeps.refl
    | with_reducible assumption
    | with_reducible apply State.loopPeriod_keeps
    | with_reducible apply State.loopRest_keeps
    | intro _
    | split
    | dsimp -zeta only

theorem execProfileUpdate_keeps {ax ia ib s} : OutKeeps s (execProfileUpdate ax ia ib s) := by
  unfold execProfileUpdate
  repeat' first
    | with_reducible apply Keeps.refl
    | with_reducible assumption
    | with_reducible apply OutKeeps.refused
    | with_reducible apply OutKeeps.next
    | with_reducible apply State.loops_keeps
    | with_reducible apply State.profile_keeps
    | with_reducible apply OutKeeps.ite
    | intro _
    | split
    | dsimp -zeta only

theorem State.startQueued_keeps {st0 s a} (hk : Keeps st0 s) : Keeps st0 (State.startQueued s a) := by
  refine hk.trans ?_; clear hk
  unfold State.startQueued
  repeat' first
    | with_reducible apply Keeps.refl
    | with_reducible assumption
    | (extract_lets +onlyGivenNames a
       first
       | (refine Keeps.cut (m := a) ?_ ?_
          on_goal 2 => (clear_value a; intro _)
          on_goal 1 => (dsimp -zeta only [a]; clear a))
       | (refine Keeps.cut (m := a.2) ?_ ?_
          on_goal 2 => (clear_value a; intro _)
          on_goal 1 => (dsimp -zeta only [a]; clear a))
       | (refine Keeps.cut (m := a.1) ?_ ?_
          on_goal 2 => (clear_value a; intro _)
          on_goal 1 => (dsimp -zeta only [a]; clear a))
       | subst a)
    | with_reducible apply State.emptyQueue_keeps
    | with_reducible apply State.beginMove_keeps
    | ((with_reducible apply Keeps.of_snd); on_goal 1 => with_reducible assumption)
    | ((with_reducible apply Keeps.of_fst); on_goal 1 => with_reducible assumption)
    | intro _
    | split
    | dsimp -zeta only

theorem execMoveComplete_keeps {ax s} : OutKeeps s (execMoveComplete ax s) := by
  unfold execMoveComplete
  repeat' first
    | with_reducible apply Keeps.refl
    | with_reducible assumption
    | (extract_lets +onlyGivenNames a
       first
       | (refine Keeps.cut (m := a) ?_ ?_
          on_goal 2 => (clear_value a; intro _)
          on_goal 1 => (dsimp -zeta only [a]; clear a))
       | (refine Keeps.cut (m := a.2) ?_ ?_
          on_goal 2 => (clear_value a; intro _)
          on_goal 1 => (dsimp -zeta only [a]; clear a))
       | (refine Keeps.cut (m := a.1) ?_ ?_
          on_goal 2 => (clear_value a; intro _)
          on_goal 1 => (dsimp -zeta only [a]; clear a))
       | subst a)
    | with_reducible apply OutKeeps.refused
    | with_reducible apply OutKeeps.next
    | with_reducible apply State.startQueued_keeps
    | with_reducible apply State.rest_keeps
    | with_reducible apply foldS_keeps
    | ((with_reducible apply Keeps.of_snd); on_goal 1 => with_reducible assumption)
    | ((with_reducible apply Keeps.of_fst); on_goal 1 => with_reducible assumption)
    | with_reducible apply OutKeeps.ite
    | intro _
    | split
    | dsimp -zeta only

theorem execIholdTimer_keeps {ax s} : OutKeeps s (execIholdTimer ax s) := by
  unfold execIholdTimer
  repeat' first
    | with_reducible apply Keeps.refl
    | with_reducible assumption
    | (extract_lets +onlyGivenNames a
       first
       | (refine Keeps.cut (m := a) ?_ ?_
          on_goal 2 => (clear_value a; intro _)
          on_goal 1 => (dsimp -zeta only [a]; clear a))
       | (refine Keeps.cut (m := a.2) ?_ ?_
          on_goal 2 => (clear_value a; intro _)
          on_goal 1 => (dsimp -zeta only [a]; clear a))
       | (refine Keeps.cut (m := a.1) ?_ ?_
          on_goal 2 => (clear_value a; intro _)
          on_goal 1 => (dsimp -zeta only [a]; clear a))
       | subst a)
    | with_reducible apply OutKeeps.refused
    | with_reducible apply OutKeeps.next
    | with_reducible apply State.setAxis_keeps
    | with_reducible apply State.atTime_keeps
    | with_reducible apply OutKeeps.ite
    | intro _
    | split
    | dsimp -zeta only

theorem execEmergencyRampEnd_keeps {ax s} : OutKeeps s (execEmergencyRampEnd ax s) := by
  unfold execEmergencyRampEnd
  repeat' first
    | with_reducible apply Keeps.refl
    | with_reducible assumption
    | with_reducible apply OutKeeps.refused
    | with_reducible apply OutKeeps.next
    | with_reducible apply State.rest_keeps
    | with_reducible apply foldS_keeps
    | ((with_reducible apply Keeps.of_snd); on_goal 1 => with_reducible assumption)
    | ((with_reducible apply Keeps.of_fst); on_goal 1 => with_reducible assumption)
    | with_reducible apply OutKeeps.ite
    | intro _
    | split
    | dsimp -zeta only

theorem State.leaveGroup_keeps {st0 s a} (hk : Keeps st0 s) : Keeps st0 (State.leaveGroup s a) := by
  refine hk.trans ?_; clear hk
  unfold State.leaveGroup
  repeat' first
    | with_reducible apply Keeps.refl
    | with_reducible assumption
    | (extract_lets +onlyGivenNames a
       first
       | (refine Keeps.cut (m := a) ?_ ?_
          on_goal 2 => (clear_value a; intro _)
          on_goal 1 => (dsimp -zeta only [a]; clear a))
       | (refine Keeps.cut (m := a.2) ?_ ?_
          on_goal 2 => (clear_value a; intro _)
          on_goal 1 => (dsimp -zeta only [a]; clear a))
       | (refine Keeps.cut (m := a.1) ?_ ?_
          on_goal 2 => (clear_value a; intro _)
          on_goal 1 => (dsimp -zeta only [a]; clear a))
       | subst a)
    | with_reducible apply State.setAxis_keeps
    | with_reducible apply State.setAxState_keeps
    | with_reducible apply State.raise_keeps
    | with_reducible apply foldS_keeps
    | ((with_reducible apply Keeps.of_snd); on_goal 1 => with_reducible assumption)
    | ((with_reducible apply Keeps.of_fst); on_goal 1 => with_reducible assumption)
    | intro _
    | split
    | dsimp -zeta only

theorem State.driverFault_keeps {st0 s a} (hk : Keeps st0 s) : Keeps st0 (State.driverFault s a) := by
  refine hk.trans ?_; clear hk
  unfold State.driverFault
  repeat' first
    | with_reducible apply Keeps.refl
    | with_reducible assumption
    | (extract_lets +onlyGivenNames a
       first
       | (refine Keeps.cut (m := a) ?_ ?_
          on_goal 2 => (clear_value a; intro _)
          on_goal 1 => (dsimp -zeta only [a]; clear a))
       | (refine Keeps.cut (m := a.2) ?_ ?_
          on_goal 2 => (clear_value a; intro _)
          on_goal 1 => (dsimp -zeta only [a]; clear a))
       | (refine Keeps.cut (m := a.1) ?_ ?_
          on_goal 2 => (clear_value a; intro _)
          on_goal 1 => (dsimp -zeta only [a]; clear a))
       | subst a)
    | with_reducible apply State.raise_keeps
    | with_reducible apply State.setAx_keeps
    | with_reducible apply State.setAxis_keeps
    | with_reducible apply State.homeFails_keeps
    | with_reducible apply State.rest_keeps
    | with_reducible apply State.emptyQueue_keeps
    | with_reducible apply State.leaveGroup_keeps
    | with_reducible apply State.emergency_keeps
    | intro _
    | split
    | dsimp -zeta only

theorem execDriverFault_keeps {ax s} : OutKeeps s (execDriverFault ax s) := by
  unfold execDriverFault
  repeat' first
    | with_reducible apply Keeps.refl
    | with_reducible assumption
    | with_reducible apply OutKeeps.refused
    | with_reducible apply OutKeeps.next
    | with_reducible apply State.driverFault_keeps
    | with_reducible apply OutKeeps.ite
    | intro _
    | split
    | dsimp -zeta only

theorem State.loopLost_keeps {st0 s a phaseB} (hk : Keeps st0 s) : Keeps st0 (State.loopLost s a phaseB) := by
  refine hk.trans ?_; clear hk
  unfold State.loopLost
  repeat' first
    | with_reducible apply Keeps.refl
    | with_reducible assumption
    | (extract_lets +onlyGivenNames a
       first
       | (refine Keeps.cut (m := a) ?_ ?_
          on_goal 2 => (clear_value a; intro _)
          on_goal 1 => (dsimp -zeta only [a]; clear a))
       | (refine Keeps.cut (m := a.2) ?_ ?_
          on_goal 2 => (clear_value a; intro _)
          on_goal 1 => (dsimp -zeta only [a]; clear a))
       | (refine Keeps.cut (m := a.1) ?_ ?_
          on_goal 2 => (clear_value a; intro _)
          on_goal 1 => (dsimp -zeta only [a]; clear a))
       | subst a)
    | with_reducible apply State.raise_keeps
    | with_reducible apply State.setAx_keeps
    | with_reducible apply State.emergency_keeps
    | intro _
    | split
    | dsimp -zeta only

theorem execLoopLost_keeps {ax phaseB meas s} : OutKeeps s (execLoopLost ax phaseB meas s) := by
  unfold execLoopLost
  repeat' first
    | with_reducible apply Keeps.refl
    | with_reducible assumption
    | (extract_lets +onlyGivenNames a
       first
       | (refine Keeps.cut (m := a) ?_ ?_
          on_goal 2 => (clear_value a; intro _)
          on_goal 1 => (dsimp -zeta only [a]; clear a))
       | (refine Keeps.cut (m := a.2) ?_ ?_
          on_goal 2 => (clear_value a; intro _)
          on_goal 1 => (dsimp -zeta only [a]; clear a))
       | (refine Keeps.cut (m := a.1) ?_ ?_
          on_goal 2 => (clear_value a; intro _)
          on_goal 1 => (dsimp -zeta only [a]; clear a))
       | subst a)
    | with_reducible apply OutKeeps.refused
    | with_reducible apply OutKeeps.next
    | with_reducible apply State.loopLost_keeps
    | with_reducible apply OutKeeps.ite
    | intro _
    | split
    | dsimp -zeta only

theorem execEstopLineAssert_keeps {ax s} : OutKeeps s (execEstopLineAssert ax s) := by
  unfold execEstopLineAssert
  repeat' first
    | with_reducible apply Keeps.refl
    | with_reducible assumption
    | with_reducible apply OutKeeps.refused
    | with_reducible apply OutKeeps.next
    | with_reducible apply State.emergency_keeps
    | with_reducible apply State.setAx_keeps
    | with_reducible apply OutKeeps.ite
    | intro _
    | split
    | dsimp -zeta only

theorem State.noteEndLimit_keeps {st0 s a positive} (hk : Keeps st0 s) : Keeps st0 (State.noteEndLimit s a positive) := by
  refine hk.trans ?_; clear hk
  unfold State.noteEndLimit
  repeat' first
    | with_reducible apply Keeps.refl
    | with_reducible assumption
    | with_reducible apply State.raise_keeps
    | intro _
    | split
    | dsimp -zeta only

theorem execLimitInputActive_keeps {ax positive s} : OutKeeps s (execLimitInputActive ax positive s) := by
  unfold execLimitInputActive
  repeat' first
    | with_reducible apply Keeps.refl
    | with_reducible assumption
    | (extract_lets +onlyGivenNames a
       first
       | (refine Keeps.cut (m := a) ?_ ?_
          on_goal 2 => (clear_value a; intro _)
          on_goal 1 => (dsimp -zeta only [a]; clear a))
       | (refine Keeps.cut (m := a.2) ?_ ?_
          on_goal 2 => (clear_value a; intro _)
          on_goal 1 => (dsimp -zeta only [a]; clear a))
       | (refine Keeps.cut (m := a.1) ?_ ?_
          on_goal 2 => (clear_value a; intro _)
          on_goal 1 => (dsimp -zeta only [a]; clear a))
       | subst a)
    | with_reducible apply OutKeeps.refused
    | with_reducible apply OutKeeps.next
    | with_reducible apply State.atTime_keeps
    | with_reducible apply State.noteEndLimit_keeps
    | with_reducible apply State.setAx_keeps
    | with_reducible apply State.emergency_keeps
    | with_reducible apply OutKeeps.ite
    | intro _
    | split
    | dsimp -zeta only

theorem execLimitInputInactive_keeps {ax positive s} : OutKeeps s (execLimitInputInactive ax positive s) := by
  unfold execLimitInputInactive
  repeat' first
    | with_reducible apply Keeps.refl
    | with_reducible assumption
    | with_reducible apply OutKeeps.refused
    | with_reducible apply OutKeeps.next
    | with_reducible apply State.noteEndLimit_keeps
    | with_reducible apply State.setAx_keeps
    | with_reducible apply OutKeeps.ite
    | intro _
    | split
    | dsimp -zeta only

theorem execHomeEdgeQualified_keeps {ax edgePos s} : OutKeeps s (execHomeEdgeQualified ax edgePos s) := by
  unfold execHomeEdgeQualified
  repeat' first
    | with_reducible apply Keeps.refl
    | with_reducible assumption
    | (extract_lets +onlyGivenNames a
       first
       | (refine Keeps.cut (m := a) ?_ ?_
          on_goal 2 => (clear_value a; intro _)
          on_goal 1 => (dsimp -zeta only [a]; clear a))
       | (refine Keeps.cut (m := a.2) ?_ ?_
          on_goal 2 => (clear_value a; intro _)
          on_goal 1 => (dsimp -zeta only [a]; clear a))
       | (refine Keeps.cut (m := a.1) ?_ ?_
          on_goal 2 => (clear_value a; intro _)
          on_goal 1 => (dsimp -zeta only [a]; clear a))
       | subst a)
    | with_reducible apply OutKeeps.refused
    | with_reducible apply OutKeeps.next
    | with_reducible apply State.setAxis_keeps
    | with_reducible apply State.atTime_keeps
    | with_reducible apply OutKeeps.ite
    | intro _
    | split
    | dsimp -zeta only

theorem execHomeDistanceFail_keeps {ax s} : OutKeeps s (execHomeDistanceFail ax s) := by
  unfold execHomeDistanceFail
  repeat' first
    | with_reducible apply Keeps.refl
    | with_reducible assumption
    | with_reducible apply OutKeeps.refused
    | with_reducible apply OutKeeps.next
    | with_reducible apply State.endHoming_keeps
    | with_reducible apply State.homeFails_keeps
    | ((with_reducible apply Keeps.of_snd); on_goal 1 => with_reducible assumption)
    | ((with_reducible apply Keeps.of_fst); on_goal 1 => with_reducible assumption)
    | with_reducible apply OutKeeps.ite
    | intro _
    | split
    | dsimp -zeta only

theorem State.homed_keeps {st0 s a} (hk : Keeps st0 s) : Keeps st0 (State.homed s a) := by
  refine hk.trans ?_; clear hk
  unfold State.homed
  repeat' first
    | with_reducible apply Keeps.refl
    | with_reducible assumption
    | (extract_lets +onlyGivenNames a
       first
       | (refine Keeps.cut (m := a) ?_ ?_
          on_goal 2 => (clear_value a; intro _)
          on_goal 1 => (dsimp -zeta only [a]; clear a))
       | (refine Keeps.cut (m := a.2) ?_ ?_
          on_goal 2 => (clear_value a; intro _)
          on_goal 1 => (dsimp -zeta only [a]; clear a))
       | (refine Keeps.cut (m := a.1) ?_ ?_
          on_goal 2 => (clear_value a; intro _)
          on_goal 1 => (dsimp -zeta only [a]; clear a))
       | subst a)
    | with_reducible apply State.setAxis_keeps
    | with_reducible apply State.setSfld_keeps
    | with_reducible apply State.endHoming_keeps
    | with_reducible apply State.setAx_keeps
    | intro _
    | split
    | dsimp -zeta only

theorem execHomeComplete_keeps {ax s} : OutKeeps s (execHomeComplete ax s) := by
  unfold execHomeComplete
  repeat' first
    | with_reducible apply Keeps.refl
    | with_reducible assumption
    | with_reducible apply OutKeeps.refused
    | with_reducible apply OutKeeps.next
    | with_reducible apply State.homed_keeps
    | with_reducible apply OutKeeps.ite
    | intro _
    | split
    | dsimp -zeta only

theorem State.loadAxisWord_keeps {st0 s e} (hk : Keeps st0 s) : Keeps st0 (State.loadAxisWord s e) := by
  refine hk.trans ?_; clear hk
  unfold State.loadAxisWord
  repeat' first
    | with_reducible apply Keeps.refl
    | with_reducible assumption
    | (extract_lets +onlyGivenNames a
       first
       | (refine Keeps.cut (m := a) ?_ ?_
          on_goal 2 => (clear_value a; intro _)
          on_goal 1 => (dsimp -zeta only [a]; clear a))
       | (refine Keeps.cut (m := a.2) ?_ ?_
          on_goal 2 => (clear_value a; intro _)
          on_goal 1 => (dsimp -zeta only [a]; clear a))
       | (refine Keeps.cut (m := a.1) ?_ ?_
          on_goal 2 => (clear_value a; intro _)
          on_goal 1 => (dsimp -zeta only [a]; clear a))
       | subst a)
    | with_reducible apply State.wr_keeps
    | intro _
    | split
    | dsimp -zeta only

theorem State.restoreAxis_keeps {st0 start s a} (hk : Keeps st0 s) : Keeps st0 (State.restoreAxis start s a) := by
  refine hk.trans ?_; clear hk
  unfold State.restoreAxis
  repeat' first
    | with_reducible apply Keeps.refl
    | with_reducible assumption
    | (extract_lets +onlyGivenNames a
       first
       | (refine Keeps.cut (m := a) ?_ ?_
          on_goal 2 => (clear_value a; intro _)
          on_goal 1 => (dsimp -zeta only [a]; clear a))
       | (refine Keeps.cut (m := a.2) ?_ ?_
          on_goal 2 => (clear_value a; intro _)
          on_goal 1 => (dsimp -zeta only [a]; clear a))
       | (refine Keeps.cut (m := a.1) ?_ ?_
          on_goal 2 => (clear_value a; intro _)
          on_goal 1 => (dsimp -zeta only [a]; clear a))
       | subst a)
    | with_reducible apply State.wr_keeps
    | with_reducible apply State.setAx_keeps
    | with_reducible apply State.setAxis_keeps
    | with_reducible apply State.raise_keeps
    | with_reducible apply State.toMirror_keeps
    | with_reducible apply State.setFlag_keeps
    | ((with_reducible apply Keeps.of_snd); on_goal 1 => with_reducible assumption)
    | ((with_reducible apply Keeps.of_fst); on_goal 1 => with_reducible assumption)
    | intro _
    | split
    | dsimp -zeta only

theorem State.loadGlissade_keeps {st0 s start} (hk : Keeps st0 s) : Keeps st0 (State.loadGlissade s start) := by
  refine hk.trans ?_; clear hk
  unfold State.loadGlissade
  repeat' first
    | with_reducible apply Keeps.refl
    | with_reducible assumption
    | (extract_lets +onlyGivenNames a
       first
       | (refine Keeps.cut (m := a) ?_ ?_
          on_goal 2 => (clear_value a; intro _)
          on_goal 1 => (dsimp -zeta only [a]; clear a))
       | (refine Keeps.cut (m := a.2) ?_ ?_
          on_goal 2 => (clear_value a; intro _)
          on_goal 1 => (dsimp -zeta only [a]; clear a))
       | (refine Keeps.cut (m := a.1) ?_ ?_
          on_goal 2 => (clear_value a; intro _)
          on_goal 1 => (dsimp -zeta only [a]; clear a))
       | subst a)
    | with_reducible apply State.resetRegs_keeps
    | with_reducible apply State.loadAxisWord_keeps
    | with_reducible apply State.restoreAxis_keeps
    | with_reducible apply foldS_keeps
    | ((with_reducible apply Keeps.of_snd); on_goal 1 => with_reducible assumption)
    | ((with_reducible apply Keeps.of_fst); on_goal 1 => with_reducible assumption)
    | intro _
    | split
    | dsimp -zeta only

theorem State.dropGlissade_keeps {st0 s} (hk : Keeps st0 s) : Keeps st0 (State.dropGlissade s) := by
  refine hk.trans ?_; clear hk
  unfold State.dropGlissade
  repeat' first
    | with_reducible apply Keeps.refl
    | with_reducible assumption
    | with_reducible apply State.setAxis_keeps
    | with_reducible apply foldS_keeps
    | ((with_reducible apply Keeps.of_snd); on_goal 1 => with_reducible assumption)
    | ((with_reducible apply Keeps.of_fst); on_goal 1 => with_reducible assumption)
    | intro _
    | split
    | dsimp -zeta only

end Sys2Proof.Machine
end

