-- ==== Sys2Proof/Laws/KeepsCommit.lean ====
section
/-! SUPPORT. Every operation of `Machine/Commit.lean` keeps the queue and the canonical forms. -/

set_option linter.all false
set_option Elab.async false
set_option maxHeartbeats 60000

namespace Sys2Proof.Machine

theorem State.entryAction_keeps {st0 s e v tick} (hk : Keeps st0 s) : Keeps st0 (State.entryAction s e v tick) := by
  refine hk.trans ?_; clear hk
  unfold State.entryAction
  repeat' first
    | with_reducible apply Keeps.refl
    | with_reducible assumption
    | with_reducible apply State.ackEntryOp_keeps
    | with_reducible apply State.shelveOp_keeps
    | with_reducible apply State.unshelveOp_keeps
    | with_reducible apply State.oosOp_keeps
    | with_reducible apply State.returnOp_keeps
    | with_reducible apply State.entryCheck_keeps
    | with_reducible apply State.answer_keeps
    | ((with_reducible apply Keeps.of_snd); on_goal 1 => with_reducible assumption)
    | ((with_reducible apply Keeps.of_fst); on_goal 1 => with_reducible assumption)
    | intro _
    | split
    | dsimp -zeta only

theorem State.planAction_keeps {st0 s p v} (hk : Keeps st0 s) : Keeps st0 (State.planAction s p v) := by
  refine hk.trans ?_; clear hk
  unfold State.planAction
  repeat' first
    | with_reducible apply Keeps.refl
    | with_reducible assumption
    | with_reducible apply State.startPlanOp_keeps
    | with_reducible apply State.endPlanAct_keeps
    | with_reducible apply State.acceptLevelOp_keeps
    | with_reducible apply State.silencePlanOp_keeps
    | with_reducible apply State.armOp_keeps
    | with_reducible apply State.disarmOp_keeps
    | ((with_reducible apply Keeps.of_snd); on_goal 1 => with_reducible assumption)
    | ((with_reducible apply Keeps.of_fst); on_goal 1 => with_reducible assumption)
    | intro _
    | split
    | dsimp -zeta only

theorem State.axisAction_keeps {st0 s a v} (hk : Keeps st0 s) : Keeps st0 (State.axisAction s a v) := by
  refine hk.trans ?_; clear hk
  unfold State.axisAction
  repeat' first
    | with_reducible apply Keeps.refl
    | with_reducible assumption
    | with_reducible apply State.moveaOp_keeps
    | with_reducible apply State.moverOp_keeps
    | with_reducible apply State.jogOp_keeps
    | with_reducible apply State.axisStopOp_keeps
    | with_reducible apply State.estopOp_keeps
    | with_reducible apply State.setparOp_keeps
    | with_reducible apply State.homeOp_keeps
    | with_reducible apply State.axisEnableOp_keeps
    | with_reducible apply State.axisDisableOp_keeps
    | with_reducible apply State.tblwrOp_keeps
    | with_reducible apply State.tblselOp_keeps
    | with_reducible apply State.gtgtOp_keeps
    | with_reducible apply State.ggoOp_keeps
    | with_reducible apply State.presetOp_keeps
    | with_reducible apply State.axisClearOp_keeps
    | ((with_reducible apply Keeps.of_snd); on_goal 1 => with_reducible assumption)
    | ((with_reducible apply Keeps.of_fst); on_goal 1 => with_reducible assumption)
    | intro _
    | split
    | dsimp -zeta only

theorem State.panelAction_keeps {st0 s v} (hk : Keeps st0 s) : Keeps st0 (State.panelAction s v) := by
  refine hk.trans ?_; clear hk
  unfold State.panelAction
  repeat' first
    | with_reducible apply Keeps.refl
    | with_reducible assumption
    | with_reducible apply State.drawOp_keeps
    | with_reducible apply State.updateOp_keeps
    | with_reducible apply State.copyOp_keeps
    | with_reducible apply State.panelClearOp_keeps
    | ((with_reducible apply Keeps.of_snd); on_goal 1 => with_reducible assumption)
    | ((with_reducible apply Keeps.of_fst); on_goal 1 => with_reducible assumption)
    | intro _
    | split
    | dsimp -zeta only

theorem State.ownerAction_keeps {st0 s k n v tick} (hk : Keeps st0 s) : Keeps st0 (State.ownerAction s k n v tick) := by
  refine hk.trans ?_; clear hk
  unfold State.ownerAction
  repeat' first
    | with_reducible apply Keeps.refl
    | with_reducible assumption
    | with_reducible apply State.doSet_keeps
    | with_reducible apply State.derivedWrite_keeps
    | with_reducible apply State.ackGroupOp_keeps
    | with_reducible apply State.silenceGroupOp_keeps
    | with_reducible apply State.answer_keeps
    | with_reducible apply State.entryAction_keeps
    | with_reducible apply State.planAction_keeps
    | with_reducible apply State.selectWatchOp_keeps
    | with_reducible apply State.inhibitBit_keeps
    | with_reducible apply State.counterReset_keeps
    | with_reducible apply State.axisAction_keeps
    | with_reducible apply State.panelAction_keeps
    | ((with_reducible apply Keeps.of_snd); on_goal 1 => with_reducible assumption)
    | ((with_reducible apply Keeps.of_fst); on_goal 1 => with_reducible assumption)
    | intro _
    | split
    | dsimp -zeta only

theorem State.recorderEvent_keeps {st0 s n v ext} (hk : Keeps st0 s) : Keeps st0 (State.recorderEvent s n v ext) := by
  refine hk.trans ?_; clear hk
  unfold State.recorderEvent
  repeat' first
    | with_reducible apply Keeps.refl
    | with_reducible assumption
    | with_reducible apply State.answer_keeps
    | with_reducible apply State.raiseT_keeps
    | ((with_reducible apply Keeps.of_snd); on_goal 1 => with_reducible assumption)
    | ((with_reducible apply Keeps.of_fst); on_goal 1 => with_reducible assumption)
    | intro _
    | split
    | dsimp -zeta only

theorem State.applyCommit_keeps {st0 s w ext tick} (hk : Keeps st0 s) : Keeps st0 (State.applyCommit s w ext tick) := by
  refine hk.trans ?_; clear hk
  unfold State.applyCommit
  repeat' first
    | with_reducible apply Keeps.refl
    | with_reducible assumption
    | (extract_lets +onlyGivenNames a
       first
       | (refine Keeps.cut (m := a) ?_ ?_
          on_goal 2 => (clear_value a; intro _)
          on_goal 1 => (dsimp -zeta only [a]; clear a))
       | (refine Keeps.cut (m := a.2) ?_ ?_
          on_goal 2 => (clear_value a; intro _)
          on_goal 1 => (dsimp -zeta only [a]; clear a))
       | (refine Keeps.cut (m := a.1) ?_ ?_
          on_goal 2 => (clear_value a; intro _)
          on_goal 1 => (dsimp -zeta only [a]; clear a))
       | subst a)
    | with_reducible apply State.recorderEvent_keeps
    | with_reducible apply State.answer_keeps
    | with_reducible apply State.ownerAction_keeps
    | ((with_reducible apply Keeps.of_snd); on_goal 1 => with_reducible assumption)
    | ((with_reducible apply Keeps.of_fst); on_goal 1 => with_reducible assumption)
    | intro _
    | split
    | dsimp -zeta only

end Sys2Proof.Machine
end

