-- ==== Sys2Proof/Laws/KeepsCrossings.lean ====
section
/-! SUPPORT. Every operation of `Machine/Crossings.lean` keeps the queue and the canonical forms. -/

set_option linter.all false
set_option Elab.async false
set_option maxHeartbeats 60000

namespace Sys2Proof.Machine

theorem State.setCross_keeps {o s n x} (k : Keeps o s) : Keeps o (State.setCross s n x) := k.trans (Keeps.xing_ fun h => tabSet_wf (State.sound.xing h))

theorem State.passWord_keeps {st0 s x} (hk : Keeps st0 s) : Keeps st0 (State.passWord s x) := by
  refine hk.trans ?_; clear hk
  unfold State.passWord
  repeat' first
    | with_reducible apply Keeps.refl
    | with_reducible assumption
    | (extract_lets +onlyGivenNames a
       first
       | (refine Keeps.cut (m := a) ?_ ?_
          on_goal 2 => (clear_value a; intro _)
          on_goal 1 => (dsimp -zeta only [a]; clear a))
       | (refine Keeps.cut (m := a.2) ?_ ?_
          on_goal 2 => (clear_value a; intro _)
          on_goal 1 => (dsimp -zeta only [a]; clear a))
       | (refine Keeps.cut (m := a.1) ?_ ?_
          on_goal 2 => (clear_value a; intro _)
          on_goal 1 => (dsimp -zeta only [a]; clear a))
       | subst a)
    | with_reducible apply State.atTime_keeps
    | with_reducible apply State.setCross_keeps
    | intro _
    | split
    | dsimp -zeta only

theorem State.passWords_keeps {st0 s x n} (hk : Keeps st0 s) : Keeps st0 (State.passWords s x n) := by
  refine hk.trans ?_; clear hk
  unfold State.passWords
  repeat' first
    | with_reducible apply Keeps.refl
    | with_reducible assumption
    | with_reducible apply State.passWord_keeps
    | with_reducible apply foldS_keeps
    | ((with_reducible apply Keeps.of_snd); on_goal 1 => with_reducible assumption)
    | ((with_reducible apply Keeps.of_fst); on_goal 1 => with_reducible assumption)
    | intro _
    | split
    | dsimp -zeta only

theorem State.crossSend_keeps {st0 s x w} (hk : Keeps st0 s) : Keeps st0 (State.crossSend s x w) := by
  refine hk.trans ?_; clear hk
  unfold State.crossSend
  repeat' first
    | with_reducible apply Keeps.refl
    | with_reducible assumption
    | with_reducible apply State.setCross_keeps
    | intro _
    | split
    | dsimp -zeta only

theorem State.crossMove_keeps {st0 s x} (hk : Keeps st0 s) : Keeps st0 (State.crossMove s x) := by
  refine hk.trans ?_; clear hk
  unfold State.crossMove
  repeat' first
    | with_reducible apply Keeps.refl
    | with_reducible assumption
    | with_reducible apply State.setCross_keeps
    | ((with_reducible apply Keeps.of_snd); on_goal 1 => with_reducible assumption)
    | ((with_reducible apply Keeps.of_fst); on_goal 1 => with_reducible assumption)
    | intro _
    | split
    | dsimp -zeta only

theorem execCrossingTransfer_keeps {x send s} : OutKeeps s (execCrossingTransfer x send s) := by
  unfold execCrossingTransfer
  repeat' first
    | with_reducible apply Keeps.refl
    | with_reducible assumption
    | (extract_lets +onlyGivenNames a
       first
       | (refine Keeps.cut (m := a) ?_ ?_
          on_goal 2 => (clear_value a; intro _)
          on_goal 1 => (dsimp -zeta only [a]; clear a))
       | (refine Keeps.cut (m := a.2) ?_ ?_
          on_goal 2 => (clear_value a; intro _)
          on_goal 1 => (dsimp -zeta only [a]; clear a))
       | (refine Keeps.cut (m := a.1) ?_ ?_
          on_goal 2 => (clear_value a; intro _)
          on_goal 1 => (dsimp -zeta only [a]; clear a))
       | subst a)
    | with_reducible apply OutKeeps.refused
    | with_reducible apply OutKeeps.next
    | with_reducible apply State.crossSend_keeps
    | with_reducible apply State.crossMove_keeps
    | ((with_reducible apply Keeps.of_snd); on_goal 1 => with_reducible assumption)
    | ((with_reducible apply Keeps.of_fst); on_goal 1 => with_reducible assumption)
    | with_reducible apply OutKeeps.ite
    | intro _
    | split
    | dsimp -zeta only

theorem State.resetCrossings_keeps {st0 s d} (hk : Keeps st0 s) : Keeps st0 (State.resetCrossings s d) := by
  refine hk.trans ?_; clear hk
  unfold State.resetCrossings
  repeat' first
    | with_reducible apply Keeps.refl
    | with_reducible assumption
    | (extract_lets +onlyGivenNames a
       first
       | (refine Keeps.cut (m := a) ?_ ?_
          on_goal 2 => (clear_value a; intro _)
          on_goal 1 => (dsimp -zeta only [a]; clear a))
       | (refine Keeps.cut (m := a.2) ?_ ?_
          on_goal 2 => (clear_value a; intro _)
          on_goal 1 => (dsimp -zeta only [a]; clear a))
       | (refine Keeps.cut (m := a.1) ?_ ?_
          on_goal 2 => (clear_value a; intro _)
          on_goal 1 => (dsimp -zeta only [a]; clear a))
       | subst a)
    | with_reducible apply State.keepCrossings_keeps
    | ((with_reducible apply Keeps.of_snd); on_goal 1 => with_reducible assumption)
    | ((with_reducible apply Keeps.of_fst); on_goal 1 => with_reducible assumption)
    | intro _
    | split
    | dsimp -zeta only

end Sys2Proof.Machine
end

