-- ==== Sys2Proof/Laws/KeepsSteps.lean ====
section
/-! SUPPORT. Every operation of `Machine/Steps.lean` keeps the queue and the canonical forms. -/

set_option linter.all false
set_option Elab.async false
set_option maxHeartbeats 60000

namespace Sys2Proof.Machine

theorem State.putStep_keeps {st0 s k st} (hk : Keeps st0 s) : Keeps st0 (State.putStep s k st) := by
  refine hk.trans ?_; clear hk
  unfold State.putStep
  repeat' first
    | with_reducible apply Keeps.refl
    | with_reducible assumption
    | with_reducible apply State.setFld_keeps
    | intro _
    | split
    | dsimp -zeta only

theorem State.putMode_keeps {st0 s k m} (hk : Keeps st0 s) : Keeps st0 (State.putMode s k m) := by
  refine hk.trans ?_; clear hk
  unfold State.putMode
  repeat' first
    | with_reducible apply Keeps.refl
    | with_reducible assumption
    | with_reducible apply State.setFld_keeps
    | intro _
    | split
    | dsimp -zeta only

theorem State.endStepAt_keeps {st0 s k st e} (hk : Keeps st0 s) : Keeps st0 (State.endStepAt s k st e) := by
  refine hk.trans ?_; clear hk
  unfold State.endStepAt
  repeat' first
    | with_reducible apply Keeps.refl
    | with_reducible assumption
    | with_reducible apply State.setFld_keeps
    | with_reducible apply State.putStep_keeps
    | intro _
    | split
    | dsimp -zeta only

theorem State.endStep_keeps {st0 s k st} (hk : Keeps st0 s) : Keeps st0 (State.endStep s k st) := by
  refine hk.trans ?_; clear hk
  unfold State.endStep
  repeat' first
    | with_reducible apply Keeps.refl
    | with_reducible assumption
    | with_reducible apply State.endStepAt_keeps
    | intro _
    | split
    | dsimp -zeta only

end Sys2Proof.Machine
end

