-- ==== Sys2Proof/Laws/KeepsImages.lean ====
section
/-! SUPPORT. Every operation of `Machine/Images.lean` keeps the queue and the canonical forms. -/

set_option linter.all false
set_option Elab.async false
set_option maxHeartbeats 60000

namespace Sys2Proof.Machine

theorem State.setImgState_keeps {st0 s v} (hk : Keeps st0 s) : Keeps st0 (State.setImgState s v) := by
  refine hk.trans ?_; clear hk
  unfold State.setImgState
  repeat' first
    | with_reducible apply Keeps.refl
    | with_reducible assumption
    | with_reducible apply State.setFld_keeps
    | intro _
    | split
    | dsimp -zeta only

theorem State.setTarget_keeps {o s : State} {x : Image} (k : Keeps o s) (h : s.sound = true → Memory.wf x.bytes = true) :
    Keeps o (s.setTarget x) := by
  unfold State.setTarget
  split
  · exact State.setImg_keeps k State.sound.imgA h
  · exact State.setImg_keeps k h State.sound.imgB

theorem State.target_wf {s : State} (h : s.sound = true) : Memory.wf s.target.bytes = true := by
  unfold State.target
  split
  · exact State.sound.imgB h
  · exact State.sound.imgA h

theorem State.imageBeginOp_keeps {st0 s p len} (hk : Keeps st0 s) : Keeps st0 (State.imageBeginOp s p len).1 := by
  refine hk.trans ?_; clear hk
  unfold State.imageBeginOp
  repeat' first
    | with_reducible apply Keeps.refl
    | with_reducible assumption
    | (extract_lets +onlyGivenNames a
       first
       | (refine Keeps.cut (m := a) ?_ ?_
          on_goal 2 => (clear_value a; intro _)
          on_goal 1 => (dsimp -zeta only [a]; clear a))
       | (refine Keeps.cut (m := a.2) ?_ ?_
          on_goal 2 => (clear_value a; intro _)
          on_goal 1 => (dsimp -zeta only [a]; clear a))
       | (refine Keeps.cut (m := a.1) ?_ ?_
          on_goal 2 => (clear_value a; intro _)
          on_goal 1 => (dsimp -zeta only [a]; clear a))
       | subst a)
    | with_reducible apply State.setFld_keeps
    | with_reducible apply State.setFlag_keeps
    | with_reducible apply State.wr_keeps
    | with_reducible apply State.setImgState_keeps
    | ((with_reducible apply State.setImg_same); (on_goal 2 => rfl); (on_goal 2 => rfl))
    | ((with_reducible apply State.setTarget_keeps); on_goal 2 => (first | exact State.target_wf | exact fun g => memPut_wf (State.target_wf g)))
    | intro _
    | split
    | dsimp -zeta only

theorem State.markUnit_keeps {st0 s u} (hk : Keeps st0 s) : Keeps st0 (State.markUnit s u) := by
  refine hk.trans ?_; clear hk
  unfold State.markUnit
  repeat' first
    | with_reducible apply Keeps.refl
    | with_reducible assumption
    | (extract_lets +onlyGivenNames a
       first
       | (refine Keeps.cut (m := a) ?_ ?_
          on_goal 2 => (clear_value a; intro _)
          on_goal 1 => (dsimp -zeta only [a]; clear a))
       | (refine Keeps.cut (m := a.2) ?_ ?_
          on_goal 2 => (clear_value a; intro _)
          on_goal 1 => (dsimp -zeta only [a]; clear a))
       | (refine Keeps.cut (m := a.1) ?_ ?_
          on_goal 2 => (clear_value a; intro _)
          on_goal 1 => (dsimp -zeta only [a]; clear a))
       | subst a)
    | with_reducible apply State.addFld_keeps
    | ((with_reducible apply State.setImg_same); (on_goal 2 => rfl); (on_goal 2 => rfl))
    | intro _
    | split
    | dsimp -zeta only

theorem State.imageBlockOp_keeps {st0 s p o l} (hk : Keeps st0 s) : Keeps st0 (State.imageBlockOp s p o l).1 := by
  refine hk.trans ?_; clear hk
  unfold State.imageBlockOp
  repeat' first
    | with_reducible apply Keeps.refl
    | with_reducible assumption
    | (extract_lets +onlyGivenNames a
       first
       | (refine Keeps.cut (m := a) ?_ ?_
          on_goal 2 => (clear_value a; intro _)
          on_goal 1 => (dsimp -zeta only [a]; clear a))
       | (refine Keeps.cut (m := a.2) ?_ ?_
          on_goal 2 => (clear_value a; intro _)
          on_goal 1 => (dsimp -zeta only [a]; clear a))
       | (refine Keeps.cut (m := a.1) ?_ ?_
          on_goal 2 => (clear_value a; intro _)
          on_goal 1 => (dsimp -zeta only [a]; clear a))
       | subst a)
    | with_reducible apply State.markUnit_keeps
    | with_reducible apply foldS_keeps
    | ((with_reducible apply Keeps.of_snd); on_goal 1 => with_reducible assumption)
    | ((with_reducible apply Keeps.of_fst); on_goal 1 => with_reducible assumption)
    | ((with_reducible apply State.setTarget_keeps); on_goal 2 => (first | exact State.target_wf | exact fun g => memPut_wf (State.target_wf g)))
    | intro _
    | split
    | dsimp -zeta only

theorem State.noteImageRefused_keeps {st0 s r ofs} (hk : Keeps st0 s) : Keeps st0 (State.noteImageRefused s r ofs) := by
  refine hk.trans ?_; clear hk
  unfold State.noteImageRefused
  repeat' first
    | with_reducible apply Keeps.refl
    | with_reducible assumption
    | (extract_lets +onlyGivenNames a
       first
       | (refine Keeps.cut (m := a) ?_ ?_
          on_goal 2 => (clear_value a; intro _)
          on_goal 1 => (dsimp -zeta only [a]; clear a))
       | (refine Keeps.cut (m := a.2) ?_ ?_
          on_goal 2 => (clear_value a; intro _)
          on_goal 1 => (dsimp -zeta only [a]; clear a))
       | (refine Keeps.cut (m := a.1) ?_ ?_
          on_goal 2 => (clear_value a; intro _)
          on_goal 1 => (dsimp -zeta only [a]; clear a))
       | subst a)
    | with_reducible apply State.freshWord_keeps
    | with_reducible apply State.setFld_keeps
    | with_reducible apply State.raise_keeps
    | intro _
    | split
    | dsimp -zeta only

theorem State.imageEndOp_keeps {st0 s p m} (hk : Keeps st0 s) : Keeps st0 (State.imageEndOp s p m).1 := by
  refine hk.trans ?_; clear hk
  unfold State.imageEndOp
  repeat' first
    | with_reducible apply Keeps.refl
    | with_reducible assumption
    | (extract_lets +onlyGivenNames a
       first
       | (refine Keeps.cut (m := a) ?_ ?_
          on_goal 2 => (clear_value a; intro _)
          on_goal 1 => (dsimp -zeta only [a]; clear a))
       | (refine Keeps.cut (m := a.2) ?_ ?_
          on_goal 2 => (clear_value a; intro _)
          on_goal 1 => (dsimp -zeta only [a]; clear a))
       | (refine Keeps.cut (m := a.1) ?_ ?_
          on_goal 2 => (clear_value a; intro _)
          on_goal 1 => (dsimp -zeta only [a]; clear a))
       | subst a)
    | with_reducible apply State.noteImageRefused_keeps
    | with_reducible apply State.setImgState_keeps
    | ((with_reducible apply Keeps.of_snd); on_goal 1 => with_reducible assumption)
    | ((with_reducible apply Keeps.of_fst); on_goal 1 => with_reducible assumption)
    | ((with_reducible apply State.setImg_same); (on_goal 2 => rfl); (on_goal 2 => rfl))
    | intro _
    | split
    | dsimp -zeta only

theorem State.checkTarget_keeps {st0 s} (hk : Keeps st0 s) : Keeps st0 (State.checkTarget s).1 := by
  refine hk.trans ?_; clear hk
  unfold State.checkTarget
  repeat' first
    | with_reducible apply Keeps.refl
    | with_reducible assumption
    | (extract_lets +onlyGivenNames a
       first
       | (refine Keeps.cut (m := a) ?_ ?_
          on_goal 2 => (clear_value a; intro _)
          on_goal 1 => (dsimp -zeta only [a]; clear a))
       | (refine Keeps.cut (m := a.2) ?_ ?_
          on_goal 2 => (clear_value a; intro _)
          on_goal 1 => (dsimp -zeta only [a]; clear a))
       | (refine Keeps.cut (m := a.1) ?_ ?_
          on_goal 2 => (clear_value a; intro _)
          on_goal 1 => (dsimp -zeta only [a]; clear a))
       | subst a)
    | with_reducible apply State.answer_keeps
    | with_reducible apply State.setImgState_keeps
    | with_reducible apply State.noteImageRefused_keeps
    | with_reducible apply State.setFld_keeps
    | with_reducible apply State.raise_keeps
    | ((with_reducible apply Keeps.of_snd); on_goal 1 => with_reducible assumption)
    | ((with_reducible apply Keeps.of_fst); on_goal 1 => with_reducible assumption)
    | ((with_reducible apply State.setTarget_keeps); on_goal 2 => (first | exact State.target_wf | exact fun g => memPut_wf (State.target_wf g)))
    | intro _
    | split
    | dsimp -zeta only

theorem State.setAltCount_keeps {st0 s k v} (hk : Keeps st0 s) : Keeps st0 (State.setAltCount s k v) := by
  refine hk.trans ?_; clear hk
  unfold State.setAltCount
  repeat' first
    | with_reducible apply Keeps.refl
    | with_reducible assumption
    | (extract_lets +onlyGivenNames a
       first
       | (refine Keeps.cut (m := a) ?_ ?_
          on_goal 2 => (clear_value a; intro _)
          on_goal 1 => (dsimp -zeta only [a]; clear a))
       | (refine Keeps.cut (m := a.2) ?_ ?_
          on_goal 2 => (clear_value a; intro _)
          on_goal 1 => (dsimp -zeta only [a]; clear a))
       | (refine Keeps.cut (m := a.1) ?_ ?_
          on_goal 2 => (clear_value a; intro _)
          on_goal 1 => (dsimp -zeta only [a]; clear a))
       | subst a)
    | with_reducible apply State.setFld_keeps
    | with_reducible apply State.setSup_keeps
    | ((with_reducible apply Keeps.of_snd); on_goal 1 => with_reducible assumption)
    | ((with_reducible apply Keeps.of_fst); on_goal 1 => with_reducible assumption)
    | intro _
    | split
    | dsimp -zeta only

theorem State.setSkip_keeps {st0 s k b} (hk : Keeps st0 s) : Keeps st0 (State.setSkip s k b) := by
  refine hk.trans ?_; clear hk
  unfold State.setSkip
  repeat' first
    | with_reducible apply Keeps.refl
    | with_reducible assumption
    | with_reducible apply State.setFld_keeps
    | intro _
    | split
    | dsimp -zeta only

theorem State.clearThaw_keeps {st0 s bits} (hk : Keeps st0 s) : Keeps st0 (State.clearThaw s bits) := by
  refine hk.trans ?_; clear hk
  unfold State.clearThaw
  repeat' first
    | with_reducible apply Keeps.refl
    | with_reducible assumption
    | (extract_lets +onlyGivenNames a
       first
       | (refine Keeps.cut (m := a) ?_ ?_
          on_goal 2 => (clear_value a; intro _)
          on_goal 1 => (dsimp -zeta only [a]; clear a))
       | (refine Keeps.cut (m := a.2) ?_ ?_
          on_goal 2 => (clear_value a; intro _)
          on_goal 1 => (dsimp -zeta only [a]; clear a))
       | (refine Keeps.cut (m := a.1) ?_ ?_
          on_goal 2 => (clear_value a; intro _)
          on_goal 1 => (dsimp -zeta only [a]; clear a))
       | subst a)
    | with_reducible apply State.setAltCount_keeps
    | with_reducible apply State.setSkip_keeps
    | with_reducible apply State.raise_keeps
    | with_reducible apply foldS_keeps
    | ((with_reducible apply Keeps.of_snd); on_goal 1 => with_reducible assumption)
    | ((with_reducible apply Keeps.of_fst); on_goal 1 => with_reducible assumption)
    | intro _
    | split
    | dsimp -zeta only

theorem State.orderHostRestart_keeps {st0 s} (hk : Keeps st0 s) : Keeps st0 (State.orderHostRestart s) := by
  refine hk.trans ?_; clear hk
  unfold State.orderHostRestart
  repeat' first
    | with_reducible apply Keeps.refl
    | with_reducible assumption
    | with_reducible apply State.orderRestart_keeps
    | intro _
    | split
    | dsimp -zeta only

theorem State.imageSwitchOp_keeps {st0 s p} (hk : Keeps st0 s) : Keeps st0 (State.imageSwitchOp s p).1 := by
  refine hk.trans ?_; clear hk
  unfold State.imageSwitchOp
  repeat' first
    | with_reducible apply Keeps.refl
    | with_reducible assumption
    | (extract_lets +onlyGivenNames a
       first
       | (refine Keeps.cut (m := a) ?_ ?_
          on_goal 2 => (clear_value a; intro _)
          on_goal 1 => (dsimp -zeta only [a]; clear a))
       | (refine Keeps.cut (m := a.2) ?_ ?_
          on_goal 2 => (clear_value a; intro _)
          on_goal 1 => (dsimp -zeta only [a]; clear a))
       | (refine Keeps.cut (m := a.1) ?_ ?_
          on_goal 2 => (clear_value a; intro _)
          on_goal 1 => (dsimp -zeta only [a]; clear a))
       | subst a)
    | with_reducible apply State.setFld_keeps
    | with_reducible apply State.clearThaw_keeps
    | with_reducible apply State.raise_keeps
    | with_reducible apply State.orderHostRestart_keeps
    | intro _
    | split
    | dsimp -zeta only

theorem State.restartOp_keeps {st0 s} (hk : Keeps st0 s) : Keeps st0 (State.restartOp s).1 := by
  refine hk.trans ?_; clear hk
  unfold State.restartOp
  repeat' first
    | with_reducible apply Keeps.refl
    | with_reducible assumption
    | with_reducible apply State.orderHostRestart_keeps
    | intro _
    | split
    | dsimp -zeta only

theorem State.dropTransfer_keeps {st0 s} (hk : Keeps st0 s) : Keeps st0 (State.dropTransfer s) := by
  refine hk.trans ?_; clear hk
  unfold State.dropTransfer
  repeat' first
    | with_reducible apply Keeps.refl
    | with_reducible assumption
    | (extract_lets +onlyGivenNames a
       first
       | (refine Keeps.cut (m := a) ?_ ?_
          on_goal 2 => (clear_value a; intro _)
          on_goal 1 => (dsimp -zeta only [a]; clear a))
       | (refine Keeps.cut (m := a.2) ?_ ?_
          on_goal 2 => (clear_value a; intro _)
          on_goal 1 => (dsimp -zeta only [a]; clear a))
       | (refine Keeps.cut (m := a.1) ?_ ?_
          on_goal 2 => (clear_value a; intro _)
          on_goal 1 => (dsimp -zeta only [a]; clear a))
       | subst a)
    | with_reducible apply State.wr_keeps
    | with_reducible apply State.resetRegs_keeps
    | ((with_reducible apply Keeps.of_snd); on_goal 1 => with_reducible assumption)
    | ((with_reducible apply Keeps.of_fst); on_goal 1 => with_reducible assumption)
    | ((with_reducible apply State.setImg_same); (on_goal 2 => rfl); (on_goal 2 => rfl))
    | intro _
    | split
    | dsimp -zeta only

theorem State.showDigests_keeps {st0 s} (hk : Keeps st0 s) : Keeps st0 (State.showDigests s) := by
  refine hk.trans ?_; clear hk
  unfold State.showDigests
  repeat' first
    | with_reducible apply Keeps.refl
    | with_reducible assumption
    | (extract_lets +onlyGivenNames a
       first
       | (refine Keeps.cut (m := a) ?_ ?_
          on_goal 2 => (clear_value a; intro _)
          on_goal 1 => (dsimp -zeta only [a]; clear a))
       | (refine Keeps.cut (m := a.2) ?_ ?_
          on_goal 2 => (clear_value a; intro _)
          on_goal 1 => (dsimp -zeta only [a]; clear a))
       | (refine Keeps.cut (m := a.1) ?_ ?_
          on_goal 2 => (clear_value a; intro _)
          on_goal 1 => (dsimp -zeta only [a]; clear a))
       | subst a)
    | with_reducible apply State.wrAll_keeps
    | with_reducible apply State.setFlag_keeps
    | intro _
    | split
    | dsimp -zeta only

theorem State.digestPassOp_keeps {st0 s} (hk : Keeps st0 s) : Keeps st0 (State.digestPassOp s) := by
  refine hk.trans ?_; clear hk
  unfold State.digestPassOp
  repeat' first
    | with_reducible apply Keeps.refl
    | with_reducible assumption
    | (extract_lets +onlyGivenNames a
       first
       | (refine Keeps.cut (m := a) ?_ ?_
          on_goal 2 => (clear_value a; intro _)
          on_goal 1 => (dsimp -zeta only [a]; clear a))
       | (refine Keeps.cut (m := a.2) ?_ ?_
          on_goal 2 => (clear_value a; intro _)
          on_goal 1 => (dsimp -zeta only [a]; clear a))
       | (refine Keeps.cut (m := a.1) ?_ ?_
          on_goal 2 => (clear_value a; intro _)
          on_goal 1 => (dsimp -zeta only [a]; clear a))
       | subst a)
    | with_reducible apply State.showDigests_keeps
    | with_reducible apply State.setFlag_keeps
    | with_reducible apply State.wr_keeps
    | with_reducible apply State.addFld_keeps
    | with_reducible apply State.raise_keeps
    | with_reducible apply State.applyIf_keeps
    | ((with_reducible apply Keeps.of_snd); on_goal 1 => with_reducible assumption)
    | ((with_reducible apply Keeps.of_fst); on_goal 1 => with_reducible assumption)
    | ((with_reducible apply State.setImg_same); (on_goal 2 => rfl); (on_goal 2 => rfl))
    | intro _
    | split
    | dsimp -zeta only

theorem execDigestPass_keeps {t s} : OutKeeps s (execDigestPass t s) := by
  unfold execDigestPass
  repeat' first
    | with_reducible apply Keeps.refl
    | with_reducible assumption
    | (extract_lets +onlyGivenNames a
       first
       | (refine Keeps.cut (m := a) ?_ ?_
          on_goal 2 => (clear_value a; intro _)
          on_goal 1 => (dsimp -zeta only [a]; clear a))
       | (refine Keeps.cut (m := a.2) ?_ ?_
          on_goal 2 => (clear_value a; intro _)
          on_goal 1 => (dsimp -zeta only [a]; clear a))
       | (refine Keeps.cut (m := a.1) ?_ ?_
          on_goal 2 => (clear_value a; intro _)
          on_goal 1 => (dsimp -zeta only [a]; clear a))
       | subst a)
    | with_reducible apply OutKeeps.refused
    | with_reducible apply OutKeeps.next
    | with_reducible apply State.atTime_keeps
    | with_reducible apply State.digestPassOp_keeps
    | with_reducible apply OutKeeps.ite
    | intro _
    | split
    | dsimp -zeta only

theorem State.digestNowOp_keeps {st0 s} (hk : Keeps st0 s) : Keeps st0 (State.digestNowOp s).1 := by
  refine hk.trans ?_; clear hk
  unfold State.digestNowOp
  repeat' first
    | with_reducible apply Keeps.refl
    | with_reducible assumption
    | (extract_lets +onlyGivenNames a
       first
       | (refine Keeps.cut (m := a) ?_ ?_
          on_goal 2 => (clear_value a; intro _)
          on_goal 1 => (dsimp -zeta only [a]; clear a))
       | (refine Keeps.cut (m := a.2) ?_ ?_
          on_goal 2 => (clear_value a; intro _)
          on_goal 1 => (dsimp -zeta only [a]; clear a))
       | (refine Keeps.cut (m := a.1) ?_ ?_
          on_goal 2 => (clear_value a; intro _)
          on_goal 1 => (dsimp -zeta only [a]; clear a))
       | subst a)
    | with_reducible apply State.setFlag_keeps
    | ((with_reducible apply State.setImg_same); (on_goal 2 => rfl); (on_goal 2 => rfl))
    | intro _
    | split
    | dsimp -zeta only

theorem State.clearStaging_keeps {st0 s} (hk : Keeps st0 s) : Keeps st0 (State.clearStaging s) := by
  refine hk.trans ?_; clear hk
  unfold State.clearStaging
  repeat' first
    | with_reducible apply Keeps.refl
    | with_reducible assumption
    | with_reducible apply State.resetRegs_keeps
    | ((with_reducible apply Keeps.of_snd); on_goal 1 => with_reducible assumption)
    | ((with_reducible apply Keeps.of_fst); on_goal 1 => with_reducible assumption)
    | intro _
    | split
    | dsimp -zeta only

theorem State.keyProvisionOp_keeps {st0 s p} (hk : Keeps st0 s) : Keeps st0 (State.keyProvisionOp s p) := by
  refine hk.trans ?_; clear hk
  unfold State.keyProvisionOp
  repeat' first
    | with_reducible apply Keeps.refl
    | with_reducible assumption
    | (extract_lets +onlyGivenNames a
       first
       | (refine Keeps.cut (m := a) ?_ ?_
          on_goal 2 => (clear_value a; intro _)
          on_goal 1 => (dsimp -zeta only [a]; clear a))
       | (refine Keeps.cut (m := a.2) ?_ ?_
          on_goal 2 => (clear_value a; intro _)
          on_goal 1 => (dsimp -zeta only [a]; clear a))
       | (refine Keeps.cut (m := a.1) ?_ ?_
          on_goal 2 => (clear_value a; intro _)
          on_goal 1 => (dsimp -zeta only [a]; clear a))
       | subst a)
    | with_reducible apply State.answer_keeps
    | with_reducible apply State.setFlag_keeps
    | with_reducible apply State.clearStaging_keeps
    | ((with_reducible apply State.setImg_same); (on_goal 2 => rfl); (on_goal 2 => rfl))
    | intro _
    | split
    | dsimp -zeta only

theorem execKeyProvision_keeps {p s} : OutKeeps s (execKeyProvision p s) := by
  unfold execKeyProvision
  repeat' first
    | with_reducible apply Keeps.refl
    | with_reducible assumption
    | with_reducible apply OutKeeps.refused
    | with_reducible apply OutKeeps.next
    | with_reducible apply State.keyProvisionOp_keeps
    | with_reducible apply OutKeeps.ite
    | intro _
    | split
    | dsimp -zeta only

end Sys2Proof.Machine
end

