-- ==== Sys2Proof/Laws/KeepsMoraine.lean ====
section
/-! SUPPORT. Every operation of `Machine/Moraine.lean` keeps the queue and the canonical forms. -/

set_option linter.all false
set_option Elab.async false
set_option maxHeartbeats 60000

namespace Sys2Proof.Machine

theorem State.count32_keeps {st0 s a} (hk : Keeps st0 s) : Keeps st0 (State.count32 s a) := by
  refine hk.trans ?_; clear hk
  unfold State.count32
  repeat' first
    | with_reducible apply Keeps.refl
    | with_reducible assumption
    | with_reducible apply State.wr_keeps
    | intro _
    | split
    | dsimp -zeta only

theorem State.countLoss_keeps {st0 s} (hk : Keeps st0 s) : Keeps st0 (State.countLoss s) := by
  refine hk.trans ?_; clear hk
  unfold State.countLoss
  repeat' first
    | with_reducible apply Keeps.refl
    | with_reducible assumption
    | with_reducible apply State.setMor_keeps
    | with_reducible apply State.count32_keeps
    | intro _
    | split
    | dsimp -zeta only

theorem State.setBucket_keeps {st0 s c x} (hk : Keeps st0 s) : Keeps st0 (State.setBucket s c x) := by
  refine hk.trans ?_; clear hk
  unfold State.setBucket
  repeat' first
    | with_reducible apply Keeps.refl
    | with_reducible assumption
    | with_reducible apply State.setMor_keeps
    | intro _
    | split
    | dsimp -zeta only

theorem State.takeToken_keeps {st0 s c} (hk : Keeps st0 s) : Keeps st0 (State.takeToken s c).2 := by
  refine hk.trans ?_; clear hk
  unfold State.takeToken
  repeat' first
    | with_reducible apply Keeps.refl
    | with_reducible assumption
    | (extract_lets +onlyGivenNames a
       first
       | (refine Keeps.cut (m := a) ?_ ?_
          on_goal 2 => (clear_value a; intro _)
          on_goal 1 => (dsimp -zeta only [a]; clear a))
       | (refine Keeps.cut (m := a.2) ?_ ?_
          on_goal 2 => (clear_value a; intro _)
          on_goal 1 => (dsimp -zeta only [a]; clear a))
       | (refine Keeps.cut (m := a.1) ?_ ?_
          on_goal 2 => (clear_value a; intro _)
          on_goal 1 => (dsimp -zeta only [a]; clear a))
       | subst a)
    | with_reducible apply State.setBucket_keeps
    | with_reducible apply State.countLoss_keeps
    | with_reducible apply State.count32_keeps
    | intro _
    | split
    | dsimp -zeta only

theorem execTokenRefill_keeps {c t s} : OutKeeps s (execTokenRefill c t s) := by
  unfold execTokenRefill
  repeat' first
    | with_reducible apply Keeps.refl
    | with_reducible assumption
    | (extract_lets +onlyGivenNames a
       first
       | (refine Keeps.cut (m := a) ?_ ?_
          on_goal 2 => (clear_value a; intro _)
          on_goal 1 => (dsimp -zeta only [a]; clear a))
       | (refine Keeps.cut (m := a.2) ?_ ?_
          on_goal 2 => (clear_value a; intro _)
          on_goal 1 => (dsimp -zeta only [a]; clear a))
       | (refine Keeps.cut (m := a.1) ?_ ?_
          on_goal 2 => (clear_value a; intro _)
          on_goal 1 => (dsimp -zeta only [a]; clear a))
       | subst a)
    | with_reducible apply OutKeeps.refused
    | with_reducible apply OutKeeps.next
    | with_reducible apply State.atTime_keeps
    | with_reducible apply State.setBucket_keeps
    | with_reducible apply OutKeeps.ite
    | intro _
    | split
    | dsimp -zeta only

theorem State.summarize_keeps {st0 s c} (hk : Keeps st0 s) : Keeps st0 (State.summarize s c) := by
  refine hk.trans ?_; clear hk
  unfold State.summarize
  repeat' first
    | with_reducible apply Keeps.refl
    | with_reducible assumption
    | (extract_lets +onlyGivenNames a
       first
       | (refine Keeps.cut (m := a) ?_ ?_
          on_goal 2 => (clear_value a; intro _)
          on_goal 1 => (dsimp -zeta only [a]; clear a))
       | (refine Keeps.cut (m := a.2) ?_ ?_
          on_goal 2 => (clear_value a; intro _)
          on_goal 1 => (dsimp -zeta only [a]; clear a))
       | (refine Keeps.cut (m := a.1) ?_ ?_
          on_goal 2 => (clear_value a; intro _)
          on_goal 1 => (dsimp -zeta only [a]; clear a))
       | subst a)
    | with_reducible apply State.raiseS_keeps
    | with_reducible apply State.setBucket_keeps
    | intro _
    | split
    | dsimp -zeta only

theorem execSuppressionSummary_keeps {c t s} : OutKeeps s (execSuppressionSummary c t s) := by
  unfold execSuppressionSummary
  repeat' first
    | with_reducible apply Keeps.refl
    | with_reducible assumption
    | (extract_lets +onlyGivenNames a
       first
       | (refine Keeps.cut (m := a) ?_ ?_
          on_goal 2 => (clear_value a; intro _)
          on_goal 1 => (dsimp -zeta only [a]; clear a))
       | (refine Keeps.cut (m := a.2) ?_ ?_
          on_goal 2 => (clear_value a; intro _)
          on_goal 1 => (dsimp -zeta only [a]; clear a))
       | (refine Keeps.cut (m := a.1) ?_ ?_
          on_goal 2 => (clear_value a; intro _)
          on_goal 1 => (dsimp -zeta only [a]; clear a))
       | subst a)
    | with_reducible apply OutKeeps.refused
    | with_reducible apply OutKeeps.next
    | with_reducible apply State.atTime_keeps
    | with_reducible apply State.summarize_keeps
    | with_reducible apply OutKeeps.ite
    | intro _
    | split
    | dsimp -zeta only

theorem State.measureSnap_keeps {st0 s x} (hk : Keeps st0 s) : Keeps st0 (State.measureSnap s x) := by
  refine hk.trans ?_; clear hk
  unfold State.measureSnap
  repeat' first
    | with_reducible apply Keeps.refl
    | with_reducible assumption
    | with_reducible apply State.measure_keeps
    | with_reducible apply foldS_keeps
    | ((with_reducible apply Keeps.of_snd); on_goal 1 => with_reducible assumption)
    | ((with_reducible apply Keeps.of_fst); on_goal 1 => with_reducible assumption)
    | intro _
    | split
    | dsimp -zeta only

theorem State.showFifo_keeps {st0 s} (hk : Keeps st0 s) : Keeps st0 (State.showFifo s) := by
  refine hk.trans ?_; clear hk
  unfold State.showFifo
  repeat' first
    | with_reducible apply Keeps.refl
    | with_reducible assumption
    | (extract_lets +onlyGivenNames a
       first
       | (refine Keeps.cut (m := a) ?_ ?_
          on_goal 2 => (clear_value a; intro _)
          on_goal 1 => (dsimp -zeta only [a]; clear a))
       | (refine Keeps.cut (m := a.2) ?_ ?_
          on_goal 2 => (clear_value a; intro _)
          on_goal 1 => (dsimp -zeta only [a]; clear a))
       | (refine Keeps.cut (m := a.1) ?_ ?_
          on_goal 2 => (clear_value a; intro _)
          on_goal 1 => (dsimp -zeta only [a]; clear a))
       | subst a)
    | with_reducible apply State.setFld_keeps
    | intro _
    | split
    | dsimp -zeta only

theorem State.loseTrigger_keeps {st0 s sev} (hk : Keeps st0 s) : Keeps st0 (State.loseTrigger s sev) := by
  refine hk.trans ?_; clear hk
  unfold State.loseTrigger
  repeat' first
    | with_reducible apply Keeps.refl
    | with_reducible assumption
    | (extract_lets +onlyGivenNames a
       first
       | (refine Keeps.cut (m := a) ?_ ?_
          on_goal 2 => (clear_value a; intro _)
          on_goal 1 => (dsimp -zeta only [a]; clear a))
       | (refine Keeps.cut (m := a.2) ?_ ?_
          on_goal 2 => (clear_value a; intro _)
          on_goal 1 => (dsimp -zeta only [a]; clear a))
       | (refine Keeps.cut (m := a.1) ?_ ?_
          on_goal 2 => (clear_value a; intro _)
          on_goal 1 => (dsimp -zeta only [a]; clear a))
       | subst a)
    | with_reducible apply State.countLoss_keeps
    | with_reducible apply State.count32_keeps
    | with_reducible apply State.setMor_keeps
    | intro _
    | split
    | dsimp -zeta only

theorem State.enterFifo_keeps {st0 s x} (hk : Keeps st0 s) : Keeps st0 (State.enterFifo s x) := by
  refine hk.trans ?_; clear hk
  unfold State.enterFifo
  repeat' first
    | with_reducible apply Keeps.refl
    | with_reducible assumption
    | (extract_lets +onlyGivenNames a
       first
       | (refine Keeps.cut (m := a) ?_ ?_
          on_goal 2 => (clear_value a; intro _)
          on_goal 1 => (dsimp -zeta only [a]; clear a))
       | (refine Keeps.cut (m := a.2) ?_ ?_
          on_goal 2 => (clear_value a; intro _)
          on_goal 1 => (dsimp -zeta only [a]; clear a))
       | (refine Keeps.cut (m := a.1) ?_ ?_
          on_goal 2 => (clear_value a; intro _)
          on_goal 1 => (dsimp -zeta only [a]; clear a))
       | subst a)
    | with_reducible apply State.measureSnap_keeps
    | with_reducible apply State.showFifo_keeps
    | with_reducible apply State.setMor_keeps
    | with_reducible apply State.loseTrigger_keeps
    | intro _
    | split
    | dsimp -zeta only

theorem State.deliverEvent_keeps {st0 s x} (hk : Keeps st0 s) : Keeps st0 (State.deliverEvent s x) := by
  refine hk.trans ?_; clear hk
  unfold State.deliverEvent
  repeat' first
    | with_reducible apply Keeps.refl
    | with_reducible assumption
    | with_reducible apply State.setMor_keeps
    | intro _
    | split
    | dsimp -zeta only

theorem State.takeTrigger_keeps {st0 s x} (hk : Keeps st0 s) : Keeps st0 (State.takeTrigger s x) := by
  refine hk.trans ?_; clear hk
  unfold State.takeTrigger
  repeat' first
    | with_reducible apply Keeps.refl
    | with_reducible assumption
    | (extract_lets +onlyGivenNames a
       first
       | (refine Keeps.cut (m := a) ?_ ?_
          on_goal 2 => (clear_value a; intro _)
          on_goal 1 => (dsimp -zeta only [a]; clear a))
       | (refine Keeps.cut (m := a.2) ?_ ?_
          on_goal 2 => (clear_value a; intro _)
          on_goal 1 => (dsimp -zeta only [a]; clear a))
       | (refine Keeps.cut (m := a.1) ?_ ?_
          on_goal 2 => (clear_value a; intro _)
          on_goal 1 => (dsimp -zeta only [a]; clear a))
       | subst a)
    | with_reducible apply State.deliverEvent_keeps
    | with_reducible apply State.takeToken_keeps
    | with_reducible apply State.countLoss_keeps
    | with_reducible apply State.count32_keeps
    | with_reducible apply State.setSup_keeps
    | with_reducible apply State.enterFifo_keeps
    | intro _
    | split
    | dsimp -zeta only

theorem execEventTrigger_keeps {t s} : OutKeeps s (execEventTrigger t s) := by
  unfold execEventTrigger
  repeat' first
    | with_reducible apply Keeps.refl
    | with_reducible assumption
    | (extract_lets +onlyGivenNames a
       first
       | (refine Keeps.cut (m := a) ?_ ?_
          on_goal 2 => (clear_value a; intro _)
          on_goal 1 => (dsimp -zeta only [a]; clear a))
       | (refine Keeps.cut (m := a.2) ?_ ?_
          on_goal 2 => (clear_value a; intro _)
          on_goal 1 => (dsimp -zeta only [a]; clear a))
       | (refine Keeps.cut (m := a.1) ?_ ?_
          on_goal 2 => (clear_value a; intro _)
          on_goal 1 => (dsimp -zeta only [a]; clear a))
       | subst a)
    | with_reducible apply OutKeeps.refused
    | with_reducible apply OutKeeps.next
    | with_reducible apply State.atTime_keeps
    | with_reducible apply State.takeTrigger_keeps
    | with_reducible apply State.setMor_keeps
    | ((with_reducible apply Keeps.of_snd); on_goal 1 => with_reducible assumption)
    | ((with_reducible apply Keeps.of_fst); on_goal 1 => with_reducible assumption)
    | with_reducible apply OutKeeps.ite
    | intro _
    | split
    | dsimp -zeta only

theorem State.putNextSeq_keeps {st0 s n} (hk : Keeps st0 s) : Keeps st0 (State.putNextSeq s n) := by
  refine hk.trans ?_; clear hk
  unfold State.putNextSeq
  repeat' first
    | with_reducible apply Keeps.refl
    | with_reducible assumption
    | with_reducible apply State.wrAll_keeps
    | intro _
    | split
    | dsimp -zeta only

theorem State.recount4_keeps {st0 s old sev} (hk : Keeps st0 s) : Keeps st0 (State.recount4 s old sev) := by
  refine hk.trans ?_; clear hk
  unfold State.recount4
  repeat' first
    | with_reducible apply Keeps.refl
    | with_reducible assumption
    | (extract_lets +onlyGivenNames a
       first
       | (refine Keeps.cut (m := a) ?_ ?_
          on_goal 2 => (clear_value a; intro _)
          on_goal 1 => (dsimp -zeta only [a]; clear a))
       | (refine Keeps.cut (m := a.2) ?_ ?_
          on_goal 2 => (clear_value a; intro _)
          on_goal 1 => (dsimp -zeta only [a]; clear a))
       | (refine Keeps.cut (m := a.1) ?_ ?_
          on_goal 2 => (clear_value a; intro _)
          on_goal 1 => (dsimp -zeta only [a]; clear a))
       | subst a)
    | with_reducible apply State.wr_keeps
    | with_reducible apply State.count32_keeps
    | with_reducible apply State.setFlag_keeps
    | with_reducible apply State.setFld_keeps
    | ((with_reducible apply Keeps.of_snd); on_goal 1 => with_reducible assumption)
    | ((with_reducible apply Keeps.of_fst); on_goal 1 => with_reducible assumption)
    | intro _
    | split
    | dsimp -zeta only

theorem State.writeSlot_keeps {st0 s k r} (hk : Keeps st0 s) : Keeps st0 (State.writeSlot s k r) := by
  refine hk.trans ?_; clear hk
  unfold State.writeSlot
  repeat' first
    | with_reducible apply Keeps.refl
    | with_reducible assumption
    | (extract_lets +onlyGivenNames a
       first
       | (refine Keeps.cut (m := a) ?_ ?_
          on_goal 2 => (clear_value a; intro _)
          on_goal 1 => (dsimp -zeta only [a]; clear a))
       | (refine Keeps.cut (m := a.2) ?_ ?_
          on_goal 2 => (clear_value a; intro _)
          on_goal 1 => (dsimp -zeta only [a]; clear a))
       | (refine Keeps.cut (m := a.1) ?_ ?_
          on_goal 2 => (clear_value a; intro _)
          on_goal 1 => (dsimp -zeta only [a]; clear a))
       | subst a)
    | with_reducible apply State.setMor_keeps
    | with_reducible apply State.putNextSeq_keeps
    | with_reducible apply State.recount4_keeps
    | with_reducible apply State.raise_keeps
    | intro _
    | split
    | dsimp -zeta only

theorem State.dropRecord_keeps {st0 s r} (hk : Keeps st0 s) : Keeps st0 (State.dropRecord s r) := by
  refine hk.trans ?_; clear hk
  unfold State.dropRecord
  repeat' first
    | with_reducible apply Keeps.refl
    | with_reducible assumption
    | (extract_lets +onlyGivenNames a
       first
       | (refine Keeps.cut (m := a) ?_ ?_
          on_goal 2 => (clear_value a; intro _)
          on_goal 1 => (dsimp -zeta only [a]; clear a))
       | (refine Keeps.cut (m := a.2) ?_ ?_
          on_goal 2 => (clear_value a; intro _)
          on_goal 1 => (dsimp -zeta only [a]; clear a))
       | (refine Keeps.cut (m := a.1) ?_ ?_
          on_goal 2 => (clear_value a; intro _)
          on_goal 1 => (dsimp -zeta only [a]; clear a))
       | subst a)
    | with_reducible apply State.countLoss_keeps
    | with_reducible apply State.count32_keeps
    | with_reducible apply State.setMor_keeps
    | ((with_reducible apply Keeps.of_snd); on_goal 1 => with_reducible assumption)
    | ((with_reducible apply Keeps.of_fst); on_goal 1 => with_reducible assumption)
    | intro _
    | split
    | dsimp -zeta only

theorem State.noteDrops_keeps {st0 s} (hk : Keeps st0 s) : Keeps st0 (State.noteDrops s) := by
  refine hk.trans ?_; clear hk
  unfold State.noteDrops
  repeat' first
    | with_reducible apply Keeps.refl
    | with_reducible assumption
    | (extract_lets +onlyGivenNames a
       first
       | (refine Keeps.cut (m := a) ?_ ?_
          on_goal 2 => (clear_value a; intro _)
          on_goal 1 => (dsimp -zeta only [a]; clear a))
       | (refine Keeps.cut (m := a.2) ?_ ?_
          on_goal 2 => (clear_value a; intro _)
          on_goal 1 => (dsimp -zeta only [a]; clear a))
       | (refine Keeps.cut (m := a.1) ?_ ?_
          on_goal 2 => (clear_value a; intro _)
          on_goal 1 => (dsimp -zeta only [a]; clear a))
       | subst a)
    | with_reducible apply State.raiseS_keeps
    | with_reducible apply State.setMor_keeps
    | ((with_reducible apply Keeps.of_snd); on_goal 1 => with_reducible assumption)
    | ((with_reducible apply Keeps.of_fst); on_goal 1 => with_reducible assumption)
    | intro _
    | split
    | dsimp -zeta only

theorem State.noteLost_keeps {st0 s source l} (hk : Keeps st0 s) : Keeps st0 (State.noteLost s source l) := by
  refine hk.trans ?_; clear hk
  unfold State.noteLost
  repeat' first
    | with_reducible apply Keeps.refl
    | with_reducible assumption
    | with_reducible apply State.raiseS_keeps
    | intro _
    | split
    | dsimp -zeta only

theorem State.leaveFifo_keeps {st0 s} (hk : Keeps st0 s) : Keeps st0 (State.leaveFifo s) := by
  refine hk.trans ?_; clear hk
  unfold State.leaveFifo
  repeat' first
    | with_reducible apply Keeps.refl
    | with_reducible assumption
    | (extract_lets +onlyGivenNames a
       first
       | (refine Keeps.cut (m := a) ?_ ?_
          on_goal 2 => (clear_value a; intro _)
          on_goal 1 => (dsimp -zeta only [a]; clear a))
       | (refine Keeps.cut (m := a.2) ?_ ?_
          on_goal 2 => (clear_value a; intro _)
          on_goal 1 => (dsimp -zeta only [a]; clear a))
       | (refine Keeps.cut (m := a.1) ?_ ?_
          on_goal 2 => (clear_value a; intro _)
          on_goal 1 => (dsimp -zeta only [a]; clear a))
       | subst a)
    | with_reducible apply State.showFifo_keeps
    | with_reducible apply State.setMor_keeps
    | with_reducible apply State.noteLost_keeps
    | intro _
    | split
    | dsimp -zeta only

theorem State.writeRecord_keeps {st0 s r} (hk : Keeps st0 s) : Keeps st0 (State.writeRecord s r) := by
  refine hk.trans ?_; clear hk
  unfold State.writeRecord
  repeat' first
    | with_reducible apply Keeps.refl
    | with_reducible assumption
    | with_reducible apply State.noteDrops_keeps
    | with_reducible apply State.leaveFifo_keeps
    | with_reducible apply State.writeSlot_keeps
    | with_reducible apply State.dropRecord_keeps
    | ((with_reducible apply Keeps.of_snd); on_goal 1 => with_reducible assumption)
    | ((with_reducible apply Keeps.of_fst); on_goal 1 => with_reducible assumption)
    | intro _
    | split
    | dsimp -zeta only

theorem execRecordWrite_keeps {t s} : OutKeeps s (execRecordWrite t s) := by
  unfold execRecordWrite
  repeat' first
    | with_reducible apply Keeps.refl
    | with_reducible assumption
    | (extract_lets +onlyGivenNames a
       first
       | (refine Keeps.cut (m := a) ?_ ?_
          on_goal 2 => (clear_value a; intro _)
          on_goal 1 => (dsimp -zeta only [a]; clear a))
       | (refine Keeps.cut (m := a.2) ?_ ?_
          on_goal 2 => (clear_value a; intro _)
          on_goal 1 => (dsimp -zeta only [a]; clear a))
       | (refine Keeps.cut (m := a.1) ?_ ?_
          on_goal 2 => (clear_value a; intro _)
          on_goal 1 => (dsimp -zeta only [a]; clear a))
       | subst a)
    | with_reducible apply OutKeeps.refused
    | with_reducible apply OutKeeps.next
    | with_reducible apply State.atTime_keeps
    | with_reducible apply State.writeRecord_keeps
    | ((with_reducible apply Keeps.of_snd); on_goal 1 => with_reducible assumption)
    | ((with_reducible apply Keeps.of_fst); on_goal 1 => with_reducible assumption)
    | with_reducible apply OutKeeps.ite
    | intro _
    | split
    | dsimp -zeta only

theorem State.writeCodeCfg_keeps {st0 s c v} (hk : Keeps st0 s) : Keeps st0 (State.writeCodeCfg s c v) := by
  refine hk.trans ?_; clear hk
  unfold State.writeCodeCfg
  repeat' first
    | with_reducible apply Keeps.refl
    | with_reducible assumption
    | (extract_lets +onlyGivenNames a
       first
       | (refine Keeps.cut (m := a) ?_ ?_
          on_goal 2 => (clear_value a; intro _)
          on_goal 1 => (dsimp -zeta only [a]; clear a))
       | (refine Keeps.cut (m := a.2) ?_ ?_
          on_goal 2 => (clear_value a; intro _)
          on_goal 1 => (dsimp -zeta only [a]; clear a))
       | (refine Keeps.cut (m := a.1) ?_ ?_
          on_goal 2 => (clear_value a; intro _)
          on_goal 1 => (dsimp -zeta only [a]; clear a))
       | subst a)
    | with_reducible apply State.answer_keeps
    | with_reducible apply State.closedAnswer_keeps
    | with_reducible apply State.wr_keeps
    | with_reducible apply State.noteLk_keeps
    | with_reducible apply State.setBucket_keeps
    | intro _
    | split
    | dsimp -zeta only

theorem execCodecfgWrite_keeps {_p c v t s} : OutKeeps s (execCodecfgWrite _p c v t s) := by
  unfold execCodecfgWrite
  repeat' first
    | with_reducible apply Keeps.refl
    | with_reducible assumption
    | with_reducible apply OutKeeps.refused
    | with_reducible apply OutKeeps.next
    | with_reducible apply State.writeCodeCfg_keeps
    | with_reducible apply State.atTime_keeps
    | with_reducible apply OutKeeps.ite
    | intro _
    | split
    | dsimp -zeta only

theorem State.writeSsAddr_keeps {st0 s k i v} (hk : Keeps st0 s) : Keeps st0 (State.writeSsAddr s k i v) := by
  refine hk.trans ?_; clear hk
  unfold State.writeSsAddr
  repeat' first
    | with_reducible apply Keeps.refl
    | with_reducible assumption
    | with_reducible apply State.answer_keeps
    | with_reducible apply State.closedAnswer_keeps
    | with_reducible apply State.noteLk_keeps
    | with_reducible apply State.wr_keeps
    | intro _
    | split
    | dsimp -zeta only

theorem execSsaddrWrite_keeps {_p k i v t s} : OutKeeps s (execSsaddrWrite _p k i v t s) := by
  unfold execSsaddrWrite
  repeat' first
    | with_reducible apply Keeps.refl
    | with_reducible assumption
    | with_reducible apply OutKeeps.refused
    | with_reducible apply OutKeeps.next
    | with_reducible apply State.writeSsAddr_keeps
    | with_reducible apply State.atTime_keeps
    | with_reducible apply OutKeeps.ite
    | intro _
    | split
    | dsimp -zeta only

theorem State.checkRecCfg_keeps {st0 s} (hk : Keeps st0 s) : Keeps st0 (State.checkRecCfg s) := by
  refine hk.trans ?_; clear hk
  unfold State.checkRecCfg
  repeat' first
    | with_reducible apply Keeps.refl
    | with_reducible assumption
    | (extract_lets +onlyGivenNames a
       first
       | (refine Keeps.cut (m := a) ?_ ?_
          on_goal 2 => (clear_value a; intro _)
          on_goal 1 => (dsimp -zeta only [a]; clear a))
       | (refine Keeps.cut (m := a.2) ?_ ?_
          on_goal 2 => (clear_value a; intro _)
          on_goal 1 => (dsimp -zeta only [a]; clear a))
       | (refine Keeps.cut (m := a.1) ?_ ?_
          on_goal 2 => (clear_value a; intro _)
          on_goal 1 => (dsimp -zeta only [a]; clear a))
       | subst a)
    | with_reducible apply State.wr_keeps
    | with_reducible apply State.raise_keeps
    | with_reducible apply State.wrAll_keeps
    | with_reducible apply foldS_keeps
    | ((with_reducible apply Keeps.of_snd); on_goal 1 => with_reducible assumption)
    | ((with_reducible apply Keeps.of_fst); on_goal 1 => with_reducible assumption)
    | intro _
    | split
    | dsimp -zeta only

theorem State.setCursor_keeps {st0 s p x} (hk : Keeps st0 s) : Keeps st0 (State.setCursor s p x) := by
  refine hk.trans ?_; clear hk
  unfold State.setCursor
  repeat' first
    | with_reducible apply Keeps.refl
    | with_reducible assumption
    | with_reducible apply State.setMor_keeps
    | ((with_reducible apply Keeps.of_snd); on_goal 1 => with_reducible assumption)
    | ((with_reducible apply Keeps.of_fst); on_goal 1 => with_reducible assumption)
    | intro _
    | split
    | dsimp -zeta only

theorem State.cursorStat_keeps {st0 s p r} (hk : Keeps st0 s) : Keeps st0 (State.cursorStat s p r) := by
  refine hk.trans ?_; clear hk
  unfold State.cursorStat
  repeat' first
    | with_reducible apply Keeps.refl
    | with_reducible assumption
    | with_reducible apply State.setFld_keeps
    | intro _
    | split
    | dsimp -zeta only

theorem State.latch_keeps {st0 s p x r} (hk : Keeps st0 s) : Keeps st0 (State.latch s p x r) := by
  refine hk.trans ?_; clear hk
  unfold State.latch
  repeat' first
    | with_reducible apply Keeps.refl
    | with_reducible assumption
    | (extract_lets +onlyGivenNames a
       first
       | (refine Keeps.cut (m := a) ?_ ?_
          on_goal 2 => (clear_value a; intro _)
          on_goal 1 => (dsimp -zeta only [a]; clear a))
       | (refine Keeps.cut (m := a.2) ?_ ?_
          on_goal 2 => (clear_value a; intro _)
          on_goal 1 => (dsimp -zeta only [a]; clear a))
       | (refine Keeps.cut (m := a.1) ?_ ?_
          on_goal 2 => (clear_value a; intro _)
          on_goal 1 => (dsimp -zeta only [a]; clear a))
       | subst a)
    | with_reducible apply State.setCursor_keeps
    | with_reducible apply State.cursorStat_keeps
    | with_reducible apply State.setFld_keeps
    | with_reducible apply State.setFlag_keeps
    | with_reducible apply State.wrAll_keeps
    | ((with_reducible apply Keeps.of_snd); on_goal 1 => with_reducible assumption)
    | ((with_reducible apply Keeps.of_fst); on_goal 1 => with_reducible assumption)
    | intro _
    | split
    | dsimp -zeta only

theorem State.position_keeps {st0 s p x} (hk : Keeps st0 s) : Keeps st0 (State.position s p x) := by
  refine hk.trans ?_; clear hk
  unfold State.position
  repeat' first
    | with_reducible apply Keeps.refl
    | with_reducible assumption
    | with_reducible apply State.latch_keeps
    | with_reducible apply State.cursorStat_keeps
    | ((with_reducible apply Keeps.of_snd); on_goal 1 => with_reducible assumption)
    | ((with_reducible apply Keeps.of_fst); on_goal 1 => with_reducible assumption)
    | intro _
    | split
    | dsimp -zeta only

theorem State.relatch_keeps {st0 s p minsev} (hk : Keeps st0 s) : Keeps st0 (State.relatch s p minsev) := by
  refine hk.trans ?_; clear hk
  unfold State.relatch
  repeat' first
    | with_reducible apply Keeps.refl
    | with_reducible assumption
    | with_reducible apply State.latch_keeps
    | with_reducible apply State.cursorStat_keeps
    | ((with_reducible apply Keeps.of_snd); on_goal 1 => with_reducible assumption)
    | ((with_reducible apply Keeps.of_fst); on_goal 1 => with_reducible assumption)
    | intro _
    | split
    | dsimp -zeta only

theorem State.cursorCmd_keeps {st0 s p minsev f} (hf : ∀ s, Keeps s (f s)) (hk : Keeps st0 s) : Keeps st0 (State.cursorCmd s p minsev f) := by
  refine hk.trans ?_; clear hk
  unfold State.cursorCmd
  repeat' first
    | with_reducible apply Keeps.refl
    | with_reducible assumption
    | with_reducible apply State.answer_keeps
    | with_reducible apply State.cursorStat_keeps
    | with_reducible apply State.setFld_keeps
    | with_reducible apply Keeps.trans' (hf _)
    | with_reducible apply Keeps.trans' (hf _ _)
    | intro _
    | split
    | dsimp -zeta only

theorem State.cursorAtOp_keeps {st0 s p minsev} (hk : Keeps st0 s) : Keeps st0 (State.cursorAtOp s p minsev) := by
  refine hk.trans ?_; clear hk
  unfold State.cursorAtOp
  repeat' first
    | with_reducible apply Keeps.refl
    | with_reducible assumption
    | with_reducible apply State.cursorCmd_keeps
    | with_reducible apply State.position_keeps
    | ((with_reducible apply Keeps.of_snd); on_goal 1 => with_reducible assumption)
    | ((with_reducible apply Keeps.of_fst); on_goal 1 => with_reducible assumption)
    | intro _
    | split
    | dsimp -zeta only

theorem State.cursorOldestOp_keeps {st0 s p minsev} (hk : Keeps st0 s) : Keeps st0 (State.cursorOldestOp s p minsev) := by
  refine hk.trans ?_; clear hk
  unfold State.cursorOldestOp
  repeat' first
    | with_reducible apply Keeps.refl
    | with_reducible assumption
    | with_reducible apply State.cursorCmd_keeps
    | with_reducible apply State.position_keeps
    | ((with_reducible apply Keeps.of_snd); on_goal 1 => with_reducible assumption)
    | ((with_reducible apply Keeps.of_fst); on_goal 1 => with_reducible assumption)
    | intro _
    | split
    | dsimp -zeta only

theorem State.cursorNewestOp_keeps {st0 s p minsev} (hk : Keeps st0 s) : Keeps st0 (State.cursorNewestOp s p minsev) := by
  refine hk.trans ?_; clear hk
  unfold State.cursorNewestOp
  repeat' first
    | with_reducible apply Keeps.refl
    | with_reducible assumption
    | with_reducible apply State.cursorCmd_keeps
    | with_reducible apply State.position_keeps
    | ((with_reducible apply Keeps.of_snd); on_goal 1 => with_reducible assumption)
    | ((with_reducible apply Keeps.of_fst); on_goal 1 => with_reducible assumption)
    | intro _
    | split
    | dsimp -zeta only

theorem State.cursorNextOp_keeps {st0 s p minsev} (hk : Keeps st0 s) : Keeps st0 (State.cursorNextOp s p minsev) := by
  refine hk.trans ?_; clear hk
  unfold State.cursorNextOp
  repeat' first
    | with_reducible apply Keeps.refl
    | with_reducible assumption
    | with_reducible apply State.cursorCmd_keeps
    | with_reducible apply State.position_keeps
    | with_reducible apply State.relatch_keeps
    | ((with_reducible apply Keeps.of_snd); on_goal 1 => with_reducible assumption)
    | ((with_reducible apply Keeps.of_fst); on_goal 1 => with_reducible assumption)
    | intro _
    | split
    | dsimp -zeta only

theorem State.cursorPrevOp_keeps {st0 s p minsev} (hk : Keeps st0 s) : Keeps st0 (State.cursorPrevOp s p minsev) := by
  refine hk.trans ?_; clear hk
  unfold State.cursorPrevOp
  repeat' first
    | with_reducible apply Keeps.refl
    | with_reducible assumption
    | with_reducible apply State.cursorCmd_keeps
    | with_reducible apply State.position_keeps
    | with_reducible apply State.relatch_keeps
    | ((with_reducible apply Keeps.of_snd); on_goal 1 => with_reducible assumption)
    | ((with_reducible apply Keeps.of_fst); on_goal 1 => with_reducible assumption)
    | intro _
    | split
    | dsimp -zeta only

theorem execCursorAt_keeps {p minsev s} : OutKeeps s (execCursorAt p minsev s) := by
  unfold execCursorAt
  repeat' first
    | with_reducible apply Keeps.refl
    | with_reducible assumption
    | with_reducible apply OutKeeps.refused
    | with_reducible apply OutKeeps.next
    | with_reducible apply State.cursorAtOp_keeps
    | with_reducible apply OutKeeps.ite
    | intro _
    | split
    | dsimp -zeta only

theorem execCursorOldest_keeps {p minsev s} : OutKeeps s (execCursorOldest p minsev s) := by
  unfold execCursorOldest
  repeat' first
    | with_reducible apply Keeps.refl
    | with_reducible assumption
    | with_reducible apply OutKeeps.refused
    | with_reducible apply OutKeeps.next
    | with_reducible apply State.cursorOldestOp_keeps
    | with_reducible apply OutKeeps.ite
    | intro _
    | split
    | dsimp -zeta only

theorem execCursorNewest_keeps {p minsev s} : OutKeeps s (execCursorNewest p minsev s) := by
  unfold execCursorNewest
  repeat' first
    | with_reducible apply Keeps.refl
    | with_reducible assumption
    | with_reducible apply OutKeeps.refused
    | with_reducible apply OutKeeps.next
    | with_reducible apply State.cursorNewestOp_keeps
    | with_reducible apply OutKeeps.ite
    | intro _
    | split
    | dsimp -zeta only

theorem execCursorNext_keeps {p minsev s} : OutKeeps s (execCursorNext p minsev s) := by
  unfold execCursorNext
  repeat' first
    | with_reducible apply Keeps.refl
    | with_reducible assumption
    | with_reducible apply OutKeeps.refused
    | with_reducible apply OutKeeps.next
    | with_reducible apply State.cursorNextOp_keeps
    | with_reducible apply OutKeeps.ite
    | intro _
    | split
    | dsimp -zeta only

theorem execCursorPrev_keeps {p minsev s} : OutKeeps s (execCursorPrev p minsev s) := by
  unfold execCursorPrev
  repeat' first
    | with_reducible apply Keeps.refl
    | with_reducible assumption
    | with_reducible apply OutKeeps.refused
    | with_reducible apply OutKeeps.next
    | with_reducible apply State.cursorPrevOp_keeps
    | with_reducible apply OutKeeps.ite
    | intro _
    | split
    | dsimp -zeta only

theorem State.windowCheck_keeps {st0 s p} (hk : Keeps st0 s) : Keeps st0 (State.windowCheck s p) := by
  refine hk.trans ?_; clear hk
  unfold State.windowCheck
  repeat' first
    | with_reducible apply Keeps.refl
    | with_reducible assumption
    | with_reducible apply State.answer_keeps
    | with_reducible apply State.relatch_keeps
    | with_reducible apply State.cursorStat_keeps
    | intro _
    | split
    | dsimp -zeta only

theorem execWindowRead_keeps {p _i s} : OutKeeps s (execWindowRead p _i s) := by
  unfold execWindowRead
  repeat' first
    | with_reducible apply Keeps.refl
    | with_reducible assumption
    | with_reducible apply OutKeeps.refused
    | with_reducible apply OutKeeps.next
    | with_reducible apply State.windowCheck_keeps
    | with_reducible apply OutKeeps.ite
    | intro _
    | split
    | dsimp -zeta only

theorem State.rebuilt_keeps {st0 s bad ms_} (hk : Keeps st0 s) : Keeps st0 (State.rebuilt s bad ms_) := by
  refine hk.trans ?_; clear hk
  unfold State.rebuilt
  repeat' first
    | with_reducible apply Keeps.refl
    | with_reducible assumption
    | (extract_lets +onlyGivenNames a
       first
       | (refine Keeps.cut (m := a) ?_ ?_
          on_goal 2 => (clear_value a; intro _)
          on_goal 1 => (dsimp -zeta only [a]; clear a))
       | (refine Keeps.cut (m := a.2) ?_ ?_
          on_goal 2 => (clear_value a; intro _)
          on_goal 1 => (dsimp -zeta only [a]; clear a))
       | (refine Keeps.cut (m := a.1) ?_ ?_
          on_goal 2 => (clear_value a; intro _)
          on_goal 1 => (dsimp -zeta only [a]; clear a))
       | subst a)
    | with_reducible apply State.raise_keeps
    | with_reducible apply State.setMor_keeps
    | with_reducible apply State.wr_keeps
    | with_reducible apply State.setFlag_keeps
    | with_reducible apply State.setFld_keeps
    | with_reducible apply State.putNextSeq_keeps
    | with_reducible apply foldS_keeps
    | ((with_reducible apply Keeps.of_snd); on_goal 1 => with_reducible assumption)
    | ((with_reducible apply Keeps.of_fst); on_goal 1 => with_reducible assumption)
    | intro _
    | split
    | dsimp -zeta only

theorem execIndexRebuildDone_keeps {badSlots ms_ t s} : OutKeeps s (execIndexRebuildDone badSlots ms_ t s) := by
  unfold execIndexRebuildDone
  repeat' first
    | with_reducible apply Keeps.refl
    | with_reducible assumption
    | (extract_lets +onlyGivenNames a
       first
       | (refine Keeps.cut (m := a) ?_ ?_
          on_goal 2 => (clear_value a; intro _)
          on_goal 1 => (dsimp -zeta only [a]; clear a))
       | (refine Keeps.cut (m := a.2) ?_ ?_
          on_goal 2 => (clear_value a; intro _)
          on_goal 1 => (dsimp -zeta only [a]; clear a))
       | (refine Keeps.cut (m := a.1) ?_ ?_
          on_goal 2 => (clear_value a; intro _)
          on_goal 1 => (dsimp -zeta only [a]; clear a))
       | subst a)
    | with_reducible apply OutKeeps.refused
    | with_reducible apply OutKeeps.next
    | with_reducible apply State.atTime_keeps
    | with_reducible apply State.rebuilt_keeps
    | with_reducible apply OutKeeps.ite
    | intro _
    | split
    | dsimp -zeta only

end Sys2Proof.Machine
end

