-- ==== Sys2Proof/Laws/KeepsGatehouse.lean ====
section
/-! SUPPORT. Every operation of `Machine/Gatehouse.lean` keeps the queue and the canonical forms. -/

set_option linter.all false
set_option Elab.async false
set_option maxHeartbeats 60000

namespace Sys2Proof.Machine

theorem Core.resynced_wf {k h} (g : h.wf = true) : (Core.resynced k h).wf = true := g

theorem Core.swapTo_wf {k x solo rsync} (g : Core.wf k = true) : (Core.swapTo k x solo rsync).wf = true := by
  unfold Core.swapTo
  dsimp only
  split
  · exact Core.next_wf g
  · exact g

theorem applyItem_keeps {tick : Nat} {acc : State × Refusals} {x : Nat × Item} : Keeps acc.1 (applyItem tick acc x).1 := by
  unfold applyItem
  split
  · dsimp only
    split
    · exact State.applyCommit_keeps (Keeps.refl _)
    · exact State.applyCommit_keeps (Keeps.refl _)
  · exact Keeps.refl _

theorem State.noteApplyTime_keeps {st0 s} (hk : Keeps st0 s) : Keeps st0 (State.noteApplyTime s) := by
  refine hk.trans ?_; clear hk
  unfold State.noteApplyTime
  repeat' first
    | with_reducible apply Keeps.refl
    | with_reducible assumption
    | (extract_lets +onlyGivenNames a
       first
       | (refine Keeps.cut (m := a) ?_ ?_
          on_goal 2 => (clear_value a; intro _)
          on_goal 1 => (dsimp -zeta only [a]; clear a))
       | (refine Keeps.cut (m := a.2) ?_ ?_
          on_goal 2 => (clear_value a; intro _)
          on_goal 1 => (dsimp -zeta only [a]; clear a))
       | (refine Keeps.cut (m := a.1) ?_ ?_
          on_goal 2 => (clear_value a; intro _)
          on_goal 1 => (dsimp -zeta only [a]; clear a))
       | subst a)
    | with_reducible apply State.freshWord_keeps
    | with_reducible apply State.setFld_keeps
    | intro _
    | split
    | dsimp -zeta only

theorem State.noteResults_keeps {st0 s l r tick} (hk : Keeps st0 s) : Keeps st0 (State.noteResults s l r tick) := by
  refine hk.trans ?_; clear hk
  unfold State.noteResults
  repeat' first
    | with_reducible apply Keeps.refl
    | with_reducible assumption
    | (extract_lets +onlyGivenNames a
       first
       | (refine Keeps.cut (m := a) ?_ ?_
          on_goal 2 => (clear_value a; intro _)
          on_goal 1 => (dsimp -zeta only [a]; clear a))
       | (refine Keeps.cut (m := a.2) ?_ ?_
          on_goal 2 => (clear_value a; intro _)
          on_goal 1 => (dsimp -zeta only [a]; clear a))
       | (refine Keeps.cut (m := a.1) ?_ ?_
          on_goal 2 => (clear_value a; intro _)
          on_goal 1 => (dsimp -zeta only [a]; clear a))
       | subst a)
    | with_reducible apply State.wrAll_keeps
    | with_reducible apply State.setFld_keeps
    | with_reducible apply State.noteApplyTime_keeps
    | with_reducible apply State.raise_keeps
    | ((with_reducible apply Keeps.of_snd); on_goal 1 => with_reducible assumption)
    | ((with_reducible apply Keeps.of_fst); on_goal 1 => with_reducible assumption)
    | intro _
    | split
    | dsimp -zeta only

theorem State.applyTick_keeps {st0 s l} (h : Keeps st0 s) : Keeps st0 (State.applyTick s l) := by
  refine h.trans ?_
  unfold State.applyTick
  have g : Keeps s ((numbered l).foldl (applyItem s.gate.tick) (s.noteApplied, ⟨0, none⟩)).1 :=
    foldl_keeps_fst (State.noteApplied_keeps (Keeps.refl s)) fun _ _ => applyItem_keeps
  have k := State.firstTickPanel_keeps (State.noteResults_keeps (l := l) (r :=
    ((numbered l).foldl (applyItem s.gate.tick) (s.noteApplied, ⟨0, none⟩)).2) (tick := s.gate.tick) g)
  dsimp only
  split
  · exact State.endStep_keeps k
  · exact k

theorem State.discardTick_keeps {st0 s source} (hk : Keeps st0 s) : Keeps st0 (State.discardTick s source) := by
  refine hk.trans ?_; clear hk
  unfold State.discardTick
  repeat' first
    | with_reducible apply Keeps.refl
    | with_reducible assumption
    | (extract_lets +onlyGivenNames a
       first
       | (refine Keeps.cut (m := a) ?_ ?_
          on_goal 2 => (clear_value a; intro _)
          on_goal 1 => (dsimp -zeta only [a]; clear a))
       | (refine Keeps.cut (m := a.2) ?_ ?_
          on_goal 2 => (clear_value a; intro _)
          on_goal 1 => (dsimp -zeta only [a]; clear a))
       | (refine Keeps.cut (m := a.1) ?_ ?_
          on_goal 2 => (clear_value a; intro _)
          on_goal 1 => (dsimp -zeta only [a]; clear a))
       | subst a)
    | with_reducible apply State.raise_keeps
    | with_reducible apply State.setGate_keeps
    | with_reducible apply State.addFld_keeps
    | intro _
    | split
    | dsimp -zeta only

theorem State.afterCmte_keeps {st0 s c} (hk : Keeps st0 s) : Keeps st0 (State.afterCmte s c) := by
  refine hk.trans ?_; clear hk
  unfold State.afterCmte
  repeat' first
    | with_reducible apply Keeps.refl
    | with_reducible assumption
    | with_reducible apply State.loneHalt_keeps
    | with_reducible apply State.applyTick_keeps
    | with_reducible apply State.diverge_keeps
    | ((with_reducible apply Keeps.of_snd); on_goal 1 => with_reducible assumption)
    | ((with_reducible apply Keeps.of_fst); on_goal 1 => with_reducible assumption)
    | intro _
    | split
    | dsimp -zeta only

/-- What a presenting instruction does to its core keeps the core's memory. -/
def ItemKeeps (f : Core → Sum (Nat × Nat) (Item × Core)) : Prop := ∀ k x k', f k = .inr (x, k') → k.wf = true → k'.wf = true

theorem State.presentStep_keeps {st0 s : State} {c : CoreId} {f} (h : Keeps st0 s) (hf : ItemKeeps f) :
    Keeps st0 (State.presentStep s c f) := by
  refine State.issue_keeps h fun k s' a q => ?_
  split
  · exact State.takeExc_keeps a
  · split
    · exact Keeps.refl s
    · rename_i e _
      refine State.present_keeps (State.passWords_keeps (State.setCore_keeps a fun g => ?_))
      have w := hf _ _ _ e (q g)
      exact w

theorem itemKeeps_cmt {wd wa wb fn} : ItemKeeps (cmtItem wd wa wb fn) := by
  intro k x k' e g
  unfold cmtItem at e
  repeat' split at e
  all_goals first | contradiction | (cases e; exact g)

theorem itemKeeps_snap {wd wa wb fn} : ItemKeeps (snapItem wd wa wb fn) := by
  intro k x k' e g
  unfold snapItem at e
  dsimp only at e
  repeat' split at e
  all_goals first | contradiction | (cases e; exact g)

theorem itemKeeps_cmte {l wd wa wb fn} : ItemKeeps (cmteItem l wd wa wb fn) := by
  intro k x k' e g
  unfold cmteItem at e
  repeat' split at e
  all_goals first | contradiction | (cases e; exact g)

theorem execCmt_keeps {c wd wa wb fn t s} : OutKeeps s (execCmt c wd wa wb fn t s) :=
  OutKeeps.next (State.presentStep_keeps (State.atTime_keeps (Keeps.refl s)) itemKeeps_cmt)

theorem execSnap_keeps {c wd wa wb fn t s} : OutKeeps s (execSnap c wd wa wb fn t s) :=
  OutKeeps.next (State.presentStep_keeps (State.atTime_keeps (Keeps.refl s)) itemKeeps_snap)

theorem State.cmte_keeps {st0 s c wd wa wb fn} (h : Keeps st0 s) : Keeps st0 (State.cmte s c wd wa wb fn) := by
  have g : Keeps st0 (s.presentStep c (cmteItem (s.items c) wd wa wb fn)) := State.presentStep_keeps h itemKeeps_cmte
  unfold State.cmte
  dsimp only
  split
  · exact State.afterCmte_keeps g
  · exact g

theorem execCmte_keeps {c wd wa wb fn t s} : OutKeeps s (execCmte c wd wa wb fn t s) := by
  unfold execCmte
  repeat' first
    | with_reducible apply Keeps.refl
    | with_reducible assumption
    | with_reducible apply OutKeeps.refused
    | with_reducible apply OutKeeps.next
    | with_reducible apply State.cmte_keeps
    | with_reducible apply State.atTime_keeps
    | with_reducible apply OutKeeps.ite
    | intro _
    | split
    | dsimp -zeta only

theorem State.afterRead_keeps {st0 s p a} (hk : Keeps st0 s) : Keeps st0 (State.afterRead s p a) := by
  refine hk.trans ?_; clear hk
  unfold State.afterRead
  repeat' first
    | with_reducible apply Keeps.refl
    | with_reducible assumption
    | with_reducible apply State.freezeCal_keeps
    | with_reducible apply State.releaseCal_keeps
    | intro _
    | split
    | dsimp -zeta only

theorem State.noteRead_keeps {st0 s c a} (hk : Keeps st0 s) : Keeps st0 (State.noteRead s c a) := by
  refine hk.trans ?_; clear hk
  unfold State.noteRead
  repeat' first
    | with_reducible apply Keeps.refl
    | with_reducible assumption
    | with_reducible apply State.setGate_keeps
    | ((with_reducible apply Keeps.of_snd); on_goal 1 => with_reducible assumption)
    | ((with_reducible apply Keeps.of_fst); on_goal 1 => with_reducible assumption)
    | intro _
    | split
    | dsimp -zeta only

theorem State.giveRead_keeps {st0 s c v} (hk : Keeps st0 s) : Keeps st0 (State.giveRead s c v) := by
  refine hk.trans ?_; clear hk
  unfold State.giveRead
  repeat' first
    | with_reducible apply Keeps.refl
    | with_reducible assumption
    | (extract_lets +onlyGivenNames a
       first
       | (refine Keeps.cut (m := a) ?_ ?_
          on_goal 2 => (clear_value a; intro _)
          on_goal 1 => (dsimp -zeta only [a]; clear a))
       | (refine Keeps.cut (m := a.2) ?_ ?_
          on_goal 2 => (clear_value a; intro _)
          on_goal 1 => (dsimp -zeta only [a]; clear a))
       | (refine Keeps.cut (m := a.1) ?_ ?_
          on_goal 2 => (clear_value a; intro _)
          on_goal 1 => (dsimp -zeta only [a]; clear a))
       | subst a)
    | ((with_reducible apply Keeps.of_snd); on_goal 1 => with_reducible assumption)
    | ((with_reducible apply Keeps.of_fst); on_goal 1 => with_reducible assumption)
    | ((with_reducible apply State.setCore_same); on_goal 2 => (intro g; solve | (repeat' first | with_reducible apply Core.release_wf | with_reducible apply Core.set_wf | with_reducible apply Core.ask_wf | with_reducible apply Core.touch_wf | with_reducible apply Core.fetchFrom_wf | with_reducible apply Core.placeLine_wf | with_reducible apply Core.next_wf | with_reducible apply Core.setTimer_wf | with_reducible apply Core.resynced_wf | with_reducible apply Core.swapTo_wf | exact g)))
    | ((with_reducible apply State.setCore_empty); on_goal 2 => rfl)
    | intro _
    | split
    | dsimp -zeta only

theorem State.serve_keeps {st0 s cs a} (hk : Keeps st0 s) : Keeps st0 (State.serve s cs a) := by
  refine hk.trans ?_; clear hk
  unfold State.serve
  repeat' first
    | with_reducible apply Keeps.refl
    | with_reducible assumption
    | (extract_lets +onlyGivenNames a
       first
       | (refine Keeps.cut (m := a) ?_ ?_
          on_goal 2 => (clear_value a; intro _)
          on_goal 1 => (dsimp -zeta only [a]; clear a))
       | (refine Keeps.cut (m := a.2) ?_ ?_
          on_goal 2 => (clear_value a; intro _)
          on_goal 1 => (dsimp -zeta only [a]; clear a))
       | (refine Keeps.cut (m := a.1) ?_ ?_
          on_goal 2 => (clear_value a; intro _)
          on_goal 1 => (dsimp -zeta only [a]; clear a))
       | subst a)
    | with_reducible apply State.measure_keeps
    | with_reducible apply State.afterRead_keeps
    | with_reducible apply State.giveRead_keeps
    | with_reducible apply foldS_keeps
    | ((with_reducible apply Keeps.of_snd); on_goal 1 => with_reducible assumption)
    | ((with_reducible apply Keeps.of_fst); on_goal 1 => with_reducible assumption)
    | intro _
    | split
    | dsimp -zeta only

theorem State.brokerLoad_keeps {st0 s c a} (hk : Keeps st0 s) : Keeps st0 (State.brokerLoad s c a) := by
  refine hk.trans ?_; clear hk
  unfold State.brokerLoad
  repeat' first
    | with_reducible apply Keeps.refl
    | with_reducible assumption
    | with_reducible apply State.serve_keeps
    | with_reducible apply State.diverge_keeps
    | with_reducible apply State.giveRead_keeps
    | ((with_reducible apply Keeps.of_snd); on_goal 1 => with_reducible assumption)
    | ((with_reducible apply Keeps.of_fst); on_goal 1 => with_reducible assumption)
    | intro _
    | split
    | dsimp -zeta only

theorem State.loadN_keeps {st0 s : State} {c : CoreId} {n ext wd wa imm} (h : Keeps st0 s) :
    Keeps st0 (State.loadN s c n ext wd wa imm) := by
  refine State.issue_keeps h fun k s' a q => ?_
  dsimp only
  repeat' split
  all_goals first
    | exact Keeps.refl s
    | exact State.takeExc_keeps a
    | exact State.brokerLoad_keeps (State.noteRead_keeps (State.setCore_keeps a fun g => Core.wait_wf (q g)))
    | exact State.setCore_keeps a fun g => Core.next_wf (q g)
    | exact State.setCore_keeps a fun g => Core.next_wf (Core.ask_wf (Core.touch_wf (q g)))

theorem execLw_keeps {c wd wa imm s} : OutKeeps s (execLw c wd wa imm s) := by
  unfold execLw
  repeat' first
    | with_reducible apply Keeps.refl
    | with_reducible assumption
    | with_reducible apply OutKeeps.refused
    | with_reducible apply OutKeeps.next
    | with_reducible apply State.loadN_keeps
    | with_reducible apply OutKeeps.ite
    | intro _
    | split
    | dsimp -zeta only

theorem execLh_keeps {c wd wa imm s} : OutKeeps s (execLh c wd wa imm s) := by
  unfold execLh
  repeat' first
    | with_reducible apply Keeps.refl
    | with_reducible assumption
    | with_reducible apply OutKeeps.refused
    | with_reducible apply OutKeeps.next
    | with_reducible apply State.loadN_keeps
    | ((with_reducible apply Keeps.of_snd); on_goal 1 => with_reducible assumption)
    | ((with_reducible apply Keeps.of_fst); on_goal 1 => with_reducible assumption)
    | with_reducible apply OutKeeps.ite
    | intro _
    | split
    | dsimp -zeta only

theorem execLhu_keeps {c wd wa imm s} : OutKeeps s (execLhu c wd wa imm s) := by
  unfold execLhu
  repeat' first
    | with_reducible apply Keeps.refl
    | with_reducible assumption
    | with_reducible apply OutKeeps.refused
    | with_reducible apply OutKeeps.next
    | with_reducible apply State.loadN_keeps
    | with_reducible apply OutKeeps.ite
    | intro _
    | split
    | dsimp -zeta only

theorem execLb_keeps {c wd wa imm s} : OutKeeps s (execLb c wd wa imm s) := by
  unfold execLb
  repeat' first
    | with_reducible apply Keeps.refl
    | with_reducible assumption
    | with_reducible apply OutKeeps.refused
    | with_reducible apply OutKeeps.next
    | with_reducible apply State.loadN_keeps
    | ((with_reducible apply Keeps.of_snd); on_goal 1 => with_reducible assumption)
    | ((with_reducible apply Keeps.of_fst); on_goal 1 => with_reducible assumption)
    | with_reducible apply OutKeeps.ite
    | intro _
    | split
    | dsimp -zeta only

theorem execLbu_keeps {c wd wa imm s} : OutKeeps s (execLbu c wd wa imm s) := by
  unfold execLbu
  repeat' first
    | with_reducible apply Keeps.refl
    | with_reducible assumption
    | with_reducible apply OutKeeps.refused
    | with_reducible apply OutKeeps.next
    | with_reducible apply State.loadN_keeps
    | with_reducible apply OutKeeps.ite
    | intro _
    | split
    | dsimp -zeta only

theorem State.serveReads_keeps {st0 s} (hk : Keeps st0 s) : Keeps st0 (State.serveReads s) := by
  refine hk.trans ?_; clear hk
  unfold State.serveReads
  repeat' first
    | with_reducible apply Keeps.refl
    | with_reducible assumption
    | with_reducible apply State.serve_keeps
    | ((with_reducible apply Keeps.of_snd); on_goal 1 => with_reducible assumption)
    | ((with_reducible apply Keeps.of_fst); on_goal 1 => with_reducible assumption)
    | intro _
    | split
    | dsimp -zeta only

theorem execPairedReadServed_keeps {t s} : OutKeeps s (execPairedReadServed t s) := by
  unfold execPairedReadServed
  repeat' first
    | with_reducible apply Keeps.refl
    | with_reducible assumption
    | (extract_lets +onlyGivenNames a
       first
       | (refine Keeps.cut (m := a) ?_ ?_
          on_goal 2 => (clear_value a; intro _)
          on_goal 1 => (dsimp -zeta only [a]; clear a))
       | (refine Keeps.cut (m := a.2) ?_ ?_
          on_goal 2 => (clear_value a; intro _)
          on_goal 1 => (dsimp -zeta only [a]; clear a))
       | (refine Keeps.cut (m := a.1) ?_ ?_
          on_goal 2 => (clear_value a; intro _)
          on_goal 1 => (dsimp -zeta only [a]; clear a))
       | subst a)
    | with_reducible apply OutKeeps.refused
    | with_reducible apply OutKeeps.next
    | with_reducible apply State.atTime_keeps
    | with_reducible apply State.serveReads_keeps
    | with_reducible apply OutKeeps.ite
    | intro _
    | split
    | dsimp -zeta only

theorem State.deadline_keeps {st0 s} (hk : Keeps st0 s) : Keeps st0 (State.deadline s) := by
  refine hk.trans ?_; clear hk
  unfold State.deadline
  repeat' first
    | with_reducible apply Keeps.refl
    | with_reducible assumption
    | with_reducible apply State.loneHalt_keeps
    | with_reducible apply State.discardTick_keeps
    | with_reducible apply State.diverge_keeps
    | ((with_reducible apply Keeps.of_snd); on_goal 1 => with_reducible assumption)
    | ((with_reducible apply Keeps.of_fst); on_goal 1 => with_reducible assumption)
    | intro _
    | split
    | dsimp -zeta only

theorem execCmteDeadline_keeps {t s} : OutKeeps s (execCmteDeadline t s) := by
  unfold execCmteDeadline
  repeat' first
    | with_reducible apply Keeps.refl
    | with_reducible assumption
    | (extract_lets +onlyGivenNames a
       first
       | (refine Keeps.cut (m := a) ?_ ?_
          on_goal 2 => (clear_value a; intro _)
          on_goal 1 => (dsimp -zeta only [a]; clear a))
       | (refine Keeps.cut (m := a.2) ?_ ?_
          on_goal 2 => (clear_value a; intro _)
          on_goal 1 => (dsimp -zeta only [a]; clear a))
       | (refine Keeps.cut (m := a.1) ?_ ?_
          on_goal 2 => (clear_value a; intro _)
          on_goal 1 => (dsimp -zeta only [a]; clear a))
       | subst a)
    | with_reducible apply OutKeeps.refused
    | with_reducible apply OutKeeps.next
    | with_reducible apply State.atTime_keeps
    | with_reducible apply State.deadline_keeps
    | with_reducible apply OutKeeps.ite
    | intro _
    | split
    | dsimp -zeta only

theorem State.condemnBoth_keeps {st0 s cause} (hk : Keeps st0 s) : Keeps st0 (State.condemnBoth s cause) := by
  refine hk.trans ?_; clear hk
  unfold State.condemnBoth
  repeat' first
    | with_reducible apply Keeps.refl
    | with_reducible assumption
    | with_reducible apply State.lastCoreLost_keeps
    | with_reducible apply State.setFld_keeps
    | with_reducible apply State.resumeCores_keeps
    | with_reducible apply State.isolate_keeps
    | intro _
    | split
    | dsimp -zeta only

theorem State.verdict_keeps {st0 s failA failB crcA crcB} (hk : Keeps st0 s) : Keeps st0 (State.verdict s failA failB crcA crcB) := by
  refine hk.trans ?_; clear hk
  unfold State.verdict
  repeat' first
    | with_reducible apply Keeps.refl
    | with_reducible assumption
    | (extract_lets +onlyGivenNames a
       first
       | (refine Keeps.cut (m := a) ?_ ?_
          on_goal 2 => (clear_value a; intro _)
          on_goal 1 => (dsimp -zeta only [a]; clear a))
       | (refine Keeps.cut (m := a.2) ?_ ?_
          on_goal 2 => (clear_value a; intro _)
          on_goal 1 => (dsimp -zeta only [a]; clear a))
       | (refine Keeps.cut (m := a.1) ?_ ?_
          on_goal 2 => (clear_value a; intro _)
          on_goal 1 => (dsimp -zeta only [a]; clear a))
       | subst a)
    | with_reducible apply State.setFld_keeps
    | with_reducible apply State.noteVerdict_keeps
    | with_reducible apply State.condemn_keeps
    | with_reducible apply State.condemnBoth_keeps
    | with_reducible apply State.resumeCores_keeps
    | with_reducible apply State.setGate_keeps
    | intro _
    | split
    | dsimp -zeta only

theorem execSelfCheckComplete_keeps {failA failB crcA crcB t s} : OutKeeps s (execSelfCheckComplete failA failB crcA crcB t s) := by
  unfold execSelfCheckComplete
  repeat' first
    | with_reducible apply Keeps.refl
    | with_reducible assumption
    | (extract_lets +onlyGivenNames a
       first
       | (refine Keeps.cut (m := a) ?_ ?_
          on_goal 2 => (clear_value a; intro _)
          on_goal 1 => (dsimp -zeta only [a]; clear a))
       | (refine Keeps.cut (m := a.2) ?_ ?_
          on_goal 2 => (clear_value a; intro _)
          on_goal 1 => (dsimp -zeta only [a]; clear a))
       | (refine Keeps.cut (m := a.1) ?_ ?_
          on_goal 2 => (clear_value a; intro _)
          on_goal 1 => (dsimp -zeta only [a]; clear a))
       | subst a)
    | with_reducible apply OutKeeps.refused
    | with_reducible apply OutKeeps.next
    | with_reducible apply State.atTime_keeps
    | with_reducible apply State.verdict_keeps
    | with_reducible apply OutKeeps.ite
    | intro _
    | split
    | dsimp -zeta only

theorem State.bulkDone_keeps {st0 s dirty} (hk : Keeps st0 s) : Keeps st0 (State.bulkDone s dirty) := by
  refine hk.trans ?_; clear hk
  unfold State.bulkDone
  repeat' first
    | with_reducible apply Keeps.refl
    | with_reducible assumption
    | with_reducible apply State.beginFinal_keeps
    | with_reducible apply State.setGate_keeps
    | with_reducible apply State.setFld_keeps
    | intro _
    | split
    | dsimp -zeta only

theorem execResyncBulkDone_keeps {dirty s} : OutKeeps s (execResyncBulkDone dirty s) := by
  unfold execResyncBulkDone
  repeat' first
    | with_reducible apply Keeps.refl
    | with_reducible assumption
    | with_reducible apply OutKeeps.refused
    | with_reducible apply OutKeeps.next
    | with_reducible apply State.bulkDone_keeps
    | with_reducible apply OutKeeps.ite
    | intro _
    | split
    | dsimp -zeta only

theorem State.finalPass_keeps {st0 s us dirty} (h : Keeps st0 s) : Keeps st0 (State.finalPass s us dirty) := by
  refine h.trans ?_
  unfold State.finalPass
  dsimp only
  refine State.setFld_keeps (State.wr_keeps (State.setGate_keeps (State.setCore_keeps (Keeps.refl s) fun q => ?_)))
  exact Core.resynced_wf (State.core_wf q)

theorem execResyncFinalDone_keeps {us dirty t s} : OutKeeps s (execResyncFinalDone us dirty t s) := by
  unfold execResyncFinalDone
  repeat' first
    | with_reducible apply Keeps.refl
    | with_reducible assumption
    | (extract_lets +onlyGivenNames a
       first
       | (refine Keeps.cut (m := a) ?_ ?_
          on_goal 2 => (clear_value a; intro _)
          on_goal 1 => (dsimp -zeta only [a]; clear a))
       | (refine Keeps.cut (m := a.2) ?_ ?_
          on_goal 2 => (clear_value a; intro _)
          on_goal 1 => (dsimp -zeta only [a]; clear a))
       | (refine Keeps.cut (m := a.1) ?_ ?_
          on_goal 2 => (clear_value a; intro _)
          on_goal 1 => (dsimp -zeta only [a]; clear a))
       | subst a)
    | with_reducible apply OutKeeps.refused
    | with_reducible apply OutKeeps.next
    | with_reducible apply State.atTime_keeps
    | with_reducible apply State.finalPass_keeps
    | with_reducible apply OutKeeps.ite
    | intro _
    | split
    | dsimp -zeta only

theorem State.readmit_keeps {st0 s v} (hk : Keeps st0 s) : Keeps st0 (State.readmit s v) := by
  refine hk.trans ?_; clear hk
  unfold State.readmit
  repeat' first
    | with_reducible apply Keeps.refl
    | with_reducible assumption
    | (extract_lets +onlyGivenNames a
       first
       | (refine Keeps.cut (m := a) ?_ ?_
          on_goal 2 => (clear_value a; intro _)
          on_goal 1 => (dsimp -zeta only [a]; clear a))
       | (refine Keeps.cut (m := a.2) ?_ ?_
          on_goal 2 => (clear_value a; intro _)
          on_goal 1 => (dsimp -zeta only [a]; clear a))
       | (refine Keeps.cut (m := a.1) ?_ ?_
          on_goal 2 => (clear_value a; intro _)
          on_goal 1 => (dsimp -zeta only [a]; clear a))
       | subst a)
    | with_reducible apply State.answer_keeps
    | with_reducible apply State.setFlag_keeps
    | with_reducible apply State.noteLk_keeps
    | with_reducible apply State.setFld_keeps
    | with_reducible apply State.needCycle_keeps
    | intro _
    | split
    | dsimp -zeta only

theorem execTwnReadmit_keeps {_p v t s} : OutKeeps s (execTwnReadmit _p v t s) := by
  unfold execTwnReadmit
  repeat' first
    | with_reducible apply Keeps.refl
    | with_reducible assumption
    | with_reducible apply OutKeeps.refused
    | with_reducible apply OutKeeps.next
    | with_reducible apply State.readmit_keeps
    | with_reducible apply State.atTime_keeps
    | with_reducible apply OutKeeps.ite
    | intro _
    | split
    | dsimp -zeta only

theorem State.takeSnap_keeps {st0 s} (hk : Keeps st0 s) : Keeps st0 (State.takeSnap s) := by
  refine hk.trans ?_; clear hk
  unfold State.takeSnap
  repeat' first
    | with_reducible apply Keeps.refl
    | with_reducible assumption
    | (extract_lets +onlyGivenNames a
       first
       | (refine Keeps.cut (m := a) ?_ ?_
          on_goal 2 => (clear_value a; intro _)
          on_goal 1 => (dsimp -zeta only [a]; clear a))
       | (refine Keeps.cut (m := a.2) ?_ ?_
          on_goal 2 => (clear_value a; intro _)
          on_goal 1 => (dsimp -zeta only [a]; clear a))
       | (refine Keeps.cut (m := a.1) ?_ ?_
          on_goal 2 => (clear_value a; intro _)
          on_goal 1 => (dsimp -zeta only [a]; clear a))
       | subst a)
    | with_reducible apply State.setMor_keeps
    | with_reducible apply State.setAlm_keeps
    | intro _
    | split
    | dsimp -zeta only

theorem State.startCopy_keeps {st0 x s c} (hk : Keeps st0 s) : Keeps st0 (State.startCopy x s c) := by
  refine hk.trans ?_; clear hk
  unfold State.startCopy
  repeat' first
    | with_reducible apply Keeps.refl
    | with_reducible assumption
    | ((with_reducible apply State.setCore_same); on_goal 2 => (intro g; solve | (repeat' first | with_reducible apply Core.release_wf | with_reducible apply Core.set_wf | with_reducible apply Core.ask_wf | with_reducible apply Core.touch_wf | with_reducible apply Core.fetchFrom_wf | with_reducible apply Core.placeLine_wf | with_reducible apply Core.next_wf | with_reducible apply Core.setTimer_wf | with_reducible apply Core.resynced_wf | with_reducible apply Core.swapTo_wf | exact g)))
    | ((with_reducible apply State.setCore_empty); on_goal 2 => rfl)
    | intro _
    | split
    | dsimp -zeta only

theorem State.boundary_keeps {st0 s} (hk : Keeps st0 s) : Keeps st0 (State.boundary s) := by
  refine hk.trans ?_; clear hk
  unfold State.boundary
  repeat' first
    | with_reducible apply Keeps.refl
    | with_reducible assumption
    | (extract_lets +onlyGivenNames a
       first
       | (refine Keeps.cut (m := a) ?_ ?_
          on_goal 2 => (clear_value a; intro _)
          on_goal 1 => (dsimp -zeta only [a]; clear a))
       | (refine Keeps.cut (m := a.2) ?_ ?_
          on_goal 2 => (clear_value a; intro _)
          on_goal 1 => (dsimp -zeta only [a]; clear a))
       | (refine Keeps.cut (m := a.1) ?_ ?_
          on_goal 2 => (clear_value a; intro _)
          on_goal 1 => (dsimp -zeta only [a]; clear a))
       | subst a)
    | with_reducible apply State.setGate_keeps
    | with_reducible apply State.takeSnap_keeps
    | with_reducible apply State.startCopy_keeps
    | with_reducible apply foldS_keeps
    | intro _
    | split
    | dsimp -zeta only

theorem execTickBoundary_keeps {t s} : OutKeeps s (execTickBoundary t s) := by
  unfold execTickBoundary
  repeat' first
    | with_reducible apply Keeps.refl
    | with_reducible assumption
    | (extract_lets +onlyGivenNames a
       first
       | (refine Keeps.cut (m := a) ?_ ?_
          on_goal 2 => (clear_value a; intro _)
          on_goal 1 => (dsimp -zeta only [a]; clear a))
       | (refine Keeps.cut (m := a.2) ?_ ?_
          on_goal 2 => (clear_value a; intro _)
          on_goal 1 => (dsimp -zeta only [a]; clear a))
       | (refine Keeps.cut (m := a.1) ?_ ?_
          on_goal 2 => (clear_value a; intro _)
          on_goal 1 => (dsimp -zeta only [a]; clear a))
       | subst a)
    | with_reducible apply OutKeeps.refused
    | with_reducible apply OutKeeps.next
    | with_reducible apply State.atTime_keeps
    | with_reducible apply State.boundary_keeps
    | with_reducible apply OutKeeps.ite
    | intro _
    | split
    | dsimp -zeta only

theorem execSnapshotCopyComplete_keeps {c s} : OutKeeps s (execSnapshotCopyComplete c s) := by
  unfold execSnapshotCopyComplete
  repeat' first
    | with_reducible apply Keeps.refl
    | with_reducible assumption
    | (extract_lets +onlyGivenNames a
       first
       | (refine Keeps.cut (m := a) ?_ ?_
          on_goal 2 => (clear_value a; intro _)
          on_goal 1 => (dsimp -zeta only [a]; clear a))
       | (refine Keeps.cut (m := a.2) ?_ ?_
          on_goal 2 => (clear_value a; intro _)
          on_goal 1 => (dsimp -zeta only [a]; clear a))
       | (refine Keeps.cut (m := a.1) ?_ ?_
          on_goal 2 => (clear_value a; intro _)
          on_goal 1 => (dsimp -zeta only [a]; clear a))
       | subst a)
    | with_reducible apply OutKeeps.refused
    | with_reducible apply OutKeeps.next
    | ((with_reducible apply Keeps.of_snd); on_goal 1 => with_reducible assumption)
    | ((with_reducible apply Keeps.of_fst); on_goal 1 => with_reducible assumption)
    | ((with_reducible apply State.setCore_same); on_goal 2 => (intro g; solve | (repeat' first | with_reducible apply Core.release_wf | with_reducible apply Core.set_wf | with_reducible apply Core.ask_wf | with_reducible apply Core.touch_wf | with_reducible apply Core.fetchFrom_wf | with_reducible apply Core.placeLine_wf | with_reducible apply Core.next_wf | with_reducible apply Core.setTimer_wf | with_reducible apply Core.resynced_wf | with_reducible apply Core.swapTo_wf | exact g)))
    | ((with_reducible apply State.setCore_empty); on_goal 2 => rfl)
    | with_reducible apply OutKeeps.ite
    | intro _
    | split
    | dsimp -zeta only

theorem State.swapCore_keeps {st0 solo rsync s c} (hk : Keeps st0 s) : Keeps st0 (State.swapCore solo rsync s c) := by
  refine hk.trans ?_; clear hk
  unfold State.swapCore
  repeat' first
    | with_reducible apply Keeps.refl
    | with_reducible assumption
    | ((with_reducible apply Keeps.of_snd); on_goal 1 => with_reducible assumption)
    | ((with_reducible apply Keeps.of_fst); on_goal 1 => with_reducible assumption)
    | ((with_reducible apply State.setCore_same); on_goal 2 => (intro g; solve | (repeat' first | with_reducible apply Core.release_wf | with_reducible apply Core.set_wf | with_reducible apply Core.ask_wf | with_reducible apply Core.touch_wf | with_reducible apply Core.fetchFrom_wf | with_reducible apply Core.placeLine_wf | with_reducible apply Core.next_wf | with_reducible apply Core.setTimer_wf | with_reducible apply Core.resynced_wf | with_reducible apply Core.swapTo_wf | exact g)))
    | ((with_reducible apply State.setCore_empty); on_goal 2 => rfl)
    | intro _
    | split
    | dsimp -zeta only

theorem State.newTick_keeps {st0 s c} (hk : Keeps st0 s) : Keeps st0 (State.newTick s c) := by
  refine hk.trans ?_; clear hk
  unfold State.newTick
  repeat' first
    | with_reducible apply Keeps.refl
    | with_reducible assumption
    | with_reducible apply State.setGate_keeps
    | intro _
    | split
    | dsimp -zeta only

theorem State.goOn_keeps {st0 s c} (hk : Keeps st0 s) : Keeps st0 (State.goOn s c) := by
  refine hk.trans ?_; clear hk
  unfold State.goOn
  repeat' first
    | with_reducible apply Keeps.refl
    | with_reducible assumption
    | (extract_lets +onlyGivenNames a
       first
       | (refine Keeps.cut (m := a) ?_ ?_
          on_goal 2 => (clear_value a; intro _)
          on_goal 1 => (dsimp -zeta only [a]; clear a))
       | (refine Keeps.cut (m := a.2) ?_ ?_
          on_goal 2 => (clear_value a; intro _)
          on_goal 1 => (dsimp -zeta only [a]; clear a))
       | (refine Keeps.cut (m := a.1) ?_ ?_
          on_goal 2 => (clear_value a; intro _)
          on_goal 1 => (dsimp -zeta only [a]; clear a))
       | subst a)
    | with_reducible apply State.newTick_keeps
    | with_reducible apply State.swapCore_keeps
    | with_reducible apply State.setGate_keeps
    | with_reducible apply foldl_keeps
    | ((with_reducible apply Keeps.of_snd); on_goal 1 => with_reducible assumption)
    | ((with_reducible apply Keeps.of_fst); on_goal 1 => with_reducible assumption)
    | intro _
    | split
    | dsimp -zeta only

theorem State.catchUp_keeps {st0 s c} (hk : Keeps st0 s) : Keeps st0 (State.catchUp s c) := by
  refine hk.trans ?_; clear hk
  unfold State.catchUp
  repeat' first
    | with_reducible apply Keeps.refl
    | with_reducible assumption
    | (extract_lets +onlyGivenNames a
       first
       | (refine Keeps.cut (m := a) ?_ ?_
          on_goal 2 => (clear_value a; intro _)
          on_goal 1 => (dsimp -zeta only [a]; clear a))
       | (refine Keeps.cut (m := a.2) ?_ ?_
          on_goal 2 => (clear_value a; intro _)
          on_goal 1 => (dsimp -zeta only [a]; clear a))
       | (refine Keeps.cut (m := a.1) ?_ ?_
          on_goal 2 => (clear_value a; intro _)
          on_goal 1 => (dsimp -zeta only [a]; clear a))
       | subst a)
    | with_reducible apply State.swapCore_keeps
    | with_reducible apply State.setGate_keeps
    | with_reducible apply foldl_keeps
    | ((with_reducible apply Keeps.of_snd); on_goal 1 => with_reducible assumption)
    | ((with_reducible apply Keeps.of_fst); on_goal 1 => with_reducible assumption)
    | intro _
    | split
    | dsimp -zeta only

theorem State.twinAgain_keeps {st0 s} (hk : Keeps st0 s) : Keeps st0 (State.twinAgain s) := by
  refine hk.trans ?_; clear hk
  unfold State.twinAgain
  repeat' first
    | with_reducible apply Keeps.refl
    | with_reducible assumption
    | (extract_lets +onlyGivenNames a
       first
       | (refine Keeps.cut (m := a) ?_ ?_
          on_goal 2 => (clear_value a; intro _)
          on_goal 1 => (dsimp -zeta only [a]; clear a))
       | (refine Keeps.cut (m := a.2) ?_ ?_
          on_goal 2 => (clear_value a; intro _)
          on_goal 1 => (dsimp -zeta only [a]; clear a))
       | (refine Keeps.cut (m := a.1) ?_ ?_
          on_goal 2 => (clear_value a; intro _)
          on_goal 1 => (dsimp -zeta only [a]; clear a))
       | subst a)
    | with_reducible apply State.setFld_keeps
    | with_reducible apply State.raise_keeps
    | intro _
    | split
    | dsimp -zeta only

theorem State.swapTwin_keeps {st0 s c} (hk : Keeps st0 s) : Keeps st0 (State.swapTwin s c) := by
  refine hk.trans ?_; clear hk
  unfold State.swapTwin
  repeat' first
    | with_reducible apply Keeps.refl
    | with_reducible assumption
    | with_reducible apply State.newTick_keeps
    | with_reducible apply State.swapCore_keeps
    | with_reducible apply State.goOn_keeps
    | with_reducible apply State.catchUp_keeps
    | with_reducible apply foldS_keeps
    | intro _
    | split
    | dsimp -zeta only

theorem State.swap_keeps {st0 s c} (hk : Keeps st0 s) : Keeps st0 (State.swap s c) := by
  refine hk.trans ?_; clear hk
  unfold State.swap
  repeat' first
    | with_reducible apply Keeps.refl
    | with_reducible assumption
    | with_reducible apply State.swapTwin_keeps
    | with_reducible apply State.twinAgain_keeps
    | with_reducible apply State.newTick_keeps
    | with_reducible apply State.swapCore_keeps
    | with_reducible apply foldS_keeps
    | with_reducible apply foldl_keeps
    | intro _
    | split
    | dsimp -zeta only

theorem execSnapshotSwap_keeps {c s} : OutKeeps s (execSnapshotSwap c s) := by
  unfold execSnapshotSwap
  repeat' first
    | with_reducible apply Keeps.refl
    | with_reducible assumption
    | with_reducible apply OutKeeps.refused
    | with_reducible apply OutKeeps.next
    | with_reducible apply State.swap_keeps
    | with_reducible apply OutKeeps.ite
    | intro _
    | split
    | dsimp -zeta only

theorem State.releaseCores_keeps {st0 s} (hk : Keeps st0 s) : Keeps st0 (State.releaseCores s) := by
  refine hk.trans ?_; clear hk
  unfold State.releaseCores
  repeat' first
    | with_reducible apply Keeps.refl
    | with_reducible assumption
    | (extract_lets +onlyGivenNames a
       first
       | (refine Keeps.cut (m := a) ?_ ?_
          on_goal 2 => (clear_value a; intro _)
          on_goal 1 => (dsimp -zeta only [a]; clear a))
       | (refine Keeps.cut (m := a.2) ?_ ?_
          on_goal 2 => (clear_value a; intro _)
          on_goal 1 => (dsimp -zeta only [a]; clear a))
       | (refine Keeps.cut (m := a.1) ?_ ?_
          on_goal 2 => (clear_value a; intro _)
          on_goal 1 => (dsimp -zeta only [a]; clear a))
       | subst a)
    | with_reducible apply State.takeSnap_keeps
    | with_reducible apply State.setGate_keeps
    | with_reducible apply foldS_keeps
    | ((with_reducible apply State.setCore_same); on_goal 2 => (intro g; solve | (repeat' first | with_reducible apply Core.release_wf | with_reducible apply Core.set_wf | with_reducible apply Core.ask_wf | with_reducible apply Core.touch_wf | with_reducible apply Core.fetchFrom_wf | with_reducible apply Core.placeLine_wf | with_reducible apply Core.next_wf | with_reducible apply Core.setTimer_wf | with_reducible apply Core.resynced_wf | with_reducible apply Core.swapTo_wf | exact g)))
    | ((with_reducible apply State.setCore_empty); on_goal 2 => rfl)
    | intro _
    | split
    | dsimp -zeta only

theorem execCoresLeaveReset_keeps {t s} : OutKeeps s (execCoresLeaveReset t s) := by
  unfold execCoresLeaveReset
  repeat' first
    | with_reducible apply Keeps.refl
    | with_reducible assumption
    | (extract_lets +onlyGivenNames a
       first
       | (refine Keeps.cut (m := a) ?_ ?_
          on_goal 2 => (clear_value a; intro _)
          on_goal 1 => (dsimp -zeta only [a]; clear a))
       | (refine Keeps.cut (m := a.2) ?_ ?_
          on_goal 2 => (clear_value a; intro _)
          on_goal 1 => (dsimp -zeta only [a]; clear a))
       | (refine Keeps.cut (m := a.1) ?_ ?_
          on_goal 2 => (clear_value a; intro _)
          on_goal 1 => (dsimp -zeta only [a]; clear a))
       | subst a)
    | with_reducible apply OutKeeps.refused
    | with_reducible apply OutKeeps.next
    | with_reducible apply State.atTime_keeps
    | with_reducible apply State.releaseCores_keeps
    | with_reducible apply OutKeeps.ite
    | intro _
    | split
    | dsimp -zeta only

end Sys2Proof.Machine
end

