-- ==== Sys2Proof/Laws/KeepsRequests.lean ====
section
/-! SUPPORT. Every operation of `Machine/Requests.lean` keeps the queue and the canonical forms. -/

set_option linter.all false
set_option Elab.async false
set_option maxHeartbeats 60000

namespace Sys2Proof.Machine

theorem State.runReq_keeps {st0 s p m f} (hf : ∀ s, Keeps s (f s).1) (hk : Keeps st0 s) : Keeps st0 (State.runReq s p m f) := by
  refine hk.trans ?_; clear hk
  unfold State.runReq
  repeat' first
    | with_reducible apply Keeps.refl
    | with_reducible assumption
    | (extract_lets +onlyGivenNames a
       first
       | (refine Keeps.cut (m := a) ?_ ?_
          on_goal 2 => (clear_value a; intro _)
          on_goal 1 => (dsimp -zeta only [a]; clear a))
       | (refine Keeps.cut (m := a.2) ?_ ?_
          on_goal 2 => (clear_value a; intro _)
          on_goal 1 => (dsimp -zeta only [a]; clear a))
       | (refine Keeps.cut (m := a.1) ?_ ?_
          on_goal 2 => (clear_value a; intro _)
          on_goal 1 => (dsimp -zeta only [a]; clear a))
       | subst a)
    | with_reducible apply State.respond_keeps
    | with_reducible apply State.setRing_keeps
    | ((with_reducible apply Keeps.of_snd); on_goal 1 => with_reducible assumption)
    | ((with_reducible apply Keeps.of_fst); on_goal 1 => with_reducible assumption)
    | with_reducible apply Keeps.trans' (hf _)
    | with_reducible apply Keeps.trans' (hf _ _)
    | intro _
    | split
    | dsimp -zeta only

theorem State.ringReq_keeps {st0 s m f} (hf : ∀ s, Keeps s (f s).1) (hk : Keeps st0 s) : Keeps st0 (State.ringReq s m f) := by
  refine hk.trans ?_; clear hk
  unfold State.ringReq
  repeat' first
    | with_reducible apply Keeps.refl
    | with_reducible assumption
    | (extract_lets +onlyGivenNames a
       first
       | (refine Keeps.cut (m := a) ?_ ?_
          on_goal 2 => (clear_value a; intro _)
          on_goal 1 => (dsimp -zeta only [a]; clear a))
       | (refine Keeps.cut (m := a.2) ?_ ?_
          on_goal 2 => (clear_value a; intro _)
          on_goal 1 => (dsimp -zeta only [a]; clear a))
       | (refine Keeps.cut (m := a.1) ?_ ?_
          on_goal 2 => (clear_value a; intro _)
          on_goal 1 => (dsimp -zeta only [a]; clear a))
       | subst a)
    | with_reducible apply State.setRing_keeps
    | with_reducible apply State.runReq_keeps
    | with_reducible apply State.take_keeps
    | with_reducible apply Keeps.trans' (hf _)
    | with_reducible apply Keeps.trans' (hf _ _)
    | intro _
    | split
    | dsimp -zeta only

theorem State.svcSend_keeps {st0 s r} (hk : Keeps st0 s) : Keeps st0 (State.svcSend s r) := by
  refine hk.trans ?_; clear hk
  unfold State.svcSend
  repeat' first
    | with_reducible apply Keeps.refl
    | with_reducible assumption
    | with_reducible apply State.answer_keeps
    | with_reducible apply State.setRing_keeps
    | intro _
    | split
    | dsimp -zeta only

theorem State.svcReq_keeps {st0 s m f} (hf : ∀ s, Keeps s (f s).1) (hk : Keeps st0 s) : Keeps st0 (State.svcReq s m f) := by
  refine hk.trans ?_; clear hk
  unfold State.svcReq
  repeat' first
    | with_reducible apply Keeps.refl
    | with_reducible assumption
    | (extract_lets +onlyGivenNames a
       first
       | (refine Keeps.cut (m := a) ?_ ?_
          on_goal 2 => (clear_value a; intro _)
          on_goal 1 => (dsimp -zeta only [a]; clear a))
       | (refine Keeps.cut (m := a.2) ?_ ?_
          on_goal 2 => (clear_value a; intro _)
          on_goal 1 => (dsimp -zeta only [a]; clear a))
       | (refine Keeps.cut (m := a.1) ?_ ?_
          on_goal 2 => (clear_value a; intro _)
          on_goal 1 => (dsimp -zeta only [a]; clear a))
       | subst a)
    | with_reducible apply State.svcSend_keeps
    | with_reducible apply State.setHeard_keeps
    | with_reducible apply State.runReq_keeps
    | with_reducible apply State.addFld_keeps
    | ((with_reducible apply Keeps.of_snd); on_goal 1 => with_reducible assumption)
    | ((with_reducible apply Keeps.of_fst); on_goal 1 => with_reducible assumption)
    | with_reducible apply Keeps.trans' (hf _)
    | with_reducible apply Keeps.trans' (hf _ _)
    | intro _
    | split
    | dsimp -zeta only

theorem State.request_keeps {st0 s p m fits f} (hf : ∀ s, Keeps s (f s).1) (hk : Keeps st0 s) : Keeps st0 (State.request s p m fits f) := by
  refine hk.trans ?_; clear hk
  unfold State.request
  repeat' first
    | with_reducible apply Keeps.refl
    | with_reducible assumption
    | with_reducible apply State.ringReq_keeps
    | with_reducible apply State.svcReq_keeps
    | ((with_reducible apply Keeps.of_snd); on_goal 1 => with_reducible assumption)
    | ((with_reducible apply Keeps.of_fst); on_goal 1 => with_reducible assumption)
    | with_reducible apply Keeps.trans' (hf _)
    | with_reducible apply Keeps.trans' (hf _ _)
    | intro _
    | split
    | dsimp -zeta only

theorem now__keeps {st0 f s} (hf : ∀ s, Keeps s (f s).1) (hk : Keeps st0 s) : Keeps st0 (now_ f s).1 := by
  refine hk.trans ?_; clear hk
  unfold now_
  repeat' first
    | with_reducible apply Keeps.refl
    | with_reducible assumption
    | (extract_lets +onlyGivenNames a
       first
       | (refine Keeps.cut (m := a) ?_ ?_
          on_goal 2 => (clear_value a; intro _)
          on_goal 1 => (dsimp -zeta only [a]; clear a))
       | (refine Keeps.cut (m := a.2) ?_ ?_
          on_goal 2 => (clear_value a; intro _)
          on_goal 1 => (dsimp -zeta only [a]; clear a))
       | (refine Keeps.cut (m := a.1) ?_ ?_
          on_goal 2 => (clear_value a; intro _)
          on_goal 1 => (dsimp -zeta only [a]; clear a))
       | subst a)
    | with_reducible apply Keeps.trans' (hf _)
    | with_reducible apply Keeps.trans' (hf _ _)
    | intro _
    | split
    | dsimp -zeta only

end Sys2Proof.Machine
end

