-- ==== Sys2Proof/Laws/KeepsRante.lean ====
section
/-! SUPPORT. Every operation of `Machine/Rante.lean` keeps the queue and the canonical forms. -/

set_option linter.all false
set_option Elab.async false
set_option maxHeartbeats 60000

namespace Sys2Proof.Machine

theorem State.stageWindow_keeps {st0 s kind n} (hk : Keeps st0 s) : Keeps st0 (State.stageWindow s kind n) := by
  refine hk.trans ?_; clear hk
  unfold State.stageWindow
  repeat' first
    | with_reducible apply Keeps.refl
    | with_reducible assumption
    | (extract_lets +onlyGivenNames a
       first
       | (refine Keeps.cut (m := a) ?_ ?_
          on_goal 2 => (clear_value a; intro _)
          on_goal 1 => (dsimp -zeta only [a]; clear a))
       | (refine Keeps.cut (m := a.2) ?_ ?_
          on_goal 2 => (clear_value a; intro _)
          on_goal 1 => (dsimp -zeta only [a]; clear a))
       | (refine Keeps.cut (m := a.1) ?_ ?_
          on_goal 2 => (clear_value a; intro _)
          on_goal 1 => (dsimp -zeta only [a]; clear a))
       | subst a)
    | with_reducible apply State.freshWord_keeps
    | with_reducible apply State.noteStaged_keeps
    | with_reducible apply State.replaceEntry_keeps
    | with_reducible apply State.raise_keeps
    | intro _
    | split
    | dsimp -zeta only

theorem State.stageChannel_keeps {st0 s n} (hk : Keeps st0 s) : Keeps st0 (State.stageChannel s n) := by
  refine hk.trans ?_; clear hk
  unfold State.stageChannel
  repeat' first
    | with_reducible apply Keeps.refl
    | with_reducible assumption
    | with_reducible apply State.stageWindow_keeps
    | with_reducible apply foldS_keeps
    | ((with_reducible apply Keeps.of_snd); on_goal 1 => with_reducible assumption)
    | ((with_reducible apply Keeps.of_fst); on_goal 1 => with_reducible assumption)
    | intro _
    | split
    | dsimp -zeta only

theorem State.ranteTouch_keeps {st0 s o} (hk : Keeps st0 s) : Keeps st0 (State.ranteTouch s o) := by
  refine hk.trans ?_; clear hk
  unfold State.ranteTouch
  repeat' first
    | with_reducible apply Keeps.refl
    | with_reducible assumption
    | with_reducible apply State.setRwn_keeps
    | ((with_reducible apply Keeps.of_snd); on_goal 1 => with_reducible assumption)
    | ((with_reducible apply Keeps.of_fst); on_goal 1 => with_reducible assumption)
    | intro _
    | split
    | dsimp -zeta only

theorem State.ranteReadAll_keeps {st0 s l} (h : Keeps st0 s) : Keeps st0 (State.ranteReadAll s l).2 := by
  unfold State.ranteReadAll
  exact foldl_keeps_snd h fun _ _ => State.ranteTouch_keeps (Keeps.refl _)

theorem State.ranteReadOp_keeps {st0 s arg0} (hk : Keeps st0 s) : Keeps st0 (State.ranteReadOp s arg0).1 := by
  refine hk.trans ?_; clear hk
  unfold State.ranteReadOp
  repeat' first
    | with_reducible apply Keeps.refl
    | with_reducible assumption
    | (extract_lets +onlyGivenNames a
       first
       | (refine Keeps.cut (m := a) ?_ ?_
          on_goal 2 => (clear_value a; intro _)
          on_goal 1 => (dsimp -zeta only [a]; clear a))
       | (refine Keeps.cut (m := a.2) ?_ ?_
          on_goal 2 => (clear_value a; intro _)
          on_goal 1 => (dsimp -zeta only [a]; clear a))
       | (refine Keeps.cut (m := a.1) ?_ ?_
          on_goal 2 => (clear_value a; intro _)
          on_goal 1 => (dsimp -zeta only [a]; clear a))
       | subst a)
    | with_reducible apply State.ranteReadAll_keeps
    | ((with_reducible apply Keeps.of_snd); on_goal 1 => with_reducible assumption)
    | ((with_reducible apply Keeps.of_fst); on_goal 1 => with_reducible assumption)
    | intro _
    | split
    | dsimp -zeta only

theorem execRanteRead_keeps {p m t s} : OutKeeps s (execRanteRead p m t s) := by
  unfold execRanteRead
  repeat' first
    | with_reducible apply Keeps.refl
    | with_reducible assumption
    | with_reducible apply OutKeeps.refused
    | with_reducible apply OutKeeps.next
    | with_reducible apply State.request_keeps
    | with_reducible apply State.atTime_keeps
    | with_reducible apply now__keeps
    | with_reducible apply State.ranteReadOp_keeps
    | ((with_reducible apply Keeps.of_snd); on_goal 1 => with_reducible assumption)
    | ((with_reducible apply Keeps.of_fst); on_goal 1 => with_reducible assumption)
    | with_reducible apply OutKeeps.ite
    | intro _
    | split
    | dsimp -zeta only

theorem State.putPair_keeps {st0 s x} (hk : Keeps st0 s) : Keeps st0 (State.putPair s x) := by
  refine hk.trans ?_; clear hk
  unfold State.putPair
  repeat' first
    | with_reducible apply Keeps.refl
    | with_reducible assumption
    | (extract_lets +onlyGivenNames a
       first
       | (refine Keeps.cut (m := a) ?_ ?_
          on_goal 2 => (clear_value a; intro _)
          on_goal 1 => (dsimp -zeta only [a]; clear a))
       | (refine Keeps.cut (m := a.2) ?_ ?_
          on_goal 2 => (clear_value a; intro _)
          on_goal 1 => (dsimp -zeta only [a]; clear a))
       | (refine Keeps.cut (m := a.1) ?_ ?_
          on_goal 2 => (clear_value a; intro _)
          on_goal 1 => (dsimp -zeta only [a]; clear a))
       | subst a)
    | with_reducible apply State.setRwn_keeps
    | with_reducible apply State.setFld_keeps
    | with_reducible apply State.setFlag_keeps
    | ((with_reducible apply Keeps.of_snd); on_goal 1 => with_reducible assumption)
    | ((with_reducible apply Keeps.of_fst); on_goal 1 => with_reducible assumption)
    | intro _
    | split
    | dsimp -zeta only

theorem State.ranteDiscard_keeps {st0 s o data} (hk : Keeps st0 s) : Keeps st0 (State.ranteDiscard s o data) := by
  refine hk.trans ?_; clear hk
  unfold State.ranteDiscard
  repeat' first
    | with_reducible apply Keeps.refl
    | with_reducible assumption
    | (extract_lets +onlyGivenNames a
       first
       | (refine Keeps.cut (m := a) ?_ ?_
          on_goal 2 => (clear_value a; intro _)
          on_goal 1 => (dsimp -zeta only [a]; clear a))
       | (refine Keeps.cut (m := a.2) ?_ ?_
          on_goal 2 => (clear_value a; intro _)
          on_goal 1 => (dsimp -zeta only [a]; clear a))
       | (refine Keeps.cut (m := a.1) ?_ ?_
          on_goal 2 => (clear_value a; intro _)
          on_goal 1 => (dsimp -zeta only [a]; clear a))
       | subst a)
    | with_reducible apply State.setRwn_keeps
    | with_reducible apply State.addFld_keeps
    | with_reducible apply State.raise_keeps
    | intro _
    | split
    | dsimp -zeta only

theorem State.ranteIgnore_keeps {st0 s o b row} (hk : Keeps st0 s) : Keeps st0 (State.ranteIgnore s o b row) := by
  refine hk.trans ?_; clear hk
  unfold State.ranteIgnore
  repeat' first
    | with_reducible apply Keeps.refl
    | with_reducible assumption
    | (extract_lets +onlyGivenNames a
       first
       | (refine Keeps.cut (m := a) ?_ ?_
          on_goal 2 => (clear_value a; intro _)
          on_goal 1 => (dsimp -zeta only [a]; clear a))
       | (refine Keeps.cut (m := a.2) ?_ ?_
          on_goal 2 => (clear_value a; intro _)
          on_goal 1 => (dsimp -zeta only [a]; clear a))
       | (refine Keeps.cut (m := a.1) ?_ ?_
          on_goal 2 => (clear_value a; intro _)
          on_goal 1 => (dsimp -zeta only [a]; clear a))
       | subst a)
    | with_reducible apply State.setRwn_keeps
    | with_reducible apply State.addFld_keeps
    | with_reducible apply State.raise_keeps
    | intro _
    | split
    | dsimp -zeta only

theorem State.ranteWriteReg_keeps {st0 s o v t} (hk : Keeps st0 s) (e : State.ranteWriteReg s o v = some t) : Keeps st0 t := by
  refine hk.trans ?_; clear hk
  unfold State.ranteWriteReg at e
  try dsimp only at e
  repeat' split at e
  all_goals first | contradiction | (cases e)
  repeat' first
    | with_reducible apply Keeps.refl
    | with_reducible assumption
    | (extract_lets +onlyGivenNames a
       first
       | (refine Keeps.cut (m := a) ?_ ?_
          on_goal 2 => (clear_value a; intro _)
          on_goal 1 => (dsimp -zeta only [a]; clear a))
       | (refine Keeps.cut (m := a.2) ?_ ?_
          on_goal 2 => (clear_value a; intro _)
          on_goal 1 => (dsimp -zeta only [a]; clear a))
       | (refine Keeps.cut (m := a.1) ?_ ?_
          on_goal 2 => (clear_value a; intro _)
          on_goal 1 => (dsimp -zeta only [a]; clear a))
       | subst a)
    | with_reducible apply State.setRwn_keeps
    | with_reducible apply State.setFld_keeps
    | with_reducible apply State.stageWindow_keeps
    | with_reducible apply State.stageChannel_keeps
    | ((with_reducible apply Keeps.of_snd); on_goal 1 => with_reducible assumption)
    | ((with_reducible apply Keeps.of_fst); on_goal 1 => with_reducible assumption)
    | intro _
    | split
    | dsimp -zeta only

theorem State.ranteItem_keeps {st0 s o b} (hk : Keeps st0 s) : Keeps st0 (State.ranteItem s o b).2 := by
  refine hk.trans ?_; clear hk
  unfold State.ranteItem
  repeat' first
    | with_reducible apply Keeps.refl
    | with_reducible assumption
    | (extract_lets +onlyGivenNames a
       first
       | (refine Keeps.cut (m := a) ?_ ?_
          on_goal 2 => (clear_value a; intro _)
          on_goal 1 => (dsimp -zeta only [a]; clear a))
       | (refine Keeps.cut (m := a.2) ?_ ?_
          on_goal 2 => (clear_value a; intro _)
          on_goal 1 => (dsimp -zeta only [a]; clear a))
       | (refine Keeps.cut (m := a.1) ?_ ?_
          on_goal 2 => (clear_value a; intro _)
          on_goal 1 => (dsimp -zeta only [a]; clear a))
       | subst a)
    | with_reducible apply State.ranteIgnore_keeps
    | with_reducible apply State.putPair_keeps
    | with_reducible apply State.ranteDiscard_keeps
    | ((with_reducible apply State.ranteWriteReg_keeps); on_goal 2 => with_reducible assumption)
    | ((with_reducible apply Keeps.of_snd); on_goal 1 => with_reducible assumption)
    | ((with_reducible apply Keeps.of_fst); on_goal 1 => with_reducible assumption)
    | intro _
    | split
    | dsimp -zeta only

theorem State.expirePair_keeps {st0 s} (hk : Keeps st0 s) : Keeps st0 (State.expirePair s) := by
  refine hk.trans ?_; clear hk
  unfold State.expirePair
  repeat' first
    | with_reducible apply Keeps.refl
    | with_reducible assumption
    | with_reducible apply State.ranteDiscard_keeps
    | with_reducible apply State.putPair_keeps
    | ((with_reducible apply Keeps.of_snd); on_goal 1 => with_reducible assumption)
    | ((with_reducible apply Keeps.of_fst); on_goal 1 => with_reducible assumption)
    | intro _
    | split
    | dsimp -zeta only

theorem State.applyItems_keeps {st0 s l} (h : Keeps st0 s) : Keeps st0 (State.applyItems s l).2 := by
  unfold State.applyItems
  exact foldl_keeps_snd h fun _ _ => State.ranteItem_keeps (Keeps.refl _)

theorem State.ranteWriteOp_keeps {st0 s l} (hk : Keeps st0 s) : Keeps st0 (State.ranteWriteOp s l).1 := by
  refine hk.trans ?_; clear hk
  unfold State.ranteWriteOp
  repeat' first
    | with_reducible apply Keeps.refl
    | with_reducible assumption
    | (extract_lets +onlyGivenNames a
       first
       | (refine Keeps.cut (m := a) ?_ ?_
          on_goal 2 => (clear_value a; intro _)
          on_goal 1 => (dsimp -zeta only [a]; clear a))
       | (refine Keeps.cut (m := a.2) ?_ ?_
          on_goal 2 => (clear_value a; intro _)
          on_goal 1 => (dsimp -zeta only [a]; clear a))
       | (refine Keeps.cut (m := a.1) ?_ ?_
          on_goal 2 => (clear_value a; intro _)
          on_goal 1 => (dsimp -zeta only [a]; clear a))
       | subst a)
    | with_reducible apply State.applyItems_keeps
    | with_reducible apply State.expirePair_keeps
    | ((with_reducible apply Keeps.of_snd); on_goal 1 => with_reducible assumption)
    | ((with_reducible apply Keeps.of_fst); on_goal 1 => with_reducible assumption)
    | intro _
    | split
    | dsimp -zeta only

theorem execRanteWrite_keeps {p m t s} : OutKeeps s (execRanteWrite p m t s) := by
  unfold execRanteWrite
  repeat' first
    | with_reducible apply Keeps.refl
    | with_reducible assumption
    | with_reducible apply OutKeeps.refused
    | with_reducible apply OutKeeps.next
    | with_reducible apply State.request_keeps
    | with_reducible apply State.atTime_keeps
    | with_reducible apply now__keeps
    | with_reducible apply State.ranteWriteOp_keeps
    | ((with_reducible apply Keeps.of_snd); on_goal 1 => with_reducible assumption)
    | ((with_reducible apply Keeps.of_fst); on_goal 1 => with_reducible assumption)
    | with_reducible apply OutKeeps.ite
    | intro _
    | split
    | dsimp -zeta only

theorem execRantePairTimeout_keeps {t s} : OutKeeps s (execRantePairTimeout t s) := by
  unfold execRantePairTimeout
  repeat' first
    | with_reducible apply Keeps.refl
    | with_reducible assumption
    | (extract_lets +onlyGivenNames a
       first
       | (refine Keeps.cut (m := a) ?_ ?_
          on_goal 2 => (clear_value a; intro _)
          on_goal 1 => (dsimp -zeta only [a]; clear a))
       | (refine Keeps.cut (m := a.2) ?_ ?_
          on_goal 2 => (clear_value a; intro _)
          on_goal 1 => (dsimp -zeta only [a]; clear a))
       | (refine Keeps.cut (m := a.1) ?_ ?_
          on_goal 2 => (clear_value a; intro _)
          on_goal 1 => (dsimp -zeta only [a]; clear a))
       | subst a)
    | with_reducible apply OutKeeps.refused
    | with_reducible apply OutKeeps.next
    | with_reducible apply State.atTime_keeps
    | with_reducible apply State.expirePair_keeps
    | with_reducible apply OutKeeps.ite
    | intro _
    | split
    | dsimp -zeta only

theorem State.disableWindow_keeps {st0 s kind n} (hk : Keeps st0 s) : Keeps st0 (State.disableWindow s kind n) := by
  refine hk.trans ?_; clear hk
  unfold State.disableWindow
  repeat' first
    | with_reducible apply Keeps.refl
    | with_reducible assumption
    | (extract_lets +onlyGivenNames a
       first
       | (refine Keeps.cut (m := a) ?_ ?_
          on_goal 2 => (clear_value a; intro _)
          on_goal 1 => (dsimp -zeta only [a]; clear a))
       | (refine Keeps.cut (m := a.2) ?_ ?_
          on_goal 2 => (clear_value a; intro _)
          on_goal 1 => (dsimp -zeta only [a]; clear a))
       | (refine Keeps.cut (m := a.1) ?_ ?_
          on_goal 2 => (clear_value a; intro _)
          on_goal 1 => (dsimp -zeta only [a]; clear a))
       | subst a)
    | with_reducible apply State.freshWord_keeps
    | with_reducible apply State.replaceEntry_keeps
    | with_reducible apply State.putEnt_keeps
    | intro _
    | split
    | dsimp -zeta only

theorem State.clearWindow_keeps {st0 s} (hk : Keeps st0 s) : Keeps st0 (State.clearWindow s) := by
  refine hk.trans ?_; clear hk
  unfold State.clearWindow
  repeat' first
    | with_reducible apply Keeps.refl
    | with_reducible assumption
    | (extract_lets +onlyGivenNames a
       first
       | (refine Keeps.cut (m := a) ?_ ?_
          on_goal 2 => (clear_value a; intro _)
          on_goal 1 => (dsimp -zeta only [a]; clear a))
       | (refine Keeps.cut (m := a.2) ?_ ?_
          on_goal 2 => (clear_value a; intro _)
          on_goal 1 => (dsimp -zeta only [a]; clear a))
       | (refine Keeps.cut (m := a.1) ?_ ?_
          on_goal 2 => (clear_value a; intro _)
          on_goal 1 => (dsimp -zeta only [a]; clear a))
       | subst a)
    | with_reducible apply State.setRwn_keeps
    | with_reducible apply State.disableWindow_keeps
    | with_reducible apply foldS_keeps
    | ((with_reducible apply Keeps.of_snd); on_goal 1 => with_reducible assumption)
    | ((with_reducible apply Keeps.of_fst); on_goal 1 => with_reducible assumption)
    | intro _
    | split
    | dsimp -zeta only

theorem State.refuseEnable_keeps {st0 s r} (hk : Keeps st0 s) : Keeps st0 (State.refuseEnable s r) := by
  refine hk.trans ?_; clear hk
  unfold State.refuseEnable
  repeat' first
    | with_reducible apply Keeps.refl
    | with_reducible assumption
    | with_reducible apply State.answer_keeps
    | with_reducible apply State.raise_keeps
    | intro _
    | split
    | dsimp -zeta only

theorem State.ranteEnableOp_keeps {st0 s} (hk : Keeps st0 s) : Keeps st0 (State.ranteEnableOp s) := by
  refine hk.trans ?_; clear hk
  unfold State.ranteEnableOp
  repeat' first
    | with_reducible apply Keeps.refl
    | with_reducible assumption
    | (extract_lets +onlyGivenNames a
       first
       | (refine Keeps.cut (m := a) ?_ ?_
          on_goal 2 => (clear_value a; intro _)
          on_goal 1 => (dsimp -zeta only [a]; clear a))
       | (refine Keeps.cut (m := a.2) ?_ ?_
          on_goal 2 => (clear_value a; intro _)
          on_goal 1 => (dsimp -zeta only [a]; clear a))
       | (refine Keeps.cut (m := a.1) ?_ ?_
          on_goal 2 => (clear_value a; intro _)
          on_goal 1 => (dsimp -zeta only [a]; clear a))
       | subst a)
    | with_reducible apply State.answer_keeps
    | with_reducible apply State.claimAll_keeps
    | with_reducible apply State.refuseEnable_keeps
    | with_reducible apply State.clearWindow_keeps
    | with_reducible apply State.setFlag_keeps
    | with_reducible apply State.noteLk_keeps
    | with_reducible apply State.raise_keeps
    | with_reducible apply State.setRwn_keeps
    | ((with_reducible apply Keeps.of_snd); on_goal 1 => with_reducible assumption)
    | ((with_reducible apply Keeps.of_fst); on_goal 1 => with_reducible assumption)
    | intro _
    | split
    | dsimp -zeta only

theorem execRanteEnable_keeps {_p t s} : OutKeeps s (execRanteEnable _p t s) := by
  unfold execRanteEnable
  repeat' first
    | with_reducible apply Keeps.refl
    | with_reducible assumption
    | with_reducible apply OutKeeps.refused
    | with_reducible apply OutKeeps.next
    | with_reducible apply State.ranteEnableOp_keeps
    | with_reducible apply State.atTime_keeps
    | with_reducible apply OutKeeps.ite
    | intro _
    | split
    | dsimp -zeta only

theorem State.dropPair_keeps {st0 s} (hk : Keeps st0 s) : Keeps st0 (State.dropPair s) := by
  refine hk.trans ?_; clear hk
  unfold State.dropPair
  repeat' first
    | with_reducible apply Keeps.refl
    | with_reducible assumption
    | with_reducible apply State.ranteDiscard_keeps
    | with_reducible apply State.putPair_keeps
    | with_reducible apply State.freshWord_keeps
    | ((with_reducible apply Keeps.of_snd); on_goal 1 => with_reducible assumption)
    | ((with_reducible apply Keeps.of_fst); on_goal 1 => with_reducible assumption)
    | intro _
    | split
    | dsimp -zeta only

theorem State.ranteDisableOp_keeps {st0 s} (hk : Keeps st0 s) : Keeps st0 (State.ranteDisableOp s) := by
  refine hk.trans ?_; clear hk
  unfold State.ranteDisableOp
  repeat' first
    | with_reducible apply Keeps.refl
    | with_reducible assumption
    | (extract_lets +onlyGivenNames a
       first
       | (refine Keeps.cut (m := a) ?_ ?_
          on_goal 2 => (clear_value a; intro _)
          on_goal 1 => (dsimp -zeta only [a]; clear a))
       | (refine Keeps.cut (m := a.2) ?_ ?_
          on_goal 2 => (clear_value a; intro _)
          on_goal 1 => (dsimp -zeta only [a]; clear a))
       | (refine Keeps.cut (m := a.1) ?_ ?_
          on_goal 2 => (clear_value a; intro _)
          on_goal 1 => (dsimp -zeta only [a]; clear a))
       | subst a)
    | with_reducible apply State.answer_keeps
    | with_reducible apply State.releaseClaims_keeps
    | with_reducible apply State.clearWindow_keeps
    | with_reducible apply State.noteLk_keeps
    | with_reducible apply State.setFld_keeps
    | with_reducible apply State.dropPair_keeps
    | with_reducible apply State.setFlag_keeps
    | with_reducible apply State.raise_keeps
    | with_reducible apply State.setRwn_keeps
    | intro _
    | split
    | dsimp -zeta only

theorem execRanteDisable_keeps {_p t s} : OutKeeps s (execRanteDisable _p t s) := by
  unfold execRanteDisable
  repeat' first
    | with_reducible apply Keeps.refl
    | with_reducible assumption
    | with_reducible apply OutKeeps.refused
    | with_reducible apply OutKeeps.next
    | with_reducible apply State.ranteDisableOp_keeps
    | with_reducible apply State.atTime_keeps
    | with_reducible apply OutKeeps.ite
    | intro _
    | split
    | dsimp -zeta only

theorem State.dropRante_keeps {st0 s} (hk : Keeps st0 s) : Keeps st0 (State.dropRante s) := by
  refine hk.trans ?_; clear hk
  unfold State.dropRante
  repeat' first
    | with_reducible apply Keeps.refl
    | with_reducible assumption
    | with_reducible apply State.setRwn_keeps
    | intro _
    | split
    | dsimp -zeta only

theorem State.restageWindow_keeps {st0 s kind n} (hk : Keeps st0 s) : Keeps st0 (State.restageWindow s kind n) := by
  refine hk.trans ?_; clear hk
  unfold State.restageWindow
  repeat' first
    | with_reducible apply Keeps.refl
    | with_reducible assumption
    | (extract_lets +onlyGivenNames a
       first
       | (refine Keeps.cut (m := a) ?_ ?_
          on_goal 2 => (clear_value a; intro _)
          on_goal 1 => (dsimp -zeta only [a]; clear a))
       | (refine Keeps.cut (m := a.2) ?_ ?_
          on_goal 2 => (clear_value a; intro _)
          on_goal 1 => (dsimp -zeta only [a]; clear a))
       | (refine Keeps.cut (m := a.1) ?_ ?_
          on_goal 2 => (clear_value a; intro _)
          on_goal 1 => (dsimp -zeta only [a]; clear a))
       | subst a)
    | with_reducible apply State.freshWord_keeps
    | with_reducible apply State.noteStaged_keeps
    | with_reducible apply State.putEnt_keeps
    | with_reducible apply State.raise_keeps
    | intro _
    | split
    | dsimp -zeta only

theorem State.backRante_keeps {st0 s} (hk : Keeps st0 s) : Keeps st0 (State.backRante s) := by
  refine hk.trans ?_; clear hk
  unfold State.backRante
  repeat' first
    | with_reducible apply Keeps.refl
    | with_reducible assumption
    | (extract_lets +onlyGivenNames a
       first
       | (refine Keeps.cut (m := a) ?_ ?_
          on_goal 2 => (clear_value a; intro _)
          on_goal 1 => (dsimp -zeta only [a]; clear a))
       | (refine Keeps.cut (m := a.2) ?_ ?_
          on_goal 2 => (clear_value a; intro _)
          on_goal 1 => (dsimp -zeta only [a]; clear a))
       | (refine Keeps.cut (m := a.1) ?_ ?_
          on_goal 2 => (clear_value a; intro _)
          on_goal 1 => (dsimp -zeta only [a]; clear a))
       | subst a)
    | with_reducible apply State.setFld_keeps
    | with_reducible apply State.setFlag_keeps
    | with_reducible apply State.restageWindow_keeps
    | with_reducible apply foldS_keeps
    | ((with_reducible apply Keeps.of_snd); on_goal 1 => with_reducible assumption)
    | ((with_reducible apply Keeps.of_fst); on_goal 1 => with_reducible assumption)
    | intro _
    | split
    | dsimp -zeta only

theorem State.clearRante_keeps {st0 s} (hk : Keeps st0 s) : Keeps st0 (State.clearRante s) := by
  refine hk.trans ?_; clear hk
  unfold State.clearRante
  repeat' first
    | with_reducible apply Keeps.refl
    | with_reducible assumption
    | with_reducible apply State.setRwn_keeps
    | intro _
    | split
    | dsimp -zeta only

end Sys2Proof.Machine
end

