-- ==== Sys2Proof/Laws/KeepsRotation.lean ====
section
/-! SUPPORT. Every operation of `Machine/Rotation.lean` keeps the queue and the canonical forms. -/

set_option linter.all false
set_option Elab.async false
set_option maxHeartbeats 60000

namespace Sys2Proof.Machine

theorem State.setRot_keeps {st0 s f v} (hk : Keeps st0 s) : Keeps st0 (State.setRot s f v) := by
  refine hk.trans ?_; clear hk
  unfold State.setRot
  repeat' first
    | with_reducible apply Keeps.refl
    | with_reducible assumption
    | with_reducible apply State.setFld_keeps
    | intro _
    | split
    | dsimp -zeta only

theorem State.setFailed_keeps {st0 s b v} (hk : Keeps st0 s) : Keeps st0 (State.setFailed s b v) := by
  refine hk.trans ?_; clear hk
  unfold State.setFailed
  repeat' first
    | with_reducible apply Keeps.refl
    | with_reducible assumption
    | with_reducible apply State.setRot_keeps
    | intro _
    | split
    | dsimp -zeta only

theorem State.setWant_keeps {st0 s w} (hk : Keeps st0 s) : Keeps st0 (State.setWant s w) := by
  refine hk.trans ?_; clear hk
  unfold State.setWant
  repeat' first
    | with_reducible apply Keeps.refl
    | with_reducible assumption
    | with_reducible apply State.setRotating_keeps
    | intro _
    | split
    | dsimp -zeta only

theorem State.enableRotation_keeps {st0 s} (hk : Keeps st0 s) : Keeps st0 (State.enableRotation s).2 := by
  refine hk.trans ?_; clear hk
  unfold State.enableRotation
  repeat' first
    | with_reducible apply Keeps.refl
    | with_reducible assumption
    | (extract_lets +onlyGivenNames a
       first
       | (refine Keeps.cut (m := a) ?_ ?_
          on_goal 2 => (clear_value a; intro _)
          on_goal 1 => (dsimp -zeta only [a]; clear a))
       | (refine Keeps.cut (m := a.2) ?_ ?_
          on_goal 2 => (clear_value a; intro _)
          on_goal 1 => (dsimp -zeta only [a]; clear a))
       | (refine Keeps.cut (m := a.1) ?_ ?_
          on_goal 2 => (clear_value a; intro _)
          on_goal 1 => (dsimp -zeta only [a]; clear a))
       | subst a)
    | with_reducible apply State.claimAll_keeps
    | with_reducible apply State.setRotating_keeps
    | with_reducible apply State.releaseClaims_keeps
    | intro _
    | split
    | dsimp -zeta only

theorem State.beginTest_keeps {st0 s} (hk : Keeps st0 s) : Keeps st0 (State.beginTest s) := by
  refine hk.trans ?_; clear hk
  unfold State.beginTest
  repeat' first
    | with_reducible apply Keeps.refl
    | with_reducible assumption
    | with_reducible apply State.setRot_keeps
    | with_reducible apply State.setRotating_keeps
    | intro _
    | split
    | dsimp -zeta only

theorem State.dueTest_keeps {st0 s b} (hk : Keeps st0 s) : Keeps st0 (State.dueTest s b) := by
  refine hk.trans ?_; clear hk
  unfold State.dueTest
  repeat' first
    | with_reducible apply Keeps.refl
    | with_reducible assumption
    | with_reducible apply State.setWant_keeps
    | with_reducible apply State.setRotating_keeps
    | with_reducible apply State.beginTest_keeps
    | intro _
    | split
    | dsimp -zeta only

theorem State.advanceNext_keeps {st0 s b} (hk : Keeps st0 s) : Keeps st0 (State.advanceNext s b) := by
  refine hk.trans ?_; clear hk
  unfold State.advanceNext
  repeat' first
    | with_reducible apply Keeps.refl
    | with_reducible assumption
    | with_reducible apply State.setRot_keeps
    | intro _
    | split
    | dsimp -zeta only

theorem execRotationIntervalExpiry_keeps {t s} : OutKeeps s (execRotationIntervalExpiry t s) := by
  unfold execRotationIntervalExpiry
  repeat' first
    | with_reducible apply Keeps.refl
    | with_reducible assumption
    | (extract_lets +onlyGivenNames a
       first
       | (refine Keeps.cut (m := a) ?_ ?_
          on_goal 2 => (clear_value a; intro _)
          on_goal 1 => (dsimp -zeta only [a]; clear a))
       | (refine Keeps.cut (m := a.2) ?_ ?_
          on_goal 2 => (clear_value a; intro _)
          on_goal 1 => (dsimp -zeta only [a]; clear a))
       | (refine Keeps.cut (m := a.1) ?_ ?_
          on_goal 2 => (clear_value a; intro _)
          on_goal 1 => (dsimp -zeta only [a]; clear a))
       | subst a)
    | with_reducible apply OutKeeps.refused
    | with_reducible apply OutKeeps.next
    | with_reducible apply State.atTime_keeps
    | with_reducible apply State.advanceNext_keeps
    | with_reducible apply State.dueTest_keeps
    | with_reducible apply OutKeeps.ite
    | intro _
    | split
    | dsimp -zeta only

theorem State.copySeq_keeps {st0 s dst src} (hk : Keeps st0 s) : Keeps st0 (State.copySeq s dst src) := by
  refine hk.trans ?_; clear hk
  unfold State.copySeq
  repeat' first
    | with_reducible apply Keeps.refl
    | with_reducible assumption
    | (extract_lets +onlyGivenNames a
       first
       | (refine Keeps.cut (m := a) ?_ ?_
          on_goal 2 => (clear_value a; intro _)
          on_goal 1 => (dsimp -zeta only [a]; clear a))
       | (refine Keeps.cut (m := a.2) ?_ ?_
          on_goal 2 => (clear_value a; intro _)
          on_goal 1 => (dsimp -zeta only [a]; clear a))
       | (refine Keeps.cut (m := a.1) ?_ ?_
          on_goal 2 => (clear_value a; intro _)
          on_goal 1 => (dsimp -zeta only [a]; clear a))
       | subst a)
    | with_reducible apply State.wr_keeps
    | with_reducible apply State.setSeq_keeps
    | with_reducible apply State.setFld_keeps
    | with_reducible apply State.wrAll_keeps
    | with_reducible apply State.setSeqState_keeps
    | intro _
    | split
    | dsimp -zeta only

theorem State.copyProg_keeps {st0 s b} (hk : Keeps st0 s) : Keeps st0 (State.copyProg s b) := by
  refine hk.trans ?_; clear hk
  unfold State.copyProg
  repeat' first
    | with_reducible apply Keeps.refl
    | with_reducible assumption
    | (extract_lets +onlyGivenNames a
       first
       | (refine Keeps.cut (m := a) ?_ ?_
          on_goal 2 => (clear_value a; intro _)
          on_goal 1 => (dsimp -zeta only [a]; clear a))
       | (refine Keeps.cut (m := a.2) ?_ ?_
          on_goal 2 => (clear_value a; intro _)
          on_goal 1 => (dsimp -zeta only [a]; clear a))
       | (refine Keeps.cut (m := a.1) ?_ ?_
          on_goal 2 => (clear_value a; intro _)
          on_goal 1 => (dsimp -zeta only [a]; clear a))
       | subst a)
    | ((with_reducible apply Keeps.of_snd); on_goal 1 => with_reducible assumption)
    | ((with_reducible apply Keeps.of_fst); on_goal 1 => with_reducible assumption)
    | with_reducible apply State.setRegs_kept
    | with_reducible apply State.setRegs_replaced
    | intro _
    | split
    | dsimp -zeta only

theorem State.moveHeld_keeps {st0 s b} (hk : Keeps st0 s) : Keeps st0 (State.moveHeld s b) := by
  refine hk.trans ?_; clear hk
  unfold State.moveHeld
  repeat' first
    | with_reducible apply Keeps.refl
    | with_reducible assumption
    | with_reducible apply State.setBank_keeps
    | intro _
    | split
    | dsimp -zeta only

theorem State.copySources_keeps {st0 s dst src} (hk : Keeps st0 s) : Keeps st0 (State.copySources s dst src) := by
  refine hk.trans ?_; clear hk
  unfold State.copySources
  repeat' first
    | with_reducible apply Keeps.refl
    | with_reducible assumption
    | (extract_lets +onlyGivenNames a
       first
       | (refine Keeps.cut (m := a) ?_ ?_
          on_goal 2 => (clear_value a; intro _)
          on_goal 1 => (dsimp -zeta only [a]; clear a))
       | (refine Keeps.cut (m := a.2) ?_ ?_
          on_goal 2 => (clear_value a; intro _)
          on_goal 1 => (dsimp -zeta only [a]; clear a))
       | (refine Keeps.cut (m := a.1) ?_ ?_
          on_goal 2 => (clear_value a; intro _)
          on_goal 1 => (dsimp -zeta only [a]; clear a))
       | subst a)
    | with_reducible apply State.showCurrents_keeps
    | with_reducible apply State.setBank_keeps
    | intro _
    | split
    | dsimp -zeta only

theorem State.handOver_keeps {st0 s b state} (hk : Keeps st0 s) : Keeps st0 (State.handOver s b state) := by
  refine hk.trans ?_; clear hk
  unfold State.handOver
  repeat' first
    | with_reducible apply Keeps.refl
    | with_reducible assumption
    | (extract_lets +onlyGivenNames a
       first
       | (refine Keeps.cut (m := a) ?_ ?_
          on_goal 2 => (clear_value a; intro _)
          on_goal 1 => (dsimp -zeta only [a]; clear a))
       | (refine Keeps.cut (m := a.2) ?_ ?_
          on_goal 2 => (clear_value a; intro _)
          on_goal 1 => (dsimp -zeta only [a]; clear a))
       | (refine Keeps.cut (m := a.1) ?_ ?_
          on_goal 2 => (clear_value a; intro _)
          on_goal 1 => (dsimp -zeta only [a]; clear a))
       | subst a)
    | with_reducible apply State.copySources_keeps
    | with_reducible apply State.setBank_keeps
    | with_reducible apply State.copyProg_keeps
    | with_reducible apply State.takeBxv_keeps
    | with_reducible apply State.moveHeld_keeps
    | with_reducible apply State.setSeqState_keeps
    | with_reducible apply State.copySeq_keeps
    | with_reducible apply State.setRot_keeps
    | intro _
    | split
    | dsimp -zeta only

theorem execBsHandover_keeps {t s} : OutKeeps s (execBsHandover t s) := by
  unfold execBsHandover
  repeat' first
    | with_reducible apply Keeps.refl
    | with_reducible assumption
    | (extract_lets +onlyGivenNames a
       first
       | (refine Keeps.cut (m := a) ?_ ?_
          on_goal 2 => (clear_value a; intro _)
          on_goal 1 => (dsimp -zeta only [a]; clear a))
       | (refine Keeps.cut (m := a.2) ?_ ?_
          on_goal 2 => (clear_value a; intro _)
          on_goal 1 => (dsimp -zeta only [a]; clear a))
       | (refine Keeps.cut (m := a.1) ?_ ?_
          on_goal 2 => (clear_value a; intro _)
          on_goal 1 => (dsimp -zeta only [a]; clear a))
       | subst a)
    | with_reducible apply OutKeeps.refused
    | with_reducible apply OutKeeps.next
    | with_reducible apply State.atTime_keeps
    | with_reducible apply State.setRot_keeps
    | with_reducible apply State.handOver_keeps
    | with_reducible apply State.setWant_keeps
    | ((with_reducible apply Keeps.of_snd); on_goal 1 => with_reducible assumption)
    | ((with_reducible apply Keeps.of_fst); on_goal 1 => with_reducible assumption)
    | with_reducible apply OutKeeps.ite
    | intro _
    | split
    | dsimp -zeta only

theorem State.giveBack_keeps {st0 s} (hk : Keeps st0 s) : Keeps st0 (State.giveBack s) := by
  refine hk.trans ?_; clear hk
  unfold State.giveBack
  repeat' first
    | with_reducible apply Keeps.refl
    | with_reducible assumption
    | (extract_lets +onlyGivenNames a
       first
       | (refine Keeps.cut (m := a) ?_ ?_
          on_goal 2 => (clear_value a; intro _)
          on_goal 1 => (dsimp -zeta only [a]; clear a))
       | (refine Keeps.cut (m := a.2) ?_ ?_
          on_goal 2 => (clear_value a; intro _)
          on_goal 1 => (dsimp -zeta only [a]; clear a))
       | (refine Keeps.cut (m := a.1) ?_ ?_
          on_goal 2 => (clear_value a; intro _)
          on_goal 1 => (dsimp -zeta only [a]; clear a))
       | subst a)
    | with_reducible apply State.moveHeld_keeps
    | with_reducible apply State.copySeq_keeps
    | with_reducible apply State.copySources_keeps
    | with_reducible apply State.setFld_keeps
    | with_reducible apply State.openSources_keeps
    | with_reducible apply State.setSeqState_keeps
    | with_reducible apply State.setRot_keeps
    | with_reducible apply State.setRotating_keeps
    | intro _
    | split
    | dsimp -zeta only

theorem execBsGiveBack_keeps {t s} : OutKeeps s (execBsGiveBack t s) := by
  unfold execBsGiveBack
  repeat' first
    | with_reducible apply Keeps.refl
    | with_reducible assumption
    | (extract_lets +onlyGivenNames a
       first
       | (refine Keeps.cut (m := a) ?_ ?_
          on_goal 2 => (clear_value a; intro _)
          on_goal 1 => (dsimp -zeta only [a]; clear a))
       | (refine Keeps.cut (m := a.2) ?_ ?_
          on_goal 2 => (clear_value a; intro _)
          on_goal 1 => (dsimp -zeta only [a]; clear a))
       | (refine Keeps.cut (m := a.1) ?_ ?_
          on_goal 2 => (clear_value a; intro _)
          on_goal 1 => (dsimp -zeta only [a]; clear a))
       | subst a)
    | with_reducible apply OutKeeps.refused
    | with_reducible apply OutKeeps.next
    | with_reducible apply State.atTime_keeps
    | with_reducible apply State.giveBack_keeps
    | with_reducible apply OutKeeps.ite
    | intro _
    | split
    | dsimp -zeta only

theorem State.putCoefs_keeps {st0 s b r} (hk : Keeps st0 s) : Keeps st0 (State.putCoefs s b r) := by
  refine hk.trans ?_; clear hk
  unfold State.putCoefs
  repeat' first
    | with_reducible apply Keeps.refl
    | with_reducible assumption
    | (extract_lets +onlyGivenNames a
       first
       | (refine Keeps.cut (m := a) ?_ ?_
          on_goal 2 => (clear_value a; intro _)
          on_goal 1 => (dsimp -zeta only [a]; clear a))
       | (refine Keeps.cut (m := a.2) ?_ ?_
          on_goal 2 => (clear_value a; intro _)
          on_goal 1 => (dsimp -zeta only [a]; clear a))
       | (refine Keeps.cut (m := a.1) ?_ ?_
          on_goal 2 => (clear_value a; intro _)
          on_goal 1 => (dsimp -zeta only [a]; clear a))
       | subst a)
    | with_reducible apply State.wr_keeps
    | with_reducible apply State.setFld_keeps
    | with_reducible apply State.toMirror_keeps
    | with_reducible apply State.showCurrents_keeps
    | with_reducible apply State.setBank_keeps
    | with_reducible apply foldS_keeps
    | ((with_reducible apply Keeps.of_snd); on_goal 1 => with_reducible assumption)
    | ((with_reducible apply Keeps.of_fst); on_goal 1 => with_reducible assumption)
    | intro _
    | split
    | dsimp -zeta only

theorem State.notePass_keeps {st0 s b old} (hk : Keeps st0 s) : Keeps st0 (State.notePass s b old) := by
  refine hk.trans ?_; clear hk
  unfold State.notePass
  repeat' first
    | with_reducible apply Keeps.refl
    | with_reducible assumption
    | (extract_lets +onlyGivenNames a
       first
       | (refine Keeps.cut (m := a) ?_ ?_
          on_goal 2 => (clear_value a; intro _)
          on_goal 1 => (dsimp -zeta only [a]; clear a))
       | (refine Keeps.cut (m := a.2) ?_ ?_
          on_goal 2 => (clear_value a; intro _)
          on_goal 1 => (dsimp -zeta only [a]; clear a))
       | (refine Keeps.cut (m := a.1) ?_ ?_
          on_goal 2 => (clear_value a; intro _)
          on_goal 1 => (dsimp -zeta only [a]; clear a))
       | subst a)
    | with_reducible apply State.raiseF_keeps
    | with_reducible apply foldl_keeps
    | ((with_reducible apply Keeps.of_snd); on_goal 1 => with_reducible assumption)
    | ((with_reducible apply Keeps.of_fst); on_goal 1 => with_reducible assumption)
    | intro _
    | split
    | dsimp -zeta only

theorem State.passTest_keeps {st0 s b r} (hk : Keeps st0 s) : Keeps st0 (State.passTest s b r) := by
  refine hk.trans ?_; clear hk
  unfold State.passTest
  repeat' first
    | with_reducible apply Keeps.refl
    | with_reducible assumption
    | (extract_lets +onlyGivenNames a
       first
       | (refine Keeps.cut (m := a) ?_ ?_
          on_goal 2 => (clear_value a; intro _)
          on_goal 1 => (dsimp -zeta only [a]; clear a))
       | (refine Keeps.cut (m := a.2) ?_ ?_
          on_goal 2 => (clear_value a; intro _)
          on_goal 1 => (dsimp -zeta only [a]; clear a))
       | (refine Keeps.cut (m := a.1) ?_ ?_
          on_goal 2 => (clear_value a; intro _)
          on_goal 1 => (dsimp -zeta only [a]; clear a))
       | subst a)
    | with_reducible apply State.notePass_keeps
    | with_reducible apply State.wr_keeps
    | with_reducible apply State.setFailed_keeps
    | with_reducible apply State.putCoefs_keeps
    | intro _
    | split
    | dsimp -zeta only

theorem State.failTest_keeps {st0 s b state r} (hk : Keeps st0 s) : Keeps st0 (State.failTest s b state r) := by
  refine hk.trans ?_; clear hk
  unfold State.failTest
  repeat' first
    | with_reducible apply Keeps.refl
    | with_reducible assumption
    | (extract_lets +onlyGivenNames a
       first
       | (refine Keeps.cut (m := a) ?_ ?_
          on_goal 2 => (clear_value a; intro _)
          on_goal 1 => (dsimp -zeta only [a]; clear a))
       | (refine Keeps.cut (m := a.2) ?_ ?_
          on_goal 2 => (clear_value a; intro _)
          on_goal 1 => (dsimp -zeta only [a]; clear a))
       | (refine Keeps.cut (m := a.1) ?_ ?_
          on_goal 2 => (clear_value a; intro _)
          on_goal 1 => (dsimp -zeta only [a]; clear a))
       | subst a)
    | with_reducible apply State.raise_keeps
    | with_reducible apply State.setFailed_keeps
    | with_reducible apply State.setRot_keeps
    | intro _
    | split
    | dsimp -zeta only

theorem execRotatingTestComplete_keeps {r t s} : OutKeeps s (execRotatingTestComplete r t s) := by
  unfold execRotatingTestComplete
  repeat' first
    | with_reducible apply Keeps.refl
    | with_reducible assumption
    | (extract_lets +onlyGivenNames a
       first
       | (refine Keeps.cut (m := a) ?_ ?_
          on_goal 2 => (clear_value a; intro _)
          on_goal 1 => (dsimp -zeta only [a]; clear a))
       | (refine Keeps.cut (m := a.2) ?_ ?_
          on_goal 2 => (clear_value a; intro _)
          on_goal 1 => (dsimp -zeta only [a]; clear a))
       | (refine Keeps.cut (m := a.1) ?_ ?_
          on_goal 2 => (clear_value a; intro _)
          on_goal 1 => (dsimp -zeta only [a]; clear a))
       | subst a)
    | with_reducible apply OutKeeps.refused
    | with_reducible apply OutKeeps.next
    | with_reducible apply State.atTime_keeps
    | with_reducible apply State.setRot_keeps
    | with_reducible apply State.passTest_keeps
    | with_reducible apply State.setRotating_keeps
    | with_reducible apply State.failTest_keeps
    | with_reducible apply OutKeeps.ite
    | intro _
    | split
    | dsimp -zeta only

theorem execBsSelfTestComplete_keeps {r t s} : OutKeeps s (execBsSelfTestComplete r t s) := by
  unfold execBsSelfTestComplete
  repeat' first
    | with_reducible apply Keeps.refl
    | with_reducible assumption
    | (extract_lets +onlyGivenNames a
       first
       | (refine Keeps.cut (m := a) ?_ ?_
          on_goal 2 => (clear_value a; intro _)
          on_goal 1 => (dsimp -zeta only [a]; clear a))
       | (refine Keeps.cut (m := a.2) ?_ ?_
          on_goal 2 => (clear_value a; intro _)
          on_goal 1 => (dsimp -zeta only [a]; clear a))
       | (refine Keeps.cut (m := a.1) ?_ ?_
          on_goal 2 => (clear_value a; intro _)
          on_goal 1 => (dsimp -zeta only [a]; clear a))
       | subst a)
    | with_reducible apply OutKeeps.refused
    | with_reducible apply OutKeeps.next
    | with_reducible apply State.atTime_keeps
    | with_reducible apply State.setRot_keeps
    | with_reducible apply State.passTest_keeps
    | with_reducible apply State.setRotating_keeps
    | with_reducible apply State.failTest_keeps
    | with_reducible apply OutKeeps.ite
    | intro _
    | split
    | dsimp -zeta only

theorem State.abandonTest_keeps {st0 s d} (hk : Keeps st0 s) : Keeps st0 (State.abandonTest s d) := by
  refine hk.trans ?_; clear hk
  unfold State.abandonTest
  repeat' first
    | with_reducible apply Keeps.refl
    | with_reducible assumption
    | (extract_lets +onlyGivenNames a
       first
       | (refine Keeps.cut (m := a) ?_ ?_
          on_goal 2 => (clear_value a; intro _)
          on_goal 1 => (dsimp -zeta only [a]; clear a))
       | (refine Keeps.cut (m := a.2) ?_ ?_
          on_goal 2 => (clear_value a; intro _)
          on_goal 1 => (dsimp -zeta only [a]; clear a))
       | (refine Keeps.cut (m := a.1) ?_ ?_
          on_goal 2 => (clear_value a; intro _)
          on_goal 1 => (dsimp -zeta only [a]; clear a))
       | subst a)
    | with_reducible apply State.setRotating_keeps
    | with_reducible apply State.setRot_keeps
    | intro _
    | split
    | dsimp -zeta only

theorem State.returnChannels_keeps {st0 s} (hk : Keeps st0 s) : Keeps st0 (State.returnChannels s) := by
  refine hk.trans ?_; clear hk
  unfold State.returnChannels
  repeat' first
    | with_reducible apply Keeps.refl
    | with_reducible assumption
    | (extract_lets +onlyGivenNames a
       first
       | (refine Keeps.cut (m := a) ?_ ?_
          on_goal 2 => (clear_value a; intro _)
          on_goal 1 => (dsimp -zeta only [a]; clear a))
       | (refine Keeps.cut (m := a.2) ?_ ?_
          on_goal 2 => (clear_value a; intro _)
          on_goal 1 => (dsimp -zeta only [a]; clear a))
       | (refine Keeps.cut (m := a.1) ?_ ?_
          on_goal 2 => (clear_value a; intro _)
          on_goal 1 => (dsimp -zeta only [a]; clear a))
       | subst a)
    | with_reducible apply State.giveBack_keeps
    | with_reducible apply State.beginTest_keeps
    | intro _
    | split
    | dsimp -zeta only

theorem State.serveFailed_keeps {st0 s} (hk : Keeps st0 s) : Keeps st0 (State.serveFailed s) := by
  refine hk.trans ?_; clear hk
  unfold State.serveFailed
  repeat' first
    | with_reducible apply Keeps.refl
    | with_reducible assumption
    | (extract_lets +onlyGivenNames a
       first
       | (refine Keeps.cut (m := a) ?_ ?_
          on_goal 2 => (clear_value a; intro _)
          on_goal 1 => (dsimp -zeta only [a]; clear a))
       | (refine Keeps.cut (m := a.2) ?_ ?_
          on_goal 2 => (clear_value a; intro _)
          on_goal 1 => (dsimp -zeta only [a]; clear a))
       | (refine Keeps.cut (m := a.1) ?_ ?_
          on_goal 2 => (clear_value a; intro _)
          on_goal 1 => (dsimp -zeta only [a]; clear a))
       | subst a)
    | with_reducible apply State.setBank_keeps
    | with_reducible apply State.setRot_keeps
    | with_reducible apply State.handOver_keeps
    | with_reducible apply foldS_keeps
    | ((with_reducible apply Keeps.of_snd); on_goal 1 => with_reducible assumption)
    | ((with_reducible apply Keeps.of_fst); on_goal 1 => with_reducible assumption)
    | intro _
    | split
    | dsimp -zeta only

theorem State.forceTest_keeps {st0 s v} (hk : Keeps st0 s) : Keeps st0 (State.forceTest s v) := by
  refine hk.trans ?_; clear hk
  unfold State.forceTest
  repeat' first
    | with_reducible apply Keeps.refl
    | with_reducible assumption
    | with_reducible apply State.answer_keeps
    | with_reducible apply State.dueTest_keeps
    | intro _
    | split
    | dsimp -zeta only

theorem execRotctlForce_keeps {_p v s} : OutKeeps s (execRotctlForce _p v s) := by
  unfold execRotctlForce
  repeat' first
    | with_reducible apply Keeps.refl
    | with_reducible assumption
    | with_reducible apply OutKeeps.refused
    | with_reducible apply OutKeeps.next
    | with_reducible apply State.forceTest_keeps
    | with_reducible apply OutKeeps.ite
    | intro _
    | split
    | dsimp -zeta only

theorem State.retest_keeps {st0 s mask} (hk : Keeps st0 s) : Keeps st0 (State.retest s mask) := by
  refine hk.trans ?_; clear hk
  unfold State.retest
  repeat' first
    | with_reducible apply Keeps.refl
    | with_reducible assumption
    | (extract_lets +onlyGivenNames a
       first
       | (refine Keeps.cut (m := a) ?_ ?_
          on_goal 2 => (clear_value a; intro _)
          on_goal 1 => (dsimp -zeta only [a]; clear a))
       | (refine Keeps.cut (m := a.2) ?_ ?_
          on_goal 2 => (clear_value a; intro _)
          on_goal 1 => (dsimp -zeta only [a]; clear a))
       | (refine Keeps.cut (m := a.1) ?_ ?_
          on_goal 2 => (clear_value a; intro _)
          on_goal 1 => (dsimp -zeta only [a]; clear a))
       | subst a)
    | with_reducible apply State.answer_keeps
    | with_reducible apply State.beginTest_keeps
    | intro _
    | split
    | dsimp -zeta only

theorem execRotctlRetest_keeps {_p mask s} : OutKeeps s (execRotctlRetest _p mask s) := by
  unfold execRotctlRetest
  repeat' first
    | with_reducible apply Keeps.refl
    | with_reducible assumption
    | with_reducible apply OutKeeps.refused
    | with_reducible apply OutKeeps.next
    | with_reducible apply State.retest_keeps
    | with_reducible apply OutKeeps.ite
    | intro _
    | split
    | dsimp -zeta only

theorem State.takeInterval_keeps {st0 s v} (hk : Keeps st0 s) : Keeps st0 (State.takeInterval s v) := by
  refine hk.trans ?_; clear hk
  unfold State.takeInterval
  repeat' first
    | with_reducible apply Keeps.refl
    | with_reducible assumption
    | (extract_lets +onlyGivenNames a
       first
       | (refine Keeps.cut (m := a) ?_ ?_
          on_goal 2 => (clear_value a; intro _)
          on_goal 1 => (dsimp -zeta only [a]; clear a))
       | (refine Keeps.cut (m := a.2) ?_ ?_
          on_goal 2 => (clear_value a; intro _)
          on_goal 1 => (dsimp -zeta only [a]; clear a))
       | (refine Keeps.cut (m := a.1) ?_ ?_
          on_goal 2 => (clear_value a; intro _)
          on_goal 1 => (dsimp -zeta only [a]; clear a))
       | subst a)
    | with_reducible apply State.setFld_keeps
    | with_reducible apply State.answer_keeps
    | with_reducible apply State.noteLk_keeps
    | with_reducible apply State.enableRotation_keeps
    | intro _
    | split
    | dsimp -zeta only

theorem State.setInterval_keeps {st0 s v} (hk : Keeps st0 s) : Keeps st0 (State.setInterval s v) := by
  refine hk.trans ?_; clear hk
  unfold State.setInterval
  repeat' first
    | with_reducible apply Keeps.refl
    | with_reducible assumption
    | with_reducible apply State.answer_keeps
    | with_reducible apply State.takeInterval_keeps
    | intro _
    | split
    | dsimp -zeta only

theorem execRotctlInterval_keeps {_p v t s} : OutKeeps s (execRotctlInterval _p v t s) := by
  unfold execRotctlInterval
  repeat' first
    | with_reducible apply Keeps.refl
    | with_reducible assumption
    | with_reducible apply OutKeeps.refused
    | with_reducible apply OutKeeps.next
    | with_reducible apply State.setInterval_keeps
    | with_reducible apply State.atTime_keeps
    | with_reducible apply OutKeeps.ite
    | intro _
    | split
    | dsimp -zeta only

end Sys2Proof.Machine
end

