-- ==== Sys2Proof/Laws/KeepsTables.lean ====
section
/-! SUPPORT. Every operation of `Machine/Tables.lean` keeps the queue and the canonical forms. -/

set_option linter.all false
set_option Elab.async false
set_option maxHeartbeats 60000

namespace Sys2Proof.Machine

theorem loadInto_wf {m : RegFile} {e : Nat × Word} (h : tabWf resetWord m = true) : tabWf resetWord (loadInto m e) = true := by
  unfold loadInto
  dsimp only
  split
  · exact h
  · exact tabSet_wf h

theorem foldl_loadInto_wf {l : List (Nat × Word)} : ∀ {m : RegFile}, tabWf resetWord m = true →
    tabWf resetWord (l.foldl loadInto m) = true := by
  induction l with
  | nil => exact id
  | cons e l ih => exact fun h => ih (loadInto_wf h)

theorem State.loadBlocks_keeps {st0 s bs} (h : Keeps st0 s) : Keeps st0 (State.loadBlocks s bs) :=
  State.setRegs_keeps h fun g => foldl_loadInto_wf (State.sound.regs g)

theorem State.onlyTables_keeps {st0 s ts} (h : Keeps st0 s) : Keeps st0 (State.onlyTables s ts) :=
  State.setRegs_keeps h fun _ => foldl_loadInto_wf rfl

theorem State.loadTrip_keeps {st0 s} (hk : Keeps st0 s) : Keeps st0 (State.loadTrip s) := by
  refine hk.trans ?_; clear hk
  unfold State.loadTrip
  repeat' first
    | with_reducible apply Keeps.refl
    | with_reducible assumption
    | (extract_lets +onlyGivenNames a
       first
       | (refine Keeps.cut (m := a) ?_ ?_
          on_goal 2 => (clear_value a; intro _)
          on_goal 1 => (dsimp -zeta only [a]; clear a))
       | (refine Keeps.cut (m := a.2) ?_ ?_
          on_goal 2 => (clear_value a; intro _)
          on_goal 1 => (dsimp -zeta only [a]; clear a))
       | (refine Keeps.cut (m := a.1) ?_ ?_
          on_goal 2 => (clear_value a; intro _)
          on_goal 1 => (dsimp -zeta only [a]; clear a))
       | subst a)
    | with_reducible apply State.loadBlocks_keeps
    | with_reducible apply State.resetRegs_keeps
    | with_reducible apply State.setFlag_keeps
    | ((with_reducible apply Keeps.of_snd); on_goal 1 => with_reducible assumption)
    | ((with_reducible apply Keeps.of_fst); on_goal 1 => with_reducible assumption)
    | intro _
    | split
    | dsimp -zeta only

theorem State.noteDio_keeps {st0 s n kind check extra} (hk : Keeps st0 s) : Keeps st0 (State.noteDio s n kind check extra) := by
  refine hk.trans ?_; clear hk
  unfold State.noteDio
  repeat' first
    | with_reducible apply Keeps.refl
    | with_reducible assumption
    | with_reducible apply State.raise_keeps
    | intro _
    | split
    | dsimp -zeta only

theorem State.checkType_keeps {x : Nat × State} {n} : Keeps x.2 (State.checkType x n).2 := by
  unfold State.checkType
  dsimp only
  split
  · exact Keeps.refl _
  · split
    · exact Keeps.refl _
    · exact State.noteDio_keeps (State.setFlag_keeps (State.setFld_keeps (Keeps.refl _)))

theorem State.checkLmon_keeps {st0 s n} (hk : Keeps st0 s) : Keeps st0 (State.checkLmon s n) := by
  refine hk.trans ?_; clear hk
  unfold State.checkLmon
  repeat' first
    | with_reducible apply Keeps.refl
    | with_reducible assumption
    | with_reducible apply State.noteDio_keeps
    | with_reducible apply State.setFlag_keeps
    | intro _
    | split
    | dsimp -zeta only

theorem State.checkPair_keeps {st0 s n} (hk : Keeps st0 s) : Keeps st0 (State.checkPair s n) := by
  refine hk.trans ?_; clear hk
  unfold State.checkPair
  repeat' first
    | with_reducible apply Keeps.refl
    | with_reducible assumption
    | with_reducible apply State.wr_keeps
    | with_reducible apply State.setFlag_keeps
    | intro _
    | split
    | dsimp -zeta only

theorem State.checkPtest_keeps {st0 s n} (hk : Keeps st0 s) : Keeps st0 (State.checkPtest s n) := by
  refine hk.trans ?_; clear hk
  unfold State.checkPtest
  repeat' first
    | with_reducible apply Keeps.refl
    | with_reducible assumption
    | (extract_lets +onlyGivenNames a
       first
       | (refine Keeps.cut (m := a) ?_ ?_
          on_goal 2 => (clear_value a; intro _)
          on_goal 1 => (dsimp -zeta only [a]; clear a))
       | (refine Keeps.cut (m := a.2) ?_ ?_
          on_goal 2 => (clear_value a; intro _)
          on_goal 1 => (dsimp -zeta only [a]; clear a))
       | (refine Keeps.cut (m := a.1) ?_ ?_
          on_goal 2 => (clear_value a; intro _)
          on_goal 1 => (dsimp -zeta only [a]; clear a))
       | subst a)
    | with_reducible apply State.noteDio_keeps
    | with_reducible apply State.setFlag_keeps
    | intro _
    | split
    | dsimp -zeta only

theorem State.claimPairs_keeps {st0 s} (hk : Keeps st0 s) : Keeps st0 (State.claimPairs s) := by
  refine hk.trans ?_; clear hk
  unfold State.claimPairs
  repeat' first
    | with_reducible apply Keeps.refl
    | with_reducible assumption
    | with_reducible apply State.claimAll_keeps
    | with_reducible apply State.releaseClaims_keeps
    | with_reducible apply foldS_keeps
    | ((with_reducible apply Keeps.of_snd); on_goal 1 => with_reducible assumption)
    | ((with_reducible apply Keeps.of_fst); on_goal 1 => with_reducible assumption)
    | intro _
    | split
    | dsimp -zeta only

theorem State.checkDio_keeps {st0 s} (h : Keeps st0 s) : Keeps st0 (State.checkDio s) := by
  refine h.trans ?_
  have g := State.setFld_keeps (a := R.DIO_STAT) (f := F.DIO_STAT_T2CNT)
    (v := ((List.range 48).foldl State.checkType (0, s)).1)
    (foldS_keeps (l := List.range 48) (f := State.checkPtest)
    (foldS_keeps (l := (List.range 24).map (fun k => 2 * k)) (f := State.checkPair)
    (foldS_keeps (l := List.range 48) (f := State.checkLmon)
    (foldl_keeps_snd (l := List.range 48) (f := State.checkType) (r := (0, s)) (Keeps.refl s)
    fun _ _ => State.checkType_keeps) fun _ _ => State.checkLmon_keeps (Keeps.refl _))
    fun _ _ => State.checkPair_keeps (Keeps.refl _)) fun _ _ => State.checkPtest_keeps (Keeps.refl _))
  unfold State.checkDio
  dsimp only
  split
  · exact State.noteDio_keeps (State.setFlag_keeps g)
  · exact g

theorem State.loadDio_keeps {st0 s} (hk : Keeps st0 s) : Keeps st0 (State.loadDio s) := by
  refine hk.trans ?_; clear hk
  unfold State.loadDio
  repeat' first
    | with_reducible apply Keeps.refl
    | with_reducible assumption
    | (extract_lets +onlyGivenNames a
       first
       | (refine Keeps.cut (m := a) ?_ ?_
          on_goal 2 => (clear_value a; intro _)
          on_goal 1 => (dsimp -zeta only [a]; clear a))
       | (refine Keeps.cut (m := a.2) ?_ ?_
          on_goal 2 => (clear_value a; intro _)
          on_goal 1 => (dsimp -zeta only [a]; clear a))
       | (refine Keeps.cut (m := a.1) ?_ ?_
          on_goal 2 => (clear_value a; intro _)
          on_goal 1 => (dsimp -zeta only [a]; clear a))
       | subst a)
    | with_reducible apply State.loadBlocks_keeps
    | with_reducible apply State.resetRegs_keeps
    | with_reducible apply State.setFld_keeps
    | with_reducible apply State.setDio_keeps
    | with_reducible apply State.checkDio_keeps
    | with_reducible apply foldS_keeps
    | ((with_reducible apply Keeps.of_snd); on_goal 1 => with_reducible assumption)
    | ((with_reducible apply Keeps.of_fst); on_goal 1 => with_reducible assumption)
    | intro _
    | split
    | dsimp -zeta only

theorem State.reloadDio_keeps {st0 s} (hk : Keeps st0 s) : Keeps st0 (State.reloadDio s) := by
  refine hk.trans ?_; clear hk
  unfold State.reloadDio
  repeat' first
    | with_reducible apply Keeps.refl
    | with_reducible assumption
    | (extract_lets +onlyGivenNames a
       first
       | (refine Keeps.cut (m := a) ?_ ?_
          on_goal 2 => (clear_value a; intro _)
          on_goal 1 => (dsimp -zeta only [a]; clear a))
       | (refine Keeps.cut (m := a.2) ?_ ?_
          on_goal 2 => (clear_value a; intro _)
          on_goal 1 => (dsimp -zeta only [a]; clear a))
       | (refine Keeps.cut (m := a.1) ?_ ?_
          on_goal 2 => (clear_value a; intro _)
          on_goal 1 => (dsimp -zeta only [a]; clear a))
       | subst a)
    | with_reducible apply State.loadBlocks_keeps
    | with_reducible apply State.resetRegs_keeps
    | with_reducible apply State.wrAll_keeps
    | with_reducible apply State.setFld_keeps
    | with_reducible apply State.setDio_keeps
    | with_reducible apply State.claimPairs_keeps
    | with_reducible apply State.checkDio_keeps
    | with_reducible apply foldS_keeps
    | ((with_reducible apply Keeps.of_snd); on_goal 1 => with_reducible assumption)
    | ((with_reducible apply Keeps.of_fst); on_goal 1 => with_reducible assumption)
    | intro _
    | split
    | dsimp -zeta only

theorem State.claimFront_keeps {st0 s} (hk : Keeps st0 s) : Keeps st0 (State.claimFront s) := by
  refine hk.trans ?_; clear hk
  unfold State.claimFront
  repeat' first
    | with_reducible apply Keeps.refl
    | with_reducible assumption
    | (extract_lets +onlyGivenNames a
       first
       | (refine Keeps.cut (m := a) ?_ ?_
          on_goal 2 => (clear_value a; intro _)
          on_goal 1 => (dsimp -zeta only [a]; clear a))
       | (refine Keeps.cut (m := a.2) ?_ ?_
          on_goal 2 => (clear_value a; intro _)
          on_goal 1 => (dsimp -zeta only [a]; clear a))
       | (refine Keeps.cut (m := a.1) ?_ ?_
          on_goal 2 => (clear_value a; intro _)
          on_goal 1 => (dsimp -zeta only [a]; clear a))
       | subst a)
    | with_reducible apply State.releaseClaims_keeps
    | with_reducible apply State.claimAll_keeps
    | with_reducible apply foldS_keeps
    | ((with_reducible apply Keeps.of_snd); on_goal 1 => with_reducible assumption)
    | ((with_reducible apply Keeps.of_fst); on_goal 1 => with_reducible assumption)
    | intro _
    | split
    | dsimp -zeta only

theorem State.loadFront_keeps {st0 s} (hk : Keeps st0 s) : Keeps st0 (State.loadFront s) := by
  refine hk.trans ?_; clear hk
  unfold State.loadFront
  repeat' first
    | with_reducible apply Keeps.refl
    | with_reducible assumption
    | with_reducible apply State.loadChan_keeps
    | with_reducible apply State.claimFront_keeps
    | with_reducible apply State.dropChans_keeps
    | with_reducible apply foldS_keeps
    | intro _
    | split
    | dsimp -zeta only

theorem State.claimProgram_keeps {st0 s} (hk : Keeps st0 s) : Keeps st0 (State.claimProgram s) := by
  refine hk.trans ?_; clear hk
  unfold State.claimProgram
  repeat' first
    | with_reducible apply Keeps.refl
    | with_reducible assumption
    | with_reducible apply State.claimAll_keeps
    | intro _
    | split
    | dsimp -zeta only

theorem State.regionCoefs_keeps {st0 s b} (hk : Keeps st0 s) : Keeps st0 (State.regionCoefs s b) := by
  refine hk.trans ?_; clear hk
  unfold State.regionCoefs
  repeat' first
    | with_reducible apply Keeps.refl
    | with_reducible assumption
    | with_reducible apply State.wrAll_keeps
    | ((with_reducible apply Keeps.of_snd); on_goal 1 => with_reducible assumption)
    | ((with_reducible apply Keeps.of_fst); on_goal 1 => with_reducible assumption)
    | intro _
    | split
    | dsimp -zeta only

theorem State.factoryCoefs_keeps {st0 s b} (hk : Keeps st0 s) : Keeps st0 (State.factoryCoefs s b) := by
  refine hk.trans ?_; clear hk
  unfold State.factoryCoefs
  repeat' first
    | with_reducible apply Keeps.refl
    | with_reducible assumption
    | (extract_lets +onlyGivenNames a
       first
       | (refine Keeps.cut (m := a) ?_ ?_
          on_goal 2 => (clear_value a; intro _)
          on_goal 1 => (dsimp -zeta only [a]; clear a))
       | (refine Keeps.cut (m := a.2) ?_ ?_
          on_goal 2 => (clear_value a; intro _)
          on_goal 1 => (dsimp -zeta only [a]; clear a))
       | (refine Keeps.cut (m := a.1) ?_ ?_
          on_goal 2 => (clear_value a; intro _)
          on_goal 1 => (dsimp -zeta only [a]; clear a))
       | subst a)
    | with_reducible apply State.wr_keeps
    | with_reducible apply State.setFld_keeps
    | with_reducible apply foldS_keeps
    | intro _
    | split
    | dsimp -zeta only

theorem State.nominalCoefs_keeps {st0 s b} (hk : Keeps st0 s) : Keeps st0 (State.nominalCoefs s b) := by
  refine hk.trans ?_; clear hk
  unfold State.nominalCoefs
  repeat' first
    | with_reducible apply Keeps.refl
    | with_reducible assumption
    | (extract_lets +onlyGivenNames a
       first
       | (refine Keeps.cut (m := a) ?_ ?_
          on_goal 2 => (clear_value a; intro _)
          on_goal 1 => (dsimp -zeta only [a]; clear a))
       | (refine Keeps.cut (m := a.2) ?_ ?_
          on_goal 2 => (clear_value a; intro _)
          on_goal 1 => (dsimp -zeta only [a]; clear a))
       | (refine Keeps.cut (m := a.1) ?_ ?_
          on_goal 2 => (clear_value a; intro _)
          on_goal 1 => (dsimp -zeta only [a]; clear a))
       | subst a)
    | with_reducible apply State.wr_keeps
    | with_reducible apply State.setFld_keeps
    | with_reducible apply State.setBank_keeps
    | with_reducible apply foldS_keeps
    | ((with_reducible apply Keeps.of_snd); on_goal 1 => with_reducible assumption)
    | ((with_reducible apply Keeps.of_fst); on_goal 1 => with_reducible assumption)
    | intro _
    | split
    | dsimp -zeta only

theorem State.checkSet_keeps {st0 s k} (hk : Keeps st0 s) : Keeps st0 (State.checkSet s k) := by
  refine hk.trans ?_; clear hk
  unfold State.checkSet
  repeat' first
    | with_reducible apply Keeps.refl
    | with_reducible assumption
    | (extract_lets +onlyGivenNames a
       first
       | (refine Keeps.cut (m := a) ?_ ?_
          on_goal 2 => (clear_value a; intro _)
          on_goal 1 => (dsimp -zeta only [a]; clear a))
       | (refine Keeps.cut (m := a.2) ?_ ?_
          on_goal 2 => (clear_value a; intro _)
          on_goal 1 => (dsimp -zeta only [a]; clear a))
       | (refine Keeps.cut (m := a.1) ?_ ?_
          on_goal 2 => (clear_value a; intro _)
          on_goal 1 => (dsimp -zeta only [a]; clear a))
       | subst a)
    | with_reducible apply State.raise_keeps
    | with_reducible apply State.setFlag_keeps
    | ((with_reducible apply Keeps.of_snd); on_goal 1 => with_reducible assumption)
    | ((with_reducible apply Keeps.of_fst); on_goal 1 => with_reducible assumption)
    | with_reducible apply State.setRegs_kept
    | with_reducible apply State.setRegs_replaced
    | intro _
    | split
    | dsimp -zeta only

theorem State.checkIndex_keeps {st0 s c} (hk : Keeps st0 s) : Keeps st0 (State.checkIndex s c) := by
  refine hk.trans ?_; clear hk
  unfold State.checkIndex
  repeat' first
    | with_reducible apply Keeps.refl
    | with_reducible assumption
    | (extract_lets +onlyGivenNames a
       first
       | (refine Keeps.cut (m := a) ?_ ?_
          on_goal 2 => (clear_value a; intro _)
          on_goal 1 => (dsimp -zeta only [a]; clear a))
       | (refine Keeps.cut (m := a.2) ?_ ?_
          on_goal 2 => (clear_value a; intro _)
          on_goal 1 => (dsimp -zeta only [a]; clear a))
       | (refine Keeps.cut (m := a.1) ?_ ?_
          on_goal 2 => (clear_value a; intro _)
          on_goal 1 => (dsimp -zeta only [a]; clear a))
       | subst a)
    | with_reducible apply State.raise_keeps
    | with_reducible apply State.setFlag_keeps
    | ((with_reducible apply Keeps.of_snd); on_goal 1 => with_reducible assumption)
    | ((with_reducible apply Keeps.of_fst); on_goal 1 => with_reducible assumption)
    | with_reducible apply State.setRegs_kept
    | with_reducible apply State.setRegs_replaced
    | intro _
    | split
    | dsimp -zeta only

theorem State.checkEnt_keeps {st0 s e} (hk : Keeps st0 s) : Keeps st0 (State.checkEnt s e) := by
  refine hk.trans ?_; clear hk
  unfold State.checkEnt
  repeat' first
    | with_reducible apply Keeps.refl
    | with_reducible assumption
    | (extract_lets +onlyGivenNames a
       first
       | (refine Keeps.cut (m := a) ?_ ?_
          on_goal 2 => (clear_value a; intro _)
          on_goal 1 => (dsimp -zeta only [a]; clear a))
       | (refine Keeps.cut (m := a.2) ?_ ?_
          on_goal 2 => (clear_value a; intro _)
          on_goal 1 => (dsimp -zeta only [a]; clear a))
       | (refine Keeps.cut (m := a.1) ?_ ?_
          on_goal 2 => (clear_value a; intro _)
          on_goal 1 => (dsimp -zeta only [a]; clear a))
       | subst a)
    | with_reducible apply State.copyEntry_keeps
    | with_reducible apply State.raise_keeps
    | with_reducible apply State.applyIf_keeps
    | ((with_reducible apply Keeps.of_snd); on_goal 1 => with_reducible assumption)
    | ((with_reducible apply Keeps.of_fst); on_goal 1 => with_reducible assumption)
    | intro _
    | split
    | dsimp -zeta only

theorem State.checkState_keeps {st0 s e} (hk : Keeps st0 s) : Keeps st0 (State.checkState s e) := by
  refine hk.trans ?_; clear hk
  unfold State.checkState
  repeat' first
    | with_reducible apply Keeps.refl
    | with_reducible assumption
    | (extract_lets +onlyGivenNames a
       first
       | (refine Keeps.cut (m := a) ?_ ?_
          on_goal 2 => (clear_value a; intro _)
          on_goal 1 => (dsimp -zeta only [a]; clear a))
       | (refine Keeps.cut (m := a.2) ?_ ?_
          on_goal 2 => (clear_value a; intro _)
          on_goal 1 => (dsimp -zeta only [a]; clear a))
       | (refine Keeps.cut (m := a.1) ?_ ?_
          on_goal 2 => (clear_value a; intro _)
          on_goal 1 => (dsimp -zeta only [a]; clear a))
       | subst a)
    | with_reducible apply State.setFlag_keeps
    | with_reducible apply State.setAlarmState_keeps
    | intro _
    | split
    | dsimp -zeta only

theorem State.claimRegions_keeps {st0 s} (hk : Keeps st0 s) : Keeps st0 (State.claimRegions s) := by
  refine hk.trans ?_; clear hk
  unfold State.claimRegions
  repeat' first
    | with_reducible apply Keeps.refl
    | with_reducible assumption
    | (extract_lets +onlyGivenNames a
       first
       | (refine Keeps.cut (m := a) ?_ ?_
          on_goal 2 => (clear_value a; intro _)
          on_goal 1 => (dsimp -zeta only [a]; clear a))
       | (refine Keeps.cut (m := a.2) ?_ ?_
          on_goal 2 => (clear_value a; intro _)
          on_goal 1 => (dsimp -zeta only [a]; clear a))
       | (refine Keeps.cut (m := a.1) ?_ ?_
          on_goal 2 => (clear_value a; intro _)
          on_goal 1 => (dsimp -zeta only [a]; clear a))
       | subst a)
    | with_reducible apply State.releaseClaims_keeps
    | with_reducible apply State.claimAll_keeps
    | with_reducible apply foldS_keeps
    | ((with_reducible apply Keeps.of_snd); on_goal 1 => with_reducible assumption)
    | ((with_reducible apply Keeps.of_fst); on_goal 1 => with_reducible assumption)
    | intro _
    | split
    | dsimp -zeta only

theorem State.loadInhibits_keeps {st0 s} (hk : Keeps st0 s) : Keeps st0 (State.loadInhibits s) := by
  refine hk.trans ?_; clear hk
  unfold State.loadInhibits
  repeat' first
    | with_reducible apply Keeps.refl
    | with_reducible assumption
    | with_reducible apply State.setAbit_keeps
    | with_reducible apply State.setRelease_keeps
    | with_reducible apply foldS_keeps
    | intro _
    | split
    | dsimp -zeta only

theorem State.restartDelay_keeps {st0 s e} (hk : Keeps st0 s) : Keeps st0 (State.restartDelay s e) := by
  refine hk.trans ?_; clear hk
  unfold State.restartDelay
  repeat' first
    | with_reducible apply Keeps.refl
    | with_reducible assumption
    | (extract_lets +onlyGivenNames a
       first
       | (refine Keeps.cut (m := a) ?_ ?_
          on_goal 2 => (clear_value a; intro _)
          on_goal 1 => (dsimp -zeta only [a]; clear a))
       | (refine Keeps.cut (m := a.2) ?_ ?_
          on_goal 2 => (clear_value a; intro _)
          on_goal 1 => (dsimp -zeta only [a]; clear a))
       | (refine Keeps.cut (m := a.1) ?_ ?_
          on_goal 2 => (clear_value a; intro _)
          on_goal 1 => (dsimp -zeta only [a]; clear a))
       | subst a)
    | with_reducible apply State.onRun_keeps
    | with_reducible apply State.offRun_keeps
    | intro _
    | split
    | dsimp -zeta only

theorem State.clearStates_keeps {st0 s} (hk : Keeps st0 s) : Keeps st0 (State.clearStates s) := by
  refine hk.trans ?_; clear hk
  unfold State.clearStates
  repeat' first
    | with_reducible apply Keeps.refl
    | with_reducible assumption
    | with_reducible apply State.setFlag_keeps
    | with_reducible apply foldS_keeps
    | ((with_reducible apply Keeps.of_snd); on_goal 1 => with_reducible assumption)
    | ((with_reducible apply Keeps.of_fst); on_goal 1 => with_reducible assumption)
    | intro _
    | split
    | dsimp -zeta only

theorem State.loadLimits_keeps {st0 s start} (hk : Keeps st0 s) : Keeps st0 (State.loadLimits s start) := by
  refine hk.trans ?_; clear hk
  unfold State.loadLimits
  repeat' first
    | with_reducible apply Keeps.refl
    | with_reducible assumption
    | (extract_lets +onlyGivenNames a
       first
       | (refine Keeps.cut (m := a) ?_ ?_
          on_goal 2 => (clear_value a; intro _)
          on_goal 1 => (dsimp -zeta only [a]; clear a))
       | (refine Keeps.cut (m := a.2) ?_ ?_
          on_goal 2 => (clear_value a; intro _)
          on_goal 1 => (dsimp -zeta only [a]; clear a))
       | (refine Keeps.cut (m := a.1) ?_ ?_
          on_goal 2 => (clear_value a; intro _)
          on_goal 1 => (dsimp -zeta only [a]; clear a))
       | subst a)
    | with_reducible apply State.loadBlocks_keeps
    | with_reducible apply State.setLim_keeps
    | with_reducible apply State.clearStates_keeps
    | with_reducible apply State.backRante_keeps
    | with_reducible apply State.checkSet_keeps
    | with_reducible apply State.checkIndex_keeps
    | with_reducible apply State.checkEnt_keeps
    | with_reducible apply State.checkState_keeps
    | with_reducible apply State.loadInhibits_keeps
    | with_reducible apply State.claimRegions_keeps
    | with_reducible apply foldS_keeps
    | intro _
    | split
    | dsimp -zeta only

theorem State.settleLimits_keeps {st0 s} (hk : Keeps st0 s) : Keeps st0 (State.settleLimits s) := by
  refine hk.trans ?_; clear hk
  unfold State.settleLimits
  repeat' first
    | with_reducible apply Keeps.refl
    | with_reducible assumption
    | (extract_lets +onlyGivenNames a
       first
       | (refine Keeps.cut (m := a) ?_ ?_
          on_goal 2 => (clear_value a; intro _)
          on_goal 1 => (dsimp -zeta only [a]; clear a))
       | (refine Keeps.cut (m := a.2) ?_ ?_
          on_goal 2 => (clear_value a; intro _)
          on_goal 1 => (dsimp -zeta only [a]; clear a))
       | (refine Keeps.cut (m := a.1) ?_ ?_
          on_goal 2 => (clear_value a; intro _)
          on_goal 1 => (dsimp -zeta only [a]; clear a))
       | subst a)
    | with_reducible apply State.followInh_keeps
    | with_reducible apply State.restartDelay_keeps
    | with_reducible apply State.putSwitches_keeps
    | with_reducible apply State.linkMoved_keeps
    | with_reducible apply State.putLink_keeps
    | with_reducible apply foldS_keeps
    | intro _
    | split
    | dsimp -zeta only

theorem State.refusePlan_keeps {st0 s p a r} (hk : Keeps st0 s) : Keeps st0 (State.refusePlan s p a r) := by
  refine hk.trans ?_; clear hk
  unfold State.refusePlan
  repeat' first
    | with_reducible apply Keeps.refl
    | with_reducible assumption
    | with_reducible apply State.raise_keeps
    | with_reducible apply State.setFld_keeps
    | intro _
    | split
    | dsimp -zeta only

theorem State.checkPlan_keeps {st0 s p} (hk : Keeps st0 s) : Keeps st0 (State.checkPlan s p) := by
  refine hk.trans ?_; clear hk
  unfold State.checkPlan
  repeat' first
    | with_reducible apply Keeps.refl
    | with_reducible assumption
    | (extract_lets +onlyGivenNames a
       first
       | (refine Keeps.cut (m := a) ?_ ?_
          on_goal 2 => (clear_value a; intro _)
          on_goal 1 => (dsimp -zeta only [a]; clear a))
       | (refine Keeps.cut (m := a.2) ?_ ?_
          on_goal 2 => (clear_value a; intro _)
          on_goal 1 => (dsimp -zeta only [a]; clear a))
       | (refine Keeps.cut (m := a.1) ?_ ?_
          on_goal 2 => (clear_value a; intro _)
          on_goal 1 => (dsimp -zeta only [a]; clear a))
       | subst a)
    | with_reducible apply State.refusePlan_keeps
    | with_reducible apply State.claimAll_keeps
    | ((with_reducible apply Keeps.of_snd); on_goal 1 => with_reducible assumption)
    | ((with_reducible apply Keeps.of_fst); on_goal 1 => with_reducible assumption)
    | intro _
    | split
    | dsimp -zeta only

theorem State.checkEngineer_keeps {st0 s k} (hk : Keeps st0 s) : Keeps st0 (State.checkEngineer s k) := by
  refine hk.trans ?_; clear hk
  unfold State.checkEngineer
  repeat' first
    | with_reducible apply Keeps.refl
    | with_reducible assumption
    | (extract_lets +onlyGivenNames a
       first
       | (refine Keeps.cut (m := a) ?_ ?_
          on_goal 2 => (clear_value a; intro _)
          on_goal 1 => (dsimp -zeta only [a]; clear a))
       | (refine Keeps.cut (m := a.2) ?_ ?_
          on_goal 2 => (clear_value a; intro _)
          on_goal 1 => (dsimp -zeta only [a]; clear a))
       | (refine Keeps.cut (m := a.1) ?_ ?_
          on_goal 2 => (clear_value a; intro _)
          on_goal 1 => (dsimp -zeta only [a]; clear a))
       | subst a)
    | with_reducible apply State.raise_keeps
    | with_reducible apply State.claimAll_keeps
    | intro _
    | split
    | dsimp -zeta only

theorem State.clearAlarms_keeps {st0 s} (hk : Keeps st0 s) : Keeps st0 (State.clearAlarms s) := by
  refine hk.trans ?_; clear hk
  unfold State.clearAlarms
  repeat' first
    | with_reducible apply Keeps.refl
    | with_reducible assumption
    | (extract_lets +onlyGivenNames a
       first
       | (refine Keeps.cut (m := a) ?_ ?_
          on_goal 2 => (clear_value a; intro _)
          on_goal 1 => (dsimp -zeta only [a]; clear a))
       | (refine Keeps.cut (m := a.2) ?_ ?_
          on_goal 2 => (clear_value a; intro _)
          on_goal 1 => (dsimp -zeta only [a]; clear a))
       | (refine Keeps.cut (m := a.1) ?_ ?_
          on_goal 2 => (clear_value a; intro _)
          on_goal 1 => (dsimp -zeta only [a]; clear a))
       | subst a)
    | ((with_reducible apply Keeps.of_snd); on_goal 1 => with_reducible assumption)
    | ((with_reducible apply Keeps.of_fst); on_goal 1 => with_reducible assumption)
    | with_reducible apply State.setRegs_kept
    | with_reducible apply State.setRegs_replaced
    | intro _
    | split
    | dsimp -zeta only

theorem State.clearPlans_keeps {st0 s} (hk : Keeps st0 s) : Keeps st0 (State.clearPlans s) := by
  refine hk.trans ?_; clear hk
  unfold State.clearPlans
  repeat' first
    | with_reducible apply Keeps.refl
    | with_reducible assumption
    | with_reducible apply State.setAlm_keeps
    | intro _
    | split
    | dsimp -zeta only

theorem State.loadShelves_keeps {st0 s} (hk : Keeps st0 s) : Keeps st0 (State.loadShelves s) := by
  refine hk.trans ?_; clear hk
  unfold State.loadShelves
  repeat' first
    | with_reducible apply Keeps.refl
    | with_reducible assumption
    | with_reducible apply State.setShelveDue_keeps
    | with_reducible apply State.clearPlans_keeps
    | with_reducible apply foldS_keeps
    | ((with_reducible apply Keeps.of_snd); on_goal 1 => with_reducible assumption)
    | ((with_reducible apply Keeps.of_fst); on_goal 1 => with_reducible assumption)
    | intro _
    | split
    | dsimp -zeta only

theorem State.resumePlan_keeps {st0 s p} (hk : Keeps st0 s) : Keeps st0 (State.resumePlan s p) := by
  refine hk.trans ?_; clear hk
  unfold State.resumePlan
  repeat' first
    | with_reducible apply Keeps.refl
    | with_reducible assumption
    | (extract_lets +onlyGivenNames a
       first
       | (refine Keeps.cut (m := a) ?_ ?_
          on_goal 2 => (clear_value a; intro _)
          on_goal 1 => (dsimp -zeta only [a]; clear a))
       | (refine Keeps.cut (m := a.2) ?_ ?_
          on_goal 2 => (clear_value a; intro _)
          on_goal 1 => (dsimp -zeta only [a]; clear a))
       | (refine Keeps.cut (m := a.1) ?_ ?_
          on_goal 2 => (clear_value a; intro _)
          on_goal 1 => (dsimp -zeta only [a]; clear a))
       | subst a)
    | with_reducible apply State.wr_keeps
    | with_reducible apply State.setPlan_keeps
    | with_reducible apply State.markRun_keeps
    | ((with_reducible apply Keeps.of_snd); on_goal 1 => with_reducible assumption)
    | ((with_reducible apply Keeps.of_fst); on_goal 1 => with_reducible assumption)
    | intro _
    | split
    | dsimp -zeta only

theorem State.loadAlarms_keeps {st0 s start} (hk : Keeps st0 s) : Keeps st0 (State.loadAlarms s start) := by
  refine hk.trans ?_; clear hk
  unfold State.loadAlarms
  repeat' first
    | with_reducible apply Keeps.refl
    | with_reducible assumption
    | (extract_lets +onlyGivenNames a
       first
       | (refine Keeps.cut (m := a) ?_ ?_
          on_goal 2 => (clear_value a; intro _)
          on_goal 1 => (dsimp -zeta only [a]; clear a))
       | (refine Keeps.cut (m := a.2) ?_ ?_
          on_goal 2 => (clear_value a; intro _)
          on_goal 1 => (dsimp -zeta only [a]; clear a))
       | (refine Keeps.cut (m := a.1) ?_ ?_
          on_goal 2 => (clear_value a; intro _)
          on_goal 1 => (dsimp -zeta only [a]; clear a))
       | subst a)
    | with_reducible apply State.clearAlarms_keeps
    | with_reducible apply State.releaseClaims_keeps
    | with_reducible apply State.loadBlocks_keeps
    | with_reducible apply State.loadShelves_keeps
    | with_reducible apply State.checkPlan_keeps
    | with_reducible apply State.checkEngineer_keeps
    | with_reducible apply State.recount_keeps
    | with_reducible apply State.resumePlan_keeps
    | with_reducible apply State.selectEngineer_keeps
    | with_reducible apply foldS_keeps
    | intro _
    | split
    | dsimp -zeta only

theorem State.fromMirror_keeps {st0 s} (h : Keeps st0 s) : Keeps st0 (State.fromMirror s) :=
  State.setRegs_keeps h fun g => tabSetAll_wf (tabKeep_wf (State.sound.regs g))

end Sys2Proof.Machine
end

