-- ==== Sys2Proof/Laws/KeepsCycles.lean ====
section
/-! SUPPORT. Every operation of `Machine/Cycles.lean` keeps the queue and the canonical forms. -/

set_option linter.all false
set_option Elab.async false
set_option maxHeartbeats 60000

namespace Sys2Proof.Machine

theorem State.setLock_keeps {st0 s i b} (hk : Keeps st0 s) : Keeps st0 (State.setLock s i b) := by
  refine hk.trans ?_; clear hk
  unfold State.setLock
  repeat' first
    | with_reducible apply Keeps.refl
    | with_reducible assumption
    | with_reducible apply State.setFld_keeps
    | intro _
    | split
    | dsimp -zeta only

theorem State.loseLock_keeps {st0 s i} (hk : Keeps st0 s) : Keeps st0 (State.loseLock s i) := by
  refine hk.trans ?_; clear hk
  unfold State.loseLock
  repeat' first
    | with_reducible apply Keeps.refl
    | with_reducible assumption
    | with_reducible apply State.setLock_keeps
    | with_reducible apply State.setFld_keeps
    | intro _
    | split
    | dsimp -zeta only

theorem State.endLockWait_keeps {st0 s i} (hk : Keeps st0 s) : Keeps st0 (State.endLockWait s i) := by
  refine hk.trans ?_; clear hk
  unfold State.endLockWait
  repeat' first
    | with_reducible apply Keeps.refl
    | with_reducible assumption
    | with_reducible apply State.setSup_keeps
    | ((with_reducible apply Keeps.of_snd); on_goal 1 => with_reducible assumption)
    | ((with_reducible apply Keeps.of_fst); on_goal 1 => with_reducible assumption)
    | intro _
    | split
    | dsimp -zeta only

theorem execIslandLockLost_keeps {i t s} : OutKeeps s (execIslandLockLost i t s) := by
  unfold execIslandLockLost
  repeat' first
    | with_reducible apply Keeps.refl
    | with_reducible assumption
    | (extract_lets +onlyGivenNames a
       first
       | (refine Keeps.cut (m := a) ?_ ?_
          on_goal 2 => (clear_value a; intro _)
          on_goal 1 => (dsimp -zeta only [a]; clear a))
       | (refine Keeps.cut (m := a.2) ?_ ?_
          on_goal 2 => (clear_value a; intro _)
          on_goal 1 => (dsimp -zeta only [a]; clear a))
       | (refine Keeps.cut (m := a.1) ?_ ?_
          on_goal 2 => (clear_value a; intro _)
          on_goal 1 => (dsimp -zeta only [a]; clear a))
       | subst a)
    | with_reducible apply OutKeeps.refused
    | with_reducible apply OutKeeps.next
    | with_reducible apply State.atTime_keeps
    | with_reducible apply State.setSup_keeps
    | with_reducible apply State.loseLock_keeps
    | with_reducible apply OutKeeps.ite
    | intro _
    | split
    | dsimp -zeta only

theorem State.islandBack_keeps {st0 s i} (hk : Keeps st0 s) : Keeps st0 (State.islandBack s i) := by
  refine hk.trans ?_; clear hk
  unfold State.islandBack
  repeat' first
    | with_reducible apply Keeps.refl
    | with_reducible assumption
    | (extract_lets +onlyGivenNames a
       first
       | (refine Keeps.cut (m := a) ?_ ?_
          on_goal 2 => (clear_value a; intro _)
          on_goal 1 => (dsimp -zeta only [a]; clear a))
       | (refine Keeps.cut (m := a.2) ?_ ?_
          on_goal 2 => (clear_value a; intro _)
          on_goal 1 => (dsimp -zeta only [a]; clear a))
       | (refine Keeps.cut (m := a.1) ?_ ?_
          on_goal 2 => (clear_value a; intro _)
          on_goal 1 => (dsimp -zeta only [a]; clear a))
       | subst a)
    | with_reducible apply State.setLock_keeps
    | with_reducible apply State.endLockWait_keeps
    | with_reducible apply State.missedCall_keeps
    | with_reducible apply State.kick_keeps
    | ((with_reducible apply Keeps.of_snd); on_goal 1 => with_reducible assumption)
    | ((with_reducible apply Keeps.of_fst); on_goal 1 => with_reducible assumption)
    | intro _
    | split
    | dsimp -zeta only

theorem execIslandLockRegained_keeps {i s} : OutKeeps s (execIslandLockRegained i s) := by
  unfold execIslandLockRegained
  repeat' first
    | with_reducible apply Keeps.refl
    | with_reducible assumption
    | with_reducible apply OutKeeps.refused
    | with_reducible apply OutKeeps.next
    | with_reducible apply State.islandBack_keeps
    | with_reducible apply OutKeeps.ite
    | intro _
    | split
    | dsimp -zeta only

theorem State.crystalFails_keeps {st0 s} (hk : Keeps st0 s) : Keeps st0 (State.crystalFails s) := by
  refine hk.trans ?_; clear hk
  unfold State.crystalFails
  repeat' first
    | with_reducible apply Keeps.refl
    | with_reducible assumption
    | (extract_lets +onlyGivenNames a
       first
       | (refine Keeps.cut (m := a) ?_ ?_
          on_goal 2 => (clear_value a; intro _)
          on_goal 1 => (dsimp -zeta only [a]; clear a))
       | (refine Keeps.cut (m := a.2) ?_ ?_
          on_goal 2 => (clear_value a; intro _)
          on_goal 1 => (dsimp -zeta only [a]; clear a))
       | (refine Keeps.cut (m := a.1) ?_ ?_
          on_goal 2 => (clear_value a; intro _)
          on_goal 1 => (dsimp -zeta only [a]; clear a))
       | subst a)
    | with_reducible apply State.setFlag_keeps
    | with_reducible apply State.setFld_keeps
    | with_reducible apply State.raise_keeps
    | with_reducible apply State.applyIf_keeps
    | intro _
    | split
    | dsimp -zeta only

theorem execXt25Fail_keeps {t s} : OutKeeps s (execXt25Fail t s) := by
  unfold execXt25Fail
  repeat' first
    | with_reducible apply Keeps.refl
    | with_reducible assumption
    | (extract_lets +onlyGivenNames a
       first
       | (refine Keeps.cut (m := a) ?_ ?_
          on_goal 2 => (clear_value a; intro _)
          on_goal 1 => (dsimp -zeta only [a]; clear a))
       | (refine Keeps.cut (m := a.2) ?_ ?_
          on_goal 2 => (clear_value a; intro _)
          on_goal 1 => (dsimp -zeta only [a]; clear a))
       | (refine Keeps.cut (m := a.1) ?_ ?_
          on_goal 2 => (clear_value a; intro _)
          on_goal 1 => (dsimp -zeta only [a]; clear a))
       | subst a)
    | with_reducible apply OutKeeps.refused
    | with_reducible apply OutKeeps.next
    | with_reducible apply State.atTime_keeps
    | with_reducible apply State.crystalFails_keeps
    | with_reducible apply State.setFlag_keeps
    | with_reducible apply OutKeeps.ite
    | intro _
    | split
    | dsimp -zeta only

theorem State.domainFault_keeps {st0 s d cause} (hk : Keeps st0 s) : Keeps st0 (State.domainFault s d cause) := by
  refine hk.trans ?_; clear hk
  unfold State.domainFault
  repeat' first
    | with_reducible apply Keeps.refl
    | with_reducible assumption
    | with_reducible apply State.orderRestart_keeps
    | with_reducible apply State.needCycle_keeps
    | ((with_reducible apply Keeps.of_snd); on_goal 1 => with_reducible assumption)
    | ((with_reducible apply Keeps.of_fst); on_goal 1 => with_reducible assumption)
    | intro _
    | split
    | dsimp -zeta only

theorem execLockRegainTimeout_keeps {i s} : OutKeeps s (execLockRegainTimeout i s) := by
  unfold execLockRegainTimeout
  repeat' first
    | with_reducible apply Keeps.refl
    | with_reducible assumption
    | with_reducible apply OutKeeps.refused
    | with_reducible apply OutKeeps.next
    | with_reducible apply State.domainFault_keeps
    | with_reducible apply State.endLockWait_keeps
    | with_reducible apply State.atTime_keeps
    | ((with_reducible apply Keeps.of_snd); on_goal 1 => with_reducible assumption)
    | ((with_reducible apply Keeps.of_fst); on_goal 1 => with_reducible assumption)
    | with_reducible apply OutKeeps.ite
    | intro _
    | split
    | dsimp -zeta only

theorem execIslandWatchdogExpiry_keeps {i s} : OutKeeps s (execIslandWatchdogExpiry i s) := by
  unfold execIslandWatchdogExpiry
  repeat' first
    | with_reducible apply Keeps.refl
    | with_reducible assumption
    | with_reducible apply OutKeeps.refused
    | with_reducible apply OutKeeps.next
    | with_reducible apply State.domainFault_keeps
    | with_reducible apply OutKeeps.ite
    | intro _
    | split
    | dsimp -zeta only

theorem execMemoryEccUncorrectable_keeps {d s} : OutKeeps s (execMemoryEccUncorrectable d s) := by
  unfold execMemoryEccUncorrectable
  repeat' first
    | with_reducible apply Keeps.refl
    | with_reducible assumption
    | with_reducible apply OutKeeps.refused
    | with_reducible apply OutKeeps.next
    | with_reducible apply State.domainFault_keeps
    | with_reducible apply OutKeeps.ite
    | intro _
    | split
    | dsimp -zeta only

theorem State.switchOff_keeps {st0 s d} (hk : Keeps st0 s) : Keeps st0 (State.switchOff s d) := by
  refine hk.trans ?_; clear hk
  unfold State.switchOff
  repeat' first
    | with_reducible apply Keeps.refl
    | with_reducible assumption
    | (extract_lets +onlyGivenNames a
       first
       | (refine Keeps.cut (m := a) ?_ ?_
          on_goal 2 => (clear_value a; intro _)
          on_goal 1 => (dsimp -zeta only [a]; clear a))
       | (refine Keeps.cut (m := a.2) ?_ ?_
          on_goal 2 => (clear_value a; intro _)
          on_goal 1 => (dsimp -zeta only [a]; clear a))
       | (refine Keeps.cut (m := a.1) ?_ ?_
          on_goal 2 => (clear_value a; intro _)
          on_goal 1 => (dsimp -zeta only [a]; clear a))
       | subst a)
    | with_reducible apply State.setFld_keeps
    | with_reducible apply State.endLockWait_keeps
    | with_reducible apply State.loseLock_keeps
    | with_reducible apply foldS_keeps
    | ((with_reducible apply Keeps.of_snd); on_goal 1 => with_reducible assumption)
    | ((with_reducible apply Keeps.of_fst); on_goal 1 => with_reducible assumption)
    | intro _
    | split
    | dsimp -zeta only

theorem State.switchOn_keeps {st0 s d} (hk : Keeps st0 s) : Keeps st0 (State.switchOn s d) := by
  refine hk.trans ?_; clear hk
  unfold State.switchOn
  repeat' first
    | with_reducible apply Keeps.refl
    | with_reducible assumption
    | (extract_lets +onlyGivenNames a
       first
       | (refine Keeps.cut (m := a) ?_ ?_
          on_goal 2 => (clear_value a; intro _)
          on_goal 1 => (dsimp -zeta only [a]; clear a))
       | (refine Keeps.cut (m := a.2) ?_ ?_
          on_goal 2 => (clear_value a; intro _)
          on_goal 1 => (dsimp -zeta only [a]; clear a))
       | (refine Keeps.cut (m := a.1) ?_ ?_
          on_goal 2 => (clear_value a; intro _)
          on_goal 1 => (dsimp -zeta only [a]; clear a))
       | subst a)
    | with_reducible apply State.setFld_keeps
    | with_reducible apply State.setLock_keeps
    | with_reducible apply foldS_keeps
    | ((with_reducible apply Keeps.of_snd); on_goal 1 => with_reducible assumption)
    | ((with_reducible apply Keeps.of_fst); on_goal 1 => with_reducible assumption)
    | intro _
    | split
    | dsimp -zeta only

theorem State.setCycling_keeps {st0 s d b} (hk : Keeps st0 s) : Keeps st0 (State.setCycling s d b) := by
  refine hk.trans ?_; clear hk
  unfold State.setCycling
  repeat' first
    | with_reducible apply Keeps.refl
    | with_reducible assumption
    | with_reducible apply State.setFld_keeps
    | intro _
    | split
    | dsimp -zeta only

theorem State.applyOpen_keeps {st0 s c} (hk : Keeps st0 s) : Keeps st0 (State.applyOpen s c) := by
  refine hk.trans ?_; clear hk
  unfold State.applyOpen
  repeat' first
    | with_reducible apply Keeps.refl
    | with_reducible assumption
    | with_reducible apply State.applyTick_keeps
    | intro _
    | split
    | dsimp -zeta only

theorem State.dropCore_keeps {st0 s c} (hk : Keeps st0 s) : Keeps st0 (State.dropCore s c) := by
  refine hk.trans ?_; clear hk
  unfold State.dropCore
  repeat' first
    | with_reducible apply Keeps.refl
    | with_reducible assumption
    | (extract_lets +onlyGivenNames a
       first
       | (refine Keeps.cut (m := a) ?_ ?_
          on_goal 2 => (clear_value a; intro _)
          on_goal 1 => (dsimp -zeta only [a]; clear a))
       | (refine Keeps.cut (m := a.2) ?_ ?_
          on_goal 2 => (clear_value a; intro _)
          on_goal 1 => (dsimp -zeta only [a]; clear a))
       | (refine Keeps.cut (m := a.1) ?_ ?_
          on_goal 2 => (clear_value a; intro _)
          on_goal 1 => (dsimp -zeta only [a]; clear a))
       | subst a)
    | with_reducible apply State.leaveTwin_keeps
    | with_reducible apply State.resumeCores_keeps
    | with_reducible apply State.applyOpen_keeps
    | with_reducible apply State.setFld_keeps
    | with_reducible apply State.setItems_keeps
    | with_reducible apply State.applyIf_keeps
    | ((with_reducible apply Keeps.of_snd); on_goal 1 => with_reducible assumption)
    | ((with_reducible apply Keeps.of_fst); on_goal 1 => with_reducible assumption)
    | ((with_reducible apply State.setCore_same); on_goal 2 => (intro g; solve | (repeat' first | with_reducible apply Core.release_wf | with_reducible apply Core.set_wf | with_reducible apply Core.ask_wf | with_reducible apply Core.touch_wf | with_reducible apply Core.fetchFrom_wf | with_reducible apply Core.placeLine_wf | with_reducible apply Core.next_wf | with_reducible apply Core.setTimer_wf | with_reducible apply Core.resynced_wf | with_reducible apply Core.swapTo_wf | exact g)))
    | ((with_reducible apply State.setCore_empty); on_goal 2 => rfl)
    | intro _
    | split
    | dsimp -zeta only

theorem State.dropGate_keeps {st0 s} (hk : Keeps st0 s) : Keeps st0 (State.dropGate s) := by
  refine hk.trans ?_; clear hk
  unfold State.dropGate
  repeat' first
    | with_reducible apply Keeps.refl
    | with_reducible assumption
    | (extract_lets +onlyGivenNames a
       first
       | (refine Keeps.cut (m := a) ?_ ?_
          on_goal 2 => (clear_value a; intro _)
          on_goal 1 => (dsimp -zeta only [a]; clear a))
       | (refine Keeps.cut (m := a.2) ?_ ?_
          on_goal 2 => (clear_value a; intro _)
          on_goal 1 => (dsimp -zeta only [a]; clear a))
       | (refine Keeps.cut (m := a.1) ?_ ?_
          on_goal 2 => (clear_value a; intro _)
          on_goal 1 => (dsimp -zeta only [a]; clear a))
       | subst a)
    | with_reducible apply State.setFld_keeps
    | with_reducible apply State.setGate_keeps
    | with_reducible apply State.applyIf_keeps
    | ((with_reducible apply Keeps.of_snd); on_goal 1 => with_reducible assumption)
    | ((with_reducible apply Keeps.of_fst); on_goal 1 => with_reducible assumption)
    | intro _
    | split
    | dsimp -zeta only

theorem State.dropCopy_keeps {st0 s c} (hk : Keeps st0 s) : Keeps st0 (State.dropCopy s c) := by
  refine hk.trans ?_; clear hk
  unfold State.dropCopy
  repeat' first
    | with_reducible apply Keeps.refl
    | with_reducible assumption
    | ((with_reducible apply Keeps.of_snd); on_goal 1 => with_reducible assumption)
    | ((with_reducible apply Keeps.of_fst); on_goal 1 => with_reducible assumption)
    | ((with_reducible apply State.setCore_same); on_goal 2 => (intro g; solve | (repeat' first | with_reducible apply Core.release_wf | with_reducible apply Core.set_wf | with_reducible apply Core.ask_wf | with_reducible apply Core.touch_wf | with_reducible apply Core.fetchFrom_wf | with_reducible apply Core.placeLine_wf | with_reducible apply Core.next_wf | with_reducible apply Core.setTimer_wf | with_reducible apply Core.resynced_wf | with_reducible apply Core.swapTo_wf | exact g)))
    | ((with_reducible apply State.setCore_empty); on_goal 2 => rfl)
    | intro _
    | split
    | dsimp -zeta only

theorem State.dropPd4_keeps {st0 s} (hk : Keeps st0 s) : Keeps st0 (State.dropPd4 s) := by
  refine hk.trans ?_; clear hk
  unfold State.dropPd4
  repeat' first
    | with_reducible apply Keeps.refl
    | with_reducible assumption
    | (extract_lets +onlyGivenNames a
       first
       | (refine Keeps.cut (m := a) ?_ ?_
          on_goal 2 => (clear_value a; intro _)
          on_goal 1 => (dsimp -zeta only [a]; clear a))
       | (refine Keeps.cut (m := a.2) ?_ ?_
          on_goal 2 => (clear_value a; intro _)
          on_goal 1 => (dsimp -zeta only [a]; clear a))
       | (refine Keeps.cut (m := a.1) ?_ ?_
          on_goal 2 => (clear_value a; intro _)
          on_goal 1 => (dsimp -zeta only [a]; clear a))
       | subst a)
    | with_reducible apply State.discardTick_keeps
    | with_reducible apply State.dropCopy_keeps
    | with_reducible apply State.dropGate_keeps
    | with_reducible apply State.setLim_keeps
    | with_reducible apply State.setSup_keeps
    | with_reducible apply State.dropRante_keeps
    | with_reducible apply State.setMor_keeps
    | with_reducible apply foldS_keeps
    | with_reducible apply foldl_keeps
    | ((with_reducible apply Keeps.of_snd); on_goal 1 => with_reducible assumption)
    | ((with_reducible apply Keeps.of_fst); on_goal 1 => with_reducible assumption)
    | intro _
    | split
    | dsimp -zeta only

theorem State.dropPd5_keeps {st0 s} (hk : Keeps st0 s) : Keeps st0 (State.dropPd5 s) := by
  refine hk.trans ?_; clear hk
  unfold State.dropPd5
  repeat' first
    | with_reducible apply Keeps.refl
    | with_reducible assumption
    | (extract_lets +onlyGivenNames a
       first
       | (refine Keeps.cut (m := a) ?_ ?_
          on_goal 2 => (clear_value a; intro _)
          on_goal 1 => (dsimp -zeta only [a]; clear a))
       | (refine Keeps.cut (m := a.2) ?_ ?_
          on_goal 2 => (clear_value a; intro _)
          on_goal 1 => (dsimp -zeta only [a]; clear a))
       | (refine Keeps.cut (m := a.1) ?_ ?_
          on_goal 2 => (clear_value a; intro _)
          on_goal 1 => (dsimp -zeta only [a]; clear a))
       | subst a)
    | with_reducible apply State.setTrp_keeps
    | with_reducible apply State.setFlag_keeps
    | with_reducible apply State.setDio_keeps
    | intro _
    | split
    | dsimp -zeta only

theorem State.setNs_keeps {st0 s d u} (hk : Keeps st0 s) : Keeps st0 (State.setNs s d u) := by
  refine hk.trans ?_; clear hk
  unfold State.setNs
  repeat' first
    | with_reducible apply Keeps.refl
    | with_reducible assumption
    | with_reducible apply State.setSup_keeps
    | intro _
    | split
    | dsimp -zeta only

theorem State.markNs_keeps {st0 s q} (hk : Keeps st0 s) : Keeps st0 (State.markNs s q) := by
  refine hk.trans ?_; clear hk
  unfold State.markNs
  repeat' first
    | with_reducible apply Keeps.refl
    | with_reducible assumption
    | (extract_lets +onlyGivenNames a
       first
       | (refine Keeps.cut (m := a) ?_ ?_
          on_goal 2 => (clear_value a; intro _)
          on_goal 1 => (dsimp -zeta only [a]; clear a))
       | (refine Keeps.cut (m := a.2) ?_ ?_
          on_goal 2 => (clear_value a; intro _)
          on_goal 1 => (dsimp -zeta only [a]; clear a))
       | (refine Keeps.cut (m := a.1) ?_ ?_
          on_goal 2 => (clear_value a; intro _)
          on_goal 1 => (dsimp -zeta only [a]; clear a))
       | subst a)
    | with_reducible apply State.setSeq_keeps
    | ((with_reducible apply Keeps.of_snd); on_goal 1 => with_reducible assumption)
    | ((with_reducible apply Keeps.of_fst); on_goal 1 => with_reducible assumption)
    | intro _
    | split
    | dsimp -zeta only

theorem State.dropBanks_keeps {st0 s d} (hk : Keeps st0 s) : Keeps st0 (State.dropBanks s d) := by
  refine hk.trans ?_; clear hk
  unfold State.dropBanks
  repeat' first
    | with_reducible apply Keeps.refl
    | with_reducible assumption
    | (extract_lets +onlyGivenNames a
       first
       | (refine Keeps.cut (m := a) ?_ ?_
          on_goal 2 => (clear_value a; intro _)
          on_goal 1 => (dsimp -zeta only [a]; clear a))
       | (refine Keeps.cut (m := a.2) ?_ ?_
          on_goal 2 => (clear_value a; intro _)
          on_goal 1 => (dsimp -zeta only [a]; clear a))
       | (refine Keeps.cut (m := a.1) ?_ ?_
          on_goal 2 => (clear_value a; intro _)
          on_goal 1 => (dsimp -zeta only [a]; clear a))
       | subst a)
    | with_reducible apply State.setNs_keeps
    | with_reducible apply State.markNs_keeps
    | with_reducible apply State.dropWord_keeps
    | with_reducible apply foldS_keeps
    | ((with_reducible apply Keeps.of_snd); on_goal 1 => with_reducible assumption)
    | ((with_reducible apply Keeps.of_fst); on_goal 1 => with_reducible assumption)
    | intro _
    | split
    | dsimp -zeta only

theorem State.resetPd8_keeps {st0 s} (hk : Keeps st0 s) : Keeps st0 (State.resetPd8 s) := by
  refine hk.trans ?_; clear hk
  unfold State.resetPd8
  repeat' first
    | with_reducible apply Keeps.refl
    | with_reducible assumption
    | (extract_lets +onlyGivenNames a
       first
       | (refine Keeps.cut (m := a) ?_ ?_
          on_goal 2 => (clear_value a; intro _)
          on_goal 1 => (dsimp -zeta only [a]; clear a))
       | (refine Keeps.cut (m := a.2) ?_ ?_
          on_goal 2 => (clear_value a; intro _)
          on_goal 1 => (dsimp -zeta only [a]; clear a))
       | (refine Keeps.cut (m := a.1) ?_ ?_
          on_goal 2 => (clear_value a; intro _)
          on_goal 1 => (dsimp -zeta only [a]; clear a))
       | subst a)
    | with_reducible apply State.resetRegs_keeps
    | with_reducible apply State.setFlag_keeps
    | with_reducible apply State.setMor_keeps
    | ((with_reducible apply Keeps.of_snd); on_goal 1 => with_reducible assumption)
    | ((with_reducible apply Keeps.of_fst); on_goal 1 => with_reducible assumption)
    | intro _
    | split
    | dsimp -zeta only

theorem State.dropPd8_keeps {st0 s} (hk : Keeps st0 s) : Keeps st0 (State.dropPd8 s) := by
  refine hk.trans ?_; clear hk
  unfold State.dropPd8
  repeat' first
    | with_reducible apply Keeps.refl
    | with_reducible assumption
    | (extract_lets +onlyGivenNames a
       first
       | (refine Keeps.cut (m := a) ?_ ?_
          on_goal 2 => (clear_value a; intro _)
          on_goal 1 => (dsimp -zeta only [a]; clear a))
       | (refine Keeps.cut (m := a.2) ?_ ?_
          on_goal 2 => (clear_value a; intro _)
          on_goal 1 => (dsimp -zeta only [a]; clear a))
       | (refine Keeps.cut (m := a.1) ?_ ?_
          on_goal 2 => (clear_value a; intro _)
          on_goal 1 => (dsimp -zeta only [a]; clear a))
       | subst a)
    | with_reducible apply State.discardTick_keeps
    | with_reducible apply State.resetPd8_keeps
    | with_reducible apply State.dropTransfer_keeps
    | with_reducible apply State.setGate_keeps
    | intro _
    | split
    | dsimp -zeta only

theorem State.dropDomain_keeps {st0 s d} (hk : Keeps st0 s) : Keeps st0 (State.dropDomain s d) := by
  refine hk.trans ?_; clear hk
  unfold State.dropDomain
  repeat' first
    | with_reducible apply Keeps.refl
    | with_reducible assumption
    | (extract_lets +onlyGivenNames a
       first
       | (refine Keeps.cut (m := a) ?_ ?_
          on_goal 2 => (clear_value a; intro _)
          on_goal 1 => (dsimp -zeta only [a]; clear a))
       | (refine Keeps.cut (m := a.2) ?_ ?_
          on_goal 2 => (clear_value a; intro _)
          on_goal 1 => (dsimp -zeta only [a]; clear a))
       | (refine Keeps.cut (m := a.1) ?_ ?_
          on_goal 2 => (clear_value a; intro _)
          on_goal 1 => (dsimp -zeta only [a]; clear a))
       | subst a)
    | with_reducible apply State.abandonTest_keeps
    | with_reducible apply State.resetCrossings_keeps
    | with_reducible apply State.dropCore_keeps
    | with_reducible apply State.dropPd4_keeps
    | with_reducible apply State.dropPd5_keeps
    | with_reducible apply State.dropBanks_keeps
    | with_reducible apply State.dropPd8_keeps
    | with_reducible apply State.dropRing_keeps
    | with_reducible apply State.dropGlasshouse_keeps
    | with_reducible apply State.dropGlissade_keeps
    | ((with_reducible apply Keeps.of_snd); on_goal 1 => with_reducible assumption)
    | ((with_reducible apply Keeps.of_fst); on_goal 1 => with_reducible assumption)
    | intro _
    | split
    | dsimp -zeta only

theorem State.noteCycle_keeps {st0 s d cause n us_ perm} (hk : Keeps st0 s) : Keeps st0 (State.noteCycle s d cause n us_ perm) := by
  refine hk.trans ?_; clear hk
  unfold State.noteCycle
  repeat' first
    | with_reducible apply Keeps.refl
    | with_reducible assumption
    | with_reducible apply State.raiseF_keeps
    | intro _
    | split
    | dsimp -zeta only

theorem State.thirdCycle_keeps {st0 s d cause n} (hk : Keeps st0 s) : Keeps st0 (State.thirdCycle s d cause n) := by
  refine hk.trans ?_; clear hk
  unfold State.thirdCycle
  repeat' first
    | with_reducible apply Keeps.refl
    | with_reducible assumption
    | (extract_lets +onlyGivenNames a
       first
       | (refine Keeps.cut (m := a) ?_ ?_
          on_goal 2 => (clear_value a; intro _)
          on_goal 1 => (dsimp -zeta only [a]; clear a))
       | (refine Keeps.cut (m := a.2) ?_ ?_
          on_goal 2 => (clear_value a; intro _)
          on_goal 1 => (dsimp -zeta only [a]; clear a))
       | (refine Keeps.cut (m := a.1) ?_ ?_
          on_goal 2 => (clear_value a; intro _)
          on_goal 1 => (dsimp -zeta only [a]; clear a))
       | subst a)
    | with_reducible apply State.isolate_keeps
    | with_reducible apply State.setCycling_keeps
    | with_reducible apply State.noteCycle_keeps
    | with_reducible apply State.applyOpen_keeps
    | with_reducible apply State.putStep_keeps
    | with_reducible apply State.dropDomain_keeps
    | with_reducible apply State.orderRestart_keeps
    | with_reducible apply State.switchOff_keeps
    | with_reducible apply State.applyIf_keeps
    | ((with_reducible apply Keeps.of_snd); on_goal 1 => with_reducible assumption)
    | ((with_reducible apply Keeps.of_fst); on_goal 1 => with_reducible assumption)
    | ((with_reducible apply State.setCore_same); on_goal 2 => (intro g; solve | (repeat' first | with_reducible apply Core.release_wf | with_reducible apply Core.set_wf | with_reducible apply Core.ask_wf | with_reducible apply Core.touch_wf | with_reducible apply Core.fetchFrom_wf | with_reducible apply Core.placeLine_wf | with_reducible apply Core.next_wf | with_reducible apply Core.setTimer_wf | with_reducible apply Core.resynced_wf | with_reducible apply Core.swapTo_wf | exact g)))
    | ((with_reducible apply State.setCore_empty); on_goal 2 => rfl)
    | intro _
    | split
    | dsimp -zeta only

theorem State.beginCycle_keeps {st0 s d cause} (hk : Keeps st0 s) : Keeps st0 (State.beginCycle s d cause) := by
  refine hk.trans ?_; clear hk
  unfold State.beginCycle
  repeat' first
    | with_reducible apply Keeps.refl
    | with_reducible assumption
    | (extract_lets +onlyGivenNames a
       first
       | (refine Keeps.cut (m := a) ?_ ?_
          on_goal 2 => (clear_value a; intro _)
          on_goal 1 => (dsimp -zeta only [a]; clear a))
       | (refine Keeps.cut (m := a.2) ?_ ?_
          on_goal 2 => (clear_value a; intro _)
          on_goal 1 => (dsimp -zeta only [a]; clear a))
       | (refine Keeps.cut (m := a.1) ?_ ?_
          on_goal 2 => (clear_value a; intro _)
          on_goal 1 => (dsimp -zeta only [a]; clear a))
       | subst a)
    | with_reducible apply State.setSup_keeps
    | with_reducible apply State.wr_keeps
    | with_reducible apply State.thirdCycle_keeps
    | with_reducible apply State.setCycling_keeps
    | with_reducible apply State.switchOff_keeps
    | with_reducible apply State.dropDomain_keeps
    | intro _
    | split
    | dsimp -zeta only

theorem State.takeRequest_keeps {st0 s d cause} (hk : Keeps st0 s) : Keeps st0 (State.takeRequest s d cause) := by
  refine hk.trans ?_; clear hk
  unfold State.takeRequest
  repeat' first
    | with_reducible apply Keeps.refl
    | with_reducible assumption
    | with_reducible apply State.setSup_keeps
    | ((with_reducible apply Keeps.of_snd); on_goal 1 => with_reducible assumption)
    | ((with_reducible apply Keeps.of_fst); on_goal 1 => with_reducible assumption)
    | intro _
    | split
    | dsimp -zeta only

theorem State.nextCycle_keeps {st0 s d cause} (hk : Keeps st0 s) : Keeps st0 (State.nextCycle s d cause) := by
  refine hk.trans ?_; clear hk
  unfold State.nextCycle
  repeat' first
    | with_reducible apply Keeps.refl
    | with_reducible assumption
    | (extract_lets +onlyGivenNames a
       first
       | (refine Keeps.cut (m := a) ?_ ?_
          on_goal 2 => (clear_value a; intro _)
          on_goal 1 => (dsimp -zeta only [a]; clear a))
       | (refine Keeps.cut (m := a.2) ?_ ?_
          on_goal 2 => (clear_value a; intro _)
          on_goal 1 => (dsimp -zeta only [a]; clear a))
       | (refine Keeps.cut (m := a.1) ?_ ?_
          on_goal 2 => (clear_value a; intro _)
          on_goal 1 => (dsimp -zeta only [a]; clear a))
       | subst a)
    | with_reducible apply State.takeRequest_keeps
    | with_reducible apply State.orderRestart_keeps
    | with_reducible apply State.beginCycle_keeps
    | ((with_reducible apply Keeps.of_snd); on_goal 1 => with_reducible assumption)
    | ((with_reducible apply Keeps.of_fst); on_goal 1 => with_reducible assumption)
    | intro _
    | split
    | dsimp -zeta only

theorem execDomainCycle_keeps {t s} : OutKeeps s (execDomainCycle t s) := by
  unfold execDomainCycle
  repeat' first
    | with_reducible apply Keeps.refl
    | with_reducible assumption
    | (extract_lets +onlyGivenNames a
       first
       | (refine Keeps.cut (m := a) ?_ ?_
          on_goal 2 => (clear_value a; intro _)
          on_goal 1 => (dsimp -zeta only [a]; clear a))
       | (refine Keeps.cut (m := a.2) ?_ ?_
          on_goal 2 => (clear_value a; intro _)
          on_goal 1 => (dsimp -zeta only [a]; clear a))
       | (refine Keeps.cut (m := a.1) ?_ ?_
          on_goal 2 => (clear_value a; intro _)
          on_goal 1 => (dsimp -zeta only [a]; clear a))
       | subst a)
    | with_reducible apply OutKeeps.refused
    | with_reducible apply OutKeeps.next
    | with_reducible apply State.atTime_keeps
    | with_reducible apply State.nextCycle_keeps
    | ((with_reducible apply Keeps.of_snd); on_goal 1 => with_reducible assumption)
    | ((with_reducible apply Keeps.of_fst); on_goal 1 => with_reducible assumption)
    | with_reducible apply OutKeeps.ite
    | intro _
    | split
    | dsimp -zeta only

theorem State.backCore_keeps {st0 s} (hk : Keeps st0 s) : Keeps st0 (State.backCore s) := by
  refine hk.trans ?_; clear hk
  unfold State.backCore
  repeat' first
    | with_reducible apply Keeps.refl
    | with_reducible assumption
    | with_reducible apply State.setFld_keeps
    | intro _
    | split
    | dsimp -zeta only

theorem State.resetBanks_keeps {st0 s} (hk : Keeps st0 s) : Keeps st0 (State.resetBanks s) := by
  refine hk.trans ?_; clear hk
  unfold State.resetBanks
  repeat' first
    | with_reducible apply Keeps.refl
    | with_reducible assumption
    | (extract_lets +onlyGivenNames a
       first
       | (refine Keeps.cut (m := a) ?_ ?_
          on_goal 2 => (clear_value a; intro _)
          on_goal 1 => (dsimp -zeta only [a]; clear a))
       | (refine Keeps.cut (m := a.2) ?_ ?_
          on_goal 2 => (clear_value a; intro _)
          on_goal 1 => (dsimp -zeta only [a]; clear a))
       | (refine Keeps.cut (m := a.1) ?_ ?_
          on_goal 2 => (clear_value a; intro _)
          on_goal 1 => (dsimp -zeta only [a]; clear a))
       | subst a)
    | with_reducible apply State.setBank_keeps
    | with_reducible apply State.showCurrents_keeps
    | with_reducible apply foldS_keeps
    | ((with_reducible apply Keeps.of_snd); on_goal 1 => with_reducible assumption)
    | ((with_reducible apply Keeps.of_fst); on_goal 1 => with_reducible assumption)
    | intro _
    | split
    | dsimp -zeta only

theorem State.loadPd4_keeps {st0 s} (hk : Keeps st0 s) : Keeps st0 (State.loadPd4 s) := by
  refine hk.trans ?_; clear hk
  unfold State.loadPd4
  repeat' first
    | with_reducible apply Keeps.refl
    | with_reducible assumption
    | with_reducible apply State.checkRecCfg_keeps
    | with_reducible apply State.loadBlocks_keeps
    | intro _
    | split
    | dsimp -zeta only

theorem State.startScan_keeps {st0 s} (hk : Keeps st0 s) : Keeps st0 (State.startScan s) := by
  refine hk.trans ?_; clear hk
  unfold State.startScan
  repeat' first
    | with_reducible apply Keeps.refl
    | with_reducible assumption
    | (extract_lets +onlyGivenNames a
       first
       | (refine Keeps.cut (m := a) ?_ ?_
          on_goal 2 => (clear_value a; intro _)
          on_goal 1 => (dsimp -zeta only [a]; clear a))
       | (refine Keeps.cut (m := a.2) ?_ ?_
          on_goal 2 => (clear_value a; intro _)
          on_goal 1 => (dsimp -zeta only [a]; clear a))
       | (refine Keeps.cut (m := a.1) ?_ ?_
          on_goal 2 => (clear_value a; intro _)
          on_goal 1 => (dsimp -zeta only [a]; clear a))
       | subst a)
    | with_reducible apply State.startSeqs_keeps
    | with_reducible apply State.setRotating_keeps
    | with_reducible apply State.serveFailed_keeps
    | intro _
    | split
    | dsimp -zeta only

theorem State.backPd4_keeps {st0 s} (hk : Keeps st0 s) : Keeps st0 (State.backPd4 s) := by
  refine hk.trans ?_; clear hk
  unfold State.backPd4
  repeat' first
    | with_reducible apply Keeps.refl
    | with_reducible assumption
    | (extract_lets +onlyGivenNames a
       first
       | (refine Keeps.cut (m := a) ?_ ?_
          on_goal 2 => (clear_value a; intro _)
          on_goal 1 => (dsimp -zeta only [a]; clear a))
       | (refine Keeps.cut (m := a.2) ?_ ?_
          on_goal 2 => (clear_value a; intro _)
          on_goal 1 => (dsimp -zeta only [a]; clear a))
       | (refine Keeps.cut (m := a.1) ?_ ?_
          on_goal 2 => (clear_value a; intro _)
          on_goal 1 => (dsimp -zeta only [a]; clear a))
       | subst a)
    | with_reducible apply State.fromMirror_keeps
    | with_reducible apply State.resetRegs_keeps
    | with_reducible apply State.wr_keeps
    | with_reducible apply State.dropSeqs_keeps
    | with_reducible apply State.claimProgram_keeps
    | with_reducible apply State.loadFront_keeps
    | with_reducible apply State.resetBanks_keeps
    | with_reducible apply State.loadPd4_keeps
    | with_reducible apply State.loadAlarms_keeps
    | with_reducible apply State.loadLimits_keeps
    | with_reducible apply State.startScan_keeps
    | with_reducible apply State.enableRotation_keeps
    | with_reducible apply State.settleLimits_keeps
    | with_reducible apply State.loadRingCfg_keeps
    | with_reducible apply State.setFlag_keeps
    | with_reducible apply State.refreshAll_keeps
    | with_reducible apply State.missedCall_keeps
    | with_reducible apply State.noteLost_keeps
    | with_reducible apply State.setSup_keeps
    | with_reducible apply State.applyIf_keeps
    | ((with_reducible apply Keeps.of_snd); on_goal 1 => with_reducible assumption)
    | ((with_reducible apply Keeps.of_fst); on_goal 1 => with_reducible assumption)
    | intro _
    | split
    | dsimp -zeta only

theorem State.backPd5_keeps {st0 s} (hk : Keeps st0 s) : Keeps st0 (State.backPd5 s) := by
  refine hk.trans ?_; clear hk
  unfold State.backPd5
  repeat' first
    | with_reducible apply Keeps.refl
    | with_reducible assumption
    | with_reducible apply State.refreshAll_keeps
    | with_reducible apply State.beginTrip_keeps
    | with_reducible apply State.reloadDio_keeps
    | with_reducible apply State.loadTrip_keeps
    | intro _
    | split
    | dsimp -zeta only

theorem State.restoreDomain_keeps {st0 s d} (hk : Keeps st0 s) : Keeps st0 (State.restoreDomain s d) := by
  refine hk.trans ?_; clear hk
  unfold State.restoreDomain
  repeat' first
    | with_reducible apply Keeps.refl
    | with_reducible assumption
    | with_reducible apply State.backCore_keeps
    | with_reducible apply State.backPd4_keeps
    | with_reducible apply State.backPd5_keeps
    | with_reducible apply State.returnChannels_keeps
    | with_reducible apply State.setNs_keeps
    | with_reducible apply State.setGate_keeps
    | with_reducible apply State.loadRing_keeps
    | with_reducible apply State.backGlasshouse_keeps
    | with_reducible apply State.loadGlissade_keeps
    | ((with_reducible apply Keeps.of_snd); on_goal 1 => with_reducible assumption)
    | ((with_reducible apply Keeps.of_fst); on_goal 1 => with_reducible assumption)
    | intro _
    | split
    | dsimp -zeta only

theorem State.endCycle_keeps {st0 s d cause t0 shadowOk} (hk : Keeps st0 s) : Keeps st0 (State.endCycle s d cause t0 shadowOk) := by
  refine hk.trans ?_; clear hk
  unfold State.endCycle
  repeat' first
    | with_reducible apply Keeps.refl
    | with_reducible assumption
    | (extract_lets +onlyGivenNames a
       first
       | (refine Keeps.cut (m := a) ?_ ?_
          on_goal 2 => (clear_value a; intro _)
          on_goal 1 => (dsimp -zeta only [a]; clear a))
       | (refine Keeps.cut (m := a.2) ?_ ?_
          on_goal 2 => (clear_value a; intro _)
          on_goal 1 => (dsimp -zeta only [a]; clear a))
       | (refine Keeps.cut (m := a.1) ?_ ?_
          on_goal 2 => (clear_value a; intro _)
          on_goal 1 => (dsimp -zeta only [a]; clear a))
       | subst a)
    | with_reducible apply State.setSup_keeps
    | with_reducible apply State.setCycling_keeps
    | with_reducible apply State.orderRestart_keeps
    | with_reducible apply State.noteCycle_keeps
    | with_reducible apply State.setFlag_keeps
    | with_reducible apply State.restoreDomain_keeps
    | with_reducible apply State.switchOn_keeps
    | intro _
    | split
    | dsimp -zeta only

theorem execDomainBack_keeps {shadowOk t s} : OutKeeps s (execDomainBack shadowOk t s) := by
  unfold execDomainBack
  repeat' first
    | with_reducible apply Keeps.refl
    | with_reducible assumption
    | (extract_lets +onlyGivenNames a
       first
       | (refine Keeps.cut (m := a) ?_ ?_
          on_goal 2 => (clear_value a; intro _)
          on_goal 1 => (dsimp -zeta only [a]; clear a))
       | (refine Keeps.cut (m := a.2) ?_ ?_
          on_goal 2 => (clear_value a; intro _)
          on_goal 1 => (dsimp -zeta only [a]; clear a))
       | (refine Keeps.cut (m := a.1) ?_ ?_
          on_goal 2 => (clear_value a; intro _)
          on_goal 1 => (dsimp -zeta only [a]; clear a))
       | subst a)
    | with_reducible apply OutKeeps.refused
    | with_reducible apply OutKeeps.next
    | with_reducible apply State.atTime_keeps
    | with_reducible apply State.endCycle_keeps
    | ((with_reducible apply Keeps.of_snd); on_goal 1 => with_reducible assumption)
    | ((with_reducible apply Keeps.of_fst); on_goal 1 => with_reducible assumption)
    | with_reducible apply OutKeeps.ite
    | intro _
    | split
    | dsimp -zeta only

end Sys2Proof.Machine
end

