-- ==== Sys2Proof/Laws/KeepsHostAccess.lean ====
section
/-! SUPPORT. Every operation of `Machine/HostAccess.lean` keeps the queue and the canonical forms. -/

set_option linter.all false
set_option Elab.async false
set_option maxHeartbeats 60000

namespace Sys2Proof.Machine

theorem State.plainLk_keeps {st0 s a v} (hk : Keeps st0 s) : Keeps st0 (State.plainLk s a v) := by
  refine hk.trans ?_; clear hk
  unfold State.plainLk
  repeat' first
    | with_reducible apply Keeps.refl
    | with_reducible assumption
    | with_reducible apply State.closedAnswer_keeps
    | with_reducible apply State.answer_keeps
    | with_reducible apply State.noteLk_keeps
    | with_reducible apply State.wr_keeps
    | intro _
    | split
    | dsimp -zeta only

theorem State.plainRw_keeps {st0 s a v} (hk : Keeps st0 s) : Keeps st0 (State.plainRw s a v) := by
  refine hk.trans ?_; clear hk
  unfold State.plainRw
  repeat' first
    | with_reducible apply Keeps.refl
    | with_reducible assumption
    | with_reducible apply State.answer_keeps
    | with_reducible apply State.wr_keeps
    | intro _
    | split
    | dsimp -zeta only

theorem State.plainW1c_keeps {st0 s a v} (hk : Keeps st0 s) : Keeps st0 (State.plainW1c s a v) := by
  refine hk.trans ?_; clear hk
  unfold State.plainW1c
  repeat' first
    | with_reducible apply Keeps.refl
    | with_reducible assumption
    | (extract_lets +onlyGivenNames a
       first
       | (refine Keeps.cut (m := a) ?_ ?_
          on_goal 2 => (clear_value a; intro _)
          on_goal 1 => (dsimp -zeta only [a]; clear a))
       | (refine Keeps.cut (m := a.2) ?_ ?_
          on_goal 2 => (clear_value a; intro _)
          on_goal 1 => (dsimp -zeta only [a]; clear a))
       | (refine Keeps.cut (m := a.1) ?_ ?_
          on_goal 2 => (clear_value a; intro _)
          on_goal 1 => (dsimp -zeta only [a]; clear a))
       | subst a)
    | with_reducible apply State.answer_keeps
    | with_reducible apply State.wr_keeps
    | ((with_reducible apply Keeps.of_snd); on_goal 1 => with_reducible assumption)
    | ((with_reducible apply Keeps.of_fst); on_goal 1 => with_reducible assumption)
    | intro _
    | split
    | dsimp -zeta only

theorem State.writeStaging_keeps {st0 s a x v} (hk : Keeps st0 s) : Keeps st0 (State.writeStaging s a x v) := by
  refine hk.trans ?_; clear hk
  unfold State.writeStaging
  repeat' first
    | with_reducible apply Keeps.refl
    | with_reducible assumption
    | with_reducible apply State.answer_keeps
    | with_reducible apply State.setFld_keeps
    | intro _
    | split
    | dsimp -zeta only

theorem State.writeSet_keeps {st0 s v} (hk : Keeps st0 s) : Keeps st0 (State.writeSet s v) := by
  refine hk.trans ?_; clear hk
  unfold State.writeSet
  repeat' first
    | with_reducible apply Keeps.refl
    | with_reducible assumption
    | with_reducible apply State.answer_keeps
    | with_reducible apply State.commandSet_keeps
    | ((with_reducible apply Keeps.of_snd); on_goal 1 => with_reducible assumption)
    | ((with_reducible apply Keeps.of_fst); on_goal 1 => with_reducible assumption)
    | intro _
    | split
    | dsimp -zeta only

theorem State.writeDst_keeps {st0 s v} (hk : Keeps st0 s) : Keeps st0 (State.writeDst s v) := by
  refine hk.trans ?_; clear hk
  unfold State.writeDst
  repeat' first
    | with_reducible apply Keeps.refl
    | with_reducible assumption
    | with_reducible apply State.answer_keeps
    | with_reducible apply State.commandDst_keeps
    | ((with_reducible apply Keeps.of_snd); on_goal 1 => with_reducible assumption)
    | ((with_reducible apply Keeps.of_fst); on_goal 1 => with_reducible assumption)
    | intro _
    | split
    | dsimp -zeta only

theorem State.writeTrimCmd_keeps {st0 s v} (hk : Keeps st0 s) : Keeps st0 (State.writeTrimCmd s v) := by
  refine hk.trans ?_; clear hk
  unfold State.writeTrimCmd
  repeat' first
    | with_reducible apply Keeps.refl
    | with_reducible assumption
    | (extract_lets +onlyGivenNames a
       first
       | (refine Keeps.cut (m := a) ?_ ?_
          on_goal 2 => (clear_value a; intro _)
          on_goal 1 => (dsimp -zeta only [a]; clear a))
       | (refine Keeps.cut (m := a.2) ?_ ?_
          on_goal 2 => (clear_value a; intro _)
          on_goal 1 => (dsimp -zeta only [a]; clear a))
       | (refine Keeps.cut (m := a.1) ?_ ?_
          on_goal 2 => (clear_value a; intro _)
          on_goal 1 => (dsimp -zeta only [a]; clear a))
       | subst a)
    | with_reducible apply State.setFlag_keeps
    | with_reducible apply State.answer_keeps
    | with_reducible apply State.noteLk_keeps
    | with_reducible apply State.measureMains_keeps
    | with_reducible apply State.startMeasure_keeps
    | with_reducible apply State.abortMeasure_keeps
    | ((with_reducible apply Keeps.of_snd); on_goal 1 => with_reducible assumption)
    | ((with_reducible apply Keeps.of_fst); on_goal 1 => with_reducible assumption)
    | intro _
    | split
    | dsimp -zeta only

theorem State.writeAlarmCfg_keeps {st0 s k v} (hk : Keeps st0 s) : Keeps st0 (State.writeAlarmCfg s k v) := by
  refine hk.trans ?_; clear hk
  unfold State.writeAlarmCfg
  repeat' first
    | with_reducible apply Keeps.refl
    | with_reducible assumption
    | (extract_lets +onlyGivenNames a
       first
       | (refine Keeps.cut (m := a) ?_ ?_
          on_goal 2 => (clear_value a; intro _)
          on_goal 1 => (dsimp -zeta only [a]; clear a))
       | (refine Keeps.cut (m := a.2) ?_ ?_
          on_goal 2 => (clear_value a; intro _)
          on_goal 1 => (dsimp -zeta only [a]; clear a))
       | (refine Keeps.cut (m := a.1) ?_ ?_
          on_goal 2 => (clear_value a; intro _)
          on_goal 1 => (dsimp -zeta only [a]; clear a))
       | subst a)
    | with_reducible apply State.setFld_keeps
    | with_reducible apply State.clearAlarmFlag_keeps
    | with_reducible apply State.answer_keeps
    | with_reducible apply State.setFlag_keeps
    | with_reducible apply State.enableAlarm_keeps
    | intro _
    | split
    | dsimp -zeta only

theorem State.writeRtc_keeps {st0 s a v} (hk : Keeps st0 s) : Keeps st0 (State.writeRtc s a v) := by
  refine hk.trans ?_; clear hk
  unfold State.writeRtc
  repeat' first
    | with_reducible apply Keeps.refl
    | with_reducible assumption
    | (extract_lets +onlyGivenNames a
       first
       | (refine Keeps.cut (m := a) ?_ ?_
          on_goal 2 => (clear_value a; intro _)
          on_goal 1 => (dsimp -zeta only [a]; clear a))
       | (refine Keeps.cut (m := a.2) ?_ ?_
          on_goal 2 => (clear_value a; intro _)
          on_goal 1 => (dsimp -zeta only [a]; clear a))
       | (refine Keeps.cut (m := a.1) ?_ ?_
          on_goal 2 => (clear_value a; intro _)
          on_goal 1 => (dsimp -zeta only [a]; clear a))
       | subst a)
    | with_reducible apply State.writeStaging_keeps
    | with_reducible apply State.writeSet_keeps
    | with_reducible apply State.commandShift_keeps
    | with_reducible apply State.writeDst_keeps
    | with_reducible apply State.writeTrim_keeps
    | with_reducible apply State.writeTrimCmd_keeps
    | with_reducible apply State.writeAlarmCfg_keeps
    | with_reducible apply State.answer_keeps
    | with_reducible apply State.plainRw_keeps
    | ((with_reducible apply Keeps.of_snd); on_goal 1 => with_reducible assumption)
    | ((with_reducible apply Keeps.of_fst); on_goal 1 => with_reducible assumption)
    | intro _
    | split
    | dsimp -zeta only

theorem State.writeLock_keeps {st0 s p v} (hk : Keeps st0 s) : Keeps st0 (State.writeLock s p v) := by
  refine hk.trans ?_; clear hk
  unfold State.writeLock
  repeat' first
    | with_reducible apply Keeps.refl
    | with_reducible assumption
    | with_reducible apply State.lockOpenOp_keeps
    | with_reducible apply State.lockCloseOp_keeps
    | with_reducible apply State.answer_keeps
    | ((with_reducible apply Keeps.of_snd); on_goal 1 => with_reducible assumption)
    | ((with_reducible apply Keeps.of_fst); on_goal 1 => with_reducible assumption)
    | intro _
    | split
    | dsimp -zeta only

theorem State.writeKey_keeps {st0 s p a v} (hk : Keeps st0 s) : Keeps st0 (State.writeKey s p a v) := by
  refine hk.trans ?_; clear hk
  unfold State.writeKey
  repeat' first
    | with_reducible apply Keeps.refl
    | with_reducible assumption
    | with_reducible apply State.answer_keeps
    | with_reducible apply State.keyProvisionOp_keeps
    | with_reducible apply State.wr_keeps
    | intro _
    | split
    | dsimp -zeta only

theorem State.writeSys_keeps {st0 s p a v} (hk : Keeps st0 s) : Keeps st0 (State.writeSys s p a v) := by
  refine hk.trans ?_; clear hk
  unfold State.writeSys
  repeat' first
    | with_reducible apply Keeps.refl
    | with_reducible assumption
    | with_reducible apply State.writeLock_keeps
    | with_reducible apply State.thawClearOp_keeps
    | with_reducible apply State.plainRw_keeps
    | with_reducible apply State.writeKey_keeps
    | intro _
    | split
    | dsimp -zeta only

theorem State.writeRotCtl_keeps {st0 s v} (hk : Keeps st0 s) : Keeps st0 (State.writeRotCtl s v) := by
  refine hk.trans ?_; clear hk
  unfold State.writeRotCtl
  repeat' first
    | with_reducible apply Keeps.refl
    | with_reducible assumption
    | (extract_lets +onlyGivenNames a
       first
       | (refine Keeps.cut (m := a) ?_ ?_
          on_goal 2 => (clear_value a; intro _)
          on_goal 1 => (dsimp -zeta only [a]; clear a))
       | (refine Keeps.cut (m := a.2) ?_ ?_
          on_goal 2 => (clear_value a; intro _)
          on_goal 1 => (dsimp -zeta only [a]; clear a))
       | (refine Keeps.cut (m := a.1) ?_ ?_
          on_goal 2 => (clear_value a; intro _)
          on_goal 1 => (dsimp -zeta only [a]; clear a))
       | subst a)
    | with_reducible apply State.setInterval_keeps
    | with_reducible apply State.answer_keeps
    | with_reducible apply State.forceTest_keeps
    | with_reducible apply State.retest_keeps
    | intro _
    | split
    | dsimp -zeta only

theorem State.writeAfe_keeps {st0 s a v} (hk : Keeps st0 s) : Keeps st0 (State.writeAfe s a v) := by
  refine hk.trans ?_; clear hk
  unfold State.writeAfe
  repeat' first
    | with_reducible apply Keeps.refl
    | with_reducible assumption
    | with_reducible apply State.writeRotCtl_keeps
    | with_reducible apply State.answer_keeps
    | with_reducible apply State.clearLatched_keeps
    | with_reducible apply State.afeEdit_keeps
    | intro _
    | split
    | dsimp -zeta only

theorem State.writeSeqCtl_keeps {st0 s q v} (hk : Keeps st0 s) : Keeps st0 (State.writeSeqCtl s q v) := by
  refine hk.trans ?_; clear hk
  unfold State.writeSeqCtl
  repeat' first
    | with_reducible apply Keeps.refl
    | with_reducible assumption
    | with_reducible apply State.answer_keeps
    | with_reducible apply State.seqStopOp_keeps
    | with_reducible apply State.seqStartOp_keeps
    | ((with_reducible apply Keeps.of_snd); on_goal 1 => with_reducible assumption)
    | ((with_reducible apply Keeps.of_fst); on_goal 1 => with_reducible assumption)
    | intro _
    | split
    | dsimp -zeta only

theorem State.writeSeq_keeps {st0 s a v} (hk : Keeps st0 s) : Keeps st0 (State.writeSeq s a v) := by
  refine hk.trans ?_; clear hk
  unfold State.writeSeq
  repeat' first
    | with_reducible apply Keeps.refl
    | with_reducible assumption
    | (extract_lets +onlyGivenNames a
       first
       | (refine Keeps.cut (m := a) ?_ ?_
          on_goal 2 => (clear_value a; intro _)
          on_goal 1 => (dsimp -zeta only [a]; clear a))
       | (refine Keeps.cut (m := a.2) ?_ ?_
          on_goal 2 => (clear_value a; intro _)
          on_goal 1 => (dsimp -zeta only [a]; clear a))
       | (refine Keeps.cut (m := a.1) ?_ ?_
          on_goal 2 => (clear_value a; intro _)
          on_goal 1 => (dsimp -zeta only [a]; clear a))
       | subst a)
    | with_reducible apply State.writeSeqCtl_keeps
    | with_reducible apply State.plainW1c_keeps
    | with_reducible apply State.writePeriod_keeps
    | with_reducible apply State.writePhase_keeps
    | with_reducible apply State.seqStoreOp_keeps
    | intro _
    | split
    | dsimp -zeta only

theorem State.writeStgCmd_keeps {st0 s v} (hk : Keeps st0 s) : Keeps st0 (State.writeStgCmd s v) := by
  refine hk.trans ?_; clear hk
  unfold State.writeStgCmd
  repeat' first
    | with_reducible apply Keeps.refl
    | with_reducible assumption
    | with_reducible apply State.answer_keeps
    | with_reducible apply State.stageCommand_keeps
    | ((with_reducible apply Keeps.of_snd); on_goal 1 => with_reducible assumption)
    | ((with_reducible apply Keeps.of_fst); on_goal 1 => with_reducible assumption)
    | intro _
    | split
    | dsimp -zeta only

theorem State.writeScan_keeps {st0 s v} (hk : Keeps st0 s) : Keeps st0 (State.writeScan s v) := by
  refine hk.trans ?_; clear hk
  unfold State.writeScan
  repeat' first
    | with_reducible apply Keeps.refl
    | with_reducible assumption
    | with_reducible apply State.answer_keeps
    | with_reducible apply State.scanStartOp_keeps
    | with_reducible apply State.scanAbortOp_keeps
    | ((with_reducible apply Keeps.of_snd); on_goal 1 => with_reducible assumption)
    | ((with_reducible apply Keeps.of_fst); on_goal 1 => with_reducible assumption)
    | intro _
    | split
    | dsimp -zeta only

theorem State.writeDio_keeps {st0 s a v} (hk : Keeps st0 s) : Keeps st0 (State.writeDio s a v) := by
  refine hk.trans ?_; clear hk
  unfold State.writeDio
  repeat' first
    | with_reducible apply Keeps.refl
    | with_reducible assumption
    | with_reducible apply State.writeScan_keeps
    | with_reducible apply State.dioEdit_keeps
    | with_reducible apply State.plainW1c_keeps
    | intro _
    | split
    | dsimp -zeta only

theorem State.writeCurCmd_keeps {st0 s p v} (hk : Keeps st0 s) : Keeps st0 (State.writeCurCmd s p v) := by
  refine hk.trans ?_; clear hk
  unfold State.writeCurCmd
  repeat' first
    | with_reducible apply Keeps.refl
    | with_reducible assumption
    | (extract_lets +onlyGivenNames a
       first
       | (refine Keeps.cut (m := a) ?_ ?_
          on_goal 2 => (clear_value a; intro _)
          on_goal 1 => (dsimp -zeta only [a]; clear a))
       | (refine Keeps.cut (m := a.2) ?_ ?_
          on_goal 2 => (clear_value a; intro _)
          on_goal 1 => (dsimp -zeta only [a]; clear a))
       | (refine Keeps.cut (m := a.1) ?_ ?_
          on_goal 2 => (clear_value a; intro _)
          on_goal 1 => (dsimp -zeta only [a]; clear a))
       | subst a)
    | with_reducible apply State.answer_keeps
    | with_reducible apply State.setFld_keeps
    | with_reducible apply State.cursorAtOp_keeps
    | with_reducible apply State.cursorOldestOp_keeps
    | with_reducible apply State.cursorNewestOp_keeps
    | with_reducible apply State.cursorNextOp_keeps
    | with_reducible apply State.cursorPrevOp_keeps
    | with_reducible apply State.cursorStat_keeps
    | ((with_reducible apply Keeps.of_snd); on_goal 1 => with_reducible assumption)
    | ((with_reducible apply Keeps.of_fst); on_goal 1 => with_reducible assumption)
    | intro _
    | split
    | dsimp -zeta only

theorem State.writeRec_keeps {st0 s a v} (hk : Keeps st0 s) : Keeps st0 (State.writeRec s a v) := by
  refine hk.trans ?_; clear hk
  unfold State.writeRec
  repeat' first
    | with_reducible apply Keeps.refl
    | with_reducible assumption
    | (extract_lets +onlyGivenNames a
       first
       | (refine Keeps.cut (m := a) ?_ ?_
          on_goal 2 => (clear_value a; intro _)
          on_goal 1 => (dsimp -zeta only [a]; clear a))
       | (refine Keeps.cut (m := a.2) ?_ ?_
          on_goal 2 => (clear_value a; intro _)
          on_goal 1 => (dsimp -zeta only [a]; clear a))
       | (refine Keeps.cut (m := a.1) ?_ ?_
          on_goal 2 => (clear_value a; intro _)
          on_goal 1 => (dsimp -zeta only [a]; clear a))
       | subst a)
    | with_reducible apply State.writeCodeCfg_keeps
    | with_reducible apply State.writeSsAddr_keeps
    | with_reducible apply State.writeCurCmd_keeps
    | with_reducible apply State.plainRw_keeps
    | intro _
    | split
    | dsimp -zeta only

theorem State.writePnl_keeps {st0 s a v} (hk : Keeps st0 s) : Keeps st0 (State.writePnl s a v) := by
  refine hk.trans ?_; clear hk
  unfold State.writePnl
  repeat' first
    | with_reducible apply Keeps.refl
    | with_reducible assumption
    | with_reducible apply State.panelRetry_keeps
    | with_reducible apply State.answer_keeps
    | with_reducible apply State.mapCommitOp_keeps
    | with_reducible apply State.plainLk_keeps
    | with_reducible apply State.mapWindowWrite_keeps
    | intro _
    | split
    | dsimp -zeta only

theorem State.writeRwn_keeps {st0 s a v} (hk : Keeps st0 s) : Keeps st0 (State.writeRwn s a v) := by
  refine hk.trans ?_; clear hk
  unfold State.writeRwn
  repeat' first
    | with_reducible apply Keeps.refl
    | with_reducible assumption
    | with_reducible apply State.answer_keeps
    | with_reducible apply State.ranteEnableOp_keeps
    | with_reducible apply State.ranteDisableOp_keeps
    | with_reducible apply State.plainLk_keeps
    | intro _
    | split
    | dsimp -zeta only

theorem State.writeOwner_keeps {st0 s p a v} (hk : Keeps st0 s) : Keeps st0 (State.writeOwner s p a v) := by
  refine hk.trans ?_; clear hk
  unfold State.writeOwner
  repeat' first
    | with_reducible apply Keeps.refl
    | with_reducible assumption
    | with_reducible apply State.writeSys_keeps
    | with_reducible apply State.pwrCycleOp_keeps
    | with_reducible apply State.plainW1c_keeps
    | with_reducible apply State.writeAfe_keeps
    | with_reducible apply State.writeSeq_keeps
    | with_reducible apply State.writeStgCmd_keeps
    | with_reducible apply State.plainLk_keeps
    | with_reducible apply State.plainRw_keeps
    | with_reducible apply State.afeEdit_keeps
    | with_reducible apply State.writeDio_keeps
    | with_reducible apply State.readmit_keeps
    | with_reducible apply State.writeRtc_keeps
    | with_reducible apply State.writeRec_keeps
    | with_reducible apply State.writePnl_keeps
    | with_reducible apply State.writeRwn_keeps
    | ((with_reducible apply Keeps.of_snd); on_goal 1 => with_reducible assumption)
    | ((with_reducible apply Keeps.of_fst); on_goal 1 => with_reducible assumption)
    | intro _
    | split
    | dsimp -zeta only

theorem State.hostWrite_keeps {st0 s p a v} (hk : Keeps st0 s) : Keeps st0 (State.hostWrite s p a v) := by
  refine hk.trans ?_; clear hk
  unfold State.hostWrite
  repeat' first
    | with_reducible apply Keeps.refl
    | with_reducible assumption
    | with_reducible apply State.answer_keeps
    | with_reducible apply State.writeOwner_keeps
    | intro _
    | split
    | dsimp -zeta only

theorem execRegisterWrite_keeps {p addr val t s} : OutKeeps s (execRegisterWrite p addr val t s) := by
  unfold execRegisterWrite
  repeat' first
    | with_reducible apply Keeps.refl
    | with_reducible assumption
    | with_reducible apply OutKeeps.refused
    | with_reducible apply OutKeeps.next
    | with_reducible apply State.hostWrite_keeps
    | with_reducible apply State.atTime_keeps
    | with_reducible apply OutKeeps.ite
    | intro _
    | split
    | dsimp -zeta only

end Sys2Proof.Machine
end

