-- ==== Sys2Proof/Laws/KeepsMailbox.lean ====
section
/-! SUPPORT. Every operation of `Machine/Mailbox.lean` keeps the queue and the canonical forms. -/

set_option linter.all false
set_option Elab.async false
set_option maxHeartbeats 60000

namespace Sys2Proof.Machine

theorem State.readsWindow_keeps {st0 s p as} (hk : Keeps st0 s) : Keeps st0 (State.readsWindow s p as).2 := by
  refine hk.trans ?_; clear hk
  unfold State.readsWindow
  repeat' first
    | with_reducible apply Keeps.refl
    | with_reducible assumption
    | (extract_lets +onlyGivenNames a
       first
       | (refine Keeps.cut (m := a) ?_ ?_
          on_goal 2 => (clear_value a; intro _)
          on_goal 1 => (dsimp -zeta only [a]; clear a))
       | (refine Keeps.cut (m := a.2) ?_ ?_
          on_goal 2 => (clear_value a; intro _)
          on_goal 1 => (dsimp -zeta only [a]; clear a))
       | (refine Keeps.cut (m := a.1) ?_ ?_
          on_goal 2 => (clear_value a; intro _)
          on_goal 1 => (dsimp -zeta only [a]; clear a))
       | subst a)
    | with_reducible apply State.windowCheck_keeps
    | intro _
    | split
    | dsimp -zeta only

theorem State.readWord_keeps {st0 s p a} (hk : Keeps st0 s) : Keeps st0 (State.readWord s p a).2 := by
  refine hk.trans ?_; clear hk
  unfold State.readWord
  repeat' first
    | with_reducible apply Keeps.refl
    | with_reducible assumption
    | (extract_lets +onlyGivenNames a
       first
       | (refine Keeps.cut (m := a) ?_ ?_
          on_goal 2 => (clear_value a; intro _)
          on_goal 1 => (dsimp -zeta only [a]; clear a))
       | (refine Keeps.cut (m := a.2) ?_ ?_
          on_goal 2 => (clear_value a; intro _)
          on_goal 1 => (dsimp -zeta only [a]; clear a))
       | (refine Keeps.cut (m := a.1) ?_ ?_
          on_goal 2 => (clear_value a; intro _)
          on_goal 1 => (dsimp -zeta only [a]; clear a))
       | subst a)
    | with_reducible apply State.measure_keeps
    | with_reducible apply State.afterRead_keeps
    | intro _
    | split
    | dsimp -zeta only

theorem State.readWords_keeps {st0 s p as} (h : Keeps st0 s) : Keeps st0 (State.readWords s p as).2 := by
  unfold State.readWords
  exact foldl_keeps_snd h fun _ _ => State.readWord_keeps (Keeps.refl _)

theorem State.mbxReadOp_keeps {st0 s p a n} (hk : Keeps st0 s) : Keeps st0 (State.mbxReadOp s p a n).1 := by
  refine hk.trans ?_; clear hk
  unfold State.mbxReadOp
  repeat' first
    | with_reducible apply Keeps.refl
    | with_reducible assumption
    | (extract_lets +onlyGivenNames a
       first
       | (refine Keeps.cut (m := a) ?_ ?_
          on_goal 2 => (clear_value a; intro _)
          on_goal 1 => (dsimp -zeta only [a]; clear a))
       | (refine Keeps.cut (m := a.2) ?_ ?_
          on_goal 2 => (clear_value a; intro _)
          on_goal 1 => (dsimp -zeta only [a]; clear a))
       | (refine Keeps.cut (m := a.1) ?_ ?_
          on_goal 2 => (clear_value a; intro _)
          on_goal 1 => (dsimp -zeta only [a]; clear a))
       | subst a)
    | with_reducible apply State.readsWindow_keeps
    | with_reducible apply State.readWords_keeps
    | intro _
    | split
    | dsimp -zeta only

theorem State.writeWords_keeps {st0 p a l} : ∀ {s : State} {i}, Keeps st0 s → Keeps st0 (State.writeWords s p a i l).1 := by
  induction l with
  | nil => exact fun h => h
  | cons w l ih =>
    intro s i h
    unfold State.writeWords
    dsimp only
    split
    · exact ih (State.hostWrite_keeps h)
    · exact h

theorem State.mbxWriteOp_keeps {st0 s p a l} (hk : Keeps st0 s) : Keeps st0 (State.mbxWriteOp s p a l).1 := by
  refine hk.trans ?_; clear hk
  unfold State.mbxWriteOp
  repeat' first
    | with_reducible apply Keeps.refl
    | with_reducible assumption
    | (extract_lets +onlyGivenNames a
       first
       | (refine Keeps.cut (m := a) ?_ ?_
          on_goal 2 => (clear_value a; intro _)
          on_goal 1 => (dsimp -zeta only [a]; clear a))
       | (refine Keeps.cut (m := a.2) ?_ ?_
          on_goal 2 => (clear_value a; intro _)
          on_goal 1 => (dsimp -zeta only [a]; clear a))
       | (refine Keeps.cut (m := a.1) ?_ ?_
          on_goal 2 => (clear_value a; intro _)
          on_goal 1 => (dsimp -zeta only [a]; clear a))
       | subst a)
    | with_reducible apply State.writeWords_keeps
    | with_reducible apply State.hostWrite_keeps
    | ((with_reducible apply Keeps.of_snd); on_goal 1 => with_reducible assumption)
    | ((with_reducible apply Keeps.of_fst); on_goal 1 => with_reducible assumption)
    | intro _
    | split
    | dsimp -zeta only

theorem State.readChOp_keeps {st0 s first n} (hk : Keeps st0 s) : Keeps st0 (State.readChOp s first n).1 := by
  refine hk.trans ?_; clear hk
  unfold State.readChOp
  repeat' first
    | with_reducible apply Keeps.refl
    | with_reducible assumption
    | ((with_reducible apply Keeps.of_snd); on_goal 1 => with_reducible assumption)
    | ((with_reducible apply Keeps.of_fst); on_goal 1 => with_reducible assumption)
    | intro _
    | split
    | dsimp -zeta only

theorem mRead_keeps {st0 p m x2} (hk : Keeps st0 x2) : Keeps st0 (mRead p m x2).1 := by
  refine hk.trans ?_; clear hk
  unfold mRead
  repeat' first
    | with_reducible apply Keeps.refl
    | with_reducible assumption
    | with_reducible apply now__keeps
    | with_reducible apply State.mbxReadOp_keeps
    | ((with_reducible apply Keeps.of_snd); on_goal 1 => with_reducible assumption)
    | ((with_reducible apply Keeps.of_fst); on_goal 1 => with_reducible assumption)
    | intro _
    | split
    | dsimp -zeta only

theorem mWrite_keeps {st0 p m x2} (hk : Keeps st0 x2) : Keeps st0 (mWrite p m x2).1 := by
  refine hk.trans ?_; clear hk
  unfold mWrite
  repeat' first
    | with_reducible apply Keeps.refl
    | with_reducible assumption
    | with_reducible apply now__keeps
    | with_reducible apply State.mbxWriteOp_keeps
    | ((with_reducible apply Keeps.of_snd); on_goal 1 => with_reducible assumption)
    | ((with_reducible apply Keeps.of_fst); on_goal 1 => with_reducible assumption)
    | intro _
    | split
    | dsimp -zeta only

theorem mReadCh_keeps {st0 m x1} (hk : Keeps st0 x1) : Keeps st0 (mReadCh m x1).1 := by
  refine hk.trans ?_; clear hk
  unfold mReadCh
  repeat' first
    | with_reducible apply Keeps.refl
    | with_reducible assumption
    | with_reducible apply now__keeps
    | with_reducible apply State.readChOp_keeps
    | ((with_reducible apply Keeps.of_snd); on_goal 1 => with_reducible assumption)
    | ((with_reducible apply Keeps.of_fst); on_goal 1 => with_reducible assumption)
    | intro _
    | split
    | dsimp -zeta only

theorem execMbxRead_keeps {p m t s} : OutKeeps s (execMbxRead p m t s) := by
  unfold execMbxRead
  repeat' first
    | with_reducible apply Keeps.refl
    | with_reducible assumption
    | with_reducible apply OutKeeps.refused
    | with_reducible apply OutKeeps.next
    | with_reducible apply State.request_keeps
    | with_reducible apply State.atTime_keeps
    | with_reducible apply mRead_keeps
    | with_reducible apply OutKeeps.ite
    | intro _
    | split
    | dsimp -zeta only

theorem execMbxWrite_keeps {p m t s} : OutKeeps s (execMbxWrite p m t s) := by
  unfold execMbxWrite
  repeat' first
    | with_reducible apply Keeps.refl
    | with_reducible assumption
    | with_reducible apply OutKeeps.refused
    | with_reducible apply OutKeeps.next
    | with_reducible apply State.request_keeps
    | with_reducible apply State.atTime_keeps
    | with_reducible apply mWrite_keeps
    | with_reducible apply OutKeeps.ite
    | intro _
    | split
    | dsimp -zeta only

theorem execReadCh_keeps {p m t s} : OutKeeps s (execReadCh p m t s) := by
  unfold execReadCh
  repeat' first
    | with_reducible apply Keeps.refl
    | with_reducible assumption
    | with_reducible apply OutKeeps.refused
    | with_reducible apply OutKeeps.next
    | with_reducible apply State.request_keeps
    | with_reducible apply State.atTime_keeps
    | with_reducible apply mReadCh_keeps
    | with_reducible apply OutKeeps.ite
    | intro _
    | split
    | dsimp -zeta only

theorem mAck_keeps {st0 x0} (hk : Keeps st0 x0) : Keeps st0 (mAck x0).1 := by
  refine hk.trans ?_; clear hk
  unfold mAck
  repeat' first
    | with_reducible apply Keeps.refl
    | with_reducible assumption
    | with_reducible apply now__keeps
    | ((with_reducible apply Keeps.of_snd); on_goal 1 => with_reducible assumption)
    | ((with_reducible apply Keeps.of_fst); on_goal 1 => with_reducible assumption)
    | intro _
    | split
    | dsimp -zeta only

theorem execAck_keeps {p m t s} : OutKeeps s (execAck p m t s) := by
  unfold execAck
  repeat' first
    | with_reducible apply Keeps.refl
    | with_reducible assumption
    | with_reducible apply OutKeeps.refused
    | with_reducible apply OutKeeps.next
    | with_reducible apply State.request_keeps
    | with_reducible apply State.atTime_keeps
    | with_reducible apply mAck_keeps
    | with_reducible apply OutKeeps.ite
    | intro _
    | split
    | dsimp -zeta only

theorem State.hostEvent_keeps {st0 s src l} (hk : Keeps st0 s) : Keeps st0 (State.hostEvent s src l).1 := by
  refine hk.trans ?_; clear hk
  unfold State.hostEvent
  repeat' first
    | with_reducible apply Keeps.refl
    | with_reducible assumption
    | with_reducible apply State.raise_keeps
    | intro _
    | split
    | dsimp -zeta only

theorem mHostevt_keeps {st0 m x1} (hk : Keeps st0 x1) : Keeps st0 (mHostevt m x1).1 := by
  refine hk.trans ?_; clear hk
  unfold mHostevt
  repeat' first
    | with_reducible apply Keeps.refl
    | with_reducible assumption
    | with_reducible apply now__keeps
    | with_reducible apply State.hostEvent_keeps
    | ((with_reducible apply Keeps.of_snd); on_goal 1 => with_reducible assumption)
    | ((with_reducible apply Keeps.of_fst); on_goal 1 => with_reducible assumption)
    | intro _
    | split
    | dsimp -zeta only

theorem execHostevt_keeps {p m t s} : OutKeeps s (execHostevt p m t s) := by
  unfold execHostevt
  repeat' first
    | with_reducible apply Keeps.refl
    | with_reducible assumption
    | with_reducible apply OutKeeps.refused
    | with_reducible apply OutKeeps.next
    | with_reducible apply State.request_keeps
    | with_reducible apply State.atTime_keeps
    | with_reducible apply mHostevt_keeps
    | with_reducible apply OutKeeps.ite
    | intro _
    | split
    | dsimp -zeta only

theorem State.clearCounts_keeps {st0 s} (hk : Keeps st0 s) : Keeps st0 (State.clearCounts s).1 := by
  refine hk.trans ?_; clear hk
  unfold State.clearCounts
  repeat' first
    | with_reducible apply Keeps.refl
    | with_reducible assumption
    | (extract_lets +onlyGivenNames a
       first
       | (refine Keeps.cut (m := a) ?_ ?_
          on_goal 2 => (clear_value a; intro _)
          on_goal 1 => (dsimp -zeta only [a]; clear a))
       | (refine Keeps.cut (m := a.2) ?_ ?_
          on_goal 2 => (clear_value a; intro _)
          on_goal 1 => (dsimp -zeta only [a]; clear a))
       | (refine Keeps.cut (m := a.1) ?_ ?_
          on_goal 2 => (clear_value a; intro _)
          on_goal 1 => (dsimp -zeta only [a]; clear a))
       | subst a)
    | with_reducible apply State.setFld_keeps
    | with_reducible apply State.wr_keeps
    | with_reducible apply foldS_keeps
    | ((with_reducible apply Keeps.of_snd); on_goal 1 => with_reducible assumption)
    | ((with_reducible apply Keeps.of_fst); on_goal 1 => with_reducible assumption)
    | intro _
    | split
    | dsimp -zeta only

theorem mCountclr_keeps {st0 x0} (hk : Keeps st0 x0) : Keeps st0 (mCountclr x0).1 := by
  refine hk.trans ?_; clear hk
  unfold mCountclr
  repeat' first
    | with_reducible apply Keeps.refl
    | with_reducible assumption
    | with_reducible apply now__keeps
    | with_reducible apply State.clearCounts_keeps
    | intro _
    | split
    | dsimp -zeta only

theorem execCountclr_keeps {p m t s} : OutKeeps s (execCountclr p m t s) := by
  unfold execCountclr
  repeat' first
    | with_reducible apply Keeps.refl
    | with_reducible assumption
    | with_reducible apply OutKeeps.refused
    | with_reducible apply OutKeeps.next
    | with_reducible apply State.request_keeps
    | with_reducible apply State.atTime_keeps
    | with_reducible apply mCountclr_keeps
    | with_reducible apply OutKeeps.ite
    | intro _
    | split
    | dsimp -zeta only

theorem mRestart_keeps {st0 x0} (hk : Keeps st0 x0) : Keeps st0 (mRestart x0).1 := by
  refine hk.trans ?_; clear hk
  unfold mRestart
  repeat' first
    | with_reducible apply Keeps.refl
    | with_reducible assumption
    | with_reducible apply now__keeps
    | with_reducible apply State.restartOp_keeps
    | intro _
    | split
    | dsimp -zeta only

theorem execRestart_keeps {p m t s} : OutKeeps s (execRestart p m t s) := by
  unfold execRestart
  repeat' first
    | with_reducible apply Keeps.refl
    | with_reducible assumption
    | with_reducible apply OutKeeps.refused
    | with_reducible apply OutKeeps.next
    | with_reducible apply State.request_keeps
    | with_reducible apply State.atTime_keeps
    | with_reducible apply mRestart_keeps
    | with_reducible apply OutKeeps.ite
    | intro _
    | split
    | dsimp -zeta only

theorem mDigestNow_keeps {st0 x0} (hk : Keeps st0 x0) : Keeps st0 (mDigestNow x0).1 := by
  refine hk.trans ?_; clear hk
  unfold mDigestNow
  repeat' first
    | with_reducible apply Keeps.refl
    | with_reducible assumption
    | with_reducible apply now__keeps
    | with_reducible apply State.digestNowOp_keeps
    | intro _
    | split
    | dsimp -zeta only

theorem execDigestNow_keeps {p m t s} : OutKeeps s (execDigestNow p m t s) := by
  unfold execDigestNow
  repeat' first
    | with_reducible apply Keeps.refl
    | with_reducible assumption
    | with_reducible apply OutKeeps.refused
    | with_reducible apply OutKeeps.next
    | with_reducible apply State.request_keeps
    | with_reducible apply State.atTime_keeps
    | with_reducible apply mDigestNow_keeps
    | with_reducible apply OutKeeps.ite
    | intro _
    | split
    | dsimp -zeta only

theorem mImageBegin_keeps {st0 p m x2} (hk : Keeps st0 x2) : Keeps st0 (mImageBegin p m x2).1 := by
  refine hk.trans ?_; clear hk
  unfold mImageBegin
  repeat' first
    | with_reducible apply Keeps.refl
    | with_reducible assumption
    | with_reducible apply now__keeps
    | with_reducible apply State.imageBeginOp_keeps
    | ((with_reducible apply Keeps.of_snd); on_goal 1 => with_reducible assumption)
    | ((with_reducible apply Keeps.of_fst); on_goal 1 => with_reducible assumption)
    | intro _
    | split
    | dsimp -zeta only

theorem mImageBlock_keeps {st0 p m x2} (hk : Keeps st0 x2) : Keeps st0 (mImageBlock p m x2).1 := by
  refine hk.trans ?_; clear hk
  unfold mImageBlock
  repeat' first
    | with_reducible apply Keeps.refl
    | with_reducible assumption
    | with_reducible apply now__keeps
    | with_reducible apply State.imageBlockOp_keeps
    | ((with_reducible apply Keeps.of_snd); on_goal 1 => with_reducible assumption)
    | ((with_reducible apply Keeps.of_fst); on_goal 1 => with_reducible assumption)
    | intro _
    | split
    | dsimp -zeta only

theorem mImageEnd_keeps {st0 p m x2} (hk : Keeps st0 x2) : Keeps st0 (mImageEnd p m x2).1 := by
  refine hk.trans ?_; clear hk
  unfold mImageEnd
  repeat' first
    | with_reducible apply Keeps.refl
    | with_reducible assumption
    | with_reducible apply State.imageEndOp_keeps
    | ((with_reducible apply Keeps.of_snd); on_goal 1 => with_reducible assumption)
    | ((with_reducible apply Keeps.of_fst); on_goal 1 => with_reducible assumption)
    | intro _
    | split
    | dsimp -zeta only

theorem mImageSwitch_keeps {st0 p x1} (hk : Keeps st0 x1) : Keeps st0 (mImageSwitch p x1).1 := by
  refine hk.trans ?_; clear hk
  unfold mImageSwitch
  repeat' first
    | with_reducible apply Keeps.refl
    | with_reducible assumption
    | with_reducible apply now__keeps
    | with_reducible apply State.imageSwitchOp_keeps
    | ((with_reducible apply Keeps.of_snd); on_goal 1 => with_reducible assumption)
    | ((with_reducible apply Keeps.of_fst); on_goal 1 => with_reducible assumption)
    | intro _
    | split
    | dsimp -zeta only

theorem execImageBegin_keeps {p m t s} : OutKeeps s (execImageBegin p m t s) := by
  unfold execImageBegin
  repeat' first
    | with_reducible apply Keeps.refl
    | with_reducible assumption
    | with_reducible apply OutKeeps.refused
    | with_reducible apply OutKeeps.next
    | with_reducible apply State.request_keeps
    | with_reducible apply State.atTime_keeps
    | with_reducible apply mImageBegin_keeps
    | with_reducible apply OutKeeps.ite
    | intro _
    | split
    | dsimp -zeta only

theorem execImageBlock_keeps {p m t s} : OutKeeps s (execImageBlock p m t s) := by
  unfold execImageBlock
  repeat' first
    | with_reducible apply Keeps.refl
    | with_reducible assumption
    | with_reducible apply OutKeeps.refused
    | with_reducible apply OutKeeps.next
    | with_reducible apply State.request_keeps
    | with_reducible apply State.atTime_keeps
    | with_reducible apply mImageBlock_keeps
    | with_reducible apply OutKeeps.ite
    | intro _
    | split
    | dsimp -zeta only

theorem execImageEnd_keeps {p m t s} : OutKeeps s (execImageEnd p m t s) := by
  unfold execImageEnd
  repeat' first
    | with_reducible apply Keeps.refl
    | with_reducible assumption
    | with_reducible apply OutKeeps.refused
    | with_reducible apply OutKeeps.next
    | with_reducible apply State.request_keeps
    | with_reducible apply State.atTime_keeps
    | with_reducible apply mImageEnd_keeps
    | with_reducible apply OutKeeps.ite
    | intro _
    | split
    | dsimp -zeta only

theorem execImageSwitch_keeps {p m t s} : OutKeeps s (execImageSwitch p m t s) := by
  unfold execImageSwitch
  repeat' first
    | with_reducible apply Keeps.refl
    | with_reducible assumption
    | with_reducible apply OutKeeps.refused
    | with_reducible apply OutKeeps.next
    | with_reducible apply State.request_keeps
    | with_reducible apply State.atTime_keeps
    | with_reducible apply mImageSwitch_keeps
    | with_reducible apply OutKeeps.ite
    | intro _
    | split
    | dsimp -zeta only

theorem State.imageChecked_keeps {st0 s} (hk : Keeps st0 s) : Keeps st0 (State.imageChecked s) := by
  refine hk.trans ?_; clear hk
  unfold State.imageChecked
  repeat' first
    | with_reducible apply Keeps.refl
    | with_reducible assumption
    | (extract_lets +onlyGivenNames a
       first
       | (refine Keeps.cut (m := a) ?_ ?_
          on_goal 2 => (clear_value a; intro _)
          on_goal 1 => (dsimp -zeta only [a]; clear a))
       | (refine Keeps.cut (m := a.2) ?_ ?_
          on_goal 2 => (clear_value a; intro _)
          on_goal 1 => (dsimp -zeta only [a]; clear a))
       | (refine Keeps.cut (m := a.1) ?_ ?_
          on_goal 2 => (clear_value a; intro _)
          on_goal 1 => (dsimp -zeta only [a]; clear a))
       | subst a)
    | with_reducible apply State.checkTarget_keeps
    | with_reducible apply State.respond_keeps
    | ((with_reducible apply Keeps.of_snd); on_goal 1 => with_reducible assumption)
    | ((with_reducible apply Keeps.of_fst); on_goal 1 => with_reducible assumption)
    | ((with_reducible apply State.setImg_same); (on_goal 2 => rfl); (on_goal 2 => rfl))
    | intro _
    | split
    | dsimp -zeta only

theorem execImageCheckDone_keeps {t s} : OutKeeps s (execImageCheckDone t s) := by
  unfold execImageCheckDone
  repeat' first
    | with_reducible apply Keeps.refl
    | with_reducible assumption
    | (extract_lets +onlyGivenNames a
       first
       | (refine Keeps.cut (m := a) ?_ ?_
          on_goal 2 => (clear_value a; intro _)
          on_goal 1 => (dsimp -zeta only [a]; clear a))
       | (refine Keeps.cut (m := a.2) ?_ ?_
          on_goal 2 => (clear_value a; intro _)
          on_goal 1 => (dsimp -zeta only [a]; clear a))
       | (refine Keeps.cut (m := a.1) ?_ ?_
          on_goal 2 => (clear_value a; intro _)
          on_goal 1 => (dsimp -zeta only [a]; clear a))
       | subst a)
    | with_reducible apply OutKeeps.refused
    | with_reducible apply OutKeeps.next
    | with_reducible apply State.atTime_keeps
    | with_reducible apply State.imageChecked_keeps
    | with_reducible apply OutKeeps.ite
    | intro _
    | split
    | dsimp -zeta only

theorem byMessage_keeps {st0 p m s} (hk : Keeps st0 s) : Keeps st0 (byMessage p m s).1 := by
  refine hk.trans ?_
  have key : ∀ f, byMessage p m = f → Keeps s (f s).1 := by
    intro f e
    unfold byMessage at e
    split at e
    all_goals subst e
    · exact mRead_keeps (Keeps.refl s)
    · exact mWrite_keeps (Keeps.refl s)
    · exact mReadCh_keeps (Keeps.refl s)
    · exact mHostevt_keeps (Keeps.refl s)
    · exact mImageBegin_keeps (Keeps.refl s)
    · exact mImageEnd_keeps (Keeps.refl s)
    · exact mImageSwitch_keeps (Keeps.refl s)
    · exact mRestart_keeps (Keeps.refl s)
    · exact mDigestNow_keeps (Keeps.refl s)
    · exact mCountclr_keeps (Keeps.refl s)
    · exact mImageBlock_keeps (Keeps.refl s)
    · exact now__keeps (fun s => State.ranteReadOp_keeps (Keeps.refl s)) (Keeps.refl s)
    · exact now__keeps (fun s => State.ranteWriteOp_keeps (Keeps.refl s)) (Keeps.refl s)
    · exact mAck_keeps (Keeps.refl s)
    · exact now__keeps (fun s => Keeps.refl s) (Keeps.refl s)
  exact key _ rfl

theorem State.serviceFrame_keeps {st0 s m crc} (hk : Keeps st0 s) : Keeps st0 (State.serviceFrame s m crc) := by
  refine hk.trans ?_; clear hk
  unfold State.serviceFrame
  repeat' first
    | with_reducible apply Keeps.refl
    | with_reducible assumption
    | with_reducible apply State.svcReq_keeps
    | with_reducible apply byMessage_keeps
    | with_reducible apply State.addFld_keeps
    | intro _
    | split
    | dsimp -zeta only

theorem execSvcFrame_keeps {m crc t s} : OutKeeps s (execSvcFrame m crc t s) := by
  unfold execSvcFrame
  repeat' first
    | with_reducible apply Keeps.refl
    | with_reducible assumption
    | with_reducible apply OutKeeps.refused
    | with_reducible apply OutKeeps.next
    | with_reducible apply State.serviceFrame_keeps
    | with_reducible apply State.atTime_keeps
    | with_reducible apply OutKeeps.ite
    | intro _
    | split
    | dsimp -zeta only

end Sys2Proof.Machine
end

