-- ==== Sys2Proof/Laws/KeepsStart.lean ====
section
/-! SUPPORT. Every operation of `Machine/Start.lean` keeps the queue and the canonical forms. -/

set_option linter.all false
set_option Elab.async false
set_option maxHeartbeats 60000

namespace Sys2Proof.Machine

theorem State.noteStep_keeps {st0 s k mode} (hk : Keeps st0 s) : Keeps st0 (State.noteStep s k mode) := by
  refine hk.trans ?_; clear hk
  unfold State.noteStep
  repeat' first
    | with_reducible apply Keeps.refl
    | with_reducible assumption
    | (extract_lets +onlyGivenNames a
       first
       | (refine Keeps.cut (m := a) ?_ ?_
          on_goal 2 => (clear_value a; intro _)
          on_goal 1 => (dsimp -zeta only [a]; clear a))
       | (refine Keeps.cut (m := a.2) ?_ ?_
          on_goal 2 => (clear_value a; intro _)
          on_goal 1 => (dsimp -zeta only [a]; clear a))
       | (refine Keeps.cut (m := a.1) ?_ ?_
          on_goal 2 => (clear_value a; intro _)
          on_goal 1 => (dsimp -zeta only [a]; clear a))
       | subst a)
    | with_reducible apply State.raise_keeps
    | ((with_reducible apply Keeps.of_snd); on_goal 1 => with_reducible assumption)
    | ((with_reducible apply Keeps.of_fst); on_goal 1 => with_reducible assumption)
    | intro _
    | split
    | dsimp -zeta only

theorem State.markAlt_keeps {st0 s k} (hk : Keeps st0 s) : Keeps st0 (State.markAlt s k) := by
  refine hk.trans ?_; clear hk
  unfold State.markAlt
  repeat' first
    | with_reducible apply Keeps.refl
    | with_reducible assumption
    | with_reducible apply State.setFld_keeps
    | intro _
    | split
    | dsimp -zeta only

theorem State.fallBack_keeps {st0 s k} (hk : Keeps st0 s) : Keeps st0 (State.fallBack s k) := by
  refine hk.trans ?_; clear hk
  unfold State.fallBack
  repeat' first
    | with_reducible apply Keeps.refl
    | with_reducible assumption
    | with_reducible apply State.noteStep_keeps
    | with_reducible apply State.markAlt_keeps
    | with_reducible apply State.putMode_keeps
    | intro _
    | split
    | dsimp -zeta only

theorem State.closeRecord_keeps {st0 s} (hk : Keeps st0 s) : Keeps st0 (State.closeRecord s) := by
  refine hk.trans ?_; clear hk
  unfold State.closeRecord
  repeat' first
    | with_reducible apply Keeps.refl
    | with_reducible assumption
    | with_reducible apply State.setSup_keeps
    | ((with_reducible apply Keeps.of_snd); on_goal 1 => with_reducible assumption)
    | ((with_reducible apply Keeps.of_fst); on_goal 1 => with_reducible assumption)
    | intro _
    | split
    | dsimp -zeta only

theorem State.emptyLedger_keeps {st0 s} (hk : Keeps st0 s) : Keeps st0 (State.emptyLedger s) := by
  refine hk.trans ?_; clear hk
  unfold State.emptyLedger
  repeat' first
    | with_reducible apply Keeps.refl
    | with_reducible assumption
    | (extract_lets +onlyGivenNames a
       first
       | (refine Keeps.cut (m := a) ?_ ?_
          on_goal 2 => (clear_value a; intro _)
          on_goal 1 => (dsimp -zeta only [a]; clear a))
       | (refine Keeps.cut (m := a.2) ?_ ?_
          on_goal 2 => (clear_value a; intro _)
          on_goal 1 => (dsimp -zeta only [a]; clear a))
       | (refine Keeps.cut (m := a.1) ?_ ?_
          on_goal 2 => (clear_value a; intro _)
          on_goal 1 => (dsimp -zeta only [a]; clear a))
       | subst a)
    | with_reducible apply State.setSup_keeps
    | with_reducible apply State.setFlag_keeps
    | with_reducible apply State.setFld_keeps
    | with_reducible apply State.raise_keeps
    | with_reducible apply foldS_keeps
    | ((with_reducible apply Keeps.of_snd); on_goal 1 => with_reducible assumption)
    | ((with_reducible apply Keeps.of_fst); on_goal 1 => with_reducible assumption)
    | intro _
    | split
    | dsimp -zeta only

theorem State.readLedger_keeps {st0 s ok0 ok1} (hk : Keeps st0 s) : Keeps st0 (State.readLedger s ok0 ok1) := by
  refine hk.trans ?_; clear hk
  unfold State.readLedger
  repeat' first
    | with_reducible apply Keeps.refl
    | with_reducible assumption
    | with_reducible apply State.raise_keeps
    | with_reducible apply State.emptyLedger_keeps
    | intro _
    | split
    | dsimp -zeta only

theorem State.chooseMode_keeps {st0 s k prev forced} (hk : Keeps st0 s) : Keeps st0 (State.chooseMode s k prev forced) := by
  refine hk.trans ?_; clear hk
  unfold State.chooseMode
  repeat' first
    | with_reducible apply Keeps.refl
    | with_reducible assumption
    | with_reducible apply State.putMode_keeps
    | with_reducible apply State.setSkip_keeps
    | with_reducible apply State.setAltCount_keeps
    | intro _
    | split
    | dsimp -zeta only

theorem State.chooseModes_keeps {st0 s prev} (hk : Keeps st0 s) : Keeps st0 (State.chooseModes s prev) := by
  refine hk.trans ?_; clear hk
  unfold State.chooseModes
  repeat' first
    | with_reducible apply Keeps.refl
    | with_reducible assumption
    | (extract_lets +onlyGivenNames a
       first
       | (refine Keeps.cut (m := a) ?_ ?_
          on_goal 2 => (clear_value a; intro _)
          on_goal 1 => (dsimp -zeta only [a]; clear a))
       | (refine Keeps.cut (m := a.2) ?_ ?_
          on_goal 2 => (clear_value a; intro _)
          on_goal 1 => (dsimp -zeta only [a]; clear a))
       | (refine Keeps.cut (m := a.1) ?_ ?_
          on_goal 2 => (clear_value a; intro _)
          on_goal 1 => (dsimp -zeta only [a]; clear a))
       | subst a)
    | with_reducible apply State.chooseMode_keeps
    | with_reducible apply State.noteStep_keeps
    | with_reducible apply State.markAlt_keeps
    | with_reducible apply State.applyIf_keeps
    | with_reducible apply foldS_keeps
    | ((with_reducible apply Keeps.of_snd); on_goal 1 => with_reducible assumption)
    | ((with_reducible apply Keeps.of_fst); on_goal 1 => with_reducible assumption)
    | intro _
    | split
    | dsimp -zeta only

theorem State.clearNode_keeps {st0 s} (hk : Keeps st0 s) : Keeps st0 (State.clearNode s) := by
  refine hk.trans ?_; clear hk
  unfold State.clearNode
  repeat' first
    | with_reducible apply Keeps.refl
    | with_reducible assumption
    | (extract_lets +onlyGivenNames a
       first
       | (refine Keeps.cut (m := a) ?_ ?_
          on_goal 2 => (clear_value a; intro _)
          on_goal 1 => (dsimp -zeta only [a]; clear a))
       | (refine Keeps.cut (m := a.2) ?_ ?_
          on_goal 2 => (clear_value a; intro _)
          on_goal 1 => (dsimp -zeta only [a]; clear a))
       | (refine Keeps.cut (m := a.1) ?_ ?_
          on_goal 2 => (clear_value a; intro _)
          on_goal 1 => (dsimp -zeta only [a]; clear a))
       | subst a)
    | with_reducible apply State.resetRegs_keeps
    | with_reducible apply State.setLim_keeps
    | with_reducible apply State.setRotating_keeps
    | with_reducible apply State.keepCrossings_keeps
    | with_reducible apply State.dropSeqs_keeps
    | with_reducible apply State.dropChans_keeps
    | with_reducible apply State.setAlm_keeps
    | with_reducible apply State.setTrp_keeps
    | with_reducible apply State.setRing_keeps
    | with_reducible apply State.setGate_keeps
    | with_reducible apply State.setDio_keeps
    | with_reducible apply State.setBank_keeps
    | with_reducible apply State.setMor_keeps
    | with_reducible apply State.setTap_keeps
    | with_reducible apply State.clearRante_keeps
    | with_reducible apply State.clearGlasshouse_keeps
    | with_reducible apply foldS_keeps
    | ((with_reducible apply Keeps.of_snd); on_goal 1 => with_reducible assumption)
    | ((with_reducible apply Keeps.of_fst); on_goal 1 => with_reducible assumption)
    | ((with_reducible apply State.setCore_same); on_goal 2 => (intro g; solve | (repeat' first | with_reducible apply Core.release_wf | with_reducible apply Core.set_wf | with_reducible apply Core.ask_wf | with_reducible apply Core.touch_wf | with_reducible apply Core.fetchFrom_wf | with_reducible apply Core.placeLine_wf | with_reducible apply Core.next_wf | with_reducible apply Core.setTimer_wf | with_reducible apply Core.resynced_wf | with_reducible apply Core.swapTo_wf | exact g)))
    | ((with_reducible apply State.setCore_empty); on_goal 2 => rfl)
    | ((with_reducible apply State.setImg_same); (on_goal 2 => rfl); (on_goal 2 => rfl))
    | intro _
    | split
    | dsimp -zeta only

theorem State.resumeOptime_keeps {st0 s kept} (hk : Keeps st0 s) : Keeps st0 (State.resumeOptime s kept) := by
  refine hk.trans ?_; clear hk
  unfold State.resumeOptime
  repeat' first
    | with_reducible apply Keeps.refl
    | with_reducible assumption
    | (extract_lets +onlyGivenNames a
       first
       | (refine Keeps.cut (m := a) ?_ ?_
          on_goal 2 => (clear_value a; intro _)
          on_goal 1 => (dsimp -zeta only [a]; clear a))
       | (refine Keeps.cut (m := a.2) ?_ ?_
          on_goal 2 => (clear_value a; intro _)
          on_goal 1 => (dsimp -zeta only [a]; clear a))
       | (refine Keeps.cut (m := a.1) ?_ ?_
          on_goal 2 => (clear_value a; intro _)
          on_goal 1 => (dsimp -zeta only [a]; clear a))
       | subst a)
    | with_reducible apply State.setSup_keeps
    | ((with_reducible apply Keeps.of_snd); on_goal 1 => with_reducible assumption)
    | ((with_reducible apply Keeps.of_fst); on_goal 1 => with_reducible assumption)
    | intro _
    | split
    | dsimp -zeta only

theorem State.clearSup_keeps {st0 s info} (hk : Keeps st0 s) : Keeps st0 (State.clearSup s info) := by
  refine hk.trans ?_; clear hk
  unfold State.clearSup
  repeat' first
    | with_reducible apply Keeps.refl
    | with_reducible assumption
    | with_reducible apply State.setSup_keeps
    | intro _
    | split
    | dsimp -zeta only

theorem State.openRecord_keeps {st0 s} (hk : Keeps st0 s) : Keeps st0 (State.openRecord s) := by
  refine hk.trans ?_; clear hk
  unfold State.openRecord
  repeat' first
    | with_reducible apply Keeps.refl
    | with_reducible assumption
    | (extract_lets +onlyGivenNames a
       first
       | (refine Keeps.cut (m := a) ?_ ?_
          on_goal 2 => (clear_value a; intro _)
          on_goal 1 => (dsimp -zeta only [a]; clear a))
       | (refine Keeps.cut (m := a.2) ?_ ?_
          on_goal 2 => (clear_value a; intro _)
          on_goal 1 => (dsimp -zeta only [a]; clear a))
       | (refine Keeps.cut (m := a.1) ?_ ?_
          on_goal 2 => (clear_value a; intro _)
          on_goal 1 => (dsimp -zeta only [a]; clear a))
       | subst a)
    | with_reducible apply State.setFld_keeps
    | with_reducible apply State.addFld_keeps
    | with_reducible apply State.setSup_keeps
    | intro _
    | split
    | dsimp -zeta only

theorem State.raiseWaiting_keeps {st0 s openBy kept} (hk : Keeps st0 s) : Keeps st0 (State.raiseWaiting s openBy kept) := by
  refine hk.trans ?_; clear hk
  unfold State.raiseWaiting
  repeat' first
    | with_reducible apply Keeps.refl
    | with_reducible assumption
    | (extract_lets +onlyGivenNames a
       first
       | (refine Keeps.cut (m := a) ?_ ?_
          on_goal 2 => (clear_value a; intro _)
          on_goal 1 => (dsimp -zeta only [a]; clear a))
       | (refine Keeps.cut (m := a.2) ?_ ?_
          on_goal 2 => (clear_value a; intro _)
          on_goal 1 => (dsimp -zeta only [a]; clear a))
       | (refine Keeps.cut (m := a.1) ?_ ?_
          on_goal 2 => (clear_value a; intro _)
          on_goal 1 => (dsimp -zeta only [a]; clear a))
       | subst a)
    | with_reducible apply State.raise_keeps
    | with_reducible apply State.noteLost_keeps
    | with_reducible apply State.setSup_keeps
    | with_reducible apply State.setRtc_keeps
    | with_reducible apply State.applyIf_keeps
    | with_reducible apply foldS_keeps
    | ((with_reducible apply Keeps.of_snd); on_goal 1 => with_reducible assumption)
    | ((with_reducible apply Keeps.of_fst); on_goal 1 => with_reducible assumption)
    | intro _
    | split
    | dsimp -zeta only

theorem State.showSupplies_keeps {st0 s info} (hk : Keeps st0 s) : Keeps st0 (State.showSupplies s info) := by
  refine hk.trans ?_; clear hk
  unfold State.showSupplies
  repeat' first
    | with_reducible apply Keeps.refl
    | with_reducible assumption
    | (extract_lets +onlyGivenNames a
       first
       | (refine Keeps.cut (m := a) ?_ ?_
          on_goal 2 => (clear_value a; intro _)
          on_goal 1 => (dsimp -zeta only [a]; clear a))
       | (refine Keeps.cut (m := a.2) ?_ ?_
          on_goal 2 => (clear_value a; intro _)
          on_goal 1 => (dsimp -zeta only [a]; clear a))
       | (refine Keeps.cut (m := a.1) ?_ ?_
          on_goal 2 => (clear_value a; intro _)
          on_goal 1 => (dsimp -zeta only [a]; clear a))
       | subst a)
    | with_reducible apply State.wr_keeps
    | with_reducible apply State.setFlag_keeps
    | with_reducible apply State.setFld_keeps
    | intro _
    | split
    | dsimp -zeta only

theorem State.beginStart_keeps {st0 s info} (hk : Keeps st0 s) : Keeps st0 (State.beginStart s info) := by
  refine hk.trans ?_; clear hk
  unfold State.beginStart
  repeat' first
    | with_reducible apply Keeps.refl
    | with_reducible assumption
    | (extract_lets +onlyGivenNames a
       first
       | (refine Keeps.cut (m := a) ?_ ?_
          on_goal 2 => (clear_value a; intro _)
          on_goal 1 => (dsimp -zeta only [a]; clear a))
       | (refine Keeps.cut (m := a.2) ?_ ?_
          on_goal 2 => (clear_value a; intro _)
          on_goal 1 => (dsimp -zeta only [a]; clear a))
       | (refine Keeps.cut (m := a.1) ?_ ?_
          on_goal 2 => (clear_value a; intro _)
          on_goal 1 => (dsimp -zeta only [a]; clear a))
       | subst a)
    | with_reducible apply State.closeRecord_keeps
    | with_reducible apply State.clearSup_keeps
    | with_reducible apply State.clearNode_keeps
    | with_reducible apply State.showSupplies_keeps
    | with_reducible apply State.resumeOptime_keeps
    | with_reducible apply State.setFld_keeps
    | with_reducible apply State.readLedger_keeps
    | with_reducible apply State.raiseWaiting_keeps
    | with_reducible apply State.chooseModes_keeps
    | with_reducible apply State.openRecord_keeps
    | with_reducible apply foldS_keeps
    | ((with_reducible apply Keeps.of_snd); on_goal 1 => with_reducible assumption)
    | ((with_reducible apply Keeps.of_fst); on_goal 1 => with_reducible assumption)
    | intro _
    | split
    | dsimp -zeta only

theorem State.release_keeps {st0 s rc8} (hk : Keeps st0 s) : Keeps st0 (State.release s rc8) := by
  refine hk.trans ?_; clear hk
  unfold State.release
  repeat' first
    | with_reducible apply Keeps.refl
    | with_reducible assumption
    | (extract_lets +onlyGivenNames a
       first
       | (refine Keeps.cut (m := a) ?_ ?_
          on_goal 2 => (clear_value a; intro _)
          on_goal 1 => (dsimp -zeta only [a]; clear a))
       | (refine Keeps.cut (m := a.2) ?_ ?_
          on_goal 2 => (clear_value a; intro _)
          on_goal 1 => (dsimp -zeta only [a]; clear a))
       | (refine Keeps.cut (m := a.1) ?_ ?_
          on_goal 2 => (clear_value a; intro _)
          on_goal 1 => (dsimp -zeta only [a]; clear a))
       | subst a)
    | with_reducible apply State.setFld_keeps
    | intro _
    | split
    | dsimp -zeta only

theorem State.tryImage_keeps {st0 s b} (hk : Keeps st0 s) : Keeps st0 (State.tryImage s b).2 := by
  refine hk.trans ?_; clear hk
  unfold State.tryImage
  repeat' first
    | with_reducible apply Keeps.refl
    | with_reducible assumption
    | (extract_lets +onlyGivenNames a
       first
       | (refine Keeps.cut (m := a) ?_ ?_
          on_goal 2 => (clear_value a; intro _)
          on_goal 1 => (dsimp -zeta only [a]; clear a))
       | (refine Keeps.cut (m := a.2) ?_ ?_
          on_goal 2 => (clear_value a; intro _)
          on_goal 1 => (dsimp -zeta only [a]; clear a))
       | (refine Keeps.cut (m := a.1) ?_ ?_
          on_goal 2 => (clear_value a; intro _)
          on_goal 1 => (dsimp -zeta only [a]; clear a))
       | subst a)
    | with_reducible apply State.raise_keeps
    | ((with_reducible apply Keeps.of_snd); on_goal 1 => with_reducible assumption)
    | ((with_reducible apply Keeps.of_fst); on_goal 1 => with_reducible assumption)
    | intro _
    | split
    | dsimp -zeta only

theorem State.takeImage_keeps {st0 s b} (hk : Keeps st0 s) : Keeps st0 (State.takeImage s b) := by
  refine hk.trans ?_; clear hk
  unfold State.takeImage
  repeat' first
    | with_reducible apply Keeps.refl
    | with_reducible assumption
    | (extract_lets +onlyGivenNames a
       first
       | (refine Keeps.cut (m := a) ?_ ?_
          on_goal 2 => (clear_value a; intro _)
          on_goal 1 => (dsimp -zeta only [a]; clear a))
       | (refine Keeps.cut (m := a.2) ?_ ?_
          on_goal 2 => (clear_value a; intro _)
          on_goal 1 => (dsimp -zeta only [a]; clear a))
       | (refine Keeps.cut (m := a.1) ?_ ?_
          on_goal 2 => (clear_value a; intro _)
          on_goal 1 => (dsimp -zeta only [a]; clear a))
       | subst a)
    | with_reducible apply State.setFlag_keeps
    | with_reducible apply State.loadDio_keeps
    | with_reducible apply State.loadTrip_keeps
    | with_reducible apply State.showDigests_keeps
    | ((with_reducible apply State.setImg_same); (on_goal 2 => rfl); (on_goal 2 => rfl))
    | intro _
    | split
    | dsimp -zeta only

theorem State.takeNone_keeps {st0 s} (hk : Keeps st0 s) : Keeps st0 (State.takeNone s) := by
  refine hk.trans ?_; clear hk
  unfold State.takeNone
  repeat' first
    | with_reducible apply Keeps.refl
    | with_reducible assumption
    | with_reducible apply State.setFlag_keeps
    | intro _
    | split
    | dsimp -zeta only

theorem State.bootImage_keeps {st0 s b} (hk : Keeps st0 s) : Keeps st0 (State.bootImage s b).2 := by
  refine hk.trans ?_; clear hk
  unfold State.bootImage
  repeat' first
    | with_reducible apply Keeps.refl
    | with_reducible assumption
    | (extract_lets +onlyGivenNames a
       first
       | (refine Keeps.cut (m := a) ?_ ?_
          on_goal 2 => (clear_value a; intro _)
          on_goal 1 => (dsimp -zeta only [a]; clear a))
       | (refine Keeps.cut (m := a.2) ?_ ?_
          on_goal 2 => (clear_value a; intro _)
          on_goal 1 => (dsimp -zeta only [a]; clear a))
       | (refine Keeps.cut (m := a.1) ?_ ?_
          on_goal 2 => (clear_value a; intro _)
          on_goal 1 => (dsimp -zeta only [a]; clear a))
       | subst a)
    | with_reducible apply State.tryImage_keeps
    | with_reducible apply State.takeImage_keeps
    | intro _
    | split
    | dsimp -zeta only

theorem State.otherImage_keeps {st0 s} (hk : Keeps st0 s) : Keeps st0 (State.otherImage s).2 := by
  refine hk.trans ?_; clear hk
  unfold State.otherImage
  repeat' first
    | with_reducible apply Keeps.refl
    | with_reducible assumption
    | (extract_lets +onlyGivenNames a
       first
       | (refine Keeps.cut (m := a) ?_ ?_
          on_goal 2 => (clear_value a; intro _)
          on_goal 1 => (dsimp -zeta only [a]; clear a))
       | (refine Keeps.cut (m := a.2) ?_ ?_
          on_goal 2 => (clear_value a; intro _)
          on_goal 1 => (dsimp -zeta only [a]; clear a))
       | (refine Keeps.cut (m := a.1) ?_ ?_
          on_goal 2 => (clear_value a; intro _)
          on_goal 1 => (dsimp -zeta only [a]; clear a))
       | subst a)
    | with_reducible apply State.bootImage_keeps
    | with_reducible apply State.takeNone_keeps
    | intro _
    | split
    | dsimp -zeta only

theorem State.takeFit_keeps {st0 s b x} (hk : Keeps st0 s) : Keeps st0 (State.takeFit s b x) := by
  refine hk.trans ?_; clear hk
  unfold State.takeFit
  repeat' first
    | with_reducible apply Keeps.refl
    | with_reducible assumption
    | with_reducible apply State.setBank_keeps
    | intro _
    | split
    | dsimp -zeta only

theorem State.startTest_keeps {st0 s} (hk : Keeps st0 s) : Keeps st0 (State.startTest s).2 := by
  refine hk.trans ?_; clear hk
  unfold State.startTest
  repeat' first
    | with_reducible apply Keeps.refl
    | with_reducible assumption
    | (extract_lets +onlyGivenNames a
       first
       | (refine Keeps.cut (m := a) ?_ ?_
          on_goal 2 => (clear_value a; intro _)
          on_goal 1 => (dsimp -zeta only [a]; clear a))
       | (refine Keeps.cut (m := a.2) ?_ ?_
          on_goal 2 => (clear_value a; intro _)
          on_goal 1 => (dsimp -zeta only [a]; clear a))
       | (refine Keeps.cut (m := a.1) ?_ ?_
          on_goal 2 => (clear_value a; intro _)
          on_goal 1 => (dsimp -zeta only [a]; clear a))
       | subst a)
    | with_reducible apply State.takeFit_keeps
    | with_reducible apply State.setSup_keeps
    | with_reducible apply foldS_keeps
    | ((with_reducible apply Keeps.of_snd); on_goal 1 => with_reducible assumption)
    | ((with_reducible apply Keeps.of_fst); on_goal 1 => with_reducible assumption)
    | intro _
    | split
    | dsimp -zeta only

theorem State.loadCoefs_keeps {st0 s} (hk : Keeps st0 s) : Keeps st0 (State.loadCoefs s).2 := by
  refine hk.trans ?_; clear hk
  unfold State.loadCoefs
  repeat' first
    | with_reducible apply Keeps.refl
    | with_reducible assumption
    | (extract_lets +onlyGivenNames a
       first
       | (refine Keeps.cut (m := a) ?_ ?_
          on_goal 2 => (clear_value a; intro _)
          on_goal 1 => (dsimp -zeta only [a]; clear a))
       | (refine Keeps.cut (m := a.2) ?_ ?_
          on_goal 2 => (clear_value a; intro _)
          on_goal 1 => (dsimp -zeta only [a]; clear a))
       | (refine Keeps.cut (m := a.1) ?_ ?_
          on_goal 2 => (clear_value a; intro _)
          on_goal 1 => (dsimp -zeta only [a]; clear a))
       | subst a)
    | with_reducible apply State.factoryCoefs_keeps
    | with_reducible apply State.regionCoefs_keeps
    | with_reducible apply foldS_keeps
    | ((with_reducible apply Keeps.of_snd); on_goal 1 => with_reducible assumption)
    | ((with_reducible apply Keeps.of_fst); on_goal 1 => with_reducible assumption)
    | intro _
    | split
    | dsimp -zeta only

theorem State.setPowerFail_keeps {st0 s asOff} (hk : Keeps st0 s) : Keeps st0 (State.setPowerFail s asOff) := by
  refine hk.trans ?_; clear hk
  unfold State.setPowerFail
  repeat' first
    | with_reducible apply Keeps.refl
    | with_reducible assumption
    | (extract_lets +onlyGivenNames a
       first
       | (refine Keeps.cut (m := a) ?_ ?_
          on_goal 2 => (clear_value a; intro _)
          on_goal 1 => (dsimp -zeta only [a]; clear a))
       | (refine Keeps.cut (m := a.2) ?_ ?_
          on_goal 2 => (clear_value a; intro _)
          on_goal 1 => (dsimp -zeta only [a]; clear a))
       | (refine Keeps.cut (m := a.1) ?_ ?_
          on_goal 2 => (clear_value a; intro _)
          on_goal 1 => (dsimp -zeta only [a]; clear a))
       | subst a)
    | with_reducible apply State.setCommanded_keeps
    | with_reducible apply State.refreshAll_keeps
    | with_reducible apply State.beginTrip_keeps
    | with_reducible apply foldS_keeps
    | ((with_reducible apply Keeps.of_snd); on_goal 1 => with_reducible assumption)
    | ((with_reducible apply Keeps.of_fst); on_goal 1 => with_reducible assumption)
    | intro _
    | split
    | dsimp -zeta only

theorem State.loadPanel_keeps {st0 s} (hk : Keeps st0 s) : Keeps st0 (State.loadPanel s).2 := by
  refine hk.trans ?_; clear hk
  unfold State.loadPanel
  repeat' first
    | with_reducible apply Keeps.refl
    | with_reducible assumption
    | (extract_lets +onlyGivenNames a
       first
       | (refine Keeps.cut (m := a) ?_ ?_
          on_goal 2 => (clear_value a; intro _)
          on_goal 1 => (dsimp -zeta only [a]; clear a))
       | (refine Keeps.cut (m := a.2) ?_ ?_
          on_goal 2 => (clear_value a; intro _)
          on_goal 1 => (dsimp -zeta only [a]; clear a))
       | (refine Keeps.cut (m := a.1) ?_ ?_
          on_goal 2 => (clear_value a; intro _)
          on_goal 1 => (dsimp -zeta only [a]; clear a))
       | subst a)
    | with_reducible apply State.loadGlasshouse_keeps
    | with_reducible apply State.replayJournal_keeps
    | intro _
    | split
    | dsimp -zeta only

theorem State.skipPanel_keeps {st0 s} (hk : Keeps st0 s) : Keeps st0 (State.skipPanel s) := by
  refine hk.trans ?_; clear hk
  unfold State.skipPanel
  repeat' first
    | with_reducible apply Keeps.refl
    | with_reducible assumption
    | (extract_lets +onlyGivenNames a
       first
       | (refine Keeps.cut (m := a) ?_ ?_
          on_goal 2 => (clear_value a; intro _)
          on_goal 1 => (dsimp -zeta only [a]; clear a))
       | (refine Keeps.cut (m := a.2) ?_ ?_
          on_goal 2 => (clear_value a; intro _)
          on_goal 1 => (dsimp -zeta only [a]; clear a))
       | (refine Keeps.cut (m := a.1) ?_ ?_
          on_goal 2 => (clear_value a; intro _)
          on_goal 1 => (dsimp -zeta only [a]; clear a))
       | subst a)
    | with_reducible apply State.loadGlasshouse_keeps
    | with_reducible apply State.setFlag_keeps
    | ((with_reducible apply State.setPanel_same); on_goal 2 => rfl)
    | intro _
    | split
    | dsimp -zeta only

theorem State.rebuildIndex_keeps {st0 s} (hk : Keeps st0 s) : Keeps st0 (State.rebuildIndex s) := by
  refine hk.trans ?_; clear hk
  unfold State.rebuildIndex
  repeat' first
    | with_reducible apply Keeps.refl
    | with_reducible assumption
    | with_reducible apply State.setFlag_keeps
    | intro _
    | split
    | dsimp -zeta only

theorem State.clearRetained_keeps {st0 s} (hk : Keeps st0 s) : Keeps st0 (State.clearRetained s) := by
  refine hk.trans ?_; clear hk
  unfold State.clearRetained
  repeat' first
    | with_reducible apply Keeps.refl
    | with_reducible assumption
    | with_reducible apply State.wr_keeps
    | with_reducible apply foldS_keeps
    | ((with_reducible apply Keeps.of_snd); on_goal 1 => with_reducible assumption)
    | ((with_reducible apply Keeps.of_fst); on_goal 1 => with_reducible assumption)
    | intro _
    | split
    | dsimp -zeta only

theorem State.defaultRetained_keeps {st0 s} (h : Keeps st0 s) : Keeps st0 (State.defaultRetained s) := by
  unfold State.defaultRetained
  exact State.setSup_keeps (State.setRtc_keeps (State.setDio_keeps (State.setMirror_keeps (State.clearRetained_keeps h)
    fun g => tabKeep_wf (State.sound.mirror g))))

theorem State.startMode_keeps {st0 s} (hk : Keeps st0 s) : Keeps st0 (State.startMode s) := by
  refine hk.trans ?_; clear hk
  unfold State.startMode
  repeat' first
    | with_reducible apply Keeps.refl
    | with_reducible assumption
    | with_reducible apply State.setFld_keeps
    | intro _
    | split
    | dsimp -zeta only

theorem State.readRetained_keeps {st0 s} (hk : Keeps st0 s) : Keeps st0 (State.readRetained s) := by
  refine hk.trans ?_; clear hk
  unfold State.readRetained
  repeat' first
    | with_reducible apply Keeps.refl
    | with_reducible assumption
    | (extract_lets +onlyGivenNames a
       first
       | (refine Keeps.cut (m := a) ?_ ?_
          on_goal 2 => (clear_value a; intro _)
          on_goal 1 => (dsimp -zeta only [a]; clear a))
       | (refine Keeps.cut (m := a.2) ?_ ?_
          on_goal 2 => (clear_value a; intro _)
          on_goal 1 => (dsimp -zeta only [a]; clear a))
       | (refine Keeps.cut (m := a.1) ?_ ?_
          on_goal 2 => (clear_value a; intro _)
          on_goal 1 => (dsimp -zeta only [a]; clear a))
       | subst a)
    | with_reducible apply State.defaultRetained_keeps
    | with_reducible apply State.setFld_keeps
    | with_reducible apply State.fromMirror_keeps
    | with_reducible apply State.wrAll_keeps
    | with_reducible apply State.setSup_keeps
    | with_reducible apply State.startMode_keeps
    | with_reducible apply State.toMirror_keeps
    | with_reducible apply foldl_keeps
    | ((with_reducible apply Keeps.of_snd); on_goal 1 => with_reducible assumption)
    | ((with_reducible apply Keeps.of_fst); on_goal 1 => with_reducible assumption)
    | intro _
    | split
    | dsimp -zeta only

theorem State.loadConfig_keeps {st0 s} (hk : Keeps st0 s) : Keeps st0 (State.loadConfig s) := by
  refine hk.trans ?_; clear hk
  unfold State.loadConfig
  repeat' first
    | with_reducible apply Keeps.refl
    | with_reducible assumption
    | (extract_lets +onlyGivenNames a
       first
       | (refine Keeps.cut (m := a) ?_ ?_
          on_goal 2 => (clear_value a; intro _)
          on_goal 1 => (dsimp -zeta only [a]; clear a))
       | (refine Keeps.cut (m := a.2) ?_ ?_
          on_goal 2 => (clear_value a; intro _)
          on_goal 1 => (dsimp -zeta only [a]; clear a))
       | (refine Keeps.cut (m := a.1) ?_ ?_
          on_goal 2 => (clear_value a; intro _)
          on_goal 1 => (dsimp -zeta only [a]; clear a))
       | subst a)
    | with_reducible apply State.claimProgram_keeps
    | with_reducible apply State.loadFront_keeps
    | with_reducible apply State.loadPd4_keeps
    | with_reducible apply State.loadGlissade_keeps
    | with_reducible apply State.showCurrents_keeps
    | with_reducible apply foldS_keeps
    | intro _
    | split
    | dsimp -zeta only

theorem State.startBanks_keeps {st0 s} (hk : Keeps st0 s) : Keeps st0 (State.startBanks s) := by
  refine (State.startBanks.eq_1 s).symm.subst (motive := Keeps st0) ?_
  have g := State.startScan_keeps hk
  generalize State.startScan s = m at g ⊢
  split
  · split
    · exact State.handOver_keeps g
    · exact g
  · exact g

theorem State.loadTables_keeps {st0 s} (hk : Keeps st0 s) : Keeps st0 (State.loadTables s) :=
  (State.loadTables.eq_1 s).symm.subst (motive := Keeps st0)
    (State.enableRotation_keeps (State.settleLimits_keeps
      (State.loadAlarms_keeps (State.claimPairs_keeps (State.loadLimits_keeps hk)))))

theorem State.readTrust_keeps {st0 s} (hk : Keeps st0 s) : Keeps st0 (State.readTrust s) := by
  refine hk.trans ?_; clear hk
  unfold State.readTrust
  repeat' first
    | with_reducible apply Keeps.refl
    | with_reducible assumption
    | with_reducible apply State.putTrim_keeps
    | intro _
    | split
    | dsimp -zeta only

theorem State.startPorts_keeps {st0 s first} (hk : Keeps st0 s) : Keeps st0 (State.startPorts s first) := by
  refine hk.trans ?_; clear hk
  unfold State.startPorts
  repeat' first
    | with_reducible apply Keeps.refl
    | with_reducible assumption
    | with_reducible apply State.loadRing_keeps
    | intro _
    | split
    | dsimp -zeta only

theorem State.workNormal_keeps {st0 s k} (hk : Keeps st0 s) : Keeps st0 (State.workNormal s k).2 := by
  refine hk.trans ?_; clear hk
  unfold State.workNormal
  repeat' first
    | with_reducible apply Keeps.refl
    | with_reducible assumption
    | with_reducible apply State.release_keeps
    | with_reducible apply State.bootImage_keeps
    | with_reducible apply State.startTest_keeps
    | with_reducible apply State.loadCoefs_keeps
    | with_reducible apply State.setPowerFail_keeps
    | with_reducible apply State.loadPanel_keeps
    | with_reducible apply State.startPorts_keeps
    | with_reducible apply State.readRetained_keeps
    | with_reducible apply State.loadConfig_keeps
    | with_reducible apply State.startBanks_keeps
    | with_reducible apply State.loadTables_keeps
    | with_reducible apply State.readTrust_keeps
    | ((with_reducible apply Keeps.of_snd); on_goal 1 => with_reducible assumption)
    | ((with_reducible apply Keeps.of_fst); on_goal 1 => with_reducible assumption)
    | intro _
    | split
    | dsimp -zeta only

theorem State.workAlt_keeps {st0 s k whole} (hk : Keeps st0 s) : Keeps st0 (State.workAlt s k whole).2 := by
  refine hk.trans ?_; clear hk
  unfold State.workAlt
  repeat' first
    | with_reducible apply Keeps.refl
    | with_reducible assumption
    | (extract_lets +onlyGivenNames a
       first
       | (refine Keeps.cut (m := a) ?_ ?_
          on_goal 2 => (clear_value a; intro _)
          on_goal 1 => (dsimp -zeta only [a]; clear a))
       | (refine Keeps.cut (m := a.2) ?_ ?_
          on_goal 2 => (clear_value a; intro _)
          on_goal 1 => (dsimp -zeta only [a]; clear a))
       | (refine Keeps.cut (m := a.1) ?_ ?_
          on_goal 2 => (clear_value a; intro _)
          on_goal 1 => (dsimp -zeta only [a]; clear a))
       | subst a)
    | with_reducible apply State.release_keeps
    | with_reducible apply State.otherImage_keeps
    | with_reducible apply State.factoryCoefs_keeps
    | with_reducible apply State.setPowerFail_keeps
    | with_reducible apply State.loadGlasshouse_keeps
    | with_reducible apply State.panelAlternate_keeps
    | with_reducible apply State.rebuildIndex_keeps
    | with_reducible apply State.startPorts_keeps
    | with_reducible apply foldS_keeps
    | ((with_reducible apply Keeps.of_snd); on_goal 1 => with_reducible assumption)
    | ((with_reducible apply Keeps.of_fst); on_goal 1 => with_reducible assumption)
    | intro _
    | split
    | dsimp -zeta only

theorem State.workSkipped_keeps {st0 s k} (hk : Keeps st0 s) : Keeps st0 (State.workSkipped s k) := by
  refine hk.trans ?_; clear hk
  unfold State.workSkipped
  repeat' first
    | with_reducible apply Keeps.refl
    | with_reducible assumption
    | with_reducible apply State.release_keeps
    | with_reducible apply State.takeNone_keeps
    | with_reducible apply State.nominalCoefs_keeps
    | with_reducible apply State.setPowerFail_keeps
    | with_reducible apply State.skipPanel_keeps
    | with_reducible apply State.startPorts_keeps
    | with_reducible apply foldS_keeps
    | ((with_reducible apply Keeps.of_snd); on_goal 1 => with_reducible assumption)
    | ((with_reducible apply Keeps.of_fst); on_goal 1 => with_reducible assumption)
    | intro _
    | split
    | dsimp -zeta only

theorem State.runNormal_keeps {st0 s k} (hk : Keeps st0 s) : Keeps st0 (State.runNormal s k).2 := by
  refine hk.trans ?_; clear hk
  unfold State.runNormal
  repeat' first
    | with_reducible apply Keeps.refl
    | with_reducible assumption
    | (extract_lets +onlyGivenNames a
       first
       | (refine Keeps.cut (m := a) ?_ ?_
          on_goal 2 => (clear_value a; intro _)
          on_goal 1 => (dsimp -zeta only [a]; clear a))
       | (refine Keeps.cut (m := a.2) ?_ ?_
          on_goal 2 => (clear_value a; intro _)
          on_goal 1 => (dsimp -zeta only [a]; clear a))
       | (refine Keeps.cut (m := a.1) ?_ ?_
          on_goal 2 => (clear_value a; intro _)
          on_goal 1 => (dsimp -zeta only [a]; clear a))
       | subst a)
    | with_reducible apply State.workNormal_keeps
    | with_reducible apply State.fallBack_keeps
    | with_reducible apply State.workAlt_keeps
    | intro _
    | split
    | dsimp -zeta only

theorem State.runForm_keeps {st0 s k} (hk : Keeps st0 s) : Keeps st0 (State.runForm s k).2 := by
  refine hk.trans ?_; clear hk
  unfold State.runForm
  repeat' first
    | with_reducible apply Keeps.refl
    | with_reducible assumption
    | (extract_lets +onlyGivenNames a
       first
       | (refine Keeps.cut (m := a) ?_ ?_
          on_goal 2 => (clear_value a; intro _)
          on_goal 1 => (dsimp -zeta only [a]; clear a))
       | (refine Keeps.cut (m := a.2) ?_ ?_
          on_goal 2 => (clear_value a; intro _)
          on_goal 1 => (dsimp -zeta only [a]; clear a))
       | (refine Keeps.cut (m := a.1) ?_ ?_
          on_goal 2 => (clear_value a; intro _)
          on_goal 1 => (dsimp -zeta only [a]; clear a))
       | subst a)
    | with_reducible apply State.workSkipped_keeps
    | with_reducible apply State.workAlt_keeps
    | with_reducible apply State.runNormal_keeps
    | intro _
    | split
    | dsimp -zeta only

theorem State.atMicros_keeps {st0 s e f} (hf : ∀ s, Keeps s (f s)) (hk : Keeps st0 s) : Keeps st0 (State.atMicros s e f) := by
  refine hk.trans ?_; clear hk
  unfold State.atMicros
  repeat' first
    | with_reducible apply Keeps.refl
    | with_reducible assumption
    | with_reducible apply State.setNow_keeps
    | with_reducible apply Keeps.trans' (hf _)
    | with_reducible apply Keeps.trans' (hf _ _)
    | intro _
    | split
    | dsimp -zeta only

theorem State.runStep_keeps {st0 s k} (hk : Keeps st0 s) : Keeps st0 (State.runStep s k) := by
  refine hk.trans ?_; clear hk
  unfold State.runStep
  repeat' first
    | with_reducible apply Keeps.refl
    | with_reducible assumption
    | (extract_lets +onlyGivenNames a
       first
       | (refine Keeps.cut (m := a) ?_ ?_
          on_goal 2 => (clear_value a; intro _)
          on_goal 1 => (dsimp -zeta only [a]; clear a))
       | (refine Keeps.cut (m := a.2) ?_ ?_
          on_goal 2 => (clear_value a; intro _)
          on_goal 1 => (dsimp -zeta only [a]; clear a))
       | (refine Keeps.cut (m := a.1) ?_ ?_
          on_goal 2 => (clear_value a; intro _)
          on_goal 1 => (dsimp -zeta only [a]; clear a))
       | subst a)
    | with_reducible apply State.putStep_keeps
    | with_reducible apply State.atMicros_keeps
    | with_reducible apply State.runForm_keeps
    | with_reducible apply State.endStepAt_keeps
    | intro _
    | split
    | dsimp -zeta only

theorem State.advance_keeps {st0 s} (hk : Keeps st0 s) : Keeps st0 (State.advance s) := by
  refine hk.trans ?_; clear hk
  unfold State.advance
  repeat' first
    | with_reducible apply Keeps.refl
    | with_reducible assumption
    | with_reducible apply State.runStep_keeps
    | with_reducible apply foldS_keeps
    | intro _
    | split
    | dsimp -zeta only

theorem State.startNode_keeps {st0 s info} (hk : Keeps st0 s) : Keeps st0 (State.startNode s info) := by
  refine hk.trans ?_; clear hk
  unfold State.startNode
  repeat' first
    | with_reducible apply Keeps.refl
    | with_reducible assumption
    | (extract_lets +onlyGivenNames a
       first
       | (refine Keeps.cut (m := a) ?_ ?_
          on_goal 2 => (clear_value a; intro _)
          on_goal 1 => (dsimp -zeta only [a]; clear a))
       | (refine Keeps.cut (m := a.2) ?_ ?_
          on_goal 2 => (clear_value a; intro _)
          on_goal 1 => (dsimp -zeta only [a]; clear a))
       | (refine Keeps.cut (m := a.1) ?_ ?_
          on_goal 2 => (clear_value a; intro _)
          on_goal 1 => (dsimp -zeta only [a]; clear a))
       | subst a)
    | with_reducible apply State.beginStart_keeps
    | with_reducible apply State.endStepAt_keeps
    | with_reducible apply State.advance_keeps
    | intro _
    | split
    | dsimp -zeta only

theorem execNodeStart_keeps {info t s} : OutKeeps s (execNodeStart info t s) := by
  unfold execNodeStart
  repeat' first
    | with_reducible apply Keeps.refl
    | with_reducible assumption
    | (extract_lets +onlyGivenNames a
       first
       | (refine Keeps.cut (m := a) ?_ ?_
          on_goal 2 => (clear_value a; intro _)
          on_goal 1 => (dsimp -zeta only [a]; clear a))
       | (refine Keeps.cut (m := a.2) ?_ ?_
          on_goal 2 => (clear_value a; intro _)
          on_goal 1 => (dsimp -zeta only [a]; clear a))
       | (refine Keeps.cut (m := a.1) ?_ ?_
          on_goal 2 => (clear_value a; intro _)
          on_goal 1 => (dsimp -zeta only [a]; clear a))
       | subst a)
    | with_reducible apply OutKeeps.refused
    | with_reducible apply OutKeeps.next
    | with_reducible apply State.atTime_keeps
    | with_reducible apply State.startNode_keeps
    | with_reducible apply OutKeeps.ite
    | intro _
    | split
    | dsimp -zeta only

theorem State.nameBank_keeps {st0 s k} (hk : Keeps st0 s) : Keeps st0 (State.nameBank s k) := by
  refine hk.trans ?_; clear hk
  unfold State.nameBank
  repeat' first
    | with_reducible apply Keeps.refl
    | with_reducible assumption
    | (extract_lets +onlyGivenNames a
       first
       | (refine Keeps.cut (m := a) ?_ ?_
          on_goal 2 => (clear_value a; intro _)
          on_goal 1 => (dsimp -zeta only [a]; clear a))
       | (refine Keeps.cut (m := a.2) ?_ ?_
          on_goal 2 => (clear_value a; intro _)
          on_goal 1 => (dsimp -zeta only [a]; clear a))
       | (refine Keeps.cut (m := a.1) ?_ ?_
          on_goal 2 => (clear_value a; intro _)
          on_goal 1 => (dsimp -zeta only [a]; clear a))
       | subst a)
    | with_reducible apply State.freshWord_keeps
    | with_reducible apply State.setSup_keeps
    | intro _
    | split
    | dsimp -zeta only

theorem State.timeOut_keeps {st0 s k} (hk : Keeps st0 s) : Keeps st0 (State.timeOut s k) := by
  refine hk.trans ?_; clear hk
  unfold State.timeOut
  repeat' first
    | with_reducible apply Keeps.refl
    | with_reducible assumption
    | (extract_lets +onlyGivenNames a
       first
       | (refine Keeps.cut (m := a) ?_ ?_
          on_goal 2 => (clear_value a; intro _)
          on_goal 1 => (dsimp -zeta only [a]; clear a))
       | (refine Keeps.cut (m := a.2) ?_ ?_
          on_goal 2 => (clear_value a; intro _)
          on_goal 1 => (dsimp -zeta only [a]; clear a))
       | (refine Keeps.cut (m := a.1) ?_ ?_
          on_goal 2 => (clear_value a; intro _)
          on_goal 1 => (dsimp -zeta only [a]; clear a))
       | subst a)
    | with_reducible apply State.nameBank_keeps
    | with_reducible apply State.endStep_keeps
    | with_reducible apply State.advance_keeps
    | with_reducible apply State.fallBack_keeps
    | with_reducible apply State.workAlt_keeps
    | with_reducible apply State.orderRestart_keeps
    | intro _
    | split
    | dsimp -zeta only

theorem execStartStepTimeout_keeps {k t s} : OutKeeps s (execStartStepTimeout k t s) := by
  unfold execStartStepTimeout
  repeat' first
    | with_reducible apply Keeps.refl
    | with_reducible assumption
    | (extract_lets +onlyGivenNames a
       first
       | (refine Keeps.cut (m := a) ?_ ?_
          on_goal 2 => (clear_value a; intro _)
          on_goal 1 => (dsimp -zeta only [a]; clear a))
       | (refine Keeps.cut (m := a.2) ?_ ?_
          on_goal 2 => (clear_value a; intro _)
          on_goal 1 => (dsimp -zeta only [a]; clear a))
       | (refine Keeps.cut (m := a.1) ?_ ?_
          on_goal 2 => (clear_value a; intro _)
          on_goal 1 => (dsimp -zeta only [a]; clear a))
       | subst a)
    | with_reducible apply OutKeeps.refused
    | with_reducible apply OutKeeps.next
    | with_reducible apply State.atTime_keeps
    | with_reducible apply State.timeOut_keeps
    | with_reducible apply OutKeeps.ite
    | intro _
    | split
    | dsimp -zeta only

theorem State.becomeReady_keeps {st0 s} (hk : Keeps st0 s) : Keeps st0 (State.becomeReady s) := by
  refine hk.trans ?_; clear hk
  unfold State.becomeReady
  repeat' first
    | with_reducible apply Keeps.refl
    | with_reducible assumption
    | (extract_lets +onlyGivenNames a
       first
       | (refine Keeps.cut (m := a) ?_ ?_
          on_goal 2 => (clear_value a; intro _)
          on_goal 1 => (dsimp -zeta only [a]; clear a))
       | (refine Keeps.cut (m := a.2) ?_ ?_
          on_goal 2 => (clear_value a; intro _)
          on_goal 1 => (dsimp -zeta only [a]; clear a))
       | (refine Keeps.cut (m := a.1) ?_ ?_
          on_goal 2 => (clear_value a; intro _)
          on_goal 1 => (dsimp -zeta only [a]; clear a))
       | subst a)
    | with_reducible apply State.wr_keeps
    | with_reducible apply State.putStep_keeps
    | with_reducible apply State.firstPass_keeps
    | with_reducible apply State.setSup_keeps
    | intro _
    | split
    | dsimp -zeta only

theorem execAlarmReady_keeps {t s} : OutKeeps s (execAlarmReady t s) := by
  unfold execAlarmReady
  repeat' first
    | with_reducible apply Keeps.refl
    | with_reducible assumption
    | (extract_lets +onlyGivenNames a
       first
       | (refine Keeps.cut (m := a) ?_ ?_
          on_goal 2 => (clear_value a; intro _)
          on_goal 1 => (dsimp -zeta only [a]; clear a))
       | (refine Keeps.cut (m := a.2) ?_ ?_
          on_goal 2 => (clear_value a; intro _)
          on_goal 1 => (dsimp -zeta only [a]; clear a))
       | (refine Keeps.cut (m := a.1) ?_ ?_
          on_goal 2 => (clear_value a; intro _)
          on_goal 1 => (dsimp -zeta only [a]; clear a))
       | subst a)
    | with_reducible apply OutKeeps.refused
    | with_reducible apply OutKeeps.next
    | with_reducible apply State.atTime_keeps
    | with_reducible apply State.becomeReady_keeps
    | with_reducible apply OutKeeps.ite
    | intro _
    | split
    | dsimp -zeta only

theorem State.closeStart_keeps {st0 s} (hk : Keeps st0 s) : Keeps st0 (State.closeStart s) := by
  refine hk.trans ?_; clear hk
  unfold State.closeStart
  repeat' first
    | with_reducible apply Keeps.refl
    | with_reducible assumption
    | (extract_lets +onlyGivenNames a
       first
       | (refine Keeps.cut (m := a) ?_ ?_
          on_goal 2 => (clear_value a; intro _)
          on_goal 1 => (dsimp -zeta only [a]; clear a))
       | (refine Keeps.cut (m := a.2) ?_ ?_
          on_goal 2 => (clear_value a; intro _)
          on_goal 1 => (dsimp -zeta only [a]; clear a))
       | (refine Keeps.cut (m := a.1) ?_ ?_
          on_goal 2 => (clear_value a; intro _)
          on_goal 1 => (dsimp -zeta only [a]; clear a))
       | subst a)
    | with_reducible apply State.endStep_keeps
    | with_reducible apply State.raise_keeps
    | intro _
    | split
    | dsimp -zeta only

theorem execStartClose_keeps {t s} : OutKeeps s (execStartClose t s) := by
  unfold execStartClose
  repeat' first
    | with_reducible apply Keeps.refl
    | with_reducible assumption
    | (extract_lets +onlyGivenNames a
       first
       | (refine Keeps.cut (m := a) ?_ ?_
          on_goal 2 => (clear_value a; intro _)
          on_goal 1 => (dsimp -zeta only [a]; clear a))
       | (refine Keeps.cut (m := a.2) ?_ ?_
          on_goal 2 => (clear_value a; intro _)
          on_goal 1 => (dsimp -zeta only [a]; clear a))
       | (refine Keeps.cut (m := a.1) ?_ ?_
          on_goal 2 => (clear_value a; intro _)
          on_goal 1 => (dsimp -zeta only [a]; clear a))
       | subst a)
    | with_reducible apply OutKeeps.refused
    | with_reducible apply OutKeeps.next
    | with_reducible apply State.atTime_keeps
    | with_reducible apply State.closeStart_keeps
    | with_reducible apply OutKeeps.ite
    | intro _
    | split
    | dsimp -zeta only

theorem State.enterSummaries_keeps {st0 s} (hk : Keeps st0 s) : Keeps st0 (State.enterSummaries s) := by
  refine hk.trans ?_; clear hk
  unfold State.enterSummaries
  repeat' first
    | with_reducible apply Keeps.refl
    | with_reducible assumption
    | (extract_lets +onlyGivenNames a
       first
       | (refine Keeps.cut (m := a) ?_ ?_
          on_goal 2 => (clear_value a; intro _)
          on_goal 1 => (dsimp -zeta only [a]; clear a))
       | (refine Keeps.cut (m := a.2) ?_ ?_
          on_goal 2 => (clear_value a; intro _)
          on_goal 1 => (dsimp -zeta only [a]; clear a))
       | (refine Keeps.cut (m := a.1) ?_ ?_
          on_goal 2 => (clear_value a; intro _)
          on_goal 1 => (dsimp -zeta only [a]; clear a))
       | subst a)
    | with_reducible apply State.summarize_keeps
    | with_reducible apply State.setMor_keeps
    | with_reducible apply State.noteLost_keeps
    | with_reducible apply State.raiseS_keeps
    | with_reducible apply State.enterFifo_keeps
    | with_reducible apply State.applyIf_keeps
    | with_reducible apply foldS_keeps
    | with_reducible apply foldl_keeps
    | ((with_reducible apply Keeps.of_snd); on_goal 1 => with_reducible assumption)
    | ((with_reducible apply Keeps.of_fst); on_goal 1 => with_reducible assumption)
    | intro _
    | split
    | dsimp -zeta only

theorem State.flush_keeps {st0 s cause} (hk : Keeps st0 s) : Keeps st0 (State.flush s cause) := by
  refine hk.trans ?_; clear hk
  unfold State.flush
  repeat' first
    | with_reducible apply Keeps.refl
    | with_reducible assumption
    | (extract_lets +onlyGivenNames a
       first
       | (refine Keeps.cut (m := a) ?_ ?_
          on_goal 2 => (clear_value a; intro _)
          on_goal 1 => (dsimp -zeta only [a]; clear a))
       | (refine Keeps.cut (m := a.2) ?_ ?_
          on_goal 2 => (clear_value a; intro _)
          on_goal 1 => (dsimp -zeta only [a]; clear a))
       | (refine Keeps.cut (m := a.1) ?_ ?_
          on_goal 2 => (clear_value a; intro _)
          on_goal 1 => (dsimp -zeta only [a]; clear a))
       | subst a)
    | with_reducible apply State.setMor_keeps
    | with_reducible apply State.takeTriggers_keeps
    | with_reducible apply State.writeFifo_keeps
    | with_reducible apply State.enterSummaries_keeps
    | with_reducible apply State.setSup_keeps
    | with_reducible apply State.applyIf_keeps
    | ((with_reducible apply Keeps.of_snd); on_goal 1 => with_reducible assumption)
    | ((with_reducible apply Keeps.of_fst); on_goal 1 => with_reducible assumption)
    | intro _
    | split
    | dsimp -zeta only

theorem State.restartNow_keeps {st0 s cause} (hk : Keeps st0 s) : Keeps st0 (State.restartNow s cause) := by
  refine hk.trans ?_; clear hk
  unfold State.restartNow
  repeat' first
    | with_reducible apply Keeps.refl
    | with_reducible assumption
    | (extract_lets +onlyGivenNames a
       first
       | (refine Keeps.cut (m := a) ?_ ?_
          on_goal 2 => (clear_value a; intro _)
          on_goal 1 => (dsimp -zeta only [a]; clear a))
       | (refine Keeps.cut (m := a.2) ?_ ?_
          on_goal 2 => (clear_value a; intro _)
          on_goal 1 => (dsimp -zeta only [a]; clear a))
       | (refine Keeps.cut (m := a.1) ?_ ?_
          on_goal 2 => (clear_value a; intro _)
          on_goal 1 => (dsimp -zeta only [a]; clear a))
       | subst a)
    | with_reducible apply State.dropGlasshouse_keeps
    | with_reducible apply State.dropGlissade_keeps
    | with_reducible apply State.flush_keeps
    | with_reducible apply State.setSup_keeps
    | with_reducible apply State.stop_keeps
    | intro _
    | split
    | dsimp -zeta only

theorem execOrderedRestart_keeps {t s} : OutKeeps s (execOrderedRestart t s) := by
  unfold execOrderedRestart
  repeat' first
    | with_reducible apply Keeps.refl
    | with_reducible assumption
    | (extract_lets +onlyGivenNames a
       first
       | (refine Keeps.cut (m := a) ?_ ?_
          on_goal 2 => (clear_value a; intro _)
          on_goal 1 => (dsimp -zeta only [a]; clear a))
       | (refine Keeps.cut (m := a.2) ?_ ?_
          on_goal 2 => (clear_value a; intro _)
          on_goal 1 => (dsimp -zeta only [a]; clear a))
       | (refine Keeps.cut (m := a.1) ?_ ?_
          on_goal 2 => (clear_value a; intro _)
          on_goal 1 => (dsimp -zeta only [a]; clear a))
       | subst a)
    | with_reducible apply OutKeeps.refused
    | with_reducible apply OutKeeps.next
    | with_reducible apply State.atTime_keeps
    | with_reducible apply State.restartNow_keeps
    | ((with_reducible apply Keeps.of_snd); on_goal 1 => with_reducible assumption)
    | ((with_reducible apply Keeps.of_fst); on_goal 1 => with_reducible assumption)
    | with_reducible apply OutKeeps.ite
    | intro _
    | split
    | dsimp -zeta only

end Sys2Proof.Machine
end

