-- ==== Sys2Proof/Laws/State.lean ====
section
/-! SUPPORT. What each named update of the state leaves in each field: one lemma per field and update, so that no proof
unfolds a record update. -/

set_option Elab.async false

namespace Sys2Proof.Machine

/-! ### setSup -/

@[simp] theorem State.setSup_pending (s : State) (x : Sup) : (s.setSup x).pending = s.pending := rfl
@[simp] theorem State.setSup_now (s : State) (x : Sup) : (s.setSup x).now = s.now := rfl
@[simp] theorem State.setSup_free (s : State) (x : Sup) : (s.setSup x).free = s.free := rfl
@[simp] theorem State.setSup_status (s : State) (x : Sup) : (s.setSup x).status = s.status := rfl
@[simp] theorem State.setSup_regs (s : State) (x : Sup) : (s.setSup x).regs = s.regs := rfl
@[simp] theorem State.setSup_mirror (s : State) (x : Sup) : (s.setSup x).mirror = s.mirror := rfl
@[simp] theorem State.setSup_live (s : State) (x : Sup) : (s.setSup x).live = s.live := rfl
@[simp] theorem State.setSup_sup (s : State) (x : Sup) : (s.setSup x).sup = x := rfl
@[simp] theorem State.setSup_xing (s : State) (x : Sup) : (s.setSup x).xing = s.xing := rfl
@[simp] theorem State.setSup_chans (s : State) (x : Sup) : (s.setSup x).chans = s.chans := rfl
@[simp] theorem State.setSup_banks (s : State) (x : Sup) : (s.setSup x).banks = s.banks := rfl
@[simp] theorem State.setSup_rot (s : State) (x : Sup) : (s.setSup x).rot = s.rot := rfl
@[simp] theorem State.setSup_seqs (s : State) (x : Sup) : (s.setSup x).seqs = s.seqs := rfl
@[simp] theorem State.setSup_timers (s : State) (x : Sup) : (s.setSup x).timers = s.timers := rfl
@[simp] theorem State.setSup_epoch (s : State) (x : Sup) : (s.setSup x).epoch = s.epoch := rfl
@[simp] theorem State.setSup_lim (s : State) (x : Sup) : (s.setSup x).lim = s.lim := rfl
@[simp] theorem State.setSup_trp (s : State) (x : Sup) : (s.setSup x).trp = s.trp := rfl
@[simp] theorem State.setSup_alm (s : State) (x : Sup) : (s.setSup x).alm = s.alm := rfl
@[simp] theorem State.setSup_mor (s : State) (x : Sup) : (s.setSup x).mor = s.mor := rfl
@[simp] theorem State.setSup_coreA (s : State) (x : Sup) : (s.setSup x).coreA = s.coreA := rfl
@[simp] theorem State.setSup_coreB (s : State) (x : Sup) : (s.setSup x).coreB = s.coreB := rfl
@[simp] theorem State.setSup_gate (s : State) (x : Sup) : (s.setSup x).gate = s.gate := rfl
@[simp] theorem State.setSup_dio (s : State) (x : Sup) : (s.setSup x).dio = s.dio := rfl
@[simp] theorem State.setSup_axes (s : State) (x : Sup) : (s.setSup x).axes = s.axes := rfl
@[simp] theorem State.setSup_pnl (s : State) (x : Sup) : (s.setSup x).pnl = s.pnl := rfl
@[simp] theorem State.setSup_rtc (s : State) (x : Sup) : (s.setSup x).rtc = s.rtc := rfl
@[simp] theorem State.setSup_ring (s : State) (x : Sup) : (s.setSup x).ring = s.ring := rfl
@[simp] theorem State.setSup_img (s : State) (x : Sup) : (s.setSup x).img = s.img := rfl
@[simp] theorem State.setSup_rwn (s : State) (x : Sup) : (s.setSup x).rwn = s.rwn := rfl
@[simp] theorem State.setSup_tap (s : State) (x : Sup) : (s.setSup x).tap = s.tap := rfl

/-! ### setRotating -/

@[simp] theorem State.setRotating_pending (s : State) (x : Rot) : (s.setRotating x).pending = s.pending := rfl
@[simp] theorem State.setRotating_now (s : State) (x : Rot) : (s.setRotating x).now = s.now := rfl
@[simp] theorem State.setRotating_free (s : State) (x : Rot) : (s.setRotating x).free = s.free := rfl
@[simp] theorem State.setRotating_status (s : State) (x : Rot) : (s.setRotating x).status = s.status := rfl
@[simp] theorem State.setRotating_regs (s : State) (x : Rot) : (s.setRotating x).regs = s.regs := rfl
@[simp] theorem State.setRotating_mirror (s : State) (x : Rot) : (s.setRotating x).mirror = s.mirror := rfl
@[simp] theorem State.setRotating_live (s : State) (x : Rot) : (s.setRotating x).live = s.live := rfl
@[simp] theorem State.setRotating_sup (s : State) (x : Rot) : (s.setRotating x).sup = s.sup := rfl
@[simp] theorem State.setRotating_xing (s : State) (x : Rot) : (s.setRotating x).xing = s.xing := rfl
@[simp] theorem State.setRotating_chans (s : State) (x : Rot) : (s.setRotating x).chans = s.chans := rfl
@[simp] theorem State.setRotating_banks (s : State) (x : Rot) : (s.setRotating x).banks = s.banks := rfl
@[simp] theorem State.setRotating_rot (s : State) (x : Rot) : (s.setRotating x).rot = x := rfl
@[simp] theorem State.setRotating_seqs (s : State) (x : Rot) : (s.setRotating x).seqs = s.seqs := rfl
@[simp] theorem State.setRotating_timers (s : State) (x : Rot) : (s.setRotating x).timers = s.timers := rfl
@[simp] theorem State.setRotating_epoch (s : State) (x : Rot) : (s.setRotating x).epoch = s.epoch := rfl
@[simp] theorem State.setRotating_lim (s : State) (x : Rot) : (s.setRotating x).lim = s.lim := rfl
@[simp] theorem State.setRotating_trp (s : State) (x : Rot) : (s.setRotating x).trp = s.trp := rfl
@[simp] theorem State.setRotating_alm (s : State) (x : Rot) : (s.setRotating x).alm = s.alm := rfl
@[simp] theorem State.setRotating_mor (s : State) (x : Rot) : (s.setRotating x).mor = s.mor := rfl
@[simp] theorem State.setRotating_coreA (s : State) (x : Rot) : (s.setRotating x).coreA = s.coreA := rfl
@[simp] theorem State.setRotating_coreB (s : State) (x : Rot) : (s.setRotating x).coreB = s.coreB := rfl
@[simp] theorem State.setRotating_gate (s : State) (x : Rot) : (s.setRotating x).gate = s.gate := rfl
@[simp] theorem State.setRotating_dio (s : State) (x : Rot) : (s.setRotating x).dio = s.dio := rfl
@[simp] theorem State.setRotating_axes (s : State) (x : Rot) : (s.setRotating x).axes = s.axes := rfl
@[simp] theorem State.setRotating_pnl (s : State) (x : Rot) : (s.setRotating x).pnl = s.pnl := rfl
@[simp] theorem State.setRotating_rtc (s : State) (x : Rot) : (s.setRotating x).rtc = s.rtc := rfl
@[simp] theorem State.setRotating_ring (s : State) (x : Rot) : (s.setRotating x).ring = s.ring := rfl
@[simp] theorem State.setRotating_img (s : State) (x : Rot) : (s.setRotating x).img = s.img := rfl
@[simp] theorem State.setRotating_rwn (s : State) (x : Rot) : (s.setRotating x).rwn = s.rwn := rfl
@[simp] theorem State.setRotating_tap (s : State) (x : Rot) : (s.setRotating x).tap = s.tap := rfl

/-! ### setLim -/

@[simp] theorem State.setLim_pending (s : State) (x : Lim) : (s.setLim x).pending = s.pending := rfl
@[simp] theorem State.setLim_now (s : State) (x : Lim) : (s.setLim x).now = s.now := rfl
@[simp] theorem State.setLim_free (s : State) (x : Lim) : (s.setLim x).free = s.free := rfl
@[simp] theorem State.setLim_status (s : State) (x : Lim) : (s.setLim x).status = s.status := rfl
@[simp] theorem State.setLim_regs (s : State) (x : Lim) : (s.setLim x).regs = s.regs := rfl
@[simp] theorem State.setLim_mirror (s : State) (x : Lim) : (s.setLim x).mirror = s.mirror := rfl
@[simp] theorem State.setLim_live (s : State) (x : Lim) : (s.setLim x).live = s.live := rfl
@[simp] theorem State.setLim_sup (s : State) (x : Lim) : (s.setLim x).sup = s.sup := rfl
@[simp] theorem State.setLim_xing (s : State) (x : Lim) : (s.setLim x).xing = s.xing := rfl
@[simp] theorem State.setLim_chans (s : State) (x : Lim) : (s.setLim x).chans = s.chans := rfl
@[simp] theorem State.setLim_banks (s : State) (x : Lim) : (s.setLim x).banks = s.banks := rfl
@[simp] theorem State.setLim_rot (s : State) (x : Lim) : (s.setLim x).rot = s.rot := rfl
@[simp] theorem State.setLim_seqs (s : State) (x : Lim) : (s.setLim x).seqs = s.seqs := rfl
@[simp] theorem State.setLim_timers (s : State) (x : Lim) : (s.setLim x).timers = s.timers := rfl
@[simp] theorem State.setLim_epoch (s : State) (x : Lim) : (s.setLim x).epoch = s.epoch := rfl
@[simp] theorem State.setLim_lim (s : State) (x : Lim) : (s.setLim x).lim = x := rfl
@[simp] theorem State.setLim_trp (s : State) (x : Lim) : (s.setLim x).trp = s.trp := rfl
@[simp] theorem State.setLim_alm (s : State) (x : Lim) : (s.setLim x).alm = s.alm := rfl
@[simp] theorem State.setLim_mor (s : State) (x : Lim) : (s.setLim x).mor = s.mor := rfl
@[simp] theorem State.setLim_coreA (s : State) (x : Lim) : (s.setLim x).coreA = s.coreA := rfl
@[simp] theorem State.setLim_coreB (s : State) (x : Lim) : (s.setLim x).coreB = s.coreB := rfl
@[simp] theorem State.setLim_gate (s : State) (x : Lim) : (s.setLim x).gate = s.gate := rfl
@[simp] theorem State.setLim_dio (s : State) (x : Lim) : (s.setLim x).dio = s.dio := rfl
@[simp] theorem State.setLim_axes (s : State) (x : Lim) : (s.setLim x).axes = s.axes := rfl
@[simp] theorem State.setLim_pnl (s : State) (x : Lim) : (s.setLim x).pnl = s.pnl := rfl
@[simp] theorem State.setLim_rtc (s : State) (x : Lim) : (s.setLim x).rtc = s.rtc := rfl
@[simp] theorem State.setLim_ring (s : State) (x : Lim) : (s.setLim x).ring = s.ring := rfl
@[simp] theorem State.setLim_img (s : State) (x : Lim) : (s.setLim x).img = s.img := rfl
@[simp] theorem State.setLim_rwn (s : State) (x : Lim) : (s.setLim x).rwn = s.rwn := rfl
@[simp] theorem State.setLim_tap (s : State) (x : Lim) : (s.setLim x).tap = s.tap := rfl

/-! ### setTrp -/

@[simp] theorem State.setTrp_pending (s : State) (x : Trp) : (s.setTrp x).pending = s.pending := rfl
@[simp] theorem State.setTrp_now (s : State) (x : Trp) : (s.setTrp x).now = s.now := rfl
@[simp] theorem State.setTrp_free (s : State) (x : Trp) : (s.setTrp x).free = s.free := rfl
@[simp] theorem State.setTrp_status (s : State) (x : Trp) : (s.setTrp x).status = s.status := rfl
@[simp] theorem State.setTrp_regs (s : State) (x : Trp) : (s.setTrp x).regs = s.regs := rfl
@[simp] theorem State.setTrp_mirror (s : State) (x : Trp) : (s.setTrp x).mirror = s.mirror := rfl
@[simp] theorem State.setTrp_live (s : State) (x : Trp) : (s.setTrp x).live = s.live := rfl
@[simp] theorem State.setTrp_sup (s : State) (x : Trp) : (s.setTrp x).sup = s.sup := rfl
@[simp] theorem State.setTrp_xing (s : State) (x : Trp) : (s.setTrp x).xing = s.xing := rfl
@[simp] theorem State.setTrp_chans (s : State) (x : Trp) : (s.setTrp x).chans = s.chans := rfl
@[simp] theorem State.setTrp_banks (s : State) (x : Trp) : (s.setTrp x).banks = s.banks := rfl
@[simp] theorem State.setTrp_rot (s : State) (x : Trp) : (s.setTrp x).rot = s.rot := rfl
@[simp] theorem State.setTrp_seqs (s : State) (x : Trp) : (s.setTrp x).seqs = s.seqs := rfl
@[simp] theorem State.setTrp_timers (s : State) (x : Trp) : (s.setTrp x).timers = s.timers := rfl
@[simp] theorem State.setTrp_epoch (s : State) (x : Trp) : (s.setTrp x).epoch = s.epoch := rfl
@[simp] theorem State.setTrp_lim (s : State) (x : Trp) : (s.setTrp x).lim = s.lim := rfl
@[simp] theorem State.setTrp_trp (s : State) (x : Trp) : (s.setTrp x).trp = x := rfl
@[simp] theorem State.setTrp_alm (s : State) (x : Trp) : (s.setTrp x).alm = s.alm := rfl
@[simp] theorem State.setTrp_mor (s : State) (x : Trp) : (s.setTrp x).mor = s.mor := rfl
@[simp] theorem State.setTrp_coreA (s : State) (x : Trp) : (s.setTrp x).coreA = s.coreA := rfl
@[simp] theorem State.setTrp_coreB (s : State) (x : Trp) : (s.setTrp x).coreB = s.coreB := rfl
@[simp] theorem State.setTrp_gate (s : State) (x : Trp) : (s.setTrp x).gate = s.gate := rfl
@[simp] theorem State.setTrp_dio (s : State) (x : Trp) : (s.setTrp x).dio = s.dio := rfl
@[simp] theorem State.setTrp_axes (s : State) (x : Trp) : (s.setTrp x).axes = s.axes := rfl
@[simp] theorem State.setTrp_pnl (s : State) (x : Trp) : (s.setTrp x).pnl = s.pnl := rfl
@[simp] theorem State.setTrp_rtc (s : State) (x : Trp) : (s.setTrp x).rtc = s.rtc := rfl
@[simp] theorem State.setTrp_ring (s : State) (x : Trp) : (s.setTrp x).ring = s.ring := rfl
@[simp] theorem State.setTrp_img (s : State) (x : Trp) : (s.setTrp x).img = s.img := rfl
@[simp] theorem State.setTrp_rwn (s : State) (x : Trp) : (s.setTrp x).rwn = s.rwn := rfl
@[simp] theorem State.setTrp_tap (s : State) (x : Trp) : (s.setTrp x).tap = s.tap := rfl

/-! ### setAlm -/

@[simp] theorem State.setAlm_pending (s : State) (x : Alm) : (s.setAlm x).pending = s.pending := rfl
@[simp] theorem State.setAlm_now (s : State) (x : Alm) : (s.setAlm x).now = s.now := rfl
@[simp] theorem State.setAlm_free (s : State) (x : Alm) : (s.setAlm x).free = s.free := rfl
@[simp] theorem State.setAlm_status (s : State) (x : Alm) : (s.setAlm x).status = s.status := rfl
@[simp] theorem State.setAlm_regs (s : State) (x : Alm) : (s.setAlm x).regs = s.regs := rfl
@[simp] theorem State.setAlm_mirror (s : State) (x : Alm) : (s.setAlm x).mirror = s.mirror := rfl
@[simp] theorem State.setAlm_live (s : State) (x : Alm) : (s.setAlm x).live = s.live := rfl
@[simp] theorem State.setAlm_sup (s : State) (x : Alm) : (s.setAlm x).sup = s.sup := rfl
@[simp] theorem State.setAlm_xing (s : State) (x : Alm) : (s.setAlm x).xing = s.xing := rfl
@[simp] theorem State.setAlm_chans (s : State) (x : Alm) : (s.setAlm x).chans = s.chans := rfl
@[simp] theorem State.setAlm_banks (s : State) (x : Alm) : (s.setAlm x).banks = s.banks := rfl
@[simp] theorem State.setAlm_rot (s : State) (x : Alm) : (s.setAlm x).rot = s.rot := rfl
@[simp] theorem State.setAlm_seqs (s : State) (x : Alm) : (s.setAlm x).seqs = s.seqs := rfl
@[simp] theorem State.setAlm_timers (s : State) (x : Alm) : (s.setAlm x).timers = s.timers := rfl
@[simp] theorem State.setAlm_epoch (s : State) (x : Alm) : (s.setAlm x).epoch = s.epoch := rfl
@[simp] theorem State.setAlm_lim (s : State) (x : Alm) : (s.setAlm x).lim = s.lim := rfl
@[simp] theorem State.setAlm_trp (s : State) (x : Alm) : (s.setAlm x).trp = s.trp := rfl
@[simp] theorem State.setAlm_alm (s : State) (x : Alm) : (s.setAlm x).alm = x := rfl
@[simp] theorem State.setAlm_mor (s : State) (x : Alm) : (s.setAlm x).mor = s.mor := rfl
@[simp] theorem State.setAlm_coreA (s : State) (x : Alm) : (s.setAlm x).coreA = s.coreA := rfl
@[simp] theorem State.setAlm_coreB (s : State) (x : Alm) : (s.setAlm x).coreB = s.coreB := rfl
@[simp] theorem State.setAlm_gate (s : State) (x : Alm) : (s.setAlm x).gate = s.gate := rfl
@[simp] theorem State.setAlm_dio (s : State) (x : Alm) : (s.setAlm x).dio = s.dio := rfl
@[simp] theorem State.setAlm_axes (s : State) (x : Alm) : (s.setAlm x).axes = s.axes := rfl
@[simp] theorem State.setAlm_pnl (s : State) (x : Alm) : (s.setAlm x).pnl = s.pnl := rfl
@[simp] theorem State.setAlm_rtc (s : State) (x : Alm) : (s.setAlm x).rtc = s.rtc := rfl
@[simp] theorem State.setAlm_ring (s : State) (x : Alm) : (s.setAlm x).ring = s.ring := rfl
@[simp] theorem State.setAlm_img (s : State) (x : Alm) : (s.setAlm x).img = s.img := rfl
@[simp] theorem State.setAlm_rwn (s : State) (x : Alm) : (s.setAlm x).rwn = s.rwn := rfl
@[simp] theorem State.setAlm_tap (s : State) (x : Alm) : (s.setAlm x).tap = s.tap := rfl

/-! ### setMor -/

@[simp] theorem State.setMor_pending (s : State) (x : Moraine) : (s.setMor x).pending = s.pending := rfl
@[simp] theorem State.setMor_now (s : State) (x : Moraine) : (s.setMor x).now = s.now := rfl
@[simp] theorem State.setMor_free (s : State) (x : Moraine) : (s.setMor x).free = s.free := rfl
@[simp] theorem State.setMor_status (s : State) (x : Moraine) : (s.setMor x).status = s.status := rfl
@[simp] theorem State.setMor_regs (s : State) (x : Moraine) : (s.setMor x).regs = s.regs := rfl
@[simp] theorem State.setMor_mirror (s : State) (x : Moraine) : (s.setMor x).mirror = s.mirror := rfl
@[simp] theorem State.setMor_live (s : State) (x : Moraine) : (s.setMor x).live = s.live := rfl
@[simp] theorem State.setMor_sup (s : State) (x : Moraine) : (s.setMor x).sup = s.sup := rfl
@[simp] theorem State.setMor_xing (s : State) (x : Moraine) : (s.setMor x).xing = s.xing := rfl
@[simp] theorem State.setMor_chans (s : State) (x : Moraine) : (s.setMor x).chans = s.chans := rfl
@[simp] theorem State.setMor_banks (s : State) (x : Moraine) : (s.setMor x).banks = s.banks := rfl
@[simp] theorem State.setMor_rot (s : State) (x : Moraine) : (s.setMor x).rot = s.rot := rfl
@[simp] theorem State.setMor_seqs (s : State) (x : Moraine) : (s.setMor x).seqs = s.seqs := rfl
@[simp] theorem State.setMor_timers (s : State) (x : Moraine) : (s.setMor x).timers = s.timers := rfl
@[simp] theorem State.setMor_epoch (s : State) (x : Moraine) : (s.setMor x).epoch = s.epoch := rfl
@[simp] theorem State.setMor_lim (s : State) (x : Moraine) : (s.setMor x).lim = s.lim := rfl
@[simp] theorem State.setMor_trp (s : State) (x : Moraine) : (s.setMor x).trp = s.trp := rfl
@[simp] theorem State.setMor_alm (s : State) (x : Moraine) : (s.setMor x).alm = s.alm := rfl
@[simp] theorem State.setMor_mor (s : State) (x : Moraine) : (s.setMor x).mor = x := rfl
@[simp] theorem State.setMor_coreA (s : State) (x : Moraine) : (s.setMor x).coreA = s.coreA := rfl
@[simp] theorem State.setMor_coreB (s : State) (x : Moraine) : (s.setMor x).coreB = s.coreB := rfl
@[simp] theorem State.setMor_gate (s : State) (x : Moraine) : (s.setMor x).gate = s.gate := rfl
@[simp] theorem State.setMor_dio (s : State) (x : Moraine) : (s.setMor x).dio = s.dio := rfl
@[simp] theorem State.setMor_axes (s : State) (x : Moraine) : (s.setMor x).axes = s.axes := rfl
@[simp] theorem State.setMor_pnl (s : State) (x : Moraine) : (s.setMor x).pnl = s.pnl := rfl
@[simp] theorem State.setMor_rtc (s : State) (x : Moraine) : (s.setMor x).rtc = s.rtc := rfl
@[simp] theorem State.setMor_ring (s : State) (x : Moraine) : (s.setMor x).ring = s.ring := rfl
@[simp] theorem State.setMor_img (s : State) (x : Moraine) : (s.setMor x).img = s.img := rfl
@[simp] theorem State.setMor_rwn (s : State) (x : Moraine) : (s.setMor x).rwn = s.rwn := rfl
@[simp] theorem State.setMor_tap (s : State) (x : Moraine) : (s.setMor x).tap = s.tap := rfl

/-! ### setGate -/

@[simp] theorem State.setGate_pending (s : State) (x : Gate) : (s.setGate x).pending = s.pending := rfl
@[simp] theorem State.setGate_now (s : State) (x : Gate) : (s.setGate x).now = s.now := rfl
@[simp] theorem State.setGate_free (s : State) (x : Gate) : (s.setGate x).free = s.free := rfl
@[simp] theorem State.setGate_status (s : State) (x : Gate) : (s.setGate x).status = s.status := rfl
@[simp] theorem State.setGate_regs (s : State) (x : Gate) : (s.setGate x).regs = s.regs := rfl
@[simp] theorem State.setGate_mirror (s : State) (x : Gate) : (s.setGate x).mirror = s.mirror := rfl
@[simp] theorem State.setGate_live (s : State) (x : Gate) : (s.setGate x).live = s.live := rfl
@[simp] theorem State.setGate_sup (s : State) (x : Gate) : (s.setGate x).sup = s.sup := rfl
@[simp] theorem State.setGate_xing (s : State) (x : Gate) : (s.setGate x).xing = s.xing := rfl
@[simp] theorem State.setGate_chans (s : State) (x : Gate) : (s.setGate x).chans = s.chans := rfl
@[simp] theorem State.setGate_banks (s : State) (x : Gate) : (s.setGate x).banks = s.banks := rfl
@[simp] theorem State.setGate_rot (s : State) (x : Gate) : (s.setGate x).rot = s.rot := rfl
@[simp] theorem State.setGate_seqs (s : State) (x : Gate) : (s.setGate x).seqs = s.seqs := rfl
@[simp] theorem State.setGate_timers (s : State) (x : Gate) : (s.setGate x).timers = s.timers := rfl
@[simp] theorem State.setGate_epoch (s : State) (x : Gate) : (s.setGate x).epoch = s.epoch := rfl
@[simp] theorem State.setGate_lim (s : State) (x : Gate) : (s.setGate x).lim = s.lim := rfl
@[simp] theorem State.setGate_trp (s : State) (x : Gate) : (s.setGate x).trp = s.trp := rfl
@[simp] theorem State.setGate_alm (s : State) (x : Gate) : (s.setGate x).alm = s.alm := rfl
@[simp] theorem State.setGate_mor (s : State) (x : Gate) : (s.setGate x).mor = s.mor := rfl
@[simp] theorem State.setGate_coreA (s : State) (x : Gate) : (s.setGate x).coreA = s.coreA := rfl
@[simp] theorem State.setGate_coreB (s : State) (x : Gate) : (s.setGate x).coreB = s.coreB := rfl
@[simp] theorem State.setGate_gate (s : State) (x : Gate) : (s.setGate x).gate = x := rfl
@[simp] theorem State.setGate_dio (s : State) (x : Gate) : (s.setGate x).dio = s.dio := rfl
@[simp] theorem State.setGate_axes (s : State) (x : Gate) : (s.setGate x).axes = s.axes := rfl
@[simp] theorem State.setGate_pnl (s : State) (x : Gate) : (s.setGate x).pnl = s.pnl := rfl
@[simp] theorem State.setGate_rtc (s : State) (x : Gate) : (s.setGate x).rtc = s.rtc := rfl
@[simp] theorem State.setGate_ring (s : State) (x : Gate) : (s.setGate x).ring = s.ring := rfl
@[simp] theorem State.setGate_img (s : State) (x : Gate) : (s.setGate x).img = s.img := rfl
@[simp] theorem State.setGate_rwn (s : State) (x : Gate) : (s.setGate x).rwn = s.rwn := rfl
@[simp] theorem State.setGate_tap (s : State) (x : Gate) : (s.setGate x).tap = s.tap := rfl

/-! ### setDio -/

@[simp] theorem State.setDio_pending (s : State) (x : Dio) : (s.setDio x).pending = s.pending := rfl
@[simp] theorem State.setDio_now (s : State) (x : Dio) : (s.setDio x).now = s.now := rfl
@[simp] theorem State.setDio_free (s : State) (x : Dio) : (s.setDio x).free = s.free := rfl
@[simp] theorem State.setDio_status (s : State) (x : Dio) : (s.setDio x).status = s.status := rfl
@[simp] theorem State.setDio_regs (s : State) (x : Dio) : (s.setDio x).regs = s.regs := rfl
@[simp] theorem State.setDio_mirror (s : State) (x : Dio) : (s.setDio x).mirror = s.mirror := rfl
@[simp] theorem State.setDio_live (s : State) (x : Dio) : (s.setDio x).live = s.live := rfl
@[simp] theorem State.setDio_sup (s : State) (x : Dio) : (s.setDio x).sup = s.sup := rfl
@[simp] theorem State.setDio_xing (s : State) (x : Dio) : (s.setDio x).xing = s.xing := rfl
@[simp] theorem State.setDio_chans (s : State) (x : Dio) : (s.setDio x).chans = s.chans := rfl
@[simp] theorem State.setDio_banks (s : State) (x : Dio) : (s.setDio x).banks = s.banks := rfl
@[simp] theorem State.setDio_rot (s : State) (x : Dio) : (s.setDio x).rot = s.rot := rfl
@[simp] theorem State.setDio_seqs (s : State) (x : Dio) : (s.setDio x).seqs = s.seqs := rfl
@[simp] theorem State.setDio_timers (s : State) (x : Dio) : (s.setDio x).timers = s.timers := rfl
@[simp] theorem State.setDio_epoch (s : State) (x : Dio) : (s.setDio x).epoch = s.epoch := rfl
@[simp] theorem State.setDio_lim (s : State) (x : Dio) : (s.setDio x).lim = s.lim := rfl
@[simp] theorem State.setDio_trp (s : State) (x : Dio) : (s.setDio x).trp = s.trp := rfl
@[simp] theorem State.setDio_alm (s : State) (x : Dio) : (s.setDio x).alm = s.alm := rfl
@[simp] theorem State.setDio_mor (s : State) (x : Dio) : (s.setDio x).mor = s.mor := rfl
@[simp] theorem State.setDio_coreA (s : State) (x : Dio) : (s.setDio x).coreA = s.coreA := rfl
@[simp] theorem State.setDio_coreB (s : State) (x : Dio) : (s.setDio x).coreB = s.coreB := rfl
@[simp] theorem State.setDio_gate (s : State) (x : Dio) : (s.setDio x).gate = s.gate := rfl
@[simp] theorem State.setDio_dio (s : State) (x : Dio) : (s.setDio x).dio = x := rfl
@[simp] theorem State.setDio_axes (s : State) (x : Dio) : (s.setDio x).axes = s.axes := rfl
@[simp] theorem State.setDio_pnl (s : State) (x : Dio) : (s.setDio x).pnl = s.pnl := rfl
@[simp] theorem State.setDio_rtc (s : State) (x : Dio) : (s.setDio x).rtc = s.rtc := rfl
@[simp] theorem State.setDio_ring (s : State) (x : Dio) : (s.setDio x).ring = s.ring := rfl
@[simp] theorem State.setDio_img (s : State) (x : Dio) : (s.setDio x).img = s.img := rfl
@[simp] theorem State.setDio_rwn (s : State) (x : Dio) : (s.setDio x).rwn = s.rwn := rfl
@[simp] theorem State.setDio_tap (s : State) (x : Dio) : (s.setDio x).tap = s.tap := rfl

/-! ### setPanel -/

@[simp] theorem State.setPanel_pending (s : State) (x : Panel) : (s.setPanel x).pending = s.pending := rfl
@[simp] theorem State.setPanel_now (s : State) (x : Panel) : (s.setPanel x).now = s.now := rfl
@[simp] theorem State.setPanel_free (s : State) (x : Panel) : (s.setPanel x).free = s.free := rfl
@[simp] theorem State.setPanel_status (s : State) (x : Panel) : (s.setPanel x).status = s.status := rfl
@[simp] theorem State.setPanel_regs (s : State) (x : Panel) : (s.setPanel x).regs = s.regs := rfl
@[simp] theorem State.setPanel_mirror (s : State) (x : Panel) : (s.setPanel x).mirror = s.mirror := rfl
@[simp] theorem State.setPanel_live (s : State) (x : Panel) : (s.setPanel x).live = s.live := rfl
@[simp] theorem State.setPanel_sup (s : State) (x : Panel) : (s.setPanel x).sup = s.sup := rfl
@[simp] theorem State.setPanel_xing (s : State) (x : Panel) : (s.setPanel x).xing = s.xing := rfl
@[simp] theorem State.setPanel_chans (s : State) (x : Panel) : (s.setPanel x).chans = s.chans := rfl
@[simp] theorem State.setPanel_banks (s : State) (x : Panel) : (s.setPanel x).banks = s.banks := rfl
@[simp] theorem State.setPanel_rot (s : State) (x : Panel) : (s.setPanel x).rot = s.rot := rfl
@[simp] theorem State.setPanel_seqs (s : State) (x : Panel) : (s.setPanel x).seqs = s.seqs := rfl
@[simp] theorem State.setPanel_timers (s : State) (x : Panel) : (s.setPanel x).timers = s.timers := rfl
@[simp] theorem State.setPanel_epoch (s : State) (x : Panel) : (s.setPanel x).epoch = s.epoch := rfl
@[simp] theorem State.setPanel_lim (s : State) (x : Panel) : (s.setPanel x).lim = s.lim := rfl
@[simp] theorem State.setPanel_trp (s : State) (x : Panel) : (s.setPanel x).trp = s.trp := rfl
@[simp] theorem State.setPanel_alm (s : State) (x : Panel) : (s.setPanel x).alm = s.alm := rfl
@[simp] theorem State.setPanel_mor (s : State) (x : Panel) : (s.setPanel x).mor = s.mor := rfl
@[simp] theorem State.setPanel_coreA (s : State) (x : Panel) : (s.setPanel x).coreA = s.coreA := rfl
@[simp] theorem State.setPanel_coreB (s : State) (x : Panel) : (s.setPanel x).coreB = s.coreB := rfl
@[simp] theorem State.setPanel_gate (s : State) (x : Panel) : (s.setPanel x).gate = s.gate := rfl
@[simp] theorem State.setPanel_dio (s : State) (x : Panel) : (s.setPanel x).dio = s.dio := rfl
@[simp] theorem State.setPanel_axes (s : State) (x : Panel) : (s.setPanel x).axes = s.axes := rfl
@[simp] theorem State.setPanel_pnl (s : State) (x : Panel) : (s.setPanel x).pnl = x := rfl
@[simp] theorem State.setPanel_rtc (s : State) (x : Panel) : (s.setPanel x).rtc = s.rtc := rfl
@[simp] theorem State.setPanel_ring (s : State) (x : Panel) : (s.setPanel x).ring = s.ring := rfl
@[simp] theorem State.setPanel_img (s : State) (x : Panel) : (s.setPanel x).img = s.img := rfl
@[simp] theorem State.setPanel_rwn (s : State) (x : Panel) : (s.setPanel x).rwn = s.rwn := rfl
@[simp] theorem State.setPanel_tap (s : State) (x : Panel) : (s.setPanel x).tap = s.tap := rfl

/-! ### setRtc -/

@[simp] theorem State.setRtc_pending (s : State) (x : Rtc) : (s.setRtc x).pending = s.pending := rfl
@[simp] theorem State.setRtc_now (s : State) (x : Rtc) : (s.setRtc x).now = s.now := rfl
@[simp] theorem State.setRtc_free (s : State) (x : Rtc) : (s.setRtc x).free = s.free := rfl
@[simp] theorem State.setRtc_status (s : State) (x : Rtc) : (s.setRtc x).status = s.status := rfl
@[simp] theorem State.setRtc_regs (s : State) (x : Rtc) : (s.setRtc x).regs = s.regs := rfl
@[simp] theorem State.setRtc_mirror (s : State) (x : Rtc) : (s.setRtc x).mirror = s.mirror := rfl
@[simp] theorem State.setRtc_live (s : State) (x : Rtc) : (s.setRtc x).live = s.live := rfl
@[simp] theorem State.setRtc_sup (s : State) (x : Rtc) : (s.setRtc x).sup = s.sup := rfl
@[simp] theorem State.setRtc_xing (s : State) (x : Rtc) : (s.setRtc x).xing = s.xing := rfl
@[simp] theorem State.setRtc_chans (s : State) (x : Rtc) : (s.setRtc x).chans = s.chans := rfl
@[simp] theorem State.setRtc_banks (s : State) (x : Rtc) : (s.setRtc x).banks = s.banks := rfl
@[simp] theorem State.setRtc_rot (s : State) (x : Rtc) : (s.setRtc x).rot = s.rot := rfl
@[simp] theorem State.setRtc_seqs (s : State) (x : Rtc) : (s.setRtc x).seqs = s.seqs := rfl
@[simp] theorem State.setRtc_timers (s : State) (x : Rtc) : (s.setRtc x).timers = s.timers := rfl
@[simp] theorem State.setRtc_epoch (s : State) (x : Rtc) : (s.setRtc x).epoch = s.epoch := rfl
@[simp] theorem State.setRtc_lim (s : State) (x : Rtc) : (s.setRtc x).lim = s.lim := rfl
@[simp] theorem State.setRtc_trp (s : State) (x : Rtc) : (s.setRtc x).trp = s.trp := rfl
@[simp] theorem State.setRtc_alm (s : State) (x : Rtc) : (s.setRtc x).alm = s.alm := rfl
@[simp] theorem State.setRtc_mor (s : State) (x : Rtc) : (s.setRtc x).mor = s.mor := rfl
@[simp] theorem State.setRtc_coreA (s : State) (x : Rtc) : (s.setRtc x).coreA = s.coreA := rfl
@[simp] theorem State.setRtc_coreB (s : State) (x : Rtc) : (s.setRtc x).coreB = s.coreB := rfl
@[simp] theorem State.setRtc_gate (s : State) (x : Rtc) : (s.setRtc x).gate = s.gate := rfl
@[simp] theorem State.setRtc_dio (s : State) (x : Rtc) : (s.setRtc x).dio = s.dio := rfl
@[simp] theorem State.setRtc_axes (s : State) (x : Rtc) : (s.setRtc x).axes = s.axes := rfl
@[simp] theorem State.setRtc_pnl (s : State) (x : Rtc) : (s.setRtc x).pnl = s.pnl := rfl
@[simp] theorem State.setRtc_rtc (s : State) (x : Rtc) : (s.setRtc x).rtc = x := rfl
@[simp] theorem State.setRtc_ring (s : State) (x : Rtc) : (s.setRtc x).ring = s.ring := rfl
@[simp] theorem State.setRtc_img (s : State) (x : Rtc) : (s.setRtc x).img = s.img := rfl
@[simp] theorem State.setRtc_rwn (s : State) (x : Rtc) : (s.setRtc x).rwn = s.rwn := rfl
@[simp] theorem State.setRtc_tap (s : State) (x : Rtc) : (s.setRtc x).tap = s.tap := rfl

/-! ### setRing -/

@[simp] theorem State.setRing_pending (s : State) (x : Ring) : (s.setRing x).pending = s.pending := rfl
@[simp] theorem State.setRing_now (s : State) (x : Ring) : (s.setRing x).now = s.now := rfl
@[simp] theorem State.setRing_free (s : State) (x : Ring) : (s.setRing x).free = s.free := rfl
@[simp] theorem State.setRing_status (s : State) (x : Ring) : (s.setRing x).status = s.status := rfl
@[simp] theorem State.setRing_regs (s : State) (x : Ring) : (s.setRing x).regs = s.regs := rfl
@[simp] theorem State.setRing_mirror (s : State) (x : Ring) : (s.setRing x).mirror = s.mirror := rfl
@[simp] theorem State.setRing_live (s : State) (x : Ring) : (s.setRing x).live = s.live := rfl
@[simp] theorem State.setRing_sup (s : State) (x : Ring) : (s.setRing x).sup = s.sup := rfl
@[simp] theorem State.setRing_xing (s : State) (x : Ring) : (s.setRing x).xing = s.xing := rfl
@[simp] theorem State.setRing_chans (s : State) (x : Ring) : (s.setRing x).chans = s.chans := rfl
@[simp] theorem State.setRing_banks (s : State) (x : Ring) : (s.setRing x).banks = s.banks := rfl
@[simp] theorem State.setRing_rot (s : State) (x : Ring) : (s.setRing x).rot = s.rot := rfl
@[simp] theorem State.setRing_seqs (s : State) (x : Ring) : (s.setRing x).seqs = s.seqs := rfl
@[simp] theorem State.setRing_timers (s : State) (x : Ring) : (s.setRing x).timers = s.timers := rfl
@[simp] theorem State.setRing_epoch (s : State) (x : Ring) : (s.setRing x).epoch = s.epoch := rfl
@[simp] theorem State.setRing_lim (s : State) (x : Ring) : (s.setRing x).lim = s.lim := rfl
@[simp] theorem State.setRing_trp (s : State) (x : Ring) : (s.setRing x).trp = s.trp := rfl
@[simp] theorem State.setRing_alm (s : State) (x : Ring) : (s.setRing x).alm = s.alm := rfl
@[simp] theorem State.setRing_mor (s : State) (x : Ring) : (s.setRing x).mor = s.mor := rfl
@[simp] theorem State.setRing_coreA (s : State) (x : Ring) : (s.setRing x).coreA = s.coreA := rfl
@[simp] theorem State.setRing_coreB (s : State) (x : Ring) : (s.setRing x).coreB = s.coreB := rfl
@[simp] theorem State.setRing_gate (s : State) (x : Ring) : (s.setRing x).gate = s.gate := rfl
@[simp] theorem State.setRing_dio (s : State) (x : Ring) : (s.setRing x).dio = s.dio := rfl
@[simp] theorem State.setRing_axes (s : State) (x : Ring) : (s.setRing x).axes = s.axes := rfl
@[simp] theorem State.setRing_pnl (s : State) (x : Ring) : (s.setRing x).pnl = s.pnl := rfl
@[simp] theorem State.setRing_rtc (s : State) (x : Ring) : (s.setRing x).rtc = s.rtc := rfl
@[simp] theorem State.setRing_ring (s : State) (x : Ring) : (s.setRing x).ring = x := rfl
@[simp] theorem State.setRing_img (s : State) (x : Ring) : (s.setRing x).img = s.img := rfl
@[simp] theorem State.setRing_rwn (s : State) (x : Ring) : (s.setRing x).rwn = s.rwn := rfl
@[simp] theorem State.setRing_tap (s : State) (x : Ring) : (s.setRing x).tap = s.tap := rfl

/-! ### setImg -/

@[simp] theorem State.setImg_pending (s : State) (x : Imgs) : (s.setImg x).pending = s.pending := rfl
@[simp] theorem State.setImg_now (s : State) (x : Imgs) : (s.setImg x).now = s.now := rfl
@[simp] theorem State.setImg_free (s : State) (x : Imgs) : (s.setImg x).free = s.free := rfl
@[simp] theorem State.setImg_status (s : State) (x : Imgs) : (s.setImg x).status = s.status := rfl
@[simp] theorem State.setImg_regs (s : State) (x : Imgs) : (s.setImg x).regs = s.regs := rfl
@[simp] theorem State.setImg_mirror (s : State) (x : Imgs) : (s.setImg x).mirror = s.mirror := rfl
@[simp] theorem State.setImg_live (s : State) (x : Imgs) : (s.setImg x).live = s.live := rfl
@[simp] theorem State.setImg_sup (s : State) (x : Imgs) : (s.setImg x).sup = s.sup := rfl
@[simp] theorem State.setImg_xing (s : State) (x : Imgs) : (s.setImg x).xing = s.xing := rfl
@[simp] theorem State.setImg_chans (s : State) (x : Imgs) : (s.setImg x).chans = s.chans := rfl
@[simp] theorem State.setImg_banks (s : State) (x : Imgs) : (s.setImg x).banks = s.banks := rfl
@[simp] theorem State.setImg_rot (s : State) (x : Imgs) : (s.setImg x).rot = s.rot := rfl
@[simp] theorem State.setImg_seqs (s : State) (x : Imgs) : (s.setImg x).seqs = s.seqs := rfl
@[simp] theorem State.setImg_timers (s : State) (x : Imgs) : (s.setImg x).timers = s.timers := rfl
@[simp] theorem State.setImg_epoch (s : State) (x : Imgs) : (s.setImg x).epoch = s.epoch := rfl
@[simp] theorem State.setImg_lim (s : State) (x : Imgs) : (s.setImg x).lim = s.lim := rfl
@[simp] theorem State.setImg_trp (s : State) (x : Imgs) : (s.setImg x).trp = s.trp := rfl
@[simp] theorem State.setImg_alm (s : State) (x : Imgs) : (s.setImg x).alm = s.alm := rfl
@[simp] theorem State.setImg_mor (s : State) (x : Imgs) : (s.setImg x).mor = s.mor := rfl
@[simp] theorem State.setImg_coreA (s : State) (x : Imgs) : (s.setImg x).coreA = s.coreA := rfl
@[simp] theorem State.setImg_coreB (s : State) (x : Imgs) : (s.setImg x).coreB = s.coreB := rfl
@[simp] theorem State.setImg_gate (s : State) (x : Imgs) : (s.setImg x).gate = s.gate := rfl
@[simp] theorem State.setImg_dio (s : State) (x : Imgs) : (s.setImg x).dio = s.dio := rfl
@[simp] theorem State.setImg_axes (s : State) (x : Imgs) : (s.setImg x).axes = s.axes := rfl
@[simp] theorem State.setImg_pnl (s : State) (x : Imgs) : (s.setImg x).pnl = s.pnl := rfl
@[simp] theorem State.setImg_rtc (s : State) (x : Imgs) : (s.setImg x).rtc = s.rtc := rfl
@[simp] theorem State.setImg_ring (s : State) (x : Imgs) : (s.setImg x).ring = s.ring := rfl
@[simp] theorem State.setImg_img (s : State) (x : Imgs) : (s.setImg x).img = x := rfl
@[simp] theorem State.setImg_rwn (s : State) (x : Imgs) : (s.setImg x).rwn = s.rwn := rfl
@[simp] theorem State.setImg_tap (s : State) (x : Imgs) : (s.setImg x).tap = s.tap := rfl

/-! ### setRwn -/

@[simp] theorem State.setRwn_pending (s : State) (x : Rante) : (s.setRwn x).pending = s.pending := rfl
@[simp] theorem State.setRwn_now (s : State) (x : Rante) : (s.setRwn x).now = s.now := rfl
@[simp] theorem State.setRwn_free (s : State) (x : Rante) : (s.setRwn x).free = s.free := rfl
@[simp] theorem State.setRwn_status (s : State) (x : Rante) : (s.setRwn x).status = s.status := rfl
@[simp] theorem State.setRwn_regs (s : State) (x : Rante) : (s.setRwn x).regs = s.regs := rfl
@[simp] theorem State.setRwn_mirror (s : State) (x : Rante) : (s.setRwn x).mirror = s.mirror := rfl
@[simp] theorem State.setRwn_live (s : State) (x : Rante) : (s.setRwn x).live = s.live := rfl
@[simp] theorem State.setRwn_sup (s : State) (x : Rante) : (s.setRwn x).sup = s.sup := rfl
@[simp] theorem State.setRwn_xing (s : State) (x : Rante) : (s.setRwn x).xing = s.xing := rfl
@[simp] theorem State.setRwn_chans (s : State) (x : Rante) : (s.setRwn x).chans = s.chans := rfl
@[simp] theorem State.setRwn_banks (s : State) (x : Rante) : (s.setRwn x).banks = s.banks := rfl
@[simp] theorem State.setRwn_rot (s : State) (x : Rante) : (s.setRwn x).rot = s.rot := rfl
@[simp] theorem State.setRwn_seqs (s : State) (x : Rante) : (s.setRwn x).seqs = s.seqs := rfl
@[simp] theorem State.setRwn_timers (s : State) (x : Rante) : (s.setRwn x).timers = s.timers := rfl
@[simp] theorem State.setRwn_epoch (s : State) (x : Rante) : (s.setRwn x).epoch = s.epoch := rfl
@[simp] theorem State.setRwn_lim (s : State) (x : Rante) : (s.setRwn x).lim = s.lim := rfl
@[simp] theorem State.setRwn_trp (s : State) (x : Rante) : (s.setRwn x).trp = s.trp := rfl
@[simp] theorem State.setRwn_alm (s : State) (x : Rante) : (s.setRwn x).alm = s.alm := rfl
@[simp] theorem State.setRwn_mor (s : State) (x : Rante) : (s.setRwn x).mor = s.mor := rfl
@[simp] theorem State.setRwn_coreA (s : State) (x : Rante) : (s.setRwn x).coreA = s.coreA := rfl
@[simp] theorem State.setRwn_coreB (s : State) (x : Rante) : (s.setRwn x).coreB = s.coreB := rfl
@[simp] theorem State.setRwn_gate (s : State) (x : Rante) : (s.setRwn x).gate = s.gate := rfl
@[simp] theorem State.setRwn_dio (s : State) (x : Rante) : (s.setRwn x).dio = s.dio := rfl
@[simp] theorem State.setRwn_axes (s : State) (x : Rante) : (s.setRwn x).axes = s.axes := rfl
@[simp] theorem State.setRwn_pnl (s : State) (x : Rante) : (s.setRwn x).pnl = s.pnl := rfl
@[simp] theorem State.setRwn_rtc (s : State) (x : Rante) : (s.setRwn x).rtc = s.rtc := rfl
@[simp] theorem State.setRwn_ring (s : State) (x : Rante) : (s.setRwn x).ring = s.ring := rfl
@[simp] theorem State.setRwn_img (s : State) (x : Rante) : (s.setRwn x).img = s.img := rfl
@[simp] theorem State.setRwn_rwn (s : State) (x : Rante) : (s.setRwn x).rwn = x := rfl
@[simp] theorem State.setRwn_tap (s : State) (x : Rante) : (s.setRwn x).tap = s.tap := rfl

/-! ### setTap -/

@[simp] theorem State.setTap_pending (s : State) (x : Tap) : (s.setTap x).pending = s.pending := rfl
@[simp] theorem State.setTap_now (s : State) (x : Tap) : (s.setTap x).now = s.now := rfl
@[simp] theorem State.setTap_free (s : State) (x : Tap) : (s.setTap x).free = s.free := rfl
@[simp] theorem State.setTap_status (s : State) (x : Tap) : (s.setTap x).status = s.status := rfl
@[simp] theorem State.setTap_regs (s : State) (x : Tap) : (s.setTap x).regs = s.regs := rfl
@[simp] theorem State.setTap_mirror (s : State) (x : Tap) : (s.setTap x).mirror = s.mirror := rfl
@[simp] theorem State.setTap_live (s : State) (x : Tap) : (s.setTap x).live = s.live := rfl
@[simp] theorem State.setTap_sup (s : State) (x : Tap) : (s.setTap x).sup = s.sup := rfl
@[simp] theorem State.setTap_xing (s : State) (x : Tap) : (s.setTap x).xing = s.xing := rfl
@[simp] theorem State.setTap_chans (s : State) (x : Tap) : (s.setTap x).chans = s.chans := rfl
@[simp] theorem State.setTap_banks (s : State) (x : Tap) : (s.setTap x).banks = s.banks := rfl
@[simp] theorem State.setTap_rot (s : State) (x : Tap) : (s.setTap x).rot = s.rot := rfl
@[simp] theorem State.setTap_seqs (s : State) (x : Tap) : (s.setTap x).seqs = s.seqs := rfl
@[simp] theorem State.setTap_timers (s : State) (x : Tap) : (s.setTap x).timers = s.timers := rfl
@[simp] theorem State.setTap_epoch (s : State) (x : Tap) : (s.setTap x).epoch = s.epoch := rfl
@[simp] theorem State.setTap_lim (s : State) (x : Tap) : (s.setTap x).lim = s.lim := rfl
@[simp] theorem State.setTap_trp (s : State) (x : Tap) : (s.setTap x).trp = s.trp := rfl
@[simp] theorem State.setTap_alm (s : State) (x : Tap) : (s.setTap x).alm = s.alm := rfl
@[simp] theorem State.setTap_mor (s : State) (x : Tap) : (s.setTap x).mor = s.mor := rfl
@[simp] theorem State.setTap_coreA (s : State) (x : Tap) : (s.setTap x).coreA = s.coreA := rfl
@[simp] theorem State.setTap_coreB (s : State) (x : Tap) : (s.setTap x).coreB = s.coreB := rfl
@[simp] theorem State.setTap_gate (s : State) (x : Tap) : (s.setTap x).gate = s.gate := rfl
@[simp] theorem State.setTap_dio (s : State) (x : Tap) : (s.setTap x).dio = s.dio := rfl
@[simp] theorem State.setTap_axes (s : State) (x : Tap) : (s.setTap x).axes = s.axes := rfl
@[simp] theorem State.setTap_pnl (s : State) (x : Tap) : (s.setTap x).pnl = s.pnl := rfl
@[simp] theorem State.setTap_rtc (s : State) (x : Tap) : (s.setTap x).rtc = s.rtc := rfl
@[simp] theorem State.setTap_ring (s : State) (x : Tap) : (s.setTap x).ring = s.ring := rfl
@[simp] theorem State.setTap_img (s : State) (x : Tap) : (s.setTap x).img = s.img := rfl
@[simp] theorem State.setTap_rwn (s : State) (x : Tap) : (s.setTap x).rwn = s.rwn := rfl
@[simp] theorem State.setTap_tap (s : State) (x : Tap) : (s.setTap x).tap = x := rfl

/-! ### setFree -/

@[simp] theorem State.setFree_pending (s : State) (x : Nat) : (s.setFree x).pending = s.pending := rfl
@[simp] theorem State.setFree_now (s : State) (x : Nat) : (s.setFree x).now = s.now := rfl
@[simp] theorem State.setFree_free (s : State) (x : Nat) : (s.setFree x).free = x := rfl
@[simp] theorem State.setFree_status (s : State) (x : Nat) : (s.setFree x).status = s.status := rfl
@[simp] theorem State.setFree_regs (s : State) (x : Nat) : (s.setFree x).regs = s.regs := rfl
@[simp] theorem State.setFree_mirror (s : State) (x : Nat) : (s.setFree x).mirror = s.mirror := rfl
@[simp] theorem State.setFree_live (s : State) (x : Nat) : (s.setFree x).live = s.live := rfl
@[simp] theorem State.setFree_sup (s : State) (x : Nat) : (s.setFree x).sup = s.sup := rfl
@[simp] theorem State.setFree_xing (s : State) (x : Nat) : (s.setFree x).xing = s.xing := rfl
@[simp] theorem State.setFree_chans (s : State) (x : Nat) : (s.setFree x).chans = s.chans := rfl
@[simp] theorem State.setFree_banks (s : State) (x : Nat) : (s.setFree x).banks = s.banks := rfl
@[simp] theorem State.setFree_rot (s : State) (x : Nat) : (s.setFree x).rot = s.rot := rfl
@[simp] theorem State.setFree_seqs (s : State) (x : Nat) : (s.setFree x).seqs = s.seqs := rfl
@[simp] theorem State.setFree_timers (s : State) (x : Nat) : (s.setFree x).timers = s.timers := rfl
@[simp] theorem State.setFree_epoch (s : State) (x : Nat) : (s.setFree x).epoch = s.epoch := rfl
@[simp] theorem State.setFree_lim (s : State) (x : Nat) : (s.setFree x).lim = s.lim := rfl
@[simp] theorem State.setFree_trp (s : State) (x : Nat) : (s.setFree x).trp = s.trp := rfl
@[simp] theorem State.setFree_alm (s : State) (x : Nat) : (s.setFree x).alm = s.alm := rfl
@[simp] theorem State.setFree_mor (s : State) (x : Nat) : (s.setFree x).mor = s.mor := rfl
@[simp] theorem State.setFree_coreA (s : State) (x : Nat) : (s.setFree x).coreA = s.coreA := rfl
@[simp] theorem State.setFree_coreB (s : State) (x : Nat) : (s.setFree x).coreB = s.coreB := rfl
@[simp] theorem State.setFree_gate (s : State) (x : Nat) : (s.setFree x).gate = s.gate := rfl
@[simp] theorem State.setFree_dio (s : State) (x : Nat) : (s.setFree x).dio = s.dio := rfl
@[simp] theorem State.setFree_axes (s : State) (x : Nat) : (s.setFree x).axes = s.axes := rfl
@[simp] theorem State.setFree_pnl (s : State) (x : Nat) : (s.setFree x).pnl = s.pnl := rfl
@[simp] theorem State.setFree_rtc (s : State) (x : Nat) : (s.setFree x).rtc = s.rtc := rfl
@[simp] theorem State.setFree_ring (s : State) (x : Nat) : (s.setFree x).ring = s.ring := rfl
@[simp] theorem State.setFree_img (s : State) (x : Nat) : (s.setFree x).img = s.img := rfl
@[simp] theorem State.setFree_rwn (s : State) (x : Nat) : (s.setFree x).rwn = s.rwn := rfl
@[simp] theorem State.setFree_tap (s : State) (x : Nat) : (s.setFree x).tap = s.tap := rfl

/-! ### setEpoch -/

@[simp] theorem State.setEpoch_pending (s : State) (x : Time) : (s.setEpoch x).pending = s.pending := rfl
@[simp] theorem State.setEpoch_now (s : State) (x : Time) : (s.setEpoch x).now = s.now := rfl
@[simp] theorem State.setEpoch_free (s : State) (x : Time) : (s.setEpoch x).free = s.free := rfl
@[simp] theorem State.setEpoch_status (s : State) (x : Time) : (s.setEpoch x).status = s.status := rfl
@[simp] theorem State.setEpoch_regs (s : State) (x : Time) : (s.setEpoch x).regs = s.regs := rfl
@[simp] theorem State.setEpoch_mirror (s : State) (x : Time) : (s.setEpoch x).mirror = s.mirror := rfl
@[simp] theorem State.setEpoch_live (s : State) (x : Time) : (s.setEpoch x).live = s.live := rfl
@[simp] theorem State.setEpoch_sup (s : State) (x : Time) : (s.setEpoch x).sup = s.sup := rfl
@[simp] theorem State.setEpoch_xing (s : State) (x : Time) : (s.setEpoch x).xing = s.xing := rfl
@[simp] theorem State.setEpoch_chans (s : State) (x : Time) : (s.setEpoch x).chans = s.chans := rfl
@[simp] theorem State.setEpoch_banks (s : State) (x : Time) : (s.setEpoch x).banks = s.banks := rfl
@[simp] theorem State.setEpoch_rot (s : State) (x : Time) : (s.setEpoch x).rot = s.rot := rfl
@[simp] theorem State.setEpoch_seqs (s : State) (x : Time) : (s.setEpoch x).seqs = s.seqs := rfl
@[simp] theorem State.setEpoch_timers (s : State) (x : Time) : (s.setEpoch x).timers = s.timers := rfl
@[simp] theorem State.setEpoch_epoch (s : State) (x : Time) : (s.setEpoch x).epoch = x := rfl
@[simp] theorem State.setEpoch_lim (s : State) (x : Time) : (s.setEpoch x).lim = s.lim := rfl
@[simp] theorem State.setEpoch_trp (s : State) (x : Time) : (s.setEpoch x).trp = s.trp := rfl
@[simp] theorem State.setEpoch_alm (s : State) (x : Time) : (s.setEpoch x).alm = s.alm := rfl
@[simp] theorem State.setEpoch_mor (s : State) (x : Time) : (s.setEpoch x).mor = s.mor := rfl
@[simp] theorem State.setEpoch_coreA (s : State) (x : Time) : (s.setEpoch x).coreA = s.coreA := rfl
@[simp] theorem State.setEpoch_coreB (s : State) (x : Time) : (s.setEpoch x).coreB = s.coreB := rfl
@[simp] theorem State.setEpoch_gate (s : State) (x : Time) : (s.setEpoch x).gate = s.gate := rfl
@[simp] theorem State.setEpoch_dio (s : State) (x : Time) : (s.setEpoch x).dio = s.dio := rfl
@[simp] theorem State.setEpoch_axes (s : State) (x : Time) : (s.setEpoch x).axes = s.axes := rfl
@[simp] theorem State.setEpoch_pnl (s : State) (x : Time) : (s.setEpoch x).pnl = s.pnl := rfl
@[simp] theorem State.setEpoch_rtc (s : State) (x : Time) : (s.setEpoch x).rtc = s.rtc := rfl
@[simp] theorem State.setEpoch_ring (s : State) (x : Time) : (s.setEpoch x).ring = s.ring := rfl
@[simp] theorem State.setEpoch_img (s : State) (x : Time) : (s.setEpoch x).img = s.img := rfl
@[simp] theorem State.setEpoch_rwn (s : State) (x : Time) : (s.setEpoch x).rwn = s.rwn := rfl
@[simp] theorem State.setEpoch_tap (s : State) (x : Time) : (s.setEpoch x).tap = s.tap := rfl

/-! ### setRegs -/

@[simp] theorem State.setRegs_pending (s : State) (x : RegFile) : (s.setRegs x).pending = s.pending := rfl
@[simp] theorem State.setRegs_now (s : State) (x : RegFile) : (s.setRegs x).now = s.now := rfl
@[simp] theorem State.setRegs_free (s : State) (x : RegFile) : (s.setRegs x).free = s.free := rfl
@[simp] theorem State.setRegs_status (s : State) (x : RegFile) : (s.setRegs x).status = s.status := rfl
@[simp] theorem State.setRegs_regs (s : State) (x : RegFile) : (s.setRegs x).regs = x := rfl
@[simp] theorem State.setRegs_mirror (s : State) (x : RegFile) : (s.setRegs x).mirror = s.mirror := rfl
@[simp] theorem State.setRegs_live (s : State) (x : RegFile) : (s.setRegs x).live = s.live := rfl
@[simp] theorem State.setRegs_sup (s : State) (x : RegFile) : (s.setRegs x).sup = s.sup := rfl
@[simp] theorem State.setRegs_xing (s : State) (x : RegFile) : (s.setRegs x).xing = s.xing := rfl
@[simp] theorem State.setRegs_chans (s : State) (x : RegFile) : (s.setRegs x).chans = s.chans := rfl
@[simp] theorem State.setRegs_banks (s : State) (x : RegFile) : (s.setRegs x).banks = s.banks := rfl
@[simp] theorem State.setRegs_rot (s : State) (x : RegFile) : (s.setRegs x).rot = s.rot := rfl
@[simp] theorem State.setRegs_seqs (s : State) (x : RegFile) : (s.setRegs x).seqs = s.seqs := rfl
@[simp] theorem State.setRegs_timers (s : State) (x : RegFile) : (s.setRegs x).timers = s.timers := rfl
@[simp] theorem State.setRegs_epoch (s : State) (x : RegFile) : (s.setRegs x).epoch = s.epoch := rfl
@[simp] theorem State.setRegs_lim (s : State) (x : RegFile) : (s.setRegs x).lim = s.lim := rfl
@[simp] theorem State.setRegs_trp (s : State) (x : RegFile) : (s.setRegs x).trp = s.trp := rfl
@[simp] theorem State.setRegs_alm (s : State) (x : RegFile) : (s.setRegs x).alm = s.alm := rfl
@[simp] theorem State.setRegs_mor (s : State) (x : RegFile) : (s.setRegs x).mor = s.mor := rfl
@[simp] theorem State.setRegs_coreA (s : State) (x : RegFile) : (s.setRegs x).coreA = s.coreA := rfl
@[simp] theorem State.setRegs_coreB (s : State) (x : RegFile) : (s.setRegs x).coreB = s.coreB := rfl
@[simp] theorem State.setRegs_gate (s : State) (x : RegFile) : (s.setRegs x).gate = s.gate := rfl
@[simp] theorem State.setRegs_dio (s : State) (x : RegFile) : (s.setRegs x).dio = s.dio := rfl
@[simp] theorem State.setRegs_axes (s : State) (x : RegFile) : (s.setRegs x).axes = s.axes := rfl
@[simp] theorem State.setRegs_pnl (s : State) (x : RegFile) : (s.setRegs x).pnl = s.pnl := rfl
@[simp] theorem State.setRegs_rtc (s : State) (x : RegFile) : (s.setRegs x).rtc = s.rtc := rfl
@[simp] theorem State.setRegs_ring (s : State) (x : RegFile) : (s.setRegs x).ring = s.ring := rfl
@[simp] theorem State.setRegs_img (s : State) (x : RegFile) : (s.setRegs x).img = s.img := rfl
@[simp] theorem State.setRegs_rwn (s : State) (x : RegFile) : (s.setRegs x).rwn = s.rwn := rfl
@[simp] theorem State.setRegs_tap (s : State) (x : RegFile) : (s.setRegs x).tap = s.tap := rfl

/-! ### setMirror -/

@[simp] theorem State.setMirror_pending (s : State) (x : RegFile) : (s.setMirror x).pending = s.pending := rfl
@[simp] theorem State.setMirror_now (s : State) (x : RegFile) : (s.setMirror x).now = s.now := rfl
@[simp] theorem State.setMirror_free (s : State) (x : RegFile) : (s.setMirror x).free = s.free := rfl
@[simp] theorem State.setMirror_status (s : State) (x : RegFile) : (s.setMirror x).status = s.status := rfl
@[simp] theorem State.setMirror_regs (s : State) (x : RegFile) : (s.setMirror x).regs = s.regs := rfl
@[simp] theorem State.setMirror_mirror (s : State) (x : RegFile) : (s.setMirror x).mirror = x := rfl
@[simp] theorem State.setMirror_live (s : State) (x : RegFile) : (s.setMirror x).live = s.live := rfl
@[simp] theorem State.setMirror_sup (s : State) (x : RegFile) : (s.setMirror x).sup = s.sup := rfl
@[simp] theorem State.setMirror_xing (s : State) (x : RegFile) : (s.setMirror x).xing = s.xing := rfl
@[simp] theorem State.setMirror_chans (s : State) (x : RegFile) : (s.setMirror x).chans = s.chans := rfl
@[simp] theorem State.setMirror_banks (s : State) (x : RegFile) : (s.setMirror x).banks = s.banks := rfl
@[simp] theorem State.setMirror_rot (s : State) (x : RegFile) : (s.setMirror x).rot = s.rot := rfl
@[simp] theorem State.setMirror_seqs (s : State) (x : RegFile) : (s.setMirror x).seqs = s.seqs := rfl
@[simp] theorem State.setMirror_timers (s : State) (x : RegFile) : (s.setMirror x).timers = s.timers := rfl
@[simp] theorem State.setMirror_epoch (s : State) (x : RegFile) : (s.setMirror x).epoch = s.epoch := rfl
@[simp] theorem State.setMirror_lim (s : State) (x : RegFile) : (s.setMirror x).lim = s.lim := rfl
@[simp] theorem State.setMirror_trp (s : State) (x : RegFile) : (s.setMirror x).trp = s.trp := rfl
@[simp] theorem State.setMirror_alm (s : State) (x : RegFile) : (s.setMirror x).alm = s.alm := rfl
@[simp] theorem State.setMirror_mor (s : State) (x : RegFile) : (s.setMirror x).mor = s.mor := rfl
@[simp] theorem State.setMirror_coreA (s : State) (x : RegFile) : (s.setMirror x).coreA = s.coreA := rfl
@[simp] theorem State.setMirror_coreB (s : State) (x : RegFile) : (s.setMirror x).coreB = s.coreB := rfl
@[simp] theorem State.setMirror_gate (s : State) (x : RegFile) : (s.setMirror x).gate = s.gate := rfl
@[simp] theorem State.setMirror_dio (s : State) (x : RegFile) : (s.setMirror x).dio = s.dio := rfl
@[simp] theorem State.setMirror_axes (s : State) (x : RegFile) : (s.setMirror x).axes = s.axes := rfl
@[simp] theorem State.setMirror_pnl (s : State) (x : RegFile) : (s.setMirror x).pnl = s.pnl := rfl
@[simp] theorem State.setMirror_rtc (s : State) (x : RegFile) : (s.setMirror x).rtc = s.rtc := rfl
@[simp] theorem State.setMirror_ring (s : State) (x : RegFile) : (s.setMirror x).ring = s.ring := rfl
@[simp] theorem State.setMirror_img (s : State) (x : RegFile) : (s.setMirror x).img = s.img := rfl
@[simp] theorem State.setMirror_rwn (s : State) (x : RegFile) : (s.setMirror x).rwn = s.rwn := rfl
@[simp] theorem State.setMirror_tap (s : State) (x : RegFile) : (s.setMirror x).tap = s.tap := rfl

/-! ### setNow -/

@[simp] theorem State.setNow_pending (s : State) (x : Time) : (s.setNow x).pending = s.pending := rfl
@[simp] theorem State.setNow_now (s : State) (x : Time) : (s.setNow x).now = x := rfl
@[simp] theorem State.setNow_free (s : State) (x : Time) : (s.setNow x).free = s.free := rfl
@[simp] theorem State.setNow_status (s : State) (x : Time) : (s.setNow x).status = s.status := rfl
@[simp] theorem State.setNow_regs (s : State) (x : Time) : (s.setNow x).regs = s.regs := rfl
@[simp] theorem State.setNow_mirror (s : State) (x : Time) : (s.setNow x).mirror = s.mirror := rfl
@[simp] theorem State.setNow_live (s : State) (x : Time) : (s.setNow x).live = s.live := rfl
@[simp] theorem State.setNow_sup (s : State) (x : Time) : (s.setNow x).sup = s.sup := rfl
@[simp] theorem State.setNow_xing (s : State) (x : Time) : (s.setNow x).xing = s.xing := rfl
@[simp] theorem State.setNow_chans (s : State) (x : Time) : (s.setNow x).chans = s.chans := rfl
@[simp] theorem State.setNow_banks (s : State) (x : Time) : (s.setNow x).banks = s.banks := rfl
@[simp] theorem State.setNow_rot (s : State) (x : Time) : (s.setNow x).rot = s.rot := rfl
@[simp] theorem State.setNow_seqs (s : State) (x : Time) : (s.setNow x).seqs = s.seqs := rfl
@[simp] theorem State.setNow_timers (s : State) (x : Time) : (s.setNow x).timers = s.timers := rfl
@[simp] theorem State.setNow_epoch (s : State) (x : Time) : (s.setNow x).epoch = s.epoch := rfl
@[simp] theorem State.setNow_lim (s : State) (x : Time) : (s.setNow x).lim = s.lim := rfl
@[simp] theorem State.setNow_trp (s : State) (x : Time) : (s.setNow x).trp = s.trp := rfl
@[simp] theorem State.setNow_alm (s : State) (x : Time) : (s.setNow x).alm = s.alm := rfl
@[simp] theorem State.setNow_mor (s : State) (x : Time) : (s.setNow x).mor = s.mor := rfl
@[simp] theorem State.setNow_coreA (s : State) (x : Time) : (s.setNow x).coreA = s.coreA := rfl
@[simp] theorem State.setNow_coreB (s : State) (x : Time) : (s.setNow x).coreB = s.coreB := rfl
@[simp] theorem State.setNow_gate (s : State) (x : Time) : (s.setNow x).gate = s.gate := rfl
@[simp] theorem State.setNow_dio (s : State) (x : Time) : (s.setNow x).dio = s.dio := rfl
@[simp] theorem State.setNow_axes (s : State) (x : Time) : (s.setNow x).axes = s.axes := rfl
@[simp] theorem State.setNow_pnl (s : State) (x : Time) : (s.setNow x).pnl = s.pnl := rfl
@[simp] theorem State.setNow_rtc (s : State) (x : Time) : (s.setNow x).rtc = s.rtc := rfl
@[simp] theorem State.setNow_ring (s : State) (x : Time) : (s.setNow x).ring = s.ring := rfl
@[simp] theorem State.setNow_img (s : State) (x : Time) : (s.setNow x).img = s.img := rfl
@[simp] theorem State.setNow_rwn (s : State) (x : Time) : (s.setNow x).rwn = s.rwn := rfl
@[simp] theorem State.setNow_tap (s : State) (x : Time) : (s.setNow x).tap = s.tap := rfl

/-! ### answer -/

@[simp] theorem State.answer_pending (s : State) (x : Status) : (s.answer x).pending = s.pending := rfl
@[simp] theorem State.answer_now (s : State) (x : Status) : (s.answer x).now = s.now := rfl
@[simp] theorem State.answer_free (s : State) (x : Status) : (s.answer x).free = s.free := rfl
@[simp] theorem State.answer_status (s : State) (x : Status) : (s.answer x).status = x := rfl
@[simp] theorem State.answer_regs (s : State) (x : Status) : (s.answer x).regs = s.regs := rfl
@[simp] theorem State.answer_mirror (s : State) (x : Status) : (s.answer x).mirror = s.mirror := rfl
@[simp] theorem State.answer_live (s : State) (x : Status) : (s.answer x).live = s.live := rfl
@[simp] theorem State.answer_sup (s : State) (x : Status) : (s.answer x).sup = s.sup := rfl
@[simp] theorem State.answer_xing (s : State) (x : Status) : (s.answer x).xing = s.xing := rfl
@[simp] theorem State.answer_chans (s : State) (x : Status) : (s.answer x).chans = s.chans := rfl
@[simp] theorem State.answer_banks (s : State) (x : Status) : (s.answer x).banks = s.banks := rfl
@[simp] theorem State.answer_rot (s : State) (x : Status) : (s.answer x).rot = s.rot := rfl
@[simp] theorem State.answer_seqs (s : State) (x : Status) : (s.answer x).seqs = s.seqs := rfl
@[simp] theorem State.answer_timers (s : State) (x : Status) : (s.answer x).timers = s.timers := rfl
@[simp] theorem State.answer_epoch (s : State) (x : Status) : (s.answer x).epoch = s.epoch := rfl
@[simp] theorem State.answer_lim (s : State) (x : Status) : (s.answer x).lim = s.lim := rfl
@[simp] theorem State.answer_trp (s : State) (x : Status) : (s.answer x).trp = s.trp := rfl
@[simp] theorem State.answer_alm (s : State) (x : Status) : (s.answer x).alm = s.alm := rfl
@[simp] theorem State.answer_mor (s : State) (x : Status) : (s.answer x).mor = s.mor := rfl
@[simp] theorem State.answer_coreA (s : State) (x : Status) : (s.answer x).coreA = s.coreA := rfl
@[simp] theorem State.answer_coreB (s : State) (x : Status) : (s.answer x).coreB = s.coreB := rfl
@[simp] theorem State.answer_gate (s : State) (x : Status) : (s.answer x).gate = s.gate := rfl
@[simp] theorem State.answer_dio (s : State) (x : Status) : (s.answer x).dio = s.dio := rfl
@[simp] theorem State.answer_axes (s : State) (x : Status) : (s.answer x).axes = s.axes := rfl
@[simp] theorem State.answer_pnl (s : State) (x : Status) : (s.answer x).pnl = s.pnl := rfl
@[simp] theorem State.answer_rtc (s : State) (x : Status) : (s.answer x).rtc = s.rtc := rfl
@[simp] theorem State.answer_ring (s : State) (x : Status) : (s.answer x).ring = s.ring := rfl
@[simp] theorem State.answer_img (s : State) (x : Status) : (s.answer x).img = s.img := rfl
@[simp] theorem State.answer_rwn (s : State) (x : Status) : (s.answer x).rwn = s.rwn := rfl
@[simp] theorem State.answer_tap (s : State) (x : Status) : (s.answer x).tap = s.tap := rfl

/-! ### wr -/

@[simp] theorem State.wr_pending (s : State) (a : Nat) (v : Word) : (s.wr a v).pending = s.pending := rfl
@[simp] theorem State.wr_now (s : State) (a : Nat) (v : Word) : (s.wr a v).now = s.now := rfl
@[simp] theorem State.wr_free (s : State) (a : Nat) (v : Word) : (s.wr a v).free = s.free := rfl
@[simp] theorem State.wr_status (s : State) (a : Nat) (v : Word) : (s.wr a v).status = s.status := rfl
theorem State.wr_regs (s : State) (a : Nat) (v : Word) : (s.wr a v).regs = tabSet resetWord s.regs a v := rfl
@[simp] theorem State.wr_mirror (s : State) (a : Nat) (v : Word) : (s.wr a v).mirror = s.mirror := rfl
@[simp] theorem State.wr_live (s : State) (a : Nat) (v : Word) : (s.wr a v).live = s.live := rfl
@[simp] theorem State.wr_sup (s : State) (a : Nat) (v : Word) : (s.wr a v).sup = s.sup := rfl
@[simp] theorem State.wr_xing (s : State) (a : Nat) (v : Word) : (s.wr a v).xing = s.xing := rfl
@[simp] theorem State.wr_chans (s : State) (a : Nat) (v : Word) : (s.wr a v).chans = s.chans := rfl
@[simp] theorem State.wr_banks (s : State) (a : Nat) (v : Word) : (s.wr a v).banks = s.banks := rfl
@[simp] theorem State.wr_rot (s : State) (a : Nat) (v : Word) : (s.wr a v).rot = s.rot := rfl
@[simp] theorem State.wr_seqs (s : State) (a : Nat) (v : Word) : (s.wr a v).seqs = s.seqs := rfl
@[simp] theorem State.wr_timers (s : State) (a : Nat) (v : Word) : (s.wr a v).timers = s.timers := rfl
@[simp] theorem State.wr_epoch (s : State) (a : Nat) (v : Word) : (s.wr a v).epoch = s.epoch := rfl
@[simp] theorem State.wr_lim (s : State) (a : Nat) (v : Word) : (s.wr a v).lim = s.lim := rfl
@[simp] theorem State.wr_trp (s : State) (a : Nat) (v : Word) : (s.wr a v).trp = s.trp := rfl
@[simp] theorem State.wr_alm (s : State) (a : Nat) (v : Word) : (s.wr a v).alm = s.alm := rfl
@[simp] theorem State.wr_mor (s : State) (a : Nat) (v : Word) : (s.wr a v).mor = s.mor := rfl
@[simp] theorem State.wr_coreA (s : State) (a : Nat) (v : Word) : (s.wr a v).coreA = s.coreA := rfl
@[simp] theorem State.wr_coreB (s : State) (a : Nat) (v : Word) : (s.wr a v).coreB = s.coreB := rfl
@[simp] theorem State.wr_gate (s : State) (a : Nat) (v : Word) : (s.wr a v).gate = s.gate := rfl
@[simp] theorem State.wr_dio (s : State) (a : Nat) (v : Word) : (s.wr a v).dio = s.dio := rfl
@[simp] theorem State.wr_axes (s : State) (a : Nat) (v : Word) : (s.wr a v).axes = s.axes := rfl
@[simp] theorem State.wr_pnl (s : State) (a : Nat) (v : Word) : (s.wr a v).pnl = s.pnl := rfl
@[simp] theorem State.wr_rtc (s : State) (a : Nat) (v : Word) : (s.wr a v).rtc = s.rtc := rfl
@[simp] theorem State.wr_ring (s : State) (a : Nat) (v : Word) : (s.wr a v).ring = s.ring := rfl
@[simp] theorem State.wr_img (s : State) (a : Nat) (v : Word) : (s.wr a v).img = s.img := rfl
@[simp] theorem State.wr_rwn (s : State) (a : Nat) (v : Word) : (s.wr a v).rwn = s.rwn := rfl
@[simp] theorem State.wr_tap (s : State) (a : Nat) (v : Word) : (s.wr a v).tap = s.tap := rfl

/-! ### wrAll -/

@[simp] theorem State.wrAll_pending (s : State) (l : List (Nat × Word)) : (s.wrAll l).pending = s.pending := rfl
@[simp] theorem State.wrAll_now (s : State) (l : List (Nat × Word)) : (s.wrAll l).now = s.now := rfl
@[simp] theorem State.wrAll_free (s : State) (l : List (Nat × Word)) : (s.wrAll l).free = s.free := rfl
@[simp] theorem State.wrAll_status (s : State) (l : List (Nat × Word)) : (s.wrAll l).status = s.status := rfl
theorem State.wrAll_regs (s : State) (l : List (Nat × Word)) : (s.wrAll l).regs = tabSetAll resetWord s.regs l := rfl
@[simp] theorem State.wrAll_mirror (s : State) (l : List (Nat × Word)) : (s.wrAll l).mirror = s.mirror := rfl
@[simp] theorem State.wrAll_live (s : State) (l : List (Nat × Word)) : (s.wrAll l).live = s.live := rfl
@[simp] theorem State.wrAll_sup (s : State) (l : List (Nat × Word)) : (s.wrAll l).sup = s.sup := rfl
@[simp] theorem State.wrAll_xing (s : State) (l : List (Nat × Word)) : (s.wrAll l).xing = s.xing := rfl
@[simp] theorem State.wrAll_chans (s : State) (l : List (Nat × Word)) : (s.wrAll l).chans = s.chans := rfl
@[simp] theorem State.wrAll_banks (s : State) (l : List (Nat × Word)) : (s.wrAll l).banks = s.banks := rfl
@[simp] theorem State.wrAll_rot (s : State) (l : List (Nat × Word)) : (s.wrAll l).rot = s.rot := rfl
@[simp] theorem State.wrAll_seqs (s : State) (l : List (Nat × Word)) : (s.wrAll l).seqs = s.seqs := rfl
@[simp] theorem State.wrAll_timers (s : State) (l : List (Nat × Word)) : (s.wrAll l).timers = s.timers := rfl
@[simp] theorem State.wrAll_epoch (s : State) (l : List (Nat × Word)) : (s.wrAll l).epoch = s.epoch := rfl
@[simp] theorem State.wrAll_lim (s : State) (l : List (Nat × Word)) : (s.wrAll l).lim = s.lim := rfl
@[simp] theorem State.wrAll_trp (s : State) (l : List (Nat × Word)) : (s.wrAll l).trp = s.trp := rfl
@[simp] theorem State.wrAll_alm (s : State) (l : List (Nat × Word)) : (s.wrAll l).alm = s.alm := rfl
@[simp] theorem State.wrAll_mor (s : State) (l : List (Nat × Word)) : (s.wrAll l).mor = s.mor := rfl
@[simp] theorem State.wrAll_coreA (s : State) (l : List (Nat × Word)) : (s.wrAll l).coreA = s.coreA := rfl
@[simp] theorem State.wrAll_coreB (s : State) (l : List (Nat × Word)) : (s.wrAll l).coreB = s.coreB := rfl
@[simp] theorem State.wrAll_gate (s : State) (l : List (Nat × Word)) : (s.wrAll l).gate = s.gate := rfl
@[simp] theorem State.wrAll_dio (s : State) (l : List (Nat × Word)) : (s.wrAll l).dio = s.dio := rfl
@[simp] theorem State.wrAll_axes (s : State) (l : List (Nat × Word)) : (s.wrAll l).axes = s.axes := rfl
@[simp] theorem State.wrAll_pnl (s : State) (l : List (Nat × Word)) : (s.wrAll l).pnl = s.pnl := rfl
@[simp] theorem State.wrAll_rtc (s : State) (l : List (Nat × Word)) : (s.wrAll l).rtc = s.rtc := rfl
@[simp] theorem State.wrAll_ring (s : State) (l : List (Nat × Word)) : (s.wrAll l).ring = s.ring := rfl
@[simp] theorem State.wrAll_img (s : State) (l : List (Nat × Word)) : (s.wrAll l).img = s.img := rfl
@[simp] theorem State.wrAll_rwn (s : State) (l : List (Nat × Word)) : (s.wrAll l).rwn = s.rwn := rfl
@[simp] theorem State.wrAll_tap (s : State) (l : List (Nat × Word)) : (s.wrAll l).tap = s.tap := rfl

/-! ### setFld -/

@[simp] theorem State.setFld_pending (s : State) (a : Nat) (f : Fld) (v : Nat) : (s.setFld a f v).pending = s.pending := rfl
@[simp] theorem State.setFld_now (s : State) (a : Nat) (f : Fld) (v : Nat) : (s.setFld a f v).now = s.now := rfl
@[simp] theorem State.setFld_free (s : State) (a : Nat) (f : Fld) (v : Nat) : (s.setFld a f v).free = s.free := rfl
@[simp] theorem State.setFld_status (s : State) (a : Nat) (f : Fld) (v : Nat) : (s.setFld a f v).status = s.status := rfl
theorem State.setFld_regs (s : State) (a : Nat) (f : Fld) (v : Nat) : (s.setFld a f v).regs = tabSet resetWord s.regs a (putFld f (s.rd a) v) := rfl
@[simp] theorem State.setFld_mirror (s : State) (a : Nat) (f : Fld) (v : Nat) : (s.setFld a f v).mirror = s.mirror := rfl
@[simp] theorem State.setFld_live (s : State) (a : Nat) (f : Fld) (v : Nat) : (s.setFld a f v).live = s.live := rfl
@[simp] theorem State.setFld_sup (s : State) (a : Nat) (f : Fld) (v : Nat) : (s.setFld a f v).sup = s.sup := rfl
@[simp] theorem State.setFld_xing (s : State) (a : Nat) (f : Fld) (v : Nat) : (s.setFld a f v).xing = s.xing := rfl
@[simp] theorem State.setFld_chans (s : State) (a : Nat) (f : Fld) (v : Nat) : (s.setFld a f v).chans = s.chans := rfl
@[simp] theorem State.setFld_banks (s : State) (a : Nat) (f : Fld) (v : Nat) : (s.setFld a f v).banks = s.banks := rfl
@[simp] theorem State.setFld_rot (s : State) (a : Nat) (f : Fld) (v : Nat) : (s.setFld a f v).rot = s.rot := rfl
@[simp] theorem State.setFld_seqs (s : State) (a : Nat) (f : Fld) (v : Nat) : (s.setFld a f v).seqs = s.seqs := rfl
@[simp] theorem State.setFld_timers (s : State) (a : Nat) (f : Fld) (v : Nat) : (s.setFld a f v).timers = s.timers := rfl
@[simp] theorem State.setFld_epoch (s : State) (a : Nat) (f : Fld) (v : Nat) : (s.setFld a f v).epoch = s.epoch := rfl
@[simp] theorem State.setFld_lim (s : State) (a : Nat) (f : Fld) (v : Nat) : (s.setFld a f v).lim = s.lim := rfl
@[simp] theorem State.setFld_trp (s : State) (a : Nat) (f : Fld) (v : Nat) : (s.setFld a f v).trp = s.trp := rfl
@[simp] theorem State.setFld_alm (s : State) (a : Nat) (f : Fld) (v : Nat) : (s.setFld a f v).alm = s.alm := rfl
@[simp] theorem State.setFld_mor (s : State) (a : Nat) (f : Fld) (v : Nat) : (s.setFld a f v).mor = s.mor := rfl
@[simp] theorem State.setFld_coreA (s : State) (a : Nat) (f : Fld) (v : Nat) : (s.setFld a f v).coreA = s.coreA := rfl
@[simp] theorem State.setFld_coreB (s : State) (a : Nat) (f : Fld) (v : Nat) : (s.setFld a f v).coreB = s.coreB := rfl
@[simp] theorem State.setFld_gate (s : State) (a : Nat) (f : Fld) (v : Nat) : (s.setFld a f v).gate = s.gate := rfl
@[simp] theorem State.setFld_dio (s : State) (a : Nat) (f : Fld) (v : Nat) : (s.setFld a f v).dio = s.dio := rfl
@[simp] theorem State.setFld_axes (s : State) (a : Nat) (f : Fld) (v : Nat) : (s.setFld a f v).axes = s.axes := rfl
@[simp] theorem State.setFld_pnl (s : State) (a : Nat) (f : Fld) (v : Nat) : (s.setFld a f v).pnl = s.pnl := rfl
@[simp] theorem State.setFld_rtc (s : State) (a : Nat) (f : Fld) (v : Nat) : (s.setFld a f v).rtc = s.rtc := rfl
@[simp] theorem State.setFld_ring (s : State) (a : Nat) (f : Fld) (v : Nat) : (s.setFld a f v).ring = s.ring := rfl
@[simp] theorem State.setFld_img (s : State) (a : Nat) (f : Fld) (v : Nat) : (s.setFld a f v).img = s.img := rfl
@[simp] theorem State.setFld_rwn (s : State) (a : Nat) (f : Fld) (v : Nat) : (s.setFld a f v).rwn = s.rwn := rfl
@[simp] theorem State.setFld_tap (s : State) (a : Nat) (f : Fld) (v : Nat) : (s.setFld a f v).tap = s.tap := rfl

/-! ### setFlag -/

@[simp] theorem State.setFlag_pending (s : State) (a : Nat) (f : Fld) (b : Bool) : (s.setFlag a f b).pending = s.pending := rfl
@[simp] theorem State.setFlag_now (s : State) (a : Nat) (f : Fld) (b : Bool) : (s.setFlag a f b).now = s.now := rfl
@[simp] theorem State.setFlag_free (s : State) (a : Nat) (f : Fld) (b : Bool) : (s.setFlag a f b).free = s.free := rfl
@[simp] theorem State.setFlag_status (s : State) (a : Nat) (f : Fld) (b : Bool) : (s.setFlag a f b).status = s.status := rfl
theorem State.setFlag_regs (s : State) (a : Nat) (f : Fld) (b : Bool) : (s.setFlag a f b).regs = tabSet resetWord s.regs a (putFld f (s.rd a) b.toNat) := rfl
@[simp] theorem State.setFlag_mirror (s : State) (a : Nat) (f : Fld) (b : Bool) : (s.setFlag a f b).mirror = s.mirror := rfl
@[simp] theorem State.setFlag_live (s : State) (a : Nat) (f : Fld) (b : Bool) : (s.setFlag a f b).live = s.live := rfl
@[simp] theorem State.setFlag_sup (s : State) (a : Nat) (f : Fld) (b : Bool) : (s.setFlag a f b).sup = s.sup := rfl
@[simp] theorem State.setFlag_xing (s : State) (a : Nat) (f : Fld) (b : Bool) : (s.setFlag a f b).xing = s.xing := rfl
@[simp] theorem State.setFlag_chans (s : State) (a : Nat) (f : Fld) (b : Bool) : (s.setFlag a f b).chans = s.chans := rfl
@[simp] theorem State.setFlag_banks (s : State) (a : Nat) (f : Fld) (b : Bool) : (s.setFlag a f b).banks = s.banks := rfl
@[simp] theorem State.setFlag_rot (s : State) (a : Nat) (f : Fld) (b : Bool) : (s.setFlag a f b).rot = s.rot := rfl
@[simp] theorem State.setFlag_seqs (s : State) (a : Nat) (f : Fld) (b : Bool) : (s.setFlag a f b).seqs = s.seqs := rfl
@[simp] theorem State.setFlag_timers (s : State) (a : Nat) (f : Fld) (b : Bool) : (s.setFlag a f b).timers = s.timers := rfl
@[simp] theorem State.setFlag_epoch (s : State) (a : Nat) (f : Fld) (b : Bool) : (s.setFlag a f b).epoch = s.epoch := rfl
@[simp] theorem State.setFlag_lim (s : State) (a : Nat) (f : Fld) (b : Bool) : (s.setFlag a f b).lim = s.lim := rfl
@[simp] theorem State.setFlag_trp (s : State) (a : Nat) (f : Fld) (b : Bool) : (s.setFlag a f b).trp = s.trp := rfl
@[simp] theorem State.setFlag_alm (s : State) (a : Nat) (f : Fld) (b : Bool) : (s.setFlag a f b).alm = s.alm := rfl
@[simp] theorem State.setFlag_mor (s : State) (a : Nat) (f : Fld) (b : Bool) : (s.setFlag a f b).mor = s.mor := rfl
@[simp] theorem State.setFlag_coreA (s : State) (a : Nat) (f : Fld) (b : Bool) : (s.setFlag a f b).coreA = s.coreA := rfl
@[simp] theorem State.setFlag_coreB (s : State) (a : Nat) (f : Fld) (b : Bool) : (s.setFlag a f b).coreB = s.coreB := rfl
@[simp] theorem State.setFlag_gate (s : State) (a : Nat) (f : Fld) (b : Bool) : (s.setFlag a f b).gate = s.gate := rfl
@[simp] theorem State.setFlag_dio (s : State) (a : Nat) (f : Fld) (b : Bool) : (s.setFlag a f b).dio = s.dio := rfl
@[simp] theorem State.setFlag_axes (s : State) (a : Nat) (f : Fld) (b : Bool) : (s.setFlag a f b).axes = s.axes := rfl
@[simp] theorem State.setFlag_pnl (s : State) (a : Nat) (f : Fld) (b : Bool) : (s.setFlag a f b).pnl = s.pnl := rfl
@[simp] theorem State.setFlag_rtc (s : State) (a : Nat) (f : Fld) (b : Bool) : (s.setFlag a f b).rtc = s.rtc := rfl
@[simp] theorem State.setFlag_ring (s : State) (a : Nat) (f : Fld) (b : Bool) : (s.setFlag a f b).ring = s.ring := rfl
@[simp] theorem State.setFlag_img (s : State) (a : Nat) (f : Fld) (b : Bool) : (s.setFlag a f b).img = s.img := rfl
@[simp] theorem State.setFlag_rwn (s : State) (a : Nat) (f : Fld) (b : Bool) : (s.setFlag a f b).rwn = s.rwn := rfl
@[simp] theorem State.setFlag_tap (s : State) (a : Nat) (f : Fld) (b : Bool) : (s.setFlag a f b).tap = s.tap := rfl

/-! ### atTime -/

@[simp] theorem State.atTime_pending (s : State) (t : Time) : (s.atTime t).pending = s.pending := rfl
theorem State.atTime_now (s : State) (t : Time) : (s.atTime t).now = if s.now < t then t else s.now := rfl
@[simp] theorem State.atTime_free (s : State) (t : Time) : (s.atTime t).free = s.free := rfl
@[simp] theorem State.atTime_status (s : State) (t : Time) : (s.atTime t).status = s.status := rfl
@[simp] theorem State.atTime_regs (s : State) (t : Time) : (s.atTime t).regs = s.regs := rfl
@[simp] theorem State.atTime_mirror (s : State) (t : Time) : (s.atTime t).mirror = s.mirror := rfl
@[simp] theorem State.atTime_live (s : State) (t : Time) : (s.atTime t).live = s.live := rfl
@[simp] theorem State.atTime_sup (s : State) (t : Time) : (s.atTime t).sup = s.sup := rfl
@[simp] theorem State.atTime_xing (s : State) (t : Time) : (s.atTime t).xing = s.xing := rfl
@[simp] theorem State.atTime_chans (s : State) (t : Time) : (s.atTime t).chans = s.chans := rfl
@[simp] theorem State.atTime_banks (s : State) (t : Time) : (s.atTime t).banks = s.banks := rfl
@[simp] theorem State.atTime_rot (s : State) (t : Time) : (s.atTime t).rot = s.rot := rfl
@[simp] theorem State.atTime_seqs (s : State) (t : Time) : (s.atTime t).seqs = s.seqs := rfl
@[simp] theorem State.atTime_timers (s : State) (t : Time) : (s.atTime t).timers = s.timers := rfl
@[simp] theorem State.atTime_epoch (s : State) (t : Time) : (s.atTime t).epoch = s.epoch := rfl
@[simp] theorem State.atTime_lim (s : State) (t : Time) : (s.atTime t).lim = s.lim := rfl
@[simp] theorem State.atTime_trp (s : State) (t : Time) : (s.atTime t).trp = s.trp := rfl
@[simp] theorem State.atTime_alm (s : State) (t : Time) : (s.atTime t).alm = s.alm := rfl
@[simp] theorem State.atTime_mor (s : State) (t : Time) : (s.atTime t).mor = s.mor := rfl
@[simp] theorem State.atTime_coreA (s : State) (t : Time) : (s.atTime t).coreA = s.coreA := rfl
@[simp] theorem State.atTime_coreB (s : State) (t : Time) : (s.atTime t).coreB = s.coreB := rfl
@[simp] theorem State.atTime_gate (s : State) (t : Time) : (s.atTime t).gate = s.gate := rfl
@[simp] theorem State.atTime_dio (s : State) (t : Time) : (s.atTime t).dio = s.dio := rfl
@[simp] theorem State.atTime_axes (s : State) (t : Time) : (s.atTime t).axes = s.axes := rfl
@[simp] theorem State.atTime_pnl (s : State) (t : Time) : (s.atTime t).pnl = s.pnl := rfl
@[simp] theorem State.atTime_rtc (s : State) (t : Time) : (s.atTime t).rtc = s.rtc := rfl
@[simp] theorem State.atTime_ring (s : State) (t : Time) : (s.atTime t).ring = s.ring := rfl
@[simp] theorem State.atTime_img (s : State) (t : Time) : (s.atTime t).img = s.img := rfl
@[simp] theorem State.atTime_rwn (s : State) (t : Time) : (s.atTime t).rwn = s.rwn := rfl
@[simp] theorem State.atTime_tap (s : State) (t : Time) : (s.atTime t).tap = s.tap := rfl

/-! ### setSample -/

@[simp] theorem State.setSample_pending (s : State) (ch : Nat) (w : Word) : (s.setSample ch w).pending = s.pending := rfl
@[simp] theorem State.setSample_now (s : State) (ch : Nat) (w : Word) : (s.setSample ch w).now = s.now := rfl
@[simp] theorem State.setSample_free (s : State) (ch : Nat) (w : Word) : (s.setSample ch w).free = s.free := rfl
@[simp] theorem State.setSample_status (s : State) (ch : Nat) (w : Word) : (s.setSample ch w).status = s.status := rfl
@[simp] theorem State.setSample_regs (s : State) (ch : Nat) (w : Word) : (s.setSample ch w).regs = s.regs := rfl
@[simp] theorem State.setSample_mirror (s : State) (ch : Nat) (w : Word) : (s.setSample ch w).mirror = s.mirror := rfl
theorem State.setSample_live (s : State) (ch : Nat) (w : Word) : (s.setSample ch w).live = tabSet (dflt notScanned) s.live ch w := rfl
@[simp] theorem State.setSample_sup (s : State) (ch : Nat) (w : Word) : (s.setSample ch w).sup = s.sup := rfl
@[simp] theorem State.setSample_xing (s : State) (ch : Nat) (w : Word) : (s.setSample ch w).xing = s.xing := rfl
@[simp] theorem State.setSample_chans (s : State) (ch : Nat) (w : Word) : (s.setSample ch w).chans = s.chans := rfl
@[simp] theorem State.setSample_banks (s : State) (ch : Nat) (w : Word) : (s.setSample ch w).banks = s.banks := rfl
@[simp] theorem State.setSample_rot (s : State) (ch : Nat) (w : Word) : (s.setSample ch w).rot = s.rot := rfl
@[simp] theorem State.setSample_seqs (s : State) (ch : Nat) (w : Word) : (s.setSample ch w).seqs = s.seqs := rfl
@[simp] theorem State.setSample_timers (s : State) (ch : Nat) (w : Word) : (s.setSample ch w).timers = s.timers := rfl
@[simp] theorem State.setSample_epoch (s : State) (ch : Nat) (w : Word) : (s.setSample ch w).epoch = s.epoch := rfl
@[simp] theorem State.setSample_lim (s : State) (ch : Nat) (w : Word) : (s.setSample ch w).lim = s.lim := rfl
@[simp] theorem State.setSample_trp (s : State) (ch : Nat) (w : Word) : (s.setSample ch w).trp = s.trp := rfl
@[simp] theorem State.setSample_alm (s : State) (ch : Nat) (w : Word) : (s.setSample ch w).alm = s.alm := rfl
@[simp] theorem State.setSample_mor (s : State) (ch : Nat) (w : Word) : (s.setSample ch w).mor = s.mor := rfl
@[simp] theorem State.setSample_coreA (s : State) (ch : Nat) (w : Word) : (s.setSample ch w).coreA = s.coreA := rfl
@[simp] theorem State.setSample_coreB (s : State) (ch : Nat) (w : Word) : (s.setSample ch w).coreB = s.coreB := rfl
@[simp] theorem State.setSample_gate (s : State) (ch : Nat) (w : Word) : (s.setSample ch w).gate = s.gate := rfl
@[simp] theorem State.setSample_dio (s : State) (ch : Nat) (w : Word) : (s.setSample ch w).dio = s.dio := rfl
@[simp] theorem State.setSample_axes (s : State) (ch : Nat) (w : Word) : (s.setSample ch w).axes = s.axes := rfl
@[simp] theorem State.setSample_pnl (s : State) (ch : Nat) (w : Word) : (s.setSample ch w).pnl = s.pnl := rfl
@[simp] theorem State.setSample_rtc (s : State) (ch : Nat) (w : Word) : (s.setSample ch w).rtc = s.rtc := rfl
@[simp] theorem State.setSample_ring (s : State) (ch : Nat) (w : Word) : (s.setSample ch w).ring = s.ring := rfl
@[simp] theorem State.setSample_img (s : State) (ch : Nat) (w : Word) : (s.setSample ch w).img = s.img := rfl
@[simp] theorem State.setSample_rwn (s : State) (ch : Nat) (w : Word) : (s.setSample ch w).rwn = s.rwn := rfl
@[simp] theorem State.setSample_tap (s : State) (ch : Nat) (w : Word) : (s.setSample ch w).tap = s.tap := rfl

end Sys2Proof.Machine
end

