-- ==== Sys2Proof/Laws/Ops.lean ====
section
/-! SUPPORT. What the shared operations of `Machine/Ops.lean` do, said once each: reading a register after a write, a
field after a write of a field, a byte after a write of bytes, and what an answer, a clock and an event leave alone. -/

set_option Elab.async false

namespace Sys2Proof.Machine

/-! ### Registers -/

theorem State.rd_wr_same {s : State} {a : Nat} {v : Word} (h : s.sound = true) : (s.wr a v).rd a = v :=
  tabGet_tabSet_same (State.sound.regs h)

theorem State.rd_wr_ne {s : State} {a b : Nat} {v : Word} (h : s.sound = true) (n : b ≠ a) : (s.wr a v).rd b = s.rd b :=
  tabGet_tabSet_ne (State.sound.regs h) n

theorem State.fld_wr_ne {s : State} {a b : Nat} {v : Word} {f : Fld} (h : s.sound = true) (n : b ≠ a) :
    (s.wr a v).fld b f = s.fld b f := congrArg (fldOf f) (State.rd_wr_ne h n)

/-! ### Fields -/

theorem fldOf_testBit (f : Fld) (w : Word) (i : Nat) :
    (fldOf f w).testBit i = (decide (i < f.width) && w.getLsbD (f.lo + i)) := by
  unfold fldOf
  rw [Nat.testBit_mod_two_pow, Nat.testBit_div_two_pow, BitVec.getLsbD, Nat.add_comm]

theorem putFld_getLsbD (f : Fld) (w : Word) (v i : Nat) (h : i < 32) :
    (putFld f w v).getLsbD i =
      if f.lo ≤ i ∧ i < f.lo + f.width then v.testBit (i - f.lo) else w.getLsbD i := by
  unfold putFld
  simp only [BitVec.getLsbD_or, BitVec.getLsbD_and, BitVec.getLsbD_not, BitVec.getLsbD_ofNat, h, decide_true,
    Bool.true_and, Nat.testBit_mul_two_pow, Nat.testBit_two_pow_sub_one, Nat.testBit_mod_two_pow]
  by_cases a : f.lo ≤ i
  · by_cases b : i < f.lo + f.width
    · have c : i - f.lo < f.width := by omega
      simp [a, b, c]
    · have c : ¬ i - f.lo < f.width := by omega
      simp [a, b, c]
  · simp [a]

/-- A field reads what was put into it, modulo its width. -/
theorem fldOf_putFld_same {f : Fld} {w : Word} {v : Nat} (h : f.lo + f.width ≤ 32) :
    fldOf f (putFld f w v) = v % 2 ^ f.width := by
  apply Nat.eq_of_testBit_eq
  intro i
  rw [fldOf_testBit, Nat.testBit_mod_two_pow]
  by_cases c : i < f.width
  · rw [putFld_getLsbD f w v _ (by omega), if_pos ⟨by omega, by omega⟩, Nat.add_sub_cancel_left]
  · simp [c]

/-- A field that shares no bit with the one written keeps its value. -/
theorem fldOf_putFld_ne {f g : Fld} {w : Word} {v : Nat} (h : g.lo + g.width ≤ 32)
    (d : g.lo + g.width ≤ f.lo ∨ f.lo + f.width ≤ g.lo) : fldOf g (putFld f w v) = fldOf g w := by
  apply Nat.eq_of_testBit_eq
  intro i
  rw [fldOf_testBit, fldOf_testBit]
  by_cases c : i < g.width
  · rw [putFld_getLsbD f w v _ (by omega), if_neg (by omega)]
  · simp [c]

theorem State.fld_setFld_same {s : State} {a v : Nat} {f : Fld} (h : s.sound = true) (w : f.lo + f.width ≤ 32) :
    (s.setFld a f v).fld a f = v % 2 ^ f.width :=
  (congrArg (fldOf f) (State.rd_wr_same h)).trans (fldOf_putFld_same w)

theorem State.fld_setFld_ne {s : State} {a v : Nat} {f g : Fld} (h : s.sound = true) (w : g.lo + g.width ≤ 32)
    (d : g.lo + g.width ≤ f.lo ∨ f.lo + f.width ≤ g.lo) : (s.setFld a f v).fld a g = s.fld a g :=
  (congrArg (fldOf g) (State.rd_wr_same h)).trans (fldOf_putFld_ne w d)

theorem State.rd_setFld_ne {s : State} {a b v : Nat} {f : Fld} (h : s.sound = true) (n : b ≠ a) :
    (s.setFld a f v).rd b = s.rd b := State.rd_wr_ne h n

theorem State.rd_setFld_same {s : State} {a v : Nat} {f : Fld} (h : s.sound = true) :
    (s.setFld a f v).rd a = putFld f (s.rd a) v := State.rd_wr_same h

theorem State.flag_setFlag_same {s : State} {a : Nat} {f : Fld} {b : Bool} (h : s.sound = true)
    (w : f.lo + f.width ≤ 32) (p : 0 < f.width) : (s.setFlag a f b).flag a f = b := by
  have e : (s.setFlag a f b).fld a f = b.toNat % 2 ^ f.width := State.fld_setFld_same h w
  have q : b.toNat % 2 ^ f.width = b.toNat := by
    apply Nat.mod_eq_of_lt
    have : 2 ^ 1 ≤ 2 ^ f.width := Nat.pow_le_pow_right (by omega) p
    cases b <;> simp <;> omega
  unfold State.flag
  rw [e, q]
  cases b <;> rfl

/-! ### Memories -/

theorem memByte_memPut_outside {m : Mem} {a b : Nat} {l : List Byte} (h : Memory.wf m = true)
    (o : b < a ∨ a + l.length ≤ b) : memByte 0 (memPut 0 m a l) b = memByte 0 m b := by
  induction l generalizing a m with
  | nil => rfl
  | cons x l ih =>
    rw [List.length_cons] at o
    exact (ih (tabSet_wf h) (by omega)).trans (tabGet_tabSet_ne h (by omega))

theorem memByte_memPut_inside {m : Mem} {a i : Nat} {l : List Byte} (h : Memory.wf m = true) (o : i < l.length) :
    memByte 0 (memPut 0 m a l) (a + i) = l.getD i 0 := by
  induction l generalizing a i m with
  | nil => exact absurd o (Nat.not_lt_zero _)
  | cons x l ih =>
    cases i with
    | zero =>
      have g : Memory.wf (tabSet (dflt 0) m a x) = true := tabSet_wf h
      exact (memByte_memPut_outside g (Or.inl (by omega))).trans (tabGet_tabSet_same h)
    | succ i =>
      have e : a + (i + 1) = a + 1 + i := by omega
      rw [e]
      exact ih (tabSet_wf h) (by simpa using o)

/-! ### What is read stays, where something else is written -/

@[simp] theorem State.rd_setSup (s : State) (x : Sup) (a : Nat) : (s.setSup x).rd a = s.rd a := rfl
@[simp] theorem State.fld_setSup (s : State) (x : Sup) (a : Nat) (f : Fld) : (s.setSup x).fld a f = s.fld a f := rfl
@[simp] theorem State.flag_setSup (s : State) (x : Sup) (a : Nat) (f : Fld) : (s.setSup x).flag a f = s.flag a f := rfl
@[simp] theorem State.powered_setSup (s : State) (x : Sup) (d : Nat) : (s.setSup x).powered d = s.powered d := rfl
@[simp] theorem State.rd_setRotating (s : State) (x : Rot) (a : Nat) : (s.setRotating x).rd a = s.rd a := rfl
@[simp] theorem State.fld_setRotating (s : State) (x : Rot) (a : Nat) (f : Fld) : (s.setRotating x).fld a f = s.fld a f := rfl
@[simp] theorem State.flag_setRotating (s : State) (x : Rot) (a : Nat) (f : Fld) : (s.setRotating x).flag a f = s.flag a f := rfl
@[simp] theorem State.powered_setRotating (s : State) (x : Rot) (d : Nat) : (s.setRotating x).powered d = s.powered d := rfl
@[simp] theorem State.rd_setLim (s : State) (x : Lim) (a : Nat) : (s.setLim x).rd a = s.rd a := rfl
@[simp] theorem State.fld_setLim (s : State) (x : Lim) (a : Nat) (f : Fld) : (s.setLim x).fld a f = s.fld a f := rfl
@[simp] theorem State.flag_setLim (s : State) (x : Lim) (a : Nat) (f : Fld) : (s.setLim x).flag a f = s.flag a f := rfl
@[simp] theorem State.powered_setLim (s : State) (x : Lim) (d : Nat) : (s.setLim x).powered d = s.powered d := rfl
@[simp] theorem State.rd_setTrp (s : State) (x : Trp) (a : Nat) : (s.setTrp x).rd a = s.rd a := rfl
@[simp] theorem State.fld_setTrp (s : State) (x : Trp) (a : Nat) (f : Fld) : (s.setTrp x).fld a f = s.fld a f := rfl
@[simp] theorem State.flag_setTrp (s : State) (x : Trp) (a : Nat) (f : Fld) : (s.setTrp x).flag a f = s.flag a f := rfl
@[simp] theorem State.powered_setTrp (s : State) (x : Trp) (d : Nat) : (s.setTrp x).powered d = s.powered d := rfl
@[simp] theorem State.rd_setAlm (s : State) (x : Alm) (a : Nat) : (s.setAlm x).rd a = s.rd a := rfl
@[simp] theorem State.fld_setAlm (s : State) (x : Alm) (a : Nat) (f : Fld) : (s.setAlm x).fld a f = s.fld a f := rfl
@[simp] theorem State.flag_setAlm (s : State) (x : Alm) (a : Nat) (f : Fld) : (s.setAlm x).flag a f = s.flag a f := rfl
@[simp] theorem State.powered_setAlm (s : State) (x : Alm) (d : Nat) : (s.setAlm x).powered d = s.powered d := rfl
@[simp] theorem State.rd_setMor (s : State) (x : Moraine) (a : Nat) : (s.setMor x).rd a = s.rd a := rfl
@[simp] theorem State.fld_setMor (s : State) (x : Moraine) (a : Nat) (f : Fld) : (s.setMor x).fld a f = s.fld a f := rfl
@[simp] theorem State.flag_setMor (s : State) (x : Moraine) (a : Nat) (f : Fld) : (s.setMor x).flag a f = s.flag a f := rfl
@[simp] theorem State.powered_setMor (s : State) (x : Moraine) (d : Nat) : (s.setMor x).powered d = s.powered d := rfl
@[simp] theorem State.rd_setGate (s : State) (x : Gate) (a : Nat) : (s.setGate x).rd a = s.rd a := rfl
@[simp] theorem State.fld_setGate (s : State) (x : Gate) (a : Nat) (f : Fld) : (s.setGate x).fld a f = s.fld a f := rfl
@[simp] theorem State.flag_setGate (s : State) (x : Gate) (a : Nat) (f : Fld) : (s.setGate x).flag a f = s.flag a f := rfl
@[simp] theorem State.powered_setGate (s : State) (x : Gate) (d : Nat) : (s.setGate x).powered d = s.powered d := rfl
@[simp] theorem State.rd_setDio (s : State) (x : Dio) (a : Nat) : (s.setDio x).rd a = s.rd a := rfl
@[simp] theorem State.fld_setDio (s : State) (x : Dio) (a : Nat) (f : Fld) : (s.setDio x).fld a f = s.fld a f := rfl
@[simp] theorem State.flag_setDio (s : State) (x : Dio) (a : Nat) (f : Fld) : (s.setDio x).flag a f = s.flag a f := rfl
@[simp] theorem State.powered_setDio (s : State) (x : Dio) (d : Nat) : (s.setDio x).powered d = s.powered d := rfl
@[simp] theorem State.rd_setPanel (s : State) (x : Panel) (a : Nat) : (s.setPanel x).rd a = s.rd a := rfl
@[simp] theorem State.fld_setPanel (s : State) (x : Panel) (a : Nat) (f : Fld) : (s.setPanel x).fld a f = s.fld a f := rfl
@[simp] theorem State.flag_setPanel (s : State) (x : Panel) (a : Nat) (f : Fld) : (s.setPanel x).flag a f = s.flag a f := rfl
@[simp] theorem State.powered_setPanel (s : State) (x : Panel) (d : Nat) : (s.setPanel x).powered d = s.powered d := rfl
@[simp] theorem State.rd_setRtc (s : State) (x : Rtc) (a : Nat) : (s.setRtc x).rd a = s.rd a := rfl
@[simp] theorem State.fld_setRtc (s : State) (x : Rtc) (a : Nat) (f : Fld) : (s.setRtc x).fld a f = s.fld a f := rfl
@[simp] theorem State.flag_setRtc (s : State) (x : Rtc) (a : Nat) (f : Fld) : (s.setRtc x).flag a f = s.flag a f := rfl
@[simp] theorem State.powered_setRtc (s : State) (x : Rtc) (d : Nat) : (s.setRtc x).powered d = s.powered d := rfl
@[simp] theorem State.rd_setRing (s : State) (x : Ring) (a : Nat) : (s.setRing x).rd a = s.rd a := rfl
@[simp] theorem State.fld_setRing (s : State) (x : Ring) (a : Nat) (f : Fld) : (s.setRing x).fld a f = s.fld a f := rfl
@[simp] theorem State.flag_setRing (s : State) (x : Ring) (a : Nat) (f : Fld) : (s.setRing x).flag a f = s.flag a f := rfl
@[simp] theorem State.powered_setRing (s : State) (x : Ring) (d : Nat) : (s.setRing x).powered d = s.powered d := rfl
@[simp] theorem State.rd_setImg (s : State) (x : Imgs) (a : Nat) : (s.setImg x).rd a = s.rd a := rfl
@[simp] theorem State.fld_setImg (s : State) (x : Imgs) (a : Nat) (f : Fld) : (s.setImg x).fld a f = s.fld a f := rfl
@[simp] theorem State.flag_setImg (s : State) (x : Imgs) (a : Nat) (f : Fld) : (s.setImg x).flag a f = s.flag a f := rfl
@[simp] theorem State.powered_setImg (s : State) (x : Imgs) (d : Nat) : (s.setImg x).powered d = s.powered d := rfl
@[simp] theorem State.rd_setRwn (s : State) (x : Rante) (a : Nat) : (s.setRwn x).rd a = s.rd a := rfl
@[simp] theorem State.fld_setRwn (s : State) (x : Rante) (a : Nat) (f : Fld) : (s.setRwn x).fld a f = s.fld a f := rfl
@[simp] theorem State.flag_setRwn (s : State) (x : Rante) (a : Nat) (f : Fld) : (s.setRwn x).flag a f = s.flag a f := rfl
@[simp] theorem State.powered_setRwn (s : State) (x : Rante) (d : Nat) : (s.setRwn x).powered d = s.powered d := rfl
@[simp] theorem State.rd_setFree (s : State) (x : Nat) (a : Nat) : (s.setFree x).rd a = s.rd a := rfl
@[simp] theorem State.fld_setFree (s : State) (x : Nat) (a : Nat) (f : Fld) : (s.setFree x).fld a f = s.fld a f := rfl
@[simp] theorem State.flag_setFree (s : State) (x : Nat) (a : Nat) (f : Fld) : (s.setFree x).flag a f = s.flag a f := rfl
@[simp] theorem State.powered_setFree (s : State) (x : Nat) (d : Nat) : (s.setFree x).powered d = s.powered d := rfl
@[simp] theorem State.rd_setEpoch (s : State) (x : Time) (a : Nat) : (s.setEpoch x).rd a = s.rd a := rfl
@[simp] theorem State.fld_setEpoch (s : State) (x : Time) (a : Nat) (f : Fld) : (s.setEpoch x).fld a f = s.fld a f := rfl
@[simp] theorem State.flag_setEpoch (s : State) (x : Time) (a : Nat) (f : Fld) : (s.setEpoch x).flag a f = s.flag a f := rfl
@[simp] theorem State.powered_setEpoch (s : State) (x : Time) (d : Nat) : (s.setEpoch x).powered d = s.powered d := rfl
@[simp] theorem State.rd_setMirror (s : State) (x : RegFile) (a : Nat) : (s.setMirror x).rd a = s.rd a := rfl
@[simp] theorem State.fld_setMirror (s : State) (x : RegFile) (a : Nat) (f : Fld) : (s.setMirror x).fld a f = s.fld a f := rfl
@[simp] theorem State.flag_setMirror (s : State) (x : RegFile) (a : Nat) (f : Fld) : (s.setMirror x).flag a f = s.flag a f := rfl
@[simp] theorem State.powered_setMirror (s : State) (x : RegFile) (d : Nat) : (s.setMirror x).powered d = s.powered d := rfl
@[simp] theorem State.rd_setNow (s : State) (x : Time) (a : Nat) : (s.setNow x).rd a = s.rd a := rfl
@[simp] theorem State.fld_setNow (s : State) (x : Time) (a : Nat) (f : Fld) : (s.setNow x).fld a f = s.fld a f := rfl
@[simp] theorem State.flag_setNow (s : State) (x : Time) (a : Nat) (f : Fld) : (s.setNow x).flag a f = s.flag a f := rfl
@[simp] theorem State.powered_setNow (s : State) (x : Time) (d : Nat) : (s.setNow x).powered d = s.powered d := rfl
@[simp] theorem State.rd_answer (s : State) (x : Status) (a : Nat) : (s.answer x).rd a = s.rd a := rfl
@[simp] theorem State.fld_answer (s : State) (x : Status) (a : Nat) (f : Fld) : (s.answer x).fld a f = s.fld a f := rfl
@[simp] theorem State.flag_answer (s : State) (x : Status) (a : Nat) (f : Fld) : (s.answer x).flag a f = s.flag a f := rfl
@[simp] theorem State.powered_answer (s : State) (x : Status) (d : Nat) : (s.answer x).powered d = s.powered d := rfl
@[simp] theorem State.rd_atTime (s : State) (x : Time) (a : Nat) : (s.atTime x).rd a = s.rd a := rfl
@[simp] theorem State.fld_atTime (s : State) (x : Time) (a : Nat) (f : Fld) : (s.atTime x).fld a f = s.fld a f := rfl
@[simp] theorem State.flag_atTime (s : State) (x : Time) (a : Nat) (f : Fld) : (s.atTime x).flag a f = s.flag a f := rfl
@[simp] theorem State.powered_atTime (s : State) (x : Time) (d : Nat) : (s.atTime x).powered d = s.powered d := rfl

@[simp] theorem State.rd_raise (s : State) (k o n : Nat) (a : Nat) : (s.raise k o n).rd a = s.rd a := rfl
@[simp] theorem State.fld_raise (s : State) (k o n : Nat) (a : Nat) (f : Fld) : (s.raise k o n).fld a f = s.fld a f := rfl
@[simp] theorem State.flag_raise (s : State) (k o n : Nat) (a : Nat) (f : Fld) : (s.raise k o n).flag a f = s.flag a f := rfl
@[simp] theorem State.powered_raise (s : State) (k o n : Nat) (d : Nat) : (s.raise k o n).powered d = s.powered d := rfl
@[simp] theorem State.core_raise (s : State) (k o n : Nat) (c : CoreId) : (s.raise k o n).core c = s.core c := by cases c <;> rfl
@[simp] theorem State.rd_raiseF (s : State) (k o n : Nat) (b : Bool) (a : Nat) : (s.raiseF k o n b).rd a = s.rd a := rfl
@[simp] theorem State.fld_raiseF (s : State) (k o n : Nat) (b : Bool) (a : Nat) (f : Fld) : (s.raiseF k o n b).fld a f = s.fld a f := rfl
@[simp] theorem State.flag_raiseF (s : State) (k o n : Nat) (b : Bool) (a : Nat) (f : Fld) : (s.raiseF k o n b).flag a f = s.flag a f := rfl
@[simp] theorem State.powered_raiseF (s : State) (k o n : Nat) (b : Bool) (d : Nat) : (s.raiseF k o n b).powered d = s.powered d := rfl
@[simp] theorem State.core_raiseF (s : State) (k o n : Nat) (b : Bool) (c : CoreId) : (s.raiseF k o n b).core c = s.core c := by cases c <;> rfl
@[simp] theorem State.rd_raiseS (s : State) (k o n : Nat) (b : Bool) (v : Nat) (a : Nat) : (s.raiseS k o n b v).rd a = s.rd a := rfl
@[simp] theorem State.fld_raiseS (s : State) (k o n : Nat) (b : Bool) (v : Nat) (a : Nat) (f : Fld) : (s.raiseS k o n b v).fld a f = s.fld a f := rfl
@[simp] theorem State.flag_raiseS (s : State) (k o n : Nat) (b : Bool) (v : Nat) (a : Nat) (f : Fld) : (s.raiseS k o n b v).flag a f = s.flag a f := rfl
@[simp] theorem State.powered_raiseS (s : State) (k o n : Nat) (b : Bool) (v : Nat) (d : Nat) : (s.raiseS k o n b v).powered d = s.powered d := rfl
@[simp] theorem State.core_raiseS (s : State) (k o n : Nat) (b : Bool) (v : Nat) (c : CoreId) : (s.raiseS k o n b v).core c = s.core c := by cases c <;> rfl

@[simp] theorem State.core_setSup (s : State) (x : Sup) (c : CoreId) : (s.setSup x).core c = s.core c := by cases c <;> rfl
@[simp] theorem State.core_setRotating (s : State) (x : Rot) (c : CoreId) : (s.setRotating x).core c = s.core c := by cases c <;> rfl
@[simp] theorem State.core_setLim (s : State) (x : Lim) (c : CoreId) : (s.setLim x).core c = s.core c := by cases c <;> rfl
@[simp] theorem State.core_setTrp (s : State) (x : Trp) (c : CoreId) : (s.setTrp x).core c = s.core c := by cases c <;> rfl
@[simp] theorem State.core_setAlm (s : State) (x : Alm) (c : CoreId) : (s.setAlm x).core c = s.core c := by cases c <;> rfl
@[simp] theorem State.core_setMor (s : State) (x : Moraine) (c : CoreId) : (s.setMor x).core c = s.core c := by cases c <;> rfl
@[simp] theorem State.core_setGate (s : State) (x : Gate) (c : CoreId) : (s.setGate x).core c = s.core c := by cases c <;> rfl
@[simp] theorem State.core_setDio (s : State) (x : Dio) (c : CoreId) : (s.setDio x).core c = s.core c := by cases c <;> rfl
@[simp] theorem State.core_setPanel (s : State) (x : Panel) (c : CoreId) : (s.setPanel x).core c = s.core c := by cases c <;> rfl
@[simp] theorem State.core_setRtc (s : State) (x : Rtc) (c : CoreId) : (s.setRtc x).core c = s.core c := by cases c <;> rfl
@[simp] theorem State.core_setRing (s : State) (x : Ring) (c : CoreId) : (s.setRing x).core c = s.core c := by cases c <;> rfl
@[simp] theorem State.core_setImg (s : State) (x : Imgs) (c : CoreId) : (s.setImg x).core c = s.core c := by cases c <;> rfl
@[simp] theorem State.core_setRwn (s : State) (x : Rante) (c : CoreId) : (s.setRwn x).core c = s.core c := by cases c <;> rfl
@[simp] theorem State.core_setFree (s : State) (x : Nat) (c : CoreId) : (s.setFree x).core c = s.core c := by cases c <;> rfl
@[simp] theorem State.core_setEpoch (s : State) (x : Time) (c : CoreId) : (s.setEpoch x).core c = s.core c := by cases c <;> rfl
@[simp] theorem State.core_setMirror (s : State) (x : RegFile) (c : CoreId) : (s.setMirror x).core c = s.core c := by cases c <;> rfl
@[simp] theorem State.core_setNow (s : State) (x : Time) (c : CoreId) : (s.setNow x).core c = s.core c := by cases c <;> rfl
@[simp] theorem State.core_answer (s : State) (x : Status) (c : CoreId) : (s.answer x).core c = s.core c := by cases c <;> rfl
@[simp] theorem State.core_atTime (s : State) (x : Time) (c : CoreId) : (s.atTime x).core c = s.core c := by cases c <;> rfl
@[simp] theorem State.core_wr (s : State) (a : Nat) (v : Word) (c : CoreId) : (s.wr a v).core c = s.core c := by cases c <;> rfl
@[simp] theorem State.core_setFld (s : State) (a : Nat) (f : Fld) (v : Nat) (c : CoreId) : (s.setFld a f v).core c = s.core c := by cases c <;> rfl
@[simp] theorem State.core_setCore_same (s : State) (c : CoreId) (k : Core) : (s.setCore c k).core c = k := by
  cases c <;> rfl
@[simp] theorem State.rd_setCore (s : State) (c : CoreId) (k : Core) (a : Nat) : (s.setCore c k).rd a = s.rd a := by
  cases c <;> rfl
@[simp] theorem State.powered_setCore (s : State) (c : CoreId) (k : Core) (d : Nat) :
    (s.setCore c k).powered d = s.powered d := by cases c <;> rfl

theorem State.core_setCore_other {s : State} {c d : CoreId} {k : Core} (h : d ≠ c) : (s.setCore c k).core d = s.core d := by
  cases c <;> cases d <;> first | rfl | exact absurd rfl h

end Sys2Proof.Machine
end

