-- ==== Sys2Proof/Tests/Slice0.lean ====
section
/-! SUPPORT. Tests of the model on small states: each clause of a statement with hypotheses has a state and operands that meet
them, ill-formed commands are refused by the checks of `WellFormed.lean`, and single commands give the results that the spec
states. -/

namespace Sys2Proof.Tests
open Sys2Proof Sys2Proof.Machine

set_option maxRecDepth 100000

/-- The node started, all domains powered, every register else at its Reset column. -/
def up : State := ((State.reset.wrAll [(R.PWR_DOM, 0x7FF), (R.CLK_LOCK, 0x7FFF)]).setFlag R.PWR_STAT F.PWR_STAT_VALID true).setSup
  { State.reset.sup with running := true, alarmReady := true }

/-- `up` with core A set by `f`. -/
def withA (f : Core → Core) : State := up.setCore .a (f { coreReset with live := true })

/-- The state that an outcome answers, or `up`. -/
def after (o : Out) : State := match o with
  | .next t => t
  | _ => up
/-- Core A with w2 = 0x7FFFFFF0, w3 = 0x20, w4 = −2^31, w5 = −1. -/
def coreA2 : State := withA (fun k => (((k.set 2 0x7FFFFFF0).set 3 0x20).set 4 0x80000000).set 5 0xFFFFFFFF)

/-- A snapshot with sample words, limit words and group words, the time 1000 ms, and two events. -/
def aSnap : Snap := { snapReset with optime := 1000000, live := [(0, 7), (1, 8)], regs := [(R.LIM_STATE 1, 9), (R.ALM_GST 1, 10)],
                                     events := [⟨0x0D, 0, 0, 1, 0⟩, ⟨0x21, 1, 3, 1, 4⟩] }

/-- Core A in SRAM at w2, with the snapshot `aSnap`, timer 3 armed, events of bank 1 masked in. -/
def coreS : State := withA (fun k =>
  let k := (((((((k.set 2 0x20000004).set 3 0x2003FFFC).set 4 0x81828384).set 5 1).set 6 0x3000).set 7 0x30000000).set 8 0x18000000).set 9 0x0FFFFFFF
  { (k.setTimer 3 (some 2500)) with active := aSnap, evm := [(1, 2)],
                                    sram := [(0x20000004, 0x84), (0x20000006, 0x82), (0x2003FFFE, 0x80)] })

/-- `coreS` in a handler. -/
def coreX1 : State := coreS.setCore .a { coreS.core .a with xd := 1, epc := 0x08001010 }
def coreX2 : State := coreS.setCore .a { coreS.core .a with xd := 2, dpc := 0x08001020 }

/-- `coreS` with the word `w` at the start of its program. -/
def coreIll (w : Nat) : State :=
  coreS.setImg { coreS.img with imgA := ⟨true, memPut 0 [] 0x1000 (leBytes 4 w)⟩ }

/-- `coreS` with a commit word of opcode NOP in w7:w8. -/
def coreC : State := coreS.setCore .a (((coreS.core .a).set 7 5).set 8 0x01000000)

/-- Channel `n` of TYPE `type` and WIRE `wire`, in its register and in use. -/
def chanAs (n type wire : Nat) (s : State) : State :=
  let s := (s.setFld (R.AFE_CHCFG n) F.AFE_CHCFG_TYPE type).setFld (R.AFE_CHCFG n) F.AFE_CHCFG_WIRE wire
  s.setChan n { s.chan n with cfg := s.rd (R.AFE_CHCFG n) }

/-- Loop channels 0 (open), 1 (closed), 2 (held open by its limit), 3 (in its retry), a bridge on channel 4. -/
def fe : State :=
  let s := chanAs 4 14 2 (chanAs 3 12 0 (chanAs 2 12 0 (chanAs 1 12 0 (chanAs 0 12 0 up))))
  let s := (s.setAbit (R.AFE_LOOPON 0) 1 true).setLive 2 8 none
  let s := s.setChan 2 { s.chan 2 with openedAt := some 0 }
  (s.setAbit (R.AFE_LOOPON 0) 3 true).setChan 3 { s.chan 3 with retry := true, closedAt := some 0 }

/-- `fe` with channel 4 clamped. -/
def feClamp : State := fe.setLive 4 4 none

/-- Rotation enabled, the spare bank idle, `next` the next bank. -/
def rotUp (next : Nat) : State :=
  (up.setRotating { up.rot with enabled := true }).setFld R.AFE_ROTST F.AFE_ROTST_NEXT next

/-- Bank 2 FAILED and served by BS. -/
def rotFailed : State :=
  (((rotUp 0).setFailed 2 true).setFld R.AFE_ROTST F.AFE_ROTST_SERVED 2).setFld R.AFE_ROTST F.AFE_ROTST_BSSTATE 2

/-- The lock open. -/
def unlocked (s : State) : State := s.setFlag R.SYS_LOCK F.SYS_LOCK_OPEN true

/-- Sequencer `q` running with position `pos` selected. -/
def seqAt (q pos : Nat) (s : State) : State :=
  (s.setFld (R.SEQ_CTL q) F.SEQ_CTL_STATE stRunning).setFld (R.SEQ_PC q) F.SEQ_PC_POS pos

/-- Bank 1 wanted for a test, its sequencer at a SEL. -/
def rotWant : State :=
  ((seqAt 1 0 (rotUp 1)).setFld (R.SEQ_PROG 1 0) F.SEQ_PROG_INSTR 0x100000).setRotating { up.rot with enabled := true, want := some 1 }

/-- Bank 1 under test at step 2. -/
def rotTest : State :=
  (((rotUp 2).setFld R.AFE_ROTST F.AFE_ROTST_SERVED 1).setFld R.AFE_ROTST F.AFE_ROTST_STEP 2).setFld R.AFE_ROTST F.AFE_ROTST_BSSTATE 1
def rotBack : State := rotTest.setRotating { up.rot with enabled := true, backDue := true }
def rotSelf : State := (rotUp 0).setFld R.AFE_ROTST F.AFE_ROTST_STEP 2

/-- Bank 1's sequencer on channel 16, Pt100 3-wire, with SETTLE 3; `sq4` 4-wire, `sqV` a voltage input. -/
def sq : State := seqAt 1 0 ((chanAs 16 1 1 up).setFld (R.AFE_CHCFG 16) F.AFE_CHCFG_SETTLE 3)
def sq4 : State := seqAt 1 0 (chanAs 16 1 2 up)
def sqV : State := seqAt 1 0 (chanAs 16 11 0 up)

/-- The same with sequencer 1 at the wait `w`. -/
def sqWait (w : SWait) (s : State) : State := s.setSeq 1 { s.seq 1 with wait := w }

/-- A conversion of `k` results of filter 0 begun at 0, `c` of them complete, the latest `r`. -/
def sqCnv (k c : Nat) (r : Option Res) : State :=
  sq.setSeq 1 { sq.seq 1 with cnv := some ⟨0, k, 0, c, r⟩ }

/-- Scan timer 5 running with 200 µs, claimed by sequencer 1. -/
def scanT : State :=
  let s := (unlocked sq).setFld (R.SEQ_STPER 5) F.SEQ_STPER_PERIOD 200
  (s.setTimer 5 ⟨some 6000000000, none, 200, 0⟩).setOwner 53 0x11

/-- Sequencer 1 stopped, its store empty. -/
def sqStopped : State := (unlocked up).setFld (R.SEQ_CTL 1) F.SEQ_CTL_STATE 2

/-- `sqStopped` with a PAIR of range pair 7 at 0x000. -/
def sqBad : State := sqStopped.setFld (R.SEQ_PROG 1 0) F.SEQ_PROG_INSTR 0xFFFFFF

/-- `sq` after an EXC of 50 µA from source B to EX; then the same EXC changes nothing. -/
def sqExc : State := after (execExc 1 true 3 50 0 sq)

/-- Sequencer 1 waits alone at SYNC 5. -/
def sqSync : State := sqWait (.sync 5 2 6000000000) sq

/-! ### Limits, trips -/

/-- An entry of TYPE `type`, threshold `th` (24 bits), hysteresis `hys`, PARAM `param`, enabled, on channel 132. -/
def entOf (type th hys param : Nat) : Ent :=
  ⟨BitVec.ofNat 32 (putFld F.LIM_ENT0_TH (putFld F.LIM_ENT0_CHAN 0 132) th).toNat, putFld F.LIM_ENT1_HYS 0 hys,
    putFld F.LIM_ENT2_TYPE 0 type, putFld F.LIM_ENT3_EN (putFld F.LIM_ENT3_PARAM 0 param) 1⟩

/-- A word waits for Snowline. -/
def limWord : State := up.setLim { limReset with inbox := [⟨132, 0x7000000A, false, false, 9⟩] }
def limEarly : State := limWord.setSup { limWord.sup with alarmReady := false }

/-- Entry 2047 with its condition true and the on-delay running since 0, and the reverse. -/
def limOn : State := (up.setFlag (R.LIM_STATE 2047) F.LIM_STATE_COND true).setEntSt 2047 ⟨some 0, none, none, 0, 0⟩
def limOff : State := (up.setFlag (R.LIM_STATE 2047) F.LIM_STATE_ACT true).setEntSt 2047 ⟨none, some 0, none, 0, 0⟩

/-- Inhibit 63 set; `limRel` cleared with 100 ms of release running since 0. -/
def limInh : State := (up.setAbit (R.LIM_INH 0) 63 true).setAbit (R.LIM_INHEFF 0) 63 true
def limInhD : State := limInh.setFld (R.LIM_INHDLY 63) F.LIM_INHDLY_DLY 1
def limRel : State := (limInhD.setAbit (R.LIM_INH 0) 63 false).setRelease 63 (some 0)

/-- A staged entry waits: 1 valid, 2 invalid. -/
def stg (x : Ent) (k : Nat) : State :=
  let s := (unlocked up).wrAll [(R.LIM_STG 0, x.w0), (R.LIM_STG 1, x.w1), (R.LIM_STG 2, x.w2), (R.LIM_STG 3, x.w3)]
  (s.setFlag R.LIM_STGST F.LIM_STGST_BUSY true).setLim { s.lim with staged := some (1, k) }

/-- The trip matrix runs: output 0 and latch 0 sum term 0; input 5 glitch-filtered; FC3 has seen an edge at 0. -/
def trp : State :=
  let s := (up.setFlag R.TRP_STAT F.TRP_STAT_RUN true).setFlag (R.TRP_OCFG 0) F.TRP_OCFG_EN true
  let s := ((s.wr (R.TRP_OSUM 0 0) 1)).setFlag (R.TRP_LCFG 0) F.TRP_LCFG_EN true
  let s := (s.wr (R.TRP_LSET 0 0) 1).wr (R.TRP_LRST 0 0) 2
  let s := (s.setFld (R.TRP_INCFG 5) F.TRP_INCFG_GF 3).setFlag (R.TRP_ACCFG 11) F.TRP_ACCFG_EN true
  ((s.setFld (R.TRP_FCTH 3) F.TRP_FCTH_TMO 5).setFld (R.DIO_DICFG 7) F.DIO_DICFG_TYPE 2).setTrp { s.trp with fcEdge := [(3, some 0)], native := 0x80 }

/-! ### Alarms and plans -/

/-- Entry 5 of group 255, in alarm state `st`. -/
def alm (st : Nat) : State :=
  let s := ((up.setFlag (R.LIM_ENT3 5) F.LIM_ENT3_EN true).setFld (R.LIM_ENT2 5) F.LIM_ENT2_GROUP 255)
  s.setFld (R.ALM_EST 5) F.ALM_EST_STATE st

/-- The same entry shelved, until 0. -/
def almShelved : State :=
  let s := ((alm 1).setFlag (R.ALM_EST 5) F.ALM_EST_SHLV true).setFld (R.ALM_EST 5) F.ALM_EST_SHVREM 7
  s.setAlm { s.alm with shelve := [(5, some 0)] }

/-- The same entry out of service. -/
def almOos : State := (alm 0).setFlag (R.ALM_EST 5) F.ALM_EST_OOS true

/-- Plan 15 enabled, `wk` a watch-keeper plan, its levels enabled with ESC `esc`, MODE `end_`, in state `st` on level `lv`,
its timers due at 6 s. -/
def plan (wk end_ : Bool) (esc st lv : Nat) : State :=
  let s := (up.setFlag (R.ALM_PCFG 15) F.ALM_PCFG_EN true).setFlag (R.ALM_PCFG 15) F.ALM_PCFG_WK wk
  let s := (List.range 4).foldl (fun s k => (((s.setFlag (R.ALM_LCFG 15 k) F.ALM_LCFG_EN true).setFld (R.ALM_LCFG 15 k)
    F.ALM_LCFG_ESC esc).setFlag (R.ALM_LCFG 15 k) F.ALM_LCFG_MODE end_).setFld (R.ALM_LCFG 15 k) F.ALM_LCFG_PAT 1) s
  let s := (s.setFld (R.ALM_PST 15) F.ALM_PST_STATE st).setFld (R.ALM_PST 15) F.ALM_PST_LEVEL lv
  let s := (s.setFld (R.ALM_WKCFG 15) F.ALM_WKCFG_PERIOD 10).setFld (R.ALM_WKCFG 15) F.ALM_WKCFG_PREW 5
  s.setPlan 15 ⟨some 6000000000, [], [], some 6000000000, 0⟩

/-- Engineer 3 enabled, selected by action (`src`) or by code. -/
def watch (src : Bool) : State :=
  let s := (up.setFlag R.ALM_WATCH F.ALM_WATCH_SRC src).setFlag (R.ALM_ENG 3) F.ALM_ENG_EN true
  (s.setFld (R.ALM_ENG 3) F.ALM_ENG_CABDO 47).setOwner 47 0x02

/-! ### The twins, domains, islands -/

/-- Both cores in service, with `f` applied to each. -/
def twins (f : Core → Core) : State :=
  (up.setCore .a (f { coreReset with live := true })).setCore .b (f { coreReset with live := true })

/-- Both cores after CMTE, the copy of the next snapshot complete. -/
def twinsReady : State := twins (fun k => { k with cmtd := true, cmtn := 3, inactive := some (aSnap, true) })

/-- Core B alone in service after CMTE. -/
def solo : State :=
  let s := (up.setFld R.TWN_STAT F.TWN_STAT_MODE 1).setFld R.TWN_STAT F.TWN_STAT_CORE 1
  s.setCore .b { coreReset with live := true, cmtd := true, solo := true, inactive := some (aSnap, true) }

/-- Before the first tick boundary. -/
def beforeTick : State := up.setAlm { up.alm with stampTick := 1 }

/-- In the self-check, core A resynchronised last. -/
def checking : State :=
  let s := twins id
  s.setGate { s.gate with checking := true, diverged := some 1, lastResync := some .a }
def checking2 : State := checking.setGate { checking.gate with lastResync := none }

/-- Core A waits at the load of address `a`. -/
def reading (a : Word) : State := withA (fun k => { k with solo := true, wait := .read 3 a })

/-- A resynchronisation of core A at stage `n`; core B, in service, waits at EVW after CMTE. -/
def resync (n : Nat) : State :=
  let s := (solo.setFld R.TWN_STAT F.TWN_STAT_STAGE n).setFld R.TWN_STAT F.TWN_STAT_MODE 2
  let s := s.setCore .b
    { coreReset with live := true, cmtd := true, wait := .evw 4, w := [(7, 8)], sram := [(5, 6)], epc := 0x08001004 }
  s.setGate { s.gate with condemned := some .a }

/-- Core B permanently isolated. -/
def permB : State := (unlocked solo).setFlag R.TWN_STAT F.TWN_STAT_PERMB true

/-- Crossing `x` with two words of which none is usable. -/
def crossed (x : Crossing) : State := up.setCross (crossEnds x).1 ⟨[3, 4], [], []⟩

/-- Island `i` waits for its lock. -/
def lockWait (i : Nat) : State :=
  (up.setFld R.CLK_LOCK F.CLK_LOCK_LOCK (setBitN 0x7FFF i false)).setSup { up.sup with lockWait := [(i, 0)] }

/-- PD9 off. -/
def ringOff : State := up.setFld R.PWR_DOM F.PWR_DOM_ON 0x5FF

/-- Domain 7 waits for a cycle with cause 1; a cycle of domain `d` runs since 0. -/
def cycWait : State := up.setSup { up.sup with waiting := [(7, 1)] }
def cycRuns (d : Nat) : State := (up.switchOff d).setSup { up.sup with active := some (d, 1, 0) }

/-! ### Switching -/

/-- The field supply groups in state `g`, a tick applied. -/
def dio (g : Nat) : State :=
  let s := (List.range 4).foldl (fun s k => s.setFld (R.DIO_VFST k) F.DIO_VFST_STATE g) up
  s.setGate { s.gate with applied := true }

/-- Input 15 of TYPE 2, monitored, counting both edges; `broken` with its wire broken. -/
def di (broken : Bool) : State :=
  let s := ((dio 0).setFld (R.DIO_DICFG 15) F.DIO_DICFG_TYPE 2).setFlag (R.DIO_DICFG 15) F.DIO_DICFG_LMON true
  (s.setFld (R.DIO_DICFG 15) F.DIO_DICFG_EDGE 2).setAbit (R.DIO_DIWB 0) 15 broken

/-- Output `n` driven and commanded ON since 0, its open-load tests and its off-pulse enabled. -/
def doOn (n : Nat) (s : State) : State :=
  let s := ((s.setFlag (R.DIO_DOST n) F.DIO_DOST_CMD true).setFlag (R.DIO_DOST n) F.DIO_DOST_DRV true).setOut n
    { s.out n with onAt := some 0 }
  let s := (s.setFlag (R.DIO_DOCFG n) F.DIO_DOCFG_OLON true).setFlag (R.DIO_DOCFG n) F.DIO_DOCFG_OLOFF true
  (s.setFlag (R.DIO_DOCFG n) F.DIO_DOCFG_PTEST true).setFld (R.DIO_DOCFG n) F.DIO_DOCFG_PULSE 10

/-- Seven thermal shutdowns of output 47 within the last 10 s. -/
def doHot : State := (dio 0).setOut 47 { (dio 0).out 47 with therm := List.replicate 7 5999999999 }

/-- The pair scan at output 46 in phase `k`. -/
def scanAt (k : Nat) : State :=
  let s := ((unlocked (dio 0)).setFlag R.DIO_SCAN F.DIO_SCAN_BUSY true).setFld R.DIO_SCAN F.DIO_SCAN_POS 46
  let s := s.setOut 46 { s.out 46 with pulse := if k == 1 then some true else none }
  (s.setFlag (R.DIO_DOCFG 47) F.DIO_DOCFG_NOSCAN true).setDio { s.dio with scanPhase := k, scanLinks := [(46, 3)] }

/-- Group 3 commanded on with outputs 36 and 40, in state `g`, slots `l`. -/
def vf (g : Nat) (l : List Nat) : State :=
  let s := ((dio g).setFlag (R.DIO_DOST 36) F.DIO_DOST_CMD true).setFlag (R.DIO_DOST 40) F.DIO_DOST_CMD true
  (s.setFlag (R.DIO_DOCFG 40) F.DIO_DOCFG_NORST true).setGroup 3 ⟨l, 0, 0⟩

/-- PD5 off. -/
def dioOff : State := up.setFld R.PWR_DOM F.PWR_DOM_ON 0x7DF

/-! ### Axes -/

/-- Axis 5 in state `st`, MODE `mode`, VMAX 1000, DEC 400, EDEC 500, at position 100, with record `f`. -/
def gls (st mode : Nat) (f : AxisSt → AxisSt) : State :=
  let s := ((up.setFld (R.GLS_CFG 5) F.GLS_CFG_MODE mode).setFld (R.GLS_AXST 5) F.GLS_AXST_STATE st).setFld (R.GLS_VMAX 5)
    F.GLS_VMAX_VMAX 1000
  let s := (s.setFld (R.GLS_DEC 5) F.GLS_DEC_DEC 400).setFld (R.GLS_EDEC 5) F.GLS_EDEC_EDEC 500
  (s.setFld (R.GLS_POS 5) F.GLS_POS_POS 100).setAxis 5 (f (s.axis 5))

/-- The same with the fields `l` of its status set. -/
def glsWith (l : List (Fld × Nat)) (s : State) : State := l.foldl (fun s e => s.setAx 5 e.1 e.2) s

/-- Axis 5 at standstill with its tables full and its positive direction reversed. -/
def glsPhase : State :=
  let s := (gls 1 1 id).wrAll ((List.range 256).map (fun k => (R.GLS_TBL 5 0 k, 65535)))
  ((s.setFld (R.GLS_CUR 5) F.GLS_CUR_IRUN 1000).setFld (R.GLS_POS 5) F.GLS_POS_POS 300).setFlag (R.GLS_CFG 5) F.GLS_CFG_DINV true

/-- Axes 4 and 5 with staged targets at distances `d` and −3. -/
def glsGroup (d e : Int) : State :=
  let s := gls 1 1 fun x => { x with staged := some (100 + e) }
  let s := (s.setFld (R.GLS_CFG 4) F.GLS_CFG_MODE 2).setFld (R.GLS_AXST 4) F.GLS_AXST_STATE 1
  s.setAxis 4 { s.axis 4 with staged := some d }

/-- Axis 5 with its limits enabled and the Pergola output 53 asserted. -/
def glsLim (st : Nat) : State :=
  ((gls st 1 fun x => { x with fine := -7 }).setFlag (R.GLS_CFG 5) F.GLS_CFG_LIMEN true).setAbit (R.TRP_OUT 0) 53 true

/-! ### The panel -/

/-- A panel of 64 commons and 128 segments in mode `m`, picture 15 loaded, its record set by `f`. -/
def pnl (m : Nat) (f : Panel → Panel) : State :=
  let s := ((up.setFld R.PNL_CFG F.PNL_CFG_MODE m).setFld R.PNL_CFG F.PNL_CFG_COMMONS 64).setFld R.PNL_CFG F.PNL_CFG_SEGS 128
  let s := s.setImg { s.img with exec := { s.img.exec with pictures := [(15, List.replicate 64 5)] } }
  s.setPanel (f s.pnl)

/-- A request for rows `rows`. -/
def reqOf (rows : BitVec 64) : Req := ⟨rows, 0, 0, 63, 0, 127, 9, false⟩

/-- The pump on. -/
def pumpOn (s : State) : State := s.setFlag R.PNL_STAT F.PNL_STAT_PUMPON true

/-- Row 63 in phase `ph`, of a request for rows `rows`. -/
def rowAt (ph : Nat) (rows : BitVec 64) : State :=
  pumpOn (pnl 1 fun p => { p with queue := [reqOf rows], cur := some ⟨63, ph, false, true, 2000, 7, false, 0⟩, pumpReady := true })

/-! ### The calendar, Moraine -/

/-- The calendar at `n` with the record of `f`. -/
def calAt (n : Nat) (f : Rtc → Rtc) : State := let s := up.putCal n; s.setRtc (f s.rtc)

/-- Calendar alarm 3 at every second 59, enabled or not, due at 10, repeating or not; its match impossible where `bad`. -/
def calAlarm (en rep bad : Bool) : State :=
  let s := (calAt 10 id).setFld (R.RTC_ACFG 3) F.RTC_ACFG_MASK (if bad then 0x23 else 0x20)
  let s := (s.wr (R.RTC_ATIME 3) 0x59).wr (R.RTC_ADATE 3) (if bad then BitVec.ofNat 32 (putFld F.RTC_ADATE_MON (putFld F.RTC_ADATE_DAY 0 0x30) 2).toNat else 0)
  let s := (s.setFlag (R.RTC_ACFG 3) F.RTC_ACFG_EN en).setFlag (R.RTC_ACFG 3) F.RTC_ACFG_REPEAT rep
  (s.wr (R.RTC_ADUET 3) (duetWord 10)).wr (R.RTC_ADUED 3) (duedWord 10)

/-- The same alarm at the calendar's last second: no match follows before 2400. -/
def calAlarmLast : State := (calAlarm false false false).putCal (calSeconds - 1)

/-- A trigger of code `c`, and the record of a code and severity. -/
def trigOf (c : Nat) : Trig := ⟨6000000000, c, 7, 9, true, none, none, none⟩
def recOf (c sev : Nat) : Rec := { (default : Rec) with code := c, sev := sev }

/-- The writer on; the trigger `x` waits, the FIFO holds `n` records of severity 2, the code has RATE 60 and BURST 9. -/
def mor (n : Nat) (x : Trig) : State :=
  let s := (up.setFld (R.REC_CODECFG x.code) F.REC_CODECFG_RATE 60).setFld (R.REC_CODECFG x.code) F.REC_CODECFG_BURST 9
  s.setMor { s.mor with triggers := [x], fifo := List.replicate n (recOf 0x21 2), host := ⟨none, 0⟩, svc := ⟨none, 0⟩ }

/-- The bucket of code 0x21 with `k` tokens and 5 suppressed triggers. -/
def morBucket (k : Nat) (s : State) : State :=
  s.setMor { s.mor with buckets := [(0x21, some ⟨k, 0, 5, 4, 3⟩)] }

/-- Three records held, in slots 0, 1 and 3, with sequence numbers 5, 4 and 9. -/
def held : State := (up.wr R.REC_NEXTSEQ 10).setMor { up.mor with
  slots := [(0, some (5, recOf 0x21 3)), (1, some (4, recOf 0x22 1)), (3, some (9, recOf 0x23 2))] }

/-- The host's cursor latched at slot 0: sequence 5, or an older record that has left it. -/
def latchedAt (q : Nat) : State := held.setMor { held.mor with host := ⟨some (0, q, recOf 0x21 3), q⟩ }

/-- An index rebuild runs. -/
def rebuilding : State := held.setFlag R.REC_STAT F.REC_STAT_REBUILD true

/-- `n` slots with records of severity `v`. -/
def slotsOf (n v : Nat) : List (Nat × Option (Nat × Rec)) := (List.range n).map (fun i => (i, some (i, recOf 0x21 v)))

/-- All slots taken by records of severity `v`; a record of severity 2 waits. -/
def region (v : Nat) : State := up.setMor { up.mor with slots := slotsOf (131071 + 1) v, fifo := [recOf 0x24 2] }

/-! ### The ring, requests -/

/-- The node at address 9, EPOCH 0x1234, digest 0x55, EtherType 0x88B5, port A up. -/
def ring : State :=
  let s := (up.setSup { up.sup with contactsNow := 9, addr := 9 }).setFld R.RNG_STAT F.RNG_STAT_ADDR 9
  let s := (s.setFld R.RNG_CFG F.RNG_CFG_ETYPE 0x88B5).setImg { s.img with imgA := ⟨true, [(8, 0x34), (9, 0x12), (0x14, 0x55)]⟩ }
  (s.setFld (R.RNG_PORT 0) F.RNG_PORT_STATE 1).setPortLink 0 true

/-- `ring` with port A's missed headers at `k`. -/
def ringMiss (k : Nat) : State := ring.setFld (R.RNG_PORT 0) F.RNG_PORT_MISS k

/-- A header of kind `kind`, cycle `cyc`, EPOCH `ep`. -/
def hdrOf (kind cyc ep : Nat) : List Byte :=
  let l := beBytes 1 1 ++ beBytes 1 kind ++ beBytes 2 0 ++ beBytes 4 cyc ++ beBytes 8 0x100000002 ++ beBytes 2 ep ++ beBytes 2 0 ++
    beBytes 4 0x55 ++ beBytes 4 1000
  l ++ beBytes 4 (crc32c l).toNat

/-- A message of type `ty` to node 9 with ARG0 `a`, ARG1 `n`, payload `b`. -/
def msgOf (ty a n : Nat) (b : List Byte) : Msg :=
  ⟨BitVec.ofNat 8 ty, 0, 9, 7, BitVec.ofNat 16 b.length, BitVec.ofNat 32 a, 0, BitVec.ofNat 16 n, b⟩

/-- `ring` in a session, and with the request `m` taken. -/
def svcOn (s : State) : State := s.setFlag R.SVC_STAT F.SVC_STAT_SESSION true
def ringReq (m : Msg) (s : State) : State := s.setRing { s.ring with taken := [m] }

/-- `ring` with a transfer of `n` bytes to image B in state `st`, its units 0 to `k` − 1 held. -/
def imgAt (st n k : Nat) (s : State) : State :=
  let s := (((s.setFld R.RNG_IMG F.RNG_IMG_STATE st).wr R.RNG_IMGLEN (BitVec.ofNat 32 n)).setFlag R.RNG_IMG F.RNG_IMG_TGT true)
  s.setImg { s.img with units := (List.range k).map (fun i => (i, true)) }

/-- The bytes of an image for node 9 with nothing but its header and ring configuration. -/
def imageBytes : Mem :=
  let l := leBytes 4 1 ++ leBytes 4 0x1020 ++ leBytes 2 0x1234 ++ leBytes 2 9 ++ leBytes 4 0x1000 ++ leBytes 4 16
  let m := memPut 0 (memPut 0 [] 0 l) 0x1000 (leBytes 2 0x88B5 ++ leBytes 1 0 ++ leBytes 1 9 ++ leBytes 4 1000)
  memPut 0 (memPut 0 m 0x14 (leBytes 4 (computedCom m).toNat)) 0x18 (leBytes 4 (computedImg m).toNat)

/-- The check of the image sent runs for the request `m`; its bytes are `b`. -/
def imgChecking (b : Mem) (m : Msg) : State :=
  let s := imgAt 2 0x1020 129 ring
  s.setImg { s.img with imgB := ⟨false, b⟩, ending := some (.host, m) }

/-- The executing image A is `b`. -/
def executes (b : Mem) : State := ring.setImg { ring.img with imgA := ⟨true, b⟩ }

/-- The ship key, and a staged key with its proof. -/
def keyed (k : List Word) (proof : List Word) : State :=
  let s := unlocked (ring.setImg { ring.img with key := some k })
  s.wrAll ((List.range 8).map (fun i => (R.SYS_KEYPRF i, proof.getD i 0)))

/-! ### The Rante window, supplies, start -/

/-- The window on. -/
def win (s : State) : State := s.setFlag R.RWN_CTL F.RWN_CTL_EN true

/-- A byte `hi` of register `o` open since `t`. -/
def winPair (o : Nat) (hi : Byte) (t : Time) (s : State) : State := (win s).setRwn { s.rwn with latch := some (o, hi, t) }

/-- Channel 5 spans 0 to 1000, its sample `v` at quality `q`, in a limit index that holds `k` entries of it. -/
def winChan (v q k : Nat) : State :=
  let s := (ring.wr (R.RWN_RLO 5) 0).wr (R.RWN_RHI 5) 1000
  { s.setFld (R.LIM_CHIDX 5) F.LIM_CHIDX_COUNT k with live := [(5, BitVec.ofNat 32 (v + 2 ^ 30 * q))] }

/-- Holdover began at 5 s. -/
def holding : State := (up.setFlag R.PWR_STAT F.PWR_STAT_HOLD true).setSup { up.sup with holdAt := 5000000000 }

/-- The steps of a start in state `st`, but for those of `l`, at `v`. -/
def stepsAt (st : Nat) (l : List Nat) (v : Nat) : State :=
  (List.range 16).foldl (fun s k => s.setFld (R.SYS_STEP k) F.SYS_STEP_STATE (if l.contains k then v else st)) up

/-! ### Every clause of a statement with hypotheses: a state and operands that meet them

`test_<Statement or clause group>_meets` instantiates the hypotheses of each clause. -/

set_option Elab.async false
set_option linter.all false
set_option synthInstance.maxHeartbeats 1000000
set_option synthInstance.maxSize 4000

theorem test_CoreRegisterOps_meets :
    (let s : State := coreA2
     let c : CoreId := .a
     (s.issues c = true)) := by decide +kernel

theorem test_CoreSaturating_meets :
    (let s : State := coreA2
     let c : CoreId := .a
     (s.issues c = true)) := by decide +kernel

theorem test_CoreMulDiv_meets :
    (let s : State := coreA2
     let c : CoreId := .a
     (s.issues c = true)) ∧
    (let s : State := coreA2
     let c : CoreId := .a
     let wa : BitVec 5 := 4
     let wb : BitVec 5 := 5
     (s.issues c = true) ∧
     (s.word c wa = 0x80000000) ∧
     (s.word c wb = 0xFFFFFFFF)) := by decide +kernel

theorem test_CoreImmediateOps_meets :
    (let s : State := coreA2
     let c : CoreId := .a
     (s.issues c = true)) := by decide +kernel

theorem test_CoreBitOps_meets :
    (let s : State := coreA2
     let c : CoreId := .a
     (s.issues c = true) ∧
     let n : Nat := 32
     let i := 7
     (32 - n ≤ i)) ∧
    (let s : State := coreA2
     let c : CoreId := .a
     (s.issues c = true) ∧
     let n : Nat := 1
     (n < 32)) ∧
    (let s : State := coreA2
     let c : CoreId := .a
     (s.issues c = true) ∧
     let i := 7
     (i < 32)) := by decide +kernel

theorem test_CoreJumps_meets :
    (let s : State := coreA2
     let c : CoreId := .a
     (s.issues c = true) ∧
     ((s.core c).pc.toNat % 4 = 0)) ∧
    (let s : State := coreA2
     let c : CoreId := .a
     let wa : BitVec 5 := 3
     (s.issues c = true) ∧
     ((s.core c).pc.toNat % 4 = 0) ∧
     ((s.word c wa).toNat % 4 = 0)) := by decide +kernel

theorem test_CoreLoads_meets :
    (let s : State := coreS
     let c : CoreId := .a
     let wa : BitVec 5 := 2
     let imm : BitVec 16 := 0
     (s.issues c = true) ∧
     let a := (s.word c wa + imm.signExtend 32).toNat
     (0x20000000 ≤ a) ∧
     (a ≤ 0x2003FFFF) ∧
     (a % 4 = 0)) ∧
    (let s : State := coreS
     let c : CoreId := .a
     let wa : BitVec 5 := 2
     let imm : BitVec 16 := 0
     (s.issues c = true) ∧
     let a := (s.word c wa + imm.signExtend 32).toNat
     (0x20000000 ≤ a) ∧
     (a ≤ 0x2003FFFF) ∧
     (a % 2 = 0)) := by decide +kernel

theorem test_CoreStores_meets :
    (let s : State := coreS
     let c : CoreId := .a
     let wa : BitVec 5 := 2
     let imm : BitVec 16 := 0
     (s.issues c = true) ∧
     (s.sound = true) ∧
     let a := (s.word c wa + imm.signExtend 32).toNat
     (0x20000000 ≤ a) ∧
     (a ≤ 0x2003FFFF) ∧
     (a % 4 = 0)) ∧
    (let s : State := coreS
     let c : CoreId := .a
     let wa : BitVec 5 := 2
     let imm : BitVec 16 := 2
     (s.issues c = true) ∧
     (s.sound = true) ∧
     let a := (s.word c wa + imm.signExtend 32).toNat
     (0x20000000 ≤ a) ∧
     (a ≤ 0x2003FFFF) ∧
     (a % 2 = 0)) ∧
    (let s : State := coreS
     let c : CoreId := .a
     let wa : BitVec 5 := 3
     let imm : BitVec 16 := 3
     (s.issues c = true) ∧
     (s.sound = true) ∧
     let a := (s.word c wa + imm.signExtend 32).toNat
     (0x20000000 ≤ a) ∧
     (a ≤ 0x2003FFFF)) := by decide +kernel

theorem test_CoreNodeOps_meets :
    (let s : State := coreS
     let c : CoreId := .a
     let wa : BitVec 5 := 5
     let imm : BitVec 16 := 0
     (s.issues c = true) ∧
     let i := (s.word c wa + imm.signExtend 32).toNat
     (i < 256)) ∧
    (let s : State := coreS
     let c : CoreId := .a
     let wa : BitVec 5 := 5
     let imm : BitVec 16 := 0
     (s.issues c = true) ∧
     let i := (s.word c wa + imm.signExtend 32).toNat
     (i < 2048)) ∧
    (let s : State := coreS.setCore .a { coreS.core .a with cursor := 2 }
     let c : CoreId := .a
     let tm : BitVec 15 := 3
     (s.issues c = true) ∧
     (tm.toNat < 64)) ∧
    (let s : State := coreS.setCore .a { coreS.core .a with cursor := 2 }
     let c : CoreId := .a
     let imm : BitVec 16 := 0
     (s.issues c = true) ∧
     (imm.toNat < 64)) ∧
    (let s : State := coreS.setCore .a { coreS.core .a with cursor := 2 }
     let c : CoreId := .a
     (s.issues c = true) ∧
     let x := (s.core c).active
     let wanted (d : EvDesc) : Bool := ((s.core c).evmask (d.code / 32)).getLsbD (d.code % 32)
     ((x.events.drop (s.core c).cursor).any wanted = false) ∧
     ((s.core c).cmtd = false)) ∧
    (let s : State := coreS
     let c : CoreId := .a
     (s.issues c = true) ∧
     let x := (s.core c).active
     let wanted (d : EvDesc) : Bool := ((s.core c).evmask (d.code / 32)).getLsbD (d.code % 32)
     let k := 1
     let d := ⟨0x21, 1, 3, 1, 4⟩
     ((s.core c).cursor ≤ k) ∧
     (x.events[k]? = some d) ∧
     (wanted d = true) ∧
     (((x.events.take k).drop (s.core c).cursor).any wanted = false)) := by decide +kernel

theorem test_CoreSystemOps_meets :
    (let s : State := coreS
     let c : CoreId := .a
     let code : BitVec 11 := 255
     (s.issues c = true) ∧
     (code.toNat < 256)) ∧
    (let s : State := coreX1
     let c : CoreId := .a
     (s.issues c = true) ∧
     let k := s.fetched c
     (k.xd = 1)) ∧
    (let s : State := coreX2
     let c : CoreId := .a
     (s.issues c = true) ∧
     let k := s.fetched c
     (k.xd = 2)) ∧
    (let s : State := coreS
     let c : CoreId := .a
     (s.issues c = true)) ∧
    (let s : State := coreS
     let c : CoreId := .a
     let wx : BitVec 5 := 4
     (s.issues c = true) ∧
     let v := s.word c wx
     (v.toNat / 134217728 % 4 ≠ 3)) := by decide +kernel

theorem test_CoreCommitOps_meets :
    (let s : State := coreS
     let c : CoreId := .a
     let t : Time := 10
     ((s.atTime t).issues c = true) ∧
     (((s.atTime t).core c).cmtd = false) ∧
     ((s.atTime t).noRoom c = false) ∧
     let s := s.atTime t
     let k := s.fetched c
     (k.cmtn < 1024)) ∧
    (let s : State := coreS
     let c : CoreId := .a
     let wd : BitVec 5 := 1
     let fn : BitVec 11 := 0x7C
     let t : Time := 10
     ((s.atTime t).issues c = true) ∧
     (((s.atTime t).core c).cmtd = false) ∧
     ((s.atTime t).noRoom c = false) ∧
     let s := s.atTime t
     let k := s.fetched c
     (k.cmtn < 1024) ∧
     (0x7C ≤ fn.toNat) ∧
     (fn.toNat ≤ 0x7F) ∧
     (wd.toNat ≤ 16)) := by decide +kernel

theorem test_CoreWordFrame_meets :
    (let s : State := coreS
     (s.sound = true)) ∧
    (let s : State := coreS
     let i : BitVec 5 := 1
     (s.sound = true) ∧
     (i ≠ 0)) := by decide +kernel

theorem test_CoreExceptionEntry_meets :
    (let k : Core := (coreS.core .a)
     (k.xd = 0)) ∧
    (let k : Core := (coreX1.core .a)
     (k.xd = 1)) ∧
    (let k : Core := (coreX2.core .a)
     (k.xd = 2)) := by decide +kernel

theorem test_CoreTraps_meets :
    (let s : State := coreS
     let c : CoreId := .a
     let wb : BitVec 5 := 3
     (s.issues c = true) ∧
     (wb ≠ 0)) ∧
    (let s : State := coreS
     let c : CoreId := .a
     let wa : BitVec 5 := 6
     (s.issues c = true) ∧
     (wa ≠ 0)) ∧
    (let s : State := coreS
     let c : CoreId := .a
     let wa : BitVec 5 := 6
     let imm : BitVec 16 := 1
     let a := (s.word c wa + imm.signExtend 32).toNat
     (s.issues c = true) ∧
     (a % 4 ≠ 0)) ∧
    (let s : State := coreS
     let c : CoreId := .a
     let wa : BitVec 5 := 6
     let imm : BitVec 16 := 0
     let a := (s.word c wa + imm.signExtend 32).toNat
     (s.issues c = true) ∧
     (a % 4 = 0) ∧
     ((a < 0x20000000 ∨ 0x2003FFFF < a))) ∧
    (let s : State := coreS
     let c : CoreId := .a
     let wa : BitVec 5 := 6
     let imm : BitVec 16 := 1
     let a := (s.word c wa + imm.signExtend 32).toNat
     (s.issues c = true) ∧
     (256 ≤ a)) ∧
    (let s : State := coreS
     let c : CoreId := .a
     let wa : BitVec 5 := 6
     let imm : BitVec 16 := 0
     let a := (s.word c wa + imm.signExtend 32).toNat
     (s.issues c = true) ∧
     (a < 0x08000000) ∧
     (a % 4 = 0)) ∧
    (let s : State := coreIll 0x0C000000
     let c : CoreId := .a
     let d := 1
     (s.fetches c = true) ∧
     (decodeCore c s.now (s.fetchWord c) = .illegal d)) ∧
    (let s : State := coreS.setCore .a { coreS.core .a with pc := 0x08000FFC }
     let c : CoreId := .a
     (s.running c = true) ∧
     (s.stalled c = false) ∧
     (execAddr (s.core c).pc = false)) := by decide +kernel

theorem test_CoreDoesNotIssue_meets :
    (let s : State := up
     let c : CoreId := .a
     ((s.running c = false ∨ s.stalled c = true))) := by decide +kernel

theorem test_CoreIndexedReads_meets :
    (let s : State := coreS
     let c : CoreId := .a
     let wa : BitVec 5 := 5
     let imm : BitVec 16 := 0
     (s.issues c = true) ∧
     let i := (s.word c wa + imm.signExtend 32).toNat
     (i < 256)) ∧
    (let s : State := coreS
     let c : CoreId := .a
     let wa : BitVec 5 := 0
     let imm : BitVec 16 := 0x7FF
     (s.issues c = true) ∧
     let i := (s.word c wa + imm.signExtend 32).toNat
     (256 ≤ i)) ∧
    (let s : State := coreS
     let c : CoreId := .a
     let wa : BitVec 5 := 5
     let imm : BitVec 16 := 0
     (s.issues c = true) ∧
     let i := (s.word c wa + imm.signExtend 32).toNat
     (i < 2048)) ∧
    (let s : State := coreS
     let c : CoreId := .a
     let wa : BitVec 5 := 0
     let imm : BitVec 16 := 0x800
     (s.issues c = true) ∧
     let i := (s.word c wa + imm.signExtend 32).toNat
     (2048 ≤ i)) ∧
    (let s : State := coreS
     let c : CoreId := .a
     let wa : BitVec 5 := 0
     let wb : BitVec 5 := 7
     let imm : BitVec 16 := 255
     let off : BitVec 16 := 0x4FC
     (s.issues c = true) ∧
     let i := (s.word c wa + imm.signExtend 32).toNat
     let a := (s.word c wb + off.signExtend 32).toNat
     (i < 256) ∧
     (a = 0x30000000 + 0x100 + 4 * i)) ∧
    (let s : State := coreS
     let c : CoreId := .a
     let wa : BitVec 5 := 0
     let wb : BitVec 5 := 7
     let imm : BitVec 16 := 0x7FF
     let off : BitVec 16 := 0x2FFC
     (s.issues c = true) ∧
     let i := (s.word c wa + imm.signExtend 32).toNat
     let a := (s.word c wb + off.signExtend 32).toNat
     (i < 2048) ∧
     (a = 0x30000000 + 0x1000 + 4 * i)) ∧
    (let s : State := coreS
     let c : CoreId := .a
     let wa : BitVec 5 := 0
     let wb : BitVec 5 := 7
     let imm : BitVec 16 := 255
     let off : BitVec 16 := 0x3FF0
     (s.issues c = true) ∧
     let i := (s.word c wa + imm.signExtend 32).toNat
     let a := (s.word c wb + off.signExtend 32).toNat
     (i < 256) ∧
     (a = 0x30000000 + 0x3000 + 16 * i)) := by decide +kernel

theorem test_CoreStatusWrites_meets :
    (let s : State := coreS
     let c : CoreId := .a
     (s.issues c = true)) ∧
    (let s : State := coreS
     let c : CoreId := .a
     let wx : BitVec 5 := 4
     (s.issues c = true) ∧
     let v := s.word c wx
     let xd := v.toNat / 134217728 % 4
     let k : Core := { (coreS.fetched .a) with xd := (0), pc := (coreS.core .a).pc + 4 }
     (k.xd ≤ 2) ∧
     ((s.core c).xd ≤ 2) ∧
     ((s.core c).cmtn ≤ 1024)) := by decide +kernel

theorem test_LoopSwitches_meets :
    (let s₀ : State := fe
     let n : Fin 128 := 0
     let t : Time := 6000000000
     ((s₀.atTime t).afeOn = true) ∧
     let s := s₀.atTime t
     (s.isLoop2 n = true) ∧
     (s.loopOn n = false) ∧
     ((s.chan n).closedAt = none) ∧
     ((∀ m, m < n.val → s.isLoop2 m = true → s.loopOn m = true ∨ (s.chan m).closedAt ≠ none))) ∧
    (let s₀ : State := fe
     let n : Fin 128 := 1
     let t : Time := 6000000000
     ((s₀.atTime t).afeOn = true) ∧
     let s := s₀.atTime t
     (s.isLoop2 n = true) ∧
     (s.loopOn n = true) ∧
     ((s.chan n).retry = false)) ∧
    (let s₀ : State := fe
     let n : Fin 128 := 2
     let t : Time := 6000000000
     ((s₀.atTime t).afeOn = true) ∧
     let s := s₀.atTime t
     let o := 0
     (s.loopHeld n = true) ∧
     ((s.chan n).openedAt = some o) ∧
     (o + 5000000000 ≤ s.now)) ∧
    (let s₀ : State := fe
     let n : Fin 128 := 3
     let t : Time := 6000000000
     ((s₀.atTime t).afeOn = true) ∧
     let s := s₀.atTime t
     let o := 0
     ((s.chan n).retry = true) ∧
     ((s.chan n).closedAt = some o) ∧
     (o + 100000000 ≤ s.now)) := by decide +kernel

theorem test_LoopOvercurrent_meets :
    (let s₀ : State := fe
     let ma : List Nat := [0, 1950, 0, 60]
     let t : Time := 6000000000
     ((s₀.atTime t).afeOn = true) ∧
     let s := s₀.atTime t
     let closed := ((List.range 128).filter s.loopOn).reverse
     let total (l : List Nat) := (l.map (fun n => ma.getD n 0)).sum
     (2000 < total closed)) := by decide +kernel

theorem test_LoopSupply_meets :
    (let s : State := fe
     (s.afeOn = true)) := by decide +kernel

theorem test_SuppliesAndClamps_meets :
    (let s₀ : State := fe
     let b : Fin 9 := 0
     (s₀.afeOn = true) ∧
     (s₀.flag (R.AFE_BKBX b) F.AFE_BKBX_BXLIM = false)) ∧
    (let s₀ : State := fe
     (s₀.afeOn = true)) ∧
    (let s₀ : State := fe
     let t : Time := 6000000000
     let s := s₀.atTime t
     (s.afeOn = true)) ∧
    (let s₀ : State := feClamp
     let n : Fin 132 := 4
     let t : Time := 6000000000
     let s := s₀.atTime t
     (s.afeOn = true) ∧
     ((s.liveBits n).testBit 2 = true)) := by decide +kernel

theorem test_LiveAndLatchedBits_meets :
    (let s : State := fe
     let n : Nat := 0
     let live : Nat := 0
     (s.sound = true) ∧
     (n < 132) ∧
     (live < 512)) := by decide +kernel

theorem test_RotationRequests_meets :
    (let s₀ : State := rotUp 7
     let t : Time := 700000000000
     let s := s₀.atTime t
     let next := s.fld R.AFE_ROTST F.AFE_ROTST_NEXT
     let interval := s.fld R.AFE_ROTCTL F.AFE_ROTCTL_INTERVAL
     (s.afeOn = true) ∧
     (s.rot.enabled = true) ∧
     (s.bsIdle = true) ∧
     (s.rot.want = none) ∧
     (s.rot.late = false) ∧
     (interval ≠ 0) ∧
     (s.powered 6 = true) ∧
     (s.powered 7 = true) ∧
     (s.rot.lastBack + interval * 1000000000 ≤ s.now) ∧
     (next < 8)) ∧
    (let s₀ : State := rotUp 8
     let t : Time := 700000000000
     let s := s₀.atTime t
     let next := s.fld R.AFE_ROTST F.AFE_ROTST_NEXT
     let interval := s.fld R.AFE_ROTCTL F.AFE_ROTCTL_INTERVAL
     (s.afeOn = true) ∧
     (s.rot.enabled = true) ∧
     (s.bsIdle = true) ∧
     (s.rot.want = none) ∧
     (s.rot.late = false) ∧
     (interval ≠ 0) ∧
     (s.powered 6 = true) ∧
     (s.powered 7 = true) ∧
     (s.rot.lastBack + interval * 1000000000 ≤ s.now) ∧
     (next = 8)) ∧
    (let s₀ : State := rotUp 7
     let v : BitVec 4 := 1
     (s₀.afeOn = true) ∧
     (s₀.bsIdle = true) ∧
     (1 ≤ v.toNat) ∧
     (v.toNat ≤ 8)) ∧
    (let s₀ : State := rotUp 8
     let v : BitVec 4 := 9
     (s₀.afeOn = true) ∧
     (s₀.bsIdle = true) ∧
     (v.toNat = 9) ∧
     (s₀.powered 6 = true) ∧
     (s₀.powered 7 = true)) ∧
    (let s₀ : State := rotFailed
     let v : BitVec 4 := 10
     (s₀.afeOn = true) ∧
     (9 < v.toNat)) ∧
    (let s₀ : State := rotFailed
     let mask : BitVec 9 := 4
     (s₀.afeOn = true) ∧
     (s₀.bsState = 2) ∧
     (s₀.rotStep = 0) ∧
     (s₀.failed s₀.served = true) ∧
     (mask.toNat.testBit s₀.served = true) ∧
     (s₀.powered 6 = true) ∧
     (s₀.powered 7 = true)) ∧
    (let s₀ : State := unlocked (rotUp 0)
     let t : Time := 700000000000
     let iv : BitVec 16 := 0
     let s := s₀.atTime t
     (s.afeOn = true) ∧
     (s.lockOpen = true) ∧
     (iv.toNat = 0)) ∧
    (let s₀ : State := unlocked (rotUp 0)
     let t : Time := 700000000000
     let iv : BitVec 16 := 65535
     let s := s₀.atTime t
     (s.afeOn = true) ∧
     (s.lockOpen = true) ∧
     (60 ≤ iv.toNat) ∧
     (s.rot.enabled = true)) ∧
    (let s₀ : State := unlocked up
     let t : Time := 700000000000
     let iv : BitVec 16 := 60
     let s := s₀.atTime t
     let put := s.setFld R.AFE_ROTCTL F.AFE_ROTCTL_INTERVAL iv.toNat
     (s.afeOn = true) ∧
     (s.lockOpen = true) ∧
     (60 ≤ iv.toNat) ∧
     (s.rot.enabled = false) ∧
     (put.owner 64 = 0)) ∧
    (let s₀ : State := unlocked (rotUp 0)
     let t : Time := 700000000000
     let iv : BitVec 16 := 59
     let s := s₀.atTime t
     (s.afeOn = true) ∧
     (s.lockOpen = true) ∧
     (1 ≤ iv.toNat) ∧
     (iv.toNat ≤ 59)) := by decide +kernel

theorem test_RotatingTests_meets :
    (let s₀ : State := rotWant
     let b : Nat := 1
     let t : Time := 700000000000
     ((s₀.atTime t).afeOn = true) ∧
     let s := s₀.atTime t
     (s.rot.want = some b) ∧
     (s.bsIdle = true) ∧
     (s.atSel b = true) ∧
     (s.powered 6 = true) ∧
     (s.powered 7 = true) ∧
     (s.bankFixed b = false)) ∧
    (let s₀ : State := rotBack
     let t : Time := 700000000000
     ((s₀.atTime t).afeOn = true) ∧
     let s := s₀.atTime t
     (s.rot.backDue = true) ∧
     (s.served < 8) ∧
     (s.atSel 8 = true)) ∧
    (let s₀ : State := rotTest
     let r : TestResult := { (default : TestResult) with failStep := 0 }
     let t : Time := 700000000000
     ((s₀.atTime t).afeOn = true) ∧
     let s := s₀.atTime t
     (s.served < 8) ∧
     (s.rotStep ≠ 0) ∧
     (s.rot.backDue = false) ∧
     (r.failStep = 0)) ∧
    (let s₀ : State := rotTest
     let r : TestResult := { (default : TestResult) with failStep := 5 }
     let t : Time := 700000000000
     ((s₀.atTime t).afeOn = true) ∧
     let s := s₀.atTime t
     (s.served < 8) ∧
     (s.rotStep ≠ 0) ∧
     (s.rot.backDue = false) ∧
     (r.failStep ≠ 0) ∧
     (s.bsState = 1)) ∧
    (let s₀ : State := rotSelf
     let r : TestResult := { (default : TestResult) with failStep := 0 }
     let t : Time := 700000000000
     ((s₀.atTime t).afeOn = true) ∧
     let s := s₀.atTime t
     (s.served = 15) ∧
     (s.rotStep ≠ 0) ∧
     (r.failStep = 0)) ∧
    (let s₀ : State := rotSelf
     let r : TestResult := { (default : TestResult) with failStep := 9 }
     let t : Time := 700000000000
     ((s₀.atTime t).afeOn = true) ∧
     let s := s₀.atTime t
     (s.served = 15) ∧
     (s.rotStep ≠ 0) ∧
     (r.failStep ≠ 0)) := by decide +kernel

theorem test_ProgramFlow_meets :
    (let s₀ : State := sq
     let q : Fin 9 := 1
     (s₀.seqReady q = true)) ∧
    (let s₀ : State := sq
     let q : Fin 9 := 1
     let ctr : Fin 4 := 3
     let n : Fin 257 := 256
     (s₀.seqReady q = true) ∧
     let x := tabGet (dflt (false, 0)) (s₀.seq q).loops ctr.val
     let left := (if x.1 then x.2 else n.val) - 1
     (0 < left)) ∧
    (let s₀ : State := sq
     let q : Fin 9 := 1
     let ctr : Fin 4 := 3
     let n : Fin 257 := 1
     (s₀.seqReady q = true) ∧
     let x := tabGet (dflt (false, 0)) (s₀.seq q).loops ctr.val
     let left := (if x.1 then x.2 else n.val) - 1
     (left = 0)) ∧
    (let s₀ : State := sq
     let q : Fin 9 := 1
     let m : BitVec 16 := 0
     (s₀.seqReady q = true) ∧
     (m.toNat = 0)) ∧
    (let s₀ : State := sq
     let q : Fin 9 := 1
     let m : BitVec 16 := 65535
     (s₀.seqReady q = true) ∧
     (m.toNat ≠ 0)) ∧
    (let s₀ : State := sq.setPend 1 15 true
     let q : Fin 9 := 1
     let i : Fin 16 := 15
     (s₀.seqReady q = true) ∧
     (s₀.pend q i = true)) ∧
    (let s₀ : State := sq
     let q : Fin 9 := 1
     let i : Fin 16 := 15
     (s₀.seqReady q = true) ∧
     (s₀.pend q i = false)) := by decide +kernel

theorem test_ProgramWaitsEnd_meets :
    (let s₀ : State := sqWait (.stl 6000000000) sq
     let q : Fin 9 := 1
     let t : Time := 6000000000
     let due : Time := 6000000000
     let s := s₀.atTime t
     (s.seqRuns q = true) ∧
     ((s.seq q).wait = .stl due) ∧
     (due ≤ s.now)) ∧
    (let s₀ : State := sqWait (.sel 0x7FFF 15) sq
     let q : Fin 9 := 1
     let t : Time := 6000000000
     let sets : BitVec 15 := 0x7FFF
     let pos : Fin 17 := 15
     let s := s₀.atTime t
     (s.seqRuns q = true) ∧
     ((s.seq q).wait = .sel sets pos) ∧
     (s.selSpaced q = true)) ∧
    (let s₀ : State := sqSync
     let q : Fin 9 := 1
     let t : Time := 6000000000
     let due : Time := 6000000000
     let id : BitVec 3 := 5
     let mask : BitVec 8 := 2
     let s := s₀.atTime t
     (s.seqRuns q = true) ∧
     ((s.seq q).wait = .sync id mask due) ∧
     (due ≤ s.now)) ∧
    (let s₀ : State := sqSync
     let q : Fin 9 := 1
     let due : Time := 6000000000
     let id : BitVec 3 := 5
     let w := (2 : BitVec 8)
     ((s₀.seqRuns q = true ∧ (s₀.seq q).wait = .sync id w due ∧
               ∀ b : Fin 8, w.getLsbD b = true → s₀.atSync (s₀.server b) id = true)) ∧
     ((∀ r : Fin 9, r ≠ q → s₀.syncMet r id = false))) := by decide +kernel

theorem test_SelectChannel_meets :
    (let s₀ : State := sq
     let q : Fin 9 := 1
     let pos : Fin 17 := 0
     let t : Time := 6000000000
     (s₀.sound = true) ∧
     ((s₀.atTime t).seqReady q = true) ∧
     ((s₀.atTime t).selSpaced q = true) ∧
     ((pos.val = 16 → (s₀.atTime t).seqBank q % 2 = 1)) ∧
     let s := s₀.atTime t
     let n := posChan (s.seqBank q) pos.val
     ((s.chanType n = 12 ↔ s.fld (R.AFE_CHCFG n) F.AFE_CHCFG_TYPE = 12))) := by decide +kernel

theorem test_ExcitationAndSwap_meets :
    (let s₀ : State := sqExc
     let q : Fin 9 := 1
     let n : Nat := 16
     let src : Bool := true
     let term : BitVec 2 := 3
     let iexc : BitVec 11 := 50
     let t : Time := 6000000000
     (s₀.sound = true) ∧
     ((s₀.atTime t).seqReady q = true) ∧
     ((s₀.atTime t).scannedChan q = some n) ∧
     let s := s₀.atTime t
     let lvl := if iexc.toNat = 0 then s.level q src else iexc.toNat
     let trm := if term.toNat = 0 then s.ownTerm q n else if term.toNat = 3 then 0 else term.toNat
     let same := (s.seq q).src = src ∧ s.level q src = lvl ∧ s.term q src = trm
     (usesCurrent (s.chanType n) = true) ∧
     ((iexc.toNat = 0 ∨ 50 ≤ iexc.toNat ∧ iexc.toNat ≤ 2000)) ∧
     (same)) ∧
    (let s₀ : State := sq
     let q : Fin 9 := 1
     let n : Nat := 16
     let src : Bool := true
     let term : BitVec 2 := 3
     let iexc : BitVec 11 := 50
     let t : Time := 6000000000
     (s₀.sound = true) ∧
     ((s₀.atTime t).seqReady q = true) ∧
     ((s₀.atTime t).scannedChan q = some n) ∧
     let s := s₀.atTime t
     let lvl := if iexc.toNat = 0 then s.level q src else iexc.toNat
     let trm := if term.toNat = 0 then s.ownTerm q n else if term.toNat = 3 then 0 else term.toNat
     let same := (s.seq q).src = src ∧ s.level q src = lvl ∧ s.term q src = trm
     (usesCurrent (s.chanType n) = true) ∧
     ((iexc.toNat = 0 ∨ 50 ≤ iexc.toNat ∧ iexc.toNat ≤ 2000)) ∧
     (¬ same)) ∧
    (let s₀ : State := sq
     let q : Fin 9 := 1
     let n : Nat := 16
     let t : Time := 6000000000
     (s₀.sound = true) ∧
     ((s₀.atTime t).seqReady q = true) ∧
     ((s₀.atTime t).scannedChan q = some n) ∧
     let s := s₀.atTime t
     (s.threeWire n = true)) ∧
    (let s₀ : State := sq4
     let q : Fin 9 := 1
     let n : Nat := 16
     let t : Time := 6000000000
     (s₀.sound = true) ∧
     ((s₀.atTime t).seqReady q = true) ∧
     ((s₀.atTime t).scannedChan q = some n) ∧
     let s := s₀.atTime t
     (s.threeWire n = false)) := by decide +kernel

theorem test_ProgramPairs_meets :
    (let s₀ : State := sq
     let q : Fin 9 := 1
     let n : Nat := 16
     let lo : Nat := 0
     let hi : Nat := 3
     let half : Bool := false
     let k : Fin 5 := 0
     let t : Time := 6000000000
     (s₀.sound = true) ∧
     ((s₀.atTime t).seqReady q = true) ∧
     ((s₀.atTime t).scannedChan q = some n) ∧
     ((s₀.atTime t).threeWire n = true ∧ half = (s₀.atTime t).seqHalf q ∨ (s₀.atTime t).threeWire n = false ∧
           half = false) ∧
     (pairSpan ((s₀.atTime t).chanType n) = some (lo, hi)) ∧
     (lo ≤ k.val) ∧
     (k.val ≤ hi)) ∧
    (let s₀ : State := sq
     let q : Fin 9 := 1
     let n : Nat := 16
     let lo : Nat := 0
     let hi : Nat := 3
     let half : Bool := false
     let k : Fin 5 := 4
     let t : Time := 6000000000
     (s₀.sound = true) ∧
     ((s₀.atTime t).seqReady q = true) ∧
     ((s₀.atTime t).scannedChan q = some n) ∧
     ((s₀.atTime t).threeWire n = true ∧ half = (s₀.atTime t).seqHalf q ∨ (s₀.atTime t).threeWire n = false ∧
           half = false) ∧
     (pairSpan ((s₀.atTime t).chanType n) = some (lo, hi)) ∧
     ((k.val < lo ∨ hi < k.val))) ∧
    (let s₀ : State := sq
     let q : Fin 9 := 1
     let n : Nat := 16
     let lo : Nat := 0
     let hi : Nat := 3
     let half : Bool := false
     let t : Time := 6000000000
     (s₀.sound = true) ∧
     ((s₀.atTime t).seqReady q = true) ∧
     ((s₀.atTime t).scannedChan q = some n) ∧
     ((s₀.atTime t).threeWire n = true ∧ half = (s₀.atTime t).seqHalf q ∨ (s₀.atTime t).threeWire n = false ∧
           half = false) ∧
     (pairSpan ((s₀.atTime t).chanType n) = some (lo, hi))) := by decide +kernel

theorem test_ProgramConversions_meets :
    (let s₀ : State := sq
     let q : Fin 9 := 1
     let n : Nat := 16
     let k : Fin 4097 := 0
     let t : Time := 6000000000
     (s₀.sound = true) ∧
     ((s₀.atTime t).scannedChan q = some n) ∧
     ((s₀.atTime t).seqRuns q = true) ∧
     ((s₀.atTime t).sendHeld q = false) ∧
     let s := s₀.atTime t
     let w := (s.seq q).wait
     (w = .none) ∧
     (k.val = 0)) ∧
    (let s₀ : State := sq
     let q : Fin 9 := 1
     let n : Nat := 16
     let k : Fin 4097 := 4096
     let t : Time := 6000000000
     (s₀.sound = true) ∧
     ((s₀.atTime t).scannedChan q = some n) ∧
     ((s₀.atTime t).seqRuns q = true) ∧
     ((s₀.atTime t).sendHeld q = false) ∧
     let s := s₀.atTime t
     let w := (s.seq q).wait
     (w = .none) ∧
     (k.val ≠ 0)) ∧
    (let s₀ : State := sqCnv 3 0 none
     let q : Fin 9 := 1
     let n : Nat := 16
     let filt : Fin 7 := 0
     let k : Fin 4097 := 4096
     let t : Time := 6000000000
     let c : Cnv := ⟨0, 3, 0, 0, none⟩
     (s₀.sound = true) ∧
     ((s₀.atTime t).scannedChan q = some n) ∧
     ((s₀.atTime t).seqRuns q = true) ∧
     ((s₀.atTime t).sendHeld q = false) ∧
     let s := s₀.atTime t
     let w := (s.seq q).wait
     ((s.seq q).cnv = some c) ∧
     (c.count < c.k) ∧
     (c.start + c.count * filterInterval c.filt + filterWindow c.filt ≤ s.now) ∧
     (w = .none)) ∧
    (let s₀ : State := sq
     let q : Fin 9 := 1
     let n : Nat := 16
     let t : Time := 6000000000
     (s₀.sound = true) ∧
     ((s₀.atTime t).scannedChan q = some n) ∧
     ((s₀.atTime t).seqRuns q = true) ∧
     ((s₀.atTime t).sendHeld q = false) ∧
     let s := s₀.atTime t
     let w := (s.seq q).wait
     (w = .none) ∧
     ((s.seq q).cnv = none)) ∧
    (let s₀ : State := sqCnv 3 0 none
     let q : Fin 9 := 1
     let n : Nat := 16
     let k : Fin 4097 := 4096
     let t : Time := 6000000000
     let c : Cnv := ⟨0, 3, 0, 0, none⟩
     (s₀.sound = true) ∧
     ((s₀.atTime t).scannedChan q = some n) ∧
     ((s₀.atTime t).seqRuns q = true) ∧
     ((s₀.atTime t).sendHeld q = false) ∧
     let s := s₀.atTime t
     let w := (s.seq q).wait
     (w = .none) ∧
     ((s.seq q).cnv = some c) ∧
     (c.latest = none) ∧
     (c.count < c.k)) ∧
    (let s₀ : State := sqCnv 3 3 (some (default : Res))
     let q : Fin 9 := 1
     let n : Nat := 16
     let k : Fin 4097 := 4096
     let last : Bool := true
     let t : Time := 6000000000
     let c : Cnv := ⟨0, 3, 0, 3, some (default : Res)⟩
     (s₀.sound = true) ∧
     ((s₀.atTime t).scannedChan q = some n) ∧
     ((s₀.atTime t).seqRuns q = true) ∧
     ((s₀.atTime t).sendHeld q = false) ∧
     let s := s₀.atTime t
     let w := (s.seq q).wait
     let r := (default : Res)
     (w = .none) ∧
     ((s.seq q).cnv = some c) ∧
     (c.latest = some r) ∧
     ((last = false ∨ c.count = c.k))) := by decide +kernel

theorem test_SampleWordFields_meets :
    (let quality : Nat := 3
     let tag : Nat := 7
     let v : Int := -8388608
     (quality < 4) ∧
     (tag < 8) ∧
     (-8388608 ≤ v) ∧
     (v ≤ 8388607)) := by decide +kernel

theorem test_OpenCheck_meets :
    (let s₀ : State := sqV
     let q : Fin 9 := 1
     let n : Nat := 16
     let t : Time := 6000000000
     (s₀.sound = true) ∧
     (n < 132) ∧
     ((s₀.atTime t).scannedChan q = some n) ∧
     ((s₀.atTime t).seqRuns q = true) ∧
     let s := s₀.atTime t
     ((s.seq q).wait = .none) ∧
     (s.sendHeld q = false) ∧
     (s.chkApplies n = true)) ∧
    (let s₀ : State := sq
     let q : Fin 9 := 1
     let n : Nat := 16
     let t : Time := 6000000000
     (s₀.sound = true) ∧
     (n < 132) ∧
     ((s₀.atTime t).scannedChan q = some n) ∧
     ((s₀.atTime t).seqRuns q = true) ∧
     let s := s₀.atTime t
     ((s.seq q).wait = .none) ∧
     (s.sendHeld q = false) ∧
     (s.chkApplies n = false)) ∧
    (let s₀ : State := sqWait (.chk [0, 1] 0) sqV
     let q : Fin 9 := 1
     let n : Nat := 16
     let t : Time := 6000000000
     let due : Time := 0
     let marks : List Time := [0, 1]
     (s₀.sound = true) ∧
     (n < 132) ∧
     ((s₀.atTime t).scannedChan q = some n) ∧
     ((s₀.atTime t).seqRuns q = true) ∧
     let s := s₀.atTime t
     ((s.seq q).wait = .chk marks due) ∧
     (due ≤ s.now)) := by decide +kernel

theorem test_ScanTimers_meets :
    (let s₀ : State := scanT
     let i : Fin 16 := 5
     let t : Time := 6000000000
     let due : Time := 6000000000
     ((s₀.atTime t).powered 4 = true) ∧
     let s := s₀.atTime t
     (s.islandOn 4 = true) ∧
     ((s.timer i).next = some due) ∧
     (due ≤ s.now)) ∧
    (let s₀ : State := scanT
     let v : BitVec 27 := 124
     let t : Time := 6000000000
     ((s₀.atTime t).powered 4 = true) ∧
     let s := s₀.atTime t
     (s.lockOpen = true) ∧
     ((1 ≤ v.toNat ∧ v.toNat ≤ 124 ∨ 100000000 < v.toNat))) ∧
    (let s₀ : State := scanT
     let i : Fin 16 := 5
     let v : BitVec 27 := 0
     let t : Time := 6000000000
     ((s₀.atTime t).powered 4 = true) ∧
     let s := s₀.atTime t
     (s.lockOpen = true) ∧
     (v.toNat = 0) ∧
     (s.owner (48 + i.val) ≠ 0)) ∧
    (let s₀ : State := scanT
     let i : Fin 16 := 5
     let v : BitVec 27 := 125
     let t : Time := 6000000000
     ((s₀.atTime t).powered 4 = true) ∧
     let s := s₀.atTime t
     let o := 6000000000
     (s.lockOpen = true) ∧
     (125 ≤ v.toNat) ∧
     (v.toNat ≤ 100000000) ∧
     ((s.timer i).next = some o)) ∧
    (let s₀ : State := scanT
     let i : Fin 16 := 5
     let v : BitVec 27 := 100000000
     let t : Time := 6000000000
     ((s₀.atTime t).powered 4 = true) ∧
     let s := s₀.atTime t
     (s.lockOpen = true) ∧
     (s.fld (R.SEQ_STPER i) F.SEQ_STPER_PERIOD ≤ v.toNat)) ∧
    (let s₀ : State := scanT
     let i : Fin 16 := 5
     let v : BitVec 27 := 125
     let t : Time := 6000000000
     ((s₀.atTime t).powered 4 = true) ∧
     let s := s₀.atTime t
     (s.lockOpen = true) ∧
     (v.toNat < s.fld (R.SEQ_STPER i) F.SEQ_STPER_PERIOD)) := by decide +kernel

theorem test_ProgramLoadAndSync_meets :
    (let s₀ : State := unlocked sq
     let q : Fin 9 := 1
     let mask : BitVec 8 := 2
     let t : Time := 6000000000
     let s := s₀.atTime t
     (s.seqReady q = true) ∧
     (mask.getLsbD (s.seqBank q) = true)) ∧
    (let s₀ : State := unlocked sq
     let q : Fin 9 := 1
     let t : Time := 6000000000
     let s := s₀.atTime t
     (s.powered 4 = true) ∧
     (s.lockOpen = true) ∧
     (q.val ≠ 8) ∧
     (s.seqState q ≠ 3)) ∧
    (let s₀ : State := sqStopped
     let q : Fin 9 := 1
     let t : Time := 6000000000
     let s := s₀.atTime t
     (s.powered 4 = true) ∧
     (s.lockOpen = true) ∧
     (q.val ≠ 8) ∧
     (s.seqState q = 2) ∧
     (s.firstFault q = none) ∧
     (s₀.sound = true)) ∧
    (let s₀ : State := sqBad
     let q : Fin 9 := 1
     let t : Time := 6000000000
     let s := s₀.atTime t
     (s.powered 4 = true) ∧
     (s.lockOpen = true) ∧
     (q.val ≠ 8) ∧
     (s.seqState q = 2) ∧
     let f := 0
     let r := Status.range
     (s.firstFault q = some (f, r))) ∧
    (let s₀ : State := unlocked sq
     let q : Fin 9 := 1
     let t : Time := 6000000000
     let s := s₀.atTime t
     (s.powered 4 = true) ∧
     (s.lockOpen = true) ∧
     (q.val ≠ 8) ∧
     (s.seqState q ≠ 2)) := by decide +kernel

theorem test_WordsNeverLoaded_meets :
    (let s₀ : State := seqAt 2 0 up
     let q : Fin 9 := 2
     let t : Time := 6000000000
     ((s₀.atTime t).seqReady q = true) ∧
     ((s₀.atTime t).seqBank q % 2 = 0)) ∧
    (let s₀ : State := seqAt 2 0 up
     let q : Fin 9 := 2
     let iexc : BitVec 11 := 49
     let t : Time := 6000000000
     ((s₀.atTime t).seqReady q = true) ∧
     ((iexc.toNat ≠ 0 ∧ iexc.toNat < 50 ∨ 2000 < iexc.toNat))) ∧
    (let s₀ : State := seqAt 2 0 up
     let q : Fin 9 := 2
     let mask : BitVec 8 := 2
     let t : Time := 6000000000
     ((s₀.atTime t).seqReady q = true) ∧
     (mask.getLsbD ((s₀.atTime t).seqBank q) = false)) := by decide +kernel

theorem test_ProgramWordsWithNoEffect_meets :
    (let s₀ : State := sqV
     let q : Fin 9 := 1
     let n : Nat := 16
     let t : Time := 6000000000
     ((s₀.atTime t).seqReady q = true) ∧
     ((s₀.atTime t).scannedChan q = some n) ∧
     let s := s₀.atTime t
     (s.threeWire n = false)) ∧
    (let s₀ : State := sqV
     let q : Fin 9 := 1
     let n : Nat := 16
     let iexc : BitVec 11 := 2000
     let t : Time := 6000000000
     ((s₀.atTime t).seqReady q = true) ∧
     ((s₀.atTime t).scannedChan q = some n) ∧
     let s := s₀.atTime t
     (usesCurrent (s.chanType n) = false) ∧
     ((iexc.toNat = 0 ∨ 50 ≤ iexc.toNat ∧ iexc.toNat ≤ 2000))) := by decide +kernel

theorem test_LimitConditions_meets :
    (let x : Ent := entOf 0 100 5 0
     ((x.type = 0 ∨ x.type = 2))) ∧
    (let x : Ent := entOf 1 100 5 0
     ((x.type = 1 ∨ x.type = 3))) ∧
    (let x : Ent := entOf 4 100 5 10
     (x.type = 4)) ∧
    (let th : Int := 100
     let hys : Int := 5
     (0 < th) ∧
     (0 ≤ hys)) ∧
    (let th : Int := -100
     let hys : Int := 5
     (th < 0) ∧
     (0 ≤ hys)) := by decide +kernel

theorem test_LimitEvaluation_meets :
    (let s₀ : State := limWord
     let x : InWord := ⟨132, 0x7000000A, false, false, 9⟩
     let l : List InWord := []
     let t : Time := 6000000000
     ((s₀.atTime t).almOn = true) ∧
     let s := s₀.atTime t
     (s.lim.inbox = x :: l) ∧
     (s.sup.alarmReady = true)) ∧
    (let s₀ : State := limEarly
     let x : InWord := ⟨132, 0x7000000A, false, false, 9⟩
     let l : List InWord := []
     let t : Time := 6000000000
     ((s₀.atTime t).almOn = true) ∧
     let s := s₀.atTime t
     (s.lim.inbox = x :: l) ∧
     (s.sup.alarmReady = false)) ∧
    (let s₀ : State := limOn.setFlag (R.LIM_STATE 2047) F.LIM_STATE_ECCERR true
     let e : Fin 2048 := 2047
     let t : Time := 6000000000
     ((s₀.atTime t).almOn = true) ∧
     let s := s₀.atTime t
     (s.flag (R.LIM_STATE e) F.LIM_STATE_ECCERR = true)) ∧
    (let s₀ : State := limOn
     let e : Fin 2048 := 2047
     let o : Time := 0
     let t : Time := 6000000000
     ((s₀.atTime t).almOn = true) ∧
     let s := s₀.atTime t
     let due (end_ : Time) : Prop :=
       s.epoch + (max end_ (s.entSt e).editAt - s.epoch + 999999) / 1000000 * 1000000 ≤ s.now
     (s.flag (R.LIM_STATE e) F.LIM_STATE_ECCERR = false) ∧
     ((s.entSt e).onFrom = some o) ∧
     (due (o + (s.ent e).onDelay)) ∧
     (s.flag (R.LIM_STATE e) F.LIM_STATE_COND = true) ∧
     (s.entryAct e = false)) ∧
    (let s₀ : State := limOff
     let e : Fin 2048 := 2047
     let o : Time := 0
     let t : Time := 6000000000
     ((s₀.atTime t).almOn = true) ∧
     let s := s₀.atTime t
     let due (end_ : Time) : Prop :=
       s.epoch + (max end_ (s.entSt e).editAt - s.epoch + 999999) / 1000000 * 1000000 ≤ s.now
     (s.flag (R.LIM_STATE e) F.LIM_STATE_ECCERR = false) ∧
     ((s.entSt e).onFrom = none) ∧
     ((s.entSt e).offFrom = some o) ∧
     (due (o + (s.ent e).offDelay)) ∧
     (s.flag (R.LIM_STATE e) F.LIM_STATE_COND = false) ∧
     (s.entryAct e = true)) := by decide +kernel

theorem test_LimitInhibits_meets :
    (let i : BitVec 16 := 64
     (64 ≤ i.toNat)) ∧
    (let i : BitVec 16 := 63
     (i.toNat < 64)) ∧
    (let s₀ : State := limInh
     let i : BitVec 16 := 63
     let t : Time := 6000000000
     let s := s₀.atTime t
     let set (on : Bool) := s.setAbit (R.LIM_INH 0) i.toNat on
     (i.toNat < 64) ∧
     (s.abit (R.LIM_INH 0) i.toNat = true) ∧
     ((set false).inhDelay i.toNat = 0)) ∧
    (let s₀ : State := limInhD
     let i : BitVec 16 := 63
     let t : Time := 6000000000
     let s := s₀.atTime t
     let set (on : Bool) := s.setAbit (R.LIM_INH 0) i.toNat on
     (i.toNat < 64) ∧
     (s.abit (R.LIM_INH 0) i.toNat = true) ∧
     ((set false).inhDelay i.toNat ≠ 0)) ∧
    (let s₀ : State := limRel
     let n : Fin 64 := 63
     let from_ : Time := 0
     let t : Time := 6000000000
     let s := s₀.atTime t
     (s.almOn = true) ∧
     (tabGet (dflt none) s.lim.release n = some from_) ∧
     (s.delayDue (from_ + s.inhDelay n) = true) ∧
     (s.abit (R.LIM_INH 0) n = false)) ∧
    (let s₀ : State := limInh
     let n : Fin 64 := 63
     let t : Time := 6000000000
     let s := s₀.atTime t
     let on := true
     (s.inhEffective n = on)) ∧
    (let s₀ : State := limInh
     let n : Fin 64 := 63
     let t : Time := 6000000000
     let s := s₀.atTime t
     let on := false
     (s.inhEffective n ≠ on)) := by decide +kernel

theorem test_LimitScrubAndStaging_meets :
    (let s₀ : State := up
     (s₀.almOn = true) ∧
     (s₀.powered 4 = true)) ∧
    (let s₀ : State := up
     let t : Time := 6000000000
     (s₀.almOn = true) ∧
     (s₀.powered 4 = true) ∧
     let s := s₀.atTime t
     (s.lockOpen = false)) ∧
    (let s₀ : State := unlocked up
     let idx : BitVec 11 := 2047
     let t : Time := 6000000000
     (s₀.almOn = true) ∧
     (s₀.powered 4 = true) ∧
     let s := s₀.atTime t
     (s.lockOpen = true) ∧
     (s.flag R.LIM_STGST F.LIM_STGST_BUSY = false) ∧
     (256 ≤ idx.toNat)) ∧
    (let s₀ : State := unlocked up
     let idx : BitVec 11 := 2047
     let t : Time := 6000000000
     (s₀.almOn = true) ∧
     (s₀.powered 4 = true) ∧
     let s := s₀.atTime t
     (s.lockOpen = true) ∧
     (s.flag R.LIM_STGST F.LIM_STGST_BUSY = false) ∧
     (64 ≤ idx.toNat)) ∧
    (let s₀ : State := stg (entOf 0 100 5 0) 5
     let t : Time := 6000000000
     (s₀.almOn = true) ∧
     (s₀.powered 4 = true) ∧
     let s := s₀.atTime t
     (s.lockOpen = true) ∧
     (s.flag R.LIM_STGST F.LIM_STGST_BUSY = true)) ∧
    (let s₀ : State := unlocked up
     let t : Time := 6000000000
     (s₀.almOn = true) ∧
     (s₀.powered 4 = true) ∧
     let s := s₀.atTime t
     (s.lockOpen = true) ∧
     (s.flag R.LIM_STGST F.LIM_STGST_BUSY = false)) ∧
    (let s₀ : State := unlocked up
     let idx : BitVec 11 := 64
     let t : Time := 6000000000
     (s₀.almOn = true) ∧
     (s₀.powered 4 = true) ∧
     let s := s₀.atTime t
     (s.lockOpen = true) ∧
     (s.flag R.LIM_STGST F.LIM_STGST_BUSY = false) ∧
     (idx.toNat < 256)) ∧
    (let s₀ : State := unlocked up
     let idx : BitVec 11 := 63
     let t : Time := 6000000000
     (s₀.almOn = true) ∧
     (s₀.powered 4 = true) ∧
     let s := s₀.atTime t
     (s.lockOpen = true) ∧
     (s.flag R.LIM_STGST F.LIM_STGST_BUSY = false) ∧
     (idx.toNat < 64)) ∧
    (let s₀ : State := stg (entOf 9 100 5 0) 5
     let t : Time := 6000000000
     (s₀.almOn = true) ∧
     (s₀.powered 4 = true) ∧
     let s := s₀.atTime t
     let k := 5
     let w (i : Nat) : Word := s.rd (R.LIM_STG i)
     let x : Ent := ⟨w 0, w 1, w 2, w 3⟩
     (s.lim.staged = some (1, k)) ∧
     (s.entValid k x = false)) ∧
    (let s₀ : State := (stg (entOf 0 100 5 0) 5).setOwner 65 0x22
     let t : Time := 6000000000
     (s₀.almOn = true) ∧
     (s₀.powered 4 = true) ∧
     let s := s₀.atTime t
     let k := 5
     let w (i : Nat) : Word := s.rd (R.LIM_STG i)
     let x : Ent := ⟨w 0, w 1, w 2, w 3⟩
     (s.lim.staged = some (1, k)) ∧
     (s.entValid k x = true) ∧
     (s.owner (65 + k / 128) = 0x22)) ∧
    (let s₀ : State := stg (entOf 0 100 5 0) 5
     let t : Time := 6000000000
     (s₀.almOn = true) ∧
     (s₀.powered 4 = true) ∧
     let s := s₀.atTime t
     let k := 5
     let w (i : Nat) : Word := s.rd (R.LIM_STG i)
     let x : Ent := ⟨w 0, w 1, w 2, w 3⟩
     (s.lim.staged = some (1, k)) ∧
     (s.entValid k x = true) ∧
     (s.owner (65 + k / 128) ≠ 0x22)) ∧
    (let s₀ : State := (stg (entOf 0 100 5 0) 5).setLim { (stg (entOf 0 100 5 0) 5).lim with staged := some (2, 5) }
     let t : Time := 6000000000
     (s₀.almOn = true) ∧
     (s₀.powered 4 = true) ∧
     let s := s₀.atTime t
     let k := 5
     (s.lim.staged = some (2, k))) ∧
    (let s₀ : State := (stg (entOf 0 100 5 0) 5).setLim { (stg (entOf 0 100 5 0) 5).lim with staged := some (3, 5) }
     let t : Time := 6000000000
     (s₀.almOn = true) ∧
     (s₀.powered 4 = true) ∧
     let s := s₀.atTime t
     let k := 5
     (s.lim.staged = some (3, k))) := by decide +kernel

theorem test_TripOutputsAndLatches_meets :
    (let s : State := trp
     let o : Nat := 1
     ((s.flag (R.TRP_OCFG o) F.TRP_OCFG_EN = false ∨ s.mask128 (R.TRP_OSUM o) = 0))) ∧
    (let s : State := trp
     let o : Nat := 0
     (s.flag (R.TRP_OCFG o) F.TRP_OCFG_EN = true) ∧
     (s.mask128 (R.TRP_OSUM o) ≠ 0)) ∧
    (let s : State := trp
     let o : Nat := 1
     (s.flag (R.TRP_LCFG o) F.TRP_LCFG_EN = false)) ∧
    (let s : State := trp
     let terms : Nat := 0
     let o : Nat := 0
     (s.flag (R.TRP_LCFG o) F.TRP_LCFG_EN = true) ∧
     let set := s.mask128 (R.TRP_LSET o) &&& terms
     let rst := s.mask128 (R.TRP_LRST o) &&& terms
     (set = 0) ∧
     (rst = 0)) ∧
    (let s : State := trp
     let terms : Nat := 1
     let o : Nat := 0
     (s.flag (R.TRP_LCFG o) F.TRP_LCFG_EN = true) ∧
     let set := s.mask128 (R.TRP_LSET o) &&& terms
     let rst := s.mask128 (R.TRP_LRST o) &&& terms
     (set ≠ 0) ∧
     (rst = 0)) ∧
    (let s : State := trp
     let terms : Nat := 2
     let o : Nat := 0
     (s.flag (R.TRP_LCFG o) F.TRP_LCFG_EN = true) ∧
     let set := s.mask128 (R.TRP_LSET o) &&& terms
     let rst := s.mask128 (R.TRP_LRST o) &&& terms
     (set = 0) ∧
     (rst ≠ 0)) ∧
    (let s : State := trp
     let terms : Nat := 3
     let o : Nat := 0
     (s.flag (R.TRP_LCFG o) F.TRP_LCFG_EN = true) ∧
     let set := s.mask128 (R.TRP_LSET o) &&& terms
     let rst := s.mask128 (R.TRP_LRST o) &&& terms
     (set ≠ 0) ∧
     (rst ≠ 0)) := by decide +kernel

theorem test_TripInputs_meets :
    (let s₀ : State := up
     let n : Fin 64 := 5
     let t : Time := 6000000000
     let s := s₀.atTime t
     (s.trpOn = false) ∧
     (n.val < 48)) ∧
    (let s₀ : State := trp
     let n : Fin 64 := 5
     let lvl : Bool := true
     let t : Time := 6000000000
     let s := s₀.atTime t
     (s.trpOn = true) ∧
     (n.val < 48) ∧
     let u := ((s.setAbit (R.DIO_DIRAW 0) n (s.diLevel n lvl)).setNative n lvl).noteRaw n
     (u.fld (R.TRP_INCFG n) F.TRP_INCFG_GF ≠ 0)) ∧
    (let s₀ : State := trp
     let n : Fin 64 := 6
     let lvl : Bool := true
     let t : Time := 6000000000
     let s := s₀.atTime t
     (s.trpOn = true) ∧
     (n.val < 48) ∧
     let u := ((s.setAbit (R.DIO_DIRAW 0) n (s.diLevel n lvl)).setNative n lvl).noteRaw n
     (u.fld (R.TRP_INCFG n) F.TRP_INCFG_GF = 0) ∧
     (u.inputRaw n = u.inputLevel n)) ∧
    (let s₀ : State := trp
     let n : Fin 64 := 7
     let lvl : Bool := true
     let t : Time := 6000000000
     let s := s₀.atTime t
     (s.trpOn = true) ∧
     (n.val < 48) ∧
     let u := ((s.setAbit (R.DIO_DIRAW 0) n (s.diLevel n lvl)).setNative n lvl).noteRaw n
     (u.fld (R.TRP_INCFG n) F.TRP_INCFG_GF = 0) ∧
     (u.inputRaw n ≠ u.inputLevel n)) ∧
    (let s₀ : State := trp
     let n : Fin 64 := 60
     let t : Time := 6000000000
     let s := s₀.atTime t
     (s.trpOn = true) ∧
     (48 ≤ n.val)) ∧
    (let s₀ : State := trp
     let n : Fin 64 := 7
     let t : Time := 6000000000
     let s := s₀.atTime t
     (s.trpOn = true) ∧
     (s.inputRaw n ≠ s.inputLevel n) ∧
     (tabGet (dflt 0) s.trp.movedAt n + s.fld (R.TRP_INCFG n) F.TRP_INCFG_GF * 4 ≤ s.now)) ∧
    (let s₀ : State := up
     let t : Time := 6000000000
     let s := s₀.atTime t
     (s.trpOn = false)) ∧
    (let s₀ : State := trp
     let c : Fin 12 := 11
     let t : Time := 6000000000
     let s := s₀.atTime t
     (s.trpOn = true) ∧
     (s.flag (R.TRP_ACCFG c) F.TRP_ACCFG_EN = true) ∧
     (s.fld (R.TRP_ACCFG c) F.TRP_ACCFG_MODE = 0)) ∧
    (let s₀ : State := trp
     let f : Fin 4 := 2
     let t : Time := 6000000000
     let s := s₀.atTime t
     (s.trpOn = true) ∧
     (s.lastEdge f = none)) ∧
    (let s₀ : State := trp
     let f : Fin 4 := 3
     let t : Time := 6000000000
     let s := s₀.atTime t
     let o := 0
     (s.trpOn = true) ∧
     (s.lastEdge f = some o) ∧
     (o + s.fld (R.TRP_FCTH f) F.TRP_FCTH_TMO * 1000000 ≤ s.now)) ∧
    (let s₀ : State := up
     (s₀.islandOn 6 = true)) := by decide +kernel

theorem test_AlarmStateRules_meets :
    (let s : State := almOos
     let e : Nat := 5
     (s.modified e = true)) ∧
    (let s : State := (alm 1).wr (R.ALM_ESTMP 5) 8
     let e : Nat := 5
     let tick : Nat := 7
     (tick < (s.rd (R.ALM_ESTMP e)).toNat)) ∧
    (let s : State := alm 1
     let e : Nat := 5
     let tick : Nat := 0
     (s.modified e = false) ∧
     ((s.rd (R.ALM_ESTMP e)).toNat ≤ tick) ∧
     (s.alarmState e < 4)) ∧
    (let l : List Nat := [0, 2, 3, 1]
     (1 ∈ l)) ∧
    (let l : List Nat := [0, 2, 3]
     (1 ∉ l) ∧
     (3 ∈ l)) ∧
    (let l : List Nat := [0, 2]
     (1 ∉ l) ∧
     (3 ∉ l) ∧
     (2 ∈ l)) ∧
    (let l : List Nat := []
     (1 ∉ l) ∧
     (3 ∉ l) ∧
     (2 ∉ l)) := by decide +kernel

theorem test_AlarmAcknowledgeAndShelve_meets :
    (let g : BitVec 16 := 256
     (256 ≤ g.toNat)) ∧
    (let g : BitVec 16 := 255
     (g.toNat < 256)) ∧
    (let e : BitVec 16 := 2048
     let n := e.toNat
     (2048 ≤ n)) ∧
    (let s₀ : State := alm 3
     let e : BitVec 16 := 6
     let t : Time := 6000000000
     let s := s₀.atTime t
     let n := e.toNat
     (n < 2048) ∧
     (s.entryOk n = false)) ∧
    (let s₀ : State := alm 1
     let e : BitVec 16 := 5
     let tick : Word := 7
     let t : Time := 6000000000
     let s := s₀.atTime t
     let n := e.toNat
     (n < 2048) ∧
     (s.entryOk n = true) ∧
     let v := 2
     (s.ackState n tick.toNat = some v)) ∧
    (let s₀ : State := alm 3
     let e : BitVec 16 := 5
     let secs : BitVec 17 := 0
     let t : Time := 6000000000
     let s := s₀.atTime t
     let n := e.toNat
     (n < 2048) ∧
     (s.entryOk n = true) ∧
     ((secs.toNat = 0 ∨ 86400 < secs.toNat))) ∧
    (let s₀ : State := alm 1
     let e : BitVec 16 := 5
     let secs : BitVec 17 := 86400
     let t : Time := 6000000000
     let s := s₀.atTime t
     let n := e.toNat
     (n < 2048) ∧
     (s.entryOk n = true) ∧
     (1 ≤ secs.toNat) ∧
     (secs.toNat ≤ 86400)) := by decide +kernel

theorem test_AlarmModifiers_meets :
    (let s₀ : State := alm 1
     let e : BitVec 16 := 5
     let t : Time := 6000000000
     (s₀.entryOk e.toNat = true) ∧
     (e.toNat < 2048) ∧
     let s := s₀.atTime t
     let k := e.toNat
     (s.flag (R.ALM_EST k) F.ALM_EST_SHLV = false)) ∧
    (let s₀ : State := almShelved
     let e : BitVec 16 := 5
     let t : Time := 6000000000
     (s₀.entryOk e.toNat = true) ∧
     (e.toNat < 2048) ∧
     let s := s₀.atTime t
     let k := e.toNat
     (s.flag (R.ALM_EST k) F.ALM_EST_SHLV = true)) ∧
    (let s₀ : State := almShelved
     let e : BitVec 16 := 5
     let n : Fin 2048 := 5
     let d : Time := 0
     let t : Time := 6000000000
     (s₀.entryOk e.toNat = true) ∧
     (e.toNat < 2048) ∧
     let s := s₀.atTime t
     (s.almOn = true) ∧
     (s.shelveDue n = some d) ∧
     (d ≤ s.now)) ∧
    (let s₀ : State := almOos
     let e : BitVec 16 := 5
     (s₀.entryOk e.toNat = true) ∧
     (e.toNat < 2048) ∧
     let k := e.toNat
     (s₀.flag (R.ALM_EST k) F.ALM_EST_OOS = true)) ∧
    (let s₀ : State := alm 1
     let e : BitVec 16 := 5
     (s₀.entryOk e.toNat = true) ∧
     (e.toNat < 2048) ∧
     let k := e.toNat
     (s₀.flag (R.ALM_EST k) F.ALM_EST_OOS = false)) ∧
    (let s₀ : State := alm 1
     let e : BitVec 16 := 5
     let t : Time := 6000000000
     (s₀.entryOk e.toNat = true) ∧
     (e.toNat < 2048) ∧
     let s := s₀.atTime t
     let k := e.toNat
     (s.flag (R.ALM_EST k) F.ALM_EST_OOS = false)) ∧
    (let s₀ : State := almOos
     let e : BitVec 16 := 5
     let t : Time := 6000000000
     (s₀.entryOk e.toNat = true) ∧
     (e.toNat < 2048) ∧
     let s := s₀.atTime t
     let k := e.toNat
     (s.flag (R.ALM_EST k) F.ALM_EST_OOS = true) ∧
     let u := (s.setFlag (R.ALM_EST k) F.ALM_EST_OOS false).raise 0x2A k (s.alarmState k)
     (u.modified k = false)) ∧
    (let s₀ : State := almOos.setFlag (R.ALM_EST 5) F.ALM_EST_SHLV true
     let e : BitVec 16 := 5
     let t : Time := 6000000000
     (s₀.entryOk e.toNat = true) ∧
     (e.toNat < 2048) ∧
     let s := s₀.atTime t
     let k := e.toNat
     (s.flag (R.ALM_EST k) F.ALM_EST_OOS = true) ∧
     let u := (s.setFlag (R.ALM_EST k) F.ALM_EST_OOS false).raise 0x2A k (s.alarmState k)
     (u.modified k = true)) := by decide +kernel

theorem test_PlanActions_meets :
    (let pl : BitVec 16 := 16
     let p := pl.toNat
     (16 ≤ p)) ∧
    (let pl : BitVec 16 := 15
     let cause : BitVec 9 := 0x100
     let p := pl.toNat
     (p < 16) ∧
     (0xFF < cause.toNat) ∧
     (cause.toNat ≠ 0x101)) ∧
    (let s₀ : State := plan false false 10 0 0
     let pl : BitVec 16 := 15
     let cause : BitVec 9 := 0x101
     let t : Time := 6000000000
     let s := s₀.atTime t
     let p := pl.toNat
     (p < 16) ∧
     ((cause.toNat ≤ 0xFF ∨ cause.toNat = 0x101)) ∧
     (s.planOk p = true) ∧
     (s.planWk p = false) ∧
     (s.planState p = 0)) ∧
    (let s₀ : State := plan false true 10 1 4
     let pl : BitVec 16 := 15
     let t : Time := 6000000000
     let s := s₀.atTime t
     let p := pl.toNat
     (p < 16) ∧
     (s.planState p = 1)) ∧
    (let pl : BitVec 16 := 15
     let level : BitVec 3 := 5
     let p := pl.toNat
     let k := level.toNat
     (p < 16) ∧
     ((k = 0 ∨ 5 ≤ k))) ∧
    (let s₀ : State := plan false true 10 1 4
     let pl : BitVec 16 := 15
     let level : BitVec 3 := 4
     let t : Time := 6000000000
     let s := s₀.atTime t
     let p := pl.toNat
     let k := level.toNat
     (p < 16) ∧
     (1 ≤ k) ∧
     (k ≤ 4) ∧
     ((s.planWk p = false ∨ k ≠ 1)) ∧
     (s.planState p = 1) ∧
     (k ≤ s.planLevel p) ∧
     (s.levelEn p k = true) ∧
     (s.flag (R.ALM_LCFG p (k - 1)) F.ALM_LCFG_MODE = true)) ∧
    (let s₀ : State := plan false false 10 1 4
     let pl : BitVec 16 := 15
     let level : BitVec 3 := 3
     let t : Time := 6000000000
     let s := s₀.atTime t
     let p := pl.toNat
     let k := level.toNat
     (p < 16) ∧
     (1 ≤ k) ∧
     (k ≤ 4) ∧
     ((s.planWk p = false ∨ k ≠ 1)) ∧
     (s.planState p = 1) ∧
     (k ≤ s.planLevel p) ∧
     (s.levelEn p k = true) ∧
     (s.flag (R.ALM_LCFG p (k - 1)) F.ALM_LCFG_MODE = false) ∧
     (s.sound = true)) ∧
    (let s₀ : State := plan true false 10 1 2
     let pl : BitVec 16 := 15
     let level : BitVec 3 := 1
     let t : Time := 6000000000
     let s := s₀.atTime t
     let p := pl.toNat
     let k := level.toNat
     (p < 16) ∧
     (k = 1) ∧
     (s.planWk p = true) ∧
     (s.planState p ≠ 0)) := by decide +kernel

theorem test_WatchKeeperActions_meets :
    (let s₀ : State := plan true false 10 1 2
     let pl : BitVec 16 := 15
     let t : Time := 6000000000
     let s := s₀.atTime t
     let p := pl.toNat
     (p < 16) ∧
     (s.planOk p = true) ∧
     (s.planWk p = true) ∧
     (s.planState p ≠ 0)) ∧
    (let s₀ : State := plan true false 10 0 0
     let pl : BitVec 16 := 15
     let t : Time := 6000000000
     let s := s₀.atTime t
     let p := pl.toNat
     (p < 16) ∧
     (s.planOk p = true) ∧
     (s.planWk p = true) ∧
     (s.planState p = 0)) ∧
    (let s₀ : State := plan false false 10 0 0
     let pl : BitVec 16 := 15
     let t : Time := 6000000000
     let s := s₀.atTime t
     let p := pl.toNat
     (p < 16) ∧
     (s.planWk p = false)) ∧
    (let target : BitVec 16 := 1
     (target.toNat ≠ 0)) ∧
    (let s₀ : State := watch true
     let target : BitVec 16 := 0
     let eng : BitVec 3 := 4
     let t : Time := 6000000000
     let s := s₀.atTime t
     (target.toNat = 0) ∧
     (s.flag R.ALM_WATCH F.ALM_WATCH_SRC = true) ∧
     (s.engineerOk eng.toNat = false)) ∧
    (let s₀ : State := watch true
     let target : BitVec 16 := 0
     let eng : BitVec 3 := 3
     let t : Time := 6000000000
     let s := s₀.atTime t
     (target.toNat = 0) ∧
     (s.flag R.ALM_WATCH F.ALM_WATCH_SRC = true) ∧
     (s.engineerOk eng.toNat = true)) ∧
    (let s₀ : State := (let u := watch false; u.setAlm { u.alm with di := 3 })
     let code : BitVec 3 := 3
     let t : Time := 6000000000
     let s := s₀.atTime t
     let base := s.fld R.ALM_WATCH F.ALM_WATCH_DIBASE
     (s.almOn = true) ∧
     (s.flag R.ALM_WATCH F.ALM_WATCH_SRC = false) ∧
     ((∀ j : Fin 3, s.alm.di.getLsbD (base + j) = code.getLsbD j)) ∧
     ((∀ j : Fin 3, tabGet (dflt 0) s.alm.diAt (base + j) + 500000000 ≤ s.now))) := by decide +kernel

theorem test_PlanTimersAndInputs_meets :
    (let s₀ : State := plan false false 10 1 3
     let pl : Fin 16 := 15
     let d : Time := 6000000000
     let t : Time := 6000000000
     let s := s₀.atTime t
     let p := pl.val
     let k := s.planLevel p
     (s.almOn = true) ∧
     (s.planState p = 1) ∧
     ((s.plan p).due = some d) ∧
     (s.delayDue d = true) ∧
     (k < 4)) ∧
    (let s₀ : State := plan false false 10 1 4
     let pl : Fin 16 := 15
     let d : Time := 6000000000
     let t : Time := 6000000000
     let s := s₀.atTime t
     let p := pl.val
     let k := s.planLevel p
     (s.almOn = true) ∧
     (s.planState p = 1) ∧
     ((s.plan p).due = some d) ∧
     (s.delayDue d = true) ∧
     (4 ≤ k)) ∧
    (let s₀ : State := plan true false 10 2 0
     let pl : Fin 16 := 15
     let d : Time := 6000000000
     let t : Time := 6000000000
     let s := s₀.atTime t
     let p := pl.val
     (s.almOn = true) ∧
     (s.planState p = 2) ∧
     ((s.plan p).wkDue = some d) ∧
     (s.delayDue (d + (s.wkPeriod p - s.wkPrew p) - s.wkPeriod p) = true)) ∧
    (let s₀ : State := plan true false 10 2 0
     let pl : Fin 16 := 15
     let d : Time := 6000000000
     let t : Time := 6000000000
     let s := s₀.atTime t
     let p := pl.val
     (s.almOn = true) ∧
     (2 ≤ s.planState p) ∧
     ((s.plan p).wkDue = some d) ∧
     (s.delayDue d = true)) ∧
    (let s₀ : State := (let u := plan true false 10 1 3; u.setAlm { u.alm with edges := 0x800000000000, resets := 0x800000000000 })
     let di : Fin 48 := 47
     let t : Time := 6000000000
     let s := s₀.atTime t
     (s.almOn = true) ∧
     (s.alm.resets.getLsbD di = true)) ∧
    (let s₀ : State := (let u := plan true false 10 1 3; u.setAlm { u.alm with edges := 0x800000000000, resets := 0x800000000000 })
     let di : Fin 48 := 47
     let t : Time := 6000000000
     let s := s₀.atTime t
     (s.almOn = true) ∧
     (s.alm.edges.getLsbD di = true)) ∧
    (let s₀ : State := plan false false 10 1 3
     let pl : Fin 16 := 15
     let lv : Fin 4 := 0
     let t : Time := 6000000000
     let s := s₀.atTime t
     let p := pl.val
     let k := s.planLevel p
     let pat := s.fld (R.ALM_LCFG p lv) F.ALM_LCFG_PAT
     let on := tabGet (dflt true) (s.plan p).pat (lv.val + 1)
     let ends := tabGet (dflt 0) (s.plan p).patAt (lv.val + 1) + if on || pat == 1 then 500000000 else 1500000000
     (s.almOn = true) ∧
     ((pat = 1 ∨ pat = 2)) ∧
     ((s.planState p = 1 ∧ lv.val + 1 ≤ k ∨ s.planState p = 3 ∧ lv.val = 0)) ∧
     (ends ≤ s.now)) ∧
    (let s₀ : State := plan false false 10 1 3
     let t : Time := 6000000000
     let s := s₀.atTime t
     (s.almOn = true) ∧
     (s.powered 8 = true) ∧
     (s₀.sound = true)) := by decide +kernel

theorem test_Snapshots_meets :
    (let s₀ : State := twins id |>.setAlm { up.alm with stampTick := 2 }
     let t : Time := 6000000000
     let s := s₀.atTime t
     (s.almOn = true) ∧
     (1 < s.alm.stampTick) ∧
     (s.gate.boundaryAt + s.img.exec.tickMs * 1000000 ≤ s.now)) ∧
    (let s₀ : State := solo
     let c : CoreId := .b
     let x : Snap := aSnap
     let b : Bool := true
     ((s₀.core c).inactive = some (x, b)) ∧
     ((s₀.core c).live = true) ∧
     (s₀.almOn = true)) ∧
    (let s₀ : State := solo
     let c : CoreId := .b
     let x : Snap := aSnap
     (s₀.almOn = true) ∧
     (s₀.gate.idle = false) ∧
     (s₀.twinMode = false) ∧
     (s₀.resyncing = false) ∧
     (s₀.server_ = c) ∧
     ((s₀.core c).live = true) ∧
     ((s₀.core c).cmtd = true) ∧
     ((s₀.core c).inactive = some (x, true)) ∧
     (s₀.gate.checking = false)) ∧
    (let s₀ : State := twinsReady
     let x : Snap := aSnap
     (s₀.almOn = true) ∧
     (s₀.gate.idle = false) ∧
     (s₀.twinMode = true) ∧
     (s₀.gate.checking = false) ∧
     ((s₀.tickEnded = true ∨ s₀.gate.late = none)) ∧
     ((∀ d ∈ [CoreId.a, CoreId.b], (s₀.core d).live = true ∧ (s₀.core d).cmtd = true ∧
             (s₀.core d).inactive = some (x, true)))) ∧
    (let s₀ : State := (let u : State := twins (fun k => { k with inactive := some (aSnap, true) }); let u := u.setCore .b { u.core .b with cmtd := true }; u.setGate { u.gate with discarded := true })
     let c : CoreId := .b
     let x : Snap := aSnap
     (s₀.almOn = true) ∧
     (s₀.gate.idle = false) ∧
     (s₀.twinMode = true) ∧
     (s₀.gate.checking = false) ∧
     (s₀.tickEnded = true) ∧
     ((s₀.core c).live = true) ∧
     ((s₀.core c).cmtd = true) ∧
     ((s₀.core c).inactive = some (x, true)) ∧
     ((s₀.core (twin c)).cmtd = false)) := by decide +kernel

theorem test_CoresLeaveReset_meets :
    (let s₀ : State := beforeTick.setFlag R.TWN_STAT F.TWN_STAT_PERMB true
     let t : Time := 6000000000
     (s₀.sup.alarmReady = true) ∧
     (s₀.coreA.live = false) ∧
     (s₀.coreB.live = false) ∧
     (s₀.alm.stampTick = 1) ∧
     (s₀.almOn = true) ∧
     (s₀.sup.startAt + ((s₀.rd R.SYS_ARDY).toNat + 100) * 1000 ≤ (s₀.atTime t).now) ∧
     let c := .b
     (s₀.permIsolated c = true)) ∧
    (let s₀ : State := beforeTick
     let t : Time := 6000000000
     (s₀.sup.alarmReady = true) ∧
     (s₀.coreA.live = false) ∧
     (s₀.coreB.live = false) ∧
     (s₀.alm.stampTick = 1) ∧
     (s₀.almOn = true) ∧
     (s₀.sup.startAt + ((s₀.rd R.SYS_ARDY).toNat + 100) * 1000 ≤ (s₀.atTime t).now) ∧
     let c := .a
     (s₀.permIsolated c = false)) := by decide +kernel

theorem test_ItemComparison_meets :
    (let w : CWord := 3
     let w' : CWord := 4
     let e : Option CWord := none
     let e' : Option CWord := none
     ((w ≠ w' ∨ e ≠ e'))) ∧
    (let v : Nat := 3
     let v' : Nat := 4
     let p := 1
     let p' := 1
     ((v ≠ v' ∨ p ≠ p'))) := by decide +kernel

theorem test_TickDeadline_meets :
    (let s₀ : State := (let u : State := (twins id).setGate { up.gate with suspended := true }; u.setAlm { u.alm with stampTick := 2 })
     let t : Time := 6000000000
     ((s₀.atTime t).almOn = true) ∧
     (s₀.gate.checking = false) ∧
     (s₀.gate.idle = false) ∧
     (s₀.gate.suspended = true)) ∧
    (let s₀ : State := ((twins id).setCore .a { coreReset with live := true, cmtd := false }).setCore .b { coreReset with live := true, cmtd := false }
     let t : Time := 6000000000
     ((s₀.atTime t).almOn = true) ∧
     (s₀.gate.checking = false) ∧
     (s₀.gate.idle = false) ∧
     let s := s₀.atTime t
     let due := s.gate.tick + 1 < s.alm.stampTick ∧
       (s.gate.tick + 2 < s.alm.stampTick ∨ s.gate.boundaryAt + 200000 ≤ s.now)
     (¬ due)) ∧
    (let s₀ : State := (let u : State := ((twins id).setCore .a { coreReset with live := true, cmtd := false }).setCore .b { coreReset with live := true, cmtd := false }; u.setAlm { u.alm with stampTick := 2 })
     let t : Time := 6000000000
     ((s₀.atTime t).almOn = true) ∧
     (s₀.gate.checking = false) ∧
     (s₀.gate.idle = false) ∧
     let s := s₀.atTime t
     let due := s.gate.tick + 1 < s.alm.stampTick ∧
       (s.gate.tick + 2 < s.alm.stampTick ∨ s.gate.boundaryAt + 200000 ≤ s.now)
     (s₀.gate.suspended = false) ∧
     (due) ∧
     (s₀.coreA.live = true) ∧
     (s₀.coreB.live = true) ∧
     (s.twinMode = true) ∧
     (s₀.coreA.halted = false) ∧
     (s₀.coreB.halted = false) ∧
     (s₀.tickEnded = false) ∧
     (s₀.gate.late = none) ∧
     (s₀.coreA.cmtd = false) ∧
     (s₀.coreB.cmtd = false)) ∧
    (let s₀ : State := (let u : State := ((twins id).setCore .a { coreReset with live := true, cmtd := true }).setCore .b { coreReset with live := true, cmtd := false }; u.setAlm { u.alm with stampTick := 2 })
     let t : Time := 6000000000
     ((s₀.atTime t).almOn = true) ∧
     (s₀.gate.checking = false) ∧
     (s₀.gate.idle = false) ∧
     let s := s₀.atTime t
     let due := s.gate.tick + 1 < s.alm.stampTick ∧
       (s.gate.tick + 2 < s.alm.stampTick ∨ s.gate.boundaryAt + 200000 ≤ s.now)
     (s₀.gate.suspended = false) ∧
     (due) ∧
     (s₀.coreA.live = true) ∧
     (s₀.coreB.live = true) ∧
     (s.twinMode = true) ∧
     (s₀.coreA.halted = false) ∧
     (s₀.coreB.halted = false) ∧
     (s₀.tickEnded = false) ∧
     (s₀.gate.late = none) ∧
     (s₀.coreA.cmtd ≠ s₀.coreB.cmtd)) ∧
    (let s₀ : State := (let u : State := ((twins id).setCore .a { coreReset with live := true, cmtd := true }).setCore .b { coreReset with live := true, cmtd := true }; u.setAlm { u.alm with stampTick := 2 })
     let t : Time := 6000000000
     ((s₀.atTime t).almOn = true) ∧
     (s₀.gate.checking = false) ∧
     (s₀.gate.idle = false) ∧
     let s := s₀.atTime t
     let due := s.gate.tick + 1 < s.alm.stampTick ∧
       (s.gate.tick + 2 < s.alm.stampTick ∨ s.gate.boundaryAt + 200000 ≤ s.now)
     (s₀.gate.suspended = false) ∧
     (due) ∧
     (s₀.coreA.live = true) ∧
     (s₀.coreB.live = true) ∧
     (s.twinMode = true) ∧
     (s₀.coreA.halted = false) ∧
     (s₀.coreB.halted = false) ∧
     (s₀.tickEnded = false) ∧
     (s₀.gate.late = none) ∧
     (s₀.coreA.cmtd = true) ∧
     (s₀.coreB.cmtd = true)) ∧
    (let s₀ : State := (let u : State := (twins id).setCore .b { coreReset with live := true, halted := true, cause := 3 }; u.setAlm { u.alm with stampTick := 2 })
     let t : Time := 6000000000
     ((s₀.atTime t).almOn = true) ∧
     (s₀.gate.checking = false) ∧
     (s₀.gate.idle = false) ∧
     let s := s₀.atTime t
     let due := s.gate.tick + 1 < s.alm.stampTick ∧
       (s.gate.tick + 2 < s.alm.stampTick ∨ s.gate.boundaryAt + 200000 ≤ s.now)
     (s₀.gate.suspended = false) ∧
     (due) ∧
     (s₀.coreA.live = true) ∧
     (s₀.coreB.live = true) ∧
     (s.twinMode = true) ∧
     let c := .b
     ((s₀.core c).halted = true) ∧
     ((s₀.core (twin c)).halted = false)) ∧
    (let s₀ : State := (let u : State := (solo.setCore .b { coreReset with live := true }); u.setAlm { u.alm with stampTick := 2 })
     let t : Time := 6000000000
     ((s₀.atTime t).almOn = true) ∧
     (s₀.gate.checking = false) ∧
     (s₀.gate.idle = false) ∧
     let s := s₀.atTime t
     let due := s.gate.tick + 1 < s.alm.stampTick ∧
       (s.gate.tick + 2 < s.alm.stampTick ∨ s.gate.boundaryAt + 200000 ≤ s.now)
     (s₀.gate.suspended = false) ∧
     (due) ∧
     (s.twinMode = false) ∧
     (s₀.tickEnded = false) ∧
     ((s.core s.server_).live = true) ∧
     ((s.core s.server_).cmtd = false)) := by decide +kernel

theorem test_SelfCheckVerdict_meets :
    (let s₀ : State := checking
     let fa : Fin 5 := 2
     let fb : Fin 5 := 0
     (s₀.gate.checking = true) ∧
     (fa.val ≠ 0) ∧
     (fa.val ≠ 4) ∧
     (fb.val = 0)) ∧
    (let s₀ : State := checking
     let fa : Fin 5 := 0
     let fb : Fin 5 := 1
     (s₀.gate.checking = true) ∧
     (fa.val = 0) ∧
     (fb.val ≠ 0) ∧
     (fb.val ≠ 4)) ∧
    (let s₀ : State := checking
     let fa : Fin 5 := 1
     let fb : Fin 5 := 4
     let ca : Word := 7
     let cb : Word := 7
     (s₀.gate.checking = true) ∧
     let same := s₀.coreA.checked = s₀.coreB.checked
     (fa.val ≠ 0) ∧
     (fb.val ≠ 0) ∧
     ((fa.val = 4 → fb.val = 4 → (ca = cb ↔ same)))) ∧
    (let s₀ : State := checking
     let fa : Fin 5 := 4
     let fb : Fin 5 := 0
     let ca : Word := 7
     let cb : Word := 7
     (s₀.gate.checking = true) ∧
     let same := s₀.coreA.checked = s₀.coreB.checked
     ((ca = cb ↔ same)) ∧
     (fa.val = 4) ∧
     (fb.val = 0)) ∧
    (let s₀ : State := checking
     let fa : Fin 5 := 0
     let fb : Fin 5 := 4
     let ca : Word := 7
     let cb : Word := 7
     (s₀.gate.checking = true) ∧
     let same := s₀.coreA.checked = s₀.coreB.checked
     ((ca = cb ↔ same)) ∧
     (fa.val = 0) ∧
     (fb.val = 4)) ∧
    (let s₀ : State := checking
     let fa : Fin 5 := 0
     let fb : Fin 5 := 0
     let ca : Word := 7
     let cb : Word := 8
     (s₀.gate.checking = true) ∧
     let same := s₀.coreA.checked = s₀.coreB.checked
     (fa.val = 0) ∧
     (fb.val = 0) ∧
     (¬ (ca = cb ↔ same))) := by decide +kernel

theorem test_CoreMemoryEvents_meets :
    (let s₀ : State := twins id
     let c : CoreId := .a
     ((s₀.core c).live = true) ∧
     (s₀.islandOn 9 = true)) ∧
    (let s₀ : State := twins id
     let c : CoreId := .a
     let line : BitVec 27 := 0x400081
     ((s₀.core c).live = true) ∧
     let k := s₀.core c
     (s₀.islandOn 9 = true) ∧
     ((lineOf k.pc ≠ line.toNat ∨ s₀.running c = false))) ∧
    (let s₀ : State := twins id
     let c : CoreId := .a
     let line : BitVec 27 := 0x400080
     ((s₀.core c).live = true) ∧
     let k := s₀.core c
     (s₀.islandOn 9 = true) ∧
     (lineOf k.pc = line.toNat) ∧
     (s₀.running c = true)) ∧
    (let s₀ : State := twins id
     let c : CoreId := .a
     let t : Time := 6000000000
     ((s₀.core c).live = true) ∧
     let s := s₀.atTime t
     (s.twinMode = true)) ∧
    (let s₀ : State := solo
     let c : CoreId := .b
     let t : Time := 6000000000
     ((s₀.core c).live = true) ∧
     let s := s₀.atTime t
     (s.twinMode = false) ∧
     (s.server_ = c)) ∧
    (let s₀ : State := solo.setCore .a { coreReset with live := true }
     let c : CoreId := .a
     let t : Time := 6000000000
     ((s₀.core c).live = true) ∧
     let s := s₀.atTime t
     (s.twinMode = false) ∧
     (s.server_ ≠ c)) ∧
    (let s₀ : State := reading (BitVec.ofNat 32 R.PWR_DOM)
     let c : CoreId := .a
     let wd : BitVec 5 := 3
     let a : Word := BitVec.ofNat 32 R.PWR_DOM
     let t : Time := 6000000000
     ((s₀.core c).live = true) ∧
     let s := s₀.atTime t
     (s.almOn = true) ∧
     (s.gate.checking = false) ∧
     ((s.core c).solo = true) ∧
     ((s.core c).wait = .read wd a) ∧
     (s.waitsAt (twin c) = none) ∧
     (s.powered (regDomain a.toNat) = true) ∧
     (a.toNat ≠ R.RTC_SEC) ∧
     (a.toNat ≠ R.RTC_CENT)) := by decide +kernel

theorem test_Resynchronisation_meets :
    (let s₀ : State := resync 3
     let wd : BitVec 5 := 4
     (s₀.sound = true) ∧
     let waits := (s₀.core s₀.server_).cmtd = true ∧ (s₀.core s₀.server_).wait = .evw wd
     (s₀.resyncing = true) ∧
     (s₀.fld R.TWN_STAT F.TWN_STAT_STAGE = 3) ∧
     (waits)) ∧
    (let s₀ : State := (let u := resync 3; u.setCore .b { u.core .b with cmtd := false })
     (s₀.sound = true) ∧
     (s₀.resyncing = true) ∧
     (s₀.fld R.TWN_STAT F.TWN_STAT_STAGE = 3) ∧
     ((s₀.core s₀.server_).cmtd = false)) ∧
    (let s₀ : State := resync 5
     let t : Time := 6000000000
     (s₀.sound = true) ∧
     let s := s₀.atTime t
     (s.resyncing = true) ∧
     (s.fld R.TWN_STAT F.TWN_STAT_STAGE = 5)) ∧
    (let s₀ : State := resync 3
     let v : BitVec 2 := 3
     (s₀.sound = true) ∧
     (v.toNat = 3)) ∧
    (let s₀ : State := resync 4
     let v : BitVec 2 := 1
     let t : Time := 6000000000
     (s₀.sound = true) ∧
     let s := s₀.atTime t
     (v.toNat = 1) ∧
     (s.lockOpen = false)) ∧
    (let s₀ : State := unlocked solo
     let v : BitVec 2 := 1
     let t : Time := 6000000000
     (s₀.sound = true) ∧
     let s := s₀.atTime t
     (v.toNat = 1) ∧
     (s.lockOpen = true) ∧
     (s.permIsolated .a = false)) ∧
    (let s₀ : State := permB
     let v : BitVec 2 := 2
     let t : Time := 6000000000
     (s₀.sound = true) ∧
     let s := s₀.atTime t
     (v.toNat = 2) ∧
     (s.lockOpen = true) ∧
     (s.permIsolated .b = true)) := by decide +kernel

theorem test_CrossingsAreQueues_meets :
    (let s : State := crossed (.supTo 15)
     let x : Crossing := .supTo 15
     (s.sound = true) ∧
     let e := crossEnds x
     (s.islandRuns e.2.1 = true) ∧
     let y := 31
     (y ≠ e.1)) ∧
    (let s : State := crossed .aonLim
     let x : Crossing := .aonLim
     let w : BitVec 64 := 3
     let l : List (BitVec 64) := [4]
     (s.sound = true) ∧
     let e := crossEnds x
     let c := s.cross e.1
     (s.islandRuns e.2.1 = true) ∧
     (s.islandRuns e.2.2 = true) ∧
     (c.fifo = w :: l) ∧
     let y := 26
     (y ≠ e.1)) ∧
    (let s : State := crossed (.supTo 15)
     let x : Crossing := .supTo 15
     (s.sound = true) ∧
     let e := crossEnds x
     ((s.islandRuns e.2.1 = false ∨ s.islandRuns e.2.2 = false))) := by decide +kernel

theorem test_IslandFaults_meets :
    (let s₀ : State := up
     let i : Fin 16 := 13
     let t : Time := 6000000000
     (s₀.sup.running = true) ∧
     let s := s₀.atTime t
     (s.islandRuns i = true)) ∧
    (let s₀ : State := lockWait 10
     let i : Fin 16 := 10
     (s₀.sup.running = true) ∧
     ((∃ e ∈ s₀.sup.lockWait, e.1 = i.val))) ∧
    (let s₀ : State := lockWait 10
     let i : Fin 16 := 10
     let t : Time := 0
     (s₀.sup.running = true) ∧
     (s₀.sup.lockWait.find? (fun e => e.1 == i.val) = some (i.val, t))) ∧
    (let s₀ : State := up
     (s₀.sup.running = true)) ∧
    (let s₀ : State := up
     let d : Fin 11 := 10
     (s₀.sup.running = true) ∧
     (s₀.powered d = true) ∧
     ((4 ≤ d.val ∨ (2 ≤ d.val ∧ s₀.twinMode = true ∧ s₀.permDomain d = false))) ∧
     (s₀.sup.waiting = []) ∧
     (s₀.sup.active = none)) ∧
    (let s₀ : State := up
     let d : Fin 11 := 1
     (s₀.sup.running = true) ∧
     (d.val = 1) ∧
     (s₀.sup.restartReq = none)) ∧
    (let s₀ : State := (up.setFld R.TWN_STAT F.TWN_STAT_MODE 1).setCore .a { coreReset with live := true, solo := true }
     (s₀.sup.running = true) ∧
     (s₀.powered 2 = true) ∧
     (s₀.permDomain 2 = false) ∧
     (s₀.servesAlone .a = true) ∧
     (s₀.sup.restartReq = none)) ∧
    (let s₀ : State := up
     let d : Fin 11 := 0
     (s₀.sup.running = true) ∧
     (d.val = 0)) ∧
    (let s₀ : State := up
     let t : Time := 6000000000
     (s₀.sup.running = true) ∧
     let s := s₀.atTime t
     (s.fld R.CLK_REF F.CLK_REF_SRC = 0)) ∧
    (let s₀ : State := up.setFld R.CLK_REF F.CLK_REF_SRC 1
     let t : Time := 6000000000
     (s₀.sup.running = true) ∧
     let s := s₀.atTime t
     (s.fld R.CLK_REF F.CLK_REF_SRC ≠ 0)) := by decide +kernel

theorem test_DomainCycles_meets :
    (let s₀ : State := cycWait
     let d : Nat := 7
     let cause : Nat := 1
     let l : List (Nat × Nat) := []
     let t : Time := 6000000000
     (s₀.sup.running = true) ∧
     let s := s₀.atTime t
     (s.sup.active = none) ∧
     (s.sup.waiting = (d, cause) :: l) ∧
     (4 ≤ d) ∧
     (d ≤ 10) ∧
     ((d = 8 → s.copying = false)) ∧
     (s.powered d = true) ∧
     ((s.recentCycles d s.now < 2 ∨ cause = 4))) ∧
    (let s₀ : State := cycWait.setSup { cycWait.sup with history := [(7, 5900000000), (7, 5990000000)] }
     let d : Nat := 7
     let cause : Nat := 1
     let l : List (Nat × Nat) := []
     let t : Time := 6000000000
     (s₀.sup.running = true) ∧
     let s := s₀.atTime t
     (s.sup.active = none) ∧
     (s.sup.waiting = (d, cause) :: l) ∧
     (4 ≤ d) ∧
     (d ≤ 10) ∧
     ((d = 8 → s.copying = false)) ∧
     (s.powered d = true) ∧
     (2 ≤ s.recentCycles d s.now) ∧
     (cause ≠ 4)) ∧
    (let s₀ : State := cycRuns 7
     let d : Nat := 7
     let cause : Nat := 1
     let t0 : Time := 0
     let t : Time := 6000000000
     (s₀.sup.running = true) ∧
     let s := s₀.atTime t
     let b := true
     (s.sup.active = some (d, cause, t0)) ∧
     ((d = 5 → b = true)) ∧
     (s.heldOff d = false)) ∧
    (let s₀ : State := cycRuns 5
     let cause : Nat := 1
     let t0 : Time := 0
     let t : Time := 6000000000
     (s₀.sup.running = true) ∧
     let s := s₀.atTime t
     (s.sup.active = some (5, cause, t0)) ∧
     (s.sup.restartReq = none)) := by decide +kernel

theorem test_LockAndServiceRequests_meets :
    (let code : BitVec 16 := 0x1A5F
     (code.toNat = 0x1A5F)) ∧
    (let code : BitVec 16 := 0x1A5E
     (code.toNat ≠ 0x1A5F)) ∧
    (let s₀ : State := unlocked up
     (s₀.lockOpen = true)) ∧
    (let s₀ : State := up
     (s₀.lockOpen = false)) ∧
    (let s₀ : State := unlocked up
     let t : Time := 600000000000
     let s := s₀.atTime t
     (s.lockOpen = true) ∧
     (s.sup.lastLk + 600000000000 ≤ s.now)) ∧
    (let s₀ : State := unlocked up
     let t : Time := 599999999999
     let s := s₀.atTime t
     (s.lockOpen = true) ∧
     (s.now < s.sup.lastLk + 600000000000)) ∧
    (let s₀ : State := up
     let steps : BitVec 16 := 0xFFFF
     let t : Time := 600000000000
     let s := s₀.atTime t
     (steps.toNat ≠ 0) ∧
     (s.lockOpen = false)) ∧
    (let s₀ : State := unlocked up
     let steps : BitVec 16 := 0xFFFF
     let t : Time := 600000000000
     let s := s₀.atTime t
     (steps.toNat ≠ 0) ∧
     (s.lockOpen = true)) ∧
    (let s₀ : State := unlocked up
     let dom : BitVec 4 := 11
     let t : Time := 600000000000
     let s := s₀.atTime t
     (s.lockOpen = true) ∧
     ((dom.toNat < 2 ∨ 10 < dom.toNat))) ∧
    (let s₀ : State := unlocked solo
     let dom : BitVec 4 := 2
     let t : Time := 600000000000
     let s := s₀.atTime t
     (s.lockOpen = true) ∧
     (2 ≤ dom.toNat) ∧
     (dom.toNat < 4) ∧
     (s.twinMode = false)) ∧
    (let s₀ : State := unlocked up
     let dom : BitVec 4 := 10
     let t : Time := 599999999999
     let s := s₀.atTime t
     (s.lockOpen = true) ∧
     (2 ≤ dom.toNat) ∧
     (dom.toNat ≤ 10) ∧
     (s.sup.pwrReq = none) ∧
     ((4 ≤ dom.toNat ∨ (s.twinMode = true ∧ s.coreA.live = true ∧ s.coreB.live = true)))) ∧
    (let s₀ : State := up
     let dom : BitVec 4 := 4
     let t : Time := 600000000000
     let s := s₀.atTime t
     (s.lockOpen = false) ∧
     (dom.toNat ≠ 0)) := by decide +kernel

theorem test_DigitalInputs_meets :
    (let s₀ : State := di false
     let t : Time := 6000000000
     let s := s₀.atTime t
     (s.dioOn = true)) ∧
    (let s₀ : State := dioOff
     let t : Time := 6000000000
     let s := s₀.atTime t
     (s.dioOn = false)) ∧
    (let s₀ : State := di true
     let n : Fin 48 := 15
     let b : Bool := false
     let t : Time := 6000000000
     let s := s₀.atTime t
     let u := s.setAbit (R.DIO_DIST 0) n b
     ((u.almOn = false ∨ u.alm.di.getLsbD n = b))) ∧
    (let s₀ : State := di false
     let n : Fin 48 := 15
     let b : Bool := true
     let t : Time := 6000000000
     let s := s₀.atTime t
     let u := s.setAbit (R.DIO_DIST 0) n b
     (u.almOn = true) ∧
     (u.alm.di.getLsbD n = !b)) ∧
    (let s₀ : State := di false
     let k : Fin 16 := 15
     let b : Bool := true
     let edge := s₀.fld (R.DIO_DICFG k) F.DIO_DICFG_EDGE
     (s₀.dioOn = true) ∧
     ((edge = 2 ∨ edge = if b then 0 else 1))) ∧
    (let s₀ : State := dio 0
     let k : Fin 16 := 15
     let b : Bool := false
     let edge := s₀.fld (R.DIO_DICFG k) F.DIO_DICFG_EDGE
     (edge ≠ 2) ∧
     ((edge ≠ if b then 0 else 1))) ∧
    (let m : BitVec 16 := 15
     (m.toNat < 16)) ∧
    (let m : BitVec 16 := 16
     (16 ≤ m.toNat)) ∧
    (let s₀ : State := di false
     (s₀.powered 8 = true)) ∧
    (let s₀ : State := di false
     (s₀.dioOn = true)) ∧
    (let s₀ : State := di false
     let n : Fin 48 := 15
     let i : BitVec 16 := 299
     let t : Time := 6000000000
     let s := s₀.atTime t
     (s.dioOn = true) ∧
     (s.flag (R.DIO_DICFG n) F.DIO_DICFG_LMON = true) ∧
     (2 ≤ s.fld (R.DIO_DICFG n) F.DIO_DICFG_TYPE) ∧
     (i.toNat < 300) ∧
     (s.abit (R.DIO_DIWB 0) n = false)) ∧
    (let s₀ : State := di false
     let n : Fin 48 := 15
     let i : BitVec 16 := 4095
     let t : Time := 6000000000
     let s := s₀.atTime t
     (s.dioOn = true) ∧
     (s.flag (R.DIO_DICFG n) F.DIO_DICFG_LMON = true) ∧
     (2 ≤ s.fld (R.DIO_DICFG n) F.DIO_DICFG_TYPE) ∧
     (300 ≤ i.toNat)) ∧
    (let s₀ : State := di true
     let n : Fin 48 := 15
     let i : BitVec 16 := 4095
     let t : Time := 6000000000
     let s := s₀.atTime t
     (s.dioOn = true) ∧
     (s.flag (R.DIO_DICFG n) F.DIO_DICFG_LMON = true) ∧
     (2 ≤ s.fld (R.DIO_DICFG n) F.DIO_DICFG_TYPE) ∧
     (500 ≤ i.toNat) ∧
     (s.abit (R.DIO_DIWB 0) n = true)) ∧
    (let s₀ : State := di false
     let n : Fin 48 := 15
     let i : BitVec 16 := 299
     let t : Time := 6000000000
     let s := s₀.atTime t
     (s.dioOn = true) ∧
     (s.flag (R.DIO_DICFG n) F.DIO_DICFG_LMON = true) ∧
     (2 ≤ s.fld (R.DIO_DICFG n) F.DIO_DICFG_TYPE) ∧
     (i.toNat < 500)) := by decide +kernel

theorem test_OutputCommands_meets :
    (let n : BitVec 16 := 48
     let k := n.toNat
     (48 ≤ k)) ∧
    (let s₀ : State := (dio 0).setFlag (R.DIO_DOCFG 47) F.DIO_DOCFG_PAIR true
     let n : BitVec 16 := 47
     let t : Time := 6000000000
     let s := s₀.atTime t
     let k := n.toNat
     (k < 48) ∧
     (s.flag (R.DIO_DOCFG k) F.DIO_DOCFG_PAIR = true) ∧
     (k % 2 = 1)) ∧
    (let s₀ : State := (dio 0).setOwner 47 3
     let n : BitVec 16 := 47
     let t : Time := 6000000000
     let s := s₀.atTime t
     let k := n.toNat
     (k < 48) ∧
     ((s.flag (R.DIO_DOCFG k) F.DIO_DOCFG_PAIR = false ∨ k % 2 = 0)) ∧
     (s.owner k ≠ 0)) ∧
    (let s₀ : State := dio 3
     let n : BitVec 16 := 47
     let t : Time := 6000000000
     let s := s₀.atTime t
     let k := n.toNat
     (s₀.sound = true) ∧
     (k < 48) ∧
     (s.flag (R.DIO_DOCFG k) F.DIO_DOCFG_PAIR = false) ∧
     (s.owner k = 0) ∧
     (s.gate.applied = true) ∧
     ((s.out k).pulse = none) ∧
     (s.islandOn 6 = true) ∧
     (s.groupState (k / 12) = 3)) ∧
    (let s₀ : State := ((dio 0).setAbit (R.TRP_OUT 0) 47 true)
     let n : BitVec 16 := 47
     let t : Time := 6000000000
     let s := s₀.atTime t
     let k := n.toNat
     (s₀.sound = true) ∧
     (k < 48) ∧
     (s.flag (R.DIO_DOCFG k) F.DIO_DOCFG_PAIR = false) ∧
     (s.owner k = 0) ∧
     (s.gate.applied = true) ∧
     ((s.out k).pulse = none) ∧
     (s.islandOn 6 = true) ∧
     (s.groupState (k / 12) ≤ 2) ∧
     (s.tripAsserted k = true)) ∧
    (let s₀ : State := ((dio 0).wr (R.DIO_DOST 47) 0x00100000)
     let n : BitVec 16 := 47
     let t : Time := 6000000000
     let s := s₀.atTime t
     let k := n.toNat
     (s₀.sound = true) ∧
     (k < 48) ∧
     (s.flag (R.DIO_DOCFG k) F.DIO_DOCFG_PAIR = false) ∧
     (s.owner k = 0) ∧
     (s.gate.applied = true) ∧
     ((s.out k).pulse = none) ∧
     (s.islandOn 6 = true) ∧
     (s.groupState (k / 12) ≤ 2) ∧
     (s.tripAsserted k = false) ∧
     (s.diag k 4 = true)) ∧
    (let s₀ : State := dio 2
     let n : BitVec 16 := 47
     let on : Bool := true
     let t : Time := 6000000000
     let s := s₀.atTime t
     let k := n.toNat
     (s₀.sound = true) ∧
     (k < 48) ∧
     (s.flag (R.DIO_DOCFG k) F.DIO_DOCFG_PAIR = false) ∧
     (s.owner k = 0) ∧
     (s.gate.applied = true) ∧
     ((s.out k).pulse = none) ∧
     (s.islandOn 6 = true) ∧
     (s.groupState (k / 12) = 2) ∧
     (s.tripAsserted k = false) ∧
     (s.diag k 4 = false) ∧
     (on = true) ∧
     (s.driven k = false)) ∧
    (let s₀ : State := dio 0
     let n : BitVec 16 := 47
     let t : Time := 6000000000
     let s := s₀.atTime t
     let k := n.toNat
     (s₀.sound = true) ∧
     (k < 48) ∧
     (s.flag (R.DIO_DOCFG k) F.DIO_DOCFG_PAIR = false) ∧
     (s.owner k = 0) ∧
     (s.gate.applied = true) ∧
     ((s.out k).pulse = none) ∧
     (s.islandOn 6 = true) ∧
     (s.groupState (k / 12) ≤ 1) ∧
     (s.tripAsserted k = false) ∧
     (s.diag k 4 = false)) ∧
    (let s₀ : State := (dio 0).setFld R.CLK_LOCK F.CLK_LOCK_LOCK 0x7FBF
     let n : BitVec 16 := 47
     let t : Time := 6000000000
     let s := s₀.atTime t
     let k := n.toNat
     (s₀.sound = true) ∧
     (k < 48) ∧
     (s.flag (R.DIO_DOCFG k) F.DIO_DOCFG_PAIR = false) ∧
     (s.owner k = 0) ∧
     (s.gate.applied = true) ∧
     (s.islandOn 6 = false)) ∧
    (let s₀ : State := (dio 0).setFlag (R.DIO_DOCFG 46) F.DIO_DOCFG_PAIR true
     let n : BitVec 16 := 46
     let t : Time := 6000000000
     let s := s₀.atTime t
     let k := n.toNat
     (s₀.sound = true) ∧
     (k < 48) ∧
     (k % 2 = 0) ∧
     (s.flag (R.DIO_DOCFG k) F.DIO_DOCFG_PAIR = true) ∧
     (s.owner k = 0) ∧
     (s.gate.applied = true)) := by decide +kernel

theorem test_OutputDiagnostics_meets :
    (let s₀ : State := doOn 47 (dio 0)
     let n : Fin 48 := 47
     let t : Time := 6000000000
     (s₀.dioOn = true) ∧
     (s₀.flag (R.DIO_DOCFG n) F.DIO_DOCFG_PAIR = false) ∧
     let s := s₀.atTime t
     let note (u : State) (code : Nat) :=
       let w := u.measureReg (R.DIO_DOMEAS n)
       w.raise code n (w.outData n)
     let mark (s : State) (b code : Nat) :=
       let u := s.wr (R.DIO_DOST n) (putBit (putBit (s.rd (R.DIO_DOST n)) (16 + b) true) (8 + b) true)
       if (s.rd (R.DIO_DOST n)).getLsbD (8 + b) then u else note u code
     let recent := (s.now :: (s.out n).therm).filter (fun t => s.now < t + 10000000000)
     let u := (mark s 3 0x43)
     let u := u.setOut n { u.out n with therm := recent }
     ((recent.length < 8 ∨ u.diag n 4 = true))) ∧
    (let s₀ : State := doHot
     let n : Fin 48 := 47
     let t : Time := 6000000000
     (s₀.dioOn = true) ∧
     (s₀.flag (R.DIO_DOCFG n) F.DIO_DOCFG_PAIR = false) ∧
     let s := s₀.atTime t
     let note (u : State) (code : Nat) :=
       let w := u.measureReg (R.DIO_DOMEAS n)
       w.raise code n (w.outData n)
     let mark (s : State) (b code : Nat) :=
       let u := s.wr (R.DIO_DOST n) (putBit (putBit (s.rd (R.DIO_DOST n)) (16 + b) true) (8 + b) true)
       if (s.rd (R.DIO_DOST n)).getLsbD (8 + b) then u else note u code
     let recent := (s.now :: (s.out n).therm).filter (fun t => s.now < t + 10000000000)
     let u := (mark s 3 0x43)
     let u := u.setOut n { u.out n with therm := recent }
     (8 ≤ recent.length) ∧
     (u.diag n 4 = false)) ∧
    (let s₀ : State := doOn 47 (dio 0)
     let n : Fin 48 := 47
     let off : Bool := false
     (s₀.dioOn = true) ∧
     (s₀.flag (R.DIO_DOCFG n) F.DIO_DOCFG_PAIR = false) ∧
     (s₀.groupState (n.val / 12) ≤ 1) ∧
     (s₀.driven n = !off) ∧
     (s₀.flag (R.DIO_DOCFG n) (if off then F.DIO_DOCFG_OLOFF else F.DIO_DOCFG_OLON) = true) ∧
     ((off = true → s₀.diag n 5 = false))) ∧
    (let s₀ : State := ((dio 0).setFlag (R.DIO_DOCFG 47) F.DIO_DOCFG_OLOFF true).wr (R.DIO_DOST 47) 0x00200000
     let n : Fin 48 := 47
     let off : Bool := true
     (s₀.dioOn = true) ∧
     (s₀.flag (R.DIO_DOCFG n) F.DIO_DOCFG_PAIR = false) ∧
     (s₀.groupState (n.val / 12) ≤ 1) ∧
     (s₀.driven n = !off) ∧
     (s₀.flag (R.DIO_DOCFG n) (if off then F.DIO_DOCFG_OLOFF else F.DIO_DOCFG_OLON) = true) ∧
     (off = true) ∧
     (s₀.diag n 5 = true)) ∧
    (let s₀ : State := doHot
     let n : Fin 48 := 47
     (s₀.dioOn = true) ∧
     (s₀.flag (R.DIO_DOCFG n) F.DIO_DOCFG_PAIR = false) ∧
     (s₀.driven n = false)) ∧
    (let s₀ : State := doOn 47 (dio 0)
     let n : Fin 48 := 47
     (s₀.dioOn = true) ∧
     (s₀.flag (R.DIO_DOCFG n) F.DIO_DOCFG_PAIR = false) ∧
     (s₀.driven n = true)) ∧
    (let s₀ : State := (let u := dio 0; (u.setOut 3 { u.out 3 with onAt := some 0 }).setNow 5500000)
     let n : Fin 48 := 47
     let a : Fin 48 := 3
     (s₀.dioOn = true) ∧
     (s₀.flag (R.DIO_DOCFG n) F.DIO_DOCFG_PAIR = false) ∧
     (s₀.sound = true) ∧
     (s₀.driven n = false) ∧
     (s₀.lastOn n = some a.val)) ∧
    (let s₀ : State := doOn 47 (dio 0)
     let n : Fin 48 := 47
     let t : Time := 9400000000
     (s₀.dioOn = true) ∧
     (s₀.flag (R.DIO_DOCFG n) F.DIO_DOCFG_PAIR = false) ∧
     let s := s₀.atTime t
     (s₀.sound = true) ∧
     (s₀.islandOn 6 = true) ∧
     (s.pulseReady n = true)) ∧
    (let s₀ : State := doOn 47 (dio 0)
     let n : Fin 48 := 47
     let t : Time := 6000000000
     (s₀.dioOn = true) ∧
     (s₀.flag (R.DIO_DOCFG n) F.DIO_DOCFG_PAIR = false) ∧
     let s := s₀.atTime t
     (s.optime % 10000000 ≠ n.val * 200000)) ∧
    (let s₀ : State := (doOn 47 (dio 0)).setOut 47 { (dio 0).out 47 with pulse := some false }
     let n : Fin 48 := 47
     let t : Time := 6000000000
     (s₀.dioOn = true) ∧
     (s₀.flag (R.DIO_DOCFG n) F.DIO_DOCFG_PAIR = false) ∧
     let s := s₀.atTime t
     ((s.out n).pulse = some false)) := by decide +kernel

theorem test_PairScan_meets :
    (let s₀ : State := dio 0
     let t : Time := 6000000000
     let s := s₀.atTime t
     (s.dioOn = true) ∧
     (s.lockOpen = false)) ∧
    (let s₀ : State := unlocked (dio 2)
     let t : Time := 6000000000
     let s := s₀.atTime t
     (s.dioOn = true) ∧
     (s.lockOpen = true) ∧
     ((s.scanning = true ∨ ∃ g : Fin 4, 2 ≤ s.groupState g))) ∧
    (let s₀ : State := unlocked (dio 1)
     let t : Time := 6000000000
     let s := s₀.atTime t
     (s.dioOn = true) ∧
     (s.lockOpen = true) ∧
     (s.scanning = false) ∧
     ((∀ g : Fin 4, s.groupState g < 2))) ∧
    (let s₀ : State := unlocked (dio 2)
     let t : Time := 6000000000
     let s := s₀.atTime t
     (s.dioOn = true) ∧
     (s.lockOpen = true) ∧
     (s.scanning = false)) ∧
    (let s₀ : State := scanAt 1
     let t : Time := 6000000000
     let s := s₀.atTime t
     let pos := s.fld R.DIO_SCAN F.DIO_SCAN_POS
     (s₀.sound = true) ∧
     (s.dioOn = true) ∧
     (s.lockOpen = true) ∧
     (s.scanning = true) ∧
     (pos < 48)) ∧
    (let s₀ : State := scanAt 1
     let l : List (Fin 48) := [(46 : Fin 48)]
     let t : Time := 6000000000
     let s := s₀.atTime t
     let pos := s.fld R.DIO_SCAN F.DIO_SCAN_POS
     (s.dioOn = true) ∧
     (s.scanning = true) ∧
     (s.dio.scanPhase = 1) ∧
     ((s.out pos).pulse = some true) ∧
     ((∀ b ∈ l, s.driven b = true ∨ (s.members pos).contains b.val = true))) ∧
    (let s₀ : State := scanAt 2
     let t : Time := 6000000000
     let s := s₀.atTime t
     (s.dioOn = true) ∧
     (s.scanning = true) ∧
     (s.dio.scanPhase = 2)) ∧
    (let s₀ : State := scanAt 3
     let t : Time := 6000000000
     let s := s₀.atTime t
     let pos := s.fld R.DIO_SCAN F.DIO_SCAN_POS
     (s.dioOn = true) ∧
     (s.scanning = true) ∧
     (s₀.sound = true) ∧
     (s.dio.scanPhase = 3) ∧
     ((∀ k : Fin 48, pos < k.val → s.scannable k = false))) := by decide +kernel

theorem test_FieldSupplies_meets :
    (let s₀ : State := vf 0 []
     let g : Fin 4 := 3
     let v : BitVec 16 := 1919
     (s₀.sound = true) ∧
     (s₀.dioOn = true) ∧
     (s₀.groupState g = 0) ∧
     (v.toNat < 1920)) ∧
    (let s₀ : State := vf 0 []
     let v : BitVec 16 := 0xFFFF
     (s₀.sound = true) ∧
     (s₀.dioOn = true) ∧
     (1920 ≤ v.toNat)) ∧
    (let s₀ : State := vf 1 []
     let g : Fin 4 := 3
     let v : BitVec 16 := 0xFFFF
     (s₀.sound = true) ∧
     (s₀.dioOn = true) ∧
     (s₀.groupState g = 1) ∧
     (1960 ≤ v.toNat)) ∧
    (let s₀ : State := vf 0 []
     let g : Fin 4 := 3
     let v : BitVec 16 := 1599
     (s₀.sound = true) ∧
     (s₀.dioOn = true) ∧
     (s₀.groupState g = 0) ∧
     (s₀.scanning = false) ∧
     (v.toNat < 1600)) ∧
    (let s₀ : State := vf 0 []
     let g : Fin 4 := 3
     let v : BitVec 16 := 1199
     (s₀.sound = true) ∧
     (s₀.dioOn = true) ∧
     (s₀.groupState g ≠ 3) ∧
     (v.toNat < 1200) ∧
     let i := 11
     (i < 12)) ∧
    (let s₀ : State := vf 0 []
     let g : Fin 4 := 3
     let v : BitVec 16 := 1199
     let t : Time := 6000000000
     (s₀.sound = true) ∧
     (s₀.dioOn = true) ∧
     let s := (s₀.atTime t).setFld (R.DIO_VFST g) F.DIO_VFST_VF v.toNat
     (s₀.groupState g ≠ 3) ∧
     (v.toNat < 1200) ∧
     let i := 4
     (i < 12) ∧
     (s.flag (R.DIO_DOCFG (s.lead (12 * g.val + i))) F.DIO_DOCFG_NORST = true)) ∧
    (let s₀ : State := vf 2 []
     let g : Fin 4 := 3
     let v : BitVec 16 := 0xFFFF
     let n : Nat := 36
     let m : Nat := 40
     let l : List Nat := []
     let t : Time := 6000000000
     (s₀.sound = true) ∧
     (s₀.dioOn = true) ∧
     let s := (s₀.atTime t).setFld (R.DIO_VFST g) F.DIO_VFST_VF v.toNat
     ((s₀.groupState g = 2 ∧ 1700 ≤ v.toNat ∨ s₀.groupState g = 3 ∧ 1800 ≤ v.toNat)) ∧
     (((s.enterGroup g 4).setReleased (groupOuts g) false).slotsOf g = n :: m :: l)) ∧
    (let s₀ : State := vf 4 [36, 40]
     let g : Fin 4 := 3
     let v : BitVec 16 := 0xFFFF
     let n : Nat := 36
     let m : Nat := 40
     let l : List Nat := []
     let t : Time := 6000000000
     (s₀.sound = true) ∧
     (s₀.dioOn = true) ∧
     let s := (s₀.atTime t).setFld (R.DIO_VFST g) F.DIO_VFST_VF v.toNat
     (s₀.groupState g = 4) ∧
     ((s.group g).entry + (s.group g).next * 2000000 ≤ s.now) ∧
     ((s.group g).slots = n :: m :: l)) ∧
    (let s₀ : State := vf 4 [36]
     let g : Fin 4 := 3
     let v : BitVec 16 := 0xFFFF
     let n : Nat := 36
     let t : Time := 6000000000
     (s₀.sound = true) ∧
     (s₀.dioOn = true) ∧
     let s := (s₀.atTime t).setFld (R.DIO_VFST g) F.DIO_VFST_VF v.toNat
     (s₀.groupState g = 4) ∧
     ((s.group g).entry + (s.group g).next * 2000000 ≤ s.now) ∧
     ((s.group g).slots = [n]) ∧
     let i := 0
     (i < 12)) := by decide +kernel

theorem test_DigitalConfiguration_meets :
    (let a : Nat := R.DIO_DOST 0
     (dioConfigAddr a = false)) ∧
    (let s₀ : State := dioOff
     let a : Nat := R.DIO_DOCFG 47
     let t : Time := 6000000000
     let s := s₀.atTime t
     (dioConfigAddr a = true) ∧
     (s.dioOn = false)) ∧
    (let s₀ : State := dio 0
     let a : Nat := R.DIO_DOCFG 47
     let v : Word := 10
     let t : Time := 6000000000
     let s := s₀.atTime t
     let m := dioMask a
     let new := (s.rd a &&& ~~~m) ||| (v &&& m)
     (dioConfigAddr a = true) ∧
     (s.dioOn = true) ∧
     (s.lockOpen = false) ∧
     (new ≠ s.rd a)) ∧
    (let s₀ : State := unlocked (dio 0)
     let a : Nat := R.DIO_DOCFG 47
     let v : Word := 11
     let t : Time := 6000000000
     let s := s₀.atTime t
     (dioConfigAddr a = true) ∧
     (s.dioOn = true) ∧
     (s.lockOpen = true) ∧
     (((R.DIO_DICFG 0 ≤ a ∧ a < R.DIO_DICFG 16 ∧ fldOf F.DIO_DICFG_EDGE v = 3) ∨
             (R.DIO_DOCFG 0 ≤ a ∧ a ≤ R.DIO_DOCFG 47 ∧ 10 < fldOf F.DIO_DOCFG_PULSE v)))) ∧
    (let s₀ : State := unlocked (dio 0)
     let a : Nat := R.DIO_DOCFG 47
     let v : Word := 10
     let t : Time := 6000000000
     let s := s₀.atTime t
     (dioConfigAddr a = true) ∧
     (s.dioOn = true) ∧
     (s.lockOpen = true) ∧
     (dioRange a v = false)) := by decide +kernel

theorem test_AxisMoves_meets :
    (let ax : BitVec 16 := 6
     let a := ax.toNat
     (6 ≤ a)) ∧
    (let s : State := gls 0 1 id
     let ax : BitVec 16 := 5
     let a := ax.toNat
     (a < 6) ∧
     ((s.powered 10 = false ∨ s.axState a = 0 ∨ 4 ≤ s.axState a))) ∧
    (let s : State := gls 1 0 id
     let ax : BitVec 16 := 5
     let v : Word := 5
     let a := ax.toNat
     (a < 6) ∧
     ((s.motionBarred a = true ∨ s.limitAhead a (Int.sign (v.toInt - s.axPos a)) = true))) ∧
    (let s : State := gls 1 1 id
     let ax : BitVec 16 := 5
     let v : Word := 0x80000000
     let a := ax.toNat
     (inSpan (s.axPos a + v.toInt) = true)) ∧
    (let s : State := gls 2 1 id
     let ax : BitVec 16 := 5
     let v : Word := 0x7FFFFFFF
     let a := ax.toNat
     (a < 6) ∧
     (s.powered 10 = true) ∧
     (s.motionBarred a = false) ∧
     (1 ≤ s.axState a) ∧
     (s.axState a ≤ 3) ∧
     (inSpan (s.axPos a + v.toInt) = false)) ∧
    (let s : State := gls 1 1 id
     let ax : BitVec 16 := 5
     let v : Word := 0x80000000
     let a := ax.toNat
     let ok := s.powered 10 = true ∧ a < 6 ∧ s.motionBarred a = false ∧
       s.limitAhead a (Int.sign (v.toInt - s.axPos a)) = false
     (ok) ∧
     (s.sound = true) ∧
     (s.axState a = 1) ∧
     ((s.axis a).staged = none)) ∧
    (let s : State := gls 1 1 (fun x => { x with held := [(0, some 1000)] })
     let ax : BitVec 16 := 5
     let v : Word := 0x7FFFFFFF
     let a := ax.toNat
     let ok := s.powered 10 = true ∧ a < 6 ∧ s.motionBarred a = false ∧
       s.limitAhead a (Int.sign (v.toInt - s.axPos a)) = false
     (ok) ∧
     (s.sound = true) ∧
     (s.axState a = 1) ∧
     let w : Nat := 1000
     ((s.axis a).held = [(0, some w)])) ∧
    (let s : State := gls 2 1 id
     let ax : BitVec 16 := 5
     let v : Word := 0xFFFFFF9C
     let a := ax.toNat
     let ok := s.powered 10 = true ∧ a < 6 ∧ s.motionBarred a = false ∧
       s.limitAhead a (Int.sign (v.toInt - s.axPos a)) = false
     (ok) ∧
     (s.axState a = 2)) ∧
    (let s : State := gls 3 2 id
     let ax : BitVec 16 := 5
     let v : Word := 5
     let a := ax.toNat
     let ok := s.powered 10 = true ∧ a < 6 ∧ s.motionBarred a = false ∧
       s.limitAhead a (Int.sign (v.toInt - s.axPos a)) = false
     (ok) ∧
     (s.axState a = 3)) := by decide +kernel

theorem test_AxisRunAndStop_meets :
    (let ax : BitVec 16 := 6
     let a := ax.toNat
     (6 ≤ a)) ∧
    (let s : State := gls 0 1 id
     let ax : BitVec 16 := 5
     let a := ax.toNat
     (a < 6) ∧
     ((s.powered 10 = false ∨ s.axState a = 0))) ∧
    (let s : State := gls 0 1 id
     let ax : BitVec 16 := 5
     let v : Word := 0x80000000
     let a := ax.toNat
     (a < 6) ∧
     (s.powered 10 = true) ∧
     (s.fld (R.GLS_VMAX a) F.GLS_VMAX_VMAX < v.toInt.natAbs)) ∧
    (let s : State := gls 1 1 id
     let ax : BitVec 16 := 5
     let v : Word := 1000
     let a := ax.toNat
     (a < 6) ∧
     (s.powered 10 = true) ∧
     (s.sound = true) ∧
     (v ≠ 0) ∧
     (v.toInt.natAbs ≤ s.fld (R.GLS_VMAX a) F.GLS_VMAX_VMAX) ∧
     (s.motionBarred a = false) ∧
     (s.limitAhead a (Int.sign v.toInt) = false) ∧
     (s.axState a = 1)) ∧
    (let s : State := gls 1 1 id
     let ax : BitVec 16 := 5
     let a := ax.toNat
     (a < 6) ∧
     (s.powered 10 = true) ∧
     (s.sound = true) ∧
     (s.axState a = 1)) ∧
    (let s : State := gls 2 1 id
     let ax : BitVec 16 := 5
     let a := ax.toNat
     (a < 6) ∧
     (s.powered 10 = true) ∧
     (s.sound = true) ∧
     (s.axState a = 2) ∧
     ((s.axis a).lead = none) ∧
     (s.motionBarred a = false)) := by decide +kernel

theorem test_AxisSettings_meets :
    (let s : State := gls 0 1 id
     let ax : BitVec 16 := 5
     let k : BitVec 4 := 0
     let v : Word := 0
     (ax.toNat < 6) ∧
     (s.powered 10 = true) ∧
     (s.sound = true) ∧
     (parInRange k.toNat v.toNat = false)) ∧
    (let s : State := gls 3 1 id
     let ax : BitVec 16 := 5
     let k : BitVec 4 := 3
     let v : Word := 4000000000
     (ax.toNat < 6) ∧
     (s.powered 10 = true) ∧
     (s.sound = true) ∧
     let a := ax.toNat
     (parInRange k.toNat v.toNat = true) ∧
     (s.decelerates a = true)) ∧
    (let s : State := gls 1 1 id
     let ax : BitVec 16 := 5
     let k : BitVec 4 := 0
     let v : Word := 250000
     (ax.toNat < 6) ∧
     (s.powered 10 = true) ∧
     (s.sound = true) ∧
     let a := ax.toNat
     (parInRange k.toNat v.toNat = true) ∧
     (s.decelerates a = false)) ∧
    (let s : State := (gls 0 1 id).setFlag (R.GLS_CFG 5) F.GLS_CFG_CFGERR true
     let ax : BitVec 16 := 5
     (ax.toNat < 6) ∧
     (s.powered 10 = true) ∧
     (s.sound = true) ∧
     let a := ax.toNat
     (s.axState a = 0) ∧
     (s.flag (R.GLS_CFG a) F.GLS_CFG_CFGERR = true)) ∧
    (let s : State := gls 0 1 id
     let ax : BitVec 16 := 5
     (ax.toNat < 6) ∧
     (s.powered 10 = true) ∧
     (s.sound = true) ∧
     let a := ax.toNat
     (s.axState a = 0) ∧
     (s.flag (R.GLS_CFG a) F.GLS_CFG_CFGERR = false) ∧
     (s.ax a F.GLS_AXST_DRVFLT = 0) ∧
     (s.ax a F.GLS_AXST_LOOPLOST = 0) ∧
     (s.ax a F.GLS_AXST_ECAUSE = 0)) ∧
    (let s : State := gls 1 1 id
     let ax : BitVec 16 := 5
     (ax.toNat < 6) ∧
     (s.powered 10 = true) ∧
     (s.sound = true) ∧
     let a := ax.toNat
     (s.axState a ≠ 0)) ∧
    (let s : State := gls 1 1 id
     let ax : BitVec 16 := 5
     (ax.toNat < 6) ∧
     (s.powered 10 = true) ∧
     (s.sound = true) ∧
     let a := ax.toNat
     ((s.axState a = 1 ∨ s.axState a = 5)) ∧
     (s.ax a F.GLS_AXST_GRP = 0)) ∧
    (let s : State := gls 3 1 id
     let ax : BitVec 16 := 5
     (ax.toNat < 6) ∧
     (s.powered 10 = true) ∧
     (s.sound = true) ∧
     let a := ax.toNat
     (2 ≤ s.axState a) ∧
     (s.axState a ≠ 5)) ∧
    (let s : State := gls 1 1 id
     let ax : BitVec 16 := 5
     (ax.toNat < 6) ∧
     (s.powered 10 = true) ∧
     (s.sound = true) ∧
     let a := ax.toNat
     ((s.axState a = 0 ∨ s.axState a = 1))) ∧
    (let s : State := gls 1 1 id
     let ax : BitVec 16 := 5
     (ax.toNat < 6) ∧
     (s.powered 10 = true) ∧
     (s.sound = true) ∧
     let a := ax.toNat
     (s.axState a = 1)) ∧
    (let s : State := gls 0 1 id
     let ax : BitVec 16 := 5
     (ax.toNat < 6) ∧
     (s.powered 10 = true) ∧
     (s.sound = true) ∧
     let a := ax.toNat
     (s.axState a ≠ 1)) ∧
    (let s : State := gls 1 1 id
     let ax : BitVec 16 := 5
     (ax.toNat < 6) ∧
     (s.powered 10 = true) ∧
     (s.sound = true) ∧
     let a := ax.toNat
     (s.axState a ≤ 6)) ∧
    (let s : State := gls 5 1 id
     let ax : BitVec 16 := 5
     (ax.toNat < 6) ∧
     (s.powered 10 = true) ∧
     (s.sound = true) ∧
     let a := ax.toNat
     (s.axState a = 5) ∧
     (s.ax a F.GLS_AXST_ESTOPLN = 0) ∧
     (s.ax a F.GLS_AXST_DRVFLT = 0)) ∧
    (let s : State := gls 1 1 id
     let ax : BitVec 16 := 5
     (ax.toNat < 6) ∧
     (s.powered 10 = true) ∧
     (s.sound = true) ∧
     let a := ax.toNat
     ((s.axState a ≠ 5 ∨ s.ax a F.GLS_AXST_ESTOPLN ≠ 0))) := by decide +kernel

theorem test_InterpolationGroups_meets :
    (let s : State := glsGroup 0 0
     let ax : BitVec 16 := 5
     let m : Word := 0x40
     (ax.toNat < 6) ∧
     (s.powered 10 = true) ∧
     (s.sound = true) ∧
     let g := ax.toNat
     ((m = 0 ∨ 64 ≤ m.toNat ∨ m.toNat.testBit g = false))) ∧
    (let s : State := glsGroup 0 0
     let ax : BitVec 16 := 5
     let m : Word := 0x3F
     (ax.toNat < 6) ∧
     (s.powered 10 = true) ∧
     (s.sound = true) ∧
     let g := ax.toNat
     let l := maskAxes m.toNat
     (m.toNat < 64) ∧
     (m.toNat.testBit g = true) ∧
     ((∃ b ∈ l, s.mayJoin b = false))) ∧
    (let s : State := glsGroup 0 0
     let ax : BitVec 16 := 5
     let m : Word := 0x30
     (ax.toNat < 6) ∧
     (s.powered 10 = true) ∧
     (s.sound = true) ∧
     let g := ax.toNat
     let l := maskAxes m.toNat
     (m.toNat < 64) ∧
     (m.toNat.testBit g = true) ∧
     ((∀ b ∈ l, s.mayJoin b = true)) ∧
     ((∀ b ∈ l, s.groupDist b = 0)) ∧
     let r := R.GLS_POS 5
     ((∀ b ∈ l, r ≠ R.GLS_TGT b))) ∧
    (let s : State := glsGroup 2 (-3)
     let ax : BitVec 16 := 5
     let m : Word := 0x30
     (ax.toNat < 6) ∧
     (s.powered 10 = true) ∧
     (s.sound = true) ∧
     let g := ax.toNat
     let l := maskAxes m.toNat
     (m.toNat < 64) ∧
     (m.toNat.testBit g = true) ∧
     ((∀ b ∈ l, s.mayJoin b = true)) ∧
     ((∃ b ∈ l, s.groupDist b ≠ 0)) ∧
     ((∀ b ∈ l, (s.axis b).held = []))) := by decide +kernel

theorem test_AxisProfile_meets :
    (let s : State := gls 2 1 (fun x => { x with motion := .toTarget 103 })
     let a : Fin 6 := 5
     (s.islandOn 13 = true) ∧
     (s.sound = true) ∧
     ((s.axis a).lead = none) ∧
     (2 ≤ s.axState a) ∧
     (s.axState a ≤ 4)) ∧
    (let s : State := gls 2 1 (fun x => { x with motion := .toTarget 103 })
     let a : Fin 6 := 5
     (s.islandOn 13 = true) ∧
     (s.sound = true) ∧
     ((s.axis a).lead = none) ∧
     let x := s.axis a
     let d := s.heading a
     let w := s.nextSpeed a
     let n := (stepsOn (d * x.frac) (x.fine.natAbs + w)).1
     (2 ≤ s.axState a) ∧
     (s.axState a ≤ 4) ∧
     (inSpan (s.axPos a + d * n) = true)) ∧
    (let s : State := gls 4 1 (fun x => { x with fine := -900 })
     let a : Fin 6 := 5
     (s.islandOn 13 = true) ∧
     (s.sound = true) ∧
     ((s.axis a).lead = none) ∧
     (2 ≤ s.axState a) ∧
     (s.axState a ≤ 4) ∧
     (s.axState a = 4)) ∧
    (let s : State := gls 3 1 (fun x => { x with fine := 900 })
     let a : Fin 6 := 5
     (s.islandOn 13 = true) ∧
     (s.sound = true) ∧
     ((s.axis a).lead = none) ∧
     (2 ≤ s.axState a) ∧
     (s.axState a ≤ 4) ∧
     (s.axState a = 3) ∧
     (s.fld (R.GLS_JERK a) F.GLS_JERK_JERK = 0)) ∧
    (let s : State := gls 2 1 (fun x => { x with motion := .toTarget 103 })
     let a : Fin 6 := 5
     let q : Int := 103
     (s.islandOn 13 = true) ∧
     (s.sound = true) ∧
     ((s.axis a).lead = none) ∧
     let x := s.axis a
     let vmax : Int := s.fld (R.GLS_VMAX a) F.GLS_VMAX_VMAX * 1600000000
     (2 ≤ s.axState a) ∧
     (s.axState a ≤ 4) ∧
     (s.axState a = 2) ∧
     (x.motion = .toTarget q) ∧
     (s.fld (R.GLS_JERK a) F.GLS_JERK_JERK = 0) ∧
     ((x.fine.natAbs : Int) ≤ vmax)) ∧
    (let s : State := gls 2 1 (fun x => { x with motion := .toTarget 103 })
     let a : Fin 6 := 5
     let p : Int := 100
     let q : Int := 103
     (s.islandOn 13 = true) ∧
     (s.sound = true) ∧
     ((s.axis a).lead = none) ∧
     let x := s.axis a
     let w := s.nextSpeed a
     (2 ≤ s.axState a) ∧
     (s.axState a ≤ 4) ∧
     (s.axState a = 2) ∧
     (x.motion = .toTarget q) ∧
     (s.axPos a = p) ∧
     (p < q) ∧
     (inSpan q = true) ∧
     (0 ≤ x.fine) ∧
     (0 ≤ x.frac + x.fine + w) ∧
     (x.fine + w ≤ (q - p) * 128000000000000 - x.frac)) ∧
    (let s : State := gls 1 2 id
     let a : Fin 6 := 5
     (s.islandOn 13 = true) ∧
     (s.sound = true) ∧
     ((s.axis a).lead = none) ∧
     ((s.axState a ≤ 1 ∨ s.axState a = 5)) ∧
     (s.phasesDriven a = false)) ∧
    (let s : State := gls 1 1 id
     let a : Fin 6 := 5
     (s.islandOn 13 = true) ∧
     (s.sound = true) ∧
     ((s.axis a).lead = none) ∧
     ((s.axState a ≤ 1 ∨ s.axState a = 5)) ∧
     (s.phasesDriven a = true) ∧
     (0 ≤ (s.setpoints a).1)) ∧
    (let s : State := glsPhase
     let a : Fin 6 := 5
     (s.islandOn 13 = true) ∧
     (s.sound = true) ∧
     ((s.axis a).lead = none) ∧
     ((s.axState a ≤ 1 ∨ s.axState a = 5)) ∧
     (s.phasesDriven a = true) ∧
     ((s.setpoints a).1 < 0)) ∧
    (let s : State := gls 2 1 (fun x => { x with motion := .toTarget 100 })
     let a : Fin 6 := 5
     (s.islandOn 13 = true) ∧
     (s.sound = true) ∧
     ((s.axis a).lead = none) ∧
     let x := s.axis a
     (s.moveEnds a = true) ∧
     (x.queued = none) ∧
     (x.homed = none)) ∧
    (let s : State := gls 2 1 (fun x => { x with motion := .toTarget 100, homed := some 100 })
     let a : Fin 6 := 5
     let p : Int := 100
     (s.islandOn 13 = true) ∧
     (s.sound = true) ∧
     ((s.axis a).lead = none) ∧
     let x := s.axis a
     (s.moveEnds a = true) ∧
     (x.queued = none) ∧
     (x.homed = some p)) ∧
    (let s : State := gls 2 1 (fun x => { x with motion := .toTarget 103 })
     let a : Fin 6 := 5
     (s.islandOn 13 = true) ∧
     (s.sound = true) ∧
     ((s.axis a).lead = none) ∧
     (s.moveEnds a = false)) ∧
    (let s : State := gls 4 1 id
     let a : Fin 6 := 5
     (s.islandOn 13 = true) ∧
     (s.sound = true) ∧
     ((s.axis a).lead = none) ∧
     let x := s.axis a
     (s.axState a = 4) ∧
     (x.fine = 0)) ∧
    (let s : State := gls 1 1 id
     let a : Fin 6 := 5
     (s.islandOn 13 = true) ∧
     (s.sound = true) ∧
     ((s.axis a).lead = none) ∧
     ((s.axState a = 1 ∨ s.axState a = 5))) ∧
    (let s : State := gls 2 1 (fun x => { x with motion := .toTarget 103 })
     let a : Fin 6 := 5
     (s.islandOn 13 = true) ∧
     (s.sound = true) ∧
     ((s.axis a).lead = none) ∧
     ((s.axState a = 0 ∨ 2 ≤ s.axState a ∧ s.axState a ≤ 4))) := by decide +kernel

theorem test_AxisFaults_meets :
    (let s : State := gls 2 1 id
     let a : Fin 6 := 5
     (s.islandOn 13 = true) ∧
     (s.sound = true) ∧
     ((s.axis a).lead = none) ∧
     (s.axState a = 2) ∧
     (s.axMode a = 1)) ∧
    (let s : State := gls 2 2 id
     let a : Fin 6 := 5
     (s.islandOn 13 = true) ∧
     (s.sound = true) ∧
     ((s.axis a).lead = none) ∧
     (s.axState a = 2) ∧
     (s.axMode a = 2)) ∧
    (let s : State := gls 2 1 (fun x => { x with offA := 40 })
     let a : Fin 6 := 5
     let b : Bool := false
     let m : BitVec 16 := 0
     (s.islandOn 13 = true) ∧
     (s.sound = true) ∧
     ((s.axis a).lead = none) ∧
     let off := if b then (s.axis a).offB else (s.axis a).offA
     let meas := s.fld (R.GLS_IMEAS a) (if b then F.GLS_IMEAS_IB else F.GLS_IMEAS_IA)
     (s.axState a = 2) ∧
     (s.phasesDriven a = true) ∧
     (40 ≤ off) ∧
     (m.toNat = meas)) ∧
    (let s : State := gls 2 1 id
     let a : Fin 6 := 5
     let b : Bool := false
     let m : BitVec 16 := 0
     (s.islandOn 13 = true) ∧
     (s.sound = true) ∧
     ((s.axis a).lead = none) ∧
     let off := if b then (s.axis a).offB else (s.axis a).offA
     let meas := s.fld (R.GLS_IMEAS a) (if b then F.GLS_IMEAS_IB else F.GLS_IMEAS_IA)
     ((s.phasesDriven a = false ∨ off < 40 ∨ m.toNat ≠ meas))) ∧
    (let s : State := glsLim 2
     let a : Fin 6 := 5
     (s.islandOn 13 = true) ∧
     (s.sound = true) ∧
     ((s.axis a).lead = none) ∧
     (s.tripAsserted (48 + a.val) = true) ∧
     (s.axState a = 2)) ∧
    (let s : State := glsLim 1
     let a : Fin 6 := 5
     (s.islandOn 13 = true) ∧
     (s.sound = true) ∧
     ((s.axis a).lead = none) ∧
     (s.tripAsserted (48 + a.val) = true) ∧
     (s.axState a = 1)) ∧
    (let s : State := gls 2 1 id
     let a : Fin 6 := 5
     (s.islandOn 13 = true) ∧
     (s.sound = true) ∧
     ((s.axis a).lead = none) ∧
     (s.tripAsserted (48 + a.val) = false)) ∧
    (let s : State := gls 2 1 id
     let a : Fin 6 := 5
     let b : Bool := false
     (s.islandOn 13 = true) ∧
     (s.sound = true) ∧
     ((s.axis a).lead = none) ∧
     let lim := if b then F.GLS_AXST_LIMP else F.GLS_AXST_LIMN
     let n := s.limitInput a b
     let matched := s.flag (R.GLS_CFG a) F.GLS_CFG_LIMEN = true ∧ s.axInput n = s.flag (R.GLS_CFG a) F.GLS_CFG_LPOL
     ((¬ matched ∨ s.ax a lim ≠ 0))) ∧
    (let s : State := glsWith [(F.GLS_AXST_LIMN, 1)] ((glsLim 1).setFlag (R.GLS_CFG 5) F.GLS_CFG_LPOL true)
     let a : Fin 6 := 5
     let b : Bool := false
     (s.islandOn 13 = true) ∧
     (s.sound = true) ∧
     ((s.axis a).lead = none) ∧
     let lim := if b then F.GLS_AXST_LIMP else F.GLS_AXST_LIMN
     let n := s.limitInput a b
     let matched := s.flag (R.GLS_CFG a) F.GLS_CFG_LIMEN = true ∧ s.axInput n = s.flag (R.GLS_CFG a) F.GLS_CFG_LPOL
     (¬ matched) ∧
     (s.ax a lim ≠ 0)) := by decide +kernel

theorem test_Homing_meets :
    (let s : State := (glsWith [(F.GLS_AXST_LIMP, 1), (F.GLS_AXST_LIMN, 1)] (gls 1 1 id)).setFlag (R.GLS_CFG 5) F.GLS_CFG_LIMEN true |>.setFld (R.GLS_SSPD 5) F.GLS_SSPD_SSPD 1
     let ax : BitVec 16 := 5
     let a : Fin 6 := 5
     (s.islandOn 13 = true) ∧
     (s.sound = true) ∧
     (ax.toNat = a.val) ∧
     (s.axState a = 1) ∧
     (s.motionBarred a = false) ∧
     let ph := if s.homeActive a then 1 else 2
     (s.limitAhead a ((s.homeMotion a ph).sign 0) = true)) ∧
    (let s : State := gls 1 1 id
     let ax : BitVec 16 := 5
     let a : Fin 6 := 5
     (s.islandOn 13 = true) ∧
     (s.sound = true) ∧
     (ax.toNat = a.val) ∧
     (s.axState a = 1) ∧
     (s.motionBarred a = false) ∧
     let ph := if s.homeActive a then 1 else 2
     (s.limitAhead a ((s.homeMotion a ph).sign 0) = false)) ∧
    (let s : State := glsWith [(F.GLS_AXST_HPH, 2)] (gls 6 1 (fun x => { x with fine := 5 }))
     let ax : BitVec 16 := 5
     let a : Fin 6 := 5
     let w : Word := 60
     (s.islandOn 13 = true) ∧
     (s.sound = true) ∧
     let ph := s.ax a F.GLS_AXST_HPH
     let seen := ph ≠ 3 ∧ s.homeActive a = (ph != 1) ∧ 32 ≤ s.heading a * (s.axPos a - w.toInt)
     (s.axState a = 6) ∧
     ((s.axis a).edgeSeen = false) ∧
     (seen)) ∧
    (let s : State := gls 1 1 id
     let ax : BitVec 16 := 5
     let a : Fin 6 := 5
     let w : Word := 60
     (s.islandOn 13 = true) ∧
     (s.sound = true) ∧
     let ph := s.ax a F.GLS_AXST_HPH
     let seen := ph ≠ 3 ∧ s.homeActive a = (ph != 1) ∧ 32 ≤ s.heading a * (s.axPos a - w.toInt)
     ((s.axState a ≠ 6 ∨ (s.axis a).edgeSeen = true ∨ ¬ seen))) ∧
    (let s : State := glsWith [(F.GLS_AXST_HPH, 2)] (gls 6 1 (fun x => { x with homeFrom := -2000000000 }))
     let a : Fin 6 := 5
     let c : Nat := 2
     (s.islandOn 13 = true) ∧
     (s.sound = true) ∧
     (s.axState a = 6) ∧
     (s.homeOverrun a = some c)) ∧
    (let s : State := glsWith [(F.GLS_AXST_HPH, 4)] (gls 6 1 (fun x => { x with edgeSeen := true, homeEdge := 90 }))
     let a : Fin 6 := 5
     (s.islandOn 13 = true) ∧
     (s.sound = true) ∧
     (s.axState a = 6) ∧
     (s.homeOverrun a = none)) ∧
    (let s : State := glsWith [(F.GLS_AXST_HPH, 4)] (gls 6 1 (fun x => { x with edgeSeen := true, homeEdge := 90 }))
     let ax : BitVec 16 := 5
     let a : Fin 6 := 5
     (s.islandOn 13 = true) ∧
     (s.sound = true) ∧
     (s.axState a = 6) ∧
     (s.ax a F.GLS_AXST_HPH = 4) ∧
     ((s.axis a).edgeSeen = true) ∧
     let q := s.axPos a + s.sfld (R.GLS_HOFS a) F.GLS_HOFS_HOFS - (s.axis a).homeEdge
     (inSpan q = true)) := by decide +kernel

theorem test_PanelRequests_meets :
    (let tg : BitVec 16 := 1
     (tg ≠ 0)) ∧
    (let s : State := pnl 0 id
     let tg : BitVec 16 := 0
     (tg = 0) ∧
     (s.panelBarred = true)) ∧
    (let s : State := (pnl 1 id).setFld R.PNL_CFG F.PNL_CFG_COMMONS 63
     let tg : BitVec 16 := 0
     let r : BitVec 6 := 63
     let h : BitVec 3 := 7
     (tg = 0) ∧
     (s.panelBarred = false) ∧
     ((s.commons ≤ r.toNat ∨ s.segs ≤ 16 * h.toNat))) ∧
    (let s : State := pnl 1 id
     let tg : BitVec 16 := 0
     let r : BitVec 6 := 63
     let h : BitVec 3 := 7
     (tg = 0) ∧
     (s.panelBarred = false) ∧
     (r.toNat < s.commons) ∧
     (16 * h.toNat < s.segs)) ∧
    (let s : State := pnl 1 id
     let tg : BitVec 16 := 0
     let r0 : BitVec 6 := 1
     let r1 : BitVec 6 := 0
     let c0 : BitVec 7 := 0
     let c1 : BitVec 7 := 127
     let bad := r1.toNat < r0.toNat ∨ c1.toNat < c0.toNat ∨ s.commons ≤ r1.toNat ∨ s.segs ≤ c1.toNat
     (tg = 0) ∧
     (s.panelBarred = false) ∧
     (bad)) ∧
    (let s : State := pnl 1 id
     let tg : BitVec 16 := 0
     let r0 : BitVec 6 := 1
     let r1 : BitVec 6 := 0
     let c0 : BitVec 7 := 0
     let c1 : BitVec 7 := 127
     let pic : BitVec 4 := 3
     let bad := r1.toNat < r0.toNat ∨ c1.toNat < c0.toNat ∨ s.commons ≤ r1.toNat ∨ s.segs ≤ c1.toNat
     let noPic := s.img.exec.pictures.find? (fun e => e.1 == pic.toNat) = none
     (tg = 0) ∧
     (s.panelBarred = false) ∧
     ((bad ∨ noPic))) ∧
    (let s : State := pnl 1 id
     let tg : BitVec 16 := 0
     let r0 : BitVec 6 := 0
     let r1 : BitVec 6 := 63
     let c0 : BitVec 7 := 0
     let c1 : BitVec 7 := 127
     let pic : BitVec 4 := 15
     let bad := r1.toNat < r0.toNat ∨ c1.toNat < c0.toNat ∨ s.commons ≤ r1.toNat ∨ s.segs ≤ c1.toNat
     (tg = 0) ∧
     (s.panelBarred = false) ∧
     (¬ bad) ∧
     (s.sound = true) ∧
     let e := (15, List.replicate 64 5)
     (s.img.exec.pictures.find? (fun e => e.1 == pic.toNat) = some e) ∧
     let k := 63
     (k < 64)) ∧
    (let s : State := pnl 2 id
     let tg : BitVec 16 := 0
     let r0 : BitVec 6 := 0
     let r1 : BitVec 6 := 63
     let c0 : BitVec 7 := 0
     let c1 : BitVec 7 := 127
     let bad := r1.toNat < r0.toNat ∨ c1.toNat < c0.toNat ∨ s.commons ≤ r1.toNat ∨ s.segs ≤ c1.toNat
     (tg = 0) ∧
     (s.panelBarred = false) ∧
     (¬ bad) ∧
     (s.panelMode = 2)) ∧
    (let s : State := pnl 1 (fun p => { p with queue := (List.range 8).map (fun i => reqOf (BitVec.ofNat 64 (2 ^ i))) })
     let tg : BitVec 16 := 0
     let r0 : BitVec 6 := 8
     let r1 : BitVec 6 := 63
     let c0 : BitVec 7 := 0
     let c1 : BitVec 7 := 127
     let rows := rowSet r0.toNat r1.toNat
     let bad := r1.toNat < r0.toNat ∨ c1.toNat < c0.toNat ∨ s.commons ≤ r1.toNat ∨ s.segs ≤ c1.toNat
     (tg = 0) ∧
     (s.panelBarred = false) ∧
     (¬ bad) ∧
     (s.panelMode ≠ 2) ∧
     ((∀ q ∈ s.pnl.queue, q.shares rows = false)) ∧
     (8 ≤ s.pnl.queue.length)) ∧
    (let s : State := pnl 1 id
     let tg : BitVec 16 := 0
     let r0 : BitVec 6 := 0
     let r1 : BitVec 6 := 63
     let c0 : BitVec 7 := 0
     let c1 : BitVec 7 := 127
     let rows := rowSet r0.toNat r1.toNat
     let bad := r1.toNat < r0.toNat ∨ c1.toNat < c0.toNat ∨ s.commons ≤ r1.toNat ∨ s.segs ≤ c1.toNat
     (tg = 0) ∧
     (s.panelBarred = false) ∧
     (¬ bad) ∧
     (s.panelMode ≠ 2) ∧
     ((∀ q ∈ s.pnl.queue, q.shares rows = false)) ∧
     (s.pnl.queue.length < 8)) ∧
    (let s : State := pnl 1 (fun p => { p with queue := (List.range 8).map (fun i => reqOf (BitVec.ofNat 64 (2 ^ i))) })
     let tg : BitVec 16 := 0
     let r0 : BitVec 6 := 7
     let r1 : BitVec 6 := 63
     let c0 : BitVec 7 := 0
     let c1 : BitVec 7 := 127
     let rows := rowSet r0.toNat r1.toNat
     let bad := r1.toNat < r0.toNat ∨ c1.toNat < c0.toNat ∨ s.commons ≤ r1.toNat ∨ s.segs ≤ c1.toNat
     (tg = 0) ∧
     (s.panelBarred = false) ∧
     (¬ bad) ∧
     (s.panelMode ≠ 2) ∧
     ((∃ q ∈ s.pnl.queue, q.shares rows = true))) ∧
    (let s : State := pnl 1 id
     let tg : BitVec 16 := 0
     (tg = 0) ∧
     (s.panelBarred = false) ∧
     (s.panelMode ≠ 2) ∧
     (s.sound = true) ∧
     (s.pnl.queue = []) ∧
     let k := 63
     (k < 64)) := by decide +kernel

theorem test_PanelRows_meets :
    (let s : State := pumpOn (pnl 1 (fun p => { p with queue := [reqOf 0x8000000000000001] }))
     (s.islandOn 14 = true) ∧
     (s.sound = true) ∧
     (s.pnl.dirty = false)) ∧
    (let s : State := pnl 1 (fun p => { p with dirty := true })
     (s.islandOn 14 = true) ∧
     (s.sound = true) ∧
     (s.pnl.dirty = true)) ∧
    (let s : State := pumpOn (pnl 1 (fun p => { p with queue := [reqOf 0x8000000000000001] }))
     let q : Req := reqOf 0x8000000000000001
     let l : List Req := []
     let r : Nat := 0
     let k : List Nat := [63]
     (s.islandOn 14 = true) ∧
     (s.sound = true) ∧
     (s.pnl.cur = none) ∧
     (s.pnl.queue = q :: l) ∧
     (s.mayStartRow = true) ∧
     (s.pnl.replay = 0) ∧
     (rowsOf q.left = r :: k) ∧
     (s.flag R.PNL_STAT F.PNL_STAT_PUMPON = true) ∧
     (s.pnl.pumpReady = false)) ∧
    (let s : State := pumpOn (pnl 1 (fun p => { p with queue := [reqOf 0x8000000000000001] }))
     let q : Req := reqOf 0x8000000000000001
     let l : List Req := []
     let r : Nat := 0
     let k : List Nat := [63]
     let v : BitVec 16 := 0xFFFF
     let x : BitVec 16 := 1
     (s.islandOn 14 = true) ∧
     (s.sound = true) ∧
     (s.pnl.cur = none) ∧
     (s.pnl.queue = q :: l) ∧
     (s.mayStartRow = true) ∧
     (s.pnl.replay = 0) ∧
     (rowsOf q.left = r :: k) ∧
     (s.flag R.PNL_STAT F.PNL_STAT_PUMPON = true) ∧
     (s.pnl.pumpReady = false) ∧
     let u : State := after ((execPumpReady v x) s)
     let y := ((after (execPumpReady 0xFFFF 1 (pumpOn (pnl 1 (fun p => { p with queue := [reqOf 0x8000000000000001] }))))).pnl.cur.getD ⟨0, 1, false, true, 2000, 0, false, 0⟩)
     (u.pnl.cur = some y)) ∧
    (let s : State := rowAt 1 0x8000000000000001
     let w : RowWrite := ⟨63, 1, false, true, 2000, 7, false, 0⟩
     (s.islandOn 14 = true) ∧
     (s.sound = true) ∧
     (s.pnl.cur = some w) ∧
     (w.phase < 3)) ∧
    (let s : State := pnl 1 (fun p => { p with dirty := true })
     (s.islandOn 14 = true) ∧
     (s.sound = true) ∧
     (s.pnl.cur = none)) ∧
    (let s : State := rowAt 3 0x8000000000000001
     let q : Req := reqOf 0x8000000000000001
     let w : RowWrite := ⟨63, 3, false, true, 2000, 7, false, 0⟩
     let l : List Req := []
     (s.islandOn 14 = true) ∧
     (s.sound = true) ∧
     let one : BitVec 64 := BitVec.ofNat 64 (2 ^ w.row)
     (s.pnl.cur = some w) ∧
     (w.phase = 3) ∧
     (w.row < 64) ∧
     (w.stray = false) ∧
     (s.pnl.queue = q :: l) ∧
     (q.rows &&& ~~~(q.done ||| one) ≠ 0)) ∧
    (let s : State := rowAt 3 0x8000000000000000
     let q : Req := reqOf 0x8000000000000000
     let w : RowWrite := ⟨63, 3, false, true, 2000, 7, false, 0⟩
     let l : List Req := []
     (s.islandOn 14 = true) ∧
     (s.sound = true) ∧
     let one : BitVec 64 := BitVec.ofNat 64 (2 ^ w.row)
     (s.pnl.cur = some w) ∧
     (w.phase = 3) ∧
     (w.row < 64) ∧
     (w.stray = false) ∧
     (s.pnl.queue = q :: l) ∧
     (q.rows &&& ~~~(q.done ||| one) = 0) ∧
     (l = []) ∧
     let i := 63
     (i < 64) ∧
     (q.rows.getLsbD i = true)) := by decide +kernel

theorem test_PanelPumpAndMaps_meets :
    (let s₀ : State := pumpOn (pnl 1 id)
     (s₀.islandOn 14 = true) ∧
     (s₀.sound = true) ∧
     (s₀.flag R.PNL_STAT F.PNL_STAT_PUMPON = true) ∧
     (s₀.pnl.queue = []) ∧
     (s₀.pnl.cur = none)) ∧
    (let s₀ : State := pnl 1 id
     (s₀.islandOn 14 = true) ∧
     (s₀.sound = true) ∧
     ((s₀.flag R.PNL_STAT F.PNL_STAT_PUMPON = false ∨ s₀.pnl.queue ≠ []))) ∧
    (let s₀ : State := rowAt 1 0x8000000000000000
     let v : BitVec 16 := 6999
     let x : BitVec 16 := 2345
     (s₀.islandOn 14 = true) ∧
     (s₀.sound = true) ∧
     (s₀.flag R.PNL_STAT F.PNL_STAT_PUMPON = true) ∧
     (s₀.flag R.PNL_STAT F.PNL_STAT_PUMPERR = false) ∧
     (s₀.pumpOff v x = true) ∧
     let w := ⟨63, 1, false, true, 2000, 7, false, 0⟩
     (s₀.pnl.cur = some w) ∧
     (w.row < 64)) ∧
    (let s₀ : State := pnl 1 id
     let v : BitVec 16 := (BitVec.ofNat 16 (((pnl 1 id).driveVolts (pnl 1 id).driveTemp).1 / 1000).toNat)
     let x : BitVec 16 := (BitVec.ofNat 16 (((pnl 1 id).driveVolts (pnl 1 id).driveTemp).2 / 1000).toNat)
     (s₀.islandOn 14 = true) ∧
     (s₀.sound = true) ∧
     (s₀.pumpOff v x = false)) ∧
    (let s₀ : State := pnl 1 id
     (s₀.islandOn 14 = true) ∧
     (s₀.sound = true) ∧
     (s₀.pnl.restartDue = false)) ∧
    (let s₀ : State := (rowAt 1 0x8000000000000000).setPanel { (rowAt 1 0x8000000000000000).pnl with faults := 2, restartDue := true }
     (s₀.islandOn 14 = true) ∧
     (s₀.sound = true) ∧
     (s₀.pnl.restartDue = true) ∧
     (s₀.pnl.queue ≠ [])) ∧
    (let s₀ : State := pnl 1 id
     let t : Time := 6000000000
     (s₀.islandOn 14 = true) ∧
     (s₀.sound = true) ∧
     let s := s₀.atTime t
     (s.lockOpen = false)) ∧
    (let s₀ : State := unlocked (rowAt 1 1)
     let t : Time := 6000000000
     (s₀.islandOn 14 = true) ∧
     (s₀.sound = true) ∧
     let s := s₀.atTime t
     (s.lockOpen = true) ∧
     (s.pnl.queue ≠ [])) ∧
    (let s₀ : State := unlocked (pnl 1 id)
     let t : Time := 6000000000
     (s₀.islandOn 14 = true) ∧
     (s₀.sound = true) ∧
     let s := s₀.atTime t
     (s.lockOpen = true) ∧
     (s.pnl.queue = [])) ∧
    (let s₀ : State := pnl 2 (fun p => { p with segTags := [8, 9] })
     (s₀.islandOn 14 = true) ∧
     (s₀.sound = true) ∧
     (s₀.panelBarred = false) ∧
     (s₀.panelMode = 2) ∧
     let y := 9
     (s₀.pnl.segTags.getLast? = some y)) ∧
    (let s₀ : State := pnl 1 id
     (s₀.islandOn 14 = true) ∧
     (s₀.sound = true) ∧
     ((s₀.panelMode ≠ 2 ∨ s₀.panelBarred = true))) ∧
    (let s₀ : State := pnl 1 id
     let v : BitVec 16 := 7000
     (s₀.islandOn 14 = true) ∧
     (s₀.sound = true) ∧
     (7000 ≤ v.toNat) ∧
     (v.toNat ≤ 13000)) ∧
    (let s₀ : State := rowAt 1 0x8000000000000000
     let v : BitVec 16 := 6999
     (s₀.islandOn 14 = true) ∧
     (s₀.sound = true) ∧
     ((v.toNat < 7000 ∨ 13000 < v.toNat))) ∧
    (let s₀ : State := rowAt 1 0x8000000000000000
     let v : BitVec 16 := 6999
     let t : Time := 6000000000
     (s₀.islandOn 14 = true) ∧
     (s₀.sound = true) ∧
     let s := s₀.atTime t
     ((v.toNat < 7000 ∨ 13000 < v.toNat)) ∧
     (s.pnl.tempAt = none)) := by decide +kernel

theorem test_CalendarCounts_meets :
    (let s₀ : State := calAt 10 id
     let n : Nat := calSeconds - 1
     (s₀.sound = true) ∧
     (n < calSeconds)) ∧
    (let s₀ : State := calAt 10 id
     let t : Time := 5
     (s₀.sound = true) ∧
     let s := s₀.atTime t
     let sub : Int := ((s.now - s.rtc.secondAt) * 32768 / 1000000000 : Nat) + s.rtc.subOff
     (sub < 32768)) ∧
    (let s₀ : State := calAt 10 id
     let t : Time := 6000000000
     (s₀.sound = true) ∧
     let s := s₀.atTime t
     let sub : Int := ((s.now - s.rtc.secondAt) * 32768 / 1000000000 : Nat) + s.rtc.subOff
     (32768 ≤ sub) ∧
     (s.cal + 1 < calSeconds)) ∧
    (let s₀ : State := calAt (calSeconds - 1) id
     let t : Time := 6000000000
     (s₀.sound = true) ∧
     let s := s₀.atTime t
     let sub : Int := ((s.now - s.rtc.secondAt) * 32768 / 1000000000 : Nat) + s.rtc.subOff
     (32768 ≤ sub) ∧
     (s.cal + 1 = calSeconds)) ∧
    (let s₀ : State := calAt 10 id
     let t : Time := 6000000000
     (s₀.sound = true) ∧
     let s := s₀.atTime t
     (s.powered 1 = true)) ∧
    (let s₀ : State := calAt 10 id
     (s₀.sound = true) ∧
     let a := R.AFE_LOOP
     (blockNo a ≠ 0x400C)) ∧
    (let s₀ : State := calAt 10 id
     let i : Nat := 7
     (s₀.sound = true) ∧
     (1 ≤ i) ∧
     (i ≤ 7)) ∧
    (let s₀ : State := calAt 10 id
     let p : Option Port := none
     (s₀.sound = true) ∧
     let q := some .host
     (readerNo q ≠ readerNo p)) ∧
    (let s₀ : State := (calAt 10 (fun r => { r with shadows := [(0, some ([], 0))] }))
     let p : Option Port := none
     (s₀.sound = true) ∧
     let l := []
     let t0 := 0
     (tabGet (dflt none) s₀.rtc.shadows (readerNo p) = some (l, t0))) ∧
    (let s₀ : State := calAt 10 id
     let p : Option Port := none
     (s₀.sound = true) ∧
     (tabGet (dflt none) s₀.rtc.shadows (readerNo p) = none)) := by decide +kernel

theorem test_CalendarAdjustments_meets :
    (let s₀ : State := (calAt 10 id).setFld R.RTC_SDAY F.RTC_SDAY_DAY 0x32
     (s₀.staged = none)) ∧
    (let s₀ : State := ((((calAt 10 (fun r => { r with set := some (2, false) })).setFld R.RTC_SCENT F.RTC_SCENT_CENT 0x20).setFld R.RTC_SYEAR F.RTC_SYEAR_YEAR 0x01).setFld R.RTC_SMON F.RTC_SMON_MON 0x02).setFld R.RTC_SDAY F.RTC_SDAY_DAY 0x01
     let n : Nat := 34300800
     (s₀.staged = some n)) ∧
    (let s₀ : State := calAt 10 id
     let k : BitVec 15 := 0x7FFF
     (s₀.rtc.shift = none) ∧
     (0 < k.toNat)) ∧
    (let s₀ : State := calAt 10 (fun r => { r with shift := some (true, 32767) })
     (s₀.rtc.shift ≠ none)) ∧
    (let s₀ : State := calAt 10 id
     (s₀.rtc.shift = none)) ∧
    (let s₀ : State := (calAt 10 id).setFlag R.RTC_DST F.RTC_DST_ST true
     (s₀.flag R.RTC_DST F.RTC_DST_ST = true) ∧
     (s₀.rtc.dst = none)) ∧
    (let s₀ : State := calAt 10 id
     (s₀.flag R.RTC_DST F.RTC_DST_ST = false) ∧
     (s₀.rtc.dst = none)) ∧
    (let s₀ : State := ((((calAt 10 (fun r => { r with set := some (2, false) })).setFld R.RTC_SCENT F.RTC_SCENT_CENT 0x20).setFld R.RTC_SYEAR F.RTC_SYEAR_YEAR 0x01).setFld R.RTC_SMON F.RTC_SMON_MON 0x02).setFld R.RTC_SDAY F.RTC_SDAY_DAY 0x01
     let m : Nat := 2
     let n : Nat := 34300800
     let b : Bool := false
     let t : Time := 6000000000
     let s := s₀.atTime t
     (s₀.sound = true) ∧
     ((m = 2 ∨ b = true)) ∧
     (s.rtc.set = some (m, b)) ∧
     (s.staged = some n) ∧
     (n < calSeconds) ∧
     (s.powered 1 = true)) ∧
    (let s₀ : State := calAt 10 (fun r => { r with dst := some (true, true) })
     let b : Bool := true
     let t : Time := 6000000000
     let s := s₀.atTime t
     (s₀.sound = true) ∧
     (s.rtc.set = none) ∧
     (s.rtc.dst = some (b, true)) ∧
     (s.rtc.shift = none)) ∧
    (let s₀ : State := calAt 10 (fun r => { r with shift := some (true, 32767) })
     let neg : Bool := true
     let c : Nat := 32767
     let t : Time := 6000000000
     let s := s₀.atTime t
     (s₀.sound = true) ∧
     (s.rtc.set = none) ∧
     (s.rtc.dst = none) ∧
     (s.rtc.shift = some (neg, c))) ∧
    (let s₀ : State := calAt 10 id
     let t : Time := 6000000000
     let s := s₀.atTime t
     (s.rtc.set = none) ∧
     (s.rtc.dst = none) ∧
     (s.rtc.shift = none) ∧
     (s.flag R.REC_STAT F.REC_STAT_REGW = false)) := by decide +kernel

theorem test_CalendarTrim_meets :
    (let s₀ : State := calAt 10 (fun r => { r with trimDue := true })
     (s₀.rtc.trimDue = true)) ∧
    (let s₀ : State := calAt 10 id
     (s₀.rtc.trimDue = false)) ∧
    (let s₀ : State := unlocked (calAt 10 id)
     let v : BitVec 13 := 2560
     let t : Time := 6000000000
     let s := s₀.atTime t
     let x := signOf 13 v.toNat
     (s.lockOpen = true) ∧
     ((x < -2559 ∨ 2559 < x))) ∧
    (let s₀ : State := unlocked (calAt 10 id)
     let v : BitVec 13 := 2559
     let t : Time := 6000000000
     let s := s₀.atTime t
     let x := signOf 13 v.toNat
     (s.lockOpen = true) ∧
     (-2559 ≤ x) ∧
     (x ≤ 2559) ∧
     (s.rtc.measure = none)) ∧
    (let s₀ : State := calAt 10 id
     let t : Time := 6000000000
     let s := s₀.atTime t
     (s.lockOpen = false)) ∧
    (let s₀ : State := (unlocked (calAt 10 (fun r => { r with measure := some true }))).setFld R.RTC_TRIMCMD F.RTC_TRIMCMD_SECS 1000
     let t : Time := 6000000000
     let s := s₀.atTime t
     (s.lockOpen = true) ∧
     (s.rtc.measure ≠ none) ∧
     (s₀.sound = true)) ∧
    (let s₀ : State := unlocked (calAt 10 id)
     let t : Time := 6000000000
     let s := s₀.atTime t
     (s.lockOpen = true) ∧
     (s.rtc.measure = none)) ∧
    (let s₀ : State := calAt 10 id
     let t : Time := 6000000000
     let s := s₀.atTime t
     let full := 1000 ≤ s.fld R.RTC_TRIMCMD F.RTC_TRIMCMD_SECS
     ((s.rtc.measure = none ∨ ¬ full))) ∧
    (let s₀ : State := (calAt 10 (fun r => { r with measure := some false })).setFld R.RTC_TRIMCMD F.RTC_TRIMCMD_SECS 1000
     let e : Int := -20050
     let e' : Int := -20050
     let t : Time := 6000000000
     let s := s₀.atTime t
     let full := 1000 ≤ s.fld R.RTC_TRIMCMD F.RTC_TRIMCMD_SECS
     (s₀.sound = true) ∧
     ((s.rtc.measure = some false ∧ e' = e ∨ s.rtc.measure = some true ∧ s.hostError = some e')) ∧
     (full) ∧
     (-2147483648 ≤ e') ∧
     (e' ≤ 2147483647)) ∧
    (let s₀ : State := (calAt 10 (fun r => { r with measure := some false })).setFld R.RTC_TRIMCMD F.RTC_TRIMCMD_SECS 1000
     let e : Int := 255949
     let e' : Int := 255949
     let t : Time := 6000000000
     let s := s₀.atTime t
     let full := 1000 ≤ s.fld R.RTC_TRIMCMD F.RTC_TRIMCMD_SECS
     (s₀.sound = true) ∧
     ((s.rtc.measure = some false ∧ e' = e ∨ s.rtc.measure = some true ∧ s.hostError = some e')) ∧
     (full) ∧
     (-2147483648 ≤ e') ∧
     (e' ≤ 2147483647) ∧
     let y := -2559
     (y = s.trim - roundDiv e' 100) ∧
     (-2559 ≤ y ∧ y ≤ 2559)) ∧
    (let s₀ : State := (calAt 10 (fun r => { r with measure := some false })).setFld R.RTC_TRIMCMD F.RTC_TRIMCMD_SECS 1000
     let e : Int := 255950
     let e' : Int := 255950
     let t : Time := 6000000000
     let s := s₀.atTime t
     let full := 1000 ≤ s.fld R.RTC_TRIMCMD F.RTC_TRIMCMD_SECS
     (s₀.sound = true) ∧
     ((s.rtc.measure = some false ∧ e' = e ∨ s.rtc.measure = some true ∧ s.hostError = some e')) ∧
     (full) ∧
     (-2147483648 ≤ e') ∧
     (e' ≤ 2147483647) ∧
     let y := -2560
     (y = s.trim - roundDiv e' 100) ∧
     (y < -2559 ∨ 2559 < y)) ∧
    (let s₀ : State := (unlocked (calAt 10 (fun r => { r with measure := some true }))).setFld R.RTC_TRIMCMD F.RTC_TRIMCMD_SECS 1000
     let t : Time := 6000000000
     let s := s₀.atTime t
     (s₀.sound = true) ∧
     (s.rtc.measure ≠ none) ∧
     (s.referenceLost = true)) ∧
    (let s₀ : State := (calAt 10 (fun r => { r with measure := some false })).setFld R.RTC_TRIMCMD F.RTC_TRIMCMD_SECS 1000
     let t : Time := 6000000000
     let s := s₀.atTime t
     (s.rtc.measure = some false)) ∧
    (let s₀ : State := calAt 10 (fun r => { r with measure := some true })
     let t : Time := 6000000000
     let s := s₀.atTime t
     (s.referenceLost = false)) := by decide +kernel

theorem test_CalendarAlarmsAndTrust_meets :
    (let s₀ : State := calAlarmLast
     let k : Fin 4 := 3
     let t : Time := 6000000000
     (s₀.sound = true) ∧
     let s := s₀.atTime t
     (s.flag (R.RTC_ACFG k) F.RTC_ACFG_EN = false) ∧
     ((s.alarmMatch k).after s.cal = none)) ∧
    (let s₀ : State := calAlarm false false false
     let k : Fin 4 := 3
     let n : Nat := 59
     let t : Time := 6000000000
     (s₀.sound = true) ∧
     let s := s₀.atTime t
     (s.flag (R.RTC_ACFG k) F.RTC_ACFG_EN = false) ∧
     ((s.alarmMatch k).after s.cal = some n)) ∧
    (let s₀ : State := calAlarm false false false
     let k : Fin 4 := 3
     let t : Time := 6000000000
     (s₀.sound = true) ∧
     let s := s₀.atTime t
     ((s.flag (R.RTC_ACFG k) F.RTC_ACFG_EN = false ∨ s.cal < s.alarmDue k))) ∧
    (let s₀ : State := calAlarm true false false
     let k : Fin 4 := 3
     let t : Time := 6000000000
     (s₀.sound = true) ∧
     let s := s₀.atTime t
     (s.flag (R.RTC_ACFG k) F.RTC_ACFG_EN = true) ∧
     (s.alarmDue k ≤ s.cal) ∧
     (s.flag (R.RTC_ACFG k) F.RTC_ACFG_REPEAT = false)) ∧
    (let s₀ : State := calAlarm true true false
     let k : Fin 4 := 3
     let n : Nat := 59
     let t : Time := 6000000000
     (s₀.sound = true) ∧
     let s := s₀.atTime t
     (s.flag (R.RTC_ACFG k) F.RTC_ACFG_EN = true) ∧
     (s.alarmDue k ≤ s.cal) ∧
     (s.flag (R.RTC_ACFG k) F.RTC_ACFG_REPEAT = true) ∧
     ((s.alarmMatch k).after s.cal = some n)) ∧
    (let s₀ : State := (calAlarm true true false).setRtc { up.rtc with secondAt := 6000000000 }
     let k : Fin 4 := 3
     let t : Time := 6000000000
     (s₀.sound = true) ∧
     let s := s₀.atTime t
     (s.flag (R.RTC_ACFG k) F.RTC_ACFG_EN = true) ∧
     (s.alarmDue k ≤ s.cal) ∧
     (s.powered 1 = true) ∧
     (s.cal = s.alarmDue k) ∧
     (s.rtcSub = 0)) ∧
    (let s₀ : State := calAlarm false false false
     (s₀.sound = true) ∧
     (s₀.powered 1 = true)) ∧
    (let s₀ : State := (calAlarm true true false).setFlag R.RTC_TRUST F.RTC_TRUST_ONCELL true
     let b : Bool := true
     let mv : BitVec 16 := 2700
     let vr : BitVec 16 := 3000
     (s₀.sound = true) ∧
     let past := if b then mv.toNat + 60 < vr.toNat ∧ 2750 < vr.toNat else vr.toNat < mv.toNat ∨ vr.toNat < 2600
     (s₀.flag R.RTC_TRUST F.RTC_TRUST_ONCELL = b) ∧
     (past)) ∧
    (let s₀ : State := calAlarm false false false
     let b : Bool := true
     (s₀.sound = true) ∧
     ((s₀.flag R.RTC_TRUST F.RTC_TRUST_ONCELL = !b))) ∧
    (let s₀ : State := up.setFld R.PWR_DOM F.PWR_DOM_ON 1
     (s₀.sound = true) ∧
     (s₀.powered 1 = false)) := by decide +kernel

theorem test_EventCapture_meets :
    (let s₀ : State := up
     let t : Time := 6000000000
     (s₀.sound = true) ∧
     ((s₀.atTime t).islandOn 5 = true) ∧
     let s := s₀.atTime t
     (s.mor.triggers = [])) ∧
    (let s₀ : State := mor 62 (trigOf 0x21)
     let x : Trig := trigOf 0x21
     let l : List Trig := []
     let t : Time := 6000000000
     (s₀.sound = true) ∧
     ((s₀.atTime t).islandOn 5 = true) ∧
     let s := s₀.atTime t
     (s.mor.triggers = x :: l) ∧
     (s.mor.evq.length < 4351) ∧
     (s.stepState 7 ≠ stSkipped) ∧
     (s.afterHoldover x = false) ∧
     (s.inFlush x = false) ∧
     (s.trigSev x < 4) ∧
     ((s.codeRate x.code = 0 ∨ isSummary x.code = true ∨ 0 < (s.bucket x.code).tokens)) ∧
     (s.mor.fifo.length < 63)) ∧
    (let s₀ : State := (mor 63 (trigOf 0x21)) |>.setFld (R.REC_CODECFG 0x21) F.REC_CODECFG_RATE 0
     let x : Trig := trigOf 0x21
     let l : List Trig := []
     let t : Time := 6000000000
     (s₀.sound = true) ∧
     ((s₀.atTime t).islandOn 5 = true) ∧
     let s := s₀.atTime t
     (s.mor.triggers = x :: l) ∧
     (s.mor.evq.length < 4351) ∧
     (s.stepState 7 ≠ stSkipped) ∧
     (s.afterHoldover x = false) ∧
     (s.inFlush x = false) ∧
     (s.trigSev x < 4) ∧
     (s.codeRate x.code = 0) ∧
     (x.code ≠ 0x68) ∧
     (63 ≤ s.mor.fifo.length)) ∧
    (let s₀ : State := morBucket 0 (mor 0 (trigOf 0x21))
     let x : Trig := trigOf 0x21
     let l : List Trig := []
     let t : Time := 6000000000
     (s₀.sound = true) ∧
     ((s₀.atTime t).islandOn 5 = true) ∧
     let s := s₀.atTime t
     (s.mor.triggers = x :: l) ∧
     (s.mor.evq.length < 4351) ∧
     (s.stepState 7 ≠ stSkipped) ∧
     (s.afterHoldover x = false) ∧
     (s.inFlush x = false) ∧
     (s.trigSev x < 4) ∧
     (s.codeRate x.code ≠ 0) ∧
     (isSummary x.code = false) ∧
     ((s.bucket x.code).tokens = 0)) ∧
    (let s₀ : State := morBucket 0 (mor 0 (trigOf 0x21))
     let c : Fin 128 := 0x21
     let t : Time := 6000000000
     (s₀.sound = true) ∧
     ((s₀.atTime t).islandOn 5 = true) ∧
     let s := s₀.atTime t
     let b := s.bucket c
     (b.tokens < s.codeBurst c) ∧
     (s.codeRate c ≠ 0) ∧
     (60000000000 ≤ (s.now - b.since) * s.codeRate c)) ∧
    (let s₀ : State := mor 62 (trigOf 0x21)
     let c : Fin 128 := 0x21
     let t : Time := 6000000000
     (s₀.sound = true) ∧
     ((s₀.atTime t).islandOn 5 = true) ∧
     let s := s₀.atTime t
     let b := s.bucket c
     (s.codeBurst c ≤ b.tokens)) ∧
    (let s₀ : State := morBucket 9 (mor 0 (trigOf 0x21))
     let c : Fin 128 := 0x21
     let t : Time := 6000000000
     (s₀.sound = true) ∧
     ((s₀.atTime t).islandOn 5 = true) ∧
     let s := s₀.atTime t
     let b := s.bucket c
     (b.suppressed ≠ 0) ∧
     ((s.codeBurst c ≤ b.tokens ∨ b.firstAt + 60000000000 ≤ s.now))) ∧
    (let s₀ : State := mor 62 (trigOf 0x21)
     let c : Fin 128 := 0x21
     let t : Time := 6000000000
     (s₀.sound = true) ∧
     ((s₀.atTime t).islandOn 5 = true) ∧
     let s := s₀.atTime t
     let b := s.bucket c
     (b.suppressed = 0)) := by decide +kernel

theorem test_RecordPlacement_meets :
    (let s₀ : State := rebuilding
     let t : Time := 6000000000
     (s₀.sound = true) ∧
     let s := s₀.atTime t
     (s.writerOn = false)) ∧
    (let s₀ : State := held.setMor { held.mor with fifo := [recOf 0x24 2] }
     let r : Rec := recOf 0x24 2
     let l : List Rec := []
     let k : Nat := 2
     let t : Time := 6000000000
     (s₀.sound = true) ∧
     let s := s₀.atTime t
     (s.writerOn = true) ∧
     (s.mor.fifo = r :: l) ∧
     (r.sev < 4) ∧
     (s.slotFor r.sev = some k) ∧
     (s.nextSeq + 1 < 2 ^ 48) ∧
     (s.slot k = none)) ∧
    (let s₀ : State := rebuilding
     let t : Time := 6000000000
     (s₀.sound = true) ∧
     let s := s₀.atTime t
     (s.islandOn 9 = true) ∧
     (s.flag R.REC_STAT F.REC_STAT_REBUILD = true)) ∧
    (let s₀ : State := held
     let t : Time := 6000000000
     (s₀.sound = true) ∧
     let s := s₀.atTime t
     (s.flag R.REC_STAT F.REC_STAT_REBUILD = false)) := by decide +kernel

theorem test_RecorderConfiguration_meets :
    (let s₀ : State := up.setFld R.PWR_DOM F.PWR_DOM_ON 0x7EF
     let t : Time := 6000000000
     (s₀.sound = true) ∧
     let s := s₀.atTime t
     (s.powered 4 = false)) ∧
    (let s₀ : State := up
     let t : Time := 6000000000
     (s₀.sound = true) ∧
     let s := s₀.atTime t
     (s.powered 4 = true) ∧
     (s.lockOpen = false)) ∧
    (let s₀ : State := unlocked up
     let c : Fin 128 := 9
     let t : Time := 6000000000
     (s₀.sound = true) ∧
     let s := s₀.atTime t
     (s.powered 4 = true) ∧
     (s.lockOpen = true) ∧
     (reservedCode c = true)) ∧
    (let s₀ : State := unlocked (mor 0 (trigOf 0x21))
     let c : Fin 128 := 0x21
     let v : Word := BitVec.ofNat 32 (putFld F.REC_CODECFG_BURST (putFld F.REC_CODECFG_RATE 0 60) 0).toNat
     let t : Time := 6000000000
     (s₀.sound = true) ∧
     let s := s₀.atTime t
     let bad := (fldOf F.REC_CODECFG_RATE v ≠ 0 ∧ fldOf F.REC_CODECFG_BURST v = 0) ∨ 16 < fldOf F.REC_CODECFG_SSET v
     (s.powered 4 = true) ∧
     (s.lockOpen = true) ∧
     (reservedCode c = false) ∧
     (bad)) ∧
    (let s₀ : State := unlocked (mor 0 (trigOf 0x21))
     let c : Fin 128 := 0x21
     let v : Word := BitVec.ofNat 32 (putFld F.REC_CODECFG_BURST (putFld F.REC_CODECFG_RATE 0 60) 3).toNat
     let t : Time := 6000000000
     (s₀.sound = true) ∧
     let s := s₀.atTime t
     let bad := (fldOf F.REC_CODECFG_RATE v ≠ 0 ∧ fldOf F.REC_CODECFG_BURST v = 0) ∨ 16 < fldOf F.REC_CODECFG_SSET v
     (s.powered 4 = true) ∧
     (s.lockOpen = true) ∧
     (reservedCode c = false) ∧
     (¬ bad)) ∧
    (let s₀ : State := unlocked up
     let v : Word := BitVec.ofNat 32 R.PWR_DOM
     let t : Time := 6000000000
     (s₀.sound = true) ∧
     let s := s₀.atTime t
     (s.powered 4 = true) ∧
     (s.lockOpen = true) ∧
     ((v = 0 ∨ (v.toNat % 4 = 0 ∧ standsAt v.toNat = true)))) ∧
    (let s₀ : State := unlocked up
     let v : Word := 0x00010001
     let t : Time := 6000000000
     (s₀.sound = true) ∧
     let s := s₀.atTime t
     (s.powered 4 = true) ∧
     (s.lockOpen = true) ∧
     (v ≠ 0) ∧
     ((v.toNat % 4 ≠ 0 ∨ standsAt v.toNat = false))) := by decide +kernel

theorem test_RecorderCursors_meets :
    (let s : State := held
     let x : Nat × Nat × Rec := (0, 5, recOf 0x21 3)
     let y : Option (Nat × Nat × Rec) := some (0, 5, recOf 0x21 3)
     (s.sound = true) ∧
     (y = some x)) ∧
    (let s : State := rebuilding
     let rebuild := s.flag R.REC_STAT F.REC_STAT_REBUILD
     (s.powered 8 = true) ∧
     (rebuild = true)) ∧
    (let s : State := held
     let rebuild := s.flag R.REC_STAT F.REC_STAT_REBUILD
     (s.powered 8 = true) ∧
     (rebuild = false)) ∧
    (let s : State := held
     let p : Port := .host
     let rebuild := s.flag R.REC_STAT F.REC_STAT_REBUILD
     (s.powered 8 = true) ∧
     (rebuild = false) ∧
     ((s.cursor p).latched = none)) ∧
    (let s : State := latchedAt 5
     let p : Port := .host
     let rebuild := s.flag R.REC_STAT F.REC_STAT_REBUILD
     (s.powered 8 = true) ∧
     (rebuild = false) ∧
     ((s.cursor p).latched ≠ none) ∧
     (s.overwritten p = false)) ∧
    (let s : State := latchedAt 4
     let p : Port := .host
     let m : BitVec 2 := 2
     let x : Nat × Nat × Rec := (0, 5, recOf 0x21 3)
     let seen := s.visible m.toNat
     let rebuild := s.flag R.REC_STAT F.REC_STAT_REBUILD
     (s.powered 8 = true) ∧
     (rebuild = false) ∧
     (s.overwritten p = true) ∧
     (oldestOf seen = some x)) ∧
    (let s : State := held.setFld R.PWR_DOM F.PWR_DOM_ON 0x6FF
     (s.powered 8 = false)) ∧
    (let s : State := held
     let p : Port := .host
     (s.powered 8 = true) ∧
     (s.overwritten p = false)) ∧
    (let s : State := (latchedAt 4).setFld (R.REC_CURCMD 0) F.REC_CURCMD_MINSEV 3
     let p : Port := .host
     let x : Nat × Nat × Rec := (0, 5, recOf 0x21 3)
     let a := cursorNo p
     (s.powered 8 = true) ∧
     (s.overwritten p = true) ∧
     (oldestOf (s.visible (s.fld (R.REC_CURCMD a) F.REC_CURCMD_MINSEV)) = some x)) := by decide +kernel

theorem test_RingPorts_meets :
    (let s : State := ring
     let b : Bool := true
     (s.sound = true) ∧
     (s.portOn b.toNat = true) ∧
     let p := b.toNat
     (s.portLink p = false) ∧
     (s.portStarted p = true)) ∧
    (let s : State := ringMiss 3
     let b : Bool := false
     (s.sound = true) ∧
     (s.portOn b.toNat = true) ∧
     let p := b.toNat
     let miss (s : State) (p : Nat) := s.fld (R.RNG_PORT p) F.RNG_PORT_MISS
     (s.portLink p = true) ∧
     (3 ≤ miss s p) ∧
     (s.portState p ≠ 2)) ∧
    (let s : State := ring
     let b : Bool := false
     (s.sound = true) ∧
     (s.portOn b.toNat = true) ∧
     let p := b.toNat
     let miss (s : State) (p : Nat) := s.fld (R.RNG_PORT p) F.RNG_PORT_MISS
     ((s.portLink p = false ∨ miss s p < 3))) ∧
    (let s : State := (ringMiss 255).setFld (R.RNG_PORT 1) F.RNG_PORT_MISS 1
     let b : Bool := false
     (s.sound = true) ∧
     (s.portOn b.toNat = true) ∧
     let p := b.toNat
     let other := 1 - b.toNat
     let miss (s : State) (p : Nat) := s.fld (R.RNG_PORT p) F.RNG_PORT_MISS
     (miss s other ≠ 0)) ∧
    (let s : State := ring
     let b : Bool := false
     (s.sound = true) ∧
     (s.portOn b.toNat = true) ∧
     let p := b.toNat
     let other := 1 - b.toNat
     let miss (s : State) (p : Nat) := s.fld (R.RNG_PORT p) F.RNG_PORT_MISS
     (miss s other = 0)) ∧
    (let s : State := ring
     let b : Bool := false
     let v : BitVec 7 := 64
     (s.sound = true) ∧
     (s.portOn b.toNat = true) ∧
     (s.sup.running = true) ∧
     (v.toNat ≠ s.sup.contactsNow)) ∧
    (let s : State := ring
     let b : Bool := true
     let v : BitVec 7 := 9
     (s.sound = true) ∧
     (s.portOn b.toNat = true) ∧
     (v.toNat = s.sup.contactsNow)) := by decide +kernel

theorem test_RingHeaders_meets :
    (let s₀ : State := ring
     let b : Bool := true
     let e : BitVec 16 := 0x88B6
     let l : List Byte := hdrOf 1 7 0x1234
     let t : Time := 6000000000
     (s₀.sound = true) ∧
     ((s₀.atTime t).portRuns b.toNat = true) ∧
     (s₀.sup.running = true) ∧
     let s := s₀.atTime t
     (s.headerCounts e l = false)) ∧
    (let s₀ : State := ring
     let b : Bool := true
     let e : BitVec 16 := 0x88B5
     let l : List Byte := hdrOf 1 7 0x1234
     let t : Time := 6000000000
     (s₀.sound = true) ∧
     ((s₀.atTime t).portRuns b.toNat = true) ∧
     (s₀.sup.running = true) ∧
     let s := s₀.atTime t
     (s.headerCounts e l = true) ∧
     (s.noImage = false) ∧
     (hdrEpoch l = s.ownEpoch)) ∧
    (let s₀ : State := ring.setRing { ring.ring with lastCycle := some 7 }
     let b : Bool := true
     let e : BitVec 16 := 0x88B5
     let l : List Byte := hdrOf 1 7 0x1234
     let t : Time := 6000000000
     (s₀.sound = true) ∧
     ((s₀.atTime t).portRuns b.toNat = true) ∧
     (s₀.sup.running = true) ∧
     let s := s₀.atTime t
     (s.headerCounts e l = true) ∧
     (s.ring.lastCycle = some (hdrCycle l))) ∧
    (let s₀ : State := ring
     let b : Bool := true
     let e : BitVec 16 := 0x88B5
     let l : List Byte := hdrOf 1 7 0x1234
     let t : Time := 6000000000
     (s₀.sound = true) ∧
     ((s₀.atTime t).portRuns b.toNat = true) ∧
     (s₀.sup.running = true) ∧
     let s := s₀.atTime t
     (s.headerCounts e l = true) ∧
     (s.ring.lastCycle ≠ some (hdrCycle l)) ∧
     (s.hasSlot = true)) ∧
    (let s₀ : State := ring.setFlag R.SYS_START F.SYS_START_NOIMG true
     let b : Bool := true
     let e : BitVec 16 := 0x88B5
     let l : List Byte := hdrOf 1 7 0x1234
     let t : Time := 6000000000
     (s₀.sound = true) ∧
     ((s₀.atTime t).portRuns b.toNat = true) ∧
     (s₀.sup.running = true) ∧
     let s := s₀.atTime t
     (s.headerCounts e l = true) ∧
     (s.ring.lastCycle ≠ some (hdrCycle l)) ∧
     (s.hasSlot = false)) := by decide +kernel

theorem test_RingFrames_meets :
    (let s₀ : State := ring
     let b : Bool := false
     let tag : Bool := true
     let e : BitVec 16 := 0x88B5
     let hdr : List Byte := hdrOf 1 7 0x1234
     let area : List Byte := leBytes 1 3 ++ [0, 0, 9] ++ List.replicate 1028 0
     let t : Time := 6000000000
     (s₀.sound = true) ∧
     ((s₀.atTime t).portRuns b.toNat = true) ∧
     (s₀.sup.running = true) ∧
     let s := s₀.atTime t
     let goes := e.toNat = s.fld R.RNG_CFG F.RNG_CFG_ETYPE ∧ tag = false ∧ 46 ≤ hdr.length + area.length
     (¬ goes)) ∧
    (let s₀ : State := ring
     let b : Bool := false
     let tag : Bool := false
     let e : BitVec 16 := 0x88B5
     let hdr : List Byte := hdrOf 1 7 0x1234
     let area : List Byte := List.replicate 1032 0
     let t : Time := 6000000000
     (s₀.sound = true) ∧
     ((s₀.atTime t).portRuns b.toNat = true) ∧
     (s₀.sup.running = true) ∧
     let s := s₀.atTime t
     let m := parseMsg area
     let goes := e.toNat = s.fld R.RNG_CFG F.RNG_CFG_ETYPE ∧ tag = false ∧ 46 ≤ hdr.length + area.length
     (goes) ∧
     ((hdrValid hdr = false ∨ s.ringAddr = 0 ∨
             (hdrKind hdr = 1 ∧ m.node.toNat ≠ s.ringAddr ∧ (area.getD 515 0).toNat ≠ s.ringAddr) ∨
             (hdrKind hdr = 2 ∧ (s.hasSlot = false ∨ s.flag R.RNG_STAT F.RNG_STAT_LAYOUT = true)) ∨
             (hdrKind hdr ≠ 1 ∧ hdrKind hdr ≠ 2)))) ∧
    (let s₀ : State := ring
     let b : Bool := false
     let tag : Bool := false
     let e : BitVec 16 := 0x88B5
     let hdr : List Byte := hdrOf 1 7 0x1234
     let area : List Byte := List.replicate 1032 0
     let t : Time := 6000000000
     (s₀.sound = true) ∧
     ((s₀.atTime t).portRuns b.toNat = true) ∧
     (s₀.sup.running = true) ∧
     let s := s₀.atTime t
     let p := b.toNat
     let m := parseMsg area
     let goes := e.toNat = s.fld R.RNG_CFG F.RNG_CFG_ETYPE ∧ tag = false ∧ 46 ≤ hdr.length + area.length
     (goes) ∧
     ((hdrValid hdr = false ∨ s.ringAddr = 0 ∨
             (hdrKind hdr = 1 ∧ m.node.toNat ≠ s.ringAddr ∧ (area.getD 515 0).toNat ≠ s.ringAddr) ∨
             (hdrKind hdr = 2 ∧ (s.hasSlot = false ∨ s.flag R.RNG_STAT F.RNG_STAT_LAYOUT = true)) ∨
             (hdrKind hdr ≠ 1 ∧ hdrKind hdr ≠ 2))) ∧
     (s.portSends (1 - p) = true)) ∧
    (let s₀ : State := ring.setFlag (R.RNG_PORT 1) F.RNG_PORT_LOOPT true
     let b : Bool := false
     let tag : Bool := false
     let e : BitVec 16 := 0x88B5
     let hdr : List Byte := hdrOf 3 7 0
     let area : List Byte := leBytes 1 3 ++ [0, 0, 9] ++ List.replicate 1028 0
     let t : Time := 6000000000
     (s₀.sound = true) ∧
     ((s₀.atTime t).portRuns b.toNat = true) ∧
     (s₀.sup.running = true) ∧
     let s := s₀.atTime t
     let p := b.toNat
     let m := parseMsg area
     let goes := e.toNat = s.fld R.RNG_CFG F.RNG_CFG_ETYPE ∧ tag = false ∧ 46 ≤ hdr.length + area.length
     (goes) ∧
     ((hdrValid hdr = false ∨ s.ringAddr = 0 ∨
             (hdrKind hdr = 1 ∧ m.node.toNat ≠ s.ringAddr ∧ (area.getD 515 0).toNat ≠ s.ringAddr) ∨
             (hdrKind hdr = 2 ∧ (s.hasSlot = false ∨ s.flag R.RNG_STAT F.RNG_STAT_LAYOUT = true)) ∨
             (hdrKind hdr ≠ 1 ∧ hdrKind hdr ≠ 2))) ∧
     (s.portSends (1 - p) = false)) ∧
    (let s₀ : State := ring
     let b : Bool := false
     let n : Byte := 8
     let t : Time := 6000000000
     (s₀.sound = true) ∧
     ((s₀.atTime t).portRuns b.toNat = true) ∧
     (s₀.sup.running = true) ∧
     let s := s₀.atTime t
     (n.toNat ≠ s.ringAddr)) ∧
    (let s₀ : State := ring.setRing { ring.ring with resps := [⟨3, .ok, 5, none, [1, 2], none, false⟩] }
     let b : Bool := false
     let n : Byte := 9
     let r : Resp := ⟨3, .ok, 5, none, [1, 2], none, false⟩
     let l : List Resp := []
     let t : Time := 6000000000
     (s₀.sound = true) ∧
     ((s₀.atTime t).portRuns b.toNat = true) ∧
     (s₀.sup.running = true) ∧
     let s := s₀.atTime t
     (n.toNat = s.ringAddr) ∧
     (s.ringAddr ≠ 0) ∧
     (s.ring.resps = r :: l) ∧
     ((r.taken = none ∨ r.taken ≠ s.ring.lastCycle)) ∧
     (r.payload.length ≤ 496)) ∧
    (let s₀ : State := ring
     let b : Bool := false
     let n : Byte := 9
     let t : Time := 6000000000
     (s₀.sound = true) ∧
     ((s₀.atTime t).portRuns b.toNat = true) ∧
     (s₀.sup.running = true) ∧
     let s := s₀.atTime t
     (n.toNat = s.ringAddr) ∧
     (s.ringAddr ≠ 0) ∧
     (s.ring.resps = [])) := by decide +kernel

theorem test_ServicePort_meets :
    (let s₀ : State := ring.setFlag R.SVC_STAT F.SVC_STAT_ATTACHED true
     (s₀.svcOn = true) ∧
     (s₀.sup.running = true) ∧
     (s₀.flag R.SVC_STAT F.SVC_STAT_ATTACHED = true)) ∧
    (let s₀ : State := ring
     (s₀.svcOn = true) ∧
     (s₀.sup.running = true) ∧
     (s₀.flag R.SVC_STAT F.SVC_STAT_ATTACHED = false)) ∧
    (let s₀ : State := ring
     let t : Time := 6000000000
     (s₀.svcOn = true) ∧
     (s₀.sup.running = true) ∧
     let s := s₀.atTime t
     let on := s.flag R.SVC_STAT F.SVC_STAT_SESSION
     (on = false)) ∧
    (let s₀ : State := (svcOn ring).setRing { ring.ring with svcBusy := true }
     let m : Msg := (msgOf 3 0 0 [])
     let crc : Word := 7
     let t : Time := 6000000000
     (s₀.svcOn = true) ∧
     (s₀.sup.running = true) ∧
     let s := s₀.atTime t
     let on := s.flag R.SVC_STAT F.SVC_STAT_SESSION
     let good := crc32c (wireBytes m)
     (on = true) ∧
     (crc ≠ good)) ∧
    (let s₀ : State := (svcOn ring).setRing { ring.ring with svcBusy := true }
     let t : Time := 6000000000
     (s₀.svcOn = true) ∧
     (s₀.sup.running = true) ∧
     let s := s₀.atTime t
     let on := s.flag R.SVC_STAT F.SVC_STAT_SESSION
     (on = true) ∧
     (s.ring.svcBusy = true)) ∧
    (let s₀ : State := ring
     let m : Msg := (msgOf 1 0 0 [])
     (s₀.svcOn = true) ∧
     (s₀.sup.running = true) ∧
     (m.type = 1)) ∧
    (let s₀ : State := ring.setFlag R.SVC_STAT F.SVC_STAT_ATTACHED true
     let m : Msg := (msgOf 2 0 0 [])
     (s₀.svcOn = true) ∧
     (s₀.sup.running = true) ∧
     (m.type = 2)) ∧
    (let s₀ : State := (svcOn ring).setRing { ring.ring with svcBusy := true }
     let m : Msg := (msgOf 3 0 0 [])
     (s₀.svcOn = true) ∧
     (s₀.sup.running = true) ∧
     (m.type = 3)) ∧
    (let s₀ : State := svcOn ring
     let m : Msg := (msgOf 4 0 1 [])
     (s₀.svcOn = true) ∧
     (s₀.sup.running = true) ∧
     let code (k : Nat) := m.type.toNat = 4 ∧ m.arg1.toNat = k
     (code 1)) ∧
    (let s₀ : State := svcOn ring
     let m : Msg := (msgOf 4 0 2 [])
     (s₀.svcOn = true) ∧
     (s₀.sup.running = true) ∧
     let code (k : Nat) := m.type.toNat = 4 ∧ m.arg1.toNat = k
     (code 2)) ∧
    (let s₀ : State := svcOn ring
     let m : Msg := (msgOf 4 0 3 [])
     (s₀.svcOn = true) ∧
     (s₀.sup.running = true) ∧
     let code (k : Nat) := m.type.toNat = 4 ∧ m.arg1.toNat = k
     (code 3)) ∧
    (let s₀ : State := svcOn ring
     let m : Msg := (msgOf 4 0 4 [])
     (s₀.svcOn = true) ∧
     (s₀.sup.running = true) ∧
     let code (k : Nat) := m.type.toNat = 4 ∧ m.arg1.toNat = k
     (code 4)) ∧
    (let s₀ : State := svcOn ring
     let m : Msg := (msgOf 4 0 5 [])
     (s₀.svcOn = true) ∧
     (s₀.sup.running = true) ∧
     let code (k : Nat) := m.type.toNat = 4 ∧ m.arg1.toNat = k
     (code 5)) ∧
    (let s₀ : State := svcOn ring
     let m : Msg := (msgOf 4 0 6 [])
     (s₀.svcOn = true) ∧
     (s₀.sup.running = true) ∧
     let code (k : Nat) := m.type.toNat = 4 ∧ m.arg1.toNat = k
     (code 6)) ∧
    (let s₀ : State := svcOn ring
     let m : Msg := (msgOf 4 0 7 [])
     (s₀.svcOn = true) ∧
     (s₀.sup.running = true) ∧
     let code (k : Nat) := m.type.toNat = 4 ∧ m.arg1.toNat = k
     (code 7)) ∧
    (let s₀ : State := svcOn ring
     let m : Msg := (msgOf 5 0 0 [])
     (s₀.svcOn = true) ∧
     (s₀.sup.running = true) ∧
     (m.type = 5)) ∧
    (let s₀ : State := svcOn ring
     let m : Msg := (msgOf 7 0 0 [])
     (s₀.svcOn = true) ∧
     (s₀.sup.running = true) ∧
     (m.type = 7)) ∧
    (let s₀ : State := svcOn ring
     let m : Msg := (msgOf 6 0 1 [])
     (s₀.svcOn = true) ∧
     (s₀.sup.running = true) ∧
     (m.type = 6) ∧
     (m.arg1 = 1)) ∧
    (let s₀ : State := svcOn ring
     let m : Msg := (msgOf 6 0 2 [])
     (s₀.svcOn = true) ∧
     (s₀.sup.running = true) ∧
     (m.type = 6) ∧
     (m.arg1 = 2)) := by decide +kernel

theorem test_RequestChecks_meets :
    (let p : Port := .host
     let m : Msg := (msgOf 1 0 0 [])
     let i : Instr := .mbxWrite .host (msgOf 1 0 0 []) 6000000000
     let fits : Bool := false
     let t : Time := 6000000000
     let code (k : Nat) := decide (m.type = 4) && decide (m.arg1.toNat = k)
     let rante (k : Nat) := decide (m.type = 6) && decide (m.arg1.toNat = k)
     ((i, fits) ∈ [(Instr.mbxRead p m t, decide (m.type = 1)), (.mbxWrite p m t, decide (m.type = 2)),
           (.readCh p m t, decide (m.type = 3)), (.ack p m t, decide (m.type = 7)), (.hostevt p m t, code 1),
           (.imageBegin p m t, code 2), (.imageEnd p m t, code 3), (.imageSwitch p m t, code 4), (.restart p m t, code 5),
           (.digestNow p m t, code 6), (.countclr p m t, code 7), (.imageBlock p m t, decide (m.type = 5)),
           (.ranteRead p m t, rante 1), (.ranteWrite p m t, rante 2)]) ∧
     (fits = false)) ∧
    (let s₀ : State := (ringReq (msgOf 2 0 0 []) (ring.setFld R.RNG_STAT F.RNG_STAT_ADDR 8))
     let p : Port := .host
     let m : Msg := (msgOf 1 0 0 [])
     let i : Instr := .mbxRead .host (msgOf 1 0 0 []) 6000000000
     let fits : Bool := true
     let t : Time := 6000000000
     let s := s₀.atTime t
     let code (k : Nat) := decide (m.type = 4) && decide (m.arg1.toNat = k)
     let rante (k : Nat) := decide (m.type = 6) && decide (m.arg1.toNat = k)
     ((i, fits) ∈ [(Instr.mbxRead p m t, decide (m.type = 1)), (.mbxWrite p m t, decide (m.type = 2)),
           (.readCh p m t, decide (m.type = 3)), (.ack p m t, decide (m.type = 7)), (.hostevt p m t, code 1),
           (.imageBegin p m t, code 2), (.imageEnd p m t, code 3), (.imageSwitch p m t, code 4), (.restart p m t, code 5),
           (.digestNow p m t, code 6), (.countclr p m t, code 7), (.imageBlock p m t, decide (m.type = 5)),
           (.ranteRead p m t, rante 1), (.ranteWrite p m t, rante 2)]) ∧
     (p = .host) ∧
     (s.ring.taken.head? ≠ some m) ∧
     (m.node.toNat ≠ s.ringAddr)) ∧
    (let s₀ : State := (ringReq (msgOf 1 0 0 []) (ring.setFld R.RNG_STAT F.RNG_STAT_ADDR 0))
     let p : Port := .host
     let m : Msg := (msgOf 1 0 0 [])
     let i : Instr := .mbxRead .host (msgOf 1 0 0 []) 6000000000
     let fits : Bool := true
     let t : Time := 6000000000
     let s := s₀.atTime t
     let code (k : Nat) := decide (m.type = 4) && decide (m.arg1.toNat = k)
     let rante (k : Nat) := decide (m.type = 6) && decide (m.arg1.toNat = k)
     ((i, fits) ∈ [(Instr.mbxRead p m t, decide (m.type = 1)), (.mbxWrite p m t, decide (m.type = 2)),
           (.readCh p m t, decide (m.type = 3)), (.ack p m t, decide (m.type = 7)), (.hostevt p m t, code 1),
           (.imageBegin p m t, code 2), (.imageEnd p m t, code 3), (.imageSwitch p m t, code 4), (.restart p m t, code 5),
           (.digestNow p m t, code 6), (.countclr p m t, code 7), (.imageBlock p m t, decide (m.type = 5)),
           (.ranteRead p m t, rante 1), (.ranteWrite p m t, rante 2)]) ∧
     (p = .host) ∧
     ((s.powered 9 = false ∨ s.sup.running = false ∨ s.ringAddr = 0))) ∧
    (let s₀ : State := (ringReq ({ (msgOf 1 0 0 []) with len := 497 }) (ring))
     let p : Port := .host
     let m : Msg := { (msgOf 1 0 0 []) with len := 497 }
     let i : Instr := .mbxRead .host ({ (msgOf 1 0 0 []) with len := 497 }) 6000000000
     let fits : Bool := true
     let r : Status := .length
     let t : Time := 6000000000
     let s := s₀.atTime t
     let w := s.onTurn p m
     let code (k : Nat) := decide (m.type = 4) && decide (m.arg1.toNat = k)
     let rante (k : Nat) := decide (m.type = 6) && decide (m.arg1.toNat = k)
     ((i, fits) ∈ [(Instr.mbxRead p m t, decide (m.type = 1)), (.mbxWrite p m t, decide (m.type = 2)),
           (.readCh p m t, decide (m.type = 3)), (.ack p m t, decide (m.type = 7)), (.hostevt p m t, code 1),
           (.imageBegin p m t, code 2), (.imageEnd p m t, code 3), (.imageSwitch p m t, code 4), (.restart p m t, code 5),
           (.digestNow p m t, code 6), (.countclr p m t, code 7), (.imageBlock p m t, decide (m.type = 5)),
           (.ranteRead p m t, rante 1), (.ranteWrite p m t, rante 2)]) ∧
     (fits = true) ∧
     (s.turnOf p m = true) ∧
     (w.checkMsg m = some r)) ∧
    (let p : Port := .svc
     let m : Msg := (msgOf 0 0 0 [])
     let i : Instr := .mbxWrite .svc (msgOf 0 0 0 []) 6000000000
     let fits : Bool := false
     let t : Time := 6000000000
     let code (k : Nat) := decide (m.type = 4) && decide (m.arg1.toNat = k)
     let rante (k : Nat) := decide (m.type = 6) && decide (m.arg1.toNat = k)
     ((i, fits) ∈ [(Instr.mbxRead p m t, decide (m.type = 1)), (.mbxWrite p m t, decide (m.type = 2)),
           (.readCh p m t, decide (m.type = 3)), (.ack p m t, decide (m.type = 7)), (.hostevt p m t, code 1),
           (.imageBegin p m t, code 2), (.imageEnd p m t, code 3), (.imageSwitch p m t, code 4), (.restart p m t, code 5),
           (.digestNow p m t, code 6), (.countclr p m t, code 7), (.imageBlock p m t, decide (m.type = 5)),
           (.ranteRead p m t, rante 1), (.ranteWrite p m t, rante 2)]) ∧
     ((m.type = 0 ∨ 7 < m.type.toNat))) ∧
    (let p : Port := .host
     let m : Msg := { (msgOf 1 0 0 []) with len := 497 }
     let i : Instr := .mbxRead .host ({ (msgOf 1 0 0 []) with len := 497 }) 6000000000
     let fits : Bool := true
     let t : Time := 6000000000
     let code (k : Nat) := decide (m.type = 4) && decide (m.arg1.toNat = k)
     let rante (k : Nat) := decide (m.type = 6) && decide (m.arg1.toNat = k)
     ((i, fits) ∈ [(Instr.mbxRead p m t, decide (m.type = 1)), (.mbxWrite p m t, decide (m.type = 2)),
           (.readCh p m t, decide (m.type = 3)), (.ack p m t, decide (m.type = 7)), (.hostevt p m t, code 1),
           (.imageBegin p m t, code 2), (.imageEnd p m t, code 3), (.imageSwitch p m t, code 4), (.restart p m t, code 5),
           (.digestNow p m t, code 6), (.countclr p m t, code 7), (.imageBlock p m t, decide (m.type = 5)),
           (.ranteRead p m t, rante 1), (.ranteWrite p m t, rante 2)]) ∧
     (1 ≤ m.type.toNat) ∧
     (m.type.toNat ≤ 7) ∧
     (496 < m.len.toNat)) ∧
    (let s₀ : State := (svcOn (ring))
     let p : Port := .svc
     let m : Msg := { (msgOf 1 0 0 []) with flags := 1 }
     let i : Instr := .mbxRead .svc ({ (msgOf 1 0 0 []) with flags := 1 }) 6000000000
     let fits : Bool := true
     let t : Time := 6000000000
     let s := s₀.atTime t
     let w := s.onTurn p m
     let code (k : Nat) := decide (m.type = 4) && decide (m.arg1.toNat = k)
     let rante (k : Nat) := decide (m.type = 6) && decide (m.arg1.toNat = k)
     ((i, fits) ∈ [(Instr.mbxRead p m t, decide (m.type = 1)), (.mbxWrite p m t, decide (m.type = 2)),
           (.readCh p m t, decide (m.type = 3)), (.ack p m t, decide (m.type = 7)), (.hostevt p m t, code 1),
           (.imageBegin p m t, code 2), (.imageEnd p m t, code 3), (.imageSwitch p m t, code 4), (.restart p m t, code 5),
           (.digestNow p m t, code 6), (.countclr p m t, code 7), (.imageBlock p m t, decide (m.type = 5)),
           (.ranteRead p m t, rante 1), (.ranteWrite p m t, rante 2)]) ∧
     (1 ≤ m.type.toNat) ∧
     (m.type.toNat ≤ 7) ∧
     (m.len.toNat = 0) ∧
     (m.flags.getLsbD 0 = true) ∧
     (m.epoch.toNat ≠ w.ownEpoch)) ∧
    (let s₀ : State := (svcOn (ring.setFlag R.SYS_START F.SYS_START_NOIMG true))
     let p : Port := .svc
     let m : Msg := (msgOf 2 0 0 [])
     let i : Instr := .mbxWrite .svc (msgOf 2 0 0 []) 6000000000
     let fits : Bool := true
     let t : Time := 6000000000
     let s := s₀.atTime t
     let w := s.onTurn p m
     let code (k : Nat) := decide (m.type = 4) && decide (m.arg1.toNat = k)
     let rante (k : Nat) := decide (m.type = 6) && decide (m.arg1.toNat = k)
     ((i, fits) ∈ [(Instr.mbxRead p m t, decide (m.type = 1)), (.mbxWrite p m t, decide (m.type = 2)),
           (.readCh p m t, decide (m.type = 3)), (.ack p m t, decide (m.type = 7)), (.hostevt p m t, code 1),
           (.imageBegin p m t, code 2), (.imageEnd p m t, code 3), (.imageSwitch p m t, code 4), (.restart p m t, code 5),
           (.digestNow p m t, code 6), (.countclr p m t, code 7), (.imageBlock p m t, decide (m.type = 5)),
           (.ranteRead p m t, rante 1), (.ranteWrite p m t, rante 2)]) ∧
     (m.type = 2) ∧
     (m.len.toNat = 0) ∧
     (m.flags.getLsbD 0 = false) ∧
     (w.noImage = true)) := by decide +kernel

theorem test_RequestAnswers_meets :
    (let s₀ : State := (ringReq (msgOf 1 R.PWR_DOM 0 []) (ring))
     let p : Port := .host
     let m : Msg := (msgOf 1 R.PWR_DOM 0 [])
     let t : Time := 6000000000
     let s := s₀.atTime t
     let w := s.onTurn p m
     let n := m.arg1.toNat
     (s.turnOf p m = true) ∧
     (w.checkMsg m = none) ∧
     (m.type = 1) ∧
     (n = 0)) ∧
    (let s₀ : State := (ringReq (msgOf 1 R.PWR_DOM 125 []) (ring))
     let p : Port := .host
     let m : Msg := (msgOf 1 R.PWR_DOM 125 [])
     let t : Time := 6000000000
     let s := s₀.atTime t
     let w := s.onTurn p m
     let n := m.arg1.toNat
     (s.turnOf p m = true) ∧
     (w.checkMsg m = none) ∧
     (m.type = 1) ∧
     (124 < n)) ∧
    (let s₀ : State := (svcOn (ring))
     let p : Port := .svc
     let m : Msg := (msgOf 1 (R.PWR_DOM + 2) 1 [])
     let t : Time := 6000000000
     let s := s₀.atTime t
     let w := s.onTurn p m
     let a := m.arg0.toNat
     let n := m.arg1.toNat
     (s.turnOf p m = true) ∧
     (w.checkMsg m = none) ∧
     (m.type = 1) ∧
     (n = 1) ∧
     ((a % 4 ≠ 0 ∨ standsAt a = false))) ∧
    (let s₀ : State := (ringReq (msgOf 1 (R.DIO_DOCFG 0) 1 []) (ring.setFld R.PWR_DOM F.PWR_DOM_ON 0x7DF))
     let p : Port := .host
     let m : Msg := (msgOf 1 (R.DIO_DOCFG 0) 1 [])
     let t : Time := 6000000000
     let s := s₀.atTime t
     let w := s.onTurn p m
     let a := m.arg0.toNat
     let n := m.arg1.toNat
     (s.turnOf p m = true) ∧
     (w.checkMsg m = none) ∧
     (m.type = 1) ∧
     (n = 1) ∧
     (a % 4 = 0) ∧
     (standsAt a = true) ∧
     (w.powered (regDomain a) = false)) ∧
    (let s₀ : State := (ringReq (msgOf 1 R.PWR_DOM 1 []) (ring))
     let p : Port := .host
     let m : Msg := (msgOf 1 R.PWR_DOM 1 [])
     let t : Time := 6000000000
     let s := s₀.atTime t
     let w := s.onTurn p m
     let a := m.arg0.toNat
     let n := m.arg1.toNat
     let plain (a : Nat) := inWindowOf .host a = false ∧ inWindowOf .svc a = false ∧ (a < R.RTC_SEC ∨ R.RTC_CENT < a)
     (s.turnOf p m = true) ∧
     (w.checkMsg m = none) ∧
     (m.type = 1) ∧
     (n = 1) ∧
     (a % 4 = 0) ∧
     (standsAt a = true) ∧
     (w.powered (regDomain a) = true) ∧
     (plain a)) ∧
    (let s₀ : State := (ringReq (msgOf 2 R.PWR_DOM 0 [1, 2, 3]) (ring))
     let p : Port := .host
     let m : Msg := (msgOf 2 R.PWR_DOM 0 [1, 2, 3])
     let t : Time := 6000000000
     let s := s₀.atTime t
     let w := s.onTurn p m
     (s.turnOf p m = true) ∧
     (w.checkMsg m = none) ∧
     (m.type = 2) ∧
     ((msgBody m).length % 4 ≠ 0)) ∧
    (let s₀ : State := (ringReq (msgOf 2 (R.DIO_DIWBL 0) 0 (leBytes 4 0x12345678)) (ring))
     let p : Port := .host
     let m : Msg := (msgOf 2 (R.DIO_DIWBL 0) 0 (leBytes 4 0x12345678))
     let v : Word := 0x12345678
     let t : Time := 6000000000
     let s := s₀.atTime t
     let w := s.onTurn p m
     (s.turnOf p m = true) ∧
     (w.checkMsg m = none) ∧
     (m.type = 2) ∧
     (msgBody m = leBytes 4 v.toNat)) ∧
    (let s₀ : State := (ringReq (msgOf 3 5 0 []) (ring))
     let p : Port := .host
     let m : Msg := (msgOf 3 5 0 [])
     let t : Time := 6000000000
     let s := s₀.atTime t
     let w := s.onTurn p m
     let n := m.arg1.toNat
     (s.turnOf p m = true) ∧
     (w.checkMsg m = none) ∧
     (m.type = 3) ∧
     (n = 0)) ∧
    (let s₀ : State := (ringReq (msgOf 3 5 125 []) (ring))
     let p : Port := .host
     let m : Msg := (msgOf 3 5 125 [])
     let t : Time := 6000000000
     let s := s₀.atTime t
     let w := s.onTurn p m
     let n := m.arg1.toNat
     (s.turnOf p m = true) ∧
     (w.checkMsg m = none) ∧
     (m.type = 3) ∧
     (124 < n)) ∧
    (let s₀ : State := (ringReq (msgOf 3 250 7 []) (ring))
     let p : Port := .host
     let m : Msg := (msgOf 3 250 7 [])
     let t : Time := 6000000000
     let s := s₀.atTime t
     let w := s.onTurn p m
     let a := m.arg0.toNat
     let n := m.arg1.toNat
     (s.turnOf p m = true) ∧
     (w.checkMsg m = none) ∧
     (m.type = 3) ∧
     (0 < n) ∧
     (n ≤ 124) ∧
     (256 < a + n)) ∧
    (let s₀ : State := (ringReq (msgOf 3 250 6 []) (ring))
     let p : Port := .host
     let m : Msg := (msgOf 3 250 6 [])
     let t : Time := 6000000000
     let s := s₀.atTime t
     let w := s.onTurn p m
     let a := m.arg0.toNat
     let n := m.arg1.toNat
     (s.turnOf p m = true) ∧
     (w.checkMsg m = none) ∧
     (m.type = 3) ∧
     (0 < n) ∧
     (n ≤ 124) ∧
     (a + n ≤ 256) ∧
     (w.powered 4 = true)) ∧
    (let s₀ : State := (ringReq (msgOf 7 0 0 []) (ring))
     let p : Port := .host
     let m : Msg := (msgOf 7 0 0 [])
     let t : Time := 6000000000
     let s := s₀.atTime t
     let w := s.onTurn p m
     (s.turnOf p m = true) ∧
     (w.checkMsg m = none) ∧
     (m.type = 7)) ∧
    (let s₀ : State := (ringReq (msgOf 4 9 1 []) (ring))
     let p : Port := .host
     let m : Msg := (msgOf 4 9 1 [])
     let t : Time := 6000000000
     let s := s₀.atTime t
     let w := s.onTurn p m
     let n := m.arg1.toNat
     (s.turnOf p m = true) ∧
     (w.checkMsg m = none) ∧
     (m.type = 4) ∧
     (n = 1) ∧
     (msgBody m = [])) ∧
    (let s₀ : State := (ringReq (msgOf 4 65539 1 [1, 2]) (ring))
     let p : Port := .host
     let m : Msg := (msgOf 4 65539 1 [1, 2])
     let t : Time := 6000000000
     let s := s₀.atTime t
     let w := s.onTurn p m
     let n := m.arg1.toNat
     (s.turnOf p m = true) ∧
     (w.checkMsg m = none) ∧
     (m.type = 4) ∧
     (n = 1) ∧
     (msgBody m ≠ [])) ∧
    (let s₀ : State := (ringReq (msgOf 4 0 5 []) (ring))
     let p : Port := .host
     let m : Msg := (msgOf 4 0 5 [])
     let t : Time := 6000000000
     let s := s₀.atTime t
     let w := s.onTurn p m
     let n := m.arg1.toNat
     (s.turnOf p m = true) ∧
     (w.checkMsg m = none) ∧
     (m.type = 4) ∧
     (n = 5) ∧
     (w.lockOpen = false)) ∧
    (let s₀ : State := (ringReq (msgOf 4 0 5 []) (unlocked ring))
     let p : Port := .host
     let m : Msg := (msgOf 4 0 5 [])
     let t : Time := 6000000000
     let s := s₀.atTime t
     let w := s.onTurn p m
     let n := m.arg1.toNat
     (s.turnOf p m = true) ∧
     (w.checkMsg m = none) ∧
     (m.type = 4) ∧
     (n = 5) ∧
     (w.lockOpen = true) ∧
     (w.sup.restartReq = none)) ∧
    (let s₀ : State := (ringReq (msgOf 4 0 6 []) (ring.setFld R.PWR_DOM F.PWR_DOM_ON 0x6FF))
     let p : Port := .host
     let m : Msg := (msgOf 4 0 6 [])
     let t : Time := 6000000000
     let s := s₀.atTime t
     let w := s.onTurn p m
     let n := m.arg1.toNat
     (s.turnOf p m = true) ∧
     (w.checkMsg m = none) ∧
     (m.type = 4) ∧
     (n = 6) ∧
     ((w.powered 8 = false ∨ w.img.passHost = true))) ∧
    (let s₀ : State := (ringReq (msgOf 4 0 6 []) (ring))
     let p : Port := .host
     let m : Msg := (msgOf 4 0 6 [])
     let t : Time := 6000000000
     let s := s₀.atTime t
     let w := s.onTurn p m
     let n := m.arg1.toNat
     (s.turnOf p m = true) ∧
     (w.checkMsg m = none) ∧
     (m.type = 4) ∧
     (n = 6) ∧
     (w.powered 8 = true) ∧
     (w.img.passHost = false) ∧
     (w.noImage = false)) ∧
    (let s₀ : State := (ringReq (msgOf 4 0 7 []) (ringMiss 9))
     let p : Port := .host
     let m : Msg := (msgOf 4 0 7 [])
     let t : Time := 6000000000
     let s := s₀.atTime t
     let w := s.onTurn p m
     let n := m.arg1.toNat
     (s.turnOf p m = true) ∧
     (w.checkMsg m = none) ∧
     (m.type = 4) ∧
     (n = 7)) := by decide +kernel

theorem test_ImageTransfer_meets :
    (let s₀ : State := (ringReq (msgOf 4 4096 2 []) (imgAt 2 4096 0 ring))
     let p : Port := .host
     let m : Msg := (msgOf 4 4096 2 [])
     let t : Time := 6000000000
     let s := s₀.atTime t
     let w := s.onTurn p m
     let n := m.arg1.toNat
     (s.turnOf p m = true) ∧
     (w.checkMsg m = none) ∧
     (w.imageBusy p = true) ∧
     (m.type = 4) ∧
     (n = 2)) ∧
    (let s₀ : State := (ringReq (msgOf 5 0 0 []) (imgAt 2 4096 0 ring))
     let p : Port := .host
     let m : Msg := (msgOf 5 0 0 [])
     let t : Time := 6000000000
     let s := s₀.atTime t
     let w := s.onTurn p m
     (s.turnOf p m = true) ∧
     (w.checkMsg m = none) ∧
     (w.imageBusy p = true) ∧
     (m.type = 5)) ∧
    (let s₀ : State := (ringReq (msgOf 4 0 3 []) (imgAt 2 4096 0 ring))
     let p : Port := .host
     let m : Msg := (msgOf 4 0 3 [])
     let t : Time := 6000000000
     let s := s₀.atTime t
     let w := s.onTurn p m
     let n := m.arg1.toNat
     (s.turnOf p m = true) ∧
     (w.checkMsg m = none) ∧
     (w.imageBusy p = true) ∧
     (m.type = 4) ∧
     (n = 3)) ∧
    (let s₀ : State := (ringReq (msgOf 4 0 4 []) (imgAt 2 4096 0 ring))
     let p : Port := .host
     let m : Msg := (msgOf 4 0 4 [])
     let t : Time := 6000000000
     let s := s₀.atTime t
     let w := s.onTurn p m
     let n := m.arg1.toNat
     (s.turnOf p m = true) ∧
     (w.checkMsg m = none) ∧
     (w.imageBusy p = true) ∧
     (m.type = 4) ∧
     (n = 4)) ∧
    (let s₀ : State := (ringReq (msgOf 4 2097184 2 []) (ring))
     let p : Port := .host
     let m : Msg := (msgOf 4 2097184 2 [])
     let t : Time := 6000000000
     let s := s₀.atTime t
     let w := s.onTurn p m
     let a := m.arg0.toNat
     let n := m.arg1.toNat
     let mine := w.imageBusy p = false
     (s.turnOf p m = true) ∧
     (w.checkMsg m = none) ∧
     (mine) ∧
     (m.type = 4) ∧
     (n = 2) ∧
     (2097152 < a)) ∧
    (let s₀ : State := (ringReq (msgOf 4 4095 2 []) (ring))
     let p : Port := .host
     let m : Msg := (msgOf 4 4095 2 [])
     let t : Time := 6000000000
     let s := s₀.atTime t
     let w := s.onTurn p m
     let a := m.arg0.toNat
     let n := m.arg1.toNat
     let mine := w.imageBusy p = false
     (s.turnOf p m = true) ∧
     (w.checkMsg m = none) ∧
     (mine) ∧
     (m.type = 4) ∧
     (n = 2) ∧
     (0 < a) ∧
     (a < 4096)) ∧
    (let s₀ : State := (ringReq (msgOf 4 4096 2 []) (ring))
     let p : Port := .host
     let m : Msg := (msgOf 4 4096 2 [])
     let t : Time := 6000000000
     let s := s₀.atTime t
     let w := s.onTurn p m
     let a := m.arg0.toNat
     let n := m.arg1.toNat
     let mine := w.imageBusy p = false
     (s.turnOf p m = true) ∧
     (w.checkMsg m = none) ∧
     (mine) ∧
     (m.type = 4) ∧
     (n = 2) ∧
     (4096 ≤ a) ∧
     (a ≤ 2097152) ∧
     (a % 32 = 0) ∧
     (w.lockOpen = false) ∧
     (w.anyValid = true)) ∧
    (let s₀ : State := (ringReq (msgOf 4 4096 2 []) (unlocked ring))
     let p : Port := .host
     let m : Msg := (msgOf 4 4096 2 [])
     let t : Time := 6000000000
     let s := s₀.atTime t
     let w := s.onTurn p m
     let a := m.arg0.toNat
     let n := m.arg1.toNat
     let mine := w.imageBusy p = false
     (s.turnOf p m = true) ∧
     (w.checkMsg m = none) ∧
     (mine) ∧
     (m.type = 4) ∧
     (n = 2) ∧
     (4096 ≤ a) ∧
     (a ≤ 2097152) ∧
     (a % 32 = 0) ∧
     ((w.lockOpen = true ∨ w.anyValid = false)) ∧
     (w.sound = true)) ∧
    (let s₀ : State := (ringReq (msgOf 5 0 0 []) (ring))
     let p : Port := .host
     let m : Msg := (msgOf 5 0 0 [])
     let t : Time := 6000000000
     let s := s₀.atTime t
     let w := s.onTurn p m
     let mine := w.imageBusy p = false
     (s.turnOf p m = true) ∧
     (w.checkMsg m = none) ∧
     (mine) ∧
     (m.type = 5) ∧
     (w.imgState ≠ 1)) ∧
    (let s₀ : State := (ringReq (msgOf 5 4096 0 (List.replicate 32 3)) (imgAt 1 4096 0 ring))
     let p : Port := .host
     let m : Msg := (msgOf 5 4096 0 (List.replicate 32 3))
     let t : Time := 6000000000
     let s := s₀.atTime t
     let w := s.onTurn p m
     let a := m.arg0.toNat
     let b := msgBody m
     let mine := w.imageBusy p = false
     (s.turnOf p m = true) ∧
     (w.checkMsg m = none) ∧
     (mine) ∧
     (m.type = 5) ∧
     (w.imgState = 1) ∧
     (w.imgLen < a + b.length)) ∧
    (let s₀ : State := (ringReq (msgOf 5 33 0 (List.replicate 32 3)) (imgAt 1 4096 0 ring))
     let p : Port := .host
     let m : Msg := (msgOf 5 33 0 (List.replicate 32 3))
     let t : Time := 6000000000
     let s := s₀.atTime t
     let w := s.onTurn p m
     let a := m.arg0.toNat
     let b := msgBody m
     let mine := w.imageBusy p = false
     (s.turnOf p m = true) ∧
     (w.checkMsg m = none) ∧
     (mine) ∧
     (m.type = 5) ∧
     (w.imgState = 1) ∧
     (a + b.length ≤ w.imgLen) ∧
     ((a % 32 ≠ 0 ∨ b.length % 32 ≠ 0))) ∧
    (let s₀ : State := (ringReq (msgOf 5 4064 0 (List.replicate 32 3)) (imgAt 1 4096 0 ring))
     let p : Port := .host
     let m : Msg := (msgOf 5 4064 0 (List.replicate 32 3))
     let t : Time := 6000000000
     let s := s₀.atTime t
     let w := s.onTurn p m
     let a := m.arg0.toNat
     let b := msgBody m
     let mine := w.imageBusy p = false
     (s.turnOf p m = true) ∧
     (w.checkMsg m = none) ∧
     (mine) ∧
     (m.type = 5) ∧
     (w.imgState = 1) ∧
     (a + b.length ≤ w.imgLen) ∧
     (a % 32 = 0) ∧
     (b.length % 32 = 0) ∧
     (w.sound = true)) ∧
    (let s₀ : State := (ringReq (msgOf 4 0 3 []) (imgAt 1 4096 127 ring))
     let p : Port := .host
     let m : Msg := (msgOf 4 0 3 [])
     let o : Nat := 4064
     let t : Time := 6000000000
     let s := s₀.atTime t
     let w := s.onTurn p m
     let n := m.arg1.toNat
     let mine := w.imageBusy p = false
     (s.turnOf p m = true) ∧
     (w.checkMsg m = none) ∧
     (mine) ∧
     (m.type = 4) ∧
     (n = 3) ∧
     (w.imgState ≠ 0) ∧
     (w.firstMissing = some o) ∧
     (w.sound = true)) ∧
    (let s₀ : State := (ringReq (msgOf 4 0 3 []) (imgAt 1 4096 128 ring))
     let p : Port := .host
     let m : Msg := (msgOf 4 0 3 [])
     let t : Time := 6000000000
     let s := s₀.atTime t
     let w := s.onTurn p m
     let n := m.arg1.toNat
     let mine := w.imageBusy p = false
     (s.turnOf p m = true) ∧
     (w.checkMsg m = none) ∧
     (mine) ∧
     (m.type = 4) ∧
     (n = 3) ∧
     (w.imgState ≠ 0) ∧
     (w.firstMissing = none) ∧
     (w.sound = true)) ∧
    (let s₀ : State := (ringReq (msgOf 4 0 4 []) (ring))
     let p : Port := .host
     let m : Msg := (msgOf 4 0 4 [])
     let t : Time := 6000000000
     let s := s₀.atTime t
     let w := s.onTurn p m
     let n := m.arg1.toNat
     let mine := w.imageBusy p = false
     (s.turnOf p m = true) ∧
     (w.checkMsg m = none) ∧
     (mine) ∧
     (m.type = 4) ∧
     (n = 4) ∧
     (w.imgState ≠ 3)) ∧
    (let s₀ : State := (ringReq (msgOf 4 0 4 []) (imgAt 3 4096 128 ring))
     let p : Port := .host
     let m : Msg := (msgOf 4 0 4 [])
     let t : Time := 6000000000
     let s := s₀.atTime t
     let w := s.onTurn p m
     let n := m.arg1.toNat
     let mine := w.imageBusy p = false
     (s.turnOf p m = true) ∧
     (w.checkMsg m = none) ∧
     (mine) ∧
     (m.type = 4) ∧
     (n = 4) ∧
     (w.imgState = 3) ∧
     (w.sound = true) ∧
     (w.sup.restartReq = none)) ∧
    (let s₀ : State := imgChecking [] (msgOf 4 0 3 [])
     let p : Port := .host
     let m : Msg := (msgOf 4 0 3 [])
     let r : Status := .address
     let t : Time := 6000000000
     let s := s₀.atTime t
     (s₀.sound = true) ∧
     (s.islandOn 9 = true) ∧
     (s.imgState = 2) ∧
     (s.img.ending = some (p, m)) ∧
     let found := imageFault s.img.key s.target.bytes (some s.imgLen) s.sup.addr
     (found = some r)) ∧
    (let s₀ : State := (ringReq (msgOf 4 2097184 2 []) (ring))
     let t : Time := 6000000000
     let s := s₀.atTime t
     (s.imgState ≠ 2)) := by decide +kernel

theorem test_DigestsAndKey_meets :
    (let s₀ : State := ring.setFlag R.SYS_START F.SYS_START_NOIMG true
     let t : Time := 6000000000
     (s₀.sound = true) ∧
     (s₀.islandOn 9 = true) ∧
     let s := s₀.atTime t
     (s.noImage = true)) ∧
    (let s₀ : State := executes []
     let t : Time := 6000000000
     (s₀.sound = true) ∧
     (s₀.islandOn 9 = true) ∧
     let s := s₀.atTime t
     (s.noImage = false)) ∧
    (let s₀ : State := executes []
     let t : Time := 6000000000
     (s₀.sound = true) ∧
     (s₀.islandOn 9 = true) ∧
     let s := s₀.atTime t
     let m := s.execBytes
     (s.noImage = false) ∧
     (computedCom m = imgComDig m) ∧
     (computedImg m = imgDig m)) ∧
    (let s₀ : State := executes []
     (s₀.sound = true) ∧
     (s₀.islandOn 9 = true)) ∧
    (let s₀ : State := unlocked ring
     let p : Port := .svc
     (s₀.sound = true) ∧
     (s₀.islandOn 9 = true) ∧
     (p = .svc) ∧
     (s₀.lockOpen = true) ∧
     ((s₀.img.key = none ∨ ∃ k, s₀.img.key = some k ∧
             keyBytes s₀.stagedProof = hmac (keyBytes k) (keyBytes s₀.stagedKey)))) ∧
    (let s₀ : State := executes []
     let p : Port := .svc
     (s₀.sound = true) ∧
     (s₀.islandOn 9 = true) ∧
     (p = .svc) ∧
     ((s₀.lockOpen = false ∨ ∃ k, s₀.img.key = some k ∧
             keyBytes s₀.stagedProof ≠ hmac (keyBytes k) (keyBytes s₀.stagedKey)))) ∧
    (let s₀ : State := ring
     let p : Port := .svc
     (s₀.sound = true) ∧
     (s₀.islandOn 9 = true) ∧
     (p = .svc) ∧
     ((s₀.lockOpen = false ∨ ∃ k, s₀.img.key = some k ∧
             keyBytes s₀.stagedProof ≠ hmac (keyBytes k) (keyBytes s₀.stagedKey)))) := by decide +kernel

theorem test_RegisterWrites_meets :
    (let a : Nat := R.PWR_DOM + 1
     ((a % 4 ≠ 0 ∨ standsAt a = false))) ∧
    (let a : Nat := R.PWR_DOM
     (a % 4 = 0) ∧
     (standsAt a = true) ∧
     ((writable a = 0 ∨ spareReg a = true))) ∧
    (let s₀ : State := up.setFld R.PWR_DOM F.PWR_DOM_ON 0x7CF
     let a : Nat := R.DIO_DOCFG 3
     let t : Time := 6000000000
     let s := s₀.atTime t
     (a % 4 = 0) ∧
     (standsAt a = true) ∧
     (writable a ≠ 0) ∧
     (spareReg a = false) ∧
     (s.powered (regDomain a) = false)) ∧
    (let s₀ : State := up
     let v : Word := 0x07000001
     let t : Time := 6000000000
     let s := s₀.atTime t
     (s.powered 1 = true) ∧
     (fldOf F.SYS_LOCK_CMD v = 1)) ∧
    (let s₀ : State := up
     let t : Time := 6000000000
     let s := s₀.atTime t
     (s.powered 1 = true)) ∧
    (let s₀ : State := up
     let t : Time := 6000000000
     let s := s₀.atTime t
     (s.powered 5 = true)) ∧
    (let s₀ : State := up
     let t : Time := 6000000000
     let s := s₀.atTime t
     (s.dioOn = true)) ∧
    (let a : Nat := R.PWR_DOM + 1
     (afeCfgChan a = none)) ∧
    (let s₀ : State := up.setFld R.PWR_DOM F.PWR_DOM_ON 0x7CF
     let a : Nat := R.AFE_CHCFG 5
     let who : Option Nat := some 5
     let t : Time := 6000000000
     let s := s₀.atTime t
     (afeCfgChan a = some who) ∧
     (s.powered 4 = false)) ∧
    (let s₀ : State := up
     let a : Nat := R.AFE_CHCFG 5
     let who : Option Nat := some 5
     let t : Time := 6000000000
     let s := s₀.atTime t
     (afeCfgChan a = some who) ∧
     (s.powered 4 = true) ∧
     (s.lockOpen = false)) ∧
    (let s₀ : State := unlocked up
     let a : Nat := R.AFE_CHCFG 5
     let v : Word := 0
     let who : Option Nat := some 5
     let t : Time := 6000000000
     let s := s₀.atTime t
     let merged := (s.rd a &&& ~~~(lkMask a)) ||| (v &&& lkMask a)
     let u := s.wr a merged
     (afeCfgChan a = some who) ∧
     (s.powered 4 = true) ∧
     (s.lockOpen = true) ∧
     ((∀ j, who = some j → u.editValid s j = true))) ∧
    (let s₀ : State := unlocked (chanAs 5 1 1 up)
     let a : Nat := R.AFE_CHCFG 5
     let v : Word := 0xFFFFFFFF
     let who : Option Nat := some 5
     let t : Time := 6000000000
     let s := s₀.atTime t
     let merged := (s.rd a &&& ~~~(lkMask a)) ||| (v &&& lkMask a)
     let u := s.wr a merged
     let j := 5
     (who = some j) ∧
     (afeCfgChan a = some who) ∧
     (s.powered 4 = true) ∧
     (s.lockOpen = true) ∧
     (u.editValid s j = false)) ∧
    (let ch : BitVec 16 := 131
     ((ch.toNat < 132 ∨ 256 ≤ ch.toNat))) ∧
    (let v : Word := 0
     let ch : BitVec 16 := 255
     (132 ≤ ch.toNat) ∧
     (ch.toNat < 256) ∧
     ((swTag v ≠ 7 ∨ bitsOf v.toNat 24 3 ≠ 0))) ∧
    (let v : Word := 0x38000005
     let ch : BitVec 16 := 255
     (132 ≤ ch.toNat) ∧
     (ch.toNat < 256) ∧
     (swTag v = 7) ∧
     (bitsOf v.toNat 24 3 = 0)) ∧
    (let s₀ : State := up
     let v : Word := 0x38000005
     let ch : BitVec 16 := 255
     (132 ≤ ch.toNat) ∧
     (ch.toNat < 256) ∧
     (swTag v = 7) ∧
     (bitsOf v.toNat 24 3 = 0) ∧
     (s₀.sound = true)) := by decide +kernel

theorem test_RanteEnable_meets :
    (let s₀ : State := ring.setFld R.PWR_DOM F.PWR_DOM_ON 0x7EF
     let t : Time := 6000000000
     let s := s₀.atTime t
     (s.powered 4 = false)) ∧
    (let s₀ : State := win ring
     let t : Time := 6000000000
     let s := s₀.atTime t
     (s.powered 4 = true) ∧
     (s.windowOn = true) ∧
     (s.lockOpen = false)) ∧
    (let s₀ : State := unlocked (win ring)
     let t : Time := 6000000000
     let s := s₀.atTime t
     (s.powered 4 = true) ∧
     (s.windowOn = true) ∧
     (s.lockOpen = true) ∧
     (s.rwn.latch = none)) ∧
    (let s₀ : State := ring
     let t : Time := 6000000000
     let s := s₀.atTime t
     (s.powered 4 = true) ∧
     (s.windowOn = false) ∧
     (s.lockOpen = false)) ∧
    (let s₀ : State := (unlocked ring).setOwner 77 3
     let t : Time := 6000000000
     let s := s₀.atTime t
     let claim := s.claimAll [77, 78, 79, 80] 0x22
     (s.powered 4 = true) ∧
     (s.windowOn = false) ∧
     (s.lockOpen = true) ∧
     (claim.1 = false)) ∧
    (let s₀ : State := unlocked (winChan 5 0 13)
     let t : Time := 6000000000
     let s := s₀.atTime t
     let claim := s.claimAll [77, 78, 79, 80] 0x22
     let crowded := (List.range 128).any fun n => decide (s.rlo n < s.rhi n) && decide (12 < s.fld (R.LIM_CHIDX n)
       F.LIM_CHIDX_COUNT)
     (s.powered 4 = true) ∧
     (s.windowOn = false) ∧
     (s.lockOpen = true) ∧
     (claim.1 = true) ∧
     (crowded = true)) ∧
    (let s₀ : State := unlocked ring
     let t : Time := 6000000000
     let s := s₀.atTime t
     let claim := s.claimAll [77, 78, 79, 80] 0x22
     let crowded := (List.range 128).any fun n => decide (s.rlo n < s.rhi n) && decide (12 < s.fld (R.LIM_CHIDX n)
       F.LIM_CHIDX_COUNT)
     (s.powered 4 = true) ∧
     (s.windowOn = false) ∧
     (s.lockOpen = true) ∧
     (claim.1 = true) ∧
     (crowded = false)) ∧
    (let s₀ : State := winPair 129 7 1 ring
     let o : Nat := 129
     let b : Byte := 7
     let t₁ : Time := 1
     let t : Time := 6000000000
     let s := s₀.atTime t
     (s.islandOn 5 = true) ∧
     (s.rwn.latch = some (o, b, t₁)) ∧
     (t₁ + 10000000 ≤ s.now)) ∧
    (let s₀ : State := winPair 129 7 5990000001 ring
     let o : Nat := 129
     let b : Byte := 7
     let t₁ : Time := 5990000001
     let t : Time := 6000000000
     let s := s₀.atTime t
     (s.islandOn 5 = true) ∧
     (s.rwn.latch = some (o, b, t₁)) ∧
     (s.now < t₁ + 10000000)) := by decide +kernel

theorem test_RanteTransfers_meets :
    (let s₀ : State := (ringReq (msgOf 6 65536 1 []) (ring))
     let p : Port := .host
     let m : Msg := (msgOf 6 65536 1 [])
     let t : Time := 6000000000
     let s := s₀.atTime t
     let w := s.onTurn p m
     (s.turnOf p m = true) ∧
     (w.checkMsg m = none) ∧
     (m.type = 6) ∧
     (m.arg1 = 1) ∧
     (w.windowOn = false)) ∧
    (let s₀ : State := (ringReq (msgOf 6 16318464 1 []) (win ring))
     let p : Port := .host
     let m : Msg := (msgOf 6 16318464 1 [])
     let t : Time := 6000000000
     let s := s₀.atTime t
     let w := s.onTurn p m
     let n := bitsOf m.arg0.toNat 16 8
     (s.turnOf p m = true) ∧
     (w.checkMsg m = none) ∧
     (m.type = 6) ∧
     (m.arg1 = 1) ∧
     (w.windowOn = true) ∧
     (248 < n)) ∧
    (let s₀ : State := (ringReq (msgOf 6 135166 1 []) (win ring))
     let p : Port := .host
     let m : Msg := (msgOf 6 135166 1 [])
     let t : Time := 6000000000
     let s := s₀.atTime t
     let w := s.onTurn p m
     let o := bitsOf m.arg0.toNat 0 12
     let n := bitsOf m.arg0.toNat 16 8
     (s.turnOf p m = true) ∧
     (w.checkMsg m = none) ∧
     (m.type = 6) ∧
     (m.arg1 = 1) ∧
     (w.windowOn = true) ∧
     (n ≤ 248) ∧
     ((o % 2 = 1 ∨ 4096 < o + 2 * n))) ∧
    (let s₀ : State := (ringReq (msgOf 6 4000 1 []) (win ring))
     let p : Port := .host
     let m : Msg := (msgOf 6 4000 1 [])
     let t : Time := 6000000000
     let s := s₀.atTime t
     let w := s.onTurn p m
     let o := bitsOf m.arg0.toNat 0 12
     let n := bitsOf m.arg0.toNat 16 8
     (s.turnOf p m = true) ∧
     (w.checkMsg m = none) ∧
     (m.type = 6) ∧
     (m.arg1 = 1) ∧
     (w.windowOn = true) ∧
     (n = 0) ∧
     (o % 2 = 0)) ∧
    (let s₀ : State := (ringReq (msgOf 6 65610 1 []) (win (winChan 1000 0 0)))
     let p : Port := .host
     let m : Msg := (msgOf 6 65610 1 [])
     let k : Nat := 5
     let t : Time := 6000000000
     let s := s₀.atTime t
     let w := s.onTurn p m
     let o := bitsOf m.arg0.toNat 0 12
     let n := bitsOf m.arg0.toNat 16 8
     (s.turnOf p m = true) ∧
     (w.checkMsg m = none) ∧
     (m.type = 6) ∧
     (m.arg1 = 1) ∧
     (w.windowOn = true) ∧
     (n = 1) ∧
     (k < 32) ∧
     (o = 64 + 2 * k)) ∧
    (let s₀ : State := (ringReq (msgOf 6 65536 1 []) (ring))
     let p : Port := .host
     let m : Msg := (msgOf 6 65536 1 [])
     let k : Nat := 5
     let t : Time := 6000000000
     let s := s₀.atTime t
     let w := s.onTurn p m
     let page := w.fld R.RWN_ST F.RWN_ST_PAGE
     let c := 32 * page + k
     (s.turnOf p m = true) ∧
     (w.checkMsg m = none) ∧
     (m.type = 6) ∧
     (2 ≤ swQuality (w.sample c))) ∧
    (let s₀ : State := (ringReq (msgOf 6 65610 1 []) (win (winChan 1000 0 0)))
     let p : Port := .host
     let m : Msg := (msgOf 6 65610 1 [])
     let k : Nat := 5
     let t : Time := 6000000000
     let s := s₀.atTime t
     let w := s.onTurn p m
     let page := w.fld R.RWN_ST F.RWN_ST_PAGE
     let c := 32 * page + k
     (s.turnOf p m = true) ∧
     (w.checkMsg m = none) ∧
     (m.type = 6) ∧
     (swQuality (w.sample c) < 2) ∧
     (w.rlo c ≤ swValue (w.sample c)) ∧
     (swValue (w.sample c) ≤ w.rhi c) ∧
     (w.rlo c < w.rhi c)) ∧
    (let s₀ : State := (ringReq (msgOf 6 0 2 [3, 0, 2, 0]) (ring))
     let p : Port := .host
     let m : Msg := (msgOf 6 0 2 [3, 0, 2, 0])
     let x : Byte := 3
     let y : Byte := 0
     let b : Byte := 2
     let z : Byte := 0
     let t : Time := 6000000000
     let s := s₀.atTime t
     let w := s.onTurn p m
     (s.turnOf p m = true) ∧
     (w.checkMsg m = none) ∧
     (m.type = 6) ∧
     (m.arg1 = 2) ∧
     (msgBody m = [x, y, b, z]) ∧
     (w.windowOn = false)) ∧
    (let s₀ : State := (ringReq (msgOf 6 0 2 [0, 16, 2, 0]) (win ring))
     let p : Port := .host
     let m : Msg := (msgOf 6 0 2 [0, 16, 2, 0])
     let x : Byte := 0
     let y : Byte := 16
     let b : Byte := 2
     let z : Byte := 0
     let t : Time := 6000000000
     let s := s₀.atTime t
     let w := s.onTurn p m
     let at_ := x.toNat + 256 * y.toNat
     (s.turnOf p m = true) ∧
     (w.checkMsg m = none) ∧
     (m.type = 6) ∧
     (m.arg1 = 2) ∧
     (msgBody m = [x, y, b, z]) ∧
     (w.windowOn = true) ∧
     (4095 < at_)) ∧
    (let s₀ : State := (ringReq (msgOf 6 0 2 [5, 0, 2, 0]) (win ring))
     let p : Port := .host
     let m : Msg := (msgOf 6 0 2 [5, 0, 2, 0])
     let x : Byte := 5
     let y : Byte := 0
     let b : Byte := 2
     let z : Byte := 0
     let t : Time := 6000000000
     let s := s₀.atTime t
     let w := s.onTurn p m
     let at_ := x.toNat + 256 * y.toNat
     (s.turnOf p m = true) ∧
     (w.checkMsg m = none) ∧
     (m.type = 6) ∧
     (m.arg1 = 2) ∧
     (msgBody m = [x, y, b, z]) ∧
     (w.windowOn = true) ∧
     (at_ ≤ 4095) ∧
     (pairReg (at_ - at_ % 2) = false) ∧
     (w.rwn.latch = none)) ∧
    (let s₀ : State := (ringReq (msgOf 6 0 2 [2, 0, 1, 0]) (win ring))
     let p : Port := .host
     let m : Msg := (msgOf 6 0 2 [2, 0, 1, 0])
     let x : Byte := 2
     let y : Byte := 0
     let b : Byte := 1
     let z : Byte := 0
     let t : Time := 6000000000
     let s := s₀.atTime t
     let w := s.onTurn p m
     let at_ := x.toNat + 256 * y.toNat
     (s.turnOf p m = true) ∧
     (w.checkMsg m = none) ∧
     (m.type = 6) ∧
     (m.arg1 = 2) ∧
     (msgBody m = [x, y, b, z]) ∧
     (w.windowOn = true) ∧
     (at_ ≤ 4095) ∧
     (pairReg at_ = true) ∧
     (at_ % 2 = 0) ∧
     (w.rwn.latch = none)) ∧
    (let s₀ : State := (ringReq (msgOf 6 0 2 [3, 0, 1, 0]) (win ring))
     let p : Port := .host
     let m : Msg := (msgOf 6 0 2 [3, 0, 1, 0])
     let x : Byte := 3
     let y : Byte := 0
     let b : Byte := 1
     let z : Byte := 0
     let t : Time := 6000000000
     let s := s₀.atTime t
     let w := s.onTurn p m
     let at_ := x.toNat + 256 * y.toNat
     (s.turnOf p m = true) ∧
     (w.checkMsg m = none) ∧
     (m.type = 6) ∧
     (m.arg1 = 2) ∧
     (msgBody m = [x, y, b, z]) ∧
     (w.windowOn = true) ∧
     (at_ ≤ 4095) ∧
     (pairReg (at_ - 1) = true) ∧
     (at_ % 2 = 1) ∧
     (w.rwn.latch = none)) ∧
    (let s₀ : State := (ringReq (msgOf 6 0 2 [3, 0, 3, 0]) (winPair 2 0 5990000001 ring))
     let p : Port := .host
     let m : Msg := (msgOf 6 0 2 [3, 0, 3, 0])
     let x : Byte := 3
     let y : Byte := 0
     let b : Byte := 3
     let z : Byte := 0
     let hi : Byte := 0
     let t₁ : Time := 5990000001
     let t : Time := 6000000000
     let s := s₀.atTime t
     let w := s.onTurn p m
     let at_ := x.toNat + 256 * y.toNat
     (s.turnOf p m = true) ∧
     (w.checkMsg m = none) ∧
     (m.type = 6) ∧
     (m.arg1 = 2) ∧
     (msgBody m = [x, y, b, z]) ∧
     (w.windowOn = true) ∧
     (at_ = 3) ∧
     (w.rwn.latch = some (2, hi, t₁)) ∧
     (w.now < t₁ + 10000000) ∧
     (hi = 0) ∧
     (b.toNat ≤ 3)) ∧
    (let s₀ : State := (ringReq (msgOf 6 0 2 [3, 0, 4, 0]) (winPair 2 0 5990000001 ring))
     let p : Port := .host
     let m : Msg := (msgOf 6 0 2 [3, 0, 4, 0])
     let x : Byte := 3
     let y : Byte := 0
     let b : Byte := 4
     let z : Byte := 0
     let hi : Byte := 0
     let t₁ : Time := 5990000001
     let t : Time := 6000000000
     let s := s₀.atTime t
     let w := s.onTurn p m
     let at_ := x.toNat + 256 * y.toNat
     (s.turnOf p m = true) ∧
     (w.checkMsg m = none) ∧
     (m.type = 6) ∧
     (m.arg1 = 2) ∧
     (msgBody m = [x, y, b, z]) ∧
     (w.windowOn = true) ∧
     (at_ = 3) ∧
     (w.rwn.latch = some (2, hi, t₁)) ∧
     (w.now < t₁ + 10000000) ∧
     (3 < 256 * hi.toNat + b.toNat)) ∧
    (let s₀ : State := (ringReq (msgOf 6 0 2 [139, 0, 255, 0]) (winPair 138 15 5990000001 (winChan 5 0 0)))
     let p : Port := .host
     let m : Msg := (msgOf 6 0 2 [139, 0, 255, 0])
     let k : Nat := 5
     let x : Byte := 139
     let y : Byte := 0
     let b : Byte := 255
     let z : Byte := 0
     let hi : Byte := 15
     let t₁ : Time := 5990000001
     let t : Time := 6000000000
     let s := s₀.atTime t
     let w := s.onTurn p m
     let at_ := x.toNat + 256 * y.toNat
     (s.turnOf p m = true) ∧
     (w.checkMsg m = none) ∧
     (m.type = 6) ∧
     (m.arg1 = 2) ∧
     (msgBody m = [x, y, b, z]) ∧
     (w.windowOn = true) ∧
     (k < 32) ∧
     (at_ = 129 + 2 * k) ∧
     (w.rwn.latch = some (128 + 2 * k, hi, t₁)) ∧
     (w.now < t₁ + 10000000) ∧
     (hi.toNat < 16) ∧
     (w.sound = true)) := by decide +kernel

theorem test_SupplyInputsAndHoldover_meets :
    (let s₀ : State := up
     let b : Bool := true
     let v : BitVec 16 := 1700
     (s₀.sup.running = true) ∧
     let present := if b then F.PWR_STAT_VINB else F.PWR_STAT_VINA
     (s₀.flag R.PWR_STAT present = false) ∧
     (1700 ≤ v.toNat)) ∧
    (let s₀ : State := up.setFlag R.PWR_STAT F.PWR_STAT_VINB true
     let b : Bool := true
     (s₀.sup.running = true) ∧
     let present := if b then F.PWR_STAT_VINB else F.PWR_STAT_VINA
     (s₀.flag R.PWR_STAT present = true)) ∧
    (let s₀ : State := up
     let v : BitVec 16 := 7
     (s₀.sup.running = true) ∧
     (v.toNat < 1700)) ∧
    (let s₀ : State := up.setFlag R.PWR_STAT F.PWR_STAT_VINB true
     let b : Bool := true
     let v : BitVec 16 := 7
     (s₀.sup.running = true) ∧
     let present := if b then F.PWR_STAT_VINB else F.PWR_STAT_VINA
     (s₀.flag R.PWR_STAT present = true) ∧
     (v.toNat < 1600)) ∧
    (let s₀ : State := up
     let v : BitVec 16 := 1700
     (s₀.sup.running = true) ∧
     (1600 ≤ v.toNat)) ∧
    (let s₀ : State := up
     let t : Time := 6000000000
     (s₀.sup.running = true) ∧
     let s := s₀.atTime t
     (s.flag R.PWR_STAT F.PWR_STAT_HOLD = false)) ∧
    (let s₀ : State := holding
     let mv : BitVec 16 := 4301
     let t : Time := 6000000000
     (s₀.sup.running = true) ∧
     let s := s₀.atTime t
     (s.flag R.PWR_STAT F.PWR_STAT_HOLD = true) ∧
     (4300 < mv.toNat)) ∧
    (let s₀ : State := holding
     let mv : BitVec 16 := 4300
     let t : Time := 6000000000
     (s₀.sup.running = true) ∧
     let s := s₀.atTime t
     (s.flag R.PWR_STAT F.PWR_STAT_HOLD = true) ∧
     (mv.toNat ≤ 4300)) ∧
    (let s₀ : State := holding
     let t : Time := 6000000000
     (s₀.sup.running = true) ∧
     let s := s₀.atTime t
     (s₀.sound = true) ∧
     (s.flag R.PWR_STAT F.PWR_STAT_HOLD = true)) := by decide +kernel

theorem test_BankAndTemperature_meets :
    (let s₀ : State := up
     let len : Word := 4499
     let below : Bool := true
     let mv : BitVec 16 := 4899
     (s₀.sup.running = true) ∧
     let bank := (s₀.setFld R.PWR_HOLD F.PWR_HOLD_VBANK mv.toNat).setFlag R.PWR_STAT F.PWR_STAT_HOLDRDY
       (decide (4900 ≤ mv.toNat))
     let u : State := (up.setFld R.PWR_HOLD F.PWR_HOLD_VBANK 4899).setFlag R.PWR_STAT F.PWR_STAT_HOLDRDY false |>.setFld R.PWR_HOLD F.PWR_HOLD_CAP 899
     (u = (if below then bank.setFld R.PWR_HOLD F.PWR_HOLD_CAP (min (len.toNat / 5) 65535) else bank))) ∧
    (let s₀ : State := up
     let len : Word := 4499
     (s₀.sup.running = true) ∧
     (len.toNat < 10000)) ∧
    (let s₀ : State := up
     let len : Word := 10000
     let mv : BitVec 16 := 4899
     (s₀.sup.running = true) ∧
     (10000 ≤ len.toNat) ∧
     (mv.toNat < 4900)) ∧
    (let s₀ : State := up
     let len : Word := 10000
     let mv : BitVec 16 := 4900
     (s₀.sup.running = true) ∧
     (10000 ≤ len.toNat) ∧
     (4900 ≤ mv.toNat)) ∧
    (let s₀ : State := up
     let t : Time := 6000000000
     (s₀.sup.running = true) ∧
     let s := s₀.atTime t
     (s.powered 8 = true)) ∧
    (let s₀ : State := up
     (s₀.sup.running = true) ∧
     (s₀.powered 1 = true)) := by decide +kernel

theorem test_ThermalThresholds_meets :
    (let s₀ : State := (let u : State := up; (u.wr (R.PWR_TEMP 0) (BitVec.ofNat 32 (putFld F.PWR_TEMP_TSB 0 850).toNat)).setSup { u.sup with hot85 := some 59000000000 })
     let k : Fin 4 := 1
     let temp : BitVec 16 := 850
     let t : Time := 59000000000
     (s₀.sup.running = true) ∧
     (s₀.flag R.PWR_STAT F.PWR_STAT_T85 = false) ∧
     (s₀.sup.hot85 = some t) ∧
     ((s₀.hottest = none ∨ s₀.hottest = some (k.val, temp.toInt)))) ∧
    (let s₀ : State := up
     (s₀.sup.running = true) ∧
     (s₀.flag R.PWR_STAT F.PWR_STAT_T85 = true ∨ s₀.sup.hot85 = none)) ∧
    (let s₀ : State := (let u := (let u : State := up; (u.wr (R.PWR_TEMP 0) (BitVec.ofNat 32 (putFld F.PWR_TEMP_TSB 0 800).toNat)).setSup { u.sup with cool85 := some 50000000000 }); u.setFlag R.PWR_STAT F.PWR_STAT_T85 true)
     let k : Fin 4 := 1
     let temp : BitVec 16 := 800
     let t : Time := 60000000000
     (s₀.sup.running = true) ∧
     let s := s₀.atTime t
     let stood (since : Option Time) (len : Time) := (∃ t₀, since = some t₀ ∧ t₀ + len ≤ s.now) ∧
       (s.hottest = none ∨ s.hottest = some (k.val, temp.toInt))
     (s.flag R.PWR_STAT F.PWR_STAT_T85 = true) ∧
     (stood s.sup.cool85 10000000000)) ∧
    (let s₀ : State := up
     let k : Fin 4 := 3
     let temp : BitVec 16 := 99
     let t : Time := 6000000000
     (s₀.sup.running = true) ∧
     let s := s₀.atTime t
     let stood (since : Option Time) (len : Time) := (∃ t₀, since = some t₀ ∧ t₀ + len ≤ s.now) ∧
       (s.hottest = none ∨ s.hottest = some (k.val, temp.toInt))
     (¬ stood s.sup.cool85 10000000000)) ∧
    (let s₀ : State := (let u : State := up; (u.wr (R.PWR_TEMP 0) (BitVec.ofNat 32 (putFld F.PWR_TEMP_TSB 0 1000).toNat)).setSup { u.sup with hot100 := some 59000000000 })
     let k : Fin 4 := 1
     let temp : BitVec 16 := 1000
     let t : Time := 60000000000
     (s₀.sup.running = true) ∧
     let s := s₀.atTime t
     let t100 (u : State) (on : Bool) := (u.setFlag R.PWR_STAT F.PWR_STAT_T100 on).raise 0x06 k
       (temp.toNat + 65536 * (if on then 2 else 3))
     let stood (since : Option Time) (len : Time) := (∃ t₀, since = some t₀ ∧ t₀ + len ≤ s.now) ∧
       (s.hottest = none ∨ s.hottest = some (k.val, temp.toInt))
     (s.flag R.PWR_STAT F.PWR_STAT_T100 = false) ∧
     (stood s.sup.hot100 1000000000) ∧
     ((t100 s true).powered 10 = true)) ∧
    (let s₀ : State := (let u : State := up.setFld R.PWR_DOM F.PWR_DOM_ON 0x3FF; (u.wr (R.PWR_TEMP 0) (BitVec.ofNat 32 (putFld F.PWR_TEMP_TSB 0 1000).toNat)).setSup { u.sup with hot100 := some 59000000000 })
     let k : Fin 4 := 1
     let temp : BitVec 16 := 1000
     let t : Time := 60000000000
     (s₀.sup.running = true) ∧
     let s := s₀.atTime t
     let t100 (u : State) (on : Bool) := (u.setFlag R.PWR_STAT F.PWR_STAT_T100 on).raise 0x06 k
       (temp.toNat + 65536 * (if on then 2 else 3))
     let stood (since : Option Time) (len : Time) := (∃ t₀, since = some t₀ ∧ t₀ + len ≤ s.now) ∧
       (s.hottest = none ∨ s.hottest = some (k.val, temp.toInt))
     (s.flag R.PWR_STAT F.PWR_STAT_T100 = false) ∧
     (stood s.sup.hot100 1000000000) ∧
     ((t100 s true).powered 10 = false)) ∧
    (let s₀ : State := up
     let k : Fin 4 := 3
     let temp : BitVec 16 := 99
     let t : Time := 6000000000
     (s₀.sup.running = true) ∧
     let s := s₀.atTime t
     let stood (since : Option Time) (len : Time) := (∃ t₀, since = some t₀ ∧ t₀ + len ≤ s.now) ∧
       (s.hottest = none ∨ s.hottest = some (k.val, temp.toInt))
     (¬ stood s.sup.hot100 1000000000)) ∧
    (let s₀ : State := (let u := (let u : State := up.setFld R.PWR_DOM F.PWR_DOM_ON 0x3FF; (u.wr (R.PWR_TEMP 0) (BitVec.ofNat 32 (putFld F.PWR_TEMP_TSB 0 900).toNat)).setSup { u.sup with cool100 := some 0 }); u.setFlag R.PWR_STAT F.PWR_STAT_T100 true)
     let k : Fin 4 := 1
     let temp : BitVec 16 := 900
     let t : Time := 60000000000
     (s₀.sup.running = true) ∧
     let s := s₀.atTime t
     let stood (since : Option Time) (len : Time) := (∃ t₀, since = some t₀ ∧ t₀ + len ≤ s.now) ∧
       (s.hottest = none ∨ s.hottest = some (k.val, temp.toInt))
     (s.flag R.PWR_STAT F.PWR_STAT_T100 = true) ∧
     (stood s.sup.cool100 60000000000) ∧
     (¬ (∃ r ∈ s.sup.active, r.1 = 10))) ∧
    (let s₀ : State := (let u := (let u : State := up.setFld R.PWR_DOM F.PWR_DOM_ON 0x3FF; (u.wr (R.PWR_TEMP 0) (BitVec.ofNat 32 (putFld F.PWR_TEMP_TSB 0 900).toNat)).setSup { u.sup with cool100 := some 0, active := some (10, 1, 0) }); u.setFlag R.PWR_STAT F.PWR_STAT_T100 true)
     let k : Fin 4 := 1
     let temp : BitVec 16 := 900
     let t : Time := 60000000000
     (s₀.sup.running = true) ∧
     let s := s₀.atTime t
     let stood (since : Option Time) (len : Time) := (∃ t₀, since = some t₀ ∧ t₀ + len ≤ s.now) ∧
       (s.hottest = none ∨ s.hottest = some (k.val, temp.toInt))
     (s.flag R.PWR_STAT F.PWR_STAT_T100 = true) ∧
     (stood s.sup.cool100 60000000000) ∧
     ((∃ r ∈ s.sup.active, r.1 = 10))) := by decide +kernel

theorem test_NodeStartAndTimeouts_meets :
    (let s₀ : State := up
     let t : Time := 6000000000
     let s := s₀.atTime t
     (s.sup.running = true)) ∧
    (let s₀ : State := State.reset
     let t : Time := 6000000000
     let s := s₀.atTime t
     (s.sup.running = false)) ∧
    (let s₀ : State := up
     let info : StartInfo := default
     let t : Time := 6000000000
     let s := s₀.atTime t
     let u : State := s.beginStart info
     (u = s.beginStart info)) ∧
    (let s₀ : State := stepsAt 2 [3] 1
     let k : Fin 16 := 3
     let t : Time := 1000
     let s := s₀.atTime t
     let limit := if k = 13 then (s.rd R.SYS_ARDY).toNat + 10 * s.img.exec.tickMs * 1000
       else ((stepAfter k).foldl (fun m j => Nat.max m (s.fld (R.SYS_STEP j) F.SYS_STEP_END)) 0) + stepLimit k
     (s.sup.running = true) ∧
     (s.stepRuns k = true) ∧
     (s.sinceStart < limit)) ∧
    (let s₀ : State := stepsAt 2 [3] 1
     let k : Fin 16 := 3
     let t : Time := 6000000000
     let s := s₀.atTime t
     let limit := if k = 13 then (s.rd R.SYS_ARDY).toNat + 10 * s.img.exec.tickMs * 1000
       else ((stepAfter k).foldl (fun m j => Nat.max m (s.fld (R.SYS_STEP j) F.SYS_STEP_END)) 0) + stepLimit k
     (s.sup.running = true) ∧
     (s.stepRuns k = true) ∧
     (limit ≤ s.sinceStart) ∧
     ((1 ≤ k.val ∧ k.val ≤ 8)) ∧
     (s.fld (R.SYS_STEP k) F.SYS_STEP_MODE = 0) ∧
     (s₀.sound = true)) ∧
    (let s₀ : State := stepsAt 2 [9] 1
     let k : Fin 16 := 9
     let t : Time := 6000000000
     let s := s₀.atTime t
     let limit := if k = 13 then (s.rd R.SYS_ARDY).toNat + 10 * s.img.exec.tickMs * 1000
       else ((stepAfter k).foldl (fun m j => Nat.max m (s.fld (R.SYS_STEP j) F.SYS_STEP_END)) 0) + stepLimit k
     (s.sup.running = true) ∧
     (s.stepRuns k = true) ∧
     (limit ≤ s.sinceStart) ∧
     ((k.val = 0 ∨ 8 < k.val)) ∧
     (s₀.sound = true) ∧
     (s.sup.restartReq = none)) := by decide +kernel

theorem test_ReadyAndRestart_meets :
    (let s₀ : State := (stepsAt 2 [] 0).setSup { up.sup with alarmReady := false }
     let t : Time := 6000000000
     let s := s₀.atTime t
     (s.powered 4 = true) ∧
     (s.noImage = false) ∧
     (s.sup.alarmReady = false) ∧
     ([2, 3, 4, 5, 9, 10, 11, 12].all s.stepEnded = true)) ∧
    (let s₀ : State := stepsAt 2 [12] 1
     let t : Time := 6000000000
     let s := s₀.atTime t
     ([2, 3, 4, 5, 9, 10, 11, 12].all s.stepEnded = false)) ∧
    (let s₀ : State := stepsAt 6 [15] 0
     let t : Time := 6000000000
     let s := s₀.atTime t
     (s.sup.running = true) ∧
     (s.fld (R.SYS_STEP 15) F.SYS_STEP_STATE = 0) ∧
     (s.flag R.SYS_START F.SYS_START_NOIMG = false) ∧
     ((List.range 15).all s.stepEnded = true)) ∧
    (let s₀ : State := up.setSup { up.sup with restartReq := some (4, 4) }
     let t : Time := 6000000000
     let t₁ : Time := 4
     let c : Nat := 4
     let s := s₀.atTime t
     (s₀.sound = true) ∧
     (s.sup.running = true) ∧
     (s.sup.restartReq = some (c, t₁))) ∧
    (let s₀ : State := (stepsAt 2 [] 0).setSup { up.sup with alarmReady := false }
     let t : Time := 6000000000
     let s := s₀.atTime t
     (s.sup.restartReq = none)) := by decide +kernel

theorem test_AddressContacts_meets :
    (let s₀ : State := State.reset
     let t : Time := 6000000000
     let s := s₀.atTime t
     (s.sup.running = false)) ∧
    (let info : StartInfo := { (default : StartInfo) with contacts := 7 }
     (info.contacts = 0b0000111)) ∧
    (let info : StartInfo := { (default : StartInfo) with contacts := 64 }
     (info.contacts = 0b1000000)) := by decide +kernel

theorem test_CalendarStartsAndWraps_meets :
    (let s₀ : State := up
     (s₀.sound = true)) ∧
    (let s₀ : State := calAt (calSeconds - 1) id
     let t : Time := 6000000000
     (s₀.sound = true) ∧
     let s := s₀.atTime t
     let reads (u : State) (cent year mon day hour min sec : Nat) : Prop :=
       u.fld R.RTC_CENT F.RTC_CENT_CENT = cent ∧ u.fld R.RTC_YEAR F.RTC_YEAR_YEAR = year ∧
       u.fld R.RTC_MON F.RTC_MON_MON = mon ∧ u.fld R.RTC_DAY F.RTC_DAY_DAY = day ∧
       u.fld R.RTC_HOUR F.RTC_HOUR_HOUR = hour ∧ u.fld R.RTC_MIN F.RTC_MIN_MIN = min ∧
       u.fld R.RTC_SEC F.RTC_SEC_SEC = sec
     (reads s 0x23 0x99 0x12 0x31 0x23 0x59 0x59) ∧
     (s.powered 1 = true)) := by decide +kernel

theorem test_SummerTime_meets :
    (let s₀ : State := calAt 10 id
     let b : Bool := false
     (s₀.sound = true) ∧
     (s₀.flag R.RTC_DST F.RTC_DST_ST = b)) ∧
    (let s₀ : State := calAt 10 id
     let b : Bool := true
     (s₀.sound = true) ∧
     (s₀.flag R.RTC_DST F.RTC_DST_ST = !b) ∧
     (s₀.rtc.dst = none)) ∧
    (let s₀ : State := calAt 10 (fun r => { r with dst := some (true, false) })
     let b : Bool := true
     let t : Time := 6000000000
     (s₀.sound = true) ∧
     let s := s₀.atTime t
     (s.rtc.set = none) ∧
     (s.rtc.shift = none) ∧
     (s.rtc.dst = some (b, false))) ∧
    (let s₀ : State := calAt 10 (fun r => { r with dst := some (false, true) })
     let b : Bool := false
     let t : Time := 6000000000
     (s₀.sound = true) ∧
     let s := s₀.atTime t
     (s.rtc.set = none) ∧
     (s.rtc.shift = none) ∧
     (s.rtc.dst = some (b, true))) := by decide +kernel

/-- The oldest of records whose sequence numbers rise from `a` is the first. -/
theorem oldestOf_rising (v m a : Nat) :
    oldestOf ((List.range' a (m + 1)).map fun i => (i, i, recOf 0x21 v)) = some (a, a, recOf 0x21 v) := by
  induction m generalizing a with
  | zero => rfl
  | succ m ih =>
    rw [List.range'_succ, List.map_cons]
    unfold oldestOf
    rw [ih (a + 1)]
    simp

/-- In a region that is full with records of severity `v`, a record goes to the oldest unless it is below them. -/
theorem slotFor_full {s : State} {m v sev : Nat} (h : s.mor.slots = slotsOf (m + 1) v) (hm : slotCount ≤ m + 1)
    (hv : v < 4) : s.slotFor sev = if v ≤ sev then some 0 else none := by
  have hr : s.records = (List.range' 0 (m + 1)).map fun i => (i, i, recOf 0x21 v) := by
    unfold State.records
    rw [h, slotsOf, List.filterMap_map, List.range_eq_range', ← List.filterMap_eq_map]
    rfl
  have ha : ∀ w, s.records.any (fun x => x.2.2.sev == w) = (v == w) := by
    intro w
    rw [hr, List.any_map, List.range'_succ]
    cases e : (v == w) <;> simp [Function.comp_def, recOf, e]
  have hf : s.records.filter (fun x => x.2.2.sev == v) = s.records := by
    rw [hr]
    simp [recOf]
  have hl : ¬ s.mor.slots.length < slotCount := by
    rw [h, slotsOf, List.length_map, List.length_range]
    omega
  have hfind : (List.range 4).find? (fun w => s.records.any (fun x => x.2.2.sev == w)) = some v := by
    simp only [ha]
    match v, hv with
    | 0, _ => rfl
    | 1, _ => rfl
    | 2, _ => rfl
    | 3, _ => rfl
  unfold State.slotFor
  rw [if_neg hl]
  simp only [hfind, hf]
  rw [hr, oldestOf_rising]
  simp

theorem region_slots (v : Nat) (t : Time) : ((region v).atTime t).mor.slots = slotsOf (131071 + 1) v := by
  have h (s : State) (m : Moraine) : ((s.setMor m).atTime t).mor = m := rfl
  unfold region
  rw [h]

/-- RecordPlacement, the clauses of a full region: `region 3` takes a record of severity 3 and none of severity 2. -/
theorem test_RecordPlacement_full :
    (region 3).sound = true ∧ ((region 3).atTime 6000000000).writerOn = true ∧
    ((region 3).atTime 6000000000).mor.fifo = [recOf 0x24 2] ∧
    ((region 3).atTime 6000000000).slotFor 3 = some 0 ∧ ((region 3).atTime 6000000000).slotFor 2 = none ∧
    131072 ≤ ((region 3).atTime 6000000000).mor.slots.length ∧
    (5, 5, recOf 0x21 3) ∈ ((region 3).atTime 6000000000).records := by
  refine ⟨by decide +kernel, by decide +kernel, rfl, ?_, ?_, ?_, ?_⟩
  · exact slotFor_full (region_slots 3 _) (by unfold slotCount; omega) (by omega)
  · exact slotFor_full (region_slots 3 _) (by unfold slotCount; omega) (by omega)
  · exact Nat.le_of_eq (by rw [region_slots, slotsOf, List.length_map, List.length_range])
  · unfold State.records
    rw [region_slots, slotsOf]
    refine List.mem_filterMap.mpr ⟨(5, some (5, recOf 0x21 3)), List.mem_map.mpr ⟨5, ?_, rfl⟩, rfl⟩
    exact List.mem_range.mpr (by omega)

/-- StepKeepsSound, QueueIsFirstInFirstOut: a step from reset with one command waiting. -/
theorem test_StepKeepsSound_meets :
    (let s : State := { State.reset with pending := [.vbusAttach, .xt32Restore] }
     s.sound = true ∧ step s = .next { State.reset with pending := [.xt32Restore] }) ∧
    (let s : State := { ring with pending := [.vbusAttach, .xt32Restore] }
     s.sound = true ∧ step s = .next (after (step s)) ∧ exec .vbusAttach s = .next (after (exec .vbusAttach s))) :=
  ⟨⟨by decide +kernel, rfl⟩, by decide +kernel, rfl, rfl⟩

/-- PanelAndAxisFrames, CalendarRecorderAndRingFrames: a sound state and a command of each family that answers a next state. -/
theorem test_Frames_meet :
    ((pnl 1 id).sound = true ∧ exec (.draw 0 5 1 7) (pnl 1 id) = .next (after (exec (.draw 0 5 1 7) (pnl 1 id))) ∧
      (pnl 1 id).pnl.cur = none) ∧
    ((gls 1 1 id).sound = true ∧ exec (.axisStop 5) (gls 1 1 id) = .next (after (exec (.axisStop 5) (gls 1 1 id)))) ∧
    ((calAt 10 id).sound = true ∧ exec .trimAccumulate (calAt 10 id) = .next (after (exec .trimAccumulate (calAt 10 id)))) ∧
    ((latchedAt 4).sound = true ∧ exec (.cursorNext .host 2) (latchedAt 4) = .next (after (exec (.cursorNext .host 2) (latchedAt 4)))) ∧
    (ring.sound = true ∧ exec (.portLinkDown true) ring = .next (after (exec (.portLinkDown true) ring))) :=
  ⟨⟨by decide +kernel, rfl, rfl⟩, ⟨by decide +kernel, rfl⟩, ⟨by decide +kernel, rfl⟩, ⟨by decide +kernel, rfl⟩, by decide +kernel,
    rfl⟩

/-! ### Ill-formed commands -/

theorem test_wf_overcurrent : (Instr.vloopOvercurrent [1, 2, 3] 0).wf = false := by decide
theorem test_wf_rotatingTest : (Instr.rotatingTestComplete { (default : TestResult) with failStep := 1 } 0).wf = false := by decide
theorem test_wf_selfTest : (Instr.bsSelfTestComplete { (default : TestResult) with failStep := 9 } 0).wf = false := by decide
theorem test_wf_coefs :
    (Instr.rotatingTestComplete { (default : TestResult) with coefs := [(6, 0, 0, 0)] } 0).wf = false := by decide
theorem test_wf_gate : (Instr.freqGateEnd 0 2 0).wf = false := by decide
theorem test_wf_rebuild : (Instr.indexRebuildDone [131072] 0 0).wf = false := by decide
theorem test_wf_header : (Instr.ringHeaderReceived false 0x88B5 [1] 0).wf = false := by decide
theorem test_wf_frame : (Instr.frameForward false 0x88B5 false true [1] [] 0).wf = false := by decide
theorem test_wf_area :
    (Instr.frameForward false 0x88B5 false true (List.replicate 32 0) (List.replicate 1469 0) 0).wf = false := by decide +kernel
theorem test_wf_start : (Instr.nodeStart { (default : StartInfo) with ends := [1] } 0).wf = false := by decide
theorem test_wf_message : (Instr.mbxWrite .host { msgOf 2 0 0 [1] with len := 2 } 0).wf = false := by decide
theorem test_wf_frame_message : (Instr.svcFrame { msgOf 2 0 0 [] with len := 2 } 0 0).wf = false := by decide

/-! ### Single commands -/

/-- R200, R201: saturation and wrapping. -/
theorem test_adds_saturates : (after (exec (.adds .a 1 2 3) coreA2)).word .a 1 = 0x7FFFFFFF := by decide +kernel
theorem test_add_wraps : (after (exec (.add .a 1 2 3) coreA2)).word .a 1 = 0x80000010 := by decide +kernel

/-- Chapter 8, "mean exhaust temperature": 124,620 / 31 = 4,020, and the sample word 0x3800_0FB4. -/
def mean : State := withA (fun k => ((((k.set 3 124620).set 4 31).set 5 0x80000000).set 6 4020).set 7 0x38000000)
theorem test_div_mean : (after (exec (.div .a 3 3 4) mean)).word .a 3 = 4020 := by decide +kernel
theorem test_srli_quality : (after (exec (.srli .a 6 5 0 30) mean)).word .a 6 = 2 := by decide +kernel
theorem test_or_word : (after (exec (.or .a 3 6 7) mean)).word .a 3 = 0x38000FB4 := by decide +kernel
theorem test_lui_bad : (after (exec (.lui .a 3 0 0x8000) mean)).word .a 3 = 0x80000000 := by decide +kernel

/-- Chapter 8: J at 0x0800_1000 with offset 0x400 goes to 0x0800_2004. -/
theorem test_j_vector : ((after (exec (.j .a 0x400) (withA fun k => { k with pc := 0x08001000 }))).core .a).pc = 0x08002004 := by
  decide +kernel

/-- Chapter 17: AI040, code 2,320 of 0–150.00 °C gives TH 8,498 and HYS 150; 84.60 °C reads 0x8905 with NEW set. -/
def oilTemp : State :=
  let s := ((ring.wr (R.RWN_RLO 40) 0x0C000000).wr (R.RWN_RHI 40) 15000).setRwn
    { ring.rwn with codes := [(40, 2320)], delays := [(40, 0x10)], news := 2 ^ 40 }
  { s with live := [(40, 0x1000210C)] }
theorem test_rante_th : (oilTemp.windowEnt 0 40 0).th = 8498 ∧
    fldOf F.LIM_ENT1_HYS (oilTemp.windowEnt 0 40 0).w1 = 150 ∧ fldOf F.LIM_ENT1_ONDLY (oilTemp.windowEnt 0 40 0).w1 = 50 := by
  decide +kernel
theorem test_rante_value : oilTemp.valueReg 40 = 0x8905 := by decide +kernel

/-- Chapter 3: the curve of AI000 with Y[77] and Y[78] gives 85,052,494 µ°C at R / R0 = 1.328233. -/
theorem test_curve : evalCurve 2097152 18 (fun i => if i = 77 then 85024130 else 89127620) 22284052 = (85052494, false) := by
  decide +kernel

/-- Chapter 5: L0030 of AI010, HI 85.00 °C with hysteresis 2.00 °C; a word of 85.12 °C sets COND. -/
def bearing : State :=
  let s := ring.wrAll [(R.LIM_ENT0 30, 0x0A002134), (R.LIM_ENT1 30, 0x00C80032), (R.LIM_ENT2 30, 0x00640C04),
    (R.LIM_ENT3 30, 0xE0000000), (R.LIM_CHIDX 10, 0x0003001E)]
  s.setLim { s.lim with inbox := [⟨10, 0x10002140, false, false, 0⟩] }
theorem test_bearing_cond : (after (exec (.limitEvaluate 0) bearing)).flag (R.LIM_STATE 30) F.LIM_STATE_COND = true := by
  decide +kernel

/-- Chapter 13: at 2031-06-20 04:30:00 the clocks of node 19 go back to 03:30:00. -/
def westbound : State := calAt (secondsOf (dayNumber 2031 6 20) 4 30 0) fun r => { r with dst := some (false, true) }
theorem test_westbound : (after (exec (.rtcAdjustApply 0) westbound)).rd R.RTC_HOUR = 0x03 ∧
    (after (exec (.rtcAdjustApply 0) westbound)).rd R.RTC_MIN = 0x30 := by decide +kernel

/-- R6: a write where no register stands is ADDRESS. -/
theorem test_write_address : (after (exec (.registerWrite .host 0x40000FF0 1 0) up)).status = .address := by decide +kernel

/-- R305: CMD = 2 while ST is 0 is STATE. -/
theorem test_dst_back_state : (after (exec (.dstBack .host) up)).status = .state := by decide +kernel

/-! ### Words written out in the manual -/

/-- The program of chapter 8, "mean exhaust temperature" (R197–R203, R205–R209). -/
theorem test_core_words :
    decodeCore .a 0 0xD0200000 = .instr (.evw .a 1 0 0 0) ∧ decodeCore .a 0 0x10400040 = .instr (.addi .a 2 0 64) ∧
    decodeCore .a 0 0xC0A20000 = .instr (.smp .a 5 2 0) ∧ decodeCore .a 0 0x30C5003E = .instr (.srli .a 6 5 0 30) ∧
    decodeCore .a 0 0x84C00003 = .instr (.bne .a 6 0 3) ∧ decodeCore .a 0 0x30A50077 = .instr (.sxti .a 5 5 0 23) ∧
    decodeCore .a 0 0x00632800 = .instr (.add .a 3 3 5) ∧ decodeCore .a 0 0x8448FFF8 = .instr (.bne .a 2 8 0xFFF8) := by
  decide +kernel
theorem test_core_words_end :
    decodeCore .a 0 0x2CE03800 = .instr (.lui .a 7 0 0x3800) ∧ decodeCore .a 0 0x80800003 = .instr (.beq .a 4 0 3) ∧
    decodeCore .a 0 0x04632004 = .instr (.div .a 3 3 4) ∧ decodeCore .a 0 0xA0000001 = .instr (.j .a 1) ∧
    decodeCore .a 0 0x00633805 = .instr (.or .a 3 3 7) ∧ decodeCore .a 0 0x416A4000 = .instr (.lw .a 11 10 0x4000) ∧
    decodeCore .b 9 0xD4035800 = .instr (.cmt .b 0 3 11 0 9) ∧ decodeCore .b 9 0xD8000000 = .instr (.cmte .b 0 0 0 0 9) ∧
    decodeCore .a 0 0xA3FFFFE7 = .instr (.j .a 0x3FFFFE7) := by decide +kernel

/-- R198, R212: a reserved major is ILLEGAL with detail 1, a reserved fn with detail 2; the word 0 is ADD w0, w0, w0. -/
theorem test_core_reserved : decodeCore .a 0 0x0C000000 = .illegal 1 ∧ decodeCore .a 0 0x00000015 = .illegal 2 ∧
    decodeCore .a 0 0 = .instr (.add .a 0 0 0) := by decide +kernel

/-- The program of B7 in chapter 4 (R94). -/
theorem test_prog_words :
    decodeProg 7 0 0x90000E = some (.waitt 7 14) ∧ decodeProg 7 0 0x100042 = some (.sel 7 2 2 0) ∧
    decodeProg 7 0 0x400002 = some (.stl 7 2 0) ∧ decodeProg 7 0 0x520001 = some (.cnv 7 1 1 0) ∧
    decodeProg 7 0 0x800000 = some (.put 7 false 0) ∧ decodeProg 7 0 0xB00064 = some (.loop 7 0 0 100) ∧
    decodeProg 7 0 0x100010 = some (.sel 7 0 16 0) ∧ decodeProg 7 0 0xC00000 = some (.jmp 7 0) ∧
    decodeProg 7 0 0 = some (.halt 7) := by decide +kernel

/-- R411: the identification register shifts out 0x1012_8001, least significant bit first. -/
theorem test_tap_idcode : ((up.setTap { up.tap with instr := .idcode }).captureDr).tap.dr =
    (List.range 32).map (0x10128001#32).getLsbD := by decide +kernel

end Sys2Proof.Tests
end

section
/-! SUPPORT. The rules of a write by the host or the service port, one per answer of the common checks, of an edit of the
analog configuration and of a derived-channel write; and what the register map says of the registers the statements name. -/

namespace Sys2Proof.Machine

/-! ### Fields as operands -/

/-- A field's value survives the passage through a word of the field's own width. -/
theorem toNat_ofNat_fldOf (f : Fld) (w : Word) : (BitVec.ofNat f.width (fldOf f w)).toNat = fldOf f w := by
  rw [BitVec.toNat_ofNat]
  exact Nat.mod_mod _ _

/-! ### The common checks of a register write (R5, R6, R418) -/

/-- The checks that do not depend on the state: a register stands at `a`, and a host may write one of its fields. -/
structure HostWritable (a : Nat) : Prop where
  aligned : a % 4 = 0
  stands : standsAt a = true
  field : writable a ≠ 0
  main : spareReg a = false

theorem HostWritable.passes {a : Nat} (w : HostWritable a) : (decide (writable a = 0) || spareReg a) = false := by
  rw [decide_eq_false w.field, w.main]
  rfl

theorem State.hostWrite_of_no_register {s : State} {p : Port} {a : Nat} {v : Word} (h : a % 4 ≠ 0 ∨ standsAt a = false) :
    s.hostWrite p a v = s.answer .address := by
  unfold State.hostWrite
  rw [if_pos (by simpa using h)]

theorem State.hostWrite_of_no_field {s : State} {p : Port} {a : Nat} {v : Word} (aligned : a % 4 = 0)
    (stands : standsAt a = true) (h : writable a = 0 ∨ spareReg a = true) : s.hostWrite p a v = s.answer .denied := by
  unfold State.hostWrite
  rw [if_neg (by simp [aligned, stands]), if_pos (by simpa using h)]

theorem State.hostWrite_of_unpowered {s : State} {p : Port} {a : Nat} {v : Word} (w : HostWritable a)
    (off : s.powered (regDomain a) = false) : s.hostWrite p a v = s.answer .busy := by
  unfold State.hostWrite
  rw [if_neg (by simp [w.aligned, w.stands]), if_neg (Bool.eq_false_iff.1 w.passes), if_pos (by simp [off])]

/-- A write that passes the common checks is the owning chapter's. -/
theorem State.hostWrite_of_powered {s : State} {p : Port} {a : Nat} {v : Word} (w : HostWritable a)
    (on : s.powered (regDomain a) = true) : s.hostWrite p a v = s.writeOwner p a v := by
  unfold State.hostWrite
  rw [if_neg (by simp [w.aligned, w.stands]), if_neg (Bool.eq_false_iff.1 w.passes), if_neg (by simp [on])]

theorem exec_registerWrite (p : Port) (a : Nat) (v : Word) (t : Time) (s : State) :
    exec (.registerWrite p a v t) s = .next ((s.atTime t).hostWrite p a v) := rfl

theorem exec_lockOpen (p : Port) (code : BitVec 16) (t : Time) (s : State) :
    exec (.lockOpen p code t) s = .next ((s.atTime t).lockOpenOp p code.toNat) := rfl

theorem exec_pwrCycleRequest (p : Port) (dom : BitVec 4) (t : Time) (s : State) :
    exec (.pwrCycleRequest p dom t) s = .next ((s.atTime t).pwrCycleOp dom.toNat) := rfl

theorem exec_dioConfigEdit_of_on {p : Port} {a : Nat} {v : Word} {t : Time} {s : State} (own : dioConfigAddr a = true)
    (on : (s.atTime t).dioOn = true) : exec (.dioConfigEdit p a v t) s = .next ((s.atTime t).dioEdit a v) := by
  change execDioConfigEdit p a v t s = _
  simp [execDioConfigEdit, own, on]

/-! ### The registers with rules of their own -/

theorem hostWritable_SYS_LOCK : HostWritable R.SYS_LOCK := ⟨rfl, by decide +kernel, by decide +kernel, by decide +kernel⟩

theorem hostWritable_PWR_CYCLE : HostWritable R.PWR_CYCLE := ⟨rfl, by decide +kernel, by decide +kernel, by decide +kernel⟩

theorem hostWritable_DIO_DIWBL : HostWritable (R.DIO_DIWBL 0) :=
  ⟨rfl, by decide +kernel, by decide +kernel, by decide +kernel⟩

theorem hostWritable_REC_CODECFG (c : Fin 128) : HostWritable (R.REC_CODECFG c) where
  aligned := by simp only [R.REC_CODECFG]; omega
  stands := by revert c; decide +kernel
  field := by revert c; decide +kernel
  main := by revert c; decide +kernel

theorem hostWritable_DIO_DOCFG (n : Fin 48) : HostWritable (R.DIO_DOCFG n) where
  aligned := by simp only [R.DIO_DOCFG]; omega
  stands := by revert n; decide +kernel
  field := by revert n; decide +kernel
  main := by revert n; decide +kernel

theorem blockNo_REC_CODECFG (c : Fin 128) : blockNo (R.REC_CODECFG c) = 0x400D := by
  simp only [blockNo, R.REC_CODECFG]; omega

theorem blockNo_DIO_DOCFG (n : Fin 48) : blockNo (R.DIO_DOCFG n) = 0x4009 := by
  simp only [blockNo, R.DIO_DOCFG]; omega

theorem inPd4_REC_CODECFG (c : Fin 128) : inPd4 (R.REC_CODECFG c) = true := by
  have low : 0x400D0100 ≤ R.REC_CODECFG c := by simp only [R.REC_CODECFG]; omega
  have high : R.REC_CODECFG c < 0x400D0500 := by simp only [R.REC_CODECFG]; omega
  simp [inPd4, low, high]

/-- The code configurations stand in PD4, apart from the recorder's other registers (R336). -/
theorem regDomain_REC_CODECFG (c : Fin 128) : regDomain (R.REC_CODECFG c) = 4 := by
  simp [regDomain, blockNo_REC_CODECFG, inPd4_REC_CODECFG]

theorem regDomain_DIO_DOCFG (n : Fin 48) : regDomain (R.DIO_DOCFG n) = 5 := by
  simp [regDomain, blockNo_DIO_DOCFG]

theorem dioConfigAddr_DIO_DOCFG (n : Fin 48) : dioConfigAddr (R.DIO_DOCFG n) = true := by
  revert n; decide +kernel

theorem State.hostWrite_lockOpen {s : State} {p : Port} {v : Word} (on : s.powered 1 = true)
    (cmd : fldOf F.SYS_LOCK_CMD v = 1) :
    s.hostWrite p R.SYS_LOCK v = s.lockOpenOp p (fldOf F.SYS_LOCK_CODE v) := by
  rw [State.hostWrite_of_powered hostWritable_SYS_LOCK on]
  change s.writeLock p v = _
  simp [State.writeLock, cmd]

theorem State.hostWrite_pwrCycle {s : State} {p : Port} {v : Word} (on : s.powered 1 = true) :
    s.hostWrite p R.PWR_CYCLE v = s.pwrCycleOp (fldOf F.PWR_CYCLE_DOM v) :=
  State.hostWrite_of_powered hostWritable_PWR_CYCLE on

/-- A write of a code configuration is BUSY by the common checks just where the recorder's own check says so. -/
theorem State.hostWrite_codeCfg {s : State} {p : Port} {c : Fin 128} {v : Word} :
    s.hostWrite p (R.REC_CODECFG c) v = s.writeCodeCfg c v := by
  cases on : s.powered 4 with
  | false =>
    rw [State.hostWrite_of_unpowered (hostWritable_REC_CODECFG c) (by rw [regDomain_REC_CODECFG, on])]
    simp [State.writeCodeCfg, on]
  | true =>
    have below : R.REC_CODECFG c < R.REC_SSADDR 0 0 := by simp only [R.REC_CODECFG, R.REC_SSADDR]; omega
    have code : (R.REC_CODECFG c - R.REC_CODECFG 0) / 4 = c := by simp only [R.REC_CODECFG]; omega
    rw [State.hostWrite_of_powered (hostWritable_REC_CODECFG c) (by rw [regDomain_REC_CODECFG, on])]
    simp [State.writeOwner, blockNo_REC_CODECFG, State.writeRec, below, code]

/-- Each 1 of a write to the wire-break latches clears its bit (R4, R257). -/
theorem State.hostWrite_wireBreaks {s : State} {p : Port} {v : Word} (on : s.powered 5 = true) :
    s.hostWrite p (R.DIO_DIWBL 0) v = (s.wr (R.DIO_DIWBL 0) (s.rd (R.DIO_DIWBL 0) &&& ~~~v)).answer .ok := by
  have desc : descOf (R.DIO_DIWBL 0) = some ⟨0x40090118, 4, 2, 4, 1, 0x0, 0x0, 0x0, 0x0, 0xffffffff, 0x0⟩ := by
    decide +kernel
  have all : BitVec.ofNat 32 0xffffffff = BitVec.allOnes 32 := rfl
  rw [State.hostWrite_of_powered hostWritable_DIO_DIWBL on]
  change s.plainW1c (R.DIO_DIWBL 0) v = _
  simp only [State.plainW1c, desc, all, BitVec.and_allOnes]

theorem State.hostWrite_doCfg {s : State} {p : Port} {n : Fin 48} {v : Word} (on : s.powered 5 = true) :
    s.hostWrite p (R.DIO_DOCFG n) v = s.dioEdit (R.DIO_DOCFG n) v := by
  have other : R.DIO_DOCFG n ≠ R.DIO_SCAN := by simp only [R.DIO_DOCFG, R.DIO_SCAN]; omega
  rw [State.hostWrite_of_powered (hostWritable_DIO_DOCFG n) (by rw [regDomain_DIO_DOCFG, on])]
  simp [State.writeOwner, blockNo_DIO_DOCFG, State.writeDio, other, dioConfigAddr_DIO_DOCFG]

/-- Where CI12 works, its domain PD5 has power (R10). -/
theorem State.powered_of_dioOn {s : State} (h : s.dioOn = true) : s.powered 5 = true := by
  unfold State.dioOn State.islandOn at h
  exact (Bool.and_eq_true_iff.1 h).1

/-! ### Edits of the analog configuration (R34, R55) -/

theorem State.afeEdit_of_other {s : State} {a : Nat} {v : Word} (h : afeCfgChan a = none) :
    s.afeEdit a v = s.answer .denied := by
  simp [State.afeEdit, h]

theorem State.afeEdit_of_unpowered {s : State} {a : Nat} {v : Word} {who : Option Nat} (h : afeCfgChan a = some who)
    (off : s.powered 4 = false) : s.afeEdit a v = s.answer .busy := by
  simp [State.afeEdit, h, off]

theorem State.afeEdit_of_closed {s : State} {a : Nat} {v : Word} {who : Option Nat} (h : afeCfgChan a = some who)
    (on : s.powered 4 = true) (closed : s.lockOpen = false) : s.afeEdit a v = s.closedAnswer a v := by
  simp [State.afeEdit, h, on, closed]

/-- An accepted edit: the fields merge, EDITED sets and the lock's 600 s begin again. -/
theorem State.afeEdit_of_valid {s : State} {a : Nat} {v : Word} {who : Option Nat} (h : afeCfgChan a = some who)
    (on : s.powered 4 = true) (opened : s.lockOpen = true)
    (valid : ∀ j, who = some j → (s.wr a (s.merged a (lkMask a) v)).editValid s j = true) :
    s.afeEdit a v =
      ((s.wr a (s.merged a (lkMask a) v)).setFlag R.AFE_STATE F.AFE_STATE_EDITED true).noteLk.answer .ok := by
  cases who with
  | none => simp [State.afeEdit, h, on, opened]
  | some j => simp [State.afeEdit, h, on, opened, valid j rfl]

theorem State.afeEdit_of_invalid {s : State} {a j : Nat} {v : Word} (h : afeCfgChan a = some (some j))
    (on : s.powered 4 = true) (opened : s.lockOpen = true)
    (bad : (s.wr a (s.merged a (lkMask a) v)).editValid s j = false) : s.afeEdit a v = s.answer .range := by
  simp [State.afeEdit, h, on, opened, bad]

/-! ### What the output stage touches (R242) -/

/-- `t` differs from `s` in the registers and in the records of the outputs only. -/
def State.DrivesOnly (s t : State) : Prop := ∃ r x, t = (s.setRegs r).setDio x

theorem State.DrivesOnly.refl (s : State) : s.DrivesOnly s := ⟨s.regs, s.dio, rfl⟩

theorem State.DrivesOnly.trans {s t u : State} (h : s.DrivesOnly t) (g : t.DrivesOnly u) : s.DrivesOnly u := by
  obtain ⟨_, _, rfl⟩ := h
  obtain ⟨r, x, rfl⟩ := g
  exact ⟨r, x, rfl⟩

theorem State.DrivesOnly.wr (s : State) (a : Nat) (v : Word) : s.DrivesOnly (s.wr a v) :=
  ⟨tabSet resetWord s.regs a v, s.dio, rfl⟩

theorem State.DrivesOnly.setOut (s : State) (n : Nat) (x : DoSt) : s.DrivesOnly (s.setOut n x) := ⟨s.regs, _, rfl⟩

theorem State.DrivesOnly.foldS {α : Type} {f : State → α → State} (h : ∀ s a, State.DrivesOnly s (f s a)) (s : State)
    (l : List α) : s.DrivesOnly (foldS f s l) := by
  induction l generalizing s with
  | nil => exact .refl s
  | cons a l ih => exact (h s a).trans (ih (f s a))

theorem State.endPulse_drivesOnly (s : State) (n : Nat) : s.DrivesOnly (s.endPulse n) := by
  unfold State.endPulse
  dsimp only
  split
  · exact .setOut s n _
  · exact .refl s

theorem State.endLatchoff_drivesOnly (s : State) (n : Nat) : s.DrivesOnly (s.endLatchoff n) := by
  unfold State.endLatchoff
  split
  · exact .foldS (fun s k => .wr s _ _) s _
  · exact .refl s

theorem State.putDrive_drivesOnly (s : State) (n : Nat) (r : Bool × Nat) : s.DrivesOnly (s.putDrive n r) := by
  have noted : s.DrivesOnly (if r.1 && !(s.driven n) then s.setOut n { s.out n with onAt := some s.now } else s) := by
    split
    · exact .setOut s n _
    · exact .refl s
  exact noted.trans ((State.DrivesOnly.wr _ _ _).trans (.wr _ _ _))

theorem State.decideDo_drivesOnly (s : State) (n : Nat) : s.DrivesOnly (s.decideDo n) :=
  (s.endLatchoff_drivesOnly _).trans
    ((State.endPulse_drivesOnly _ _).trans (.foldS (fun s k => s.putDrive_drivesOnly k _) _ _))

theorem State.refreshDo_drivesOnly (s : State) (n : Nat) : s.DrivesOnly (s.refreshDo n) := by
  unfold State.refreshDo
  split
  · exact s.decideDo_drivesOnly n
  · exact .refl s

theorem State.refreshAll_drivesOnly (s : State) : s.DrivesOnly s.refreshAll := .foldS State.refreshDo_drivesOnly s _

/-! ### Derived-channel writes (R19, R127, R218) -/

/-- The first word applied leaves Snowline's queue, and the Gatehouse has applied a word. -/
theorem State.noteApplied_lim_gate (s : State) : s.noteApplied.lim = s.lim ∧ s.noteApplied.gate.applied = true := by
  unfold State.noteApplied
  split
  · exact ⟨rfl, ‹_›⟩
  · obtain ⟨r, x, e⟩ := (s.setGate { s.gate with applied := true }).refreshAll_drivesOnly
    rw [e]
    exact ⟨rfl, rfl⟩

theorem State.sendWord_inbox (s : State) (x : InWord) : (s.sendWord x).lim.inbox = s.lim.inbox ++ [x] := by
  unfold State.sendWord State.markNew
  split <;> rfl

theorem State.sendWord_gate (s : State) (x : InWord) : (s.sendWord x).gate = s.gate := by
  unfold State.sendWord State.markNew
  split <;> rfl

theorem State.sendWord_live (s : State) (x : InWord) : (s.sendWord x).live = (s.setSample x.ch x.word).live := by
  unfold State.sendWord State.markNew
  split <;> rfl

theorem State.sample_sendWord {s : State} {x : InWord} (h : s.sound = true) : (s.sendWord x).sample x.ch = x.word := by
  unfold State.sample
  rw [State.sendWord_live]
  exact tabGet_tabSet_same (State.sound.live h)

theorem State.derivedWrite_of_no_channel {s : State} {ch : Nat} {w : Word} (h : ch < 132 ∨ 256 ≤ ch) :
    s.derivedWrite ch w = s.answer .address := by
  simp [State.derivedWrite, h]

theorem State.derivedWrite_of_bad_word {s : State} {ch : Nat} {w : Word} (low : 132 ≤ ch) (high : ch < 256)
    (h : swTag w ≠ 7 ∨ bitsOf w.toNat 24 3 ≠ 0) : s.derivedWrite ch w = s.answer .range := by
  unfold State.derivedWrite
  rw [if_neg (by omega), if_pos (by simpa using h)]

theorem State.derivedWrite_of_good_word {s : State} {ch : Nat} {w : Word} (low : 132 ≤ ch) (high : ch < 256)
    (tag : swTag w = 7) (bits : bitsOf w.toNat 24 3 = 0) :
    s.derivedWrite ch w = (s.noteApplied.sendWord ⟨ch, w, false, swQuality w == qUncertain, 9⟩).answer .ok := by
  unfold State.derivedWrite
  rw [if_neg (by omega), if_neg (by simp [tag, bits])]

/-- A derived word goes to the live table and, from the Gatehouse, to the end of Snowline's queue. -/
theorem State.derivedWrite_delivers {s : State} {ch : Nat} {w : Word} (low : 132 ≤ ch) (high : ch < 256)
    (tag : swTag w = 7) (bits : bitsOf w.toNat 24 3 = 0) :
    (s.derivedWrite ch w).status = .ok ∧ (s.derivedWrite ch w).gate.applied = true ∧
      (s.sound = true → (s.derivedWrite ch w).sample ch = w) ∧
      ∃ d, (s.derivedWrite ch w).lim.inbox = s.lim.inbox ++ [⟨ch, w, false, d, 9⟩] := by
  obtain ⟨lim, applied⟩ := s.noteApplied_lim_gate
  rw [State.derivedWrite_of_good_word low high tag bits]
  refine ⟨rfl, ?_, fun sound => ?_, swQuality w == qUncertain, ?_⟩
  · exact (congrArg Gate.applied (State.sendWord_gate _ _)).trans applied
  · exact State.sample_sendWord ((State.noteApplied_keeps (Keeps.refl s)).sound sound)
  · exact (State.sendWord_inbox _ _).trans (by rw [lim])

end Sys2Proof.Machine
end

section
/-! SUPPORT. What the registers hold right after reset: each its reset word, with the Reset columns of the families that the
statement names. -/

namespace Sys2Proof.Machine

theorem State.reset_sound : State.reset.sound = true := by decide

/-- Right after reset every register holds its reset word. -/
theorem State.rd_reset (a : Nat) : State.reset.rd a = resetWord a := rfl

theorem State.fld_reset (a : Nat) (f : Fld) : State.reset.fld a f = fldOf f (resetWord a) := rfl

/-! The Reset columns of the families of registers, looked up in the register map for each member. -/

theorem resetWord_SEQ_PC (q : Fin 9) : resetWord (R.SEQ_PC q) = 0x1F0000 := by revert q; decide +kernel

theorem resetWord_CRV_CHCFG (n : Fin 132) : resetWord (R.CRV_CHCFG n) = 0xFF00 := by revert n; decide +kernel

theorem resetWord_CRV_GAIN (n : Fin 132) : resetWord (R.CRV_GAIN n) = 0x01000000 := by revert n; decide +kernel

theorem resetWord_AFE_RAWL (n : Fin 132) : resetWord (R.AFE_RAWL n) = 0 := by revert n; decide +kernel

theorem resetWord_DIO_DOST (n : Fin 48) : resetWord (R.DIO_DOST n) = 0x3F := by revert n; decide +kernel

theorem resetWord_SYS_STEP (k : Fin 16) : resetWord (R.SYS_STEP k) = 0 := by revert k; decide +kernel

end Sys2Proof.Machine
end

section
/-! SUPPORT. The statements of the scope: register writes, and the state right after reset. -/

open Sys2Proof Sys2Proof.Machine

namespace Sys2Proof.Proofs

/-- Settles O22. The one value that is not its Reset column's is that of REC_NEXTSEQ, whose column says P: the sequence
numbers begin at 1 (R321, log 3). -/
theorem resetState : Obligations.ResetState := by
  unfold Obligations.ResetState
  refine ⟨State.reset_sound, rfl, ?id, ?domains, ?claim, ?lock, ?interval, ?served, ?etype, ?century, ?weekday, ?osf,
    ?nextSeq, ?position, ?channel, ?partner, ?step⟩
  case id | domains | claim | lock | interval | served | etype | century | weekday | osf | nextSeq => decide +kernel
  case position => intro q; rw [State.fld_reset, resetWord_SEQ_PC]; decide
  case channel =>
    intro n
    simp only [State.fld_reset, State.rd_reset, resetWord_CRV_CHCFG, resetWord_CRV_GAIN, resetWord_AFE_RAWL]
    decide
  case partner => intro n; rw [State.fld_reset, resetWord_DIO_DOST]; decide
  case step => intro k; rw [State.fld_reset, resetWord_SYS_STEP]; decide

/-- Settles O11. BUSY of a domain without power is log 59, a derived write that counts as a tick applied log 14, its way to
the live table and to Snowline log 37, EDITED on an unchanged write log 78. -/
theorem registerWrites : Obligations.RegisterWrites := by
  unfold Obligations.RegisterWrites
  intro s₀ p a v c n ch who t
  dsimp only
  simp only [exec_registerWrite]
  refine ⟨?address, ?denied, ?busy, ?lock, ?cycle, ?code, ?wireBreaks, ?output, ?afeOther, ?afeBusy, ?afeClosed,
    ?afeAccepted, ?afeRange, ?derivedAddress, ?derivedRange, ?derived⟩
  case address => exact fun h => congrArg _ (State.hostWrite_of_no_register h)
  case denied => exact fun aligned stands h => congrArg _ (State.hostWrite_of_no_field aligned stands h)
  case busy =>
    exact fun aligned stands field main off => congrArg _ (State.hostWrite_of_unpowered ⟨aligned, stands, field, main⟩ off)
  case lock =>
    intro on cmd
    have code : (BitVec.ofNat 16 (fldOf F.SYS_LOCK_CODE v)).toNat = fldOf F.SYS_LOCK_CODE v := toNat_ofNat_fldOf _ v
    rw [State.hostWrite_lockOpen on cmd, exec_lockOpen, code]
  case cycle =>
    intro on
    have dom : (BitVec.ofNat 4 (fldOf F.PWR_CYCLE_DOM v)).toNat = fldOf F.PWR_CYCLE_DOM v := toNat_ofNat_fldOf _ v
    rw [State.hostWrite_pwrCycle on, exec_pwrCycleRequest, dom]
  case code => exact congrArg _ State.hostWrite_codeCfg
  case wireBreaks => exact fun on => congrArg _ (State.hostWrite_wireBreaks on)
  case output =>
    intro on
    rw [State.hostWrite_doCfg (State.powered_of_dioOn on), exec_dioConfigEdit_of_on (dioConfigAddr_DIO_DOCFG n) on]
  case afeOther => exact fun h => congrArg _ (State.afeEdit_of_other h)
  case afeBusy => exact fun h off => congrArg _ (State.afeEdit_of_unpowered h off)
  case afeClosed => exact fun h on closed => congrArg _ (State.afeEdit_of_closed h on closed)
  case afeAccepted => exact fun h on opened valid => congrArg _ (State.afeEdit_of_valid h on opened valid)
  case afeRange =>
    rintro j rfl h on opened bad
    exact congrArg _ (State.afeEdit_of_invalid h on opened bad)
  case derivedAddress => exact fun h => congrArg _ (State.derivedWrite_of_no_channel h)
  case derivedRange => exact fun low high h => congrArg _ (State.derivedWrite_of_bad_word low high h)
  case derived =>
    intro low high tag bits
    obtain ⟨status, applied, sample, inbox⟩ := State.derivedWrite_delivers (s := s₀.atTime t) low high tag bits
    exact ⟨_, rfl, status, applied, fun h => sample ((State.atTime_keeps (Keeps.refl s₀)).sound h), inbox⟩

end Sys2Proof.Proofs
end

section
/-! SUPPORT. The rules of a crossing as a queue of words (R13, R14). -/

namespace Sys2Proof.Machine

/-! ### Reading and replacing a crossing -/

theorem State.cross_setCross_same {s : State} {x : Nat} {c : Cross} (h : s.sound = true) :
    (s.setCross x c).cross x = c :=
  tabGet_tabSet_same (State.sound.xing h)

theorem State.cross_setCross_ne {s : State} {x y : Nat} {c : Cross} (h : s.sound = true) (n : y ≠ x) :
    (s.setCross x c).cross y = s.cross y :=
  tabGet_tabSet_ne (State.sound.xing h) n

theorem State.crossMove_of_head {s : State} {x : Nat} {w : BitVec 64} {l : List (BitVec 64)}
    (h : (s.cross x).fifo = w :: l) :
    s.crossMove x = s.setCross x { s.cross x with fifo := l, usable := (s.cross x).usable ++ [w] } := by
  simp [State.crossMove, h]

/-! ### The command -/

theorem exec_crossingTransfer_send {s : State} {x : Crossing} {w : BitVec 64}
    (runs : s.islandRuns (crossEnds x).2.1 = true) :
    exec (.crossingTransfer x (some w)) s = .next (s.crossSend (crossEnds x).1 w) := by
  change execCrossingTransfer x (some w) s = _
  simp [execCrossingTransfer, runs]

theorem exec_crossingTransfer_move {s : State} {x : Crossing} (sender : s.islandRuns (crossEnds x).2.1 = true)
    (receiver : s.islandRuns (crossEnds x).2.2 = true) :
    exec (.crossingTransfer x none) s = .next (s.crossMove (crossEnds x).1) := by
  change execCrossingTransfer x none s = _
  simp [execCrossingTransfer, sender, receiver]

/-- With one end stopped the crossing holds its contents (R14). -/
theorem exec_crossingTransfer_stopped {s : State} {x : Crossing}
    (stopped : s.islandRuns (crossEnds x).2.1 = false ∨ s.islandRuns (crossEnds x).2.2 = false) :
    exec (.crossingTransfer x none) s = .next s := by
  have off : (s.islandRuns (crossEnds x).2.1 && s.islandRuns (crossEnds x).2.2) = false :=
    Bool.and_eq_false_iff.2 stopped
  change execCrossingTransfer x none s = _
  simp [execCrossingTransfer, off]

end Sys2Proof.Machine
end

section
/-! SUPPORT. The rules of the snapshot builder and of the swap: what an operation on both cores does to each, what a core
holds after its swap, and which swap the Gatehouse makes (R20, R189, R193–R195). -/

namespace Sys2Proof.Machine

/-! ### Operations on the cores -/

@[simp] theorem State.setCore_regs (s : State) (c : CoreId) (k : Core) : (s.setCore c k).regs = s.regs := by
  cases c <;> rfl

theorem State.setCore_core (s : State) (c : CoreId) : s.setCore c (s.core c) = s := by cases c <;> rfl

theorem twin_ne (c : CoreId) : twin c ≠ c := by cases c <;> decide

/-- The cores become what `g` makes of them; nothing else changes. -/
def State.mapCores (s : State) (g : CoreId → Core → Core) : State :=
  { s with coreA := g .a s.coreA, coreB := g .b s.coreB }

@[simp] theorem State.core_mapCores (s : State) (g : CoreId → Core → Core) (c : CoreId) :
    (s.mapCores g).core c = g c (s.core c) := by cases c <;> rfl

/-- An operation that replaces one core, as the registers and that core have it, done to both cores. -/
theorem State.foldS_cores {f : State → CoreId → State} {g : CoreId → Core → Core} {s : State}
    (h : ∀ m c, m.regs = s.regs → f m c = m.setCore c (g c (m.core c))) : foldS f s [.a, .b] = s.mapCores g := by
  change f (f s .a) .b = _
  rw [h s .a rfl, h _ .b (State.setCore_regs s .a _)]
  rfl

/-- A part that every step of a fold leaves alone stays. -/
theorem foldS_frame {α β : Type} {f : State → α → State} {part : State → β} (h : ∀ s a, part (f s a) = part s)
    (s : State) (l : List α) : part (foldS f s l) = part s := by
  induction l generalizing s with
  | nil => rfl
  | cons a l ih => exact (ih (f s a)).trans (h s a)

/-! ### Snapshots (R20, R193) -/

/-- A core in service gets the snapshot into its inactive buffer, where the copy begins. -/
def Core.beginCopy (x : Snap) (k : Core) : Core := if k.live then { k with inactive := some (x, false) } else k

theorem State.startCopy_eq (x : Snap) (s : State) (c : CoreId) :
    s.startCopy x c = s.setCore c ((s.core c).beginCopy x) := by
  unfold State.startCopy Core.beginCopy
  split
  · rfl
  · exact (s.setCore_core c).symm

theorem State.boundary_eq (s : State) : s.boundary =
    (s.takeSnap.setGate { s.gate with idle := false, boundaryAt := s.now }).mapCores
      (fun _ => Core.beginCopy s.freeze) :=
  State.foldS_cores fun m c _ => m.startCopy_eq s.freeze c

theorem exec_tickBoundary_of_due {s : State} {t : Time} (on : (s.atTime t).almOn = true)
    (due : (s.atTime t).boundaryDue = true) : exec (.tickBoundary t) s = .next (s.atTime t).boundary := by
  change execTickBoundary t s = _
  simp [execTickBoundary, on, due]

theorem State.freshenAlm_alm (s : State) : s.freshenAlm.alm = s.alm := by
  unfold State.freshenAlm
  refine (foldS_frame (part := State.alm) ?_ _ _).trans (foldS_frame (part := State.alm) ?_ _ _) <;> exact fun _ _ => rfl

theorem State.freeze_tickNo (s : State) : s.freeze.tickNo = s.alm.stampTick :=
  congrArg Alm.stampTick s.freshenAlm_alm

theorem exec_snapshotCopyComplete {s : State} {c : CoreId} {x : Snap} {b : Bool}
    (copy : (s.core c).inactive = some (x, b)) (live : (s.core c).live = true) (on : s.almOn = true) :
    exec (.snapshotCopyComplete c) s = .next (s.setCore c { s.core c with inactive := some (x, true) }) := by
  change execSnapshotCopyComplete c s = _
  simp [execSnapshotCopyComplete, copy, live, on]

/-! ### A core after its swap (R187, R193, R195) -/

/-- What a core holds after the swap to snapshot `x`. -/
structure Core.AtSwap (k : Core) (x : Snap) (solo : Bool) : Prop where
  inactive : k.inactive = none
  tick : k.tick = BitVec.ofNat 32 x.tickNo
  cmtd : k.cmtd = false
  cmtn : k.cmtn = 0
  cursor : k.cursor = 0
  solo : k.solo = solo
  events : k.active.events = x.events

/-- The result of an instruction goes to a word; the swap's own fields stay. -/
theorem Core.AtSwap.next {k : Core} {x : Snap} {solo : Bool} (h : k.AtSwap x solo) (wd : BitVec 5) (v : Word) :
    (k.next wd v).AtSwap x solo := by
  obtain ⟨inactive, tick, cmtd, cmtn, cursor, soloed, events⟩ := h
  unfold Core.next Core.set
  split <;> exact ⟨inactive, tick, cmtd, cmtn, cursor, soloed, events⟩

theorem Core.swapTo_atSwap (k : Core) (x : Snap) (solo rsync : Bool) : (k.swapTo x solo rsync).AtSwap x solo := by
  unfold Core.swapTo
  dsimp only
  split
  · apply Core.AtSwap.next
    exact ⟨rfl, rfl, rfl, rfl, rfl, rfl, rfl⟩
  · exact ⟨rfl, rfl, rfl, rfl, rfl, rfl, rfl⟩

theorem State.swapCore_of_copy {s : State} {c : CoreId} {x : Snap} {solo rsync : Bool}
    (copy : (s.core c).inactive = some (x, true)) :
    s.swapCore solo rsync c = s.setCore c ((s.core c).swapTo x solo rsync) := by
  simp [State.swapCore, copy]

/-! ### The swap (R193) -/

/-- Core `c` may swap: it has presented CMTE and holds the whole of `x`, CI5 works, and no self-check runs. -/
structure State.MaySwap (s : State) (c : CoreId) (x : Snap) : Prop where
  on : s.almOn = true
  idle : s.gate.idle = false
  checking : s.gate.checking = false
  live : (s.core c).live = true
  cmtd : (s.core c).cmtd = true
  copy : (s.core c).inactive = some (x, true)

theorem Core.ready_of_copy {k : Core} {x : Snap} (live : k.live = true) (cmtd : k.cmtd = true)
    (copy : k.inactive = some (x, true)) : k.ready = true := by
  simp [Core.ready, live, cmtd, copy]

theorem Core.not_ready_of_not_cmtd {k : Core} (cmtd : k.cmtd = false) : k.ready = false := by
  simp [Core.ready, cmtd]

/-- A swap that nothing holds up is the one of the pair's mode. -/
theorem State.MaySwap.not_held {s : State} {c : CoreId} {x : Snap} (h : s.MaySwap c x) :
    (!(s.core c).ready || s.gate.checking || !s.almOn || s.gate.idle) = false := by
  rw [Core.ready_of_copy h.live h.cmtd h.copy, h.checking, h.on, h.idle]
  rfl

theorem State.swap_alone {s : State} {c : CoreId} {x : Snap} (h : s.MaySwap c x) (mode : s.twinMode = false)
    (resync : s.resyncing = false) (serves : s.server_ = c) :
    s.swap c = (s.setCore c ((s.core c).swapTo x true false)).newTick c := by
  unfold State.swap
  rw [h.not_held]
  simp [mode, resync, serves, State.swapCore_of_copy h.copy]

theorem State.swap_twin {s : State} {c : CoreId} {x : Snap} (h : s.MaySwap c x) (mode : s.twinMode = true) :
    s.swap c = s.swapTwin c := by
  unfold State.swap
  rw [h.not_held]
  simp [mode]

theorem exec_snapshotSwap {s u : State} {c : CoreId} (h : s.swap c = u) : exec (.snapshotSwap c) s = .next u :=
  congrArg _ h

/-- Both cores, ready with copies of one snapshot, swap together (R193). -/
theorem State.swapTwin_together {s : State} {c : CoreId} {x : Snap}
    (ready : ∀ d, (s.core d).live = true ∧ (s.core d).cmtd = true ∧ (s.core d).inactive = some (x, true))
    (even : s.tickEnded = true ∨ s.gate.late = none) :
    s.swapTwin c = (s.mapCores (fun _ k => k.swapTo x false false)).newTick c := by
  obtain ⟨live, cmtd, copy⟩ := ready (twin c)
  obtain ⟨-, -, copyA⟩ := ready .a
  obtain ⟨-, -, copyB⟩ := ready .b
  have same : s.sameCopy = true := by
    change s.coreA.inactive = _ at copyA
    change s.coreB.inactive = _ at copyB
    simp [State.sameCopy, copyA, copyB]
  have both : foldS (State.swapCore false false) s [.a, .b] = s.mapCores (fun _ k => k.swapTo x false false) := by
    change ((s.swapCore false false .a).swapCore false false .b) = _
    have copyB' : ((s.swapCore false false .a).core .b).inactive = some (x, true) := by
      rw [State.swapCore_of_copy copyA, State.core_setCore_other (by decide), copyB]
    rw [State.swapCore_of_copy copyB', State.swapCore_of_copy copyA]
    rfl
  unfold State.swapTwin
  rw [if_pos (by simpa [Core.ready_of_copy live cmtd copy, same] using even), both]

/-- After an ended tick a core that has finished goes on without its twin (R193, log 76). -/
theorem State.swapTwin_ahead {s : State} {c : CoreId} (ended : s.tickEnded = true)
    (behind : (s.core (twin c)).cmtd = false) : s.swapTwin c = s.goOn c := by
  simp [State.swapTwin, Core.not_ready_of_not_cmtd behind, ended]

@[simp] theorem State.newTick_regs (s : State) (c : CoreId) : (s.newTick c).regs = s.regs := rfl

@[simp] theorem State.core_newTick (s : State) (c d : CoreId) : (s.newTick c).core d = s.core d := by cases d <;> rfl

/-- Going on changes core `c` by its swap, and the Gatehouse, which holds the twin as late. -/
theorem State.goOn_eq {s : State} {c : CoreId} {x : Snap} (copy : (s.core c).inactive = some (x, true)) :
    ∃ g : Gate, s.goOn c = (s.setCore c ((s.core c).swapTo x false false)).setGate g ∧ g.late = some (twin c) ∧
      g.diverged = none ∧ g.discarded = false := by
  unfold State.goOn
  dsimp only [List.foldl]
  rw [State.swapCore_of_copy copy]
  cases c <;> exact ⟨_, rfl, rfl, rfl, rfl⟩

/-! ### The cores leave reset (R189, R374) -/

/-- A core as it leaves reset at the boundary of snapshot `x`. -/
def Core.released (x : Snap) (solo : Bool) : Core :=
  { coreReset with live := true, solo := solo, tick := BitVec.ofNat 32 x.tickNo,
                   active := { x with flags := x.flags + solo.toNat + 4 } }

theorem State.releaseCores_eq (s : State) : ∃ g : Gate, g.tick = s.freeze.tickNo ∧ s.releaseCores =
    (s.takeSnap.mapCores
      (fun c k => if s.permIsolated c then k else Core.released s.freeze !s.twinMode)).setGate g := by
  unfold State.releaseCores
  dsimp only
  rw [State.foldS_cores (g := fun c k => if s.permIsolated c then k else Core.released s.freeze !s.twinMode)]
  · exact ⟨_, rfl, rfl⟩
  · intro m c regs
    have perm : m.permIsolated c = s.permIsolated c := by
      simp only [State.permIsolated, State.flag, State.fld, State.rd, regs]
      rfl
    rw [perm]
    split
    · exact (m.setCore_core c).symm
    · rfl

@[simp] theorem State.permIsolated_atTime (s : State) (t : Time) (c : CoreId) :
    (s.atTime t).permIsolated c = s.permIsolated c := rfl

theorem exec_coresLeaveReset {s : State} {t : Time} (first : (s.atTime t).firstBoundary = true)
    (resetA : s.coreA.live = false) (resetB : s.coreB.live = false) (on : s.almOn = true) :
    exec (.coresLeaveReset t) s = .next (s.atTime t).releaseCores := by
  have on' : (s.atTime t).almOn = true := on
  change execCoresLeaveReset t s = _
  simp [execCoresLeaveReset, first, resetA, resetB, on']

end Sys2Proof.Machine
end

section
/-! SUPPORT. The rules of a fault: what a lock lost, a lock regained and a failed crystal do, and what a domain's
fault leads to (R12, R15, R16, R18). -/

namespace Sys2Proof.Machine

theorem exec_islandLockLost {s : State} {i : Fin 16} {t : Time} (running : s.sup.running = true)
    (runs : (s.atTime t).islandRuns i = true) : exec (.islandLockLost i t) s = .next (((s.atTime t).loseLock i).setSup
      { (s.atTime t).sup with lockWait := (s.atTime t).sup.lockWait ++ [(i.val, (s.atTime t).now)] }) := by
  change execIslandLockLost i t s = _
  simp [execIslandLockLost, running, runs]

theorem exec_islandLockRegained {s : State} {i : Fin 16} (waits : ∃ e ∈ s.sup.lockWait, e.1 = i.val) :
    exec (.islandLockRegained i) s = .next (s.islandBack i) := by
  have awaits : s.awaitsLock i = true := by simpa [State.awaitsLock] using waits
  change execIslandLockRegained i s = _
  simp [execIslandLockRegained, awaits]

theorem State.islandBack_eq (s : State) (i : Nat) : s.islandBack i =
    let u := (s.endLockWait i).setLock i true
    if i = 5 then u.missedCall else if i = 14 then u.kick else u := by
  unfold State.islandBack
  dsimp only
  split
  · rfl
  · rfl
  · rw [if_neg ‹_›, if_neg ‹_›]

theorem exec_lockRegainTimeout {s : State} {i : Fin 16} {t : Time}
    (waits : s.sup.lockWait.find? (fun e => e.1 == i.val) = some (i.val, t)) : exec (.lockRegainTimeout i) s =
      .next (((s.atTime (t + ms)).endLockWait i).domainFault (islandDomain i) 0) := by
  have due : s.lockDue i = some (t + ms) := by simp [State.lockDue, waits]
  change execLockRegainTimeout i s = _
  simp [execLockRegainTimeout, due]

theorem exec_xt25Fail_in_service {s : State} {t : Time} (running : s.sup.running = true)
    (xt25 : (s.atTime t).fld R.CLK_REF F.CLK_REF_SRC = 0) :
    exec (.xt25Fail t) s = .next (s.atTime t).crystalFails := by
  change execXt25Fail t s = _
  simp only [execXt25Fail, State.atTime_sup, running, xt25]
  rfl

theorem exec_xt25Fail_on_rc8 {s : State} {t : Time} (running : s.sup.running = true)
    (rc8 : (s.atTime t).fld R.CLK_REF F.CLK_REF_SRC ≠ 0) :
    exec (.xt25Fail t) s = .next ((s.atTime t).setFlag R.CLK_REF F.CLK_REF_XT25_OK false) := by
  change execXt25Fail t s = _
  simp only [execXt25Fail, State.atTime_sup, running, beq_false_of_ne rc8]
  rfl

theorem State.orderRestart_of_none {s : State} {cause : Nat} {t : Time} (free : s.sup.restartReq = none) :
    s.orderRestart cause t = s.setSup { s.sup with restartReq := some (cause, t) } := by
  simp [State.orderRestart, free]

theorem State.needCycle_of_idle {s : State} {d cause : Nat} (waiting : s.sup.waiting = [])
    (active : s.sup.active = none) : s.needCycle d cause = s.setSup { s.sup with waiting := [(d, cause)] } := by
  simp [State.needCycle, waiting, active]

theorem State.domainFault_of_pd0 {s : State} {cause : Nat} : s.domainFault 0 cause = s := by
  simp [State.domainFault]

theorem State.domainFault_of_pd1 {s : State} {cause : Nat} (running : s.sup.running = true) :
    s.domainFault 1 cause = s.orderRestart 3 s.now := by
  simp [State.domainFault, running]

/-- A powered domain from PD4 on, or a core's of a whole pair, is cycled. -/
theorem State.domainFault_cycled {s : State} {d cause : Nat} (running : s.sup.running = true) (on : s.powered d = true)
    (repairable : 4 ≤ d ∨ (2 ≤ d ∧ s.twinMode = true ∧ s.permDomain d = false)) :
    s.domainFault d cause = s.needCycle d cause := by
  rcases repairable with high | ⟨low, twin, perm⟩
  · have core : domainCore d = none := by simp [domainCore, show d ≠ 2 by omega, show d ≠ 3 by omega]
    have perm : s.permDomain d = false := by simp [State.permDomain, core]
    simp [State.domainFault, running, on, core, perm, show d ≠ 0 by omega, show d ≠ 1 by omega]
  · have pair (c : CoreId) : s.servesAlone c = false := by simp [State.servesAlone, twin]
    unfold State.domainFault
    simp only [running, on, perm, pair, show d ≠ 0 by omega, show d ≠ 1 by omega]
    cases domainCore d <;> rfl

/-- A fault of the only core in service restarts the node (R16, R229). -/
theorem State.domainFault_of_last_core {s : State} {cause : Nat} (running : s.sup.running = true)
    (on : s.powered 2 = true) (perm : s.permDomain 2 = false) (alone : s.servesAlone .a = true) :
    s.domainFault 2 cause = s.orderRestart causeCoresLost (s.now + 10 * ms) := by
  simp [State.domainFault, running, on, perm, domainCore, alone]

end Sys2Proof.Machine
end

section
/-! SUPPORT. PD10 back: the interrupted row of the panel, and T100, which holds the domain off (R295, R385). -/

namespace Sys2Proof.Machine

theorem State.journalHeader_interrupted (s : State) : s.journalHeader.pnl.interrupted = s.pnl.interrupted := by
  unfold State.journalHeader
  dsimp only
  split <;> rfl

theorem State.kick_interrupted (s : State) : s.kick.pnl.interrupted = s.pnl.interrupted := by
  unfold State.kick
  repeat' split
  all_goals rfl

/-- The replay of the journal has no row interrupted of its own. -/
theorem State.replayJournal_interrupted (s : State) (bad : List Nat) :
    (s.replayJournal bad).pnl.interrupted = s.pnl.interrupted := by
  have buffered (s : State) (l : List Nat) :
      (foldS (fun s r => s.setBufRow r (tabGet (dflt 0) s.pnl.journal r)) s l).pnl = s.pnl :=
    foldS_frame (part := State.pnl) (by intros; rfl) s l
  have marked (s : State) (l : List Nat) : (foldS State.badRow s l).pnl = s.pnl :=
    foldS_frame (part := State.pnl) (by intros; rfl) s l
  unfold State.replayJournal
  dsimp only
  split
  · rw [marked, buffered]
  · rw [State.kick_interrupted, State.journalHeader_interrupted]
    change (foldS State.badRow _ _).pnl.interrupted = _
    rw [marked, buffered]

/-- With PD10 back no row is interrupted any more: E5F has told of it (R295). -/
theorem State.backGlasshouse_interrupted (s : State) : s.backGlasshouse.pnl.interrupted = none := by
  unfold State.backGlasshouse
  dsimp only
  split
  · rw [State.replayJournal_interrupted]
    rfl
  · rfl

/-- Where the registers stand in canonical form, a write of CYC leaves T100 as it is. -/
theorem State.heldOff_setCycling {s : State} {d e : Nat} {b : Bool} (sound : s.sound = true) :
    (s.setCycling d b).heldOff e = s.heldOff e := by
  unfold State.heldOff State.flag State.fld State.setCycling
  rw [State.rd_setFld_ne sound (by decide)]

end Sys2Proof.Machine
end

section
/-! SUPPORT. The statements of the islands, domains and budgets. -/

open Sys2Proof Sys2Proof.Machine

namespace Sys2Proof.Proofs

/-- Settles O7. That a word sent to a full crossing stands behind its four, with its sender, is log 61. -/
theorem crossingsAreQueues : Obligations.CrossingsAreQueues := by
  unfold Obligations.CrossingsAreQueues
  intro s x w l sound
  refine ⟨fun sender => ⟨_, exec_crossingTransfer_send sender, ?_⟩,
    fun sender receiver head => ⟨_, exec_crossingTransfer_move sender receiver, ?_⟩, exec_crossingTransfer_stopped⟩
  · refine ⟨?_, ?_, fun _ => State.cross_setCross_ne sound, rfl⟩ <;>
      rw [State.crossSend, State.cross_setCross_same sound]
  · rw [State.crossMove_of_head head]
    refine ⟨?_, ?_, fun _ => State.cross_setCross_ne sound, rfl⟩ <;> rw [State.cross_setCross_same sound]

theorem snapshots : Clauses.Snapshots := by
  unfold Clauses.Snapshots
  intro s₀ c x b t
  dsimp only
  refine ⟨?boundary, exec_snapshotCopyComplete, ?alone, ?together, ?ahead⟩
  case boundary =>
    intro on started due
    have isDue : (s₀.atTime t).boundaryDue = true := Bool.and_eq_true_iff.2 ⟨decide_eq_true started, decide_eq_true due⟩
    refine ⟨_, exec_tickBoundary_of_due on isDue, ?_⟩
    rw [State.boundary_eq]
    exact ⟨rfl, rfl, rfl, fun d => State.core_mapCores _ _ d⟩
  case alone =>
    intro on idle mode resync serves live cmtd copy checking
    have may : s₀.MaySwap c x := ⟨on, idle, checking, live, cmtd, copy⟩
    obtain ⟨inactive, tick, cmtd', cmtn, cursor, solo, events⟩ := (s₀.core c).swapTo_atSwap x true false
    refine ⟨_, exec_snapshotSwap (State.swap_alone may mode resync serves), ?_⟩
    simp only [State.core_newTick, State.core_setCore_same, State.core_setCore_other (twin_ne c), State.newTick_regs,
      State.setCore_regs]
    exact ⟨inactive, tick, cmtd', cmtn, cursor, solo, events, rfl, rfl, rfl, trivial, trivial⟩
  case together =>
    intro on idle mode checking even ready
    obtain ⟨live, cmtd, copy⟩ := ready c
    have may : s₀.MaySwap c x := ⟨on, idle, checking, live, cmtd, copy⟩
    refine ⟨_, exec_snapshotSwap ((State.swap_twin may mode).trans (State.swapTwin_together ready even)),
      fun d => ?_, rfl⟩
    obtain ⟨inactive, tick, cmtd', -, -, solo, -⟩ := (s₀.core d).swapTo_atSwap x false false
    rw [State.core_newTick, State.core_mapCores]
    exact ⟨tick, cmtd', solo, inactive⟩
  case ahead =>
    intro on idle mode checking ended live cmtd copy behind
    have may : s₀.MaySwap c x := ⟨on, idle, checking, live, cmtd, copy⟩
    obtain ⟨g, goes, late, diverged, discarded⟩ := State.goOn_eq copy
    refine ⟨_, exec_snapshotSwap ((State.swap_twin may mode).trans ((State.swapTwin_ahead ended behind).trans goes)), ?_⟩
    simp only [State.core_setGate, State.core_setCore_same, State.core_setCore_other (twin_ne c), State.setGate_regs,
      State.setCore_regs, State.setGate_gate, State.tickEnded, diverged, discarded, late]
    exact ⟨((s₀.core c).swapTo_atSwap x false false).tick, trivial, trivial, rfl, trivial⟩

theorem coresLeaveReset : Clauses.CoresLeaveReset := by
  unfold Clauses.CoresLeaveReset
  intro s₀ t ready resetA resetB first on due
  have isFirst : (s₀.atTime t).firstBoundary = true := by
    unfold State.firstBoundary
    rw [State.atTime_sup, ready, State.atTime_alm, first]
    exact decide_eq_true due
  have number : (s₀.atTime t).freeze.tickNo = 1 := (State.freeze_tickNo _).trans first
  obtain ⟨g, tick, released⟩ := (s₀.atTime t).releaseCores_eq
  refine ⟨_, exec_coresLeaveReset isFirst resetA resetB on, ?_⟩
  rw [released]
  refine ⟨?_, tick.trans number, rfl, fun c => ?_⟩
  · exact congrArg (· + 1) first
  · rw [State.core_setGate, State.core_mapCores, State.permIsolated_atTime]
    refine ⟨fun perm => ?_, fun perm => ?_⟩
    · rw [if_pos perm]; rfl
    · rw [if_neg (Bool.eq_false_iff.1 perm)]
      exact ⟨rfl, rfl, rfl, congrArg (BitVec.ofNat 32) number, rfl, rfl, rfl, rfl, rfl⟩

/-- Settles O42: the two families of clauses. That a core goes on after an ended tick while its twin still finishes it is
log 76. -/
theorem snapshotsAndCoreStart : Obligations.SnapshotsAndCoreStart := ⟨snapshots, coresLeaveReset⟩

/-- The clauses about islands and their faults hold of every state of a running node, in canonical form or not. -/
theorem islandFaults : Clauses.IslandFaults := by
  unfold Clauses.IslandFaults
  intro s₀ i d cause t running
  dsimp only
  refine ⟨exec_islandLockLost running, ?regained, exec_lockRegainTimeout, rfl, rfl, ?cycled, ?pd1, ?lastCore, ?pd0,
    exec_xt25Fail_in_service running, exec_xt25Fail_on_rc8 running⟩
  case regained => exact fun waits => (exec_islandLockRegained waits).trans (congrArg _ (s₀.islandBack_eq i))
  case cycled =>
    exact fun on repairable waiting active =>
      (State.domainFault_cycled running on repairable).trans (State.needCycle_of_idle waiting active)
  case pd1 =>
    intro pd1 free
    rw [pd1]
    exact (State.domainFault_of_pd1 running).trans (State.orderRestart_of_none free)
  case lastCore =>
    exact fun on perm alone free =>
      (State.domainFault_of_last_core running on perm alone).trans (State.orderRestart_of_none free)
  case pd0 =>
    intro pd0
    rw [pd0]
    exact State.domainFault_of_pd0

/-- PD10 is being cycled, and the cycle interrupted a row of the panel. PWR_STAT, with T100 set, is listed behind
PWR_DOM, which holds its reset word: no list in canonical form (State.sound) holds either. -/
def hiddenT100 : State :=
  { State.reset with
    regs := [(R.PWR_DOM, resetWord R.PWR_DOM), (R.PWR_STAT, fldMask F.PWR_STAT_T100)]
    sup := { supReset with running := true, active := some (10, 0, 0) }
    pnl := { panelReset with interrupted := some (0, 0) } }

/-- Behind a register with a higher address T100 does not show. -/
theorem hiddenT100_heldOff : (hiddenT100.atTime 0).heldOff 10 = false := by decide +kernel

/-- The write of CYC drops the entry of PWR_DOM, T100 shows, and PD10 stays off, with its row still interrupted. -/
theorem hiddenT100_domainBack :
    ∃ u, exec (.domainBack true 0) hiddenT100 = .next u ∧ u.pnl.interrupted = some (0, 0) :=
  ⟨_, rfl, by decide +kernel⟩

/-- Refutes O45: DOMAIN_BACK of PD10 fails it. The clause does not ask that the registers stand in canonical form, and
from hiddenT100, where T100 does not show, the command does not restore the domain. In canonical form this cannot happen
(State.heldOff_setCycling). -/
theorem not_islandFaultsAndDomainCycles : ¬ Obligations.IslandFaultsAndDomainCycles := by
  unfold Obligations.IslandFaultsAndDomainCycles Clauses.DomainCycles
  rintro ⟨-, cycles⟩
  obtain ⟨-, back, -⟩ := cycles hiddenT100 10 0 [] 0 0 rfl
  obtain ⟨u, w, runs, restored, -⟩ := back true rfl (fun _ => rfl) hiddenT100_heldOff
  obtain ⟨u', runs', interrupted⟩ := hiddenT100_domainBack
  have same : u' = u := Host.Outcome.next.inj (runs'.symm.trans runs)
  rw [same, restored] at interrupted
  exact absurd ((State.backGlasshouse_interrupted _).symm.trans interrupted) (by decide)

end Sys2Proof.Proofs
end

section
/-! SUPPORT. More laws of sparse tables, and the bits of a number that is set, gathered or cut bit by bit. -/

namespace Sys2Proof.Machine

/-! ### Tables -/

section
variable {α : Type} [DecidableEq α] {d : Nat → α} {k : Nat} {v w : α} {m : List (Nat × α)} {lo : Option Nat}

/-- Below its keys a canonical table takes an entry at its front. -/
theorem tabSet_below (h : tabWfFrom d (some k) m = true) : tabSet d m k v = if v = d k then m else (k, v) :: m := by
  cases m with
  | nil => rfl
  | cons e m =>
    obtain ⟨k', v'⟩ := e
    simp only [tabSet, if_pos ((tabWfFrom_cons.1 h).1 k rfl)]

/-- Of two writes of one key the second stays. -/
theorem tabSet_tabSet_same (h : tabWfFrom d lo m = true) : tabSet d (tabSet d m k v) k w = tabSet d m k w := by
  induction m generalizing lo with
  | nil => by_cases e : v = d k <;> simp [tabSet, e]
  | cons e m ih =>
    obtain ⟨k', v'⟩ := e
    obtain ⟨-, -, above⟩ := tabWfFrom_cons.1 h
    rcases Nat.lt_trichotomy k k' with below | same | after
    · by_cases e : v = d k <;> simp [tabSet, e, below]
    · subst same
      by_cases e : v = d k <;> simp [tabSet, e, tabSet_below above]
    · have low : ¬ k < k' := by omega
      have other : k ≠ k' := by omega
      simp [tabSet, low, other, ih above]

end

/-- A write leaves an entry that another key has, in a table of any form. -/
theorem tabGet_tabSet_of_listed {α : Type} [DecidableEq α] {d : Nat → α} {m : List (Nat × α)} {j k : Nat} {v : α}
    (other : j ≠ k) (listed : tabGet d m j ≠ d j) : tabGet d (tabSet d m k v) j = tabGet d m j := by
  induction m with
  | nil => exact absurd rfl listed
  | cons e m ih =>
    obtain ⟨k', v'⟩ := e
    by_cases here : j = k'
    · subst here
      simp only [tabSet]
      split
      · split
        · rfl
        · simp [tabGet, other, Nat.not_lt.2 (Nat.le_of_lt ‹k < j›)]
      · rw [if_neg (Ne.symm other)]
        simp [tabGet]
    · have above : ¬ j < k' := fun below => listed (by simp [tabGet, here, below])
      have tail : tabGet d ((k', v') :: m) j = tabGet d m j := by simp [tabGet, here, above]
      rw [tail] at listed ⊢
      simp only [tabSet]
      split
      · have later : ¬ j < k := by omega
        split <;> simp [tabGet, here, above, other, later]
      · split
        · have later : ¬ j < k := by omega
          split <;> simp [tabGet, other, later]
        · simpa [tabGet, here, above] using ih listed

/-! ### Bits -/

theorem fldOf_lt (f : Fld) (w : Word) : fldOf f w < 2 ^ f.width := Nat.mod_lt _ (Nat.two_pow_pos _)

theorem bne_zero_eq_decide (k : Nat) : (k != 0) = decide (k ≠ 0) :=
  Bool.eq_iff_iff.2 (bne_iff_ne.trans decide_eq_true_iff.symm)

/-- The bits of a difference of this form: those of the first number that the second does not share. -/
theorem testBit_sub_and (x y k : Nat) : (x - (x &&& y)).testBit k = (x.testBit k && !(y.testBit k)) := by
  induction k generalizing x y with
  | zero =>
    have common : (x &&& y) % 2 = 1 ↔ x % 2 = 1 ∧ y % 2 = 1 := Nat.and_mod_two_eq_one
    have below : x &&& y ≤ x := Nat.and_le_left
    rw [Nat.testBit_zero, Nat.testBit_zero, Nat.testBit_zero, ← decide_not, ← Bool.decide_and]
    exact decide_eq_decide.2 (by omega)
  | succ k ih =>
    have common : (x &&& y) % 2 = 1 ↔ x % 2 = 1 ∧ y % 2 = 1 := Nat.and_mod_two_eq_one
    have below : x &&& y ≤ x := Nat.and_le_left
    have halves : (x - (x &&& y)) / 2 = x / 2 - (x / 2 &&& y / 2) := by
      rw [← Nat.and_div_two]
      omega
    rw [Nat.testBit_succ, halves, ih, ← Nat.testBit_succ, ← Nat.testBit_succ]

/-- The bit just set reads what it was set to. -/
theorem testBit_setBitN_same (n k : Nat) (b : Bool) : (setBitN n k b).testBit k = b := by
  cases b with
  | true => simp [setBitN, Nat.testBit_or]
  | false =>
    by_cases set : n.testBit k = true
    · have alone : n &&& 2 ^ k = 2 ^ k := by rw [Nat.and_two_pow, set, Bool.toNat_true, Nat.one_mul]
      have bits := testBit_sub_and n (2 ^ k) k
      rw [alone] at bits
      simp [setBitN, set, bits]
    · simp [setBitN, set]

theorem setBitN_lt_512 {n k : Nat} (b : Bool) (hn : n < 512) (hk : k < 9) : setBitN n k b < 512 := by
  have small : 2 ^ k < 2 ^ 9 := Nat.pow_lt_pow_right (by decide) hk
  unfold setBitN
  split
  · exact Nat.or_lt_two_pow (n := 9) hn small
  · split
    · exact Nat.lt_of_le_of_lt (Nat.sub_le n _) hn
    · exact hn

/-- Bits gathered over a list: bit `k` is set where it was set, or where an element that is not passed over names it. -/
theorem testBit_foldl_mark {α : Type} (place : α → Nat) (skips : α → Bool) (l : List α) (m k : Nat) :
    (l.foldl (fun m e => if skips e then m else m ||| 2 ^ place e) m).testBit k =
      (m.testBit k || l.any (fun e => !skips e && place e == k)) := by
  induction l generalizing m with
  | nil => simp
  | cons e l ih =>
    rw [List.foldl_cons, ih, List.any_cons]
    cases skips e with
    | true => simp
    | false => simp [Nat.testBit_or, Nat.testBit_two_pow, Bool.or_assoc, BEq.beq]

end Sys2Proof.Machine
end

section
/-! SUPPORT. The rules of the loop switches, the bridge supplies and the clamps, and of the live and latched bits of a
channel (R39-R45, R48, R49, R52, R53). -/

namespace Sys2Proof.Machine

/-! ### Shedding loops (R44) -/

/-- The current of the loops of the channels `l`, where `ma` gives each channel's in mA. -/
def totalOf (ma : List Nat) (l : List Nat) : Nat := (l.map (fun n => ma.getD n 0)).sum

theorem totalOf_cons (ma : List Nat) (n : Nat) (l : List Nat) : totalOf ma (n :: l) = ma.getD n 0 + totalOf ma l := by
  simp [totalOf]

/-- Shedding the closed switches `l` opens the first `k` of them: no fewer bring the total to 1.9 A. -/
theorem State.shedLoops_eq (ma l : List Nat) (s : State) :
    ∃ k, k ≤ l.length ∧ totalOf ma (l.drop k) ≤ 1900 ∧ (∀ j, j < k → 1900 < totalOf ma (l.drop j)) ∧
      s.shedLoops ma l (totalOf ma l) =
        ((l.take k).foldl (fun u n => u.holdLoop n) s).setFld R.AFE_LOOP F.AFE_LOOP_ILOOP (totalOf ma (l.drop k)) := by
  induction l generalizing s with
  | nil => exact ⟨0, Nat.le_refl 0, Nat.zero_le _, fun j h => absurd h (Nat.not_lt_zero j), rfl⟩
  | cons n l ih =>
    by_cases low : totalOf ma (n :: l) ≤ 1900
    · refine ⟨0, Nat.zero_le _, low, fun j h => absurd h (Nat.not_lt_zero j), ?_⟩
      simp only [State.shedLoops, if_pos low, List.take_zero, List.foldl_nil, List.drop_zero]
    · obtain ⟨k, fits, enough, fewest, shed⟩ := ih (s.holdLoop n)
      have left : totalOf ma (n :: l) - ma.getD n 0 = totalOf ma l := by rw [totalOf_cons]; omega
      refine ⟨k + 1, Nat.succ_le_succ fits, enough, fun j below => ?_, ?_⟩
      · cases j with
        | zero => exact Nat.lt_of_not_le low
        | succ j => exact fewest j (Nat.lt_of_succ_lt_succ below)
      · simp only [State.shedLoops, if_neg low, left, shed, List.take_succ_cons, List.foldl_cons, List.drop_succ_cons]

theorem exec_vloopOvercurrent {s : State} {ma : List Nat} {t : Time} (on : (s.atTime t).afeOn = true)
    (excess : 2000 < totalOf ma ((List.range 128).filter (s.atTime t).loopOn).reverse) :
    exec (.vloopOvercurrent ma t) s =
      .next ((s.atTime t).shedLoops ma ((List.range 128).filter (s.atTime t).loopOn).reverse
        (totalOf ma ((List.range 128).filter (s.atTime t).loopOn).reverse)) := by
  change execVloopOvercurrent ma t s = _
  unfold execVloopOvercurrent
  dsimp only
  rw [if_pos]
  · rfl
  · rw [on, Bool.true_and]
    exact decide_eq_true excess

/-! ### Loop switches and the loop supply (R43, R45, R48) -/

theorem exec_loopSwitchStartClose {s : State} {n : Fin 128} {t : Time} (on : (s.atTime t).afeOn = true)
    (loop : (s.atTime t).isLoop2 n = true) (opened : (s.atTime t).loopOn n = false)
    (never : ((s.atTime t).chan n).closedAt = none)
    (lowest : ∀ m, m < n.val → (s.atTime t).isLoop2 m = true →
      (s.atTime t).loopOn m = true ∨ ((s.atTime t).chan m).closedAt ≠ none) :
    exec (.loopSwitchStartClose t) s = .next ((s.atTime t).closeLoop n) := by
  have next : (List.range 128).find? (fun m => (s.atTime t).isLoop2 m && !((s.atTime t).loopOn m) &&
      ((s.atTime t).chan m).closedAt.isNone) = some n.val := by
    rw [List.find?_range_eq_some]
    refine ⟨by simp [loop, opened, never], List.mem_range.2 n.isLt, fun m below => ?_⟩
    cases loopM : (s.atTime t).isLoop2 m with
    | false => rfl
    | true =>
      rcases lowest m below loopM with closed | closing
      · simp [closed]
      · cases h : ((s.atTime t).chan m).closedAt with
        | none => exact absurd h closing
        | some o => simp
  change execLoopSwitchStartClose t s = _
  simp only [execLoopSwitchStartClose, next, on, if_true]

theorem exec_loopSwitchLimit {s : State} {n : Fin 128} {t : Time} (on : (s.atTime t).afeOn = true)
    (loop : (s.atTime t).isLoop2 n = true) (closed : (s.atTime t).loopOn n = true)
    (quiet : ((s.atTime t).chan n).retry = false) :
    exec (.loopSwitchLimit n t) s = .next ((s.atTime t).holdLoop n) := by
  change execLoopSwitchLimit n t s = _
  simp [execLoopSwitchLimit, on, loop, closed, quiet]

theorem exec_loopRetry {s : State} {n : Fin 128} {t o : Time} (on : (s.atTime t).afeOn = true)
    (held : (s.atTime t).loopHeld n = true) (opened : ((s.atTime t).chan n).openedAt = some o)
    (due : o + 5 * sec ≤ (s.atTime t).now) :
    exec (.loopRetry n t) s = .next (((s.atTime t).closeLoop n).setChan n
      { ((s.atTime t).closeLoop n).chan n with retry := true }) := by
  change execLoopRetry n t s = _
  simp only [execLoopRetry, on, held, opened, due, decide_true, Bool.and_self, if_true]

theorem exec_loopRetryEnd {s : State} {n : Fin 128} {b : Bool} {t o : Time} (on : (s.atTime t).afeOn = true)
    (retry : ((s.atTime t).chan n).retry = true) (closed : ((s.atTime t).chan n).closedAt = some o)
    (due : o + 100 * ms ≤ (s.atTime t).now) :
    exec (.loopRetryEnd n b t) s = .next (if b then (s.atTime t).holdLoop n
      else ((s.atTime t).setChan n { (s.atTime t).chan n with retry := false }).setLiveBit n bitLooplim false) := by
  change execLoopRetryEnd n b t s = _
  simp only [execLoopRetryEnd, on, retry, closed, due, decide_true, Bool.and_self, if_true]

/-- The loop supply of channel `n` is low: SUPLOW, and OPEN no longer reported (R45). -/
def State.lowSupply (s : State) (n : Nat) : State :=
  let u := s.setChan n { s.chan n with smpOpen := false }
  (u.setLive n (setBitN (setBitN (u.liveBits n) bitOpen false) bitSuplow true) none).tapMoved n

theorem exec_vloopLow {s : State} {v : BitVec 16} {i : BitVec 12} (on : s.afeOn = true) :
    exec (.vloopLow v i) s = .next (
      let u := (s.putVloop v.toNat i.toNat).setFlag R.AFE_LOOP F.AFE_LOOP_VLOW true
      let u := if s.flag R.AFE_LOOP F.AFE_LOOP_VLOW then u else u.raise 0x15 0 (v.toNat + 2 ^ 16 * i.toNat)
      foldS State.lowSupply u u.loop2Chans) := by
  change execVloopLow v i s = _
  simp only [execVloopLow, on, Bool.not_true, Bool.false_eq_true, if_false]
  rfl

theorem exec_vloopRecover {s : State} {v : BitVec 16} {i : BitVec 12} (on : s.afeOn = true) :
    exec (.vloopRecover v i) s = .next (
      let u := (s.putVloop v.toNat i.toNat).setFlag R.AFE_LOOP F.AFE_LOOP_VLOW false
      foldS (fun u n => (u.setLiveBit n bitSuplow false).tapMoved n) u u.loop2Chans) := by
  change execVloopRecover v i s = _
  simp only [execVloopRecover, on, Bool.not_true, Bool.false_eq_true, if_false]

/-! ### Bridge supplies and clamps (R39, R40, R49) -/

theorem exec_bridgeSupplyLimit {s : State} {b : Fin 9} (on : s.afeOn = true)
    (fresh : s.flag (R.AFE_BKBX b) F.AFE_BKBX_BXLIM = false) :
    exec (.bridgeSupplyLimit b) s = .next ((s.setBxlim b true).raise 0x14 b 0) := by
  change execBridgeSupplyLimit b s = _
  simp [execBridgeSupplyLimit, on, fresh]

theorem exec_bridgeSupplyLimitEnd {s : State} {b : Fin 9} (on : s.afeOn = true) :
    exec (.bridgeSupplyLimitEnd b) s = .next (s.setBxlim b false) := by
  change execBridgeSupplyLimitEnd b s = _
  simp [execBridgeSupplyLimitEnd, on]

theorem exec_clampConduct {s : State} {n : Fin 132} {t : Time} (on : (s.atTime t).afeOn = true) :
    exec (.clampConduct n t) s = .next (((s.atTime t).setLiveBit n bitClamp true).tapMoved n) := by
  change execClampConduct n t s = _
  simp [execClampConduct, on]

theorem exec_clampClear {s : State} {n : Fin 132} {t : Time} (on : (s.atTime t).afeOn = true)
    (clamp : ((s.atTime t).liveBits n).testBit bitClamp = true) :
    exec (.clampClear n t) s = .next ((((s.atTime t).setLiveBit n bitClamp false).setChan n
      { (s.atTime t).chan n with clampEnd := some (s.atTime t).now }).tapMoved n) := by
  change execClampClear n t s = _
  simp [execClampClear, on, clamp]

/-! ### Live and latched bits (R52, R53) -/

/-- The event of a latched bit of channel `n` that sets (R53). -/
def State.noteSensor (n data : Nat) (s : State) (k : Nat) : State :=
  match sensorEvent k with
  | some code => s.raise code n data
  | none => s

/-- The bits that set in LATCH with the live bits `live`. -/
def State.newBits (s : State) (n live : Nat) : List Nat :=
  (onesOf 9 live).filter (fun k => !((s.fld (R.AFE_CHSTAT n) F.AFE_CHSTAT_LATCH).testBit k))

/-- The status of channel `n` with the live bits `live`: LATCH keeps what it held. -/
def State.latchLive (s : State) (n live : Nat) : State :=
  (s.setFld (R.AFE_CHSTAT n) F.AFE_CHSTAT_LIVE live).setFld (R.AFE_CHSTAT n) F.AFE_CHSTAT_LATCH
    (s.fld (R.AFE_CHSTAT n) F.AFE_CHSTAT_LATCH ||| live)

theorem State.setLive_eq (s : State) (n live : Nat) (reading : Option Int) :
    s.setLive n live reading =
      foldS (State.noteSensor n (faultData live reading)) ((s.latchLive n live).putFaultSum n) (s.newBits n live) := rfl

/-- The events change the triggers only. -/
theorem State.foldS_noteSensor (n data : Nat) (s : State) (l : List Nat) :
    ∃ x, foldS (State.noteSensor n data) s l = s.setMor x := by
  induction l generalizing s with
  | nil => exact ⟨s.mor, rfl⟩
  | cons k l ih =>
    obtain ⟨x, e⟩ := ih (State.noteSensor n data s k)
    refine ⟨x, e.trans ?_⟩
    unfold State.noteSensor
    split <;> rfl

/-- New live bits of a channel change registers and triggers only. -/
theorem State.setLive_frame (s : State) (n live : Nat) (reading : Option Int) :
    ∃ x, s.setLive n live reading = ((s.latchLive n live).putFaultSum n).setMor x :=
  State.foldS_noteSensor n (faultData live reading) ((s.latchLive n live).putFaultSum n) (s.newBits n live)

theorem State.setLive_chans (s : State) (n live : Nat) (reading : Option Int) :
    (s.setLive n live reading).chans = s.chans := by
  obtain ⟨x, e⟩ := s.setLive_frame n live reading
  rw [e]; rfl

theorem State.setLive_seqs (s : State) (n live : Nat) (reading : Option Int) :
    (s.setLive n live reading).seqs = s.seqs := by
  obtain ⟨x, e⟩ := s.setLive_frame n live reading
  rw [e]; rfl

theorem State.setLive_now (s : State) (n live : Nat) (reading : Option Int) :
    (s.setLive n live reading).now = s.now := by
  obtain ⟨x, e⟩ := s.setLive_frame n live reading
  rw [e]; rfl

theorem State.chan_setLive (s : State) (n live : Nat) (reading : Option Int) (m : Nat) :
    (s.setLive n live reading).chan m = s.chan m :=
  congrArg (fun c => tabGet (dflt chanReset) c m) (s.setLive_chans n live reading)

theorem State.seq_setLive (s : State) (n live : Nat) (reading : Option Int) (q : Nat) :
    (s.setLive n live reading).seq q = s.seq q :=
  congrArg (fun l => tabGet (dflt seqReset) l q) (s.setLive_seqs n live reading)

theorem State.rd_setLive (s : State) (n live : Nat) (reading : Option Int) (a : Nat) :
    (s.setLive n live reading).rd a = ((s.latchLive n live).putFaultSum n).rd a := by
  obtain ⟨x, e⟩ := s.setLive_frame n live reading
  rw [e]; rfl

/-- The status registers of the channels end below the summary of their latched bits. -/
theorem chstat_ne_faultsum {n : Nat} (h : n < 132) (m : Nat) : R.AFE_CHSTAT n ≠ R.AFE_FAULTSUM 0 + 4 * m := by
  simp only [R.AFE_CHSTAT, R.AFE_FAULTSUM]
  omega

theorem State.latch_or_lt (s : State) (n : Nat) {live : Nat} (bits : live < 512) :
    s.fld (R.AFE_CHSTAT n) F.AFE_CHSTAT_LATCH ||| live < 512 :=
  Nat.or_lt_two_pow (n := 9) (fldOf_lt F.AFE_CHSTAT_LATCH _) bits

theorem State.liveBits_lt (s : State) (n : Nat) : s.liveBits n < 512 := fldOf_lt F.AFE_CHSTAT_LIVE _

/-- A flag of an array reads what was set. -/
theorem State.abit_setAbit_same {s : State} {a n : Nat} {b : Bool} (sound : s.sound = true) :
    (s.setAbit a n b).abit a n = b := by
  unfold State.abit State.setAbit
  rw [State.rd_wr_same sound, putBit, putFld_getLsbD _ _ _ _ (Nat.mod_lt n (by decide)), if_pos (by simp)]
  cases b <;> simp

section
variable {s : State} {n live : Nat} {reading : Option Int} (sound : s.sound = true) (chan : n < 132) (bits : live < 512)
include sound

theorem State.setLiveField_sound : (s.setFld (R.AFE_CHSTAT n) F.AFE_CHSTAT_LIVE live).sound = true :=
  (State.setFld_keeps (.refl s)).sound sound

theorem State.latchLive_sound : (s.latchLive n live).sound = true :=
  (State.setFld_keeps (.refl _)).sound (State.setLiveField_sound sound)

include bits in
theorem State.latch_latchLive : (s.latchLive n live).fld (R.AFE_CHSTAT n) F.AFE_CHSTAT_LATCH =
    s.fld (R.AFE_CHSTAT n) F.AFE_CHSTAT_LATCH ||| live :=
  (State.fld_setFld_same (State.setLiveField_sound sound) (by decide)).trans (Nat.mod_eq_of_lt (s.latch_or_lt n bits))

include bits in
theorem State.liveBits_latchLive : (s.latchLive n live).liveBits n = live :=
  (State.fld_setFld_ne (State.setLiveField_sound sound) (by decide) (by decide)).trans
    ((State.fld_setFld_same sound (by decide)).trans (Nat.mod_eq_of_lt bits))

/-- New live bits of channel `n` leave the registers but its status and the summary. -/
theorem State.rd_setLive_of_ne {a : Nat} (status : a ≠ R.AFE_CHSTAT n) (sum : a ≠ R.AFE_FAULTSUM 0 + 4 * (n / 32)) :
    (s.setLive n live reading).rd a = s.rd a :=
  calc (s.setLive n live reading).rd a
    _ = ((s.latchLive n live).putFaultSum n).rd a := State.rd_setLive s n live reading a
    _ = (s.latchLive n live).rd a := State.rd_wr_ne (State.latchLive_sound sound) sum
    _ = (s.setFld (R.AFE_CHSTAT n) F.AFE_CHSTAT_LIVE live).rd a :=
      State.rd_setFld_ne (State.setLiveField_sound sound) status
    _ = s.rd a := State.rd_setFld_ne sound status

include chan

theorem State.fld_setLive_status (f : Fld) :
    (s.setLive n live reading).fld (R.AFE_CHSTAT n) f = (s.latchLive n live).fld (R.AFE_CHSTAT n) f :=
  congrArg (fldOf f) ((State.rd_setLive s n live reading _).trans
    (State.rd_wr_ne (State.latchLive_sound sound) (chstat_ne_faultsum chan _)))

include bits

theorem State.liveBits_setLive : (s.setLive n live reading).liveBits n = live :=
  (State.fld_setLive_status sound chan _).trans (State.liveBits_latchLive sound bits)

theorem State.latch_setLive : (s.setLive n live reading).fld (R.AFE_CHSTAT n) F.AFE_CHSTAT_LATCH =
    s.fld (R.AFE_CHSTAT n) F.AFE_CHSTAT_LATCH ||| live :=
  (State.fld_setLive_status sound chan _).trans (State.latch_latchLive sound bits)

omit chan in
/-- AFE_FAULTSUM shows whether the channel has a latched bit. -/
theorem State.faultSum_setLive : (s.setLive n live reading).abit (R.AFE_FAULTSUM 0) n =
    decide (s.fld (R.AFE_CHSTAT n) F.AFE_CHSTAT_LATCH ||| live ≠ 0) := by
  have shown : (s.setLive n live reading).abit (R.AFE_FAULTSUM 0) n =
      ((s.latchLive n live).putFaultSum n).abit (R.AFE_FAULTSUM 0) n :=
    congrArg (fun w : Word => w.getLsbD (n % 32)) (State.rd_setLive s n live reading _)
  rw [shown, State.putFaultSum, State.abit_setAbit_same (State.latchLive_sound sound), State.latch_latchLive sound bits]
  exact bne_zero_eq_decide _

end

end Sys2Proof.Machine
end

section
/-! SUPPORT. The rules of a sequencer's program counter, record and settle stamp, of a channel's configuration and of the
current sources (R35, R55, R92, R96, R98, R107): what each operation puts in place, and what it leaves. -/

namespace Sys2Proof.Machine

/-! ### Records (tables read after a write) -/

theorem State.seq_setSeq_same {s : State} {q : Nat} {x : SeqSt} (sound : s.sound = true) : (s.setSeq q x).seq q = x :=
  tabGet_tabSet_same (State.sound.seqs sound)

theorem State.seq_setSeq_ne {s : State} {q p : Nat} {x : SeqSt} (sound : s.sound = true) (other : p ≠ q) :
    (s.setSeq q x).seq p = s.seq p := tabGet_tabSet_ne (State.sound.seqs sound) other

theorem State.setSeq_setSeq {s : State} {q : Nat} {x y : SeqSt} (sound : s.sound = true) :
    (s.setSeq q x).setSeq q y = s.setSeq q y :=
  congrArg (fun l => { s with seqs := l }) (tabSet_tabSet_same (State.sound.seqs sound))

theorem State.bank_setBank_same {s : State} {b : Nat} {x : BankSt} (sound : s.sound = true) : (s.setBank b x).bank b = x :=
  tabGet_tabSet_same (State.sound.banks sound)

theorem State.chan_setChan_same {s : State} {n : Nat} {x : ChanSt} (sound : s.sound = true) : (s.setChan n x).chan n = x :=
  tabGet_tabSet_same (State.sound.chans sound)

theorem State.chan_setChan_ne {s : State} {n m : Nat} {x : ChanSt} (sound : s.sound = true) (other : m ≠ n) :
    (s.setChan n x).chan m = s.chan m := tabGet_tabSet_ne (State.sound.chans sound) other

/-! ### The program counter (R92) -/

theorem State.seqPc_seqNext {s : State} {q : Nat} (sound : s.sound = true) :
    (s.seqNext q).seqPc q = (s.seqPc q + 1) % 512 := State.fld_setFld_same sound (by decide)

theorem State.seq_seqNext (s : State) (q p : Nat) : (s.seqNext q).seq p = s.seq p := rfl

/-- Going on leaves the fields of SEQ_PC beside PC. -/
theorem State.fld_seqNext {s : State} {q : Nat} {f : Fld} (sound : s.sound = true) (inside : f.lo + f.width ≤ 32)
    (above : 9 ≤ f.lo) : (s.seqNext q).fld (R.SEQ_PC q) f = s.fld (R.SEQ_PC q) f :=
  State.fld_setFld_ne sound inside (Or.inr above)

theorem State.seqHalf_seqNext {s : State} {q : Nat} (sound : s.sound = true) : (s.seqNext q).seqHalf q = s.seqHalf q :=
  congrArg (· != 0) (State.fld_seqNext (f := F.SEQ_PC_HALF) sound (by decide) (by decide))

theorem State.setSeq_sound {s : State} {q : Nat} {x : SeqSt} (sound : s.sound = true) : (s.setSeq q x).sound = true :=
  (State.setSeq_keeps (.refl s)).sound sound

theorem State.seqWait_sound {s : State} {q : Nat} {w : SWait} (sound : s.sound = true) : (s.seqWait q w).sound = true :=
  (State.seqWait_keeps (.refl s)).sound sound

theorem State.fld_seqWait {s : State} {q : Nat} {w : SWait} {f : Fld} (sound : s.sound = true)
    (inside : f.lo + f.width ≤ 32) (apart : f.lo + f.width ≤ 12 ∨ 15 ≤ f.lo) :
    (s.seqWait q w).fld (R.SEQ_PC q) f = s.fld (R.SEQ_PC q) f :=
  State.fld_setFld_ne (State.setSeq_sound sound) inside apart

theorem State.seqPc_seqResume {s : State} {q : Nat} (sound : s.sound = true) :
    (s.seqResume q).seqPc q = (s.seqPc q + 1) % 512 := by
  have pc : (s.seqWait q .none).seqPc q = s.seqPc q := State.fld_seqWait (f := F.SEQ_PC_PC) sound (by decide) (by decide)
  rw [State.seqResume, State.seqPc_seqNext (State.seqWait_sound sound), pc]

theorem State.fld_seqResume {s : State} {q : Nat} {f : Fld} (sound : s.sound = true) (inside : f.lo + f.width ≤ 32)
    (above : 15 ≤ f.lo) : (s.seqResume q).fld (R.SEQ_PC q) f = s.fld (R.SEQ_PC q) f :=
  (State.fld_seqNext (State.seqWait_sound sound) inside (by omega)).trans (State.fld_seqWait sound inside (Or.inr above))

theorem State.seqHalf_seqResume {s : State} {q : Nat} (sound : s.sound = true) :
    (s.seqResume q).seqHalf q = s.seqHalf q :=
  congrArg (· != 0) (State.fld_seqResume (f := F.SEQ_PC_HALF) sound (by decide) (by decide))

theorem State.seq_seqResume {s : State} {q : Nat} (sound : s.sound = true) :
    (s.seqResume q).seq q = { s.seq q with wait := .none } := State.seq_setSeq_same sound

/-! ### The settle stamp (R107) -/

theorem State.seq_putStamp {s : State} {q : Nat} {t d : Time} (sound : s.sound = true) :
    (s.putStamp q t d).seq q = { s.seq q with stamp := t, settledAt := d } := State.seq_setSeq_same sound

theorem State.rd_putStamp_ne {s : State} {q a : Nat} {t d : Time} (sound : s.sound = true) (stamp : a ≠ R.SEQ_STAMP q)
    (settled : a ≠ R.SEQ_SETTLED q) : (s.putStamp q t d).rd a = s.rd a := by
  have first := State.setSeq_sound (q := q) (x := { s.seq q with stamp := t, settledAt := d }) sound
  exact (State.rd_wr_ne ((State.wr_keeps (.refl _)).sound first) settled).trans (State.rd_wr_ne first stamp)

theorem State.rd_SEQ_PC_putStamp {s : State} {q : Nat} {t d : Time} (sound : s.sound = true) :
    (s.putStamp q t d).rd (R.SEQ_PC q) = s.rd (R.SEQ_PC q) :=
  State.rd_putStamp_ne sound (by simp only [R.SEQ_PC, R.SEQ_STAMP]; omega) (by simp only [R.SEQ_PC, R.SEQ_SETTLED]; omega)

theorem State.seq_moveStamp {s : State} {q d : Nat} (sound : s.sound = true) :
    (s.moveStamp q d).seq q = { s.seq q with stamp := s.now, settledAt := max (s.seq q).settledAt (s.now + d) } :=
  State.seq_putStamp sound

theorem State.rd_SEQ_PC_moveStamp {s : State} {q d : Nat} (sound : s.sound = true) :
    (s.moveStamp q d).rd (R.SEQ_PC q) = s.rd (R.SEQ_PC q) := State.rd_SEQ_PC_putStamp sound

/-! ### What the front end leaves to the sequencers -/

/-- The registers of the front end stand in one block of addresses (R417). -/
def inAfe (a : Nat) : Prop := blockNo a = 0x4004

/-- `t` has the clock and the configurations in force of `s`, the records of the sequencers but for the sources in use, and
the registers outside the front end. -/
structure State.TunesAfe (s t : State) : Prop where
  keeps : Keeps s t
  now : t.now = s.now
  seq : s.sound = true → ∀ q, t.seq q = { s.seq q with src := (t.seq q).src }
  cfg : s.sound = true → ∀ m, (t.chan m).cfg = (s.chan m).cfg
  rng : s.sound = true → ∀ m, (t.chan m).rng = (s.chan m).rng
  regs : s.sound = true → s.sameRegs t inAfe

namespace State.TunesAfe

theorem refl (s : State) : s.TunesAfe s :=
  ⟨.refl s, rfl, fun _ _ => rfl, fun _ _ => rfl, fun _ _ => rfl, fun _ _ _ => rfl⟩

theorem trans {s t u : State} (h : s.TunesAfe t) (g : t.TunesAfe u) : s.TunesAfe u where
  keeps := h.keeps.trans g.keeps
  now := g.now.trans h.now
  seq sound q := by rw [g.seq (h.keeps.sound sound) q, h.seq sound q]
  cfg sound m := (g.cfg (h.keeps.sound sound) m).trans (h.cfg sound m)
  rng sound m := (g.rng (h.keeps.sound sound) m).trans (h.rng sound m)
  regs sound a out := (g.regs (h.keeps.sound sound) a out).trans (h.regs sound a out)

theorem sound {s t : State} (h : s.TunesAfe t) (sound : s.sound = true) : t.sound = true := h.keeps.sound sound

theorem wr {s : State} {a : Nat} {v : Word} (inside : inAfe a) : s.TunesAfe (s.wr a v) :=
  ⟨State.wr_keeps (.refl s), rfl, fun _ _ => rfl, fun _ _ => rfl, fun _ _ => rfl,
    fun sound _ out => State.rd_wr_ne sound fun e => out (e ▸ inside)⟩

theorem setChan {s : State} {n : Nat} {x : ChanSt} (cfg : x.cfg = (s.chan n).cfg) (rng : x.rng = (s.chan n).rng) :
    s.TunesAfe (s.setChan n x) where
  keeps := State.setChan_keeps (.refl s)
  now := rfl
  seq _ _ := rfl
  cfg sound m := by
    by_cases e : m = n
    · rw [e, State.chan_setChan_same sound, cfg]
    · rw [State.chan_setChan_ne sound e]
  rng sound m := by
    by_cases e : m = n
    · rw [e, State.chan_setChan_same sound, rng]
    · rw [State.chan_setChan_ne sound e]
  regs _ _ _ := rfl

theorem setBank (s : State) (b : Nat) (x : BankSt) : s.TunesAfe (s.setBank b x) :=
  ⟨State.setBank_keeps (.refl s), rfl, fun _ _ => rfl, fun _ _ => rfl, fun _ _ => rfl, fun _ _ _ => rfl⟩

theorem setSrc (s : State) (q : Nat) (b : Bool) : s.TunesAfe (s.setSeq q { s.seq q with src := b }) where
  keeps := State.setSeq_keeps (.refl s)
  now := rfl
  seq sound p := by
    by_cases e : p = q
    · rw [e, State.seq_setSeq_same sound]
    · rw [State.seq_setSeq_ne sound e]
  cfg _ _ := rfl
  rng _ _ := rfl
  regs _ _ _ := rfl

theorem SEQ_PC {s t : State} {q : Fin 9} (h : s.TunesAfe t) (sound : s.sound = true) :
    t.rd (R.SEQ_PC q) = s.rd (R.SEQ_PC q) :=
  h.regs sound _ (by simp only [inAfe, blockNo, R.SEQ_PC]; omega)

end State.TunesAfe

/-! ### The registers of the front end that the programs change -/

theorem inAfe_CHSTAT {n : Nat} (h : n < 132) : inAfe (R.AFE_CHSTAT n) := by simp only [inAfe, blockNo, R.AFE_CHSTAT]; omega

theorem inAfe_FAULTSUM {n : Nat} (h : n < 132) : inAfe (R.AFE_FAULTSUM 0 + 4 * (n / 32)) := by
  simp only [inAfe, blockNo, R.AFE_FAULTSUM]; omega

theorem inAfe_RNG {n : Nat} (h : n < 132) : inAfe (R.AFE_RNG n) := by simp only [inAfe, blockNo, R.AFE_RNG]; omega

theorem inAfe_BKIA (b : Fin 9) : inAfe (R.AFE_BKIA b) := by simp only [inAfe, blockNo, R.AFE_BKIA]; omega

theorem inAfe_BKIB (b : Fin 9) : inAfe (R.AFE_BKIB b) := by simp only [inAfe, blockNo, R.AFE_BKIB]; omega

/-! ### Pairs and words of a channel (R55, R62-R64, R73) -/

theorem State.showPairs_tunes {s : State} {n : Nat} (chan : n < 132) : s.TunesAfe (s.showPairs n) :=
  ((State.TunesAfe.wr (inAfe_RNG chan)).trans (.wr (inAfe_RNG chan))).trans (.wr (inAfe_RNG chan))

theorem ChanSt.setHalf_cfg (x : ChanSt) (b : Bool) (h : HalfSt) : (x.setHalf b h).cfg = x.cfg := by cases b <;> rfl

theorem ChanSt.setHalf_rng (x : ChanSt) (b : Bool) (h : HalfSt) : (x.setHalf b h).rng = x.rng := by cases b <;> rfl

theorem State.putHalf_tunes {s : State} {n : Nat} {b : Bool} {h : HalfSt} (chan : n < 132) :
    s.TunesAfe (s.putHalf n b h) :=
  (State.TunesAfe.setChan (ChanSt.setHalf_cfg ..) (ChanSt.setHalf_rng ..)).trans (State.showPairs_tunes chan)

theorem State.movePair_tunes {s : State} {n : Nat} {b : Bool} (chan : n < 132) : s.TunesAfe (s.movePair n b) := by
  unfold State.movePair
  dsimp only
  split
  · exact .refl s
  · exact (State.putHalf_tunes chan).trans (.wr (inAfe_RNG chan))

theorem State.selPairs_tunes {s : State} {n : Nat} {b : Bool} (chan : n < 132) : s.TunesAfe (s.selPairs n b) :=
  (State.movePair_tunes chan).trans (State.putHalf_tunes chan)

theorem State.enterPair_tunes {s : State} {n : Nat} {b : Bool} (chan : n < 132) : s.TunesAfe (s.enterPair n b) := by
  unfold State.enterPair
  dsimp only
  split
  · exact (State.movePair_tunes chan).trans (State.putHalf_tunes chan)
  · exact State.movePair_tunes chan

theorem State.initPairs_tunes {s : State} {n : Nat} (chan : n < 132) : s.TunesAfe (s.initPairs n) :=
  let x := s.chan n
  (State.TunesAfe.setChan (x := { x with h1 := halfInit x.rng, h2 := halfInit x.rng }) rfl rfl).trans
    (State.showPairs_tunes chan)

/-- A word goes to the live table, to Snowline's queue, and to the Rante window's list of what is new. -/
theorem State.sendWord_frame (s : State) (x : InWord) :
    ∃ l r q, s.sendWord x = { s with live := l, rwn := r, lim := q } := by
  unfold State.sendWord State.markNew
  split <;> exact ⟨_, _, _, rfl⟩

theorem State.sendWord_tunes (s : State) (x : InWord) : s.TunesAfe (s.sendWord x) := by
  have keeps : Keeps s (s.sendWord x) := State.sendWord_keeps (.refl s)
  obtain ⟨l, r, q, e⟩ := s.sendWord_frame x
  rw [e] at keeps ⊢
  exact ⟨keeps, rfl, fun _ _ => rfl, fun _ _ => rfl, fun _ _ => rfl, fun _ _ _ => rfl⟩

theorem State.dropWord_tunes (s : State) (n : Nat) : s.TunesAfe (s.dropWord n) :=
  let x := s.chan n
  (State.TunesAfe.setChan (x := { x with
    word := notScanned, h1 := { x.h1 with prevTag := none }, h2 := { x.h2 with prevTag := none } }) rfl rfl).trans
    (State.sendWord_tunes _ _)

theorem State.setLive_tunes {s : State} {n live : Nat} {reading : Option Int} (chan : n < 132) :
    s.TunesAfe (s.setLive n live reading) where
  keeps := State.setLive_keeps (.refl s)
  now := State.setLive_now s n live reading
  seq _ q := by rw [State.seq_setLive]
  cfg _ m := congrArg ChanSt.cfg (State.chan_setLive s n live reading m)
  rng _ m := congrArg ChanSt.rng (State.chan_setLive s n live reading m)
  regs sound _ out := State.rd_setLive_of_ne sound (fun e => out (e ▸ inAfe_CHSTAT chan))
    (fun e => out (e ▸ inAfe_FAULTSUM chan))

/-! ### Current sources (R35, R37) -/

theorem State.showCurrents_tunes (s : State) (b : Fin 9) : s.TunesAfe (s.showCurrents b) :=
  (State.TunesAfe.wr (inAfe_BKIA b)).trans (.wr (inAfe_BKIB b))

theorem State.setSource_tunes (s : State) (b : Fin 9) (src : Bool) (level term : Nat) :
    s.TunesAfe (s.setSource b src level term) := (State.TunesAfe.setBank s b _).trans (State.showCurrents_tunes _ b)

theorem State.takeBxv_tunes (s : State) (q : Fin 9) (home : Nat) : s.TunesAfe (s.takeBxv q home) := by
  unfold State.takeBxv
  dsimp only
  split
  · exact (State.TunesAfe.setBank s _ _).trans (.wr (by simp only [inAfe, blockNo, R.AFE_BKCFG]))
  · exact State.TunesAfe.setBank s _ _

end Sys2Proof.Machine
end

section
/-! SUPPORT. The rules of SEL, EXC and SWP (R55, R96, R98, R102, R107), stage by stage. -/

namespace Sys2Proof.Machine

/-! ### The configuration that a SEL takes (R55) -/

theorem State.retypeLoop_of_same {s : State} {n was : Nat} (same : was = 12 ↔ s.chanType n = 12) :
    s.retypeLoop n was = s := by
  have both : (was == 12) = (s.chanType n == 12) := Bool.eq_iff_iff.2 (by simpa using same)
  simp [State.retypeLoop, both]

/-- The configuration that the registers of channel `n` hold. -/
theorem State.chan_copyCfg {s : State} {n : Nat} (sound : s.sound = true) : (s.copyCfg n).chan n =
    { s.chan n with cfg := s.rd (R.AFE_CHCFG n), exc := s.rd (R.AFE_CHEXC n), lead := s.rd (R.AFE_CHLEAD n),
                    rng := s.rd (R.AFE_RNG n), crv := s.rd (R.CRV_CHCFG n), gain := s.rd (R.CRV_GAIN n),
                    offs := s.rd (R.CRV_OFFS n) } := State.chan_setChan_same sound

/-- A channel whose TYPE stays behaves as before, valid or not (R34). -/
theorem State.chanType_copyCfg {s : State} {n : Nat} (same : (s.chan n).type = ((s.copyCfg n).chan n).type) :
    (s.copyCfg n).chanType n = s.chanType n := by
  unfold State.chanType
  rw [← same]
  rfl

/-- The node clears the live bits of channel `n`, and what a sample and a check last found of it, at a change of TYPE. -/
def State.clearLive (s : State) (n : Nat) : State :=
  (s.setLive n 0 none).setChan n { (s.setLive n 0 none).chan n with smpOpen := false, chkOpen := false }

theorem State.clearLive_tunes {s : State} {n : Nat} (chan : n < 132) : s.TunesAfe (s.clearLive n) :=
  (State.setLive_tunes chan).trans (.setChan rfl rfl)

/-- With its live bits cleared, CFGERR among them, a channel behaves as its TYPE. -/
theorem State.chanType_clearLive {s : State} {n : Nat} (sound : s.sound = true) (chan : n < 132) :
    (s.clearLive n).chanType n = (s.chan n).type := by
  have sound' : (s.setLive n 0 none).sound = true := (State.setLive_keeps (.refl s)).sound sound
  have cleared : (s.clearLive n).liveBits n = 0 := State.liveBits_setLive sound chan (by decide)
  have same : ((s.clearLive n).chan n).type = (s.chan n).type := by
    rw [State.clearLive, State.chan_setChan_same sound', State.chan_setLive]
    rfl
  rw [State.chanType, cleared, same, Nat.zero_testBit]
  rfl

/-- What follows a change of TYPE or WIRE that leaves the loop switch alone. -/
theorem State.reload_tunes {s : State} {n was : Nat} (chan : n < 132) (same : was = 12 ↔ s.chanType n = 12) :
    s.TunesAfe (((s.retypeLoop n was).initPairs n).dropWord n) := by
  rw [State.retypeLoop_of_same same]
  exact (State.initPairs_tunes chan).trans (State.dropWord_tunes _ n)

/-- A SEL whose edit moves no loop switch takes the configuration and changes the front end only. -/
theorem State.takeCfg_tunes {s : State} {n : Nat} (sound : s.sound = true) (chan : n < 132)
    (same : s.chanType n = 12 ↔ s.fld (R.AFE_CHCFG n) F.AFE_CHCFG_TYPE = 12) :
    (s.copyCfg n).TunesAfe (s.takeCfg n) := by
  have sound' : (s.copyCfg n).sound = true := (State.copyCfg_keeps (.refl s)).sound sound
  have type : ((s.copyCfg n).chan n).type = s.fld (R.AFE_CHCFG n) F.AFE_CHCFG_TYPE := by
    rw [State.chan_copyCfg sound]
    rfl
  unfold State.takeCfg
  dsimp only
  split
  · exact .refl _
  · split
    · next typeStays =>
      have stays := State.chanType_copyCfg (s := s) (n := n) (by simpa using typeStays)
      exact State.reload_tunes chan (by rw [stays])
    · have changes := State.chanType_clearLive sound' chan
      exact (State.clearLive_tunes chan).trans (State.reload_tunes chan (by rw [changes, type]; exact same))

/-! ### SEL (R96, R98, R107) -/

/-- The sequencer's own part of a SEL: its record, position and half. -/
def State.selected (s : State) (q settle pos : Nat) : State :=
  ((s.setSeq q { s.seq q with
    lastSel := some s.now, settle := settle, cnv := none, cnvs := 0, refill := none, v1 := none }).setFld
    (R.SEQ_PC q) F.SEQ_PC_POS pos).setFlag (R.SEQ_PC q) F.SEQ_PC_HALF false

/-- The selection settle time (R107): SETS × 10 µs, or the channel's SETTLE. -/
def State.selSettle (s : State) (n sets : Nat) : Nat :=
  if sets = 0 then fldOf F.AFE_CHCFG_SETTLE (s.chan n).cfg * 10000 else sets * 10000

theorem State.connect_tunes (s : State) (q : Fin 9) (n : Nat) (second : Bool) : s.TunesAfe (s.connect q n second) := by
  unfold State.connect
  dsimp only
  split
  · exact (State.TunesAfe.setSrc s q _).trans (State.setSource_tunes _ q _ _ _)
  · exact State.TunesAfe.setBank s q _

/-- A SEL proceeds in three stages: the configuration, the sequencer's own part, and the front end. -/
theorem State.doSel_stages {s w : State} {q : Fin 9} {sets pos n : Nat} (chan : n < 132)
    (place : n = posChan (s.seqBank q) pos) (taken : w = (s.takeCfg n).takeBxv q (s.seqBank q)) :
    ∃ x, (w.selected q (w.selSettle n sets) pos).TunesAfe x ∧
      s.doSel q sets pos = (x.putStamp q x.now (x.now + w.selSettle n sets)).seqResume q := by
  let v := (w.selected q (w.selSettle n sets) pos).connect q n false
  have connected : (w.selected q (w.selSettle n sets) pos).TunesAfe v := State.connect_tunes _ q n false
  refine ⟨if v.scanned n then (v.selPairs n false).selPairs n true else v, ?_, ?_⟩
  · split
    · exact connected.trans ((State.selPairs_tunes chan).trans (State.selPairs_tunes chan))
    · exact connected
  · subst place taken
    rfl

section
variable {s : State} {q : Fin 9} {settle pos : Nat} (sound : s.sound = true)
include sound

theorem State.selected_sound : (s.selected q settle pos).sound = true :=
  (State.setFlag_keeps (State.setFld_keeps (State.setSeq_keeps (.refl s)))).sound sound

theorem State.seq_selected : (s.selected q settle pos).seq q =
    { s.seq q with lastSel := some s.now, settle := settle, cnv := none, cnvs := 0, refill := none, v1 := none } :=
  State.seq_setSeq_same sound

theorem State.rd_selected : (s.selected q settle pos).rd (R.SEQ_PC q) =
    putFld F.SEQ_PC_HALF (putFld F.SEQ_PC_POS (s.rd (R.SEQ_PC q)) pos) 0 := by
  have first := State.setSeq_sound (q := q) (x := { s.seq q with
    lastSel := some s.now, settle := settle, cnv := none, cnvs := 0, refill := none, v1 := none }) sound
  refine (State.rd_setFld_same ((State.setFld_keeps (.refl _)).sound first)).trans ?_
  rw [State.rd_setFld_same first]
  rfl

/-- The sequencer after a SEL: position, half, the next address, its record and the stamps. -/
theorem State.after_selected {x : State} (tuned : (s.selected q settle pos).TunesAfe x) (position : pos < 32) :
    let u := (x.putStamp q x.now (x.now + settle)).seqResume q
    u.fld (R.SEQ_PC q) F.SEQ_PC_POS = pos ∧ u.seqHalf q = false ∧ u.seqPc q = (s.seqPc q + 1) % 512 ∧
      u.seq q = { s.seq q with
        lastSel := some s.now, settle := settle, cnv := none, cnvs := 0, refill := none, v1 := none, wait := .none,
        stamp := s.now, settledAt := s.now + settle, src := (x.seq q).src } ∧
      ∀ n, (u.chan n).cfg = (s.chan n).cfg ∧ (u.chan n).rng = (s.chan n).rng := by
  dsimp only
  have sel := State.selected_sound (q := q) (settle := settle) (pos := pos) sound
  have sx : x.sound = true := tuned.sound sel
  have stamped : (x.putStamp q x.now (x.now + settle)).sound = true := (State.putStamp_keeps (.refl x)).sound sx
  have now : x.now = s.now := tuned.now
  have pc : (x.putStamp q x.now (x.now + settle)).rd (R.SEQ_PC q) =
      putFld F.SEQ_PC_HALF (putFld F.SEQ_PC_POS (s.rd (R.SEQ_PC q)) pos) 0 :=
    ((State.rd_SEQ_PC_putStamp sx).trans (tuned.SEQ_PC sel)).trans (State.rd_selected sound)
  refine ⟨?_, ?_, ?_, ?_, fun n => ⟨tuned.cfg sel n, tuned.rng sel n⟩⟩
  · rw [State.fld_seqResume stamped (by decide) (by decide), State.fld, pc, fldOf_putFld_ne (by decide) (by decide),
      fldOf_putFld_same (by decide)]
    exact Nat.mod_eq_of_lt position
  · rw [State.seqHalf_seqResume stamped, State.seqHalf, State.flag, State.fld, pc, fldOf_putFld_same (by decide)]
    rfl
  · rw [State.seqPc_seqResume stamped, State.seqPc, State.fld, pc, fldOf_putFld_ne (by decide) (by decide),
      fldOf_putFld_ne (by decide) (by decide)]
    rfl
  · rw [State.seq_seqResume stamped, State.seq_putStamp sx, tuned.seq sel q, State.seq_selected sound, now]

end

theorem State.seqReady_iff {s : State} {q : Nat} :
    s.seqReady q = true ↔ s.seqRuns q = true ∧ (s.seq q).wait = .none ∧ s.sendHeld q = false := by
  simp [State.seqReady, and_assoc]

/-- A sequencer that runs serves a bank (R91, R115). -/
theorem State.seqBank_lt_of_ready {s : State} {q : Nat} (ready : s.seqReady q = true) : s.seqBank q < 8 := by
  have runs := (State.seqReady_iff.1 ready).1
  simp only [State.seqRuns, Bool.and_eq_true, decide_eq_true_eq] at runs
  exact runs.2

/-- A position that the bank has is one of its channels (R93). -/
theorem posChan_lt {b : Nat} (bank : b < 8) (pos : Nat) : posChan b pos < 132 := by
  unfold posChan
  split <;> omega

theorem exec_sel_of_spaced {s : State} {q : Fin 9} {sets : BitVec 15} {pos : Fin 17} {t : Time}
    (ready : (s.atTime t).seqReady q = true) (spaced : (s.atTime t).selSpaced q = true)
    (stands : pos.val = 16 → (s.atTime t).seqBank q % 2 = 1) :
    exec (.sel q sets pos t) s = .next ((s.atTime t).doSel q sets.toNat pos) := by
  change execSel q sets pos t s = _
  have loaded : ¬(pos.val = 16 ∧ (s.atTime t).seqBank q % 2 = 0) := fun ⟨last, even⟩ => by
    have odd := stands last
    omega
  simp only [execSel, ready, spaced, Bool.not_true, Bool.false_eq_true, if_false, if_true, if_neg loaded]

/-! ### EXC and SWP (R98, R102, R107) -/

theorem State.level_setSource {s : State} {b level term : Nat} {src : Bool} (sound : s.sound = true) :
    (s.setSource b src level term).level b src = level := by
  have bank : (s.setSource b src level term).bank b = _ := State.bank_setBank_same sound
  cases src <;> simp [State.level, bank]

theorem State.term_setSource {s : State} {b level term : Nat} {src : Bool} (sound : s.sound = true) :
    (s.setSource b src level term).term b src = term := by
  have bank : (s.setSource b src level term).bank b = _ := State.bank_setBank_same sound
  cases src <;> simp [State.term, bank]

/-- The other source of the bank is connected to nothing. -/
theorem State.term_setSource_other {s : State} {b level term : Nat} {src : Bool} (sound : s.sound = true) :
    (s.setSource b src level term).term b (!src) = 0 := by
  have bank : (s.setSource b src level term).bank b = _ := State.bank_setBank_same sound
  cases src <;> simp [State.term, bank]

theorem State.level_congr {s t : State} (h : t.banks = s.banks) (b : Nat) (src : Bool) : t.level b src = s.level b src := by
  unfold State.level State.bank
  rw [h]

theorem State.term_congr {s t : State} (h : t.banks = s.banks) (b : Nat) (src : Bool) : t.term b src = s.term b src := by
  unfold State.term State.bank
  rw [h]

theorem State.seqHalf_setHalf {s : State} {q : Nat} {b : Bool} (sound : s.sound = true) :
    (s.setFlag (R.SEQ_PC q) F.SEQ_PC_HALF b).seqHalf q = b :=
  State.flag_setFlag_same sound (by decide) (by decide)

theorem State.seqPc_setHalf {s : State} {q : Nat} {b : Bool} (sound : s.sound = true) :
    (s.setFlag (R.SEQ_PC q) F.SEQ_PC_HALF b).seqPc q = s.seqPc q :=
  State.fld_setFld_ne sound (by decide) (by decide)

theorem State.seqNext_banks (s : State) (q : Nat) : (s.seqNext q).banks = s.banks := rfl

theorem State.moveStamp_banks (s : State) (q d : Nat) : (s.moveStamp q d).banks = s.banks := rfl

theorem State.setSeq_banks (s : State) (q : Nat) (x : SeqSt) : (s.setSeq q x).banks = s.banks := rfl

theorem State.putHalf_banks (s : State) (n : Nat) (b : Bool) (h : HalfSt) : (s.putHalf n b h).banks = s.banks := rfl

theorem State.movePair_banks (s : State) (n : Nat) (b : Bool) : (s.movePair n b).banks = s.banks := by
  unfold State.movePair
  dsimp only
  split <;> rfl

theorem State.enterPair_banks (s : State) (n : Nat) (b : Bool) : (s.enterPair n b).banks = s.banks := by
  unfold State.enterPair
  dsimp only
  split
  · exact (State.putHalf_banks _ n b _).trans (s.movePair_banks n b)
  · exact s.movePair_banks n b

/-- The source, level and terminal that an EXC asks for are in place (R98). -/
def State.excInPlace (s : State) (q : Nat) (src : Bool) (level term : Nat) : Prop :=
  (s.seq q).src = src ∧ s.level q src = level ∧ s.term q src = term

/-- The level that an EXC asks for: its own, or the one in use. -/
def State.excLevel (s : State) (q : Nat) (src : Bool) (iexc : Nat) : Nat := if iexc = 0 then s.level q src else iexc

/-- The terminal that an EXC asks for: the connection's own, one of the two, or none. -/
def State.excTerm (s : State) (q n term : Nat) : Nat :=
  if term = 0 then s.ownTerm q n else if term = 3 then 0 else term

/-- The source takes level and terminal, and the change moves the stamp. -/
def State.switchSource (s : State) (q : Nat) (src : Bool) (level term : Nat) : State :=
  let u := (s.setSeq q { s.seq q with src := src }).setSource q src level term
  u.moveStamp q (u.seq q).settle

theorem State.doExc_eq {s : State} {q n term iexc : Nat} {src : Bool} (uses : usesCurrent (s.chanType n) = true) :
    s.doExc q n src term iexc = if (s.seq q).src == src && s.level q src == s.excLevel q src iexc &&
        s.term q src == s.excTerm q n term then s
      else s.switchSource q src (s.excLevel q src iexc) (s.excTerm q n term) := by
  unfold State.doExc
  rw [uses]
  rfl

theorem State.doExc_of_in_place {s : State} {q n term iexc : Nat} {src : Bool} (uses : usesCurrent (s.chanType n) = true)
    (same : s.excInPlace q src (s.excLevel q src iexc) (s.excTerm q n term)) : s.doExc q n src term iexc = s := by
  obtain ⟨source, level, term⟩ := same
  rw [State.doExc_eq uses, if_pos (by simp [source, ← level, ← term])]

theorem State.doExc_of_change {s : State} {q n term iexc : Nat} {src : Bool} (uses : usesCurrent (s.chanType n) = true)
    (change : ¬ s.excInPlace q src (s.excLevel q src iexc) (s.excTerm q n term)) :
    s.doExc q n src term iexc = s.switchSource q src (s.excLevel q src iexc) (s.excTerm q n term) := by
  rw [State.doExc_eq uses, if_neg (by simpa [State.excInPlace, and_assoc] using change)]

section
variable {s : State} {q : Fin 9} {src : Bool} {level term : Nat} (sound : s.sound = true)
include sound

theorem State.switchSource_sound : (s.switchSource q src level term).sound = true :=
  (State.moveStamp_keeps (State.setSource_keeps (State.setSeq_keeps (.refl s)))).sound sound

theorem State.seq_switchSource : (s.switchSource q src level term).seq q = { s.seq q with
    src := src, stamp := s.now, settledAt := max (s.seq q).settledAt (s.now + (s.seq q).settle) } := by
  have same : ((s.setSeq q { s.seq q with src := src }).setSource q src level term).seq q = { s.seq q with src := src } :=
    State.seq_setSeq_same sound
  unfold State.switchSource
  dsimp only
  rw [State.seq_moveStamp ((State.setSource_keeps (State.setSeq_keeps (.refl s))).sound sound), same]
  rfl

theorem State.seqPc_switchSource : (s.switchSource q src level term).seqPc q = s.seqPc q := by
  have first : (s.setSeq q { s.seq q with src := src }).sound = true := State.setSeq_sound sound
  exact congrArg (fldOf F.SEQ_PC_PC) ((State.rd_SEQ_PC_moveStamp ((State.setSource_keeps (.refl _)).sound first)).trans
    ((State.setSource_tunes _ q src level term).SEQ_PC first))

/-- The sequencer and its bank after an EXC that changes something. -/
theorem State.after_switchSource :
    let u := (s.switchSource q src level term).seqNext q
    u.level q src = level ∧ u.term q src = term ∧ u.term q (!src) = 0 ∧ (u.seq q).src = src ∧ (u.seq q).stamp = s.now ∧
      (u.seq q).settledAt = max (s.seq q).settledAt (s.now + (s.seq q).settle) ∧ u.seqPc q = (s.seqPc q + 1) % 512 := by
  dsimp only
  have record : ((s.switchSource q src level term).seqNext q).seq q = _ :=
    (State.seq_seqNext _ q q).trans (State.seq_switchSource sound)
  have banks : ((s.switchSource q src level term).seqNext q).banks =
      ((s.setSeq q { s.seq q with src := src }).setSource q src level term).banks := by
    rw [State.seqNext_banks, State.switchSource, State.moveStamp_banks]
  refine ⟨?_, ?_, ?_, ?_, ?_, ?_, ?_⟩
  · rw [State.level_congr banks, State.level_setSource (State.setSeq_sound sound)]
  · rw [State.term_congr banks, State.term_setSource (State.setSeq_sound sound)]
  · rw [State.term_congr banks, State.term_setSource_other (State.setSeq_sound sound)]
  · rw [record]
  · rw [record]
  · rw [record]
  · rw [State.seqPc_seqNext (State.switchSource_sound sound), State.seqPc_switchSource sound]

end

theorem State.scannedChan_lt {s : State} {q n : Nat} (h : s.scannedChan q = some n) : n < 132 := by
  unfold State.scannedChan State.seqChan at h
  dsimp only at h
  split at h
  · next m place =>
    split at place
    · next inside =>
      simp only [Bool.and_eq_true, decide_eq_true_eq] at inside
      split at h
      · cases h
        cases place
        exact posChan_lt inside.2 _
      · cases h
    · cases place
  · cases h

theorem exec_exc {s : State} {q : Fin 9} {n : Nat} {src : Bool} {term : BitVec 2} {iexc : BitVec 11} {t : Time}
    (ready : (s.atTime t).seqReady q = true) (chan : (s.atTime t).scannedChan q = some n)
    (level : iexc.toNat = 0 ∨ 50 ≤ iexc.toNat ∧ iexc.toNat ≤ 2000) :
    exec (.exc q src term iexc t) s = .next (((s.atTime t).doExc q n src term.toNat iexc.toNat).seqNext q) := by
  change execExc q src term iexc t s = _
  have stands : ¬(iexc.toNat ≠ 0 ∧ (iexc.toNat < 50 ∨ 2000 < iexc.toNat)) := by omega
  simp only [execExc, ready, chan, Bool.not_true, Bool.false_eq_true, if_false, if_neg stands]

theorem exec_swp {s : State} {q : Fin 9} {n : Nat} {set2 : BitVec 16} {t : Time}
    (ready : (s.atTime t).seqReady q = true) (chan : (s.atTime t).scannedChan q = some n) :
    exec (.swp q set2 t) s = .next ((if (s.atTime t).threeWire n then (s.atTime t).doSwp q n set2.toNat
      else s.atTime t).seqNext q) := by
  change execSwp q set2 t s = _
  simp only [execSwp, ready, chan, Bool.not_true, Bool.false_eq_true, if_false]

/-- The settle time of an SWP (R107): SET2 × 10 µs into the second half, or the one in use. -/
def State.swpSettle (s : State) (q set2 : Nat) : Nat :=
  if s.seqHalf q = false ∧ set2 ≠ 0 then set2 * 10000 else (s.seq q).settle

/-- The source of sequencer `q` on the terminal of the half that an SWP enters. -/
def State.swapTerm (s : State) (q : Nat) : State :=
  (s.setFlag (R.SEQ_PC q) F.SEQ_PC_HALF (!(s.seqHalf q))).setSource q (s.seq q).src (s.level q (s.seq q).src)
    (if !(s.seqHalf q) then 2 else 1)

/-- The other half of channel `n` as an SWP enters it, before the change moves the stamp. -/
def State.swapped (s : State) (q n : Nat) : State :=
  ((s.swapTerm q).enterPair n (!(s.seqHalf q))).setSeq q { (s.swapTerm q).seq q with refill := none }

theorem State.swapped_banks (s : State) (q n : Nat) : (s.swapped q n).banks = (s.swapTerm q).banks := by
  rw [State.swapped, State.setSeq_banks, State.enterPair_banks]

section
variable {s : State} {q : Fin 9} {n : Nat} (sound : s.sound = true)
include sound

theorem State.setHalf_sound {b : Bool} : (s.setFlag (R.SEQ_PC q) F.SEQ_PC_HALF b).sound = true :=
  (State.setFlag_keeps (.refl s)).sound sound

theorem State.swapTerm_sound : (s.swapTerm q).sound = true :=
  (State.setSource_tunes _ q _ _ _).sound (State.setHalf_sound sound)

theorem State.term_swapTerm : (s.swapTerm q).term q (s.seq q).src = if s.seqHalf q then 1 else 2 := by
  rw [State.swapTerm, State.term_setSource (State.setHalf_sound sound)]
  cases s.seqHalf q <;> rfl

theorem State.rd_swapTerm : (s.swapTerm q).rd (R.SEQ_PC q) =
    (s.setFlag (R.SEQ_PC q) F.SEQ_PC_HALF (!(s.seqHalf q))).rd (R.SEQ_PC q) :=
  (State.setSource_tunes _ q _ _ _).SEQ_PC (State.setHalf_sound sound)

variable (chan : n < 132)
include chan

theorem State.swapped_sound : (s.swapped q n).sound = true :=
  State.setSeq_sound ((State.enterPair_tunes chan).sound (State.swapTerm_sound sound))

theorem State.seq_swapped : (s.swapped q n).seq q = { s.seq q with refill := none } :=
  State.seq_setSeq_same ((State.enterPair_tunes chan).sound (State.swapTerm_sound sound))

theorem State.rd_swapped : (s.swapped q n).rd (R.SEQ_PC q) =
    (s.setFlag (R.SEQ_PC q) F.SEQ_PC_HALF (!(s.seqHalf q))).rd (R.SEQ_PC q) :=
  ((State.enterPair_tunes chan).SEQ_PC (State.swapTerm_sound sound)).trans (State.rd_swapTerm sound)

omit sound in
theorem State.now_swapped : (s.swapped q n).now = s.now :=
  (State.enterPair_tunes (s := s.swapTerm q) (b := !(s.seqHalf q)) chan).now

theorem State.doSwp_eq {set2 : Nat} :
    s.doSwp q n set2 = (s.swapped q n).moveStamp q (s.swpSettle q set2) := by
  have settle : (if !(s.seqHalf q) && set2 != 0 then set2 * (10 * us) else ((s.swapped q n).seq q).settle) =
      s.swpSettle q set2 := by
    rw [State.seq_swapped sound chan]
    unfold State.swpSettle
    cases s.seqHalf q <;> simp [us]
  rw [← settle]
  rfl

/-- The sequencer and its bank after an SWP on a 3-wire channel. -/
theorem State.after_doSwp {set2 : Nat} :
    let u := (s.doSwp q n set2).seqNext q
    u.seqHalf q = !(s.seqHalf q) ∧ u.term q (s.seq q).src = (if s.seqHalf q then 1 else 2) ∧ (u.seq q).stamp = s.now ∧
      (u.seq q).settledAt = max (s.seq q).settledAt (s.now + s.swpSettle q set2) ∧
      u.seqPc q = (s.seqPc q + 1) % 512 := by
  dsimp only
  have swapped := State.swapped_sound (q := q) sound chan
  have moved : (s.doSwp q n set2).sound = true := by
    rw [State.doSwp_eq sound chan]
    exact (State.moveStamp_keeps (.refl _)).sound swapped
  have pc : (s.doSwp q n set2).rd (R.SEQ_PC q) =
      (s.setFlag (R.SEQ_PC q) F.SEQ_PC_HALF (!(s.seqHalf q))).rd (R.SEQ_PC q) := by
    rw [State.doSwp_eq sound chan, State.rd_SEQ_PC_moveStamp swapped, State.rd_swapped sound chan]
  have banks : ((s.doSwp q n set2).seqNext q).banks = (s.swapTerm q).banks := by
    rw [State.seqNext_banks, State.doSwp_eq sound chan, State.moveStamp_banks, State.swapped_banks]
  have record : ((s.doSwp q n set2).seqNext q).seq q = { s.seq q with
      refill := none, stamp := s.now, settledAt := max (s.seq q).settledAt (s.now + s.swpSettle q set2) } := by
    rw [State.seq_seqNext, State.doSwp_eq sound chan, State.seq_moveStamp swapped, State.seq_swapped sound chan,
      State.now_swapped chan]
  refine ⟨?_, ?_, ?_, ?_, ?_⟩
  · have half : (s.doSwp q n set2).seqHalf q = _ := congrArg (fun w => fldOf F.SEQ_PC_HALF w != 0) pc
    rw [State.seqHalf_seqNext moved, half]
    exact State.seqHalf_setHalf sound
  · rw [State.term_congr banks, State.term_swapTerm sound]
  · rw [record]
  · rw [record]
  · have same : (s.doSwp q n set2).seqPc q = _ := congrArg (fldOf F.SEQ_PC_PC) pc
    rw [State.seqPc_seqNext moved, same]
    exact congrArg (fun k => (k + 1) % 512) (State.seqPc_setHalf sound)

end

end Sys2Proof.Machine
end

section
/-! SUPPORT. The rules of CHK and of the scan timers (R47, R51, R100, R103, R105-R107), and of the words that no loaded
program holds (R111). -/

namespace Sys2Proof.Machine

/-! ### The marks of a CHK (R100, R107) -/

theorem State.stampAt_sound {s : State} {q d : Nat} {t : Time} (sound : s.sound = true) : (s.stampAt q d t).sound = true :=
  (State.stampAt_keeps (.refl s)).sound sound

theorem State.settle_stampAt {s : State} {q d : Nat} {t : Time} (sound : s.sound = true) :
    ((s.stampAt q d t).seq q).settle = (s.seq q).settle := by
  rw [State.stampAt, State.seq_putStamp sound]

/-- Each mark applies the settle time of the selection, which no mark changes. -/
theorem State.foldS_stampAt {s : State} {q d : Nat} (sound : s.sound = true) (settle : (s.seq q).settle = d)
    (marks : List Time) :
    foldS (fun u t => u.stampAt q (u.seq q).settle t) s marks = marks.foldl (fun u t => u.stampAt q d t) s := by
  induction marks generalizing s with
  | nil => rfl
  | cons t marks ih =>
    have step := ih (State.stampAt_sound (q := q) (d := d) (t := t) sound) ((State.settle_stampAt sound).trans settle)
    rw [List.foldl_cons, ← step, ← settle]
    rfl

/-- The changes of the burnout current that have come by now, each moving the stamp. -/
def State.moved (s : State) (q : Nat) (marks : List Time) : State :=
  (marks.filter (fun t => t ≤ s.now)).foldl (fun u t => u.stampAt q (s.seq q).settle t) s

theorem State.moved_keeps (s : State) (q : Nat) (marks : List Time) : Keeps s (s.moved q marks) :=
  foldl_keeps (.refl s) fun _ _ => State.stampAt_keeps (.refl _)

theorem State.chkMarks_eq {s : State} {q : Nat} {marks : List Time} {due : Time} (sound : s.sound = true)
    (wait : (s.seq q).wait = .chk marks due) : s.chkMarks q = (s.moved q marks).setSeq q
      { (s.moved q marks).seq q with wait := .chk (marks.filter (fun t => s.now < t)) due } := by
  unfold State.chkMarks
  rw [wait]
  dsimp only
  rw [State.foldS_stampAt sound rfl]
  rfl

/-- A wait that ends at once leaves no trace. -/
theorem State.seqResume_setWait {s : State} {q : Nat} {w : SWait} (sound : s.sound = true) :
    (s.setSeq q { s.seq q with wait := w }).seqResume q = s.seqResume q := by
  have ended : (s.setSeq q { s.seq q with wait := w }).seqWait q .none = s.seqWait q .none := by
    unfold State.seqWait
    rw [State.seq_setSeq_same sound, State.setSeq_setSeq sound]
  rw [State.seqResume, ended, State.seqResume]

theorem State.chkMarks_seqResume {s : State} {q : Nat} {marks : List Time} {due : Time} (sound : s.sound = true)
    (wait : (s.seq q).wait = .chk marks due) : (s.chkMarks q).seqResume q = (s.moved q marks).seqResume q := by
  rw [State.chkMarks_eq sound wait, State.seqResume_setWait ((s.moved_keeps q marks).sound sound)]

/-! ### CHK (R47, R51, R100) -/

/-- How many shifts a CHK of channel `n` measures. -/
def State.chkCount (s : State) (n : Nat) : Nat := if s.chanType n ≤ 4 then 2 else 1

theorem State.chkTime_eq (s : State) (q n filt : Nat) :
    s.chkTime q n filt = (s.chkCount n + 1) * filterWindow filt + s.chkCount n * (s.seq q).settle := by
  simp [State.chkTime, State.chkTwice, State.chkCount]

/-- The burnout current is switched on after one window and moved after each settle time and window. -/
theorem State.chkChanges_eq (s : State) (q n filt : Nat) : s.chkChanges q n filt =
    (List.range (s.chkCount n)).map
      (fun k => s.now + filterWindow filt + k * ((s.seq q).settle + filterWindow filt)) ++ [s.now + s.chkTime q n filt] := by
  unfold State.chkChanges State.chkCount State.chkTwice
  by_cases twice : s.chanType n ≤ 4
  · simp [twice, List.range_succ, Nat.add_assoc]
  · simp [twice]

theorem exec_chk {s : State} {q : Fin 9} {n : Nat} {filt : Fin 7} {t : Time} (ready : (s.atTime t).seqReady q = true)
    (chan : (s.atTime t).scannedChan q = some n) :
    exec (.chk q filt t) s = .next (if (s.atTime t).chkApplies n then
      ((s.atTime t).setSeq q { (s.atTime t).seq q with cnv := none, refill := none }).seqWait q
        (.chk ((s.atTime t).chkChanges q n filt) ((s.atTime t).now + (s.atTime t).chkTime q n filt))
      else (s.atTime t).seqNext q) := by
  change execChk q filt t s = _
  simp only [execChk, ready, chan, Bool.not_true, Bool.false_eq_true, if_false]

theorem exec_chkVerdict {s : State} {q : Fin 9} {n : Nat} {ref first second : Int} {clamp : Bool} {t due : Time}
    {marks : List Time} (chan : (s.atTime t).scannedChan q = some n) (runs : (s.atTime t).seqRuns q = true)
    (wait : ((s.atTime t).seq q).wait = .chk marks due) (come : due ≤ (s.atTime t).now) :
    exec (.chkVerdict q ref first second clamp t) s =
      .next ((((s.atTime t).openVerdict q n ref first second clamp).chkMarks q).seqResume q) := by
  change execChkVerdict q ref first second clamp t s = _
  simp only [execChkVerdict, wait, chan, runs, come, decide_true, Bool.and_self, if_true]

/-! ### The verdict (R51, R52) -/

/-- The shift of reading `x` from the reference is too large for a connected input (R51). -/
def shifted (ref x : Int) : Bool := decide (chkShift < dist x ref)

theorem shifted_eq (ref x : Int) : shifted ref x = decide (50000000000 < (if x ≤ ref then ref - x else x - ref)) := by
  have apart : dist x ref = if x ≤ ref then ref - x else x - ref := by
    unfold dist
    split <;> omega
  rw [shifted, apart]
  rfl

/-- The reading of an E10: the raw code of the position that failed, on the channel's present pair (log 27). -/
def State.failedRaw (s : State) (q n : Nat) (x : Int) : Int :=
  let h := (s.chan n).half (s.seqHalf q)
  if chooseUpper h.upper (rawCode x h.pair) then rawCode x (h.pair + 1) else rawCode x h.pair

/-- Channel `n` is found open or connected by a check. -/
def State.putChkOpen (s : State) (n : Nat) (bad : Bool) : State := s.setChan n { s.chan n with chkOpen := bad }

/-- A verdict without a conducting clamp: the two readings decide, and OPEN follows (R51, R52). -/
theorem State.openVerdict_unclamped (s : State) (q n : Nat) (ref first second : Int) :
    let bad := shifted ref first || s.chkCount n == 2 && shifted ref second
    s.openVerdict q n ref first second false =
      (s.putChkOpen n bad).setLive n (setBitN (s.liveBits n) bitOpen (((s.putChkOpen n bad).chan n).smpOpen || bad))
        (some (s.failedRaw q n (if chkShift < dist first ref then first else second))) := by
  have twice : (s.chkCount n == 2) = s.chkTwice n := by
    unfold State.chkCount State.chkTwice
    split <;> simp [*]
  dsimp only
  rw [twice, ← Bool.or_assoc]
  rfl

/-! ### What the sequencers leave to the front end -/

/-- `t` has the records of the channels of `s`, and the registers of the front end. -/
structure State.KeepsAfe (s t : State) : Prop where
  keeps : Keeps s t
  chans : t.chans = s.chans
  regs : s.sound = true → ∀ a, inAfe a → t.rd a = s.rd a

namespace State.KeepsAfe

theorem refl (s : State) : s.KeepsAfe s := ⟨.refl s, rfl, fun _ _ _ => rfl⟩

theorem trans {s t u : State} (h : s.KeepsAfe t) (g : t.KeepsAfe u) : s.KeepsAfe u where
  keeps := h.keeps.trans g.keeps
  chans := g.chans.trans h.chans
  regs sound a inside := (g.regs (h.keeps.sound sound) a inside).trans (h.regs sound a inside)

theorem setSeq (s : State) (q : Nat) (x : SeqSt) : s.KeepsAfe (s.setSeq q x) :=
  ⟨State.setSeq_keeps (.refl s), rfl, fun _ _ _ => rfl⟩

theorem wr {s : State} {a : Nat} {v : Word} (outside : ¬ inAfe a) : s.KeepsAfe (s.wr a v) :=
  ⟨State.wr_keeps (.refl s), rfl, fun sound _ inside => State.rd_wr_ne sound fun e => outside (e ▸ inside)⟩

theorem putStamp (s : State) (q : Fin 9) (t d : Time) : s.KeepsAfe (s.putStamp q t d) :=
  (setSeq s q _).trans ((wr (by simp only [inAfe, blockNo, R.SEQ_STAMP]; omega)).trans
    (wr (by simp only [inAfe, blockNo, R.SEQ_SETTLED]; omega)))

theorem moved (s : State) (q : Fin 9) (marks : List Time) : s.KeepsAfe (s.moved q marks) := by
  unfold State.moved
  generalize (s.seq q).settle = d
  generalize marks.filter (fun t => t ≤ s.now) = l
  induction l generalizing s with
  | nil => exact .refl s
  | cons t l ih => exact (putStamp s q t _).trans (ih (s.stampAt q d t))

theorem seqResume (s : State) (q : Fin 9) : s.KeepsAfe (s.seqResume q) := by
  have pc : ¬ inAfe (R.SEQ_PC q) := by simp only [inAfe, blockNo, R.SEQ_PC]; omega
  exact ((setSeq s q _).trans (wr pc)).trans (wr pc)

theorem chan {s t : State} (h : s.KeepsAfe t) (n : Nat) : t.chan n = s.chan n :=
  congrArg (fun l => tabGet (dflt chanReset) l n) h.chans

theorem liveBits {s t : State} (h : s.KeepsAfe t) (sound : s.sound = true) {n : Nat} (place : n < 132) :
    t.liveBits n = s.liveBits n := congrArg (fldOf F.AFE_CHSTAT_LIVE) (h.regs sound _ (inAfe_CHSTAT place))

end State.KeepsAfe

theorem State.openVerdict_waits (s : State) (q n p : Nat) (ref first second : Int) (clamp : Bool) :
    (s.openVerdict q n ref first second clamp).seq p = s.seq p := by
  cases clamp with
  | true => rfl
  | false =>
    rw [State.openVerdict_unclamped, State.seq_setLive]
    rfl

section
variable {s : State} {q : Fin 9} {n : Nat} {ref first second : Int} (sound : s.sound = true) (place : n < 132)
include sound place

omit place in
theorem State.chkOpen_openVerdict : ((s.openVerdict q n ref first second false).chan n).chkOpen =
    (shifted ref first || s.chkCount n == 2 && shifted ref second) := by
  rw [State.openVerdict_unclamped, State.chan_setLive, State.putChkOpen, State.chan_setChan_same sound]

theorem State.open_openVerdict : ((s.openVerdict q n ref first second false).liveBits n).testBit 0 =
    (shifted ref first || s.chkCount n == 2 && shifted ref second || (s.chan n).smpOpen) := by
  have small (b : Bool) : setBitN (s.liveBits n) bitOpen b < 512 := setBitN_lt_512 b (s.liveBits_lt n) (by decide)
  rw [State.openVerdict_unclamped, State.putChkOpen,
    State.liveBits_setLive ((State.setChan_keeps (.refl s)).sound sound) place (small _)]
  refine (testBit_setBitN_same _ _ _).trans ?_
  rw [State.chan_setChan_same sound, Bool.or_comm]

/-- The channel after a verdict and the wait that it ends. -/
theorem State.after_verdict {marks : List Time} {due : Time} (wait : (s.seq q).wait = .chk marks due) :
    let u := ((s.openVerdict q n ref first second false).chkMarks q).seqResume q
    (u.chan n).chkOpen = (shifted ref first || s.chkCount n == 2 && shifted ref second) ∧
      (u.liveBits n).testBit 0 = (shifted ref first || s.chkCount n == 2 && shifted ref second || (s.chan n).smpOpen) := by
  dsimp only
  have judged : (s.openVerdict q n ref first second false).sound = true := (State.openVerdict_keeps (.refl s)).sound sound
  have left := (State.KeepsAfe.moved (s.openVerdict q n ref first second false) q marks).trans (.seqResume _ q)
  rw [State.chkMarks_seqResume judged (by rw [State.openVerdict_waits, wait]), left.chan, left.liveBits judged place]
  exact ⟨State.chkOpen_openVerdict sound, State.open_openVerdict sound place⟩

end

/-! ### Scan timers (R103, R105, R106) -/

theorem exec_scanTimerTick {s : State} {i : Fin 16} {t due : Time} (on : (s.atTime t).islandOn 4 = true)
    (next : ((s.atTime t).timer i).next = some due) (come : due ≤ (s.atTime t).now) :
    exec (.scanTimerTick i t) s = .next ((s.atTime t).tickTimer i due) := by
  change execScanTimerTick i t s = _
  simp only [execScanTimerTick, next, on, come, decide_true, Bool.and_self, if_true]

theorem exec_scanTimerPeriodWrite (p : Port) (i : Fin 16) (v : BitVec 27) (t : Time) (s : State) :
    exec (.scanTimerPeriodWrite p i v t) s = .next ((s.atTime t).writePeriod i v.toNat) := rfl

theorem exec_scanTimerPhaseWrite (p : Port) (i : Fin 16) (v : BitVec 27) (t : Time) (s : State) :
    exec (.scanTimerPhaseWrite p i v t) s = .next ((s.atTime t).writePhase i v.toNat) := rfl

section
variable {s : State} {i v : Nat} (on : s.powered 4 = true) (unlocked : s.lockOpen = true)
include on unlocked

theorem State.writePeriod_of_range (h : 1 ≤ v ∧ v ≤ 124 ∨ 100000000 < v) : s.writePeriod i v = s.answer .range := by
  simp [State.writePeriod, on, unlocked, h]

theorem State.writePeriod_of_claimed (zero : v = 0) (claimed : s.owner (48 + i) ≠ 0) :
    s.writePeriod i v = s.answer .state := by
  simp [State.writePeriod, on, unlocked, zero, claimed]

/-- A timer that runs takes the new PERIOD at its next tick. -/
theorem State.writePeriod_of_running {o : Time} (low : 125 ≤ v) (high : v ≤ 100000000)
    (next : (s.timer i).next = some o) : s.writePeriod i v = ((s.setFld (R.SEQ_STPER i) F.SEQ_STPER_PERIOD v).setTimer i
      { s.timer i with newPeriod := some v }).noteLk.answer .ok := by
  have inRange : ¬(1 ≤ v ∧ v ≤ 124 ∨ 100000000 < v) := by omega
  have nonzero : v ≠ 0 := by omega
  simp [State.writePeriod, on, unlocked, inRange, nonzero, next]

theorem State.writePhase_of_range (h : s.fld (R.SEQ_STPER i) F.SEQ_STPER_PERIOD ≤ v) :
    s.writePhase i v = s.answer .range := by
  simp [State.writePhase, on, unlocked, h]

theorem State.writePhase_of_below (h : v < s.fld (R.SEQ_STPER i) F.SEQ_STPER_PERIOD) :
    s.writePhase i v = (s.setFld (R.SEQ_STPH i) F.SEQ_STPH_PHASE v).noteLk.answer .ok := by
  simp [State.writePhase, on, unlocked, Nat.not_le.2 h]

end

/-! ### Words of no loaded program (R111, log 29) -/

theorem exec_sel_of_no_position {s : State} {q : Fin 9} {sets : BitVec 15} {t : Time}
    (ready : (s.atTime t).seqReady q = true) (even : (s.atTime t).seqBank q % 2 = 0) :
    exec (.sel q sets 16 t) s = .refused (.neverLoaded "SEL") := by
  change execSel q sets 16 t s = _
  have never : ((16 : Fin 17).val = 16 ∧ (s.atTime t).seqBank q % 2 = 0) := ⟨rfl, even⟩
  simp only [execSel, ready, Bool.not_true, Bool.false_eq_true, if_false, if_pos never]

theorem exec_exc_of_no_level {s : State} {q : Fin 9} {src : Bool} {term : BitVec 2} {iexc : BitVec 11} {t : Time}
    (ready : (s.atTime t).seqReady q = true) (level : iexc.toNat ≠ 0 ∧ iexc.toNat < 50 ∨ 2000 < iexc.toNat) :
    exec (.exc q src term iexc t) s = .refused (.neverLoaded "EXC") := by
  change execExc q src term iexc t s = _
  have never : iexc.toNat ≠ 0 ∧ (iexc.toNat < 50 ∨ 2000 < iexc.toNat) := by omega
  simp only [execExc, ready, Bool.not_true, Bool.false_eq_true, if_false, if_pos never]

theorem exec_sync_of_other_banks {s : State} {q : Fin 9} {tmo mask : BitVec 8} {id : BitVec 3} {t : Time}
    (ready : (s.atTime t).seqReady q = true) (others : mask.getLsbD ((s.atTime t).seqBank q) = false) :
    exec (.sync q tmo id mask t) s = .refused (.neverLoaded "SYNC") := by
  change execSync q tmo id mask t s = _
  simp only [execSync, ready, others, Bool.not_true, Bool.not_false, Bool.false_eq_true, if_false, if_true]

end Sys2Proof.Machine
end

section
/-! SUPPORT. The rules of the trip matrix (R142-R152, R158-R160): its terms, outputs and latches; an input's way through the
synchronizer and the glitch filter; the comparators. -/

namespace Sys2Proof.Machine

/-! ### Terms (R148) -/

/-- A term fails where one of its literal words does not hold. -/
theorem any_fails_eq (sig k : Nat) (l : List (Nat × Word)) :
    l.any (fun e => !literalsHold sig (e.1 % 8) e.2 && e.1 / 8 == k) =
      !l.all (fun e => e.1 / 8 != k || literalsHold sig (e.1 % 8) e.2) := by
  rw [List.not_all_eq_any_not]
  congr 1
  funext e
  rw [Bool.not_or, bne, Bool.not_not, Bool.and_comm]

/-- A term holds exactly when it has literals and each of them holds. -/
theorem testBit_termsOf (sig k : Nat) (l : List (Nat × Word)) : (termsOf sig l).testBit k =
    (l.any (fun e => e.1 / 8 == k) && l.all (fun e => e.1 / 8 != k || literalsHold sig (e.1 % 8) e.2)) := by
  have named := testBit_foldl_mark (fun e : Nat × Word => e.1 / 8) (fun _ => false) l 0 k
  have failed := testBit_foldl_mark (fun e : Nat × Word => e.1 / 8) (fun e => literalsHold sig (e.1 % 8) e.2) l 0 k
  simp only [Bool.false_eq_true, if_false, Bool.not_false, Bool.true_and, Nat.zero_testBit, Bool.false_or] at named
  simp only [Nat.zero_testBit, Bool.false_or, any_fails_eq] at failed
  unfold termsOf
  dsimp only
  rw [testBit_sub_and, named, failed, Bool.not_not]

/-! ### Outputs and latches (R149, R150) -/

section
variable {s : State} {terms k : Nat}

theorem State.outputFor_of_off (off : s.flag (R.TRP_OCFG k) F.TRP_OCFG_EN = false ∨ s.mask128 (R.TRP_OSUM k) = 0) :
    s.outputFor terms k = false := by
  rcases off with disabled | empty
  · simp [State.outputFor, disabled]
  · simp [State.outputFor, empty]

theorem State.outputFor_of_on (enabled : s.flag (R.TRP_OCFG k) F.TRP_OCFG_EN = true)
    (nonempty : s.mask128 (R.TRP_OSUM k) ≠ 0) : s.outputFor terms k =
      xor (decide (s.mask128 (R.TRP_OSUM k) &&& terms ≠ 0)) (s.flag (R.TRP_OCFG k) F.TRP_OCFG_POL) := by
  have masked : (s.mask128 (R.TRP_OSUM k) != 0) = true := bne_iff_ne.2 nonempty
  simp only [State.outputFor, enabled, masked, bne_zero_eq_decide, Bool.true_and, Bool.bne_eq_xor]

theorem State.latchFor_of_disabled (disabled : s.flag (R.TRP_LCFG k) F.TRP_LCFG_EN = false) :
    s.latchFor terms k = false := by simp [State.latchFor, disabled]

/-- An enabled latch with only its set, only its reset, both or neither asserted. -/
theorem State.latchFor_of_enabled (enabled : s.flag (R.TRP_LCFG k) F.TRP_LCFG_EN = true) : s.latchFor terms k =
    if s.mask128 (R.TRP_LSET k) &&& terms = 0 then
      if s.mask128 (R.TRP_LRST k) &&& terms = 0 then (s.fld R.TRP_LATCH F.TRP_LATCH_TL).testBit k else false
    else if s.mask128 (R.TRP_LRST k) &&& terms = 0 then true
    else !(s.flag (R.TRP_LCFG k) F.TRP_LCFG_RDOM) := by
  unfold State.latchFor
  dsimp only
  rw [enabled, Bool.true_and]
  by_cases set : s.mask128 (R.TRP_LSET k) &&& terms = 0
  · by_cases rst : s.mask128 (R.TRP_LRST k) &&& terms = 0
    · rw [if_pos set, if_pos rst, set, rst]; rfl
    · rw [if_pos set, if_neg rst, set, bne_iff_ne.2 rst]; rfl
  · by_cases rst : s.mask128 (R.TRP_LRST k) &&& terms = 0
    · rw [if_neg set, if_pos rst, bne_iff_ne.2 set, rst]; rfl
    · rw [if_neg set, if_neg rst, bne_iff_ne.2 set, bne_iff_ne.2 rst]

end

/-! ### Evaluation goes on (R158) -/

/-- A register that a write does not name keeps a word that is not its reset word. -/
theorem State.rd_wr_of_set {s : State} {a b : Nat} {v : Word} (other : b ≠ a) (set : s.rd b ≠ resetWord b) :
    (s.wr a v).rd b = s.rd b := tabGet_tabSet_of_listed other set

theorem resetWord_PWR_DOM : resetWord R.PWR_DOM = 3 := by decide +kernel

theorem resetWord_CLK_LOCK : resetWord R.CLK_LOCK = 0 := by decide +kernel

theorem resetWord_TRP_STAT : resetWord R.TRP_STAT = 0 := by decide +kernel

/-- While evaluation runs, a write elsewhere does not stop it: the words that say so are not their reset words. -/
theorem State.trpOn_wr {s : State} {a : Nat} {v : Word} (on : s.trpOn = true) (dom : R.PWR_DOM ≠ a)
    (lock : R.CLK_LOCK ≠ a) (stat : R.TRP_STAT ≠ a) : (s.wr a v).trpOn = true := by
  have parts := on
  simp only [State.trpOn, State.islandOn, State.powered, State.islandRuns, State.flag, State.fld, Bool.and_eq_true] at parts
  obtain ⟨⟨power, clock⟩, run⟩ := parts
  have dom' : (s.wr a v).rd R.PWR_DOM = s.rd R.PWR_DOM := State.rd_wr_of_set dom fun reset => by
    rw [reset, resetWord_PWR_DOM] at power
    exact absurd power (by decide)
  have lock' : (s.wr a v).rd R.CLK_LOCK = s.rd R.CLK_LOCK := State.rd_wr_of_set lock fun reset => by
    rw [reset, resetWord_CLK_LOCK] at clock
    exact absurd clock (by decide)
  have stat' : (s.wr a v).rd R.TRP_STAT = s.rd R.TRP_STAT := State.rd_wr_of_set stat fun reset => by
    rw [reset, resetWord_TRP_STAT] at run
    exact absurd run (by decide)
  rw [← on]
  simp only [State.trpOn, State.islandOn, State.powered, State.islandRuns, State.flag, State.fld, dom', lock', stat']

/-! ### Inputs (R142, R143) -/

theorem State.noteTap_regs (s : State) (n : Nat) : (s.noteTap n).regs = s.regs := by
  unfold State.noteTap
  split <;> rfl

theorem State.setNative_regs (s : State) (n : Nat) (lvl : Bool) : (s.setNative n lvl).regs = s.regs :=
  State.noteTap_regs _ n

theorem State.trpOn_congr {s t : State} (h : t.regs = s.regs) : t.trpOn = s.trpOn := by
  unfold State.trpOn State.islandOn State.powered State.islandRuns State.flag State.fld State.rd
  rw [h]

/-- What a level of digital input `n` is before its glitch filter. -/
def State.rawInput (s : State) (n : Nat) (lvl : Bool) : State :=
  ((s.setAbit (R.DIO_DIRAW 0) n (s.diLevel n lvl)).setNative n lvl).noteRaw n

theorem State.trpOn_setNative_setAbit {s : State} {n : Nat} {lvl b : Bool} (on : s.trpOn = true) :
    ((s.setAbit (R.DIO_DIRAW 0) n b).setNative n lvl).trpOn = true := by
  rw [State.trpOn_congr (State.setNative_regs _ n lvl)]
  exact State.trpOn_wr on (by simp only [R.PWR_DOM, R.DIO_DIRAW]; omega) (by simp only [R.CLK_LOCK, R.DIO_DIRAW]; omega)
    (by simp only [R.TRP_STAT, R.DIO_DIRAW]; omega)

theorem State.glitchTime_eq_zero (s : State) (n : Nat) :
    (s.glitchTime n == 0) = decide (s.fld (R.TRP_INCFG n) F.TRP_INCFG_GF = 0) := by
  unfold State.glitchTime
  exact Bool.eq_iff_iff.2 (by simp)

theorem exec_tripInputChange_off {s : State} {n : Fin 64} {lvl : Bool} {t : Time} (off : (s.atTime t).trpOn = false)
    (low : n.val < 48) : exec (.tripInputChange n lvl t) s = .next ((s.atTime t).setNative n lvl) := by
  change execTripInputChange n lvl t s = _
  simp only [execTripInputChange, off, low, Bool.false_eq_true, if_false, if_true]

theorem exec_tripInputChange_on {s : State} {n : Fin 64} {lvl : Bool} {t : Time} (on : (s.atTime t).trpOn = true) :
    exec (.tripInputChange n lvl t) s = .next ((s.atTime t).tripInput n lvl) := by
  change execTripInputChange n lvl t s = _
  simp only [execTripInputChange, on, if_true]

/-- A digital level passes the synchronizer, and at once the glitch filter where GF is 0. -/
theorem State.tripInput_of_digital {s : State} {n : Nat} {lvl : Bool} (on : s.trpOn = true) (low : n < 48) :
    s.tripInput n lvl = if (s.rawInput n lvl).fld (R.TRP_INCFG n) F.TRP_INCFG_GF = 0 then (s.rawInput n lvl).inputPass n
      else s.rawInput n lvl := by
  have runs := State.trpOn_setNative_setAbit (n := n) (lvl := lvl) (b := s.diLevel n lvl) on
  unfold State.tripInput State.nativeLevel State.inputMoved
  dsimp only
  rw [if_pos low, if_pos low, runs, State.glitchTime_eq_zero]
  simp only [Bool.not_true, Bool.false_eq_true, if_false, decide_eq_true_eq]
  rfl

/-- A level that the terms see already passes without effect; another is seen and the array evaluated (R143, R152). -/
theorem State.inputPass_of_same {s : State} {n : Nat} (same : s.inputRaw n = s.inputLevel n) : s.inputPass n = s := by
  simp [State.inputPass, same]

theorem State.inputPass_of_change {s : State} {n : Nat} (change : s.inputRaw n ≠ s.inputLevel n) :
    s.inputPass n = (s.tripCatchUp.setAbit (R.TRP_IN 0) n (s.inputRaw n)).evaluate := by
  simp [State.inputPass, change]

/-- The other inputs have their comparator's output. -/
theorem State.tripInput_of_comparator {s : State} {n : Nat} {lvl : Bool} (high : 48 ≤ n) :
    s.tripInput n lvl = (s.setNative n (if n < 60 then s.flag (R.TRP_ACST (n - 48)) F.TRP_ACST_OUT
      else s.flag (R.TRP_FCST (n - 60)) F.TRP_FCST_OUT)).inputMoved n := by
  unfold State.tripInput State.nativeLevel
  dsimp only
  rw [if_neg (Nat.not_lt.2 high), if_neg (Nat.not_lt.2 high)]

theorem exec_glitchFilterPass {s : State} {n : Fin 64} {t : Time} (on : (s.atTime t).trpOn = true)
    (due : tabGet (dflt 0) (s.atTime t).trp.movedAt n + (s.atTime t).fld (R.TRP_INCFG n) F.TRP_INCFG_GF * 4 ≤
      (s.atTime t).now) : exec (.glitchFilterPass n t) s = .next ((s.atTime t).inputPass n) := by
  have stable : (s.atTime t).glitchDue n = true := decide_eq_true due
  change execGlitchFilterPass n t s = _
  simp only [execGlitchFilterPass, on, stable, Bool.and_self, if_true]

/-! ### Analog comparators (R49, R144-R146) -/

/-- `v` nV stand at the terminals that comparator `c` taps. -/
def State.standsAtTap (s : State) (c : Nat) (v : Int) : State :=
  s.setTrp { s.trp with acIn := tabSet (dflt none) s.trp.acIn c (some v) }

theorem exec_acOutputChange (c : Fin 12) (v : Int) (t : Time) (s : State) : exec (.acOutputChange c v t) s =
    .next (if (s.atTime t).trpOn then ((s.atTime t).standsAtTap c v).comparator c v
      else (s.atTime t).standsAtTap c v) := rfl

/-- In mode 0 a comparator sets from HI on, clears below HI less its hysteresis, and else keeps its output (R144). -/
theorem acOutput_above (hi lo hys v : Int) (old : Bool) :
    acOutput 0 hi lo hys v old = (decide (hi ≤ v) || (old && decide (hi - hys ≤ v))) := by
  unfold acOutput
  by_cases set : hi ≤ v
  · simp [set]
  · by_cases clear : v < hi - hys
    · simp [set, clear, Int.not_le.2 clear]
    · simp [set, clear, Int.not_lt.1 clear]

theorem State.acNew_above {s : State} {c : Nat} {v : Int} {old : Bool}
    (enabled : s.flag (R.TRP_ACCFG c) F.TRP_ACCFG_EN = true) (mode : s.fld (R.TRP_ACCFG c) F.TRP_ACCFG_MODE = 0) :
    s.acNew c v old = (decide (s.sfld (R.TRP_ACTH c) F.TRP_ACTH_HI * 312500 ≤ s.acQuantity c v) ||
      (old && decide (s.sfld (R.TRP_ACTH c) F.TRP_ACTH_HI * 312500 -
        (s.fld (R.TRP_ACHYS c) F.TRP_ACHYS_HYS : Int) * 312500 ≤ s.acQuantity c v))) := by
  unfold State.acNew
  rw [enabled, mode, Bool.true_and, acOutput_above]
  rfl

/-! ### Frequency comparators (R147) -/

/-- An edge of FC`f` now. -/
def State.noteEdge (s : State) (f : Nat) : State :=
  s.setTrp { s.trp with fcEdge := tabSet (dflt none) s.trp.fcEdge f (some s.now) }

/-- LAST and FAST of FC`f` show a period of `per` trip cycles. -/
def State.showPeriod (s : State) (f per : Nat) : State :=
  (s.setFld (R.TRP_FCST f) F.TRP_FCST_LAST (min per 16777215)).setFlag (R.TRP_FCST f) F.TRP_FCST_FCFAST
    (decide (per < 10000))

theorem fcOutput_eq (limit hys per : Nat) (old : Bool) :
    fcOutput limit hys per old = (decide (per ≤ limit) || (old && decide (per ≤ limit + hys))) := by
  unfold fcOutput
  by_cases set : per ≤ limit
  · simp [set]
  · by_cases clear : limit + hys < per
    · simp [set, clear, Nat.not_le.2 clear]
    · simp [set, clear, Nat.not_lt.1 clear]

theorem exec_fcEdge {s : State} {f : Fin 4} {t : Time} (on : (s.atTime t).trpOn = true) :
    exec (.fcEdge f t) s = .next ((s.atTime t).fcEdgeAt f) := by
  change execFcEdge f t s = _
  simp only [execFcEdge, on, if_true]

theorem State.fcEdgeAt_first {s : State} {f : Nat} (first : s.lastEdge f = none) : s.fcEdgeAt f = s.noteEdge f := by
  unfold State.fcEdgeAt
  rw [first]
  rfl

theorem State.fcEdgeAt_period {s : State} {f : Nat} {o : Time} (last : s.lastEdge f = some o) :
    s.fcEdgeAt f =
      let per := (s.now - o) / 4
      let u := (s.noteEdge f).showPeriod f per
      u.setFc f ((decide (per ≤ u.fld (R.TRP_FCTH f) F.TRP_FCTH_PER) ||
        (u.flag (R.TRP_FCST f) F.TRP_FCST_OUT &&
          decide (per ≤ u.fld (R.TRP_FCTH f) F.TRP_FCTH_PER + u.fld (R.TRP_FCHYS f) F.TRP_FCHYS_HYS))) &&
        decide (u.fld (R.TRP_FCTH f) F.TRP_FCTH_PER ≠ 0)) := by
  unfold State.fcEdgeAt
  rw [last]
  dsimp only
  rw [fcOutput_eq, bne_zero_eq_decide]
  rfl

theorem exec_fcTimeout {s : State} {f : Fin 4} {t o : Time} (on : (s.atTime t).trpOn = true)
    (last : (s.atTime t).lastEdge f = some o)
    (due : o + (s.atTime t).fld (R.TRP_FCTH f) F.TRP_FCTH_TMO * ms ≤ (s.atTime t).now) :
    exec (.fcTimeout f t) s = .next ((s.atTime t).setFc f false) := by
  change execFcTimeout f t s = _
  simp only [execFcTimeout, on, last, due, decide_true, Bool.and_self, if_true]

/-! ### The scrub of the store (R159) -/

theorem exec_tripStoreScrub_corrected {s : State} (w : Nat) (on : s.islandOn 6 = true) :
    exec (.tripStoreScrub w .corrected) s = .next ((s.addFld R.TRP_STAT F.TRP_STAT_ECCC 1).raise 0x35 w 0) := by
  change execTripStoreScrub w .corrected s = _
  simp only [execTripStoreScrub, on, Bool.not_true, Bool.false_eq_true, if_false]

theorem exec_tripStoreScrub_uncorrectable {s : State} (w : Nat) (on : s.islandOn 6 = true) :
    exec (.tripStoreScrub w .uncorrectable) s = .next ((s.raise 0x36 w 0).needCycle 5 1) := by
  change execTripStoreScrub w .uncorrectable s = _
  simp only [execTripStoreScrub, on, Bool.not_true, Bool.false_eq_true, if_false]

end Sys2Proof.Machine
end

section
/-! SUPPORT. The statements of the field terminals, the excitation and the trips. -/

open Sys2Proof Sys2Proof.Machine

namespace Sys2Proof.Proofs

/-- Settles O4, by induction on the closed switches, from the highest channel down. -/
theorem loopOvercurrent : Obligations.LoopOvercurrent := by
  unfold Obligations.LoopOvercurrent
  intro s₀ ma t on
  dsimp only
  intro excess
  obtain ⟨k, fits, enough, fewest, shed⟩ :=
    State.shedLoops_eq ma ((List.range 128).filter (s₀.atTime t).loopOn).reverse (s₀.atTime t)
  exact ⟨k, fits, enough, fewest, (exec_vloopOvercurrent on excess).trans (congrArg _ shed)⟩

theorem loopSwitches : Clauses.LoopSwitches := by
  unfold Clauses.LoopSwitches
  intro s₀ n t on
  dsimp only
  refine ⟨?close, ?limit, ?retry, ?retryEnd⟩
  case close => exact exec_loopSwitchStartClose on
  case limit => exact exec_loopSwitchLimit on
  case retry => exact fun o => exec_loopRetry on
  case retryEnd =>
    exact fun o retry closed due => ⟨exec_loopRetryEnd on retry closed due, exec_loopRetryEnd on retry closed due⟩

theorem loopSupply : Clauses.LoopSupply := by
  unfold Clauses.LoopSupply
  intro s v i on
  dsimp only
  refine ⟨?low, exec_vloopRecover on⟩
  case low =>
    rintro u rfl
    exact exec_vloopLow on

/-- Settles O30: the two families of clauses. That VLOW clears with SUPLOW is log 32. -/
theorem loopSwitching : Obligations.LoopSwitching := ⟨loopSwitches, loopSupply⟩

theorem suppliesAndClamps : Clauses.SuppliesAndClamps := by
  unfold Clauses.SuppliesAndClamps
  intro s₀ b n t
  dsimp only
  refine ⟨exec_bridgeSupplyLimit, exec_bridgeSupplyLimitEnd, fun on => ⟨exec_clampConduct on, fun clamp => ?_⟩⟩
  rw [State.chan_setLive, State.setLive_now]
  exact exec_clampClear on clamp

theorem liveAndLatchedBits : Clauses.LiveAndLatchedBits := by
  unfold Clauses.LiveAndLatchedBits
  intro s n live reading sound chan bits
  dsimp only
  refine ⟨State.liveBits_setLive sound chan bits, State.latch_setLive sound chan bits,
    State.faultSum_setLive sound bits, fun a other => ?_⟩
  obtain ⟨status, sum⟩ := not_or.1 other
  exact State.rd_setLive_of_ne sound status sum

/-- Settles O31: the two families of clauses. That the tail of a clamp counts from the instant it cleared is log 60, that E14
comes once in an episode log 62. -/
theorem suppliesClampsAndLiveBits : Obligations.SuppliesClampsAndLiveBits := ⟨suppliesAndClamps, liveAndLatchedBits⟩

/-- A SEL goes through its stages (State.doSel_stages), and what the front end does in them leaves the sequencer alone. -/
theorem selectChannel : Clauses.SelectChannel := by
  unfold Clauses.SelectChannel
  intro s₀ q sets pos t sound₀ ready spaced stands
  dsimp only
  have sound : (s₀.atTime t).sound = true := (State.atTime_keeps (.refl s₀)).sound sound₀
  have chan := posChan_lt (State.seqBank_lt_of_ready ready) pos.val
  have run := exec_sel_of_spaced (sets := sets) ready spaced stands
  generalize s₀.atTime t = s at sound ready chan run ⊢
  have kept : ((s.takeCfg (posChan (s.seqBank q) pos.val)).takeBxv q (s.seqBank q)).sound = true :=
    (State.takeBxv_keeps (State.takeCfg_keeps (.refl s))).sound sound
  constructor
  · obtain ⟨x, tuned, stages⟩ := State.doSel_stages (sets := sets.toNat) chan rfl rfl
    obtain ⟨position, half, pc, record, cfg⟩ := State.after_selected kept tuned (by omega)
    rw [← stages] at position half pc record cfg
    exact ⟨_, run, position, half, pc, (cfg _).1, (cfg _).2, congrArg SeqSt.lastSel record, congrArg SeqSt.settle record,
      congrArg SeqSt.stamp record, congrArg SeqSt.settledAt record, congrArg SeqSt.cnv record, congrArg SeqSt.wait record⟩
  · intro same
    have copied : (s.copyCfg (posChan (s.seqBank q) pos.val)).sound = true := (State.copyCfg_keeps (.refl s)).sound sound
    have tuned := (State.takeCfg_tunes sound chan same).trans (State.takeBxv_tunes _ q (s.seqBank q))
    have record := State.chan_copyCfg (n := posChan (s.seqBank q) pos.val) sound
    exact ⟨(tuned.cfg copied _).trans (congrArg ChanSt.cfg record),
      (tuned.rng copied _).trans (congrArg ChanSt.rng record), tuned.now,
      congrArg (fldOf F.SEQ_PC_PC) (tuned.SEQ_PC copied)⟩

theorem excitationAndSwap : Clauses.ExcitationAndSwap := by
  unfold Clauses.ExcitationAndSwap
  intro s₀ q n src term iexc set2 t sound₀ ready chan
  dsimp only
  have sound : (s₀.atTime t).sound = true := (State.atTime_keeps (.refl s₀)).sound sound₀
  refine ⟨fun uses level => ⟨fun same => ?inPlace, fun change => ?change⟩, fun three => ?swap, fun other => ?noSwap⟩
  case inPlace => rw [exec_exc ready chan level, State.doExc_of_in_place uses same]
  case change =>
    rw [exec_exc ready chan level, State.doExc_of_change uses change]
    exact ⟨_, rfl, State.after_switchSource sound⟩
  case swap =>
    rw [exec_swp ready chan, if_pos three]
    exact ⟨_, rfl, State.after_doSwp sound (State.scannedChan_lt chan)⟩
  case noSwap => rw [exec_swp ready chan, if_neg (by simp [other])]

/-- Settles O34: the two families of clauses. -/
theorem channelSelection : Obligations.ChannelSelection := ⟨selectChannel, excitationAndSwap⟩

theorem openCheck : Clauses.OpenCheck := by
  unfold Clauses.OpenCheck
  intro s₀ q n filt ref first second t due marks sound₀ place chan runs
  dsimp only
  have sound : (s₀.atTime t).sound = true := (State.atTime_keeps (.refl s₀)).sound sound₀
  simp only [← shifted_eq]
  have ready (wait : ((s₀.atTime t).seq q).wait = .none) (sent : (s₀.atTime t).sendHeld q = false) :
      (s₀.atTime t).seqReady q = true := State.seqReady_iff.2 ⟨runs, wait, sent⟩
  refine ⟨fun wait sent applies => ?begins, fun wait sent exempt => ?exempt, fun wait come => ⟨?clamped, ?verdict⟩⟩
  case begins =>
    rw [exec_chk (ready wait sent) chan, if_pos applies, State.chkChanges_eq, State.chkTime_eq]
    rfl
  case exempt => rw [exec_chk (ready wait sent) chan, if_neg (by simp [exempt])]
  case clamped =>
    rw [exec_chkVerdict chan runs wait come]
    exact congrArg _ (State.chkMarks_seqResume sound wait)
  case verdict => exact ⟨_, exec_chkVerdict chan runs wait come, State.after_verdict sound place wait⟩

theorem scanTimers : Clauses.ScanTimers := by
  unfold Clauses.ScanTimers
  intro s₀ p i v t due on
  dsimp only
  simp only [exec_scanTimerPeriodWrite, exec_scanTimerPhaseWrite]
  refine ⟨exec_scanTimerTick, fun unlocked h => congrArg _ (State.writePeriod_of_range on unlocked h),
    fun unlocked zero claimed => congrArg _ (State.writePeriod_of_claimed on unlocked zero claimed),
    fun o unlocked low high next => congrArg _ (State.writePeriod_of_running on unlocked low high next),
    fun unlocked h => congrArg _ (State.writePhase_of_range on unlocked h),
    fun unlocked h => congrArg _ (State.writePhase_of_below on unlocked h)⟩

theorem wordsNeverLoaded : Clauses.WordsNeverLoaded := by
  unfold Clauses.WordsNeverLoaded
  intro s₀ q sets src term iexc tmo mask id t ready
  exact ⟨exec_sel_of_no_position ready, exec_exc_of_no_level ready, exec_sync_of_other_banks ready⟩

/-- Settles O36: the three families of clauses. That the words of R111 are refused by name is log 29. -/
theorem checksTimersAndRefusals : Obligations.ChecksTimersAndRefusals := ⟨openCheck, scanTimers, wordsNeverLoaded⟩

theorem tripTerms : Clauses.TripTerms := testBit_termsOf

theorem tripOutputsAndLatches : Clauses.TripOutputsAndLatches := by
  unfold Clauses.TripOutputsAndLatches
  intro s terms o
  refine ⟨State.outputFor_of_off, State.outputFor_of_on, State.latchFor_of_disabled, fun enabled => ?latch⟩
  dsimp only
  rw [State.latchFor_of_enabled enabled]
  refine ⟨fun set rst => ?keep, fun set rst => ?set, fun set rst => ?reset, fun set rst => ?both⟩
  case keep => rw [if_pos set, if_pos rst]
  case set => rw [if_neg set, if_pos rst]
  case reset => rw [if_pos set, if_neg rst]
  case both => rw [if_neg set, if_neg rst]

/-- The clauses do not ask for the canonical form of the tables: a write of DIO_DIRAW leaves evaluation running in any state
(State.trpOn_wr). -/
theorem tripInputs : Clauses.TripInputs := by
  unfold Clauses.TripInputs
  intro s₀ n c f lvl v w t
  dsimp only
  refine ⟨exec_tripInputChange_off, fun on low => ?digital, fun on high => ?comparator, fun on change due => ?filter,
    ⟨fun off => ?standing, fun on enabled mode => ?analog⟩, fun on first => ?firstEdge, fun o on last => ?period,
    fun o on last due => ?timeout,
    fun on => ⟨exec_tripStoreScrub_corrected w on, exec_tripStoreScrub_uncorrectable w on⟩⟩
  case digital =>
    rw [exec_tripInputChange_on on, State.tripInput_of_digital on low]
    exact ⟨fun filtered => congrArg _ (if_neg filtered),
      fun direct same => congrArg _ ((if_pos direct).trans (State.inputPass_of_same same)),
      fun direct change => congrArg _ ((if_pos direct).trans (State.inputPass_of_change change))⟩
  case comparator => rw [exec_tripInputChange_on on, State.tripInput_of_comparator high]
  case filter => rw [exec_glitchFilterPass on due, State.inputPass_of_change change]
  case standing => rw [exec_acOutputChange, if_neg (by simp [off])]; rfl
  case analog =>
    have enabled' : ((s₀.atTime t).standsAtTap c v).flag (R.TRP_ACCFG c) F.TRP_ACCFG_EN = true := enabled
    rw [exec_acOutputChange, if_pos on, State.comparator, State.acNew_above enabled' mode]
    rfl
  case firstEdge => rw [exec_fcEdge on, State.fcEdgeAt_first first]; rfl
  case period => rw [exec_fcEdge on, State.fcEdgeAt_period last]; rfl
  case timeout => rw [exec_fcTimeout on last due]; rfl

/-- Settles O39: the three families of clauses. -/
theorem trips : Obligations.Trips := ⟨tripTerms, tripOutputsAndLatches, tripInputs⟩

end Sys2Proof.Proofs
end

section
/-! SUPPORT. The fields of a sample word (R72): the word is the sum of its fields, each in its own bits. -/

namespace Sys2Proof.Machine

/-- A number within the range of `k + 1` signed bits is read back from its two's complement. -/
theorem signOf_unsignOf {k : Nat} {x : Int} (low : -(2 ^ k : Nat) ≤ x) (high : x < (2 ^ k : Nat)) :
    signOf (k + 1) (unsignOf (k + 1) x) = x := by
  have double : 2 ^ (k + 1) = 2 * 2 ^ k := Nat.pow_succ'
  unfold signOf unsignOf
  rw [Nat.add_sub_cancel, double]
  generalize 2 ^ k = p at low high
  rcases Int.lt_or_le x 0 with negative | nonneg
  · have wraps : x % ((2 * p : Nat) : Int) = x + (2 * p : Nat) := by
      rw [← Int.add_emod_right, Int.emod_eq_of_lt (by omega) (by omega)]
    rw [wraps, if_neg (by omega)]
    omega
  · rw [Int.emod_eq_of_lt nonneg (by omega), if_pos (by omega)]
    omega

theorem unsignOf_lt (w : Nat) (x : Int) : unsignOf w x < 2 ^ w := by
  have positive : (0 : Int) < ((2 ^ w : Nat) : Int) := Int.ofNat_lt.2 (Nat.two_pow_pos w)
  have below := Int.emod_lt_of_pos x positive
  unfold unsignOf
  omega

/-- A field of one bit is that bit. -/
theorem getLsbD_of_bitsOf {n i : Nat} {w : BitVec n} {b : Bool} (h : bitsOf w.toNat i 1 = b.toNat) : w.getLsbD i = b := by
  rw [BitVec.getLsbD, Nat.testBit_eq_decide_div_mod_eq]
  change w.toNat / 2 ^ i % 2 = b.toNat at h
  rw [h]
  cases b <;> rfl

/-- The fields of R72 do not overlap: as a number the word is their sum. -/
theorem mkSample_toNat {quality tag : Nat} {straddle clamp subst : Bool} {v : Int} (fits : quality < 4) (range : tag < 8) :
    (mkSample quality tag straddle clamp subst v).toNat = quality * 2 ^ 30 + tag * 2 ^ 27 + straddle.toNat * 2 ^ 26 +
      clamp.toNat * 2 ^ 25 + subst.toNat * 2 ^ 24 + unsignOf 24 v := by
  have value := unsignOf_lt 24 v
  have straddles := straddle.toNat_lt
  have clamps := clamp.toNat_lt
  have substs := subst.toNat_lt
  unfold mkSample
  rw [BitVec.toNat_ofNat, Nat.mod_eq_of_lt fits, Nat.mod_eq_of_lt range, Nat.mod_eq_of_lt (by omega)]

/-- Each field of the word is the part that it was made of. -/
theorem mkSample_fields {quality tag : Nat} {straddle clamp subst : Bool} {v : Int} (fits : quality < 4) (range : tag < 8) :
    let n := (mkSample quality tag straddle clamp subst v).toNat
    bitsOf n 30 2 = quality ∧ bitsOf n 27 3 = tag ∧ bitsOf n 26 1 = straddle.toNat ∧ bitsOf n 25 1 = clamp.toNat ∧
      bitsOf n 24 1 = subst.toNat ∧ bitsOf n 0 24 = unsignOf 24 v := by
  have value := unsignOf_lt 24 v
  have straddles := straddle.toNat_lt
  have clamps := clamp.toNat_lt
  have substs := subst.toNat_lt
  simp only [mkSample_toNat fits range, bitsOf]
  omega

end Sys2Proof.Machine
end

section
/-! SUPPORT. The rules of PAIR, CNV, conversion results and PUT (R68, R71, R97-R99). -/

namespace Sys2Proof.Machine

/-! ### The halves of a channel (R61-R68) -/

theorem ChanSt.half_setHalf_same (x : ChanSt) (b : Bool) (h : HalfSt) : (x.setHalf b h).half b = h := by cases b <;> rfl

theorem State.half_putHalf_same {s : State} {n : Nat} {b : Bool} {h : HalfSt} (sound : s.sound = true) :
    ((s.putHalf n b h).chan n).half b = h := by
  have record : (s.putHalf n b h).chan n = (s.chan n).setHalf b h := State.chan_setChan_same sound
  rw [record, ChanSt.half_setHalf_same]

/-- The pair of half `b` of channel `n` becomes `k` at once. -/
def State.setPairNow (s : State) (n : Nat) (b : Bool) (k : Nat) : State := s.putHalf n b (((s.chan n).half b).setPair k)

/-- A pair set on the half in use takes effect at once, and moves the stamp where it changes (R99, R107). -/
theorem State.changePair_in_use {s : State} {q n k : Nat} {half : Bool}
    (inUse : (s.threeWire n && half != s.seqHalf q) = false) :
    s.changePair q n half k = (s.setPairNow n half k).applyIf (((s.chan n).half half).pair != k)
      (fun u => u.moveStamp q (u.seq q).settle) := by
  unfold State.changePair
  dsimp only
  rw [inUse]
  rfl

section
variable {s : State} {q : Fin 9} {n k : Nat} {half : Bool} (sound : s.sound = true) (chan : n < 132)
include sound

theorem State.setPairNow_sound : (s.setPairNow n half k).sound = true := (State.putHalf_keeps (.refl s)).sound sound

theorem State.changePair_sound : (s.changePair q n half k).sound = true := (State.changePair_keeps (.refl s)).sound sound

variable (inUse : (s.threeWire n && half != s.seqHalf q) = false)
include inUse

theorem State.pair_changePair : ((s.changePair q n half k).chan n).half half = ((s.chan n).half half).setPair k := by
  rw [State.changePair_in_use inUse]
  have now : ((s.setPairNow n half k).chan n).half half = ((s.chan n).half half).setPair k := State.half_putHalf_same sound
  cases changed : ((s.chan n).half half).pair != k <;> exact now

include chan

theorem State.rd_SEQ_PC_changePair : (s.changePair q n half k).rd (R.SEQ_PC q) = s.rd (R.SEQ_PC q) := by
  have put : (s.setPairNow n half k).rd (R.SEQ_PC q) = s.rd (R.SEQ_PC q) := (State.putHalf_tunes chan).SEQ_PC sound
  rw [State.changePair_in_use inUse]
  cases changed : ((s.chan n).half half).pair != k with
  | false => exact put
  | true => exact (State.rd_SEQ_PC_moveStamp (State.setPairNow_sound sound)).trans put

end

/-! ### PAIR (R68, R99) -/

/-- The pair that PAIR SET gives: K limited to MINP–MAXP (R68). -/
def State.limitedPair (s : State) (n k : Nat) : Nat :=
  min (max k (fldOf F.AFE_RNG_MINP (s.chan n).rng)) (fldOf F.AFE_RNG_MAXP (s.chan n).rng)

/-- The pair of half `half` is fixed at `k`. -/
def State.fixPair (s : State) (q n : Nat) (half : Bool) (k : Nat) : State :=
  (s.changePair q n half k).putHalf n half
    { ((s.changePair q n half k).chan n).half half with fixed := true, released := false }

/-- A fixed pair of half `half` ends; it returns within its bounds at the next SEL. -/
def State.releasePair (s : State) (n : Nat) (half : Bool) : State :=
  let h := (s.chan n).half half
  s.putHalf n half { h with fixed := false, released := h.released || h.fixed }

section
variable {s : State} {q : Fin 9} {n lo hi : Nat} {half : Bool} {t : Time}

section
variable {f : State → Nat → State} (chan : s.scannedChan q = some n) (has : (half && !s.threeWire n) = false)
  (span : pairSpan (s.chanType n) = some (lo, hi))
include chan has span

theorem State.doPair_allowed {k : Nat} (low : lo ≤ k) (high : k ≤ hi) : s.doPair q half k f = f s n := by
  simp [State.doPair, chan, has, span, low, high]

theorem State.doPair_refused {k : Nat} (out : k < lo ∨ hi < k) :
    s.doPair q half k f = s.seqFault q F.SEQ_FAULT_PAIRERR 2 := by
  have beyond : (decide (lo ≤ k) && decide (k ≤ hi)) = false := by
    rw [← Bool.decide_and]
    exact decide_eq_false (by omega)
  simp only [State.doPair, chan, has, span, beyond, Bool.false_eq_true, if_false]

end

section
variable {k : Fin 5} (ready : (s.atTime t).seqReady q = true) (chan : (s.atTime t).scannedChan q = some n)
  (has : (half && !(s.atTime t).threeWire n) = false) (span : pairSpan ((s.atTime t).chanType n) = some (lo, hi))
include ready chan has span

theorem exec_pairSet_allowed (low : lo ≤ k.val) (high : k.val ≤ hi) : exec (.pairSet q half k t) s =
    .next (((s.atTime t).changePair q n half ((s.atTime t).limitedPair n k)).seqNext q) := by
  change execPairSet q half k t s = _
  simp only [execPairSet, ready, State.doPair_allowed chan has span low high, Bool.not_true, Bool.false_eq_true, if_false]
  rfl

theorem exec_pairFix_allowed (low : lo ≤ k.val) (high : k.val ≤ hi) :
    exec (.pairFix q half k t) s = .next (((s.atTime t).fixPair q n half k).seqNext q) := by
  change execPairFix q half k t s = _
  simp only [execPairFix, ready, State.doPair_allowed chan has span low high, Bool.not_true, Bool.false_eq_true, if_false]
  rfl

theorem exec_pairSet_refused (out : k.val < lo ∨ hi < k.val) : exec (.pairSet q half k t) s =
    .next (((s.atTime t).seqFault q F.SEQ_FAULT_PAIRERR 2).seqNext q) := by
  change execPairSet q half k t s = _
  simp only [execPairSet, ready, State.doPair_refused chan has span out, Bool.not_true, Bool.false_eq_true, if_false]

theorem exec_pairFix_refused (out : k.val < lo ∨ hi < k.val) : exec (.pairFix q half k t) s =
    .next (((s.atTime t).seqFault q F.SEQ_FAULT_PAIRERR 2).seqNext q) := by
  change execPairFix q half k t s = _
  simp only [execPairFix, ready, State.doPair_refused chan has span out, Bool.not_true, Bool.false_eq_true, if_false]

end

theorem exec_pairRelease (ready : s.seqReady q = true) (chan : s.scannedChan q = some n)
    (has : (half && !s.threeWire n) = false) :
    exec (.pairRelease q half) s = .next ((s.releasePair n half).seqNext q) := by
  change execPairRelease q half s = _
  simp only [execPairRelease, ready, chan, has, Bool.not_true, Bool.false_eq_true, if_false]
  rfl

section
variable (sound : s.sound = true)
include sound

theorem State.half_releasePair : ((s.releasePair n half).chan n).half half = { (s.chan n).half half with
    fixed := false, released := ((s.chan n).half half).released || ((s.chan n).half half).fixed } :=
  State.half_putHalf_same sound

variable {k : Nat} (inUse : (s.threeWire n && half != s.seqHalf q) = false)
include inUse

theorem State.half_fixPair : ((s.fixPair q n half k).chan n).half half =
    { ((s.chan n).half half).setPair k with fixed := true, released := false } := by
  rw [State.fixPair, State.half_putHalf_same (State.changePair_sound sound), State.pair_changePair sound inUse]

variable (place : n < 132)
include place

theorem State.seqPc_after_changePair :
    ((s.changePair q n half k).seqNext q).seqPc q = (s.seqPc q + 1) % 512 := by
  rw [State.seqPc_seqNext (State.changePair_sound sound)]
  exact congrArg (fun w => (fldOf F.SEQ_PC_PC w + 1) % 512) (State.rd_SEQ_PC_changePair sound place inUse)

theorem State.seqPc_after_fixPair : ((s.fixPair q n half k).seqNext q).seqPc q = (s.seqPc q + 1) % 512 := by
  have changed : (s.changePair q n half k).sound = true := State.changePair_sound sound
  have tuned : (s.changePair q n half k).TunesAfe (s.fixPair q n half k) := State.putHalf_tunes place
  rw [State.seqPc_seqNext (tuned.sound changed)]
  exact congrArg (fun w => (fldOf F.SEQ_PC_PC w + 1) % 512)
    ((tuned.SEQ_PC changed).trans (State.rd_SEQ_PC_changePair sound place inUse))

end

end

/-! ### CNV (R71, R98) -/

section
variable {s : State} {q : Fin 9} {n : Nat} {filt : Fin 7} {t : Time}

theorem exec_cnv {k : Fin 4097} (ready : (s.atTime t).seqReady q = true) (chan : (s.atTime t).scannedChan q = some n) :
    exec (.cnv q filt k t) s = .next ((if k.val = 0 then s.atTime t else (s.atTime t).doCnv q n filt k).seqNext q) := by
  change execCnv q filt k t s = _
  simp only [execCnv, ready, chan, Bool.not_true, Bool.false_eq_true, if_false]

/-- The sequencer after a CNV: its conversions, the refill dropped, and the next address. -/
theorem State.after_doCnv {k : Nat} (sound : s.sound = true) (place : n < 132) :
    let u := (s.doCnv q n filt k).seqNext q
    (u.seq q).cnv = some ⟨filt, k, s.now, 0, none⟩ ∧ (u.seq q).refill = none ∧ u.seqPc q = (s.seqPc q + 1) % 512 := by
  dsimp only
  have tuned : s.TunesAfe (s.movePair n (s.seqHalf q)) := State.movePair_tunes place
  have moved := tuned.sound sound
  have record : ((s.doCnv q n filt k).seqNext q).seq q = _ := State.seq_setSeq_same moved
  refine ⟨?_, ?_, ?_⟩
  · rw [record, tuned.now]
  · rw [record]
  · refine (State.seqPc_seqNext (State.setSeq_sound moved)).trans ?_
    exact congrArg (fun w => (fldOf F.SEQ_PC_PC w + 1) % 512) (tuned.SEQ_PC sound)

end

/-! ### Conversion results (R71) -/

theorem State.showRaw_seqs (s : State) (q n : Nat) (r : Res) : (s.showRaw q n r).seqs = s.seqs := by
  unfold State.showRaw
  dsimp only
  split
  · rfl
  · split <;> rfl

theorem State.seq_showRaw (s : State) (q n : Nat) (r : Res) (p : Nat) : (s.showRaw q n r).seq p = s.seq p :=
  congrArg (fun l => tabGet (dflt seqReset) l p) (s.showRaw_seqs q n r)

/-- Result `r` of the CNV `c` of sequencer `q` is complete: it is shown, and replaces one not taken. -/
def State.takeNewest (s : State) (q n : Nat) (c : Cnv) (r : Res) : State :=
  (s.showRaw q n r).setSeq q { (s.showRaw q n r).seq q with
    cnv := some { c with count := c.count + 1, latest := some r } }

theorem State.seq_takeNewest {s : State} {q n : Nat} {c : Cnv} {r : Res} (sound : s.sound = true) :
    (s.takeNewest q n c r).seq q = { s.seq q with cnv := some { c with count := c.count + 1, latest := some r } } := by
  rw [State.takeNewest, State.seq_setSeq_same ((State.showRaw_keeps (.refl s)).sound sound), State.seq_showRaw]

/-- A result that no PUT waits for stays where it is. -/
theorem State.result_of_no_wait {s : State} {q n : Nat} {c : Cnv} {lo up exc : Int} {comp cl : Bool}
    (sound : s.sound = true) (wait : (s.seq q).wait = .none) : s.result q n c lo up comp cl exc =
      s.takeNewest q n c (s.makeRes q n (c.start + c.count * filterInterval c.filt) lo up comp cl exc) := by
  generalize made : s.makeRes q n (c.start + c.count * filterInterval c.filt) lo up comp cl exc = r
  have still : ((s.takeNewest q n c r).seq q).wait = .none := by rw [State.seq_takeNewest sound, wait]
  unfold State.takeNewest at still ⊢
  rw [State.seq_showRaw] at still ⊢
  unfold State.result
  dsimp only
  rw [made]
  split
  · next last waits => exact absurd (waits.symm.trans still) (by simp)
  · rfl

theorem exec_conversionResult {s : State} {q : Fin 9} {n : Nat} {c : Cnv} {lo up exc : Int} {comp cl : Bool} {t : Time}
    (chan : (s.atTime t).scannedChan q = some n) (on : (s.atTime t).islandOn 4 = true)
    (cnv : ((s.atTime t).seq q).cnv = some c) (more : c.count < c.k)
    (due : c.start + c.count * filterInterval c.filt + filterWindow c.filt ≤ (s.atTime t).now) :
    exec (.conversionResult q lo up comp cl exc t) s = .next ((s.atTime t).result q n c lo up comp cl exc) := by
  change execConversionResult q lo up comp cl exc t s = _
  simp only [execConversionResult, chan, cnv, on, more, due, decide_true, Bool.and_self, if_true]

/-! ### PUT (R97, R98) -/

theorem exec_put {s : State} {q : Fin 9} {n : Nat} {last : Bool} {t : Time} (ready : (s.atTime t).seqReady q = true)
    (chan : (s.atTime t).scannedChan q = some n) :
    exec (.put q last t) s = .next ((s.atTime t).doPut q n last) := by
  change execPut q last t s = _
  simp only [execPut, ready, chan, Bool.not_true, Bool.false_eq_true, if_false]

section
variable {s : State} {q n : Nat} {last : Bool}

theorem State.doPut_of_no_cnv (idle : (s.seq q).cnv = none) :
    s.doPut q n last = (s.seqFault q F.SEQ_FAULT_NORES 0).seqResume q := by
  unfold State.doPut
  rw [idle]

variable {c : Cnv} (cnv : (s.seq q).cnv = some c)
include cnv

theorem State.doPut_of_no_result (empty : c.latest = none) (more : c.count < c.k) :
    s.doPut q n last = s.seqWait q (.put last) := by
  simp only [State.doPut, cnv, empty, if_pos more]

/-- A PUT takes the latest result; one of LAST takes the last alone. -/
theorem State.doPut_of_result {r : Res} (newest : c.latest = some r) (takes : last = false ∨ c.count = c.k) :
    s.doPut q n last = ((s.takeResult q n r).setSeq q
      { (s.takeResult q n r).seq q with cnv := some { c with latest := none } }).seqResume q := by
  have now : ¬((last && decide (c.count < c.k)) = true) := by
    rcases takes with any | final
    · simp [any]
    · simp [final]
  simp only [State.doPut, cnv, newest, if_neg now]

end

end Sys2Proof.Machine
end

section
/-! SUPPORT. The rules of the rotation of the spare bank and of its tests (R79-R88, R114). -/

namespace Sys2Proof.Machine

/-- A passed test as R81 states E1A: the largest change of gain and that of offset over the bank's coefficients. -/
theorem State.notePass_eq (s : State) (b : Nat) (old : List (Nat × Int)) :
    s.notePass b old =
      let gain (i : Nat) := (((s.coefOf b i).1 : Int) - (old.getD i (0, 0)).1).natAbs
      let offs (i : Nat) := ((s.coefOf b i).2 - (old.getD i (0, 0)).2).natAbs
      let most (f : Nat → Nat) := ((List.range 12).map f).foldl Nat.max 0
      s.raiseF 0x1A b (data2 (most gain) (most offs)) ((List.range 12).any (fun i =>
        decide ((old.getD i (0, 0)).1 < 2000 * gain i ∨ 8388608 < 10000 * offs i))) := by
  simp only [State.notePass, List.foldl_map, List.any_map, Bool.decide_or]
  rfl

section
variable {s : State} {r : TestResult} {t : Time} (on : (s.atTime t).afeOn = true)
include on

theorem exec_bsHandover {b : Nat} (want : (s.atTime t).rot.want = some b) (idle : (s.atTime t).bsIdle = true)
    (sel : (s.atTime t).atSel b = true) (pd6 : (s.atTime t).powered 6 = true) (pd7 : (s.atTime t).powered 7 = true)
    (free : (s.atTime t).bankFixed b = false) : exec (.bsHandover t) s =
      .next ((((s.atTime t).setWant none).handOver b 1).setRot F.AFE_ROTST_STEP firstStep) := by
  change execBsHandover t s = _
  simp only [execBsHandover, want, on, idle, sel, pd6, pd7, free, Bool.not_false, Bool.and_self, if_true]

theorem exec_bsGiveBack (due : (s.atTime t).rot.backDue = true) (serves : (s.atTime t).served < 8)
    (sel : (s.atTime t).atSel 8 = true) : exec (.bsGiveBack t) s = .next (s.atTime t).giveBack := by
  change execBsGiveBack t s = _
  simp only [execBsGiveBack, on, due, serves, sel, decide_true, Bool.and_self, if_true]

theorem exec_rotatingTestComplete (serves : (s.atTime t).served < 8) (runs : (s.atTime t).rotStep ≠ 0)
    (fresh : (s.atTime t).rot.backDue = false) : exec (.rotatingTestComplete r t) s = .next (
      if r.failStep = 0 then
        let u := ((s.atTime t).passTest (s.atTime t).served r).setRot F.AFE_ROTST_STEP 10
        u.setRotating { u.rot with backDue := true }
      else (s.atTime t).failTest (s.atTime t).served 2 r) := by
  change execRotatingTestComplete r t s = _
  simp only [execRotatingTestComplete, on, serves, bne_iff_ne.2 runs, fresh, decide_true, Bool.not_false, Bool.and_self,
    if_true]

theorem exec_bsSelfTestComplete (alone : (s.atTime t).served = 15) (runs : (s.atTime t).rotStep ≠ 0) :
    exec (.bsSelfTestComplete r t) s = .next (
      if r.failStep = 0 then
        let u := (((s.atTime t).passTest 8 r).setRot F.AFE_ROTST_STEP 0).setRot F.AFE_ROTST_BSSTATE 0
        u.setRotating { u.rot with lastBack := u.now }
      else (s.atTime t).failTest 8 3 r) := by
  change execBsSelfTestComplete r t s = _
  simp only [execBsSelfTestComplete, on, alone, bne_iff_ne.2 runs, beq_self_eq_true, Bool.and_self, if_true]

end

/-- The first failure, while BS still served a test, stops the rotation with E19 (R82). -/
theorem State.failTest_of_first {s : State} {b state : Nat} {r : TestResult} (testing : s.bsState ≤ 1) :
    s.failTest b state r = ((((s.setFailed b true).raise 0x17 b r.failData.toNat).setRot F.AFE_ROTST_STEP 0).setRot
      F.AFE_ROTST_BSSTATE state).raise 0x19 0 0 := by
  unfold State.failTest
  dsimp only
  rw [if_pos testing]

/-- In canonical form INTERVAL reads back as it was written, and a first one that is not 0 takes the free spare bank
(R79, R88). -/
theorem State.takeInterval_of_first {s : State} {v : Nat} (sound : s.sound = true) (nonzero : 0 < v) (fits : v < 65536)
    (off : s.rot.enabled = false)
    (free : (s.setFld R.AFE_ROTCTL F.AFE_ROTCTL_INTERVAL v).owner bsResource = 0) :
    s.takeInterval v =
      let u := (s.setFld R.AFE_ROTCTL F.AFE_ROTCTL_INTERVAL v).setOwner bsResource rotOwner
      ((u.setRotating { u.rot with enabled := true, lastBack := u.now }).noteLk).answer .ok := by
  have readBack : (s.setFld R.AFE_ROTCTL F.AFE_ROTCTL_INTERVAL v).fld R.AFE_ROTCTL F.AFE_ROTCTL_INTERVAL = v :=
    (State.fld_setFld_same sound (by decide)).trans (Nat.mod_eq_of_lt fits)
  have claims : (s.setFld R.AFE_ROTCTL F.AFE_ROTCTL_INTERVAL v).claimAll [bsResource] rotOwner =
      (true, (s.setFld R.AFE_ROTCTL F.AFE_ROTCTL_INTERVAL v).setOwner bsResource rotOwner) := by
    simp [State.claimAll, State.claimFree, free, foldS]
  have zero : ¬ v = 0 := by omega
  simp only [State.takeInterval, off, State.enableRotation, readBack, claims, if_neg zero, Bool.and_false,
    Bool.false_eq_true, if_false, if_true]

end Sys2Proof.Machine
end

section
/-! SUPPORT. The statements of the range pairs, the sample words and the rotation of the spare bank. -/

open Sys2Proof Sys2Proof.Machine

namespace Sys2Proof.Proofs

/-- Settles O5: the fields do not overlap, and 24 bits hold every value of the range. -/
theorem sampleWordFields : Obligations.SampleWordFields := by
  unfold Obligations.SampleWordFields
  intro quality tag straddle clamp subst v fits range low high
  obtain ⟨qualities, tags, straddles, clamps, substs, value⟩ :=
    mkSample_fields (straddle := straddle) (clamp := clamp) (subst := subst) (v := v) fits range
  refine ⟨qualities, tags, ?signed, getLsbD_of_bitsOf straddles, getLsbD_of_bitsOf clamps, getLsbD_of_bitsOf substs⟩
  case signed =>
    rw [swValue, value]
    exact signOf_unsignOf (k := 23) low (by omega)

theorem programPairs : Clauses.ProgramPairs := by
  unfold Clauses.ProgramPairs
  intro s₀ q n lo hi half k t sound₀ ready chan stands span
  dsimp only
  have sound : (s₀.atTime t).sound = true := (State.atTime_keeps (.refl s₀)).sound sound₀
  have place := State.scannedChan_lt chan
  have inUse : ((s₀.atTime t).threeWire n && half != (s₀.atTime t).seqHalf q) = false := by
    rcases stands with ⟨-, same⟩ | ⟨single, -⟩
    · simp [same]
    · simp [single]
  have has : (half && !(s₀.atTime t).threeWire n) = false := by
    rcases stands with ⟨three, -⟩ | ⟨-, first⟩
    · simp [three]
    · simp [first]
  refine ⟨fun low high => ⟨?set, ?fix⟩, fun out => ?refused, ?release⟩
  case set =>
    refine ⟨_, exec_pairSet_allowed ready chan has span low high, ?_, State.seqPc_after_changePair sound inUse place⟩
    exact congrArg HalfSt.pair (State.pair_changePair sound inUse)
  case fix =>
    have fixed := State.half_fixPair (k := k) sound inUse
    exact ⟨_, exec_pairFix_allowed ready chan has span low high, congrArg HalfSt.pair fixed,
      congrArg HalfSt.fixed fixed, State.seqPc_after_fixPair sound inUse place⟩
  case refused => exact ⟨exec_pairSet_refused ready chan has span out, exec_pairFix_refused ready chan has span out⟩
  case release =>
    have ended := State.half_releasePair (n := n) (half := half) sound
    exact ⟨_, exec_pairRelease ready chan has, congrArg HalfSt.fixed ended, (congrArg HalfSt.pair ended :),
      congrArg HalfSt.released ended⟩

theorem programConversions : Clauses.ProgramConversions := by
  unfold Clauses.ProgramConversions
  intro s₀ q n filt k last lo up exc comp cl t c sound₀ chan runs sent
  dsimp only
  have sound : (s₀.atTime t).sound = true := (State.atTime_keeps (.refl s₀)).sound sound₀
  have on : (s₀.atTime t).islandOn 4 = true := by
    simp only [State.seqRuns, Bool.and_eq_true] at runs
    exact runs.1.1
  have ready (wait : ((s₀.atTime t).seq q).wait = .none) : (s₀.atTime t).seqReady q = true :=
    State.seqReady_iff.2 ⟨runs, wait, sent⟩
  refine ⟨fun wait zero => ?cnvZero, fun wait nonzero => ?cnv, fun cnv more due wait => ?result,
    fun wait idle => ?putNone, fun wait cnv empty more => ?putWaits, fun r wait cnv newest takes => ?putTakes⟩
  case cnvZero => rw [exec_cnv (ready wait) chan, if_pos zero]
  case cnv =>
    rw [exec_cnv (ready wait) chan, if_neg nonzero]
    exact ⟨_, rfl, State.after_doCnv sound (State.scannedChan_lt chan)⟩
  case result =>
    rw [exec_conversionResult chan on cnv more due, State.result_of_no_wait sound wait]
    rfl
  case putNone => rw [exec_put (ready wait) chan, State.doPut_of_no_cnv idle]; rfl
  case putWaits => rw [exec_put (ready wait) chan, State.doPut_of_no_result cnv empty more]; rfl
  case putTakes => rw [exec_put (ready wait) chan, State.doPut_of_result cnv newest takes]; rfl

/-- Settles O35: the two families of clauses. -/
theorem pairsAndConversions : Obligations.PairsAndConversions := ⟨programPairs, programConversions⟩

/-- The clauses about the tests hold of every state, in canonical form or not. The layout of the data of E1A is log 78. -/
theorem rotatingTests : Clauses.RotatingTests := by
  unfold Clauses.RotatingTests
  intro s₀ r b t on
  dsimp only
  refine ⟨exec_bsHandover on, exec_bsGiveBack on, fun serves runs fresh => ?bank, fun alone runs => ?spare⟩
  case bank =>
    rw [exec_rotatingTestComplete on serves runs fresh]
    refine ⟨fun pass => ?passed, fun fail testing => ?failed⟩
    case passed =>
      rw [if_pos pass, State.passTest, State.notePass_eq]
      rfl
    case failed =>
      rw [if_neg fail, State.failTest_of_first (Nat.le_of_eq testing)]
      rfl
  case spare =>
    rw [exec_bsSelfTestComplete on alone runs]
    exact ⟨fun pass => congrArg _ (if_pos pass), fun fail => congrArg _ (if_neg fail)⟩

/-- PD4 works and the lock is open; rotation is stopped by an INTERVAL of 0. AFE_ROTCTL is listed twice, which it is in no
list in canonical form (State.sound). -/
def twoIntervals : State :=
  { State.reset with
    regs := [(R.SYS_LOCK, fldMask F.SYS_LOCK_OPEN), (R.PWR_DOM, 0x7FF), (R.CLK_LOCK, 0x7FFF), (R.AFE_ROTCTL, 0),
      (R.AFE_ROTCTL, 0)] }

/-- INTERVAL 600 leaves AFE_ROTCTL at its reset word, so that its first entry goes; the second, with INTERVAL 0, shows, and
rotation stays off. -/
theorem twoIntervals_rotctlInterval :
    ∃ u, exec (.rotctlInterval .host 600 0) twoIntervals = .next u ∧ u.rot.enabled = false :=
  ⟨_, rfl, by decide +kernel⟩

/-- Refutes O32: an INTERVAL of 600 s written to twoIntervals fails it. The clauses of the requests do not ask that the
registers stand in canonical form; where they do, the write starts rotation as the clause says
(State.takeInterval_of_first). The clauses of the tests hold (rotatingTests). -/
theorem not_rotationRequestsAndTests : ¬ Obligations.RotationRequestsAndTests := by
  unfold Obligations.RotationRequestsAndTests Clauses.RotationRequests
  rintro ⟨requests, -⟩
  obtain ⟨-, -, -, -, interval⟩ := requests twoIntervals .host 0 0 0 600
  obtain ⟨-, -, starts, -⟩ := interval (by decide +kernel) (by decide +kernel)
  have claimed := starts (by decide) rfl (by decide +kernel)
  obtain ⟨u, runs, stays⟩ := twoIntervals_rotctlInterval
  rw [runs] at claimed
  rw [Host.Outcome.next.inj claimed] at stays
  exact absurd stays (by decide)

end Sys2Proof.Proofs
end

section
/-! SUPPORT. The rules of the control words of a channel program, of the ends of its waits, and of the host's control of a
sequencer (R92, R95, R96, R101-R104, R111, R112). -/

namespace Sys2Proof.Machine

/-! ### What an instruction leaves -/

/-- A write leaves the entries of later keys, in a table of any form. -/
theorem tabGet_tabSet_of_lt {α : Type} [DecidableEq α] {d : Nat → α} {m : List (Nat × α)} {j k : Nat} {v : α}
    (later : k < j) : tabGet d (tabSet d m k v) j = tabGet d m j := by
  have other : j ≠ k := Nat.ne_of_gt later
  have notBelow : ¬ j < k := Nat.not_lt_of_gt later
  induction m with
  | nil => by_cases e : v = d k <;> simp [tabSet, tabGet, e, other, notBelow]
  | cons e m ih =>
    obtain ⟨k', v'⟩ := e
    rcases Nat.lt_trichotomy k k' with below | same | above
    · by_cases e : v = d k <;> simp [tabSet, tabGet, e, below, other, notBelow]
    · subst same
      by_cases e : v = d k <;> simp [tabSet, tabGet, e, other, notBelow]
    · simp [tabSet, tabGet, ih, Nat.ne_of_gt above, Nat.not_lt_of_gt above]

/-- Going on leaves SEQ_FAULT, whose address is above that of SEQ_PC. -/
theorem State.rd_SEQ_FAULT_seqNext (s : State) (q : Nat) : (s.seqNext q).rd (R.SEQ_FAULT q) = s.rd (R.SEQ_FAULT q) :=
  tabGet_tabSet_of_lt (by simp only [R.SEQ_PC, R.SEQ_FAULT]; omega)

@[simp] theorem State.seqReady_atTime (s : State) (t : Time) (q : Nat) : (s.atTime t).seqReady q = s.seqReady q := rfl

/-! ### HALT, JMP, LOOP, STL, WAITT (R95, R101, R103) -/

/-- What the counter of a LOOP holds once it has counted down (R101). -/
def State.loopLeft (s : State) (q c n : Nat) : Nat := (if (s.loopCtr q c).1 then (s.loopCtr q c).2 else n) - 1

theorem State.doLoop_back {s : State} {q c tgt n : Nat} (more : 0 < s.loopLeft q c n) :
    s.doLoop q c tgt n = (s.setLoopCtr q c (true, s.loopLeft q c n)).seqGo q tgt := if_pos more

theorem State.doLoop_through {s : State} {q c tgt n : Nat} (done : s.loopLeft q c n = 0) :
    s.doLoop q c tgt n = (s.setLoopCtr q c (false, 0)).seqNext q := if_neg (Nat.not_lt.2 (Nat.le_of_eq done))

section
variable {s : State} {q : Fin 9} (ready : s.seqReady q = true)
include ready

theorem exec_halt : exec (.halt q) s = .next (s.setSeqState q stHalted) := congrArg _ (if_pos ready)

theorem exec_jmp {tgt : BitVec 9} : exec (.jmp q tgt) s = .next (s.seqGo q tgt.toNat) := congrArg _ (if_pos ready)

theorem exec_loop {ctr : Fin 4} {tgt : BitVec 9} {n : Fin 257} :
    exec (.loop q ctr tgt n) s = .next (s.doLoop q ctr tgt.toNat n) := congrArg _ (if_pos ready)

theorem exec_stl {n : BitVec 16} {t : Time} : exec (.stl q n t) s = .next (if n.toNat = 0 then (s.atTime t).seqNext q
    else (s.atTime t).seqWait q (.stl ((s.atTime t).now + n.toNat * 10000))) := by
  change execStl q n t s = _
  simp only [execStl, State.seqReady_atTime, ready, Bool.not_true, Bool.false_eq_true, if_false]
  rfl

theorem exec_waitt {i : Fin 16} : exec (.waitt q i) s =
    .next (if s.pend q i then (s.setPend q i false).seqNext q else s.seqWait q (.waitt i)) := by
  change execWaitt q i s = _
  simp only [execWaitt, ready, Bool.not_true, Bool.false_eq_true, if_false]

end

/-! ### Words with no effect (R102) -/

section
variable {s : State} {q : Fin 9} {n : Nat} (chan : s.scannedChan q = some n) (single : s.threeWire n = false)
include chan single

theorem State.doPair_of_single {k : Nat} {f : State → Nat → State} : s.doPair q true k f = s := by
  simp [State.doPair, chan, single]

theorem exec_pairRelease_of_single (ready : s.seqReady q = true) :
    exec (.pairRelease q true) s = .next (s.seqNext q) := by
  change execPairRelease q true s = _
  simp [execPairRelease, ready, chan, single]

end

section
variable {s : State} {q : Fin 9} {n : Nat} {k : Fin 5} {t : Time} (ready : (s.atTime t).seqReady q = true)
  (chan : (s.atTime t).scannedChan q = some n) (single : (s.atTime t).threeWire n = false)
include ready chan single

theorem exec_pairSet_of_single : exec (.pairSet q true k t) s = .next ((s.atTime t).seqNext q) := by
  change execPairSet q true k t s = _
  simp only [execPairSet, ready, State.doPair_of_single chan single, Bool.not_true, Bool.false_eq_true, if_false]

theorem exec_pairFix_of_single : exec (.pairFix q true k t) s = .next ((s.atTime t).seqNext q) := by
  change execPairFix q true k t s = _
  simp only [execPairFix, ready, State.doPair_of_single chan single, Bool.not_true, Bool.false_eq_true, if_false]

end

theorem State.doExc_of_no_source {s : State} {q n term iexc : Nat} {src : Bool}
    (sourceless : usesCurrent (s.chanType n) = false) : s.doExc q n src term iexc = s := by
  unfold State.doExc
  exact if_pos (by simp [sourceless])

/-! ### The waits of STL, SEL and SYNC end (R95, R96, R104) -/

section
variable {s : State} {q : Fin 9} {t due : Time} {sets : BitVec 15} {pos : Fin 17} {id : BitVec 3} {mask : BitVec 8}
  (runs : (s.atTime t).seqRuns q = true)
include runs

theorem exec_stlWaitEnd (wait : ((s.atTime t).seq q).wait = .stl due) (come : due ≤ (s.atTime t).now) :
    exec (.stlWaitEnd q t) s = .next ((s.atTime t).seqResume q) := by
  change execStlWaitEnd q t s = _
  simp only [execStlWaitEnd, wait, runs, come, decide_true, Bool.and_self, if_true]

theorem exec_selSpacingEnd (wait : ((s.atTime t).seq q).wait = .sel sets pos)
    (spaced : (s.atTime t).selSpaced q = true) :
    exec (.selSpacingEnd q t) s = .next ((s.atTime t).doSel q sets.toNat pos) := by
  change execSelSpacingEnd q t s = _
  simp only [execSelSpacingEnd, wait, runs, spaced, Bool.and_self, if_true]

theorem exec_syncTimeout (wait : ((s.atTime t).seq q).wait = .sync id mask due)
    (come : due ≤ (s.atTime t).now) :
    exec (.syncTimeout q t) s = .next (((s.atTime t).countSyncTo q).seqResume q) := by
  change execSyncTimeout q t s = _
  simp only [execSyncTimeout, wait, runs, come, decide_true, Bool.and_self, if_true]

end

theorem State.syncMet_of_all {s : State} {q : Nat} {id : BitVec 3} {mask : BitVec 8} {due : Time}
    (runs : s.seqRuns q = true) (wait : (s.seq q).wait = .sync id mask due)
    (all : ∀ b : Fin 8, mask.getLsbD b = true → s.atSync (s.server b) id = true) : s.syncMet q id = true := by
  have here : s.atSync q id = true := by simp [State.atSync, runs, wait]
  have named : ∀ b < 8, mask.getLsbD b = true → s.atSync (s.server b) id = true := fun b inside => all ⟨b, inside⟩
  simpa [State.syncMet, wait, here, Classical.or_iff_not_imp_left] using named

/-- Of the numbers below `n`, the only one that passes. -/
theorem filter_range_of_unique {n : Nat} {p : Nat → Bool} (q : Fin n) (passes : p q = true)
    (others : ∀ r : Fin n, r ≠ q → p r = false) : (List.range n).filter p = [q.val] := by
  have same : ∀ r ∈ List.range n, p r = (r == q.val) := fun r inside => by
    by_cases here : r = q.val
    · simp [here, passes]
    · have fails : p r = false := others ⟨r, List.mem_range.1 inside⟩ (fun e => here (congrArg Fin.val e))
      simp [here, fails]
  rw [List.filter_congr same, List.filter_beq, List.count_eq_one_of_mem List.nodup_range (List.mem_range.2 q.isLt)]
  rfl

/-- One program alone leaves its SYNC. -/
theorem exec_syncRelease_of_unique {s : State} {q : Fin 9} {id : BitVec 3} (met : s.syncMet q id = true)
    (others : ∀ r : Fin 9, r ≠ q → s.syncMet r id = false) : exec (.syncRelease id) s = .next (s.seqResume q) := by
  change Host.Outcome.next (foldS State.seqResume s ((List.range 9).filter fun r => s.syncMet r id)) = _
  rw [filter_range_of_unique q met others]
  rfl

theorem exec_sync {s : State} {q : Fin 9} {tmo mask : BitVec 8} {id : BitVec 3} {t : Time}
    (ready : (s.atTime t).seqReady q = true) (own : mask.getLsbD ((s.atTime t).seqBank q) = true) :
    exec (.sync q tmo id mask t) s =
      .next ((s.atTime t).seqWait q (.sync id mask ((s.atTime t).now + (tmo.toNat + 1) * 1000000))) := by
  change execSync q tmo id mask t s = _
  simp only [execSync, ready, own, Bool.not_true, Bool.false_eq_true, if_false]
  rfl

/-! ### START of a sequencer (R111, R112) -/

/-- The sequencer of a checked program as START sets it up: its timers claimed, no tick pending, its counters inactive. -/
def State.takeProgram (s : State) (q : Nat) : State :=
  let u := foldS (fun s i => s.setOwner (48 + i) (seqOwner q)) s (s.progTimers q)
  let u := u.setSeq q { seqReset with
    lastSel := (u.seq q).lastSel, stamp := (u.seq q).stamp, settledAt := (u.seq q).settledAt }
  (u.setFld (R.SEQ_TMR q) F.SEQ_TMR_PEND 0).setFld (R.SEQ_TMR q) F.SEQ_TMR_CLAIM
    ((s.progTimers q).foldl (fun m i => m + 2 ^ i) 0)

/-- The sequencer runs from 0x000, in the first half. -/
def State.runFromTop (s : State) (q : Nat) : State :=
  (((s.setSeqState q stRunning).seqWait q .none).seqGo q 0).setFlag (R.SEQ_PC q) F.SEQ_PC_HALF false

theorem State.startSeq_of_no_fault {s : State} {q : Nat} (clean : s.firstFault q = none) :
    s.startSeq q = (.ok, (s.takeProgram q).runFromTop q) := by
  unfold State.startSeq
  rw [clean]
  rfl

theorem State.startSeq_of_fault {s : State} {q a : Nat} {r : Status} (fault : s.firstFault q = some (a, r)) :
    s.startSeq q = (r, s.refuseProg q a r) := by
  unfold State.startSeq
  rw [fault]

section
variable {s : State} {q : Nat} (sound : s.sound = true)
include sound

theorem State.takeProgram_sound : (s.takeProgram q).sound = true :=
  (State.setFld_keeps (State.setFld_keeps (State.setSeq_keeps
    (foldS_keeps (.refl s) fun _ _ => State.setOwner_keeps (.refl _))))).sound sound

theorem State.after_runFromTop :
    (s.runFromTop q).seqState q = 0 ∧ (s.runFromTop q).seqPc q = 0 ∧ (s.runFromTop q).seqHalf q = false := by
  have apart : R.SEQ_CTL q ≠ R.SEQ_PC q := by simp only [R.SEQ_CTL, R.SEQ_PC]; omega
  have running : (s.setSeqState q stRunning).sound = true := (State.setFld_keeps (.refl s)).sound sound
  have waitless : ((s.setSeqState q stRunning).setSeq q _).sound = true :=
    State.setSeq_sound (x := { (s.setSeqState q stRunning).seq q with wait := .none }) running
  have idle : ((s.setSeqState q stRunning).seqWait q .none).sound = true := State.seqWait_sound running
  have top : (((s.setSeqState q stRunning).seqWait q .none).seqGo q 0).sound = true :=
    (State.setFld_keeps (.refl _)).sound idle
  refine ⟨?state, ?pc, State.seqHalf_setHalf (q := q) top⟩
  case state =>
    calc (s.runFromTop q).seqState q
      _ = (((s.setSeqState q stRunning).seqWait q .none).seqGo q 0).seqState q := State.fld_wr_ne top apart
      _ = ((s.setSeqState q stRunning).seqWait q .none).seqState q := State.fld_wr_ne idle apart
      _ = (s.setSeqState q stRunning).seqState q := State.fld_wr_ne waitless apart
      _ = 0 := State.fld_setFld_same sound (by decide)
  case pc => exact (State.seqPc_setHalf (q := q) top).trans (State.fld_setFld_same idle (by decide))

end

/-! ### The host's commands and edits (R112, R116) -/

theorem exec_seqStop (p : Port) (q : Fin 9) (t : Time) (s : State) :
    exec (.seqStop p q t) s = .next ((s.atTime t).seqStopOp q) := rfl

theorem exec_seqStart (p : Port) (q : Fin 9) (t : Time) (s : State) :
    exec (.seqStart p q t) s = .next ((s.atTime t).seqStartOp q) := rfl

theorem exec_seqStoreWrite (p : Port) (q : Fin 9) (a : BitVec 9) (w : Word) (t : Time) (s : State) :
    exec (.seqStoreWrite p q a w t) s = .next ((s.atTime t).seqStoreOp q a.toNat w) := rfl

theorem State.seqState_noteLk_answer (s : State) (r : Status) (q : Nat) :
    (s.noteLk.answer r).seqState q = s.seqState q := rfl

theorem State.seqPc_noteLk_answer (s : State) (r : Status) (q : Nat) : (s.noteLk.answer r).seqPc q = s.seqPc q := rfl

theorem State.seqHalf_noteLk_answer (s : State) (r : Status) (q : Nat) : (s.noteLk.answer r).seqHalf q = s.seqHalf q := rfl

section
variable {s : State} {q : Nat} (on : s.powered 4 = true) (unlocked : s.lockOpen = true) (bank : q ≠ 8)
include on unlocked bank

theorem State.seqStopOp_of_not_lent (own : s.seqState q ≠ 3) : s.seqStopOp q = (s.stopSeq q).noteLk.answer .ok := by
  simp [State.seqStopOp, on, unlocked, bank, stLent, own]

theorem State.seqStartOp_of_stopped (stopped : s.seqState q = 2) :
    s.seqStartOp q = (s.startSeq q).2.noteLk.answer (s.startSeq q).1 := by
  simp [State.seqStartOp, on, unlocked, bank, stStopped, stopped]

theorem State.seqStoreOp_of_stopped {a : Nat} {w : Word} (stopped : s.seqState q = 2) : s.seqStoreOp q a w =
    ((s.setFld (R.SEQ_PROG q a) F.SEQ_PROG_INSTR (w.toNat % 16777216)).setFlag (R.SEQ_CTL q) F.SEQ_CTL_EDITED
      true).noteLk.answer .ok := by
  simp [State.seqStoreOp, on, unlocked, bank, stStopped, stopped]

theorem State.seqStoreOp_of_not_stopped {a : Nat} {w : Word} (other : s.seqState q ≠ 2) :
    s.seqStoreOp q a w = s.answer .state := by
  simp [State.seqStoreOp, on, unlocked, bank, stStopped, other]

end

end Sys2Proof.Machine
end

section
/-! SUPPORT. The statements of the scan sequencers: control flow, waits, loading, and the words with no effect. -/

open Sys2Proof Sys2Proof.Machine

namespace Sys2Proof.Proofs

theorem programFlow : Clauses.ProgramFlow := by
  unfold Clauses.ProgramFlow
  intro s₀ q tgt ctr n m i t ready
  dsimp only
  refine ⟨exec_halt ready, exec_jmp ready, fun more => ?back, fun done => ?through, fun zero => ?goesOn,
    fun nonzero => ?settles, fun ticked => ?takes, fun clear => ?waits⟩
  case back => exact (exec_loop ready).trans (congrArg _ (State.doLoop_back more))
  case through => exact (exec_loop ready).trans (congrArg _ (State.doLoop_through done))
  case goesOn => exact (exec_stl ready).trans (congrArg _ (if_pos zero))
  case settles => exact (exec_stl ready).trans (congrArg _ (if_neg nonzero))
  case takes => exact (exec_waitt ready).trans (congrArg _ (if_pos ticked))
  case waits => exact (exec_waitt ready).trans (congrArg _ (if_neg (by simp [clear])))

theorem programWaitsEnd : Clauses.ProgramWaitsEnd := by
  unfold Clauses.ProgramWaitsEnd
  intro s₀ q t due sets pos id mask
  exact ⟨exec_stlWaitEnd, exec_selSpacingEnd, exec_syncTimeout, fun _ ⟨runs, wait, all⟩ others =>
    exec_syncRelease_of_unique (State.syncMet_of_all runs wait all) others⟩

/-- That START begins in the first half is log 78. -/
theorem programLoadAndSync : Clauses.ProgramLoadAndSync := by
  unfold Clauses.ProgramLoadAndSync
  intro s₀ p q tmo id mask a w t
  dsimp only
  refine ⟨exec_sync, fun on unlocked bank own => ?stops, fun on unlocked bank stopped =>
    ⟨fun clean => ?starts, fun f r fault => ?refused, ?edits⟩, fun on unlocked bank other => ?barred⟩
  case stops => exact (exec_seqStop p q t s₀).trans (congrArg _ (State.seqStopOp_of_not_lent on unlocked bank own))
  case starts =>
    refine ⟨_, exec_seqStart p q t s₀, ?_⟩
    rw [State.seqStartOp_of_stopped on unlocked bank stopped, State.startSeq_of_no_fault clean]
    refine ⟨rfl, fun sound₀ => ?_⟩
    rw [State.seqState_noteLk_answer, State.seqPc_noteLk_answer, State.seqHalf_noteLk_answer]
    exact State.after_runFromTop (State.takeProgram_sound ((State.atTime_keeps (.refl s₀)).sound sound₀))
  case refused =>
    rw [exec_seqStart, State.seqStartOp_of_stopped on unlocked bank stopped, State.startSeq_of_fault fault]
    rfl
  case edits =>
    exact (exec_seqStoreWrite p q a w t s₀).trans (congrArg _ (State.seqStoreOp_of_stopped on unlocked bank stopped))
  case barred =>
    exact (exec_seqStoreWrite p q a w t s₀).trans (congrArg _ (State.seqStoreOp_of_not_stopped on unlocked bank other))

/-- Settles O33: the three families of clauses. -/
theorem programControl : Obligations.ProgramControl := ⟨programFlow, programWaitsEnd, programLoadAndSync⟩

/-- Settles O12: each word leaves the state to the next address, whose write reaches neither the sequencers' records nor
SEQ_FAULT nor the recorder. -/
theorem programWordsWithNoEffect : Obligations.ProgramWordsWithNoEffect := by
  unfold Obligations.ProgramWordsWithNoEffect
  intro s₀ q n src term iexc set2 k t ready chan
  dsimp only
  refine ⟨fun single => ⟨?swap, exec_pairSet_of_single ready chan single, exec_pairFix_of_single ready chan single,
    exec_pairRelease_of_single chan single ready⟩, fun sourceless level => ?source,
    rfl, State.rd_SEQ_FAULT_seqNext _ q, rfl⟩
  case swap =>
    rw [exec_swp ready chan, if_neg (by simp [single])]
    rfl
  case source =>
    rw [exec_exc ready chan level, State.doExc_of_no_source sourceless]
    rfl

end Sys2Proof.Proofs
end

section
/-! SUPPORT. The rules of the limit entries: their conditions (R120), the crossing's next word (R127, R374), the delays
(R124), the inhibits (R126), the scrub (R136) and the staging commands (R139). -/

namespace Sys2Proof.Machine

/-! ### Conditions (R120) -/

/-- A condition is set at its first level, and keeps its value until its second is passed. -/
theorem hysteresis_eq {set clear old : Bool} : hysteresis set clear old = (set || (old && !clear)) := by
  cases set <;> cases clear <;> cases old <;> rfl

theorem hysteresis_upward {v set clear : Int} {old : Bool} :
    hysteresis (set ≤ v) (v < clear) old = (decide (set ≤ v) || (old && decide (clear ≤ v))) := by
  rw [hysteresis_eq, ← decide_not, decide_eq_decide.2 Int.not_lt]

theorem hysteresis_downward {v set clear : Int} {old : Bool} :
    hysteresis (v ≤ set) (clear < v) old = (decide (v ≤ set) || (old && decide (v ≤ clear))) := by
  rw [hysteresis_eq, ← decide_not, decide_eq_decide.2 Int.not_lt]

theorem dist_eq_abs (a b : Int) : dist a b = |a - b| := Int.natCast_natAbs _

section
variable {x : Ent} {v th hys : Int} {old : Bool}

theorem valueCond_high (type : x.type = 0 ∨ x.type = 2) :
    valueCond x v old = (decide (x.th ≤ v) || (old && decide (x.th - x.hys ≤ v))) := by
  rcases type with hi | hihi
  · simp only [valueCond, hi, hysteresis_upward]
  · simp only [valueCond, hihi, hysteresis_upward]

theorem valueCond_low (type : x.type = 1 ∨ x.type = 3) :
    valueCond x v old = (decide (v ≤ x.th) || (old && decide (v ≤ x.th + x.hys))) := by
  rcases type with lo | lolo
  · simp only [valueCond, lo, hysteresis_downward]
  · simp only [valueCond, lolo, hysteresis_downward]

theorem valueCond_band (type : x.type = 4) : valueCond x v old =
    (decide ((x.param : Int) ≤ |v - x.th|) || (old && decide ((x.param : Int) - x.hys ≤ |v - x.th|))) := by
  simp only [valueCond, type, hysteresis_upward, dist_eq_abs]

theorem signedCond_of_pos (rising : 0 < th) :
    signedCond th hys v old = (decide (th ≤ v) || (old && decide (th - hys ≤ v))) :=
  (if_pos rising).trans hysteresis_upward

theorem signedCond_of_neg (falling : th < 0) :
    signedCond th hys v old = (decide (v ≤ th) || (old && decide (v ≤ th + hys))) :=
  (if_neg (Int.not_lt.2 (Int.le_of_lt falling))).trans hysteresis_downward

end

/-! ### The next word of the crossing (R127, R374) -/

section
variable {s : State} {t : Time} {x : InWord} {l : List InWord} (on : (s.atTime t).almOn = true)
  (next : (s.atTime t).lim.inbox = x :: l)
include on next

theorem exec_limitEvaluate : exec (.limitEvaluate t) s = .next (
    let u := (s.atTime t).setLim { (s.atTime t).lim with inbox := l }
    if (s.atTime t).sup.alarmReady then u.takeWord x else u.keepEarly x) := by
  change execLimitEvaluate t s = _
  simp only [execLimitEvaluate, on, next, Bool.not_true, Bool.false_eq_true, if_false]
  rfl

theorem exec_limitEvaluate_of_ready (ready : (s.atTime t).sup.alarmReady = true) : exec (.limitEvaluate t) s =
    .next (((s.atTime t).setLim { (s.atTime t).lim with inbox := l }).takeWord x) :=
  (exec_limitEvaluate on next).trans (congrArg _ (if_pos ready))

theorem exec_limitEvaluate_before_ready (early : (s.atTime t).sup.alarmReady = false) : exec (.limitEvaluate t) s =
    .next (((s.atTime t).setLim { (s.atTime t).lim with inbox := l }).keepEarly x) :=
  (exec_limitEvaluate on next).trans (congrArg _ (if_neg (ne_true_of_eq_false early)))

end

/-! ### Delays (R124, R125) -/

theorem exec_delayDue {s : State} {e : Fin 2048} {t : Time} (on : (s.atTime t).almOn = true) :
    exec (.delayDue e t) s = .next ((s.atTime t).walk e) := congrArg _ (if_pos on)

section
variable {s : State} {e : Nat} {o : Time}

/-- An entry with an uncorrectable error holds its state (R136). -/
theorem State.walk_of_error (error : s.flag (R.LIM_STATE e) F.LIM_STATE_ECCERR = true) : s.walk e = s := if_pos error

variable (sane : s.flag (R.LIM_STATE e) F.LIM_STATE_ECCERR = false)
include sane

theorem State.walk_of_onDelay (began : (s.entSt e).onFrom = some o)
    (due : s.delayDue (max (o + (s.ent e).onDelay) (s.entSt e).editAt) = true)
    (cond : s.flag (R.LIM_STATE e) F.LIM_STATE_COND = true) (inactive : s.entryAct e = false) :
    s.walk e = s.setAct e true false := by
  have isDue : s.isDue (s.entSt e).onFrom (s.ent e).onDelay (s.entSt e).editAt = true := by rw [began]; exact due
  simp [State.walk, sane, isDue, cond, inactive]

theorem State.walk_of_offDelay (still : (s.entSt e).onFrom = none) (began : (s.entSt e).offFrom = some o)
    (due : s.delayDue (max (o + (s.ent e).offDelay) (s.entSt e).editAt) = true)
    (cond : s.flag (R.LIM_STATE e) F.LIM_STATE_COND = false) (active : s.entryAct e = true) :
    s.walk e = s.setAct e false false := by
  have notDue : s.isDue (s.entSt e).onFrom (s.ent e).onDelay (s.entSt e).editAt = false := by rw [still]; rfl
  have isDue : s.isDue (s.entSt e).offFrom (s.ent e).offDelay (s.entSt e).editAt = true := by rw [began]; exact due
  simp [State.walk, sane, notDue, isDue, cond, active]

end

/-! ### Inhibits (R126) -/

section
variable {s : State} {i : Nat} {on : Bool}

theorem State.setEffective_of_same (same : s.inhEffective i = on) : s.setEffective i on = s :=
  if_pos (beq_iff_eq.2 same)

theorem State.setEffective_of_change (change : s.inhEffective i ≠ on) : s.setEffective i on =
    (s.inhEntries i).foldl State.followInh ((s.setAbit (R.LIM_INHEFF 0) i on).raise 0x22 i on.toNat) :=
  if_neg (mt beq_iff_eq.1 change)

theorem State.inhibitBit_of_beyond (beyond : 64 ≤ i) : s.inhibitBit i on = s.answer .address := if_pos beyond

theorem State.inhibitBit_set (inside : i < 64) : s.inhibitBit i true =
    (((s.setAbit (R.LIM_INH 0) i true).setRelease i none).setEffective i true).answer .ok :=
  if_neg (Nat.not_le.2 inside)

section
variable (inside : i < 64) (was : s.abit (R.LIM_INH 0) i = true)
include inside was

theorem State.inhibitBit_clear : s.inhibitBit i false =
    (let u := s.setAbit (R.LIM_INH 0) i false
    if u.inhDelay i = 0 then u.setEffective i false else u.setRelease i (some s.now)).answer .ok := by
  simp only [State.inhibitBit, Nat.not_le.2 inside, was, Bool.false_eq_true, if_false, if_true]
  rfl

theorem State.inhibitBit_clear_at_once (undelayed : (s.setAbit (R.LIM_INH 0) i false).inhDelay i = 0) :
    s.inhibitBit i false = ((s.setAbit (R.LIM_INH 0) i false).setEffective i false).answer .ok :=
  (State.inhibitBit_clear inside was).trans (congrArg (State.answer · .ok) (if_pos undelayed))

theorem State.inhibitBit_clear_delayed (delay : (s.setAbit (R.LIM_INH 0) i false).inhDelay i ≠ 0) :
    s.inhibitBit i false = ((s.setAbit (R.LIM_INH 0) i false).setRelease i (some s.now)).answer .ok :=
  (State.inhibitBit_clear inside was).trans (congrArg (State.answer · .ok) (if_neg delay))

end

end

/-- That the release lasts as LIM_INHDLY says when it ends is log 78. -/
theorem exec_inhibitReleaseExpiry_of_due {s : State} {n : Fin 64} {t from_ : Time} (on : (s.atTime t).almOn = true)
    (began : tabGet (dflt none) (s.atTime t).lim.release n = some from_)
    (due : (s.atTime t).delayDue (from_ + (s.atTime t).inhDelay n) = true)
    (clear : (s.atTime t).abit (R.LIM_INH 0) n = false) :
    exec (.inhibitReleaseExpiry n t) s = .next (((s.atTime t).setRelease n none).setEffective n false) := by
  have isDue : (s.atTime t).isDue (tabGet (dflt none) (s.atTime t).lim.release n) ((s.atTime t).inhDelay n) 0 = true := by
    rw [began]
    exact (congrArg (s.atTime t).delayDue (Nat.max_zero _)).trans due
  exact congrArg _ (if_pos (by rw [on, isDue, clear]; rfl))

/-! ### Scrubbing (R136) -/

section
variable {s : State} {e : Fin 2048}

theorem exec_limitScrub_clean : exec (.limitScrub e .clean) s = .next s := by
  change execLimitScrub e .clean s = _
  simp [execLimitScrub]

variable (on : s.almOn = true)
include on

theorem exec_limitScrub_corrected : exec (.limitScrub e .corrected) s =
    .next ((s.addFld R.LIM_STAT F.LIM_STAT_ECCC 1).raise 0x23 e 0) := by
  change execLimitScrub e .corrected s = _
  simp [execLimitScrub, on]

theorem exec_limitScrub_uncorrectable : exec (.limitScrub e .uncorrectable) s =
    .next (((s.setFlag (R.LIM_STATE e) F.LIM_STATE_ECCERR true).raise 0x24 e 0).needCycle 4 1) := by
  change execLimitScrub e .uncorrectable s = _
  simp [execLimitScrub, on]

end

/-! ### A staging command (R139) -/

/-- A staging command is accepted and waits for its check. -/
def State.awaitCheck (s : State) (func idx : Nat) : State :=
  (((s.setFlag R.LIM_STGST F.LIM_STGST_BUSY true).setLim { s.lim with staged := some (func, idx) }).noteLk).answer .ok

section
variable {s : State} {func idx : Nat} (powered : s.powered 4 = true)
include powered

theorem State.stageCommand_of_locked (locked : s.lockOpen = false) : s.stageCommand func idx = s.answer .denied := by
  simp [State.stageCommand, powered, locked]

variable (unlocked : s.lockOpen = true)
include unlocked

theorem State.stageCommand_of_busy (busy : s.flag R.LIM_STGST F.LIM_STGST_BUSY = true) :
    s.stageCommand func idx = s.answer .busy := by simp [State.stageCommand, powered, unlocked, busy]

variable (idle : s.flag R.LIM_STGST F.LIM_STGST_BUSY = false)
include idle

theorem State.stageCommand_of_beyond (beyond : func = 2 ∧ 256 ≤ idx ∨ func = 3 ∧ 64 ≤ idx) : s.stageCommand func idx =
    (s.setFld R.LIM_STGST F.LIM_STGST_STAT Status.range.code).answer .range := by
  simp [State.stageCommand, powered, unlocked, idle, beyond]

theorem State.stageCommand_of_inside (inside : ¬ (func = 2 ∧ 256 ≤ idx ∨ func = 3 ∧ 64 ≤ idx)) :
    s.stageCommand func idx = s.awaitCheck func idx := by
  simp only [State.stageCommand, powered, unlocked, idle, inside, Bool.not_true, Bool.false_eq_true, if_false]
  rfl

end

/-! ### The check of what was staged (R139) -/

/-- The check of a staging command ends with status `r`, which LIM_STGST takes. -/
def State.endCheck (u : State) (r : Status) : State :=
  (u.setLim { u.lim with staged := none }).wr R.LIM_STGST (BitVec.ofNat 32 r.code)

section
variable {s : State} {k : Nat} {x : Ent}

theorem State.stageEntry_of_invalid (invalid : s.entValid k x = false) : s.stageEntry k x = (.range, s) := by
  simp [State.stageEntry, invalid]

theorem State.stageEntry_of_claimed (valid : s.entValid k x = true) (claimed : s.owner (65 + k / 128) = 0x22) :
    s.stageEntry k x = (.claim, s) := by simp [State.stageEntry, valid, claimed]

theorem State.stageEntry_of_free (valid : s.entValid k x = true) (free : s.owner (65 + k / 128) ≠ 0x22) :
    s.stageEntry k x = (.ok, (s.replaceEntry k x).noteStaged k) := by simp [State.stageEntry, valid, free]

end

theorem exec_limStageApply {s : State} {t : Time} (on : (s.atTime t).almOn = true) :
    exec (.limStageApply t) s = .next (s.atTime t).stageApply := congrArg _ (if_pos on)

/-- The entry that stands in LIM_STG. -/
def State.stagedEnt (s : State) : Ent := ⟨s.rd (R.LIM_STG 0), s.rd (R.LIM_STG 1), s.rd (R.LIM_STG 2), s.rd (R.LIM_STG 3)⟩

section
variable {s : State} {k : Nat}

theorem State.stageApply_entry {r : Status × State} (staged : s.lim.staged = some (1, k))
    (result : s.stageEntry k s.stagedEnt = r) : s.stageApply = r.2.endCheck r.1 := by
  rw [State.stageApply, staged, ← result]
  rfl

theorem State.stageApply_index (staged : s.lim.staged = some (2, k)) : s.stageApply =
    (s.stageIndex k (s.rd (R.LIM_STG 0))).2.endCheck (s.stageIndex k (s.rd (R.LIM_STG 0))).1 := by
  rw [State.stageApply, staged]
  rfl

theorem State.stageApply_set (staged : s.lim.staged = some (3, k)) :
    s.stageApply = (s.stageSet k (s.rd (R.LIM_STG 0)) (s.rd (R.LIM_STG 1)) (s.rd (R.LIM_STG 2))).2.endCheck
      (s.stageSet k (s.rd (R.LIM_STG 0)) (s.rd (R.LIM_STG 1)) (s.rd (R.LIM_STG 2))).1 := by
  rw [State.stageApply, staged]
  rfl

end

end Sys2Proof.Machine
end

section
/-! SUPPORT. The statements of the limit engine. -/

open Sys2Proof Sys2Proof.Machine

namespace Sys2Proof.Proofs

theorem limitConditions : Clauses.LimitConditions := by
  unfold Clauses.LimitConditions
  intro x v th hys old
  exact ⟨valueCond_high, valueCond_low, valueCond_band, fun rising _ => signedCond_of_pos rising,
    fun falling _ => signedCond_of_neg falling⟩

theorem limitEvaluation : Clauses.LimitEvaluation := by
  unfold Clauses.LimitEvaluation
  intro s₀ e x l o t on
  dsimp only
  refine ⟨exec_limitEvaluate_of_ready on, exec_limitEvaluate_before_ready on,
    fun error => ?held,
    fun sane => ⟨fun began due cond inactive => ?active, fun still began due cond active => ?inactive⟩⟩
  case held => exact (exec_delayDue on).trans (congrArg _ (State.walk_of_error error))
  case active =>
    exact (exec_delayDue on).trans
      (congrArg _ (State.walk_of_onDelay sane began (decide_eq_true due) cond inactive))
  case inactive =>
    exact (exec_delayDue on).trans
      (congrArg _ (State.walk_of_offDelay sane still began (decide_eq_true due) cond active))

/-- Settles O37: the two families of clauses. -/
theorem limitConditionAndEvaluation : Obligations.LimitConditionAndEvaluation := ⟨limitConditions, limitEvaluation⟩

theorem limitInhibits : Clauses.LimitInhibits := by
  unfold Clauses.LimitInhibits
  intro s₀ i n from_ t
  dsimp only
  exact ⟨fun beyond _ => congrArg _ (State.inhibitBit_of_beyond beyond),
    fun inside => congrArg _ (State.inhibitBit_set inside),
    fun inside was => ⟨fun undelayed => congrArg _ (State.inhibitBit_clear_at_once inside was undelayed),
      fun delay => congrArg _ (State.inhibitBit_clear_delayed inside was delay)⟩,
    exec_inhibitReleaseExpiry_of_due, fun _ => State.setEffective_of_same, fun _ => State.setEffective_of_change⟩

theorem limitScrubAndStaging : Clauses.LimitScrubAndStaging := by
  unfold Clauses.LimitScrubAndStaging
  intro s₀ p e idx t on powered₀
  dsimp only
  have powered : (s₀.atTime t).powered 4 = true := powered₀
  refine ⟨exec_limitScrub_corrected on, exec_limitScrub_uncorrectable on, exec_limitScrub_clean,
    fun locked => ?denied, fun unlocked idle => ⟨fun beyond => ?noChannel, fun beyond => ?noSet⟩,
    fun unlocked busy => ?busy,
    fun unlocked idle => ⟨?entry, fun inside => ?channel, fun inside => ?set⟩,
    fun k => ⟨fun staged => ⟨fun invalid => ?refused, fun valid claimed => ?claimed, fun valid free => ?applied⟩,
      fun staged => ?channelChecked, fun staged => ?setChecked⟩⟩
  case denied => exact congrArg _ (State.stageCommand_of_locked powered locked)
  case noChannel => exact congrArg _ (State.stageCommand_of_beyond powered unlocked idle (.inl ⟨rfl, beyond⟩))
  case noSet => exact congrArg _ (State.stageCommand_of_beyond powered unlocked idle (.inr ⟨rfl, beyond⟩))
  case busy => exact congrArg _ (State.stageCommand_of_busy powered unlocked busy)
  case entry => exact congrArg _ (State.stageCommand_of_inside powered unlocked idle (by omega))
  case channel => exact congrArg _ (State.stageCommand_of_inside powered unlocked idle (by omega))
  case set => exact congrArg _ (State.stageCommand_of_inside powered unlocked idle (by omega))
  case refused =>
    exact (exec_limStageApply on).trans
      (congrArg _ (State.stageApply_entry staged (State.stageEntry_of_invalid invalid)))
  case claimed =>
    exact (exec_limStageApply on).trans
      (congrArg _ (State.stageApply_entry staged (State.stageEntry_of_claimed valid claimed)))
  case applied =>
    exact (exec_limStageApply on).trans (congrArg _ (State.stageApply_entry staged (State.stageEntry_of_free valid free)))
  case channelChecked => exact (exec_limStageApply on).trans (congrArg _ (State.stageApply_index staged))
  case setChecked => exact (exec_limStageApply on).trans (congrArg _ (State.stageApply_set staged))

/-- Settles O38: the two families of clauses. -/
theorem limitInhibitsAndStaging : Obligations.LimitInhibitsAndStaging := ⟨limitInhibits, limitScrubAndStaging⟩

end Sys2Proof.Proofs
end

section
/-! SUPPORT. The rules of the alarm unit (R163-R168, R172, R218): acknowledging, shelving, taking out of service, the state
of a group; and what driving Bandstand's outputs leaves (R176). -/

namespace Sys2Proof.Machine

/-! ### Acknowledging an entry (R163, R166, R167) -/

section
variable {s : State} {e tick : Nat}

theorem State.ackState_of_modified (modified : s.modified e = true) : s.ackState e tick = none := by
  simp [State.ackState, modified]

theorem State.ackState_of_later_stamp (later : tick < (s.rd (R.ALM_ESTMP e)).toNat) : s.ackState e tick = none := by
  simp [State.ackState, later]

theorem State.ackState_of_unmodified (plain : s.modified e = false) (stamped : (s.rd (R.ALM_ESTMP e)).toNat ≤ tick) :
    s.ackState e tick = if s.alarmState e = 1 then some 2 else if s.alarmState e = 3 then some 0 else none := by
  simp only [State.ackState, plain, Nat.not_lt.2 stamped, decide_false, Bool.or_self, Bool.false_eq_true, if_false]
  split <;> simp_all

theorem State.ackEntries_of_some {v : Nat} (acked : s.ackState e tick = some v) :
    s.ackEntries [e] tick = (1, s.setFld (R.ALM_EST e) F.ALM_EST_STATE v) := by
  simp only [State.ackEntries, List.foldl_cons, List.foldl_nil, acked]
  rfl

end

/-! ### The state of a group (R168) -/

section
variable {l : List Nat}

theorem groupStateOf_of_unack (unack : 1 ∈ l) : groupStateOf l = 1 := by simp [groupStateOf, unack]

theorem groupStateOf_of_returned (active : 1 ∉ l) (returned : 3 ∈ l) : groupStateOf l = 3 := by
  simp [groupStateOf, active, returned]

theorem groupStateOf_of_acked (active : 1 ∉ l) (returned : 3 ∉ l) (acked : 2 ∈ l) : groupStateOf l = 2 := by
  simp [groupStateOf, active, returned, acked]

theorem groupStateOf_of_normal (active : 1 ∉ l) (returned : 3 ∉ l) (acked : 2 ∉ l) : groupStateOf l = 0 := by
  simp [groupStateOf, active, returned, acked]

end

/-! ### The checks of an entry action (R218) -/

section
variable {s : State} {e : Nat} {f : State → State}

theorem State.entryCheck_of_beyond (beyond : 2048 ≤ e) : s.entryCheck e f = s.answer .address := if_pos beyond

variable (inside : e < 2048)
include inside

theorem State.entryCheck_of_unusable (unusable : s.entryOk e = false) : s.entryCheck e f = s.answer .state := by
  simp [State.entryCheck, Nat.not_le.2 inside, unusable]

theorem State.entryCheck_of_ok (ok : s.entryOk e = true) : s.entryCheck e f = f s := by
  simp [State.entryCheck, Nat.not_le.2 inside, ok]

end

/-! ### Actions on an entry (R164, R165, R167, R172) -/

section
variable {s : State} {e tick secs : Nat} (inside : e < 2048) (ok : s.entryOk e = true)
include inside ok

theorem State.ackEntryOp_of_some {v : Nat} (acked : s.ackState e tick = some v) : s.ackEntryOp e tick =
    ((s.setFld (R.ALM_EST e) F.ALM_EST_STATE v).ackDone (s.entryGroup e)).answer .ok := by
  rw [State.ackEntryOp, State.entryCheck_of_ok inside ok, State.ackEntries_of_some acked]

theorem State.shelveOp_of_outside (outside : secs = 0 ∨ 86400 < secs) : s.shelveOp e secs = s.answer .range :=
  (State.entryCheck_of_ok inside ok).trans (if_pos outside)

theorem State.shelveOp_of_inside (positive : 1 ≤ secs) (day : secs ≤ 86400) : s.shelveOp e secs = (
    let u := s.setAlm { s.alm with shelve := tabSet (dflt none) s.alm.shelve e (some (s.now + secs * 1000000000)) }
    let u := (u.setFld (R.ALM_EST e) F.ALM_EST_SHVREM secs).setFlag (R.ALM_EST e) F.ALM_EST_SHLV true
    ((u.groupChanged (u.entryGroup e)).raise 0x29 e secs).answer .ok) :=
  (State.entryCheck_of_ok inside ok).trans (if_neg (by omega))

theorem State.unshelveOp_of_unshelved (unshelved : s.flag (R.ALM_EST e) F.ALM_EST_SHLV = false) :
    s.unshelveOp e = s.answer .ok := by
  simp [State.unshelveOp, State.entryCheck_of_ok inside ok, unshelved]

theorem State.unshelveOp_of_shelved (shelved : s.flag (R.ALM_EST e) F.ALM_EST_SHLV = true) :
    s.unshelveOp e = (s.endShelve e 1).answer .ok := by
  simp [State.unshelveOp, State.entryCheck_of_ok inside ok, shelved]

theorem State.oosOp_of_out (out : s.flag (R.ALM_EST e) F.ALM_EST_OOS = true) : s.oosOp e = s.answer .ok := by
  simp [State.oosOp, State.entryCheck_of_ok inside ok, out]

theorem State.oosOp_of_in (serves : s.flag (R.ALM_EST e) F.ALM_EST_OOS = false) : s.oosOp e = (
    let u := (s.setFlag (R.ALM_EST e) F.ALM_EST_OOS true).setFld (R.ALM_EST e) F.ALM_EST_STATE 0
    ((u.groupChanged (u.entryGroup e)).raise 0x2A e (s.alarmState e + 256)).answer .ok) := by
  simp only [State.oosOp, State.entryCheck_of_ok inside ok, serves, Bool.false_eq_true, if_false]
  rfl

theorem State.returnOp_of_in (serves : s.flag (R.ALM_EST e) F.ALM_EST_OOS = false) : s.returnOp e = s.answer .ok := by
  simp [State.returnOp, State.entryCheck_of_ok inside ok, serves]

/-- Entry `e` once OUT-OF-SERVICE has cleared, with its E2A. -/
def State.returned (s : State) (e : Nat) : State :=
  (s.setFlag (R.ALM_EST e) F.ALM_EST_OOS false).raise 0x2A e (s.alarmState e)

section
variable (out : s.flag (R.ALM_EST e) F.ALM_EST_OOS = true)
include out

theorem State.returnOp_of_last_modifier (plain : (s.returned e).modified e = false) : s.returnOp e =
    ((s.returned e).alarmMove e (if (s.returned e).entryAct e then 1 else 0)).answer .ok := by
  unfold State.returned at plain ⊢
  simp only [State.returnOp, State.entryCheck_of_ok inside ok, out, plain, Bool.not_true, Bool.false_eq_true, if_false]

theorem State.returnOp_of_other_modifier (modified : (s.returned e).modified e = true) : s.returnOp e = (
    let u := s.returned e
    let v := if u.entryAct e then 1 else 0
    let w := u.setFld (R.ALM_EST e) F.ALM_EST_STATE v
    let w := if v = 1 then w.wr (R.ALM_ESTMP e) (BitVec.ofNat 32 w.alm.stampTick) else w
    (w.groupChanged (u.entryGroup e)).answer .ok) := by
  unfold State.returned at modified ⊢
  simp only [State.returnOp, State.entryCheck_of_ok inside ok, out, modified, Bool.not_true, Bool.false_eq_true, if_false,
    if_true, State.applyIf, beq_iff_eq]
  rfl

end

end

theorem exec_shelveExpiry_of_due {s : State} {n : Fin 2048} {d t : Time} (on : (s.atTime t).almOn = true)
    (began : (s.atTime t).shelveDue n = some d) (due : d ≤ (s.atTime t).now) :
    exec (.shelveExpiry n t) s = .next ((s.atTime t).endShelve n 2) := by
  change execShelveExpiry n t s = _
  simp [execShelveExpiry, on, began, due]

theorem State.endShelve_of_expiry (s : State) (e : Nat) : s.endShelve e 2 = (
    let u := (s.setAlm { s.alm with shelve := tabSet (dflt none) s.alm.shelve e none }).setFld (R.ALM_EST e)
      F.ALM_EST_SHVREM 0
    let u := (u.setFlag (R.ALM_EST e) F.ALM_EST_SHLV false).raise 0x29 e (2 * 4294967296)
    if u.entryOk e then u.unfreeze e else u) := by
  have data : 0 + 2 ^ 32 * 2 = 2 * 4294967296 := by decide
  rw [← data]
  rfl

/-! ### What driving Bandstand's outputs leaves (R176)

The writes go to registers no higher than ALM_DOUT, so that every higher register reads as before, in a list of any form. -/

theorem State.sameRegs_refl (s : State) (p : Nat → Prop) : s.sameRegs s p := fun _ _ => rfl

theorem State.sameRegs_trans {s t u : State} {p : Nat → Prop} (h : s.sameRegs t p) (g : t.sameRegs u p) : s.sameRegs u p :=
  fun a out => (g a out).trans (h a out)

theorem State.sameRegs_foldS {α : Type} {f : State → α → State} {p : Nat → Prop} {l : List α}
    (h : ∀ s, ∀ x ∈ l, State.sameRegs s (f s x) p) (s : State) : s.sameRegs (foldS f s l) p := by
  induction l generalizing s with
  | nil => exact s.sameRegs_refl p
  | cons x l ih =>
    exact State.sameRegs_trans (h s x List.mem_cons_self) (ih (fun s y mem => h s y (List.mem_cons_of_mem x mem)) _)

theorem State.sameRegs_wr {a b : Nat} (s : State) (v : Word) (low : a ≤ b) : s.sameRegs (s.wr a v) (· ≤ b) :=
  fun _ above => tabGet_tabSet_of_lt (Nat.lt_of_le_of_lt low (Nat.not_le.1 above))

section
variable {n : Nat} (place : n < 48)
include place

theorem DIO_DOST_le_ALM_DOUT : R.DIO_DOST n ≤ R.ALM_DOUT 1 := by
  simp only [R.DIO_DOST, R.ALM_DOUT]
  omega

theorem State.lead_lt (s : State) : s.lead n < 48 := by
  unfold State.lead
  split <;> omega

theorem State.members_lt {s : State} {k : Nat} (member : k ∈ s.members n) : k < 48 := by
  unfold State.members at member
  split at member <;> simp only [List.mem_cons, List.not_mem_nil, or_false] at member <;> omega

theorem State.endLatchoff_sameRegs (s : State) : s.sameRegs (s.endLatchoff n) (· ≤ R.ALM_DOUT 1) := by
  unfold State.endLatchoff
  split
  · exact State.sameRegs_foldS
      (fun u _ member => u.sameRegs_wr _ (DIO_DOST_le_ALM_DOUT (State.members_lt place member))) s
  · exact s.sameRegs_refl _

theorem State.putDrive_sameRegs (s : State) (r : Bool × Nat) : s.sameRegs (s.putDrive n r) (· ≤ R.ALM_DOUT 1) := by
  have noted : s.sameRegs (if r.1 && !(s.driven n) then s.setOut n { s.out n with onAt := some s.now } else s)
      (· ≤ R.ALM_DOUT 1) := by
    split <;> exact s.sameRegs_refl _
  exact State.sameRegs_trans noted (State.sameRegs_trans (State.sameRegs_wr _ _ (DIO_DOST_le_ALM_DOUT place))
    (State.sameRegs_wr _ _ (DIO_DOST_le_ALM_DOUT place)))

end

theorem State.endPulse_sameRegs (s : State) (n : Nat) (p : Nat → Prop) : s.sameRegs (s.endPulse n) p := by
  unfold State.endPulse
  dsimp only
  split <;> exact s.sameRegs_refl p

theorem State.refreshDo_sameRegs {n : Nat} (place : n < 48) (s : State) :
    s.sameRegs (s.refreshDo n) (· ≤ R.ALM_DOUT 1) := by
  have lead := s.lead_lt place
  unfold State.refreshDo
  split
  · exact State.sameRegs_trans (State.endLatchoff_sameRegs lead s) (State.sameRegs_trans (State.endPulse_sameRegs _ _ _)
      (State.sameRegs_foldS (fun u _ member => State.putDrive_sameRegs (State.members_lt place member) u _) _))
  · exact s.sameRegs_refl _

theorem State.driveBandstand_sameRegs (s : State) : s.sameRegs s.driveBandstand (· ≤ R.ALM_DOUT 1) := by
  have low : R.ALM_DOUT 0 ≤ R.ALM_DOUT 1 := by decide
  unfold State.driveBandstand
  exact State.sameRegs_trans (State.sameRegs_trans (s.sameRegs_wr _ low) (State.sameRegs_wr _ _ (Nat.le_refl _)))
    (State.sameRegs_foldS
      (fun u _ changed => u.refreshDo_sameRegs (List.mem_range.1 (List.mem_filter.1 changed).1)) _)

/-- Silencing a group leaves its UNACK. -/
theorem State.unackOf_silence (s : State) (g : Nat) :
    ((s.setFlag (R.ALM_GST g) F.ALM_GST_AUD false).driveBandstand).unackOf g = s.unackOf g := by
  have above : R.ALM_GST g < R.ALM_GCNT g := by simp only [R.ALM_GST, R.ALM_GCNT]; omega
  have outputs : ¬ R.ALM_GCNT g ≤ R.ALM_DOUT 1 := by simp only [R.ALM_GCNT, R.ALM_DOUT]; omega
  exact congrArg (fldOf F.ALM_GCNT_UNACK)
    ((State.driveBandstand_sameRegs _ _ outputs).trans (tabGet_tabSet_of_lt above))

theorem State.silenceGroupOp_of_inside {s : State} {g : Nat} (inside : g < 256) : s.silenceGroupOp g = (
    let u := (s.setFlag (R.ALM_GST g) F.ALM_GST_AUD false).driveBandstand
    (u.raise 0x28 g (u.fld (R.ALM_GCNT g) F.ALM_GCNT_UNACK)).answer .ok) := by
  have unack := s.unackOf_silence g
  unfold State.unackOf at unack
  dsimp only
  rw [unack]
  exact if_neg (Nat.not_le.2 inside)

end Sys2Proof.Machine
end

section
/-! SUPPORT. The statements of the alarm states. -/

open Sys2Proof Sys2Proof.Machine

namespace Sys2Proof.Proofs

theorem alarmStateRules : Clauses.AlarmStateRules := by
  unfold Clauses.AlarmStateRules
  intro s e tick l
  refine ⟨State.ackState_of_modified, State.ackState_of_later_stamp,
    fun plain stamped _ => State.ackState_of_unmodified plain stamped, fun act => ?resumed,
    groupStateOf_of_unack, groupStateOf_of_returned, groupStateOf_of_acked, groupStateOf_of_normal⟩
  case resumed => cases act <;> decide

theorem alarmAcknowledgeAndShelve : Clauses.AlarmAcknowledgeAndShelve := by
  unfold Clauses.AlarmAcknowledgeAndShelve
  intro s₀ g e tick secs t
  dsimp only
  refine ⟨fun beyond => ⟨congrArg _ (if_pos beyond), congrArg _ (if_pos beyond)⟩,
    fun inside => ⟨congrArg _ (if_neg (Nat.not_le.2 inside)), congrArg _ (State.silenceGroupOp_of_inside inside)⟩,
    fun beyond => ⟨congrArg _ (State.entryCheck_of_beyond beyond), congrArg _ (State.entryCheck_of_beyond beyond)⟩,
    fun inside unusable => ⟨congrArg _ (State.entryCheck_of_unusable inside unusable),
      congrArg _ (State.entryCheck_of_unusable inside unusable)⟩,
    fun inside ok => ⟨fun v acked => ?acked, fun outside => ?outside, fun positive day => ?shelved⟩⟩
  case acked => exact congrArg _ (State.ackEntryOp_of_some inside ok acked)
  case outside => exact congrArg _ (State.shelveOp_of_outside inside ok outside)
  case shelved => exact congrArg _ (State.shelveOp_of_inside inside ok positive day)

theorem alarmModifiers : Clauses.AlarmModifiers := by
  unfold Clauses.AlarmModifiers
  intro s₀ e n d t ok₀ inside
  dsimp only
  have ok : (s₀.atTime t).entryOk e.toNat = true := ok₀
  refine ⟨fun unshelved => congrArg _ (State.unshelveOp_of_unshelved inside ok unshelved),
    fun shelved => congrArg _ (State.unshelveOp_of_shelved inside ok shelved),
    fun on began due => (exec_shelveExpiry_of_due on began due).trans (congrArg _ (State.endShelve_of_expiry _ _)),
    fun out => congrArg _ (State.oosOp_of_out inside ok₀ out),
    fun serves => congrArg _ (State.oosOp_of_in inside ok₀ serves),
    fun serves => congrArg _ (State.returnOp_of_in inside ok serves),
    fun out => ⟨fun plain => ?plain, fun modified => ?modified⟩⟩
  case plain => exact congrArg _ (State.returnOp_of_last_modifier inside ok out plain)
  case modified => exact congrArg _ (State.returnOp_of_other_modifier inside ok out modified)

/-- Settles O40: the three families of clauses. -/
theorem alarmStates : Obligations.AlarmStates := ⟨alarmStateRules, alarmAcknowledgeAndShelve, alarmModifiers⟩

end Sys2Proof.Proofs
end

section
/-! SUPPORT. The rules of the plans and of the watch-keeper check (R172-R180), and of the write of the retained-state mirror
(R182). -/

namespace Sys2Proof.Machine

/-! ### Starting and ending a plan (R172, R174, R178) -/

section
variable {s : State} {p cause : Nat}

theorem State.startPlanOp_of_beyond (beyond : 16 ≤ p) : s.startPlanOp p cause = s.answer .address := if_pos beyond

theorem State.beginPlan_at_first_level : s.beginPlan p 1 cause = (
    let u := s.wr (R.ALM_PST p) (BitVec.ofNat 32 (0x48000000 + cause))
    let u := (u.setPlan p { u.plan p with pat := [], wkDue := none }).addFld (R.ALM_PCNT p) F.ALM_PCNT_STARTS 1
    (((u.notePlan p 1 cause 0).reachLevel p 4 1).markRun p).driveBandstand) := by
  have running : 2 ^ 30 + 1 * 2 ^ 27 = 0x48000000 := by decide
  unfold State.beginPlan
  rw [running]

variable (inside : p < 16)
include inside

theorem State.startPlanOp_of_no_cause (above : 0xFF < cause) (other : cause ≠ 0x101) :
    s.startPlanOp p cause = s.answer .range := by
  simp [State.startPlanOp, causeOk, Nat.not_le.2 inside, Nat.not_le.2 above, other]

theorem State.startPlanOp_of_idle (allowed : cause ≤ 0xFF ∨ cause = 0x101) (ok : s.planOk p = true)
    (call : s.planWk p = false) (idle : s.planState p = 0) :
    s.startPlanOp p cause = (s.beginPlan p 1 cause).answer .ok := by
  have causeAllowed : causeOk cause = true := by simpa [causeOk] using allowed
  simp [State.startPlanOp, State.startPlan, Nat.not_le.2 inside, causeAllowed, ok, call, idle]

theorem State.endPlanAct_of_inside : s.endPlanAct p = (s.endPlanOp p 3).answer .ok := if_neg (Nat.not_le.2 inside)

theorem State.silencePlanOp_of_running (running : s.planState p = 1) : s.silencePlanOp p =
    ((s.setFld (R.ALM_PST p) F.ALM_PST_ACC (2 ^ s.planLevel p - 1)).driveBandstand).answer .ok := by
  simp [State.silencePlanOp, Nat.not_le.2 inside, running]

end

/-! ### Accepting a level (R177, R180) -/

section
variable {s : State} {p k input : Nat}

/-- The accept bit of level `k` is set. -/
def State.acceptBit (s : State) (p k : Nat) : State :=
  s.setFld (R.ALM_PST p) F.ALM_PST_ACC (setBitN (s.fld (R.ALM_PST p) F.ALM_PST_ACC) (k - 1) true)

theorem State.planLevel_acceptBit (sound : s.sound = true) : (s.acceptBit p k).planLevel p = s.planLevel p :=
  State.fld_setFld_ne sound (by decide) (by decide)

section
variable (running : s.planState p = 1) (reached : k ≤ s.planLevel p) (enabled : s.levelEn p k = true)
include running reached enabled

theorem State.acceptAt_of_end_mode (ends : s.flag (R.ALM_LCFG p (k - 1)) F.ALM_LCFG_MODE = true) :
    s.acceptAt p k input = s.endPlanOp p 4 := by
  simp [State.acceptAt, running, Nat.not_lt.2 reached, enabled, ends]

theorem State.acceptAt_of_accept_mode (accepts : s.flag (R.ALM_LCFG p (k - 1)) F.ALM_LCFG_MODE = false)
    (sound : s.sound = true) : s.acceptAt p k input = (
      let u := s.acceptBit p k
      let u := if s.planLevel p = k then u.runTimer p k else u
      (u.raise 0x2D p (k + 2 ^ 8 * input)).driveBandstand) := by
  dsimp only
  rw [← State.planLevel_acceptBit (k := k) sound]
  simp only [State.acceptAt, State.acceptBit, running, Nat.not_lt.2 reached, enabled, accepts, bne_self_eq_false,
    decide_false, Bool.not_true, Bool.or_self, Bool.false_eq_true, if_false, beq_iff_eq]
  rfl

end

theorem State.levelInput_of_call (call : s.planWk p = false ∨ k ≠ 1) :
    s.levelInput p k input = s.acceptAt p k input := by
  rcases call with call | other
  · simp [State.levelInput, call]
  · simp [State.levelInput, other]

theorem State.levelInput_of_reset (wk : s.planWk p = true) (busy : s.planState p ≠ 0) :
    s.levelInput p 1 input = (s.armed p).raise 0x2E p 2 := by
  simp [State.levelInput, State.wkReset, State.noteWk, wk, busy]

variable (inside : p < 16)
include inside

theorem State.acceptLevelOp_of_no_level (outside : k = 0 ∨ 5 ≤ k) : s.acceptLevelOp p k = s.answer .range :=
  (if_neg (Nat.not_le.2 inside)).trans (if_pos outside)

theorem State.acceptLevelOp_of_level (first : 1 ≤ k) (last : k ≤ 4) :
    s.acceptLevelOp p k = (s.levelInput p k 0xFF).answer .ok :=
  (if_neg (Nat.not_le.2 inside)).trans (if_neg (by omega))

end

/-! ### The watch-keeper check (R179, R180) -/

section
variable {s : State} {p : Nat}

theorem State.armed_eq (s : State) (p : Nat) : s.armed p = (
    let u := s.wr (R.ALM_PST p) 0x800001FF
    let u := u.setPlan p { u.plan p with due := none, pat := [], wkDue := some (u.now + u.wkPeriod p) }
    (u.markRun p).driveBandstand) := by
  have word : pstIdle ||| 0x80000000 = 0x800001FF := by decide
  unfold State.armed
  rw [word]

variable (inside : p < 16)
include inside

theorem State.armOp_of_call (call : s.planWk p = false) : s.armOp p = s.answer .state := by
  simp [State.armOp, Nat.not_le.2 inside, call]

variable (ok : s.planOk p = true) (wk : s.planWk p = true)
include ok wk

theorem State.armOp_of_watchKeeper : s.armOp p = ((s.armed p).raise 0x2E p 3).answer .ok := by
  simp [State.armOp, State.noteWk, Nat.not_le.2 inside, ok, wk]

theorem State.disarmOp_of_idle (idle : s.planState p = 0) : s.disarmOp p = s.answer .ok := by
  simp [State.disarmOp, Nat.not_le.2 inside, ok, wk, idle]

theorem State.disarmOp_of_armed (busy : s.planState p ≠ 0) : s.disarmOp p = (
    let u := s.wr (R.ALM_PST p) 0x000001FF
    let u := u.setPlan p { u.plan p with due := none, pat := [], wkDue := none }
    (((u.markRun p).driveBandstand).raise 0x2E p 4).answer .ok) := by
  simp only [State.disarmOp, State.noteWk, pstIdle, Nat.not_le.2 inside, ok, wk, busy, Bool.not_true, Bool.or_self,
    Bool.false_eq_true, beq_iff_eq, if_false]

end

/-! ### The engineer on watch (R179) -/

section
variable {s : State} {target engineer : Nat}

theorem State.selectWatchOp_of_no_target (other : target ≠ 0) :
    s.selectWatchOp target engineer = s.answer .address := by simp [State.selectWatchOp, other]

variable (own : target = 0) (byAction : s.flag R.ALM_WATCH F.ALM_WATCH_SRC = true)
include own byAction

theorem State.selectWatchOp_of_disabled (disabled : s.engineerOk engineer = false) :
    s.selectWatchOp target engineer = s.answer .range := by simp [State.selectWatchOp, own, byAction, disabled]

theorem State.selectWatchOp_of_enabled (enabled : s.engineerOk engineer = true) :
    s.selectWatchOp target engineer = (s.selectEngineer engineer).answer .ok := by
  simp [State.selectWatchOp, own, byAction, enabled]

end

/-- A code of three bits is the sum of their weights. -/
theorem toNat_eq_sum_of_bits (code : BitVec 3) :
    (code.getLsbD 0).toNat * 2 ^ 0 + ((code.getLsbD 1).toNat * 2 ^ 1 + ((code.getLsbD 2).toNat * 2 ^ 2 + 0)) =
      code.toNat := by
  revert code
  decide

section
variable {s : State}

theorem State.watchCode_of_bits {code : BitVec 3}
    (bits : ∀ j : Fin 3, s.alm.di.getLsbD (s.fld R.ALM_WATCH F.ALM_WATCH_DIBASE + j) = code.getLsbD j) :
    s.watchCode = code.toNat := by
  have bit0 : _ = code.getLsbD 0 := bits 0
  have bit1 : _ = code.getLsbD 1 := bits 1
  have bit2 : _ = code.getLsbD 2 := bits 2
  rw [← toNat_eq_sum_of_bits code, ← bit0, ← bit1, ← bit2]
  rfl

theorem State.watchStable_of_since
    (since : ∀ j : Fin 3, tabGet (dflt 0) s.alm.diAt (s.fld R.ALM_WATCH F.ALM_WATCH_DIBASE + j) + 500000000 ≤ s.now) :
    s.watchStable = true := by
  unfold State.watchStable State.watchInputs
  simp only [List.all_cons, List.all_nil, Bool.and_true, Bool.and_eq_true, decide_eq_true_eq]
  exact ⟨since 0, since 1, since 2⟩

end

theorem exec_watchCodeStable_of_stable {s : State} {code : BitVec 3} {t : Time} (on : (s.atTime t).almOn = true)
    (byCode : (s.atTime t).flag R.ALM_WATCH F.ALM_WATCH_SRC = false) (read : (s.atTime t).watchCode = code.toNat)
    (stable : (s.atTime t).watchStable = true) :
    exec (.watchCodeStable code t) s = .next ((s.atTime t).selectEngineer code.toNat) := by
  change execWatchCodeStable code t s = _
  simp [execWatchCodeStable, on, byCode, read, stable]

/-! ### Timers of the plans (R173, R175, R180) -/

section
variable {s : State} {p : Nat}

theorem State.levelTimer_below (below : s.planLevel p < 4) : s.levelTimer p = (
    let u := s.addFld (R.ALM_PCNT p) F.ALM_PCNT_ESCAL 1
    ((u.notePlan p (s.planLevel p + 1) (u.fld (R.ALM_PST p) F.ALM_PST_CAUSE) 2).reachLevel p 4
      (s.planLevel p + 1)).driveBandstand) := if_pos below

theorem State.levelTimer_at_last (last : 4 ≤ s.planLevel p) : s.levelTimer p = (
    let u := s.setFld (R.ALM_PST p) F.ALM_PST_ACC (setBitN (s.fld (R.ALM_PST p) F.ALM_PST_ACC) 3 false)
    (u.runTimer p 4).driveBandstand) := if_neg (Nat.not_lt.2 last)

theorem State.wkElapsed_of_due {x : Nat} {d : Time} (began : (s.plan p).wkDue = some d) :
    s.wkElapsed p x = s.delayDue (d + x - s.wkPeriod p) := by
  rw [State.wkElapsed, began]
  rfl

end

section
variable {s : State} {p : Fin 16} {d t : Time} (on : (s.atTime t).almOn = true)
include on

theorem exec_planLevelTimer_of_due (running : (s.atTime t).planState p = 1) (began : ((s.atTime t).plan p).due = some d)
    (due : (s.atTime t).delayDue d = true) : exec (.planLevelTimer p t) s = .next ((s.atTime t).levelTimer p) := by
  change execPlanLevelTimer p t s = _
  simp [execPlanLevelTimer, on, running, began, due]

theorem exec_wkPrewarning_of_due (armed : (s.atTime t).planState p = 2)
    (due : (s.atTime t).wkElapsed p ((s.atTime t).wkPeriod p - (s.atTime t).wkPrew p) = true) :
    exec (.wkPrewarning p t) s = .next (
      let u := (s.atTime t).setFld (R.ALM_PST p) F.ALM_PST_STATE 3
      ((u.beginPattern p 1).driveBandstand).raise 0x2E p 0) := by
  change execWkPrewarning p t s = _
  simp only [execWkPrewarning, State.noteWk, on, armed, due, beq_self_eq_true, Bool.and_self, if_true]

theorem exec_wkExpiry_of_due (phase : 2 ≤ (s.atTime t).planState p)
    (due : (s.atTime t).wkElapsed p ((s.atTime t).wkPeriod p) = true) :
    exec (.wkExpiry p t) s = .next (((s.atTime t).raise 0x2E p 1).beginPlan p 2 0x102) := by
  change execWkExpiry p t s = _
  simp [execWkExpiry, State.noteWk, on, phase, due]

end

/-! ### Inputs of the plans (R177, R180) -/

section
variable {s : State} {di : Fin 48} {t : Time} (on : (s.atTime t).almOn = true)
include on

theorem exec_wkResetInput_of_edge (edge : (s.atTime t).alm.resets.getLsbD di = true) :
    exec (.wkResetInput di t) s = .next (foldS (fun u q => if u.wkInput di q then u.wkReset q else u)
      ((s.atTime t).resetSeen di) (List.range 16)) := congrArg _ (if_pos (by rw [on, edge]; rfl))

theorem exec_acceptInputEdge_of_edge (edge : (s.atTime t).alm.edges.getLsbD di = true) :
    exec (.acceptInputEdge di t) s = .next (foldS (fun u q => u.acceptEdge di q) ((s.atTime t).edgeSeen di)
      (List.range 16)) := congrArg _ (if_pos (by rw [on, edge]; rfl))

end

/-- A reset input of a plan acts where the plan is a watch-keeper check that is not idle. -/
theorem State.wkReset_if (s : State) (c : Bool) (q : Nat) : (if c then s.wkReset q else s) =
    if c && (s.planWk q && s.planState q != 0) then (s.armed q).raise 0x2E q 2 else s := by
  cases c <;> rfl

/-! ### Patterns (R176) -/

section
variable {s : State} {p : Fin 16} {lv : Fin 4} {t : Time} (on : (s.atTime t).almOn = true)
include on

theorem exec_patternToggle_of_ended
    (pattern : (s.atTime t).fld (R.ALM_LCFG p lv) F.ALM_LCFG_PAT = 1 ∨ (s.atTime t).fld (R.ALM_LCFG p lv) F.ALM_LCFG_PAT = 2)
    (driven : (s.atTime t).planState p = 1 ∧ lv.val + 1 ≤ (s.atTime t).planLevel p ∨
      (s.atTime t).planState p = 3 ∧ lv.val = 0)
    (ended : (s.atTime t).phaseEnds p (lv.val + 1) ≤ (s.atTime t).now) :
    exec (.patternToggle p lv t) s = .next ((s.atTime t).togglePattern p (lv.val + 1)) := by
  refine congrArg _ (if_pos ?_)
  simp only [Bool.and_eq_true, Bool.or_eq_true, beq_iff_eq, decide_eq_true_eq]
  exact ⟨⟨⟨on, pattern⟩, driven.imp_right fun ⟨prewarning, first⟩ => ⟨prewarning, by omega⟩⟩, ended⟩

end

/-! ### The retained-state mirror (R182) -/

section
variable {α : Type} [DecidableEq α] {d : Nat → α} {m l : List (Nat × α)} {a : Nat} {v : α} {lo : Option Nat}

/-- A key reads `v` after several writes, where every write of that key puts `v` and the key is written or reads `v`
already. -/
theorem tabGet_tabSetAll_eq (canonical : tabWf d m = true) (writes : ∀ e ∈ l, e.1 = a → e.2 = v)
    (known : (∃ e ∈ l, e.1 = a) ∨ tabGet d m a = v) : tabGet d (tabSetAll d m l) a = v := by
  induction l generalizing m with
  | nil =>
    rcases known with ⟨_, mem, -⟩ | reads
    · exact absurd mem List.not_mem_nil
    · exact reads
  | cons e l ih =>
    refine ih (tabSet_wf canonical) (fun x mem => writes x (List.mem_cons_of_mem e mem)) ?_
    by_cases here : a = e.1
    · right
      rw [here, tabGet_tabSet_same canonical]
      exact writes e List.mem_cons_self here.symm
    · rw [tabGet_tabSet_ne canonical here]
      refine known.imp_left fun ⟨x, mem, at_⟩ => ⟨x, (List.mem_cons.1 mem).resolve_left ?_, at_⟩
      rintro rfl
      exact here at_.symm

theorem tabGet_of_mem_from (canonical : tabWfFrom d lo m = true) (mem : (a, v) ∈ m) :
    tabGet d m a = v ∧ ∀ k, lo = some k → k < a := by
  induction m generalizing lo with
  | nil => exact absurd mem List.not_mem_nil
  | cons e m ih =>
    obtain ⟨k, w⟩ := e
    obtain ⟨above, -, rest⟩ := tabWfFrom_cons.1 canonical
    rcases List.mem_cons.1 mem with here | later
    · cases here
      exact ⟨if_pos rfl, above⟩
    · obtain ⟨reads, rises⟩ := ih rest later
      have after : k < a := rises k rfl
      refine ⟨?_, fun j bound => Nat.lt_trans (above j bound) after⟩
      rw [tabGet, if_neg (Nat.ne_of_gt after), if_neg (Nat.not_lt.2 (Nat.le_of_lt after)), reads]

/-- An entry of a table in canonical form is what its key reads. -/
theorem tabGet_of_mem (canonical : tabWf d m = true) (mem : (a, v) ∈ m) : tabGet d m a = v :=
  (tabGet_of_mem_from canonical mem).1

end

/-- A key that does not read as the default has its entry. -/
theorem mem_of_tabGet_ne {α : Type} {d : Nat → α} {m : List (Nat × α)} {a : Nat} (listed : tabGet d m a ≠ d a) :
    (a, tabGet d m a) ∈ m := by
  induction m with
  | nil => exact absurd rfl listed
  | cons e m ih =>
    obtain ⟨k, w⟩ := e
    by_cases here : a = k
    · subst here
      simp [tabGet]
    · by_cases below : a < k
      · exact absurd (by simp [tabGet, here, below]) listed
      · simp only [tabGet, here, below, if_false] at listed ⊢
        exact List.mem_cons_of_mem _ (ih listed)

/-- What the retained-state mirror holds of word `w` of the register at `a`: the fields marked P, the others at their
Reset column. -/
def retainedWord (a : Nat) (w : Word) : Word := (w &&& pMask a) ||| (resetWord a &&& ~~~(pMask a))

theorem retainedWord_resetWord (a : Nat) : retainedWord a (resetWord a) = resetWord a := by
  unfold retainedWord
  rw [← BitVec.and_or_distrib_left, BitVec.or_not_self, BitVec.and_allOnes]

theorem retainedWord_of_no_field {a : Nat} (w : Word) (noField : pMask a = 0) : retainedWord a w = resetWord a := by
  have noMask : pMask a = 0#32 := noField
  unfold retainedWord
  rw [noMask, BitVec.and_zero, BitVec.zero_or, BitVec.not_zero, BitVec.and_allOnes]

/-- The words that a write of the mirror takes from the registers `m`. -/
def retainedWords (m : RegFile) : RegFile :=
  (m.filter (fun e => mirrored e.1 && pMask e.1 != 0)).map (fun e => (e.1, retainedWord e.1 e.2))

theorem mem_retainedWords {m : RegFile} {e : Nat × Word} : e ∈ retainedWords m ↔
    ∃ w, (e.1, w) ∈ m ∧ mirrored e.1 = true ∧ pMask e.1 ≠ 0 ∧ e.2 = retainedWord e.1 w := by
  simp only [retainedWords, List.mem_map, List.mem_filter, Bool.and_eq_true, bne_iff_ne]
  constructor
  · rintro ⟨⟨a, w⟩, ⟨mem, kept, field⟩, rfl⟩
    exact ⟨w, mem, kept, field, rfl⟩
  · rintro ⟨w, mem, kept, field, value⟩
    exact ⟨(e.1, w), ⟨mem, kept, field⟩, Prod.ext rfl value.symm⟩

/-- After a write of the mirror a mirrored register has its retained word there; the others stay. -/
theorem tabGet_retained {r m : RegFile} (a : Nat) (regs : tabWf resetWord r = true) (mirror : tabWf resetWord m = true) :
    tabGet resetWord (tabSetAll resetWord (tabKeep (fun a => !(mirrored a)) m) (retainedWords r)) a =
      if mirrored a then retainedWord a (tabGet resetWord r a) else tabGet resetWord m a := by
  have kept : tabGet resetWord (tabKeep (fun a => !(mirrored a)) m) a =
      if !(mirrored a) then tabGet resetWord m a else resetWord a := tabGet_tabKeep mirror
  apply tabGet_tabSetAll_eq (tabKeep_wf mirror)
  case writes =>
    rintro e mem rfl
    obtain ⟨w, listed, isMirrored, -, value⟩ := mem_retainedWords.1 mem
    rw [if_pos isMirrored, tabGet_of_mem regs listed, value]
  case known =>
    by_cases isMirrored : mirrored a = true
    · by_cases field : pMask a = 0
      · right
        rw [kept, if_pos isMirrored, retainedWord_of_no_field _ field, isMirrored]
        rfl
      · by_cases reset : tabGet resetWord r a = resetWord a
        · right
          rw [kept, if_pos isMirrored, reset, retainedWord_resetWord, isMirrored]
          rfl
        · left
          exact ⟨(a, retainedWord a (tabGet resetWord r a)),
            mem_retainedWords.2 ⟨_, mem_of_tabGet_ne reset, isMirrored, field, rfl⟩, rfl⟩
    · right
      rw [kept, if_neg isMirrored, Bool.eq_false_iff.2 isMirrored]
      rfl

theorem State.freshenAlm_mirror (s : State) : s.freshenAlm.mirror = s.mirror := by
  unfold State.freshenAlm
  refine (foldS_frame (part := State.mirror) ?_ _ _).trans (foldS_frame (part := State.mirror) ?_ _ _) <;>
    exact fun _ _ => rfl

theorem State.mirrorPd5_powered (s : State) (d : Nat) : s.mirrorPd5.powered d = s.powered d := by
  unfold State.mirrorPd5 State.toMirror
  split
  · split <;> rfl
  · rfl

theorem State.writeMirror_of_powered {s : State} (on : s.powered 8 = true) : s.writeMirror =
    s.freshenAlm.setMirror (tabSetAll resetWord (tabKeep (fun a => !(mirrored a)) s.mirror)
      (retainedWords s.freshenAlm.regs)) := by
  unfold State.writeMirror
  rw [on, if_neg (by decide)]
  dsimp only
  rw [s.freshenAlm_mirror]
  rfl

theorem exec_retainedMirrorWrite_of_on {s : State} {t : Time} (on : (s.atTime t).almOn = true) :
    exec (.retainedMirrorWrite t) s = .next (s.atTime t).mirrorPd5.writeMirror := congrArg _ (if_pos on)

end Sys2Proof.Machine
end

section
/-! SUPPORT. The statements of the plans and the watch-keeper check. -/

open Sys2Proof Sys2Proof.Machine

namespace Sys2Proof.Proofs

theorem planActions : Clauses.PlanActions := by
  unfold Clauses.PlanActions
  intro s₀ pl cause level t
  dsimp only
  refine ⟨fun beyond => ⟨congrArg _ (State.startPlanOp_of_beyond beyond), congrArg _ (if_pos beyond)⟩,
    fun inside above other => congrArg _ (State.startPlanOp_of_no_cause inside above other),
    fun inside allowed ok call idle => ?started,
    fun inside _ => congrArg _ (State.endPlanAct_of_inside inside),
    fun inside outside => congrArg _ (State.acceptLevelOp_of_no_level inside outside),
    fun inside first last call running reached enabled => ?accepted,
    fun inside first wk busy => ?reset,
    fun inside running => congrArg _ (State.silencePlanOp_of_running inside running)⟩
  case started =>
    refine congrArg _ ((State.startPlanOp_of_idle inside allowed ok call idle).trans ?_)
    rw [State.beginPlan_at_first_level]
  case accepted =>
    have accept := (State.acceptLevelOp_of_level inside first last).trans
      (congrArg (State.answer · .ok) (State.levelInput_of_call call))
    refine ⟨fun ends => congrArg _ (accept.trans ?_), fun accepts sound => congrArg _ (accept.trans ?_)⟩
    · rw [State.acceptAt_of_end_mode running reached enabled ends]
    · rw [State.acceptAt_of_accept_mode running reached enabled accepts sound]
      rfl
  case reset =>
    refine congrArg _ ((State.acceptLevelOp_of_level inside (Nat.le_of_eq first.symm) (by omega)).trans ?_)
    rw [first, State.levelInput_of_reset wk busy]

theorem watchKeeperActions : Clauses.WatchKeeperActions := by
  unfold Clauses.WatchKeeperActions
  intro s₀ pl target eng code t
  dsimp only
  refine ⟨fun inside ok wk => ⟨?armed, fun busy => congrArg _ (State.disarmOp_of_armed inside ok wk busy),
      fun idle => congrArg _ (State.disarmOp_of_idle inside ok wk idle)⟩,
    fun inside call => congrArg _ (State.armOp_of_call inside call),
    fun other => congrArg _ (State.selectWatchOp_of_no_target other),
    fun own byAction disabled => congrArg _ (State.selectWatchOp_of_disabled own byAction disabled),
    fun own byAction enabled => congrArg _ (State.selectWatchOp_of_enabled own byAction enabled),
    fun on byCode bits since => ?selected⟩
  case armed =>
    refine congrArg _ ((State.armOp_of_watchKeeper inside ok wk).trans ?_)
    rw [State.armed_eq]
  case selected =>
    exact exec_watchCodeStable_of_stable on byCode (State.watchCode_of_bits bits) (State.watchStable_of_since since)

theorem planTimersAndInputs : Clauses.PlanTimersAndInputs := by
  unfold Clauses.PlanTimersAndInputs
  intro s₀ pl lv di d t
  dsimp only
  refine ⟨fun on running began due => ?levelTimer, fun on armed began due => ?prewarning,
    fun on phase began due => ?expiry, fun on edge => ?reset, exec_acceptInputEdge_of_edge,
    exec_patternToggle_of_ended, fun on powered sound => ?mirror⟩
  case levelTimer =>
    rw [exec_planLevelTimer_of_due on running began due]
    exact ⟨fun below => congrArg _ (State.levelTimer_below below), fun last => congrArg _ (State.levelTimer_at_last last)⟩
  case prewarning => exact exec_wkPrewarning_of_due on armed ((State.wkElapsed_of_due began).trans due)
  case expiry =>
    refine exec_wkExpiry_of_due on phase ((State.wkElapsed_of_due began).trans ?_)
    rwa [Nat.add_sub_cancel]
  case reset =>
    rw [exec_wkResetInput_of_edge on edge]
    simp only [State.wkReset_if]
    rfl
  case mirror =>
    have mirrored5 : (s₀.atTime t).mirrorPd5.sound = true :=
      (State.mirrorPd5_keeps (State.atTime_keeps (.refl s₀))).sound sound
    have fresh := (State.freshenAlm_keeps (.refl _)).sound mirrored5
    refine ⟨_, ?_, fun a => tabGet_retained a (State.sound.regs fresh) (State.sound.mirror mirrored5)⟩
    rw [exec_retainedMirrorWrite_of_on on,
      State.writeMirror_of_powered ((State.mirrorPd5_powered _ _).trans powered)]

/-- Settles O41: the three families of clauses. The reasons of E2C and level 2 after a watch-keeper's expiry are log 12, that
a plan without a cause shows 0x1FF is log 13. -/
theorem plansAndWatchKeepers : Obligations.PlansAndWatchKeepers :=
  ⟨planActions, watchKeeperActions, planTimersAndInputs⟩

end Sys2Proof.Proofs
end

section
/-! SUPPORT. The rules of an instruction of a core that issues: what its fetch leaves, and what the shared forms of an
instruction come to (R190, R197, R198). -/

namespace Sys2Proof.Machine

/-! ### The fetch (R216) -/

/-- `k'` differs from `k` in its line store and in the lines asked for only. -/
def Core.FetchesOnly (k k' : Core) : Prop := ∃ lines asked, k' = { k with lines := lines, asked := asked }

theorem Core.FetchesOnly.trans {k k' k'' : Core} (h : k.FetchesOnly k') (g : k'.FetchesOnly k'') : k.FetchesOnly k'' := by
  obtain ⟨_, _, rfl⟩ := h
  obtain ⟨lines, asked, rfl⟩ := g
  exact ⟨lines, asked, rfl⟩

theorem Core.ask_fetchesOnly (k : Core) (l : Nat) : k.FetchesOnly (k.ask l) := by
  unfold Core.ask
  split
  · exact ⟨k.lines, k.asked, rfl⟩
  · exact ⟨k.lines, k.asked ++ [l], rfl⟩

theorem Core.touch_fetchesOnly (k : Core) (l : Nat) : k.FetchesOnly (k.touch l) := by
  unfold Core.touch
  split
  · exact ⟨l :: k.lines.erase l, k.asked, rfl⟩
  · exact ⟨k.lines, k.asked, rfl⟩

theorem Core.fetchFrom_fetchesOnly (k : Core) (l : Nat) : k.FetchesOnly (k.fetchFrom l) :=
  ((((k.touch_fetchesOnly l).trans (Core.ask_fetchesOnly _ _)).trans (Core.ask_fetchesOnly _ _)).trans
    (Core.ask_fetchesOnly _ _)).trans (Core.ask_fetchesOnly _ _)

/-- A part of a core that neither its line store nor its requests reach is after a fetch what it was before. -/
theorem State.fetched_part {α : Type} (part : Core → α) (s : State) (c : CoreId)
    (h : ∀ lines asked, part { s.core c with lines := lines, asked := asked } = part (s.core c)) :
    part (s.fetched c) = part (s.core c) := by
  obtain ⟨lines, asked, e⟩ := (s.core c).fetchFrom_fetchesOnly (lineOf (s.core c).pc)
  exact (congrArg part e).trans (h lines asked)

section
variable (s : State) (c : CoreId)

@[simp] theorem State.fetched_get (i : BitVec 5) : (s.fetched c).get i = s.word c i :=
  s.fetched_part (fun k => k.get i) c fun _ _ => rfl

@[simp] theorem State.fetched_w : (s.fetched c).w = (s.core c).w := s.fetched_part Core.w c fun _ _ => rfl

@[simp] theorem State.fetched_pc : (s.fetched c).pc = (s.core c).pc := s.fetched_part Core.pc c fun _ _ => rfl

@[simp] theorem State.fetched_stat : (s.fetched c).stat = (s.core c).stat := s.fetched_part Core.stat c fun _ _ => rfl

@[simp] theorem State.fetched_xd : (s.fetched c).xd = (s.core c).xd := s.fetched_part Core.xd c fun _ _ => rfl

@[simp] theorem State.fetched_epc : (s.fetched c).epc = (s.core c).epc := s.fetched_part Core.epc c fun _ _ => rfl

@[simp] theorem State.fetched_dpc : (s.fetched c).dpc = (s.core c).dpc := s.fetched_part Core.dpc c fun _ _ => rfl

@[simp] theorem State.fetched_cause : (s.fetched c).cause = (s.core c).cause := s.fetched_part Core.cause c fun _ _ => rfl

@[simp] theorem State.fetched_tick : (s.fetched c).tick = (s.core c).tick := s.fetched_part Core.tick c fun _ _ => rfl

@[simp] theorem State.fetched_evm : (s.fetched c).evm = (s.core c).evm := s.fetched_part Core.evm c fun _ _ => rfl

@[simp] theorem State.fetched_sram : (s.fetched c).sram = (s.core c).sram := s.fetched_part Core.sram c fun _ _ => rfl

@[simp] theorem State.fetched_cmtd : (s.fetched c).cmtd = (s.core c).cmtd := s.fetched_part Core.cmtd c fun _ _ => rfl

@[simp] theorem State.fetched_cmtn : (s.fetched c).cmtn = (s.core c).cmtn := s.fetched_part Core.cmtn c fun _ _ => rfl

@[simp] theorem State.fetched_active : (s.fetched c).active = (s.core c).active :=
  s.fetched_part Core.active c fun _ _ => rfl

end

/-! ### An instruction that issues -/

@[simp] theorem State.setCore_setCore (s : State) (c : CoreId) (k k' : Core) :
    (s.setCore c k).setCore c k' = s.setCore c k' := by cases c <;> rfl

/-- What issuing takes: the core runs with its fetch not stalled, PC lies in the executing image, and the word there has
no reserved major, fn or sub-operation. -/
theorem State.issues_iff {s : State} {c : CoreId} : s.issues c = true ↔
    s.canIssue c = true ∧ execAddr (s.core c).pc = true ∧ ∃ i, decodeCore c s.now (s.fetchWord c) = .instr i := by
  unfold State.issues State.fetches State.canIssue
  cases decodeCore c s.now (s.fetchWord c) <;> simp [and_assoc]

section
variable {s : State} {c : CoreId} (h : s.issues c = true)
include h

theorem State.issue_of_issues {f : Core → State → State} :
    s.issue c f = f (s.fetched c) (s.setCore c (s.fetched c)) := by
  obtain ⟨can, inside, i, word⟩ := State.issues_iff.1 h
  simp only [State.issue, can, inside, word, Bool.not_true, Bool.false_eq_true, if_false]
  rfl

theorem State.coreStep_of_done {f : Core → CoreEff} {k : Core} (e : f (s.fetched c) = .done k) :
    s.coreStep c f = s.setCore c k := by
  rw [State.coreStep, State.issue_of_issues h, e, State.takeEff, State.setCore_setCore]

theorem State.coreStep_of_exc {f : Core → CoreEff} {v d : Nat} (e : f (s.fetched c) = .exc v d) :
    s.coreStep c f = (s.setCore c (s.fetched c)).takeExc c v d := by
  rw [State.coreStep, State.issue_of_issues h, e, State.takeEff]

variable {wd wa wb : BitVec 5}

theorem State.coreStep_opReg {f : Core → Word} {ok : Bool} (unused : ok = true) :
    s.coreStep c (opReg ok wd f) = s.wrote c wd (f (s.fetched c)) :=
  State.coreStep_of_done h (if_pos unused)

theorem State.alu_of_issues {f : Word → Word → Word} {v : Word} (e : f (s.word c wa) (s.word c wb) = v) :
    s.alu c wd wa wb f = s.wrote c wd v := by
  rw [State.alu, State.coreStep_opReg h rfl, State.fetched_get, State.fetched_get, e]

theorem State.alu1_of_issues {f : Word → Word} {v : Word} (e : f (s.word c wa) = v) :
    s.alu1 c wd wa 0 f = s.wrote c wd v := by
  rw [State.alu1, State.coreStep_opReg h (decide_eq_true rfl), State.fetched_get, e]

theorem State.aluImm_of_issues {f : Word → Word} {v : Word} (e : f (s.word c wa) = v) :
    s.aluImm c wd wa f = s.wrote c wd v := by
  rw [State.aluImm, State.coreStep_opReg h rfl, State.fetched_get, e]

end

end Sys2Proof.Machine
end

section
/-! SUPPORT. The one-word results of a core's computing instructions, as signed or unsigned numbers (R199–R202). -/

namespace Sys2Proof.Machine

theorem boolWord_ltS (a b : Word) : boolWord (ltS a b) = if a.toInt < b.toInt then 1 else 0 := by
  simp [boolWord, ltS]

theorem boolWord_ltU (a b : Word) : boolWord (ltU a b) = if a.toNat < b.toNat then 1 else 0 := by
  simp [boolWord, ltU]

theorem sraWord_eq (a : Word) (k : Nat) : sraWord a k = BitVec.ofInt 32 (a.toInt / 2 ^ k) := by
  rw [sraWord, BitVec.sshiftRight, Int.shiftRight_eq_div_pow]
  rfl

/-! ### The lesser and the greater -/

theorem minS_eq (a b : Word) : (if ltS b a then b else a) = BitVec.ofInt 32 (min a.toInt b.toInt) := by
  simp only [ltS, decide_eq_true_eq]
  split
  · rw [min_eq_right (by omega), BitVec.ofInt_toInt]
  · rw [min_eq_left (by omega), BitVec.ofInt_toInt]

theorem maxS_eq (a b : Word) : (if ltS a b then b else a) = BitVec.ofInt 32 (max a.toInt b.toInt) := by
  simp only [ltS, decide_eq_true_eq]
  split
  · rw [max_eq_right (by omega), BitVec.ofInt_toInt]
  · rw [max_eq_left (by omega), BitVec.ofInt_toInt]

theorem minU_eq (a b : Word) : (if ltU b a then b else a) = BitVec.ofNat 32 (min a.toNat b.toNat) := by
  simp only [ltU, decide_eq_true_eq]
  split
  · rw [min_eq_right (by omega), BitVec.ofNat_toNat, BitVec.setWidth_eq]
  · rw [min_eq_left (by omega), BitVec.ofNat_toNat, BitVec.setWidth_eq]

theorem maxU_eq (a b : Word) : (if ltU a b then b else a) = BitVec.ofNat 32 (max a.toNat b.toNat) := by
  simp only [ltU, decide_eq_true_eq]
  split
  · rw [max_eq_right (by omega), BitVec.ofNat_toNat, BitVec.setWidth_eq]
  · rw [max_eq_left (by omega), BitVec.ofNat_toNat, BitVec.setWidth_eq]

/-! ### Saturation (R200) -/

theorem satWord_eq (x : Int) : satWord x = limit32 x := by
  unfold satWord limit32 clampInt
  congr 1
  split
  · omega
  · split <;> omega

theorem toInt_immS (imm : BitVec 16) : (immS imm).toInt = imm.toInt := BitVec.toInt_signExtend_of_le (by decide)

theorem addSat_immS (a : Word) (imm : BitVec 16) : addSat a (immS imm) = limit32 (a.toInt + imm.toInt) := by
  rw [addSat, toInt_immS, satWord_eq]

theorem absSat_eq (a : Word) : absSat a = limit32 (if a.toInt < 0 then -a.toInt else a.toInt) := by
  rw [absSat, satWord_eq]
  congr 1
  split <;> omega

/-! ### Leading zeros, and extension from a bit (R200, R202) -/

theorem leadZeros_le (w n : Nat) : leadZeros w n ≤ w := by
  induction w with
  | zero => exact Nat.le_refl 0
  | succ w ih =>
    unfold leadZeros
    split <;> omega

theorem testBit_of_leadZeros {w n i : Nat} (above : w - leadZeros w n ≤ i) (below : i < w) : n.testBit i = false := by
  induction w with
  | zero => exact absurd below (Nat.not_lt_zero i)
  | succ w ih =>
    unfold leadZeros at above
    split at above
    next => omega
    next clear =>
      rcases Nat.lt_succ_iff_lt_or_eq.1 below with lower | top
      · exact ih (by omega) lower
      · rw [top]
        exact Bool.eq_false_iff.2 clear

/-- Below its leading zeros stands a 1. -/
theorem testBit_at_leadZeros {w n : Nat} (some : leadZeros w n < w) : n.testBit (w - 1 - leadZeros w n) = true := by
  induction w with
  | zero => exact absurd some (Nat.not_lt_zero _)
  | succ w ih =>
    unfold leadZeros at some ⊢
    split
    next set => exact set
    next clear =>
      rw [if_neg clear] at some
      have place : w + 1 - 1 - (leadZeros w n + 1) = w - 1 - leadZeros w n := by omega
      rw [place]
      exact ih (by omega)

theorem signOf_toNat {w : Nat} (x : BitVec (w + 1)) : signOf (w + 1) x.toNat = x.toInt := by
  have double : 2 ^ (w + 1) = 2 * 2 ^ w := by rw [Nat.pow_succ, Nat.mul_comm]
  rw [signOf, BitVec.toInt_eq_toNat_cond, Nat.add_sub_cancel]
  split <;> split <;> omega

theorem sxtWord_eq (a : Word) (k : Nat) : sxtWord a k = (a.setWidth (k + 1)).signExtend 32 := by
  rw [sxtWord, ← BitVec.toNat_setWidth, signOf_toNat, BitVec.signExtend]

theorem getLsbD_sxtWord {a : Word} {k i : Nat} (inside : i < 32) :
    (sxtWord a k).getLsbD i = a.getLsbD (min i k) := by
  rw [sxtWord_eq, BitVec.getLsbD_signExtend, BitVec.msb_setWidth]
  rcases Nat.lt_or_ge i (k + 1) with low | high
  · rw [min_eq_left (by omega)]
    simp [inside, low]
  · rw [min_eq_right (by omega)]
    simp [inside, Nat.not_lt.2 high]

theorem getLsbD_zxtWord (a : Word) (k i : Nat) : (zxtWord a k).getLsbD i = (decide (i ≤ k) && a.getLsbD i) := by
  rw [zxtWord, BitVec.getLsbD_ofNat, Nat.testBit_mod_two_pow]
  rcases Nat.lt_or_ge i 32 with inside | outside
  · simp [inside, BitVec.getLsbD]
  · simp [Nat.not_lt.2 outside, BitVec.getLsbD_of_ge a i outside]

/-! ### Products and quotients (R201) -/

theorem mul_eq_ofNat (a b : Word) : a * b = BitVec.ofNat 32 (a.toNat * b.toNat) := rfl

theorem remWord_eq (a b : Word) : remWord a b =
    if b = 0 then a else BitVec.ofInt 32 (a.toInt - b.toInt * a.toInt.tdiv b.toInt) := by
  rw [remWord, Int.tmod_def]

/-- LUI (R202). -/
theorem immZ_shiftLeft (imm : BitVec 16) : immZ imm <<< 16 = BitVec.ofNat 32 (imm.toNat * 65536) := by
  apply BitVec.eq_of_toNat_eq
  simp [immZ, Nat.shiftLeft_eq]

end Sys2Proof.Machine
end

section
/-! SUPPORT. The fields of a word of the cores: what an encoded word holds in each, and which words have no instruction
(R197–R202, R209, R212). -/

namespace Sys2Proof

/-! ### The fields of an encoded word (R197) -/

section
open BitVec
variable (m : BitVec 6) (a b d n : BitVec 5) (fn : BitVec 11) (imm : BitVec 16) (off : BitVec 26)

@[simp] theorem wordMajor_formatA : wordMajor (formatA m a b d fn) = m := by
  simp (disch := decide) only [wordMajor, formatA, extractLsb'_append_eq_of_le, Nat.reduceSub, extractLsb'_eq_self]

@[simp] theorem wordF1_formatA : wordF1 (formatA m a b d fn) = a := by
  simp (disch := decide) only [wordF1, formatA, extractLsb'_append_eq_of_le, extractLsb'_append_eq_of_add_le,
    Nat.reduceSub, extractLsb'_eq_self]

@[simp] theorem wordF2_formatA : wordF2 (formatA m a b d fn) = b := by
  simp (disch := decide) only [wordF2, formatA, extractLsb'_append_eq_of_le, extractLsb'_append_eq_of_add_le,
    Nat.reduceSub, extractLsb'_eq_self]

@[simp] theorem wordF3_formatA : wordF3 (formatA m a b d fn) = d := by
  simp (disch := decide) only [wordF3, formatA, extractLsb'_append_eq_of_le, extractLsb'_append_eq_of_add_le,
    Nat.reduceSub, extractLsb'_eq_self]

@[simp] theorem wordFn_formatA : wordFn (formatA m a b d fn) = fn := by
  simp (disch := decide) only [wordFn, formatA, extractLsb'_append_eq_of_add_le, extractLsb'_eq_self]

@[simp] theorem wordMajor_formatB : wordMajor (formatB m a b imm) = m := by
  simp (disch := decide) only [wordMajor, formatB, extractLsb'_append_eq_of_le, Nat.reduceSub, extractLsb'_eq_self]

@[simp] theorem wordF1_formatB : wordF1 (formatB m a b imm) = a := by
  simp (disch := decide) only [wordF1, formatB, extractLsb'_append_eq_of_le, extractLsb'_append_eq_of_add_le,
    Nat.reduceSub, extractLsb'_eq_self]

@[simp] theorem wordF2_formatB : wordF2 (formatB m a b imm) = b := by
  simp (disch := decide) only [wordF2, formatB, extractLsb'_append_eq_of_le, extractLsb'_append_eq_of_add_le,
    Nat.reduceSub, extractLsb'_eq_self]

@[simp] theorem wordImm_formatB : wordImm (formatB m a b imm) = imm := by
  simp (disch := decide) only [wordImm, formatB, extractLsb'_append_eq_of_add_le, extractLsb'_eq_self]

@[simp] theorem wordMajor_formatJ : wordMajor (formatJ m off) = m := by
  simp (disch := decide) only [wordMajor, formatJ, extractLsb'_append_eq_of_le, Nat.reduceSub, extractLsb'_eq_self]

@[simp] theorem wordOff_formatJ : wordOff (formatJ m off) = off := by
  simp (disch := decide) only [wordOff, formatJ, extractLsb'_append_eq_of_add_le, extractLsb'_eq_self]

@[simp] theorem wordMajor_formatShift (sub : BitVec 6) : wordMajor (formatShift sub a b d n) = 0x0C :=
  wordMajor_formatA _ a b d _

@[simp] theorem wordF1_formatShift (sub : BitVec 6) : wordF1 (formatShift sub a b d n) = a := wordF1_formatA _ a b d _

@[simp] theorem wordF2_formatShift (sub : BitVec 6) : wordF2 (formatShift sub a b d n) = b := wordF2_formatA _ a b d _

@[simp] theorem wordF3_formatShift (sub : BitVec 6) : wordF3 (formatShift sub a b d n) = d := wordF3_formatA _ a b d _

/-- The sub-operation of a shift word (R202). -/
@[simp] theorem shiftSub_formatShift (sub : BitVec 6) : (formatShift sub a b d n).extractLsb' 5 6 = sub := by
  simp (disch := decide) only [formatShift, formatA, extractLsb'_append_eq_of_le, extractLsb'_append_eq_of_add_le,
    Nat.reduceSub, extractLsb'_eq_self]

/-- The amount of a shift word (R202). -/
@[simp] theorem amount_formatShift (sub : BitVec 6) : (formatShift sub a b d n).extractLsb' 0 5 = n := by
  simp (disch := decide) only [formatShift, formatA, extractLsb'_append_eq_of_add_le, extractLsb'_eq_self]

/-- The timer number of a TMA (R205). -/
theorem timer_formatB (x : BitVec 1) (tm : BitVec 15) : (formatB m a b (x ++ tm)).extractLsb' 0 15 = tm := by
  simp (disch := decide) only [formatB, extractLsb'_append_eq_of_add_le, extractLsb'_eq_self]

/-- Bit D of a TMA (R205). -/
theorem bitD_formatB (x : BitVec 1) (tm : BitVec 15) : (formatB m a b (x ++ tm)).getLsbD 15 = x.getLsbD 0 :=
  (getLsbD_append (x := m ++ a ++ b) (y := x ++ tm)).trans (getLsbD_append (x := x) (y := tm))

@[simp] theorem decodeTma_arm (c : CoreId) (tm : BitVec 15) :
    decodeTma c (formatB m a b (0#1 ++ tm)) = .instr (.tmaArm c a b tm) := by
  rw [decodeTma, bitD_formatB, timer_formatB, wordF1_formatB, wordF2_formatB]
  rfl

@[simp] theorem decodeTma_disarm (c : CoreId) (tm : BitVec 15) :
    decodeTma c (formatB m a b (1#1 ++ tm)) = .instr (.tmaDisarm c a b tm) := by
  rw [decodeTma, bitD_formatB, timer_formatB, wordF1_formatB, wordF2_formatB]
  rfl

end

/-! ### An encoded word decodes to its instruction -/

/-- By the instruction: its major, and where one major has several instructions the fn or sub-operation, leads the decoder
to it, and its fields read what was put in them. -/
theorem decodeCore_of_encodeCore {i : Instr} {w : Word} {c : CoreId} {t u : Time} (enc : encodeCore i = some w)
    (args : i.coreArgs t = some (c, u)) : decodeCore c u w = .instr i := by
  unfold encodeCore at enc
  split at enc
  case h_76 => contradiction
  all_goals
    obtain ⟨rfl, rfl⟩ := Prod.mk.inj (Option.some.inj args)
    obtain rfl := Option.some.inj enc
    simp [decodeCore, decodeAlu, decodeMulDiv, decodeJumpReg, decodeShift, decodeSystem, formatS]

/-! ### The words that have no instruction (R198, R212) -/

section
variable (w : Word)

theorem toNat_wordMajor : (wordMajor w).toNat = w.toNat / 2 ^ 26 := by
  rw [wordMajor, BitVec.extractLsb'_toNat, Nat.shiftRight_eq_div_pow]
  omega

theorem toNat_wordF1 : (wordF1 w).toNat = w.toNat / 2 ^ 21 % 2 ^ 5 := by
  rw [wordF1, BitVec.extractLsb'_toNat, Nat.shiftRight_eq_div_pow]

theorem toNat_wordFn : (wordFn w).toNat = w.toNat % 2 ^ 11 := by
  rw [wordFn, BitVec.extractLsb'_toNat, Nat.shiftRight_zero]

theorem toNat_shiftSub : (w.extractLsb' 5 6).toNat = w.toNat % 2 ^ 11 / 32 := by
  rw [BitVec.extractLsb'_toNat, Nat.shiftRight_eq_div_pow]
  omega

variable (c : CoreId) (d : Nat)

theorem badMajor_illegal_iff : badMajor = .illegal d ↔ d = 1 := by rw [badMajor, CoreDecode.illegal.injEq, eq_comm]

theorem decodeAlu_illegal_iff : decodeAlu c w = .illegal d ↔ d = 2 ∧ 0x15 ≤ (wordFn w).toNat := by
  unfold decodeAlu
  split
  case h_22 => simp only [imp_false, badFn, CoreDecode.illegal.injEq] at *; omega
  all_goals simp [*]

theorem decodeMulDiv_illegal_iff : decodeMulDiv c w = .illegal d ↔ d = 2 ∧ 0x08 ≤ (wordFn w).toNat := by
  unfold decodeMulDiv
  split
  case h_9 => simp only [imp_false, badFn, CoreDecode.illegal.injEq] at *; omega
  all_goals simp [*]

theorem decodeJumpReg_illegal_iff : decodeJumpReg c w = .illegal d ↔ d = 2 ∧ 2 ≤ (wordFn w).toNat := by
  unfold decodeJumpReg
  split
  case h_3 => simp only [imp_false, badFn, CoreDecode.illegal.injEq] at *; omega
  all_goals simp [*]

theorem decodeShift_illegal_iff : decodeShift c w = .illegal d ↔ d = 2 ∧ 5 ≤ (w.extractLsb' 5 6).toNat := by
  unfold decodeShift
  dsimp only
  split
  case h_6 => simp only [imp_false, badFn, CoreDecode.illegal.injEq] at *; omega
  all_goals simp [*]

theorem decodeSystem_illegal_iff : decodeSystem c w = .illegal d ↔ d = 2 ∧ 5 ≤ (wordF1 w).toNat := by
  unfold decodeSystem
  split
  case h_6 => simp only [imp_false, badFn, CoreDecode.illegal.injEq] at *; omega
  all_goals simp [*]

/-- Which words are ILLEGAL, by the major, and where the major has several instructions by its fn or sub-operation. -/
theorem decodeCore_illegal_iff {m : Nat} (t : Time) (major : (wordMajor w).toNat = m) : decodeCore c t w = .illegal d ↔
    d = 1 ∧ (m = 0x03 ∨ 0x0D ≤ m ∧ m ≤ 0x0F ∨ m = 0x15 ∨ 0x19 ≤ m ∧ m ≤ 0x1F ∨
      0x26 ≤ m ∧ m ≤ 0x27 ∨ 0x2A ≤ m ∧ m ≤ 0x2F ∨ 0x3A ≤ m) ∨
    d = 2 ∧ (m = 0x00 ∧ 0x15 ≤ (wordFn w).toNat ∨ m = 0x01 ∧ 0x08 ≤ (wordFn w).toNat ∨ m = 0x02 ∧ 2 ≤ (wordFn w).toNat ∨
      m = 0x0C ∧ 5 ≤ (w.extractLsb' 5 6).toNat ∨ m = 0x38 ∧ 5 ≤ (wordF1 w).toNat) := by
  have below : m < 64 := major ▸ (wordMajor w).isLt
  interval_cases m <;>
    simp [decodeCore, major, badMajor_illegal_iff, decodeAlu_illegal_iff, decodeMulDiv_illegal_iff,
      decodeJumpReg_illegal_iff, decodeShift_illegal_iff, decodeSystem_illegal_iff, decodeTma]

end

end Sys2Proof
end

section
/-! SUPPORT. The rules of a write to a general word, and of the jumps and branches (R186, R197–R199). -/

namespace Sys2Proof.Machine

/-! ### Writing a general word (R186, R198) -/

/-- An instruction that writes a word changes the general words and PC alone. -/
theorem Core.next_eq (k : Core) (wd : BitVec 5) (v : Word) :
    k.next wd v = { k with w := (k.set wd v).w, pc := k.pc + 4 } := by
  unfold Core.next Core.set
  split <;> rfl

theorem Core.get_next {k : Core} {wd i : BitVec 5} {v : Word} (words : tabWf (dflt 0) k.w = true) (general : i ≠ 0) :
    (k.next wd v).get i = if i = wd then v else k.get i := by
  rw [Core.next_eq, Core.get, if_neg general, Core.set, Core.get, if_neg general]
  split
  next discarded => rw [if_neg (discarded ▸ general)]
  next =>
    rw [tabGet_tabSet words]
    simp only [BitVec.toNat_inj]

theorem State.word_wrote (s : State) (c : CoreId) (wd i : BitVec 5) (v : Word) :
    (s.wrote c wd v).word c i = ((s.fetched c).next wd v).get i := by rw [State.word, State.wrote, State.core_setCore_same]

theorem State.word_wrote_zero (s : State) (c : CoreId) (wd : BitVec 5) (v : Word) : (s.wrote c wd v).word c 0 = 0 := rfl

theorem Core.wf_w {k : Core} (h : k.wf = true) : tabWf (dflt 0) k.w = true := by
  simp only [Core.wf, Bool.and_eq_true] at h
  exact h.1.1.2

/-! ### Jumps and branches (R197, R199) -/

theorem target_aligned {w : Nat} {pc : Word} (h : pc.toNat % 4 = 0) (off : BitVec w) : (target pc off).toNat % 4 = 0 := by
  have four : (4 : Word).toNat = 4 := rfl
  simp only [target, BitVec.toNat_add, BitVec.toNat_mul, four]
  omega

theorem jumpTo_of_aligned {t : Word} (h : t.toNat % 4 = 0) (k : Core) : jumpTo t k = .done { k with pc := t } := if_pos h

section
variable {s : State} {c : CoreId} (h : s.issues c = true)
include h

theorem State.jump_of_issues {t : Core → Word} {u : Word} (e : t (s.fetched c) = u) (aligned : u.toNat % 4 = 0) :
    s.coreStep c (fun k => jumpTo (t k) k) = s.wentTo c u :=
  State.coreStep_of_done h (by rw [e, jumpTo_of_aligned aligned])

/-- A jump that writes the address of the next word to `wd`. -/
theorem State.link_of_issues {t : Core → Word} {u : Word} {wd : BitVec 5} (e : t (s.fetched c) = u)
    (aligned : u.toNat % 4 = 0) : s.coreStep c (fun k => jumpTo (t k) (k.set wd (k.pc + 4))) =
      s.setCore c { (s.fetched c).set wd ((s.core c).pc + 4) with pc := u } :=
  State.coreStep_of_done h (by rw [e, jumpTo_of_aligned aligned, State.fetched_pc])

theorem State.branch_of_issues {wa wb : BitVec 5} {off : BitVec 16} {p : Word → Word → Bool}
    (aligned : (s.core c).pc.toNat % 4 = 0) : s.branch c wa wb off p =
      s.wentTo c (if p (s.word c wa) (s.word c wb) then Machine.target (s.core c).pc off else (s.core c).pc + 4) := by
  refine State.coreStep_of_done h ?_
  simp only [State.fetched_get, State.fetched_pc]
  split
  · exact jumpTo_of_aligned (target_aligned aligned off) _
  · rfl

end

end Sys2Proof.Machine
end

section
/-! SUPPORT. The rules of the loads and stores of a core's own memories (R190, R203, R204). -/

namespace Sys2Proof.Machine

/-! ### The bytes of a word -/

theorem toNat_append_eq {m n : Nat} (x : BitVec m) (y : BitVec n) : (x ++ y).toNat = x.toNat * 2 ^ n + y.toNat := by
  rw [BitVec.toNat_append, ← Nat.shiftLeft_add_eq_or_of_lt y.isLt, Nat.shiftLeft_eq]

/-- Byte `r` of a word of memory. -/
theorem bitsOf_memWord_byte (m : Mem) (b : Nat) {r : Nat} (inside : r < 4) :
    bitsOf (memWord 0 m b).toNat (8 * r) 8 = (memByte 0 m (b + r)).toNat := by
  have b0 := (memByte 0 m b).isLt
  have b1 := (memByte 0 m (b + 1)).isLt
  have b2 := (memByte 0 m (b + 2)).isLt
  simp only [bitsOf, memWord, toNat_append_eq]
  interval_cases r <;> simp only [Nat.reduceMul, Nat.reducePow, Nat.add_zero] <;> omega

/-- Halfword `r` of a word of memory. -/
theorem bitsOf_memWord_half (m : Mem) (b : Nat) {r : Nat} (inside : r = 0 ∨ r = 2) :
    bitsOf (memWord 0 m b).toNat (8 * r) 16 = (memByte 0 m (b + r + 1) ++ memByte 0 m (b + r)).toNat := by
  have b0 := (memByte 0 m b).isLt
  have b1 := (memByte 0 m (b + 1)).isLt
  have b2 := (memByte 0 m (b + 2)).isLt
  have b3 := (memByte 0 m (b + 3)).isLt
  simp only [bitsOf, memWord, toNat_append_eq]
  rcases inside with rfl | rfl <;>
    simp only [Nat.reduceMul, Nat.reducePow, Nat.add_zero, Nat.add_assoc, Nat.reduceAdd] <;> omega

section
variable (m : Mem) {a : Word}

/-- An aligned word is all of the word that holds it. -/
theorem partOf_four (w : Word) (aligned : a.toNat % 4 = 0) : partOf w a 4 = w := by
  apply BitVec.eq_of_toNat_eq
  simpa [partOf, bitsOf, aligned] using w.isLt

theorem partOf_memWord (aligned : a.toNat % 4 = 0) :
    partOf (memWord 0 m (a.toNat - a.toNat % 4)) a 4 = memWord 0 m a.toNat := by
  rw [partOf_four _ aligned, aligned, Nat.sub_zero]

theorem partOf_two (aligned : a.toNat % 2 = 0) : partOf (memWord 0 m (a.toNat - a.toNat % 4)) a 2 =
    (memByte 0 m (a.toNat + 1) ++ memByte 0 m a.toNat).zeroExtend 32 := by
  have place : a.toNat - a.toNat % 4 + a.toNat % 4 = a.toNat := by omega
  rw [partOf, bitsOf_memWord_half m _ (by omega), place, BitVec.ofNat_toNat]

theorem partOf_one : partOf (memWord 0 m (a.toNat - a.toNat % 4)) a 1 = (memByte 0 m a.toNat).zeroExtend 32 := by
  have place : a.toNat - a.toNat % 4 + a.toNat % 4 = a.toNat := by omega
  rw [partOf, bitsOf_memWord_byte m _ (Nat.mod_lt _ (by decide)), place, BitVec.ofNat_toNat]

end

theorem sxtWord_zeroExtend {n : Nat} (x : BitVec (n + 1)) (narrow : n + 1 ≤ 32) :
    sxtWord (x.zeroExtend 32) n = x.signExtend 32 := by
  rw [sxtWord_eq, BitVec.setWidth_setWidth_of_le x narrow, BitVec.setWidth_eq]

theorem Core.wf_sram {k : Core} (h : k.wf = true) : Memory.wf k.sram = true := by
  simp only [Core.wf, Bool.and_eq_true] at h
  exact h.1.1.1

/-! ### Loads and stores of SRAM, and loads of the snapshot -/

theorem sramAddr_of_bounds {a : Word} (low : 0x20000000 ≤ a.toNat) (high : a.toNat ≤ 0x2003FFFF) : sramAddr a = true :=
  Bool.and_eq_true_iff.2 ⟨decide_eq_true low, decide_eq_true high⟩

section
variable {s : State} {c : CoreId} (h : s.issues c = true) {n : Nat} {wd wa : BitVec 5} {imm : BitVec 16}
  {ext : Word → Word} (aligned : (s.word c wa + immS imm).toNat % n = 0)
include h aligned

/-- A load from SRAM or from the snapshot; the window of the registers lies elsewhere. -/
theorem State.loadN_of_local
    (here : sramAddr (s.word c wa + immS imm) = true ∨ snapshotAddr (s.word c wa + immS imm) = true) :
    s.loadN c n ext wd wa imm =
      s.wrote c wd (ext (partOf (s.localWord (s.fetched c) (s.word c wa + immS imm)) (s.word c wa + immS imm) n)) := by
  have elsewhere : peripheralAddr (s.word c wa + immS imm) = false := by
    clear aligned
    generalize s.word c wa + immS imm = a at here
    simp only [sramAddr, snapshotAddr, peripheralAddr, Bool.and_eq_true, Bool.and_eq_false_iff, decide_eq_true_eq,
      decide_eq_false_iff_not] at *
    omega
  rw [State.loadN, State.issue_of_issues h]
  simp only [State.fetched_get, aligned, elsewhere, ne_eq, not_true_eq_false, if_false, Bool.false_eq_true,
    Bool.or_eq_true, here, if_true, State.setCore_setCore]
  rfl

theorem State.storeN_of_sram (here : sramAddr (s.word c wa + immS imm) = true) : s.storeN c n wd wa imm =
    s.setCore c { s.fetched c with
      sram := memPut 0 (s.core c).sram (s.word c wa + immS imm).toNat (leBytes n (s.word c wd).toNat),
      pc := (s.core c).pc + 4 } := by
  refine State.coreStep_of_done h ?_
  simp only [State.fetched_get, aligned, here, ne_eq, not_true_eq_false, if_false, Bool.not_true, Bool.false_eq_true,
    State.fetched_sram, State.fetched_pc]

/-- A load from SRAM has its part of the word of SRAM that holds the address. -/
theorem State.loadN_of_sram (here : sramAddr (s.word c wa + immS imm) = true) {v : Word}
    (e : ext (partOf (memWord 0 (s.core c).sram
      ((s.word c wa + immS imm).toNat - (s.word c wa + immS imm).toNat % 4)) (s.word c wa + immS imm) n) = v) :
    s.loadN c n ext wd wa imm = s.wrote c wd v := by
  rw [State.loadN_of_local h aligned (.inl here), State.localWord, if_pos here, State.fetched_sram, e]

end

section
variable {s : State} {c : CoreId} (h : s.issues c = true) {wd wa : BitVec 5} {imm : BitVec 16}
include h

/-- LW from a word of the snapshot (R192). -/
theorem State.loadN_of_snapshot {o : Nat} (offset : (s.word c wa + immS imm).toNat = 0x30000000 + o) (inside : o < 0x10000)
    (aligned : o % 4 = 0) : s.loadN c 4 id wd wa imm = s.wrote c wd ((s.core c).active.word o) := by
  have four : (s.word c wa + immS imm).toNat % 4 = 0 := by omega
  have notSram : sramAddr (s.word c wa + immS imm) = false := by
    simp only [sramAddr, offset, Bool.and_eq_false_iff, decide_eq_false_iff_not]
    omega
  have here : snapshotAddr (s.word c wa + immS imm) = true := by
    simp only [snapshotAddr, offset, Bool.and_eq_true, decide_eq_true_eq]
    omega
  have place : (s.word c wa + immS imm).toNat - 0x30000000 = o := by omega
  rw [State.loadN_of_local h four (.inr here), partOf_four _ four, State.localWord, notSram, here, four, Nat.sub_zero,
    place, State.fetched_active]
  rfl

variable {limit base stride : Nat}

theorem State.snapLoad_of_lt (inside : (s.word c wa + immS imm).toNat < limit) : s.snapLoad c wd wa imm limit base stride =
    s.wrote c wd ((s.core c).active.word (base + stride * (s.word c wa + immS imm).toNat)) :=
  State.coreStep_of_done h (by simp only [State.fetched_get, inside, if_true, State.fetched_active])

theorem State.snapLoad_of_ge (outside : limit ≤ (s.word c wa + immS imm).toNat) :
    s.snapLoad c wd wa imm limit base stride = (s.setCore c (s.fetched c)).takeExc c 4 3 :=
  State.coreStep_of_exc h (by simp only [State.fetched_get, Nat.not_lt.2 outside, if_false])

end

/-- LW from the offset of the word that an indexed read returns. -/
theorem State.loadN_eq_snapLoad {s : State} {c : CoreId} (h : s.issues c = true) {wd wa wb : BitVec 5} {imm off : BitVec 16}
    {limit base stride : Nat} (inside : (s.word c wa + immS imm).toNat < limit)
    (offset : (s.word c wb + immS off).toNat = 0x30000000 + base + stride * (s.word c wa + immS imm).toNat)
    (room : ∀ i, i < limit → base + stride * i < 0x10000) (aligned : ∀ i, (base + stride * i) % 4 = 0) :
    s.loadN c 4 id wd wb off = s.snapLoad c wd wa imm limit base stride :=
  (State.loadN_of_snapshot h (offset.trans (Nat.add_assoc _ _ _)) (room _ inside) (aligned _)).trans
    (State.snapLoad_of_lt h inside).symm

/-! ### The bytes that a store writes -/

theorem length_leBytes (n v : Nat) : (leBytes n v).length = n := by
  induction n generalizing v with
  | zero => rfl
  | succ n ih => rw [leBytes, List.length_cons, ih]

theorem getD_leBytes {n k : Nat} (inside : k < n) (v : Nat) : (leBytes n v).getD k 0 = BitVec.ofNat 8 (v / 2 ^ (8 * k)) := by
  induction n generalizing k v with
  | zero => exact absurd inside (Nat.not_lt_zero k)
  | succ n ih =>
    cases k with
    | zero => simp [leBytes]
    | succ k =>
      have next : 256 * 2 ^ (8 * k) = 2 ^ (8 * (k + 1)) := by rw [Nat.mul_succ, Nat.pow_add, Nat.mul_comm]
      rw [leBytes, List.getD_cons_succ, ih (by omega), Nat.div_div_eq_div_mul, next]

end Sys2Proof.Machine
end

section
/-! SUPPORT. The rules of the special registers and of the commit instructions of a core (R187, R188, R208, R209). -/

namespace Sys2Proof.Machine

/-! ### MTS (R188, R209) -/

section
variable {s : State} {c : CoreId} (h : s.issues c = true) {wx sr : BitVec 5}
include h

theorem exec_mts_of_done {k : Core} (e : (s.fetched c).setSpecial sr (s.word c wx) = .done k) :
    exec (.mts c wx sr 0) s = .next (s.setCore c { k with pc := k.pc + 4 }) := by
  refine congrArg _ (State.coreStep_of_done h ?_)
  rw [if_pos rfl, State.fetched_get, e]

theorem exec_mts_of_exc {v d : Nat} (e : (s.fetched c).setSpecial sr (s.word c wx) = .exc v d) :
    exec (.mts c wx sr 0) s = .next ((s.setCore c (s.fetched c)).takeExc c v d) := by
  refine congrArg _ (State.coreStep_of_exc h ?_)
  rw [if_pos rfl, State.fetched_get, e]

end

/-- Of STAT an MTS writes XD alone, and never 3 (R188). -/
theorem Core.setSpecial_stat (k : Core) (v : Word) : k.setSpecial 0 v =
    .done { k with xd := if v.toNat / 134217728 % 4 = 3 then k.xd else v.toNat / 134217728 % 4 } := by
  change CoreEff.done (if v.toNat / 134217728 % 4 = 3 then k else { k with xd := v.toNat / 134217728 % 4 }) = _
  split <;> rfl

/-! ### The fields of STAT (R187) -/

/-- STAT: SOLO, RSYNC and CMTD, then XD, then START and CMTN. -/
theorem Core.stat_eq (k : Core) : k.stat =
    BitVec.ofNat 3 (k.solo.toNat * 4 + k.rsync.toNat * 2 + k.cmtd.toNat) ++ BitVec.ofNat 2 k.xd ++
      BitVec.ofNat 27 (k.start.toNat * 2 ^ 26 + k.cmtn % 2048) := by
  have solo := k.solo.toNat_lt
  have rsync := k.rsync.toNat_lt
  have cmtd := k.cmtd.toNat_lt
  have start := k.start.toNat_lt
  apply BitVec.eq_of_toNat_eq
  simp only [Core.stat, toNat_append_eq, BitVec.toNat_ofNat]
  omega

/-- Writing XD leaves the other fields of STAT. -/
theorem Core.stat_setXd (k : Core) {xd : Nat} (small : xd ≤ 2) (pc : Word) :
    Core.stat { k with xd := xd, pc := pc } = (k.stat &&& 0xE7FFFFFF) ||| BitVec.ofNat 32 (xd * 134217728) := by
  have mask : (0xE7FFFFFF : Word) = 7#3 ++ 0#2 ++ 0x7FFFFFF#27 := by decide
  have field : BitVec.ofNat 32 (xd * 134217728) = 0#3 ++ BitVec.ofNat 2 xd ++ 0#27 := by
    apply BitVec.eq_of_toNat_eq
    simp only [toNat_append_eq, BitVec.toNat_ofNat]
    omega
  rw [k.stat_eq, mask, field, BitVec.and_append, BitVec.and_append, BitVec.or_append, BitVec.or_append]
  change _ = (_ &&& BitVec.allOnes 3 ||| _) ++ _ ++ (_ &&& BitVec.allOnes 27 ||| _)
  simp only [Core.stat_eq, BitVec.and_allOnes, BitVec.and_zero, BitVec.or_zero, BitVec.zero_or]

/-! ### CMT, SNAP, CMTE (R208) -/

/-- An item that a core presents while its crossing has room passes the crossing and goes to the Gatehouse. -/
theorem State.presentStep_of_item {s : State} {c : CoreId} (h : s.issues c = true) (room : s.noRoom c = false)
    {f : Core → Sum (Nat × Nat) (Item × Core)} {x : Item} {k : Core} (e : f (s.fetched c) = .inr (x, k)) :
    s.presentStep c f = ((s.setCore c { k with pc := k.pc + 4 }).passWords (9 + coreNum c) x.words).present c x := by
  rw [State.presentStep, State.issue_of_issues h]
  simp only [e, room, Bool.false_eq_true, if_false, State.setCore_setCore]

theorem Core.commitBar_of_room {k : Core} (cmtd : k.cmtd = false) (more : k.cmtn < 1024) : k.commitBar = none := by
  simp [Core.commitBar, cmtd, more]

section
variable {k : Core} (cmtd : k.cmtd = false) {wd wa wb : BitVec 5} {fn : BitVec 11}
include cmtd

theorem cmteItem_of_open {l : List Item} : cmteItem l 0 0 0 0 k = .inr (.done (sequenceCrc l), { k with cmtd := true }) := by
  simp [cmteItem, cmtd]

variable (more : k.cmtn < 1024)
include more

theorem cmtItem_of_room :
    cmtItem 0 wa wb 0 k = .inr (.word (k.get wb ++ k.get wa) none, { k with cmtn := k.cmtn + 1 }) := by
  simp [cmtItem, Core.commitBar_of_room cmtd more]

theorem snapItem_of_room (low : 0x7C ≤ fn.toNat) (high : fn.toNat ≤ 0x7F) (set : wd.toNat ≤ 16) :
    snapItem wd wa wb fn k = .inr (.word (BitVec.ofNat 64 (0x0B * 2 ^ 56 + (fn.toNat + 256 * wd.toNat) * 2 ^ 40))
      (some (k.get wb ++ k.get wa)), { k with cmtn := k.cmtn + 1 }) := by
  simp only [snapItem, Core.commitBar_of_room cmtd more]
  rw [if_neg (by omega), if_neg (by omega), if_neg (by omega)]

end

section
variable (s : State) (c : CoreId) (wd wa wb : BitVec 5) (fn : BitVec 11) (t : Time)

theorem exec_cmt : exec (.cmt c wd wa wb fn t) s = .next ((s.atTime t).presentStep c (cmtItem wd wa wb fn)) := rfl

theorem exec_snap : exec (.snap c wd wa wb fn t) s = .next ((s.atTime t).presentStep c (snapItem wd wa wb fn)) := rfl

theorem exec_cmte : exec (.cmte c wd wa wb fn t) s = .next ((s.atTime t).cmte c wd wa wb fn) := rfl

end

/-- The clock goes to an instant once. -/
theorem State.atTime_atTime (s : State) (t : Time) : (s.atTime t).atTime t = s.atTime t := by
  have still : ¬ (if s.now < t then t else s.now) < t := by
    split
    · exact Nat.lt_irrefl t
    · assumption
  exact congrArg (s.atTime t).setNow (if_neg still)

end Sys2Proof.Machine
end

section
/-! SUPPORT. The rules of the resynchronisation (R215, R228, R229). -/

namespace Sys2Proof.Machine

/-! ### The stage of TWN_STAT (R232) -/

section
variable {s : State} (sound : s.sound = true) (v : Nat)
include sound

theorem State.resyncing_setStage : (s.setFld R.TWN_STAT F.TWN_STAT_STAGE v).resyncing = s.resyncing :=
  congrArg (· == 2) (State.fld_setFld_ne sound (by decide) (by decide))

theorem State.server_setStage : (s.setFld R.TWN_STAT F.TWN_STAT_STAGE v).server_ = s.server_ :=
  congrArg (fun n => if n != 0 then CoreId.b else .a) (State.fld_setFld_ne sound (by decide) (by decide))

theorem State.stage_setStage : (s.setFld R.TWN_STAT F.TWN_STAT_STAGE v).stage = v % 8 :=
  State.fld_setFld_same sound (by decide)

end

/-! ### The passes of the copy (R228, R229) -/

theorem State.beginFinal_of_waiting {s : State} (mode : s.resyncing = true) (stage : s.stage = stageWait)
    (waits : (s.core s.server_).atEvw = true) : s.beginFinal = s.setFld R.TWN_STAT F.TWN_STAT_STAGE stageFinal :=
  if_pos (by simp [mode, stage, waits])

theorem State.beginFinal_of_busy {s : State} (busy : (s.core s.server_).atEvw = false) : s.beginFinal = s :=
  if_neg (by simp [busy])

theorem Core.atEvw_of_wait {k : Core} {wd : BitVec 5} (wait : k.wait = .evw wd) (cmtd : k.cmtd = true) : k.atEvw = true := by
  simp [Core.atEvw, wait, cmtd]

theorem Core.not_atEvw_of_open {k : Core} (cmtd : k.cmtd = false) : k.atEvw = false := by
  unfold Core.atEvw
  split
  · exact cmtd
  · rfl

/-- The core that serves as the bulk pass ends serves on, as it is. -/
theorem State.core_server_of_bulk {s : State} (sound : s.sound = true) (v : Nat) (g : Gate) :
    ((s.setFld R.TWN_STAT F.TWN_STAT_STAGE v).setGate g).core ((s.setFld R.TWN_STAT F.TWN_STAT_STAGE v).setGate g).server_ =
      s.core s.server_ := by
  have server : ((s.setFld R.TWN_STAT F.TWN_STAT_STAGE v).setGate g).server_ = s.server_ := State.server_setStage sound v
  rw [server, State.core_setGate, State.core_setFld]

theorem exec_resyncBulkDone_of_bulk {s : State} (mode : s.resyncing = true) (stage : s.stage = stageBulk)
    (dirty : Nat) : exec (.resyncBulkDone dirty) s = .next
      ((s.setFld R.TWN_STAT F.TWN_STAT_STAGE stageWait).setGate { s.gate with dirty := dirty }).beginFinal :=
  congrArg _ (if_pos (by simp [mode, stage]))

theorem exec_resyncFinalDone_of_final {s : State} {t : Time} (mode : (s.atTime t).resyncing = true)
    (stage : (s.atTime t).stage = stageFinal) (us : Word) (dirty : Nat) :
    exec (.resyncFinalDone us dirty t) s = .next ((s.atTime t).finalPass us dirty) :=
  congrArg _ (if_pos (by simp [mode, stage]))

section
variable (s : State) (us : Word) (dirty : Nat)

theorem State.finalPass_restored :
    (s.finalPass us dirty).core (twin s.server_) = (s.core (twin s.server_)).resynced (s.core s.server_) := by
  simp [State.finalPass]

theorem State.finalPass_server : (s.finalPass us dirty).core s.server_ = s.core s.server_ := by
  simp [State.finalPass, State.core_setCore_other (twin_ne s.server_).symm]

theorem State.finalPass_regs :
    (s.finalPass us dirty).regs = ((s.wr R.TWN_RSTIME us).setFld R.TWN_STAT F.TWN_STAT_STAGE 0).regs := by
  unfold State.finalPass
  generalize s.server_ = h
  cases h <;> rfl

end

/-! ### READMIT (R229, R232) -/

section
variable {s : State}

theorem State.readmit_both : s.readmit 3 = s.answer .range := rfl

theorem State.readmit_of_closed (closed : s.lockOpen = false) : s.readmit 1 = s.answer .denied := by
  simp [State.readmit, closed]

theorem State.readmit_of_admitted (opened : s.lockOpen = true) (perm : s.permIsolated .a = false) :
    s.readmit 1 = s.answer .state := by
  simp [State.readmit, opened, perm]

theorem State.readmit_of_isolated (opened : s.lockOpen = true) (perm : s.permIsolated .b = true) : s.readmit 2 =
    ((((s.noteLk.setFlag R.TWN_STAT F.TWN_STAT_PERMB false).setFld R.TWN_STAT F.TWN_STAT_STAGE 2).needCycle 3 4).answer
      .ok) := by
  simp [State.readmit, opened, perm, coreNum, coreDomain]

end

end Sys2Proof.Machine
end

section
/-! SUPPORT. The rules of the verdict of the self-check and of the events of a core's memory (R196, R214, R216, R225–R227). -/

namespace Sys2Proof.Machine

/-! ### What a condemnation leaves: the clock -/

theorem State.endLate_now (s : State) (c : CoreId) : (s.endLate c).now = s.now := by
  unfold State.endLate
  split <;> rfl

theorem State.isolate_now (s : State) (c : CoreId) (cause : Nat) : (s.isolate c cause false).now = s.now :=
  (State.endLate_now _ c).trans (by cases c <;> rfl)

theorem State.needCycle_now (s : State) (d cause : Nat) : (s.needCycle d cause).now = s.now := by
  unfold State.needCycle
  split <;> rfl

theorem State.lastCoreLost_of_now {s : State} {t : Time} (now : s.now = t) :
    s.lastCoreLost = s.orderRestart 4 (t + 10000000) := by
  rw [← now]
  rfl

/-! ### The verdict (R226, R227) -/

/-- What E39 shows of the state CRC of a core with failing step `fail` (R231). -/
def shownCrc (fail : Nat) (crc : Word) : Nat := if ranToCrc fail then crc.toNat else 0

theorem shownCrc_of_stopped {fail : Nat} (fails : fail ≠ 0) (early : fail ≠ 4) (crc : Word) : shownCrc fail crc = 0 := by
  simp [shownCrc, ranToCrc, fails, early]

theorem shownCrc_of_fail {fail : Nat} (fails : fail ≠ 0) (crc : Word) :
    shownCrc fail crc = if fail = 4 then crc.toNat else 0 := by
  simp [shownCrc, ranToCrc, fails]

/-- The CRCs say what the cores hold, or are not both there. -/
theorem State.crcsAgree_iff {s : State} {failA failB : Nat} {crcA crcB : Word} : s.crcsAgree failA failB crcA crcB = true ↔
    (ranToCrc failA = true → ranToCrc failB = true → (crcA = crcB ↔ s.coreA.checked = s.coreB.checked)) := by
  unfold State.crcsAgree
  cases ranToCrc failA <;> cases ranToCrc failB <;> simp

theorem State.crcsAgree_of_iff {s : State} (failA failB : Nat) {crcA crcB : Word}
    (same : crcA = crcB ↔ s.coreA.checked = s.coreB.checked) : s.crcsAgree failA failB crcA crcB = true :=
  State.crcsAgree_iff.2 fun _ _ => same

theorem ranToCrc_iff {fail : Nat} : ranToCrc fail = true ↔ fail = 0 ∨ fail = 4 := by simp [ranToCrc]

section
variable {s : State} {failA failB : Fin 5} {crcA crcB : Word} {t : Time}

theorem exec_selfCheckComplete_of_agree (checking : s.gate.checking = true)
    (agree : s.crcsAgree failA failB crcA crcB = true) :
    exec (.selfCheckComplete failA failB crcA crcB t) s = .next ((s.atTime t).verdict failA failB crcA crcB) :=
  congrArg _ (if_pos (Bool.and_eq_true_iff.2 ⟨checking, agree⟩))

theorem exec_selfCheckComplete_of_disagree (disagree : s.crcsAgree failA failB crcA crcB = false) :
    exec (.selfCheckComplete failA failB crcA crcB t) s = .next (s.atTime t) :=
  congrArg _ (if_neg fun both => Bool.eq_false_iff.1 disagree (Bool.and_eq_true_iff.1 both).2)

end

/-- The state in which the verdict falls: the stage of the self-check has ended. -/
def State.checkEnds (s : State) : State := s.setFld R.TWN_STAT F.TWN_STAT_STAGE 0

section
variable (s : State) {failA failB : Nat} (crcA crcB : Word)

theorem State.verdict_onlyA (fails : failA ≠ 0) : s.verdict failA 0 crcA crcB =
    (s.checkEnds.noteVerdict 0 failA 0 (shownCrc failA crcA) crcB.toNat).condemn .a
      (s.checkEnds.gate.diverged.getD 0) 3 :=
  if_pos (by simp [fails])

theorem State.verdict_onlyB (fails : failB ≠ 0) : s.verdict 0 failB crcA crcB =
    (s.checkEnds.noteVerdict 1 0 failB crcA.toNat (shownCrc failB crcB)).condemn .b
      (s.checkEnds.gate.diverged.getD 0) 3 := by
  have passes : (0 != 0 && failB == 0) = false := rfl
  have onlyB : (0 == 0 && failB != 0) = true := by simp [fails]
  unfold State.verdict
  dsimp only
  rw [passes, onlyB, if_neg Bool.false_ne_true, if_pos rfl]
  rfl

theorem State.verdict_both (failsA : failA ≠ 0) (failsB : failB ≠ 0) : s.verdict failA failB crcA crcB =
    (s.checkEnds.noteVerdict 2 failA failB (shownCrc failA crcA) (shownCrc failB crcB)).condemnBoth
      (s.checkEnds.gate.diverged.getD 0) :=
  (if_neg (by simp [failsB])).trans ((if_neg (by simp [failsA])).trans (if_pos (by simp [failsA])))

variable {crcA crcB}

theorem State.verdict_transient (same : crcA = crcB) (few : s.checkEnds.recentTransients.length < 3) :
    s.verdict 0 0 crcA crcB =
      (let w := s.checkEnds.noteVerdict 4 0 0 crcA.toNat crcB.toNat
       (w.setGate { w.gate with transients := s.checkEnds.recentTransients }).resumeCores) :=
  if_pos (Bool.and_eq_true_iff.2 ⟨decide_eq_true same, decide_eq_true few⟩)

theorem State.verdict_inconclusive (unclear : ¬ (crcA = crcB ∧ s.checkEnds.recentTransients.length < 3)) :
    s.verdict 0 0 crcA crcB = (s.checkEnds.noteVerdict 3 0 0 crcA.toNat crcB.toNat).condemn s.checkEnds.inconclusive
      (s.checkEnds.gate.diverged.getD 0) 3 :=
  if_neg (by rwa [Bool.and_eq_true_iff, decide_eq_true_iff, decide_eq_true_iff])

end

/-- Both cores gone, the node restarts 10 ms after the verdict (log 65). -/
theorem State.condemnBoth_eq (s : State) (cause : Nat) : s.condemnBoth cause =
    ((((s.isolate .a cause false).isolate .b cause false).resumeCores).setFld R.TWN_STAT F.TWN_STAT_STAGE 0).orderRestart 4
      (s.now + 10000000) :=
  State.lastCoreLost_of_now ((State.isolate_now _ .b cause).trans (State.isolate_now s .a cause))

/-! ### Lines of the line store (R211, R216) -/

theorem State.running_setCore {s : State} {c : CoreId} {k : Core} (live : k.live = (s.core c).live)
    (halted : k.halted = (s.core c).halted) (wait : k.wait = (s.core c).wait) :
    (s.setCore c k).running c = s.running c := by
  simp only [State.running, State.core_setCore_same, live, halted, wait]
  cases c <;> rfl

section
variable {s : State} {c : CoreId} (live : (s.core c).live = true) (on : s.islandOn 9 = true) (l : Nat)
include live on

theorem State.lineArrives_sound : s.lineArrives c l true = s.setCore c ((s.core c).placeLine l) :=
  (if_neg (by simp [live, on])).trans (if_pos rfl)

/-- A line with an uncorrectable error is no longer asked for, and the core that runs in it takes FETCH. -/
theorem State.lineArrives_bad : s.lineArrives c l false =
    (let u := s.setCore c { s.core c with asked := (s.core c).asked.erase l }
     if s.running c = true ∧ lineOf (s.core c).pc = l then u.takeExc c 2 2 else u) := by
  have runs : (s.setCore c { s.core c with asked := (s.core c).asked.erase l }).running c = s.running c :=
    State.running_setCore rfl rfl rfl
  refine (if_neg (by simp [live, on])).trans ((if_neg Bool.false_ne_true).trans ?_)
  simp only [runs, Bool.and_eq_true, beq_iff_eq]

end

/-! ### An uncorrectable error of a core's SRAM (R214, R229) -/

section
variable {s : State} {c : CoreId} (live : (s.core c).live = true)
include live

theorem State.sramError_twins (twins : s.twinMode = true) : s.sramError c = s.condemnAtOnce c 8 (s.items c).length :=
  (if_neg (by simp [live])).trans (if_pos twins)

theorem State.sramError_alone (alone : s.twinMode = false) : s.sramError c =
    if s.server_ = c then
      ((s.setCore c { s.core c with halted := true, wait := .none }).needCycle (coreDomain c) 1).lastCoreLost
    else
      (((s.setCore c { s.core c with live := false, wait := .none }).setFld R.TWN_STAT F.TWN_STAT_MODE 1).setFld R.TWN_STAT
        F.TWN_STAT_STAGE 2).needCycle (coreDomain c) 1 :=
  (if_neg (by simp [live])).trans (if_neg (Bool.eq_false_iff.1 alone))

end

/-! ### Paired reads (R196) -/

theorem State.giveRead_of_wait {s : State} {c : CoreId} {wd : BitVec 5} {a : Word} (wait : (s.core c).wait = .read wd a)
    (v : Word) : s.giveRead c v = s.setCore c (({ s.core c with wait := .none }).next wd v) := by
  rw [State.giveRead, wait]

theorem State.core_chkMarks (s : State) (q : Nat) (c : CoreId) : (s.chkMarks q).core c = s.core c := by
  unfold State.chkMarks
  split
  · have stamps := foldS_frame (f := fun s t => s.stampAt q (s.seq q).settle t) (part := (State.core · c))
      (fun _ _ => by cases c <;> rfl)
    cases c <;> exact stamps _ _
  · rfl

/-- Measuring a register leaves the cores. -/
theorem State.core_measure (s : State) (a : Nat) (c : CoreId) : (s.measure a).core c = s.core c := by
  unfold State.measure
  split
  · unfold State.testSteps
    dsimp only
    split
    · cases c <;> rfl
    · rfl
  · split
    · exact s.core_chkMarks _ c
    · unfold State.measureReg
      dsimp only
      split
      · rfl
      · cases c <;> rfl

/-- A load served for one core: it takes the value, and a register that is no calendar's changes nothing more. -/
theorem State.serve_alone {s : State} {c : CoreId} {wd : BitVec 5} {a : Word} (wait : (s.core c).wait = .read wd a)
    (on : s.powered (regDomain a.toNat) = true) (notSec : a.toNat ≠ R.RTC_SEC) (notCent : a.toNat ≠ R.RTC_CENT) :
    s.serve [c] a = (s.measure a.toNat).setCore c (({ (s.measure a.toNat).core c with wait := .none }).next wd
      ((s.measure a.toNat).brokerRead a.toNat)) := by
  have waits : ((s.measure a.toNat).core c).wait = .read wd a := by rw [State.core_measure, wait]
  rw [State.serve, on]
  simp only [Bool.not_true, Bool.false_eq_true, if_false, State.afterRead, notSec, notCent]
  exact State.giveRead_of_wait waits _

theorem State.waitsAt_of_wait {s : State} {c : CoreId} {wd : BitVec 5} {a : Word} (wait : (s.core c).wait = .read wd a) :
    s.waitsAt c = some a := by
  rw [State.waitsAt, wait]

/-- A core with SOLO is served alone while its twin waits at no load. -/
theorem State.serveReads_solo {s : State} {c : CoreId} {a : Word} (solo : (s.core c).solo = true)
    (waits : s.waitsAt c = some a) (other : s.waitsAt (twin c) = none) : s.serveReads = s.serve [c] a := by
  have alone : s.readsAlone c = true := by simp [State.readsAlone, solo]
  cases c <;> simp only [twin] at other <;> simp [State.serveReads, waits, other, alone]

end Sys2Proof.Machine
end

section
/-! SUPPORT. The statements of the Belvedere instruction set. -/

open Sys2Proof Sys2Proof.Machine

namespace Sys2Proof.Proofs

theorem coreRegisterOps : Clauses.CoreRegisterOps := by
  unfold Clauses.CoreRegisterOps
  intro s c wd wa wb h
  refine ⟨?add, ?sub, ?and, ?or, ?xor, ?nor, ?sll, ?srl, ?sra, ?slt, ?sltu, ?min, ?max, ?minu, ?maxu⟩ <;>
    refine congrArg _ (State.alu_of_issues h ?_)
  case add | sub | and | or | xor | nor | sll | srl => rfl
  case sra => exact sraWord_eq _ _
  case slt => exact boolWord_ltS _ _
  case sltu => exact boolWord_ltU _ _
  case min => exact minS_eq _ _
  case max => exact maxS_eq _ _
  case minu => exact minU_eq _ _
  case maxu => exact maxU_eq _ _

theorem coreSaturating : Clauses.CoreSaturating := by
  unfold Clauses.CoreSaturating
  intro s c wd wa wb imm h
  exact ⟨congrArg _ (State.alu_of_issues h (satWord_eq _)), congrArg _ (State.alu_of_issues h (satWord_eq _)),
    congrArg _ (State.alu_of_issues h (satWord_eq _)), congrArg _ (State.aluImm_of_issues h (addSat_immS _ _)),
    congrArg _ (State.alu1_of_issues h (absSat_eq _))⟩

theorem coreBitOps : Clauses.CoreBitOps := by
  unfold Clauses.CoreBitOps
  intro s c wd wa wb k h
  refine ⟨⟨leadZeros 32 (s.word c wa).toNat, leadZeros_le _ _, fun i above => ?clear, testBit_at_leadZeros,
      congrArg _ (State.alu1_of_issues h rfl)⟩,
    ⟨_, fun i inside => getLsbD_sxtWord inside, congrArg _ (State.alu_of_issues h rfl)⟩,
    ⟨_, fun i => getLsbD_zxtWord _ _ i, congrArg _ (State.alu_of_issues h rfl)⟩,
    ⟨_, fun i inside => getLsbD_sxtWord inside, congrArg _ (State.alu1_of_issues h rfl)⟩,
    ⟨_, fun i => getLsbD_zxtWord _ _ i, congrArg _ (State.alu1_of_issues h rfl)⟩⟩
  case clear =>
    rcases Nat.lt_or_ge i 32 with inside | outside
    · exact testBit_of_leadZeros above inside
    · exact BitVec.getLsbD_of_ge _ _ outside

theorem coreMulDiv : Clauses.CoreMulDiv := by
  unfold Clauses.CoreMulDiv
  intro s c wd wa wb h
  refine ⟨?mul, ?mulh, ?mulhu, ?div, ?divu, ?rem, ?remu, fun least minusOne =>
    ⟨congrArg _ (State.alu_of_issues h ?quotient), congrArg _ (State.alu_of_issues h ?remainder)⟩⟩
  case mul | mulh | mulhu | div | divu | remu => exact congrArg _ (State.alu_of_issues h rfl)
  case rem => exact congrArg _ (State.alu_of_issues h (remWord_eq _ _))
  case quotient | remainder =>
    rw [least, minusOne]
    decide

theorem coreImmediateOps : Clauses.CoreImmediateOps := by
  unfold Clauses.CoreImmediateOps
  intro s c wd wa k imm h
  refine ⟨?addi, ?andi, ?ori, ?xori, ?slti, ?sltiu, ?lui, ?slli, ?srli, ?srai⟩
  case addi | andi | ori | xori => exact congrArg _ (State.aluImm_of_issues h rfl)
  case slti => exact congrArg _ (State.aluImm_of_issues h ((boolWord_ltS _ _).trans (by rw [toInt_immS])))
  case sltiu => exact congrArg _ (State.aluImm_of_issues h (boolWord_ltU _ _))
  case lui =>
    exact congrArg _ ((State.coreStep_opReg h (decide_eq_true rfl)).trans (congrArg _ (immZ_shiftLeft imm)))
  case slli | srli => exact congrArg _ (State.alu1_of_issues h rfl)
  case srai => exact congrArg _ (State.alu1_of_issues h (sraWord_eq _ _))

/-- Settles O25: the five families of clauses. -/
theorem coreComputation : Obligations.CoreComputation :=
  ⟨coreRegisterOps, coreSaturating, coreBitOps, coreMulDiv, coreImmediateOps⟩

theorem coreWordsRoundTrip : Clauses.CoreWordsRoundTrip := fun _ _ _ _ _ => decodeCore_of_encodeCore

theorem coreReservedWords : Clauses.CoreReservedWords := by
  unfold Clauses.CoreReservedWords
  intro c t w
  dsimp only
  have illegal (d : Nat) := decodeCore_illegal_iff w c d t (toNat_wordMajor w)
  rw [toNat_wordFn, toNat_wordF1, toNat_shiftSub] at illegal
  refine ⟨(illegal 1).trans ?major, (illegal 2).trans ?fn, ?zero⟩
  case zero => exact decodeCore_of_encodeCore (i := .add c 0 0 0) rfl (rfl : _ = some (c, t))
  case major => simp only [true_and, OfNat.one_ne_ofNat, false_and, or_false]
  case fn => simp only [true_and, OfNat.ofNat_ne_one, false_and, false_or]

/-- Settles O26: the two families of clauses. -/
theorem coreEncoding : Obligations.CoreEncoding := ⟨coreWordsRoundTrip, coreReservedWords⟩

/-- Settles O1. A target computed from PC is aligned as PC is; that of JR and JALR is aligned by assumption. -/
theorem coreJumps : Obligations.CoreJumps := by
  unfold Obligations.CoreJumps
  intro s c wd wa wb off far h aligned
  have branch (p : Word → Word → Bool) := State.branch_of_issues (wa := wa) (wb := wb) (off := off) (p := p) h aligned
  have far' : (target (s.core c).pc far).toNat % 4 = 0 := target_aligned aligned far
  refine ⟨?beq, ?bne, ?blt, ?bge, ?bltu, ?bgeu, congrArg _ (State.jump_of_issues h (by rw [State.fetched_pc]) far'),
    congrArg _ (State.link_of_issues h (by rw [State.fetched_pc]) far'), fun register => ⟨?jr, ?jalr⟩⟩
  case beq => exact congrArg _ ((branch _).trans (by simp only [beq_iff_eq]; rfl))
  case bne => exact congrArg _ ((branch _).trans (by simp only [bne_iff_ne, ne_eq, ite_not]; rfl))
  case blt => exact congrArg _ ((branch _).trans (by simp only [ltS, decide_eq_true_eq]; rfl))
  case bge =>
    exact congrArg _ ((branch _).trans (by simp only [ltS, Bool.not_eq_true', decide_eq_false_iff_not, ite_not]; rfl))
  case bltu => exact congrArg _ ((branch _).trans (by simp only [ltU, decide_eq_true_eq]; rfl))
  case bgeu =>
    exact congrArg _ ((branch _).trans (by simp only [ltU, Bool.not_eq_true', decide_eq_false_iff_not, ite_not]; rfl))
  case jr => exact congrArg _ (State.jump_of_issues h (State.fetched_get s c wa) register)
  case jalr => exact congrArg _ (State.link_of_issues h (State.fetched_get s c wa) register)

/-- Settles O3. -/
theorem coreWordFrame : Obligations.CoreWordFrame := by
  unfold Obligations.CoreWordFrame
  intro s c wd i v sound
  have words : tabWf (dflt 0) (s.fetched c).w = true := by rw [State.fetched_w]; exact Core.wf_w (State.core_wf sound)
  refine ⟨State.word_wrote_zero s c wd v, fun general => ?word, ?sram, ?evm, ?epc, ?cause, ?pc,
    State.core_setCore_other (twin_ne c), State.setCore_regs s c _⟩
  case word => rw [State.word_wrote, Core.get_next words general, State.fetched_get]
  case sram | evm | epc | cause | pc => simp [State.wrote, Core.next_eq]

theorem coreLoads : Clauses.CoreLoads := by
  unfold Clauses.CoreLoads
  intro s c wd wa imm h
  dsimp only
  intro low high
  have here := sramAddr_of_bounds low high
  refine ⟨fun aligned => ?lw, fun aligned => ⟨?lh, ?lhu⟩, ?lb, ?lbu⟩
  case lw => exact congrArg _ (State.loadN_of_sram h aligned here (partOf_memWord _ aligned))
  case lh =>
    exact congrArg _ (State.loadN_of_sram h aligned here
      ((congrArg (sxtWord · 15) (partOf_two _ aligned)).trans (sxtWord_zeroExtend _ (by decide))))
  case lhu => exact congrArg _ (State.loadN_of_sram h aligned here (partOf_two _ aligned))
  case lb =>
    exact congrArg _ (State.loadN_of_sram h (Nat.mod_one _) here
      ((congrArg (sxtWord · 7) (partOf_one _)).trans (sxtWord_zeroExtend _ (by decide))))
  case lbu => exact congrArg _ (State.loadN_of_sram h (Nat.mod_one _) here (partOf_one _))

theorem coreStores : Clauses.CoreStores := by
  unfold Clauses.CoreStores
  intro s c wd wa imm h sound
  dsimp only
  intro low high
  have here := sramAddr_of_bounds low high
  have canonical : Memory.wf (s.core c).sram = true := Core.wf_sram (State.core_wf sound)
  have holds (n a : Nat) :
      (∀ k, k < n → memByte 0 (memPut 0 (s.core c).sram a (leBytes n (s.word c wd).toNat)) (a + k) =
        BitVec.ofNat 8 ((s.word c wd).toNat / 2 ^ (8 * k))) ∧
      ∀ x, x < a ∨ a + n ≤ x →
        memByte 0 (memPut 0 (s.core c).sram a (leBytes n (s.word c wd).toNat)) x = memByte 0 (s.core c).sram x := by
    refine ⟨fun k inside => ?_, fun x outside => memByte_memPut_outside canonical (by rwa [length_leBytes])⟩
    rw [memByte_memPut_inside canonical (by rwa [length_leBytes]), getD_leBytes inside]
  exact ⟨fun aligned => ⟨_, congrArg _ (State.storeN_of_sram h aligned here), holds _ _⟩,
    fun aligned => ⟨_, congrArg _ (State.storeN_of_sram h aligned here), holds _ _⟩,
    _, congrArg _ (State.storeN_of_sram h (Nat.mod_one _) here), holds _ _⟩

/-- Settles O27: the two families of clauses. -/
theorem coreLoadsAndStores : Obligations.CoreLoadsAndStores := ⟨coreLoads, coreStores⟩

/-- Settles O13: each of the three writes the word of the snapshot that LW writes from its offset. -/
theorem coreIndexedReads : Obligations.CoreIndexedReads := by
  unfold Obligations.CoreIndexedReads
  intro s c wd wa wb imm off h
  dsimp only
  refine ⟨fun inside => ⟨congrArg _ (State.snapLoad_of_lt h inside), congrArg _ (State.snapLoad_of_lt h inside)⟩,
    fun outside => ⟨congrArg _ (State.snapLoad_of_ge h outside), congrArg _ (State.snapLoad_of_ge h outside)⟩,
    fun inside => congrArg _ (State.snapLoad_of_lt h inside), fun outside => congrArg _ (State.snapLoad_of_ge h outside),
    ?smp, ?lst, ?gst⟩
  case smp | lst | gst =>
    exact fun inside offset =>
      congrArg Host.Outcome.next (State.loadN_eq_snapLoad h inside offset (fun _ _ => by omega) (fun _ => by omega))

/-- Settles O14. -/
theorem coreStatusWrites : Obligations.CoreStatusWrites := by
  unfold Obligations.CoreStatusWrites
  intro s c wx h
  refine ⟨exec_mts_of_exc h rfl, _, exec_mts_of_done h (Core.setSpecial_stat _ _), ?xd, ?pc, ?w, ?tick, ?epc, ?dpc, ?cause,
    ?evm, ?sram, ?cmtd, ?cmtn, fun xd _ _ => ?stat⟩
  case stat => exact ((s.fetched c).stat_setXd xd _).trans (by rw [State.fetched_stat])
  case xd | pc | w | tick | epc | dpc | cause | evm | sram | cmtd | cmtn => simp

/-- Settles O2. -/
theorem coreCommitOps : Obligations.CoreCommitOps := by
  unfold Obligations.CoreCommitOps
  intro s₀ c wd wa wb fn t h cmtd room
  have again : (s₀.atTime t).atTime t = s₀.atTime t := s₀.atTime_atTime t
  have opened : ((s₀.atTime t).fetched c).cmtd = false := (State.fetched_cmtd _ c).trans cmtd
  refine ⟨fun more => ⟨?cmt, fun low high set => ?snap⟩, ?cmte⟩
  case cmt =>
    have item := cmtItem_of_room (wa := wa) (wb := wb) opened more
    rw [State.fetched_get, State.fetched_get] at item
    rw [exec_cmt, again, State.presentStep_of_item h room item]
    rfl
  case snap =>
    have item := snapItem_of_room (wa := wa) (wb := wb) opened more low high set
    rw [State.fetched_get, State.fetched_get] at item
    rw [exec_snap, again, State.presentStep_of_item h room item]
    rfl
  case cmte =>
    have item := cmteItem_of_open (l := (s₀.atTime t).items c) opened
    have presented := State.presentStep_of_item h room item
    rw [exec_cmte, again, State.cmte, presented]
    simp only [cmtd, Bool.not_false, Bool.and_true]
    rfl

/-- Settles O6: the final pass begins where the healthy core waits, and it copies the core into its twin. -/
theorem resynchronisation : Obligations.Resynchronisation := by
  unfold Obligations.Resynchronisation
  intro s₀ p v us dirty wd t sound
  dsimp only
  refine ⟨fun mode stage => ⟨?waits, ?busy⟩, fun mode stage => ?final, fun both => ?range, fun one closed => ?denied,
    fun one opened perm => ?state, fun two opened perm => ?admitted⟩
  case waits =>
    rintro ⟨cmtd, wait⟩
    rw [exec_resyncBulkDone_of_bulk mode stage]
    refine congrArg _ (State.beginFinal_of_waiting ((State.resyncing_setStage sound 4).trans mode)
      (State.stage_setStage sound 4) ?_)
    rw [State.core_server_of_bulk sound]
    exact Core.atEvw_of_wait wait cmtd
  case busy =>
    intro cmtd
    rw [exec_resyncBulkDone_of_bulk mode stage]
    refine congrArg _ (State.beginFinal_of_busy ?_)
    rw [State.core_server_of_bulk sound]
    exact Core.not_atEvw_of_open cmtd
  case final =>
    refine ⟨_, exec_resyncFinalDone_of_final mode stage us dirty, ?_⟩
    rw [State.finalPass_restored, State.finalPass_server]
    exact ⟨rfl, rfl, rfl, rfl, rfl, rfl, rfl, rfl, rfl, rfl, rfl, rfl, State.finalPass_regs _ us dirty⟩
  case range => exact congrArg _ ((congrArg _ both).trans State.readmit_both)
  case denied => exact congrArg _ ((congrArg _ one).trans (State.readmit_of_closed closed))
  case state => exact congrArg _ ((congrArg _ one).trans (State.readmit_of_admitted opened perm))
  case admitted => exact congrArg _ ((congrArg _ two).trans (State.readmit_of_isolated opened perm))

theorem selfCheckVerdict : Clauses.SelfCheckVerdict := by
  unfold Clauses.SelfCheckVerdict
  intro s₀ fa fb ca cb t checking
  dsimp only
  refine ⟨fun failsA early passB => ?onlyA, fun passA failsB early => ?onlyB, fun failsA failsB agree => ?both,
    fun same => ⟨fun crcA passB => ?crcA, fun passA crcB => ?crcB, fun passA passB equal few => ?transient,
      fun passA passB unclear => ?inconclusive⟩, fun passA passB differ => ?none⟩
  case onlyA =>
    have agree : s₀.crcsAgree fa fb ca cb = true :=
      State.crcsAgree_iff.2 fun ran => absurd (ranToCrc_iff.1 ran) (by omega)
    rw [exec_selfCheckComplete_of_agree checking agree, passB, State.verdict_onlyA _ _ _ failsA,
      shownCrc_of_stopped failsA early]
    rfl
  case onlyB =>
    have agree : s₀.crcsAgree fa fb ca cb = true :=
      State.crcsAgree_iff.2 fun _ ran => absurd (ranToCrc_iff.1 ran) (by omega)
    rw [exec_selfCheckComplete_of_agree checking agree, passA, State.verdict_onlyB _ _ _ failsB,
      shownCrc_of_stopped failsB early]
    rfl
  case both =>
    have agree : s₀.crcsAgree fa fb ca cb = true := State.crcsAgree_iff.2 fun ranA ranB =>
      agree ((ranToCrc_iff.1 ranA).resolve_left failsA) ((ranToCrc_iff.1 ranB).resolve_left failsB)
    rw [exec_selfCheckComplete_of_agree checking agree, State.verdict_both _ _ _ failsA failsB, shownCrc_of_fail failsA,
      shownCrc_of_fail failsB, State.condemnBoth_eq]
    rfl
  case crcA =>
    rw [exec_selfCheckComplete_of_agree checking (State.crcsAgree_of_iff _ _ same), crcA, passB,
      State.verdict_onlyA _ _ _ (by decide)]
    rfl
  case crcB =>
    rw [exec_selfCheckComplete_of_agree checking (State.crcsAgree_of_iff _ _ same), passA, crcB,
      State.verdict_onlyB _ _ _ (by decide)]
    rfl
  case transient =>
    rw [exec_selfCheckComplete_of_agree checking (State.crcsAgree_of_iff _ _ same), passA, passB,
      State.verdict_transient _ (same.2 equal) few]
    rfl
  case inconclusive =>
    rw [exec_selfCheckComplete_of_agree checking (State.crcsAgree_of_iff _ _ same), passA, passB,
      State.verdict_inconclusive]
    · have who : (s₀.atTime t).checkEnds.inconclusive = s₀.gate.lastResync.getD .b := rfl
      rw [who]
      cases s₀.gate.lastResync <;> rfl
    · rintro ⟨equal, few⟩
      exact unclear.elim (absurd (same.1 equal)) (Nat.not_le.2 few)
  case none =>
    refine exec_selfCheckComplete_of_disagree (Bool.eq_false_iff.2 fun agree => differ ?_)
    exact State.crcsAgree_iff.1 agree (ranToCrc_iff.2 (.inl passA)) (ranToCrc_iff.2 (.inl passB))

theorem coreMemoryEvents : Clauses.CoreMemoryEvents := by
  unfold Clauses.CoreMemoryEvents
  intro s₀ c line wd a t live
  dsimp only
  have live' : ((s₀.atTime t).core c).live = true := by rw [State.core_atTime, live]
  refine ⟨fun on => ?placed, fun on elsewhere => ?dropped, fun on here running => ?fetch, fun twins => ?twins,
    fun alone serves => ?server, fun alone serves' => ?restored,
    fun on checking solo wait other power notSec notCent => ?read⟩
  case placed => exact congrArg _ (State.lineArrives_sound live on line.toNat)
  case dropped =>
    refine congrArg _ ((State.lineArrives_bad live on line.toNat).trans (if_neg fun needed => ?_))
    exact elsewhere.elim (· needed.2) fun stopped => Bool.false_ne_true (stopped.symm.trans needed.1)
  case fetch => exact congrArg _ ((State.lineArrives_bad live on line.toNat).trans (if_pos ⟨running, here⟩))
  case twins => exact congrArg _ (State.sramError_twins live' twins)
  case server =>
    refine congrArg _ ((State.sramError_alone live' alone).trans ((if_pos serves).trans ?_))
    exact State.lastCoreLost_of_now ((State.needCycle_now _ _ _).trans (by cases c <;> rfl))
  case restored => exact congrArg _ ((State.sramError_alone live' alone).trans (if_neg serves'))
  case read =>
    refine congrArg _ ((if_pos (by rw [on, checking]; rfl)).trans ?_)
    rw [State.serveReads_solo solo (State.waitsAt_of_wait wait) other, State.serve_alone wait power notSec notCent]

/-- Settles O44: the verdict and the events of the memories. The restart comes exactly 10 ms after its order by log 65, the
causes of the restart and of the cycles are of log 11, and the CRC operands are those of log 75. -/
theorem selfCheckAndMemoryEvents : Obligations.SelfCheckAndMemoryEvents := ⟨selfCheckVerdict, coreMemoryEvents⟩

/-- Core B serves and waits at EVW after CMTE, the bulk pass of its copy ended (stage 4); core A, which the copy has not
restored yet, runs already. Every table is in canonical form. -/
def restoredEarly : State :=
  { State.reset with
    regs := [(R.PWR_DOM, 0x7FF), (R.CLK_LOCK, 0x7FFF), (R.TWN_STAT, 0xA4000000)]
    coreA := { coreReset with live := true }
    coreB := { coreReset with live := true, cmtd := true, wait := .evw 1 } }

theorem restoredEarly_meets : restoredEarly.sound = true ∧ restoredEarly.issues .a = true := by decide +kernel

theorem restoredEarly_stage : restoredEarly.stage = stageWait := by decide +kernel

/-- An EVW of core A begins the final pass, for which core B has waited. -/
theorem restoredEarly_evw : ∃ u, exec (.evw .a 1 0 0 0) restoredEarly = .next u ∧ u.stage = stageFinal :=
  ⟨_, rfl, by decide +kernel⟩

/-- Refutes O28: EVW of a core fails it. The clause says that EVW changes its own core alone, and does not ask that no
resynchronisation waits for the other core; from restoredEarly, where the other core already waits at EVW after CMTE, the
EVW of core A moves TWN_STAT.STAGE to the final pass (R228). -/
theorem not_coreNodeAndSystemOps : ¬ Obligations.CoreNodeAndSystemOps := by
  unfold Obligations.CoreNodeAndSystemOps Clauses.CoreNodeOps
  rintro ⟨nodeOps, -⟩
  obtain ⟨-, -, -, -, noEvent, -⟩ := nodeOps restoredEarly .a 1 0 0 0 restoredEarly_meets.2
  obtain ⟨u, runs, final⟩ := restoredEarly_evw
  have same := Host.Outcome.next.inj (runs.symm.trans (noEvent rfl rfl))
  rw [same] at final
  exact absurd (restoredEarly_stage.symm.trans final) (by decide)

end Sys2Proof.Proofs
end

section
/-! SUPPORT. The rules of the comparison of two items and of the deadline of a tick (R220–R224). -/

namespace Sys2Proof.Machine

/-! ### Comparing two items (R220, R224) -/

theorem itemCause_self (x : Item) : itemCause x x = none := by
  cases x <;> simp [itemCause]

theorem itemCause_comm (x y : Item) : itemCause x y = itemCause y x := by
  cases x with
  | word w e =>
    cases y with
    | word w' e' => simp only [itemCause, eq_comm (a := w), eq_comm (a := e)]
    | _ => rfl
  | marker v p =>
    cases y with
    | marker v' p' => simp only [itemCause, eq_comm (a := v), eq_comm (a := p)]
    | _ => rfl
  | done a => cases y <;> rfl

theorem itemCause_words {w w' : CWord} {e e' : Option CWord} (differ : w ≠ w' ∨ e ≠ e') :
    itemCause (.word w e) (.word w' e') = some 1 :=
  if_neg fun ⟨words, ends⟩ => differ.elim (· words) (· ends)

theorem itemCause_markers {v v' : Nat} {p p'} (differ : v ≠ v' ∨ p ≠ p') :
    itemCause (.marker v p) (.marker v' p') = some 6 :=
  if_neg fun ⟨values, places⟩ => differ.elim (· values) (· places)

/-! ### Whether the deadline has come (R221) -/

theorem State.deadlineDue_iff (s : State) : s.deadlineDue = true ↔ s.gate.tick + 1 < s.alm.stampTick ∧
    (s.gate.tick + 2 < s.alm.stampTick ∨ s.gate.boundaryAt + 200000 ≤ s.now) := by
  unfold State.deadlineDue
  rw [Bool.and_eq_true, Bool.or_eq_true, decide_eq_true_iff, decide_eq_true_iff, decide_eq_true_iff]
  rfl

theorem exec_cmteDeadline_of_suspended {s : State} (t : Time) (suspended : s.gate.suspended = true) :
    exec (.cmteDeadline t) s = .next (s.atTime t) :=
  congrArg _ (if_neg (by simp [suspended]))

theorem exec_cmteDeadline_early {s : State} {t : Time} (early : ¬ (s.atTime t).deadlineDue = true) :
    exec (.cmteDeadline t) s = .next (s.atTime t) :=
  congrArg _ (if_neg (by simp [early]))

theorem exec_cmteDeadline_of_due {s : State} {t : Time} (on : (s.atTime t).almOn = true)
    (live : s.coreA.live = true ∨ s.coreB.live = true) (taken : s.gate.suspended = false) (runs : s.gate.idle = false)
    (due : (s.atTime t).deadlineDue = true) : exec (.cmteDeadline t) s = .next (s.atTime t).deadline :=
  congrArg _ (if_pos (by simp [on, live, taken, runs, due]))

/-! ### What the deadline does (R222–R224) -/

theorem State.haltedOne_of_lone {s : State} {c : CoreId} (halted : (s.core c).halted = true)
    (other : (s.core (twin c)).halted = false) : s.haltedOne = some c := by
  cases c <;> (simp only [State.core, twin] at halted other; simp [State.haltedOne, halted, other])

section
variable {s : State} (checking : s.gate.checking = false)
include checking

/-- A core that has halted without its twin is condemned, also in a tick that has ended (log 20). -/
theorem State.deadline_of_halt {c : CoreId} (pair : s.twinMode = true) (halted : (s.core c).halted = true)
    (other : (s.core (twin c)).halted = false) : s.deadline = s.loneHalt c := by
  simp [State.deadline, checking, pair, State.haltedOne_of_lone halted other]

theorem State.deadline_alone (alone : s.twinMode = false) (runs : s.tickEnded = false)
    (live : (s.core s.server_).live = true) (missing : (s.core s.server_).cmtd = false) :
    s.deadline = s.discardTick 0 := by
  simp [State.deadline, checking, alone, runs, live, missing]

variable (pair : s.twinMode = true) (runsA : s.coreA.halted = false) (runsB : s.coreB.halted = false)
  (open_ : s.tickEnded = false) (level : s.gate.late = none)
include pair runsA runsB open_ level

/-- With both cores running and neither behind, what each has presented of CMTE decides. -/
theorem State.deadline_of_pair : s.deadline = match s.coreA.cmtd, s.coreB.cmtd with
    | true, true => s
    | false, false => s.discardTick 0
    | _, _ => s.diverge 4 (min s.gate.itemsA.length s.gate.itemsB.length) := by
  have none_ : s.haltedOne = none := by simp [State.haltedOne, runsA, runsB]
  have behind (c : CoreId) : s.isLate c = false := by simp [State.isLate, level]
  have shown (c : CoreId) : s.cmteOf c = (s.core c).cmtd := by simp [State.cmteOf, behind]
  have undecided : (s.twinMode && s.haltedOne.isSome) = false := by simp [none_]
  unfold State.deadline
  rw [if_neg (by simp [checking]), if_neg (by simp [undecided]), if_neg (by simp [open_]), if_pos pair, shown, shown]
  rfl

end

end Sys2Proof.Machine
end

section
/-! SUPPORT. The statements of the comparison and the deadline. -/

open Sys2Proof Sys2Proof.Machine

namespace Sys2Proof.Proofs

theorem itemComparison : Clauses.ItemComparison := by
  unfold Clauses.ItemComparison
  intro x y w w' e e' a b v v'
  exact ⟨itemCause_self x, itemCause_words, rfl, fun _ _ => itemCause_markers, rfl, rfl, fun _ => ⟨rfl, rfl, rfl⟩,
    by rw [itemCause_comm]⟩

theorem tickDeadline : Clauses.TickDeadline := by
  unfold Clauses.TickDeadline
  intro s₀ t on checking runs
  dsimp only
  have due_iff := (s₀.atTime t).deadlineDue_iff
  refine ⟨fun suspended => exec_cmteDeadline_of_suspended t suspended,
    fun early => exec_cmteDeadline_early (early ∘ due_iff.1),
    fun taken due liveA liveB pair => ⟨fun runsA runsB open_ level => ?pair, fun c halted other => ?halt⟩,
    fun taken due alone open_ live missing => ?alone⟩
  case pair =>
    have decides := State.deadline_of_pair (s := s₀.atTime t) checking pair runsA runsB open_ level
    rw [exec_cmteDeadline_of_due on (.inl liveA) taken runs (due_iff.2 due), decides]
    simp only [State.atTime_coreA, State.atTime_coreB]
    refine ⟨fun missA missB => ?_, fun differ => ?_, fun endA endB => ?_⟩
    · rw [missA, missB]
      rfl
    · cases endA : s₀.coreA.cmtd <;> cases endB : s₀.coreB.cmtd
      case false.false | true.true => exact absurd (endA.trans endB.symm) differ
      all_goals rfl
    · rw [endA, endB]
  case halt =>
    have lone := State.deadline_of_halt (s := s₀.atTime t) (c := c) checking pair (by rwa [State.core_atTime])
      (by rwa [State.core_atTime])
    exact (exec_cmteDeadline_of_due on (.inl liveA) taken runs (due_iff.2 due)).trans (congrArg _ lone)
  case alone =>
    have oneLive : s₀.coreA.live = true ∨ s₀.coreB.live = true := by
      rw [State.core_atTime] at live
      revert live
      cases (s₀.atTime t).server_
      · exact .inl
      · exact .inr
    exact (exec_cmteDeadline_of_due on oneLive taken runs (due_iff.2 due)).trans
      (congrArg _ (State.deadline_alone checking alone open_ live missing))

/-- Settles O43: the comparison and the deadline. That a core halted alone is condemned with cause 7 and E3E at the deadline
is log 20. -/
theorem itemComparisonAndDeadline : Obligations.ItemComparisonAndDeadline := ⟨itemComparison, tickDeadline⟩

end Sys2Proof.Proofs
end

section
/-! SUPPORT. What the operations of Glasshouse write, and the rows of the target buffer after a write (R282–R296). -/

namespace Sys2Proof.Machine

/-! ### Fields after a write -/

section
variable {s : State} (sound : s.sound = true)
include sound

theorem State.sound_wr {a : Nat} {v : Word} : (s.wr a v).sound = true := (State.wr_keeps (.refl s)).sound sound

theorem State.sound_setFld {a v : Nat} {f : Fld} : (s.setFld a f v).sound = true := State.sound_wr sound

theorem State.sound_setPanel {x : Panel} (maps : x.maps = s.pnl.maps) : (s.setPanel x).sound = true :=
  (State.setPanel_same (.refl s) maps).sound sound

theorem State.fld_setFld_other {a b v : Nat} {f g : Fld} (n : b ≠ a) : (s.setFld a f v).fld b g = s.fld b g :=
  State.fld_wr_ne sound n

end

/-! ### The registers that an operation writes -/

/-- From `s` to `t` only registers in `p` change, and the canonical forms stay. -/
structure State.WritesOnly (p : Nat → Prop) (s t : State) : Prop where
  keeps : Keeps s t
  regs : s.sound = true → s.sameRegs t p

namespace State.WritesOnly

variable {p p' : Nat → Prop} {s t u : State}

theorem refl (s : State) : WritesOnly p s s := ⟨.refl s, fun _ => s.sameRegs_refl p⟩

theorem trans (h : WritesOnly p s t) (g : WritesOnly p t u) : WritesOnly p s u :=
  ⟨h.keeps.trans g.keeps, fun sound => State.sameRegs_trans (h.regs sound) (g.regs (h.keeps.sound sound))⟩

theorem mono (h : WritesOnly p s t) (wider : ∀ a, p a → p' a) : WritesOnly p' s t :=
  ⟨h.keeps, fun sound a out => h.regs sound a (out ∘ wider a)⟩

theorem wr {a : Nat} {v : Word} (inside : p a) : WritesOnly p s (s.wr a v) :=
  ⟨State.wr_keeps (.refl s), fun sound _ out => State.rd_wr_ne sound fun e => out (e ▸ inside)⟩

theorem setFld {a v : Nat} {f : Fld} (inside : p a) : WritesOnly p s (s.setFld a f v) := wr inside

theorem setFlag {a : Nat} {f : Fld} {b : Bool} (inside : p a) : WritesOnly p s (s.setFlag a f b) := wr inside

theorem setPanel {x : Panel} (maps : x.maps = s.pnl.maps) : WritesOnly p s (s.setPanel x) :=
  ⟨State.setPanel_same (.refl s) maps, fun _ _ _ => rfl⟩

theorem foldS {α : Type} {f : State → α → State} {l : List α} (h : ∀ s, ∀ x ∈ l, WritesOnly p s (f s x)) (s : State) :
    WritesOnly p s (foldS f s l) := by
  induction l generalizing s with
  | nil => exact refl s
  | cons x l ih =>
    exact trans (h s x List.mem_cons_self) (ih (fun s y mem => h s y (List.mem_cons_of_mem x mem)) _)

theorem sound (h : WritesOnly p s t) (sound : s.sound = true) : t.sound = true := h.keeps.sound sound

theorem fld (h : WritesOnly p s t) (sound : s.sound = true) {a : Nat} (f : Fld) (out : ¬ p a) : t.fld a f = s.fld a f :=
  congrArg (fldOf f) (h.regs sound a out)

theorem flag (h : WritesOnly p s t) (sound : s.sound = true) {a : Nat} (f : Fld) (out : ¬ p a) :
    t.flag a f = s.flag a f := congrArg (fun w => fldOf f w != 0) (h.regs sound a out)

end State.WritesOnly

/-! ### Sets of rows -/

theorem mem_rowsOf {x : BitVec 64} {r : Nat} : r ∈ rowsOf x ↔ x.getLsbD r = true := by
  simp only [rowsOf, onesOf, List.mem_filter, List.mem_range, BitVec.testBit_toNat, and_iff_right_iff_imp]
  exact BitVec.lt_of_getLsbD

theorem lt_of_mem_rowsOf {x : BitVec 64} {r : Nat} (mem : r ∈ rowsOf x) : r < 64 :=
  BitVec.lt_of_getLsbD (mem_rowsOf.1 mem)

theorem nodup_rowsOf (x : BitVec 64) : (rowsOf x).Nodup := List.nodup_range.filter _

theorem mem_rowsOf_rowSet {r0 r1 r : Nat} (order : r0 ≤ r1) (last : r1 < 64) :
    r ∈ rowsOf (rowSet r0 r1) ↔ r0 ≤ r ∧ r ≤ r1 := by
  have span : 2 ^ (r1 + 1) - 2 ^ r0 = (2 ^ (r1 + 1 - r0) - 1) * 2 ^ r0 := by
    rw [Nat.sub_mul, ← Nat.pow_add, Nat.sub_add_cancel (by omega), Nat.one_mul]
  rw [mem_rowsOf, rowSet, BitVec.getLsbD_ofNat, span, Nat.testBit_mul_two_pow, Nat.testBit_two_pow_sub_one]
  simp only [Bool.and_eq_true, decide_eq_true_eq]
  omega

theorem getLsbD_row {r : Nat} (inside : r < 64) (i : Nat) : (BitVec.ofNat 64 (2 ^ r)).getLsbD i = decide (r = i) := by
  rw [BitVec.getLsbD_ofNat, Nat.testBit_two_pow]
  by_cases here : r = i
  · simp [here, here ▸ inside]
  · simp [here]

/-- The rows left of a request are rows of it that are not done. -/
theorem Req.mem_left {q : Req} {r : Nat} : r ∈ rowsOf q.left ↔ q.rows.getLsbD r = true ∧ q.done.getLsbD r = false := by
  rw [mem_rowsOf, Req.left, BitVec.getLsbD_and, BitVec.getLsbD_not, Bool.and_eq_true, Bool.and_eq_true,
    Bool.not_eq_true', decide_eq_true_iff]
  exact ⟨fun ⟨row, _, undone⟩ => ⟨row, undone⟩, fun ⟨row, undone⟩ => ⟨row, BitVec.lt_of_getLsbD row, undone⟩⟩

/-! ### Rows of the target buffer (R282, R285) -/

/-- The words of the target buffer stand above every other register that these operations write. -/
theorem State.WritesOnly.bufRow {s t : State} (h : State.WritesOnly (· < R.PNL_BUF 0 0) s t) (sound : s.sound = true)
    (r : Nat) : t.bufRow r = s.bufRow r := by
  have word (w : Nat) : t.rd (R.PNL_BUF r w) = s.rd (R.PNL_BUF r w) :=
    h.regs sound _ (by simp only [R.PNL_BUF]; omega)
  simp only [State.bufRow, word]

@[simp] theorem State.bufRow_setPanel (s : State) (x : Panel) (r : Nat) : (s.setPanel x).bufRow r = s.bufRow r := rfl

@[simp] theorem State.bufRow_answer (s : State) (x : Status) (r : Nat) : (s.answer x).bufRow r = s.bufRow r := rfl

theorem State.rd_setBufRow_same {s : State} (sound : s.sound = true) (r : Nat) (v : BitVec 128) {w : Nat} (word : w < 4) :
    (s.setBufRow r v).rd (R.PNL_BUF r w) = (v >>> (32 * w)).truncate 32 := by
  refine tabGet_tabSetAll_eq (State.sound.regs sound) (fun e mem at_ => ?_)
    (.inl ⟨_, List.mem_map.2 ⟨w, List.mem_range.2 word, rfl⟩, rfl⟩)
  obtain ⟨i, -, rfl⟩ := List.mem_map.1 mem
  have same : i = w := by simp only [R.PNL_BUF] at at_; omega
  rw [same]

theorem State.rd_setBufRow_ne {s : State} (sound : s.sound = true) {r a : Nat} (v : BitVec 128)
    (outside : ∀ w, w < 4 → a ≠ R.PNL_BUF r w) : (s.setBufRow r v).rd a = s.rd a := by
  refine tabGet_tabSetAll_eq (State.sound.regs sound) (fun e mem at_ => ?_) (.inr rfl)
  obtain ⟨i, word, rfl⟩ := List.mem_map.1 mem
  exact absurd at_.symm (outside i (List.mem_range.1 word))

/-- The four words of a row make it up. -/
theorem words_append (v : BitVec 128) : ((v >>> (32 * 3)).truncate 32 : Word) ++ ((v >>> (32 * 2)).truncate 32 : Word) ++
    ((v >>> (32 * 1)).truncate 32 : Word) ++ ((v >>> (32 * 0)).truncate 32 : Word) = v := by
  apply BitVec.eq_of_getLsbD_eq
  intro i inside
  simp only [BitVec.getLsbD_append, BitVec.getLsbD_setWidth, BitVec.truncate_eq_setWidth, BitVec.getLsbD_ushiftRight]
  repeat' split
  all_goals
    rw [decide_eq_true (by omega), Bool.true_and]
    exact congrArg v.getLsbD (by omega)

theorem State.bufRow_setBufRow_same {s : State} (sound : s.sound = true) (r : Nat) (v : BitVec 128) :
    (s.setBufRow r v).bufRow r = v := by
  unfold State.bufRow
  rw [State.rd_setBufRow_same sound r v (w := 3) (by decide), State.rd_setBufRow_same sound r v (w := 2) (by decide),
    State.rd_setBufRow_same sound r v (w := 1) (by decide), State.rd_setBufRow_same sound r v (w := 0) (by decide)]
  exact words_append v

theorem State.bufRow_setBufRow_ne {s : State} (sound : s.sound = true) {r k : Nat} (v : BitVec 128) (other : k ≠ r) :
    (s.setBufRow r v).bufRow k = s.bufRow k := by
  have word {w : Nat} (low : w < 4) : (s.setBufRow r v).rd (R.PNL_BUF k w) = s.rd (R.PNL_BUF k w) :=
    State.rd_setBufRow_ne sound v fun i _ => by simp only [R.PNL_BUF]; omega
  unfold State.bufRow
  rw [word (w := 3) (by decide), word (w := 2) (by decide), word (w := 1) (by decide), word (w := 0) (by decide)]

/-- Each row of the list becomes what `f` makes of it; the other rows stay. -/
theorem State.bufRow_foldS {f : Nat → BitVec 128 → BitVec 128} {l : List Nat} (distinct : l.Nodup) {s : State}
    (sound : s.sound = true) (k : Nat) : (foldS (fun s r => s.setBufRow r (f r (s.bufRow r))) s l).bufRow k =
      if k ∈ l then f k (s.bufRow k) else s.bufRow k := by
  induction l generalizing s with
  | nil => rfl
  | cons r l ih =>
    obtain ⟨fresh, rest⟩ := List.nodup_cons.1 distinct
    have step := ih rest (s := s.setBufRow r (f r (s.bufRow r))) ((State.setBufRow_keeps (.refl s)).sound sound)
    refine step.trans ?_
    by_cases here : k = r
    · subst here
      rw [if_neg fresh, if_pos List.mem_cons_self, State.bufRow_setBufRow_same sound]
    · rw [State.bufRow_setBufRow_ne sound _ here]
      simp [here]

theorem State.setBufRow_writesOnly (s : State) (r : Nat) (v : BitVec 128) :
    s.WritesOnly (R.PNL_BUF 0 0 ≤ ·) (s.setBufRow r v) :=
  ⟨State.setBufRow_keeps (.refl s), fun sound a below => State.rd_setBufRow_ne sound v fun w _ => by
    simp only [R.PNL_BUF] at below ⊢
    omega⟩

end Sys2Proof.Machine
end

section
/-! SUPPORT. The rules of the panel's journal and rows (R285, R288–R291, R293). -/

namespace Sys2Proof.Machine

/-! ### The journal (R285, R293) -/

/-- The journal with the rows `l` copied into it. -/
def State.journalOf (s : State) (l : List Nat) : List (Nat × BitVec 128) :=
  tabSetAll (dflt 0) s.pnl.journal (l.map fun r => (r, s.bufRow r))

theorem State.journalRows_eq (l : List Nat) (s : State) : foldS (fun s r => s.journalRow r (s.bufRow r)) s l =
    s.setPanel { s.pnl with journal := s.journalOf l } := by
  induction l generalizing s with
  | nil => rfl
  | cons r l ih => exact (ih (s.journalRow r (s.bufRow r))).trans rfl

theorem State.journalCopied_eq (l : List Nat) (s : State) :
    (let u := foldS (fun s r => s.journalRow r (s.bufRow r)) s l
     u.setPanel { u.pnl with dirty := false }) = s.setPanel { s.pnl with dirty := false, journal := s.journalOf l } := by
  rw [State.journalRows_eq]
  rfl

theorem State.journalBuffer_eq (s : State) :
    s.journalBuffer = s.setPanel { s.pnl with dirty := false, journal := s.journalOf (List.range 64) } :=
  State.journalCopied_eq (List.range 64) s

theorem State.wrAll_pair (s : State) (a b : Nat) (v w : Word) : s.wrAll [(a, v), (b, w)] = (s.wr a v).wr b w := rfl

/-- The journal header is written from the queue: the pending rows, the count of the requests, and TAG and FULL of the
first. -/
theorem State.journalHeader_eq (s : State) : ∃ x y heads tag full, s.journalHeader =
    (((((s.wr (R.PNL_PEND 0) x).wr (R.PNL_PEND 1) y).setPanel { s.pnl with jHead := heads }).setFld R.PNL_QST
      F.PNL_QST_COUNT s.pnl.queue.length).setFld R.PNL_QST F.PNL_QST_CURTAG tag).setFlag R.PNL_QST F.PNL_QST_FULL full := by
  unfold State.journalHeader
  dsimp only [State.wrAll_pair]
  split
  all_goals exact ⟨_, _, _, _, _, rfl⟩

/-- From `s` to `t` only registers and the panel change. -/
def State.PanelOnly (s t : State) : Prop := ∃ g p, t = (s.setRegs g).setPanel p

namespace State.PanelOnly

theorem refl (s : State) : s.PanelOnly s := ⟨s.regs, s.pnl, rfl⟩

theorem trans {s t u : State} (h : s.PanelOnly t) (g : t.PanelOnly u) : s.PanelOnly u := by
  obtain ⟨_, _, rfl⟩ := h
  obtain ⟨_, _, rfl⟩ := g
  exact ⟨_, _, rfl⟩

theorem wr (s : State) (a : Nat) (v : Word) : s.PanelOnly (s.wr a v) := ⟨(s.wr a v).regs, s.pnl, rfl⟩

theorem setFld (s : State) (a : Nat) (f : Fld) (v : Nat) : s.PanelOnly (s.setFld a f v) := wr _ _ _

theorem setPanel (s : State) (x : Panel) : s.PanelOnly (s.setPanel x) := ⟨s.regs, x, rfl⟩

theorem foldS {α : Type} {f : State → α → State} (h : ∀ s a, State.PanelOnly s (f s a)) (s : State) (l : List α) :
    s.PanelOnly (foldS f s l) := by
  induction l generalizing s with
  | nil => exact refl s
  | cons a l ih => exact trans (h s a) (ih (f s a))

section
variable {s t : State} (h : s.PanelOnly t)
include h

theorem now : t.now = s.now := by obtain ⟨_, _, rfl⟩ := h; rfl

theorem mor : t.mor = s.mor := by obtain ⟨_, _, rfl⟩ := h; rfl

end

end State.PanelOnly

theorem State.journalHeader_panelOnly (s : State) : s.PanelOnly s.journalHeader := by
  obtain ⟨x, y, heads, tag, full, eq⟩ := s.journalHeader_eq
  rw [eq]
  exact .trans (.trans (.trans (.trans (.trans (.wr _ _ _) (.wr _ _ _)) (.setPanel _ _)) (.setFld _ _ _ _))
    (.setFld _ _ _ _)) (.setFld _ _ _ _)

theorem State.journalHeader_pnl (s : State) : ∃ heads, s.journalHeader.pnl = { s.pnl with jHead := heads } := by
  obtain ⟨x, y, heads, tag, full, eq⟩ := s.journalHeader_eq
  exact ⟨heads, by rw [eq]; rfl⟩

/-- The registers of the journal header. -/
def headerReg (a : Nat) : Prop := R.PNL_QST ≤ a ∧ a ≤ R.PNL_PEND 1

theorem State.journalHeader_writesOnly (s : State) : s.WritesOnly headerReg s.journalHeader := by
  have pend (i : Nat) (word : i ≤ 1) : headerReg (R.PNL_PEND i) := by
    simp only [headerReg, R.PNL_QST, R.PNL_PEND]
    omega
  have qst : headerReg R.PNL_QST := ⟨by decide, by decide⟩
  obtain ⟨x, y, heads, tag, full, eq⟩ := s.journalHeader_eq
  rw [eq]
  exact .trans (.trans (.trans (.trans (.trans (.wr (pend 0 (by decide))) (.wr (pend 1 (by decide))))
    (.setPanel (x := { s.pnl with jHead := heads }) rfl)) (.setFld qst)) (.setFld qst)) (.setFlag qst)

section
variable {s : State} (sound : s.sound = true)
include sound

theorem State.fld_journalHeader_COUNT :
    s.journalHeader.fld R.PNL_QST F.PNL_QST_COUNT = s.pnl.queue.length % 16 := by
  obtain ⟨x, y, heads, tag, full, eq⟩ := s.journalHeader_eq
  have written := State.sound_setPanel (x := { s.pnl with jHead := heads })
    (State.sound_wr (a := R.PNL_PEND 1) (v := y) (State.sound_wr (a := R.PNL_PEND 0) (v := x) sound)) rfl
  have counted := State.sound_setFld (a := R.PNL_QST) (f := F.PNL_QST_COUNT) (v := s.pnl.queue.length) written
  rw [eq]
  exact (State.fld_setFld_ne (State.sound_setFld counted) (by decide) (by decide)).trans
    ((State.fld_setFld_ne counted (by decide) (by decide)).trans (State.fld_setFld_same written (by decide)))

theorem State.fld_journalHeader_LASTTAG :
    s.journalHeader.fld R.PNL_QST F.PNL_QST_LASTTAG = s.fld R.PNL_QST F.PNL_QST_LASTTAG := by
  obtain ⟨x, y, heads, tag, full, eq⟩ := s.journalHeader_eq
  have once := State.sound_wr (a := R.PNL_PEND 0) (v := x) sound
  have written := State.sound_setPanel (x := { s.pnl with jHead := heads })
    (State.sound_wr (a := R.PNL_PEND 1) (v := y) once) rfl
  have counted := State.sound_setFld (a := R.PNL_QST) (f := F.PNL_QST_COUNT) (v := s.pnl.queue.length) written
  rw [eq]
  exact (State.fld_setFld_ne (State.sound_setFld counted) (by decide) (by decide)).trans
    ((State.fld_setFld_ne counted (by decide) (by decide)).trans ((State.fld_setFld_ne written (by decide) (by decide)).trans
      ((State.fld_wr_ne once (by decide)).trans (State.fld_wr_ne sound (by decide)))))

end

/-! ### A row begins (R288–R291, R293) -/

theorem JROW_inj {r k : Nat} (same : R.PNL_JROW r = R.PNL_JROW k) : r = k := by
  simp only [R.PNL_JROW] at same
  omega

theorem JROW_ne_STAT (r : Nat) : R.PNL_JROW r ≠ R.PNL_STAT := by simp only [R.PNL_JROW, R.PNL_STAT]; omega

/-- The registers that beginning row `r` writes. -/
def rowReg (r a : Nat) : Prop := a = R.PNL_STAT ∨ a = R.PNL_JROW r

theorem rowReg_below {r a : Nat} (inside : r < 64) (reg : rowReg r a) : a < R.PNL_BUF 0 0 := by
  rcases reg with rfl | rfl
  · decide
  · simp only [R.PNL_JROW, R.PNL_BUF]
    omega

/-- The record of row `r` as RST of the row begins, in the registers and in the journal. -/
def State.markRow (s : State) (r : Nat) : State :=
  let u := (s.setFlag (R.PNL_JROW r) F.PNL_JROW_POL (!(s.flag (R.PNL_JROW r) F.PNL_JROW_POL))).setFld (R.PNL_JROW r)
    F.PNL_JROW_STATE 1
  u.journalRow r (u.bufRow r)

theorem State.markRow_writesOnly (s : State) (r : Nat) : s.WritesOnly (rowReg r) (s.markRow r) :=
  .trans (.trans (.setFlag (.inr rfl)) (.setFld (.inr rfl))) (.setPanel rfl)

theorem State.markRow_panelOnly (s : State) (r : Nat) : s.PanelOnly (s.markRow r) :=
  .trans (.trans (.setFld _ _ _ _) (.setFld _ _ _ _)) (.setPanel _ _)

theorem State.beginRow_eq (s : State) (q : Req) (r : Nat) : ∃ pnl : Panel, s.beginRow q r =
    ((((s.markRow r).setFlag R.PNL_STAT F.PNL_STAT_RUN true).setFld R.PNL_STAT F.PNL_STAT_PHASE 1).setFld R.PNL_STAT
      F.PNL_STAT_ROW r).setPanel pnl ∧ pnl.maps = s.pnl.maps :=
  ⟨_, rfl, rfl⟩

theorem State.beginRow_writesOnly (s : State) (q : Req) (r : Nat) : s.WritesOnly (rowReg r) (s.beginRow q r) := by
  obtain ⟨pnl, eq, maps⟩ := s.beginRow_eq q r
  rw [eq]
  exact .trans (.trans (.trans (.trans (s.markRow_writesOnly r) (.setFlag (.inl rfl))) (.setFld (.inl rfl)))
    (.setFld (.inl rfl))) (.setPanel maps)

section
variable {s : State} (sound : s.sound = true) (q : Req) (r : Nat)
include sound

/-- The writes to PNL_STAT leave the record of the row as it was marked. -/
theorem State.rd_beginRow_JROW : (s.beginRow q r).rd (R.PNL_JROW r) = (s.markRow r).rd (R.PNL_JROW r) := by
  have marked := (s.markRow_writesOnly r).sound sound
  obtain ⟨pnl, eq, -⟩ := s.beginRow_eq q r
  have stat := JROW_ne_STAT r
  rw [eq]
  exact (State.rd_wr_ne (State.sound_setFld (State.sound_setFld marked)) stat).trans
    ((State.rd_wr_ne (State.sound_setFld marked) stat).trans (State.rd_wr_ne marked stat))

theorem State.beginRow_STATE : (s.beginRow q r).fld (R.PNL_JROW r) F.PNL_JROW_STATE = 1 :=
  (congrArg (fldOf _) (State.rd_beginRow_JROW sound q r)).trans
    (State.fld_setFld_same (State.sound_setFld sound) (by decide))

theorem State.beginRow_POL :
    (s.beginRow q r).flag (R.PNL_JROW r) F.PNL_JROW_POL = !(s.flag (R.PNL_JROW r) F.PNL_JROW_POL) := by
  have marked : (s.markRow r).flag (R.PNL_JROW r) F.PNL_JROW_POL = _ :=
    congrArg (· != 0) (State.fld_setFld_ne (State.sound_setFld sound) (by decide) (by decide))
  exact (congrArg (fldOf _ · != 0) (State.rd_beginRow_JROW sound q r)).trans
    (marked.trans (State.flag_setFlag_same sound (by decide) (by decide)))

theorem State.beginRow_RUN : (s.beginRow q r).flag R.PNL_STAT F.PNL_STAT_RUN = true := by
  have marked := (s.markRow_writesOnly r).sound sound
  obtain ⟨pnl, eq, -⟩ := s.beginRow_eq q r
  rw [eq]
  exact (congrArg (· != 0) ((State.fld_setFld_ne (State.sound_setFld (State.sound_setFld marked)) (by decide)
    (by decide)).trans (State.fld_setFld_ne (State.sound_setFld marked) (by decide) (by decide)))).trans
    (State.flag_setFlag_same marked (by decide) (by decide))

theorem State.beginRow_PHASE : (s.beginRow q r).fld R.PNL_STAT F.PNL_STAT_PHASE = 1 := by
  have running := State.sound_setFld (a := R.PNL_STAT) (f := F.PNL_STAT_RUN) (v := 1)
    ((s.markRow_writesOnly r).sound sound)
  obtain ⟨pnl, eq, -⟩ := s.beginRow_eq q r
  rw [eq]
  exact (State.fld_setFld_ne (State.sound_setFld running) (by decide) (by decide)).trans
    (State.fld_setFld_same running (by decide))

theorem State.beginRow_ROW (inside : r < 64) : (s.beginRow q r).fld R.PNL_STAT F.PNL_STAT_ROW = r := by
  have phased := State.sound_setFld (a := R.PNL_STAT) (f := F.PNL_STAT_PHASE) (v := 1) (State.sound_setFld
    (a := R.PNL_STAT) (f := F.PNL_STAT_RUN) (v := 1) ((s.markRow_writesOnly r).sound sound))
  obtain ⟨pnl, eq, -⟩ := s.beginRow_eq q r
  rw [eq]
  exact (State.fld_setFld_same phased (by decide)).trans (Nat.mod_eq_of_lt inside)

/-- The row takes what the target buffer holds as it begins. -/
theorem State.beginRow_cur (inside : r < 64) : (s.beginRow q r).pnl.cur = some ⟨r, 1, q.full || s.pnl.replay.getLsbD r,
    !(s.flag (R.PNL_JROW r) F.PNL_JROW_POL), (s.beginRow q r).sfld R.PNL_TEMP F.PNL_TEMP_T, s.bufRow r, false, s.now⟩ := by
  have data := (s.beginRow_writesOnly q r |>.mono fun _ => rowReg_below inside).bufRow sound r
  rw [← data]
  rfl

end

/-! ### The queue goes on (R288, R292) -/

theorem nextRow_mem {replay : BitVec 64} {q : Req} {r : Nat} (next : nextRow replay q = some r) : r ∈ rowsOf q.left := by
  unfold nextRow at next
  split at next
  · rename_i first
    have listed : r ∈ rowsOf (q.left &&& replay) := by
      rw [first, ← Option.some.inj next]
      exact List.mem_cons_self
    rw [mem_rowsOf, BitVec.getLsbD_and, Bool.and_eq_true] at listed
    exact mem_rowsOf.2 listed.1
  · exact List.mem_of_head? next

/-- What starting the next row can do: nothing, start the pump, or begin a row left of the head request. -/
theorem State.kick_cases (s : State) : s.kick = s ∨ s.kick = s.pumpStart ∨
    ∃ q l r, s.pnl.queue = q :: l ∧ r ∈ rowsOf q.left ∧ s.kick = s.beginRow q r := by
  unfold State.kick
  split
  · rename_i q l _ queue
    split
    · exact .inl rfl
    · split
      · exact .inr (.inl rfl)
      · split
        · exact .inl rfl
        · split
          · exact .inr (.inr ⟨q, l, _, queue, nextRow_mem ‹_›, rfl⟩)
          · exact .inl rfl
  · exact .inl rfl

theorem State.kick_of_empty {s : State} (empty : s.pnl.queue = []) : s.kick = s := by
  unfold State.kick
  rw [empty]
  cases s.pnl.cur <;> rfl

theorem State.kick_of_ready {s : State} {q : Req} {l : List Req} {r : Nat} (idle : s.pnl.cur = none)
    (queue : s.pnl.queue = q :: l) (may : s.mayStartRow = true) (on : s.flag R.PNL_STAT F.PNL_STAT_PUMPON = true)
    (ready : s.pnl.pumpReady = true) (next : nextRow s.pnl.replay q = some r) : s.kick = s.beginRow q r := by
  unfold State.kick
  rw [idle, queue]
  simp only [may, on, ready, next]
  rfl

theorem State.kick_panelOnly (s : State) : s.PanelOnly s.kick := by
  rcases s.kick_cases with same | pump | ⟨q, l, r, -, -, row⟩
  · rw [same]
    exact .refl s
  · rw [pump]
    exact .trans (.setFld _ _ _ _) (.setPanel _ _)
  · obtain ⟨pnl, eq, -⟩ := s.beginRow_eq q r
    rw [row, eq]
    exact .trans (.trans (.trans (.trans (s.markRow_panelOnly r) (.setFld _ _ _ _)) (.setFld _ _ _ _)) (.setFld _ _ _ _))
      (.setPanel _ _)

/-- Of the panel beside its registers, what starting the next row can change. -/
theorem State.kick_pnl (s : State) : ∃ journal cur ready idleAt, s.kick.pnl =
    { s.pnl with journal := journal, cur := cur, pumpReady := ready, idleAt := idleAt } := by
  rcases s.kick_cases with e | e | ⟨q, l, r, -, -, e⟩
  all_goals
    rw [e]
    exact ⟨_, _, _, _, rfl⟩

/-- Only the rows left of the head request can begin. -/
theorem State.kick_writesOnly (s : State) : s.WritesOnly
    (fun a => a = R.PNL_STAT ∨ ∃ q l r, s.pnl.queue = q :: l ∧ r ∈ rowsOf q.left ∧ a = R.PNL_JROW r) s.kick := by
  rcases s.kick_cases with same | pump | ⟨q, l, r, queue, left, row⟩
  · rw [same]
    exact .refl s
  · rw [pump]
    exact .trans (.setFlag (.inl rfl)) (.setPanel rfl)
  · rw [row]
    exact (s.beginRow_writesOnly q r).mono fun a reg => reg.imp_right fun at_ => ⟨q, l, r, queue, left, at_⟩

theorem State.kick_below (s : State) : s.WritesOnly (· < R.PNL_BUF 0 0) s.kick :=
  s.kick_writesOnly.mono fun _ reg => by
    rcases reg with rfl | ⟨_, _, _, _, left, rfl⟩
    · decide
    · exact rowReg_below (lt_of_mem_rowsOf left) (.inr rfl)

/-- The queue has changed: the header follows, and the next row may begin. -/
def State.requeued (s : State) : State := s.journalHeader.kick

theorem State.requeued_panelOnly (s : State) : s.PanelOnly s.requeued :=
  s.journalHeader_panelOnly.trans s.journalHeader.kick_panelOnly

theorem State.requeued_pnl (s : State) : ∃ heads journal cur ready idleAt, s.requeued.pnl =
    { s.pnl with jHead := heads, journal := journal, cur := cur, pumpReady := ready, idleAt := idleAt } := by
  obtain ⟨heads, header⟩ := s.journalHeader_pnl
  obtain ⟨journal, cur, ready, idleAt, kick⟩ := s.journalHeader.kick_pnl
  exact ⟨heads, journal, cur, ready, idleAt, kick.trans (by rw [header])⟩

theorem State.requeued_queue (s : State) : s.requeued.pnl.queue = s.pnl.queue := by
  obtain ⟨_, _, _, _, _, eq⟩ := s.requeued_pnl
  rw [eq]

theorem State.requeued_shown (s : State) : s.requeued.pnl.shown = s.pnl.shown := by
  obtain ⟨_, _, _, _, _, eq⟩ := s.requeued_pnl
  rw [eq]

theorem State.requeued_below (s : State) : s.WritesOnly (· < R.PNL_BUF 0 0) s.requeued :=
  (s.journalHeader_writesOnly.mono fun a reg => Nat.lt_of_le_of_lt reg.2 (by decide)).trans s.journalHeader.kick_below

theorem State.requeued_of_empty {s : State} (empty : s.pnl.queue = []) : s.requeued = s.journalHeader := by
  obtain ⟨_, eq⟩ := s.journalHeader_pnl
  exact State.kick_of_empty (by rw [eq]; exact empty)

/-- The record of a row that is not left of the head request stays. -/
theorem State.requeued_JROW {s : State} (sound : s.sound = true) {q : Req} {l : List Req} {r : Nat}
    (queue : s.pnl.queue = q :: l) (other : r ∉ rowsOf q.left) : s.requeued.rd (R.PNL_JROW r) = s.rd (R.PNL_JROW r) := by
  obtain ⟨_, eq⟩ := s.journalHeader_pnl
  refine (s.journalHeader.kick_writesOnly.regs (s.journalHeader_writesOnly.sound sound) _ ?_).trans
    (s.journalHeader_writesOnly.regs sound _ ?_)
  · rintro (stat | ⟨q', l', r', queue', left, row⟩)
    · exact JROW_ne_STAT r stat
    · have head : q' = q := by
        rw [eq] at queue'
        exact (List.cons.inj (queue'.symm.trans queue)).1
      exact other (JROW_inj row ▸ head ▸ left)
  · simp only [headerReg, R.PNL_QST, R.PNL_PEND, R.PNL_JROW]
    omega

/-! ### The pump is ready (R292) -/

/-- The pump is ready, with the voltages measured. -/
def State.pumpUp (s : State) (vrst vsel : BitVec 16) : State :=
  let u := s.notePump vrst vsel
  u.setPanel { u.pnl with pumpReady := true }

theorem State.pumpUp_writesOnly (s : State) (v x : BitVec 16) : s.WritesOnly (· = R.PNL_PUMP) (s.pumpUp v x) :=
  .trans (.trans (.setFld rfl) (.setFld rfl)) (.setPanel rfl)

/-- Whether a row may begin does not turn on the voltages. -/
theorem State.WritesOnly.mayStartRow {s t : State} (h : s.WritesOnly (· = R.PNL_PUMP) t) (sound : s.sound = true)
    (skipped : t.pnl.skipped = s.pnl.skipped) (due : t.pnl.restartDue = s.pnl.restartDue) :
    t.mayStartRow = s.mayStartRow := by
  have stat (f : Fld) : t.flag R.PNL_STAT f = s.flag R.PNL_STAT f := h.flag sound f (by decide)
  have hold : t.flag R.PWR_STAT F.PWR_STAT_HOLD = s.flag R.PWR_STAT F.PWR_STAT_HOLD := h.flag sound _ (by decide)
  have mode : t.panelMode = s.panelMode := h.fld sound _ (by decide)
  have power (d : Nat) : t.powered d = s.powered d := congrArg (BitVec.getLsbD · d) (h.regs sound R.PWR_DOM (by decide))
  have clock (i : Nat) : t.islandRuns i = s.islandRuns i := congrArg (Nat.testBit · i) (h.fld sound _ (by decide))
  simp only [State.mayStartRow, State.panelBarred, State.islandOn, stat, hold, mode, power, clock, skipped, due]

section
variable {s : State} (v x : BitVec 16) (sound : s.sound = true)
include sound

theorem State.notePump_VRST : (s.notePump v x).fld R.PNL_PUMP F.PNL_PUMP_VRST = v.toNat :=
  (State.fld_setFld_ne (State.sound_setFld sound) (by decide) (by decide)).trans
    ((State.fld_setFld_same sound (by decide)).trans (Nat.mod_eq_of_lt v.isLt))

theorem State.notePump_VSEL : (s.notePump v x).fld R.PNL_PUMP F.PNL_PUMP_VSEL = x.toNat :=
  (State.fld_setFld_same (State.sound_setFld sound) (by decide)).trans (Nat.mod_eq_of_lt x.isLt)

theorem State.pumpUp_VRST : (s.pumpUp v x).fld R.PNL_PUMP F.PNL_PUMP_VRST = v.toNat :=
  (State.fld_setPanel _ _ _ _).trans (State.notePump_VRST v x sound)

theorem State.pumpUp_VSEL : (s.pumpUp v x).fld R.PNL_PUMP F.PNL_PUMP_VSEL = x.toNat :=
  (State.fld_setPanel _ _ _ _).trans (State.notePump_VSEL v x sound)

theorem exec_pumpReady_of_idle {q : Req} {l : List Req} {r : Nat} {k : List Nat} (works : s.islandOn 14 = true)
    (idle : s.pnl.cur = none) (queue : s.pnl.queue = q :: l) (may : s.mayStartRow = true) (afresh : s.pnl.replay = 0)
    (rows : rowsOf q.left = r :: k) (on : s.flag R.PNL_STAT F.PNL_STAT_PUMPON = true) (wait : s.pnl.pumpReady = false) :
    exec (.pumpReady v x) s = .next ((s.pumpUp v x).beginRow q r) := by
  have next : nextRow s.pnl.replay q = some r := by
    have none_ : rowsOf (q.left &&& s.pnl.replay) = [] := by
      rw [afresh]
      exact congrArg rowsOf BitVec.and_zero
    rw [nextRow, none_, rows]
    rfl
  have up := s.pumpUp_writesOnly v x
  have runs : exec (.pumpReady v x) s = .next (s.pumpUp v x).kick := congrArg _ (if_pos (by simp [works, on, wait]))
  rw [runs, State.kick_of_ready (s := s.pumpUp v x) idle queue ((up.mayStartRow sound rfl rfl).trans may)
    ((up.flag sound _ (by decide)).trans on) rfl next]

end

/-! ### The phases of a row (R289) -/

theorem exec_rowPhaseEnd {s : State} (works : s.islandOn 14 = true) : exec .rowPhaseEnd s = .next s.phaseEnd :=
  congrArg _ (if_pos works)

theorem State.phaseEnd_of_idle {s : State} (idle : s.pnl.cur = none) : s.phaseEnd = s := by
  rw [State.phaseEnd, idle]

section
variable {s : State} {w : RowWrite} (cur : s.pnl.cur = some w)
include cur

theorem State.phaseEnd_of_early (early : w.phase < 3) :
    s.phaseEnd = (let late := s.atTime (w.since + s.phaseLength w)
      (late.setPanel { s.pnl with cur := some { w with phase := w.phase + 1, since := late.now } }).setFld R.PNL_STAT
        F.PNL_STAT_PHASE (w.phase + 1)) := by
  rw [State.phaseEnd, cur]
  exact if_pos early

theorem State.phaseEnd_of_last (last : w.phase = 3) :
    s.phaseEnd = (s.atTime (w.since + s.phaseLength w)).endRow w := by
  rw [State.phaseEnd, cur]
  exact if_neg (by omega)

end

/-! ### A row ends (R288, R293) -/

/-- Request `q` with row `r` written. -/
def Req.wrote (q : Req) (r : Nat) : Req := { q with done := q.done ||| BitVec.ofNat 64 (2 ^ r) }

theorem Req.not_mem_left_wrote {r : Nat} (q : Req) (inside : r < 64) : r ∉ rowsOf (q.wrote r).left := by
  rintro left
  obtain ⟨-, undone⟩ := Req.mem_left.1 left
  simp only [Req.wrote, BitVec.getLsbD_or, getLsbD_row inside, decide_true, Bool.or_true] at undone
  exact Bool.noConfusion undone

/-- Row `r` is DONE, and counted. -/
def State.countRow (s : State) (r : Nat) : State :=
  let u := (s.setFld (R.PNL_JROW r) F.PNL_JROW_STATE 2).addFld R.PNL_CNT F.PNL_CNT_ROWS 1
  if u.pnl.replay.getLsbD r then u.addFld R.PNL_CNT F.PNL_CNT_REPL 1 else u

theorem State.countRow_pnl (s : State) (r : Nat) : (s.countRow r).pnl = s.pnl := by
  unfold State.countRow
  dsimp only
  split
  · rfl
  · rfl

theorem State.countRow_panelOnly (s : State) (r : Nat) : s.PanelOnly (s.countRow r) := by
  unfold State.countRow
  dsimp only
  split
  · exact .trans (.trans (.setFld _ _ _ _) (.setFld _ _ _ _)) (.setFld _ _ _ _)
  · exact .trans (.setFld _ _ _ _) (.setFld _ _ _ _)

theorem State.countRow_writesOnly (s : State) (r : Nat) :
    (s.setFld (R.PNL_JROW r) F.PNL_JROW_STATE 2).WritesOnly (· = R.PNL_CNT) (s.countRow r) := by
  unfold State.countRow
  dsimp only
  split
  · exact .trans (.setFld rfl) (.setFld rfl)
  · exact .setFld rfl

/-- EVO of row `w` has ended, and `queue` is the queue. -/
def State.rowDone (s : State) (w : RowWrite) (queue : List Req) : State :=
  let u := s.countRow w.row
  ((u.setFlag R.PNL_STAT F.PNL_STAT_RUN false).setFld R.PNL_STAT F.PNL_STAT_PHASE 0).setPanel { u.pnl with
    cur := none, replay := u.pnl.replay &&& ~~~(BitVec.ofNat 64 (2 ^ w.row)), faults := 0, queue := queue,
    shown := tabSet (dflt 0) u.pnl.shown w.row w.data }

/-- What the end of a row changes in the panel beside its registers. -/
theorem State.rowDone_pnl (s : State) (w : RowWrite) (queue : List Req) : (s.rowDone w queue).pnl = { s.pnl with
    cur := none, replay := s.pnl.replay &&& ~~~(BitVec.ofNat 64 (2 ^ w.row)), faults := 0, queue := queue,
    shown := tabSet (dflt 0) s.pnl.shown w.row w.data } := by
  rw [← s.countRow_pnl w.row]
  rfl

theorem State.rowDone_panelOnly (s : State) (w : RowWrite) (queue : List Req) : s.PanelOnly (s.rowDone w queue) :=
  .trans (.trans (.trans (s.countRow_panelOnly _) (.setFld _ _ _ _)) (.setFld _ _ _ _)) (.setPanel _ _)

section
variable {s : State} (sound : s.sound = true) (w : RowWrite) (queue : List Req)
include sound

theorem State.countRow_sound (r : Nat) : (s.countRow r).sound = true :=
  (s.countRow_writesOnly r).sound (State.sound_setFld sound)

theorem State.rowDone_sound : (s.rowDone w queue).sound = true :=
  State.sound_setPanel (State.sound_setFld (State.sound_setFld (State.countRow_sound sound w.row))) rfl

theorem State.rowDone_STATE : (s.rowDone w queue).fld (R.PNL_JROW w.row) F.PNL_JROW_STATE = 2 := by
  have counted := State.countRow_sound sound w.row
  have stat := JROW_ne_STAT w.row
  have cnt : R.PNL_JROW w.row ≠ R.PNL_CNT := by simp only [R.PNL_JROW, R.PNL_CNT]; omega
  exact (State.fld_setFld_other (State.sound_setFld counted) stat).trans ((State.fld_setFld_other counted stat).trans
    (((s.countRow_writesOnly w.row).fld (State.sound_setFld sound) _ cnt).trans
      (State.fld_setFld_same sound (by decide))))

theorem State.rowDone_RUN : (s.rowDone w queue).flag R.PNL_STAT F.PNL_STAT_RUN = false := by
  have counted := State.countRow_sound sound w.row
  exact (congrArg (· != 0) (State.fld_setFld_ne (State.sound_setFld counted) (by decide) (by decide))).trans
    (State.flag_setFlag_same counted (by decide) (by decide))

end

/-- The queue once row `w` is written. -/
def State.queueAfter (s : State) (w : RowWrite) : List Req := match s.pnl.queue with
  | q :: l => if w.stray then q :: l else q.wrote w.row :: l
  | [] => []

/-- The head request ends once no row of it is left. -/
def State.endHead (s : State) : State := match s.pnl.queue with
  | q :: _ => if q.left = 0 then s.endRequest q else s
  | [] => s

theorem State.endRow_eq (s : State) (w : RowWrite) :
    s.endRow w = (s.rowDone w (s.queueAfter w)).endHead.requeued := by
  have counted : (s.countRow w.row).queueAfter w = s.queueAfter w := by
    rw [State.queueAfter, s.countRow_pnl]
    rfl
  rw [← counted]
  rfl

theorem State.queueAfter_of_own {s : State} {w : RowWrite} {q : Req} {l : List Req} (queue : s.pnl.queue = q :: l)
    (own : w.stray = false) : s.queueAfter w = q.wrote w.row :: l := by
  rw [State.queueAfter, queue]
  exact if_neg (by simp [own])

section
variable {s : State} {q : Req} {l : List Req} (queue : s.pnl.queue = q :: l)
include queue

theorem State.endHead_of_more (more : q.left ≠ 0) : s.endHead = s := by
  rw [State.endHead, queue]
  exact if_neg more

theorem State.endHead_of_last (last : q.left = 0) : s.endHead = s.endRequest q := by
  rw [State.endHead, queue]
  exact if_pos last

end

/-! ### A request ends (R288, R293) -/

/-- The DONE rows of the list go to IDLE. -/
def State.restRows (s : State) (l : List Nat) : State :=
  foldS (fun s r => if s.fld (R.PNL_JROW r) F.PNL_JROW_STATE == 2
    then s.setFld (R.PNL_JROW r) F.PNL_JROW_STATE 0 else s) s l

theorem State.endRequest_eq (s : State) (q : Req) : s.endRequest q =
    (let u := (s.restRows (rowsOf q.rows)).setFld R.PNL_QST F.PNL_QST_LASTTAG q.tag
     u.setPanel { u.pnl with queue := u.pnl.queue.tail, idleAt := u.now }) := rfl

theorem State.restRows_panelOnly (s : State) (l : List Nat) : s.PanelOnly (s.restRows l) := by
  refine State.PanelOnly.foldS (fun u r => ?_) s l
  split
  · exact .setFld _ _ _ _
  · exact .refl u

theorem State.restRows_pnl (s : State) (l : List Nat) : (s.restRows l).pnl = s.pnl := by
  refine foldS_frame (part := State.pnl) (fun u r => ?_) s l
  split
  · rfl
  · rfl

theorem State.restRows_writesOnly (s : State) (l : List Nat) :
    s.WritesOnly (fun a => ∃ r, a = R.PNL_JROW r) (s.restRows l) := by
  refine State.WritesOnly.foldS (fun u r _ => ?_) s
  split
  · exact .setFld ⟨r, rfl⟩
  · exact .refl u

/-- No row of the list is DONE any more. -/
theorem State.restRows_STATE {s : State} (sound : s.sound = true) {l : List Nat} {i : Nat}
    (listed : i ∈ l ∨ s.fld (R.PNL_JROW i) F.PNL_JROW_STATE ≠ 2) :
    (s.restRows l).fld (R.PNL_JROW i) F.PNL_JROW_STATE ≠ 2 := by
  induction l generalizing s with
  | nil => exact listed.resolve_left List.not_mem_nil
  | cons r l ih =>
    by_cases done : s.fld (R.PNL_JROW r) F.PNL_JROW_STATE = 2
    · have step : s.restRows (r :: l) = (s.setFld (R.PNL_JROW r) F.PNL_JROW_STATE 0).restRows l :=
        congrArg (State.restRows · l) (if_pos (beq_iff_eq.2 done))
      rw [step]
      refine ih (State.sound_setFld sound) ?_
      by_cases here : i = r
      · right
        rw [here, State.fld_setFld_same sound (by decide)]
        decide
      · rw [State.fld_setFld_other sound fun same => here (JROW_inj same)]
        exact listed.imp_left fun mem => (List.mem_cons.1 mem).resolve_left here
    · have step : s.restRows (r :: l) = s.restRows l :=
        congrArg (State.restRows · l) (if_neg fun e => done (beq_iff_eq.1 e))
      rw [step]
      refine ih sound ?_
      by_cases here : i = r
      · exact .inr (here ▸ done)
      · exact listed.imp_left fun mem => (List.mem_cons.1 mem).resolve_left here

section
variable {s : State} (sound : s.sound = true) (q : Req)
include sound

theorem State.endRequest_sound : (s.endRequest q).sound = true := (State.endRequest_keeps (.refl s)).sound sound

theorem State.endRequest_STATE {i : Nat} (row : i ∈ rowsOf q.rows) :
    (s.endRequest q).fld (R.PNL_JROW i) F.PNL_JROW_STATE ≠ 2 := by
  have other : R.PNL_JROW i ≠ R.PNL_QST := by simp only [R.PNL_JROW, R.PNL_QST]; omega
  have tagged := State.fld_setFld_other (v := q.tag) (f := F.PNL_QST_LASTTAG) (g := F.PNL_JROW_STATE)
    ((s.restRows_writesOnly (rowsOf q.rows)).sound sound) other
  exact fun done => State.restRows_STATE sound (.inl row) (tagged.symm.trans done)

theorem State.endRequest_LASTTAG : (s.endRequest q).fld R.PNL_QST F.PNL_QST_LASTTAG = q.tag % 64 :=
  State.fld_setFld_same ((s.restRows_writesOnly _).sound sound) (by decide)

theorem State.endRequest_STAT (f : Fld) : (s.endRequest q).flag R.PNL_STAT f = s.flag R.PNL_STAT f := by
  have rows := s.restRows_writesOnly (rowsOf q.rows)
  exact (congrArg (· != 0) (State.fld_setFld_other (rows.sound sound) (by decide))).trans
    (rows.flag sound f fun ⟨r, row⟩ => JROW_ne_STAT r row.symm)

end

theorem State.endRequest_panelOnly (s : State) (q : Req) : s.PanelOnly (s.endRequest q) :=
  .trans (.trans (s.restRows_panelOnly _) (.setFld _ _ _ _)) (.setPanel _ _)

/-- What the end of a request changes in the panel beside its registers. -/
theorem State.endRequest_pnl (s : State) (q : Req) : ∃ idleAt, (s.endRequest q).pnl =
    { s.pnl with queue := s.pnl.queue.tail, idleAt := idleAt } := by
  have rows := s.restRows_pnl (rowsOf q.rows)
  rw [State.endRequest_eq]
  dsimp only [State.setPanel_pnl, State.setFld_pnl]
  rw [rows]
  exact ⟨_, rfl⟩

/-! ### The row after EVO, with its request and with the last of its request -/

section
variable {s : State} {w : RowWrite} {q : Req} {l : List Req} (queue : s.pnl.queue = q :: l) (own : w.stray = false)
include queue own

theorem State.endRow_of_more (more : (q.wrote w.row).left ≠ 0) :
    s.endRow w = (s.rowDone w (q.wrote w.row :: l)).requeued := by
  rw [State.endRow_eq, State.queueAfter_of_own queue own, State.endHead_of_more (by rw [State.rowDone_pnl]) more]

theorem State.endRow_of_last (only : l = []) (last : (q.wrote w.row).left = 0) :
    s.endRow w = ((s.rowDone w [q.wrote w.row]).endRequest (q.wrote w.row)).journalHeader := by
  have done := s.rowDone_pnl w [q.wrote w.row]
  obtain ⟨_, ended⟩ := (s.rowDone w [q.wrote w.row]).endRequest_pnl (q.wrote w.row)
  rw [State.endRow_eq, State.queueAfter_of_own queue own, only, State.endHead_of_last (by rw [done]) last,
    State.requeued_of_empty (by rw [ended, done]; rfl)]

end

end Sys2Proof.Machine
end

section
/-! SUPPORT. The rules of the panel requests (R284–R287). -/

namespace Sys2Proof.Machine

/-! ### The checks of a request (R284) -/

theorem target_other {target : BitVec 16} (other : target ≠ 0) : (target.toNat != 0) = true :=
  bne_iff_ne.2 fun none_ => other (BitVec.eq_of_toNat_eq none_)

theorem State.badRect_iff (s : State) (r0 r1 c0 c1 : Nat) :
    s.badRect r0 r1 c0 c1 = true ↔ r1 < r0 ∨ c1 < c0 ∨ s.commons ≤ r1 ∨ s.segs ≤ c1 := by
  simp [State.badRect, or_assoc]

section
variable {s : State} {target pix : BitVec 16} {r r0 r1 tag : BitVec 6} {h : BitVec 3} {c0 c1 : BitVec 7} {pic : BitVec 4}

/-- Every panel request for another target is refused with ADDRESS. -/
theorem exec_panel_of_other (other : target ≠ 0) : exec (.draw target r h pix) s = .next (s.answer .address) ∧
    exec (.update target r0 r1 c0 c1 tag) s = .next (s.answer .address) ∧
    exec (.copy target r0 r1 c0 c1 pic) s = .next (s.answer .address) ∧
    exec (.panelClear target tag) s = .next (s.answer .address) :=
  have refused := target_other other
  ⟨congrArg _ (if_pos refused), congrArg _ (if_pos refused), congrArg _ (if_pos refused), congrArg _ (if_pos refused)⟩

/-- Every panel request for a panel that is not driven is refused with STATE. -/
theorem exec_panel_of_barred (barred : s.panelBarred = true) : exec (.draw 0 r h pix) s = .next (s.answer .state) ∧
    exec (.update 0 r0 r1 c0 c1 tag) s = .next (s.answer .state) ∧
    exec (.copy 0 r0 r1 c0 c1 pic) s = .next (s.answer .state) ∧
    exec (.panelClear 0 tag) s = .next (s.answer .state) :=
  ⟨congrArg _ (if_pos barred), congrArg _ (if_pos barred), congrArg _ (if_pos barred), congrArg _ (if_pos barred)⟩

end

/-- A request that both checks pass. -/
theorem ite_admitted {α : Type} {barred : Bool} (driven : barred = false) {x y z : α} :
    (if (0 : Nat) != 0 then x else if barred then y else z) = z := by
  rw [driven]
  rfl

section
variable {s : State} (driven : s.panelBarred = false)
include driven

theorem State.drawOp_outside {r h : Nat} {pix : BitVec 16} (outside : s.commons ≤ r ∨ s.segs ≤ 16 * h) :
    s.drawOp 0 r h pix = s.answer .range :=
  (ite_admitted driven).trans (if_pos (by simpa using outside))

theorem State.drawOp_inside {r h : Nat} {pix : BitVec 16} (row : r < s.commons) (column : 16 * h < s.segs) :
    s.drawOp 0 r h pix = ((s.wr (R.PNL_BUF r (h / 2))
      (putFld ⟨16 * (h % 2), 16⟩ (s.rd (R.PNL_BUF r (h / 2))) pix.toNat)).bufChanged).answer .ok :=
  (ite_admitted driven).trans (if_neg (by simp; omega))

section
variable {r0 r1 c0 c1 : Nat}

theorem State.updateOp_bad {tag : Nat} (bad : s.badRect r0 r1 c0 c1 = true) :
    s.updateOp 0 r0 r1 c0 c1 tag = s.answer .range :=
  (ite_admitted driven).trans (if_pos bad)

theorem State.copyOp_bad {pic : Nat} (bad : s.badRect r0 r1 c0 c1 = true) :
    s.copyOp 0 r0 r1 c0 c1 pic = s.answer .range :=
  (ite_admitted driven).trans (if_pos bad)

variable (good : s.badRect r0 r1 c0 c1 = false)
include good

theorem State.updateOp_segment {tag : Nat} (mode : s.panelMode = 2) : s.updateOp 0 r0 r1 c0 c1 tag =
    (s.setPanel { s.pnl with segTags := s.pnl.segTags ++ [tag] }).answer .ok :=
  (ite_admitted driven).trans ((if_neg (by simp [good])).trans (if_pos (beq_iff_eq.2 mode)))

theorem State.updateOp_matrix {tag : Nat} (mode : s.panelMode ≠ 2) : s.updateOp 0 r0 r1 c0 c1 tag =
    match s.placeReq ⟨rowSet r0 r1, 0, r0, r1, c0, c1, tag, false⟩ with
    | some t => t.answer .ok
    | none => s.answer .busy :=
  ((ite_admitted driven).trans ((if_neg (by simp [good])).trans (if_neg fun e => mode (beq_iff_eq.1 e)))).trans
    (by cases s.placeReq ⟨rowSet r0 r1, 0, r0, r1, c0, c1, tag, false⟩ <;> rfl)

/-- The rows of the rectangle as COPY writes them. -/
def copyRow (picture : List (BitVec 128)) (m : BitVec 128) (r : Nat) (row : BitVec 128) : BitVec 128 :=
  (row &&& ~~~m) ||| (picture.getD r 0 &&& m)

omit driven good in
theorem State.copyOp_missing {pic : Nat} (driven : s.panelBarred = false)
    (missing : s.img.exec.pictures.find? (fun e => e.1 == pic) = none) :
    s.copyOp 0 r0 r1 c0 c1 pic = s.answer .range := by
  unfold State.copyOp
  rw [missing]
  cases s.badRect r0 r1 c0 c1 <;> simp [driven]

theorem State.copyOp_found {pic : Nat} {e} (found : s.img.exec.pictures.find? (fun e => e.1 == pic) = some e) :
    s.copyOp 0 r0 r1 c0 c1 pic = (foldS (fun s r => s.setBufRow r (copyRow e.2 (colMask c0 c1) r (s.bufRow r))) s
      (rowsOf (rowSet r0 r1))).bufChanged.answer .ok := by
  unfold State.copyOp
  rw [found]
  exact (ite_admitted driven).trans (if_neg (by simp [good]))

end

theorem State.panelClearOp_driven (tag : Nat) : s.panelClearOp 0 tag = match s.clearPanel tag with
    | some t => (t.setFlag R.PNL_STAT F.PNL_STAT_JLOST false).answer .ok
    | none => s.answer .busy :=
  (ite_admitted driven).trans (by cases s.clearPanel tag <;> rfl)

end

/-! ### Placing a request (R287) -/

section
variable {s : State} {r : Req}

theorem State.held_of_disjoint (disjoint : ∀ q ∈ s.pnl.queue, q.shares r.rows = false) :
    (s.pnl.queue.filter (fun q => q.shares r.rows)).isEmpty = true :=
  List.isEmpty_iff.2 (List.filter_eq_nil_iff.2 fun q mem => by simp [disjoint q mem])

theorem State.placeReq_full (disjoint : ∀ q ∈ s.pnl.queue, q.shares r.rows = false)
    (full : 8 ≤ s.pnl.queue.length) : s.placeReq r = none :=
  (if_pos (State.held_of_disjoint disjoint)).trans (if_pos full)

theorem State.placeReq_free (disjoint : ∀ q ∈ s.pnl.queue, q.shares r.rows = false)
    (free : s.pnl.queue.length < 8) :
    s.placeReq r = some (s.setPanel { s.pnl with queue := s.pnl.queue ++ [r] }).requeued :=
  (if_pos (State.held_of_disjoint disjoint)).trans (if_neg (Nat.not_le.2 free))

theorem State.strayRow_queue (s : State) (rows : BitVec 64) : (s.strayRow rows).pnl.queue = s.pnl.queue := by
  unfold State.strayRow
  split
  · split
    · rfl
    · rfl
  · rfl

/-- The request that `r` and the held requests it shares a row with become. -/
def State.mergedReq (s : State) (r : Req) : Req :=
  let held := s.pnl.queue.filter (fun q => q.shares r.rows)
  { r with rows := held.foldl (fun m q => m ||| s.carried q) r.rows, full := r.full || held.any (fun q => q.full) }

theorem State.placeReq_shared (shared : ∃ q ∈ s.pnl.queue, q.shares r.rows = true) : s.placeReq r =
    some (let u := s.strayRow r.rows
      u.setPanel { u.pnl with queue := mergeInto r.rows (s.mergedReq r) u.pnl.queue }).requeued := by
  obtain ⟨q, mem, shares⟩ := shared
  refine if_neg fun none_ => ?_
  have held : q ∈ s.pnl.queue.filter (fun q => q.shares r.rows) := List.mem_filter.2 ⟨mem, shares⟩
  rw [List.isEmpty_iff.1 none_] at held
  exact List.not_mem_nil held

theorem foldl_or_and {α : Type} {n : Nat} (f : α → BitVec n) (l : List α) {x y : BitVec n} (among : y &&& x = x) :
    l.foldl (fun m a => m ||| f a) y &&& x = x := by
  induction l generalizing y with
  | nil => exact among
  | cons a l ih =>
    refine ih ?_
    apply BitVec.eq_of_getLsbD_eq
    intro i _
    have bit := congrArg (BitVec.getLsbD · i) among
    simp only [BitVec.getLsbD_and, BitVec.getLsbD_or] at bit ⊢
    rw [Bool.and_or_distrib_right, bit]
    cases x.getLsbD i with
    | true => rfl
    | false => exact Bool.and_false _

/-- The rows of the new request are among those of the merged one. -/
theorem State.mergedReq_rows (s : State) (r : Req) : (s.mergedReq r).rows &&& r.rows = r.rows :=
  foldl_or_and _ _ (BitVec.and_self)

theorem mergeInto_length (rows : BitVec 64) (m : Req) (l : List Req) : (mergeInto rows m l).length ≤ l.length := by
  induction l with
  | nil => exact Nat.le_refl 0
  | cons q l ih =>
    rw [mergeInto]
    split
    · exact Nat.succ_le_succ (List.length_filter_le _ l)
    · exact Nat.succ_le_succ ih

theorem mem_mergeInto {rows : BitVec 64} {m : Req} {l : List Req} (shared : ∃ q ∈ l, q.shares rows = true) :
    m ∈ mergeInto rows m l := by
  induction l with
  | nil =>
    obtain ⟨_, mem, -⟩ := shared
    exact absurd mem List.not_mem_nil
  | cons q l ih =>
    rw [mergeInto]
    split
    · exact List.mem_cons_self
    · rename_i apart
      obtain ⟨x, mem, shares⟩ := shared
      refine List.mem_cons_of_mem q (ih ⟨x, (List.mem_cons.1 mem).resolve_left ?_, shares⟩)
      rintro rfl
      exact apart shares

end

end Sys2Proof.Machine
end

section
/-! SUPPORT. The rules of CLEAR, of the charge pump, of segment mode and of the panel sensor (R286, R291, R292, R295). -/

namespace Sys2Proof.Machine

/-! ### CLEAR and COPY on the target buffer (R285, R286) -/

/-- The rows of the list all 0. -/
def State.clearRows (s : State) (l : List Nat) : State := foldS (fun s r => s.setBufRow r 0) s l

theorem State.clearRows_writesOnly (s : State) (l : List Nat) : s.WritesOnly (R.PNL_BUF 0 0 ≤ ·) (s.clearRows l) :=
  .foldS (fun u r _ => u.setBufRow_writesOnly r 0) s

theorem State.bufRow_clearRows {s : State} (sound : s.sound = true) {l : List Nat} (distinct : l.Nodup) {k : Nat}
    (listed : k ∈ l) : (s.clearRows l).bufRow k = 0 :=
  (State.bufRow_foldS (f := fun _ _ => 0) distinct sound k).trans (if_pos listed)

theorem State.clearRows_pnl (s : State) (l : List Nat) : (s.clearRows l).pnl = s.pnl :=
  foldS_frame (f := fun s r => s.setBufRow r 0) (part := State.pnl) (fun _ _ => rfl) s l

theorem State.bufRow_bufChanged (s : State) (r : Nat) : s.bufChanged.bufRow r = s.bufRow r := rfl

theorem State.bufChanged_queue (s : State) : s.bufChanged.pnl.queue = s.pnl.queue := rfl

/-- The target buffer all 0. -/
def State.clearedBuf (s : State) : State := (s.clearRows (List.range 64)).bufChanged

theorem State.clearedBuf_writesOnly (s : State) : s.WritesOnly (R.PNL_BUF 0 0 ≤ ·) s.clearedBuf :=
  (s.clearRows_writesOnly _).trans (.setPanel rfl)

theorem State.bufRow_clearedBuf {s : State} (sound : s.sound = true) {k : Nat} (inside : k < 64) :
    s.clearedBuf.bufRow k = 0 :=
  (State.bufRow_bufChanged _ k).trans (State.bufRow_clearRows sound List.nodup_range (List.mem_range.2 inside))

theorem State.clearedBuf_queue (s : State) : s.clearedBuf.pnl.queue = s.pnl.queue :=
  (State.bufChanged_queue _).trans (congrArg Panel.queue (s.clearRows_pnl _))

/-- The request of CLEAR: a full reset of all rows. -/
def State.clearReq (s : State) (tag : Nat) : Req :=
  ⟨rowSet 0 (s.commons - 1), 0, 0, s.commons - 1, 0, s.segs - 1, tag, true⟩

theorem State.clearPanel_empty {s : State} (sound : s.sound = true) (mode : s.panelMode ≠ 2) (empty : s.pnl.queue = [])
    (tag : Nat) : s.clearPanel tag =
      some (s.clearedBuf.setPanel { s.clearedBuf.pnl with queue := [s.clearReq tag] }).requeued := by
  have cfg (f : Fld) : s.clearedBuf.fld R.PNL_CFG f = s.fld R.PNL_CFG f :=
    s.clearedBuf_writesOnly.fld sound f (by decide)
  have mode' : s.clearedBuf.panelMode ≠ 2 := fun e => mode ((cfg _).symm.trans e)
  have req : s.clearedBuf.clearReq tag = s.clearReq tag := by
    simp only [State.clearReq, State.commons, State.segs, cfg]
  have empty' : s.clearedBuf.pnl.queue = [] := s.clearedBuf_queue.trans empty
  have placed := State.placeReq_free (s := s.clearedBuf) (r := s.clearReq tag) (by simp [empty']) (by simp [empty'])
  rw [empty', List.nil_append, ← req] at placed
  rw [← req]
  exact (if_neg fun e => mode' (beq_iff_eq.1 e)).trans placed

/-! ### The pump stops, fails and is restarted (R292, R295) -/

theorem State.pumpStop_atTime (s : State) (t : Time) : (s.atTime t).pumpStop =
    ((s.atTime t).setFlag R.PNL_STAT F.PNL_STAT_PUMPON false).setPanel { s.pnl with pumpReady := false } := rfl

theorem exec_pumpIdleStop_of_idle {s : State} (works : s.islandOn 14 = true)
    (on : s.flag R.PNL_STAT F.PNL_STAT_PUMPON = true) (empty : s.pnl.queue = []) (idle : s.pnl.cur = none) :
    exec .pumpIdleStop s = .next (s.atTime (s.pnl.idleAt + 100000000)).pumpStop :=
  congrArg _ (if_pos (by simp [works, State.pumpIdle, on, empty, idle]))

theorem exec_pumpIdleStop_of_busy {s : State}
    (busy : s.flag R.PNL_STAT F.PNL_STAT_PUMPON = false ∨ s.pnl.queue ≠ []) : exec .pumpIdleStop s = .next s := by
  refine congrArg _ (if_neg fun both => ?_)
  simp only [State.pumpIdle, Bool.and_eq_true] at both
  obtain ⟨-, ⟨on, empty⟩, -⟩ := both
  rcases busy with off | left
  · exact Bool.noConfusion (off.symm.trans on)
  · exact left (List.isEmpty_iff.1 empty)

theorem exec_pumpFault_of_off {s : State} {v x : BitVec 16} (works : s.islandOn 14 = true)
    (on : s.flag R.PNL_STAT F.PNL_STAT_PUMPON = true) (sane : s.flag R.PNL_STAT F.PNL_STAT_PUMPERR = false)
    (off : s.pumpOff v x = true) : exec (.pumpFault v x) s = .next (s.pumpFaulted v x) :=
  congrArg _ (if_pos (by simp [works, on, sane, off]))

theorem exec_pumpFault_of_set {s : State} {v x : BitVec 16} (near : s.pumpOff v x = false) :
    exec (.pumpFault v x) s = .next s :=
  congrArg _ (if_neg (by simp [near]))

theorem State.abandonRow_of_idle {s : State} (idle : s.pnl.cur = none) : s.abandonRow = s := by
  rw [State.abandonRow, idle]

/-- The row being written joins the rows to be written again, and the journal header follows. -/
theorem State.abandonRow_of_cur {s : State} {w : RowWrite} (cur : s.pnl.cur = some w) : ∃ u, s.PanelOnly u ∧
    u.pnl = { s.pnl with cur := none, queue := u.pnl.queue, replay := s.pnl.replay ||| BitVec.ofNat 64 (2 ^ w.row) } ∧
      s.abandonRow = u.journalHeader := by
  rw [State.abandonRow, cur]
  refine ⟨_, ?_, ?_, rfl⟩
  · exact .trans (.trans (.setFld _ _ _ _) (.setFld _ _ _ _)) (.setPanel _ _)
  · rfl

/-- What abandoning the row being written changes in the panel beside its registers. -/
theorem State.abandonRow_pnl (s : State) : ∃ queue replay heads, s.abandonRow.pnl =
    { s.pnl with cur := none, queue := queue, replay := replay, jHead := heads } ∧
      ∀ w, s.pnl.cur = some w → replay = s.pnl.replay ||| BitVec.ofNat 64 (2 ^ w.row) := by
  cases cur : s.pnl.cur with
  | none =>
    rw [State.abandonRow_of_idle cur]
    exact ⟨s.pnl.queue, s.pnl.replay, s.pnl.jHead, by rw [← cur], fun w none_ => by cases none_⟩
  | some w =>
    obtain ⟨u, -, pnl, eq⟩ := State.abandonRow_of_cur cur
    obtain ⟨heads, header⟩ := u.journalHeader_pnl
    refine ⟨u.pnl.queue, s.pnl.replay ||| BitVec.ofNat 64 (2 ^ w.row), heads, ?_, fun _ same => by cases same; rfl⟩
    rw [eq, header]
    exact congrArg (fun p : Panel => { p with jHead := heads }) pnl

theorem State.abandonRow_panelOnly (s : State) : s.PanelOnly s.abandonRow := by
  cases cur : s.pnl.cur with
  | none =>
    rw [State.abandonRow_of_idle cur]
    exact .refl s
  | some w =>
    obtain ⟨u, only, -, eq⟩ := State.abandonRow_of_cur cur
    rw [eq]
    exact only.trans u.journalHeader_panelOnly

/-- The pump is off after a fault, `n` faults in a row having come. -/
def State.pumpDown (s : State) (v x : BitVec 16) : State :=
  let u := (s.notePump v x).abandonRow.pumpStop
  u.setPanel { u.pnl with faults := s.pnl.faults + 1, restartDue := decide (s.pnl.faults + 1 < 3), faultAt := s.now }

theorem State.pumpFaulted_eq (s : State) (v x : BitVec 16) : s.pumpFaulted v x =
    ((s.pumpDown v x).setFlag R.PNL_STAT F.PNL_STAT_PUMPERR (decide (3 ≤ s.pnl.faults + 1))).raise 0x5B
      (s.pnl.faults + 1) (v.toNat + 65536 * x.toNat) := by
  obtain ⟨_, _, _, pnl, -⟩ := (s.notePump v x).abandonRow_pnl
  have faults : (s.notePump v x).abandonRow.pnl.faults = s.pnl.faults := by rw [pnl]; rfl
  have now : (s.notePump v x).abandonRow.now = s.now := (s.notePump v x).abandonRow_panelOnly.now
  unfold State.pumpDown
  rw [← faults, ← now]
  rfl

/-- What a pump fault leaves in the panel beside its registers. -/
theorem State.pumpDown_pnl (s : State) (v x : BitVec 16) : ∃ queue replay heads, (s.pumpDown v x).pnl = { s.pnl with
    cur := none, queue := queue, replay := replay, jHead := heads, pumpReady := false, faults := s.pnl.faults + 1,
    restartDue := decide (s.pnl.faults + 1 < 3), faultAt := s.now } ∧
      ∀ w, s.pnl.cur = some w → replay = s.pnl.replay ||| BitVec.ofNat 64 (2 ^ w.row) := by
  obtain ⟨queue, replay, heads, pnl, left⟩ := (s.notePump v x).abandonRow_pnl
  exact ⟨queue, replay, heads, congrArg (fun p : Panel => { p with
    pumpReady := false, faults := s.pnl.faults + 1, restartDue := decide (s.pnl.faults + 1 < 3), faultAt := s.now }) pnl,
    left⟩

theorem State.pumpDown_panelOnly (s : State) (v x : BitVec 16) : s.PanelOnly (s.pumpDown v x) :=
  .trans (.trans (.trans (.trans (.trans (.setFld _ _ _ _) (.setFld _ _ _ _)) (State.abandonRow_panelOnly _))
    (.setFld _ _ _ _)) (.setPanel _ _)) (.setPanel _ _)

section
variable {s : State} (sound : s.sound = true) (v x : BitVec 16)
include sound

theorem State.pumpDown_sound : (s.pumpDown v x).sound = true :=
  State.sound_setPanel ((State.pumpStop_keeps (State.abandonRow_keeps (State.notePump_keeps (.refl s)))).sound sound) rfl

theorem State.pumpDown_PUMPON : (s.pumpDown v x).flag R.PNL_STAT F.PNL_STAT_PUMPON = false := by
  have abandoned := (State.abandonRow_keeps (State.notePump_keeps (vrst := v) (vsel := x) (.refl s))).sound sound
  exact State.flag_setFlag_same abandoned (by decide) (by decide)

theorem State.pumpFaulted_PUMPON : (s.pumpFaulted v x).flag R.PNL_STAT F.PNL_STAT_PUMPON = false := by
  rw [State.pumpFaulted_eq, State.flag_raise]
  exact (congrArg (· != 0) (State.fld_setFld_ne (State.pumpDown_sound sound v x) (by decide) (by decide))).trans
    (State.pumpDown_PUMPON sound v x)

theorem State.pumpFaulted_PUMPERR :
    (s.pumpFaulted v x).flag R.PNL_STAT F.PNL_STAT_PUMPERR = decide (3 ≤ s.pnl.faults + 1) := by
  rw [State.pumpFaulted_eq, State.flag_raise]
  exact State.flag_setFlag_same (State.pumpDown_sound sound v x) (by decide) (by decide)

end

theorem State.pumpFaulted_triggers (s : State) (v x : BitVec 16) : (s.pumpFaulted v x).mor.triggers =
    insTrig ⟨s.now, 0x5B, s.pnl.faults + 1, BitVec.ofNat 64 (v.toNat + 65536 * x.toNat), false, none, none, none⟩
      s.mor.triggers := by
  have down := s.pumpDown_panelOnly v x
  rw [State.pumpFaulted_eq, ← down.now, ← down.mor]
  rfl

theorem exec_pumpRestart_of_none {s : State} (none_ : s.pnl.restartDue = false) : exec .pumpRestart s = .next s :=
  congrArg _ (if_neg (by simp [none_]))

theorem State.setFlag_setPanel (s : State) (x : Panel) (a : Nat) (f : Fld) (b : Bool) :
    (s.setPanel x).setFlag a f b = (s.setFlag a f b).setPanel x := rfl

theorem State.setPanel_setPanel (s : State) (x y : Panel) : (s.setPanel x).setPanel y = s.setPanel y := rfl

theorem State.pumpStart_setPanel (s : State) (x : Panel) : (s.setPanel x).pumpStart =
    (s.setFlag R.PNL_STAT F.PNL_STAT_PUMPON true).setPanel { x with pumpReady := false, idleAt := s.now } := by
  rw [State.pumpStart, State.setFlag_setPanel, State.setPanel_setPanel]
  rfl

/-- The restart that was due: the pump is started where something is left. -/
def State.pumpAgain (s : State) : State :=
  let u := s.setPanel { s.pnl with restartDue := false }
  if u.pnl.queue.isEmpty then u else u.pumpStart

theorem State.pumpAgain_atTime {s : State} (left : s.pnl.queue ≠ []) (t : Time) : (s.atTime t).pumpAgain =
    ((s.atTime t).setFlag R.PNL_STAT F.PNL_STAT_PUMPON true).setPanel
      { s.pnl with restartDue := false, pumpReady := false, idleAt := (s.atTime t).now } :=
  (if_neg fun empty => left (List.isEmpty_iff.1 empty)).trans (State.pumpStart_setPanel _ _)

theorem exec_pumpRestart_of_due {s : State} (works : s.islandOn 14 = true) (due : s.pnl.restartDue = true) :
    exec .pumpRestart s = .next (s.atTime (s.pnl.faultAt + 1000000000)).pumpAgain :=
  congrArg _ (if_pos (by simp [works, due]))

/-! ### RETRY and the maps (R295, R296) -/

theorem State.powered_of_islandOn {s : State} (works : s.islandOn 14 = true) : s.powered 10 = true :=
  (Bool.and_eq_true_iff.1 works).1

theorem State.panelRetry_of_closed {s : State} (closed : s.lockOpen = false) : s.panelRetry = s.answer .denied :=
  if_pos (by simp [closed])

theorem State.panelRetry_of_open {s : State} (opened : s.lockOpen = true) (on : s.powered 10 = true) : s.panelRetry =
    (let u := s.noteLk.setFlag R.PNL_STAT F.PNL_STAT_PUMPERR false
     ((u.setPanel { u.pnl with faults := 0, restartDue := false }).pumpStart).answer .ok) :=
  (if_neg (by simp [opened])).trans (if_neg (by simp [on]))

theorem State.mapGate_of_closed {s : State} (closed : s.lockOpen = false) : s.mapGate = some .denied :=
  if_pos (by simp [closed])

theorem State.mapGate_of_open {s : State} (opened : s.lockOpen = true) (on : s.powered 10 = true) :
    s.mapGate = if !s.pnl.queue.isEmpty then some .state else none :=
  (if_neg (by simp [opened])).trans (if_neg (by simp [on]))

theorem State.mapCommitOp_of_refused {s : State} {k : Nat} {x : Status} (refused : s.mapGate = some x) :
    s.mapCommitOp k = s.answer x := by
  rw [State.mapCommitOp, refused]

theorem State.mapCommitOp_of_free {s : State} {k : Nat} (free : s.mapGate = none) : s.mapCommitOp k =
    (let u := s.noteLk.setFld R.PNL_MAPSEL F.PNL_MAPSEL_MAP k
     (u.setPanel { u.pnl with
      mapCrc := tabSet (dflt 0) u.pnl.mapCrc k (crc32c (u.mapBytes k))
      mapDirty := u.pnl.mapDirty.filter (fun x => x != k) }).answer .ok) := by
  rw [State.mapCommitOp, free]

/-! ### Segment mode (R286) -/

theorem State.atTime_now_eq_max (s : State) (t : Time) : (s.atTime t).now = max s.now t := by
  rw [State.atTime_now]
  split
  case isTrue later => exact (Nat.max_eq_right (Nat.le_of_lt later)).symm
  case isFalse notLater => exact (Nat.max_eq_left (Nat.le_of_not_lt notLater)).symm

theorem exec_segmentFrame_of_due {s : State} (works : s.islandOn 14 = true) (driven : s.panelBarred = false)
    (mode : s.panelMode = 2) : exec .segmentFrame s = .next (s.atTime s.frameDue).segFrame :=
  congrArg _ (if_pos (by simp [works, driven, mode]))

theorem exec_segmentFrame_of_none {s : State} (none_ : s.panelMode ≠ 2 ∨ s.panelBarred = true) :
    exec .segmentFrame s = .next s := by
  refine congrArg _ (if_neg fun both => ?_)
  simp only [Bool.and_eq_true, Bool.not_eq_true', beq_iff_eq] at both
  obtain ⟨⟨driven, -⟩, mode⟩ := both
  exact none_.elim (· mode) fun barred => Bool.noConfusion (barred.symm.trans driven)

/-- The UPDATEs that wait complete: LASTTAG takes the tag of the last. -/
def State.noteTags (s : State) : State := match s.pnl.segTags.getLast? with
  | some t => s.setFld R.PNL_QST F.PNL_QST_LASTTAG t
  | none => s

/-- The rows of the panel as the target buffer has them. -/
def State.bufRows (s : State) : List (Nat × BitVec 128) := (List.range s.commons).map fun r => (r, s.bufRow r)

theorem State.segFrame_eq (s : State) : s.segFrame = s.noteTags.setPanel { s.noteTags.pnl with
    segTags := [], segFlip := !s.noteTags.pnl.segFlip, frameAt := s.noteTags.now,
    shown := tabSetAll (dflt 0) s.noteTags.pnl.shown s.noteTags.bufRows } := rfl

theorem State.noteTags_panelOnly (s : State) : s.PanelOnly s.noteTags ∧ s.noteTags.pnl = s.pnl := by
  unfold State.noteTags
  split
  · exact ⟨.setFld _ _ _ _, rfl⟩
  · exact ⟨.refl s, rfl⟩

theorem State.noteTags_writesOnly (s : State) : s.WritesOnly (· = R.PNL_QST) s.noteTags := by
  unfold State.noteTags
  split
  · exact .setFld rfl
  · exact .refl s

section
variable {s : State} (sound : s.sound = true)
include sound

theorem State.bufRows_noteTags : s.noteTags.bufRows = s.bufRows := by
  have commons : s.noteTags.commons = s.commons := s.noteTags_writesOnly.fld sound _ (by decide)
  have row (r : Nat) : s.noteTags.bufRow r = s.bufRow r :=
    (s.noteTags_writesOnly.mono fun a at_ => by rw [at_]; decide).bufRow sound r
  simp only [State.bufRows, commons, row]

/-- A frame shows the buffer, inverts the drive and takes the UPDATEs that wait. -/
theorem State.segFrame_pnl : s.segFrame.pnl = { s.pnl with
    segTags := [], segFlip := !s.pnl.segFlip, frameAt := s.now,
    shown := tabSetAll (dflt 0) s.pnl.shown s.bufRows } := by
  obtain ⟨only, pnl⟩ := s.noteTags_panelOnly
  rw [State.segFrame_eq, State.setPanel_pnl, pnl, only.now, State.bufRows_noteTags sound]

theorem State.segFrame_LASTTAG {y : Nat} (last : s.pnl.segTags.getLast? = some y) :
    s.segFrame.fld R.PNL_QST F.PNL_QST_LASTTAG = y % 64 := by
  have noted : s.noteTags = s.setFld R.PNL_QST F.PNL_QST_LASTTAG y := by rw [State.noteTags, last]
  rw [State.segFrame_eq, State.fld_setPanel, noted]
  exact State.fld_setFld_same sound (by decide)

end

/-! ### The panel sensor (R291, R292) -/

/-- TFAULT is set, with E5C where it was not. -/
def State.noteTempFault (s : State) (ohm10 : BitVec 16) : State :=
  if s.flag R.PNL_STAT F.PNL_STAT_TFAULT then s
  else (s.setFlag R.PNL_STAT F.PNL_STAT_TFAULT true).raise 0x5C 0 (ohm10.toNat / 10)

section
variable {s : State} (sound : s.sound = true) (ohm10 : BitVec 16)
include sound

theorem State.noteTempFault_sound : (s.noteTempFault ohm10).sound = true := by
  unfold State.noteTempFault
  split
  · exact sound
  · exact (State.raise_keeps (.refl _)).sound (State.sound_setFld sound)

theorem State.noteTempFault_TFAULT : (s.noteTempFault ohm10).flag R.PNL_STAT F.PNL_STAT_TFAULT = true := by
  unfold State.noteTempFault
  split
  case isTrue set => exact set
  case isFalse => exact State.flag_setFlag_same sound (by decide) (by decide)

theorem State.noteTempFault_TEMP (f : Fld) : (s.noteTempFault ohm10).fld R.PNL_TEMP f = s.fld R.PNL_TEMP f := by
  unfold State.noteTempFault
  split
  · rfl
  · exact State.fld_setFld_other sound (by decide)

end

theorem State.noteTempFault_tempAt (s : State) (ohm10 : BitVec 16) : (s.noteTempFault ohm10).pnl.tempAt = s.pnl.tempAt := by
  unfold State.noteTempFault
  split
  · rfl
  · rfl

/-- No good reading is left: none came, or 60 s have passed since the last. -/
def State.tempStale (s : State) : Bool := match s.pnl.tempAt with
  | some t0 => decide (t0 + 60 * sec < s.now)
  | none => true

/-- 20 °C stands for the reading where no good one is left. -/
def State.staleTemp (s : State) : State := if s.tempStale then s.setFld R.PNL_TEMP F.PNL_TEMP_T 2000 else s

theorem State.staleTemp_writesOnly (s : State) : s.WritesOnly (· = R.PNL_TEMP) s.staleTemp := by
  unfold State.staleTemp
  split
  · exact .setFld rfl
  · exact .refl s

section
variable {s : State} (sound : s.sound = true)
include sound

theorem State.staleTemp_RPT : s.staleTemp.fld R.PNL_TEMP F.PNL_TEMP_RPT = s.fld R.PNL_TEMP F.PNL_TEMP_RPT := by
  unfold State.staleTemp
  split
  · exact State.fld_setFld_ne sound (by decide) (by decide)
  · rfl

theorem State.staleTemp_T_of_none (never : s.pnl.tempAt = none) :
    s.staleTemp.fld R.PNL_TEMP F.PNL_TEMP_T = 2000 := by
  have stale : s.tempStale = true := by rw [State.tempStale, never]
  rw [State.staleTemp, if_pos stale, State.fld_setFld_same sound (by decide)]
  rfl

end

theorem State.panelTemp_of_bad {s : State} {ohm10 centi : BitVec 16} (bad : ohm10.toNat < 7000 ∨ 13000 < ohm10.toNat) :
    s.panelTemp ohm10 centi = ((s.setFld R.PNL_TEMP F.PNL_TEMP_RPT ohm10.toNat).noteTempFault ohm10).staleTemp :=
  if_neg (by omega)

theorem exec_panelTempRead {s : State} (ohm10 centi : BitVec 16) (t : Time) (works : s.islandOn 14 = true) :
    exec (.panelTempRead ohm10 centi t) s = .next ((s.atTime t).panelTemp ohm10 centi) :=
  congrArg _ (if_pos works)

end Sys2Proof.Machine
end

section
/-! SUPPORT. The statements of the panel. -/

open Sys2Proof Sys2Proof.Machine

namespace Sys2Proof.Proofs

theorem panelRequests : Clauses.PanelRequests := by
  unfold Clauses.PanelRequests
  intro s tg pix r r0 r1 h c0 c1 pic tag
  dsimp only
  have bad_iff := s.badRect_iff r0.toNat r1.toNat c0.toNat c1.toNat
  refine ⟨exec_panel_of_other, fun own barred => ?barred, fun own driven => ?driven⟩
  case barred =>
    subst own
    exact exec_panel_of_barred barred
  subst own
  refine ⟨fun outside => congrArg _ (State.drawOp_outside driven outside),
    fun row column => congrArg _ (State.drawOp_inside driven row column),
    fun bad => congrArg _ (State.updateOp_bad driven (bad_iff.2 bad)),
    fun refused => congrArg _ (refused.elim (fun bad => State.copyOp_bad driven (bad_iff.2 bad))
      (State.copyOp_missing driven)), fun inside sound e found => ?copy,
    fun inside mode => congrArg _ (State.updateOp_segment driven (Bool.eq_false_iff.2 (inside ∘ bad_iff.1)) mode),
    fun inside mode disjoint => ⟨fun full => ?full, fun free => ?free⟩, fun inside mode shared => ?merged,
    fun mode sound empty => ?clear⟩
  case copy =>
    have order : r0.toNat ≤ r1.toNat := Nat.le_of_not_lt fun bad => inside (.inl bad)
    refine ⟨_, congrArg Host.Outcome.next (State.copyOp_found driven (Bool.eq_false_iff.2 (inside ∘ bad_iff.1)) found), rfl, rfl,
      fun k _ => ?_⟩
    refine (State.bufRow_foldS (f := copyRow e.2 (colMask c0.toNat c1.toNat)) (nodup_rowsOf _) sound k).trans ?_
    simp only [mem_rowsOf_rowSet order r1.isLt]
    rfl
  case full =>
    refine congrArg _ ((State.updateOp_matrix driven (Bool.eq_false_iff.2 (inside ∘ bad_iff.1)) mode).trans ?_)
    rw [State.placeReq_full disjoint full]
  case free =>
    refine ⟨_, congrArg Host.Outcome.next ((State.updateOp_matrix driven (Bool.eq_false_iff.2 (inside ∘ bad_iff.1)) mode).trans
      (by rw [State.placeReq_free disjoint free])), rfl, State.requeued_queue _⟩
  case merged =>
    refine ⟨_, congrArg Host.Outcome.next ((State.updateOp_matrix driven (Bool.eq_false_iff.2 (inside ∘ bad_iff.1)) mode).trans
      (by rw [State.placeReq_shared shared])), rfl, ?_⟩
    rw [State.answer_pnl, State.requeued_queue]
    dsimp only [State.setPanel_pnl]
    rw [State.strayRow_queue]
    exact ⟨mergeInto_length _ _ _, _, mem_mergeInto shared, rfl, State.mergedReq_rows s _⟩
  case clear =>
    have cleared := s.clearedBuf_writesOnly.sound sound
    have placed := State.sound_setPanel (x := { s.clearedBuf.pnl with queue := [s.clearReq tag.toNat] }) cleared rfl
    have requeued := (State.requeued_below _).sound placed
    refine ⟨_, congrArg Host.Outcome.next ((State.panelClearOp_driven driven tag.toNat).trans
      (by rw [State.clearPanel_empty sound mode empty])), rfl, ?_, fun k row => ?_, State.requeued_queue _⟩
    · exact State.flag_setFlag_same requeued (by decide) (by decide)
    · have below := (State.requeued_below (s.clearedBuf.setPanel
        { s.clearedBuf.pnl with queue := [s.clearReq tag.toNat] })).trans
        (State.WritesOnly.setFlag (a := R.PNL_STAT) (f := F.PNL_STAT_JLOST) (b := false) (by decide))
      rw [State.bufRow_answer, below.bufRow placed k, State.bufRow_setPanel, State.bufRow_clearedBuf sound row]

theorem panelRows : Clauses.PanelRows := by
  unfold Clauses.PanelRows
  intro s q w l r k v x works sound
  dsimp only
  let late := s.atTime (w.since + s.phaseLength w)
  have lateSound : late.sound = true := (State.atTime_keeps (.refl s)).sound sound
  have ends (cur : s.pnl.cur = some w) (last : w.phase = 3) : exec .rowPhaseEnd s = .next (late.endRow w) :=
    (exec_rowPhaseEnd works).trans (congrArg _ (State.phaseEnd_of_last cur last))
  refine ⟨fun clean => congrArg _ (if_neg (by simp [clean])),
    fun dirty => congrArg _ ((if_pos (by simp [works, dirty])).trans s.journalBuffer_eq),
    fun idle queue may afresh rows on wait => ?ready, fun cur early => ?early, fun idle => ?idle,
    fun cur last row own queue => ⟨fun more => ?more, fun last_ only => ?last⟩⟩
  case ready =>
    have up := (s.pumpUp_writesOnly v x).sound sound
    have inside : r < 64 := lt_of_mem_rowsOf (x := q.left) (by rw [rows]; exact List.mem_cons_self)
    have marked := (s.pumpUp v x).beginRow_writesOnly q r
    have pump : ¬ rowReg r R.PNL_PUMP := by
      simp only [rowReg, R.PNL_PUMP, R.PNL_STAT, R.PNL_JROW]
      omega
    have record : R.PNL_JROW r ≠ R.PNL_PUMP := by simp only [R.PNL_PUMP, R.PNL_JROW]; omega
    have data : (s.pumpUp v x).bufRow r = s.bufRow r :=
      ((s.pumpUp_writesOnly v x).mono fun a at_ => by rw [at_]; decide).bufRow sound r
    have cur := State.beginRow_cur up q r inside
    refine ⟨_, exec_pumpReady_of_idle v x sound works idle queue may afresh rows on wait,
      (marked.fld up _ pump).trans (State.pumpUp_VRST v x sound), (marked.fld up _ pump).trans (State.pumpUp_VSEL v x sound),
      State.beginRow_STATE up q r, ?_, State.beginRow_RUN up q r, State.beginRow_PHASE up q r,
      State.beginRow_ROW up q r inside, fun y written => ?_, ?_⟩
    · rw [State.beginRow_POL up q r, (s.pumpUp_writesOnly v x).flag sound _ record]
    · rw [cur] at written
      rw [← Option.some.inj written]
      refine ⟨rfl, rfl, ?_, data, rfl⟩
      have none_ : (s.pumpUp v x).pnl.replay = 0 := afresh
      simp [none_]
    · rw [cur]
      exact Option.some_ne_none _
  case early => exact (exec_rowPhaseEnd works).trans (congrArg _ (State.phaseEnd_of_early cur early))
  case idle => exact (exec_rowPhaseEnd works).trans (congrArg _ (State.phaseEnd_of_idle idle))
  case more =>
    have done := late.rowDone_pnl w (q.wrote w.row :: l)
    have head := congrArg Panel.queue done
    have record := State.requeued_JROW (State.rowDone_sound lateSound w _) head (q.not_mem_left_wrote row)
    exact ⟨_, (ends cur last).trans (congrArg _ (State.endRow_of_more queue own more)),
      ((State.rowDone_panelOnly _ w _).trans (State.requeued_panelOnly _)).now,
      (State.requeued_shown _).trans (congrArg Panel.shown done), (State.requeued_queue _).trans head,
      (congrArg (fldOf _) record).trans (State.rowDone_STATE lateSound w _)⟩
  case last =>
    have doneSound := State.rowDone_sound lateSound w [q.wrote w.row]
    have endSound := State.endRequest_sound doneSound (q.wrote w.row)
    have header := State.journalHeader_writesOnly ((late.rowDone w [q.wrote w.row]).endRequest (q.wrote w.row))
    obtain ⟨_, ended⟩ := (late.rowDone w [q.wrote w.row]).endRequest_pnl (q.wrote w.row)
    obtain ⟨_, eq⟩ := ((late.rowDone w [q.wrote w.row]).endRequest (q.wrote w.row)).journalHeader_pnl
    rw [late.rowDone_pnl] at ended
    rw [ended] at eq
    have stat : ¬ headerReg R.PNL_STAT := fun reg => absurd reg.1 (by decide)
    refine ⟨_, (ends cur last).trans (congrArg _ (State.endRow_of_last queue own only last_)), ?_,
      congrArg Panel.shown eq, congrArg Panel.queue eq, congrArg Panel.cur eq,
      (State.fld_journalHeader_LASTTAG endSound).trans (State.endRequest_LASTTAG doneSound _), ?_,
      (header.flag endSound _ stat).trans ((State.endRequest_STAT doneSound _ _).trans (State.rowDone_RUN lateSound w _)),
      fun i _ listed => ?_⟩
    · exact (((late.rowDone_panelOnly w _).trans (State.endRequest_panelOnly _ _)).trans
        (State.journalHeader_panelOnly _)).now
    · rw [State.fld_journalHeader_COUNT endSound, ended]
      rfl
    · have record : ¬ headerReg (R.PNL_JROW i) := by
        simp only [headerReg, R.PNL_QST, R.PNL_PEND, R.PNL_JROW]
        omega
      rw [header.fld endSound _ record]
      exact State.endRequest_STATE doneSound (q.wrote w.row) (mem_rowsOf.2 listed)

theorem panelPumpAndMaps : Clauses.PanelPumpAndMaps := by
  unfold Clauses.PanelPumpAndMaps
  intro s₀ p v x m t works sound
  dsimp only
  let s := s₀.atTime t
  have sSound : s.sound = true := (State.atTime_keeps (.refl s₀)).sound sound
  have on : s.powered 10 = true := State.powered_of_islandOn works
  refine ⟨fun on empty idle => ?idle, exec_pumpIdleStop_of_busy, fun on sane off => ?fault, exec_pumpFault_of_set,
    exec_pumpRestart_of_none, fun due left => ?restart, fun closed => ⟨?retryClosed, ?commitClosed⟩, fun opened => ?retry,
    fun opened left => ?commitBusy, fun opened empty => ?commit, ⟨fun driven mode => ?frame, exec_segmentFrame_of_none⟩,
    fun low high => ?good, fun bad => ?bad⟩
  case idle =>
    exact (exec_pumpIdleStop_of_idle works on empty idle).trans (congrArg Host.Outcome.next (State.pumpStop_atTime s₀ _))
  case fault =>
    obtain ⟨_, replay, _, down, left⟩ := s₀.pumpDown_pnl v x
    have pnl : (s₀.pumpFaulted v x).pnl = (s₀.pumpDown v x).pnl := by rw [State.pumpFaulted_eq]; rfl
    rw [down] at pnl
    refine ⟨_, exec_pumpFault_of_off works on sane off, congrArg Panel.cur pnl, congrArg Panel.faults pnl,
      State.pumpFaulted_PUMPON sound v x, State.pumpFaulted_PUMPERR sound v x, congrArg Panel.restartDue pnl,
      congrArg Panel.faultAt pnl, fun w written inside => ?_, s₀.pumpFaulted_triggers v x⟩
    rw [pnl]
    dsimp only
    rw [left w written, BitVec.getLsbD_or, getLsbD_row inside, decide_eq_true rfl, Bool.or_true]
  case restart =>
    exact (exec_pumpRestart_of_due works due).trans (congrArg Host.Outcome.next (State.pumpAgain_atTime left _))
  case retryClosed => exact congrArg Host.Outcome.next (State.panelRetry_of_closed closed)
  case commitClosed => exact congrArg Host.Outcome.next (State.mapCommitOp_of_refused (State.mapGate_of_closed closed))
  case retry =>
    exact congrArg Host.Outcome.next ((State.panelRetry_of_open opened on).trans
      (congrArg (State.answer · .ok) (State.pumpStart_setPanel _ _)))
  case commitBusy =>
    have gate : s.mapGate = some .state :=
      (State.mapGate_of_open opened on).trans (if_pos (by simpa using left))
    exact congrArg Host.Outcome.next (State.mapCommitOp_of_refused gate)
  case commit =>
    have gate : s.mapGate = none := (State.mapGate_of_open opened on).trans (if_neg (by simpa using empty))
    exact congrArg Host.Outcome.next (State.mapCommitOp_of_free gate)
  case frame =>
    let due := s₀.atTime s₀.frameDue
    have dueSound : due.sound = true := (State.atTime_keeps (.refl s₀)).sound sound
    have pnl := State.segFrame_pnl dueSound
    exact ⟨_, exec_segmentFrame_of_due works driven mode, congrArg Panel.segTags pnl, congrArg Panel.segFlip pnl,
      (congrArg Panel.frameAt pnl).trans (State.atTime_now_eq_max s₀ _), congrArg Panel.shown pnl,
      fun y last => State.segFrame_LASTTAG dueSound last⟩
  case good =>
    exact (exec_panelTempRead v x t works).trans (congrArg Host.Outcome.next (if_pos ⟨low, high⟩))
  case bad =>
    have read := State.sound_setFld sSound (a := R.PNL_TEMP) (v := v.toNat) (f := F.PNL_TEMP_RPT)
    have noted := State.noteTempFault_sound read v
    have fault := State.noteTempFault_TFAULT read v
    have rpt := (State.noteTempFault_TEMP read v F.PNL_TEMP_RPT).trans
      ((State.fld_setFld_same sSound (by decide)).trans (Nat.mod_eq_of_lt v.isLt))
    have tempAt : _ = s.pnl.tempAt := (s.setFld R.PNL_TEMP F.PNL_TEMP_RPT v.toNat).noteTempFault_tempAt v
    refine ⟨_, (exec_panelTempRead v x t works).trans (congrArg Host.Outcome.next (State.panelTemp_of_bad bad)),
      ?_, ?_, fun never => ?_⟩
    · exact ((State.staleTemp_writesOnly _).flag noted _ (by decide)).trans fault
    · exact (State.staleTemp_RPT noted).trans rpt
    · exact State.staleTemp_T_of_none noted (tempAt.trans never)

/-- Settles O51: the three families of clauses. That journal writes are not held up by PD8 and that the share test covers
every row is log 46, the layout of the data of E5B log 35, and that SEL ends with the longest pulse of its row log 81. -/
theorem panel : Obligations.Panel := ⟨panelRequests, panelRows, panelPumpAndMaps⟩

end Sys2Proof.Proofs
end

section
/-! SUPPORT. The rules of the digital inputs, their counters and frequencies and their broken wires, one per answer of a
command (R234, R236-R239), and of an edit of the digital configuration (R256, R257). -/

namespace Sys2Proof.Machine

/-! ### The filtered state (R234, R237) -/

theorem State.filterPass_of_off {s : State} {n : Nat} {lvl : Bool} (off : s.dioOn = false) : s.filterPass n lvl = s :=
  if_pos (by rw [off]; rfl)

/-- The level that passes, OFF on an unused input, is the raw state, and with a whole wire the filtered one. -/
theorem State.filterPass_of_on {s : State} {n : Nat} {lvl on : Bool} (works : s.dioOn = true)
    (level : (lvl && s.fld (R.DIO_DICFG n) F.DIO_DICFG_TYPE != 0) = on) : s.filterPass n lvl =
      ((s.setDio { s.dio with filt := BitVec.ofNat 48 (setBitN s.dio.filt.toNat n on) }).setAbit (R.DIO_DIRAW 0) n
        on).putDist n (on && !(s.abit (R.DIO_DIWB 0) n)) := by
  subst level
  exact if_neg (by simp [works])

/-- CI5 takes no notice of a level while it does not work, nor of one that it holds already. -/
theorem State.receiveDi_of_unheard {s : State} {n : Nat} {b : Bool} (h : s.almOn = false ∨ s.alm.di.getLsbD n = b) :
    s.receiveDi n b = s :=
  if_pos (by simpa using h)

/-- CI5 takes the change of a level, with its instant. -/
theorem State.receiveDi_of_change {s : State} {n : Nat} {b : Bool} (works : s.almOn = true)
    (change : s.alm.di.getLsbD n = !b) : s.receiveDi n b =
      s.setAlm { s.alm with di := BitVec.ofNat 48 (setBitN s.alm.di.toNat n b)
                            diAt := tabSet (dflt 0) s.alm.diAt n s.now
                            edges := BitVec.ofNat 48 (setBitN s.alm.edges.toNat n b)
                            resets := BitVec.ofNat 48 (setBitN s.alm.resets.toNat n b) } :=
  if_neg (by simp [works, change])

/-! ### Counters and frequencies (R238, R239) -/

theorem edgeSelected_iff {edge : Nat} {rising : Bool} :
    edgeSelected edge rising = true ↔ edge = 2 ∨ edge = if rising then 0 else 1 := by
  simp [edgeSelected]

theorem exec_diCountEdge_of_selected {s : State} {k : Fin 16} {rising : Bool} (works : s.dioOn = true)
    (selected : edgeSelected (s.fld (R.DIO_DICFG k) F.DIO_DICFG_EDGE) rising = true) :
    exec (.diCountEdge k rising) s = .next (s.wr (R.DIO_CNT k) (s.rd (R.DIO_CNT k) + 1)) :=
  congrArg _ (if_pos (by rw [works, selected]; rfl))

theorem exec_diCountEdge_of_other {s : State} {k : Fin 16} {rising : Bool}
    (other : ¬ edgeSelected (s.fld (R.DIO_DICFG k) F.DIO_DICFG_EDGE) rising = true) :
    exec (.diCountEdge k rising) s = .next s :=
  congrArg _ (if_neg fun counts => other (Bool.and_eq_true_iff.1 counts).2)

theorem State.counterReset_of_none {s : State} {n : Nat} (high : 16 ≤ n) : s.counterReset n = s.answer .address :=
  if_pos high

theorem State.counterReset_of_counter {s : State} {n : Nat} (low : n < 16) :
    s.counterReset n = (s.wr (R.DIO_CNT n) 0).answer .ok :=
  if_neg (Nat.not_le.2 low)

theorem State.toMirror_of_powered {s : State} {l : List Nat} (on : s.powered 8 = true) :
    s.toMirror l = s.setMirror (tabSetAll resetWord s.mirror (l.map fun a => (a, s.rd a))) :=
  if_pos on

theorem State.mirrorCounters_of_powered {s : State} (on : s.powered 8 = true) : s.mirrorCounters = s.setMirror
    (tabSetAll resetWord s.mirror ((List.range 16).map fun n => (R.DIO_CNT n, s.rd (R.DIO_CNT n)))) := by
  rw [State.mirrorCounters, State.toMirror_of_powered on, List.map_map]
  rfl

theorem exec_freqGateEnd_of_on {s : State} {f : Fin 4} {k span : Nat} (works : s.dioOn = true) :
    exec (.freqGateEnd f k span) s = .next (s.wr (R.DIO_FREQ f) (BitVec.ofNat 32 (frequencyMhz k span))) :=
  congrArg _ (if_pos works)

/-! ### Broken wires (R236) -/

theorem State.monitored_of_used {s : State} {n : Nat} (works : s.dioOn = true)
    (mon : s.flag (R.DIO_DICFG n) F.DIO_DICFG_LMON = true) (used : 2 ≤ s.fld (R.DIO_DICFG n) F.DIO_DICFG_TYPE) :
    s.monitored n = true := by
  rw [State.monitored, works, mon, decide_eq_true used]
  rfl

section
variable {s : State} {n : Fin 48} {i : BitVec 16} {t : Time}

theorem exec_wireBreakSet_of_low (low : i.toNat < 300) (works : (s.atTime t).dioOn = true)
    (mon : (s.atTime t).monitored n = true) (whole : (s.atTime t).abit (R.DIO_DIWB 0) n = false) :
    exec (.wireBreakSet n i t) s = .next ((s.atTime t).wireBreak n i true) :=
  congrArg _ (if_pos (by simp [breakBelow, low, works, mon, whole]))

theorem exec_wireBreakSet_of_high (high : 300 ≤ i.toNat) : exec (.wireBreakSet n i t) s = .next (s.atTime t) :=
  congrArg _ (if_neg (by simp [breakBelow, Nat.not_lt.2 high]))

theorem exec_wireBreakClear_of_high (high : 500 ≤ i.toNat) (works : (s.atTime t).dioOn = true)
    (mon : (s.atTime t).monitored n = true) (broken : (s.atTime t).abit (R.DIO_DIWB 0) n = true) :
    exec (.wireBreakClear n i t) s = .next ((s.atTime t).wireBreak n i false) :=
  congrArg _ (if_pos (by simp [wholeFrom, high, works, mon, broken]))

theorem exec_wireBreakClear_of_low (low : i.toNat < 500) : exec (.wireBreakClear n i t) s = .next (s.atTime t) :=
  congrArg _ (if_neg (by simp [wholeFrom, Nat.not_le.2 low]))

end

/-! ### Edits of the digital configuration (R256, R257) -/

section
variable {s : State} {p : Port} {a : Nat} {v : Word} {t : Time}

theorem exec_dioConfigEdit_of_other (other : dioConfigAddr a = false) :
    exec (.dioConfigEdit p a v t) s = .next ((s.atTime t).answer .address) :=
  congrArg _ (if_pos (by rw [other]; rfl))

theorem exec_dioConfigEdit_of_off (own : dioConfigAddr a = true) (off : (s.atTime t).dioOn = false) :
    exec (.dioConfigEdit p a v t) s = .next ((s.atTime t).answer .busy) := by
  change execDioConfigEdit p a v t s = _
  simp [execDioConfigEdit, own, off]

/-- The values that R257 leaves out: EDGE 3 of an input that has a counter, PULSE above 10. -/
theorem dioRange_of_outside
    (h : (R.DIO_DICFG 0 ≤ a ∧ a < R.DIO_DICFG 16 ∧ fldOf F.DIO_DICFG_EDGE v = 3) ∨
      (R.DIO_DOCFG 0 ≤ a ∧ a ≤ R.DIO_DOCFG 47 ∧ 10 < fldOf F.DIO_DOCFG_PULSE v)) : dioRange a v = true := by
  rcases h with ⟨first, last, edge⟩ | ⟨first, last, pulse⟩
  · simp [dioRange, first, last, edge]
  · have noInput : ¬ a < R.DIO_DICFG 16 := by
      simp only [R.DIO_DOCFG, R.DIO_DICFG] at first ⊢
      omega
    simp [dioRange, first, last, pulse, noInput]

theorem State.dioEdit_of_closed (closed : s.lockOpen = false)
    (change : (s.rd a &&& ~~~dioMask a) ||| (v &&& dioMask a) ≠ s.rd a) : s.dioEdit a v = s.answer .denied :=
  if_pos (by simp [closed, change])

theorem State.dioEdit_of_outside (opened : s.lockOpen = true) (outside : dioRange a v = true) :
    s.dioEdit a v = s.answer .range := by
  simp [State.dioEdit, opened, outside]

theorem State.dioEdit_of_valid (opened : s.lockOpen = true) (valid : dioRange a v = false) : s.dioEdit a v =
    (((s.setSup { s.sup with lastLk := s.now }).wr a ((s.rd a &&& ~~~dioMask a) ||| (v &&& dioMask a))).setFlag
      R.DIO_STAT F.DIO_STAT_EDITED true).answer .ok := by
  simp [State.dioEdit, opened, valid, State.noteLk]

end

end Sys2Proof.Machine
end

section
/-! SUPPORT. The statements of the digital inputs and of the configuration of the digital block. -/

open Sys2Proof Sys2Proof.Machine

namespace Sys2Proof.Proofs

theorem digitalInputs : Clauses.DigitalInputs := by
  unfold Clauses.DigitalInputs
  intro s₀ n k f m i b e span t
  dsimp only
  refine ⟨?filter, ?frozen, ⟨?unheard, ?heard⟩, ?edge, ?noEdge, ?reset, ?noCounter, ?mirror, ?frequency, ?wire⟩
  case filter => exact fun works => congrArg Host.Outcome.next (State.filterPass_of_on works rfl)
  case frozen => exact fun off => congrArg Host.Outcome.next (State.filterPass_of_off off)
  case unheard => exact State.receiveDi_of_unheard
  case heard => exact State.receiveDi_of_change
  case edge => exact fun works selected => exec_diCountEdge_of_selected works (edgeSelected_iff.2 selected)
  case noEdge =>
    exact fun notBoth notThis => exec_diCountEdge_of_other fun counts => (edgeSelected_iff.1 counts).elim notBoth notThis
  case reset => exact fun low => congrArg Host.Outcome.next (State.counterReset_of_counter low)
  case noCounter => exact fun high => congrArg Host.Outcome.next (State.counterReset_of_none high)
  case mirror => exact fun on => congrArg Host.Outcome.next (State.mirrorCounters_of_powered on)
  case frequency => exact exec_freqGateEnd_of_on
  case wire =>
    intro works mon used
    have monitored := State.monitored_of_used works mon used
    exact ⟨fun low whole => exec_wireBreakSet_of_low low works monitored whole, exec_wireBreakSet_of_high,
      fun high broken => exec_wireBreakClear_of_high high works monitored broken, exec_wireBreakClear_of_low⟩

theorem digitalConfiguration : Clauses.DigitalConfiguration := by
  unfold Clauses.DigitalConfiguration
  intro s₀ p a v t
  refine ⟨exec_dioConfigEdit_of_other, exec_dioConfigEdit_of_off, ?denied, ?range, ?accepted⟩
  case denied =>
    exact fun own on closed change =>
      (exec_dioConfigEdit_of_on own on).trans (congrArg _ (State.dioEdit_of_closed closed change))
  case range =>
    exact fun own on opened outside => (exec_dioConfigEdit_of_on own on).trans
      (congrArg _ (State.dioEdit_of_outside opened (dioRange_of_outside outside)))
  case accepted =>
    exact fun own on opened valid =>
      (exec_dioConfigEdit_of_on own on).trans (congrArg _ (State.dioEdit_of_valid opened valid))

/-- Settles O46: the two families of clauses. The filtered state after a wire break has cleared, and what Pergola sees of
it, are log 74. -/
theorem digitalInputsAndConfiguration : Obligations.DigitalInputsAndConfiguration :=
  ⟨digitalInputs, digitalConfiguration⟩

end Sys2Proof.Proofs
end

section
/-! SUPPORT. What the operations on an actuator axis write (R260–R281): its record, its status word, and the registers that
show its move. -/

namespace Sys2Proof.Machine

/-! ### Numbers in a register of 32 bits -/

theorem inSpan_iff {x : Int} : inSpan x = true ↔ -2147483648 ≤ x ∧ x ≤ 2147483647 := by
  simp [inSpan]

theorem inSpan_toInt (v : Word) : inSpan v.toInt = true :=
  inSpan_iff.2 ⟨BitVec.le_toInt v, Int.le_of_lt_add_one (BitVec.toInt_lt (x := v))⟩

theorem toInt_ofInt_of_inSpan {x : Int} (fits : inSpan x = true) : (BitVec.ofInt 32 x).toInt = x := by
  obtain ⟨low, high⟩ := inSpan_iff.1 fits
  rw [BitVec.toInt_ofInt]
  exact Int.bmod_eq_of_le (by omega) (by omega)

/-- A signed field reads what was put into it, where it fits. -/
theorem State.sfld_setSfld_same {s : State} (sound : s.sound = true) {r k : Nat} {f : Fld} {x : Int}
    (inside : f.lo + f.width ≤ 32) (width : f.width = k + 1) (low : -(2 ^ k : Nat) ≤ x) (high : x < (2 ^ k : Nat)) :
    (s.setSfld r f x).sfld r f = x := by
  have value : (s.setSfld r f x).fld r f = unsignOf f.width x :=
    (State.fld_setFld_same sound inside).trans (Nat.mod_eq_of_lt (unsignOf_lt _ _))
  rw [State.sfld, value, width, signOf_unsignOf low high]

/-- A signed word reads what was put into it, where it fits. -/
theorem State.sfld_setSfld_word {s : State} (sound : s.sound = true) {r : Nat} {x : Int} (fits : inSpan x = true) :
    (s.setSfld r ⟨0, 32⟩ x).sfld r ⟨0, 32⟩ = x := by
  obtain ⟨low, high⟩ := inSpan_iff.1 fits
  exact State.sfld_setSfld_same (k := 31) sound (by decide) rfl low (Int.lt_add_one_of_le high)

/-- A position lies in the signed 32-bit span. -/
theorem State.inSpan_axPos (s : State) (a : Nat) : inSpan (s.axPos a) = true := by
  have below : s.fld (R.GLS_POS a) F.GLS_POS_POS < 2 ^ 32 := fldOf_lt _ _
  rw [inSpan_iff, State.axPos, State.sfld]
  change -2147483648 ≤ signOf 32 _ ∧ signOf 32 _ ≤ 2147483647
  unfold signOf
  split <;> omega

/-! ### The record of an axis, its status word -/

section
variable {s : State} (sound : s.sound = true) {a b : Nat} {x : AxisSt}
include sound

theorem State.sound_setAxis : (s.setAxis a x).sound = true := (State.setAxis_keeps (.refl s)).sound sound

theorem State.sound_setAx {f : Fld} {v : Nat} : (s.setAx a f v).sound = true := State.sound_setFld sound

theorem State.axis_setAxis_same : (s.setAxis a x).axis a = x := tabGet_tabSet_same (State.sound.axes sound)

theorem State.axis_setAxis_ne (other : b ≠ a) : (s.setAxis a x).axis b = s.axis b :=
  tabGet_tabSet_ne (State.sound.axes sound) other

end

@[simp] theorem State.axis_setFld (s : State) (r : Nat) (f : Fld) (v b : Nat) : (s.setFld r f v).axis b = s.axis b := rfl

@[simp] theorem State.axis_setSfld (s : State) (r : Nat) (f : Fld) (x : Int) (b : Nat) :
    (s.setSfld r f x).axis b = s.axis b := rfl

@[simp] theorem State.axis_setAx (s : State) (a : Nat) (f : Fld) (v b : Nat) : (s.setAx a f v).axis b = s.axis b := rfl

@[simp] theorem State.axis_setAxState (s : State) (a st b : Nat) : (s.setAxState a st).axis b = s.axis b := rfl

@[simp] theorem State.axis_wr (s : State) (r : Nat) (v : Word) (b : Nat) : (s.wr r v).axis b = s.axis b := rfl

@[simp] theorem State.axis_raise (s : State) (k o n b : Nat) : (s.raise k o n).axis b = s.axis b := rfl

@[simp] theorem State.axis_atTime (s : State) (t : Time) (b : Nat) : (s.atTime t).axis b = s.axis b := rfl

@[simp] theorem State.rd_setAxis (s : State) (a : Nat) (x : AxisSt) (r : Nat) : (s.setAxis a x).rd r = s.rd r := rfl

/-! An answer changes nothing of an axis. `(rfl)` makes these equations that `simp` rewrites with; as definitional ones they would
have the kernel unfold the state that is answered. -/

@[simp] theorem State.axis_answer (s : State) (r : Status) (b : Nat) : (s.answer r).axis b = s.axis b := (rfl)

@[simp] theorem State.ax_answer (s : State) (r : Status) (a : Nat) (f : Fld) : (s.answer r).ax a f = s.ax a f := (rfl)

@[simp] theorem State.axState_answer (s : State) (r : Status) (a : Nat) : (s.answer r).axState a = s.axState a := (rfl)

@[simp] theorem State.axPos_answer (s : State) (r : Status) (a : Nat) : (s.answer r).axPos a = s.axPos a := (rfl)

@[simp] theorem State.sfld_answer (s : State) (r : Status) (a : Nat) (f : Fld) : (s.answer r).sfld a f = s.sfld a f := (rfl)

@[simp] theorem State.rd_answered (s : State) (r : Status) (k : Nat) : (s.answer r).rd k = s.rd k := (rfl)

@[simp] theorem State.fld_answered (s : State) (r : Status) (k : Nat) (f : Fld) : (s.answer r).fld k f = s.fld k f := (rfl)

@[simp] theorem State.mor_answered (s : State) (r : Status) : (s.answer r).mor = s.mor := (rfl)

theorem State.rd_setAx_same {s : State} (sound : s.sound = true) {a v : Nat} {f : Fld} :
    (s.setAx a f v).rd (R.GLS_AXST a) = putFld f (s.rd (R.GLS_AXST a)) v := State.rd_setFld_same sound

theorem State.rd_setAxState_same {s : State} (sound : s.sound = true) {a st : Nat} :
    (s.setAxState a st).rd (R.GLS_AXST a) = putFld F.GLS_AXST_STATE (s.rd (R.GLS_AXST a)) st := State.rd_setFld_same sound

/-- Fields of one status word after a field was put in. -/
theorem State.ax_of_word {s : State} {a : Nat} {w : Word} (h : s.rd (R.GLS_AXST a) = w) (f : Fld) :
    s.ax a f = fldOf f w := congrArg (fldOf f) h

@[simp] theorem State.toMirror_rd (s : State) (l : List Nat) (r : Nat) : (s.toMirror l).rd r = s.rd r := by
  unfold State.toMirror
  split <;> rfl

@[simp] theorem State.toMirror_axis (s : State) (l : List Nat) (b : Nat) : (s.toMirror l).axis b = s.axis b := by
  unfold State.toMirror
  split <;> rfl

@[simp] theorem State.toMirror_mor (s : State) (l : List Nat) : (s.toMirror l).mor = s.mor := by
  unfold State.toMirror
  split <;> rfl

/-! ### The frame of an operation on one axis -/

/-- The registers that show what an axis does: its status, its velocity, its target. -/
def axisShows (a r : Nat) : Prop := r = R.GLS_AXST a ∨ r = R.GLS_VEL a ∨ r = R.GLS_TGT a

/-- From `s` to `t`, of the registers only what axis `a` shows has changed, and of the axes only `a`. -/
structure State.ActsOn (a : Nat) (s t : State) : Prop where
  writes : State.WritesOnly (axisShows a) s t
  axes : s.sound = true → ∀ b, b ≠ a → t.axis b = s.axis b

namespace State.ActsOn

variable {a : Nat} {s t u : State}

theorem refl (s : State) : ActsOn a s s := ⟨.refl s, fun _ _ _ => rfl⟩

theorem trans (h : ActsOn a s t) (g : ActsOn a t u) : ActsOn a s u :=
  ⟨h.writes.trans g.writes, fun sound b other => (g.axes (h.writes.sound sound) b other).trans (h.axes sound b other)⟩

theorem setAxis {x : AxisSt} (h : ActsOn a s t) : ActsOn a s (t.setAxis a x) :=
  h.trans ⟨⟨State.setAxis_keeps (.refl t), fun _ _ _ => rfl⟩, fun sound _ other => State.axis_setAxis_ne sound other⟩

theorem setFld {r v : Nat} {f : Fld} (shown : axisShows a r) (h : ActsOn a s t) : ActsOn a s (t.setFld r f v) :=
  h.trans ⟨.setFld shown, fun _ _ _ => rfl⟩

theorem setAx {v : Nat} {f : Fld} (h : ActsOn a s t) : ActsOn a s (t.setAx a f v) := h.setFld (.inl rfl)

theorem setAxState {st : Nat} (h : ActsOn a s t) : ActsOn a s (t.setAxState a st) := h.setAx

theorem raise {k o n : Nat} (h : ActsOn a s t) : ActsOn a s (t.raise k o n) :=
  h.trans ⟨⟨State.raise_keeps (.refl t), fun _ _ _ => rfl⟩, fun _ _ _ => rfl⟩

theorem toMirror {l : List Nat} (h : ActsOn a s t) : ActsOn a s (t.toMirror l) :=
  h.trans ⟨⟨State.toMirror_keeps (.refl t), fun _ r _ => t.toMirror_rd l r⟩, fun _ b _ => t.toMirror_axis l b⟩

theorem sound (h : ActsOn a s t) (sound : s.sound = true) : t.sound = true := h.writes.sound sound

/-- Registers that no axis shows its move in stay: the position, the configuration, the parameters. -/
theorem rd (h : ActsOn a s t) (sound : s.sound = true) {r : Nat} (out : ¬ axisShows a r) : t.rd r = s.rd r :=
  h.writes.regs sound r out

end State.ActsOn

theorem not_axisShows_POS (a b : Nat) : ¬ axisShows a (R.GLS_POS b) := by
  simp only [axisShows, R.GLS_POS, R.GLS_AXST, R.GLS_VEL, R.GLS_TGT]
  omega

theorem not_axisShows_CFG (a b : Nat) : ¬ axisShows a (R.GLS_CFG b) := by
  simp only [axisShows, R.GLS_CFG, R.GLS_AXST, R.GLS_VEL, R.GLS_TGT]
  omega

section
variable {a : Nat} {s t : State} (h : State.ActsOn a s t) (sound : s.sound = true) (b : Nat)
include h sound

theorem State.ActsOn.axPos : t.axPos b = s.axPos b :=
  congrArg (fun w => signOf 32 (fldOf F.GLS_POS_POS w))
    (h.rd sound (not_axisShows_POS a b))

theorem State.ActsOn.cfg : t.rd (R.GLS_CFG b) = s.rd (R.GLS_CFG b) := h.rd sound (not_axisShows_CFG a b)

theorem State.ActsOn.axMode : t.axMode b = s.axMode b := congrArg (fldOf F.GLS_CFG_MODE) (h.cfg sound b)

end

/-! ### The queue and the target -/

theorem State.emptyQueue_actsOn (s : State) (a : Nat) : s.ActsOn a (s.emptyQueue a) := (State.ActsOn.refl s).setAxis.setAx

theorem State.showTgt_actsOn (s : State) (a : Nat) : s.ActsOn a (s.showTgt a) :=
  (State.ActsOn.refl s).setFld (.inr (.inr rfl))

theorem State.noteTgt_actsOn (s : State) (a : Nat) (m : Motion) : s.ActsOn a (s.noteTgt a m) := by
  cases m with
  | none | run => exact .refl s
  | toTarget v => exact (State.ActsOn.refl s).setAxis.trans (State.showTgt_actsOn _ a)

theorem State.setStaged_actsOn (s : State) (a : Nat) (v : Option Int) : s.ActsOn a (s.setStaged a v) :=
  (State.ActsOn.refl s).setAxis.trans (State.showTgt_actsOn _ a)

/-- The target that an axis notes when it takes the motion. -/
def Motion.noted (old : Int) : Motion → Int
  | .toTarget v => v
  | _ => old

section
variable {s : State} (sound : s.sound = true) (a : Nat)

@[simp] theorem State.axis_showTgt (s : State) (a b : Nat) : (s.showTgt a).axis b = s.axis b := rfl

include sound

theorem State.axis_emptyQueue : (s.emptyQueue a).axis a = { s.axis a with queued := none } :=
  State.axis_setAxis_same sound

theorem State.rd_emptyQueue :
    (s.emptyQueue a).rd (R.GLS_AXST a) = putFld F.GLS_AXST_QUEUED (s.rd (R.GLS_AXST a)) 0 :=
  State.rd_setAx_same (State.sound_setAxis sound)

theorem State.rd_showTgt : (s.showTgt a).rd (R.GLS_AXST a) = s.rd (R.GLS_AXST a) :=
  State.rd_setFld_ne sound (by simp [R.GLS_AXST, R.GLS_TGT])

/-- GLS_TGT shows the staged target, or else that of the last move. -/
theorem State.tgt_showTgt (fits : inSpan ((s.axis a).staged.getD (s.axis a).lastTgt) = true) :
    (s.showTgt a).sfld (R.GLS_TGT a) F.GLS_TGT_TGT = (s.axis a).staged.getD (s.axis a).lastTgt :=
  State.sfld_setSfld_word sound fits

theorem State.axis_noteTgt (m : Motion) :
    (s.noteTgt a m).axis a = { s.axis a with lastTgt := m.noted (s.axis a).lastTgt } := by
  cases m with
  | none | run => rfl
  | toTarget v => exact State.axis_setAxis_same sound

theorem State.rd_noteTgt (m : Motion) : (s.noteTgt a m).rd (R.GLS_AXST a) = s.rd (R.GLS_AXST a) := by
  cases m with
  | none | run => rfl
  | toTarget v => exact State.rd_showTgt (State.sound_setAxis sound) a

theorem State.tgt_noteTgt {v : Int} (unstaged : (s.axis a).staged = none) (fits : inSpan v = true) :
    (s.noteTgt a (.toTarget v)).sfld (R.GLS_TGT a) F.GLS_TGT_TGT = v := by
  have record := State.axis_setAxis_same sound (a := a) (x := { s.axis a with lastTgt := v })
  have shown : ((s.setAxis a { s.axis a with lastTgt := v }).axis a).staged.getD
      ((s.setAxis a { s.axis a with lastTgt := v }).axis a).lastTgt = v := by
    rw [record]
    exact congrArg (Option.getD · v) unstaged
  exact (State.tgt_showTgt (State.sound_setAxis sound) a (by rw [shown, fits])).trans shown

theorem State.axis_setStaged (v : Option Int) : (s.setStaged a v).axis a = { s.axis a with staged := v } :=
  State.axis_setAxis_same sound

theorem State.rd_setStaged (v : Option Int) : (s.setStaged a v).rd (R.GLS_AXST a) = s.rd (R.GLS_AXST a) :=
  State.rd_showTgt (State.sound_setAxis sound) a

end

/-! ### Coming to rest (R275, R277) -/

/-- The record of an axis that comes to rest at `t`: no motion and no group, its queue and its currents as they are. -/
def AxisSt.atRest (x : AxisSt) (t : Time) : AxisSt :=
  { x with motion := .none, lead := none, decel := false, edgeSeen := false, fine := 0, acc := 0, frac := 0, done := 0,
           pulses := 0, homed := none, restAt := t }

theorem State.noteHomed_actsOn (s : State) (a st : Nat) : s.ActsOn a (s.noteHomed a st) := by
  unfold State.noteHomed
  split
  · exact .refl s
  · split
    · exact (State.ActsOn.refl s).raise
    · exact .refl s

theorem State.noteHomed_of_none {s : State} {a st : Nat} (none : (s.axis a).homed = none) : s.noteHomed a st = s := by
  rw [State.noteHomed, none]

theorem State.noteHomed_of_some {s : State} {a : Nat} {e : Int} (homed : (s.axis a).homed = some e) :
    s.noteHomed a axStandstill = s.raise 0x53 a (unsignOf 32 e) := by
  rw [State.noteHomed, homed]
  rfl

@[simp] theorem State.noteHomed_axis (s : State) (a st b : Nat) : (s.noteHomed a st).axis b = s.axis b := by
  unfold State.noteHomed
  split
  · rfl
  · split <;> rfl

@[simp] theorem State.noteHomed_rd (s : State) (a st r : Nat) : (s.noteHomed a st).rd r = s.rd r := by
  unfold State.noteHomed
  split
  · rfl
  · split <;> rfl

@[simp] theorem State.noteHomed_now (s : State) (a st : Nat) : (s.noteHomed a st).now = s.now := by
  unfold State.noteHomed
  split
  · rfl
  · split <;> rfl

theorem State.rest_eq (s : State) (a st : Nat) : s.rest a st =
    (((((((s.noteHomed a st).setAxis a ((s.axis a).atRest s.now)).setFld (R.GLS_VEL a) F.GLS_VEL_VEL 0).setAx a
      F.GLS_AXST_GRP 0).setAx a F.GLS_AXST_HPH 0).setAxState a st).toMirror [R.GLS_POS a, R.GLS_AXST a]) := by
  rw [← s.noteHomed_axis a st a, ← s.noteHomed_now a st]
  rfl

theorem State.rest_actsOn (s : State) (a st : Nat) : s.ActsOn a (s.rest a st) := by
  rw [State.rest_eq]
  exact ((((((s.noteHomed_actsOn a st).setAxis).setFld (.inr (.inl rfl))).setAx).setAx).setAxState).toMirror

@[simp] theorem State.mor_rest (s : State) (a st : Nat) : (s.rest a st).mor = (s.noteHomed a st).mor := by
  rw [State.rest_eq, State.toMirror_mor]
  rfl

section
variable {s : State} (sound : s.sound = true) (a st : Nat)
include sound

theorem State.axis_rest : (s.rest a st).axis a = (s.axis a).atRest s.now := by
  rw [State.rest_eq, State.toMirror_axis, State.axis_setAxState, State.axis_setAx, State.axis_setAx, State.axis_setFld]
  exact State.axis_setAxis_same ((s.noteHomed_actsOn a st).sound sound)

theorem State.rd_rest : (s.rest a st).rd (R.GLS_AXST a) = putFld F.GLS_AXST_STATE
    (putFld F.GLS_AXST_HPH (putFld F.GLS_AXST_GRP (s.rd (R.GLS_AXST a)) 0) 0) st := by
  have noted := (s.noteHomed_actsOn a st).setAxis (x := (s.axis a).atRest s.now)
  have slow := noted.setFld (f := F.GLS_VEL_VEL) (v := 0) (.inr (.inl rfl))
  have apart : R.GLS_AXST a ≠ R.GLS_VEL a := by simp [R.GLS_AXST, R.GLS_VEL]
  rw [State.rest_eq, State.toMirror_rd, State.rd_setAxState_same (slow.setAx.setAx.sound sound),
    State.rd_setAx_same (slow.setAx.sound sound), State.rd_setAx_same (slow.sound sound),
    State.rd_setFld_ne (noted.sound sound) apart, State.rd_setAxis, State.noteHomed_rd]

theorem State.vel_rest : (s.rest a st).fld (R.GLS_VEL a) F.GLS_VEL_VEL = 0 := by
  have noted := (s.noteHomed_actsOn a st).setAxis (x := (s.axis a).atRest s.now)
  have slow := noted.setFld (f := F.GLS_VEL_VEL) (v := 0) (.inr (.inl rfl))
  have apart : R.GLS_VEL a ≠ R.GLS_AXST a := by simp [R.GLS_AXST, R.GLS_VEL]
  rw [State.rest_eq, State.fld, State.toMirror_rd, State.setAxState, State.rd_setFld_ne (slow.setAx.setAx.sound sound) apart,
    State.setAx, State.rd_setFld_ne (slow.setAx.sound sound) apart,
    State.setAx, State.rd_setFld_ne (slow.sound sound) apart]
  exact State.fld_setFld_same (noted.sound sound) (by decide)

theorem State.axState_rest (low : st < 8) : (s.rest a st).axState a = st :=
  ((State.ax_of_word (State.rd_rest sound a st) _).trans (fldOf_putFld_same (by decide))).trans (Nat.mod_eq_of_lt low)

end

end Sys2Proof.Machine
end

section
/-! SUPPORT. The rules of the moves of an axis, of JOG, STOP and ESTOP (R267, R268, R270, R271). -/

namespace Sys2Proof.Machine

/-! ### The gate of an axis command (R267, R277) -/

section
variable {s : State} {a : Nat} {accepted : List Nat}

theorem State.axisGate_of_beyond (beyond : 6 ≤ a) : s.axisGate a accepted = some .address := if_pos beyond

theorem State.axisGate_of_refused (exists_ : a < 6) (refused : s.powered 10 = false ∨ s.axState a ∉ accepted) :
    s.axisGate a accepted = some .state := by
  unfold State.axisGate
  rw [if_neg (by omega)]
  rcases refused with off | unlisted
  · rw [if_pos (by simp [off])]
  · split
    · rfl
    · exact if_pos (by simpa using unlisted)

theorem State.axisGate_of_listed (exists_ : a < 6) (on : s.powered 10 = true) (listed : s.axState a ∈ accepted) :
    s.axisGate a accepted = none := by
  unfold State.axisGate
  rw [if_neg (by omega), if_neg (by simp [on]), if_neg (by simpa using listed)]

end

/-- The gate of an axis that exists refuses with STATE only. -/
theorem State.axisGate_of_some {s : State} {a : Nat} {accepted : List Nat} (exists_ : a < 6) {r : Status}
    (gate : s.axisGate a accepted = some r) : r = .state := by
  unfold State.axisGate at gate
  rw [if_neg (by omega)] at gate
  split at gate
  · exact (Option.some.inj gate).symm
  · split at gate
    · exact (Option.some.inj gate).symm
    · exact absurd gate (by simp)

theorem mem_moveStates {st : Nat} : st ∈ moveStates ↔ 1 ≤ st ∧ st ≤ 3 := by
  simp only [moveStates, axStandstill, axMoving, axStopping, List.mem_cons, List.not_mem_nil, or_false]
  omega

theorem mem_enabledStates {st : Nat} : st ∈ enabledStates ↔ 1 ≤ st ∧ st ≤ 6 := by
  simp only [enabledStates, axStandstill, axMoving, axStopping, axEmergency, axHalted, axHoming, List.mem_cons,
    List.not_mem_nil, or_false]
  omega

/-! ### The beginning of a move (R267, R268) -/

/-- The record of an axis that begins the motion from standstill, with the held parameters in force. -/
def AxisSt.begun (x : AxisSt) (m : Motion) : AxisSt :=
  { x with held := [], motion := m, fine := 0, acc := 0, frac := 0, decel := false, ihold := false }

/-- The held parameters of axis `a` written into their registers. -/
def State.heldWritten (s : State) (a : Nat) : State :=
  foldS (fun s (e : Nat × Option Nat) => match e.2 with
    | some v => s.wr (parAddr a e.1) (BitVec.ofNat 32 v)
    | none => s) s (s.axis a).held

theorem State.heldWritten_keeps (s : State) (a : Nat) : Keeps s (s.heldWritten a) :=
  foldS_keeps (.refl s) fun u e => by
    split
    · exact State.wr_keeps (.refl u)
    · exact .refl u

theorem State.axis_heldWritten (s : State) (a b : Nat) : (s.heldWritten a).axis b = s.axis b :=
  foldS_frame (part := (State.axis · b)) (fun u e => by split <;> rfl) s _

theorem State.applyHeld_eq (s : State) (a : Nat) : s.applyHeld a =
    ((s.heldWritten a).setAxis a { s.axis a with held := [] }).setAx a F.GLS_AXST_PENDPAR 0 := by
  rw [← s.axis_heldWritten a a]
  rfl

theorem State.heldWritten_of_none {s : State} {a : Nat} (held : (s.axis a).held = []) : s.heldWritten a = s := by
  rw [State.heldWritten, held]
  rfl

theorem State.heldWritten_of_vmax {s : State} {a w : Nat} (held : (s.axis a).held = [(0, some w)]) :
    s.heldWritten a = s.wr (R.GLS_VMAX a) (BitVec.ofNat 32 w) := by
  rw [State.heldWritten, held]
  rfl

/-- With no held parameter nothing but the record and the status word is written. -/
theorem State.applyHeld_actsOn {s : State} {a : Nat} (held : (s.axis a).held = []) : s.ActsOn a (s.applyHeld a) := by
  rw [State.applyHeld_eq, State.heldWritten_of_none held]
  exact (State.ActsOn.refl s).setAxis.setAx

section
variable {s : State} (sound : s.sound = true) (a : Nat)
include sound

theorem State.sound_heldWritten : (s.heldWritten a).sound = true := (s.heldWritten_keeps a).sound sound

theorem State.sound_applyHeld : (s.applyHeld a).sound = true := (State.applyHeld_keeps (.refl s)).sound sound

theorem State.axis_applyHeld : (s.applyHeld a).axis a = { s.axis a with held := [] } := by
  rw [State.applyHeld_eq]
  exact State.axis_setAxis_same (State.sound_heldWritten sound a)

theorem State.ax_PENDPAR_applyHeld : (s.applyHeld a).ax a F.GLS_AXST_PENDPAR = 0 := by
  rw [State.applyHeld_eq]
  exact State.fld_setFld_same (State.sound_setAxis (State.sound_heldWritten sound a)) (by decide)

/-- The held value of VMAX is in force from the start on. -/
theorem State.vmax_applyHeld {w : Nat} (held : (s.axis a).held = [(0, some w)]) :
    (s.applyHeld a).rd (R.GLS_VMAX a) = BitVec.ofNat 32 w := by
  have apart : R.GLS_VMAX a ≠ R.GLS_AXST a := by simp [R.GLS_AXST, R.GLS_VMAX]
  rw [State.applyHeld_eq, State.heldWritten_of_vmax held, State.setAx,
    State.rd_setFld_ne (State.sound_setAxis (State.sound_wr sound)) apart]
  exact State.rd_wr_same sound

variable (m : Motion) (st : Nat)

theorem State.beginMove_eq : s.beginMove a m st =
    (((s.applyHeld a).setAxis a ((s.axis a).begun m)).noteTgt a m).setAxState a st := by
  rw [State.beginMove, State.axis_applyHeld sound]
  rfl

/-- What of a beginning move follows the held parameters. -/
theorem State.beginMove_after_held : (s.applyHeld a).ActsOn a (s.beginMove a m st) := by
  rw [State.beginMove_eq sound]
  exact ((State.ActsOn.refl _).setAxis.trans (State.noteTgt_actsOn _ a m)).setAxState

/-- The state of a beginning move before its target is noted. -/
theorem State.sound_begun : ((s.applyHeld a).setAxis a ((s.axis a).begun m)).sound = true :=
  State.sound_setAxis (State.sound_applyHeld sound a)

theorem State.axis_beginMove :
    (s.beginMove a m st).axis a = { (s.axis a).begun m with lastTgt := m.noted (s.axis a).lastTgt } := by
  rw [State.beginMove_eq sound, State.axis_setAxState, State.axis_noteTgt (State.sound_begun sound a m),
    State.axis_setAxis_same (State.sound_applyHeld sound a)]
  rfl

theorem State.rd_beginMove : (s.beginMove a m st).rd (R.GLS_AXST a) =
    putFld F.GLS_AXST_STATE ((s.applyHeld a).rd (R.GLS_AXST a)) st := by
  have begun := State.sound_begun sound a m
  rw [State.beginMove_eq sound, State.rd_setAxState_same ((State.noteTgt_actsOn _ a m).sound begun),
    State.rd_noteTgt begun, State.rd_setAxis]

theorem State.axState_beginMove (low : st < 8) : (s.beginMove a m st).axState a = st :=
  ((State.ax_of_word (State.rd_beginMove sound a m st) _).trans (fldOf_putFld_same (by decide))).trans
    (Nat.mod_eq_of_lt low)

theorem State.ax_PENDPAR_beginMove : (s.beginMove a m st).ax a F.GLS_AXST_PENDPAR = 0 :=
  ((State.ax_of_word (State.rd_beginMove sound a m st) _).trans (fldOf_putFld_ne (by decide) (by decide))).trans
    (State.ax_PENDPAR_applyHeld sound a)

theorem State.vmax_beginMove {w : Nat} (held : (s.axis a).held = [(0, some w)]) :
    (s.beginMove a m st).rd (R.GLS_VMAX a) = BitVec.ofNat 32 w := by
  have hidden : ¬ axisShows a (R.GLS_VMAX a) := by
    simp only [axisShows, R.GLS_VMAX, R.GLS_AXST, R.GLS_VEL, R.GLS_TGT]
    omega
  exact ((State.beginMove_after_held sound a m st).rd (State.sound_applyHeld sound a) hidden).trans
    (State.vmax_applyHeld sound a held)

theorem State.tgt_beginMove {v : Int} (unstaged : (s.axis a).staged = none) (fits : inSpan v = true) :
    (s.beginMove a (.toTarget v) st).sfld (R.GLS_TGT a) F.GLS_TGT_TGT = v := by
  have begun := State.sound_begun sound a (.toTarget v)
  have apart : R.GLS_TGT a ≠ R.GLS_AXST a := by simp [R.GLS_AXST, R.GLS_TGT]
  rw [State.beginMove_eq sound, State.sfld, State.setAxState,
    State.fld_setFld_other ((State.noteTgt_actsOn _ a _).sound begun) apart]
  refine State.tgt_noteTgt begun a ?_ fits
  rw [State.axis_setAxis_same (State.sound_applyHeld sound a)]
  exact unstaged

end

/-! ### Starting a motion, retargeting, queuing (R267) -/

section
variable {s : State} {a : Nat} {m : Motion}

theorem State.motionOp_of_barred (barred : s.motionBarred a = true ∨ s.limitAhead a (m.sign (s.axPos a)) = true) :
    s.motionOp a m = s.answer .state := if_pos (by simpa using barred)

theorem State.motionOp_of_free (free : s.motionBarred a = false) (clear : s.limitAhead a (m.sign (s.axPos a)) = false) :
    s.motionOp a m = (s.takeMotion a m).answer .ok := if_neg (by simp [free, clear])

theorem State.takeMotion_of_standstill (stands : s.axState a = 1) : s.takeMotion a m = s.beginMove a m axMoving :=
  if_pos (by simp [stands, axStandstill])

theorem State.takeMotion_of_moving (moves : s.axState a = 2) :
    s.takeMotion a m = (s.setAxis a { s.axis a with motion := m, decel := false }).noteTgt a m :=
  (if_neg (by simp [moves, axStandstill])).trans (if_neg (by simp [moves, axStopping]))

theorem State.takeMotion_of_stopping (stops : s.axState a = 3) : s.takeMotion a m =
    (s.setAxis a { s.axis a with queued := some m }).setAx a F.GLS_AXST_QUEUED 1 :=
  (if_neg (by simp [stops, axStandstill])).trans (if_pos (by simp [stops, axStopping]))

end

/-! ### STOP (R267, R276) -/

/-- An axis with no group is its own. -/
theorem State.axGroup_of_alone {s : State} {a : Nat} (alone : (s.axis a).lead = none) : s.axGroup a = [a] := by
  rw [State.axGroup, alone]

section
variable {s : State} (sound : s.sound = true) {a : Nat}
include sound

theorem State.axState_emptyQueue : (s.emptyQueue a).axState a = s.axState a :=
  (State.ax_of_word (State.rd_emptyQueue sound a) _).trans (fldOf_putFld_ne (by decide) (by decide))

theorem State.stopAxis_of_standstill (stands : s.axState a = 1) : s.stopAxis a = s.emptyQueue a := by
  have after := (State.axState_emptyQueue sound (a := a)).trans stands
  exact (if_neg (by simp [after, axMoving])).trans (if_neg (by simp [after, axHoming]))

theorem State.stopAxis_of_moving (moves : s.axState a = 2) (alone : (s.axis a).lead = none) :
    s.stopAxis a = (s.emptyQueue a).setAxState a axStopping := by
  have after := (State.axState_emptyQueue sound (a := a)).trans moves
  have still : ((s.emptyQueue a).axis a).lead = none := by rw [State.axis_emptyQueue sound, alone]
  refine (if_pos (by simp [after, axMoving])).trans ?_
  rw [State.toStopping, State.axGroup_of_alone still]
  exact if_pos (by simp [after, axMoving])

end

/-! ### The emergency ramp (R271, R279) -/

section
variable {s : State} {a cause : Nat}

theorem State.noteRamp_actsOn (s : State) (a cause : Nat) : s.ActsOn a (s.noteRamp a cause) :=
  (State.ActsOn.refl s).setAx.raise

theorem State.emergency_of_standstill (stands : s.axState a = 1) :
    s.emergency a cause = (s.noteRamp a cause).rest a axHalted := if_pos (by simp [stands, axStandstill])

variable (sound : s.sound = true)
include sound

theorem State.emergency_of_moving (moves : s.axState a = 2) (alone : (s.axis a).lead = none) :
    s.emergency a cause = ((s.noteRamp a cause).emptyQueue a).setAxState a axEmergency := by
  have still : (((s.noteRamp a cause).emptyQueue a).axis a).lead = none := by
    rw [State.axis_emptyQueue ((s.noteRamp_actsOn a cause).sound sound)]
    exact alone
  refine (if_neg (by simp [moves, axStandstill])).trans ((if_neg (by simp [moves, axEmergency])).trans
    ((if_pos (by simp [moves, axMoving])).trans ?_))
  have searching : ¬ (s.axState a == axHoming) = true := by simp [moves, axHoming]
  simp only [if_neg searching, State.axGroup_of_alone still]
  rfl

theorem State.rd_noteRamp :
    (s.noteRamp a cause).rd (R.GLS_AXST a) = putFld F.GLS_AXST_ECAUSE (s.rd (R.GLS_AXST a)) cause :=
  State.rd_setAx_same sound

/-- The status word of an axis that goes from rest to HALTED. -/
theorem State.rd_emergency_standstill (stands : s.axState a = 1) : (s.emergency a cause).rd (R.GLS_AXST a) =
    putFld F.GLS_AXST_STATE (putFld F.GLS_AXST_HPH (putFld F.GLS_AXST_GRP
      (putFld F.GLS_AXST_ECAUSE (s.rd (R.GLS_AXST a)) cause) 0) 0) 5 := by
  rw [State.emergency_of_standstill stands, State.rd_rest ((s.noteRamp_actsOn a cause).sound sound),
    State.rd_noteRamp sound]
  rfl

theorem State.axState_emergency_standstill (stands : s.axState a = 1) : (s.emergency a cause).axState a = 5 :=
  (State.ax_of_word (State.rd_emergency_standstill sound stands) _).trans (fldOf_putFld_same (by decide))

theorem State.ax_ECAUSE_emergency_standstill (stands : s.axState a = 1) (low : cause < 8) :
    (s.emergency a cause).ax a F.GLS_AXST_ECAUSE = cause := by
  rw [State.ax_of_word (State.rd_emergency_standstill sound stands)]
  simp (disch := decide) only [fldOf_putFld_ne, fldOf_putFld_same]
  exact Nat.mod_eq_of_lt low

section
variable (moves : s.axState a = 2) (alone : (s.axis a).lead = none)
include moves alone

/-- The status word of an axis that goes from a move into the emergency ramp. -/
theorem State.rd_emergency_moving : (s.emergency a cause).rd (R.GLS_AXST a) =
    putFld F.GLS_AXST_STATE (putFld F.GLS_AXST_QUEUED (putFld F.GLS_AXST_ECAUSE (s.rd (R.GLS_AXST a)) cause) 0) 4 := by
  have noted := (s.noteRamp_actsOn a cause).sound sound
  rw [State.emergency_of_moving sound moves alone, State.rd_setAxState_same ((State.emptyQueue_actsOn _ a).sound noted),
    State.rd_emptyQueue noted, State.rd_noteRamp sound]
  rfl

theorem State.axState_emergency_moving : (s.emergency a cause).axState a = 4 :=
  (State.ax_of_word (State.rd_emergency_moving sound moves alone) _).trans (fldOf_putFld_same (by decide))

theorem State.ax_ECAUSE_emergency_moving (low : cause < 8) : (s.emergency a cause).ax a F.GLS_AXST_ECAUSE = cause := by
  rw [State.ax_of_word (State.rd_emergency_moving sound moves alone)]
  simp (disch := decide) only [fldOf_putFld_ne, fldOf_putFld_same]
  exact Nat.mod_eq_of_lt low

theorem State.axis_emergency_moving : (s.emergency a cause).axis a = { s.axis a with queued := none } := by
  rw [State.emergency_of_moving sound moves alone, State.axis_setAxState,
    State.axis_emptyQueue ((s.noteRamp_actsOn a cause).sound sound)]
  rfl

theorem State.now_emergency_moving : (s.emergency a cause).now = s.now := by
  rw [State.emergency_of_moving sound moves alone]
  rfl

theorem State.mor_emergency_moving : (s.emergency a cause).mor = (s.noteRamp a cause).mor := by
  rw [State.emergency_of_moving sound moves alone]
  rfl

end

end

/-! ### JOG (R267) -/

theorem State.jogOp_of_listed {s : State} {a : Nat} {v : Int} (exists_ : a < 6) (on : s.powered 10 = true)
    (slow : v.natAbs ≤ s.fld (R.GLS_VMAX a) F.GLS_VMAX_VMAX) (listed : s.axState a ∈ moveStates) :
    s.jogOp a v = if v == 0 then (if s.motionBarred a then s.answer .state else (s.stopAxis a).answer .ok)
      else s.motionOp a (.run v) := by
  rw [State.jogOp, if_neg (by omega), if_neg (by simp [on]), if_neg (by omega),
    State.axisGate_of_listed exists_ on listed]

end Sys2Proof.Machine
end

section
/-! SUPPORT. The statements of the moves, of JOG, STOP and ESTOP. -/

open Sys2Proof Sys2Proof.Machine

namespace Sys2Proof.Proofs

theorem axisMoves : Clauses.AxisMoves := by
  unfold Clauses.AxisMoves
  intro s ax v
  dsimp only
  have gone {st : Nat} (idle : st = 0 ∨ 4 ≤ st) : st ∉ moveStates := by rw [mem_moveStates]; omega
  have refused {r : Status} (gate : s.axisGate ax.toNat moveStates = some r) :
      exec (.movea ax v) s = .next (s.answer r) ∧ exec (.mover ax v) s = .next (s.answer r) := by
    refine ⟨congrArg Host.Outcome.next ?_, congrArg Host.Outcome.next ?_⟩
    · rw [State.moveaOp, gate]
    · rw [State.moverOp, gate]
  have accepted (exists_ : ax.toNat < 6) (on : s.powered 10 = true) (low : 1 ≤ s.axState ax.toNat)
      (high : s.axState ax.toNat ≤ 3) : s.axisGate ax.toNat moveStates = none :=
    State.axisGate_of_listed exists_ on (mem_moveStates.2 ⟨low, high⟩)
  have taken (ok : s.powered 10 = true ∧ ax.toNat < 6 ∧ s.motionBarred ax.toNat = false ∧
      s.limitAhead ax.toNat (Int.sign (v.toInt - s.axPos ax.toNat)) = false) (low : 1 ≤ s.axState ax.toNat)
      (high : s.axState ax.toNat ≤ 3) :
      exec (.movea ax v) s = .next ((s.takeMotion ax.toNat (.toTarget v.toInt)).answer .ok) := by
    obtain ⟨on, exists_, free, clear⟩ := ok
    refine congrArg Host.Outcome.next ?_
    rw [State.moveaOp, accepted exists_ on low high]
    exact State.motionOp_of_free free clear
  refine ⟨?beyond, ?idle, ?barred, ?relative, ?range, ?starts, ?retargets, ?queues⟩
  case beyond => exact fun beyond => refused (State.axisGate_of_beyond beyond)
  case idle =>
    exact fun exists_ off => refused (State.axisGate_of_refused exists_ (off.imp_right gone))
  case barred =>
    intro exists_ barred
    refine congrArg Host.Outcome.next ?_
    rw [State.moveaOp]
    split
    next r gate => rw [State.axisGate_of_some exists_ gate]
    next => exact State.motionOp_of_barred barred
  case relative =>
    intro fits
    refine congrArg Host.Outcome.next ?_
    rw [State.moverOp, State.moveaOp, toInt_ofInt_of_inSpan fits]
    split
    · rfl
    · by_cases barred : s.motionBarred ax.toNat = true
      · rw [if_pos barred, State.motionOp_of_barred (.inl barred)]
      · rw [if_neg barred, if_neg (by simp [fits])]
  case range =>
    intro exists_ on free low high outside
    refine congrArg Host.Outcome.next ?_
    rw [State.moverOp, accepted exists_ on low high]
    exact (if_neg (by simp [free])).trans (if_pos (by simp [outside]))
  case starts =>
    intro ok sound stands
    have exec_eq := taken ok (by omega) (by omega)
    rw [State.takeMotion_of_standstill stands] at exec_eq
    have record := State.axis_beginMove sound ax.toNat (.toTarget v.toInt) axMoving
    refine ⟨_, exec_eq, ?_⟩
    simp only [State.axState_answer, State.axis_answer, State.ax_answer, State.sfld_answer, State.rd_answered]
    refine ⟨State.axState_beginMove sound _ _ _ (by decide), congrArg AxisSt.motion record,
      congrArg AxisSt.held record, congrArg AxisSt.ihold record, rfl, State.ax_PENDPAR_beginMove sound _ _ _, ?_, ?_⟩
    · exact fun unstaged => State.tgt_beginMove sound _ _ unstaged (inSpan_toInt v)
    · exact fun w held => State.vmax_beginMove sound _ _ _ held
  case retargets =>
    intro ok moves
    have exec_eq := taken ok (by omega) (by omega)
    rw [State.takeMotion_of_moving moves] at exec_eq
    exact exec_eq
  case queues =>
    intro ok stops
    have exec_eq := taken ok (by omega) (by omega)
    rw [State.takeMotion_of_stopping stops] at exec_eq
    exact exec_eq

theorem axisRunAndStop : Clauses.AxisRunAndStop := by
  unfold Clauses.AxisRunAndStop
  intro s ax v
  dsimp only
  have refused {r : Status} (gate : s.axisGate ax.toNat enabledStates = some r) :
      exec (.axisStop ax) s = .next (s.answer r) ∧ exec (.estop ax) s = .next (s.answer r) := by
    refine ⟨congrArg Host.Outcome.next ?_, congrArg Host.Outcome.next ?_⟩
    · rw [State.axisStopOp, gate]
    · rw [State.estopOp, gate]
  refine ⟨?beyond, ?idle, ?range, fun exists_ on sound => ?accepted⟩
  case beyond =>
    intro beyond
    exact ⟨congrArg _ (if_pos beyond), refused (State.axisGate_of_beyond beyond)⟩
  case idle =>
    intro exists_ off
    refine refused (State.axisGate_of_refused exists_ (off.imp_right fun st => ?_))
    rw [mem_enabledStates]
    omega
  case range =>
    intro exists_ on fast
    exact congrArg _ ((if_neg (by omega)).trans ((if_neg (by simp [on])).trans (if_pos fast)))
  case accepted =>
    have gate (low : 1 ≤ s.axState ax.toNat) (high : s.axState ax.toNat ≤ 6) : s.axisGate ax.toNat enabledStates = none :=
      State.axisGate_of_listed exists_ on (mem_enabledStates.2 ⟨low, high⟩)
    have stops (low : 1 ≤ s.axState ax.toNat) (high : s.axState ax.toNat ≤ 6) :
        exec (.axisStop ax) s = .next ((s.stopAxis ax.toNat).answer .ok) := by
      refine congrArg Host.Outcome.next ?_
      rw [State.axisStopOp, gate low high]
    have ramps (low : 1 ≤ s.axState ax.toNat) (high : s.axState ax.toNat ≤ 6) :
        exec (.estop ax) s = .next ((s.emergency ax.toNat 2).answer .ok) := by
      refine congrArg Host.Outcome.next ?_
      rw [State.estopOp, gate low high]
    refine ⟨?jog, ?stopStanding, ?stopMoving, ?jogZero, ?estopStanding, ?estopMoving⟩
    case jog =>
      intro nonzero slow free clear stands
      have start : s.jogOp ax.toNat v.toInt = (s.beginMove ax.toNat (.run v.toInt) axMoving).answer .ok := by
        rw [State.jogOp_of_listed exists_ on slow (mem_moveStates.2 (by omega)),
          if_neg (by simpa using fun zero => nonzero (BitVec.eq_of_toInt_eq zero)),
          State.motionOp_of_free (m := .run v.toInt) free clear, State.takeMotion_of_standstill stands]
      refine ⟨_, congrArg Host.Outcome.next start, ?_⟩
      simp only [State.axState_answer, State.axis_answer]
      exact ⟨State.axState_beginMove sound _ _ _ (by decide),
        congrArg AxisSt.motion (State.axis_beginMove sound ax.toNat (.run v.toInt) axMoving), rfl⟩
    case stopStanding =>
      intro stands
      rw [stops (by omega) (by omega), State.stopAxis_of_standstill sound stands]
    case stopMoving =>
      intro moves alone
      have exec_eq := stops (by omega) (by omega)
      rw [State.stopAxis_of_moving sound moves alone] at exec_eq
      have emptied := s.emptyQueue_actsOn ax.toNat
      refine ⟨_, exec_eq, ?_, congrArg AxisSt.queued (State.axis_emptyQueue sound ax.toNat), rfl,
        emptied.setAxState.axPos sound _⟩
      exact State.fld_setFld_same (emptied.sound sound) (by decide)
    case jogZero =>
      intro moves alone free
      have zero : s.jogOp ax.toNat 0 = (s.stopAxis ax.toNat).answer .ok := by
        rw [State.jogOp_of_listed exists_ on (Nat.zero_le _) (mem_moveStates.2 (by omega))]
        exact (if_pos rfl).trans (if_neg (by simp [free]))
      exact (congrArg Host.Outcome.next zero).trans (stops (by omega) (by omega)).symm
    case estopStanding =>
      intro stands
      have noted := s.noteRamp_actsOn ax.toNat 2
      have rests := State.emergency_of_standstill stands (cause := 2)
      refine ⟨_, ramps (by omega) (by omega), ?_⟩
      simp only [State.axState_answer, State.ax_answer, State.fld_answered, State.axPos_answer]
      refine ⟨State.axState_emergency_standstill sound stands,
        State.ax_ECAUSE_emergency_standstill sound stands (by decide), ?_, rfl, ?_⟩
      · rw [rests, State.vel_rest (noted.sound sound)]
      · rw [rests, (noted.trans (State.rest_actsOn _ _ _)).axPos sound]
    case estopMoving =>
      intro moves alone
      refine ⟨_, ramps (by omega) (by omega), ?_⟩
      simp only [State.axState_answer, State.ax_answer, State.axis_answer, State.mor_answered]
      refine ⟨State.axState_emergency_moving sound moves alone,
        State.ax_ECAUSE_emergency_moving sound moves alone (by decide), ?_, rfl, ?_⟩
      · rw [State.axis_emergency_moving sound moves alone]
      · rw [State.mor_emergency_moving sound moves alone]
        rfl

end Sys2Proof.Proofs
end

section
/-! SUPPORT. The rules of the settings of an axis (R265, R267–R269, R272). -/

namespace Sys2Proof.Machine

/-! ### Held parameters (R268) -/

theorem tabSet_ne_nil {α : Type} [DecidableEq α] {d : Nat → α} {m : List (Nat × α)} {k : Nat} {v : α} (other : v ≠ d k) :
    tabSet d m k v ≠ [] := by
  cases m with
  | nil => simp [tabSet, other]
  | cons e m =>
    simp only [tabSet, if_neg other]
    split
    · exact List.cons_ne_nil _ _
    · split <;> exact List.cons_ne_nil _ _

theorem State.setHeld_eq (s : State) (a k : Nat) (v : Option Nat) : s.setHeld a k v =
    (let held := tabSet (dflt none) (s.axis a).held k v
     (s.setAxis a { s.axis a with held := held }).setAx a F.GLS_AXST_PENDPAR (if held = [] then 0 else 1)) := by
  have shown (l : List (Nat × Option Nat)) : (!l.isEmpty).toNat = if l = [] then 0 else 1 := by cases l <;> rfl
  rw [State.setHeld]
  dsimp only
  rw [shown]

section
variable {s : State} {a k v : Nat} (exists_ : a < 6) (on : s.powered 10 = true)
include exists_ on

theorem State.setparOp_of_outside (outside : parInRange k v = false) : s.setparOp a k v = s.answer .range :=
  (if_neg (by omega)).trans ((if_neg (by simp [on])).trans (if_pos (by simp [outside])))

variable (inside : parInRange k v = true)
include inside

theorem State.setparOp_of_decelerating (slows : s.decelerates a = true) :
    s.setparOp a k v = (s.setHeld a k (some v)).answer .ok :=
  (if_neg (by omega)).trans ((if_neg (by simp [on])).trans ((if_neg (by simp [inside])).trans (if_pos slows)))

theorem State.setparOp_of_steady (steady : s.decelerates a = false) :
    s.setparOp a k v = ((s.wr (parAddr a k) (BitVec.ofNat 32 v)).setHeld a k none).answer .ok :=
  (if_neg (by omega)).trans ((if_neg (by simp [on])).trans ((if_neg (by simp [inside])).trans (if_neg (by simp [steady]))))

end

/-! ### ENABLE, DISABLE, CLEAR (R267, R272) -/

section
variable {s : State} {a : Nat} (exists_ : a < 6) (on : s.powered 10 = true)
include exists_ on

theorem State.axisEnableOp_of_invalid (disabled : s.axState a = 0)
    (invalid : s.flag (R.GLS_CFG a) F.GLS_CFG_CFGERR = true) : s.axisEnableOp a = s.answer .state := by
  rw [State.axisEnableOp, State.axisGate_of_listed exists_ on (by simp [disabled, axDisabled])]
  exact if_pos invalid

theorem State.axisEnableOp_of_sane (disabled : s.axState a = 0) (valid : s.flag (R.GLS_CFG a) F.GLS_CFG_CFGERR = false)
    (fault : s.ax a F.GLS_AXST_DRVFLT = 0) (lost : s.ax a F.GLS_AXST_LOOPLOST = 0) (cause : s.ax a F.GLS_AXST_ECAUSE = 0) :
    s.axisEnableOp a = ((s.setAxis a { s.axis a with ihold := true, rearmed := true }).rest a axStandstill).answer .ok := by
  rw [State.axisEnableOp, State.axisGate_of_listed exists_ on (by simp [disabled, axDisabled])]
  refine (if_neg (by simp [valid])).trans ?_
  dsimp only
  rw [fault, lost, cause]
  rfl

theorem State.axisDisableOp_of_listed (listed : s.axState a ∈ [axDisabled, axStandstill, axHalted])
    (alone : s.ax a F.GLS_AXST_GRP = 0) : s.axisDisableOp a =
      ((s.setAxis a { s.axis a with ihold := false, rearmed := false }).rest a axDisabled).answer .ok := by
  rw [State.axisDisableOp, State.axisGate_of_listed exists_ on listed]
  exact if_neg (by simp [State.inGroup, alone])

/-- With no driver fault CLEAR finds the fault line high. -/
theorem State.axisClearOp_of_clear (halted : s.axState a = 5) (line : s.ax a F.GLS_AXST_ESTOPLN = 0)
    (fault : s.ax a F.GLS_AXST_DRVFLT = 0) (sound : s.sound = true) : s.axisClearOp a =
      (((((s.setAxis a { s.axis a with nflt := false }).setAx a F.GLS_AXST_ECAUSE 0).setAx a F.GLS_AXST_DRVFLT 0).setAx a
        F.GLS_AXST_LOOPLOST 0).rest a axStandstill).answer .ok := by
  have high : s.sampleNflt a = s.setAxis a { s.axis a with nflt := false } := if_pos (by simp [fault])
  have record := State.axis_setAxis_same sound (a := a) (x := { s.axis a with nflt := false })
  have fault' : (s.setAxis a { s.axis a with nflt := false }).ax a F.GLS_AXST_DRVFLT = 0 := fault
  rw [State.axisClearOp, State.axisGate_of_listed exists_ on (by simp [halted, axHalted])]
  dsimp only
  rw [if_neg (by simp [line]), high, record, fault']
  rfl

end

theorem State.axisClearOp_of_line {s : State} {a : Nat} (exists_ : a < 6) (line : s.ax a F.GLS_AXST_ESTOPLN ≠ 0) :
    s.axisClearOp a = s.answer .state := by
  rw [State.axisClearOp]
  split
  next r gate => rw [State.axisGate_of_some exists_ gate]
  next => exact if_pos (by simp [line])

end Sys2Proof.Machine
end

section
/-! SUPPORT. The statements of the settings of an axis. -/

open Sys2Proof Sys2Proof.Machine

namespace Sys2Proof.Proofs

theorem axisSettings : Clauses.AxisSettings := by
  unfold Clauses.AxisSettings
  intro s ax k i e x y z v exists_ on sound
  dsimp only
  have listed {l : List Nat} (mem : s.axState ax.toNat ∈ l) : s.axisGate ax.toNat l = none :=
    State.axisGate_of_listed exists_ on mem
  have unlisted {l : List Nat} (out : s.axState ax.toNat ∉ l) : s.axisGate ax.toNat l = some .state :=
    State.axisGate_of_refused exists_ (.inr out)
  refine ⟨?range, ?held, ?takes, ?invalid, ?enables, ?enabled, ?disables, ?running, ?preset, ?presetRunning, ?gtgt,
    ?notStanding, ?tables, ?clears, ?notCleared⟩
  case range => exact fun outside => congrArg _ (State.setparOp_of_outside exists_ on outside)
  case held =>
    intro inside slows
    have some_ : tabSet (dflt none) (s.axis ax.toNat).held k.toNat (some v.toNat) ≠ [] := tabSet_ne_nil (by simp [dflt])
    refine congrArg Host.Outcome.next ((State.setparOp_of_decelerating exists_ on inside slows).trans ?_)
    rw [State.setHeld_eq]
    dsimp only
    rw [if_neg some_]
  case takes =>
    intro inside steady
    refine congrArg Host.Outcome.next ((State.setparOp_of_steady exists_ on inside steady).trans ?_)
    rw [State.setHeld_eq, BitVec.ofNat_toNat, BitVec.setWidth_eq]
    rfl
  case invalid =>
    exact fun disabled invalid => congrArg _ (State.axisEnableOp_of_invalid exists_ on disabled invalid)
  case enables =>
    intro disabled valid fault lost cause
    have armed := State.sound_setAxis sound (a := ax.toNat) (x := { s.axis ax.toNat with ihold := true, rearmed := true })
    refine ⟨_, congrArg Host.Outcome.next (State.axisEnableOp_of_sane exists_ on disabled valid fault lost cause), ?_⟩
    simp only [State.axState_answer, State.axis_answer, State.axis_rest armed, State.axis_setAxis_same sound]
    exact ⟨State.axState_rest armed _ _ (by decide), rfl, rfl⟩
  case enabled =>
    intro enabled
    refine congrArg Host.Outcome.next ?_
    rw [State.axisEnableOp, unlisted (by simp [enabled, axDisabled])]
  case disables =>
    intro idle alone
    have off := State.sound_setAxis sound (a := ax.toNat) (x := { s.axis ax.toNat with ihold := false, rearmed := false })
    refine ⟨_, congrArg Host.Outcome.next (State.axisDisableOp_of_listed exists_ on
      (by rcases idle with st | st <;> simp [st, axDisabled, axStandstill, axHalted]) alone), ?_⟩
    simp only [State.axState_answer]
    exact ⟨State.axState_rest off _ _ (by decide), rfl⟩
  case running =>
    intro low other
    refine congrArg Host.Outcome.next ?_
    rw [State.axisDisableOp, unlisted (by
      simp [axDisabled, axStandstill, axHalted]
      omega)]
  case preset =>
    intro idle
    refine congrArg Host.Outcome.next ?_
    rw [State.presetOp, listed (by rcases idle with st | st <;> simp [st, axDisabled, axStandstill])]
  case presetRunning =>
    intro low
    refine congrArg Host.Outcome.next ?_
    rw [State.presetOp, unlisted (by
      simp [axDisabled, axStandstill]
      omega)]
  case gtgt =>
    intro stands
    refine congrArg Host.Outcome.next ?_
    rw [State.gtgtOp, listed (by simp [stands, axStandstill])]
    dsimp only
    rw [State.setStaged, State.showTgt, State.axis_setAxis_same sound]
    rfl
  case notStanding =>
    intro other
    have gate : s.axisGate ax.toNat [axStandstill] = some .state := unlisted (by simp [other, axStandstill])
    exact ⟨congrArg Host.Outcome.next (by rw [State.gtgtOp, gate]), congrArg Host.Outcome.next (by rw [State.homeOp, gate])⟩
  case tables =>
    intro known
    have gate : s.axisGate ax.toNat (axDisabled :: enabledStates) = none := listed (by
      rw [List.mem_cons, mem_enabledStates, axDisabled]
      omega)
    exact ⟨congrArg Host.Outcome.next (by rw [State.tblwrOp, gate]), congrArg Host.Outcome.next (by rw [State.tblselOp, gate])⟩
  case clears =>
    intro halted line fault
    have high := (State.ActsOn.refl s).setAxis (a := ax.toNat) (x := { s.axis ax.toNat with nflt := false })
    have uncaused := high.setAx (f := F.GLS_AXST_ECAUSE) (v := 0)
    have unfaulted := uncaused.setAx (f := F.GLS_AXST_DRVFLT) (v := 0)
    have found := unfaulted.setAx (f := F.GLS_AXST_LOOPLOST) (v := 0)
    have word := State.rd_rest (found.sound sound) ax.toNat axStandstill
    rw [State.rd_setAx_same (unfaulted.sound sound), State.rd_setAx_same (uncaused.sound sound),
      State.rd_setAx_same (high.sound sound), State.rd_setAxis] at word
    refine ⟨_, congrArg Host.Outcome.next (State.axisClearOp_of_clear exists_ on halted line fault sound), ?_⟩
    simp only [State.axState_answer, State.ax_answer]
    refine ⟨State.axState_rest (found.sound sound) _ _ (by decide), ?_, ?_, rfl⟩
    · rw [State.ax_of_word word]
      simp (disch := decide) only [fldOf_putFld_ne, fldOf_putFld_same]
      rfl
    · rw [State.ax_of_word word]
      simp (disch := decide) only [fldOf_putFld_ne, fldOf_putFld_same]
      rfl
  case notCleared =>
    rintro (other | line)
    · refine congrArg Host.Outcome.next ?_
      rw [State.axisClearOp, unlisted (by simp [other, axHalted])]
    · exact congrArg _ (State.axisClearOp_of_line exists_ line)

end Sys2Proof.Proofs
end

section
/-! SUPPORT. The rules of an interpolation group (R269, R270): its lead, its staged targets, its members' joining. -/

namespace Sys2Proof.Machine

/-! ### Folds over members -/

/-- What a fold of operations that each touch one member's part leaves in the part of member `b`: what the operation on
`b` leaves there, under an invariant that every operation keeps. -/
theorem foldS_reaches {β : Type} {f : State → Nat → State} {I : State → Prop} {part : State → β} {Q : β → Prop} {b : Nat}
    {y : β} {L : List Nat} (keeps : ∀ u, ∀ c ∈ L, I u → I (f u c))
    (other : ∀ u, ∀ c ∈ L, c ≠ b → I u → part (f u c) = part u) (own : ∀ u, I u → part u = y → Q (part (f u b)))
    {l : List Nat} (inside : l ⊆ L) (distinct : l.Nodup) (mem : b ∈ l) {s : State} (start : I s) (here : part s = y) :
    Q (part (foldS f s l)) := by
  have after {l : List Nat} (inside : l ⊆ L) (out : b ∉ l) {u : State} (start : I u) : part (foldS f u l) = part u := by
    induction l generalizing u with
    | nil => rfl
    | cons c l ih =>
      have member := inside List.mem_cons_self
      have apart : c ≠ b := fun e => out (e ▸ List.mem_cons_self)
      exact (ih (fun _ m => inside (List.mem_cons_of_mem c m)) (fun m => out (List.mem_cons_of_mem c m))
        (keeps u c member start)).trans (other u c member apart start)
  induction l generalizing s with
  | nil => exact absurd mem List.not_mem_nil
  | cons c l ih =>
    obtain ⟨fresh, rest⟩ := List.nodup_cons.1 distinct
    have member := inside List.mem_cons_self
    have tail : l ⊆ L := fun _ m => inside (List.mem_cons_of_mem c m)
    by_cases apart : c = b
    · subst apart
      change Q (part (foldS f (f s c) l))
      rw [after tail fresh (keeps s c member start)]
      exact own s start here
    · exact ih tail rest (List.mem_of_ne_of_mem (Ne.symm apart) mem) (keeps s c member start)
        ((other s c member apart start).trans here)

/-! ### The mask and the lead -/

theorem mem_maskAxes {m b : Nat} : b ∈ maskAxes m ↔ b < 6 ∧ m.testBit b = true := by
  simp [maskAxes, onesOf]

theorem nodup_maskAxes (m : Nat) : (maskAxes m).Nodup := List.nodup_range.filter _

/-- The choice of the larger of two, again and again, ends with a largest. -/
theorem foldl_larger (d : Nat → Nat) (l : List Nat) (b : Nat) :
    let r := l.foldl (fun b c => if d b < d c then c else b) b
    (r = b ∨ r ∈ l) ∧ d b ≤ d r ∧ ∀ c ∈ l, d c ≤ d r := by
  induction l generalizing b with
  | nil => simp
  | cons c l ih =>
    obtain ⟨place, above, all⟩ := ih (if d b < d c then c else b)
    have chosen : (if d b < d c then c else b) = b ∨ (if d b < d c then c else b) = c := by
      split
      · exact .inr rfl
      · exact .inl rfl
    have larger : d b ≤ d (if d b < d c then c else b) ∧ d c ≤ d (if d b < d c then c else b) := by
      split <;> omega
    refine ⟨?_, by simp only [List.foldl_cons]; omega, fun e mem => ?_⟩
    · simp only [List.foldl_cons, List.mem_cons]
      rcases place with same | inside
      · rw [same]
        exact chosen.imp_right .inl
      · exact .inr (.inr inside)
    · simp only [List.foldl_cons]
      rcases List.mem_cons.1 mem with rfl | inside
      · omega
      · exact all e inside

/-- The lead is a masked axis with the largest distance. -/
theorem State.groupLead_spec (s : State) {l : List Nat} (some_ : l ≠ []) :
    s.groupLead l ∈ l ∧ ∀ b ∈ l, (s.groupDist b).natAbs ≤ (s.groupDist (s.groupLead l)).natAbs := by
  obtain ⟨place, -, all⟩ := foldl_larger (fun b => (s.groupDist b).natAbs) l (l.headD 0)
  refine ⟨?_, all⟩
  rcases place with first | inside
  · rw [State.groupLead, first]
    cases l with
    | nil => exact absurd rfl some_
    | cons c l => exact List.mem_cons_self
  · exact inside

/-! ### GGO (R269) -/

section
variable {s : State} {g m : Nat} (exists_ : g < 6) (on : s.powered 10 = true)
include exists_ on

theorem State.ggoOp_of_bad_mask (bad : m = 0 ∨ 64 ≤ m ∨ m.testBit g = false) : s.ggoOp g m = s.answer .range := by
  refine (if_neg (by omega)).trans ((if_neg (by simp [on])).trans (if_pos ?_))
  rcases bad with zero | high | other
  · simp [zero]
  · have beyond : 63 < m := by omega
    simp [beyond]
  · simp [other]

variable (small : m < 64) (own : m.testBit g = true)
include small own

theorem State.ggoOp_of_mask : s.ggoOp g m = if !((maskAxes m).all s.mayJoin) then s.answer .state
    else if (s.groupDist (s.groupLead (maskAxes m))).natAbs == 0 then
      (foldS (fun s b => s.setStaged b none) s (maskAxes m)).answer .ok
    else (foldS (fun u b => u.joinGroup g (s.groupLead (maskAxes m)) (s.groupDist (s.groupLead (maskAxes m))).natAbs b) s
      (maskAxes m)).answer .ok := by
  have nonzero : m ≠ 0 := fun zero => by simp [zero] at own
  refine (if_neg (by omega)).trans ((if_neg (by simp [on])).trans (if_neg ?_))
  simp [nonzero, own]
  omega

end

/-! ### Staged targets consumed (R269) -/

theorem State.setStaged_writes (s : State) (a : Nat) (v : Option Int) :
    s.WritesOnly (· = R.GLS_TGT a) (s.setStaged a v) :=
  ⟨State.setStaged_keeps (.refl s), fun sound _ other => State.rd_setFld_ne (State.sound_setAxis sound) other⟩

theorem not_axisShows_TGT {a b : Nat} (other : b ≠ a) : ¬ axisShows a (R.GLS_TGT b) := by
  simp only [axisShows, R.GLS_TGT, R.GLS_AXST, R.GLS_VEL]
  omega

theorem not_axisShows_AXST {a b : Nat} (other : b ≠ a) : ¬ axisShows a (R.GLS_AXST b) := by
  simp only [axisShows, R.GLS_TGT, R.GLS_AXST, R.GLS_VEL]
  omega

theorem State.tgt_setStaged {s : State} (sound : s.sound = true) {a : Nat} {v : Option Int}
    (fits : inSpan (v.getD (s.axis a).lastTgt) = true) :
    (s.setStaged a v).sfld (R.GLS_TGT a) F.GLS_TGT_TGT = v.getD (s.axis a).lastTgt := by
  have shown := State.tgt_showTgt (State.sound_setAxis sound (a := a) (x := { s.axis a with staged := v })) a
  rw [State.axis_setAxis_same sound] at shown
  exact shown fits

section
variable {s : State} (sound : s.sound = true) {l : List Nat} (distinct : l.Nodup) {b : Nat} (mem : b ∈ l)
include sound distinct mem

/-- What each member's record and target hold once the staged targets are consumed. -/
theorem State.unstaged_member : let u := foldS (fun s b => s.setStaged b none) s l
    u.axis b = { s.axis b with staged := none } ∧
      (inSpan (s.axis b).lastTgt = true → u.sfld (R.GLS_TGT b) F.GLS_TGT_TGT = (s.axis b).lastTgt) := by
  refine foldS_reaches (I := fun u => u.sound = true) (part := fun u => (u.axis b, u.rd (R.GLS_TGT b)))
    (y := (s.axis b, s.rd (R.GLS_TGT b)))
    (Q := fun p => p.1 = { s.axis b with staged := none } ∧
      (inSpan (s.axis b).lastTgt = true → signOf 32 (fldOf F.GLS_TGT_TGT p.2) = (s.axis b).lastTgt))
    (fun u c _ start => (State.setStaged_keeps (.refl u)).sound start) ?other ?own (List.Subset.refl l) distinct mem sound rfl
  case other =>
    intro u c _ apart start
    have acts := u.setStaged_actsOn c none
    exact Prod.ext (acts.axes start b apart.symm) (acts.rd start (not_axisShows_TGT apart.symm))
  case own =>
    intro u start here
    have record : u.axis b = s.axis b := congrArg Prod.fst here
    have target := State.tgt_setStaged start (a := b) (v := none)
    rw [record] at target
    exact ⟨by rw [State.axis_setStaged start, record], target⟩

end

/-! ### Joining a group (R270) -/

/-- The record of an axis that joins the group of lead `ld` with the parameters of `g`. -/
def AxisSt.joined (x : AxisSt) (g ld dl : Nat) (d : Int) : AxisSt :=
  { x with staged := none, lead := some ld, par := g, leadAx := ld, dist := d, leadDist := dl, err := dl / 2, done := 0 }

theorem State.beginMove_actsOn {s : State} (sound : s.sound = true) {a : Nat} (held : (s.axis a).held = []) (m : Motion)
    (st : Nat) : s.ActsOn a (s.beginMove a m st) :=
  (State.applyHeld_actsOn held).trans (State.beginMove_after_held sound a m st)

section
variable {s : State} (sound : s.sound = true) (g ld dl b : Nat)
include sound

theorem State.joinGroup_actsOn (held : (s.axis b).held = []) : s.ActsOn b (s.joinGroup g ld dl b) :=
  (((State.beginMove_actsOn sound held _ _).trans (State.setStaged_actsOn _ b none)).setAxis).setAx

theorem State.axis_joinGroup : (s.joinGroup g ld dl b).axis b =
    { (s.axis b).begun (.toTarget (s.axPos b + s.groupDist b)) with
      lastTgt := s.axPos b + s.groupDist b }.joined g ld dl (s.groupDist b) := by
  have begun : (s.beginMove b (.toTarget (s.axPos b + s.groupDist b)) axMoving).sound = true :=
    (State.beginMove_keeps (.refl s)).sound sound
  have unstaged := (State.setStaged_actsOn _ b none).sound begun
  rw [State.joinGroup, State.axis_setAx, State.axis_setAxis_same unstaged, State.axis_setStaged begun,
    State.axis_beginMove sound]
  rfl

theorem State.rd_joinGroup : (s.joinGroup g ld dl b).rd (R.GLS_AXST b) =
    putFld F.GLS_AXST_GRP (putFld F.GLS_AXST_STATE ((s.applyHeld b).rd (R.GLS_AXST b)) axMoving) 1 := by
  have begun : (s.beginMove b (.toTarget (s.axPos b + s.groupDist b)) axMoving).sound = true :=
    (State.beginMove_keeps (.refl s)).sound sound
  have unstaged := (State.setStaged_actsOn _ b none).sound begun
  rw [State.joinGroup, State.rd_setAx_same (State.sound_setAxis unstaged), State.rd_setAxis, State.rd_setStaged begun,
    State.rd_beginMove sound]

end

/-- What each member holds once all have joined. -/
theorem State.joined_member {s : State} (sound : s.sound = true) {l : List Nat} (distinct : l.Nodup) {b : Nat} (mem : b ∈ l)
    (held : ∀ c ∈ l, (s.axis c).held = []) (g ld dl : Nat) : let u := foldS (fun u b => u.joinGroup g ld dl b) s l
    u.axState b = 2 ∧ u.ax b F.GLS_AXST_GRP = 1 ∧ (u.axis b).lead = some ld ∧ (u.axis b).par = g ∧
      (u.axis b).dist = s.groupDist b ∧ (u.axis b).staged = none ∧ (u.axis b).leadDist = dl := by
  refine foldS_reaches (I := fun u => u.sound = true ∧ ∀ c ∈ l, (u.axis c).held = [])
    (part := fun u => (u.axis b, u.rd (R.GLS_AXST b), u.rd (R.GLS_POS b)))
    (y := (s.axis b, s.rd (R.GLS_AXST b), s.rd (R.GLS_POS b)))
    (Q := fun p => fldOf F.GLS_AXST_STATE p.2.1 = 2 ∧ fldOf F.GLS_AXST_GRP p.2.1 = 1 ∧ p.1.lead = some ld ∧ p.1.par = g ∧
      p.1.dist = s.groupDist b ∧ p.1.staged = none ∧ p.1.leadDist = dl)
    ?keeps ?other ?own (List.Subset.refl l) distinct mem ⟨sound, held⟩ rfl
  case keeps =>
    rintro u c member ⟨start, empty⟩
    refine ⟨(State.joinGroup_keeps (.refl u)).sound start, fun e inside => ?_⟩
    by_cases same : e = c
    · subst same
      rw [State.axis_joinGroup start]
      rfl
    · rw [(State.joinGroup_actsOn start g ld dl c (empty c member)).axes start e same, empty e inside]
  case other =>
    rintro u c member apart ⟨start, empty⟩
    have acts := State.joinGroup_actsOn start g ld dl c (empty c member)
    exact Prod.ext (acts.axes start b apart.symm) (Prod.ext (acts.rd start (not_axisShows_AXST apart.symm))
      (acts.rd start (not_axisShows_POS c b)))
  case own =>
    rintro u ⟨start, -⟩ here
    have record : u.axis b = s.axis b := congrArg Prod.fst here
    have place : u.axPos b = s.axPos b := congrArg (fun p : AxisSt × Word × Word => signOf 32 (fldOf F.GLS_POS_POS p.2.2)) here
    have distance : u.groupDist b = s.groupDist b := by rw [State.groupDist, State.groupDist, record, place]
    dsimp only
    rw [State.rd_joinGroup start, State.axis_joinGroup start, distance]
    simp (disch := decide) only [fldOf_putFld_ne, fldOf_putFld_same]
    exact ⟨rfl, rfl, rfl, rfl, rfl, rfl, rfl⟩

end Sys2Proof.Machine
end

section
/-! SUPPORT. The statements of the interpolation groups. -/

open Sys2Proof Sys2Proof.Machine

namespace Sys2Proof.Proofs

theorem interpolationGroups : Clauses.InterpolationGroups := by
  unfold Clauses.InterpolationGroups
  intro s ax m exists_ on sound
  dsimp only
  have exec_ggo : exec (.ggo ax m) s = .next (s.ggoOp ax.toNat m.toNat) := rfl
  refine ⟨?mask, ?barred, fun small own join => ?joins⟩
  case mask =>
    intro bad
    rw [exec_ggo, State.ggoOp_of_bad_mask exists_ on (bad.imp_left fun zero => by rw [zero]; rfl)]
  case barred =>
    rintro small own ⟨b, mem, barred⟩
    have refused : ¬ (maskAxes m.toNat).all s.mayJoin = true := fun all =>
      Bool.eq_false_iff.1 barred (List.all_eq_true.1 all b mem)
    rw [exec_ggo, State.ggoOp_of_mask exists_ on small own, if_pos (by simpa using refused)]
  case joins =>
    have all : (maskAxes m.toNat).all s.mayJoin = true := List.all_eq_true.2 join
    have accepted := State.ggoOp_of_mask exists_ on small own
    rw [if_neg (by simp [all])] at accepted
    have member : ax.toNat ∈ maskAxes m.toNat := mem_maskAxes.2 ⟨exists_, own⟩
    obtain ⟨lead, largest⟩ := s.groupLead_spec (List.ne_nil_of_mem member)
    have distinct := nodup_maskAxes m.toNat
    refine ⟨fun still => ?_, fun moving held => ⟨⟨lead, largest⟩, ?_⟩⟩
    · have zero : s.groupDist (s.groupLead (maskAxes m.toNat)) = 0 := still _ lead
      rw [zero] at accepted
      rw [if_pos (by rfl)] at accepted
      refine ⟨_, exec_ggo.trans (congrArg _ accepted), rfl, fun r other => ?_, fun b mem => ?_⟩
      · have writes := State.WritesOnly.foldS (p := fun r => ∃ b ∈ maskAxes m.toNat, r = R.GLS_TGT b)
          (fun u c inside => (State.setStaged_writes u c none).mono fun r at_ => ⟨c, inside, at_⟩) s
        exact writes.regs sound r fun ⟨b, inside, at_⟩ => other b inside at_
      · obtain ⟨record, target⟩ := State.unstaged_member sound distinct mem
        simp only [State.axis_answer, State.sfld_answer]
        exact ⟨by rw [record], by rw [record], target⟩
    · obtain ⟨b, mem, nonzero⟩ := moving
      have far := largest b mem
      rw [if_neg (by simp only [beq_iff_eq]; omega)] at accepted
      refine ⟨_, exec_ggo.trans (congrArg _ accepted), rfl, fun b mem => ?_⟩
      simp only [State.axState_answer, State.ax_answer, State.axis_answer]
      exact State.joined_member sound distinct mem held _ _ _

/-- Settles O49: the two families of clauses. -/
theorem axisSettingsAndGroups : Obligations.AxisSettingsAndGroups := ⟨axisSettings, interpolationGroups⟩

end Sys2Proof.Proofs
end

section
/-! SUPPORT. The arithmetic of the profile (R266, R271): the bounds of the next speed, and the steps on a path. -/

namespace Sys2Proof.Machine

/-! ### Towards zero -/

/-- Towards zero along the sign is towards zero. -/
theorem sign_mul_toward0 {v d : Int} (pos : 0 ≤ d) : v.sign * toward0 v.natAbs d = toward0 v d := by
  rcases Int.lt_trichotomy v 0 with negative | zero | positive
  · have size : (v.natAbs : Int) = -v := by omega
    rw [Int.sign_eq_neg_one_of_neg negative, size]
    unfold toward0
    rw [if_pos (show 0 ≤ -v by omega), if_neg (show ¬ 0 ≤ v by omega)]
    split <;> omega
  · subst zero
    simp [toward0, pos]
  · have size : (v.natAbs : Int) = v := by omega
    rw [Int.sign_eq_one_of_pos positive, size, Int.one_mul]

/-! ### Without a jerk limit (R266) -/

/-- A speed that may follow `v` under the limits of acceleration and deceleration, up to `top`. -/
def Limits.admits (l : Limits) (v top w : Int) : Prop := 0 ≤ w ∧ w ≤ top ∧ w ≤ v + l.up ∧ v ≤ w + l.dn

section
variable {l : Limits} (smooth : l.jerk = 0) {v a : Int} (pos : 0 ≤ v) (up : 0 ≤ l.up) (dn : 0 ≤ l.dn)
include smooth pos up dn

/-- A run to standstill goes towards zero by the deceleration. -/
theorem Limits.freeSpeed_zero : l.freeSpeed v a 0 = toward0 v l.dn := by
  unfold Limits.freeSpeed toward0
  rw [if_pos (by simp [smooth]), if_pos pos]
  split <;> split <;> omega

theorem Limits.freeSpeed_admitted {goal top : Int} (goes : 0 ≤ goal) (slow : v ≤ top) (limit : goal ≤ top) :
    l.admits v top (l.freeSpeed v a goal) := by
  unfold Limits.freeSpeed Limits.admits
  rw [if_pos (by simp [smooth])]
  split <;> omega

theorem Limits.speedIn_admitted {goal top room : Int} (goes : 0 ≤ goal) (slow : v ≤ top) (limit : goal ≤ top) :
    l.admits v top (l.speedIn v a goal room) := by
  have free := Limits.freeSpeed_admitted smooth pos up dn goes slow limit (a := a)
  unfold Limits.admits at free ⊢
  unfold Limits.speedIn
  rw [if_pos (by simp [smooth])]
  omega

end

/-! ### Steps on a path (R266) -/

/-- On a path of no more than `k` microsteps no more than `k` steps begin. -/
theorem stepsOn_le {frac path : Int} {k : Nat} (short : frac + path ≤ k * stepUnit) : (stepsOn frac path).1 ≤ k := by
  simp only [stepsOn, stepUnit] at short ⊢
  rw [Int.fdiv_eq_ediv_of_nonneg _ (by decide)]
  omega

/-! ### The next speed of an axis that moves alone (R266, R267, R271) -/

section
variable {s : State} {a : Nat} (alone : (s.axis a).lead = none)
include alone

theorem State.limits_of_alone : s.limits a =
    { up := s.fld (R.GLS_ACC a) F.GLS_ACC_ACC * accUnit, dn := s.fld (R.GLS_DEC a) F.GLS_DEC_DEC * accUnit,
      jerk := s.fld (R.GLS_JERK a) F.GLS_JERK_JERK } := by
  rw [State.limits, State.paramAxis, alone]
  rfl

/-- An axis that travels heads where it travels. -/
theorem State.heading_of_travel (travels : (s.axis a).fine ≠ 0) : s.heading a = (s.axis a).fine.sign := by
  rw [State.heading, alone]
  exact (if_neg (by simp)).trans (if_pos (by simpa using travels))

theorem State.heading_of_still (still : (s.axis a).fine = 0) : s.heading a = (s.axis a).motion.sign (s.axPos a) := by
  rw [State.heading, alone, still]
  rfl

/-- An axis that travels has a heading. -/
theorem State.heading_cases : s.heading a = 1 ∨ s.heading a = -1 ∨ s.heading a = 0 ∧ (s.axis a).fine = 0 := by
  by_cases still : (s.axis a).fine = 0
  · have signs : s.heading a = 1 ∨ s.heading a = 0 ∨ s.heading a = -1 := by
      rw [State.heading_of_still alone still]
      unfold Motion.sign
      split
      · exact .inr (.inl rfl)
      · exact Int.sign_trichotomy _
      · exact Int.sign_trichotomy _
    omega
  · rw [State.heading_of_travel alone still]
    rcases Int.lt_or_gt_of_ne still with negative | positive
    · exact .inr (.inl (Int.sign_eq_neg_one_of_neg negative))
    · exact .inl (Int.sign_eq_one_of_pos positive)

/-- The speed taken towards zero, along the heading. -/
theorem State.heading_mul_toward0 {d : Int} (pos : 0 ≤ d) :
    s.heading a * toward0 (s.axis a).fine.natAbs d = toward0 (s.axis a).fine d := by
  by_cases still : (s.axis a).fine = 0
  · rw [still]
    simp [toward0, pos]
  · rw [State.heading_of_travel alone still, sign_mul_toward0 pos]

theorem State.nextSpeed_of_emergency (ramps : s.axState a = 4) : s.nextSpeed a =
    toward0 (s.axis a).fine.natAbs (s.fld (R.GLS_EDEC a) F.GLS_EDEC_EDEC * accUnit) := by
  rw [State.nextSpeed, alone]
  exact if_pos (by simp [ramps, axEmergency])

variable (smooth : s.fld (R.GLS_JERK a) F.GLS_JERK_JERK = 0)
include smooth

theorem State.smooth_limits : (s.limits a).jerk = 0 ∧ 0 ≤ (s.limits a).up ∧ 0 ≤ (s.limits a).dn := by
  rw [State.limits_of_alone alone, smooth]
  unfold accUnit
  exact ⟨rfl, by dsimp only; omega, by dsimp only; omega⟩

theorem State.nextSpeed_of_stopping (stops : s.axState a = 3) : s.nextSpeed a =
    toward0 (s.axis a).fine.natAbs (s.fld (R.GLS_DEC a) F.GLS_DEC_DEC * accUnit) := by
  obtain ⟨flat, up, dn⟩ := State.smooth_limits alone smooth
  have aim : s.aim a = .stop := if_pos (by simp [stops, axStopping])
  have free := Limits.freeSpeed_zero flat (Int.natCast_nonneg (s.axis a).fine.natAbs) up dn (a := s.heading a * (s.axis a).acc)
  rw [State.nextSpeed, if_neg (by simp [stops, axEmergency]), aim]
  dsimp only
  rw [State.freeSpeed, aim]
  rw [State.limits_of_alone alone] at free ⊢
  exact free

/-- A move without a jerk limit keeps to the limits of its parameters. -/
theorem State.nextSpeed_admitted (moves : s.axState a = 2) {q : Int} (motion : (s.axis a).motion = .toTarget q)
    (slow : (s.axis a).fine.natAbs ≤ s.fld (R.GLS_VMAX a) F.GLS_VMAX_VMAX * velUnit) :
    (s.limits a).admits (s.axis a).fine.natAbs (s.fld (R.GLS_VMAX a) F.GLS_VMAX_VMAX * velUnit) (s.nextSpeed a) := by
  obtain ⟨flat, up, dn⟩ := State.smooth_limits alone smooth
  have pos := Int.natCast_nonneg (s.axis a).fine.natAbs
  have top : (0 : Int) ≤ s.fld (R.GLS_VMAX a) F.GLS_VMAX_VMAX * velUnit := by unfold velUnit; omega
  have own : s.paramAxis a = a := by rw [State.paramAxis, alone]; rfl
  have aim : s.aim a = .stop ∨ ∃ room, s.aim a = .target room := by
    unfold State.aim
    dsimp only
    rw [motion, alone]
    dsimp only
    split
    · exact .inl rfl
    · rw [if_neg (by simp)]
      split
      · exact .inl rfl
      · exact .inr ⟨_, rfl⟩
  rw [State.nextSpeed, if_neg (by simp [moves, axEmergency])]
  rcases aim with stop | ⟨room, target⟩
  · rw [stop]
    dsimp only
    rw [State.freeSpeed, stop]
    exact Limits.freeSpeed_admitted flat pos up dn (Int.le_refl 0) slow top
  · rw [target]
    dsimp only
    rw [own]
    exact Limits.speedIn_admitted flat pos up dn top slow (Int.le_refl _)

end

end Sys2Proof.Machine
end

section
/-! SUPPORT. The rules of an update of 25 µs (R261, R264–R266): the steps of an axis that moves alone, and a period of its
current loops. -/

namespace Sys2Proof.Machine

/-! ### The tables at a full-step boundary (R265) -/

/-- The microstep tables and their staging copies stand above the registers of the axes. -/
def inTables (r : Nat) : Prop := R.GLS_TBL 0 0 0 ≤ r

theorem not_inTables_AXST {a : Nat} (exists_ : a < 6) : ¬ inTables (R.GLS_AXST a) := by
  simp only [inTables, R.GLS_TBL, R.GLS_AXST]
  omega

theorem not_inTables_POS {a : Nat} (exists_ : a < 6) : ¬ inTables (R.GLS_POS a) := by
  simp only [inTables, R.GLS_TBL, R.GLS_POS]
  omega

theorem inTables_TBL (a t k : Nat) : inTables (R.GLS_TBL a t k) := by
  simp only [inTables, R.GLS_TBL]
  omega

theorem GLS_AXST_ne_POS (a b : Nat) : R.GLS_AXST a ≠ R.GLS_POS b := by
  simp only [R.GLS_AXST, R.GLS_POS]
  omega

theorem GLS_AXST_ne_VEL (a b : Nat) : R.GLS_AXST a ≠ R.GLS_VEL b := by
  simp only [R.GLS_AXST, R.GLS_VEL]
  omega

theorem GLS_POS_ne_VEL (a b : Nat) : R.GLS_POS a ≠ R.GLS_VEL b := by
  simp only [R.GLS_VEL, R.GLS_POS]
  omega

theorem State.axis_wrAll (s : State) (l : List (Nat × Word)) (b : Nat) : (s.wrAll l).axis b = s.axis b := rfl

theorem State.publish_writes (s : State) (a t : Nat) : s.WritesOnly inTables (s.publish a t) := by
  refine ⟨State.publish_keeps (.refl s), fun sound r below => ?_⟩
  rw [State.rd, State.publish, State.wrAll_regs]
  refine tabGet_tabSetAll_eq (State.sound.regs sound) (fun e mem at_ => absurd ?_ below) (.inr rfl)
  obtain ⟨k, -, rfl⟩ := List.mem_map.1 mem
  exact at_ ▸ inTables_TBL a t k

/-- An update of the tables writes the tables and the status word of its axis, of that the bits TSEL and TBLPEND only. -/
structure State.Tables (a : Nat) (s t : State) : Prop where
  writes : s.WritesOnly (fun r => inTables r ∨ r = R.GLS_AXST a) t
  state : s.sound = true → t.axState a = s.axState a
  fine : s.sound = true → (t.axis a).fine = (s.axis a).fine

namespace State.Tables

variable {a : Nat} {s t u : State}

theorem refl (s : State) : Tables a s s := ⟨.refl s, fun _ => rfl, fun _ => rfl⟩

theorem trans (h : Tables a s t) (g : Tables a t u) : Tables a s u :=
  ⟨h.writes.trans g.writes, fun sound => (g.state (h.writes.sound sound)).trans (h.state sound),
    fun sound => (g.fine (h.writes.sound sound)).trans (h.fine sound)⟩

theorem setAx {f : Fld} {v : Nat} (h : Tables a s t) (low : f.lo + f.width ≤ 29) : Tables a s (t.setAx a f v) :=
  h.trans ⟨.setFld (.inr rfl), fun sound => State.fld_setFld_ne sound (by decide) (.inr low), fun _ => rfl⟩

end State.Tables

theorem State.applyTbl_tables {a : Nat} (exists_ : a < 6) (s : State) : s.Tables a (s.applyTbl a) := by
  have published (t : Nat) : s.Tables a (s.publish a t) :=
    ⟨(s.publish_writes a t).mono fun _ => .inl,
      fun sound => congrArg (fldOf F.GLS_AXST_STATE)
        ((s.publish_writes a t).regs sound _ (not_inTables_AXST exists_)),
      fun _ => congrArg AxisSt.fine (State.axis_wrAll s _ a)⟩
  unfold State.applyTbl
  split
  · exact .refl s
  next t switch publish _ =>
    have first : s.Tables a (if publish then s.publish a t.toNat else s) := by
      split
      · exact published _
      · exact .refl s
    have second : s.Tables a (if switch then (if publish then s.publish a t.toNat else s).setAx a F.GLS_AXST_TSEL t.toNat
        else (if publish then s.publish a t.toNat else s)) := by
      split
      · exact first.setAx (by decide)
      · exact first
    refine (second.trans ?_).setAx (by decide)
    exact ⟨⟨State.setAxis_keeps (.refl _), fun _ _ _ => rfl⟩, fun _ => rfl,
      fun sound => (congrArg AxisSt.fine (State.axis_setAxis_same sound)).trans rfl⟩

/-! ### Steps (R262, R264) -/

theorem State.stepTo_tables {a : Nat} (exists_ : a < 6) (s : State) (q : Int) :
    (s.setSfld (R.GLS_POS a) F.GLS_POS_POS q).Tables a (s.stepTo a q) := by
  unfold State.stepTo State.applyIf
  dsimp only
  split
  · exact State.applyTbl_tables exists_ _
  · exact .refl _

section
variable {s : State} (sound : s.sound = true) {a : Nat} (exists_ : a < 6)
include sound exists_

theorem State.axState_stepTo (q : Int) : (s.stepTo a q).axState a = s.axState a :=
  ((State.stepTo_tables exists_ s q).state (State.sound_setFld sound)).trans
    (State.fld_setFld_other sound (GLS_AXST_ne_POS a a))

theorem State.fine_stepTo (q : Int) : ((s.stepTo a q).axis a).fine = (s.axis a).fine :=
  (State.stepTo_tables exists_ s q).fine (State.sound_setFld sound)

theorem State.axPos_stepTo {q : Int} (fits : inSpan q = true) : (s.stepTo a q).axPos a = q := by
  have hidden : ¬ (inTables (R.GLS_POS a) ∨ R.GLS_POS a = R.GLS_AXST a) :=
    not_or.2 ⟨not_inTables_POS exists_, (GLS_AXST_ne_POS a a).symm⟩
  refine Eq.trans ?_ (State.sfld_setSfld_word sound fits (r := R.GLS_POS a))
  exact congrArg (fun w => signOf 32 (fldOf F.GLS_POS_POS w))
    ((State.stepTo_tables exists_ s q).writes.regs (State.sound_setFld sound) _ hidden)

theorem State.sound_stepTo (q : Int) : (s.stepTo a q).sound = true :=
  (State.stepTo_tables exists_ s q).writes.sound (State.sound_setFld sound)

variable (d : Int) (n : Nat)

theorem State.axState_makeSteps : (s.makeSteps a d n).axState a = s.axState a := State.axState_stepTo sound exists_ _

theorem State.axPos_makeSteps (fits : inSpan (s.axPos a + d * n) = true) :
    (s.makeSteps a d n).axPos a = s.axPos a + d * n := State.axPos_stepTo sound exists_ fits

theorem State.fine_makeSteps : ((s.makeSteps a d n).axis a).fine = (s.axis a).fine :=
  (congrArg AxisSt.fine (State.axis_setAxis_same (State.sound_stepTo sound exists_ _))).trans
    (State.fine_stepTo sound exists_ _)

end

/-! ### The update of an axis that moves alone (R266) -/

section
variable {s : State} (sound : s.sound = true) {a : Nat} (exists_ : a < 6)
include sound exists_

/-- The speed is set, the steps are made, the velocity is shown. -/
theorem State.soloUpdate_spec : let u := s.soloUpdate a
    let n := (stepsOn (s.heading a * (s.axis a).frac) ((s.axis a).fine.natAbs + s.nextSpeed a)).1
    u.sound = true ∧ (u.axis a).fine = s.heading a * s.nextSpeed a ∧ u.axState a = s.axState a ∧
      (inSpan (s.axPos a + s.heading a * n) = true → u.axPos a = s.axPos a + s.heading a * n) := by
  intro u n
  obtain ⟨m, eq⟩ : ∃ m, s.soloUpdate a = ((s.setAxis a m).makeSteps a (s.heading a) n).setSfld (R.GLS_VEL a) F.GLS_VEL_VEL
      (shownVel (s.heading a * s.nextSpeed a)) ∧ m.fine = s.heading a * s.nextSpeed a := ⟨_, rfl, rfl⟩
  obtain ⟨eq, fine⟩ := eq
  have set_ := State.sound_setAxis sound (a := a) (x := m)
  have stepped : ((s.setAxis a m).makeSteps a (s.heading a) n).sound = true := (State.makeSteps_keeps (.refl _)).sound set_
  refine ⟨(State.soloUpdate_keeps (.refl s)).sound sound, ?_, ?_, fun fits => ?_⟩
  · rw [show u = _ from eq, State.axis_setSfld, State.fine_makeSteps set_ exists_, State.axis_setAxis_same sound, fine]
  · rw [show u = _ from eq]
    exact (State.fld_setFld_other stepped (GLS_AXST_ne_VEL a a)).trans (State.axState_makeSteps set_ exists_ _ _)
  · rw [show u = _ from eq]
    refine Eq.trans ?_ (State.axPos_makeSteps set_ exists_ _ _ fits)
    exact congrArg (signOf 32) (State.fld_setFld_other stepped (GLS_POS_ne_VEL a a))

end

section
variable {s : State} {a : Nat} (alone : (s.axis a).lead = none)
include alone

theorem State.profile_of_motion (moves : s.axMoves a = true) : s.profile a = (s.soloUpdate a).homeOn a := by
  rw [State.profile, alone]
  exact if_pos moves

theorem State.profile_of_rest (rests : s.axMoves a = false) : s.profile a = s := by
  rw [State.profile, alone]
  exact if_neg (by simp [rests])

end

theorem State.homeOn_of_other {s : State} {a : Nat} (other : s.axState a ≠ 6) : s.homeOn a = s :=
  if_pos (by simp [axHoming, other])

/-! ### A period of the current loops (R261, R263) -/

theorem clampInt_bounds {lo hi : Int} (order : lo ≤ hi) (x : Int) : lo ≤ clampInt lo hi x ∧ clampInt lo hi x ≤ hi := by
  unfold clampInt
  split
  · omega
  · split <;> omega

/-- The duty follows the sign of the setpoint, within a period. -/
theorem loopStep_bounds (kp ki : Nat) (set meas integral : Int) :
    (0 ≤ set → 0 ≤ (loopStep kp ki set meas integral).1 ∧ (loopStep kp ki set meas integral).1 ≤ 2500) ∧
      (set < 0 → -2500 ≤ (loopStep kp ki set meas integral).1 ∧ (loopStep kp ki set meas integral).1 ≤ 0) := by
  unfold loopStep
  dsimp only
  constructor
  · intro pos
    rw [if_pos pos]
    exact clampInt_bounds (by decide) _
  · intro negative
    rw [if_neg (by omega)]
    exact clampInt_bounds (by decide) _

theorem loopStep_natAbs (kp ki : Nat) (set meas integral : Int) :
    (loopStep kp ki set meas integral).1.natAbs ≤ 2500 := by
  obtain ⟨positive, negative⟩ := loopStep_bounds kp ki set meas integral
  rcases Int.lt_or_le set 0 with below | above
  · have := negative below
    omega
  · have := positive above
    omega

section
variable {s : State} (sound : s.sound = true) (a : Nat) (i : Int × Int)

theorem State.loops_of_driven (driven : s.phasesDriven a = true) : s.loops a i = s.loopPeriod a i := if_pos driven

theorem State.loops_of_idle (idle : s.phasesDriven a = false) : s.loops a i = s.loopRest a := if_neg (by simp [idle])

/-- A period writes of the registers the measured currents only. -/
theorem State.loops_writes (s : State) (a : Nat) (i : Int × Int) : s.WritesOnly (· = R.GLS_IMEAS a) (s.loops a i) := by
  have record (x : AxisSt) : s.WritesOnly (· = R.GLS_IMEAS a) (s.setAxis a x) :=
    ⟨State.setAxis_keeps (.refl s), fun _ _ _ => rfl⟩
  unfold State.loops
  split
  · exact ((record _).trans (.setFld rfl)).trans (.setFld rfl)
  · unfold State.loopRest
    dsimp only
    split
    · exact (record _).trans (.wr rfl)
    · exact record _

include sound

theorem State.axis_loopRest : (s.loopRest a).axis a =
    { s.axis a with dutyA := 0, dutyB := 0, intA := 0, intB := 0, offA := 0, offB := 0 } := by
  unfold State.loopRest
  dsimp only
  split <;> exact State.axis_setAxis_same sound

/-- What one period makes of phase A, and of phase B. -/
def State.stepA (s : State) (a : Nat) (i : Int) : Int × Int :=
  loopStep (s.fld (R.GLS_LOOP a) F.GLS_LOOP_KP) (s.fld (R.GLS_LOOP a) F.GLS_LOOP_KI) (s.setpoints a).1 i (s.axis a).intA

def State.stepB (s : State) (a : Nat) (i : Int) : Int × Int :=
  loopStep (s.fld (R.GLS_LOOP a) F.GLS_LOOP_KP) (s.fld (R.GLS_LOOP a) F.GLS_LOOP_KI) (s.setpoints a).2 i (s.axis a).intB

theorem State.axis_loopPeriod : ((s.loopPeriod a i).axis a).dutyA = (s.stepA a i.1).1 ∧
    ((s.loopPeriod a i).axis a).dutyB = (s.stepB a i.2).1 ∧ ((s.loopPeriod a i).axis a).fine = (s.axis a).fine :=
  ⟨(congrArg AxisSt.dutyA (State.axis_setAxis_same sound)).trans rfl,
    (congrArg AxisSt.dutyB (State.axis_setAxis_same sound)).trans rfl,
    (congrArg AxisSt.fine (State.axis_setAxis_same sound)).trans rfl⟩

theorem State.fine_loops : ((s.loops a i).axis a).fine = (s.axis a).fine := by
  cases driven : s.phasesDriven a with
  | true => rw [State.loops_of_driven a i driven, (State.axis_loopPeriod sound a i).2.2]
  | false => rw [State.loops_of_idle a i driven, State.axis_loopRest sound]

theorem State.duties_of_idle (idle : s.phasesDriven a = false) :
    ((s.loops a i).axis a).dutyA = 0 ∧ ((s.loops a i).axis a).dutyB = 0 := by
  rw [State.loops_of_idle a i idle, State.axis_loopRest sound]
  exact ⟨rfl, rfl⟩

theorem State.duties_of_driven (driven : s.phasesDriven a = true) :
    ((s.loops a i).axis a).dutyA = (s.stepA a i.1).1 ∧ ((s.loops a i).axis a).dutyB = (s.stepB a i.2).1 := by
  obtain ⟨dutyA, dutyB, -⟩ := State.axis_loopPeriod sound a i
  rw [State.loops_of_driven a i driven]
  exact ⟨dutyA, dutyB⟩

theorem State.duties_bounded :
    ((s.loops a i).axis a).dutyA.natAbs ≤ 2500 ∧ ((s.loops a i).axis a).dutyB.natAbs ≤ 2500 := by
  cases driven : s.phasesDriven a with
  | true =>
    obtain ⟨dutyA, dutyB⟩ := State.duties_of_driven sound a i driven
    rw [dutyA, dutyB]
    exact ⟨loopStep_natAbs _ _ _ _ _, loopStep_natAbs _ _ _ _ _⟩
  | false =>
    obtain ⟨dutyA, dutyB⟩ := State.duties_of_idle sound a i driven
    rw [dutyA, dutyB]
    decide

theorem State.axState_loops : (s.loops a i).axState a = s.axState a :=
  (s.loops_writes a i).fld sound _ (by simp [R.GLS_AXST, R.GLS_IMEAS])

theorem State.axPos_loops : (s.loops a i).axPos a = s.axPos a :=
  congrArg (signOf 32) ((s.loops_writes a i).fld sound F.GLS_POS_POS (by simp [R.GLS_POS, R.GLS_IMEAS]))

/-- GLS_IMEAS shows the two currents of the period. -/
theorem State.imeas_loopPeriod (low : -32768 ≤ i.1 ∧ -32768 ≤ i.2) (high : i.1 < 32768 ∧ i.2 < 32768) :
    (s.loopPeriod a i).sfld (R.GLS_IMEAS a) F.GLS_IMEAS_IA = i.1 ∧
      (s.loopPeriod a i).sfld (R.GLS_IMEAS a) F.GLS_IMEAS_IB = i.2 := by
  obtain ⟨x, eq⟩ : ∃ x, s.loopPeriod a i = ((s.setAxis a x).setSfld (R.GLS_IMEAS a) F.GLS_IMEAS_IA i.1).setSfld
      (R.GLS_IMEAS a) F.GLS_IMEAS_IB i.2 := ⟨_, rfl⟩
  have record := State.sound_setAxis sound (a := a) (x := x)
  have first : ((s.setAxis a x).setSfld (R.GLS_IMEAS a) F.GLS_IMEAS_IA i.1).sound = true := State.sound_setFld record
  rw [eq]
  constructor
  · refine Eq.trans ?_ (State.sfld_setSfld_same (k := 15) record (r := R.GLS_IMEAS a) (f := F.GLS_IMEAS_IA) (by decide) rfl
      low.1 high.1)
    exact congrArg (signOf 16) (State.fld_setFld_ne first (by decide) (by decide))
  · exact State.sfld_setSfld_same (k := 15) first (by decide) rfl low.2 high.2

end

end Sys2Proof.Machine
end

section
/-! SUPPORT. The rules of the ends of moves and ramps (R261, R267, R271), and the statements of the profile of an axis. -/

namespace Sys2Proof.Machine

theorem State.startQueued_of_none {s : State} {a : Nat} (empty : (s.axis a).queued = none) : s.startQueued a = s := by
  rw [State.startQueued, empty]

section
variable {s : State} {a : Fin 6} (on : s.islandOn 13 = true)
include on

theorem exec_profileUpdate {ia ib : BitVec 12} :
    exec (.profileUpdate a ia ib) s = .next ((s.profile a).loops a (adcCount ia, adcCount ib)) := congrArg _ (if_pos on)

section
variable (alone : (s.axis a).lead = none)
include alone

theorem exec_moveComplete_of_alone (sound : s.sound = true) (ends : s.moveEnds a = true)
    (empty : (s.axis a).queued = none) : exec (.moveComplete a) s = .next (s.rest a axStandstill) := by
  have rested : ((s.rest a axStandstill).axis a).queued = none := by
    rw [State.axis_rest sound]
    exact empty
  refine (congrArg Host.Outcome.next (if_pos (by rw [on, ends]; rfl))).trans ?_
  rw [State.axGroup_of_alone alone, List.filter_cons_of_pos (by simp)]
  exact congrArg Host.Outcome.next (State.startQueued_of_none rested)

theorem exec_emergencyRampEnd_of_alone (ramps : s.axState a = 4) (stands : (s.axis a).fine = 0) :
    exec (.emergencyRampEnd a) s = .next (s.rest a axHalted) := by
  have holder : s.holder a = a := by rw [State.holder, alone]; rfl
  refine (congrArg Host.Outcome.next (if_pos (by rw [on, holder, stands, ramps]; rfl))).trans ?_
  rw [State.axGroup_of_alone alone, List.filter_cons_of_pos (by rw [ramps]; rfl)]
  rfl

end

theorem exec_iholdTimer_of_rest (rests : s.axState a = 1 ∨ s.axState a = 5) : exec (.iholdTimer a) s =
    .next ((s.atTime ((s.axis a).restAt + 100000000)).setAxis a { s.axis a with ihold := true }) := by
  have after : iholdAfter = 100000000 := rfl
  rw [← after]
  exact congrArg Host.Outcome.next (if_pos (by rcases rests with st | st <;> rw [on, st] <;> rfl))

end

theorem exec_iholdTimer_of_other {s : State} {a : Fin 6} (rests : s.axState a ≠ 1) (halts : s.axState a ≠ 5) :
    exec (.iholdTimer a) s = .next s :=
  congrArg Host.Outcome.next (if_neg (by simp [axStandstill, axHalted, rests, halts]))

end Sys2Proof.Machine

open Sys2Proof Sys2Proof.Machine

namespace Sys2Proof.Proofs

/-- The path of one update, along the way to a target ahead. -/
theorem stepsAhead {s : State} {a : Nat} (alone : (s.axis a).lead = none) {p q : Int} (place : s.axPos a = p)
    (ahead : p < q) (motion : (s.axis a).motion = .toTarget q) (forward : 0 ≤ (s.axis a).fine) : s.heading a = 1 := by
  rcases Int.lt_or_eq_of_le forward with travels | still
  · rw [State.heading_of_travel alone (by omega), Int.sign_eq_one_of_pos travels]
  · rw [State.heading_of_still alone still.symm, motion, place]
    exact Int.sign_eq_one_of_pos (by omega)

theorem axisProfile : Clauses.AxisProfile := by
  unfold Clauses.AxisProfile
  intro s a p q ia ib on sound alone
  dsimp only
  have exists_ : (a : Nat) < 6 := a.isLt
  refine ⟨fun low high => ?moving, fun rests => ?resting, fun ends empty => ?completes, fun runs => ?runs,
    fun ramps stands => ?halts, fun rests => ?hold, fun other => ?holdsNot⟩
  case moving =>
    obtain ⟨sound', fine, state, pos⟩ := State.soloUpdate_spec sound exists_
    have moves : s.axMoves a = true := by
      simp only [State.axMoves, axMoving, axStopping, axEmergency, axHoming, Bool.or_eq_true, beq_iff_eq]
      omega
    have exec_eq := exec_profileUpdate on (a := a) (ia := ia) (ib := ib)
    rw [State.profile_of_motion alone moves, State.homeOn_of_other (by omega)] at exec_eq
    have fine_u := (State.fine_loops sound' a (adcCount ia, adcCount ib)).trans fine
    have pos_u := State.axPos_loops sound' a (adcCount ia, adcCount ib)
    refine ⟨_, exec_eq, fine_u, (State.axState_loops sound' a _).trans state, fun fits => pos_u.trans (pos fits),
      fun ramps => ?_, fun stops smooth => ?_, fun run motion => ⟨fun smooth slow => ?_, ?_⟩⟩
    · rw [fine_u, State.nextSpeed_of_emergency alone ramps]
      exact State.heading_mul_toward0 alone (by unfold accUnit; omega)
    · rw [fine_u, State.nextSpeed_of_stopping alone smooth stops]
      exact State.heading_mul_toward0 alone (by unfold accUnit; omega)
    · obtain ⟨pos, top, up, dn⟩ := State.nextSpeed_admitted alone smooth run motion slow
      rw [State.limits_of_alone alone] at up dn
      rw [fine_u]
      simp only [velUnit, accUnit] at top up dn ⊢
      rcases State.heading_cases alone with heading | heading | ⟨heading, still⟩ <;> rw [heading] <;> omega
    · intro place ahead fits forward onPath short
      rw [stepsAhead alone place ahead motion forward] at pos
      have steps := stepsOn_le (frac := 1 * (s.axis a).frac) (path := (s.axis a).fine.natAbs + s.nextSpeed a)
        (k := (q - p).toNat) (by unfold stepUnit; omega)
      obtain ⟨lowest, -⟩ := inSpan_iff.1 (s.inSpan_axPos a)
      obtain ⟨-, highest⟩ := inSpan_iff.1 fits
      rw [pos_u, pos (inSpan_iff.2 (by omega))]
      omega
  case resting =>
    have still : s.axMoves a = false := by
      simp only [State.axMoves, axMoving, axStopping, axEmergency, axHoming, Bool.or_eq_false_iff, beq_eq_false_iff_ne]
      omega
    have exec_eq := exec_profileUpdate on (a := a) (ia := ia) (ib := ib)
    rw [State.profile_of_rest alone still] at exec_eq
    refine ⟨_, exec_eq, fun driven => ?_, fun idle => ?_, ?_, ?_, State.axPos_loops sound a _, State.axState_loops sound a _⟩
    · have low := ia.isLt
      have low' := ib.isLt
      rw [State.loops_of_driven a _ driven]
      exact State.imeas_loopPeriod sound a _ (by simp only [adcCount]; omega) (by simp only [adcCount]; omega)
    · exact State.duties_of_idle sound a _ idle
    · exact State.duties_bounded sound a _
    · intro driven
      obtain ⟨positive, negative⟩ := loopStep_bounds (s.fld (R.GLS_LOOP a) F.GLS_LOOP_KP)
        (s.fld (R.GLS_LOOP a) F.GLS_LOOP_KI) (s.setpoints a).1 (adcCount ia) (s.axis a).intA
      rw [(State.duties_of_driven sound a _ driven).1]
      exact ⟨fun set => (positive set).1, fun set => (negative set).2⟩
  case completes =>
    have rested := State.axis_rest sound a axStandstill
    refine ⟨_, exec_moveComplete_of_alone on alone sound ends empty, State.axState_rest sound _ _ (by decide),
      State.vel_rest sound _ _, ?_, (s.rest_actsOn a _).axPos sound _, fun unhomed => ?_, fun homed => ?_⟩
    · rw [rested]
      rfl
    · rw [State.mor_rest, State.noteHomed_of_none unhomed]
    · rw [State.mor_rest, State.noteHomed_of_some homed]
      rfl
  case runs => exact congrArg Host.Outcome.next (if_neg (by simp [runs]))
  case halts =>
    exact ⟨_, exec_emergencyRampEnd_of_alone on alone ramps stands, State.axState_rest sound _ _ (by decide),
      (s.rest_actsOn a _).axPos sound _⟩
  case hold => rw [exec_iholdTimer_of_rest on rests, State.axis_atTime]
  case holdsNot => exact exec_iholdTimer_of_other (by omega) (by omega)

/-- Settles O48: the three families of clauses. The profile runs in updates of 25 µs (log 43); the layout of the data of E50
is log 35. -/
theorem axisMotion : Obligations.AxisMotion := ⟨axisMoves, axisRunAndStop, axisProfile⟩

end Sys2Proof.Proofs
end

section
/-! SUPPORT. The rules of the faults, the lines and the end limits of an axis (R263, R271, R273, R274). -/

namespace Sys2Proof.Machine

/-! ### A bit that sets once, with its event -/

/-- Bit `f` of axis `a` sets; its event is recorded as it does. -/
def State.noteBit (s : State) (a : Nat) (f : Fld) (code data : Nat) : State :=
  if s.ax a f == 0 then (s.setAx a f 1).raise code a data else s

section
variable {a : Nat} {f : Fld} {code data : Nat}

theorem State.noteBit_actsOn (s : State) : s.ActsOn a (s.noteBit a f code data) := by
  unfold State.noteBit
  split
  · exact (State.ActsOn.refl s).setAx.raise
  · exact .refl s

@[simp] theorem State.axis_noteBit (s : State) (b : Nat) : (s.noteBit a f code data).axis b = s.axis b := by
  unfold State.noteBit
  split <;> rfl

variable {s : State} (sound : s.sound = true)
include sound

theorem State.ax_noteBit_same (bit : f.width = 1) (inside : f.lo + f.width ≤ 32) :
    (s.noteBit a f code data).ax a f = 1 := by
  unfold State.noteBit
  split
  next => exact (State.fld_setFld_same sound inside).trans (by rw [bit]; rfl)
  next set_ =>
    have below : s.ax a f < 2 ^ f.width := fldOf_lt _ _
    rw [bit] at below
    have above : s.ax a f ≠ 0 := by simpa using set_
    omega

theorem State.ax_noteBit_apart {g : Fld} (inside : g.lo + g.width ≤ 32)
    (apart : g.lo + g.width ≤ f.lo ∨ f.lo + f.width ≤ g.lo) : (s.noteBit a f code data).ax a g = s.ax a g := by
  unfold State.noteBit
  split
  · exact State.fld_setFld_ne sound inside apart
  · rfl

end

/-! ### A driver fault (R263) -/

theorem State.leaveGroup_of_alone {s : State} {a : Nat} (alone : (s.axis a).lead = none) : s.leaveGroup a = s := by
  rw [State.leaveGroup, alone]

/-- DRVFLT sets, with E51. -/
def State.faultNoted (s : State) (a : Nat) : State :=
  s.noteBit a F.GLS_AXST_DRVFLT 0x51 (s.axMode a + 256 * s.fld (R.GLS_POS a) F.GLS_POS_POS)

/-- A moving axis as it takes a driver fault: it must be enabled again, and its reference is lost. -/
def State.faultTaken (s : State) (a : Nat) : State :=
  ((s.faultNoted a).setAxis a { (s.faultNoted a).axis a with rearmed := false, nflt := true }).setAx a F.GLS_AXST_REF 0

theorem State.driverFault_eq {s : State} {a : Nat} (travels : s.axMoves a = true) : s.driverFault a =
    (let u := s.faultTaken a
     if u.axState a == axDisabled then u
     else if u.axMode a == 1 then
       (((if u.axState a == axHoming then u.homeFails a 3 else u).leaveGroup a).emptyQueue a).rest a axHalted
     else if u.axMode a == 2 then u.emergency a 3 else u) := by
  unfold State.driverFault
  rw [travels]
  rfl

theorem State.faultNoted_actsOn (s : State) (a : Nat) : s.ActsOn a (s.faultNoted a) := s.noteBit_actsOn

theorem State.faultTaken_actsOn (s : State) (a : Nat) : s.ActsOn a (s.faultTaken a) := (s.faultNoted_actsOn a).setAxis.setAx

section
variable {s : State} (sound : s.sound = true) {a : Nat}
include sound

theorem State.axis_faultTaken : (s.faultTaken a).axis a = { s.axis a with rearmed := false, nflt := true } := by
  rw [State.faultTaken, State.axis_setAx, State.axis_setAxis_same ((s.faultNoted_actsOn a).sound sound), State.faultNoted,
    State.axis_noteBit]

theorem State.ax_faultTaken {f : Fld} (inside : f.lo + f.width ≤ 32) (apart : f.lo + f.width ≤ 28 ∨ 29 ≤ f.lo) :
    (s.faultTaken a).ax a f = (s.faultNoted a).ax a f :=
  State.fld_setFld_ne ((s.faultNoted_actsOn a).setAxis.sound sound) inside apart

theorem State.ax_DRVFLT_faultTaken : (s.faultTaken a).ax a F.GLS_AXST_DRVFLT = 1 :=
  (State.ax_faultTaken sound (by decide) (by decide)).trans (State.ax_noteBit_same sound rfl (by decide))

theorem State.axState_faultTaken : (s.faultTaken a).axState a = s.axState a :=
  (State.ax_faultTaken sound (by decide) (by decide)).trans (State.ax_noteBit_apart sound (by decide) (by decide))

theorem State.ax_REF_faultTaken : (s.faultTaken a).ax a F.GLS_AXST_REF = 0 :=
  State.fld_setFld_same ((s.faultNoted_actsOn a).setAxis.sound sound) (by decide)

section
variable (moves : s.axState a = 2)
include moves

theorem State.driverFault_of_moving : s.driverFault a =
    if (s.faultTaken a).axMode a == 1 then (((s.faultTaken a).leaveGroup a).emptyQueue a).rest a axHalted
    else if (s.faultTaken a).axMode a == 2 then (s.faultTaken a).emergency a 3 else s.faultTaken a := by
  have travels : s.axMoves a = true := by simp [State.axMoves, moves, axMoving]
  have state := (State.axState_faultTaken sound (a := a)).trans moves
  have enabled : ¬ ((s.faultTaken a).axState a == axDisabled) = true := by simp [state, axDisabled]
  have searching : ¬ ((s.faultTaken a).axState a == axHoming) = true := by simp [state, axHoming]
  rw [State.driverFault_eq travels]
  dsimp only
  rw [if_neg enabled, if_neg searching]

theorem State.driverFault_of_mode2 (mode : s.axMode a = 2) : s.driverFault a = (s.faultTaken a).emergency a 3 := by
  have mode' := ((s.faultTaken_actsOn a).axMode sound a).trans mode
  rw [State.driverFault_of_moving sound moves, if_neg (by simp [mode']), if_pos (by simp [mode'])]

theorem State.driverFault_of_mode1 (mode : s.axMode a = 1) (alone : (s.axis a).lead = none) :
    s.driverFault a = ((s.faultTaken a).emptyQueue a).rest a axHalted := by
  have mode' := ((s.faultTaken_actsOn a).axMode sound a).trans mode
  have alone' : ((s.faultTaken a).axis a).lead = none := by
    rw [State.axis_faultTaken sound]
    exact alone
  rw [State.driverFault_of_moving sound moves, if_pos (by simp [mode']), State.leaveGroup_of_alone alone']

end

end

theorem State.setpoints_of_idle {s : State} {a : Nat} (idle : s.phasesDriven a = false) : s.setpoints a = (0, 0) :=
  if_pos (by simp [idle])

/-- An axis with a driver fault that has not been enabled again drives no phase. -/
theorem State.phasesDriven_of_fault {s : State} {a : Nat} (fault : s.ax a F.GLS_AXST_DRVFLT = 1)
    (disarmed : (s.axis a).rearmed = false) : s.phasesDriven a = false := by
  simp [State.phasesDriven, fault, disarmed]

/-! ### Current loops and lines (R263, R271) -/

/-- LOOPLOST sets, with E52. -/
def State.lossNoted (s : State) (a : Nat) (phaseB : Bool) : State :=
  s.noteBit a F.GLS_AXST_LOOPLOST 0x52 (phaseB.toNat + 256 * s.phaseShown a phaseB)

section
variable {s : State} {a : Fin 6}

theorem exec_driverFault (on : s.islandOn 13 = true) : exec (.driverFault a) s = .next (s.driverFault a) :=
  congrArg _ (if_pos on)

theorem exec_loopLost_of_lost {b : Bool} {m : BitVec 16} (on : s.islandOn 13 = true) (driven : s.phasesDriven a = true)
    (off : 40 ≤ if b then (s.axis a).offB else (s.axis a).offA) (shown : m.toNat = s.phaseShown a b) :
    exec (.loopLost a b m) s = .next ((s.lossNoted a b).emergency a 4) :=
  congrArg Host.Outcome.next (if_pos (by simp [on, driven, off, shown]))

theorem exec_loopLost_of_other {b : Bool} {m : BitVec 16} (other : s.phasesDriven a = false ∨
    (if b then (s.axis a).offB else (s.axis a).offA) < 40 ∨ m.toNat ≠ s.phaseShown a b) :
    exec (.loopLost a b m) s = .next s := by
  refine congrArg Host.Outcome.next (if_neg ?_)
  simp only [Bool.and_eq_true, decide_eq_true_eq, beq_iff_eq]
  rintro ⟨⟨⟨-, driven⟩, off⟩, shown⟩
  rcases other with idle | near | hidden
  · simp [idle] at driven
  · omega
  · exact hidden shown

theorem exec_estopLineAssert_of_asserted (on : s.islandOn 13 = true) (line : s.tripAsserted (48 + a.val) = true) :
    exec (.estopLineAssert a) s = .next ((s.setAx a F.GLS_AXST_ESTOPLN 1).emergency a 1) :=
  congrArg Host.Outcome.next (if_pos (Bool.and_eq_true_iff.2 ⟨on, line⟩))

theorem exec_estopLineAssert_of_other (line : s.tripAsserted (48 + a.val) = false) :
    exec (.estopLineAssert a) s = .next s :=
  congrArg Host.Outcome.next (if_neg fun both => by simp [State.estopLine, line] at both)

end

/-! ### End limits (R273, R274) -/

theorem State.limitMatches_iff {s : State} {a : Nat} {b : Bool} : s.limitMatches a b = true ↔
    s.flag (R.GLS_CFG a) F.GLS_CFG_LIMEN = true ∧
      s.axInput (s.limitInput a b) = s.flag (R.GLS_CFG a) F.GLS_CFG_LPOL := by
  simp [State.limitMatches]

/-- The end limit of axis `a` is active, with E55. -/
def State.limitNoted (s : State) (a : Nat) (b : Bool) : State := (s.setAx a (limitFld b) 1).noteEndLimit a b

section
variable {s : State} {a : Fin 6} {b : Bool}

theorem exec_limitInputActive_of_match (on : s.islandOn 13 = true) (matched : s.limitMatches a b = true)
    (clear : s.ax a (limitFld b) = 0) : exec (.limitInputActive a b) s = .next
      (let u := (s.atTime (s.heldUntil (s.limitInput a b) limitAfter)).limitNoted a b
       if u.axState a == axHoming || u.travel a == (if b then 1 else -1) then u.emergency a 5 else u) :=
  congrArg Host.Outcome.next (if_pos (by simp [on, matched, clear]))

theorem exec_limitInputActive_of_other (other : s.limitMatches a b = false ∨ s.ax a (limitFld b) ≠ 0) :
    exec (.limitInputActive a b) s = .next s := by
  refine congrArg Host.Outcome.next (if_neg ?_)
  rcases other with unmatched | active
  · simp [unmatched]
  · simp [active]

theorem exec_limitInputInactive_of_other (on : s.islandOn 13 = true) (unmatched : s.limitMatches a b = false)
    (active : s.ax a (limitFld b) ≠ 0) :
    exec (.limitInputInactive a b) s = .next ((s.setAx a (limitFld b) 0).noteEndLimit a b) :=
  congrArg Host.Outcome.next (if_pos (by simp [on, unmatched, active]))

theorem exec_limitInputInactive_of_match (matched : s.limitMatches a b = true) :
    exec (.limitInputInactive a b) s = .next s :=
  congrArg Host.Outcome.next (if_neg (by simp [matched]))

end

theorem State.travel_congr {s t : State} {a : Nat} (state : t.axState a = s.axState a) (record : t.axis a = s.axis a)
    (place : t.axPos a = s.axPos a) : t.travel a = s.travel a := by
  unfold State.travel State.axMoves
  rw [state, record, place]

theorem State.travel_of_standstill {s : State} {a : Nat} (stands : s.axState a = 1) : s.travel a = 0 :=
  if_pos (by simp [State.axMoves, stands, axMoving, axStopping, axEmergency, axHoming])

@[simp] theorem State.axState_atTime (s : State) (t : Time) (a : Nat) : (s.atTime t).axState a = s.axState a := rfl

@[simp] theorem State.travel_atTime (s : State) (t : Time) (a : Nat) : (s.atTime t).travel a = s.travel a := rfl

theorem State.axis_limitNoted (s : State) (a : Nat) (b : Bool) (c : Nat) : (s.limitNoted a b).axis c = s.axis c := rfl

theorem State.now_limitNoted (s : State) (a : Nat) (b : Bool) : (s.limitNoted a b).now = s.now := rfl

section
variable {s : State} (sound : s.sound = true) (a : Nat) (b : Bool)
include sound

theorem State.sound_limitNoted : (s.limitNoted a b).sound = true :=
  (State.noteEndLimit_keeps (State.setAx_keeps (.refl s))).sound sound

theorem State.axState_limitNoted : (s.limitNoted a b).axState a = s.axState a :=
  State.fld_setFld_ne sound (by decide) (by cases b <;> decide)

theorem State.ax_limitNoted : (s.limitNoted a b).ax a (limitFld b) = 1 := by
  refine (State.fld_setFld_same sound ?_).trans ?_
  · cases b <;> decide
  · cases b <;> rfl

theorem State.travel_limitNoted : (s.limitNoted a b).travel a = s.travel a :=
  State.travel_congr (State.axState_limitNoted sound a b) (s.axis_limitNoted a b a)
    (congrArg (signOf 32) (State.fld_setFld_other sound (GLS_AXST_ne_POS a a).symm))

end

end Sys2Proof.Machine
end

section
/-! SUPPORT. The statements of the faults of an axis. -/

open Sys2Proof Sys2Proof.Machine

namespace Sys2Proof.Proofs

theorem axisFaults : Clauses.AxisFaults := by
  unfold Clauses.AxisFaults
  intro s a b m on sound alone
  dsimp only
  refine ⟨?mode1, ?mode2, ?lost, ?unlost, ?lineMoving, ?lineStanding, ?noLine, ?limitMatched, ?limitOther, ?inactive,
    ?stillActive⟩
  case mode1 =>
    intro moves mode
    have taken := s.faultTaken_actsOn a
    have emptied := taken.trans (State.emptyQueue_actsOn _ a)
    have record := State.axis_rest (emptied.sound sound) a axHalted
    rw [State.axis_emptyQueue (taken.sound sound), State.axis_faultTaken sound] at record
    have word := State.rd_rest (emptied.sound sound) a axHalted
    rw [State.rd_emptyQueue (taken.sound sound)] at word
    have exec_eq := exec_driverFault on (a := a)
    rw [State.driverFault_of_mode1 sound moves mode alone] at exec_eq
    have fault : (((s.faultTaken a).emptyQueue a).rest a axHalted).ax a F.GLS_AXST_DRVFLT = 1 := by
      rw [State.ax_of_word word]
      simp (disch := decide) only [fldOf_putFld_ne]
      exact State.ax_DRVFLT_faultTaken sound
    refine ⟨_, exec_eq, State.axState_rest (emptied.sound sound) _ _ (by decide), fault, ?_,
      State.vel_rest (emptied.sound sound) _ _, ?_, ?_, ?_⟩
    · rw [State.ax_of_word word]
      simp (disch := decide) only [fldOf_putFld_ne]
      exact State.ax_REF_faultTaken sound
    · rw [record]
      rfl
    · rw [record]
      rfl
    · exact State.setpoints_of_idle (State.phasesDriven_of_fault fault (by rw [record]; rfl))
  case mode2 =>
    intro moves mode
    have taken := (s.faultTaken_actsOn a).sound sound
    have moves' := (State.axState_faultTaken sound (a := a)).trans moves
    have alone' : ((s.faultTaken a).axis a).lead = none := by
      rw [State.axis_faultTaken sound]
      exact alone
    have word := State.rd_emergency_moving taken moves' alone' (cause := 3)
    have exec_eq := exec_driverFault on (a := a)
    rw [State.driverFault_of_mode2 sound moves mode] at exec_eq
    refine ⟨_, exec_eq, State.axState_emergency_moving taken moves' alone', ?_, ?_,
      State.ax_ECAUSE_emergency_moving taken moves' alone' (by decide)⟩
    · rw [State.ax_of_word word]
      simp (disch := decide) only [fldOf_putFld_ne]
      exact State.ax_DRVFLT_faultTaken sound
    · rw [State.ax_of_word word]
      simp (disch := decide) only [fldOf_putFld_ne]
      exact State.ax_REF_faultTaken sound
  case lost =>
    intro moves driven off shown
    have noted : (s.lossNoted a b).sound = true := s.noteBit_actsOn.sound sound
    have moves' : (s.lossNoted a b).axState a = 2 := (State.ax_noteBit_apart sound (by decide) (by decide)).trans moves
    have alone' : ((s.lossNoted a b).axis a).lead = none := by
      rw [State.lossNoted, State.axis_noteBit]
      exact alone
    refine ⟨_, exec_loopLost_of_lost on driven off shown, State.axState_emergency_moving noted moves' alone', ?_,
      State.ax_ECAUSE_emergency_moving noted moves' alone' (by decide)⟩
    rw [State.ax_of_word (State.rd_emergency_moving noted moves' alone')]
    simp (disch := decide) only [fldOf_putFld_ne]
    exact State.ax_noteBit_same sound rfl (by decide)
  case unlost => exact exec_loopLost_of_other
  case lineMoving =>
    intro line moves
    have noted : (s.setAx a F.GLS_AXST_ESTOPLN 1).sound = true := State.sound_setFld sound
    have moves' : (s.setAx a F.GLS_AXST_ESTOPLN 1).axState a = 2 :=
      (State.fld_setFld_ne sound (by decide) (by decide)).trans moves
    refine ⟨_, exec_estopLineAssert_of_asserted on line, State.axState_emergency_moving noted moves' alone, ?_,
      State.ax_ECAUSE_emergency_moving noted moves' alone (by decide)⟩
    rw [State.ax_of_word (State.rd_emergency_moving noted moves' alone)]
    simp (disch := decide) only [fldOf_putFld_ne]
    exact State.fld_setFld_same sound (by decide)
  case lineStanding =>
    intro line stands
    have noted : (s.setAx a F.GLS_AXST_ESTOPLN 1).sound = true := State.sound_setFld sound
    have stands' : (s.setAx a F.GLS_AXST_ESTOPLN 1).axState a = 1 :=
      (State.fld_setFld_ne sound (by decide) (by decide)).trans stands
    refine ⟨_, exec_estopLineAssert_of_asserted on line, State.axState_emergency_standstill noted stands', ?_,
      State.ax_ECAUSE_emergency_standstill noted stands' (by decide)⟩
    rw [State.ax_of_word (State.rd_emergency_standstill noted stands')]
    simp (disch := decide) only [fldOf_putFld_ne]
    exact State.fld_setFld_same sound (by decide)
  case noLine => exact exec_estopLineAssert_of_other
  case limitMatched =>
    intro matched clear
    have after : limitAfter = 100000 := rfl
    have exec_eq := exec_limitInputActive_of_match on (State.limitMatches_iff.2 matched) clear
    rw [State.heldUntil, after] at exec_eq
    have late := (State.atTime_keeps (.refl s) (t := tabGet (dflt 0) s.trp.tapAt (s.limitInput a b) + 100000)).sound sound
    have state := (State.axState_limitNoted late a b).trans (s.axState_atTime _ a)
    have travel := (State.travel_limitNoted late a b).trans (s.travel_atTime _ a)
    dsimp only at exec_eq
    refine ⟨fun stands => ?_, fun moves ahead => ?_⟩
    · rw [if_neg (by rw [state, travel, stands, State.travel_of_standstill stands]; cases b <;> decide)] at exec_eq
      exact exec_eq
    · have noted := State.sound_limitNoted late a b
      have moves' := state.trans moves
      have alone' : (((s.atTime (tabGet (dflt 0) s.trp.tapAt (s.limitInput a b) + 100000)).limitNoted a b).axis a).lead =
          none := by
        rw [State.axis_limitNoted, State.axis_atTime]
        exact alone
      rw [if_pos (by rw [travel, ahead]; simp)] at exec_eq
      refine ⟨_, exec_eq, ?_, State.axState_emergency_moving noted moves' alone',
        State.ax_ECAUSE_emergency_moving noted moves' alone' (by decide), ?_⟩
      · rw [State.now_emergency_moving noted moves' alone', State.now_limitNoted]
      · refine (State.ax_of_word (State.rd_emergency_moving noted moves' alone') (limitFld b)).trans ?_
        simp (disch := (cases b <;> decide)) only [fldOf_putFld_ne]
        exact State.ax_limitNoted late a b
  case limitOther =>
    intro other
    refine exec_limitInputActive_of_other (other.imp_left fun unmatched => ?_)
    exact Bool.eq_false_iff.2 fun matched => unmatched (State.limitMatches_iff.1 matched)
  case inactive =>
    intro unmatched active
    exact exec_limitInputInactive_of_other on
      (Bool.eq_false_iff.2 fun matched => unmatched (State.limitMatches_iff.1 matched)) active
  case stillActive => exact fun matched => exec_limitInputInactive_of_match (State.limitMatches_iff.2 matched)

end Sys2Proof.Proofs
end

section
/-! SUPPORT. The rules of the homing of an axis (R275, R276). -/

namespace Sys2Proof.Machine

/-! ### The phases -/

section
variable {s : State} (sound : s.sound = true) (a ph : Nat)
include sound

theorem State.rd_homePhase : (s.homePhase a ph).rd (R.GLS_AXST a) = putFld F.GLS_AXST_HPH (s.rd (R.GLS_AXST a)) ph :=
  State.rd_setAx_same (State.sound_setAxis sound)

theorem State.edgeSeen_homePhase : ((s.homePhase a ph).axis a).edgeSeen = false :=
  (congrArg AxisSt.edgeSeen (State.axis_setAxis_same sound)).trans rfl

end

/-! ### The start of HOME (R275) -/

/-- An axis that begins homing, the held parameters in force: HOMING, with no cause of an earlier failure. -/
def State.homingShown (s : State) (a : Nat) : State :=
  let u := (s.applyHeld a).setAx a F.GLS_AXST_HOMEFAIL 0
  ((u.setAxis a { u.axis a with ihold := false }).setAx a F.GLS_AXST_HCAUSE 0).setAxState a axHoming

theorem State.homingShown_actsOn (s : State) (a : Nat) : (s.applyHeld a).ActsOn a (s.homingShown a) :=
  (State.ActsOn.refl _).setAx.setAxis.setAx.setAxState

section
variable {s : State} {a : Nat} (exists_ : a < 6) (on : s.powered 10 = true) (stands : s.axState a = 1)
  (free : s.motionBarred a = false)
include exists_ on stands free

/-- A limit ahead of its first phase bars HOME (log 45); otherwise homing begins. -/
theorem State.homeOp_of_free : s.homeOp a =
    (let ph := if s.homeActive a then 1 else 2
     if s.limitAhead a ((s.homeMotion a ph).sign 0) then s.answer .state
     else ((s.homingShown a).homePhase a ph).answer .ok) := by
  rw [State.homeOp, State.axisGate_of_listed exists_ on (by simp [stands, axStandstill])]
  dsimp only
  rw [free]
  rfl

end

section
variable {s : State} (sound : s.sound = true) (a ph : Nat)
include sound

theorem State.sound_homingShown : (s.homingShown a).sound = true :=
  (s.homingShown_actsOn a).sound (State.sound_applyHeld sound a)

/-- The status word of an axis that has begun homing. -/
theorem State.rd_homingBegun : ((s.homingShown a).homePhase a ph).rd (R.GLS_AXST a) =
    putFld F.GLS_AXST_HPH (putFld F.GLS_AXST_STATE (putFld F.GLS_AXST_HCAUSE
      (putFld F.GLS_AXST_HOMEFAIL ((s.applyHeld a).rd (R.GLS_AXST a)) 0) 0) axHoming) ph := by
  have held := State.sound_applyHeld sound a
  have failed : ((s.applyHeld a).setAx a F.GLS_AXST_HOMEFAIL 0).sound = true := State.sound_setAx held
  rw [State.rd_homePhase (State.sound_homingShown sound a), State.homingShown,
    State.rd_setAxState_same (State.sound_setAx (State.sound_setAxis failed)),
    State.rd_setAx_same (State.sound_setAxis failed), State.rd_setAxis, State.rd_setAx_same held]

end

/-! ### An edge (R275) -/

theorem State.homeQualified_iff {s : State} {a : Nat} {e : Int} : s.homeQualified a e = true ↔
    s.ax a F.GLS_AXST_HPH ≠ 3 ∧ s.homeActive a = (s.ax a F.GLS_AXST_HPH != 1) ∧ 32 ≤ s.heading a * (s.axPos a - e) := by
  simp only [State.homeQualified, Bool.and_eq_true, decide_eq_true_eq, bne_iff_ne, beq_iff_eq, and_assoc]
  rfl

section
variable {s : State} {a : Fin 6} {w : Word}

theorem exec_homeEdgeQualified_of_seen (on : s.islandOn 13 = true) (homing : s.axState a = 6)
    (fresh : (s.axis a).edgeSeen = false) (seen : s.homeQualified a w.toInt = true) : exec (.homeEdgeQualified a w) s =
    .next ((s.atTime (tabGet (dflt 0) s.trp.tapAt (s.fld (R.GLS_CFG a) F.GLS_CFG_HDI) + 2000000)).setAxis a
      { s.axis a with homeEdge := w.toInt, edgeSeen := true, decel := true }) := by
  have after : homeAfter = 2000000 := rfl
  rw [← after]
  exact congrArg Host.Outcome.next (if_pos (by simp [on, homing, axHoming, fresh, seen]))

theorem exec_homeEdgeQualified_of_other
    (other : s.axState a ≠ 6 ∨ (s.axis a).edgeSeen = true ∨ s.homeQualified a w.toInt = false) :
    exec (.homeEdgeQualified a w) s = .next s := by
  refine congrArg Host.Outcome.next (if_neg ?_)
  rcases other with idle | seen | unseen
  · simp [axHoming, idle]
  · simp [seen]
  · simp [unseen]

end

/-! ### The end of homing (R275, R276) -/

theorem State.endHoming_actsOn (s : State) (a : Nat) : s.ActsOn a (s.endHoming a) :=
  (State.ActsOn.refl s).setAxis.setAx.setAxState

theorem State.homeFails_actsOn (s : State) (a c : Nat) : s.ActsOn a (s.homeFails a c) :=
  (State.ActsOn.refl s).raise.setAx.setAx.setAx.setAx

theorem State.mor_endHoming (s : State) (a : Nat) : (s.endHoming a).mor = s.mor := rfl

/-- A phase that runs its distance fails with cause 2 or 4. -/
theorem State.homeOverrun_lt {s : State} {a c : Nat} (overrun : s.homeOverrun a = some c) : c < 8 := by
  unfold State.homeOverrun at overrun
  split at overrun <;> simp only [Option.ite_none_right_eq_some, Option.some.injEq] at overrun <;> omega

section
variable {s : State} (sound : s.sound = true) (a : Nat)
include sound

theorem State.rd_endHoming : (s.endHoming a).rd (R.GLS_AXST a) =
    putFld F.GLS_AXST_STATE (putFld F.GLS_AXST_HPH (s.rd (R.GLS_AXST a)) 0) axStopping := by
  have ended : (s.setAxis a { s.axis a with motion := .none, edgeSeen := false }).sound = true := State.sound_setAxis sound
  rw [State.endHoming, State.rd_setAxState_same (State.sound_setAx ended), State.rd_setAx_same ended, State.rd_setAxis]

theorem State.axis_endHoming : (s.endHoming a).axis a = { s.axis a with motion := .none, edgeSeen := false } :=
  State.axis_setAxis_same sound

theorem State.rd_homeFails (c : Nat) : (s.homeFails a c).rd (R.GLS_AXST a) =
    putFld F.GLS_AXST_HPH (putFld F.GLS_AXST_REF (putFld F.GLS_AXST_HCAUSE
      (putFld F.GLS_AXST_HOMEFAIL (s.rd (R.GLS_AXST a)) 1) c) 0) 0 := by
  have noted := (State.ActsOn.refl s).raise (a := a) (k := 0x54) (o := a) (n := s.ax a F.GLS_AXST_HPH + 256 * c)
  rw [State.homeFails, State.rd_setAx_same (noted.setAx.setAx.setAx.sound sound),
    State.rd_setAx_same (noted.setAx.setAx.sound sound), State.rd_setAx_same (noted.setAx.sound sound),
    State.rd_setAx_same (noted.sound sound)]
  rfl

/-- The status word of an axis whose homing has failed. -/
theorem State.rd_homingFailed (c : Nat) : ((s.homeFails a c).endHoming a).rd (R.GLS_AXST a) =
    putFld F.GLS_AXST_STATE (putFld F.GLS_AXST_HPH (putFld F.GLS_AXST_HPH (putFld F.GLS_AXST_REF
      (putFld F.GLS_AXST_HCAUSE (putFld F.GLS_AXST_HOMEFAIL (s.rd (R.GLS_AXST a)) 1) c) 0) 0) 0) axStopping := by
  rw [State.rd_endHoming ((s.homeFails_actsOn a c).sound sound), State.rd_homeFails sound]

end

section
variable {s : State} {a : Fin 6} (on : s.islandOn 13 = true) (homing : s.axState a = 6)
include on homing

theorem exec_homeDistanceFail_of_overrun {c : Nat} (overrun : s.homeOverrun a = some c) :
    exec (.homeDistanceFail a) s = .next ((s.homeFails a c).endHoming a) := by
  refine (congrArg Host.Outcome.next (if_pos (by simp [on, homing, axHoming]))).trans ?_
  rw [overrun]

theorem exec_homeDistanceFail_of_within (within : s.homeOverrun a = none) :
    exec (.homeDistanceFail a) s = .next s := by
  refine (congrArg Host.Outcome.next (if_pos (by simp [on, homing, axHoming]))).trans ?_
  rw [within]

theorem exec_homeComplete_of_edge (approach : s.ax a F.GLS_AXST_HPH = 4) (seen : (s.axis a).edgeSeen = true) :
    exec (.homeComplete a) s = .next (s.homed a) :=
  congrArg Host.Outcome.next (if_pos (by simp [on, homing, axHoming, approach, seen]))

end

/-- The position of an axis as its homing completes: the latched edge reads HOFS. -/
def State.homedPos (s : State) (a : Nat) : Int :=
  s.axPos a + s.sfld (R.GLS_HOFS a) F.GLS_HOFS_HOFS - (s.axis a).homeEdge

/-- An axis whose position has been set by homing. -/
def State.preset (s : State) (a : Nat) : State :=
  (s.setAxis a { s.axis a with homed := some (s.axis a).homeEdge }).setSfld (R.GLS_POS a) F.GLS_POS_POS (s.homedPos a)

theorem State.homed_eq (s : State) (a : Nat) : s.homed a =
    (((s.preset a).setAx a F.GLS_AXST_REF 1).setAx a F.GLS_AXST_RESTORED 0).endHoming a := rfl

theorem State.preset_homed_actsOn (s : State) (a : Nat) : (s.preset a).ActsOn a (s.homed a) := by
  rw [State.homed_eq]
  exact (State.ActsOn.refl (s.preset a)).setAx.setAx.trans (State.endHoming_actsOn _ a)

theorem State.mor_homed (s : State) (a : Nat) : (s.homed a).mor = s.mor := by
  rw [State.homed_eq, State.mor_endHoming]
  rfl

section
variable {s : State} (sound : s.sound = true) (a : Nat)
include sound

theorem State.sound_preset : (s.preset a).sound = true := State.sound_setFld (State.sound_setAxis sound)

/-- The status word of an axis whose homing has been completed. -/
theorem State.rd_homed : (s.homed a).rd (R.GLS_AXST a) = putFld F.GLS_AXST_STATE (putFld F.GLS_AXST_HPH
    (putFld F.GLS_AXST_RESTORED (putFld F.GLS_AXST_REF ((s.preset a).rd (R.GLS_AXST a)) 1) 0) 0) axStopping := by
  have placed := State.sound_preset sound a
  have referenced : ((s.preset a).setAx a F.GLS_AXST_REF 1).sound = true := State.sound_setAx placed
  rw [State.homed_eq, State.rd_endHoming (State.sound_setAx referenced), State.rd_setAx_same referenced,
    State.rd_setAx_same placed]

theorem State.axPos_homed (fits : inSpan (s.homedPos a) = true) : (s.homed a).axPos a = s.homedPos a :=
  ((s.preset_homed_actsOn a).axPos (State.sound_preset sound a) a).trans
    (State.sfld_setSfld_word (State.sound_setAxis sound) fits)

theorem State.homed_homed : ((s.homed a).axis a).homed = some (s.axis a).homeEdge := by
  rw [State.homed_eq, State.axis_endHoming (State.sound_setAx (State.sound_setAx (State.sound_preset sound a))),
    State.axis_setAx, State.axis_setAx, State.preset, State.axis_setSfld, State.axis_setAxis_same sound]

end

end Sys2Proof.Machine
end

section
/-! SUPPORT. The statements of the homing of an axis. -/

open Sys2Proof Sys2Proof.Machine

namespace Sys2Proof.Proofs

theorem homing : Clauses.Homing := by
  unfold Clauses.Homing
  intro s ax a w c on sound
  dsimp only
  refine ⟨fun self stands free => ?start, ⟨fun homing fresh seen => ?edge, fun other => ?noEdge⟩,
    fun homing overrun => ?fails, fun homing within => exec_homeDistanceFail_of_within on homing within,
    fun homing approach seen fits => ?completes⟩
  case start =>
    have powered : s.powered 10 = true := (Bool.and_eq_true_iff.1 on).1
    have exec_eq : exec (.home ax) s = .next (s.homeOp a) := by rw [← self]; rfl
    rw [State.homeOp_of_free a.isLt powered stands free] at exec_eq
    dsimp only at exec_eq
    generalize phase : (if s.homeActive a = true then 1 else 2) = ph at exec_eq ⊢
    have low : ph < 8 := by
      rw [← phase]
      split <;> decide
    refine ⟨fun ahead => ?_, fun clear => ?_⟩
    · rw [if_pos ahead] at exec_eq
      exact exec_eq
    · rw [if_neg (by simp [clear])] at exec_eq
      have word := State.rd_homingBegun sound a ph
      refine ⟨_, exec_eq, ?_, ?_, ?_, ?_, ?_, rfl⟩
      · rw [State.axState_answer]
        refine (State.ax_of_word word _).trans ?_
        simp (disch := decide) only [fldOf_putFld_ne, fldOf_putFld_same]
        rfl
      · rw [State.ax_answer, State.ax_of_word word, fldOf_putFld_same (by decide)]
        exact Nat.mod_eq_of_lt low
      · rw [State.ax_answer, State.ax_of_word word]
        simp (disch := decide) only [fldOf_putFld_ne, fldOf_putFld_same]
        rfl
      · rw [State.ax_answer, State.ax_of_word word]
        simp (disch := decide) only [fldOf_putFld_ne, fldOf_putFld_same]
        rfl
      · rw [State.axis_answer]
        exact State.edgeSeen_homePhase (State.sound_homingShown sound a) a ph
  case edge =>
    rw [exec_homeEdgeQualified_of_seen on homing fresh (State.homeQualified_iff.2 seen), State.axis_atTime]
  case noEdge =>
    refine exec_homeEdgeQualified_of_other (other.imp_right (Or.imp_right fun unseen => ?_))
    exact Bool.eq_false_iff.2 fun qualified => unseen (State.homeQualified_iff.1 qualified)
  case fails =>
    have word := State.rd_homingFailed sound a c
    refine ⟨_, exec_homeDistanceFail_of_overrun on homing overrun, ?_, ?_, ?_, ?_, rfl⟩
    · refine (State.ax_of_word word _).trans ?_
      simp (disch := decide) only [fldOf_putFld_same]
      rfl
    · rw [State.ax_of_word word]
      simp (disch := decide) only [fldOf_putFld_ne, fldOf_putFld_same]
      rfl
    · rw [State.ax_of_word word]
      simp (disch := decide) only [fldOf_putFld_ne, fldOf_putFld_same]
      exact Nat.mod_eq_of_lt (State.homeOverrun_lt overrun)
    · rw [State.ax_of_word word]
      simp (disch := decide) only [fldOf_putFld_ne, fldOf_putFld_same]
      rfl
  case completes =>
    have word := State.rd_homed sound a
    refine ⟨_, exec_homeComplete_of_edge on homing approach seen, ?_, State.axPos_homed sound a fits, ?_, ?_,
      State.homed_homed sound a, congrArg Moraine.triggers (s.mor_homed a)⟩
    · refine (State.ax_of_word word _).trans ?_
      simp (disch := decide) only [fldOf_putFld_same]
      rfl
    · rw [State.ax_of_word word]
      simp (disch := decide) only [fldOf_putFld_ne, fldOf_putFld_same]
      rfl
    · rw [State.ax_of_word word]
      simp (disch := decide) only [fldOf_putFld_ne, fldOf_putFld_same]
      rfl

/-- Settles O50: the two families of clauses. HOME is barred by a limit ahead of its first phase (log 45); the layout of the
data of E54 and E55 is log 35. -/
theorem axisFaultsAndHoming : Obligations.AxisFaultsAndHoming := ⟨axisFaults, homing⟩

end Sys2Proof.Proofs
end

section
/-! SUPPORT. What every command and every step keep: the queue, and the canonical form of the tables. -/

namespace Sys2Proof.Machine

/-- Every command that answers a next state leaves the queue as it is, and a sound state sound. -/
theorem exec_keeps {i : Instr} {s : State} : OutKeeps s (exec i s) :=
  match i with
  -- requests of the host and the clock islands (R6, R12–R17)
  | .registerWrite .. => execRegisterWrite_keeps
  | .crossingTransfer .. => execCrossingTransfer_keeps
  | .xt25Fail .. => execXt25Fail_keeps
  | .islandLockLost .. => execIslandLockLost_keeps
  | .lockRegainTimeout .. => execLockRegainTimeout_keeps
  | .islandWatchdogExpiry .. => execIslandWatchdogExpiry_keeps
  | .memoryEccUncorrectable .. => execMemoryEccUncorrectable_keeps
  | .domainCycle .. => execDomainCycle_keeps
  | .domainBack .. => execDomainBack_keeps
  -- the snapshot (R20, R193)
  | .tickBoundary .. => execTickBoundary_keeps
  | .snapshotCopyComplete .. => execSnapshotCopyComplete_keeps
  | .snapshotSwap .. => execSnapshotSwap_keeps
  -- the front end (R34–R55)
  | .afeConfigEdit p .. => execAfeConfigEdit_keeps (_p := p)
  | .bridgeSupplyLimit .. => execBridgeSupplyLimit_keeps
  | .bridgeSupplyLimitEnd .. => execBridgeSupplyLimitEnd_keeps
  | .loopSwitchStartClose .. => execLoopSwitchStartClose_keeps
  | .vloopOvercurrent .. => execVloopOvercurrent_keeps
  | .vloopLow .. => execVloopLow_keeps
  | .vloopRecover .. => execVloopRecover_keeps
  | .loopSwitchLimit .. => execLoopSwitchLimit_keeps
  | .loopRetry .. => execLoopRetry_keeps
  | .loopRetryEnd .. => execLoopRetryEnd_keeps
  | .clampConduct .. => execClampConduct_keeps
  | .clampClear .. => execClampClear_keeps
  | .conversionResult .. => execConversionResult_keeps
  -- the spare bank (R79–R88)
  | .rotationIntervalExpiry .. => execRotationIntervalExpiry_keeps
  | .bsHandover .. => execBsHandover_keeps
  | .rotatingTestComplete .. => execRotatingTestComplete_keeps
  | .bsGiveBack .. => execBsGiveBack_keeps
  | .bsSelfTestComplete .. => execBsSelfTestComplete_keeps
  | .rotctlForce p .. => execRotctlForce_keeps (_p := p)
  | .rotctlRetest p .. => execRotctlRetest_keeps (_p := p)
  | .rotctlInterval p .. => execRotctlInterval_keeps (_p := p)
  -- channel programs (R94–R107)
  | .halt .. => execHalt_keeps
  | .sel .. => execSel_keeps
  | .selSpacingEnd .. => execSelSpacingEnd_keeps
  | .exc .. => execExc_keeps
  | .swp .. => execSwp_keeps
  | .stl .. => execStl_keeps
  | .stlWaitEnd .. => execStlWaitEnd_keeps
  | .cnv .. => execCnv_keeps
  | .pairSet .. => execPairSet_keeps
  | .pairFix .. => execPairFix_keeps
  | .pairRelease .. => execPairRelease_keeps
  | .chk .. => execChk_keeps
  | .chkVerdict .. => execChkVerdict_keeps
  | .put .. => execPut_keeps
  | .waitt .. => execWaitt_keeps
  | .scanTimerTick .. => execScanTimerTick_keeps
  | .sync .. => execSync_keeps
  | .syncRelease .. => execSyncRelease_keeps
  | .syncTimeout .. => execSyncTimeout_keeps
  | .loop .. => execLoop_keeps
  | .jmp .. => execJmp_keeps
  | .seqStop p .. => execSeqStop_keeps (_p := p)
  | .seqStart p .. => execSeqStart_keeps (_p := p)
  | .seqStoreWrite p .. => execSeqStoreWrite_keeps (_p := p)
  | .scanTimerPeriodWrite p .. => execScanTimerPeriodWrite_keeps (_p := p)
  | .scanTimerPhaseWrite p .. => execScanTimerPhaseWrite_keeps (_p := p)
  -- Snowline (R118–R139)
  | .limitEvaluate .. => execLimitEvaluate_keeps
  | .delayDue .. => execDelayDue_keeps
  | .inhibitReleaseExpiry .. => execInhibitReleaseExpiry_keeps
  | .limitScrub .. => execLimitScrub_keeps
  | .limStageEntry p .. => execLimStageEntry_keeps (_p := p)
  | .limStageIndex p .. => execLimStageIndex_keeps (_p := p)
  | .limStageSet p .. => execLimStageSet_keeps (_p := p)
  | .limStageApply .. => execLimStageApply_keeps
  -- Pergola (R142–R159)
  | .tripInputChange .. => execTripInputChange_keeps
  | .glitchFilterPass .. => execGlitchFilterPass_keeps
  | .acOutputChange .. => execAcOutputChange_keeps
  | .fcEdge .. => execFcEdge_keeps
  | .fcTimeout .. => execFcTimeout_keeps
  | .tripStoreScrub .. => execTripStoreScrub_keeps
  -- alarms and call plans (R163–R182)
  | .ackGroup .. => execAckGroup_keeps
  | .silenceGroup .. => execSilenceGroup_keeps
  | .ackEntry .. => execAckEntry_keeps
  | .shelveEntry .. => execShelveEntry_keeps
  | .unshelveEntry .. => execUnshelveEntry_keeps
  | .outOfService .. => execOutOfService_keeps
  | .returnToService .. => execReturnToService_keeps
  | .shelveExpiry .. => execShelveExpiry_keeps
  | .startPlan .. => execStartPlan_keeps
  | .endPlan .. => execEndPlan_keeps
  | .acceptLevel .. => execAcceptLevel_keeps
  | .silencePlan .. => execSilencePlan_keeps
  | .armWatchKeeper .. => execArmWatchKeeper_keeps
  | .disarmWatchKeeper .. => execDisarmWatchKeeper_keeps
  | .selectWatch .. => execSelectWatch_keeps
  | .planLevelTimer .. => execPlanLevelTimer_keeps
  | .acceptInputEdge .. => execAcceptInputEdge_keeps
  | .watchCodeStable .. => execWatchCodeStable_keeps
  | .wkPrewarning .. => execWkPrewarning_keeps
  | .wkExpiry .. => execWkExpiry_keeps
  | .wkResetInput .. => execWkResetInput_keeps
  | .retainedMirrorWrite .. => execRetainedMirrorWrite_keeps
  -- Belvedere (R186–R216)
  | .coresLeaveReset .. => execCoresLeaveReset_keeps
  | .add .. => execAdd_keeps
  | .sub .. => execSub_keeps
  | .adds .. => execAdds_keeps
  | .subs .. => execSubs_keeps
  | .and .. => execAnd_keeps
  | .or .. => execOr_keeps
  | .xor .. => execXor_keeps
  | .nor .. => execNor_keeps
  | .sll .. => execSll_keeps
  | .srl .. => execSrl_keeps
  | .sra .. => execSra_keeps
  | .slt .. => execSlt_keeps
  | .sltu .. => execSltu_keeps
  | .min .. => execMin_keeps
  | .max .. => execMax_keeps
  | .minu .. => execMinu_keeps
  | .maxu .. => execMaxu_keeps
  | .abs .. => execAbs_keeps
  | .clz .. => execClz_keeps
  | .sxt .. => execSxt_keeps
  | .zxt .. => execZxt_keeps
  | .mul .. => execMul_keeps
  | .mulh .. => execMulh_keeps
  | .mulhu .. => execMulhu_keeps
  | .muls .. => execMuls_keeps
  | .div .. => execDiv_keeps
  | .divu .. => execDivu_keeps
  | .rem .. => execRem_keeps
  | .remu .. => execRemu_keeps
  | .jr .. => execJr_keeps
  | .jalr .. => execJalr_keeps
  | .addi .. => execAddi_keeps
  | .addis .. => execAddis_keeps
  | .andi .. => execAndi_keeps
  | .ori .. => execOri_keeps
  | .xori .. => execXori_keeps
  | .slti .. => execSlti_keeps
  | .sltiu .. => execSltiu_keeps
  | .lui .. => execLui_keeps
  | .slli .. => execSlli_keeps
  | .srli .. => execSrli_keeps
  | .srai .. => execSrai_keeps
  | .sxti .. => execSxti_keeps
  | .zxti .. => execZxti_keeps
  | .lw .. => execLw_keeps
  | .lh .. => execLh_keeps
  | .lhu .. => execLhu_keeps
  | .lb .. => execLb_keeps
  | .lbu .. => execLbu_keeps
  | .sw .. => execSw_keeps
  | .sh .. => execSh_keeps
  | .sb .. => execSb_keeps
  | .beq .. => execBeq_keeps
  | .bne .. => execBne_keeps
  | .blt .. => execBlt_keeps
  | .bge .. => execBge_keeps
  | .bltu .. => execBltu_keeps
  | .bgeu .. => execBgeu_keeps
  | .j .. => execJ_keeps
  | .jal .. => execJal_keeps
  | .smp .. => execSmp_keeps
  | .lst .. => execLst_keeps
  | .gst .. => execGst_keeps
  | .tmaArm .. => execTmaArm_keeps
  | .tmaDisarm .. => execTmaDisarm_keeps
  | .tmt .. => execTmt_keeps
  | .evw .. => execEvw_keeps
  | .cmt .. => execCmt_keeps
  | .cmte .. => execCmte_keeps
  | .snap .. => execSnap_keeps
  | .sys .. => execSys_keeps
  | .brk .. => execBrk_keeps
  | .rsm .. => execRsm_keeps
  | .mfs .. => execMfs_keeps
  | .mts .. => execMts_keeps
  | .pairedReadServed .. => execPairedReadServed_keeps
  | .fetchLineArrival .. => execFetchLineArrival_keeps
  | .sramEccError .. => execSramEccError_keeps
  -- the Gatehouse (R217–R229)
  | .cmteDeadline .. => execCmteDeadline_keeps
  | .selfCheckComplete .. => execSelfCheckComplete_keeps
  | .resyncBulkDone .. => execResyncBulkDone_keeps
  | .resyncFinalDone .. => execResyncFinalDone_keeps
  | .twnReadmit p .. => execTwnReadmit_keeps (_p := p)
  -- commits of Snowline, Pergola and the switching (R218, R126, R238)
  | .doSet .. => execDoSet_keeps
  | .derivedChannelWrite .. => execDerivedChannelWrite_keeps
  | .inhibitBit .. => execInhibitBit_keeps
  | .counterReset .. => execCounterReset_keeps
  -- digital inputs and outputs (R234–R256)
  | .diFilterChange .. => execDiFilterChange_keeps
  | .diCountEdge .. => execDiCountEdge_keeps
  | .counterMirror .. => execCounterMirror_keeps
  | .freqGateEnd .. => execFreqGateEnd_keeps
  | .wireBreakSet .. => execWireBreakSet_keeps
  | .wireBreakClear .. => execWireBreakClear_keeps
  | .doThermalShutdown .. => execDoThermalShutdown_keeps
  | .doThermalRestart .. => execDoThermalRestart_keeps
  | .openLoadSet .. => execOpenLoadSet_keeps
  | .openLoadClear .. => execOpenLoadClear_keeps
  | .offPulseStart .. => execOffPulseStart_keeps
  | .offPulseEnd .. => execOffPulseEnd_keeps
  | .backfeedDetect .. => execBackfeedDetect_keeps
  | .backfeedClear .. => execBackfeedClear_keeps
  | .crosswireDetect .. => execCrosswireDetect_keeps
  | .pairScanStart p .. => execPairScanStart_keeps (_p := p)
  | .pairScanAbort p .. => execPairScanAbort_keeps (_p := p)
  | .pairScanStep .. => execPairScanStep_keeps
  | .vfWarn .. => execVfWarn_keeps
  | .vfWarnEnd .. => execVfWarnEnd_keeps
  | .vfHold .. => execVfHold_keeps
  | .vfRestoring .. => execVfRestoring_keeps
  | .vfOff .. => execVfOff_keeps
  | .restoreSlot .. => execRestoreSlot_keeps
  | .dioConfigEdit p .. => execDioConfigEdit_keeps (_p := p)
  -- Glissade (R260–R277)
  | .movea .. => execMovea_keeps
  | .mover .. => execMover_keeps
  | .jog .. => execJog_keeps
  | .axisStop .. => execAxisStop_keeps
  | .estop .. => execEstop_keeps
  | .setpar .. => execSetpar_keeps
  | .home .. => execHome_keeps
  | .axisEnable .. => execAxisEnable_keeps
  | .axisDisable .. => execAxisDisable_keeps
  | .tblwr .. => execTblwr_keeps
  | .tblsel .. => execTblsel_keeps
  | .gtgt .. => execGtgt_keeps
  | .ggo .. => execGgo_keeps
  | .preset .. => execPreset_keeps
  | .axisClear .. => execAxisClear_keeps
  | .profileUpdate .. => execProfileUpdate_keeps
  | .moveComplete .. => execMoveComplete_keeps
  | .iholdTimer .. => execIholdTimer_keeps
  | .driverFault .. => execDriverFault_keeps
  | .loopLost .. => execLoopLost_keeps
  | .estopLineAssert .. => execEstopLineAssert_keeps
  | .emergencyRampEnd .. => execEmergencyRampEnd_keeps
  | .limitInputActive .. => execLimitInputActive_keeps
  | .homeEdgeQualified .. => execHomeEdgeQualified_keeps
  | .homeDistanceFail .. => execHomeDistanceFail_keeps
  | .homeComplete .. => execHomeComplete_keeps
  -- Glasshouse (R282–R298)
  | .draw .. => execDraw_keeps
  | .update .. => execUpdate_keeps
  | .copy .. => execCopy_keeps
  | .panelClear .. => execPanelClear_keeps
  | .journalCopy .. => execJournalCopy_keeps
  | .rowPhaseEnd .. => execRowPhaseEnd_keeps
  | .pumpReady .. => execPumpReady_keeps
  | .pumpIdleStop .. => execPumpIdleStop_keeps
  | .panelTempRead .. => execPanelTempRead_keeps
  | .pumpFault .. => execPumpFault_keeps
  | .pumpRestart .. => execPumpRestart_keeps
  | .pnlRetry p .. => execPnlRetry_keeps (_p := p)
  | .mapCommit p .. => execMapCommit_keeps (_p := p)
  -- the calendar clock (R300–R315)
  | .pd0PowerUp .. => execPd0PowerUp_keeps
  | .calendarSecond .. => execCalendarSecond_keeps
  | .rtcSecRead .. => execRtcSecRead_keeps
  | .rtcCentRead .. => execRtcCentRead_keeps
  | .rtcShadowTimeout .. => execRtcShadowTimeout_keeps
  | .rtcSetAtSecond p .. => execRtcSetAtSecond_keeps (_p := p)
  | .rtcSetImmediate p .. => execRtcSetImmediate_keeps (_p := p)
  | .rtcShift p .. => execRtcShift_keeps (_p := p)
  | .dstForward p .. => execDstForward_keeps (_p := p)
  | .dstBack p .. => execDstBack_keeps (_p := p)
  | .rtcAdjustApply .. => execRtcAdjustApply_keeps
  | .trimAccumulate .. => execTrimAccumulate_keeps
  | .rtcTrimWrite p .. => execRtcTrimWrite_keeps (_p := p)
  | .trimMeasureMains p .. => execTrimMeasureMains_keeps (_p := p)
  | .trimMeasureHost p .. => execTrimMeasureHost_keeps (_p := p)
  | .trimMeasureAbort p .. => execTrimMeasureAbort_keeps (_p := p)
  | .trimMeasureEnd .. => execTrimMeasureEnd_keeps
  | .alarmEnable p .. => execAlarmEnable_keeps (_p := p)
  | .calendarAlarmFire .. => execCalendarAlarmFire_keeps
  | .alarmFlagClear p .. => execAlarmFlagClear_keeps (_p := p)
  | .xt32Fail .. => execXt32Fail_keeps
  | .xt32Restore .. => execXt32Restore_keeps
  | .cellSample .. => execCellSample_keeps
  | .vrtcChangeover .. => execVrtcChangeover_keeps
  -- Moraine (R318–R333)
  | .eventTrigger .. => execEventTrigger_keeps
  | .recordWrite .. => execRecordWrite_keeps
  | .tokenRefill .. => execTokenRefill_keeps
  | .suppressionSummary .. => execSuppressionSummary_keeps
  | .codecfgWrite p .. => execCodecfgWrite_keeps (_p := p)
  | .ssaddrWrite p .. => execSsaddrWrite_keeps (_p := p)
  | .cursorAt .. => execCursorAt_keeps
  | .cursorOldest .. => execCursorOldest_keeps
  | .cursorNewest .. => execCursorNewest_keeps
  | .cursorNext .. => execCursorNext_keeps
  | .cursorPrev .. => execCursorPrev_keeps
  | .windowRead _ k => execWindowRead_keeps (_i := k)
  | .indexRebuildDone .. => execIndexRebuildDone_keeps
  -- Promenade (R337–R366)
  | .ringHeaderReceived .. => execRingHeaderReceived_keeps
  | .frameForward .. => execFrameForward_keeps
  | .portLinkDown .. => execPortLinkDown_keeps
  | .portBroken .. => execPortBroken_keeps
  | .addressContactChange .. => execAddressContactChange_keeps
  | .mbxRead .. => execMbxRead_keeps
  | .mbxWrite .. => execMbxWrite_keeps
  | .readCh .. => execReadCh_keeps
  | .ack .. => execAck_keeps
  | .hostevt .. => execHostevt_keeps
  | .imageBegin .. => execImageBegin_keeps
  | .imageBlock .. => execImageBlock_keeps
  | .imageEnd .. => execImageEnd_keeps
  | .imageCheckDone .. => execImageCheckDone_keeps
  | .imageSwitch .. => execImageSwitch_keeps
  | .restart .. => execRestart_keeps
  | .digestNow .. => execDigestNow_keeps
  | .countclr .. => execCountclr_keeps
  | .mbxResponse .. => execMbxResponse_keeps
  | .digestPass .. => execDigestPass_keeps
  | .svcSessionOpen .. => execSvcSessionOpen_keeps
  | .svcSessionClose .. => execSvcSessionClose_keeps
  | .svcFrame .. => execSvcFrame_keeps
  | .svcFrameTimeout .. => execSvcFrameTimeout_keeps
  | .keyProvision .. => execKeyProvision_keeps
  -- supplies, start and repair (R368–R386)
  | .vinPresent .. => execVinPresent_keeps
  | .vinLost .. => execVinLost_keeps
  | .nodeStart .. => execNodeStart_keeps
  | .startStepTimeout .. => execStartStepTimeout_keeps
  | .alarmReady .. => execAlarmReady_keeps
  | .startClose .. => execStartClose_keeps
  | .supplyLoss .. => execSupplyLoss_keeps
  | .holdoverRideThrough .. => execHoldoverRideThrough_keeps
  | .holdoverShutdown .. => execHoldoverShutdown_keeps
  | .holdChargeDone .. => execHoldChargeDone_keeps
  | .holdChargeTimeout .. => execHoldChargeTimeout_keeps
  | .pwrCycleRequest p .. => execPwrCycleRequest_keeps (_p := p)
  | .tempSample .. => execTempSample_keeps
  | .thermalT85 .. => execThermalT85_keeps
  | .thermalT85End .. => execThermalT85End_keeps
  | .thermalT100 .. => execThermalT100_keeps
  | .thermalT100End .. => execThermalT100End_keeps
  | .lockOpen .. => execLockOpen_keeps
  | .lockClose p .. => execLockClose_keeps (_p := p)
  | .lockTimeout .. => execLockTimeout_keeps
  | .thawClear p .. => execThawClear_keeps (_p := p)
  -- the Rante window (R391–R398)
  | .ranteRead .. => execRanteRead_keeps
  | .ranteWrite .. => execRanteWrite_keeps
  | .rantePairTimeout .. => execRantePairTimeout_keeps
  | .ranteEnable p .. => execRanteEnable_keeps (_p := p)
  | .ranteDisable p .. => execRanteDisable_keeps (_p := p)
  -- rows that stand later in the table
  | .islandLockRegained .. => execIslandLockRegained_keeps
  | .portLinkUp .. => execPortLinkUp_keeps
  | .cycleWithoutHeader .. => execCycleWithoutHeader_keeps
  | .doCurrentLimit .. => execDoCurrentLimit_keeps
  | .doCurrentLimitEnd .. => execDoCurrentLimitEnd_keeps
  | .limitInputInactive .. => execLimitInputInactive_keeps
  | .segmentFrame .. => execSegmentFrame_keeps
  | .operatingTimeMirror .. => execOperatingTimeMirror_keeps
  | .patternToggle .. => execPatternToggle_keeps
  | .orderedRestart .. => execOrderedRestart_keeps
  | .vbusAttach .. => execVbusAttach_keeps
  | .deviceConfigured .. => execDeviceConfigured_keeps

theorem step_cons (i : Instr) (l : List Instr) (s : State) :
    step { s with pending := i :: l } = exec i { s with pending := l } := rfl

theorem step_nil (s : State) : step { s with pending := [] } = .next { s with pending := [] } := rfl

/-- A step that answers a next state takes the front of the queue, and keeps the canonical form. -/
theorem step_keeps {s t : State} (h : step s = .next t) :
    t.pending = s.pending.tail ∧ (s.sound = true → t.sound = true) := by
  obtain ⟨queue⟩ := s
  cases queue with
  | nil => cases h; exact ⟨rfl, id⟩
  | cons i rest =>
    have keeps := exec_keeps t h
    exact ⟨keeps.queue, keeps.sound⟩

end Sys2Proof.Machine
end

section
/-! SUPPORT. The statements of the step, of the queue and of the invariant. -/

open Sys2Proof Sys2Proof.Machine

namespace Sys2Proof.Proofs

/-- Settles O18. -/
theorem stepRunsFrontCommand : Obligations.StepRunsFrontCommand :=
  fun c s rest => ⟨step_cons c rest s, step_nil s⟩

/-- Settles O19. -/
theorem queueIsFirstInFirstOut : Obligations.QueueIsFirstInFirstOut :=
  fun _ _ t => ⟨fun h => (exec_keeps t h).queue, fun h => (step_keeps h).1⟩

/-- Settles O21. -/
theorem stepKeepsSound : Obligations.StepKeepsSound := fun _ _ sound h => (step_keeps h).2 sound

end Sys2Proof.Proofs
end

section
/-! SUPPORT. The rules of the configuration lock, of thawing and of a domain cycle on request (R381, R383, R386, R387), one
per answer of a command. -/

namespace Sys2Proof.Machine

section
variable {s : State} {p : Port} {t : Time}

/-! ### The lock (R386, R387) -/

theorem State.lockOpenOp_of_code : s.lockOpenOp p 0x1A5F =
    ((((s.setFlag R.SYS_LOCK F.SYS_LOCK_OPEN true).setFld R.SYS_LOCK F.SYS_LOCK_BY (lockBy p)).noteLk).raise 0x07 0
      (lockBy p)).answer .ok :=
  if_pos rfl

theorem State.lockOpenOp_of_other {code : Nat} (other : code ≠ 0x1A5F) :
    s.lockOpenOp p code = (s.raise 0x07 2 (lockBy p)).answer .denied :=
  if_neg (by simpa using other)

theorem State.lockCloseOp_of_open (opened : s.lockOpen = true) : s.lockCloseOp = s.closeLock.answer .ok := by
  rw [State.lockCloseOp, if_pos opened]

theorem State.lockCloseOp_of_closed (closed : s.lockOpen = false) : s.lockCloseOp = s.answer .ok := by
  rw [State.lockCloseOp, if_neg (by simp [closed])]

theorem exec_lockTimeout_of_due (opened : (s.atTime t).lockOpen = true)
    (due : (s.atTime t).sup.lastLk + 600000000000 ≤ (s.atTime t).now) :
    exec (.lockTimeout t) s = .next (s.atTime t).closeLock :=
  congrArg _ (if_pos (Bool.and_eq_true_iff.2 ⟨opened, decide_eq_true due⟩))

theorem exec_lockTimeout_of_early (early : (s.atTime t).now < (s.atTime t).sup.lastLk + 600000000000) :
    exec (.lockTimeout t) s = .next (s.atTime t) :=
  congrArg _ (if_neg fun closes => Nat.not_le.2 early (of_decide_eq_true (Bool.and_eq_true_iff.1 closes).2))

/-! ### Thaw flags (R381) -/

theorem State.thawClearOp_of_closed {steps : BitVec 16} (some_ : steps.toNat ≠ 0) (closed : s.lockOpen = false) :
    s.thawClearOp steps.toNat = s.answer .denied := by
  simp [State.thawClearOp, Nat.mod_eq_of_lt steps.isLt, some_, closed]

theorem State.thawClearOp_of_open {steps : BitVec 16} (some_ : steps.toNat ≠ 0) (opened : s.lockOpen = true) :
    s.thawClearOp steps.toNat = (s.noteLk.clearThaw steps.toNat).answer .ok := by
  simp [State.thawClearOp, Nat.mod_eq_of_lt steps.isLt, some_, opened]

/-! ### A domain cycle for the host (R383) -/

section
variable {d : Nat}

theorem State.pwrCycleOp_of_closed (closed : s.lockOpen = false) (asked : d ≠ 0) : s.pwrCycleOp d = s.answer .denied :=
  if_pos (by simp [closed, asked])

theorem State.pwrCycleOp_of_outside (opened : s.lockOpen = true) (outside : d < 2 ∨ 10 < d) :
    s.pwrCycleOp d = s.answer .range := by
  rw [State.pwrCycleOp, if_neg (by simp [opened]), if_pos (by simpa using outside)]

theorem State.pwrCycleOp_of_single (opened : s.lockOpen = true) (low : 2 ≤ d) (core : d < 4) (single : s.twinMode = false) :
    s.pwrCycleOp d = s.answer .state := by
  have inside : ¬ (d < 2 ∨ 10 < d) := by omega
  rw [State.pwrCycleOp, if_neg (by simp [opened]), if_neg (by simpa using inside), if_pos (by simp [core, single])]

/-- A core's cycle needs both cores in service; the cycle waits for its 10 ms. -/
theorem State.pwrCycleOp_of_idle (opened : s.lockOpen = true) (low : 2 ≤ d) (high : d ≤ 10) (idle : s.sup.pwrReq = none)
    (may : 4 ≤ d ∨ (s.twinMode = true ∧ s.coreA.live = true ∧ s.coreB.live = true)) : s.pwrCycleOp d =
      (s.setSup { s.sup with lastLk := s.now, pwrReq := some (d, s.now + 10000000) }).answer .ok := by
  have inside : ¬ (d < 2 ∨ 10 < d) := by omega
  have served : ¬ ((d < 4 && !(s.twinMode && s.coreA.live && s.coreB.live)) = true) := by
    rcases may with noCore | ⟨twin, a, b⟩
    · simp [Nat.not_lt.2 noCore]
    · simp [twin, a, b]
  rw [State.pwrCycleOp, if_neg (by simp [opened]), if_neg (by simpa using inside), if_neg served,
    if_neg (by simp [idle])]
  rfl

end

end

end Sys2Proof.Machine
end

section
/-! SUPPORT. The statement of the lock and of the service requests. -/

open Sys2Proof Sys2Proof.Machine

namespace Sys2Proof.Proofs

/-- Settles O8. That closing a closed lock is OK and leaves no record, and that byte 0 of a refusal's E07 is the requester, is
log 59. -/
theorem lockAndServiceRequests : Obligations.LockAndServiceRequests := by
  unfold Obligations.LockAndServiceRequests
  intro s₀ p code steps dom t s by_ closed
  have byPort : by_ = lockBy p := by cases p <;> rfl
  refine ⟨?opens, ?wrongCode, ?closes, ?alreadyClosed, ?timeout, ?early, ?thawDenied, ?thaw, ?range, ?single, ?cycle, ?denied⟩
  case opens => exact fun right => congrArg Host.Outcome.next (by rw [right, byPort]; exact State.lockOpenOp_of_code)
  case wrongCode => exact fun wrong => congrArg Host.Outcome.next (by rw [byPort]; exact State.lockOpenOp_of_other wrong)
  case closes => exact fun opened => congrArg Host.Outcome.next (State.lockCloseOp_of_open opened)
  case alreadyClosed => exact fun shut => congrArg Host.Outcome.next (State.lockCloseOp_of_closed shut)
  case timeout => exact exec_lockTimeout_of_due
  case early => exact fun _ => exec_lockTimeout_of_early
  case thawDenied => exact fun some_ shut => congrArg Host.Outcome.next (State.thawClearOp_of_closed some_ shut)
  case thaw => exact fun some_ opened => congrArg Host.Outcome.next (State.thawClearOp_of_open some_ opened)
  case range => exact fun opened outside => congrArg Host.Outcome.next (State.pwrCycleOp_of_outside opened outside)
  case single =>
    exact fun opened low core twin => congrArg Host.Outcome.next (State.pwrCycleOp_of_single opened low core twin)
  case cycle =>
    exact fun opened low high idle may => congrArg Host.Outcome.next (State.pwrCycleOp_of_idle opened low high idle may)
  case denied => exact fun shut asked => congrArg Host.Outcome.next (State.pwrCycleOp_of_closed shut asked)

end Sys2Proof.Proofs
end

section
/-! SUPPORT. What a family of commands may touch: some parts of the state, and the registers of a set. `State.Within` is kept
along a chain of operations, one lemma per operation, as `Keeps` is. -/

namespace Sys2Proof.Machine

/-- The parts of the state, beside the registers, that a family of commands may change. -/
structure Parts where
  now : Bool := false
  free : Bool := false
  status : Bool := false
  mirror : Bool := false
  axes : Bool := false
  pnl : Bool := false
  rtc : Bool := false
  ring : Bool := false
  triggers : Bool := false
  host : Bool := false
  svc : Bool := false
  lastLk : Bool := false

/-- The state with those parts, and the registers, blotted out: what is left is what the family does not change. -/
def Parts.rest (F : Parts) (s : State) : State :=
  { s with
    now := bif F.now then 0 else s.now
    free := bif F.free then 0 else s.free
    status := bif F.status then .ok else s.status
    regs := []
    mirror := bif F.mirror then [] else s.mirror
    axes := bif F.axes then [] else s.axes
    pnl := bif F.pnl then panelReset else s.pnl
    rtc := bif F.rtc then rtcReset else s.rtc
    ring := bif F.ring then ringReset else s.ring
    mor := { s.mor with
      triggers := bif F.triggers then [] else s.mor.triggers
      host := bif F.host then moraineReset.host else s.mor.host
      svc := bif F.svc then moraineReset.svc else s.mor.svc }
    sup := { s.sup with lastLk := bif F.lastLk then 0 else s.sup.lastLk } }

/-- From `o` to `s` only the parts `F` change and the registers in `p`, with their words in the mirror. -/
structure State.Within (F : Parts) (p : Nat → Prop) (o s : State) : Prop where
  writes : o.WritesOnly p s
  mirror : o.sound = true → ∀ a, ¬ p a → tabGet resetWord s.mirror a = tabGet resetWord o.mirror a
  rest : F.rest s = F.rest o

namespace State.Within

variable {F : Parts} {p p' : Nat → Prop} {o s t u : State}

theorem refl (s : State) : Within F p s s := ⟨.refl s, fun _ _ _ => rfl, rfl⟩

theorem trans (h : Within F p o s) (g : Within F p s t) : Within F p o t :=
  ⟨h.writes.trans g.writes, fun sound a out => (g.mirror (h.writes.sound sound) a out).trans (h.mirror sound a out),
    g.rest.trans h.rest⟩

theorem mono (h : Within F p o s) (wider : ∀ a, p a → p' a) : Within F p' o s :=
  ⟨h.writes.mono wider, fun sound a out => h.mirror sound a (out ∘ wider a), h.rest⟩

/-- An operation that leaves the registers and the mirror. -/
theorem part (h : Within F p o s) (keeps : Keeps s t) (regs : t.regs = s.regs) (mirror : t.mirror = s.mirror)
    (rest : F.rest t = F.rest s) : Within F p o t :=
  h.trans ⟨⟨keeps, fun _ a _ => congrArg (fun m => tabGet resetWord m a) regs⟩,
    fun _ a _ => congrArg (fun m => tabGet resetWord m a) mirror, rest⟩

theorem ite {c : Prop} [Decidable c] (yes : Within F p o t) (no : Within F p o u) :
    Within F p o (if c then t else u) := by
  split
  · exact yes
  · exact no

/-- A condition: the operation, or nothing. -/
theorem thenIf {c : Prop} [Decidable c] (h : Within F p o s) (g : Within F p o s → Within F p o t) :
    Within F p o (if c then t else s) := .ite (g h) h

theorem foldS {α : Type} {f : State → α → State} {l : List α} (h : Within F p o s)
    (g : ∀ s, ∀ x ∈ l, Within F p o s → Within F p o (f s x)) : Within F p o (foldS f s l) := by
  induction l generalizing s with
  | nil => exact h
  | cons x l ih =>
    exact ih (g s x List.mem_cons_self h) fun s y mem => g s y (List.mem_cons_of_mem x mem)

/-! ### Registers -/

theorem wr (h : Within F p o s) {a : Nat} {v : Word} (inside : p a) : Within F p o (s.wr a v) :=
  h.trans ⟨.wr inside, fun _ _ _ => rfl, rfl⟩

theorem setFld (h : Within F p o s) {a v : Nat} {f : Fld} (inside : p a) : Within F p o (s.setFld a f v) := h.wr inside

theorem setSfld (h : Within F p o s) {a : Nat} {f : Fld} {v : Int} (inside : p a) : Within F p o (s.setSfld a f v) :=
  h.wr inside

theorem setFlag (h : Within F p o s) {a : Nat} {f : Fld} {b : Bool} (inside : p a) : Within F p o (s.setFlag a f b) :=
  h.wr inside

theorem addFld (h : Within F p o s) {a k : Nat} {f : Fld} (inside : p a) : Within F p o (s.addFld a f k) := h.wr inside

theorem countSat (h : Within F p o s) {a k : Nat} {f : Fld} (inside : p a) : Within F p o (s.countSat a f k) :=
  h.wr inside

theorem wrAll (h : Within F p o s) {l : List (Nat × Word)} (inside : ∀ a ∈ l.map Prod.fst, p a) :
    Within F p o (s.wrAll l) :=
  h.trans ⟨⟨State.wrAll_keeps (.refl s), fun sound _ out => tabGet_tabSetAll_eq (State.sound.regs sound)
    (fun e mem at_ => absurd (at_ ▸ inside e.1 (List.mem_map_of_mem mem)) out) (.inr rfl)⟩, fun _ _ _ => rfl, rfl⟩

/-! ### Parts -/

theorem atTime (h : Within F p o s) (may : F.now = true) {t : Time} : Within F p o (s.atTime t) :=
  h.part (State.atTime_keeps (.refl s)) rfl rfl (by simp [Parts.rest, may, State.atTime, State.setNow])

theorem answer (h : Within F p o s) (may : F.status = true) {r : Status} : Within F p o (s.answer r) :=
  h.part (State.answer_keeps (.refl s)) rfl rfl (by simp [Parts.rest, may, State.answer])

theorem freshWord (h : Within F p o s) (may : F.free = true) : Within F p o s.freshWord.2 :=
  h.part (State.freshWord_keeps (.refl s)) rfl rfl (by simp [Parts.rest, may, State.freshWord, State.setFree])

theorem freshQ (h : Within F p o s) (may : F.free = true) : Within F p o s.freshQ.2 :=
  h.part (State.freshQ_keeps (.refl s)) rfl rfl (by simp [Parts.rest, may, State.freshQ, State.setFree])

theorem raiseT (h : Within F p o s) (may : F.triggers = true) {x : Trig} : Within F p o (s.raiseT x) :=
  h.part (State.raiseT_keeps (.refl s)) rfl rfl (by simp [Parts.rest, may, State.raiseT, State.setMor])

theorem raise (h : Within F p o s) (may : F.triggers = true) {code source data : Nat} :
    Within F p o (s.raise code source data) := h.raiseT may

theorem raiseF (h : Within F p o s) (may : F.triggers = true) {code source data : Nat} {b : Bool} :
    Within F p o (s.raiseF code source data b) := h.raiseT may

theorem noteLk (h : Within F p o s) (may : F.lastLk = true) : Within F p o s.noteLk :=
  h.part (State.setSup_keeps (.refl s)) rfl rfl (by simp [Parts.rest, may, State.noteLk, State.setSup])

theorem setRtc (h : Within F p o s) (may : F.rtc = true) {x : Rtc} : Within F p o (s.setRtc x) :=
  h.part (State.setRtc_keeps (.refl s)) rfl rfl (by simp [Parts.rest, may, State.setRtc])

theorem setRing (h : Within F p o s) (may : F.ring = true) {x : Ring} : Within F p o (s.setRing x) :=
  h.part (State.setRing_keeps (.refl s)) rfl rfl (by simp [Parts.rest, may, State.setRing])

theorem setPanel (h : Within F p o s) {x : Panel} (maps : x.maps = s.pnl.maps) (may : F.pnl = true) :
    Within F p o (s.setPanel x) :=
  h.part (State.setPanel_same (.refl s) maps) rfl rfl (by simp [Parts.rest, may, State.setPanel])

/-! ### What it says of a read -/

theorem sound (h : Within F p o s) (sound : o.sound = true) : s.sound = true := h.writes.sound sound

theorem rd (h : Within F p o s) (sound : o.sound = true) {a : Nat} (out : ¬ p a) : s.rd a = o.rd a :=
  h.writes.regs sound a out

end State.Within

end Sys2Proof.Machine
end

section
/-! SUPPORT. What the operations of the calendar touch (R300–R317): their registers, the watermark, the events, the answer and
the lock's last use. -/

namespace Sys2Proof.Machine

/-- What the calendar's commands may change beside registers. -/
def calendarParts : Parts :=
  { now := true, free := true, status := true, rtc := true, triggers := true, lastLk := true }

/-- The eight registers that show the calendar. -/
def calReg (a : Nat) : Prop := R.RTC_SEC ≤ a ∧ a ≤ R.RTC_CENT

/-- The registers of the watermark (R330). -/
def markReg (a : Nat) : Prop := a = R.REC_STAT ∨ a = R.REC_REGWT ∨ a = R.REC_REGWD

/-- The registers of the calendar's block and of the watermark. -/
def calendarReg (a : Nat) : Prop := blockNo a = 0x400C ∨ markReg a

theorem calendarReg_of_calReg {a : Nat} (h : calReg a) : calendarReg a := by
  obtain ⟨low, high⟩ := h
  simp only [R.RTC_SEC, R.RTC_CENT] at low high
  exact .inl (by unfold blockNo; omega)

/-- The registers of alarm `k` stand in the calendar's block. -/
theorem calendarReg_of_alarm {k : Nat} (small : k < 4) {a : Nat} (low : R.RTC_ACFG k ≤ a) (high : a ≤ R.RTC_ADUED k) :
    calendarReg a := by
  simp only [R.RTC_ACFG, R.RTC_ADUED] at low high
  exact .inl (by unfold blockNo; omega)

theorem calendarReg_ACFG {k : Nat} (small : k < 4) : calendarReg (R.RTC_ACFG k) :=
  calendarReg_of_alarm small (Nat.le_refl _) (by simp [R.RTC_ACFG, R.RTC_ADUED])

/-- Alarm `k` at its instant D or later, before it is disabled or repeated: FLAG, E61, SKIPPED and MISSED. -/
def State.alarmNoted (s : State) (k : Nat) : State :=
  let skipped := decide (s.alarmDue k * 32768 < s.calCounts)
  let missed := !s.nodeOn
  let data := skipped.toNat + 2 * missed.toNat + 2 ^ 8 * (s.rd (R.RTC_ADUET k)).toNat + 2 ^ 32 * (s.rd (R.RTC_ADUED k)).toNat
  let s := (s.setFlag (R.RTC_ACFG k) F.RTC_ACFG_FLAG true).raiseAon 0x61 k data
  let s := if skipped then s.setFlag (R.RTC_ACFG k) F.RTC_ACFG_SKIPPED true else s
  if missed then s.setFlag (R.RTC_ACFG k) F.RTC_ACFG_MISSED true else s

/-- An alarm that has fired is repeated where it may be and a match is left, and disabled otherwise. -/
theorem State.fireAlarm_eq (s : State) (k : Nat) : s.fireAlarm k =
    if (s.alarmNoted k).flag (R.RTC_ACFG k) F.RTC_ACFG_REPEAT then
      match ((s.alarmNoted k).alarmMatch k).after (s.alarmNoted k).cal with
      | some n => (s.alarmNoted k).putAlarmDue k n
      | none => (s.alarmNoted k).setFlag (R.RTC_ACFG k) F.RTC_ACFG_EN false
    else (s.alarmNoted k).setFlag (R.RTC_ACFG k) F.RTC_ACFG_EN false := by
  unfold State.fireAlarm
  rfl

namespace State.Within

variable {p : Nat → Prop} {o s : State}

/-! ### Seconds, trust, watermark (R300, R301, R313, R314, R330) -/

section
variable (h : Within calendarParts p o s)
include h

theorem raiseAon {code source data : Nat} : Within calendarParts p o (s.raiseAon code source data) :=
  .ite (h.raise rfl) (h.setRtc rfl)

theorem putTrust (trust : p R.RTC_TRUST) : Within calendarParts p o s.putTrust := h.setFld trust

theorem setOsf (trust : p R.RTC_TRUST) {cause : Nat} : Within calendarParts p o (s.setOsf cause) :=
  have set := (h.setFlag trust).putTrust trust
  .ite set set.raiseAon

theorem putCal (cal : ∀ a, calReg a → p a) {n : Nat} : Within calendarParts p o (s.putCal n) :=
  have eight : ∀ a ∈ [R.RTC_SEC, R.RTC_MIN, R.RTC_HOUR, R.RTC_DOW, R.RTC_DAY, R.RTC_MON, R.RTC_YEAR, R.RTC_CENT],
      R.RTC_SEC ≤ a ∧ a ≤ R.RTC_CENT := by decide
  h.wrAll fun a mem => cal a (eight a mem)

theorem putSub {k : Nat} : Within calendarParts p o (s.putSub k) := h.setRtc rfl

theorem putMark (mark : ∀ a, markReg a → p a) {v w : Word} :
    Within calendarParts p o (s.wrAll [(R.REC_REGWT, v), (R.REC_REGWD, w)]) :=
  h.wrAll (List.forall_mem_cons.2 ⟨mark _ (.inr (.inl rfl)), List.forall_mem_singleton.2 (mark _ (.inr (.inr rfl)))⟩)

theorem clearWatermark (mark : ∀ a, markReg a → p a) : Within calendarParts p o s.clearWatermark := by
  unfold State.clearWatermark
  split
  · exact h.thenIf fun h => (h.putMark mark).setFlag (mark _ (.inl rfl))
  · exact h

theorem raiseWatermark (mark : ∀ a, markReg a → p a) {old : Nat} : Within calendarParts p o (s.raiseWatermark old) :=
  (h.putMark mark).setFlag (mark _ (.inl rfl))

theorem carrySecond (cal : ∀ a, calReg a → p a) (trust : p R.RTC_TRUST) : Within calendarParts p o s.carrySecond :=
  have wrapped := (h.putCal cal).setRtc rfl
  .ite (wrapped.setOsf trust).raiseAon wrapped

theorem alarmNoted {k : Nat} (acfg : p (R.RTC_ACFG k)) : Within calendarParts p o (s.alarmNoted k) :=
  .thenIf (.thenIf (h.setFlag acfg).raiseAon fun h => h.setFlag acfg) fun h => h.setFlag acfg

theorem countMeasure (cmd : p R.RTC_TRIMCMD) : Within calendarParts p o s.countMeasure := h.thenIf fun h => h.addFld cmd

/-! ### Adjustments (R303–R307) -/

theorem adjust (cal : ∀ a, calReg a → p a) (mark : ∀ a, markReg a → p a) {n sub src : Nat} :
    Within calendarParts p o (s.adjust n sub src) :=
  have put := (h.putCal cal).putSub
  (put.thenIf fun put => put.raiseWatermark mark).raiseAon

end

/-! ### The commands, over the whole block -/

section
variable (h : Within calendarParts calendarReg o s)
include h

theorem calSecond : Within calendarParts calendarReg o s.calSecond :=
  (((h.carrySecond (fun _ => calendarReg_of_calReg) (.inl rfl)).setRtc rfl).countMeasure (.inl rfl)).clearWatermark fun _ => .inr

theorem setShadow {i : Nat} {x : Option (List Word × Time)} : Within calendarParts calendarReg o (s.setShadow i x) :=
  h.setRtc rfl

theorem commandSet {mode : Nat} : Within calendarParts calendarReg o (s.commandSet mode) := by
  unfold State.commandSet
  split
  · exact h.answer rfl
  · exact ((h.setRtc rfl).setFlag (.inl rfl)).answer rfl

theorem commandShift {neg : Bool} {count : Nat} : Within calendarParts calendarReg o (s.commandShift neg count) :=
  .ite (h.answer rfl) (.ite (h.answer rfl) (((h.setRtc rfl).setFlag (.inl rfl)).answer rfl))

theorem commandDst {forward : Bool} : Within calendarParts calendarReg o (s.commandDst forward) :=
  .ite (h.answer rfl) (.ite (h.answer rfl) (((h.setRtc rfl).setFlag (.inl rfl)).answer rfl))

theorem adjustWhole {n sub src : Nat} : Within calendarParts calendarReg o (s.adjust n sub src) :=
  h.adjust (fun _ => calendarReg_of_calReg) fun _ => .inr

theorem applySet {mode : Nat} : Within calendarParts calendarReg o (s.applySet mode) := by
  have adjusted : Within calendarParts calendarReg o
      (match s.staged with | some n => s.adjust n 0 (mode - 1) | none => s) := by
    split
    · exact h.adjustWhole
    · exact h
  exact (((((adjusted.setRtc rfl).setFlag (.inl rfl)).setFlag (.inl rfl)).setFlag (.inl rfl)).setFlag (.inl rfl)).putTrust
    (.inl rfl)

theorem applyDst {forward : Bool} : Within calendarParts calendarReg o (s.applyDst forward) :=
  ((h.adjustWhole.setRtc rfl).setFlag (.inl rfl)).setFlag (.inl rfl)

theorem applyShift {neg : Bool} {count : Nat} : Within calendarParts calendarReg o (s.applyShift neg count) :=
  (h.adjustWhole.setRtc rfl).setFlag (.inl rfl)

theorem applyAdjust : Within calendarParts calendarReg o s.applyAdjust := by
  unfold State.applyAdjust
  refine State.Within.clearWatermark ?_ fun _ => .inr
  dsimp only
  split
  · exact h.applySet
  · have changed : Within calendarParts calendarReg o
        (match s.rtc.dst with | some (f, true) => s.applyDst f | _ => s) := by
      split
      · exact h.applyDst
      · exact h
    split
    · exact changed.applyShift
    · exact changed

/-! ### Trim (R308, R309) -/

theorem putTrim {v : Int} : Within calendarParts calendarReg o (s.putTrim v) := (h.setSfld (.inl rfl)).setRtc rfl

theorem endMeasure {res : Nat} {e : Int} : Within calendarParts calendarReg o (s.endMeasure res e) :=
  (((h.setRtc rfl).setFlag (.inl rfl)).setFld (.inl rfl)).raiseAon

theorem cutMeasure {res : Nat} : Within calendarParts calendarReg o (s.cutMeasure res) :=
  h.thenIf fun h => (h.freshWord rfl).endMeasure

theorem writeTrim {v : Nat} : Within calendarParts calendarReg o (s.writeTrim v) :=
  .ite (h.answer rfl) (.ite (h.answer rfl) ((h.putTrim.raiseAon.cutMeasure.noteLk rfl).answer rfl))

theorem startMeasure {host : Bool} : Within calendarParts calendarReg o (s.startMeasure host) :=
  .ite (h.answer rfl) (.ite (h.answer rfl)
    ((((((h.setRtc rfl).setFlag (.inl rfl)).setFld (.inl rfl)).setFld (.inl rfl)).noteLk rfl).answer rfl))

theorem measureMains {nom : Bool} : Within calendarParts calendarReg o (s.measureMains nom) :=
  .ite h.startMeasure (h.setFlag (.inl rfl)).startMeasure

theorem abortMeasure : Within calendarParts calendarReg o s.abortMeasure := .ite (h.answer rfl) ((h.cutMeasure.noteLk rfl).answer rfl)

theorem finishMeasure {lost : Bool} {e : Int} : Within calendarParts calendarReg o (s.finishMeasure lost e) :=
  have shown {v : Int} : Within calendarParts calendarReg o (s.setSfld R.RTC_TRIMERR F.RTC_TRIMERR_ERR v) :=
    h.setSfld (.inl rfl)
  .ite h (.ite (h.thenIf fun h => h.cutMeasure) (.ite h (.ite h.cutMeasure
    (.ite shown.endMeasure shown.putTrim.endMeasure))))

/-! ### Alarms, cell, supply (R311–R315) -/

section
variable {k : Nat} (small : k < 4)
include small

theorem putAlarmDue {n : Nat} : Within calendarParts calendarReg o (s.putAlarmDue k n) :=
  h.wrAll (List.forall_mem_cons.2
    ⟨calendarReg_of_alarm small (by simp [R.RTC_ACFG, R.RTC_ADUET]) (by simp [R.RTC_ADUET, R.RTC_ADUED]),
      List.forall_mem_singleton.2 (calendarReg_of_alarm small (by simp [R.RTC_ACFG, R.RTC_ADUED]) (Nat.le_refl _))⟩)

theorem setAcfg {f : Fld} {b : Bool} : Within calendarParts calendarReg o (s.setFlag (R.RTC_ACFG k) f b) :=
  h.setFlag (calendarReg_ACFG small)

theorem enableAlarm : Within calendarParts calendarReg o (s.enableAlarm k) := by
  unfold State.enableAlarm
  refine .ite (h.answer rfl) ?_
  split
  · exact ((h.putAlarmDue small).setAcfg small).answer rfl
  · exact h.answer rfl

theorem fireAlarm : Within calendarParts calendarReg o (s.fireAlarm k) := by
  rw [State.fireAlarm_eq]
  have noted := h.alarmNoted (calendarReg_ACFG small)
  refine .ite ?_ (noted.setAcfg small)
  split
  · exact noted.putAlarmDue small
  · exact noted.setAcfg small

theorem clearAlarmFlag : Within calendarParts calendarReg o (s.clearAlarmFlag k) :=
  ((h.setAcfg small).setAcfg small).setAcfg small

end

theorem sampleCell {mv vrtc : Nat} : Within calendarParts calendarReg o (s.sampleCell mv vrtc) :=
  have shown {b : Bool} := (((h.setFld (a := R.RTC_VBAT) (f := F.RTC_VBAT_VCELL) (v := mv) (.inl rfl)).setFld
    (a := R.RTC_VBAT) (f := F.RTC_VBAT_VRTC) (v := vrtc) (.inl rfl)).setFlag (a := R.RTC_TRUST) (f := F.RTC_TRUST_LBV)
    (b := b) (.inl rfl)).putTrust (.inl rfl)
  .ite shown (shown.raise rfl)

theorem changeOver {toMain : Bool} {vrtc vcell : BitVec 16} :
    Within calendarParts calendarReg o (s.changeOver toMain vrtc vcell) :=
  State.Within.thenIf (h.setFlag (.inl rfl)) fun h => h.raise rfl

end

/-- What the family leaves alone: every part that it does not name. -/
theorem calendar_rest (h : Within calendarParts p o s) :
    s = { o with now := s.now, free := s.free, status := s.status, regs := s.regs, rtc := s.rtc
                 mor := { o.mor with triggers := s.mor.triggers }, sup := { o.sup with lastLk := s.sup.lastLk } } :=
  congrArg (fun r : State => { r with
    now := s.now, free := s.free, status := s.status, regs := s.regs, rtc := s.rtc
    mor := { r.mor with triggers := s.mor.triggers }, sup := { r.sup with lastLk := s.sup.lastLk } }) h.rest

end State.Within

end Sys2Proof.Machine
end

section
/-! SUPPORT. What the operations on a cursor touch (R330–R333), and what those on the ports of the ring and on the service
port do (R348, R354, R361, R366). -/

namespace Sys2Proof.Machine

/-- From `s` an outcome stays within the parts `F` and the registers in `p`, if it is a next state. -/
def OutWithin (F : Parts) (p : Nat → Prop) (s : State) (o : Out) : Prop := ∀ u, o = .next u → s.Within F p u

theorem OutWithin.next {F : Parts} {p : Nat → Prop} {s t : State} (h : s.Within F p t) : OutWithin F p s (.next t) := by
  rintro u ⟨⟩
  exact h

/-- The commands of the calendar. -/
theorem exec_calendar_within (s : State) (p : Port) (q : Option Port) (b : Bool) (c : BitVec 15) (v : BitVec 13) (e : Int)
    (a : Fin 4) (x y : BitVec 16) (t : Time) :
    ∀ i ∈ [Instr.calendarSecond t, .rtcSecRead q t, .rtcCentRead q, .rtcShadowTimeout q, .rtcSetAtSecond p,
      .rtcSetImmediate p, .rtcShift p b c, .dstForward p, .dstBack p, .rtcAdjustApply t, .trimAccumulate,
      .rtcTrimWrite p v t, .trimMeasureMains p b t, .trimMeasureHost p t, .trimMeasureAbort p t, .trimMeasureEnd b e t,
      .alarmEnable p a t, .calendarAlarmFire a t, .alarmFlagClear p a, .cellSample x y, .vrtcChangeover b x y],
    OutWithin calendarParts calendarReg s (exec i s) := by
  have start : s.Within calendarParts calendarReg s := .refl s
  have timed {t : Time} : s.Within calendarParts calendarReg (s.atTime t) := start.atTime rfl
  have timeout : s.Within calendarParts calendarReg (match tabGet (dflt none) s.rtc.shadows (readerNo q) with
      | some (_, frozen) => (s.atTime (frozen + sec)).releaseCal q
      | none => s) := by
    split
    · exact timed.setShadow
    · exact start
  exact List.forall_iff_forall_mem.1 ⟨.next (timed.thenIf fun h => h.calSecond), .next timed.setShadow,
    .next start.setShadow, .next timeout, .next start.commandSet, .next start.commandSet, .next start.commandShift,
    .next start.commandDst, .next start.commandDst, .next timed.applyAdjust, .next (start.thenIf fun h => h.setRtc rfl),
    .next timed.writeTrim, .next timed.measureMains, .next timed.startMeasure, .next timed.abortMeasure,
    .next timed.finishMeasure, .next (timed.enableAlarm a.isLt), .next (timed.thenIf fun h => h.fireAlarm a.isLt),
    .next ((start.clearAlarmFlag a.isLt).answer rfl), .next (start.thenIf fun h => h.sampleCell),
    .next (start.thenIf fun h => h.changeOver)⟩

/-! ### Cursors (R330–R333) -/

/-- What the commands of a port's cursor may change beside registers. -/
def cursorParts : Port → Parts
  | .host => { status := true, host := true }
  | .svc => { status := true, svc := true }

/-- The recorder's registers. -/
def recorderReg (a : Nat) : Prop := blockNo a = 0x400D

theorem cursorParts_status (p : Port) : (cursorParts p).status = true := by cases p <;> rfl

theorem cursorNo_le_one (p : Port) : cursorNo p ≤ 1 := by cases p <;> decide

/-- The registers of a port's cursor stand in the recorder's block. -/
theorem recorderReg_of_cursor (p : Port) {a : Nat} (low : R.REC_CURSEQ (cursorNo p) ≤ a)
    (high : a ≤ R.REC_WIN (cursorNo p) 15) : recorderReg a := by
  have := cursorNo_le_one p
  simp only [R.REC_CURSEQ, R.REC_WIN] at low high
  unfold recorderReg blockNo
  omega

theorem recorderReg_CURST (p : Port) : recorderReg (R.REC_CURST (cursorNo p)) :=
  recorderReg_of_cursor p (by simp [R.REC_CURSEQ, R.REC_CURST]) (by simp only [R.REC_CURST, R.REC_WIN]; omega)

theorem recorderReg_CURCMD (p : Port) : recorderReg (R.REC_CURCMD (cursorNo p)) :=
  recorderReg_of_cursor p (by simp [R.REC_CURSEQ, R.REC_CURCMD]) (by simp only [R.REC_CURCMD, R.REC_WIN]; omega)

theorem Rec.words_length (r : Rec) (seq : Nat) : (r.words seq).length = 16 := by
  simp [Rec.words]

namespace State.Within

section
variable {p : Port} {o s : State} (h : Within (cursorParts p) recorderReg o s)
include h

theorem setCursor {x : Cursor} : Within (cursorParts p) recorderReg o (s.setCursor p x) := by
  cases p
  case host => exact h.part (State.setMor_keeps (.refl s)) rfl rfl rfl
  case svc => exact h.part (State.setMor_keeps (.refl s)) rfl rfl rfl

theorem cursorStat {r : Status} : Within (cursorParts p) recorderReg o (s.cursorStat p r) :=
  h.setFld (recorderReg_CURST p)

theorem latch {x : Nat × Nat × Rec} {r : Status} : Within (cursorParts p) recorderReg o (s.latch p x r) := by
  have place := recorderReg_CURST p
  refine ((h.setCursor.setFlag place).setFld place).cursorStat.wrAll fun a mem => ?_
  obtain ⟨e, listed, rfl⟩ := List.mem_map.1 mem
  obtain ⟨k, inside, rfl⟩ := List.mem_mapIdx.1 listed
  have := Rec.words_length x.2.2 x.2.1
  exact recorderReg_of_cursor p (by simp only [R.REC_CURSEQ, R.REC_WIN]; omega) (by simp only [R.REC_WIN]; omega)

theorem position {x : Option (Nat × Nat × Rec)} : Within (cursorParts p) recorderReg o (s.position p x) := by
  cases x
  case none => exact h.cursorStat
  case some x => exact h.latch

theorem relatch {minsev : Nat} : Within (cursorParts p) recorderReg o (s.relatch p minsev) := by
  unfold State.relatch
  split
  · exact h.latch
  · exact h.cursorStat

theorem answerCursor {r : Status} : Within (cursorParts p) recorderReg o (s.answer r) := h.answer (cursorParts_status p)

/-- Every command of a cursor: the checks, then `f`. -/
theorem cursorCmd {minsev : Nat} {f : State → State}
    (moves : ∀ u, Within (cursorParts p) recorderReg o u → Within (cursorParts p) recorderReg o (f u)) :
    Within (cursorParts p) recorderReg o (s.cursorCmd p minsev f) :=
  .ite h.answerCursor (.ite h.cursorStat.answerCursor
    (moves _ (h.setFld (recorderReg_CURCMD p))).answerCursor)

/-- NEXT and PREV: from a place, or from an end where none is latched or the record has left its slot. -/
theorem stepCursor {x y : Option (Nat × Nat × Rec)} {minsev : Nat} : Within (cursorParts p) recorderReg o
    (if (s.cursor p).latched.isNone then s.position p x else if s.overwritten p then s.relatch p minsev
      else s.position p y) :=
  .ite h.position (.ite h.relatch h.position)

theorem windowCheck : Within (cursorParts p) recorderReg o (s.windowCheck p) :=
  .ite h.answerCursor (.ite h.relatch.answerCursor h.cursorStat.answerCursor)

end

theorem cursor_rest {p : Port} {q : Nat → Prop} {o s : State} (h : Within (cursorParts p) q o s) :
    s = { o with status := s.status, regs := s.regs, mor := { o.mor with host := s.mor.host, svc := s.mor.svc } } := by
  cases p
  case host =>
    have svc : s.mor.svc = o.mor.svc := congrArg (fun r => r.mor.svc) h.rest
    have all : s = { o with status := s.status, regs := s.regs, mor := { o.mor with host := s.mor.host } } :=
      congrArg (fun r : State => { r with
        status := s.status, regs := s.regs, mor := { r.mor with host := s.mor.host } }) h.rest
    rw [svc]
    exact all
  case svc =>
    have host : s.mor.host = o.mor.host := congrArg (fun r => r.mor.host) h.rest
    have all : s = { o with status := s.status, regs := s.regs, mor := { o.mor with svc := s.mor.svc } } :=
      congrArg (fun r : State => { r with
        status := s.status, regs := s.regs, mor := { r.mor with svc := s.mor.svc } }) h.rest
    rw [host]
    exact all

theorem cursor_other {p : Port} {q : Nat → Prop} {o s : State} (h : Within (cursorParts p) q o s) :
    (p = .host → s.mor.svc = o.mor.svc) ∧ (p = .svc → s.mor.host = o.mor.host) := by
  constructor
  · rintro rfl
    exact congrArg (fun r => r.mor.svc) h.rest
  · rintro rfl
    exact congrArg (fun r => r.mor.host) h.rest

end State.Within

theorem exec_cursor_within (s : State) (p : Port) (m : BitVec 2) (j : Fin 16) :
    ∀ i ∈ [Instr.cursorAt p m, .cursorOldest p m, .cursorNewest p m, .cursorNext p m, .cursorPrev p m, .windowRead p j],
    OutWithin (cursorParts p) recorderReg s (exec i s) := by
  have start : s.Within (cursorParts p) recorderReg s := .refl s
  exact List.forall_iff_forall_mem.1 ⟨.next (start.cursorCmd fun _ h => h.position),
    .next (start.cursorCmd fun _ h => h.position), .next (start.cursorCmd fun _ h => h.position),
    .next (start.cursorCmd fun _ h => h.stepCursor), .next (start.cursorCmd fun _ h => h.stepCursor),
    .next start.windowCheck⟩

/-! ### The ports of the ring and the service port (R348, R354, R361, R366) -/

/-- What those ports may change beside registers. -/
def ringParts : Parts := { now := true, free := true, ring := true, triggers := true }

/-- The registers of the ring and of the service port. -/
def ringReg (a : Nat) : Prop := blockNo a = 0x4010 ∨ blockNo a = 0x4012

theorem ringReg_RNG_PORT (portB : Bool) : ringReg (R.RNG_PORT (portIx portB)) := by
  cases portB
  · exact .inl rfl
  · exact .inl rfl

namespace State.Within

section
variable {o s : State} (h : Within ringParts ringReg o s)
include h

theorem setPortLink {n : Nat} {b : Bool} : Within ringParts ringReg o (s.setPortLink n b) := .ite (h.setRing rfl) (h.setRing rfl)

theorem setPortState {portB : Bool} {v : Nat} : Within ringParts ringReg o (s.setPortState (portIx portB) v) :=
  .ite h ((h.setFld (ringReg_RNG_PORT portB)).raise rfl)

theorem missCycle {portB : Bool} : Within ringParts ringReg o (s.missCycle (portIx portB)) :=
  State.Within.thenIf ((h.countSat (ringReg_RNG_PORT portB)).setRing rfl) fun h => (h.setFlag (.inl rfl)).setRing rfl

theorem sendResp : Within ringParts ringReg o s.sendResp := (((h.freshWord rfl).freshWord rfl).freshWord rfl).setRing rfl

theorem sessionEvent {b : Bool} : Within ringParts ringReg o (s.sessionEvent b) := .ite h ((h.setFlag (.inr rfl)).raise rfl)

end

theorem ring_rest {q : Nat → Prop} {o s : State} (h : Within ringParts q o s) :
    s = { o with now := s.now, free := s.free, regs := s.regs, ring := s.ring
                 mor := { o.mor with triggers := s.mor.triggers } } :=
  congrArg (fun r : State => { r with
    now := s.now, free := s.free, regs := s.regs, ring := s.ring, mor := { r.mor with triggers := s.mor.triggers } }) h.rest

end State.Within

theorem exec_ring_within (s : State) (b : Bool) (n : Byte) (t : Time) :
    ∀ i ∈ [Instr.portLinkDown b, .portLinkUp b, .portBroken b, .cycleWithoutHeader b, .vbusAttach, .deviceConfigured,
      .svcSessionOpen, .svcSessionClose, .svcFrameTimeout, .mbxResponse n t],
    OutWithin ringParts ringReg s (exec i s) := by
  have start : s.Within ringParts ringReg s := .refl s
  exact List.forall_iff_forall_mem.1 ⟨.next (start.thenIf fun h => h.setPortLink.setPortState),
    .next (start.thenIf fun h => (h.setPortLink.setFld (ringReg_RNG_PORT b)).setRing rfl),
    .next (start.thenIf fun h => h.setPortState), .next (start.thenIf fun h => (h.atTime rfl).missCycle),
    .next (start.thenIf fun h => h.setFlag (.inr rfl)), .next (start.thenIf fun h => h.setFlag (.inr rfl)),
    .next (start.thenIf fun h => h.sessionEvent), .next (start.thenIf fun h => h.sessionEvent),
    .next (start.thenIf fun h => h.addFld (.inr rfl)), .next ((start.atTime rfl).thenIf fun h => h.sendResp)⟩

end Sys2Proof.Machine
end

section
/-! SUPPORT. The statement of what the commands of the calendar, of the cursors and of the ports leave unchanged. -/

open Sys2Proof Sys2Proof.Machine

namespace Sys2Proof.Proofs

/-- Settles O24. -/
theorem calendarRecorderAndRingFrames : Obligations.CalendarRecorderAndRingFrames := by
  unfold Obligations.CalendarRecorderAndRingFrames
  intro i s u p q b c v e a m x y j n t sound run
  refine ⟨fun mem => ?calendar, fun mem => ?cursor, fun mem => ?ring⟩
  case calendar =>
    have within := exec_calendar_within s p q b c v e a x y t i mem u run
    refine ⟨within.calendar_rest, fun k other notStat notTime notDate => within.rd sound ?_⟩
    rintro (inside | mark)
    · exact other inside
    · exact mark.elim notStat (Or.rec notTime notDate)
  case cursor =>
    have within := exec_cursor_within s p m j i mem u run
    obtain ⟨svc, host⟩ := within.cursor_other
    exact ⟨within.cursor_rest, svc, host, fun k other => within.rd sound other⟩
  case ring =>
    have within := exec_ring_within s b n t i mem u run
    exact ⟨within.ring_rest, fun k notRing notSvc => within.rd sound fun inside => inside.elim notRing notSvc⟩

end Sys2Proof.Proofs
end

section
/-! SUPPORT. The statement of what the commands of the panel and of the axes leave unchanged, refuted. -/

open Sys2Proof Sys2Proof.Machine

namespace Sys2Proof.Proofs

/-- Axis 0 at standstill in MODE 1, with PD10 powered, that holds a value for parameter number 0x4000. SETPAR (R267, R268)
takes none but 0–3; the canonical form says nothing of what an axis holds. -/
def strayHeld : State :=
  { State.reset with
    regs := [(R.PWR_DOM, 0x403), (R.GLS_CFG 0, 0x04000000), (R.GLS_AXST 0, 0x20000000)]
    axes := [(0, { axisReset with held := [(0x4000, some 1)] })] }

theorem strayHeld_sound : strayHeld.sound = true := by decide

/-- The held value comes into force at the register of its number, which stands in the panel's block. -/
theorem strayHeld_movea : ∃ u, exec (.movea 0 5) strayHeld = .next u ∧ u.rd (R.PNL_VC 0) = 1 :=
  ⟨_, rfl, by decide +kernel⟩

theorem strayHeld_rd : strayHeld.rd (R.PNL_VC 0) = 0 := by decide +kernel

/-- Refutes O23: a motion command brings what the axis holds into force, at a register of another block where the state
holds a parameter number that SETPAR refuses. -/
theorem not_panelAndAxisFrames : ¬ Obligations.PanelAndAxisFrames := by
  unfold Obligations.PanelAndAxisFrames
  intro frames
  obtain ⟨u, run, written⟩ := strayHeld_movea
  obtain ⟨-, axes⟩ := frames (.movea 0 5) strayHeld u .host 0 0 0 0 0 0 0 0 0 0 0 0 0 0 5 0 0 false false false 0 0 0
    strayHeld_sound run
  obtain ⟨-, registers⟩ := axes List.mem_cons_self
  have kept := (registers (R.PNL_VC 0) (by decide)).1
  rw [written, strayHeld_rd] at kept
  exact absurd kept (by decide)

end Sys2Proof.Proofs
end

section
/-! SUPPORT. What a field reads after a chain of operations: `State.Reads` is kept by every operation that leaves the field. -/

namespace Sys2Proof.Machine

/-- From the sound state `o` a chain of operations has come to `s`, where field `f` of the register at `a` reads `v`. -/
structure State.Reads (o : State) (a : Nat) (f : Fld) (v : Nat) (s : State) : Prop where
  keeps : Keeps o s
  read : o.sound = true → s.fld a f = v

namespace State.Reads

variable {o s t u : State} {a b v w : Nat} {f g : Fld}

theorem start (o : State) (a : Nat) (f : Fld) : o.Reads a f (o.fld a f) o := ⟨.refl o, fun _ => rfl⟩

/-- The field has just been written. -/
theorem set (keeps : Keeps o s) (small : v < 2 ^ f.width) (fits : f.lo + f.width ≤ 32) : o.Reads a f v (s.setFld a f v) :=
  ⟨State.setFld_keeps keeps, fun sound =>
    (State.fld_setFld_same (keeps.sound sound) fits).trans (Nat.mod_eq_of_lt small)⟩

theorem setBit (keeps : Keeps o s) {c : Bool} (wide : 0 < f.width) (fits : f.lo + f.width ≤ 32) :
    o.Reads a f c.toNat (s.setFlag a f c) :=
  .set keeps (Nat.lt_of_lt_of_le (Bool.toNat_lt c) (Nat.pow_le_pow_right (n := 2) (by decide) wide)) fits

/-- Another register is written, or another field of the same. -/
theorem setFld (h : o.Reads a f v s) (apart : b ≠ a ∨
    f.lo + f.width ≤ 32 ∧ (f.lo + f.width ≤ g.lo ∨ g.lo + g.width ≤ f.lo)) : o.Reads a f v (s.setFld b g w) := by
  refine ⟨State.setFld_keeps h.keeps, fun sound => Eq.trans ?_ (h.read sound)⟩
  have good := h.keeps.sound sound
  rcases apart with other | ⟨fits, apart⟩
  · exact State.fld_wr_ne good other.symm
  · by_cases same : b = a
    · subst same
      exact State.fld_setFld_ne good fits apart
    · exact State.fld_wr_ne good (Ne.symm same)

theorem setFlag (h : o.Reads a f v s) {c : Bool} (apart : b ≠ a ∨
    f.lo + f.width ≤ 32 ∧ (f.lo + f.width ≤ g.lo ∨ g.lo + g.width ≤ f.lo)) : o.Reads a f v (s.setFlag b g c) :=
  h.setFld apart

theorem setSfld (h : o.Reads a f v s) {x : Int} (apart : b ≠ a ∨
    f.lo + f.width ≤ 32 ∧ (f.lo + f.width ≤ g.lo ∨ g.lo + g.width ≤ f.lo)) : o.Reads a f v (s.setSfld b g x) :=
  h.setFld apart

theorem wrAll (h : o.Reads a f v s) {l : List (Nat × Word)} (out : a ∉ l.map Prod.fst) : o.Reads a f v (s.wrAll l) :=
  ⟨State.wrAll_keeps h.keeps, fun sound => (congrArg (fldOf f) (tabGet_tabSetAll_eq
    (State.sound.regs (h.keeps.sound sound)) (fun _ mem at_ => absurd (at_ ▸ List.mem_map_of_mem mem) out)
    (.inr rfl))).trans (h.read sound)⟩

/-- An operation that leaves the registers. -/
theorem sameRegs (h : o.Reads a f v s) (keeps : Keeps s t) (regs : t.regs = s.regs) : o.Reads a f v t :=
  ⟨h.keeps.trans keeps, fun sound => (congrArg (fun m => fldOf f (tabGet resetWord m a)) regs).trans (h.read sound)⟩

/-- An operation that does not write the register. -/
theorem writesOnly {p : Nat → Prop} (h : o.Reads a f v s) (g : s.WritesOnly p t) (out : ¬ p a) : o.Reads a f v t :=
  ⟨h.keeps.trans g.keeps, fun sound => (g.fld (h.keeps.sound sound) f out).trans (h.read sound)⟩

theorem setRtc (h : o.Reads a f v s) {x : Rtc} : o.Reads a f v (s.setRtc x) :=
  h.sameRegs (State.setRtc_keeps (.refl s)) rfl

theorem raise (h : o.Reads a f v s) {code source data : Nat} : o.Reads a f v (s.raise code source data) :=
  h.sameRegs (State.raise_keeps (.refl s)) rfl

theorem ite {c : Prop} [Decidable c] (yes : o.Reads a f v t) (no : o.Reads a f v u) :
    o.Reads a f v (if c then t else u) := by
  split
  · exact yes
  · exact no

theorem thenIf {c : Prop} [Decidable c] (h : o.Reads a f v s) (g : o.Reads a f v s → o.Reads a f v t) :
    o.Reads a f v (if c then t else s) := .ite (g h) h

theorem raiseAon (h : o.Reads a f v s) {code source data : Nat} : o.Reads a f v (s.raiseAon code source data) :=
  .ite h.raise h.setRtc

theorem flag (h : o.Reads a f v s) (sound : o.sound = true) : s.flag a f = (v != 0) := congrArg (· != 0) (h.read sound)

/-- A flag that has been set, or cleared, reads so. -/
theorem flag_toNat {c : Bool} (h : o.Reads a f c.toNat s) (sound : o.sound = true) : s.flag a f = c :=
  (h.flag sound).trans (by cases c <;> rfl)

end State.Reads

end Sys2Proof.Machine
end

section
/-! SUPPORT. The rules of the calendar alarms, of the crystal and of the cell (R311–R315). -/

namespace Sys2Proof.Machine

theorem State.raiseAon_of_on {s : State} (on : s.powered 1 = true) (code source data : Nat) :
    s.raiseAon code source data = s.raise code source data := if_pos on

/-- An operation that writes none of the calendar's registers leaves the calendar. -/
theorem State.WritesOnly.cal {p : Nat → Prop} {s t : State} (h : s.WritesOnly p t) (sound : s.sound = true)
    (out : ∀ a, calReg a → ¬ p a) : t.cal = s.cal := by
  have same {a : Nat} (shown : R.RTC_SEC ≤ a ∧ a ≤ R.RTC_CENT) : t.rd a = s.rd a := h.regs sound a (out a shown)
  simp only [State.cal, State.fld]
  rw [same (a := R.RTC_SEC) (by decide), same (a := R.RTC_MIN) (by decide), same (a := R.RTC_HOUR) (by decide),
    same (a := R.RTC_DAY) (by decide), same (a := R.RTC_MON) (by decide), same (a := R.RTC_YEAR) (by decide),
    same (a := R.RTC_CENT) (by decide)]

theorem calReg_ne_ACFG {a k : Nat} (shown : calReg a) : a ≠ R.RTC_ACFG k := by
  obtain ⟨-, high⟩ := shown
  simp only [R.RTC_CENT, R.RTC_ACFG] at high ⊢
  omega

/-! ### Trust and the calendar's supply (R313–R315) -/

section
variable {o s : State} {v : Nat} {f : Fld}

theorem State.Reads.putTrust (h : o.Reads R.RTC_TRUST f v s) (above : f.lo + f.width ≤ 32 ∧ 2 ≤ f.lo) :
    o.Reads R.RTC_TRUST f v s.putTrust := h.setFld (.inr ⟨above.1, .inr above.2⟩)

theorem State.CODE_putTrust (sound : s.sound = true) : s.putTrust.fld R.RTC_TRUST F.RTC_TRUST_CODE =
    s.fld R.RTC_TRUST F.RTC_TRUST_LBV + 2 * s.fld R.RTC_TRUST F.RTC_TRUST_OSF := by
  have lbv : s.fld R.RTC_TRUST F.RTC_TRUST_LBV < 2 := fldOf_lt _ _
  have osf : s.fld R.RTC_TRUST F.RTC_TRUST_OSF < 2 := fldOf_lt _ _
  refine (State.fld_setFld_same sound (by decide)).trans (Nat.mod_eq_of_lt ?_)
  simp only [F.RTC_TRUST_CODE]
  omega

/-- OSF sets. -/
theorem State.Reads.setOsf (keeps : Keeps o s) (cause : Nat) : o.Reads R.RTC_TRUST F.RTC_TRUST_OSF 1 (s.setOsf cause) :=
  have set := (State.Reads.setBit (a := R.RTC_TRUST) (f := F.RTC_TRUST_OSF) (c := true) keeps (by decide)
    (by decide)).putTrust (by decide)
  .ite set set.raiseAon

theorem State.Reads.setOsf_other {a : Nat} (h : o.Reads a f v s) (other : R.RTC_TRUST ≠ a) (cause : Nat) :
    o.Reads a f v (s.setOsf cause) :=
  have set := (h.setFlag (c := true) (g := F.RTC_TRUST_OSF) (.inl other)).setFld (g := F.RTC_TRUST_CODE) (.inl other)
  .ite set set.raiseAon

theorem State.setOsf_xt32Bad (s : State) (cause : Nat) : (s.setOsf cause).rtc.xt32Bad = s.rtc.xt32Bad := by
  simp only [State.setOsf, State.raiseAon]
  split
  · rfl
  · split <;> rfl

/-- Bit 1 of the trust code sets with OSF. -/
theorem State.setOsf_CODE (sound : s.sound = true) (cause : Nat) :
    (s.setOsf cause).fld R.RTC_TRUST F.RTC_TRUST_CODE / 2 = 1 := by
  have good : (s.setFlag R.RTC_TRUST F.RTC_TRUST_OSF true).sound = true := State.sound_setFld sound
  have osf : (s.setFlag R.RTC_TRUST F.RTC_TRUST_OSF true).fld R.RTC_TRUST F.RTC_TRUST_OSF = 1 :=
    State.fld_setFld_same sound (by decide)
  have lbv : (s.setFlag R.RTC_TRUST F.RTC_TRUST_OSF true).fld R.RTC_TRUST F.RTC_TRUST_LBV < 2 := fldOf_lt _ _
  have code := State.CODE_putTrust good
  rw [osf] at code
  have set := State.Reads.start (s.setFlag R.RTC_TRUST F.RTC_TRUST_OSF true).putTrust R.RTC_TRUST F.RTC_TRUST_CODE
  have shown : (s.setFlag R.RTC_TRUST F.RTC_TRUST_OSF true).putTrust.Reads R.RTC_TRUST F.RTC_TRUST_CODE _ (s.setOsf cause) :=
    .ite set set.raiseAon
  rw [shown.read ((State.putTrust_keeps (.refl _)).sound good), code]
  omega

/-- LBV as a sample of the cell leaves it, by its two thresholds. -/
def State.cellLow (s : State) (mv : Nat) : Bool :=
  if mv < 2300 then true else if 2400 ≤ mv then false else s.flag R.RTC_TRUST F.RTC_TRUST_LBV

theorem State.cellLow_eq (s : State) (mv : Nat) :
    s.cellLow mv = (decide (mv < 2300) || (s.flag R.RTC_TRUST F.RTC_TRUST_LBV && decide (mv < 2400))) := by
  unfold State.cellLow
  by_cases below : mv < 2300
  · simp [below]
  · by_cases above : 2400 ≤ mv
    · simp [below, above, Nat.not_lt.2 above]
    · simp [below, above, Nat.lt_of_not_le above]

/-- The sample shows both voltages, and LBV. -/
theorem State.sampleCell_shows (sound : s.sound = true) (mv vrtc : BitVec 16) :
    (s.sampleCell mv.toNat vrtc.toNat).fld R.RTC_VBAT F.RTC_VBAT_VCELL = mv.toNat ∧
    (s.sampleCell mv.toNat vrtc.toNat).fld R.RTC_VBAT F.RTC_VBAT_VRTC = vrtc.toNat ∧
    (s.sampleCell mv.toNat vrtc.toNat).flag R.RTC_TRUST F.RTC_TRUST_LBV = s.cellLow mv.toNat := by
  have judged {a v : Nat} {f : Fld} {u : State} (h : s.Reads a f v (u.setFlag R.RTC_TRUST F.RTC_TRUST_LBV (s.cellLow mv.toNat)))
      (apart : R.RTC_TRUST ≠ a ∨ f.lo + f.width ≤ 32 ∧ (f.lo + f.width ≤ 0 ∨ 2 ≤ f.lo)) (c : Prop) [Decidable c] {n : Nat} :
      s.Reads a f v (if c then (u.setFlag R.RTC_TRUST F.RTC_TRUST_LBV (s.cellLow mv.toNat)).putTrust
        else (u.setFlag R.RTC_TRUST F.RTC_TRUST_LBV (s.cellLow mv.toNat)).putTrust.raise 0x63 n mv.toNat) :=
    have put := h.setFld (b := R.RTC_TRUST) (g := F.RTC_TRUST_CODE) apart
    .ite put put.raise
  have cell : s.Reads R.RTC_VBAT F.RTC_VBAT_VCELL mv.toNat _ := .set (.refl s) mv.isLt (by decide)
  have supply : s.Reads R.RTC_VBAT F.RTC_VBAT_VRTC vrtc.toNat _ := .set cell.keeps vrtc.isLt (by decide)
  have low : s.Reads R.RTC_TRUST F.RTC_TRUST_LBV (s.cellLow mv.toNat).toNat _ :=
    .setBit supply.keeps (by decide) (by decide)
  exact ⟨(judged ((cell.setFld (by decide)).setFlag (by decide)) (by decide) _).read sound,
    (judged (supply.setFlag (by decide)) (by decide) _).read sound, (judged low (by decide) _).flag_toNat sound⟩

end

theorem State.changesOver_iff {s : State} {toMain : Bool} {vrtc vcell : Nat} :
    s.changesOver toMain vrtc vcell = true ↔ s.flag R.RTC_TRUST F.RTC_TRUST_ONCELL = toMain ∧
      if toMain then vcell + 60 < vrtc ∧ 2750 < vrtc else vrtc < vcell ∨ vrtc < 2600 := by
  cases toMain <;> simp [State.changesOver]

/-! ### Alarms (R311–R313) -/

section
variable {s : State} {k : Nat}

theorem State.enableAlarm_of_enabled (on : s.flag (R.RTC_ACFG k) F.RTC_ACFG_EN = true) : s.enableAlarm k = s.answer .ok :=
  if_pos on

theorem State.enableAlarm_of_never (off : s.flag (R.RTC_ACFG k) F.RTC_ACFG_EN = false)
    (never : (s.alarmMatch k).after s.cal = none) : s.enableAlarm k = s.answer .range := by
  simp only [State.enableAlarm, off, never, Bool.false_eq_true, if_false]

theorem State.enableAlarm_of_match {n : Nat} (off : s.flag (R.RTC_ACFG k) F.RTC_ACFG_EN = false)
    (next : (s.alarmMatch k).after s.cal = some n) :
    s.enableAlarm k = ((s.putAlarmDue k n).setFlag (R.RTC_ACFG k) F.RTC_ACFG_EN true).answer .ok := by
  simp only [State.enableAlarm, off, next, Bool.false_eq_true, if_false]

theorem exec_calendarAlarmFire_of_due {k : Fin 4} {t : Time}
    (on : (s.atTime t).flag (R.RTC_ACFG k) F.RTC_ACFG_EN = true) (due : (s.atTime t).alarmDue k ≤ (s.atTime t).cal) :
    exec (.calendarAlarmFire k t) s = .next ((s.atTime t).fireAlarm k) :=
  congrArg Host.Outcome.next (if_pos (Bool.and_eq_true_iff.2 ⟨on, decide_eq_true due⟩))

theorem exec_calendarAlarmFire_of_idle {k : Fin 4} {t : Time}
    (idle : (s.atTime t).flag (R.RTC_ACFG k) F.RTC_ACFG_EN = false ∨ (s.atTime t).cal < (s.atTime t).alarmDue k) :
    exec (.calendarAlarmFire k t) s = .next (s.atTime t) := by
  refine congrArg Host.Outcome.next (if_neg fun fires => ?_)
  obtain ⟨on, due⟩ := Bool.and_eq_true_iff.1 fires
  rcases idle with off | early
  · exact Bool.false_ne_true (off.symm.trans on)
  · exact Nat.not_le.2 early (of_decide_eq_true due)

/-- The note of a firing writes one register. -/
theorem State.alarmNoted_within (s : State) (k : Nat) :
    s.Within calendarParts (· = R.RTC_ACFG k) (s.alarmNoted k) := (State.Within.refl s).alarmNoted rfl

/-- It writes three of its fields. -/
theorem State.Reads.alarmNoted {o : State} {f : Fld} {v : Nat} (h : o.Reads (R.RTC_ACFG k) f v s)
    (apart : f.lo + f.width ≤ 32 ∧ (f.lo + f.width ≤ 27 ∨ 30 ≤ f.lo)) : o.Reads (R.RTC_ACFG k) f v (s.alarmNoted k) := by
  have outside {g : Fld} (inside : 27 ≤ g.lo ∧ g.lo + g.width ≤ 30) : R.RTC_ACFG k ≠ R.RTC_ACFG k ∨
      f.lo + f.width ≤ 32 ∧ (f.lo + f.width ≤ g.lo ∨ g.lo + g.width ≤ f.lo) := .inr ⟨apart.1, by omega⟩
  exact .thenIf (.thenIf (h.setFlag (outside (by decide))).raiseAon fun h => h.setFlag (outside (by decide)))
    fun h => h.setFlag (outside (by decide))

theorem State.alarmNoted_FLAG (s : State) (k : Nat) : s.Reads (R.RTC_ACFG k) F.RTC_ACFG_FLAG 1 (s.alarmNoted k) :=
  .thenIf (.thenIf (State.Reads.setBit (c := true) (.refl s) (by decide) (by decide)).raiseAon
    fun h => h.setFlag (.inr (by decide))) fun h => h.setFlag (.inr (by decide))

theorem State.alarmNoted_triggers (sound : s.sound = true) (on : s.powered 1 = true) (exactly : s.cal = s.alarmDue k)
    (whole : s.rtcSub = 0) : (s.alarmNoted k).mor.triggers = insTrig ⟨s.now, 0x61, k, BitVec.ofNat 64
      (256 * (s.rd (R.RTC_ADUET k)).toNat + 4294967296 * (s.rd (R.RTC_ADUED k)).toNat), false, none, none, none⟩
      s.mor.triggers := by
  have punctual : decide (s.alarmDue k * 32768 < s.calCounts) = false := by simp [State.calCounts, exactly, whole]
  have here : s.nodeOn = true := on
  have there : (s.setFlag (R.RTC_ACFG k) F.RTC_ACFG_FLAG true).powered 1 = true :=
    (congrArg (fun w => BitVec.getLsbD w 1) (State.rd_wr_ne sound (by simp only [R.RTC_ACFG, R.PWR_DOM]; omega))).trans on
  simp only [State.alarmNoted, punctual, here, State.raiseAon_of_on there]
  simp [State.raise, State.raiseT]

/-- A field that a firing leaves. -/
theorem State.alarmNoted_flag (sound : s.sound = true) {f : Fld} (apart : f.lo + f.width ≤ 32 ∧ (f.lo + f.width ≤ 27 ∨ 30 ≤ f.lo)) :
    (s.alarmNoted k).flag (R.RTC_ACFG k) f = s.flag (R.RTC_ACFG k) f :=
  ((State.Reads.start s (R.RTC_ACFG k) f).alarmNoted apart).flag sound

theorem State.alarmNoted_alarmMatch (sound : s.sound = true) : (s.alarmNoted k).alarmMatch k = s.alarmMatch k := by
  have mask := ((State.Reads.start s (R.RTC_ACFG k) F.RTC_ACFG_MASK).alarmNoted (by decide)).read sound
  have within := s.alarmNoted_within k
  have time := within.rd sound (a := R.RTC_ATIME k) (by simp [R.RTC_ATIME, R.RTC_ACFG])
  have date := within.rd sound (a := R.RTC_ADATE k) (by simp [R.RTC_ADATE, R.RTC_ACFG])
  simp only [State.alarmMatch, mask, time, date]

theorem State.alarmNoted_cal (sound : s.sound = true) : (s.alarmNoted k).cal = s.cal :=
  (s.alarmNoted_within k).writes.cal sound fun _ => calReg_ne_ACFG

theorem State.alarmDue_of_words {t : State} (time : t.rd (R.RTC_ADUET k) = s.rd (R.RTC_ADUET k))
    (date : t.rd (R.RTC_ADUED k) = s.rd (R.RTC_ADUED k)) : t.alarmDue k = s.alarmDue k := by
  simp only [State.alarmDue, time, date]

theorem State.alarmNoted_alarmDue (sound : s.sound = true) : (s.alarmNoted k).alarmDue k = s.alarmDue k :=
  have within := s.alarmNoted_within k
  State.alarmDue_of_words (within.rd sound (by simp [R.RTC_ADUET, R.RTC_ACFG]))
    (within.rd sound (by simp [R.RTC_ADUED, R.RTC_ACFG]))

theorem State.alarmDue_setFlag (sound : s.sound = true) {f : Fld} {b : Bool} :
    (s.setFlag (R.RTC_ACFG k) f b).alarmDue k = s.alarmDue k :=
  State.alarmDue_of_words (State.rd_wr_ne sound (by simp [R.RTC_ADUET, R.RTC_ACFG]))
    (State.rd_wr_ne sound (by simp [R.RTC_ADUED, R.RTC_ACFG]))

/-- D is written, in the two registers that show it. -/
theorem State.putAlarmDue_shows (sound : s.sound = true) (k n : Nat) :
    (s.putAlarmDue k n).rd (R.RTC_ADUET k) = duetWord n ∧ (s.putAlarmDue k n).rd (R.RTC_ADUED k) = duedWord n ∧
    ∀ f, (s.putAlarmDue k n).flag (R.RTC_ACFG k) f = s.flag (R.RTC_ACFG k) f := by
  have first : (s.wr (R.RTC_ADUET k) (duetWord n)).sound = true := State.sound_wr sound
  simp only [State.putAlarmDue, State.wrAll_pair]
  refine ⟨?_, State.rd_wr_same first, fun f => ?_⟩
  · exact (State.rd_wr_ne first (by simp only [R.RTC_ADUET, R.RTC_ADUED]; omega)).trans (State.rd_wr_same sound)
  · exact congrArg (· != 0) ((State.fld_wr_ne first (by simp only [R.RTC_ACFG, R.RTC_ADUED]; omega)).trans
      (State.fld_wr_ne sound (by simp only [R.RTC_ACFG, R.RTC_ADUET]; omega)))

/-- A single alarm is disabled. -/
theorem State.fireAlarm_of_single (single : (s.alarmNoted k).flag (R.RTC_ACFG k) F.RTC_ACFG_REPEAT = false) :
    s.fireAlarm k = (s.alarmNoted k).setFlag (R.RTC_ACFG k) F.RTC_ACFG_EN false := by
  rw [State.fireAlarm_eq, if_neg (by simp [single])]

/-- A repeated one goes on to its next match. -/
theorem State.fireAlarm_of_repeat {n : Nat} (again : (s.alarmNoted k).flag (R.RTC_ACFG k) F.RTC_ACFG_REPEAT = true)
    (next : ((s.alarmNoted k).alarmMatch k).after (s.alarmNoted k).cal = some n) :
    s.fireAlarm k = (s.alarmNoted k).putAlarmDue k n := by
  rw [State.fireAlarm_eq, if_pos again, next]

/-- Whatever becomes of the alarm after it has fired, only EN and D change. -/
theorem State.fireAlarm_cases (s : State) (k : Nat) :
    s.fireAlarm k = (s.alarmNoted k).setFlag (R.RTC_ACFG k) F.RTC_ACFG_EN false ∨
      ∃ n, s.fireAlarm k = (s.alarmNoted k).putAlarmDue k n := by
  rw [State.fireAlarm_eq]
  split
  · split
    · exact .inr ⟨_, rfl⟩
    · exact .inl rfl
  · exact .inl rfl

theorem State.fireAlarm_FLAG (s : State) (k : Nat) : s.Reads (R.RTC_ACFG k) F.RTC_ACFG_FLAG 1 (s.fireAlarm k) := by
  have noted := s.alarmNoted_FLAG k
  rcases s.fireAlarm_cases k with off | ⟨n, again⟩
  · exact off ▸ noted.setFlag (.inr (by decide))
  · exact again ▸ noted.wrAll (by simp [R.RTC_ACFG, R.RTC_ADUET, R.RTC_ADUED])

theorem State.fireAlarm_triggers (s : State) (k : Nat) : (s.fireAlarm k).mor.triggers = (s.alarmNoted k).mor.triggers := by
  rcases s.fireAlarm_cases k with off | ⟨n, again⟩
  · exact off ▸ rfl
  · exact again ▸ rfl

end

end Sys2Proof.Machine
end

section
/-! PROOF. The calendar's alarms, its crystal, cell and supply. -/

open Sys2Proof Sys2Proof.Machine

namespace Sys2Proof.Proofs

/-- Settles O9: `State.enableAlarm` by its three cases; of a firing, what `State.alarmNoted` leaves in the register of the
alarm, and what is written there after it. The bytes of the data of E61 and E64 are those of log 35, and a repeated alarm
with no further match, on which nothing is claimed here, is disabled (log 40). -/
theorem calendarAlarmsAndTrust : Obligations.CalendarAlarmsAndTrust := by
  intro s₀ p k b mv vr n t sound
  have good : (s₀.atTime t).sound = true := (State.atTime_keeps (.refl s₀)).sound sound
  refine ⟨?enabled, ?never, ?later, ?idle, ?fires, rfl, ?crystal, rfl, ?cell, ⟨?past, ?other⟩, ?unpowered⟩
  case enabled => exact fun on => congrArg _ (State.enableAlarm_of_enabled on)
  case never => exact fun off none => congrArg _ (State.enableAlarm_of_never off none)
  case later => exact fun off next => congrArg _ (State.enableAlarm_of_match off next)
  case idle => exact exec_calendarAlarmFire_of_idle
  case fires =>
    intro on due
    refine ⟨_, exec_calendarAlarmFire_of_due on due, ?flag, ?single, ?again, ?event⟩
    case flag => exact ((s₀.atTime t).fireAlarm_FLAG k).flag good
    case single =>
      intro single
      have noted := (s₀.atTime t).fireAlarm_of_single (k := k) ((State.alarmNoted_flag good (by decide)).trans single)
      have kept := ((s₀.atTime t).alarmNoted_within k).writes.sound good
      refine ⟨?_, ?_⟩
      · exact noted ▸ State.flag_setFlag_same kept (by decide) (by decide)
      · have due : ((s₀.atTime t).alarmNoted k).alarmDue k = _ := State.alarmNoted_alarmDue good
        exact noted ▸ (State.alarmDue_setFlag kept).trans due
    case again =>
      intro repeats next
      have noted : (s₀.atTime t).fireAlarm k = ((s₀.atTime t).alarmNoted k).putAlarmDue k n :=
        State.fireAlarm_of_repeat ((State.alarmNoted_flag good (by decide)).trans repeats)
          (by rw [State.alarmNoted_alarmMatch good, State.alarmNoted_cal good, next])
      obtain ⟨time, date, kept⟩ := State.putAlarmDue_shows (((s₀.atTime t).alarmNoted_within k).writes.sound good) k n
      exact noted ▸ ⟨(kept _).trans ((State.alarmNoted_flag good (by decide)).trans on), time, date⟩
    case event =>
      intro powered exactly whole
      exact ((s₀.atTime t).fireAlarm_triggers k).trans (State.alarmNoted_triggers good powered exactly whole)
  case crystal =>
    have off : s₀.Reads R.CLK_REF F.CLK_REF_XT32_OK false.toNat _ :=
      (State.Reads.setBit (State.setRtc_keeps (x := { s₀.rtc with xt32Bad := true }) (State.atTime_keeps (t := t) (.refl s₀)))
        (by decide) (by decide)).setOsf_other (by decide) 1
    have lost := State.setFlag_keeps (a := R.CLK_REF) (f := F.CLK_REF_XT32_OK) (b := false)
      (State.setRtc_keeps (x := { s₀.rtc with xt32Bad := true }) (State.atTime_keeps (t := t) (.refl s₀)))
    exact ⟨_, rfl, State.setOsf_xt32Bad _ 1, off.flag_toNat sound, (State.Reads.setOsf lost 1).flag sound,
      State.setOsf_CODE (lost.sound sound) 1⟩
  case cell =>
    intro on
    obtain ⟨cell, supply, low⟩ := State.sampleCell_shows sound mv vr
    exact ⟨_, congrArg Host.Outcome.next (if_pos on), cell, supply, low.trans (s₀.cellLow_eq _)⟩
  case past =>
    exact fun on past => congrArg Host.Outcome.next (if_pos (State.changesOver_iff.2 ⟨on, past⟩))
  case other =>
    intro other
    refine congrArg Host.Outcome.next (if_neg fun past => ?_)
    have same := (State.changesOver_iff.1 past).1
    exact Bool.not_ne_self b (other.symm.trans same)
  case unpowered =>
    intro off
    exact congrArg Host.Outcome.next (if_neg (ne_true_of_eq_false off))

end Sys2Proof.Proofs
end

section
/-! SUPPORT. A frame of the service port is the request that it holds (R361). -/

namespace Sys2Proof.Machine

variable {s : State} {m : Msg}

/-- What every request of the service port needs before it is looked at. -/
theorem State.svcReq_of_off (off : (s.svcOn && s.sup.running && s.flag R.SVC_STAT F.SVC_STAT_SESSION) = false)
    (f : State → State × Option Ans) : s.svcReq m f = s := if_pos (by simp [off])

theorem State.svcReq_of_busy (on : (s.svcOn && s.sup.running && s.flag R.SVC_STAT F.SVC_STAT_SESSION) = true)
    (busy : s.ring.svcBusy = true) (f : State → State × Option Ans) :
    s.svcReq m f = s.svcSend ⟨m.type, .busy, m.seq, none, [], none, false⟩ := by
  simp [State.svcReq, on, busy]

/-- A frame whose CRC agrees runs as a request; outside a session neither does anything. -/
theorem State.serviceFrame_of_good :
    s.serviceFrame m (crc32c (wireBytes m)) = s.svcReq m (byMessage .svc m) := by
  by_cases on : (s.svcOn && s.flag R.SVC_STAT F.SVC_STAT_SESSION) = true
  · simp [State.serviceFrame, on]
  · have off : (s.svcOn && s.sup.running && s.flag R.SVC_STAT F.SVC_STAT_SESSION) = false := by
      rw [Bool.and_right_comm, Bool.eq_false_of_not_eq_true on, Bool.false_and]
    rw [State.svcReq_of_off off]
    exact if_pos (by simp [on])

theorem State.serviceFrame_of_closed (closed : s.flag R.SVC_STAT F.SVC_STAT_SESSION = false) (crc : Word) :
    s.serviceFrame m crc = s := if_pos (by simp [closed])

theorem State.serviceFrame_of_bad (on : (s.svcOn && s.flag R.SVC_STAT F.SVC_STAT_SESSION) = true) {crc : Word}
    (bad : crc ≠ crc32c (wireBytes m)) : s.serviceFrame m crc = s.addFld R.SVC_STAT F.SVC_STAT_BADFR 1 := by
  simp [State.serviceFrame, on, bad]

/-- A good frame is the command of the row that its message belongs to. -/
theorem State.serviceFrame_eq_request {f : State → State × Option Ans} {fits : Bool} (row : byMessage .svc m = f)
    (fit : fits = true) : s.serviceFrame m (crc32c (wireBytes m)) = s.request .svc m fits f := by
  rw [State.serviceFrame_of_good, row, fit]
  rfl

/-- The row of a COMMAND with code `k` (R356). -/
theorem isCommand_of_code {k : Nat} (code : m.type.toNat = 4 ∧ m.arg1.toNat = k) : isCommand m k = true := by
  obtain ⟨kind, arg⟩ := code
  have kind : m.type = 4 := BitVec.eq_of_toNat_eq kind
  simp [isCommand, kind, arg]

theorem State.sessionEvent_of_same {b : Bool} (same : s.flag R.SVC_STAT F.SVC_STAT_SESSION = b) : s.sessionEvent b = s :=
  if_pos (beq_iff_eq.2 same)

theorem State.sessionEvent_of_change {b : Bool} (change : s.flag R.SVC_STAT F.SVC_STAT_SESSION = !b) :
    s.sessionEvent b = (s.setFlag R.SVC_STAT F.SVC_STAT_SESSION b).raise 0x71 2 b.toNat :=
  if_neg (by simp [change])

end Sys2Proof.Machine
end

section
/-! PROOF. The service port. -/

open Sys2Proof Sys2Proof.Machine

namespace Sys2Proof.Proofs

/-- Settles O10: a good frame by `State.serviceFrame_eq_request`, one row of the operation table after the other; the bus and
the session by the cases of their operations. That the end of a session leaves ATTACHED and CONFIG, also where the bus
detaches, is log 54. -/
theorem servicePort : Obligations.ServicePort := by
  intro s₀ m crc t runs running
  have row {f : State → State × Option Ans} {fits : Bool} (is : byMessage .svc m = f) (fit : fits = true) :
      exec (.svcFrame m (crc32c (wireBytes m)) t) s₀ = .next ((s₀.atTime t).request .svc m fits f) :=
    congrArg Host.Outcome.next (State.serviceFrame_eq_request is fit)
  have command {f : State → State × Option Ans} {k : Nat} (code : m.type.toNat = 4 ∧ m.arg1.toNat = k)
      (is : byMessage .svc m = f) :
      exec (.svcFrame m (crc32c (wireBytes m)) t) s₀ = .next ((s₀.atTime t).request .svc m (isCommand m k) f) :=
    row is (isCommand_of_code code)
  refine ⟨congrArg _ (if_pos runs), ?configured, ?detached, ?closed, ?opened, fun is => row (by simp [byMessage, is]) (by simp [is]),
    fun is => row (by simp [byMessage, is]) (by simp [is]), fun is => row (by simp [byMessage, is]) (by simp [is]),
    fun is => command is (by simp [byMessage, is]), fun is => command is (by simp [byMessage, is]),
    fun is => command is (by simp [byMessage, is]), fun is => command is (by simp [byMessage, is]),
    fun is => command is (by simp [byMessage, is]), fun is => command is (by simp [byMessage, is]),
    fun is => command is (by simp [byMessage, is]), fun is => row (by simp [byMessage, is]) (by simp [is]),
    fun is => row (by simp [byMessage, is]) (by simp [is]), fun is arg => row (by simp [byMessage, is, arg]) (by simp [is, arg]),
    fun is arg => row (by simp [byMessage, is, arg]) (by simp [is, arg])⟩
  case configured => exact fun attached => congrArg Host.Outcome.next (if_pos (by simp [runs, attached]))
  case detached => exact fun detached => congrArg Host.Outcome.next (if_neg (by simp [detached]))
  case closed =>
    intro closed
    have closed : s₀.flag R.SVC_STAT F.SVC_STAT_SESSION = false := closed
    refine ⟨?_, ?_, ?_, ?_⟩
    · exact congrArg Host.Outcome.next ((if_pos runs).trans (State.sessionEvent_of_change closed))
    · exact congrArg Host.Outcome.next ((if_pos runs).trans (State.sessionEvent_of_same closed))
    · exact congrArg Host.Outcome.next (if_neg (by simp [closed]))
    · exact congrArg Host.Outcome.next (State.serviceFrame_of_closed (s := s₀.atTime t) closed crc)
  case opened =>
    intro opened
    have opened : s₀.flag R.SVC_STAT F.SVC_STAT_SESSION = true := opened
    have works : (s₀.svcOn && s₀.flag R.SVC_STAT F.SVC_STAT_SESSION) = true := by simp [runs, opened]
    refine ⟨?_, ?_, ?_, ?_, ?_⟩
    · exact congrArg Host.Outcome.next ((if_pos runs).trans (State.sessionEvent_of_same opened))
    · exact congrArg Host.Outcome.next ((if_pos runs).trans (State.sessionEvent_of_change opened))
    · exact congrArg Host.Outcome.next (if_pos works)
    · exact fun bad => congrArg Host.Outcome.next (State.serviceFrame_of_bad (s := s₀.atTime t) works bad)
    · intro busy
      have on : (s₀.svcOn && s₀.sup.running && s₀.flag R.SVC_STAT F.SVC_STAT_SESSION) = true := by simp [runs, running, opened]
      exact congrArg Host.Outcome.next (State.serviceFrame_of_good.trans (State.svcReq_of_busy (s := s₀.atTime t) on busy _))

end Sys2Proof.Proofs
end

section
/-! SUPPORT. How a request runs: whether its turn has come, the checks of R354, and what each row answers (R353–R356). -/

namespace Sys2Proof.Machine

variable {s : State} {p : Port} {m : Msg} {f : State → State × Option Ans}

/-! ### Turns -/

/-- A request that does not stand at the head of those the ring has brought, and is for another node. -/
theorem State.request_of_waiting {fits : Bool} (other : s.ring.taken.head? ≠ some m) (away : m.node.toNat ≠ s.ringAddr) :
    s.request .host m fits f = s := by
  cases fits with
  | false => rfl
  | true => simp [State.request, State.ringReq, other, away]

/-- A node that does not answer runs nothing of the ring. -/
theorem State.request_of_silent {fits : Bool} (silent : s.answers = false) : s.request .host m fits f = s := by
  cases fits with
  | false => rfl
  | true => simp [State.request, State.ringReq, silent]

theorem State.answers_of_off (off : s.powered 9 = false ∨ s.sup.running = false ∨ s.ringAddr = 0) : s.answers = false := by
  rcases off with off | off | off <;> simp [State.answers, State.ringOn, off]

/-- A request whose turn has come runs. -/
theorem State.request_of_turn (turn : s.turnOf p m = true) : s.request p m true f = (s.onTurn p m).runReq p m f := by
  cases p with
  | host =>
    simp only [State.turnOf, Bool.and_eq_true, beq_iff_eq] at turn
    obtain ⟨answers, head⟩ := turn
    simp [State.request, State.ringReq, State.onTurn, answers, head]
  | svc =>
    simp only [State.turnOf, Bool.and_eq_true, Bool.not_eq_true', Option.isNone_iff_eq_none] at turn
    obtain ⟨⟨⟨⟨works, running⟩, session⟩, free⟩, unheard⟩ := turn
    have unheard : (s.heard .svc).find? (fun h => h.seq = m.seq) = none := unheard
    simp only [State.request, State.svcReq, works, running, session, free, unheard]
    rfl

/-- One that fails a check of R354 is answered with its status. -/
theorem State.runReq_of_fault {r : Status} (fault : s.checkMsg m = some r) : s.runReq p m f = s.respond p m ⟨r, none, []⟩ := by
  simp only [State.runReq, fault]
  rfl

/-- One that passes them, and answers at once, is answered as it says. -/
theorem State.runReq_of_pass {op : State → State × Ans} (pass : s.checkMsg m = none) :
    s.runReq p m (now_ op) = (op s).1.respond p m (op s).2 := by
  simp only [State.runReq, pass, now_]

theorem State.request_of_row {op : State → State × Ans} {fits : Bool} {u : State} {r : Ans} (turn : s.turnOf p m = true)
    (pass : (s.onTurn p m).checkMsg m = none) (fit : fits = true) (ends : op (s.onTurn p m) = (u, r)) :
    s.request p m fits (now_ op) = u.respond p m r := by
  rw [fit, State.request_of_turn turn, State.runReq_of_pass pass, ends]

/-! ### The checks of R354 -/

theorem State.checkMsg_of_type (none : m.type = 0 ∨ 7 < m.type.toNat) : s.checkMsg m = some .range :=
  if_pos (by rcases none with none | none <;> simp [none])

/-- A type of R353 passes the first check. -/
theorem typed (low : 1 ≤ m.type.toNat) (high : m.type.toNat ≤ 7) : ¬ 7 < m.type.toNat ∧ ¬ m.type = 0#8 :=
  ⟨Nat.not_lt.2 high, fun none => absurd (none ▸ low) (by decide)⟩

theorem State.checkMsg_of_long (low : 1 ≤ m.type.toNat) (high : m.type.toNat ≤ 7) (long : 496 < m.len.toNat) :
    s.checkMsg m = some .length := by
  have typed := typed low high
  simp [State.checkMsg, typed, long]

theorem State.checkMsg_of_epoch (low : 1 ≤ m.type.toNat) (high : m.type.toNat ≤ 7) (empty : m.len.toNat = 0)
    (asks : m.flags.getLsbD 0 = true) (other : m.epoch.toNat ≠ s.ownEpoch) : s.checkMsg m = some .epoch := by
  have typed := typed low high
  have asks : m.flags[0] = true := asks
  simp [State.checkMsg, typed, empty, asks, other]

theorem State.checkMsg_of_noImage (write : m.type = 2) (empty : m.len.toNat = 0) (plain : m.flags.getLsbD 0 = false)
    (bare : s.noImage = true) : s.checkMsg m = some .state := by
  have plain : m.flags[0] = false := plain
  simp [State.checkMsg, noimgTakes, write, empty, plain, bare]

/-! ### READ and WRITE of one register (R355) -/

theorem State.readFault_of_address {a : Nat} (none : a % 4 ≠ 0 ∨ standsAt a = false) : s.readFault a = some .address :=
  if_pos (by rcases none with none | none <;> simp [none])

theorem State.readFault_of_off {a : Nat} (aligned : a % 4 = 0) (stands : standsAt a = true)
    (off : s.powered (regDomain a) = false) : s.readFault a = some .busy := by
  simp [State.readFault, aligned, stands, off]

theorem State.readFault_of_on {a : Nat} (aligned : a % 4 = 0) (stands : standsAt a = true)
    (on : s.powered (regDomain a) = true) : s.readFault a = none := by
  simp [State.readFault, aligned, stands, on]

/-- A read of one register that cannot be read. -/
theorem State.mbxReadOp_of_fault {a : Nat} {r : Status} (fault : s.readFault a = some r) (named : r = .address ∨ r = .busy) :
    s.mbxReadOp p a 1 = (s, ansOf r) := by
  rcases named with rfl | rfl <;> simp [State.mbxReadOp, wordAddrs, fault]

/-- A read of one register outside the windows of the cursors and the calendar. -/
theorem State.mbxReadOp_of_plain {a : Nat} (readable : s.readFault a = none)
    (plain : inWindowOf .host a = false ∧ inWindowOf .svc a = false ∧ (a < R.RTC_SEC ∨ R.RTC_CENT < a)) :
    s.mbxReadOp p a 1 = (s.measure a, ⟨.ok, none, leBytes 4 ((s.measure a).readReg a).toNat⟩) := by
  obtain ⟨host, svc, outside⟩ := plain
  have shown : ¬ (R.RTC_SEC ≤ a ∧ a ≤ R.RTC_CENT) := by omega
  have notFirst : a ≠ R.RTC_SEC := fun first => shown (by rw [first]; decide)
  have notLast : a ≠ R.RTC_CENT := fun last => shown (by rw [last]; decide)
  simp [State.mbxReadOp, wordAddrs, readable, State.readsWindow, host, svc, State.readWords, State.readWord, State.hostRead,
    shown, State.afterRead, notFirst, notLast, wordsBytes]

/-- READ_CH of channels that stand. -/
theorem State.readChOp_of_on {a n : Nat} (some_ : 0 < n) (few : n ≤ 124) (within : a + n ≤ 256) (on : s.powered 4 = true) :
    s.readChOp a n = (s, ⟨.ok, some (s.view R.SEQ_TIME),
      ((List.range n).map fun i => leBytes 4 (s.sample (a + i)).toNat).flatten⟩) := by
  have none : ¬ n = 0 := by omega
  simp only [State.readChOp, none, Nat.not_lt.2 few, Nat.not_lt.2 within, on, wordsBytes, List.map_map, Bool.not_true,
    Bool.false_eq_true, if_false]
  rfl

theorem ofLeBytes_leBytes_word (v : Word) : BitVec.ofNat 32 (ofLeBytes (leBytes 4 v.toNat)) = v := by
  have small := v.isLt
  apply BitVec.eq_of_toNat_eq
  simp only [leBytes, ofLeBytes, BitVec.toNat_ofNat]
  omega

/-- A write of one word is the write of its register. -/
theorem State.mbxWriteOp_of_word {a : Nat} (v : Word) : s.mbxWriteOp p a (leBytes 4 v.toNat) =
    (s.hostWrite p a v, ⟨(s.hostWrite p a v).status, if (s.hostWrite p a v).status = .ok then none else some 0, []⟩) := by
  have whole : bytesWords (leBytes 4 v.toNat) = [v] := by
    have one : (leBytes 4 v.toNat).length / 4 = 1 := by simp [leBytes]
    have all : (leBytes 4 v.toNat).take 4 = leBytes 4 v.toNat := by simp [leBytes]
    simp only [bytesWords, one, List.range_one, List.map_cons, List.map_nil, Nat.mul_zero, List.drop_zero, all,
      ofLeBytes_leBytes_word]
  have full : ¬ (leBytes 4 v.toNat).length % 4 ≠ 0 := by simp [leBytes]
  by_cases taken : (s.hostWrite p a v).status = .ok
  · simp [State.mbxWriteOp, full, whole, State.writeWords, taken, ansOf]
  · simp [State.mbxWriteOp, full, whole, State.writeWords, taken]

end Sys2Proof.Machine
end

section
/-! PROOF. The checks of a request, and its answer. -/

open Sys2Proof Sys2Proof.Machine

namespace Sys2Proof.Proofs

/-- Each of the fourteen commands of the operation table is a request of its own row. -/
theorem requestRows {s₀ : State} {p : Port} {m : Msg} {t : Time} :
    let code (k : Nat) := decide (m.type = 4) && decide (m.arg1.toNat = k)
    let rante (k : Nat) := decide (m.type = 6) && decide (m.arg1.toNat = k)
    ∀ x ∈ [(Instr.mbxRead p m t, decide (m.type = 1)), (.mbxWrite p m t, decide (m.type = 2)),
      (.readCh p m t, decide (m.type = 3)), (.ack p m t, decide (m.type = 7)), (.hostevt p m t, code 1),
      (.imageBegin p m t, code 2), (.imageEnd p m t, code 3), (.imageSwitch p m t, code 4), (.restart p m t, code 5),
      (.digestNow p m t, code 6), (.countclr p m t, code 7), (.imageBlock p m t, decide (m.type = 5)),
      (.ranteRead p m t, rante 1), (.ranteWrite p m t, rante 2)],
      ∃ f, exec x.1 s₀ = .next ((s₀.atTime t).request p m x.2 f) := by
  intro code rante
  have read : rante 1 = (m.type == 6 && m.arg1 == 1) := congrArg (decide (m.type = 6) && ·) (decide_eq_decide.2 (BitVec.toNat_inj (y := 1)))
  have write : rante 2 = (m.type == 6 && m.arg1 == 2) := congrArg (decide (m.type = 6) && ·) (decide_eq_decide.2 (BitVec.toNat_inj (y := 2)))
  rw [read, write]
  exact List.forall_iff_forall_mem.1 ⟨⟨_, rfl⟩, ⟨_, rfl⟩, ⟨_, rfl⟩, ⟨_, rfl⟩, ⟨_, rfl⟩, ⟨_, rfl⟩, ⟨_, rfl⟩, ⟨_, rfl⟩,
    ⟨_, rfl⟩, ⟨_, rfl⟩, ⟨_, rfl⟩, ⟨_, rfl⟩, ⟨_, rfl⟩, ⟨_, rfl⟩⟩

theorem requestChecks : Clauses.RequestChecks := by
  intro s₀ p m i fits r t s w code rante row
  obtain ⟨f, runs⟩ := requestRows (s₀ := s₀) _ row
  refine ⟨?unfit, ?waiting, ?silent, ?fault, State.checkMsg_of_type, State.checkMsg_of_long, State.checkMsg_of_epoch,
    State.checkMsg_of_noImage⟩
  case unfit =>
    rintro rfl
    exact runs
  case waiting =>
    rintro rfl other away
    exact runs.trans (congrArg _ (State.request_of_waiting other away))
  case silent =>
    rintro rfl off
    exact runs.trans (congrArg _ (State.request_of_silent (State.answers_of_off off)))
  case fault =>
    rintro rfl turn fault
    exact runs.trans (congrArg _ ((State.request_of_turn turn).trans (State.runReq_of_fault fault)))

theorem requestAnswers : Clauses.RequestAnswers := by
  intro s₀ p m v t s w a n plain turn pass
  have row {i : Instr} {fits : Bool} {op : State → State × Ans} {u : State} {r : Ans}
      (runs : exec i s₀ = .next (s.request p m fits (now_ op))) (fit : fits = true) (ends : op w = (u, r)) :
      exec i s₀ = .next (u.respond p m r) :=
    runs.trans (congrArg Host.Outcome.next (State.request_of_row turn pass fit ends))
  have typed {k : Byte} (is : m.type = k) : (m.type == k) = true := beq_iff_eq.2 is
  have command {k : Nat} (is : m.type = 4) (code : n = k) : isCommand m k = true :=
    isCommand_of_code ⟨congrArg BitVec.toNat is, code⟩
  refine ⟨?none, ?long, ?nowhere, ?off, ?read, ?ragged, ?write, ?noChannel, ?manyChannels, ?pastChannels, ?channels, ?ack,
    ?noEvent, ?event, ?closed, ?restart, ?busy, ?digest, ?counts⟩
  case none => exact fun is none => row rfl (typed is) (if_pos none)
  case long =>
    intro is long
    exact row rfl (typed is) ((if_neg (by omega)).trans (if_pos long))
  case nowhere =>
    intro is one nowhere
    exact row rfl (typed is) ((congrArg (w.mbxReadOp p a) one).trans (State.mbxReadOp_of_fault (State.readFault_of_address nowhere) (.inl rfl)))
  case off =>
    intro is one aligned stands off
    exact row rfl (typed is) ((congrArg (w.mbxReadOp p a) one).trans (State.mbxReadOp_of_fault (State.readFault_of_off aligned stands off) (.inr rfl)))
  case read =>
    intro is one aligned stands on plain
    exact row rfl (typed is) ((congrArg (w.mbxReadOp p a) one).trans (State.mbxReadOp_of_plain (State.readFault_of_on aligned stands on) plain))
  case ragged => exact fun is ragged => row rfl (typed is) (if_pos ragged)
  case write => exact fun is word => row rfl (typed is) (word ▸ State.mbxWriteOp_of_word v)
  case noChannel => exact fun is none => row rfl (typed is) (if_pos none)
  case manyChannels => exact fun is many => row rfl (typed is) ((if_neg (by omega)).trans (if_pos many))
  case pastChannels =>
    intro is some few past
    exact row rfl (typed is) ((if_neg (by omega)).trans ((if_neg (by omega)).trans (if_pos past)))
  case channels =>
    intro is some few within on
    exact row rfl (typed is) (State.readChOp_of_on some few within on)
  case ack => exact fun is => row rfl (typed is) rfl
  case noEvent => exact fun is code empty => row rfl (command is code) (by rw [empty]; rfl)
  case event =>
    intro is code some
    exact row rfl (command is code) (congrArg (·, ansOf .ok) (if_neg (by simpa using some)))
  case closed => exact fun is code closed => row rfl (command is code) (if_neg (by simp [closed]))
  case restart =>
    intro is code opened free
    exact row rfl (command is code) ((if_pos opened).trans (congrArg (·, ansOf .ok) (if_neg (by simp [free]))))
  case busy =>
    intro is code busy
    exact row rfl (command is code) (if_pos (by rcases busy with busy | busy <;> simp [busy]))
  case digest =>
    intro is code on free image
    exact row rfl (command is code) ((if_neg (by simp [on, free])).trans (if_neg (by simp [image])))
  case counts => exact fun is code => row rfl (command is code) rfl

/-- Settles O56: a request whose turn has come is checked and run by its row (`State.request_of_turn`), and what it answers
is what the row's operation says. BUSY of a domain without power, of a read as of DIGEST_NOW, is log 59, and the READ of no
register that is OK at any address log 42. -/
theorem requestChecksAndAnswers : Obligations.RequestChecksAndAnswers := ⟨requestChecks, requestAnswers⟩

end Sys2Proof.Proofs
end

section
/-! SUPPORT. The statement of the ports of the ring, refuted. -/

open Sys2Proof Sys2Proof.Machine

namespace Sys2Proof.Proofs

/-- Port A with its clock running, before the first header and with CYCT 0, and with two entries for port A in the table of
the cycles counted (log 52): the canonical form does not speak of that table. -/
def countedTwice : State :=
  { State.reset with
    regs := [(R.PWR_DOM, 0x203), (R.CLK_LOCK, 0x400)]
    ring := { ringReset with countedAt := [(0, 0), (0, 7)] } }

theorem countedTwice_sound : countedTwice.sound = true := by decide

theorem countedTwice_portOn : countedTwice.portOn 0 = true := by decide

/-- A cycle of no length ends at 0, where the entry of port A is left out; the second one then shows. -/
theorem countedTwice_cycle :
    ∃ u, exec (.cycleWithoutHeader false) countedTwice = .next u ∧ tabGet (dflt 0) u.ring.countedAt 0 = 7 :=
  ⟨_, rfl, by decide⟩

theorem countedTwice_ends : tabGet (dflt 0) countedTwice.ring.countedAt 0 +
    (if countedTwice.ring.cyct = 0 then countedTwice.fld R.RNG_CYCT F.RNG_CYCT_CYCT else countedTwice.ring.cyct) * 1000 =
      0 := by decide

/-- Refutes O55: the end of a cycle without a header is not the one noted where the table of the cycles counted holds a
port twice. -/
theorem not_ringPortsAndFrames : ¬ Obligations.RingPortsAndFrames := by
  unfold Obligations.RingPortsAndFrames
  rintro ⟨ports, -⟩
  obtain ⟨-, -, -, -, ⟨u, run, -, -, -, -, -, noted⟩, -⟩ := ports countedTwice false 0 countedTwice_sound countedTwice_portOn
  obtain ⟨v, ran, shown⟩ := countedTwice_cycle
  obtain rfl : u = v := by simpa using run.symm.trans ran
  have none : tabGet (dflt 0) u.ring.countedAt 0 = 0 := noted.trans countedTwice_ends
  exact absurd (shown.symm.trans none) (by decide)

end Sys2Proof.Proofs
end

section
/-! SUPPORT. The calendar's arithmetic (R300, R301): `dateOf` and `dayNumber` undo each other, and an instant put into the
calendar's registers is read back. -/

namespace Sys2Proof.Machine

/-! ### Years -/

theorem yearStart_le (e : Nat) : yearStart e ≤ 366 * e := by
  unfold yearStart
  omega

theorem yearStart_lead {e : Nat} (small : e < 400) : 366 * (e + 1) ≤ yearStart (e + 2) := by
  unfold yearStart
  omega

/-- The day after a year's last is the first of the next. -/
theorem yearStart_succ (k : Nat) : yearStart (k + 1) = yearStart k + 365 + (isLeap (2000 + k)).toNat := by
  have four : (k + 1 + 3) / 4 = (k + 3) / 4 + if k % 4 = 0 then 1 else 0 := by split <;> omega
  have hundred : (k + 1 + 99) / 100 = (k + 99) / 100 + if k % 100 = 0 then 1 else 0 := by split <;> omega
  have fourHundred : (k + 1 + 399) / 400 = (k + 399) / 400 + if k % 400 = 0 then 1 else 0 := by split <;> omega
  have room : (k + 99) / 100 ≤ (k + 3) / 4 := by omega
  have era : isLeap (2000 + k) = isLeap k := by simp [isLeap, Nat.add_mod 2000 k]
  simp only [yearStart, four, hundred, fourHundred, era]
  by_cases byFour : k % 4 = 0
  · by_cases byHundred : k % 100 = 0
    · by_cases byFourHundred : k % 400 = 0
      · have leap : isLeap k = true := by simp [isLeap, byFour, byFourHundred]
        rw [if_pos byFour, if_pos byHundred, if_pos byFourHundred, leap, Bool.toNat_true]
        omega
      · have common : isLeap k = false := by simp [isLeap, byHundred, byFourHundred]
        rw [if_pos byFour, if_pos byHundred, if_neg byFourHundred, common, Bool.toNat_false]
        omega
    · have leap : isLeap k = true := by simp [isLeap, byFour, byHundred]
      rw [if_pos byFour, if_neg byHundred, if_neg (by omega), leap, Bool.toNat_true]
      omega
  · have common : isLeap k = false := by simp [isLeap, byFour]
    rw [if_neg byFour, if_neg (by omega), if_neg (by omega), common, Bool.toNat_false]
    omega

/-- The year in which day `n` falls, counted from 2000. -/
def yearOf (n : Nat) : Nat := if yearStart (n / 366 + 1) ≤ n then n / 366 + 1 else n / 366

theorem yearOf_spec {n : Nat} (within : n < calDays) :
    yearStart (yearOf n) ≤ n ∧ n < yearStart (yearOf n + 1) ∧ yearOf n < 400 := by
  have day : n < 146097 := within
  have low := yearStart_le (n / 366)
  have high := yearStart_lead (e := n / 366) (by omega)
  have end_ : yearStart 400 = 146097 := by decide
  unfold yearOf
  split
  next later =>
    refine ⟨later, Nat.lt_of_lt_of_le (by omega) high, ?_⟩
    rcases Nat.lt_or_ge (n / 366 + 1) 400 with before | after
    · exact before
    · exfalso
      have last : n / 366 + 1 = 400 := by omega
      rw [last] at later
      omega
  next earlier => exact ⟨by omega, Nat.lt_of_not_le earlier, by omega⟩

/-! ### Months -/

theorem monthLen_le (y m : Nat) : monthLen y m ≤ 31 := by
  unfold monthLen
  repeat' split
  all_goals decide

theorem monthStart_succ {m : Nat} (y : Nat) (first : 1 ≤ m) : monthStart y (m + 1) = monthStart y m + monthLen y m := by
  obtain ⟨i, rfl⟩ := Nat.exists_eq_add_of_le' first
  simp [monthStart, List.range_succ]

theorem monthStart_thirteen (y : Nat) : monthStart y 13 = 365 + (isLeap y).toNat := by
  cases leap : isLeap y <;> simp [monthStart, List.range_succ, monthLen, leap]

theorem monthStart_mono {y i j : Nat} (rises : i ≤ j) : monthStart y (i + 1) ≤ monthStart y (j + 1) := by
  induction rises with
  | refl => exact Nat.le_refl _
  | step _ ih => exact Nat.le_trans ih ((monthStart_succ y (Nat.succ_pos _)).symm ▸ Nat.le_add_right _ _)

/-- The numbers below `N` that have a property which passes down to every smaller number are the first ones. -/
theorem lt_length_filter_range {P : Nat → Bool} (down : ∀ i j, i ≤ j → P j = true → P i = true) (N : Nat) :
    ((List.range N).filter P).length ≤ N ∧ ∀ i < N, P i = true ↔ i < ((List.range N).filter P).length := by
  induction N with
  | zero => exact ⟨Nat.le_refl _, fun i low => absurd low (Nat.not_lt_zero i)⟩
  | succ N ih =>
    obtain ⟨short, first⟩ := ih
    rw [List.range_succ, List.filter_append, List.length_append]
    cases last : P N with
    | true =>
      have all : (List.range N).filter P = List.range N :=
        List.filter_eq_self.2 fun i mem => down i N (Nat.le_of_lt (List.mem_range.1 mem)) last
      simp only [all, List.length_range, List.filter_singleton, last]
      exact ⟨Nat.le_refl _, fun i low => ⟨fun _ => low, fun _ => down i N (Nat.le_of_lt_succ low) last⟩⟩
    | false =>
      simp only [List.filter_singleton, last]
      refine ⟨Nat.le_succ_of_le short, fun i low => ?_⟩
      rcases Nat.lt_succ_iff_lt_or_eq.1 low with below | rfl
      · exact first i below
      · simp [last, Nat.not_lt.2 short]

/-- The month of day `r` of the year `y`. -/
def monthOf (y r : Nat) : Nat := ((List.range 12).filter (fun i => monthStart y (i + 1) ≤ r)).length

theorem monthOf_spec {y r : Nat} (within : r < 365 + (isLeap y).toNat) :
    1 ≤ monthOf y r ∧ monthOf y r ≤ 12 ∧ monthStart y (monthOf y r) ≤ r ∧ r < monthStart y (monthOf y r) + 31 := by
  obtain ⟨short, first⟩ := lt_length_filter_range (P := fun i => decide (monthStart y (i + 1) ≤ r))
    (fun i j low reached => decide_eq_true (Nat.le_trans (monthStart_mono low) (of_decide_eq_true reached))) 12
  change monthOf y r ≤ 12 at short
  change ∀ i < 12, _ ↔ i < monthOf y r at first
  simp only [decide_eq_true_eq] at first
  have january : 1 ≤ monthOf y r := (first 0 (by decide)).1 (Nat.zero_le r)
  have begun : monthStart y (monthOf y r) ≤ r := by
    have := (first (monthOf y r - 1) (by omega)).2 (by omega)
    rwa [Nat.sub_add_cancel january] at this
  have unended : r < monthStart y (monthOf y r + 1) := by
    rcases Nat.lt_or_ge (monthOf y r) 12 with inside | december
    · exact Nat.lt_of_not_le fun passed => Nat.lt_irrefl _ ((first _ inside).1 passed)
    · have last : monthOf y r = 12 := by omega
      rw [last, monthStart_thirteen]
      exact within
  have length := monthLen_le y (monthOf y r)
  rw [monthStart_succ y january] at unended
  exact ⟨january, short, begun, by omega⟩

/-! ### Days -/

theorem dateOf_eq (n : Nat) : dateOf n = (2000 + yearOf n, monthOf (2000 + yearOf n) (n - yearStart (yearOf n)),
    n - yearStart (yearOf n) - monthStart (2000 + yearOf n) (monthOf (2000 + yearOf n) (n - yearStart (yearOf n))) + 1) := rfl

/-- The date of a day of the calendar, and the day of that date. -/
theorem dateOf_spec {n : Nat} (within : n < calDays) : ∃ y m d, dateOf n = (y, m, d) ∧ dayNumber y m d = n ∧
    2000 ≤ y ∧ y < 2400 ∧ 1 ≤ m ∧ m ≤ 12 ∧ 1 ≤ d ∧ d ≤ 31 := by
  obtain ⟨begun, unended, last⟩ := yearOf_spec within
  have whole := yearStart_succ (yearOf n)
  obtain ⟨january, december, monthBegun, monthUnended⟩ :=
    monthOf_spec (y := 2000 + yearOf n) (r := n - yearStart (yearOf n)) (by omega)
  refine ⟨_, _, _, dateOf_eq n, ?_, by omega, by omega, january, december, by omega, by omega⟩
  have same : 2000 + yearOf n - 2000 = yearOf n := Nat.add_sub_cancel_left ..
  rw [dayNumber, same]
  omega

/-! ### The registers of the calendar -/

theorem ofBcd_toBcd {v : Nat} (two : v < 100) : ofBcd (toBcd v) = v := by
  simp only [ofBcd, toBcd]
  omega

/-- Two digits that fit a field at the bottom of a word. -/
theorem ofBcd_fldOf {v width : Nat} (two : v < 100) (fits : toBcd v < 2 ^ width) :
    ofBcd (fldOf ⟨0, width⟩ (BitVec.ofNat 32 (toBcd v))) = v := by
  have small : toBcd v < 2 ^ 32 := by
    simp only [toBcd]
    omega
  simp only [fldOf, BitVec.toNat_ofNat, Nat.mod_eq_of_lt small, pow_zero, Nat.div_one, Nat.mod_eq_of_lt fits]
  exact ofBcd_toBcd two

/-- Of registers that are written together, each once, every one has its word. -/
theorem State.rd_wrAll_of_mem {s : State} (sound : s.sound = true) {l : List (Nat × Word)} (once : (l.map Prod.fst).Nodup)
    {a : Nat} {v : Word} (mem : (a, v) ∈ l) : (s.wrAll l).rd a = v :=
  tabGet_tabSetAll_eq (State.sound.regs sound)
    (fun _ other at_ => congrArg Prod.snd (List.inj_on_of_nodup_map once other mem at_)) (.inl ⟨_, mem, rfl⟩)

/-- The words of the eight registers at the instant `n` of the calendar. -/
def calWordsOf (n : Nat) : List (Nat × Word) :=
  let d := dateOf (n / 86400)
  let r := n % 86400
  [(R.RTC_SEC, BitVec.ofNat 32 (toBcd (r % 60))), (R.RTC_MIN, BitVec.ofNat 32 (toBcd (r / 60 % 60))),
    (R.RTC_HOUR, BitVec.ofNat 32 (toBcd (r / 3600))), (R.RTC_DOW, BitVec.ofNat 32 (dowOf (n / 86400))),
    (R.RTC_DAY, BitVec.ofNat 32 (toBcd d.2.2)), (R.RTC_MON, BitVec.ofNat 32 (toBcd d.2.1)),
    (R.RTC_YEAR, BitVec.ofNat 32 (toBcd (d.1 % 100))), (R.RTC_CENT, BitVec.ofNat 32 (toBcd (d.1 / 100)))]

theorem calWordsOf_once (n : Nat) : ((calWordsOf n).map Prod.fst).Nodup := by
  show [R.RTC_SEC, R.RTC_MIN, R.RTC_HOUR, R.RTC_DOW, R.RTC_DAY, R.RTC_MON, R.RTC_YEAR, R.RTC_CENT].Nodup
  decide

section
variable {s : State} (sound : s.sound = true) (n : Nat)
include sound

theorem State.rd_putCal {a : Nat} {v : Word} (mem : (a, v) ∈ calWordsOf (n % calSeconds)) : (s.putCal n).rd a = v :=
  State.rd_wrAll_of_mem sound (calWordsOf_once _) mem

/-- The calendar after an instant has been put into its registers. -/
theorem State.cal_putCal : (s.putCal n).cal = n % calSeconds := by
  have within : n % calSeconds / 86400 < calDays :=
    Nat.div_lt_of_lt_mul (Nat.mul_comm .. ▸ Nat.mod_lt n (by decide : 0 < calSeconds))
  obtain ⟨y, m, d, date, day, low, high, january, december, first, last⟩ := dateOf_spec within
  have shows {a v width : Nat} (two : v < 100) (fits : toBcd v < 2 ^ width)
      (mem : (a, BitVec.ofNat 32 (toBcd v)) ∈ calWordsOf (n % calSeconds)) :
      ofBcd ((s.putCal n).fld a ⟨0, width⟩) = v := by
    rw [State.fld, State.rd_putCal sound n mem]
    exact ofBcd_fldOf two fits
  have fits {v : Nat} : toBcd v ≤ v / 10 * 16 + 9 := by simp only [toBcd]; omega
  generalize n % calSeconds = i at *
  have second := shows (a := R.RTC_SEC) (width := 7) (v := i % 86400 % 60) (by omega)
    (Nat.lt_of_le_of_lt fits (by omega)) (by simp [calWordsOf])
  have minute := shows (a := R.RTC_MIN) (width := 7) (v := i % 86400 / 60 % 60) (by omega)
    (Nat.lt_of_le_of_lt fits (by omega)) (by simp [calWordsOf])
  have hour := shows (a := R.RTC_HOUR) (width := 6) (v := i % 86400 / 3600) (by omega)
    (Nat.lt_of_le_of_lt fits (by omega)) (by simp [calWordsOf])
  have dayOf := shows (a := R.RTC_DAY) (width := 6) (v := d) (by omega)
    (Nat.lt_of_le_of_lt fits (by omega)) (by simp [calWordsOf, date])
  have month := shows (a := R.RTC_MON) (width := 5) (v := m) (by omega)
    (Nat.lt_of_le_of_lt fits (by omega)) (by simp [calWordsOf, date])
  have year := shows (a := R.RTC_YEAR) (width := 8) (v := y % 100) (by omega)
    (Nat.lt_of_le_of_lt fits (by omega)) (by simp [calWordsOf, date])
  have century := shows (a := R.RTC_CENT) (width := 8) (v := y / 100) (by omega)
    (Nat.lt_of_le_of_lt fits (by omega)) (by simp [calWordsOf, date])
  have wholeYear : y / 100 * 100 + y % 100 = y := Nat.div_add_mod' ..
  simp only [State.cal, F.RTC_SEC_SEC, F.RTC_MIN_MIN, F.RTC_HOUR_HOUR, F.RTC_DAY_DAY, F.RTC_MON_MON, F.RTC_YEAR_YEAR,
    F.RTC_CENT_CENT, second, minute, hour, dayOf, month, year, century, wholeYear, day, secondsOf]
  omega

theorem State.dow_putCal : (s.putCal n).fld R.RTC_DOW F.RTC_DOW_DOW = dowOf (n % calSeconds / 86400) := by
  have word : (s.putCal n).rd R.RTC_DOW = _ := State.rd_putCal sound n (v := BitVec.ofNat 32 (dowOf (n % calSeconds / 86400)))
    (by simp [calWordsOf])
  rw [State.fld, word]
  simp only [fldOf, F.RTC_DOW_DOW, dowOf, BitVec.toNat_ofNat]
  omega

end

end Sys2Proof.Machine
end

section
/-! SUPPORT. Tables that nothing keeps in canonical form, and the reset of a block of registers. -/

namespace Sys2Proof.Machine

section
variable {α : Type} [DecidableEq α] {d : Nat → α} {m : List (Nat × α)} {j k : Nat} {v : α}

/-- A value that is not the default is read back from any table. -/
theorem tabGet_tabSet_listed (listed : v ≠ d k) : tabGet d (tabSet d m k v) k = v := by
  induction m with
  | nil => simp [tabSet, tabGet, listed]
  | cons e m ih =>
    obtain ⟨k', w⟩ := e
    by_cases below : k < k'
    · simp [tabSet, tabGet, below, listed]
    · by_cases here : k = k'
      · simp [tabSet, tabGet, here, show v ≠ d k' from here ▸ listed]
      · simp [tabSet, tabGet, below, here, ih]

/-- Its write leaves every other key alone. -/
theorem tabGet_tabSet_listed_ne (listed : v ≠ d k) (other : j ≠ k) : tabGet d (tabSet d m k v) j = tabGet d m j := by
  induction m with
  | nil => simp [tabSet, tabGet, listed, other]
  | cons e m ih =>
    obtain ⟨k', w⟩ := e
    by_cases below : k < k'
    · by_cases before : j < k
      · have far : j < k' := Nat.lt_trans before below
        simp [tabSet, tabGet, below, listed, other, before, far, Nat.ne_of_lt far]
      · simp [tabSet, tabGet, below, listed, other, before]
    · by_cases here : k = k'
      · subst here
        simp [tabSet, tabGet, listed, other]
      · simp [tabSet, tabGet, below, here, ih]

/-- A key that does not read as the default goes on reading what it does, whatever is written above it. -/
theorem tabGet_tabSet_above (listed : tabGet d m j ≠ d j) (above : j < k) :
    tabGet d (tabSet d m k v) j = tabGet d m j := by
  induction m with
  | nil => exact absurd rfl listed
  | cons e m ih =>
    obtain ⟨k', w⟩ := e
    by_cases here : j = k'
    · subst here
      simp [tabSet, tabGet, Nat.lt_asymm above, Nat.ne_of_gt above]
    · by_cases before : j < k'
      · exact absurd (by simp [tabGet, here, before]) listed
      · have inside : k' < k := by omega
        have rest : tabGet d m j ≠ d j := by simpa [tabGet, here, before] using listed
        simp [tabSet, tabGet, Nat.lt_asymm inside, Nat.ne_of_gt inside, here, before, ih rest]

end

theorem mem_regReset {p : Nat → Bool} {m : RegFile} {a : Nat} {v : Word} (outside : p a = false) :
    (a, v) ∈ regReset p m ↔ (a, v) ∈ m := by
  induction m with
  | nil => exact Iff.rfl
  | cons e m ih =>
    obtain ⟨k, w⟩ := e
    by_cases inside : p k = true
    · have other : ¬ (a = k ∧ v = w) := fun same => Bool.false_ne_true ((outside.symm.trans (same.1 ▸ inside)))
      have other' {x : Word} : ¬ (a = k ∧ v = x) := fun same => Bool.false_ne_true ((outside.symm.trans (same.1 ▸ inside)))
      simp only [regReset, inside, if_true]
      split <;> simp [ih, other, other']
    · simp [regReset, inside, ih]

/-- A reset leaves the registers outside the block. -/
theorem tabGet_regReset {p : Nat → Bool} {m : RegFile} {a : Nat} (canonical : tabWf resetWord m = true)
    (outside : p a = false) : tabGet resetWord (regReset p m) a = tabGet resetWord m a := by
  by_cases listed : tabGet resetWord m a = resetWord a
  · rw [listed]
    by_contra other
    have mem := (mem_regReset outside).1 (mem_of_tabGet_ne other)
    exact other ((tabGet_of_mem canonical mem).symm.trans listed)
  · exact tabGet_of_mem (regReset_wfFrom canonical) ((mem_regReset outside).2 (mem_of_tabGet_ne listed))

theorem State.rd_resetRegs {s : State} (sound : s.sound = true) {p : Nat → Bool} {a : Nat} (outside : p a = false) :
    (s.resetRegs p).rd a = s.rd a := tabGet_regReset (State.sound.regs sound) outside

end Sys2Proof.Machine
end

section
/-! SUPPORT. Seconds, shadows and adjustments of the calendar (R300–R307). -/

namespace Sys2Proof.Machine

variable {s : State}

/-! ### What the operations leave -/

theorem State.clearWatermark_rtc (s : State) : s.clearWatermark.rtc = s.rtc := by
  unfold State.clearWatermark
  split
  · split <;> rfl
  · rfl

theorem State.clearWatermark_mor (s : State) : s.clearWatermark.mor = s.mor := by
  unfold State.clearWatermark
  split
  · split <;> rfl
  · rfl

theorem State.clearWatermark_within (s : State) : s.Within calendarParts markReg s.clearWatermark :=
  (State.Within.refl s).clearWatermark fun _ mark => mark

theorem not_markReg_of_block {a : Nat} (block : blockNo a = 0x400C) : ¬ markReg a := by
  rintro (rfl | rfl | rfl) <;> exact absurd block (by decide)

theorem not_markReg_of_calReg {a : Nat} (shown : calReg a) : ¬ markReg a := by
  obtain ⟨low, high⟩ := shown
  rintro (rfl | rfl | rfl) <;> exact absurd high (by decide)

/-- An event of CI0 changes, of the calendar, only the events kept while the node is off. -/
theorem State.raiseAon_rtc (s : State) (code source data : Nat) :
    ∃ away, (s.raiseAon code source data).rtc = { s.rtc with away := away } := by
  unfold State.raiseAon
  split
  · exact ⟨s.rtc.away, rfl⟩
  · exact ⟨_, rfl⟩

theorem State.setOsf_rtc (s : State) (cause : Nat) : ∃ away, (s.setOsf cause).rtc = { s.rtc with away := away } := by
  unfold State.setOsf
  dsimp only
  split
  · exact ⟨s.rtc.away, rfl⟩
  · exact State.raiseAon_rtc ..

theorem not_markReg_domain : ¬ markReg R.PWR_DOM := by
  rintro (same | same | same) <;> exact absurd same (by decide)

theorem not_calReg_domain : ¬ calReg R.PWR_DOM := fun shown => absurd shown.1 (by decide)

/-- Where the register of the domains stays, they have power as before. -/
theorem State.Within.powered {F : Parts} {p : Nat → Prop} {o s : State} (h : o.Within F p s) (sound : o.sound = true)
    (out : ¬ p R.PWR_DOM) (d : Nat) : s.powered d = o.powered d :=
  congrArg (fun w => BitVec.getLsbD w d) (h.rd sound out)

/-! ### Seconds (R300, R301) -/

theorem State.secondDue_iff : s.secondDue = true ↔
    (32768 : Int) ≤ ((s.now - s.rtc.secondAt) * 32768 / 1000000000 : Nat) + s.rtc.subOff := decide_eq_true_iff

theorem State.carrySecond_of_within (within : s.cal + 1 ≠ calSeconds) :
    s.carrySecond = (s.putCal (s.cal + 1)).wrapSub := if_neg within

theorem State.carrySecond_of_wrap (wraps : s.cal + 1 = calSeconds) :
    s.carrySecond = ((s.putCal (s.cal + 1)).wrapSub.setOsf 2).raiseAon 0x67 0 0 := if_pos wraps

theorem State.countMeasure_rtc (s : State) : s.countMeasure.rtc = s.rtc := by
  unfold State.countMeasure
  split <;> rfl

theorem State.countMeasure_mor (s : State) : s.countMeasure.mor = s.mor := by
  unfold State.countMeasure
  split <;> rfl

/-- What happens at a second boundary after the carry. -/
def State.secondEnds (s : State) : State :=
  let s := s.setRtc { s.rtc with set := s.rtc.set.map (fun x => (x.1, true)), dst := s.rtc.dst.map (fun x => (x.1, true)) }
  s.countMeasure.clearWatermark

theorem State.calSecond_eq (s : State) : s.calSecond = s.carrySecond.secondEnds := rfl

/-- A measurement counts the second, and the watermark may be cleared. -/
theorem State.secondEnds_within (s : State) :
    s.Within calendarParts (fun a => a = R.RTC_TRIMCMD ∨ markReg a) s.secondEnds :=
  (((State.Within.refl s).setRtc rfl).countMeasure (.inl rfl)).clearWatermark fun _ => .inr

theorem State.secondEnds_rtc (s : State) : s.secondEnds.rtc = { s.rtc with
    set := s.rtc.set.map (fun x => (x.1, true)), dst := s.rtc.dst.map (fun x => (x.1, true)) } :=
  (State.clearWatermark_rtc _).trans (State.countMeasure_rtc _)

theorem State.secondEnds_mor (s : State) : s.secondEnds.mor = s.mor :=
  (State.clearWatermark_mor _).trans (State.countMeasure_mor _)

/-- The calendar shows what the carry has put. -/
theorem State.cal_calSecond (sound : s.sound = true) : s.calSecond.cal = (s.cal + 1) % calSeconds := by
  have put : s.sound = true → (s.putCal (s.cal + 1)).sound = true := (State.putCal_keeps (.refl s)).sound
  have carried : (s.putCal (s.cal + 1)).Within calendarParts (· = R.RTC_TRUST) s.carrySecond :=
    have wrapped : (s.putCal (s.cal + 1)).Within calendarParts (· = R.RTC_TRUST) (s.putCal (s.cal + 1)).wrapSub :=
      (State.Within.refl _).setRtc rfl
    .ite (wrapped.setOsf rfl).raiseAon wrapped
  have second := s.carrySecond.secondEnds_within.writes.cal (carried.sound (put sound)) fun a shown other => by
    rcases other with rfl | mark
    · exact absurd shown.2 (by decide)
    · exact not_markReg_of_calReg shown mark
  have carry := carried.writes.cal (put sound) fun a shown (other : a = R.RTC_TRUST) => absurd (other ▸ shown.2) (by decide)
  exact second.trans (carry.trans (State.cal_putCal sound _))

/-- Where the calendar wraps, OSF sets. -/
theorem State.calSecond_OSF (wraps : s.cal + 1 = calSeconds) :
    s.Reads R.RTC_TRUST F.RTC_TRUST_OSF 1 s.calSecond := by
  have carried : s.Reads R.RTC_TRUST F.RTC_TRUST_OSF 1 s.carrySecond := by
    rw [State.carrySecond_of_wrap wraps]
    exact (State.Reads.setOsf (State.setRtc_keeps (State.putCal_keeps (.refl s))) 2).raiseAon
  exact carried.writesOnly s.carrySecond.secondEnds_within.writes fun other =>
    other.elim (fun same => absurd same (by decide)) (not_markReg_of_block rfl)

/-! ### Adjustments (R303–R307) -/

/-- What both outcomes of a condition leave, the condition leaves. -/
theorem State.part_ite {α : Type} {part : State → α} {c : Prop} [Decidable c] {t u : State} {x : α} (yes : part t = x)
    (no : part u = x) : part (if c then t else u) = x := by
  split <;> assumption

theorem State.raiseWatermark_rtc (s : State) (old : Nat) : (s.raiseWatermark old).rtc = s.rtc := rfl
theorem State.raiseWatermark_mor (s : State) (old : Nat) : (s.raiseWatermark old).mor = s.mor := rfl
theorem State.raiseWatermark_now (s : State) (old : Nat) : (s.raiseWatermark old).now = s.now := rfl

/-- The calendar set to its new reading, with the watermark where that is an earlier one. -/
def State.calMoved (s : State) (n sub : Nat) : State :=
  let t := (s.putCal n).putSub sub
  if t.calCounts < s.calCounts then t.raiseWatermark s.cal else t

theorem State.adjust_eq (s : State) (n sub src : Nat) : s.adjust n sub src = (s.calMoved n sub).raiseAon 0x60 src s.calBytes :=
  rfl

theorem State.calMoved_within (s : State) (n sub : Nat) :
    s.Within calendarParts (fun a => calReg a ∨ markReg a) (s.calMoved n sub) :=
  ((State.Within.refl s).putCal fun _ => .inl).putSub.thenIf fun h => h.raiseWatermark fun _ => .inr

/-- After the calendar is put, only the watermark is written. -/
theorem State.calMoved_marks (s : State) (n sub : Nat) : (s.putCal n).Within calendarParts markReg (s.calMoved n sub) :=
  (State.Within.refl (s.putCal n)).putSub.thenIf fun h => h.raiseWatermark fun _ mark => mark

theorem State.putCal_mor (s : State) (n : Nat) : (s.putCal n).mor = s.mor := rfl
theorem State.putCal_now (s : State) (n : Nat) : (s.putCal n).now = s.now := rfl

theorem State.putSub_mor (s : State) (n : Nat) : (s.putSub n).mor = s.mor := rfl
theorem State.putSub_now (s : State) (n : Nat) : (s.putSub n).now = s.now := rfl

theorem State.calMoved_rtc (s : State) (n sub : Nat) :
    (s.calMoved n sub).rtc = { s.rtc with secondAt := s.now, subOff := sub } :=
  have put : ((s.putCal n).putSub sub).rtc = { s.rtc with secondAt := s.now, subOff := sub } := rfl
  State.part_ite ((State.raiseWatermark_rtc ..).trans put) put

theorem State.calMoved_mor (s : State) (n sub : Nat) : (s.calMoved n sub).mor = s.mor :=
  have put := (State.putSub_mor (s.putCal n) sub).trans (s.putCal_mor n)
  State.part_ite ((State.raiseWatermark_mor ..).trans put) put

theorem State.calMoved_now (s : State) (n sub : Nat) : (s.calMoved n sub).now = s.now :=
  have put := (State.putSub_now (s.putCal n) sub).trans (s.putCal_now n)
  State.part_ite ((State.raiseWatermark_now ..).trans put) put

/-- What an adjustment leaves of the calendar's own state. -/
theorem State.adjust_rtc (s : State) (n sub src : Nat) : ∃ away, (s.adjust n sub src).rtc =
    { s.rtc with secondAt := s.now, subOff := sub, away := away } := by
  obtain ⟨away, kept⟩ := State.raiseAon_rtc (s.calMoved n sub) 0x60 src s.calBytes
  exact ⟨away, kept.trans (congrArg (fun r : Rtc => { r with away := away }) (s.calMoved_rtc n sub))⟩

theorem State.adjust_within (s : State) (n sub src : Nat) :
    s.Within calendarParts (fun a => calReg a ∨ markReg a) (s.adjust n sub src) :=
  (State.Within.refl s).adjust (fun _ => .inl) fun _ => .inr

theorem State.cal_adjust (sound : s.sound = true) (n sub src : Nat) : (s.adjust n sub src).cal = n % calSeconds := by
  have put : (s.putCal n).sound = true := (State.putCal_keeps (.refl s)).sound sound
  exact ((s.calMoved_marks n sub).raiseAon.writes.cal put fun _ => not_markReg_of_calReg).trans (State.cal_putCal sound n)

/-- While the node runs an adjustment is recorded at once, with the calendar as it was. -/
theorem State.adjust_triggers (sound : s.sound = true) (on : s.powered 1 = true) (n sub src : Nat) :
    (s.adjust n sub src).mor.triggers =
      insTrig ⟨s.now, 0x60, src, BitVec.ofNat 64 s.calBytes, false, none, none, none⟩ s.mor.triggers := by
  have power := ((s.calMoved_within n sub).powered sound
    (fun other => other.elim not_calReg_domain not_markReg_domain) 1).trans on
  rw [State.adjust_eq, State.raiseAon_of_on power, State.raise, State.raiseT, State.calMoved_now, State.calMoved_mor]
  rfl

end Sys2Proof.Machine
end

section
/-! SUPPORT. The power-up of PD0, and the adjustments that are applied (R301, R303–R307). -/

namespace Sys2Proof.Machine

variable {s : State}

/-! ### The power-up of PD0 (R301) -/

/-- PD0 with everything in its block reset and TRIM 0. -/
def State.blankRtc (s : State) : State :=
  let s := s.resetRegs inRtc
  let s := s.setRtc { rtcReset with trimRetained := s.rtc.trimRetained, xt32Bad := s.rtc.xt32Bad }
  s.wr R.RTC_TRIM 0

/-- PD0 after its power-up, before OSF sets. -/
def State.poweredUp (s : State) : State :=
  ((s.blankRtc.putCal 0).putSub 0).setFlag R.RTC_TRUST F.RTC_TRUST_OSF false

theorem exec_pd0PowerUp (s : State) (t : Time) : exec (.pd0PowerUp t) s = .next ((s.atTime t).poweredUp.setOsf 0) := rfl

theorem State.blankRtc_keeps (s : State) : Keeps s s.blankRtc :=
  State.wr_keeps (State.setRtc_keeps (State.resetRegs_keeps (.refl s)))

theorem State.poweredUp_keeps (s : State) : Keeps s s.poweredUp :=
  State.setFlag_keeps (State.putSub_keeps (State.putCal_keeps s.blankRtc_keeps))

theorem State.poweredUp_mor (s : State) : s.poweredUp.mor = s.mor :=
  (State.setFlag_mor ..).trans ((State.putSub_mor ..).trans (s.blankRtc.putCal_mor 0))

theorem State.poweredUp_now (s : State) : s.poweredUp.now = s.now :=
  (State.setFlag_now ..).trans ((State.putSub_now ..).trans (s.blankRtc.putCal_now 0))

/-- After the calendar is put, only the trust is written. -/
theorem State.poweredUp_within (s : State) :
    (s.blankRtc.putCal 0).Within calendarParts (· = R.RTC_TRUST) s.poweredUp :=
  (State.Within.refl (s.blankRtc.putCal 0)).putSub.setFlag rfl

/-- TRIM, and what stands outside the block, is written no more. -/
theorem State.poweredUp_writes (s : State) :
    s.blankRtc.Within calendarParts (fun a => calReg a ∨ a = R.RTC_TRUST) (s.poweredUp.setOsf 0) :=
  ((((State.Within.refl s.blankRtc).putCal fun _ => .inl).putSub).setFlag (.inr rfl)).setOsf (.inr rfl)

section
variable (sound : s.sound = true)
include sound

theorem State.rd_blankRtc {a : Nat} (outside : blockNo a ≠ 0x400C) : s.blankRtc.rd a = s.rd a := by
  have reset : (s.resetRegs inRtc).rd a = s.rd a := State.rd_resetRegs sound (by simp [inRtc, outside])
  have other : a ≠ R.RTC_TRIM := fun same => outside (same ▸ rfl)
  exact (State.rd_wr_ne ((State.setRtc_keeps (State.resetRegs_keeps (.refl s))).sound sound) other).trans reset

theorem State.poweredUp_rd {a : Nat} (outside : blockNo a ≠ 0x400C) : (s.poweredUp.setOsf 0).rd a = s.rd a := by
  refine (s.poweredUp_writes.rd (s.blankRtc_keeps.sound sound) ?_).trans (State.rd_blankRtc sound outside)
  rintro (⟨low, high⟩ | rfl)
  · simp only [R.RTC_SEC, R.RTC_CENT] at low high
    exact outside (by unfold blockNo; omega)
  · exact outside rfl

theorem State.poweredUp_TRIM : (s.poweredUp.setOsf 0).rd R.RTC_TRIM = 0 := by
  refine (s.poweredUp_writes.rd (s.blankRtc_keeps.sound sound) ?_).trans
    (State.rd_wr_same ((State.setRtc_keeps (State.resetRegs_keeps (.refl s))).sound sound))
  rintro (⟨-, high⟩ | same)
  · exact absurd high (by decide)
  · exact absurd same (by decide)

theorem State.cal_poweredUp : (s.poweredUp.setOsf 0).cal = 0 := by
  have put := (State.putCal_keeps (n := 0) s.blankRtc_keeps).sound sound
  refine ((s.poweredUp_within.setOsf rfl).writes.cal put fun a shown (same : a = R.RTC_TRUST) => ?_).trans
    (State.cal_putCal (s.blankRtc_keeps.sound sound) 0)
  exact absurd (same ▸ shown.2) (by decide)

/-- OSF sets where it was clear: E62 while the node runs. -/
theorem State.setOsf_triggers (clear : s.flag R.RTC_TRUST F.RTC_TRUST_OSF = false) (on : s.powered 1 = true) (cause : Nat) :
    (s.setOsf cause).mor.triggers =
      insTrig ⟨s.now, 0x62, cause, 0, false, none, none, none⟩ s.mor.triggers := by
  have set : s.Within calendarParts (· = R.RTC_TRUST) (s.setFlag R.RTC_TRUST F.RTC_TRUST_OSF true).putTrust :=
    ((State.Within.refl (p := (· = R.RTC_TRUST)) s).setFlag rfl).putTrust rfl
  have power := (set.powered sound (by decide) 1).trans on
  have raised : s.setOsf cause = (s.setFlag R.RTC_TRUST F.RTC_TRUST_OSF true).putTrust.raise 0x62 cause 0 :=
    (if_neg (by simp [clear])).trans (State.raiseAon_of_on power ..)
  rw [raised]
  rfl

theorem State.poweredUp_triggers (on : s.powered 1 = true) : (s.poweredUp.setOsf 0).mor.triggers =
    insTrig ⟨s.now, 0x62, 0, 0, false, none, none, none⟩ s.mor.triggers := by
  have clear : s.poweredUp.flag R.RTC_TRUST F.RTC_TRUST_OSF = false :=
    State.flag_setFlag_same ((State.putSub_keeps (State.putCal_keeps s.blankRtc_keeps)).sound sound) (by decide) (by decide)
  have blank : s.blankRtc.powered 1 = s.powered 1 :=
    congrArg (fun w => BitVec.getLsbD w 1) (State.rd_blankRtc sound (by decide))
  have put : s.blankRtc.Within calendarParts (fun a => calReg a ∨ a = R.RTC_TRUST) s.poweredUp :=
    (((State.Within.refl s.blankRtc).putCal fun _ => .inl).putSub).setFlag (.inr rfl)
  have power := (put.powered (s.blankRtc_keeps.sound sound)
    (fun other => other.elim not_calReg_domain (by decide)) 1).trans (blank.trans on)
  rw [State.setOsf_triggers (s.poweredUp_keeps.sound sound) clear power, State.poweredUp_mor, State.poweredUp_now]

end

/-! ### The adjustments that are due (R306) -/

theorem State.applyAdjust_of_set {m : Nat} {b : Bool} (due : m = 2 ∨ b = true) (set : s.rtc.set = some (m, b)) :
    s.applyAdjust = (s.applySet m).clearWatermark := by
  have now : (m == 2 || b) = true := by rcases due with due | due <;> simp [due]
  simp [State.applyAdjust, set, now]

theorem State.applyAdjust_of_dst {b : Bool} (unset : s.rtc.set = none) (dst : s.rtc.dst = some (b, true))
    (still : (s.applyDst b).rtc.shift = none) : s.applyAdjust = (s.applyDst b).clearWatermark := by
  simp [State.applyAdjust, unset, dst, still]

theorem State.applyAdjust_of_shift {neg : Bool} {c : Nat} (unset : s.rtc.set = none) (dst : s.rtc.dst = none)
    (shift : s.rtc.shift = some (neg, c)) : s.applyAdjust = (s.applyShift neg c).clearWatermark := by
  simp [State.applyAdjust, unset, dst, shift]

theorem State.applyAdjust_of_none (unset : s.rtc.set = none) (dst : s.rtc.dst = none) (shift : s.rtc.shift = none)
    (unmarked : s.flag R.REC_STAT F.REC_STAT_REGW = false) : s.applyAdjust = s := by
  simp [State.applyAdjust, unset, dst, shift, State.clearWatermark, State.watermark, unmarked]

/-- The registers that show what is pending, and the trust. -/
def pendingReg (a : Nat) : Prop := a = R.RTC_SET ∨ a = R.RTC_SHIFT ∨ a = R.RTC_DST ∨ a = R.RTC_TRUST

theorem not_pendingReg_of_calReg {a : Nat} (shown : calReg a) : ¬ pendingReg a := by
  obtain ⟨-, high⟩ := shown
  rintro (rfl | rfl | rfl | rfl) <;> exact absurd high (by decide)

/-- Nothing is pending any more, and OSF clears. -/
def State.unpended (s : State) : State :=
  let s := s.setRtc { s.rtc with set := none, shift := none, dst := none }
  let s := ((s.setFlag R.RTC_SET F.RTC_SET_PEND false).setFlag R.RTC_SHIFT F.RTC_SHIFT_PEND false).setFlag R.RTC_DST
    F.RTC_DST_PEND false
  (s.setFlag R.RTC_TRUST F.RTC_TRUST_OSF false).putTrust

/-- The set is applied. -/
theorem State.applySet_of_staged {n m : Nat} (staged : s.staged = some n) :
    s.applySet m = (s.adjust n 0 (m - 1)).unpended := by
  simp only [State.applySet, staged, State.unpended]

/-- The change of summer time is done. -/
def State.dstDone (s : State) (forward : Bool) : State :=
  ((s.setRtc { s.rtc with dst := none }).setFlag R.RTC_DST F.RTC_DST_PEND false).setFlag R.RTC_DST F.RTC_DST_ST forward

theorem State.applyDst_eq (s : State) (forward : Bool) : s.applyDst forward =
    (s.adjust (if forward then s.cal + 3600 else s.cal + calSeconds - 3600) s.rtcSub (if forward then 2 else 3)).dstDone
      forward := rfl

/-- The shift is done. -/
def State.shiftDone (s : State) : State :=
  (s.setRtc { s.rtc with shift := none }).setFlag R.RTC_SHIFT F.RTC_SHIFT_PEND false

/-- The counts that a shift leaves. -/
def State.shiftedCounts (s : State) (neg : Bool) (count : Nat) : Nat :=
  if neg then s.calCounts + calSeconds * 32768 - count else s.calCounts + count

theorem State.applyShift_eq (s : State) (neg : Bool) (count : Nat) : s.applyShift neg count =
    (s.adjust (s.shiftedCounts neg count / 32768) (s.shiftedCounts neg count % 32768) 4).shiftDone := rfl

theorem State.unpended_within (s : State) : s.Within calendarParts pendingReg s.unpended :=
  ((((((State.Within.refl s).setRtc rfl).setFlag (.inl rfl)).setFlag (.inr (.inl rfl))).setFlag (.inr (.inr (.inl rfl)))).setFlag
    (.inr (.inr (.inr rfl)))).putTrust (.inr (.inr (.inr rfl)))

theorem State.dstDone_within (s : State) (forward : Bool) : s.Within calendarParts pendingReg (s.dstDone forward) :=
  (((State.Within.refl s).setRtc rfl).setFlag (.inr (.inr (.inl rfl)))).setFlag (.inr (.inr (.inl rfl)))

theorem State.shiftDone_within (s : State) : s.Within calendarParts pendingReg s.shiftDone :=
  ((State.Within.refl s).setRtc rfl).setFlag (.inr (.inl rfl))

theorem State.unpended_rtc (s : State) : s.unpended.rtc = { s.rtc with set := none, shift := none, dst := none } := rfl
theorem State.unpended_mor (s : State) : s.unpended.mor = s.mor := rfl
theorem State.dstDone_rtc (s : State) (forward : Bool) : (s.dstDone forward).rtc = { s.rtc with dst := none } := rfl
theorem State.shiftDone_rtc (s : State) : s.shiftDone.rtc = { s.rtc with shift := none } := rfl

/-- After an adjustment only what is pending and the watermark are written: the calendar shows its new reading. -/
theorem State.cal_adjusted (sound : s.sound = true) {n sub src : Nat} {u : State}
    (done : (s.adjust n sub src).Within calendarParts pendingReg u) : u.clearWatermark.cal = n % calSeconds := by
  have adjusted := (s.adjust_within n sub src).sound sound
  calc u.clearWatermark.cal = u.cal :=
        u.clearWatermark_within.writes.cal (done.sound adjusted) fun _ => not_markReg_of_calReg
    _ = (s.adjust n sub src).cal := done.writes.cal adjusted fun _ => not_pendingReg_of_calReg
    _ = n % calSeconds := State.cal_adjust sound n sub src

/-- A field of the calendar's block keeps what it reads when the watermark is cleared. -/
theorem State.Reads.unmarked {o : State} {a v : Nat} {f : Fld} (h : o.Reads a f v s) (block : blockNo a = 0x400C) :
    o.Reads a f v s.clearWatermark := h.writesOnly s.clearWatermark_within.writes (not_markReg_of_block block)

/-- No field shows anything pending, and OSF is clear. -/
theorem State.unpended_shows {o : State} (keeps : Keeps o s) :
    o.Reads R.RTC_SET F.RTC_SET_PEND false.toNat s.unpended ∧ o.Reads R.RTC_SHIFT F.RTC_SHIFT_PEND false.toNat s.unpended ∧
    o.Reads R.RTC_DST F.RTC_DST_PEND false.toNat s.unpended ∧ o.Reads R.RTC_TRUST F.RTC_TRUST_OSF false.toNat s.unpended := by
  have set := State.Reads.setBit (a := R.RTC_SET) (f := F.RTC_SET_PEND) (c := false)
    (State.setRtc_keeps (x := { s.rtc with set := none, shift := none, dst := none }) keeps) (by decide) (by decide)
  have shift := State.Reads.setBit (a := R.RTC_SHIFT) (f := F.RTC_SHIFT_PEND) (c := false) set.keeps (by decide) (by decide)
  have dst := State.Reads.setBit (a := R.RTC_DST) (f := F.RTC_DST_PEND) (c := false) shift.keeps (by decide) (by decide)
  have trust := State.Reads.setBit (a := R.RTC_TRUST) (f := F.RTC_TRUST_OSF) (c := false) dst.keeps (by decide) (by decide)
  exact ⟨(((set.setFlag (by decide)).setFlag (by decide)).setFlag (by decide)).setFld (by decide),
    ((shift.setFlag (by decide)).setFlag (by decide)).setFld (by decide), (dst.setFlag (by decide)).setFld (by decide),
    trust.putTrust (by decide)⟩

theorem State.dstDone_ST {o : State} (keeps : Keeps o s) (forward : Bool) :
    o.Reads R.RTC_DST F.RTC_DST_ST forward.toNat (s.dstDone forward) :=
  .setBit (State.setFlag_keeps (State.setRtc_keeps keeps)) (by decide) (by decide)

theorem State.shiftDone_PEND {o : State} (keeps : Keeps o s) :
    o.Reads R.RTC_SHIFT F.RTC_SHIFT_PEND false.toNat s.shiftDone :=
  .setBit (State.setRtc_keeps keeps) (by decide) (by decide)

end Sys2Proof.Machine
end

section
/-! SUPPORT. Shadows of the calendar's readers (R302). -/

namespace Sys2Proof.Machine

variable {s : State} {p : Option Port}

/-- The frozen words stand in the order of their registers. -/
theorem State.calWords_getD {i : Nat} (last : i ≤ 7) : s.calWords.getD i 0 = s.view (R.RTC_SEC + 4 * i) := by
  interval_cases i <;> rfl

/-- A reader with a frozen shadow sees it. -/
theorem State.calFor_of_held {i : Nat} {t : Time} (first : 1 ≤ i) (last : i ≤ 7) {u : State}
    (held : tabGet (dflt none) u.rtc.shadows (readerNo p) = some (s.calWords, t)) :
    u.calFor p (R.RTC_SEC + 4 * i) = s.view (R.RTC_SEC + 4 * i) := by
  have other : ¬ R.RTC_SEC + 4 * i = R.RTC_SEC := by omega
  have index : (R.RTC_SEC + 4 * i - R.RTC_SEC) / 4 = i := by omega
  simp only [State.calFor, other, if_false, held, index]
  exact State.calWords_getD last

theorem exec_rtcShadowTimeout_of_held {l : List Word} {t : Time}
    (held : tabGet (dflt none) s.rtc.shadows (readerNo p) = some (l, t)) :
    exec (.rtcShadowTimeout p) s = .next ((s.atTime (t + sec)).releaseCal p) := by
  change execRtcShadowTimeout p s = _
  simp only [execRtcShadowTimeout, held]

theorem exec_rtcShadowTimeout_of_free (free : tabGet (dflt none) s.rtc.shadows (readerNo p) = none) :
    exec (.rtcShadowTimeout p) s = .next s := by
  change execRtcShadowTimeout p s = _
  simp only [execRtcShadowTimeout, free]

end Sys2Proof.Machine
end

section
/-! PROOF. The calendar: its seconds and shadows, and its adjustments. -/

open Sys2Proof Sys2Proof.Machine

namespace Sys2Proof.Proofs

theorem calendarCounts : Clauses.CalendarCounts := by
  intro s₀ p n i t sound s
  have good : s.sound = true := (State.atTime_keeps (.refl s₀)).sound sound
  refine ⟨?put, ⟨?early, ?second, ?wrap⟩, ?powerUp, ?frozen, rfl, ?timeout, ?unheld⟩
  case put =>
    intro within
    have whole : n % calSeconds = n := Nat.mod_eq_of_lt within
    exact ⟨(State.cal_putCal sound n).trans whole,
      (State.dow_putCal sound n).trans (congrArg (fun i => dowOf (i / 86400)) whole)⟩
  case early =>
    exact fun early => congrArg Host.Outcome.next (if_neg fun due => Int.not_le.2 early (State.secondDue_iff.1 due))
  case second =>
    intro due within
    have carried : s.carrySecond = (s.putCal (s.cal + 1)).wrapSub := State.carrySecond_of_within (Nat.ne_of_lt within)
    have rtc := State.secondEnds_rtc s.carrySecond
    refine ⟨s.calSecond, congrArg Host.Outcome.next (if_pos (State.secondDue_iff.2 due)),
      (State.cal_calSecond good).trans (Nat.mod_eq_of_lt within), ?_, ?_, ?_⟩
    · rw [State.calSecond_eq, rtc, carried]
      rfl
    · rw [State.calSecond_eq, rtc, carried]
      rfl
    · rw [State.calSecond_eq, State.secondEnds_mor, carried]
      rfl
  case wrap =>
    intro due wraps
    refine ⟨s.calSecond, congrArg Host.Outcome.next (if_pos (State.secondDue_iff.2 due)),
      (State.cal_calSecond good).trans ?_, (State.calSecond_OSF wraps).flag good⟩
    rw [wraps, Nat.mod_self]
  case powerUp =>
    obtain ⟨away, rtc⟩ := s.poweredUp.setOsf_rtc 0
    exact ⟨_, exec_pd0PowerUp s₀ t, State.cal_poweredUp good,
      (State.Reads.setOsf s.poweredUp_keeps 0).flag good, State.poweredUp_TRIM good, by rw [rtc]; rfl,
      State.poweredUp_triggers good, fun a outside => State.poweredUp_rd good outside⟩
  case frozen =>
    have listed : some (s.calWords, s.now) ≠ (dflt none : Nat → Option (List Word × Time)) (readerNo p) :=
      Option.some_ne_none _
    exact ⟨_, rfl, rfl, fun first last => State.calFor_of_held first last (tabGet_tabSet_listed listed),
      fun q other => tabGet_tabSet_listed_ne listed other⟩
  case timeout => exact fun l t0 held => exec_rtcShadowTimeout_of_held held
  case unheld => exact exec_rtcShadowTimeout_of_free

theorem calendarAdjustments : Clauses.CalendarAdjustments := by
  intro s₀ p neg k m n c b t s pendSet pendDst
  have good (sound : s₀.sound = true) : s.sound = true := (State.atTime_keeps (.refl s₀)).sound sound
  refine ⟨?impossible, ?staged, ?shift, ?shifting, ?noShift, ?summer, ?winter, ?set, ?change, ?shifted, ?idle⟩
  case impossible =>
    intro impossible
    have refused (mode : Nat) : s₀.commandSet mode = s₀.answer .range := by simp only [State.commandSet, impossible]
    exact ⟨congrArg Host.Outcome.next (refused 1), congrArg Host.Outcome.next (refused 2)⟩
  case staged =>
    intro staged
    have pends (mode : Nat) : s₀.commandSet mode = pendSet s₀ mode := by simp only [State.commandSet, staged, pendSet]
    exact ⟨congrArg Host.Outcome.next (pends 1), congrArg Host.Outcome.next (pends 2)⟩
  case shift =>
    intro free some
    exact congrArg Host.Outcome.next ((if_neg (by simp [free])).trans (if_neg (Nat.ne_of_gt some)))
  case shifting => exact fun pending => congrArg Host.Outcome.next (if_pos (Option.isSome_iff_ne_none.2 pending))
  case noShift => exact fun free => congrArg Host.Outcome.next ((if_neg (by simp [free])).trans (if_pos rfl))
  case summer =>
    intro summer
    exact ⟨congrArg Host.Outcome.next (if_pos (beq_iff_eq.2 summer)), fun free =>
      congrArg Host.Outcome.next ((if_neg (by simp [summer])).trans (if_neg (by simp [free])))⟩
  case winter =>
    intro winter
    exact ⟨congrArg Host.Outcome.next (if_pos (beq_iff_eq.2 winter)), fun free =>
      congrArg Host.Outcome.next ((if_neg (by simp [winter])).trans (if_neg (by simp [free])))⟩
  case set =>
    intro sound due set staged within
    have applied : s.applyAdjust = (s.adjust n 0 (m - 1)).unpended.clearWatermark :=
      (State.applyAdjust_of_set due set).trans (congrArg _ (State.applySet_of_staged staged))
    have cleared := (State.clearWatermark_rtc (s.adjust n 0 (m - 1)).unpended).trans (State.unpended_rtc _)
    obtain ⟨noSet, noShift, noDst, trusted⟩ := State.unpended_shows (s.adjust_within n 0 (m - 1)).writes.keeps
    refine ⟨_, congrArg Host.Outcome.next applied, ?_, by rw [cleared], by rw [cleared], by rw [cleared],
      (noSet.unmarked rfl).flag_toNat (good sound), (noShift.unmarked rfl).flag_toNat (good sound),
      (noDst.unmarked rfl).flag_toNat (good sound), (trusted.unmarked rfl).flag_toNat (good sound), fun on => ?_⟩
    · exact (State.cal_adjusted (good sound) (State.unpended_within _)).trans (Nat.mod_eq_of_lt within)
    · rw [State.clearWatermark_mor, State.unpended_mor, State.adjust_triggers (good sound) on]
  case change =>
    intro sound unset dst shift
    have still : (s.applyDst b).rtc.shift = none := by
      obtain ⟨away, adjusted⟩ := s.adjust_rtc (if b then s.cal + 3600 else s.cal + calSeconds - 3600) s.rtcSub
        (if b then 2 else 3)
      rw [State.applyDst_eq, State.dstDone_rtc, adjusted]
      exact shift
    have applied := (State.applyAdjust_of_dst unset dst still).trans (congrArg _ (s.applyDst_eq b))
    exact ⟨_, congrArg Host.Outcome.next applied, by rw [State.clearWatermark_rtc, State.dstDone_rtc],
      ((State.dstDone_ST (s.adjust_within _ _ _).writes.keeps b).unmarked rfl).flag_toNat (good sound),
      State.cal_adjusted (good sound) (State.dstDone_within _ b)⟩
  case shifted =>
    intro sound unset dst shift
    have applied := (State.applyAdjust_of_shift unset dst shift).trans (congrArg _ (s.applyShift_eq neg c))
    obtain ⟨away, adjusted⟩ := s.adjust_rtc (s.shiftedCounts neg c / 32768) (s.shiftedCounts neg c % 32768) 4
    have rtc := (State.clearWatermark_rtc (s.adjust (s.shiftedCounts neg c / 32768) (s.shiftedCounts neg c % 32768)
      4).shiftDone).trans (State.shiftDone_rtc _)
    refine ⟨_, congrArg Host.Outcome.next applied, by rw [rtc], ?_, ?_, by rw [rtc, adjusted]⟩
    · exact ((State.shiftDone_PEND (s.adjust_within _ _ _).writes.keeps).unmarked rfl).flag_toNat (good sound)
    · rw [State.cal_adjusted (good sound) (State.shiftDone_within _), rtc, adjusted]
      change _ = s.shiftedCounts neg c % (calSeconds * 32768)
      rw [Int.toNat_natCast, Nat.mul_comm calSeconds, Nat.mod_mul]
      omega
  case idle => exact fun unset dst shift unmarked => congrArg Host.Outcome.next (State.applyAdjust_of_none unset dst shift unmarked)

end Sys2Proof.Proofs
end

section
/-! SUPPORT. Trim: its register, and the measurements of it (R308, R309, R317). -/

namespace Sys2Proof.Machine

variable {s o : State}

/-- An open lock stays open when a register above it is written. -/
theorem State.lockOpen_setFlag (opened : s.lockOpen = true) {a : Nat} (above : R.SYS_LOCK < a) (f : Fld) (b : Bool) :
    (s.setFlag a f b).lockOpen = true := by
  have listed : s.rd R.SYS_LOCK ≠ resetWord R.SYS_LOCK := fun reset =>
    absurd opened (by simp only [State.lockOpen, State.flag, State.fld, reset]; decide)
  have kept : (s.setFlag a f b).rd R.SYS_LOCK = s.rd R.SYS_LOCK := tabGet_tabSet_above listed above
  exact (congrArg (fun w => fldOf F.SYS_LOCK_OPEN w != 0) kept).trans opened

/-- The test of the lock that the commands begin with. -/
theorem State.not_closed (opened : s.lockOpen = true) : ¬ (!s.lockOpen) = true := by simp [opened]

theorem State.is_closed (closed : s.lockOpen = false) : (!s.lockOpen) = true := by simp [closed]

/-! ### Measurements -/

theorem State.cutMeasure_of_none (none : s.rtc.measure = none) (res : Nat) : s.cutMeasure res = s := if_neg (by simp [none])

theorem State.cutMeasure_of_some (some : s.rtc.measure ≠ none) (res : Nat) :
    s.cutMeasure res = s.freshWord.2.endMeasure res s.freshWord.1.toInt := if_pos (Option.isSome_iff_ne_none.2 some)

/-- The end of a measurement, before it is recorded. -/
def State.trimEnds (s : State) (res : Nat) : State :=
  ((s.setRtc { s.rtc with measure := none }).setFlag R.RTC_TRIMCMD F.RTC_TRIMCMD_BUSY false).setFld R.RTC_TRIMCMD
    F.RTC_TRIMCMD_RES res

theorem State.endMeasure_eq (s : State) (res : Nat) (e : Int) : s.endMeasure res e =
    (s.trimEnds res).raiseAon 0x65 res (unsignOf 32 e + 2 ^ 32 * unsignOf 16 (s.trimEnds res).trim) := rfl

theorem State.endMeasure_measure (s : State) (res : Nat) (e : Int) : (s.endMeasure res e).rtc.measure = none := by
  obtain ⟨away, rtc⟩ := (s.trimEnds res).raiseAon_rtc 0x65 res (unsignOf 32 e + 2 ^ 32 * unsignOf 16 (s.trimEnds res).trim)
  rw [State.endMeasure_eq, rtc]
  rfl

theorem State.endMeasure_BUSY (keeps : Keeps o s) (res : Nat) (e : Int) :
    o.Reads R.RTC_TRIMCMD F.RTC_TRIMCMD_BUSY false.toNat (s.endMeasure res e) :=
  have cleared := State.Reads.setBit (a := R.RTC_TRIMCMD) (f := F.RTC_TRIMCMD_BUSY) (c := false)
    (State.setRtc_keeps (x := { s.rtc with measure := none }) keeps) (by decide) (by decide)
  (cleared.setFld (g := F.RTC_TRIMCMD_RES) (w := res) (by decide)).raiseAon

theorem State.endMeasure_RES (keeps : Keeps o s) {res : Nat} (small : res < 8) (e : Int) :
    o.Reads R.RTC_TRIMCMD F.RTC_TRIMCMD_RES res (s.endMeasure res e) :=
  (State.Reads.set (a := R.RTC_TRIMCMD) (f := F.RTC_TRIMCMD_RES) (State.setFlag_keeps (b := false)
    (f := F.RTC_TRIMCMD_BUSY) (a := R.RTC_TRIMCMD) (State.setRtc_keeps (x := { s.rtc with measure := none }) keeps))
    small (by decide)).raiseAon

/-- Another register stays. -/
theorem State.Reads.endMeasure {a v : Nat} {f : Fld} (h : o.Reads a f v s) (other : R.RTC_TRIMCMD ≠ a) (res : Nat) (e : Int) :
    o.Reads a f v (s.endMeasure res e) :=
  ((h.setRtc.setFlag (.inl other)).setFld (.inl other)).raiseAon

theorem State.Reads.freshWord {a v : Nat} {f : Fld} (h : o.Reads a f v s) : o.Reads a f v s.freshWord.2 :=
  h.sameRegs (State.freshWord_keeps (.refl s)) rfl

/-! ### A measurement that has run its 1,000 s -/

/-- The error is shown. -/
def State.errorShown (s : State) (e : Int) : State := s.setSfld R.RTC_TRIMERR F.RTC_TRIMERR_ERR e

theorem State.errorShown_trim (sound : s.sound = true) (e : Int) : (s.errorShown e).trim = s.trim :=
  congrArg (signOf 13) (State.fld_wr_ne sound (by decide))

/-- Nothing ends where nothing is measured, before the 1,000 s have run, and while the reference is there. -/
theorem State.finishMeasure_of_none (none : s.rtc.measure = none) (lost : Bool) (e : Int) : s.finishMeasure lost e = s :=
  if_pos (by simp [none])

theorem State.finishMeasure_of_short (short : s.fld R.RTC_TRIMCMD F.RTC_TRIMCMD_SECS < 1000) (e : Int) :
    s.finishMeasure false e = s := by
  by_cases none : s.rtc.measure = none
  · exact State.finishMeasure_of_none none false e
  · simp [State.finishMeasure, none, short]

theorem State.finishMeasure_of_held (held : s.referenceLost = false) (e : Int) : s.finishMeasure true e = s := by
  by_cases none : s.rtc.measure = none
  · exact State.finishMeasure_of_none none true e
  · simp [State.finishMeasure, none, held]

theorem State.finishMeasure_of_lost (runs : s.rtc.measure ≠ none) (lost : s.referenceLost = true) (e : Int) :
    s.finishMeasure true e = s.freshWord.2.endMeasure 2 s.freshWord.1.toInt := by
  rw [← State.cutMeasure_of_some runs]
  simp [State.finishMeasure, runs, lost]

/-- With its reference, a measurement ends with its error, which corrects TRIM where TRIM can hold the correction. -/
theorem State.finishMeasure_of_full {e e' : Int} (sound : s.sound = true)
    (measured : s.rtc.measure = some false ∧ e' = e ∨ s.rtc.measure = some true ∧ s.hostError = some e')
    (full : 1000 ≤ s.fld R.RTC_TRIMCMD F.RTC_TRIMCMD_SECS) : s.finishMeasure false e =
      if s.trim - roundDiv e' 100 < -2559 ∨ 2559 < s.trim - roundDiv e' 100 then (s.errorShown e').endMeasure 4 e'
      else ((s.errorShown e').putTrim (s.trim - roundDiv e' 100)).endMeasure 1 e' := by
  have trim := State.errorShown_trim sound e'
  unfold State.errorShown at trim ⊢
  rcases measured with ⟨mains, rfl⟩ | ⟨host, error⟩
  · simp [State.finishMeasure, mains, Nat.not_lt.2 full, trim]
  · simp [State.finishMeasure, host, error, Nat.not_lt.2 full, trim]

section
variable {e : Int} (low : -2147483648 ≤ e) (high : e ≤ 2147483647)
include low high

theorem State.sfld_of_error {u : State} (sound : s.sound = true)
    (shown : s.Reads R.RTC_TRIMERR F.RTC_TRIMERR_ERR (unsignOf 32 e) u) : u.sfld R.RTC_TRIMERR F.RTC_TRIMERR_ERR = e :=
  (congrArg (signOf 32) (shown.read sound)).trans (signOf_unsignOf (k := 31) (by omega) (by omega))

end

theorem State.errorShown_reads (s : State) (e : Int) :
    s.Reads R.RTC_TRIMERR F.RTC_TRIMERR_ERR (unsignOf 32 e) (s.errorShown e) :=
  .set (.refl s) (unsignOf_lt 32 e) (by decide)

theorem State.Reads.putTrim {a v : Nat} {f : Fld} (h : o.Reads a f v s) (other : R.RTC_TRIM ≠ a) (y : Int) :
    o.Reads a f v (s.putTrim y) := (h.setSfld (.inl other)).setRtc

theorem State.putTrim_reads (keeps : Keeps o s) (y : Int) :
    o.Reads R.RTC_TRIM F.RTC_TRIM_TRIM (unsignOf 13 y) (s.putTrim y) :=
  (State.Reads.set keeps (unsignOf_lt 13 y) (by decide)).setRtc

theorem State.trim_of_put {u : State} {y : Int} (sound : s.sound = true) (low : -2559 ≤ y) (high : y ≤ 2559)
    (put : s.Reads R.RTC_TRIM F.RTC_TRIM_TRIM (unsignOf 13 y) u) : u.trim = y :=
  (congrArg (signOf 13) (put.read sound)).trans (signOf_unsignOf (k := 12) (by omega) (by omega))

theorem State.trim_of_kept {u : State} (sound : s.sound = true)
    (kept : s.Reads R.RTC_TRIM F.RTC_TRIM_TRIM (s.fld R.RTC_TRIM F.RTC_TRIM_TRIM) u) : u.trim = s.trim :=
  congrArg (signOf 13) (kept.read sound)

end Sys2Proof.Machine
end

section
/-! PROOF. Trim, and with it the calendar. -/

open Sys2Proof Sys2Proof.Machine

namespace Sys2Proof.Proofs

theorem calendarTrim : Clauses.CalendarTrim := by
  intro s₀ p v e e' b t s x stamp busy start a k full
  have good (sound : s₀.sound = true) : s.sound = true := (State.atTime_keeps (.refl s₀)).sound sound
  refine ⟨?due, ?idle, ?range, ?write, ?closed, ?busy, ?free, ?early, ?ends, ?lost, ?mains, ?kept⟩
  case due => exact fun due => congrArg Host.Outcome.next (if_pos due)
  case idle => exact fun idle => congrArg Host.Outcome.next (if_neg (by simp [idle]))
  case range => exact fun opened out => congrArg Host.Outcome.next ((if_neg (State.not_closed opened)).trans (if_pos out))
  case write =>
    intro opened low high none
    refine congrArg Host.Outcome.next ((if_neg (State.not_closed opened)).trans ((if_neg (by omega)).trans ?_))
    obtain ⟨away, rtc⟩ := (s.putTrim x).raiseAon_rtc 0x66 (unsignOf 16 s.trim) (unsignOf 16 x)
    exact congrArg (fun u : State => u.noteLk.answer .ok) (State.cutMeasure_of_none (by rw [rtc]; exact none) 3)
  case closed =>
    intro closed
    exact ⟨congrArg Host.Outcome.next (if_pos (State.is_closed closed)),
      congrArg Host.Outcome.next ((if_pos (.inl (State.is_closed closed))).trans (if_pos (State.is_closed closed))),
      congrArg Host.Outcome.next (if_pos (State.is_closed closed)), congrArg Host.Outcome.next (if_pos (State.is_closed closed))⟩
  case busy =>
    intro opened runs
    have running : s.rtc.measure.isSome = true := Option.isSome_iff_ne_none.2 runs
    have refused : s.startMeasure false = s.answer .busy := (if_neg (State.not_closed opened)).trans (if_pos running)
    refine ⟨congrArg Host.Outcome.next ((if_pos (.inr running)).trans refused),
      congrArg Host.Outcome.next ((if_neg (State.not_closed opened)).trans (if_pos running)), _,
      congrArg Host.Outcome.next (if_neg (State.not_closed opened)), ?_, rfl, fun sound => ?_⟩
    · rw [State.cutMeasure_of_some runs]
      exact State.endMeasure_measure ..
    · rw [State.cutMeasure_of_some runs]
      exact (State.endMeasure_RES (State.freshWord_keeps (.refl s)) (by decide) _).read (good sound)
  case free =>
    intro opened free
    have idle : s.rtc.measure.isSome = false := by simp [free]
    have starts {u : State} (host : Bool) (opened : u.lockOpen = true) (idle : u.rtc.measure.isSome = false) :
        u.startMeasure host = start u host := (if_neg (State.not_closed opened)).trans (if_neg (by simp [idle]))
    refine ⟨congrArg Host.Outcome.next (starts true opened idle), congrArg Host.Outcome.next ?_,
      congrArg Host.Outcome.next ((if_neg (State.not_closed opened)).trans ?_)⟩
    · refine Eq.trans (if_neg ?_)
        (starts false (State.lockOpen_setFlag opened (by decide) F.RTC_TRIMCMD_NOM b) idle)
      exact fun barred => barred.elim (State.not_closed opened) (fun runs => Bool.false_ne_true (idle.symm.trans runs))
    · exact congrArg (fun u : State => u.noteLk.answer .ok) (State.cutMeasure_of_none free 5)
  case early =>
    intro early
    rcases early with none | short
    · exact congrArg Host.Outcome.next (State.finishMeasure_of_none none false e)
    · exact congrArg Host.Outcome.next (State.finishMeasure_of_short (Nat.lt_of_not_le short) e)
  case ends =>
    intro sound measured full low high
    have error := s.errorShown_reads e'
    rw [show exec (.trimMeasureEnd false e t) s₀ = .next (s.finishMeasure false e) from rfl,
      State.finishMeasure_of_full (good sound) measured full]
    by_cases out : s.trim - roundDiv e' 100 < -2559 ∨ 2559 < s.trim - roundDiv e' 100
    · rw [if_pos out]
      refine ⟨_, rfl, State.endMeasure_measure .., (State.endMeasure_BUSY error.keeps 4 e').flag_toNat (good sound),
        State.sfld_of_error low high (good sound) (error.endMeasure (by decide) 4 e'), ?_⟩
      rintro y rfl
      have kept := (State.Reads.start s R.RTC_TRIM F.RTC_TRIM_TRIM).setSfld (b := R.RTC_TRIMERR)
        (g := F.RTC_TRIMERR_ERR) (x := e') (.inl (by decide))
      exact ⟨fun inside => absurd out (by omega), fun _ => ⟨State.trim_of_kept (good sound)
        (kept.endMeasure (by decide) 4 e'), (State.endMeasure_RES error.keeps (by decide) e').read (good sound)⟩⟩
    · rw [if_neg out]
      have put := State.putTrim_reads error.keeps (s.trim - roundDiv e' 100)
      refine ⟨_, rfl, State.endMeasure_measure .., (State.endMeasure_BUSY put.keeps 1 e').flag_toNat (good sound),
        State.sfld_of_error low high (good sound) ((error.putTrim (by decide) _).endMeasure (by decide) 1 e'), ?_⟩
      rintro y rfl
      exact ⟨fun inside => ⟨State.trim_of_put (good sound) inside.1 inside.2 (put.endMeasure (by decide) 1 e'),
        (State.endMeasure_RES put.keeps (by decide) e').read (good sound)⟩, fun outside => absurd outside out⟩
  case lost =>
    intro sound runs lost
    have drawn := State.freshWord_keeps (.refl s)
    exact ⟨_, congrArg Host.Outcome.next (State.finishMeasure_of_lost runs lost e), State.endMeasure_measure .., State.trim_of_kept (good sound)
      ((State.Reads.start s _ _).freshWord.endMeasure (by decide) 2 _), (State.endMeasure_RES drawn (by decide) _).read (good sound)⟩
  case mains =>
    intro mains
    simp [State.referenceLost, mains]
  case kept => exact fun held => congrArg Host.Outcome.next (State.finishMeasure_of_held held e)

/-- Settles O52: an instant put into the calendar's registers is read back (`State.cal_putCal`), and what comes after it
writes other registers; the trim by the cases of its operations. TRIM is 0 at the power-up of PD0 by log 3, a command of
summer time answers STATE before BUSY by log 38, and the error of a mains measurement is what is measured (log 81). -/
theorem calendar : Obligations.Calendar := ⟨calendarCounts, calendarAdjustments, calendarTrim⟩

end Sys2Proof.Proofs
end
